-- ==== Sys2Proof/Word.lean ====
section
/-! DEFINITION. The word types of the machine and their plainest readings (R3, R4, R6). -/

namespace Sys2Proof

/-- A 32-bit register, instruction word or PC (R52, R144, R147). -/
abbrev Word := BitVec 32

/-- One byte of memory (R4). -/
abbrev Byte := BitVec 8

/-- The 64-bit value whose high word is `hi` and low word `lo` (`hi : lo` of R6). -/
def pair64 (hi lo : Word) : BitVec 64 := hi ++ lo

/-- Bits [31:0] of a 64-bit value. -/
def lo32 (v : BitVec 64) : Word := v.extractLsb' 0 32

/-- Bits [63:32] of a 64-bit value. -/
def hi32 (v : BitVec 64) : Word := v.extractLsb' 32 32

/-- `fieldN n lo w`: bits [lo + w - 1 : lo] of the number `n` (`x[hi:lo]` of R6). -/
def fieldN (n lo w : Nat) : Nat := n / 2 ^ lo % 2 ^ w

/-- Bit `i` of the number `n`. -/
def bitN (n i : Nat) : Bool := n / 2 ^ i % 2 = 1

end Sys2Proof
end

