-- ==== Sys2Proof/Syntax.lean ====
section
/-! DEFINITION. The syntax: `Instr`, one constructor per row of spec/opcode_table.json.
The first 288 are the encoded instructions, with the fields of their words; the others are the machine's
steps that no word encodes (engines, network processor, scheduler, fabric, firmware), with the objects they
act on and the values the surroundings supply. -/

namespace Sys2Proof

/-- Why an ILL is raised (R148). -/
inductive IllReason where
  | unassigned | reserved | mode | context | operand | fetch
  deriving DecidableEq, Repr

/-- The device register pages that software reaches through strongly ordered leaves (R348). -/
inductive PageRef where
  /-- the translation control page of a world (R352) -/
  | trans (world : Nat)
  /-- the kick page of one launch queue (R331) -/
  | kick (world queue : Nat)
  /-- the world control page (R338) -/
  | control (world : Nat)
  /-- the NP world page (R388) -/
  | np (world : Nat)
  /-- the fabric world page (R406) -/
  | fabric (world : Nat)
  /-- the prefetch page (R437) -/
  | prefetch (world : Nat)
  /-- the channel table of a launch, by its handle, which lies in no address space: 16 bytes a channel (R65) -/
  | channels (world : Nat) (launch : Word)
  /-- the control page of one command ring (R425) -/
  | ring (world ring : Nat)
  /-- the Smibel debug window (R432) -/
  | debug (world : Nat)
  /-- the checkpoint control page (R396) -/
  | checkpoint
  deriving DecidableEq, Repr

/-- What an arriving RMA request asks for (R282, R408). -/
inductive RmaOp where
  /-- rput: bytes to place -/
  | put (bytes : List Byte)
  /-- rget: how many bytes are read -/
  | get (len : Nat)
  /-- ratom: the function number of R159 and its operands -/
  | atom (fn : Nat) (operand compare : BitVec 64)
  /-- rflush: nothing but the answer that earlier puts and atomics are placed (R285) -/
  | flush
  deriving DecidableEq, Repr

/-- One arriving RMA request packet (R408). -/
structure RmaReq where
  /-- the receiving world -/
  world : Nat
  /-- the sender's rank -/
  src : Nat
  /-- the window index of R257 -/
  window : Nat
  /-- the offset in the window -/
  roff : Nat
  /-- the operation -/
  op : RmaOp
  deriving DecidableEq, Repr

/-- The transport mode of a packet (R401). -/
inductive PktMode where
  | rud | rod | rudi | uud | other
  deriving DecidableEq, Repr

/-- The answer of another device to a command of this one: the command, its status and reason (R260), and the word the
record's AUX or BYTES takes from it. -/
structure Reply where
  entry : Nat
  status : Nat
  reason : Nat
  aux : Nat
  deriving DecidableEq, Repr

/-- One arriving fabric packet, as the transport layer sees it (R401, R403, R424). -/
structure Packet where
  world : Nat
  peer : Nat
  mode : PktMode
  /-- the packet's sequence number from its peer -/
  seq : Nat
  /-- whether the authentication tag verifies under the key it names -/
  tagOk : Bool
  /-- the epoch it names (R424) -/
  epoch : Nat
  /-- the lease number whose key protects it, 0 for the session key (R416) -/
  lease : Nat
  /-- the RMA request it carries, if any -/
  req : Option RmaReq
  /-- the answer it carries, if any -/
  reply : Option Reply
  deriving DecidableEq, Repr

/-- What a switch answers to an attestation (R416, R417): index and digest of each measurement that it reports, Busy, an
answer whose signatures do not verify, or one without the vendor's element. -/
inductive Attest where
  | report (digests : List (Nat × Nat))
  | busy | badSignature | noElement
  deriving DecidableEq, Repr

/-- A world that firmware sets up in the start (R435): its number, job, rank and authority rank, its regions of HBM, and the
place and length of its S image. -/
structure WorldSpec where
  world : Nat
  job : Nat
  rank : Nat
  authRank : Nat
  regions : List Nat
  simagePa : Nat
  simageLen : Nat
  deriving DecidableEq, Repr

/-- An abort of a gang (R292): world and tick of the launch, the first refusing rank and its reason; reason 0 where the
group has been redefined. -/
structure GangAbort where
  world : Nat
  tick : Nat
  reason : Nat
  rank : Nat
  deriving DecidableEq, Repr

/-- The instructions and steps of the machine: one constructor per row of the opcode table. -/
inductive Instr where
  /-- ADD (R173). Writes (a + b) mod 2^32 of two thread registers. -/
  | add (s : Bool) (d : BitVec 7) (a : BitVec 7) (b : BitVec 7)
  /-- SUB (R173). Writes (a - b) mod 2^32. -/
  | sub (s : Bool) (d : BitVec 7) (a : BitVec 7) (b : BitVec 7)
  /-- MUL (R173). Writes the low 32 bits of a × b. -/
  | mul (s : Bool) (d : BitVec 7) (a : BitVec 7) (b : BitVec 7)
  /-- MULHI_SI32 (R173). Writes the high word of the signed 64-bit product. -/
  | mulhiSi32 (s : Bool) (d : BitVec 7) (a : BitVec 7) (b : BitVec 7)
  /-- MULHI_UI32 (R173). Writes the high word of the unsigned 64-bit product. -/
  | mulhiUi32 (s : Bool) (d : BitVec 7) (a : BitVec 7) (b : BitVec 7)
  /-- AND (R173). Writes the bitwise and. -/
  | and (s : Bool) (d : BitVec 7) (a : BitVec 7) (b : BitVec 7)
  /-- OR (R173). Writes the bitwise or. -/
  | or (s : Bool) (d : BitVec 7) (a : BitVec 7) (b : BitVec 7)
  /-- XOR (R173). Writes the bitwise xor. -/
  | xor (s : Bool) (d : BitVec 7) (a : BitVec 7) (b : BitVec 7)
  /-- SHL (R173). Shifts left; a count of 32 or more gives 0. -/
  | shl (s : Bool) (d : BitVec 7) (a : BitVec 7) (b : BitVec 7)
  /-- SHR (R173). Shifts right with zeros. -/
  | shr (s : Bool) (d : BitVec 7) (a : BitVec 7) (b : BitVec 7)
  /-- SAR (R173). Shifts right with copies of the sign. -/
  | sar (s : Bool) (d : BitVec 7) (a : BitVec 7) (b : BitVec 7)
  /-- MIN_SI32 (R173). Writes the signed minimum. -/
  | minSi32 (s : Bool) (d : BitVec 7) (a : BitVec 7) (b : BitVec 7)
  /-- MAX_SI32 (R173). Writes the signed maximum. -/
  | maxSi32 (s : Bool) (d : BitVec 7) (a : BitVec 7) (b : BitVec 7)
  /-- MIN_UI32 (R173). Writes the unsigned minimum. -/
  | minUi32 (s : Bool) (d : BitVec 7) (a : BitVec 7) (b : BitVec 7)
  /-- MAX_UI32 (R173). Writes the unsigned maximum. -/
  | maxUi32 (s : Bool) (d : BitVec 7) (a : BitVec 7) (b : BitVec 7)
  /-- ADDS_SI32 (R173). Saturating signed add; sets SAT when it clamps. -/
  | addsSi32 (s : Bool) (d : BitVec 7) (a : BitVec 7) (b : BitVec 7)
  /-- ADD_PAIRED (R173). add with a uniform B operand. -/
  | addPaired (s : Bool) (d : BitVec 7) (a : BitVec 7) (b : BitVec 7)
  /-- SUB_PAIRED (R173). sub with a uniform B operand. -/
  | subPaired (s : Bool) (d : BitVec 7) (a : BitVec 7) (b : BitVec 7)
  /-- MUL_PAIRED (R173). mul with a uniform B operand. -/
  | mulPaired (s : Bool) (d : BitVec 7) (a : BitVec 7) (b : BitVec 7)
  /-- MULHI_SI32_PAIRED (R173). mulhi.si32 with a uniform B operand. -/
  | mulhiSi32Paired (s : Bool) (d : BitVec 7) (a : BitVec 7) (b : BitVec 7)
  /-- MULHI_UI32_PAIRED (R173). mulhi.ui32 with a uniform B operand. -/
  | mulhiUi32Paired (s : Bool) (d : BitVec 7) (a : BitVec 7) (b : BitVec 7)
  /-- AND_PAIRED (R173). and with a uniform B operand. -/
  | andPaired (s : Bool) (d : BitVec 7) (a : BitVec 7) (b : BitVec 7)
  /-- OR_PAIRED (R173). or with a uniform B operand. -/
  | orPaired (s : Bool) (d : BitVec 7) (a : BitVec 7) (b : BitVec 7)
  /-- XOR_PAIRED (R173). xor with a uniform B operand. -/
  | xorPaired (s : Bool) (d : BitVec 7) (a : BitVec 7) (b : BitVec 7)
  /-- SHL_PAIRED (R173). shl with a uniform B operand. -/
  | shlPaired (s : Bool) (d : BitVec 7) (a : BitVec 7) (b : BitVec 7)
  /-- SHR_PAIRED (R173). shr with a uniform B operand. -/
  | shrPaired (s : Bool) (d : BitVec 7) (a : BitVec 7) (b : BitVec 7)
  /-- SAR_PAIRED (R173). sar with a uniform B operand. -/
  | sarPaired (s : Bool) (d : BitVec 7) (a : BitVec 7) (b : BitVec 7)
  /-- MIN_SI32_PAIRED (R173). min.si32 with a uniform B operand. -/
  | minSi32Paired (s : Bool) (d : BitVec 7) (a : BitVec 7) (b : BitVec 7)
  /-- MAX_SI32_PAIRED (R173). max.si32 with a uniform B operand. -/
  | maxSi32Paired (s : Bool) (d : BitVec 7) (a : BitVec 7) (b : BitVec 7)
  /-- MIN_UI32_PAIRED (R173). min.ui32 with a uniform B operand. -/
  | minUi32Paired (s : Bool) (d : BitVec 7) (a : BitVec 7) (b : BitVec 7)
  /-- MAX_UI32_PAIRED (R173). max.ui32 with a uniform B operand. -/
  | maxUi32Paired (s : Bool) (d : BitVec 7) (a : BitVec 7) (b : BitVec 7)
  /-- ADDS_SI32_PAIRED (R173). adds.si32 with a uniform B operand. -/
  | addsSi32Paired (s : Bool) (d : BitVec 7) (a : BitVec 7) (b : BitVec 7)
  /-- ADD_UNIFORM (R173). add on uniform registers, once per issue set. -/
  | addUniform (s : Bool) (d : BitVec 7) (a : BitVec 7) (b : BitVec 7)
  /-- SUB_UNIFORM (R173). sub on uniform registers. -/
  | subUniform (s : Bool) (d : BitVec 7) (a : BitVec 7) (b : BitVec 7)
  /-- MUL_UNIFORM (R173). mul on uniform registers. -/
  | mulUniform (s : Bool) (d : BitVec 7) (a : BitVec 7) (b : BitVec 7)
  /-- MULHI_SI32_UNIFORM (R173). mulhi.si32 on uniform registers. -/
  | mulhiSi32Uniform (s : Bool) (d : BitVec 7) (a : BitVec 7) (b : BitVec 7)
  /-- MULHI_UI32_UNIFORM (R173). mulhi.ui32 on uniform registers. -/
  | mulhiUi32Uniform (s : Bool) (d : BitVec 7) (a : BitVec 7) (b : BitVec 7)
  /-- AND_UNIFORM (R173). and on uniform registers. -/
  | andUniform (s : Bool) (d : BitVec 7) (a : BitVec 7) (b : BitVec 7)
  /-- OR_UNIFORM (R173). or on uniform registers. -/
  | orUniform (s : Bool) (d : BitVec 7) (a : BitVec 7) (b : BitVec 7)
  /-- XOR_UNIFORM (R173). xor on uniform registers. -/
  | xorUniform (s : Bool) (d : BitVec 7) (a : BitVec 7) (b : BitVec 7)
  /-- SHL_UNIFORM (R173). shl on uniform registers. -/
  | shlUniform (s : Bool) (d : BitVec 7) (a : BitVec 7) (b : BitVec 7)
  /-- SHR_UNIFORM (R173). shr on uniform registers. -/
  | shrUniform (s : Bool) (d : BitVec 7) (a : BitVec 7) (b : BitVec 7)
  /-- SAR_UNIFORM (R173). sar on uniform registers. -/
  | sarUniform (s : Bool) (d : BitVec 7) (a : BitVec 7) (b : BitVec 7)
  /-- MIN_SI32_UNIFORM (R173). min.si32 on uniform registers. -/
  | minSi32Uniform (s : Bool) (d : BitVec 7) (a : BitVec 7) (b : BitVec 7)
  /-- MAX_SI32_UNIFORM (R173). max.si32 on uniform registers. -/
  | maxSi32Uniform (s : Bool) (d : BitVec 7) (a : BitVec 7) (b : BitVec 7)
  /-- MIN_UI32_UNIFORM (R173). min.ui32 on uniform registers. -/
  | minUi32Uniform (s : Bool) (d : BitVec 7) (a : BitVec 7) (b : BitVec 7)
  /-- MAX_UI32_UNIFORM (R173). max.ui32 on uniform registers. -/
  | maxUi32Uniform (s : Bool) (d : BitVec 7) (a : BitVec 7) (b : BitVec 7)
  /-- ADDS_SI32_UNIFORM (R173). Saturating add on uniform registers; SAT goes to every acting thread. -/
  | addsSi32Uniform (s : Bool) (d : BitVec 7) (a : BitVec 7) (b : BitVec 7)
  /-- ADDI (R174). Adds a signed 11-bit immediate to a thread register. -/
  | addi (s : Bool) (d : BitVec 7) (a : BitVec 7) (i : BitVec 11)
  /-- MOVL (R174). Loads a sign-extended 18-bit immediate. -/
  | movl (s : Bool) (d : BitVec 7) (i : BitVec 18)
  /-- MOVH (R174). Sets bits [31:18] of a register, keeping [17:0]. -/
  | movh (s : Bool) (d : BitVec 7) (i : BitVec 14)
  /-- ADDAI (R177). Adds a sign-extended immediate to a 64-bit register pair. -/
  | addai (s : Bool) (d : BitVec 7) (a : BitVec 7) (i : BitVec 11)
  /-- UADDI (R174). Adds an immediate to a uniform register. -/
  | uaddi (s : Bool) (d : BitVec 7) (a : BitVec 7) (i : BitVec 11)
  /-- UMOVL (R174). Loads a sign-extended immediate into a uniform register. -/
  | umovl (s : Bool) (d : BitVec 7) (i : BitVec 18)
  /-- UMOVH (R174). Sets the high bits of a uniform register. -/
  | umovh (s : Bool) (d : BitVec 7) (i : BitVec 14)
  /-- CMP_EQ (R175). Sets predicate p to a = b. -/
  | cmpEq (s : Bool) (p : BitVec 3) (a : BitVec 7) (b : BitVec 7)
  /-- CMP_NE (R175). Sets p to a ≠ b. -/
  | cmpNe (s : Bool) (p : BitVec 3) (a : BitVec 7) (b : BitVec 7)
  /-- CMP_LT_SI32 (R175). Signed less-than into p. -/
  | cmpLtSi32 (s : Bool) (p : BitVec 3) (a : BitVec 7) (b : BitVec 7)
  /-- CMP_LE_SI32 (R175). Signed less-or-equal into p. -/
  | cmpLeSi32 (s : Bool) (p : BitVec 3) (a : BitVec 7) (b : BitVec 7)
  /-- CMP_GT_SI32 (R175). Signed greater-than into p. -/
  | cmpGtSi32 (s : Bool) (p : BitVec 3) (a : BitVec 7) (b : BitVec 7)
  /-- CMP_GE_SI32 (R175). Signed greater-or-equal into p. -/
  | cmpGeSi32 (s : Bool) (p : BitVec 3) (a : BitVec 7) (b : BitVec 7)
  /-- CMP_LT_UI32 (R175). Unsigned less-than into p. -/
  | cmpLtUi32 (s : Bool) (p : BitVec 3) (a : BitVec 7) (b : BitVec 7)
  /-- CMP_LE_UI32 (R175). Unsigned less-or-equal into p. -/
  | cmpLeUi32 (s : Bool) (p : BitVec 3) (a : BitVec 7) (b : BitVec 7)
  /-- CMP_GT_UI32 (R175). Unsigned greater-than into p. -/
  | cmpGtUi32 (s : Bool) (p : BitVec 3) (a : BitVec 7) (b : BitVec 7)
  /-- CMP_GE_UI32 (R175). Unsigned greater-or-equal into p. -/
  | cmpGeUi32 (s : Bool) (p : BitVec 3) (a : BitVec 7) (b : BitVec 7)
  /-- UCMP_EQ (R175). Sets uniform predicate q to a = b on uniform registers. -/
  | ucmpEq (s : Bool) (p : BitVec 3) (a : BitVec 7) (b : BitVec 7)
  /-- UCMP_NE (R175). Uniform not-equal into q. -/
  | ucmpNe (s : Bool) (p : BitVec 3) (a : BitVec 7) (b : BitVec 7)
  /-- UCMP_LT_SI32 (R175). Uniform signed less-than into q. -/
  | ucmpLtSi32 (s : Bool) (p : BitVec 3) (a : BitVec 7) (b : BitVec 7)
  /-- UCMP_LE_SI32 (R175). Uniform signed less-or-equal into q. -/
  | ucmpLeSi32 (s : Bool) (p : BitVec 3) (a : BitVec 7) (b : BitVec 7)
  /-- UCMP_GT_SI32 (R175). Uniform signed greater-than into q. -/
  | ucmpGtSi32 (s : Bool) (p : BitVec 3) (a : BitVec 7) (b : BitVec 7)
  /-- UCMP_GE_SI32 (R175). Uniform signed greater-or-equal into q. -/
  | ucmpGeSi32 (s : Bool) (p : BitVec 3) (a : BitVec 7) (b : BitVec 7)
  /-- UCMP_LT_UI32 (R175). Uniform unsigned less-than into q. -/
  | ucmpLtUi32 (s : Bool) (p : BitVec 3) (a : BitVec 7) (b : BitVec 7)
  /-- UCMP_LE_UI32 (R175). Uniform unsigned less-or-equal into q. -/
  | ucmpLeUi32 (s : Bool) (p : BitVec 3) (a : BitVec 7) (b : BitVec 7)
  /-- UCMP_GT_UI32 (R175). Uniform unsigned greater-than into q. -/
  | ucmpGtUi32 (s : Bool) (p : BitVec 3) (a : BitVec 7) (b : BitVec 7)
  /-- UCMP_GE_UI32 (R175). Uniform unsigned greater-or-equal into q. -/
  | ucmpGeUi32 (s : Bool) (p : BitVec 3) (a : BitVec 7) (b : BitVec 7)
  /-- MOV (R176). Copies a register. -/
  | mov (s : Bool) (d : BitVec 7) (a : BitVec 7)
  /-- NOT (R176). Writes the bitwise complement. -/
  | not (s : Bool) (d : BitVec 7) (a : BitVec 7)
  /-- NEG (R176). Writes the two's-complement negation. -/
  | neg (s : Bool) (d : BitVec 7) (a : BitVec 7)
  /-- ABS_SI32 (R176). Writes the absolute value mod 2^32. -/
  | absSi32 (s : Bool) (d : BitVec 7) (a : BitVec 7)
  /-- POPC (R176). Counts 1 bits. -/
  | popc (s : Bool) (d : BitVec 7) (a : BitVec 7)
  /-- CLZ (R176). Counts leading zero bits. -/
  | clz (s : Bool) (d : BitVec 7) (a : BitVec 7)
  /-- BREV (R176). Reverses the bit order. -/
  | brev (s : Bool) (d : BitVec 7) (a : BitVec 7)
  /-- MAD (R176). Writes the low 32 bits of a × b + d. -/
  | mad (s : Bool) (d : BitVec 7) (a : BitVec 7) (b : BitVec 7)
  /-- SXB (R176). Sign-extends the low byte. -/
  | sxb (s : Bool) (d : BitVec 7) (a : BitVec 7)
  /-- SXH (R176). Sign-extends the low half. -/
  | sxh (s : Bool) (d : BitVec 7) (a : BitVec 7)
  /-- ADDA (R177). Adds a sign-extended register to a 64-bit address pair. -/
  | adda (s : Bool) (d : BitVec 7) (a : BitVec 7) (b : BitVec 7)
  /-- FADD (R178). fp32 add, rounded to nearest even. -/
  | fadd (s : Bool) (d : BitVec 7) (a : BitVec 7) (b : BitVec 7)
  /-- FSUB (R178). fp32 subtract. -/
  | fsub (s : Bool) (d : BitVec 7) (a : BitVec 7) (b : BitVec 7)
  /-- FMUL (R178). fp32 multiply. -/
  | fmul (s : Bool) (d : BitVec 7) (a : BitVec 7) (b : BitVec 7)
  /-- FFMA (R178). fp32 fused multiply-add into xD, rounded once. -/
  | ffma (s : Bool) (d : BitVec 7) (a : BitVec 7) (b : BitVec 7)
  /-- FMIN (R179). fp32 minimum, -0 below +0. -/
  | fmin (s : Bool) (d : BitVec 7) (a : BitVec 7) (b : BitVec 7)
  /-- FMAX (R179). fp32 maximum. -/
  | fmax (s : Bool) (d : BitVec 7) (a : BitVec 7) (b : BitVec 7)
  /-- FDIV (R178). fp32 divide. -/
  | fdiv (s : Bool) (d : BitVec 7) (a : BitVec 7) (b : BitVec 7)
  /-- FSQRT (R178). fp32 square root. -/
  | fsqrt (s : Bool) (d : BitVec 7) (a : BitVec 7)
  /-- FABS (R179). Clears the sign bit. -/
  | fabs (s : Bool) (d : BitVec 7) (a : BitVec 7)
  /-- FNEG (R179). Inverts the sign bit. -/
  | fneg (s : Bool) (d : BitVec 7) (a : BitVec 7)
  /-- FADD_PAIRED (R178). fadd with a uniform B operand. -/
  | faddPaired (s : Bool) (d : BitVec 7) (a : BitVec 7) (b : BitVec 7)
  /-- FSUB_PAIRED (R178). fsub with a uniform B operand. -/
  | fsubPaired (s : Bool) (d : BitVec 7) (a : BitVec 7) (b : BitVec 7)
  /-- FMUL_PAIRED (R178). fmul with a uniform B operand. -/
  | fmulPaired (s : Bool) (d : BitVec 7) (a : BitVec 7) (b : BitVec 7)
  /-- FFMA_PAIRED (R178). ffma with a uniform B operand. -/
  | ffmaPaired (s : Bool) (d : BitVec 7) (a : BitVec 7) (b : BitVec 7)
  /-- FMIN_PAIRED (R179). fmin with a uniform B operand. -/
  | fminPaired (s : Bool) (d : BitVec 7) (a : BitVec 7) (b : BitVec 7)
  /-- FMAX_PAIRED (R179). fmax with a uniform B operand. -/
  | fmaxPaired (s : Bool) (d : BitVec 7) (a : BitVec 7) (b : BitVec 7)
  /-- FDIV_PAIRED (R178). fdiv with a uniform B operand. -/
  | fdivPaired (s : Bool) (d : BitVec 7) (a : BitVec 7) (b : BitVec 7)
  /-- FCMP_EQ (R180). fp32 equal into p. -/
  | fcmpEq (s : Bool) (p : BitVec 3) (a : BitVec 7) (b : BitVec 7)
  /-- FCMP_NE (R180). fp32 not-equal into p. -/
  | fcmpNe (s : Bool) (p : BitVec 3) (a : BitVec 7) (b : BitVec 7)
  /-- FCMP_LT (R180). fp32 less-than into p. -/
  | fcmpLt (s : Bool) (p : BitVec 3) (a : BitVec 7) (b : BitVec 7)
  /-- FCMP_LE (R180). fp32 less-or-equal into p. -/
  | fcmpLe (s : Bool) (p : BitVec 3) (a : BitVec 7) (b : BitVec 7)
  /-- FCMP_GT (R180). fp32 greater-than into p. -/
  | fcmpGt (s : Bool) (p : BitVec 3) (a : BitVec 7) (b : BitVec 7)
  /-- FCMP_GE (R180). fp32 greater-or-equal into p. -/
  | fcmpGe (s : Bool) (p : BitVec 3) (a : BitVec 7) (b : BitVec 7)
  /-- HADD_F16 (R181). Packed fp16 add. -/
  | haddF16 (s : Bool) (d : BitVec 7) (a : BitVec 7) (b : BitVec 7)
  /-- HSUB_F16 (R181). Packed fp16 subtract. -/
  | hsubF16 (s : Bool) (d : BitVec 7) (a : BitVec 7) (b : BitVec 7)
  /-- HMUL_F16 (R181). Packed fp16 multiply. -/
  | hmulF16 (s : Bool) (d : BitVec 7) (a : BitVec 7) (b : BitVec 7)
  /-- HFMA_F16 (R181). Packed fp16 fused multiply-add. -/
  | hfmaF16 (s : Bool) (d : BitVec 7) (a : BitVec 7) (b : BitVec 7)
  /-- HMIN_F16 (R181). Packed fp16 minimum. -/
  | hminF16 (s : Bool) (d : BitVec 7) (a : BitVec 7) (b : BitVec 7)
  /-- HMAX_F16 (R181). Packed fp16 maximum. -/
  | hmaxF16 (s : Bool) (d : BitVec 7) (a : BitVec 7) (b : BitVec 7)
  /-- HADD_BF16 (R181). Packed bf16 add. -/
  | haddBf16 (s : Bool) (d : BitVec 7) (a : BitVec 7) (b : BitVec 7)
  /-- HSUB_BF16 (R181). Packed bf16 subtract. -/
  | hsubBf16 (s : Bool) (d : BitVec 7) (a : BitVec 7) (b : BitVec 7)
  /-- HMUL_BF16 (R181). Packed bf16 multiply. -/
  | hmulBf16 (s : Bool) (d : BitVec 7) (a : BitVec 7) (b : BitVec 7)
  /-- HFMA_BF16 (R181). Packed bf16 fused multiply-add. -/
  | hfmaBf16 (s : Bool) (d : BitVec 7) (a : BitVec 7) (b : BitVec 7)
  /-- HMIN_BF16 (R181). Packed bf16 minimum. -/
  | hminBf16 (s : Bool) (d : BitVec 7) (a : BitVec 7) (b : BitVec 7)
  /-- HMAX_BF16 (R181). Packed bf16 maximum. -/
  | hmaxBf16 (s : Bool) (d : BitVec 7) (a : BitVec 7) (b : BitVec 7)
  /-- CVT (R182). Converts scalar or packed elements between formats with a rounding mode. -/
  | cvt (s : Bool) (f : BitVec 4) (d : BitVec 7) (a : BitVec 7) (t : BitVec 4) (k : Bool) (r : BitVec 2)
  /-- RECIP (R185). Correctly rounded reciprocal; variable latency. -/
  | recip (s : Bool) (d : BitVec 7) (a : BitVec 7)
  /-- RSQRT (R185). Reciprocal square root. -/
  | rsqrt (s : Bool) (d : BitVec 7) (a : BitVec 7)
  /-- EXP2 (R185). Base-2 exponential. -/
  | exp2 (s : Bool) (d : BitVec 7) (a : BitVec 7)
  /-- LOG2 (R185). Base-2 logarithm. -/
  | log2 (s : Bool) (d : BitVec 7) (a : BitVec 7)
  /-- SIN (R185). Sine in radians. -/
  | sin (s : Bool) (d : BitVec 7) (a : BitVec 7)
  /-- COS (R185). Cosine in radians. -/
  | cos (s : Bool) (d : BitVec 7) (a : BitVec 7)
  /-- TANH (R185). Hyperbolic tangent. -/
  | tanh (s : Bool) (d : BitVec 7) (a : BitVec 7)
  /-- SIGM (R185). Logistic sigmoid. -/
  | sigm (s : Bool) (d : BitVec 7) (a : BitVec 7)
  /-- DP4_SI8 (R230). Four-term si8 dot product promoted into a si32 accumulator. -/
  | dp4Si8 (s : Bool) (d : BitVec 7) (a : BitVec 7) (b : BitVec 7)
  /-- DP4_SI8UI8 (R230). si8 × ui8 dot product. -/
  | dp4Si8ui8 (s : Bool) (d : BitVec 7) (a : BitVec 7) (b : BitVec 7)
  /-- DP8_SI4 (R230). Eight-term si4 dot product. -/
  | dp8Si4 (s : Bool) (d : BitVec 7) (a : BitVec 7) (b : BitVec 7)
  /-- DP8_SI4UI4 (R230). si4 × ui4 dot product. -/
  | dp8Si4ui4 (s : Bool) (d : BitVec 7) (a : BitVec 7) (b : BitVec 7)
  /-- DP4_F8A (R230). f8a dot product summed in the order of R91. -/
  | dp4F8a (s : Bool) (d : BitVec 7) (a : BitVec 7) (b : BitVec 7)
  /-- DP4_F8B (R230). f8b dot product. -/
  | dp4F8b (s : Bool) (d : BitVec 7) (a : BitVec 7) (b : BitVec 7)
  /-- DP8_F4 (R230). f4 dot product. -/
  | dp8F4 (s : Bool) (d : BitVec 7) (a : BitVec 7) (b : BitVec 7)
  /-- DP2_BF16 (R230). bf16 dot product. -/
  | dp2Bf16 (s : Bool) (d : BitVec 7) (a : BitVec 7) (b : BitVec 7)
  /-- DP2_F16 (R230). fp16 dot product. -/
  | dp2F16 (s : Bool) (d : BitVec 7) (a : BitVec 7) (b : BitVec 7)
  /-- DP4_F8A_SC (R231). Scaled f8a dot product with scales in x(D+1), x(D+2) byte k. -/
  | dp4F8aSc (s : Bool) (k : BitVec 2) (d : BitVec 7) (a : BitVec 7) (b : BitVec 7)
  /-- DP4_F8B_SC (R231). Scaled f8b dot product. -/
  | dp4F8bSc (s : Bool) (k : BitVec 2) (d : BitVec 7) (a : BitVec 7) (b : BitVec 7)
  /-- DP8_F4_SC (R231). Scaled f4 dot product using bytes k and k + 1. -/
  | dp8F4Sc (s : Bool) (k : BitVec 2) (d : BitVec 7) (a : BitVec 7) (b : BitVec 7)
  /-- SHFL_IDX (R188). Crew-collective shuffle from the lane named by a register. -/
  | shflIdx (s : Bool) (d : BitVec 7) (a : BitVec 7) (b : BitVec 7)
  /-- SHFL_UP_W (R188). Shuffle from lane L - (W >> n). -/
  | shflUpW (s : Bool) (d : BitVec 7) (a : BitVec 7) (n : BitVec 3)
  /-- SHFL_DOWN_W (R188). Shuffle from lane L + (W >> n). -/
  | shflDownW (s : Bool) (d : BitVec 7) (a : BitVec 7) (n : BitVec 3)
  /-- SHFL_XOR_W (R188). Shuffle from lane L xor (W >> n). -/
  | shflXorW (s : Bool) (d : BitVec 7) (a : BitVec 7) (n : BitVec 3)
  /-- SHFL_UP (R188). Shuffle from lane L - k. -/
  | shflUp (s : Bool) (d : BitVec 7) (a : BitVec 7) (k : BitVec 7)
  /-- SHFL_DOWN (R188). Shuffle from lane L + k. -/
  | shflDown (s : Bool) (d : BitVec 7) (a : BitVec 7) (k : BitVec 7)
  /-- SHFL_XOR (R188). Shuffle from lane L xor k. -/
  | shflXor (s : Bool) (d : BitVec 7) (a : BitVec 7) (k : BitVec 7)
  /-- LRED_ADD_SI32 (R189). Log-step integer sum over lane groups. -/
  | lredAddSi32 (s : Bool) (d : BitVec 7) (a : BitVec 7) (g : BitVec 3)
  /-- LRED_ADD_F32 (R189). Log-step fp32 sum in fixed tree order. -/
  | lredAddF32 (s : Bool) (d : BitVec 7) (a : BitVec 7) (g : BitVec 3)
  /-- LRED_MIN_SI32 (R189). Log-step signed minimum. -/
  | lredMinSi32 (s : Bool) (d : BitVec 7) (a : BitVec 7) (g : BitVec 3)
  /-- LRED_MAX_SI32 (R189). Log-step signed maximum. -/
  | lredMaxSi32 (s : Bool) (d : BitVec 7) (a : BitVec 7) (g : BitVec 3)
  /-- LRED_MIN_F32 (R189). Log-step fp32 minimum. -/
  | lredMinF32 (s : Bool) (d : BitVec 7) (a : BitVec 7) (g : BitVec 3)
  /-- LRED_MAX_F32 (R189). Log-step fp32 maximum. -/
  | lredMaxF32 (s : Bool) (d : BitVec 7) (a : BitVec 7) (g : BitVec 3)
  /-- LRED_AND (R189). Log-step bitwise and. -/
  | lredAnd (s : Bool) (d : BitVec 7) (a : BitVec 7) (g : BitVec 3)
  /-- LRED_OR (R189). Log-step bitwise or. -/
  | lredOr (s : Bool) (d : BitVec 7) (a : BitVec 7) (g : BitVec 3)
  /-- LRED_XOR (R189). Log-step bitwise xor. -/
  | lredXor (s : Bool) (d : BitVec 7) (a : BitVec 7) (g : BitVec 3)
  /-- VOTE_EVERY (R190). Crew vote: q true if every contribution is true. -/
  | voteEvery (s : Bool) (q : BitVec 3) (p : BitVec 4)
  /-- VOTE_SOME (R190). Crew vote: q true if any contribution is true. -/
  | voteSome (s : Bool) (q : BitVec 3) (p : BitVec 4)
  /-- VOTE_SAME (R190). Crew vote: q true if contributors agree. -/
  | voteSame (s : Bool) (q : BitVec 3) (p : BitVec 4)
  /-- VOTE_MASK (R190). Writes the crew's predicate mask into s(D) to s(D+3). -/
  | voteMask (s : Bool) (d : BitVec 7) (p : BitVec 4)
  /-- PAND (R191). Predicate and. -/
  | pand (s : Bool) (d : BitVec 3) (a : BitVec 4) (b : BitVec 4)
  /-- POR (R191). Predicate or. -/
  | por (s : Bool) (d : BitVec 3) (a : BitVec 4) (b : BitVec 4)
  /-- PXOR (R191). Predicate xor. -/
  | pxor (s : Bool) (d : BitVec 3) (a : BitVec 4) (b : BitVec 4)
  /-- PMOV (R191). Predicate move. -/
  | pmov (s : Bool) (d : BitVec 3) (a : BitVec 4)
  /-- P2R (R191). Packs p0–p7 into a register. -/
  | p2r (s : Bool) (d : BitVec 7)
  /-- REG_TO_PRED (R191). Sets p0–p6 from register bits [6:0]. -/
  | regToPred (s : Bool) (a : BitVec 7)
  /-- QAND (R191). Uniform predicate and. -/
  | qand (s : Bool) (d : BitVec 3) (a : BitVec 4) (b : BitVec 4)
  /-- QOR (R191). Uniform predicate or. -/
  | qor (s : Bool) (d : BitVec 3) (a : BitVec 4) (b : BitVec 4)
  /-- QXOR (R191). Uniform predicate xor. -/
  | qxor (s : Bool) (d : BitVec 3) (a : BitVec 4) (b : BitVec 4)
  /-- QMOV (R191). Uniform predicate move. -/
  | qmov (s : Bool) (d : BitVec 3) (a : BitVec 4)
  /-- BRA (R192). Conditional relative branch; splits the issue set on disagreement. -/
  | bra (s : Bool) (n : Bool) (c : BitVec 3) (o : BitVec 21)
  /-- UBRA (R192). Uniform branch of the whole issue set on q. -/
  | ubra (s : Bool) (n : Bool) (c : BitVec 3) (o : BitVec 21)
  /-- CALL (R192). Conditional call; writes PC + 4 to x1. -/
  | call (s : Bool) (n : Bool) (c : BitVec 3) (o : BitVec 21)
  /-- JR (R193). Jumps to the register target. -/
  | jr (s : Bool) (a : BitVec 7)
  /-- CALLR (R193). Calls the register target, writing x1. -/
  | callr (s : Bool) (a : BitVec 7)
  /-- REFORM (R194). Files each active thread into a reform bin keyed (PC + 4, WB). -/
  | reform (s : Bool)
  /-- EXIT (R195). Moves active threads to Exited; finishes the crew when all have exited. -/
  | exit (s : Bool)
  /-- BRK (R197). Raises the precise trap BRK with a code. -/
  | brk (s : Bool) (c : BitVec 7)
  /-- NOP (R196). Changes nothing. -/
  | nop (s : Bool)
  /-- WINB (R198). Sets the executing thread's window base. -/
  | winb (s : Bool) (n : BitVec 4)
  /-- UWINB (R199). Crew-collective set of the uniform window base. -/
  | uwinb (s : Bool) (n : BitVec 3)
  /-- TOKP (R200). Crew-collective token pass or wait for the issue-priority token. -/
  | tokp (s : Bool)
  /-- RND (R202). Writes random bits per mode normal, log or replay. -/
  | rnd (s : Bool) (d : BitVec 7)
  /-- SYSC (R204). Files threads to post a system-call request and block for the reply. -/
  | sysc (s : Bool) (n : BitVec 7)
  /-- TRET (R311). Returns from a trap handler, restoring WB, predicates, AFLG, PC and mode. -/
  | tret (s : Bool)
  /-- LD_B (R211). Generic load of a zero-extended byte. -/
  | ldB (s : Bool) (d : BitVec 7) (a : BitVec 7) (o : BitVec 8)
  /-- LD_SB (R211). Generic load of a sign-extended byte. -/
  | ldSb (s : Bool) (d : BitVec 7) (a : BitVec 7) (o : BitVec 8)
  /-- LD_H (R211). Generic load of a zero-extended half. -/
  | ldH (s : Bool) (d : BitVec 7) (a : BitVec 7) (o : BitVec 8)
  /-- LD_SH (R211). Generic load of a sign-extended half. -/
  | ldSh (s : Bool) (d : BitVec 7) (a : BitVec 7) (o : BitVec 8)
  /-- LD_W (R211). Generic load of a word with per-lane checks, parking or traps. -/
  | ldW (s : Bool) (d : BitVec 7) (a : BitVec 7) (o : BitVec 8)
  /-- LD_D (R211). Generic load of 8 B into a pair. -/
  | ldD (s : Bool) (d : BitVec 7) (a : BitVec 7) (o : BitVec 8)
  /-- LD_Q (R211). Generic load of 16 B into four registers. -/
  | ldQ (s : Bool) (d : BitVec 7) (a : BitVec 7) (o : BitVec 8)
  /-- ST_B (R211). Generic store of a byte. -/
  | stB (s : Bool) (d : BitVec 7) (a : BitVec 7) (o : BitVec 8)
  /-- ST_H (R211). Generic store of a half. -/
  | stH (s : Bool) (d : BitVec 7) (a : BitVec 7) (o : BitVec 8)
  /-- ST_W (R211). Generic store of a word. -/
  | stW (s : Bool) (d : BitVec 7) (a : BitVec 7) (o : BitVec 8)
  /-- ST_D (R211). Generic store of 8 B. -/
  | stD (s : Bool) (d : BitVec 7) (a : BitVec 7) (o : BitVec 8)
  /-- ST_Q (R211). Generic store of 16 B as two 8 B halves. -/
  | stQ (s : Bool) (d : BitVec 7) (a : BitVec 7) (o : BitVec 8)
  /-- LDU_W (R212). Uniform generic load of a word, once per issue set. -/
  | lduW (s : Bool) (d : BitVec 7) (a : BitVec 7) (o : BitVec 8)
  /-- LDU_D (R212). Uniform generic load of 8 B. -/
  | lduD (s : Bool) (d : BitVec 7) (a : BitVec 7) (o : BitVec 8)
  /-- LDS_W (R213). Scratchpad load of a word with swizzle mode. -/
  | ldsW (s : Bool) (d : BitVec 7) (a : BitVec 7) (w : BitVec 3) (o : BitVec 8)
  /-- LDS_D (R213). Scratchpad load of 8 B. -/
  | ldsD (s : Bool) (d : BitVec 7) (a : BitVec 7) (w : BitVec 3) (o : BitVec 8)
  /-- LDS_Q (R213). Scratchpad load of 16 B. -/
  | ldsQ (s : Bool) (d : BitVec 7) (a : BitVec 7) (w : BitVec 3) (o : BitVec 8)
  /-- STS_W (R213). Scratchpad store of a word. -/
  | stsW (s : Bool) (d : BitVec 7) (a : BitVec 7) (w : BitVec 3) (o : BitVec 8)
  /-- STS_D (R213). Scratchpad store of 8 B. -/
  | stsD (s : Bool) (d : BitVec 7) (a : BitVec 7) (w : BitVec 3) (o : BitVec 8)
  /-- STS_Q (R213). Scratchpad store of 16 B. -/
  | stsQ (s : Bool) (d : BitVec 7) (a : BitVec 7) (w : BitVec 3) (o : BitVec 8)
  /-- LDP_B (R214). Private load of a zero-extended byte. -/
  | ldpB (s : Bool) (d : BitVec 7) (a : BitVec 7) (o : BitVec 8)
  /-- LDP_SB (R214). Private load of a sign-extended byte. -/
  | ldpSb (s : Bool) (d : BitVec 7) (a : BitVec 7) (o : BitVec 8)
  /-- LDP_H (R214). Private load of a half. -/
  | ldpH (s : Bool) (d : BitVec 7) (a : BitVec 7) (o : BitVec 8)
  /-- LDP_SH (R214). Private load of a sign-extended half. -/
  | ldpSh (s : Bool) (d : BitVec 7) (a : BitVec 7) (o : BitVec 8)
  /-- LDP_W (R214). Private load of a word. -/
  | ldpW (s : Bool) (d : BitVec 7) (a : BitVec 7) (o : BitVec 8)
  /-- LDP_D (R214). Private load of 8 B. -/
  | ldpD (s : Bool) (d : BitVec 7) (a : BitVec 7) (o : BitVec 8)
  /-- LDP_Q (R214). Private load of 16 B. -/
  | ldpQ (s : Bool) (d : BitVec 7) (a : BitVec 7) (o : BitVec 8)
  /-- STP_B (R214). Private store of a byte. -/
  | stpB (s : Bool) (d : BitVec 7) (a : BitVec 7) (o : BitVec 8)
  /-- STP_H (R214). Private store of a half. -/
  | stpH (s : Bool) (d : BitVec 7) (a : BitVec 7) (o : BitVec 8)
  /-- STP_W (R214). Private store of a word. -/
  | stpW (s : Bool) (d : BitVec 7) (a : BitVec 7) (o : BitVec 8)
  /-- STP_D (R214). Private store of 8 B. -/
  | stpD (s : Bool) (d : BitVec 7) (a : BitVec 7) (o : BitVec 8)
  /-- STP_Q (R214). Private store of 16 B. -/
  | stpQ (s : Bool) (d : BitVec 7) (a : BitVec 7) (o : BitVec 8)
  /-- ATOM_ADD_SI32 (R215). Atomic wrapping add returning the old value. -/
  | atomAddSi32 (s : Bool) (d : BitVec 7) (a : BitVec 7) (o : BitVec 7)
  /-- ATOM_ADD_F32 (R215). Atomic fp32 add. -/
  | atomAddF32 (s : Bool) (d : BitVec 7) (a : BitVec 7) (o : BitVec 7)
  /-- ATOM_MIN_SI32 (R215). Atomic signed minimum. -/
  | atomMinSi32 (s : Bool) (d : BitVec 7) (a : BitVec 7) (o : BitVec 7)
  /-- ATOM_MAX_SI32 (R215). Atomic signed maximum. -/
  | atomMaxSi32 (s : Bool) (d : BitVec 7) (a : BitVec 7) (o : BitVec 7)
  /-- ATOM_MIN_UI32 (R215). Atomic unsigned minimum. -/
  | atomMinUi32 (s : Bool) (d : BitVec 7) (a : BitVec 7) (o : BitVec 7)
  /-- ATOM_MAX_UI32 (R215). Atomic unsigned maximum. -/
  | atomMaxUi32 (s : Bool) (d : BitVec 7) (a : BitVec 7) (o : BitVec 7)
  /-- ATOM_AND (R215). Atomic and. -/
  | atomAnd (s : Bool) (d : BitVec 7) (a : BitVec 7) (o : BitVec 7)
  /-- ATOM_OR (R215). Atomic or. -/
  | atomOr (s : Bool) (d : BitVec 7) (a : BitVec 7) (o : BitVec 7)
  /-- ATOM_XOR (R215). Atomic xor. -/
  | atomXor (s : Bool) (d : BitVec 7) (a : BitVec 7) (o : BitVec 7)
  /-- ATOM_EXCH_B32 (R215). Atomic 32-bit exchange. -/
  | atomExchB32 (s : Bool) (d : BitVec 7) (a : BitVec 7) (o : BitVec 7)
  /-- ATOM_CAS_B32 (R215). Atomic 32-bit compare-and-swap. -/
  | atomCasB32 (s : Bool) (d : BitVec 7) (a : BitVec 7) (o : BitVec 7)
  /-- ATOM_ADD_UI64 (R215). Atomic 64-bit add. -/
  | atomAddUi64 (s : Bool) (d : BitVec 7) (a : BitVec 7) (o : BitVec 7)
  /-- ATOM_EXCH_B64 (R215). Atomic 64-bit exchange. -/
  | atomExchB64 (s : Bool) (d : BitVec 7) (a : BitVec 7) (o : BitVec 7)
  /-- ATOM_CAS_B64 (R215). Atomic 64-bit compare-and-swap. -/
  | atomCasB64 (s : Bool) (d : BitVec 7) (a : BitVec 7) (o : BitVec 7)
  /-- ATOM_LDX (R216). Synchronising load, relaxed or acquire. -/
  | atomLdx (s : Bool) (d : BitVec 7) (a : BitVec 7) (o : BitVec 7)
  /-- ATOM_STX (R215). Synchronising store, relaxed or release. -/
  | atomStx (s : Bool) (d : BitVec 7) (a : BitVec 7) (o : BitVec 7)
  /-- CAPR (R74). Reads one capability-list word into a uniform register. -/
  | capr (s : Bool) (d : BitVec 7) (a : BitVec 7) (i : BitVec 11)
  /-- SRD (R61). Reads a special register into a thread register; %devtime latches %devtimehi. -/
  | srd (s : Bool) (d : BitVec 7) (n : BitVec 7)
  /-- SRD_UNIFORM (R61). Reads a uniform special register into a uniform register. -/
  | srdUniform (s : Bool) (d : BitVec 7) (n : BitVec 7)
  /-- SWR (R61). Clears AFLG bits under W1C. -/
  | swr (s : Bool) (a : BitVec 7)
  /-- MRED_ADD_SI32 (R218). Reduction to memory without return: integer add. -/
  | mredAddSi32 (s : Bool) (d : BitVec 7) (a : BitVec 7) (o : BitVec 7)
  /-- MRED_ADD_F32 (R218). Reduction fp32 add, no flag. -/
  | mredAddF32 (s : Bool) (d : BitVec 7) (a : BitVec 7) (o : BitVec 7)
  /-- MRED_MIN_SI32 (R218). Reduction signed minimum. -/
  | mredMinSi32 (s : Bool) (d : BitVec 7) (a : BitVec 7) (o : BitVec 7)
  /-- MRED_MAX_SI32 (R218). Reduction signed maximum. -/
  | mredMaxSi32 (s : Bool) (d : BitVec 7) (a : BitVec 7) (o : BitVec 7)
  /-- MRED_MIN_UI32 (R218). Reduction unsigned minimum. -/
  | mredMinUi32 (s : Bool) (d : BitVec 7) (a : BitVec 7) (o : BitVec 7)
  /-- MRED_MAX_UI32 (R218). Reduction unsigned maximum. -/
  | mredMaxUi32 (s : Bool) (d : BitVec 7) (a : BitVec 7) (o : BitVec 7)
  /-- MRED_AND (R218). Reduction and. -/
  | mredAnd (s : Bool) (d : BitVec 7) (a : BitVec 7) (o : BitVec 7)
  /-- MRED_OR (R218). Reduction or. -/
  | mredOr (s : Bool) (d : BitVec 7) (a : BitVec 7) (o : BitVec 7)
  /-- MRED_XOR (R218). Reduction xor. -/
  | mredXor (s : Bool) (d : BitVec 7) (a : BitVec 7) (o : BitVec 7)
  /-- FENCE (R219). Orders accesses at a scope and closes the crew region. -/
  | fence (s : Bool) (c : BitVec 3) (e : BitVec 2)
  /-- WAITC (R220). Compares a word and arms the monitor in one transaction, blocking while equal. -/
  | waitc (s : Bool) (d : BitVec 7) (a : BitVec 7) (c : BitVec 3) (p : BitVec 2)
  /-- WAKE (R222). Releases and wakes every monitor armed on the line or chunk. -/
  | wake (s : Bool) (a : BitVec 7) (c : BitVec 3) (p : BitVec 2)
  /-- BAR_ARR (R224). Crew-collective arrival on a barrier. -/
  | barArr (s : Bool) (b : BitVec 4)
  /-- BAR_WAIT (R224). Blocks until a completed phase is available, then consumes it. -/
  | barWait (s : Bool) (b : BitVec 4)
  /-- BAR_SYNC (R224). Arrives then waits on a barrier. -/
  | barSync (s : Bool) (b : BitVec 4)
  /-- CBACQ (R226). Acquires the next FILLED circular-buffer slot, blocking if none. -/
  | cbacq (s : Bool) (d : BitVec 7) (b : BitVec 7)
  /-- CBREL (R226). Releases a READING slot to FREE. -/
  | cbrel (s : Bool) (a : BitVec 7) (b : BitVec 7)
  /-- CBFILL (R226). Software starts a fill of the next FREE slot, blocking if none. -/
  | cbfill (s : Bool) (d : BitVec 7) (b : BitVec 7)
  /-- CBDONE (R226). Marks a software-filled slot FILLED. -/
  | cbdone (s : Bool) (a : BitVec 7) (b : BitVec 7)
  /-- CPY (R264). Issues a linear copy on the block-transfer engine. -/
  | cpy (s : Bool) (c : BitVec 6) (a : BitVec 7)
  /-- CPY2D (R264). Issues a two-dimensional copy. -/
  | cpy2d (s : Bool) (c : BitVec 6) (a : BitVec 7)
  /-- CPYRED (R265). Issues a reduction copy that updates destination elements atomically. -/
  | cpyred (s : Bool) (c : BitVec 6) (a : BitVec 7)
  /-- CPY_MX (R267). Issues a copy carrying a follow-on matrix command. -/
  | cpyMx (s : Bool) (c : BitVec 6) (a : BitVec 7)
  /-- QFENCE (R268). Puts a queue fence naming block-transfer queues. -/
  | qfence (s : Bool) (c : BitVec 6) (m : BitVec 4)
  /-- QWAIT (R269). Puts an entry waiting for another queue's completion count. -/
  | qwait (s : Bool) (x : BitVec 6) (a : BitVec 7) (y : BitVec 6)
  /-- MLD_ST (R240). Issues a load of a quarter's shadow plane. -/
  | mldSt (s : Bool) (n : BitVec 2) (a : BitVec 7) (b : BitVec 7)
  /-- MSWAP (R240). Issues an exchange of a quarter's planes. -/
  | mswap (s : Bool) (n : BitVec 2)
  /-- MMA (R241). Issues a matrix multiply-accumulate into a tile. -/
  | mma (s : Bool) (z : Bool) (t : BitVec 3) (a : BitVec 7) (b : BitVec 7)
  /-- MACC_RD (R246). Reads converted accumulator elements into a thread register. -/
  | maccRd (s : Bool) (d : BitVec 7) (a : BitVec 7) (b : BitVec 7)
  /-- MST (R247). Issues a converted store of accumulator rows to scratchpad. -/
  | mst (s : Bool) (k : Bool) (t : BitVec 3) (a : BitVec 7) (b : BitVec 7)
  /-- MACC_CLR (R248). Issues a clear of accumulator tiles and their status. -/
  | maccClr (s : Bool) (t : BitVec 3) (n : BitVec 4)
  /-- MSTAT (R249). Reads a row status word, acquiring earlier matrix completions. -/
  | mstat (s : Bool) (d : BitVec 7) (a : BitVec 7)
  /-- HREAD (R270). Issues a handler read spawning one drip per 512 B burst. -/
  | hread (s : Bool) (c : BitVec 6) (a : BitVec 7)
  /-- XSORT (R275). Issues a router sort of tokens by expert. -/
  | xsort (s : Bool) (c : BitVec 6) (a : BitVec 7)
  /-- A2AV (R278). Issues a group all-to-all-v exchange. -/
  | a2av (s : Bool) (c : BitVec 6) (a : BitVec 7)
  /-- AREDUCE (R280). Issues a group all-reduce. -/
  | areduce (s : Bool) (c : BitVec 6) (a : BitVec 7)
  /-- RPUT (R282). Issues a remote put. -/
  | rput (s : Bool) (c : BitVec 6) (a : BitVec 7)
  /-- RGET (R282). Issues a remote get. -/
  | rget (s : Bool) (c : BitVec 6) (a : BitVec 7)
  /-- RATOM (R284). Issues a remote atomic. -/
  | ratom (s : Bool) (c : BitVec 6) (a : BitVec 7)
  /-- RFLUSH (R285). Issues a placement barrier for earlier puts and atomics. -/
  | rflush (s : Bool) (c : BitVec 6) (a : BitVec 7)
  /-- KVLD (R286). Loads KV rows of a roost sequence into scratchpad with per-lane status. -/
  | kvld (s : Bool) (c : BitVec 6) (a : BitVec 7) (d : BitVec 7)
  /-- ROOST (R289). Issues registration of a sequence as a roost. -/
  | roost (s : Bool) (c : BitVec 6) (a : BitVec 7)
  /-- ROUSE (R290). Issues a rouse carrying a 64-bit payload. -/
  | rouse (s : Bool) (c : BitVec 6) (a : BitVec 7)
  /-- LNCH (R291). Submits a launch descriptor to a launch queue; record on accept or refuse. -/
  | lnch (s : Bool) (c : BitVec 6) (a : BitVec 7)
  /-- CNCL (R293). Cancels a level and writes its status to x(S). -/
  | cncl (s : Bool) (l : BitVec 2) (a : BitVec 7) (d : BitVec 7)
  /-- GANG (R292). Issues a gang launch at a device-time tick on every rank. -/
  | gang (s : Bool) (c : BitVec 6) (a : BitVec 7)
  /-- PSRD (R305). Reads a privileged special register. -/
  | psrd (s : Bool) (d : BitVec 7) (n : BitVec 7)
  /-- PSWR (R305). Writes a privileged special register under its access rule. -/
  | pswr (s : Bool) (a : BitVec 7) (n : BitVec 7)
  /-- GUARD_PREFIX (R149). Guards the following word on a predicate. -/
  | guardPrefix (n : Bool) (c : BitVec 3)
  /-- RESULT_LAND (R152). A variable-latency result lands and its pending bit clears. -/
  | resultLand (id : Nat)
  /-- STORE_PERFORM (R209). An accepted store or reduction is performed at memory. -/
  | storePerform (id : Nat)
  /-- WAITC_SO_REPEAT (R220). A waitc on a strongly ordered page repeats its compare every 1,024 clk. -/
  | waitcSoRepeat (crew : Nat) (lane : Nat)
  /-- BIN_AGED (R29). A reform bin's oldest thread reaches REFAGE clk. -/
  | binAged (qtr : Nat) (bin : Nat)
  /-- BIN_RELEASE (R30). A quarter releases one reform bin as an issue set. -/
  | binRelease (qtr : Nat)
  /-- SYSC_POST_HELD (R326). Held sysc threads post once a ring slot frees. -/
  | syscPostHeld (world : Nat)
  /-- COLLECTIVE_PERFORM (R32). A crew-collective is performed once every live thread has arrived. -/
  | collectivePerform (crew : Nat)
  /-- FAULT_ENTRY_POST_HELD (R39). A held sub-group posts its fault entry once one frees. -/
  | faultEntryPostHeld (group : Nat)
  /-- LAST_EXIT_RELEASE (R49). The held last EXIT ends once all block commands completed; unit counts finished. -/
  | lastExitRelease (unit : Nat)
  /-- KERNEL_BOUNDARY (R141). L1s are written back and invalidated between dependent launches. -/
  | kernelBoundary (world : Nat) (launch : Nat)
  /-- ASYNC_TRAP_ENTRY (R309). An asynchronous trap is taken at the thread's next boundary. -/
  | asyncTrapEntry (crew : Nat)
  /-- MLD_ST_PERFORM (R240). A shadow-plane load is performed; shadow becomes READY. -/
  | mldStPerform (qtr : Nat)
  /-- MSWAP_PERFORM (R240). The planes of a quarter are exchanged. -/
  | mswapPerform (qtr : Nat)
  /-- MMA_PERFORM (R241). A matrix multiply is performed and completes. -/
  | mmaPerform (qtr : Nat)
  /-- MST_PERFORM (R247). An accumulator store to scratchpad is performed. -/
  | mstPerform (qtr : Nat)
  /-- MACC_CLR_PERFORM (R248). Accumulator tiles are cleared. -/
  | maccClrPerform (qtr : Nat)
  /-- MACC_RD_LAND (R246). macc.rd result lands and acquires earlier matrix completions. -/
  | maccRdLand (qtr : Nat)
  /-- MSTAT_LAND (R249). mstat result lands with an acquire. -/
  | mstatLand (qtr : Nat)
  /-- ARRAY_UNCORRECTABLE_ERROR (R250). Uncorrectable error marks a row ERR or empties a plane and raises ENGINE_FAULT. -/
  | arrayUncorrectableError (qtr : Nat) (inPlane : Bool) (shadow : Bool) (row : Nat) (entry : Nat)
  /-- ENGINE_ENTRY_START (R266). An engine queue entry reaches its head and begins, taking a slot if DCBV. -/
  | engineEntryStart (entry : Nat)
  /-- CPY_COMPLETE (R264). A copy's last byte is written and its completion record follows. -/
  | cpyComplete (entry : Nat)
  /-- CPYRED_CHUNK_APPLY (R265). A fully staged 4 KiB chunk is applied to the destination. -/
  | cpyredChunkApply (entry : Nat)
  /-- COPY_REPLAY (R262). An abandoned copy is replayed whole once resident or cleared. -/
  | copyReplay (entry : Nat)
  /-- QFENCE_COMPLETE (R268). A queue fence completes when the named entries have. -/
  | qfenceComplete (entry : Nat)
  /-- QWAIT_COMPLETE (R269). A qwait completes when the other queue's count reaches the value. -/
  | qwaitComplete (entry : Nat)
  /-- HREAD_BURST_ARRIVE (R272). A burst arrives whole and enters the drip queue. -/
  | hreadBurstArrive (entry : Nat) (burst : Nat) (bytes : List Byte)
  /-- HREAD_BURST_FETCH_FAIL (R273). A failed burst fetch is retried alone or fails finally. -/
  | hreadBurstFetchFail (entry : Nat) (burst : Nat) (status : Nat) (reason : Nat) (final : Bool)
  /-- DRIP_BIRTH (R272). The oldest queued burst is born as a drip when a slot frees. -/
  | dripBirth (core : Nat) (quarter : Nat)
  /-- XSORT_COMPLETE (R276). The router writes PERM, COUNTS, OFFS and DBYTES or DATA_ERROR. -/
  | xsortComplete (entry : Nat)
  /-- GROUP_INSTANCE_BEGIN (R277). A group collective begins once every rank issued; kinds matched. -/
  | groupInstanceBegin (entry : Nat) (kinds : List Nat) (counts : List Nat) (noinnets : List Nat) (path : Nat) (fallback : Nat)
  /-- GROUP_WITHDRAWAL (R277). A rank's withdrawal ends the instance CANCELLED at the other ranks. -/
  | groupWithdrawal (entry : Nat) (rank : Nat)
  /-- A2AV_COUNT_EXCHANGE (R279). SMETA counts arrive; offsets computed, or DATA_ERROR or OVERFLOW. -/
  | a2avCountExchange (entry : Nat) (metas : List (List Nat))
  /-- A2AV_PART_PLACED (R279). A sender's data is placed and PEERDONE incremented; record when all placed. -/
  | a2avPartPlaced (entry : Nat) (sender : Nat) (bytes : List Byte)
  /-- AREDUCE_COMPLETE (R280). The reduced bits are written and the record made. -/
  | areduceComplete (entry : Nat) (contributions : List (List Byte))
  /-- RMA_REQUEST_RECEIVE (R408). The receiver checks a request against its window and places or refuses it. -/
  | rmaRequestReceive (req : RmaReq)
  /-- RPUT_COMPLETE (R283). All put bytes have left the sender; record written. -/
  | rputComplete (entry : Nat)
  /-- RGET_COMPLETE (R283). All got bytes are placed at LOC; record written. -/
  | rgetComplete (entry : Nat) (bytes : List Byte)
  /-- RATOM_COMPLETE (R284). The peer atomic's old value is written and the record follows. -/
  | ratomComplete (entry : Nat) (old : BitVec 64)
  /-- RFLUSH_COMPLETE (R285). Earlier puts and atomics are placed at the peer; record released. -/
  | rflushComplete (entry : Nat)
  /-- KVLD_STATUS_LAND (R287). Per-lane kvld row write and status land. -/
  | kvldStatusLand (id : Nat)
  /-- ROOST_REGISTERED (R289). The roost is registered, timers start and the record is written. -/
  | roostRegistered (entry : Nat)
  /-- ROUSE_ARRIVE (R290). A rouse arrives at the roost's device; payload written and ascent started. -/
  | rouseArrive (roost : Nat) (payload : BitVec 64) (sender : Nat)
  /-- GANG_PREPARE (R292). A rank checks the gang descriptor and time and reserves a placement. -/
  | gangPrepare (world : Nat) (ldesc : Nat) (tick : Nat) (queue : Nat) (issuer : Nat)
  /-- GANG_DECISION (R292). At TICK - 50 µs the issuer sends commit or abort. -/
  | gangDecision (entry : Nat) (reasons : List Nat)
  /-- GANG_COMMIT (R292). A rank receives commit and arms dispatch at TICK. -/
  | gangCommit (gang : Nat)
  /-- GANG_ABORT (R292). A rank receives abort and drops its launch. -/
  | gangAbort (gang : GangAbort)
  /-- GANG_TICK_DISPATCH (R292). At device time TICK the first unit is dispatched. -/
  | gangTickDispatch (gang : Nat)
  /-- PREEMPT_REQUEST (R314). The scheduler delivers PREEMPT to a victim, taking save slots. -/
  | preemptRequest (units : List Nat) (reason : Nat) (grace : Nat)
  /-- PREEMPT_GRACE_EXPIRY (R314). 100 µs grace ends without a save routine; the launch is cancelled. -/
  | preemptGraceExpiry (crew : Nat)
  /-- SAVE_DEADLINE_EXPIRY (R344). A victim crew not out of its save routine in 2 ms is cancelled. -/
  | saveDeadlineExpiry (crew : Nat)
  /-- CTXOP_SAVE (R320). %ctxop 1 writes the engine section of the image. -/
  | ctxopSave (crew : Nat)
  /-- CTXOP_RESTORE (R324). %ctxop 2 restores the engine state from the image. -/
  | ctxopRestore (crew : Nat)
  /-- ACCDAT_WRITE (R306). Writes an accumulator element at %accpos and advances COL. -/
  | accdatWrite (crew : Nat) (lane : Nat) (value : Word)
  /-- ACCSTAT_WRITE (R306). Writes a row status word at %accpos. -/
  | accstatWrite (crew : Nat) (lane : Nat) (value : Word)
  /-- RESUME_START (R323). The scheduler places a saved set and starts threads at vector 0x14. -/
  | resumeStart (launch : Nat)
  /-- SYSC_REPLY_DOORBELL (R327). Reply doorbell write applies a reply to blocked threads or drops it. -/
  | syscReplyDoorbell (world : Nat) (reqid : Word) (status : Word) (lanes : List Nat) (values : List Nat)
  /-- SYSC_ALLOC (R328). Service 1 allocates and maps a buddy block. -/
  | syscAlloc (world : Nat) (reqid : Word)
  /-- SYSC_FREE (R328). Service 2 unmaps and merges a buddy block. -/
  | syscFree (world : Nat) (reqid : Word)
  /-- KICK (R331). Write or atomic on TAIL submits queue entries or sets ERR QUEUE_FULL. -/
  | kick (world : Nat) (queue : Nat) (tail : Word)
  /-- QUEUE_ENTRY_TAKE (R330). A queue's head entry is read, checked and taken. -/
  | queueEntryTake (world : Nat) (queue : Nat)
  /-- CTRL_RESUME (R338). CTRL 1 resumes a held job. -/
  | ctrlResume (world : Nat)
  /-- CTRL_CANCEL (R338). CTRL 2 cancels the job. -/
  | ctrlCancel (world : Nat)
  /-- CTRL_CLOSE (R338). CTRL 3 closes the job. -/
  | ctrlClose (world : Nat)
  /-- CLAIM_UNIT (R341). CLAIMCMD 1 withdraws a saved unit for resumption elsewhere. -/
  | claimUnit (world : Nat)
  /-- CLAIM_FREE (R341). CLAIMCMD 2 frees the slots of a claimed unit. -/
  | claimFree (world : Nat)
  /-- PRIORITY_RISE (R342). Each full 100 µs undispatched raises effective priority by 1. -/
  | priorityRise (launch : Nat)
  /-- DISPATCH_UNIT (R343). The dispatcher places one unit of the chosen ready launch. -/
  | dispatchUnit (die : Nat)
  /-- STARVATION_PREEMPT (R344). After 1 ms unplaced at priority 8 the dispatcher pre-empts victims. -/
  | starvationPreempt (world : Nat)
  /-- LOCALITY_SCORE_HALVE (R347). Every 4,096 clk lost-locality scores halve. -/
  | localityScoreHalve (core : Nat)
  /-- THROTTLE_SWAP (R347). A crew held 1,024 clk replaces the lowest allowed crew for 256 clk. -/
  | throttleSwap (crew : Nat)
  /-- INVALIDATION_REQUEST (R352). Write to IREQ queues one invalidation. -/
  | invalidationRequest (world : Nat)
  /-- INVALIDATION_COMPLETE (R355). An invalidation's drops and drains finish and IDONE advances. -/
  | invalidationComplete (world : Nat)
  /-- FILL_DATA_RECEIVE (R383). All 64 KiB of a fill arrive and pass integrity. -/
  | fillDataReceive (service : Nat) (bytes : List Byte) (homeError : Bool) (dataver : Nat)
  /-- WAITER_RUN_WAKE (R376). The next run of waiters is woken after earlier replays. -/
  | waiterRunWake (service : Nat)
  /-- POST_FILL_HOLD_EXPIRY (R377). 8 µs after install the post-fill hold is released. -/
  | postFillHoldExpiry (service : Nat)
  /-- EVICTION_COMPLETE (R361). Write-back and recall done; the frame becomes Invalid. -/
  | evictionComplete (frame : Nat)
  /-- UNCORRECTABLE_MEMORY_ERROR (R363). An uncorrectable error poisons granules. A number below 2^48 is a PA (R348); above,
  (2 x owner + 1) x 2^48 and an offset name a place in the private window of crew `owner` (R113), (2 x owner + 2) x 2^48 and an
  address one in the scratchpad of unit `owner` (R260). -/
  | uncorrectableMemoryError (pa : Nat) (granules : Nat)
  /-- HOME_RDS (R367). Home serves a shared read request. -/
  | homeRds (line : Nat) (agent : Nat)
  /-- HOME_RDX (R367). Home serves an exclusive read request. -/
  | homeRdx (line : Nat) (agent : Nat)
  /-- HOME_UPG (R367). Home serves an upgrade request. -/
  | homeUpg (line : Nat) (agent : Nat)
  /-- HOME_WB (R367). Home serves a write-back, or drops it with WBStale. -/
  | homeWb (line : Nat) (agent : Nat)
  /-- HOME_EVE (R367). Home serves a drop of an E line. -/
  | homeEve (line : Nat) (agent : Nat)
  /-- HOME_ACK_RECEIVE (R367). Invalidation acks arrive; Grant or stable state follows. -/
  | homeAckReceive (line : Nat) (agent : Nat)
  /-- HOME_MEMORY_WRITE_DONE (R367). A write-back is written to memory and WBAck sent. -/
  | homeMemoryWriteDone (line : Nat)
  /-- AGENT_FWDS (R368). An agent answers a FwdS snoop. -/
  | agentFwds (line : Nat) (agent : Nat)
  /-- AGENT_FWDX (R368). An agent answers a FwdX snoop. -/
  | agentFwdx (line : Nat) (agent : Nat)
  /-- AGENT_INV (R368). An agent answers an Inv snoop. -/
  | agentInv (line : Nat) (agent : Nat)
  /-- AGENT_DATA_RECEIVE (R368). Requested data arrives at an agent; deferred snoops then answered. -/
  | agentDataReceive (line : Nat) (agent : Nat)
  /-- AGENT_GRANT_RECEIVE (R367). An upgrading agent receives Grant. -/
  | agentGrantReceive (line : Nat) (agent : Nat)
  /-- AGENT_WBACK_RECEIVE (R368). WBAck ends an agent's write-back. -/
  | agentWbackReceive (line : Nat) (agent : Nat)
  /-- AGENT_WBSTALE_RECEIVE (R368). WBStale ends an agent's write-back. -/
  | agentWbstaleReceive (line : Nat) (agent : Nat)
  /-- AGENT_LINE_DROP (R367). An agent drops a line, sending WB, EvE or nothing. -/
  | agentLineDrop (line : Nat) (agent : Nat)
  /-- SHARD_GETS (R380). The shard serves a read request for a name. -/
  | shardGets (job : Nat) (page : Nat) (rank : Nat)
  /-- SHARD_GETX (R380). The shard serves an ownership request. -/
  | shardGetx (job : Nat) (page : Nat) (rank : Nat)
  /-- SHARD_WBREL (R380). The shard serves a write-back release. -/
  | shardWbrel (job : Nat) (page : Nat) (rank : Nat) (bytes : List Byte)
  /-- SHARD_DROP (R380). The shard removes a Clean holder. -/
  | shardDrop (job : Nat) (page : Nat) (rank : Nat)
  /-- SHARD_HOME_ACK (R380). A home write ack ends XFER or WB_PENDING. -/
  | shardHomeAck (job : Nat) (page : Nat) (ok : Bool)
  /-- SHARD_RECALL_ACK (R380). Holder acks arrive and GRANT is sent. -/
  | shardRecallAck (job : Nat) (page : Nat) (rank : Nat)
  /-- HOLDER_RECALL (R380). A holder receives RECALL and acks or evicts. -/
  | holderRecall (job : Nat) (page : Nat)
  /-- OWNER_XFER_S (R381). Owner receives XFER-S, held for tenure then performed. -/
  | ownerXferS (job : Nat) (page : Nat) (dst : Nat)
  /-- OWNER_XFER_X (R381). Owner receives XFER-X, held for tenure then performed. -/
  | ownerXferX (job : Nat) (page : Nat) (dst : Nat)
  /-- TENURE_END (R381). 10 µs tenure ends and held transfers proceed. -/
  | tenureEnd (job : Nat) (page : Nat)
  /-- LOOKUP_ACK_RECEIVE (R380). The shard's acknowledgement ends the lookup phase. -/
  | lookupAckReceive (service : Nat) (noHome : Bool) (storage : Bool)
  /-- WBACK_RECEIVE (R382). An evicting owner receives WBACK and frees its buffer. -/
  | wbackReceive (job : Nat) (page : Nat)
  /-- STALE_RECEIVE (R382). An evicting owner receives STALE and frees its buffer. -/
  | staleReceive (job : Nat) (page : Nat)
  /-- HELD_RECEIVE (R395). A HELD answer suspends the requester's attempt timeout. -/
  | heldReceive (service : Nat)
  /-- HOME_WRITE_TIMEOUT (R442). A shard home write attempt times out; retried or declined. -/
  | homeWriteTimeout (job : Nat) (page : Nat)
  /-- ATTEMPT_TIMEOUT (R386). A lookup or fill attempt times out; retry or decline. -/
  | attemptTimeout (service : Nat) (pinned : Bool)
  /-- BACKOFF_EXPIRY (R386). A back-off before the next attempt expires. -/
  | backoffExpiry (service : Nat)
  /-- VICTIM_RETRY (R384). With no way free the NP chooses again every 1 µs. -/
  | victimRetry (service : Nat)
  /-- FRAME_AGING (R384). Every 64 µs frame AGE values are updated. -/
  | frameAging (touched : List Nat)
  /-- INSTALL_CLEAN (R389). Host installs a declined page Clean from CARG. -/
  | installClean (world : Nat)
  /-- INSTALL_DIRTY (R389). Host installs a declined page Owned-Dirty. -/
  | installDirty (world : Nat)
  /-- RETRY (R389). Host restarts a declined service at lookup. -/
  | retry (world : Nat)
  /-- KILL (R389). Host kills a declined service; waiters take DECLINED_KILL or DECLINED. -/
  | kill (world : Nat)
  /-- PIN (R389). Host pins a frame of the name. -/
  | pin (world : Nat)
  /-- UNPIN (R389). Host unpins a Pinned frame. -/
  | unpin (world : Nat)
  /-- DIRSET (R389). Host replaces or removes a directory entry at its shard. -/
  | dirset (world : Nat)
  /-- ROOST_T1_EXPIRY (R391). T1 expires; descent to CXL begins and T2 starts. -/
  | roostT1Expiry (roost : Nat)
  /-- ROOST_T2_EXPIRY (R391). T2 expires; descent to flash begins. -/
  | roostT2Expiry (roost : Nat)
  /-- PAGE_DESCENT_DONE (R392). A roost page finishes writing to the next tier. -/
  | pageDescentDone (roost : Nat) (page : Nat) (accepted : Bool)
  /-- PAGE_ASCENT_DONE (R393). An ascending page is resident; CONT submitted when the tail is in. -/
  | pageAscentDone (roost : Nat) (page : Nat)
  /-- CHECKPOINT_SAVE (R395). CKCMD 1 starts a checkpoint save or refuses. -/
  | checkpointSave
  /-- CHECKPOINT_RESTORE (R397). CKCMD 2 starts a restore or refuses. -/
  | checkpointRestore
  /-- CHECKPOINT_ABORT (R396). CKCMD 3 ends the stream at the next segment boundary. -/
  | checkpointAbort
  /-- CHECKPOINT_DRAIN_DONE (R395). Services and caches are drained; streaming begins. -/
  | checkpointDrainDone
  /-- CHECKPOINT_SEGMENT_DONE (R395). A 64 MiB segment is streamed, checked or written; last one ends the run. -/
  | checkpointSegmentDone (outcome : Nat) (bytes : List Byte)
  /-- PACKET_RECEIVE (R401). A fabric packet arrives; authenticated, placed once or dropped. -/
  | packetReceive (pkt : Packet)
  /-- RETRANSMIT_TIMEOUT (R403). An unacknowledged packet is retransmitted or transport fails. -/
  | retransmitTimeout (peer : Nat) (seq : Nat)
  /-- ACK_RECEIVE (R404). An acknowledgement arrives; a mark lowers the rate. -/
  | ackReceive (peer : Nat) (seq : Nat) (marked : Bool)
  /-- RATE_RISE_TICK (R404). Each unmarked 10 µs raises the send rate by 1 %. -/
  | rateRiseTick (peer : Nat)
  /-- PTP_SYNC (R405). A PTP message disciplines device time by slewing. -/
  | ptpSync (elapsed : Nat) (correction : Int)
  /-- DIE_FLIT_RECEIVE (R419). A die-to-die flit of a foreign world is dropped and counted. -/
  | dieFlitReceive (die : Nat) (world : Nat) (entry : Nat) (pa : Nat) (granules : Nat)
  /-- LINK_UNIT_RECEIVE (R422). A link unit's tag is checked; delivered or resent. -/
  | linkUnitReceive (link : Nat) (tagOk : Bool) (entry : Nat) (pa : Nat) (granules : Nat)
  /-- LINK_UNIT_CLOSE (R422). A link unit closes after 32 clk idle. -/
  | linkUnitClose (link : Nat)
  /-- LINK_KEY_RENEW (R422). Link keys are renewed before the counter reaches 2^48. -/
  | linkKeyRenew (link : Nat)
  /-- FIRMWARE_ACTIVATION (R411). A signed image is verified and activated or refused. -/
  | firmwareActivation (component : Nat) (target : Nat) (svn : Nat) (ecdsaOk : Bool) (hssOk : Bool) (digest : Nat) (live : Bool)
  /-- GET_VERSION (R412). SPDM GET_VERSION served. -/
  | getVersion (version : Nat)
  /-- GET_CAPABILITIES (R412). SPDM GET_CAPABILITIES served. -/
  | getCapabilities (version : Nat)
  /-- NEGOTIATE_ALGORITHMS (R412). SPDM NEGOTIATE_ALGORITHMS served. -/
  | negotiateAlgorithms (version : Nat) (supported : Bool)
  /-- GET_DIGESTS (R412). SPDM GET_DIGESTS served. -/
  | getDigests (version : Nat)
  /-- GET_CERTIFICATE (R412). SPDM GET_CERTIFICATE served for slot 0. -/
  | getCertificate (version : Nat) (slot : Nat)
  /-- CHALLENGE (R413). SPDM CHALLENGE answered with dual signatures. -/
  | challenge (version : Nat) (slot : Nat) (nonce : Nat)
  /-- GET_MEASUREMENTS (R414). SPDM GET_MEASUREMENTS served, or Busy during activation. -/
  | getMeasurements (version : Nat) (index : Nat) (signed : Bool) (nonce : Nat)
  /-- KEY_EXCHANGE (R412). SPDM KEY_EXCHANGE served. -/
  | keyExchange (version : Nat) (slot : Nat)
  /-- FINISH (R412). SPDM FINISH served. -/
  | finish (version : Nat) (session : Nat) (verified : Bool)
  /-- HEARTBEAT (R412). SPDM HEARTBEAT served. -/
  | heartbeat (version : Nat) (session : Nat)
  /-- KEY_UPDATE (R412). SPDM KEY_UPDATE served. -/
  | keyUpdate (version : Nat) (session : Nat)
  /-- END_SESSION (R412). SPDM END_SESSION served. -/
  | endSession (version : Nat) (session : Nat)
  /-- SPDM_UNSUPPORTED_REQUEST (R412). Other or old-version requests receive ERROR. -/
  | spdmUnsupportedRequest (version : Nat) (code : Nat)
  /-- LEASE_ATTESTATION (R416). The authority attests a switch and grants, extends or refuses a lease. -/
  | leaseAttestation (world : Nat) (swid : Nat) (outcome : Attest) (now : Nat)
  /-- LEASE_RENEWAL_DUE (R417). A quarter of LEASEMS left starts re-attestation. -/
  | leaseRenewalDue (world : Nat) (swid : Nat)
  /-- LEASE_BUSY_RETRY (R417). A Busy switch is re-attested every 1 ms. -/
  | leaseBusyRetry (world : Nat) (swid : Nat)
  /-- LEASE_EXPIRY (R418). A lease expires without renewal and becomes EXPIRED. -/
  | leaseExpiry (world : Nat) (swid : Nat)
  /-- LEASE_KEY_GRACE_END (R418). At EXPIRY + 1 s packets under the lease key are dropped. -/
  | leaseKeyGraceEnd (world : Nat) (swid : Nat)
  /-- LEASE_CHANGE_RECEIVE (R417). A rank receives a lease change and updates its mirror. -/
  | leaseChangeReceive (world : Nat) (swid : Nat) (state : Nat) (reason : Nat) (leaseNo : Nat) (expiry : Nat) (authNow : Nat)
  /-- SESSION_KEY_DISTRIBUTION (R423). The authority gives the job session key to an attested rank. -/
  | sessionKeyDistribution (job : Nat) (rank : Nat) (attested : Bool)
  /-- EPOCH_ADVANCE (R424). The transport epoch key advances after 2^40 packets or on request. -/
  | epochAdvance (job : Nat)
  /-- EPOCH_OVERLAP_END (R424). 1 s after an epoch change the old epoch is no longer accepted. -/
  | epochOverlapEnd (job : Nat)
  /-- WORLD_LATCH (R419). Firmware zeroes an idle die and latches a world into it. -/
  | worldLatch (die : Nat) (world : Nat)
  /-- WORLD_CREATE (R421). A world is created with a fresh key and opened job. -/
  | worldCreate (world : Nat) (job : Nat) (rank : Nat) (authRank : Nat) (regions : List Nat) (simagePa : Nat) (simageLen : Nat)
  /-- WORLD_TEARDOWN (R421). A world is torn down and its key destroyed. -/
  | worldTeardown (world : Nat)
  /-- RING_DOORBELL (R427). TAIL write lets the ring engine process slots in order. -/
  | ringDoorbell (world : Nat) (ring : Nat) (tail : Word)
  /-- RCMD_ENABLE (R428). RCMD 1 enables a disabled ring. -/
  | rcmdEnable (world : Nat) (ring : Nat)
  /-- RCMD_RESUME (R428). RCMD 2 resumes a halted ring at RSEQ. -/
  | rcmdResume (world : Nat) (ring : Nat)
  /-- RCMD_DISABLE (R428). RCMD 3 disables a ring. -/
  | rcmdDisable (world : Nat) (ring : Nat)
  /-- RING_REKEY (R426). Writer-requested rekey increments KEYGEN and resets EXPSEQ. -/
  | ringRekey (world : Nat) (ring : Nat)
  /-- SAMPLE_TICK (R430). Every SAMPPER clk a quarter writes an issue or stall sample. -/
  | sampleTick (qtr : Nat) (crew : Nat)
  /-- DCMD_HALT (R433). DCMD 1 halts the selected crew at instruction boundaries. -/
  | dcmdHalt (world : Nat)
  /-- DCMD_RESUME (R433). DCMD 2 ends the halt. -/
  | dcmdResume (world : Nat)
  /-- DCMD_STEP (R433). DCMD 3 lets one issue set perform one instruction. -/
  | dcmdStep (world : Nat)
  /-- PREFETCH_TICK (R437). Every 10 µs a stream opens prefetch services ahead of its counter. -/
  | prefetchTick (world : Nat) (stream : Nat)
  /-- POWER_ON (R435). Power-on runs the secure boot sequence. -/
  | powerOn (failed : Nat) (fcframes : Nat) (fcbase : Nat) (wayl : Nat) (dies : List Nat) (worlds : List WorldSpec) (cxl : List Bool)
  /-- POWER_STATE_CHANGE (R439). Firmware changes all compute dies' power state. -/
  | powerStateChange (pstate : Nat)
  /-- THERMAL_THRESHOLD (R440). A junction temperature crossing steps the power state. -/
  | thermalThreshold (reading : Nat × Nat)
  /-- REGISTER_WRITE (R8). Write to a register field without a row of its own, under its access rule. -/
  | registerWrite (page : PageRef) (off : Nat) (value : Word) (fromM : Bool)
  /-- PORT_DOWN (R402). An Ultra Ethernet port goes down and leaves the set of ports that carry sprayed and ROD traffic. -/
  | portDown (port : Nat)
  /-- PORT_UP (R402). An Ultra Ethernet port comes up and rejoins the ports that traffic is sprayed over. -/
  | portUp (port : Nat)
  /-- PTP_LOCK_LOSS (R405). The device loses lock to the PTP grandmaster, so the gang time check refuses with GANG_LATE. -/
  | ptpLockLoss
  /-- DEVICE_RESET (R397). Firmware resets the device, which releases a hold on dispatch and roost timers left by a restore that failed in its writing pass. -/
  | deviceReset
  /-- POWER_LOSS (R416). Power is lost; the secure clock must restart above every value it has reported. -/
  | powerLoss
  /-- JOB_OPEN (R337). Firmware opens a new job in an existing world, after which its queues take entries again. -/
  | jobOpen (world : Nat)
  /-- GRANT_RECEIVE (R381). A requester receives GRANT from the shard: a Clean frame of the same version becomes Owned-Dirty, or the fill proceeds, and tenure starts. -/
  | grantReceive (service : Nat) (dataver : Nat)
  /-- LIVE_ACTIVATION_END (R414). A live activation ends when the new measurement is recorded, after which GET_MEASUREMENTS stops answering Busy. -/
  | liveActivationEnd (component : Nat) (digest : Nat)
  deriving DecidableEq, Repr

end Sys2Proof
end

