-- ==== Sys2Proof/Config.lean ====
section
/-! DEFINITION. What an implementation fixes and the spec leaves open, and the free values: opaque constants with
no body, so that a theorem about them holds whatever they are (log entries 3 to 6, 11 and 15). -/

namespace Sys2Proof

/-- Fresh bits of the noise source (R202), by the free-value counter. -/
opaque Config.noise : Nat → Word

/-- How much device time (ns) passes between two samples (R60), by the free-value counter. -/
opaque Config.elapsed : Nat → Nat

/-- Which of two permitted contents a piece of an aborted copy leaves (R46), by the free-value counter: true, the new one. -/
opaque Config.tornNew : Nat → Bool

/-- Whether a walk that meets a table entry in change reads its low half as it was (R354), by the free-value counter. -/
opaque Config.olderRead : Nat → Bool

/-- From which write on, by its stamp, a load that scopes too narrow leave open does not see the writes to the 8 B that it
reads (R123, R132), by the free-value counter and the address. -/
opaque Config.olderFrom : Nat → Nat → Nat

/-- The next access of an RV64 core of the processor chiplet (R143), by the free-value counter: the core, the world, the
address, whether it is a load (0), a store (1), an atomic (2) or a fence (else), bytes to load or function number, the
bytes of a store, value and compare value. -/
opaque Config.rvAccess : Nat → Nat × Nat × Nat × Nat × Nat × List (BitVec 8) × BitVec 64 × BitVec 64

/-- The RV64 core that firmware designates for a world's interrupts (R338), modulo 16. -/
opaque Config.rvCore : Nat → Nat

/-- The L2 slice that holds a 128 B line, by its place's address (R124, R128). -/
opaque Config.slice : Nat → Nat

/-- Where firmware maps the pages of a world in the device-register range (R348); the checkpoint page and the debug
windows have addresses of the spec and are not asked here. -/
opaque Config.pageAt : Nat → Option PageRef

/-- The 64 KiB piece of generic space that the private window of a crew starts at (R113). -/
opaque Config.privatePage : Nat → Nat

/-- Which of the issuable or waiting sets of a crew is the oldest (R430), by the free-value counter. -/
opaque Config.oldestSet : Nat → Nat

/-- The port, among those that are up, and the entropy value that the key of an ordered flow, a peer and a class, hashes to
(R402). -/
opaque Config.flowPort : Nat → Nat → Nat × Nat

/-- The port, among those that are up, and the entropy value over which a packet of an unordered message is sprayed (R402),
by the free-value counter. -/
opaque Config.spray : Nat → Nat × Nat

/-- The identity of the device, which the record of a parked sub-group opens with (R320). -/
opaque Config.identity : Nat

/-- The blocks that the allocator of a world starts with (R328): address, log2 of the size, PA. -/
opaque Config.allocPool : Nat → List (Nat × Nat × Nat)

/-- How far above 4 the log2 of the slots of a world's system-call ring lies (R326). -/
opaque Config.syscLog : Nat → Nat

/-- The 16 KiB pieces of HBM that firmware keeps for the page tables of a world's allocator (R328). -/
opaque Config.tablePool : Nat → List Nat

/-- The ranks of a job's devices (R378, R380). -/
opaque Config.ranksOf : Nat → List Nat

/-- Where the shard device keeps a zero page once it has been written back, by job and page (R379). -/
opaque Config.zeroHome : Nat → Nat → Nat

/-- Where the region of HBM begins that firmware reserves for the code, tables and buffers of the network processor, and its
bytes (R372). -/
opaque Config.npRegion : Nat
opaque Config.npBytes : Nat

/-- The home that the answer of a shard elsewhere tells of (R380, R383), by the free-value counter: HOMEKIND, 0 where it
tells of none, HOMERANK and HOMEADDR. -/
opaque Config.homeTold : Nat → Nat × Nat × Nat

/-- The GMAC of the 48 bytes of a ring entry (R426), by world, generation of its memory key, ring, KEYGEN and bytes. -/
opaque Config.gmac : Nat → Nat → Nat → Nat → List (BitVec 8) → BitVec 128

/-- What a byte of a destroyed key's ciphertext reads as afterwards (R421), by the free-value counter and PA. -/
opaque Config.scrambled : Nat → Nat → BitVec 8

/-- What a byte of scratchpad holds after an uncorrectable error (R260), by the free-value counter and address: the spec
says what an engine makes of it, and no value. -/
opaque Config.brokenByte : Nat → Nat → BitVec 8

/-- Ciphertext of a block of HBM at a PA, and back (R362, R395, R397), by world and generation of its memory key. -/
opaque Config.cipher : Nat → Nat → Nat → List (BitVec 8) → List (BitVec 8)
opaque Config.decipher : Nat → Nat → Nat → List (BitVec 8) → List (BitVec 8)

/-- The 16 B key check value of a world's memory key (R395), by world and generation. -/
opaque Config.keyCheck : Nat → Nat → BitVec 128

/-- The SHA-384 digest of a component as it boots (R415, R435), by measurement index. -/
opaque Config.digest : Nat → Nat

/-- The SHA-384 digest of the configuration (R415): the world latched into each die, and each world with its regions of HBM;
the capability words are the same on every device. -/
opaque Config.layoutDigest : List Nat → List (Nat × List Nat) → Nat

/-- Length of firmware's M image, and the PAs of its 4 KiB pieces (R304). -/
opaque Config.mImageLen : Nat
opaque Config.mImagePages : List Nat

/-- What a device register that the spec gives no meaning reads as (R348), by the free-value counter. -/
opaque Config.foreignReg : Nat → BitVec 32

/-- Which of the outcomes that timing decides a sample shows (R430): 0 issued, 2 OPERAND, 6 STRONG, else SLOT. -/
opaque Config.sampled : Nat → Nat

/-- Which of the lines that an L1 holds, by position, go when a line is brought in (R347), by the addresses of those held,
last used first, and the new one's: the spec states the size of an L1 (R17, R116) and no replacement rule (log entry 15). -/
opaque Config.l1Evicts : List Nat → Nat → List Nat

/-- Which of the lines that the L2 of a die holds, by position, goes when it is full and another comes in, by their number
(R17, R116): the spec states the size and no replacement rule (log entry 15). -/
opaque Config.l2Victim : Nat → Nat

/-- W, the crew width (R17, R22). -/
abbrev crewWidth : Nat := 128

/-- The capability list (R72, R438): words 0 to 20. -/
def capWords : List Word :=
  [0x00010014, 0x01000080, 0x020000FF, 0x03048040, 0x04004008, 0x05000001, 0x06000001, 0x07000001, 0x08000002,
   0x09001008, 0x0A000007, 0x80080804, 0x81000400, 0x82001000, 0x83001008, 0x84000302, 0x85001000, 0x8600000F,
   0x87000C80, 0x88000034, 0x8900000F]

/-- The word at an index of the capability list; 0xFF00_0000 above n (R71). -/
def capWord (i : Nat) : Word := capWords.getD i 0xFF000000

end Sys2Proof
end

