-- ==== Sys2Proof/Machine/Fp.lean ====
section
/-! DEFINITION. Number formats and floating-point arithmetic (file 04): values are exact dyadic or rational numbers,
and every result is rounded once, at the end. -/

namespace Sys2Proof.Machine

/-- AFLG bits (R58). -/
abbrev Flags := BitVec 6

/-- NX, UF, OF, DZ, NV and SAT of R58. -/
def fNX : Flags := 1
def fUF : Flags := 2
def fOF : Flags := 4
def fDZ : Flags := 8
def fNV : Flags := 16
def fSAT : Flags := 32

/-- A floating-point format (R76): widths, bias, sign, and the greatest finite value `maxM * 2 ^ maxQ`. -/
structure Fmt where
  w : Nat
  mb : Nat
  eb : Nat
  bias : Nat
  signed : Bool
  /-- E all ones, M = 0 is an infinity and the rest NaN -/
  ieee : Bool
  maxM : Nat
  maxQ : Int
  /-- bits of the greatest finite code, and of the canonical NaN -/
  maxCode : Nat
  nan : Nat
  deriving DecidableEq, Repr

def fmtF32 : Fmt := ⟨32, 23, 8, 127, true, true, 0xFFFFFF, 104, 0x7F7FFFFF, 0x7FC00000⟩
def fmtF16 : Fmt := ⟨16, 10, 5, 15, true, true, 0x7FF, 5, 0x7BFF, 0x7E00⟩
def fmtBF16 : Fmt := ⟨16, 7, 8, 127, true, true, 0xFF, 120, 0x7F7F, 0x7FC0⟩
def fmtF8a : Fmt := ⟨8, 3, 4, 7, true, false, 14, 5, 0x7E, 0x7F⟩
def fmtF8b : Fmt := ⟨8, 2, 5, 15, true, true, 7, 13, 0x7B, 0x7E⟩
def fmtF4 : Fmt := ⟨4, 1, 2, 1, true, false, 3, 1, 7, 0⟩
def fmtSc8 : Fmt := ⟨8, 3, 5, 15, false, false, 14, 13, 0xFE, 0xFF⟩

/-- A value of a format (R77): NaN (signalling or quiet), infinity, or `± m * 2 ^ e`. -/
inductive FV where
  | nan (sig : Bool)
  | inf (neg : Bool)
  | fin (neg : Bool) (m : Nat) (e : Int)
  deriving DecidableEq, Repr

/-- A result and the flags it raises. -/
abbrev FR := Nat × Flags

/-- The value of a code (R76 to R78). -/
def fdecode (f : Fmt) (b : Nat) : FV :=
  let neg := f.signed && bitN b (f.w - 1)
  let e := fieldN b f.mb f.eb
  let m := fieldN b 0 f.mb
  if f.ieee && e == 2 ^ f.eb - 1 then
    if m = 0 then .inf neg else .nan (! bitN m (f.mb - 1))
  else if f.nan ≠ 0 && (b == f.nan || f.signed && ! f.ieee && b == f.nan + 2 ^ (f.w - 1)) then .nan false
  else if e = 0 then .fin neg m (1 - (f.bias : Int) - f.mb)
  else .fin neg (m + 2 ^ f.mb) ((e : Int) - f.bias - f.mb)

/-- Rounding modes of R82: 0 .rn, 1 .rz, 2 .rd, 3 .ru. Whether the magnitude `q + r / d` goes up to `q + 1`. -/
def roundUp (rm : Nat) (neg : Bool) (q r d : Nat) : Bool :=
  match rm with
  | 0 => decide (2 * r > d) || (decide (2 * r = d) && bitN q 0)
  | 1 => false
  | 2 => neg && decide (r ≠ 0)
  | _ => ! neg && decide (r ≠ 0)

/-- `num / den` in units of `2 ^ q`: quotient, remainder and the divisor it is counted in. -/
def scaleDiv (num den : Nat) (q : Int) : Nat × Nat × Nat :=
  let n := num * 2 ^ (-q).toNat
  let d := den * 2 ^ q.toNat
  (n / d, n % d, d)

/-- The binary exponent of a positive `num / den`. -/
def ilogQ (num den : Nat) : Int :=
  let e : Int := (Nat.log2 num : Int) - (Nat.log2 den : Int)
  if (scaleDiv num den e).1 = 0 then e - 1 else e

/-- The code of a finite value `m * 2 ^ q` of the format (R77). -/
def fencode (f : Fmt) (neg : Bool) (m : Nat) (q : Int) : Nat :=
  let s := if neg && f.signed then 2 ^ (f.w - 1) else 0
  if m < 2 ^ f.mb then s + m
  else if m < 2 ^ (f.mb + 1) then s + (q + f.mb + f.bias).toNat * 2 ^ f.mb + (m - 2 ^ f.mb)
  else s + (q + 1 + f.mb + f.bias).toNat * 2 ^ f.mb + (m / 2 - 2 ^ f.mb)

/-- The infinity of a format that has one. -/
def finf (f : Fmt) (neg : Bool) : Nat :=
  (2 ^ f.eb - 1) * 2 ^ f.mb + (if neg then 2 ^ (f.w - 1) else 0)

/-- The delivery of a value beyond the greatest finite one (R85). -/
def foverflow (f : Fmt) (rm : Nat) (neg : Bool) : FR :=
  let big := f.maxCode + (if neg && f.signed then 2 ^ (f.w - 1) else 0)
  let toInf := match rm with
    | 0 => true
    | 1 => false
    | 2 => neg
    | _ => ! neg
  (if f.ieee && toInf then finf f neg else big, fOF ||| fNX)

/-- The number `± num / den` rounded to the format (R81, R82, R84, R85); tininess is detected after rounding. -/
def roundQ (f : Fmt) (rm : Nat) (neg : Bool) (num den : Nat) : FR :=
  if num = 0 then (if neg && f.signed then 2 ^ (f.w - 1) else 0, 0)
  else
    let e := ilogQ num den
    let emin : Int := 1 - f.bias
    let q : Int := (if e < emin then emin else e) - f.mb
    let (m, r, d) := scaleDiv num den q
    let m' := if roundUp rm neg m r d then m + 1 else m
    -- m' * 2 ^ q against maxM * 2 ^ maxQ
    let past := if q ≥ f.maxQ then decide (m' * 2 ^ (q - f.maxQ).toNat > f.maxM)
      else decide (m' > f.maxM * 2 ^ (f.maxQ - q).toNat)
    if past then foverflow f rm neg
    else
      let inexact := decide (r ≠ 0)
      let q0 : Int := e - f.mb
      let (m0, r0, d0) := scaleDiv num den q0
      let m0' := if roundUp rm neg m0 r0 d0 then m0 + 1 else m0
      -- the result with an unbounded exponent range against 2 ^ emin
      let tiny := decide (e < emin) && ! (decide (e = emin - 1) && decide (m0' = 2 ^ (f.mb + 1)))
      (fencode f neg m' q, (if inexact then fNX else 0) ||| (if inexact && tiny then fUF else 0))

/-- `± m * 2 ^ e` rounded to the format. -/
def roundDy (f : Fmt) (rm : Nat) (neg : Bool) (m : Nat) (e : Int) : FR :=
  roundQ f rm neg (m * 2 ^ e.toNat) (2 ^ (-e).toNat)

/-- NV when either operand is a signalling NaN (R86). -/
def sigNV : FV → Flags
  | .nan true => fNV
  | _ => 0

/-- The signed number of a finite value in units of `2 ^ e0`, for `e0 ≤ e`. -/
def finInt (neg : Bool) (m : Nat) (e e0 : Int) : Int :=
  let v : Int := (m * 2 ^ (e - e0).toNat : Nat)
  if neg then -v else v

/-- The smaller of two exponents. -/
def minExp (a b : Int) : Int := if a < b then a else b

/-- a + b of two values, rounded to the format to nearest even (R81, R86, R178). -/
def faddV (f : Fmt) (a b : FV) : FR :=
  match a, b with
  | .nan _, _ => (f.nan, sigNV a ||| sigNV b)
  | _, .nan _ => (f.nan, sigNV a ||| sigNV b)
  | .inf s, .inf t => if s = t then (finf f s, 0) else (f.nan, fNV)
  | .inf s, .fin .. => (finf f s, 0)
  | .fin .., .inf t => (finf f t, 0)
  | .fin s m e, .fin t n g =>
    let e0 := minExp e g
    let v := finInt s m e e0 + finInt t n g e0
    if v = 0 then (if s && t && decide (m = 0) && decide (n = 0) then 2 ^ (f.w - 1) else 0, 0)
    else roundDy f 0 (decide (v < 0)) v.natAbs e0

/-- The exact product of two values, with NV for 0 times infinity and signalling operands. -/
def fmulX (a b : FV) : FV × Flags :=
  match a, b with
  | .nan _, _ => (.nan false, sigNV a ||| sigNV b)
  | _, .nan _ => (.nan false, sigNV a ||| sigNV b)
  | .inf s, .inf t => (.inf (s != t), 0)
  | .inf s, .fin t n _ => if n = 0 then (.nan false, fNV) else (.inf (s != t), 0)
  | .fin s m _, .inf t => if m = 0 then (.nan false, fNV) else (.inf (s != t), 0)
  | .fin s m e, .fin t n g => (.fin (s != t) (m * n) (e + g), 0)

/-- A value delivered in an arithmetic format, rounded to nearest even (R81, R85, R86). -/
def fdeliver (f : Fmt) (v : FV) : FR :=
  match v with
  | .nan _ => (f.nan, 0)
  | .inf s => (finf f s, 0)
  | .fin s m e => roundDy f 0 s m e

/-- a × b. -/
def fmulV (f : Fmt) (a b : FV) : FR :=
  let (p, fl) := fmulX a b
  let (r, fl') := fdeliver f p
  (r, fl ||| fl')

/-- a × b + c, rounded once; 0 × ∞ is invalid even beside a quiet NaN (R178). -/
def ffmaV (f : Fmt) (a b c : FV) : FR :=
  let (p, fl) := fmulX a b
  let (r, fl') := faddV f p c
  (r, fl ||| fl')

/-- The value with its sign changed. -/
def fnegV : FV → FV
  | .nan s => .nan s
  | .inf s => .inf (! s)
  | .fin s m e => .fin (! s) m e

/-- a ÷ b (R178). -/
def fdivV (f : Fmt) (a b : FV) : FR :=
  match a, b with
  | .nan _, _ => (f.nan, sigNV a ||| sigNV b)
  | _, .nan _ => (f.nan, sigNV a ||| sigNV b)
  | .inf _, .inf _ => (f.nan, fNV)
  | .inf s, .fin t _ _ => (finf f (s != t), 0)
  | .fin s _ _, .inf t => (if s != t then 2 ^ (f.w - 1) else 0, 0)
  | .fin s m e, .fin t n g =>
    if n = 0 then (if m = 0 then (f.nan, fNV) else (finf f (s != t), fDZ))
    else roundQ f 0 (s != t) (m * 2 ^ (e - g).toNat) (n * 2 ^ (g - e).toNat)

/-- The integer square root, bit by bit from `2 ^ (fuel - 1)` down. -/
def isqrtFrom (n : Nat) : Nat → Nat → Nat
  | 0, r => r
  | i + 1, r => isqrtFrom n i (if (r + 2 ^ i) * (r + 2 ^ i) ≤ n then r + 2 ^ i else r)

def isqrt (n : Nat) : Nat := isqrtFrom n (Nat.log2 n / 2 + 1) 0

/-- A real number known as `n / 2 ^ p` when exact and as lying strictly between `n / 2 ^ p` and the next such value
otherwise: the rational that rounds as it does. -/
def roundSticky (f : Fmt) (neg : Bool) (n p : Nat) (exact : Bool) : FR :=
  if exact then roundQ f 0 neg n (2 ^ p) else roundQ f 0 neg (2 * n + 1) (2 ^ (p + 1))

/-- √a (R178). -/
def fsqrtV (f : Fmt) (a : FV) : FR :=
  match a with
  | .nan _ => (f.nan, sigNV a)
  | .inf s => if s then (f.nan, fNV) else (finf f false, 0)
  | .fin s m e =>
    if m = 0 then (if s then 2 ^ (f.w - 1) else 0, 0)
    else if s then (f.nan, fNV)
    else
      -- m * 2 ^ e = n / 2 ^ 512 with n a whole number
      let n := m * 2 ^ (e + 512).toNat
      let r := isqrt n
      roundSticky f false r 256 (decide (r * r = n))

/-- Order of two non-NaN values with −0 below +0 (R179): a below b. -/
def fltV (a b : FV) : Bool :=
  match a, b with
  | .nan _, _ => false
  | _, .nan _ => false
  | .inf s, .inf t => s && ! t
  | .inf s, .fin .. => s
  | .fin .., .inf t => ! t
  | .fin s m e, .fin t n g =>
    let e0 := minExp e g
    let v := finInt s m e e0
    let w := finInt t n g e0
    decide (v < w) || (decide (v = w) && decide (v = 0) && s && ! t)

/-- Numerical relations of two non-NaN values, −0 equal to +0 (R180). -/
def feqV (a b : FV) : Bool :=
  match a, b with
  | .inf s, .inf t => s == t
  | .fin s m e, .fin t n g => finInt s m e (minExp e g) == finInt t n g (minExp e g)
  | _, _ => false

def fnumLt (a b : FV) : Bool := fltV a b && ! feqV a b

def isNanV : FV → Bool
  | .nan _ => true
  | _ => false

/-- fmin (`mx` false) and fmax (R86, R179) on codes of the format. -/
def fminmax (f : Fmt) (mx : Bool) (a b : Nat) : FR :=
  let x := fdecode f a
  let y := fdecode f b
  let nv := sigNV x ||| sigNV y
  if isNanV x then (if isNanV y then (f.nan, nv) else (b, nv))
  else if isNanV y then (a, nv)
  else if mx then (if fltV x y then b else a, 0) else (if fltV y x then b else a, 0)

/-- Comparisons 0 eq, 1 ne, 2 lt, 3 le, 4 gt, 5 ge (R86, R180). -/
def fcompare (fn : Nat) (a b : FV) : Bool × Flags :=
  if isNanV a || isNanV b then
    (decide (fn = 1), if fn ≤ 1 then sigNV a ||| sigNV b else fNV)
  else
    (match fn with
      | 0 => feqV a b
      | 1 => ! feqV a b
      | 2 => fnumLt a b
      | 3 => fnumLt a b || feqV a b
      | 4 => fnumLt b a
      | _ => fnumLt b a || feqV a b, 0)

/-- fabs and fneg (R179) on a code. -/
def fabsneg (f : Fmt) (negate : Bool) (a : Nat) : FR :=
  let x := fdecode f a
  if isNanV x then (f.nan, sigNV x)
  else
    let top := 2 ^ (f.w - 1)
    let s := bitN a (f.w - 1)
    (if negate then (if s then a - top else a + top) else (if s then a - top else a), 0)

/-! ## Special functions (R185, R186)

Each is computed in fixed point with `spP` fractional bits, far beyond what decides the rounding of a 24-bit result,
and rounded as the inexact number it is; the exact cases are taken apart first (log entry 7). -/

/-- Fractional bits of the fixed-point work. -/
def spP : Nat := 640

/-- π and ln 2 with 900 fractional bits. -/
def piFix : Nat := 0x3243f6a8885a308d313198a2e03707344a4093822299f31d0082efa98ec4e6c89452821e638d01377be5466cf34e90c6cc0ac29b7c97c50dd3f84d5b5b54709179216d5d98979fb1bd1310ba698dfb5ac2ffd72dbd01adfb7b8e1afed6a267e96ba7c9045f12c7f9924a19947b3916cf70
def ln2Fix : Nat := 0xb17217f7d1cf79abc9e3b39803f2f6af40f343267298b62d8a0d175b8baafa2be7b876206debac98559552fb4afa1b10ed2eae35c138214427573b291169b8253e96ca16224ae8c51acbda11317c387eb9ea9bc3b136603b256fa0ec7657f74b72ce87b19d6548caf5dfa6bd383032486

/-- ∑ x^n / n! for 0 ≤ x < 1 in units of 2 ^ -spP. -/
def expSeries (x : Nat) : Nat → Nat → Nat → Nat → Nat
  | 0, _, _, s => s
  | k + 1, n, t, s => expSeries x k (n + 1) (t * x / 2 ^ spP / (n + 1)) (s + t)

/-- e^x of `0 ≤ x < 1`. -/
def expFix (x : Nat) : Nat := expSeries x 160 0 (2 ^ spP) 0

/-- e^x for x = `± n / 2 ^ spP`: a mantissa in fixed point and a power of two. -/
def expFull (neg : Bool) (n : Nat) : Nat × Int :=
  let l := ln2Fix / 2 ^ (900 - spP)
  let k := n / l
  let r := n % l
  if neg then (if r = 0 then (2 ^ spP, -(k : Int)) else (expFix (l - r), -(k : Int) - 1))
  else (expFix r, (k : Int))

/-- Alternating series of sine (from n = 1) and cosine (from n = 0) in fixed point. -/
def trigSeries (x2 : Nat) : Nat → Nat → Nat → Bool → Int → Int
  | 0, _, _, _, s => s
  | k + 1, n, t, neg, s =>
    trigSeries x2 k (n + 2) (t * x2 / 2 ^ spP / ((n + 1) * (n + 2))) (! neg) (if neg then s - t else s + t)

/-- sin r and cos r for 0 ≤ r < 2. -/
def sinFix (r : Nat) : Int := trigSeries (r * r / 2 ^ spP) 110 1 r false 0
def cosFix (r : Nat) : Int := trigSeries (r * r / 2 ^ spP) 110 0 (2 ^ spP) false 0

/-- ∑ z^(2k+1) / (2k+1): the inverse hyperbolic tangent for z ≤ 1/3. -/
def atanhSeries (z2 : Nat) : Nat → Nat → Nat → Nat → Nat
  | 0, _, _, s => s
  | k + 1, n, t, s => atanhSeries z2 k (n + 2) (t * z2 / 2 ^ spP) (s + t / n)

/-- ln y for y = `n / 2 ^ spP` in [1, 2). -/
def lnFix (n : Nat) : Nat :=
  let one := 2 ^ spP
  let z := (n - one) * one / (n + one)
  2 * atanhSeries (z * z / one) 220 1 z 0

/-- An inexact result `± n / 2 ^ spP × 2 ^ e` of a special function in fp32. -/
def spRound (neg : Bool) (n : Nat) (e : Int) : FR :=
  roundQ fmtF32 0 neg ((2 * n + 1) * 2 ^ e.toNat) (2 ^ (spP + 1) * 2 ^ (-e).toNat)

/-- Magnitude of a finite value in fixed point (exact for every fp32 value). -/
def magFix (m : Nat) (e : Int) : Nat := m * 2 ^ (e + spP).toNat

/-- A value known to lie strictly below one by a hair, or above zero by a hair. -/
def hairBelowOne : Nat := 2 ^ spP - 1

/-- 1 ÷ a. -/
def spRecip (a : FV) : FR := fdivV fmtF32 (.fin false 1 0) a

/-- 1 ÷ √a. -/
def spRsqrt (a : FV) : FR :=
  match a with
  | .nan _ => (fmtF32.nan, sigNV a)
  | .inf s => if s then (fmtF32.nan, fNV) else (0, 0)
  | .fin s m e =>
    if m = 0 then (finf fmtF32 s, fDZ)
    else if s then (fmtF32.nan, fNV)
    else
      -- a = n / 2 ^ 512, so 1 / √a = √(2 ^ 512 / n) = √(2 ^ 1536 / n) / 2 ^ 512
      let n := m * 2 ^ (e + 512).toNat
      let r := isqrt (2 ^ 1536 / n)
      roundSticky fmtF32 false r 512 (decide (r * r * n = 2 ^ 1536))

/-- 2^a. -/
def spExp2 (a : FV) : FR :=
  match a with
  | .nan _ => (fmtF32.nan, sigNV a)
  | .inf s => if s then (0, 0) else (finf fmtF32 false, 0)
  | .fin s m e =>
    let x := magFix m e
    let one := 2 ^ spP
    if x ≥ 1000 * one then (if s then roundQ fmtF32 0 false 1 (2 ^ 1000) else foverflow fmtF32 0 false)
    else
      let k := x / one
      let f := x % one
      if f = 0 then
        roundQ fmtF32 0 false (if s then 1 else 2 ^ k) (if s then 2 ^ k else 1)
      else
        let l := ln2Fix / 2 ^ (900 - spP)
        if s then spRound false (expFix ((one - f) * l / one)) (-(k : Int) - 1)
        else spRound false (expFix (f * l / one)) k

/-- The base-2 logarithm. -/
def spLog2 (a : FV) : FR :=
  match a with
  | .nan _ => (fmtF32.nan, sigNV a)
  | .inf s => if s then (fmtF32.nan, fNV) else (finf fmtF32 false, 0)
  | .fin s m e =>
    if m = 0 then (finf fmtF32 true, fDZ)
    else if s then (fmtF32.nan, fNV)
    else
      let b := Nat.log2 m
      let k : Int := e + b
      let y := m * 2 ^ (spP - b)
      if y = 2 ^ spP then roundQ fmtF32 0 (decide (k < 0)) k.natAbs 1
      else
        let one : Int := (2 ^ spP : Nat)
        let v : Int := k * one + (lnFix y * 2 ^ spP / (ln2Fix / 2 ^ (900 - spP)) : Nat)
        spRound (decide (v < 0)) v.natAbs 0

/-- sin and cos: the argument is reduced by multiples of π ÷ 2 with 900 bits of π. -/
def spTrig (cosine : Bool) (a : FV) : FR :=
  match a with
  | .nan _ => (fmtF32.nan, sigNV a)
  | .inf _ => (fmtF32.nan, fNV)
  | .fin s m e =>
    if m = 0 then (if cosine then 0x3F800000 else if s then 0x80000000 else 0, 0)
    else
      let x := m * 2 ^ (e + 900).toNat
      let h := piFix / 2
      let k := x / h
      let r := x % h / 2 ^ (900 - spP)
      let k' := (if cosine then k + 1 else k) % 4
      let v := if k' % 2 = 0 then sinFix r else cosFix r
      let neg := decide (k' ≥ 2)
      spRound (if cosine then neg else neg != s) v.natAbs 0

/-- tanh a. -/
def spTanh (a : FV) : FR :=
  match a with
  | .nan _ => (fmtF32.nan, sigNV a)
  | .inf s => (if s then 0xBF800000 else 0x3F800000, 0)
  | .fin s m e =>
    if m = 0 then (if s then 0x80000000 else 0, 0)
    else
      let x := magFix m e
      let one := 2 ^ spP
      if x ≥ 100 * one then spRound s hairBelowOne 0
      else
        let (g, k) := expFull false (2 * x)
        let v := g * 2 ^ k.toNat
        spRound s ((v - one) * one / (v + one)) 0

/-- 1 ÷ (1 + e^−a). -/
def spSigm (a : FV) : FR :=
  match a with
  | .nan _ => (fmtF32.nan, sigNV a)
  | .inf s => (if s then 0 else 0x3F800000, 0)
  | .fin s m e =>
    if m = 0 then (0x3F000000, 0)
    else
      let x := magFix m e
      let one := 2 ^ spP
      if x ≥ 200 * one then (if s then roundQ fmtF32 0 false 1 (2 ^ 250) else spRound false hairBelowOne 0)
      else
        let (g, k) := expFull false x
        let v := g * 2 ^ k.toNat
        spRound false (if s then one * one / (one + v) else v * one / (one + v)) 0

end Sys2Proof.Machine
end

