-- ==== Sys2Proof/Machine/Flags.lean ====
section
/-! DEFINITION. The arithmetic of registers with the flags it raises: integer sets, conversions, packed halves,
dot products (files 04, 08, 10). -/

namespace Sys2Proof.Machine

/-! ## Integers -/

/-- Integer formats by R158 code: width and signedness. -/
def intFmt (code : Nat) : Option (Nat × Bool) :=
  match code with
  | 7 => some (32, true)
  | 8 => some (32, false)
  | 9 => some (16, true)
  | 10 => some (16, false)
  | 11 => some (8, true)
  | 12 => some (8, false)
  | 13 => some (4, true)
  | 14 => some (4, false)
  | _ => none

/-- Floating-point formats by R158 code. -/
def floatFmt (code : Nat) : Option Fmt :=
  match code with
  | 0 => some fmtF32
  | 1 => some fmtF16
  | 2 => some fmtBF16
  | 3 => some fmtF8a
  | 4 => some fmtF8b
  | 5 => some fmtF4
  | 6 => some fmtSc8
  | _ => none

/-- Element width of a format code (R182). -/
def fmtWidth (code : Nat) : Nat :=
  match intFmt code with
  | some (w, _) => w
  | none => match floatFmt code with
    | some f => f.w
    | none => 32

/-- The integer that a `w`-bit pattern stands for (R79). -/
def intOf (w : Nat) (signed : Bool) (b : Nat) : Int :=
  if signed && bitN b (w - 1) then (b : Int) - (2 ^ w : Nat) else b

/-- The `w`-bit pattern of an integer, modulo 2^w. -/
def patOf (w : Nat) (v : Int) : Nat := (v % (2 ^ w : Nat)).toNat

/-- Bounds of an integer format. -/
def intMin (w : Nat) (signed : Bool) : Int := if signed then -(2 ^ (w - 1) : Nat) else 0
def intMax (w : Nat) (signed : Bool) : Int := if signed then (2 ^ (w - 1) : Nat) - 1 else (2 ^ w : Nat) - 1

/-- An integer clamped to a format, and whether it was clamped (R182, R94). -/
def clampInt (w : Nat) (signed : Bool) (v : Int) : Int × Bool :=
  if v < intMin w signed then (intMin w signed, true)
  else if v > intMax w signed then (intMax w signed, true) else (v, false)

/-- The functions of set I (R173) in the order of FN. -/
inductive SetI where
  | add | sub | mul | mulhiS | mulhiU | and | or | xor | shl | shr | sar | minS | maxS | minU | maxU | addsS
  deriving DecidableEq, Repr

/-- Set I on 32-bit operands (R173): the result, and SAT when adds clamps. -/
def setI (fn : SetI) (a b : Word) : Word × Flags :=
  match fn with
  | .add => (a + b, 0)
  | .sub => (a - b, 0)
  | .mul => (a * b, 0)
  | .mulhiS => ((a.signExtend 64 * b.signExtend 64).extractLsb' 32 32, 0)
  | .mulhiU => ((a.zeroExtend 64 * b.zeroExtend 64).extractLsb' 32 32, 0)
  | .and => (a &&& b, 0)
  | .or => (a ||| b, 0)
  | .xor => (a ^^^ b, 0)
  | .shl => (if b.toNat ≥ 32 then 0 else a <<< b.toNat, 0)
  | .shr => (if b.toNat ≥ 32 then 0 else a >>> b.toNat, 0)
  | .sar => (if b.toNat ≥ 32 then (if a.msb then 0xFFFFFFFF else 0) else a.sshiftRight b.toNat, 0)
  | .minS => (if b.slt a then b else a, 0)
  | .maxS => (if a.slt b then b else a, 0)
  | .minU => (if b < a then b else a, 0)
  | .maxU => (if a < b then b else a, 0)
  | .addsS =>
    let (v, sat) := clampInt 32 true (a.toInt + b.toInt)
    (BitVec.ofInt 32 v, if sat then fSAT else 0)

/-- The relations of set C (R175) in the order of FN. -/
inductive SetC where
  | eq | ne | ltS | leS | gtS | geS | ltU | leU | gtU | geU
  deriving DecidableEq, Repr

/-- Whether the relation holds (R175). -/
def setC (fn : SetC) (a b : Word) : Bool :=
  match fn with
  | .eq => a == b
  | .ne => a != b
  | .ltS => a.slt b
  | .leS => a.sle b
  | .gtS => b.slt a
  | .geS => b.sle a
  | .ltU => a.ult b
  | .leU => a.ule b
  | .gtU => b.ult a
  | .geU => b.ule a

/-- Bits of a word that are 1 (R176). -/
def popCount (a : Word) : Nat := (List.range 32).foldl (fun n i => if a.getLsbD i then n + 1 else n) 0

/-- Leading 0 bits; 32 for 0 (R176). -/
def leadZeros (a : Word) : Nat := if a = 0 then 32 else 31 - Nat.log2 a.toNat

/-- Bit i moved to bit 31 − i (R176). -/
def bitReverse (a : Word) : Word :=
  BitVec.ofNat 32 ((List.range 32).foldl (fun n i => if a.getLsbD i then n + 2 ^ (31 - i) else n) 0)

/-! ## Packed elements (R80) -/

/-- Element `i` of width `w` of a word. -/
def elemOf (w i : Nat) (x : Word) : Nat := fieldN x.toNat (w * i) w

/-- A word from its elements of width `w`, lowest first. -/
def packElems (w : Nat) (l : List Nat) : Word := BitVec.ofNat 32 (l.foldr (fun e n => e % 2 ^ w + 2 ^ w * n) 0)

/-- The OR of flags over a list. -/
def orFlags (l : List Flags) : Flags := l.foldl (· ||| ·) 0

/-! ## fp32 and packed halves -/

/-- The functions of set F (R178) in the order of FN. -/
inductive SetF where
  | fadd | fsub | fmul | ffma | fmin | fmax | fdiv | fsqrt | fabs | fneg
  deriving DecidableEq, Repr

/-- Set F on codes of a format: a, b and the old destination d (R178, R179). -/
def setF (f : Fmt) (fn : SetF) (a b d : Nat) : FR :=
  match fn with
  | .fadd => faddV f (fdecode f a) (fdecode f b)
  | .fsub => faddV f (fdecode f a) (fnegV (fdecode f b))
  | .fmul => fmulV f (fdecode f a) (fdecode f b)
  | .ffma => ffmaV f (fdecode f a) (fdecode f b) (fdecode f d)
  | .fmin => fminmax f false a b
  | .fmax => fminmax f true a b
  | .fdiv => fdivV f (fdecode f a) (fdecode f b)
  | .fsqrt => fsqrtV f (fdecode f a)
  | .fabs => fabsneg f false a
  | .fneg => fabsneg f true a

/-- Set F on fp32 registers. -/
def setF32 (fn : SetF) (a b d : Word) : Word × Flags :=
  let (r, fl) := setF fmtF32 fn a.toNat b.toNat d.toNat
  (BitVec.ofNat 32 r, fl)

/-- Set F on both halves of packed registers (R181). -/
def setFPacked (f : Fmt) (fn : SetF) (a b d : Word) : Word × Flags :=
  let r0 := setF f fn (elemOf 16 0 a) (elemOf 16 0 b) (elemOf 16 0 d)
  let r1 := setF f fn (elemOf 16 1 a) (elemOf 16 1 b) (elemOf 16 1 d)
  (packElems 16 [r0.1, r1.1], r0.2 ||| r1.2)

/-- fcmp on fp32 registers (R180). -/
def fcmp32 (fn : Nat) (a b : Word) : Bool × Flags :=
  fcompare fn (fdecode fmtF32 a.toNat) (fdecode fmtF32 b.toNat)

/-- The special functions (R185) in the order of FN. -/
inductive Spec where
  | recip | rsqrt | exp2 | log2 | sin | cos | tanh | sigm
  deriving DecidableEq, Repr

def special (fn : Spec) (a : Word) : Word × Flags :=
  let v := fdecode fmtF32 a.toNat
  let (r, fl) := match fn with
    | .recip => spRecip v
    | .rsqrt => spRsqrt v
    | .exp2 => spExp2 v
    | .log2 => spLog2 v
    | .sin => spTrig false v
    | .cos => spTrig true v
    | .tanh => spTanh v
    | .sigm => spSigm v
  (BitVec.ofNat 32 r, fl)

/-! ## Conversion (R82, R84, R85, R88, R182) -/

/-- The number `± num / den` rounded to an integer (R82), and whether that was inexact. -/
def roundInt (rm : Nat) (neg : Bool) (num den : Nat) : Int × Bool :=
  let q := num / den
  let r := num % den
  let m : Int := (if roundUp rm neg q r den then q + 1 else q : Nat)
  (if neg then -m else m, decide (r ≠ 0))

/-- The exact number `± num / den` delivered in format `code` as from a floating-point source (R88). Whether a finite
source is in range is judged on the rounded value: R88 does not say which (log entry 24, DESIGN CHOICE). -/
def deliverFloatNum (code rm : Nat) (neg : Bool) (num den : Nat) : FR :=
  match intFmt code with
  | some (w, sg) =>
    let (v, inexact) := roundInt rm neg num den
    let (c, clamped) := clampInt w sg v
    (patOf w c, if clamped then fNV ||| fSAT ||| fNX else if inexact then fNX else 0)
  | none =>
    match floatFmt code with
    | some f => if ! f.signed && neg && decide (num ≠ 0) then (f.nan, fNV) else roundQ f rm neg num den
    | none => (0, 0)

/-- A floating-point value delivered in format `code` (R88). -/
def deliverFloat (code rm : Nat) (v : FV) : FR :=
  match v with
  | .fin s m e => deliverFloatNum code rm s (m * 2 ^ e.toNat) (2 ^ (-e).toNat)
  | .inf s =>
    match intFmt code with
    | some (w, sg) => (patOf w (if s then intMin w sg else intMax w sg), fNV ||| fSAT)
    | none =>
      match floatFmt code with
      | some f =>
        if f.ieee then (finf f s, 0)
        else if ! f.signed && s then (f.nan, fNV)
        else (f.maxCode + (if s then 2 ^ (f.w - 1) else 0), fNV)
      | none => (0, 0)
  | .nan sig =>
    match intFmt code with
    | some _ => (0, fNV)
    | none =>
      match floatFmt code with
      | some f => (f.nan, if f.w = 4 || ! f.signed || sig then fNV else 0)
      | none => (0, 0)

/-- An exact integer quotient `v / den` delivered in format `code` as from an integer source (R182, R245): clamps set
SAT alone; a floating-point destination is rounded under R82 and R85. -/
def deliverIntNum (code rm : Nat) (v : Int) (den : Nat) : FR :=
  match intFmt code with
  | some (w, sg) =>
    let hi : Int := if sg then 2 ^ (w - 1) - 1 else 2 ^ w - 1
    let lo : Int := if sg then -(2 ^ (w - 1)) else 0
    if v > hi * den then (patOf w hi, fSAT)
    else if v < lo * den then (patOf w lo, fSAT)
    else
      let (r, inexact) := roundInt rm (decide (v < 0)) v.natAbs den
      (patOf w r, if inexact then fNX else 0)
  | none =>
    match floatFmt code with
    | some f => if ! f.signed && decide (v < 0) then (f.nan, fNV) else roundQ f rm (decide (v < 0)) v.natAbs den
    | none => (0, 0)

/-- One element converted from format `src` to format `dst` (R182). -/
def cvtElem (src dst rm b : Nat) : FR :=
  match intFmt src with
  | some (w, sg) => deliverIntNum dst rm (intOf w sg b) 1
  | none =>
    match floatFmt src with
    | some f =>
      let v := fdecode f b
      let (r, fl) := deliverFloat dst rm v
      -- an sc8 NaN source sets NV (R182)
      (r, if ! f.signed && isNanV v then fl ||| fNV else fl)
    | none => (0, 0)

/-- The bits above a scalar result: copies of its sign for signed integers, zero otherwise (R183). -/
def widenScalar (dst r : Nat) : Word :=
  match intFmt dst with
  | some (w, true) => BitVec.ofInt 32 (intOf w true r)
  | _ => BitVec.ofNat 32 r

/-- cvt without .pk (R183). -/
def cvtScalar (src dst rm : Nat) (a : Word) : Word × Flags :=
  let (r, fl) := cvtElem src dst rm (elemOf (fmtWidth src) 0 a)
  (widenScalar dst r, fl)

/-- cvt with .pk (R183): source registers to destination registers. -/
def cvtPacked (src dst rm : Nat) (as : List Word) : List Word × Flags :=
  let ws := fmtWidth src
  let wd := fmtWidth dst
  let n := 32 / (if ws < wd then ws else wd)
  let rs := (List.range n).map fun i => cvtElem src dst rm (elemOf ws (i % (32 / ws)) (as.getD (i / (32 / ws)) 0))
  let per := 32 / wd
  ((List.range (n * wd / 32)).map fun j => packElems wd (((rs.drop (j * per)).take per).map (·.1)),
    orFlags (rs.map (·.2)))

/-- Registers a packed conversion reads and writes (R183). -/
def cvtSrcRegs (src dst : Nat) (pk : Bool) : Nat :=
  if pk then 32 / (if fmtWidth src < fmtWidth dst then fmtWidth src else fmtWidth dst) * fmtWidth src / 32 else 1
def cvtDstRegs (src dst : Nat) (pk : Bool) : Nat :=
  if pk then 32 / (if fmtWidth src < fmtWidth dst then fmtWidth src else fmtWidth dst) * fmtWidth dst / 32 else 1

/-! ## Sums of terms (R89 to R94) -/

/-- Even and odd chains of R91 in fp32: `e` over terms 0, 2, …, `o` over terms 1, 3, …. -/
def chainSum (acc : Nat) (fl : Flags) : List Nat → Nat × Flags
  | [] => (acc, fl)
  | t :: r =>
    let (v, f) := faddV fmtF32 (fdecode fmtF32 acc) (fdecode fmtF32 t)
    chainSum v (fl ||| f) r

/-- Every second element of a list. -/
def evens {α : Type} : List α → List α
  | [] => []
  | [x] => [x]
  | x :: _ :: r => x :: evens r

/-- The sum of terms onto the old accumulator in the order of R91. -/
def r91sum (acc : Nat) (ts : List Nat) : Nat × Flags :=
  let (e, fe) := chainSum acc 0 (evens ts)
  match evens (ts.drop 1) with
  | [] => (e, fe)
  | o0 :: os =>
    let (o, fo) := chainSum o0 0 os
    let (r, fr) := faddV fmtF32 (fdecode fmtF32 e) (fdecode fmtF32 o)
    (r, fe ||| fo ||| fr)

/-- One term of a floating-point sum (R89, R92): a × w, then both scales when there are any, as an fp32 code. -/
def floatTerm (fa fw : Fmt) (a w : Nat) (scales : Option (Nat × Nat)) : FR :=
  let (p, fl) := fmulX (fdecode fa a) (fdecode fw w)
  match scales with
  | none =>
    let (r, fl') := fdeliver fmtF32 p
    (r, fl ||| fl')
  | some (sa, sw) =>
    let va := fdecode fmtSc8 sa
    let vw := fdecode fmtSc8 sw
    let (p1, f1) := fmulX p va
    let (p2, f2) := fmulX p1 vw
    let (r, f3) := fdeliver fmtF32 p2
    (r, fl ||| f1 ||| f2 ||| f3 ||| (if isNanV va || isNanV vw then fNV else 0))

/-- A floating-point dot: terms from element pairs, summed onto the accumulator (R230, R231, R241). -/
def floatDot (fa fw : Fmt) (acc : Nat) (pairs : List (Nat × Nat × Option (Nat × Nat))) : Nat × Flags :=
  let ts := pairs.map fun (a, w, s) => floatTerm fa fw a w s
  let (r, fl) := r91sum acc (ts.map (·.1))
  (r, fl ||| orFlags (ts.map (·.2)))

/-- The clamp at a promotion (R94). -/
def promote (acc : Int) (g : Int) : Int × Flags :=
  let (v, c) := clampInt 32 true (acc + g)
  (v, if c then fSAT else 0)

/-- Groups of 32 products summed exactly and promoted in turn (R93, R94). -/
def groupSums : Nat → Int → List Int → Int × Flags
  | 0, acc, _ => (acc, 0)
  | fuel + 1, acc, ps =>
    match ps with
    | [] => (acc, 0)
    | _ =>
      let (v, f) := promote acc ((ps.take 32).foldl (· + ·) 0)
      let (r, f') := groupSums fuel v (ps.drop 32)
      (r, f ||| f')

/-- An integer dot: exact products by groups onto a si32 accumulator. -/
def intDot (acc : Nat) (ps : List Int) : Nat × Flags :=
  let (v, f) := groupSums (ps.length + 1) (intOf 32 true acc) ps
  (patOf 32 v, f)

/-- Per-lane dot forms (R230): element width, formats, and count. -/
inductive Dot where
  | si8 | si8ui8 | si4 | si4ui4 | f8a | f8b | f4 | bf16 | f16
  deriving DecidableEq, Repr

/-- Elements of two words side by side. -/
def elemPairs (w : Nat) (a b : Word) : List (Nat × Nat) :=
  (List.range (32 / w)).map fun i => (elemOf w i a, elemOf w i b)

def intDotW (w : Nat) (wSigned : Bool) (acc a b : Word) : Word × Flags :=
  let (r, f) := intDot acc.toNat ((elemPairs w a b).map fun (x, y) => intOf w true x * intOf w wSigned y)
  (BitVec.ofNat 32 r, f)

def floatDotW (f : Fmt) (acc a b : Word) : Word × Flags :=
  let (r, fl) := floatDot f f acc.toNat ((elemPairs f.w a b).map fun (x, y) => (x, y, none))
  (BitVec.ofNat 32 r, fl)

/-- The dot products of major 0x16. -/
def dot (d : Dot) (acc a b : Word) : Word × Flags :=
  match d with
  | .si8 => intDotW 8 true acc a b
  | .si8ui8 => intDotW 8 false acc a b
  | .si4 => intDotW 4 true acc a b
  | .si4ui4 => intDotW 4 false acc a b
  | .f8a => floatDotW fmtF8a acc a b
  | .f8b => floatDotW fmtF8b acc a b
  | .f4 => floatDotW fmtF4 acc a b
  | .bf16 => floatDotW fmtBF16 acc a b
  | .f16 => floatDotW fmtF16 acc a b

/-- The scaled dots of major 0x17 (R231): byte k of both scale registers, byte k + 1 for f4 elements 4 to 7. -/
def dotScaled (f : Fmt) (k : Nat) (acc a b sa sw : Word) : Word × Flags :=
  let pairs := (List.range (32 / f.w)).map fun i =>
    let kk := if i < 4 then k else k + 1
    (elemOf f.w i a, elemOf f.w i b, some (elemOf 8 kk sa, elemOf 8 kk sw))
  let (r, fl) := floatDot f f acc.toNat pairs
  (BitVec.ofNat 32 r, fl)

/-- The conversion of macc.rd and mst (R245): accumulator bits, INT, scale byte, format, rounding. -/
def accConvert (int : Bool) (osc fmt rm : Nat) (bits : Word) : FR :=
  let s := fdecode fmtSc8 osc
  if int then
    match s with
    | .fin _ m e =>
      let v : Int := intOf 32 true bits.toNat * (m * 2 ^ e.toNat : Nat)
      deliverIntNum fmt rm v (2 ^ (-e).toNat)
    | _ => deliverFloat fmt rm (.nan true)
  else
    let v := fdecode fmtF32 bits.toNat
    let (p, fl) := fmulX v s
    let (r, fl') := deliverFloat fmt rm p
    (r, fl ||| fl' ||| (if isNanV s then fNV else 0))

/-- A NaN or infinity of a KV element (R288). -/
def badKv (f : Fmt) (b : Nat) : Bool :=
  match fdecode f b with
  | .fin .. => false
  | _ => true

end Sys2Proof.Machine
end

