-- ==== Sys2Proof/Machine/Tab.lean ====
section
/-! DEFINITION. Canonical sparse tables: lists of (key, value) with strictly rising keys and no entry equal to
what an unlisted key reads as. Registers, memory and every other sparse store of the machine are such tables,
so that equal contents are equal data. -/

namespace Sys2Proof.Machine

/-- A sparse table: key and value pairs in canonical form. -/
abbrev Tab (β : Type) := List (Nat × β)

/-- The value at key `k`, where an unlisted key reads as `d`. -/
def tabGet {β : Type} (t : Tab β) (d : β) (k : Nat) : β :=
  match t with
  | [] => d
  | (k', v) :: r => if k = k' then v else tabGet r d k

/-- `t` with `v` at key `k`; writing the value `d` that an unlisted key reads as removes the entry. -/
def tabPut {β : Type} [DecidableEq β] (t : Tab β) (d : β) (k : Nat) (v : β) : Tab β :=
  match t with
  | [] => if v = d then [] else [(k, v)]
  | (k', v') :: r =>
    if k < k' then (if v = d then (k', v') :: r else (k, v) :: (k', v') :: r)
    else if k = k' then (if v = d then r else (k, v) :: r)
    else (k', v') :: tabPut r d k v

/-- The canonical form where key `k` reads as `d k` when unlisted: keys rise strictly from `lo`, no listed value
is the unlisted one. -/
def tabWfFrom {β : Type} [DecidableEq β] (d : Nat → β) : Nat → Tab β → Bool
  | _, [] => true
  | lo, (k, v) :: r => decide (lo ≤ k) && decide (v ≠ d k) && tabWfFrom d (k + 1) r

/-- The canonical form of a whole table. -/
def tabWf {β : Type} [DecidableEq β] (d : Nat → β) (t : Tab β) : Bool := tabWfFrom d 0 t

/-- The first element of a list for which `p` holds, with its replacement by `f` in place. -/
def updFirst {α : Type} (p : α → Bool) (f : α → α) : List α → List α
  | [] => []
  | x :: r => if p x then f x :: r else x :: updFirst p f r

/-- `insertBy lt x l`: `x` put into a list sorted by `lt`, after its equals. -/
def insertBy {α : Type} (lt : α → α → Bool) (x : α) : List α → List α
  | [] => [x]
  | y :: r => if lt x y then x :: y :: r else y :: insertBy lt x r

/-- Insertion sort, stable. -/
def sortBy {α : Type} (lt : α → α → Bool) (l : List α) : List α :=
  l.foldr (fun x acc => insertLeft lt x acc) []
where
  /-- insertion before equals, so that reading the list from its end keeps equals in order -/
  insertLeft (lt : α → α → Bool) (x : α) : List α → List α
    | [] => [x]
    | y :: r => if lt y x then y :: insertLeft lt x r else x :: y :: r

/-- The element of a list that `better` prefers to all before it; the first of equals. -/
def pickBy {α : Type} (better : α → α → Bool) : List α → Option α
  | [] => none
  | x :: r =>
    match pickBy better r with
    | none => some x
    | some y => if better y x then some y else some x

/-- The least value of a list of numbers, `none` when it is empty. -/
def minOf : List Nat → Option Nat
  | [] => none
  | x :: r => match minOf r with
    | none => some x
    | some y => some (if y < x then y else x)

end Sys2Proof.Machine
end

