-- ==== Sys2Proof/Machine/State.lean ====
section
/-! DEFINITION. The state of the machine as plain data: one Chesyn device, with everything the spec gives it.
Peers, switches, storage servers, firmware and the host are its surroundings (R1) and act through event rows. -/

namespace Sys2Proof.Machine

/-- Bytes by address (or by offset in a space), in canonical form. -/
abbrev Memory := List Host.Cell

/-! ## Events -/

/-- The steps that no word encodes, as the agenda holds them: each is the row of the same name of the opcode table. -/
inductive Event where
  | resultLand (id : Nat)
  | storePerform (id : Nat)
  | waitcSoRepeat (crew : Nat) (lane : Nat)
  | binAged (qtr : Nat) (bin : Nat)
  | binRelease (qtr : Nat)
  | syscPostHeld (world : Nat)
  | collectivePerform (crew : Nat)
  | faultEntryPostHeld (group : Nat)
  | lastExitRelease (unit : Nat)
  | kernelBoundary (world : Nat) (launch : Nat)
  | asyncTrapEntry (crew : Nat)
  | mldStPerform (qtr : Nat)
  | mswapPerform (qtr : Nat)
  | mmaPerform (qtr : Nat)
  | mstPerform (qtr : Nat)
  | maccClrPerform (qtr : Nat)
  | maccRdLand (qtr : Nat)
  | mstatLand (qtr : Nat)
  | arrayUncorrectableError (qtr : Nat) (inPlane : Bool) (shadow : Bool) (row : Nat) (entry : Nat)
  | engineEntryStart (entry : Nat)
  | cpyComplete (entry : Nat)
  | cpyredChunkApply (entry : Nat)
  | copyReplay (entry : Nat)
  | qfenceComplete (entry : Nat)
  | qwaitComplete (entry : Nat)
  | hreadBurstArrive (entry : Nat) (burst : Nat) (bytes : List Byte)
  | hreadBurstFetchFail (entry : Nat) (burst : Nat) (status : Nat) (reason : Nat) (final : Bool)
  | dripBirth (core : Nat) (quarter : Nat)
  | xsortComplete (entry : Nat)
  | groupInstanceBegin (entry : Nat) (kinds : List Nat) (counts : List Nat) (noinnets : List Nat) (path : Nat) (fallback : Nat)
  | groupWithdrawal (entry : Nat) (rank : Nat)
  | a2avCountExchange (entry : Nat) (metas : List (List Nat))
  | a2avPartPlaced (entry : Nat) (sender : Nat) (bytes : List Byte)
  | areduceComplete (entry : Nat) (contributions : List (List Byte))
  | rmaRequestReceive (req : RmaReq)
  | rputComplete (entry : Nat)
  | rgetComplete (entry : Nat) (bytes : List Byte)
  | ratomComplete (entry : Nat) (old : BitVec 64)
  | rflushComplete (entry : Nat)
  | kvldStatusLand (id : Nat)
  | roostRegistered (entry : Nat)
  | rouseArrive (roost : Nat) (payload : BitVec 64) (sender : Nat)
  | gangPrepare (world : Nat) (ldesc : Nat) (tick : Nat) (queue : Nat) (issuer : Nat)
  | gangDecision (entry : Nat) (reasons : List Nat)
  | gangCommit (gang : Nat)
  | gangAbort (gang : GangAbort)
  | gangTickDispatch (gang : Nat)
  | preemptRequest (units : List Nat) (reason : Nat) (grace : Nat)
  | preemptGraceExpiry (crew : Nat)
  | saveDeadlineExpiry (crew : Nat)
  | ctxopSave (crew : Nat)
  | ctxopRestore (crew : Nat)
  | accdatWrite (crew : Nat) (lane : Nat) (value : Word)
  | accstatWrite (crew : Nat) (lane : Nat) (value : Word)
  | resumeStart (launch : Nat)
  | syscReplyDoorbell (world : Nat) (reqid : Word) (status : Word) (lanes : List Nat) (values : List Nat)
  | syscAlloc (world : Nat) (reqid : Word)
  | syscFree (world : Nat) (reqid : Word)
  | kick (world : Nat) (queue : Nat) (tail : Word)
  | queueEntryTake (world : Nat) (queue : Nat)
  | ctrlResume (world : Nat)
  | ctrlCancel (world : Nat)
  | ctrlClose (world : Nat)
  | claimUnit (world : Nat)
  | claimFree (world : Nat)
  | priorityRise (launch : Nat)
  | dispatchUnit (die : Nat)
  | starvationPreempt (world : Nat)
  | localityScoreHalve (core : Nat)
  | throttleSwap (crew : Nat)
  | invalidationRequest (world : Nat)
  | invalidationComplete (world : Nat)
  | fillDataReceive (service : Nat) (bytes : List Byte) (homeError : Bool) (dataver : Nat)
  | waiterRunWake (service : Nat)
  | postFillHoldExpiry (service : Nat)
  | evictionComplete (frame : Nat)
  | uncorrectableMemoryError (pa : Nat) (granules : Nat)
  | homeRds (line : Nat) (agent : Nat)
  | homeRdx (line : Nat) (agent : Nat)
  | homeUpg (line : Nat) (agent : Nat)
  | homeWb (line : Nat) (agent : Nat)
  | homeEve (line : Nat) (agent : Nat)
  | homeAckReceive (line : Nat) (agent : Nat)
  | homeMemoryWriteDone (line : Nat)
  | agentFwds (line : Nat) (agent : Nat)
  | agentFwdx (line : Nat) (agent : Nat)
  | agentInv (line : Nat) (agent : Nat)
  | agentDataReceive (line : Nat) (agent : Nat)
  | agentGrantReceive (line : Nat) (agent : Nat)
  | agentWbackReceive (line : Nat) (agent : Nat)
  | agentWbstaleReceive (line : Nat) (agent : Nat)
  | agentLineDrop (line : Nat) (agent : Nat)
  | shardGets (job : Nat) (page : Nat) (rank : Nat)
  | shardGetx (job : Nat) (page : Nat) (rank : Nat)
  | shardWbrel (job : Nat) (page : Nat) (rank : Nat) (bytes : List Byte)
  | shardDrop (job : Nat) (page : Nat) (rank : Nat)
  | shardHomeAck (job : Nat) (page : Nat) (ok : Bool)
  | shardRecallAck (job : Nat) (page : Nat) (rank : Nat)
  | holderRecall (job : Nat) (page : Nat)
  | ownerXferS (job : Nat) (page : Nat) (dst : Nat)
  | ownerXferX (job : Nat) (page : Nat) (dst : Nat)
  | tenureEnd (job : Nat) (page : Nat)
  | lookupAckReceive (service : Nat) (noHome : Bool) (storage : Bool)
  | wbackReceive (job : Nat) (page : Nat)
  | staleReceive (job : Nat) (page : Nat)
  | heldReceive (service : Nat)
  | homeWriteTimeout (job : Nat) (page : Nat)
  | attemptTimeout (service : Nat) (pinned : Bool)
  | backoffExpiry (service : Nat)
  | victimRetry (service : Nat)
  | frameAging (touched : List Nat)
  | installClean (world : Nat)
  | installDirty (world : Nat)
  | retry (world : Nat)
  | kill (world : Nat)
  | pin (world : Nat)
  | unpin (world : Nat)
  | dirset (world : Nat)
  | roostT1Expiry (roost : Nat)
  | roostT2Expiry (roost : Nat)
  | pageDescentDone (roost : Nat) (page : Nat) (accepted : Bool)
  | pageAscentDone (roost : Nat) (page : Nat)
  | checkpointSave
  | checkpointRestore
  | checkpointAbort
  | checkpointDrainDone
  | checkpointSegmentDone (outcome : Nat) (bytes : List Byte)
  | packetReceive (pkt : Packet)
  | retransmitTimeout (peer : Nat) (seq : Nat)
  | ackReceive (peer : Nat) (seq : Nat) (marked : Bool)
  | rateRiseTick (peer : Nat)
  | ptpSync (elapsed : Nat) (correction : Int)
  | dieFlitReceive (die : Nat) (world : Nat) (entry : Nat) (pa : Nat) (granules : Nat)
  | linkUnitReceive (link : Nat) (tagOk : Bool) (entry : Nat) (pa : Nat) (granules : Nat)
  | linkUnitClose (link : Nat)
  | linkKeyRenew (link : Nat)
  | firmwareActivation (component : Nat) (target : Nat) (svn : Nat) (ecdsaOk : Bool) (hssOk : Bool) (digest : Nat) (live : Bool)
  | getVersion (version : Nat)
  | getCapabilities (version : Nat)
  | negotiateAlgorithms (version : Nat) (supported : Bool)
  | getDigests (version : Nat)
  | getCertificate (version : Nat) (slot : Nat)
  | challenge (version : Nat) (slot : Nat) (nonce : Nat)
  | getMeasurements (version : Nat) (index : Nat) (signed : Bool) (nonce : Nat)
  | keyExchange (version : Nat) (slot : Nat)
  | finish (version : Nat) (session : Nat) (verified : Bool)
  | heartbeat (version : Nat) (session : Nat)
  | keyUpdate (version : Nat) (session : Nat)
  | endSession (version : Nat) (session : Nat)
  | spdmUnsupportedRequest (version : Nat) (code : Nat)
  | leaseAttestation (world : Nat) (swid : Nat) (outcome : Attest) (now : Nat)
  | leaseRenewalDue (world : Nat) (swid : Nat)
  | leaseBusyRetry (world : Nat) (swid : Nat)
  | leaseExpiry (world : Nat) (swid : Nat)
  | leaseKeyGraceEnd (world : Nat) (swid : Nat)
  | leaseChangeReceive (world : Nat) (swid : Nat) (state : Nat) (reason : Nat) (leaseNo : Nat) (expiry : Nat) (authNow : Nat)
  | sessionKeyDistribution (job : Nat) (rank : Nat) (attested : Bool)
  | epochAdvance (job : Nat)
  | epochOverlapEnd (job : Nat)
  | worldLatch (die : Nat) (world : Nat)
  | worldCreate (world : Nat) (job : Nat) (rank : Nat) (authRank : Nat) (regions : List Nat) (simagePa : Nat) (simageLen : Nat)
  | worldTeardown (world : Nat)
  | ringDoorbell (world : Nat) (ring : Nat) (tail : Word)
  | rcmdEnable (world : Nat) (ring : Nat)
  | rcmdResume (world : Nat) (ring : Nat)
  | rcmdDisable (world : Nat) (ring : Nat)
  | ringRekey (world : Nat) (ring : Nat)
  | sampleTick (qtr : Nat) (crew : Nat)
  | dcmdHalt (world : Nat)
  | dcmdResume (world : Nat)
  | dcmdStep (world : Nat)
  | prefetchTick (world : Nat) (stream : Nat)
  | powerOn (failed : Nat) (fcframes : Nat) (fcbase : Nat) (wayl : Nat) (dies : List Nat) (worlds : List WorldSpec) (cxl : List Bool)
  | powerStateChange (pstate : Nat)
  | thermalThreshold (reading : Nat × Nat)
  | registerWrite (page : PageRef) (off : Nat) (value : Word) (fromM : Bool)
  | portDown (port : Nat)
  | portUp (port : Nat)
  | ptpLockLoss
  | deviceReset
  | powerLoss
  | jobOpen (world : Nat)
  | grantReceive (service : Nat) (dataver : Nat)
  | liveActivationEnd (component : Nat) (digest : Nat)
  deriving DecidableEq, Repr

/-! ## Modes, causes, records -/

/-- The three modes (R304). -/
inductive Mode where
  | U | S | M
  deriving DecidableEq, Repr

/-- Trap causes (R308); the resume start 0x14 is no cause of a trap. -/
inductive Cause where
  | ill | regRange | depv | uninit | misalign | stackLimit | pagePerm | mmx | chan | collMismatch | brk | watch
  | engineFault | quarantine | declinedKill | preempt
  deriving DecidableEq, Repr

/-- A trap about to be taken: cause, REASON, and the named words from w2 up (R312). -/
structure Trap where
  cause : Cause
  reason : Nat
  /-- record words 2 to 15 by number; words not named read 0 -/
  words : Tab Word
  deriving DecidableEq, Repr

/-! ## Threads and crews -/

/-- The crew-collective operations (R32) with their fields. -/
inductive CollOp where
  /-- shfl (R188): form number FN, D, A and the B field -/
  | shfl (fn d a b : Nat)
  /-- lred (R189): FN, D, A, g -/
  | lred (fn d a g : Nat)
  /-- vote (R190): FN, D field, predicate index, negate bit -/
  | vote (fn d p : Nat) (neg : Bool)
  /-- uwinb (R199) -/
  | uwinb (n : Nat)
  /-- tokp (R200) -/
  | tokp
  /-- bar.arr and bar.sync (R224): index, and whether the threads then wait -/
  | bar (b : Nat) (sync : Bool)
  deriving DecidableEq, Repr

/-- What a Blocked thread waits for (R21). -/
inductive Block where
  /-- waitc with its monitor armed (R220) -/
  | monitor
  /-- waitc on a strongly ordered page: repeats the compare of `d` with the word at `va`, an acquire at the scope (R220) -/
  | waitcSo (d : Nat) (va : Nat) (scope : Nat)
  /-- bar.wait, or the wait of a bar.sync (`sync`) whose arrival is performed (R224) -/
  | barWait (b : Nat) (sync : Bool)
  /-- cbacq or cbfill (R226): object, destination field, which of the two, and the issue it belongs to -/
  | cb (obj d : Nat) (fill : Bool) (id : Nat)
  | tokp
  /-- a released sysc bin not yet posted for want of a ring slot: the number of the bin (R326) -/
  | syscHeld (req : Nat)
  /-- a posted sysc awaiting its reply (R204) -/
  | sysc (reqid : Word)
  /-- pswr of `%accdat` or `%accstat`, until performed in the order of its quarter (R306) -/
  | accWrite
  /-- pswr of `%ctxop`, until the operation is done (R306, R320, R324) -/
  | ctxop
  deriving DecidableEq, Repr

/-- The states of a thread (R21), In trap apart (a field of its own, since a handler's thread issues too). -/
inductive TState where
  | running
  /-- in the reform bin with this number -/
  | filed (bin : Nat)
  /-- arrived at a collective with its guard true or false: the guard of its prefix, its word, and where it continues -/
  | coll (op : CollOp) (guard : Bool) (pre : Option (BitVec 4)) (word next : Word)
  /-- member of the parked sub-group with this number -/
  | parked (group : Nat)
  /-- blocked at the instruction at its PC; it continues at `next` -/
  | blocked (why : Block) (next : Word)
  | exited
  deriving DecidableEq, Repr

/-- A byte as conflict detection and monitors name it (R120, R142): the place itself, whatever generic address of
whatever world leads to it. -/
inductive Place where
  /-- local memory, by PA -/
  | mem (pa : Nat)
  /-- a remote-home page of a job: page name x 65,536 + offset, whichever frame holds it -/
  | name (job addr : Nat)
  /-- a crew's private window, by offset -/
  | priv (crew off : Nat)
  /-- scratchpad address of a unit -/
  | spad (unit addr : Nat)
  /-- a generic address that no leaf maps -/
  | gen (world addr : Nat)
  deriving DecidableEq, Repr

/-- Where the bytes of an access are. -/
inductive Target where
  /-- physical memory -/
  | mem (pa : Nat)
  /-- a crew's private window -/
  | priv (crew off : Nat)
  /-- a unit's scratchpad -/
  | spad (unit addr : Nat)
  /-- a device register -/
  | reg (pa : Nat)
  deriving DecidableEq, Repr

/-- One thread (R20) with its trap registers (R306). -/
structure Thread where
  lane : Nat
  st : TState
  /-- its issue set's number in the crew's table (R25) -/
  set : Nat
  /-- address of its next instruction, or of that instruction's guard prefix -/
  pc : Word
  /-- window base (R53) -/
  wb : Nat
  /-- registers by physical index; unlisted ones hold the marker 0x7FA0_0000 OR i (R68) -/
  regs : Tab Word
  /-- p0 to p6 (R57) -/
  preds : BitVec 7
  aflg : BitVec 6
  /-- `%devtimehi` (R60) -/
  dthi : Word
  /-- pending registers: physical index to producer PC (R152) -/
  pendX : Tab (Option Word)
  mode : Mode
  inTrap : Bool
  tcause : Nat
  tpc : Word
  twb : Word
  tpred : BitVec 7
  taflg : BitVec 6
  tmode : Mode
  /-- `%tstate`: the state PREEMPT took it out of (R315), or the saved one (R325) -/
  tstate : Word
  /-- `%tscr0` to `%tscr3` -/
  tscr : Tab Word
  /-- trap record words (R312) -/
  trec : Tab Word
  /-- S of each barrier (R223) -/
  barS : Tab Word
  accpos : Word
  plsel : Word
  /-- the one monitor of the thread (R221) -/
  monitor : Option Place
  /-- burst coordinates bc1 and bc2 (R64), in drips -/
  bc1 : Word
  bc2 : Word
  /-- when it filed (R28) -/
  filedAt : Nat
  /-- a trap raised and its resume PC, while entry waits for pending results (R153, R309) -/
  entering : Option (Trap × Word)
  /-- the parked sub-group it was woken from, until its replay is performed (R38, R40) -/
  replay : Option Nat
  deriving DecidableEq, Repr

/-- What makes a crew record a drip (R64, R70, R272). -/
structure Drip where
  /-- the handler read's entry -/
  entry : Nat
  burst : Nat
  /-- handler argument, bc3 -/
  arg : Word
  /-- the handler's index in the launch's handler table -/
  hidx : Nat
  deriving DecidableEq, Repr

/-- Halt state of the debug window (R432, R433). -/
inductive Halt where
  | running | halting | halted
  /-- halted, and one issue set may perform one instruction (DCMD 3) -/
  | stepping
  /-- the set that is performing it, with the PC at which each of its lanes stood; none are given for a branch, which performs
  whatever it does to the PC -/
  | stepped (stood : List (Nat × Word))
  deriving DecidableEq, Repr

/-- The crew is HALTED, with or without a step to make (R432, R433). -/
def Halt.isHalted (h : Halt) : Bool :=
  match h with
  | .running | .halting => false
  | .halted | .stepping | .stepped _ => true

/-- One instruction is to be performed by a crew that is HALTED. -/
def Halt.steps (h : Halt) : Bool :=
  match h with
  | .stepping | .stepped _ => true
  | .running | .halting | .halted => false

/-- The course of a crew through pre-emption and resume (R314 to R325). -/
inductive Course where
  /-- running its kernel -/
  | normal
  /-- PREEMPT requested, delivery held (R314) -/
  | requested
  /-- in its save routine -/
  | saving
  /-- in its resume routine -/
  | resuming
  deriving DecidableEq, Repr

/-- An asynchronous trap waiting at a crew (R310): its record and its thread, `none` for every live thread. -/
structure Async where
  trap : Trap
  lanes : Option (List Nat)
  deriving DecidableEq, Repr

/-- A crew, or a drip (R22, R70). -/
structure Crew where
  uid : Nat
  unit : Nat
  launch : Word
  world : Nat
  /-- `%crew` -/
  idx : Nat
  /-- `%core` (R14) -/
  core : Nat
  /-- quarter within the core -/
  quarter : Nat
  /-- residency slot -/
  slot : Nat
  nregs : Nat
  nuregs : Nat
  /-- P, private bytes a thread (R113) -/
  priv : Nat
  /-- uniform registers by physical index; unlisted ones hold 0x7FB0_0000 OR j (R68) -/
  sregs : Tab Word
  /-- q0 to q6 -/
  qpreds : BitVec 7
  /-- UWB -/
  uwb : Nat
  pendS : Tab (Option Word)
  pendQ : Tab (Option Word)
  rndcnt : Word
  ctximg : BitVec 64
  ctxstat : Word
  barsel : Word
  asyncQ : List Async
  /-- asynchronous traps lost since the last record delivered (R310) -/
  lost : Nat
  /-- number of the current region (R118) -/
  region : Nat
  /-- generic address WIN of the private window (R113) -/
  win : Nat
  /-- the private window's bytes, by offset from WIN -/
  privMem : Memory
  /-- poisoned granules of the private window, by offset ÷ 4 (R363) -/
  privPoison : List Nat
  halt : Halt
  course : Course
  /-- why it is pre-empted (R312) -/
  preReason : Nat
  /-- lanes that have executed the resume routine's tret (R325) -/
  tretDone : List Nat
  /-- replies held in the image for sysc waiters (R324): lane, x2, x3 -/
  heldReplies : List (Nat × Word × Word)
  /-- handler arguments of a drip, none in a crew -/
  drip : Option Drip
  /-- its last issued engine command: PC, sequence number, QUEUE byte (R430) -/
  lastCmd : Word × Word × Nat
  threads : List Thread
  deriving DecidableEq, Repr

/-! ## Blocks, launches, graphs -/

/-- A barrier object (R223). -/
structure Barrier where
  members : Nat
  count : Nat
  phase : Word
  deriving DecidableEq, Repr

/-- Slot states of a circular buffer (R111). -/
inductive SlotSt where
  | free | filling | filled | reading
  deriving DecidableEq, Repr

/-- A circular buffer (R110): declared parameters, indexes, and each slot with whether an engine fills it. -/
structure CBuf where
  core : Nat
  base : Nat
  slot : Nat
  count : Nat
  wix : Nat
  rix : Nat
  free : Nat
  filled : Nat
  slots : List (SlotSt × Bool)
  deriving DecidableEq, Repr

/-- Sequence counter and completion count of one block and queue (R255). -/
structure QCtr where
  seq : Word
  done : Word
  deriving DecidableEq, Repr

/-- A resident cooperative block (R41). -/
structure BUnit where
  uid : Nat
  launch : Word
  world : Nat
  /-- `%block` -/
  block : Nat
  die : Nat
  cluster : Nat
  /-- physical core (`%core`) of each block-relative core -/
  cores : List Nat
  ncrews : Nat
  /-- A of R107 -/
  alloc : Nat
  /-- scratchpad bytes by swizzled cluster address [21:0] -/
  spad : Memory
  bars : List Barrier
  cbs : List CBuf
  /-- by 64 x engine + queue, and 256 x (core + 1) + queue for the block-transfer queues of each core -/
  qctr : Tab QCtr
  /-- the last EXIT is held (R49) -/
  lastExit : Bool
  finished : Nat
  /-- device time of its dispatch or resume (R344) -/
  since : Nat
  /-- the victim set it is being saved with (R313); 0 for none -/
  victim : Nat
  /-- its lowest crew's restore has applied the block's sections (R324) -/
  restored : Bool
  /-- a crew of it is performing a cncl: none, one that has not met its own unit, or one that has (R47) -/
  cncl : Option Bool
  /-- granules of its scratchpad that an uncorrectable error has hit, by scratchpad address ÷ 4 (R260) -/
  spadPoison : List Nat
  deriving DecidableEq, Repr

/-- One channel (R65) and its outstanding bytes (R66). -/
structure Chan where
  endpoint : BitVec 64
  allow : Nat
  kind : Nat
  permR : Bool
  permW : Bool
  permA : Bool
  permH : Bool
  permRouse : Bool
  outstanding : Nat
  deriving DecidableEq, Repr

/-- A code image: its length, and the PA of each 4 KiB piece, fixed when the launch is accepted. -/
structure Image where
  len : Nat
  pages : List Nat
  deriving DecidableEq, Repr

/-- A handler entry (R334). -/
structure Handler where
  image : Image
  entry : Word
  nregs : Nat
  deriving DecidableEq, Repr

/-- Level states (R45, R339). -/
inductive LState where
  | queued | running | complete | cancelling | cancelled | endedPartial | refused
  deriving DecidableEq, Repr

/-- The launch descriptor's fields as copied at acceptance (R330, R333). -/
structure LDesc where
  refage : Nat
  array : Bool
  rndmode : Nat
  image : Image
  entry : Word
  nregs : Nat
  nuregs : Nat
  priv : Nat
  scratch : Nat
  block : Nat
  crews : Nat
  grid : Nat
  args : List Word
  chans : List Chan
  handlers : List Handler
  bars : List Nat
  /-- CORE, BASE, SLOT, COUNT of each circular buffer -/
  cbs : List (Nat × Nat × Nat × Nat)
  caps : List (Nat × Nat)
  rndring : Nat
  rndlen : Nat
  status : Nat
  deriving DecidableEq, Repr

/-- A crew of a saved unit, as it is known while it is out: its number, its current region (R119), and the asynchronous
traps still to be delivered (R310). -/
structure SavedCrew where
  idx : Nat
  uid : Nat
  region : Nat
  pending : List Async
  lost : Nat
  deriving DecidableEq, Repr

/-- A unit saved by pre-emption (R340). -/
structure Saved where
  block : Nat
  /-- the number its unit had, and has again when resumed -/
  unit : Nat
  crews : List SavedCrew
  /-- slot addresses of its crews' images, ascending `%crew` -/
  images : List Nat
  /-- the cores it ran on -/
  cores : List Nat
  /-- the set that is resumed together (R313) -/
  set : Nat
  claimed : Bool
  deriving DecidableEq, Repr

/-- A launch (R44, R339). -/
structure Launch where
  handle : Word
  world : Nat
  queue : Nat
  prio : Nat
  /-- effective priority (R342) -/
  eff : Nat
  /-- order in which it reached 8, and order of submission -/
  at8 : Nat
  order : Nat
  /-- when it was submitted among all submissions: those of one kick share it (R339, R343) -/
  sub : Nat
  /-- the phase that it was taken in (R337) -/
  phaseNo : Word
  state : LState
  count : Nat
  /-- next undispatched `%block` -/
  next : Nat
  saved : List Saved
  moved : Nat
  desc : LDesc
  graph : Word
  node : Nat
  gang : Bool
  gangTick : Nat
  /-- `%block` of the single unit of a resume entry (R341) -/
  resumeOf : Option Nat
  rndpos : Nat
  rndmiss : Word
  rndovf : Bool
  /-- refusal reason of the status block, and device times of submission, first dispatch and end (R339) -/
  reason : Nat
  times : List Nat
  /-- roost whose continuation this is (R391) -/
  roost : Option Nat
  childCancelled : Bool
  /-- its queue entry is taken (R330); one that `lnch` submitted waits for that -/
  taken : Bool
  deriving DecidableEq, Repr

/-- A graph (R336): its nodes' descriptors and predecessors, and its launches once ready. -/
structure Graph where
  handle : Word
  world : Nat
  queue : Nat
  state : LState
  status : Nat
  nodes : List (LDesc × List Nat)
  /-- node states -/
  nstate : List LState
  reason : Nat
  times : List Nat
  /-- when it was submitted among all submissions, and the phase that it was taken in -/
  sub : Nat
  phaseNo : Word
  deriving DecidableEq, Repr

/-- Space that pre-emption has freed for a launch: the block that stood there, on its cores (R344). -/
structure Kept where
  world : Nat
  launch : Word
  /-- the victim whose space it is: until it leaves, the space is its own -/
  unit : Nat
  cores : List Nat
  desc : LDesc
  deriving DecidableEq, Repr

/-! ## Quarters -/

/-- State of a plane record (R239). -/
inductive PlaneSt where
  | empty | loading | ready
  deriving DecidableEq, Repr

/-- A stationary plane: record (R239, R321) and contents. -/
structure Plane where
  st : PlaneSt
  fmt : Nat
  sc : Bool
  k : Nat
  n : Nat
  shape : Word
  w0 : Word
  w1 : Word
  w2 : Word
  /-- uniform numbers of the shape and descriptor words, 0xFF when unused -/
  unums : Word
  /-- the command that loads it, 0 for none -/
  cmd : Nat
  deriving DecidableEq, Repr

/-- Plane contents: elements by 64 x row + column, scales by 64 x block + column (R237, R238). -/
structure PlaneData where
  elems : Tab (BitVec 16)
  scales : Tab Byte
  /-- the format of the elements, and whether there are scales -/
  fmt : Nat
  sc : Bool
  deriving DecidableEq, Repr

/-- A reform bin (R27). -/
structure Bin where
  id : Nat
  crew : Nat
  pc : Word
  wb : Nat
  lanes : List Nat
  oldest : Nat
  aged : Bool
  /-- a bin of sysc threads (R204): the service, and where they continue -/
  sysc : Option (Nat × Word)
  deriving DecidableEq, Repr

/-- A quarter's array and scheduler state. -/
structure Quarter where
  /-- the array-using launch bound to it (R62) -/
  bound : Option Word
  /-- accumulator bits by 64 x row + column -/
  acc : Tab Word
  rowst : Tab Word
  active : Plane
  shadow : Plane
  activeD : PlaneData
  shadowD : PlaneData
  /-- matrix command order (R243): numbers of matrix commands -/
  order : List Nat
  /-- crew that holds the issue-priority token (R200) -/
  token : Option Nat
  bins : List Bin
  deriving DecidableEq, Repr

/-! ## Engines -/

/-- Who makes an access (R120): a crew or drip, or an engine command. -/
inductive Party where
  | crew (uid : Nat)
  | engine (entry : Nat)
  | matrix (cmd : Nat)
  /-- an RV64 core of the processor chiplet, 0 to 15 (R12, R143) -/
  | rv (core : Nat)
  deriving DecidableEq, Repr

/-- How a range is claimed (R138): read, write, or as atomic updates. -/
inductive Acc where
  | read | write | atomic
  deriving DecidableEq, Repr

/-- A claimed range of bytes, with the address by which the command names its first one. -/
structure Claim where
  base : Place
  len : Nat
  acc : Acc
  addr : Nat
  deriving DecidableEq, Repr

/-- The record of one access of a live region to a 4 B granule (R124); `base` is the granule's first byte. -/
structure Rec where
  party : Party
  region : Nat
  base : Place
  write : Bool
  sync : Bool
  pc : Word
  /-- what the granule held before the access (R132) -/
  old : Word
  deriving DecidableEq, Repr

/-- A release that carries a write (R130, R131): who released, from which block and cluster (0 and none of the device's for
a party that lies in none), and at which scope. -/
structure Release where
  party : Party
  unit : Nat
  cluster : Nat
  scope : Nat
  deriving DecidableEq, Repr

/-- One write in the coherence order of a granule of tracked memory (R123, R132): what it overwrote, who made it, and the
parties that stand after it. -/
structure Older where
  base : Place
  old : Word
  /-- its place among the writes: an access of 8 B has one number for both granules (R129) -/
  stamp : Nat
  party : Party
  /-- world and launch of the writer, whose kernel boundary orders it before everything (R141) -/
  launch : Nat × Word
  /-- the releases that carry it: its writer's, and along chains those of parties ordered after it -/
  rel : List Release
  /-- parties that a pair, or a chain of pairs, orders after it -/
  ordered : List Party
  /-- parties that only a pair whose scope omits one of its ends links with it -/
  linked : List Party
  deriving DecidableEq, Repr

/-- An access that waits for a tracking record (R128): whose, at which PC, whether it replays, and what it needs room
on: reads of a core, or writes of a slice. -/
structure RecWait where
  crew : Nat
  lane : Nat
  pc : Word
  replay : Bool
  write : Bool
  /-- the core, or the slice -/
  at_ : Nat
  deriving DecidableEq, Repr

/-- Kinds of engine command (R258, R264 to R292). -/
inductive Cmd where
  | cpy | cpy2d | cpyred | cpymx | qfence | qwait | hread | xsort | a2av | areduce | rput | rget | ratom | rflush
  | roost | rouse | lnch | gang
  deriving DecidableEq, Repr

/-- Progress of an engine command. -/
inductive EPhase where
  | queued | running
  /-- waits for a page that a service fetches (R262) -/
  | waitPage
  /-- abandoned, to be replayed (R262) -/
  | abandoned
  /-- its data is moved; a cpy.mx follow-on is in the matrix orders (R267) -/
  | following
  /-- recorded in a context image: only its claims remain here (R263, R325) -/
  | saved
  deriving DecidableEq, Repr

/-- An entry of an engine queue (R254 to R259). -/
structure Entry where
  id : Nat
  unit : Nat
  crew : Nat
  lane : Nat
  world : Nat
  /-- the launch it counts its bytes on (R66) -/
  launch : Word
  job : Nat
  pc : Word
  /-- 64 x ENGINE + QUEUE, the QUEUE byte of R259 -/
  qid : Nat
  /-- the block-relative core of the issuer, whose block-transfer queues these are (R257) -/
  rcore : Nat
  /-- the issuing core (R14), and the issuer's `%crew` and quarter (R429) -/
  site : Nat
  crewIdx : Nat
  quarter : Nat
  seq : Word
  cmd : Cmd
  /-- the 16 words of its descriptor -/
  words : List Word
  chan : Nat
  /-- KIND and ENDPOINT of its channel at its issue (R67) -/
  kind : Nat
  endpoint : BitVec 64
  bytes : Nat
  claims : List Claim
  phase : EPhase
  /-- number of a group collective on its group, and the group's entry and ranks as its instance began (R277) -/
  inst : Nat
  img : List Byte
  /-- circular-buffer slot it fills (R266) -/
  slot : Option Nat
  /-- rows a copy has written, and bytes of further sectors that an abandoned one has written (R262, R264); chunks applied
  (R265), bursts retired (R274), parts placed (R279) and other counts -/
  progress : List Nat
  /-- bursts of a handler read that have been born (R272, R274) -/
  born : List Nat
  /-- bursts of a handler read that wait for a page (R273, R374) -/
  held : List Nat
  /-- bursts of a handler read that another device or a server has been asked for (R271) -/
  asked : List Nat
  /-- bursts that failed finally (R273), with the first status and reason -/
  failed : List Nat
  status : Nat
  fault : Word
  aux : Word
  path : Nat
  /-- retryable errors met so far (R262) -/
  retries : Nat
  /-- frames it holds references on, each for a range of its own (R359) -/
  refs : List (Nat × Nat)
  /-- lease numbers whose keys its instance uses (R281, R418) -/
  leases : List Nat
  /-- status, fault, aux, bytes and path of a completion whose record waits for its ring's page -/
  fin : Option (Nat × Nat × Nat × Nat × Nat)
  deriving DecidableEq, Repr

/-- Kinds of matrix command (R233, R306). -/
inductive MKind where
  | mldst | mswap | mma | mst | maccclr | maccrd | mstat | accdat | accstat
  /-- a read of `%plrec` in its place of the order (R306) -/
  | plrec
  deriving DecidableEq, Repr

/-- An entry of the matrix command orders (R243). -/
structure MCmd where
  id : Nat
  unit : Nat
  crew : Nat
  lane : Nat
  pc : Word
  kind : MKind
  /-- first spanned quarter (global number) and how many it spans -/
  q0 : Nat
  nq : Nat
  shape : Word
  w0 : Word
  w1 : Word
  w2 : Word
  /-- Z of mma, CLR of mst -/
  flag : Bool
  /-- tile, or the tile count of macc.clr in `n` -/
  tile : Nat
  n : Nat
  /-- physical destination register of macc.rd and mstat, and the coordinate word -/
  dest : Nat
  coord : Word
  claims : List Claim
  /-- the cpy.mx entry it follows (R267) -/
  follow : Option Nat
  deriving DecidableEq, Repr

/-- The second half of a 16 B load, not yet read (R129): its instruction, where its words lie and how far apart, the
registers they fill, and the region of the access where it is tracked. -/
structure Late where
  tag : Nat
  target : Target
  place : Place
  step : Nat
  regs : List Nat
  region : Option Nat
  deriving DecidableEq, Repr

/-- A variable-latency result in flight (R152): who gets it, and the values by physical index. -/
structure Landing where
  id : Nat
  crew : Nat
  lane : Nat
  /-- destined for the crew's uniform registers -/
  uni : Bool
  vals : List (Nat × Word)
  /-- a kvld's row to write first: scratchpad address and bytes (R286) -/
  row : Option (Nat × List Byte)
  late : Option Late
  /-- its values are still to come: an accepted atomic brings them (R122) -/
  awaits : Bool
  /-- it is a request to memory, of which a core has at most 1,024 outstanding (R17) -/
  mem : Bool
  deriving DecidableEq, Repr

/-- What an accepted store does when performed (R209). -/
inductive StoreOp where
  | bytes (l : List Byte)
  /-- words of the private segment, which lie one crew's width of words apart (R114) -/
  | words (l : List Word)
  /-- a reduction: the function number of R159 and its operand -/
  | red (fn : Nat) (v : Word)
  /-- an atomic that returns: its function number, value and compare value, and the landing that its old value goes to -/
  | rmw (fn : Nat) (v cmp : BitVec 64) (lands : Nat)
  deriving DecidableEq, Repr

/-- An accepted store, not yet performed (R209). -/
structure PStore where
  id : Nat
  crew : Nat
  lane : Nat
  /-- the instruction it belongs to: stores of one instruction to one byte keep lane order (R105) -/
  tag : Nat
  target : Target
  /-- the same bytes for monitors and for what overlaps -/
  place : Place
  op : StoreOp
  /-- a half of a 16 B store (R129): performed before its thread's next access (R124) -/
  half : Bool
  /-- the region that it belongs to, where it is tracked: that stays live until it is performed (R119) -/
  region : Option Nat
  /-- it is performed in a copy of its line held for writing (R133, R216) -/
  own : Bool
  deriving DecidableEq, Repr

/-- A parked sub-group (R36). -/
structure Group where
  id : Nat
  crew : Nat
  world : Nat
  /-- where its threads are resident, and whether they are a drip's (R373) -/
  core : Nat
  quarter : Nat
  drip : Bool
  lanes : List Nat
  pc : Word
  job : Nat
  page : Nat
  write : Bool
  region : Nat
  /-- its fault-queue entry: die and index; none while held under R39 -/
  fault : Option (Nat × Nat)
  /-- the uniform registers, uniform predicates and UWB as they stood at the park (R38) -/
  sregs : Tab Word
  qpreds : BitVec 7
  uwb : Nat
  deriving DecidableEq, Repr

/-- One burst of a handler read that has arrived whole (R272). -/
structure Burst where
  entry : Nat
  burst : Nat
  core : Nat
  bytes : List Byte
  deriving DecidableEq, Repr

/-- A gang launch prepared at this rank (R292, R346). -/
structure Gang where
  id : Nat
  world : Nat
  queue : Nat
  tick : Nat
  desc : LDesc
  committed : Bool
  /-- the cores reserved for its first unit (R346) -/
  place : List Nat
  /-- the launch that commit made of it -/
  handle : Word
  deriving DecidableEq, Repr

/-! ## Network processor and coherence -/

/-- Frame states (R356). -/
inductive FState where
  | invalid | clean | ownedDirty | filling | evicting | pinned
  deriving DecidableEq, Repr

/-- A frame tag (R356). -/
structure Frame where
  job : Nat
  page : Nat
  refcnt : Nat
  age : Nat
  roost : Nat
  wr : Bool
  st : FState
  deriving DecidableEq, Repr

/-- Fault-queue entry states (R373). -/
inductive FqState where
  | free | posted | inService | woken | declined | withdrawn
  deriving DecidableEq, Repr

/-- A fault-queue entry (R373). -/
structure FqEntry where
  job : Nat
  page : Nat
  pc : Word
  fseq : Word
  gen : Word
  eseq : Word
  nthr : Nat
  qid : Nat
  core : Nat
  quarter : Nat
  slot : Nat
  kind : Nat
  write : Bool
  st : FqState
  deriving DecidableEq, Repr

/-- Who waits on a service: a parked sub-group or an engine entry. -/
inductive Waiter where
  | group (id : Nat)
  | engine (entry : Nat)
  deriving DecidableEq, Repr

/-- Phases of a service (R386). -/
inductive SPhase where
  | victim | lookup | fill | backoff | installed | declined
  deriving DecidableEq, Repr

/-- A service of one name (R375). -/
structure Service where
  id : Nat
  world : Nat
  job : Nat
  page : Nat
  write : Bool
  phase : SPhase
  /-- the phase a back-off leads back to -/
  resume : SPhase
  attempts : Nat
  /-- FSEQ, waiter, needs the page for writing, woken -/
  waiters : List (Word × Waiter × Bool × Bool)
  /-- its frame index -/
  frame : Option Nat
  held : Bool
  /-- fetches ownership for a frame already Clean -/
  upgrade : Bool
  storage : Bool
  pinDeferred : Bool
  code : Nat
  /-- post-fill hold (R377) -/
  hold : Bool
  pinOnInstall : Bool
  /-- a fill that a prefetch stream opened, with no waiters (R385, R437) -/
  prefetch : Bool
  /-- the home that a shard elsewhere has told of: HOMEKIND, HOMERANK, HOMEADDR (R380, R383) -/
  home : Option (Nat × Nat × Nat)
  /-- the frame that it has chosen as a victim, while that leaves (R384) -/
  victim : Option Nat
  /-- the waiters present at its install, by FSEQ, for whom the post-fill hold is kept (R377) -/
  present : List Word
  deriving DecidableEq, Repr

/-- Directory entry states (R379). -/
inductive DState where
  | idle | owned | xfer | wbPending
  deriving DecidableEq, Repr

/-- A directory entry of the shard (R379) with the requests that wait behind it (R380). -/
structure DirEnt where
  job : Nat
  page : Nat
  dataver : Nat
  owner : Nat
  holders : List Nat
  all : Bool
  st : DState
  homekind : Nat
  homerank : Nat
  homeaddr : Nat
  /-- the request in progress: 1 GETS, 2 GETX, 3 WBREL, and its rank -/
  req : Nat
  reqRank : Nat
  /-- RECALL acks outstanding -/
  acks : List Nat
  /-- dirty data held for the home write, and its failed attempts (R442) -/
  held : Option (List Byte)
  wattempts : Nat
  wdeclined : Bool
  waiting : List (Nat × Nat × List Byte)
  deriving DecidableEq, Repr

/-- What an owner or holder has to answer for a name (R381, R382). -/
structure Owned where
  job : Nat
  page : Nat
  tenure : Bool
  /-- XFER-S (false) or XFER-X (true) held, and for whom -/
  xfer : Option (Bool × Nat)
  recalled : Bool
  /-- write-back buffer kept until WBACK or STALE -/
  wbuf : Option (List Byte)
  /-- a pin recorded while Evicting (R385) -/
  pinWait : Bool
  /-- the data version its copy holds (R380) -/
  ver : Nat
  deriving DecidableEq, Repr

/-- A page of a sequence (R286, R391). -/
structure KvPage where
  layer : Nat
  head : Nat
  idx : Nat
  /-- the page of its global name -/
  page : Nat
  /-- 0 HBM, 1 CXL, 2 flash; 3 Filling or in ascent; 4 mid-descent -/
  tier : Nat
  quarantined : Bool
  /-- held by a REFCNT of its frame (R393) -/
  held : Bool
  /-- while it is in a lower tier: whether it was held for writing, and its bytes -/
  wr : Bool
  bytes : List Byte
  deriving DecidableEq, Repr

/-- A sequence record (R286); the element format by R158 code. -/
structure Sequence where
  id : Nat
  job : Nat
  rb : Nat
  ws : Nat
  fmt : Nat
  layers : Nat
  heads : Nat
  pages : List KvPage
  deriving DecidableEq, Repr

/-- Roost states (R391). -/
inductive RState where
  | resident | descent1 | low1 | descent2 | low2 | roused | queued
  deriving DecidableEq, Repr

/-- A roost record (R289, R391). -/
structure Roost where
  id : Nat
  world : Nat
  st : RState
  state : Nat
  slen : Nat
  tailp : Nat
  cont : Nat
  cq : Nat
  t1 : Nat
  t2 : Nat
  stateTier : Nat
  /-- the state block is held by the REFCNT of its frames (R393) -/
  stateHeld : Bool
  /-- pages of the state block in a lower tier: page, whether it was held for writing, bytes -/
  stateOut : List (Nat × Bool × List Byte)
  deriving DecidableEq, Repr

/-- Home states of a line (R365). -/
inductive HomeSt where
  | hi
  | hs (set : List Nat)
  | hx (o : Nat)
  | ho (o : Nat) (set : List Nat)
  | busyF (o a : Nat) (set : List Nat)
  | busyX (a : Nat) (left : List Nat) (grant : Bool)
  | busyWb (a : Nat) (set : List Nat)
  deriving DecidableEq, Repr

/-- States of a line at an agent (R365, R368). -/
inductive AgentSt where
  | i | s | e | o | m | is | im | sm | mi | oi | ii
  deriving DecidableEq, Repr

/-- Messages to an agent about a line (R366 to R368). -/
inductive Snoop where
  | fwdS | fwdX | inv | dataS | dataE | dataM | grant | wback | wbstale
  /-- the answer to an EvE (R367) -/
  | ack
  deriving DecidableEq, Repr

/-- Requests to a home (R367). -/
inductive Req where
  | rds | rdx | upg | wb | eve
  deriving DecidableEq, Repr

/-- One line's coherence state: home, agents, requests waiting at the home, snoops under way, deferred snoops. -/
structure Line where
  addr : Nat
  home : HomeSt
  agents : Tab AgentSt
  reqs : List (Req × Nat)
  snoops : List (Nat × Snoop)
  deferred : List (Nat × Snoop)
  acks : List Nat
  deriving DecidableEq, Repr

/-- Messages the device hands to its surroundings, in order. -/
inductive Msg where
  /-- requests and answers of the directory protocol (R380): kind, name, peer rank, data version, data -/
  | np (kind job page rank ver : Nat) (bytes : List Byte)
  /-- fabric data and control: class (R401), peer, bytes -/
  | fabric (cls peer : Nat) (bytes : List Byte)
  /-- one packet of the message before it, or one that is sent again (R401 to R403): class, peer, number, port and entropy
  value, and the piece of the message that it carries -/
  | packet (cls peer seq : Nat) (port : Option Nat) (entropy off len : Nat)
  /-- an SPDM answer: code, data words -/
  | spdm (code : Nat) (data : List Nat)
  /-- a world's interrupt raised on the RV64 core that firmware designates for it (R338) -/
  | interrupt (world core : Nat)
  /-- what a load or an atomic of an RV64 core of the processor chiplet brings to it (R143): core and bytes -/
  | rv (core : Nat) (bytes : List Byte)
  /-- a lease change, sent to every rank of the job (R417): state, reason, number, expiry and time of sending -/
  | lease (world swid state reason leaseNo expiry now : Nat)
  /-- a session key given to a rank (R423): job, rank, epoch -/
  | key (job rank epoch : Nat)
  /-- a lease key given to a switch over its secured session (R416): world, switch, lease number -/
  | leaseKey (world swid no : Nat)
  /-- the key of a command ring given to its writer over a secured session (R426): world, ring, generation -/
  | ringKey (world ring : Nat) (keygen : Word)
  /-- storage, CXL, NVMe traffic: kind, address, bytes -/
  | storage (kind addr : Nat) (bytes : List Byte)
  /-- a request to a host-queue window of the processor chiplet or to an object of a storage server: KIND of the channel,
  its endpoint, what it asks (R257, R282) -/
  | endpoint (kind : Nat) (endpoint : BitVec 64) (bytes : List Byte)
  /-- a contribution to a switch of a group's tree (R281) -/
  | switch (swid : Nat) (bytes : List Byte)
  /-- the fault record of a KV page (R288): sequence, layer, head, page, first failing position -/
  | kvFault (seq layer head page pos : Nat)
  /-- a report to firmware -/
  | firmware (kind value : Nat)
  deriving DecidableEq, Repr

/-- What an RV64 core of the processor chiplet does to memory (R143): the functions of an atomic are those of R159, with
value and compare value; a fence stands for the RISC-V fence that pairs with device-scope operations of crews. -/
inductive RvAcc where
  | load (n : Nat)
  | store (l : List Byte)
  | amo (fn : Nat) (v cmp : BitVec 64)
  | fence
  /-- it puts a sequence record into the network processor's tables, a new one or one whose window start has advanced (R286,
  R287); the spec names no other party that does (log entry 24, DESIGN CHOICE) -/
  | sequence (q : Sequence)
  deriving DecidableEq, Repr

/-- An access of an RV64 core (R12, R143): the core, 0 to 15, the world whose tables translate it, the address, and what
it does. -/
structure RvOp where
  core : Nat
  world : Nat
  va : Nat
  acc : RvAcc
  deriving DecidableEq, Repr

/-! ## Worlds -/

/-- A kick page (R331) with the queue's live level and device-held entries (R332). -/
structure KickPage where
  ring : Nat
  enable : Bool
  prio : Nat
  logDepth : Nat
  tail : Word
  head : Word
  code : Nat
  err : Bool
  live : Word
  /-- entries accepted by lnch: position and the accepted launch's handle (R332) -/
  heldEntries : List (Word × Word)
  /-- kicks whose entries are not all taken, oldest first: TAIL after each, its device time and its place in the order of
  submission (R339, R343) -/
  kicks : List (Word × Nat × Nat)
  deriving DecidableEq, Repr

/-- The translation control page (R352) and the world's translation buffers (R353). -/
structure TransPage where
  root : Nat
  iva : Nat
  ilen : Word
  ireqcnt : Word
  idone : Word
  walkerr : Word
  werrva : BitVec 64
  /-- invalidations queued: start, length in 64 KiB units -/
  queue : List (Nat × Nat)
  deriving DecidableEq, Repr

/-- The world control page (R338), job and phase state (R337). -/
structure CtlPage where
  intq : Nat
  intlog : Nat
  inthead : Word
  inttail : Word
  intlost : Word
  syscerr : Word
  phase : Word
  pstate : LState
  pcount : Word
  jstate : LState
  jcount : Word
  /-- the job holds dispatch (R337) -/
  jobHeld : Bool
  /-- cancelled or closed: no entry is taken (R337) -/
  jobEnded : Bool
  /-- some phase did not end COMPLETE -/
  jobBad : Bool
  /-- phase marks taken whose phase has not been passed: entries taken now belong to the phase that many on (R337) -/
  marks : Nat
  phaseBad : Bool
  /-- levels of later phases that have ended: the phase, and whether it did not end COMPLETE -/
  later : List (Word × Bool)
  savebase : Nat
  savelog : Nat
  saveslots : Nat
  /-- slots holding an image -/
  slotsUsed : List Nat
  claimimg : BitVec 64
  claimstat : Nat
  deriving DecidableEq, Repr

/-- The NP world page (R388). -/
structure NpPage where
  dfq : Nat
  dflog : Nat
  dfhead : Word
  dftail : Word
  dflost : Word
  nshards : Nat
  shmap : Nat
  rank : Nat
  cname : Nat
  carg : Nat
  busy : Bool
  cstat : Nat
  pcmode : Bool
  pctab : Nat
  pclog : Nat
  deriving DecidableEq, Repr

/-- One lease of a switch (R416, R417). -/
structure Lease where
  swid : Nat
  st : Nat
  reason : Nat
  leaseNo : Nat
  expiry : Nat
  /-- lease numbers whose keys are still accepted (R418) -/
  keys : List Nat
  /-- the measurements that the switch last reported to the authority (R418) -/
  report : List (Nat × Nat)
  deriving DecidableEq, Repr

/-- The fabric world page (R406), with the leases it mirrors. -/
structure FabPage where
  wintab : Nat
  nwin : Nat
  grptab : Nat
  ngrp : Nat
  leasetab : Nat
  authrank : Nat
  badpkt : Word
  modedrop : Word
  appr : Nat
  nappr : Nat
  leasems : Nat
  leases : List Lease
  lastLease : Nat
  deriving DecidableEq, Repr

/-- A prefetch stream (R437). -/
structure Stream where
  extlist : Nat
  nextCnt : Nat
  ahead : Nat
  ctr : Nat
  pfdone : Word
  pfstat : Nat
  last : Nat
  deriving DecidableEq, Repr

/-- Command ring states (R425). -/
inductive RingSt where
  | disabled | running | haltedSkip | haltedRekey
  deriving DecidableEq, Repr

/-- A command ring (R425). -/
structure CmdRing where
  rbase : Nat
  rlog : Nat
  tail : Word
  head : Word
  expseq : Nat
  st : RingSt
  laststat : Nat
  lastseq : Nat
  replays : Word
  badtags : Word
  keygen : Word
  rseq : Nat
  deriving DecidableEq, Repr

/-- A watchpoint (R432, R434). -/
structure Watch where
  addr : Nat
  len : Nat
  ctl : Nat
  deriving DecidableEq, Repr

/-- The debug window (R432). -/
structure DbgPage where
  crewsel : Nat
  watches : List Watch
  sampbase : Nat
  samplog : Nat
  sampper : Word
  samphead : Word
  samptail : Word
  samplost : Word
  trace : Nat
  ftagsel : Nat
  fqsel : Nat
  deriving DecidableEq, Repr

/-- A system-call request outstanding, as its slot of the ring holds it (R326). -/
structure SyscReq where
  reqid : Word
  service : Nat
  /-- address of the sysc -/
  pc : Word
  launch : Word
  /-- `%block` and `%crew` -/
  block : Nat
  idx : Nat
  /-- `%core` of the crew that posted it -/
  core : Nat
  /-- the slot it fills -/
  slot : Nat
  crew : Nat
  lanes : List Nat
  /-- x2 to x9 of each lane -/
  args : List (List Word)
  /-- a reply that came while its crew was out: status, lanes, values (R324) -/
  reply : Option (Word × List Nat × List Nat)
  deriving DecidableEq, Repr

/-- A world (R419) with its pages, rings, allocator and images. -/
structure World where
  num : Nat
  job : Nat
  /-- generation of its memory key; 0 before creation -/
  keygen : Nat
  /-- 1 GiB regions of HBM assigned to it (R420) -/
  regions : List Nat
  simage : Image
  trans : TransPage
  /-- translation buffers of the cores and, shared, of the dies, each entry tagged with this world: VA page base, level,
  entry (R353) -/
  coreTlb : Tab (List (Nat × Nat × BitVec 128))
  dieTlb : Tab (List (Nat × Nat × BitVec 128))
  /-- walk caches of the dies: level of a table, VA base of what it maps, its PA (R353) -/
  walkCache : Tab (List (Nat × Nat × Nat))
  kicks : Tab KickPage
  ctl : CtlPage
  np : NpPage
  fab : FabPage
  streams : Tab Stream
  rings : Tab CmdRing
  dbg : DbgPage
  /-- handles given so far (R339) -/
  nextHandle : Word
  /-- system-call ring (R326): log2 of its slots, the bytes of the slots, next REQID, outstanding requests -/
  sysLog : Nat
  sysRing : Memory
  nextReq : Word
  requests : List SyscReq
  /-- requests of released bins that await a free slot, oldest first, each by the number of its bin (R326) -/
  sysHeld : List (Nat × SyscReq)
  /-- buddy allocator: free and allocated blocks as address, log2 size, PA (R328) -/
  poolFree : List (Nat × Nat × Nat)
  poolUsed : List (Nat × Nat × Nat)
  /-- PAs of 16 KiB pieces that firmware keeps for page tables -/
  tables : List Nat
  /-- FSEQ counter (R374) -/
  fseq : Word
  /-- group instance numbers (R277): group to count -/
  groupSeq : Tab (Word × List Byte)
  deriving DecidableEq, Repr

/-! ## The device -/

/-- Which set issues, and the guard its prefix has latched (R149). -/
structure Issue where
  crew : Nat
  set : Nat
  guard : Option (BitVec 4)
  deriving DecidableEq, Repr

/-- The checkpoint control page (R396) and progress. -/
structure Ckpt where
  tgt : Nat
  port : Nat
  srv : Nat
  obj : Nat
  stat : Nat
  bytes : Nat
  err : Nat
  /-- CRC-32C of each segment streamed by a save, or as the trailer of the image that is restored gives it (R395, R397) -/
  crcs : List Nat
  /-- 0 save, 1 restore checking pass, 2 restore writing pass -/
  pass : Nat
  abort : Bool
  /-- dispatch and roost timers held (R395, R397) -/
  hold : Bool
  /-- a restore failed in its writing pass: the hold stays, and no service opens (R397) -/
  stuck : Bool
  /-- a restore has read the header and the trailer of its image and found them to be this device's (R397) -/
  header : Bool
  /-- names whose requests a save has answered HELD, in the order of their arrival (R395) -/
  held : List (Nat × Nat)
  deriving DecidableEq, Repr

/-- A packet sent and not acknowledged (R403). -/
structure Sent where
  seq : Nat
  sends : Nat
  /-- the engine entry or service it belongs to, 0 for none -/
  owner : Nat
  /-- traffic class of R401 -/
  cls : Nat
  /-- crew and lane whose rput or ratom it carries (R130) -/
  put : Option (Nat × Nat)
  /-- the block, queue and endpoint that its command was issued to (R285) -/
  flow : Nat × Nat × BitVec 64
  /-- the burst that it asks for, in a handler read (R273) -/
  part : Nat
  /-- port and entropy value, and how often it has been sent again on that port (R402) -/
  port : Option Nat
  entropy : Nat
  tries : Nat
  /-- the piece of its message that it carries (R401) -/
  off : Nat
  len : Nat
  /-- eight sends have not been acknowledged: an rput or ratom that is never placed (R285, R403) -/
  lost : Bool
  deriving DecidableEq, Repr

/-- An ordered flow to a peer (R402): its class, port and entropy value. -/
structure RodFlow where
  cls : Nat
  port : Nat
  entropy : Nat
  deriving DecidableEq, Repr

/-- The transport state of a fabric peer: a rank of a job, a storage server or a switch (R402 to R404, R424). -/
structure Peer where
  key : Nat
  /-- sending rate in millionths of port rate -/
  rate : Nat
  unacked : List Sent
  /-- packets already placed -/
  seen : List Nat
  /-- it failed attestation and holds no session key (R423) -/
  failed : Bool
  /-- a marked acknowledgement arrived in the current 10 µs (R404) -/
  marked : Bool
  /-- device time of the rate's last fall, none before the first -/
  lastFall : Option Nat
  /-- its ordered flows (R402) -/
  flows : List RodFlow
  /-- packets sent under the epoch (R424) -/
  sent : Nat
  deriving DecidableEq, Repr

/-- A die-to-stack link (R422). -/
structure Link where
  ctr : Nat
  fails : Nat
  keygen : Nat
  open_ : Bool
  deriving DecidableEq, Repr

/-- Fabric, enclave and housekeeping state. -/
structure Platform where
  portsUp : List Nat
  /-- the use of each x16 group of PCIe lanes: a CXL host port, or else an NVMe root port (R1) -/
  cxl : List Bool
  peers : Tab Peer
  links : Tab Link
  devtime : BitVec 64
  ptpLocked : Bool
  /-- secure monotonic clock in µs (R416) -/
  secClock : Nat
  /-- HSS leaves used (R410) -/
  hssUsed : Nat
  /-- measurement digests 1 to 7 (R415) -/
  measures : Tab Nat
  /-- component to running security version (R411) -/
  versions : Tab Nat
  minSvn : Nat
  /-- digest of the image that each component runs, where one has been activated (R411, R415) -/
  images : Tab Nat
  /-- live activations in progress (R414) -/
  activating : Nat
  sessions : List Nat
  nextSession : Nat
  /-- job session keys held: job, epoch, whether the previous epoch is still accepted -/
  epochs : Tab (Nat × Bool)
  pstate : Nat
  /-- heat has lowered the power state (R440) -/
  thermal : Bool
  /-- junctions that are not below 95 °C (R440) -/
  hot : List Nat
  bootStep : Nat
  bootFailed : Bool
  /-- world latched into each die, 0 none (R419) -/
  dieWorld : List Nat
  flitDrops : Nat
  fcframes : Nat
  fcbase : Nat
  wayl : Nat
  deriving DecidableEq, Repr

/-- The state of the machine. -/
structure State where
  /-- the schedule: each number picks the next move among those open; empty picks the first -/
  sched : List Nat
  /-- steps caused and not yet taken -/
  agenda : List Event
  iss : Issue
  mem : Memory
  /-- poisoned granules, by PA ÷ 4 (R363) -/
  poison : List Nat
  crews : List Crew
  units : List BUnit
  launches : List Launch
  graphs : List Graph
  /-- by 4 x core + quarter -/
  quarters : Tab Quarter
  entries : List Entry
  mcmds : List MCmd
  landings : List Landing
  stores : List PStore
  recs : List Rec
  older : List Older
  /-- accesses that wait for a record, oldest first -/
  recWaits : List RecWait
  groups : List Group
  bursts : List Burst
  gangs : List Gang
  /-- space kept for launches that pre-emption serves (R344) -/
  reserved : List Kept
  /-- by frame index (R357) -/
  frames : Tab Frame
  /-- frames that some translation has touched since the last ageing pass (R384) -/
  touched : List Nat
  /-- key (die x 16 + world) x 4,096 + index (R373) -/
  faultq : Tab FqEntry
  services : List Service
  dir : List DirEnt
  owned : List Owned
  seqs : List Sequence
  roosts : List Roost
  lines : List Line
  /-- messages of the directory under way, in the order of sending, each with a write of memory that a home awaits (R366) -/
  flying : List Event
  /-- lines that the L1 of each core holds, last used first, and the victim tags of each, newest first: the line, and the
  crew that brought it in (R347) -/
  l1 : Tab (List (Place × Nat))
  vtags : Tab (List (Place × Nat))
  /-- lost-locality scores, by crew; crews that the throttle holds; those allowed for 256 clk in the place of another (R347) -/
  scores : Tab Nat
  throttled : List Nat
  swapped : List Nat
  /-- accesses that RV64 cores of the chiplet have begun and not yet performed, in the order of the chiplet (R143) -/
  rvOps : List RvOp
  worlds : List World
  ckpt : Ckpt
  plat : Platform
  /-- firmware's M image (R304) -/
  mimage : Image
  /-- last number given to an object of the model -/
  nextId : Nat
  /-- filings so far, for the age order of R28 -/
  clock : Nat
  /-- the model's own counter of free values -/
  freeCtr : Nat
  outbox : List Msg
  deriving DecidableEq, Repr

/-! ## Outcomes -/

/-- Reasons the model stops. -/
inductive Fault where
  /-- Raised by `exec` of an encoded instruction when the state selects no issue set. `step` selects one before it
  executes, so no step raises it. Safe. -/
  | noIssueSet
  deriving DecidableEq, Repr

/-- Reasons the model has no meaning for a step. -/
inductive Refusal where
  /-- Raised by the arm of an instruction that has no meaning yet, with its mnemonic. Safe. -/
  | notModelled (mnemonic : String)
  deriving DecidableEq, Repr

/-! ## Initial values -/

/-- A thread at crew launch (R68). -/
def Thread.init (lane : Nat) (entry : Word) : Thread where
  lane := lane
  st := .running
  set := lane / 32
  pc := entry
  wb := 0
  regs := []
  preds := 0
  aflg := 0
  dthi := 0
  pendX := []
  mode := .U
  inTrap := false
  tcause := 0
  tpc := 0
  twb := 0
  tpred := 0
  taflg := 0
  tmode := .U
  tstate := 0
  tscr := []
  trec := []
  barS := []
  accpos := 0
  plsel := 0
  monitor := none
  bc1 := 0
  bc2 := 0
  filedAt := 0
  entering := none
  replay := none

/-- A crew with no threads yet. -/
def Crew.init (uid : Nat) : Crew where
  uid := uid
  unit := 0
  launch := 0
  world := 0
  idx := 0
  core := 0
  quarter := 0
  slot := 0
  nregs := 16
  nuregs := 32
  priv := 0
  sregs := []
  qpreds := 0
  uwb := 0
  pendS := []
  pendQ := []
  rndcnt := 0
  ctximg := 0
  ctxstat := 0
  barsel := 0
  asyncQ := []
  lost := 0
  region := 0
  win := 0
  privMem := []
  privPoison := []
  halt := .running
  course := .normal
  preReason := 0
  tretDone := []
  heldReplies := []
  drip := none
  lastCmd := (0, 0, 0)
  threads := []

/-- A launch descriptor with every field at its smallest value. -/
def LDesc.init : LDesc where
  refage := 64
  array := false
  rndmode := 0
  image := ⟨0, []⟩
  entry := 0
  nregs := 16
  nuregs := 32
  priv := 0
  scratch := 0
  block := 1
  crews := 1
  grid := 1
  args := []
  chans := []
  handlers := []
  bars := []
  cbs := []
  caps := []
  rndring := 0
  rndlen := 0
  status := 0

/-- A launch just accepted (R332). -/
def Launch.init (handle : Word) (world queue : Nat) (desc : LDesc) : Launch where
  handle := handle
  world := world
  queue := queue
  prio := 0
  eff := 0
  at8 := 0
  order := 0
  sub := 0
  phaseNo := 0
  state := .queued
  count := 0
  next := 0
  saved := []
  moved := 0
  desc := desc
  graph := 0
  node := 0
  gang := false
  gangTick := 0
  resumeOf := none
  rndpos := 0
  rndmiss := 0
  rndovf := false
  reason := 0
  times := [0, 0, 0]
  roost := none
  childCancelled := false
  taken := true

/-- An empty plane record (R239). -/
def Plane.init : Plane := ⟨.empty, 0, false, 0, 0, 0, 0, 0, 0, 0xFFFFFFFF, 0⟩

/-- Contents of an empty plane. -/
def PlaneData.init : PlaneData := ⟨[], [], 0, false⟩

/-- A quarter with nothing bound: accumulators +0.0, planes EMPTY (R62). -/
def Quarter.init : Quarter :=
  ⟨none, [], [], Plane.init, Plane.init, PlaneData.init, PlaneData.init, [], none, []⟩

/-- A kick page at reset (R331). -/
def KickPage.init : KickPage := ⟨0, false, 0, 4, 0, 0, 0, false, 0, [], []⟩

/-- A command ring at reset (R425). -/
def CmdRing.init : CmdRing := ⟨0, 4, 0, 0, 0, .disabled, 0, 0, 0, 0, 0, 0⟩

/-- A prefetch stream at reset (R437). -/
def Stream.init : Stream := ⟨0, 0, 0, 0, 0, 0, 0⟩

/-- An Invalid frame tag (R356). -/
def Frame.init : Frame := ⟨0, 0, 0, 0, 0, false, .invalid⟩

/-- A FREE fault-queue entry (R373). -/
def FqEntry.init : FqEntry := ⟨0, 0, 0, 0, 0, 0, 0, 0, 0, 0, 0, 0, false, .free⟩

/-- A fabric peer not yet spoken to (R404): full rate. -/
def Peer.init (key : Nat) : Peer := ⟨key, 1000000, [], [], false, false, none, [], 0⟩

/-- A link at boot (R422). -/
def Link.init : Link := ⟨0, 0, 1, false⟩

/-- The translation control page at reset (R352). -/
def TransPage.init : TransPage := ⟨0, 0, 0, 0, 0, 0, 0, []⟩

/-- The world control page at reset (R338). -/
def CtlPage.init : CtlPage where
  intq := 0
  intlog := 4
  inthead := 0
  inttail := 0
  intlost := 0
  syscerr := 0
  phase := 0
  pstate := .running
  pcount := 0
  jstate := .running
  jcount := 0
  jobHeld := false
  jobEnded := false
  jobBad := false
  marks := 0
  phaseBad := false
  later := []
  savebase := 0
  savelog := 4
  saveslots := 0
  slotsUsed := []
  claimimg := 0
  claimstat := 0

/-- The NP world page at reset (R388). -/
def NpPage.init : NpPage := ⟨0, 4, 0, 0, 0, 1, 0, 0, 0, 0, false, 0, false, 0, 0⟩

/-- The fabric world page at reset (R406). -/
def FabPage.init : FabPage := ⟨0, 0, 0, 0, 0, 0, 0, 0, 0, 0, 60000, [], 0⟩

/-- The debug window at reset (R432). -/
def DbgPage.init : DbgPage := ⟨0, [⟨0, 0, 0⟩, ⟨0, 0, 0⟩, ⟨0, 0, 0⟩, ⟨0, 0, 0⟩], 0, 4, 0, 0, 0, 0, 0, 0, 0⟩

/-- A world just created (R421), all its pages at reset. -/
def World.init (num : Nat) : World where
  num := num
  job := 0
  keygen := 1
  regions := []
  simage := ⟨0, []⟩
  trans := TransPage.init
  coreTlb := []
  dieTlb := []
  walkCache := []
  kicks := []
  ctl := CtlPage.init
  np := NpPage.init
  fab := FabPage.init
  streams := []
  rings := []
  dbg := DbgPage.init
  nextHandle := 1
  sysLog := 4
  sysRing := []
  nextReq := 0
  requests := []
  sysHeld := []
  poolFree := []
  poolUsed := []
  tables := []
  fseq := 0
  groupSeq := []

/-- The checkpoint page at reset (R396). -/
def Ckpt.init : Ckpt := ⟨0, 0, 0, 0, 0, 0, 0, [], 0, false, false, false, false, []⟩

/-- Fabric, enclave and housekeeping at reset: P0, every port up, no world latched, boot not begun; the lane groups a CXL
host port and an NVMe root port until the start reads their uses (log entries 2 and 24, DESIGN CHOICE). -/
def Platform.init : Platform where
  portsUp := [0, 1, 2, 3, 4, 5, 6, 7]
  cxl := [true, false]
  peers := []
  links := []
  devtime := 0
  ptpLocked := false
  secClock := 0
  hssUsed := 0
  measures := []
  versions := []
  minSvn := 0
  images := []
  activating := 0
  sessions := []
  nextSession := 1
  epochs := []
  pstate := 0
  thermal := false
  hot := []
  bootStep := 0
  bootFailed := false
  dieWorld := [0, 0, 0, 0]
  flitDrops := 0
  fcframes := 0
  fcbase := 0
  wayl := 16

/-- The machine right after reset: no world, no crew, nothing in memory, boot not yet run (R435). -/
def State.reset : State where
  sched := []
  agenda := []
  iss := ⟨0, 0, none⟩
  mem := []
  poison := []
  crews := []
  units := []
  launches := []
  graphs := []
  quarters := []
  entries := []
  mcmds := []
  landings := []
  stores := []
  recs := []
  older := []
  recWaits := []
  groups := []
  bursts := []
  gangs := []
  reserved := []
  frames := []
  touched := []
  faultq := []
  services := []
  dir := []
  owned := []
  seqs := []
  roosts := []
  lines := []
  flying := []
  l1 := []
  vtags := []
  scores := []
  throttled := []
  swapped := []
  rvOps := []
  worlds := []
  ckpt := Ckpt.init
  plat := Platform.init
  mimage := ⟨0, []⟩
  nextId := 1
  clock := 0
  freeCtr := 0
  outbox := []

end Sys2Proof.Machine
end

