-- ==== Sys2Proof/Machine/Operands.lean ====
section
/-! DEFINITION. Registers and predicates as operands: the one place that reads and writes them, and the checks made
of an instruction's operands before it executes (R52 to R58, R69, R87, R153). -/

namespace Sys2Proof.Machine

/-! ## Registers -/

/-- What thread register `i` holds at launch (R68). -/
def markX (i : Nat) : Word := BitVec.ofNat 32 (0x7FA00000 + i)

/-- What uniform register `j` holds at launch (R68). -/
def markS (j : Nat) : Word := BitVec.ofNat 32 (0x7FB00000 + j)

/-- Thread register of physical index `p`. -/
def Thread.getX (t : Thread) (p : Nat) : Word := tabGet t.regs (markX p) p

/-- Writes the thread register of physical index `p`. -/
def Thread.setX (t : Thread) (p : Nat) (v : Word) : Thread := { t with regs := tabPut t.regs (markX p) p v }

/-- Uniform register of physical index `p`. -/
def Crew.getS (c : Crew) (p : Nat) : Word := tabGet c.sregs (markS p) p

/-- Writes the uniform register of physical index `p`. -/
def Crew.setS (c : Crew) (p : Nat) (v : Word) : Crew := { c with sregs := tabPut c.sregs (markS p) p v }

/-- The thread register a field names through the window (R53). -/
def Thread.x (t : Thread) (f : Nat) : Word := t.getX (t.wb + f)

/-- The uniform register a field names (R55). -/
def Crew.s (c : Crew) (f : Nat) : Word := c.getS (c.uwb + f)

/-- Writes the register a field names. -/
def Thread.putX (t : Thread) (f : Nat) (v : Word) : Thread := t.setX (t.wb + f) v

/-- Writes the uniform register a field names. -/
def Crew.putS (c : Crew) (f : Nat) (v : Word) : Crew := c.setS (c.uwb + f) v

/-- Writes consecutive registers from a field on. -/
def Thread.putXs (t : Thread) (f : Nat) (vs : List Word) : Thread :=
  match vs with
  | [] => t
  | v :: r => (t.putX f v).putXs (f + 1) r

/-- The 64-bit value of a pair of registers (R96, R177). -/
def Thread.x64 (t : Thread) (f : Nat) : BitVec 64 := pair64 (t.x (f + 1)) (t.x f)

/-- The 64-bit value of a pair of uniform registers. -/
def Crew.s64 (c : Crew) (f : Nat) : BitVec 64 := pair64 (c.s (f + 1)) (c.s f)

/-! ## Predicates and flags -/

/-- Predicate `i` of a file of seven; index 7 reads true (R57). -/
def predGet (p : BitVec 7) (i : Nat) : Bool := if i = 7 then true else p.getLsbD i

/-- Writes predicate `i`; a write to index 7 is discarded (R57). -/
def predSet (p : BitVec 7) (i : Nat) (v : Bool) : BitVec 7 :=
  let m : BitVec 7 := BitVec.ofNat 7 (2 ^ i)
  if i ≥ 7 then p else if v then p ||| m else p &&& ~~~m

/-- A predicate complemented when `n` (R145). -/
def condOf (p : BitVec 7) (n : Bool) (i : Nat) : Bool := predGet p i != n

/-- A predicate field: index in [2:0], negate in [3] (R191). -/
def predField (p : BitVec 7) (f : BitVec 4) : Bool := condOf p (f.getLsbD 3) (f.extractLsb' 0 3).toNat

/-- Raises sticky flags (R58). -/
def Thread.flag (t : Thread) (fl : Flags) : Thread := { t with aflg := t.aflg ||| fl }

/-! ## Operands and their checks -/

/-- Register classes. -/
inductive RC where
  | x | s
  deriving DecidableEq, Repr

/-- One operand of an instruction: class, field, how many registers, the field code of R312 (1 D, 2 A, 3 B,
4 implicit), and whether a marker in it raises UNINIT (R87). -/
structure Opnd where
  cls : RC
  field : Nat
  span : Nat
  code : Nat
  mark : Bool
  deriving DecidableEq, Repr

/-- A span of thread registers in the D field. -/
def dX (d : BitVec 7) (n : Nat) : Opnd := ⟨.x, d.toNat, n, 1, false⟩
/-- A span in the A field. -/
def aX (a : BitVec 7) (n : Nat) : Opnd := ⟨.x, a.toNat, n, 2, false⟩
/-- A span in the B field. -/
def bX (b : BitVec 7) (n : Nat) : Opnd := ⟨.x, b.toNat, n, 3, false⟩
/-- Uniform spans in the D, A and B fields. -/
def dS (d : BitVec 7) (n : Nat) : Opnd := ⟨.s, d.toNat, n, 1, false⟩
def aS (a : BitVec 7) (n : Nat) : Opnd := ⟨.s, a.toNat, n, 2, false⟩
def bS (b : BitVec 7) (n : Nat) : Opnd := ⟨.s, b.toNat, n, 3, false⟩
/-- Registers no field names (R53). -/
def implX (f n : Nat) : Opnd := ⟨.x, f, n, 4, false⟩
/-- The same operand, read as floating point and checked for markers (R87). -/
def Opnd.fp (o : Opnd) : Opnd := { o with mark := true }

/-- Window base and register count of an operand's class (R53, R55). -/
def Opnd.base (o : Opnd) (c : Crew) (t : Thread) : Nat × Nat :=
  match o.cls with
  | .x => (t.wb, c.nregs)
  | .s => (c.uwb, c.nuregs)

/-- 0 thread, 1 uniform (R312). -/
def RC.code : RC → Nat
  | .x => 0
  | .s => 1

/-- A trap record's words from w2 on, as a table. -/
def recWords (l : List Word) : Tab Word :=
  (List.range l.length).foldl (fun m i => tabPut m 0 (i + 2) (l.getD i 0)) []

/-- A trap with its words from w2 on (R312). A record's word is 32 bits wide: of a private offset of 2^32 or more, which
R115 has the record give, it holds the low 32 (log entry 24, DESIGN CHOICE). -/
def mkTrap (c : Cause) (reason : Nat) (l : List Nat) : Trap := ⟨c, reason, recWords (l.map (BitVec.ofNat 32))⟩

/-- REG_RANGE: the first operand that names a register outside the allocation, at its lowest such offset (R53). -/
def regRange (c : Crew) (t : Thread) (ops : List Opnd) : Option Trap :=
  ops.findSome? fun o =>
    let (base, lim) := o.base c t
    (List.range o.span).findSome? fun k =>
      if base + o.field + k ≥ lim || o.field + k > 127 then
        some (mkTrap .regRange o.code [base + o.field + k, o.cls.code])
      else none

/-- The producer of a pending register, if it is pending and not excluded (R152, R187). -/
def pendingAt (c : Crew) (t : Thread) (excl : Option Word) (cls : RC) (p : Nat) : Option Word :=
  match cls with
  | .x => tabGet t.pendX none p
  | .s =>
    match tabGet c.pendS none p with
    | some pc => if excl = some pc then none else some pc
    | none => none

/-- A pending uniform predicate, if not excluded. -/
def pendingQ (c : Crew) (excl : Option Word) (q : Nat) : Option Word :=
  match tabGet c.pendQ none q with
  | some pc => if excl = some pc then none else some pc
  | none => none

/-- DEPV: the guard predicate, then D, A, B and implicit operands, named lowest offset first; `qs` are the uniform
predicates among them, with the place each takes before the operand of that number (R153). -/
def depv (c : Crew) (t : Thread) (excl : Option Word) (guardQ : Option Nat) (qs : List Nat) (ops : List Opnd) :
    Option Trap :=
  let qTrap := fun q => (pendingQ c excl q).map fun pc => mkTrap .depv 0 [3, q, pc.toNat]
  match guardQ.bind qTrap with
  | some tr => some tr
  | none =>
    match qs.findSome? qTrap with
    | some tr => some tr
    | none =>
      ops.findSome? fun o =>
        let (base, _) := o.base c t
        (List.range o.span).findSome? fun k =>
          (pendingAt c t excl o.cls (base + o.field + k)).map fun pc =>
            mkTrap .depv 0 [o.cls.code, base + o.field + k, pc.toNat]

/-- Whether a value is a register marker (R87). -/
def isMarker (v : Word) : Bool := v.extractLsb' 8 24 == 0x7FA000#24 || v.extractLsb' 8 24 == 0x7FB000#24

/-- The UNINIT record of a marker, which goes on naming the register it came from wherever it was moved: that register's
class, and its index (R69, R87, R312). -/
def uninitTrap (v : Word) : Trap := mkTrap .uninit 0 [(v.getLsbD 20).toNat, (v.extractLsb' 0 8).toNat]

/-- The value of a register of an operand. -/
def Opnd.value (o : Opnd) (c : Crew) (t : Thread) (k : Nat) : Word :=
  match o.cls with
  | .x => t.x (o.field + k)
  | .s => c.s (o.field + k)

/-- UNINIT: the first checked operand that holds a marker (R69, R87). The spec does not say which of several the record
names: D comes before A, A before B, and of a span the lowest offset (log entry 24, DESIGN CHOICE). -/
def uninit (c : Crew) (t : Thread) (ops : List Opnd) : Option Trap :=
  ops.findSome? fun o =>
    if o.mark then
      (List.range o.span).findSome? fun k => if isMarker (o.value c t k) then some (uninitTrap (o.value c t k)) else none
    else none

/-- No result of the thread or of its crew's uniform state is pending (R152), apart from `excl`. -/
def pendClear (c : Crew) (t : Thread) (excl : Option Word) : Bool :=
  t.pendX.isEmpty && c.pendS.all (fun p => p.2 == excl) && c.pendQ.all (fun p => p.2 == excl)

end Sys2Proof.Machine
end

