-- ==== Sys2Proof/Machine/Crews.lean ====
section
/-! DEFINITION. Finding and changing the objects of the state, and how threads form issue sets (R23 to R26). -/

namespace Sys2Proof.Machine

/-! ## Objects of the state -/

def State.crew (s : State) (uid : Nat) : Option Crew := s.crews.find? (·.uid == uid)
def State.unit (s : State) (uid : Nat) : Option BUnit := s.units.find? (·.uid == uid)
/-- The launch a handle names in a world: the most recent, which stands first (R339). -/
def State.launch (s : State) (w : Nat) (h : Word) : Option Launch := s.launches.find? fun l => l.world == w && l.handle == h
def State.graph (s : State) (w : Nat) (h : Word) : Option Graph := s.graphs.find? fun g => g.world == w && g.handle == h
def State.world (s : State) (w : Nat) : Option World := s.worlds.find? (·.num == w)
def State.entry (s : State) (id : Nat) : Option Entry := s.entries.find? (·.id == id)
def State.quarter (s : State) (q : Nat) : Quarter := tabGet s.quarters Quarter.init q
def State.frame (s : State) (i : Nat) : Frame := tabGet s.frames Frame.init i

/-- Applies `f` to the elements that `p` picks. -/
def mapIf {α : Type} (p : α → Bool) (f : α → α) (l : List α) : List α := l.map fun x => if p x then f x else x

def State.onCrew (s : State) (uid : Nat) (f : Crew → Crew) : State := { s with crews := mapIf (·.uid == uid) f s.crews }
def State.onUnit (s : State) (uid : Nat) (f : BUnit → BUnit) : State := { s with units := mapIf (·.uid == uid) f s.units }
def State.onLaunch (s : State) (w : Nat) (h : Word) (f : Launch → Launch) : State :=
  { s with launches := updFirst (fun l => l.world == w && l.handle == h) f s.launches }
def State.onGraph (s : State) (w : Nat) (h : Word) (f : Graph → Graph) : State :=
  { s with graphs := updFirst (fun g => g.world == w && g.handle == h) f s.graphs }
def State.onWorld (s : State) (w : Nat) (f : World → World) : State := { s with worlds := mapIf (·.num == w) f s.worlds }
def State.onEntry (s : State) (id : Nat) (f : Entry → Entry) : State := { s with entries := mapIf (·.id == id) f s.entries }
def State.onQuarter (s : State) (q : Nat) (f : Quarter → Quarter) : State :=
  { s with quarters := tabPut s.quarters Quarter.init q (f (s.quarter q)) }
def State.onFrame (s : State) (i : Nat) (f : Frame → Frame) : State :=
  { s with frames := tabPut s.frames Frame.init i (f (s.frame i)) }

/-- Hands an event to the agenda: it has been caused and will be taken. -/
def State.post (s : State) (e : Event) : State := { s with agenda := s.agenda ++ [e] }

/-- Caused and not yet taken. -/
def State.arm (s : State) (e : Event) : State := if s.agenda.contains e then s else s.post e

/-- No longer caused. -/
def State.disarm (s : State) (p : Event → Bool) : State := { s with agenda := s.agenda.filter fun e => !p e }

/-- Hands a message to the surroundings. -/
def State.send (s : State) (m : Msg) : State := { s with outbox := s.outbox ++ [m] }

/-- A fresh number for an object of the model. -/
def State.fresh (s : State) : Nat × State := (s.nextId, { s with nextId := s.nextId + 1 })

/-- The next free value's index. -/
def State.free (s : State) : Nat × State := (s.freeCtr, { s with freeCtr := s.freeCtr + 1 })

/-- A new sample of device time. Samples never decrease: it comes to rest at the last value that 64 bits hold (R60). -/
def State.sampleTime (s : State) : State :=
  let (i, s) := s.free
  let t := s.plat.devtime.toNat + Config.elapsed i
  { s with plat := { s.plat with devtime := if t < 2 ^ 64 then BitVec.ofNat 64 t else s.plat.devtime } }

/-! ## Threads of a crew -/

def Crew.thread (c : Crew) (lane : Nat) : Option Thread := c.threads.find? (·.lane == lane)

def Crew.onLane (c : Crew) (lane : Nat) (f : Thread → Thread) : Crew :=
  { c with threads := mapIf (·.lane == lane) f c.threads }

def Crew.onThreads (c : Crew) (p : Thread → Bool) (f : Thread → Thread) : Crew :=
  { c with threads := mapIf p f c.threads }

def State.onLane (s : State) (uid lane : Nat) (f : Thread → Thread) : State := s.onCrew uid fun c => c.onLane lane f

def TState.isRunning : TState → Bool
  | .running => true
  | _ => false

def TState.isExited : TState → Bool
  | .exited => true
  | _ => false

def TState.isParked : TState → Bool
  | .parked _ => true
  | _ => false

/-- Live: not exited (R21). -/
def Thread.live (t : Thread) : Bool := !t.st.isExited

/-- A thread that may issue: running, with no trap waiting to be entered. -/
def Thread.ready (t : Thread) : Bool := t.st.isRunning && t.entering.isNone

/-- The threads of an issue set. -/
def Crew.active (c : Crew) (set : Nat) : List Thread := c.threads.filter fun t => t.ready && t.set == set

/-- What the members of one issue set share: table number, PC, window base, mode, and the cause a trap entry waits
for (R23, R24, R104). -/
def Thread.setKey (t : Thread) : Nat × Word × Nat × Mode × Option Cause :=
  (t.set, t.pc, t.wb, t.mode, t.entering.map (·.1.cause))

/-- The lowest lane of each group of running threads that belong together. -/
def groupsOf : List Thread → List ((Nat × Word × Nat × Mode × Option Cause) × Nat) →
    List ((Nat × Word × Nat × Mode × Option Cause) × Nat)
  | [], g => g
  | t :: r, g =>
    if t.st.isRunning && !(g.any fun p => p.1 == t.setKey) then groupsOf r (g ++ [(t.setKey, t.lane)]) else groupsOf r g

/-- Splits issue sets whose members no longer share PC and window base, and numbers every set by its lowest lane
(R24, R25). -/
def Crew.regroup (c : Crew) : Crew :=
  let g := groupsOf c.threads []
  { c with threads := c.threads.map fun t =>
      if t.st.isRunning then
        match g.find? fun p => p.1 == t.setKey with
        | some p => { t with set := p.2 }
        | none => t
      else t }

/-- A set number that no thread of the crew has: above every lane, so that `regroup` never gives it to a running set. -/
def Crew.newSet (c : Crew) : Nat := c.threads.foldl (fun n t => max n (t.set + 1)) crewWidth

/-- Lanes that leave running together are one set, of a number that no other set has; it stays theirs until they run again
(R24). -/
def Crew.band (c : Crew) (lanes : List Nat) : Crew :=
  c.onThreads (fun t => lanes.contains t.lane) fun t => { t with set := c.newSet }

/-- A thread made running at `pc`, in the set it left running with. -/
def Thread.resumeAt (t : Thread) (pc : Word) : Thread := { t with st := .running, pc := pc }

end Sys2Proof.Machine
end

