-- ==== Sys2Proof/Machine/Memory.lean ====
section
/-! DEFINITION. Memory: bytes in canonical form, translation, the outcome of an access, conflicts and monitors
(files 05, 06, 16). -/

namespace Sys2Proof.Machine

/-! ## Bytes -/

/-- The byte at an address; one that nothing has written reads 0 (log entry 1). -/
def readB (m : Memory) (a : Nat) : Byte := tabGet m 0 a

/-- Writes one byte. -/
def writeB (m : Memory) (a : Nat) (v : Byte) : Memory := tabPut m 0 a v

/-- The canonical form of a memory. -/
def Memory.wf (m : Memory) : Bool := tabWf (fun _ => (0 : Byte)) m

def readBytes (m : Memory) (a n : Nat) : List Byte := (List.range n).map fun i => readB m (a + i)

def writeBytes (m : Memory) (a : Nat) : List Byte → Memory
  | [] => m
  | b :: r => writeBytes (writeB m a b) (a + 1) r

/-- The number that bytes stand for, least significant first (R4). -/
def leNat : List Byte → Nat
  | [] => 0
  | b :: r => b.toNat + 256 * leNat r

/-- The `n` bytes of a number, least significant first. -/
def leBytes : Nat → Nat → List Byte
  | 0, _ => []
  | n + 1, v => BitVec.ofNat 8 v :: leBytes n (v / 256)

/-- Bytes `4i` to `4i + 3` as a word. -/
def wordAt (l : List Byte) (i : Nat) : Word := BitVec.ofNat 32 (leNat ((l.drop (4 * i)).take 4))

/-- Bytes as words, lowest first (R157). -/
def bytesWords (l : List Byte) : List Word := (List.range (l.length / 4)).map (wordAt l)

/-- Words as bytes. -/
def wordsBytes : List Word → List Byte
  | [] => []
  | w :: r => leBytes 4 w.toNat ++ wordsBytes r

/-- A byte of physical memory as a load sees it: a poisoned granule reads 0x7FC0_0000 (R363). -/
def State.loadB (s : State) (pa : Nat) : Byte :=
  if s.poison.contains (pa / 4) then BitVec.ofNat 8 (0x7FC00000 / 256 ^ (pa % 4)) else readB s.mem pa

def State.loadPA (s : State) (pa n : Nat) : List Byte := (List.range n).map fun i => s.loadB (pa + i)

/-- A store to physical memory; it clears the poison of every granule it writes whole (R363). -/
def State.storePA (s : State) (pa : Nat) (l : List Byte) : State :=
  { s with
    mem := writeBytes s.mem pa l
    poison := s.poison.filter fun g => !(decide (pa ≤ 4 * g) && decide (4 * g + 4 ≤ pa + l.length)) }

/-- Granules from the one at `pa` become poisoned. -/
def State.poisonAt (s : State) (pa granules : Nat) : State :=
  { s with poison := s.poison ++ ((List.range granules).map fun k => pa / 4 + k).filter fun g => !s.poison.contains g }

def State.loadNat (s : State) (pa n : Nat) : Nat := leNat (s.loadPA pa n)

/-! ## Address ranges (R348) -/

def pageBytes : Nat := 65536
def hbmTop : Nat := 2 ^ 40
def regBase : Nat := 0xF00000000000
def regTop : Nat := 0xF10000000000

/-- Whether a PA lies in the frame-cache region: frames and tags (R358). -/
def State.inFrameRegion (s : State) (pa len : Nat) : Bool :=
  let b := s.plat.fcbase * pageBytes
  let e := b + s.plat.fcframes * pageBytes + s.plat.fcframes * 16
  decide (pa < e) && decide (b < pa + len)

/-- Bytes of the region of HBM that firmware reserves for the network processor: at most those of a region that a world may be
assigned (R372, R420; log entry 5, DESIGN CHOICE: its size is not stated). -/
def npSize : Nat := min Config.npBytes (2 ^ 30)

/-- The first byte of the region of HBM that firmware reserves for the network processor: it lies outside the frame-cache
region (R372). -/
def State.npBase (s : State) : Nat :=
  if s.inFrameRegion Config.npRegion npSize then
    s.plat.fcbase * pageBytes + s.plat.fcframes * pageBytes + s.plat.fcframes * 16
  else Config.npRegion

/-- A range meets the region of the network processor. No leaf of any job maps it (R372), since no world is assigned memory
that it lies in (R420; log entry 5, DEDUCED). -/
def State.inNpRegion (s : State) (pa len : Nat) : Bool :=
  decide (pa < s.npBase + npSize) && decide (s.npBase < pa + len)

/-- Whether every 1 GiB region a page touches is the world's (R420). -/
def World.ownsPA (w : World) (pa size : Nat) : Bool :=
  (List.range ((pa % 2 ^ 30 + size + 2 ^ 30 - 1) / 2 ^ 30)).all fun k => w.regions.contains (pa / 2 ^ 30 + k)

/-! ## Page tables (R349 to R351) -/

/-- What a valid leaf supplies. -/
structure Leaf where
  remote : Bool
  /-- PA of the addressed byte's page, or page name of the 64 KiB page that holds it -/
  target : Nat
  w : Bool
  r : Bool
  so : Bool
  /-- 0 private, 1 read-shared, 2 coherent -/
  cls : Nat
  bcore : Nat
  /-- VA of the page and its size -/
  vbase : Nat
  size : Nat
  deriving DecidableEq, Repr

/-- Result of a walk. -/
inductive Walk where
  | leaf (l : Leaf)
  | absent
  | malformed
  deriving DecidableEq, Repr

/-- Page size of a leaf at a level: 64 KiB, 64 MiB, 64 GiB. -/
def levelSize (lvl : Nat) : Nat := 2 ^ (16 + 10 * lvl)

/-- The entry `e` of level `lvl` is malformed (R350), given that V = 1. -/
def State.malformed (s : State) (w : World) (lvl e : Nat) : Bool :=
  let target := fieldN e 64 56
  let leaf := bitN e 1
  let so := bitN e 4
  let remote := bitN e 7
  let cls := fieldN e 2 2
  let size := levelSize lvl
  let isReg := decide (regBase ≤ target) && decide (target < regTop)
  let inHbm := decide (target + size ≤ hbmTop)
  decide (fieldN e 120 8 ≠ 0) || decide (fieldN e 16 48 ≠ 0) ||
  if leaf then
    decide (lvl = 3) || decide (cls = 3) || (decide (fieldN e 8 8 ≠ 0) && (decide (cls ≠ 0) || so)) ||
    (if remote then
      so || decide (fieldN target 0 40 % (size / pageBytes) ≠ 0) || decide (fieldN target 40 16 ≠ w.job)
    else
      decide (target % size ≠ 0) ||
      (if isReg then !so || decide (size ≠ pageBytes)
       else !inHbm || s.inFrameRegion target size || !w.ownsPA target size))
  else
    decide (lvl = 0) || decide (fieldN e 2 14 ≠ 0) || decide (target % 16384 ≠ 0) ||
    decide (target + 16384 > hbmTop)

/-- The attributes of a leaf entry of level `lvl` for address `va` (R350, R351). -/
def leafOf (lvl e va : Nat) : Leaf :=
  let size := levelSize lvl
  let vbase := va / size * size
  let target := fieldN e 64 56
  let so := bitN e 4
  let remote := bitN e 7
  { remote, w := bitN e 6, r := bitN e 5, so
    target := if remote then fieldN target 0 40 + (va - vbase) / pageBytes else target
    cls := if so then 2 else fieldN e 2 2
    bcore := fieldN e 8 8, vbase, size }

/-- What an 8 B half of a table entry held before a write whose region is not yet closed; none where there is no such
write. -/
def State.oldHalf (s : State) (a : Nat) : Option Nat :=
  let was := fun (b : Nat) => (s.recs.find? fun r => r.write && r.base == .mem b).map (·.old.toNat)
  match was a, was (a + 4) with
  | none, none => none
  | x, y => some (x.getD (s.loadNat a 4) + 2 ^ 32 * y.getD (s.loadNat (a + 4) 4))

/-- Both halves of an entry are being changed (R354). -/
def State.entryTorn (s : State) (a : Nat) : Bool := (s.oldHalf a).isSome && (s.oldHalf (a + 8)).isSome

/-- Some entry's halves are both being changed. -/
def State.someTorn (s : State) : Bool :=
  s.recs.any fun r => match r.base with
    | .mem a => r.write && s.entryTorn (a / 16 * 16)
    | _ => false

/-- An entry as a walk reads it: two 8 B halves, low half first (R350). Of an entry whose halves are both being changed it
may have read the low one before the change, as a free value says; the other mixes are what memory holds between the two
stores (R354). -/
def State.tableEntry (s : State) (a free : Nat) : Nat :=
  (if s.entryTorn a && Config.olderRead free then (s.oldHalf a).getD 0 else s.loadNat a 8) + 2 ^ 64 * s.loadNat (a + 8) 8

/-- The walk from a table at a level down (R349): its end, the leaf's level and entry, and the tables it read through,
with their levels; `free` numbers its free value. -/
def State.walkFrom (s : State) (w : World) (va free : Nat) : List Nat → Nat → Walk × Nat × Nat × List (Nat × Nat)
  | [], _ => (.malformed, 0, 0, [])
  | lvl :: rest, tab =>
    let at_ := tab + 16 * fieldN va (16 + 10 * lvl) 10
    let e := s.tableEntry at_ free
    if !bitN e 0 then (.absent, 0, 0, [])
    else if s.malformed w lvl e then (.malformed, 0, 0, [])
    else if bitN e 1 then (.leaf (leafOf lvl e va), lvl, e, [])
    else
      let (r, l, x, ts) := s.walkFrom w va free rest (fieldN e 64 56)
      (r, l, x, (lvl - 1, fieldN e 64 56) :: ts)

/-- Entries of a core's translation buffer, and of a die's (R353). -/
def coreTlbSize : Nat := 128
def dieTlbSize : Nat := 8192

/-- The entry of a translation buffer that covers an address. -/
def tlbFind (va : Nat) (l : List (Nat × Nat × BitVec 128)) : Option (Nat × Nat × BitVec 128) :=
  l.find? fun p => decide (p.1 ≤ va) && decide (va < p.1 + levelSize p.2.1)

/-- A buffer with an entry put in, the oldest going when it is full. The spec states no order of replacement
(log entry 25, DESIGN CHOICE). -/
def tlbPut (n : Nat) (t : Tab (List (Nat × Nat × BitVec 128))) (k : Nat) (e : Nat × Nat × BitVec 128) :
    Tab (List (Nat × Nat × BitVec 128)) :=
  let l := tabGet t [] k
  if l.contains e then t else tabPut t [] k ((e :: l).take n)

/-- Where a walk begins: at the lowest table that the walk cache of the die knows for an address, or the root. -/
def World.walkStart (w : World) (die va : Nat) : List Nat × Nat :=
  let known := fun lvl => (tabGet w.walkCache [] die).find? fun p =>
    p.1 == lvl && p.2.1 == va / levelSize (lvl + 1)
  match known 0, known 1, known 2 with
  | some p, _, _ => ([0], p.2.2)
  | none, some p, _ => ([1, 0], p.2.2)
  | none, none, some p => ([2, 1, 0], p.2.2)
  | none, none, none => ([3, 2, 1, 0], w.trans.root)

/-- A world whose buffers hold what a walk for a core has found. -/
def World.walked (w : World) (core va : Nat) (e : Nat × Nat × BitVec 128) (tabs : List (Nat × Nat)) : World :=
  let die := core / 64
  let old := tabGet w.walkCache [] die
  let new := tabs.filterMap fun p =>
    let x := (p.1, va / levelSize (p.1 + 1), p.2)
    if old.contains x then none else some x
  { w with
    coreTlb := tlbPut coreTlbSize w.coreTlb core e
    dieTlb := tlbPut dieTlbSize w.dieTlb die e
    walkCache := if new.isEmpty then w.walkCache else tabPut w.walkCache [] die (new ++ old) }

/-- A buffer's lists without the elements that `p` picks. -/
def dropEach {α : Type} (p : α → Bool) (t : Tab (List α)) : Tab (List α) :=
  t.filterMap fun x => match x.2.filter fun a => !p a with
    | [] => none
    | l => some (x.1, l)

/-- Two ranges of bytes meet; one of no bytes stands for every address (R352). -/
def rangeMeets (start bytes base size : Nat) : Bool :=
  bytes == 0 || (decide (base < start + bytes) && decide (start < base + size))

/-- Every buffer and walk-cache entry of a world that covers a range is dropped (R355). -/
def World.dropRange (w : World) (start bytes : Nat) : World :=
  { w with
    coreTlb := dropEach (fun e => rangeMeets start bytes e.1 (levelSize e.2.1)) w.coreTlb
    dieTlb := dropEach (fun e => rangeMeets start bytes e.1 (levelSize e.2.1)) w.dieTlb
    walkCache := dropEach (fun e => rangeMeets start bytes (e.2.1 * levelSize (e.1 + 1)) (levelSize (e.1 + 1))) w.walkCache }

/-- A malformed entry was met: it counts in WALKERR, and WERRVA has the address (R351). -/
def World.walkFailed (w : World) (va : Nat) : World :=
  { w with trans := { w.trans with walkerr := w.trans.walkerr + 1, werrva := BitVec.ofNat 64 va } }

/-- Translation of an address for an access from a core: an entry of the core's buffer or of its die's, which may be
older than memory until an invalidation completes (R353 to R355), or a walk, whose leaf is then held. An access that no
core makes has no buffer and walks. Addresses from 2^56 on are mapped by nothing (R95). -/
def State.translate (s : State) (wn core va : Nat) : State × Option Leaf :=
  if va ≥ 2 ^ 56 then (s, none)
  else match s.world wn with
  | none => (s, none)
  | some w =>
    let die := core / 64
    let held := if core ≥ 256 then none else
      match tlbFind va (tabGet w.coreTlb [] core) with
      | some p => some p
      | none => tlbFind va (tabGet w.dieTlb [] die)
    match held with
    | some p =>
      (if tabGet w.coreTlb [] core |>.contains p then s
        else s.onWorld wn fun w => { w with coreTlb := tlbPut coreTlbSize w.coreTlb core p },
        some (leafOf p.2.1 p.2.2.toNat va))
    | none =>
      let (lvls, tab) := if core ≥ 256 then ([3, 2, 1, 0], w.trans.root) else w.walkStart die va
      let (i, s) := if s.someTorn then s.free else (s.freeCtr, s)
      match s.walkFrom w va i lvls tab with
      | (.leaf l, lvl, e, tabs) =>
        (if core ≥ 256 then s else s.onWorld wn (·.walked core va (l.vbase, lvl, BitVec.ofNat 128 e) tabs), some l)
      | (.absent, _) => (s, none)
      | (.malformed, _) => (s.onWorld wn (·.walkFailed va), none)

/-! ## Images (R304) -/

/-- Some byte of an image lies in a range of memory. -/
def Image.meets (im : Image) (pa n : Nat) : Bool := im.pages.any fun p => decide (p < pa + n) && decide (pa < p + 4096)

/-- A range that a mode may not write: the S images are read-only below S mode, the M image below M mode (R304). -/
def State.readOnly (s : State) (m : Mode) (t : Target) (n : Nat) : Bool :=
  match t with
  | .mem pa => (m != .M && s.mimage.meets pa n) || (m == .U && s.worlds.any fun w => w.simage.meets pa n)
  | _ => false

/-! ## Frames (R356, R357) -/

/-- The frame that holds a global page name in any state but Invalid. -/
def State.frameOf (s : State) (job page : Nat) : Option (Nat × Frame) :=
  s.frames.find? fun p => p.2.st != .invalid && p.2.job == job && p.2.page == page

def State.framePA (s : State) (i : Nat) : Nat := (s.plat.fcbase + i) * pageBytes

/-! ## Private windows (R113) -/

/-- The crew whose private window holds a generic address of a world, and the offset in it. -/
def State.window (s : State) (wn va : Nat) : Option (Crew × Nat) :=
  match s.crews.find? fun c => c.world == wn && decide (c.win ≤ va) && decide (va < c.win + c.priv * crewWidth) with
  | some c => some (c, va - c.win)
  | none => none

/-! ## The outcome of an access (R98) -/

/-- Kinds of generic access. -/
inductive AccKind where
  | read | write | atom | ldx | waitc | wake
  deriving DecidableEq, Repr

/-- Code of the access in a trap record (R312): ldx and waitc are checked as reads, wake as a write. -/
def AccKind.code : AccKind → Nat
  | .read | .ldx | .waitc => 0
  | .write | .wake => 1
  | .atom => 2

/-- An access that may be performed: its bytes, the place that they are, whether they are tracked (R120), whether the page
is strongly ordered, and whether the access is performed in a copy held for writing (R133): one that only reads is
performed in any copy, and so is ldx or a compare where the page grants no write (R216, R220). -/
structure Dest where
  target : Target
  place : Place
  tracked : Bool
  so : Bool
  own : Bool
  deriving DecidableEq, Repr

/-- The outcome of translation for one access. -/
inductive Resolve where
  | go (d : Dest)
  /-- PAGE_PERM with the reason of R99 -/
  | perm (reason : Nat)
  | park (job page : Nat) (write : Bool)
  /-- a wake on a page that the device does not hold for writing: performed with no wake (R222) -/
  | nothing
  deriving DecidableEq, Repr

/-- The access stores bytes. -/
def AccKind.stores : AccKind → Bool
  | .write | .atom => true
  | _ => false

def AccKind.readsOnly : AccKind → Bool
  | .read | .ldx | .waitc => true
  | _ => false

/-- The reason a leaf's permissions refuse an access, if they do (R98, R99, R216, R222). -/
def permFault (k : AccKind) (l : Leaf) : Option Nat :=
  if k.readsOnly then (if l.r then none else some 2)
  else if !l.w || l.cls = 1 then some 3
  else if k = .atom && !l.r then some 2
  else none

/-- The access needs the page held for writing (R98, R216, R220). -/
def needsOwnership (k : AccKind) (l : Leaf) : Bool :=
  match k with
  | .write | .atom => true
  | .ldx | .waitc => l.w && l.cls != 1
  | .read | .wake => false

/-- The outcome of an access of a party on `core` to a leaf's page (R98). -/
def State.viaLeaf (s : State) (wn core : Nat) (k : AccKind) (va size : Nat) (l : Leaf) : Resolve :=
  match permFault k l with
  | some r => .perm r
  | none =>
    if l.cls = 0 && !l.so && l.bcore ≠ core then .perm 5
    else if l.so && size ≠ 4 && size ≠ 8 then .perm 6
    else if !l.remote then
      let pa := l.target + (va - l.vbase)
      if regBase ≤ l.target then .go ⟨.reg pa, .mem pa, false, true, needsOwnership k l⟩
      else .go ⟨.mem pa, .mem pa, l.cls = 2 && !l.so, l.so, needsOwnership k l⟩
    else
      let job := match s.world wn with
        | some w => w.job
        | none => 0
      match s.frameOf job l.target with
      | none => if k = .wake then .nothing else .park job l.target (needsOwnership k l)
      | some (i, f) =>
        let usable := f.st = .clean || f.st = .ownedDirty || f.st = .pinned
        if usable && (f.wr || !needsOwnership k l) && (k ≠ .wake || f.wr) then
          .go ⟨.mem (s.framePA i + va % pageBytes), .name job (l.target * pageBytes + va % pageBytes), l.cls = 2, false, needsOwnership k l⟩
        else if k = .wake then .nothing
        else .park job l.target (needsOwnership k l)

/-- A translation touches the frame of the page that it leads to (R384). -/
def State.touchLeaf (s : State) (wn : Nat) (l : Leaf) : State :=
  if !l.remote then s
  else match s.frameOf ((s.world wn).elim 0 (·.job)) l.target with
    | some (i, _) => if s.touched.contains i then s else { s with touched := i :: s.touched }
    | none => s

/-- Translation and the outcome of a generic access (R98). The private window of a crew is mapped read and write,
private, bound to the crew's core (R113). -/
def State.resolve (s : State) (wn core : Nat) (k : AccKind) (va size : Nat) : State × Resolve :=
  if va ≥ 2 ^ 56 then (s, .perm 4)
  else match s.window wn va with
  | some (c, off) => (s, if c.core = core then .go ⟨.priv c.uid off, .priv c.uid off, false, false, !k.readsOnly⟩ else .perm 5)
  | none =>
    match s.translate wn core va with
    | (s, none) => (s, .perm 1)
    | (s, some l) => (s.touchLeaf wn l, s.viaLeaf wn core k va size l)

/-- The place that a generic address of a world leads to now. -/
def State.placeOf (s : State) (wn core va : Nat) : Place :=
  match s.window wn va with
  | some (c, off) => .priv c.uid off
  | none =>
    match (s.translate wn core va).2 with
    | none => .gen wn va
    | some l =>
      if l.remote then .name ((s.world wn).elim 0 (·.job)) (l.target * pageBytes + va % pageBytes)
      else .mem (l.target + (va - l.vbase))

/-- The PAGE_PERM record of an access (R312). -/
def permTrap (reason addr space acc size : Nat) : Trap :=
  mkTrap .pagePerm reason [addr % 2 ^ 32, addr / 2 ^ 32, space * 2 ^ 30 + acc * 2 ^ 8 + size]

/-- The MISALIGN record (R312). -/
def alignTrap (addr space acc size : Nat) : Trap :=
  mkTrap .misalign 0 [addr % 2 ^ 32, addr / 2 ^ 32, space * 2 ^ 30 + acc * 2 ^ 8 + size]

/-! ## Bytes at a destination -/

/-- A byte of a crew's private window, a poisoned granule reading 0x7FC0_0000 (R113, R363). -/
def Crew.privB (c : Crew) (off : Nat) : Byte :=
  if c.privPoison.contains (off / 4) then BitVec.ofNat 8 (0x7FC00000 / 256 ^ (off % 4)) else readB c.privMem off

def Crew.readPriv (c : Crew) (off n : Nat) : List Byte := (List.range n).map fun i => c.privB (off + i)

/-- Poisoned granules that a write of `n` bytes at `a` leaves: it clears those that it writes whole (R363). -/
def stillPoisoned (ps : List Nat) (a n : Nat) : List Nat := ps.filter fun g => !(decide (a ≤ 4 * g) && decide (4 * g + 4 ≤ a + n))

/-- A write of a crew's private window. -/
def Crew.writePriv (c : Crew) (off : Nat) (l : List Byte) : Crew :=
  { c with
    privMem := writeBytes c.privMem off l
    privPoison := stillPoisoned c.privPoison off l.length }

/-- A write of a block's scratchpad at swizzled addresses. -/
def BUnit.writeKeys (u : BUnit) (a : Nat) (l : List Byte) : BUnit :=
  { u with
    spad := writeBytes u.spad a l
    spadPoison := stillPoisoned u.spadPoison a l.length }

/-- The bytes of a destination that is no register. -/
def State.loadT (s : State) (t : Target) (n : Nat) : List Byte :=
  match t with
  | .mem pa => s.loadPA pa n
  | .priv uid off =>
    match s.crew uid with
    | some c => c.readPriv off n
    | none => []
  | .spad uid a =>
    match s.unit uid with
    | some u => readBytes u.spad a n
    | none => []
  | .reg _ => []

def State.storeT (s : State) (t : Target) (l : List Byte) : State :=
  match t with
  | .mem pa => s.storePA pa l
  | .priv uid off => s.onCrew uid fun c => c.writePriv off l
  | .spad uid a => s.onUnit uid fun u => u.writeKeys a l
  | .reg _ => s

/-- A granule of a target's range is poisoned. -/
def State.poisonedT (s : State) (t : Target) (len : Nat) : Bool :=
  match t with
  | .mem pa => s.poison.any fun g => decide (pa / 4 ≤ g) && decide (g ≤ (pa + len - 1) / 4)
  | .priv uid off => (s.crew uid).any fun c => c.privPoison.any fun g => decide (off / 4 ≤ g) && decide (g ≤ (off + len - 1) / 4)
  | _ => false

/-- The target `n` bytes further on. -/
def Target.plus (t : Target) (n : Nat) : Target :=
  match t with
  | .mem a => .mem (a + n)
  | .priv c a => .priv c (a + n)
  | .spad u a => .spad u (a + n)
  | .reg a => .reg (a + n)

/-- The target of the 4 B granule that a target lies in. -/
def Target.granule (t : Target) : Target :=
  match t with
  | .mem a => .mem (a / 4 * 4)
  | .priv c a => .priv c (a / 4 * 4)
  | .spad u a => .spad u (a / 4 * 4)
  | .reg a => .reg (a / 4 * 4)

/-! ## Scratchpad addresses (R106 to R108) -/

/-- The swizzle of an offset under mode `m` (R108): [8:4] xored with [12 + m : 8 + m]. -/
def swizzle (m off : Nat) : Nat :=
  if m = 0 then off else off ^^^ (fieldN off (8 + m) 5 * 16)

/-- RANGE check of a scratchpad access in a block of `cores` cores with allocation `alloc` (R107). -/
def spadBad (cores alloc a size : Nat) : Bool :=
  decide (a ≥ 2 ^ 22) || decide (a / 2 ^ 19 ≥ cores) || decide (a % 2 ^ 19 + size > alloc)

/-- The key of a scratchpad byte: the address with its offset swizzled. -/
def spadKey (m a : Nat) : Nat := a / 2 ^ 19 * 2 ^ 19 + swizzle m (a % 2 ^ 19)

/-! ## Places -/

def Place.addr : Place → Nat
  | .mem a | .name _ a | .priv _ a | .spad _ a | .gen _ a => a

/-- The same place at another address. -/
def Place.move (p : Place) (a : Nat) : Place :=
  match p with
  | .mem _ => .mem a
  | .name j _ => .name j a
  | .priv c _ => .priv c a
  | .spad u _ => .spad u a
  | .gen w _ => .gen w a

/-- The place `n` bytes further on. -/
def Place.plus (p : Place) (n : Nat) : Place := p.move (p.addr + n)

def Place.sameSpace : Place → Place → Bool
  | .mem _, .mem _ => true
  | .name j _, .name j' _ => j == j'
  | .priv c _, .priv c' _ => c == c'
  | .spad u _, .spad u' _ => u == u'
  | .gen w _, .gen w' _ => w == w'
  | _, _ => false

/-- Two ranges share a byte. -/
def Place.meets (p : Place) (n : Nat) (q : Place) (m : Nat) : Bool :=
  p.sameSpace q && decide (p.addr < q.addr + m) && decide (q.addr < p.addr + n)

/-- Bytes that share a monitor: a 16 B scratchpad chunk, else a 128 B line (R142). -/
def Place.unit : Place → Nat
  | .spad .. => 16
  | _ => 128

/-! ## Monitors (R142, R221) -/

/-- A place lies in the 128 B lines, or the 16 B scratchpad chunks, of the `len` bytes from `p`. -/
def inLines (p : Place) (len : Nat) (q : Place) : Bool :=
  p.sameSpace q && decide (p.addr / p.unit ≤ q.addr / p.unit) && decide (q.addr / p.unit ≤ (p.addr + len - 1) / p.unit)

/-- Wakes a thread blocked on its monitor: it continues after its waitc with the monitor disarmed. -/
def Thread.wake (t : Thread) : Thread :=
  match t.st with
  | .blocked .monitor next => { (t.resumeAt next) with monitor := none }
  | _ => { t with monitor := none }

/-- The thread's monitor is armed on a line that a range touches. -/
def Thread.watches (t : Thread) (p : Place) (len : Nat) : Bool :=
  match t.monitor with
  | some q => inLines p len q
  | none => false

/-- Wakes every monitor armed on a line of a range (R142, R221, R222). -/
def State.wakeRange (s : State) (p : Place) (len : Nat) : State :=
  { s with
    crews := mapIf (fun c => c.threads.any (·.watches p len))
      (fun c => (c.onThreads (·.watches p len) Thread.wake).regroup) s.crews }

/-! ## Conflicts (R120 to R128) -/

/-- An access as conflict detection sees it. -/
structure Access where
  party : Party
  region : Nat
  write : Bool
  sync : Bool
  pc : Word
  deriving DecidableEq, Repr

/-- The granules of a range. -/
def granules (base len : Nat) : List Nat :=
  if len = 0 then [] else (List.range ((base + len - 1) / 4 - base / 4 + 1)).map fun k => (base / 4 + k) * 4

/-- Two ranges share a granule (R123). -/
def Place.near (p : Place) (n : Nat) (q : Place) (m : Nat) : Bool :=
  p.sameSpace q && decide (p.addr / 4 * 4 < q.addr + m) && decide (q.addr / 4 * 4 < p.addr + n)

/-- A claim covers a granule (R138). -/
def Claim.covers (c : Claim) (g : Place) : Bool :=
  c.base.sameSpace g && decide (c.len ≠ 0) && decide (c.base.addr / 4 ≤ g.addr / 4) &&
    decide (g.addr / 4 ≤ (c.base.addr + c.len - 1) / 4)

/-- KIND of R126: 1 write after write, 2 write after read, 3 read after write. -/
def kindOf (write otherWrote : Bool) : Nat := if write then (if otherWrote then 1 else 2) else 3

/-- A recorded access conflicts with this one (R120, R121). -/
def Rec.conflicts (r : Rec) (a : Access) (g : Place) : Bool :=
  r.base == g && r.party != a.party && (r.write || a.write) && !(r.sync && a.sync)

/-- A claim conflicts with an access (R138). -/
def Claim.conflicts (c : Claim) (a : Access) (g : Place) : Bool :=
  c.covers g && match c.acc with
    | .read => a.write
    | .write => true
    | .atomic => !a.sync

/-- The identity of a crew that is out, by its number: launch handle, `%block`, `%crew` (R126, R340). -/
def State.savedCrew (s : State) (uid : Nat) : Option (Word × Nat × Nat) :=
  s.launches.findSome? fun l => l.saved.findSome? fun v =>
    (v.crews.find? (·.uid == uid)).map fun c => (l.handle, v.block, c.idx)

/-- The words OTHER of a record (R126): type and three words. For an engine command they are core, queue and sequence
number. The spec gives a matrix command no queue and no sequence number: it is named here by its first quarter's core,
queue 0 and its number in the matrix orders (log entry 24, DESIGN CHOICE). -/
def State.otherWords (s : State) (p : Party) : Nat × List Nat :=
  match p with
  | .crew uid =>
    match s.crew uid with
    | some c =>
      match c.drip with
      | some d =>
        let seq := match s.entry d.entry with
          | some e => e.seq.toNat
          | none => 0
        (2, [c.core, seq, d.burst])
      | none =>
        let blk := match s.unit c.unit with
          | some u => u.block
          | none => 0
        (0, [c.launch.toNat, blk, c.idx])
    | none =>
      match s.savedCrew uid with
      | some (h, block, idx) => (0, [h.toNat, block, idx])
      | none => (0, [0, 0, 0])
  | .engine id =>
    match s.entry id with
    | some e => (1, [e.site, e.qid, e.seq.toNat])
    | none => (1, [0, 0, 0])
  | .matrix id =>
    match s.mcmds.find? (·.id == id) with
    | some m => (1, [m.q0 / 4, 0, m.id])
    | none => (1, [0, 0, 0])
  -- accesses of RV64 cores are not recorded (R143)
  | .rv _ => (0, [0, 0, 0])

/-- The MMX record (R126, R312) of a granule: `spad`, and the address that the access gives it. -/
def State.mmxTrap (s : State) (spad : Bool) (addr kind acc size : Nat) (other : Party) (otherPc : Word) : Trap :=
  let (ty, ws) := s.otherWords other
  mkTrap .mmx kind ([addr % 2 ^ 32, addr / 2 ^ 32, spad.toNat * 2 ^ 30 + ty * 2 ^ 28 + acc * 2 ^ 8 + size] ++ ws ++
    [otherPc.toNat])

/-- All claims in flight with their parties and issuing PCs. -/
def State.claims (s : State) : List (Party × Word × Claim) :=
  (s.entries.flatMap fun e => e.claims.map fun c => (Party.engine e.id, e.pc, c)) ++
  (s.mcmds.flatMap fun m => m.claims.map fun c => (Party.matrix m.id, m.pc, c))

/-- The first conflict of an access on the granules of a range: record or claim (R120, R125, R138). `ea` is the address
by which the access names the place `base`. -/
def State.conflict (s : State) (a : Access) (acc size : Nat) (tracked : Bool) (base : Place) (ea len : Nat) : Option Trap :=
  (granules base.addr len).findSome? fun ga =>
    let g := base.move ga
    let spad := base.unit == 16
    let addr := ea / 4 * 4 + (ga - base.addr / 4 * 4)
    let byRec := if tracked then s.recs.find? (·.conflicts a g) else none
    match byRec with
    | some r => some (s.mmxTrap spad addr (kindOf a.write r.write) acc size r.party r.pc)
    | none =>
      match s.claims.find? fun p => p.1 != a.party && p.2.2.conflicts a g with
      | some (p, pc, c) => some (s.mmxTrap spad addr (kindOf a.write (c.acc != .read)) acc size p pc)
      | none => none

/-- A party's region already holds the record that an access to a granule needs. -/
def Rec.holds (r : Rec) (a : Access) (g : Place) : Bool :=
  r.party == a.party && r.region == a.region && r.base == g && r.write == a.write && r.sync == a.sync

/-- Records of an access, one a granule, without repeating one already held. -/
def State.record (s : State) (a : Access) (t : Target) (base : Place) (len : Nat) : State :=
  { s with recs := (granules base.addr len).foldl (fun rs ga =>
      if rs.any (·.holds a (base.move ga)) then rs
      else rs ++ [(⟨a.party, a.region, base.move ga, a.write, a.sync, a.pc,
        wordAt (s.loadT (t.granule.plus (ga - base.addr / 4 * 4)) 4) 0⟩ : Rec)]) s.recs }

/-- The core that a record's crew lies on. -/
def State.partyCore (s : State) (p : Party) : Option Nat :=
  match p with
  | .crew uid => (s.crew uid).map (·.core)
  | _ => none

/-- The L2 slice of a place (R124, R128). -/
def Place.slice (p : Place) : Nat := Config.slice (p.addr / 128)

/-- The granules, each once for a party and region, that the records picked by `p` hold. -/
def State.recorded (s : State) (p : Rec → Bool) : List (Party × Nat × Place) :=
  s.recs.foldl (fun l r => if p r && !l.contains (r.party, r.region, r.base) then l ++ [(r.party, r.region, r.base)] else l) []

/-- The granules that an access needs a record of and its region has none: one that it has read, or written, already is
recorded as such, synchronising or not (R128). -/
def State.unrecorded (s : State) (a : Access) (base : Place) (len : Nat) : List Place :=
  ((granules base.addr len).map base.move).filter fun g =>
    !(s.recs.any fun r => r.party == a.party && r.region == a.region && r.base == g && r.write == a.write)

/-- Whether the records that an access still needs have room (R128): 2,048 read granules a region, 8,192 a core, 512
written granules a slice. -/
def State.room (s : State) (a : Access) (core : Nat) (base : Place) (len : Nat) : Bool :=
  let new := s.unrecorded a base len
  if s.recs.length + new.length ≤ 512 then true
  else if a.write then
    new.all fun g =>
      let held := (s.recorded fun r => r.write && r.base.slice == g.slice).map (·.2.2)
      let more := new.filter fun x => x.slice == g.slice && !held.contains x
      decide (held.eraseDups.length + more.length ≤ 512)
  else
    decide ((s.recorded fun r => !r.write && r.party == a.party && r.region == a.region).length + new.length ≤ 2048) &&
      decide ((s.recorded fun r => !r.write && s.partyCore r.party == some core).length + new.length ≤ 8192)

/-- Regions of a crew that stay live (R119): the current one, those of its parked sub-groups and replays, and those with an
access that is begun and not yet performed. -/
def State.liveRegions (s : State) (c : Crew) : List Nat :=
  c.region :: ((s.groups.filter (·.crew == c.uid)).map (·.region)) ++
    (s.stores.filterMap fun q => if q.crew == c.uid then q.region else none) ++
    (s.landings.filterMap fun l => if l.crew == c.uid then l.late.bind (·.region) else none)

end Sys2Proof.Machine
end

