-- ==== Sys2Proof/Machine/Image.lean ====
section
/-! DEFINITION. The code image of a thread and the word at an offset of it (R147, R304), and the words that a throttled crew
does not issue (R347). -/

namespace Sys2Proof.Machine

/-- The code image of a thread: its kernel's or handler's in U mode, the world's in S mode, firmware's in M mode
(R147, R304). -/
def State.imageOf (s : State) (c : Crew) (t : Thread) : Image :=
  match t.mode with
  | .M => s.mimage
  | .S => match s.world c.world with
    | some w => w.simage
    | none => ⟨0, []⟩
  | .U => match s.launch c.world c.launch with
    | some l => match c.drip with
      | none => l.desc.image
      | some d => match l.desc.handlers[d.hidx]? with
        | some h => h.image
        | none => ⟨0, []⟩
    | none => ⟨0, []⟩

/-- The instruction word at an offset of an image; `none` where the fetch is not legal (R147). -/
def State.fetchWord (s : State) (im : Image) (pc : Nat) : Option Word :=
  if pc % 4 ≠ 0 || pc + 4 > im.len then none
  else (im.pages[pc / 4096]?).map fun pa => BitVec.ofNat 32 (leNat (readBytes s.mem (pa + pc % 4096) 4))

/-- Words that the throttle holds (R347): majors 0x20 to 0x22, 0x29 to 0x2B, 0x2E, and waitc and wake. -/
def throttledWord (w : Word) : Bool :=
  let m := (w.extractLsb' 25 6).toNat
  let fn := (w.extractLsb' 21 4).toNat
  (decide (0x20 ≤ m) && decide (m ≤ 0x22)) || m == 0x29 || m == 0x2A || m == 0x2B || m == 0x2E ||
    (m == 0x2F && (fn == 1 || fn == 2))

end Sys2Proof.Machine
end

