-- ==== Sys2Proof/WellFormed.lean ====
section
/-! DEFINITION. Which terms of `Instr` are instructions: the encoded ones whose fields hold no reserved value
(R145, R150, R158 to R160), the others whose operands lie in the ranges of their objects. -/

namespace Sys2Proof

/-- COND or a guard is not p7 or q7 with N = 1 (R145). -/
def condOk (n : Bool) (c : BitVec 3) : Bool := !(n && c == 7#3)

/-- Scopes 0 to 4 (R159). -/
def scopeOk (c : BitVec 3) : Bool := decide (c.toNat ≤ 4)

/-- Spaces 0 and 1 (R159). -/
def spaceOk (p : BitVec 2) : Bool := decide (p.toNat ≤ 1)

/-- An order field: scope and space (R159). -/
def orderOk (o : BitVec 7) : Bool := scopeOk (o.extractLsb' 4 3) && spaceOk (o.extractLsb' 0 2)

/-- Codes of 32-bit formats (R158, R182). -/
def wideFmt (c : BitVec 4) : Bool := c == 0#4 || c == 7#4 || c == 8#4

/-- A cvt pair: distinct codes, neither 15, and no packed form of two 32-bit formats (R158, R183). -/
def cvtOk (src dst : BitVec 4) (pk : Bool) : Bool :=
  !(src == dst) && !(src == 15#4) && !(dst == 15#4) && !(pk && wideFmt src && wideFmt dst)

/-- A die of the device (R10). -/
def dieOk (d : Nat) : Bool := decide (d < 4)

/-- A world number (R419). -/
def worldOk (w : Nat) : Bool := decide (1 ≤ w) && decide (w ≤ 15)

/-- One of the six agents of a line (R364). -/
def agentOk (a : Nat) : Bool := decide (a < 6)

/-- A quarter of the device: 4 × core + quarter (R10, R14). -/
def quarterOk (q : Nat) : Bool := decide (q < 1024)

/-- Terms that are instructions. -/
def Instr.wellFormed (i : Instr) : Bool :=
  match i with
  | .bra _ n c _ | .ubra _ n c _ | .call _ n c _ | .guardPrefix n c => condOk n c
  | .cvt _ f _ _ t k _ => cvtOk f t k
  | .atomAddSi32 _ _ _ o | .atomAddF32 _ _ _ o | .atomMinSi32 _ _ _ o | .atomMaxSi32 _ _ _ o
  | .atomMinUi32 _ _ _ o | .atomMaxUi32 _ _ _ o | .atomAnd _ _ _ o | .atomOr _ _ _ o | .atomXor _ _ _ o
  | .atomExchB32 _ _ _ o | .atomCasB32 _ _ _ o | .atomAddUi64 _ _ _ o | .atomExchB64 _ _ _ o
  | .atomCasB64 _ _ _ o | .atomLdx _ _ _ o | .atomStx _ _ _ o
  | .mredAddSi32 _ _ _ o | .mredAddF32 _ _ _ o | .mredMinSi32 _ _ _ o | .mredMaxSi32 _ _ _ o
  | .mredMinUi32 _ _ _ o | .mredMaxUi32 _ _ _ o | .mredAnd _ _ _ o | .mredOr _ _ _ o | .mredXor _ _ _ o => orderOk o
  | .fence _ c _ => scopeOk c
  | .waitc _ _ _ c p | .wake _ _ c p => scopeOk c && spaceOk p
  | .homeRds _ g | .homeRdx _ g | .homeUpg _ g | .homeWb _ g | .homeEve _ g | .homeAckReceive _ g
  | .agentFwds _ g | .agentFwdx _ g | .agentInv _ g | .agentDataReceive _ g | .agentGrantReceive _ g
  | .agentWbackReceive _ g | .agentWbstaleReceive _ g | .agentLineDrop _ g => agentOk g
  | .binAged q _ | .binRelease q | .mldStPerform q | .mswapPerform q | .mmaPerform q | .mstPerform q
  | .maccClrPerform q | .maccRdLand q | .mstatLand q | .arrayUncorrectableError q _ _ _ _
  | .sampleTick q _ => quarterOk q
  | .dripBirth c q => decide (c < 256) && decide (q < 4)
  | .dispatchUnit d | .dieFlitReceive d _ _ _ _ => dieOk d
  | .worldLatch d w => dieOk d && decide (w ≤ 15)
  | .worldCreate w _ _ _ _ _ _ | .worldTeardown w => worldOk w
  | .kick _ q _ | .queueEntryTake _ q => decide (q < 64)
  | .prefetchTick _ t => decide (t < 16)
  | .ringDoorbell _ r _ | .rcmdEnable _ r | .rcmdResume _ r | .rcmdDisable _ r | .ringRekey _ r => decide (r < 8)
  | .portDown p | .portUp p => decide (p < 8)
  | .powerStateChange p => decide (p < 4)
  | _ => true

end Sys2Proof
end

