-- ==== Sys2Proof/Decode.lean ====
section
/-! DEFINITION. The decoder, total on any word and rejecting by the reason of R148 (checks 1 and 2), and after it the
encoder, both from the formats and the map of R144 to R160. -/

namespace Sys2Proof

noncomputable section

/-- An accepted instruction, if its unused fields are zero and its reserved values absent (R146, check 2). -/
def accept (ok : Bool) (i : Instr) : Except IllReason Instr := if ok then .ok i else .error .reserved

/-- Major 0x01 (R156). -/
def decode01 (s : Bool) (fn : BitVec 4) (d a b : BitVec 7) : Except IllReason Instr :=
  match fn.toNat with
  | 0 => .ok (.add s d a b)
  | 1 => .ok (.sub s d a b)
  | 2 => .ok (.mul s d a b)
  | 3 => .ok (.mulhiSi32 s d a b)
  | 4 => .ok (.mulhiUi32 s d a b)
  | 5 => .ok (.and s d a b)
  | 6 => .ok (.or s d a b)
  | 7 => .ok (.xor s d a b)
  | 8 => .ok (.shl s d a b)
  | 9 => .ok (.shr s d a b)
  | 10 => .ok (.sar s d a b)
  | 11 => .ok (.minSi32 s d a b)
  | 12 => .ok (.maxSi32 s d a b)
  | 13 => .ok (.minUi32 s d a b)
  | 14 => .ok (.maxUi32 s d a b)
  | 15 => .ok (.addsSi32 s d a b)
  | _ => .error .unassigned

/-- Major 0x02 (R156). -/
def decode02 (s : Bool) (fn : BitVec 4) (d a b : BitVec 7) : Except IllReason Instr :=
  match fn.toNat with
  | 0 => .ok (.addPaired s d a b)
  | 1 => .ok (.subPaired s d a b)
  | 2 => .ok (.mulPaired s d a b)
  | 3 => .ok (.mulhiSi32Paired s d a b)
  | 4 => .ok (.mulhiUi32Paired s d a b)
  | 5 => .ok (.andPaired s d a b)
  | 6 => .ok (.orPaired s d a b)
  | 7 => .ok (.xorPaired s d a b)
  | 8 => .ok (.shlPaired s d a b)
  | 9 => .ok (.shrPaired s d a b)
  | 10 => .ok (.sarPaired s d a b)
  | 11 => .ok (.minSi32Paired s d a b)
  | 12 => .ok (.maxSi32Paired s d a b)
  | 13 => .ok (.minUi32Paired s d a b)
  | 14 => .ok (.maxUi32Paired s d a b)
  | 15 => .ok (.addsSi32Paired s d a b)
  | _ => .error .unassigned

/-- Major 0x03 (R156). -/
def decode03 (s : Bool) (d a : BitVec 7) (i : BitVec 11) : Except IllReason Instr :=
  .ok (.addi s d a i)

/-- Major 0x04 (R156). -/
def decode04 (s : Bool) (d : BitVec 7) (i : BitVec 18) : Except IllReason Instr :=
  .ok (.movl s d i)

/-- Major 0x05 (R156). -/
def decode05 (s : Bool) (d : BitVec 7) (i : BitVec 18) : Except IllReason Instr :=
  accept (i.extractLsb' 14 4 == 0#4) (.movh s d (i.extractLsb' 0 14))

/-- Major 0x06 (R156). -/
def decode06 (s : Bool) (fn : BitVec 4) (d a b : BitVec 7) : Except IllReason Instr :=
  match fn.toNat with
  | 0 => accept (d.extractLsb' 3 4 == 0#4) (.cmpEq s (d.extractLsb' 0 3) a b)
  | 1 => accept (d.extractLsb' 3 4 == 0#4) (.cmpNe s (d.extractLsb' 0 3) a b)
  | 2 => accept (d.extractLsb' 3 4 == 0#4) (.cmpLtSi32 s (d.extractLsb' 0 3) a b)
  | 3 => accept (d.extractLsb' 3 4 == 0#4) (.cmpLeSi32 s (d.extractLsb' 0 3) a b)
  | 4 => accept (d.extractLsb' 3 4 == 0#4) (.cmpGtSi32 s (d.extractLsb' 0 3) a b)
  | 5 => accept (d.extractLsb' 3 4 == 0#4) (.cmpGeSi32 s (d.extractLsb' 0 3) a b)
  | 6 => accept (d.extractLsb' 3 4 == 0#4) (.cmpLtUi32 s (d.extractLsb' 0 3) a b)
  | 7 => accept (d.extractLsb' 3 4 == 0#4) (.cmpLeUi32 s (d.extractLsb' 0 3) a b)
  | 8 => accept (d.extractLsb' 3 4 == 0#4) (.cmpGtUi32 s (d.extractLsb' 0 3) a b)
  | 9 => accept (d.extractLsb' 3 4 == 0#4) (.cmpGeUi32 s (d.extractLsb' 0 3) a b)
  | _ => .error .unassigned

/-- Major 0x07 (R156). -/
def decode07 (s : Bool) (fn : BitVec 4) (d a b : BitVec 7) : Except IllReason Instr :=
  match fn.toNat with
  | 0 => accept (b == 0#7) (.mov s d a)
  | 1 => accept (b == 0#7) (.not s d a)
  | 2 => accept (b == 0#7) (.neg s d a)
  | 3 => accept (b == 0#7) (.absSi32 s d a)
  | 4 => accept (b == 0#7) (.popc s d a)
  | 5 => accept (b == 0#7) (.clz s d a)
  | 6 => accept (b == 0#7) (.brev s d a)
  | 7 => .ok (.mad s d a b)
  | 8 => accept (b == 0#7) (.sxb s d a)
  | 9 => accept (b == 0#7) (.sxh s d a)
  | 10 => .ok (.adda s d a b)
  | _ => .error .unassigned

/-- Major 0x08 (R156). -/
def decode08 (s : Bool) (d a : BitVec 7) (i : BitVec 11) : Except IllReason Instr :=
  .ok (.addai s d a i)

/-- Major 0x09 (R156). -/
def decode09 (s : Bool) (fn : BitVec 4) (d a b : BitVec 7) : Except IllReason Instr :=
  match fn.toNat with
  | 0 => .ok (.addUniform s d a b)
  | 1 => .ok (.subUniform s d a b)
  | 2 => .ok (.mulUniform s d a b)
  | 3 => .ok (.mulhiSi32Uniform s d a b)
  | 4 => .ok (.mulhiUi32Uniform s d a b)
  | 5 => .ok (.andUniform s d a b)
  | 6 => .ok (.orUniform s d a b)
  | 7 => .ok (.xorUniform s d a b)
  | 8 => .ok (.shlUniform s d a b)
  | 9 => .ok (.shrUniform s d a b)
  | 10 => .ok (.sarUniform s d a b)
  | 11 => .ok (.minSi32Uniform s d a b)
  | 12 => .ok (.maxSi32Uniform s d a b)
  | 13 => .ok (.minUi32Uniform s d a b)
  | 14 => .ok (.maxUi32Uniform s d a b)
  | 15 => .ok (.addsSi32Uniform s d a b)
  | _ => .error .unassigned

/-- Major 0x0A (R156). -/
def decode0A (s : Bool) (d a : BitVec 7) (i : BitVec 11) : Except IllReason Instr :=
  .ok (.uaddi s d a i)

/-- Major 0x0B (R156). -/
def decode0B (s : Bool) (d : BitVec 7) (i : BitVec 18) : Except IllReason Instr :=
  .ok (.umovl s d i)

/-- Major 0x0C (R156). -/
def decode0C (s : Bool) (d : BitVec 7) (i : BitVec 18) : Except IllReason Instr :=
  accept (i.extractLsb' 14 4 == 0#4) (.umovh s d (i.extractLsb' 0 14))

/-- Major 0x0D (R156). -/
def decode0D (s : Bool) (fn : BitVec 4) (d a b : BitVec 7) : Except IllReason Instr :=
  match fn.toNat with
  | 0 => accept (d.extractLsb' 3 4 == 0#4) (.ucmpEq s (d.extractLsb' 0 3) a b)
  | 1 => accept (d.extractLsb' 3 4 == 0#4) (.ucmpNe s (d.extractLsb' 0 3) a b)
  | 2 => accept (d.extractLsb' 3 4 == 0#4) (.ucmpLtSi32 s (d.extractLsb' 0 3) a b)
  | 3 => accept (d.extractLsb' 3 4 == 0#4) (.ucmpLeSi32 s (d.extractLsb' 0 3) a b)
  | 4 => accept (d.extractLsb' 3 4 == 0#4) (.ucmpGtSi32 s (d.extractLsb' 0 3) a b)
  | 5 => accept (d.extractLsb' 3 4 == 0#4) (.ucmpGeSi32 s (d.extractLsb' 0 3) a b)
  | 6 => accept (d.extractLsb' 3 4 == 0#4) (.ucmpLtUi32 s (d.extractLsb' 0 3) a b)
  | 7 => accept (d.extractLsb' 3 4 == 0#4) (.ucmpLeUi32 s (d.extractLsb' 0 3) a b)
  | 8 => accept (d.extractLsb' 3 4 == 0#4) (.ucmpGtUi32 s (d.extractLsb' 0 3) a b)
  | 9 => accept (d.extractLsb' 3 4 == 0#4) (.ucmpGeUi32 s (d.extractLsb' 0 3) a b)
  | _ => .error .unassigned

/-- Major 0x10 (R156). -/
def decode10 (s : Bool) (fn : BitVec 4) (d a b : BitVec 7) : Except IllReason Instr :=
  match fn.toNat with
  | 0 => .ok (.fadd s d a b)
  | 1 => .ok (.fsub s d a b)
  | 2 => .ok (.fmul s d a b)
  | 3 => .ok (.ffma s d a b)
  | 4 => .ok (.fmin s d a b)
  | 5 => .ok (.fmax s d a b)
  | 6 => .ok (.fdiv s d a b)
  | 7 => accept (b == 0#7) (.fsqrt s d a)
  | 8 => accept (b == 0#7) (.fabs s d a)
  | 9 => accept (b == 0#7) (.fneg s d a)
  | _ => .error .unassigned

/-- Major 0x11 (R156). -/
def decode11 (s : Bool) (fn : BitVec 4) (d a b : BitVec 7) : Except IllReason Instr :=
  match fn.toNat with
  | 0 => .ok (.faddPaired s d a b)
  | 1 => .ok (.fsubPaired s d a b)
  | 2 => .ok (.fmulPaired s d a b)
  | 3 => .ok (.ffmaPaired s d a b)
  | 4 => .ok (.fminPaired s d a b)
  | 5 => .ok (.fmaxPaired s d a b)
  | 6 => .ok (.fdivPaired s d a b)
  | _ => .error .unassigned

/-- Major 0x12 (R156). -/
def decode12 (s : Bool) (fn : BitVec 4) (d a b : BitVec 7) : Except IllReason Instr :=
  match fn.toNat with
  | 0 => accept (d.extractLsb' 3 4 == 0#4) (.fcmpEq s (d.extractLsb' 0 3) a b)
  | 1 => accept (d.extractLsb' 3 4 == 0#4) (.fcmpNe s (d.extractLsb' 0 3) a b)
  | 2 => accept (d.extractLsb' 3 4 == 0#4) (.fcmpLt s (d.extractLsb' 0 3) a b)
  | 3 => accept (d.extractLsb' 3 4 == 0#4) (.fcmpLe s (d.extractLsb' 0 3) a b)
  | 4 => accept (d.extractLsb' 3 4 == 0#4) (.fcmpGt s (d.extractLsb' 0 3) a b)
  | 5 => accept (d.extractLsb' 3 4 == 0#4) (.fcmpGe s (d.extractLsb' 0 3) a b)
  | _ => .error .unassigned

/-- Major 0x13 (R156). -/
def decode13 (s : Bool) (fn : BitVec 4) (d a b : BitVec 7) : Except IllReason Instr :=
  match fn.toNat with
  | 0 => .ok (.haddF16 s d a b)
  | 1 => .ok (.hsubF16 s d a b)
  | 2 => .ok (.hmulF16 s d a b)
  | 3 => .ok (.hfmaF16 s d a b)
  | 4 => .ok (.hminF16 s d a b)
  | 5 => .ok (.hmaxF16 s d a b)
  | 8 => .ok (.haddBf16 s d a b)
  | 9 => .ok (.hsubBf16 s d a b)
  | 10 => .ok (.hmulBf16 s d a b)
  | 11 => .ok (.hfmaBf16 s d a b)
  | 12 => .ok (.hminBf16 s d a b)
  | 13 => .ok (.hmaxBf16 s d a b)
  | _ => .error .unassigned

/-- Major 0x14 (R156). -/
def decode14 (s : Bool) (fn : BitVec 4) (d a b : BitVec 7) : Except IllReason Instr :=
  if cvtOk fn (b.extractLsb' 3 4) (b.getLsbD 2) then .ok (.cvt s fn d a (b.extractLsb' 3 4) (b.getLsbD 2) (b.extractLsb' 0 2)) else .error .unassigned

/-- Major 0x15 (R156). -/
def decode15 (s : Bool) (fn : BitVec 4) (d a b : BitVec 7) : Except IllReason Instr :=
  match fn.toNat with
  | 0 => accept (b == 0#7) (.recip s d a)
  | 1 => accept (b == 0#7) (.rsqrt s d a)
  | 2 => accept (b == 0#7) (.exp2 s d a)
  | 3 => accept (b == 0#7) (.log2 s d a)
  | 4 => accept (b == 0#7) (.sin s d a)
  | 5 => accept (b == 0#7) (.cos s d a)
  | 6 => accept (b == 0#7) (.tanh s d a)
  | 7 => accept (b == 0#7) (.sigm s d a)
  | _ => .error .unassigned

/-- Major 0x16 (R156). -/
def decode16 (s : Bool) (fn : BitVec 4) (d a b : BitVec 7) : Except IllReason Instr :=
  match fn.toNat with
  | 0 => .ok (.dp4Si8 s d a b)
  | 1 => .ok (.dp4Si8ui8 s d a b)
  | 2 => .ok (.dp8Si4 s d a b)
  | 3 => .ok (.dp8Si4ui4 s d a b)
  | 4 => .ok (.dp4F8a s d a b)
  | 5 => .ok (.dp4F8b s d a b)
  | 6 => .ok (.dp8F4 s d a b)
  | 7 => .ok (.dp2Bf16 s d a b)
  | 8 => .ok (.dp2F16 s d a b)
  | _ => .error .unassigned

/-- Major 0x17 (R156). -/
def decode17 (s : Bool) (fn : BitVec 4) (d a b : BitVec 7) : Except IllReason Instr :=
  match fn.toNat with
  | 0 => .ok (.dp4F8aSc s (fn.extractLsb' 0 2) d a b)
  | 1 => .ok (.dp4F8aSc s (fn.extractLsb' 0 2) d a b)
  | 2 => .ok (.dp4F8aSc s (fn.extractLsb' 0 2) d a b)
  | 3 => .ok (.dp4F8aSc s (fn.extractLsb' 0 2) d a b)
  | 4 => .ok (.dp4F8bSc s (fn.extractLsb' 0 2) d a b)
  | 5 => .ok (.dp4F8bSc s (fn.extractLsb' 0 2) d a b)
  | 6 => .ok (.dp4F8bSc s (fn.extractLsb' 0 2) d a b)
  | 7 => .ok (.dp4F8bSc s (fn.extractLsb' 0 2) d a b)
  | 8 => .ok (.dp8F4Sc s (fn.extractLsb' 0 2) d a b)
  | 9 => .ok (.dp8F4Sc s (fn.extractLsb' 0 2) d a b)
  | 10 => .ok (.dp8F4Sc s (fn.extractLsb' 0 2) d a b)
  | 11 => .ok (.dp8F4Sc s (fn.extractLsb' 0 2) d a b)
  | _ => .error .unassigned

/-- Major 0x18 (R156). -/
def decode18 (s : Bool) (fn : BitVec 4) (d a b : BitVec 7) : Except IllReason Instr :=
  match fn.toNat with
  | 0 => .ok (.shflIdx s d a b)
  | 1 => accept (b.extractLsb' 3 4 == 0#4) (.shflUpW s d a (b.extractLsb' 0 3))
  | 2 => accept (b.extractLsb' 3 4 == 0#4) (.shflDownW s d a (b.extractLsb' 0 3))
  | 3 => accept (b.extractLsb' 3 4 == 0#4) (.shflXorW s d a (b.extractLsb' 0 3))
  | 4 => .ok (.shflUp s d a b)
  | 5 => .ok (.shflDown s d a b)
  | 6 => .ok (.shflXor s d a b)
  | _ => .error .unassigned

/-- Major 0x19 (R156). -/
def decode19 (s : Bool) (fn : BitVec 4) (d a b : BitVec 7) : Except IllReason Instr :=
  match fn.toNat with
  | 0 => accept (b.extractLsb' 3 4 == 0#4) (.lredAddSi32 s d a (b.extractLsb' 0 3))
  | 1 => accept (b.extractLsb' 3 4 == 0#4) (.lredAddF32 s d a (b.extractLsb' 0 3))
  | 2 => accept (b.extractLsb' 3 4 == 0#4) (.lredMinSi32 s d a (b.extractLsb' 0 3))
  | 3 => accept (b.extractLsb' 3 4 == 0#4) (.lredMaxSi32 s d a (b.extractLsb' 0 3))
  | 4 => accept (b.extractLsb' 3 4 == 0#4) (.lredMinF32 s d a (b.extractLsb' 0 3))
  | 5 => accept (b.extractLsb' 3 4 == 0#4) (.lredMaxF32 s d a (b.extractLsb' 0 3))
  | 6 => accept (b.extractLsb' 3 4 == 0#4) (.lredAnd s d a (b.extractLsb' 0 3))
  | 7 => accept (b.extractLsb' 3 4 == 0#4) (.lredOr s d a (b.extractLsb' 0 3))
  | 8 => accept (b.extractLsb' 3 4 == 0#4) (.lredXor s d a (b.extractLsb' 0 3))
  | _ => .error .unassigned

/-- Major 0x1A (R156). -/
def decode1A (s : Bool) (fn : BitVec 4) (d a b : BitVec 7) : Except IllReason Instr :=
  match fn.toNat with
  | 0 => accept (d.extractLsb' 3 4 == 0#4 && a.extractLsb' 4 3 == 0#3 && b == 0#7) (.voteEvery s (d.extractLsb' 0 3) (a.extractLsb' 0 4))
  | 1 => accept (d.extractLsb' 3 4 == 0#4 && a.extractLsb' 4 3 == 0#3 && b == 0#7) (.voteSome s (d.extractLsb' 0 3) (a.extractLsb' 0 4))
  | 2 => accept (d.extractLsb' 3 4 == 0#4 && a.extractLsb' 4 3 == 0#3 && b == 0#7) (.voteSame s (d.extractLsb' 0 3) (a.extractLsb' 0 4))
  | 3 => accept (a.extractLsb' 4 3 == 0#3 && b == 0#7) (.voteMask s d (a.extractLsb' 0 4))
  | _ => .error .unassigned

/-- Major 0x1B (R156). -/
def decode1B (s : Bool) (fn : BitVec 4) (d a b : BitVec 7) : Except IllReason Instr :=
  match fn.toNat with
  | 0 => accept (d.extractLsb' 3 4 == 0#4 && a.extractLsb' 4 3 == 0#3 && b.extractLsb' 4 3 == 0#3) (.pand s (d.extractLsb' 0 3) (a.extractLsb' 0 4) (b.extractLsb' 0 4))
  | 1 => accept (d.extractLsb' 3 4 == 0#4 && a.extractLsb' 4 3 == 0#3 && b.extractLsb' 4 3 == 0#3) (.por s (d.extractLsb' 0 3) (a.extractLsb' 0 4) (b.extractLsb' 0 4))
  | 2 => accept (d.extractLsb' 3 4 == 0#4 && a.extractLsb' 4 3 == 0#3 && b.extractLsb' 4 3 == 0#3) (.pxor s (d.extractLsb' 0 3) (a.extractLsb' 0 4) (b.extractLsb' 0 4))
  | 3 => accept (d.extractLsb' 3 4 == 0#4 && a.extractLsb' 4 3 == 0#3 && b == 0#7) (.pmov s (d.extractLsb' 0 3) (a.extractLsb' 0 4))
  | 4 => accept (a == 0#7 && b == 0#7) (.p2r s d)
  | 5 => accept (d == 0#7 && b == 0#7) (.regToPred s a)
  | 8 => accept (d.extractLsb' 3 4 == 0#4 && a.extractLsb' 4 3 == 0#3 && b.extractLsb' 4 3 == 0#3) (.qand s (d.extractLsb' 0 3) (a.extractLsb' 0 4) (b.extractLsb' 0 4))
  | 9 => accept (d.extractLsb' 3 4 == 0#4 && a.extractLsb' 4 3 == 0#3 && b.extractLsb' 4 3 == 0#3) (.qor s (d.extractLsb' 0 3) (a.extractLsb' 0 4) (b.extractLsb' 0 4))
  | 10 => accept (d.extractLsb' 3 4 == 0#4 && a.extractLsb' 4 3 == 0#3 && b.extractLsb' 4 3 == 0#3) (.qxor s (d.extractLsb' 0 3) (a.extractLsb' 0 4) (b.extractLsb' 0 4))
  | 11 => accept (d.extractLsb' 3 4 == 0#4 && a.extractLsb' 4 3 == 0#3 && b == 0#7) (.qmov s (d.extractLsb' 0 3) (a.extractLsb' 0 4))
  | _ => .error .unassigned

/-- Major 0x1C (R156). -/
def decode1C (s : Bool) (c : BitVec 4) (o : BitVec 21) : Except IllReason Instr :=
  accept (condOk (c.getLsbD 3) (c.extractLsb' 0 3)) (.bra s (c.getLsbD 3) (c.extractLsb' 0 3) o)

/-- Major 0x1D (R156). -/
def decode1D (s : Bool) (c : BitVec 4) (o : BitVec 21) : Except IllReason Instr :=
  accept (condOk (c.getLsbD 3) (c.extractLsb' 0 3)) (.ubra s (c.getLsbD 3) (c.extractLsb' 0 3) o)

/-- Major 0x1E (R156). -/
def decode1E (s : Bool) (c : BitVec 4) (o : BitVec 21) : Except IllReason Instr :=
  accept (condOk (c.getLsbD 3) (c.extractLsb' 0 3)) (.call s (c.getLsbD 3) (c.extractLsb' 0 3) o)

/-- Major 0x1F (R156). -/
def decode1F (s : Bool) (fn : BitVec 4) (d a b : BitVec 7) : Except IllReason Instr :=
  match fn.toNat with
  | 0 => accept (d == 0#7 && b == 0#7) (.jr s a)
  | 1 => accept (d == 0#7 && b == 0#7) (.callr s a)
  | 2 => accept (d == 0#7 && a == 0#7 && b == 0#7) (.reform s)
  | 3 => accept (d == 0#7 && a == 0#7 && b == 0#7) (.exit s)
  | 4 => accept (d == 0#7 && a == 0#7) (.brk s b)
  | 5 => accept (d == 0#7 && a == 0#7 && b == 0#7) (.nop s)
  | 6 => accept (d == 0#7 && a == 0#7 && b.extractLsb' 4 3 == 0#3) (.winb s (b.extractLsb' 0 4))
  | 7 => accept (d == 0#7 && a == 0#7 && b.extractLsb' 3 4 == 0#4) (.uwinb s (b.extractLsb' 0 3))
  | 8 => accept (d == 0#7 && a == 0#7 && b == 0#7) (.tokp s)
  | 9 => accept (a == 0#7 && b == 0#7) (.rnd s d)
  | 10 => accept (d == 0#7 && a == 0#7) (.sysc s b)
  | 11 => accept (d == 0#7 && a == 0#7 && b == 0#7) (.tret s)
  | _ => .error .unassigned

/-- Major 0x20 (R156). -/
def decode20 (s : Bool) (d a : BitVec 7) (w : BitVec 3) (o : BitVec 8) : Except IllReason Instr :=
  match w.toNat with
  | 0 => .ok (.ldB s d a o)
  | 1 => .ok (.ldSb s d a o)
  | 2 => .ok (.ldH s d a o)
  | 3 => .ok (.ldSh s d a o)
  | 4 => .ok (.ldW s d a o)
  | 5 => .ok (.ldD s d a o)
  | 6 => .ok (.ldQ s d a o)
  | _ => .error .unassigned

/-- Major 0x21 (R156). -/
def decode21 (s : Bool) (d a : BitVec 7) (w : BitVec 3) (o : BitVec 8) : Except IllReason Instr :=
  match w.toNat with
  | 0 => .ok (.stB s d a o)
  | 2 => .ok (.stH s d a o)
  | 4 => .ok (.stW s d a o)
  | 5 => .ok (.stD s d a o)
  | 6 => .ok (.stQ s d a o)
  | _ => .error .unassigned

/-- Major 0x22 (R156). -/
def decode22 (s : Bool) (d a : BitVec 7) (w : BitVec 3) (o : BitVec 8) : Except IllReason Instr :=
  match w.toNat with
  | 4 => .ok (.lduW s d a o)
  | 5 => .ok (.lduD s d a o)
  | _ => .error .unassigned

/-- Major 0x23 (R156). -/
def decode23 (s : Bool) (d a : BitVec 7) (w : BitVec 3) (o : BitVec 8) : Except IllReason Instr :=
  .ok (.ldsW s d a w o)

/-- Major 0x24 (R156). -/
def decode24 (s : Bool) (d a : BitVec 7) (w : BitVec 3) (o : BitVec 8) : Except IllReason Instr :=
  .ok (.ldsD s d a w o)

/-- Major 0x25 (R156). -/
def decode25 (s : Bool) (d a : BitVec 7) (w : BitVec 3) (o : BitVec 8) : Except IllReason Instr :=
  .ok (.ldsQ s d a w o)

/-- Major 0x26 (R156). -/
def decode26 (s : Bool) (d a : BitVec 7) (w : BitVec 3) (o : BitVec 8) : Except IllReason Instr :=
  .ok (.stsW s d a w o)

/-- Major 0x27 (R156). -/
def decode27 (s : Bool) (d a : BitVec 7) (w : BitVec 3) (o : BitVec 8) : Except IllReason Instr :=
  .ok (.stsD s d a w o)

/-- Major 0x28 (R156). -/
def decode28 (s : Bool) (d a : BitVec 7) (w : BitVec 3) (o : BitVec 8) : Except IllReason Instr :=
  .ok (.stsQ s d a w o)

/-- Major 0x29 (R156). -/
def decode29 (s : Bool) (d a : BitVec 7) (w : BitVec 3) (o : BitVec 8) : Except IllReason Instr :=
  match w.toNat with
  | 0 => .ok (.ldpB s d a o)
  | 1 => .ok (.ldpSb s d a o)
  | 2 => .ok (.ldpH s d a o)
  | 3 => .ok (.ldpSh s d a o)
  | 4 => .ok (.ldpW s d a o)
  | 5 => .ok (.ldpD s d a o)
  | 6 => .ok (.ldpQ s d a o)
  | _ => .error .unassigned

/-- Major 0x2A (R156). -/
def decode2A (s : Bool) (d a : BitVec 7) (w : BitVec 3) (o : BitVec 8) : Except IllReason Instr :=
  match w.toNat with
  | 0 => .ok (.stpB s d a o)
  | 2 => .ok (.stpH s d a o)
  | 4 => .ok (.stpW s d a o)
  | 5 => .ok (.stpD s d a o)
  | 6 => .ok (.stpQ s d a o)
  | _ => .error .unassigned

/-- Major 0x2B (R156). -/
def decode2B (s : Bool) (fn : BitVec 4) (d a b : BitVec 7) : Except IllReason Instr :=
  match fn.toNat with
  | 0 => accept (orderOk b) (.atomAddSi32 s d a b)
  | 1 => accept (orderOk b) (.atomAddF32 s d a b)
  | 2 => accept (orderOk b) (.atomMinSi32 s d a b)
  | 3 => accept (orderOk b) (.atomMaxSi32 s d a b)
  | 4 => accept (orderOk b) (.atomMinUi32 s d a b)
  | 5 => accept (orderOk b) (.atomMaxUi32 s d a b)
  | 6 => accept (orderOk b) (.atomAnd s d a b)
  | 7 => accept (orderOk b) (.atomOr s d a b)
  | 8 => accept (orderOk b) (.atomXor s d a b)
  | 9 => accept (orderOk b) (.atomExchB32 s d a b)
  | 10 => accept (orderOk b) (.atomCasB32 s d a b)
  | 11 => accept (orderOk b) (.atomAddUi64 s d a b)
  | 12 => accept (orderOk b) (.atomExchB64 s d a b)
  | 13 => accept (orderOk b) (.atomCasB64 s d a b)
  | 14 => accept (orderOk b) (.atomLdx s d a b)
  | 15 => accept (orderOk b) (.atomStx s d a b)
  | _ => .error .unassigned

/-- Major 0x2C (R156). -/
def decode2C (s : Bool) (d a : BitVec 7) (i : BitVec 11) : Except IllReason Instr :=
  .ok (.capr s d a i)

/-- Major 0x2D (R156). -/
def decode2D (s : Bool) (fn : BitVec 4) (d a b : BitVec 7) : Except IllReason Instr :=
  match fn.toNat with
  | 0 => accept (a == 0#7) (.srd s d b)
  | 1 => accept (a == 0#7) (.srdUniform s d b)
  | 2 => if d == 0#7 && b != 14#7 then .error .operand else accept (d == 0#7) (.swr s a)
  | _ => .error .unassigned

/-- Major 0x2E (R156). -/
def decode2E (s : Bool) (fn : BitVec 4) (d a b : BitVec 7) : Except IllReason Instr :=
  match fn.toNat with
  | 0 => accept (orderOk b) (.mredAddSi32 s d a b)
  | 1 => accept (orderOk b) (.mredAddF32 s d a b)
  | 2 => accept (orderOk b) (.mredMinSi32 s d a b)
  | 3 => accept (orderOk b) (.mredMaxSi32 s d a b)
  | 4 => accept (orderOk b) (.mredMinUi32 s d a b)
  | 5 => accept (orderOk b) (.mredMaxUi32 s d a b)
  | 6 => accept (orderOk b) (.mredAnd s d a b)
  | 7 => accept (orderOk b) (.mredOr s d a b)
  | 8 => accept (orderOk b) (.mredXor s d a b)
  | _ => .error .unassigned

/-- Major 0x2F (R156). -/
def decode2F (s : Bool) (fn : BitVec 4) (d a b : BitVec 7) : Except IllReason Instr :=
  match fn.toNat with
  | 0 => accept (d == 0#7 && a == 0#7 && b.extractLsb' 0 2 == 0#2 && scopeOk (b.extractLsb' 4 3)) (.fence s (b.extractLsb' 4 3) (b.extractLsb' 2 2))
  | 1 => accept (b.extractLsb' 2 2 == 0#2 && scopeOk (b.extractLsb' 4 3) && spaceOk (b.extractLsb' 0 2)) (.waitc s d a (b.extractLsb' 4 3) (b.extractLsb' 0 2))
  | 2 => accept (d == 0#7 && b.extractLsb' 2 2 == 0#2 && scopeOk (b.extractLsb' 4 3) && spaceOk (b.extractLsb' 0 2)) (.wake s a (b.extractLsb' 4 3) (b.extractLsb' 0 2))
  | 3 => accept (d == 0#7 && a == 0#7 && b.extractLsb' 4 3 == 0#3) (.barArr s (b.extractLsb' 0 4))
  | 4 => accept (d == 0#7 && a == 0#7 && b.extractLsb' 4 3 == 0#3) (.barWait s (b.extractLsb' 0 4))
  | 5 => accept (d == 0#7 && a == 0#7 && b.extractLsb' 4 3 == 0#3) (.barSync s (b.extractLsb' 0 4))
  | 6 => accept (a == 0#7) (.cbacq s d b)
  | 7 => accept (d == 0#7) (.cbrel s a b)
  | 8 => accept (a == 0#7) (.cbfill s d b)
  | 9 => accept (d == 0#7) (.cbdone s a b)
  | _ => .error .unassigned

/-- Major 0x30 (R156). -/
def decode30 (s : Bool) (fn : BitVec 4) (d a b : BitVec 7) : Except IllReason Instr :=
  match fn.toNat with
  | 0 => accept (d.extractLsb' 6 1 == 0#1 && b == 0#7) (.cpy s (d.extractLsb' 0 6) a)
  | 1 => accept (d.extractLsb' 6 1 == 0#1 && b == 0#7) (.cpy2d s (d.extractLsb' 0 6) a)
  | 2 => accept (d.extractLsb' 6 1 == 0#1 && b == 0#7) (.cpyred s (d.extractLsb' 0 6) a)
  | 3 => accept (d.extractLsb' 6 1 == 0#1 && b == 0#7) (.cpyMx s (d.extractLsb' 0 6) a)
  | 4 => accept (d.extractLsb' 6 1 == 0#1 && a == 0#7 && b.extractLsb' 4 3 == 0#3) (.qfence s (d.extractLsb' 0 6) (b.extractLsb' 0 4))
  | 5 => accept (d.extractLsb' 6 1 == 0#1 && b.extractLsb' 6 1 == 0#1) (.qwait s (d.extractLsb' 0 6) a (b.extractLsb' 0 6))
  | _ => .error .unassigned

/-- Major 0x31 (R156). -/
def decode31 (s : Bool) (fn : BitVec 4) (d a b : BitVec 7) : Except IllReason Instr :=
  match fn.toNat with
  | 0 => accept (d.extractLsb' 2 5 == 0#5) (.mldSt s (d.extractLsb' 0 2) a b)
  | 1 => accept (d.extractLsb' 2 5 == 0#5 && a == 0#7 && b == 0#7) (.mswap s (d.extractLsb' 0 2))
  | 2 => accept (d.extractLsb' 4 3 == 0#3) (.mma s (d.getLsbD 3) (d.extractLsb' 0 3) a b)
  | 3 => .ok (.maccRd s d a b)
  | 4 => accept (d.extractLsb' 4 3 == 0#3) (.mst s (d.getLsbD 3) (d.extractLsb' 0 3) a b)
  | 5 => accept (d.extractLsb' 3 4 == 0#4 && a == 0#7 && b.extractLsb' 4 3 == 0#3) (.maccClr s (d.extractLsb' 0 3) (b.extractLsb' 0 4))
  | 6 => accept (b == 0#7) (.mstat s d a)
  | _ => .error .unassigned

/-- Major 0x32 (R156). -/
def decode32 (s : Bool) (fn : BitVec 4) (d a b : BitVec 7) : Except IllReason Instr :=
  match fn.toNat with
  | 0 => accept (d.extractLsb' 6 1 == 0#1 && b == 0#7) (.hread s (d.extractLsb' 0 6) a)
  | _ => .error .unassigned

/-- Major 0x33 (R156). -/
def decode33 (s : Bool) (fn : BitVec 4) (d a b : BitVec 7) : Except IllReason Instr :=
  match fn.toNat with
  | 0 => accept (d.extractLsb' 6 1 == 0#1 && b == 0#7) (.xsort s (d.extractLsb' 0 6) a)
  | 1 => accept (d.extractLsb' 6 1 == 0#1 && b == 0#7) (.a2av s (d.extractLsb' 0 6) a)
  | 2 => accept (d.extractLsb' 6 1 == 0#1 && b == 0#7) (.areduce s (d.extractLsb' 0 6) a)
  | _ => .error .unassigned

/-- Major 0x34 (R156). -/
def decode34 (s : Bool) (fn : BitVec 4) (d a b : BitVec 7) : Except IllReason Instr :=
  match fn.toNat with
  | 0 => accept (d.extractLsb' 6 1 == 0#1 && b == 0#7) (.rput s (d.extractLsb' 0 6) a)
  | 1 => accept (d.extractLsb' 6 1 == 0#1 && b == 0#7) (.rget s (d.extractLsb' 0 6) a)
  | 2 => accept (d.extractLsb' 6 1 == 0#1 && b == 0#7) (.ratom s (d.extractLsb' 0 6) a)
  | 3 => accept (d.extractLsb' 6 1 == 0#1 && b == 0#7) (.rflush s (d.extractLsb' 0 6) a)
  | _ => .error .unassigned

/-- Major 0x35 (R156). -/
def decode35 (s : Bool) (fn : BitVec 4) (d a b : BitVec 7) : Except IllReason Instr :=
  match fn.toNat with
  | 0 => accept (d.extractLsb' 6 1 == 0#1) (.kvld s (d.extractLsb' 0 6) a b)
  | 1 => accept (d.extractLsb' 6 1 == 0#1 && b == 0#7) (.roost s (d.extractLsb' 0 6) a)
  | 2 => accept (d.extractLsb' 6 1 == 0#1 && b == 0#7) (.rouse s (d.extractLsb' 0 6) a)
  | _ => .error .unassigned

/-- Major 0x36 (R156). -/
def decode36 (s : Bool) (fn : BitVec 4) (d a b : BitVec 7) : Except IllReason Instr :=
  match fn.toNat with
  | 0 => accept (d.extractLsb' 6 1 == 0#1 && b == 0#7) (.lnch s (d.extractLsb' 0 6) a)
  | 1 => accept (d.extractLsb' 2 5 == 0#5) (.cncl s (d.extractLsb' 0 2) a b)
  | 2 => accept (d.extractLsb' 6 1 == 0#1 && b == 0#7) (.gang s (d.extractLsb' 0 6) a)
  | _ => .error .unassigned

/-- Major 0x37 (R156). -/
def decode37 (s : Bool) (fn : BitVec 4) (d a b : BitVec 7) : Except IllReason Instr :=
  match fn.toNat with
  | 0 => accept (a == 0#7) (.psrd s d b)
  | 1 => accept (d == 0#7) (.pswr s a b)
  | _ => .error .unassigned

/-- Major 0x3E (R156). -/
def decode3E (s : Bool) (c : BitVec 4) (o : BitVec 21) : Except IllReason Instr :=
  accept (o == 0#21 && !s && condOk (c.getLsbD 3) (c.extractLsb' 0 3)) (.guardPrefix (c.getLsbD 3) (c.extractLsb' 0 3))

/-- Checks 1 and 2 of R148 on one word. -/
def decodeWord (w : Word) : Except IllReason Instr :=
  let s := w.getLsbD 31
  match (w.extractLsb' 25 6).toNat with
  | 0x01 => decode01 s (w.extractLsb' 21 4) (w.extractLsb' 14 7) (w.extractLsb' 7 7) (w.extractLsb' 0 7)
  | 0x02 => decode02 s (w.extractLsb' 21 4) (w.extractLsb' 14 7) (w.extractLsb' 7 7) (w.extractLsb' 0 7)
  | 0x03 => decode03 s (w.extractLsb' 18 7) (w.extractLsb' 11 7) (w.extractLsb' 0 11)
  | 0x04 => decode04 s (w.extractLsb' 18 7) (w.extractLsb' 0 18)
  | 0x05 => decode05 s (w.extractLsb' 18 7) (w.extractLsb' 0 18)
  | 0x06 => decode06 s (w.extractLsb' 21 4) (w.extractLsb' 14 7) (w.extractLsb' 7 7) (w.extractLsb' 0 7)
  | 0x07 => decode07 s (w.extractLsb' 21 4) (w.extractLsb' 14 7) (w.extractLsb' 7 7) (w.extractLsb' 0 7)
  | 0x08 => decode08 s (w.extractLsb' 18 7) (w.extractLsb' 11 7) (w.extractLsb' 0 11)
  | 0x09 => decode09 s (w.extractLsb' 21 4) (w.extractLsb' 14 7) (w.extractLsb' 7 7) (w.extractLsb' 0 7)
  | 0x0A => decode0A s (w.extractLsb' 18 7) (w.extractLsb' 11 7) (w.extractLsb' 0 11)
  | 0x0B => decode0B s (w.extractLsb' 18 7) (w.extractLsb' 0 18)
  | 0x0C => decode0C s (w.extractLsb' 18 7) (w.extractLsb' 0 18)
  | 0x0D => decode0D s (w.extractLsb' 21 4) (w.extractLsb' 14 7) (w.extractLsb' 7 7) (w.extractLsb' 0 7)
  | 0x10 => decode10 s (w.extractLsb' 21 4) (w.extractLsb' 14 7) (w.extractLsb' 7 7) (w.extractLsb' 0 7)
  | 0x11 => decode11 s (w.extractLsb' 21 4) (w.extractLsb' 14 7) (w.extractLsb' 7 7) (w.extractLsb' 0 7)
  | 0x12 => decode12 s (w.extractLsb' 21 4) (w.extractLsb' 14 7) (w.extractLsb' 7 7) (w.extractLsb' 0 7)
  | 0x13 => decode13 s (w.extractLsb' 21 4) (w.extractLsb' 14 7) (w.extractLsb' 7 7) (w.extractLsb' 0 7)
  | 0x14 => decode14 s (w.extractLsb' 21 4) (w.extractLsb' 14 7) (w.extractLsb' 7 7) (w.extractLsb' 0 7)
  | 0x15 => decode15 s (w.extractLsb' 21 4) (w.extractLsb' 14 7) (w.extractLsb' 7 7) (w.extractLsb' 0 7)
  | 0x16 => decode16 s (w.extractLsb' 21 4) (w.extractLsb' 14 7) (w.extractLsb' 7 7) (w.extractLsb' 0 7)
  | 0x17 => decode17 s (w.extractLsb' 21 4) (w.extractLsb' 14 7) (w.extractLsb' 7 7) (w.extractLsb' 0 7)
  | 0x18 => decode18 s (w.extractLsb' 21 4) (w.extractLsb' 14 7) (w.extractLsb' 7 7) (w.extractLsb' 0 7)
  | 0x19 => decode19 s (w.extractLsb' 21 4) (w.extractLsb' 14 7) (w.extractLsb' 7 7) (w.extractLsb' 0 7)
  | 0x1A => decode1A s (w.extractLsb' 21 4) (w.extractLsb' 14 7) (w.extractLsb' 7 7) (w.extractLsb' 0 7)
  | 0x1B => decode1B s (w.extractLsb' 21 4) (w.extractLsb' 14 7) (w.extractLsb' 7 7) (w.extractLsb' 0 7)
  | 0x1C => decode1C s (w.extractLsb' 21 4) (w.extractLsb' 0 21)
  | 0x1D => decode1D s (w.extractLsb' 21 4) (w.extractLsb' 0 21)
  | 0x1E => decode1E s (w.extractLsb' 21 4) (w.extractLsb' 0 21)
  | 0x1F => decode1F s (w.extractLsb' 21 4) (w.extractLsb' 14 7) (w.extractLsb' 7 7) (w.extractLsb' 0 7)
  | 0x20 => decode20 s (w.extractLsb' 18 7) (w.extractLsb' 11 7) (w.extractLsb' 8 3) (w.extractLsb' 0 8)
  | 0x21 => decode21 s (w.extractLsb' 18 7) (w.extractLsb' 11 7) (w.extractLsb' 8 3) (w.extractLsb' 0 8)
  | 0x22 => decode22 s (w.extractLsb' 18 7) (w.extractLsb' 11 7) (w.extractLsb' 8 3) (w.extractLsb' 0 8)
  | 0x23 => decode23 s (w.extractLsb' 18 7) (w.extractLsb' 11 7) (w.extractLsb' 8 3) (w.extractLsb' 0 8)
  | 0x24 => decode24 s (w.extractLsb' 18 7) (w.extractLsb' 11 7) (w.extractLsb' 8 3) (w.extractLsb' 0 8)
  | 0x25 => decode25 s (w.extractLsb' 18 7) (w.extractLsb' 11 7) (w.extractLsb' 8 3) (w.extractLsb' 0 8)
  | 0x26 => decode26 s (w.extractLsb' 18 7) (w.extractLsb' 11 7) (w.extractLsb' 8 3) (w.extractLsb' 0 8)
  | 0x27 => decode27 s (w.extractLsb' 18 7) (w.extractLsb' 11 7) (w.extractLsb' 8 3) (w.extractLsb' 0 8)
  | 0x28 => decode28 s (w.extractLsb' 18 7) (w.extractLsb' 11 7) (w.extractLsb' 8 3) (w.extractLsb' 0 8)
  | 0x29 => decode29 s (w.extractLsb' 18 7) (w.extractLsb' 11 7) (w.extractLsb' 8 3) (w.extractLsb' 0 8)
  | 0x2A => decode2A s (w.extractLsb' 18 7) (w.extractLsb' 11 7) (w.extractLsb' 8 3) (w.extractLsb' 0 8)
  | 0x2B => decode2B s (w.extractLsb' 21 4) (w.extractLsb' 14 7) (w.extractLsb' 7 7) (w.extractLsb' 0 7)
  | 0x2C => decode2C s (w.extractLsb' 18 7) (w.extractLsb' 11 7) (w.extractLsb' 0 11)
  | 0x2D => decode2D s (w.extractLsb' 21 4) (w.extractLsb' 14 7) (w.extractLsb' 7 7) (w.extractLsb' 0 7)
  | 0x2E => decode2E s (w.extractLsb' 21 4) (w.extractLsb' 14 7) (w.extractLsb' 7 7) (w.extractLsb' 0 7)
  | 0x2F => decode2F s (w.extractLsb' 21 4) (w.extractLsb' 14 7) (w.extractLsb' 7 7) (w.extractLsb' 0 7)
  | 0x30 => decode30 s (w.extractLsb' 21 4) (w.extractLsb' 14 7) (w.extractLsb' 7 7) (w.extractLsb' 0 7)
  | 0x31 => decode31 s (w.extractLsb' 21 4) (w.extractLsb' 14 7) (w.extractLsb' 7 7) (w.extractLsb' 0 7)
  | 0x32 => decode32 s (w.extractLsb' 21 4) (w.extractLsb' 14 7) (w.extractLsb' 7 7) (w.extractLsb' 0 7)
  | 0x33 => decode33 s (w.extractLsb' 21 4) (w.extractLsb' 14 7) (w.extractLsb' 7 7) (w.extractLsb' 0 7)
  | 0x34 => decode34 s (w.extractLsb' 21 4) (w.extractLsb' 14 7) (w.extractLsb' 7 7) (w.extractLsb' 0 7)
  | 0x35 => decode35 s (w.extractLsb' 21 4) (w.extractLsb' 14 7) (w.extractLsb' 7 7) (w.extractLsb' 0 7)
  | 0x36 => decode36 s (w.extractLsb' 21 4) (w.extractLsb' 14 7) (w.extractLsb' 7 7) (w.extractLsb' 0 7)
  | 0x37 => decode37 s (w.extractLsb' 21 4) (w.extractLsb' 14 7) (w.extractLsb' 7 7) (w.extractLsb' 0 7)
  | 0x3E => decode3E s (w.extractLsb' 21 4) (w.extractLsb' 0 21)
  | _ => .error .unassigned

/-- The word whose four bytes stand in memory, least significant first (R4, R147). -/
def wordOfBytes (b0 b1 b2 b3 : Byte) : Word := b3 ++ b2 ++ b1 ++ b0

/-- The bytes of a word as memory holds them (R4). -/
def bytesOfWord (w : Word) : List Byte :=
  [w.extractLsb' 0 8, w.extractLsb' 8 8, w.extractLsb' 16 8, w.extractLsb' 24 8]

/-- One instruction word from the front of a byte string, with the rest; fewer than four bytes are no fetch. -/
def decodeBytes : List Byte → Except IllReason (Instr × List Byte)
  | b0 :: b1 :: b2 :: b3 :: rest =>
    match decodeWord (wordOfBytes b0 b1 b2 b3) with
    | .ok i => .ok (i, rest)
    | .error e => .error e
  | _ => .error .fetch

/-- The instruction the decoder reads from the word whose bits are `w`, laid out as memory holds it. -/
def decodeTableWord (nbits w : Nat) : Option Instr :=
  match decodeBytes (bytesOfWord (BitVec.ofNat 32 (w % 2 ^ nbits))) with
  | .ok (i, _) => some i
  | .error _ => none

end

/-! ## Encoder -/

/-- RRR and EC formats (R144). -/
def encRRR (s : Bool) (major : BitVec 6) (fn : BitVec 4) (d a b : BitVec 7) : Word :=
  BitVec.ofBool s ++ major ++ fn ++ d ++ a ++ b

/-- RI format (R144). -/
def encRI (s : Bool) (major : BitVec 6) (d a : BitVec 7) (i : BitVec 11) : Word :=
  BitVec.ofBool s ++ major ++ d ++ a ++ i

/-- LI format (R144). -/
def encLI (s : Bool) (major : BitVec 6) (d : BitVec 7) (i : BitVec 18) : Word :=
  BitVec.ofBool s ++ major ++ d ++ i

/-- BR format (R144). -/
def encBR (s : Bool) (major : BitVec 6) (c : BitVec 4) (o : BitVec 21) : Word :=
  BitVec.ofBool s ++ major ++ c ++ o

/-- MEM format (R144). -/
def encMEM (s : Bool) (major : BitVec 6) (d a : BitVec 7) (w : BitVec 3) (o : BitVec 8) : Word :=
  BitVec.ofBool s ++ major ++ d ++ a ++ w ++ o

/-- The word of an instruction; `none` for the rows of the table that have no encoding. -/
def encode (i : Instr) : Option Word :=
  match i with
  | .add s d a b => some (encRRR s 1#6 0#4 d a b)
  | .sub s d a b => some (encRRR s 1#6 1#4 d a b)
  | .mul s d a b => some (encRRR s 1#6 2#4 d a b)
  | .mulhiSi32 s d a b => some (encRRR s 1#6 3#4 d a b)
  | .mulhiUi32 s d a b => some (encRRR s 1#6 4#4 d a b)
  | .and s d a b => some (encRRR s 1#6 5#4 d a b)
  | .or s d a b => some (encRRR s 1#6 6#4 d a b)
  | .xor s d a b => some (encRRR s 1#6 7#4 d a b)
  | .shl s d a b => some (encRRR s 1#6 8#4 d a b)
  | .shr s d a b => some (encRRR s 1#6 9#4 d a b)
  | .sar s d a b => some (encRRR s 1#6 10#4 d a b)
  | .minSi32 s d a b => some (encRRR s 1#6 11#4 d a b)
  | .maxSi32 s d a b => some (encRRR s 1#6 12#4 d a b)
  | .minUi32 s d a b => some (encRRR s 1#6 13#4 d a b)
  | .maxUi32 s d a b => some (encRRR s 1#6 14#4 d a b)
  | .addsSi32 s d a b => some (encRRR s 1#6 15#4 d a b)
  | .addPaired s d a b => some (encRRR s 2#6 0#4 d a b)
  | .subPaired s d a b => some (encRRR s 2#6 1#4 d a b)
  | .mulPaired s d a b => some (encRRR s 2#6 2#4 d a b)
  | .mulhiSi32Paired s d a b => some (encRRR s 2#6 3#4 d a b)
  | .mulhiUi32Paired s d a b => some (encRRR s 2#6 4#4 d a b)
  | .andPaired s d a b => some (encRRR s 2#6 5#4 d a b)
  | .orPaired s d a b => some (encRRR s 2#6 6#4 d a b)
  | .xorPaired s d a b => some (encRRR s 2#6 7#4 d a b)
  | .shlPaired s d a b => some (encRRR s 2#6 8#4 d a b)
  | .shrPaired s d a b => some (encRRR s 2#6 9#4 d a b)
  | .sarPaired s d a b => some (encRRR s 2#6 10#4 d a b)
  | .minSi32Paired s d a b => some (encRRR s 2#6 11#4 d a b)
  | .maxSi32Paired s d a b => some (encRRR s 2#6 12#4 d a b)
  | .minUi32Paired s d a b => some (encRRR s 2#6 13#4 d a b)
  | .maxUi32Paired s d a b => some (encRRR s 2#6 14#4 d a b)
  | .addsSi32Paired s d a b => some (encRRR s 2#6 15#4 d a b)
  | .addi s d a i => some (encRI s 3#6 d a i)
  | .movl s d i => some (encLI s 4#6 d i)
  | .movh s d i => some (encLI s 5#6 d (0#4 ++ i))
  | .cmpEq s p a b => some (encRRR s 6#6 0#4 (0#4 ++ p) a b)
  | .cmpNe s p a b => some (encRRR s 6#6 1#4 (0#4 ++ p) a b)
  | .cmpLtSi32 s p a b => some (encRRR s 6#6 2#4 (0#4 ++ p) a b)
  | .cmpLeSi32 s p a b => some (encRRR s 6#6 3#4 (0#4 ++ p) a b)
  | .cmpGtSi32 s p a b => some (encRRR s 6#6 4#4 (0#4 ++ p) a b)
  | .cmpGeSi32 s p a b => some (encRRR s 6#6 5#4 (0#4 ++ p) a b)
  | .cmpLtUi32 s p a b => some (encRRR s 6#6 6#4 (0#4 ++ p) a b)
  | .cmpLeUi32 s p a b => some (encRRR s 6#6 7#4 (0#4 ++ p) a b)
  | .cmpGtUi32 s p a b => some (encRRR s 6#6 8#4 (0#4 ++ p) a b)
  | .cmpGeUi32 s p a b => some (encRRR s 6#6 9#4 (0#4 ++ p) a b)
  | .mov s d a => some (encRRR s 7#6 0#4 d a 0#7)
  | .not s d a => some (encRRR s 7#6 1#4 d a 0#7)
  | .neg s d a => some (encRRR s 7#6 2#4 d a 0#7)
  | .absSi32 s d a => some (encRRR s 7#6 3#4 d a 0#7)
  | .popc s d a => some (encRRR s 7#6 4#4 d a 0#7)
  | .clz s d a => some (encRRR s 7#6 5#4 d a 0#7)
  | .brev s d a => some (encRRR s 7#6 6#4 d a 0#7)
  | .mad s d a b => some (encRRR s 7#6 7#4 d a b)
  | .sxb s d a => some (encRRR s 7#6 8#4 d a 0#7)
  | .sxh s d a => some (encRRR s 7#6 9#4 d a 0#7)
  | .adda s d a b => some (encRRR s 7#6 10#4 d a b)
  | .addai s d a i => some (encRI s 8#6 d a i)
  | .addUniform s d a b => some (encRRR s 9#6 0#4 d a b)
  | .subUniform s d a b => some (encRRR s 9#6 1#4 d a b)
  | .mulUniform s d a b => some (encRRR s 9#6 2#4 d a b)
  | .mulhiSi32Uniform s d a b => some (encRRR s 9#6 3#4 d a b)
  | .mulhiUi32Uniform s d a b => some (encRRR s 9#6 4#4 d a b)
  | .andUniform s d a b => some (encRRR s 9#6 5#4 d a b)
  | .orUniform s d a b => some (encRRR s 9#6 6#4 d a b)
  | .xorUniform s d a b => some (encRRR s 9#6 7#4 d a b)
  | .shlUniform s d a b => some (encRRR s 9#6 8#4 d a b)
  | .shrUniform s d a b => some (encRRR s 9#6 9#4 d a b)
  | .sarUniform s d a b => some (encRRR s 9#6 10#4 d a b)
  | .minSi32Uniform s d a b => some (encRRR s 9#6 11#4 d a b)
  | .maxSi32Uniform s d a b => some (encRRR s 9#6 12#4 d a b)
  | .minUi32Uniform s d a b => some (encRRR s 9#6 13#4 d a b)
  | .maxUi32Uniform s d a b => some (encRRR s 9#6 14#4 d a b)
  | .addsSi32Uniform s d a b => some (encRRR s 9#6 15#4 d a b)
  | .uaddi s d a i => some (encRI s 10#6 d a i)
  | .umovl s d i => some (encLI s 11#6 d i)
  | .umovh s d i => some (encLI s 12#6 d (0#4 ++ i))
  | .ucmpEq s p a b => some (encRRR s 13#6 0#4 (0#4 ++ p) a b)
  | .ucmpNe s p a b => some (encRRR s 13#6 1#4 (0#4 ++ p) a b)
  | .ucmpLtSi32 s p a b => some (encRRR s 13#6 2#4 (0#4 ++ p) a b)
  | .ucmpLeSi32 s p a b => some (encRRR s 13#6 3#4 (0#4 ++ p) a b)
  | .ucmpGtSi32 s p a b => some (encRRR s 13#6 4#4 (0#4 ++ p) a b)
  | .ucmpGeSi32 s p a b => some (encRRR s 13#6 5#4 (0#4 ++ p) a b)
  | .ucmpLtUi32 s p a b => some (encRRR s 13#6 6#4 (0#4 ++ p) a b)
  | .ucmpLeUi32 s p a b => some (encRRR s 13#6 7#4 (0#4 ++ p) a b)
  | .ucmpGtUi32 s p a b => some (encRRR s 13#6 8#4 (0#4 ++ p) a b)
  | .ucmpGeUi32 s p a b => some (encRRR s 13#6 9#4 (0#4 ++ p) a b)
  | .fadd s d a b => some (encRRR s 16#6 0#4 d a b)
  | .fsub s d a b => some (encRRR s 16#6 1#4 d a b)
  | .fmul s d a b => some (encRRR s 16#6 2#4 d a b)
  | .ffma s d a b => some (encRRR s 16#6 3#4 d a b)
  | .fmin s d a b => some (encRRR s 16#6 4#4 d a b)
  | .fmax s d a b => some (encRRR s 16#6 5#4 d a b)
  | .fdiv s d a b => some (encRRR s 16#6 6#4 d a b)
  | .fsqrt s d a => some (encRRR s 16#6 7#4 d a 0#7)
  | .fabs s d a => some (encRRR s 16#6 8#4 d a 0#7)
  | .fneg s d a => some (encRRR s 16#6 9#4 d a 0#7)
  | .faddPaired s d a b => some (encRRR s 17#6 0#4 d a b)
  | .fsubPaired s d a b => some (encRRR s 17#6 1#4 d a b)
  | .fmulPaired s d a b => some (encRRR s 17#6 2#4 d a b)
  | .ffmaPaired s d a b => some (encRRR s 17#6 3#4 d a b)
  | .fminPaired s d a b => some (encRRR s 17#6 4#4 d a b)
  | .fmaxPaired s d a b => some (encRRR s 17#6 5#4 d a b)
  | .fdivPaired s d a b => some (encRRR s 17#6 6#4 d a b)
  | .fcmpEq s p a b => some (encRRR s 18#6 0#4 (0#4 ++ p) a b)
  | .fcmpNe s p a b => some (encRRR s 18#6 1#4 (0#4 ++ p) a b)
  | .fcmpLt s p a b => some (encRRR s 18#6 2#4 (0#4 ++ p) a b)
  | .fcmpLe s p a b => some (encRRR s 18#6 3#4 (0#4 ++ p) a b)
  | .fcmpGt s p a b => some (encRRR s 18#6 4#4 (0#4 ++ p) a b)
  | .fcmpGe s p a b => some (encRRR s 18#6 5#4 (0#4 ++ p) a b)
  | .haddF16 s d a b => some (encRRR s 19#6 0#4 d a b)
  | .hsubF16 s d a b => some (encRRR s 19#6 1#4 d a b)
  | .hmulF16 s d a b => some (encRRR s 19#6 2#4 d a b)
  | .hfmaF16 s d a b => some (encRRR s 19#6 3#4 d a b)
  | .hminF16 s d a b => some (encRRR s 19#6 4#4 d a b)
  | .hmaxF16 s d a b => some (encRRR s 19#6 5#4 d a b)
  | .haddBf16 s d a b => some (encRRR s 19#6 8#4 d a b)
  | .hsubBf16 s d a b => some (encRRR s 19#6 9#4 d a b)
  | .hmulBf16 s d a b => some (encRRR s 19#6 10#4 d a b)
  | .hfmaBf16 s d a b => some (encRRR s 19#6 11#4 d a b)
  | .hminBf16 s d a b => some (encRRR s 19#6 12#4 d a b)
  | .hmaxBf16 s d a b => some (encRRR s 19#6 13#4 d a b)
  | .cvt s f d a t k r => some (encRRR s 20#6 f d a (t ++ BitVec.ofBool k ++ r))
  | .recip s d a => some (encRRR s 21#6 0#4 d a 0#7)
  | .rsqrt s d a => some (encRRR s 21#6 1#4 d a 0#7)
  | .exp2 s d a => some (encRRR s 21#6 2#4 d a 0#7)
  | .log2 s d a => some (encRRR s 21#6 3#4 d a 0#7)
  | .sin s d a => some (encRRR s 21#6 4#4 d a 0#7)
  | .cos s d a => some (encRRR s 21#6 5#4 d a 0#7)
  | .tanh s d a => some (encRRR s 21#6 6#4 d a 0#7)
  | .sigm s d a => some (encRRR s 21#6 7#4 d a 0#7)
  | .dp4Si8 s d a b => some (encRRR s 22#6 0#4 d a b)
  | .dp4Si8ui8 s d a b => some (encRRR s 22#6 1#4 d a b)
  | .dp8Si4 s d a b => some (encRRR s 22#6 2#4 d a b)
  | .dp8Si4ui4 s d a b => some (encRRR s 22#6 3#4 d a b)
  | .dp4F8a s d a b => some (encRRR s 22#6 4#4 d a b)
  | .dp4F8b s d a b => some (encRRR s 22#6 5#4 d a b)
  | .dp8F4 s d a b => some (encRRR s 22#6 6#4 d a b)
  | .dp2Bf16 s d a b => some (encRRR s 22#6 7#4 d a b)
  | .dp2F16 s d a b => some (encRRR s 22#6 8#4 d a b)
  | .dp4F8aSc s k d a b => some (encRRR s 23#6 (0#2 ++ k) d a b)
  | .dp4F8bSc s k d a b => some (encRRR s 23#6 (1#2 ++ k) d a b)
  | .dp8F4Sc s k d a b => some (encRRR s 23#6 (2#2 ++ k) d a b)
  | .shflIdx s d a b => some (encRRR s 24#6 0#4 d a b)
  | .shflUpW s d a n => some (encRRR s 24#6 1#4 d a (0#4 ++ n))
  | .shflDownW s d a n => some (encRRR s 24#6 2#4 d a (0#4 ++ n))
  | .shflXorW s d a n => some (encRRR s 24#6 3#4 d a (0#4 ++ n))
  | .shflUp s d a k => some (encRRR s 24#6 4#4 d a k)
  | .shflDown s d a k => some (encRRR s 24#6 5#4 d a k)
  | .shflXor s d a k => some (encRRR s 24#6 6#4 d a k)
  | .lredAddSi32 s d a g => some (encRRR s 25#6 0#4 d a (0#4 ++ g))
  | .lredAddF32 s d a g => some (encRRR s 25#6 1#4 d a (0#4 ++ g))
  | .lredMinSi32 s d a g => some (encRRR s 25#6 2#4 d a (0#4 ++ g))
  | .lredMaxSi32 s d a g => some (encRRR s 25#6 3#4 d a (0#4 ++ g))
  | .lredMinF32 s d a g => some (encRRR s 25#6 4#4 d a (0#4 ++ g))
  | .lredMaxF32 s d a g => some (encRRR s 25#6 5#4 d a (0#4 ++ g))
  | .lredAnd s d a g => some (encRRR s 25#6 6#4 d a (0#4 ++ g))
  | .lredOr s d a g => some (encRRR s 25#6 7#4 d a (0#4 ++ g))
  | .lredXor s d a g => some (encRRR s 25#6 8#4 d a (0#4 ++ g))
  | .voteEvery s q p => some (encRRR s 26#6 0#4 (0#4 ++ q) (0#3 ++ p) 0#7)
  | .voteSome s q p => some (encRRR s 26#6 1#4 (0#4 ++ q) (0#3 ++ p) 0#7)
  | .voteSame s q p => some (encRRR s 26#6 2#4 (0#4 ++ q) (0#3 ++ p) 0#7)
  | .voteMask s d p => some (encRRR s 26#6 3#4 d (0#3 ++ p) 0#7)
  | .pand s d a b => some (encRRR s 27#6 0#4 (0#4 ++ d) (0#3 ++ a) (0#3 ++ b))
  | .por s d a b => some (encRRR s 27#6 1#4 (0#4 ++ d) (0#3 ++ a) (0#3 ++ b))
  | .pxor s d a b => some (encRRR s 27#6 2#4 (0#4 ++ d) (0#3 ++ a) (0#3 ++ b))
  | .pmov s d a => some (encRRR s 27#6 3#4 (0#4 ++ d) (0#3 ++ a) 0#7)
  | .p2r s d => some (encRRR s 27#6 4#4 d 0#7 0#7)
  | .regToPred s a => some (encRRR s 27#6 5#4 0#7 a 0#7)
  | .qand s d a b => some (encRRR s 27#6 8#4 (0#4 ++ d) (0#3 ++ a) (0#3 ++ b))
  | .qor s d a b => some (encRRR s 27#6 9#4 (0#4 ++ d) (0#3 ++ a) (0#3 ++ b))
  | .qxor s d a b => some (encRRR s 27#6 10#4 (0#4 ++ d) (0#3 ++ a) (0#3 ++ b))
  | .qmov s d a => some (encRRR s 27#6 11#4 (0#4 ++ d) (0#3 ++ a) 0#7)
  | .bra s n c o => some (encBR s 28#6 (BitVec.ofBool n ++ c) o)
  | .ubra s n c o => some (encBR s 29#6 (BitVec.ofBool n ++ c) o)
  | .call s n c o => some (encBR s 30#6 (BitVec.ofBool n ++ c) o)
  | .jr s a => some (encRRR s 31#6 0#4 0#7 a 0#7)
  | .callr s a => some (encRRR s 31#6 1#4 0#7 a 0#7)
  | .reform s => some (encRRR s 31#6 2#4 0#7 0#7 0#7)
  | .exit s => some (encRRR s 31#6 3#4 0#7 0#7 0#7)
  | .brk s c => some (encRRR s 31#6 4#4 0#7 0#7 c)
  | .nop s => some (encRRR s 31#6 5#4 0#7 0#7 0#7)
  | .winb s n => some (encRRR s 31#6 6#4 0#7 0#7 (0#3 ++ n))
  | .uwinb s n => some (encRRR s 31#6 7#4 0#7 0#7 (0#4 ++ n))
  | .tokp s => some (encRRR s 31#6 8#4 0#7 0#7 0#7)
  | .rnd s d => some (encRRR s 31#6 9#4 d 0#7 0#7)
  | .sysc s n => some (encRRR s 31#6 10#4 0#7 0#7 n)
  | .tret s => some (encRRR s 31#6 11#4 0#7 0#7 0#7)
  | .ldB s d a o => some (encMEM s 32#6 d a 0#3 o)
  | .ldSb s d a o => some (encMEM s 32#6 d a 1#3 o)
  | .ldH s d a o => some (encMEM s 32#6 d a 2#3 o)
  | .ldSh s d a o => some (encMEM s 32#6 d a 3#3 o)
  | .ldW s d a o => some (encMEM s 32#6 d a 4#3 o)
  | .ldD s d a o => some (encMEM s 32#6 d a 5#3 o)
  | .ldQ s d a o => some (encMEM s 32#6 d a 6#3 o)
  | .stB s d a o => some (encMEM s 33#6 d a 0#3 o)
  | .stH s d a o => some (encMEM s 33#6 d a 2#3 o)
  | .stW s d a o => some (encMEM s 33#6 d a 4#3 o)
  | .stD s d a o => some (encMEM s 33#6 d a 5#3 o)
  | .stQ s d a o => some (encMEM s 33#6 d a 6#3 o)
  | .lduW s d a o => some (encMEM s 34#6 d a 4#3 o)
  | .lduD s d a o => some (encMEM s 34#6 d a 5#3 o)
  | .ldsW s d a w o => some (encMEM s 35#6 d a w o)
  | .ldsD s d a w o => some (encMEM s 36#6 d a w o)
  | .ldsQ s d a w o => some (encMEM s 37#6 d a w o)
  | .stsW s d a w o => some (encMEM s 38#6 d a w o)
  | .stsD s d a w o => some (encMEM s 39#6 d a w o)
  | .stsQ s d a w o => some (encMEM s 40#6 d a w o)
  | .ldpB s d a o => some (encMEM s 41#6 d a 0#3 o)
  | .ldpSb s d a o => some (encMEM s 41#6 d a 1#3 o)
  | .ldpH s d a o => some (encMEM s 41#6 d a 2#3 o)
  | .ldpSh s d a o => some (encMEM s 41#6 d a 3#3 o)
  | .ldpW s d a o => some (encMEM s 41#6 d a 4#3 o)
  | .ldpD s d a o => some (encMEM s 41#6 d a 5#3 o)
  | .ldpQ s d a o => some (encMEM s 41#6 d a 6#3 o)
  | .stpB s d a o => some (encMEM s 42#6 d a 0#3 o)
  | .stpH s d a o => some (encMEM s 42#6 d a 2#3 o)
  | .stpW s d a o => some (encMEM s 42#6 d a 4#3 o)
  | .stpD s d a o => some (encMEM s 42#6 d a 5#3 o)
  | .stpQ s d a o => some (encMEM s 42#6 d a 6#3 o)
  | .atomAddSi32 s d a o => some (encRRR s 43#6 0#4 d a o)
  | .atomAddF32 s d a o => some (encRRR s 43#6 1#4 d a o)
  | .atomMinSi32 s d a o => some (encRRR s 43#6 2#4 d a o)
  | .atomMaxSi32 s d a o => some (encRRR s 43#6 3#4 d a o)
  | .atomMinUi32 s d a o => some (encRRR s 43#6 4#4 d a o)
  | .atomMaxUi32 s d a o => some (encRRR s 43#6 5#4 d a o)
  | .atomAnd s d a o => some (encRRR s 43#6 6#4 d a o)
  | .atomOr s d a o => some (encRRR s 43#6 7#4 d a o)
  | .atomXor s d a o => some (encRRR s 43#6 8#4 d a o)
  | .atomExchB32 s d a o => some (encRRR s 43#6 9#4 d a o)
  | .atomCasB32 s d a o => some (encRRR s 43#6 10#4 d a o)
  | .atomAddUi64 s d a o => some (encRRR s 43#6 11#4 d a o)
  | .atomExchB64 s d a o => some (encRRR s 43#6 12#4 d a o)
  | .atomCasB64 s d a o => some (encRRR s 43#6 13#4 d a o)
  | .atomLdx s d a o => some (encRRR s 43#6 14#4 d a o)
  | .atomStx s d a o => some (encRRR s 43#6 15#4 d a o)
  | .capr s d a i => some (encRI s 44#6 d a i)
  | .srd s d n => some (encRRR s 45#6 0#4 d 0#7 n)
  | .srdUniform s d n => some (encRRR s 45#6 1#4 d 0#7 n)
  | .swr s a => some (encRRR s 45#6 2#4 0#7 a 14#7)
  | .mredAddSi32 s d a o => some (encRRR s 46#6 0#4 d a o)
  | .mredAddF32 s d a o => some (encRRR s 46#6 1#4 d a o)
  | .mredMinSi32 s d a o => some (encRRR s 46#6 2#4 d a o)
  | .mredMaxSi32 s d a o => some (encRRR s 46#6 3#4 d a o)
  | .mredMinUi32 s d a o => some (encRRR s 46#6 4#4 d a o)
  | .mredMaxUi32 s d a o => some (encRRR s 46#6 5#4 d a o)
  | .mredAnd s d a o => some (encRRR s 46#6 6#4 d a o)
  | .mredOr s d a o => some (encRRR s 46#6 7#4 d a o)
  | .mredXor s d a o => some (encRRR s 46#6 8#4 d a o)
  | .fence s c e => some (encRRR s 47#6 0#4 0#7 0#7 (c ++ e ++ 0#2))
  | .waitc s d a c p => some (encRRR s 47#6 1#4 d a (c ++ 0#2 ++ p))
  | .wake s a c p => some (encRRR s 47#6 2#4 0#7 a (c ++ 0#2 ++ p))
  | .barArr s b => some (encRRR s 47#6 3#4 0#7 0#7 (0#3 ++ b))
  | .barWait s b => some (encRRR s 47#6 4#4 0#7 0#7 (0#3 ++ b))
  | .barSync s b => some (encRRR s 47#6 5#4 0#7 0#7 (0#3 ++ b))
  | .cbacq s d b => some (encRRR s 47#6 6#4 d 0#7 b)
  | .cbrel s a b => some (encRRR s 47#6 7#4 0#7 a b)
  | .cbfill s d b => some (encRRR s 47#6 8#4 d 0#7 b)
  | .cbdone s a b => some (encRRR s 47#6 9#4 0#7 a b)
  | .cpy s c a => some (encRRR s 48#6 0#4 (0#1 ++ c) a 0#7)
  | .cpy2d s c a => some (encRRR s 48#6 1#4 (0#1 ++ c) a 0#7)
  | .cpyred s c a => some (encRRR s 48#6 2#4 (0#1 ++ c) a 0#7)
  | .cpyMx s c a => some (encRRR s 48#6 3#4 (0#1 ++ c) a 0#7)
  | .qfence s c m => some (encRRR s 48#6 4#4 (0#1 ++ c) 0#7 (0#3 ++ m))
  | .qwait s x a y => some (encRRR s 48#6 5#4 (0#1 ++ x) a (0#1 ++ y))
  | .mldSt s n a b => some (encRRR s 49#6 0#4 (0#5 ++ n) a b)
  | .mswap s n => some (encRRR s 49#6 1#4 (0#5 ++ n) 0#7 0#7)
  | .mma s z t a b => some (encRRR s 49#6 2#4 (0#3 ++ BitVec.ofBool z ++ t) a b)
  | .maccRd s d a b => some (encRRR s 49#6 3#4 d a b)
  | .mst s k t a b => some (encRRR s 49#6 4#4 (0#3 ++ BitVec.ofBool k ++ t) a b)
  | .maccClr s t n => some (encRRR s 49#6 5#4 (0#4 ++ t) 0#7 (0#3 ++ n))
  | .mstat s d a => some (encRRR s 49#6 6#4 d a 0#7)
  | .hread s c a => some (encRRR s 50#6 0#4 (0#1 ++ c) a 0#7)
  | .xsort s c a => some (encRRR s 51#6 0#4 (0#1 ++ c) a 0#7)
  | .a2av s c a => some (encRRR s 51#6 1#4 (0#1 ++ c) a 0#7)
  | .areduce s c a => some (encRRR s 51#6 2#4 (0#1 ++ c) a 0#7)
  | .rput s c a => some (encRRR s 52#6 0#4 (0#1 ++ c) a 0#7)
  | .rget s c a => some (encRRR s 52#6 1#4 (0#1 ++ c) a 0#7)
  | .ratom s c a => some (encRRR s 52#6 2#4 (0#1 ++ c) a 0#7)
  | .rflush s c a => some (encRRR s 52#6 3#4 (0#1 ++ c) a 0#7)
  | .kvld s c a d => some (encRRR s 53#6 0#4 (0#1 ++ c) a d)
  | .roost s c a => some (encRRR s 53#6 1#4 (0#1 ++ c) a 0#7)
  | .rouse s c a => some (encRRR s 53#6 2#4 (0#1 ++ c) a 0#7)
  | .lnch s c a => some (encRRR s 54#6 0#4 (0#1 ++ c) a 0#7)
  | .cncl s l a d => some (encRRR s 54#6 1#4 (0#5 ++ l) a d)
  | .gang s c a => some (encRRR s 54#6 2#4 (0#1 ++ c) a 0#7)
  | .psrd s d n => some (encRRR s 55#6 0#4 d 0#7 n)
  | .pswr s a n => some (encRRR s 55#6 1#4 0#7 a n)
  | .guardPrefix n c => some (encBR false 62#6 (BitVec.ofBool n ++ c) 0#21)
  | .resultLand ..  => none
  | .storePerform ..  => none
  | .waitcSoRepeat ..  => none
  | .binAged ..  => none
  | .binRelease ..  => none
  | .syscPostHeld ..  => none
  | .collectivePerform ..  => none
  | .faultEntryPostHeld ..  => none
  | .lastExitRelease ..  => none
  | .kernelBoundary ..  => none
  | .asyncTrapEntry ..  => none
  | .mldStPerform ..  => none
  | .mswapPerform ..  => none
  | .mmaPerform ..  => none
  | .mstPerform ..  => none
  | .maccClrPerform ..  => none
  | .maccRdLand ..  => none
  | .mstatLand ..  => none
  | .arrayUncorrectableError ..  => none
  | .engineEntryStart ..  => none
  | .cpyComplete ..  => none
  | .cpyredChunkApply ..  => none
  | .copyReplay ..  => none
  | .qfenceComplete ..  => none
  | .qwaitComplete ..  => none
  | .hreadBurstArrive ..  => none
  | .hreadBurstFetchFail ..  => none
  | .dripBirth ..  => none
  | .xsortComplete ..  => none
  | .groupInstanceBegin ..  => none
  | .groupWithdrawal ..  => none
  | .a2avCountExchange ..  => none
  | .a2avPartPlaced ..  => none
  | .areduceComplete ..  => none
  | .rmaRequestReceive ..  => none
  | .rputComplete ..  => none
  | .rgetComplete ..  => none
  | .ratomComplete ..  => none
  | .rflushComplete ..  => none
  | .kvldStatusLand ..  => none
  | .roostRegistered ..  => none
  | .rouseArrive ..  => none
  | .gangPrepare ..  => none
  | .gangDecision ..  => none
  | .gangCommit ..  => none
  | .gangAbort ..  => none
  | .gangTickDispatch ..  => none
  | .preemptRequest ..  => none
  | .preemptGraceExpiry ..  => none
  | .saveDeadlineExpiry ..  => none
  | .ctxopSave ..  => none
  | .ctxopRestore ..  => none
  | .accdatWrite ..  => none
  | .accstatWrite ..  => none
  | .resumeStart ..  => none
  | .syscReplyDoorbell ..  => none
  | .syscAlloc ..  => none
  | .syscFree ..  => none
  | .kick ..  => none
  | .queueEntryTake ..  => none
  | .ctrlResume ..  => none
  | .ctrlCancel ..  => none
  | .ctrlClose ..  => none
  | .claimUnit ..  => none
  | .claimFree ..  => none
  | .priorityRise ..  => none
  | .dispatchUnit ..  => none
  | .starvationPreempt ..  => none
  | .localityScoreHalve ..  => none
  | .throttleSwap ..  => none
  | .invalidationRequest ..  => none
  | .invalidationComplete ..  => none
  | .fillDataReceive ..  => none
  | .waiterRunWake ..  => none
  | .postFillHoldExpiry ..  => none
  | .evictionComplete ..  => none
  | .uncorrectableMemoryError ..  => none
  | .homeRds ..  => none
  | .homeRdx ..  => none
  | .homeUpg ..  => none
  | .homeWb ..  => none
  | .homeEve ..  => none
  | .homeAckReceive ..  => none
  | .homeMemoryWriteDone ..  => none
  | .agentFwds ..  => none
  | .agentFwdx ..  => none
  | .agentInv ..  => none
  | .agentDataReceive ..  => none
  | .agentGrantReceive ..  => none
  | .agentWbackReceive ..  => none
  | .agentWbstaleReceive ..  => none
  | .agentLineDrop ..  => none
  | .shardGets ..  => none
  | .shardGetx ..  => none
  | .shardWbrel ..  => none
  | .shardDrop ..  => none
  | .shardHomeAck ..  => none
  | .shardRecallAck ..  => none
  | .holderRecall ..  => none
  | .ownerXferS ..  => none
  | .ownerXferX ..  => none
  | .tenureEnd ..  => none
  | .lookupAckReceive ..  => none
  | .wbackReceive ..  => none
  | .staleReceive ..  => none
  | .heldReceive ..  => none
  | .homeWriteTimeout ..  => none
  | .attemptTimeout ..  => none
  | .backoffExpiry ..  => none
  | .victimRetry ..  => none
  | .frameAging ..  => none
  | .installClean ..  => none
  | .installDirty ..  => none
  | .retry ..  => none
  | .kill ..  => none
  | .pin ..  => none
  | .unpin ..  => none
  | .dirset ..  => none
  | .roostT1Expiry ..  => none
  | .roostT2Expiry ..  => none
  | .pageDescentDone ..  => none
  | .pageAscentDone ..  => none
  | .checkpointSave => none
  | .checkpointRestore => none
  | .checkpointAbort => none
  | .checkpointDrainDone => none
  | .checkpointSegmentDone ..  => none
  | .packetReceive ..  => none
  | .retransmitTimeout ..  => none
  | .ackReceive ..  => none
  | .rateRiseTick ..  => none
  | .ptpSync ..  => none
  | .dieFlitReceive ..  => none
  | .linkUnitReceive ..  => none
  | .linkUnitClose ..  => none
  | .linkKeyRenew ..  => none
  | .firmwareActivation ..  => none
  | .getVersion ..  => none
  | .getCapabilities ..  => none
  | .negotiateAlgorithms ..  => none
  | .getDigests ..  => none
  | .getCertificate ..  => none
  | .challenge ..  => none
  | .getMeasurements ..  => none
  | .keyExchange ..  => none
  | .finish ..  => none
  | .heartbeat ..  => none
  | .keyUpdate ..  => none
  | .endSession ..  => none
  | .spdmUnsupportedRequest ..  => none
  | .leaseAttestation ..  => none
  | .leaseRenewalDue ..  => none
  | .leaseBusyRetry ..  => none
  | .leaseExpiry ..  => none
  | .leaseKeyGraceEnd ..  => none
  | .leaseChangeReceive ..  => none
  | .sessionKeyDistribution ..  => none
  | .epochAdvance ..  => none
  | .epochOverlapEnd ..  => none
  | .worldLatch ..  => none
  | .worldCreate ..  => none
  | .worldTeardown ..  => none
  | .ringDoorbell ..  => none
  | .rcmdEnable ..  => none
  | .rcmdResume ..  => none
  | .rcmdDisable ..  => none
  | .ringRekey ..  => none
  | .sampleTick ..  => none
  | .dcmdHalt ..  => none
  | .dcmdResume ..  => none
  | .dcmdStep ..  => none
  | .prefetchTick ..  => none
  | .powerOn ..  => none
  | .powerStateChange ..  => none
  | .thermalThreshold ..  => none
  | .registerWrite ..  => none
  | .portDown ..  => none
  | .portUp ..  => none
  | .ptpLockLoss => none
  | .deviceReset => none
  | .powerLoss => none
  | .jobOpen ..  => none
  | .grantReceive ..  => none
  | .liveActivationEnd ..  => none

end Sys2Proof
end

