-- ==== Sys2Proof/Machine/Lines.lean ====
section
/-! DEFINITION. The MOESI directory of HBM lines: homes, agents, the messages between them, and the access of an agent
that takes part in it (R348, R364 to R371); the L1s and their victim tags (R347). The bytes of memory are one coherent
store in this model: what the directory decides is which agents hold a line, and in which state. -/

namespace Sys2Proof.Machine

/-! ## Homes (R348) -/

/-- The die that holds a PA of local HBM. -/
def hbmDie (pa : Nat) : Nat := pa / 2 ^ 38

/-- The stack that holds a PA: within a die, by PA[13:12]. -/
def hbmStack (pa : Nat) : Nat := 4 * hbmDie pa + pa / 4096 % 4

/-! ## Lines -/

def Line.new (addr : Nat) : Line := ⟨addr, .hi, [], [], [], [], []⟩

/-- The lines of HBM that are not at rest, with the messages under way. -/
structure Net where
  lines : List Line
  flying : List Event
  deriving DecidableEq, Repr

def State.net (s : State) : Net := ⟨s.lines, s.flying⟩

def Net.line (n : Net) (addr : Nat) : Line := (n.lines.find? (·.addr == addr)).getD (Line.new addr)

def State.line (s : State) (addr : Nat) : Line := s.net.line addr

/-- Puts a line back; one that no agent holds and nothing concerns is not listed. -/
def Net.putLine (n : Net) (l : Line) : Net :=
  let rest := n.lines.filter (·.addr != l.addr)
  { n with lines := if l = Line.new l.addr then rest else rest ++ [l] }

def Line.agent (l : Line) (a : Nat) : AgentSt := tabGet l.agents .i a
def Line.setAgent (l : Line) (a : Nat) (st : AgentSt) : Line := { l with agents := tabPut l.agents .i a st }

/-- The agent holds the line's data. -/
def AgentSt.holds : AgentSt → Bool
  | .s | .e | .o | .m | .sm => true
  | _ => false

/-- The number of the network die among the agents (R364). -/
def npAgent : Nat := 5

/-! ## Channels (R366) -/

/-- The event of a message to an agent. -/
def Snoop.event (m : Snoop) (addr a : Nat) : Event :=
  match m with
  | .fwdS => .agentFwds addr a
  | .fwdX => .agentFwdx addr a
  | .inv => .agentInv addr a
  | .dataS | .dataE | .dataM => .agentDataReceive addr a
  | .grant => .agentGrantReceive addr a
  | .wback | .ack => .agentWbackReceive addr a
  | .wbstale => .agentWbstaleReceive addr a

/-- The channel of a message: requests, snoops, responses to agents, responses to homes; the agent; the home. A memory
write concerns its line alone. -/
def Event.channel : Event → Option (Nat × Nat × Nat)
  | .homeRds l a | .homeRdx l a | .homeUpg l a | .homeWb l a | .homeEve l a => some (0, a, hbmStack l)
  | .agentFwds l a | .agentFwdx l a | .agentInv l a => some (1, a, hbmStack l)
  | .agentDataReceive l a | .agentGrantReceive l a | .agentWbackReceive l a | .agentWbstaleReceive l a => some (2, a, hbmStack l)
  | .homeAckReceive l a => some (3, a, hbmStack l)
  | .homeMemoryWriteDone l => some (4, 0, l)
  | _ => none

/-- No message sent earlier on the same channel is still under way. -/
def Net.inTurn (n : Net) (e : Event) : Bool :=
  match n.flying.find? fun x => x.channel == e.channel with
  | some x => x == e
  | none => true

/-- A line with messages to send. -/
def Net.sendLine (n : Net) (l : Line) (ms : List (Nat × Snoop)) : Net :=
  let n := n.putLine { l with snoops := l.snoops ++ ms }
  { n with flying := n.flying ++ ms.map fun m => m.2.event l.addr m.1 }

def Net.fly (n : Net) (e : Event) : Net := { n with flying := n.flying ++ [e] }

/-! ## The home (R367) -/

def HomeSt.busy : HomeSt → Bool
  | .busyF .. | .busyX .. | .busyWb .. => true
  | _ => false

/-- A set of agents, ascending. -/
def addAgent (a : Nat) (l : List Nat) : List Nat := if l.contains a then l else insertBy (fun x y => decide (x < y)) a l

/-- The home serves one request: the line with its messages. An owner sends its data to the requester itself. -/
def Line.serve (l : Line) (r : Req) (a : Nat) : Line × List (Nat × Snoop) :=
  let l := { l with reqs := l.reqs.filter (· != (r, a)) }
  let await := fun (l : Line) (left : List Nat) (grant : Bool) =>
    if left.isEmpty then { l with home := .hx a } else { l with home := .busyX a left grant }
  let invs := fun (left : List Nat) => left.map fun b => (b, Snoop.inv)
  let rdx := fun (l : Line) =>
    let l := l.setAgent a .im
    match l.home with
    | .hs set =>
      let left := set.filter (· != a)
      (await l left false, (a, .dataM) :: invs left)
    | .hx o => if o = a then (l, [(a, .dataM)]) else (await l [o] false, [(o, .fwdX)])
    | .ho o set =>
      let left := set.filter fun b => b != a && b != o
      if o = a then (await l left false, (a, .dataM) :: invs left) else (await l (o :: left) false, (o, .fwdX) :: invs left)
    | _ => (await l [] false, [(a, .dataM)])
  let upg := fun (l : Line) (left : List Nat) =>
    (await l left true, if left.isEmpty then [(a, Snoop.grant)] else invs left)
  match r with
  | .rds =>
    let l := l.setAgent a .is
    match l.home with
    | .hs set => ({ l with home := .hs (addAgent a set) }, [(a, .dataS)])
    | .hx o => if o = a then (l, [(a, .dataE)]) else ({ l with home := .busyF o a [] }, [(o, .fwdS)])
    | .ho o set => ({ l with home := .busyF o a set }, [(o, .fwdS)])
    | _ => ({ l with home := .hx a }, [(a, .dataE)])
  | .rdx => rdx l
  | .upg =>
    match l.home with
    | .hs set => if set.contains a then upg l (set.filter (· != a)) else rdx l
    | .ho o set => if o = a || set.contains a then upg l ((o :: set).filter (· != a)) else rdx l
    | _ => rdx l
  | .wb =>
    match l.home with
    | .hx o => if o = a then ({ l with home := .busyWb a [] }, []) else (l, [(a, .wbstale)])
    | .ho o set => if o = a then ({ l with home := .busyWb a set }, []) else (l, [(a, .wbstale)])
    | _ => (l, [(a, .wbstale)])
  | .eve =>
    match l.home with
    | .hx o => (if o = a then { l with home := .hi } else l, [(a, .ack)])
    | _ => (l, [(a, .ack)])

/-- A home takes its waiting requests in arrival order until one keeps it busy; `fuel` bounds them. -/
def Net.homeRun (n : Net) (addr : Nat) : Nat → Net
  | 0 => n
  | k + 1 =>
    let l := n.line addr
    match l.reqs with
    | [] => n
    | (r, a) :: _ =>
      if l.home.busy then n
      else
        let (l, ms) := l.serve r a
        let n := n.sendLine l ms
        let n := match l.home with
          | .busyWb _ _ => n.fly (.homeMemoryWriteDone addr)
          | _ => n
        Net.homeRun n addr k

/-- A request reaches its home: it waits behind those already there (R366). -/
def Net.homeTake (n : Net) (addr : Nat) (r : Req) (a : Nat) : Net :=
  let l := n.line addr
  let l := if l.reqs.contains (r, a) then l else { l with reqs := l.reqs ++ [(r, a)] }
  (n.putLine l).homeRun addr (l.reqs.length + 1)

/-- An agent number and a line address. -/
def lineOk (addr a : Nat) : Bool := decide (a < 6) && addr % 128 == 0 && decide (addr < hbmTop)

/-- An answer to a forward or an invalidation reaches the home (R367): once all have come, an upgrading requester gets its
Grant, and the home its stable state. -/
def Line.acked (l : Line) (a : Nat) : Line × List (Nat × Snoop) :=
  match l.home with
  | .busyF o r set =>
    if a ≠ o then (l, [])
    else
      let dirty := match l.agent o with
        | .o | .mi | .oi => true
        | _ => false
      ({ l with home := if dirty || !set.isEmpty then .ho o (addAgent r set) else .hs (addAgent r [o]) }, [])
  | .busyX r left grant =>
    if !left.contains a then (l, [])
    else
      let left := left.filter (· != a)
      if left.isEmpty then ({ l with home := .hx r }, if grant then [(r, .grant)] else [])
      else ({ l with home := .busyX r left grant }, [])
  | _ => (l, [])

/-- An acknowledgement reaches the home. -/
def Net.homeAck (n : Net) (addr a : Nat) : Net :=
  let l := n.line addr
  if !l.acks.contains a then n
  else
    let (l, ms) := { l with acks := l.acks.filter (· != a) }.acked a
    (n.sendLine l ms).homeRun addr (l.reqs.length + 1)

/-- A write-back is in memory. -/
def Net.written (n : Net) (addr : Nat) : Net :=
  let l := n.line addr
  match l.home with
  | .busyWb a set =>
    let l := { l with home := if set.isEmpty then .hi else .hs set }
    (n.sendLine l [(a, .wback)]).homeRun addr (l.reqs.length + 1)
  | _ => n

/-! ## The agents (R364, R368) -/

/-- An agent takes a message under way to it. -/
def Line.took (l : Line) (a : Nat) (p : Snoop → Bool) : Option (Snoop × Line) :=
  match l.snoops.find? fun m => m.1 == a && p m.2 with
  | some m => some (m.2, { l with snoops := l.snoops.filter (· != m) })
  | none => none

/-- A snoop that an agent answers now: its next state (R368). An agent that owns a line whose Upg waits goes on awaiting
data. Agent 5 keeps no line as its owner. -/
def Line.answer (l : Line) (a : Nat) (m : Snoop) : AgentSt :=
  let gone : AgentSt := if l.reqs.contains (.upg, a) then .im else .i
  match m, l.agent a with
  | .fwdS, .m => .o
  | .fwdS, .e => .s
  | .fwdS, x => x
  | _, .mi | _, .oi | _, .ii => .ii
  | _, .sm => .im
  | _, .im => .im
  | _, .is => .is
  | _, _ => gone

/-- Whom a forward that this line's home has sent is for. -/
def Line.requester (l : Line) : Option Nat :=
  match l.home with
  | .busyF _ r _ => some r
  | .busyX r _ _ => some r
  | _ => none

/-- The data that the answer to a forward brings to the requester. -/
def Snoop.data : Snoop → Option Snoop
  | .fwdS => some .dataS
  | .fwdX => some .dataM
  | _ => none

/-- An agent answers a snoop: data to the requester of a forward, an acknowledgement to the home. -/
def Net.answer (n : Net) (l : Line) (a : Nat) (m : Snoop) : Net :=
  let l' := { (l.setAgent a (l.answer a m)) with acks := addAgent a l.acks }
  (n.sendLine l' (match m.data, l.requester with
    | some d, some r => [(r, d)]
    | _, _ => [])).fly (.homeAckReceive l.addr a)

/-- A snoop reaches an agent. A forward to an agent that awaits data is deferred, and so is any snoop to agent 5 during an
operation of the network processor; any other is answered. -/
def Net.snooped (n : Net) (addr a : Nat) (m : Snoop) : Net :=
  let l := n.line addr
  match l.took a (· == m) with
  | none => n
  | some (_, l) =>
    let waits : Bool := match l.agent a with
      | .is | .im => m != .inv
      | .s | .e | .m => a == npAgent
      | _ => false
    if waits then n.putLine { l with deferred := l.deferred ++ [(a, m)] } else n.answer l a m

/-- Snoops that an agent deferred are answered now. -/
def Net.undefer (n : Net) (addr a : Nat) : Net :=
  let l := n.line addr
  let mine := (l.deferred.filter (·.1 == a)).map (·.2)
  mine.foldl (fun n m => n.answer (n.line addr) a m) (n.putLine { l with deferred := l.deferred.filter (·.1 != a) })

/-- Requested data, or a Grant, reaches an agent; the access that asked for it is performed, and snoops that it deferred are
answered, by agent 5 when its operation ends. -/
def Net.received (n : Net) (addr a : Nat) (p : Snoop → Bool) : Net :=
  match (n.line addr).took a p with
  | none => n
  | some (m, l) =>
    let st : AgentSt := match m with
      | .dataS => .s
      | .dataE => .e
      | .wback | .wbstale => .i
      | .ack => l.agent a
      | _ => .m
    let n := n.putLine (l.setAgent a st)
    if (a == npAgent && st != .i) || m == .ack then n else n.undefer addr a

/-- An agent drops a line: WB from M or O, EvE from E, nothing from S; agent 5's operation on it has then ended. -/
def Net.dropLine (n : Net) (addr a : Nat) : Net :=
  let l := n.line addr
  if !lineOk addr a || l.reqs.contains (.upg, a) then n
  else
    let n := match l.agent a with
      | .s => n.putLine (l.setAgent a .i)
      | .e => (n.putLine { (l.setAgent a .i) with reqs := l.reqs ++ [(.eve, a)] }).fly (.homeEve addr a)
      | .m => (n.putLine (l.setAgent a .mi)).fly (.homeWb addr a)
      | .o => (n.putLine (l.setAgent a .oi)).fly (.homeWb addr a)
      | _ => n
    if a == npAgent && (l.agent a).holds then n.undefer addr a else n

/-! ## Requests (R367) -/

/-- RdS of an agent that holds nothing. -/
def Net.rds (n : Net) (addr a : Nat) : Net :=
  let l := n.line addr
  if !lineOk addr a || !(l.agent a == .i) then n else (n.putLine (l.setAgent a .is)).homeTake addr .rds a

/-- RdX of an agent that holds nothing. -/
def Net.rdx (n : Net) (addr a : Nat) : Net :=
  let l := n.line addr
  if !lineOk addr a || !(l.agent a == .i) then n else (n.putLine (l.setAgent a .im)).homeTake addr .rdx a

/-- Upg of an agent that holds S or O; agent 5 sends none. -/
def Net.upg (n : Net) (addr a : Nat) : Net :=
  let l := n.line addr
  if !lineOk addr a || a == npAgent || !(l.agent a == .s || l.agent a == .o) || l.reqs.contains (.upg, a) then n
  else (n.putLine (if l.agent a == .s then l.setAgent a .sm else l)).homeTake addr .upg a

/-- WB of an agent that is giving the line up. -/
def Net.wb (n : Net) (addr a : Nat) : Net :=
  let l := n.line addr
  if !lineOk addr a || !(l.agent a == .mi || l.agent a == .oi || l.agent a == .ii) then n else n.homeTake addr .wb a

/-- EvE of an agent that has dropped an E line. -/
def Net.eve (n : Net) (addr a : Nat) : Net :=
  if !lineOk addr a || !((n.line addr).reqs.contains (.eve, a)) then n else n.homeTake addr .eve a

/-! ## Delivery -/

def Snoop.isData : Snoop → Bool
  | .dataS | .dataE | .dataM => true
  | _ => false

/-- What the arrival of a message does. -/
def Net.deliver (n : Net) (e : Event) : Net :=
  match e with
  | .homeRds l a => n.rds l a
  | .homeRdx l a => n.rdx l a
  | .homeUpg l a => n.upg l a
  | .homeWb l a => n.wb l a
  | .homeEve l a => n.eve l a
  | .homeAckReceive l a => n.homeAck l a
  | .homeMemoryWriteDone l => n.written l
  | .agentFwds l a => n.snooped l a .fwdS
  | .agentFwdx l a => n.snooped l a .fwdX
  | .agentInv l a => n.snooped l a .inv
  | .agentDataReceive l a => n.received l a Snoop.isData
  | .agentGrantReceive l a => n.received l a (· == .grant)
  | .agentWbackReceive l a => n.received l a fun m => m == .wback || m == .ack
  | .agentWbstaleReceive l a => n.received l a (· == .wbstale)
  | .agentLineDrop l a => n.dropLine l a
  | _ => n

/-- Everything under way arrives, in the order of sending, and operations of agent 5 that a snoop waits for end. -/
def Net.drain : Nat → Net → Net
  | 0, n => n
  | k + 1, n =>
    match n.flying with
    | e :: r => Net.drain k (Net.deliver { n with flying := r } e)
    | [] =>
      match n.lines.find? fun l => l.deferred.any (·.1 == npAgent) with
      | some l => Net.drain k (n.dropLine l.addr npAgent)
      | none => n

/-- Enough deliveries for what a net holds and one request more. -/
def Net.fuel (n : Net) : Nat :=
  64 + 32 * (n.flying.length + (n.lines.map fun l => l.reqs.length + l.deferred.length + l.acks.length).sum)

def Net.rest (n : Net) : Net := n.drain n.fuel

/-- The net after an access of an agent to a line, a whole transaction: what is under way comes first, the agent gets the
line as the access needs it, and a write leaves it in M (R133, R364, R368). Agent 5 gives it up again. -/
def Net.use (n : Net) (a : Nat) (write : Bool) (addr : Nat) : Net :=
  let n := if n.flying.isEmpty then n else n.rest
  let n := match (n.line addr).agent a, write with
    | .m, _ | .e, _ | .o, false | .s, false => n
    | .s, true | .o, true => (n.upg addr a).rest
    | _, false => (n.rds addr a).rest
    | _, true => (n.rdx addr a).rest
  let n := if write && (n.line addr).agent a == .e then n.putLine ((n.line addr).setAgent a .m) else n
  if a == npAgent then (n.dropLine addr a).rest else n

/-- Lines that the L2 of a die holds at most: 48 MiB of 128 B lines (R17, R116). -/
def l2Lines : Nat := 48 * 2 ^ 20 / 128

/-- A die whose L2 holds more lines than fit gives one up, other than the one just used (R17, R116). -/
def Net.fit (n : Net) (a addr : Nat) : Net :=
  let held := n.lines.filter fun l => (l.agent a).holds
  if a ≥ 4 || decide (held.length ≤ l2Lines) then n
  else
    let old := held.filter (·.addr != addr)
    match old[Config.l2Victim old.length % old.length]? with
    | some l => (n.dropLine l.addr a).rest
    | none => n

/-! ## The directory in the state -/

/-- L1 copies that an agent surrenders: a core's of a line that its die does not hold (R364, R370). -/
def surrender (n : Net) (l1 : Tab (List (Place × Nat))) : Tab (List (Place × Nat)) :=
  l1.filterMap fun x =>
    match x.2.filter fun p => match p.1 with
      | .mem pa => ((n.line pa).agent (x.1 / 64)).holds
      | _ => true with
    | [] => none
    | l => some (x.1, l)

/-- A write invalidates the copies of its lines in the L1s of every core but the writer's (R124). -/
def l1Drop (keep : Nat) (addrs : List Nat) (l1 : Tab (List (Place × Nat))) : Tab (List (Place × Nat)) :=
  l1.filterMap fun x =>
    if x.1 = keep then some x
    else match x.2.filter fun p => match p.1 with
        | .mem pa => !addrs.contains pa
        | _ => true with
      | [] => none
      | l => some (x.1, l)

/-- A message of the directory arrives in its turn, and those that it causes set out; one that comes too early waits. -/
def State.netStep (s : State) (e : Event) : State :=
  if !s.net.inTurn e then s.arm e
  else
    let out := Net.deliver { s.net with flying := s.flying.erase e } e
    let new := out.flying.drop (s.flying.erase e).length
    new.foldl State.arm { s with
      lines := out.lines
      flying := out.flying
      l1 := if s.l1.isEmpty then s.l1 else surrender out s.l1 }

/-- The 128 B lines of a range. -/
def linesOf (pa len : Nat) : List Nat :=
  if len = 0 then [] else (List.range ((pa + len - 1) / 128 - pa / 128 + 1)).map fun k => (pa / 128 + k) * 128

/-- The number that stands for no core of the device: accesses that no core makes meet no private page. -/
def noCore : Nat := 256

/-- An access of an agent to lines of HBM takes part in the directory; a write leaves copies in the L1 of the core `keep`
alone, which is the one whose crew writes (R124, R364). -/
def State.useLines (s : State) (a keep : Nat) (write : Bool) (addrs : List Nat) : State :=
  let n := addrs.foldl (fun n l => (n.use a write l).fit a l) s.net
  { s with
    lines := n.lines
    flying := n.flying
    l1 := if s.l1.isEmpty then s.l1
      else if write then l1Drop keep addrs (surrender n s.l1) else surrender n s.l1
    agenda := if s.flying.isEmpty then s.agenda else s.agenda.filter fun e => e.channel.isNone || !s.flying.contains e }

/-- The network processor reads or writes a range of HBM: an operation of agent 5 on each of its lines. A line that no agent
holds is afterwards as before, so those that are listed are the ones to use. -/
def State.useNp (s : State) (write : Bool) (pa len : Nat) : State :=
  s.useLines npAgent noCore write ((s.lines.map (·.addr)).filter fun l => decide (pa < l + 128) && decide (l < pa + len))

/-- A store of the network processor. -/
def State.npStore (s : State) (pa : Nat) (l : List Byte) : State := (s.useNp true pa l.length).storePA pa l

/-- Every line of a page of memory is recalled through its home by an exclusive read of the network processor's own, and
ends in HI (R370). -/
def State.recallLines (s : State) (pa : Nat) : State := s.useNp true pa pageBytes

/-! ## L1s and victim tags (R347) -/

/-- Entries of a victim tag array. -/
def vtagSize : Nat := 2048

/-- The line of a target that an L1 may hold. -/
def Target.line : Target → Option Place
  | .mem pa => some (.mem (pa / 128 * 128))
  | .priv c off => some (.priv c (off / 128 * 128))
  | _ => none

/-- Elements at the positions of a list of numbers, and the rest. -/
def splitAt' {α : Type} (ks : List Nat) (l : List α) : List α × List α :=
  ((l.zipIdx.filter fun x => ks.contains x.2).map (·.1), (l.zipIdx.filter fun x => !ks.contains x.2).map (·.1))

/-- Lines that an L1 holds at most: 256 KiB of 128 B lines (R17, R116). -/
def l1Lines : Nat := 256 * 2 ^ 10 / 128

/-- A line comes into an L1, or is used there: the lines held, last used first, and those that go. Which go is free, but
that no more stay than fit (R17, R116). -/
def l1Use (held : List (Place × Nat)) (x : Place × Nat) : List (Place × Nat) × List (Place × Nat) :=
  match held.find? (·.1 == x.1) with
  | some y => (y :: held.filter (·.1 != x.1), [])
  | none =>
    let (out, keep) := splitAt' (Config.l1Evicts (held.map (·.1.addr)) x.1.addr) held
    (x :: keep.take (l1Lines - 1), keep.drop (l1Lines - 1) ++ out)

/-- A crew's access to a line passes through the L1 of its core: the line is brought in and others may go, whose tags are
kept. -/
def State.l1Fill (s : State) (core uid : Nat) (p : Place) : State :=
  let (held, out) := l1Use (tabGet s.l1 [] core) (p, uid)
  { s with
    l1 := tabPut s.l1 [] core held
    vtags := if out.isEmpty then s.vtags else tabPut s.vtags [] core ((out ++ tabGet s.vtags [] core).take vtagSize) }

/-- The access misses, and a victim tag of the same crew names its line (R347). -/
def State.lostLine (s : State) (core uid : Nat) (p : Place) : Bool :=
  !((tabGet s.l1 [] core).any (·.1 == p)) && (tabGet s.vtags [] core).contains (p, uid)

/-! ## The throttle (R347) -/

/-- Crews a core allows, by the sum of its scores. -/
def crewsAllowed (sum : Nat) : Option Nat :=
  if sum < 32 then none else if sum < 128 then some 16 else if sum < 512 then some 8 else some 4

/-- The lost-locality score of a crew. -/
def State.score (s : State) (uid : Nat) : Nat := tabGet s.scores 0 uid

/-- Crews of a core by rank: highest score, then lower quarter, then lower slot. -/
def State.ranked (s : State) (core : Nat) : List Crew :=
  sortBy (fun (a b : Crew) => decide (s.score a.uid > s.score b.uid) || (s.score a.uid == s.score b.uid &&
    (decide (a.quarter < b.quarter) || (a.quarter == b.quarter && decide (a.slot < b.slot)))))
    (s.crews.filter fun c => c.core == core && c.drip.isNone)

/-- Which crews of a core are held: those that swap in for 256 clk are allowed, and of the others as many as are left. A crew
that begins to be held may take the place of an allowed one when it has been held for 1,024 clk. -/
def State.throttle (s : State) (core : Nat) : State :=
  let r := s.ranked core
  let all := r.map fun (c : Crew) => c.uid
  let keep : List Nat := match crewsAllowed (r.map fun (c : Crew) => s.score c.uid).sum with
    | none => all
    | some n =>
      let in' := all.filter s.swapped.contains
      in' ++ (all.filter fun u => !s.swapped.contains u).take (n - in'.length)
  let held := all.filter fun u => !keep.contains u
  let new := held.filter fun u => !s.throttled.contains u
  new.foldl (fun s u => s.arm (.throttleSwap u)) { s with throttled := (s.throttled.filter fun u => !all.contains u) ++ held }

/-- A crew's access loses locality: its score rises. -/
def State.scoreRise (s : State) (core uid : Nat) : State :=
  State.throttle { s with scores := tabPut s.scores 0 uid (s.score uid + 1) } core

/-! ## An access of a crew -/

/-- A crew's access to memory passes through the L1 of its core, and takes part in the directory as one of the L2 of its die
(R347, R364, R371). An access to a strongly ordered page passes both by. -/
def State.cached (s : State) (core uid : Nat) (t : Target) (write : Bool) : State :=
  match t.line with
  | none => s
  | some p =>
    let s := if s.lostLine core uid p then s.scoreRise core uid else s
    let s := match p with
      | .mem pa => s.useLines (core / 64) core write [pa]
      | _ => s
    s.l1Fill core uid p

end Sys2Proof.Machine
end

