-- ==== Sys2Proof/Machine/Atomics.lean ====
section
/-! DEFINITION. The functions of atomic operations (R133, R159, R215, R284). -/

namespace Sys2Proof.Machine

/-- The reduction functions of R159, FN 0 to 8, on a 4 B value: the new value and the flags of the addition. -/
def redFn (fn : Nat) (m v : Word) : Word × Flags :=
  match fn with
  | 0 => (m + v, 0)
  | 1 => setF32 .fadd m v 0
  | 2 => setI .minS m v
  | 3 => setI .maxS m v
  | 4 => setI .minU m v
  | 5 => setI .maxU m v
  | 6 => (m &&& v, 0)
  | 7 => (m ||| v, 0)
  | _ => (m ^^^ v, 0)

/-- Bytes of the word that an atomic function acts on. -/
def atomSize (fn : Nat) : Nat := if fn = 11 || fn = 12 || fn = 13 then 8 else 4

/-- The functions of R159 on the old value: FN 0 to 8 as reductions, exchange, compare and swap, ldx, stx. `v` is the
value, or the new value of a compare and swap, whose compare value is `cmp`. -/
def atomFn (fn : Nat) (m v cmp : BitVec 64) : BitVec 64 × Flags :=
  if fn ≤ 8 then
    let r := redFn fn (lo32 m) (lo32 v)
    (r.1.setWidth 64, r.2)
  else match fn with
    | 9 => (v, 0)
    | 10 => (if lo32 m = lo32 cmp then v else m, 0)
    | 11 => (m + v, 0)
    | 12 => (v, 0)
    | 13 => (if m = cmp then v else m, 0)
    | 14 => (m, 0)
    | _ => (v, 0)

/-- Registers an atomic function reads from x(D) on. -/
def atomOperands (fn : Nat) : Nat :=
  match fn with
  | 10 | 11 | 12 => 2
  | 13 => 4
  | 14 => 0
  | _ => 1

/-- Value and compare value from operand words in register order. -/
def atomArgs (fn : Nat) (w : Nat → Word) : BitVec 64 × BitVec 64 :=
  match fn with
  | 10 => ((w 1).setWidth 64, (w 0).setWidth 64)
  | 11 | 12 => (pair64 (w 1) (w 0), 0)
  | 13 => (pair64 (w 3) (w 2), pair64 (w 1) (w 0))
  | _ => ((w 0).setWidth 64, 0)

end Sys2Proof.Machine
end

