-- ==== Sys2Proof/Machine/Stores.lean ====
section
/-! DEFINITION. Accesses that are performed after their instruction: accepted stores, the rows of kvld, the second halves
of 16 B accesses; and the regions that end once all of theirs are (R105, R118, R119, R123, R129, R209). -/

namespace Sys2Proof.Machine

/-! ## Scratchpad ranges -/

/-- Bytes of a block's scratchpad, addressed unswizzled and swizzled with mode `m` (R264). -/
def BUnit.readSpad (u : BUnit) (m a n : Nat) : List Byte := (List.range n).map fun i => readB u.spad (spadKey m (a + i))

/-- A range of a block's scratchpad holds a granule that an uncorrectable error has hit (R260). -/
def BUnit.spadBroken (u : BUnit) (m a n : Nat) : Bool :=
  !u.spadPoison.isEmpty && (granules a n).any fun g => u.spadPoison.contains (spadKey m g / 4)

def BUnit.writeSpad (u : BUnit) (m a : Nat) : List Byte → BUnit
  | [] => u
  | b :: r => ({ u with spad := writeB u.spad (spadKey m a) b }).writeSpad m (a + 1) r

/-- The same; the granules that it writes whole hold good data again. -/
def BUnit.putSpad (u : BUnit) (m a : Nat) (l : List Byte) : BUnit :=
  let u' := u.writeSpad m a l
  if u.spadPoison.isEmpty then u'
  else
    let whole := ((granules a l.length).filter fun g => decide (a ≤ g) && decide (g + 4 ≤ a + l.length)).map fun g => spadKey m g / 4
    { u' with spadPoison := u.spadPoison.filter fun g => !whole.contains g }

/-- The 16 B chunks of a range, by first address. -/
def chunks16 (a len : Nat) : List Nat :=
  if len = 0 then [] else (List.range ((a + len - 1) / 16 - a / 16 + 1)).map fun k => (a / 16 + k) * 16

/-- Writes a block's scratchpad and wakes the monitors armed there. -/
def State.spadWrite (s : State) (uid m a : Nat) (l : List Byte) : State :=
  (chunks16 a l.length).foldl (fun s c => s.wakeRange (.spad uid (spadKey m c)) 16)
    (s.onUnit uid fun u => u.putSpad m a l)

/-! ## Accepted stores (R209, R123) -/

/-- The landing that an accepted atomic brings its old value to. -/
def StoreOp.lands : StoreOp → Option Nat
  | .rmw _ _ _ l => some l
  | _ => none

/-- The ranges that a store touches. -/
def PStore.ranges (p : PStore) : List (Place × Nat) :=
  match p.op with
  | .bytes l => [(p.place, l.length)]
  | .words l => (List.range l.length).map fun i => (p.place.plus (4 * crewWidth * i), 4)
  | .red .. => [(p.place, 4)]
  | .rmw fn .. => [(p.place, atomSize fn)]

/-- A store touches a granule of a range: the writes of a granule have one order, whichever of its bytes they are to
(R123). -/
def PStore.touches (p : PStore) (q : Place) (n : Nat) : Bool := p.ranges.any fun r => r.1.near r.2 q n

/-- One range of a store is written, and the monitors there wake. -/
def State.performAt (s : State) (t : Target) (p : Place) (l : List Byte) : State := (s.storeT t l).wakeRange p l.length

/-! ## Coherence order (R123, R132) -/

/-- World and launch of a crew. -/
def State.launchOf (s : State) (uid : Nat) : Nat × Word := (s.crew uid).elim (0, 0) fun c => (c.world, c.launch)

/-- A write of a party to tracked memory is about to be performed: what its granules hold comes to stand before it in their
coherence order. -/
def State.noteWrite (s : State) (p : Party) (launch : Nat × Word) (t : Target) (q : Place) (len : Nat) : State :=
  let n := ((s.older.getLast?).map (·.stamp)).getD 0 + 1
  { s with older := s.older ++ (granules q.addr len).map fun ga =>
      ⟨q.move ga, wordAt (s.loadT (t.granule.plus (ga - q.addr / 4 * 4)) 4) 0, n, p, launch, [], [], []⟩ }

/-- A range is written by a party that the scopes of R130 do not speak of, another device or the device itself: what it
held before is read by nobody any more. -/
def State.forget (s : State) (q : Place) (len : Nat) : State :=
  if s.older.isEmpty then s else { s with older := s.older.filter fun o => !o.base.near 4 q len }

/-- A store to memory is performed in an L2 that holds its line as it needs it (R133, R364). -/
def State.storeLine (s : State) (p : PStore) : State :=
  match p.target, s.crew p.crew with
  | .mem _, some c => s.cached c.core c.uid p.target p.own
  | _, _ => s

/-- A store's granules are noted where it is tracked. -/
def State.noteStore (s : State) (p : PStore) (len : Nat) : State :=
  if p.region.isSome then s.noteWrite (.crew p.crew) (s.launchOf p.crew) p.target p.place len else s

/-- An accepted atomic brings its old value to the landing that waits for it. -/
def State.brings (s : State) (id : Nat) (old : BitVec 64) : State :=
  { s with landings := s.landings.map fun (l : Landing) => if l.id == id then { l with
      vals := (l.vals.map (·.1)).zip [lo32 old, hi32 old]
      awaits := false } else l }

/-- One accepted store is performed at its bank, its L1 or its slice. -/
def State.applyStore (s : State) (p : PStore) : State :=
  let s := s.storeLine p
  match p.op with
  | .bytes l => (s.noteStore p l.length).performAt p.target p.place l
  | .words l => l.zipIdx.foldl (fun s w =>
      s.performAt (p.target.plus (4 * crewWidth * w.2)) (p.place.plus (4 * crewWidth * w.2)) (leBytes 4 w.1.toNat)) s
  | .red fn v =>
    (s.noteStore p 4).performAt p.target p.place (leBytes 4 (redFn fn (wordAt (s.loadT p.target 4) 0) v).1.toNat)
  | .rmw fn v cmp lands =>
    let n := atomSize fn
    let old := BitVec.ofNat 64 (leNat (s.loadT p.target n))
    let r := atomFn fn old v cmp
    let s := if fn = 14 then s else (s.noteStore p n).performAt p.target p.place (leBytes n r.1.toNat)
    let s := if fn = 1 then s.onLane p.crew p.lane fun t => t.flag r.2 else s
    s.brings lands old

/-- Of two stores of a crew, accepted in this order, the first is performed first: they touch a common granule, and one
thread or one instruction made them (R105, R123). -/
def PStore.leads (p q : PStore) : Bool :=
  p.crew == q.crew && (p.lane == q.lane || p.tag == q.tag) && q.ranges.any fun r => p.touches r.1 r.2

/-- The stores that `p` picks, with those that have to be performed before them. -/
def neededStores (p : PStore → Bool) : List PStore → List PStore
  | [] => []
  | q :: r =>
    let n := neededStores p r
    if p q || n.any q.leads then q :: n else n

/-- Drops the records of a crew's regions that have ended (R119, R128). -/
def State.dropEnded (s : State) (uid : Nat) : State :=
  match s.crew uid with
  | none => { s with recs := s.recs.filter fun r => r.party != .crew uid }
  | some c =>
    let live := s.liveRegions c
    { s with recs := s.recs.filter fun r => r.party != .crew uid || live.contains r.region }

/-- Performs the accepted stores that `p` picks, each after the earlier ones that lead it, so that each granule's order
keeps program order and lane order (R105, R123). Regions that waited for nothing else end (R119). -/
def State.performStores (s : State) (p : PStore → Bool) : State :=
  let n := neededStores p s.stores
  let s' := n.foldl State.applyStore s
  let s' := { s' with stores := s.stores.filter fun q => !(n.any fun x => x.id == q.id) }
  ((n.filter (·.region.isSome)).map (·.crew)).eraseDups.foldl State.dropEnded s'

/-- A store is accepted (R209). -/
def State.accept (s : State) (uid lane tag : Nat) (t : Target) (p : Place) (op : StoreOp) (half : Bool)
    (region : Option Nat) (own : Bool) : State :=
  let (id, s) := s.fresh
  ({ s with stores := s.stores ++ [(⟨id, uid, lane, tag, t, p, op, half, region, own⟩ : PStore)] }).post (.storePerform id)

/-! ## Rows and second halves in flight -/

/-- The rows of kvlds that `p` picks are written; their status words are still to land (R286). -/
def State.landRows (s : State) (p : Landing → Bool) : State :=
  if s.landings.any fun l => p l && l.row.isSome then
    let s' := (s.landings.filter p).foldl (fun s l => match l.row with
      | some (a, bytes) => s.spadWrite ((s.crew l.crew).elim 0 (·.unit)) 0 a bytes
      | none => s) s
    { s' with landings := s.landings.map fun l => if p l then { l with row := none } else l }
  else s

/-! ## Scopes (R130 to R132) -/

/-- Scope codes of R159. -/
def scopeBlock : Nat := 1
def scopeDevice : Nat := 3

/-- The block and the cluster of the device that a party lies on (R130): an engine lies on no block, and on a cluster when it
is a core's or the cluster's; an RV64 core on neither. -/
def State.seat (s : State) (p : Party) : Nat × Option Nat :=
  match p with
  | .crew uid => match s.crew uid with
    | some c => (c.unit, some (c.core / 8))
    | none => (0, none)
  | .engine id => match s.entry id with
    | some e => (0, if e.qid / 64 ≤ 1 then some (e.site / 8) else none)
    | none => (0, none)
  | _ => (0, none)

/-- A scope that a party named includes another (R130): the party itself, its block, its cluster, or everything. -/
def inScope (scope : Nat) (p : Party) (seat : Nat × Option Nat) (p' : Party) (seat' : Nat × Option Nat) : Bool :=
  decide (scope ≥ 3) || p == p' || (scope == 2 && seat.2.isSome && seat.2 == seat'.2) ||
    (scope == 1 && seat.1 != 0 && seat.1 == seat'.1)

/-- A party releases at a scope: the writes that it has made, and those that it stands after, are carried by the release
(R131). -/
def State.releasedBy (s : State) (p : Party) (scope : Nat) : State :=
  if s.older.isEmpty then s
  else
    let seat := s.seat p
    let r : Release := ⟨p, seat.1, seat.2.getD 256, scope⟩
    { s with older := s.older.map fun (o : Older) =>
        if (o.party == p || o.ordered.contains p) && !o.rel.contains r then { o with rel := o.rel ++ [r] } else o }

/-- A party acquires at a scope. A write that some release carries comes to stand before it where the release's scope and
its own each include the other; where one omits the other, the two are linked and not ordered (R131, R132). -/
def State.acquiredBy (s : State) (p : Party) (scope : Nat) : State :=
  if s.older.isEmpty then s
  else
    let seat := s.seat p
    { s with older := s.older.map fun (o : Older) =>
        if o.party == p || o.ordered.contains p || o.rel.isEmpty then o
        else if o.rel.any fun r =>
            let seat' := (r.unit, if r.cluster < 256 then some r.cluster else none)
            inScope r.scope r.party seat' p seat && inScope scope p seat r.party seat' then
          { o with
            ordered := p :: o.ordered
            linked := o.linked.filter (· != p) }
        else if o.linked.contains p then o
        else { o with linked := p :: o.linked } }

/-- The same of a crew, by its number. -/
def State.released (s : State) (uid scope : Nat) : State := s.releasedBy (.crew uid) scope
def State.acquired (s : State) (uid scope : Nat) : State := s.acquiredBy (.crew uid) scope

/-- A load of the party may miss a write: only a pair whose scope omits one of them links them, or one of the two is an RV64
core that no fence orders (R132, R143). -/
def Older.mayMiss (o : Older) (p : Party) : Bool :=
  o.party != p && !o.ordered.contains p && (o.linked.contains p || match o.party, p with
    | .rv _, _ | _, .rv _ => true
    | _, _ => false)

/-- The stamp from which on the party may miss every write to the granules of a range: after the last one that it may
not. -/
def State.missFrom (s : State) (p : Party) (q : Place) (len : Nat) : Nat :=
  s.older.foldl (fun m o => if o.base.near 4 q len && !o.mayMiss p && decide (m ≤ o.stamp) then o.stamp + 1 else m) 0

/-- The bytes `l` of a plain load of a party as R123 and R132 leave them: writes that it may miss, the last ones of their
granules, may still be unseen, from one on that the free value numbered `i` picks; an access of 8 B sees all of a write or
nothing (R129). A write that the party's own, or one that stands before it, follows in a granule is never unseen. -/
def State.stale (s : State) (p : Party) (i : Nat) (q : Place) (l : List Byte) : List Byte :=
  if s.older.any fun o => o.mayMiss p && o.base.near 4 q l.length then
    let k := max (s.missFrom p q l.length) (Config.olderFrom i (q.addr / 8))
    (List.range l.length).map fun j =>
      let a := q.addr + j
      match s.older.find? fun o => o.base == q.move (a / 4 * 4) && decide (k ≤ o.stamp) with
      | some o => (leBytes 4 o.old.toNat).getD (a % 4) 0
      | none => l.getD j 0
  else l

/-! ## Second halves -/

/-- The words of a late half, as memory holds them. -/
def State.lateBytes (s : State) (x : Late) : List Byte :=
  (List.range x.regs.length).flatMap fun i => s.loadT (x.target.plus (x.step * i)) 4

/-- The second halves of the 16 B loads that `p` picks are read, all at one moment: a region that waited for nothing else
ends (R119). -/
def State.readLate (s : State) (p : Landing → Bool) : State :=
  if s.landings.any fun l => p l && l.late.isSome then
    let i := s.freeCtr
    let ended := (s.landings.filter fun l => p l && (l.late.bind (·.region)).isSome).map (·.crew)
    let s' := { s with
      freeCtr := if s.older.isEmpty then i else i + 1
      landings := s.landings.map fun l =>
        match l.late with
        | some x => if p l then
            let b := s.lateBytes x
            let b := if x.region.isSome then s.stale (.crew l.crew) i x.place b else b
            { l with vals := l.vals ++ x.regs.zip (bytesWords b), late := none } else l
        | none => l }
    ended.eraseDups.foldl State.dropEnded s'
  else s

/-- The place of a scratchpad address of a crew. -/
def State.spadPlace (s : State) (uid a : Nat) : Place := .spad ((s.crew uid).elim 0 (·.unit)) a

/-- A landing's row touches a range. -/
def State.rowTouches (s : State) (l : Landing) (q : Place) (n : Nat) : Bool :=
  match l.row with
  | some (a, bytes) => (s.spadPlace l.crew a).meets bytes.length q n
  | none => false

/-! ## Program order (R123, R124, R130) -/

/-- What a thread began and its next access waits for: the other half of a 16 B access (R124, R129). A load's second
halves are read for every lane of its instruction at once (R105). -/
def State.finishHalves (s : State) (uid lane : Nat) : State :=
  let s := if s.stores.any fun q => q.half && q.crew == uid && q.lane == lane then
      s.performStores fun q => q.half && q.crew == uid && q.lane == lane
    else s
  let tags := s.landings.filterMap fun l => if l.crew == uid && l.lane == lane then l.late.map (·.tag) else none
  if tags.isEmpty then s
  else s.readLate fun l => l.crew == uid && match l.late with
    | some x => tags.contains x.tag
    | none => false

/-- A thread's earlier accesses are performed (R130). -/
def State.drainLane (s : State) (uid lane : Nat) : State :=
  let s := s.finishHalves uid lane
  let s := if s.stores.any fun q => q.crew == uid && q.lane == lane then
      s.performStores fun q => q.crew == uid && q.lane == lane
    else s
  s.landRows fun l => l.crew == uid && l.lane == lane

/-- A thread's earlier stores and kvld rows on bytes that it now touches are performed (R123). -/
def State.drainFor (s : State) (uid lane : Nat) (a : Place) (n : Nat) : State :=
  let p := fun (q : PStore) => q.crew == uid && q.lane == lane && q.touches a n
  let s := if s.stores.any p then s.performStores p else s
  s.landRows fun l => l.crew == uid && l.lane == lane && s.rowTouches l a n

/-- A request to memory leads there: it is no scratchpad. -/
def Target.inMemory : Target → Bool
  | .spad .. => false
  | _ => true

def Target.isMem : Target → Bool
  | .mem _ => true
  | _ => false

/-- The target lies in the 64 KiB frame at a PA. -/
def Target.inFrame (t : Target) (pa : Nat) : Bool :=
  match t with
  | .mem a => decide (pa ≤ a) && decide (a < pa + pageBytes)
  | _ => false

/-- Every access that found a frame usable is performed, before the frame leaves its state (R359). -/
def State.finishFrame (s : State) (pa : Nat) : State :=
  let s := if s.stores.any (·.target.inFrame pa) then s.performStores (·.target.inFrame pa) else s
  s.readLate fun l => match l.late with
    | some x => x.target.inFrame pa
    | none => false

/-! ## Regions (R118, R119) -/

/-- A synchronisation operation of a crew: its region closes and a new one opens (R118). The closed one ends now, or when
its last access has been performed (R119). -/
def State.syncOp (s : State) (uid : Nat) : State :=
  (s.onCrew uid fun c => { c with region := c.region + 1 }).dropEnded uid

/-- A synchronisation operation that releases at a scope. -/
def State.syncRel (s : State) (uid scope : Nat) : State := (s.released uid scope).syncOp uid

/-- A crew's writes that no release carries when it is gone can be missed by nobody: they and what came before them in
their granules' orders are settled. -/
def State.settleOlder (s : State) (p : Party) : State :=
  if s.older.isEmpty then s
  else
    let last := s.older.filter fun o => o.party == p && o.rel.isEmpty
    { s with older := s.older.filter fun o => !(last.any fun x => x.base == o.base && decide (o.stamp ≤ x.stamp)) }

/-- A kernel boundary orders the writes of the finishing launch before every later access (R141). -/
def State.settleLaunch (s : State) (wn : Nat) (h : Word) : State :=
  if s.older.isEmpty then s
  else
    let last := s.older.filter fun o => o.launch == (wn, h)
    { s with older := s.older.filter fun o => !(last.any fun x => x.base == o.base && decide (o.stamp ≤ x.stamp)) }

/-! ## The processor chiplet (R143) -/

/-- The number of the processor chiplet among the agents (R364). -/
def chipletAgent : Nat := 4

/-- RV64 cores of the processor chiplet (R12). -/
def rvCores : Nat := 16

/-- What an access of an RV64 core asks of the page it goes to, and its bytes. -/
def RvAcc.kind : RvAcc → AccKind
  | .load _ => .read
  | .store _ => .write
  | .amo .. => .atom
  | .fence | .sequence _ => .read

def RvAcc.size : RvAcc → Nat
  | .load n => n
  | .store l => l.length
  | .amo fn .. => atomSize fn
  | .fence | .sequence _ => 0

/-- A page of a sequence as its record begins: in HBM, held by nobody. -/
def KvPage.fresh (p : KvPage) : KvPage := { p with
  tier := 0
  quarantined := false
  held := false
  wr := false
  bytes := [] }

/-- A sequence record is put into the tables of the network processor: a new one, or pages more and a window start further on
for one that is there (R286, R287). -/
def State.putSequence (s : State) (q : Sequence) : State :=
  if !([64, 128, 256, 512].contains q.rb) then s
  else if s.seqs.any (·.id == q.id) then { s with seqs := s.seqs.map fun (x : Sequence) =>
    if x.id == q.id then { x with
      ws := max x.ws q.ws
      pages := x.pages ++ (q.pages.drop x.pages.length).map KvPage.fresh } else x }
  else { s with seqs := s.seqs ++ [{ q with pages := q.pages.map KvPage.fresh }] }

/-- An access of an RV64 core is performed: on a coherent page, through the directory as agent 4, with no record of R124;
what it reads goes to the core, and may be older than what a crew has written where no fence of the core, paired with an
operation of device scope, orders the two. Elsewhere, what the core meets is its own affair: the spec describes neither its
MMU nor its traps. -/
def State.rvAct (s : State) (o : RvOp) : State :=
  let p : Party := .rv (o.core % rvCores)
  let n := o.acc.size
  match o.acc with
  | .fence => (s.releasedBy p scopeDevice).acquiredBy p scopeDevice
  | .sequence q => s.putSequence q
  | _ =>
  if n = 0 ∨ 8 < n ∨ o.va % n ≠ 0 then s
  else match s.resolve o.world noCore o.acc.kind o.va n with
    | (s, .go d) =>
      match d.target with
      | .mem pa =>
        if !d.tracked then s
        else
          let s := s.useLines chipletAgent noCore d.own (linesOf pa n)
          let now := s.loadPA pa n
          match o.acc with
          | .load _ =>
            let (i, s) := if s.older.isEmpty then (s.freeCtr, s) else s.free
            s.send (.rv (o.core % rvCores) (s.stale p i d.place now))
          | .store l => (s.noteWrite p (o.world, 0) d.target d.place n).performAt d.target d.place l
          | .amo fn v cmp =>
            let r := atomFn fn (BitVec.ofNat 64 (leNat now)) v cmp
            ((s.noteWrite p (o.world, 0) d.target d.place n).performAt d.target d.place (leBytes n r.1.toNat)).send
              (.rv (o.core % rvCores) now)
          | .fence | .sequence _ => s
      | _ => s
    | (s, _) => s

/-- The sequence record that an RV64 core puts next, if that is what it does, by the free-value counter. -/
opaque rvSequence : Nat → Option Sequence

/-- The access that an RV64 core makes next, as a free value names it (R143). -/
def rvNext (i : Nat) : RvOp :=
  match rvSequence i with
  | some q => ⟨0, 0, 0, .sequence q⟩
  | none =>
  let (core, world, va, k, n, l, v, cmp) := Config.rvAccess i
  ⟨core % rvCores, world, va, match k with
    | 0 => .load n
    | 1 => .store l
    | 2 => .amo n v cmp
    | _ => .fence⟩

/-- The oldest access that an RV64 core has begun is performed; where none is begun, one begins. -/
def State.rvPerform (s : State) : State :=
  match s.rvOps with
  | o :: r => State.rvAct { s with rvOps := r } o
  | [] =>
    let (i, s) := s.free
    s.rvAct (rvNext i)

end Sys2Proof.Machine
end

