-- ==== Sys2Proof/Machine/Filing.lean ====
section
/-! DEFINITION. Filing into reform bins and their release, and the posting of system calls (R27, R28, R30, R204, R326). -/

namespace Sys2Proof.Machine

/-- A quarter's number on the device. -/
def quarterNo (core q : Nat) : Nat := 4 * core + q

/-! ## System-call requests (R326) -/

/-- The lowest slot of the ring that no request fills. The spec does not say which free slot a request takes
(log entry 24, DESIGN CHOICE). -/
def World.sysSlot (w : World) : Option Nat :=
  (List.range (2 ^ w.sysLog)).find? fun i => !(w.requests.any fun r => r.slot == i)

/-- A system-call request's slot is free: fewer outstanding than the ring holds (R326). -/
def World.sysRoom (w : World) : Bool := w.sysSlot.isSome

/-- A mask of lanes, bit L for `%lane` L. -/
def laneMask (lanes : List Nat) : Nat := lanes.foldl (fun m l => m ||| 2 ^ l) 0

/-- The bytes of a request's slot, before what an earlier request left there (R326). -/
def SyscReq.bytes (r : SyscReq) : List Byte :=
  leBytes 4 r.reqid.toNat ++ leBytes 4 (r.service % 128) ++ leBytes 4 r.pc.toNat ++ leBytes 4 r.launch.toNat ++
    leBytes 4 r.block ++ leBytes 4 (r.idx % 64 + 256 * (r.core % 256)) ++ leBytes 8 0 ++ leBytes 16 (laneMask r.lanes) ++
    leBytes 16 0 ++ r.args.flatMap wordsBytes

/-- The request of lanes of a crew, before it has a number and a slot. -/
def State.syscReq (s : State) (c : Crew) (svc : Nat) (lanes : List Nat) : SyscReq :=
  ⟨0, svc, ((lanes.head?).bind c.thread).elim 0 (·.pc), c.launch, (s.unit c.unit).elim 0 (·.block), c.idx, c.core, 0, c.uid, lanes,
    lanes.map fun l => match c.thread l with
      | some t => (List.range 8).map fun k => t.x (2 + k)
      | none => [], none⟩

/-- A thread that waits for the slot of a request waits for its reply. -/
def Thread.syscPosted (req : Nat) (reqid : Word) (t : Thread) : Thread :=
  match t.st with
  | .blocked (.syscHeld r) next => if r = req then { t with st := .blocked (.sysc reqid) next } else t
  | _ => t

/-- A request is posted in a free slot of its world's ring (R204, R326): a release at device scope of its threads. -/
def State.postSysc (s : State) (wn req : Nat) (r : SyscReq) : State :=
  match s.world wn with
  | none => s
  | some w =>
    match w.sysSlot with
    | none => s
    | some slot =>
      let r := { r with reqid := w.nextReq, slot }
      let s := r.lanes.foldl (fun s l => s.drainLane r.crew l) s
      let s := s.onCrew r.crew fun c => { c with threads := c.threads.map (Thread.syscPosted req w.nextReq) }
      let s := s.onWorld wn fun w => { w with
        nextReq := w.nextReq + 1
        requests := w.requests ++ [r]
        sysHeld := w.sysHeld.filter (·.1 != req)
        sysRing := writeBytes w.sysRing (2048 * slot) r.bytes }
      let s := if r.service = 1 then s.post (.syscAlloc wn r.reqid)
        else if r.service = 2 then s.post (.syscFree wn r.reqid)
        else s.send (.firmware 1 r.reqid.toNat)
      if (s.crew r.crew).isSome then s.syncRel r.crew scopeDevice else s

/-- The threads of a released sysc bin block; their request is posted, or waits for a slot behind those that wait already
(R204, R326). -/
def State.raiseSysc (s : State) (uid svc : Nat) (next : Word) (lanes : List Nat) : State :=
  let lanes := sortBy (fun (a b : Nat) => decide (a < b)) lanes
  match s.crew uid with
  | none => s
  | some c =>
    let (req, s) := s.fresh
    let r := s.syscReq c svc lanes
    let s := s.onCrew uid fun c => (c.onThreads (fun t => lanes.contains t.lane) fun t =>
      { t with st := .blocked (.syscHeld req) next }).band lanes
    let waits := (s.world c.world).any fun w => !w.sysHeld.isEmpty || !w.sysRoom
    if waits then s.onWorld c.world fun w => { w with sysHeld := w.sysHeld ++ [(req, r)] } else s.postSysc c.world req r

/-- Answered requests leave the ring, which frees a slot for one that is held (R326). -/
def State.dropRequests (s : State) (wn : Nat) (p : SyscReq → Bool) : State :=
  if (s.world wn).any fun w => w.requests.any p then
    (s.onWorld wn fun w => { w with requests := w.requests.filter fun r => !p r }).arm (.syscPostHeld wn)
  else s

/-- x3:x2 of a reply for a lane (R327). -/
def replyFor (status : Word) (lanes values : List Nat) (lane : Nat) : Word × Word :=
  if status = 0 && lanes.contains lane then
    let v := BitVec.ofNat 64 (values.getD (lanes.idxOf lane) 0)
    (lo32 v, hi32 v)
  else (0xFFFFFFFF, 0xFFFFFFFF)

/-! ## Bins (R27, R28, R30) -/

/-- A bin is released: its threads become one issue set at its key (R30), or post their system call (R204). -/
def State.releaseBin (s : State) (q : Nat) (b : Bin) : State :=
  let s := s.onQuarter q fun x => { x with bins := x.bins.filter (·.id != b.id) }
  match b.sysc with
  | none => s.onCrew b.crew fun c =>
      ((c.onThreads (fun t => b.lanes.contains t.lane) fun t =>
        { t with st := .running, pc := b.pc }).band b.lanes).regroup
  | some (svc, next) => s.raiseSysc b.crew svc next b.lanes

/-- Bins a quarter has (R28). -/
def binCount : Nat := 16

/-- Files lanes of a crew, already in order of arrival, under one key (R28). `fuel` bounds the bins it opens. -/
def State.fileLanes (s : State) (uid q : Nat) (pc : Word) (wb : Nat) (sysc : Option (Nat × Word)) :
    Nat → List Nat → State
  | 0, _ => s
  | fuel + 1, lanes =>
    if lanes.isEmpty then s
    else
      let mine := (s.quarter q).bins.filter fun b =>
        b.crew == uid && b.pc == pc && b.wb == wb && b.sysc == sysc && decide (b.lanes.length < 32)
      match pickBy (fun (a b : Bin) => decide (a.oldest < b.oldest)) mine with
      | some b =>
        let n := 32 - b.lanes.length
        let here := lanes.take n
        let s := s.onQuarter q fun x => { x with
          bins := x.bins.map fun (y : Bin) => if y.id == b.id then { y with lanes := y.lanes ++ here } else y }
        let s := s.onCrew uid fun c => c.onThreads (fun t => here.contains t.lane) fun t =>
          { t with st := .filed b.id, pc := pc, filedAt := s.clock }
        State.fileLanes s uid q pc wb sysc fuel (lanes.drop n)
      | none =>
        let s := if (s.quarter q).bins.length ≥ binCount then
            match pickBy (fun (a b : Bin) => decide (a.oldest < b.oldest)) (s.quarter q).bins with
            | some b => s.releaseBin q b
            | none => s
          else s
        let here := lanes.take 32
        let (id, s) := s.fresh
        let s := s.onQuarter q fun x => { x with bins := x.bins ++ [(⟨id, uid, pc, wb, here, s.clock, false, sysc⟩ : Bin)] }
        let s := (s.onCrew uid fun c => c.onThreads (fun t => here.contains t.lane) fun t =>
          { t with st := .filed id, pc := pc, filedAt := s.clock }).post (.binAged q id)
        State.fileLanes s uid q pc wb sysc fuel (lanes.drop 32)

/-- Files threads of a crew, each under its own next PC and window base (R27, R28). R28 does not say which of the arriving
threads fill a bin's free places and which open the next bin: they are taken in ascending `%lane` (log entry 24,
DESIGN CHOICE). -/
def State.fileAll (s : State) (uid : Nat) (sysc : Option (Nat × Word)) (keys : List (Nat × Word × Nat)) : State :=
  match s.crew uid with
  | none => s
  | some c =>
    let q := quarterNo c.core c.quarter
    let ks := keys.foldl (fun l k => if l.contains k.2 then l else l ++ [k.2]) []
    ks.foldl (fun s k =>
      s.fileLanes uid q k.1 k.2 sysc 130 ((keys.filter fun x => x.2 == k).map (·.1))) { s with clock := s.clock + 1 }

/-- Takes lanes of a crew out of the bins of its quarter (R307); an empty bin is free. -/
def State.leaveBins (s : State) (uid : Nat) (lanes : List Nat) : State :=
  match s.crew uid with
  | none => s
  | some c =>
    s.onQuarter (quarterNo c.core c.quarter) fun x => { x with
      bins := (x.bins.map fun (b : Bin) =>
        if b.crew == uid then
          let rest := b.lanes.filter fun l => !lanes.contains l
          { b with
            lanes := rest
            oldest := (minOf (rest.filterMap fun l => (c.thread l).map (·.filedAt))).getD b.oldest }
        else b).filter fun b => !b.lanes.isEmpty }

end Sys2Proof.Machine
end

