-- ==== Sys2Proof/Machine/Device.lean ====
section
/-! DEFINITION. What the device itself does to memory and to its blocks: accesses of engines through a world's tables,
interrupt entries, status blocks, barriers, completion records, asynchronous traps (R223, R259 to R262, R338, R339). -/

namespace Sys2Proof.Machine

abbrev Out := Host.Outcome State Fault Refusal

/-- The compute die of a core (R14). -/
def dieOf (core : Nat) : Nat := core / 64

/-! ## Engine accesses (R262) -/

/-- What an engine finds at a generic range. -/
inductive EngRes (α : Type) where
  | ok (v : α)
  /-- PERM_FAULT with the R99 code, 7 for a strongly ordered page -/
  | perm (reason : Nat)
  /-- pages to wait for: job, page, for writing -/
  | miss (pages : List (Nat × Nat × Bool))
  /-- a source granule with an uncorrectable error: 1 in HBM, 2 in scratchpad (R260, R363) -/
  | poisoned (reason : Nat)
  deriving Repr

/-- The parts of a generic range on each 64 KiB page: address and length. -/
def pageParts (va len : Nat) : List (Nat × Nat) :=
  if len = 0 then [] else
    (List.range ((va + len - 1) / pageBytes - va / pageBytes + 1)).map fun k =>
      let lo := if k = 0 then va else (va / pageBytes + k) * pageBytes
      let top := (va / pageBytes + k + 1) * pageBytes
      let hi := if va + len < top then va + len else top
      (lo, hi - lo)

/-- One part of an engine's generic range (R262): a page that is strongly ordered faults STRONG. The sizes asked of
`resolve` are those of no strongly ordered access, so SIZE is STRONG here. An engine writes no image, whatever the mode
of the issuer (R304; log entry 24, DESIGN CHOICE). -/
def State.engPart (s : State) (wn core : Nat) (k : AccKind) (va n : Nat) : State × EngRes (Target × Place) :=
  match s.resolve wn core k va 16 with
  | (s, .go d) =>
    (s, if d.so then .perm 7
      else if k.stores && s.readOnly .U d.target n then .perm 3
      else .ok (d.target, d.place))
  | (s, .perm r) => (s, .perm (if r = 6 then 7 else r))
  | (s, .park job page w) => (s, .miss [(job, page, w)])
  | (s, .nothing) => (s, .perm 3)

/-- The targets of every part of a range, or the first failure; the pages that a range misses are waited for together
(R374). -/
def State.engTargets (s : State) (wn core : Nat) (k : AccKind) :
    List (Nat × Nat) → State × EngRes (List (Target × Place × Nat × Nat))
  | [] => (s, .ok [])
  | (va, len) :: r =>
    match s.engPart wn core k va len with
    | (s, .ok (t, tr)) =>
      match State.engTargets s wn core k r with
      | (s, .ok ts) => (s, .ok ((t, tr, va, len) :: ts))
      | (s, e) => (s, e)
    | (s, .perm x) => (s, .perm x)
    | (s, .miss m) =>
      match State.engTargets s wn core k r with
      | (s, .miss m') => (s, .miss (m ++ m'.filter fun x => !m.contains x))
      | (s, _) => (s, .miss m)
    | (s, .poisoned x) => (s, .poisoned x)

/-- An engine reads a generic range (R262). -/
def State.genRead (s : State) (wn core va n : Nat) : State × EngRes (List Byte) :=
  match s.engTargets wn core .read (pageParts va n) with
  | (s, .ok ts) =>
    if ts.any fun p => s.poisonedT p.1 p.2.2.2 then (s, .poisoned 1)
    else (s, .ok (ts.flatMap fun p => s.loadT p.1 p.2.2.2))
  | (s, .perm x) => (s, .perm x)
  | (s, .miss m) => (s, .miss m)
  | (s, .poisoned x) => (s, .poisoned x)

/-- Writes bytes over resolved parts, waking monitors. -/
def State.storeParts (s : State) : List (Target × Place × Nat × Nat) → List Byte → State
  | [], _ => s
  | (t, p, _, len) :: r, l => State.storeParts ((s.storeT t (l.take len)).wakeRange p len) r (l.drop len)

/-- The parts come into the coherence order of their granules as writes of a party (R123, R137). -/
def State.noteParts (s : State) (p : Party) (launch : Nat × Word) (ts : List (Target × Place × Nat × Nat)) : State :=
  ts.foldl (fun s x => if x.1.isMem then s.noteWrite p launch x.1 x.2.1 x.2.2.2 else s) s

/-- Crews with a monitor armed on a line of the parts. -/
def State.watchers (s : State) (ts : List (Target × Place × Nat × Nat)) : List Nat :=
  (s.crews.filter fun c => c.threads.any fun t => ts.any fun x => t.watches x.2.1 x.2.2.2).map (·.uid)

/-- The PAs of the parts that lie in memory. -/
def partPAs (ts : List (Target × Place × Nat × Nat)) : List (Nat × Nat) :=
  ts.filterMap fun p => match p.1 with
    | .mem pa => some (pa, p.2.2.2)
    | _ => none

/-- The frame that a PA lies in. -/
def State.frameAt (s : State) (pa : Nat) : Option Nat :=
  if s.plat.fcbase ≤ pa / pageBytes && pa / pageBytes < s.plat.fcbase + s.plat.fcframes then
    some (pa / pageBytes - s.plat.fcbase)
  else none

/-- A range of an entry, by its number, takes a reference on each frame that it lies in (R359). -/
def State.refTargets (s : State) (id rg : Nat) (ts : List (Target × Place × Nat × Nat)) : State :=
  ts.foldl (fun s p => match p.1 with
    | .mem pa => match s.frameAt pa, s.entry id with
      | some i, some e => if e.refs.contains (rg, i) then s else
          (s.onFrame i fun f => { f with refcnt := f.refcnt + 1 }).onEntry id fun e => { e with refs := (rg, i) :: e.refs }
      | _, _ => s
    | _ => s) s

/-- Resolved parts of an access from a core take part in the directory as accesses of its die's L2 (R371). -/
def State.useParts (s : State) (core : Nat) (k : AccKind) (ts : List (Target × Place × Nat × Nat)) : State :=
  s.useLines (dieOf core) noCore (k != .read) ((partPAs ts).flatMap fun p => linesOf p.1 p.2)

/-- Translates part of a range of an entry, which takes its references (R262, R359). -/
def State.cmdTargets (s : State) (e : Entry) (rg : Nat) (k : AccKind) (va n : Nat) :
    State × EngRes (List (Target × Place × Nat × Nat)) :=
  match s.engTargets e.world e.site k (pageParts va n) with
  | (s, .ok ts) => ((s.refTargets e.id rg ts).useParts e.site k ts, .ok ts)
  | r => r

/-- An entry reads part of one of its ranges. -/
def State.cmdRead (s : State) (e : Entry) (rg va n : Nat) : State × EngRes (List Byte) :=
  match s.cmdTargets e rg .read va n with
  | (s, .ok ts) =>
    if ts.any fun p => s.poisonedT p.1 p.2.2.2 then (s, .poisoned 1)
    else (s, .ok (ts.flatMap fun p => s.loadT p.1 p.2.2.2))
  | (s, .perm x) => (s, .perm x)
  | (s, .miss m) => (s, .miss m)
  | (s, .poisoned x) => (s, .poisoned x)

/-- An entry writes part of one of its ranges. -/
def State.cmdWrite (s : State) (e : Entry) (rg va : Nat) (l : List Byte) : State × EngRes Unit :=
  match s.cmdTargets e rg .write va l.length with
  | (s, .ok ts) => ((s.noteParts (.engine e.id) (e.world, e.launch) ts).storeParts ts l, .ok ())
  | (s, .perm x) => (s, .perm x)
  | (s, .miss m) => (s, .miss m)
  | (s, .poisoned x) => (s, .poisoned x)

/-- The bytes of a range that the device reads for its own purposes; `none` where the memory cannot be read now. What the read
does to the machine is devTouch's. -/
def State.devRead (s : State) (wn va n : Nat) : Option (List Byte) :=
  match s.genRead wn noCore va n with
  | (_, .ok l) => some l
  | _ => none

/-- A write by the device; false where the memory cannot be written now. It takes part in the directory as the network die's,
agent 5 (R364, R371). R371 speaks of the network processor's accesses: that those of the queues, status blocks and rings go
the same way is the model's choice (log entry 24, DESIGN CHOICE). -/
def State.devWrite (s : State) (wn va : Nat) (l : List Byte) : State × Bool :=
  match s.engTargets wn noCore .write (pageParts va l.length) with
  | (s, .ok ts) =>
    let s := (partPAs ts).foldl (fun s p => s.useNp true p.1 p.2) s
    let s := ts.foldl (fun s x => s.forget x.2.1 x.2.2.2) s
    (s.storeParts ts l, true)
  | (s, _) => (s, false)

/-- What a read by the device does to the machine, whatever comes of it: its translations and the malformed entries that they
meet (R351), and its part in the directory as agent 5 (R364, R371). -/
def State.devTouch (s : State) (wn va n : Nat) : State :=
  match s.engTargets wn noCore .read (pageParts va n) with
  | (s, .ok ts) => (partPAs ts).foldl (fun s p => s.useNp false p.1 p.2) s
  | (s, _) => s

/-! ## Interrupts and status blocks (R338, R339) -/

def LState.code : LState → Nat
  | .queued => 0
  | .running => 1
  | .complete => 2
  | .cancelling => 3
  | .cancelled => 4
  | .endedPartial => 5
  | .refused => 6

def LState.ended : LState → Bool
  | .complete | .cancelled | .endedPartial | .refused => true
  | _ => false

/-- One interrupt entry: code, handle and six words; counted in INTLOST when it cannot be written (R338). -/
def State.interrupt (s : State) (wn code : Nat) (handle : Word) (data : List Nat) : State :=
  match s.world wn with
  | none => s
  | some w =>
    let lose := fun (s : State) => s.onWorld wn fun w => { w with ctl := { w.ctl with intlost := w.ctl.intlost + 1 } }
    if (w.ctl.inttail - w.ctl.inthead).toNat ≥ 2 ^ w.ctl.intlog then lose s
    else
      let slot := w.ctl.intq + 32 * (w.ctl.inttail.toNat % 2 ^ w.ctl.intlog)
      let bytes := wordsBytes ((BitVec.ofNat 32 code :: handle :: data.map (BitVec.ofNat 32)))
      match s.devWrite wn slot (bytes ++ List.replicate (32 - bytes.length) 0) with
      | (s, false) => lose s
      | (s, true) =>
        (s.onWorld wn fun w => { w with ctl := { w.ctl with inttail := w.ctl.inttail + 1 } }).send (.interrupt wn (Config.rvCore wn % rvCores))

/-- The 64 B of a status block (R339). -/
def statusBytes (st : LState) (count total : Nat) (handle rndmiss : Word) (ovf : Bool) (rndpos reason : Nat)
    (times : List Nat) (moved saved : Nat) : List Byte :=
  wordsBytes [BitVec.ofNat 32 st.code, BitVec.ofNat 32 count, BitVec.ofNat 32 total, handle, rndmiss,
      if ovf then 1 else 0, BitVec.ofNat 32 rndpos, BitVec.ofNat 32 reason] ++
    leBytes 8 (times.getD 0 0) ++ leBytes 8 (times.getD 1 0) ++ leBytes 8 (times.getD 2 0) ++
    leBytes 4 ((if moved > 65535 then 65535 else moved) * 65536 + saved % 65536) ++ leBytes 4 0

/-- Writes a launch's status block. -/
def State.putStatus (s : State) (wn : Nat) (h : Word) : State :=
  match s.launch wn h with
  | none => s
  | some l =>
    (s.devWrite l.world l.desc.status (statusBytes l.state l.count l.desc.grid
      l.handle l.rndmiss l.rndovf l.rndpos l.reason l.times l.moved (l.saved.filter (!·.claimed)).length)).1

/-- Finished nodes of a graph. -/
def Graph.finished (g : Graph) : Nat := (g.nstate.filter fun st => st.ended).length

/-- Writes a graph's status block. -/
def State.putGraphStatus (s : State) (wn : Nat) (h : Word) : State :=
  match s.graph wn h with
  | none => s
  | some g =>
    (s.devWrite g.world g.status (statusBytes g.state g.finished g.nodes.length g.handle 0 false 0 g.reason g.times
      0 0)).1

/-! ## Barriers (R223 to R225) -/

/-- A thread that waits on a barrier passes when a completed phase is unconsumed (R224); `sync` for the wait of a
bar.sync. -/
def Thread.passes (t : Thread) (b : Nat) (phase : Word) (sync : Bool) : Bool :=
  match t.st with
  | .blocked (.barWait b' y) _ => b' == b && y == sync && tabGet t.barS 0 b != phase
  | _ => false

/-- A passing thread consumes one phase and goes on. -/
def Thread.passBar (t : Thread) (b : Nat) : Thread :=
  match t.st with
  | .blocked _ next => { (t.resumeAt next) with barS := tabPut t.barS 0 b (tabGet t.barS 0 b + 1) }
  | _ => t

/-- Tests the blocked threads of a crew against a barrier's phase. Those of a bar.wait go on as the set they were;
those of a bar.sync, a crew-collective, are filed under (PC + 4, WB) (R32, R224). A pass is a synchronisation operation
of the crew and an acquire (R118). -/
def State.passCrew (s : State) (b : Nat) (phase : Word) (c : Crew) : State :=
  let fil := c.threads.filter fun t => t.passes b phase true
  let s := s.onCrew c.uid fun c =>
    (c.onThreads (fun t => t.passes b phase false || t.passes b phase true) fun t => t.passBar b).regroup
  let s := if fil.isEmpty then s else s.fileAll c.uid none (fil.filterMap fun t => match t.st with
    | .blocked _ next => some (t.lane, next, t.wb)
    | _ => none)
  (s.acquired c.uid scopeBlock).syncOp c.uid

/-- Tests every blocked thread of a block against a barrier's phase. -/
def State.passBars (s : State) (uid b : Nat) (phase : Word) : State :=
  (s.crews.filter fun c => c.unit == uid && c.drip.isNone &&
      c.threads.any fun t => t.passes b phase false || t.passes b phase true).foldl (fun s c => s.passCrew b phase c) s

/-- One arrival (R223). -/
def Barrier.arrive (b : Barrier) : Barrier :=
  if b.count + 1 ≥ b.members then { b with count := 0, phase := b.phase + 1 } else { b with count := b.count + 1 }

def State.arrive (s : State) (uid b : Nat) : State :=
  match s.unit uid with
  | none => s
  | some u =>
    match u.bars[b]? with
    | none => s
    | some bar =>
      let bar := bar.arrive
      (s.onUnit uid fun u => { u with bars := u.bars.set b bar }).passBars uid b bar.phase

/-! ## Asynchronous traps (R310) -/

/-- Hands an asynchronous trap to a crew, which holds sixteen; a further one is lost (R310). -/
def State.async (s : State) (uid : Nat) (tr : Trap) (lanes : Option (List Nat)) : State :=
  (s.onCrew uid fun c =>
    if c.asyncQ.length ≥ 16 then { c with lost := c.lost + 1 } else { c with asyncQ := c.asyncQ ++ [⟨tr, lanes⟩] }).post
    (.asyncTrapEntry uid)

/-- Who receives ENGINE_FAULT (R261): the issuing thread, else the block's lowest live thread, else the held crew. -/
def State.receiverOf (s : State) (unit crew lane : Nat) : Option (Nat × Option (List Nat)) :=
  let crews := s.crews.filter fun c => c.unit == unit && c.drip.isNone
  let best := pickBy (fun (x y : Crew) => decide (x.idx < y.idx)) (crews.filter fun c => c.threads.any (·.live))
  let other := match best with
    | some c => some (c.uid, (c.threads.find? (·.live)).map fun t => [t.lane])
    | none => (pickBy (fun (x y : Crew) => decide (x.idx < y.idx)) crews).map fun c => (c.uid, some [0])
  match s.crew crew with
  | some c =>
    if c.drip.isNone && c.threads.any (fun t => t.lane == lane && t.live) then some (c.uid, some [lane]) else other
  | none => other

/-- The receiver of an entry's fault. -/
def State.faultReceiver (s : State) (e : Entry) : Option (Nat × Option (List Nat)) := s.receiverOf e.unit e.crew e.lane

/-! ## Completion records (R256, R259, R260) -/

def stDone : Nat := 1
def stCancelled : Nat := 2
def stPermFault : Nat := 3
def stMemError : Nat := 4
def stDeclined : Nat := 5
def stRemoteRefused : Nat := 6
def stMismatch : Nat := 7
def stOverflow : Nat := 8
def stDataError : Nat := 9
def stFollowRefused : Nat := 10
def stLaunchRefused : Nat := 11
def stAlreadyRoused : Nat := 12
def stTimeout : Nat := 13

/-- The codes that raise ENGINE_FAULT (R260). -/
def statusFaults (st : Nat) : Bool := !(st == 1 || st == 2 || st == 11 || st == 12)

/-- The word of a descriptor at byte offset `4i`. -/
def Entry.word (e : Entry) (i : Nat) : Nat := (e.words.getD i 0).toNat

/-- The eight words of a record (R259). -/
def Entry.record (e : Entry) (status fault aux : Nat) (bytes path : Nat) : List Word :=
  [BitVec.ofNat 32 (path * 65536 + e.qid * 256 + status), e.seq, e.pc, BitVec.ofNat 32 (fieldN (e.word 2) 0 16),
    BitVec.ofNat 32 fault, BitVec.ofNat 32 aux, BitVec.ofNat 32 bytes, BitVec.ofNat 32 (bytes / 2 ^ 32)]

/-- Commands that write no record: the fences and waits of queues (R268, R269). -/
def Cmd.noRecord : Cmd → Bool
  | .qfence | .qwait => true
  | _ => false

/-- Writes a record in its ring, whose page may deny the write or be absent (R256, R259): an access of the L2 of the engine's
die (R371), and a release at device scope of what the command wrote (R137). A thread that the write wakes from its waitc
stands after it. -/
def State.putRecord (s : State) (e : Entry) (ws : List Word) : State × EngRes Unit :=
  let off := 32 * (e.seq.toNat % 2 ^ fieldN (e.word 2) 27 4)
  if bitN (e.word 2) 31 then
    ((s.releasedBy (.engine e.id) scopeDevice).spadWrite e.unit 0 (e.word 0 + off) (wordsBytes ws), .ok ())
  else
    let va := e.word 0 + 2 ^ 32 * e.word 1 + off
    match s.engTargets e.world e.site .write (pageParts va 32) with
    | (s, .ok ts) =>
      let woken := s.watchers ts
      let s := ((s.useParts e.site .write ts).noteParts (.engine e.id) (e.world, e.launch) ts).releasedBy (.engine e.id) scopeDevice
      (woken.foldl (fun s u => s.acquired u scopeDevice) (s.storeParts ts (wordsBytes ws)), .ok ())
    | (s, .perm x) => (s, .perm x)
    | (s, .miss m) => (s, .miss m)
    | (s, .poisoned x) => (s, .poisoned x)

/-- The eight words of a sample or trace record (R429). -/
def sampleWords (core crew quarter kind reason : Nat) (pc pc2 seq launch : Word) (block qid : Nat)
    (time : BitVec 64) : List Word :=
  [BitVec.ofNat 32 (core * 2 ^ 24 + crew * 2 ^ 18 + quarter * 2 ^ 16 + reason * 256 + kind), pc, pc2, seq, launch,
    BitVec.ofNat 32 (qid * 2 ^ 24 + block), lo32 time, hi32 time]

/-- Puts a record into a world's sample ring; counted in SAMPLOST when the ring is full or cannot be written (R431). -/
def State.putSample (s : State) (wn : Nat) (ws : List Word) : State :=
  match s.world wn with
  | none => s
  | some w =>
    let lose := fun (s : State) => s.onWorld wn fun w => { w with dbg := { w.dbg with samplost := w.dbg.samplost + 1 } }
    if (w.dbg.samptail - w.dbg.samphead).toNat ≥ 2 ^ w.dbg.samplog then lose s
    else
      match s.devWrite wn (w.dbg.sampbase + 32 * (w.dbg.samptail.toNat % 2 ^ w.dbg.samplog)) (wordsBytes ws) with
      | (s, false) => lose s
      | (s, true) => s.onWorld wn fun w => { w with dbg := { w.dbg with samptail := w.dbg.samptail + 1 } }

/-- The crew on a quarter that its sampler takes next after a crew: resident crews in turn, by their numbers (R430). -/
def State.nextSampled (s : State) (q after : Nat) : Option Crew :=
  let on := s.crews.filter fun c => quarterNo c.core c.quarter == q && match s.world c.world with
    | some w => w.dbg.sampper != 0
    | none => false
  let low := pickBy fun (a b : Crew) => decide (a.uid < b.uid)
  match low (on.filter fun c => decide (after < c.uid)) with
  | some c => some c
  | none => low on

/-- A quarter's sampler runs while some world whose SAMPPER is on has a crew there (R430). -/
def State.armSampler (s : State) (q after : Nat) : State :=
  if s.agenda.any fun e => match e with
      | .sampleTick q' _ => q' == q
      | _ => false then s
  else match s.nextSampled q after with
    | some c => { s with agenda := s.agenda ++ [.sampleTick q c.uid] }
    | none => s

/-- The key of an entry's queue in its block: the block-transfer queues are those of the issuing core (R255, R257). -/
def queueKey (rcore qid : Nat) : Nat := if qid < 64 then 256 * (rcore + 1) + qid else qid
def Entry.qkey (e : Entry) : Nat := queueKey e.rcore e.qid

/-- Completion counts and sequence counters of a block (R255). -/
def BUnit.qctrAt (u : BUnit) (q : Nat) : QCtr := tabGet u.qctr ⟨0, 0⟩ q
def BUnit.onQctr (u : BUnit) (q : Nat) (f : QCtr → QCtr) : BUnit :=
  { u with qctr := tabPut u.qctr ⟨0, 0⟩ q (f (u.qctrAt q)) }

/-- The next entry of the queue an entry leaves may start. -/
def State.startNext (s : State) (unit key : Nat) : State :=
  match s.entries.find? fun e => e.unit == unit && e.qkey == key with
  | some e => if e.phase = .queued then s.arm (.engineEntryStart e.id) else s
  | none => s

/-! ## Packets on the way (R401 to R404, R424) -/

/-- Traffic classes of R401: the unordered one, and the ordered ones: group collectives (and rflush, of which R401 names no
class: log entry 24), the directory protocol, gangs, rouse, leases and keys. Acknowledgements carry the number 3. -/
def clsRud : Nat := 1
def clsRod : Nat := 2
def clsAck : Nat := 3
def clsDir : Nat := 4
def clsGang : Nat := 5
def clsRouse : Nat := 6
def clsTrust : Nat := 7

/-- The number of a peer: a rank of a job, a storage server or a switch that the job uses. -/
def peerKey (kind job n : Nat) : Nat := 3 * (2 ^ 48 * job + n) + kind
def rankPeer (job rank : Nat) : Nat := peerKey 0 job rank
def serverPeer (job server : Nat) : Nat := peerKey 1 job server
def switchPeer (job swid : Nat) : Nat := peerKey 2 job swid
def peerJob (peer : Nat) : Nat := peer / 3 / 2 ^ 48

def State.peer (s : State) (peer : Nat) : Peer := tabGet s.plat.peers (Peer.init peer) peer

def State.onPeer (s : State) (peer : Nat) (f : Peer → Peer) : State :=
  { s with plat := { s.plat with peers := tabPut s.plat.peers (Peer.init peer) peer (f (s.peer peer)) } }

/-- One of the ports that are up. -/
def State.portAt (s : State) (h : Nat) : Option Nat := s.plat.portsUp[h % s.plat.portsUp.length]?

/-- An ordered flow of a peer: the port and entropy value that it has, or those that its key hashes to (R402). -/
def State.rodFlow (s : State) (cls peer : Nat) : Option Nat × Nat :=
  match (s.peer peer).flows.find? (·.cls == cls) with
  | some f => (some f.port, f.entropy)
  | none => (s.portAt (Config.flowPort peer cls).1, (Config.flowPort peer cls).2 % 256)

/-- An ordered flow stands on a port. -/
def Peer.setFlow (p : Peer) (cls : Nat) (port : Option Nat) (entropy : Nat) : Peer :=
  match port with
  | some q => { p with flows := ⟨cls, q, entropy⟩ :: p.flows.filter (·.cls != cls) }
  | none => p

/-- The port and entropy value that a packet takes (R402): those of its ordered flow; an unordered one is sprayed. -/
def State.route (s : State) (cls peer : Nat) : State × Option Nat × Nat :=
  if cls = clsRud then
    let (i, s) := s.free
    (s, s.portAt (Config.spray i).1, (Config.spray i).2 % 256)
  else
    let (port, entropy) := s.rodFlow cls peer
    (s.onPeer peer fun p => p.setFlow cls port entropy, port, entropy)

/-- A packet goes to a peer: it counts for the epoch of the job, which advances after 2^40 (R424). -/
def State.countPacket (s : State) (peer : Nat) : State :=
  let s := s.onPeer peer fun p => { p with sent := p.sent + 1 }
  if (s.peer peer).sent < 2 ^ 40 then s else s.arm (.epochAdvance (peerJob peer))

/-- The thread whose rput or ratom a packet carries. -/
def State.putOf (s : State) (owner : Nat) : Option (Nat × Nat) :=
  (s.entry owner).bind fun e => if e.cmd == .rput || e.cmd == .ratom then some (e.crew, e.lane) else none

/-- Block, queue and endpoint of the entry that a packet belongs to. -/
def State.flowOf (s : State) (owner : Nat) : Nat × Nat × BitVec 64 :=
  match s.entry owner with
  | some e => (e.unit, e.qkey, e.endpoint)
  | none => (0, 0, 0)

/-- One packet goes out: it stays unacknowledged, and its retransmission is due after 200 µs (R403). -/
def State.sendPiece (s : State) (cls peer owner part off len : Nat) : State :=
  let (seq, s) := s.fresh
  let (s, port, entropy) := s.route cls peer
  let sent : Sent := {
    seq
    sends := 1
    owner
    cls
    put := s.putOf owner
    flow := s.flowOf owner
    part
    port
    entropy
    tries := 0
    off
    len
    lost := false }
  (((s.onPeer peer fun p => { p with unacked := p.unacked ++ [sent] }).post (.retransmitTimeout peer seq)).send
    (.packet cls peer seq port entropy off len)).countPacket peer

/-- Bytes that packet `k` of a message carries: at most 4,096, in whole 16 B pieces (R401). -/
def pieceLen (len k : Nat) : Nat :=
  let rest := 16 * ((len + 15) / 16) - 4096 * k
  if rest < 4096 then rest else 4096

/-- The packets of a message of `len` bytes; the shortest is one packet. -/
def State.transmitPart (s : State) (cls peer owner part len : Nat) : State :=
  (List.range (if len ≤ 4096 then 1 else (len + 4095) / 4096)).foldl
    (fun s k => s.sendPiece cls peer owner part (4096 * k) (pieceLen len k)) s

/-- A message to a peer. -/
def State.say (s : State) (cls peer owner part : Nat) (bytes : List Byte) : State :=
  (s.send (.fabric cls peer bytes)).transmitPart cls peer owner part bytes.length

/-! ## The ranks of a group (R277, R409) -/

/-- This device's rank in a job. -/
def State.ownRank (s : State) (wn : Nat) : Nat :=
  match s.world wn with
  | some w => w.np.rank
  | none => 0

/-- The job of a world. -/
def State.jobIn (s : State) (wn : Nat) : Nat := (s.world wn).elim 0 (·.job)

/-- This device's enclave is the job's lease authority (R416). -/
def World.isAuthority (w : World) : Bool := w.fab.authrank == w.np.rank

/-- GROUP of a channel of KIND 3. -/
def Entry.group (e : Entry) : Nat := fieldN e.endpoint.toNat 0 32

/-- Job ranks of the group that a collective's instance began with. -/
def Entry.ranks (e : Entry) : List Nat :=
  (List.range ((e.img.length - 32) / 2)).map fun i => leNat ((e.img.drop (32 + 2 * i)).take 2)

/-- A message of a group collective to one rank: its group, the number of its instance, what it says. -/
def State.toRank (s : State) (cls : Nat) (e : Entry) (rank : Nat) (payload : List Byte) : State :=
  s.say cls (rankPeer e.job rank) e.id 0 (leBytes 4 e.group ++ leBytes 4 e.inst ++ payload)

/-- The same to every other rank of the group. -/
def State.toRanks (s : State) (cls : Nat) (e : Entry) (payload : List Byte) : State :=
  (e.ranks.filter (· != s.ownRank e.world)).foldl (fun s r => s.toRank cls e r payload) s

/-- Queue entries that a completion may release: qwaits and fences of the block (R136, R269). -/
def State.wakeQueues (s : State) (unit : Nat) : State :=
  s.entries.foldl (fun s e =>
    if e.unit == unit && e.phase == .running then
      match e.cmd with
      | .qfence => s.arm (.qfenceComplete e.id)
      | .qwait => s.arm (.qwaitComplete e.id)
      | _ => s
    else s) s

/-- A reference on a frame is given up (R359); what waited for the last one goes on (R361, R381). -/
def State.unrefFrame (s : State) (i : Nat) : State :=
  let s := s.onFrame i fun f => { f with refcnt := f.refcnt - 1 }
  let f := s.frame i
  if f.refcnt = 0 then
    match s.owned.find? fun o => o.job == f.job && o.page == f.page with
    | some o =>
      let s := if o.recalled then s.arm (.holderRecall o.job o.page) else s
      match o.xfer with
      | some (true, dst) => s.arm (.ownerXferX o.job o.page dst)
      | some (false, dst) => s.arm (.ownerXferS o.job o.page dst)
      | none => s
    | none => s
  else s

/-- An entry is complete, its record dealt with: completion count, channel bytes, trace record, barrier arrival,
ENGINE_FAULT (R66, R255, R259, R261, R431), and what waited for it. -/
def State.closeEntry (s : State) (e : Entry) (written : Bool) (status : Nat) (ws : List Word) : State :=
  let s := State.settleOlder { s with entries := s.entries.filter (·.id != e.id) } (.engine e.id)
  let s := e.refs.foldl (fun s r => s.unrefFrame r.2) s
  let s := s.onUnit e.unit fun u => u.onQctr e.qkey fun q => { q with done := q.done + 1 }
  let s := s.onLaunch e.world e.launch fun l =>
    { l with desc := { l.desc with chans := l.desc.chans.mapIdx fun i c =>
        if i = e.chan then { c with outstanding := c.outstanding - e.bytes } else c } }
  let s := match s.world e.world with
    | some w =>
      if bitN w.dbg.trace 0 && !e.cmd.noRecord then
        let blk := match s.unit e.unit with
          | some u => u.block
          | none => 0
        s.putSample e.world (sampleWords e.site e.crewIdx e.quarter 3 status e.pc e.pc e.seq e.launch blk e.qid s.plat.devtime)
      else s
    | none => s
  let s := if !e.cmd.noRecord && bitN (e.word 2) 26 then s.arrive e.unit (fieldN (e.word 2) 22 4) else s
  let s := if !written || statusFaults status then
      match s.faultReceiver e with
      | some (uid, lanes) =>
        s.async uid ⟨.engineFault, status, (List.range 8).foldl (fun m i => tabPut m 0 (8 + i) (ws.getD i 0)) []⟩ lanes
      | none => s
    else s
  let s := (s.startNext e.unit e.qkey).wakeQueues e.unit
  match s.unit e.unit with
  | some u => if u.lastExit then s.post (.lastExitRelease u.uid) else s
  | none => s

/-- An entry completes with a status: its record is written, then the rest follows (R259). A record whose ring's page is
absent waits for that page as any range of the command does (R262): the entry's next start looks at it again. -/
def State.finishEntry (s : State) (id status fault aux bytes path : Nat) : State :=
  match s.entry id with
  | none => s
  | some e =>
    let ws := e.record status fault aux bytes path
    if e.cmd.noRecord then s.closeEntry e true status ws
    else match s.putRecord e ws with
      | (s, .ok _) => s.closeEntry e true status ws
      | (s, .miss ..) =>
        (s.onEntry id fun e => { e with phase := .running, fin := some (status, fault, aux, bytes, path) }).arm
          (.engineEntryStart id)
      | (s, _) => s.closeEntry e false status ws

end Sys2Proof.Machine
end

