-- ==== Sys2Proof/Machine/Tiers.lean ====
section
/-! DEFINITION. The records of KV sequences and roosts, and where their pages are (R286, R289, R356, R391 to R393). A page
in HBM lies in the frame of its global name; one in a lower tier is kept with its record. TIER says where a page is: 0 HBM,
1 the CXL tier, 2 flash, 3 in ascent, and 4 + 10 x from + 100 x to while it descends, 5 in place of 4 when an ascent is
wanted after that. -/

namespace Sys2Proof.Machine

/-- A save of a checkpoint is running: requests of peers are answered HELD, and what writes here from outside the protocol is
refused (R395). -/
def State.saving (s : State) : Bool := (s.ckpt.stat = 1 || s.ckpt.stat = 2) && s.ckpt.pass = 0

/-! ## Sequences and roosts -/

def State.seq (s : State) (id : Nat) : Option Sequence := s.seqs.find? (·.id == id)
def State.onSeq (s : State) (id : Nat) (f : Sequence → Sequence) : State := { s with seqs := mapIf (·.id == id) f s.seqs }

def Sequence.onPage (q : Sequence) (i : Nat) (f : KvPage → KvPage) : Sequence :=
  { q with pages := q.pages.mapIdx fun j p => if j = i then f p else p }

/-- Positions of a page. -/
def Sequence.ppp (q : Sequence) : Nat := pageBytes / (if q.rb = 0 then 1 else q.rb)

/-- Some position of a page is not below the window: the page is not freed (R287). -/
def Sequence.keeps (q : Sequence) (p : KvPage) : Bool := decide (q.ws < (p.idx + 1) * q.ppp)

/-- Where a page is, apart from whence and whither it descends. -/
def tierKind (t : Nat) : Nat := t % 10

def State.roostOf (s : State) (id : Nat) : Option Roost := s.roosts.find? (·.id == id)
def State.onRoost (s : State) (id : Nat) (f : Roost → Roost) : State := { s with roosts := mapIf (·.id == id) f s.roosts }

/-! ## What a roost moves: 0 its state block, then the pages of its sequence by place -/

/-- The CXL tier is there: a group of lanes is a CXL host port (R1, R391). -/
def State.cxlTier (s : State) : Bool := s.plat.cxl.any id

/-- The pages of a state block that lie in frames. -/
def State.statePages (s : State) (r : Roost) : List Nat :=
  (pageParts r.state r.slen).filterMap fun p => match (s.translate r.world noCore p.1).2 with
    | some l => if l.remote then some l.target else none
    | none => none

/-- The names of an item's pages: job and pages. -/
def State.itemNames (s : State) (id page : Nat) : List (Nat × Nat) :=
  if page = 0 then match s.roostOf id with
    | some r => (s.statePages r).map fun n => ((s.world r.world).elim 0 (·.job), n)
    | none => []
  else match s.seq id with
    | some q => (q.pages[page - 1]?).elim [] fun p => [(q.job, p.page)]
    | none => []

/-- The tier that an item is in. -/
def State.itemTier (s : State) (id page : Nat) : Nat :=
  if page = 0 then (s.roostOf id).elim 0 (·.stateTier)
  else ((s.seq id).bind fun q => q.pages[page - 1]?).elim 0 (·.tier)

def State.setItemTier (s : State) (id page tier : Nat) : State :=
  if page = 0 then s.onRoost id fun r => { r with stateTier := tier }
  else s.onSeq id fun q => q.onPage (page - 1) fun p => { p with tier }

/-- The item that a name is a page of: its sequence and number. -/
def State.itemOf (s : State) (job page : Nat) : Option (Nat × Nat) :=
  match s.seqs.findSome? fun q => if q.job == job then (q.pages.zipIdx.find? (·.1.page == page)).map fun p => (q.id, p.2 + 1)
      else none with
  | some x => some x
  | none => (s.roosts.find? fun r => (s.itemNames r.id 0).contains (job, page)).map fun r => (r.id, 0)

/-- What an item's pages hold while they are in a lower tier: page, whether it was held for writing, bytes. -/
def State.itemOut (s : State) (id page : Nat) : List (Nat × Bool × List Byte) :=
  if page = 0 then (s.roostOf id).elim [] (·.stateOut)
  else ((s.seq id).bind fun q => q.pages[page - 1]?).elim [] fun p => [(p.page, p.wr, p.bytes)]

def State.setItemOut (s : State) (id page : Nat) (out : List (Nat × Bool × List Byte)) : State :=
  if page = 0 then s.onRoost id fun r => { r with stateOut := out }
  else s.onSeq id fun q => q.onPage (page - 1) fun p => { p with
    wr := (out.headD (0, false, [])).2.1
    bytes := (out.headD (0, false, [])).2.2 }

/-- An ascended item is held by one REFCNT of each of its frames. -/
def State.itemHeld (s : State) (id page : Nat) : Bool :=
  if page = 0 then (s.roostOf id).any (·.stateHeld)
  else ((s.seq id).bind fun q => q.pages[page - 1]?).any (·.held)

/-- The holds of ascended pages are given up, and their frames belong to no roost (R393). -/
def State.dropHolds (s : State) (id : Nat) : State :=
  let items := (List.range (1 + (s.seq id).elim 0 (·.pages.length))).filter (s.itemHeld id)
  let s := (items.flatMap (s.itemNames id)).foldl (fun s n => match s.frameOf n.1 n.2 with
    | some (i, _) => (s.onFrame i fun f => { f with roost := 0 }).unrefFrame i
    | none => s) s
  (s.onRoost id fun r => { r with stateHeld := false }).onSeq id fun q =>
    { q with pages := q.pages.map fun p => { p with held := false } }

/-- A roost record is freed, and what its pages were held by is given up (R391, R393). -/
def State.freeRoost (s : State) (id : Nat) : State :=
  let s := s.dropHolds id
  { s with roosts := s.roosts.filter (·.id != id) }

end Sys2Proof.Machine
end

