-- ==== Sys2Proof/Machine/Transfer.lean ====
section
/-! DEFINITION. The bytes that the block-transfer engine moves: the sides of a copy, rows, and what an aborted copy
leaves (R46, R262 to R266). -/

namespace Sys2Proof.Machine

/-- One side of a copy: space, first address, row pitch, swizzle mode. -/
structure Side where
  spad : Bool
  base : Nat
  stride : Nat
  mode : Nat
  deriving DecidableEq, Repr

/-- Rows and row bytes of a copy (R264). -/
def Entry.shape (e : Entry) : Nat × Nat :=
  if e.cmd = .cpy2d then (fieldN (e.word 8) 16 16, fieldN (e.word 8) 0 16) else (1, e.word 8)

/-- The address of a circular-buffer slot (R106, R110). -/
def CBuf.slotAddr (c : CBuf) (i : Nat) : Nat := c.core * 2 ^ 19 + c.base + i * c.slot

/-- The address of words `i` and `i + 1` of a descriptor: 64 bits in generic space, bits [21:0] in the scratchpad (R264). -/
def Entry.addr (e : Entry) (spad : Bool) (i : Nat) : Nat :=
  if spad then e.word i % 2 ^ 22 else e.word i + 2 ^ 32 * e.word (i + 1)

def Entry.source (e : Entry) : Side :=
  ⟨bitN (e.word 9) 30, e.addr (bitN (e.word 9) 30) 4, if e.cmd = .cpy2d then e.word 10 else 0, fieldN (e.word 9) 25 3⟩

/-- The destination side; a circular-buffer slot when the descriptor says so (R266). -/
def Entry.dest (e : Entry) (u : BUnit) : Side :=
  let stride := if e.cmd = .cpy2d then e.word 11 else 0
  let mode := fieldN (e.word 9) 22 3
  if bitN (e.word 9) 21 && e.cmd != .cpyred then
    match u.cbs[fieldN (e.word 9) 14 7]? with
    | some c => ⟨true, c.slotAddr (e.slot.getD 0), stride, mode⟩
    | none => ⟨true, 0, stride, mode⟩
  else ⟨bitN (e.word 9) 28, e.addr (bitN (e.word 9) 28) 6, stride, mode⟩

/-- Reads one row. -/
def State.readRow (s : State) (e : Entry) (d : Side) (r n : Nat) : State × EngRes (List Byte) :=
  let a := d.base + r * d.stride
  if d.spad then
    match s.unit e.unit with
    | some u => (s, if u.spadBroken d.mode a n then .poisoned 2 else .ok (u.readSpad d.mode a n))
    | none => (s, .ok (List.replicate n 0))
  else s.cmdRead e d.base a n

/-- Writes one row. -/
def State.writeRow (s : State) (e : Entry) (d : Side) (r : Nat) (l : List Byte) : State × EngRes Unit :=
  let a := d.base + r * d.stride
  if d.spad then (s.spadWrite e.unit d.mode a l, .ok ())
  else s.cmdWrite e d.base a l

/-- Reads `k` rows from row `r` on, in order. -/
def State.readRows (s : State) (e : Entry) (d : Side) (n : Nat) : Nat → Nat → State × EngRes (List (List Byte))
  | 0, _ => (s, .ok [])
  | k + 1, r =>
    match s.readRow e d r n with
    | (s, .ok l) =>
      match State.readRows s e d n k (r + 1) with
      | (s, .ok ls) => (s, .ok (l :: ls))
      | (s, x) => (s, x)
    | (s, .perm x) => (s, .perm x)
    | (s, .miss m) => (s, .miss m)
    | (s, .poisoned x) => (s, .poisoned x)

/-- Writes rows in order; those before a failing row stand, and the entry keeps their number (R259, R262). -/
def State.writeRows (s : State) (e : Entry) (d : Side) : Nat → List (List Byte) → State × EngRes Unit
  | _, [] => (s, .ok ())
  | r, l :: ls =>
    match s.writeRow e d r l with
    | (s, .ok _) => State.writeRows (s.onEntry e.id fun e => { e with progress := [r + 1] }) e d (r + 1) ls
    | (s, x) => (s, x)

/-- Groups of 16 bytes in a row, and bursts in the tile of a handler read (R271). -/
def Entry.hreadShape (e : Entry) : Nat × Nat × Nat × Nat :=
  let rows := fieldN (e.word 6) 16 16
  let rowb := fieldN (e.word 6) 0 16
  let g := (rowb + 15) / 16
  (rows, rowb, g, (rows * g + 31) / 32)

/-- Bytes of the rows all of whose groups have been delivered (R274). -/
def Entry.hreadBytes (e : Entry) : Nat :=
  let (rows, rowb, g, nb) := e.hreadShape
  rowb * ((List.range rows).filter fun r =>
    (List.range nb).all fun b => e.born.contains b || decide (32 * b + 32 ≤ r * g) || decide ((r + 1) * g ≤ 32 * b)).length

/-- Bursts of a handler read not yet born (R274). -/
def Entry.unborn (e : Entry) : Nat := e.hreadShape.2.2.2 - e.born.length

/-- The bytes that a copy or a reduction copy has moved: rows written and further sectors that an abandoned copy has
written, or 4 KiB chunks applied; of a handler read, those delivered (R259, R264, R265, R274). -/
def Entry.moved (e : Entry) : Nat :=
  match e.cmd with
  | .cpy | .cpy2d | .cpymx => e.progress.headD 0 * e.shape.2 + e.progress.getD 1 0
  | .cpyred => 4096 * e.progress.headD 0
  | .hread => e.hreadBytes
  | _ => 0

/-- The flags and the poison bit that the chunks of a reduction copy have raised: its AUX, however it ends (R265). -/
def Entry.redFlags (e : Entry) : Nat := if e.cmd = .cpyred then e.aux.toNat else 0

/-- The pieces of a row of bytes at address `a` that lie in one 32 B sector each: offset in the row and length. -/
def sectors (a len : Nat) : List (Nat × Nat) :=
  if len = 0 then [] else
    (List.range ((a + len - 1) / 32 - a / 32 + 1)).map fun k =>
      let lo := if k = 0 then a else (a / 32 + k) * 32
      let top := (a / 32 + k + 1) * 32
      (lo - a, (if a + len < top then a + len else top) - lo)

/-- One row of a copy that stops: each 32 B sector takes its new content or keeps its prior one, as a free value says
(R46, R262); with the bytes that took the new content. -/
def State.tornRow (s : State) (e : Entry) (d : Side) (r : Nat) (l : List Byte) : State × Nat :=
  (sectors (d.base + r * d.stride) l.length).foldl (fun q p =>
    let (i, s) := q.1.free
    if Config.tornNew i then
      match s.writeRow e { d with base := d.base + r * d.stride + p.1, stride := 0 } 0 ((l.drop p.1).take p.2) with
      | (s, .ok _) => (s, q.2 + p.2)
      | (s, _) => (s, q.2)
    else (s, q.2)) (s, 0)

/-- What a copy that has begun leaves where it stops, beside the rows it has written (R46, R262). -/
def State.tornCopy (s : State) (e : Entry) : State :=
  match s.unit e.unit with
  | none => s
  | some u =>
    let (rows, rowb) := e.shape
    let k := e.progress.headD 0
    match s.readRows e e.source rowb (rows - k) k with
    | (s, .ok ls) =>
      let q := (ls.zipIdx).foldl (fun q p =>
        let x := State.tornRow q.1 e (e.dest u) (k + p.2) p.1
        (x.1, q.2 + x.2)) (s, 0)
      q.1.onEntry e.id fun e => { e with progress := [k, q.2] }
    | (s, _) => s

/-- A command stops: a copy that is running leaves sectors of both kinds (R46, R262, R263). -/
def State.tearEntry (s : State) (e : Entry) : State :=
  match e.cmd with
  | .cpy | .cpy2d | .cpymx => if e.phase == .running && e.fin.isNone then s.tornCopy e else s
  | _ => s

/-- The whole effect of a copy on memory (R264). One that stops at a range after it has begun writing leaves sectors of both
kinds (R262). A read of a private-class destination while the copy is in flight may return prior or new content, sector by
sector (R138): the bytes move in one step here, so it returns the prior content; and a copy whose source stops it writes
nothing (log entry 24, DESIGN CHOICE). -/
def State.moveCopy (s : State) (e : Entry) : State × EngRes Unit :=
  match s.unit e.unit with
  | none => (s, .ok ())
  | some u =>
    let (rows, rowb) := e.shape
    match (s.onEntry e.id fun e => { e with progress := [] }).readRows e e.source rowb rows 0 with
    | (s, .ok ls) => match s.writeRows e (e.dest u) 0 ls with
      | (s, .ok _) => (s, .ok ())
      | (s, x) => ((s.entry e.id).elim s s.tornCopy, x)
    | (s, .perm x) => (s, .perm x)
    | (s, .miss m) => (s, .miss m)
    | (s, .poisoned x) => (s, .poisoned x)

end Sys2Proof.Machine
end

