-- ==== Sys2Proof/Machine/Cancel.lean ====
section
/-! DEFINITION. The ends of the levels of work: a unit's end, a launch's, a graph's, a phase's, and cancellation
(R43 to R50, R336, R337, R339). -/

namespace Sys2Proof.Machine

/-! ## Phases and the job (R337) -/

/-- Every dispatcher looks again. -/
def State.wakeDispatch (s : State) : State := (List.range 4).foldl (fun s d => s.arm (.dispatchUnit d)) s

/-- A level of the world that has been taken and has not ended. -/
def State.worldBusy (s : State) (wn : Nat) : Bool :=
  (s.launches.any fun l => l.world == wn && l.taken && !l.state.ended) || (s.graphs.any fun g => g.world == wn && !g.state.ended)

/-- A level that was taken in a phase has not ended. -/
def State.phaseBusy (s : State) (wn : Nat) (ph : Word) : Bool :=
  (s.launches.any fun l => l.world == wn && l.taken && l.phaseNo == ph && !l.state.ended) ||
    (s.graphs.any fun g => g.world == wn && g.phaseNo == ph && !g.state.ended)

/-- The phase that an entry taken now belongs to (R337). -/
def World.phaseNow (w : World) : Word := w.ctl.phase + BitVec.ofNat 32 w.ctl.marks

/-- Every queue of a world may take its next entry: the queues that the model holds a page for. -/
def State.wakeTakers (s : State) (wn : Nat) : State :=
  match s.world wn with
  | none => s
  | some w => w.kicks.foldl (fun s p => if p.2.enable && p.2.head != p.2.tail then s.post (.queueEntryTake wn p.1) else s) s

/-- The world's next phase, whose mark is passed; levels taken for it may have ended already (R337). -/
def CtlPage.nextPhase (p : CtlPage) : CtlPage :=
  let mine := p.later.filter (·.1 == p.phase + 1)
  { p with
    phase := p.phase + 1
    pstate := .running
    pcount := BitVec.ofNat 32 mine.length
    phaseBad := mine.any (·.2)
    marks := p.marks - 1
    later := p.later.filter (·.1 != p.phase + 1)
    jobHeld := false }

/-- The queue whose current level ended: after a kernel boundary it may take its next entry (R330). -/
def State.queueFreed (s : State) (wn q : Nat) (h : Word) : State :=
  match s.world wn with
  | none => s
  | some w =>
    let k := tabGet w.kicks KickPage.init q
    if k.live = h && h ≠ 0 then
      (s.onWorld wn fun w => { w with kicks := tabPut w.kicks KickPage.init q { k with live := 0 } }).post
        (.kernelBoundary wn h.toNat)
    else s

/-! ## Levels of a phase that was stopped (R47) -/

/-- A level of a phase has ended (R44, R337): it counts in its phase, which one that is not COMPLETE stops. -/
def State.phaseCount (s : State) (wn : Nat) (ph : Word) (st : LState) : State :=
  s.onWorld wn fun w => { w with ctl :=
    if ph = w.ctl.phase then { w.ctl with
      pcount := w.ctl.pcount + 1
      phaseBad := w.ctl.phaseBad || st != .complete }
    else { w.ctl with later := w.ctl.later ++ [(ph, st != .complete)] } }

/-- The status block of a node that has not begun, its state CANCELLED and its end now (R336, R339). -/
def State.putUnbegun (s : State) (wn : Nat) (d : LDesc) (submitted : Nat) : State :=
  let s := s.sampleTime
  (s.devWrite wn d.status (statusBytes .cancelled 0 d.grid 0 0 false 0 0 [submitted, 0, s.plat.devtime.toNat] 0 0)).1

/-- The status blocks of nodes of a graph that are cancelled before they begin. -/
def State.putUnbegunNodes (s : State) (g : Graph) (js : List Nat) : State :=
  js.foldl (fun s j => match g.nodes[j]? with
    | some n => s.putUnbegun g.world n.1 (g.times.headD 0)
    | none => s) s

/-- Nodes of a graph that are QUEUED and have no launch yet. -/
def State.unbegun (s : State) (g : Graph) : List Nat :=
  (List.range g.nodes.length).filter fun j => g.nstate.getD j .complete == .queued &&
    !(s.launches.any fun l => l.world == g.world && l.graph == g.handle && l.node == j)

/-- A launch that no unit of has been dispatched ends CANCELLED. -/
def State.dropLaunch (s : State) (wn : Nat) (h : Word) : State :=
  let s := s.sampleTime
  (s.onLaunch wn h fun l => { l with
    state := .cancelled
    saved := []
    times := l.times.set 2 s.plat.devtime.toNat }).putStatus wn h

/-- A graph that has not begun ends CANCELLED, with its nodes. -/
def State.dropGraph (s : State) (wn : Nat) (h : Word) : State :=
  match s.graph wn h with
  | none => s
  | some g =>
    let s := s.putUnbegunNodes g (s.unbegun g)
    let s := (s.launches.filter fun l => l.world == wn && l.graph == h).foldl (fun s l => s.dropLaunch wn l.handle) s
    let s := s.sampleTime
    (s.onGraph wn h fun g => { g with
      state := .cancelled
      nstate := g.nstate.map fun _ => .cancelled
      times := g.times.set 2 s.plat.devtime.toNat }).putGraphStatus wn h

/-- A stopped phase dispatches no later graph (R47): its levels that wait for their first dispatch end CANCELLED, since
R337 has the phase end when every level taken before its mark has ended (log entry 24, DESIGN CHOICE). -/
def State.stopPhase (s : State) (wn : Nat) : State :=
  match s.world wn with
  | none => s
  | some w =>
    if !w.ctl.phaseBad then s
    else
      let ls := s.launches.filter fun l => l.world == wn && l.taken && l.graph == 0 && l.phaseNo == w.ctl.phase && l.state == .queued
      let gs := s.graphs.filter fun g => g.world == wn && g.phaseNo == w.ctl.phase && g.state == .queued
      let s := ls.foldl (fun s l => ((s.dropLaunch wn l.handle).phaseCount wn l.phaseNo .cancelled).queueFreed wn l.queue l.handle) s
      gs.foldl (fun s g => ((s.dropGraph wn g.handle).phaseCount wn g.phaseNo .cancelled).queueFreed wn g.queue g.handle) s

/-! ## The ends of phases and of the job (R45, R47, R337) -/

/-- A phase that did not end COMPLETE: the job holds dispatch, and the runtime is told (R47, R337). -/
def State.holdJob (s : State) (wn : Nat) (w : World) : State :=
  let st : LState := if w.ctl.pstate = .cancelling then .cancelled else .endedPartial
  (s.onWorld wn fun w => { w with ctl := { w.ctl with
    jobHeld := true
    jobBad := true
    pstate := st
    jcount := w.ctl.jcount + 1 } }).interrupt wn 2 0 [w.ctl.phase.toNat, st.code]

/-- Ends marked phases every level of which has ended: the next one starts, or the job is held (R45, R337). A graph of the
next phase that was cancelled before it started stops that phase too (R47). -/
def State.phasesEnd (wn : Nat) : Nat → State → State
  | 0, s => s
  | n + 1, s =>
    match s.world wn with
    | none => s
    | some w =>
      if w.ctl.marks = 0 || w.ctl.jobHeld || s.phaseBusy wn w.ctl.phase then s
      else if w.ctl.phaseBad then s.holdJob wn w
      else State.phasesEnd wn n (((s.onWorld wn fun w => { w with ctl :=
        { w.ctl.nextPhase with jcount := w.ctl.jcount + 1 } }).wakeDispatch).stopPhase wn)

/-- A world's phase or job may have ended: a cancelled job ends with its phase, a marked phase ends, and a closed job
ends (R45, R47, R337). -/
def State.phaseCheck (s : State) (wn : Nat) : State :=
  match s.world wn with
  | none => s
  | some w =>
    if w.ctl.jstate = .cancelling then
      if s.worldBusy wn then s
      else s.onWorld wn fun w => { w with ctl := { w.ctl with
        jstate := .cancelled
        marks := 0
        pstate := if w.ctl.pstate = .cancelling then .cancelled else w.ctl.pstate
        jcount := if w.ctl.pstate = .cancelling then w.ctl.jcount + 1 else w.ctl.jcount } }
    else
      let s := State.phasesEnd wn (w.ctl.marks + 1) s
      if s.worldBusy wn then s
      else s.onWorld wn fun w =>
        if w.ctl.jobEnded && w.ctl.jstate == .running then { w with ctl := { w.ctl with
          jstate := if w.ctl.jobBad || w.ctl.phaseBad then .endedPartial else .complete } }
        else w

/-- A graph, or a launch outside a graph, of a phase of a world has ended (R337, R44, R47). -/
def State.phaseLevelEnded (s : State) (wn : Nat) (ph : Word) (st : LState) : State :=
  ((s.phaseCount wn ph st).stopPhase wn).phaseCheck wn

/-! ## Graphs (R336, R47) -/

/-- Nodes that depend on node `i`, directly or through others. -/
def Graph.dependents (g : Graph) : Nat → List Nat → List Nat
  | 0, acc => acc
  | k + 1, acc =>
    Graph.dependents g k ((List.range g.nodes.length).filter fun j =>
      acc.contains j || ((g.nodes.getD j (LDesc.init, [])).2.any fun i => acc.contains i))

/-- A graph whose every node has ended takes its final state (R45). -/
def State.graphCheck (s : State) (wn : Nat) (h : Word) : State :=
  match s.graph wn h with
  | none => s
  | some g =>
    if !g.state.ended && g.nstate.all (·.ended) then
      let st := if g.state = .cancelling then LState.cancelled
        else if g.nstate.all (· == .complete) then .complete else .endedPartial
      let s := s.sampleTime
      ((((s.onGraph wn h fun g => { g with state := st, times := g.times.set 2 s.plat.devtime.toNat }).putGraphStatus wn
        h).queueFreed wn g.queue h).phaseLevelEnded wn g.phaseNo st)
    else s.putGraphStatus wn h

/-- Nodes of a graph that have not begun are cancelled (R47). -/
def State.cancelNodes (s : State) (wn : Nat) (h : Word) (js : List Nat) : State :=
  match s.graph wn h with
  | none => s
  | some g =>
    (s.putUnbegunNodes g js).onGraph wn h fun g => { g with
      nstate := g.nstate.mapIdx fun j x => if js.contains j then .cancelled else x }

/-- A node of a graph has ended (R47, R336): a complete one lets its dependents go on after a kernel boundary, any
other cancels them. -/
def State.nodeEnded (s : State) (wn : Nat) (h : Word) (node : Nat) (st : LState) (launch : Word) : State :=
  let s := s.onGraph wn h fun g => { g with nstate := g.nstate.set node st }
  let s := if st = .complete then s.post (.kernelBoundary wn launch.toNat)
    else match s.graph wn h with
      | some g => s.cancelNodes wn h ((s.unbegun g).filter (g.dependents g.nodes.length [node]).contains)
      | none => s
  s.graphCheck wn h

/-! ## Launches -/

/-- A launch has reached a final state: its status block, its graph or phase, its queue (R45, R330, R336, R337). -/
def State.launchEnded (s : State) (wn : Nat) (h : Word) (st : LState) : State :=
  match s.launch wn h with
  | none => s
  | some l =>
    let s := s.sampleTime
    let s := (s.onLaunch wn h fun l => { l with state := st, times := l.times.set 2 s.plat.devtime.toNat }).putStatus wn h
    let s := match l.roost with
      | some r => s.freeRoost r
      | none => s
    if l.graph ≠ 0 then s.nodeEnded wn l.graph l.node st h
    else if l.taken then (s.queueFreed wn l.queue h).phaseLevelEnded wn l.phaseNo st
    else s

/-- Units of a launch that are resident. -/
def State.unitsOf (s : State) (wn : Nat) (h : Word) : List BUnit := s.units.filter fun u => u.world == wn && u.launch == h

/-- Ends a launch whose units are all accounted for. -/
def State.launchCheck (s : State) (wn : Nat) (h : Word) : State :=
  match s.launch wn h with
  | none => s
  | some l =>
    let total := if l.resumeOf.isSome then 1 else l.desc.grid
    if l.state = .cancelling && (s.unitsOf wn h).isEmpty then s.launchEnded wn h .cancelled
    else if (l.state = .running || l.state = .queued) && l.count ≥ total then s.launchEnded wn h .complete
    else s.putStatus wn h

/-- A unit counts as finished in its launch (R44, R49). -/
def State.unitFinished (s : State) (wn : Nat) (h : Word) : State :=
  (s.onLaunch wn h fun l => { l with count := l.count + 1 }).launchCheck wn h

/-! ## Withdrawing crews -/

/-- A crew's token turn comes before another's: ascending `%crew`, and among crews of several blocks that have one `%crew`
in the order in which they were created (R200; log entry 24, DESIGN CHOICE). -/
def Crew.turnBefore (x y : Crew) : Bool := decide (x.idx < y.idx) || (x.idx == y.idx && decide (x.uid < y.uid))

/-- The next crew to hold a quarter's token after `frm`: ascending `%crew`, wrapping (R200). -/
def nextToken (crews : List Crew) (frm : Crew) : Option Crew :=
  match pickBy Crew.turnBefore (crews.filter frm.turnBefore) with
  | some c => some c
  | none => pickBy Crew.turnBefore crews

/-- Crews of a launch on a quarter. -/
def State.crewsOn (s : State) (q : Nat) (wn : Nat) (h : Word) : List Crew :=
  s.crews.filter fun c => quarterNo c.core c.quarter == q && c.world == wn && c.launch == h && c.drip.isNone

/-- A crew blocked in tokp. -/
def Crew.inTokp (c : Crew) : Bool :=
  c.threads.any fun t => match t.st with
    | .blocked .tokp _ => true
    | _ => false

/-- The threads of a crew blocked in tokp: where each continues. -/
def Crew.tokpKeys (c : Crew) : List (Nat × Word × Nat) :=
  c.threads.filterMap fun t => match t.st with
    | .blocked .tokp next => some (t.lane, next, t.wb)
    | _ => none

/-- A crew blocked in tokp has the token: its tokp completes, its threads are filed under (PC + 4, WB) (R32, R200), and
what the passer released is acquired (R201). -/
def State.tokpDone (s : State) (uid : Nat) : State :=
  match s.crew uid with
  | none => s
  | some c => ((s.fileAll uid none c.tokpKeys).acquired uid scopeBlock).syncOp uid

/-- The token of a quarter passes on from a crew, whose earlier accesses the pass releases (R200, R201); a crew blocked in
tokp completes its tokp. A receiver that is in none executes no synchronisation operation (R118). -/
def State.passToken (s : State) (q : Nat) (frm : Crew) : State :=
  match nextToken ((s.crewsOn q frm.world frm.launch).filter (·.uid != frm.uid)) frm with
  | none => s
  | some c =>
    let s := (frm.threads.foldl (fun s t => s.drainLane frm.uid t.lane) s).released frm.uid scopeBlock
    let s := s.onQuarter q fun x => { x with token := some c.uid }
    if c.inTokp then s.tokpDone c.uid else s

/-- Discards a fault-queue entry: FREE, with its generation advanced (R373). -/
def State.freeFault (s : State) (f : Option (Nat × Nat)) (wn : Nat) : State :=
  match f with
  | none => s
  | some (die, i) =>
    let k := (die * 16 + wn) * 4096 + i
    { s with faultq := tabPut s.faultq FqEntry.init k { FqEntry.init with gen := (tabGet s.faultq FqEntry.init k).gen + 1 } }

/-- A waiter leaves its service, which looks at its waiters again (R40, R375). -/
def State.dropWaiter (s : State) (w : Waiter) : State :=
  let ids := (s.services.filter fun v => v.waiters.any fun p => p.2.1 == w).map (·.id)
  let s := { s with services := s.services.map fun (v : Service) =>
    { v with waiters := v.waiters.filter fun p => p.2.1 != w } }
  ids.foldl (fun s i => s.arm (.waiterRunWake i)) s

/-- Discards parked sub-groups (R40). -/
def State.dropGroups (s : State) (p : Group → Bool) : State :=
  let gone := s.groups.filter p
  let s := { s with groups := s.groups.filter fun g => !p g }
  gone.foldl (fun s g =>
    (s.freeFault g.fault g.world).dropWaiter (.group g.id)) s

/-- A parked sub-group becomes an issue set at its instruction and replays it (R38). -/
def State.wakeGroup (s : State) (gid : Nat) : State :=
  match s.groups.find? (·.id == gid) with
  | none => s
  | some g =>
    s.onCrew g.crew fun c => (c.onThreads (fun t => t.st == .parked gid) fun t =>
      { (t.resumeAt g.pc) with replay := some gid }).regroup

/-- A quarter that no crew of its launch is on, and none of whose matrix commands is left, is held by the launch no longer
(R62, R298). A crew of the launch that comes to it later is its first again, and finds it reset (log entry 24, DESIGN
CHOICE: R62 does not speak of a launch that comes back). -/
def State.unbindQuarter (s : State) (q : Nat) : State :=
  match (s.quarter q).bound with
  | some h =>
    if !(s.quarter q).order.isEmpty || s.crews.any fun c => quarterNo c.core c.quarter == q && c.launch == h && c.drip.isNone then s
    else s.onQuarter q fun x => { x with bound := none, token := none }
  | none => s

/-- Crews that have left their cores have no score, and those that are left share the throttle anew (R347). -/
def State.unthrottle (s : State) (uids cores : List Nat) : State :=
  cores.foldl State.throttle { s with
    scores := s.scores.filter fun x => !uids.contains x.1
    swapped := s.swapped.filter fun u => !uids.contains u
    throttled := s.throttled.filter fun u => !uids.contains u }

/-- Takes a crew off the device: what it left in bins, landings, stores, records, parked sub-groups and the token. EXIT is
no synchronisation operation, so no operation closes the last region of a crew that exits: it ends here, with its crew
(log entry 24, DESIGN CHOICE). -/
def State.removeCrew (s : State) (uid : Nat) : State :=
  match s.crew uid with
  | none => s
  | some c =>
    let q := quarterNo c.core c.quarter
    let s := s.dropGroups (·.crew == uid)
    let s := (if c.drip.isSome then s.released uid scopeDevice else s).settleOlder (.crew uid)
    let s := if (s.quarter q).token = some uid then
        match nextToken ((s.crewsOn q c.world c.launch).filter (·.uid != uid)) c with
        | some _ => s.passToken q c
        | none => s.onQuarter q fun x => { x with token := none }
      else s
    let s := if (s.quarter q).bins.any (·.crew == uid) then
        s.onQuarter q fun x => { x with bins := x.bins.filter (·.crew != uid) }
      else s
    (State.unbindQuarter { s with
      crews := s.crews.filter (·.uid != uid)
      landings := s.landings.filter (·.crew != uid)
      stores := s.stores.filter (·.crew != uid)
      recs := s.recs.filter (·.party != .crew uid)
      recWaits := s.recWaits.filter (·.crew != uid) } q).unthrottle [uid] [c.core]

/-- Whether an entry's copy may have begun. -/
def EPhase.begun : EPhase → Bool
  | .queued => false
  | _ => true

/-- The prepared launches of a gang command are dropped (R292). -/
def State.dropGangs (s : State) (e : Entry) : State :=
  let tick := e.word 6 + 2 ^ 32 * e.word 7
  if e.cmd == .gang && s.gangs.any (fun g => g.world == e.world && g.tick == tick && !g.committed) then
    s.arm (.gangAbort ⟨e.world, tick, 0, 0⟩)
  else s

/-- What a message of a group collective says: it joins, carries the counts of an a2av, tells the path of an areduce,
prepares, commits or aborts a gang launch, or withdraws (R277 to R281, R292). -/
def sayJoin : Nat := 1
def sayCounts : Nat := 2
def sayPath : Nat := 3
def sayPart : Nat := 4
def sayPrepare : Nat := 5
def sayCommit : Nat := 6
def sayAbort : Nat := 7
def sayWithdraw : Nat := 8

/-- A group collective whose instance has no outcome yet withdraws: the other ranks are told (R277). -/
def State.withdraw (s : State) (e : Entry) : State :=
  match e.cmd with
  | .a2av | .areduce | .gang => if e.phase.begun then (s.toRanks clsRod e (leBytes 1 sayWithdraw)).dropGangs e else s
  | _ => s

/-- Aborts an engine command (R46): a copy may leave its new or its prior content in each sector; the record says
CANCELLED and counts the bytes moved, and AUX of a handler read counts the unborn bursts (R259, R274). -/
def State.abortEntry (s : State) (id : Nat) : State :=
  match s.entry id with
  | none => s
  | some e =>
    let s := (s.tearEntry e).withdraw e
    let aux := if e.cmd = .hread then e.unborn else e.redFlags
    let moved := (s.entry id).elim 0 Entry.moved
    let s := { s with mcmds := s.mcmds.filter (·.follow != some id), bursts := s.bursts.filter (·.entry != id) }
    let s := s.dropWaiter (.engine id)
    match e.fin with
    | some _ => s.arm (.engineEntryStart id)
    | none => s.finishEntry id stCancelled 0 aux moved 0

/-- Save slots whose addresses are given return to the free pool (R340). -/
def State.freeSlots (s : State) (wn : Nat) (addrs : List Nat) : State :=
  if addrs.isEmpty then s
  else s.onWorld wn fun w => { w with ctl := { w.ctl with
    slotsUsed := w.ctl.slotsUsed.filter fun i => !(addrs.contains (w.ctl.savebase + i * 2 ^ (20 + w.ctl.savelog))) } }

/-- The cancellation of one unit (R46): its crews execute no further, its commands are aborted, its objects go; the unit
is reclaimed when its aborted commands have stopped. Of what an aborted matrix command would have written, R252 leaves prior
or new open: the model leaves the prior content (log entry 24, DESIGN CHOICE). -/
def State.endUnit (s : State) (uid : Nat) : State :=
  let out := s.crews.filter fun c => c.unit == uid && (c.course == .saving || c.course == .resuming)
  let s := s.freeSlots ((out.head?).elim 0 (·.world)) (out.map fun c => c.ctximg.toNat)
  let s := (s.crews.filter (·.unit == uid)).foldl (fun s c => s.removeCrew c.uid) s
  let ids := (s.mcmds.filter (·.unit == uid)).map (·.id)
  let s := { s with mcmds := s.mcmds.filter (·.unit != uid) }
  let s := if ids.isEmpty then s else
    s.quarters.foldl (fun s p => s.onQuarter p.1 fun x => { x with order := x.order.filter fun i => !ids.contains i }) s
  let s := (s.entries.filter (·.unit == uid)).foldl (fun s e => s.abortEntry e.id) s
  (s.onUnit uid fun u => { u with lastExit := true }).post (.lastExitRelease uid)

/-- Cancels one unit, after the cncl that one of its crews is performing (R46, R47). -/
def State.cancelUnit (s : State) (uid : Nat) : State :=
  if (s.unit uid).any (·.cncl.isSome) then s.onUnit uid fun u => { u with cncl := some true } else s.endUnit uid

/-- A crew of a unit begins to perform a cncl. -/
def State.cnclBegin (s : State) (uid : Nat) : State := s.onUnit uid fun u => { u with cncl := some false }

/-- It has performed it in every lane: a cancellation of its own unit applies now (R47). -/
def State.cnclEnd (s : State) (uid : Nat) : State :=
  let hit := (s.unit uid).any fun u => u.cncl == some true
  let s := s.onUnit uid fun u => { u with cncl := none }
  if hit then s.endUnit uid else s

/-- What a saved unit keeps on the device is given up: its commands, parked sub-groups and records (R40, R46, R263). -/
def State.dropSaved (s : State) (v : Saved) : State :=
  let uids := v.crews.map (·.uid)
  let s := (s.entries.filter (·.unit == v.unit)).foldl (fun s e => s.abortEntry e.id) s
  let s := s.dropGroups fun g => uids.contains g.crew
  { s with recs := s.recs.filter fun r => !(uids.any fun u => r.party == .crew u) }

/-- Cancels a launch (R45 to R47). -/
def State.cancelLaunch (s : State) (wn : Nat) (h : Word) : State :=
  match s.launch wn h with
  | none => s
  | some l =>
    if l.state.ended || l.state = .cancelling then s
    else
      let s := (s.onLaunch wn h fun l => { l with state := .cancelling, saved := l.saved.filter (·.claimed) }).putStatus wn h
      let slots := l.saved.flatMap fun v => if v.claimed then [] else v.images
      let s := s.freeSlots wn slots
      let s := l.saved.foldl (fun s v => if v.claimed then s else s.dropSaved v) s
      let s := (s.unitsOf wn h).foldl (fun s u => s.cancelUnit u.uid) s
      s.launchCheck wn h

/-- Cancels a graph: its launches, and nodes that have not begun (R47). -/
def State.cancelGraph (s : State) (wn : Nat) (h : Word) : State :=
  match s.graph wn h with
  | none => s
  | some g =>
    if g.state.ended || g.state = .cancelling then s
    else
      let s := ((s.cancelNodes wn h (s.unbegun g)).onGraph wn h fun g => { g with state := .cancelling }).putGraphStatus wn h
      let s := (s.launches.filter fun l => l.world == wn && l.graph == h).foldl
        (fun s l => s.cancelLaunch wn l.handle) s
      s.graphCheck wn h

/-- Cancels every level of a world that has not ended. -/
def State.cancelAll (s : State) (wn : Nat) : State :=
  let s := (s.graphs.filter (·.world == wn)).foldl (fun s g => s.cancelGraph wn g.handle) s
  (s.launches.filter fun l => l.world == wn && l.taken).foldl (fun s l => s.cancelLaunch wn l.handle) s

/-- Cancels a world's phase and the levels taken in it: it ends stopped, as one that is marked (R45, R47). R337 divides phases
only at a mark; a phase that is cancelled before a mark of it has been taken ends as if one were taken now, so that entries
taken afterwards count to the next phase (log entry 24, DESIGN CHOICE). -/
def State.cancelPhase (s : State) (wn : Nat) : State :=
  match s.world wn with
  | none => s
  | some w =>
    let ph := w.ctl.phase
    let s := s.onWorld wn fun w => { w with ctl := { w.ctl with
      pstate := .cancelling
      phaseBad := true
      marks := if w.ctl.marks = 0 then 1 else w.ctl.marks } }
    let s := (s.graphs.filter fun g => g.world == wn && g.phaseNo == ph).foldl (fun s g => s.cancelGraph wn g.handle) s
    let s := (s.launches.filter fun l => l.world == wn && l.taken && l.phaseNo == ph).foldl
      (fun s l => s.cancelLaunch wn l.handle) s
    s.phaseCheck wn

/-- Cancels a world's job, and its phase with it (R337, R46, R47). -/
def State.cancelJob (s : State) (wn : Nat) : State :=
  let s := s.onWorld wn fun w => { w with ctl := { w.ctl with
    jstate := if w.ctl.jstate.ended then w.ctl.jstate else .cancelling
    pstate := if w.ctl.pstate = .running then .cancelling else w.ctl.pstate
    jobEnded := true
    jobHeld := false } }
  (s.cancelAll wn).phaseCheck wn

/-- Answer of cncl for a level's state (R45, R293): 0 accepted, 1 ALREADY_DONE, 3 IN_PROGRESS. -/
def cancelAnswer (st : LState) : Nat := if st.ended then 1 else if st = .cancelling then 3 else 0

/-- cncl (R44, R293): launch, graph, phase, job; the handle of a phase is its number, of a job the job number
(log entry 12). -/
def State.cancelLevel (s : State) (wn level : Nat) (h : Word) : State × Nat :=
  match level with
  | 0 => match s.launch wn h with
    | some l => if cancelAnswer l.state = 0 then (s.cancelLaunch wn h, 0) else (s, cancelAnswer l.state)
    | none => (s, 2)
  | 1 => match s.graph wn h with
    | some g => if cancelAnswer g.state = 0 then (s.cancelGraph wn h, 0) else (s, cancelAnswer g.state)
    | none => (s, 2)
  | 2 => match s.world wn with
    | some w =>
      if h = w.ctl.phase then
        if cancelAnswer w.ctl.pstate = 0 then (s.cancelPhase wn, 0) else (s, cancelAnswer w.ctl.pstate)
      else if h < w.ctl.phase then (s, 1) else (s, 2)
    | none => (s, 2)
  | _ => match s.world wn with
    | some w =>
      if h.toNat = w.job then
        if cancelAnswer w.ctl.jstate = 0 then (s.cancelJob wn, 0) else (s, cancelAnswer w.ctl.jstate)
      else (s, 2)
    | none => (s, 2)

end Sys2Proof.Machine
end

