-- ==== Sys2Proof/Machine/Ops.lean ====
section
/-! DEFINITION. The operations that every instruction shares: taking a trap and returning from one, the checks before
an instruction, results in flight, accepted stores, parking, and the four shapes of an instruction: on each thread
alone, lane by lane through the state, once for the issue set, and as a crew-collective. -/

namespace Sys2Proof.Machine

/-! ## Traps (R307 to R312) -/

/-- Cause codes (R308). -/
def Cause.num : Cause → Nat
  | .ill => 0x01
  | .regRange => 0x02
  | .depv => 0x03
  | .uninit => 0x04
  | .misalign => 0x05
  | .stackLimit => 0x06
  | .pagePerm => 0x07
  | .mmx => 0x08
  | .chan => 0x09
  | .collMismatch => 0x0A
  | .brk => 0x0B
  | .watch => 0x0C
  | .engineFault => 0x10
  | .quarantine => 0x11
  | .declinedKill => 0x12
  | .preempt => 0x13

/-- Asynchronous causes. -/
def Cause.isAsync : Cause → Bool
  | .engineFault | .quarantine | .declinedKill | .preempt => true
  | _ => false

/-- Reason codes of ILL (R148). -/
def illNum : IllReason → Nat
  | .unassigned => 1
  | .reserved => 2
  | .mode => 3
  | .context => 4
  | .operand => 5
  | .fetch => 6

def Mode.num : Mode → Nat
  | .U => 0
  | .S => 1
  | .M => 2

/-- The sixteen words of a trap record (R312). -/
def trapRecord (tr : Trap) (pc : Word) (lost : Nat) : Tab Word :=
  let w0 := (if lost > 255 then 255 else lost) * 2 ^ 24 + tr.reason % 256 * 2 ^ 16 +
    (if tr.cause.isAsync then 256 else 0) + tr.cause.num
  tabPut (tabPut tr.words 0 0 (BitVec.ofNat 32 w0)) 0 1 pc

/-- Trap entry of one thread (R309, R310): the saved registers, the record, the mode, and the vector. -/
def Thread.enter (t : Thread) (tr : Trap) (tpc : Word) (lost : Nat) : Thread :=
  { t with
    st := .running
    inTrap := true
    entering := none
    tcause := tr.cause.num
    tpc := tpc
    twb := BitVec.ofNat 32 t.wb
    tpred := t.preds
    taflg := t.aflg
    tmode := t.mode
    trec := trapRecord tr (if tr.cause.isAsync then tpc else t.pc) lost
    mode := if t.mode = .U then .S else .M
    pc := BitVec.ofNat 32 (16 * tr.cause.num) }

/-- A trap raised in a thread: it is entered when the thread's pending results have landed (R153, R309). -/
def Thread.raise (t : Thread) (tr : Trap) : Thread := { t with entering := some (tr, t.pc) }

/-- The order in which the sets that one instruction has faulting take their traps (R104, R125). -/
def Cause.turn : Cause → Nat
  | .stackLimit => 1
  | .pagePerm => 2
  | .mmx => 3
  | _ => 0

/-- The cause's turn of a thread that waits to enter its trap. -/
def Thread.trapTurn (t : Thread) : Nat :=
  match t.entering with
  | some p => p.1.cause.turn
  | none => 0

/-- The threads that trap together have no result pending (R153), and no set of the same instruction comes before them
(R104). -/
def Crew.mayEnter (c : Crew) (t : Thread) : Bool :=
  c.threads.all fun u => u.entering.isNone ||
    ((u.set != t.set || pendClear c u none) && (u.pc != t.pc || decide (t.trapTurn ≤ u.trapTurn)))

/-- Some thread enters its trap now. -/
def Crew.anyEnter (c : Crew) : Bool := c.threads.any fun t => t.entering.isSome && c.mayEnter t

/-- Every trap that may be entered is entered (R309), and the issue sets are formed again. -/
def Crew.settle (c : Crew) : Crew :=
  if c.anyEnter then
    ({ c with
      lost := 0
      threads := c.threads.map fun (t : Thread) =>
        match t.entering with
        | some (tr, tpc) => if c.mayEnter t then t.enter tr tpc c.lost else t
        | none => t }).regroup
  else c.regroup

/-- The return from a trap of one thread (R311): window, predicates, flags, PC and mode come back. -/
def Thread.return (t : Thread) : Thread :=
  { t with
    wb := t.twb.toNat
    preds := t.tpred
    aflg := t.taflg
    pc := t.tpc
    mode := t.tmode
    inTrap := t.tmode != .U }

/-! ## Settling -/

/-- A thread still stands where it stood, ready to issue. -/
def Crew.stands (c : Crew) (p : Nat × Word) : Bool :=
  match c.thread p.1 with
  | some t => t.ready && t.pc == p.2
  | none => false

/-- A halt takes effect at an instruction boundary at which no thread of the crew is In trap; a crew returns to HALTED from a
step once its set has performed the instruction, and not where it only waited (R433). -/
def Halt.check (c : Crew) : Halt :=
  match c.halt with
  | .halting => if c.threads.any fun t => t.live && t.inTrap then .halting else .halted
  | .stepped l => if !l.isEmpty && l.all c.stands then .stepping else .halted
  | h => h

/-- The crew after that. -/
def Crew.haltCheck (c : Crew) : Crew := { c with halt := Halt.check c }

/-- The same for a crew of the state; a prefix and the word it guards are one instruction (R149). -/
def State.haltCheck (s : State) (uid : Nat) : State :=
  if s.iss.guard.isSome && s.iss.crew == uid then s else s.onCrew uid Crew.haltCheck

/-- The traps that a crew's threads may enter are entered. Entry is a synchronisation operation and a release at device
scope (R118, R309); a trap taken from S mode goes to M mode, where firmware cancels the launch and posts S_FAULT (R310). -/
def State.enterTraps (s : State) (c : Crew) : State :=
  let uid := c.uid
  let lanes := (c.threads.filter fun t => t.entering.isSome && c.mayEnter t).map (·.lane)
  let s := lanes.foldl (fun s l => s.drainLane uid l) s
  let s := (s.onCrew uid Crew.settle).syncRel uid scopeDevice
  let entered : List Thread := match s.crew uid with
    | some c => c.threads.filter fun t => lanes.contains t.lane
    | none => []
  let blk := match s.unit c.unit with
    | some u => u.block
    | none => 0
  let traced := match s.world c.world with
    | some w => bitN w.dbg.trace 1
    | none => false
  -- one record for each cause: the threads of one cause enter as one set (R104, R431)
  let firsts := entered.zipIdx.filter fun p => !((entered.take p.2).any fun t => t.tcause == p.1.tcause)
  let s := if !traced then s else firsts.foldl (fun s p =>
        let t := p.1
        let ef := t.tcause = Cause.engineFault.num
        let pc := tabGet t.trec 0 1
        s.putSample c.world (sampleWords c.core c.idx c.quarter 4 t.tcause pc
          (if ef then tabGet t.trec 0 10 else pc) (if ef then tabGet t.trec 0 9 else 0) c.launch blk
          (if ef then fieldN (tabGet t.trec 0 8).toNat 8 8 else 0) s.plat.devtime)) s
  match entered.find? fun t => t.mode = .M with
  | some t =>
    (s.interrupt c.world 1 c.launch ((List.range 6).map fun i => (tabGet t.trec 0 i).toNat)).cancelLaunch
      c.world c.launch
  | none => s

/-- The same while more may be entered: the sets of one instruction take their traps one after another (R104). -/
def State.enterAll (uid : Nat) : Nat → State → State
  | 0, s => s
  | n + 1, s =>
    match s.crew uid with
    | some c => if c.anyEnter then State.enterAll uid n (s.enterTraps c) else s
    | none => s

/-- A crew after a change of it: traps that may be entered are entered, and its issue sets are formed. -/
def State.settle (s : State) (uid : Nat) : State :=
  match s.crew uid with
  | none => s
  | some c =>
    State.haltCheck (uid := uid) <| if c.anyEnter then State.enterAll uid 8 s else s.onCrew uid Crew.regroup

/-! ## Results in flight (R152) -/

/-- Marks registers pending with their producer. -/
def pendAll (t : Tab (Option Word)) (ps : List Nat) (pc : Word) : Tab (Option Word) :=
  ps.foldl (fun m p => tabPut m none p (some pc)) t

/-- Clears pending bits. -/
def pendNone (t : Tab (Option Word)) (ps : List Nat) : Tab (Option Word) := ps.foldl (fun m p => tabPut m none p none) t

/-- A variable-latency result of a thread goes into flight: its registers are pending until it lands; `mem` says whether it
is a request to memory (R17). -/
def State.inFlight (s : State) (uid lane : Nat) (pc : Word) (vals : List (Nat × Word)) (row : Option (Nat × List Byte))
    (mem : Bool := false) : State :=
  let (id, s) := s.fresh
  let s := s.onLane uid lane fun t => { t with pendX := pendAll t.pendX (vals.map Prod.fst) pc }
  ({ s with landings := s.landings ++ [(⟨id, uid, lane, false, vals, row, none, false, mem⟩ : Landing)] }).post
    (match row with
      | none => .resultLand id
      | some _ => .kvldStatusLand id)

/-- The two halves of a 16 B load: the first is read, the second will be, before the thread's next access (R129). The
spec does not say which half comes first (log entry 11, DESIGN CHOICE: the lower one). -/
def State.inHalves (s : State) (uid lane : Nat) (pc : Word) (vals : List (Nat × Word)) (late : Late) : State :=
  let (id, s) := s.fresh
  let s := s.onLane uid lane fun t => { t with pendX := pendAll t.pendX (vals.map Prod.fst ++ late.regs) pc }
  ({ s with landings := s.landings ++ [(⟨id, uid, lane, false, vals, none, some late, false, true⟩ : Landing)] }).post
    (.resultLand id)

/-- The old value of an atomic goes into flight to registers: an accepted atomic, which is performed later, brings it
(R122). -/
def State.inAtomic (s : State) (uid lane : Nat) (pc : Word) (regs : List Nat) (mem : Bool) : Nat × State :=
  let (id, s) := s.fresh
  let s := s.onLane uid lane fun t => { t with pendX := pendAll t.pendX regs pc }
  (id, ({ s with landings := s.landings ++ [(⟨id, uid, lane, false, regs.map (·, 0), none, none, true, mem⟩ : Landing)] }).post
    (.resultLand id))

/-- The same for a uniform result (R212). -/
def State.inFlightU (s : State) (uid : Nat) (pc : Word) (vals : List (Nat × Word)) : State :=
  let (id, s) := s.fresh
  let s := s.onCrew uid fun c => { c with pendS := pendAll c.pendS (vals.map Prod.fst) pc }
  ({ s with landings := s.landings ++ [(⟨id, uid, 0, true, vals, none, none, false, true⟩ : Landing)] }).post (.resultLand id)

/-- Writes a thread's registers and clears their pending bits; an exited thread's are discarded (R48, R152). -/
def Thread.deliver (t : Thread) (vals : List (Nat × Word)) : Thread :=
  let t : Thread := { t with pendX := pendNone t.pendX (vals.map Prod.fst) }
  if t.live then vals.foldl (fun (t : Thread) (p : Nat × Word) => t.setX p.1 p.2) t else t

/-- A result lands (R152): what of its accesses is still to be performed is performed first. -/
def State.landNow (s : State) (id : Nat) : State :=
  match s.landings.find? (·.id == id) with
  | none => s
  | some l0 =>
    let s := match l0.late with
      | some x => s.readLate fun l => l.crew == l0.crew && match l.late with
        | some y => y.tag == x.tag
        | none => false
      | none => s
    let s := if l0.awaits then s.performStores fun q => q.op.lands == some id else s
    let s := s.landRows (·.id == id)
    let vals := ((s.landings.find? (·.id == id)).elim l0.vals (·.vals))
    let s := { s with landings := s.landings.filter (·.id != id) }
    let s := if l0.uni then s.onCrew l0.crew fun c =>
        vals.foldl (fun c p => c.setS p.1 p.2) { c with pendS := pendNone c.pendS (vals.map (·.1)) }
      else s.onLane l0.crew l0.lane fun t => t.deliver vals
    s.settle l0.crew

/-! ## Checks before an instruction -/

/-- What an instruction knows of its own issue: the crew, its word, and the guard its prefix latched. -/
structure Env where
  uid : Nat
  word : Word
  guard : Option (BitVec 4)
  /-- the crew's region as the instruction began -/
  region : Nat

/-- A synchronisation operation closes the crew's region once for the whole issue set (R118). -/
def State.syncFor (s : State) (e : Env) : State :=
  if ((s.crew e.uid).elim 0 (·.region)) = e.region then s.syncOp e.uid else s

/-- The ordering of an access or a fence with semantics: a release performs the thread's earlier accesses, an acquire
stands after what others released, and either opens a new region (R118, R130 to R132). -/
def State.order (s : State) (e : Env) (lane : Nat) (acq rel : Bool) (scope : Nat) : State :=
  let s := if rel then (s.drainLane e.uid lane).released e.uid scope else s
  let s := if acq then s.acquired e.uid scope else s
  if acq || rel then s.syncFor e else s

/-- The shape of an instruction: its word, switch marker, operands, the uniform predicates it names, and what restricts
where it may execute (R150, R156, R161, R162). -/
structure Form where
  word : Word
  sw : Bool
  ops : List Opnd
  qs : List Nat := []
  uniform : Bool := false
  drip : Bool := true
  crew : Bool := true
  priv : Bool := false
  firmware : Bool := false
  coll : Bool := false
  guardable : Bool := true

/-- The word of a guard prefix (R149). -/
def guardWord (g : BitVec 4) : Word := 0#1 ++ 0x3E#6 ++ g ++ 0#21

/-- The ILL record: the word, or the prefix and the guarded word; 0 for FETCH (R312). -/
def illTrap (guard : Option (BitVec 4)) (w : Word) (r : IllReason) : Trap :=
  if r = .fetch then mkTrap .ill (illNum r) [0]
  else match guard with
    | none => mkTrap .ill (illNum r) [w.toNat]
    | some g => mkTrap .ill (illNum r) [(guardWord g).toNat, w.toNat]

def Env.ill (e : Env) (r : IllReason) : Trap := illTrap e.guard e.word r

/-- The address of the instruction itself, which a latched prefix precedes (R149). -/
def Env.pcI (e : Env) (t : Thread) : Word := if e.guard.isSome then t.pc + 4 else t.pc

/-- PC + 4 (R149). -/
def Env.next (e : Env) (t : Thread) : Word := e.pcI t + 4

/-- A collective in a handler other than the save and resume routines (R314). -/
def Thread.inPlainHandler (t : Thread) : Bool := t.inTrap && t.tcause != 0x13 && t.tcause != 0x14

/-- Checks 2 (of the prefix), 3 and 4 of R148, made in every active thread (R150, R161, R162). -/
def wordTrap (e : Env) (f : Form) (c : Crew) (t : Thread) : Option Trap :=
  if e.guard.isSome && !f.guardable then some (e.ill .reserved)
  else if (f.priv && t.mode = .U) || (f.firmware && t.mode != .M) then some (e.ill .mode)
  else if c.drip.isSome && (!f.drip || f.uniform || f.ops.any (·.cls = .s) || !f.qs.isEmpty) then some (e.ill .context)
  else if c.drip.isNone && !f.crew then some (e.ill .context)
  else if f.coll && t.inPlainHandler then some (e.ill .context)
  else none

/-- REG_RANGE, DEPV when S = 0, then UNINIT (R154); a collective leaves UNINIT to its performance (R87). -/
def opCheck (e : Env) (f : Form) (c : Crew) (t : Thread) : Option Trap :=
  let excl := if f.coll then some (e.pcI t) else none
  match regRange c t f.ops with
  | some tr => some tr
  | none =>
    match (if f.sw then none else depv c t excl none f.qs f.ops) with
    | some tr => some tr
    | none => if f.coll then none else uninit c t f.ops

/-- A thread-class guard is true (R149). -/
def Env.guardTrue (e : Env) (t : Thread) : Bool :=
  match e.guard with
  | none => true
  | some g => predField t.preds g

/-- Threads of an issue set that may execute. -/
def sel (k0 : Nat) (t : Thread) : Bool := t.ready && t.set == k0

/-- A thread of the issuing set raises the trap of its word checks, if one fails (R148). -/
def Thread.wordChecked (t : Thread) (e : Env) (f : Form) (c : Crew) (k0 : Nat) : Thread :=
  if sel k0 t then
    match wordTrap e f c t with
    | some tr => t.raise tr
    | none => t
  else t

/-- No set is issuing. -/
def State.issued (s : State) : State := { s with iss := ⟨0, 0, none⟩ }

/-- The issue of an instruction by the set that `iss` names: the word checks of every active thread, the wait of
S = 1 (R152), then the instruction; then traps are entered and sets formed. -/
def issue (f : Form) (s : State) (k : Env → Nat → Crew → State → State) : Out :=
  match s.crew s.iss.crew with
  | none => .fault .noIssueSet
  | some c =>
    let k0 := s.iss.set
    if !(c.threads.any (sel k0)) then .fault .noIssueSet
    else
      let e : Env := ⟨c.uid, f.word, s.iss.guard, c.region⟩
      let c' : Crew := { c with threads := c.threads.map fun (t : Thread) => t.wordChecked e f c k0 }
      let s := (s.onCrew c.uid fun _ => c').issued
      let go := c'.threads.filter (sel k0)
      if go.isEmpty then .next (s.settle c.uid)
      else if f.sw && !(go.all fun (t : Thread) => pendClear c' t (if f.coll then some (e.pcI t) else none)) then
        .next (s.settle c.uid)
      else .next ((k e k0 c' s).settle c.uid)

/-! ## On each thread alone -/

/-- One thread: guard, operand checks, then its effect with the PC already moved on; a trap leaves it as it was. -/
def stepThread (e : Env) (f : Form) (c : Crew) (g : Thread → Except Trap Thread) (t : Thread) : Thread :=
  if e.guardTrue t then
    match opCheck e f c t with
    | some tr => t.raise tr
    | none =>
      match g { t with pc := e.next t } with
      | .ok t' => t'
      | .error tr => t.raise tr
  else { t with pc := e.next t }

/-- A thread-class instruction whose whole effect lies in its threads (R171). -/
def execThreads (f : Form) (s : State) (g : Env → Crew → Thread → Except Trap Thread) : Out :=
  issue f s fun e k0 c s =>
    s.onCrew e.uid fun _ => { c with threads := c.threads.map fun (t : Thread) => if sel k0 t then stepThread e f c (g e c) t else t }

/-- The same where no value of the operands is refused. -/
def execPure (f : Form) (s : State) (g : Crew → Thread → Thread) : Out :=
  execThreads f s fun _ c t => .ok (g c t)

/-- A word whose operand value no form permits (R61): check 5, in the threads whose guard is true. -/
def refuseOperand (f : Form) (s : State) : Out := execThreads f s fun e _ _ => .error (e.ill .operand)

/-! ## Lane by lane -/

/-- What one lane of a memory or engine instruction meets. -/
inductive LaneRes where
  /-- performed: the thread continues at PC + 4 -/
  | done
  /-- the instruction itself has set where the thread stands -/
  | held
  | trap (tr : Trap)
  | park (job page : Nat) (write : Bool)
  /-- it stays at the instruction, as a stall (R128, R255); `true`: the lanes after it wait behind it -/
  | stall (all : Bool)
  deriving DecidableEq, Repr

/-- The replay of a woken sub-group is over for a lane (R38, R373, R376). -/
def State.replayOver (s : State) (uid lane : Nat) : State :=
  match (s.crew uid).bind (·.thread lane) with
  | some t =>
    match t.replay with
    | none => s
    | some gid =>
      let s := s.onLane uid lane fun t => { t with replay := none }
      let s := { s with groups := s.groups.map fun (g : Group) =>
        if g.id == gid then { g with lanes := g.lanes.filter (· != lane) } else g }
      match s.groups.find? (·.id == gid) with
      | some g =>
        if g.lanes.isEmpty then (s.dropGroups (·.id == gid)).dropEnded uid else s
      | none => s
  | none => s

/-- The region an access of a thread belongs to: its first issue's when it is a replay (R40). -/
def State.accessRegion (s : State) (c : Crew) (t : Thread) : Nat :=
  match t.replay with
  | some gid =>
    match s.groups.find? (·.id == gid) with
    | some g => g.region
    | none => c.region
  | none => c.region

/-- A write waiter whose replay parks anew stays where it is in its service, by the number of its new sub-group, so that the
waiters after it wait until its replay is performed; the post-fill hold is kept for it no longer (R376, R377). -/
def State.reparked (s : State) (old new : Nat) : State :=
  let ids := (s.services.filter fun v => v.waiters.any fun p => p.2.1 == .group old && p.2.2.1).map (·.id)
  if ids.isEmpty then s
  else
    let keep := fun (v : Service) => { v with
      waiters := v.waiters.map fun p => if p.2.1 == .group old then (p.1, .group new, p.2.2.1, true) else p
      present := v.present.filter fun f => !(v.waiters.any fun p => p.1 == f && p.2.1 == .group old) }
    ids.foldl (fun s i => s.arm (.waiterRunWake i)) { s with services := mapIf (fun v => ids.contains v.id) keep s.services }

/-- Parks lanes that met one page: one sub-group, which posts its fault when the queue has room (R36, R39), and which
keeps the uniform state that a replay reads again (R38). -/
def State.parkGroup (s : State) (c : Crew) (lanes : List Nat) (job page : Nat) (write : Bool) : State :=
  let region := match (lanes.head?).bind c.thread with
    | some t => s.accessRegion c t
    | none => c.region
  let pc := match (lanes.head?).bind c.thread with
    | some t => t.pc
    | none => 0
  let (sregs, qpreds, uwb) := match ((lanes.head?).bind c.thread).bind fun t => t.replay.bind fun g =>
      s.groups.find? (·.id == g) with
    | some g => (g.sregs, g.qpreds, g.uwb)
    | none => (c.sregs, c.qpreds, c.uwb)
  let (gid, s) := s.fresh
  let s := { s with groups := s.groups ++
    [(⟨gid, c.uid, c.world, c.core, c.quarter, c.drip.isSome, lanes, pc, job, page, write, region, none, sregs, qpreds, uwb⟩ : Group)] }
  let s := match ((lanes.head?).bind c.thread).bind (·.replay) with
    | some g => s.reparked g gid
    | none => s
  let s := lanes.foldl (fun s l => s.replayOver c.uid l) s
  (s.onCrew c.uid fun c => (c.onThreads (fun t => lanes.contains t.lane) fun t => { t with st := .parked gid }).band
    lanes).post (.faultEntryPostHeld gid)

/-- The pages among parked lanes, in order of first lane. -/
def parkPages : List (Nat × Nat × Nat × Bool) → List (Nat × Nat)
  | [] => []
  | (_, j, p, _) :: r => (j, p) :: (parkPages r).filter (· != (j, p))

/-- Runs the lanes of a set in ascending order (R105). -/
def runLanes (e : Env) (f : Form) (body : Env → Crew → Thread → State → State × LaneRes) :
    List Thread → State → State × List (Nat × LaneRes)
  | [], s => (s, [])
  | t :: r, s =>
    match s.crew e.uid with
    | none => (s, [])
    | some c =>
      let (s, res) := match opCheck e f c t with
        | some tr => (s, LaneRes.trap tr)
        | none => body e c t s
      match res with
      | .stall true => (s, [(t.lane, res)])
      | _ =>
        let (s, l) := runLanes e f body r s
        (s, (t.lane, res) :: l)

/-- Ends a lane by lane instruction: performed threads go on, trapping ones raise, those that the instruction left blocked
and those that park leave the set together. -/
def closeLanes (e : Env) (s : State) (l : List (Nat × LaneRes)) : State :=
  let s := l.foldl (fun s p => match p.2 with
    | .done => (s.onLane e.uid p.1 fun t => { t with pc := e.next t }).replayOver e.uid p.1
    | .held => s.replayOver e.uid p.1
    | .trap tr => (s.replayOver e.uid p.1).onLane e.uid p.1 fun t => t.raise tr
    | _ => s) s
  let held := (l.filter fun p => p.2 == .held).map (·.1)
  let s := if held.isEmpty then s else s.onCrew e.uid (·.band held)
  let parks := l.filterMap fun p => match p.2 with
    | .park j pg w => some (p.1, j, pg, w)
    | _ => none
  (parkPages parks).foldl (fun s jp =>
    let mine := parks.filter fun q => q.2.1 == jp.1 && q.2.2.1 == jp.2
    match s.crew e.uid with
    | some c => s.parkGroup c (mine.map (·.1)) jp.1 jp.2 (mine.any (·.2.2.2))
    | none => s) s

/-- The lanes of an issue set whose guard is true, after what `pre` does before the first of them acts; the others go
on at PC + 4. -/
def runSet (f : Form) (pre : Env → Crew → List Thread → State → State)
    (body : State → Env → Crew → Thread → State → State × LaneRes) (e : Env) (k0 : Nat) (c : Crew) (s : State) : State :=
  let ts := c.threads.filter fun t => sel k0 t && e.guardTrue t
  let s := s.onCrew e.uid fun c => c.onThreads (fun t => sel k0 t && !e.guardTrue t) fun t => { t with pc := e.next t }
  let s0 := pre e c ts s
  let (s, l) := runLanes e f (body s0) ts s0
  closeLanes e s l

/-- A thread-class instruction that acts on the state lane by lane, with what all its lanes do before the first of them
acts, after which stands the state that `body` has first: the lanes of a load first perform their threads' earlier stores
to what they read, and then all of them read what that state holds, one value (R105). -/
def execLanesAfter (f : Form) (s : State) (pre : Env → Crew → List Thread → State → State)
    (body : State → Env → Crew → Thread → State → State × LaneRes) : Out :=
  issue f s (runSet f pre body)

/-- A thread-class instruction that acts on the state lane by lane. -/
def execLanes (f : Form) (s : State) (body : Env → Crew → Thread → State → State × LaneRes) : Out :=
  execLanesAfter f s (fun _ _ _ s => s) fun _ => body

/-! ## Once for the issue set -/

/-- A uniform-class guard (R151). -/
def Env.guardTrueU (e : Env) (c : Crew) : Bool :=
  match e.guard with
  | none => true
  | some g => predField c.qpreds g

/-- The index of the uniform predicate that guards (R153). -/
def Env.guardQ (e : Env) : Option Nat := e.guard.map fun g => (g.extractLsb' 0 3).toNat

/-- DEPV of a uniform-class guard, then the operand checks, for the set as a whole. -/
def opCheckU (e : Env) (f : Form) (c : Crew) (t : Thread) : Option Trap :=
  let excl := if f.coll then some (e.pcI t) else none
  match regRange c t f.ops with
  | some tr => some tr
  | none =>
    match (if f.sw then none else depv c t excl e.guardQ f.qs f.ops) with
    | some tr => some tr
    | none => if f.coll then none else uninit c t f.ops

/-- A pending guard predicate is a DEPV before the guard is read; REG_RANGE comes before it (R153, R154). -/
def guardPends (e : Env) (f : Form) (c : Crew) (t : Thread) : Option Trap :=
  if f.sw then none
  else match depv c t (if f.coll then some (e.pcI t) else none) e.guardQ [] [] with
    | none => none
    | some tr => some ((regRange c t f.ops).getD tr)

/-- The crew as a replayed uniform load reads it: with the uniform state of its park, of which nothing is pending (R38). -/
def State.asParked (s : State) (c : Crew) (t : Thread) : Crew :=
  match t.replay.bind fun g => s.groups.find? (·.id == g) with
  | some g => { c with
    sregs := g.sregs
    qpreds := g.qpreds
    uwb := g.uwb
    pendS := []
    pendQ := [] }
  | none => c

/-- A uniform-class instruction, performed once per issue set (R56, R151, R171). -/
def execUniform (f : Form) (s : State) (body : Env → Crew → Thread → State → State × LaneRes) : Out :=
  issue { f with uniform := true } s fun e k0 c s =>
    let all := fun (s : State) (g : Thread → Thread) => s.onCrew e.uid fun c => c.onThreads (sel k0) g
    let lanes := (c.threads.filter (sel k0)).map (·.lane)
    match c.threads.find? (sel k0) with
    | none => s
    | some t =>
      let c := s.asParked c t
      match guardPends e f c t with
      | some tr => all s fun t => t.raise tr
      | none =>
        if !e.guardTrueU c then all s fun t => { t with pc := e.next t }
        else
          match opCheckU e f c t with
          | some tr => all s fun t => t.raise tr
          | none =>
            match body e c t s with
            | (s, .done) => lanes.foldl (fun s l => s.replayOver e.uid l) (all s fun t => { t with pc := e.next t })
            | (s, .trap tr) => lanes.foldl (fun s l => s.replayOver e.uid l) (all s fun t => t.raise tr)
            | (s, .park j p w) => s.parkGroup c lanes j p w
            | (s, _) => s

/-- A uniform instruction whose whole effect lies in the crew, with flags for its acting threads (R172). -/
def execCrew (f : Form) (s : State) (g : Crew → Crew × Flags) : Out :=
  issue { f with uniform := true } s fun e k0 c s =>
    s.onCrew e.uid fun _ =>
      match c.threads.find? (sel k0) with
      | none => c
      | some t =>
        match guardPends e f c t with
        | some tr => c.onThreads (sel k0) fun t => t.raise tr
        | none =>
          if !e.guardTrueU c then c.onThreads (sel k0) fun t => { t with pc := e.next t }
          else
            match opCheckU e f c t with
            | some tr => c.onThreads (sel k0) fun t => t.raise tr
            | none => (g c).1.onThreads (sel k0) fun t => { t.flag (g c).2 with pc := e.next t }

end Sys2Proof.Machine
end

