-- ==== Sys2Proof/Machine/Bins.lean ====
section
/-! DEFINITION. Reform bins: which sets may issue, filing, the choice of a bin, its release (R27 to R31, R204). -/

namespace Sys2Proof.Machine

/-! ## Sets that may issue -/

/-- A crew that may issue: not halted, or given one step (R433). -/
def Crew.mayIssue (c : Crew) : Bool := c.halt != .halted

/-- A thread that may issue: the resume routine's tret holds it until all threads of the crew have executed it
(R325). -/
def Crew.threadMayIssue (c : Crew) (t : Thread) : Bool := t.ready && !c.tretDone.contains t.lane

/-- The issue sets of a crew that may issue, by number. -/
def Crew.sets (c : Crew) : List Nat :=
  if c.mayIssue then
    c.threads.foldl (fun l t => if c.threadMayIssue t && !l.contains t.set then l ++ [t.set] else l) []
  else []

/-! ## Bins (R28 to R30) -/

/-- Live threads of a crew that are not parked (R29). -/
def Crew.unparked (c : Crew) : Nat := (c.threads.filter fun t => t.live && !t.st.isParked).length

/-- A bin is full (R29). -/
def State.binFull (s : State) (b : Bin) : Bool :=
  decide (b.lanes.length ≥ 32) || match s.crew b.crew with
    | some c => decide (b.lanes.length ≥ c.unparked)
    | none => true

/-- The address and word of the instruction a thread stands at, behind its guard prefix if it has one; `none` where the
fetch fails. -/
def State.nextWord (s : State) (c : Crew) (t : Thread) : Option (Word × Word) :=
  match s.fetchWord (s.imageOf c t) t.pc.toNat with
  | none => none
  | some w =>
    if w.extractLsb' 25 6 == 0x3E#6 then
      (s.fetchWord (s.imageOf c t) (t.pc.toNat + 4)).map fun w => (t.pc + 4, w)
    else some (t.pc, w)

/-- Words of the collectives whose arrivals set pending bits (R187): majors 0x18 to 0x1A. -/
def collectiveWord (w : Word) : Bool :=
  let m := (w.extractLsb' 25 6).toNat
  decide (0x18 ≤ m) && decide (m ≤ 0x1A)

/-- A set that is not issuable: its next instruction waits for pending results under its switch marker (R152, R187), or
the throttle holds it (R347). -/
def State.setWaits (s : State) (c : Crew) (k : Nat) : Bool :=
  match c.threads.find? (sel k) with
  | none => false
  | some t =>
    match s.nextWord c t with
    | none => false
    | some (pc, w) =>
      (s.throttled.contains c.uid && throttledWord w) ||
      (w.getLsbD 31 && !((c.active k).all fun (u : Thread) =>
        pendClear c u (if collectiveWord w then some pc else none)))

/-- A crew resident on quarter `q` has an issuable set. -/
def State.quarterBusy (s : State) (q : Nat) : Bool :=
  s.crews.any fun c => quarterNo c.core c.quarter == q && c.sets.any fun k => !s.setWaits c k

/-- The bins of a quarter that it may release: the filed threads of a halted crew stay filed (R433). -/
def State.openBins (s : State) (q : Nat) : List Bin :=
  (s.quarter q).bins.filter fun b => (s.crew b.crew).all (·.mayIssue)

/-- The bin that a quarter releases next (R30): the oldest full one, else the oldest aged one, else the largest, of equals
the oldest. R30 gives no order to bins whose oldest threads were filed at one time: the first of the quarter's list is
taken (log entry 24, DESIGN CHOICE). -/
def State.nextBin (s : State) (q : Nat) : Option Bin :=
  let bins := s.openBins q
  let oldest := pickBy fun (a b : Bin) => decide (a.oldest < b.oldest)
  match oldest (bins.filter (s.binFull ·)) with
  | some b => some b
  | none => match oldest (bins.filter (·.aged)) with
    | some b => some b
    | none => pickBy (fun (a b : Bin) => decide (a.lanes.length > b.lanes.length) ||
        (a.lanes.length == b.lanes.length && decide (a.oldest < b.oldest))) bins

/-- A quarter holds a bin that R30 releases at once: a full one, an aged one, or any when no set is issuable. -/
def State.binDue (s : State) (q : Nat) : Bool :=
  let bins := s.openBins q
  bins.any (fun b => s.binFull b || b.aged) || (!bins.isEmpty && !s.quarterBusy q)

end Sys2Proof.Machine
end

