-- ==== Sys2Proof/Machine/Orders.lean ====
section
/-! DEFINITION. Claims of engine commands at issue, and the matrix command orders of the quarters (R127, R135, R136,
R138, R234, R243, R244). -/

namespace Sys2Proof.Machine

/-! ## Claims -/

/-- A claim of bytes of a block's scratchpad addressed with swizzle mode `m`: one range, or its 16 B chunks at their
swizzled places (R108, R138). -/
def spadClaims (uid m a len : Nat) (acc : Acc) : List Claim :=
  if m = 0 then [⟨.spad uid a, len, acc, a⟩]
  else (chunks16 a len).map fun c =>
    let lo := if c < a then a else c
    let hi := if a + len < c + 16 then a + len else c + 16
    ⟨.spad uid (spadKey m lo), hi - lo, acc, spadKey m lo⟩

/-- A generic page part belongs to a private-class page (R138). -/
def State.privatePart (s : State) (wn core va : Nat) : Bool :=
  match s.window wn va with
  | some _ => true
  | none => match s.translate wn core va with
    | (_, some l) => l.cls = 0 && !l.so
    | (_, none) => false

/-- The claims of a generic range of a core's command, one a page part, each of the place that the part is; a destination
on a private-class page is not claimed (R138). -/
def State.genClaims (s : State) (wn core va len : Nat) (acc : Acc) : List Claim :=
  ((pageParts va len).filter fun p => acc == .read || !s.privatePart wn core p.1).map fun p =>
    ⟨s.placeOf wn core p.1, p.2, acc, p.1⟩

/-- First and last granule number of a claim. -/
def Claim.lo (c : Claim) : Nat := c.base.addr / 4
def Claim.hi (c : Claim) : Nat := (c.base.addr + c.len - 1) / 4

/-- Two claims may not be held together by parties that nothing orders (R120, R121). -/
def Acc.clash (a b : Acc) : Bool := !(a == .read && b == .read) && !(a == .atomic && b == .atomic)

/-- The lowest granule two claims share, when they clash. -/
def Claim.meet (c d : Claim) : Option Nat :=
  if c.len ≠ 0 && d.len ≠ 0 && c.base.sameSpace d.base && c.acc.clash d.acc then
    let lo := if c.lo < d.lo then d.lo else c.lo
    let hi := if c.hi < d.hi then c.hi else d.hi
    if lo ≤ hi then some (4 * lo) else none
  else none

def Acc.code : Acc → Nat
  | .read => 0
  | .write => 1
  | .atomic => 2

/-- The MMX of a claim at the granule with address `g` of its space. The record gives the address by which the command
names the granule; R126 and R312 give no size for a command's ranges, and the model records the granule's, 4 (log
entry 24, DESIGN CHOICE). -/
def State.claimTrap (s : State) (c : Claim) (g : Nat) (otherWrote : Bool) (other : Party) (pc : Word) : Trap :=
  s.mmxTrap (c.base.unit == 16) (c.addr / 4 * 4 + (g - c.base.addr / 4 * 4)) (kindOf (c.acc != .read) otherWrote) c.acc.code
    4 other pc

/-- The first conflict of a claim with a live region (R127): records of crews and drips, then claims of commands that
`exempt` does not order. -/
def State.claimConflict (s : State) (exempt : Party → Bool) (c : Claim) : Option Trap :=
  let hits := s.recs.filter fun r =>
    c.covers r.base && (r.write || c.acc != .read) && !(c.acc == .atomic && r.sync)
  match pickBy (fun (a b : Rec) => decide (a.base.addr < b.base.addr)) hits with
  | some r => some (s.claimTrap c r.base.addr r.write r.party r.pc)
  | none =>
    s.claims.findSome? fun p =>
      if exempt p.1 then none
      else (c.meet p.2.2).map fun g => s.claimTrap c g (p.2.2.acc != .read) p.1 p.2.1

def State.claimsConflict (s : State) (exempt : Party → Bool) (cs : List Claim) : Option Trap :=
  cs.findSome? (s.claimConflict exempt)

/-! ## Matrix command orders (R243) -/

/-- The quarters a command targets or spans. -/
def MCmd.quarters (m : MCmd) : List Nat := (List.range m.nq).map (m.q0 + ·)

/-- The step that performs a command; a read of `%plrec` is performed by its own instruction. -/
def MCmd.event (m : MCmd) : Option Event :=
  match m.kind with
  | .mldst => some (.mldStPerform m.q0)
  | .mswap => some (.mswapPerform m.q0)
  | .mma => some (.mmaPerform m.q0)
  | .mst => some (.mstPerform m.q0)
  | .maccclr => some (.maccClrPerform m.q0)
  | .maccrd => some (.maccRdLand m.q0)
  | .mstat => some (.mstatLand m.q0)
  | .accdat => some (.accdatWrite m.crew m.lane m.w0)
  | .accstat => some (.accstatWrite m.crew m.lane m.w0)
  | .plrec => none

/-- The first command of a quarter's order. -/
def State.headCmd (s : State) (q : Nat) : Option MCmd :=
  match (s.quarter q).order with
  | [] => none
  | id :: _ => s.mcmds.find? (·.id == id)

/-- Every quarter that a command spans has reached it (R242). -/
def State.cmdReady (s : State) (m : MCmd) : Bool := m.quarters.all fun q => (s.quarter q).order.head? == some m.id

/-- The first command of a quarter's order may be performed. -/
def State.postHead (s : State) (q : Nat) : State :=
  match s.headCmd q with
  | some m => match m.event with
    | some ev => if s.cmdReady m && !s.agenda.contains ev then s.post ev else s
    | none => s
  | none => s

/-- A command enters the orders of its quarters. -/
def State.enterOrder (s : State) (m : MCmd) : State :=
  let s := { s with mcmds := s.mcmds ++ [m] }
  (m.quarters.foldl (fun s q => s.onQuarter q fun x => { x with order := x.order ++ [m.id] }) s).postHead m.q0

/-- A command leaves its orders: what came behind it may be performed, and a held last EXIT is looked at again (R49). -/
def State.leaveOrder (s : State) (m : MCmd) : State :=
  let s := { s with mcmds := s.mcmds.filter (·.id != m.id) }
  let s := m.quarters.foldl (fun s q => s.onQuarter q fun x => { x with order := x.order.filter (· != m.id) }) s
  let s := m.quarters.foldl (fun s q => (s.postHead q).unbindQuarter q) s
  match s.unit m.unit with
  | some u => if u.lastExit then s.post (.lastExitRelease u.uid) else s
  | none => s

/-- Commands whose orders this one shares (R127, R243). -/
def State.sharesOrder (s : State) (qs : List Nat) (p : Party) : Bool :=
  match p with
  | .matrix id => match s.mcmds.find? (·.id == id) with
    | some m => m.quarters.any qs.contains
    | none => false
  | _ => false

/-- A macc.rd or mstat of a thread has not landed: its memory accesses and engine commands wait (R244). -/
def State.matrixWait (s : State) (uid lane : Nat) : Bool :=
  s.mcmds.any fun m => m.crew == uid && m.lane == lane && (m.kind == .maccrd || m.kind == .mstat)

/-- The array of a quarter is bound to a crew's launch (R62). -/
def State.arrayBound (s : State) (c : Crew) (q : Nat) : Bool := (s.quarter q).bound == some c.launch

end Sys2Proof.Machine
end

