-- ==== Sys2Proof/Machine/Collect.lean ====
section
/-! DEFINITION. Crew-collective instructions and their performance (R32 to R35, R187 to R190, R199, R200). -/

namespace Sys2Proof.Machine

/-! ## Arrival -/

/-- The address of the collective a thread waits at. -/
def Thread.collAt (t : Thread) : Option Word :=
  match t.st with
  | .coll _ _ _ _ next => some (next - 4)
  | _ => none

/-- A waiting thread withdraws its arrival, and the pending bits it set clear (R307). -/
def Thread.leaveColl (t : Thread) : Thread :=
  match t.collAt with
  | some pc => { t with st := .running, pendX := t.pendX.filter fun p => p.2 != some pc }
  | none => t

/-- Uniform pending bits of collectives at `pcs` clear. -/
def Crew.dropPend (c : Crew) (pcs : List Word) : Crew := { c with
  pendS := c.pendS.filter fun p => !(pcs.contains (p.2.getD 0))
  pendQ := c.pendQ.filter fun p => !(pcs.contains (p.2.getD 0)) }

/-- Live threads of a crew; in the save and resume routines these are the routine's (R314). -/
def Crew.liveThreads (c : Crew) : List Thread := c.threads.filter (·.live)

/-- The lowest waiting PC that differs from the first one (R34). -/
def lowestOther (first : Word) (pcs : List Word) : Word :=
  BitVec.ofNat 32 ((minOf ((pcs.filter (· != first)).map (·.toNat))).getD 0)

/-- Once every live thread waits at a collective: at one PC it will be performed, else COLL_MISMATCH in each
(R32, R34). -/
def State.collCheck (s : State) (uid : Nat) : State :=
  match s.crew uid with
  | none => s
  | some c =>
    let ts := c.liveThreads
    if ts.isEmpty || !(ts.all fun t => t.collAt.isSome) then s
    else
      match pickBy (fun (a b : Thread) => decide (a.filedAt < b.filedAt)) ts with
      | none => s
      | some t0 =>
        let pcs := ts.filterMap (·.collAt)
        let first := t0.collAt.getD 0
        if pcs.all (· == first) then s.post (.collectivePerform uid)
        else
          let tr := mkTrap .collMismatch 0 [first.toNat, (lowestOther first pcs).toNat]
          (s.onCrew uid fun c => (c.onThreads (·.live) fun t => t.leaveColl.raise tr).dropPend pcs).settle uid

/-- The lanes of a set that wait at a collective. -/
def Crew.arrivedIn (c : Crew) (set : List Thread) : List Nat :=
  (set.filter fun t => (c.thread t.lane).any (·.collAt.isSome)).map (·.lane)

/-- One thread arrives: guard, operand checks, an operand value its instruction refuses, then Collective-wait; `pend`
are the physical registers it makes pending. -/
def Thread.arriveAt (e : Env) (f : Form) (op : CollOp) (refuse : Bool) (pend : List Nat) (clock : Nat) (g : Bool)
    (bad : Option Trap) (t : Thread) : Thread :=
  match bad with
  | some tr => t.raise tr
  | none =>
    if g && refuse then t.raise (e.ill .operand)
    else { t with
      st := .coll op g e.guard f.word (e.next t)
      filedAt := clock
      pendX := if g then pendAll t.pendX pend (e.pcI t) else t.pendX }

/-- Arrival at a thread-class collective (R32, R33, R187): a thread whose guard is false arrives too. -/
def execArrive (f : Form) (s : State) (op : CollOp) (refuse : Bool) (pend : Thread → List Nat) : Out :=
  let f := { f with coll := true }
  issue f s fun e k0 _ s =>
    let s := { s with clock := s.clock + 1 }
    let s := s.onCrew e.uid fun c =>
      let c' : Crew := { c with
        threads := c.threads.map fun (t : Thread) =>
          if sel k0 t then
            let g := e.guardTrue t
            t.arriveAt e f op refuse (pend t) s.clock g (if g then opCheck e f c t else none)
          else t }
      c'.band (c'.arrivedIn (c.threads.filter (sel k0)))
    s.collCheck e.uid

/-- A crew whose set `k0` arrives at vote: guard, operand checks, then Collective-wait, the destination pending whether the
set's guard is true or not (R187). -/
def Crew.arriveU (e : Env) (f : Form) (op : CollOp) (pendS pendQ : Crew → List Nat) (clock k0 : Nat) (c : Crew) : Crew :=
  match c.threads.find? (sel k0) with
  | none => c
  | some t =>
    match guardPends e f c t with
    | some tr => c.onThreads (sel k0) fun t => t.raise tr
    | none =>
      let g := e.guardTrueU c
      match (if g then opCheckU e f c t else none) with
      | some tr => c.onThreads (sel k0) fun t => t.raise tr
      | none =>
        let c' := c.onThreads (sel k0) fun t => t.arriveAt e f op false [] clock g none
        { c' with
          pendS := pendAll c'.pendS (pendS c) (e.pcI t)
          pendQ := pendAll c'.pendQ (pendQ c) (e.pcI t) }

/-- Arrival at vote, the uniform-class collective: its destination is pending for the whole crew from the first arrival
(R187, R190). -/
def execArriveU (f : Form) (s : State) (op : CollOp) (pendS pendQ : Crew → List Nat) : Out :=
  let f := { f with coll := true, uniform := true }
  issue f s fun e k0 _ s =>
    let s := { s with clock := s.clock + 1 }
    (s.onCrew e.uid (Crew.arriveU e f op pendS pendQ s.clock k0)).collCheck e.uid

/-! ## Performance -/

/-- A thread that waits with its guard true. -/
def Thread.contributes (t : Thread) : Bool :=
  match t.st with
  | .coll _ g _ _ _ => g
  | _ => false

/-- What lane `l` contributes through register field `a`, or the identity (R187). -/
def Crew.contribution (c : Crew) (a : Nat) (ident : Word) (l : Nat) : Word :=
  match c.thread l with
  | some t => if t.contributes then t.x a else ident
  | none => ident

/-- The source lane of a shuffle for lane `l` (R188), as an integer. -/
def shflSource (fn l b : Nat) (idx : Word) : Int :=
  match fn with
  | 0 => (idx.toNat % crewWidth : Nat)
  | 1 => (l : Int) - (crewWidth / 2 ^ b : Nat)
  | 2 => (l : Int) + (crewWidth / 2 ^ b : Nat)
  | 3 => ((l ^^^ (crewWidth / 2 ^ b) : Nat) : Int)
  | 4 => (l : Int) - b
  | 5 => (l : Int) + b
  | _ => ((l ^^^ b : Nat) : Int)

/-- The value a shuffle delivers to a thread (R188). -/
def Crew.shflValue (c : Crew) (fn a b : Nat) (t : Thread) : Word :=
  let src := shflSource fn t.lane b (if fn = 0 then t.x b else 0)
  if src < 0 || src ≥ crewWidth then t.x a else c.contribution a 0 src.toNat

/-- Operation and identity of a log-step reduction (R189). -/
def lredOp (fn : Nat) (u v : Word) : Word × Flags :=
  match fn with
  | 0 => (u + v, 0)
  | 1 => setF32 .fadd u v 0
  | 2 => setI .minS u v
  | 3 => setI .maxS u v
  | 4 => setF32 .fmin u v 0
  | 5 => setF32 .fmax u v 0
  | 6 => (u &&& v, 0)
  | 7 => (u ||| v, 0)
  | _ => (u ^^^ v, 0)

def lredIdentity (fn : Nat) : Word :=
  match fn with
  | 0 => 0
  | 1 => 0x80000000
  | 2 => 0x7FFFFFFF
  | 3 => 0x80000000
  | 4 => 0x7F800000
  | 5 => 0xFF800000
  | 6 => 0xFFFFFFFF
  | _ => 0

/-- One level of the tree: neighbours `h` apart are combined, so that the list halves (R189). -/
def lredPairs (fn : Nat) : List Word → List Word × Flags
  | u :: v :: r =>
    let (w, f) := lredOp fn u v
    let (l, f') := lredPairs fn r
    (w :: l, f ||| f')
  | l => (l, 0)

/-- The tree of a group: `n` levels. -/
def lredTree (fn : Nat) : Nat → List Word → Word × Flags
  | 0, l => (l.headD 0, 0)
  | n + 1, l =>
    let (l, f) := lredPairs fn l
    let (w, f') := lredTree fn n l
    (w, f ||| f')

/-- The result of a group of `2 ^ n` lanes from base `b`. -/
def Crew.lredGroup (c : Crew) (fn a n b : Nat) : Word × Flags :=
  lredTree fn n ((List.range (2 ^ n)).map fun i => c.contribution a (lredIdentity fn) (b + i))

/-- Whether a reduction checks its operand for markers (R87). -/
def lredFloat (fn : Nat) : Bool := fn == 1 || fn == 4 || fn == 5

/-- The lowest lane's marker among the operands of a floating-point reduction (R87). -/
def Crew.lredMarker (c : Crew) (fn a : Nat) : Option Trap :=
  if lredFloat fn then
    c.threads.findSome? fun t => if t.contributes && isMarker (t.x a) then some (uninitTrap (t.x a)) else none
  else none

/-- Writes what each contributing thread receives. -/
def Crew.receive (c : Crew) (d : Nat) (val : Thread → Word × Flags) : Crew :=
  c.onThreads (·.contributes) fun t =>
    let r := val t
    (t.putX d r.1).flag r.2

/-- The result of a vote over the values of the contributing threads (R190). -/
def voteResult (fn : Nat) (vals : List Bool) : Bool :=
  match fn with
  | 0 => vals.all (·)
  | 1 => vals.any (·)
  | _ => vals.all (·) || vals.all (!·)

/-- Word `k` of the mask of a vote (R190). -/
def Crew.voteWord (c : Crew) (p : Nat) (neg : Bool) (k : Nat) : Word :=
  BitVec.ofNat 32 ((List.range 32).foldl (fun n i =>
    match c.thread (32 * k + i) with
    | some t => if t.contributes && condOf t.preds neg p then n + 2 ^ i else n
    | none => n) 0)

/-- A vote's result written to the crew. -/
def Crew.vote (c : Crew) (fn d p : Nat) (neg : Bool) : Crew :=
  if !(c.threads.any (·.contributes)) then c
  else if fn = 3 then (List.range 4).foldl (fun c' k => c'.putS (d + k) (c.voteWord p neg k)) c
  else
    let vals := (c.threads.filter (·.contributes)).map fun t => condOf t.preds neg p
    { c with qpreds := predSet c.qpreds d (voteResult fn vals) }

/-- Waiting threads go back to running, after the collective. -/
def Crew.waiters (c : Crew) : List (Nat × Word × Nat) :=
  c.threads.filterMap fun t => match t.st with
    | .coll _ _ _ _ next => some (t.lane, next, t.wb)
    | _ => none

/-- Every waiting thread takes a trap that the performance raises. -/
def State.collTrap (s : State) (uid : Nat) (pcs : List Word) (tr : Thread → Trap) : State :=
  (s.onCrew uid fun c => (c.onThreads (·.collAt.isSome) fun t => t.leaveColl.raise (tr t)).dropPend pcs).settle uid

/-- Performed threads are released through bins under (PC + 4, WB) (R32), their pending bits clear. -/
def State.collRelease (s : State) (uid : Nat) (pc : Word) : State :=
  match s.crew uid with
  | none => s
  | some c =>
    let ws := c.waiters
    (s.onCrew uid fun c => (c.onThreads (·.collAt.isSome) Thread.leaveColl).dropPend [pc]).fileAll uid none
      (ws.map fun w => (w.1, w.2.1, w.2.2))

/-- The ILL of an operand value found when the collective is performed (R199). -/
def Thread.collIll (t : Thread) : Trap :=
  match t.st with
  | .coll _ _ pre word _ => illTrap pre word .operand
  | _ => mkTrap .ill 5 []

/-- The threads of a crew release their earlier accesses at block scope, and the crew's region closes (R118, R201, R224). -/
def State.blockRelease (s : State) (c : Crew) : State :=
  (c.threads.foldl (fun s t => s.drainLane c.uid t.lane) s).syncRel c.uid scopeBlock

/-- The contributing threads of a crew block in an operation whose collective part is performed; the others are released
(R200, R224). -/
def State.collBlock (s : State) (uid : Nat) (why : Block) (pc : Word) : State :=
  (s.onCrew uid fun c => c.onThreads (·.contributes) fun t =>
    match t.st with
    | .coll _ _ _ _ next => { t with
      st := .blocked why next
      pendX := t.pendX.filter fun p => p.2 != some (next - 4) }
    | _ => t).collRelease uid pc

/-- tokp performed (R200): a holder passes the token on, another crew of an array-using launch blocks until it comes. -/
def State.performTokp (s : State) (c : Crew) (pc : Word) : State :=
  let s := s.blockRelease c
  let q := quarterNo c.core c.quarter
  let arr := match s.launch c.world c.launch with
    | some l => l.desc.array
    | none => false
  if !arr || !(c.threads.any (·.contributes)) then s.collRelease c.uid pc
  else if (s.quarter q).token = some c.uid then (s.passToken q c).collRelease c.uid pc
  else s.collBlock c.uid .tokp pc

/-- A barrier arrival performed: one for the crew, and the waits that follow of bar.sync (R224). -/
def State.performBar (s : State) (c : Crew) (b : Nat) (sync : Bool) (pc : Word) : State :=
  let act := c.threads.any (·.contributes)
  let s := s.blockRelease c
  let s := if sync then s.collBlock c.uid (.barWait b true) pc else s.collRelease c.uid pc
  let s := if act then s.arrive c.unit b else s
  -- a wait whose phase is already complete passes at once
  match (s.unit c.unit).bind fun u => u.bars[b]? with
  | some bar => s.passBars c.unit b bar.phase
  | none => s

/-- The collective that a crew's threads wait at is performed. A uwinb whose n is out of range and whose every guard is false
releases the crew without a trap: R199 gives both a trap and an unchanged UWB for it (log entry 24, DESIGN CHOICE). -/
def State.performColl (s : State) (c : Crew) (op : CollOp) (pc : Word) : State :=
  match op with
  | .shfl fn d a b =>
    (s.onCrew c.uid fun c' => c'.receive d fun t => (c.shflValue fn a b t, 0)).collRelease c.uid pc
  | .lred fn d a g =>
    match c.lredMarker fn a with
    | some tr => s.collTrap c.uid [pc] fun _ => tr
    | none =>
      let n := 7 - g
      (s.onCrew c.uid fun c' => c'.receive d fun t => c.lredGroup fn a n (t.lane / 2 ^ n * 2 ^ n)).collRelease c.uid pc
  | .vote fn d p neg => (s.onCrew c.uid fun c => c.vote fn d p neg).collRelease c.uid pc
  | .uwinb n =>
    if !(c.threads.any (·.contributes)) then s.collRelease c.uid pc
    else if 32 * n + 32 > c.nuregs then s.collTrap c.uid [pc] Thread.collIll
    else (s.onCrew c.uid fun c => { c with uwb := 32 * n }).collRelease c.uid pc
  | .tokp => s.performTokp c pc
  | .bar b sync => s.performBar c b sync pc

/-- Every live thread of a crew waits at one collective PC (R32). -/
def Crew.collReady (c : Crew) : Option (CollOp × Word) :=
  match c.liveThreads with
  | [] => none
  | t :: r =>
    match t.st with
    | .coll op _ _ _ next => if r.all fun u => u.collAt == some (next - 4) then some (op, next - 4) else none
    | _ => none

/-- COLLECTIVE_PERFORM (R32). A crew-collective is performed once every live thread has arrived. -/
def execCollectivePerform (crew : Nat) (s : State) : Out :=
  match s.crew crew with
  | none => .next s
  | some c =>
    match c.collReady with
    | none => .next s
    | some (op, pc) => .next (s.performColl c op pc)

/-! ## The instructions -/

/-- SHFL_IDX (R188). Crew-collective shuffle from the lane named by a register. -/
def execShflIdx (sw : Bool) (d a b : BitVec 7) (s : State) : Out :=
  execArrive { word := (encRRR sw 24#6 0#4 d a b), sw := sw, ops := [dX d 1, aX a 1, bX b 1], drip := false } s
    (.shfl 0 d.toNat a.toNat b.toNat) false fun t => [t.wb + d.toNat]

/-- SHFL_UP_W (R188). Shuffle from lane L - (W >> n). -/
def execShflUpW (sw : Bool) (d a : BitVec 7) (n : BitVec 3) (s : State) : Out :=
  execArrive { word := (encRRR sw 24#6 1#4 d a (0#4 ++ n)), sw := sw, ops := [dX d 1, aX a 1], drip := false } s
    (.shfl 1 d.toNat a.toNat n.toNat) (decide (n = 0)) fun t => [t.wb + d.toNat]

/-- SHFL_DOWN_W (R188). Shuffle from lane L + (W >> n). -/
def execShflDownW (sw : Bool) (d a : BitVec 7) (n : BitVec 3) (s : State) : Out :=
  execArrive { word := (encRRR sw 24#6 2#4 d a (0#4 ++ n)), sw := sw, ops := [dX d 1, aX a 1], drip := false } s
    (.shfl 2 d.toNat a.toNat n.toNat) (decide (n = 0)) fun t => [t.wb + d.toNat]

/-- SHFL_XOR_W (R188). Shuffle from lane L xor (W >> n). -/
def execShflXorW (sw : Bool) (d a : BitVec 7) (n : BitVec 3) (s : State) : Out :=
  execArrive { word := (encRRR sw 24#6 3#4 d a (0#4 ++ n)), sw := sw, ops := [dX d 1, aX a 1], drip := false } s
    (.shfl 3 d.toNat a.toNat n.toNat) (decide (n = 0)) fun t => [t.wb + d.toNat]

/-- SHFL_UP (R188). Shuffle from lane L - k. -/
def execShflUp (sw : Bool) (d a k : BitVec 7) (s : State) : Out :=
  execArrive { word := (encRRR sw 24#6 4#4 d a k), sw := sw, ops := [dX d 1, aX a 1], drip := false } s
    (.shfl 4 d.toNat a.toNat k.toNat) (decide (k = 0)) fun t => [t.wb + d.toNat]

/-- SHFL_DOWN (R188). Shuffle from lane L + k. -/
def execShflDown (sw : Bool) (d a k : BitVec 7) (s : State) : Out :=
  execArrive { word := (encRRR sw 24#6 5#4 d a k), sw := sw, ops := [dX d 1, aX a 1], drip := false } s
    (.shfl 5 d.toNat a.toNat k.toNat) (decide (k = 0)) fun t => [t.wb + d.toNat]

/-- SHFL_XOR (R188). Shuffle from lane L xor k. -/
def execShflXor (sw : Bool) (d a k : BitVec 7) (s : State) : Out :=
  execArrive { word := (encRRR sw 24#6 6#4 d a k), sw := sw, ops := [dX d 1, aX a 1], drip := false } s
    (.shfl 6 d.toNat a.toNat k.toNat) (decide (k = 0)) fun t => [t.wb + d.toNat]

/-- LRED_ADD_SI32 (R189). Log-step integer sum over lane groups. -/
def execLredAddSi32 (sw : Bool) (d a : BitVec 7) (g : BitVec 3) (s : State) : Out :=
  execArrive { word := (encRRR sw 25#6 0#4 d a (0#4 ++ g)), sw := sw, ops := [dX d 1, aX a 1], drip := false } s
    (.lred 0 d.toNat a.toNat g.toNat) (decide (g.toNat ≥ 6)) fun t => [t.wb + d.toNat]

/-- LRED_ADD_F32 (R189). Log-step fp32 sum in fixed tree order. -/
def execLredAddF32 (sw : Bool) (d a : BitVec 7) (g : BitVec 3) (s : State) : Out :=
  execArrive { word := (encRRR sw 25#6 1#4 d a (0#4 ++ g)), sw := sw, ops := [dX d 1, aX a 1], drip := false } s
    (.lred 1 d.toNat a.toNat g.toNat) (decide (g.toNat ≥ 6)) fun t => [t.wb + d.toNat]

/-- LRED_MIN_SI32 (R189). Log-step signed minimum. -/
def execLredMinSi32 (sw : Bool) (d a : BitVec 7) (g : BitVec 3) (s : State) : Out :=
  execArrive { word := (encRRR sw 25#6 2#4 d a (0#4 ++ g)), sw := sw, ops := [dX d 1, aX a 1], drip := false } s
    (.lred 2 d.toNat a.toNat g.toNat) (decide (g.toNat ≥ 6)) fun t => [t.wb + d.toNat]

/-- LRED_MAX_SI32 (R189). Log-step signed maximum. -/
def execLredMaxSi32 (sw : Bool) (d a : BitVec 7) (g : BitVec 3) (s : State) : Out :=
  execArrive { word := (encRRR sw 25#6 3#4 d a (0#4 ++ g)), sw := sw, ops := [dX d 1, aX a 1], drip := false } s
    (.lred 3 d.toNat a.toNat g.toNat) (decide (g.toNat ≥ 6)) fun t => [t.wb + d.toNat]

/-- LRED_MIN_F32 (R189). Log-step fp32 minimum. -/
def execLredMinF32 (sw : Bool) (d a : BitVec 7) (g : BitVec 3) (s : State) : Out :=
  execArrive { word := (encRRR sw 25#6 4#4 d a (0#4 ++ g)), sw := sw, ops := [dX d 1, aX a 1], drip := false } s
    (.lred 4 d.toNat a.toNat g.toNat) (decide (g.toNat ≥ 6)) fun t => [t.wb + d.toNat]

/-- LRED_MAX_F32 (R189). Log-step fp32 maximum. -/
def execLredMaxF32 (sw : Bool) (d a : BitVec 7) (g : BitVec 3) (s : State) : Out :=
  execArrive { word := (encRRR sw 25#6 5#4 d a (0#4 ++ g)), sw := sw, ops := [dX d 1, aX a 1], drip := false } s
    (.lred 5 d.toNat a.toNat g.toNat) (decide (g.toNat ≥ 6)) fun t => [t.wb + d.toNat]

/-- LRED_AND (R189). Log-step bitwise and. -/
def execLredAnd (sw : Bool) (d a : BitVec 7) (g : BitVec 3) (s : State) : Out :=
  execArrive { word := (encRRR sw 25#6 6#4 d a (0#4 ++ g)), sw := sw, ops := [dX d 1, aX a 1], drip := false } s
    (.lred 6 d.toNat a.toNat g.toNat) (decide (g.toNat ≥ 6)) fun t => [t.wb + d.toNat]

/-- LRED_OR (R189). Log-step bitwise or. -/
def execLredOr (sw : Bool) (d a : BitVec 7) (g : BitVec 3) (s : State) : Out :=
  execArrive { word := (encRRR sw 25#6 7#4 d a (0#4 ++ g)), sw := sw, ops := [dX d 1, aX a 1], drip := false } s
    (.lred 7 d.toNat a.toNat g.toNat) (decide (g.toNat ≥ 6)) fun t => [t.wb + d.toNat]

/-- LRED_XOR (R189). Log-step bitwise xor. -/
def execLredXor (sw : Bool) (d a : BitVec 7) (g : BitVec 3) (s : State) : Out :=
  execArrive { word := (encRRR sw 25#6 8#4 d a (0#4 ++ g)), sw := sw, ops := [dX d 1, aX a 1], drip := false } s
    (.lred 8 d.toNat a.toNat g.toNat) (decide (g.toNat ≥ 6)) fun t => [t.wb + d.toNat]

/-- VOTE_EVERY (R190). Crew vote: q true if every contribution is true. -/
def execVoteEvery (sw : Bool) (q : BitVec 3) (p : BitVec 4) (s : State) : Out :=
  execArriveU { word := (encRRR sw 26#6 0#4 (0#4 ++ q) (0#3 ++ p) 0#7), sw := sw, ops := [], qs := [q.toNat], drip := false } s
    (.vote 0 q.toNat (p.extractLsb' 0 3).toNat (p.getLsbD 3)) (fun _ => []) fun _ => if q = 7 then [] else [q.toNat]

/-- VOTE_SOME (R190). Crew vote: q true if any contribution is true. -/
def execVoteSome (sw : Bool) (q : BitVec 3) (p : BitVec 4) (s : State) : Out :=
  execArriveU { word := (encRRR sw 26#6 1#4 (0#4 ++ q) (0#3 ++ p) 0#7), sw := sw, ops := [], qs := [q.toNat], drip := false } s
    (.vote 1 q.toNat (p.extractLsb' 0 3).toNat (p.getLsbD 3)) (fun _ => []) fun _ => if q = 7 then [] else [q.toNat]

/-- VOTE_SAME (R190). Crew vote: q true if contributors agree. -/
def execVoteSame (sw : Bool) (q : BitVec 3) (p : BitVec 4) (s : State) : Out :=
  execArriveU { word := (encRRR sw 26#6 2#4 (0#4 ++ q) (0#3 ++ p) 0#7), sw := sw, ops := [], qs := [q.toNat], drip := false } s
    (.vote 2 q.toNat (p.extractLsb' 0 3).toNat (p.getLsbD 3)) (fun _ => []) fun _ => if q = 7 then [] else [q.toNat]

/-- VOTE_MASK (R190). Writes the crew's predicate mask into s(D) to s(D+3). -/
def execVoteMask (sw : Bool) (d : BitVec 7) (p : BitVec 4) (s : State) : Out :=
  execArriveU { word := (encRRR sw 26#6 3#4 d (0#3 ++ p) 0#7), sw := sw, ops := [dS d 4], drip := false } s
    (.vote 3 d.toNat (p.extractLsb' 0 3).toNat (p.getLsbD 3))
    (fun c => (List.range 4).map fun k => c.uwb + d.toNat + k) fun _ => []

/-- UWINB (R199). Crew-collective set of the uniform window base. -/
def execUwinb (sw : Bool) (n : BitVec 3) (s : State) : Out :=
    execArrive { word := (encRRR sw 31#6 7#4 0#7 0#7 (0#4 ++ n)), sw := sw, ops := [], drip := false } s (.uwinb n.toNat) false fun _ => []

/-- tokp (R200). Crew-collective token pass or wait for the issue-priority token. -/
def execTokp (sw : Bool) (s : State) : Out :=
    execArrive { word := (encRRR sw 31#6 8#4 0#7 0#7 0#7), sw := sw, ops := [], drip := false } s .tokp false fun _ => []

end Sys2Proof.Machine
end

