-- ==== Sys2Proof/Machine/Finish.lean ====
section
/-! DEFINITION. What follows the exit of a crew's last thread: a drip's retirement, a crew's end, the last EXIT of a
block (R48, R49, R274, R316). -/

namespace Sys2Proof.Machine

/-! ## Handler reads (R270, R271, R274) -/

/-- Bursts of a handler read whose drips have retired; entries of `progress` from the third on. -/
def Entry.retired (e : Entry) : List Nat := e.progress.drop 2

/-- The last-burst event, once every burst has retired its drip or failed finally (R274). -/
def State.hreadCheck (s : State) (id : Nat) : State :=
  match s.entry id with
  | none => s
  | some e =>
    if e.retired.length + e.failed.length ≥ e.progress.getD 0 0 then
      s.finishEntry id (if e.failed.isEmpty then stDone else e.status) e.fault.toNat e.failed.length e.hreadBytes 0
    else s

/-- A drip has retired: its burst is done, and its slot is free for another (R272, R274). -/
def State.dripRetired (s : State) (d : Drip) (core quarter : Nat) : State :=
  ((s.onEntry d.entry fun e => { e with progress := e.progress ++ [d.burst] }).hreadCheck d.entry).post
    (.dripBirth core quarter)

/-! ## Crews -/

/-- The accepted stores of a crew are performed, and the rows of kvld that are under way (R49, R286). -/
def State.flushCrew (s : State) (uid : Nat) : State :=
  let s := s.performStores (·.crew == uid)
  ((s.landings.filter fun l => l.crew == uid && l.row.isSome).map (·.id)).foldl State.landNow s

/-- Crews of a unit, drips apart. -/
def State.crewsOf (s : State) (unit : Nat) : List Crew := s.crews.filter fun c => c.unit == unit && c.drip.isNone

/-- A crew all of whose threads have exited finishes: a drip retires, a saving crew waits for its victim set, the last
crew of a block is held, another is released (R48, R49, R274, R316). -/
def State.crewFinished (s : State) (uid : Nat) : State :=
  match s.crew uid with
  | none => s
  | some c =>
    if c.threads.any (·.live) then
      -- the exit of a handler's thread lets what it held be delivered (R310)
      (if c.asyncQ.isEmpty then s else s.arm (.asyncTrapEntry uid)).collCheck uid
    else
      let s := s.flushCrew uid
      match c.drip with
      | some d => (s.removeCrew uid).dripRetired d c.core c.quarter
      | none =>
        match c.course with
        | .saving => s.post (.lastExitRelease c.unit)
        | _ =>
          if (s.crewsOf c.unit).all (·.uid == uid) then
            let q := quarterNo c.core c.quarter
            let s := if (s.quarter q).token = some uid then s.passToken q c else s
            (s.onUnit c.unit fun u => { u with lastExit := true }).post (.lastExitRelease c.unit)
          else
            let s := (s.removeCrew uid).onUnit c.unit fun u => { u with finished := u.finished + 1 }
            -- an ENGINE_FAULT not yet taken goes to another thread of the block (R261)
            let s := (c.asyncQ.filter fun a => a.trap.cause == .engineFault).foldl (fun s a =>
              match s.receiverOf c.unit uid crewWidth with
              | some (r, lanes) => s.async r a.trap lanes
              | none => s) s
            if (s.unit c.unit).any fun u => u.victim ≠ 0 then s.post (.lastExitRelease c.unit) else s

end Sys2Proof.Machine
end

