-- ==== Sys2Proof/Machine/Control.lean ====
section
/-! DEFINITION. Predicate logic, branches and calls, reform, exit, breakpoints, windows, random numbers, system calls,
trap return and the guard prefix (R149, R191 to R205, R311, R325). -/

namespace Sys2Proof.Machine

/-! ## Predicates -/

/-- A function of two predicates (R191). -/
def opPred (w : Word) (f : Bool → Bool → Bool) (sw : Bool) (d : BitVec 3) (a b : BitVec 4) (s : State) : Out :=
  execPure { word := w, sw := sw, ops := [] } s fun _ t =>
    { t with preds := predSet t.preds d.toNat (f (predField t.preds a) (predField t.preds b)) }

/-- The index of a predicate field. -/
def predIx (a : BitVec 4) : Nat := (a.extractLsb' 0 3).toNat

/-- A function of two uniform predicates (R191). -/
def opQpred (w : Word) (f : Bool → Bool → Bool) (sw : Bool) (d : BitVec 3) (a b : BitVec 4) (s : State) : Out :=
  execCrew { word := w, sw := sw, ops := [], qs := [d.toNat, predIx a, predIx b] } s fun c =>
    ({ c with qpreds := predSet c.qpreds d.toNat (f (predField c.qpreds a) (predField c.qpreds b)) }, 0)

/-- PAND (R191). Predicate and. -/
def execPand (sw : Bool) (d : BitVec 3) (a b : BitVec 4) (s : State) : Out :=
  opPred (encRRR sw 27#6 0#4 (0#4 ++ d) (0#3 ++ a) (0#3 ++ b)) (· && ·) sw d a b s

/-- POR (R191). Predicate or. -/
def execPor (sw : Bool) (d : BitVec 3) (a b : BitVec 4) (s : State) : Out :=
  opPred (encRRR sw 27#6 1#4 (0#4 ++ d) (0#3 ++ a) (0#3 ++ b)) (· || ·) sw d a b s

/-- PXOR (R191). Predicate xor. -/
def execPxor (sw : Bool) (d : BitVec 3) (a b : BitVec 4) (s : State) : Out :=
  opPred (encRRR sw 27#6 2#4 (0#4 ++ d) (0#3 ++ a) (0#3 ++ b)) (· != ·) sw d a b s

/-- PMOV (R191). Predicate move. -/
def execPmov (sw : Bool) (d : BitVec 3) (a : BitVec 4) (s : State) : Out :=
  opPred (encRRR sw 27#6 3#4 (0#4 ++ d) (0#3 ++ a) 0#7) (fun x _ => x) sw d a 7 s

/-- P2R (R191). Packs p0–p7 into a register. -/
def execP2r (sw : Bool) (d : BitVec 7) (s : State) : Out :=
  execPure { word := (encRRR sw 27#6 4#4 d 0#7 0#7), sw := sw, ops := [dX d 1] } s fun _ t =>
    t.putX d.toNat (BitVec.ofNat 32 (128 + t.preds.toNat))

/-- REG_TO_PRED (R191). Sets p0–p6 from register bits [6:0]. -/
def execRegToPred (sw : Bool) (a : BitVec 7) (s : State) : Out :=
  execPure { word := (encRRR sw 27#6 5#4 0#7 a 0#7), sw := sw, ops := [aX a 1] } s fun _ t =>
    { t with preds := (t.x a.toNat).extractLsb' 0 7 }

/-- QAND (R191). Uniform predicate and. -/
def execQand (sw : Bool) (d : BitVec 3) (a b : BitVec 4) (s : State) : Out :=
  opQpred (encRRR sw 27#6 8#4 (0#4 ++ d) (0#3 ++ a) (0#3 ++ b)) (· && ·) sw d a b s

/-- QOR (R191). Uniform predicate or. -/
def execQor (sw : Bool) (d : BitVec 3) (a b : BitVec 4) (s : State) : Out :=
  opQpred (encRRR sw 27#6 9#4 (0#4 ++ d) (0#3 ++ a) (0#3 ++ b)) (· || ·) sw d a b s

/-- QXOR (R191). Uniform predicate xor. -/
def execQxor (sw : Bool) (d : BitVec 3) (a b : BitVec 4) (s : State) : Out :=
  opQpred (encRRR sw 27#6 10#4 (0#4 ++ d) (0#3 ++ a) (0#3 ++ b)) (· != ·) sw d a b s

/-- QMOV (R191). Uniform predicate move. -/
def execQmov (sw : Bool) (d : BitVec 3) (a : BitVec 4) (s : State) : Out :=
  execCrew { word := (encRRR sw 27#6 11#4 (0#4 ++ d) (0#3 ++ a) 0#7), sw := sw, ops := [], qs := [d.toNat, predIx a] } s fun c =>
    ({ c with qpreds := predSet c.qpreds d.toNat (predField c.qpreds a) }, 0)

/-! ## Branches and calls (R192, R193) -/

/-- The target of a BR word at `pc` (R147). -/
def brTarget (pc : Word) (o : BitVec 21) : Word := pc + (o.signExtend 32) * 4

/-- BRA (R192). Conditional relative branch; splits the issue set on disagreement. -/
def execBra (sw n : Bool) (c : BitVec 3) (o : BitVec 21) (s : State) : Out :=
  execThreads { word := (encBR sw 28#6 (BitVec.ofBool n ++ c) o), sw := sw, ops := [], guardable := false } s fun _ _ t =>
    .ok (if condOf t.preds n c.toNat then { t with pc := brTarget (t.pc - 4) o } else t)

/-- UBRA (R192). Uniform branch of the whole issue set on q. -/
def execUbra (sw n : Bool) (c : BitVec 3) (o : BitVec 21) (s : State) : Out :=
  execUniform { word := (encBR sw 29#6 (BitVec.ofBool n ++ c) o), sw := sw, ops := [], qs := [c.toNat], guardable := false } s fun e cr t s =>
    let pc := if condOf cr.qpreds n c.toNat then brTarget t.pc o else t.pc + 4
    (s.onCrew e.uid fun cr => cr.onThreads (sel t.set) fun u => { u with pc := pc }, .held)

/-- CALL (R192). Conditional call; writes PC + 4 to x1. -/
def execCall (sw n : Bool) (c : BitVec 3) (o : BitVec 21) (s : State) : Out :=
  let f : Form := { word := (encBR sw 30#6 (BitVec.ofBool n ++ c) o), sw := sw, ops := [implX 1 1] }
  execThreads { word := f.word, sw := sw, ops := [], guardable := false } s fun e cr t =>
    if condOf t.preds n c.toNat then
      match opCheck e f cr t with
      | some tr => .error tr
      | none => .ok { t.putX 1 t.pc with pc := brTarget (t.pc - 4) o }
    else .ok t

/-- JR (R193). Jumps to the register target. -/
def execJr (sw : Bool) (a : BitVec 7) (s : State) : Out :=
    execPure { word := (encRRR sw 31#6 0#4 0#7 a 0#7), sw := sw, ops := [aX a 1] } s fun _ t => { t with pc := t.x a.toNat }

/-- CALLR (R193). Calls the register target, writing x1. -/
def execCallr (sw : Bool) (a : BitVec 7) (s : State) : Out :=
  execPure { word := (encRRR sw 31#6 1#4 0#7 a 0#7), sw := sw, ops := [aX a 1, implX 1 1] } s fun _ t =>
    { t.putX 1 t.pc with pc := t.x a.toNat }

/-! ## Reform, exit, breakpoint, windows (R194 to R198) -/

/-- Threads of the set that act: ready, with a true guard. -/
def Env.acting (e : Env) (k0 : Nat) (c : Crew) : List Thread := c.threads.filter fun t => sel k0 t && e.guardTrue t

/-- Every thread of the set moves to PC + 4. -/
def State.allNext (s : State) (e : Env) (k0 : Nat) : State :=
  s.onCrew e.uid fun c => c.onThreads (sel k0) fun t => { t with pc := e.next t }

/-- reform (R194). Files each active thread into a reform bin keyed (PC + 4, WB). -/
def execReform (sw : Bool) (s : State) : Out :=
  issue { word := (encRRR sw 31#6 2#4 0#7 0#7 0#7), sw := sw, ops := [] } s fun e k0 c s =>
    let keys := (e.acting k0 c).map fun t => (t.lane, e.next t, t.wb)
    (s.allNext e k0).fileAll e.uid none keys

/-- exit (R195). Moves active threads to Exited; finishes the crew when all have exited. -/
def execExit (sw : Bool) (s : State) : Out :=
  issue { word := (encRRR sw 31#6 3#4 0#7 0#7 0#7), sw := sw, ops := [] } s fun e k0 c s =>
    let lanes := (e.acting k0 c).map (·.lane)
    let s := (s.allNext e k0).onCrew e.uid fun c => c.onThreads (fun t => lanes.contains t.lane) fun t =>
      { t with st := .exited, pendX := [] }
    if lanes.isEmpty then s else s.crewFinished e.uid

/-- BRK (R197). Raises the precise trap BRK with a code. -/
def execBrk (sw : Bool) (c : BitVec 7) (s : State) : Out :=
  issue { word := (encRRR sw 31#6 4#4 0#7 0#7 c), sw := sw, ops := [] } s fun e k0 cr s =>
    let lanes := (e.acting k0 cr).map (·.lane)
    s.onCrew e.uid fun cr => cr.onThreads (sel k0) fun t =>
      if lanes.contains t.lane then { t with entering := some (mkTrap .brk 0 [c.toNat], e.next t) }
      else { t with pc := e.next t }

/-- nop (R196). Changes nothing. -/
def execNop (sw : Bool) (s : State) : Out :=
  execPure { word := (encRRR sw 31#6 5#4 0#7 0#7 0#7), sw := sw, ops := [] } s fun _ t => t

/-- WINB (R198). Sets the executing thread's window base. -/
def execWinb (sw : Bool) (n : BitVec 4) (s : State) : Out :=
  execThreads { word := (encRRR sw 31#6 6#4 0#7 0#7 (0#3 ++ n)), sw := sw, ops := [] } s fun e c t =>
    if 16 * n.toNat + 16 > c.nregs then .error (e.ill .operand) else .ok { t with wb := 16 * n.toNat }

/-! ## Random numbers (R202, R203) -/

/-- The header of an RND ring entry: MASK, SEQ, CREW, FLAGS, UNIT. -/
structure RndKey where
  unit : Nat
  crew : Nat
  drip : Bool
  seq : Nat
  deriving DecidableEq, Repr

/-- Set bits of a mask below a lane: the place of the lane's word in an entry. -/
def maskRank (m l : Nat) : Nat := ((List.range l).filter (bitN m)).length

/-- Set bits of a mask of 128. -/
def maskCount (m : Nat) : Nat := maskRank m 128

/-- Bytes of an entry whose mask is `m`: header and words, a multiple of 32. -/
def rndBytes (m : Nat) : Nat := (32 + 4 * maskCount m + 31) / 32 * 32

/-- The 32 B header of an entry. -/
def rndHeader (k : RndKey) (mask : Nat) : List Byte :=
  leBytes 4 k.unit ++ leBytes 1 (if k.drip then 1 else 0) ++ leBytes 1 k.crew ++ leBytes 2 0 ++ leBytes 8 k.seq ++
    leBytes 16 mask

/-- Reads the entry at a ring offset: key, mask, words. -/
def State.rndAt (s : State) (wn base pos : Nat) : Option (RndKey × Nat × List Word) :=
  match s.devRead wn (base + pos) 32 with
  | none => none
  | some h =>
    let mask := leNat (h.drop 16)
    let key : RndKey := ⟨leNat (h.take 4), leNat ((h.drop 5).take 1), bitN (leNat ((h.drop 4).take 1)) 0,
      leNat ((h.drop 8).take 8)⟩
    match s.devRead wn (base + pos + 32) (4 * maskCount mask) with
    | none => none
    | some b => some (key, mask, bytesWords b)

/-- The `n`-th entry with a key, searched from a ring offset; `fuel` is the ring's number of 32 B pieces. -/
def State.rndFind (s : State) (wn base len : Nat) (k : RndKey) : Nat → Nat → Nat → Option (Nat × List Word)
  | 0, _, _ => none
  | fuel + 1, pos, n =>
    if pos + 32 > len then none
    else
      match s.rndAt wn base pos with
      | none => none
      | some (k', mask, ws) =>
        if mask = 0 then none
        else if k' = k then
          if n = 0 then some (mask, ws) else State.rndFind s wn base len k fuel (pos + rndBytes mask) (n - 1)
        else State.rndFind s wn base len k fuel (pos + rndBytes mask) n

/-- What that search leaves: malformed table entries are counted (R351). -/
def State.rndTouch (s : State) (wn base len : Nat) (k : RndKey) : Nat → Nat → Nat → State
  | 0, _, _ => s
  | fuel + 1, pos, n =>
    if pos + 32 > len then s
    else
      match s.rndAt wn base pos with
      | none => s.devTouch wn (base + pos) 32
      | some (k', mask, _) =>
        let s := s.devTouch wn (base + pos) (rndBytes mask)
        if mask = 0 || (k' = k && n = 0) then s
        else State.rndTouch s wn base len k fuel (pos + rndBytes mask) (if k' = k then n - 1 else n)

/-- The key of a crew's or drip's next entry (R202, R203). -/
def State.rndKey (s : State) (c : Crew) : RndKey :=
  match c.drip with
  | some d => ⟨d.burst, 0xFF, true, match s.entry d.entry with
      | some e => e.seq.toNat
      | none => 0⟩
  | none => ⟨match s.unit c.unit with
      | some u => u.block
      | none => 0, c.idx, false, c.rndcnt.toNat⟩

/-- Fresh bits for lanes. -/
def State.rndFresh (s : State) : List Nat → State × List (Nat × Word)
  | [] => (s, [])
  | l :: r =>
    let (i, s) := s.free
    let (s, vs) := State.rndFresh s r
    (s, (l, Config.noise i) :: vs)

/-- Appends an entry to the launch's ring, or sets the overflow flag (R202, R203). -/
def State.rndLog (s : State) (c : Crew) (l : Launch) (vals : List (Nat × Word)) : State :=
  let mask := laneMask (vals.map (·.1))
  let bytes := rndHeader (s.rndKey c) mask ++ wordsBytes (vals.map (·.2))
  let lose := fun (s : State) => (s.onLaunch c.world c.launch fun l => { l with rndovf := true }).putStatus c.world c.launch
  if l.rndpos + rndBytes mask > l.desc.rndlen then lose s
  else
    match s.devWrite c.world (l.desc.rndring + l.rndpos) bytes with
    | (s, true) => (s.onLaunch c.world c.launch fun l => { l with rndpos := l.rndpos + rndBytes mask }).putStatus c.world
        c.launch
    | (s, false) => lose s

/-- The recorded words for lanes: 0 where none is recorded, which counts as a mismatch (R202). How the crew's k-th entry is
found is the model's: it is searched from the ring's base by its key, whose SEQ is the crew's count of rnds, so that an entry
dropped for want of room leaves a gap that reads as a mismatch (a drip's is the one at its count among those of its key); and
a header whose mask is 0 ends the search (log entry 24, DESIGN CHOICE). -/
def State.rndReplay (s : State) (c : Crew) (l : Launch) (lanes : List Nat) : State × List (Nat × Word) :=
  let k := s.rndKey c
  let n := if k.drip then c.rndcnt.toNat else 0
  let found := s.rndFind c.world l.desc.rndring l.desc.rndlen k (l.desc.rndlen / 32 + 1) 0 n
  let s := s.rndTouch c.world l.desc.rndring l.desc.rndlen k (l.desc.rndlen / 32 + 1) 0 n
  match found with
  | some (mask, ws) =>
    let s := s.onLaunch c.world c.launch fun l => { l with
      rndpos := l.rndpos + rndBytes mask
      rndmiss := if lanes.all (bitN mask) then l.rndmiss else l.rndmiss + 1 }
    (s.putStatus c.world c.launch, lanes.map fun x => (x, if bitN mask x then ws.getD (maskRank mask x) 0 else 0))
  | none =>
    ((s.onLaunch c.world c.launch fun l => { l with rndmiss := l.rndmiss + 1 }).putStatus c.world c.launch,
      lanes.map fun x => (x, 0))

/-- The bits of one rnd by its RND mode. -/
def State.rndValues (s : State) (c : Crew) (lanes : List Nat) : State × List (Nat × Word) :=
  match s.launch c.world c.launch with
  | none => s.rndFresh lanes
  | some l =>
    if l.desc.rndmode = 2 then s.rndReplay c l lanes
    else
      let (s, vs) := s.rndFresh lanes
      (if l.desc.rndmode = 1 then s.rndLog c l vs else s, vs)

/-- RND (R202). Writes random bits per mode normal, log or replay. -/
def execRnd (sw : Bool) (d : BitVec 7) (s : State) : Out :=
  let f : Form := { word := (encRRR sw 31#6 9#4 d 0#7 0#7), sw := sw, ops := [dX d 1] }
  issue f s fun e k0 c s =>
    let act := e.acting k0 c
    let bad := act.filterMap fun t => (opCheck e f c t).map fun tr => (t.lane, tr)
    let good := act.filter fun t => (opCheck e f c t).isNone
    let s := s.onCrew e.uid fun c => c.onThreads (sel k0) fun t =>
      match bad.find? (·.1 == t.lane) with
      | some p => t.raise p.2
      | none => { t with pc := e.next t }
    if good.isEmpty then s
    else
      let (s, vals) := s.rndValues c (good.map (·.lane))
      let s := s.onCrew e.uid fun c => { c with rndcnt := c.rndcnt + 1 }
      good.foldl (fun s t => s.inFlight e.uid t.lane (e.pcI t)
        [(t.wb + d.toNat, ((vals.find? (·.1 == t.lane)).map (·.2)).getD 0)] none) s

/-! ## System calls (R204) -/

/-- SYSC (R204). Files threads to post a system-call request and block for the reply. -/
def execSysc (sw : Bool) (n : BitVec 7) (s : State) : Out :=
  let f : Form := { word := (encRRR sw 31#6 10#4 0#7 0#7 n), sw := sw, ops := [implX 2 8] }
  issue f s fun e k0 c s =>
    let act := e.acting k0 c
    let bad := act.filterMap fun t => (opCheck e f c t).map fun tr => (t.lane, tr)
    let good := act.filter fun t => (opCheck e f c t).isNone
    let keys := good.map fun t => (t.lane, e.pcI t, t.wb)
    let next := match good with
      | t :: _ => e.next t
      | [] => 0
    let s := s.onCrew e.uid fun c => c.onThreads (sel k0) fun t =>
      match bad.find? (·.1 == t.lane) with
      | some p => t.raise p.2
      | none => if e.guardTrue t then t else { t with pc := e.next t }
    s.fileAll e.uid (some (n.toNat, next)) keys

/-! ## Trap return (R311, R325) -/

/-- Checks of tret: the thread is In trap, and the saved window and PC are legal (R306, R311). -/
def tretCheck (e : Env) (c : Crew) (t : Thread) : Option Trap :=
  if !t.inTrap then some (e.ill .mode)
  else if t.twb.toNat % 16 ≠ 0 || t.twb.toNat / 16 ≥ c.nregs / 16 then some (e.ill .operand)
  else if t.tpc.toNat % 4 ≠ 0 then some (e.ill .fetch)
  else none

/-- A thread whose crew has resumed takes its saved course (R325): filing, parking and replies apart. A request that waited
for a slot of the ring stayed with its world (log entry 24, DESIGN CHOICE). -/
def Crew.courseOf (c : Crew) (s : State) (t : Thread) : Thread :=
  let mine : List SyscReq := match s.world c.world with
    | some w => w.requests.filter fun (r : SyscReq) => r.crew == c.uid && r.lanes.contains t.lane
    | none => []
  -- a request that was posted and answered while the crew was out
  let answer := mine.findSome? fun (r : SyscReq) => r.reply.map fun p => replyFor p.1 p.2.1 p.2.2 t.lane
  let reqs := mine.map fun (r : SyscReq) => Block.sysc r.reqid
  let held := match s.world c.world with
    | some w => w.sysHeld.filterMap fun p =>
        if p.2.crew == c.uid && p.2.lanes.contains t.lane then some (Block.syscHeld p.1) else none
    | none => []
  if t.tstate = 3 then
    match s.groups.find? fun g => g.crew == c.uid && g.lanes.contains t.lane with
    | some g => { t with st := .parked g.id }
    | none => t.resumeAt t.pc
  else if t.tstate = 4 then
    match ((c.heldReplies.find? (·.1 == t.lane)).map (·.2)).or answer with
    | some (a, b) => (t.setX (t.wb + 2) a).setX (t.wb + 3) b
    | none =>
      match reqs ++ held with
      | b :: _ => { t with st := .blocked b t.pc }
      | [] => (t.setX (t.wb + 2) 0xFFFFFFFF).setX (t.wb + 3) 0xFFFFFFFF
  else if t.tstate = 5 then { t with st := .exited }
  else t.resumeAt t.pc

/-- The save slot that an address begins returns to the free pool (R340). -/
def State.freeSlot (s : State) (wn addr : Nat) : State :=
  s.onWorld wn fun w => { w with ctl := { w.ctl with
    slotsUsed := w.ctl.slotsUsed.filter fun i => addr != w.ctl.savebase + i * 2 ^ (20 + w.ctl.savelog) } }

/-- Every thread of a resuming crew has executed the tret: each takes its course, and the save slot is free (R325, R340). -/
def State.resumeDone (s : State) (uid : Nat) : State :=
  match s.crew uid with
  | none => s
  | some c =>
    if c.course = .resuming && c.threads.all fun t => !t.live || c.tretDone.contains t.lane then
      let files := c.threads.filterMap fun t =>
        if t.live && t.tstate == 0 then some (t.lane, t.pc, t.wb) else none
      let s := { s with
        groups := mapIf (fun (g : Group) => g.crew == uid) (fun (g : Group) => { g with core := c.core, quarter := c.quarter })
          s.groups }
      let s' := s
      let s := s.onCrew uid fun c => { c with
        course := .normal
        tretDone := []
        heldReplies := []
        threads := c.threads.map fun (t : Thread) => if t.live then c.courseOf s' t else t }
      let s := s.dropRequests c.world fun r => r.crew == uid && r.reply.isSome
      let s := (s.fileAll uid none files).freeSlot c.world c.ctximg.toNat
      let s := if (s.crew uid).any fun c => c.threads.all fun t => !t.live then s.crewFinished uid else s
      -- a sub-group whose page has come meanwhile replays at once (R40)
      let s := (s.groups.filter fun g => g.crew == uid && (match g.fault with
          | some (die, i) => (tabGet s.faultq FqEntry.init ((die * 16 + c.world) * 4096 + i)).st != .posted &&
              (tabGet s.faultq FqEntry.init ((die * 16 + c.world) * 4096 + i)).st != .inService &&
              (tabGet s.faultq FqEntry.init ((die * 16 + c.world) * 4096 + i)).st != .declined
          | none => false)).foldl (fun s g => s.wakeGroup g.id) s
      s.onCrew uid Crew.regroup
    else s

/-- tret (R311). Returns from a trap handler, restoring WB, predicates, AFLG, PC and mode. -/
def execTret (sw : Bool) (s : State) : Out :=
  issue { word := (encRRR sw 31#6 11#4 0#7 0#7 0#7), sw := sw, ops := [], priv := true, guardable := false } s fun e k0 c s =>
    let good := ((c.threads.filter (sel k0)).filter fun t => (tretCheck e c t).isNone).map (·.lane)
    let held := (s.unit c.unit).any (·.lastExit) && c.drip.isNone
    let s := s.onCrew e.uid fun c => c.onThreads (sel k0) fun t =>
      match tretCheck e c t with
      | some tr => t.raise tr
      | none => if held && t.tmode = .U then { t.return with st := .exited } else t.return
    if good.isEmpty then s
    else
      let s := s.syncOp e.uid
      let s := if c.course = .resuming then
          (s.onCrew e.uid fun c => { c with tretDone := c.tretDone ++ good }).resumeDone e.uid
        else s
      let s := if c.asyncQ.isEmpty then s else s.post (.asyncTrapEntry e.uid)
      if held then s.post (.lastExitRelease c.unit) else s

/-! ## The guard prefix (R149, R150) -/

/-- GUARD_PREFIX (R149). Guards the following word on a predicate. -/
def execGuardPrefix (n : Bool) (c : BitVec 3) (s : State) : Out :=
  issue { word := (encBR false 62#6 (BitVec.ofBool n ++ c) 0#21), sw := false, ops := [], guardable := false } s fun e k0 _ s =>
    { s with iss := ⟨e.uid, k0, some (BitVec.ofBool n ++ c)⟩ }

end Sys2Proof.Machine
end

