-- ==== Sys2Proof/Machine/Circular.lean ====
section
/-! DEFINITION. Circular buffers: their transitions, and the threads and engine entries that wait for them (R110 to
R112, R226, R227, R266). -/

namespace Sys2Proof.Machine

/-- The state of a slot. -/
def CBuf.slotSt (c : CBuf) (i : Nat) : SlotSt × Bool := c.slots.getD i (.free, false)

/-- A fill starts at WIX, when its slot is FREE; `eng` when an engine starts it (R111). -/
def CBuf.startFill (c : CBuf) (eng : Bool) : Option (CBuf × Nat) :=
  if (c.slotSt c.wix).1 = .free && c.wix < c.count then
    some ({ c with
      slots := c.slots.set c.wix (.filling, eng)
      free := c.free - 1
      wix := (c.wix + 1) % c.count }, c.wix)
  else none

/-- A fill ends: FILLING → FILLED. -/
def CBuf.endFill (c : CBuf) (i : Nat) : CBuf :=
  if (c.slotSt i).1 = .filling then { c with slots := c.slots.set i (.filled, false), filled := c.filled + 1 } else c

/-- CBACQ takes the slot at RIX when it is FILLED. -/
def CBuf.acquire (c : CBuf) : Option (CBuf × Nat) :=
  if (c.slotSt c.rix).1 = .filled then
    some ({ c with
      slots := c.slots.set c.rix (.reading, false)
      filled := c.filled - 1
      rix := (c.rix + 1) % c.count }, c.rix)
  else none

/-- CBREL: READING → FREE. -/
def CBuf.release (c : CBuf) (i : Nat) : CBuf := { c with slots := c.slots.set i (.free, false), free := c.free + 1 }

def State.cbuf (s : State) (uid obj : Nat) : Option CBuf := (s.unit uid).bind fun u => u.cbs[obj]?

def State.onCbuf (s : State) (uid obj : Nat) (f : CBuf → CBuf) : State :=
  s.onUnit uid fun u => { u with cbs := match u.cbs[obj]? with
    | some c => u.cbs.set obj (f c)
    | none => u.cbs }

/-- The number of the wait that a thread is blocked in, on an object. -/
def Thread.cbWait (obj : Nat) (fill : Bool) (t : Thread) : Option Nat :=
  match t.st with
  | .blocked (.cb o _ f id) _ => if o = obj && f = fill then some id else none
  | _ => none

/-- The waits on an object: crew, quarter, `%crew`, lowest lane, number. -/
def State.cbWaits (s : State) (uid obj : Nat) (fill : Bool) : List (Nat × Nat × Nat × Nat × Nat) :=
  (s.crews.filter fun c => c.unit == uid && c.drip.isNone).flatMap fun c =>
    c.threads.filterMap fun t => (t.cbWait obj fill).map fun id => (c.uid, c.quarter, c.idx, t.lane, id)

/-- The wait that is served first: ascending quarter, crew, lane (R112, R227). -/
def State.firstWait (s : State) (uid obj : Nat) (fill : Bool) : Option (Nat × Nat) :=
  (pickBy (fun (a b : Nat × Nat × Nat × Nat × Nat) =>
    decide (a.2.1 < b.2.1) || (a.2.1 == b.2.1 && (decide (a.2.2.1 < b.2.2.1) ||
      (a.2.2.1 == b.2.2.1 && decide (a.2.2.2.1 < b.2.2.2.1))))) (s.cbWaits uid obj fill)).map fun a => (a.1, a.2.2.2.2)

/-- A thread of a served wait receives the slot index and continues. -/
def Thread.cbServe (id slot : Nat) (t : Thread) : Thread :=
  match t.st with
  | .blocked (.cb _ d _ i) next =>
    if i = id then
      (({ t with pendX := tabPut t.pendX none (t.wb + d) none }).putX d (BitVec.ofNat 32 slot)).resumeAt next
    else t
  | _ => t

/-- A wait is served: an acquire at block scope (R226). -/
def State.cbServe (s : State) (crew id slot : Nat) : State :=
  ((s.onCrew crew fun c => ({ c with threads := c.threads.map (Thread.cbServe id slot) }).regroup).acquired crew scopeBlock).syncOp crew

/-- The entries at the heads of a block's queues that have not begun may begin. -/
def State.kickQueues (s : State) (unit : Nat) : State :=
  s.entries.foldl (fun s e => if e.unit == unit && e.phase == .queued then s.startNext unit e.qkey else s) s

/-- An entry at the head of its queue waits to fill an object (R266). -/
def State.engineFills (s : State) (uid obj : Nat) : Bool :=
  s.entries.any fun e => e.unit == uid && e.phase == .queued && (e.cmd == .cpy || e.cmd == .cpy2d || e.cmd == .cpymx) &&
    bitN (e.word 9) 21 && fieldN (e.word 9) 14 7 == obj &&
    ((s.entries.find? fun x => x.unit == uid && x.qkey == e.qkey).map (·.id)) == some e.id

/-- After a change of an object: engine fills, then software fills, then acquires, each while one can be served
(R112, R227). -/
def State.cbSettle (s : State) (uid obj : Nat) : Nat → State
  | 0 => s
  | n + 1 =>
    match s.cbuf uid obj with
    | none => s
    | some c =>
      match (if s.engineFills uid obj then none else s.firstWait uid obj true), c.startFill false with
      | some (crew, id), some (c', slot) =>
        State.cbSettle ((s.onCbuf uid obj fun _ => c').cbServe crew id slot) uid obj n
      | _, _ =>
        match s.firstWait uid obj false, c.acquire with
        | some (crew, id), some (c', slot) =>
          State.cbSettle ((s.onCbuf uid obj fun _ => c').cbServe crew id slot) uid obj n
        | _, _ => s

/-- The same, with the queues that may wait for a slot looked at first. -/
def State.cbChanged (s : State) (uid obj : Nat) : State := (s.kickQueues uid).cbSettle uid obj 512

end Sys2Proof.Machine
end

