-- ==== Sys2Proof/Machine/Service.lean ====
section
/-! DEFINITION. Fault queues and services of the network processor: posting, joining, choosing a way, fetching,
installing, waking in runs, declining (R36 to R40, R356 to R361, R373 to R377, R383 to R388, R436). -/

namespace Sys2Proof.Machine

/-! ## Names (R11, R357) -/

/-- One bit of CRC-32C, in its reflected form. -/
def crcBit (c : Nat) : Nat := if c % 2 = 1 then c / 2 ^^^ 0x82F63B78 else c / 2

def crcByte (c : Nat) (b : Byte) : Nat := (List.range 8).foldl (fun c _ => crcBit c) (c ^^^ b.toNat)

/-- CRC-32C of bytes (R11). -/
def crc32c (l : List Byte) : Nat := l.foldl crcByte 0xFFFFFFFF ^^^ 0xFFFFFFFF

/-- CRC-32C of the seven bytes of a name. -/
def nameCrc (job page : Nat) : Nat := crc32c (leBytes 5 page ++ leBytes 2 job)

/-- First frame index of a name's set (R357). -/
def State.setBase (s : State) (job page : Nat) : Nat := 16 * (nameCrc job page % (s.plat.fcframes / 16))

/-- The world that runs a job on this device. -/
def State.jobWorld (s : State) (job : Nat) : Option World := s.worlds.find? (·.job == job)

/-! ## Messages of the directory protocol (R380) -/

def npGets : Nat := 1
def npGetx : Nat := 2
def npWbrel : Nat := 3
def npDrop : Nat := 4
def npXferS : Nat := 5
def npXferX : Nat := 6
def npRecall : Nat := 7
def npRecallAck : Nat := 8
def npGrant : Nat := 9
def npData : Nat := 10
def npWback : Nat := 11
def npStale : Nat := 12
def npNoHome : Nat := 13
def npHome : Nat := 14
def npHeld : Nat := 15
def npFetch : Nat := 16
def npHomeWrite : Nat := 17
def npHomeError : Nat := 18

/-- Fills, transfers and write-backs go unordered, the directory protocol itself in order (R401). -/
def npClass (kind : Nat) : Nat :=
  if kind = npData || kind = npFetch || kind = npHomeWrite || kind = npHomeError then clsRud else clsDir

/-- A message of the directory protocol, or a page, to another rank (R380); a service's attempt fails with its packets. -/
def State.npSay (s : State) (owner kind job page rank ver : Nat) (bytes : List Byte) : State :=
  (s.send (.np kind job page rank ver bytes)).transmitPart (npClass kind) (rankPeer job rank) owner 0 bytes.length

/-- Where the shard map tells the rank that holds a name's directory entry (R378). -/
def NpPage.mapSlot (p : NpPage) (job page : Nat) : Nat :=
  p.shmap + 2 * (nameCrc job page % (if p.nshards = 0 then 1 else p.nshards))

/-- The rank that holds a name's directory entry; `none` where the map cannot be read (R378). -/
def State.shardRank (s : State) (w : World) (job page : Nat) : Option Nat :=
  if w.np.shmap = 0 then some 0 else (s.devRead w.num (w.np.mapSlot job page) 2).map leNat

/-- A request to a name's shard: to this device's own shard as a step, to another as a message; false with no shard. -/
def State.askShard (s : State) (kind job page : Nat) (data : List Byte) : State × Bool :=
  match s.jobWorld job with
  | none => (s, false)
  | some w =>
    let at_ := s.shardRank w job page
    let s := if w.np.shmap = 0 then s else s.devTouch w.num (w.np.mapSlot job page) 2
    match at_ with
    | none => (s, false)
    | some r =>
      if r = w.np.rank then
        (s.post (if kind = npGets then .shardGets job page r else if kind = npGetx then .shardGetx job page r
          else if kind = npWbrel then .shardWbrel job page r data else .shardDrop job page r), true)
      else if (Config.ranksOf job).contains r then
        let v := (s.services.find? fun v => v.job == job && v.page == page && v.phase == .lookup).elim 0 (·.id)
        (s.npSay v kind job page r 0 data, true)
      else (s, false)

/-! ## What this device holds of a name -/

def Owned.new (job page : Nat) : Owned := ⟨job, page, false, none, false, none, false, 0⟩

def State.ownedOf (s : State) (job page : Nat) : Owned :=
  (s.owned.find? fun o => o.job == job && o.page == page).getD (Owned.new job page)

/-- Updates what is known of a name; a record that says nothing is dropped. -/
def State.onOwned (s : State) (job page : Nat) (f : Owned → Owned) : State :=
  let o := f (s.ownedOf job page)
  let rest := s.owned.filter fun o => !(o.job == job && o.page == page)
  { s with owned := if o = Owned.new job page then rest else rest ++ [o] }

/-- Monitors armed on a page wake when it leaves the device's ownership (R142, R381). -/
def State.wakeName (s : State) (job page : Nat) : State :=
  let hit := fun (t : Thread) => match t.monitor with
    | some (.name j a) => j == job && a / pageBytes == page
    | _ => false
  { s with
    crews := mapIf (fun c => c.threads.any hit) (fun c => (c.onThreads hit Thread.wake).regroup) s.crews }

/-! ## Fault-queue entries (R373, R374) -/

def faultKey (die wn i : Nat) : Nat := (die * 16 + wn) * 4096 + i

/-- The lowest FREE entry of a fault queue. -/
def State.freeEntry (s : State) (die wn : Nat) : Option Nat :=
  (List.range 4096).find? fun i => (tabGet s.faultq FqEntry.init (faultKey die wn i)).st = .free

/-- The lowest parked-sub-group slot of a quarter that no entry uses. -/
def State.parkSlot (s : State) (core quarter : Nat) : Nat :=
  ((List.range 1024).find? fun n =>
    !(s.faultq.any fun p => p.2.st != .free && p.2.core == core && p.2.quarter == quarter && p.2.slot == n)).getD 0

/-- Posts an entry with the world's next FSEQ; `none` when the queue is full (R39). -/
def State.postFault (s : State) (die wn : Nat) (f : FqEntry) : State × Option (Nat × Word) :=
  match s.freeEntry die wn, s.world wn with
  | some i, some w =>
    let k := faultKey die wn i
    let old := tabGet s.faultq FqEntry.init k
    ({ (s.onWorld wn fun w => { w with fseq := w.fseq + 1 }) with
      faultq := tabPut s.faultq FqEntry.init k { f with fseq := w.fseq, gen := old.gen, st := .posted } },
      some (i, w.fseq))
  | _, _ => (s, none)

/-- Changes the entry of a world with a fault sequence number. -/
def State.onFault (s : State) (wn : Nat) (fseq : Word) (g : FqEntry → FqEntry) : State :=
  match s.faultq.find? fun p => p.1 / 4096 % 16 == wn && p.2.fseq == fseq && p.2.st != .free with
  | some p => { s with faultq := tabPut s.faultq FqEntry.init p.1 (g p.2) }
  | none => s

/-- Frees it, with its generation advanced (R373). -/
def FqEntry.release (f : FqEntry) : FqEntry := { FqEntry.init with gen := f.gen + 1 }

/-! ## Services (R375) -/

def State.service (s : State) (id : Nat) : Option Service := s.services.find? (·.id == id)
def State.onService (s : State) (id : Nat) (f : Service → Service) : State :=
  { s with services := mapIf (·.id == id) f s.services }

/-- The service of a name. -/
def State.serviceOf (s : State) (job page : Nat) : Option Service := s.services.find? fun v => v.job == job && v.page == page

/-- Opens a service; its way is chosen, and its request sent, in a later step, so that waiters posted meanwhile join
before it (R375). -/
def State.openService (s : State) (wn job page : Nat) (write : Bool) (waiters : List (Word × Waiter × Bool × Bool))
    (pin prefetch : Bool) : State :=
  let (id, s) := s.fresh
  let v : Service :=
    { id, world := wn, job, page, write, phase := .victim, resume := .victim, attempts := 0, waiters, frame := none
      held := false, upgrade := false, storage := false, pinDeferred := false, code := 0, hold := false
      pinOnInstall := pin, prefetch, home := none, victim := none, present := [] }
  State.post { s with services := s.services ++ [v] } (.victimRetry id)

/-- The waiters of a service with one more. A write waiter that has parked anew keeps its place, since the waiters after it
are woken only when its replay has been performed (R376; log entry 24, DESIGN CHOICE). -/
def Service.joined (v : Service) (x : Word × Waiter × Bool × Bool) : List (Word × Waiter × Bool × Bool) :=
  if v.waiters.any (·.2.1 == x.2.1) then v.waiters.map fun p => if p.2.1 == x.2.1 then x else p else v.waiters ++ [x]

/-- A waiter joins the service of its name, or opens one. -/
def State.joinService (s : State) (wn job page : Nat) (write : Bool) (fseq : Word) (w : Waiter) : State :=
  match s.serviceOf job page with
  | some v =>
    let s := s.onService v.id fun v => { v with
      waiters := v.joined (fseq, w, write, false)
      write := v.write || (write && v.phase = .victim) }
    match v.phase with
    | .installed => s.arm (.waiterRunWake v.id)
    | .declined => s.onFault wn fseq fun f => { f with st := .declined }
    | _ => s.onFault wn fseq fun f => { f with st := .inService }
  | none => s.openService wn job page write [(fseq, w, write, false)] false false

/-- An engine command posts its entry for one name, which its ranges share (R374); with the fault queue full it looks
again later. -/
def State.enginePost (s : State) (e : Entry) (job page : Nat) (write : Bool) : State :=
  let waits : Bool := match s.serviceOf job page with
    | some v => v.waiters.any fun p => p.2.1 == .engine e.id
    | none => false
  if waits then s
  else if s.ckpt.stuck && (s.serviceOf job page).isNone then s.arm (.copyReplay e.id)
  else
    let f : FqEntry := { FqEntry.init with
      job, page, pc := e.pc, eseq := e.seq, qid := e.qid, core := e.site, kind := 3, write }
    match s.postFault (dieOf e.site) e.world f with
    | (s, some (_, fseq)) => s.joinService e.world job page write fseq (.engine e.id)
    | (s, none) => s.arm (.copyReplay e.id)

/-- An engine command waits for pages, with one entry for each name (R262, R374). A handler read goes on with its other
bursts meanwhile (R273). -/
def State.engineWait (s : State) (id : Nat) (pages : List (Nat × Nat × Bool)) : State :=
  match s.entry id with
  | none => s
  | some e =>
    pages.foldl (fun s p => s.enginePost e p.1 p.2.1 p.2.2)
      (if e.cmd == .hread then s else s.onEntry id fun e => { e with phase := .waitPage })

/-- An engine command's wait is over: its entries return to FREE, and later waiters may go on (R373, R376). -/
def State.engineResumed (s : State) (id : Nat) : State :=
  let mine := s.services.flatMap fun v => (v.waiters.filter fun p => p.2.1 == .engine id && p.2.2.2).map fun p => (v.id, v.world, p.1)
  mine.foldl (fun s m =>
    ((s.onFault m.2.1 m.2.2 FqEntry.release).onService m.1 fun v => { v with
      waiters := v.waiters.filter fun p => p.1 != m.2.2 }).arm (.waiterRunWake m.1)) s

/-! ## Waking (R38, R376) -/

/-- Wakes one waiter of a service. -/
def State.wakeWaiter (s : State) (v : Service) (fseq : Word) (w : Waiter) : State :=
  let s := (s.onFault v.world fseq fun f => { f with st := .woken }).onService v.id fun v => { v with
    waiters := v.waiters.map fun p => if p.1 == fseq then (p.1, p.2.1, p.2.2.1, true) else p }
  match w with
  | .group gid => s.wakeGroup gid
  | .engine id => s.arm (.copyReplay id)

def Frame.usable (f : Frame) : Bool := f.st = .clean || f.st = .ownedDirty || f.st = .pinned

/-- A service ends: its hold is released (R377). -/
def State.endService (s : State) (v : Service) : State :=
  let s := State.disarm { s with services := s.services.filter (·.id != v.id) } fun e =>
    e == .postFillHoldExpiry v.id || e == .attemptTimeout v.id false || e == .backoffExpiry v.id || e == .victimRetry v.id
  match v.frame with
  | some i => if v.hold then s.unrefFrame i else s
  | none => s

/-! ## Declining (R386 to R388) -/

/-- A declined-fault entry: 32 B in the world's ring, and the world's interrupt; counted in DFLOST when it cannot be
written (R388). -/
def State.declinedEntry (s : State) (wn job page : Nat) (write : Bool) (nwait : Nat) (fseq : Word) (attempts code : Nat) :
    State :=
  match s.world wn with
  | none => s
  | some w =>
    let lose := fun (s : State) => s.onWorld wn fun w => { w with np := { w.np with dflost := w.np.dflost + 1 } }
    let s := if (w.np.dftail - w.np.dfhead).toNat ≥ 2 ^ w.np.dflog then lose s
      else
        let n := code + (if write then 256 else 0) + attempts * 2 ^ 16 + page * 2 ^ 64 + job * 2 ^ 104 +
          fseq.toNat * 2 ^ 128 + nwait * 2 ^ 160 + s.plat.devtime.toNat * 2 ^ 192
        match s.devWrite wn (w.np.dfq + 32 * (w.np.dftail.toNat % 2 ^ w.np.dflog)) (leBytes 32 n) with
        | (s, true) => s.onWorld wn fun w => { w with np := { w.np with dftail := w.np.dftail + 1 } }
        | (s, false) => lose s
    s.send (.interrupt wn (Config.rvCore wn % rvCores))

/-- A service is declined (R386): its waiters' entries, the declined-fault entry, a recorded pin dropped (R389). -/
def State.declineService (s : State) (id code : Nat) : State :=
  match s.service id with
  | none => s
  | some v =>
    let s := (s.onService id fun v => { v with phase := .declined, code, pinOnInstall := false }).disarm fun e =>
      e == .attemptTimeout id false || e == .backoffExpiry id || e == .victimRetry id
    let s := v.waiters.foldl (fun s p => s.onFault v.world p.1 fun f => { f with st := .declined }) s
    s.declinedEntry v.world v.job v.page v.write v.waiters.length
      (((pickBy (fun (a b : Word) => decide (a < b)) (v.waiters.map (·.1)))).getD 0) v.attempts code

/-! ## Fetching (R375, R383, R386, R436) -/

/-- The entry of a page-cache table at a probe's address that holds a name: namespace and first LBA ÷ 16 (R436). -/
def State.pageCacheAt (s : State) (job page pa : Nat) : Option (Nat × Nat) :=
  let e := s.loadPA pa 16
  if leNat (e.take 5) = page && leNat ((e.drop 5).take 2) = job then some (leNat ((e.drop 8).take 4), leNat (e.drop 12))
  else none

/-- The probes of a page-cache table for a name, each read by the network processor until one holds it (R372, R436). -/
def State.pageCache (s : State) (job page : Nat) : List Nat → State × Option (Nat × Nat)
  | [] => (s, none)
  | pa :: r =>
    let s := s.useNp false pa 16
    match s.pageCacheAt job page pa with
    | some x => (s, some x)
    | none => State.pageCache s job page r

/-- Where a name's entry may stand in the table. -/
def NpPage.probes (p : NpPage) (job page : Nat) : List Nat :=
  (List.range 16).map fun i => p.pctab + 16 * ((nameCrc job page + i) % 2 ^ p.pclog)

/-- Storage requests: an NVMe read of a page (R436). -/
def nvmeRead : Nat := 1

/-- A service sends its request and its attempt begins (R375, R383). -/
def State.fetch (s : State) (id : Nat) : State :=
  match s.service id with
  | none => s
  | some v =>
    match s.world v.world with
    | none => s
    | some w =>
      if w.np.pcmode then
        if v.write then s.declineService id 4
        else match s.pageCache v.job v.page (w.np.probes v.job v.page) with
          | (s, none) => s.declineService id 4
          | (s, some (ns, lba)) =>
            ((s.onService id fun v => { v with phase := .fill, storage := true }).send
              (.storage nvmeRead (ns * 2 ^ 40 + 16 * lba) [])).arm (.attemptTimeout id false)
      else
        match s.askShard (if v.write then npGetx else npGets) v.job v.page [] with
        | (s, false) => s.declineService id 4
        | (s, true) => (s.onService id fun v => { v with
            phase := if v.phase = .fill then .fill else .lookup }).arm (.attemptTimeout id false)

/-- A service whose frame this device holds for reading asks for ownership (R361). -/
def State.upgradeService (s : State) (id i : Nat) : State :=
  (s.onService id fun v => { v with
    phase := .lookup, write := true, upgrade := true, attempts := 0, frame := some i }).fetch id

/-- The post-fill hold ends once every waiter present at the install has replayed (R377). -/
def State.holdOver (s : State) (v : Service) : State :=
  if v.phase = .installed && v.hold && !(v.waiters.any fun p => v.present.contains p.1) then
    let s := (s.onService v.id fun v => { v with hold := false }).disarm (· == .postFillHoldExpiry v.id)
    match v.frame with
    | some i => s.unrefFrame i
    | none => s
  else s

/-- A service that every waiter has left before its end is withdrawn: a frame that it was filling is Invalid (R375). -/
def State.withdrawService (s : State) (v : Service) : State :=
  if !v.waiters.isEmpty || v.prefetch || v.pinOnInstall then s
  else
    let s := match v.frame with
      | some i => if (s.frame i).st = FState.filling then
          s.onFrame i fun f => { f with st := .invalid, job := 0, page := 0, wr := false } else s
      | none => s
    s.endService v

/-- The next run of a service's waiters is woken (R376); a service with none left ends (R375). -/
def State.runWake (s : State) (id : Nat) : State :=
  let s := match s.service id with
    | some v => s.holdOver v
    | none => s
  match s.service id with
  | none => s
  | some v =>
    match v.phase, v.frame with
    | .installed, some i =>
      match v.waiters with
      | [] => s.endService v
      | (fseq, w, write, woken) :: _ =>
        if write then
          if woken then s
          else if (s.frame i).wr && (s.frame i).usable then s.wakeWaiter v fseq w
          else if (s.frame i).st = .clean then s.upgradeService id i
          else if (s.frame i).usable then s
          else (s.onService id fun v => { v with phase := .victim, frame := none, hold := false }).arm (.victimRetry id)
        else ((v.waiters.takeWhile fun p => !p.2.2.1).filter fun p => !p.2.2.2).foldl
          (fun s p => s.wakeWaiter v p.1 p.2.1) s
    | .declined, f =>
      if v.waiters.isEmpty && !v.prefetch then
        let s := match f with
          | some i => if v.upgrade then s else s.onFrame i fun f => { f with st := .invalid, job := 0, page := 0, wr := false }
          | none => s
        s.endService v
      else s
    | .installed, none => s
    | _, _ => s.withdrawService v

/-- A frame is installed: its data, its state, the post-fill hold, tenure, and the first run of waiters (R361, R376,
R377, R381). -/
def State.install (s : State) (id i : Nat) (bytes : List Byte) (ver : Nat) : State :=
  match s.service id with
  | none => s
  | some v =>
    let s := (s.npStore (s.framePA i) bytes).forget (.name v.job (v.page * pageBytes)) pageBytes
    let s := s.onFrame i fun f => { f with
      job := v.job
      page := v.page
      age := 0
      refcnt := f.refcnt + 1
      wr := v.write
      st := if v.pinOnInstall then .pinned else if v.write then .ownedDirty else .clean }
    let s := s.onOwned v.job v.page fun o => { o with ver, tenure := v.write }
    let s := if v.write then s.arm (.tenureEnd v.job v.page) else s
    let s := (s.onService id fun v => { v with
      phase := .installed, frame := some i, hold := true, held := false, pinOnInstall := false, attempts := 0
      present := v.waiters.map (·.1) }).disarm
        fun e => e == .attemptTimeout id false || e == .backoffExpiry id
    let s := s.arm (.postFillHoldExpiry id)
    s.runWake id

/-- A service that awaits an answer of its shard or its data. -/
def Service.isOpen (v : Service) : Bool := v.phase = .lookup || v.phase = .fill || v.phase = .backoff

/-- A service of a name whose frame has left while it ran takes the way again. -/
def State.refill (s : State) (i job page : Nat) : State :=
  match s.serviceOf job page with
  | some v =>
    if v.frame = some i && v.isOpen then
      (s.onFrame i fun f => { f with
        job
        page
        st := .filling
        wr := v.write }).onService v.id fun v => { v with upgrade := false }
    else s
  | none => s

/-! ## Choosing a way (R384) -/

/-- The ways of a name's set that may be taken: those below the way limit (R398). -/
def State.waysOf (s : State) (job page : Nat) : List Nat :=
  (List.range (min 16 s.plat.wayl)).map (s.setBase job page + ·)

/-- The way that a service takes: an Invalid one, else the victim, among the ways below the way limit (R384, R398). -/
def State.chooseWay (s : State) (job page : Nat) : Option Nat :=
  if s.plat.fcframes < 16 then none
  else
    let ways := s.waysOf job page
    match ways.find? fun i => (s.frame i).st = .invalid with
    | some i => some i
    | none => pickBy (fun (a b : Nat) =>
        decide ((s.frame a).age > (s.frame b).age) ||
          ((s.frame a).age == (s.frame b).age && (s.frame a).st = .clean && (s.frame b).st != .clean))
        (ways.filter fun i => ((s.frame i).st = .clean || (s.frame i).st = .ownedDirty) && (s.frame i).refcnt = 0)

/-- Every access that found a frame usable is performed, and the frame starts to leave: Evicting (R359, R361). -/
def State.frameLeaves (s : State) (i : Nat) (roost : Nat) : State :=
  let f := s.frame i
  (((s.finishFrame (s.framePA i)).useNp false (s.framePA i) pageBytes).onFrame i fun f => { f with
    st := .evicting
    roost }).wakeName f.job f.page

/-- An item that is in HBM may leave it: no frame of it is pinned, referenced or in change (R385, R392). -/
def State.itemMay (s : State) (id page : Nat) : Bool :=
  (s.itemNames id page).all fun n => match s.frameOf n.1 n.2 with
    | some (_, f) => (f.st == .clean || f.st == .ownedDirty) && f.refcnt == 0
    | none => true

/-- The network processor's translation of a state block's pages, when the block is moved: malformed entries that it meets
are counted (R351). -/
def State.touchState (s : State) (id page : Nat) : State :=
  match (if page = 0 then s.roostOf id else none) with
  | some r => (pageParts r.state r.slen).foldl (fun s p => (s.translate r.world noCore p.1).1) s
  | none => s

/-- An item starts down to a tier: its frames leave with the roost's number (R392). -/
def State.itemDescends (s : State) (id page dst : Nat) : State :=
  let t := s.itemTier id page
  let s := s.touchState id page
  let s := if t ≠ 0 then s else (s.itemNames id page).foldl (fun s n => match s.frameOf n.1 n.2 with
    | some (i, _) => s.frameLeaves i id
    | none => s) s
  let data := if t ≠ 0 then (s.itemOut id page).flatMap (·.2.2)
    else (s.itemNames id page).flatMap fun n => match s.frameOf n.1 n.2 with
      | some (i, _) => s.loadPA (s.framePA i) pageBytes
      | none => []
  (s.setItemTier id page (4 + 10 * t + 100 * dst)).send (.storage (2 + dst) (id * 2 ^ 16 + page) data)

/-- A page starts to leave a frame: Evicting; dirty data goes to its shard by WBREL and stays in the write-back buffer, a
Clean page sends DROP (R361, R382, R384). -/
def State.evictHome (s : State) (i : Nat) : State :=
  let f := s.frame i
  let s := (s.finishFrame (s.framePA i)).useNp false (s.framePA i) pageBytes
  let s := s.onFrame i fun f => { f with st := .evicting }
  if f.wr then
    let data := s.loadPA (s.framePA i) pageBytes
    let s := (s.onOwned f.job f.page fun o => { o with wbuf := some data, tenure := false }).wakeName f.job f.page
    (s.askShard npWbrel f.job f.page data).1
  else
    let s := s.wakeName f.job f.page
    -- pages of the page-cache table are in no directory (R436)
    let table := match s.jobWorld f.job with
      | some w => w.np.pcmode
      | none => false
    (if table then s else (s.askShard npDrop f.job f.page []).1).arm (.evictionComplete i)

/-- One page of a state block descends alone, other pages of the block being pinned, referenced or in change: it is kept with
the record, and its frame leaves (R391, R392). -/
def State.pageDescends (s : State) (id i : Nat) : State :=
  let f := s.frame i
  let s := s.frameLeaves i id
  let bytes := s.loadPA (s.framePA i) pageBytes
  ((s.setItemOut id 0 (s.itemOut id 0 ++ [(f.page, f.wr, bytes)])).send
    (.storage (if s.cxlTier then 3 else 4) (id * 2 ^ 16) bytes)).arm (.evictionComplete i)

/-- A victim leaves its frame: a page of a sequence or of a roost's state block goes to the CXL tier and counts as
descended (R392), to flash when there is none (log entry 24, DESIGN CHOICE); any other goes home. -/
def State.evict (s : State) (i : Nat) : State :=
  let f := s.frame i
  match s.itemOf f.job f.page with
  | some (id, p) =>
    if s.itemTier id p = 0 && s.itemMay id p then s.itemDescends id p (if s.cxlTier then 1 else 2)
    else if p = 0 then s.pageDescends id i else s.evictHome i
  | none => s.evictHome i

/-! ## Ascent (R393) -/

/-- A page that ascends takes a way of its set: an Invalid one is filled, a victim leaves first, while none of the set is
leaving already (R384). -/
def State.ascendFrame (s : State) (id job page : Nat) (wr : Bool) : State :=
  match s.frameOf job page, s.chooseWay job page with
  | some _, _ | none, none => s
  | none, some i =>
    if (s.frame i).st = .invalid then s.onFrame i fun f => { f with
      job, page, st := .filling, wr, refcnt := 0, age := 0, roost := id }
    else if (s.waysOf job page).any fun w => (s.frame w).st = .evicting then s
    else s.evict i

/-- The frames of an item that ascends are taken, as far as there are any. -/
def State.ascendFrames (s : State) (id page : Nat) : State :=
  let job := ((s.itemNames id page).headD (0, 0)).1
  (s.itemOut id page).foldl (fun s x => s.ascendFrame id job x.1 x.2.1) s

/-- An item lies in a lower tier and is not under way, or is a state block some page of which does. -/
def State.itemAway (s : State) (id page : Nat) : Bool :=
  let t := s.itemTier id page
  t == 1 || t == 2 || (t == 0 && page == 0 && !(s.itemOut id 0).isEmpty)

/-- The name of a page that is not in HBM belongs to this item. -/
def State.outItem (s : State) (job page : Nat) : Option (Nat × Nat) :=
  (s.itemOf job page).filter fun x => s.itemTier x.1 x.2 != 0 || (x.2 == 0 && (s.itemOut x.1 0).any (·.1 == page))

/-- One item starts its ascent. -/
def State.startAscent (s : State) (id page : Nat) : State :=
  ((((s.touchState id page).setItemTier id page 3).ascendFrames id page).send (.storage 2 (id * 2 ^ 16 + page) [])).arm (.pageAscentDone id page)

/-- An item that is wanted starts its ascent, or does so when its descent has finished (R287, R361, R394). -/
def State.wantItem (s : State) (id page : Nat) : State :=
  let t := s.itemTier id page
  if s.itemAway id page then s.startAscent id page
  else if tierKind t = 4 then s.setItemTier id page (t + 1)
  else s

/-- A service without a frame looks for one (R384): a page already here serves it, an Invalid way is filled, a victim
leaves first. -/
def State.takeWay (s : State) (id : Nat) : State :=
  match s.service id with
  | none => s
  | some v =>
    let again := (s.arm (.victimRetry id)).arm (.attemptTimeout id false)
    if v.phase ≠ .victim then s
    else if s.ckpt.stuck then again
    else match s.frameOf v.job v.page with
      | some (i, f) =>
        if f.usable then
          if v.write && f.st = .clean then s.upgradeService id i
          else (s.onService id fun v => { v with phase := .installed, frame := some i }).runWake id
        else again
      | none =>
        -- a page in a lower tier is fetched from there (R361)
        match s.outItem v.job v.page with
        | some (id, p) => ((s.wantItem id p).arm (.victimRetry v.id)).arm (.attemptTimeout v.id false)
        | none =>
        if v.victim.any fun i => (s.frame i).st = .evicting then s.arm (.victimRetry id)
        else match s.chooseWay v.job v.page with
        | none => again
        | some i =>
          if (s.frame i).st = .invalid then
            let s := s.onFrame i fun f => { f with
              job := v.job, page := v.page, st := .filling, wr := v.write, refcnt := 0, age := 0, roost := 0 }
            (s.onService id fun v => { v with phase := .lookup, frame := some i, attempts := 0, victim := none }).fetch id
          else ((s.evict i).onService id fun v => { v with victim := some i }).arm (.victimRetry id)

/-! ## Steps -/

/-- A posted sub-group joins or opens the service of its page; while a failed restore holds the device no service opens, and
it looks again (R397). -/
def State.joinPosted (s : State) (g : Group) (fseq : Word) : State :=
  if s.ckpt.stuck && (s.serviceOf g.job g.page).isNone then s.arm (.faultEntryPostHeld g.id)
  else s.joinService g.world g.job g.page g.write fseq (.group g.id)

/-- The same of a sub-group that has posted its entry and is in no service. -/
def State.openPosted (s : State) (g : Group) : State :=
  match g.fault with
  | none => s
  | some (die, i) =>
    let f := tabGet s.faultq FqEntry.init (faultKey die g.world i)
    if f.st != .posted || (s.services.any fun v => v.waiters.any fun p => p.2.1 == .group g.id) then s
    else s.joinPosted g f.fseq

/-- FAULT_ENTRY_POST_HELD (R39, R374). A parked sub-group posts its entry once the queue has room, and opens or joins
the service of its page. -/
def execFaultEntryPostHeld (group : Nat) (s : State) : Out :=
  match s.groups.find? (·.id == group) with
  | none => .next s
  | some g =>
    if g.fault.isSome then .next (s.openPosted g)
    else
      let f : FqEntry := { FqEntry.init with
        job := g.job
        page := g.page
        pc := g.pc
        nthr := g.lanes.length
        core := g.core
        quarter := g.quarter
        slot := s.parkSlot g.core g.quarter
        kind := if g.drip then 2 else 1
        write := g.write }
      match s.postFault (dieOf g.core) g.world f with
      | (s, none) => .next (s.arm (.faultEntryPostHeld group))
      | (s, some (i, fseq)) =>
        let s := { s with groups := s.groups.map fun (x : Group) =>
          if x.id == group then { x with fault := some (dieOf g.core, i) } else x }
        .next (s.joinPosted g fseq)

/-- VICTIM_RETRY (R384). The network processor chooses a way for a service, again every 1 µs while none qualifies. -/
def execVictimRetry (service : Nat) (s : State) : Out := .next (s.takeWay service)

/-- WAITER_RUN_WAKE (R376). The next run of waiters is woken once the runs before it have replayed. -/
def execWaiterRunWake (service : Nat) (s : State) : Out := .next (s.runWake service)

/-- POST_FILL_HOLD_EXPIRY (R377). 8 µs after install the hold ends, though waiters have not replayed. -/
def execPostFillHoldExpiry (service : Nat) (s : State) : Out :=
  match s.service service with
  | none => .next s
  | some v =>
    match v.frame with
    | some i => if v.hold then
        .next ((s.onService service fun v => { v with hold := false }).unrefFrame i)
      else .next s
    | none => .next s

end Sys2Proof.Machine
end

