-- ==== Sys2Proof/Machine/Launches.lean ====
section
/-! DEFINITION. Launch descriptors: how they are read and checked, and how a launch is accepted (R43, R169, R330 to
R335, R339). -/

namespace Sys2Proof.Machine

/-- Refusal reasons (R335, R260). -/
def refBlock : Nat := 1
def refCap : Nat := 2
def refFull : Nat := 3
def refLate : Nat := 4
def refDesc : Nat := 5
def refImage : Nat := 6

/-- Word `i` of bytes, as a number. -/
def natAt (l : List Byte) (i : Nat) : Nat := (wordAt l i).toNat

/-- The 64-bit value of words `i` and `i + 1`. -/
def nat64At (l : List Byte) (i : Nat) : Nat := natAt l i + 2 ^ 32 * natAt l (i + 1)

/-- The PA of each 4 KiB piece of an image; `none` where one is not mapped readable and local-home (R335). -/
def State.imagePages (s : State) (wn va : Nat) : Nat → Option (List Nat)
  | 0 => some []
  | n + 1 =>
    match State.imagePages s wn (va + 4096) n with
    | none => none
    | some ps =>
      match (s.translate wn noCore va).2 with
      | some l => if l.remote || !l.r then none else some ((l.target + (va - l.vbase)) :: ps)
      | none => none

def State.readImage (s : State) (wn va len : Nat) : Option Image :=
  (s.imagePages wn va ((len + 4095) / 4096)).map fun ps => ⟨len, ps⟩

/-- A channel entry (R65). -/
def chanOf (b : List Byte) : Chan :=
  let w0 := natAt b 0
  ⟨BitVec.ofNat 64 (nat64At b 2), natAt b 1, fieldN w0 28 4, bitN w0 27, bitN w0 26, bitN w0 25, bitN w0 24, bitN w0 23, 0⟩

/-- Entries of `n` bytes each. -/
def entriesOf (n : Nat) (l : List Byte) : List (List Byte) := (List.range (l.length / n)).map fun i => (l.drop (n * i)).take n

/-- A handler entry (R334); an entry without an image is not checked. R334 states no range of the entry PC and of the
image bytes: a drip whose PC lies outside the image raises ILL at its fetch. -/
def State.handlerOf (s : State) (wn : Nat) (b : List Byte) : Option Handler :=
  let len := natAt b 2
  let w3 := natAt b 3
  if len = 0 then some ⟨⟨0, []⟩, 0, 0⟩
  else if nat64At b 0 % 4096 ≠ 0 || (fieldN w3 0 8 ≠ 16 && fieldN w3 0 8 ≠ 32) then none
  else (s.readImage wn (nat64At b 0) len).map fun im => ⟨im, BitVec.ofNat 32 (4 * fieldN w3 8 24), fieldN w3 0 8⟩

/-- All of a list, when each part is there. -/
def allSome {α : Type} : List (Option α) → Option (List α)
  | [] => some []
  | none :: _ => none
  | some x :: r => (allSome r).map (x :: ·)

/-- The declaration table (R334): barriers, circular buffers, capabilities. -/
structure Decls where
  bars : List Nat
  cbs : List (Nat × Nat × Nat × Nat)
  caps : List (Nat × Nat)
  deriving DecidableEq, Repr

/-- The table at an address, with its own range checks; 0 stands for an empty one. -/
def State.readDecls (s : State) (wn va crews block : Nat) : Option Decls :=
  if va = 0 then some ⟨[], [], []⟩
  else
    match s.devRead wn va 16 with
    | none => none
    | some h =>
      let nb := natAt h 0
      let nc := natAt h 1
      let np := natAt h 2
      if nb > 16 || nc > 128 || np > 32 || natAt h 3 ≠ 0 then none
      else
        match s.devRead wn (va + 16) (8 * (nb + nc + np)) with
        | none => if nb + nc + np = 0 then some ⟨[], [], []⟩ else none
        | some l =>
          let es := (entriesOf 8 l).map fun e => (natAt e 0, natAt e 1)
          let bs := es.take nb
          let cs := (es.drop nb).take nc
          let ps := es.drop (nb + nc)
          if bs.any (fun e => e.1 = 0 || decide (e.1 > crews) || e.2 ≠ 0) ||
            cs.any (fun e => decide (fieldN e.1 0 3 ≥ block) || decide (fieldN e.1 13 8 > 127) || fieldN e.1 21 11 ≠ 0 ||
              e.2 = 0 || decide (e.2 > 256)) ||
            ps.any (fun e => fieldN e.1 8 24 ≠ 0 || fieldN e.2 24 8 ≠ 0)
          then none
          else some ⟨bs.map (·.1), cs.map fun e => (fieldN e.1 0 3, 512 * fieldN e.1 3 10, 512 * (fieldN e.1 13 8 + 1), e.2), ps⟩

/-- The field checks of R333, on the 512 bytes. -/
def descBad (b : List Byte) : Bool :=
  let w := natAt b
  let regs := fieldN (w 6) 0 16
  let uregs := fieldN (w 6) 16 16
  let zero := fun (lo n : Nat) => (List.range n).all fun i => w (lo + i) = 0
  decide (w 0 ≠ 1) || fieldN (w 1) 16 16 ≠ 0 || fieldN (w 1) 0 3 ≠ 0 || fieldN (w 1) 3 2 = 3 || nat64At b 2 % 4096 ≠ 0 ||
    w 4 = 0 || w 4 % 4 ≠ 0 || w 5 % 4 ≠ 0 || decide (w 5 ≥ w 4) ||
    regs = 0 || decide (regs > 256) || regs % 16 ≠ 0 || uregs = 0 || decide (uregs > 256) || uregs % 32 ≠ 0 ||
    decide (w 7 > 65536) || w 7 % 16 ≠ 0 || decide (w 8 > 524288) ||
    fieldN (w 9) 12 20 ≠ 0 || bitN (w 9) 7 || fieldN (w 9) 8 4 = 0 || decide (fieldN (w 9) 8 4 > 8) ||
    fieldN (w 9) 0 7 = 0 || decide (fieldN (w 9) 0 7 > 64) || decide (fieldN (w 9) 0 7 < fieldN (w 9) 8 4) ||
    w 10 = 0 || decide (w 10 > 2 ^ 24) ||
    fieldN (w 11) 21 11 ≠ 0 || bitN (w 11) 15 || bitN (w 11) 7 || decide (fieldN (w 11) 16 5 > 16) ||
    decide (fieldN (w 11) 8 7 > 64) || decide (fieldN (w 11) 0 7 > 64) ||
    (fieldN (w 1) 3 2 ≠ 0 && nat64At b 18 % 32 ≠ 0) || w 20 % 32 ≠ 0 || w 21 ≠ 0 || nat64At b 22 % 64 ≠ 0 ||
    !zero 24 8 || !zero 96 32

/-- Crews a quarter holds at a register count (R15). -/
def crewsPerQuarter (regs : Nat) : Nat := if 256 / regs < 8 then 256 / regs else 8

/-- A block that fits no empty cluster (R43, R110). -/
def tooLarge (regs crews block : Nat) (cbs : List (Nat × Nat × Nat × Nat)) : Bool :=
  decide (((crews + block - 1) / block + 3) / 4 > crewsPerQuarter regs) ||
    (List.range 8).any fun k => decide ((cbs.filter fun c => c.1 == k).length > 16)

/-- A capability requirement met by the list (R169). -/
def capMet (c : Nat × Nat) : Bool :=
  (capWords.drop 1).any fun w => w.toNat / 2 ^ 24 == c.1 && (w.toNat % 2 ^ 24 &&& c.2) == c.2

/-- A launch descriptor, read and checked under check 1 of R335, and its status block when that could be read. -/
def State.readDesc (s : State) (wn va : Nat) : Option LDesc × Option Nat :=
  if va % 64 ≠ 0 then (none, none)
  else
    match s.devRead wn va 512 with
    | none => (none, none)
    | some b =>
      let w := natAt b
      let status := nat64At b 22
      let st := if status % 64 = 0 then some status else none
      let nchan := fieldN (w 11) 8 7
      let nhnd := fieldN (w 11) 16 5
      let table := fun (n size va : Nat) => if n = 0 then some [] else (s.devRead wn va (n * size)).map (entriesOf size)
      if descBad b then (none, st)
      else
        match s.readImage wn (nat64At b 2) (w 4), table nchan 16 (nat64At b 12),
          (table nhnd 16 (nat64At b 14)).bind fun l => allSome (l.map (s.handlerOf wn)),
          s.readDecls wn (nat64At b 16) (fieldN (w 9) 0 7) (fieldN (w 9) 8 4) with
        | some image, some chans, some handlers, some d =>
          (some
            { refage := if fieldN (w 1) 6 10 = 0 then 64 else fieldN (w 1) 6 10
              array := bitN (w 1) 5
              rndmode := fieldN (w 1) 3 2
              image
              entry := BitVec.ofNat 32 (w 5)
              nregs := fieldN (w 6) 0 16
              nuregs := fieldN (w 6) 16 16
              priv := w 7
              scratch := w 8
              block := fieldN (w 9) 8 4
              crews := fieldN (w 9) 0 7
              grid := w 10
              args := (List.range (fieldN (w 11) 0 7)).map fun i => wordAt b (32 + i)
              chans := chans.map chanOf
              handlers
              bars := d.bars
              cbs := d.cbs
              caps := d.caps
              rndring := nat64At b 18
              rndlen := w 20
              status }, st)
        | _, _, _, _ => (none, st)

/-- Checks 2 and 3 of R335. -/
def LDesc.refusal (d : LDesc) : Option Nat :=
  if tooLarge d.nregs d.crews d.block d.cbs then some refBlock
  else if !(d.caps.all capMet) then some refCap
  else none

/-- A launch descriptor read and checked in the order of R335: its contents, or the refusal and the status block to
tell of it when that could be read. -/
def State.readLaunch (s : State) (wn va : Nat) : Except (Nat × Option Nat) LDesc :=
  match s.readDesc wn va with
  | (none, st) => .error (refDesc, st)
  | (some d, st) =>
    match d.refusal with
    | some r => .error (r, st)
    | none => .ok d

/-- The device reads ranges for its own purposes: what translating them leaves (R351). -/
def State.touchAll (s : State) (wn : Nat) (l : List (Nat × Nat)) : State := l.foldl (fun s p => s.devTouch wn p.1 p.2) s

/-- What reading a launch descriptor and the images and tables that it names leaves (R351). -/
def State.touchLaunch (s : State) (wn va : Nat) : State :=
  if va % 64 ≠ 0 then s
  else match s.devRead wn va 512 with
    | none => s.devTouch wn va 512
    | some b =>
      if descBad b then s
      else
        let hnd := 16 * fieldN (natAt b 11) 16 5
        let images := match s.devRead wn (nat64At b 14) hnd with
          | some l => (entriesOf 16 l).map fun e => (nat64At e 0, natAt e 2)
          | none => []
        let decls := if nat64At b 16 = 0 then [] else match s.devRead wn (nat64At b 16) 16 with
          | some h => [(nat64At b 16, 16 + 8 * (natAt h 0 + natAt h 1 + natAt h 2))]
          | none => [(nat64At b 16, 16)]
        s.touchAll wn ((nat64At b 2, natAt b 4) :: (nat64At b 12, 16 * fieldN (natAt b 11) 8 7) :: (nat64At b 14, hnd) ::
          images ++ decls)

/-- The next handle of a world (R339): from 1, skipping 0. -/
def State.newHandle (s : State) (wn : Nat) : Word × State :=
  match s.world wn with
  | none => (0, s)
  | some w =>
    (w.nextHandle, s.onWorld wn fun w => { w with nextHandle := if w.nextHandle + 1 = 0 then 1 else w.nextHandle + 1 })

def World.kickPage (w : World) (q : Nat) : KickPage := tabGet w.kicks KickPage.init q

def State.onKick (s : State) (wn q : Nat) (f : KickPage → KickPage) : State :=
  s.onWorld wn fun w => { w with kicks := tabPut w.kicks KickPage.init q (f (w.kickPage q)) }

/-- A launch is accepted: its handle, its record, its status block with STATE QUEUED (R332). `when` and `sub` are the
device time and the place of its submission (R339, R343). -/
def State.acceptLaunch (s : State) (wn q : Nat) (d : LDesc) (when' sub : Nat) (f : Launch → Launch) : Word × State :=
  let (h, s) := s.newHandle wn
  let (n, s) := s.fresh
  let prio := match s.world wn with
    | some w => (w.kickPage q).prio
    | none => 0
  let l : Launch := f { Launch.init h wn q d with
    prio := prio
    eff := prio
    order := n
    sub
    phaseNo := (s.world wn).elim 0 World.phaseNow
    times := [when', 0, 0] }
  (h, ({ s with launches := l :: s.launches }).putStatus wn h)

/-- TAIL of a queue moves: a kick, whose time and place in the order of submission its entries keep (R331, R339, R343). -/
def State.noteKick (s : State) (wn q : Nat) (tail : Word) : State :=
  let s := s.sampleTime
  let (n, s) := s.fresh
  s.onKick wn q fun k => { k with
    tail
    kicks := (k.kicks.filter fun x => decide ((x.1 - k.head).toNat < (tail - k.head).toNat)) ++ [(tail, s.plat.devtime.toNat, n)] }

/-- Device time and place of the kick that submitted the head entry. -/
def KickPage.submission (k : KickPage) : Nat × Nat :=
  match k.kicks with
  | (_, t, n) :: _ => (t, n)
  | [] => (0, 0)

/-- The head entry of a queue is taken. -/
def KickPage.taken (k : KickPage) : KickPage :=
  { k with
    head := k.head + 1
    kicks := k.kicks.filter fun x => x.1 != k.head + 1 }

/-- A descriptor submitted to a queue as `lnch` submits it (R332): the handle, or the reason of the refusal. -/
def State.submit (s : State) (wn q va : Nat) (roost : Option Nat) : State × Except Nat Word :=
  match s.world wn, s.readLaunch wn va with
  | none, _ => (s, .error refDesc)
  | some _, .error (r, _) => (s.touchLaunch wn va, .error r)
  | some w, .ok d =>
    let s := s.touchLaunch wn va
    let k := w.kickPage q
    if (k.tail - k.head).toNat ≥ 2 ^ k.logDepth then (s, .error refFull)
    else
      let s := s.noteKick wn q (k.tail + 1)
      let (n, s) := s.fresh
      let (h, s) := s.acceptLaunch wn q d s.plat.devtime.toNat n fun l => { l with taken := false, roost }
      let s := s.onKick wn q fun k' => { k' with heldEntries := k'.heldEntries ++ [(k.tail, h)] }
      (s.arm (.queueEntryTake wn q), .ok h)

end Sys2Proof.Machine
end

