-- ==== Sys2Proof/Machine/Matrix.lean ====
section
/-! DEFINITION. The matrix array: its commands at issue and at performance (R233 to R252, R306). -/

namespace Sys2Proof.Machine

/-! ## Shapes and formats -/

/-- Fields of a shape word (R235). -/
def shapeM (w : Word) : Nat := fieldN w.toNat 22 10
def shapeK (w : Word) : Nat := fieldN w.toNat 13 9
def shapeN (w : Word) : Nat := fieldN w.toNat 4 9

/-- Element width of an array format, and whether it is an integer one (R236). -/
def arrayFmt (code : Nat) : Option (Nat × Bool) :=
  match code with
  | 1 | 2 => some (16, false)
  | 3 | 4 => some (8, false)
  | 5 => some (4, false)
  | 11 => some (8, true)
  | 13 => some (4, true)
  | _ => none

/-- Formats that may carry scales. -/
def scaleOk (code : Nat) : Bool := code == 3 || code == 4 || code == 5

/-- Greatest K of a width (R235). -/
def kMax (w : Nat) : Nat := 1024 / w

/-- An A format pairs with a plane format (R236). -/
def fmtPairs (a p : Nat) : Bool := a == p || ((a == 3 || a == 4) && (p == 3 || p == 4))

def ceilDiv (a b : Nat) : Nat := (a + b - 1) / b

/-- Fields of a descriptor's first word (R237, R238). -/
def descSC (w : Word) : Bool := w.getLsbD 30
def descFmt (w : Word) : Nat := fieldN w.toNat 26 4
def descSW (w : Word) : Nat := fieldN w.toNat 22 3
def descAddr (w : Word) : Nat := fieldN w.toNat 0 22
def descStride (w : Word) : Nat := fieldN w.toNat 0 16

/-- Where a command is checked: its block, the block-relative and the device number of its core, its launch, and the
ILL its operand values raise. -/
structure MSite where
  unit : BUnit
  core : Nat
  phys : Nat
  launch : Word
  ill : Trap

/-- The site of a crew's command. -/
def State.crewSite (s : State) (e : Env) (c : Crew) : Option MSite :=
  (s.unit c.unit).map fun u => ⟨u, c.idx % u.cores.length, c.core, c.launch, e.ill .operand⟩

/-- Rows of a footprint: first address and length. -/
abbrev Rows := List (Nat × Nat)

/-- Checks 3 to 5 of R234 on base addresses and rows. Check 3 looks at the CORE of every row's first address, not of each of
its bytes, and takes a row that starts at 2^22 or above to have the CORE a / 2^19, which no crew has (log entry 24, DESIGN CHOICE). -/
def MSite.rowsTrap (x : MSite) (bases : List Nat) (rows : Rows) (acc : Nat) : Option Trap :=
  if (bases ++ rows.map (·.1)).any fun a => a / 2 ^ 19 ≠ x.core then some x.ill
  else match bases.find? fun a => a % 16 ≠ 0 with
    | some a => some (alignTrap a 1 acc 16)
    | none => (rows.find? fun r => spadBad x.unit.cores.length x.unit.alloc r.1 r.2).map fun r => permTrap 4 r.1 1 acc 16

/-- Claims of rows. -/
def rowClaims (uid m : Nat) (rows : Rows) (acc : Acc) : List Claim := rows.flatMap fun r => spadClaims uid m r.1 r.2 acc

/-- A quarter of the site's core has its array bound to the launch (R62). -/
def State.siteBound (s : State) (x : MSite) (q : Nat) : Bool := (s.quarter (quarterNo x.phys q)).bound == some x.launch

/-! ## mld.st -/

/-- Rows that mld.st reads (R238, R240). -/
def mldRows (shape w0 w1 w2 : Word) : Rows :=
  let w := ((arrayFmt (descFmt w0)).getD (8, false)).1
  let k := shapeK shape
  let n := shapeN shape
  ((List.range k).map fun i => (descAddr w0 + i * descStride w1, ceilDiv (n * w) 8)) ++
    (if descSC w0 then (List.range (ceilDiv k 16)).map fun b => (descAddr w2 + 64 * b, n) else [])

/-- The value checks of mld.st (R234, R235, R238, R240). A SADDR that is no multiple of 16 is a base address of check 4,
MISALIGN, not a field of check 1 (log entry 24, DESIGN CHOICE). -/
def State.mldTrap (s : State) (x : MSite) (q : Nat) (shape w0 w1 w2 : Word) : Option Trap :=
  match arrayFmt (descFmt w0) with
  | none => some x.ill
  | some (w, _) =>
    let k := shapeK shape
    let n := shapeN shape
    let bad := decide (fieldN shape.toNat 0 4 ≠ 0) || decide (k = 0) || decide (k > kMax w) || decide (n = 0) ||
      decide (n > 64) || w0.getLsbD 31 || w0.getLsbD 25 || (descSC w0 && !scaleOk (descFmt w0)) ||
      decide (fieldN w1.toNat 16 16 ≠ 0) || decide (descStride w1 % 16 ≠ 0) ||
      decide (descStride w1 < ceilDiv (n * w) 8) || (descSC w0 && decide (fieldN w2.toNat 22 10 ≠ 0))
    if bad || !s.siteBound x q then some x.ill
    else x.rowsTrap (descAddr w0 :: if descSC w0 then [descAddr w2] else []) (mldRows shape w0 w1 w2) 0

/-- The record of the shadow plane once mld.st has issued (R239). -/
def mldRecord (id : Nat) (shape w0 w1 w2 unums : Word) : Plane where
  st := .loading
  fmt := descFmt w0
  sc := descSC w0
  k := shapeK shape
  n := shapeN shape
  shape := shape
  w0 := w0
  w1 := w1
  w2 := w2
  unums := unums
  cmd := id

/-- Element `i` of width `w` of packed bytes (R80). -/
def elemBytes (w : Nat) (l : List Byte) (i : Nat) : Nat := fieldN (leNat l) (w * i) w

/-- A plane's contents read from the scratchpad (R238). -/
def BUnit.loadPlane (u : BUnit) (shape w0 w1 w2 : Word) : PlaneData :=
  let w := ((arrayFmt (descFmt w0)).getD (8, false)).1
  let n := shapeN shape
  let m := descSW w0
  let nz := fun (k v : Nat) => if v = 0 then none else some (k, v)
  { elems := ((List.range (shapeK shape)).flatMap fun k =>
      let row := u.readSpad m (descAddr w0 + k * descStride w1) (ceilDiv (n * w) 8)
      (List.range n).filterMap fun j => nz (64 * k + j) (elemBytes w row j)).map fun p => (p.1, BitVec.ofNat 16 p.2)
    scales := if descSC w0 then
        ((List.range (ceilDiv (shapeK shape) 16)).flatMap fun b =>
          let row := u.readSpad m (descAddr w2 + 64 * b) n
          (List.range n).filterMap fun j => nz (64 * b + j) (elemBytes 8 row j)).map fun p => (p.1, BitVec.ofNat 8 p.2)
      else []
    fmt := descFmt w0
    sc := descSC w0 }

/-! ## mma -/

/-- Columns that spanned quarter `j` computes (R241). -/
def colsOf (n j : Nat) : Nat := if n - 64 * j < 64 then n - 64 * j else 64

/-- Bytes of a row of A: data, offset of its scales, footprint (R237). -/
def rowData (shape w0 : Word) : Nat := ceilDiv (shapeK shape * ((arrayFmt (descFmt w0)).getD (8, false)).1) 8
def rowScale (shape w0 : Word) : Nat := ceilDiv (rowData shape w0) 16 * 16
def rowFoot (shape w0 : Word) : Nat :=
  if descSC w0 then rowScale shape w0 + ceilDiv (shapeK shape) 16 else rowData shape w0

def mmaRows (shape w0 w1 : Word) : Rows :=
  (List.range (shapeM shape)).map fun i => (descAddr w0 + i * descStride w1, rowFoot shape w0)

/-- The active record of a spanned quarter serves an mma (R234 check 2, R236, R240). -/
def Plane.serves (p : Plane) (fmt : Nat) (sc : Bool) (k cols : Nat) : Bool :=
  p.st != .empty && fmtPairs fmt p.fmt && p.sc == sc && decide (k ≤ p.k) && decide (cols ≤ p.n)

/-- Check 2 of R234 for an mma from quarter `q0`: bindings, and the plane records when `planes`. -/
def State.mmaBound (s : State) (x : MSite) (q0 : Nat) (planes : Bool) (shape w0 : Word) : Bool :=
  (List.range (ceilDiv (shapeN shape) 64)).all fun j =>
    s.siteBound x (q0 + j) && (!planes ||
      (s.quarter (quarterNo x.phys (q0 + j))).active.serves (descFmt w0) (descSC w0) (shapeK shape)
        (colsOf (shapeN shape) j))

/-- The value checks of mma (R234 to R237). -/
def State.mmaTrap (s : State) (x : MSite) (q0 : Nat) (planes : Bool) (tile : Nat) (shape w0 w1 : Word) : Option Trap :=
  match arrayFmt (descFmt w0) with
  | none => some x.ill
  | some (w, _) =>
    let m := shapeM shape
    let k := shapeK shape
    let n := shapeN shape
    let bad := decide (fieldN shape.toNat 0 4 ≠ 0) || decide (m = 0) || decide (m > 512) || decide (k = 0) ||
      decide (k > kMax w) || decide (n = 0) || decide (n > 64 * (4 - q0)) || decide (64 * tile + m > 512) ||
      w0.getLsbD 31 || w0.getLsbD 25 || (descSC w0 && !scaleOk (descFmt w0)) ||
      decide (fieldN w1.toNat 16 16 ≠ 0) || decide (descStride w1 % 16 ≠ 0) ||
      decide (descStride w1 < rowFoot shape w0)
    if bad || !s.mmaBound x q0 planes shape w0 then some x.ill
    else x.rowsTrap [descAddr w0] (mmaRows shape w0 w1) 0

/-! ## Accumulators -/

/-- The 32 bits of an accumulator element; a row in error reads 0x7FC0_0000 until it is cleared (R250). Columns that the
clearing mma.z does not write read as they did before the error (log entry 24, DESIGN CHOICE). -/
def Quarter.accAt (q : Quarter) (row col : Nat) : Word :=
  if (tabGet q.rowst 0 row).getLsbD 8 then 0x7FC00000 else tabGet q.acc 0 (64 * row + col)

def Quarter.putAcc (q : Quarter) (row col : Nat) (v : Word) : Quarter := { q with acc := tabPut q.acc 0 (64 * row + col) v }

/-- Raises bits in a row's status (R249). -/
def Quarter.flagRow (q : Quarter) (row : Nat) (f : Flags) : Quarter :=
  { q with rowst := tabPut q.rowst 0 row (tabGet q.rowst 0 row ||| f.setWidth 32) }

/-- A row set to +0 with its status cleared. -/
def Quarter.clearRow (q : Quarter) (row : Nat) : Quarter :=
  { q with
    acc := q.acc.filter fun p => p.1 / 64 ≠ row
    rowst := tabPut q.rowst 0 row 0 }

/-- One element of an mma (R241): the old value, the row of A and its scales, and the column of the plane. -/
def mmaElem (fa : Nat) (pd : PlaneData) (k : Nat) (old : Word) (row scales : List Byte) (n : Nat) :
    Word × Flags :=
  let w := ((arrayFmt fa).getD (8, false)).1
  let a := fun i => elemBytes w row i
  let b := fun i => (tabGet pd.elems 0 (64 * i + n)).toNat
  match intFmt fa with
  | some (wi, _) =>
    let r := intDot old.toNat ((List.range k).map fun i => intOf wi true (a i) * intOf wi true (b i))
    (BitVec.ofNat 32 r.1, r.2)
  | none =>
    let fA := (floatFmt fa).getD fmtF8a
    let fW := (floatFmt pd.fmt).getD fmtF8a
    let r := floatDot fA fW old.toNat ((List.range k).map fun i => (a i, b i,
      if pd.sc then some ((scales.getD (i / 16) 0).toNat, (tabGet pd.scales 0 (64 * (i / 16) + n)).toNat) else none))
    (BitVec.ofNat 32 r.1, r.2)

/-- One row of an mma on one quarter. -/
def Quarter.mmaRow (q : Quarter) (fa : Nat) (z : Bool) (k cols row : Nat) (data scales : List Byte) : Quarter :=
  let q := if z then { q with rowst := tabPut q.rowst 0 row 0 } else q
  (List.range cols).foldl (fun (q' : Quarter) n =>
    let r := mmaElem fa q.activeD k (if z then 0 else q.accAt row n) data scales n
    (q'.putAcc row n r.1).flagRow row r.2) q

/-- A whole mma on its quarters (R241). -/
def State.runMma (s : State) (m : MCmd) : State :=
  match s.unit m.unit with
  | none => s
  | some u =>
    let fa := descFmt m.w0
    let sw := descSW m.w0
    let rows : List (List Byte × List Byte) := (List.range (shapeM m.shape)).map fun i =>
      let a := descAddr m.w0 + i * descStride m.w1
      (u.readSpad sw a (rowData m.shape m.w0),
        if descSC m.w0 then u.readSpad sw (a + rowScale m.shape m.w0) (ceilDiv (shapeK m.shape) 16) else [])
    (List.range m.nq).foldl (fun s j =>
      s.onQuarter (m.q0 + j) fun q => (rows.zipIdx).foldl (fun (q : Quarter) p =>
        q.mmaRow fa m.flag (shapeK m.shape) (colsOf (shapeN m.shape) j) (64 * m.tile + p.2) p.1.1 p.1.2) q) s

/-! ## mst and macc.rd -/

/-- Fields of a conversion word (R246, R247). -/
def convRnd (w : Word) : Nat := fieldN w.toNat 30 2
def convFmt (w : Word) : Nat := fieldN w.toNat 26 4
def convInt (w : Word) : Bool := w.getLsbD 25
def convOk (w : Word) : Bool := convFmt w != 6 && convFmt w != 15

def mstRows (shape w0 w1 : Word) : Rows :=
  (List.range (shapeM shape)).map fun i =>
    (descAddr w0 + i * descStride w1, ceilDiv (shapeN shape * fmtWidth (convFmt w0)) 8)

/-- The value checks of mst (R234, R235, R247). -/
def State.mstTrap (s : State) (x : MSite) (q0 tile : Nat) (shape w0 w1 : Word) : Option Trap :=
  let m := shapeM shape
  let n := shapeN shape
  let bad := decide (fieldN shape.toNat 0 4 ≠ 0) || decide (m = 0) || decide (m > 512) || decide (n = 0) ||
    decide (n > 64 * (4 - q0)) || decide (64 * tile + m > 512) || !convOk w0 || decide (fieldN w1.toNat 24 8 ≠ 0) ||
    decide (descStride w1 % 16 ≠ 0) || decide (descStride w1 < ceilDiv (n * fmtWidth (convFmt w0)) 8)
  if bad || !((List.range (ceilDiv n 64)).all fun j => s.siteBound x (q0 + j)) then some x.ill
  else x.rowsTrap [descAddr w0] (mstRows shape w0 w1) 1

/-- One row of an mst: its converted elements over the spanned quarters, with the flags of each quarter's part
(R245, R247). -/
def State.mstRow (s : State) (m : MCmd) (row : Nat) : List FR :=
  (List.range (shapeN m.shape)).map fun c =>
    accConvert (convInt m.w0) (fieldN m.w1.toNat 16 8) (convFmt m.w0) (convRnd m.w0)
      ((s.quarter (m.q0 + c / 64)).accAt row (c % 64))

/-- Elements of width `w` as packed bytes (R80). -/
def packBytes (w : Nat) (l : List Nat) : List Byte :=
  leBytes (ceilDiv (l.length * w) 8) (l.foldr (fun e n => e % 2 ^ w + 2 ^ w * n) 0)

/-- A whole mst (R247). -/
def State.runMst (s : State) (m : MCmd) : State :=
  (List.range (shapeM m.shape)).foldl (fun s i =>
    let row := 64 * m.tile + i
    let vals := s.mstRow m row
    let s := s.spadWrite m.unit (descSW m.w0) (descAddr m.w0 + i * descStride m.w1)
      (packBytes (fmtWidth (convFmt m.w0)) (vals.map (·.1)))
    (List.range m.nq).foldl (fun s j =>
      s.onQuarter (m.q0 + j) fun q =>
        let q := q.flagRow row (orFlags (((vals.drop (64 * j)).take 64).map (·.2)))
        if m.flag then q.clearRow row else q) s) s

/-- Coordinates (R246). -/
def coordCol (w : Word) : Nat := fieldN w.toNat 16 6
def coordRow (w : Word) : Nat := fieldN w.toNat 0 9
def coordBad (w : Word) : Bool := decide (fieldN w.toNat 22 10 ≠ 0) || decide (fieldN w.toNat 9 7 ≠ 0)

/-- The word and flags that macc.rd delivers. -/
def Quarter.maccRd (q : Quarter) (coord conv : Word) : Word × Flags :=
  let w := fmtWidth (convFmt conv)
  let rs := (List.range (32 / w)).map fun i =>
    accConvert (convInt conv) (fieldN conv.toNat 0 8) (convFmt conv) (convRnd conv)
      (q.accAt (coordRow coord) (coordCol coord + i))
  (packElems w (rs.map (·.1)), orFlags (rs.map (·.2)))

/-! ## Issue (R234, R244) -/

/-- An issue-set command: the lowest acting thread issues it for the set, or every acting thread takes its trap. -/
def execSetCmd (f : Form) (s : State) (body : Env → Crew → Thread → State → Except Trap State) : Out :=
  issue { f with drip := false } s fun e k0 c s =>
    let fin := fun (s : State) (tr : Option Trap) => s.onCrew e.uid fun c => c.onThreads (sel k0) fun t =>
      match tr with
      | some tr => if e.guardTrue t then t.raise tr else { t with pc := e.next t }
      | none => { t with pc := e.next t }
    match c.threads.find? fun t => sel k0 t && e.guardTrue t with
    | none => fin s none
    | some t =>
      match opCheck e { f with drip := false } c t with
      | some tr => fin s (some tr)
      | none =>
        match body e c t s with
        | .error tr => fin s (some tr)
        | .ok s => fin s none

/-- Issue is a synchronisation operation and a release at device scope; then the claims are taken (R127, R138). -/
def State.issueCmd (s : State) (m : MCmd) : Except Trap (Nat × State) :=
  let s := (s.drainLane m.crew m.lane).syncRel m.crew scopeDevice
  match s.claimsConflict (s.sharesOrder m.quarters) m.claims with
  | some tr => .error tr
  | none =>
    let (id, s) := s.fresh
    .ok (id, s.enterOrder { m with id := id })

/-- A matrix command of a crew with nothing filled in. -/
def blankCmd (e : Env) (c : Crew) (t : Thread) (k : MKind) (q nq : Nat) : MCmd :=
  ⟨0, c.unit, c.uid, t.lane, e.pcI t, k, quarterNo c.core q, nq, 0, 0, 0, 0, false, 0, 0, 0, 0, [], none⟩

/-- Loads the record of a quarter's shadow plane at issue. -/
def State.mldIssued (s : State) (q id : Nat) (shape w0 w1 w2 unums : Word) : State :=
  s.onQuarter q fun x => { x with shadow := mldRecord id shape w0 w1 w2 unums }

/-- MLD_ST (R240). Issues a load of a quarter's shadow plane. -/
def execMldSt (sw : Bool) (n : BitVec 2) (a b : BitVec 7) (s : State) : Out :=
  let sc := match s.crew s.iss.crew with
    | some c => descSC (c.s b.toNat)
    | none => false
  execSetCmd { word := (encRRR sw 49#6 0#4 (0#5 ++ n) a b), sw := sw, ops := [aS a 1, bS b (if sc then 3 else 2)] } s fun e c t s =>
    match s.crewSite e c with
    | none => .ok s
    | some x =>
      let shape := c.s a.toNat
      let w0 := c.s b.toNat
      let w1 := c.s (b.toNat + 1)
      let w2 := if sc then c.s (b.toNat + 2) else 0
      match s.mldTrap x n.toNat shape w0 w1 w2 with
      | some tr => .error tr
      | none =>
        let m : MCmd := { blankCmd e c t .mldst n.toNat 1 with
          shape := shape
          w0 := w0
          w1 := w1
          w2 := w2
          claims := rowClaims c.unit (descSW w0) (mldRows shape w0 w1 w2) .read }
        match s.issueCmd m with
        | .error tr => .error tr
        | .ok (id, s) => .ok (s.mldIssued m.q0 id shape w0 w1 w2 (BitVec.ofNat 32
            (a.toNat + b.toNat * 2 ^ 8 + (b.toNat + 1) * 2 ^ 16 + (if sc then b.toNat + 2 else 255) * 2 ^ 24)))

/-- MSWAP (R240). Issues an exchange of a quarter's planes. -/
def execMswap (sw : Bool) (n : BitVec 2) (s : State) : Out :=
  execSetCmd { word := (encRRR sw 49#6 1#4 (0#5 ++ n) 0#7 0#7), sw := sw, ops := [] } s fun e c t s =>
    match s.crewSite e c with
    | none => .ok s
    | some x =>
      if !s.siteBound x n.toNat then .error x.ill
      else
        let m := blankCmd e c t .mswap n.toNat 1
        match s.issueCmd m with
        | .error tr => .error tr
        | .ok (_, s) => .ok (s.onQuarter m.q0 fun q => { q with
            active := q.shadow
            shadow := q.active })

/-- MMA (R241). Issues a matrix multiply-accumulate into a tile. -/
def execMma (sw z : Bool) (t : BitVec 3) (a b : BitVec 7) (s : State) : Out :=
  execSetCmd { word := (encRRR sw 49#6 2#4 (0#3 ++ BitVec.ofBool z ++ t) a b), sw := sw, ops := [aS a 1, bS b 2] } s fun e c tr0 s =>
    match s.crewSite e c with
    | none => .ok s
    | some x =>
      let shape := c.s a.toNat
      let w0 := c.s b.toNat
      let w1 := c.s (b.toNat + 1)
      match s.mmaTrap x c.quarter true t.toNat shape w0 w1 with
      | some tr => .error tr
      | none =>
        match s.issueCmd { blankCmd e c tr0 .mma c.quarter (ceilDiv (shapeN shape) 64) with
          shape := shape
          w0 := w0
          w1 := w1
          flag := z
          tile := t.toNat
          claims := rowClaims c.unit (descSW w0) (mmaRows shape w0 w1) .read } with
        | .error tr => .error tr
        | .ok (_, s) => .ok s

/-- MACC_RD (R246). Reads converted accumulator elements into a thread register. -/
def execMaccRd (sw : Bool) (d a b : BitVec 7) (s : State) : Out :=
  execLanes { word := (encRRR sw 49#6 3#4 d a b), sw := sw, ops := [dX d 1, aX a 1, bS b 1], drip := false } s fun e c t s =>
    let coord := t.x a.toNat
    let conv := c.s b.toNat
    if !s.arrayBound c (quarterNo c.core c.quarter) || coordBad coord || !convOk conv ||
        decide (fieldN conv.toNat 8 17 ≠ 0) || decide (coordCol coord + 32 / fmtWidth (convFmt conv) > 64) then
      (s, .trap (e.ill .operand))
    else
      let m : MCmd := { blankCmd e c t .maccrd c.quarter 1 with
        w0 := conv
        dest := t.wb + d.toNat
        coord := coord }
      match s.issueCmd m with
      | .error tr => (s, .trap tr)
      | .ok (_, s) => (s.onLane c.uid t.lane fun t => { t with pendX := pendAll t.pendX [t.wb + d.toNat] (e.pcI t) }, .done)

/-- MST (R247). Issues a converted store of accumulator rows to scratchpad. -/
def execMst (sw k : Bool) (t : BitVec 3) (a b : BitVec 7) (s : State) : Out :=
  execSetCmd { word := (encRRR sw 49#6 4#4 (0#3 ++ BitVec.ofBool k ++ t) a b), sw := sw, ops := [aS a 1, bS b 2] } s fun e c tr0 s =>
    match s.crewSite e c with
    | none => .ok s
    | some x =>
      let shape := c.s a.toNat
      let w0 := c.s b.toNat
      let w1 := c.s (b.toNat + 1)
      match s.mstTrap x c.quarter t.toNat shape w0 w1 with
      | some tr => .error tr
      | none =>
        match s.issueCmd { blankCmd e c tr0 .mst c.quarter (ceilDiv (shapeN shape) 64) with
          shape := shape
          w0 := w0
          w1 := w1
          flag := k
          tile := t.toNat
          claims := rowClaims c.unit (descSW w0) (mstRows shape w0 w1) .write } with
        | .error tr => .error tr
        | .ok (_, s) => .ok s

/-- MACC_CLR (R248). Issues a clear of accumulator tiles and their status. -/
def execMaccClr (sw : Bool) (t : BitVec 3) (n : BitVec 4) (s : State) : Out :=
  execSetCmd { word := (encRRR sw 49#6 5#4 (0#4 ++ t) 0#7 (0#3 ++ n)), sw := sw, ops := [] } s fun e c tr0 s =>
    match s.crewSite e c with
    | none => .ok s
    | some x =>
      if n.toNat = 0 || t.toNat + n.toNat > 8 || !s.siteBound x c.quarter then .error x.ill
      else
        match s.issueCmd { blankCmd e c tr0 .maccclr c.quarter 1 with
          tile := t.toNat
          n := n.toNat } with
        | .error tr => .error tr
        | .ok (_, s) => .ok s

/-- MSTAT (R249). Reads a row status word, acquiring earlier matrix completions. -/
def execMstat (sw : Bool) (d a : BitVec 7) (s : State) : Out :=
  execLanes { word := (encRRR sw 49#6 6#4 d a 0#7), sw := sw, ops := [dX d 1, aX a 1], drip := false } s fun e c t s =>
    let coord := t.x a.toNat
    if !s.arrayBound c (quarterNo c.core c.quarter) || coordBad coord || decide (coordCol coord ≠ 0) then
      (s, .trap (e.ill .operand))
    else
      let m : MCmd := { blankCmd e c t .mstat c.quarter 1 with
        dest := t.wb + d.toNat
        coord := coord }
      match s.issueCmd m with
      | .error tr => (s, .trap tr)
      | .ok (_, s) => (s.onLane c.uid t.lane fun t => { t with pendX := pendAll t.pendX [t.wb + d.toNat] (e.pcI t) }, .done)

/-! ## Performance -/

/-- The first command of a quarter's order when it is of kind `k` and every quarter it spans has reached it. -/
def State.due (s : State) (q : Nat) (k : MKind) : Option MCmd :=
  match s.headCmd q with
  | some m => if m.kind == k && s.cmdReady m then some m else none
  | none => none

/-- A command has completed; one that follows a copy completes that copy (R267). -/
def State.completed (s : State) (m : MCmd) : State :=
  let s := s.leaveOrder m
  match m.follow with
  | some id => match s.entry id with
    | some e => s.finishEntry id stDone 0 0 e.bytes 0
    | none => s
  | none => s

/-- What a plane load leaves: contents in the shadow plane, and its record READY wherever a later mswap has moved it
(R239, R240). -/
def State.runMld (s : State) (m : MCmd) : State :=
  match s.unit m.unit with
  | none => s
  | some u => s.onQuarter m.q0 fun q => { q with
      shadowD := u.loadPlane m.shape m.w0 m.w1 m.w2
      shadow := if q.shadow.cmd = m.id then { q.shadow with st := .ready } else q.shadow
      active := if q.active.cmd = m.id then { q.active with st := .ready } else q.active }

/-- The contents of a quarter's planes are exchanged. -/
def State.runMswap (s : State) (m : MCmd) : State :=
  s.onQuarter m.q0 fun q => { q with
    activeD := q.shadowD
    shadowD := q.activeD }

/-- Tiles cleared (R248). -/
def State.runClr (s : State) (m : MCmd) : State :=
  s.onQuarter m.q0 fun q => (List.range (64 * m.n)).foldl (fun (q : Quarter) i => q.clearRow (64 * m.tile + i)) q

/-- The value of a macc.rd lands with its flags (R246). -/
def State.runRd (s : State) (m : MCmd) : State :=
  let r := (s.quarter m.q0).maccRd m.coord m.w0
  s.onLane m.crew m.lane fun t => (t.deliver [(m.dest, r.1)]).flag (if t.live then r.2 else 0)

/-- The status of an mstat lands (R249). -/
def State.runStat (s : State) (m : MCmd) : State :=
  let v := tabGet (s.quarter m.q0).rowst 0 (coordRow m.coord)
  s.onLane m.crew m.lane fun t => t.deliver [(m.dest, v)]

/-- A thread blocked in a write of `%accdat` or `%accstat` continues. -/
def Thread.passAcc (t : Thread) : Thread :=
  match t.st with
  | .blocked .accWrite next => t.resumeAt next
  | _ => t

/-- A write of `%accdat`: the element at `%accpos`, whose column then advances (R306). -/
def State.runAccdat (s : State) (m : MCmd) : State :=
  match (s.crew m.crew).bind (·.thread m.lane) with
  | none => s
  | some t =>
    let col := coordCol t.accpos
    let row := coordRow t.accpos
    let next : Nat := if col = 63 then (row + 1) % 512 else (col + 1) * 2 ^ 16 + row
    (s.onQuarter m.q0 fun q => q.putAcc row col m.w0).onLane m.crew m.lane fun t =>
      { t.passAcc with accpos := BitVec.ofNat 32 next }

/-- A write of `%accstat`: the status of the row at `%accpos` (R306). -/
def State.runAccstat (s : State) (m : MCmd) : State :=
  match (s.crew m.crew).bind (·.thread m.lane) with
  | none => s
  | some t =>
    (s.onQuarter m.q0 fun q => { q with rowst := tabPut q.rowst 0 (coordRow t.accpos) (m.w0 &&& 0x137) }).onLane
      m.crew m.lane Thread.passAcc

/-- One command is performed and completes. -/
def State.performCmd (s : State) (m : MCmd) : State :=
  match m.kind with
  | .mldst => (s.runMld m).completed m
  | .mswap => (s.runMswap m).completed m
  | .mma => (s.runMma m).completed m
  | .mst => (s.runMst m).completed m
  | .maccclr => (s.runClr m).completed m
  | .maccrd => ((s.runRd m).completed m).settle m.crew
  | .mstat => ((s.runStat m).completed m).settle m.crew
  | .accdat => ((s.runAccdat m).completed m).settle m.crew
  | .accstat => ((s.runAccstat m).completed m).settle m.crew
  | .plrec => s.completed m

/-- The step that performs the first command of a quarter's order, when it is of the kind named (R243). -/
def performDue (s : State) (q : Nat) (k : MKind) : Out :=
  match s.due q k with
  | some m => .next (s.performCmd m)
  | none => .next s

/-- MLD_ST_PERFORM (R240). A shadow-plane load is performed; shadow becomes READY. -/
def execMldStPerform (qtr : Nat) (s : State) : Out := performDue s qtr .mldst

/-- MSWAP_PERFORM (R240). The planes of a quarter are exchanged. -/
def execMswapPerform (qtr : Nat) (s : State) : Out := performDue s qtr .mswap

/-- MMA_PERFORM (R241). A matrix multiply is performed and completes. -/
def execMmaPerform (qtr : Nat) (s : State) : Out := performDue s qtr .mma

/-- MST_PERFORM (R247). An accumulator store to scratchpad is performed. -/
def execMstPerform (qtr : Nat) (s : State) : Out := performDue s qtr .mst

/-- MACC_CLR_PERFORM (R248). Accumulator tiles are cleared. -/
def execMaccClrPerform (qtr : Nat) (s : State) : Out := performDue s qtr .maccclr

/-- MACC_RD_LAND (R246). macc.rd result lands and acquires earlier matrix completions. -/
def execMaccRdLand (qtr : Nat) (s : State) : Out := performDue s qtr .maccrd

/-- MSTAT_LAND (R249). mstat result lands with an acquire. -/
def execMstatLand (qtr : Nat) (s : State) : Out := performDue s qtr .mstat

/-- The quarter of a crew. -/
def State.quarterOf (s : State) (uid : Nat) : Nat :=
  match s.crew uid with
  | some c => quarterNo c.core c.quarter
  | none => 0

/-- The step of a privileged write of the array, when it is the first of its quarter's order. -/
def performAcc (s : State) (uid lane : Nat) (v : Word) (k : MKind) : Out :=
  match s.due (s.quarterOf uid) k with
  | some m => if m.crew = uid && m.lane = lane && m.w0 = v then .next (s.performCmd m) else .next s
  | none => .next s

/-- ACCDAT_WRITE (R306). Writes an accumulator element at %accpos and advances COL. -/
def execAccdatWrite (crew lane : Nat) (value : Word) (s : State) : Out := performAcc s crew lane value .accdat

/-- ACCSTAT_WRITE (R306). Writes a row status word at %accpos. -/
def execAccstatWrite (crew lane : Nat) (value : Word) (s : State) : Out := performAcc s crew lane value .accstat

/-- The ENGINE_FAULT that an array error raises: sequence number and issuing PC of the command that met it (R250). The rule
gives neither the record's STATUS and FAULT, here MEM_ERROR and 0, nor what a matrix command's sequence number is, here the
number of the command among the model's objects (log entry 24, DESIGN CHOICE). -/
def arrayFault (m : MCmd) : Trap :=
  ⟨.engineFault, stMemError, tabPut (tabPut (tabPut [] 0 8 (BitVec.ofNat 32 stMemError)) 0 9 (BitVec.ofNat 32 m.id)) 0 10 m.pc⟩

/-- Whether the planes' contents have still to follow an exchange of their records: mswaps that have issued and are not
performed are odd in number (R239, R240). -/
def State.planesCrossed (s : State) (q : Nat) : Bool :=
  (s.mcmds.filter fun m => m.kind == .mswap && m.q0 == q).length % 2 == 1

/-- The contents of one plane are lost, and the record that stands for them becomes EMPTY (R250). -/
def Quarter.losePlane (x : Quarter) (shadow crossed : Bool) : Quarter :=
  let x : Quarter := if shadow then { x with shadowD := PlaneData.init } else { x with activeD := PlaneData.init }
  if shadow != crossed then { x with shadow := Plane.init } else { x with active := Plane.init }

/-- A command that met an uncorrectable error has no other effect (R250): one that computes, moves or clears leaves its
order, and the record of a plane that it was loading is EMPTY. A read still lands what the row now reads as, a blocked
write of the array ends, and an exchange of planes stands. -/
def State.dropFaulted (s : State) (m : MCmd) : State :=
  match m.kind with
  | .mma | .mst | .maccclr => s.completed m
  | .mldst => (s.onQuarter m.q0 fun q => { q with
      shadow := if q.shadow.cmd = m.id then Plane.init else q.shadow
      active := if q.active.cmd = m.id then Plane.init else q.active }).completed m
  | .accdat | .accstat => ((s.onLane m.crew m.lane Thread.passAcc).completed m).settle m.crew
  | .mswap | .maccrd | .mstat | .plrec => s

/-- ARRAY_UNCORRECTABLE_ERROR (R250). Uncorrectable error marks a row ERR or empties a plane and raises ENGINE_FAULT. -/
def execArrayUncorrectableError (qtr : Nat) (inPlane shadow : Bool) (row entry : Nat) (s : State) : Out :=
  let s := s.onQuarter qtr fun q =>
    if inPlane then q.losePlane shadow (s.planesCrossed qtr)
    else { q with rowst := tabPut q.rowst 0 (row % 512) (tabGet q.rowst 0 (row % 512) ||| 0x100) }
  match s.mcmds.find? (·.id == entry) with
  | some m =>
    let whom := s.receiverOf m.unit m.crew m.lane
    let s := s.dropFaulted m
    match whom with
    | some (uid, lanes) => .next (s.async uid (arrayFault m) lanes)
    | none => .next s
  | none => .next s

end Sys2Proof.Machine
end

