-- ==== Sys2Proof/Machine/Engine.lean ====
section
/-! DEFINITION. Engine commands: the common form and its checks (R253 to R258, R66, R127), the descriptors of every
command (R264 to R292), and the block-transfer engine (R262 to R269). -/

namespace Sys2Proof.Machine

/-! ## Channels (R65, R66, R257, R258) -/

/-- The bits of ENDPOINT that R257 names for a KIND. -/
def endpointMask (kind : Nat) : Nat :=
  match kind with
  | 1 => 0xFF
  | 2 | 6 => 0x0F00FFFFFFFFFFFF
  | 3 => 0x0F000000FFFFFFFF
  | 4 => 0x0F00FFFFFFFFFFFF
  | _ => 0x0F0000000000003F

/-- Check 1 of R66. -/
def Chan.valid (c : Chan) : Bool :=
  decide (1 ≤ c.kind) && decide (c.kind ≤ 6) && (c.endpoint.toNat &&& endpointMask c.kind) == c.endpoint.toNat

/-- 64 x ENGINE + QUEUE of the queue that a command on a channel enters (R257, R259). -/
def Chan.qid (c : Chan) : Nat := if c.kind = 1 then fieldN c.endpoint.toNat 0 8 else 128 + fieldN c.endpoint.toNat 56 4

def Chan.dev (c : Chan) : Nat := fieldN c.endpoint.toNat 32 16
def Chan.low (c : Chan) : Nat := fieldN c.endpoint.toNat 0 32

/-- A local queue of an engine, with a QUEUE that the engine has. -/
def Chan.isEngine (c : Chan) (eng : Nat) : Bool :=
  c.kind == 1 && c.qid / 64 == eng &&
    decide (c.qid % 64 < (match eng with
      | 0 => 4
      | 1 => 1
      | 2 => 16
      | _ => 64))

/-- Check 2 of R66: the kinds a command accepts (R258). -/
def Cmd.accepts (cmd : Cmd) (c : Chan) : Bool :=
  match cmd with
  | .cpy | .cpy2d | .cpyred | .cpymx | .qfence => c.isEngine 0
  | .qwait => c.isEngine 0 || c.isEngine 2
  | .hread => c.isEngine 0 || c.kind == 2 || c.kind == 4
  | .xsort => c.isEngine 1
  | .a2av | .areduce | .gang => c.kind == 3
  | .rput => c.kind == 2 || c.kind == 5
  | .rget => c.kind == 2 || c.kind == 4
  | .ratom | .rflush => c.kind == 2
  | .roost => c.kind == 6 && c.dev == 0xFFFF
  | .rouse => c.kind == 6
  | .lnch => c.isEngine 3

/-- Check 3 of R66: the permissions a command needs (R258). -/
def Cmd.permitted (cmd : Cmd) (c : Chan) : Bool :=
  match cmd with
  | .cpy | .cpy2d | .cpyred | .cpymx | .qfence | .qwait | .xsort | .lnch => true
  | .hread => c.permR && c.permH
  | .a2av | .areduce | .rput | .rflush | .roost | .gang => c.permW
  | .rget => c.permR
  | .ratom => c.permA
  | .rouse => c.permRouse

/-- The first failing check of R66, as a reason. -/
def Cmd.chanReason (cmd : Cmd) (c : Chan) (bytes : Nat) : Option Nat :=
  if !c.valid then some 1
  else if !cmd.accepts c then some 4
  else if !cmd.permitted c then some 2
  else if c.outstanding + bytes > c.allow then some 3
  else none

/-- The CHAN record (R312): the index, and 0 for the D field or 1 for the B field. -/
def chanTrap (reason idx field : Nat) : Trap := mkTrap .chan reason [idx, field]

/-- A channel that the descriptor does not supply stays at reset (R65). -/
def Chan.reset : Chan := ⟨0, 0, 0, false, false, false, false, false, 0⟩

def State.chan (s : State) (c : Crew) (idx : Nat) : Chan :=
  match s.launch c.world c.launch with
  | some l => l.desc.chans.getD idx Chan.reset
  | none => Chan.reset

/-! ## Footprints (R254) -/

/-- One range of a command: its rows, how it is claimed, what its base and its lengths are multiples of. -/
structure FRange where
  spad : Bool
  mode : Nat
  base : Nat
  stride : Nat
  rows : Nat
  len : Nat
  acc : Acc
  align : Nat := 16
  lenAlign : Nat := 16
  claimed : Bool := true
  /-- an offset in a peer's window or a server's object, which no bound of this device restricts (R270, R282) -/
  foreign : Bool := false
  deriving DecidableEq, Repr

def FRange.space (r : FRange) : Nat := if r.spad then 1 else 0

/-- The size a footprint's trap record names: the 16 B piece. -/
def pieceSize : Nat := 16

/-- MISALIGN of a range: base, length, stride. -/
def FRange.misaligned (r : FRange) : Option Trap :=
  if r.base % r.align ≠ 0 || r.len % r.lenAlign ≠ 0 || r.stride % 16 ≠ 0 then
    some (alignTrap r.base r.space r.acc.code pieceSize)
  else none

/-- First addresses of the rows. -/
def FRange.rowBases (r : FRange) : List Nat := (List.range r.rows).map fun i => r.base + i * r.stride

/-- RANGE: a generic row that ends above 2^56, a scratchpad row outside the block (R107). -/
def FRange.outside (r : FRange) (u : BUnit) : Option Trap :=
  (r.rowBases.find? fun a =>
    if r.len = 0 || r.foreign then false
    else if r.spad then spadBad u.cores.length u.alloc a r.len else decide (a + r.len > 2 ^ 56)).map fun a =>
    permTrap 4 a r.space r.acc.code pieceSize

/-- The claims of a range. -/
def State.rangeClaims (s : State) (uid wn core : Nat) (r : FRange) : List Claim :=
  if !r.claimed || r.len = 0 then []
  else if r.rows = 1 then
    (if r.spad then spadClaims uid r.mode r.base r.len r.acc else s.genClaims wn core r.base r.len r.acc)
  else r.rowBases.flatMap fun a =>
    if r.spad then spadClaims uid r.mode a r.len r.acc else s.genClaims wn core a r.len r.acc

/-- Bytes of a range as intervals: the pieces of swizzled scratchpad rows, or whole rows. -/
def FRange.pieces (r : FRange) : List (Nat × Nat) :=
  r.rowBases.flatMap fun a =>
    if r.spad && r.mode ≠ 0 then (spadClaims 0 r.mode a r.len .read).map fun c => (c.base.addr, c.len) else [(a, r.len)]

/-- Two ranges have a byte in common. -/
def FRange.coincide (r q : FRange) : Bool :=
  r.spad == q.spad && r.pieces.any fun p => q.pieces.any fun x =>
    decide (p.1 < x.1 + x.2) && decide (x.1 < p.1 + p.2)

/-- What a descriptor asks for: bytes counted on the channel, ranges, and a footprint trap of its own. -/
structure EReq where
  bytes : Nat
  ranges : List FRange
  late : Option Trap := none

/-- Word `i` of a descriptor. -/
def wN (w : List Word) (i : Nat) : Nat := (w.getD i 0).toNat

/-- Words `lo` to 15 are zero. -/
def zeroFrom (w : List Word) (lo : Nat) : Bool := (w.drop lo).all (· == 0)

/-- An address of words `i` and `i + 1`; a scratchpad one has bits [21:0] and a high word of 0 (R264). -/
def addrAt (w : List Word) (spad : Bool) (i : Nat) : Option Nat :=
  if spad then (if wN w (i + 1) = 0 then some (wN w i % 2 ^ 22) else none)
  else some (wN w i + 2 ^ 32 * wN w (i + 1))

/-- The common header (R256): whether a field breaks its rule. -/
def headerBad (u : BUnit) (cmd : Cmd) (w : List Word) : Bool :=
  decide (wN w 0 % 32 ≠ 0) || (bitN (wN w 2) 31 && decide (wN w 1 ≠ 0)) ||
    (bitN (wN w 2) 26 && decide (fieldN (wN w 2) 22 4 ≥ u.bars.length)) || decide (fieldN (wN w 2) 16 6 ≠ 0) ||
    (cmd != .a2av && decide (wN w 3 ≠ 0))

/-- The completion ring as a range that is checked and not claimed (R256). -/
def ringRange (w : List Word) : FRange :=
  { spad := bitN (wN w 2) 31, mode := 0, base := wN w 0 + 2 ^ 32 * wN w 1, stride := 0, rows := 1
    len := 32 * 2 ^ fieldN (wN w 2) 27 4, acc := .write, claimed := false }

/-! ## Descriptor bodies -/

/-- cpy, cpy2d, cpyred and cpy.mx (R264 to R267). -/
def State.copyReq (s : State) (cmd : Cmd) (ill : Trap) (c : Crew) (u : BUnit) (w : List Word) : Except Trap EReq :=
  let f := wN w 9
  let ssp := bitN f 30
  let dsp := bitN f 28
  let two := cmd == .cpy2d
  let rows := if two then fieldN (wN w 8) 16 16 else 1
  let rowb := if two then fieldN (wN w 8) 0 16 else wN w 8
  let ss := if two then wN w 10 else 0
  let ds := if two then wN w 11 else 0
  let dcbv := bitN f 21
  let cb := u.cbs[fieldN f 14 7]?
  let total := if two then rows * ds else rowb
  let bad := bitN f 31 || bitN f 29 || decide (fieldN f 0 14 ≠ 0) || decide (rows = 0) || decide (rowb < 16) ||
    (two && decide (rowb > 65520)) || (!two && decide (rowb > 2 ^ 32 - 16)) ||
    (two && (decide (ss < rowb) || decide (ds < rowb))) ||
    (cmd == .cpy && (decide (wN w 10 ≠ 0) || decide (wN w 11 ≠ 0) || !zeroFrom w 12)) || (two && !zeroFrom w 12) ||
    (cmd == .cpyred && (dcbv || decide (wN w 10 > 4) || !zeroFrom w 11)) ||
    (cmd == .cpymx && (!dsp || decide (wN w 15 ≠ 0))) ||
    (dcbv && (decide (wN w 6 ≠ 0) || decide (wN w 7 ≠ 0) || (match cb with
      | some b => decide (total > b.slot)
      | none => true)))
  match bad, addrAt w ssp 4, addrAt w dsp 6 with
  | false, some src, some dst =>
    let rs : FRange := { spad := ssp, mode := fieldN f 25 3, base := src, stride := ss, rows, len := rowb, acc := .read }
    let rd : FRange := { spad := dsp, mode := fieldN f 22 3, base := dst, stride := ds, rows, len := rowb
                         acc := if cmd == .cpyred then .atomic else .write }
    if !dcbv && rs.coincide rd then .error ill
    else
      let ranges := if dcbv then [rs] else [rs, rd]
      if cmd != .cpymx then .ok { bytes := rows * rowb, ranges }
      else
        let k := wN w 10
        let q := fieldN k 28 2
        let rel := if dcbv then (match cb with
          | some b => b.core
          | none => 0) else dst / 2 ^ 19
        let x : MSite := ⟨u, rel, u.cores.getD rel noCore, c.launch, ill⟩
        let fk := fieldN k 30 2
        let fd := fun i => w.getD i 0
        if decide (fieldN k 0 24 ≠ 0) || !(fk == 1 || fk == 2) || (fk == 1 && decide (fieldN k 24 4 ≠ 0)) ||
          (fk == 2 && decide (wN w 14 ≠ 0)) then .error ill
        else
          let tr := if fk = 1 then s.mldTrap x q (fd 11) (fd 12) (fd 13) (fd 14)
            else s.mmaTrap x q false (fieldN k 24 3) (fd 11) (fd 12) (fd 13)
          match tr with
          | some t => if t.cause = .ill then .error t else .ok { bytes := rowb, ranges, late := some t }
          | none =>
            let rowsOf := if fk = 1 then mldRows (fd 11) (fd 12) (fd 13) (fd 14) else mmaRows (fd 11) (fd 12) (fd 13)
            let fr := rowsOf.map fun p => ({ spad := true, mode := descSW (fd 12), base := p.1, stride := 0, rows := 1
                                             len := p.2, acc := .read, lenAlign := 1, align := 1 } : FRange)
            .ok { bytes := rowb, ranges := ranges ++ fr }
  | _, _, _ => .error ill

/-- hread (R270). -/
def State.hreadReq (s : State) (ill : Trap) (c : Crew) (u : BUnit) (ch : Chan) (w : List Word) : Except Trap EReq :=
  let rows := fieldN (wN w 6) 16 16
  let rowb := fieldN (wN w 6) 0 16
  let handlers := match s.launch c.world c.launch with
    | some l => l.desc.handlers
    | none => []
  let missing := match handlers[fieldN (wN w 9) 28 4]? with
    | some h => decide (h.image.len = 0)
    | none => true
  if rows = 0 || rowb = 0 || decide (wN w 7 < rowb) || missing || decide (fieldN (wN w 9) 25 3 ≥ u.cores.length) ||
    decide (fieldN (wN w 9) 0 25 ≠ 0) || !zeroFrom w 10 then .error ill
  else .ok { bytes := rows * rowb
             ranges := [{ spad := false, mode := 0, base := wN w 4 + 2 ^ 32 * wN w 5, stride := wN w 7, rows, len := rowb
                          acc := .read, lenAlign := 1, claimed := ch.kind == 1, foreign := ch.kind != 1 }] }

/-- Where the parts of a router sort's output start (R275). -/
def xsortParts (t k e ndev : Nat) : List (Nat × Nat) :=
  let up := fun n => (n + 15) / 16 * 16
  let perm := 4 * t * k
  let cnt := 4 * e
  [(0, perm), (up perm, cnt), (up perm + up cnt, cnt), (up perm + 2 * up cnt, 8 * ndev)]

/-- xsort (R275). -/
def xsortReq (ill : Trap) (w : List Word) : Except Trap EReq :=
  let k := fieldN (wN w 8) 28 4
  let t := fieldN (wN w 8) 0 17
  let e := fieldN (wN w 9) 0 11
  let nd := fieldN (wN w 10) 0 13
  let sp := wN w 14
  let bad := decide (fieldN (wN w 8) 17 11 ≠ 0) || decide (k = 0) || decide (k > 8) || decide (t = 0) ||
    decide (t > 65536) || decide (fieldN (wN w 9) 11 21 ≠ 0) || decide (e = 0) || decide (e > 1024) ||
    decide (fieldN (wN w 10) 13 19 ≠ 0) || decide (nd = 0) || decide (nd > 4096) || bitN sp 1 || bitN sp 3 || bitN sp 5 ||
    decide (fieldN sp 6 26 ≠ 0) || decide (wN w 15 ≠ 0)
  match bad, addrAt w (bitN sp 0) 4, addrAt w (bitN sp 2) 6, addrAt w (bitN sp 4) 12 with
  | false, some tok, some map, some out =>
    let rg := fun (spad : Bool) (base len : Nat) (acc : Acc) =>
      ({ spad, mode := 0, base, stride := 0, rows := 1, len, acc, lenAlign := 1 } : FRange)
    .ok { bytes := 0
          ranges := [rg (bitN sp 0) tok (2 * t * k) .read, rg (bitN sp 2) map (2 * e) .read] ++
            (xsortParts t k e nd).map fun p => rg (bitN sp 4) (out + p.1) p.2 .write }
  | _, _, _, _ => .error ill

/-- The group entry of a channel: its number, its bytes, and its count of ranks; `none` when the group does not exist or
cannot be read (R277, R409). -/
def State.groupEntry (s : State) (wn g : Nat) : Option (List Byte × Nat) :=
  match s.world wn with
  | none => none
  | some w =>
    if g ≥ w.fab.ngrp then none
    else (s.devRead wn (w.fab.grptab + 32 * g) 32).map fun b => (b, fieldN (natAt b 0) 0 13)

/-- The job ranks of a group. -/
def State.groupRanks (s : State) (wn : Nat) (b : List Byte) (p : Nat) : Option (List Nat) :=
  if p = 0 then some []
  else (s.devRead wn (nat64At b 2) (2 * p)).map fun l => (entriesOf 2 l).map leNat

/-- A group that exists and holds this device: its entry, its ranks, the group rank of this device (R277). -/
def State.groupOf (s : State) (wn g : Nat) : Option (List Byte × List Nat × Nat) :=
  match s.groupEntry wn g with
  | none => none
  | some (b, p) =>
    match s.groupRanks wn b p with
    | none => none
    | some rs => if rs.contains (s.ownRank wn) then some (b, rs, rs.idxOf (s.ownRank wn)) else none

/-- What reading a group's entry and its ranks leaves: malformed table entries are counted (R351). -/
def State.touchGroup (s : State) (wn g : Nat) : State :=
  match s.world wn with
  | none => s
  | some w =>
    if g ≥ w.fab.ngrp then s
    else
      let t := s.devTouch wn (w.fab.grptab + 32 * g) 32
      match s.groupEntry wn g with
      | some (b, p) => t.devTouch wn (nat64At b 2) (2 * p)
      | none => t

/-- The number of a group collective among those issued on its group since the group was created, which it is anew when
its entry or its ranks have changed; one that names no such group counts in none (R277). -/
def State.nextInstance (s : State) (wn g : Nat) : Nat × State :=
  match s.groupOf wn g, s.world wn with
  | some (b, rs, _), some w =>
    let img := b ++ rs.flatMap (leBytes 2)
    let (n, was) := tabGet w.groupSeq (0, []) g
    let n := if was = img then n else 0
    (n.toNat, (s.touchGroup wn g).onWorld wn fun w => { w with groupSeq := tabPut w.groupSeq (0, []) g (n + 1, img) })
  | _, _ => (0, s.touchGroup wn g)

/-- a2av (R278, R279). -/
def State.a2avReq (s : State) (c : Crew) (ch : Chan) (w : List Word) : EReq :=
  let p := ((s.groupEntry c.world ch.low).getD ([], 0)).2
  let a := fun i => wN w i + 2 ^ 32 * wN w (i + 1)
  let n := 16 * wN w 3
  let rg := fun (base len : Nat) (acc : Acc) (al : Nat) =>
    ({ spad := false, mode := 0, base, stride := 0, rows := 1, len, acc, lenAlign := al } : FRange)
  { bytes := n
    ranges := [rg (a 4) n .read 16, rg (a 6) (16 * p) .read 16, rg (a 8) (a 10) .write 16, rg (a 12) (16 * p) .write 16,
      rg (a 14) (4 * p) .atomic 1] }

/-- areduce (R280). -/
def areduceReq (ill : Trap) (w : List Word) : Except Trap EReq :=
  let n := wN w 8
  if decide (n < 4) || decide (n > 2 ^ 28) || n % 4 ≠ 0 || decide (fieldN (wN w 9) 5 27 ≠ 0) ||
    decide (fieldN (wN w 9) 0 4 > 6) || !zeroFrom w 10 then .error ill
  else
    let rg := fun (i : Nat) (acc : Acc) => ({ spad := false, mode := 0, base := wN w i + 2 ^ 32 * wN w (i + 1), stride := 0
                                              rows := 1, len := 4 * n, acc } : FRange)
    .ok { bytes := 4 * n, ranges := [rg 4 .read, rg 6 .write] }

/-- rput, rget, ratom, rflush (R282). -/
def rmaReq (cmd : Cmd) (ill : Trap) (w : List Word) : Except Trap EReq :=
  if cmd == .rflush then (if zeroFrom w 4 then .ok { bytes := 0, ranges := [] } else .error ill)
  else
    let f := wN w 9
    let spad := bitN f 30
    let n := wN w 8
    let at' := cmd == .ratom
    let fn := fieldN f 22 4
    let bad := bitN f 31 || decide (fieldN f 0 22 ≠ 0) || !zeroFrom w 14 ||
      (if at' then decide (n ≠ 0) || decide (fn > 13) else decide (n < 16) || decide (n > 2 ^ 32 - 16))
    match bad, addrAt w spad 4 with
    | false, some loc =>
      let size := atomSize fn
      let off : FRange := { spad := false, mode := 0, base := wN w 6 + 2 ^ 32 * wN w 7, stride := 0, rows := 1, len := 0
                            acc := if cmd == .rget then .read else if at' then .atomic else .write
                            align := if at' then size else 16, claimed := false }
      let here : FRange := { spad, mode := fieldN f 27 3, base := loc, stride := 0, rows := 1
                             len := if at' then size else n, acc := if cmd == .rput then .read else .write
                             lenAlign := if at' then 1 else 16 }
      .ok { bytes := if at' then 8 else n, ranges := (if at' && !bitN f 26 then [] else [here]) ++ [off] }
    | _, _ => .error ill

/-- roost, rouse, lnch and gang (R289 to R292). -/
def controlReq (cmd : Cmd) (ill : Trap) (w : List Word) : Except Trap EReq :=
  let rg := fun (base len al : Nat) =>
    ({ spad := false, mode := 0, base, stride := 0, rows := 1, len, acc := .read, align := al, claimed := false } : FRange)
  let a := wN w 4 + 2 ^ 32 * wN w 5
  match cmd with
  | .roost =>
    if decide (wN w 6 < 16) || decide (wN w 6 > 2 ^ 20) || decide (fieldN (wN w 7) 6 26 ≠ 0) || fieldN (wN w 7) 0 6 = 0 ||
      decide (fieldN (wN w 10) 6 26 ≠ 0) || !zeroFrom w 13 then .error ill
    else .ok { bytes := 0, ranges := [{ rg a (wN w 6) 65536 with acc := .write }] }
  | .rouse => if zeroFrom w 6 then .ok { bytes := 8, ranges := [] } else .error ill
  | .lnch => if zeroFrom w 6 then .ok { bytes := 0, ranges := [rg a 512 16] } else .error ill
  | _ =>
    if decide (fieldN (wN w 8) 6 26 ≠ 0) || !zeroFrom w 9 then .error ill
    else .ok { bytes := 0, ranges := [rg a 512 16] }

/-- A descriptor's body, by command. -/
def State.bodyReq (s : State) (cmd : Cmd) (ill : Trap) (c : Crew) (u : BUnit) (ch : Chan) (w : List Word) :
    Except Trap EReq :=
  match cmd with
  | .cpy | .cpy2d | .cpyred | .cpymx => s.copyReq cmd ill c u w
  | .hread => s.hreadReq ill c u ch w
  | .xsort => xsortReq ill w
  | .a2av => .ok (s.a2avReq c ch w)
  | .areduce => areduceReq ill w
  | .rput | .rget | .ratom | .rflush => rmaReq cmd ill w
  | .roost | .rouse | .lnch | .gang => controlReq cmd ill w
  | .qfence | .qwait => .ok { bytes := 0, ranges := [] }

/-! ## Order among entries (R127, R135, R136, R269) -/

/-- `v` is past entry `seq` of a queue: the count `v` orders it (R269). -/
def seqOrdered (v seq : Word) : Bool := decide ((v - (seq + 1)).toNat < 2 ^ 31)

/-- An entry that entry `x` comes after. -/
def Entry.after (x y : Entry) : Bool :=
  x.unit == y.unit && ((x.qkey == y.qkey && decide (y.id < x.id)) ||
    match x.cmd with
    | .qfence => decide (y.id < x.id) && y.rcore == x.rcore && decide (y.qid < 4) && bitN (x.word 4) y.qid
    | .qwait => y.qkey == x.word 5 && seqOrdered (x.words.getD 4 0) y.seq
    | _ => false)

/-- Entries ordered before a new one of a queue, directly or through others. -/
def State.orderedBefore (s : State) (unit key : Nat) : List Entry :=
  (List.range s.entries.length).foldl (fun l _ =>
      s.entries.filter fun y => l.any fun x => x.id == y.id || x.after y)
    (s.entries.filter fun e => e.unit == unit && e.qkey == key)

/-! ## Issue (R254, R255) -/

/-- Entries a queue of an engine holds for a block (R255). -/
def queueRoom (qid : Nat) : Option Nat :=
  match qid / 64 with
  | 0 => some 64
  | 1 => some 16
  | 2 => some 32
  | _ => none

def State.queueFull (s : State) (unit key qid : Nat) : Bool :=
  match queueRoom qid with
  | some n => decide ((s.entries.filter fun e => e.unit == unit && e.qkey == key).length ≥ n)
  | none => false

/-- The block-relative core of a crew or drip. -/
def BUnit.relCore (u : BUnit) (c : Crew) : Nat := u.cores.idxOf c.core

/-- The command enters its queue: bytes, sequence number, claims, the issuing PC, which is its guard prefix's if it has one
(R66, R138, R255, R259). -/
def State.enqueue (s : State) (c : Crew) (u : BUnit) (t : Thread) (cmd : Cmd) (idx : Nat) (ch : Chan) (w : List Word)
    (bytes : Nat) (claims : List Claim) : State :=
  let (id, s) := s.fresh
  let key := queueKey (u.relCore c) ch.qid
  let job := match s.world c.world with
    | some w => w.job
    | none => 0
  let e : Entry :=
    { id, unit := u.uid, crew := c.uid, lane := t.lane, world := c.world, launch := c.launch, job, pc := t.pc, qid := ch.qid
      rcore := u.relCore c, site := c.core, crewIdx := c.idx, quarter := c.quarter, seq := (u.qctrAt key).seq, cmd, words := w, chan := idx
      kind := ch.kind, endpoint := ch.endpoint, bytes, claims, phase := .queued, inst := 0, img := [], slot := none
      progress := [], born := [], held := [], asked := [], failed := [], status := 0
      fault := 0, aux := 0, path := 0, retries := 0, refs := [], leases := [], fin := none }
  let s := s.onUnit u.uid fun u => u.onQctr key fun q => { q with seq := q.seq + 1 }
  let s := s.onLaunch c.world c.launch fun l => { l with desc := { l.desc with
    chans := l.desc.chans.mapIdx fun i x => if i = idx then { x with outstanding := x.outstanding + bytes } else x } }
  let s := s.onCrew c.uid fun c => { c with lastCmd := (e.pc, e.seq, ch.qid) }
  let (n, s) := match cmd with
    | .a2av | .areduce | .gang => s.nextInstance c.world ch.low
    | _ => (0, s)
  ({ s with entries := s.entries ++ [{ e with inst := n }] }).startNext u.uid key

/-- Steps 4 to 6 of R254 and the issue, which releases at device scope and closes the crew's region; `read` is the MMX
that the read of the descriptor met, last in order (R137, R154). -/
def State.issueEntry (s : State) (e : Env) (c : Crew) (u : BUnit) (t : Thread) (cmd : Cmd) (idx : Nat) (w : List Word)
    (rq : EReq) (ring : List FRange) (read : Option Trap) : State × LaneRes :=
  let ch := s.chan c idx
  match cmd.chanReason ch rq.bytes with
  | some r => (s, .trap (chanTrap r idx 0))
  | none =>
    let all := rq.ranges ++ ring
    match all.findSome? FRange.misaligned with
    | some tr => (s, .trap tr)
    | none =>
      match rq.late with
      | some tr => (s, .trap tr)
      | none =>
        match all.findSome? (FRange.outside · u) with
        | some tr => (s, .trap tr)
        | none =>
          match read with
          | some tr => (s, .trap tr)
          | none =>
            let claims := rq.ranges.flatMap (s.rangeClaims u.uid c.world c.core)
            let before := (s.orderedBefore u.uid (queueKey (u.relCore c) ch.qid)).map (·.id)
            let s := s.drainLane e.uid t.lane
            let s' := (s.released e.uid scopeDevice).syncFor e
            match s'.claimsConflict (fun p => match p with
                | .engine id => before.contains id
                | _ => false) claims with
            | some tr => (s, .trap tr)
            | none => (s'.enqueue c u t cmd idx ch w rq.bytes claims, .done)

/-- The queue that a command would enter is full: it waits there (R255); a channel that names none goes on to its check. -/
def State.waitsForQueue (s : State) (c : Crew) (u : BUnit) (cmd : Cmd) (ch : Chan) : Bool :=
  ch.valid && cmd.accepts ch && s.queueFull u.uid (queueKey (u.relCore c) ch.qid) ch.qid

/-- One lane's command with a descriptor (R253, R254). -/
def engineLane (cmd : Cmd) (idx aF : Nat) (e : Env) (c : Crew) (t : Thread) (s : State) : State × LaneRes :=
  if s.matrixWait e.uid t.lane then (s, .stall false)
  else match s.unit c.unit with
    | none => (s, .done)
    | some u =>
      let a := (t.x aF).toNat % 2 ^ 22
      if a % 64 ≠ 0 then (s, .trap (alignTrap a 1 0 pieceSize))
      else if spadBad u.cores.length u.alloc a 64 then (s, .trap (permTrap 4 a 1 0 pieceSize))
      else
        let s := s.drainLane e.uid t.lane
        let acc : Access := ⟨.crew e.uid, s.accessRegion c t, false, false, e.pcI t⟩
        let read := s.conflict acc 0 pieceSize false (.spad u.uid a) a 64
        let w := match s.unit c.unit with
          | some u => bytesWords (u.readSpad 0 a 64)
          | none => []
        let ch := s.chan c idx
        if headerBad u cmd w then (s, .trap (e.ill .operand))
        else match s.bodyReq cmd (e.ill .operand) c u ch w with
          | .error tr => (s, .trap tr)
          | .ok rq =>
            if s.waitsForQueue c u cmd ch then (s, .stall true)
            else s.issueEntry e c u t cmd idx w rq [ringRange w] read

/-- Engine commands with a descriptor. -/
def execEngine (word : Word) (sw drip : Bool) (cmd : Cmd) (ch : BitVec 6) (a : BitVec 7) (s : State) : Out :=
  execLanes { word := word, sw := sw, ops := [aX a 1], drip := drip } s fun e c t s =>
    engineLane cmd ch.toNat a.toNat e c t s

/-- CPY (R264). Issues a linear copy on the block-transfer engine. -/
def execCpy (sw : Bool) (c : BitVec 6) (a : BitVec 7) (s : State) : Out :=
  execEngine (encRRR sw 48#6 0#4 (0#1 ++ c) a 0#7) sw true .cpy c a s

/-- CPY2D (R264). Issues a two-dimensional copy. -/
def execCpy2d (sw : Bool) (c : BitVec 6) (a : BitVec 7) (s : State) : Out :=
  execEngine (encRRR sw 48#6 1#4 (0#1 ++ c) a 0#7) sw true .cpy2d c a s

/-- CPYRED (R265). Issues a reduction copy that updates destination elements atomically. -/
def execCpyred (sw : Bool) (c : BitVec 6) (a : BitVec 7) (s : State) : Out :=
  execEngine (encRRR sw 48#6 2#4 (0#1 ++ c) a 0#7) sw true .cpyred c a s

/-- CPY_MX (R267). Issues a copy carrying a follow-on matrix command. -/
def execCpyMx (sw : Bool) (c : BitVec 6) (a : BitVec 7) (s : State) : Out :=
  execEngine (encRRR sw 48#6 3#4 (0#1 ++ c) a 0#7) sw true .cpymx c a s

/-- HREAD (R270). Issues a handler read spawning one drip per 512 B burst. -/
def execHread (sw : Bool) (c : BitVec 6) (a : BitVec 7) (s : State) : Out :=
  execEngine (encRRR sw 50#6 0#4 (0#1 ++ c) a 0#7) sw false .hread c a s

/-- XSORT (R275). Issues a router sort of tokens by expert. -/
def execXsort (sw : Bool) (c : BitVec 6) (a : BitVec 7) (s : State) : Out :=
  execEngine (encRRR sw 51#6 0#4 (0#1 ++ c) a 0#7) sw false .xsort c a s

/-- A2AV (R278). Issues a group all-to-all-v exchange. -/
def execA2av (sw : Bool) (c : BitVec 6) (a : BitVec 7) (s : State) : Out :=
  execEngine (encRRR sw 51#6 1#4 (0#1 ++ c) a 0#7) sw false .a2av c a s

/-- AREDUCE (R280). Issues a group all-reduce. -/
def execAreduce (sw : Bool) (c : BitVec 6) (a : BitVec 7) (s : State) : Out :=
  execEngine (encRRR sw 51#6 2#4 (0#1 ++ c) a 0#7) sw false .areduce c a s

/-- RPUT (R282). Issues a remote put. -/
def execRput (sw : Bool) (c : BitVec 6) (a : BitVec 7) (s : State) : Out :=
  execEngine (encRRR sw 52#6 0#4 (0#1 ++ c) a 0#7) sw true .rput c a s

/-- RGET (R282). Issues a remote get. -/
def execRget (sw : Bool) (c : BitVec 6) (a : BitVec 7) (s : State) : Out :=
  execEngine (encRRR sw 52#6 1#4 (0#1 ++ c) a 0#7) sw true .rget c a s

/-- RATOM (R284). Issues a remote atomic. -/
def execRatom (sw : Bool) (c : BitVec 6) (a : BitVec 7) (s : State) : Out :=
  execEngine (encRRR sw 52#6 2#4 (0#1 ++ c) a 0#7) sw true .ratom c a s

/-- RFLUSH (R285). Issues a placement barrier for earlier puts and atomics. -/
def execRflush (sw : Bool) (c : BitVec 6) (a : BitVec 7) (s : State) : Out :=
  execEngine (encRRR sw 52#6 3#4 (0#1 ++ c) a 0#7) sw true .rflush c a s

/-- ROOST (R289). Issues registration of a sequence as a roost. -/
def execRoost (sw : Bool) (c : BitVec 6) (a : BitVec 7) (s : State) : Out :=
  execEngine (encRRR sw 53#6 1#4 (0#1 ++ c) a 0#7) sw false .roost c a s

/-- ROUSE (R290). Issues a rouse carrying a 64-bit payload. -/
def execRouse (sw : Bool) (c : BitVec 6) (a : BitVec 7) (s : State) : Out :=
  execEngine (encRRR sw 53#6 2#4 (0#1 ++ c) a 0#7) sw false .rouse c a s

/-- LNCH (R291). Submits a launch descriptor to a launch queue; record on accept or refuse. -/
def execLnch (sw : Bool) (c : BitVec 6) (a : BitVec 7) (s : State) : Out :=
  execEngine (encRRR sw 54#6 0#4 (0#1 ++ c) a 0#7) sw false .lnch c a s

/-- GANG (R292). Issues a gang launch at a device-time tick on every rank. -/
def execGang (sw : Bool) (c : BitVec 6) (a : BitVec 7) (s : State) : Out :=
  execEngine (encRRR sw 54#6 2#4 (0#1 ++ c) a 0#7) sw false .gang c a s

/-- One lane's entry without a descriptor: its channel, another channel to check, the words the entry keeps. -/
def fenceLane (cmd : Cmd) (idx : Nat) (other : Option Nat) (words : BUnit → List Word) (e : Env) (c : Crew) (t : Thread)
    (s : State) : State × LaneRes :=
  if s.matrixWait e.uid t.lane then (s, .stall false)
  else match s.unit c.unit with
    | none => (s, .done)
    | some u =>
      if s.waitsForQueue c u cmd (s.chan c idx) then (s, .stall true)
      else match cmd.chanReason (s.chan c idx) 0, other.bind fun y => (cmd.chanReason (s.chan c y) 0).map fun r => (r, y) with
        | none, some (r, y) => (s, .trap (chanTrap r y 1))
        | _, _ => s.issueEntry e c u t cmd idx (words u) { bytes := 0, ranges := [] } [] none

/-- QFENCE (R268). Puts a queue fence naming block-transfer queues. -/
def execQfence (sw : Bool) (ch : BitVec 6) (m : BitVec 4) (s : State) : Out :=
  execLanes { word := (encRRR sw 48#6 4#4 (0#1 ++ ch) 0#7 (0#3 ++ m)), sw := sw, ops := [] } s fun e c t s =>
    if m = 0 then (s, .trap (e.ill .operand))
    else fenceLane .qfence ch.toNat none (fun _ => [0, 0, 0, 0, BitVec.ofNat 32 m.toNat]) e c t s

/-- QWAIT (R269). Puts an entry waiting for another queue's completion count. -/
def execQwait (sw : Bool) (x : BitVec 6) (a : BitVec 7) (y : BitVec 6) (s : State) : Out :=
  execLanes { word := (encRRR sw 48#6 5#4 (0#1 ++ x) a (0#1 ++ y)), sw := sw, ops := [aX a 1] } s fun e c t s =>
    let key := queueKey (match s.unit c.unit with
      | some u => u.relCore c
      | none => 0) (s.chan c y.toNat).qid
    fenceLane .qwait x.toNat (some y.toNat) (fun _ => [0, 0, 0, 0, t.x a.toNat, BitVec.ofNat 32 key]) e c t s

/-- One lane of a cncl. -/
def cnclLane (level : Nat) (a d : BitVec 7) (e : Env) (c : Crew) (t : Thread) (s : State) : State × LaneRes :=
  if s.matrixWait e.uid t.lane then (s, .stall false)
  else
    let s := ((s.drainLane e.uid t.lane).released e.uid scopeDevice).syncFor e
    let (s, r) := s.cancelLevel c.world level (t.x a.toNat)
    (s.onLane e.uid t.lane fun t => t.putX d.toNat (BitVec.ofNat 32 r), .done)

/-- CNCL (R293). Cancels a level and writes its status to x(S). A crew that cancels its own launch finishes the
instruction in every lane first (R47). -/
def execCncl (sw : Bool) (l : BitVec 2) (a d : BitVec 7) (s : State) : Out :=
  let f : Form := { word := (encRRR sw 54#6 1#4 (0#5 ++ l) a d), sw := sw, ops := [aX a 1, bX d 1], drip := false, priv := decide (l.toNat ≥ 2) }
  issue f s fun e k0 c s =>
    (runSet f (fun _ c _ s => s.cnclBegin c.unit) (fun _ => cnclLane l.toNat a d) e k0 c s).cnclEnd c.unit

/-! ## Block-transfer entries in their queues (R262, R264 to R269) -/

/-- Translates generic ranges of an entry, given as number, address, length and kind, and takes their references; the
first failure stops it, but pages missed are gathered from all of them (R262, R374). -/
def State.probe (s : State) (e : Entry) : List (Nat × Nat × Nat × AccKind) → State × EngRes Unit
  | [] => (s, .ok ())
  | (rg, va, len, k) :: r =>
    match s.cmdTargets e rg k va len with
    | (s, .ok _) => State.probe s e r
    | (s, .perm x) => (s, .perm x)
    | (s, .miss m) =>
      match State.probe s e r with
      | (s, .miss m') => (s, .miss (m ++ m'.filter fun x => !m.contains x))
      | (s, _) => (s, .miss m)
    | (s, .poisoned x) => (s, .poisoned x)

/-- The generic ranges of a copy. -/
def Entry.copyRanges (e : Entry) (u : BUnit) : List (Nat × Nat × Nat × AccKind) :=
  let (rows, rowb) := e.shape
  let side := fun (d : Side) (k : AccKind) =>
    if d.spad then [] else (List.range rows).map fun i => (d.base, d.base + i * d.stride, rowb, k)
  side e.source .read ++ side (e.dest u) (if e.cmd = .cpyred then .atom else .write)

/-- What an engine finding does to the entry, and how it goes on when there is none (R262); a record of a failure counts
the bytes moved before it (R259). -/
def State.engOutcome (s : State) (id : Nat) (r : EngRes Unit) (go : State → State) : State :=
  let moved := (s.entry id).elim 0 Entry.moved
  let flags := (s.entry id).elim 0 Entry.redFlags
  match r with
  | .ok _ => go s
  | .perm x => s.finishEntry id stPermFault x flags moved 0
  | .poisoned x => s.finishEntry id stMemError x flags moved 0
  | .miss m => s.engineWait id m

/-- The claims of the slot that a copy fills. -/
def State.slotClaims (s : State) (e : Entry) (u : BUnit) : List Claim :=
  let (rows, rowb) := e.shape
  let d := e.dest u
  s.rangeClaims e.unit e.world e.site
    { spad := true, mode := d.mode, base := d.base, stride := d.stride, rows, len := rowb, acc := .write }

/-- A copy begins, or begins again: its ranges are translated, then its completion is caused. -/
def State.beginCopy (s : State) (id : Nat) : State :=
  match s.entry id with
  | none => s
  | some e =>
    match s.unit e.unit with
    | none => s
    | some u =>
      let (s, r) := s.probe e (e.copyRanges u)
      s.engOutcome id r fun s =>
        (s.onEntry id fun e => { e with phase := .running }).arm
          (if e.cmd = .cpyred then .cpyredChunkApply id else .cpyComplete id)

/-- A copy reaches the head of its queue: a circular-buffer destination takes its slot, or the queue waits (R266). -/
def State.startCopy (s : State) (e : Entry) : State :=
  if bitN (e.word 9) 21 && e.cmd != .cpyred && e.slot.isNone then
    let obj := fieldN (e.word 9) 14 7
    match (s.cbuf e.unit obj).bind fun c => c.startFill true with
    | none => s
    | some (cb, slot) =>
      let s := s.onCbuf e.unit obj fun _ => cb
      let s := s.onEntry e.id fun e => { e with slot := some slot }
      let s := match s.entry e.id, s.unit e.unit with
        | some e, some u => s.onEntry e.id fun x => { x with claims := x.claims ++ s.slotClaims e u }
        | _, _ => s
      (s.cbSettle e.unit obj 512).beginCopy e.id
  else s.beginCopy e.id

/-- A copy's slot is FILLED, before its record (R266). -/
def State.fillSlot (s : State) (e : Entry) : State :=
  match e.slot with
  | none => s
  | some i => (s.onCbuf e.unit (fieldN (e.word 9) 14 7) fun c => c.endFill i).cbChanged e.unit (fieldN (e.word 9) 14 7)

/-- The follow-on of a cpy.mx enters its quarter's order, or ends the copy FOLLOW_REFUSED (R267). -/
def State.follow (s : State) (e : Entry) (u : BUnit) : State :=
  let k := e.word 10
  let w := fun i => e.words.getD i 0
  let q := fieldN k 28 2
  let rel := (e.dest u).base / 2 ^ 19
  let launch := u.launch
  let x : MSite := ⟨u, rel, u.cores.getD rel noCore, launch, mkTrap .ill 5 []⟩
  let mld := fieldN k 30 2 == 1
  let ok := if mld then s.siteBound x q else s.mmaBound x q true (w 11) (w 12)
  if !ok then s.finishEntry e.id stFollowRefused 2 0 e.bytes 0
  else
    let (id, s) := s.fresh
    let m : MCmd :=
      { id, unit := e.unit, crew := e.crew, lane := e.lane, pc := e.pc, kind := if mld then .mldst else .mma
        q0 := quarterNo x.phys q, nq := if mld then 1 else ceilDiv (shapeN (w 11)) 64
        shape := w 11, w0 := w 12, w1 := w 13, w2 := w 14, flag := bitN k 27, tile := fieldN k 24 3, n := 0, dest := 0
        coord := 0, claims := [], follow := some e.id }
    let s := s.onEntry e.id fun e => { e with phase := .following }
    let s := if mld then s.mldIssued m.q0 id (w 11) (w 12) (w 13) (w 14) 0xFFFFFFFF else s
    s.enterOrder m

/-- CPY_COMPLETE (R264). A copy's last byte is written and its completion record follows. -/
def execCpyComplete (entry : Nat) (s : State) : Out :=
  match s.entry entry with
  | none => .next s
  | some e =>
    match s.unit e.unit, e.phase, e.cmd with
    | some u, .running, .cpy | some u, .running, .cpy2d | some u, .running, .cpymx =>
      let (s, r) := s.moveCopy e
      .next (s.engOutcome entry r fun s =>
        let s := s.fillSlot e
        if e.cmd = .cpymx then s.follow e u else s.finishEntry entry stDone 0 0 e.bytes 0)
    | _, _, _ => .next s

/-- One element update of a reduction copy (R265). -/
def cpyredOp (op : Nat) (e v : Word) : Word × Flags :=
  match op with
  | 0 => (e + v, 0)
  | 1 => setF32 .fadd e v 0
  | 2 => setF32 .fmin e v 0
  | 3 => setF32 .fmax e v 0
  | _ => setFPacked fmtBF16 .fadd e v 0

/-- Bytes of one side of a copy: where they are, for one whole range. -/
def State.sideTargets (s : State) (e : Entry) (d : Side) (k : AccKind) (off n : Nat) :
    State × EngRes (List (Target × Place × Nat × Nat)) :=
  s.cmdTargets e d.base k (d.base + off) n

/-- Some byte of a generic destination lies on a private-class or read-shared page, where no reduction copy writes. -/
def State.redDenied (s : State) (e : Entry) (d : Side) (off n : Nat) : Bool :=
  !d.spad && (pageParts (d.base + off) n).any fun p => s.privatePart e.world e.site p.1

/-- The old bytes of the destination and whether a granule of them is poisoned. -/
def State.redOld (s : State) (e : Entry) (u : BUnit) (d : Side) (off n : Nat) : State × EngRes (List Byte × Bool) :=
  if d.spad then
    (s, if u.spadBroken d.mode (d.base + off) n then .poisoned 2 else .ok (u.readSpad d.mode (d.base + off) n, false))
  else match s.sideTargets e d .atom off n with
    | (s, .ok ts) => (s, .ok (ts.flatMap fun p => s.loadT p.1 p.2.2.2, ts.any fun p => s.poisonedT p.1 p.2.2.2))
    | (s, .perm x) => (s, .perm x)
    | (s, .miss m) => (s, .miss m)
    | (s, .poisoned x) => (s, .poisoned x)

/-- CPYRED_CHUNK_APPLY (R265). A fully staged 4 KiB chunk is applied to the destination. -/
def execCpyredChunkApply (entry : Nat) (s : State) : Out :=
  match s.entry entry with
  | none => .next s
  | some e =>
    match s.unit e.unit, e.phase, e.cmd with
    | some u, .running, .cpyred =>
      let k := e.progress.headD 0
      let off := 4096 * k
      let len := e.word 8
      let n := if len - off < 4096 then len - off else 4096
      let d := e.dest u
      let src := e.source
      let rd : State × EngRes (List Byte) :=
        s.readRow e { src with stride := off } 1 n
      match rd with
      | (s, .ok new) =>
        if s.redDenied e d off n then .next (s.finishEntry entry stPermFault 3 e.aux.toNat e.moved 0)
        else match s.redOld e u d off n with
          | (s, .ok (old, poisoned)) =>
            let rs := (List.range (n / 4)).map fun i => cpyredOp (e.word 10) (wordAt old i) (wordAt new i)
            let bytes := wordsBytes (rs.map (·.1))
            let aux : Word := e.aux ||| (orFlags (rs.map (·.2))).setWidth 32 ||| (if poisoned then 64 else 0)
            let s := if d.spad then s.spadWrite e.unit d.mode (d.base + off) bytes
              else (s.cmdWrite e d.base (d.base + off) bytes).1
            let s := s.onEntry entry fun e => { e with aux := aux, progress := [k + 1] }
            .next (if off + n ≥ len then s.finishEntry entry stDone 0 aux.toNat e.bytes 0
              else s.arm (.cpyredChunkApply entry))
          | (s, .perm x) => .next (s.finishEntry entry stPermFault x e.aux.toNat e.moved 0)
          | (s, .miss m) => .next (s.engineWait entry m)
          | (s, .poisoned x) => .next (s.finishEntry entry stMemError x e.aux.toNat e.moved 0)
      | (s, .perm x) => .next (s.finishEntry entry stPermFault x e.aux.toNat e.moved 0)
      | (s, .miss m) => .next (s.engineWait entry m)
      | (s, .poisoned x) => .next (s.finishEntry entry stMemError x e.aux.toNat e.moved 0)
    | _, _, _ => .next s

/-- Every entry that a queue fence waits for has completed (R136). -/
def State.fenceClear (s : State) (e : Entry) : Bool :=
  !(s.entries.any fun y => y.unit == e.unit && decide (y.id < e.id) && y.rcore == e.rcore && decide (y.qid < 4) &&
    bitN (e.word 4) y.qid)

/-- An entry at the head of its queue that has begun. -/
def Entry.runs (e : Entry) (cmd : Cmd) : Bool := e.phase == .running && e.cmd == cmd

/-- QFENCE_COMPLETE (R268). A queue fence completes when the named entries have. -/
def execQfenceComplete (entry : Nat) (s : State) : Out :=
  match s.entry entry with
  | none => .next s
  | some e => .next (if e.runs .qfence && s.fenceClear e then s.finishEntry entry stDone 0 0 0 0 else s)

/-- QWAIT_COMPLETE (R269). A qwait completes when the other queue's count reaches the value. -/
def execQwaitComplete (entry : Nat) (s : State) : Out :=
  match s.entry entry with
  | none => .next s
  | some e =>
    match s.unit e.unit with
    | none => .next s
    | some u =>
      let done := (u.qctrAt (e.word 5)).done
      .next (if e.runs .qwait && decide ((done - e.words.getD 4 0).toNat < 2 ^ 31) then s.finishEntry entry stDone 0 0 0 0
        else s)


end Sys2Proof.Machine
end

