-- ==== Sys2Proof/Machine/Handler.lean ====
section
/-! DEFINITION. Handler reads: fetching bursts, the drip queue of a core, the birth of drips (R64, R70, R270 to R274). -/

namespace Sys2Proof.Machine

/-! ## Traffic with other devices (R401) -/

/-- The channel that a command was issued on. -/
def State.chanOfEntry (s : State) (e : Entry) : Chan :=
  match s.launch e.world e.launch with
  | some l => l.desc.chans.getD e.chan Chan.reset
  | none => Chan.reset

/-- DEV of a channel of KIND 2 or 6, SERVER of one of KIND 4 (R257). -/
def Entry.dev (e : Entry) : Nat := fieldN e.endpoint.toNat 32 16
def Entry.server (e : Entry) : Nat := fieldN e.endpoint.toNat 0 48

/-- What goes out for a command: its number, KIND and ENDPOINT, and what it carries (R257, R282). -/
def Entry.body (e : Entry) (payload : List Byte) : List Byte :=
  leBytes 4 e.id ++ leBytes 4 e.kind ++ leBytes 8 e.endpoint.toNat ++ wordsBytes (e.words.drop 4) ++ payload

/-- The peer of a command: a rank of its job, or a storage server. -/
def Entry.peer (e : Entry) : Nat := if e.kind = 4 then serverPeer e.job e.server else rankPeer e.job e.dev

/-- Hands a command, or a part of it, to its endpoint (R257, R282): a peer device over the fabric, or an object of a storage
server or a window of the processor chiplet, which lies on the device and needs no packets. -/
def State.sendCmd (s : State) (cls : Nat) (e : Entry) (part : Nat) (payload : List Byte) : State :=
  if e.kind = 5 then s.send (.endpoint e.kind e.endpoint (e.body payload))
  else if e.kind = 4 then
    (s.send (.endpoint e.kind e.endpoint (e.body payload))).transmitPart cls e.peer e.id part (e.body payload).length
  else s.say cls e.peer e.id part (e.body payload)

/-! ## Bursts (R271) -/

/-- KIND 1: the tile lies in this device's memory. -/
def Entry.localRead (e : Entry) : Bool := decide (e.qid < 64)

/-- Row, column and length in its row of a group of a tile. -/
def Entry.groupAt (e : Entry) (g : Nat) : Nat × Nat × Nat :=
  let (_, rowb, n, _) := e.hreadShape
  let col := 16 * (g % n)
  (g / n, col, if rowb - col < 16 then rowb - col else 16)

/-- The groups of a burst. -/
def Entry.burstGroups (e : Entry) (b : Nat) : List Nat :=
  let (rows, _, n, _) := e.hreadShape
  (List.range (if rows * n - 32 * b < 32 then rows * n - 32 * b else 32)).map (32 * b + ·)

/-- Pads a group to 16 bytes with zeros (R64). -/
def padGroup (n : Nat) (l : List Byte) : List Byte := l.take n ++ List.replicate (16 - (l.take n).length) 0

/-- Reads the groups of a local burst. -/
def State.readGroups (s : State) (e : Entry) : List Nat → State × EngRes (List Byte)
  | [] => (s, .ok [])
  | g :: r =>
    let (row, col, n) := e.groupAt g
    let src := e.word 4 + 2 ^ 32 * e.word 5
    match s.cmdRead e src (src + row * e.word 7 + col) n with
    | (s, .ok l) =>
      match State.readGroups s e r with
      | (s, .ok ls) => (s, .ok (padGroup n l ++ ls))
      | (s, x) => (s, x)
    | (s, .perm x) => (s, .perm x)
    | (s, .miss m) => (s, .miss m)
    | (s, .poisoned x) => (s, .poisoned x)

/-- The physical core that runs the drips of a handler read. -/
def State.dripCore (s : State) (e : Entry) : Nat :=
  match s.unit e.unit with
  | some u => u.cores.getD (fieldN (e.word 9) 25 3) noCore
  | none => noCore

/-- A burst that has not arrived, been born or failed, and waits for no page. -/
def State.burstNew (s : State) (e : Entry) (b : Nat) : Bool :=
  decide (b < e.progress.headD 0) && !(e.retired.contains b) && !(e.failed.contains b) && !(e.held.contains b) &&
    !(s.bursts.any fun x => x.entry == e.id && x.burst == b) &&
    !(s.crews.any fun c => c.drip.any fun d => d.entry == e.id && d.burst == b)

/-- A block with a pre-emption pending fetches no further bursts (R263). -/
def State.heldUnit (s : State) (unit : Nat) : Bool :=
  s.crews.any fun c => c.unit == unit && c.drip.isNone && (c.course == .requested || c.course == .saving)

/-- A burst is asked of another device or of a server. -/
def State.askBurst (s : State) (e : Entry) (b : Nat) : State :=
  (s.sendCmd clsRud e b (leBytes 4 b)).onEntry e.id fun e => { e with asked := b :: e.asked.filter (· != b) }

/-- The drip queue of a core holds its 64 bursts (R272). -/
def State.dripsFull (s : State) (core : Nat) : Bool := decide ((s.bursts.filter fun x => x.core == core).length ≥ 64)

/-- Bursts are fetched: of a local tile the next one, of another all that have not been asked for; none while the drip queue
of their core is full (R272). -/
def State.fetchNext (s : State) (id : Nat) : State :=
  match s.entry id with
  | none => s
  | some e =>
    if s.heldUnit e.unit || s.dripsFull (s.dripCore e) then s
    else if e.localRead then match (List.range (e.progress.headD 0)).find? (s.burstNew e) with
      | some b => s.arm (.hreadBurstArrive id b [])
      | none => s
    else ((List.range (e.progress.headD 0)).filter fun b => s.burstNew e b && !e.asked.contains b).foldl (fun s b => s.askBurst e b) s

/-- A handler read reaches the head of its queue: its bursts are counted and fetched (R271, R272). -/
def State.startHread (s : State) (e : Entry) : State :=
  let (_, _, _, nb) := e.hreadShape
  let s := s.onEntry e.id fun e => { e with phase := .running, progress := if e.progress.isEmpty then [nb, 0] else e.progress }
  s.fetchNext e.id

/-- A burst has failed finally: it is never born (R273). -/
def State.burstFailed (s : State) (id b status reason : Nat) : State :=
  ((s.onEntry id fun e => { e with
    failed := e.failed ++ [b]
    held := e.held.filter (· != b)
    status := if e.failed.isEmpty then status else e.status
    fault := if e.failed.isEmpty then BitVec.ofNat 32 reason else e.fault }).fetchNext id).hreadCheck id

/-- A burst's fetch has failed: again alone, or finally (R262, R273). -/
def State.burstError (s : State) (id b status reason : Nat) (final : Bool) : State :=
  match s.entry id with
  | none => s
  | some e =>
    if !s.burstNew e b then s
    else if final || (status = stMemError && e.retries ≥ 3) then s.burstFailed id b status reason
    else
      let s := if status = stMemError then s.onEntry id fun e => { e with retries := e.retries + 1 } else s
      let s := s.onEntry id fun e => { e with asked := e.asked.filter (· != b) }
      if s.heldUnit e.unit then s else if e.localRead then s.arm (.hreadBurstArrive id b []) else s.askBurst e b

/-- A whole burst enters the drip queue of its core (R272). -/
def State.queueBurst (s : State) (e : Entry) (b : Nat) (bytes : List Byte) : State :=
  let core := s.dripCore e
  let s := (State.fetchNext { s with bursts := s.bursts ++ [(⟨e.id, b, core, bytes⟩ : Burst)] } e.id)
  (List.range 4).foldl (fun s q => s.arm (.dripBirth core q)) s

/-- HREAD_BURST_ARRIVE (R272). A burst arrives whole and enters the drip queue. -/
def execHreadBurstArrive (entry burst : Nat) (bytes : List Byte) (s : State) : Out :=
  match s.entry entry with
  | none => .next s
  | some e =>
    if e.cmd != .hread || e.phase != .running || !s.burstNew e burst || !(e.localRead || e.asked.contains burst) then .next s
    else if s.dripsFull (s.dripCore e) then .next (s.arm (.hreadBurstArrive entry burst bytes))
    else if e.localRead then
      match s.readGroups e (e.burstGroups burst) with
      | (s, .ok l) => .next (s.queueBurst e burst l)
      | (s, .perm x) => .next (s.burstFailed entry burst stPermFault x)
      | (s, .poisoned x) => .next (s.burstFailed entry burst stMemError x)
      | (s, .miss m) =>
        -- this burst waits for its pages; the others go on (R273, R374)
        .next (((s.engineWait entry m).onEntry entry fun e => { e with held := burst :: e.held }).fetchNext entry)
    else
      let part := fun (i g : Nat) => padGroup (e.groupAt g).2.2 ((bytes.drop (16 * i)).take 16)
      .next (s.queueBurst e burst (((e.burstGroups burst).zipIdx).flatMap fun p => part p.2 p.1))

/-- HREAD_BURST_FETCH_FAIL (R273). A failed burst fetch is retried alone or fails finally. -/
def execHreadBurstFetchFail (entry burst status reason : Nat) (final : Bool) (s : State) : Out :=
  match s.entry entry with
  | none => .next s
  | some e =>
    if e.cmd != .hread || e.phase == .queued || e.phase == .saved then .next s else .next (s.burstError entry burst status reason final)

/-! ## Drips (R70, R272) -/

/-- The thread of lane `i` of a drip. -/
def dripThread (e : Entry) (b : Burst) (entryPc : Word) (i : Nat) : Thread :=
  let g := e.groupAt (32 * b.burst + i)
  let t : Thread := { Thread.init i entryPc with
    set := 0
    bc1 := BitVec.ofNat 32 g.1
    bc2 := BitVec.ofNat 32 g.2.1 }
  (List.range 4).foldl (fun (t : Thread) j => t.setX j (wordAt b.bytes (4 * i + j))) t

/-- The drip of a burst. -/
def dripCrew (uid : Nat) (e : Entry) (u : BUnit) (h : Handler) (b : Burst) (core quarter : Nat) : Crew :=
  { Crew.init uid with
    unit := u.uid
    launch := u.launch
    world := e.world
    core
    quarter
    nregs := h.nregs
    nuregs := 0
    drip := some ⟨e.id, b.burst, BitVec.ofNat 32 (e.word 8), fieldN (e.word 9) 28 4⟩
    threads := (List.range (e.burstGroups b.burst).length).map (dripThread e b h.entry) }

/-- Drips of a quarter. -/
def State.dripsOn (s : State) (core quarter : Nat) : Nat :=
  (s.crews.filter fun c => c.drip.isSome && c.core == core && c.quarter == quarter).length

/-- The oldest burst in a core's drip queue. -/
def State.oldestBurst (s : State) (core : Nat) : Option (Burst × Entry) :=
  s.bursts.findSome? fun b => if b.core != core then none else (s.entry b.entry).map fun e => (b, e)

/-- The drip queue of a core has room again: its handler reads go on with their fetches (R272). -/
def State.refetch (s : State) (core : Nat) : State :=
  (s.entries.filter fun e => e.cmd == .hread && e.phase == .running && s.dripCore e == core).foldl (fun s e => s.fetchNext e.id) s

/-- DRIP_BIRTH (R272). The oldest queued burst is born as a drip when a slot frees. -/
def execDripBirth (core quarter : Nat) (s : State) : Out :=
  if s.dripsOn core quarter ≥ 2 then .next s
  else match s.oldestBurst core with
    | none => .next s
    | some (b, e) =>
      match s.unit e.unit with
      | none => .next s
      | some u =>
        match ((s.launch e.world u.launch).bind fun l => l.desc.handlers[fieldN (e.word 9) 28 4]?) with
        | none => .next s
        | some h =>
          let (uid, s) := s.fresh
          .next ((State.onEntry { s with
              bursts := s.bursts.filter fun x => !(x.entry == b.entry && x.burst == b.burst)
              crews := s.crews ++ [dripCrew uid e u h b core quarter] } e.id
            fun e => { e with born := e.born ++ [b.burst] }).refetch core)

end Sys2Proof.Machine
end

