-- ==== Sys2Proof/Machine/Exchange.lean ====
section
/-! DEFINITION. The router and exchange engines: router sort, group collectives, remote memory access (R275 to R285,
R407 to R409). -/

namespace Sys2Proof.Machine

/-! ## Findings of an exchange command -/

/-- Reason words: MEM_ERROR by link integrity, TIMEOUT by fabric transport or by a storage server (R260). -/
def linkIntegrity : Nat := 3
def byTransport : Nat := 1
def byServer : Nat := 2

/-- The answer of an engine range to a command that has nothing to undo: a missing page is waited for, and the same step
is taken again; a fault ends the command with the bytes it has moved, and a group collective withdraws (R259, R262, R277). -/
def State.engEnd (s : State) (id : Nat) (status reason : Nat) : State :=
  match s.entry id with
  | none => s
  | some e => (s.withdraw e).finishEntry id status reason e.redFlags e.moved 0

def State.engAgain {α : Type} (s : State) (id : Nat) (ev : Event) (r : EngRes α) (go : State → α → State) : State :=
  match r with
  | .ok v => go s v
  | .perm x => s.engEnd id stPermFault x
  | .poisoned x => s.engEnd id stMemError x
  | .miss m => (s.engineWait id m).arm ev

/-- An address of words `i`, `i + 1`. -/
def Entry.gen (e : Entry) (i : Nat) : Nat := e.word i + 2 ^ 32 * e.word (i + 1)

/-- The bytes at an address in a space (R264). -/
def State.readAt (s : State) (e : Entry) (spad : Bool) (mode a n : Nat) : State × EngRes (List Byte) :=
  s.readRow e ⟨spad, a, 0, mode⟩ 0 n

/-- Several ranges, in order. -/
def State.readAll (s : State) (e : Entry) : List (Bool × Nat × Nat) → State × EngRes (List (List Byte))
  | [] => (s, .ok [])
  | (spad, a, n) :: r =>
    match s.readAt e spad 0 a n with
    | (s, .ok l) =>
      match State.readAll s e r with
      | (s, .ok ls) => (s, .ok (l :: ls))
      | (s, x) => (s, x)
    | (s, .perm x) => (s, .perm x)
    | (s, .miss m) => (s, .miss m)
    | (s, .poisoned x) => (s, .poisoned x)

/-- Writes several ranges once every one of them may be written; each is part of the range of the command that `rg` names. -/
def State.writeAll (s : State) (e : Entry) (l : List (Bool × Nat × Nat × List Byte)) : State × EngRes Unit :=
  match s.probe e (l.filterMap fun p => if p.1 then none else some (p.2.1, p.2.2.1, p.2.2.2.length, .write)) with
  | (s, .ok _) => (l.foldl (fun s p =>
      if p.1 then (s.writeRow e ⟨true, p.2.2.1, 0, 0⟩ 0 p.2.2.2).1 else (s.cmdWrite e p.2.1 p.2.2.1 p.2.2.2).1) s, .ok ())
  | (s, x) => (s, x)

/-- A step of a command that is no longer to be taken now: it waits for its page, or is none of this kind. -/
def State.engineReady (s : State) (id : Nat) (cmd : Cmd) : Option Entry :=
  (s.entry id).bind fun e => if e.phase == .running && e.cmd == cmd then some e else none

/-- The step is repeated while its command waits for a page. -/
def State.engineHeld (s : State) (id : Nat) (ev : Event) : State :=
  match s.entry id with
  | some e => if e.phase == .waitPage then s.arm ev else s
  | none => s

/-! ## Router sort (R276) -/

/-- A number of two bytes of a table. -/
def half (l : List Byte) (i : Nat) : Nat := leNat ((l.drop (2 * i)).take 2)

/-- What the router writes, or the lowest failing index (R276). -/
def routerSort (t k e ndev tokb : Nat) (tok map : List Byte) : Except Nat (List Byte × List Byte × List Byte × List Byte × Nat) :=
  let idx := List.range (t * k)
  let valid := fun i => half tok i != 0xFFFF
  let fails := fun i => valid i && (decide (half tok i ≥ e) || decide (half map (half tok i) ≥ ndev))
  match idx.find? fails with
  | some i => .error i
  | none =>
    let sorted := (List.range e).flatMap fun x => idx.filter fun i => half tok i == x
    let counts := (List.range e).map fun x => (idx.filter fun i => half tok i == x).length
    let perm := sorted.map (fun i => i / k * 8 + i % k) ++ List.replicate (t * k - sorted.length) 0xFFFFFFFF
    let offs := (List.range e).map fun x => (counts.take x).sum
    let dbytes := (List.range ndev).map fun d =>
      tokb * ((counts.zipIdx.filter fun p => half map p.2 == d).map (·.1)).sum
    .ok (perm.flatMap (leBytes 4), counts.flatMap (leBytes 4), offs.flatMap (leBytes 4), dbytes.flatMap (leBytes 8),
      sorted.length)

/-- XSORT_COMPLETE (R276). The router writes PERM, COUNTS, OFFS and DBYTES or DATA_ERROR. -/
def execXsortComplete (entry : Nat) (s : State) : Out :=
  match s.engineReady entry .xsort with
  | none => .next (s.engineHeld entry (.xsortComplete entry))
  | some e =>
    let k := fieldN (e.word 8) 28 4
    let t := fieldN (e.word 8) 0 17
    let n := fieldN (e.word 9) 0 11
    let nd := fieldN (e.word 10) 0 13
    let sp := fun i => bitN (e.word 14) i
    let a := fun (i j : Nat) => e.addr (sp j) i
    let (s, r) := s.readAll e [(sp 0, a 4 0, 2 * t * k), (sp 2, a 6 2, 2 * n)]
    .next (s.engAgain entry (.xsortComplete entry) r fun s ls =>
      match routerSort t k n nd (e.word 11) (ls.getD 0 []) (ls.getD 1 []) with
      | .error i => s.finishEntry entry stDataError i 0 0 0
      | .ok (perm, counts, offs, dbytes, l) =>
        let parts := (xsortParts t k n nd).zip [perm, counts, offs, dbytes]
        let (s, r) := s.writeAll e (parts.map fun p => (sp 4, a 12 4 + p.1.1, a 12 4 + p.1.1, p.2))
        s.engAgain entry (.xsortComplete entry) r fun s _ => s.finishEntry entry stDone 0 l 0 0)

/-! ## Groups (R277, R281, R409) -/

/-- Kinds of group collective. -/
def Cmd.groupKind (c : Cmd) : Nat :=
  match c with
  | .a2av => 0
  | .areduce => 1
  | _ => 2

/-- COUNT and OP of a reduction, as one number. -/
def Entry.countOp (e : Entry) : Nat := e.word 8 + 2 ^ 32 * fieldN (e.word 9) 0 4

/-- The smallest power of two that is at least `n`. -/
def pow2Up (n : Nat) : Nat := ((List.range 14).find? fun k => decide (n ≤ 2 ^ k)).elim (2 ^ 14) fun k => 2 ^ k

/-- One switch entry: SWID, PARENT, bits [31:24], LO, SPAN (R409). -/
structure SwEntry where
  swid : Nat
  parent : Nat
  rsv : Nat
  lo : Nat
  span : Nat
  deriving DecidableEq, Repr

def swEntry (b : List Byte) : SwEntry :=
  let n := leNat b
  ⟨fieldN n 0 16, fieldN n 16 8, fieldN n 24 8, fieldN n 32 16, fieldN n 48 16⟩

/-- Entries of a group's switch tree; none where they cannot be read. -/
def State.switches (s : State) (wn : Nat) (b : List Byte) : List SwEntry :=
  let n := fieldN (natAt b 1) 0 6
  if n = 0 then [] else ((s.devRead wn (nat64At b 4) (8 * n)).map fun l => (entriesOf 8 l).map swEntry).getD []

/-- Two spans are nested or disjoint. -/
def SwEntry.fits (x y : SwEntry) : Bool :=
  decide (x.lo + x.span ≤ y.lo) || decide (y.lo + y.span ≤ x.lo) ||
    (decide (x.lo ≤ y.lo) && decide (y.lo + y.span ≤ x.lo + x.span)) ||
    (decide (y.lo ≤ x.lo) && decide (x.lo + x.span ≤ y.lo + y.span))

/-- Whether switch entry `i` breaks a rule of R409, given the entries and P′. -/
def swBad (l : List SwEntry) (p' i : Nat) (x : SwEntry) : Bool :=
  x.rsv ≠ 0 || decide (x.span < 2) || pow2Up x.span ≠ x.span || x.lo % (if x.span = 0 then 1 else x.span) ≠ 0 ||
    (l.take i).any (fun y => !(x.fits y)) ||
    (if x.parent = 0xFF then x.lo ≠ 0 || x.span ≠ p' || (l.take i).any (·.parent == 0xFF)
     else match l[x.parent]? with
      | some y => decide (x.parent = i) || !(decide (y.lo ≤ x.lo) && decide (x.lo + x.span ≤ y.lo + y.span))
      | none => true)

/-- The first index at which a group entry breaks R409. -/
def State.groupBad (s : State) (wn : Nat) (b : List Byte) (ranks : List Nat) : Option Nat :=
  let p := fieldN (natAt b 0) 0 13
  let nsw := fieldN (natAt b 1) 0 6
  if fieldN (natAt b 0) 13 19 ≠ 0 || fieldN (natAt b 1) 6 26 ≠ 0 || natAt b 6 ≠ 0 || natAt b 7 ≠ 0 || p = 0 ||
    decide (p > 4096) then some 0
  else match ranks.zipIdx.find? fun r => (ranks.take r.2).contains r.1 with
    | some r => some r.2
    | none =>
      if nsw = 0 then none
      else
        let l := s.switches wn b
        if l.length ≠ nsw then some 0
        else match l.zipIdx.find? fun x => swBad l (pow2Up p) x.2 x.1 with
          | some x => some x.2
          | none => if l.any (·.parent == 0xFF) then none else some 0

/-- STATE of a lease (R417). -/
def lsNone : Nat := 0
def lsAttesting : Nat := 1
def lsLeased : Nat := 2
def lsExpired : Nat := 3
def lsRefused : Nat := 4

/-- The path of an areduce instance and its fallback, as reason + 256 x tree index (R280, R281). -/
def State.choosePath (s : State) (wn : Nat) (b : List Byte) (op p : Nat) (noInnet : Bool) : Nat × Nat :=
  let ends := if op = 1 || op = 2 || pow2Up p = p then 2 else 3
  let l := s.switches wn b
  if noInnet || l.isEmpty then (ends, 1)
  else if (capWord 5).toNat % 2 = 0 then (ends, 2)
  else
    let (leases, clock) := match s.world wn with
      | some w => (w.fab.leases, s.plat.secClock)
      | none => ([], 0)
    let lease := fun (x : SwEntry) => leases.find? fun e => e.swid == x.swid && e.st == lsLeased && decide (e.expiry > clock)
    match l.zipIdx.find? fun x => match lease x.1 with
        | some e => decide (e.expiry < clock + 10000)
        | none => true with
    | some x => (ends, (if (lease x.1).isSome then 4 else 3) + 256 * x.2)
    | none => (1, 0)

/-- The leases of a group's switches, whose keys an instance on PATH 1 uses (R418). -/
def State.leasesOf (s : State) (wn : Nat) (b : List Byte) : List Nat :=
  match s.world wn with
  | none => []
  | some w => (s.switches wn b).filterMap fun x => (w.fab.leases.find? fun e => e.swid == x.swid).map (·.leaseNo)

/-- The lease authority attests every switch of a group's tree that has no lease and none under way (R416). -/
def State.attestTree (s : State) (wn : Nat) (b : List Byte) : State :=
  match s.world wn with
  | none => s
  | some w =>
    if !w.isAuthority then s
    else ((s.switches wn b).filter fun x => match w.fab.leases.find? (·.swid == x.swid) with
        | some l => l.st == lsNone || l.st == lsExpired
        | none => true).foldl (fun s x => s.arm (.leaseRenewalDue wn x.swid)) s

/-- The same for every group of a world, as its group table is set. -/
def State.attestTrees (s : State) (wn : Nat) : State :=
  match s.world wn with
  | none => s
  | some w =>
    if !w.isAuthority then s
    else (List.range w.fab.ngrp).foldl (fun s g => match s.groupEntry wn g with
      | some (b, _) => s.attestTree wn b
      | none => s) s

/-- A group collective reaches the head of its queue: it joins its instance, or ends at once (R277). -/
def State.startGroup (s : State) (e : Entry) : State :=
  match s.groupOf e.world e.group with
  | none => s.finishEntry e.id stDataError 0xFFFFFFFF 0 0 0
  | some (b, rs, _) =>
    let e := { e with phase := .running, img := b ++ rs.flatMap (leBytes 2) }
    let s := (s.touchGroup e.world e.group).devTouch e.world (nat64At b 4) (8 * fieldN (natAt b 1) 0 6)
    let s := (s.onEntry e.id fun _ => e).attestTree e.world b
    if rs.length = 1 then s.arm (.groupInstanceBegin e.id [] [] [] 0 0)
    else s.toRanks clsRod e (leBytes 1 sayJoin ++ leBytes 1 e.cmd.groupKind ++ leBytes 8 e.countOp ++
      leBytes 1 (if bitN (e.word 9) 4 then 1 else 0))

/-- The group of a running instance is no longer the one that it began with (R277). -/
def State.groupChanged (s : State) (e : Entry) : Bool :=
  match s.groupOf e.world e.group with
  | some (b, rs, _) => b ++ rs.flatMap (leBytes 2) != e.img
  | none => true

/-- The value of rank `r` in a list of every rank's, this device's own put in. -/
def ownIn {α : Type} (l : List α) (me : Nat) (own d : α) (p : Nat) : List α :=
  (List.range p).map fun r => if r = me then own else l.getD r d

/-- A gang instance has begun: the issuer sends the prepare to every rank, its own among them (R292). R292 does not say which
rank is the issuer: it is group rank 0 (log entry 24, DESIGN CHOICE). -/
def State.gangStarted (s : State) (e : Entry) (me : Nat) : State :=
  let ldesc := e.word 4 + 2 ^ 32 * e.word 5
  let tick := e.word 6 + 2 ^ 32 * e.word 7
  if me = 0 then
    (s.toRanks clsGang e (leBytes 1 sayPrepare ++ leBytes 8 ldesc ++ leBytes 8 tick ++ leBytes 1 (fieldN (e.word 8) 0 6))).arm
      (.gangPrepare e.world ldesc tick (fieldN (e.word 8) 0 6) (s.ownRank e.world))
  else s

/-- Bytes of this rank's SMETA: what it sends to each rank (R278). -/
def State.readMeta (s : State) (e : Entry) (p : Nat) : State × EngRes (List Byte) := s.cmdRead e (e.gen 6) (e.gen 6) (16 * p)

/-- Step 1 of an a2av instance: this rank's counts go to every rank (R279). -/
def State.a2avStarted (s : State) (e : Entry) (p : Nat) (ev : Event) : State :=
  if p = 1 then s.arm (.a2avCountExchange e.id [])
  else
    let (s, r) := s.readMeta e p
    s.engAgain e.id ev r fun s l => (s.onEntry e.id fun e => { e with progress := [1] }).toRanks clsRod e
      (leBytes 1 sayCounts ++ leBytes 4 (e.word 3) ++ leBytes 8 (e.gen 10) ++ l)

/-- The switch of a tree with the smallest span that holds a group rank (R409). -/
def switchOf (l : List SwEntry) (me : Nat) : Option SwEntry :=
  pickBy (fun (x y : SwEntry) => decide (x.span < y.span)) (l.filter fun x => decide (x.lo ≤ me) && decide (me < x.lo + x.span))

/-- What this rank contributes to an areduce leaves it (R281): to its switch of the tree on PATH 1, to the rank that it meets
first in recursive halving on PATH 2, to the next rank of the ring on PATH 3. Each message holds a whole vector: how halving
and ring divide it is not stated and changes no result (log entry 24, DESIGN CHOICE). -/
def State.contribute (s : State) (e : Entry) (b : List Byte) (rs : List Nat) (me path : Nat) (l : List Byte) : State :=
  let say := leBytes 1 sayPart ++ leBytes 2 me ++ l
  if path = 1 then match switchOf (s.switches e.world b) me with
    | some x =>
      let body := leBytes 4 e.group ++ leBytes 4 e.inst ++ say
      (s.send (.switch x.swid body)).transmitPart clsRud (switchPeer e.job x.swid) e.id 0 body.length
    | none => s
  else match rs[if path = 2 then me ^^^ 1 else (me + 1) % rs.length]? with
    | some r => s.toRank clsRud e r say
    | none => s

/-- An areduce instance has begun: group rank 0 has chosen its path and tells every rank; each rank contributes (R281). -/
def State.areduceStarted (s : State) (e : Entry) (b : List Byte) (rs : List Nat) (me pa fb : Nat) (ev : Event) : State :=
  if rs.length = 1 then
    (s.onEntry e.id fun e => { e with progress := [1], path := pa, aux := BitVec.ofNat 32 (fb * 256) }).arm (.areduceComplete e.id [])
  else
    let (s, r) := s.cmdRead e (e.gen 4) (e.gen 4) (4 * e.word 8)
    s.engAgain e.id ev r fun s l =>
      let s := s.onEntry e.id fun e => { e with
        progress := [1]
        path := pa
        leases := if pa = 1 then s.leasesOf e.world b else []
        aux := BitVec.ofNat 32 (fb * 256) }
      let s := if me = 0 then s.toRanks clsRod e (leBytes 1 sayPath ++ leBytes 1 pa ++ leBytes 4 fb) else s
      s.contribute e b rs me pa l

/-- GROUP_INSTANCE_BEGIN (R277). A group collective begins once every rank issued; kinds matched. -/
def execGroupInstanceBegin (entry : Nat) (kinds counts noinnets : List Nat) (path fallback : Nat) (s : State) : Out :=
  let ev := Event.groupInstanceBegin entry kinds counts noinnets path fallback
  match s.entry entry with
  | none => .next s
  | some e =>
    let coll := e.cmd == .a2av || e.cmd == .areduce || e.cmd == .gang
    if coll && e.phase == .waitPage then .next (s.arm ev)
    else if e.phase != .running || !coll || !e.progress.isEmpty then .next s
    else match s.groupOf e.world e.group with
      | none => .next (s.finishEntry entry stMismatch 3 0 0 0)
      | some (b, rs, me) =>
        let p := rs.length
        let ks := ownIn kinds me e.cmd.groupKind e.cmd.groupKind p
        let cs := ownIn counts me e.countOp e.countOp p
        let nn := ownIn noinnets me (if bitN (e.word 9) 4 then 1 else 0) 0 p
        if s.groupChanged e then .next (s.finishEntry entry stMismatch 3 0 0 0)
        else match s.groupBad e.world b rs with
          | some i => .next (s.finishEntry entry stDataError i 0 0 0)
          | none =>
            if ks.any (· != e.cmd.groupKind) then .next (s.finishEntry entry stMismatch 1 0 0 0)
            else if e.cmd == .areduce && cs.any (· != e.countOp) then .next (s.finishEntry entry stMismatch 2 0 0 0)
            else .next (match e.cmd with
              | .a2av => (if p = 1 then s.onEntry entry fun e => { e with progress := [1] } else s).a2avStarted e p ev
              | .areduce =>
                let (pa, fb) := if me = 0 then s.choosePath e.world b (fieldN (e.word 9) 0 4) p (nn.any (· != 0)) else (path, fallback)
                s.areduceStarted e b rs me pa fb ev
              | _ => (s.onEntry entry fun e => { e with progress := [1] }).gangStarted e me)

/-- GROUP_WITHDRAWAL (R277). A rank's withdrawal ends the instance CANCELLED at the other ranks. -/
def execGroupWithdrawal (entry rank : Nat) (s : State) : Out :=
  match s.entry entry with
  | none => .next s
  | some e =>
    if (e.cmd == .a2av || e.cmd == .areduce || e.cmd == .gang) && e.phase != .queued && e.phase != .saved && e.fin.isNone then
      .next (((s.dropGangs e).dropWaiter (.engine entry)).finishEntry entry stCancelled (0x80000000 + rank) 0 0 0)
    else .next s

/-! ## All to all (R278, R279) -/

/-- SLEN16 and RWLEN of a rank, then its displacement and count for each rank. -/
structure SendMeta where
  slen : Nat
  rwlen : Nat
  parts : List (Nat × Nat)
  deriving DecidableEq, Repr

def pairsOf : List Nat → List (Nat × Nat)
  | a :: b :: r => (a, b) :: pairsOf r
  | _ => []

def SendMeta.of (l : List Nat) : SendMeta := ⟨l.getD 0 0, l.getD 1 0, pairsOf (l.drop 2)⟩

/-- The lowest bad entry of a rank (R279). -/
def SendMeta.bad (m : SendMeta) (p : Nat) : Option Nat :=
  (List.range p).find? fun r =>
    let (d, n) := m.parts.getD r (0, 0)
    d % 16 ≠ 0 || n % 16 ≠ 0 || decide (d + n > 16 * m.slen)

/-- Bytes that rank `r` sends to rank `to`. -/
def sentTo (ms : List SendMeta) (r dst : Nat) : Nat := ((ms.getD r ⟨0, 0, []⟩).parts.getD dst (0, 0)).2

/-- Offsets and counts of what rank `me` receives. -/
def received (ms : List SendMeta) (me : Nat) : List (Nat × Nat) :=
  (List.range ms.length).map fun r => (((List.range r).map fun q => sentTo ms q me).sum, sentTo ms r me)

/-- What every rank concludes from the counts: DATA_ERROR, OVERFLOW, or none (R279). -/
def countVerdict (ms : List SendMeta) : Option (Nat × Nat) :=
  let p := ms.length
  match (ms.zipIdx).findSome? fun m => (m.1.bad p).map fun i => m.2 * 65536 + i with
  | some f => some (stDataError, f)
  | none =>
    (ms.zipIdx.find? fun m => decide (((List.range p).map fun r => sentTo ms r m.2).sum > m.1.rwlen)).map fun m => (stOverflow, m.2)

/-- The parts of the send buffer, in rank order. -/
def State.readParts (s : State) (e : Entry) : List (Nat × Nat) → State × EngRes (List (List Byte))
  | [] => (s, .ok [])
  | (d, n) :: r =>
    match s.cmdRead e (e.gen 4) (e.gen 4 + d) n with
    | (s, .ok l) =>
      match State.readParts s e r with
      | (s, .ok ls) => (s, .ok (l :: ls))
      | (s, x) => (s, x)
    | (s, .perm x) => (s, .perm x)
    | (s, .miss m) => (s, .miss m)
    | (s, .poisoned x) => (s, .poisoned x)

/-- Offset, count and whether placed of each sender's part. -/
def triplesOf : List Nat → List (Nat × Nat × Nat)
  | a :: b :: c :: r => (a, b, c) :: triplesOf r
  | _ => []

/-- A part that an entry sent is not yet placed: its packet is not acknowledged. -/
def State.unplaced (s : State) (id : Nat) : Bool :=
  s.plat.peers.any fun p => p.2.unacked.any fun x => x.owner == id && x.cls == clsRud

/-- The record of an a2av, once every part received and every part sent is placed (R279). -/
def State.a2avCheck (s : State) (id : Nat) : State :=
  match s.entry id with
  | none => s
  | some e =>
    match e.cmd, e.progress with
    | .a2av, 2 :: sent :: parts =>
      if e.phase == .running && (triplesOf parts).all (·.2.2 == 1) && !s.unplaced id then s.finishEntry id stDone 0 0 sent 0 else s
    | _, _ => s

/-- A2AV_COUNT_EXCHANGE (R279). SMETA counts arrive; offsets computed, or DATA_ERROR or OVERFLOW. -/
def execA2avCountExchange (entry : Nat) (metas : List (List Nat)) (s : State) : Out :=
  let ev := Event.a2avCountExchange entry metas
  match s.engineReady entry .a2av with
  | none => .next (s.engineHeld entry ev)
  | some e =>
    if e.progress != [1] then .next s
    else if s.groupChanged e then .next (s.finishEntry entry stMismatch 3 0 0 0)
    else match s.groupOf e.world e.group with
    | some (_, rs, me) =>
      let p := rs.length
      let (s, r) := s.readMeta e p
      .next (s.engAgain entry ev r fun s l =>
        let own : SendMeta := ⟨e.word 3, e.gen 10, (entriesOf 16 l).map fun x => (nat64At x 0, nat64At x 2)⟩
        let ms := ownIn (metas.map SendMeta.of) me own ⟨0, 0, []⟩ p
        match countVerdict ms with
        | some (st, f) => s.finishEntry entry st f 0 0 0
        | none =>
          let got := received ms me
          let rmeta := got.flatMap fun x => leBytes 8 x.1 ++ leBytes 8 x.2
          let (s, r) := s.readParts e own.parts
          s.engAgain entry ev r fun s ls =>
            let (s, r) := s.writeAll e [(false, e.gen 12, e.gen 12, rmeta)]
            s.engAgain entry ev r fun s _ =>
              let sent := (own.parts.map (·.2)).sum
              let s := s.onEntry entry fun e => { e with progress := 2 :: sent :: got.flatMap fun x => [x.1, x.2, 0] }
              let s := (ls.zipIdx.filter fun x => x.2 != me && !x.1.isEmpty).foldl
                (fun s x => s.toRank clsRud e (rs.getD x.2 0) (leBytes 1 sayPart ++ leBytes 2 me ++
                  leBytes 8 ((received ms x.2).getD me (0, 0)).1 ++ x.1)) s
              (got.zipIdx.filter fun x => x.2 == me || x.1.2 == 0).foldl
                (fun s x => s.arm (.a2avPartPlaced entry x.2 (if x.2 == me then ls.getD me [] else []))) s)
    | none => .next s

/-- A2AV_PART_PLACED (R279). A sender's data is placed and PEERDONE incremented; record when all placed. -/
def execA2avPartPlaced (entry sender : Nat) (bytes : List Byte) (s : State) : Out :=
  let ev := Event.a2avPartPlaced entry sender bytes
  match s.engineReady entry .a2av with
  | none => .next (s.engineHeld entry ev)
  | some e =>
    match e.progress, (triplesOf (e.progress.drop 2))[sender]? with
    | 2 :: _ :: _, some (off, n, placed) =>
      if placed ≠ 0 || bytes.length ≠ n then .next s
      else if s.groupChanged e then .next (s.finishEntry entry stMismatch 3 0 0 0)
      else
        let done := e.gen 14 + 4 * sender
        let (s, r) := s.cmdRead e (e.gen 14) done 4
        .next (s.engAgain entry ev r fun s l =>
          let (s, r) := s.writeAll e ((if n = 0 then [] else [(false, e.gen 8, e.gen 8 + off, bytes)]) ++
            [(false, e.gen 14, done, leBytes 4 ((leNat l + 1) % 2 ^ 32))])
          s.engAgain entry ev r fun s _ =>
            (s.onEntry entry fun e => { e with progress := e.progress.set (2 + 3 * sender + 2) 1 }).a2avCheck entry)
    | _, _ => .next s

/-! ## All reduce (R280) -/

/-- The operation of an areduce and its identity (R189, R280). -/
def areduceOp (op : Nat) : (Word → Word → Word × Flags) × Word :=
  match op with
  | 0 => (fun a b => (a + b, 0), 0)
  | 1 => (fun a b => setF32 .fadd a b 0, 0x80000000)
  | 2 => (fun a b => setFPacked fmtBF16 .fadd a b 0, 0x80008000)
  | 3 => (fun a b => setF32 .fmin a b 0, 0x7F800000)
  | 4 => (fun a b => setF32 .fmax a b 0, 0xFF800000)
  | 5 => (fun a b => setI .minS a b, 0x7FFFFFFF)
  | _ => (fun a b => setI .maxS a b, 0x80000000)

/-- One level of the pairwise tree: neighbours meet, which are ranks `r` and `r + h`. -/
def treeLevel (f : Word → Word → Word × Flags) : List Word → List (Word × Flags)
  | a :: b :: r => f a b :: treeLevel f r
  | [a] => [(a, 0)]
  | [] => []

/-- The tree, and the flags raised anywhere in it. -/
def treeReduce (f : Word → Word → Word × Flags) : Nat → List Word → Flags → Word × Flags
  | 0, l, fl => (l.headD 0, fl)
  | n + 1, l, fl =>
    if l.length ≤ 1 then (l.headD 0, fl)
    else
      let r := treeLevel f l
      treeReduce f n (r.map (·.1)) (orFlags (fl :: r.map (·.2)))

/-- Element `i` of the result, from every rank's bytes in rank order (R280). -/
def areduceElem (op : Nat) (l : List (List Byte)) (i : Nat) : Word × Flags :=
  let (f, ident) := areduceOp op
  let v := l.map (fun b => wordAt b i) ++ List.replicate (pow2Up l.length - l.length) ident
  treeReduce f 13 v 0

/-- What an endpoint passes on of an areduce (R281): in recursive halving, to the rank that it meets at level k the partial
result of the 2^k ranks about its own; on the ring, to the next rank what each other one but that contributed. -/
def passedOn (op path me p : Nat) (ls : List (List Byte)) : List (Nat × Nat × List Byte) :=
  if path = 2 then (List.range 12).filterMap fun k =>
    let x := me ^^^ 2 ^ k
    let from_ := me / 2 ^ k * 2 ^ k
    if k = 0 || x ≥ p then none
    else
      let n := (ls.getD me []).length / 4
      some (x, from_, wordsBytes ((List.range n).map fun i => (areduceElem op ((ls.drop from_).take (2 ^ k)) i).1))
  else if path = 3 then
    (ls.zipIdx.filter fun x => x.2 != me && x.2 != (me + 1) % p).map fun x => ((me + 1) % p, x.2, x.1)
  else []

/-- These messages of an areduce go out. -/
def State.passOn (s : State) (e : Entry) (rs : List Nat) (me : Nat) (ls : List (List Byte)) : State :=
  (passedOn (fieldN (e.word 9) 0 4) e.path me rs.length ls).foldl
    (fun s x => s.toRank clsRud e (rs.getD x.1 0) (leBytes 1 sayPart ++ leBytes 2 x.2.1 ++ x.2.2)) s

/-- AREDUCE_COMPLETE (R280). The reduced bits are written and the record made. -/
def execAreduceComplete (entry : Nat) (contributions : List (List Byte)) (s : State) : Out :=
  let ev := Event.areduceComplete entry contributions
  match s.engineReady entry .areduce with
  | none => .next (s.engineHeld entry ev)
  | some e =>
    if e.progress != [1] then .next s
    else if s.groupChanged e then .next (s.finishEntry entry stMismatch 3 0 0 0)
    else match s.groupOf e.world e.group with
    | some (_, rs, me) =>
      let n := e.word 8
      let (s, r) := s.cmdRead e (e.gen 4) (e.gen 4) (4 * n)
      .next (s.engAgain entry ev r fun s l =>
        let ls := ownIn contributions me l [] rs.length
        if ls.any fun x => x.length ≠ 4 * n then s
        else
          let out := (List.range n).map (areduceElem (fieldN (e.word 9) 0 4) ls)
          let (s, r) := s.writeAll e [(false, e.gen 6, e.gen 6, wordsBytes (out.map (·.1)))]
          s.engAgain entry ev r fun s _ =>
            (s.passOn e rs me ls).finishEntry entry stDone 0 (e.aux.toNat + (orFlags (out.map (·.2))).toNat) (4 * n) e.path)
    | none => .next s

/-! ## Remote memory access (R282 to R285, R407, R408) -/

/-- Reasons of REMOTE_REFUSED (R260). -/
def rrRange : Nat := 1
def rrNoWindow : Nat := 2
def rrNoRoost : Nat := 3
def rrBusy : Nat := 4
def rrPerm : Nat := 5

/-- A window entry: BASE, LEN, flags word; `none` for a closed one (R407). -/
def State.windowEntry (s : State) (w : World) (i : Nat) : Option (Nat × Nat × Nat) :=
  if i ≥ w.fab.nwin then none
  else match s.devRead w.num (w.fab.wintab + 32 * i) 32 with
    | none => none
    | some b =>
      let f := natAt b 4
      if fieldN f 11 21 ≠ 0 || fieldN f 5 3 ≠ 0 || natAt b 5 ≠ 0 || natAt b 6 ≠ 0 || natAt b 7 ≠ 0 || !bitN f 0 then none
      else some (nat64At b 0, nat64At b 2, f)

/-- Bytes that a request touches. -/
def rmaBytes (r : RmaReq) : Nat :=
  match r.op with
  | .put l => l.length
  | .get n => n
  | .atom fn _ _ => atomSize fn
  | .flush => 0

/-- Every byte lies on a local-home, coherent, relaxed page permitted for the access (check 4 of R408). -/
def State.windowPages (s : State) (wn : Nat) (k : AccKind) (va n : Nat) : Option (List (Nat × Nat × Nat)) :=
  allSome ((pageParts va n).map fun p =>
    match (s.translate wn noCore p.1).2 with
    | some l => if l.remote || l.so || l.cls ≠ 2 || decide (regBase ≤ l.target) || (permFault k l).isSome ||
          (k.stores && s.readOnly .U (.mem (l.target + (p.1 - l.vbase))) p.2) then none
      else some (l.target + (p.1 - l.vbase), p.1, p.2)
    | none => none)

/-- What reading a window entry, and translating what it opens, leaves: malformed table entries are counted (R351). -/
def State.touchWindow (s : State) (w : World) (r : RmaReq) : State :=
  if r.window ≥ w.fab.nwin then s
  else
    let t := s.devTouch w.num (w.fab.wintab + 32 * r.window) 32
    match s.windowEntry w r.window with
    | some (base, len, f) =>
      if r.roff + rmaBytes r > len || bitN f 4 then t
      else (pageParts (base + r.roff) (rmaBytes r)).foldl (fun t p => (t.translate w.num noCore p.1).1) t
    | none => t

/-- Changes a command ring of a world. -/
def State.onRing (s : State) (wn ring : Nat) (f : CmdRing → CmdRing) : State :=
  s.onWorld wn fun w => { w with rings := tabPut w.rings CmdRing.init ring (f (tabGet w.rings CmdRing.init ring)) }

/-- A ring's TAIL is written, and its engine looks at it (R427). -/
def State.ringTail (s : State) (wn ring : Nat) (tail : Word) : State :=
  ((s.onRing wn ring fun r => { r with tail }).disarm fun (e : Event) => match e with
    | .ringDoorbell w r _ => w == wn && r == ring
    | _ => false).post (.ringDoorbell wn ring tail)

/-- What a request does at its receiver: the old bytes read, or the refusing reason (R283, R284, R408). -/
def State.rmaPerform (s : State) (r : RmaReq) : State × Except Nat (List Byte) :=
  match s.world r.world with
  | none => (s, .error rrNoWindow)
  | some w =>
    let reads := match r.op with
      | .get _ => true
      | _ => false
    if r.op == .flush then (s, .ok [])
    else if s.saving && !reads then (s, .error rrBusy)
    else
      let entry := s.windowEntry w r.window
      let s := s.touchWindow w r
      match entry with
      | none => (s, .error rrNoWindow)
      | some (base, len, f) =>
        let perm := match r.op with
          | .put _ => bitN f 1
          | .get _ => bitN f 2
          | .atom .. => bitN f 3
          | .flush => true
        if r.roff + rmaBytes r > len then (s, .error rrRange)
        else if !perm then (s, .error rrPerm)
        else if bitN f 4 then
          match r.op with
          | .atom fn v _ =>
            if r.roff = 0 && (fn == 0 || fn == 9 || fn == 15) then
              let ring := fieldN f 8 3
              let old := (tabGet w.rings CmdRing.init ring).tail
              let new := lo32 (atomFn fn (old.setWidth 64) v 0).1
              (s.ringTail r.world ring new, .ok (leBytes 4 old.toNat))
            else (s, .error rrPerm)
          | _ => (s, .error rrPerm)
        else
          let kind := match r.op with
            | .put _ => AccKind.write
            | .get _ => .read
            | .atom .. => .atom
            | .flush => .read
          match s.windowPages r.world kind (base + r.roff) (rmaBytes r) with
          | none => (s, .error rrPerm)
          | some parts =>
            let old := parts.flatMap fun p => s.loadPA p.1 p.2.2
            let s := parts.foldl (fun s p => s.useNp (kind != .read) p.1 p.2.2) s
            let put := fun (s : State) (l : List Byte) =>
              (parts.foldl (fun s p => s.forget (.mem p.1) p.2.2) s).storeParts
                (parts.map fun p => (.mem p.1, .mem p.1, p.2.1, p.2.2)) l
            match r.op with
            | .put l => (put s l, .ok [])
            | .get _ => (s, .ok old)
            | .flush => (s, .ok [])
            | .atom fn v c =>
              (put s (leBytes (atomSize fn) (atomFn fn (BitVec.ofNat 64 (leNat old)) v c).1.toNat), .ok old)

/-- RMA_REQUEST_RECEIVE (R408). The receiver checks a request against its window and places or refuses it. -/
def execRmaRequestReceive (req : RmaReq) (s : State) : Out :=
  let (s, r) := s.rmaPerform req
  .next (s.say clsRud (rankPeer (s.jobIn req.world) req.src) 0 0 (match r with
    | .ok l => leBytes 1 stDone ++ leBytes 1 0 ++ l
    | .error x => leBytes 1 stRemoteRefused ++ leBytes 1 x))

/-- The command's peer is this device. -/
def State.loopback (s : State) (e : Entry) : Bool :=
  e.kind == 2 && e.dev == s.ownRank e.world

/-- A request of this device to one of its own windows. -/
def Entry.ownReq (e : Entry) (rank : Nat) (op : RmaOp) : RmaReq := ⟨e.world, rank, fieldN e.endpoint.toNat 0 32, e.gen 6, op⟩

/-- LOC of an RMA command: its space, mode and address. -/
def Entry.loc (e : Entry) : Bool × Nat × Nat := (bitN (e.word 9) 30, fieldN (e.word 9) 27 3, e.addr (bitN (e.word 9) 30) 4)

/-- AFN and whether the old value is written. -/
def Entry.afn (e : Entry) : Nat := fieldN (e.word 9) 22 4
def Entry.rv (e : Entry) : Bool := bitN (e.word 9) 26

/-- Writes at LOC. -/
def State.writeLoc (s : State) (e : Entry) (l : List Byte) : State × EngRes Unit :=
  let (spad, mode, a) := e.loc
  s.writeRow e ⟨spad, a, 0, mode⟩ 0 l

/-- An RMA command reaches the head of its queue: its local range is translated; a request goes out, or is made of this
device's own window (R283 to R285). -/
def State.startRma (s : State) (e : Entry) : State :=
  let (spad, _, a) := e.loc
  let n := if e.cmd == .ratom then atomSize e.afn else e.word 8
  let uses := e.cmd == .rput || e.cmd == .rget || (e.cmd == .ratom && e.rv)
  let (s, r) := if spad || !uses then (s, .ok ()) else s.probe e [(a, a, n, if e.cmd == .rput then .read else .write)]
  s.engOutcome e.id r fun s =>
    let s := s.onEntry e.id fun e => { e with phase := .running }
    match e.cmd with
    | .rput => s.arm (.rputComplete e.id)
    | .rget => if s.loopback e then s.arm (.rgetComplete e.id []) else s.sendCmd clsRud e 0 []
    | .ratom => if s.loopback e then s.arm (.ratomComplete e.id 0) else s.sendCmd clsRud e 0 []
    | _ => if s.loopback e then s.arm (.rflushComplete e.id) else s.sendCmd clsRod e 0 []

/-- RPUT_COMPLETE (R283). All put bytes have left the sender; record written. The bytes are read and their packets sent
first, of which one may fail before the last has left. -/
def execRputComplete (entry : Nat) (s : State) : Out :=
  match s.engineReady entry .rput with
  | none => .next (s.engineHeld entry (.rputComplete entry))
  | some e =>
    if !e.progress.isEmpty then .next (s.finishEntry entry stDone 0 0 e.bytes 0) else
    let (spad, mode, a) := e.loc
    let (s, r) := s.readAt e spad mode a (e.word 8)
    .next (s.engAgain entry (.rputComplete entry) r fun s l =>
      if s.loopback e then
        match s.rmaPerform (e.ownReq (s.ownRank e.world) (.put l)) with
        | (s, .ok _) => s.finishEntry entry stDone 0 0 e.bytes 0
        | (s, .error x) => s.finishEntry entry stRemoteRefused x 0 0 0
      else ((s.sendCmd clsRud e 0 l).onEntry entry fun e => { e with progress := [1] }).arm (.rputComplete entry))

/-- RGET_COMPLETE (R283). All got bytes are placed at LOC; record written. -/
def execRgetComplete (entry : Nat) (bytes : List Byte) (s : State) : Out :=
  let ev := Event.rgetComplete entry bytes
  match s.engineReady entry .rget with
  | none => .next (s.engineHeld entry ev)
  | some e =>
    let (s, got) := if s.loopback e then s.rmaPerform (e.ownReq (s.ownRank e.world) (.get (e.word 8))) else (s, .ok bytes)
    match got with
    | .error x => .next (s.finishEntry entry stRemoteRefused x 0 0 0)
    | .ok l =>
      if l.length ≠ e.word 8 then .next s
      else
        let (s, r) := s.writeLoc e l
        .next (s.engAgain entry ev r fun s _ => s.finishEntry entry stDone 0 0 e.bytes 0)

/-- RATOM_COMPLETE (R284). The peer atomic's old value is written and the record follows. -/
def execRatomComplete (entry : Nat) (old : BitVec 64) (s : State) : Out :=
  let ev := Event.ratomComplete entry old
  match s.engineReady entry .ratom with
  | none => .next (s.engineHeld entry ev)
  | some e =>
    let args := atomArgs e.afn fun i => e.words.getD (10 + i) 0
    let (spad, _, a) := e.loc
    let n := atomSize e.afn
    let (s, pr) := if spad || !e.rv then (s, .ok ()) else s.probe e [(a, a, n, .write)]
    .next (s.engAgain entry ev pr fun s _ =>
      let (s, got) := if s.loopback e then s.rmaPerform (e.ownReq (s.ownRank e.world) (.atom e.afn args.1 args.2))
        else (s, .ok (leBytes n old.toNat))
      match got with
      | .error x => s.finishEntry entry stRemoteRefused x 0 0 0
      | .ok l =>
        let s := if e.rv then (s.writeLoc e l).1 else s
        s.finishEntry entry stDone 0 0 e.bytes 0)

/-- An rput or ratom that the block issued earlier on a queue to an endpoint is not acknowledged: it is not known to be
placed (R285), or, lost, it never will be. -/
def State.putsUnplaced (s : State) (e : Entry) (lost : Bool) : Bool :=
  s.plat.peers.any fun p => p.2.unacked.any fun x => x.put.isSome && x.lost == lost && x.flow == (e.unit, e.qkey, e.endpoint)

/-- RFLUSH_COMPLETE (R285). Earlier puts and atomics are placed at the peer; record released. Where one of them met transport
failure it is never placed, and the rflush meets that failure (log entry 24, DESIGN CHOICE). -/
def execRflushComplete (entry : Nat) (s : State) : Out :=
  match s.engineReady entry .rflush with
  | none => .next s
  | some e =>
    .next (if s.putsUnplaced e true then s.finishEntry entry stTimeout byTransport 0 0 0
      else if s.putsUnplaced e false then s.arm (.rflushComplete entry)
      else s.finishEntry entry stDone 0 0 0 0)

end Sys2Proof.Machine
end

