-- ==== Sys2Proof/Machine/Roosts.lean ====
section
/-! DEFINITION. KV sequences and roosts: kvld, registration, descent, rouse and ascent (R286 to R290, R391 to R394). -/

namespace Sys2Proof.Machine

/-! ## Sequences (R286) -/

/-- The page of a (layer, head) pair with an index: its place in the record. -/
def Sequence.find (q : Sequence) (layer head idx : Nat) : Option (Nat × KvPage) :=
  if layer ≥ q.layers || head ≥ q.heads then none
  else (q.pages.zipIdx.find? fun p => p.1.layer == layer && p.1.head == head && p.1.idx == idx).map fun p => (p.2, p.1)

/-- Element formats of KV rows: codes of R158. -/
def kvFormat (code : Nat) : Fmt :=
  match code with
  | 3 => fmtF8a
  | 4 => fmtF8b
  | 2 => fmtBF16
  | _ => fmtF16

/-- An element is NaN or infinite (R288). -/
def kvBad (f : Fmt) (b : Nat) : Bool :=
  match fdecode f b with
  | .fin .. => false
  | _ => true

def rowBad (f : Fmt) (l : List Byte) : Bool :=
  if f.w = 8 then l.any fun b => kvBad f b.toNat
  else (List.range (l.length / 2)).any fun i => kvBad f (half l i)

/-- Where a row of a resident page lies, in the frame that holds it; `none` where no usable frame does. -/
def State.kvAddr (s : State) (q : Sequence) (p : KvPage) (pos : Nat) : Option Nat :=
  match s.frameOf q.job p.page with
  | some (i, f) => if f.usable then some (s.framePA i + pos % q.ppp * q.rb) else none
  | none => none

/-- The row's bytes. -/
def State.kvRow (s : State) (q : Sequence) (p : KvPage) (pos : Nat) : Option (List Byte) :=
  (s.kvAddr q p pos).map fun pa => s.loadPA pa q.rb

/-- Reading a row takes part in the directory as an access of the L2 of the crew's die (R371). -/
def State.kvTouch (s : State) (core : Nat) (q : Option Sequence) (i pos : Nat) : State :=
  match q.bind fun q => (q.pages[i]?).bind fun p => (s.kvAddr q p pos).map fun pa => (pa, q.rb) with
  | some (pa, n) => s.useLines (dieOf core) noCore false (linesOf pa n)
  | none => s

/-! ## Roost records (R391) -/

/-- How many pages of its pair lie above a page. -/
def Sequence.rank (q : Sequence) (p : KvPage) : Nat :=
  (q.pages.filter fun x => x.layer == p.layer && x.head == p.head && decide (x.idx > p.idx)).length

/-- The items of a roost that are not freed, in the order of ascent (R391, R393). -/
def State.ascentOrder (s : State) (r : Roost) : List Nat :=
  match s.seq r.id with
  | none => [0]
  | some q =>
    let lt := fun (a b : KvPage × Nat) =>
      decide (q.rank a.1 < q.rank b.1) || (q.rank a.1 == q.rank b.1 && (decide (a.1.layer < b.1.layer) ||
        (a.1.layer == b.1.layer && decide (a.1.head < b.1.head))))
    0 :: (sortBy lt (q.pages.zipIdx.filter fun p => q.keeps p.1)).map fun p => p.2 + 1

/-- Ascents are started in order, sixteen at most in flight, once every page already Evicting has finished its descent (R393). -/
def State.startAscents (s : State) (id : Nat) : State :=
  match s.roostOf id with
  | none => s
  | some r =>
    let order := s.ascentOrder r
    let flying := (order.filter fun p => tierKind (s.itemTier id p) == 3).length
    let next := (order.filter (s.itemAway id)).take (16 - flying)
    if order.any fun p => tierKind (s.itemTier id p) ≥ 4 then s
    else next.foldl (fun s p => s.startAscent id p) s

/-- The state block and the tail pages are resident (R393). -/
def State.tailIn (s : State) (r : Roost) : Bool :=
  decide (r.stateTier = 0) && r.stateOut.isEmpty && match s.seq r.id with
  | none => true
  | some q => q.pages.all fun p => decide (q.rank p ≥ r.tailp) || !q.keeps p || decide (p.tier = 0)

/-- A roused roost whose tail is in submits its continuation, as `lnch` submits it (R332, R393). -/
def State.roostReady (s : State) (id : Nat) : State :=
  match s.roostOf id with
  | none => s
  | some r =>
    if r.st = .roused && s.tailIn r then
      match s.submit r.world r.cq r.cont (some id) with
      | (s, .ok _) => s.onRoost id fun r => { r with st := .queued }
      | (s, .error x) =>
        (s.freeRoost id).interrupt r.world 3 0 [r.cq, x, r.cont % 2 ^ 32, r.cont / 2 ^ 32]
    else s

/-- Items of a roost that are above a tier and not on their way. -/
def State.aboveTier (s : State) (r : Roost) (dst : Nat) : List Nat := (s.ascentOrder r).filter fun p => decide (s.itemTier r.id p < dst)

/-- An item waits for its references to end before it descends; one that is pinned stays (R385, R392). -/
def State.itemWaits (s : State) (id page : Nat) : Bool :=
  s.itemTier id page == 0 && !s.itemMay id page &&
    (s.itemNames id page).all fun n => (s.frameOf n.1 n.2).all fun f => f.2.st != .pinned

/-- A descent is complete when no page is under way and none waits for its references (R391, R392). -/
def State.descentCheck (s : State) (id : Nat) : State :=
  match s.roostOf id with
  | none => s
  | some r =>
    let still := fun (dst : Nat) => (s.ascentOrder r).any (fun p => tierKind (s.itemTier id p) ≥ 4) ||
      (s.aboveTier r dst).any (s.itemWaits id)
    match r.st with
    | .descent1 => if s.cxlTier && still 1 then s else s.onRoost id fun r => { r with st := .low1 }
    | .descent2 => if still 2 then s else s.onRoost id fun r => { r with st := .low2 }
    | _ => s

/-- Every item above a tier that may leave starts down to it; for one that waits, the roost looks again (R385, R392). -/
def State.descend (s : State) (id dst : Nat) : State :=
  match s.roostOf id with
  | none => s
  | some r =>
    let s := ((s.aboveTier r dst).filter (s.itemMay id)).foldl (fun s p => s.itemDescends id p dst) s
    let s := if (s.aboveTier r dst).any (s.itemWaits id) then s.arm (if dst = 1 then .roostT1Expiry id else .roostT2Expiry id) else s
    s.descentCheck id

/-- ROOST_REGISTERED (R289). The roost is registered, timers start and the record is written. -/
def execRoostRegistered (entry : Nat) (s : State) : Out :=
  match s.engineReady entry .roost with
  | none => .next (s.engineHeld entry (.roostRegistered entry))
  | some e =>
    let id := e.group
    if (s.seq id).isNone then .next (s.finishEntry entry stRemoteRefused rrNoRoost 0 0 0)
    else if (s.roostOf id).isSome then .next (s.finishEntry entry stRemoteRefused rrBusy 0 0 0)
    else
      let r : Roost :=
        { id, world := e.world, st := .resident, state := e.gen 4, slen := e.word 6, tailp := fieldN (e.word 7) 0 6
          cont := e.gen 8, cq := fieldN (e.word 10) 0 6, t1 := if e.word 11 = 0 then 50 else e.word 11
          t2 := if e.word 12 = 0 then 2000 else e.word 12, stateTier := 0, stateHeld := false, stateOut := [] }
      .next ((State.arm { s with roosts := s.roosts ++ [r] } (.roostT1Expiry id)).finishEntry entry stDone 0 0 0 0)

/-- ROOST_T1_EXPIRY (R391). T1 expires; descent to CXL begins and T2 starts. With no CXL tier nothing moves. -/
def execRoostT1Expiry (roost : Nat) (s : State) : Out :=
  match s.roostOf roost with
  | none => .next s
  | some r =>
    if s.ckpt.hold then .next (s.arm (.roostT1Expiry roost))
    else match r.st with
      | .resident =>
        let s := (s.onRoost roost fun r => { r with st := .descent1 }).arm (.roostT2Expiry roost)
        .next (if s.cxlTier then s.descend roost 1 else s.descentCheck roost)
      | .descent1 => .next (s.descend roost 1)
      | _ => .next s

/-- ROOST_T2_EXPIRY (R391). T2 expires; descent to flash begins. -/
def execRoostT2Expiry (roost : Nat) (s : State) : Out :=
  match s.roostOf roost with
  | none => .next s
  | some r =>
    if s.ckpt.hold || r.st == .descent1 then .next (s.arm (.roostT2Expiry roost))
    else match r.st with
      | .low1 => .next ((s.onRoost roost fun r => { r with st := .descent2 }).descend roost 2)
      | .descent2 => .next (s.descend roost 2)
      | _ => .next s

/-- The bytes of an Evicting frame are in the next tier: it becomes Invalid, its ROOST kept (R361). -/
def State.frameTaken (s : State) (i : Nat) : State :=
  let f := s.frame i
  ((s.recallLines (s.framePA i)).onFrame i fun f => { f with
    job := 0
    page := 0
    refcnt := 0
    wr := false
    st := .invalid }).refill i f.job f.page

/-- An item has left HBM: its pages are kept with its record. -/
def State.itemLeft (s : State) (id page : Nat) : State :=
  (s.itemNames id page).foldl (fun s n => match s.frameOf n.1 n.2 with
    | some (i, f) =>
      let out := if page = 0 then s.itemOut id 0 else []
      (s.setItemOut id page (out ++ [(n.2, f.wr, s.loadPA (s.framePA i) pageBytes)])).frameTaken i
    | none => s) s

/-- An item that the next tier does not accept stays: its frames are as before (R392). -/
def State.itemStays (s : State) (id page : Nat) : State :=
  (s.itemNames id page).foldl (fun s n => match s.frameOf n.1 n.2 with
    | some (i, f) => if f.st = .evicting then s.onFrame i fun f => { f with
        st := if f.wr then .ownedDirty else .clean
        roost := 0 } else s
    | none => s) s

/-- Some position of an item is not below the window: a state block always stays. -/
def State.itemKept (s : State) (id page : Nat) : Bool :=
  page == 0 || ((s.seq id).bind fun q => (q.pages[page - 1]?).map q.keeps).getD true

/-- A page whose every position the window has passed while it was under way is freed where it stands (R287, R394): what was
taken for it is given up. -/
def State.itemFreed (s : State) (id page : Nat) : State :=
  let s := (s.itemNames id page).foldl (fun s n => match s.frameOf n.1 n.2 with
    | some (i, f) => if f.st = .evicting || (f.st = .filling && f.roost = id) then s.frameTaken i else s
    | none => s) s
  (s.setItemOut id page []).setItemTier id page 1

/-- PAGE_DESCENT_DONE (R392). A roost page finishes writing to the next tier. -/
def execPageDescentDone (roost page : Nat) (accepted : Bool) (s : State) : Out :=
  let t := s.itemTier roost page
  if tierKind t < 4 then .next s
  else
    let at' := if accepted then t / 100 else t / 10 % 10
    let s := if !s.itemKept roost page then s.itemFreed roost page
      else
        let s := if t / 10 % 10 ≠ 0 then s else if accepted then s.itemLeft roost page else s.itemStays roost page
        let s := s.setItemTier roost page at'
        if tierKind t = 5 && at' ≠ 0 then s.startAscent roost page else s
    match s.roostOf roost with
    | none => .next s
    | some r =>
      if r.st == .roused || r.st == .queued then .next ((s.startAscents roost).roostReady roost)
      else .next (s.descentCheck roost)

/-- What the roost's device answers to a rouse: status and reason (R290, R395). -/
def State.rouseAnswer (s : State) (roost : Nat) : Nat × Nat :=
  if s.saving then (stRemoteRefused, rrBusy)
  else match s.roostOf roost with
    | none => (stRemoteRefused, rrNoRoost)
    | some r => if r.st = .roused || r.st = .queued then (stAlreadyRoused, 0) else (stDone, 0)

/-- The payload of a rouse goes into bytes 0 to 7 of the state block, wherever its first page is (R290). -/
def State.putPayload (s : State) (r : Roost) (payload : BitVec 64) : State :=
  let l := leBytes 8 payload.toNat
  match (s.itemNames r.id 0).head? with
  | none => (s.devWrite r.world r.state l).1
  | some n => match s.frameOf n.1 n.2 with
    | some (i, f) => if f.usable then (s.devWrite r.world r.state l).1 else s.npStore (s.framePA i) l
    | none => s.onRoost r.id fun r => { r with stateOut := r.stateOut.map fun (x : Nat × Bool × List Byte) =>
        if x.1 = n.2 then (x.1, x.2.1, l ++ x.2.2.drop 8) else x }

/-- A rouse is accepted: the payload is written, the timers stop, ascent starts (R290, R393). -/
def State.rouse (s : State) (r : Roost) (payload : BitVec 64) : State :=
  let s := ((s.putPayload r payload).onRoost r.id fun r => { r with st := .roused }).disarm
    fun e => e == .roostT1Expiry r.id || e == .roostT2Expiry r.id
  (s.startAscents r.id).roostReady r.id

/-- A running rouse command of this device that carries a payload to a roost here. -/
def State.localRouse (s : State) (roost : Nat) (payload : BitVec 64) : Option Entry :=
  s.entries.find? fun e => e.cmd == .rouse && e.phase == .running && e.group == roost &&
    BitVec.ofNat 64 (e.gen 4) == payload

/-- The answer to a rouse, to the rank of the job that sent it. -/
def State.answerRouse (s : State) (roost sender st reason : Nat) : State :=
  s.say clsRouse (rankPeer ((s.roostOf roost).elim 0 fun r => s.jobIn r.world) sender) 0 0 (leBytes 1 st ++ leBytes 1 reason)

/-- ROUSE_ARRIVE (R290). A rouse arrives at the roost's device; payload written and ascent started. -/
def execRouseArrive (roost : Nat) (payload : BitVec 64) (sender : Nat) (s : State) : Out :=
  let (st, reason) := s.rouseAnswer roost
  let s := match s.roostOf roost with
    | some r => if st = stDone then s.rouse r payload else s
    | none => s
  match s.localRouse roost payload with
  | some e => if s.ownRank e.world = sender then .next (s.finishEntry e.id st reason 0 (if st = stDone then e.bytes else 0) 0)
    else .next (s.answerRouse roost sender st reason)
  | none => .next (s.answerRouse roost sender st reason)

/-- An ascended page is in its frame: Clean, or Owned-Dirty as it was held, with one reference while its roost holds it
(R361, R393). -/
def State.pageIn (s : State) (held : Bool) (i : Nat) (wr : Bool) (bytes : List Byte) : State :=
  ((s.npStore (s.framePA i) bytes).forget (.name (s.frame i).job ((s.frame i).page * pageBytes)) pageBytes).onFrame i fun f => { f with
    st := if wr then .ownedDirty else .clean
    refcnt := if held then 1 else 0
    roost := if held then f.roost else 0 }

/-- The frame that an ascending page has taken. -/
def State.ascendsTo (s : State) (id job page : Nat) : Option Nat :=
  match s.frameOf job page with
  | some (i, f) => if f.st = .filling && f.roost = id then some i else none
  | none => none

/-- The first unit of a roost's continuation has been dispatched: its holds are gone (R393). -/
def State.contBegun (s : State) (id : Nat) : Bool := s.launches.any fun l => l.roost == some id && decide (l.next > 0)

/-- PAGE_ASCENT_DONE (R393). An ascending page is resident, held until the continuation's first unit is dispatched; CONT submitted
when the tail is in. One that has found no way yet looks again; one that the window has passed is freed (R394). -/
def execPageAscentDone (roost page : Nat) (s : State) : Out :=
  if s.itemTier roost page ≠ 3 then .next s
  else if !s.itemKept roost page then .next (((s.itemFreed roost page).startAscents roost).roostReady roost)
  else
    let job := ((s.itemNames roost page).headD (0, 0)).1
    let out := s.itemOut roost page
    if out.any fun x => (s.ascendsTo roost job x.1).isNone then
      .next ((s.ascendFrames roost page).arm (.pageAscentDone roost page))
    else
      let going := (s.roostOf roost).any fun r => r.st == .roused || r.st == .queued
      let held := going && !s.contBegun roost
      let s := out.foldl (fun s x => (s.ascendsTo roost job x.1).elim s fun i => s.pageIn held i x.2.1 x.2.2) s
      let s := (s.setItemOut roost page []).setItemTier roost page 0
      let s := if !held then s
        else if page = 0 then s.onRoost roost fun r => { r with stateHeld := true }
        else s.onSeq roost fun q => q.onPage (page - 1) fun p => { p with held := true }
      .next (if going then (s.startAscents roost).roostReady roost else s)

/-! ## kvld (R286 to R288) -/

/-- What one lane of a kvld meets. -/
structure KvPlan where
  status : Nat
  /-- bytes for the destination, none when nothing is written -/
  row : Option (List Byte)
  /-- layer, head, page index, place in the record: of a lane that reads a resident page -/
  page : Option (Nat × Nat × Nat × Nat)
  /-- a page whose ascent is to start -/
  ascend : Option Nat
  deriving DecidableEq, Repr

/-- The resolution of one lane (R287), before the test of R288. -/
def State.kvPlan (s : State) (q : Sequence) (pos layer head : Nat) : KvPlan :=
  if pos < q.ws then ⟨2, some (List.replicate q.rb 0), none, none⟩
  else match q.find layer head (pos / q.ppp) with
    | none => ⟨1, none, none, none⟩
    | some (i, p) =>
      if p.quarantined then ⟨3, none, none, none⟩
      else if p.tier ≠ 0 then ⟨4, none, none, some i⟩
      else match s.kvRow q p pos with
        | some row => ⟨0, some row, some (layer, head, p.idx, i), none⟩
        | none => ⟨4, none, none, some i⟩

/-- The sequence that a channel names on this device. -/
def State.kvSeq (s : State) (wn : Nat) (ch : Chan) : Option Sequence :=
  if ch.dev = 0xFFFF || ch.dev = s.ownRank wn then s.seq ch.low else none

/-- Channel checks of kvld (R66, R258). -/
def kvChan (ch : Chan) : Option Nat :=
  if !ch.valid then some 1 else if ch.kind ≠ 6 then some 4 else if !ch.permR then some 2
  else if ch.outstanding > ch.allow then some 3 else none

/-- The lane's traps, then its plan: channel, alignment, range. -/
def State.kvLane (s : State) (c : Crew) (u : BUnit) (idx aF : Nat) (t : Thread) : Except Trap KvPlan :=
  let ch := s.chan c idx
  match kvChan ch with
  | some r => .error (chanTrap r idx 0)
  | none =>
    let dest := (t.x (aF + 2)).toNat
    let q := s.kvSeq c.world ch
    let n := match q with
      | some q => q.rb
      | none => 16
    if dest % 16 ≠ 0 then .error (alignTrap dest 1 1 pieceSize)
    else if spadBad u.cores.length u.alloc dest n then .error (permTrap 4 dest 1 1 pieceSize)
    else match q with
      | none => .ok ⟨1, none, none, none⟩
      | some q => .ok (s.kvPlan q (t.x aF).toNat (fieldN (t.x (aF + 1)).toNat 16 16) (fieldN (t.x (aF + 1)).toNat 0 16))

/-- The lowest position whose row on a page fails the test of R288. -/
def State.kvFails (s : State) (e : Env) (f : Form) (c : Crew) (u : BUnit) (idx aF set i : Nat) : Option Nat :=
  match s.kvSeq c.world (s.chan c idx) with
  | none => none
  | some q =>
    minOf (c.threads.filterMap fun t =>
      if t.ready && t.set == set && e.guardTrue t && (opCheck e f c t).isNone then
        match s.kvLane c u idx aF t with
        | .ok ⟨_, some row, some (_, _, _, j), _⟩ => if j = i && rowBad (kvFormat q.fmt) row then some (t.x aF).toNat else none
        | _ => none
      else none)

/-- A page fails the test: quarantined, reported, QUARANTINE raised on the crew (R288). -/
def State.quarantine (s : State) (uid roost layer head idx i pos : Nat) : State :=
  ((s.onSeq roost fun q => q.onPage i fun p => { p with quarantined := true }).send (.kvFault roost layer head idx pos)).async uid
    (mkTrap .quarantine 0 [roost, layer * 2 ^ 16 + head, idx, pos]) none

/-- One lane of kvld. -/
def kvldLane (f : Form) (idx aF sF : Nat) (e : Env) (c : Crew) (t : Thread) (s : State) : State × LaneRes :=
  if s.matrixWait e.uid t.lane then (s, .stall false)
  else match s.unit c.unit with
  | none => (s, .done)
  | some u =>
    match s.kvLane c u idx aF t with
    | .error tr => (s, .trap tr)
    | .ok p =>
      let seq := (s.chan c idx).low
      let dest := (t.x (aF + 2)).toNat
      let land := fun (s : State) (st : Nat) (row : Option (Nat × List Byte)) =>
        (s.inFlight e.uid t.lane (e.pcI t) [(t.wb + sF, BitVec.ofNat 32 st)] row, LaneRes.done)
      let writes := fun (s : State) (row : List Byte) =>
        let acc : Access := ⟨.crew e.uid, s.accessRegion c t, true, false, e.pcI t⟩
        match s.conflict acc 1 pieceSize false (.spad u.uid dest) dest row.length with
        | some tr => (s, LaneRes.trap tr)
        | none => land (s.drainFor e.uid t.lane (.spad u.uid dest) row.length) p.status (some (dest, row))
      match p.row, p.page with
      | some row, some (layer, head, pi, i) =>
        let s := s.kvTouch c.core (s.kvSeq c.world (s.chan c idx)) i (t.x aF).toNat
        match s.kvFails e f c u idx aF t.set i with
        | some pos => land (s.quarantine e.uid seq layer head pi i pos) 3 none
        | none => writes s row
      | some row, none => writes s row
      | none, _ =>
        match p.ascend with
        | some i => land (s.wantItem seq (i + 1)) p.status none
        | none => land s p.status none

/-- KVLD (R286). Loads KV rows of a roost sequence into scratchpad with per-lane status. -/
def execKvld (sw : Bool) (c : BitVec 6) (a d : BitVec 7) (s : State) : Out :=
  let f : Form := { word := (encRRR sw 53#6 0#4 (0#1 ++ c) a d), sw := sw, ops := [aX a 3, bX d 1], drip := false }
  let idx := c.toNat
  execLanes f s fun e c t s => kvldLane f idx a.toNat d.toNat e c t s

/-- KVLD_STATUS_LAND (R287). Per-lane kvld row write and status land. -/
def execKvldStatusLand (id : Nat) (s : State) : Out := .next (s.landNow id)

end Sys2Proof.Machine
end

