-- ==== Sys2Proof/Machine/Context.lean ====
section
/-! DEFINITION. Context images: their layout, and what `%ctxop` 1 writes and `%ctxop` 2 restores (R318 to R324). -/

namespace Sys2Proof.Machine

/-! ## Layout (R318) -/

def imgMagic : Nat := 0x49545843

/-- Offset of the engine section: right after S of every barrier. -/
def engineOff (regs : Nat) : Nat := 0xD00 + 512 * regs + 8192

def w4 (n : Nat) : List Byte := leBytes 4 n
def w8 (n : Nat) : List Byte := leBytes 8 n

/-- One entry of the engine section (R320): its kind and bytes, then its body. -/
def sectionEntry (kind : Nat) (body : List Byte) : List Byte := w4 (kind + 256 * (body.length + 4)) ++ body

/-- The section: entry count, section bytes, 8 reserved bytes, then the entries. -/
def sectionOf (l : List (Nat × List Byte)) : List Byte :=
  let es := l.flatMap fun p => sectionEntry p.1 p.2
  w4 l.length ++ w4 (16 + es.length) ++ w8 0 ++ es

/-- Command numbers in an entry's queue word. -/
def Cmd.code (c : Cmd) : Nat :=
  match c with
  | .cpy => 0
  | .cpy2d => 1
  | .cpyred => 2
  | .cpymx => 3
  | _ => 4

def cmdOf (n : Nat) : Cmd :=
  match n with
  | 0 => .cpy
  | 1 => .cpy2d
  | 2 => .cpyred
  | 3 => .cpymx
  | _ => .hread

/-- The queue word of kinds 2 and 3: QUEUE byte, block-relative core, channel, command. -/
def Entry.queueWord (e : Entry) : Nat := e.qid + 256 * e.rcore + 65536 * e.chan + 2 ^ 24 * e.cmd.code

/-! ## What `%ctxop` 1 writes (R320) -/

/-- Kind 1: a parked sub-group. -/
def State.groupBody (s : State) (c : Crew) (g : Group) : List Byte :=
  let (die, i) := g.fault.getD (dieOf c.core, 0xFFFFFFFF)
  let gen := (tabGet s.faultq FqEntry.init (faultKey die c.world i)).gen
  let wb := (((g.lanes.head?).bind c.thread).map (·.wb)).getD 0
  w8 Config.identity ++ w4 die ++ w4 c.world ++ w4 i ++ w4 gen.toNat ++ w4 g.pc.toNat ++ w4 wb ++ leBytes 16 (laneMask g.lanes)

/-- Kind 2 and 3: queue, SEQ, PC, descriptor. -/
def Entry.cmdBody (e : Entry) : List Byte := w4 e.queueWord ++ w4 e.seq.toNat ++ w4 e.pc.toNat ++ wordsBytes e.words

/-- A bitmap of the bursts whose drips have retired. -/
def bitmap (n : Nat) (l : List Nat) : List Byte :=
  (List.range ((n + 7) / 8)).map fun i => BitVec.ofNat 8 ((List.range 8).foldl (fun m k =>
    if l.contains (8 * i + k) then m + 2 ^ k else m) 0)

/-- Kind 4: a system call that waits for its reply. -/
def sysBody (wn : Nat) (r : SyscReq) : List Byte :=
  w4 wn ++ w4 r.reqid.toNat ++ leBytes 16 (laneMask r.lanes) ++ (match r.reply with
    | none => leBytes 1 0
    | some (st, lanes, vals) => leBytes 1 1 ++ (r.lanes.flatMap fun l =>
        if st = 0 && lanes.contains l then w8 (vals.getD (lanes.idxOf l) 0) else w8 (2 ^ 64 - 1)))

/-- Entries of a block that a save records and a resume enqueues again (R263). -/
def Cmd.recorded (c : Cmd) : Bool :=
  match c with
  | .cpy | .cpy2d | .cpyred | .cpymx | .hread => true
  | _ => false

/-- Kinds 2, 3, 5, 6, 7 and 8, written by the block's lowest crew. -/
def State.blockSection (s : State) (u : BUnit) : List (Nat × List Byte) :=
  let mine := s.entries.filter fun e => e.unit == u.uid && e.cmd.recorded
  (mine.filter (·.cmd != .hread)).map (fun e => (2, e.cmdBody ++ if e.cmd == .cpyred then w4 (e.progress.headD 0) else [])) ++
  (mine.filter (·.cmd == .hread)).map (fun e =>
    (3, e.cmdBody ++ w4 (e.progress.headD e.hreadShape.2.2.2) ++ bitmap (e.progress.headD e.hreadShape.2.2.2) e.retired)) ++
  [(5, (List.range u.cores.length).flatMap fun k => (List.range 4).flatMap fun q =>
    let x := u.qctrAt (queueKey k q)
    w4 x.seq.toNat ++ w4 x.done.toNat),
   (6, (u.bars.zipIdx).flatMap fun b => w4 b.2 ++ w4 b.1.members ++ w4 b.1.count ++ w4 b.1.phase.toNat),
   (7, (u.cbs.zipIdx).flatMap fun b =>
      [b.2, b.1.core, b.1.base, b.1.slot, b.1.count, b.1.wix, b.1.rix, b.1.free, b.1.filled].flatMap w4 ++
      (List.range b.1.count).map fun i =>
        let x := b.1.slotSt i
        BitVec.ofNat 8 ((match x.1 with
          | .free => 0
          | .filling => 1
          | .filled => 2
          | .reading => 3) + if x.2 then 4 else 0)),
   (8, (List.range u.cores.length).flatMap fun k => w4 k ++ w4 u.alloc ++ readBytes u.spad (k * 2 ^ 19) u.alloc)]

/-- The lowest crew of a block. -/
def State.lowestCrew (s : State) (unit : Nat) : Option Crew :=
  pickBy (fun (x y : Crew) => decide (x.idx < y.idx)) (s.crewsOf unit)

def State.isLowest (s : State) (c : Crew) : Bool := ((s.lowestCrew c.unit).map (·.uid)) == some c.uid

/-- The whole engine section of a crew. -/
def State.engineSection (s : State) (c : Crew) (u : BUnit) : List (Nat × List Byte) :=
  let reqs : List SyscReq := match s.world c.world with
    | some w => w.requests.filter fun (r : SyscReq) => r.crew == c.uid
    | none => []
  (s.groups.filter (·.crew == c.uid)).map (fun g => (1, s.groupBody c g)) ++
    reqs.map (fun r => (4, sysBody c.world r)) ++
    (if s.isLowest c then s.blockSection u else []) ++
    [(9, w4 c.priv ++ w4 crewWidth ++ c.readPriv 0 (c.priv * crewWidth))]

/-- Bytes from an image address to the end of the save slot that holds it; `none` outside the save area (R340). -/
def World.slotRest (w : World) (img : Nat) : Option Nat :=
  let size := 2 ^ (20 + w.ctl.savelog)
  if w.ctl.savebase ≤ img && img < w.ctl.savebase + w.ctl.saveslots * size then some (size - (img - w.ctl.savebase) % size)
  else none

/-- The threads that wait for a `%ctxop` go on, with its status (R322). -/
def State.ctxopDone (s : State) (uid status : Nat) : State :=
  s.onCrew uid fun c => ({ c with
    ctxstat := BitVec.ofNat 32 status
    threads := c.threads.map fun (t : Thread) => match t.st with
      | .blocked .ctxop next => t.resumeAt next
      | _ => t }).regroup

/-- Copies and handler reads of a block are recorded in its image: only their claims stay (R263). -/
def State.recordEntries (s : State) (unit : Nat) : State :=
  { s with
    bursts := s.bursts.filter fun b => !(s.entries.any fun e => e.id == b.entry && e.unit == unit)
    entries := mapIf (fun e => e.unit == unit && e.cmd.recorded) (fun e => { e with phase := .saved }) s.entries }

/-- Replies that the image holds are no longer the ring's (R320). -/
def State.dropReplied (s : State) (wn uid : Nat) : State := s.dropRequests wn fun r => r.crew == uid && r.reply.isSome

/-- CTXOP_SAVE (R320). %ctxop 1 writes the engine section of the image. -/
def execCtxopSave (crew : Nat) (s : State) : Out :=
  match s.crew crew with
  | none => .next s
  | some c =>
    match s.unit c.unit, s.world c.world with
    | some u, some w =>
      if c.course == .saving && s.isLowest c && !((s.crewsOf c.unit).all fun x => x.course == .saving) then
        .next (s.arm (.ctxopSave crew))
      else
        let img := c.ctximg.toNat
        -- the crew's private window is written back before it is copied
        let s := s.performStores (·.crew == crew)
        let c := (s.crew crew).getD c
        let sec := sectionOf (s.engineSection c u)
        let past := match w.slotRest img with
          | some n => decide (engineOff c.nregs + sec.length > n)
          | none => false
        if past then .next (s.ctxopDone crew 3)
        else match s.devWrite c.world (img + engineOff c.nregs) sec with
          | (s, false) => .next (s.ctxopDone crew 3)
          | (s, true) =>
            let s := if c.course == .saving && s.isLowest c then s.recordEntries c.unit else s
            .next ((s.dropReplied c.world crew).ctxopDone crew 0)
    | _, _ => .next s

/-! ## Reading an image (R322) -/

/-- The image's header and its engine section, or the status that a check of R322 gives. -/
structure Img where
  head : List Byte
  entries : List (Nat × List Byte)
  deriving DecidableEq, Repr

/-- Splits the entries of a section; none where a kind or a length is wrong. -/
def splitEntries : Nat → List Byte → Option (List (Nat × List Byte))
  | 0, [] => some []
  | 0, _ => none
  | n + 1, l =>
    let k := natAt l 0
    if l.length < 4 || k % 256 < 1 || k % 256 > 9 || k / 256 < 4 || k / 256 > l.length then none
    else (splitEntries n (l.drop (k / 256))).map fun r => (k % 256, (l.take (k / 256)).drop 4) :: r

/-- Some slot byte of a kind 7 body has a bit of [7:3] set (R320); `fuel` bounds the number of objects. -/
def cbsBad : Nat → List Byte → Bool
  | 0, _ => false
  | n + 1, b =>
    if b.length < 36 then false
    else ((b.drop 36).take (natAt b 4)).any (fun x => x.toNat / 8 != 0) || cbsBad n (b.drop (36 + natAt b 4))

/-- Reads an image and makes the checks of R322, at a restore with COMPLETE; the bytes that R318 and R321 reserve are 0. -/
def State.readImg (s : State) (wn img : Nat) : Except Nat Img :=
  match s.devRead wn img 0x80 with
  | none => .error 3
  | some h =>
    let w := natAt h
    let caps := (List.range 10).map fun i => w (16 + i)
    if w 0 ≠ imgMagic || w 1 ≠ 1 then .error 2
    else if caps ≠ (List.range 10).map fun i => (capWord (i + 1)).toNat then .error 1
    else
      let regs := fieldN (w 7) 0 16
      let off := w 13
      let ur := fieldN (w 7) 16 16
      let spare := (s.devRead wn (img + 0x880 + 4 * ur) (0x480 - 4 * ur)).getD []
      let planes := if bitN (w 3) 0 then (s.devRead wn (img + w 14 + 133120) 64).getD [] else []
      if !(spare.all (· == 0)) || planes.getD 3 0 ≠ 0 || planes.getD 35 0 ≠ 0 || fieldN (w 3) 2 30 ≠ 0 || !bitN (w 3) 1 || fieldN (w 12) 16 16 ≠ 0 || fieldN (w 15) 7 25 ≠ 0 || w 31 ≠ 0 ||
        off < engineOff regs || off + 16 > w 2 || (bitN (w 3) 0 && w 14 + 133184 > w 2) then .error 2
      else match s.devRead wn (img + off) 16 with
        | none => .error 3
        | some g =>
          if natAt g 2 ≠ 0 || natAt g 3 ≠ 0 || natAt g 1 < 16 || off + natAt g 1 > w 2 then .error 2
          else
            let body := if natAt g 1 = 16 then some [] else s.devRead wn (img + off + 16) (natAt g 1 - 16)
            match body with
            | none => .error 3
            | some b => match splitEntries (natAt g 0) b with
              | some es => if es.any fun p => p.1 == 7 && cbsBad 128 p.2 then .error 2 else .ok ⟨h, es⟩
              | none => .error 2

/-- A thread record has its reserved bits zero (R319). -/
def recordBad (l : List Byte) : Bool := fieldN (leNat l) 62 2 ≠ 0 || bitN (leNat l) 55

/-- Some thread record breaks R319. -/
def State.recordsBad (s : State) (wn img : Nat) : Bool :=
  match s.devRead wn (img + 0x80) 2048 with
  | some l => (entriesOf 16 l).any recordBad
  | none => true

/-- The status of a restore from an image (R322). -/
def State.imgStatus (s : State) (wn img : Nat) : Except Nat Img :=
  match s.readImg wn img with
  | .error x => .error x
  | .ok im => if s.recordsBad wn img then .error 2 else .ok im

/-- What reading an image leaves: malformed table entries are counted (R351). -/
def State.touchImg (s : State) (wn img : Nat) : State :=
  let t := s.devTouch wn img 0x80
  match s.devRead wn img 0x80 with
  | some h => if natAt h 0 = imgMagic then t.devTouch wn (img + 0x80) (natAt h 2 - 0x80) else t
  | none => t

/-! ## What `%ctxop` 2 restores (R324) -/

/-- Bodies of a kind. -/
def Img.bodies (im : Img) (k : Nat) : List (List Byte) := (im.entries.filter (·.1 == k)).map (·.2)

/-- Kind 8: the saved bytes of each core. -/
def BUnit.restoreSpad (u : BUnit) (b : List Byte) : BUnit :=
  let n := natAt b 1 + 8
  (entriesOf n b).foldl (fun u x =>
    u.writeKeys (natAt x 0 * 2 ^ 19) ((x.drop 8).take u.alloc)) u

/-- Kind 6: counts and phases of the barriers. -/
def BUnit.restoreBars (u : BUnit) (b : List Byte) : BUnit :=
  (entriesOf 16 b).foldl (fun u x => { u with
    bars := u.bars.mapIdx fun i y => if i = natAt x 0 then { y with count := natAt x 2, phase := wordAt x 3 } else y }) u

def slotStOf (n : Nat) : SlotSt × Bool :=
  (match n % 4 with
    | 0 => .free
    | 1 => .filling
    | 2 => .filled
    | _ => .reading, n / 4 % 2 = 1)

/-- Kind 7: indexes, counts and slot states of the circular buffers; `fuel` bounds their number. -/
def BUnit.restoreCbs (u : BUnit) : Nat → List Byte → BUnit
  | 0, _ => u
  | n + 1, b =>
    if b.length < 36 then u
    else
      let count := natAt b 4
      let u := { u with cbs := u.cbs.mapIdx fun i c => if i = natAt b 0 then { c with
        wix := natAt b 5
        rix := natAt b 6
        free := natAt b 7
        filled := natAt b 8
        slots := ((b.drop 36).take count).map fun x => slotStOf x.toNat } else c }
      BUnit.restoreCbs u n (b.drop (36 + count))

/-- Kind 5: the counters of the block-transfer queues. -/
def BUnit.restoreQueues (u : BUnit) (b : List Byte) : BUnit :=
  (entriesOf 8 b).zipIdx.foldl (fun u x =>
    u.onQctr (queueKey (x.2 / 4) (x.2 % 4)) fun _ => ⟨wordAt x.1 0, wordAt x.1 1⟩) u

/-- A circular-buffer slot that an engine fills and no entry claims. -/
def State.freeFilling (s : State) (u : BUnit) (obj : Nat) : Option Nat :=
  match u.cbs[obj]? with
  | none => none
  | some c => (List.range c.count).find? fun i =>
      c.slotSt i == (.filling, true) && !(s.entries.any fun e => e.unit == u.uid && e.slot == some i && bitN (e.word 9) 21 &&
        fieldN (e.word 9) 14 7 == obj)

/-- Kinds 2 and 3: a command back in its queue. One that this device kept is revived; one from elsewhere is built from its
descriptor (R324). -/
def State.restoreCmd (s : State) (c : Crew) (u : BUnit) (hread : Bool) (b : List Byte) : State :=
  let q := natAt b 0
  let qid := fieldN q 0 8
  let rcore := fieldN q 8 8
  let seq := wordAt b 1
  let words := bytesWords ((b.drop 12).take 64)
  let progress := if hread then
      let nb := natAt b 19
      let map := leNat (b.drop 80)
      let done := (List.range nb).filter (bitN map)
      nb :: done.length :: done
    else if fieldN q 24 8 = 2 then [natAt b 19] else []
  match s.entries.find? fun e => e.unit == u.uid && e.qid == qid && e.rcore == rcore && e.seq == seq && e.phase == .saved with
  | some e => s.onEntry e.id fun e => { e with
      phase := .queued, progress := if hread || e.cmd = .cpyred then progress else e.progress
      born := progress.drop 2, failed := [], held := [], asked := [] }
  | none =>
    let (id, s) := s.fresh
    let idx := fieldN q 16 8
    let ch := s.chan c idx
    let cmd := if hread then .hread else cmdOf (fieldN q 24 8)
    let rq := match s.bodyReq cmd (mkTrap .ill 5 []) c u ch words with
      | .ok rq => rq
      | .error _ => { bytes := 0, ranges := [] }
    let site := u.cores.getD rcore c.core
    let job := match s.world c.world with
      | some w => w.job
      | none => 0
    let slot := if bitN (words.getD 9 0).toNat 21 && !hread then s.freeFilling u (fieldN (words.getD 9 0).toNat 14 7) else none
    let e : Entry :=
      { id, unit := u.uid, crew := c.uid, lane := crewWidth, world := c.world, launch := c.launch, job, pc := wordAt b 2, qid, rcore, site, seq
        crewIdx := c.idx, quarter := c.quarter, cmd, words, chan := idx, kind := ch.kind, endpoint := ch.endpoint, bytes := rq.bytes
        claims := rq.ranges.flatMap (s.rangeClaims u.uid c.world site), phase := .queued, inst := 0, img := [], slot, progress
        born := if hread then progress.drop 2 else [], held := [], asked := [], failed := [], status := 0, fault := 0, aux := 0, path := 0, retries := 0, refs := [], leases := [], fin := none }
    let s := s.onLaunch c.world c.launch fun l => { l with desc := { l.desc with
      chans := l.desc.chans.mapIdx fun i x => if i = idx then { x with outstanding := x.outstanding + rq.bytes } else x } }
    { s with entries := s.entries ++ [e] }

/-- Kind 4: a reply in the image, or one that came meanwhile, is held for the tret. -/
def State.restoreSysc (s : State) (c : Crew) (b : List Byte) : State :=
  let mask := leNat ((b.drop 8).take 16)
  let lanes := (List.range crewWidth).filter (bitN mask)
  let give := fun (s : State) (vs : List (Nat × Word × Word)) => s.onCrew c.uid fun c => { c with heldReplies := c.heldReplies ++ vs }
  if (b.getD 24 0) = 1 then
    give s (lanes.zipIdx.map fun l => (l.1, wordAt (b.drop 25) (2 * l.2), wordAt (b.drop 25) (2 * l.2 + 1)))
  else match (s.world c.world).bind fun w => w.requests.find? fun r => r.crew == c.uid && r.reqid == wordAt b 1 with
    | some r => match r.reply with
      | some (st, who, vals) =>
        (give s (lanes.map fun l => (l, replyFor st who vals l))).dropRequests c.world fun x => x.reqid == r.reqid
      | none => s
    | none => s

/-- Kinds 5 to 8, by the block's lowest crew; then its commands. -/
def State.restoreBlock (s : State) (c : Crew) (im : Img) : State :=
  let s := s.onUnit c.unit fun u =>
    let u := (im.bodies 8).foldl BUnit.restoreSpad u
    let u := (im.bodies 6).foldl BUnit.restoreBars u
    let u := (im.bodies 7).foldl (fun u b => u.restoreCbs 128 b) u
    let u := (im.bodies 5).foldl BUnit.restoreQueues u
    { u with restored := true }
  -- each queue's commands in the order of their SEQ, counted from the commands that it has completed
  let late : List Byte → Nat := fun b => match s.unit c.unit with
    | some u => (wordAt b 1 - (u.qctrAt (queueKey (fieldN (natAt b 0) 8 8) (fieldN (natAt b 0) 0 8))).done).toNat
    | none => 0
  let cmds := sortBy (fun (x y : Nat × List Byte) => decide (late x.2 < late y.2)) (im.entries.filter fun p => p.1 == 2 || p.1 == 3)
  let s := cmds.foldl (fun s p => match s.unit c.unit with
    | some u => s.restoreCmd c u (p.1 == 3) p.2
    | none => s) s
  s.kickQueues c.unit

/-- DTHI of the thread records: what `%devtime` last latched for a thread outlives the save (R60, R319). R324 does not say
when it returns; here at `%ctxop` 2, before the tret (log entry 24, DESIGN CHOICE). -/
def State.restoreTimes (s : State) (c : Crew) : State :=
  match s.devRead c.world (c.ctximg.toNat + 0x80) 2048 with
  | some l => s.onCrew c.uid fun c => { c with
      threads := c.threads.map fun t => { t with dthi := wordAt (l.drop (16 * t.lane)) 2 } }
  | none => s

/-- Kind 9: the private window's bytes (R324). -/
def State.restorePriv (s : State) (uid : Nat) (b : List Byte) : State :=
  s.onCrew uid fun c => c.writePriv 0 ((b.drop 8).take (c.priv * crewWidth))

/-- CTXOP_RESTORE (R324). %ctxop 2 restores the engine state from the image. -/
def execCtxopRestore (crew : Nat) (s : State) : Out :=
  match s.crew crew with
  | none => .next s
  | some c =>
    let low := s.isLowest c
    if !low && !((s.unit c.unit).any (·.restored)) then .next (s.arm (.ctxopRestore crew))
    else
      let im := s.imgStatus c.world c.ctximg.toNat
      let s := s.touchImg c.world c.ctximg.toNat
      match im with
      | .error x => .next (s.ctxopDone crew x)
      | .ok im =>
        -- scratchpad and private segment first, then the block's objects and commands, then the rest
        let s := (im.bodies 9).foldl (fun s b => s.restorePriv crew b) s
        let s := if low then s.restoreBlock c im else s
        let s := (im.bodies 4).foldl (fun s b => s.restoreSysc c b) s
        -- a sub-group that parked on another die is withdrawn; its threads replay at the tret
        let s := s.dropGroups fun g => g.crew == crew && g.core / 64 != c.core / 64
        .next ((s.restoreTimes c).ctxopDone crew 0)

end Sys2Proof.Machine
end

