-- ==== Sys2Proof/Machine/Schedule.lean ====
section
/-! DEFINITION. Launch queues and the dispatcher: taking entries, graphs, phases and the job, placement of blocks,
priority, resuming saved units, the throttle (R41 to R43, R62, R68, R323, R329 to R347). -/

namespace Sys2Proof.Machine

/-! ## Placement (R15, R41, R42, R62, R110, R343) -/

/-- Choices of `n` from a list, in lexicographic order. -/
def subsetsOf : List Nat → Nat → List (List Nat)
  | _, 0 => [[]]
  | [], _ + 1 => []
  | x :: r, n + 1 => (subsetsOf r n).map (x :: ·) ++ subsetsOf r (n + 1)

/-- The allocation A of a descriptor (R107). -/
def LDesc.alloc (d : LDesc) : Nat := (d.scratch + 511) / 512 * 512

/-- The block-relative core and the quarter of crew `k` (R42). -/
def LDesc.crewPlace (d : LDesc) (k : Nat) : Nat × Nat := (k % d.block, k / d.block % 4)

/-- Crews of a block on a quarter of its core `rel`. -/
def LDesc.crewsAt (d : LDesc) (rel q : Nat) : Nat := ((List.range d.crews).filter fun k => d.crewPlace k == (rel, q)).length

/-- Crews resident on a quarter, drips apart. -/
def State.resident (s : State) (core q : Nat) : List Crew :=
  s.crews.filter fun c => c.core == core && c.quarter == q && c.drip.isNone

/-- A launch with units to dispatch that may be dispatched now (R342). -/
def State.ready (s : State) (l : Launch) : Bool :=
  l.taken && (l.state = .queued || l.state = .running) &&
    ((l.resumeOf.isNone && decide (l.next < l.desc.grid)) || l.saved.any (!·.claimed)) &&
    (!l.gang || decide (l.next > 0)) && !s.ckpt.hold &&
    (match s.world l.world with
      | some w => !w.ctl.jobHeld && l.phaseNo == w.ctl.phase
      | none => false)

/-- A core lies in a cluster that is reserved for a gang's first unit (R346). -/
def State.keptFrom (s : State) (core : Nat) : Bool := s.gangs.any fun g => g.place.any fun x => x / 8 == core / 8

/-- Space that is kept for launches other than `h` of a world, once the victims have left it (R344). -/
def State.keptSpace (s : State) (wn : Nat) (h : Word) : List Kept :=
  s.reserved.filter fun k => !(k.world == wn && k.launch == h) && (s.launch k.world k.launch).any s.ready &&
    !(s.units.any fun u => u.uid == k.unit && u.cores == k.cores)

/-- The block-relative cores of kept space that lie on a core. -/
def Kept.rels (k : Kept) (core : Nat) : List Nat := (List.range k.cores.length).filter fun i => k.cores[i]? == some core

/-- A core can hold block-relative core `rel` of a block. -/
def State.coreFits (s : State) (d : LDesc) (wn : Nat) (h : Word) (rel core : Nat) : Bool :=
  let units := s.units.filter fun u => u.cores.contains core
  let kept := (s.keptSpace wn h).flatMap fun k => (k.rels core).map fun r => (k.desc, r)
  decide ((units.map (·.alloc)).sum + (kept.map (·.1.alloc)).sum + d.alloc ≤ 524288) &&
    decide ((units.map fun u => (u.cbs.filter fun b => u.cores[b.core]? == some core).length).sum +
      (kept.map fun k => (k.1.cbs.filter (·.1 == k.2)).length).sum + (d.cbs.filter fun b => b.1 == rel).length ≤ 16) &&
    (List.range 4).all fun q =>
      let n := d.crewsAt rel q
      let here := s.resident core q
      let gone := kept.map fun k => (k.1, k.1.crewsAt k.2 q)
      let b := (s.quarter (quarterNo core q)).bound
      n == 0 || (decide (here.length + (gone.map (·.2)).sum + n ≤ 8) &&
        decide ((here.map (·.nregs)).sum + (gone.map fun k => k.2 * k.1.nregs).sum + n * d.nregs ≤ 256) &&
        (!d.array || ((b == none || b == some h) && gone.all fun k => !k.1.array || k.2 == 0)))

/-- A cluster has the barrier objects that a block declares: it holds 128 (R223). -/
def State.barsFit (s : State) (d : LDesc) (wn : Nat) (h : Word) (cluster : Nat) : Bool :=
  decide (((s.units.filter (·.cluster == cluster)).map (·.bars.length)).sum +
    (((s.keptSpace wn h).filter fun k => k.cores.any fun c => c / 8 == cluster).map (·.desc.bars.length)).sum +
    d.bars.length ≤ 128)

/-- The cores of a cluster where a block fits: the lowest-numbered ones. -/
def State.clusterFits (s : State) (d : LDesc) (wn : Nat) (h : Word) (cluster : Nat) : Option (List Nat) :=
  if !s.barsFit d wn h cluster then none else
  let cores := ((List.range 8).map (8 * cluster + ·)).filter fun c => !(s.keptFrom c)
  (subsetsOf cores d.block).find? fun l => l.zipIdx.all fun p => s.coreFits d wn h p.2 p.1

/-- Clusters of a die latched to a world, ascending. -/
def State.clustersOf (s : State) (die wn : Nat) : List Nat :=
  if s.plat.dieWorld.getD die 0 = wn && wn ≠ 0 then (List.range 8).map (8 * die + ·) else []

/-- Where a block of a launch can be placed on a die (R343). -/
def State.placeOn (s : State) (d : LDesc) (wn : Nat) (h : Word) (die : Nat) : Option (List Nat) :=
  (s.clustersOf die wn).findSome? (s.clusterFits d wn h)

/-! ## Dispatch (R41, R62, R68, R113) -/

/-- Binds a quarter to an array-using launch whose first crew comes to it: accumulators, row status and planes are reset
(R62), and the token is the crew's, unless it is resumed (R68, R200). Where only resumed crews are on the quarter, no crew
holds the token until a fresh one is placed there (log entry 24, DESIGN CHOICE). -/
def State.bindArray (s : State) (l : Launch) (q uid : Nat) (resumed : Bool) : State :=
  if !l.desc.array then s
  else if (s.quarter q).bound = some l.handle then
    if (s.quarter q).token.isNone && !resumed then
      s.onQuarter q fun x => { x with token := some uid }
    else s
  else s.onQuarter q fun x => { Quarter.init with
    bound := some l.handle
    bins := x.bins
    token := if resumed then none else some uid }

/-- The lowest free residency slot of a quarter. -/
def State.freeResidency (s : State) (core q : Nat) : Nat :=
  ((List.range 8).find? fun n => !((s.resident core q).any (·.slot == n))).getD 0

/-- Crew `k` of a block at launch (R68), or with its threads at the resume vector (R323). -/
def State.placeCrew (s : State) (l : Launch) (u : BUnit) (k uid : Nat) (threads : List Thread) (f : Crew → Crew) : State :=
  let (rel, q) := l.desc.crewPlace k
  let core := u.cores.getD rel noCore
  let c : Crew := { Crew.init uid with
    unit := u.uid
    launch := l.handle
    world := l.world
    idx := k
    core
    quarter := q
    slot := s.freeResidency core q
    nregs := l.desc.nregs
    nuregs := l.desc.nuregs
    priv := l.desc.priv
    win := if l.desc.priv = 0 then 0 else Config.privatePage uid * pageBytes
    threads }
  (State.armSampler { s with crews := s.crews ++ [f c] } (quarterNo core q) uid).throttle core

/-- A block's objects at dispatch (R110, R223). -/
def unitOf (l : Launch) (uid block : Nat) (cores : List Nat) : BUnit where
  uid := uid
  launch := l.handle
  world := l.world
  block := block
  die := cores.headD 0 / 64
  cluster := cores.headD 0 / 8
  cores := cores
  ncrews := l.desc.crews
  alloc := l.desc.alloc
  spad := []
  bars := l.desc.bars.map fun m => ⟨m, 0, 0⟩
  cbs := l.desc.cbs.map fun c => ⟨c.1, c.2.1, c.2.2.1, c.2.2.2, 0, 0, c.2.2.2, 0, List.replicate c.2.2.2 (.free, false)⟩
  qctr := []
  lastExit := false
  finished := 0
  since := 0
  victim := 0
  restored := false
  cncl := none
  spadPoison := []

/-- A launch whose unit is dispatched on some cores: RUNNING, its first dispatch noted, its priority back at PRIO (R45,
R342), its gang's or roost's waiting over (R393), the space kept for it there given up, and that of launches that are no
longer ready (R344). -/
def State.launchDispatched (s : State) (l : Launch) (cores : List Nat) (f : Launch → Launch) : State :=
  let now := s.plat.devtime.toNat
  let s := (s.onLaunch l.world l.handle fun x => f { x with
    state := if x.state = .queued then .running else x.state
    eff := if x.gang && x.eff = 9 && (f x).next < x.desc.grid then 9 else x.prio
    times := if x.times.getD 1 0 = 0 then x.times.set 1 now else x.times }).putStatus l.world l.handle
  let s := match l.roost with
    | some r => s.dropHolds r
    | none => s
  let there := s.reserved.any fun k => k.world == l.world && k.launch == l.handle && k.cores.any cores.contains
  let s := State.arm { s with reserved := s.reserved.filter fun k =>
    (s.launch k.world k.launch).any s.ready && !(there && k.world == l.world && k.launch == l.handle) } (.priorityRise l.order)
  match s.graph l.world l.graph with
  | some g => if l.graph ≠ 0 && g.state = .queued then
      (s.onGraph l.world l.graph fun g => { g with state := .running, times := g.times.set 1 now }).putGraphStatus l.world l.graph
    else s
  | none => s

/-- One block begins on its cores. -/
def State.placeUnit (s : State) (l : Launch) (block : Nat) (cores : List Nat) : State :=
  let (uid, s) := s.sampleTime.fresh
  let u := { unitOf l uid block cores with since := s.plat.devtime.toNat }
  let s := { s with units := s.units ++ [u] }
  let s := (List.range l.desc.crews).foldl (fun s k =>
    let (cid, s) := s.fresh
    let p := l.desc.crewPlace k
    let s := s.bindArray l (quarterNo (cores.getD p.1 noCore) p.2) cid false
    s.placeCrew l u k cid ((List.range crewWidth).map fun i => Thread.init i l.desc.entry) fun c =>
      (l.desc.args.zipIdx).foldl (fun c a => c.setS a.2 a.1) c) s
  s.launchDispatched l cores fun x => { x with next := block + 1 }

/-! ## Resume (R323) -/

/-- The exit mask of an image. -/
def State.exitMask (s : State) (wn img : Nat) : Nat :=
  match s.devRead wn (img + 0x2C) 4, s.devRead wn (img + 0x68) 12 with
  | some a, some b => leNat a + 2 ^ 32 * leNat b
  | _, _ => 0

/-- A saved thread at the resume vector. -/
def resumeThread (mask lane : Nat) : Thread :=
  let t := Thread.init lane 0x140
  if bitN mask lane then { t with st := .exited, tstate := 5 }
  else { t with
    mode := .S
    inTrap := true
    tcause := 0x14
    tmode := .U }

/-- One saved unit begins to resume on its cores. -/
def State.placeSaved (s : State) (l : Launch) (v : Saved) (cores : List Nat) : State :=
  let s := s.sampleTime
  let u := { unitOf l v.unit v.block cores with since := s.plat.devtime.toNat }
  let s := { s with units := s.units ++ [u] }
  let s := (v.crews.zip v.images).foldl (fun s p =>
    let k := p.1.idx
    let pl := l.desc.crewPlace k
    let s := s.bindArray l (quarterNo (cores.getD pl.1 noCore) pl.2) p.1.uid true
    let mask := s.exitMask l.world p.2
    let s := s.touchAll l.world [(p.2 + 0x2C, 4), (p.2 + 0x68, 12)]
    let s := s.placeCrew l u k p.1.uid ((List.range crewWidth).map (resumeThread mask)) fun c => { c with
      ctximg := BitVec.ofNat 64 p.2
      course := .resuming
      region := p.1.region
      lost := p.1.lost
      asyncQ := p.1.pending }
    s) s
  s.launchDispatched l cores fun x => { x with saved := x.saved.filter fun y => !(y.block == v.block && !y.claimed) }

/-- The saved units that resume together, ascending `%block`. -/
def Launch.nextSet (l : Launch) : List Saved :=
  let open' := sortBy (fun (a b : Saved) => decide (a.block < b.block)) (l.saved.filter (!·.claimed))
  match open' with
  | [] => []
  | v :: _ => open'.filter (·.set == v.set)

/-- Two blocks of a set on their new cores: crews that shared a quarter share one (R313, R323). -/
def sharesKept (d : LDesc) (v w : Saved × List Nat) : Bool :=
  (v.1.cores.zip v.2).zipIdx.all fun x => (w.1.cores.zip w.2).zipIdx.all fun y =>
    x.1.1 != y.1.1 || x.1.2 == y.1.2 || (List.range 4).all fun q => d.crewsAt x.2 q == 0 || d.crewsAt y.2 q == 0

/-- The ways to put one more block of a set on a cluster, beside those that have their cores (R41, R42). -/
def State.resumePlaces (s : State) (l : Launch) (v : Saved) (done : List (Saved × List Nat)) (cluster : Nat) : List (List Nat) :=
  if !s.barsFit l.desc l.world l.handle cluster then []
  else (subsetsOf (((List.range 8).map (8 * cluster + ·)).filter fun c => !(s.keptFrom c)) l.desc.block).filter fun cores =>
    (cores.zipIdx.all fun p => s.coreFits l.desc l.world l.handle p.2 p.1) && done.all (sharesKept l.desc (v, cores))

/-- Resumes the blocks of a set on some of the clusters: the first placement that all of them find. -/
def State.resumeOn (clusters : List Nat) (l : Launch) : List Saved → List (Saved × List Nat) → State → Option State
  | [], _, s => some s
  | v :: r, done, s =>
    (clusters.flatMap (s.resumePlaces l v done)).findSome? fun cores =>
      State.resumeOn clusters l r ((v, cores) :: done) (s.placeSaved l v cores)

/-- The state after the next set of a launch resumes on a die. Blocks of a set that does not fit there may go to other dies of
the world: the set is resumed together (R313; log entry 24, DESIGN CHOICE). -/
def State.resumeDie (s : State) (l : Launch) (die : Nat) : Option State :=
  match l.nextSet with
  | [] => none
  | [v] => State.resumeOn (s.clustersOf die l.world) l [v] [] s
  | vs => State.resumeOn ((die :: (List.range 4).filter (· != die)).flatMap fun d => s.clustersOf d l.world) l vs [] s

/-! ## The choice of a launch (R342, R343) -/

/-- `a` was submitted before `b`: by an earlier kick, or earlier in one (R343). -/
def Launch.earlier (a b : Launch) : Bool := decide (a.sub < b.sub) || (a.sub == b.sub && decide (a.order < b.order))

/-- `a` is chosen before `b` (R343). -/
def Launch.before (a b : Launch) : Bool :=
  decide (a.eff > b.eff) || (a.eff == b.eff &&
    if a.eff = 8 then decide (a.at8 < b.at8) || (a.at8 == b.at8 && a.earlier b) else a.earlier b)

/-- A ready launch can place its next unit on a die. -/
def State.placeable (s : State) (l : Launch) (die : Nat) : Bool :=
  if l.saved.any (!·.claimed) then (s.resumeDie l die).isSome
  else (s.placeOn l.desc l.world l.handle die).isSome

/-- The launch a die's dispatcher serves next. -/
def State.chosen (s : State) (die : Nat) : Option Launch :=
  pickBy Launch.before (s.launches.filter fun l => s.ready l && s.placeable l die)

/-- DISPATCH_UNIT (R343). The dispatcher places one unit of the chosen ready launch. -/
def execDispatchUnit (die : Nat) (s : State) : Out :=
  match s.chosen die with
  | none => .next s
  | some l =>
    if l.saved.any (!·.claimed) then .next (s.arm (.resumeStart l.order))
    else match s.placeOn l.desc l.world l.handle die with
      | none => .next s
      | some cores => .next ((s.placeUnit l l.next cores).arm (.dispatchUnit die))

/-- RESUME_START (R323). The scheduler places a saved set and starts threads at vector 0x14. -/
def execResumeStart (launch : Nat) (s : State) : Out :=
  match s.launches.find? (·.order == launch) with
  | none => .next s
  | some l =>
    -- the launch is still the one that a die's dispatcher would choose (R343)
    let dies := (List.range 4).filter fun d => (s.chosen d).any (·.order == launch)
    match dies.findSome? (s.resumeDie l) with
    | some s => .next s.wakeDispatch
    | none => .next s

/-- PRIORITY_RISE (R342). Each full 100 µs undispatched raises effective priority by 1. -/
def execPriorityRise (launch : Nat) (s : State) : Out :=
  match s.launches.find? (·.order == launch) with
  | none => .next s
  | some l =>
    if l.state.ended || l.state = .cancelling then .next s
    else if !s.ready l || l.eff ≥ 8 then .next (if l.eff ≥ 8 then s else s.arm (.priorityRise launch))
    else
      let (n, s) := s.fresh
      let s := s.onLaunch l.world l.handle fun x => { x with eff := x.eff + 1, at8 := if x.eff = 7 then n else x.at8 }
      .next (if l.eff = 7 then s.arm (.starvationPreempt l.world) else s.arm (.priorityRise launch)).wakeDispatch

/-! ## Entries (R330 to R332, R335) -/

/-- A launch has been taken: it waits for dispatch, and its priority begins to rise. One that is taken in a phase that was
stopped is not dispatched (R47). -/
def State.taken (s : State) (wn q : Nat) (h : Word) : State :=
  let s := s.onKick wn q fun k => { k with live := h }
  match s.launch wn h with
  | some l => ((s.arm (.priorityRise l.order)).wakeDispatch.stopPhase wn).phaseCheck wn
  | none => s.wakeDispatch

/-- A refused entry (R335): its status block when that can be written, the kick page, the interrupt ring, the next entry. -/
def State.refuseEntry (s : State) (wn q entry reason : Nat) (status : Option Nat) : State :=
  let s := match status with
    | some va => ((s.devWrite wn va (leBytes 4 LState.refused.code)).1.devWrite wn (va + 28) (leBytes 4 reason)).1
    | none => s
  let s := s.onKick wn q fun k => { k with err := true, code := reason }
  (s.interrupt wn 3 0 [q, reason, entry % 2 ^ 32, entry / 2 ^ 32]).arm (.queueEntryTake wn q)

/-- A node of a graph: its descriptor, its explicit predecessors, its operands. -/
structure NodeSpec where
  desc : LDesc
  preds : List Nat
  opnds : List (Nat × Nat × Bool)
  deriving DecidableEq, Repr

/-- Two operands overlap and one is written (R336). -/
def opndMeet (a b : Nat × Nat × Bool) : Bool :=
  (a.2.2 || b.2.2) && decide (a.1 < b.1 + b.2.1) && decide (b.1 < a.1 + a.2.1)

/-- Node `j` of a graph, read and checked (R336). -/
def State.readNode (s : State) (wn tab j : Nat) : Option NodeSpec :=
  match s.devRead wn (tab + 32 * j) 32 with
  | none => none
  | some b =>
    let np := fieldN (natAt b 2) 0 16
    let no := fieldN (natAt b 2) 16 16
    let preds := if np = 0 then some [] else (s.devRead wn (nat64At b 4) (2 * np)).map fun l => (entriesOf 2 l).map leNat
    let ops := if no = 0 then some [] else (s.devRead wn (nat64At b 6) (16 * no)).map (entriesOf 16)
    match s.readLaunch wn (nat64At b 0), preds, ops with
    | .ok d, some ps, some os =>
      if no > 16 || natAt b 3 ≠ 0 || ps.any (fun i => decide (i ≥ j)) ||
        os.any (fun o => fieldN (nat64At o 0) 56 7 ≠ 0 || nat64At o 2 = 0) then none
      else some ⟨d, ps, os.map fun o => (fieldN (nat64At o 0) 0 56, nat64At o 2, bitN (nat64At o 0) 63)⟩
    | _, _, _ => none

/-- The nodes of a graph with all their predecessors. -/
def graphNodes (l : List NodeSpec) : List (LDesc × List Nat) :=
  l.zipIdx.map fun n => (n.1.desc, (List.range n.2).filter fun i =>
    n.1.preds.contains i || match l[i]? with
      | some m => m.opnds.any fun a => n.1.opnds.any fun b => opndMeet a b
      | none => false)

/-- A graph descriptor: its nodes and status block, or the refusal. -/
def State.readGraph (s : State) (wn va : Nat) : Except (Option Nat) (List (LDesc × List Nat) × Nat) :=
  if va % 64 ≠ 0 then .error none
  else match s.devRead wn va 64 with
    | none => .error none
    | some b =>
      let n := fieldN (natAt b 0) 0 13
      let st := nat64At b 4
      let zero := ((b.drop 4).take 4 ++ b.drop 24).all (· == 0)
      if fieldN (natAt b 0) 13 19 ≠ 0 || n = 0 || n > 4096 || !zero then .error (some st)
      else match allSome ((List.range n).map (s.readNode wn (nat64At b 2))) with
        | some l => .ok (graphNodes l, st)
        | none => .error (some st)

/-- Nodes of a graph whose predecessors are all COMPLETE enter the ready pool (R336). -/
def State.readyNodes (s : State) (wn : Nat) (h : Word) : State :=
  match s.graph wn h with
  | none => s
  | some g =>
    if g.state.ended || g.state = .cancelling then s
    else (List.range g.nodes.length).foldl (fun s j =>
      let (d, ps) := g.nodes.getD j (LDesc.init, [])
      let has := s.launches.any fun l => l.world == wn && l.graph == h && l.node == j
      if g.nstate.getD j .queued = .queued && !has && ps.all (fun i => g.nstate.getD i .queued = .complete) then
        let (x, s) := s.acceptLaunch wn g.queue d (g.times.headD 0) g.sub fun l => { l with
          graph := h
          node := j
          phaseNo := g.phaseNo }
        match s.launch wn x with
        | some l => (s.arm (.priorityRise l.order)).wakeDispatch
        | none => s
      else s) s

/-- A graph is taken. -/
def State.takeGraph (s : State) (wn q : Nat) (nodes : List (LDesc × List Nat)) (status when' sub : Nat) : State :=
  let (h, s) := s.newHandle wn
  let g : Graph :=
    { handle := h, world := wn, queue := q, state := .queued, status, nodes, nstate := nodes.map fun _ => .queued, reason := 0
      times := [when', 0, 0]
      sub
      phaseNo := (s.world wn).elim 0 World.phaseNow }
  let s := (State.putGraphStatus { s with graphs := g :: s.graphs } wn h).onKick wn q fun k => { k with live := h }
  ((s.readyNodes wn h).stopPhase wn).phaseCheck wn

/-- Images of a block from the first on, each with its address; none where a check of R341 fails. -/
def State.imageChain (s : State) (wn : Nat) (d : LDesc) : Nat → Nat → Nat → Option (List (Nat × Img))
  | 0, _, _ => some []
  | n + 1, k, img =>
    match s.imgStatus wn img with
    | .error _ => none
    | .ok im =>
      let w := natAt im.head
      if img % 4096 ≠ 0 || w 7 ≠ d.nregs + 65536 * d.nuregs || w 8 ≠ d.priv || w 6 ≠ k then none
      else (State.imageChain s wn d n (k + 1) (nat64At im.head 29)).map fun r => (img, im) :: r

/-- What following a chain of images leaves: malformed table entries are counted (R351). -/
def State.touchChain (s : State) (wn : Nat) : Nat → Nat → State
  | 0, _ => s
  | n + 1, img =>
    let t := s.touchImg wn img
    match s.imgStatus wn img with
    | .error _ => t
    | .ok im => State.touchChain t wn n (nat64At im.head 29)

/-- A resume entry (R341): the launch of one saved unit, or the refusal. -/
def State.readResume (s : State) (wn va : Nat) : Except (Nat × Option Nat) (LDesc × List (Nat × Img)) :=
  if va % 64 ≠ 0 then .error (refDesc, none)
  else match s.devRead wn va 64 with
    | none => .error (refDesc, none)
    | some b =>
      match s.readDesc wn (nat64At b 0) with
      | (none, st) => .error (refDesc, st)
      | (some d, st) =>
        if fieldN (natAt b 4) 7 25 ≠ 0 || !((b.drop 20).all (· == 0)) || nat64At b 2 % 4096 ≠ 0 ||
          fieldN (natAt b 4) 0 7 ≠ d.crews then .error (refDesc, st)
        else match d.refusal with
          | some r => .error (r, st)
          | none =>
            if (s.imagePages wn (nat64At b 2) 1).isNone then .error (refImage, st)
            else match s.imageChain wn d d.crews 0 (nat64At b 2) with
              | some l => .ok (d, l)
              | none => .error (refImage, st)

/-- A resume entry is taken: a launch whose one unit is saved. -/
def State.takeResume (s : State) (wn q : Nat) (d : LDesc) (l : List (Nat × Img)) (when' sub : Nat) : State :=
  let block := match l with
    | (_, im) :: _ => natAt im.head 5
    | [] => 0
  let (uid, s) := s.fresh
  let (s, crews) := (List.range d.crews).foldl (fun (p : State × List SavedCrew) k =>
    let (i, s) := p.1.fresh
    (s, p.2 ++ [⟨k, i, 0, [], 0⟩])) (s, [])
  let v : Saved := ⟨block, uid, crews, l.map (·.1), [], uid, false⟩
  let (h, s) := s.acceptLaunch wn q d when' sub fun x => { x with resumeOf := some block, next := d.grid, saved := [v] }
  s.taken wn q h

/-- What reading the head entry of a queue and what it names leaves: malformed table entries are counted (R351). -/
def State.touchKicked (s : State) (wn : Nat) (k : KickPage) : State :=
  let at' := k.ring + 8 * (k.head.toNat % 2 ^ k.logDepth)
  match s.devRead wn at' 8 with
  | none => s.devTouch wn at' 8
  | some b =>
    let e := leNat b
    let va := fieldN e 0 56
    if fieldN e 58 6 ≠ 0 then s
    else match fieldN e 56 2 with
      | 0 => s.touchLaunch wn va
      | 1 => match s.devRead wn va 64 with
        | none => s.devTouch wn va 64
        | some g => (List.range (fieldN (natAt g 0) 0 13)).foldl (fun s j =>
            match s.devRead wn (nat64At g 2 + 32 * j) 32 with
            | none => s.devTouch wn (nat64At g 2 + 32 * j) 32
            | some n => (s.touchAll wn [(nat64At n 4, 2 * fieldN (natAt n 2) 0 16), (nat64At n 6, 16 * fieldN (natAt n 2) 16 16)]).touchLaunch
                wn (nat64At n 0)) s
      | 2 => s
      | _ => match s.devRead wn va 64 with
        | none => s.devTouch wn va 64
        | some r => ((s.devTouch wn (nat64At r 2) 4096).touchLaunch wn (nat64At r 0)).touchChain wn
            (fieldN (natAt r 4) 0 7) (nat64At r 2)

/-- A phase mark is taken (R337). -/
def State.takeMark (s : State) (wn q : Nat) : State :=
  ((s.onWorld wn fun w => { w with ctl := { w.ctl with marks := w.ctl.marks + 1 } }).phaseCheck wn).arm (.queueEntryTake wn q)

/-- The head entry of a queue is read, checked and taken (R330, R335). -/
def State.takeKicked (s : State) (wn q : Nat) (k : KickPage) : State :=
  let at' := k.ring + 8 * (k.head.toNat % 2 ^ k.logDepth)
  let (when', sub) := k.submission
  let s := (s.touchKicked wn k).onKick wn q KickPage.taken
  match s.devRead wn at' 8 with
  | none => s.refuseEntry wn q (2 ^ 64 - 1) refDesc none
  | some b =>
    let e := leNat b
    let va := fieldN e 0 56
    if fieldN e 58 6 ≠ 0 then s.refuseEntry wn q e refDesc none
    else match fieldN e 56 2 with
      | 0 => match s.readLaunch wn va with
        | .error (r, st) => s.refuseEntry wn q e r st
        | .ok d =>
          let (h, s) := s.acceptLaunch wn q d when' sub id
          s.taken wn q h
      | 1 => match s.readGraph wn va with
        | .error st => s.refuseEntry wn q e refDesc st
        | .ok (nodes, st) => s.takeGraph wn q nodes st when' sub
      | 2 => if va ≠ 0 then s.refuseEntry wn q e refDesc none else s.takeMark wn q
      | _ => match s.readResume wn va with
        | .error (r, st) => s.refuseEntry wn q e r st
        | .ok (d, l) => s.takeResume wn q d l when' sub

/-- An entry that `lnch` submitted is taken: its launch belongs to the phase of that moment, unless it has ended meanwhile
(R332, R337). -/
def State.takeHeld (s : State) (wn q : Nat) (k : KickPage) (h : Word) : State :=
  let s := s.onKick wn q fun x => { x.taken with heldEntries := x.heldEntries.filter (·.1 != k.head) }
  if ((s.launch wn h).elim true (·.state.ended)) then s.arm (.queueEntryTake wn q)
  else (s.onLaunch wn h fun l => { l with
    taken := true
    phaseNo := (s.world wn).elim 0 World.phaseNow }).taken wn q h

/-- The kernel boundary after a queue's last level is still to come: it lets the next entry be taken (R330). -/
def State.boundaryDue (s : State) (wn q : Nat) : Bool :=
  s.agenda.any fun e => match e with
    | .kernelBoundary w h => w == wn && match s.launch w (BitVec.ofNat 32 h), s.graph w (BitVec.ofNat 32 h) with
      | some l, _ => l.graph == 0 && l.queue == q
      | none, some g => g.queue == q
      | none, none => false
    | _ => false

/-- QUEUE_ENTRY_TAKE (R330). A queue's head entry is read, checked and taken; a phase mark and a held job stop dispatch, not
the taking of entries, which ends with a cancelled or closed job (R337). -/
def execQueueEntryTake (world queue : Nat) (s : State) : Out :=
  match s.world world with
  | none => .next s
  | some w =>
    let k := w.kickPage queue
    if !k.enable || k.head == k.tail || k.live != 0 || w.ctl.jobEnded || s.boundaryDue world queue then .next s
    else match k.heldEntries.find? (·.1 == k.head) with
      | some (_, h) => .next (s.takeHeld world queue k h)
      | none => .next (s.takeKicked world queue k)

/-- Entries submitted: TAIL moves, or the kick is refused (R331). -/
def State.kickTail (s : State) (wn q : Nat) (tail : Word) : State :=
  match s.world wn with
  | none => s
  | some w =>
    let k := w.kickPage q
    if (tail - k.head).toNat > 2 ^ k.logDepth then s.onKick wn q fun k => { k with err := true, code := refFull }
    else (s.noteKick wn q tail).arm (.queueEntryTake wn q)

/-- KICK (R331). Write or atomic on TAIL submits queue entries or sets ERR QUEUE_FULL. -/
def execKick (world queue : Nat) (tail : Word) (s : State) : Out := .next (s.kickTail world queue tail)

/-- KERNEL_BOUNDARY (R117, R141, R330). L1s are written back and invalidated, and the writes of what has ended stand before
every later access; then the nodes of its graph, or the next entry of its queue, go on. A graph that ends stands for its
launches. -/
def execKernelBoundary (world launch : Nat) (s : State) : Out :=
  let h := BitVec.ofNat 32 launch
  match s.launch world h, s.graph world h with
  | some l, _ =>
    let s := State.settleLaunch { s with l1 := [] } world h
    .next (if l.graph ≠ 0 then s.readyNodes world l.graph else s.arm (.queueEntryTake world l.queue))
  | none, some g =>
    let mine := s.launches.filter fun (l : Launch) => l.world == world && l.graph == h
    .next ((mine.foldl (fun (s : State) l => s.settleLaunch world l.handle) { s with l1 := [] }).arm
      (.queueEntryTake world g.queue))
  | none, none => .next s

/-! ## The job (R337, R338) -/

/-- CTRL 1: a held job goes on with its next phase. -/
def State.resumeJob (s : State) (wn : Nat) : State :=
  match s.world wn with
  | none => s
  | some w =>
    if w.ctl.jobHeld then
      (((s.onWorld wn fun w => { w with ctl := w.ctl.nextPhase }).wakeDispatch.stopPhase wn).phaseCheck wn)
    else s

/-- CTRL 3: the job takes no further entry, and ends when what was taken has ended. -/
def State.closeJob (s : State) (wn : Nat) : State :=
  (s.onWorld wn fun w => { w with ctl := { w.ctl with jobEnded := true } }).phaseCheck wn

/-- CTRL_RESUME (R338). CTRL 1 resumes a held job. -/
def execCtrlResume (world : Nat) (s : State) : Out := .next (s.resumeJob world)

/-- CTRL_CANCEL (R338). CTRL 2 cancels the job. -/
def execCtrlCancel (world : Nat) (s : State) : Out := .next (s.cancelJob world)

/-- CTRL_CLOSE (R338). CTRL 3 closes the job. -/
def execCtrlClose (world : Nat) (s : State) : Out := .next (s.closeJob world)

/-- JOB_OPEN (R337). Firmware opens a new job in an existing world, after which its queues take entries again. -/
def execJobOpen (world : Nat) (s : State) : Out :=
  match s.world world with
  | none => .next s
  | some w =>
    if !w.ctl.jobEnded || s.worldBusy world then .next s
    else .next ((s.onWorld world fun w => { w with ctl := { w.ctl with
      phase := 0
      pstate := .running
      pcount := 0
      jstate := .running
      jcount := 0
      jobHeld := false
      jobEnded := false
      jobBad := false
      marks := 0
      phaseBad := false
      later := [] } }).wakeTakers world)

/-! ## Claims of saved units (R341) -/

/-- The launch and unit that an image address begins. -/
def State.savedAt (s : State) (wn img : Nat) (claimed : Bool) : Option (Launch × Saved) :=
  s.launches.findSome? fun l =>
    if l.world = wn then (l.saved.find? fun v => v.claimed == claimed && v.images.head? == some img).map fun v => (l, v)
    else none

def State.claimStat (s : State) (wn n : Nat) : State :=
  s.onWorld wn fun w => { w with ctl := { w.ctl with claimstat := n } }

/-- CLAIMCMD 1: a saved unit is withdrawn for resumption elsewhere. -/
def State.claimUnit (s : State) (wn : Nat) : State :=
  match s.world wn with
  | none => s
  | some w =>
    match s.savedAt wn w.ctl.claimimg.toNat false with
    | none => s.claimStat wn 1
    | some (l, v) =>
      let s := (s.claimStat wn 0).onLaunch wn l.handle fun l => { l with
        moved := l.moved + 1
        saved := l.saved.map fun y => if y.block = v.block then { y with claimed := true } else y }
      s.unitFinished wn l.handle

/-- CLAIMCMD 2: the slots of a claimed unit are freed. -/
def State.claimFree (s : State) (wn : Nat) : State :=
  match s.world wn with
  | none => s
  | some w =>
    match s.savedAt wn w.ctl.claimimg.toNat true with
    | none => s.claimStat wn 2
    | some (l, v) =>
      let s := v.images.foldl (fun s a => s.freeSlot wn a) (s.claimStat wn 0)
      (s.dropSaved v).onLaunch wn l.handle fun l => { l with saved := l.saved.filter fun y => !(y.claimed && y.block == v.block) }

/-- CLAIM_UNIT (R341). CLAIMCMD 1 withdraws a saved unit for resumption elsewhere. -/
def execClaimUnit (world : Nat) (s : State) : Out := .next (s.claimUnit world)

/-- CLAIM_FREE (R341). CLAIMCMD 2 frees the slots of a claimed unit. -/
def execClaimFree (world : Nat) (s : State) : Out := .next (s.claimFree world)

/-! ## The throttle (R347) -/

/-- LOCALITY_SCORE_HALVE (R347). Every 4,096 clk lost-locality scores halve, rounded down. -/
def execLocalityScoreHalve (core : Nat) (s : State) : Out :=
  let mine := (s.crews.filter fun c => c.core == core).map (·.uid)
  .next (State.throttle { s with scores := s.scores.filterMap fun x =>
    (if !mine.contains x.1 then some x else if x.2 / 2 = 0 then none else some (x.1, x.2 / 2)) } core)

/-- THROTTLE_SWAP (R347). A crew held 1,024 clk takes the place of the lowest-ranked allowed crew for 256 clk; the same step
ends its 256 clk. -/
def execThrottleSwap (crew : Nat) (s : State) : Out :=
  match s.crew crew with
  | none => .next s
  | some c =>
    if s.swapped.contains crew then .next (State.throttle { s with swapped := s.swapped.filter (· != crew) } c.core)
    else if !s.throttled.contains crew then .next s
    else
      -- the lowest-ranked allowed crew is held in its place
      match ((s.ranked c.core).filter fun x => !s.throttled.contains x.uid).getLast? with
      | none => .next s
      | some low =>
        let s := { s with swapped := s.swapped.filter (· != low.uid) ++ [crew] }
        .next ((s.throttle c.core).arm (.throttleSwap crew))

end Sys2Proof.Machine
end

