-- ==== Sys2Proof/Machine/Preempt.lean ====
section
/-! DEFINITION. Asynchronous traps, pre-emption and the last EXIT of a block; system-call replies and the allocator
(R49, R50, R261, R263, R307, R310, R313 to R316, R326 to R328, R340, R344). -/

namespace Sys2Proof.Machine

/-! ## Taking a thread out of its state (R307, R315) -/

/-- `%tstate` and `%tpc` of a thread that PREEMPT takes out (R315). -/
def Thread.outOf (t : Thread) : Nat × Word :=
  match t.st with
  | .running | .filed _ => (0, t.pc)
  | .coll .. => (1, t.pc)
  | .blocked (.sysc _) next | .blocked (.syscHeld _) next => (4, next)
  | .blocked .. => (2, t.pc)
  | .parked _ => (3, t.pc)
  | .exited => (5, t.pc)

/-- A thread leaves its state with a trap to enter, `%tpc` given. A wait it abandons disarms its monitor (R228). -/
def Thread.takeOut (t : Thread) (tr : Trap) (tpc : Word) : Thread :=
  let t : Thread := match t.st with
    | .blocked (.cb _ d _ _) _ | .blocked (.waitcSo d _ _) _ => { t with pendX := tabPut t.pendX none (t.wb + d) none }
    | _ => t
  let armed := match t.st with
    | .blocked .. => none
    | _ => t.monitor
  { t.leaveColl with
    st := .running
    monitor := armed
    entering := some (tr, tpc) }

/-- Lanes of a crew leave bins, collectives, waits and parked sub-groups for a trap. -/
def State.takeLanes (s : State) (uid : Nat) (lanes : List Nat) (f : Thread → Thread) : State :=
  match s.crew uid with
  | none => s
  | some c =>
    -- the destination of a vote stays pending while other sets wait there (R187)
    let stay := (c.threads.filter fun t => !lanes.contains t.lane).filterMap (·.collAt)
    let pcs := ((c.threads.filter fun t => lanes.contains t.lane).filterMap (·.collAt)).filter fun p => !stay.contains p
    let reads := s.mcmds.filter fun m => m.kind == .plrec && m.crew == uid && lanes.contains m.lane
    let s := reads.foldl State.leaveOrder s
    -- the threads of a bin have met at its REFORM; every other thread keeps the set it left running with (R24)
    let met := ((s.quarter (quarterNo c.core c.quarter)).bins.filter (·.crew == uid)).map fun b => b.lanes.filter lanes.contains
    ((s.leaveBins uid lanes).onCrew uid fun c =>
      (met.foldl Crew.band (c.onThreads (fun t => lanes.contains t.lane) f)).dropPend pcs).settle uid

/-! ## Asynchronous traps (R261, R307, R310) -/

/-- The place of an asynchronous cause in the order of delivery (R310). -/
def Cause.rank : Cause → Nat
  | .declinedKill => 1
  | .engineFault => 2
  | .quarantine => 3
  | _ => 4

/-- The thread that takes ENGINE_FAULT or QUARANTINE: the named one while it lives, else the crew's lowest live thread, else,
for a held last EXIT, the exited thread itself (R50, R261, R308). -/
def State.asyncLane (s : State) (c : Crew) (a : Async) : Option Thread :=
  let named : Option Thread := match a.lanes with
    | some l => c.threads.find? fun t => l.contains t.lane && t.live
    | none => none
  match named with
  | some t => some t
  | none => match c.threads.find? (·.live) with
    | some t => some t
    | none => if (s.unit c.unit).any (·.lastExit) then c.threads.head? else none

/-- A parked sub-group that a DECLINED_KILL is for. -/
def State.killGroup (s : State) (c : Crew) (a : Async) : Option Group :=
  s.groups.find? fun g => g.crew == c.uid && a.lanes == some g.lanes

/-- Matrix commands of a launch wait in the orders of the quarters. -/
def State.ordersBusy (s : State) (wn : Nat) (h : Word) : Bool :=
  s.mcmds.any fun m => (s.unit m.unit).any fun u => u.world == wn && u.launch == h

/-- Bursts of a handler read are being fetched: a local one that is under way, or one that another device or a server has
been asked for (R263, R271). -/
def State.fetching (s : State) (e : Entry) : Bool :=
  e.cmd == .hread && e.phase == .running &&
    if e.qid < 64 then s.agenda.any fun ev => match ev with
      | .hreadBurstArrive id _ _ => id == e.id
      | _ => false
    else e.asked.any (s.burstNew e)

/-- PREEMPT may be delivered: the matrix orders of the launch are drained, bursts that were being fetched have come and
been born, and born drips have retired (R251, R263, R314). -/
def State.preemptClear (s : State) (c : Crew) : Bool :=
  !(s.ordersBusy c.world c.launch) && !(s.crews.any fun x => x.unit == c.unit && x.drip.isSome) &&
    !(s.entries.any fun e => e.unit == c.unit && (s.fetching e || s.bursts.any (·.entry == e.id)))

/-- An asynchronous trap that may be delivered now. -/
def State.deliverable (s : State) (c : Crew) (a : Async) : Bool :=
  match a.trap.cause with
  | .engineFault | .quarantine =>
    (s.asyncLane c a).all fun t => !t.st.isParked && t.replay.isNone
  | .preempt => s.preemptClear c
  | _ => true

/-- Copies of a block that are under way stop and are abandoned, and leave sectors of both kinds (R262, R263). -/
def State.stopCopies (s : State) (unit : Nat) : State :=
  let hit := fun (e : Entry) => e.unit == unit && e.cmd.recorded && e.cmd != .hread && e.phase.begun && e.phase != .saved &&
    e.fin.isNone
  let ids := (s.entries.filter hit).map (·.id)
  let s := (s.entries.filter hit).foldl State.tearEntry s
  State.disarm { s with entries := mapIf hit (fun e => { e with phase := .abandoned }) s.entries } fun ev => match ev with
    | .cpyComplete id | .cpyredChunkApply id | .copyReplay id => ids.contains id
    | _ => false

/-- The lowest free save slot of a world (R340). -/
def World.freeSlot (w : World) : Option Nat := (List.range w.ctl.saveslots).find? fun i => !w.ctl.slotsUsed.contains i

/-- Pre-emption of a crew begins: a save slot, the token given up, copies stopped, every live thread taken to vector 0x13
(R200, R314, R315, R340). -/
def State.deliverPreempt (s : State) (c : Crew) (tr : Trap) : State :=
  match (s.world c.world).bind fun w => w.freeSlot.map fun i => (i, w.ctl.savebase + i * 2 ^ (20 + w.ctl.savelog)) with
  | none => s.arm (.asyncTrapEntry c.uid)
  | some (i, addr) =>
    let s := s.stopCopies c.unit
    let s := s.onWorld c.world fun w => { w with ctl := { w.ctl with slotsUsed := w.ctl.slotsUsed ++ [i] } }
    let q := quarterNo c.core c.quarter
    let s := if (s.quarter q).token = some c.uid then
        match nextToken ((s.crewsOn q c.world c.launch).filter (·.uid != c.uid)) c with
        | some _ => s.passToken q c
        | none => s.onQuarter q fun x => { x with token := none }
      else s
    let s := s.onCrew c.uid fun c => { c with
      ctximg := BitVec.ofNat 64 addr
      ctxstat := 0
      course := .saving
      asyncQ := c.asyncQ.filter fun a => a.trap.cause != .preempt }
    let s := (s.disarm fun ev => ev == .preemptGraceExpiry c.uid).arm (.saveDeadlineExpiry c.uid)
    let woken := c.threads.filterMap (·.replay)
    let s := s.takeLanes c.uid ((c.threads.filter (·.live)).map (·.lane)) fun t => { (t.takeOut tr t.outOf.2) with
      tstate := BitVec.ofNat 32 t.outOf.1
      monitor := none
      replay := none }
    -- a woken sub-group is parked no longer: its region ends with the crew's others (R119)
    if woken.isEmpty then s else (s.dropGroups fun g => woken.contains g.id).dropEnded c.uid

/-- The first asynchronous trap of a crew that may be delivered, in the order of R310. -/
def State.nextAsync (s : State) (c : Crew) : Option Async :=
  pickBy (fun (a b : Async) => decide (a.trap.cause.rank < b.trap.cause.rank)) (c.asyncQ.filter (s.deliverable c))

/-- Takes one occurrence of an element out of a list. -/
def removeOne {α : Type} [BEq α] (a : α) : List α → List α
  | [] => []
  | x :: r => if x == a then r else x :: removeOne a r

/-- One asynchronous trap is delivered to a crew none of whose threads is In trap. -/
def State.deliver (s : State) (c : Crew) (a : Async) : State :=
  match a.trap.cause with
  | .preempt => s.deliverPreempt c a.trap
  | .declinedKill =>
    let s := s.onCrew c.uid fun c => { c with asyncQ := removeOne a c.asyncQ }
    match s.killGroup c a with
    | some g =>
      -- the sub-group is discarded; its region ends with it
      (((s.dropGroups (·.id == g.id)).takeLanes c.uid g.lanes fun t => t.takeOut a.trap g.pc)).dropEnded c.uid
    | none => if c.asyncQ.length > 1 then s.arm (.asyncTrapEntry c.uid) else s
  | _ =>
    let s := s.onCrew c.uid fun c => { c with asyncQ := removeOne a c.asyncQ }
    match s.asyncLane c a with
    | some t => s.takeLanes c.uid [t.lane] fun t => t.takeOut a.trap t.pc
    | none => s

/-- ASYNC_TRAP_ENTRY (R309). An asynchronous trap is taken at the thread's next boundary. -/
def execAsyncTrapEntry (crew : Nat) (s : State) : Out :=
  match s.crew crew with
  | none => .next s
  | some c =>
    if c.threads.any fun t => t.live && (t.inTrap || t.entering.isSome) then .next s
    else if !(c.threads.any (·.live)) && c.asyncQ.any (fun a => a.trap.cause == .preempt) then
      -- a crew that finished before PREEMPT came needs no saving
      .next ((s.onCrew crew fun c => { c with
        course := .normal
        asyncQ := c.asyncQ.filter fun a => a.trap.cause != .preempt }).post (.lastExitRelease c.unit))
    else match s.nextAsync c with
      | some a => .next (s.deliver c a)
      | none => .next (if c.asyncQ.isEmpty then s else s.arm (.asyncTrapEntry crew))

/-! ## Requests (R313, R314, R340) -/

/-- Array-using quarters of a block. -/
def State.arrayQuarters (s : State) (u : BUnit) : List Nat :=
  ((s.crewsOf u.uid).map fun c => quarterNo c.core c.quarter).filter fun q => (s.quarter q).bound == some u.launch

/-- A set of blocks with those that share an array-using quarter with it (R313). -/
def State.victimSet (s : State) : Nat → List BUnit → List BUnit
  | 0, l => l
  | n + 1, l =>
    State.victimSet s n (s.units.filter fun u =>
      l.any fun v => v.uid == u.uid || (v.world == u.world && v.launch == u.launch &&
        (s.arrayQuarters v).any fun q => (s.arrayQuarters u).contains q))

def State.closure (s : State) (l : List BUnit) : List BUnit := s.victimSet s.units.length l

/-- Crews of a set that would be saved. -/
def State.crewsOfSet (s : State) (l : List BUnit) : List Crew := l.flatMap fun u => s.crewsOf u.uid

/-- Save slots of a world that neither hold an image nor await a crew already asked to save. -/
def State.slotsLeft (s : State) (wn : Nat) : Nat :=
  match s.world wn with
  | some w => w.ctl.saveslots - w.ctl.slotsUsed.length -
      (s.crews.filter fun c => c.world == wn && c.course == .requested).length
  | none => 0

/-- Bursts of a block that have come and are not born are held: they are fetched again at the resume (R263, R324). One that
is being fetched now completes and is born. R263 and R313 do not say what happens to those that have come (log entry 24,
DESIGN CHOICE). -/
def State.holdBursts (s : State) (unit : Nat) : State :=
  let mine := s.bursts.filter fun b => (s.entry b.entry).any (·.unit == unit)
  { s with
    bursts := s.bursts.filter fun b => !mine.contains b
    entries := mapIf (·.unit == unit) (fun e => { e with
      asked := e.asked.filter fun b => !(mine.any fun x => x.entry == e.id && x.burst == b) }) s.entries }

/-- PREEMPT is requested of every crew of a set; it is one of the sixteen asynchronous traps that a crew holds (R310). -/
def State.requestSet (s : State) (l : List BUnit) (reason grace : Nat) : State :=
  let (id, s) := s.fresh
  let s := l.foldl (fun s u => (s.onUnit u.uid fun u => { u with victim := id }).holdBursts u.uid) s
  (s.crewsOfSet l).foldl (fun s c =>
    let (n, s) := s.free
    -- how much of the grace has passed when the record is made is open
    let tr := mkTrap .preempt reason [grace - Config.elapsed n % (grace + 1)]
    let s := s.onCrew c.uid fun c => { c with
      course := .requested
      preReason := reason }
    (s.async c.uid tr none).arm (.preemptGraceExpiry c.uid)) s

/-- A block that may become a victim: not one already, not one at its last EXIT. -/
def BUnit.mayVictim (u : BUnit) : Bool := u.victim = 0 && !u.lastExit

/-- Some crew of a set is still resuming. -/
def State.resumingIn (s : State) (l : List BUnit) : Bool := (s.crewsOfSet l).any fun c => c.course == .resuming

/-- The sets of a request, one a launch. -/
def State.perLaunch (s : State) (l : List BUnit) : List (List BUnit) :=
  let keys := l.foldl (fun k u => if k.contains (u.world, u.launch) then k else k ++ [(u.world, u.launch)]) []
  keys.map fun k => s.closure (l.filter fun u => u.world == k.1 && u.launch == k.2)

/-- PREEMPT_REQUEST (R314). The scheduler delivers PREEMPT to a victim, taking save slots. -/
def execPreemptRequest (units : List Nat) (reason grace : Nat) (s : State) : Out :=
  let named := s.units.filter fun u => units.contains u.uid && u.mayVictim
  .next ((s.perLaunch named).foldl (fun s l =>
    match l with
    | [] => s
    | u :: _ =>
      let need := (s.crewsOfSet l).length
      let late := s.arm (.preemptRequest (l.map (·.uid)) reason grace)
      if s.resumingIn l then late
      else if need > s.slotsLeft u.world then
        if reason = 1 then late else if reason = 3 then s.cancelLaunch u.world u.launch else s
      else s.requestSet l reason grace) s)

/-- PREEMPT_GRACE_EXPIRY (R314). 100 µs grace ends without a save routine; the launch is cancelled. -/
def execPreemptGraceExpiry (crew : Nat) (s : State) : Out :=
  match s.crew crew with
  | none => .next s
  | some c =>
    if c.course != .requested then .next s
    else if (c.threads.any fun t => t.live && t.inTrap) || !(c.asyncQ.any fun a => a.trap.cause == .preempt) then
      .next (s.cancelLaunch c.world c.launch)
    else .next (s.arm (.preemptGraceExpiry crew))

/-- SAVE_DEADLINE_EXPIRY (R344). A victim crew not out of its save routine in 2 ms is cancelled. -/
def execSaveDeadlineExpiry (crew : Nat) (s : State) : Out :=
  match s.crew crew with
  | none => .next s
  | some c =>
    if c.course == .saving && c.threads.any (·.live) then .next (s.cancelLaunch c.world c.launch) else .next s

/-! ## The last EXIT (R49, R50, R316, R340) -/

/-- The quarters of some cores that no launch needs are held by none (R62). -/
def State.unbind (s : State) (cores : List Nat) : State :=
  (cores.flatMap fun c => (List.range 4).map (quarterNo c)).foldl State.unbindQuarter s

/-- A block leaves the device. -/
def State.dropUnit (s : State) (u : BUnit) : State :=
  let gone := (s.crews.filter (·.unit == u.uid)).map (·.uid)
  ((State.unbind { s with
    crews := s.crews.filter fun c => !(c.unit == u.uid)
    units := s.units.filter (·.uid != u.uid) } u.cores).unthrottle gone u.cores).wakeDispatch

/-- Commands that the last EXIT of a saving block waits for (R263, R316). -/
def State.continuing (s : State) (unit : Nat) : Bool :=
  s.entries.any fun e => e.unit == unit && !e.cmd.recorded && !e.cmd.noRecord

/-- The image of one crew is marked (R340): NEXTIMG, then COMPLETE. -/
def State.markImage (s : State) (wn img next : Nat) : State :=
  let s := (s.devWrite wn (img + 0x74) (w8 next)).1
  match s.devRead wn (img + 0x0C) 4 with
  | some b => (s.devWrite wn (img + 0x0C) (w4 (leNat b ||| 2))).1
  | none => s

/-- One block of a victim is saved: images linked and marked, SAVED raised, IMAGE_DONE posted (R340). Its commands and parked
sub-groups stay, and of its crews' regions those that hold a parked sub-group (R119, R138, R314). -/
def State.saveUnit (s : State) (u : BUnit) : State :=
  let crews := sortBy (fun (a b : Crew) => decide (a.idx < b.idx)) (s.crewsOf u.uid)
  let imgs := crews.map fun c => c.ctximg.toNat
  let s := (s.recordEntries u.uid)
  let s := imgs.zipIdx.foldl (fun s p => s.markImage u.world p.1 (imgs.getD (p.2 + 1) 0)) s
  let v : Saved := ⟨u.block, u.uid, crews.map fun c => ⟨c.idx, c.uid, c.region, c.asyncQ, c.lost⟩, imgs, u.cores, u.victim, false⟩
  let s := (s.onLaunch u.world u.launch fun l => { l with saved := l.saved ++ [v] }).putStatus u.world u.launch
  let first := imgs.headD 0
  let size := match s.world u.world with
    | some w => 2 ^ (20 + w.ctl.savelog)
    | none => 0
  let s := s.interrupt u.world 6 u.launch [u.block, crews.length, first % 2 ^ 32, first / 2 ^ 32, size, 0]
  let gone := crews.map (·.uid)
  let kept := (s.groups.filter fun g => gone.contains g.crew).map fun g => (Party.crew g.crew, g.region)
  State.dropUnit { s with
    landings := s.landings.filter fun l => !gone.contains l.crew
    stores := s.stores.filter fun p => !gone.contains p.crew
    recs := s.recs.filter fun r => !(gone.any fun u => r.party == .crew u) || kept.contains (r.party, r.region)
    recWaits := s.recWaits.filter fun w => !gone.contains w.crew } u

/-- Every crew of a victim has exited its save routine: its blocks are saved, in ascending `%block` (R316, R340). -/
def State.saveDone (s : State) (set : Nat) : State :=
  let us := sortBy (fun (a b : BUnit) => decide (a.block < b.block)) (s.units.filter fun u => u.victim == set && !u.lastExit)
  let crews := us.flatMap fun u => s.crewsOf u.uid
  if crews.all (fun c => c.course == .saving && !(c.threads.any (·.live))) && us.all fun u => !(s.continuing u.uid) then
    us.foldl State.saveUnit s
  else s

/-- The last EXIT of a block, or of a victim, ends when what it waits for is done. -/
def State.releaseLast (s : State) (u : BUnit) : State :=
  let st := (s.launch u.world u.launch).map (·.state)
  let busy := s.entries.any (·.unit == u.uid) || s.mcmds.any (·.unit == u.uid)
  if u.lastExit && st != some .running && st != some .queued then
    if busy then s else (s.dropUnit u).launchCheck u.world u.launch
  else if u.lastExit then
    let crews := s.crewsOf u.uid
    if busy || crews.any (fun c => c.threads.any (·.live) || !c.asyncQ.isEmpty) ||
      s.crews.any (fun c => c.unit == u.uid && c.drip.isSome) then s
    else
      let s := crews.foldl (fun s c => s.removeCrew c.uid) s
      let s := (s.dropUnit u).unitFinished u.world u.launch
      if u.victim = 0 then s else s.saveDone u.victim
  else if u.victim ≠ 0 then
    -- an image that passed the end of its slot cancels the launch
    if (s.crewsOf u.uid).any fun c => c.course == .saving && c.ctxstat == 3 && !(c.threads.any (·.live)) then
      s.cancelLaunch u.world u.launch
    else s.saveDone u.victim
  else s

/-- LAST_EXIT_RELEASE (R49). The held last EXIT ends once all block commands completed; unit counts finished. -/
def execLastExitRelease (unit : Nat) (s : State) : Out :=
  match s.unit unit with
  | none => .next s
  | some u => .next (s.releaseLast u)

/-! ## Starvation (R344) -/

/-- The state with some blocks gone, as far as placement sees. -/
def State.without (s : State) (l : List BUnit) : State :=
  let ids := l.map (·.uid)
  State.unbind { s with
    units := s.units.filter fun u => !ids.contains u.uid
    crews := s.crews.filter fun c => !ids.contains c.unit } (l.flatMap (·.cores))

/-- A launch finds a place on some die. -/
def State.fits (s : State) (l : Launch) : Bool := (List.range 4).any (s.placeable l)

/-- 1 ms of device time. -/
def freshFor : Nat := 1000000

/-- A block was dispatched or resumed less than 1 ms ago (R344). -/
def State.freshUnit (s : State) (u : BUnit) : Bool := decide (s.plat.devtime.toNat < u.since + freshFor)

/-- Of two blocks, the first is the victim: of the lower PRIO, then of the later submission, then the higher `%block`
(R344). -/
def State.victimBefore (s : State) (a b : BUnit) : Bool :=
  match s.launch a.world a.launch, s.launch b.world b.launch with
  | some x, some y =>
    decide (x.prio < y.prio) || (x.prio == y.prio &&
      (y.earlier x || (x.order == y.order && decide (a.block > b.block))))
  | _, _ => false

/-- Blocks that may make room for a launch, in the order of R344. -/
def State.victims (s : State) (l : Launch) (fresh : Bool) : List BUnit :=
  sortBy s.victimBefore (s.units.filter fun u =>
    u.world == l.world && u.launch != l.handle && u.mayVictim && s.freshUnit u == fresh &&
    !((s.crewsOf u.uid).any fun c => c.halt != .running) &&
    (s.launch u.world u.launch).any fun x => !(x.gang && x.eff == 9))

/-- The space of a victim, kept for a launch (R344). -/
def State.keep (s : State) (l : Launch) (v : BUnit) : Option Kept :=
  (s.launch v.world v.launch).map fun x => ⟨l.world, l.handle, v.uid, v.cores, x.desc⟩

/-- Victims added one by one until the launch fits; one that needs more slots than there are is passed over. -/
def State.gather (s : State) (l : Launch) : List BUnit → List BUnit → Option (List BUnit)
  | [], _ => none
  | v :: r, have' =>
    let next := s.closure (have' ++ [v])
    if (s.crewsOfSet next).length > s.slotsLeft l.world || s.resumingIn next ||
      next.any (fun u => u.launch == l.handle || !u.mayVictim || (s.crewsOf u.uid).any fun c => c.halt != .running) then
      State.gather s l r have'
    else if (s.without next).fits l then some next
    else State.gather s l r next

/-- STARVATION_PREEMPT (R344). After 1 ms unplaced at priority 8 the dispatcher pre-empts victims. -/
def execStarvationPreempt (world : Nat) (s : State) : Out :=
  let again := s.arm (.starvationPreempt world)
  match pickBy Launch.before (s.launches.filter fun l => l.world == world && l.eff == 8 && s.ready l) with
  | none => .next s
  | some l =>
    if s.fits l || s.reserved.any (fun r => r.world == world && r.launch == l.handle) then .next again
    else
      let s := again.sampleTime
      match s.gather l (s.victims l false ++ s.victims l true) [] with
      | none => .next s
      | some vs => .next ((s.perLaunch vs).foldl (fun s g => s.requestSet g 2 100)
          { s with reserved := s.reserved ++ vs.filterMap (s.keep l) })

/-! ## System-call replies (R204, R324, R327) -/

/-- A thread that waits for a reply takes it and goes on. -/
def Thread.reply (reqid status : Word) (lanes values : List Nat) (t : Thread) : Thread :=
  match t.st with
  | .blocked (.sysc r) next =>
    if r = reqid then
      let v := replyFor status lanes values t.lane
      (((t.putX 2 v.1).putX 3 v.2).resumeAt next)
    else t
  | _ => t

/-- A reply reaches the crew that asked: its threads, the image it is held for, or the request while the crew is out. -/
def State.giveReply (s : State) (wn : Nat) (r : SyscReq) (status : Word) (lanes values : List Nat) : State :=
  let done := fun (s : State) => s.dropRequests wn fun x => x.reqid == r.reqid
  match s.crew r.crew with
  | none => if s.launches.any fun l => l.world == wn && l.saved.any fun v => v.crews.any fun c => c.uid == r.crew then
      s.onWorld wn fun w => { w with requests := mapIf (fun x => x.reqid == r.reqid) (fun x => { x with
        reply := some (status, lanes, values) }) w.requests }
    else done s
  | some c =>
    match c.course with
    | .saving => s.onWorld wn fun w => { w with requests := mapIf (fun x => x.reqid == r.reqid) (fun x => { x with
        reply := some (status, lanes, values) }) w.requests }
    | .resuming => done (s.onCrew r.crew fun c => { c with
        heldReplies := c.heldReplies ++ r.lanes.map fun l => (l, replyFor status lanes values l) })
    | _ => done ((s.onCrew r.crew fun c =>
        ({ c with threads := c.threads.map (Thread.reply r.reqid status lanes values) }).regroup).acquired r.crew
          scopeDevice |>.syncOp r.crew)

/-- A reply entry is written and its doorbell rung (R327); one that names no request counts in SYSCERR (R338). -/
def State.reply (s : State) (wn : Nat) (reqid status : Word) (lanes values : List Nat) : State :=
  match s.world wn with
  | none => s
  | some w =>
    match w.requests.find? fun r => r.reqid == reqid && r.reply.isNone with
    | some r => s.giveReply wn r status lanes values
    | none => (s.onWorld wn fun w => { w with ctl := { w.ctl with syscerr := w.ctl.syscerr + 1 } }).interrupt wn 4 0
        [reqid.toNat, (w.ctl.syscerr + 1).toNat]

/-- SYSC_REPLY_DOORBELL (R327). Reply doorbell write applies a reply to blocked threads or drops it. -/
def execSyscReplyDoorbell (world : Nat) (reqid status : Word) (lanes values : List Nat) (s : State) : Out :=
  .next (s.reply world reqid status lanes values)

/-- SYSC_POST_HELD (R326). The oldest held request is posted once a ring slot frees. -/
def execSyscPostHeld (world : Nat) (s : State) : Out :=
  match (s.world world).bind fun w => w.sysHeld.head?.map fun h => (w, h) with
  | none => .next s
  | some (w, req, r) =>
    if !w.sysRoom then .next s
    else
      let s := s.postSysc world req r
      .next (if w.sysHeld.length > 1 then s.arm (.syscPostHeld world) else s)

/-! ## The allocator (R328) -/

/-- The smallest 2^k of 16 to 36 that holds a size. -/
def allocLog (size : Nat) : Option Nat :=
  if size = 0 then none else (List.range 21).findSome? fun i => if size ≤ 2 ^ (16 + i) then some (16 + i) else none

/-- Halves a free block down to the size asked; the lower half is kept each time. -/
def splitTo (k : Nat) : Nat → Nat × Nat × Nat → (Nat × Nat × Nat) × List (Nat × Nat × Nat)
  | 0, b => (b, [])
  | n + 1, (va, l, pa) =>
    if l ≤ k then ((va, l, pa), [])
    else
      let (b, rest) := splitTo k n (va, l - 1, pa)
      (b, rest ++ [(va + 2 ^ (l - 1), l - 1, pa + 2 ^ (l - 1))])

/-- The free block an allocation takes: the smallest that fits, the lowest of equals. -/
def World.pickFree (w : World) (k : Nat) : Option (Nat × Nat × Nat) :=
  pickBy (fun (a b : Nat × Nat × Nat) => decide (a.2.1 < b.2.1) || (a.2.1 == b.2.1 && decide (a.1 < b.1)))
    (w.poolFree.filter fun b => decide (k ≤ b.2.1))

/-- A block given back joins its free buddy at every level. -/
def mergeFree : Nat → List (Nat × Nat × Nat) → Nat × Nat × Nat → List (Nat × Nat × Nat)
  | 0, l, b => b :: l
  | n + 1, l, (va, k, pa) =>
    let up := va % 2 ^ (k + 1) = 0
    match l.find? fun x => x.2.1 == k && (if up then x.1 == va + 2 ^ k && x.2.2 == pa + 2 ^ k
        else x.1 + 2 ^ k == va && x.2.2 + 2 ^ k == pa) with
    | some x => mergeFree n (l.filter (· != x)) (if up then (va, k + 1, pa) else (x.1, k + 1, x.2.2))
    | none => (va, k, pa) :: l

/-- The level of the largest page not larger than a block (R97, R328). -/
def pageLevel (k : Nat) : Nat := if k ≥ 36 then 2 else if k ≥ 26 then 1 else 0

/-- The table of a level that an address is entered in, with the tables above it made where they are missing. -/
def State.tableFor (s : State) (wn va lvl : Nat) : List Nat → Nat → Option (State × Nat)
  | [], tab => some (s, tab)
  | l :: rest, tab =>
    if l ≤ lvl then some (s, tab)
    else
      let at' := tab + 16 * fieldN va (16 + 10 * l) 10
      let e := s.loadNat at' 16
      if bitN e 0 then (if bitN e 1 then none else State.tableFor s wn va lvl rest (fieldN e 64 56))
      else match (s.world wn).bind (·.tables.head?) with
        | none => none
        | some t =>
          let s := ((s.onWorld wn fun w => { w with tables := w.tables.tail }).storePA t (List.replicate 16384 0)).storePA at'
            (leBytes 16 (1 + t * 2 ^ 64))
          State.tableFor s wn va lvl rest t

/-- Maps or unmaps one page of a block. -/
def State.enterLeaf (s : State) (wn va lvl leaf : Nat) : Option State :=
  match s.world wn with
  | none => none
  | some w =>
    if w.trans.root = 0 then none
    else (s.tableFor wn va lvl [3, 2, 1] w.trans.root).map fun p =>
      p.1.storePA (p.2 + 16 * fieldN va (16 + 10 * lvl) 10) (leBytes 16 leaf)

/-- Every page of a block in turn. -/
def State.enterPages (s : State) (wn lvl : Nat) : List (Nat × Nat) → Option State
  | [] => some s
  | (va, leaf) :: r => (s.enterLeaf wn va lvl leaf).bind fun s => State.enterPages s wn lvl r

/-- The pages of a block. -/
def blockPages (b : Nat × Nat × Nat) (leaf : Nat → Nat) : List (Nat × Nat) :=
  let size := levelSize (pageLevel b.2.1)
  (List.range (2 ^ b.2.1 / size)).map fun i => (b.1 + i * size, leaf (b.2.2 + i * size))

/-- The leaf of an allocated page: local-home, relaxed, of the class asked (R328, R350). -/
def allocLeaf (cls core pa : Nat) : Nat :=
  let code := match cls with
    | 0 => 2
    | 1 => 0
    | _ => 1
  3 + 4 * code + 32 + (if cls = 2 then 0 else 64) + (if cls = 1 then 256 * core else 0) + pa * 2 ^ 64

/-- ALLOC for one lane: the address of a mapped block, or 0. -/
def State.allocLane (s : State) (wn core : Nat) (args : List Word) : State × Nat :=
  let cls := args.getD 2 0
  match allocLog ((args.getD 0 0).toNat + 2 ^ 32 * (args.getD 1 0).toNat), s.world wn with
  | some k, some w =>
    if cls.toNat > 2 then (s, 0)
    else match w.pickFree k with
      | none => (s, 0)
      | some b =>
        let (got, rest) := splitTo k 21 b
        let s' := s.onWorld wn fun w => { w with
          poolFree := (w.poolFree.filter (· != b)) ++ rest
          poolUsed := w.poolUsed ++ [got] }
        match s'.enterPages wn (pageLevel k) (blockPages got (allocLeaf cls.toNat core)) with
        | some s => (s, got.1)
        | none => (s, 0)
  | _, _ => (s, 0)

/-- FREE for one lane: 0, or 1 NOT_ALLOCATED. -/
def State.freeLane (s : State) (wn : Nat) (args : List Word) : State × Nat :=
  let va := (args.getD 0 0).toNat + 2 ^ 32 * (args.getD 1 0).toNat
  match (s.world wn).bind fun w => w.poolUsed.find? fun b => b.1 == va with
  | none => (s, 1)
  | some b =>
    let s := (s.enterPages wn (pageLevel b.2.1) (blockPages b fun _ => 0)).getD s
    (s.onWorld wn fun w => { w.dropRange b.1 (2 ^ b.2.1) with
      poolUsed := w.poolUsed.filter (· != b)
      poolFree := mergeFree 21 w.poolFree b }, 0)

/-- A request of the allocator is served, its lanes in ascending `%lane`, after the crew's earlier ones. -/
def State.serve (s : State) (wn : Nat) (reqid : Word) (again : Event) (f : State → SyscReq → List Word → State × Nat) : State :=
  match s.world wn with
  | none => s
  | some w =>
    match w.requests.find? fun r => r.reqid == reqid && r.reply.isNone with
    | none => s
    | some r =>
      let earlier := (w.requests.takeWhile fun x => x.reqid != reqid).any fun x =>
        x.crew == r.crew && x.reply.isNone && (x.service == 1 || x.service == 2)
      if earlier then s.arm again
      else
        let (s, vs) := r.args.foldl (fun (p : State × List Nat) a =>
          let (s, v) := f p.1 r a
          (s, p.2 ++ [v])) (s, [])
        s.reply wn reqid 0 r.lanes vs

/-- SYSC_ALLOC (R328). Service 1 allocates and maps a buddy block. -/
def execSyscAlloc (world : Nat) (reqid : Word) (s : State) : Out :=
  .next (s.serve world reqid (.syscAlloc world reqid) fun s r a => s.allocLane world r.core a)

/-- SYSC_FREE (R328). Service 2 unmaps and merges a buddy block. -/
def execSyscFree (world : Nat) (reqid : Word) (s : State) : Out :=
  .next (s.serve world reqid (.syscFree world reqid) fun s _ a => s.freeLane world a)

end Sys2Proof.Machine
end

