-- ==== Sys2Proof/Machine/Start.lean ====
section
/-! DEFINITION. Gang launches, and the start and the replay of engine queue entries (R262, R266, R291, R292, R346). -/

namespace Sys2Proof.Machine

/-! ## Gang launches (R292, R346) -/

/-- What a rank finds at prepare: the reason of its refusal, or the descriptor and the cores it keeps. -/
def State.gangCheck (s : State) (wn ldesc tick queue : Nat) : Except Nat (LDesc × List Nat) :=
  match s.world wn, s.readLaunch wn ldesc with
  | none, _ => .error refDesc
  | some _, .error (r, _) => .error r
  | some w, .ok d =>
    let k := w.kickPage queue
    if (k.tail - k.head).toNat ≥ 2 ^ k.logDepth then .error refFull
    else if !s.plat.ptpLocked || s.plat.devtime.toNat + 100000 ≥ tick then .error refLate
    else match (List.range 4).findSome? (s.placeOn d wn 0) with
      | some cores => .ok (d, cores)
      | none => .error refFull

/-- A running gang command of this device for a tick. -/
def State.gangEntry (s : State) (wn tick : Nat) : Option Entry :=
  s.entries.find? fun e => e.cmd == .gang && e.phase == .running && e.world == wn && !e.progress.isEmpty &&
    e.word 6 + 2 ^ 32 * e.word 7 == tick

/-- The launch prepared here for a tick and not yet committed. -/
def State.gangFor (s : State) (wn tick : Nat) : Option Gang :=
  s.gangs.find? fun g => g.world == wn && g.tick == tick && !g.committed

/-- GANG_PREPARE (R292). A rank checks the gang descriptor and time and reserves a placement. -/
def execGangPrepare (world ldesc tick queue issuer : Nat) (s : State) : Out :=
  let r := s.gangCheck world ldesc tick queue
  let s := s.touchLaunch world ldesc
  let reason := match r with
    | .ok _ => 0
    | .error x => x
  let s := match r with
    | .ok (d, cores) =>
      let (id, s) := s.fresh
      { s with gangs := s.gangs ++ [(⟨id, world, queue, tick, d, false, cores, 0⟩ : Gang)] }
    | .error _ => s
  let s := s.say clsGang (rankPeer (s.jobIn world) issuer) 0 0 (leBytes 8 tick ++ leBytes 1 reason)
  match s.gangEntry world tick with
  | some e =>
    -- the issuer's own answer is kept for its decision; a group of this rank alone decides at once
    let s := s.onEntry e.id fun e => { e with aux := BitVec.ofNat 32 reason }
    if e.ranks.length = 1 then .next (s.arm (.gangDecision e.id [reason])) else .next s
  | none => .next s

/-- The first rank that refused, with its reason. -/
def firstRefusal (l : List Nat) : Option (Nat × Nat) :=
  (l.zipIdx.find? fun p => p.1 ≠ 0).map fun p => (p.2, p.1)

/-- The issuer tells every rank the outcome: commit, or abort with the first refusing rank and its reason (R292). -/
def State.gangSay (s : State) (e : Entry) (what reason rank : Nat) : State :=
  s.toRanks clsGang e (leBytes 1 what ++ leBytes 8 (e.word 6 + 2 ^ 32 * e.word 7) ++ leBytes 1 reason ++ leBytes 2 rank)

/-- GANG_DECISION (R292). At TICK - 50 µs the issuer sends commit or abort. -/
def execGangDecision (entry : Nat) (reasons : List Nat) (s : State) : Out :=
  match s.engineReady entry .gang with
  | none => .next (s.engineHeld entry (.gangDecision entry reasons))
  | some e =>
    if e.progress != [1] then .next s
    else if s.groupChanged e then .next (((s.dropGangs e).gangSay e sayAbort 0 0).finishEntry entry stMismatch 3 0 0 0)
    else match s.groupOf e.world e.group with
    | some (_, rs, me) =>
      let mine := s.gangFor e.world (e.word 6 + 2 ^ 32 * e.word 7)
      -- a rank of whose answer nothing has come by TICK - 50 µs has not accepted in time
      let own := if mine.isSome then 0 else if e.aux = 0 then refLate else e.aux.toNat
      match firstRefusal (ownIn reasons me own refLate rs.length) with
      | none => match mine with
        | some g => .next (((s.onEntry entry fun e => { e with progress := [1, 1] }).gangSay e sayCommit 0 0).arm (.gangCommit g.id))
        | none => .next s
      | some (rank, reason) =>
        .next (((s.dropGangs e).gangSay e sayAbort reason rank).finishEntry entry stLaunchRefused reason 0 rank 0)
    | none => .next s

/-- GANG_COMMIT (R292). A rank receives commit and arms dispatch at TICK. -/
def execGangCommit (gang : Nat) (s : State) : Out :=
  match s.gangs.find? (·.id == gang) with
  | none => .next s
  | some g =>
    if g.committed then .next s
    else
      let s := s.sampleTime
      let (n, s) := s.fresh
      let (h, s) := s.acceptLaunch g.world g.queue g.desc s.plat.devtime.toNat n fun l => { l with
        gang := true
        gangTick := g.tick }
      let s := State.arm { s with gangs := s.gangs.map fun (x : Gang) =>
        if x.id == gang then { x with
          committed := true
          handle := h } else x } (.gangTickDispatch gang)
      match s.gangEntry g.world g.tick with
      | some e => .next (s.finishEntry e.id stDone 0 h.toNat 0 0)
      | none => .next s

/-- GANG_ABORT (R292). A rank receives abort and drops its launch. A gang command of its own ends as the issuer's does, or,
the group redefined, with MISMATCH (log entry 24, DESIGN CHOICE). -/
def execGangAbort (gang : GangAbort) (s : State) : Out :=
  let s := { s with gangs := s.gangs.filter fun g => g.world != gang.world || g.tick != gang.tick || g.committed }
  match s.gangEntry gang.world gang.tick with
  | some e => .next (if gang.reason = 0 then s.finishEntry e.id stMismatch 3 0 0 0
      else s.finishEntry e.id stLaunchRefused gang.reason 0 gang.rank 0)
  | none => .next s

/-- A gang's first unit goes to the cores kept for it, at effective priority 9 (R342, R346). -/
def State.gangDispatch (s : State) (g : Gang) : State :=
  let s := { s with gangs := s.gangs.filter fun x => x.id != g.id }
  match s.launch g.world g.handle with
  | none => s
  | some l =>
    if l.state != .queued then s
    else
      let s := s.onLaunch g.world g.handle fun l => { l with eff := 9 }
      (s.placeUnit { l with eff := 9 } 0 g.place).wakeDispatch

/-- GANG_TICK_DISPATCH (R292). At device time TICK the first unit is dispatched. -/
def execGangTickDispatch (gang : Nat) (s : State) : Out :=
  match s.gangs.find? (·.id == gang) with
  | none => .next s
  | some g =>
    if !g.committed then .next s
    else
      -- the device time has reached TICK
      let s := { s with plat := { s.plat with
        devtime := if s.plat.devtime.toNat < g.tick then BitVec.ofNat 64 g.tick else s.plat.devtime } }
      .next (s.gangDispatch g)

/-! ## lnch (R291, R332) -/

/-- lnch at the head of its queue: the descriptor is translated, read and checked; the record says which. -/
def State.startLnch (s : State) (e : Entry) : State :=
  let va := e.gen 4
  let (s, r) := s.probe e [(va, va, 512, .read)]
  s.engOutcome e.id r fun s =>
    let q := fieldN e.endpoint.toNat 0 6
    match s.submit e.world q va none with
    | (s, .ok h) => s.finishEntry e.id stDone 0 h.toNat 0 0
    | (s, .error x) => s.finishEntry e.id stLaunchRefused x 0 0 0

/-! ## roost and rouse (R289, R290) -/

/-- roost at the head of its queue: its state block is translated. -/
def State.startRoost (s : State) (e : Entry) : State :=
  let (s, r) := s.probe e [(e.gen 4, e.gen 4, e.word 6, .write)]
  s.engOutcome e.id r fun s => (s.onEntry e.id fun e => { e with phase := .running }).arm (.roostRegistered e.id)

/-- rouse at the head of its queue: to a roost of this device, or over the fabric. -/
def State.startRouse (s : State) (e : Entry) : State :=
  let s := s.onEntry e.id fun e => { e with phase := .running }
  let dev := fieldN e.endpoint.toNat 32 16
  if dev = 0xFFFF || dev = s.ownRank e.world then
    s.arm (.rouseArrive e.group (BitVec.ofNat 64 (e.gen 4)) (s.ownRank e.world))
  else s.sendCmd clsRouse e 0 []

/-! ## Start and replay (R254, R262, R266) -/

/-- The entry is the head of its queue. -/
def State.isHead (s : State) (e : Entry) : Bool :=
  ((s.entries.find? fun x => x.unit == e.unit && x.qkey == e.qkey).map (·.id)) == some e.id

/-- A block that is being saved or is not yet restored starts no copy and no handler read (R263, R324). -/
def State.unitOut (s : State) (unit : Nat) : Bool :=
  match s.unit unit with
  | none => true
  | some u => (s.crewsOf unit).any fun c => c.course == .saving || (c.course == .resuming && !u.restored)

/-- An entry begins by its kind. -/
def State.startEntry (s : State) (e : Entry) : State :=
  match e.cmd with
  | .cpy | .cpy2d | .cpyred | .cpymx => s.startCopy e
  | .qfence => (s.onEntry e.id fun e => { e with phase := .running }).arm (.qfenceComplete e.id)
  | .qwait => (s.onEntry e.id fun e => { e with phase := .running }).arm (.qwaitComplete e.id)
  | .hread => s.startHread e
  | .xsort => (s.onEntry e.id fun e => { e with phase := .running }).arm (.xsortComplete e.id)
  | .a2av | .areduce | .gang => s.startGroup e
  | .rput | .rget | .ratom | .rflush => s.startRma e
  | .roost => s.startRoost e
  | .rouse => s.startRouse e
  | .lnch => s.startLnch e

/-- A record that waited for its ring's page is written, or its failure is reported (R259, R262). -/
def State.retryRecord (s : State) (e : Entry) (fin : Nat × Nat × Nat × Nat × Nat) : State :=
  let (status, fault, aux, bytes, path) := fin
  let ws := e.record status fault aux bytes path
  match s.putRecord e ws with
  | (s, .ok _) => s.closeEntry e true status ws
  | (s, .miss m) => s.engineWait e.id m
  | (s, _) => s.closeEntry e false status ws

/-- ENGINE_ENTRY_START (R266). An engine queue entry reaches its head and begins, taking a slot if DCBV. -/
def execEngineEntryStart (entry : Nat) (s : State) : Out :=
  match s.entry entry with
  | none => .next s
  | some e =>
    match e.fin with
    | some fin => .next (if e.phase == .waitPage then s else s.retryRecord e fin)
    | none =>
      if e.phase != .queued || !s.isHead e || (e.cmd.recorded && s.unitOut e.unit) then .next s
      else .next (s.startEntry e)

/-- The entry that a completion event belongs to. -/
def Event.completes : Event → Option Nat
  | .cpyComplete e | .cpyredChunkApply e | .xsortComplete e | .a2avCountExchange e _ | .a2avPartPlaced e _ _
  | .areduceComplete e _ | .rputComplete e | .rgetComplete e _ | .ratomComplete e _ | .rflushComplete e
  | .roostRegistered e | .gangDecision e _ => some e
  | _ => none

/-- A command whose page has come goes on: a copy from its start, a handler read with its next burst, one whose step is
caused with that step, any other from its start (R262, R265). -/
def State.replayEntry (s : State) (e : Entry) : State :=
  let s := s.engineResumed e.id
  let run := s.onEntry e.id fun e => { e with phase := .running }
  match e.fin with
  | some _ => run.arm (.engineEntryStart e.id)
  | none =>
    match e.cmd with
    | .cpy | .cpy2d | .cpyred | .cpymx => run.beginCopy e.id
    | .hread => (run.onEntry e.id fun e => { e with held := [] }).fetchNext e.id
    | _ =>
      if s.agenda.any fun ev => ev.completes == some e.id then run
      else (s.onEntry e.id fun e => { e with phase := .queued }).arm (.engineEntryStart e.id)

/-- An abandoned copy may be replayed: its block is not being saved (R262, R263). -/
def State.mayReplay (s : State) (e : Entry) : Bool :=
  e.phase == .abandoned && !(s.crews.any fun c => c.unit == e.unit && c.course == .saving)

/-- COPY_REPLAY (R262). An abandoned copy is replayed whole once resident or cleared. -/
def execCopyReplay (entry : Nat) (s : State) : Out :=
  match s.entry entry with
  | none => .next s
  | some e =>
    if e.phase == .waitPage || s.mayReplay e || (e.phase == .running && !e.held.isEmpty) then .next (s.replayEntry e)
    else .next (s.engineResumed entry)

end Sys2Proof.Machine
end

