-- ==== Sys2Proof/Machine/Coherence.lean ====
section
/-! DEFINITION. The steps of the MOESI directory: a message of it, or a request, arrives, and an agent drops a line
(R364 to R371). -/

namespace Sys2Proof.Machine

/-- HOME_RDS (R367). Home serves a shared read request. -/
def execHomeRds (line agent : Nat) (s : State) : Out := .next (s.netStep (.homeRds line agent))

/-- HOME_RDX (R367). Home serves an exclusive read request. -/
def execHomeRdx (line agent : Nat) (s : State) : Out := .next (s.netStep (.homeRdx line agent))

/-- HOME_UPG (R367). Home serves an upgrade request. -/
def execHomeUpg (line agent : Nat) (s : State) : Out := .next (s.netStep (.homeUpg line agent))

/-- HOME_WB (R367). Home serves a write-back, or drops it with WBStale. -/
def execHomeWb (line agent : Nat) (s : State) : Out := .next (s.netStep (.homeWb line agent))

/-- HOME_EVE (R367). Home serves a drop of an E line. -/
def execHomeEve (line agent : Nat) (s : State) : Out := .next (s.netStep (.homeEve line agent))

/-- HOME_ACK_RECEIVE (R367). Invalidation acks arrive; Grant or stable state follows. -/
def execHomeAckReceive (line agent : Nat) (s : State) : Out := .next (s.netStep (.homeAckReceive line agent))

/-- HOME_MEMORY_WRITE_DONE (R367). A write-back is written to memory and WBAck sent. -/
def execHomeMemoryWriteDone (line : Nat) (s : State) : Out := .next (s.netStep (.homeMemoryWriteDone line))

/-- AGENT_FWDS (R368). An agent answers a FwdS snoop. -/
def execAgentFwds (line agent : Nat) (s : State) : Out := .next (s.netStep (.agentFwds line agent))

/-- AGENT_FWDX (R368). An agent answers a FwdX snoop. -/
def execAgentFwdx (line agent : Nat) (s : State) : Out := .next (s.netStep (.agentFwdx line agent))

/-- AGENT_INV (R368). An agent answers an Inv snoop. -/
def execAgentInv (line agent : Nat) (s : State) : Out := .next (s.netStep (.agentInv line agent))

/-- AGENT_DATA_RECEIVE (R368). Requested data arrives at an agent; deferred snoops then answered. An operation of the
network processor on the line ends by giving it up (R364). -/
def execAgentDataReceive (line agent : Nat) (s : State) : Out :=
  let s := s.netStep (.agentDataReceive line agent)
  .next (if agent = npAgent && ((s.line line).agent agent).holds then s.arm (.agentLineDrop line agent) else s)

/-- AGENT_GRANT_RECEIVE (R367). An upgrading agent receives Grant. -/
def execAgentGrantReceive (line agent : Nat) (s : State) : Out := .next (s.netStep (.agentGrantReceive line agent))

/-- AGENT_WBACK_RECEIVE (R368). WBAck ends an agent's write-back. -/
def execAgentWbackReceive (line agent : Nat) (s : State) : Out := .next (s.netStep (.agentWbackReceive line agent))

/-- AGENT_WBSTALE_RECEIVE (R368). WBStale ends an agent's write-back. -/
def execAgentWbstaleReceive (line agent : Nat) (s : State) : Out := .next (s.netStep (.agentWbstaleReceive line agent))

/-- AGENT_LINE_DROP (R367). An agent drops a line, sending WB, EvE or nothing. -/
def execAgentLineDrop (line agent : Nat) (s : State) : Out := .next (s.netStep (.agentLineDrop line agent))

end Sys2Proof.Machine
end

