-- ==== Sys2Proof/Machine/Shard.lean ====
section
/-! DEFINITION. The hash directory's shard: requests for a name, ownership, write-backs to the home (R378 to R382, R442). -/

namespace Sys2Proof.Machine

/-! ## Entries -/

def State.dirEnt (s : State) (job page : Nat) : Option DirEnt := s.dir.find? fun e => e.job == job && e.page == page
def State.onDir (s : State) (job page : Nat) (f : DirEnt → DirEnt) : State :=
  { s with dir := mapIf (fun e => e.job == job && e.page == page) f s.dir }

/-- This device's rank in a job. -/
def State.rankIn (s : State) (job : Nat) : Nat := ((s.jobWorld job).map (·.np.rank)).getD 0

/-- No rank: OWNER 0xFFFF (R379). -/
def noRank : Nat := 0xFFFF

/-! ## Answers -/

/-- The shard answers a rank: a message, or the step it causes on this device. -/
def State.shardReply (s : State) (kind job page rank ver : Nat) (storage : Bool) (bytes : List Byte) : State :=
  if rank ≠ s.rankIn job then s.npSay 0 kind job page rank ver bytes
  else if kind = npWback then s.arm (.wbackReceive job page)
  else if kind = npStale then s.arm (.staleReceive job page)
  else match s.serviceOf job page with
    | none => s
    | some v =>
      if kind = npHome then s.arm (.lookupAckReceive v.id false storage)
      else if kind = npNoHome then s.arm (.lookupAckReceive v.id true false)
      else if kind = npGrant then s.arm (.grantReceive v.id ver)
      else if kind = npHeld then s.arm (.heldReceive v.id)
      else s.arm (.fillDataReceive v.id bytes false ver)

def nvmeWrite : Nat := 11

/-- HOMEKIND, HOMERANK and HOMEADDR of an entry as an answer carries them (R380). -/
def DirEnt.homeBytes (e : DirEnt) : List Byte := leBytes 1 e.homekind ++ leBytes 2 e.homerank ++ leBytes 8 e.homeaddr

/-- A range of memory holds a poisoned granule. -/
def State.homeBad (s : State) (pa : Nat) : Bool := s.poison.any fun g => decide (pa / 4 ≤ g) && decide (g < (pa + pageBytes) / 4)

/-- The home of an entry sends its page to a rank (R379, R383): a rank that has been told of a home elsewhere asks there
itself, and this device's memory answers it at once, with HOME_ERROR where it is bad. -/
def State.homeFetch (s : State) (e : DirEnt) (rank : Nat) : State :=
  let own := s.rankIn e.job
  if rank ≠ own then
    if e.homekind = 1 && e.homerank = own then
      let s := s.useNp false e.homeaddr pageBytes
      if s.homeBad e.homeaddr then s.npSay 0 npHomeError e.job e.page rank e.dataver []
      else s.npSay 0 npData e.job e.page rank e.dataver (s.loadPA e.homeaddr pageBytes)
    else s
  else match s.serviceOf e.job e.page with
    | none => s
    | some v =>
      if e.homekind = 4 then s.arm (.fillDataReceive v.id (List.replicate pageBytes 0) false e.dataver)
      else if e.homekind = 1 && e.homerank = own then
        let bad := s.homeBad e.homeaddr
        (s.useNp false e.homeaddr pageBytes).arm (.fillDataReceive v.id (if bad then [] else s.loadPA e.homeaddr pageBytes) bad e.dataver)
      else if e.homekind = 3 then s.send (.storage nvmeRead e.homeaddr [])
      else s.npSay v.id npFetch e.job e.page e.homerank e.dataver e.homeBytes

/-- The shard writes the data it holds to the home (R379, R442). -/
def State.homeWrite (s : State) (job page : Nat) : State :=
  match s.dirEnt job page with
  | none => s
  | some e =>
    let own := s.rankIn job
    let data := e.held.getD []
    if e.homekind = 4 then
      let pa := Config.zeroHome job page
      ((s.onDir job page fun e => { e with
        homekind := 1
        homerank := own
        homeaddr := pa }).npStore pa data).arm (.shardHomeAck job page true)
    else if e.homekind = 1 && e.homerank = own then (s.npStore e.homeaddr data).arm (.shardHomeAck job page true)
    else if e.homekind = 3 then (s.send (.storage nvmeWrite e.homeaddr data)).arm (.homeWriteTimeout job page)
    else (s.npSay 0 npHomeWrite job page e.homerank e.dataver data).arm (.homeWriteTimeout job page)

/-! ## Serving (R380) -/

/-- A rank joins the holders; a fifth sets ALL. -/
def DirEnt.addHolder (e : DirEnt) (rank : Nat) : DirEnt :=
  if e.holders.contains rank then e
  else if e.holders.length < 4 then { e with holders := e.holders ++ [rank] } else { e with all := true }

/-- A transfer or a recall goes to a rank. -/
def State.askOwner (s : State) (job page owner dst : Nat) (exclusive : Bool) : State :=
  if owner = s.rankIn job then s.arm (if exclusive then .ownerXferX job page dst else .ownerXferS job page dst)
  else s.npSay 0 (if exclusive then npXferX else npXferS) job page owner dst []

def State.askHolder (s : State) (job page rank : Nat) : State :=
  if rank = s.rankIn job then s.arm (.holderRecall job page) else s.npSay 0 npRecall job page rank 0 []

/-- Ownership goes to a rank: GRANT, and the home's page for this device's own request unless its copy is current. -/
def State.grantTo (s : State) (job page rank : Nat) : State :=
  let s := s.onDir job page fun e => { e with
    owner := rank
    holders := []
    all := false
    st := .owned
    req := 0
    acks := [] }
  match s.dirEnt job page with
  | none => s
  | some e => s.shardReply npGrant job page rank e.dataver false []

/-- The shard serves one request of a rank on an entry that is IDLE or OWNED. -/
def State.serveShard (s : State) (e : DirEnt) (req rank : Nat) (bytes : List Byte) : State :=
  let j := e.job
  let p := e.page
  if req = npGets then
    if e.st = .owned then
      if e.owner = rank then s.shardReply npGrant j p rank e.dataver false []
      else (s.onDir j p fun e => { e with
        st := .xfer
        req := npGets
        reqRank := rank }).askOwner j p e.owner rank false
    else ((s.onDir j p fun e => e.addHolder rank).shardReply npHome j p rank e.dataver (e.homekind = 3) e.homeBytes).homeFetch e rank
  else if req = npGetx then
    if e.st = .owned then
      if e.owner = rank then s.shardReply npGrant j p rank e.dataver false []
      else (s.onDir j p fun e => { e with
        st := .xfer
        req := npGetx
        reqRank := rank }).askOwner j p e.owner rank true
    else
      let left := (if e.all then Config.ranksOf j else e.holders).filter (· != rank)
      if left.isEmpty then s.grantTo j p rank
      else left.foldl (fun s r => s.askHolder j p r) (s.onDir j p fun e => { e with
        st := .xfer
        owner := noRank
        req := npGetx
        reqRank := rank
        acks := left })
  else if e.st = .owned && e.owner = rank then
    (s.onDir j p fun e => { e with
      st := .wbPending
      req := npWbrel
      reqRank := rank
      held := some bytes
      wattempts := 0
      wdeclined := false }).homeWrite j p
  else s.shardReply npStale j p rank e.dataver false []

/-- A waiting request may be served: while a save runs, only those of this device's own services, whose drain it awaits
(R395). -/
def State.serves (s : State) (job : Nat) (r : Nat × Nat × List Byte) : Bool := !s.saving || r.2.1 == s.rankIn job

/-- Requests that wait behind an entry are served in arrival order while it is IDLE or OWNED; `fuel` bounds them. -/
def State.shardRun (s : State) (job page : Nat) : Nat → State
  | 0 => s
  | n + 1 =>
    match s.dirEnt job page with
    | none => s
    | some e =>
      match e.waiting.find? (s.serves job) with
      | none => s
      | some (req, rank, bytes) =>
        if e.st = .xfer || e.st = .wbPending then s
        else State.shardRun ((s.onDir job page fun e => { e with
          waiting := e.waiting.erase (req, rank, bytes) }).serveShard e req rank bytes) job page n

def State.shardNext (s : State) (job page : Nat) : State :=
  match s.dirEnt job page with
  | some e => s.shardRun job page (e.waiting.length + 1)
  | none => s

/-- A request arrives at the shard: acknowledged, then served in its turn; one of a peer is answered HELD while a save runs. One
for a name that has no entry is answered NO_HOME (R379, R380, R395). -/
def State.shardTake (s : State) (job page req rank : Nat) (bytes : List Byte) : State :=
  match s.dirEnt job page with
  | none => s.shardReply npNoHome job page rank 0 false []
  | some e =>
    let s := s.onDir job page fun e => { e with waiting := e.waiting ++ [(req, rank, bytes)] }
    if s.saving && rank != s.rankIn job then
      State.shardReply { s with ckpt := { s.ckpt with held := s.ckpt.held ++ [(job, page)] } } npHeld job page rank 0 false []
    else
      let s := if req = npWbrel then s else s.shardReply npHome job page rank e.dataver (e.homekind = 3 && e.st = .idle) e.homeBytes
      s.shardNext job page

/-- Held requests are answered in arrival order when the checkpoint ends: those of each name as its entry lets them, names
in the order in which their requests came (R395). -/
def State.releaseHeld (s : State) (names : List (Nat × Nat)) : State :=
  names.foldl (fun s n => s.shardRun n.1 n.2 1) s

/-- SHARD_GETS (R380). The shard serves a read request for a name. -/
def execShardGets (job page rank : Nat) (s : State) : Out := .next (s.shardTake job page npGets rank [])

/-- SHARD_GETX (R380). The shard serves an ownership request. -/
def execShardGetx (job page rank : Nat) (s : State) : Out := .next (s.shardTake job page npGetx rank [])

/-- SHARD_WBREL (R380). The shard serves a write-back release, or takes the data that an owner sends it for XFER-S. -/
def execShardWbrel (job page rank : Nat) (bytes : List Byte) (s : State) : Out :=
  match s.dirEnt job page with
  | some e =>
    if e.st = .xfer && e.req = npGets && e.owner = rank && e.held.isNone then
      -- the data that the owner sends for XFER-S goes to the home
      .next ((s.onDir job page fun e => { e with
        held := some bytes
        wattempts := 0
        wdeclined := false }).homeWrite job page)
    else .next (s.shardTake job page npWbrel rank bytes)
  | none => .next (s.shardTake job page npWbrel rank bytes)

/-- SHARD_DROP (R380). The shard removes a Clean holder. -/
def execShardDrop (job page rank : Nat) (s : State) : Out :=
    .next (s.onDir job page fun e => { e with holders := e.holders.filter (· != rank) })

/-- A home write has ended, or is given up with nothing kept (R442): DATAVER rises, the entry is IDLE, the owner is told (R380,
R382). -/
def State.homeWritten (s : State) (e : DirEnt) (keep : Bool) : State :=
  let s := s.onDir e.job e.page fun e => { e with
    dataver := e.dataver + 1
    owner := noRank
    holders := if keep then (if e.owner = e.reqRank then [e.owner] else [e.owner, e.reqRank]) else []
    all := false
    st := .idle
    req := 0
    held := none
    wattempts := 0
    wdeclined := false }
  let s := s.disarm fun ev => ev == .homeWriteTimeout e.job e.page
  let s := if e.st = .wbPending || !keep then s.shardReply npWback e.job e.page e.owner (e.dataver + 1) false [] else s
  s.shardNext e.job e.page

/-- The shard declines a home write: a declined-fault entry of its own world (R442). -/
def State.declineWrite (s : State) (e : DirEnt) (code : Nat) : State :=
  let s := (s.onDir e.job e.page fun e => { e with wdeclined := true }).disarm fun ev => ev == .homeWriteTimeout e.job e.page
  match s.jobWorld e.job with
  | some w => s.declinedEntry w.num e.job e.page true 0 0 e.wattempts code
  | none => s

/-- SHARD_HOME_ACK (R380). A home write ack ends XFER or WB_PENDING. -/
def execShardHomeAck (job page : Nat) (ok : Bool) (s : State) : Out :=
  match s.dirEnt job page with
  | none => .next s
  | some e =>
    if e.held.isNone || e.wdeclined || !(e.st = .xfer || e.st = .wbPending) then .next s
    else if ok then .next (s.homeWritten e (e.st = .xfer))
    else .next (s.declineWrite e 5)

/-- HOME_WRITE_TIMEOUT (R442). A shard home write attempt times out; retried or declined. -/
def execHomeWriteTimeout (job page : Nat) (s : State) : Out :=
  match s.dirEnt job page with
  | none => .next s
  | some e =>
    if e.held.isNone || e.wdeclined then .next s
    else if e.wattempts + 1 ≥ 4 then
      .next ((s.onDir job page fun e => { e with wattempts := 4 }).declineWrite { e with wattempts := 4 }
        (if e.homekind = 3 then 3 else 2))
    else .next ((s.onDir job page fun e => { e with wattempts := e.wattempts + 1 }).homeWrite job page)

/-- SHARD_RECALL_ACK (R380). Holder acks arrive and GRANT is sent; an owner that has sent its data under XFER-X acknowledges in the same way. -/
def execShardRecallAck (job page rank : Nat) (s : State) : Out :=
  match s.dirEnt job page with
  | none => .next s
  | some e =>
    if e.st != .xfer || e.req != npGetx then .next s
    else if e.owner = rank then
      -- the owner has sent its data to the requester
      .next ((s.onDir job page fun e => { e with
        owner := e.reqRank
        dataver := e.dataver + 1
        holders := []
        st := .owned
        req := 0 }).shardNext job page)
    else
      let left := e.acks.filter (· != rank)
      if e.owner ≠ noRank || !e.acks.contains rank then .next s
      else if left.isEmpty then .next ((s.grantTo job page e.reqRank).shardNext job page)
      else .next (s.onDir job page fun e => { e with acks := left })

end Sys2Proof.Machine
end

