-- ==== Sys2Proof/Machine/Frames.lean ====
section
/-! DEFINITION. Frames and services: fills, ownership, eviction, recall, transfer, timeouts, ageing, prefetch, and the
invalidation of translations (R352 to R363, R375 to R386, R437). -/

namespace Sys2Proof.Machine

/-! ## Invalidation (R352, R355) -/

/-- The invalidations that may be outstanding. -/
def maxInval : Nat := 16

/-- A write to IREQ queues one invalidation. -/
def State.queueInval (s : State) (wn : Nat) : State :=
  (s.onWorld wn fun w => { w with trans := { w.trans with
    ireqcnt := w.trans.ireqcnt + 1
    queue := w.trans.queue ++ [(w.trans.iva, w.trans.ilen.toNat)] } }).arm (.invalidationComplete wn)

/-- INVALIDATION_REQUEST (R352). Write to IREQ queues one invalidation. -/
def execInvalidationRequest (world : Nat) (s : State) : Out :=
  match s.world world with
  | none => .next s
  | some w =>
    if w.trans.queue.length ≥ maxInval then .next (s.arm (.invalidationRequest world)) else .next (s.queueInval world)

/-- The accesses that a world's threads have begun in memory are performed (R355). -/
def State.finishWorld (s : State) (wn : Nat) : State :=
  let theirs := fun uid => (s.crew uid).any (·.world == wn)
  (s.performStores fun p => theirs p.crew && p.target.isMem).readLate fun l => theirs l.crew

/-- INVALIDATION_COMPLETE (R355). An invalidation's drops and drains finish and IDONE advances. -/
def execInvalidationComplete (world : Nat) (s : State) : Out :=
  match s.world world with
  | none => .next s
  | some w =>
    match w.trans.queue with
    | [] => .next s
    | (start, len) :: r =>
      let s := (s.finishWorld world).onWorld world fun w => { w.dropRange start (len * pageBytes) with
        trans := { w.trans with
          queue := r
          idone := w.trans.idone + 1 } }
      .next (if r.isEmpty then s else s.arm (.invalidationComplete world))

/-! ## Fills (R361, R376, R381, R383) -/

/-- Timers of a service's attempt. -/
def State.stopAttempt (s : State) (id : Nat) : State :=
  s.disarm fun e => e == .attemptTimeout id false || e == .backoffExpiry id

/-- The fill phase begins, or goes on. -/
def State.fillPhase (s : State) (v : Service) (storage : Bool) : State :=
  ((s.stopAttempt v.id).onService v.id fun x => { x with
    phase := .fill
    attempts := if v.phase = .lookup || (v.phase = .backoff && v.resume != .fill) then 0 else x.attempts
    storage
    held := false }).arm (.attemptTimeout v.id false)

/-- A requester asks the home that it was told of for the page (R383): a rank, the storage server, or, for a zero page, nobody.
What a shard elsewhere told is a free value (Config.homeTold; log entry 24, DESIGN CHOICE). -/
def State.askHome (s : State) (v : Service) (home : Nat × Nat × Nat) : State :=
  let (kind, rank, addr) := home
  if kind = 3 then s.send (.storage nvmeRead addr [])
  else if kind = 4 then s.arm (.fillDataReceive v.id (List.replicate pageBytes 0) false 0)
  else s.npSay v.id npFetch v.job v.page rank 0 (leBytes 1 kind ++ leBytes 2 rank ++ leBytes 8 addr)

/-- The service is in its lookup phase, or in a back-off of it. -/
def Service.looksUp (v : Service) : Bool := v.phase = .lookup || (v.phase = .backoff && v.resume != .fill)

/-- LOOKUP_ACK_RECEIVE (R380). The shard's acknowledgement ends the lookup phase; NO_HOME declines the service in any phase
(R386). What home the acknowledgement of a shard elsewhere tells of is a free value, none where the owner sends the page or
GRANT follows. -/
def execLookupAckReceive (service : Nat) (noHome storage : Bool) (s : State) : Out :=
  match s.service service with
  | none => .next s
  | some v =>
    if !v.isOpen then .next s
    else if noHome then .next (s.declineService service 4)
    else if !v.looksUp then .next (s.onService service fun v => { v with storage })
    else
      let s := s.fillPhase v storage
      -- a home elsewhere is asked for the page
      match s.dirEnt v.job v.page with
      | some _ => .next s
      | none =>
        let (i, s) := s.free
        let h := Config.homeTold i
        let h := (if storage then 3 else h.1, h.2)
        if v.write || h.1 = 0 then .next s
        else .next ((s.onService service fun v => { v with home := some h }).askHome v h)

/-- FILL_DATA_RECEIVE (R383). All 64 KiB of a fill arrive and pass integrity. -/
def execFillDataReceive (service : Nat) (bytes : List Byte) (homeError : Bool) (dataver : Nat) (s : State) : Out :=
  match s.service service with
  | none => .next s
  | some v =>
    if !v.isOpen then .next s
    else if homeError then .next (s.declineService service 5)
    else match v.frame with
      | none => .next s
      | some i =>
        if bytes.length ≠ pageBytes || !((s.frame i).st = .filling || (v.upgrade && (s.frame i).st = .clean)) then .next s
        else .next ((s.onService service fun v => { v with upgrade := false }).install service i bytes dataver)

/-- Ownership of a Clean frame of the same version: Owned-Dirty, tenure begins, write waiters are woken (R361, R381). A
Pinned frame keeps its WR. -/
def State.upgraded (s : State) (v : Service) (i ver : Nat) : State :=
  let s := s.onFrame i fun f => if f.st = .clean then { f with st := .ownedDirty, wr := true } else f
  let s := (s.onOwned v.job v.page fun o => { o with
    ver
    tenure := true }).arm (.tenureEnd v.job v.page)
  ((s.stopAttempt v.id).onService v.id fun x => { x with
    phase := .installed
    upgrade := false
    held := false
    attempts := 0 }).runWake v.id

/-- After GRANT the page comes from its home: that of this device's own entry, or the one that the shard has told of. -/
def State.fillFromHome (s : State) (v : Service) : State :=
  match s.dirEnt v.job v.page with
  | some e => (s.onService v.id fun v => { v with storage := e.homekind = 3 }).homeFetch e (s.rankIn v.job)
  | none =>
    let (i, s) := s.free
    let h := v.home.getD (Config.homeTold i)
    (s.onService v.id fun v => { v with
      home := some h
      storage := h.1 = 3 }).askHome v h

/-- GRANT_RECEIVE (R381). A requester receives GRANT from the shard: a Clean frame of the same version becomes Owned-Dirty, or the
fill proceeds, with ownership whichever it asked for, and tenure starts. -/
def execGrantReceive (service dataver : Nat) (s : State) : Out :=
  match s.service service with
  | none => .next s
  | some v =>
    if !v.isOpen then .next s
    else match v.frame with
      | none => .next s
      | some i =>
        let f := s.frame i
        if v.upgrade && (f.st = .clean || f.st = .pinned) && (s.ownedOf v.job v.page).ver = dataver then
          .next (s.upgraded v i dataver)
        else
          let s := if f.st = .clean then
              ((s.finishFrame (s.framePA i)).onFrame i fun f => { f with
                st := .filling
                wr := true }).wakeName v.job v.page
            else s
          let s := (s.onService service fun v => { v with
            upgrade := false
            write := true }).onFrame i fun f => if f.st = .filling then { f with wr := true } else f
          .next ((s.fillPhase v false).fillFromHome v)

/-- HELD_RECEIVE (R395). A HELD answer suspends the requester's attempt timeout. -/
def execHeldReceive (service : Nat) (s : State) : Out :=
  match s.service service with
  | none => .next s
  | some v => if v.isOpen then .next ((s.onService service fun v => { v with held := true }).disarm fun e =>
      e == .attemptTimeout service false) else .next s

/-! ## Attempts (R386) -/

/-- The code of a service that has used its four attempts (R387). -/
def Service.timeoutCode (v : Service) (pinned : Bool) : Nat :=
  if v.phase = .lookup then 1 else if v.storage then 3 else if pinned then 6 else 2

/-- ATTEMPT_TIMEOUT (R386). A lookup or fill attempt times out; retry or decline. -/
def execAttemptTimeout (service : Nat) (pinned : Bool) (s : State) : Out :=
  match s.service service with
  | none => .next s
  | some v =>
    if v.held || !(v.phase = .victim || v.phase = .lookup || v.phase = .fill) then .next s
    else
      let s := (s.stopAttempt service).onService service fun v => { v with attempts := v.attempts + 1 }
      if v.attempts + 1 ≥ 4 then .next (s.declineService service (v.timeoutCode (pinned || v.pinDeferred)))
      else if v.phase = .victim then .next (s.arm (.attemptTimeout service false))
      else .next ((s.onService service fun x => { x with
        phase := .backoff
        resume := v.phase }).arm (.backoffExpiry service))

/-- BACKOFF_EXPIRY (R386). A back-off before the next attempt expires. -/
def execBackoffExpiry (service : Nat) (s : State) : Out :=
  match s.service service with
  | none => .next s
  | some v =>
    if v.phase != .backoff then .next s
    else .next ((s.onService service fun x => { x with phase := v.resume }).fetch service)

/-! ## Leaving a frame (R361, R370, R380 to R382) -/

/-- A message to a name's shard, or the step it causes here. -/
def State.tellShard (s : State) (kind job page : Nat) (bytes : List Byte) : State :=
  match (s.jobWorld job).bind fun w => (s.shardRank w job page).map fun r => (r, w.np.rank) with
  | none => s
  | some (r, own) =>
    if r = own then s.arm (if kind = npRecallAck then .shardRecallAck job page own else .shardWbrel job page own bytes)
    else s.npSay 0 kind job page r 0 bytes

/-- EVICTION_COMPLETE (R361). Write-back and recall done; the frame becomes Invalid. -/
def execEvictionComplete (frame : Nat) (s : State) : Out :=
  let f := s.frame frame
  let o := s.ownedOf f.job f.page
  if f.st != .evicting then .next s
  else if o.pinWait && s.ckpt.stuck then .next (s.arm (.evictionComplete frame))
  else
    let s := (s.recallLines (s.framePA frame)).onFrame frame fun f => { f with
      job := 0
      page := 0
      refcnt := 0
      wr := false
      st := .invalid }
    let s := s.onOwned f.job f.page fun _ => Owned.new f.job f.page
    let s := s.refill frame f.job f.page
    -- a pin recorded meanwhile fetches the page again (R385)
    match o.pinWait, s.jobWorld f.job, s.serviceOf f.job f.page with
    | true, some w, none => .next (s.openService w.num f.job f.page false [] true false)
    | true, _, some v => .next (s.onService v.id fun v => { v with pinOnInstall := true })
    | _, _, _ => .next s

/-- HOLDER_RECALL (R380). A holder receives RECALL and acks or evicts. -/
def execHolderRecall (job page : Nat) (s : State) : Out :=
  let ack := fun (s : State) => s.tellShard npRecallAck job page []
  match s.frameOf job page with
  | none => .next (ack (s.onOwned job page fun o => { o with recalled := false }))
  | some (i, f) =>
    if (f.st = .filling && !f.wr) || (f.st = .clean && f.refcnt ≠ 0) || (f.st = .pinned && !f.wr) then
      .next (s.onOwned job page fun o => { o with recalled := true })
    else
      let s := s.onOwned job page fun o => { o with recalled := false }
      if f.st = .clean then
        let s := s.finishFrame (s.framePA i)
        .next (ack (((s.onFrame i fun f => { f with st := .evicting }).wakeName job page).arm (.evictionComplete i)))
      else .next (ack s)

/-- A transfer must wait: for the install, for tenure's end, for references or for an unpin (R381, R385). -/
def State.xferWaits (s : State) (f : Frame) : Bool :=
  f.st = .filling || f.st = .pinned || (f.st = .ownedDirty && (f.refcnt ≠ 0 || (s.ownedOf f.job f.page).tenure))

/-- An owner sends its data with the next version to a requester. -/
def State.sendData (s : State) (job page dst : Nat) (bytes : List Byte) : State :=
  s.npSay 0 npData job page dst ((s.ownedOf job page).ver + 1) bytes

/-- OWNER_XFER_S (R381). Owner receives XFER-S, held for tenure then performed. -/
def execOwnerXferS (job page dst : Nat) (s : State) : Out :=
  match s.frameOf job page with
  | none => .next s
  | some (i, f) =>
    if s.xferWaits f then .next (s.onOwned job page fun o => { o with xfer := some (false, dst) })
    else if f.st = .evicting then
      match (s.ownedOf job page).wbuf with
      | some l => .next (((s.sendData job page dst l).tellShard npWbrel job page l).onOwned job page fun o => { o with xfer := none })
      | none => .next s
    else if f.st = .ownedDirty then
      let s := (s.finishFrame (s.framePA i)).useNp false (s.framePA i) pageBytes
      let l := s.loadPA (s.framePA i) pageBytes
      let s := (s.sendData job page dst l).tellShard npWbrel job page l
      let s := s.onFrame i fun f => { f with
        st := .clean
        wr := false }
      .next ((s.onOwned job page fun o => { o with
        xfer := none
        tenure := false
        ver := o.ver + 1 }).wakeName job page)
    else .next s

/-- OWNER_XFER_X (R381). Owner receives XFER-X, held for tenure then performed. -/
def execOwnerXferX (job page dst : Nat) (s : State) : Out :=
  match s.frameOf job page with
  | none => .next s
  | some (i, f) =>
    if s.xferWaits f then .next (s.onOwned job page fun o => { o with xfer := some (true, dst) })
    else if f.st = .evicting then
      match (s.ownedOf job page).wbuf with
      | some l => .next (((s.sendData job page dst l).tellShard npRecallAck job page []).onOwned job page fun o => { o with xfer := none })
      | none => .next s
    else if f.st = .ownedDirty then
      let s := (s.finishFrame (s.framePA i)).useNp false (s.framePA i) pageBytes
      let s := (s.sendData job page dst (s.loadPA (s.framePA i) pageBytes)).tellShard npRecallAck job page []
      let s := s.onFrame i fun f => { f with st := .evicting }
      .next (((s.onOwned job page fun o => { o with
        xfer := none
        tenure := false }).wakeName job page).arm (.evictionComplete i))
    else .next s

/-- A transfer that was held goes on. -/
def State.xferAgain (s : State) (job page : Nat) : State :=
  match (s.ownedOf job page).xfer with
  | some (true, dst) => s.arm (.ownerXferX job page dst)
  | some (false, dst) => s.arm (.ownerXferS job page dst)
  | none => s

/-- TENURE_END (R381). 10 µs tenure ends and held transfers proceed. -/
def execTenureEnd (job page : Nat) (s : State) : Out :=
  .next ((s.onOwned job page fun o => { o with tenure := false }).xferAgain job page)

/-- The write-back of an Evicting frame has ended: its buffer is free, and the frame becomes Invalid (R382). -/
def State.wroteBack (s : State) (job page : Nat) : State :=
  match s.frameOf job page with
  | some (i, f) =>
    if f.st = .evicting then
      (s.onOwned job page fun o => { o with wbuf := none }).arm (.evictionComplete i)
    else s
  | none => s

/-- WBACK_RECEIVE (R382). An evicting owner receives WBACK and frees its buffer. -/
def execWbackReceive (job page : Nat) (s : State) : Out := .next (s.wroteBack job page)

/-- STALE_RECEIVE (R382). An evicting owner receives STALE and frees its buffer. -/
def execStaleReceive (job page : Nat) (s : State) : Out := .next (s.wroteBack job page)

/-! ## Ageing and errors (R363, R384) -/

/-- FRAME_AGING (R384). Every 64 µs frame AGE values are updated: 0 for a frame that some translation has touched since the last
pass. The operand adds those that translations of the processor chiplet's units have touched, which the model does not make. -/
def execFrameAging (touched : List Nat) (s : State) : Out :=
  .next { s with
    touched := []
    frames := s.frames.foldl (fun t p => tabPut t Frame.init p.1
      { p.2 with age := if touched.contains p.1 || s.touched.contains p.1 then 0
        else if p.2.age ≥ 255 then 255 else p.2.age + 1 }) s.frames }

/-- Granules of a crew's private window are poisoned (R113, R363). -/
def Crew.poisonPriv (c : Crew) (off granules : Nat) : Crew :=
  { c with privPoison := c.privPoison ++
      ((List.range granules).map (off / 4 + ·)).filter fun g => !c.privPoison.contains g }

/-- Granules of a block's scratchpad hold no good data: their bytes are free values (R260). -/
def BUnit.breakSpad (u : BUnit) (a granules free : Nat) : BUnit :=
  { u with
    spad := writeBytes u.spad (a / 4 * 4) ((List.range (4 * granules)).map fun i => Config.brokenByte free (a / 4 * 4 + i))
    spadPoison := u.spadPoison ++ ((List.range granules).map (a / 4 + ·)).filter fun g => !u.spadPoison.contains g }

/-- UNCORRECTABLE_MEMORY_ERROR (R260, R363). An uncorrectable error poisons granules, and its place is reported to firmware.
The operand is a PA below 2^48, above it the offset in a private window or a scratchpad (log entry 24, DESIGN CHOICE). -/
def execUncorrectableMemoryError (pa granules : Nat) (s : State) : Out :=
  let space := pa / 2 ^ 48
  let owner := (space - 1) / 2
  let t := if space = 0 then s.poisonAt pa granules
    else if space % 2 = 1 then s.onCrew owner fun c => c.poisonPriv (pa % 2 ^ 48) granules
    else
      let (free, s) := s.free
      s.onUnit owner fun u => u.breakSpad (pa % 2 ^ 48) granules free
  .next (t.send (.firmware 2 pa))

/-! ## Prefetch (R437) -/

def World.stream (w : World) (i : Nat) : Stream := tabGet w.streams Stream.init i

def State.onStream (s : State) (wn i : Nat) (f : Stream → Stream) : State :=
  s.onWorld wn fun w => { w with streams := tabPut w.streams Stream.init i (f (w.stream i)) }

/-- The page at an index of a stream's extents, given as job, first page and count. -/
def extentPage : List (Nat × Nat × Nat) → Nat → Option (Nat × Nat)
  | [], _ => none
  | (j, p, n) :: r, i => if i < n then some (j, p + i) else extentPage r (i - n)

/-- The extents of a stream's list. -/
def State.extents (s : State) (wn : Nat) (x : Stream) : Option (List (Nat × Nat × Nat)) :=
  (s.devRead wn x.extlist (16 * x.nextCnt)).map fun l => (entriesOf 16 l).map fun e =>
    (leNat ((e.drop 5).take 2), leNat (e.take 5), leNat (e.drop 8))

/-- A fill without waiters for one page, unless it is here or on its way. -/
def State.prefetchPage (s : State) (wn i job page : Nat) : State :=
  if (s.frameOf job page).isSome || (s.serviceOf job page).isSome || s.ckpt.stuck then s
  else (s.openService wn job page false [] false true).onStream wn i fun x => { x with pfdone := x.pfdone + 1 }

/-- PREFETCH_TICK (R437). Every 10 µs a stream opens prefetch services ahead of its counter. -/
def execPrefetchTick (world stream : Nat) (s : State) : Out :=
  match s.world world with
  | none => .next s
  | some w =>
    let x := w.stream stream
    if x.ahead = 0 then .next s
    else
      let s := ((s.devTouch world x.ctr 4).devTouch world x.extlist (16 * x.nextCnt)).arm (.prefetchTick world stream)
      match s.devRead world x.ctr 4, s.extents world x with
      | some b, some ex =>
        let c := leNat b
        let names := ((List.range x.ahead).filterMap fun k => extentPage ex (c + k)).filter (·.1 == w.job)
        let declined := names.any fun n => (s.serviceOf n.1 n.2).any fun v => v.prefetch && v.phase == .declined
        let s := s.onStream world stream fun x => { x with
          last := c
          pfstat := if declined then 2 else if (extentPage ex c).isNone then 1 else 0 }
        .next (names.foldl (fun s n => s.prefetchPage world stream n.1 n.2) s)
      | _, _ => .next s

end Sys2Proof.Machine
end

