-- ==== Sys2Proof/Machine/Command.lean ====
section
/-! DEFINITION. The commands of the NP world page (R388, R389, R442). -/

namespace Sys2Proof.Machine

def csOk : Nat := 0
def csNoFault : Nat := 1
def csSetFull : Nat := 2
def csBadArg : Nat := 3
def csNotResident : Nat := 4

/-- The page that a command names (R388). -/
def World.cpage (w : World) : Nat := w.np.cname

/-- A command ends with a status, and BUSY clears. -/
def State.cmdDone (s : State) (wn stat : Nat) : State :=
  s.onWorld wn fun w => { w with np := { w.np with
    busy := false
    cstat := stat } }

/-- A declined service of a name. -/
def State.declinedOf (s : State) (job page : Nat) : Option Service :=
  (s.serviceOf job page).bind fun v => if v.phase = .declined then some v else none

/-- A declined home write of a name. -/
def State.declinedWrite (s : State) (job page : Nat) : Option DirEnt :=
  (s.dirEnt job page).bind fun e => if e.wdeclined then some e else none

/-! ## INSTALL -/

/-- CARG names 64 KiB of local HBM outside the frame-cache region. -/
def State.cargOk (s : State) (pa : Nat) : Bool :=
  pa % pageBytes == 0 && decide (pa + pageBytes ≤ hbmTop) && !s.inFrameRegion pa pageBytes

/-- The frame of a declined service: its own, or an Invalid way. -/
def State.installFrame (s : State) (v : Service) : Option Nat :=
  match v.frame with
  | some i => some i
  | none => match s.chooseWay v.job v.page with
    | some i => if (s.frame i).st = .invalid then some i else none
    | none => none

/-- INSTALL: 64 KiB from CARG into the frame of a declined service, Clean or Owned-Dirty; waiters are woken. -/
def State.npInstall (s : State) (w : World) (dirty : Bool) : State :=
  let page := w.cpage
  match s.declinedOf w.job page with
  | none => s.cmdDone w.num (if (s.declinedWrite w.job page).isSome then csBadArg else csNoFault)
  | some v =>
    if !s.cargOk w.np.carg then s.cmdDone w.num csBadArg
    else match s.installFrame v with
      | none => s.cmdDone w.num csSetFull
      | some i =>
        let bytes := s.loadPA w.np.carg pageBytes
        let s := (s.useNp false w.np.carg pageBytes).onService v.id fun v => { v with
          write := dirty
          upgrade := false }
        let s := s.install v.id i bytes (s.ownedOf w.job page).ver
        let s := if dirty then (s.askShard npGetx w.job page bytes).1 else s
        s.cmdDone w.num csOk

/-! ## RETRY -/

def State.npRetry (s : State) (w : World) : State :=
  let page := w.cpage
  match s.declinedOf w.job page with
  | some v =>
    let s := v.waiters.foldl (fun s p => s.onFault v.world p.1 fun f => { f with st := .inService }) s
    let phase : SPhase := if v.frame.isSome then .lookup else .victim
    let s := s.onService v.id fun v => { v with
      attempts := 0
      code := 0
      phase }
    (if v.frame.isSome then s.fetch v.id else s.arm (.victimRetry v.id)).cmdDone w.num csOk
  | none => match s.declinedWrite w.job page with
    | some _ => ((s.onDir w.job page fun e => { e with
        wdeclined := false
        wattempts := 0 }).homeWrite w.job page).cmdDone w.num csOk
    | none => s.cmdDone w.num csNoFault

/-! ## KILL -/

/-- The DECLINED_KILL record (R312). -/
def killTrap (code job page : Nat) : Trap :=
  mkTrap .declinedKill code [page % 2 ^ 32, page / 2 ^ 32 % 256 + 256 * job]

/-- A trap that a saved crew is to take when it is back; it holds sixteen (R310). -/
def SavedCrew.pend (c : SavedCrew) (tr : Trap) (lanes : List Nat) : SavedCrew :=
  if c.pending.length ≥ 16 then { c with lost := c.lost + 1 } else { c with pending := c.pending ++ [⟨tr, some lanes⟩] }

/-- A parked sub-group is killed: its crew takes the trap, at once or when it is back (R40). -/
def State.killWaiter (s : State) (gid : Nat) (tr : Trap) : State :=
  match s.groups.find? (·.id == gid) with
  | none => s
  | some g =>
    match s.crew g.crew with
    | some _ => s.async g.crew tr (some g.lanes)
    | none => { s with launches := s.launches.map fun (l : Launch) => { l with
        saved := l.saved.map fun (v : Saved) => { v with
          crews := v.crews.map fun (c : SavedCrew) => if c.uid == g.crew then c.pend tr g.lanes else c } } }

/-- A burst of a handler read waits for a name. -/
def State.burstMisses (s : State) (e : Entry) (job page b : Nat) : Bool :=
  match (s.readGroups e (e.burstGroups b)).2 with
  | .miss m => m.any fun x => x.1 == job && x.2.1 == page
  | _ => false

/-- An engine waiter is killed: its command ends DECLINED; the bursts of a handler read that wait for the name fail finally
(R262, R273). -/
def State.killEngine (s : State) (v : Service) (fseq : Word) (id : Nat) : State :=
  let s := s.onFault v.world fseq FqEntry.release
  match s.entry id with
  | none => s
  | some e =>
    match e.fin with
    | some (st, fault, aux, bytes, path) => s.closeEntry e false st (e.record st fault aux bytes path)
    | none =>
      if e.cmd == .hread then
        (e.held.filter (s.burstMisses e v.job v.page)).foldl (fun s b => s.burstFailed id b stDeclined v.code) s
      else s.engEnd id stDeclined v.code

def State.npKill (s : State) (w : World) : State :=
  let page := w.cpage
  match s.declinedOf w.job page with
  | some v =>
    let tr := killTrap v.code w.job page
    let s := s.onService v.id fun v => { v with
      waiters := []
      prefetch := false }
    let s := v.waiters.foldl (fun s p => match p.2.1 with
      | .group gid => if s.groups.any fun g => g.id == gid && g.job == v.job && g.page == v.page then s.killWaiter gid tr else s
      | .engine id => s.killEngine v p.1 id) s
    (s.runWake v.id).cmdDone w.num csOk
  | none => match s.declinedWrite w.job page with
    | some e => (s.homeWritten e false).cmdDone w.num csOk
    | none => s.cmdDone w.num csNoFault

/-! ## PIN and UNPIN -/

/-- Ways of a name's set that are Pinned, or whose page has a pin recorded, until it is pinned at its install
(R389). -/
def State.pinnedWays (s : State) (job page : Nat) : Nat :=
  (((List.range 16).map (s.setBase job page + ·)).filter fun i =>
    let f := s.frame i
    f.st = .pinned || (f.st = .evicting && (s.ownedOf f.job f.page).pinWait)).length +
  (s.services.filter fun v => v.pinOnInstall && s.setBase v.job v.page == s.setBase job page).length

def State.npPin (s : State) (w : World) : State :=
  let page := w.cpage
  match s.frameOf w.job page with
  | none => s.cmdDone w.num csNotResident
  | some (i, f) =>
    if f.st = .filling then s.cmdDone w.num csNotResident
    else if f.st = .pinned then s.cmdDone w.num csOk
    else if s.pinnedWays w.job page ≥ 4 then s.cmdDone w.num csSetFull
    else if f.st = .evicting then (s.onOwned w.job page fun o => { o with pinWait := true }).cmdDone w.num csOk
    else (s.onFrame i fun f => { f with st := .pinned }).cmdDone w.num csOk

def State.npUnpin (s : State) (w : World) : State :=
  let page := w.cpage
  match s.frameOf w.job page with
  | none => s.cmdDone w.num csNotResident
  | some (i, f) =>
    if f.st != .pinned then s.cmdDone w.num csNotResident
    else
      let s := s.onFrame i fun f => { f with st := if f.wr then .ownedDirty else .clean }
      let s := if (s.ownedOf w.job page).recalled then s.arm (.holderRecall w.job page) else s
      let s := s.xferAgain w.job page
      let s := match s.serviceOf w.job page with
        | some v => s.arm (.waiterRunWake v.id)
        | none => s
      s.cmdDone w.num csOk

/-! ## DIRSET -/

/-- The fields of a directory entry in 32 bytes (R379). -/
def dirOf (job page : Nat) (b : List Byte) : DirEnt :=
  let n := leNat b
  { job, page
    dataver := fieldN n 192 64
    owner := fieldN n 176 16
    holders := ((List.range 4).map fun k => fieldN n (96 + 16 * k) 16).filter (· != noRank)
    all := bitN n 95
    st := .idle
    homekind := fieldN n 88 4
    homerank := fieldN n 64 16
    homeaddr := fieldN n 0 64
    req := 0, reqRank := 0, acks := [], held := none, wattempts := 0, wdeclined := false, waiting := [] }

def State.npDirset (s : State) (w : World) : State :=
  let page := w.cpage
  let mine := s.shardRank w w.job page == some w.np.rank
  let s := if w.np.shmap = 0 then s else s.devTouch w.num (w.np.mapSlot w.job page) 2
  if !mine || w.np.carg % 32 ≠ 0 || w.np.carg + 32 > hbmTop then s.cmdDone w.num csBadArg
  else
    let b := s.loadPA w.np.carg 32
    let s := s.useNp false w.np.carg 32
    let st := fieldN (leNat b) 92 3
    let e := dirOf w.job page b
    let busy := (s.dirEnt w.job page).any fun x => x.st != .idle || !x.holders.isEmpty || x.all
    let rest := s.dir.filter fun x => !(x.job == w.job && x.page == page)
    if st ≠ 0 || e.homekind > 4 || busy then s.cmdDone w.num csBadArg
    else if e.homekind = 0 then State.cmdDone { s with dir := rest } w.num csOk
    else State.cmdDone { s with dir := rest ++ [e] } w.num csOk

/-- A command of a world is performed. -/
def State.npCommand (s : State) (wn : Nat) (f : State → World → State) : State :=
  match s.world wn with
  | some w => f s w
  | none => s

/-- INSTALL_CLEAN (R389). Host installs a declined page Clean from CARG. -/
def execInstallClean (world : Nat) (s : State) : Out := .next (s.npCommand world (fun s w => s.npInstall w false))

/-- INSTALL_DIRTY (R389). Host installs a declined page Owned-Dirty. -/
def execInstallDirty (world : Nat) (s : State) : Out := .next (s.npCommand world (fun s w => s.npInstall w true))

/-- RETRY (R389). Host restarts a declined service at lookup. -/
def execRetry (world : Nat) (s : State) : Out := .next (s.npCommand world State.npRetry)

/-- KILL (R389). Host kills a declined service; waiters take DECLINED_KILL or DECLINED. -/
def execKill (world : Nat) (s : State) : Out := .next (s.npCommand world State.npKill)

/-- PIN (R389). Host pins a frame of the name. -/
def execPin (world : Nat) (s : State) : Out := .next (s.npCommand world State.npPin)

/-- UNPIN (R389). Host unpins a Pinned frame. -/
def execUnpin (world : Nat) (s : State) : Out := .next (s.npCommand world State.npUnpin)

/-- DIRSET (R389). Host replaces or removes a directory entry at its shard. -/
def execDirset (world : Nat) (s : State) : Out := .next (s.npCommand world State.npDirset)

end Sys2Proof.Machine
end

