-- ==== Sys2Proof/Machine/Checkpoint.lean ====
section
/-! DEFINITION. Checkpoint and restore of local HBM (R395 to R397). -/

namespace Sys2Proof.Machine

/-- Segment and image sizes. -/
def segBytes : Nat := 2 ^ 26

/-- CKSTAT values (R396). -/
def ckDraining : Nat := 1
def ckStreaming : Nat := 2
def ckDone : Nat := 3
def ckFailed : Nat := 4
def ckRefused : Nat := 5

/-- A launch of some world is RUNNING or CANCELLING. -/
def State.anyRunning (s : State) : Bool := s.launches.any fun l => l.state = .running || l.state = .cancelling

/-- A run is in progress. -/
def Ckpt.active (c : Ckpt) : Bool := c.stat == ckDraining || c.stat == ckStreaming

/-- A run ends: dispatch and roost timers resume, unless a restore failed in its writing pass, after which they stay held
until a restore reaches DONE; requests held meanwhile are answered in the order of their arrival (R395, R396, R397). -/
def State.ckEnd (s : State) (stat err : Nat) (stuck : Bool) : State :=
  let names := s.ckpt.held
  let s := { s with ckpt := { s.ckpt with
    stat
    err
    hold := stuck
    stuck
    abort := false
    header := false
    held := [] } }
  (if stuck then s else s.wakeDispatch).releaseHeld names

/-- A save or a restore begins, or is refused; one written during a run is ignored. -/
def State.ckStart (s : State) (pass : Nat) : State :=
  if s.ckpt.active then s
  else if s.anyRunning then { s with ckpt := { s.ckpt with stat := ckRefused } }
  else State.arm { s with ckpt := { s.ckpt with
    stat := ckDraining
    pass
    bytes := 0
    err := 0
    crcs := []
    abort := false
    header := false
    hold := true } } .checkpointDrainDone

/-- CHECKPOINT_SAVE (R395). CKCMD 1 starts a checkpoint save or refuses. -/
def execCheckpointSave  (s : State) : Out := .next (s.ckStart 0)

/-- CHECKPOINT_RESTORE (R397). CKCMD 2 starts a restore or refuses. -/
def execCheckpointRestore  (s : State) : Out := .next (s.ckStart 1)

/-- CKCMD 3: a run in progress ends at the next segment boundary. -/
def State.ckAbort (s : State) : State := if s.ckpt.active then { s with ckpt := { s.ckpt with abort := true } } else s

/-- CHECKPOINT_ABORT (R396). CKCMD 3 ends the stream at the next segment boundary. -/
def execCheckpointAbort  (s : State) : Out := .next s.ckAbort

/-! ## What the network processor keeps in HBM (R356, R357, R372) -/

def FState.num : FState → Nat
  | .invalid => 0
  | .clean => 1
  | .ownedDirty => 2
  | .filling => 3
  | .evicting => 4
  | .pinned => 5

def boolN (b : Bool) : Nat := if b then 1 else 0

/-- A frame tag as a number of 128 bits. -/
def Frame.tag (f : Frame) : Nat :=
  f.st.num + 8 * boolN f.wr + 2 ^ 16 * f.roost + 2 ^ 48 * f.age + 2 ^ 56 * f.refcnt + 2 ^ 72 * f.page + 2 ^ 112 * f.job

/-- The tag that 16 bytes hold (R356). -/
def Frame.ofTag (n : Nat) : Frame :=
  { job := fieldN n 112 16
    page := fieldN n 72 40
    refcnt := fieldN n 56 16
    age := fieldN n 48 8
    roost := fieldN n 16 32
    wr := bitN n 3
    st := match fieldN n 0 3 with
      | 1 => .clean
      | 2 => .ownedDirty
      | 3 => .filling
      | 4 => .evicting
      | 5 => .pinned
      | _ => .invalid }

/-- FCTAG: the tag of frame index i lies at FCTAG + 16 i (R357, R358). -/
def State.tagBase (s : State) : Nat := (s.plat.fcbase + s.plat.fcframes) * pageBytes

/-- The tables that the network processor keeps in the region that firmware reserves for it (R372). -/
structure NpTables where
  faultq : Tab FqEntry
  services : List Service
  dir : List DirEnt
  owned : List Owned
  seqs : List Sequence
  roosts : List Roost
  deriving DecidableEq, Repr, Inhabited

/-- The tables as bytes of that region and back: the spec gives no layout of it, so these are free (log entry 5). -/
opaque npPack : NpTables → List Byte
opaque npUnpack : List Byte → NpTables

def State.npTables (s : State) : NpTables := ⟨s.faultq, s.services, s.dir, s.owned, s.seqs, s.roosts⟩

/-- Memory with the tags and the tables of the network processor where HBM holds them. -/
def State.wholeMem (s : State) : Memory :=
  writeBytes (s.frames.foldl (fun m p => writeBytes m (s.tagBase + 16 * p.1) (leBytes 16 p.2.tag)) s.mem) s.npBase
    ((npPack s.npTables).take npSize)

/-- The network processor takes its tags and tables from HBM (R397). -/
def State.loadTables (s : State) : State :=
  let tags := s.mem.filter fun c => decide (s.tagBase ≤ c.1) && decide (c.1 < s.tagBase + 16 * s.plat.fcframes)
  let idx := tags.foldl (fun (l : List Nat) c => if l.contains ((c.1 - s.tagBase) / 16) then l else l ++ [(c.1 - s.tagBase) / 16]) []
  let t := npUnpack (readBytes s.mem s.npBase npSize)
  { s with
    frames := idx.foldl (fun f i => tabPut f Frame.init i (Frame.ofTag (leNat (readBytes s.mem (s.tagBase + 16 * i) 16)))) []
    faultq := t.faultq
    services := t.services
    dir := t.dir
    owned := t.owned
    seqs := t.seqs
    roosts := t.roosts
    mem := s.mem.filter fun c => !tags.contains c && !s.inNpRegion c.1 1 }

/-! ## The image (R395) -/

/-- The world that a PA belongs to, with the generation of its memory key; no world's HBM is under the device's own key. -/
def State.keyAt (s : State) (pa : Nat) : Nat × Nat :=
  match s.worlds.find? fun w => w.regions.contains (pa / 2 ^ 30) with
  | some w => (w.num, w.keygen)
  | none => (0, 0)

/-- A segment of HBM as its DRAM holds it. -/
def State.segment (s : State) (pa : Nat) : List Byte :=
  Config.cipher (s.keyAt pa).1 (s.keyAt pa).2 pa (readBytes s.wholeMem pa segBytes)

/-- The header of an image, its fields in the order in which R395 names them (log entry 24, DESIGN CHOICE), 4 KiB. -/
def State.ckHeader (s : State) : List Byte :=
  let checks := (List.range 15).flatMap fun i => leBytes 16 (match s.world (i + 1) with
    | some w => (Config.keyCheck w.num w.keygen).toNat
    | none => 0)
  let l := leBytes 4 0x4B434843 ++ leBytes 4 Config.identity ++ (List.range 10).flatMap (fun i => leBytes 4 (capWord (i + 1)).toNat) ++
    leBytes 8 hbmTop ++ leBytes 4 segBytes ++ checks
  l ++ List.replicate (4096 - l.length) 0

/-- Part of an image leaves for the target that CKTGT, CKPORT and CKSRV name, at an offset of the image (R396). -/
def State.ckSend (s : State) (off : Nat) (l : List Byte) : State :=
  s.send (.storage 12 (s.ckpt.obj + off) (leBytes 1 s.ckpt.tgt ++ leBytes 1 s.ckpt.port ++ leBytes 8 s.ckpt.srv ++ l))

/-- A save streams a segment; the trailer follows the last. -/
def State.saveSegment (s : State) : State :=
  let l := s.segment s.ckpt.bytes
  let crcs := s.ckpt.crcs ++ [crc32c l]
  let s := State.ckSend { s with ckpt := { s.ckpt with crcs } } (4096 + s.ckpt.bytes) l
  if s.ckpt.bytes + segBytes < hbmTop then s else s.ckSend (4096 + hbmTop) (crcs.flatMap (leBytes 4))

/-- CHECKPOINT_DRAIN_DONE (R395). Services and caches are drained; streaming begins. -/
def execCheckpointDrainDone  (s : State) : Out :=
  if s.ckpt.stat != ckDraining then .next s
  else if s.services.any fun v => v.phase != .declined && v.phase != .installed then .next (s.arm .checkpointDrainDone)
  else
    let s := { s with ckpt := { s.ckpt with stat := ckStreaming } }
    .next (if s.ckpt.pass = 0 then (s.ckSend 0 s.ckHeader).arm (.checkpointSegmentDone 0 []) else s)

/-- A segment of a restore is written below the encryption engines (R397): bytes beyond those given are 0, and no granule of it stays poisoned. -/
def State.writeSegment (s : State) (pa : Nat) (l : List Byte) : State :=
  { s with
    mem := writeBytes (s.mem.filter fun p => !(decide (pa ≤ p.1) && decide (p.1 < pa + segBytes))) pa
      ((Config.decipher (s.keyAt pa).1 (s.keyAt pa).2 pa l).take segBytes)
    poison := s.poison.filter fun g => !(decide (pa ≤ 4 * g) && decide (4 * g < pa + segBytes)) }

/-- After the last segment every buffer of the device is invalid, and the network processor reloads its tags and tables
(R397). -/
def State.afterRestore (s : State) : State :=
  State.loadTables { s with
    lines := []
    flying := []
    l1 := []
    vtags := []
    worlds := s.worlds.map (·.dropRange 0 0) }

/-- The next segment, or the end of the pass. -/
def State.ckNext (s : State) : State :=
  let n := s.ckpt.bytes + segBytes
  let s := { s with ckpt := { s.ckpt with bytes := n } }
  if n < hbmTop then (if s.ckpt.pass = 0 then s.arm (.checkpointSegmentDone 0 []) else s)
  else if s.ckpt.pass = 1 then { s with ckpt := { s.ckpt with
    pass := 2
    bytes := 0 } }
  else if s.ckpt.pass = 2 then s.afterRestore.ckEnd ckDone 0 false
  else s.ckEnd ckDone 0 s.ckpt.stuck

/-- The checking pass of a restore begins with the header and the trailer of the image: identity, capability words and key
check values must be those of this device and of its worlds now (R397). -/
def State.ckCheckHeader (s : State) (l : List Byte) : State :=
  if l.take 4096 = s.ckHeader then { s with ckpt := { s.ckpt with
    header := true
    crcs := (entriesOf 4 (l.drop 4096)).map leNat } }
  else s.ckEnd ckFailed 3 s.ckpt.stuck

/-- A segment of the image as the checking pass reads it: its CRC-32C is that of the trailer (R397). -/
def State.ckSegmentOk (s : State) (l : List Byte) : Bool := s.ckpt.crcs[s.ckpt.bytes / segBytes]? == some (crc32c l)

/-- CHECKPOINT_SEGMENT_DONE (R395, R397). A 64 MiB segment is streamed, checked or written; last one ends the run. A restore
reads the header and the trailer before its first segment. `outcome` is not 0 where the transport has failed. -/
def execCheckpointSegmentDone (outcome : Nat) (bytes : List Byte) (s : State) : Out :=
  let c := s.ckpt
  if c.stat != ckStreaming then .next s
  else if c.abort then .next (s.ckEnd ckFailed 0 (c.pass = 2 || c.stuck))
  else if c.pass = 0 then
    if outcome ≠ 0 then .next (s.ckEnd ckFailed 1 c.stuck)
    else .next s.saveSegment.ckNext
  else if c.pass = 1 then
    if outcome ≠ 0 then .next (s.ckEnd ckFailed 1 c.stuck)
    else if !c.header then .next (s.ckCheckHeader bytes)
    else if s.ckSegmentOk bytes then .next s.ckNext
    else .next (s.ckEnd ckFailed 2 c.stuck)
  else if outcome ≠ 0 then .next (s.ckEnd ckFailed 1 true)
  else .next (s.writeSegment c.bytes bytes).ckNext

end Sys2Proof.Machine
end

