-- ==== Sys2Proof/Machine/Fabric.lean ====
section
/-! DEFINITION. The fabric: packets, acknowledgements and rates, device time, ports, flits and links (R401 to R405, R419,
R422, R424). -/

namespace Sys2Proof.Machine

/-! ## Commands that the fabric or a link fails (R262, R273, R403) -/

/-- A command that is under way. -/
def Entry.underWay (e : Entry) : Bool := e.phase.begun && e.phase != .following && e.fin.isNone

/-- The burst of a handler read that is being fetched: of a local tile the next one, of another the first that has been
asked for. -/
def State.burstOnWay (s : State) (e : Entry) : Option Nat :=
  (List.range (e.progress.headD 0)).find? fun b => s.burstNew e b && (e.localRead || e.asked.contains b)

/-- A command under way ends with a fault: what a copy had begun is torn; of a handler read the burst being fetched fails
finally, and the others go on (R273). -/
def State.failEntry (s : State) (id status reason : Nat) : State :=
  match s.entry id with
  | none => s
  | some e =>
    if !e.underWay then s
    else match e.cmd with
      | .hread => (s.burstOnWay e).elim s fun b => s.burstError id b status reason true
      | _ => ((s.tearEntry e).dropWaiter (.engine id)).engEnd id status reason

/-- An uncorrectable link error ends the request it carried (R419, R422): an engine's command, else a thread's access,
whose granules are poisoned. -/
def State.linkLost (s : State) (entry pa granules : Nat) : State :=
  if entry ≠ 0 then s.failEntry entry stMemError linkIntegrity else s.poisonAt pa granules

/-- A retryable link error in a command (R262): the fourth ends it; a copy begins again, a burst is fetched again. -/
def State.linkRetry (s : State) (id : Nat) : State :=
  match s.entry id with
  | none => s
  | some e =>
    if !e.underWay then s
    else match e.cmd with
      | .hread => (s.burstOnWay e).elim s fun b => s.burstError id b stMemError linkIntegrity false
      | _ =>
        if e.retries ≥ 3 then s.failEntry id stMemError linkIntegrity
        else
          let s := s.onEntry id fun e => { e with retries := e.retries + 1 }
          match e.cmd, e.phase with
          | .cpy, .running | .cpy2d, .running | .cpymx, .running | .cpyred, .running =>
            (((s.tearEntry e).onEntry id fun e => { e with phase := .abandoned }).disarm fun (ev : Event) => match ev with
              | .cpyComplete i | .cpyredChunkApply i => i == id
              | _ => false).arm (.copyReplay id)
          | _, _ => s

/-- What a packet that never arrives belonged to: a command ends TIMEOUT, naming the fabric or the storage server, or the
burst that the packet asked for fails finally; a service's attempt has failed (R260, R273, R386, R403). -/
def State.transportFailed (s : State) (peer owner part : Nat) : State :=
  let reason := if peer % 3 = 1 then byServer else byTransport
  match s.entry owner, s.service owner with
  | some e, _ => if e.cmd = .hread then s.burstError owner part stTimeout reason true else s.failEntry owner stTimeout reason
  | none, some v => s.arm (.attemptTimeout v.id false)
  | none, none => s

/-! ## Packets (R401 to R404, R424) -/

/-- The epoch is the current one, or the one before while both are accepted (R424); 0 names no key. -/
def epochOk (e : Nat × Bool) (n : Nat) : Bool := n != 0 && (n == e.1 || (e.2 && n + 1 == e.1))

/-- The packet authenticates: a tag that verifies under a key this device knows (R418, R423, R424). -/
def State.packetOk (s : State) (w : World) (p : Packet) : Bool :=
  p.tagOk && !(s.peer (rankPeer w.job p.peer)).failed &&
    (if p.lease = 0 then epochOk (tabGet s.plat.epochs (0, false) w.job) p.epoch
     else w.fab.leases.any fun l => l.keys.contains p.lease)

/-- The answer of another device reaches the command it belongs to (R260, R283). -/
def State.takeReply (s : State) (r : Reply) : State :=
  match s.entry r.entry with
  | none => s
  | some e =>
    if !e.underWay then s
    else if r.status ≠ stDone then
      match e.cmd with
      | .hread => s.burstError e.id r.aux r.status r.reason true
      | _ => ((s.withdraw e).dropWaiter (.engine e.id)).finishEntry e.id r.status r.reason r.aux 0 0
    else
      match e.cmd with
      | .rouse => s.finishEntry e.id stDone r.reason r.aux e.bytes 0
      | .rflush => s.arm (.rflushComplete e.id)
      | _ => s

/-- PACKET_RECEIVE (R401). A fabric packet arrives; authenticated, placed once or dropped. -/
def execPacketReceive (pkt : Packet) (s : State) : Out :=
  match s.world pkt.world with
  | none => .next s
  | some w =>
    if pkt.mode != .rud && pkt.mode != .rod then
      .next (s.onWorld w.num fun w => { w with fab := { w.fab with modedrop := w.fab.modedrop + 1 } })
    else if !s.packetOk w pkt then
      .next (s.onWorld w.num fun w => { w with fab := { w.fab with badpkt := w.fab.badpkt + 1 } })
    else
      let peer := rankPeer w.job pkt.peer
      let s := (s.send (.fabric clsAck peer (leBytes 8 pkt.seq))).countPacket peer
      if (s.peer peer).seen.contains pkt.seq then .next s
      else
        let s := s.onPeer peer fun p => { p with seen := p.seen ++ [pkt.seq] }
        let s := match pkt.reply with
          | some r => s.takeReply r
          | none => s
        match pkt.req with
        | some r => execRmaRequestReceive r s
        | none => .next s

/-- The next port that is up after one (R402). -/
def State.nextPort (s : State) (port : Nat) : Option Nat :=
  ((List.range 8).map fun k => (port + 1 + k) % 8).find? fun p => s.plat.portsUp.contains p

/-- Changes a packet that is not acknowledged. -/
def State.onSent (s : State) (peer seq : Nat) (f : Sent → Sent) : State :=
  s.onPeer peer fun p => { p with unacked := mapIf (fun (y : Sent) => y.seq == seq) f p.unacked }

/-- Where a packet is sent again (R402): an unordered one is sprayed anew; an ordered flow moves to the next port that is up
once the packet has been sent again twice on its port. With it, how often it will have been sent again on that port. -/
def State.reroute (s : State) (peer : Nat) (x : Sent) : State × Option Nat × Nat × Nat :=
  let on := (s.peer peer).flows.any fun f => f.cls == x.cls && some f.port == x.port
  let s := if x.cls != clsRud && on && decide (2 ≤ x.tries) then
      s.onPeer peer fun p => p.setFlow x.cls (x.port.bind s.nextPort) x.entropy
    else s
  let (s, port, entropy) := s.route x.cls peer
  (s, port, entropy, if port == x.port then x.tries + 1 else 1)

/-- RETRANSMIT_TIMEOUT (R403). An unacknowledged packet is retransmitted or transport fails: after eight sends an rput or ratom
is known never to be placed, and any other packet is given up. -/
def execRetransmitTimeout (peer seq : Nat) (s : State) : Out :=
  match (s.peer peer).unacked.find? (·.seq == seq) with
  | none => .next s
  | some x =>
    if x.lost then .next s
    else if x.sends ≥ 8 then
      .next ((if x.put.isSome then s.onSent peer seq fun y => { y with lost := true }
        else s.onPeer peer fun p => { p with unacked := p.unacked.filter (·.seq != seq) }).transportFailed peer x.owner x.part)
    else
      let (s, port, entropy, tries) := s.reroute peer x
      let s := s.onSent peer seq fun y => { y with
        sends := y.sends + 1
        port
        entropy
        tries }
      .next (((s.send (.packet x.cls peer seq port entropy x.off x.len)).countPacket peer).arm (.retransmitTimeout peer seq))

/-- A rate is never below 0.1 % and never above the port rate (R404). -/
def clampRate (r : Nat) : Nat := if r < 1000 then 1000 else if r > 1000000 then 1000000 else r

/-- A packet is placed: it is sent no more, and an a2av that awaited it may be complete (R279). -/
def State.acknowledged (s : State) (peer seq : Nat) : State :=
  let owner := ((s.peer peer).unacked.find? (·.seq == seq)).elim 0 (·.owner)
  ((s.onPeer peer fun p => { p with unacked := p.unacked.filter (·.seq != seq) }).disarm
    fun (e : Event) => e == .retransmitTimeout peer seq).a2avCheck owner

/-- ACK_RECEIVE (R404). An acknowledgement arrives; a mark lowers the rate. -/
def execAckReceive (peer seq : Nat) (marked : Bool) (s : State) : Out :=
  let s := s.acknowledged peer seq
  if !marked then .next s
  else
    let now := s.plat.devtime.toNat
    let due := match (s.peer peer).lastFall with
      | some t => decide (t + 8000 ≤ now)
      | none => true
    .next ((s.onPeer peer fun p => { p with
      marked := true
      rate := if due then clampRate (p.rate * 7 / 8) else p.rate
      lastFall := if due then some now else p.lastFall }).arm (.rateRiseTick peer))

/-- RATE_RISE_TICK (R404). Each unmarked 10 µs raises the send rate by 1 %. -/
def execRateRiseTick (peer : Nat) (s : State) : Out :=
  let s := s.onPeer peer fun p => { p with
    rate := if p.marked then p.rate else clampRate (p.rate + 10000)
    marked := false }
  .next (if (s.peer peer).rate < 1000000 then s.arm (.rateRiseTick peer) else s)

/-! ## Device time (R405) -/

/-- PTP_SYNC (R405). A PTP message disciplines device time by slewing; the device is locked while what is left of the
correction is no more than 1 µs. -/
def execPtpSync (elapsed : Nat) (correction : Int) (s : State) : Out :=
  let most : Int := elapsed / 10000
  let slew := if correction > most then most else if correction < -most then -most else correction
  let t := s.plat.devtime.toNat + ((elapsed : Int) + slew).toNat
  .next { s with plat := { s.plat with
    devtime := if t < 2 ^ 64 then BitVec.ofNat 64 t else s.plat.devtime
    secClock := s.plat.secClock + elapsed / 1000
    ptpLocked := decide (correction - slew ≤ 1000 ∧ slew - correction ≤ 1000) } }

/-- PTP_LOCK_LOSS (R405). The device loses lock to the PTP grandmaster, so the gang time check refuses with GANG_LATE. -/
def execPtpLockLoss  (s : State) : Out := .next { s with plat := { s.plat with ptpLocked := false } }

/-! ## Ports (R402) -/

/-- PORT_DOWN (R402). An Ultra Ethernet port goes down and leaves the set of ports that carry sprayed and ROD traffic. -/
def execPortDown (port : Nat) (s : State) : Out :=
  let s := { s with plat := { s.plat with portsUp := s.plat.portsUp.filter (· != port) } }
  .next (if s.ckpt.stat = ckStreaming && s.ckpt.tgt = 0 && s.ckpt.port = port then
      s.ckEnd ckFailed 1 (s.ckpt.pass = 2 || s.ckpt.stuck)
    else s)

/-- PORT_UP (R402). An Ultra Ethernet port comes up and rejoins the ports that traffic is sprayed over. -/
def execPortUp (port : Nat) (s : State) : Out :=
  .next { s with plat := { s.plat with
    portsUp := (List.range 8).filter fun p => p == port || s.plat.portsUp.contains p } }

/-! ## Flits and links (R419, R422) -/

/-- DIE_FLIT_RECEIVE (R419). A die-to-die flit of a foreign world is dropped and counted, and the request it carried is lost. -/
def execDieFlitReceive (die world entry pa granules : Nat) (s : State) : Out :=
  if s.plat.dieWorld.getD die 0 = world then .next s
  else .next (({ s with plat := { s.plat with flitDrops := s.plat.flitDrops + 1 } }).linkLost entry pa granules)

def State.link (s : State) (i : Nat) : Link := tabGet s.plat.links Link.init i
def State.onLink (s : State) (i : Nat) (f : Link → Link) : State :=
  { s with plat := { s.plat with links := tabPut s.plat.links Link.init i (f (s.link i)) } }

/-- The keys of a link are renewed, and its units counted from 0 under the new ones. -/
def Link.renew (l : Link) : Link := { l with
  keygen := l.keygen + 1
  ctr := 0 }

/-- A unit has been delivered; the counter does not reach 2^48 under one key. -/
def Link.delivered (l : Link) : Link :=
  let l := { l with
    ctr := l.ctr + 1
    fails := 0
    open_ := true }
  if l.ctr + 1 ≥ 2 ^ 48 then l.renew else l

/-- LINK_UNIT_RECEIVE (R422). A link unit's tag is checked; delivered or resent. -/
def execLinkUnitReceive (link : Nat) (tagOk : Bool) (entry pa granules : Nat) (s : State) : Out :=
  if tagOk then .next (s.onLink link Link.delivered)
  else if (s.link link).fails ≥ 3 then
    .next ((s.onLink link fun l => { l with fails := 0 }).linkLost entry pa granules)
  else
    .next ((s.onLink link fun l => { l with fails := l.fails + 1 }).linkRetry entry)

/-- LINK_UNIT_CLOSE (R422). A link unit closes after 32 clk idle. -/
def execLinkUnitClose (link : Nat) (s : State) : Out := .next (s.onLink link fun l => { l with open_ := false })

/-- LINK_KEY_RENEW (R422). Link keys are renewed before the counter reaches 2^48. -/
def execLinkKeyRenew (link : Nat) (s : State) : Out := .next (s.onLink link Link.renew)

/-! ## Session keys and epochs (R423, R424) -/

/-- Epoch and overlap of a job's key; epoch 0 is none held. -/
def State.epoch (s : State) (job : Nat) : Nat × Bool := tabGet s.plat.epochs (0, false) job
def State.setEpoch (s : State) (job : Nat) (e : Nat × Bool) : State :=
  { s with plat := { s.plat with epochs := tabPut s.plat.epochs (0, false) job e } }

/-- A job's first key is held: the session key, under its first epoch. -/
def State.holdKey (s : State) (job : Nat) : State :=
  if (s.epoch job).1 = 0 then s.setEpoch job (1, false) else s

/-- The requests with which the authority attests a rank and opens a secured session with it: CHALLENGE, KEY_EXCHANGE and
FINISH, with a fresh nonce (R412, R413, R423). -/
def State.attestRank (s : State) (job rank : Nat) : State :=
  let (i, s) := s.free
  let data := [job, rank, (Config.noise i).toNat]
  ((s.send (.spdm 0x83 data)).send (.spdm 0xE4 data)).send (.spdm 0xE5 data)

/-- SESSION_KEY_DISTRIBUTION (R423). The authority gives the job session key to an attested rank; a rank that is not the
authority receives its own. -/
def execSessionKeyDistribution (job rank : Nat) (attested : Bool) (s : State) : Out :=
  match s.jobWorld job with
  | none => .next s
  | some w =>
    if !w.isAuthority then .next (if rank = w.np.rank && attested then s.holdKey job else s)
    else if rank = w.np.rank then .next (s.holdKey job)
    else
      let s := s.attestRank job rank
      if attested then
        let s := (s.holdKey job).onPeer (rankPeer job rank) fun p => { p with failed := false }
        .next ((s.send (.key job rank (s.epoch job).1)).transmitPart clsTrust (rankPeer job rank) 0 0 0)
      else .next (s.onPeer (rankPeer job rank) fun p => { p with failed := true })

/-- EPOCH_ADVANCE (R424). The transport epoch key advances after 2^40 packets or on request; the packets of the job are counted
anew. -/
def execEpochAdvance (job : Nat) (s : State) : Out :=
  let e := s.epoch job
  if e.1 = 0 then .next s
  else
    let peers := s.plat.peers.map fun p => if peerJob p.1 = job then (p.1, { p.2 with sent := 0 }) else p
    let s := { s with plat := { s.plat with peers } }
    .next ((s.setEpoch job (e.1 + 1, true)).arm (.epochOverlapEnd job))

/-- EPOCH_OVERLAP_END (R424). 1 s after an epoch change the old epoch is no longer accepted. -/
def execEpochOverlapEnd (job : Nat) (s : State) : Out :=
  let e := s.epoch job
  .next (s.setEpoch job (e.1, false))

end Sys2Proof.Machine
end

