-- ==== Sys2Proof/Machine/Trust.lean ====
section
/-! DEFINITION. Trust: firmware images, SPDM, and the leases of switches (R410 to R418). -/

namespace Sys2Proof.Machine

/-! ## Firmware (R411) -/

/-- Components that live activation replaces: NP microcode, PCH firmware, compute-die microcode, fabric firmware (R411,
R415). -/
def liveComponent (c : Nat) : Bool := decide (3 ≤ c) && decide (c ≤ 6)

/-- A component that has a firmware image of its own: 2 to 6 of R415. -/
def hasImage (c : Nat) : Bool := decide (2 ≤ c) && decide (c ≤ 6)

/-- An image is the one that its component runs. -/
def State.runs (s : State) (component digest : Nat) : State :=
  { s with plat := { s.plat with images := tabPut s.plat.images 0 component digest } }

/-- Records the measurement of a component (R415). -/
def State.measured (s : State) (component digest : Nat) : State :=
  { s with plat := { s.plat with measures := tabPut s.plat.measures 0 component digest } }

/-- FIRMWARE_ACTIVATION (R411). A signed image is verified and activated or refused. -/
def execFirmwareActivation (component target svn : Nat) (ecdsaOk hssOk : Bool) (digest : Nat) (live : Bool) (s : State) : Out :=
  if !(ecdsaOk && hssOk) || svn < s.plat.minSvn || component ≠ target || !hasImage component || (live && !liveComponent component)
  then .next (s.send (.firmware 3 component))
  else
    let s := { s with plat := { s.plat with versions := tabPut s.plat.versions 0 component svn } }
    if live then
      .next (State.post { s with plat := { s.plat with activating := s.plat.activating + 1 } } (.liveActivationEnd component digest))
    else .next ((s.runs component digest).measured component digest)

/-- LIVE_ACTIVATION_END (R414). A live activation ends when the new measurement is recorded, after which GET_MEASUREMENTS stops answering Busy. -/
def execLiveActivationEnd (component digest : Nat) (s : State) : Out :=
  .next ((State.runs { s with plat := { s.plat with activating := s.plat.activating - 1 } } component digest).measured component
    digest)

/-! ## SPDM (R412 to R415)

Response and error codes are those of the DMTF standard (log entry 20). -/

/-- An ERROR answer. -/
def State.spdmError (s : State) (code : Nat) : State := s.send (.spdm 0x7F [code])

def errInvalid : Nat := 0x01
def errBusy : Nat := 0x03
def errUnspecified : Nat := 0x05
def errDecrypt : Nat := 0x06
def errUnsupported : Nat := 0x07
def errVersion : Nat := 0x41

/-- SPDM 1.3. -/
def spdmVersion : Nat := 0x13

/-- A request of version 1.3 is served; one of another version receives VersionMismatch (R412). -/
def State.spdm13 (s : State) (version : Nat) (serve : State → State) : Out :=
  .next (if version = spdmVersion then serve s else s.spdmError errVersion)

/-- One HSS leaf is used for a signature; with none left the device refuses to sign (R410). -/
def State.signed (s : State) (answer : State → State) : State :=
  if s.plat.hssUsed ≥ 2 ^ 40 then s.spdmError errUnspecified
  else answer { s with plat := { s.plat with hssUsed := s.plat.hssUsed + 1 } }

/-- The element that a signed answer carries: vendor ID, format, HSS levels, and the number of the leaf that signs (R413). -/
def State.vendorElement (s : State) : List Nat := [0x564E, 1, 2, s.plat.hssUsed]

/-- GET_VERSION (R412). SPDM GET_VERSION served. -/
def execGetVersion (version : Nat) (s : State) : Out :=
  s.spdm13 version fun s =>
    s.send (.spdm 0x04 [spdmVersion])

/-- GET_CAPABILITIES (R412). SPDM GET_CAPABILITIES served. -/
def execGetCapabilities (version : Nat) (s : State) : Out :=
  s.spdm13 version fun s =>
    s.send (.spdm 0x61 [])

/-- Algorithm names of R412: ECDSA P-384, SHA-384, secp384r1, AES-256-GCM. -/
def spdmAlgorithms : List Nat := [384, 384, 384, 256]

/-- NEGOTIATE_ALGORITHMS (R412). SPDM NEGOTIATE_ALGORITHMS served. -/
def execNegotiateAlgorithms (version : Nat) (supported : Bool) (s : State) : Out :=
  s.spdm13 version fun s =>
    if supported then s.send (.spdm 0x63 spdmAlgorithms) else s.spdmError errInvalid

/-- GET_DIGESTS (R412). SPDM GET_DIGESTS served. -/
def execGetDigests (version : Nat) (s : State) : Out :=
  s.spdm13 version fun s =>
    s.send (.spdm 0x01 [0])

/-- GET_CERTIFICATE (R412). SPDM GET_CERTIFICATE served for slot 0. -/
def execGetCertificate (version slot : Nat) (s : State) : Out :=
  s.spdm13 version fun s =>
    if slot = 0 then s.send (.spdm 0x02 [slot]) else s.spdmError errInvalid

/-- CHALLENGE (R413). SPDM CHALLENGE answered with dual signatures. -/
def execChallenge (version slot nonce : Nat) (s : State) : Out :=
  s.spdm13 version fun s =>
    if slot ≠ 0 then s.spdmError errInvalid
    else s.signed fun s => s.send (.spdm 0x03 ([slot, nonce] ++ s.vendorElement))

/-- The measurement blocks that an index asks for: 0 their number, 0xFF all seven (R415). -/
def State.measurement (s : State) (index : Nat) : List Nat :=
  if index = 0 then [7]
  else ((List.range 7).filter fun k => index == 0xFF || index == k + 1).flatMap fun k =>
    [k + 1, tabGet s.plat.measures 0 (k + 1)]

/-- GET_MEASUREMENTS (R414). SPDM GET_MEASUREMENTS served, or Busy during activation. -/
def execGetMeasurements (version index : Nat) (signed : Bool) (nonce : Nat) (s : State) : Out :=
  s.spdm13 version fun s =>
    if s.plat.activating ≠ 0 then s.spdmError errBusy
    else if index > 7 && index ≠ 0xFF then s.spdmError errInvalid
    else if signed then s.signed fun s => s.send (.spdm 0x60 ([nonce] ++ s.measurement index ++ s.vendorElement))
    else s.send (.spdm 0x60 (s.measurement index))

/-- An open secured session; any other receives an error. -/
def State.inSession (s : State) (session : Nat) (serve : State → State) : State :=
  if s.plat.sessions.contains session then serve s else s.spdmError errInvalid

def State.dropSession (s : State) (session : Nat) : State :=
  { s with plat := { s.plat with sessions := s.plat.sessions.filter (· != session) } }

/-- KEY_EXCHANGE (R412). SPDM KEY_EXCHANGE served. -/
def execKeyExchange (version slot : Nat) (s : State) : Out :=
  s.spdm13 version fun s =>
    if slot ≠ 0 then s.spdmError errInvalid
    else s.signed fun s =>
      State.send { s with plat := { s.plat with
        sessions := s.plat.sessions ++ [s.plat.nextSession]
        nextSession := s.plat.nextSession + 1 } } (.spdm 0x64 ([s.plat.nextSession] ++ s.vendorElement))

/-- FINISH (R412). SPDM FINISH served. -/
def execFinish (version session : Nat) (verified : Bool) (s : State) : Out :=
  s.spdm13 version fun s =>
    s.inSession session fun s =>
      if verified then s.send (.spdm 0x65 [session]) else (s.dropSession session).spdmError errDecrypt

/-- HEARTBEAT (R412). SPDM HEARTBEAT served. -/
def execHeartbeat (version session : Nat) (s : State) : Out :=
  s.spdm13 version fun s =>
    s.inSession session fun s => s.send (.spdm 0x68 [session])

/-- KEY_UPDATE (R412). SPDM KEY_UPDATE served. -/
def execKeyUpdate (version session : Nat) (s : State) : Out :=
  s.spdm13 version fun s =>
    s.inSession session fun s => s.send (.spdm 0x69 [session])

/-- END_SESSION (R412). SPDM END_SESSION served. -/
def execEndSession (version session : Nat) (s : State) : Out :=
  s.spdm13 version fun s =>
    s.inSession session fun s => (s.dropSession session).send (.spdm 0x6C [session])

/-- SPDM_UNSUPPORTED_REQUEST (R412). Other or old-version requests receive ERROR. -/
def execSpdmUnsupportedRequest (version code : Nat) (s : State) : Out :=
    s.spdm13 version fun s => s.send (.spdm 0x7F [errUnsupported, code])

/-! ## Leases (R416 to R418) -/

/-- The secure clock never goes back. -/
def State.clockTo (s : State) (t : Nat) : State :=
  { s with plat := { s.plat with secClock := if s.plat.secClock < t then t else s.plat.secClock } }

def Lease.new (swid : Nat) : Lease := ⟨swid, lsNone, 0, 0, 0, [], []⟩

def World.lease (w : World) (swid : Nat) : Lease := (w.fab.leases.find? (·.swid == swid)).getD (Lease.new swid)

/-- The 16 bytes of a mirror entry (R417). -/
def Lease.bytes (l : Lease) : List Byte :=
  leBytes 4 l.leaseNo ++ leBytes 1 l.reason ++ leBytes 1 l.st ++ leBytes 2 l.swid ++ leBytes 8 l.expiry

/-- A lease of a world changes: the table, which holds 64, and the mirror in memory. -/
def State.setLease (s : State) (wn swid : Nat) (f : Lease → Lease) : State :=
  match s.world wn with
  | none => s
  | some w =>
    let l := f (w.lease swid)
    let held := w.fab.leases.any (·.swid == swid)
    if !held && w.fab.leases.length ≥ 64 then s
    else
      let ls := if held then updFirst (fun (x : Lease) => x.swid == swid) (fun _ => l) w.fab.leases else w.fab.leases ++ [l]
      let s := s.onWorld wn fun w => { w with fab := { w.fab with leases := ls } }
      match ls.findIdx? (·.swid == swid) with
      | some i => (s.devWrite wn (w.fab.leasetab + 16 * i) l.bytes).1
      | none => s

/-- The authority sends a lease as it now stands to every rank of the job (R417). -/
def State.tellLease (s : State) (wn swid : Nat) : State :=
  match s.world wn with
  | none => s
  | some w =>
    let l := w.lease swid
    if w.isAuthority then
      ((Config.ranksOf w.job).filter (· != w.np.rank)).foldl (fun s r => s.transmitPart clsTrust (rankPeer w.job r) 0 0 0)
        (s.send (.lease wn swid l.st l.reason l.leaseNo l.expiry s.plat.secClock))
    else s

/-- The timers of a lease stop; a Busy switch goes on to be asked (R417). -/
def State.stopLease (s : State) (wn swid : Nat) : State :=
  s.disarm fun (e : Event) => match e with
    | .leaseRenewalDue w x | .leaseExpiry w x | .leaseKeyGraceEnd w x => w == wn && x == swid
    | _ => false

/-- They start again as the lease now stands: renewal at the authority and expiry while it is LEASED, the end of its keys
once it is not. -/
def State.timeLease (s : State) (wn swid : Nat) : State :=
  let s := s.stopLease wn swid
  match s.world wn with
  | none => s
  | some w =>
    let l := w.lease swid
    if l.st = lsLeased then
      let s := (if w.isAuthority then s.arm (.leaseRenewalDue wn swid) else s).arm (.leaseExpiry wn swid)
      if l.keys.any (· != l.leaseNo) then s.arm (.leaseKeyGraceEnd wn swid) else s
    else if l.keys.isEmpty then s
    else s.arm (.leaseKeyGraceEnd wn swid)

/-- A switch is asked for its identity and its measurements, with a fresh nonce (R416). -/
def State.askSwitch (s : State) (wn swid : Nat) : State :=
  let (i, s) := s.free
  (s.send (.spdm 0x83 [wn, swid, (Config.noise i).toNat])).send (.spdm 0xE0 [wn, swid, (Config.noise i).toNat])

/-- A switch is attested with success at time `t`: its lease goes on while it runs, else it gets a new one, with a new key (R416, R417). -/
def State.grantLease (s : State) (w : World) (swid t : Nat) : State :=
  let l := w.lease swid
  let until_ := t + 1000 * w.fab.leasems
  if l.st = lsLeased && l.expiry > t then s.setLease w.num swid fun l => { l with expiry := until_ }
  else
    let no := w.fab.lastLease + 1
    ((s.onWorld w.num fun w => { w with fab := { w.fab with lastLease := no } }).setLease w.num swid fun l => { l with
      st := lsLeased
      reason := 0
      leaseNo := no
      expiry := until_
      keys := l.keys ++ [no] }).send (.leaseKey w.num swid no)

/-- A lease ends before its expiry: by refusal or revocation, from now on (R417, R418). -/
def State.endLease (s : State) (w : World) (swid t st reason : Nat) : State :=
  s.setLease w.num swid fun l => { l with
    st
    reason
    expiry := if l.expiry < t then l.expiry else t }

/-- Index and digest of each approved measurement of a world's job (R416); `none` where the table cannot be read. -/
def State.approved (s : State) (w : World) : Option (List (Nat × Nat)) :=
  if w.fab.nappr = 0 then some []
  else (s.devRead w.num w.fab.appr (64 * w.fab.nappr)).map fun l =>
    (entriesOf 64 l).map fun b => (leNat (b.take 1), leNat ((b.drop 16).take 48))

/-- The measurements match: every approved index is reported with an equal digest (R416). A table that cannot be read approves
nothing (log entry 24, DESIGN CHOICE). -/
def State.matching (s : State) (w : World) (report : List (Nat × Nat)) : Bool :=
  match s.approved w with
  | some l => l.all report.contains
  | none => false

/-- What a report of a switch makes of its lease at time `t` (R417, R418): without a match it is refused; a switch with a
lease whose report has changed loses it; else the lease is granted or goes on. -/
def State.judgeReport (s : State) (w : World) (swid t : Nat) (report : List (Nat × Nat)) : State :=
  let l := w.lease swid
  let s' := if !s.matching w report then s.endLease w swid t lsRefused 2
    else if l.st = lsLeased && decide (l.expiry > t) && l.report != report then s.endLease w swid t lsExpired 0
    else s.grantLease w swid t
  (s'.setLease w.num swid fun l => { l with report }).devTouch w.num w.fab.appr (64 * w.fab.nappr)

/-- LEASE_ATTESTATION (R416). The authority attests a switch and grants, extends or refuses a lease. -/
def execLeaseAttestation (world swid : Nat) (outcome : Attest) (now : Nat) (s : State) : Out :=
  match s.world world with
  | none => .next s
  | some w =>
    if !w.isAuthority then .next s
    else
      let s := s.clockTo now
      let t := s.plat.secClock
      let done := fun (s : State) => Host.Outcome.next (((s.disarm fun (e : Event) => e == .leaseBusyRetry world swid).timeLease
        world swid).tellLease world swid)
      match outcome with
      | .busy =>
        let s := s.arm (.leaseBusyRetry world swid)
        if (w.lease swid).st = lsNone then
          .next ((s.setLease world swid fun l => { l with st := lsAttesting }).tellLease world swid)
        else .next s
      | .report l => done (s.judgeReport w swid t l)
      | .badSignature => done (s.endLease w swid t lsRefused 1)
      | .noElement => done (s.endLease w swid t lsRefused 3)

/-- LEASE_RENEWAL_DUE (R417). A quarter of LEASEMS left starts re-attestation. -/
def execLeaseRenewalDue (world swid : Nat) (s : State) : Out :=
  match s.world world with
  | none => .next s
  | some w =>
    if !w.isAuthority then .next s
    else
      let l := w.lease swid
      let s := if l.st = lsLeased then s.clockTo (l.expiry - 250 * w.fab.leasems)
        else if l.st = lsNone then (s.setLease world swid fun l => { l with st := lsAttesting }).tellLease world swid
        else s
      .next (s.askSwitch world swid)

/-- LEASE_BUSY_RETRY (R417). A Busy switch is re-attested every 1 ms. -/
def execLeaseBusyRetry (world swid : Nat) (s : State) : Out :=
  match s.world world with
  | none => .next s
  | some w => .next (if w.isAuthority then s.askSwitch world swid else s)

/-- LEASE_EXPIRY (R418). A lease expires without renewal and becomes EXPIRED. -/
def execLeaseExpiry (world swid : Nat) (s : State) : Out :=
  match s.world world with
  | none => .next s
  | some w =>
    let l := w.lease swid
    if l.st ≠ lsLeased then .next s
    else .next ((((s.clockTo l.expiry).setLease world swid fun l => { l with st := lsExpired }).timeLease world swid).tellLease
      world swid)

/-- Instances on PATH 1 whose lease keys are gone meet transport failure (R418). -/
def State.dropPaths (s : State) (wn : Nat) (gone : List Nat) : State :=
  (s.entries.filter fun e => e.world == wn && e.leases.any gone.contains).foldl
    (fun s e => s.failEntry e.id stTimeout byTransport) s

/-- LEASE_KEY_GRACE_END (R418). At EXPIRY + 1 s packets under the lease key are dropped. -/
def execLeaseKeyGraceEnd (world swid : Nat) (s : State) : Out :=
  match s.world world with
  | none => .next s
  | some w =>
    let l := w.lease swid
    let kept := if l.st = lsLeased then l.keys.filter (· == l.leaseNo) else []
    let s := if l.st = lsLeased then s else s.clockTo (l.expiry + 1000000)
    .next ((s.setLease world swid fun l => { l with keys := kept }).dropPaths world (l.keys.filter fun k => !kept.contains k))

/-- LEASE_CHANGE_RECEIVE (R417). A rank receives a lease change and updates its mirror. -/
def execLeaseChangeReceive (world swid state reason leaseNo expiry authNow : Nat) (s : State) : Out :=
  let s := s.setLease world swid fun l => { l with
    st := state
    reason
    leaseNo
    expiry := s.plat.secClock + expiry - authNow - 1000
    keys := if state = lsLeased && !l.keys.contains leaseNo then l.keys ++ [leaseNo] else l.keys }
  .next (s.timeLease world swid)

end Sys2Proof.Machine
end

