-- ==== Sys2Proof/Machine/Worlds.lean ====
section
/-! DEFINITION. Worlds and their keys, and the authenticated command rings (R419 to R421, R425 to R428). -/

namespace Sys2Proof.Machine

/-! ## Latching a die (R419) -/

/-- A die with no block and no drip on it. -/
def State.dieIdle (s : State) (die : Nat) : Bool :=
  !(s.units.any fun u => u.die == die) && !(s.crews.any fun c => dieOf c.core == die)

/-- Registers, accumulators and planes, L1s and L2 of a die are zeroed (R419); scratchpads belong to the blocks, of which
there is none. The L2 gives up every line that it holds. -/
def State.zeroDie (s : State) (die : Nat) : State :=
  let n := (s.lines.filter fun l => l.agent die != .i).foldl (fun n l => (n.dropLine l.addr die).rest) s.net
  { s with
    quarters := s.quarters.filter fun p => dieOf (p.1 / 4) != die
    lines := n.lines
    flying := n.flying
    l1 := s.l1.filter fun x => dieOf x.1 != die
    vtags := s.vtags.filter fun x => dieOf x.1 != die }

/-- Measurement 7: the layout of the worlds (R415). -/
def State.measureLayout (s : State) : State :=
  s.measured 7 (Config.layoutDigest s.plat.dieWorld (s.worlds.map fun w => (w.num, w.regions)))

/-- The start of a device is complete (R435). -/
def State.booted (s : State) : Bool := s.plat.bootStep == 7 && !s.plat.bootFailed

/-- The layout has changed after the start. -/
def State.newLayout (s : State) : State := if s.booted then s.measureLayout else s

/-- WORLD_LATCH (R419). Firmware zeroes an idle die and latches a world into it. -/
def execWorldLatch (die world : Nat) (s : State) : Out :=
  if !s.dieIdle die then .next s
  else
    let s := s.zeroDie die
    .next (State.newLayout { s with plat := { s.plat with dieWorld := s.plat.dieWorld.set die world } })

/-! ## Creation and end of a world (R420, R421) -/

/-- A 1 GiB region on the stacks of a die that the world is latched into, assigned to no world yet and apart from what is
reserved for the network processor (R348, R372, R420). -/
def State.regionFree (s : State) (world r : Nat) : Bool :=
  decide (r < 1024) && s.plat.dieWorld.getD (r / 256) 0 == world && !(s.worlds.any fun w => w.regions.contains r) &&
    !s.inNpRegion (r * 2 ^ 30) (2 ^ 30)

/-- A block that an allocator may start with (R328): aligned to its size and at or above 2^48, in memory of the world's
regions. -/
def poolBlockOk (regions : List Nat) (b : Nat × Nat × Nat) : Bool :=
  decide (16 ≤ b.2.1) && decide (b.2.1 ≤ 36) && decide (2 ^ 48 ≤ b.1) && decide (b.1 + 2 ^ b.2.1 ≤ 2 ^ 56) &&
    b.1 % 2 ^ b.2.1 == 0 && b.2.2 % 2 ^ b.2.1 == 0 && ({ World.init 0 with regions } : World).ownsPA b.2.2 (2 ^ b.2.1)

/-- Two blocks have an address or a byte of memory in common. -/
def poolMeets (a b : Nat × Nat × Nat) : Bool :=
  (decide (a.1 < b.1 + 2 ^ b.2.1) && decide (b.1 < a.1 + 2 ^ a.2.1)) ||
    (decide (a.2.2 < b.2.2 + 2 ^ b.2.1) && decide (b.2.2 < a.2.2 + 2 ^ a.2.1))

/-- The blocks that the allocator of a world starts with. -/
def poolOf (world : Nat) (regions : List Nat) : List (Nat × Nat × Nat) :=
  (Config.allocPool world).foldl (fun l b => if poolBlockOk regions b && !(l.any (poolMeets b)) then l ++ [b] else l) []

/-- An S image lies in memory of its world's regions, from a 4 KiB boundary on (R304). -/
def imagePlaced (regions : List Nat) (pa len : Nat) : Bool :=
  pa % 4096 == 0 && (List.range ((len + 4095) / 4096)).all fun k => regions.contains ((pa + 4096 * k) / 2 ^ 30)

/-- A world as firmware and the enclave create it: a fresh memory key, its regions, its S image, an open job. -/
def newWorld (world job rank authRank : Nat) (regions : List Nat) (simagePa simageLen keygen : Nat) : World :=
  { World.init world with
    job
    keygen
    regions
    simage := ⟨simageLen, (List.range ((simageLen + 4095) / 4096)).map fun k => simagePa + 4096 * k⟩
    np := { NpPage.init with rank }
    fab := { FabPage.init with authrank := authRank }
    sysLog := 4 + Config.syscLog world % 9
    poolFree := poolOf world regions
    tables := Config.tablePool world }

/-- What a world is created from: its number, job, rank and authority rank, regions, and place and length of its S image. -/
def State.mayCreate (s : State) (world : Nat) (regions : List Nat) (simagePa simageLen : Nat) : Bool :=
  decide (1 ≤ world) && decide (world ≤ 15) && (s.world world).isNone && regions.all (s.regionFree world) &&
    imagePlaced regions simagePa simageLen

/-- A world is created with a fresh key, where it may be. -/
def State.createWorld (s : State) (world job rank authRank : Nat) (regions : List Nat) (simagePa simageLen : Nat) : State :=
  if !s.mayCreate world regions simagePa simageLen then s
  else
    let (keygen, s) := s.fresh
    { s with worlds := s.worlds ++ [newWorld world job rank authRank regions simagePa simageLen keygen] }

/-- WORLD_CREATE (R421). A world is created with a fresh key and opened job. -/
def execWorldCreate (world job rank authRank : Nat) (regions : List Nat) (simagePa simageLen : Nat) (s : State) : Out :=
  if !s.booted || !s.mayCreate world regions simagePa simageLen then .next s
  else .next (s.createWorld world job rank authRank regions simagePa simageLen).newLayout

/-- Bytes of a region of HBM (R420). -/
def regionBytes : Nat := 2 ^ 30

/-- A region whose key is destroyed reads, at every byte, as something that nothing determines (R421). -/
def scrambleRegion (i r : Nat) (m : Memory) : Memory :=
  (List.range regionBytes).foldl (fun m k => writeB m (r * regionBytes + k) (Config.scrambled i (r * regionBytes + k))) m

/-- The same of several regions; what was poisoned is so no more. -/
def State.scramble (s : State) (regions : List Nat) : State :=
  let (i, s) := s.free
  { s with
    mem := regions.foldl (fun m r => scrambleRegion i r m) s.mem
    poison := s.poison.filter fun g => !regions.contains (4 * g / regionBytes) }

/-- Everything of a world leaves the device. -/
def State.dropWorld (s : State) (wn : Nat) : State :=
  let mine := fun (uid : Nat) => s.crews.any fun c => c.uid == uid && c.world == wn
  let unit := fun (uid : Nat) => s.units.any fun u => u.uid == uid && u.world == wn
  let cmds := (s.mcmds.filter fun m => unit m.unit).map (·.id)
  let ids := (s.entries.filter fun e => e.world == wn).map (·.id)
  let job := (s.world wn).elim 0 (·.job)
  let alone := !(s.worlds.any fun w => w.num != wn && w.job == job)
  let s := s.quarters.foldl (fun s p => s.onQuarter p.1 fun x => { x with
    order := x.order.filter fun i => !cmds.contains i
    bins := x.bins.filter fun b => !mine b.crew }) s
  { s with
    worlds := s.worlds.filter (·.num != wn)
    crews := s.crews.filter (·.world != wn)
    units := s.units.filter (·.world != wn)
    launches := s.launches.filter (·.world != wn)
    graphs := s.graphs.filter (·.world != wn)
    entries := s.entries.filter (·.world != wn)
    mcmds := s.mcmds.filter fun m => !cmds.contains m.id
    landings := s.landings.filter fun l => !mine l.crew
    stores := s.stores.filter fun p => !mine p.crew
    recs := s.recs.filter fun r => match r.party with
      | .crew uid => !mine uid
      | .engine id => !ids.contains id
      | .matrix id => !cmds.contains id
      | .rv _ => true
    older := s.older.filter fun o => o.launch.1 != wn
    recWaits := s.recWaits.filter fun r => !mine r.crew
    scores := s.scores.filter fun x => !mine x.1
    throttled := s.throttled.filter fun u => !mine u
    swapped := s.swapped.filter fun u => !mine u
    groups := s.groups.filter fun g => !mine g.crew && g.world != wn
    bursts := s.bursts.filter fun b => !ids.contains b.entry
    gangs := s.gangs.filter (·.world != wn)
    reserved := s.reserved.filter (·.world != wn)
    services := s.services.filter (·.world != wn)
    roosts := s.roosts.filter (·.world != wn)
    seqs := s.seqs.filter fun q => !(s.roosts.any fun r => r.world == wn && r.id == q.id)
    faultq := s.faultq.filter fun p => p.1 / 4096 % 16 != wn
    frames := if alone then s.frames.filter fun p => p.2.job != job else s.frames
    dir := if alone then s.dir.filter fun d => d.job != job else s.dir
    owned := if alone then s.owned.filter fun o => o.job != job else s.owned }

/-- WORLD_TEARDOWN (R421). A world is torn down and its key destroyed. -/
def execWorldTeardown (world : Nat) (s : State) : Out :=
  match s.world world with
  | none => .next s
  | some w => .next ((s.dropWorld world).scramble w.regions).newLayout

/-! ## Command rings (R425 to R428) -/

/-- LASTSTAT values (R425). -/
def rsAccepted : Nat := 1
def rsReplay : Nat := 2
def rsBadTag : Nat := 3
def rsSkip : Nat := 4
def rsRekey : Nat := 5
def rsBadOp : Nat := 6
def rsQueueFull : Nat := 7

def World.ring (w : World) (i : Nat) : CmdRing := tabGet w.rings CmdRing.init i

/-- OP 1 (R426): the entry is written into the queue's ring and TAIL advances, as a kick. -/
def State.ringQueue (s : State) (wn q : Nat) (entry : List Byte) : State × Nat :=
  match s.world wn with
  | none => (s, rsBadOp)
  | some w =>
    let k := w.kickPage q
    if (k.tail + 1 - k.head).toNat > 2 ^ k.logDepth then (s, rsQueueFull)
    else (((s.devWrite wn (k.ring + 8 * (k.tail.toNat % 2 ^ k.logDepth)) entry).1).kickTail wn q (k.tail + 1), rsAccepted)

/-- OP 2 (R426): a CTRL value. -/
def State.ringCtrl (s : State) (wn v : Nat) : State :=
  match v with
  | 1 => s.resumeJob wn
  | 2 => s.cancelJob wn
  | 3 => s.closeJob wn
  | _ => s

/-- An accepted entry is performed (R426). -/
def State.ringPerform (s : State) (wn : Nat) (b : List Byte) : State × Nat :=
  let op := natAt b 2
  let rest := fun (from_ : Nat) => (List.range (12 - from_)).all fun k => natAt b (from_ + k) = 0
  if natAt b 3 ≠ 0 then (s, rsBadOp)
  else if op = 1 then
    if natAt b 6 ≥ 64 || !rest 7 then (s, rsBadOp) else s.ringQueue wn (natAt b 6) ((b.drop 16).take 8)
  else if op = 2 then
    if natAt b 4 ≥ 4 || !rest 5 then (s, rsBadOp) else (s.ringCtrl wn (natAt b 4), rsAccepted)
  else (s, rsBadOp)

/-- The tag of an entry verifies under the ring's key (R426). -/
def State.tagOk (w : World) (ring : Nat) (r : CmdRing) (b : List Byte) : Bool :=
  leNat ((b.drop 48).take 16) == (Config.gmac w.num w.keygen ring r.keygen.toNat (b.take 48)).toNat

/-- RING_HALT: interrupt code 5 with the ring, LASTSTAT and EXPSEQ (R338, R427). -/
def State.ringHalt (s : State) (wn ring stat expseq : Nat) : State :=
  s.interrupt wn 5 0 [ring, stat, expseq % 2 ^ 32, expseq / 2 ^ 32]

/-- One slot of a ring (R427). A slot that cannot be read is one whose tag fails. -/
def State.ringSlot (s : State) (w : World) (ring : Nat) (r : CmdRing) : State :=
  let b := (s.devRead w.num (r.rbase + 64 * (r.head.toNat % 2 ^ r.rlog)) 64).getD []
  let s := s.devTouch w.num (r.rbase + 64 * (r.head.toNat % 2 ^ r.rlog)) 64
  let seq := nat64At b 0
  let set := fun (s : State) (f : CmdRing → CmdRing) => s.onRing w.num ring f
  if b.isEmpty || !State.tagOk w ring r b then
    set s fun r => { r with
      lastseq := seq
      laststat := rsBadTag
      badtags := r.badtags + 1
      head := r.head + 1 }
  else if seq < r.expseq then
    set s fun r => { r with
      lastseq := seq
      laststat := rsReplay
      replays := r.replays + 1
      head := r.head + 1 }
  else if seq > r.expseq then
    (set s fun r => { r with
      lastseq := seq
      laststat := rsSkip
      st := .haltedSkip }).ringHalt w.num ring rsSkip r.expseq
  else
    let (s, stat) := s.ringPerform w.num b
    let full : Bool := r.expseq + 1 = 2 ^ 48
    let s := set s fun r => { r with
      lastseq := seq
      laststat := if full then rsRekey else stat
      expseq := r.expseq + 1
      head := r.head + 1
      st := if full then .haltedRekey else r.st }
    if full then s.ringHalt w.num ring rsRekey (r.expseq + 1) else s

/-- The ring's engine looks at the ring again. -/
def State.ringWake (s : State) (wn ring : Nat) : State :=
  match s.world wn with
  | none => s
  | some w =>
    let r := w.ring ring
    if r.st = .running && r.head != r.tail then s.arm (.ringDoorbell wn ring r.tail) else s

/-- RING_DOORBELL (R427). TAIL write lets the ring engine process slots in order. -/
def execRingDoorbell (world ring : Nat) (tail : Word) (s : State) : Out :=
  match s.world world with
  | none => .next s
  | some _ =>
    let s := s.onRing world ring fun r => { r with tail }
    match s.world world with
    | none => .next s
    | some w =>
      let r := w.ring ring
      if r.st = .running && r.head != r.tail then .next ((s.ringSlot w ring r).ringWake world ring) else .next s

/-- The key of a ring goes to its writer over an SPDM secured session (R426). Which session is the writer's is not stated: any
open one is (log entry 24, DESIGN CHOICE). -/
def State.giveRingKey (s : State) (wn ring : Nat) : State :=
  match s.world wn with
  | some w => if s.plat.sessions.isEmpty then s else s.send (.ringKey wn ring (w.ring ring).keygen)
  | none => s

/-- RCMD 1: a DISABLED ring runs, EXPSEQ unchanged. The writer receives its key then (log entry 24, DESIGN CHOICE). -/
def State.ringEnable (s : State) (wn ring : Nat) : State :=
  ((s.onRing wn ring fun r => { r with st := if r.st = .disabled then .running else r.st }).giveRingKey wn ring).ringWake wn ring

/-- RCMD 2: a ring halted by a gap resumes at RSEQ. -/
def State.ringResume (s : State) (wn ring : Nat) : State :=
  (s.onRing wn ring fun r =>
    if r.st = .haltedSkip && decide (r.expseq ≤ r.rseq) && decide (r.rseq < 2 ^ 48) then { r with
      expseq := r.rseq
      st := .running }
    else r).ringWake wn ring

/-- RCMD 3. -/
def State.ringDisable (s : State) (wn ring : Nat) : State := s.onRing wn ring fun r => { r with st := .disabled }

/-- RCMD_ENABLE (R428). RCMD 1 enables a disabled ring. -/
def execRcmdEnable (world ring : Nat) (s : State) : Out := .next (s.ringEnable world ring)

/-- RCMD_RESUME (R428). RCMD 2 resumes a halted ring at RSEQ. -/
def execRcmdResume (world ring : Nat) (s : State) : Out := .next (s.ringResume world ring)

/-- RCMD_DISABLE (R428). RCMD 3 disables a ring. -/
def execRcmdDisable (world ring : Nat) (s : State) : Out := .next (s.ringDisable world ring)

/-- RING_REKEY (R426). Writer-requested rekey increments KEYGEN and resets EXPSEQ; the request comes over an open secured
session. -/
def execRingRekey (world ring : Nat) (s : State) : Out :=
  if s.plat.sessions.isEmpty then .next s
  else .next (((s.onRing world ring fun r => { r with
    keygen := r.keygen + 1
    expseq := 0
    st := .running }).giveRingKey world ring).ringWake world ring)

end Sys2Proof.Machine
end

