-- ==== Sys2Proof/Machine/Housekeeping.lean ====
section
/-! DEFINITION. Samples, the halt of a crew, start, reset, power and heat (R429 to R435, R439, R440). -/

namespace Sys2Proof.Machine

/-! ## Samples (R430) -/

/-- The producer of the lowest-indexed register pending for a set: registers of its threads, then the crew's. -/
def producer (c : Crew) (ts : List Thread) : Word :=
  let pends := ts.flatMap fun t => t.pendX.filterMap fun p => p.2.map fun pc => (p.1, pc)
  match pickBy (fun (x y : Nat × Word) => decide (x.1 < y.1)) pends with
  | some p => p.2
  | none => ((c.pendS ++ c.pendQ).findSome? fun p => p.2).getD 0

/-- The instruction a thread stands at, its prefix passed over. -/
def State.wordOf (s : State) (c : Crew) (t : Thread) : Word :=
  let im := s.imageOf c t
  let w := (s.fetchWord im t.pc.toNat).getD 0
  if w.extractLsb' 25 7 = 0x3E#7 then (s.fetchWord im (t.pc.toNat + 4)).getD 0 else w

/-- An engine command whose queue is full (R255). -/
def State.queueStall (s : State) (c : Crew) (w : Word) : Bool :=
  let m := (w.extractLsb' 25 6).toNat
  let ch := s.chan c (w.extractLsb' 14 6).toNat
  decide (48 ≤ m) && decide (m ≤ 54) && ch.valid && match s.unit c.unit with
    | some u => s.queueFull u.uid (queueKey (u.relCore c) ch.qid) ch.qid
    | none => false

/-- KIND, REASON and PC2 of a sample of a set that may issue, by one of its threads. What timing alone decides is a free
value. -/
def State.sampleOf (s : State) (c : Crew) (t : Thread) (ts : List Thread) (free : Nat) : Nat × Nat × Word :=
  let w := s.wordOf c t
  if w.getLsbD 31 && !(ts.all fun u => pendClear c u (if collectiveWord w then some t.pc else none)) then (2, 1, producer c ts)
  else if s.throttled.contains c.uid && throttledWord w then (2, 3, 0)
  else if s.queueStall c w then (2, 4, 0)
  else match Config.sampled free with
    | 0 => (1, 0, 0)
    | 2 => (2, 2, 0)
    | 6 => (2, 6, 0)
    | _ => (2, 7, 0)

def Thread.isBlocked (t : Thread) : Bool :=
  match t.st with
  | .blocked .. => true
  | _ => false

/-- The threads of a crew that a sample may show: those of each set that may issue, and Blocked ones that wait together.
Parked and Exited threads are not sampled. -/
def Crew.sampled (c : Crew) : List (List Thread) :=
  let may := fun t => c.threadMayIssue t || t.isBlocked
  let nums := c.threads.foldl (fun l t => if may t && !l.contains t.set then l ++ [t.set] else l) []
  nums.map fun k => c.threads.filter fun t => may t && t.set == k

/-- Writes one sample of a crew: of the oldest of its issuable or waiting sets. The model keeps no age of a set: which one is
the oldest is a free value (log entry 24, DESIGN CHOICE). Blocked threads wait on the record of the last command when their
monitor is armed. -/
def State.sample (s : State) (c : Crew) : State :=
  let blk := match s.unit c.unit with
    | some u => u.block
    | none => 0
  let put := fun (s : State) (kind reason : Nat) (pc pc2 seq : Word) (qid : Nat) =>
    s.putSample c.world (sampleWords c.core c.idx c.quarter kind reason pc pc2 seq c.launch blk qid s.plat.devtime)
  let (i, s) := s.free
  let chosen := match c.sampled with
    | [ts] => ts
    | l => l.getD (Config.oldestSet i % l.length) []
  match chosen with
  | [] => s
  | t :: _ =>
    if t.isBlocked then
      if t.st matches .blocked .monitor _ then put s 2 5 t.pc c.lastCmd.1 c.lastCmd.2.1 c.lastCmd.2.2
      else put s 2 5 t.pc 0 0 0
    else
      let (kind, reason, pc2) := s.sampleOf c t chosen i
      put s kind reason t.pc pc2 0 0

/-- SAMPLE_TICK (R430). Every SAMPPER clk a quarter writes an issue or stall sample. -/
def execSampleTick (qtr crew : Nat) (s : State) : Out :=
  match s.crew crew with
  | none => .next (s.armSampler qtr crew)
  | some c =>
    let on := match s.world c.world with
      | some w => w.dbg.sampper != 0
      | none => false
    if quarterNo c.core c.quarter ≠ qtr || !on then .next (s.armSampler qtr crew)
    else .next ((s.sample c).armSampler qtr crew)

/-! ## The halt of a crew (R432, R433) -/

/-- The crew that CREWSEL names. -/
def State.selected (s : State) (w : World) : Option Crew :=
  s.crews.find? fun c => c.world == w.num && c.drip.isNone && c.core == w.dbg.crewsel / 32 &&
    c.quarter == w.dbg.crewsel / 8 % 4 && c.slot == w.dbg.crewsel % 8

/-- DCMD 1. -/
def State.haltCrew (s : State) (uid : Nat) : State :=
  (s.onCrew uid fun c => { c with halt := if c.halt = .running then .halting else c.halt }).haltCheck uid

/-- DCMD 2: a window base that breaks R53 raises ILL, reason OPERAND, in its thread. -/
def State.resumeCrew (s : State) (uid : Nat) : State :=
  (s.onCrew uid fun c =>
    let c : Crew := { c with halt := .running }
    c.onThreads (fun t => t.live && decide (t.wb + 16 > c.nregs)) fun t => t.raise (illTrap none 0 .operand)).settle uid

/-- DCMD 3. -/
def State.stepCrew (s : State) (uid : Nat) : State :=
  s.onCrew uid fun c => { c with halt := if c.halt = .halted then .stepping else c.halt }

/-- A command of the debug window on the crew it selects; none, no effect. -/
def State.dcmd (s : State) (wn : Nat) (f : State → Nat → State) : State :=
  match (s.world wn).bind s.selected with
  | some c => f s c.uid
  | none => s

/-- DCMD_HALT (R433). DCMD 1 halts the selected crew at instruction boundaries. -/
def execDcmdHalt (world : Nat) (s : State) : Out := .next (s.dcmd world State.haltCrew)

/-- DCMD_RESUME (R433). DCMD 2 ends the halt. -/
def execDcmdResume (world : Nat) (s : State) : Out := .next (s.dcmd world State.resumeCrew)

/-- DCMD_STEP (R433). DCMD 3 lets one issue set perform one instruction. -/
def execDcmdStep (world : Nat) (s : State) : Out := .next (s.dcmd world State.stepCrew)

/-! ## Start (R435) -/

/-- Records the measurement of a component at the start: that of the image that it runs. -/
def State.measureBoot (s : State) (c : Nat) : State :=
  s.measured c (if tabGet s.plat.images 0 c = 0 then Config.digest c else tabGet s.plat.images 0 c)

/-- The start stops at a step that fails: measurement 7 is zeros. -/
def State.bootFail (s : State) (n : Nat) : State :=
  State.measured { s with plat := { s.plat with
    bootStep := n
    bootFailed := true } } 7 0

/-- What FCFRAMES may be (R17, R357, R358): a multiple of 16 of at most 12,582,912, its frames and tags in local HBM. -/
def fcframesOk (fcframes fcbase : Nat) : Bool :=
  fcframes % 16 == 0 && decide (fcframes ≤ 12582912) && decide ((fcbase + fcframes) * pageBytes + 16 * fcframes ≤ hbmTop)

/-- What firmware sets in step 5: the frame cache and its way limit, 2 to 16 (R357, R398), the worlds of the dies (R419) and the
use of the PCIe lanes (R1); its M image is in place (R304). There is no frame cache where FCFRAMES is no number that it may
be. -/
def State.bootFrames (s : State) (fcframes fcbase wayl : Nat) (dies : List Nat) (cxl : List Bool) : State :=
  { s with
    mimage := ⟨Config.mImageLen, Config.mImagePages⟩
    plat := { s.plat with
      fcframes := if fcframesOk fcframes fcbase then fcframes else 0
      fcbase
      cxl := (List.range 2).map fun i => cxl.getD i false
      dieWorld := (List.range 4).map fun d => dies.getD d 0 % 16
      wayl := if 2 ≤ wayl && wayl ≤ 16 then wayl else 16 } }

/-- A step of the start. -/
def State.bootAct (s : State) (fcframes fcbase wayl : Nat) (dies : List Nat) (worlds : List WorldSpec) (cxl : List Bool)
    (n : Nat) : State :=
  match n with
  | 1 => (s.measureBoot 1).measureBoot 2
  | 2 => (s.measureBoot 6).measureBoot 3
  | 3 => s.measureBoot 4
  | 4 => s.measureBoot 5
  | 5 => (s.bootFrames fcframes fcbase wayl dies cxl).measured 7
      (Config.layoutDigest ((List.range 4).map fun d => dies.getD d 0 % 16) (worlds.map fun w => (w.world, w.regions)))
  | 6 => (worlds.foldl (fun s w => s.createWorld w.world w.job w.rank w.authRank w.regions w.simagePa w.simageLen) s).measureLayout
  | _ => s

/-- POWER_ON (R435). Power-on runs the secure boot sequence; `failed` is the step that fails, if one does. Worlds come to be
in step 6, with their keys. -/
def execPowerOn (failed fcframes fcbase wayl : Nat) (dies : List Nat) (worlds : List WorldSpec) (cxl : List Bool) (s : State) : Out :=
  if s.plat.bootStep ≠ 0 then .next s
  else
    let s := s.clockTo (s.plat.secClock + 1)
    let last := if 1 ≤ failed && failed ≤ 7 then failed - 1 else 7
    let s := ((List.range last).map (· + 1)).foldl (fun s n => s.bootAct fcframes fcbase wayl dies worlds cxl n) s
    if last = 7 then .next { s with plat := { s.plat with bootStep := 7 } } else .next (s.bootFail failed)

/-! ## Reset and loss of power (R397, R410, R411, R416) -/

/-- The device as it starts again: the enclave's stored state and clock, device time and the ports stay; the model's own
counters go on. -/
def State.restart (s : State) (mem : Memory) (secClock : Nat) (measures : Tab Nat) : State :=
  { State.reset with
    sched := s.sched
    outbox := s.outbox
    nextId := s.nextId
    freeCtr := s.freeCtr
    mem
    plat := { Platform.init with
      secClock
      measures
      images := s.plat.images
      hot := s.plat.hot
      portsUp := s.plat.portsUp
      devtime := s.plat.devtime
      hssUsed := s.plat.hssUsed
      versions := s.plat.versions
      minSvn := s.plat.minSvn } }

/-- DEVICE_RESET (R397). Firmware resets the device, which releases a hold on dispatch and roost timers left by a restore that failed in its writing pass. -/
def execDeviceReset  (s : State) : Out :=
  let s := s.scramble (List.range 1024)
  .next (s.restart s.mem s.plat.secClock s.plat.measures)

/-- POWER_LOSS (R416). Power is lost; the secure clock must restart above every value it has reported. -/
def execPowerLoss  (s : State) : Out := .next (s.restart [] (s.plat.secClock + 1) [])

/-! ## Power states and heat (R439, R440) -/

/-- POWER_STATE_CHANGE (R439). Firmware changes all compute dies' power state. -/
def execPowerStateChange (pstate : Nat) (s : State) : Out :=
  if pstate > 3 || (s.plat.thermal && pstate < s.plat.pstate) then .next s
  else .next { s with plat := { s.plat with pstate } }

/-- THERMAL_THRESHOLD (R440). A junction temperature crossing steps the power state: `reading` is the junction and its °C. A
state lowered by heat is raised again only once every junction is below 95 °C. -/
def execThermalThreshold (reading : Nat × Nat) (s : State) : Out :=
  let (junction, celsius) := reading
  let hot := (s.plat.hot.filter (· != junction)) ++ if celsius ≥ 95 then [junction] else []
  .next { s with plat := { s.plat with
    pstate := if celsius ≥ 115 then 3 else if celsius ≥ 105 && s.plat.pstate < 3 then s.plat.pstate + 1 else s.plat.pstate
    hot
    thermal := decide (celsius ≥ 105) || (s.plat.thermal && !hot.isEmpty) } }

end Sys2Proof.Machine
end

