-- ==== Sys2Proof/Machine/Registers.lean ====
section
/-! DEFINITION. The device register pages: what each word of a page reads as, and what a write of it does (R8, R331, R338,
R352, R388, R396, R406, R425, R432, R437, R441). -/

namespace Sys2Proof.Machine

/-! ## Words of wider fields -/

/-- The low and the high word of a 64-bit field. -/
def loW (n : Nat) : Word := BitVec.ofNat 32 n
def hiW (n : Nat) : Word := BitVec.ofNat 32 (n / 2 ^ 32)

/-- A field with one word replaced. -/
def setLo (n : Nat) (v : Word) : Nat := n / 2 ^ 32 * 2 ^ 32 + v.toNat
def setHi (n : Nat) (v : Word) : Nat := v.toNat * 2 ^ 32 + n % 2 ^ 32

/-- The bits of a field stated as a multiple of `m` (R441). -/
def multOf (m n : Nat) : Nat := n / m * m

/-- The low word of such a field written. -/
def setLoM (m n : Nat) (v : Word) : Nat := multOf m (setLo n v)

/-- A launch of a world is RUNNING or CANCELLING. -/
def State.worldRuns (s : State) (wn : Nat) : Bool :=
  s.launches.any fun l => l.world == wn && (l.state = .running || l.state = .cancelling)

/-! ## Tags and entries as words (R356, R373) -/

def FqState.num : FqState → Nat
  | .free => 0
  | .posted => 1
  | .inService => 2
  | .woken => 3
  | .declined => 4
  | .withdrawn => 5

def RingSt.num : RingSt → Nat
  | .disabled => 0
  | .running => 1
  | .haltedSkip => 2
  | .haltedRekey => 3

/-- A fault-queue entry as a number of 256 bits. -/
def FqEntry.num (f : FqEntry) : Nat :=
  f.st.num + 2 ^ 15 * boolN f.write + 2 ^ 16 * f.kind + 2 ^ 28 * f.slot + 2 ^ 38 * f.quarter + 2 ^ 40 * f.core +
    2 ^ 48 * f.qid + 2 ^ 56 * f.nthr + 2 ^ 64 * f.eseq.toNat + 2 ^ 96 * f.gen.toNat + 2 ^ 128 * f.fseq.toNat +
    2 ^ 160 * f.pc.toNat + 2 ^ 192 * f.page + 2 ^ 232 * f.job

/-- Word `i` of a number. -/
def numWord (n i : Nat) : Word := BitVec.ofNat 32 (n / 2 ^ (32 * i))

/-! ## Reads -/

/-- The translation control page (R352). -/
def transRead (s : State) (w : World) (off : Nat) : Word :=
  let p := w.trans
  match off with
  | 0x00 => loW p.root
  | 0x04 => hiW p.root
  | 0x08 => BitVec.ofNat 32 w.job
  | 0x10 => loW p.iva
  | 0x14 => hiW p.iva
  | 0x18 => p.ilen
  | 0x20 => p.ireqcnt
  | 0x24 => p.idone
  | 0x28 => p.walkerr
  | 0x30 => lo32 p.werrva
  | 0x34 => hi32 p.werrva
  | 0x38 => BitVec.ofNat 32 s.plat.fcframes
  | 0x3C => BitVec.ofNat 32 s.plat.fcbase
  | _ => 0

/-- A kick page (R331). -/
def kickRead (k : KickPage) (off : Nat) : Word :=
  match off with
  | 0x00 => loW k.ring
  | 0x04 => hiW k.ring
  | 0x08 => BitVec.ofNat 32 (boolN k.enable * 256 + k.prio * 16 + k.logDepth)
  | 0x0C => k.tail
  | 0x10 => k.head
  | 0x14 => BitVec.ofNat 32 (k.code * 256 + boolN k.err)
  | 0x18 => k.live
  | _ => 0

/-- The world control page (R338). -/
def ctlRead (p : CtlPage) (off : Nat) : Word :=
  match off with
  | 0x00 => loW p.intq
  | 0x04 => hiW p.intq
  | 0x08 => BitVec.ofNat 32 p.intlog
  | 0x0C => p.inthead
  | 0x10 => p.inttail
  | 0x14 => p.intlost
  | 0x18 => p.syscerr
  | 0x1C => p.phase
  | 0x20 => BitVec.ofNat 32 p.pstate.code
  | 0x24 => p.pcount
  | 0x28 => BitVec.ofNat 32 p.jstate.code
  | 0x2C => p.jcount
  | 0x38 => loW p.savebase
  | 0x3C => hiW p.savebase
  | 0x40 => BitVec.ofNat 32 p.savelog
  | 0x44 => BitVec.ofNat 32 p.saveslots
  | 0x48 => BitVec.ofNat 32 (p.saveslots - p.slotsUsed.length)
  | 0x50 => lo32 p.claimimg
  | 0x54 => hi32 p.claimimg
  | 0x5C => BitVec.ofNat 32 p.claimstat
  | _ => 0

/-- The NP world page (R388). -/
def npRead (p : NpPage) (off : Nat) : Word :=
  match off with
  | 0x00 => loW p.dfq
  | 0x04 => hiW p.dfq
  | 0x08 => BitVec.ofNat 32 p.dflog
  | 0x0C => p.dfhead
  | 0x10 => p.dftail
  | 0x14 => p.dflost
  | 0x18 => BitVec.ofNat 32 p.nshards
  | 0x20 => loW p.shmap
  | 0x24 => hiW p.shmap
  | 0x28 => BitVec.ofNat 32 p.rank
  | 0x30 => loW p.cname
  | 0x34 => hiW p.cname
  | 0x38 => loW p.carg
  | 0x3C => hiW p.carg
  | 0x44 => BitVec.ofNat 32 (boolN p.busy * 2 ^ 31 + p.cstat)
  | 0x50 => BitVec.ofNat 32 (boolN p.pcmode)
  | 0x58 => loW p.pctab
  | 0x5C => hiW p.pctab
  | 0x60 => BitVec.ofNat 32 p.pclog
  | _ => 0

/-- The fabric world page (R406). -/
def fabRead (p : FabPage) (off : Nat) : Word :=
  match off with
  | 0x00 => loW p.wintab
  | 0x04 => hiW p.wintab
  | 0x08 => BitVec.ofNat 32 p.nwin
  | 0x10 => loW p.grptab
  | 0x14 => hiW p.grptab
  | 0x18 => BitVec.ofNat 32 p.ngrp
  | 0x20 => loW p.leasetab
  | 0x24 => hiW p.leasetab
  | 0x28 => BitVec.ofNat 32 p.leases.length
  | 0x2C => BitVec.ofNat 32 p.authrank
  | 0x30 => p.badpkt
  | 0x34 => p.modedrop
  | 0x40 => loW p.appr
  | 0x44 => hiW p.appr
  | 0x48 => BitVec.ofNat 32 p.nappr
  | 0x4C => BitVec.ofNat 32 p.leasems
  | _ => 0

/-- The prefetch page: sixteen streams of 32 bytes (R437). -/
def streamRead (w : World) (off : Nat) : Word :=
  let p := tabGet w.streams Stream.init (off / 32)
  if off ≥ 512 then 0
  else match off % 32 with
    | 0 => loW p.extlist
    | 4 => hiW p.extlist
    | 8 => BitVec.ofNat 32 (p.ahead * 65536 + p.nextCnt)
    | 16 => loW p.ctr
    | 20 => hiW p.ctr
    | 24 => p.pfdone
    | 28 => BitVec.ofNat 32 p.pfstat
    | _ => 0

/-- The control page of a command ring (R425). -/
def ringRead (r : CmdRing) (off : Nat) : Word :=
  match off with
  | 0x00 => loW r.rbase
  | 0x04 => hiW r.rbase
  | 0x08 => BitVec.ofNat 32 r.rlog
  | 0x0C => r.tail
  | 0x10 => r.head
  | 0x18 => loW r.expseq
  | 0x1C => hiW r.expseq
  | 0x20 => BitVec.ofNat 32 r.st.num
  | 0x24 => BitVec.ofNat 32 r.laststat
  | 0x28 => loW r.lastseq
  | 0x2C => hiW r.lastseq
  | 0x30 => r.replays
  | 0x34 => r.badtags
  | 0x38 => r.keygen
  | 0x40 => loW r.rseq
  | 0x44 => hiW r.rseq
  | _ => 0

/-- The checkpoint control page (R396). -/
def ckRead (c : Ckpt) (off : Nat) : Word :=
  match off with
  | 0x00 => BitVec.ofNat 32 (c.port * 4 + c.tgt)
  | 0x08 => loW c.srv
  | 0x0C => hiW c.srv
  | 0x10 => loW c.obj
  | 0x14 => hiW c.obj
  | 0x1C => BitVec.ofNat 32 c.stat
  | 0x20 => loW c.bytes
  | 0x24 => hiW c.bytes
  | 0x28 => BitVec.ofNat 32 c.err
  | _ => 0

/-- A lane's record in the debug window, in the layout of R319: STATE and PC are those of R315; it has no engine section, so
HANDLE is none. -/
def trecWord (t : Thread) (i : Nat) : Word :=
  match i with
  | 0 => t.outOf.2
  | 1 => BitVec.ofNat 32 (t.outOf.1 + 2 ^ 8 * (t.wb / 16) + 2 ^ 16 * t.preds.toNat + 2 ^ 24 * t.aflg.toNat)
  | 2 => t.dthi
  | _ => 0xFFFFFFFF

/-- Offsets of XREG, SREG, TREC and QPRED (R432). -/
def inCrewRegs (off : Nat) : Bool :=
  (decide (0x100000 ≤ off) && decide (off < 0x120000)) || (decide (0x130000 ≤ off) && decide (off ≤ 0x130C00))

/-- Registers of the selected crew, from offset 0x10_0000 on; any crew that is not HALTED reads all ones (R433). -/
def crewRead (c : Option Crew) (off : Nat) : Word :=
  match c with
  | none => 0xFFFFFFFF
  | some c =>
    if !c.halt.isHalted then 0xFFFFFFFF
    else if off < 0x130000 then
      let i := (off - 0x100000) / 512
      match c.thread (off % 512 / 4) with
      | some t => if i < c.nregs then t.getX i else 0
      | none => 0
    else if off < 0x130400 then
      let j := (off - 0x130000) / 4
      if j < c.nuregs then c.getS j else 0
    else if off < 0x130C00 then
      match c.thread ((off - 0x130400) / 16) with
      | some t => trecWord t (off % 16 / 4)
      | none => 0
    else c.qpreds.setWidth 32

/-- DSTAT (R432): `me` is the accessing crew. -/
def dstat (c : Option Crew) (me : Option Nat) : Nat :=
  match c with
  | none => 3
  | some c =>
    if me = some c.uid then 4
    else match c.halt with
      | .running => 0
      | .halting => 1
      | .halted | .stepping | .stepped _ => 2

/-- The debug window (R432). -/
def dbgRead (s : State) (w : World) (off : Nat) (me : Option Nat) : Word :=
  let p := w.dbg
  let c := s.selected w
  let watch := p.watches.getD ((off - 0x20) / 16) ⟨0, 0, 0⟩
  if 0x20 ≤ off && off < 0x60 then
    match off % 16 with
    | 0 => loW watch.addr
    | 4 => hiW watch.addr
    | 8 => BitVec.ofNat 32 watch.len
    | _ => BitVec.ofNat 32 watch.ctl
  else if 0x110 ≤ off && off < 0x120 then numWord (s.frame p.ftagsel).tag ((off - 0x110) / 4)
  else if 0x130 ≤ off && off < 0x150 then
    numWord (tabGet s.faultq FqEntry.init (faultKey (p.fqsel / 4096) w.num (p.fqsel % 4096))).num ((off - 0x130) / 4)
  else if inCrewRegs off then crewRead c off
  else match off with
    | 0x00 => BitVec.ofNat 32 p.crewsel
    | 0x08 => BitVec.ofNat 32 (dstat c me)
    | 0x0C => c.elim 0 (·.launch)
    | 0x80 => loW p.sampbase
    | 0x84 => hiW p.sampbase
    | 0x88 => BitVec.ofNat 32 p.samplog
    | 0x8C => p.sampper
    | 0x90 => p.samphead
    | 0x94 => p.samptail
    | 0x98 => p.samplost
    | 0x9C => BitVec.ofNat 32 p.trace
    | 0x100 => BitVec.ofNat 32 p.ftagsel
    | 0x120 => BitVec.ofNat 32 p.fqsel
    | _ => 0

/-- Words of a channel entry (R65). -/
def Chan.word (c : Chan) (i : Nat) : Word :=
  match i with
  | 0 => BitVec.ofNat 32 (c.kind * 2 ^ 28 + boolN c.permR * 2 ^ 27 + boolN c.permW * 2 ^ 26 + boolN c.permA * 2 ^ 25 +
      boolN c.permH * 2 ^ 24 + boolN c.permRouse * 2 ^ 23)
  | 1 => BitVec.ofNat 32 c.allow
  | 2 => lo32 c.endpoint
  | _ => hi32 c.endpoint

/-- A word of a channel entry written: bits [22:0] of the first stay 0. -/
def Chan.setWord (c : Chan) (i : Nat) (v : Word) : Chan :=
  match i with
  | 0 => { c with
      kind := fieldN v.toNat 28 4
      permR := v.getLsbD 27
      permW := v.getLsbD 26
      permA := v.getLsbD 25
      permH := v.getLsbD 24
      permRouse := v.getLsbD 23 }
  | 1 => { c with allow := v.toNat }
  | 2 => { c with endpoint := c.endpoint >>> 32 <<< 32 ||| v.setWidth 64 }
  | _ => { c with endpoint := v.setWidth 64 <<< 32 ||| (lo32 c.endpoint).setWidth 64 }

/-- The channel table of a launch as S and M mode read it: entries that the descriptor did not supply are at reset. -/
def State.chanRead (s : State) (wn : Nat) (h : Word) (off : Nat) : Word :=
  match s.launch wn h with
  | some l => if off < 1024 then (l.desc.chans.getD (off / 16) Chan.reset).word (off % 16 / 4) else 0
  | none => 0

/-- A write of an entry by S or M mode: commands that issue after it are checked under it, and those issued keep what they
took from the entry (R67). -/
def State.chanWrite (s : State) (wn : Nat) (h : Word) (off : Nat) (v : Word) : State :=
  if off ≥ 1024 then s
  else s.onLaunch wn h fun l => { l with desc := { l.desc with
    chans := (List.range 64).map fun k =>
      let c := l.desc.chans.getD k Chan.reset
      if k = off / 16 then c.setWord (off % 16 / 4) v else c } }

/-- The world a page belongs to. -/
def pageWorld : PageRef → Nat
  | .trans w | .kick w _ | .control w | .np w | .fabric w | .prefetch w | .channels w _ | .ring w _ | .debug w => w
  | .checkpoint => 0

/-- A word of a register page. A page of a world that does not exist reads 0. -/
def State.regRead (s : State) (p : PageRef) (off : Nat) (me : Option Nat) : Word :=
  match p with
  | .checkpoint => ckRead s.ckpt off
  | _ =>
    match s.world (pageWorld p) with
    | none => 0
    | some w =>
      match p with
      | .trans _ => transRead s w off
      | .kick _ q => kickRead (w.kickPage q) off
      | .control _ => ctlRead w.ctl off
      | .np _ => npRead w.np off
      | .fabric _ => fabRead w.fab off
      | .prefetch _ => streamRead w off
      | .channels wn h => s.chanRead wn h off
      | .ring _ r => ringRead (w.ring r) off
      | .debug _ => dbgRead s w off me
      | .checkpoint => 0

/-! ## Writes -/

def transWrite (s : State) (w : World) (off : Nat) (v : Word) : State :=
  let put := fun (f : TransPage → TransPage) => s.onWorld w.num fun w => { w with trans := f w.trans }
  match off with
  | 0x00 => if s.worldRuns w.num then s else put fun p => { p with root := setLoM 16384 p.root v }
  | 0x04 => if s.worldRuns w.num then s else put fun p => { p with root := setHi p.root (v &&& 0xFFFF) }
  | 0x10 => put fun p => { p with iva := setLoM pageBytes p.iva v }
  | 0x14 => put fun p => { p with iva := setHi p.iva (v &&& 0xFFFFFF) }
  | 0x18 => put fun p => { p with ilen := v }
  | 0x1C => s.queueInval w.num
  | 0x28 => put fun p => { p with walkerr := v }
  | _ => s

/-- Bits 8, 6 to 4 and 3 to 0 of a kick page's word 0x008; ENABLE lets the queue take entries. -/
def KickPage.control (k : KickPage) (v : Word) : KickPage :=
  let n := v.toNat
  { k with
    enable := bitN n 8
    prio := fieldN n 4 3
    logDepth := if !k.enable && 4 ≤ fieldN n 0 4 && fieldN n 0 4 ≤ 12 then fieldN n 0 4 else k.logDepth }

def kickWrite (s : State) (wn q off : Nat) (v : Word) : State :=
  match off with
  | 0x00 => s.onKick wn q fun k => if k.enable then k else { k with ring := setLoM 4096 k.ring v }
  | 0x04 => s.onKick wn q fun k => if k.enable then k else { k with ring := setHi k.ring v }
  | 0x08 => (s.onKick wn q fun k => k.control v).arm (.queueEntryTake wn q)
  | 0x0C => s.kickTail wn q v
  | 0x14 => s.onKick wn q fun k => { k with err := k.err && !v.getLsbD 0 }
  | _ => s

def ctlWrite (s : State) (wn off : Nat) (v : Word) : State :=
  let put := fun (f : CtlPage → CtlPage) => s.onWorld wn fun w => { w with ctl := f w.ctl }
  let n := v.toNat
  match off with
  | 0x00 => put fun p => { p with intq := setLoM 4096 p.intq v }
  | 0x04 => put fun p => { p with intq := setHi p.intq v }
  | 0x08 => put fun p => { p with intlog := if 4 ≤ n % 16 && n % 16 ≤ 12 then n % 16 else p.intlog }
  | 0x0C => put fun p => { p with inthead := v }
  | 0x14 => put fun p => { p with intlost := v }
  | 0x18 => put fun p => { p with syscerr := v }
  | 0x30 => s.ringCtrl wn (n % 4)
  | 0x38 => if s.worldRuns wn then s else put fun p => { p with savebase := setLoM (2 ^ 24) p.savebase v }
  | 0x3C => if s.worldRuns wn then s else put fun p => { p with savebase := setHi p.savebase v }
  | 0x40 => if s.worldRuns wn || n % 8 > 4 then s else put fun p => { p with savelog := n % 8 }
  | 0x44 => if s.worldRuns wn then s else put fun p => { p with saveslots := n % 65536 }
  | 0x50 => put fun p => { p with claimimg := p.claimimg >>> 32 <<< 32 ||| v.setWidth 64 }
  | 0x54 => put fun p => { p with claimimg := v.setWidth 64 <<< 32 ||| (lo32 p.claimimg).setWidth 64 }
  | 0x58 => if n % 4 = 1 then s.claimUnit wn else if n % 4 = 2 then s.claimFree wn else s
  | _ => s

/-- The step that a command of the NP page is (R388). -/
def npEvent (wn cmd : Nat) : Option Event :=
  match cmd with
  | 1 => some (.installClean wn)
  | 2 => some (.installDirty wn)
  | 3 => some (.retry wn)
  | 4 => some (.kill wn)
  | 5 => some (.pin wn)
  | 6 => some (.unpin wn)
  | 7 => some (.dirset wn)
  | _ => none

def npWrite (s : State) (wn off : Nat) (v : Word) (fromM : Bool) : State :=
  let put := fun (f : NpPage → NpPage) => s.onWorld wn fun w => { w with np := f w.np }
  let n := v.toNat
  match off with
  | 0x00 => put fun p => { p with dfq := setLoM 4096 p.dfq v }
  | 0x04 => put fun p => { p with dfq := setHi p.dfq v }
  | 0x08 => put fun p => { p with dflog := if 4 ≤ n % 16 && n % 16 ≤ 12 then n % 16 else p.dflog }
  | 0x0C => put fun p => { p with dfhead := v }
  | 0x14 => put fun p => { p with dflost := v }
  | 0x18 => if s.worldRuns wn then s else put fun p => { p with nshards := n }
  | 0x20 => if s.worldRuns wn then s else put fun p => { p with shmap := setLoM 64 p.shmap v }
  | 0x24 => if s.worldRuns wn then s else put fun p => { p with shmap := setHi p.shmap v }
  | 0x30 => put fun p => { p with cname := setLo p.cname v }
  | 0x34 => put fun p => { p with cname := setHi p.cname (v &&& 0xFF) }
  | 0x38 => put fun p => { p with carg := setLoM 32 p.carg v }
  | 0x3C => put fun p => { p with carg := setHi p.carg v }
  | 0x40 => match npEvent wn (n % 8) with
    | some e => (put fun p => { p with busy := true }).post e
    | none => s
  | 0x50 => if fromM then put fun p => { p with pcmode := v.getLsbD 0 } else s
  | 0x58 => if fromM then put fun p => { p with pctab := setLoM 4096 p.pctab v } else s
  | 0x5C => if fromM then put fun p => { p with pctab := setHi p.pctab v } else s
  | 0x60 => if fromM && 4 ≤ n % 32 && n % 32 ≤ 24 then put fun p => { p with pclog := n % 32 } else s
  | _ => s

def fabWrite (s : State) (wn off : Nat) (v : Word) : State :=
  let put := fun (f : FabPage → FabPage) => s.onWorld wn fun w => { w with fab := f w.fab }
  let fixed := fun (f : FabPage → FabPage) => if s.worldRuns wn then s else put f
  let n := v.toNat
  match off with
  | 0x00 => fixed fun p => { p with wintab := setLoM 4096 p.wintab v }
  | 0x04 => fixed fun p => { p with wintab := setHi p.wintab v }
  | 0x08 => fixed fun p => { p with nwin := n % 512 }
  | 0x10 => (fixed fun p => { p with grptab := setLoM 4096 p.grptab v }).attestTrees wn
  | 0x14 => (fixed fun p => { p with grptab := setHi p.grptab v }).attestTrees wn
  -- a group past the last entry is none: if it is created again, its instances count from the start (R277)
  | 0x18 => ((put fun p => { p with ngrp := n % 4096 }).onWorld wn fun w => { w with
      groupSeq := w.groupSeq.filter fun x => decide (x.1 < n % 4096) }).attestTrees wn
  | 0x20 => fixed fun p => { p with leasetab := setLoM 4096 p.leasetab v }
  | 0x24 => fixed fun p => { p with leasetab := setHi p.leasetab v }
  | 0x30 => put fun p => { p with badpkt := v }
  | 0x34 => put fun p => { p with modedrop := v }
  | 0x40 => put fun p => { p with appr := setLoM 64 p.appr v }
  | 0x44 => put fun p => { p with appr := setHi p.appr v }
  | 0x48 => put fun p => { p with nappr := n % 64 }
  | 0x4C => put fun p => { p with leasems := if 1000 ≤ n && n ≤ 600000 then n else p.leasems }
  | _ => s

def streamWrite (s : State) (wn off : Nat) (v : Word) : State :=
  let i := off / 32
  let n := v.toNat
  if off ≥ 512 then s
  else match off % 32 with
    | 0 => s.onStream wn i fun p => { p with extlist := setLo p.extlist v }
    | 4 => s.onStream wn i fun p => { p with extlist := setHi p.extlist v }
    | 8 =>
      let s := s.onStream wn i fun p => { p with
        nextCnt := n % 65536
        ahead := n / 65536 }
      if n / 65536 = 0 then s else s.arm (.prefetchTick wn i)
    | 16 => s.onStream wn i fun p => { p with ctr := setLo p.ctr v }
    | 20 => s.onStream wn i fun p => { p with ctr := setHi p.ctr v }
    | _ => s

def ringWrite (s : State) (wn ring off : Nat) (v : Word) : State :=
  let n := v.toNat
  match off with
  | 0x00 => s.onRing wn ring fun r => if r.st = .disabled then { r with rbase := setLoM 4096 r.rbase v } else r
  | 0x04 => s.onRing wn ring fun r => if r.st = .disabled then { r with rbase := setHi r.rbase v } else r
  | 0x08 => s.onRing wn ring fun r => { r with rlog := if 4 ≤ n % 16 && n % 16 ≤ 12 then n % 16 else r.rlog }
  | 0x0C => s.ringTail wn ring v
  | 0x30 => s.onRing wn ring fun r => { r with replays := v }
  | 0x34 => s.onRing wn ring fun r => { r with badtags := v }
  | 0x40 => s.onRing wn ring fun r => { r with rseq := setLo r.rseq v }
  | 0x44 => s.onRing wn ring fun r => { r with rseq := setHi r.rseq v }
  | 0x48 => if n % 4 = 1 then s.ringEnable wn ring else if n % 4 = 2 then s.ringResume wn ring
    else if n % 4 = 3 then s.ringDisable wn ring else s
  | _ => s

def ckWrite (s : State) (off : Nat) (v : Word) : State :=
  let put := fun (f : Ckpt → Ckpt) => { s with ckpt := f s.ckpt }
  let n := v.toNat
  match off with
  | 0x00 => put fun c => { c with
      port := fieldN n 2 3
      tgt := if n % 4 ≤ 1 then n % 4 else c.tgt }
  | 0x08 => put fun c => { c with srv := setLo c.srv v }
  | 0x0C => put fun c => { c with srv := setHi c.srv v }
  | 0x10 => put fun c => { c with obj := setLoM 4096 c.obj v }
  | 0x14 => put fun c => { c with obj := setHi c.obj v }
  | 0x18 => if n % 4 = 1 then s.ckStart 0 else if n % 4 = 2 then s.ckStart 1 else if n % 4 = 3 then s.ckAbort else s
  | _ => s

/-- PC, WBQ, PRED and AFLG of a lane's record are written (R433); PC of a thread that awaits a reply is where it goes on. -/
def Thread.trecWrite (t : Thread) (i : Nat) (v : Word) : Thread :=
  match i with
  | 0 => match t.st with
    | .blocked (.sysc r) _ => { t with st := .blocked (.sysc r) v }
    | .blocked (.syscHeld r) _ => { t with st := .blocked (.syscHeld r) v }
    | _ => { t with pc := v }
  | 1 => { t with
      wb := 16 * (v.extractLsb' 8 8).toNat
      preds := v.extractLsb' 16 7
      aflg := v.extractLsb' 24 6 }
  | _ => t

/-- The bin of a filed thread, when it waits in one to issue again. -/
def State.binOf (s : State) (c : Crew) (t : Thread) : Option Bin :=
  match t.st with
  | .filed id => ((s.quarter (quarterNo c.core c.quarter)).bins.find? (·.id == id)).bind fun b =>
      if b.sysc.isNone then some b else none
  | _ => none

/-- A record is written; a filed thread stays filed, under the key it now has. -/
def State.trecWrite (s : State) (c : Crew) (lane i : Nat) (v : Word) : State :=
  let s' := s.onLane c.uid lane fun t => t.trecWrite i v
  match c.thread lane with
  | none => s
  | some t =>
    match s.binOf c t, (s'.crew c.uid).bind (·.thread lane) with
    | some _, some t' =>
      (s'.leaveBins c.uid [lane]).fileLanes c.uid (quarterNo c.core c.quarter) t'.pc t'.wb none 2 [lane]
    | _, _ => s'.onCrew c.uid Crew.regroup

/-- Registers of the selected crew, while it is HALTED (R433). -/
def crewWrite (s : State) (c : Option Crew) (off : Nat) (v : Word) : State :=
  match c with
  | none => s
  | some c =>
    if !c.halt.isHalted then s
    else if off < 0x130000 then
      let i := (off - 0x100000) / 512
      if i < c.nregs then s.onLane c.uid (off % 512 / 4) fun t => t.setX i v else s
    else if off < 0x130400 then
      let j := (off - 0x130000) / 4
      if j < c.nuregs then s.onCrew c.uid fun c => c.setS j v else s
    else if off < 0x130C00 then s.trecWrite c ((off - 0x130400) / 16) (off % 16 / 4) v
    else s.onCrew c.uid fun c => { c with qpreds := v.extractLsb' 0 7 }

/-- Samplers of every quarter that holds a crew of a world. -/
def State.armSamplers (s : State) (wn : Nat) : State :=
  (s.crews.filter (·.world == wn)).foldl (fun s c => s.armSampler (quarterNo c.core c.quarter) 0) s

def dbgWrite (s : State) (w : World) (off : Nat) (v : Word) (me : Option Nat) : State :=
  let put := fun (f : DbgPage → DbgPage) => s.onWorld w.num fun w => { w with dbg := f w.dbg }
  let n := v.toNat
  let c := s.selected w
  let other := dstat c me != 4
  let watch := fun (f : Watch → Watch) =>
    put fun p => { p with watches := p.watches.mapIdx fun k x => if k = (off - 0x20) / 16 then f x else x }
  if 0x20 ≤ off && off < 0x60 then
    match off % 16 with
    | 0 => watch fun x => { x with addr := setLo x.addr v }
    | 4 => watch fun x => { x with addr := setHi x.addr v }
    | 8 => watch fun x => { x with len := n }
    | _ => watch fun x => { x with ctl := n % 8 }
  else if inCrewRegs off then crewWrite s c off v
  else match off with
    | 0x00 => put fun p => { p with crewsel := n % 8192 }
    | 0x04 => match n % 4 with
      | 1 => if other then s.dcmd w.num State.haltCrew else s
      | 2 => s.dcmd w.num State.resumeCrew
      | 3 => if other then s.dcmd w.num State.stepCrew else s
      | _ => s
    | 0x80 => put fun p => { p with sampbase := setLoM 4096 p.sampbase v }
    | 0x84 => put fun p => { p with sampbase := setHi p.sampbase v }
    | 0x88 => put fun p => { p with samplog := if 4 ≤ n % 16 then n % 16 else p.samplog }
    | 0x8C =>
      let s := put fun p => { p with sampper := v }
      if n = 0 then s else s.armSamplers w.num
    | 0x90 => put fun p => { p with samphead := v }
    | 0x98 => put fun p => { p with samplost := v }
    | 0x9C => put fun p => { p with trace := n % 4 }
    | 0x100 => put fun p => { p with ftagsel := n % 2 ^ 24 }
    | 0x120 => put fun p => { p with fqsel := n % 2 ^ 14 }
    | _ => s

/-- What a write of a word does (R8). `me` is the accessing crew; the fields marked M take writes of M mode only. -/
def State.regWrite (s : State) (p : PageRef) (off : Nat) (v : Word) (fromM : Bool) (me : Option Nat) : State :=
  match p with
  | .checkpoint => ckWrite s off v
  | _ =>
    match s.world (pageWorld p) with
    | none => s
    | some w =>
      match p with
      | .trans _ => transWrite s w off v
      | .kick wn q => kickWrite s wn q off v
      | .control wn => ctlWrite s wn off v
      | .np wn => npWrite s wn off v fromM
      | .fabric wn => fabWrite s wn off v
      | .prefetch wn => streamWrite s wn off v
      | .channels wn h => s.chanWrite wn h off v
      | .ring wn r => ringWrite s wn r off v
      | .debug _ => dbgWrite s w off v me
      | .checkpoint => s

/-- A write that waits: IREQ with sixteen invalidations outstanding (R352), CMD while BUSY (R388). -/
def State.regWaits (s : State) (p : PageRef) (off : Nat) : Bool :=
  match p, s.world (pageWorld p) with
  | .trans _, some w => off == 0x1C && decide (w.trans.queue.length ≥ maxInval)
  | .np _, some w => off == 0x40 && w.np.busy
  | _, _ => false

/-! ## Where the pages lie (R348, R396, R432) -/

/-- The page of a device register and the offset in it; `none` for a register the spec names no meaning of. -/
def regPlace (pa : Nat) : Option (PageRef × Nat) :=
  if pa / pageBytes = 0xF00000010000 / pageBytes then some (.checkpoint, pa % pageBytes)
  else if 0xF00010000000 ≤ pa && pa < 0xF00010000000 + 16 * 2 ^ 24 then
    some (.debug ((pa - 0xF00010000000) / 2 ^ 24), pa % 2 ^ 24)
  else match Config.pageAt (pa / pageBytes) with
    -- the channel tables lie in no address space (R65)
    | some (.channels _ _) | none => none
    | some p => some (p, pa % pageBytes)

/-- REGISTER_WRITE (R8). Write to a register field without a row of its own, under its access rule. -/
def execRegisterWrite (page : PageRef) (off : Nat) (value : Word) (fromM : Bool) (s : State) : Out :=
  if s.regWaits page off then .next (s.arm (.registerWrite page off value fromM))
  else .next (s.regWrite page off value fromM none)

end Sys2Proof.Machine
end

