-- ==== Sys2Proof/Machine/Access.lean ====
section
/-! DEFINITION. Loads, stores, atomics and reductions (R96 to R115, R207 to R218, R434). -/

namespace Sys2Proof.Machine

/-! ## Device registers (R101) -/

/-- The page that a thread of a world names by a PA: a page of another world is none of its own (R329). -/
def ownPage (wn : Nat) (p : PageRef) : Bool := pageWorld p == wn || p == .checkpoint

/-- Words of a device register as a load sees them; one that the spec gives no meaning reads as a free value. -/
def State.regLoad (s : State) (c : Crew) (pa : Nat) : Nat → State × List Word
  | 0 => (s, [])
  | n + 1 =>
    let (s, v) : State × Word := match regPlace pa with
      | some (p, off) => (s, if ownPage c.world p then s.regRead p off (some c.uid) else 0)
      | none =>
        let (i, s) := s.free
        (s, Config.foreignReg i)
    let (s, r) := State.regLoad s c (pa + 4) n
    (s, v :: r)

/-- A write of some word there has to wait. -/
def State.regBusy (s : State) (c : Crew) (pa n : Nat) : Bool :=
  (List.range n).any fun i => match regPlace (pa + 4 * i) with
    | some (p, off) => ownPage c.world p && s.regWaits p off
    | none => false

/-- Writes words to a device register, lowest first. -/
def State.regStore (s : State) (c : Crew) (t : Thread) (pa : Nat) : List Word → State
  | [] => s
  | v :: r =>
    let s := match regPlace pa with
      | some (p, off) => if ownPage c.world p then s.regWrite p off v (t.mode = .M) (some c.uid) else s
      | none => s
    State.regStore s c t (pa + 4) r

/-! ## Watchpoints (R434) -/

/-- The WATCH of an access to ranges of generic bytes, ascending: the lowest enabled watchpoint that matches, and its lowest
matching byte. -/
def State.watchRanges (s : State) (wn : Nat) (rd wr : Bool) (ranges : List (Nat × Nat)) : Option Trap :=
  match s.world wn with
  | none => none
  | some w => w.dbg.watches.zipIdx.findSome? fun p =>
    let x := p.1
    if bitN x.ctl 2 && decide (x.len ≠ 0) && ((rd && bitN x.ctl 0) || (wr && bitN x.ctl 1)) then
      ranges.findSome? fun r =>
        if r.1 < x.addr + x.len && x.addr < r.1 + r.2 then
          let a := if r.1 < x.addr then x.addr else r.1
          some (mkTrap .watch 0 [p.2, a % 2 ^ 32, a / 2 ^ 32])
        else none
    else none

/-- The WATCH of an access to one range. -/
def State.watchTrap (s : State) (wn : Nat) (rd wr : Bool) (ea size : Nat) : Option Trap := s.watchRanges wn rd wr [(ea, size)]

/-! ## Records (R124, R128) -/

/-- A wait for a record that still stands: its thread may issue, and stands at the access. -/
def State.waitStands (s : State) (w : RecWait) : Bool :=
  match (s.crew w.crew).bind (·.thread w.lane) with
  | some t => t.ready && t.pc == w.pc
  | none => false

/-- What an access needs room on: its core's read records, or its slice's write records. -/
def Access.roomAt (a : Access) (core : Nat) (base : Place) : Nat := if a.write then base.slice else core

/-- Freed records go to waiting replays first, oldest first, then to other accesses, oldest first (R128): no wait that
stands and needs the same room comes before this access. -/
def State.recTurn (s : State) (c : Crew) (t : Thread) (a : Access) (base : Place) : Bool :=
  let same := s.recWaits.filter fun w => w.write == a.write && w.at_ == a.roomAt c.core base && s.waitStands w
  let mine := fun (w : RecWait) => w.crew == c.uid && w.lane == t.lane
  let before := if t.replay.isSome then (same.filter (·.replay)).takeWhile fun w => !mine w
    else same.filter (·.replay) ++ (same.filter fun w => !w.replay).takeWhile fun w => !mine w
  (before.filter fun w => !mine w).isEmpty

/-- The access joins those that wait, behind them. -/
def State.recWait (s : State) (c : Crew) (t : Thread) (a : Access) (base : Place) : State :=
  if s.recWaits.any fun w => w.crew == c.uid && w.lane == t.lane && w.pc == t.pc then s
  else { s with recWaits := s.recWaits.filter (s.waitStands ·) ++
    [(⟨c.uid, t.lane, t.pc, t.replay.isSome, a.write, a.roomAt c.core base⟩ : RecWait)] }

/-- The access waits no longer. -/
def State.recServed (s : State) (c : Crew) (t : Thread) : State :=
  if s.recWaits.isEmpty then s
  else { s with recWaits := s.recWaits.filter fun w => !(w.crew == c.uid && w.lane == t.lane) }

/-- Room for an access's records: it needs none, or there is, and it is the access's turn; or the crew's region is split,
once, before the access waits. A replay is never split off from its region, and a region that holds nothing is not split. -/
def State.makeRoom (s : State) (c : Crew) (t : Thread) (a : Access) (base : Place) (len : Nat) : State × Option Access :=
  if (s.unrecorded a base len).isEmpty || (s.room a c.core base len && s.recTurn c t a base) then (s.recServed c t, some a)
  else
    let waits := s.recWaits.any fun w => w.crew == c.uid && w.lane == t.lane && w.pc == t.pc
    if waits || t.replay.isSome || !(s.recs.any fun r => r.party == a.party && r.region == a.region) then
      (s.recWait c t a base, none)
    else
      let s := ((s.performStores fun p => p.crew == c.uid).readLate (·.crew == c.uid)).syncOp c.uid
      let a := { a with region := s.accessRegion ((s.crew c.uid).getD c) t }
      if s.room a c.core base len && s.recTurn c t a base then (s.recServed c t, some a) else (s.recWait c t a base, none)

/-! ## The checks of an access (R98, R103, R124, R154) -/

/-- What an access is, for the checks. -/
structure Acc1 where
  kind : AccKind
  /-- synchronising (R121) -/
  sync : Bool
  rd : Bool
  wr : Bool
  size : Nat

def plainLoad (n : Nat) : Acc1 := ⟨.read, false, true, false, n⟩
def plainStore (n : Nat) : Acc1 := ⟨.write, false, false, true, n⟩

/-- A generic access passes through the L1 and the L2 of its core, one to a strongly ordered page through neither (R101,
R347, R371). What R133 performs in an L2 that holds the line for writing asks for it so. -/
def State.cachedAt (s : State) (c : Crew) (d : Dest) : State :=
  if d.so then s else s.cached c.core c.uid d.target d.own

/-- Requests to memory that a core may have outstanding (R17). -/
def coreRequests : Nat := 1024

/-- A core has as many requests to memory outstanding as it may have: results under way, and accepted stores. R17 states
the number; that an access waits until one of them ends is the model's reading (log entry 24, DESIGN CHOICE). -/
def State.requestsFull (s : State) (core : Nat) : Bool :=
  let on := fun (uid : Nat) => (s.crew uid).any (·.core == core)
  if s.landings.length + s.stores.length < coreRequests then false
  else decide (coreRequests ≤ (s.landings.filter fun l => l.mem && on l.crew).length +
    (s.stores.filter fun q => q.target.inMemory && on q.crew).length)

/-- A generic access of one lane, after what its thread has begun: alignment, range, translation, residency, watchpoints,
conflicts, room; then it is performed, after what its semantics order before it. An access that waits for room is not
performed, nor is what its semantics order before it done again (R128). -/
def State.genAccess (s : State) (c : Crew) (t : Thread) (pc : Word) (x : Acc1) (ea : Nat) (pre : State → State)
    (go : State → Dest → State × LaneRes) : State × LaneRes :=
  let s := s.finishHalves c.uid t.lane
  if s.matrixWait c.uid t.lane || s.requestsFull c.core then (s, .stall false)
  else if ea % x.size ≠ 0 then (s, .trap (alignTrap ea 0 x.kind.code x.size))
  else if ea ≥ 2 ^ 56 then (s, .trap (permTrap 4 ea 0 x.kind.code x.size))
  else match s.resolve c.world c.core x.kind ea x.size with
    | (s, .perm r) => (s, .trap (permTrap r ea 0 x.kind.code x.size))
    | (s, .park job page w) => (s, .park job page w)
    | (s, .nothing) => (pre s, .done)
    | (s, .go d) =>
      if x.kind.stores && s.readOnly t.mode d.target x.size then (s, .trap (permTrap 3 ea 0 x.kind.code x.size))
      else match s.watchTrap c.world x.rd x.wr ea x.size with
      | some tr => (s, .trap tr)
      | none =>
        let a : Access := ⟨.crew c.uid, s.accessRegion c t, !x.kind.readsOnly, x.sync, pc⟩
        match s.conflict a x.kind.code x.size d.tracked d.place ea x.size with
        | some tr => (s, .trap tr)
        | none =>
          if !d.tracked then go ((pre s).cachedAt c d) d
          else
            let waits := s.recWaits.any fun w => w.crew == c.uid && w.lane == t.lane && w.pc == t.pc
            let s := if waits then s else pre s
            let a := { a with region := s.accessRegion ((s.crew c.uid).getD c) t }
            match s.makeRoom c t a d.place x.size with
            | (s, none) => (s, .stall false)
            | (s, some a) => go ((s.record a d.target d.place x.size).cachedAt c d) d

/-- A scratchpad access of one lane (R106, R107, R213): `go` has the block and the swizzled address. The address that an
MMX record gives is the swizzled one, which is the granule's; R126 does not say which is meant (log entry 24,
DESIGN CHOICE). -/
def State.spadAccess (s : State) (c : Crew) (t : Thread) (pc : Word) (x : Acc1) (a mode : Nat) (pre : State → State)
    (go : State → Nat → State × LaneRes) : State × LaneRes :=
  let s := s.finishHalves c.uid t.lane
  if s.matrixWait c.uid t.lane then (s, .stall false)
  else if a % x.size ≠ 0 then (s, .trap (alignTrap a 1 x.kind.code x.size))
  else match s.unit c.unit with
    | none => (s, .trap (permTrap 4 a 1 x.kind.code x.size))
    | some u =>
      if spadBad u.cores.length u.alloc a x.size then (s, .trap (permTrap 4 a 1 x.kind.code x.size))
      else
        let key := spadKey mode a
        let acc : Access := ⟨.crew c.uid, s.accessRegion c t, !x.kind.readsOnly, x.sync, pc⟩
        match s.conflict acc x.kind.code x.size false (.spad u.uid key) key x.size with
        | some tr => (s, .trap tr)
        | none => go (pre s) key

/-- The region of a tracked access of a thread, now. -/
def State.regionAt (s : State) (c : Crew) (t : Thread) (d : Dest) : Option Nat :=
  if d.tracked then some (s.accessRegion ((s.crew c.uid).getD c) t) else none

/-- The bytes of a scratchpad range as a thread reads them: after its own earlier stores there. -/
def State.spadRead (s : State) (c : Crew) (t : Thread) (key n : Nat) : State × List Byte :=
  let s := s.drainFor c.uid t.lane (.spad c.unit key) n
  (s, s.loadT (.spad c.unit key) n)

/-- The bytes of a generic destination as a thread reads them. While a device-scope write to a read-shared page is made, R100
leaves open whether a read has the old or the new content: the model gives what memory holds (log entry 24, DESIGN
CHOICE). -/
def State.destRead (s : State) (t : Thread) (uid : Nat) (d : Dest) (n : Nat) : State × List Byte :=
  let s := s.drainFor uid t.lane d.place n
  (s, s.loadT d.target n)

/-- A generic destination is written, and the monitors on its lines wake. -/
def State.destWrite (s : State) (c : Crew) (t : Thread) (d : Dest) (l : List Byte) : State :=
  let s := s.drainFor c.uid t.lane d.place l.length
  (if d.tracked then s.noteWrite (.crew c.uid) (c.world, c.launch) d.target d.place l.length else s).performAt d.target d.place l

/-! ## Values (R157, R211) -/

/-- Registers of a load of `n` bytes; `sg` extends the sign. -/
def loadWords (n : Nat) (sg : Bool) (l : List Byte) : List Word :=
  if n = 1 then [if sg then (BitVec.ofNat 8 (leNat l)).signExtend 32 else BitVec.ofNat 32 (leNat l)]
  else if n = 2 then [if sg then (BitVec.ofNat 16 (leNat l)).signExtend 32 else BitVec.ofNat 32 (leNat l)]
  else bytesWords l

/-- Bytes of a store of `n` bytes from the data span. -/
def dataBytes (n : Nat) (w : Nat → Word) : List Byte :=
  if n < 4 then leBytes n (w 0).toNat else wordsBytes ((List.range (n / 4)).map w)

/-- Registers that `n` bytes fill. -/
def spanOf (n : Nat) : Nat := if n ≤ 4 then 1 else n / 4

/-- Destination values from a field on. -/
def destVals (base : Nat) (ws : List Word) : List (Nat × Word) := ws.zipIdx.map fun p => (base + p.2, p.1)

/-! ## Generic loads and stores (R211, R212) -/

/-- The place that a lane's generic address leads to. -/
def State.lanePlace (s : State) (c : Crew) (t : Thread) (a : BitVec 7) (o : Nat) : Place :=
  s.placeOf c.world c.core ((t.x64 a.toNat).toNat + o)

/-- Before the lanes of a load read: what each of their threads has half performed, and what it has stored there, is
performed (R105, R123, R129). -/
def State.lanesBegin (s : State) (c : Crew) (n : Nat) (place : Thread → Place) (ts : List Thread) : State :=
  ts.foldl (fun s t =>
    if s.stores.isEmpty && s.landings.all (fun l => l.row.isNone && l.late.isNone) then s
    else (s.finishHalves c.uid t.lane).drainFor c.uid t.lane (place t) n) s

/-- A free value is drawn for what scopes too narrow leave open of the loads that follow, one for all of them (R105,
R132). -/
def State.drawOlder (s : State) : State := if s.older.isEmpty then s else s.free.2

/-- The same before the lanes of a generic load read. -/
def State.loadsBegin (s : State) (c : Crew) (n : Nat) (place : Thread → Place) (ts : List Thread) : State :=
  (s.lanesBegin c n place ts).drawOlder

/-- The bytes of a generic destination as the state `s0` in which a load began holds them, and as the crew may read them
(R105, R132). -/
def State.loadAt (s0 : State) (c : Crew) (d : Dest) (n : Nat) : List Byte :=
  let l := s0.loadT d.target n
  if d.tracked then s0.stale (.crew c.uid) s0.freeCtr d.place l else l

/-- A 16 B load from memory: its halves are read one after the other (R129). -/
def State.loadHalves (s s0 : State) (c : Crew) (t : Thread) (pc : Word) (base tag : Nat) (dst : Dest) : State :=
  s.inHalves c.uid t.lane pc (destVals base (bytesWords (s0.loadAt c dst 8)))
    ⟨tag, dst.target.plus 8, dst.place.plus 8, 4, [base + 2, base + 3], s.regionAt c t dst⟩

/-- One lane of a generic load. -/
def loadLane (n : Nat) (sg : Bool) (d a : BitVec 7) (off : BitVec 8) (tag : Nat) (s0 : State) (e : Env) (c : Crew) (t : Thread)
    (s : State) : State × LaneRes :=
  s.genAccess c t (e.pcI t) (plainLoad n) ((t.x64 a.toNat).toNat + off.toNat * n) id fun s dst =>
    match dst.target with
    | .reg pa =>
      let (s, ws) := s.regLoad c pa (n / 4)
      (s.inFlight c.uid t.lane (e.pcI t) (destVals (t.wb + d.toNat) ws) none true, .done)
    | _ =>
      if n = 16 then (s.loadHalves s0 c t (e.pcI t) (t.wb + d.toNat) tag dst, .done)
      else (s.inFlight c.uid t.lane (e.pcI t) (destVals (t.wb + d.toNat) (loadWords n sg (s0.loadAt c dst n))) none true, .done)

/-- One lane of a generic store. A 16 B store is performed as two 8 B halves, in either order, before its thread's next
access (R124, R129); any other is performed once its check has returned (R124). -/
def storeLane (n : Nat) (d a : BitVec 7) (off : BitVec 8) (tag : Nat) (e : Env) (c : Crew) (t : Thread) (s : State) :
    State × LaneRes :=
  let ea := (t.x64 a.toNat).toNat + off.toNat * n
  let w := fun k => t.x (d.toNat + k)
  s.genAccess c t (e.pcI t) (plainStore n) ea id fun s dst =>
    match dst.target with
    | .reg pa =>
      if s.regBusy c pa (n / 4) then (s, .stall true) else (s.regStore c t pa ((List.range (n / 4)).map w), .done)
    | tg =>
      if n = 16 then
        let l := dataBytes 16 w
        let s := s.drainFor c.uid t.lane dst.place 16
        let r := s.regionAt c t dst
        let s := s.accept c.uid t.lane tag tg dst.place (.bytes (l.take 8)) true r true
        (s.accept c.uid t.lane tag (tg.plus 8) (dst.place.plus 8) (.bytes (l.drop 8)) true r true, .done)
      else (s.destWrite c t dst (dataBytes n w), .done)

/-- A uniform load, performed once for the set (R212). -/
def loadUniform (n : Nat) (d a : BitVec 7) (off : BitVec 8) (e : Env) (c : Crew) (t : Thread) (s : State) :
    State × LaneRes :=
  if c.threads.any fun u => u.ready && u.set == t.set && s.matrixWait c.uid u.lane then (s, .stall true)
  else s.genAccess c t (e.pcI t) (plainLoad n) ((c.s64 a.toNat).toNat + off.toNat * n) id fun s dst =>
    let (s, ws) := match dst.target with
      | .reg pa => s.regLoad c pa (n / 4)
      | _ =>
        let s := (c.threads.filter fun (u : Thread) => u.ready && u.set == t.set).foldl
          (fun (s : State) (u : Thread) => s.drainFor c.uid u.lane dst.place n) s
        let s := s.drawOlder
        (s, loadWords n false (s.loadAt c dst n))
    (s.inFlightU c.uid (e.pcI t) (destVals (c.uwb + d.toNat) ws), .done)

/-! ## Scratchpad (R213) -/

/-- One lane of a scratchpad load. -/
def ldsLane (n : Nat) (d a : BitVec 7) (mode : BitVec 3) (off : BitVec 8) (s0 : State) (e : Env) (c : Crew) (t : Thread) (s : State) :
    State × LaneRes :=
  s.spadAccess c t (e.pcI t) (plainLoad n) ((t.x a.toNat).toNat + off.toNat * n) mode.toNat id fun s key =>
    (s.inFlight c.uid t.lane (e.pcI t) (destVals (t.wb + d.toNat) (bytesWords (s0.loadT (.spad c.unit key) n))) none, .done)

/-- The scratchpad place that a lane's address leads to. -/
def ldsPlace (n : Nat) (a : BitVec 7) (mode : BitVec 3) (off : BitVec 8) (c : Crew) (t : Thread) : Place :=
  .spad c.unit (spadKey mode.toNat ((t.x a.toNat).toNat + off.toNat * n))

/-- One lane of a scratchpad store: it is accepted, and performed later (R123, R209). `tag` numbers the instruction. -/
def stsLane (n : Nat) (d a : BitVec 7) (mode : BitVec 3) (off : BitVec 8) (tag : Nat) (e : Env) (c : Crew) (t : Thread)
    (s : State) : State × LaneRes :=
  s.spadAccess c t (e.pcI t) (plainStore n) ((t.x a.toNat).toNat + off.toNat * n) mode.toNat id fun s key =>
    let s := s.landRows fun l => l.crew == c.uid && l.lane == t.lane && s.rowTouches l (.spad c.unit key) n
    (s.accept c.uid t.lane tag (.spad c.unit key) (.spad c.unit key) (.bytes (dataBytes n fun k => t.x (d.toNat + k))) false
      none true, .done)

/-! ## The private segment (R114, R115, R214) -/

/-- The offset in the window of a private offset of a lane. -/
def privOff (lane o : Nat) : Nat := o / 4 * (4 * crewWidth) + lane * 4 + o % 4

/-- The pieces of a private access: offset in the window, first byte, length. -/
def privPieces (lane o n : Nat) : List (Nat × Nat × Nat) :=
  if n < 4 then [(privOff lane o, 0, n)] else (List.range (n / 4)).map fun k => (privOff lane (o + 4 * k), 4 * k, 4)

/-- The generic addresses of a private access: each piece lies in the crew's window (R113, R114). -/
def privRanges (c : Crew) (lane o n : Nat) : List (Nat × Nat) := (privPieces lane o n).map fun p => (c.win + p.1, p.2.2)

/-- The checks of a private access, after what its thread has half performed: alignment, the limit of the segment, and the
watchpoints on its generic addresses (R103, R115, R434). -/
def State.privAccess (s : State) (c : Crew) (t : Thread) (wr : Bool) (o n : Nat) (go : State → State × LaneRes) :
    State × LaneRes :=
  let s := s.finishHalves c.uid t.lane
  if s.matrixWait c.uid t.lane || s.requestsFull c.core then (s, .stall false)
  else if o % n ≠ 0 then (s, .trap (alignTrap o 2 (boolN wr) n))
  else if o + n > c.priv then (s, .trap (mkTrap .stackLimit 0 [o, n, c.priv]))
  else match s.watchRanges c.world (!wr) wr (privRanges c t.lane o n) with
    | some tr => (s, .trap tr)
    | none => go s

/-- The words or bytes of a private range, from the lane's own memory. -/
def State.privBytes (s : State) (uid lane o n : Nat) : List Byte :=
  (privPieces lane o n).flatMap fun p => s.loadT (.priv uid p.1) p.2.2

/-- A private range is about to be read: the thread's earlier stores there are performed, and its lines come into the
L1. -/
def State.privTouch (s : State) (c : Crew) (lane o n : Nat) : State :=
  (privPieces lane o n).foldl (fun s p =>
    (s.drainFor c.uid lane (.priv c.uid p.1) p.2.2).cached c.core c.uid (.priv c.uid p.1) false) s

/-- One lane of a private load; the second half of one of 16 B is read later (R129). -/
def ldpLane (n : Nat) (sg : Bool) (d a : BitVec 7) (off : BitVec 8) (tag : Nat) (e : Env) (c : Crew) (t : Thread) (s : State) :
    State × LaneRes :=
  let o := (t.x a.toNat).toNat + off.toNat * n
  let base := t.wb + d.toNat
  s.privAccess c t false o n fun s =>
    let s := s.privTouch c t.lane o n
    if n = 16 then
      let p := privOff t.lane (o + 8)
      (s.inHalves c.uid t.lane (e.pcI t) (destVals base (bytesWords (s.privBytes c.uid t.lane o 8)))
        ⟨tag, .priv c.uid p, .priv c.uid p, 4 * crewWidth, [base + 2, base + 3], none⟩, .done)
    else (s.inFlight c.uid t.lane (e.pcI t) (destVals base (loadWords n sg (s.privBytes c.uid t.lane o n))) none true, .done)

/-- What a private store of a lane does when performed: words that lie one crew's width apart are one access (R114), and
16 B are two halves (R129). -/
def stpOps (n o lane : Nat) (l : List Byte) : List (Nat × StoreOp) :=
  if n < 4 then [(privOff lane o, .bytes l)]
  else if n = 16 then
    [(privOff lane o, .words (bytesWords (l.take 8))), (privOff lane (o + 8), .words (bytesWords (l.drop 8)))]
  else [(privOff lane o, .words (bytesWords l))]

/-- One lane of a private store. -/
def stpLane (n : Nat) (d a : BitVec 7) (off : BitVec 8) (tag : Nat) (c : Crew) (t : Thread) (s : State) :
    State × LaneRes :=
  let o := (t.x a.toNat).toNat + off.toNat * n
  s.privAccess c t true o n fun s =>
    ((stpOps n o t.lane (dataBytes n fun k => t.x (d.toNat + k))).foldl
      (fun s p => (s.cached c.core c.uid (.priv c.uid p.1) true).accept c.uid t.lane tag (.priv c.uid p.1) (.priv c.uid p.1)
        p.2 false none true) s, .done)

/-! ## Order fields (R159, R217) -/

def ordScope (o : BitVec 7) : Nat := (o.extractLsb' 4 3).toNat
def ordAcq (o : BitVec 7) : Bool := o.getLsbD 2
def ordRel (o : BitVec 7) : Bool := o.getLsbD 3
def ordSpad (o : BitVec 7) : Bool := o.getLsbD 0

/-- An rput or ratom of a thread is not yet placed (R130): a release at job scope waits for it, and not for one that has met
transport failure (log entry 24, DESIGN CHOICE). -/
def State.putsPending (s : State) (uid lane : Nat) : Bool :=
  (s.entries.any fun e => e.crew == uid && e.lane == lane && (e.cmd == .rput || e.cmd == .ratom)) ||
  s.plat.peers.any fun p => p.2.unacked.any fun x => x.put == some (uid, lane) && !x.lost

/-- What a release waits for: job scope alone has anything that this model leaves outstanding (R130, R131). -/
def State.relWaits (s : State) (uid lane : Nat) (rel : Bool) (scope : Nat) : Bool :=
  rel && scope == 4 && s.putsPending uid lane

/-! ## Atomics and reductions (R215 to R218) -/

/-- The kind of an atomic for the checks: ldx is checked as a read (R216); an atomic counts as read and write for a
watchpoint (R434). -/
def atomAcc (fn : Nat) : Acc1 := ⟨if fn = 14 then .ldx else .atom, true, true, true, atomSize fn⟩

/-- Semantics that a function does not permit (R159, R217, R218). -/
def semBad (fn : Nat) (mred : Bool) (o : BitVec 7) : Bool :=
  (fn == 14 && ordRel o) || ((fn == 15 || mred) && ordAcq o)

/-- The registers that come back from the old bytes, and the flags (R215). -/
def State.atomReturn (s : State) (e : Env) (c : Crew) (t : Thread) (fn : Nat) (mred : Bool) (d : BitVec 7) (old : BitVec 64)
    (fl : Flags) (mem : Bool) : State :=
  if mred then s
  else
    let s := if fn = 1 then s.onLane c.uid t.lane fun t => t.flag fl else s
    if fn = 15 then s
    else s.inFlight c.uid t.lane (e.pcI t)
      (destVals (t.wb + d.toNat) (if atomSize fn = 8 then [lo32 old, hi32 old] else [lo32 old])) none mem

/-- An atomic or reduction with neither acquire nor release need not be performed at once (R122, R209): it is accepted, and a
later step performs it. -/
def atomLater (o : BitVec 7) : Bool := !ordRel o && !ordAcq o

/-- An atomic or reduction of a lane is accepted: a store or a reduction as what it does, one that returns with the registers
that its old value goes to. -/
def State.acceptAtom (s : State) (e : Env) (c : Crew) (t : Thread) (fn : Nat) (mred : Bool) (d : BitVec 7) (tag : Nat) (tg : Target)
    (p : Place) (region : Option Nat) (own : Bool) : State :=
  if mred then s.accept c.uid t.lane tag tg p (.red fn (t.x d.toNat)) false region own
  else if fn = 15 then s.accept c.uid t.lane tag tg p (.bytes (leBytes 4 (t.x d.toNat).toNat)) false region own
  else
    let args := atomArgs fn fun k => t.x (d.toNat + k)
    let regs := if atomSize fn = 8 then [t.wb + d.toNat, t.wb + d.toNat + 1] else [t.wb + d.toNat]
    let (id, s) := s.inAtomic c.uid t.lane (e.pcI t) regs tg.inMemory
    s.accept c.uid t.lane tag tg p (.rmw fn args.1 args.2 id) false region own

/-- One lane of an atomic or a reduction. -/
def atomLane (fn : Nat) (mred : Bool) (d a o : BitVec 7) (tag : Nat) (e : Env) (c : Crew) (t : Thread) (s : State) :
    State × LaneRes :=
  let n := atomSize fn
  let args := atomArgs fn fun k => t.x (d.toNat + k)
  let pre := fun (s : State) => s.order e t.lane (ordAcq o) (ordRel o) (ordScope o)
  if semBad fn mred o then (s, .trap (e.ill .operand))
  else if s.relWaits c.uid t.lane (ordRel o) (ordScope o) then (s, .stall false)
  else if ordSpad o then
    s.spadAccess c t (e.pcI t) (atomAcc fn) (t.x a.toNat).toNat 0 pre fun s key =>
      let p : Place := .spad c.unit key
      if mred || atomLater o then
        let s := s.landRows fun l => l.crew == c.uid && l.lane == t.lane && s.rowTouches l p n
        (s.acceptAtom e c t fn mred d tag (.spad c.unit key) p none true, .done)
      else
        let (s, l) := s.spadRead c t key n
        let old := BitVec.ofNat 64 (leNat l)
        let r := atomFn fn old args.1 args.2
        let s := if fn = 14 then s else s.performAt (.spad c.unit key) p (leBytes n r.1.toNat)
        (s.atomReturn e c t fn false d old r.2 false, .done)
  else
    let ea := (t.x64 a.toNat).toNat
    s.genAccess c t (e.pcI t) (atomAcc fn) ea pre fun s dst =>
      match dst.target with
      | .reg pa =>
        if fn ≠ 14 && s.regBusy c pa (n / 4) then (s, .stall true)
        else
          let (s, ws) := if fn = 15 then (s, []) else s.regLoad c pa (n / 4)
          let old := pair64 (ws.getD 1 0) (ws.getD 0 0)
          let r := atomFn fn old args.1 args.2
          let s := if fn = 14 then s else s.regStore c t pa (if n = 8 then [lo32 r.1, hi32 r.1] else [lo32 r.1])
          (s.atomReturn e c t fn mred d old r.2 true, .done)
      | tg =>
        if atomLater o && !dst.so then
          (s.acceptAtom e c t fn mred d tag tg dst.place (s.regionAt c t dst) dst.own, .done)
        else
          let (s, l) := s.destRead t c.uid dst n
          let old := BitVec.ofNat 64 (leNat l)
          let r := atomFn fn old args.1 args.2
          let s := if fn = 14 then s else s.destWrite c t dst (leBytes n r.1.toNat)
          (s.atomReturn e c t fn mred d old r.2 true, .done)

/-- The operands of an atomic: x(D) on, the base pair or register; add.f32 reads x(D) as floating point (R87). -/
def atomOps (fn : Nat) (d a o : BitVec 7) : List Opnd :=
  let n := if atomOperands fn = 0 then 1 else atomOperands fn
  [if fn = 1 then (dX d n).fp else dX d n, aX a (if ordSpad o then 1 else 2)]

/-! ## The instructions -/

/-- LD_B (R211). Generic load of a zero-extended byte. -/
def execLdB (sw : Bool) (d a : BitVec 7) (o : BitVec 8) (s : State) : Out :=
    execLanesAfter { word := (encMEM sw 32#6 d a 0#3 o), sw := sw, ops := [dX d 1, aX a 2] } s
      (fun _ c ts s => s.loadsBegin c 1 (fun t => s.lanePlace c t a (o.toNat * 1)) ts) (loadLane 1 false d a o s.nextId)

/-- LD_SB (R211). Generic load of a sign-extended byte. -/
def execLdSb (sw : Bool) (d a : BitVec 7) (o : BitVec 8) (s : State) : Out :=
    execLanesAfter { word := (encMEM sw 32#6 d a 1#3 o), sw := sw, ops := [dX d 1, aX a 2] } s
      (fun _ c ts s => s.loadsBegin c 1 (fun t => s.lanePlace c t a (o.toNat * 1)) ts) (loadLane 1 true d a o s.nextId)

/-- LD_H (R211). Generic load of a zero-extended half. -/
def execLdH (sw : Bool) (d a : BitVec 7) (o : BitVec 8) (s : State) : Out :=
    execLanesAfter { word := (encMEM sw 32#6 d a 2#3 o), sw := sw, ops := [dX d 1, aX a 2] } s
      (fun _ c ts s => s.loadsBegin c 2 (fun t => s.lanePlace c t a (o.toNat * 2)) ts) (loadLane 2 false d a o s.nextId)

/-- LD_SH (R211). Generic load of a sign-extended half. -/
def execLdSh (sw : Bool) (d a : BitVec 7) (o : BitVec 8) (s : State) : Out :=
    execLanesAfter { word := (encMEM sw 32#6 d a 3#3 o), sw := sw, ops := [dX d 1, aX a 2] } s
      (fun _ c ts s => s.loadsBegin c 2 (fun t => s.lanePlace c t a (o.toNat * 2)) ts) (loadLane 2 true d a o s.nextId)

/-- LD_W (R211). Generic load of a word with per-lane checks, parking or traps. -/
def execLdW (sw : Bool) (d a : BitVec 7) (o : BitVec 8) (s : State) : Out :=
    execLanesAfter { word := (encMEM sw 32#6 d a 4#3 o), sw := sw, ops := [dX d 1, aX a 2] } s
      (fun _ c ts s => s.loadsBegin c 4 (fun t => s.lanePlace c t a (o.toNat * 4)) ts) (loadLane 4 false d a o s.nextId)

/-- LD_D (R211). Generic load of 8 B into a pair. -/
def execLdD (sw : Bool) (d a : BitVec 7) (o : BitVec 8) (s : State) : Out :=
    execLanesAfter { word := (encMEM sw 32#6 d a 5#3 o), sw := sw, ops := [dX d 2, aX a 2] } s
      (fun _ c ts s => s.loadsBegin c 8 (fun t => s.lanePlace c t a (o.toNat * 8)) ts) (loadLane 8 false d a o s.nextId)

/-- LD_Q (R211). Generic load of 16 B into four registers. -/
def execLdQ (sw : Bool) (d a : BitVec 7) (o : BitVec 8) (s : State) : Out :=
    execLanesAfter { word := (encMEM sw 32#6 d a 6#3 o), sw := sw, ops := [dX d 4, aX a 2] } s
      (fun _ c ts s => s.loadsBegin c 16 (fun t => s.lanePlace c t a (o.toNat * 16)) ts) (loadLane 16 false d a o s.nextId)

/-- ST_B (R211). Generic store of a byte. -/
def execStB (sw : Bool) (d a : BitVec 7) (o : BitVec 8) (s : State) : Out :=
    execLanes { word := (encMEM sw 33#6 d a 0#3 o), sw := sw, ops := [dX d 1, aX a 2] } s (storeLane 1 d a o s.nextId)

/-- ST_H (R211). Generic store of a half. -/
def execStH (sw : Bool) (d a : BitVec 7) (o : BitVec 8) (s : State) : Out :=
    execLanes { word := (encMEM sw 33#6 d a 2#3 o), sw := sw, ops := [dX d 1, aX a 2] } s (storeLane 2 d a o s.nextId)

/-- ST_W (R211). Generic store of a word. -/
def execStW (sw : Bool) (d a : BitVec 7) (o : BitVec 8) (s : State) : Out :=
    execLanes { word := (encMEM sw 33#6 d a 4#3 o), sw := sw, ops := [dX d 1, aX a 2] } s (storeLane 4 d a o s.nextId)

/-- ST_D (R211). Generic store of 8 B. -/
def execStD (sw : Bool) (d a : BitVec 7) (o : BitVec 8) (s : State) : Out :=
    execLanes { word := (encMEM sw 33#6 d a 5#3 o), sw := sw, ops := [dX d 2, aX a 2] } s (storeLane 8 d a o s.nextId)

/-- ST_Q (R211). Generic store of 16 B as two 8 B halves. -/
def execStQ (sw : Bool) (d a : BitVec 7) (o : BitVec 8) (s : State) : Out :=
    execLanes { word := (encMEM sw 33#6 d a 6#3 o), sw := sw, ops := [dX d 4, aX a 2] } s (storeLane 16 d a o s.nextId)

/-- LDU_W (R212). Uniform generic load of a word, once per issue set. -/
def execLduW (sw : Bool) (d a : BitVec 7) (o : BitVec 8) (s : State) : Out :=
    execUniform { word := (encMEM sw 34#6 d a 4#3 o), sw := sw, ops := [dS d 1, aS a 2] } s (loadUniform 4 d a o)

/-- LDU_D (R212). Uniform generic load of 8 B. -/
def execLduD (sw : Bool) (d a : BitVec 7) (o : BitVec 8) (s : State) : Out :=
    execUniform { word := (encMEM sw 34#6 d a 5#3 o), sw := sw, ops := [dS d 2, aS a 2] } s (loadUniform 8 d a o)

/-- LDS_W (R213). Scratchpad load of a word with swizzle mode. -/
def execLdsW (sw : Bool) (d a : BitVec 7) (w : BitVec 3) (o : BitVec 8) (s : State) : Out :=
    execLanesAfter { word := (encMEM sw 35#6 d a w o), sw := sw, ops := [dX d 1, aX a 1] } s
      (fun _ c ts s => s.lanesBegin c 4 (ldsPlace 4 a w o c) ts) (ldsLane 4 d a w o)

/-- LDS_D (R213). Scratchpad load of 8 B. -/
def execLdsD (sw : Bool) (d a : BitVec 7) (w : BitVec 3) (o : BitVec 8) (s : State) : Out :=
    execLanesAfter { word := (encMEM sw 36#6 d a w o), sw := sw, ops := [dX d 2, aX a 1] } s
      (fun _ c ts s => s.lanesBegin c 8 (ldsPlace 8 a w o c) ts) (ldsLane 8 d a w o)

/-- LDS_Q (R213). Scratchpad load of 16 B. -/
def execLdsQ (sw : Bool) (d a : BitVec 7) (w : BitVec 3) (o : BitVec 8) (s : State) : Out :=
    execLanesAfter { word := (encMEM sw 37#6 d a w o), sw := sw, ops := [dX d 4, aX a 1] } s
      (fun _ c ts s => s.lanesBegin c 16 (ldsPlace 16 a w o c) ts) (ldsLane 16 d a w o)

/-- STS_W (R213). Scratchpad store of a word. -/
def execStsW (sw : Bool) (d a : BitVec 7) (w : BitVec 3) (o : BitVec 8) (s : State) : Out :=
    execLanes { word := (encMEM sw 38#6 d a w o), sw := sw, ops := [dX d 1, aX a 1] } s (stsLane 4 d a w o s.nextId)

/-- STS_D (R213). Scratchpad store of 8 B. -/
def execStsD (sw : Bool) (d a : BitVec 7) (w : BitVec 3) (o : BitVec 8) (s : State) : Out :=
    execLanes { word := (encMEM sw 39#6 d a w o), sw := sw, ops := [dX d 2, aX a 1] } s (stsLane 8 d a w o s.nextId)

/-- STS_Q (R213). Scratchpad store of 16 B. -/
def execStsQ (sw : Bool) (d a : BitVec 7) (w : BitVec 3) (o : BitVec 8) (s : State) : Out :=
    execLanes { word := (encMEM sw 40#6 d a w o), sw := sw, ops := [dX d 4, aX a 1] } s (stsLane 16 d a w o s.nextId)

/-- LDP_B (R214). Private load of a zero-extended byte. -/
def execLdpB (sw : Bool) (d a : BitVec 7) (o : BitVec 8) (s : State) : Out :=
    execLanes { word := (encMEM sw 41#6 d a 0#3 o), sw := sw, ops := [dX d 1, aX a 1] } s (ldpLane 1 false d a o s.nextId)

/-- LDP_SB (R214). Private load of a sign-extended byte. -/
def execLdpSb (sw : Bool) (d a : BitVec 7) (o : BitVec 8) (s : State) : Out :=
    execLanes { word := (encMEM sw 41#6 d a 1#3 o), sw := sw, ops := [dX d 1, aX a 1] } s (ldpLane 1 true d a o s.nextId)

/-- LDP_H (R214). Private load of a half. -/
def execLdpH (sw : Bool) (d a : BitVec 7) (o : BitVec 8) (s : State) : Out :=
    execLanes { word := (encMEM sw 41#6 d a 2#3 o), sw := sw, ops := [dX d 1, aX a 1] } s (ldpLane 2 false d a o s.nextId)

/-- LDP_SH (R214). Private load of a sign-extended half. -/
def execLdpSh (sw : Bool) (d a : BitVec 7) (o : BitVec 8) (s : State) : Out :=
    execLanes { word := (encMEM sw 41#6 d a 3#3 o), sw := sw, ops := [dX d 1, aX a 1] } s (ldpLane 2 true d a o s.nextId)

/-- LDP_W (R214). Private load of a word. -/
def execLdpW (sw : Bool) (d a : BitVec 7) (o : BitVec 8) (s : State) : Out :=
    execLanes { word := (encMEM sw 41#6 d a 4#3 o), sw := sw, ops := [dX d 1, aX a 1] } s (ldpLane 4 false d a o s.nextId)

/-- LDP_D (R214). Private load of 8 B. -/
def execLdpD (sw : Bool) (d a : BitVec 7) (o : BitVec 8) (s : State) : Out :=
    execLanes { word := (encMEM sw 41#6 d a 5#3 o), sw := sw, ops := [dX d 2, aX a 1] } s (ldpLane 8 false d a o s.nextId)

/-- LDP_Q (R214). Private load of 16 B. -/
def execLdpQ (sw : Bool) (d a : BitVec 7) (o : BitVec 8) (s : State) : Out :=
    execLanes { word := (encMEM sw 41#6 d a 6#3 o), sw := sw, ops := [dX d 4, aX a 1] } s (ldpLane 16 false d a o s.nextId)

/-- STP_B (R214). Private store of a byte. -/
def execStpB (sw : Bool) (d a : BitVec 7) (o : BitVec 8) (s : State) : Out :=
    execLanes { word := (encMEM sw 42#6 d a 0#3 o), sw := sw, ops := [dX d 1, aX a 1] } s fun _ => stpLane 1 d a o s.nextId

/-- STP_H (R214). Private store of a half. -/
def execStpH (sw : Bool) (d a : BitVec 7) (o : BitVec 8) (s : State) : Out :=
    execLanes { word := (encMEM sw 42#6 d a 2#3 o), sw := sw, ops := [dX d 1, aX a 1] } s fun _ => stpLane 2 d a o s.nextId

/-- STP_W (R214). Private store of a word. -/
def execStpW (sw : Bool) (d a : BitVec 7) (o : BitVec 8) (s : State) : Out :=
    execLanes { word := (encMEM sw 42#6 d a 4#3 o), sw := sw, ops := [dX d 1, aX a 1] } s fun _ => stpLane 4 d a o s.nextId

/-- STP_D (R214). Private store of 8 B. -/
def execStpD (sw : Bool) (d a : BitVec 7) (o : BitVec 8) (s : State) : Out :=
    execLanes { word := (encMEM sw 42#6 d a 5#3 o), sw := sw, ops := [dX d 2, aX a 1] } s fun _ => stpLane 8 d a o s.nextId

/-- STP_Q (R214). Private store of 16 B. -/
def execStpQ (sw : Bool) (d a : BitVec 7) (o : BitVec 8) (s : State) : Out :=
    execLanes { word := (encMEM sw 42#6 d a 6#3 o), sw := sw, ops := [dX d 4, aX a 1] } s fun _ => stpLane 16 d a o s.nextId

/-- ATOM_ADD_SI32 (R215). Atomic wrapping add returning the old value. -/
def execAtomAddSi32 (sw : Bool) (d a o : BitVec 7) (s : State) : Out :=
    execLanes { word := (encRRR sw 43#6 0#4 d a o), sw := sw, ops := atomOps 0 d a o } s (atomLane 0 false d a o s.nextId)

/-- ATOM_ADD_F32 (R215). Atomic fp32 add. -/
def execAtomAddF32 (sw : Bool) (d a o : BitVec 7) (s : State) : Out :=
    execLanes { word := (encRRR sw 43#6 1#4 d a o), sw := sw, ops := atomOps 1 d a o } s (atomLane 1 false d a o s.nextId)

/-- ATOM_MIN_SI32 (R215). Atomic signed minimum. -/
def execAtomMinSi32 (sw : Bool) (d a o : BitVec 7) (s : State) : Out :=
    execLanes { word := (encRRR sw 43#6 2#4 d a o), sw := sw, ops := atomOps 2 d a o } s (atomLane 2 false d a o s.nextId)

/-- ATOM_MAX_SI32 (R215). Atomic signed maximum. -/
def execAtomMaxSi32 (sw : Bool) (d a o : BitVec 7) (s : State) : Out :=
    execLanes { word := (encRRR sw 43#6 3#4 d a o), sw := sw, ops := atomOps 3 d a o } s (atomLane 3 false d a o s.nextId)

/-- ATOM_MIN_UI32 (R215). Atomic unsigned minimum. -/
def execAtomMinUi32 (sw : Bool) (d a o : BitVec 7) (s : State) : Out :=
    execLanes { word := (encRRR sw 43#6 4#4 d a o), sw := sw, ops := atomOps 4 d a o } s (atomLane 4 false d a o s.nextId)

/-- ATOM_MAX_UI32 (R215). Atomic unsigned maximum. -/
def execAtomMaxUi32 (sw : Bool) (d a o : BitVec 7) (s : State) : Out :=
    execLanes { word := (encRRR sw 43#6 5#4 d a o), sw := sw, ops := atomOps 5 d a o } s (atomLane 5 false d a o s.nextId)

/-- ATOM_AND (R215). Atomic and. -/
def execAtomAnd (sw : Bool) (d a o : BitVec 7) (s : State) : Out :=
    execLanes { word := (encRRR sw 43#6 6#4 d a o), sw := sw, ops := atomOps 6 d a o } s (atomLane 6 false d a o s.nextId)

/-- ATOM_OR (R215). Atomic or. -/
def execAtomOr (sw : Bool) (d a o : BitVec 7) (s : State) : Out :=
    execLanes { word := (encRRR sw 43#6 7#4 d a o), sw := sw, ops := atomOps 7 d a o } s (atomLane 7 false d a o s.nextId)

/-- ATOM_XOR (R215). Atomic xor. -/
def execAtomXor (sw : Bool) (d a o : BitVec 7) (s : State) : Out :=
    execLanes { word := (encRRR sw 43#6 8#4 d a o), sw := sw, ops := atomOps 8 d a o } s (atomLane 8 false d a o s.nextId)

/-- ATOM_EXCH_B32 (R215). Atomic 32-bit exchange. -/
def execAtomExchB32 (sw : Bool) (d a o : BitVec 7) (s : State) : Out :=
    execLanes { word := (encRRR sw 43#6 9#4 d a o), sw := sw, ops := atomOps 9 d a o } s (atomLane 9 false d a o s.nextId)

/-- ATOM_CAS_B32 (R215). Atomic 32-bit compare-and-swap. -/
def execAtomCasB32 (sw : Bool) (d a o : BitVec 7) (s : State) : Out :=
    execLanes { word := (encRRR sw 43#6 10#4 d a o), sw := sw, ops := atomOps 10 d a o } s (atomLane 10 false d a o s.nextId)

/-- ATOM_ADD_UI64 (R215). Atomic 64-bit add. -/
def execAtomAddUi64 (sw : Bool) (d a o : BitVec 7) (s : State) : Out :=
    execLanes { word := (encRRR sw 43#6 11#4 d a o), sw := sw, ops := atomOps 11 d a o } s (atomLane 11 false d a o s.nextId)

/-- ATOM_EXCH_B64 (R215). Atomic 64-bit exchange. -/
def execAtomExchB64 (sw : Bool) (d a o : BitVec 7) (s : State) : Out :=
    execLanes { word := (encRRR sw 43#6 12#4 d a o), sw := sw, ops := atomOps 12 d a o } s (atomLane 12 false d a o s.nextId)

/-- ATOM_CAS_B64 (R215). Atomic 64-bit compare-and-swap. -/
def execAtomCasB64 (sw : Bool) (d a o : BitVec 7) (s : State) : Out :=
    execLanes { word := (encRRR sw 43#6 13#4 d a o), sw := sw, ops := atomOps 13 d a o } s (atomLane 13 false d a o s.nextId)

/-- ATOM_LDX (R216). Synchronising load, relaxed or acquire. -/
def execAtomLdx (sw : Bool) (d a o : BitVec 7) (s : State) : Out :=
    execLanes { word := (encRRR sw 43#6 14#4 d a o), sw := sw, ops := atomOps 14 d a o } s (atomLane 14 false d a o s.nextId)

/-- ATOM_STX (R215). Synchronising store, relaxed or release. -/
def execAtomStx (sw : Bool) (d a o : BitVec 7) (s : State) : Out :=
    execLanes { word := (encRRR sw 43#6 15#4 d a o), sw := sw, ops := atomOps 15 d a o } s (atomLane 15 false d a o s.nextId)

/-- MRED_ADD_SI32 (R218). Reduction to memory without return: integer add. -/
def execMredAddSi32 (sw : Bool) (d a o : BitVec 7) (s : State) : Out :=
    execLanes { word := (encRRR sw 46#6 0#4 d a o), sw := sw, ops := atomOps 0 d a o } s (atomLane 0 true d a o s.nextId)

/-- MRED_ADD_F32 (R218). Reduction fp32 add, no flag. -/
def execMredAddF32 (sw : Bool) (d a o : BitVec 7) (s : State) : Out :=
    execLanes { word := (encRRR sw 46#6 1#4 d a o), sw := sw, ops := atomOps 1 d a o } s (atomLane 1 true d a o s.nextId)

/-- MRED_MIN_SI32 (R218). Reduction signed minimum. -/
def execMredMinSi32 (sw : Bool) (d a o : BitVec 7) (s : State) : Out :=
    execLanes { word := (encRRR sw 46#6 2#4 d a o), sw := sw, ops := atomOps 2 d a o } s (atomLane 2 true d a o s.nextId)

/-- MRED_MAX_SI32 (R218). Reduction signed maximum. -/
def execMredMaxSi32 (sw : Bool) (d a o : BitVec 7) (s : State) : Out :=
    execLanes { word := (encRRR sw 46#6 3#4 d a o), sw := sw, ops := atomOps 3 d a o } s (atomLane 3 true d a o s.nextId)

/-- MRED_MIN_UI32 (R218). Reduction unsigned minimum. -/
def execMredMinUi32 (sw : Bool) (d a o : BitVec 7) (s : State) : Out :=
    execLanes { word := (encRRR sw 46#6 4#4 d a o), sw := sw, ops := atomOps 4 d a o } s (atomLane 4 true d a o s.nextId)

/-- MRED_MAX_UI32 (R218). Reduction unsigned maximum. -/
def execMredMaxUi32 (sw : Bool) (d a o : BitVec 7) (s : State) : Out :=
    execLanes { word := (encRRR sw 46#6 5#4 d a o), sw := sw, ops := atomOps 5 d a o } s (atomLane 5 true d a o s.nextId)

/-- MRED_AND (R218). Reduction and. -/
def execMredAnd (sw : Bool) (d a o : BitVec 7) (s : State) : Out :=
    execLanes { word := (encRRR sw 46#6 6#4 d a o), sw := sw, ops := atomOps 6 d a o } s (atomLane 6 true d a o s.nextId)

/-- MRED_OR (R218). Reduction or. -/
def execMredOr (sw : Bool) (d a o : BitVec 7) (s : State) : Out :=
    execLanes { word := (encRRR sw 46#6 7#4 d a o), sw := sw, ops := atomOps 7 d a o } s (atomLane 7 true d a o s.nextId)

/-- MRED_XOR (R218). Reduction xor. -/
def execMredXor (sw : Bool) (d a o : BitVec 7) (s : State) : Out :=
    execLanes { word := (encRRR sw 46#6 8#4 d a o), sw := sw, ops := atomOps 8 d a o } s (atomLane 8 true d a o s.nextId)

end Sys2Proof.Machine
end

