-- ==== Sys2Proof/Machine/Float.lean ====
section
/-! DEFINITION. fp32 and packed arithmetic, conversion, special functions and per-lane dot products
(R178 to R186, R230 to R232). -/

namespace Sys2Proof.Machine

/-! ## Shapes -/

/-- Set F on thread registers (major 0x10); `reads` says whether the old xD is an operand (R178). -/
def opSetF (w : Word) (fn : SetF) (reads sw : Bool) (d a b : BitVec 7) (s : State) : Out :=
  execPure { word := w, sw := sw, ops := [{ dX d 1 with mark := reads }, (aX a 1).fp, (bX b 1).fp] } s fun _ t =>
    let r := setF32 fn (t.x a.toNat) (t.x b.toNat) (t.x d.toNat)
    (t.putX d.toNat r.1).flag r.2

/-- Set F with a uniform B operand (major 0x11). -/
def opSetFPaired (w : Word) (fn : SetF) (reads sw : Bool) (d a b : BitVec 7) (s : State) : Out :=
  execPure { word := w, sw := sw, ops := [{ dX d 1 with mark := reads }, (aX a 1).fp, (bS b 1).fp] } s fun c t =>
    let r := setF32 fn (t.x a.toNat) (c.s b.toNat) (t.x d.toNat)
    (t.putX d.toNat r.1).flag r.2

/-- Set F on one operand (R179). -/
def opSetFUnary (w : Word) (fn : SetF) (sw : Bool) (d a : BitVec 7) (s : State) : Out :=
  execPure { word := w, sw := sw, ops := [dX d 1, (aX a 1).fp] } s fun _ t =>
    let r := setF32 fn (t.x a.toNat) 0 0
    (t.putX d.toNat r.1).flag r.2

/-- fp32 comparison into a predicate (R180). -/
def opFcmp (w : Word) (fn : Nat) (sw : Bool) (p : BitVec 3) (a b : BitVec 7) (s : State) : Out :=
  execPure { word := w, sw := sw, ops := [(aX a 1).fp, (bX b 1).fp] } s fun _ t =>
    let r := fcmp32 fn (t.x a.toNat) (t.x b.toNat)
    { t.flag r.2 with preds := predSet t.preds p.toNat r.1 }

/-- Packed halves (R181). -/
def opPacked (w : Word) (f : Fmt) (fn : SetF) (reads sw : Bool) (d a b : BitVec 7) (s : State) : Out :=
  execPure { word := w, sw := sw, ops := [{ dX d 1 with mark := reads }, (aX a 1).fp, (bX b 1).fp] } s fun _ t =>
    let r := setFPacked f fn (t.x a.toNat) (t.x b.toNat) (t.x d.toNat)
    (t.putX d.toNat r.1).flag r.2

/-- Formats whose registers a conversion checks for markers (R87, R183). -/
def markedFmt (code : Nat) : Bool := decide (code ≤ 4)

/-- Conversion (R182, R183). -/
def opCvt (w : Word) (src dst rm : Nat) (pk sw : Bool) (d a : BitVec 7) (s : State) : Out :=
  let n := cvtSrcRegs src dst pk
  execPure { word := w, sw := sw, ops := [dX d (cvtDstRegs src dst pk), { aX a n with mark := markedFmt src }] } s
    fun _ t =>
      if pk then
        let r := cvtPacked src dst rm ((List.range n).map fun k => t.x (a.toNat + k))
        (t.putXs d.toNat r.1).flag r.2
      else
        let r := cvtScalar src dst rm (t.x a.toNat)
        (t.putX d.toNat r.1).flag r.2

/-- A special function: the flags are set at issue, the result lands later (R152, R185). -/
def opSpecial (w : Word) (fn : Spec) (sw : Bool) (d a : BitVec 7) (s : State) : Out :=
  execLanes { word := w, sw := sw, ops := [dX d 1, (aX a 1).fp] } s fun e _ t s =>
    let r := special fn (t.x a.toNat)
    ((s.onLane e.uid t.lane fun t => t.flag r.2).inFlight e.uid t.lane (e.pcI t) [(t.wb + d.toNat, r.1)] none, .done)

/-- A dot product (R230); `elems` says whether A and B are checked for markers, `acc` whether xD is (R232). -/
def opDot (w : Word) (k : Dot) (elems acc sw : Bool) (d a b : BitVec 7) (s : State) : Out :=
  execPure { word := w, sw := sw,
             ops := [{ dX d 1 with mark := acc }, { aX a 1 with mark := elems }, { bX b 1 with mark := elems }] } s
    fun _ t =>
      let r := dot k (t.x d.toNat) (t.x a.toNat) (t.x b.toNat)
      (t.putX d.toNat r.1).flag r.2

/-- A scaled dot product (R231): scales in x(D + 1) and x(D + 2); an odd `k` is refused where `odd` is false. -/
def opDotScaled (w : Word) (f : Fmt) (elems odd sw : Bool) (k : BitVec 2) (d a b : BitVec 7) (s : State) : Out :=
  execThreads { word := w, sw := sw,
                ops := [dX d 3, (dX d 1).fp, { aX a 1 with mark := elems }, { bX b 1 with mark := elems }] } s
    fun e _ t =>
      if !odd && k.getLsbD 0 then .error (e.ill .operand)
      else
        let r := dotScaled f k.toNat (t.x d.toNat) (t.x a.toNat) (t.x b.toNat) (t.x (d.toNat + 1)) (t.x (d.toNat + 2))
        .ok ((t.putX d.toNat r.1).flag r.2)

/-! ## Set F -/

/-- FADD (R178). fp32 add, rounded to nearest even. -/
def execFadd (sw : Bool) (d a b : BitVec 7) (s : State) : Out :=
  opSetF (encRRR sw 16#6 0#4 d a b) .fadd false sw d a b s

/-- FSUB (R178). fp32 subtract. -/
def execFsub (sw : Bool) (d a b : BitVec 7) (s : State) : Out :=
  opSetF (encRRR sw 16#6 1#4 d a b) .fsub false sw d a b s

/-- FMUL (R178). fp32 multiply. -/
def execFmul (sw : Bool) (d a b : BitVec 7) (s : State) : Out :=
  opSetF (encRRR sw 16#6 2#4 d a b) .fmul false sw d a b s

/-- FFMA (R178). fp32 fused multiply-add into xD, rounded once. -/
def execFfma (sw : Bool) (d a b : BitVec 7) (s : State) : Out :=
  opSetF (encRRR sw 16#6 3#4 d a b) .ffma true sw d a b s

/-- FMIN (R179). fp32 minimum, -0 below +0. -/
def execFmin (sw : Bool) (d a b : BitVec 7) (s : State) : Out :=
  opSetF (encRRR sw 16#6 4#4 d a b) .fmin false sw d a b s

/-- FMAX (R179). fp32 maximum. -/
def execFmax (sw : Bool) (d a b : BitVec 7) (s : State) : Out :=
  opSetF (encRRR sw 16#6 5#4 d a b) .fmax false sw d a b s

/-- FDIV (R178). fp32 divide. -/
def execFdiv (sw : Bool) (d a b : BitVec 7) (s : State) : Out :=
  opSetF (encRRR sw 16#6 6#4 d a b) .fdiv false sw d a b s

/-- FSQRT (R178). fp32 square root. -/
def execFsqrt (sw : Bool) (d a : BitVec 7) (s : State) : Out :=
  opSetFUnary (encRRR sw 16#6 7#4 d a 0#7) .fsqrt sw d a s

/-- FABS (R179). Clears the sign bit. -/
def execFabs (sw : Bool) (d a : BitVec 7) (s : State) : Out := opSetFUnary (encRRR sw 16#6 8#4 d a 0#7) .fabs sw d a s

/-- FNEG (R179). Inverts the sign bit. -/
def execFneg (sw : Bool) (d a : BitVec 7) (s : State) : Out := opSetFUnary (encRRR sw 16#6 9#4 d a 0#7) .fneg sw d a s

/-- FADD_PAIRED (R178). fadd with a uniform B operand. -/
def execFaddPaired (sw : Bool) (d a b : BitVec 7) (s : State) : Out :=
  opSetFPaired (encRRR sw 17#6 0#4 d a b) .fadd false sw d a b s

/-- FSUB_PAIRED (R178). fsub with a uniform B operand. -/
def execFsubPaired (sw : Bool) (d a b : BitVec 7) (s : State) : Out :=
  opSetFPaired (encRRR sw 17#6 1#4 d a b) .fsub false sw d a b s

/-- FMUL_PAIRED (R178). fmul with a uniform B operand. -/
def execFmulPaired (sw : Bool) (d a b : BitVec 7) (s : State) : Out :=
  opSetFPaired (encRRR sw 17#6 2#4 d a b) .fmul false sw d a b s

/-- FFMA_PAIRED (R178). ffma with a uniform B operand. -/
def execFfmaPaired (sw : Bool) (d a b : BitVec 7) (s : State) : Out :=
  opSetFPaired (encRRR sw 17#6 3#4 d a b) .ffma true sw d a b s

/-- FMIN_PAIRED (R179). fmin with a uniform B operand. -/
def execFminPaired (sw : Bool) (d a b : BitVec 7) (s : State) : Out :=
  opSetFPaired (encRRR sw 17#6 4#4 d a b) .fmin false sw d a b s

/-- FMAX_PAIRED (R179). fmax with a uniform B operand. -/
def execFmaxPaired (sw : Bool) (d a b : BitVec 7) (s : State) : Out :=
  opSetFPaired (encRRR sw 17#6 5#4 d a b) .fmax false sw d a b s

/-- FDIV_PAIRED (R178). fdiv with a uniform B operand. -/
def execFdivPaired (sw : Bool) (d a b : BitVec 7) (s : State) : Out :=
  opSetFPaired (encRRR sw 17#6 6#4 d a b) .fdiv false sw d a b s

/-- FCMP_EQ (R180). fp32 equal into p. -/
def execFcmpEq (sw : Bool) (p : BitVec 3) (a b : BitVec 7) (s : State) : Out :=
  opFcmp (encRRR sw 18#6 0#4 (0#4 ++ p) a b) 0 sw p a b s

/-- FCMP_NE (R180). fp32 not-equal into p. -/
def execFcmpNe (sw : Bool) (p : BitVec 3) (a b : BitVec 7) (s : State) : Out :=
  opFcmp (encRRR sw 18#6 1#4 (0#4 ++ p) a b) 1 sw p a b s

/-- FCMP_LT (R180). fp32 less-than into p. -/
def execFcmpLt (sw : Bool) (p : BitVec 3) (a b : BitVec 7) (s : State) : Out :=
  opFcmp (encRRR sw 18#6 2#4 (0#4 ++ p) a b) 2 sw p a b s

/-- FCMP_LE (R180). fp32 less-or-equal into p. -/
def execFcmpLe (sw : Bool) (p : BitVec 3) (a b : BitVec 7) (s : State) : Out :=
  opFcmp (encRRR sw 18#6 3#4 (0#4 ++ p) a b) 3 sw p a b s

/-- FCMP_GT (R180). fp32 greater-than into p. -/
def execFcmpGt (sw : Bool) (p : BitVec 3) (a b : BitVec 7) (s : State) : Out :=
  opFcmp (encRRR sw 18#6 4#4 (0#4 ++ p) a b) 4 sw p a b s

/-- FCMP_GE (R180). fp32 greater-or-equal into p. -/
def execFcmpGe (sw : Bool) (p : BitVec 3) (a b : BitVec 7) (s : State) : Out :=
  opFcmp (encRRR sw 18#6 5#4 (0#4 ++ p) a b) 5 sw p a b s

/-- HADD_F16 (R181). Packed fp16 add. -/
def execHaddF16 (sw : Bool) (d a b : BitVec 7) (s : State) : Out :=
  opPacked (encRRR sw 19#6 0#4 d a b) fmtF16 .fadd false sw d a b s

/-- HSUB_F16 (R181). Packed fp16 subtract. -/
def execHsubF16 (sw : Bool) (d a b : BitVec 7) (s : State) : Out :=
  opPacked (encRRR sw 19#6 1#4 d a b) fmtF16 .fsub false sw d a b s

/-- HMUL_F16 (R181). Packed fp16 multiply. -/
def execHmulF16 (sw : Bool) (d a b : BitVec 7) (s : State) : Out :=
  opPacked (encRRR sw 19#6 2#4 d a b) fmtF16 .fmul false sw d a b s

/-- HFMA_F16 (R181). Packed fp16 fused multiply-add. -/
def execHfmaF16 (sw : Bool) (d a b : BitVec 7) (s : State) : Out :=
  opPacked (encRRR sw 19#6 3#4 d a b) fmtF16 .ffma true sw d a b s

/-- HMIN_F16 (R181). Packed fp16 minimum. -/
def execHminF16 (sw : Bool) (d a b : BitVec 7) (s : State) : Out :=
  opPacked (encRRR sw 19#6 4#4 d a b) fmtF16 .fmin false sw d a b s

/-- HMAX_F16 (R181). Packed fp16 maximum. -/
def execHmaxF16 (sw : Bool) (d a b : BitVec 7) (s : State) : Out :=
  opPacked (encRRR sw 19#6 5#4 d a b) fmtF16 .fmax false sw d a b s

/-- HADD_BF16 (R181). Packed bf16 add. -/
def execHaddBf16 (sw : Bool) (d a b : BitVec 7) (s : State) : Out :=
  opPacked (encRRR sw 19#6 8#4 d a b) fmtBF16 .fadd false sw d a b s

/-- HSUB_BF16 (R181). Packed bf16 subtract. -/
def execHsubBf16 (sw : Bool) (d a b : BitVec 7) (s : State) : Out :=
  opPacked (encRRR sw 19#6 9#4 d a b) fmtBF16 .fsub false sw d a b s

/-- HMUL_BF16 (R181). Packed bf16 multiply. -/
def execHmulBf16 (sw : Bool) (d a b : BitVec 7) (s : State) : Out :=
  opPacked (encRRR sw 19#6 10#4 d a b) fmtBF16 .fmul false sw d a b s

/-- HFMA_BF16 (R181). Packed bf16 fused multiply-add. -/
def execHfmaBf16 (sw : Bool) (d a b : BitVec 7) (s : State) : Out :=
  opPacked (encRRR sw 19#6 11#4 d a b) fmtBF16 .ffma true sw d a b s

/-- HMIN_BF16 (R181). Packed bf16 minimum. -/
def execHminBf16 (sw : Bool) (d a b : BitVec 7) (s : State) : Out :=
  opPacked (encRRR sw 19#6 12#4 d a b) fmtBF16 .fmin false sw d a b s

/-- HMAX_BF16 (R181). Packed bf16 maximum. -/
def execHmaxBf16 (sw : Bool) (d a b : BitVec 7) (s : State) : Out :=
  opPacked (encRRR sw 19#6 13#4 d a b) fmtBF16 .fmax false sw d a b s

/-! ## Conversion and special functions -/

/-- CVT (R182). Converts scalar or packed elements between formats with a rounding mode. -/
def execCvt (sw : Bool) (f : BitVec 4) (d a : BitVec 7) (t : BitVec 4) (k : Bool) (r : BitVec 2) (s : State) : Out :=
  opCvt (encRRR sw 20#6 f d a (t ++ BitVec.ofBool k ++ r)) f.toNat t.toNat r.toNat k sw d a s

/-- RECIP (R185). Correctly rounded reciprocal; variable latency. -/
def execRecip (sw : Bool) (d a : BitVec 7) (s : State) : Out := opSpecial (encRRR sw 21#6 0#4 d a 0#7) .recip sw d a s

/-- RSQRT (R185). Reciprocal square root. -/
def execRsqrt (sw : Bool) (d a : BitVec 7) (s : State) : Out := opSpecial (encRRR sw 21#6 1#4 d a 0#7) .rsqrt sw d a s

/-- EXP2 (R185). Base-2 exponential. -/
def execExp2 (sw : Bool) (d a : BitVec 7) (s : State) : Out := opSpecial (encRRR sw 21#6 2#4 d a 0#7) .exp2 sw d a s

/-- LOG2 (R185). Base-2 logarithm. -/
def execLog2 (sw : Bool) (d a : BitVec 7) (s : State) : Out := opSpecial (encRRR sw 21#6 3#4 d a 0#7) .log2 sw d a s

/-- SIN (R185). Sine in radians. -/
def execSin (sw : Bool) (d a : BitVec 7) (s : State) : Out := opSpecial (encRRR sw 21#6 4#4 d a 0#7) .sin sw d a s

/-- COS (R185). Cosine in radians. -/
def execCos (sw : Bool) (d a : BitVec 7) (s : State) : Out := opSpecial (encRRR sw 21#6 5#4 d a 0#7) .cos sw d a s

/-- TANH (R185). Hyperbolic tangent. -/
def execTanh (sw : Bool) (d a : BitVec 7) (s : State) : Out := opSpecial (encRRR sw 21#6 6#4 d a 0#7) .tanh sw d a s

/-- SIGM (R185). Logistic sigmoid. -/
def execSigm (sw : Bool) (d a : BitVec 7) (s : State) : Out := opSpecial (encRRR sw 21#6 7#4 d a 0#7) .sigm sw d a s

/-! ## Dot products -/

/-- DP4_SI8 (R230). Four-term si8 dot product promoted into a si32 accumulator. -/
def execDp4Si8 (sw : Bool) (d a b : BitVec 7) (s : State) : Out :=
  opDot (encRRR sw 22#6 0#4 d a b) .si8 false false sw d a b s

/-- DP4_SI8UI8 (R230). si8 × ui8 dot product. -/
def execDp4Si8ui8 (sw : Bool) (d a b : BitVec 7) (s : State) : Out :=
  opDot (encRRR sw 22#6 1#4 d a b) .si8ui8 false false sw d a b s

/-- DP8_SI4 (R230). Eight-term si4 dot product. -/
def execDp8Si4 (sw : Bool) (d a b : BitVec 7) (s : State) : Out :=
  opDot (encRRR sw 22#6 2#4 d a b) .si4 false false sw d a b s

/-- DP8_SI4UI4 (R230). si4 × ui4 dot product. -/
def execDp8Si4ui4 (sw : Bool) (d a b : BitVec 7) (s : State) : Out :=
  opDot (encRRR sw 22#6 3#4 d a b) .si4ui4 false false sw d a b s

/-- DP4_F8A (R230). f8a dot product summed in the order of R91. -/
def execDp4F8a (sw : Bool) (d a b : BitVec 7) (s : State) : Out :=
  opDot (encRRR sw 22#6 4#4 d a b) .f8a true true sw d a b s

/-- DP4_F8B (R230). f8b dot product. -/
def execDp4F8b (sw : Bool) (d a b : BitVec 7) (s : State) : Out :=
  opDot (encRRR sw 22#6 5#4 d a b) .f8b true true sw d a b s

/-- DP8_F4 (R230). f4 dot product. -/
def execDp8F4 (sw : Bool) (d a b : BitVec 7) (s : State) : Out :=
  opDot (encRRR sw 22#6 6#4 d a b) .f4 false true sw d a b s

/-- DP2_BF16 (R230). bf16 dot product. -/
def execDp2Bf16 (sw : Bool) (d a b : BitVec 7) (s : State) : Out :=
  opDot (encRRR sw 22#6 7#4 d a b) .bf16 true true sw d a b s

/-- DP2_F16 (R230). fp16 dot product. -/
def execDp2F16 (sw : Bool) (d a b : BitVec 7) (s : State) : Out :=
  opDot (encRRR sw 22#6 8#4 d a b) .f16 true true sw d a b s

/-- DP4_F8A_SC (R231). Scaled f8a dot product with scales in x(D+1), x(D+2) byte k. -/
def execDp4F8aSc (sw : Bool) (k : BitVec 2) (d a b : BitVec 7) (s : State) : Out :=
  opDotScaled (encRRR sw 23#6 (0#2 ++ k) d a b) fmtF8a true true sw k d a b s

/-- DP4_F8B_SC (R231). Scaled f8b dot product. -/
def execDp4F8bSc (sw : Bool) (k : BitVec 2) (d a b : BitVec 7) (s : State) : Out :=
  opDotScaled (encRRR sw 23#6 (1#2 ++ k) d a b) fmtF8b true true sw k d a b s

/-- DP8_F4_SC (R231). Scaled f4 dot product using bytes k and k + 1. -/
def execDp8F4Sc (sw : Bool) (k : BitVec 2) (d a b : BitVec 7) (s : State) : Out :=
  opDotScaled (encRRR sw 23#6 (2#2 ++ k) d a b) fmtF4 false false sw k d a b s

end Sys2Proof.Machine
end

