-- ==== Sys2Proof/Machine/Flow.lean ====
section
/-! DEFINITION. Results that land, accepted stores that are performed, and bins that age and are released. -/

namespace Sys2Proof.Machine

/-- RESULT_LAND (R152). A variable-latency result lands and its pending bit clears. -/
def execResultLand (id : Nat) (s : State) : Out := .next (s.landNow id)

/-- STORE_PERFORM (R209). An accepted store or reduction is performed at memory. -/
def execStorePerform (id : Nat) (s : State) : Out :=
  match s.stores.find? (·.id == id) with
  | none => .next s
  | some _ => .next (s.performStores fun (p : PStore) => p.id == id)

/-- BIN_AGED (R29). A reform bin's oldest thread reaches REFAGE clk. -/
def execBinAged (qtr bin : Nat) (s : State) : Out :=
  .next (s.onQuarter qtr fun x => { x with
    bins := x.bins.map fun (b : Bin) => if b.id == bin then { b with aged := true } else b })

/-- BIN_RELEASE (R30). A quarter releases one reform bin as an issue set. -/
def execBinRelease (qtr : Nat) (s : State) : Out :=
  match s.nextBin qtr with
  | none => .next s
  | some b => .next (s.releaseBin qtr b)

end Sys2Proof.Machine
end

