-- ==== Sys2Proof/Machine/Integer.lean ====
section
/-! DEFINITION. Integer set I on thread, paired and uniform registers; immediates, moves, comparisons, address
arithmetic (R171 to R177). -/

namespace Sys2Proof.Machine

/-! ## Shapes -/

/-- Set I on thread registers (major 0x01). -/
def opSetI (w : Word) (fn : SetI) (sw : Bool) (d a b : BitVec 7) (s : State) : Out :=
  execPure { word := w, sw := sw, ops := [dX d 1, aX a 1, bX b 1] } s fun _ t =>
    let r := setI fn (t.x a.toNat) (t.x b.toNat)
    (t.putX d.toNat r.1).flag r.2

/-- Set I with a uniform B operand (major 0x02). -/
def opSetIPaired (w : Word) (fn : SetI) (sw : Bool) (d a b : BitVec 7) (s : State) : Out :=
  execPure { word := w, sw := sw, ops := [dX d 1, aX a 1, bS b 1] } s fun c t =>
    let r := setI fn (t.x a.toNat) (c.s b.toNat)
    (t.putX d.toNat r.1).flag r.2

/-- Set I on uniform registers, once for the issue set (major 0x09, R56, R172). -/
def opSetIUniform (w : Word) (fn : SetI) (sw : Bool) (d a b : BitVec 7) (s : State) : Out :=
  execCrew { word := w, sw := sw, ops := [dS d 1, aS a 1, bS b 1] } s fun c =>
    let r := setI fn (c.s a.toNat) (c.s b.toNat)
    (c.putS d.toNat r.1, r.2)

/-- A comparison of thread registers into a predicate (R175). -/
def opCmp (w : Word) (fn : SetC) (sw : Bool) (p : BitVec 3) (a b : BitVec 7) (s : State) : Out :=
  execPure { word := w, sw := sw, ops := [aX a 1, bX b 1] } s fun _ t =>
    { t with preds := predSet t.preds p.toNat (setC fn (t.x a.toNat) (t.x b.toNat)) }

/-- A comparison of uniform registers into a uniform predicate (R175). -/
def opUcmp (w : Word) (fn : SetC) (sw : Bool) (p : BitVec 3) (a b : BitVec 7) (s : State) : Out :=
  execCrew { word := w, sw := sw, ops := [aS a 1, bS b 1], qs := [p.toNat] } s fun c =>
    ({ c with qpreds := predSet c.qpreds p.toNat (setC fn (c.s a.toNat) (c.s b.toNat)) }, 0)

/-- A function of one register (R176). -/
def opUnary (w : Word) (f : Word → Word) (sw : Bool) (d a : BitVec 7) (s : State) : Out :=
  execPure { word := w, sw := sw, ops := [dX d 1, aX a 1] } s fun _ t => t.putX d.toNat (f (t.x a.toNat))

/-- A register pair plus a 64-bit number (R177). -/
def Thread.addPair (t : Thread) (d a : Nat) (v : BitVec 64) : Thread :=
  let r := t.x64 a + v
  t.putXs d [lo32 r, hi32 r]

/-- movh: bits [31:18] from the immediate, [17:0] kept (R174). -/
def movhWord (i : BitVec 14) (old : Word) : Word := i ++ old.extractLsb' 0 18

/-! ## Set I -/

/-- ADD (R173). Writes (a + b) mod 2^32 of two thread registers. -/
def execAdd (sw : Bool) (d a b : BitVec 7) (s : State) : Out := opSetI (encRRR sw 1#6 0#4 d a b) .add sw d a b s

/-- SUB (R173). Writes (a - b) mod 2^32. -/
def execSub (sw : Bool) (d a b : BitVec 7) (s : State) : Out := opSetI (encRRR sw 1#6 1#4 d a b) .sub sw d a b s

/-- MUL (R173). Writes the low 32 bits of a × b. -/
def execMul (sw : Bool) (d a b : BitVec 7) (s : State) : Out := opSetI (encRRR sw 1#6 2#4 d a b) .mul sw d a b s

/-- MULHI_SI32 (R173). Writes the high word of the signed 64-bit product. -/
def execMulhiSi32 (sw : Bool) (d a b : BitVec 7) (s : State) : Out :=
  opSetI (encRRR sw 1#6 3#4 d a b) .mulhiS sw d a b s

/-- MULHI_UI32 (R173). Writes the high word of the unsigned 64-bit product. -/
def execMulhiUi32 (sw : Bool) (d a b : BitVec 7) (s : State) : Out :=
  opSetI (encRRR sw 1#6 4#4 d a b) .mulhiU sw d a b s

/-- AND (R173). Writes the bitwise and. -/
def execAnd (sw : Bool) (d a b : BitVec 7) (s : State) : Out := opSetI (encRRR sw 1#6 5#4 d a b) .and sw d a b s

/-- OR (R173). Writes the bitwise or. -/
def execOr (sw : Bool) (d a b : BitVec 7) (s : State) : Out := opSetI (encRRR sw 1#6 6#4 d a b) .or sw d a b s

/-- XOR (R173). Writes the bitwise xor. -/
def execXor (sw : Bool) (d a b : BitVec 7) (s : State) : Out := opSetI (encRRR sw 1#6 7#4 d a b) .xor sw d a b s

/-- SHL (R173). Shifts left; a count of 32 or more gives 0. -/
def execShl (sw : Bool) (d a b : BitVec 7) (s : State) : Out := opSetI (encRRR sw 1#6 8#4 d a b) .shl sw d a b s

/-- SHR (R173). Shifts right with zeros. -/
def execShr (sw : Bool) (d a b : BitVec 7) (s : State) : Out := opSetI (encRRR sw 1#6 9#4 d a b) .shr sw d a b s

/-- SAR (R173). Shifts right with copies of the sign. -/
def execSar (sw : Bool) (d a b : BitVec 7) (s : State) : Out := opSetI (encRRR sw 1#6 10#4 d a b) .sar sw d a b s

/-- MIN_SI32 (R173). Writes the signed minimum. -/
def execMinSi32 (sw : Bool) (d a b : BitVec 7) (s : State) : Out := opSetI (encRRR sw 1#6 11#4 d a b) .minS sw d a b s

/-- MAX_SI32 (R173). Writes the signed maximum. -/
def execMaxSi32 (sw : Bool) (d a b : BitVec 7) (s : State) : Out := opSetI (encRRR sw 1#6 12#4 d a b) .maxS sw d a b s

/-- MIN_UI32 (R173). Writes the unsigned minimum. -/
def execMinUi32 (sw : Bool) (d a b : BitVec 7) (s : State) : Out := opSetI (encRRR sw 1#6 13#4 d a b) .minU sw d a b s

/-- MAX_UI32 (R173). Writes the unsigned maximum. -/
def execMaxUi32 (sw : Bool) (d a b : BitVec 7) (s : State) : Out := opSetI (encRRR sw 1#6 14#4 d a b) .maxU sw d a b s

/-- ADDS_SI32 (R173). Saturating signed add; sets SAT when it clamps. -/
def execAddsSi32 (sw : Bool) (d a b : BitVec 7) (s : State) : Out :=
  opSetI (encRRR sw 1#6 15#4 d a b) .addsS sw d a b s

/-- ADD_PAIRED (R173). add with a uniform B operand. -/
def execAddPaired (sw : Bool) (d a b : BitVec 7) (s : State) : Out :=
  opSetIPaired (encRRR sw 2#6 0#4 d a b) .add sw d a b s

/-- SUB_PAIRED (R173). sub with a uniform B operand. -/
def execSubPaired (sw : Bool) (d a b : BitVec 7) (s : State) : Out :=
  opSetIPaired (encRRR sw 2#6 1#4 d a b) .sub sw d a b s

/-- MUL_PAIRED (R173). mul with a uniform B operand. -/
def execMulPaired (sw : Bool) (d a b : BitVec 7) (s : State) : Out :=
  opSetIPaired (encRRR sw 2#6 2#4 d a b) .mul sw d a b s

/-- MULHI_SI32_PAIRED (R173). mulhi.si32 with a uniform B operand. -/
def execMulhiSi32Paired (sw : Bool) (d a b : BitVec 7) (s : State) : Out :=
  opSetIPaired (encRRR sw 2#6 3#4 d a b) .mulhiS sw d a b s

/-- MULHI_UI32_PAIRED (R173). mulhi.ui32 with a uniform B operand. -/
def execMulhiUi32Paired (sw : Bool) (d a b : BitVec 7) (s : State) : Out :=
  opSetIPaired (encRRR sw 2#6 4#4 d a b) .mulhiU sw d a b s

/-- AND_PAIRED (R173). and with a uniform B operand. -/
def execAndPaired (sw : Bool) (d a b : BitVec 7) (s : State) : Out :=
  opSetIPaired (encRRR sw 2#6 5#4 d a b) .and sw d a b s

/-- OR_PAIRED (R173). or with a uniform B operand. -/
def execOrPaired (sw : Bool) (d a b : BitVec 7) (s : State) : Out :=
  opSetIPaired (encRRR sw 2#6 6#4 d a b) .or sw d a b s

/-- XOR_PAIRED (R173). xor with a uniform B operand. -/
def execXorPaired (sw : Bool) (d a b : BitVec 7) (s : State) : Out :=
  opSetIPaired (encRRR sw 2#6 7#4 d a b) .xor sw d a b s

/-- SHL_PAIRED (R173). shl with a uniform B operand. -/
def execShlPaired (sw : Bool) (d a b : BitVec 7) (s : State) : Out :=
  opSetIPaired (encRRR sw 2#6 8#4 d a b) .shl sw d a b s

/-- SHR_PAIRED (R173). shr with a uniform B operand. -/
def execShrPaired (sw : Bool) (d a b : BitVec 7) (s : State) : Out :=
  opSetIPaired (encRRR sw 2#6 9#4 d a b) .shr sw d a b s

/-- SAR_PAIRED (R173). sar with a uniform B operand. -/
def execSarPaired (sw : Bool) (d a b : BitVec 7) (s : State) : Out :=
  opSetIPaired (encRRR sw 2#6 10#4 d a b) .sar sw d a b s

/-- MIN_SI32_PAIRED (R173). min.si32 with a uniform B operand. -/
def execMinSi32Paired (sw : Bool) (d a b : BitVec 7) (s : State) : Out :=
  opSetIPaired (encRRR sw 2#6 11#4 d a b) .minS sw d a b s

/-- MAX_SI32_PAIRED (R173). max.si32 with a uniform B operand. -/
def execMaxSi32Paired (sw : Bool) (d a b : BitVec 7) (s : State) : Out :=
  opSetIPaired (encRRR sw 2#6 12#4 d a b) .maxS sw d a b s

/-- MIN_UI32_PAIRED (R173). min.ui32 with a uniform B operand. -/
def execMinUi32Paired (sw : Bool) (d a b : BitVec 7) (s : State) : Out :=
  opSetIPaired (encRRR sw 2#6 13#4 d a b) .minU sw d a b s

/-- MAX_UI32_PAIRED (R173). max.ui32 with a uniform B operand. -/
def execMaxUi32Paired (sw : Bool) (d a b : BitVec 7) (s : State) : Out :=
  opSetIPaired (encRRR sw 2#6 14#4 d a b) .maxU sw d a b s

/-- ADDS_SI32_PAIRED (R173). adds.si32 with a uniform B operand. -/
def execAddsSi32Paired (sw : Bool) (d a b : BitVec 7) (s : State) : Out :=
  opSetIPaired (encRRR sw 2#6 15#4 d a b) .addsS sw d a b s

/-- ADD_UNIFORM (R173). add on uniform registers, once per issue set. -/
def execAddUniform (sw : Bool) (d a b : BitVec 7) (s : State) : Out :=
  opSetIUniform (encRRR sw 9#6 0#4 d a b) .add sw d a b s

/-- SUB_UNIFORM (R173). sub on uniform registers. -/
def execSubUniform (sw : Bool) (d a b : BitVec 7) (s : State) : Out :=
  opSetIUniform (encRRR sw 9#6 1#4 d a b) .sub sw d a b s

/-- MUL_UNIFORM (R173). mul on uniform registers. -/
def execMulUniform (sw : Bool) (d a b : BitVec 7) (s : State) : Out :=
  opSetIUniform (encRRR sw 9#6 2#4 d a b) .mul sw d a b s

/-- MULHI_SI32_UNIFORM (R173). mulhi.si32 on uniform registers. -/
def execMulhiSi32Uniform (sw : Bool) (d a b : BitVec 7) (s : State) : Out :=
  opSetIUniform (encRRR sw 9#6 3#4 d a b) .mulhiS sw d a b s

/-- MULHI_UI32_UNIFORM (R173). mulhi.ui32 on uniform registers. -/
def execMulhiUi32Uniform (sw : Bool) (d a b : BitVec 7) (s : State) : Out :=
  opSetIUniform (encRRR sw 9#6 4#4 d a b) .mulhiU sw d a b s

/-- AND_UNIFORM (R173). and on uniform registers. -/
def execAndUniform (sw : Bool) (d a b : BitVec 7) (s : State) : Out :=
  opSetIUniform (encRRR sw 9#6 5#4 d a b) .and sw d a b s

/-- OR_UNIFORM (R173). or on uniform registers. -/
def execOrUniform (sw : Bool) (d a b : BitVec 7) (s : State) : Out :=
  opSetIUniform (encRRR sw 9#6 6#4 d a b) .or sw d a b s

/-- XOR_UNIFORM (R173). xor on uniform registers. -/
def execXorUniform (sw : Bool) (d a b : BitVec 7) (s : State) : Out :=
  opSetIUniform (encRRR sw 9#6 7#4 d a b) .xor sw d a b s

/-- SHL_UNIFORM (R173). shl on uniform registers. -/
def execShlUniform (sw : Bool) (d a b : BitVec 7) (s : State) : Out :=
  opSetIUniform (encRRR sw 9#6 8#4 d a b) .shl sw d a b s

/-- SHR_UNIFORM (R173). shr on uniform registers. -/
def execShrUniform (sw : Bool) (d a b : BitVec 7) (s : State) : Out :=
  opSetIUniform (encRRR sw 9#6 9#4 d a b) .shr sw d a b s

/-- SAR_UNIFORM (R173). sar on uniform registers. -/
def execSarUniform (sw : Bool) (d a b : BitVec 7) (s : State) : Out :=
  opSetIUniform (encRRR sw 9#6 10#4 d a b) .sar sw d a b s

/-- MIN_SI32_UNIFORM (R173). min.si32 on uniform registers. -/
def execMinSi32Uniform (sw : Bool) (d a b : BitVec 7) (s : State) : Out :=
  opSetIUniform (encRRR sw 9#6 11#4 d a b) .minS sw d a b s

/-- MAX_SI32_UNIFORM (R173). max.si32 on uniform registers. -/
def execMaxSi32Uniform (sw : Bool) (d a b : BitVec 7) (s : State) : Out :=
  opSetIUniform (encRRR sw 9#6 12#4 d a b) .maxS sw d a b s

/-- MIN_UI32_UNIFORM (R173). min.ui32 on uniform registers. -/
def execMinUi32Uniform (sw : Bool) (d a b : BitVec 7) (s : State) : Out :=
  opSetIUniform (encRRR sw 9#6 13#4 d a b) .minU sw d a b s

/-- MAX_UI32_UNIFORM (R173). max.ui32 on uniform registers. -/
def execMaxUi32Uniform (sw : Bool) (d a b : BitVec 7) (s : State) : Out :=
  opSetIUniform (encRRR sw 9#6 14#4 d a b) .maxU sw d a b s

/-- ADDS_SI32_UNIFORM (R173). Saturating add on uniform registers; SAT goes to every acting thread. -/
def execAddsSi32Uniform (sw : Bool) (d a b : BitVec 7) (s : State) : Out :=
  opSetIUniform (encRRR sw 9#6 15#4 d a b) .addsS sw d a b s

/-! ## Immediates -/

/-- ADDI (R174). Adds a signed 11-bit immediate to a thread register. -/
def execAddi (sw : Bool) (d a : BitVec 7) (i : BitVec 11) (s : State) : Out :=
  execPure { word := (encRI sw 3#6 d a i), sw := sw, ops := [dX d 1, aX a 1] } s fun _ t =>
    t.putX d.toNat (t.x a.toNat + i.signExtend 32)

/-- MOVL (R174). Loads a sign-extended 18-bit immediate. -/
def execMovl (sw : Bool) (d : BitVec 7) (i : BitVec 18) (s : State) : Out :=
  execPure { word := (encLI sw 4#6 d i), sw := sw, ops := [dX d 1] } s fun _ t => t.putX d.toNat (i.signExtend 32)

/-- MOVH (R174). Sets bits [31:18] of a register, keeping [17:0]. -/
def execMovh (sw : Bool) (d : BitVec 7) (i : BitVec 14) (s : State) : Out :=
  execPure { word := (encLI sw 5#6 d (0#4 ++ i)), sw := sw, ops := [dX d 1] } s fun _ t =>
    t.putX d.toNat (movhWord i (t.x d.toNat))

/-- ADDAI (R177). Adds a sign-extended immediate to a 64-bit register pair. -/
def execAddai (sw : Bool) (d a : BitVec 7) (i : BitVec 11) (s : State) : Out :=
  execPure { word := (encRI sw 8#6 d a i), sw := sw, ops := [dX d 2, aX a 2] } s fun _ t =>
    t.addPair d.toNat a.toNat (i.signExtend 64)

/-- UADDI (R174). Adds an immediate to a uniform register. -/
def execUaddi (sw : Bool) (d a : BitVec 7) (i : BitVec 11) (s : State) : Out :=
  execCrew { word := (encRI sw 10#6 d a i), sw := sw, ops := [dS d 1, aS a 1] } s fun c =>
    (c.putS d.toNat (c.s a.toNat + i.signExtend 32), 0)

/-- UMOVL (R174). Loads a sign-extended immediate into a uniform register. -/
def execUmovl (sw : Bool) (d : BitVec 7) (i : BitVec 18) (s : State) : Out :=
  execCrew { word := (encLI sw 11#6 d i), sw := sw, ops := [dS d 1] } s fun c => (c.putS d.toNat (i.signExtend 32), 0)

/-- UMOVH (R174). Sets the high bits of a uniform register. -/
def execUmovh (sw : Bool) (d : BitVec 7) (i : BitVec 14) (s : State) : Out :=
  execCrew { word := (encLI sw 12#6 d (0#4 ++ i)), sw := sw, ops := [dS d 1] } s fun c =>
    (c.putS d.toNat (movhWord i (c.s d.toNat)), 0)

/-! ## Comparisons -/

/-- CMP_EQ (R175). Sets predicate p to a = b. -/
def execCmpEq (sw : Bool) (p : BitVec 3) (a b : BitVec 7) (s : State) : Out :=
  opCmp (encRRR sw 6#6 0#4 (0#4 ++ p) a b) .eq sw p a b s

/-- CMP_NE (R175). Sets p to a ≠ b. -/
def execCmpNe (sw : Bool) (p : BitVec 3) (a b : BitVec 7) (s : State) : Out :=
  opCmp (encRRR sw 6#6 1#4 (0#4 ++ p) a b) .ne sw p a b s

/-- CMP_LT_SI32 (R175). Signed less-than into p. -/
def execCmpLtSi32 (sw : Bool) (p : BitVec 3) (a b : BitVec 7) (s : State) : Out :=
  opCmp (encRRR sw 6#6 2#4 (0#4 ++ p) a b) .ltS sw p a b s

/-- CMP_LE_SI32 (R175). Signed less-or-equal into p. -/
def execCmpLeSi32 (sw : Bool) (p : BitVec 3) (a b : BitVec 7) (s : State) : Out :=
  opCmp (encRRR sw 6#6 3#4 (0#4 ++ p) a b) .leS sw p a b s

/-- CMP_GT_SI32 (R175). Signed greater-than into p. -/
def execCmpGtSi32 (sw : Bool) (p : BitVec 3) (a b : BitVec 7) (s : State) : Out :=
  opCmp (encRRR sw 6#6 4#4 (0#4 ++ p) a b) .gtS sw p a b s

/-- CMP_GE_SI32 (R175). Signed greater-or-equal into p. -/
def execCmpGeSi32 (sw : Bool) (p : BitVec 3) (a b : BitVec 7) (s : State) : Out :=
  opCmp (encRRR sw 6#6 5#4 (0#4 ++ p) a b) .geS sw p a b s

/-- CMP_LT_UI32 (R175). Unsigned less-than into p. -/
def execCmpLtUi32 (sw : Bool) (p : BitVec 3) (a b : BitVec 7) (s : State) : Out :=
  opCmp (encRRR sw 6#6 6#4 (0#4 ++ p) a b) .ltU sw p a b s

/-- CMP_LE_UI32 (R175). Unsigned less-or-equal into p. -/
def execCmpLeUi32 (sw : Bool) (p : BitVec 3) (a b : BitVec 7) (s : State) : Out :=
  opCmp (encRRR sw 6#6 7#4 (0#4 ++ p) a b) .leU sw p a b s

/-- CMP_GT_UI32 (R175). Unsigned greater-than into p. -/
def execCmpGtUi32 (sw : Bool) (p : BitVec 3) (a b : BitVec 7) (s : State) : Out :=
  opCmp (encRRR sw 6#6 8#4 (0#4 ++ p) a b) .gtU sw p a b s

/-- CMP_GE_UI32 (R175). Unsigned greater-or-equal into p. -/
def execCmpGeUi32 (sw : Bool) (p : BitVec 3) (a b : BitVec 7) (s : State) : Out :=
  opCmp (encRRR sw 6#6 9#4 (0#4 ++ p) a b) .geU sw p a b s

/-- UCMP_EQ (R175). Sets uniform predicate q to a = b on uniform registers. -/
def execUcmpEq (sw : Bool) (p : BitVec 3) (a b : BitVec 7) (s : State) : Out :=
  opUcmp (encRRR sw 13#6 0#4 (0#4 ++ p) a b) .eq sw p a b s

/-- UCMP_NE (R175). Uniform not-equal into q. -/
def execUcmpNe (sw : Bool) (p : BitVec 3) (a b : BitVec 7) (s : State) : Out :=
  opUcmp (encRRR sw 13#6 1#4 (0#4 ++ p) a b) .ne sw p a b s

/-- UCMP_LT_SI32 (R175). Uniform signed less-than into q. -/
def execUcmpLtSi32 (sw : Bool) (p : BitVec 3) (a b : BitVec 7) (s : State) : Out :=
  opUcmp (encRRR sw 13#6 2#4 (0#4 ++ p) a b) .ltS sw p a b s

/-- UCMP_LE_SI32 (R175). Uniform signed less-or-equal into q. -/
def execUcmpLeSi32 (sw : Bool) (p : BitVec 3) (a b : BitVec 7) (s : State) : Out :=
  opUcmp (encRRR sw 13#6 3#4 (0#4 ++ p) a b) .leS sw p a b s

/-- UCMP_GT_SI32 (R175). Uniform signed greater-than into q. -/
def execUcmpGtSi32 (sw : Bool) (p : BitVec 3) (a b : BitVec 7) (s : State) : Out :=
  opUcmp (encRRR sw 13#6 4#4 (0#4 ++ p) a b) .gtS sw p a b s

/-- UCMP_GE_SI32 (R175). Uniform signed greater-or-equal into q. -/
def execUcmpGeSi32 (sw : Bool) (p : BitVec 3) (a b : BitVec 7) (s : State) : Out :=
  opUcmp (encRRR sw 13#6 5#4 (0#4 ++ p) a b) .geS sw p a b s

/-- UCMP_LT_UI32 (R175). Uniform unsigned less-than into q. -/
def execUcmpLtUi32 (sw : Bool) (p : BitVec 3) (a b : BitVec 7) (s : State) : Out :=
  opUcmp (encRRR sw 13#6 6#4 (0#4 ++ p) a b) .ltU sw p a b s

/-- UCMP_LE_UI32 (R175). Uniform unsigned less-or-equal into q. -/
def execUcmpLeUi32 (sw : Bool) (p : BitVec 3) (a b : BitVec 7) (s : State) : Out :=
  opUcmp (encRRR sw 13#6 7#4 (0#4 ++ p) a b) .leU sw p a b s

/-- UCMP_GT_UI32 (R175). Uniform unsigned greater-than into q. -/
def execUcmpGtUi32 (sw : Bool) (p : BitVec 3) (a b : BitVec 7) (s : State) : Out :=
  opUcmp (encRRR sw 13#6 8#4 (0#4 ++ p) a b) .gtU sw p a b s

/-- UCMP_GE_UI32 (R175). Uniform unsigned greater-or-equal into q. -/
def execUcmpGeUi32 (sw : Bool) (p : BitVec 3) (a b : BitVec 7) (s : State) : Out :=
  opUcmp (encRRR sw 13#6 9#4 (0#4 ++ p) a b) .geU sw p a b s

/-! ## Moves and address arithmetic -/

/-- MOV (R176). Copies a register. -/
def execMov (sw : Bool) (d a : BitVec 7) (s : State) : Out :=
  opUnary (encRRR sw 7#6 0#4 d a 0#7) (fun v => v) sw d a s

/-- NOT (R176). Writes the bitwise complement. -/
def execNot (sw : Bool) (d a : BitVec 7) (s : State) : Out :=
  opUnary (encRRR sw 7#6 1#4 d a 0#7) (fun v => ~~~v) sw d a s

/-- NEG (R176). Writes the two's-complement negation. -/
def execNeg (sw : Bool) (d a : BitVec 7) (s : State) : Out :=
  opUnary (encRRR sw 7#6 2#4 d a 0#7) (fun v => 0 - v) sw d a s

/-- ABS_SI32 (R176). Writes the absolute value mod 2^32. -/
def execAbsSi32 (sw : Bool) (d a : BitVec 7) (s : State) : Out :=
  opUnary (encRRR sw 7#6 3#4 d a 0#7) (fun v => if v.msb then 0 - v else v) sw d a s

/-- POPC (R176). Counts 1 bits. -/
def execPopc (sw : Bool) (d a : BitVec 7) (s : State) : Out :=
  opUnary (encRRR sw 7#6 4#4 d a 0#7) (fun v => BitVec.ofNat 32 (popCount v)) sw d a s

/-- CLZ (R176). Counts leading zero bits. -/
def execClz (sw : Bool) (d a : BitVec 7) (s : State) : Out :=
  opUnary (encRRR sw 7#6 5#4 d a 0#7) (fun v => BitVec.ofNat 32 (leadZeros v)) sw d a s

/-- BREV (R176). Reverses the bit order. -/
def execBrev (sw : Bool) (d a : BitVec 7) (s : State) : Out := opUnary (encRRR sw 7#6 6#4 d a 0#7) bitReverse sw d a s

/-- SXB (R176). Sign-extends the low byte. -/
def execSxb (sw : Bool) (d a : BitVec 7) (s : State) : Out :=
  opUnary (encRRR sw 7#6 8#4 d a 0#7) (fun v => (v.extractLsb' 0 8).signExtend 32) sw d a s

/-- SXH (R176). Sign-extends the low half. -/
def execSxh (sw : Bool) (d a : BitVec 7) (s : State) : Out :=
  opUnary (encRRR sw 7#6 9#4 d a 0#7) (fun v => (v.extractLsb' 0 16).signExtend 32) sw d a s

/-- MAD (R176). Writes the low 32 bits of a × b + d. -/
def execMad (sw : Bool) (d a b : BitVec 7) (s : State) : Out :=
  execPure { word := (encRRR sw 7#6 7#4 d a b), sw := sw, ops := [dX d 1, aX a 1, bX b 1] } s fun _ t =>
    t.putX d.toNat (t.x a.toNat * t.x b.toNat + t.x d.toNat)

/-- ADDA (R177). Adds a sign-extended register to a 64-bit address pair. -/
def execAdda (sw : Bool) (d a b : BitVec 7) (s : State) : Out :=
  execPure { word := (encRRR sw 7#6 10#4 d a b), sw := sw, ops := [dX d 2, aX a 2, bX b 1] } s fun _ t =>
    t.addPair d.toNat a.toNat ((t.x b.toNat).signExtend 64)

end Sys2Proof.Machine
end

