-- ==== Sys2Proof/Machine/Special.lean ====
section
/-! DEFINITION. Moves to and from the special registers, and the capability list (R58 to R61, R64, R74, R305, R306). -/

namespace Sys2Proof.Machine

/-! ## Values of the special registers -/

/-- Burst coordinates, which only drips have (R61, R64). -/
def isBurstReg (n : Nat) : Bool := decide (0x20 ≤ n) && decide (n ≤ 0x23)

/-- Special registers that hold one value in every thread of a crew (R59, R64). -/
def isUniformReg (n : Nat) : Bool := !(n == 0x00 || n == 0x01 || n == 0x0C || n == 0x0E || n == 0x21 || n == 0x22)

/-- The value of a special register in a thread, `none` where R59 assigns no register. -/
def State.special (s : State) (c : Crew) (t : Thread) (n : Nat) : Option Word :=
  let block := match s.unit c.unit with
    | some u => u.block
    | none => 0
  let launch := fun (f : Launch → Word) => match s.launch c.world c.launch with
    | some l => f l
    | none => 0
  match n with
  | 0x00 => some (BitVec.ofNat 32 (if c.drip.isSome then t.lane else c.idx * crewWidth + t.lane))
  | 0x01 => some (BitVec.ofNat 32 t.lane)
  | 0x02 => some (BitVec.ofNat 32 (if c.drip.isSome then 0 else c.idx))
  | 0x03 => some (BitVec.ofNat 32 block)
  | 0x04 => some (BitVec.ofNat 32 crewWidth)
  | 0x05 => some (BitVec.ofNat 32 c.core)
  | 0x06 => some (BitVec.ofNat 32 (dieOf c.core))
  | 0x07 => some (BitVec.ofNat 32 c.quarter)
  | 0x08 => some (lo32 s.plat.devtime)
  | 0x09 => some t.dthi
  | 0x0A => some (launch fun l => BitVec.ofNat 32 l.desc.grid)
  | 0x0B => some (launch fun l => BitVec.ofNat 32 l.desc.crews)
  | 0x0C => some (BitVec.ofNat 32 t.wb)
  | 0x0D => some (BitVec.ofNat 32 c.uwb)
  | 0x0E => some (t.aflg.setWidth 32)
  | 0x0F => some (BitVec.ofNat 32 c.nregs)
  | 0x10 => some (BitVec.ofNat 32 c.nuregs)
  | 0x11 => some c.launch
  | 0x12 => some (launch fun l => l.graph)
  | 0x20 => c.drip.map fun d => BitVec.ofNat 32 d.burst
  | 0x21 => c.drip.map fun _ => t.bc1
  | 0x22 => c.drip.map fun _ => t.bc2
  | 0x23 => c.drip.map fun d => d.arg
  | _ => none

/-- The high half of the sample that a read of `%devtime` latches (R60). -/
def Thread.latch (t : Thread) (n : Nat) (time : BitVec 64) : Thread := if n = 0x08 then { t with dthi := hi32 time } else t

/-! ## srd, swr, capr -/

/-- SRD (R61). Reads a special register into a thread register; %devtime latches %devtimehi. -/
def execSrd (sw : Bool) (d n : BitVec 7) (s : State) : Out :=
  let f : Form := { word := (encRRR sw 45#6 0#4 d 0#7 n), sw := sw, ops := [dX d 1], crew := !isBurstReg n.toNat }
  let s := if n = 0x08 then s.sampleTime else s
  execLanes f s fun e c t s =>
    -- AFLG is read once the flags of every earlier instruction are in it (R58)
    if n = 0x0E && s.matrixWait c.uid t.lane then (s, .stall false)
    else match s.special c t n.toNat with
      | none => (s, .trap (e.ill .operand))
      | some v => (s.onLane e.uid t.lane fun t => (t.latch n.toNat s.plat.devtime).putX d.toNat v, .done)

/-- SRD_UNIFORM (R61). Reads a uniform special register into a uniform register. R60 does not say which threads' `%devtimehi`
a read of `%devtime` into a uniform register latches: that of every active thread of the issuing set (log entry 24, DESIGN CHOICE). -/
def execSrdUniform (sw : Bool) (d n : BitVec 7) (s : State) : Out :=
  let f : Form := { word := (encRRR sw 45#6 1#4 d 0#7 n), sw := sw, ops := [dS d 1], crew := !isBurstReg n.toNat }
  let s := if n = 0x08 then s.sampleTime else s
  execUniform f s fun e c t s =>
    match s.special c t n.toNat with
    | none => (s, .trap (e.ill .operand))
    | some v =>
      if !isUniformReg n.toNat then (s, .trap (e.ill .operand))
      else (s.onCrew e.uid fun c =>
        (c.onThreads (sel t.set) fun t => t.latch n.toNat s.plat.devtime).putS d.toNat v, .done)

/-- SWR (R61). Clears AFLG bits under W1C. -/
def execSwr (sw : Bool) (a : BitVec 7) (s : State) : Out :=
  execLanes { word := (encRRR sw 45#6 2#4 0#7 a 14#7), sw := sw, ops := [aX a 1] } s fun e _ t s =>
    (s.onLane e.uid t.lane fun t => { t with aflg := t.aflg &&& ~~~((t.x a.toNat).extractLsb' 0 6) }, .done)

/-- CAPR (R74). Reads one capability-list word into a uniform register. -/
def execCapr (sw : Bool) (d a : BitVec 7) (i : BitVec 11) (s : State) : Out :=
  execCrew { word := (encRI sw 44#6 d a i), sw := sw, ops := [dS d 1, aS a 1] } s fun c =>
    (c.putS d.toNat (capWord ((c.s a.toNat).toNat + i.toNat)), 0)

/-! ## Privileged registers (R306) -/

/-- Numbers that R306 lists for S mode. -/
def isPrivReg (n : Nat) : Bool :=
  (decide (0x80 ≤ n) && decide (n ≤ 0x8B)) || (decide (0x90 ≤ n) && decide (n ≤ 0xA9))

/-- Registers that pswr may not write. -/
def isReadOnly (n : Nat) : Bool :=
  n == 0x80 || n == 0x81 || n == 0x86 || (decide (0x90 ≤ n) && decide (n ≤ 0x9F)) || n == 0xA9

/-- Registers written once for the issue set. -/
def isCrewReg (n : Nat) : Bool := n == 0xA3 || n == 0xA5 || n == 0xA6 || n == 0xA7

/-- A barrier that the block declares. -/
def State.barAt (s : State) (c : Crew) (b : Nat) : Option Barrier := (s.unit c.unit).bind fun u => u.bars[b]?

def PlaneSt.code : PlaneSt → Nat
  | .empty => 0
  | .loading => 1
  | .ready => 2

/-- Word `i` of a plane record (R321). -/
def Plane.recWord (p : Plane) (i : Nat) : Word :=
  match i with
  | 0 => BitVec.ofNat 32 (p.st.code + 256 * p.fmt + 65536 * (if p.sc then 1 else 0))
  | 1 => BitVec.ofNat 32 p.k
  | 2 => BitVec.ofNat 32 p.n
  | 3 => p.shape
  | 4 => p.w0
  | 5 => p.w1
  | 6 => p.w2
  | _ => p.unums

/-- The value of a privileged register; `none` raises ILL, reason OPERAND. A write-only register reads 0 (R8). -/
def State.privRead (s : State) (c : Crew) (t : Thread) (n : Nat) : Option Word :=
  let qn := quarterNo c.core c.quarter
  if 0x88 ≤ n ∧ n ≤ 0x8B then some (tabGet t.tscr 0 (n - 0x88))
  else if 0x90 ≤ n ∧ n ≤ 0x9F then some (tabGet t.trec 0 (n - 0x90))
  else match n with
    | 0x80 => some (BitVec.ofNat 32 t.mode.num)
    | 0x81 => some (BitVec.ofNat 32 t.tcause)
    | 0x82 => some t.tpc
    | 0x83 => some t.twb
    | 0x84 => some (t.tpred.setWidth 32)
    | 0x85 => some (t.taflg.setWidth 32)
    | 0x86 => some (BitVec.ofNat 32 t.tmode.num)
    | 0x87 => some t.tstate
    | 0xA0 => some t.accpos
    | 0xA1 => if s.arrayBound c qn then some 0 else none
    | 0xA2 => if s.arrayBound c qn then some 0 else none
    | 0xA3 => some c.barsel
    | 0xA4 => (s.barAt c c.barsel.toNat).map fun _ => tabGet t.barS 0 c.barsel.toNat
    | 0xA5 => some c.rndcnt
    | 0xA6 => some (lo32 c.ctximg)
    | 0xA7 => some c.ctxstat
    | 0xA8 => some t.plsel
    | 0xA9 =>
      if s.arrayBound c qn then
        let q := s.quarter qn
        some ((if t.plsel.getLsbD 3 then q.shadow else q.active).recWord (t.plsel.extractLsb' 0 3).toNat)
      else none
    | _ => none

/-- The field positions of an accumulator coordinate that are reserved (R246). -/
def coordReserved (v : Word) : Bool := v.extractLsb' 22 10 != 0#10 || v.extractLsb' 9 7 != 0#7

/-- What writing a thread's privileged register does to the thread; `none` raises ILL, reason OPERAND. `%tstate`
changes only in the resume routine. -/
def State.privWrite (s : State) (c : Crew) (t : Thread) (n : Nat) (v : Word) : Option Thread :=
  if 0x88 ≤ n ∧ n ≤ 0x8B then some { t with tscr := tabPut t.tscr 0 (n - 0x88) v }
  else match n with
    | 0x82 => some { t with tpc := v }
    | 0x83 => some { t with twb := v }
    | 0x84 => some { t with tpred := v.extractLsb' 0 7 }
    | 0x85 => some { t with taflg := v.extractLsb' 0 6 }
    | 0x87 => some (if t.tcause = 0x14 then { t with tstate := v } else t)
    | 0xA0 => if coordReserved v then none else some { t with accpos := v }
    | 0xA4 => (s.barAt c c.barsel.toNat).map fun _ => { t with barS := tabPut t.barS 0 c.barsel.toNat v }
    | 0xA8 => some { t with plsel := v &&& 0xF }
    | _ => none

/-- The lowest thread of the set about to issue whose guard is true. -/
def State.lowestActing (s : State) : Option Thread :=
  (s.crew s.iss.crew).bind fun c => c.threads.find? fun t => sel s.iss.set t && (match s.iss.guard with
    | none => true
    | some g => predField t.preds g)

/-- A register listed only in firmware documentation (R306): a read gives a free value, a write shows nothing
(log entry 9). -/
def isFirmwareReg (n : Nat) : Bool := decide (0xF0 ≤ n)

/-- A read of `%plrec` takes its place in the order of the thread's quarter (R243, R306): whether every entry before it has
been performed. -/
def State.plrecTurn (s : State) (e : Env) (c : Crew) (t : Thread) : State × Bool :=
  let q := quarterNo c.core c.quarter
  if !s.arrayBound c q || (s.quarter q).order.isEmpty then (s, true)
  else match s.mcmds.find? fun m => m.kind == .plrec && m.crew == c.uid && m.lane == t.lane with
    | some m => if s.cmdReady m then (s.leaveOrder m, true) else (s, false)
    | none =>
      let (id, s) := s.fresh
      (s.enterOrder ⟨id, c.unit, c.uid, t.lane, e.pcI t, .plrec, q, 1, 0, 0, 0, 0, false, 0, 0, 0, 0, [], none⟩, false)

/-- PSRD (R305). Reads a privileged special register. -/
def execPsrd (sw : Bool) (d n : BitVec 7) (s : State) : Out :=
  let m := 0x80 + n.toNat
  execLanes { word := (encRRR sw 55#6 0#4 d 0#7 n), sw := sw, ops := [dX d 1], priv := true, firmware := isFirmwareReg m } s
    fun e c t s =>
      if isFirmwareReg m then
        let (k, s) := s.free
        (s.onLane e.uid t.lane fun t => t.putX d.toNat (Config.foreignReg k), .done)
      else
        match (if m = 0xA9 then s.plrecTurn e c t else (s, true)) with
        | (s, false) => (s, .stall false)
        | (s, true) =>
          match s.privRead c t m with
          | none => (s, .trap (e.ill .operand))
          | some v => (s.onLane e.uid t.lane fun t => t.putX d.toNat v, .done)

/-- A write of `%accdat` or `%accstat` enters the order of the thread's quarter, and the thread waits for it (R306). -/
def State.accWrite (s : State) (e : Env) (c : Crew) (t : Thread) (k : MKind) (v : Word) : State × LaneRes :=
  let q := quarterNo c.core c.quarter
  if !s.arrayBound c q then (s, .trap (e.ill .operand))
  else
    let (id, s) := s.fresh
    let cmd : MCmd := ⟨id, c.unit, c.uid, t.lane, e.pcI t, k, q, 1, 0, v, 0, 0, false, 0, 0, 0, 0, [], none⟩
    ((s.onLane c.uid t.lane fun u => { u with st := .blocked .accWrite (e.next t) }).enterOrder cmd, .held)

/-- A register that the crew holds once, written by the lowest acting lane of the set (R56, R305). -/
def Crew.setReg (c : Crew) (n : Nat) (v : Word) : Crew :=
  match n with
  | 0xA3 => { c with barsel := v }
  | 0xA5 => { c with rndcnt := v }
  | 0xA6 => { c with ctximg := pair64 (hi32 c.ctximg) v }
  | _ => c

/-- A write of `%ctxop`: 1 and 2 start their operation, and the acting threads wait for it; another value starts
none. -/
def State.ctxopWrite (s : State) (e : Env) (c : Crew) (t : Thread) (v : Word) (first : Bool) : State × LaneRes :=
  if v ≠ 1 && v ≠ 2 then (s, .done)
  else
    let s := s.onLane c.uid t.lane fun u => { u with st := .blocked .ctxop (e.next t) }
    (if first then s.post (if v = 1 then .ctxopSave c.uid else .ctxopRestore c.uid) else s, .held)

/-- PSWR (R305). Writes a privileged special register under its access rule. -/
def execPswr (sw : Bool) (a n : BitVec 7) (s : State) : Out :=
  let m := 0x80 + n.toNat
  let low := s.lowestActing
  execLanes { word := (encRRR sw 55#6 1#4 0#7 a n), sw := sw, ops := [aX a 1], priv := true, firmware := isFirmwareReg m } s
    fun e c t s =>
      let v := t.x a.toNat
      let first := low.map (·.lane) == some t.lane
      if isFirmwareReg m then (s, .done)
      else if !isPrivReg m || isReadOnly m then (s, .trap (e.ill .operand))
      else if m = 0xA1 then s.accWrite e c t .accdat v
      else if m = 0xA2 then s.accWrite e c t .accstat v
      else if m = 0xA7 then
        s.ctxopWrite e c t (match low with
          | some u => u.x a.toNat
          | none => v) first
      else if isCrewReg m then (if first then s.onCrew e.uid fun c => c.setReg m v else s, .done)
      else match s.privWrite c t m v with
        | none => (s, .trap (e.ill .operand))
        | some u => (s.onLane e.uid t.lane fun _ => u, .done)

end Sys2Proof.Machine
end

