-- ==== Sys2Proof/Machine/Sync.lean ====
section
/-! DEFINITION. Fences, monitors, barriers and circular buffers (R219 to R228). -/

namespace Sys2Proof.Machine

/-! ## fence (R219) -/

/-- Semantics as acquire and release: 1, 2, 3 (R159). -/
def semAcq (e : BitVec 2) : Bool := e.getLsbD 0
def semRel (e : BitVec 2) : Bool := e.getLsbD 1

/-- fence.scope.sem (R219). Orders accesses at a scope and closes the crew region. -/
def execFence (sw : Bool) (c : BitVec 3) (e : BitVec 2) (s : State) : Out :=
  execLanes { word := (encRRR sw 47#6 0#4 0#7 0#7 (c ++ e ++ 0#2)), sw := sw, ops := [] } s fun env k t s =>
    if e = 0 then (s, .trap (env.ill .operand))
    else if s.relWaits k.uid t.lane (semRel e) c.toNat then (s, .stall false)
    else (s.order env t.lane (semAcq e) (semRel e) c.toNat, .done)

/-! ## waitc and wake (R142, R220 to R222) -/

/-- The compare of a waitc: checked as a read with the ownership of ldx, and synchronising. -/
def waitcAcc : Acc1 := ⟨.waitc, true, true, false, 4⟩

/-- The compare has returned a word: an equal one arms the monitor and blocks the thread, another lands in x(D). -/
def State.compared (s : State) (e : Env) (c : Crew) (t : Thread) (d : BitVec 7) (place : Place) (mem : Bool) (v : Word) :
    State × LaneRes :=
  if v = t.x d.toNat then
    (s.onLane c.uid t.lane fun u => { u with
      monitor := some place
      st := .blocked .monitor (e.next t) }, .held)
  else (s.inFlight c.uid t.lane (e.pcI t) [(t.wb + d.toNat, v)] none mem, .done)

/-- The word of a strongly ordered destination. -/
def State.soWord (s : State) (c : Crew) (d : Target) : State × Word :=
  match d with
  | .reg pa =>
    let (s, l) := s.regLoad c pa 1
    (s, l.headD 0)
  | tg => (s, wordAt (s.loadT tg 4) 0)

/-- One lane of a waitc. -/
def waitcLane (d a : BitVec 7) (scope : Nat) (spad : Bool) (e : Env) (c : Crew) (t : Thread) (s : State) : State × LaneRes :=
  let pre := fun (s : State) => s.order e t.lane true false scope
  if spad then
    s.spadAccess c t (e.pcI t) waitcAcc (t.x a.toNat).toNat 0 pre fun s key =>
      let (s, l) := s.spadRead c t key 4
      s.compared e c t d (.spad c.unit key) false (wordAt l 0)
  else
    let ea := (t.x64 a.toNat).toNat
    s.genAccess c t (e.pcI t) waitcAcc ea pre fun s dst =>
      if dst.so then
        let (s, v) := s.soWord c dst.target
        if v = t.x d.toNat then
          ((s.onLane c.uid t.lane fun u => { u with
            st := .blocked (.waitcSo d.toNat ea scope) (e.next t)
            pendX := pendAll u.pendX [u.wb + d.toNat] (e.pcI t) }).post (.waitcSoRepeat c.uid t.lane), .held)
        else (s.inFlight c.uid t.lane (e.pcI t) [(t.wb + d.toNat, v)] none true, .done)
      else
        let (s, l) := s.destRead t c.uid dst 4
        s.compared e c t d dst.place true (wordAt l 0)

/-- WAITC (R220). Compares a word and arms the monitor in one transaction, blocking while equal. -/
def execWaitc (sw : Bool) (d a : BitVec 7) (c : BitVec 3) (p : BitVec 2) (s : State) : Out :=
  execLanes { word := (encRRR sw 47#6 1#4 d a (c ++ 0#2 ++ p)), sw := sw, ops := [dX d 1, aX a (if p = 1 then 1 else 2)] } s
    (waitcLane d a c.toNat (p = 1))

/-- A thread whose waitc on a strongly ordered word has found the values unequal receives the word and goes on. -/
def Thread.soDone (d : Nat) (v next : Word) (t : Thread) : Thread :=
  (({ t with pendX := tabPut t.pendX none (t.wb + d) none }).putX d v).resumeAt next

/-- WAITC_SO_REPEAT (R220). A waitc on a strongly ordered page repeats its compare every 1,024 clk. -/
def execWaitcSoRepeat (crew lane : Nat) (s : State) : Out :=
  match s.crew crew with
  | none => .next s
  | some c =>
    match c.thread lane with
    | none => .next s
    | some t =>
      match t.st with
      | .blocked (.waitcSo d va scope) next =>
        match s.resolve c.world c.core .waitc va 4 with
        | (s, .go dst) =>
          let (s, v) := ((s.acquired crew scope).syncOp crew).soWord c dst.target
          if v = t.x d then .next (s.arm (.waitcSoRepeat crew lane))
          else .next ((s.onLane crew lane (Thread.soDone d v next)).settle crew)
        | (s, _) =>
          -- the page is no longer there: the instruction meets that itself
          .next ((s.onLane crew lane fun t =>
            ({ t with pendX := tabPut t.pendX none (t.wb + d) none }).resumeAt t.pc).settle crew)
      | _ => .next s

/-- One lane of a wake: checked as a write, it releases, wakes the line or chunk and writes nothing. -/
def wakeLane (a : BitVec 7) (scope : Nat) (spad : Bool) (e : Env) (c : Crew) (t : Thread) (s : State) : State × LaneRes :=
  let rel := fun (s : State) => s.order e t.lane false true scope
  if s.matrixWait c.uid t.lane || s.relWaits c.uid t.lane true scope then (s, .stall false)
  else if spad then
    let k := (t.x a.toNat).toNat
    if k % 4 ≠ 0 then (s, .trap (alignTrap k 1 1 4))
    else match s.unit c.unit with
      | none => (s, .trap (permTrap 4 k 1 1 4))
      | some u =>
        if spadBad u.cores.length u.alloc k 4 then (s, .trap (permTrap 4 k 1 1 4))
        else ((rel s).wakeRange (.spad c.unit (spadKey 0 k)) 4, .done)
  else
    let ea := (t.x64 a.toNat).toNat
    if ea % 4 ≠ 0 then (s, .trap (alignTrap ea 0 1 4))
    else if ea ≥ 2 ^ 56 then (s, .trap (permTrap 4 ea 0 1 4))
    else match s.resolve c.world c.core .wake ea 4 with
      | (s, .perm r) => (s, .trap (permTrap r ea 0 1 4))
      | (s, .go d) => ((rel s).wakeRange d.place 4, .done)
      | (s, _) => (rel s, .done)

/-- WAKE (R222). Releases and wakes every monitor armed on the line or chunk. -/
def execWake (sw : Bool) (a : BitVec 7) (c : BitVec 3) (p : BitVec 2) (s : State) : Out :=
  execLanes { word := (encRRR sw 47#6 2#4 0#7 a (c ++ 0#2 ++ p)), sw := sw, ops := [aX a (if p = 1 then 1 else 2)] } s
    (wakeLane a c.toNat (p = 1))

/-! ## Barriers (R223 to R225) -/

/-- Barriers that the block of the issuing crew declares. -/
def State.barCount (s : State) : Nat :=
  match (s.crew s.iss.crew).bind fun c => s.unit c.unit with
  | some u => u.bars.length
  | none => 0

/-- BAR_ARR (R224). Crew-collective arrival on a barrier. -/
def execBarArr (sw : Bool) (b : BitVec 4) (s : State) : Out :=
  execArrive { word := (encRRR sw 47#6 3#4 0#7 0#7 (0#3 ++ b)), sw := sw, ops := [], drip := false } s (.bar b.toNat false)
    (decide (s.barCount ≤ b.toNat)) fun _ => []

/-- BAR_SYNC (R224). Arrives then waits on a barrier. -/
def execBarSync (sw : Bool) (b : BitVec 4) (s : State) : Out :=
  execArrive { word := (encRRR sw 47#6 5#4 0#7 0#7 (0#3 ++ b)), sw := sw, ops := [], drip := false } s (.bar b.toNat true)
    (decide (s.barCount ≤ b.toNat)) fun _ => []

/-- BAR_WAIT (R224). Blocks until a completed phase is available, then consumes it. -/
def execBarWait (sw : Bool) (b : BitVec 4) (s : State) : Out :=
  execLanes { word := (encRRR sw 47#6 4#4 0#7 0#7 (0#3 ++ b)), sw := sw, ops := [], drip := false } s fun e c t s =>
    match (s.unit c.unit).bind fun u => u.bars[b.toNat]? with
    | none => (s, .trap (e.ill .operand))
    | some bar =>
      if tabGet t.barS 0 b.toNat != bar.phase then
        (((s.acquired c.uid scopeBlock).syncFor e).onLane c.uid t.lane fun u =>
          { u with barS := tabPut u.barS 0 b.toNat (tabGet u.barS 0 b.toNat + 1) }, .done)
      else ((s.syncFor e).onLane c.uid t.lane fun u => { u with st := .blocked (.barWait b.toNat false) (e.next t) }, .held)

/-! ## Circular buffers (R226, R227) -/

/-- One of the four instructions: the acting threads that pass their operand checks, and what the lowest of them does
for the set, or the operand value that is refused; the others go on at PC + 4. -/
def execBuffer (f : Form) (s : State)
    (go : Env → Crew → Thread → List Nat → State → Except Trap State) : Out :=
  issue { f with drip := false } s fun e k0 c s =>
    let act := e.acting k0 c
    let bad := act.filterMap fun t => (opCheck e f c t).map fun tr => (t.lane, tr)
    let good := act.filter fun t => (opCheck e f c t).isNone
    let lanes := good.map (·.lane)
    let s := s.onCrew e.uid fun c => c.onThreads (sel k0) fun t =>
      match bad.find? (·.1 == t.lane) with
      | some p => t.raise p.2
      | none => if lanes.contains t.lane then t else { t with pc := e.next t }
    match good with
    | [] => s
    | t :: _ =>
      match go e c t lanes s with
      | .ok s => s
      | .error tr => s.onCrew e.uid fun c => c.onThreads (fun t => lanes.contains t.lane) fun t => t.raise tr

/-- Acting threads go on at PC + 4, with a value in x(D) when there is one. -/
def State.setGoes (s : State) (e : Env) (lanes : List Nat) (d : Option (Nat × Nat)) : State :=
  s.onCrew e.uid fun c => c.onThreads (fun t => lanes.contains t.lane) fun t =>
    let t' := { t with pc := e.next t }
    match d with
    | some (f, v) => t'.putX f (BitVec.ofNat 32 v)
    | none => t'

/-- cbacq and cbfill: the transition at once when nothing stands before it, or else the acting threads wait. -/
def bufferTake (fill : Bool) (d b : BitVec 7) (e : Env) (c : Crew) (lanes : List Nat) (s : State) : Except Trap State :=
  let obj := b.toNat
  match s.cbuf c.unit obj with
  | none => .error (e.ill .operand)
  | some cb =>
    let s := (s.acquired c.uid scopeBlock).syncOp c.uid
    let waits := (s.firstWait c.unit obj fill).isSome || (fill && s.engineFills c.unit obj)
    match (if waits then none else if fill then cb.startFill false else cb.acquire) with
    | some (cb', slot) =>
      .ok (((s.onCbuf c.unit obj fun _ => cb').setGoes e lanes (some (d.toNat, slot))).cbChanged c.unit obj)
    | none =>
      let (id, s) := s.fresh
      .ok ((s.onCrew c.uid fun c => (c.onThreads (fun t => lanes.contains t.lane) fun t => { t with
        st := .blocked (.cb obj d.toNat fill id) (e.next t)
        pendX := pendAll t.pendX [t.wb + d.toNat] (e.pcI t) }).band lanes).cbChanged c.unit obj)

/-- cbrel and cbdone: the slot that x(A) of the lowest acting thread names. -/
def bufferGive (done : Bool) (a b : BitVec 7) (e : Env) (c : Crew) (t : Thread) (lanes : List Nat) (s : State) :
    Except Trap State :=
  let obj := b.toNat
  let i := (t.x a.toNat).toNat
  match s.cbuf c.unit obj with
  | none => .error (e.ill .operand)
  | some cb =>
    let ok : Bool := decide (i < cb.count) && cb.slotSt i == (if done then (.filling, false) else (.reading, false))
    if !ok then .error (e.ill .operand)
    else
      let s := (lanes.foldl (fun s l => s.drainLane c.uid l) s).syncRel c.uid scopeBlock
      let s := s.onCbuf c.unit obj fun x => if done then x.endFill i else x.release i
      .ok ((s.setGoes e lanes none).cbChanged c.unit obj)

/-- CBACQ (R226). Acquires the next FILLED circular-buffer slot, blocking if none. -/
def execCbacq (sw : Bool) (d b : BitVec 7) (s : State) : Out :=
    execBuffer { word := (encRRR sw 47#6 6#4 d 0#7 b), sw := sw, ops := [dX d 1] } s fun e c _ lanes s => bufferTake false d b e c lanes s

/-- CBREL (R226). Releases a READING slot to FREE. -/
def execCbrel (sw : Bool) (a b : BitVec 7) (s : State) : Out :=
    execBuffer { word := (encRRR sw 47#6 7#4 0#7 a b), sw := sw, ops := [aX a 1] } s fun e c t lanes s => bufferGive false a b e c t lanes s

/-- CBFILL (R226). Software starts a fill of the next FREE slot, blocking if none. -/
def execCbfill (sw : Bool) (d b : BitVec 7) (s : State) : Out :=
    execBuffer { word := (encRRR sw 47#6 8#4 d 0#7 b), sw := sw, ops := [dX d 1] } s fun e c _ lanes s => bufferTake true d b e c lanes s

/-- CBDONE (R226). Marks a software-filled slot FILLED. -/
def execCbdone (sw : Bool) (a b : BitVec 7) (s : State) : Out :=
    execBuffer { word := (encRRR sw 47#6 9#4 0#7 a b), sw := sw, ops := [aX a 1] } s fun e c t lanes s => bufferGive true a b e c t lanes s

end Sys2Proof.Machine
end

