-- ==== Sys2Proof/Machine/Dispatch.lean ====
section
/-! DEFINITION. One arm per instruction and step of the opcode table: each calls its own meaning. -/

namespace Sys2Proof.Machine

/-- What one instruction or step does to the state. -/
def exec (i : Instr) (s : State) : Host.Outcome State Fault Refusal :=
  match i with
  | .add sw d a b => Sys2Proof.Machine.execAdd sw d a b s
  | .sub sw d a b => Sys2Proof.Machine.execSub sw d a b s
  | .mul sw d a b => Sys2Proof.Machine.execMul sw d a b s
  | .mulhiSi32 sw d a b => Sys2Proof.Machine.execMulhiSi32 sw d a b s
  | .mulhiUi32 sw d a b => Sys2Proof.Machine.execMulhiUi32 sw d a b s
  | .and sw d a b => Sys2Proof.Machine.execAnd sw d a b s
  | .or sw d a b => Sys2Proof.Machine.execOr sw d a b s
  | .xor sw d a b => Sys2Proof.Machine.execXor sw d a b s
  | .shl sw d a b => Sys2Proof.Machine.execShl sw d a b s
  | .shr sw d a b => Sys2Proof.Machine.execShr sw d a b s
  | .sar sw d a b => Sys2Proof.Machine.execSar sw d a b s
  | .minSi32 sw d a b => Sys2Proof.Machine.execMinSi32 sw d a b s
  | .maxSi32 sw d a b => Sys2Proof.Machine.execMaxSi32 sw d a b s
  | .minUi32 sw d a b => Sys2Proof.Machine.execMinUi32 sw d a b s
  | .maxUi32 sw d a b => Sys2Proof.Machine.execMaxUi32 sw d a b s
  | .addsSi32 sw d a b => Sys2Proof.Machine.execAddsSi32 sw d a b s
  | .addPaired sw d a b => Sys2Proof.Machine.execAddPaired sw d a b s
  | .subPaired sw d a b => Sys2Proof.Machine.execSubPaired sw d a b s
  | .mulPaired sw d a b => Sys2Proof.Machine.execMulPaired sw d a b s
  | .mulhiSi32Paired sw d a b => Sys2Proof.Machine.execMulhiSi32Paired sw d a b s
  | .mulhiUi32Paired sw d a b => Sys2Proof.Machine.execMulhiUi32Paired sw d a b s
  | .andPaired sw d a b => Sys2Proof.Machine.execAndPaired sw d a b s
  | .orPaired sw d a b => Sys2Proof.Machine.execOrPaired sw d a b s
  | .xorPaired sw d a b => Sys2Proof.Machine.execXorPaired sw d a b s
  | .shlPaired sw d a b => Sys2Proof.Machine.execShlPaired sw d a b s
  | .shrPaired sw d a b => Sys2Proof.Machine.execShrPaired sw d a b s
  | .sarPaired sw d a b => Sys2Proof.Machine.execSarPaired sw d a b s
  | .minSi32Paired sw d a b => Sys2Proof.Machine.execMinSi32Paired sw d a b s
  | .maxSi32Paired sw d a b => Sys2Proof.Machine.execMaxSi32Paired sw d a b s
  | .minUi32Paired sw d a b => Sys2Proof.Machine.execMinUi32Paired sw d a b s
  | .maxUi32Paired sw d a b => Sys2Proof.Machine.execMaxUi32Paired sw d a b s
  | .addsSi32Paired sw d a b => Sys2Proof.Machine.execAddsSi32Paired sw d a b s
  | .addUniform sw d a b => Sys2Proof.Machine.execAddUniform sw d a b s
  | .subUniform sw d a b => Sys2Proof.Machine.execSubUniform sw d a b s
  | .mulUniform sw d a b => Sys2Proof.Machine.execMulUniform sw d a b s
  | .mulhiSi32Uniform sw d a b => Sys2Proof.Machine.execMulhiSi32Uniform sw d a b s
  | .mulhiUi32Uniform sw d a b => Sys2Proof.Machine.execMulhiUi32Uniform sw d a b s
  | .andUniform sw d a b => Sys2Proof.Machine.execAndUniform sw d a b s
  | .orUniform sw d a b => Sys2Proof.Machine.execOrUniform sw d a b s
  | .xorUniform sw d a b => Sys2Proof.Machine.execXorUniform sw d a b s
  | .shlUniform sw d a b => Sys2Proof.Machine.execShlUniform sw d a b s
  | .shrUniform sw d a b => Sys2Proof.Machine.execShrUniform sw d a b s
  | .sarUniform sw d a b => Sys2Proof.Machine.execSarUniform sw d a b s
  | .minSi32Uniform sw d a b => Sys2Proof.Machine.execMinSi32Uniform sw d a b s
  | .maxSi32Uniform sw d a b => Sys2Proof.Machine.execMaxSi32Uniform sw d a b s
  | .minUi32Uniform sw d a b => Sys2Proof.Machine.execMinUi32Uniform sw d a b s
  | .maxUi32Uniform sw d a b => Sys2Proof.Machine.execMaxUi32Uniform sw d a b s
  | .addsSi32Uniform sw d a b => Sys2Proof.Machine.execAddsSi32Uniform sw d a b s
  | .addi sw d a imm => Sys2Proof.Machine.execAddi sw d a imm s
  | .movl sw d imm => Sys2Proof.Machine.execMovl sw d imm s
  | .movh sw d imm => Sys2Proof.Machine.execMovh sw d imm s
  | .addai sw d a imm => Sys2Proof.Machine.execAddai sw d a imm s
  | .uaddi sw d a imm => Sys2Proof.Machine.execUaddi sw d a imm s
  | .umovl sw d imm => Sys2Proof.Machine.execUmovl sw d imm s
  | .umovh sw d imm => Sys2Proof.Machine.execUmovh sw d imm s
  | .cmpEq sw p a b => Sys2Proof.Machine.execCmpEq sw p a b s
  | .cmpNe sw p a b => Sys2Proof.Machine.execCmpNe sw p a b s
  | .cmpLtSi32 sw p a b => Sys2Proof.Machine.execCmpLtSi32 sw p a b s
  | .cmpLeSi32 sw p a b => Sys2Proof.Machine.execCmpLeSi32 sw p a b s
  | .cmpGtSi32 sw p a b => Sys2Proof.Machine.execCmpGtSi32 sw p a b s
  | .cmpGeSi32 sw p a b => Sys2Proof.Machine.execCmpGeSi32 sw p a b s
  | .cmpLtUi32 sw p a b => Sys2Proof.Machine.execCmpLtUi32 sw p a b s
  | .cmpLeUi32 sw p a b => Sys2Proof.Machine.execCmpLeUi32 sw p a b s
  | .cmpGtUi32 sw p a b => Sys2Proof.Machine.execCmpGtUi32 sw p a b s
  | .cmpGeUi32 sw p a b => Sys2Proof.Machine.execCmpGeUi32 sw p a b s
  | .ucmpEq sw p a b => Sys2Proof.Machine.execUcmpEq sw p a b s
  | .ucmpNe sw p a b => Sys2Proof.Machine.execUcmpNe sw p a b s
  | .ucmpLtSi32 sw p a b => Sys2Proof.Machine.execUcmpLtSi32 sw p a b s
  | .ucmpLeSi32 sw p a b => Sys2Proof.Machine.execUcmpLeSi32 sw p a b s
  | .ucmpGtSi32 sw p a b => Sys2Proof.Machine.execUcmpGtSi32 sw p a b s
  | .ucmpGeSi32 sw p a b => Sys2Proof.Machine.execUcmpGeSi32 sw p a b s
  | .ucmpLtUi32 sw p a b => Sys2Proof.Machine.execUcmpLtUi32 sw p a b s
  | .ucmpLeUi32 sw p a b => Sys2Proof.Machine.execUcmpLeUi32 sw p a b s
  | .ucmpGtUi32 sw p a b => Sys2Proof.Machine.execUcmpGtUi32 sw p a b s
  | .ucmpGeUi32 sw p a b => Sys2Proof.Machine.execUcmpGeUi32 sw p a b s
  | .mov sw d a => Sys2Proof.Machine.execMov sw d a s
  | .not sw d a => Sys2Proof.Machine.execNot sw d a s
  | .neg sw d a => Sys2Proof.Machine.execNeg sw d a s
  | .absSi32 sw d a => Sys2Proof.Machine.execAbsSi32 sw d a s
  | .popc sw d a => Sys2Proof.Machine.execPopc sw d a s
  | .clz sw d a => Sys2Proof.Machine.execClz sw d a s
  | .brev sw d a => Sys2Proof.Machine.execBrev sw d a s
  | .mad sw d a b => Sys2Proof.Machine.execMad sw d a b s
  | .sxb sw d a => Sys2Proof.Machine.execSxb sw d a s
  | .sxh sw d a => Sys2Proof.Machine.execSxh sw d a s
  | .adda sw d a b => Sys2Proof.Machine.execAdda sw d a b s
  | .fadd sw d a b => Sys2Proof.Machine.execFadd sw d a b s
  | .fsub sw d a b => Sys2Proof.Machine.execFsub sw d a b s
  | .fmul sw d a b => Sys2Proof.Machine.execFmul sw d a b s
  | .ffma sw d a b => Sys2Proof.Machine.execFfma sw d a b s
  | .fmin sw d a b => Sys2Proof.Machine.execFmin sw d a b s
  | .fmax sw d a b => Sys2Proof.Machine.execFmax sw d a b s
  | .fdiv sw d a b => Sys2Proof.Machine.execFdiv sw d a b s
  | .fsqrt sw d a => Sys2Proof.Machine.execFsqrt sw d a s
  | .fabs sw d a => Sys2Proof.Machine.execFabs sw d a s
  | .fneg sw d a => Sys2Proof.Machine.execFneg sw d a s
  | .faddPaired sw d a b => Sys2Proof.Machine.execFaddPaired sw d a b s
  | .fsubPaired sw d a b => Sys2Proof.Machine.execFsubPaired sw d a b s
  | .fmulPaired sw d a b => Sys2Proof.Machine.execFmulPaired sw d a b s
  | .ffmaPaired sw d a b => Sys2Proof.Machine.execFfmaPaired sw d a b s
  | .fminPaired sw d a b => Sys2Proof.Machine.execFminPaired sw d a b s
  | .fmaxPaired sw d a b => Sys2Proof.Machine.execFmaxPaired sw d a b s
  | .fdivPaired sw d a b => Sys2Proof.Machine.execFdivPaired sw d a b s
  | .fcmpEq sw p a b => Sys2Proof.Machine.execFcmpEq sw p a b s
  | .fcmpNe sw p a b => Sys2Proof.Machine.execFcmpNe sw p a b s
  | .fcmpLt sw p a b => Sys2Proof.Machine.execFcmpLt sw p a b s
  | .fcmpLe sw p a b => Sys2Proof.Machine.execFcmpLe sw p a b s
  | .fcmpGt sw p a b => Sys2Proof.Machine.execFcmpGt sw p a b s
  | .fcmpGe sw p a b => Sys2Proof.Machine.execFcmpGe sw p a b s
  | .haddF16 sw d a b => Sys2Proof.Machine.execHaddF16 sw d a b s
  | .hsubF16 sw d a b => Sys2Proof.Machine.execHsubF16 sw d a b s
  | .hmulF16 sw d a b => Sys2Proof.Machine.execHmulF16 sw d a b s
  | .hfmaF16 sw d a b => Sys2Proof.Machine.execHfmaF16 sw d a b s
  | .hminF16 sw d a b => Sys2Proof.Machine.execHminF16 sw d a b s
  | .hmaxF16 sw d a b => Sys2Proof.Machine.execHmaxF16 sw d a b s
  | .haddBf16 sw d a b => Sys2Proof.Machine.execHaddBf16 sw d a b s
  | .hsubBf16 sw d a b => Sys2Proof.Machine.execHsubBf16 sw d a b s
  | .hmulBf16 sw d a b => Sys2Proof.Machine.execHmulBf16 sw d a b s
  | .hfmaBf16 sw d a b => Sys2Proof.Machine.execHfmaBf16 sw d a b s
  | .hminBf16 sw d a b => Sys2Proof.Machine.execHminBf16 sw d a b s
  | .hmaxBf16 sw d a b => Sys2Proof.Machine.execHmaxBf16 sw d a b s
  | .cvt sw f d a t k r => Sys2Proof.Machine.execCvt sw f d a t k r s
  | .recip sw d a => Sys2Proof.Machine.execRecip sw d a s
  | .rsqrt sw d a => Sys2Proof.Machine.execRsqrt sw d a s
  | .exp2 sw d a => Sys2Proof.Machine.execExp2 sw d a s
  | .log2 sw d a => Sys2Proof.Machine.execLog2 sw d a s
  | .sin sw d a => Sys2Proof.Machine.execSin sw d a s
  | .cos sw d a => Sys2Proof.Machine.execCos sw d a s
  | .tanh sw d a => Sys2Proof.Machine.execTanh sw d a s
  | .sigm sw d a => Sys2Proof.Machine.execSigm sw d a s
  | .dp4Si8 sw d a b => Sys2Proof.Machine.execDp4Si8 sw d a b s
  | .dp4Si8ui8 sw d a b => Sys2Proof.Machine.execDp4Si8ui8 sw d a b s
  | .dp8Si4 sw d a b => Sys2Proof.Machine.execDp8Si4 sw d a b s
  | .dp8Si4ui4 sw d a b => Sys2Proof.Machine.execDp8Si4ui4 sw d a b s
  | .dp4F8a sw d a b => Sys2Proof.Machine.execDp4F8a sw d a b s
  | .dp4F8b sw d a b => Sys2Proof.Machine.execDp4F8b sw d a b s
  | .dp8F4 sw d a b => Sys2Proof.Machine.execDp8F4 sw d a b s
  | .dp2Bf16 sw d a b => Sys2Proof.Machine.execDp2Bf16 sw d a b s
  | .dp2F16 sw d a b => Sys2Proof.Machine.execDp2F16 sw d a b s
  | .dp4F8aSc sw k d a b => Sys2Proof.Machine.execDp4F8aSc sw k d a b s
  | .dp4F8bSc sw k d a b => Sys2Proof.Machine.execDp4F8bSc sw k d a b s
  | .dp8F4Sc sw k d a b => Sys2Proof.Machine.execDp8F4Sc sw k d a b s
  | .shflIdx sw d a b => Sys2Proof.Machine.execShflIdx sw d a b s
  | .shflUpW sw d a n => Sys2Proof.Machine.execShflUpW sw d a n s
  | .shflDownW sw d a n => Sys2Proof.Machine.execShflDownW sw d a n s
  | .shflXorW sw d a n => Sys2Proof.Machine.execShflXorW sw d a n s
  | .shflUp sw d a k => Sys2Proof.Machine.execShflUp sw d a k s
  | .shflDown sw d a k => Sys2Proof.Machine.execShflDown sw d a k s
  | .shflXor sw d a k => Sys2Proof.Machine.execShflXor sw d a k s
  | .lredAddSi32 sw d a g => Sys2Proof.Machine.execLredAddSi32 sw d a g s
  | .lredAddF32 sw d a g => Sys2Proof.Machine.execLredAddF32 sw d a g s
  | .lredMinSi32 sw d a g => Sys2Proof.Machine.execLredMinSi32 sw d a g s
  | .lredMaxSi32 sw d a g => Sys2Proof.Machine.execLredMaxSi32 sw d a g s
  | .lredMinF32 sw d a g => Sys2Proof.Machine.execLredMinF32 sw d a g s
  | .lredMaxF32 sw d a g => Sys2Proof.Machine.execLredMaxF32 sw d a g s
  | .lredAnd sw d a g => Sys2Proof.Machine.execLredAnd sw d a g s
  | .lredOr sw d a g => Sys2Proof.Machine.execLredOr sw d a g s
  | .lredXor sw d a g => Sys2Proof.Machine.execLredXor sw d a g s
  | .voteEvery sw q p => Sys2Proof.Machine.execVoteEvery sw q p s
  | .voteSome sw q p => Sys2Proof.Machine.execVoteSome sw q p s
  | .voteSame sw q p => Sys2Proof.Machine.execVoteSame sw q p s
  | .voteMask sw d p => Sys2Proof.Machine.execVoteMask sw d p s
  | .pand sw d a b => Sys2Proof.Machine.execPand sw d a b s
  | .por sw d a b => Sys2Proof.Machine.execPor sw d a b s
  | .pxor sw d a b => Sys2Proof.Machine.execPxor sw d a b s
  | .pmov sw d a => Sys2Proof.Machine.execPmov sw d a s
  | .p2r sw d => Sys2Proof.Machine.execP2r sw d s
  | .regToPred sw a => Sys2Proof.Machine.execRegToPred sw a s
  | .qand sw d a b => Sys2Proof.Machine.execQand sw d a b s
  | .qor sw d a b => Sys2Proof.Machine.execQor sw d a b s
  | .qxor sw d a b => Sys2Proof.Machine.execQxor sw d a b s
  | .qmov sw d a => Sys2Proof.Machine.execQmov sw d a s
  | .bra sw n c o => Sys2Proof.Machine.execBra sw n c o s
  | .ubra sw n c o => Sys2Proof.Machine.execUbra sw n c o s
  | .call sw n c o => Sys2Proof.Machine.execCall sw n c o s
  | .jr sw a => Sys2Proof.Machine.execJr sw a s
  | .callr sw a => Sys2Proof.Machine.execCallr sw a s
  | .reform sw => Sys2Proof.Machine.execReform sw s
  | .exit sw => Sys2Proof.Machine.execExit sw s
  | .brk sw c => Sys2Proof.Machine.execBrk sw c s
  | .nop sw => Sys2Proof.Machine.execNop sw s
  | .winb sw n => Sys2Proof.Machine.execWinb sw n s
  | .uwinb sw n => Sys2Proof.Machine.execUwinb sw n s
  | .tokp sw => Sys2Proof.Machine.execTokp sw s
  | .rnd sw d => Sys2Proof.Machine.execRnd sw d s
  | .sysc sw n => Sys2Proof.Machine.execSysc sw n s
  | .tret sw => Sys2Proof.Machine.execTret sw s
  | .ldB sw d a o => Sys2Proof.Machine.execLdB sw d a o s
  | .ldSb sw d a o => Sys2Proof.Machine.execLdSb sw d a o s
  | .ldH sw d a o => Sys2Proof.Machine.execLdH sw d a o s
  | .ldSh sw d a o => Sys2Proof.Machine.execLdSh sw d a o s
  | .ldW sw d a o => Sys2Proof.Machine.execLdW sw d a o s
  | .ldD sw d a o => Sys2Proof.Machine.execLdD sw d a o s
  | .ldQ sw d a o => Sys2Proof.Machine.execLdQ sw d a o s
  | .stB sw d a o => Sys2Proof.Machine.execStB sw d a o s
  | .stH sw d a o => Sys2Proof.Machine.execStH sw d a o s
  | .stW sw d a o => Sys2Proof.Machine.execStW sw d a o s
  | .stD sw d a o => Sys2Proof.Machine.execStD sw d a o s
  | .stQ sw d a o => Sys2Proof.Machine.execStQ sw d a o s
  | .lduW sw d a o => Sys2Proof.Machine.execLduW sw d a o s
  | .lduD sw d a o => Sys2Proof.Machine.execLduD sw d a o s
  | .ldsW sw d a w o => Sys2Proof.Machine.execLdsW sw d a w o s
  | .ldsD sw d a w o => Sys2Proof.Machine.execLdsD sw d a w o s
  | .ldsQ sw d a w o => Sys2Proof.Machine.execLdsQ sw d a w o s
  | .stsW sw d a w o => Sys2Proof.Machine.execStsW sw d a w o s
  | .stsD sw d a w o => Sys2Proof.Machine.execStsD sw d a w o s
  | .stsQ sw d a w o => Sys2Proof.Machine.execStsQ sw d a w o s
  | .ldpB sw d a o => Sys2Proof.Machine.execLdpB sw d a o s
  | .ldpSb sw d a o => Sys2Proof.Machine.execLdpSb sw d a o s
  | .ldpH sw d a o => Sys2Proof.Machine.execLdpH sw d a o s
  | .ldpSh sw d a o => Sys2Proof.Machine.execLdpSh sw d a o s
  | .ldpW sw d a o => Sys2Proof.Machine.execLdpW sw d a o s
  | .ldpD sw d a o => Sys2Proof.Machine.execLdpD sw d a o s
  | .ldpQ sw d a o => Sys2Proof.Machine.execLdpQ sw d a o s
  | .stpB sw d a o => Sys2Proof.Machine.execStpB sw d a o s
  | .stpH sw d a o => Sys2Proof.Machine.execStpH sw d a o s
  | .stpW sw d a o => Sys2Proof.Machine.execStpW sw d a o s
  | .stpD sw d a o => Sys2Proof.Machine.execStpD sw d a o s
  | .stpQ sw d a o => Sys2Proof.Machine.execStpQ sw d a o s
  | .atomAddSi32 sw d a o => Sys2Proof.Machine.execAtomAddSi32 sw d a o s
  | .atomAddF32 sw d a o => Sys2Proof.Machine.execAtomAddF32 sw d a o s
  | .atomMinSi32 sw d a o => Sys2Proof.Machine.execAtomMinSi32 sw d a o s
  | .atomMaxSi32 sw d a o => Sys2Proof.Machine.execAtomMaxSi32 sw d a o s
  | .atomMinUi32 sw d a o => Sys2Proof.Machine.execAtomMinUi32 sw d a o s
  | .atomMaxUi32 sw d a o => Sys2Proof.Machine.execAtomMaxUi32 sw d a o s
  | .atomAnd sw d a o => Sys2Proof.Machine.execAtomAnd sw d a o s
  | .atomOr sw d a o => Sys2Proof.Machine.execAtomOr sw d a o s
  | .atomXor sw d a o => Sys2Proof.Machine.execAtomXor sw d a o s
  | .atomExchB32 sw d a o => Sys2Proof.Machine.execAtomExchB32 sw d a o s
  | .atomCasB32 sw d a o => Sys2Proof.Machine.execAtomCasB32 sw d a o s
  | .atomAddUi64 sw d a o => Sys2Proof.Machine.execAtomAddUi64 sw d a o s
  | .atomExchB64 sw d a o => Sys2Proof.Machine.execAtomExchB64 sw d a o s
  | .atomCasB64 sw d a o => Sys2Proof.Machine.execAtomCasB64 sw d a o s
  | .atomLdx sw d a o => Sys2Proof.Machine.execAtomLdx sw d a o s
  | .atomStx sw d a o => Sys2Proof.Machine.execAtomStx sw d a o s
  | .capr sw d a imm => Sys2Proof.Machine.execCapr sw d a imm s
  | .srd sw d n => Sys2Proof.Machine.execSrd sw d n s
  | .srdUniform sw d n => Sys2Proof.Machine.execSrdUniform sw d n s
  | .swr sw a => Sys2Proof.Machine.execSwr sw a s
  | .mredAddSi32 sw d a o => Sys2Proof.Machine.execMredAddSi32 sw d a o s
  | .mredAddF32 sw d a o => Sys2Proof.Machine.execMredAddF32 sw d a o s
  | .mredMinSi32 sw d a o => Sys2Proof.Machine.execMredMinSi32 sw d a o s
  | .mredMaxSi32 sw d a o => Sys2Proof.Machine.execMredMaxSi32 sw d a o s
  | .mredMinUi32 sw d a o => Sys2Proof.Machine.execMredMinUi32 sw d a o s
  | .mredMaxUi32 sw d a o => Sys2Proof.Machine.execMredMaxUi32 sw d a o s
  | .mredAnd sw d a o => Sys2Proof.Machine.execMredAnd sw d a o s
  | .mredOr sw d a o => Sys2Proof.Machine.execMredOr sw d a o s
  | .mredXor sw d a o => Sys2Proof.Machine.execMredXor sw d a o s
  | .fence sw c e => Sys2Proof.Machine.execFence sw c e s
  | .waitc sw d a c p => Sys2Proof.Machine.execWaitc sw d a c p s
  | .wake sw a c p => Sys2Proof.Machine.execWake sw a c p s
  | .barArr sw b => Sys2Proof.Machine.execBarArr sw b s
  | .barWait sw b => Sys2Proof.Machine.execBarWait sw b s
  | .barSync sw b => Sys2Proof.Machine.execBarSync sw b s
  | .cbacq sw d b => Sys2Proof.Machine.execCbacq sw d b s
  | .cbrel sw a b => Sys2Proof.Machine.execCbrel sw a b s
  | .cbfill sw d b => Sys2Proof.Machine.execCbfill sw d b s
  | .cbdone sw a b => Sys2Proof.Machine.execCbdone sw a b s
  | .cpy sw c a => Sys2Proof.Machine.execCpy sw c a s
  | .cpy2d sw c a => Sys2Proof.Machine.execCpy2d sw c a s
  | .cpyred sw c a => Sys2Proof.Machine.execCpyred sw c a s
  | .cpyMx sw c a => Sys2Proof.Machine.execCpyMx sw c a s
  | .qfence sw c m => Sys2Proof.Machine.execQfence sw c m s
  | .qwait sw x a y => Sys2Proof.Machine.execQwait sw x a y s
  | .mldSt sw n a b => Sys2Proof.Machine.execMldSt sw n a b s
  | .mswap sw n => Sys2Proof.Machine.execMswap sw n s
  | .mma sw z t a b => Sys2Proof.Machine.execMma sw z t a b s
  | .maccRd sw d a b => Sys2Proof.Machine.execMaccRd sw d a b s
  | .mst sw k t a b => Sys2Proof.Machine.execMst sw k t a b s
  | .maccClr sw t n => Sys2Proof.Machine.execMaccClr sw t n s
  | .mstat sw d a => Sys2Proof.Machine.execMstat sw d a s
  | .hread sw c a => Sys2Proof.Machine.execHread sw c a s
  | .xsort sw c a => Sys2Proof.Machine.execXsort sw c a s
  | .a2av sw c a => Sys2Proof.Machine.execA2av sw c a s
  | .areduce sw c a => Sys2Proof.Machine.execAreduce sw c a s
  | .rput sw c a => Sys2Proof.Machine.execRput sw c a s
  | .rget sw c a => Sys2Proof.Machine.execRget sw c a s
  | .ratom sw c a => Sys2Proof.Machine.execRatom sw c a s
  | .rflush sw c a => Sys2Proof.Machine.execRflush sw c a s
  | .kvld sw c a d => Sys2Proof.Machine.execKvld sw c a d s
  | .roost sw c a => Sys2Proof.Machine.execRoost sw c a s
  | .rouse sw c a => Sys2Proof.Machine.execRouse sw c a s
  | .lnch sw c a => Sys2Proof.Machine.execLnch sw c a s
  | .cncl sw l a d => Sys2Proof.Machine.execCncl sw l a d s
  | .gang sw c a => Sys2Proof.Machine.execGang sw c a s
  | .psrd sw d n => Sys2Proof.Machine.execPsrd sw d n s
  | .pswr sw a n => Sys2Proof.Machine.execPswr sw a n s
  | .guardPrefix n c => Sys2Proof.Machine.execGuardPrefix n c s
  | .resultLand id => Sys2Proof.Machine.execResultLand id s
  | .storePerform id => Sys2Proof.Machine.execStorePerform id s
  | .waitcSoRepeat crew lane => Sys2Proof.Machine.execWaitcSoRepeat crew lane s
  | .binAged qtr bin => Sys2Proof.Machine.execBinAged qtr bin s
  | .binRelease qtr => Sys2Proof.Machine.execBinRelease qtr s
  | .syscPostHeld world => Sys2Proof.Machine.execSyscPostHeld world s
  | .collectivePerform crew => Sys2Proof.Machine.execCollectivePerform crew s
  | .faultEntryPostHeld group => Sys2Proof.Machine.execFaultEntryPostHeld group s
  | .lastExitRelease unit => Sys2Proof.Machine.execLastExitRelease unit s
  | .kernelBoundary world launch => Sys2Proof.Machine.execKernelBoundary world launch s
  | .asyncTrapEntry crew => Sys2Proof.Machine.execAsyncTrapEntry crew s
  | .mldStPerform qtr => Sys2Proof.Machine.execMldStPerform qtr s
  | .mswapPerform qtr => Sys2Proof.Machine.execMswapPerform qtr s
  | .mmaPerform qtr => Sys2Proof.Machine.execMmaPerform qtr s
  | .mstPerform qtr => Sys2Proof.Machine.execMstPerform qtr s
  | .maccClrPerform qtr => Sys2Proof.Machine.execMaccClrPerform qtr s
  | .maccRdLand qtr => Sys2Proof.Machine.execMaccRdLand qtr s
  | .mstatLand qtr => Sys2Proof.Machine.execMstatLand qtr s
  | .arrayUncorrectableError qtr inPlane shadow row entry => Sys2Proof.Machine.execArrayUncorrectableError qtr inPlane shadow row entry s
  | .engineEntryStart entry => Sys2Proof.Machine.execEngineEntryStart entry s
  | .cpyComplete entry => Sys2Proof.Machine.execCpyComplete entry s
  | .cpyredChunkApply entry => Sys2Proof.Machine.execCpyredChunkApply entry s
  | .copyReplay entry => Sys2Proof.Machine.execCopyReplay entry s
  | .qfenceComplete entry => Sys2Proof.Machine.execQfenceComplete entry s
  | .qwaitComplete entry => Sys2Proof.Machine.execQwaitComplete entry s
  | .hreadBurstArrive entry burst bytes => Sys2Proof.Machine.execHreadBurstArrive entry burst bytes s
  | .hreadBurstFetchFail entry burst status reason final => Sys2Proof.Machine.execHreadBurstFetchFail entry burst status reason final s
  | .dripBirth core quarter => Sys2Proof.Machine.execDripBirth core quarter s
  | .xsortComplete entry => Sys2Proof.Machine.execXsortComplete entry s
  | .groupInstanceBegin entry kinds counts noinnets path fallback => Sys2Proof.Machine.execGroupInstanceBegin entry kinds counts noinnets path fallback s
  | .groupWithdrawal entry rank => Sys2Proof.Machine.execGroupWithdrawal entry rank s
  | .a2avCountExchange entry metas => Sys2Proof.Machine.execA2avCountExchange entry metas s
  | .a2avPartPlaced entry sender bytes => Sys2Proof.Machine.execA2avPartPlaced entry sender bytes s
  | .areduceComplete entry contributions => Sys2Proof.Machine.execAreduceComplete entry contributions s
  | .rmaRequestReceive req => Sys2Proof.Machine.execRmaRequestReceive req s
  | .rputComplete entry => Sys2Proof.Machine.execRputComplete entry s
  | .rgetComplete entry bytes => Sys2Proof.Machine.execRgetComplete entry bytes s
  | .ratomComplete entry old => Sys2Proof.Machine.execRatomComplete entry old s
  | .rflushComplete entry => Sys2Proof.Machine.execRflushComplete entry s
  | .kvldStatusLand id => Sys2Proof.Machine.execKvldStatusLand id s
  | .roostRegistered entry => Sys2Proof.Machine.execRoostRegistered entry s
  | .rouseArrive roost payload sender => Sys2Proof.Machine.execRouseArrive roost payload sender s
  | .gangPrepare world ldesc tick queue issuer => Sys2Proof.Machine.execGangPrepare world ldesc tick queue issuer s
  | .gangDecision entry reasons => Sys2Proof.Machine.execGangDecision entry reasons s
  | .gangCommit gang => Sys2Proof.Machine.execGangCommit gang s
  | .gangAbort gang => Sys2Proof.Machine.execGangAbort gang s
  | .gangTickDispatch gang => Sys2Proof.Machine.execGangTickDispatch gang s
  | .preemptRequest units reason grace => Sys2Proof.Machine.execPreemptRequest units reason grace s
  | .preemptGraceExpiry crew => Sys2Proof.Machine.execPreemptGraceExpiry crew s
  | .saveDeadlineExpiry crew => Sys2Proof.Machine.execSaveDeadlineExpiry crew s
  | .ctxopSave crew => Sys2Proof.Machine.execCtxopSave crew s
  | .ctxopRestore crew => Sys2Proof.Machine.execCtxopRestore crew s
  | .accdatWrite crew lane value => Sys2Proof.Machine.execAccdatWrite crew lane value s
  | .accstatWrite crew lane value => Sys2Proof.Machine.execAccstatWrite crew lane value s
  | .resumeStart launch => Sys2Proof.Machine.execResumeStart launch s
  | .syscReplyDoorbell world reqid status lanes values => Sys2Proof.Machine.execSyscReplyDoorbell world reqid status lanes values s
  | .syscAlloc world reqid => Sys2Proof.Machine.execSyscAlloc world reqid s
  | .syscFree world reqid => Sys2Proof.Machine.execSyscFree world reqid s
  | .kick world queue tail => Sys2Proof.Machine.execKick world queue tail s
  | .queueEntryTake world queue => Sys2Proof.Machine.execQueueEntryTake world queue s
  | .ctrlResume world => Sys2Proof.Machine.execCtrlResume world s
  | .ctrlCancel world => Sys2Proof.Machine.execCtrlCancel world s
  | .ctrlClose world => Sys2Proof.Machine.execCtrlClose world s
  | .claimUnit world => Sys2Proof.Machine.execClaimUnit world s
  | .claimFree world => Sys2Proof.Machine.execClaimFree world s
  | .priorityRise launch => Sys2Proof.Machine.execPriorityRise launch s
  | .dispatchUnit die => Sys2Proof.Machine.execDispatchUnit die s
  | .starvationPreempt world => Sys2Proof.Machine.execStarvationPreempt world s
  | .localityScoreHalve core => Sys2Proof.Machine.execLocalityScoreHalve core s
  | .throttleSwap crew => Sys2Proof.Machine.execThrottleSwap crew s
  | .invalidationRequest world => Sys2Proof.Machine.execInvalidationRequest world s
  | .invalidationComplete world => Sys2Proof.Machine.execInvalidationComplete world s
  | .fillDataReceive service bytes homeError dataver => Sys2Proof.Machine.execFillDataReceive service bytes homeError dataver s
  | .waiterRunWake service => Sys2Proof.Machine.execWaiterRunWake service s
  | .postFillHoldExpiry service => Sys2Proof.Machine.execPostFillHoldExpiry service s
  | .evictionComplete frame => Sys2Proof.Machine.execEvictionComplete frame s
  | .uncorrectableMemoryError pa granules => Sys2Proof.Machine.execUncorrectableMemoryError pa granules s
  | .homeRds line agent => Sys2Proof.Machine.execHomeRds line agent s
  | .homeRdx line agent => Sys2Proof.Machine.execHomeRdx line agent s
  | .homeUpg line agent => Sys2Proof.Machine.execHomeUpg line agent s
  | .homeWb line agent => Sys2Proof.Machine.execHomeWb line agent s
  | .homeEve line agent => Sys2Proof.Machine.execHomeEve line agent s
  | .homeAckReceive line agent => Sys2Proof.Machine.execHomeAckReceive line agent s
  | .homeMemoryWriteDone line => Sys2Proof.Machine.execHomeMemoryWriteDone line s
  | .agentFwds line agent => Sys2Proof.Machine.execAgentFwds line agent s
  | .agentFwdx line agent => Sys2Proof.Machine.execAgentFwdx line agent s
  | .agentInv line agent => Sys2Proof.Machine.execAgentInv line agent s
  | .agentDataReceive line agent => Sys2Proof.Machine.execAgentDataReceive line agent s
  | .agentGrantReceive line agent => Sys2Proof.Machine.execAgentGrantReceive line agent s
  | .agentWbackReceive line agent => Sys2Proof.Machine.execAgentWbackReceive line agent s
  | .agentWbstaleReceive line agent => Sys2Proof.Machine.execAgentWbstaleReceive line agent s
  | .agentLineDrop line agent => Sys2Proof.Machine.execAgentLineDrop line agent s
  | .shardGets job page rank => Sys2Proof.Machine.execShardGets job page rank s
  | .shardGetx job page rank => Sys2Proof.Machine.execShardGetx job page rank s
  | .shardWbrel job page rank bytes => Sys2Proof.Machine.execShardWbrel job page rank bytes s
  | .shardDrop job page rank => Sys2Proof.Machine.execShardDrop job page rank s
  | .shardHomeAck job page ok => Sys2Proof.Machine.execShardHomeAck job page ok s
  | .shardRecallAck job page rank => Sys2Proof.Machine.execShardRecallAck job page rank s
  | .holderRecall job page => Sys2Proof.Machine.execHolderRecall job page s
  | .ownerXferS job page dst => Sys2Proof.Machine.execOwnerXferS job page dst s
  | .ownerXferX job page dst => Sys2Proof.Machine.execOwnerXferX job page dst s
  | .tenureEnd job page => Sys2Proof.Machine.execTenureEnd job page s
  | .lookupAckReceive service noHome storage => Sys2Proof.Machine.execLookupAckReceive service noHome storage s
  | .wbackReceive job page => Sys2Proof.Machine.execWbackReceive job page s
  | .staleReceive job page => Sys2Proof.Machine.execStaleReceive job page s
  | .heldReceive service => Sys2Proof.Machine.execHeldReceive service s
  | .homeWriteTimeout job page => Sys2Proof.Machine.execHomeWriteTimeout job page s
  | .attemptTimeout service pinned => Sys2Proof.Machine.execAttemptTimeout service pinned s
  | .backoffExpiry service => Sys2Proof.Machine.execBackoffExpiry service s
  | .victimRetry service => Sys2Proof.Machine.execVictimRetry service s
  | .frameAging touched => Sys2Proof.Machine.execFrameAging touched s
  | .installClean world => Sys2Proof.Machine.execInstallClean world s
  | .installDirty world => Sys2Proof.Machine.execInstallDirty world s
  | .retry world => Sys2Proof.Machine.execRetry world s
  | .kill world => Sys2Proof.Machine.execKill world s
  | .pin world => Sys2Proof.Machine.execPin world s
  | .unpin world => Sys2Proof.Machine.execUnpin world s
  | .dirset world => Sys2Proof.Machine.execDirset world s
  | .roostT1Expiry roost => Sys2Proof.Machine.execRoostT1Expiry roost s
  | .roostT2Expiry roost => Sys2Proof.Machine.execRoostT2Expiry roost s
  | .pageDescentDone roost page accepted => Sys2Proof.Machine.execPageDescentDone roost page accepted s
  | .pageAscentDone roost page => Sys2Proof.Machine.execPageAscentDone roost page s
  | .checkpointSave => Sys2Proof.Machine.execCheckpointSave s
  | .checkpointRestore => Sys2Proof.Machine.execCheckpointRestore s
  | .checkpointAbort => Sys2Proof.Machine.execCheckpointAbort s
  | .checkpointDrainDone => Sys2Proof.Machine.execCheckpointDrainDone s
  | .checkpointSegmentDone outcome bytes => Sys2Proof.Machine.execCheckpointSegmentDone outcome bytes s
  | .packetReceive pkt => Sys2Proof.Machine.execPacketReceive pkt s
  | .retransmitTimeout peer seq => Sys2Proof.Machine.execRetransmitTimeout peer seq s
  | .ackReceive peer seq marked => Sys2Proof.Machine.execAckReceive peer seq marked s
  | .rateRiseTick peer => Sys2Proof.Machine.execRateRiseTick peer s
  | .ptpSync elapsed correction => Sys2Proof.Machine.execPtpSync elapsed correction s
  | .dieFlitReceive die world entry pa granules => Sys2Proof.Machine.execDieFlitReceive die world entry pa granules s
  | .linkUnitReceive link tagOk entry pa granules => Sys2Proof.Machine.execLinkUnitReceive link tagOk entry pa granules s
  | .linkUnitClose link => Sys2Proof.Machine.execLinkUnitClose link s
  | .linkKeyRenew link => Sys2Proof.Machine.execLinkKeyRenew link s
  | .firmwareActivation component target svn ecdsaOk hssOk digest live => Sys2Proof.Machine.execFirmwareActivation component target svn ecdsaOk hssOk digest live s
  | .getVersion version => Sys2Proof.Machine.execGetVersion version s
  | .getCapabilities version => Sys2Proof.Machine.execGetCapabilities version s
  | .negotiateAlgorithms version supported => Sys2Proof.Machine.execNegotiateAlgorithms version supported s
  | .getDigests version => Sys2Proof.Machine.execGetDigests version s
  | .getCertificate version slot => Sys2Proof.Machine.execGetCertificate version slot s
  | .challenge version slot nonce => Sys2Proof.Machine.execChallenge version slot nonce s
  | .getMeasurements version index signed nonce => Sys2Proof.Machine.execGetMeasurements version index signed nonce s
  | .keyExchange version slot => Sys2Proof.Machine.execKeyExchange version slot s
  | .finish version session verified => Sys2Proof.Machine.execFinish version session verified s
  | .heartbeat version session => Sys2Proof.Machine.execHeartbeat version session s
  | .keyUpdate version session => Sys2Proof.Machine.execKeyUpdate version session s
  | .endSession version session => Sys2Proof.Machine.execEndSession version session s
  | .spdmUnsupportedRequest version code => Sys2Proof.Machine.execSpdmUnsupportedRequest version code s
  | .leaseAttestation world swid outcome now => Sys2Proof.Machine.execLeaseAttestation world swid outcome now s
  | .leaseRenewalDue world swid => Sys2Proof.Machine.execLeaseRenewalDue world swid s
  | .leaseBusyRetry world swid => Sys2Proof.Machine.execLeaseBusyRetry world swid s
  | .leaseExpiry world swid => Sys2Proof.Machine.execLeaseExpiry world swid s
  | .leaseKeyGraceEnd world swid => Sys2Proof.Machine.execLeaseKeyGraceEnd world swid s
  | .leaseChangeReceive world swid state reason leaseNo expiry authNow => Sys2Proof.Machine.execLeaseChangeReceive world swid state reason leaseNo expiry authNow s
  | .sessionKeyDistribution job rank attested => Sys2Proof.Machine.execSessionKeyDistribution job rank attested s
  | .epochAdvance job => Sys2Proof.Machine.execEpochAdvance job s
  | .epochOverlapEnd job => Sys2Proof.Machine.execEpochOverlapEnd job s
  | .worldLatch die world => Sys2Proof.Machine.execWorldLatch die world s
  | .worldCreate world job rank authRank regions simagePa simageLen => Sys2Proof.Machine.execWorldCreate world job rank authRank regions simagePa simageLen s
  | .worldTeardown world => Sys2Proof.Machine.execWorldTeardown world s
  | .ringDoorbell world ring tail => Sys2Proof.Machine.execRingDoorbell world ring tail s
  | .rcmdEnable world ring => Sys2Proof.Machine.execRcmdEnable world ring s
  | .rcmdResume world ring => Sys2Proof.Machine.execRcmdResume world ring s
  | .rcmdDisable world ring => Sys2Proof.Machine.execRcmdDisable world ring s
  | .ringRekey world ring => Sys2Proof.Machine.execRingRekey world ring s
  | .sampleTick qtr crew => Sys2Proof.Machine.execSampleTick qtr crew s
  | .dcmdHalt world => Sys2Proof.Machine.execDcmdHalt world s
  | .dcmdResume world => Sys2Proof.Machine.execDcmdResume world s
  | .dcmdStep world => Sys2Proof.Machine.execDcmdStep world s
  | .prefetchTick world stream => Sys2Proof.Machine.execPrefetchTick world stream s
  | .powerOn failed fcframes fcbase wayl dies worlds cxl => Sys2Proof.Machine.execPowerOn failed fcframes fcbase wayl dies worlds cxl s
  | .powerStateChange pstate => Sys2Proof.Machine.execPowerStateChange pstate s
  | .thermalThreshold reading => Sys2Proof.Machine.execThermalThreshold reading s
  | .registerWrite page off value fromM => Sys2Proof.Machine.execRegisterWrite page off value fromM s
  | .portDown port => Sys2Proof.Machine.execPortDown port s
  | .portUp port => Sys2Proof.Machine.execPortUp port s
  | .ptpLockLoss => Sys2Proof.Machine.execPtpLockLoss s
  | .deviceReset => Sys2Proof.Machine.execDeviceReset s
  | .powerLoss => Sys2Proof.Machine.execPowerLoss s
  | .jobOpen world => Sys2Proof.Machine.execJobOpen world s
  | .grantReceive service dataver => Sys2Proof.Machine.execGrantReceive service dataver s
  | .liveActivationEnd component digest => Sys2Proof.Machine.execLiveActivationEnd component digest s

end Sys2Proof.Machine
end

