-- ==== Sys2Proof/Machine/Fetch.lean ====
section
/-! DEFINITION. Which move the machine makes next, and how an issue set fetches and decodes its instruction
(R23, R30, R51, R147 to R150). -/

namespace Sys2Proof.Machine

noncomputable section

/-! ## Fetch and decode -/

/-- Every active thread of the set takes one ILL (R148, R149). -/
def State.illSet (s : State) (uid k0 : Nat) (tr : Trap) : State :=
  ({ (s.onCrew uid fun c => c.onThreads (sel k0) fun t => t.raise tr) with iss := ⟨0, 0, none⟩ }).settle uid

/-- A branch, a call or a jump (R192, R193): it may leave its thread at its own address. -/
def branchWord (w : Word) : Bool :=
  let m := (w.extractLsb' 25 6).toNat
  decide (0x1C ≤ m) && decide (m ≤ 0x1F)

/-- The halt of a crew of which a set begins an instruction (R433). -/
def State.beginStep (s : State) (c : Crew) (k0 : Nat) (w : Option Word) : Halt :=
  if !c.halt.steps then c.halt
  else if w.any branchWord && !s.setWaits c k0 then .stepped []
  else .stepped ((c.threads.filter (sel k0)).map fun t => (t.lane, t.pc))

/-- What a step is about to do. -/
inductive Plan where
  /-- nothing can move -/
  | idle
  /-- an instruction or an event, executed in this state -/
  | run (s : State) (i : Instr)
  /-- a fetch or decode that fails, its ILL already raised, a held instruction, or an access of the processor chiplet
  already performed -/
  | ill (s : State)
  deriving DecidableEq, Repr

/-- The issue of an issue set: fetch and decode at its PC, or after the prefix it has latched. An ill-formed prefix and
the word after it are a guarded pair of the record (R149, R312; DEDUCED). Where the fetch of a guarded word fails, R147
gives the trap the fetch offset and R149 and R308 the prefix's address: the record's PC here is the prefix's (log entry 24,
DESIGN CHOICE). -/
def State.planSet (s : State) (uid k0 : Nat) (guard : Option (BitVec 4)) : Plan :=
  match s.crew uid with
  | none => .ill { s with iss := ⟨0, 0, none⟩ }
  | some c =>
    match c.threads.find? (sel k0) with
    | none => .ill { s with iss := ⟨0, 0, none⟩ }
    | some t =>
      let pc := t.pc.toNat + (if guard.isSome then 4 else 0)
      let w := s.fetchWord (s.imageOf c t) pc
      let s := { (s.onCrew uid fun c => { c with halt := s.beginStep c k0 w }) with iss := ⟨uid, k0, guard⟩ }
      match w with
      | none => .ill (s.illSet uid k0 (illTrap guard 0 .fetch))
      | some w =>
        if s.throttled.contains c.uid && throttledWord w then .ill { s with iss := ⟨0, 0, none⟩ }
        else match decodeWord w with
        | .error r =>
          if r = .operand then
            match refuseOperand { word := w, sw := w.getLsbD 31, ops := [aX (w.extractLsb' 7 7) 1] } s with
            | .next s' => .ill s'
            | _ => .ill s
          else .ill (s.illSet uid k0 (if guard.isNone && w.extractLsb' 25 6 == 62#6 then
            mkTrap .ill (illNum r) [w.toNat, ((s.fetchWord (s.imageOf c t) (pc + 4)).getD 0).toNat]
            else illTrap guard w r))
        | .ok i => .run s i

/-! ## Events -/

/-- The step of the opcode table that an event is. -/
def Event.instr (e : Event) : Instr :=
  match e with
  | .resultLand id => .resultLand id
  | .storePerform id => .storePerform id
  | .waitcSoRepeat crew lane => .waitcSoRepeat crew lane
  | .binAged qtr bin => .binAged qtr bin
  | .binRelease qtr => .binRelease qtr
  | .syscPostHeld world => .syscPostHeld world
  | .collectivePerform crew => .collectivePerform crew
  | .faultEntryPostHeld group => .faultEntryPostHeld group
  | .lastExitRelease unit => .lastExitRelease unit
  | .kernelBoundary world launch => .kernelBoundary world launch
  | .asyncTrapEntry crew => .asyncTrapEntry crew
  | .mldStPerform qtr => .mldStPerform qtr
  | .mswapPerform qtr => .mswapPerform qtr
  | .mmaPerform qtr => .mmaPerform qtr
  | .mstPerform qtr => .mstPerform qtr
  | .maccClrPerform qtr => .maccClrPerform qtr
  | .maccRdLand qtr => .maccRdLand qtr
  | .mstatLand qtr => .mstatLand qtr
  | .arrayUncorrectableError qtr inPlane shadow row entry => .arrayUncorrectableError qtr inPlane shadow row entry
  | .engineEntryStart entry => .engineEntryStart entry
  | .cpyComplete entry => .cpyComplete entry
  | .cpyredChunkApply entry => .cpyredChunkApply entry
  | .copyReplay entry => .copyReplay entry
  | .qfenceComplete entry => .qfenceComplete entry
  | .qwaitComplete entry => .qwaitComplete entry
  | .hreadBurstArrive entry burst bytes => .hreadBurstArrive entry burst bytes
  | .hreadBurstFetchFail entry burst status reason final => .hreadBurstFetchFail entry burst status reason final
  | .dripBirth core quarter => .dripBirth core quarter
  | .xsortComplete entry => .xsortComplete entry
  | .groupInstanceBegin entry kinds counts noinnets path fallback => .groupInstanceBegin entry kinds counts noinnets path fallback
  | .groupWithdrawal entry rank => .groupWithdrawal entry rank
  | .a2avCountExchange entry metas => .a2avCountExchange entry metas
  | .a2avPartPlaced entry sender bytes => .a2avPartPlaced entry sender bytes
  | .areduceComplete entry contributions => .areduceComplete entry contributions
  | .rmaRequestReceive req => .rmaRequestReceive req
  | .rputComplete entry => .rputComplete entry
  | .rgetComplete entry bytes => .rgetComplete entry bytes
  | .ratomComplete entry old => .ratomComplete entry old
  | .rflushComplete entry => .rflushComplete entry
  | .kvldStatusLand id => .kvldStatusLand id
  | .roostRegistered entry => .roostRegistered entry
  | .rouseArrive roost payload sender => .rouseArrive roost payload sender
  | .gangPrepare world ldesc tick queue issuer => .gangPrepare world ldesc tick queue issuer
  | .gangDecision entry reasons => .gangDecision entry reasons
  | .gangCommit gang => .gangCommit gang
  | .gangAbort gang => .gangAbort gang
  | .gangTickDispatch gang => .gangTickDispatch gang
  | .preemptRequest units reason grace => .preemptRequest units reason grace
  | .preemptGraceExpiry crew => .preemptGraceExpiry crew
  | .saveDeadlineExpiry crew => .saveDeadlineExpiry crew
  | .ctxopSave crew => .ctxopSave crew
  | .ctxopRestore crew => .ctxopRestore crew
  | .accdatWrite crew lane value => .accdatWrite crew lane value
  | .accstatWrite crew lane value => .accstatWrite crew lane value
  | .resumeStart launch => .resumeStart launch
  | .syscReplyDoorbell world reqid status lanes values => .syscReplyDoorbell world reqid status lanes values
  | .syscAlloc world reqid => .syscAlloc world reqid
  | .syscFree world reqid => .syscFree world reqid
  | .kick world queue tail => .kick world queue tail
  | .queueEntryTake world queue => .queueEntryTake world queue
  | .ctrlResume world => .ctrlResume world
  | .ctrlCancel world => .ctrlCancel world
  | .ctrlClose world => .ctrlClose world
  | .claimUnit world => .claimUnit world
  | .claimFree world => .claimFree world
  | .priorityRise launch => .priorityRise launch
  | .dispatchUnit die => .dispatchUnit die
  | .starvationPreempt world => .starvationPreempt world
  | .localityScoreHalve core => .localityScoreHalve core
  | .throttleSwap crew => .throttleSwap crew
  | .invalidationRequest world => .invalidationRequest world
  | .invalidationComplete world => .invalidationComplete world
  | .fillDataReceive service bytes homeError dataver => .fillDataReceive service bytes homeError dataver
  | .waiterRunWake service => .waiterRunWake service
  | .postFillHoldExpiry service => .postFillHoldExpiry service
  | .evictionComplete frame => .evictionComplete frame
  | .uncorrectableMemoryError pa granules => .uncorrectableMemoryError pa granules
  | .homeRds line agent => .homeRds line agent
  | .homeRdx line agent => .homeRdx line agent
  | .homeUpg line agent => .homeUpg line agent
  | .homeWb line agent => .homeWb line agent
  | .homeEve line agent => .homeEve line agent
  | .homeAckReceive line agent => .homeAckReceive line agent
  | .homeMemoryWriteDone line => .homeMemoryWriteDone line
  | .agentFwds line agent => .agentFwds line agent
  | .agentFwdx line agent => .agentFwdx line agent
  | .agentInv line agent => .agentInv line agent
  | .agentDataReceive line agent => .agentDataReceive line agent
  | .agentGrantReceive line agent => .agentGrantReceive line agent
  | .agentWbackReceive line agent => .agentWbackReceive line agent
  | .agentWbstaleReceive line agent => .agentWbstaleReceive line agent
  | .agentLineDrop line agent => .agentLineDrop line agent
  | .shardGets job page rank => .shardGets job page rank
  | .shardGetx job page rank => .shardGetx job page rank
  | .shardWbrel job page rank bytes => .shardWbrel job page rank bytes
  | .shardDrop job page rank => .shardDrop job page rank
  | .shardHomeAck job page ok => .shardHomeAck job page ok
  | .shardRecallAck job page rank => .shardRecallAck job page rank
  | .holderRecall job page => .holderRecall job page
  | .ownerXferS job page dst => .ownerXferS job page dst
  | .ownerXferX job page dst => .ownerXferX job page dst
  | .tenureEnd job page => .tenureEnd job page
  | .lookupAckReceive service noHome storage => .lookupAckReceive service noHome storage
  | .wbackReceive job page => .wbackReceive job page
  | .staleReceive job page => .staleReceive job page
  | .heldReceive service => .heldReceive service
  | .homeWriteTimeout job page => .homeWriteTimeout job page
  | .attemptTimeout service pinned => .attemptTimeout service pinned
  | .backoffExpiry service => .backoffExpiry service
  | .victimRetry service => .victimRetry service
  | .frameAging touched => .frameAging touched
  | .installClean world => .installClean world
  | .installDirty world => .installDirty world
  | .retry world => .retry world
  | .kill world => .kill world
  | .pin world => .pin world
  | .unpin world => .unpin world
  | .dirset world => .dirset world
  | .roostT1Expiry roost => .roostT1Expiry roost
  | .roostT2Expiry roost => .roostT2Expiry roost
  | .pageDescentDone roost page accepted => .pageDescentDone roost page accepted
  | .pageAscentDone roost page => .pageAscentDone roost page
  | .checkpointSave => .checkpointSave
  | .checkpointRestore => .checkpointRestore
  | .checkpointAbort => .checkpointAbort
  | .checkpointDrainDone => .checkpointDrainDone
  | .checkpointSegmentDone outcome bytes => .checkpointSegmentDone outcome bytes
  | .packetReceive pkt => .packetReceive pkt
  | .retransmitTimeout peer seq => .retransmitTimeout peer seq
  | .ackReceive peer seq marked => .ackReceive peer seq marked
  | .rateRiseTick peer => .rateRiseTick peer
  | .ptpSync elapsed correction => .ptpSync elapsed correction
  | .dieFlitReceive die world entry pa granules => .dieFlitReceive die world entry pa granules
  | .linkUnitReceive link tagOk entry pa granules => .linkUnitReceive link tagOk entry pa granules
  | .linkUnitClose link => .linkUnitClose link
  | .linkKeyRenew link => .linkKeyRenew link
  | .firmwareActivation component target svn ecdsaOk hssOk digest live => .firmwareActivation component target svn ecdsaOk hssOk digest live
  | .getVersion version => .getVersion version
  | .getCapabilities version => .getCapabilities version
  | .negotiateAlgorithms version supported => .negotiateAlgorithms version supported
  | .getDigests version => .getDigests version
  | .getCertificate version slot => .getCertificate version slot
  | .challenge version slot nonce => .challenge version slot nonce
  | .getMeasurements version index signed nonce => .getMeasurements version index signed nonce
  | .keyExchange version slot => .keyExchange version slot
  | .finish version session verified => .finish version session verified
  | .heartbeat version session => .heartbeat version session
  | .keyUpdate version session => .keyUpdate version session
  | .endSession version session => .endSession version session
  | .spdmUnsupportedRequest version code => .spdmUnsupportedRequest version code
  | .leaseAttestation world swid outcome now => .leaseAttestation world swid outcome now
  | .leaseRenewalDue world swid => .leaseRenewalDue world swid
  | .leaseBusyRetry world swid => .leaseBusyRetry world swid
  | .leaseExpiry world swid => .leaseExpiry world swid
  | .leaseKeyGraceEnd world swid => .leaseKeyGraceEnd world swid
  | .leaseChangeReceive world swid state reason leaseNo expiry authNow => .leaseChangeReceive world swid state reason leaseNo expiry authNow
  | .sessionKeyDistribution job rank attested => .sessionKeyDistribution job rank attested
  | .epochAdvance job => .epochAdvance job
  | .epochOverlapEnd job => .epochOverlapEnd job
  | .worldLatch die world => .worldLatch die world
  | .worldCreate world job rank authRank regions simagePa simageLen => .worldCreate world job rank authRank regions simagePa simageLen
  | .worldTeardown world => .worldTeardown world
  | .ringDoorbell world ring tail => .ringDoorbell world ring tail
  | .rcmdEnable world ring => .rcmdEnable world ring
  | .rcmdResume world ring => .rcmdResume world ring
  | .rcmdDisable world ring => .rcmdDisable world ring
  | .ringRekey world ring => .ringRekey world ring
  | .sampleTick qtr crew => .sampleTick qtr crew
  | .dcmdHalt world => .dcmdHalt world
  | .dcmdResume world => .dcmdResume world
  | .dcmdStep world => .dcmdStep world
  | .prefetchTick world stream => .prefetchTick world stream
  | .powerOn failed fcframes fcbase wayl dies worlds cxl => .powerOn failed fcframes fcbase wayl dies worlds cxl
  | .powerStateChange pstate => .powerStateChange pstate
  | .thermalThreshold reading => .thermalThreshold reading
  | .registerWrite page off value fromM => .registerWrite page off value fromM
  | .portDown port => .portDown port
  | .portUp port => .portUp port
  | .ptpLockLoss => .ptpLockLoss
  | .deviceReset => .deviceReset
  | .powerLoss => .powerLoss
  | .jobOpen world => .jobOpen world
  | .grantReceive service dataver => .grantReceive service dataver
  | .liveActivationEnd component digest => .liveActivationEnd component digest

/-! ## Events that reach one frame together (R385, R394) -/

/-- The frames that hold pages of a range of names. -/
def State.framesOf (s : State) (job page n : Nat) : List Nat :=
  (List.range n).filterMap fun k => (s.frameOf job (page + k)).map (·.1)

/-- The frames that the claims of an engine command name. -/
def State.claimedFrames (s : State) (id : Nat) : List Nat :=
  (s.entry id).elim [] fun e => e.claims.flatMap fun c => match c.base with
    | .name job a => s.framesOf job (a / pageBytes) ((a + c.len - 1) / pageBytes - a / pageBytes + 1)
    | _ => []

/-- The frames that the items of a roost lie in. -/
def State.roostFrames (s : State) (id : Nat) : List Nat :=
  ((List.range (1 + (s.seq id).elim 0 (·.pages.length))).flatMap (s.itemNames id)).filterMap fun n => (s.frameOf n.1 n.2).map (·.1)

/-- The place of a frame event in the order of R385, and the frames that it may reach. -/
def State.frameTurn (s : State) (e : Event) : Option (Nat × List Nat) :=
  match e with
  | .pin wn | .unpin wn => (s.world wn).map fun w => (1, s.framesOf w.job w.np.cname 1)
  | .engineEntryStart id | .copyReplay id => some (2, s.claimedFrames id)
  | .holderRecall job page | .ownerXferS job page _ | .ownerXferX job page _ => some (3, s.framesOf job page 1)
  | .victimRetry id => (s.service id).map fun v => (4, s.waysOf v.job v.page)
  | .roostT1Expiry id | .roostT2Expiry id => some (4, s.roostFrames id)
  | _ => none

/-- Of two events caused and not yet taken, the second is applied first: it stands before the other in R385's order and may
reach the same frame, or it is the rouse of a roost whose timer has expired (R394). -/
def State.goesFirst (s : State) (e e' : Event) : Bool :=
  match e, e' with
  | .roostT1Expiry r, .rouseArrive r' _ _ | .roostT2Expiry r, .rouseArrive r' _ _ => r == r'
  | _, _ =>
    match s.frameTurn e, s.frameTurn e' with
    | some (n, fs), some (n', fs') => decide (n' < n) && fs.any fs'.contains
    | _, _ => false

/-- Steps of the compute dies: of their arrays, registers and stores, of the engines and block dispatchers on them (R12, R15). -/
def Event.onDies (e : Event) : Bool :=
  match e with
  | .resultLand _ | .storePerform _ | .waitcSoRepeat .. | .binAged .. | .binRelease _ | .collectivePerform _
  | .lastExitRelease _ | .kernelBoundary .. | .asyncTrapEntry _ | .mldStPerform _ | .mswapPerform _ | .mmaPerform _
  | .mstPerform _ | .maccClrPerform _ | .maccRdLand _ | .mstatLand _ | .engineEntryStart _ | .cpyComplete _
  | .cpyredChunkApply _ | .copyReplay _ | .qfenceComplete _ | .qwaitComplete _ | .hreadBurstArrive .. | .dripBirth ..
  | .xsortComplete _ | .groupInstanceBegin .. | .groupWithdrawal .. | .a2avCountExchange .. | .a2avPartPlaced ..
  | .areduceComplete .. | .rputComplete _ | .rgetComplete .. | .ratomComplete .. | .rflushComplete _ | .kvldStatusLand _
  | .roostRegistered _ | .gangPrepare .. | .gangDecision .. | .gangCommit _ | .gangAbort _ | .gangTickDispatch _
  | .ctxopSave _ | .ctxopRestore _ | .accdatWrite .. | .accstatWrite .. | .resumeStart _ | .dispatchUnit _
  | .starvationPreempt _ | .localityScoreHalve _ | .throttleSwap _ | .sampleTick .. => true
  | _ => false

/-- In P3 the compute dies stand still, with all their state (R439); their caches answer the directory all the same (log
entry 24, DESIGN CHOICE). -/
def State.stopped (s : State) (e : Event) : Bool := s.plat.pstate == 3 && e.onDies

/-- The event that is taken where one is picked: events of one frame that are caused together are taken as reaching it in one
clk of the network processor, in the order of R385 (log entry 24, DESIGN CHOICE: a step has no clk of its own). -/
def State.turn (s : State) (k : Nat) : Nat :=
  match s.agenda[k]? with
  | none => k
  | some e =>
    let before := (List.range s.agenda.length).filter fun j => (s.agenda[j]?).any fun e' => s.goesFirst e e' && !s.stopped e'
    let rank := fun j => ((s.agenda[j]?).bind s.frameTurn).elim 0 (·.1)
    (pickBy (fun i j => decide (rank i < rank j)) before).getD k

/-! ## Moves -/

/-- One possible move. -/
inductive Move where
  /-- the agenda's event at an index -/
  | agenda (k : Nat)
  /-- a quarter releases a bin -/
  | bin (q : Nat)
  | set (crew k0 : Nat)
  /-- the processor chiplet's oldest access is performed (R143) -/
  | chiplet
  deriving DecidableEq, Repr

/-- Every move open in a state: events caused, bins that a quarter releases at once, issue sets, and last the bins that it
releases in a clk in which fixed-latency results hold every set, which clk that is being open here (R30, R152; log entry
13), and an access of an RV64 core of a started chiplet (R143). In P3 the compute dies take no step (R439). -/
def State.moves (s : State) : List Move :=
  ((List.range s.agenda.length).filter fun k => !(s.agenda[k]?).any s.stopped).map .agenda ++
  (if s.plat.pstate = 3 then [] else
    let held := s.quarters.filter fun p => !(s.openBins p.1).isEmpty
    (held.filter fun p => s.binDue p.1).map (fun p => .bin p.1) ++
    (s.crews.flatMap fun c => c.sets.map fun k => .set c.uid k) ++
    (held.filter fun p => !s.binDue p.1).map fun p => .bin p.1) ++
  if s.rvOps.isEmpty && s.plat.bootStep ≠ 7 then [] else [.chiplet]

/-- What the next step does: a set whose prefix has just issued goes on, else the schedule picks a move (R149: nothing
comes between a prefix and the word it guards). -/
def State.plan (s : State) : Plan :=
  match (if s.plat.pstate = 3 then none else s.iss.guard) with
  | some g => s.planSet s.iss.crew s.iss.set (some g)
  | none =>
    let ms := s.moves
    let n := s.sched.headD 0
    let s := { s with sched := s.sched.tail }
    match ms[n % ms.length]? with
    | none => .idle
    | some (.agenda k) =>
      match s.agenda[s.turn k]? with
      | some e => .run { s with agenda := s.agenda.eraseIdx (s.turn k) } e.instr
      | none => .idle
    | some (.bin q) => .run s (.binRelease q)
    | some (.set uid k) => s.planSet uid k none
    | some .chiplet => .ill s.rvPerform

/-! ## Placing one instruction -/

/-- A launch descriptor that runs one word. -/
def probeDesc : LDesc := { LDesc.init with
  array := true
  image := ⟨8, [0x10000]⟩
  nregs := 64 }

/-- A block of one crew, with a barrier and a circular buffer declared. -/
def probeUnit : BUnit where
  uid := 1
  launch := 1
  world := 1
  block := 0
  die := 0
  cluster := 0
  cores := [0]
  ncrews := 1
  alloc := 0
  spad := []
  bars := []
  cbs := []
  qctr := []
  lastExit := false
  finished := 0
  since := 0
  victim := 0
  restored := false
  cncl := none
  spadPoison := []

/-- A crew whose lane 0 is at PC 0 and whose other lanes have exited. -/
def probeCrew : Crew := { Crew.init 2 with
  unit := 1
  launch := 1
  world := 1
  nregs := 64
  win := 2 ^ 48
  threads := Thread.init 0 0 ::
    (List.range 127).map fun k => { Thread.init (k + 1) 0 with st := .exited } }

/-- World 1 with one running launch, one resident crew, and `bytes` at its PC. -/
def State.withCode (s : State) (bytes : List Byte) : State := { s with
  sched := []
  agenda := []
  iss := ⟨0, 0, none⟩
  mem := writeBytes s.mem 0x10000 bytes
  crews := [probeCrew]
  units := [probeUnit]
  launches := [{ Launch.init 1 1 0 probeDesc with state := .running }]
  worlds := [{ World.init 1 with regions := [0] }]
  quarters := tabPut s.quarters Quarter.init 0 { s.quarter 0 with bound := some 1 }
  groups := []
  entries := []
  mcmds := [] }

end

end Sys2Proof.Machine
end

