-- ==== Sys2Proof/Machine/Step.lean ====
section
/-! DEFINITION. One step of the machine: the move that the plan names, executed. -/

namespace Sys2Proof.Machine

noncomputable section

/-- One step: an event that was caused, or one instruction of one issue set. -/
def step (s : State) : Host.Outcome State Fault Refusal :=
  match s.plan with
  | .idle => .next { s with sched := s.sched.tail }
  | .ill s' => .next s'
  | .run s' i => exec i s'

/-- `s` with an instruction whose bits are `w` placed where the next step fetches (log entry 8): the word, little-endian,
at the start of the code image of the one launch, at whose entry the one issue set stands. -/
def State.withFetchWord (s : State) (nbits w : Nat) : State :=
  s.withCode (bytesOfWord (BitVec.ofNat 32 (w % 2 ^ nbits)))

end

end Sys2Proof.Machine
end

