-- ==== Sys2Proof/Safety.lean ====
section
/-! DEFINITION. What a safe run is, and the terms in which claims are stated: canonical memories, the set that issues an
instruction and its operands, and the shapes of what an instruction does and leaves. -/

namespace Sys2Proof.Machine

/-- The outcome is a next state. -/
def isNext (o : Out) : Bool :=
  match o with
  | .next _ => true
  | _ => false

/-- `k` steps from `s` all answer a next state: no fault and no refusal. -/
def SafeFor (k : Nat) (s : State) : Prop :=
  match k with
  | 0 => True
  | k + 1 =>
    match step s with
    | .next s' => SafeFor k s'
    | _ => False

/-- Physical memory holds its canonical form: addresses rise strictly, and no listed byte is the one that an unlisted
address reads as. -/
def State.memOk (s : State) : Bool := Memory.wf s.mem

/-- Physical memory, every scratchpad and every private window hold their canonical form. -/
def State.memoriesOk (s : State) : Bool :=
  s.memOk && s.units.all (fun u => Memory.wf u.spad) && s.crews.all (fun c => Memory.wf c.privMem)

/-- The state names an issue set that some thread of a crew belongs to: what `exec` of an encoded instruction needs. -/
def State.hasIssue (s : State) : Bool :=
  match s.crew s.iss.crew with
  | none => false
  | some c => c.threads.any (sel s.iss.set)

/-! ## The issuing set -/

/-- `c` is the crew whose set issues the instruction, and none of its threads waits to enter a trap. -/
def Issuing (s : State) (c : Crew) : Prop :=
  s.crew s.iss.crew = some c ∧ c.threads.any (sel s.iss.set) = true ∧ ∀ t ∈ c.threads, t.entering = none

/-- The thread belongs to the issuing set. -/
def Acts (s : State) (t : Thread) : Prop := sel s.iss.set t = true

/-- The thread's guard is true: no prefix stands before the instruction, or its predicate holds (R149). -/
def guardHolds (s : State) (t : Thread) : Bool :=
  match s.iss.guard with
  | none => true
  | some g => predField t.preds g

/-- The address of the instruction that issues now, for a thread of its set (R149). -/
def State.issPc (s : State) (t : Thread) : Word := if s.iss.guard.isSome then t.pc + 4 else t.pc

/-- PC + 4 (R149). -/
def nextPc (s : State) (t : Thread) : Word := s.issPc t + 4

/-- The operands of a thread are in its allocation, hold no marker where they are read as floating point, and have no
result pending; with S = 1 the thread has no result pending at all (R53, R87, R152, R153). -/
def OperandsReady (c : Crew) (t : Thread) (sw : Bool) (ops : List Opnd) : Prop :=
  regRange c t ops = none ∧ uninit c t ops = none ∧
    (if sw then pendClear c t none = true else depv c t none none [] ops = none)

/-- A thread of the issuing set is ready: with S = 1 it has no result pending, where its guard is true its operands are
ready, and a drip names no uniform register (R152, R153, R161). -/
def ReadyThread (s : State) (c : Crew) (sw : Bool) (ops : List Opnd) (t : Thread) : Prop :=
  (c.drip = none ∨ ops.all (·.cls = .x) = true) ∧ (sw = true → pendClear c t none = true) ∧
    (guardHolds s t = true → OperandsReady c t sw ops)

/-! ## What an instruction does -/

/-- What a thread of the crew becomes: its effect with the PC moved on if it acts and its guard is true, the PC alone if
its guard is false, and nothing if it is not of the set. -/
def threadAfter (s : State) (eff : Thread → Thread) (t : Thread) : Thread :=
  if sel s.iss.set t then
    if guardHolds s t then eff { t with pc := nextPc s t } else { t with pc := nextPc s t }
  else t

/-- The frame of an instruction whose effect lies in one crew: every other part of the machine stands, every byte of
memory reads as before, and of the crew only its threads change (and a halt that was asked for may take effect, R433). -/
def OnlyCrew (s t : State) (c c' : Crew) : Prop :=
  t = { s with crews := t.crews, iss := t.iss } ∧ (∀ v, v ≠ c.uid → t.crew v = s.crew v) ∧
    (∀ pa, t.loadB pa = s.loadB pa) ∧
    { c' with threads := c.threads, halt := c.halt } = c

/-- An instruction that acts on each thread alone completes: whenever each thread of the issuing set is `ok` it answers a
next state in which every thread of the crew is what `eff` makes of it (the number of its issue set apart), and nothing
else changes. -/
def RunsWhen (i : Instr) (ok : State → Crew → Thread → Prop) (eff : Crew → Thread → Thread) : Prop :=
  ∀ (s : State) (c : Crew), Issuing s c → (∀ t ∈ c.threads, Acts s t → ok s c t) →
    ∃ (t : State) (c' : Crew), exec i s = .next t ∧ t.crew c.uid = some c' ∧
      (∀ lane u, c.thread lane = some u → ∃ n, c'.thread lane = some { threadAfter s (eff c) u with set := n }) ∧
      OnlyCrew s t c c'

/-- It completes whenever the operands of its threads are ready. -/
def RunsThreads (i : Instr) (sw : Bool) (ops : List Opnd) (eff : Crew → Thread → Thread) : Prop :=
  RunsWhen i (fun s c t => ReadyThread s c sw ops t) eff

/-- The same where no prefix stands before it: one does not go with this instruction (R150). -/
def RunsUnguarded (i : Instr) (sw : Bool) (ops : List Opnd) (eff : Crew → Thread → Thread) : Prop :=
  RunsWhen i (fun s c t => s.iss.guard = none ∧ ReadyThread s c sw ops t) eff

/-- The guard of a uniform-class instruction (R151). -/
def guardHoldsU (s : State) (c : Crew) : Bool :=
  match s.iss.guard with
  | none => true
  | some g => predField c.qpreds g

/-- The uniform operands of the set are ready: the guard's predicate, the uniform predicates `qs` the instruction names,
and its registers; and the crew is no drip (R55, R151, R153, R161). -/
def ReadyUniform (s : State) (c : Crew) (sw : Bool) (qs : List Nat) (ops : List Opnd) : Prop :=
  Issuing s c ∧ c.drip = none ∧ ∀ t ∈ c.threads, Acts s t → regRange c t ops = none ∧ uninit c t ops = none ∧
    (if sw then pendClear c t none = true
     else depv c t none (s.iss.guard.map fun g => (g.extractLsb' 0 3).toNat) qs ops = none)

/-- An instruction that acts once on the crew's uniform state completes: the crew is what `eff` makes of it, each acting
thread moves on and takes the flags, and nothing else changes (R56, R172). -/
def RunsCrew (i : Instr) (sw : Bool) (qs : List Nat) (ops : List Opnd) (eff : Crew → Crew × Flags) : Prop :=
  ∀ (s : State) (c : Crew), ReadyUniform s c sw qs ops →
    ∃ (t : State) (c' : Crew), exec i s = .next t ∧ t.crew c.uid = some c' ∧
      (∀ lane u, c.thread lane = some u → ∃ n, c'.thread lane = some
        { (if sel s.iss.set u then
            (if guardHoldsU s c then { u.flag (eff c).2 with pc := nextPc s u } else { u with pc := nextPc s u })
           else u) with set := n }) ∧
      OnlyCrew s t (if guardHoldsU s c then (eff c).1 else c) c'

/-! ## One acting thread -/

/-- The issuing set is the one thread `u` of the crew `c`; its guard is true, and it replays nothing. -/
def Alone (s : State) (c : Crew) (u : Thread) : Prop :=
  Issuing s c ∧ (∀ d ∈ s.crews, d.uid = c.uid → d = c) ∧ c.threads.filter (sel s.iss.set) = [u] ∧
    (∀ v ∈ c.threads, v.lane = u.lane → v = u) ∧ guardHolds s u = true ∧ u.replay = none

/-- The same with its operands ready, and no uniform register named in a drip (R161). -/
def AloneReady (s : State) (c : Crew) (u : Thread) (sw : Bool) (ops : List Opnd) : Prop :=
  Alone s c u ∧ (c.drip = none ∨ ops.all (·.cls = .x) = true) ∧ OperandsReady c u sw ops

/-- What the crew `c` becomes when its thread `u` becomes `u'` and the crew itself `d`: every other thread stands (the
number of its issue set apart), of the crew itself nothing but what `d` says and a halt asked for changes, and no other
crew changes. -/
def LaneBecomes (s t : State) (c : Crew) (u u' : Thread) (d : Crew) : Prop :=
  ∃ c', t.crew c.uid = some c' ∧ (∃ n, c'.thread u.lane = some { u' with set := n }) ∧
    (∀ l v, l ≠ u.lane → c.thread l = some v → ∃ n, c'.thread l = some { v with set := n }) ∧
    { c' with threads := c.threads, halt := c.halt } = { d with threads := c.threads, halt := c.halt } ∧
    ∀ w, w ≠ c.uid → t.crew w = s.crew w

/-- `t` is `b` but for its crews, the records of accesses, and what narrow releases keep of overwritten granules (R118,
R132). -/
def Within (b t : State) : Prop :=
  t = { b with
    crews := t.crews
    iss := ⟨0, 0, none⟩
    recs := t.recs
    older := t.older }

/-- An event that an access to memory may cause or overtake beside its own effect: a message of the directory, or a change
of places under the throttle (R347, R366). -/
def Event.aside (e : Event) : Bool :=
  e.channel.isSome || match e with
    | .throttleSwap _ => true
    | _ => false

/-- The same after an access to memory: the translations that buffers hold, the frames that they have named, the accesses that wait for records, the lines
that caches and the directory hold, and the throttle may differ too (R128, R347, R353, R364). -/
def Beside (b t : State) : Prop :=
  t = { b with
    crews := t.crews
    iss := ⟨0, 0, none⟩
    worlds := t.worlds
    freeCtr := t.freeCtr
    recs := t.recs
    recWaits := t.recWaits
    older := t.older
    touched := t.touched
    lines := t.lines
    flying := t.flying
    l1 := t.l1
    vtags := t.vtags
    scores := t.scores
    throttled := t.throttled
    agenda := t.agenda } ∧
  t.agenda.filter (!·.aside) = b.agenda.filter (!·.aside)

/-- The thread goes on at PC + 4 as `v`, the crew is `d`, and outside its crews the machine is what `R` lets it become from
`b`. -/
def GoesBy (R : State → State → Prop) (s b t : State) (c : Crew) (u v : Thread) (d : Crew) : Prop :=
  LaneBecomes s t c u { v with pc := nextPc s u } d ∧ R b t

abbrev Goes := GoesBy Within
abbrev GoesMem := GoesBy Beside

/-- A result goes into flight under the next number of the model: what `b` becomes. -/
def flies (s b : State) (l : Landing) : State :=
  { b with
    landings := s.landings ++ [l]
    nextId := s.nextId + 1
    agenda := b.agenda ++ [if l.row.isSome then .kvldStatusLand s.nextId else .resultLand s.nextId] }

/-- The thread goes on as `v` with its destination registers pending under its PC; the values `vals` are in flight to
them, from memory or not; everything else is what `R` lets it become from `b` (R17, R152). -/
def LandsBy (mem : Bool) (R : State → State → Prop) (s b t : State) (c : Crew) (u v : Thread) (d : Crew)
    (vals : List (Nat × Word)) : Prop :=
  LaneBecomes s t c u { v with
      pc := nextPc s u
      pendX := pendAll u.pendX (vals.map Prod.fst) (s.issPc u) } d ∧
    R (flies s b ⟨s.nextId, c.uid, u.lane, false, vals, none, none, false, mem⟩) t

abbrev Lands := LandsBy false Within
abbrev LandsMem := LandsBy true Beside

/-- The thread goes on with `x(d)` pending; the status `st`, and before it the row that is read, are in flight; everything
else is what `R` lets it become from `b` (R152, R286). -/
def KvLandsBy (R : State → State → Prop) (s b t : State) (c : Crew) (u : Thread) (d st : Nat) (row : Option (Nat × List Byte)) : Prop :=
  LaneBecomes s t c u { u with
      pc := nextPc s u
      pendX := pendAll u.pendX [u.wb + d] (s.issPc u) } c ∧
    R (flies s b ⟨s.nextId, c.uid, u.lane, false, [(u.wb + d, BitVec.ofNat 32 st)], row, none, false, false⟩) t

abbrev KvLands := KvLandsBy Within
abbrev KvLandsMem := KvLandsBy Beside

/-- The bytes `l` stand at `pa` in physical memory, and every other byte reads as before. -/
def Stored (s t : State) (pa : Nat) (l : List Byte) : Prop :=
  (∀ i, i < l.length → readB t.mem (pa + i) = l.getD i 0) ∧
    ∀ a, (a < pa ∨ pa + l.length ≤ a) → t.loadB a = s.loadB a

/-- The word at an address, least significant byte first (R4). -/
def State.wordPA (s : State) (pa : Nat) : Word :=
  s.loadB (pa + 3) ++ s.loadB (pa + 2) ++ s.loadB (pa + 1) ++ s.loadB pa

/-- A crew after an access with semantics: an acquire or a release opens a new region (R118). -/
def Crew.ordered (c : Crew) (acq rel : Bool) : Crew := if acq || rel then { c with region := c.region + 1 } else c

/-- The access that a generic access of the thread records and is checked as (R120, R121). -/
def accessOf (c : Crew) (pc : Word) (x : Acc1) : Access :=
  ⟨.crew c.uid, c.region, !x.kind.readsOnly, x.sync, pc⟩

/-- What orders an access of the crew in its own region, as its instruction begins. -/
def Crew.env (c : Crew) : Env := ⟨c.uid, 0, none, c.region⟩

/-- Nothing that the thread has begun is still to be performed: no store is accepted, no half of a 16 B load and no row of a
kvld is outstanding (R123, R129, R209, R286). -/
def Settled (s : State) (c : Crew) (u : Thread) : Prop :=
  (∀ q ∈ s.stores, ¬(q.crew = c.uid ∧ q.lane = u.lane)) ∧
    ∀ l ∈ s.landings, l.crew = c.uid → l.lane = u.lane → l.row = none ∧ l.late = none

/-- No thread of the crew has a 16 B access half performed (R129). -/
def NoHalves (s : State) (c : Crew) : Prop :=
  (∀ q ∈ s.stores, q.crew = c.uid → q.half = false) ∧ ∀ l ∈ s.landings, l.crew = c.uid → l.late = none

/-- No granule of the range holds a write that a load of the crew may miss, being linked to it by scopes too narrow: the
range reads as it is (R132). -/
def Current (s : State) (c : Crew) (p : Place) (n : Nat) : Prop :=
  ∀ o ∈ s.older, o.base.near 4 p n = true → o.mayMiss (.crew c.uid) = false

/-- A generic access of the thread passes its checks: no matrix result is awaited and its core has a request to spare, the
address is aligned and below 2^56, its page permits it and is here, it stores into no image that its mode may not write, no
watchpoint and no conflict is met, and after what its semantics do first (`pre`) its region has its records, or there is room
for them and no other access waits for it (R17, R98, R103, R124, R128, R244, R304, R434). -/
def GenAccessOk (s : State) (c : Crew) (u : Thread) (pc : Word) (x : Acc1) (ea : Nat) (pre : State → State) (d : Dest) : Prop :=
  (s.matrixWait c.uid u.lane = false ∧ s.requestsFull c.core = false) ∧ ea % x.size = 0 ∧ ea < 2 ^ 56 ∧
    (s.resolve c.world c.core x.kind ea x.size).2 = .go d ∧
    let s0 := (s.resolve c.world c.core x.kind ea x.size).1
    (x.kind.stores = true → s0.readOnly u.mode d.target x.size = false) ∧
      s0.watchTrap c.world x.rd x.wr ea x.size = none ∧
      s0.conflict (accessOf c pc x) x.kind.code x.size d.tracked d.place ea x.size = none ∧
      (d.tracked = true → (∀ w ∈ s.recWaits, ¬(w.crew = c.uid ∧ w.lane = u.lane ∧ w.pc = u.pc)) ∧
        let a := accessOf (((pre s0).crew c.uid).getD c) pc x
        ((pre s0).unrecorded a d.place x.size).isEmpty = true ∨
          (pre s0).room a c.core d.place x.size = true ∧ (pre s0).recTurn c u a d.place = true)

/-- A scratchpad access of the thread passes its checks, and its block is `b` (R106, R107, R124). -/
def SpadAccessOk (s : State) (c : Crew) (u : Thread) (pc : Word) (x : Acc1) (a mode : Nat) (b : BUnit) : Prop :=
  s.matrixWait c.uid u.lane = false ∧ a % x.size = 0 ∧ s.unit c.unit = some b ∧
    spadBad b.cores.length b.alloc a x.size = false ∧
    s.conflict (accessOf c pc x) x.kind.code x.size false (.spad b.uid (spadKey mode a)) (spadKey mode a) x.size = none

/-- No thread's monitor of any crew is armed on a line of the range. -/
def NoMonitor (s : State) (p : Place) (n : Nat) : Prop := ∀ c ∈ s.crews, ∀ t ∈ c.threads, t.watches p n = false

/-- Every thread but the lane `lane` of the crew `uid` whose monitor is armed on a line of the range runs on behind its waitc
with the monitor disarmed, and every other one stands (R142, R221, R222). -/
def Woken (s t : State) (uid lane : Nat) (p : Place) (n : Nat) : Prop :=
  ∀ d l v, s.crew d.uid = some d → d.thread l = some v → ¬(d.uid = uid ∧ l = lane) →
    ∃ d' k, t.crew d.uid = some d' ∧ d'.thread l = some
      { (if v.watches p n then
          match v.st with
          | .blocked .monitor next => { v with
              st := .running
              pc := next
              monitor := none }
          | _ => { v with monitor := none }
         else v) with set := k }

/-! ## Rows of instruction tables -/

/-- Constructors of three registers. -/
abbrev Rrr := Bool → BitVec 7 → BitVec 7 → BitVec 7 → Instr

/-- Constructors of two registers. -/
abbrev Rr := Bool → BitVec 7 → BitVec 7 → Instr

/-- Constructors of a predicate and two registers. -/
abbrev Prr := Bool → BitVec 3 → BitVec 7 → BitVec 7 → Instr

/-- An instruction of thread registers completes with xD = f(xA, xB) and the flags named. -/
def RunsX (i : Rrr) (f : Word → Word → Word × Flags) : Prop :=
  ∀ sw d a b, RunsThreads (i sw d a b) sw [dX d 1, aX a 1, bX b 1] fun _ t =>
    (t.putX d.toNat (f (t.x a.toNat) (t.x b.toNat)).1).flag (f (t.x a.toNat) (t.x b.toNat)).2

/-- The same with a uniform B operand. -/
def RunsXs (i : Rrr) (f : Word → Word → Word × Flags) : Prop :=
  ∀ sw d a b, RunsThreads (i sw d a b) sw [dX d 1, aX a 1, bS b 1] fun c t =>
    (t.putX d.toNat (f (t.x a.toNat) (c.s b.toNat)).1).flag (f (t.x a.toNat) (c.s b.toNat)).2

/-- The same on uniform registers, once for the issue set. -/
def RunsS (i : Rrr) (f : Word → Word → Word × Flags) : Prop :=
  ∀ sw d a b, RunsCrew (i sw d a b) sw [] [dS d 1, aS a 1, bS b 1] fun c =>
    (c.putS d.toNat (f (c.s a.toNat) (c.s b.toNat)).1, (f (c.s a.toNat) (c.s b.toNat)).2)

/-- One function of set I in its three majors (R173). -/
def RunsI (x xs ss : Rrr) (f : Word → Word → Word) : Prop :=
  RunsX x (fun a b => (f a b, 0)) ∧ RunsXs xs (fun a b => (f a b, 0)) ∧ RunsS ss (fun a b => (f a b, 0))

/-- A function of one thread register (R176). -/
def RunsUnary (i : Rr) (f : Word → Word) : Prop :=
  ∀ sw d a, RunsThreads (i sw d a) sw [dX d 1, aX a 1] fun _ t => t.putX d.toNat (f (t.x a.toNat))

/-- A comparison on thread registers and on uniform registers (R175). -/
def RunsC (x s : Prr) (f : Word → Word → Bool) : Prop :=
  (∀ sw p a b, RunsThreads (x sw p a b) sw [aX a 1, bX b 1] fun _ t =>
    { t with preds := predSet t.preds p.toNat (f (t.x a.toNat) (t.x b.toNat)) }) ∧
  ∀ sw p a b, RunsCrew (s sw p a b) sw [p.toNat] [aS a 1, bS b 1] fun c =>
    ({ c with qpreds := predSet c.qpreds p.toNat (f (c.s a.toNat) (c.s b.toNat)) }, 0)

/-- A floating-point function of three thread registers; `reads` says whether xD is an operand too, and `m` whether A and
B are checked for markers (R87, R178, R181, R230). -/
def RunsF (i : Rrr) (m reads : Bool) (f : Word → Word → Word → Word × Flags) : Prop :=
  ∀ sw d a b, RunsThreads (i sw d a b) sw
    [{ dX d 1 with mark := reads }, { aX a 1 with mark := m }, { bX b 1 with mark := m }] fun _ t =>
    (t.putX d.toNat (f (t.x a.toNat) (t.x b.toNat) (t.x d.toNat)).1).flag (f (t.x a.toNat) (t.x b.toNat) (t.x d.toNat)).2

/-- The same with a uniform B operand. -/
def RunsFs (i : Rrr) (reads : Bool) (f : Word → Word → Word → Word × Flags) : Prop :=
  ∀ sw d a b, RunsThreads (i sw d a b) sw [{ dX d 1 with mark := reads }, (aX a 1).fp, (bS b 1).fp] fun c t =>
    (t.putX d.toNat (f (t.x a.toNat) (c.s b.toNat) (t.x d.toNat)).1).flag (f (t.x a.toNat) (c.s b.toNat) (t.x d.toNat)).2

/-- An fp32 comparison into a predicate (R180). -/
def RunsFc (i : Prr) (f : Word → Word → Bool × Flags) : Prop :=
  ∀ sw p a b, RunsThreads (i sw p a b) sw [(aX a 1).fp, (bX b 1).fp] fun _ t =>
    { t.flag (f (t.x a.toNat) (t.x b.toNat)).2 with
      preds := predSet t.preds p.toNat (f (t.x a.toNat) (t.x b.toNat)).1 }

/-- A function of two predicates, of the thread and of the crew (R191). -/
def RunsP (x q : Bool → BitVec 3 → BitVec 4 → BitVec 4 → Instr) (f : Bool → Bool → Bool) : Prop :=
  (∀ sw d a b, RunsThreads (x sw d a b) sw [] fun _ t =>
    { t with preds := predSet t.preds d.toNat (f (predField t.preds a) (predField t.preds b)) }) ∧
  ∀ sw d a b, RunsCrew (q sw d a b) sw [d.toNat, (a.extractLsb' 0 3).toNat, (b.extractLsb' 0 3).toNat] [] fun c =>
    ({ c with qpreds := predSet c.qpreds d.toNat (f (predField c.qpreds a) (predField c.qpreds b)) }, 0)

/-! ## Bytes -/

/-- The bytes of a word, least significant first (R4). -/
def wordBytes (w : Word) : List Byte :=
  [w.extractLsb' 0 8, w.extractLsb' 8 8, w.extractLsb' 16 8, w.extractLsb' 24 8]

/-- The word that four bytes are, least significant first. -/
def byteWord (b : Nat → Byte) (a : Nat) : Word := b (a + 3) ++ b (a + 2) ++ b (a + 1) ++ b a

/-- The word at an address of a memory. -/
def memWord (m : Memory) (a : Nat) : Word := byteWord (readB m) a

/-- Constructors of a memory instruction: data, address, offset. -/
abbrev Mem := Bool → BitVec 7 → BitVec 7 → BitVec 8 → Instr

/-- The state in which the loads of a set read: a free value is drawn where older values of granules stand (R105, R132). -/
def loadStart (s : State) : State := s.issued.drawOlder

/-- A generic load of up to 8 B completes with `ws` of the physical bytes that its address leads to in flight (R211). -/
def LoadRuns (i : Mem) (n k : Nat) (ws : State → Nat → List Word) : Prop :=
  ∀ sw d a o s c u pa pl tr so own, AloneReady s c u sw [dX d k, aX a 2] → Settled s c u →
    GenAccessOk (loadStart s) c u (s.issPc u) (plainLoad n) ((u.x64 a.toNat).toNat + o.toNat * n) id
      ⟨.mem pa, pl, tr, so, own⟩ →
    Current s c pl n →
    ∃ t, exec (i sw d a o) s = .next t ∧ LandsMem s s t c u u c (destVals (u.wb + d.toNat) (ws s pa))

/-- A generic load of 16 B completes with its lower half in flight; the upper one is read later, before the thread's next
access (R129, R211). -/
def LoadRuns16 (i : Mem) : Prop :=
  ∀ sw d a o s c u pa pl tr so own, AloneReady s c u sw [dX d 4, aX a 2] → Settled s c u →
    GenAccessOk (loadStart s) c u (s.issPc u) (plainLoad 16) ((u.x64 a.toNat).toNat + o.toNat * 16) id
      ⟨.mem pa, pl, tr, so, own⟩ →
    Current s c pl 16 →
    let x := u.wb + d.toNat
    ∃ t, exec (i sw d a o) s = .next t ∧ LaneBecomes s t c u { u with
        pc := nextPc s u
        pendX := pendAll u.pendX [x, x + 1, x + 2, x + 3] (s.issPc u) } c ∧
      Beside (flies s s ⟨s.nextId, c.uid, u.lane, false, [(x, s.wordPA pa), (x + 1, s.wordPA (pa + 4))], none,
        some ⟨s.nextId, .mem (pa + 8), pl.plus 8, 4, [x + 2, x + 3], if tr then some c.region else none⟩, false, true⟩) t

/-- A generic store of up to 8 B completes with the bytes `l` of its data in the physical memory that its address leads to,
and every other byte as it was (R211). -/
def StoreRuns (i : Mem) (n k : Nat) (l : (Nat → Word) → List Byte) : Prop :=
  ∀ sw d a o s c u pa pl tr so own, AloneReady s c u sw [dX d k, aX a 2] → Settled s c u → s.memOk = true →
    GenAccessOk s.issued c u (s.issPc u) (plainStore n) ((u.x64 a.toNat).toNat + o.toNat * n) id ⟨.mem pa, pl, tr, so, own⟩ →
    NoMonitor s pl n →
    ∃ t, exec (i sw d a o) s = .next t ∧ GoesMem s { s with mem := t.mem, poison := t.poison } t c u u c ∧
      Stored s t pa (l fun j => u.x (d.toNat + j))

/-- A generic store of up to 8 B wakes the monitors on the lines that it writes (R221). -/
def StoreWakes (i : Mem) (n k : Nat) : Prop :=
  ∀ sw d a o s c u pa pl tr so own, AloneReady s c u sw [dX d k, aX a 2] → Settled s c u →
    GenAccessOk s.issued c u (s.issPc u) (plainStore n) ((u.x64 a.toNat).toNat + o.toNat * n) id ⟨.mem pa, pl, tr, so, own⟩ →
    ∃ t, exec (i sw d a o) s = .next t ∧ Woken s t c.uid u.lane pl n

/-- What is accepted as a store: where to, what it does, whether it is a half, the region that waits for it, and whether
its line is taken for writing. -/
structure Accepted where
  target : Target
  place : Place
  op : StoreOp
  half : Bool
  region : Option Nat
  own : Bool

/-- `l` are accepted in order as stores of the thread, by the instruction numbered `tag`, and later steps perform them
(R209): what `s` becomes. -/
def accepts (s : State) (tag : Nat) (c : Crew) (u : Thread) (l : List Accepted) : State :=
  { s with
    stores := s.stores ++ l.zipIdx.map fun p => ⟨s.nextId + p.2, c.uid, u.lane, tag, p.1.target, p.1.place, p.1.op, p.1.half,
      p.1.region, p.1.own⟩
    nextId := s.nextId + l.length
    agenda := s.agenda ++ l.zipIdx.map fun p => .storePerform (s.nextId + p.2) }

/-- A generic store of 16 B completes with its two halves accepted, to be performed one by one before the thread's next
access (R129, R211). -/
def StoreRuns16 (i : Mem) : Prop :=
  ∀ sw d a o s c u pa pl tr so own, AloneReady s c u sw [dX d 4, aX a 2] → Settled s c u →
    GenAccessOk s.issued c u (s.issPc u) (plainStore 16) ((u.x64 a.toNat).toNat + o.toNat * 16) id ⟨.mem pa, pl, tr, so, own⟩ →
    let w := fun j => wordBytes (u.x (d.toNat + j))
    ∃ t, exec (i sw d a o) s = .next t ∧ GoesMem s (accepts s s.nextId c u
      [⟨.mem pa, pl, .bytes (w 0 ++ w 1), true, if tr then some c.region else none, true⟩,
        ⟨.mem (pa + 8), pl.plus 8, .bytes (w 2 ++ w 3), true, if tr then some c.region else none, true⟩]) t c u u c

/-- Constructors of a scratchpad instruction: data, address, swizzle mode, offset. -/
abbrev Spad := Bool → BitVec 7 → BitVec 7 → BitVec 3 → BitVec 8 → Instr

/-- A scratchpad load completes with `k` words of its block's scratchpad at the swizzled address in flight (R107, R108,
R213). -/
def SpadLoadRuns (i : Spad) (k : Nat) : Prop :=
  ∀ sw d a m o s c u b, AloneReady s c u sw [dX d k, aX a 1] → Settled s c u →
    SpadAccessOk s.issued c u (s.issPc u) (plainLoad (4 * k)) ((u.x a.toNat).toNat + o.toNat * (4 * k)) m.toNat b →
    ∃ t, exec (i sw d a m o) s = .next t ∧ Lands s s t c u u c (destVals (u.wb + d.toNat)
      ((List.range k).map fun j =>
        memWord b.spad (spadKey m.toNat ((u.x a.toNat).toNat + o.toNat * (4 * k)) + 4 * j)))

/-- A scratchpad store completes: it is accepted under the next number of the model, and performed by a later step
(R209, R213). -/
def SpadStoreRuns (i : Spad) (k : Nat) : Prop :=
  ∀ sw d a m o s c u b, AloneReady s c u sw [dX d k, aX a 1] → Settled s c u →
    SpadAccessOk s.issued c u (s.issPc u) (plainStore (4 * k)) ((u.x a.toNat).toNat + o.toNat * (4 * k)) m.toNat b →
    let key := spadKey m.toNat ((u.x a.toNat).toNat + o.toNat * (4 * k))
    ∃ t, exec (i sw d a m o) s = .next t ∧ Goes s (accepts s s.nextId c u [⟨.spad c.unit key, .spad c.unit key,
      .bytes ((List.range k).flatMap fun j => wordBytes (u.x (d.toNat + j))), false, none, true⟩]) t c u u c

/-- Where the bytes of private offset `o` of the thread lie in its crew's window (R114). -/
def privAt (u : Thread) (o : Nat) : Nat := o / 4 * 512 + u.lane * 4 + o % 4

/-- A private access of the thread passes its checks: no matrix result is awaited and its core has a request to spare, the
offset is aligned and within the segment, and no watchpoint is met (R17, R103, R115, R244, R434). -/
def PrivAccessOk (s : State) (c : Crew) (u : Thread) (wr : Bool) (o n : Nat) : Prop :=
  s.matrixWait c.uid u.lane = false ∧ s.requestsFull c.core = false ∧ o % n = 0 ∧ o + n ≤ c.priv ∧
    s.watchRanges c.world (!wr) wr (privRanges c u.lane o n) = none

/-- A private load of up to 8 B completes with `ws` of the window's bytes in flight (R114, R115, R214, R363). -/
def PrivLoadRuns (i : Mem) (n k : Nat) (ws : (Nat → Byte) → (Nat → Nat) → Nat → List Word) : Prop :=
  ∀ sw d a o s c u, AloneReady s c u sw [dX d k, aX a 1] → Settled s c u →
    PrivAccessOk s.issued c u false ((u.x a.toNat).toNat + o.toNat * n) n →
    ∃ t, exec (i sw d a o) s = .next t ∧ LandsMem s s t c u u c (destVals (u.wb + d.toNat)
      (ws c.privB (privAt u) ((u.x a.toNat).toNat + o.toNat * n)))

/-- A private load of 16 B completes with its lower half in flight; the upper one is read later (R129, R214). -/
def PrivLoadRuns16 (i : Mem) : Prop :=
  ∀ sw d a o s c u, AloneReady s c u sw [dX d 4, aX a 1] → Settled s c u →
    PrivAccessOk s.issued c u false ((u.x a.toNat).toNat + o.toNat * 16) 16 →
    let off := (u.x a.toNat).toNat + o.toNat * 16
    let x := u.wb + d.toNat
    let w := fun (k : Nat) => byteWord c.privB (privAt u (off + 4 * k))
    let hi := privAt u (off + 8)
    ∃ t, exec (i sw d a o) s = .next t ∧ LaneBecomes s t c u { u with
        pc := nextPc s u
        pendX := pendAll u.pendX [x, x + 1, x + 2, x + 3] (s.issPc u) } c ∧
      Beside (flies s s ⟨s.nextId, c.uid, u.lane, false, [(x, w 0), (x + 1, w 1)], none,
        some ⟨s.nextId, .priv c.uid hi, .priv c.uid hi, 4 * crewWidth, [x + 2, x + 3], none⟩, false, true⟩) t

/-- A private store completes: its parts `ps`, each with its private offset, are accepted in order, to be performed by later
steps (R209, R214). -/
def PrivStoreRuns (i : Mem) (n k : Nat) (ps : (Nat → Word) → Nat → List (Nat × StoreOp)) : Prop :=
  ∀ sw d a o s c u, AloneReady s c u sw [dX d k, aX a 1] → Settled s c u →
    PrivAccessOk s.issued c u true ((u.x a.toNat).toNat + o.toNat * n) n →
    ∃ t, exec (i sw d a o) s = .next t ∧ GoesMem s (accepts s s.nextId c u
      ((ps (fun j => u.x (d.toNat + j)) ((u.x a.toNat).toNat + o.toNat * n)).map fun p =>
        ⟨.priv c.uid (privAt u p.1), .priv c.uid (privAt u p.1), p.2, false, none, true⟩)) t c u u c

/-- Constructors of an atomic: data, address, order. -/
abbrev Atom := Bool → BitVec 7 → BitVec 7 → BitVec 7 → Instr

/-- The semantics of an order field that an instruction permits hold, nothing of the thread's waits behind them, and nothing
that it or, with semantics, its crew has begun is still to be performed (R129, R130, R159, R217). -/
def OrderOk (s : State) (c : Crew) (u : Thread) (o : BitVec 7) (noAcq noRel : Bool) : Prop :=
  (noAcq = true → ordAcq o = false) ∧ (noRel = true → ordRel o = false) ∧
    s.relWaits c.uid u.lane (ordRel o) (ordScope o) = false ∧ Settled s c u ∧
    ((ordAcq o || ordRel o) = true → NoHalves s c)

/-- The crew after an atomic with order field `o`. -/
def Crew.after (c : Crew) (o : BitVec 7) : Crew := c.ordered (ordAcq o) (ordRel o)

/-- What the order field of an atomic has done before it is performed (R131). -/
def ordered (c : Crew) (u : Thread) (o : BitVec 7) (s : State) : State :=
  s.order c.env u.lane (ordAcq o) (ordRel o) (ordScope o)

/-- An atomic on a word of physical memory completes: the new value stands there, and the old one is in flight where
`ret`; with `wr` false it writes nothing (R133, R215, R216). `new` has the old word and the operand registers. It is
performed at once where it acquires or releases, or on a strongly ordered page (R122). -/
def AtomRuns (i : Atom) (k : Nat) (x : Acc1) (fp wr ret noAcq noRel : Bool) (new : Word → (Nat → Word) → Word × Flags) :
    Prop :=
  ∀ sw d a o s c u pa pl tr so own, ordSpad o = false → (ordAcq o || ordRel o || so) = true →
    AloneReady s c u sw [{ dX d k with mark := fp }, aX a 2] → OrderOk s c u o noAcq noRel → s.memOk = true →
    GenAccessOk s.issued c u (s.issPc u) x (u.x64 a.toNat).toNat (ordered c u o) ⟨.mem pa, pl, tr, so, own⟩ →
    NoMonitor s pl 4 →
    let r := new (s.wordPA pa) fun j => u.x (d.toNat + j)
    ∃ t, exec (i sw d a o) s = .next t ∧
      (if ret then LandsMem s { s with mem := t.mem, poison := t.poison } t c u (u.flag r.2) (c.after o)
          [(u.wb + d.toNat, s.wordPA pa)]
        else GoesMem s { s with mem := t.mem, poison := t.poison } t c u u (c.after o)) ∧
      (if wr then Stored s t pa (wordBytes r.1) else t.mem = s.mem ∧ t.poison = s.poison)

/-- An atomic or a reduction performed at once wakes the monitors on the line that it writes (R221). -/
def AtomWakes (i : Atom) (fn k : Nat) (noAcq noRel : Bool) : Prop :=
  ∀ sw d a o s c u pa pl tr so own, ordSpad o = false → (ordAcq o || ordRel o || so) = true →
    AloneReady s c u sw [{ dX d k with mark := fn == 1 }, aX a 2] → OrderOk s c u o noAcq noRel →
    GenAccessOk s.issued c u (s.issPc u) (atomAcc fn) (u.x64 a.toNat).toNat (ordered c u o) ⟨.mem pa, pl, tr, so, own⟩ →
    ∃ t, exec (i sw d a o) s = .next t ∧ Woken s t c.uid u.lane pl (atomSize fn)

/-- The same on 8 bytes. -/
def AtomRuns8 (i : Atom) (k : Nat) (new : BitVec 64 → (Nat → Word) → BitVec 64) : Prop :=
  ∀ sw d a o s c u pa pl tr so own, ordSpad o = false → (ordAcq o || ordRel o || so) = true →
    AloneReady s c u sw [dX d k, aX a 2] → OrderOk s c u o false false → s.memOk = true →
    GenAccessOk s.issued c u (s.issPc u) ⟨.atom, true, true, true, 8⟩ (u.x64 a.toNat).toNat (ordered c u o) ⟨.mem pa, pl, tr, so, own⟩ →
    NoMonitor s pl 8 →
    let old : BitVec 64 := s.wordPA (pa + 4) ++ s.wordPA pa
    let v := new old fun j => u.x (d.toNat + j)
    ∃ t, exec (i sw d a o) s = .next t ∧
      LandsMem s { s with mem := t.mem, poison := t.poison } t c u u (c.after o)
        [(u.wb + d.toNat, s.wordPA pa), (u.wb + d.toNat + 1, s.wordPA (pa + 4))] ∧
      Stored s t pa (wordBytes (v.extractLsb' 0 32) ++ wordBytes (v.extractLsb' 32 32))

/-- A relaxed store or reduction on a word of physical memory completes: it is accepted, and performed by a later step
(R122, R209, R218). -/
def LaterRuns (i : Atom) (fp : Bool) (op : Word → StoreOp) : Prop :=
  ∀ sw d a o s c u pa pl tr own, ordSpad o = false → ordAcq o = false → ordRel o = false →
    AloneReady s c u sw [{ dX d 1 with mark := fp }, aX a 2] → Settled s c u →
    GenAccessOk s.issued c u (s.issPc u) ⟨.atom, true, true, true, 4⟩ (u.x64 a.toNat).toNat id ⟨.mem pa, pl, tr, false, own⟩ →
    ∃ t, exec (i sw d a o) s = .next t ∧
      GoesMem s (accepts s s.nextId c u [⟨.mem pa, pl, op (u.x d.toNat), false, if tr then some c.region else none, own⟩])
        t c u u c

/-- A relaxed atomic that returns a value is accepted: a landing waits with `regs` pending for what it brings, and a later
step performs it as `op`, which has the number of that landing (R122, R152): what `s` becomes. -/
def awaits (s : State) (c : Crew) (u : Thread) (regs : List Nat) (mem : Bool) (a : Nat → Accepted) : State :=
  accepts (flies s s ⟨s.nextId, c.uid, u.lane, false, regs.map (·, 0), none, none, true, mem⟩) s.nextId c u [a s.nextId]

/-- A relaxed atomic on physical memory that returns a value completes: it is accepted, and performed by a later step
(R122, R215, R216). -/
def AtomWaits (i : Atom) (fn k : Nat) (x : Acc1) : Prop :=
  ∀ sw d a o s c u pa pl tr own, ordSpad o = false → ordAcq o = false → ordRel o = false →
    AloneReady s c u sw [{ dX d k with mark := fn == 1 }, aX a 2] → Settled s c u →
    GenAccessOk s.issued c u (s.issPc u) x (u.x64 a.toNat).toNat id ⟨.mem pa, pl, tr, false, own⟩ →
    let regs := (List.range (x.size / 4)).map (u.wb + d.toNat + ·)
    let args := atomArgs fn fun j => u.x (d.toNat + j)
    ∃ t, exec (i sw d a o) s = .next t ∧ LaneBecomes s t c u { u with
        pc := nextPc s u
        pendX := pendAll u.pendX regs (s.issPc u) } c ∧
      Beside (awaits s c u regs true fun id =>
        ⟨.mem pa, pl, .rmw fn args.1 args.2 id, false, if tr then some c.region else none, own⟩) t

/-- The bytes `l` stand in the scratchpad of a block from `key` on, every other byte of it reads as before, and no other
block changes (R107). -/
def SpadStored (s t : State) (b : BUnit) (key : Nat) (l : List Byte) : Prop :=
  (∃ b', t.unit b.uid = some b' ∧ { b' with spad := b.spad, spadPoison := b.spadPoison } = b ∧
    (∀ i, i < l.length → readB b'.spad (key + i) = l.getD i 0) ∧
    (∀ a, (a < key ∨ key + l.length ≤ a) → readB b'.spad a = readB b.spad a) ∧
    b'.spadPoison = stillPoisoned b.spadPoison key l.length) ∧
    ∀ v, v ≠ b.uid → t.unit v = s.unit v

/-- An atomic on a word of the scratchpad completes in the same way (R159, R213, R215). -/
def SpadAtomRuns (i : Atom) (k : Nat) (x : Acc1) (fp wr ret noAcq noRel : Bool)
    (new : Word → (Nat → Word) → Word × Flags) : Prop :=
  ∀ sw d a o s c u b, ordSpad o = true → (ordAcq o || ordRel o) = true →
    AloneReady s c u sw [{ dX d k with mark := fp }, aX a 1] → OrderOk s c u o noAcq noRel → Memory.wf b.spad = true →
    SpadAccessOk s.issued c u (s.issPc u) x (u.x a.toNat).toNat 0 b → NoMonitor s (.spad c.unit (u.x a.toNat).toNat) 4 →
    let key := (u.x a.toNat).toNat
    let r := new (memWord b.spad key) fun j => u.x (d.toNat + j)
    ∃ t, exec (i sw d a o) s = .next t ∧
      (if ret then Lands s { s with units := t.units } t c u (u.flag r.2) (c.after o)
          [(u.wb + d.toNat, memWord b.spad key)]
        else Goes s { s with units := t.units } t c u u (c.after o)) ∧
      (if wr then SpadStored s t b key (wordBytes r.1) else t.units = s.units)

/-- The same on 8 bytes. -/
def SpadAtomRuns8 (i : Atom) (k : Nat) (new : BitVec 64 → (Nat → Word) → BitVec 64) : Prop :=
  ∀ sw d a o s c u b, ordSpad o = true → (ordAcq o || ordRel o) = true →
    AloneReady s c u sw [dX d k, aX a 1] → OrderOk s c u o false false → Memory.wf b.spad = true →
    SpadAccessOk s.issued c u (s.issPc u) ⟨.atom, true, true, true, 8⟩ (u.x a.toNat).toNat 0 b →
    NoMonitor s (.spad c.unit (u.x a.toNat).toNat) 8 →
    let key := (u.x a.toNat).toNat
    let old : BitVec 64 := memWord b.spad (key + 4) ++ memWord b.spad key
    let v := new old fun j => u.x (d.toNat + j)
    ∃ t, exec (i sw d a o) s = .next t ∧
      Lands s { s with units := t.units } t c u u (c.after o)
        [(u.wb + d.toNat, memWord b.spad key), (u.wb + d.toNat + 1, memWord b.spad (key + 4))] ∧
      SpadStored s t b key (wordBytes (v.extractLsb' 0 32) ++ wordBytes (v.extractLsb' 32 32))

/-- A reduction on the scratchpad, or a store that is `relaxed`, completes: it is accepted, and performed by a later step
(R209, R218). -/
def SpadLaterRuns (i : Atom) (fp relaxed : Bool) (op : Word → StoreOp) : Prop :=
  ∀ sw d a o s c u b, ordSpad o = true → (relaxed = true → ordRel o = false) →
    AloneReady s c u sw [{ dX d 1 with mark := fp }, aX a 1] → OrderOk s c u o true false →
    SpadAccessOk s.issued c u (s.issPc u) ⟨.atom, true, true, true, 4⟩ (u.x a.toNat).toNat 0 b →
    let key := (u.x a.toNat).toNat
    ∃ t, exec (i sw d a o) s = .next t ∧
      Goes s (accepts s s.nextId c u [⟨.spad c.unit key, .spad c.unit key, op (u.x d.toNat), false, none, true⟩]) t c u u
        (c.after o)

/-- A relaxed atomic on the scratchpad that returns a value completes: it is accepted, and performed by a later step
(R122, R159, R215). -/
def SpadAtomWaits (i : Atom) (fn k : Nat) (x : Acc1) : Prop :=
  ∀ sw d a o s c u b, ordSpad o = true → ordAcq o = false → ordRel o = false →
    AloneReady s c u sw [{ dX d k with mark := fn == 1 }, aX a 1] → Settled s c u →
    SpadAccessOk s.issued c u (s.issPc u) x (u.x a.toNat).toNat 0 b →
    let key := (u.x a.toNat).toNat
    let regs := (List.range (x.size / 4)).map (u.wb + d.toNat + ·)
    let args := atomArgs fn fun j => u.x (d.toNat + j)
    ∃ t, exec (i sw d a o) s = .next t ∧ LaneBecomes s t c u { u with
        pc := nextPc s u
        pendX := pendAll u.pendX regs (s.issPc u) } c ∧
      Within (awaits s c u regs false fun id =>
        ⟨.spad c.unit key, .spad c.unit key, .rmw fn args.1 args.2 id, false, none, true⟩) t

/-- The thread becomes `v`, its PC included, the crew becomes `d`, and outside its crews the machine is what `R` lets it
become from `b`. -/
def LeavesBy (R : State → State → Prop) (s b t : State) (c : Crew) (u v : Thread) (d : Crew) : Prop :=
  LaneBecomes s t c u v d ∧ R b t

abbrev Leaves := LeavesBy Within
abbrev LeavesMem := LeavesBy Beside

/-- The thread is filed under `pc` and its window base: it joins the one bin of its quarter that has room under its key,
or opens one, which will age (R27, R28, R29). -/
def Files (s : State) (c : Crew) (u : Thread) (sysc : Option (Nat × Word)) (pc : Word) (o : Out) : Prop :=
  let q := quarterNo c.core c.quarter
  let mine := (s.quarter q).bins.filter fun b =>
    b.crew == c.uid && b.pc == pc && b.wb == u.wb && b.sysc == sysc && decide (b.lanes.length < 32)
  let filed := fun (id : Nat) => { u with
    st := .filed id
    pc := pc
    filedAt := s.clock + 1 }
  (mine = [] → (s.quarter q).bins.length < 16 → ∃ t, o = .next t ∧ Leaves s
    (State.onQuarter { s with
      clock := s.clock + 1
      nextId := s.nextId + 1
      agenda := s.agenda ++ [.binAged q s.nextId] } q fun x => { x with
        bins := x.bins ++ [⟨s.nextId, c.uid, pc, u.wb, [u.lane], s.clock + 1, false, sysc⟩] }) t c u (filed s.nextId) c) ∧
  ∀ b, mine = [b] → ∃ t, o = .next t ∧ Leaves s
    (State.onQuarter { s with clock := s.clock + 1 } q fun x => { x with
      bins := x.bins.map fun (y : Bin) => if y.id == b.id then { y with lanes := y.lanes ++ [u.lane] } else y }) t c u (filed b.id) c

/-! ## Commands -/

/-- The entry that a command of the thread puts into its queue (R255, R259, R66). -/
def issuedEntry (s : State) (c : Crew) (u : Thread) (b : BUnit) (cmd : Cmd) (idx : Nat) (w : List Word) (bytes : Nat)
    (claims : List Claim) (inst : Nat) : Entry :=
  { id := s.nextId, unit := b.uid, crew := c.uid, lane := u.lane, world := c.world, launch := c.launch
    job := match s.world c.world with
      | some w => w.job
      | none => 0
    pc := u.pc, qid := (s.chan c idx).qid, rcore := b.relCore c, site := c.core, crewIdx := c.idx, quarter := c.quarter
    seq := (b.qctrAt (queueKey (b.relCore c) (s.chan c idx).qid)).seq, cmd, words := w, chan := idx
    kind := (s.chan c idx).kind, endpoint := (s.chan c idx).endpoint, bytes, claims, phase := .queued, inst, img := []
    slot := none, progress := [], born := [], held := [], asked := [], failed := [], status := 0, fault := 0, aux := 0, path := 0, retries := 0, refs := [], leases := [], fin := none }

/-- The command is issued: its entry stands last, its queue's count of commands and the bytes outstanding on its channel
go up, the thread goes on, and a region of the crew closes; only a group collective takes a number of its group (R66, R118,
R255, R277). -/
def EnginePuts (s t : State) (c : Crew) (u : Thread) (b : BUnit) (cmd : Cmd) (idx : Nat) (w : List Word) (bytes : Nat)
    (claims : List Claim) : Prop :=
  let key := queueKey (b.relCore c) (s.chan c idx).qid
  ∃ n, (cmd ≠ .a2av → cmd ≠ .areduce → cmd ≠ .gang → n = 0 ∧ t.worlds = s.worlds ∧ t.freeCtr = s.freeCtr) ∧
    LaneBecomes s t c u { u with pc := nextPc s u } { c with
      region := c.region + 1
      lastCmd := (u.pc, (b.qctrAt key).seq, (s.chan c idx).qid) } ∧
    t = { s with
      crews := t.crews
      iss := ⟨0, 0, none⟩
      worlds := t.worlds
      freeCtr := t.freeCtr
      recs := t.recs
      older := t.older
      nextId := s.nextId + 1
      units := (s.onUnit b.uid fun x => x.onQctr key fun q => { q with seq := q.seq + 1 }).units
      launches := (s.onLaunch c.world c.launch fun l => { l with desc := { l.desc with
        chans := l.desc.chans.mapIdx fun i x => if i = idx then { x with outstanding := x.outstanding + bytes } else x }
        }).launches
      entries := s.entries ++ [issuedEntry s c u b cmd idx w bytes claims n]
      agenda := t.agenda }

/-- The block of the thread, with no matrix result awaited and nothing of its crew's half performed. -/
def EngineBlock (s : State) (c : Crew) (u : Thread) (b : BUnit) : Prop :=
  s.unit c.unit = some b ∧ s.matrixWait c.uid u.lane = false ∧ Settled s c u ∧ NoHalves s c

/-- Constructors of a command with a descriptor. -/
abbrev Engine := Bool → BitVec 6 → BitVec 7 → Instr

/-- A command is issued whenever its descriptor is aligned, in range and free of conflicts, its fields break no rule, its
channel passes its checks, its queue has room, and its footprint is aligned, in range and claimed by no other (R254 to R258,
R66, R127). -/
def EngineRuns (i : Engine) (cmd : Cmd) (drip : Bool) : Prop :=
  ∀ sw ch a s c u b w rq, AloneReady s c u sw [aX a 1] → (c.drip = none ∨ drip = true) → EngineBlock s c u b →
    let at_ := (u.x a.toNat).toNat % 2 ^ 22
    let z := s.issued
    at_ % 64 = 0 → spadBad b.cores.length b.alloc at_ 64 = false →
    z.conflict ⟨.crew c.uid, c.region, false, false, s.issPc u⟩ 0 pieceSize false (.spad b.uid at_) at_ 64 = none →
    w = bytesWords (b.readSpad 0 at_ 64) → headerBad b cmd w = false →
    (∀ ill, z.bodyReq cmd ill c b (z.chan c ch.toNat) w = .ok rq) → rq.late = none →
    z.waitsForQueue c b cmd (z.chan c ch.toNat) = false → cmd.chanReason (z.chan c ch.toNat) rq.bytes = none →
    (∀ r ∈ rq.ranges ++ [ringRange w], r.misaligned = none ∧ r.outside b = none) →
    let claims := rq.ranges.flatMap (z.rangeClaims b.uid c.world c.core)
    let before := (z.orderedBefore b.uid (queueKey (b.relCore c) (z.chan c ch.toNat).qid)).map (·.id)
    (z.syncRel c.uid scopeDevice).claimsConflict (fun p => match p with
      | .engine id => before.contains id
      | _ => false) claims = none →
    ∃ t, exec (i sw ch a) s = .next t ∧ EnginePuts s t c u b cmd ch.toNat w rq.bytes claims

/-- The entry runs a command of this kind. -/
def Running (s : State) (e : Entry) (cmd : Cmd) : Prop := s.entry e.id = some e ∧ e.phase = .running ∧ e.cmd = cmd

/-- The message `e` of the directory arrives: the line at `addr` becomes `l`, no other line changes, the messages `out` set
out, and cores keep in their L1s only lines that their dies still hold (R364, R366). -/
def LineTo (s t : State) (e : Event) (addr : Nat) (l : Line) (out : List Event) : Prop :=
  t.line addr = l ∧ (∀ b, b ≠ addr → t.line b = s.line b) ∧ t = out.foldl State.arm { s with
    lines := t.lines
    flying := s.flying.erase e ++ out
    l1 := if s.l1.isEmpty then s.l1 else surrender t.net s.l1 }

/-- A message of the directory arrives in its turn, at the line `l` (R366). -/
def ArrivesAt (s : State) (e : Event) (l : Line) : Prop := s.net.inTurn e = true ∧ s.line l.addr = l

/-- A matrix command of the thread, from quarter `q` of its core on, with nothing filled in. -/
def issuedCmd (s : State) (c : Crew) (u : Thread) (k : MKind) (q nq : Nat) : MCmd :=
  { id := s.nextId, unit := c.unit, crew := c.uid, lane := u.lane, pc := s.issPc u, kind := k, q0 := quarterNo c.core q, nq
    shape := 0, w0 := 0, w1 := 0, w2 := 0, flag := false, tile := 0, n := 0, dest := 0, coord := 0, claims := []
    follow := none }

/-- The matrix command `m` is issued: it stands last in the order of every quarter it spans, the quarters are then what `f`
makes of them, a region of the crew closes, and the thread goes on as `v` (R239, R243, R244). -/
def MatrixPuts (s t : State) (c : Crew) (u v : Thread) (m : MCmd) (f : State → State) : Prop :=
  LaneBecomes s t c u { v with pc := nextPc s u } { c with region := c.region + 1 } ∧
    t = { s with
      crews := t.crews
      iss := ⟨0, 0, none⟩
      recs := t.recs
      older := t.older
      nextId := s.nextId + 1
      mcmds := s.mcmds ++ [m]
      quarters := (f ((m.quarters).foldl (fun z q => z.onQuarter q fun x => { x with order := x.order ++ [m.id] }) s)).quarters
      agenda := t.agenda }

/-- The rows of the command are claimed by no other that shares no order with it (R127), and nothing of the thread's crew
is half performed. -/
def MatrixFree (s : State) (c : Crew) (u : Thread) (m : MCmd) : Prop :=
  Settled s c u ∧ NoHalves s c ∧
    let z := s.issued.syncRel c.uid scopeDevice
    z.claimsConflict (z.sharesOrder m.quarters) m.claims = none

/-! ## Once for an issue set -/

/-- No other thread of the crew has the thread's lane, and it replays nothing. -/
def Plain (c : Crew) (t : Thread) : Prop := t.replay = none ∧ ∀ v ∈ c.threads, v.lane = t.lane → v = t

/-- A uniform instruction completes: with its uniform operands ready, its guard true and each acting thread `ok`, each
acting thread becomes what `f` makes of it behind PC + 4, the crew itself what `d` makes of it, and the rest of the machine
what `b` makes of it, but for translations and the records of accesses (R56, R171). -/
def RunsSet (i : Instr) (sw : Bool) (ops : List Opnd) (ok : State → Crew → Thread → Prop)
    (f : State → Crew → Thread → Thread) (d : State → Crew → Crew) (b : State → Crew → State) : Prop :=
  ∀ (s : State) (c : Crew), ReadyUniform s c sw [] ops → guardHoldsU s c = true →
    (∀ e ∈ s.crews, e.uid = c.uid → e = c) → (∀ t ∈ c.threads, Acts s t → Plain c t ∧ ok s c t) →
    ∃ (t : State) (c' : Crew), exec i s = .next t ∧ t.crew c.uid = some c' ∧
      (∀ lane u, c.thread lane = some u → ∃ n, c'.thread lane = some
        { (if sel s.iss.set u then f s c { u with pc := nextPc s u } else u) with set := n }) ∧
      { c' with
        threads := c.threads
        halt := c.halt } = { d s c with
        threads := c.threads
        halt := c.halt } ∧
      (∀ w, w ≠ c.uid → t.crew w = s.crew w) ∧
      t = { b s c with
        crews := t.crews
        iss := t.iss
        worlds := t.worlds
        recs := t.recs }

/-- The lowest thread of the issuing set. -/
def firstActing (s : State) (c : Crew) : Thread := (c.threads.find? (sel s.iss.set)).getD (Thread.init 0 0)

/-! ## Collectives -/

/-- A crew has arrived but for some thread, or it has arrived whole at the one instruction of the set. -/
def Arrived (s : State) (c : Crew) (last : Bool) : Prop :=
  if last then ∃ pc, ∀ t ∈ c.threads, t.live = true → Acts s t ∧ s.issPc t = pc
  else ∃ t ∈ c.threads, t.live = true ∧ ¬Acts s t ∧ t.collAt = none

/-- A thread of the set may arrive: no handler of its own, no result pending with S = 1 but those of the collective, and
where its guard is true its operands are in range and not pending (R152, R153, R187, R314). -/
def MayArrive (s : State) (c : Crew) (sw : Bool) (ops : List Opnd) (t : Thread) : Prop :=
  t.inPlainHandler = false ∧ (sw = true → pendClear c t (some (s.issPc t)) = true) ∧
    (guardHolds s t = true → regRange c t ops = none ∧
      (sw = false → depv c t (some (s.issPc t)) none [] ops = none))

/-- A thread-class collective is arrived at: each thread of the set, its guard true or not, waits in it under the next
number of the model's clock, a true guard makes its destination pending, and the collective is performed by a later
step once every live thread has arrived (R32, R33, R187). -/
def Arrives (i : Instr) (w : Word) (sw : Bool) (ops : List Opnd) (op : CollOp) (pend : Thread → List Nat) : Prop :=
  ∀ (s : State) (c : Crew) (last : Bool), Issuing s c → c.drip = none → (∀ t ∈ c.threads, Acts s t → MayArrive s c sw ops t) →
    Arrived s c last →
    ∃ (t : State) (c' : Crew), exec i s = .next t ∧ t.crew c.uid = some c' ∧
      (∀ lane u, c.thread lane = some u → ∃ n, c'.thread lane = some
        { (if sel s.iss.set u then { u with
            st := .coll op (guardHolds s u) s.iss.guard w (nextPc s u)
            filedAt := s.clock + 1
            pendX := if guardHolds s u then pendAll u.pendX (pend u) (s.issPc u) else u.pendX }
           else u) with set := n }) ∧
      { c' with
        threads := c.threads
        halt := c.halt } = c ∧ (∀ v, v ≠ c.uid → t.crew v = s.crew v) ∧
      t = { s with
        crews := t.crews
        iss := t.iss
        clock := s.clock + 1
        agenda := if last then s.agenda ++ [.collectivePerform c.uid] else s.agenda }

/-- The same of a vote: the guard is uniform, and the crew's destination becomes pending, the guard true or not (R187,
R190). -/
def ArrivesU (i : Instr) (w : Word) (sw : Bool) (qs : List Nat) (ops : List Opnd) (op : CollOp)
    (pendS : Crew → List Nat) (pendQ : List Nat) : Prop :=
  ∀ (s : State) (c : Crew) (last : Bool) (pc : Word), Issuing s c → c.drip = none →
    (∀ t ∈ c.threads, Acts s t → t.inPlainHandler = false ∧ s.issPc t = pc ∧
      (if sw then pendClear c t (some pc) = true
       else depv c t (some pc) (s.iss.guard.map fun g => (g.extractLsb' 0 3).toNat) qs ops = none) ∧
      regRange c t ops = none) →
    Arrived s c last →
    ∃ (t : State) (c' : Crew), exec i s = .next t ∧ t.crew c.uid = some c' ∧
      (∀ lane u, c.thread lane = some u → ∃ n, c'.thread lane = some
        { (if sel s.iss.set u then { u with
            st := .coll op (guardHoldsU s c) s.iss.guard w (pc + 4)
            filedAt := s.clock + 1 }
           else u) with set := n }) ∧
      { c' with
        threads := c.threads
        halt := c.halt } = { c with
          pendS := pendAll c.pendS (pendS c) pc
          pendQ := pendAll c.pendQ pendQ pc } ∧
      (∀ v, v ≠ c.uid → t.crew v = s.crew v) ∧
      t = { s with
        crews := t.crews
        iss := t.iss
        clock := s.clock + 1
        agenda := if last then s.agenda ++ [.collectivePerform c.uid] else s.agenda }

/-- A crew's collective is to be performed: every live thread waits at the collective `op` at `pc`, and no other crew has the
crew's number. -/
def CollWaits (s : State) (c : Crew) (op : CollOp) (pc : Word) : Prop :=
  s.crew c.uid = some c ∧ (∀ e ∈ s.crews, e.uid = c.uid → e = c) ∧
    ∃ t r, c.liveThreads = t :: r ∧ (∃ g p w, t.st = .coll op g p w (pc + 4)) ∧ ∀ u ∈ r, u.collAt = some pc

/-- What a thread of the lane contributes to a collective through the register field `a`, or the identity (R187). -/
def contributed (c : Crew) (a : Nat) (ident : Word) (lane : Nat) : Word :=
  match c.thread lane with
  | some v => if v.contributes then v.x a else ident
  | none => ident

/-- The contributing threads of the crew have received, each in x(d), `val` with its flags, and are released (R32, R187). -/
def collReceived (s : State) (c : Crew) (pc : Word) (d : Nat) (val : Thread → Word × Flags) : State :=
  (s.onCrew c.uid fun k => k.onThreads (·.contributes) fun t => (t.putX d (val t).1).flag (val t).2).collRelease c.uid pc

/-! ## Traps -/

/-- A user-mode thread whose trap is entered as soon as it is raised: nothing of it is pending or accepted and not yet
performed, and no trace is kept (R153, R309, R429). -/
def CanTrap (s : State) (c : Crew) (u : Thread) : Prop :=
  pendClear c u none = true ∧ Settled s c u ∧ NoHalves s c ∧ u.mode = .U ∧ ∀ w, s.world c.world = some w → bitN w.dbg.trace 1 = false

/-- The instruction traps: its thread enters supervisor mode at the vector of the cause, with its PC, window, predicates and
flags saved, and the cause, the reason and the words of the record in place; outside its crews the machine is what it would be from
`b`, and nothing else changes (R308 to R312). -/
def TrapsFrom (b : State) (i : Instr) (s : State) (c : Crew) (u : Thread) (code reason : Nat) (words : List Nat) : Prop :=
  ∃ t rec, exec i s = .next t ∧
    Leaves s b t c u { u with
      inTrap := true
      tcause := code
      tpc := u.pc
      twb := BitVec.ofNat 32 u.wb
      tpred := u.preds
      taflg := u.aflg
      tmode := .U
      trec := rec
      mode := .S
      pc := BitVec.ofNat 32 (16 * code) } { c with
      region := c.region + 1
      lost := 0 } ∧
    tabGet rec 0 0 = BitVec.ofNat 32 (min 255 c.lost * 2 ^ 24 + reason * 2 ^ 16 + code) ∧
    tabGet rec 0 1 = u.pc ∧ ∀ k, tabGet rec 0 (k + 2) = BitVec.ofNat 32 (words.getD k 0)

/-- The same of an instruction that has done nothing before its trap. -/
abbrev Traps (i : Instr) (s : State) := TrapsFrom s i s

/-- Nothing but the thread `u` of the crew changes, and the set issues no more. -/
def Stays (s t : State) (c : Crew) (u v : Thread) : Prop :=
  LaneBecomes s t c u v c ∧ t = { s with
    crews := t.crews
    iss := ⟨0, 0, none⟩ }

end Sys2Proof.Machine
end

