-- ==== Sys2Proof/Certificates/Slice0/Obligations.lean ====
section
/-! DEFINITION. The statements about the machine. -/

open Sys2Proof Sys2Proof.Machine

/-! ## Registers and arithmetic -/

/-- R173, R172, R56: set I on thread registers, with a uniform B operand, and on uniform registers. Every instruction
completes for every set whose operands are ready, with the value of the table, SAT for a clamped sum, and nothing else
changed. -/
def Obligations.IntegerSet : Prop :=
  RunsI .add .addPaired .addUniform (fun a b => BitVec.ofNat 32 (a.toNat + b.toNat)) ∧
  RunsI .sub .subPaired .subUniform (fun a b => BitVec.ofInt 32 ((a.toNat : Int) - b.toNat)) ∧
  RunsI .mul .mulPaired .mulUniform (fun a b => BitVec.ofNat 32 (a.toNat * b.toNat)) ∧
  RunsI .mulhiSi32 .mulhiSi32Paired .mulhiSi32Uniform (fun a b => BitVec.ofInt 32 (a.toInt * b.toInt / 2 ^ 32)) ∧
  RunsI .mulhiUi32 .mulhiUi32Paired .mulhiUi32Uniform (fun a b => BitVec.ofNat 32 (a.toNat * b.toNat / 2 ^ 32)) ∧
  RunsI .and .andPaired .andUniform (fun a b => a &&& b) ∧
  RunsI .or .orPaired .orUniform (fun a b => a ||| b) ∧
  RunsI .xor .xorPaired .xorUniform (fun a b => a ^^^ b) ∧
  RunsI .shl .shlPaired .shlUniform (fun a b => BitVec.ofNat 32 (a.toNat * 2 ^ b.toNat)) ∧
  RunsI .shr .shrPaired .shrUniform (fun a b => BitVec.ofNat 32 (a.toNat / 2 ^ b.toNat)) ∧
  RunsI .sar .sarPaired .sarUniform (fun a b => BitVec.ofInt 32 (a.toInt / 2 ^ b.toNat)) ∧
  RunsI .minSi32 .minSi32Paired .minSi32Uniform (fun a b => if a.toInt ≤ b.toInt then a else b) ∧
  RunsI .maxSi32 .maxSi32Paired .maxSi32Uniform (fun a b => if a.toInt ≤ b.toInt then b else a) ∧
  RunsI .minUi32 .minUi32Paired .minUi32Uniform (fun a b => if a.toNat ≤ b.toNat then a else b) ∧
  RunsI .maxUi32 .maxUi32Paired .maxUi32Uniform (fun a b => if a.toNat ≤ b.toNat then b else a) ∧
  let f := fun (a b : Word) =>
    if a.toInt + b.toInt < -(2 ^ 31) then ((0x80000000 : Word), fSAT)
    else if a.toInt + b.toInt > 2 ^ 31 - 1 then (0x7FFFFFFF, fSAT)
    else (a + b, 0)
  RunsX .addsSi32 f ∧ RunsXs .addsSi32Paired f ∧ RunsS .addsSi32Uniform f ∧
    decodeWord 0x12010205 = .ok (.addUniform false 4 4 5) ∧ decodeWord 0x03004004 = .ok (.shl false 1 0 4)

/-- R174, R177: immediates and the address instruction with an immediate. -/
def Obligations.Immediates : Prop :=
  (∀ sw d a i, RunsThreads (.addi sw d a i) sw [dX d 1, aX a 1] fun _ t =>
    t.putX d.toNat (BitVec.ofInt 32 ((t.x a.toNat).toNat + i.toInt))) ∧
  (∀ sw d i, RunsThreads (.movl sw d i) sw [dX d 1] fun _ t => t.putX d.toNat (BitVec.ofInt 32 i.toInt)) ∧
  (∀ sw d i, RunsThreads (.movh sw d i) sw [dX d 1] fun _ t =>
    t.putX d.toNat (BitVec.ofNat 32 (i.toNat * 2 ^ 18 + (t.x d.toNat).toNat % 2 ^ 18))) ∧
  (∀ sw d a i, RunsThreads (.addai sw d a i) sw [dX d 2, aX a 2] fun _ t =>
    let v := BitVec.ofInt 64 ((t.x64 a.toNat).toNat + i.toInt)
    (t.putX d.toNat (v.extractLsb' 0 32)).putX (d.toNat + 1) (v.extractLsb' 32 32)) ∧
  (∀ sw d a i, RunsCrew (.uaddi sw d a i) sw [] [dS d 1, aS a 1] fun c =>
    (c.putS d.toNat (BitVec.ofInt 32 ((c.s a.toNat).toNat + i.toInt)), 0)) ∧
  (∀ sw d i, RunsCrew (.umovl sw d i) sw [] [dS d 1] fun c => (c.putS d.toNat (BitVec.ofInt 32 i.toInt), 0)) ∧
  ∀ sw d i, RunsCrew (.umovh sw d i) sw [] [dS d 1] fun c =>
    (c.putS d.toNat (BitVec.ofNat 32 (i.toNat * 2 ^ 18 + (c.s d.toNat).toNat % 2 ^ 18)), 0)

/-- R176: functions of one register, mad and adda. Functions 11 to 15 are unassigned, and a unary function has B = 0. -/
def Obligations.UnaryFunctions : Prop :=
  RunsUnary .mov (fun a => a) ∧
  RunsUnary .not (fun a => ~~~a) ∧
  RunsUnary .neg (fun a => BitVec.ofInt 32 (-(a.toInt))) ∧
  RunsUnary .absSi32 (fun a => BitVec.ofNat 32 a.toInt.natAbs) ∧
  RunsUnary .popc (fun a => BitVec.ofNat 32 ((List.range 32).countP fun i => a.getLsbD i)) ∧
  RunsUnary .sxb (fun a => BitVec.ofInt 32 (a.extractLsb' 0 8).toInt) ∧
  RunsUnary .sxh (fun a => BitVec.ofInt 32 (a.extractLsb' 0 16).toInt) ∧
  (∃ f : Word → Nat, (∀ a, f a ≤ 32 ∧ a.toNat < 2 ^ (32 - f a) ∧ (f a < 32 → 2 ^ (31 - f a) ≤ a.toNat)) ∧
    RunsUnary .clz fun a => BitVec.ofNat 32 (f a)) ∧
  (∃ f : Word → Word, (∀ a i, i < 32 → (f a).getLsbD i = a.getLsbD (31 - i)) ∧ RunsUnary .brev f) ∧
  (∀ sw d a b, RunsThreads (.mad sw d a b) sw [dX d 1, aX a 1, bX b 1] fun _ t =>
    t.putX d.toNat (BitVec.ofNat 32 ((t.x a.toNat).toNat * (t.x b.toNat).toNat + (t.x d.toNat).toNat))) ∧
  (∀ sw d a b, RunsThreads (.adda sw d a b) sw [dX d 2, aX a 2, bX b 1] fun _ t =>
    let v := BitVec.ofInt 64 ((t.x64 a.toNat).toNat + (t.x b.toNat).toInt)
    (t.putX d.toNat (v.extractLsb' 0 32)).putX (d.toNat + 1) (v.extractLsb' 32 32)) ∧
  ∀ w : Word, w.extractLsb' 25 6 = 0x07#6 →
    ((w.extractLsb' 21 4).toNat ≥ 11 → decodeWord w = .error .unassigned) ∧
    (((w.extractLsb' 21 4).toNat ≤ 6 ∨ (w.extractLsb' 21 4).toNat = 8 ∨ (w.extractLsb' 21 4).toNat = 9) →
      w.extractLsb' 0 7 ≠ 0#7 → decodeWord w = .error .reserved)

/-- R175: comparisons of thread registers into p, and of uniform registers into q; functions 10 to 15 are unassigned, bits
20 to 17 are zero, and a write to index 7 is discarded. -/
def Obligations.Comparisons : Prop :=
  RunsC .cmpEq .ucmpEq (fun a b => decide (a = b)) ∧
  RunsC .cmpNe .ucmpNe (fun a b => decide (a ≠ b)) ∧
  RunsC .cmpLtSi32 .ucmpLtSi32 (fun a b => decide (a.toInt < b.toInt)) ∧
  RunsC .cmpLeSi32 .ucmpLeSi32 (fun a b => decide (a.toInt ≤ b.toInt)) ∧
  RunsC .cmpGtSi32 .ucmpGtSi32 (fun a b => decide (a.toInt > b.toInt)) ∧
  RunsC .cmpGeSi32 .ucmpGeSi32 (fun a b => decide (a.toInt ≥ b.toInt)) ∧
  RunsC .cmpLtUi32 .ucmpLtUi32 (fun a b => decide (a.toNat < b.toNat)) ∧
  RunsC .cmpLeUi32 .ucmpLeUi32 (fun a b => decide (a.toNat ≤ b.toNat)) ∧
  RunsC .cmpGtUi32 .ucmpGtUi32 (fun a b => decide (a.toNat > b.toNat)) ∧
  RunsC .cmpGeUi32 .ucmpGeUi32 (fun a b => decide (a.toNat ≥ b.toNat)) ∧
  (∀ w : Word, (w.extractLsb' 25 6 = 0x06#6 ∨ w.extractLsb' 25 6 = 0x0D#6) →
    ((w.extractLsb' 21 4).toNat ≥ 10 → decodeWord w = .error .unassigned) ∧
    ((w.extractLsb' 21 4).toNat < 10 → w.extractLsb' 17 4 ≠ 0#4 → decodeWord w = .error .reserved)) ∧
  decodeWord 0x0C404103 = .ok (.cmpLtSi32 false 1 2 3) ∧
  ∀ (p : BitVec 7) (i : Nat) (v : Bool), predGet (predSet p 7 v) i = predGet p i

/-- R178, R179, R172: fp32 arithmetic; fabs clears bit 31 and fneg inverts it unless the operand is a NaN. -/
def Obligations.FloatSet : Prop :=
  RunsF .fadd true false (setF32 .fadd) ∧ RunsF .fsub true false (setF32 .fsub) ∧ RunsF .fmul true false (setF32 .fmul) ∧
  RunsF .ffma true true (setF32 .ffma) ∧ RunsF .fmin true false (setF32 .fmin) ∧ RunsF .fmax true false (setF32 .fmax) ∧
  RunsF .fdiv true false (setF32 .fdiv) ∧
  RunsFs .faddPaired false (setF32 .fadd) ∧ RunsFs .fsubPaired false (setF32 .fsub) ∧
  RunsFs .fmulPaired false (setF32 .fmul) ∧ RunsFs .ffmaPaired true (setF32 .ffma) ∧
  RunsFs .fminPaired false (setF32 .fmin) ∧ RunsFs .fmaxPaired false (setF32 .fmax) ∧
  RunsFs .fdivPaired false (setF32 .fdiv) ∧
  (∀ sw d a, RunsThreads (.fsqrt sw d a) sw [dX d 1, (aX a 1).fp] fun _ t =>
    (t.putX d.toNat (setF32 .fsqrt (t.x a.toNat) 0 0).1).flag (setF32 .fsqrt (t.x a.toNat) 0 0).2) ∧
  let sign := fun (i : Rr) (g : Word → Word) => ∀ sw d a, RunsThreads (i sw d a) sw [dX d 1, (aX a 1).fp] fun _ t =>
    let v := t.x a.toNat
    if (v &&& 0x7FFFFFFF).toNat ≤ 0x7F800000 then t.putX d.toNat (g v)
    else if v.getLsbD 22 then t.putX d.toNat 0x7FC00000
    else (t.putX d.toNat 0x7FC00000).flag fNV
  sign .fabs (fun v => v &&& 0x7FFFFFFF) ∧ sign .fneg (fun v => v ^^^ 0x80000000)

/-- R180, R181, R86: fp32 comparisons, and arithmetic on the two halves of a register with the flags of both. -/
def Obligations.FloatComparesAndHalves : Prop :=
  RunsFc .fcmpEq (fcmp32 0) ∧ RunsFc .fcmpNe (fcmp32 1) ∧ RunsFc .fcmpLt (fcmp32 2) ∧ RunsFc .fcmpLe (fcmp32 3) ∧
  RunsFc .fcmpGt (fcmp32 4) ∧ RunsFc .fcmpGe (fcmp32 5) ∧
  let halves := fun (i : Rrr) (f : Fmt) (fn : SetF) => RunsF i true (decide (fn = .ffma)) fun a b d =>
    let half := fun (v : Word) (k : Nat) => v.toNat / 2 ^ (16 * k) % 2 ^ 16
    let lo := setF f fn (half a 0) (half b 0) (half d 0)
    let hi := setF f fn (half a 1) (half b 1) (half d 1)
    (BitVec.ofNat 32 (lo.1 % 2 ^ 16 + 2 ^ 16 * (hi.1 % 2 ^ 16)), lo.2 ||| hi.2)
  halves .haddF16 fmtF16 .fadd ∧ halves .hsubF16 fmtF16 .fsub ∧ halves .hmulF16 fmtF16 .fmul ∧
  halves .hfmaF16 fmtF16 .ffma ∧ halves .hminF16 fmtF16 .fmin ∧ halves .hmaxF16 fmtF16 .fmax ∧
  halves .haddBf16 fmtBF16 .fadd ∧ halves .hsubBf16 fmtBF16 .fsub ∧ halves .hmulBf16 fmtBF16 .fmul ∧
  halves .hfmaBf16 fmtBF16 .ffma ∧ halves .hminBf16 fmtBF16 .fmin ∧ halves .hmaxBf16 fmtBF16 .fmax

/-- R182, R183: a conversion writes the converted element, widened, or with .pk the converted elements packed, and
raises their flags; formats of code 0 to 4 are checked for markers (R87). That a floating-point source's range is judged after
rounding is the model's choice (log entry 24). -/
def Obligations.Conversion : Prop :=
  ∀ sw f d a t r, ((Instr.cvt sw f d a t false r).wellFormed = true →
      RunsThreads (.cvt sw f d a t false r) sw [dX d 1, { aX a 1 with mark := decide (f.toNat ≤ 4) }] fun _ u =>
        let v := cvtScalar f.toNat t.toNat r.toNat (u.x a.toNat)
        (u.putX d.toNat v.1).flag v.2) ∧
    ((Instr.cvt sw f d a t true r).wellFormed = true →
      RunsThreads (.cvt sw f d a t true r) sw
        [dX d (cvtDstRegs f.toNat t.toNat true), { aX a (cvtSrcRegs f.toNat t.toNat true) with mark := decide (f.toNat ≤ 4) }]
        fun _ u =>
          let v := cvtPacked f.toNat t.toNat r.toNat
            ((List.range (cvtSrcRegs f.toNat t.toNat true)).map fun n => u.x (a.toNat + n))
          (u.putXs d.toNat v.1).flag v.2)

/-- R230, R231, R232: dot products into xD, and the scaled ones with scales in x(D+1) and x(D+2); an odd k of dp8.f4.sc
is no such form. -/
def Obligations.DotProducts : Prop :=
  RunsF .dp4Si8 false false (fun a b d => dot .si8 d a b) ∧ RunsF .dp4Si8ui8 false false (fun a b d => dot .si8ui8 d a b) ∧
  RunsF .dp8Si4 false false (fun a b d => dot .si4 d a b) ∧ RunsF .dp8Si4ui4 false false (fun a b d => dot .si4ui4 d a b) ∧
  RunsF .dp4F8a true true (fun a b d => dot .f8a d a b) ∧ RunsF .dp4F8b true true (fun a b d => dot .f8b d a b) ∧
  RunsF .dp8F4 false true (fun a b d => dot .f4 d a b) ∧ RunsF .dp2Bf16 true true (fun a b d => dot .bf16 d a b) ∧
  RunsF .dp2F16 true true (fun a b d => dot .f16 d a b) ∧
  let scaled := fun (i : Instr) (f : Fmt) (m sw : Bool) (k : BitVec 2) (d a b : BitVec 7) =>
    RunsThreads i sw [dX d 3, (dX d 1).fp, { aX a 1 with mark := m }, { bX b 1 with mark := m }] fun _ t =>
      let r := dotScaled f k.toNat (t.x d.toNat) (t.x a.toNat) (t.x b.toNat) (t.x (d.toNat + 1)) (t.x (d.toNat + 2))
      (t.putX d.toNat r.1).flag r.2
  (∀ sw k d a b, scaled (.dp4F8aSc sw k d a b) fmtF8a true sw k d a b) ∧
  (∀ sw k d a b, scaled (.dp4F8bSc sw k d a b) fmtF8b true sw k d a b) ∧
  ∀ sw k d a b, k.toNat % 2 = 0 → scaled (.dp8F4Sc sw k d a b) fmtF4 false sw k d a b

/-- R191, R57, R145: predicate logic of the thread and of the crew, and the moves between predicates and registers. A
predicate reads what was last written to it, index 7 reads true and is written by nothing, and a condition with N is the
complement. -/
def Obligations.PredicateLogic : Prop :=
  RunsP .pand .qand (fun x y => x && y) ∧ RunsP .por .qor (fun x y => x || y) ∧ RunsP .pxor .qxor (fun x y => x != y) ∧
  (∀ sw d a, RunsThreads (.pmov sw d a) sw [] fun _ t =>
    { t with preds := predSet t.preds d.toNat (predField t.preds a) }) ∧
  (∀ sw d a, RunsCrew (.qmov sw d a) sw [d.toNat, (a.extractLsb' 0 3).toNat] [] fun c =>
    ({ c with qpreds := predSet c.qpreds d.toNat (predField c.qpreds a) }, 0)) ∧
  (∃ f : BitVec 7 → Word, (∀ p i, i < 32 → (f p).getLsbD i = (decide (i < 8) && predGet p i)) ∧
    ∀ sw d, RunsThreads (.p2r sw d) sw [dX d 1] fun _ t => t.putX d.toNat (f t.preds)) ∧
  (∃ f : Word → BitVec 7, (∀ v i, i < 7 → predGet (f v) i = v.getLsbD i) ∧
    ∀ sw a, RunsThreads (.regToPred sw a) sw [aX a 1] fun _ t => { t with preds := f (t.x a.toNat) }) ∧
  (∀ (p : BitVec 7) (i j : Nat) (v : Bool), i < 8 → j < 8 →
    predGet (predSet p i v) j = if j = 7 then true else if i = j then v else predGet p j) ∧
  (∀ p : BitVec 7, predGet p 7 = true) ∧
  ∀ (p : BitVec 7) (f : BitVec 4), predField p f =
    (predGet p (f.toNat % 8) != decide (f.toNat ≥ 8))

/-- R192, R193, R196, R198: branches, calls, jumps, nop and the window. A call writes PC + 4 to x1 where its condition is
true; winb moves the window of a thread whose 16 registers lie in the allocation. -/
def Obligations.ControlTransfers : Prop :=
  let target := fun (next : Word) (o : BitVec 21) => BitVec.ofInt 32 ((next.toNat : Int) - 4 + 4 * o.toInt)
  (∀ sw n c o, RunsUnguarded (.bra sw n c o) sw [] fun _ t =>
    if predGet t.preds c.toNat != n then { t with pc := target t.pc o } else t) ∧
  (∀ sw n c o, RunsWhen (.call sw n c o)
    (fun s k t => s.iss.guard = none ∧ (sw = true → pendClear k t none = true) ∧
      ((predGet t.preds c.toNat != n) = true → OperandsReady k t sw [implX 1 1]))
    fun _ t => if predGet t.preds c.toNat != n then { t.putX 1 t.pc with pc := target t.pc o } else t) ∧
  (∀ sw a, RunsThreads (.jr sw a) sw [aX a 1] fun _ t => { t with pc := t.x a.toNat }) ∧
  (∀ sw a, RunsThreads (.callr sw a) sw [aX a 1, implX 1 1] fun _ t => { t.putX 1 t.pc with pc := t.x a.toNat }) ∧
  (∀ sw, RunsThreads (.nop sw) sw [] fun _ t => t) ∧
  ∀ sw n, RunsWhen (.winb sw n)
    (fun s c t => (sw = true → pendClear c t none = true) ∧ (guardHolds s t = true → 16 * n.toNat + 16 ≤ c.nregs))
    fun _ t => { t with wb := 16 * n.toNat }

/-- R185, R152: a special function raises its flags as it issues, and its result is in flight. -/
def Obligations.SpecialFunctions : Prop :=
  let runs := fun (i : Rr) (fn : Spec) => ∀ sw d a s c u, AloneReady s c u sw [dX d 1, (aX a 1).fp] →
    ∃ t, exec (i sw d a) s = .next t ∧
      Lands s s t c u (u.flag (special fn (u.x a.toNat)).2) c [(u.wb + d.toNat, (special fn (u.x a.toNat)).1)]
  runs .recip .recip ∧ runs .rsqrt .rsqrt ∧ runs .exp2 .exp2 ∧ runs .log2 .log2 ∧ runs .sin .sin ∧ runs .cos .cos ∧
  runs .tanh .tanh ∧ runs .sigm .sigm

/-! ## Memory -/

/-- R211, R157, R129: generic loads; a byte or half is extended by zeros or by its sign, and 16 B are read as two halves, the
lower first (the model's choice, log entry 11). -/
def Obligations.GenericLoads : Prop :=
  LoadRuns .ldB 1 1 (fun s pa => [(s.loadB pa).zeroExtend 32]) ∧
  LoadRuns .ldSb 1 1 (fun s pa => [(s.loadB pa).signExtend 32]) ∧
  LoadRuns .ldH 2 1 (fun s pa => [(s.loadB (pa + 1) ++ s.loadB pa).zeroExtend 32]) ∧
  LoadRuns .ldSh 2 1 (fun s pa => [(s.loadB (pa + 1) ++ s.loadB pa).signExtend 32]) ∧
  LoadRuns .ldW 4 1 (fun s pa => [s.wordPA pa]) ∧
  LoadRuns .ldD 8 2 (fun s pa => [s.wordPA pa, s.wordPA (pa + 4)]) ∧
  LoadRuns16 .ldQ

/-- R211, R157, R129, R221: generic stores write the low byte, the low half, or whole registers, lowest first; 16 B as two halves, the
lower first (the model's choice, log entry 11). A store wakes the threads whose monitors are armed on its lines. -/
def Obligations.GenericStores : Prop :=
  StoreRuns .stB 1 1 (fun w => (wordBytes (w 0)).take 1) ∧
  StoreRuns .stH 2 1 (fun w => (wordBytes (w 0)).take 2) ∧
  StoreRuns .stW 4 1 (fun w => wordBytes (w 0)) ∧
  StoreRuns .stD 8 2 (fun w => wordBytes (w 0) ++ wordBytes (w 1)) ∧
  StoreRuns16 .stQ ∧
  StoreWakes .stB 1 1 ∧ StoreWakes .stH 2 1 ∧ StoreWakes .stW 4 1 ∧ StoreWakes .stD 8 2

/-- R213, R107, R108, R209: scratchpad loads and stores. -/
def Obligations.ScratchpadAccess : Prop :=
  SpadLoadRuns .ldsW 1 ∧ SpadLoadRuns .ldsD 2 ∧ SpadLoadRuns .ldsQ 4 ∧
  SpadStoreRuns .stsW 1 ∧ SpadStoreRuns .stsD 2 ∧ SpadStoreRuns .stsQ 4

/-- R214, R114, R115, R363, R129: private loads; 16 B are read as two halves, the lower first (the model's choice, log
entry 11). -/
def Obligations.PrivateLoads : Prop :=
  PrivLoadRuns .ldpB 1 1 (fun b f o => [(b (f o)).zeroExtend 32]) ∧
  PrivLoadRuns .ldpSb 1 1 (fun b f o => [(b (f o)).signExtend 32]) ∧
  PrivLoadRuns .ldpH 2 1 (fun b f o => [(b (f o + 1) ++ b (f o)).zeroExtend 32]) ∧
  PrivLoadRuns .ldpSh 2 1 (fun b f o => [(b (f o + 1) ++ b (f o)).signExtend 32]) ∧
  PrivLoadRuns .ldpW 4 1 (fun b f o => [byteWord b (f o)]) ∧
  PrivLoadRuns .ldpD 8 2 (fun b f o => [byteWord b (f o), byteWord b (f (o + 4))]) ∧
  PrivLoadRuns16 .ldpQ

/-- R214, R114, R115, R209: private stores are accepted, words of up to 8 B as one access, 16 B as two. -/
def Obligations.PrivateStores : Prop :=
  PrivStoreRuns .stpB 1 1 (fun w o => [(o, .bytes ((wordBytes (w 0)).take 1))]) ∧
  PrivStoreRuns .stpH 2 1 (fun w o => [(o, .bytes ((wordBytes (w 0)).take 2))]) ∧
  PrivStoreRuns .stpW 4 1 (fun w o => [(o, .words [w 0])]) ∧
  PrivStoreRuns .stpD 8 2 (fun w o => [(o, .words [w 0, w 1])]) ∧
  PrivStoreRuns .stpQ 16 4 (fun w o => [(o, .words [w 0, w 1]), (o + 8, .words [w 2, w 3])])

/-- R215, R216, R133, R118, R122: atomics on physical memory. The functions of a word return the old word; cas.b32 compares
with x(D) and writes x(D+1); ldx only reads and stx only writes. One that acquires or releases is performed at once, and opens
a new region; a relaxed one is accepted, its registers pending, and performed at a later step. One that writes wakes the
threads whose monitors are armed on its line (R221). -/
def Obligations.AtomicsOnMemory : Prop :=
  let word := fun (i : Atom) (f : Word → Word → Word) =>
    AtomRuns i 1 ⟨.atom, true, true, true, 4⟩ false true true false false fun m x => (f m (x 0), 0)
  word .atomAddSi32 (fun m v => m + v) ∧
  AtomRuns .atomAddF32 1 ⟨.atom, true, true, true, 4⟩ true true true false false (fun m x => setF32 .fadd m (x 0) 0) ∧
  word .atomMinSi32 (fun m v => if m.toInt ≤ v.toInt then m else v) ∧
  word .atomMaxSi32 (fun m v => if m.toInt ≤ v.toInt then v else m) ∧
  word .atomMinUi32 (fun m v => if m.toNat ≤ v.toNat then m else v) ∧
  word .atomMaxUi32 (fun m v => if m.toNat ≤ v.toNat then v else m) ∧
  word .atomAnd (fun m v => m &&& v) ∧ word .atomOr (fun m v => m ||| v) ∧ word .atomXor (fun m v => m ^^^ v) ∧
  word .atomExchB32 (fun _ v => v) ∧
  AtomRuns .atomCasB32 2 ⟨.atom, true, true, true, 4⟩ false true true false false
    (fun m x => (if m = x 0 then x 1 else m, 0)) ∧
  AtomRuns8 .atomAddUi64 2 (fun m x => m + (x 1 ++ x 0)) ∧
  AtomRuns8 .atomExchB64 2 (fun _ x => x 1 ++ x 0) ∧
  AtomRuns8 .atomCasB64 4 (fun m x => if m = x 1 ++ x 0 then x 3 ++ x 2 else m) ∧
  AtomRuns .atomLdx 1 ⟨.ldx, true, true, true, 4⟩ false false true false true (fun m _ => (m, 0)) ∧
  AtomRuns .atomStx 1 ⟨.atom, true, true, true, 4⟩ false true false true false (fun _ x => (x 0, 0)) ∧
  LaterRuns .atomStx false (fun v => .bytes (wordBytes v)) ∧
  let w4 : Acc1 := ⟨.atom, true, true, true, 4⟩
  let w8 : Acc1 := ⟨.atom, true, true, true, 8⟩
  AtomWaits .atomAddSi32 0 1 w4 ∧ AtomWaits .atomAddF32 1 1 w4 ∧ AtomWaits .atomMinSi32 2 1 w4 ∧ AtomWaits .atomMaxSi32 3 1 w4 ∧
  AtomWaits .atomMinUi32 4 1 w4 ∧ AtomWaits .atomMaxUi32 5 1 w4 ∧ AtomWaits .atomAnd 6 1 w4 ∧ AtomWaits .atomOr 7 1 w4 ∧
  AtomWaits .atomXor 8 1 w4 ∧ AtomWaits .atomExchB32 9 1 w4 ∧ AtomWaits .atomCasB32 10 2 w4 ∧ AtomWaits .atomAddUi64 11 2 w8 ∧
  AtomWaits .atomExchB64 12 2 w8 ∧ AtomWaits .atomCasB64 13 4 w8 ∧ AtomWaits .atomLdx 14 1 { w4 with kind := .ldx } ∧
  AtomWakes .atomAddSi32 0 1 false false ∧ AtomWakes .atomAddF32 1 1 false false ∧ AtomWakes .atomMinSi32 2 1 false false ∧
  AtomWakes .atomMaxSi32 3 1 false false ∧ AtomWakes .atomMinUi32 4 1 false false ∧ AtomWakes .atomMaxUi32 5 1 false false ∧
  AtomWakes .atomAnd 6 1 false false ∧ AtomWakes .atomOr 7 1 false false ∧ AtomWakes .atomXor 8 1 false false ∧
  AtomWakes .atomExchB32 9 1 false false ∧ AtomWakes .atomCasB32 10 2 false false ∧ AtomWakes .atomAddUi64 11 2 false false ∧
  AtomWakes .atomExchB64 12 2 false false ∧ AtomWakes .atomCasB64 13 4 false false ∧ AtomWakes .atomStx 15 1 true false

/-- R159, R213, R215, R216, R122: atomics on scratchpad words: one that acquires or releases is performed at once, a relaxed
one is accepted and performed at a later step. -/
def Obligations.AtomicsOnScratchpad : Prop :=
  let word := fun (i : Atom) (f : Word → Word → Word) =>
    SpadAtomRuns i 1 ⟨.atom, true, true, true, 4⟩ false true true false false fun m x => (f m (x 0), 0)
  word .atomAddSi32 (fun m v => m + v) ∧
  SpadAtomRuns .atomAddF32 1 ⟨.atom, true, true, true, 4⟩ true true true false false (fun m x => setF32 .fadd m (x 0) 0) ∧
  word .atomMinSi32 (fun m v => if m.toInt ≤ v.toInt then m else v) ∧
  word .atomMaxSi32 (fun m v => if m.toInt ≤ v.toInt then v else m) ∧
  word .atomMinUi32 (fun m v => if m.toNat ≤ v.toNat then m else v) ∧
  word .atomMaxUi32 (fun m v => if m.toNat ≤ v.toNat then v else m) ∧
  word .atomAnd (fun m v => m &&& v) ∧ word .atomOr (fun m v => m ||| v) ∧ word .atomXor (fun m v => m ^^^ v) ∧
  word .atomExchB32 (fun _ v => v) ∧
  SpadAtomRuns .atomCasB32 2 ⟨.atom, true, true, true, 4⟩ false true true false false
    (fun m x => (if m = x 0 then x 1 else m, 0)) ∧
  SpadAtomRuns8 .atomAddUi64 2 (fun m x => m + (x 1 ++ x 0)) ∧
  SpadAtomRuns8 .atomExchB64 2 (fun _ x => x 1 ++ x 0) ∧
  SpadAtomRuns8 .atomCasB64 4 (fun m x => if m = x 1 ++ x 0 then x 3 ++ x 2 else m) ∧
  SpadAtomRuns .atomLdx 1 ⟨.ldx, true, true, true, 4⟩ false false true false true (fun m _ => (m, 0)) ∧
  SpadAtomRuns .atomStx 1 ⟨.atom, true, true, true, 4⟩ false true false true false (fun _ x => (x 0, 0)) ∧
  SpadLaterRuns .atomStx false true (fun v => .bytes (wordBytes v)) ∧
  let w4 : Acc1 := ⟨.atom, true, true, true, 4⟩
  let w8 : Acc1 := ⟨.atom, true, true, true, 8⟩
  SpadAtomWaits .atomAddSi32 0 1 w4 ∧ SpadAtomWaits .atomAddF32 1 1 w4 ∧ SpadAtomWaits .atomMinSi32 2 1 w4 ∧
  SpadAtomWaits .atomMaxSi32 3 1 w4 ∧ SpadAtomWaits .atomMinUi32 4 1 w4 ∧ SpadAtomWaits .atomMaxUi32 5 1 w4 ∧
  SpadAtomWaits .atomAnd 6 1 w4 ∧ SpadAtomWaits .atomOr 7 1 w4 ∧ SpadAtomWaits .atomXor 8 1 w4 ∧
  SpadAtomWaits .atomExchB32 9 1 w4 ∧ SpadAtomWaits .atomCasB32 10 2 w4 ∧ SpadAtomWaits .atomAddUi64 11 2 w8 ∧
  SpadAtomWaits .atomExchB64 12 2 w8 ∧ SpadAtomWaits .atomCasB64 13 4 w8 ∧ SpadAtomWaits .atomLdx 14 1 { w4 with kind := .ldx }

/-- R218, R122, R221: a reduction is an atomic that returns nothing; a relaxed one, and any on the scratchpad, is performed
later; one performed at once wakes the threads whose monitors are armed on its line. -/
def Obligations.Reductions : Prop :=
  let mem := fun (i : Atom) (f : Word → Word → Word) =>
    AtomRuns i 1 ⟨.atom, true, true, true, 4⟩ false true false true false fun m x => (f m (x 0), 0)
  mem .mredAddSi32 (fun m v => m + v) ∧
  AtomRuns .mredAddF32 1 ⟨.atom, true, true, true, 4⟩ true true false true false (fun m x => setF32 .fadd m (x 0) 0) ∧
  mem .mredMinSi32 (fun m v => if m.toInt ≤ v.toInt then m else v) ∧
  mem .mredMaxSi32 (fun m v => if m.toInt ≤ v.toInt then v else m) ∧
  mem .mredMinUi32 (fun m v => if m.toNat ≤ v.toNat then m else v) ∧
  mem .mredMaxUi32 (fun m v => if m.toNat ≤ v.toNat then v else m) ∧
  mem .mredAnd (fun m v => m &&& v) ∧ mem .mredOr (fun m v => m ||| v) ∧ mem .mredXor (fun m v => m ^^^ v) ∧
  let later := fun (i : Atom) (fn : Nat) (fp : Bool) => LaterRuns i fp (.red fn) ∧ SpadLaterRuns i fp false (.red fn)
  later .mredAddSi32 0 false ∧ later .mredAddF32 1 true ∧ later .mredMinSi32 2 false ∧ later .mredMaxSi32 3 false ∧
  later .mredMinUi32 4 false ∧ later .mredMaxUi32 5 false ∧ later .mredAnd 6 false ∧ later .mredOr 7 false ∧
  later .mredXor 8 false ∧
  AtomWakes .mredAddSi32 0 1 true false ∧ AtomWakes .mredAddF32 1 1 true false ∧ AtomWakes .mredMinSi32 2 1 true false ∧
  AtomWakes .mredMaxSi32 3 1 true false ∧ AtomWakes .mredMinUi32 4 1 true false ∧ AtomWakes .mredMaxUi32 5 1 true false ∧
  AtomWakes .mredAnd 6 1 true false ∧ AtomWakes .mredOr 7 1 true false ∧ AtomWakes .mredXor 8 1 true false

/-! ## Ordering, monitors, barriers -/

/-- R219 to R224: a fence and a wake open a new region, and a wake wakes the threads whose monitors are armed on its line or
chunk; a waitc blocks its thread, its monitor armed, where the word equals
x(D), and else delivers the word; bar.wait takes a completed phase, or blocks. -/
def Obligations.FencesAndWaits : Prop :=
  let opened := fun (c : Crew) => { c with region := c.region + 1 }
  let quiet := fun (s : State) (c : Crew) (u : Thread) => Settled s c u ∧ NoHalves s c
  (∀ sw k e s c u, e ≠ 0 → AloneReady s c u sw [] → quiet s c u →
    s.relWaits c.uid u.lane (semRel e) k.toNat = false →
    ∃ t, exec (.fence sw k e) s = .next t ∧ Goes s s t c u u (opened c)) ∧
  (∀ sw a k s c u d, AloneReady s c u sw [aX a 2] → quiet s c u → s.relWaits c.uid u.lane true k.toNat = false →
    s.matrixWait c.uid u.lane = false → (u.x64 a.toNat).toNat % 4 = 0 → (u.x64 a.toNat).toNat < 2 ^ 56 →
    (s.issued.resolve c.world c.core .wake (u.x64 a.toNat).toNat 4).2 = .go d →
    ∃ t, exec (.wake sw a k 0) s = .next t ∧ Woken s t c.uid u.lane d.place 4 ∧
      (NoMonitor s d.place 4 → GoesMem s s t c u u (opened c))) ∧
  (∀ sw a k s c u b, AloneReady s c u sw [aX a 1] → quiet s c u → s.relWaits c.uid u.lane true k.toNat = false →
    s.matrixWait c.uid u.lane = false → (u.x a.toNat).toNat % 4 = 0 → s.unit c.unit = some b →
    spadBad b.cores.length b.alloc (u.x a.toNat).toNat 4 = false →
    ∃ t, exec (.wake sw a k 1) s = .next t ∧ Woken s t c.uid u.lane (.spad c.unit (u.x a.toNat).toNat) 4 ∧
      (NoMonitor s (.spad c.unit (u.x a.toNat).toNat) 4 → Goes s s t c u u (opened c))) ∧
  (∀ sw d a k s c u pa pl tr own, AloneReady s c u sw [dX d 1, aX a 2] → quiet s c u →
    GenAccessOk s.issued c u (s.issPc u) waitcAcc (u.x64 a.toNat).toNat
      (fun s => s.order c.env u.lane true false (k : BitVec 3).toNat) ⟨.mem pa, pl, tr, false, own⟩ →
    ∃ t, exec (.waitc sw d a k 0) s = .next t ∧
      if s.wordPA pa = u.x d.toNat then LeavesMem s s t c u { u with
          monitor := some pl
          st := .blocked .monitor (nextPc s u) } (opened c)
      else LandsMem s s t c u u (opened c) [(u.wb + d.toNat, s.wordPA pa)]) ∧
  (∀ sw d a k s c u b, AloneReady s c u sw [dX d 1, aX a 1] → quiet s c u →
    SpadAccessOk s.issued c u (s.issPc u) waitcAcc (u.x a.toNat).toNat 0 b →
    ∃ t, exec (.waitc sw d a k 1) s = .next t ∧
      if memWord b.spad (u.x a.toNat).toNat = u.x d.toNat then Leaves s s t c u { u with
          monitor := some (.spad c.unit (u.x a.toNat).toNat)
          st := .blocked .monitor (nextPc s u) } (opened c)
      else Lands s s t c u u (opened c) [(u.wb + d.toNat, memWord b.spad (u.x a.toNat).toNat)]) ∧
  ∀ sw b s c u k bar, AloneReady s c u sw [] → c.drip = none → NoHalves s c → s.unit c.unit = some k →
    k.bars[b.toNat]? = some bar →
    ∃ t, exec (.barWait sw b) s = .next t ∧
      if tabGet u.barS 0 b.toNat = bar.phase then
        Leaves s s t c u { u with st := .blocked (.barWait b.toNat false) (nextPc s u) } (opened c)
      else Goes s s t c u { u with barS := tabPut u.barS 0 b.toNat (tabGet u.barS 0 b.toNat + 1) } (opened c)

/-! ## Special registers -/

/-- R58 to R61, R64, R71, R72, R74, R438: reads of special registers by a thread and by a set, of the capability list, and the
write that clears flags; a read of the device's time samples it and latches its high word, of every active thread of a set that
reads it into a uniform register (the model's choice, log entry 24); the values of the special registers and of the list. -/
def Obligations.SpecialRegisters : Prop :=
  (∀ sw d n s c u v, n ≠ 0x08 → AloneReady s c u sw [dX d 1] → (isBurstReg n.toNat = true → c.drip ≠ none) →
    (n = 0x0E → s.matrixWait c.uid u.lane = false) → s.special c u n.toNat = some v →
    ∃ t, exec (.srd sw d n) s = .next t ∧ Goes s s t c u (u.putX d.toNat v) c) ∧
  (∀ sw d s c u, AloneReady s c u sw [dX d 1] →
    ∃ t, exec (.srd sw d 0x08) s = .next t ∧ Goes s s.sampleTime t c u
      ({ u with dthi := hi32 s.sampleTime.plat.devtime }.putX d.toNat (lo32 s.sampleTime.plat.devtime)) c) ∧
  (∀ sw d n, n ≠ 0x08 → isUniformReg n.toNat = true → RunsSet (.srdUniform sw d n) sw [dS d 1]
    (fun s c _ => s.special c (firstActing s c) n.toNat ≠ none ∧ isBurstReg n.toNat = false)
    (fun _ _ t => t) (fun s c => c.putS d.toNat ((s.special c (firstActing s c) n.toNat).getD 0)) fun s _ => s) ∧
  (∀ sw d, RunsSet (.srdUniform sw d 0x08) sw [dS d 1] (fun _ _ _ => True)
    (fun s _ t => { t with dthi := hi32 s.sampleTime.plat.devtime })
    (fun s c => c.putS d.toNat (lo32 s.sampleTime.plat.devtime)) fun s _ => s.sampleTime) ∧
  (∀ sw a s c u, AloneReady s c u sw [aX a 1] → s.matrixWait c.uid u.lane = false →
    ∃ t, exec (.swr sw a) s = .next t ∧
      Goes s s t c u { u with aflg := u.aflg &&& ~~~((u.x a.toNat).extractLsb' 0 6) } c) ∧
  (∀ sw d a i, RunsCrew (.capr sw d a i) sw [] [dS d 1, aS a 1] fun c =>
    (c.putS d.toNat (capWord ((c.s a.toNat).toNat + i.toNat)), 0)) ∧
  (∀ (s : State) (c : Crew) (u : Thread),
    let n := fun (k : Nat) => some (BitVec.ofNat 32 k)
    s.special c u 0x01 = n u.lane ∧ s.special c u 0x04 = n 128 ∧ s.special c u 0x05 = n c.core ∧
    s.special c u 0x06 = n (c.core / 64) ∧ s.special c u 0x07 = n c.quarter ∧
    s.special c u 0x08 = some (s.plat.devtime.extractLsb' 0 32) ∧ s.special c u 0x09 = some u.dthi ∧
    s.special c u 0x0C = n u.wb ∧ s.special c u 0x0D = n c.uwb ∧ s.special c u 0x0E = some (u.aflg.zeroExtend 32) ∧
    s.special c u 0x0F = n c.nregs ∧ s.special c u 0x10 = n c.nuregs ∧ s.special c u 0x11 = some c.launch ∧
    (c.drip = none → s.special c u 0x00 = n (c.idx * 128 + u.lane) ∧ s.special c u 0x02 = n c.idx ∧
      ∀ k, 0x20 ≤ k → k ≤ 0x23 → s.special c u k = none) ∧
    (∀ d, c.drip = some d → s.special c u 0x00 = n u.lane ∧ s.special c u 0x02 = n 0 ∧ s.special c u 0x20 = n d.burst ∧
      s.special c u 0x21 = some u.bc1 ∧ s.special c u 0x22 = some u.bc2 ∧ s.special c u 0x23 = some d.arg) ∧
    (∀ b, s.unit c.unit = some b → s.special c u 0x03 = n b.block) ∧
    (∀ l, s.launch c.world c.launch = some l → s.special c u 0x0A = n l.desc.grid ∧ s.special c u 0x0B = n l.desc.crews ∧
      s.special c u 0x12 = some l.graph) ∧
    ∀ k, 0x13 ≤ k → (k < 0x20 ∨ 0x23 < k) → s.special c u k = none) ∧
  capWord 0 = 0x00010014 ∧ capWord 1 = 0x01000080 ∧ capWord 2 = 0x020000FF ∧ capWord 3 = 0x03048040 ∧
  capWord 4 = 0x04004008 ∧ capWord 5 = 0x05000001 ∧ capWord 6 = 0x06000001 ∧ capWord 7 = 0x07000001 ∧
  capWord 8 = 0x08000002 ∧ capWord 9 = 0x09001008 ∧ capWord 10 = 0x0A000007 ∧ capWord 11 = 0x80080804 ∧
  capWord 12 = 0x81000400 ∧ capWord 13 = 0x82001000 ∧ capWord 14 = 0x83001008 ∧ capWord 15 = 0x84000302 ∧
  capWord 16 = 0x85001000 ∧ capWord 17 = 0x8600000F ∧ capWord 18 = 0x87000C80 ∧ capWord 19 = 0x88000034 ∧
  capWord 20 = 0x8900000F ∧ ∀ i, 20 < i → capWord i = 0xFF000000

/-- R305, R306: reads and writes of privileged registers outside user mode; a register of the crew takes the value of the
lowest lane, `%ctxop` 1 and 2 block their thread until the operation is done, and the accumulator's two enter the order of
the quarter. -/
def Obligations.PrivilegedRegisters : Prop :=
  (∀ sw d n s c u v, n.toNat < 0x70 → AloneReady s c u sw [dX d 1] → u.mode ≠ .U →
    (n = 0x29 → (s.quarter (quarterNo c.core c.quarter)).order = []) → s.privRead c u (0x80 + n.toNat) = some v →
    ∃ t, exec (.psrd sw d n) s = .next t ∧ Goes s s t c u (u.putX d.toNat v) c) ∧
  (∀ sw d n s c u, 0x70 ≤ n.toNat → AloneReady s c u sw [dX d 1] → u.mode = .M →
    ∃ t v, exec (.psrd sw d n) s = .next t ∧ Goes s { s with freeCtr := s.freeCtr + 1 } t c u (u.putX d.toNat v) c) ∧
  (∀ sw a n s c u v, n.toNat < 0x70 → AloneReady s c u sw [aX a 1] → u.mode ≠ .U →
    s.privWrite c u (0x80 + n.toNat) (u.x a.toNat) = some v →
    ∃ t, exec (.pswr sw a n) s = .next t ∧ Goes s s t c u v c) ∧
  (∀ sw a n s c u, n = 0x23 ∨ n = 0x25 ∨ n = 0x26 → AloneReady s c u sw [aX a 1] → u.mode ≠ .U →
    ∃ t, exec (.pswr sw a n) s = .next t ∧ Goes s s t c u u (c.setReg (0x80 + n.toNat) (u.x a.toNat))) ∧
  (∀ sw a s c u, AloneReady s c u sw [aX a 1] → u.mode ≠ .U → u.x a.toNat = 1 ∨ u.x a.toNat = 2 →
    ∃ t, exec (.pswr sw a 0x27) s = .next t ∧ Leaves s
      { s with agenda := s.agenda ++ [if u.x a.toNat = 1 then .ctxopSave c.uid else .ctxopRestore c.uid] } t c u
      { u with st := .blocked .ctxop (nextPc s u) } c) ∧
  (∀ sw a n s c u, n = 0x21 ∨ n = 0x22 → AloneReady s c u sw [aX a 1] → u.mode ≠ .U →
    s.arrayBound c (quarterNo c.core c.quarter) = true → (s.quarter (quarterNo c.core c.quarter)).order = [] →
    ∃ t m, exec (.pswr sw a n) s = .next t ∧ LaneBecomes s t c u { u with st := .blocked .accWrite (nextPc s u) } c ∧
      t.mcmds = s.mcmds ++ [m] ∧ m.kind = (if n = 0x21 then .accdat else .accstat) ∧ m.w0 = u.x a.toNat ∧ m.crew = c.uid ∧
      m.lane = u.lane ∧ (∀ pa, t.loadB pa = s.loadB pa)) ∧
  ∀ sw a n s c u, 0x70 ≤ n.toNat → AloneReady s c u sw [aX a 1] → u.mode = .M →
    ∃ t, exec (.pswr sw a n) s = .next t ∧ Goes s s t c u u c

/-! ## Uniform loads -/

/-- R212: a uniform load of physical bytes puts its words in flight to uniform registers, once for the set. -/
def Obligations.UniformLoads : Prop :=
  let runs := fun (i : Mem) (n k : Nat) (ws : State → Nat → List Word) => ∀ sw d a o s c pa pl tr so own,
    ReadyUniform s c sw [] [dS d k, aS a 2] → guardHoldsU s c = true → (∀ e ∈ s.crews, e.uid = c.uid → e = c) →
    (∀ t ∈ c.threads, Acts s t → Plain c t ∧ s.matrixWait c.uid t.lane = false ∧ Settled s c t) →
    GenAccessOk s.issued c (firstActing s c) (s.issPc (firstActing s c)) (plainLoad n) ((c.s64 a.toNat).toNat + o.toNat * n) id
      ⟨.mem pa, pl, tr, so, own⟩ → Current s c pl n →
    ∃ (t : State) (c' : Crew), exec (i sw d a o) s = .next t ∧ t.crew c.uid = some c' ∧
      (∀ lane u, c.thread lane = some u → ∃ m, c'.thread lane = some
        { (if sel s.iss.set u then { u with pc := nextPc s u } else u) with set := m }) ∧
      { c' with
        threads := c.threads
        halt := c.halt } = { c with
        pendS := pendAll c.pendS ((destVals (c.uwb + d.toNat) (ws s pa)).map Prod.fst) (s.issPc (firstActing s c)) } ∧
      (∀ w, w ≠ c.uid → t.crew w = s.crew w) ∧
      Beside (flies s s ⟨s.nextId, c.uid, 0, true, destVals (c.uwb + d.toNat) (ws s pa), none, none, false, true⟩) t
  runs .lduW 4 1 (fun s pa => [s.wordPA pa]) ∧ runs .lduD 8 2 (fun s pa => [s.wordPA pa, s.wordPA (pa + 4)])

/-! ## Collectives -/

/-- R188 to R190, R199, R200, R224: arrivals at the crew-collective instructions. -/
def Obligations.CollectiveArrivals : Prop :=
  let to0 := fun (d : BitVec 7) (t : Thread) => [t.wb + d.toNat]
  (∀ sw d a b, Arrives (.shflIdx sw d a b) (encRRR sw 24#6 0#4 d a b) sw [dX d 1, aX a 1, bX b 1]
    (.shfl 0 d.toNat a.toNat b.toNat) (to0 d)) ∧
  (∀ sw d a (n : BitVec 3), n ≠ 0 →
    Arrives (.shflUpW sw d a n) (encRRR sw 24#6 1#4 d a (0#4 ++ n)) sw [dX d 1, aX a 1] (.shfl 1 d.toNat a.toNat n.toNat) (to0 d) ∧
    Arrives (.shflDownW sw d a n) (encRRR sw 24#6 2#4 d a (0#4 ++ n)) sw [dX d 1, aX a 1] (.shfl 2 d.toNat a.toNat n.toNat) (to0 d) ∧
    Arrives (.shflXorW sw d a n) (encRRR sw 24#6 3#4 d a (0#4 ++ n)) sw [dX d 1, aX a 1] (.shfl 3 d.toNat a.toNat n.toNat) (to0 d)) ∧
  (∀ sw d a (k : BitVec 7), k ≠ 0 →
    Arrives (.shflUp sw d a k) (encRRR sw 24#6 4#4 d a k) sw [dX d 1, aX a 1] (.shfl 4 d.toNat a.toNat k.toNat) (to0 d) ∧
    Arrives (.shflDown sw d a k) (encRRR sw 24#6 5#4 d a k) sw [dX d 1, aX a 1] (.shfl 5 d.toNat a.toNat k.toNat) (to0 d) ∧
    Arrives (.shflXor sw d a k) (encRRR sw 24#6 6#4 d a k) sw [dX d 1, aX a 1] (.shfl 6 d.toNat a.toNat k.toNat) (to0 d)) ∧
  (∀ sw d a (g : BitVec 3), g.toNat < 6 →
    let lred := fun (i : Bool → BitVec 7 → BitVec 7 → BitVec 3 → Instr) (fn : Nat) =>
      Arrives (i sw d a g) (encRRR sw 25#6 (BitVec.ofNat 4 fn) d a (0#4 ++ g)) sw [dX d 1, aX a 1]
        (.lred fn d.toNat a.toNat g.toNat) (to0 d)
    lred .lredAddSi32 0 ∧ lred .lredAddF32 1 ∧ lred .lredMinSi32 2 ∧ lred .lredMaxSi32 3 ∧ lred .lredMinF32 4 ∧
    lred .lredMaxF32 5 ∧ lred .lredAnd 6 ∧ lred .lredOr 7 ∧ lred .lredXor 8) ∧
  (∀ sw (n : BitVec 3), Arrives (.uwinb sw n) (encRRR sw 31#6 7#4 0#7 0#7 (0#4 ++ n)) sw [] (.uwinb n.toNat) fun _ => []) ∧
  (∀ sw, Arrives (.tokp sw) (encRRR sw 31#6 8#4 0#7 0#7 0#7) sw [] .tokp fun _ => []) ∧
  (∀ sw (q : BitVec 3) (p : BitVec 4),
    let vote := fun (i : Bool → BitVec 3 → BitVec 4 → Instr) (fn : Nat) =>
      ArrivesU (i sw q p) (encRRR sw 26#6 (BitVec.ofNat 4 fn) (0#4 ++ q) (0#3 ++ p) 0#7) sw [q.toNat] []
        (.vote fn q.toNat (p.extractLsb' 0 3).toNat (p.getLsbD 3)) (fun _ => []) (if q = 7 then [] else [q.toNat])
    vote .voteEvery 0 ∧ vote .voteSome 1 ∧ vote .voteSame 2) ∧
  ∀ sw d (p : BitVec 4), ArrivesU (.voteMask sw d p) (encRRR sw 26#6 3#4 d (0#3 ++ p) 0#7) sw [] [dS d 4]
    (.vote 3 d.toNat (p.extractLsb' 0 3).toNat (p.getLsbD 3)) (fun c => (List.range 4).map fun k => c.uwb + d.toNat + k) []

/-- R224, R32: arrivals at a barrier that the block declares. -/
def Obligations.BarrierArrivals : Prop :=
  let runs := fun (i : Bool → BitVec 4 → Instr) (fn : BitVec 4) (sync : Bool) => ∀ sw (b : BitVec 4) (s : State) (c : Crew)
      (last : Bool), Issuing s c → c.drip = none → (∀ t ∈ c.threads, Acts s t → MayArrive s c sw [] t) → Arrived s c last →
    b.toNat < s.barCount →
    ∃ (t : State) (c' : Crew), exec (i sw b) s = .next t ∧ t.crew c.uid = some c' ∧
      (∀ lane u, c.thread lane = some u → ∃ n, c'.thread lane = some
        { (if sel s.iss.set u then { u with
            st := .coll (.bar b.toNat sync) (guardHolds s u) s.iss.guard (encRRR sw 47#6 fn 0#7 0#7 (0#3 ++ b)) (nextPc s u)
            filedAt := s.clock + 1 }
           else u) with set := n }) ∧
      { c' with
        threads := c.threads
        halt := c.halt } = c ∧ (∀ v, v ≠ c.uid → t.crew v = s.crew v) ∧
      t = { s with
        crews := t.crews
        iss := t.iss
        clock := s.clock + 1
        agenda := if last then s.agenda ++ [.collectivePerform c.uid] else s.agenda }
  runs .barArr 3 false ∧ runs .barSync 5 true

/-! ## Sets, traps and the ends of threads -/

/-- R192, R149, R194, R28: a branch of the set on a uniform predicate, the latch of a guard, and the filing of a thread into
a reform bin, new or already begun. -/
def Obligations.SetTransfers : Prop :=
  (∀ sw n k o s c, s.iss.guard = none → ReadyUniform s c sw [(k : BitVec 3).toNat] [] →
    ∃ t c', exec (.ubra sw n k o) s = .next t ∧ t.crew c.uid = some c' ∧ OnlyCrew s t c c' ∧
      ∀ lane u, c.thread lane = some u → ∃ m, c'.thread lane = some
        { (if sel s.iss.set u then { u with
            pc := if predGet c.qpreds k.toNat != n then
                BitVec.ofInt 32 (((firstActing s c).pc.toNat : Int) + 4 * o.toInt)
              else (firstActing s c).pc + 4 } else u) with set := m }) ∧
  (∀ n k s c, s.iss.guard = none → Issuing s c →
    ∃ t c', exec (.guardPrefix n k) s = .next t ∧ t.crew c.uid = some c' ∧ OnlyCrew s t c c' ∧
      t.iss = ⟨c.uid, s.iss.set, some (BitVec.ofBool n ++ k)⟩ ∧
      ∀ lane u, c.thread lane = some u → ∃ m, c'.thread lane = some { u with set := m }) ∧
  ∀ sw s c u, AloneReady s c u sw [] → Files s c u none (nextPc s u) (exec (.reform sw) s)

/-- R195, R48, R49, R204, R202: a thread that is not the last one not waiting at a collective exits, and its pending results are
dropped. The exit of the last thread of a crew finishes the crew: the last crew of a block holds its EXIT until the block's
commands are complete, as a saving crew waits for its victim set; another crew leaves, counted finished; a drip retires and
gives its slot to another burst. A system call files its thread under the instruction's own address; in the normal mode of its launch rnd puts
some value in flight and counts. -/
def Obligations.ThreadServices : Prop :=
  (∀ sw s c u v, AloneReady s c u sw [] → v ∈ c.threads → v.lane ≠ u.lane → v.live = true → v.collAt = none →
    c.asyncQ = [] →
    ∃ t, exec (.exit sw) s = .next t ∧ Leaves s s t c u { u with
      st := .exited
      pendX := []
      pc := nextPc s u } c) ∧
  (∀ sw s c u, AloneReady s c u sw [] → (∀ v ∈ c.threads, v.lane ≠ u.lane → v.live = false) →
    (∀ p ∈ s.stores, p.crew ≠ c.uid) → (∀ l ∈ s.landings, l.crew = c.uid → l.row = none) →
    (c.drip = none → c.course = .saving → ∃ t d, exec (.exit sw) s = .next t ∧ .lastExitRelease c.unit ∈ t.agenda ∧
      t.crew c.uid = some d ∧ d.threads.any (·.live) = false ∧ t.units = s.units) ∧
    (c.drip = none → c.course ≠ .saving → (∀ x ∈ s.crews, x.unit = c.unit → x.drip = none → x.uid = c.uid) →
      (s.quarter (quarterNo c.core c.quarter)).token ≠ some c.uid → ∀ b, s.unit c.unit = some b →
      ∃ t d, exec (.exit sw) s = .next t ∧ .lastExitRelease c.unit ∈ t.agenda ∧ t.crew c.uid = some d ∧
        d.threads.any (·.live) = false ∧ t.unit c.unit = some { b with lastExit := true }) ∧
    ((∀ g ∈ s.groups, g.crew ≠ c.uid) → (s.quarter (quarterNo c.core c.quarter)).token ≠ some c.uid →
      (c.drip = none → c.course ≠ .saving → (∃ x ∈ s.crews, x.unit = c.unit ∧ x.drip = none ∧ x.uid ≠ c.uid) → c.asyncQ = [] →
        ∀ b, s.unit c.unit = some b → ∃ t, exec (.exit sw) s = .next t ∧ t.crew c.uid = none ∧
          t.unit c.unit = some { b with finished := b.finished + 1 }) ∧
      ∀ d e, c.drip = some d → s.entry d.entry = some e → 2 ≤ e.progress.length →
        e.retired.length + 1 + e.failed.length < e.progress.getD 0 0 →
        ∃ t, exec (.exit sw) s = .next t ∧ t.crew c.uid = none ∧ .dripBirth c.core c.quarter ∈ t.agenda ∧
          t.entry d.entry = some { e with progress := e.progress ++ [d.burst] })) ∧
  (∀ sw n s c u, AloneReady s c u sw [implX 2 8] → c.drip = none →
    Files s c u (some (n.toNat, nextPc s u)) (s.issPc u) (exec (.sysc sw n) s)) ∧
  ∀ sw d s c u l, AloneReady s c u sw [dX d 1] → s.launch c.world c.launch = some l → l.desc.rndmode = 0 →
    ∃ t v, exec (.rnd sw d) s = .next t ∧
      Lands s { s with freeCtr := s.freeCtr + 1 } t c u u { c with rndcnt := c.rndcnt + 1 } [(u.wb + d.toNat, v)]

/-- R197, R309, R310, R312, R311: BRK takes the precise trap with the address after it as the saved PC and its code in the
record; the return from a handler restores what entry saved. -/
def Obligations.TrapEntryAndReturn : Prop :=
  (∀ sw k s c u, AloneReady s c u sw [] → CanTrap s c u →
    ∃ t rec, exec (.brk sw k) s = .next t ∧
      Leaves s s t c u { u with
        inTrap := true
        tcause := 0x0B
        tpc := nextPc s u
        twb := BitVec.ofNat 32 u.wb
        tpred := u.preds
        taflg := u.aflg
        tmode := .U
        trec := rec
        mode := .S
        pc := 0xB0 } { c with
        region := c.region + 1
        lost := 0 } ∧
      tabGet rec 0 0 = BitVec.ofNat 32 ((if c.lost > 255 then 255 else c.lost) * 2 ^ 24 + 0x0B) ∧
      tabGet rec 0 1 = u.pc ∧ tabGet rec 0 2 = (k : BitVec 7).zeroExtend 32 ∧ ∀ i, 3 ≤ i → tabGet rec 0 i = 0) ∧
  ∀ sw s c u, AloneReady s c u sw [] → s.iss.guard = none → u.mode ≠ .U → u.inTrap = true → u.twb.toNat % 16 = 0 →
    u.twb.toNat < c.nregs → c.nregs % 16 = 0 → u.tpc.toNat % 4 = 0 →
    (∀ b, s.unit c.unit = some b → b.lastExit = false) → c.course ≠ .resuming → c.asyncQ = [] → NoHalves s c →
    ∃ t, exec (.tret sw) s = .next t ∧ Leaves s s t c u { u with
      wb := u.twb.toNat
      preds := u.tpred
      aflg := u.taflg
      pc := u.tpc
      mode := u.tmode
      inTrap := u.tmode != .U } { c with region := c.region + 1 }

/-- R226, R111: the four operations on a circular buffer that nothing else waits for. -/
def Obligations.CircularBuffers : Prop :=
  let quiet := fun (s : State) (c : Crew) (obj : Nat) => c.drip = none ∧ (∀ e ∈ s.entries, e.unit ≠ c.unit) ∧
    ∀ k ∈ s.crews, ∀ t ∈ k.threads, ∀ d f i n, t.st ≠ .blocked (.cb obj d f i) n
  let take := fun (i : Bool → BitVec 7 → BitVec 7 → Instr) (fill : Bool) (slot : CBuf → Nat) (from_ : SlotSt)
      (next : CBuf → CBuf) => ∀ sw d b s c u k cb, AloneReady s c u sw [dX d 1] → quiet s c b.toNat → NoHalves s c →
    s.unit c.unit = some k → k.cbs[b.toNat]? = some cb → slot cb < cb.count →
    if (cb.slots.getD (slot cb) (.free, false)).1 = from_ then
      ∃ t, exec (i sw d b) s = .next t ∧ Leaves s (s.onCbuf c.unit b.toNat fun _ => next cb) t c u
        { u.putX d.toNat (BitVec.ofNat 32 (slot cb)) with pc := nextPc s u } { c with region := c.region + 1 }
    else
      ∃ t, exec (i sw d b) s = .next t ∧ Leaves s { s with nextId := s.nextId + 1 } t c u { u with
        st := .blocked (.cb b.toNat d.toNat fill s.nextId) (nextPc s u)
        pendX := pendAll u.pendX [u.wb + d.toNat] (s.issPc u) } { c with region := c.region + 1 }
  let give := fun (i : Bool → BitVec 7 → BitVec 7 → Instr) (from_ : SlotSt) (next : CBuf → Nat → CBuf) =>
    ∀ sw a b s c u k cb, AloneReady s c u sw [aX a 1] → quiet s c b.toNat → Settled s c u → NoHalves s c →
    s.unit c.unit = some k → (∀ v ∈ s.units, v.uid = c.unit → v = k) → k.cbs[b.toNat]? = some cb →
    (u.x a.toNat).toNat < cb.count → cb.slots.getD (u.x a.toNat).toNat (.free, false) = (from_, false) →
    ∃ t, exec (i sw a b) s = .next t ∧ Leaves s (s.onCbuf c.unit b.toNat fun _ => next cb (u.x a.toNat).toNat) t c u
      { u with pc := nextPc s u } { c with region := c.region + 1 }
  take .cbacq false (·.rix) .filled (fun cb => { cb with
    slots := cb.slots.set cb.rix (.reading, false)
    filled := cb.filled - 1
    rix := (cb.rix + 1) % cb.count }) ∧
  take .cbfill true (·.wix) .free (fun cb => { cb with
    slots := cb.slots.set cb.wix (.filling, false)
    free := cb.free - 1
    wix := (cb.wix + 1) % cb.count }) ∧
  give .cbrel .reading (fun cb i => { cb with
    slots := cb.slots.set i (.free, false)
    free := cb.free + 1 }) ∧
  give .cbdone .filling (fun cb i => { cb with
    slots := cb.slots.set i (.filled, false)
    filled := cb.filled + 1 })

/-! ## Engines -/

/-- R253 to R258, R264 to R292: every command with a descriptor enters its queue. -/
def Obligations.EngineCommands : Prop :=
  EngineRuns .cpy .cpy true ∧ EngineRuns .cpy2d .cpy2d true ∧ EngineRuns .cpyred .cpyred true ∧
  EngineRuns .cpyMx .cpymx true ∧ EngineRuns .hread .hread false ∧ EngineRuns .xsort .xsort false ∧
  EngineRuns .a2av .a2av false ∧ EngineRuns .areduce .areduce false ∧ EngineRuns .rput .rput true ∧
  EngineRuns .rget .rget true ∧ EngineRuns .ratom .ratom true ∧ EngineRuns .rflush .rflush true ∧
  EngineRuns .roost .roost false ∧ EngineRuns .rouse .rouse false ∧ EngineRuns .lnch .lnch false ∧
  EngineRuns .gang .gang false

/-- R268, R269: a queue fence and a queue wait enter their queue with what they wait for. -/
def Obligations.QueueEntries : Prop :=
  (∀ sw ch (m : BitVec 4) s c u b, m ≠ 0 → AloneReady s c u sw [] → EngineBlock s c u b →
    let z := s.issued
    z.waitsForQueue c b .qfence (z.chan c (ch : BitVec 6).toNat) = false →
    Cmd.qfence.chanReason (z.chan c ch.toNat) 0 = none →
    ∃ t, exec (.qfence sw ch m) s = .next t ∧
      EnginePuts s t c u b .qfence ch.toNat [0, 0, 0, 0, BitVec.ofNat 32 m.toNat] 0 []) ∧
  ∀ sw x a y s c u b, AloneReady s c u sw [aX a 1] → EngineBlock s c u b →
    let z := s.issued
    z.waitsForQueue c b .qwait (z.chan c (x : BitVec 6).toNat) = false →
    Cmd.qwait.chanReason (z.chan c x.toNat) 0 = none → Cmd.qwait.chanReason (z.chan c (y : BitVec 6).toNat) 0 = none →
    ∃ t, exec (.qwait sw x a y) s = .next t ∧ EnginePuts s t c u b .qwait x.toNat
      [0, 0, 0, 0, u.x a.toNat, BitVec.ofNat 32 (queueKey (b.relCore c) (z.chan c y.toNat).qid)] 0 []

/-- R293, R45: a cancel releases, cancels its level and answers 0; 1 of a level that has ended, 3 of one that is being
cancelled and 2 of none, with nothing changed. A crew that cancels its own level goes on in every lane before it ends (R47). The
handles of a phase and of a job are the model's choice (log entry 12). -/
def Obligations.Cancels : Prop :=
  ∀ sw (l : BitVec 2) a d s c u, AloneReady s c u sw [aX a 1, bX d 1] → c.drip = none → (2 ≤ l.toNat → u.mode ≠ .U) →
    s.matrixWait c.uid u.lane = false → Settled s c u → NoHalves s c → (∀ b ∈ s.units, b.uid = c.unit → b.cncl = none) →
    let z := (s.issued.cnclBegin c.unit).syncRel c.uid scopeDevice
    let r := z.cancelLevel c.world l.toNat (u.x a.toNat)
    let state : Option LState := match l with
      | 0 => (s.launch c.world (u.x a.toNat)).map (·.state)
      | 1 => (s.graph c.world (u.x a.toNat)).map (·.state)
      | 2 => (s.world c.world).bind fun w =>
        if u.x a.toNat = w.ctl.phase then some w.ctl.pstate
        else if u.x a.toNat < w.ctl.phase then some .complete else none
      | _ => (s.world c.world).bind fun w => if (u.x a.toNat).toNat = w.job then some w.ctl.jstate else none
    let goes := fun (v : Word) => ∃ t, exec (.cncl sw l a d) s = .next t ∧
      Goes s s t c u (u.putX d.toNat v) { c with region := c.region + 1 }
    match state with
    | none => goes 2
    | some st =>
      if st.ended then goes 1
      else if st = .cancelling then goes 3
      else r.2 = 0 ∧ ∀ k v, r.1.crew c.uid = some k → k.thread u.lane = some v → v.replay = none → v.pc = u.pc →
        exec (.cncl sw l a d) s = .next (((r.1.onLane c.uid u.lane fun t =>
          { t.putX d.toNat 0 with pc := nextPc s t }).cnclEnd c.unit).settle c.uid)

/-! ## The matrix array -/

/-- R234 to R241, R247, R248: the commands of an issue set that the array performs in the order of their quarters; a load
and an exchange of planes change the plane records as they issue. -/
def Obligations.MatrixCommands : Prop :=
  let site := fun (b : BUnit) (c : Crew) (ill : Trap) => (⟨b, c.idx % b.cores.length, c.core, c.launch, ill⟩ : MSite)
  (∀ sw n a b s c u k m,
    let w0 := c.s (b : BitVec 7).toNat
    let w1 := c.s (b.toNat + 1)
    let w2 := if descSC w0 then c.s (b.toNat + 2) else 0
    AloneReady s c u sw [aS a 1, bS b (if descSC w0 then 3 else 2)] → s.unit c.unit = some k →
    (∀ ill, s.issued.mldTrap (site k c ill) (n : BitVec 2).toNat (c.s a.toNat) w0 w1 w2 = none) →
    m = { issuedCmd s c u .mldst n.toNat 1 with
      shape := c.s a.toNat
      w0 := w0
      w1 := w1
      w2 := w2
      claims := rowClaims c.unit (descSW w0) (mldRows (c.s a.toNat) w0 w1 w2) .read } → MatrixFree s c u m →
    ∃ t p, exec (.mldSt sw n a b) s = .next t ∧
      MatrixPuts s t c u u m (fun z => z.onQuarter m.q0 fun q => { q with shadow := p }) ∧
      p.st = .loading ∧ p.fmt = descFmt w0 ∧ p.sc = descSC w0 ∧ p.k = shapeK (c.s a.toNat) ∧
      p.n = shapeN (c.s a.toNat) ∧ p.shape = c.s a.toNat ∧ p.w0 = w0 ∧ p.w1 = w1 ∧ p.w2 = w2 ∧ p.cmd = s.nextId) ∧
  (∀ sw n s c u k m, AloneReady s c u sw [] → c.drip = none → s.unit c.unit = some k →
    (s.quarter (quarterNo c.core (n : BitVec 2).toNat)).bound = some c.launch →
    m = issuedCmd s c u .mswap n.toNat 1 → MatrixFree s c u m →
    ∃ t, exec (.mswap sw n) s = .next t ∧ MatrixPuts s t c u u m (fun z => z.onQuarter m.q0 fun q => { q with
      active := q.shadow
      shadow := q.active })) ∧
  (∀ sw z tl a b s c u k m,
    let w0 := c.s (b : BitVec 7).toNat
    let w1 := c.s (b.toNat + 1)
    AloneReady s c u sw [aS a 1, bS b 2] → s.unit c.unit = some k →
    (∀ ill, s.issued.mmaTrap (site k c ill) c.quarter true (tl : BitVec 3).toNat (c.s a.toNat) w0 w1 = none) →
    m = { issuedCmd s c u .mma c.quarter ((shapeN (c.s a.toNat) + 63) / 64) with
      shape := c.s a.toNat
      w0 := w0
      w1 := w1
      flag := z
      tile := tl.toNat
      claims := rowClaims c.unit (descSW w0) (mmaRows (c.s a.toNat) w0 w1) .read } → MatrixFree s c u m →
    ∃ t, exec (.mma sw z tl a b) s = .next t ∧ MatrixPuts s t c u u m id) ∧
  (∀ sw z tl a b s c u k m,
    let w0 := c.s (b : BitVec 7).toNat
    let w1 := c.s (b.toNat + 1)
    AloneReady s c u sw [aS a 1, bS b 2] → s.unit c.unit = some k →
    (∀ ill, s.issued.mstTrap (site k c ill) c.quarter (tl : BitVec 3).toNat (c.s a.toNat) w0 w1 = none) →
    m = { issuedCmd s c u .mst c.quarter ((shapeN (c.s a.toNat) + 63) / 64) with
      shape := c.s a.toNat
      w0 := w0
      w1 := w1
      flag := z
      tile := tl.toNat
      claims := rowClaims c.unit (descSW w0) (mstRows (c.s a.toNat) w0 w1) .write } → MatrixFree s c u m →
    ∃ t, exec (.mst sw z tl a b) s = .next t ∧ MatrixPuts s t c u u m id) ∧
  ∀ sw tl n s c u k m, AloneReady s c u sw [] → c.drip = none → s.unit c.unit = some k → (n : BitVec 4) ≠ 0 →
    (tl : BitVec 3).toNat + n.toNat ≤ 8 → (s.quarter (quarterNo c.core c.quarter)).bound = some c.launch →
    m = { issuedCmd s c u .maccclr c.quarter 1 with
      tile := tl.toNat
      n := n.toNat } → MatrixFree s c u m →
    ∃ t, exec (.maccClr sw tl n) s = .next t ∧ MatrixPuts s t c u u m id

/-- R246, R249: a read of accumulator elements or of a row's status enters the order of the thread's quarter, with its
destination pending. -/
def Obligations.MatrixReads : Prop :=
  (∀ sw d a b s c u m,
    let coord := u.x (a : BitVec 7).toNat
    let conv := c.s (b : BitVec 7).toNat
    AloneReady s c u sw [dX d 1, aX a 1, bS b 1] → c.drip = none →
    (s.quarter (quarterNo c.core c.quarter)).bound = some c.launch →
    coord.toNat / 2 ^ 22 = 0 → coord.toNat / 2 ^ 9 % 2 ^ 7 = 0 → conv.toNat / 2 ^ 8 % 2 ^ 17 = 0 →
    conv.toNat / 2 ^ 26 % 16 ≠ 6 → conv.toNat / 2 ^ 26 % 16 ≠ 15 →
    coord.toNat / 2 ^ 16 % 2 ^ 6 + 32 / fmtWidth (conv.toNat / 2 ^ 26 % 16) ≤ 64 →
    m = { issuedCmd s c u .maccrd c.quarter 1 with
      w0 := conv
      dest := u.wb + d.toNat
      coord := coord } → MatrixFree s c u m →
    ∃ t, exec (.maccRd sw d a b) s = .next t ∧
      MatrixPuts s t c u { u with pendX := pendAll u.pendX [u.wb + d.toNat] (s.issPc u) } m id) ∧
  ∀ sw d a s c u m,
    let coord := u.x (a : BitVec 7).toNat
    AloneReady s c u sw [dX d 1, aX a 1] → c.drip = none →
    (s.quarter (quarterNo c.core c.quarter)).bound = some c.launch →
    coord.toNat / 2 ^ 22 = 0 → coord.toNat / 2 ^ 9 % 2 ^ 7 = 0 → coord.toNat / 2 ^ 16 % 2 ^ 6 = 0 →
    m = { issuedCmd s c u .mstat c.quarter 1 with
      dest := u.wb + d.toNat
      coord := coord } → MatrixFree s c u m →
    ∃ t, exec (.mstat sw d a) s = .next t ∧
      MatrixPuts s t c u { u with pendX := pendAll u.pendX [u.wb + d.toNat] (s.issPc u) } m id

/-- R286, R287: kvld by one thread whose channel names a sequence page store. A channel that names no sequence here, a
position outside the sequence, a quarantined page and a page that is not resident land their status alone; a position below
the window lands zeros, a resident page whose elements are finite its row. -/
def Obligations.PageReads : Prop :=
  ∀ (sw : Bool) (k : BitVec 6) (a d : BitVec 7) (s : State) (c : Crew) (u : Thread) (b : BUnit),
    AloneReady s c u sw [aX a 3, bX d 1] → c.drip = none → Settled s c u → s.matrixWait c.uid u.lane = false →
    s.unit c.unit = some b →
    let ch := s.chan c k.toNat
    let pos := (u.x a.toNat).toNat
    let layer := (u.x (a.toNat + 1)).toNat / 2 ^ 16
    let head := (u.x (a.toNat + 1)).toNat % 2 ^ 16
    let dest := (u.x (a.toNat + 2)).toNat
    let free := fun (l : List Byte) => s.issued.conflict ⟨.crew c.uid, s.issued.accessRegion c u, true, false, s.issPc u⟩ 1
      pieceSize false (.spad b.uid dest) dest l.length = none
    ch.valid = true → ch.kind = 6 → ch.permR = true → ch.outstanding ≤ ch.allow → dest % 16 = 0 →
    (s.kvSeq c.world ch = none → spadBad b.cores.length b.alloc dest 16 = false →
      ∃ t, exec (.kvld sw k a d) s = .next t ∧ KvLands s s t c u d.toNat 1 none) ∧
    ∀ q, s.kvSeq c.world ch = some q → spadBad b.cores.length b.alloc dest q.rb = false →
      (pos < q.ws → free (List.replicate q.rb 0) →
        ∃ t, exec (.kvld sw k a d) s = .next t ∧ KvLands s s t c u d.toNat 2 (some (dest, List.replicate q.rb 0))) ∧
      (q.ws ≤ pos → q.find layer head (pos / q.ppp) = none →
        ∃ t, exec (.kvld sw k a d) s = .next t ∧ KvLands s s t c u d.toNat 1 none) ∧
      ∀ i p, q.ws ≤ pos → q.find layer head (pos / q.ppp) = some (i, p) →
        (p.quarantined = true → ∃ t, exec (.kvld sw k a d) s = .next t ∧ KvLands s s t c u d.toNat 3 none) ∧
        (p.quarantined = false → p.tier ≠ 0 ∨ s.issued.kvRow q p pos = none →
          let w := s.issued.wantItem ch.low (i + 1)
          w.crews = s.crews → w.landings = s.landings → w.nextId = s.nextId →
          ∃ t, exec (.kvld sw k a d) s = .next t ∧ KvLands s w t c u d.toNat 4 none) ∧
        ∀ row, p.quarantined = false → p.tier = 0 → s.issued.kvRow q p pos = some row → rowBad (kvFormat q.fmt) row = false →
          free row → ∃ t, exec (.kvld sw k a d) s = .next t ∧ KvLandsMem s s t c u d.toNat 0 (some (dest, row))

/-! ## Steps that the machine takes on its own -/

/-- R152, R209, R212, R129, R122, R221, R286: between instructions, a result that lands writes its registers, of a thread or
of the crew, and clears their pending bits, a kvld's row first, the upper half of a 16 B load read first, an accepted atomic
performed first; an accepted store that no earlier one leads is performed at its bank, in its private segment or in memory, and
wakes the monitors on its lines. -/
def Obligations.ResultsLand : Prop :=
  (∀ (s : State) l c u, s.iss = ⟨0, 0, none⟩ → s.landings.filter (·.id == l.id) = [l] → l.uni = false → l.awaits = false →
    s.crew l.crew = some c → c.thread l.lane = some u → u.live = true →
    (∀ v ∈ c.threads, v.entering = none ∧ (v.lane = u.lane → v = u)) →
    let gets := fun (vals : List (Nat × Word)) => vals.foldl (fun (v : Thread) p => v.setX p.1 p.2)
      { u with pendX := pendNone u.pendX (vals.map (·.1)) }
    let gone := s.landings.filter (·.id != l.id)
    (l.late = none →
      (l.row = none → ∃ t, exec (.resultLand l.id) s = .next t ∧ LaneBecomes s t c u (gets l.vals) c ∧ t = { s with
        landings := gone
        crews := t.crews }) ∧
      ∀ a bytes, l.row = some (a, bytes) → (∀ n, NoMonitor s (.spad c.unit n) 16) →
        ∃ t, exec (.kvldStatusLand l.id) s = .next t ∧ LaneBecomes s t c u (gets l.vals) c ∧ t = { s with
          landings := gone
          units := (s.onUnit c.unit fun u => u.putSpad 0 a bytes).units
          crews := t.crews }) ∧
    ∀ x a b, l.late = some x → l.row = none → x.regs = [a, b] →
      (∀ m ∈ s.landings, m.id ≠ l.id → m.crew = l.crew → m.late.map (·.tag) ≠ some x.tag) →
      (x.region ≠ none → Current s c x.place 8) →
      let w := fun k => wordAt (s.loadT (x.target.plus (x.step * k)) 4) 0
      ∃ t, exec (.resultLand l.id) s = .next t ∧ LaneBecomes s t c u (gets (l.vals ++ [(a, w 0), (b, w 1)])) c ∧ t = { s with
        landings := gone
        freeCtr := t.freeCtr
        recs := t.recs
        crews := t.crews }) ∧
  (∀ (s : State) l c, s.iss = ⟨0, 0, none⟩ → s.landings.filter (·.id == l.id) = [l] → l.uni = true → l.awaits = false →
    l.late = none → l.row = none → s.crew l.crew = some c → (∀ v ∈ c.threads, v.entering = none) →
    ∃ t c', exec (.resultLand l.id) s = .next t ∧ t.crew l.crew = some c' ∧
      (∀ lane u, c.thread lane = some u → ∃ n, c'.thread lane = some { u with set := n }) ∧
      { c' with
        threads := c.threads
        halt := c.halt } = l.vals.foldl (fun (c : Crew) p => c.setS p.1 p.2) { c with pendS := pendNone c.pendS (l.vals.map (·.1)) } ∧
      (∀ w, w ≠ l.crew → t.crew w = s.crew w) ∧ t = { s with
        landings := s.landings.filter (·.id != l.id)
        crews := t.crews }) ∧
  (∀ (s : State) (p : PStore) before after, s.stores = before ++ p :: after →
    (∀ q ∈ before, q.id ≠ p.id ∧ q.leads p = false) → (∀ q ∈ after, q.id ≠ p.id) →
    let rest := { s with stores := before ++ after }
    (∀ fn v cmp l z, p.op = .rmw fn v cmp l → (∀ q ∈ s.stores, q.op.lands = some l → q.id = p.id) →
      (∃ x ∈ s.landings, x.id = l ∧ x.awaits = true ∧ x.uni = false ∧ x.late = none) → (∀ x ∈ s.landings, x.id = l → x.awaits = true) →
      exec (.storePerform p.id) s = .next z → exec (.resultLand l) s = exec (.resultLand l) z) ∧
    (∀ fn v cmp l pa, p.op = .rmw fn v cmp l → p.target = .mem pa → s.memOk = true → s.iss = ⟨0, 0, none⟩ →
      NoMonitor s p.place (atomSize fn) →
      let old := BitVec.ofNat 64 (leNat (s.loadPA pa (atomSize fn)))
      let r := atomFn fn old v cmp
      ∃ t, exec (.storePerform p.id) s = .next t ∧ Beside { rest with
          mem := t.mem
          poison := t.poison
          landings := s.landings.map fun x => if x.id = l then { x with
            vals := (x.vals.map (·.1)).zip [lo32 old, hi32 old]
            awaits := false } else x } t ∧
        t.crews = (if fn = 1 then (s.onLane p.crew p.lane fun u => u.flag r.2).crews else s.crews) ∧
        (if fn = 14 then t.mem = s.mem ∧ t.poison = s.poison else Stored s t pa (leBytes (atomSize fn) r.1.toNat))) ∧
    (∀ l, p.op = .bytes l ∨ (∃ fn v, p.op = .red fn v ∧
        l = leBytes 4 (redFn fn (wordAt (s.loadT p.target 4) 0) v).1.toNat) →
      (∃ t, exec (.storePerform p.id) s = .next t ∧ ∀ d n v, s.crew d.uid = some d → d.thread n = some v →
        v.watches p.place l.length = true → ∀ next, v.st = .blocked .monitor next →
        ∃ d' k, t.crew d.uid = some d' ∧ d'.thread n = some { v with
          st := .running
          pc := next
          monitor := none
          set := k }) ∧
      (NoMonitor s p.place l.length →
        (∀ b a, p.target = .spad b a → p.region = none → exec (.storePerform p.id) s = .next (rest.onUnit b fun u => u.writeKeys a l)) ∧
        (∀ w o, p.target = .priv w o → p.region = none → exec (.storePerform p.id) s = .next (rest.onCrew w fun c => c.writePriv o l)) ∧
        ∀ pa, p.target = .mem pa → s.memOk = true → s.iss = ⟨0, 0, none⟩ →
          ∃ t, exec (.storePerform p.id) s = .next t ∧ Beside { rest with mem := t.mem, poison := t.poison } t ∧
            t.crews = s.crews ∧ Stored s t pa l)) ∧
    ∀ ws w o, p.op = .words ws → p.target = .priv w o → p.region = none → (∀ r ∈ p.ranges, NoMonitor s r.1 r.2) →
      exec (.storePerform p.id) s = .next (rest.onCrew w fun c => ws.zipIdx.foldl
        (fun c x => c.writePriv (o + 512 * x.2) (leBytes 4 x.1.toNat)) c)) ∧
  ∀ (s : State) c t d va sc next s1 dst, s.crew c.uid = some c → c.thread t.lane = some t →
    t.st = .blocked (.waitcSo d va sc) next → s.resolve c.world c.core .waitc va 4 = (s1, .go dst) →
    let r := ((s1.acquired c.uid sc).syncOp c.uid).soWord c dst.target
    exec (.waitcSoRepeat c.uid t.lane) s = .next (if r.2 = t.x d then r.1.arm (.waitcSoRepeat c.uid t.lane)
      else (r.1.onLane c.uid t.lane (Thread.soDone d r.2 next)).settle c.uid)

/-- R29, R30, R32, R326, R433, R187 to R190, R199, R200, R223, R224: a bin whose oldest thread is REFAGE old is marked; a quarter
releases, of the bins of crews that are not halted, its oldest full bin, else its oldest aged one, else its largest, and the
threads of the bin become one issue set at its key; the oldest system call that waits is posted when the ring has room. A
collective at which every live thread has arrived is performed: a shuffle, a reduction and a vote deliver their values, uwinb
sets the uniform window, tokp passes the token on or blocks, a barrier counts one arrival. -/
def Obligations.BinsAndCollectives : Prop :=
  (∀ (s : State) q n, exec (.binAged q n) s = .next (s.onQuarter q fun x => { x with
    bins := x.bins.map fun b => if b.id = n then { b with aged := true } else b })) ∧
  (∀ (s : State) q b, s.nextBin q = some b →
    let may := fun (x : Bin) => ∀ c, s.crew x.crew = some c → c.halt ≠ .halted
    b ∈ (s.quarter q).bins ∧ may b ∧ ∀ x ∈ (s.quarter q).bins, may x →
      (s.binFull x = true → s.binFull b = true ∧ b.oldest ≤ x.oldest) ∧
      (s.binFull b = false → x.aged = true → b.aged = true ∧ b.oldest ≤ x.oldest) ∧
      (s.binFull b = false → b.aged = false → x.lanes.length ≤ b.lanes.length)) ∧
  (∀ (s : State) q b, s.nextBin q = some b → b.sysc = none →
    exec (.binRelease q) s = .next ((s.onQuarter q fun x => { x with bins := x.bins.filter (·.id != b.id) }).onCrew b.crew
      fun c => ((c.onThreads (fun t => b.lanes.contains t.lane) fun t => { t with
        st := .running
        pc := b.pc }).band b.lanes).regroup)) ∧
  (∀ (s : State) w wn req r rest, s.world wn = some w → w.sysHeld = (req, r) :: rest → w.sysRoom = true →
    let t := s.postSysc wn req r
    exec (.syscPostHeld wn) s = .next (if rest = [] then t else t.arm (.syscPostHeld wn))) ∧
  (∀ (s : State) c fn d a b pc, CollWaits s c (.shfl fn d a b) pc →
    let src : Thread → Int := fun t => match fn with
      | 0 => ((t.x b).toNat : Int) % 128
      | 1 => (t.lane : Int) - (128 / 2 ^ b : Nat)
      | 2 => (t.lane : Int) + (128 / 2 ^ b : Nat)
      | 3 => ((t.lane ^^^ (128 / 2 ^ b) : Nat) : Int)
      | 4 => (t.lane : Int) - b
      | 5 => (t.lane : Int) + b
      | _ => ((t.lane ^^^ b : Nat) : Int)
    exec (.collectivePerform c.uid) s = .next (collReceived s c pc d fun t =>
      (if src t < 0 ∨ 127 < src t then t.x a else contributed c a 0 (src t).toNat, 0))) ∧
  (∃ tree : (Word → Word → Word × Flags) → (Nat → Word) → Nat → Nat → Word × Flags,
    (∀ op v l, tree op v 0 l = (v l, 0)) ∧
    (∀ op v n l, let x := tree op v n l
      let y := tree op v n (l + 2 ^ n)
      tree op v (n + 1) l = ((op x.1 y.1).1, x.2 ||| y.2 ||| (op x.1 y.1).2)) ∧
    ∀ (s : State) c fn d a g pc, CollWaits s c (.lred fn d a g) pc → fn ≤ 8 →
      let op : Word → Word → Word × Flags := fun u v => match fn with
        | 0 => (u + v, 0)
        | 1 => setF32 .fadd u v 0
        | 2 => (if u.toInt ≤ v.toInt then u else v, 0)
        | 3 => (if u.toInt ≤ v.toInt then v else u, 0)
        | 4 => setF32 .fmin u v 0
        | 5 => setF32 .fmax u v 0
        | 6 => (u &&& v, 0)
        | 7 => (u ||| v, 0)
        | _ => (u ^^^ v, 0)
      let ident : Word := match fn with
        | 1 | 3 => 0x80000000
        | 2 => 0x7FFFFFFF
        | 4 => 0x7F800000
        | 5 => 0xFF800000
        | 6 => 0xFFFFFFFF
        | _ => 0
      let n := 7 - g
      let marked := c.threads.find? fun t => t.contributes && isMarker (t.x a)
      (((fn = 1 ∨ fn = 4 ∨ fn = 5) → marked = none) → exec (.collectivePerform c.uid) s =
        .next (collReceived s c pc d fun t => tree op (contributed c a ident) n (t.lane / 2 ^ n * 2 ^ n))) ∧
      ∀ v, (fn = 1 ∨ fn = 4 ∨ fn = 5) → marked = some v →
        exec (.collectivePerform c.uid) s = .next (s.collTrap c.uid [pc] fun _ => uninitTrap (v.x a))) ∧
  (∀ (s : State) c fn d p neg pc, CollWaits s c (.vote fn d p neg) pc →
    let votes := (c.threads.filter (·.contributes)).map fun t => (predGet t.preds p != neg)
    let sets := fun (v : Bool) => exec (.collectivePerform c.uid) s =
      .next ((s.onCrew c.uid fun k => { k with qpreds := predSet k.qpreds d v }).collRelease c.uid pc)
    (votes = [] → exec (.collectivePerform c.uid) s = .next (s.collRelease c.uid pc)) ∧
    (votes ≠ [] → (fn = 0 → sets (votes.all (· == true))) ∧ (fn = 1 → sets (votes.any (· == true))) ∧
      (fn = 2 → sets (votes.all (· == true) || votes.all (· == false))) ∧
      (fn = 3 → ∃ w : Nat → Word,
        (∀ k i, i < 32 → (w k).getLsbD i = match c.thread (32 * k + i) with
          | some t => t.contributes && (predGet t.preds p != neg)
          | none => false) ∧
        exec (.collectivePerform c.uid) s = .next ((s.onCrew c.uid fun k =>
          (((k.putS d (w 0)).putS (d + 1) (w 1)).putS (d + 2) (w 2)).putS (d + 3) (w 3)).collRelease c.uid pc)))) ∧
  (∀ (s : State) c n pc, CollWaits s c (.uwinb n) pc →
    (c.threads.any (·.contributes) = false → exec (.collectivePerform c.uid) s = .next (s.collRelease c.uid pc)) ∧
    (c.threads.any (·.contributes) = true → exec (.collectivePerform c.uid) s = .next
      (if 32 * n + 32 ≤ c.nuregs then (s.onCrew c.uid fun k => { k with uwb := 32 * n }).collRelease c.uid pc
       else s.collTrap c.uid [pc] Thread.collIll))) ∧
  (∀ (s : State) c pc, CollWaits s c .tokp pc →
    let z := s.blockRelease c
    let q := quarterNo c.core c.quarter
    let has := (∃ l, z.launch c.world c.launch = some l ∧ l.desc.array = true) ∧ c.threads.any (·.contributes) = true
    (¬has → exec (.collectivePerform c.uid) s = .next (z.collRelease c.uid pc)) ∧
    (has → (z.quarter q).token = some c.uid →
      exec (.collectivePerform c.uid) s = .next ((z.passToken q c).collRelease c.uid pc)) ∧
    (has → (z.quarter q).token ≠ some c.uid → exec (.collectivePerform c.uid) s = .next (z.collBlock c.uid .tokp pc))) ∧
  (∀ (s : State) (c : Crew) q, let others := (s.crewsOn q c.world c.launch).filter (·.uid != c.uid)
    (others = [] → s.passToken q c = s) ∧
    (others ≠ [] → ∃ x ∈ others, ((s.passToken q c).quarter q).token = some x.uid ∧
      let after := fun (y z : Crew) => y.idx < z.idx ∨ y.idx = z.idx ∧ y.uid < z.uid
      if ∃ y ∈ others, after c y then after c x ∧ ∀ y ∈ others, after c y → ¬after y x
      else ∀ y ∈ others, ¬after y x)) ∧
  (∀ (s : State) c b sync pc k bar, CollWaits s c (.bar b sync) pc → s.unit c.unit = some k → k.bars[b]? = some bar →
    ∃ t k', exec (.collectivePerform c.uid) s = .next t ∧ t.unit c.unit = some k' ∧ k'.bars[b]? = some
      (if c.threads.any (·.contributes) = false then bar
       else if bar.count + 1 < bar.members then { bar with count := bar.count + 1 }
       else { bar with
        count := 0
        phase := bar.phase + 1 })) ∧
  ∀ (s : State) c pc sync b (bar : Barrier), CollWaits s c (.bar b sync) pc → c.drip = none →
    (∀ x ∈ (s.quarter (quarterNo c.core c.quarter)).bins, x.crew ≠ c.uid) →
    ((s.unit c.unit).bind fun k => k.bars[b]?) = some bar →
    let phase := if c.threads.any (·.contributes) = false ∨ bar.count + 1 < bar.members then bar.phase else bar.phase + 1
    ∃ t c', exec (.collectivePerform c.uid) s = .next t ∧ t.crew c.uid = some c' ∧
      ∀ lane v, c.thread lane = some v → v.live = true → (∀ x ∈ c.threads, x.lane = lane → x = v) →
        ∃ v', c'.thread lane = some v' ∧ v'.regs = v.regs ∧ v'.preds = v.preds ∧
          if sync = true ∧ v.contributes = true then
            if tabGet v.barS 0 b = phase then v'.st = .blocked (.barWait b true) (pc + 4)
            else v'.pc = pc + 4 ∧ v'.collAt = none
          else v'.pc = pc + 4 ∧ v'.collAt = none

/-- R49, R141, R307, R314, R323, R324, R344: the last EXIT of a block of a running launch ends once none of its commands is
left and its crews have ended; after a launch of a queue ends the L1s are invalidated, and the next entry is taken, or the next nodes of its graph are;
an asynchronous trap enters when no thread is in a trap, the first deliverable one; PREEMPT is asked of blocks that have
save slots, and a crew that stays in a trap through its grace, or in its save past the deadline, has its launch cancelled. -/
def Obligations.ExitsAndPreemption : Prop :=
  (∀ (s : State) u, s.unit u.uid = some u → u.lastExit = true → u.victim = 0 →
    (s.launch u.world u.launch).map (·.state) = some .running → (∀ e ∈ s.entries, e.unit ≠ u.uid) →
    (∀ m ∈ s.mcmds, m.unit ≠ u.uid) → (∀ c ∈ s.crews, c.unit = u.uid → c.drip = none ∧ c.asyncQ = [] ∧
      ∀ t ∈ c.threads, t.live = false) →
    exec (.lastExitRelease u.uid) s =
      .next ((((s.crewsOf u.uid).foldl (fun s c => s.removeCrew c.uid) s).dropUnit u).unitFinished u.world u.launch)) ∧
  (∀ (s : State) l w h, s.launch w (BitVec.ofNat 32 h) = some l →
    let z := State.settleLaunch { s with l1 := [] } w (BitVec.ofNat 32 h)
    exec (.kernelBoundary w h) s = .next (if l.graph ≠ 0 then z.readyNodes w l.graph else z.arm (.queueEntryTake w l.queue))) ∧
  (∀ (s : State) g w h, s.launch w (BitVec.ofNat 32 h) = none → s.graph w (BitVec.ofNat 32 h) = some g →
    let mine := s.launches.filter fun l => l.world == w && l.graph == BitVec.ofNat 32 h
    exec (.kernelBoundary w h) s = .next ((mine.foldl (fun (z : State) l => z.settleLaunch w l.handle) { s with l1 := [] }).arm
      (.queueEntryTake w g.queue))) ∧
  (∀ (s : State) c a, s.crew c.uid = some c → (∃ t ∈ c.threads, t.live = true) →
    (∀ t ∈ c.threads, t.live = true → t.inTrap = false ∧ t.entering = none) → s.nextAsync c = some a →
    exec (.asyncTrapEntry c.uid) s = .next (s.deliver c a)) ∧
  (∀ (s : State) u r l reason grace, s.perLaunch (s.units.filter fun x => u.uid = x.uid ∧ x.mayVictim) = [u :: r] → l = u :: r →
    s.resumingIn l = false → (s.crewsOfSet l).length ≤ s.slotsLeft u.world →
    exec (.preemptRequest [u.uid] reason grace) s = .next (s.requestSet l reason grace)) ∧
  (∀ (s : State) c, s.crew c.uid = some c → c.course = .requested →
    exec (.preemptGraceExpiry c.uid) s = .next
      (if (∃ t ∈ c.threads, t.live = true ∧ t.inTrap = true) ∨ ∀ a ∈ c.asyncQ, a.trap.cause ≠ .preempt then
        s.cancelLaunch c.world c.launch else s.arm (.preemptGraceExpiry c.uid))) ∧
  (∀ (s : State) c t, s.crew c.uid = some c → c.course = .saving → t ∈ c.threads → t.live = true →
    exec (.saveDeadlineExpiry c.uid) s = .next (s.cancelLaunch c.world c.launch)) ∧
  (∀ (s : State) c, s.crew c.uid = some c → (c.course ≠ .saving ∨ ∀ t ∈ c.threads, t.live = false) →
    exec (.saveDeadlineExpiry c.uid) s = .next s) ∧
  (∀ (s : State) c d u w s1, s.crew c.uid = some c → s.unit c.unit = some u → s.world c.world = some w →
    (c.course = .saving → s.isLowest c = true → ∀ x ∈ s.crewsOf c.unit, x.course = .saving) →
    let z := s.performStores (·.crew == c.uid)
    z.crew c.uid = some d →
    let img := c.ctximg.toNat
    let sec := sectionOf (z.engineSection d u)
    (∀ n, w.slotRest img = some n → engineOff d.nregs + sec.length ≤ n) →
    z.devWrite d.world (img + engineOff d.nregs) sec = (s1, true) →
    exec (.ctxopSave c.uid) s = .next (((if d.course = .saving ∧ s1.isLowest d = true then s1.recordEntries d.unit else s1).dropReplied
      d.world c.uid).ctxopDone c.uid 0)) ∧
  (∀ (s : State) c im, s.crew c.uid = some c → s.isLowest c = true → s.imgStatus c.world c.ctximg.toNat = .ok im →
    let z := (im.bodies 4).foldl (fun s b => s.restoreSysc c b)
      (((im.bodies 9).foldl (fun s b => s.restorePriv c.uid b) (s.touchImg c.world c.ctximg.toNat)).restoreBlock c im)
    exec (.ctxopRestore c.uid) s = .next (((z.dropGroups fun g => g.crew == c.uid && g.core / 64 != c.core / 64).restoreTimes
      c).ctxopDone c.uid 0)) ∧
  ∀ (s : State) l t, s.launches.find? (·.order == l.order) = some l →
    ((List.range 4).filter fun d => (s.chosen d).any (·.order == l.order)).findSome? (s.resumeDie l) = some t →
    exec (.resumeStart l.order) s = .next t.wakeDispatch

/-- R326 to R328: a reply resumes the threads that wait for its request with x2 and x3 written, or counts in SYSCERR and
interrupts where it names none; the allocator serves the lanes of a request in turn and replies to all at once. -/
def Obligations.SystemCallReplies : Prop :=
  (∀ (s : State) w r c wn reqid status lanes values, s.world wn = some w →
    w.requests.find? (fun r => r.reqid == reqid && r.reply.isNone) = some r → s.crew r.crew = some c → c.course ≠ .saving →
    c.course ≠ .resuming →
    exec (.syscReplyDoorbell wn reqid status lanes values) s = .next (State.dropRequests
      (((s.onCrew r.crew fun c => ({ c with threads := c.threads.map (Thread.reply r.reqid status lanes values) }).regroup).acquired
        r.crew scopeDevice).syncOp r.crew) wn fun x => x.reqid == r.reqid)) ∧
  (∀ (s : State) w wn p, s.world wn = some w → w.requests.any p = true → s.dropRequests wn p =
    (s.onWorld wn fun w => { w with requests := w.requests.filter fun r => !p r }).arm (.syscPostHeld wn)) ∧
  (∀ (t : Thread) reqid status lanes values next, t.st = .blocked (.sysc reqid) next →
    let v : BitVec 64 := if status = 0 ∧ t.lane ∈ lanes then BitVec.ofNat 64 (values.getD (lanes.idxOf t.lane) 0) else -1
    t.reply reqid status lanes values = (((t.putX 2 (lo32 v)).putX 3 (hi32 v)).resumeAt next)) ∧
  (∀ (s : State) w wn reqid status lanes values, s.world wn = some w →
    w.requests.find? (fun r => r.reqid == reqid && r.reply.isNone) = none →
    exec (.syscReplyDoorbell wn reqid status lanes values) s = .next ((s.onWorld wn fun w => { w with ctl := { w.ctl with
      syscerr := w.ctl.syscerr + 1 } }).interrupt wn 4 0 [reqid.toNat, (w.ctl.syscerr + 1).toNat])) ∧
  (∀ (s : State) w r wn reqid, s.world wn = some w → w.requests.find? (fun r => r.reqid == reqid && r.reply.isNone) = some r →
    (∀ x ∈ w.requests.takeWhile (fun x => x.reqid != reqid), x.crew = r.crew → x.reply = none → x.service ≠ 1 ∧ x.service ≠ 2) →
    let turns := fun (f : State → List Word → State × Nat) => r.args.foldl
      (fun (p : State × List Nat) a => ((f p.1 a).1, p.2 ++ [(f p.1 a).2])) (s, [])
    let alloc := turns fun z a => z.allocLane wn r.core a
    let free := turns fun z a => z.freeLane wn a
    exec (.syscAlloc wn reqid) s = .next (alloc.1.reply wn reqid 0 r.lanes alloc.2) ∧
    exec (.syscFree wn reqid) s = .next (free.1.reply wn reqid 0 r.lanes free.2)) ∧
  ∀ (s : State) wn core args, (args.getD 2 0).toNat > 2 ∨ allocLog ((args.getD 0 0).toNat + 2 ^ 32 * (args.getD 1 0).toNat) = none →
    s.allocLane wn core args = (s, 0)

/-- R240, R241, R243, R246 to R250, R306: the command at the head of every order it spans is performed, and leaves its
orders. A load fills the shadow plane and makes its record READY where it now stands; a swap exchanges the contents; an mma
writes each element of its rows and columns, the sum of its products onto the old value or onto +0, and raises their flags in
the row's status; an mst stores its rows converted, and with CLR zeroes them; a clear zeroes tiles and their status; macc.rd and mstat deliver their value; the privileged writes write the accumulator and the
row status at `%accpos` and resume their thread. An error of the array marks its row or empties its plane, and the command
that met it reports MEM_ERROR and has no other effect. -/
def Obligations.MatrixPerforms : Prop :=
  (∀ (s : State) (m : MCmd) q, s.headCmd q = some m → s.cmdReady m = true → m.follow = none →
    (m.kind = .mldst → ∀ u, s.unit m.unit = some u → exec (.mldStPerform q) s = .next ((s.onQuarter m.q0 fun x => { x with
      shadowD := u.loadPlane m.shape m.w0 m.w1 m.w2
      shadow := if x.shadow.cmd = m.id then { x.shadow with st := .ready } else x.shadow
      active := if x.active.cmd = m.id then { x.active with st := .ready } else x.active }).leaveOrder m)) ∧
    (m.kind = .mswap → exec (.mswapPerform q) s = .next ((s.onQuarter m.q0 fun x => { x with
      activeD := x.shadowD
      shadowD := x.activeD }).leaveOrder m)) ∧
    (m.kind = .mma → exec (.mmaPerform q) s = .next ((s.runMma m).leaveOrder m)) ∧
    (m.kind = .mst → exec (.mstPerform q) s = .next ((s.runMst m).leaveOrder m)) ∧
    (m.kind = .maccclr → exec (.maccClrPerform q) s = .next ((s.onQuarter m.q0 fun x =>
      (List.range (64 * m.n)).foldl (fun (x : Quarter) i => x.clearRow (64 * m.tile + i)) x).leaveOrder m)) ∧
    (m.kind = .maccrd → exec (.maccRdLand q) s = .next (((s.onLane m.crew m.lane fun t =>
      (t.deliver [(m.dest, ((s.quarter m.q0).maccRd m.coord m.w0).1)]).flag
        (if t.live then ((s.quarter m.q0).maccRd m.coord m.w0).2 else 0)).leaveOrder m).settle m.crew)) ∧
    (m.kind = .mstat → exec (.mstatLand q) s = .next (((s.onLane m.crew m.lane fun t =>
      t.deliver [(m.dest, tabGet (s.quarter m.q0).rowst 0 (coordRow m.coord))]).leaveOrder m).settle m.crew))) ∧
  (∀ (s : State) (m : MCmd) c t, s.crew m.crew = some c → c.thread m.lane = some t →
    s.headCmd (quarterNo c.core c.quarter) = some m → s.cmdReady m = true → m.follow = none →
    let col := coordCol t.accpos
    let row := coordRow t.accpos
    let next : Nat := if col = 63 then (row + 1) % 512 else (col + 1) * 2 ^ 16 + row
    (m.kind = .accdat → exec (.accdatWrite m.crew m.lane m.w0) s = .next ((((s.onQuarter m.q0 fun x =>
      x.putAcc row col m.w0).onLane m.crew m.lane fun t => { t.passAcc with accpos := BitVec.ofNat 32 next }).leaveOrder m).settle m.crew)) ∧
    (m.kind = .accstat → exec (.accstatWrite m.crew m.lane m.w0) s = .next ((((s.onQuarter m.q0 fun x => { x with
      rowst := tabPut x.rowst 0 row (m.w0 &&& 0x137) }).onLane m.crew m.lane Thread.passAcc).leaveOrder m).settle m.crew))) ∧
  (∀ (s : State) (m : MCmd) (row : Nat) q uid lanes, s.mcmds.find? (·.id == m.id) = some m → m.follow = none →
    s.receiverOf m.unit m.crew m.lane = some (uid, lanes) → m.kind ≠ .mldst → m.kind ≠ .accdat → m.kind ≠ .accstat →
    let hit := fun (f : Quarter → Quarter) =>
      let z := s.onQuarter q f
      State.async (if m.kind = .mma ∨ m.kind = .mst ∨ m.kind = .maccclr then z.leaveOrder m else z) uid (arrayFault m) lanes
    exec (.arrayUncorrectableError q false false row m.id) s = .next (hit fun x => { x with
      rowst := tabPut x.rowst 0 (row % 512) (tabGet x.rowst 0 (row % 512) ||| 0x100) }) ∧
    ((∀ k ∈ s.mcmds, k.kind = .mswap → k.q0 ≠ q) →
      exec (.arrayUncorrectableError q true true row m.id) s = .next (hit fun x => { x with
        shadow := Plane.init
        shadowD := PlaneData.init }) ∧
      exec (.arrayUncorrectableError q true false row m.id) s = .next (hit fun x => { x with
        active := Plane.init
        activeD := PlaneData.init }))) ∧
  (∀ (s : State) (m : MCmd) u j row, s.unit m.unit = some u → tabWf (fun _ => Quarter.init) s.quarters = true →
    (∀ k, tabWf (fun _ => (0 : Word)) (s.quarter k).acc = true ∧ tabWf (fun _ => (0 : Word)) (s.quarter k).rowst = true) → j < m.nq →
    let x := s.quarter (m.q0 + j)
    let i := row - 64 * m.tile
    let mine := 64 * m.tile ≤ row ∧ row < 64 * m.tile + shapeM m.shape
    let cols := min 64 (shapeN m.shape - 64 * j)
    let sw := descSW m.w0
    let addr := descAddr m.w0 + i * descStride m.w1
    -- an mma (R241)
    let fa := descFmt m.w0
    let data := u.readSpad sw addr (rowData m.shape m.w0)
    let scales := if descSC m.w0 then u.readSpad sw (addr + rowScale m.shape m.w0) ((shapeK m.shape + 15) / 16) else []
    let a := fun k => elemBytes (((arrayFmt fa).getD (8, false)).1) data k
    let w := fun k n => (tabGet x.activeD.elems 0 (64 * k + n)).toNat
    let elem : Nat → Nat × Flags := fun n =>
      let old := if m.flag then 0 else (x.accAt row n).toNat
      match intFmt fa with
      | some (wi, _) => intDot old ((List.range (shapeK m.shape)).map fun k => intOf wi true (a k) * intOf wi true (w k n))
      | none => floatDot ((floatFmt fa).getD fmtF8a) ((floatFmt x.activeD.fmt).getD fmtF8a) old
          ((List.range (shapeK m.shape)).map fun k => (a k, w k n, if x.activeD.sc then
            some ((scales.getD (k / 16) 0).toNat, (tabGet x.activeD.scales 0 (64 * (k / 16) + n)).toNat) else none))
    let y := (s.runMma m).quarter (m.q0 + j)
    (∀ n, n < 64 → tabGet y.acc 0 (64 * row + n) =
      if mine ∧ n < cols then BitVec.ofNat 32 (elem n).1 else tabGet x.acc 0 (64 * row + n)) ∧
    (tabGet y.rowst 0 row = if mine then (if m.flag then 0 else tabGet x.rowst 0 row) |||
      (orFlags ((List.range cols).map fun n => (elem n).2)).setWidth 32 else tabGet x.rowst 0 row) ∧
    -- an mst (R247)
    let conv := fun r c => accConvert (convInt m.w0) (m.w1.toNat / 2 ^ 16 % 2 ^ 8) (convFmt m.w0) (convRnd m.w0)
      ((s.quarter (m.q0 + c / 64)).accAt (64 * m.tile + r) (c % 64))
    let z := s.runMst m
    z.unit m.unit = ((List.range (shapeM m.shape)).foldl (fun z r => z.spadWrite m.unit sw (descAddr m.w0 + r * descStride m.w1)
      (packBytes (fmtWidth (convFmt m.w0)) ((List.range (shapeN m.shape)).map fun c => (conv r c).1))) s).unit m.unit ∧
    (∀ n, n < 64 → tabGet (z.quarter (m.q0 + j)).acc 0 (64 * row + n) =
      if mine ∧ m.flag = true then 0 else tabGet x.acc 0 (64 * row + n)) ∧
    tabGet (z.quarter (m.q0 + j)).rowst 0 row = if mine then (if m.flag then 0 else tabGet x.rowst 0 row |||
      (orFlags ((List.range cols).map fun n => (conv i (64 * j + n)).2)).setWidth 32) else tabGet x.rowst 0 row) ∧
  ∀ (x : Quarter) (row r k : Nat), k < 64 → tabWf (fun _ => (0 : Word)) x.rowst = true →
    (x.clearRow row).accAt r k = (if r = row then 0 else x.accAt r k) ∧
    tabGet (x.clearRow row).rowst 0 r = (if r = row then 0 else tabGet x.rowst 0 r)

/-- R262, R264 to R273, R276: an entry begins when it is the head of its queue; a copy moves its bytes, or stops at a page
that refuses it or waits for one that is absent; a chunk of a reduction is applied to its destination; fences and waits of
queues complete when what they name has; bursts enter the drip queue while it has room, are retried or fail, and are born
as drips, two on a quarter at most; the router writes its four tables or reports the lowest failing index. -/
def Obligations.EngineSteps : Prop :=
  (∀ (s : State) (e : Entry), s.entry e.id = some e → e.fin = none → e.phase = .queued → s.isHead e = true →
    (e.cmd.recorded = true → s.unitOut e.unit = false) → exec (.engineEntryStart e.id) s = .next (s.startEntry e)) ∧
  (∀ (s : State) (e : Entry) u, (e.cmd = .cpy ∨ e.cmd = .cpy2d) → Running s e e.cmd → s.unit e.unit = some u →
    (∀ s1 r, s.moveCopy e = (s1, .ok r) →
      exec (.cpyComplete e.id) s = .next ((s1.fillSlot e).finishEntry e.id stDone 0 0 e.bytes 0)) ∧
    (∀ s1 x e', s.moveCopy e = (s1, .perm x) → s1.entry e.id = some e' → e'.cmd = e.cmd →
      exec (.cpyComplete e.id) s = .next (s1.finishEntry e.id stPermFault x 0 e'.moved 0)) ∧
    (∀ s1 x e', s.moveCopy e = (s1, .poisoned x) → s1.entry e.id = some e' → e'.cmd = e.cmd →
      exec (.cpyComplete e.id) s = .next (s1.finishEntry e.id stMemError x 0 e'.moved 0)) ∧
    ∀ s1 m, s.moveCopy e = (s1, .miss m) → exec (.cpyComplete e.id) s = .next (s1.engineWait e.id m)) ∧
  (∀ (s : State) (e : Entry) u s1 r, Running s e .cpymx → s.unit e.unit = some u → s.moveCopy e = (s1, .ok r) →
    exec (.cpyComplete e.id) s = .next ((s1.fillSlot e).follow e u)) ∧
  (∀ (s : State) (e : Entry) u, Running s e .cpyred → s.unit e.unit = some u → e.source.spad = true → (e.dest u).spad = true →
    let k := e.progress.headD 0
    let off := 4096 * k
    let n := min 4096 (e.word 8 - off)
    u.spadBroken e.source.mode (e.source.base + off) n = false → u.spadBroken (e.dest u).mode ((e.dest u).base + off) n = false →
    let new := u.readSpad e.source.mode (e.source.base + off) n
    let old := u.readSpad (e.dest u).mode ((e.dest u).base + off) n
    let rs := (List.range (n / 4)).map fun i => cpyredOp (e.word 10) (wordAt old i) (wordAt new i)
    let aux := e.aux ||| (orFlags (rs.map (·.2))).setWidth 32
    let t := (s.spadWrite e.unit (e.dest u).mode ((e.dest u).base + off) (wordsBytes (rs.map (·.1)))).onEntry e.id fun e => { e with
      aux := aux
      progress := [k + 1] }
    exec (.cpyredChunkApply e.id) s = .next (if off + n ≥ e.word 8 then t.finishEntry e.id stDone 0 aux.toNat e.bytes 0
      else t.arm (.cpyredChunkApply e.id))) ∧
  (∀ (s : State) (e : Entry), s.entry e.id = some e → e.phase = .waitPage ∨
      e.phase = .abandoned ∧ (∀ c ∈ s.crews, c.unit = e.unit → c.course ≠ .saving) →
    exec (.copyReplay e.id) s = .next (s.replayEntry e)) ∧
  (∀ (s : State) (e : Entry), Running s e .qfence → exec (.qfenceComplete e.id) s = .next
    (if ∀ y ∈ s.entries, y.unit = e.unit → y.id < e.id → y.rcore = e.rcore → y.qid < 4 → bitN (e.word 4) y.qid = false then
      s.finishEntry e.id stDone 0 0 0 0 else s)) ∧
  (∀ (s : State) (e : Entry) u, Running s e .qwait → s.unit e.unit = some u → exec (.qwaitComplete e.id) s = .next
    (if ((u.qctrAt (e.word 5)).done - e.words.getD 4 0).toNat < 2 ^ 31 then s.finishEntry e.id stDone 0 0 0 0 else s)) ∧
  (∀ (s : State) (e : Entry) b bytes, Running s e .hread → s.burstNew e b = true → (64 ≤ e.qid → b ∈ e.asked) →
    let q := s.bursts.filter fun x => x.core == s.dripCore e
    (64 ≤ q.length → exec (.hreadBurstArrive e.id b bytes) s = .next (s.arm (.hreadBurstArrive e.id b bytes))) ∧
    (q.length < 64 → e.qid < 64 → ∀ s1 l, s.readGroups e (e.burstGroups b) = (s1, .ok l) →
      exec (.hreadBurstArrive e.id b bytes) s = .next (s1.queueBurst e b l)) ∧
    (q.length < 64 → e.qid < 64 → ∀ s1 m, s.readGroups e (e.burstGroups b) = (s1, .miss m) →
      exec (.hreadBurstArrive e.id b bytes) s = .next
        (((s1.engineWait e.id m).onEntry e.id fun e => { e with held := b :: e.held }).fetchNext e.id)) ∧
    (q.length < 64 → 64 ≤ e.qid → exec (.hreadBurstArrive e.id b bytes) s = .next (s.queueBurst e b
      (((e.burstGroups b).zipIdx).flatMap fun p => padGroup (e.groupAt p.1).2.2 ((bytes.drop (16 * p.2)).take 16)))) ∧
    (∀ st reason, exec (.hreadBurstFetchFail e.id b st reason true) s = .next (s.burstFailed e.id b st reason)) ∧
    (∀ reason, e.retries < 3 → 64 ≤ e.qid → s.heldUnit e.unit = false →
      exec (.hreadBurstFetchFail e.id b stMemError reason false) s = .next (State.askBurst
        ((s.onEntry e.id fun e => { e with retries := e.retries + 1 }).onEntry e.id fun e => { e with
          asked := e.asked.filter (· != b) }) e b))) ∧
  (∀ (s : State) (e : Entry) core q b u l h, s.dripsOn core q < 2 → s.oldestBurst core = some (b, e) → s.unit e.unit = some u →
    s.launch e.world u.launch = some l → l.desc.handlers[e.word 9 / 2 ^ 28 % 16]? = some h →
    exec (.dripBirth core q) s = .next ((State.onEntry { s with
      nextId := s.nextId + 1
      bursts := s.bursts.filter fun x => !(x.entry == b.entry && x.burst == b.burst)
      crews := s.crews ++ [dripCrew s.nextId e u h b core q] } e.id fun e => { e with
        born := e.born ++ [b.burst] }).refetch core)) ∧
  (∀ (s : State) (core q : Nat), 2 ≤ s.dripsOn core q → exec (.dripBirth core q) s = .next s) ∧
  (∀ (s : State) (e : Entry) rank, s.entry e.id = some e → (e.cmd = .a2av ∨ e.cmd = .areduce ∨ e.cmd = .gang) →
    e.phase ≠ .queued → e.phase ≠ .saved → e.fin = none → exec (.groupWithdrawal e.id rank) s =
      .next (((s.dropGangs e).dropWaiter (.engine e.id)).finishEntry e.id stCancelled (0x80000000 + rank) 0 0 0)) ∧
  ∀ (s : State) (e : Entry) s1 tok map, Running s e .xsort →
    let k := e.word 8 / 2 ^ 28
    let t := e.word 8 % 2 ^ 17
    let n := e.word 9 % 2 ^ 11
    let a := fun (i j : Nat) => e.addr (bitN (e.word 14) j) i
    s.readAll e [(bitN (e.word 14) 0, a 4 0, 2 * t * k), (bitN (e.word 14) 2, a 6 2, 2 * n)] = (s1, .ok [tok, map]) →
    let nd := e.word 10 % 2 ^ 13
    (∀ i, routerSort t k n nd (e.word 11) tok map = .error i →
      exec (.xsortComplete e.id) s = .next (s1.finishEntry e.id stDataError i 0 0 0)) ∧
    ∀ perm counts offs dbytes l s2 r, routerSort t k n nd (e.word 11) tok map = .ok (perm, counts, offs, dbytes, l) →
      s1.writeAll e (((xsortParts t k n nd).zip [perm, counts, offs, dbytes]).map fun p =>
        (bitN (e.word 14) 4, a 12 4 + p.1.1, a 12 4 + p.1.1, p.2)) = (s2, .ok r) →
      exec (.xsortComplete e.id) s = .next (s2.finishEntry e.id stDone 0 l 0 0)

/-- R277 to R281, R283 to R285, R408: an instance of a group collective begins when its group is whole and its ranks agree,
and each rank sends what is its own; the counts of an exchange are checked, RMETA is written and each rank's data sent with
its offset; a part is placed once and PEERDONE rises; a reduction writes its elements in order of the ranks; an instance
whose group has changed ends MISMATCH. A request to a window is refused by existence, range and permission, in this order,
and otherwise placed or read; a device that saves refuses one that writes BUSY. A put, a get, an atomic or a flush completes
at its sender with its record, a flush once its earlier puts are placed, TIMEOUT where one of them met transport failure (the
model's choice, log entry 24). -/
def Obligations.ExchangeSteps : Prop :=
  (∀ (s : State) (e : Entry) g rs me kinds counts noinnets path fallback, Running s e e.cmd → e.progress = [] →
    e.cmd = .a2av ∨ e.cmd = .areduce ∨ e.cmd = .gang → s.groupOf e.world e.group = some (g, rs, me) →
    let begins := exec (.groupInstanceBegin e.id kinds counts noinnets path fallback) s
    let agree := fun (own : Nat) (l : List Nat) => ∀ r, r < rs.length → r ≠ me → l.getD r own = own
    let go := fun (z : State) => z.onEntry e.id fun e => { e with progress := [1] }
    (s.groupChanged e = true → begins = .next (s.finishEntry e.id stMismatch 3 0 0 0)) ∧
    (s.groupChanged e = false → ∀ i, s.groupBad e.world g rs = some i → begins = .next (s.finishEntry e.id stDataError i 0 0 0)) ∧
    (s.groupChanged e = false → s.groupBad e.world g rs = none →
      (¬agree e.cmd.groupKind kinds → begins = .next (s.finishEntry e.id stMismatch 1 0 0 0)) ∧
      (agree e.cmd.groupKind kinds → e.cmd = .areduce → ¬agree e.countOp counts →
        begins = .next (s.finishEntry e.id stMismatch 2 0 0 0)) ∧
      (agree e.cmd.groupKind kinds → e.cmd = .gang → begins = .next ((go s).gangStarted e me)) ∧
      (agree e.cmd.groupKind kinds → e.cmd = .a2av →
        (rs.length = 1 → begins = .next ((go s).arm (.a2avCountExchange e.id []))) ∧
        ∀ s1 l, rs.length ≠ 1 → s.readMeta e rs.length = (s1, .ok l) → begins = .next ((go s1).toRanks clsRod e
          (leBytes 1 sayCounts ++ leBytes 4 (e.word 3) ++ leBytes 8 (e.gen 10) ++ l))) ∧
      (agree e.cmd.groupKind kinds → e.cmd = .areduce → agree e.countOp counts → me ≠ 0 → rs.length ≠ 1 →
        ∀ s1 l, s.cmdRead e (e.gen 4) (e.gen 4) (4 * e.word 8) = (s1, .ok l) → begins = .next ((s1.onEntry e.id fun e => { e with
          progress := [1]
          path
          leases := if path = 1 then s1.leasesOf e.world g else []
          aux := BitVec.ofNat 32 (fallback * 256) }).contribute e g rs me path l)) ∧
      (agree e.cmd.groupKind kinds → e.cmd = .areduce → agree e.countOp counts → me = 0 → ∀ pa fb,
        s.choosePath e.world g (fieldN (e.word 9) 0 4) rs.length
          ((ownIn noinnets 0 (if bitN (e.word 9) 4 then 1 else 0) 0 rs.length).any (· != 0)) = (pa, fb) →
        let chosen := fun (e : Entry) => { e with
          progress := [1]
          path := pa
          aux := BitVec.ofNat 32 (fb * 256) }
        (rs.length = 1 → begins = .next ((s.onEntry e.id chosen).arm (.areduceComplete e.id []))) ∧
        ∀ s1 l, rs.length ≠ 1 → s.cmdRead e (e.gen 4) (e.gen 4) (4 * e.word 8) = (s1, .ok l) →
          begins = .next (((s1.onEntry e.id fun e => { chosen e with
            leases := if pa = 1 then s1.leasesOf e.world g else [] }).toRanks clsRod e
              (leBytes 1 sayPath ++ leBytes 1 pa ++ leBytes 4 fb)).contribute e g rs 0 pa l)))) ∧
  (∀ (s : State) (e : Entry) metas g rs me s1 l, Running s e .a2av → e.progress = [1] →
    s.groupOf e.world e.group = some (g, rs, me) →
    (s.groupChanged e = true → exec (.a2avCountExchange e.id metas) s = .next (s.finishEntry e.id stMismatch 3 0 0 0)) ∧
    (s.groupChanged e = false → s.readMeta e rs.length = (s1, .ok l) →
      let own : SendMeta := ⟨e.word 3, e.gen 10, (entriesOf 16 l).map fun x => (nat64At x 0, nat64At x 2)⟩
      let ms := ownIn (metas.map SendMeta.of) me own ⟨0, 0, []⟩ rs.length
      let got := received ms me
      (∀ st f, countVerdict ms = some (st, f) →
        exec (.a2avCountExchange e.id metas) s = .next (s1.finishEntry e.id st f 0 0 0)) ∧
      ∀ s2 s3 ls r, countVerdict ms = none → s1.readParts e own.parts = (s2, .ok ls) →
        s2.writeAll e [(false, e.gen 12, e.gen 12, got.flatMap fun x => leBytes 8 x.1 ++ leBytes 8 x.2)] = (s3, .ok r) →
        exec (.a2avCountExchange e.id metas) s = .next (
          let sent := (own.parts.map (·.2)).sum
          let t := s3.onEntry e.id fun e => { e with progress := 2 :: sent :: got.flatMap fun x => [x.1, x.2, 0] }
          let t := (ls.zipIdx.filter fun x => x.2 != me && !x.1.isEmpty).foldl
            (fun t x => t.toRank clsRud e (rs.getD x.2 0) (leBytes 1 sayPart ++ leBytes 2 me ++
              leBytes 8 ((received ms x.2).getD me (0, 0)).1 ++ x.1)) t
          (got.zipIdx.filter fun x => x.2 == me || x.1.2 == 0).foldl
            (fun t x => t.arm (.a2avPartPlaced e.id x.2 (if x.2 == me then ls.getD me [] else []))) t))) ∧
  (∀ (s : State) (e : Entry) sender bytes sent ps off s1 s2 l r, Running s e .a2av → e.progress = 2 :: sent :: ps →
    (triplesOf ps)[sender]? = some (off, bytes.length, 0) →
    (s.groupChanged e = true → exec (.a2avPartPlaced e.id sender bytes) s = .next (s.finishEntry e.id stMismatch 3 0 0 0)) ∧
    (s.groupChanged e = false → s.cmdRead e (e.gen 14) (e.gen 14 + 4 * sender) 4 = (s1, .ok l) →
      s1.writeAll e ((if bytes = [] then [] else [(false, e.gen 8, e.gen 8 + off, bytes)]) ++
        [(false, e.gen 14, e.gen 14 + 4 * sender, leBytes 4 ((leNat l + 1) % 2 ^ 32))]) = (s2, .ok r) →
      exec (.a2avPartPlaced e.id sender bytes) s = .next ((s2.onEntry e.id fun e => { e with
        progress := e.progress.set (2 + 3 * sender + 2) 1 }).a2avCheck e.id))) ∧
  (∀ (s : State) (e : Entry) ls g rs me s1 s2 l r, Running s e .areduce → e.progress = [1] →
    s.groupOf e.world e.group = some (g, rs, me) →
    (s.groupChanged e = true → exec (.areduceComplete e.id ls) s = .next (s.finishEntry e.id stMismatch 3 0 0 0)) ∧
    (s.groupChanged e = false → s.cmdRead e (e.gen 4) (e.gen 4) (4 * e.word 8) = (s1, .ok l) →
      let ks := ownIn ls me l [] rs.length
      (∀ k ∈ ks, k.length = 4 * e.word 8) →
      let out := (List.range (e.word 8)).map (areduceElem (fieldN (e.word 9) 0 4) ks)
      s1.writeAll e [(false, e.gen 6, e.gen 6, wordsBytes (out.map (·.1)))] = (s2, .ok r) →
      exec (.areduceComplete e.id ls) s = .next ((s2.passOn e rs me ks).finishEntry e.id stDone 0
        (e.aux.toNat + (orFlags (out.map (·.2))).toNat) (4 * e.word 8) e.path))) ∧
  (∀ (s : State) (e : Entry) metas ls, e.progress = [1] → s.groupOf e.world e.group = none →
    (Running s e .a2av → exec (.a2avCountExchange e.id metas) s = .next (s.finishEntry e.id stMismatch 3 0 0 0)) ∧
    (Running s e .areduce → exec (.areduceComplete e.id ls) s = .next (s.finishEntry e.id stMismatch 3 0 0 0))) ∧
  (∀ (s : State) (q : RmaReq) w base len f, s.world q.world = some w → s.saving = false → q.op ≠ .flush →
    s.windowEntry w q.window = some (base, len, f) → bitN f 4 = false →
    let z := s.touchWindow w q
    let answer := fun (z : State) (l : List Byte) => z.say clsRud (rankPeer (z.jobIn q.world) q.src) 0 0 l
    let refused := fun (x : Nat) => answer z (leBytes 1 stRemoteRefused ++ leBytes 1 x)
    (len < q.roff + rmaBytes q → exec (.rmaRequestReceive q) s = .next (refused rrRange)) ∧
    ∀ parts, q.roff + rmaBytes q ≤ len →
      let used := fun (write : Bool) => parts.foldl (fun (z : State) p => z.useNp write p.1 p.2.2) z
      (∀ l, q.op = .put l → bitN f 1 = false → exec (.rmaRequestReceive q) s = .next (refused rrPerm)) ∧
      (∀ n, q.op = .get n → bitN f 2 = false → exec (.rmaRequestReceive q) s = .next (refused rrPerm)) ∧
      (∀ fn v c, q.op = .atom fn v c → bitN f 3 = false → exec (.rmaRequestReceive q) s = .next (refused rrPerm)) ∧
      (∀ l, q.op = .put l → bitN f 1 = true → z.windowPages q.world .write (base + q.roff) (rmaBytes q) = some parts →
        exec (.rmaRequestReceive q) s = .next (answer
          ((parts.foldl (fun (z : State) p => z.forget (.mem p.1) p.2.2) (used true)).storeParts
            (parts.map fun p => (.mem p.1, .mem p.1, p.2.1, p.2.2)) l) (leBytes 1 stDone ++ leBytes 1 0))) ∧
      ∀ n, q.op = .get n → bitN f 2 = true → z.windowPages q.world .read (base + q.roff) (rmaBytes q) = some parts →
        exec (.rmaRequestReceive q) s = .next (answer (used false) (leBytes 1 stDone ++ leBytes 1 0 ++
          parts.flatMap fun p => z.loadPA p.1 p.2.2))) ∧
  (∀ (s : State) (q : RmaReq) w, s.world q.world = some w →
    let answer := fun (z : State) (l : List Byte) => z.say clsRud (rankPeer (z.jobIn q.world) q.src) 0 0 l
    (s.saving = false → q.op ≠ .flush → s.windowEntry w q.window = none → exec (.rmaRequestReceive q) s =
      .next (answer (s.touchWindow w q) (leBytes 1 stRemoteRefused ++ leBytes 1 rrNoWindow))) ∧
    (s.saving = true → q.op ≠ .flush → (∀ n, q.op ≠ .get n) → exec (.rmaRequestReceive q) s =
      .next (answer s (leBytes 1 stRemoteRefused ++ leBytes 1 rrBusy))) ∧
    (q.op = .flush → exec (.rmaRequestReceive q) s = .next (answer s (leBytes 1 stDone ++ leBytes 1 0)))) ∧
  (∀ (s : State) (e : Entry), Running s e .rput →
    (∀ s1 l, e.progress = [] → s.readAt e e.loc.1 e.loc.2.1 e.loc.2.2 (e.word 8) = (s1, .ok l) → s1.loopback e = false →
      exec (.rputComplete e.id) s = .next (((s1.sendCmd clsRud e 0 l).onEntry e.id fun e => { e with progress := [1] }).arm
        (.rputComplete e.id))) ∧
    (e.progress ≠ [] → exec (.rputComplete e.id) s = .next (s.finishEntry e.id stDone 0 0 e.bytes 0))) ∧
  (∀ (s : State) (e : Entry) l s1 r, Running s e .rget → s.loopback e = false → l.length = e.word 8 →
    s.writeLoc e l = (s1, .ok r) → exec (.rgetComplete e.id l) s = .next (s1.finishEntry e.id stDone 0 0 e.bytes 0)) ∧
  (∀ (s : State) (e : Entry) (old : BitVec 64), Running s e .ratom → s.loopback e = false →
    (e.rv = false → exec (.ratomComplete e.id old) s = .next (s.finishEntry e.id stDone 0 0 e.bytes 0)) ∧
    (e.rv = true → e.loc.1 = true → exec (.ratomComplete e.id old) s =
      .next ((s.writeLoc e (leBytes (atomSize e.afn) old.toNat)).1.finishEntry e.id stDone 0 0 e.bytes 0))) ∧
  ∀ (s : State) (e : Entry), Running s e .rflush → exec (.rflushComplete e.id) s = .next
    (if s.putsUnplaced e true then s.finishEntry e.id stTimeout byTransport 0 0 0
     else if s.putsUnplaced e false then s.arm (.rflushComplete e.id) else s.finishEntry e.id stDone 0 0 0 0)

/-- R289 to R292, R346, R391 to R393: a roost registers once for its sequence, with T1 running and the periods of its
record, 50 and 2,000 where they are 0; a rouse is answered, and starts the ascent; a rank prepares a gang that fits and is
early enough, the issuer, group rank 0 (the model's choice, log entry 24), decides on every answer, a commit enters the launch
and arms its tick, an abort drops it and ends the rank's gang command; the pages of a roost go down a tier when its timers run
out and come up when it is roused. -/
def Obligations.RoostsAndGangs : Prop :=
  (∀ (s : State) (e : Entry), Running s e .roost →
    (s.seq e.group = none → exec (.roostRegistered e.id) s = .next (s.finishEntry e.id stRemoteRefused rrNoRoost 0 0 0)) ∧
    ∀ q, s.seq e.group = some q →
      (∀ r, s.roostOf e.group = some r → exec (.roostRegistered e.id) s = .next (s.finishEntry e.id stRemoteRefused rrBusy 0 0 0)) ∧
      (s.roostOf e.group = none → exec (.roostRegistered e.id) s = .next ((State.arm { s with roosts := s.roosts ++
        [{ id := e.group, world := e.world, st := .resident, state := e.gen 4, slen := e.word 6, tailp := e.word 7 % 2 ^ 6
           cont := e.gen 8, cq := e.word 10 % 2 ^ 6, t1 := if e.word 11 = 0 then 50 else e.word 11
           t2 := if e.word 12 = 0 then 2000 else e.word 12, stateTier := 0, stateHeld := false, stateOut := [] }] }
        (.roostT1Expiry e.group)).finishEntry e.id stDone 0 0 0 0))) ∧
  (∀ (s : State) roost payload sender, s.localRouse roost payload = none →
    let answer := fun (z : State) (st reason : Nat) => z.say clsRouse
      (rankPeer ((z.roostOf roost).elim 0 fun r => z.jobIn r.world) sender) 0 0 (leBytes 1 st ++ leBytes 1 reason)
    (s.saving = true → exec (.rouseArrive roost payload sender) s = .next (answer s stRemoteRefused rrBusy)) ∧
    (s.saving = false → s.roostOf roost = none → exec (.rouseArrive roost payload sender) s =
      .next (answer s stRemoteRefused rrNoRoost)) ∧
    ∀ r, s.saving = false → s.roostOf roost = some r →
      ((r.st = .roused ∨ r.st = .queued) → exec (.rouseArrive roost payload sender) s = .next (answer s stAlreadyRoused 0)) ∧
      (r.st ≠ .roused → r.st ≠ .queued → (s.rouse r payload).localRouse roost payload = none →
        exec (.rouseArrive roost payload sender) s = .next (answer (s.rouse r payload) stDone 0))) ∧
  (∀ (s : State) w ldesc tick queue issuer, s.gangEntry w tick = none →
    let z := s.touchLaunch w ldesc
    (∀ x, s.gangCheck w ldesc tick queue = .error x → exec (.gangPrepare w ldesc tick queue issuer) s =
      .next (z.say clsGang (rankPeer (z.jobIn w) issuer) 0 0 (leBytes 8 tick ++ leBytes 1 x))) ∧
    ∀ d cores, s.gangCheck w ldesc tick queue = .ok (d, cores) → exec (.gangPrepare w ldesc tick queue issuer) s =
      .next (State.say { z with
        nextId := z.nextId + 1
        gangs := z.gangs ++ [⟨z.nextId, w, queue, tick, d, false, cores, 0⟩] }
        clsGang (rankPeer (z.jobIn w) issuer) 0 0 (leBytes 8 tick ++ leBytes 1 0))) ∧
  (∀ (s : State) (e : Entry) reasons, Running s e .gang → e.progress = [1] → s.groupChanged e = true →
    exec (.gangDecision e.id reasons) s = .next (((s.dropGangs e).toRanks clsGang e (leBytes 1 sayAbort ++
      leBytes 8 (e.word 6 + 2 ^ 32 * e.word 7) ++ leBytes 1 0 ++ leBytes 2 0)).finishEntry e.id stMismatch 3 0 0 0)) ∧
  (∀ (s : State) (e : Entry) reasons g rs me, Running s e .gang → e.progress = [1] →
    s.groupOf e.world e.group = some (g, rs, me) →
    let tick := e.word 6 + 2 ^ 32 * e.word 7
    let mine := s.gangFor e.world tick
    let all := ownIn reasons me (if mine.isSome then 0 else if e.aux = 0 then refLate else e.aux.toNat) refLate rs.length
    let say := fun (z : State) (what reason rank : Nat) =>
      z.toRanks clsGang e (leBytes 1 what ++ leBytes 8 tick ++ leBytes 1 reason ++ leBytes 2 rank)
    (s.groupChanged e = false → ∀ x, (∀ k ∈ all, k = 0) → mine = some x → exec (.gangDecision e.id reasons) s =
      .next ((say (s.onEntry e.id fun e => { e with progress := [1, 1] }) sayCommit 0 0).arm (.gangCommit x.id))) ∧
    (s.groupChanged e = false → ∀ rank, rank < all.length → all.getD rank 0 ≠ 0 → (∀ k, k < rank → all.getD k 0 = 0) →
      exec (.gangDecision e.id reasons) s =
        .next ((say (s.dropGangs e) sayAbort (all.getD rank 0) rank).finishEntry e.id stLaunchRefused (all.getD rank 0) 0 rank 0))) ∧
  (∀ (s : State) (g : Gang), s.gangs.find? (·.id == g.id) = some g →
    (g.committed = false →
      let z := s.sampleTime
      let p := State.acceptLaunch { z with nextId := z.nextId + 1 } g.world g.queue g.desc z.plat.devtime.toNat z.nextId
        fun l => { l with
          gang := true
          gangTick := g.tick }
      let t := State.arm { p.2 with gangs := p.2.gangs.map fun (x : Gang) => if x.id == g.id then { x with
        committed := true
        handle := p.1 } else x } (.gangTickDispatch g.id)
      t.gangEntry g.world g.tick = none → exec (.gangCommit g.id) s = .next t) ∧
    (g.committed = true → exec (.gangTickDispatch g.id) s = .next (State.gangDispatch { s with plat := { s.plat with
      devtime := if s.plat.devtime.toNat < g.tick then BitVec.ofNat 64 g.tick else s.plat.devtime } } g))) ∧
  (∀ (s : State) (a : GangAbort),
    let z := { s with gangs := s.gangs.filter fun g => g.world != a.world || g.tick != a.tick || g.committed }
    (s.gangEntry a.world a.tick = none → exec (.gangAbort a) s = .next z) ∧
    ∀ e, s.gangEntry a.world a.tick = some e → exec (.gangAbort a) s = .next
      (if a.reason = 0 then z.finishEntry e.id stMismatch 3 0 0 0 else z.finishEntry e.id stLaunchRefused a.reason 0 a.rank 0)) ∧
  (∀ (s : State) id r, s.roostOf id = some r → s.ckpt.hold = false →
    (r.st = .resident →
      let z := (s.onRoost id fun r => { r with st := .descent1 }).arm (.roostT2Expiry id)
      exec (.roostT1Expiry id) s = .next (if s.cxlTier then z.descend id 1 else z.descentCheck id)) ∧
    (r.st = .low1 → exec (.roostT2Expiry id) s = .next ((s.onRoost id fun r => { r with st := .descent2 }).descend id 2)) ∧
    (r.st = .descent1 → exec (.roostT2Expiry id) s = .next (s.arm (.roostT2Expiry id)))) ∧
  (∀ (s : State) id page ok r,
    let t := s.itemTier id page
    let z := if s.itemKept id page = false then s.itemFreed id page else
      (if t / 10 % 10 ≠ 0 then s else if ok then s.itemLeft id page else s.itemStays id page).setItemTier id page
      (if ok then t / 100 else t / 10 % 10)
    tierKind t = 4 → z.roostOf id = some r →
      exec (.pageDescentDone id page ok) s = .next
        (if r.st = .roused ∨ r.st = .queued then (z.startAscents id).roostReady id else z.descentCheck id)) ∧
  (∀ (s : State) id page, s.itemTier id page = 3 → s.itemKept id page = false →
    exec (.pageAscentDone id page) s = .next (((s.itemFreed id page).startAscents id).roostReady id)) ∧
  ∀ (s : State) id page, s.itemTier id page = 3 → s.itemKept id page = true →
    let job := ((s.itemNames id page).headD (0, 0)).1
    let out := s.itemOut id page
    ((∃ x ∈ out, s.ascendsTo id job x.1 = none) →
      exec (.pageAscentDone id page) s = .next ((s.ascendFrames id page).arm (.pageAscentDone id page))) ∧
    ((∀ x ∈ out, s.ascendsTo id job x.1 ≠ none) →
      let going := (s.roostOf id).any fun r => r.st == .roused || r.st == .queued
      let held := going && s.launches.all fun l => l.roost != some id || l.next == 0
      let z := out.foldl (fun z x => (z.ascendsTo id job x.1).elim z fun i => z.pageIn held i x.2.1 x.2.2) s
      let z := (z.setItemOut id page []).setItemTier id page 0
      let kept := if page = 0 then z.onRoost id fun r => { r with stateHeld := true }
        else z.onSeq id fun q => q.onPage (page - 1) fun p => { p with held := true }
      let y := if held then kept else z
      exec (.pageAscentDone id page) s = .next (if going then (y.startAscents id).roostReady id else y))

/-- R329 to R347: a write of TAIL submits entries or sets ERR with QUEUE_FULL; the head entry of a queue is taken when
nothing of the queue is live; CTRL resumes, cancels and closes the job; a saved unit is claimed or its slots freed by its
first image's address; a launch that waits rises in priority to 8, the dispatcher places the next block of the launch it
chooses, and the scores of a core halve; for a launch that finds no place at priority 8, PREEMPT is asked of the blocks that
make room, in the order of R344, and their space is kept; a crew held by the throttle changes places with the lowest one
allowed, and its turn ends again. What becomes of a stopped phase's undispatched levels is the model's choice (log entry 24). -/
def Obligations.Scheduling : Prop :=
  (∀ (s : State) w wn q tail, s.world wn = some w →
    let k := w.kickPage q
    ((tail - k.head).toNat ≤ 2 ^ k.logDepth → exec (.kick wn q tail) s =
      .next ((s.noteKick wn q tail).arm (.queueEntryTake wn q))) ∧
    (2 ^ k.logDepth < (tail - k.head).toNat → exec (.kick wn q tail) s = .next (s.onKick wn q fun k => { k with
      err := true
      code := refFull }))) ∧
  (∀ (s : State) w wn q, s.world wn = some w →
    let k := w.kickPage q
    k.enable = true → k.head ≠ k.tail → k.live = 0 → w.ctl.jobEnded = false →
    (∀ h, Event.kernelBoundary wn h ∈ s.agenda → let n := BitVec.ofNat 32 h
      (∀ l, s.launch wn n = some l → l.graph ≠ 0 ∨ l.queue ≠ q) ∧
      ∀ g, s.launch wn n = none → s.graph wn n = some g → g.queue ≠ q) →
    ((∀ h ∈ k.heldEntries, h.1 ≠ k.head) → exec (.queueEntryTake wn q) s = .next (s.takeKicked wn q k)) ∧
    ∀ x h, k.heldEntries.find? (·.1 == k.head) = some (x, h) → exec (.queueEntryTake wn q) s = .next (s.takeHeld wn q k h)) ∧
  (∀ (s : State) w wn, s.world wn = some w → w.ctl.jobHeld = true → exec (.ctrlResume wn) s =
    .next (State.phaseCheck (State.stopPhase (State.wakeDispatch (s.onWorld wn fun w => { w with ctl := w.ctl.nextPhase })) wn) wn)) ∧
  (∀ (s : State) wn, exec (.ctrlCancel wn) s = .next (s.cancelJob wn)) ∧
  (∀ (s : State) wn, exec (.ctrlClose wn) s =
    .next ((s.onWorld wn fun w => { w with ctl := { w.ctl with jobEnded := true } }).phaseCheck wn)) ∧
  (∀ (s : State) w wn, s.world wn = some w →
    (∀ l v, s.savedAt wn w.ctl.claimimg.toNat false = some (l, v) → exec (.claimUnit wn) s =
      .next (State.unitFinished ((s.claimStat wn 0).onLaunch wn l.handle fun l => { l with
        moved := l.moved + 1
        saved := l.saved.map fun y => if y.block = v.block then { y with claimed := true } else y }) wn l.handle)) ∧
    (s.savedAt wn w.ctl.claimimg.toNat false = none → exec (.claimUnit wn) s = .next (s.claimStat wn 1)) ∧
    (∀ l v, s.savedAt wn w.ctl.claimimg.toNat true = some (l, v) → exec (.claimFree wn) s = .next (State.onLaunch
      (State.dropSaved (v.images.foldl (fun s a => s.freeSlot wn a) (s.claimStat wn 0)) v) wn l.handle fun l => { l with
        saved := l.saved.filter fun y => !(y.claimed && y.block == v.block) })) ∧
    (s.savedAt wn w.ctl.claimimg.toNat true = none → exec (.claimFree wn) s = .next (s.claimStat wn 2))) ∧
  (∀ (s : State) (l : Launch), s.launches.find? (·.order == l.order) = some l → s.ready l = true → l.eff < 8 →
    (l.state = .queued ∨ l.state = .running) → exec (.priorityRise l.order) s = .next (State.wakeDispatch (State.arm
      (State.onLaunch { s with nextId := s.nextId + 1 } l.world l.handle fun x => { x with
        eff := x.eff + 1
        at8 := if x.eff = 7 then s.nextId else x.at8 })
      (if l.eff = 7 then .starvationPreempt l.world else .priorityRise l.order)))) ∧
  (∀ (s : State) die (l : Launch) cores, s.chosen die = some l → (∀ v ∈ l.saved, v.claimed = true) →
    s.placeOn l.desc l.world l.handle die = some cores →
    exec (.dispatchUnit die) s = .next ((s.placeUnit l l.next cores).arm (.dispatchUnit die))) ∧
  (∀ (s : State) die (l : Launch), s.chosen die = some l → l ∈ s.launches ∧ s.ready l = true ∧ s.placeable l die = true ∧
    ∀ x ∈ s.launches, s.ready x = true → s.placeable x die = true → x.eff ≤ l.eff) ∧
  (∀ (s : State) wn (l : Launch), pickBy Launch.before (s.launches.filter fun l => l.world == wn && l.eff == 8 && s.ready l) = some l →
    let z := s.arm (.starvationPreempt wn)
    let t := z.sampleTime
    let keeps := s.reserved.any fun r => r.world == wn && r.launch == l.handle
    ((s.fits l = true ∨ keeps = true) → exec (.starvationPreempt wn) s = .next z) ∧
    (s.fits l = false → keeps = false → t.gather l (t.victims l false ++ t.victims l true) [] = none →
      exec (.starvationPreempt wn) s = .next t) ∧
    ∀ vs, s.fits l = false → keeps = false → t.gather l (t.victims l false ++ t.victims l true) [] = some vs →
      exec (.starvationPreempt wn) s = .next ((t.perLaunch vs).foldl (fun y g => y.requestSet g 2 100) { t with
        reserved := t.reserved ++ vs.filterMap fun v => (t.launch v.world v.launch).map fun x =>
          ⟨wn, l.handle, v.uid, v.cores, x.desc⟩ })) ∧
  (∀ (s : State) (l : Launch) fresh,
    (∀ u, u ∈ s.victims l fresh ↔ u ∈ s.units ∧ u.world = l.world ∧ u.launch ≠ l.handle ∧ u.victim = 0 ∧ u.lastExit = false ∧
      decide (s.plat.devtime.toNat < u.since + 1000000) = fresh ∧ (∀ c ∈ s.crewsOf u.uid, c.halt = .running) ∧
      ∃ x, s.launch u.world u.launch = some x ∧ (x.gang = false ∨ x.eff ≠ 9)) ∧
    ((∀ x ∈ s.launches, ∀ y ∈ s.launches, x.order = y.order → x.sub = y.sub) → (s.victims l fresh).Pairwise fun a b =>
      ∀ x y, s.launch a.world a.launch = some x → s.launch b.world b.launch = some y →
        x.prio ≤ y.prio ∧ (x.prio = y.prio → y.sub ≤ x.sub ∧ (y.sub = x.sub → y.order ≤ x.order ∧
          (y.order = x.order → b.block ≤ a.block)))) ∧
    (∀ l' taken, s.gather l' [] taken = none) ∧
    ∀ v rest taken, let all := s.closure (taken ++ [v])
      let may := (s.crewsOfSet all).length ≤ s.slotsLeft l.world ∧ (∀ c ∈ s.crewsOfSet all, c.course ≠ .resuming) ∧
        ∀ u ∈ all, u.launch ≠ l.handle ∧ u.victim = 0 ∧ u.lastExit = false ∧ ∀ c ∈ s.crewsOf u.uid, c.halt = .running
      s.gather l (v :: rest) taken = if ¬may then s.gather l rest taken
        else if (s.without all).fits l then some all else s.gather l rest all) ∧
  (∀ (s : State) (g : List BUnit) reason grace c, s.crew c.uid = some c → c.drip = none → (∃ u ∈ g, u.uid = c.unit) →
    let t := s.requestSet g reason grace
    .preemptGraceExpiry c.uid ∈ t.agenda ∧ .asyncTrapEntry c.uid ∈ t.agenda ∧
    ∃ c', t.crew c.uid = some c' ∧ c'.course = .requested ∧ c'.preReason = reason ∧
      (c.asyncQ.length < 16 → ∃ a ∈ c'.asyncQ, a.trap.cause = .preempt ∧ a.trap.reason = reason)) ∧
  (∀ (s : State) core, ∃ z, exec (.localityScoreHalve core) s = .next (State.throttle { s with scores := z } core) ∧
    ∀ uid n, (uid, n) ∈ z ↔ ∃ m, (uid, m) ∈ s.scores ∧
      if ∃ c ∈ s.crews, c.core = core ∧ c.uid = uid then n = m / 2 ∧ n ≠ 0 else n = m) ∧
  (∀ (s : State) c, s.crew c.uid = some c →
    (c.uid ∈ s.swapped → exec (.throttleSwap c.uid) s =
      .next (State.throttle { s with swapped := s.swapped.filter (· != c.uid) } c.core)) ∧
    ∀ low, c.uid ∉ s.swapped → c.uid ∈ s.throttled →
      ((s.ranked c.core).filter fun x => !s.throttled.contains x.uid).getLast? = some low → exec (.throttleSwap c.uid) s =
        .next ((State.throttle { s with swapped := s.swapped.filter (· != low.uid) ++ [c.uid] } c.core).arm (.throttleSwap c.uid))) ∧
  ∀ (s : State) w wn, s.world wn = some w → w.ctl.jobEnded = true → s.worldBusy wn = false → exec (.jobOpen wn) s =
    .next ((s.onWorld wn fun w => { w with ctl := { w.ctl with
      phase := 0
      pstate := .running
      pcount := 0
      jstate := .running
      jcount := 0
      jobHeld := false
      jobEnded := false
      jobBad := false
      marks := 0
      phaseBad := false
      later := [] } }).wakeTakers wn)

/-- R38, R352, R355, R361, R363, R374 to R377, R380 to R387, R395, R437: invalidations queue to sixteen and complete in
order; a parked sub-group posts its entry and joins the service of its page; a service goes from lookup to fill, backs off
and retries three times, then declines; data of 64 KiB installs, an error of the home declines; ownership of a Clean frame of
the same version makes it Owned-Dirty; an Evicting frame becomes Invalid; AGE counts to 255; a stream prefetches ahead of
its counter. How an operand names the place of an uncorrectable error is the model's choice (log entry 24). -/
def Obligations.FramesAndServices : Prop :=
  (∀ (s : State) w wn, s.world wn = some w → exec (.invalidationRequest wn) s =
    .next (if w.trans.queue.length < 16 then (s.onWorld wn fun w => { w with trans := { w.trans with
        ireqcnt := w.trans.ireqcnt + 1
        queue := w.trans.queue ++ [(w.trans.iva, w.trans.ilen.toNat)] } }).arm (.invalidationComplete wn)
      else s.arm (.invalidationRequest wn))) ∧
  (∀ (s : State) w wn start len r, s.world wn = some w → w.trans.queue = (start, len) :: r →
    let t := (s.finishWorld wn).onWorld wn fun w => { w.dropRange start (len * pageBytes) with
      trans := { w.trans with
        queue := r
        idone := w.trans.idone + 1 } }
    exec (.invalidationComplete wn) s = .next (if r = [] then t else t.arm (.invalidationComplete wn))) ∧
  (∀ (s : State) g s1 i fseq, s.groups.find? (·.id == g.id) = some g → g.fault = none → s.ckpt.stuck = false → s1.ckpt = s.ckpt →
    s.postFault (dieOf g.core) g.world { FqEntry.init with
      job := g.job
      page := g.page
      pc := g.pc
      nthr := g.lanes.length
      core := g.core
      quarter := g.quarter
      slot := s.parkSlot g.core g.quarter
      kind := if g.drip then 2 else 1
      write := g.write } = (s1, some (i, fseq)) →
    exec (.faultEntryPostHeld g.id) s = .next (State.joinService { s1 with groups := s1.groups.map fun (x : Group) =>
      if x.id == g.id then { x with fault := some (dieOf g.core, i) } else x } g.world g.job g.page g.write fseq (.group g.id))) ∧
  (∀ (s : State) v, s.service v.id = some v →
    (∀ i bytes ver, v.isOpen = true → v.frame = some i → bytes.length = pageBytes → (s.frame i).st = .filling →
      exec (.fillDataReceive v.id bytes false ver) s =
        .next ((s.onService v.id fun v => { v with upgrade := false }).install v.id i bytes ver)) ∧
    (∀ bytes ver, v.isOpen = true → exec (.fillDataReceive v.id bytes true ver) s = .next (s.declineService v.id 5)) ∧
    (∀ i, v.frame = some i → v.hold = true → exec (.postFillHoldExpiry v.id) s =
      .next ((s.onService v.id fun v => { v with hold := false }).unrefFrame i)) ∧
    (∀ st, v.isOpen = true → exec (.lookupAckReceive v.id true st) s = .next (s.declineService v.id 4)) ∧
    (∀ st, v.phase = .fill → exec (.lookupAckReceive v.id false st) s =
      .next (s.onService v.id fun v => { v with storage := st })) ∧
    (∀ st, v.phase = .lookup → let z := s.fillPhase v st
      (∀ e, z.dirEnt v.job v.page = some e → exec (.lookupAckReceive v.id false st) s = .next z) ∧
      (z.dirEnt v.job v.page = none → exec (.lookupAckReceive v.id false st) s = .next (
        let t := { z with freeCtr := z.freeCtr + 1 }
        let home := (if st then 3 else (Config.homeTold z.freeCtr).1, (Config.homeTold z.freeCtr).2)
        if v.write = true ∨ home.1 = 0 then t
        else (t.onService v.id fun v => { v with home := some home }).askHome v home))) ∧
    (v.isOpen = true → exec (.heldReceive v.id) s = .next ((s.onService v.id fun v => { v with held := true }).disarm fun e =>
      e == .attemptTimeout v.id false)) ∧
    (∀ p, v.held = false → (v.phase = .lookup ∨ v.phase = .fill) →
      let t := (s.stopAttempt v.id).onService v.id fun v => { v with attempts := v.attempts + 1 }
      (v.attempts < 3 → exec (.attemptTimeout v.id p) s = .next ((t.onService v.id fun x => { x with
        phase := .backoff
        resume := v.phase }).arm (.backoffExpiry v.id))) ∧
      (3 ≤ v.attempts → exec (.attemptTimeout v.id p) s = .next (t.declineService v.id (v.timeoutCode (p || v.pinDeferred))))) ∧
    (v.phase = .backoff → exec (.backoffExpiry v.id) s =
      .next ((s.onService v.id fun x => { x with phase := v.resume }).fetch v.id)) ∧
    ∀ i ver, v.isOpen = true → v.upgrade = true → v.frame = some i → (s.frame i).st = .clean →
      (s.ownedOf v.job v.page).ver = ver → exec (.grantReceive v.id ver) s =
        .next (State.runWake (State.onService (State.stopAttempt (State.arm ((s.onFrame i fun f => { f with
          st := .ownedDirty
          wr := true }).onOwned v.job v.page fun o => { o with
            ver
            tenure := true }) (.tenureEnd v.job v.page)) v.id) v.id fun x => { x with
              phase := .installed
              upgrade := false
              held := false
              attempts := 0 }) v.id)) ∧
  (∀ (s : State) id, exec (.waiterRunWake id) s = .next (s.runWake id) ∧ exec (.victimRetry id) s = .next (s.takeWay id)) ∧
  (∀ (s : State) i, (s.frame i).st = .evicting →
    let f := s.frame i
    (s.ownedOf f.job f.page).pinWait = false → exec (.evictionComplete i) s = .next (State.refill
      (((s.recallLines (s.framePA i)).onFrame i fun f => { f with
        job := 0
        page := 0
        refcnt := 0
        wr := false
        st := .invalid }).onOwned f.job f.page fun _ => Owned.new f.job f.page) i f.job f.page)) ∧
  (∀ (s : State) job page i f, s.frameOf job page = some (i, f) → f.st = .evicting →
    let t := (s.onOwned job page fun o => { o with wbuf := none }).arm (.evictionComplete i)
    exec (.wbackReceive job page) s = .next t ∧ exec (.staleReceive job page) s = .next t) ∧
  (∀ (s : State) pa n, pa < 2 ^ 48 →
    exec (.uncorrectableMemoryError pa n) s = .next ((s.poisonAt pa n).send (.firmware 2 pa)) ∧
    ∀ owner, let priv := (2 * owner + 1) * 2 ^ 48 + pa
      let spad := (2 * owner + 2) * 2 ^ 48 + pa
      exec (.uncorrectableMemoryError priv n) s = .next ((s.onCrew owner fun c => c.poisonPriv pa n).send (.firmware 2 priv)) ∧
      exec (.uncorrectableMemoryError spad n) s = .next ((State.onUnit { s with freeCtr := s.freeCtr + 1 } owner fun u =>
        u.breakSpad pa n s.freeCtr).send (.firmware 2 spad))) ∧
  (∀ (s : State) touched, exec (.frameAging touched) s = .next { s with
    touched := []
    frames := s.frames.foldl (fun t p => tabPut t Frame.init p.1
      { p.2 with age := if p.1 ∈ touched ∨ p.1 ∈ s.touched then 0 else min 255 (p.2.age + 1) }) s.frames }) ∧
  ∀ (s : State) w wn k b ex, s.world wn = some w →
    let x := w.stream k
    let t := ((s.devTouch wn x.ctr 4).devTouch wn x.extlist (16 * x.nextCnt)).arm (.prefetchTick wn k)
    x.ahead ≠ 0 → t.devRead wn x.ctr 4 = some b → t.extents wn x = some ex →
    let c := leNat b
    let names := ((List.range x.ahead).filterMap fun k => extentPage ex (c + k)).filter (·.1 == w.job)
    (∀ n ∈ names, ∀ v, t.serviceOf n.1 n.2 = some v → v.phase ≠ .declined) → exec (.prefetchTick wn k) s =
      .next (names.foldl (fun s n => s.prefetchPage wn k n.1 n.2) (t.onStream wn k fun x => { x with
        last := c
        pfstat := if extentPage ex c = none then 1 else 0 }))

/-- R364 to R368: the home of a line with no other request serves one that arrives in its turn, and others wait. A read of a
line that no agent holds gives it E, one that others share gives S, one that an agent owns is forwarded; an exclusive read
or an upgrade invalidates every other holder; a write-back of the owner goes to memory, any other is stale; a dropped E line
is free, and its drop acknowledged. Answers are counted, and the last brings an upgrade its Grant. An agent answers a snoop from its state, a forward
with data to the requester, defers a forward while it awaits data, takes data and Grants into the state they give, and drops
a line with a write-back where it owns it. A message that another on its channel precedes waits. -/
def Obligations.HomeDirectory : Prop :=
  (∀ (s : State) line a, ∀ p ∈ [(Instr.homeRds line a, Event.homeRds line a), (.homeRdx line a, .homeRdx line a),
      (.homeUpg line a, .homeUpg line a), (.homeWb line a, .homeWb line a), (.homeEve line a, .homeEve line a),
      (.homeAckReceive line a, .homeAckReceive line a), (.homeMemoryWriteDone line, .homeMemoryWriteDone line),
      (.agentFwds line a, .agentFwds line a), (.agentFwdx line a, .agentFwdx line a), (.agentInv line a, .agentInv line a),
      (.agentGrantReceive line a, .agentGrantReceive line a), (.agentWbackReceive line a, .agentWbackReceive line a),
      (.agentWbstaleReceive line a, .agentWbstaleReceive line a)],
    s.net.inTurn p.2 = false → exec p.1 s = .next (s.arm p.2)) ∧
  (∀ (s : State) (l : Line) a, l.reqs = [] → lineOk l.addr a = true → l.agent a = .i →
    let read := fun (i : Instr) (e : Event) (st : AgentSt) (home : HomeSt) (ms : List (Nat × Snoop)) => ArrivesAt s e l →
      ∃ t, exec i s = .next t ∧ LineTo s t e l.addr { l with
        agents := tabPut l.agents .i a st
        home
        snoops := l.snoops ++ ms } (ms.map fun m => m.2.event l.addr m.1)
    let rds := read (.homeRds l.addr a) (.homeRds l.addr a) .is
    let rdx := read (.homeRdx l.addr a) (.homeRdx l.addr a) .im
    (l.home = .hi → rds (.hx a) [(a, .dataE)] ∧ rdx (.hx a) [(a, .dataM)]) ∧
    (∀ set, l.home = .hs set → rds (.hs (addAgent a set)) [(a, .dataS)] ∧
      let left := set.filter (· != a)
      (left = [] → rdx (.hx a) [(a, .dataM)]) ∧
      (left ≠ [] → rdx (.busyX a left false) ((a, .dataM) :: left.map fun b => (b, .inv)))) ∧
    (∀ o, l.home = .hx o → o ≠ a → rds (.busyF o a []) [(o, .fwdS)] ∧ rdx (.busyX a [o] false) [(o, .fwdX)]) ∧
    ∀ o set, l.home = .ho o set → o ≠ a → rds (.busyF o a set) [(o, .fwdS)] ∧
      let left := set.filter fun b => b != a && b != o
      rdx (.busyX a (o :: left) false) ((o, .fwdX) :: left.map fun b => (b, .inv))) ∧
  (∀ (s : State) (l : Line) a, lineOk l.addr a = true → l.agent a = .i → l.home.busy = true →
    let waits := fun (i : Instr) (e : Event) (st : AgentSt) (r : Req) => ArrivesAt s e l → (r, a) ∉ l.reqs →
      ∃ t, exec i s = .next t ∧ LineTo s t e l.addr { l with
        agents := tabPut l.agents .i a st
        reqs := l.reqs ++ [(r, a)] } []
    waits (.homeRds l.addr a) (.homeRds l.addr a) .is .rds ∧ waits (.homeRdx l.addr a) (.homeRdx l.addr a) .im .rdx) ∧
  (∀ (s : State) (l : Line) a set, ArrivesAt s (.homeUpg l.addr a) l → l.reqs = [] → lineOk l.addr a = true → a ≠ npAgent →
    let grants := fun (agents : Tab AgentSt) (left : List Nat) =>
      let ms := if left = [] then [(a, Snoop.grant)] else left.map fun b => (b, Snoop.inv)
      ∃ t, exec (.homeUpg l.addr a) s = .next t ∧ LineTo s t (.homeUpg l.addr a) l.addr { l with
        agents
        home := if left = [] then .hx a else .busyX a left true
        snoops := l.snoops ++ ms } (ms.map fun m => m.2.event l.addr m.1)
    (l.agent a = .s → l.home = .hs set → a ∈ set → grants (tabPut l.agents .i a .sm) (set.filter (· != a))) ∧
    (∀ o, l.agent a = .s → l.home = .ho o set → a ∈ set → grants (tabPut l.agents .i a .sm) ((o :: set).filter (· != a))) ∧
    (l.agent a = .o → l.home = .ho a set → grants l.agents (set.filter (· != a)))) ∧
  (∀ (s : State) (l : Line) a, ArrivesAt s (.homeWb l.addr a) l → l.reqs = [] → lineOk l.addr a = true →
    (l.agent a = .mi ∨ l.agent a = .oi ∨ l.agent a = .ii) →
    let becomes := fun (m : Line) (out : List Event) => ∃ t, exec (.homeWb l.addr a) s = .next t ∧
      LineTo s t (.homeWb l.addr a) l.addr m out
    (l.home = .hx a → becomes { l with home := .busyWb a [] } [.homeMemoryWriteDone l.addr]) ∧
    (∀ set, l.home = .ho a set → becomes { l with home := .busyWb a set } [.homeMemoryWriteDone l.addr]) ∧
    (∀ o, l.home = .hx o → o ≠ a → becomes { l with snoops := l.snoops ++ [(a, .wbstale)] } [.agentWbstaleReceive l.addr a])) ∧
  (∀ (s : State) (l : Line) a, ArrivesAt s (.homeEve l.addr a) l → l.reqs = [(.eve, a)] → lineOk l.addr a = true →
    let becomes := fun (home : HomeSt) => ∃ t, exec (.homeEve l.addr a) s = .next t ∧ LineTo s t (.homeEve l.addr a) l.addr { l with
      reqs := []
      home
      snoops := l.snoops ++ [(a, .ack)] } [.agentWbackReceive l.addr a]
    (l.home = .hx a → becomes .hi) ∧ (l.home.busy = false → l.home ≠ .hx a → becomes l.home)) ∧
  (∀ (s : State) (l : Line) a, ArrivesAt s (.homeAckReceive l.addr a) l → l.reqs = [] → a ∈ l.acks →
    let becomes := fun (home : HomeSt) (ms : List (Nat × Snoop)) => ∃ t, exec (.homeAckReceive l.addr a) s = .next t ∧
      LineTo s t (.homeAckReceive l.addr a) l.addr { l with
        acks := l.acks.filter (· != a)
        home
        snoops := l.snoops ++ ms } (ms.map fun m => m.2.event l.addr m.1)
    (∀ r left grant, l.home = .busyX r left grant → a ∈ left →
      let rest := left.filter (· != a)
      (rest = [] → becomes (.hx r) (if grant then [(r, .grant)] else [])) ∧ (rest ≠ [] → becomes (.busyX r rest grant) [])) ∧
    ∀ r set, l.home = .busyF a r set →
      ((l.agent a = .o ∨ l.agent a = .mi ∨ l.agent a = .oi) → becomes (.ho a (addAgent r set)) []) ∧
      (l.agent a = .s → set = [] → becomes (.hs (addAgent r [a])) [])) ∧
  (∀ (s : State) (l : Line) a set, ArrivesAt s (.homeMemoryWriteDone l.addr) l → l.reqs = [] → l.home = .busyWb a set →
    ∃ t, exec (.homeMemoryWriteDone l.addr) s = .next t ∧ LineTo s t (.homeMemoryWriteDone l.addr) l.addr { l with
      home := if set = [] then .hi else .hs set
      snoops := l.snoops ++ [(a, .wback)] } [.agentWbackReceive l.addr a]) ∧
  (∀ (s : State) (l m : Line) a (x : Snoop) (i : Instr) (e : Event), ArrivesAt s e l → l.took a (· == x) = some (x, m) →
    (x = .fwdS ∧ i = .agentFwds l.addr a ∧ e = .agentFwds l.addr a ∨ x = .fwdX ∧ i = .agentFwdx l.addr a ∧ e = .agentFwdx l.addr a ∨
      x = .inv ∧ i = .agentInv l.addr a ∧ e = .agentInv l.addr a) →
    (((m.agent a = .is ∨ m.agent a = .im) ∧ x ≠ .inv ∨ a = npAgent ∧ (m.agent a = .s ∨ m.agent a = .e ∨ m.agent a = .m)) →
      ∃ t, exec i s = .next t ∧ LineTo s t e l.addr { m with deferred := m.deferred ++ [(a, x)] } []) ∧
    ∀ st, a ≠ npAgent → (.upg, a) ∉ m.reqs →
      (x = .fwdS ∧ (m.agent a = .m ∧ st = .o ∨ m.agent a = .e ∧ st = .s ∨ m.agent a = .o ∧ st = .o ∨ m.agent a = .mi ∧ st = .mi ∨
          m.agent a = .oi ∧ st = .oi) ∨
        x ≠ .fwdS ∧ ((m.agent a = .m ∨ m.agent a = .o ∨ m.agent a = .e ∨ m.agent a = .s ∨ m.agent a = .i) ∧ st = .i ∨
          (m.agent a = .mi ∨ m.agent a = .oi) ∧ st = .ii) ∨
        x = .inv ∧ (m.agent a = .sm ∧ st = .im ∨ m.agent a = .is ∧ st = .is)) →
      let ms := match x.data, m.requester with
        | some d, some r => [(r, d)]
        | _, _ => []
      ∃ t, exec i s = .next t ∧ LineTo s t e l.addr { m with
        agents := tabPut m.agents .i a st
        acks := addAgent a m.acks
        snoops := m.snoops ++ ms } ((ms.map fun m => m.2.event l.addr m.1) ++ [.homeAckReceive l.addr a])) ∧
  (∀ (s : State) (l m : Line) a (x : Snoop), a ≠ npAgent →
    let becomes := fun (i : Instr) (e : Event) (st : AgentSt) => ArrivesAt s e l → (∀ d ∈ m.deferred, d.1 ≠ a) →
      ∃ t, exec i s = .next t ∧ LineTo s t e l.addr { m with agents := tabPut m.agents .i a st } []
    let data := becomes (.agentDataReceive l.addr a) (.agentDataReceive l.addr a)
    (l.took a Snoop.isData = some (x, m) → (x = .dataS → data .s) ∧ (x = .dataE → data .e) ∧ (x = .dataM → data .m)) ∧
    (l.took a Snoop.isData = some (.dataM, m) → ∀ r left grant, m.home = .busyX r left grant → m.deferred = [(a, .fwdX)] →
      (.upg, a) ∉ m.reqs → ArrivesAt s (.agentDataReceive l.addr a) l →
      ∃ t, exec (.agentDataReceive l.addr a) s = .next t ∧ LineTo s t (.agentDataReceive l.addr a) l.addr { m with
        agents := tabPut (tabPut m.agents .i a .m) .i a .i
        deferred := []
        acks := addAgent a m.acks
        snoops := m.snoops ++ [(r, .dataM)] } [.agentDataReceive l.addr r, .homeAckReceive l.addr a]) ∧
    (l.took a (· == .grant) = some (x, m) → becomes (.agentGrantReceive l.addr a) (.agentGrantReceive l.addr a) .m) ∧
    (l.took a (fun y => y == .wback || y == .ack) = some (x, m) →
      becomes (.agentWbackReceive l.addr a) (.agentWbackReceive l.addr a) (if x = .ack then m.agent a else .i)) ∧
    (l.took a (· == .wbstale) = some (x, m) → becomes (.agentWbstaleReceive l.addr a) (.agentWbstaleReceive l.addr a) .i)) ∧
  ∀ (s : State) (l : Line) a, ArrivesAt s (.agentLineDrop l.addr a) l → lineOk l.addr a = true → (.upg, a) ∉ l.reqs →
    (∀ d ∈ l.deferred, d.1 ≠ a) →
    let drops := fun (st : AgentSt) (reqs : List (Req × Nat)) (out : List Event) => ∃ t, exec (.agentLineDrop l.addr a) s = .next t ∧
      LineTo s t (.agentLineDrop l.addr a) l.addr { l with
        agents := tabPut l.agents .i a st
        reqs } out
    (l.agent a = .s → drops .i l.reqs []) ∧ (l.agent a = .e → drops .i (l.reqs ++ [(.eve, a)]) [.homeEve l.addr a]) ∧
    (l.agent a = .m → drops .mi l.reqs [.homeWb l.addr a]) ∧ (l.agent a = .o → drops .oi l.reqs [.homeWb l.addr a])

/-- R378 to R382, R442: a request for a name that the shard does not hold is answered NO_HOME; a request waits behind those
before it, and one on an idle entry joins the holders or takes ownership once every other holder has acknowledged its
recall; an owner's data goes to the home, whose acknowledgement ends the write; a write that is not acknowledged is tried
four times. A holder drops a Clean page or waits for its references; an owner sends its data on when its tenure has ended. -/
def Obligations.ShardDirectory : Prop :=
  (∀ (s : State) job page rank bytes, s.dirEnt job page = none →
    exec (.shardGets job page rank) s = .next (s.shardReply npNoHome job page rank 0 false []) ∧
    exec (.shardGetx job page rank) s = .next (s.shardReply npNoHome job page rank 0 false []) ∧
    exec (.shardWbrel job page rank bytes) s = .next (s.shardReply npNoHome job page rank 0 false [])) ∧
  (∀ (s : State) job page rank e, s.dirEnt job page = some e →
    let t := fun (r : Nat) => s.onDir job page fun e => { e with waiting := e.waiting ++ [(r, rank, [])] }
    let served := fun (z : State) => (z.shardReply npHome job page rank e.dataver (e.homekind = 3 && e.st = .idle)
      e.homeBytes).shardNext job page
    let held := fun (z : State) => State.shardReply { z with ckpt := { z.ckpt with held := z.ckpt.held ++ [(job, page)] } }
      npHeld job page rank 0 false []
    ((s.saving = false ∨ rank = s.rankIn job) →
      exec (.shardGets job page rank) s = .next (served (t npGets)) ∧ exec (.shardGetx job page rank) s = .next (served (t npGetx))) ∧
    (s.saving = true → rank ≠ s.rankIn job →
      exec (.shardGets job page rank) s = .next (held (t npGets)) ∧ exec (.shardGetx job page rank) s = .next (held (t npGetx)))) ∧
  (∀ (s : State) (e : DirEnt) rank, s.dirEnt e.job e.page = some e → e.st = .idle →
    s.serveShard e npGets rank [] = ((s.onDir e.job e.page fun e => e.addHolder rank).shardReply npHome e.job e.page rank
      e.dataver (e.homekind = 3) e.homeBytes).homeFetch e rank ∧
    (e.all = false → (∀ r ∈ e.holders, r = rank) → s.serveShard e npGetx rank [] = s.grantTo e.job e.page rank)) ∧
  (∀ (s : State) job page rank bytes e, s.dirEnt job page = some e → e.st = .xfer → e.req = npGets → e.owner = rank →
    e.held = none → exec (.shardWbrel job page rank bytes) s = .next ((s.onDir job page fun e => { e with
      held := some bytes
      wattempts := 0
      wdeclined := false }).homeWrite job page)) ∧
  (∀ (s : State) job page rank, exec (.shardDrop job page rank) s =
    .next (s.onDir job page fun e => { e with holders := e.holders.filter (· != rank) })) ∧
  (∀ (s : State) job page e, s.dirEnt job page = some e → e.held ≠ none → e.wdeclined = false →
    (e.st = .xfer ∨ e.st = .wbPending) →
    exec (.shardHomeAck job page true) s = .next (s.homeWritten e (e.st = .xfer)) ∧
    exec (.shardHomeAck job page false) s = .next (s.declineWrite e 5)) ∧
  (∀ (s : State) job page e rank, s.dirEnt job page = some e → e.st = .xfer → e.req = npGetx → rank ∈ e.acks → e.owner = noRank →
    rank ≠ noRank →
    let left := e.acks.filter (· != rank)
    exec (.shardRecallAck job page rank) s = .next (if left = [] then (s.grantTo job page e.reqRank).shardNext job page
      else s.onDir job page fun e => { e with acks := left })) ∧
  (∀ (s : State) job page e, s.dirEnt job page = some e → e.held ≠ none → e.wdeclined = false →
    (e.wattempts < 3 → exec (.homeWriteTimeout job page) s =
      .next ((s.onDir job page fun e => { e with wattempts := e.wattempts + 1 }).homeWrite job page)) ∧
    (3 ≤ e.wattempts → exec (.homeWriteTimeout job page) s = .next ((s.onDir job page fun e => { e with
      wattempts := 4 }).declineWrite { e with wattempts := 4 } (if e.homekind = 3 then 3 else 2)))) ∧
  (∀ (s : State) job page, s.frameOf job page = none → exec (.holderRecall job page) s =
    .next ((s.onOwned job page fun o => { o with recalled := false }).tellShard npRecallAck job page [])) ∧
  (∀ (s : State) job page i f, s.frameOf job page = some (i, f) → f.st = .clean →
    (f.refcnt ≠ 0 → exec (.holderRecall job page) s = .next (s.onOwned job page fun o => { o with recalled := true })) ∧
    (f.refcnt = 0 →
      let t := s.onOwned job page fun o => { o with recalled := false }
      exec (.holderRecall job page) s = .next (State.tellShard (State.arm (State.wakeName
        ((t.finishFrame (t.framePA i)).onFrame i fun f => { f with st := .evicting }) job page) (.evictionComplete i))
        npRecallAck job page []))) ∧
  (∀ (s : State) job page dst i f, s.frameOf job page = some (i, f) →
    (s.xferWaits f = true →
      exec (.ownerXferS job page dst) s = .next (s.onOwned job page fun o => { o with xfer := some (false, dst) }) ∧
      exec (.ownerXferX job page dst) s = .next (s.onOwned job page fun o => { o with xfer := some (true, dst) })) ∧
    (s.xferWaits f = false → f.st = .ownedDirty →
      let u := (s.finishFrame (s.framePA i)).useNp false (s.framePA i) pageBytes
      let l := u.loadPA (u.framePA i) pageBytes
      exec (.ownerXferS job page dst) s = .next (((((u.sendData job page dst l).tellShard npWbrel job page l).onFrame i fun f => { f with
        st := .clean
        wr := false }).onOwned job page fun o => { o with
          xfer := none
          tenure := false
          ver := o.ver + 1 }).wakeName job page) ∧
      exec (.ownerXferX job page dst) s = .next (State.arm (State.wakeName ((((u.sendData job page dst l).tellShard npRecallAck job page
        []).onFrame i fun f => { f with st := .evicting }).onOwned job page fun o => { o with
          xfer := none
          tenure := false }) job page) (.evictionComplete i)))) ∧
  ∀ (s : State) job page, exec (.tenureEnd job page) s =
    .next ((s.onOwned job page fun o => { o with tenure := false }).xferAgain job page)

/-- R388 to R397, R442: a command of the NP page installs 64 KiB of host data into the frame of a declined service, starts
that service again, or ends its waiters; PIN and UNPIN change a frame's state within four pinned ways of a set; DIRSET
replaces or removes a directory entry that is idle. A checkpoint or a restore is refused while a launch runs, drains first,
and streams 64 MiB segments until the last one or an abort. The order of the header's fields is the model's choice (log entry
24). -/
def Obligations.HostCommandsAndCheckpoints : Prop :=
  (∀ (s : State) w wn, s.world wn = some w →
    let page := w.np.cname
    (∀ v, s.declinedOf w.job page = some v →
      (s.cargOk w.np.carg = false → exec (.installClean wn) s = .next (s.cmdDone w.num csBadArg) ∧
        exec (.installDirty wn) s = .next (s.cmdDone w.num csBadArg)) ∧
      (s.cargOk w.np.carg = true → s.installFrame v = none →
        exec (.installClean wn) s = .next (s.cmdDone w.num csSetFull) ∧
        exec (.installDirty wn) s = .next (s.cmdDone w.num csSetFull)) ∧
      (∀ i, s.cargOk w.np.carg = true → s.installFrame v = some i →
        let into := fun (write : Bool) => ((s.useNp false w.np.carg pageBytes).onService v.id fun v => { v with
          write
          upgrade := false }).install v.id i (s.loadPA w.np.carg pageBytes) (s.ownedOf w.job page).ver
        exec (.installClean wn) s = .next ((into false).cmdDone w.num csOk) ∧
        exec (.installDirty wn) s = .next (((into true).askShard npGetx w.job page (s.loadPA w.np.carg pageBytes)).1.cmdDone
          w.num csOk)) ∧
      (let t := v.waiters.foldl (fun s p => s.onFault v.world p.1 fun f => { f with st := .inService }) s
        let again := fun (phase : SPhase) => t.onService v.id fun v => { v with
          attempts := 0
          code := 0
          phase }
        (∀ i, v.frame = some i → exec (.retry wn) s = .next (((again .lookup).fetch v.id).cmdDone w.num csOk)) ∧
        (v.frame = none → exec (.retry wn) s = .next (((again .victim).arm (.victimRetry v.id)).cmdDone w.num csOk))) ∧
      (∀ gid p g c, v.waiters = [p] → p.2.1 = Waiter.group gid → s.groups.find? (·.id == gid) = some g → s.crew g.crew = some c →
        g.job = v.job → g.page = v.page →
        exec (.kill wn) s = .next ((((s.onService v.id fun v => { v with
          waiters := []
          prefetch := false }).async g.crew (killTrap v.code w.job page) (some g.lanes)).runWake v.id).cmdDone w.num csOk))) ∧
    (s.declinedOf w.job page = none → s.declinedWrite w.job page = none → ∀ i ∈ [Instr.installClean wn, .installDirty wn, .retry wn,
      .kill wn], exec i s = .next (s.cmdDone w.num csNoFault)) ∧
    (∀ e, s.declinedOf w.job page = none → s.declinedWrite w.job page = some e →
      exec (.retry wn) s = .next (((s.onDir w.job page fun e => { e with
        wdeclined := false
        wattempts := 0 }).homeWrite w.job page).cmdDone w.num csOk) ∧
      exec (.kill wn) s = .next ((s.homeWritten e false).cmdDone w.num csOk))) ∧
  (∀ (s : State) w wn, s.world wn = some w →
    let page := w.np.cname
    (s.frameOf w.job page = none → exec (.pin wn) s = .next (s.cmdDone w.num csNotResident) ∧
      exec (.unpin wn) s = .next (s.cmdDone w.num csNotResident)) ∧
    ∀ i f, s.frameOf w.job page = some (i, f) →
      ((f.st = .clean ∨ f.st = .ownedDirty) → exec (.pin wn) s = .next (if s.pinnedWays w.job page ≥ 4 then s.cmdDone w.num csSetFull
        else (s.onFrame i fun f => { f with st := .pinned }).cmdDone w.num csOk)) ∧
      (f.st = .filling → exec (.pin wn) s = .next (s.cmdDone w.num csNotResident)) ∧
      (f.st ≠ .pinned → exec (.unpin wn) s = .next (s.cmdDone w.num csNotResident)) ∧
      (f.st = .pinned → exec (.pin wn) s = .next (s.cmdDone w.num csOk) ∧
        ((s.ownedOf w.job page).recalled = false → (s.ownedOf w.job page).xfer = none → s.serviceOf w.job page = none →
          exec (.unpin wn) s = .next (State.cmdDone (s.onFrame i fun f => { f with st := if f.wr then .ownedDirty else .clean }) w.num
            csOk)))) ∧
  (∀ (s : State) w wn, s.world wn = some w → s.shardRank w w.job w.np.cname = some w.np.rank → w.np.carg % 32 = 0 →
    w.np.carg + 32 ≤ hbmTop →
    let y := if w.np.shmap = 0 then s else s.devTouch w.num (w.np.mapSlot w.job w.np.cname) 2
    let z := y.useNp false w.np.carg 32
    let e := dirOf w.job w.np.cname (y.loadPA w.np.carg 32)
    let rest := z.dir.filter fun x => !(x.job == w.job && x.page == w.np.cname)
    fieldN (leNat (y.loadPA w.np.carg 32)) 92 3 = 0 →
    (∀ x, z.dirEnt w.job w.np.cname = some x → x.st = .idle ∧ x.holders = [] ∧ x.all = false) →
    (e.homekind = 0 → exec (.dirset wn) s = .next (State.cmdDone { z with dir := rest } w.num csOk)) ∧
    (e.homekind ∈ [1, 2, 3, 4] → exec (.dirset wn) s = .next (State.cmdDone { z with dir := rest ++ [e] } w.num csOk)) ∧
    (4 < e.homekind → exec (.dirset wn) s = .next (z.cmdDone w.num csBadArg))) ∧
  (∀ (s : State), s.ckpt.active = false →
    ((∃ l ∈ s.launches, l.state = .running ∨ l.state = .cancelling) → ∀ i ∈ [Instr.checkpointSave, .checkpointRestore],
      exec i s = .next { s with ckpt := { s.ckpt with stat := ckRefused } }) ∧
    ((∀ l ∈ s.launches, l.state ≠ .running ∧ l.state ≠ .cancelling) →
      let t := fun (pass : Nat) => State.arm { s with ckpt := { s.ckpt with
        stat := ckDraining
        pass
        bytes := 0
        err := 0
        crcs := []
        abort := false
        header := false
        hold := true } } .checkpointDrainDone
      exec .checkpointSave s = .next (t 0) ∧ exec .checkpointRestore s = .next (t 1)) ∧
    exec .checkpointAbort s = .next s) ∧
  (∀ (s : State), s.ckpt.active = true → exec .checkpointSave s = .next s ∧ exec .checkpointRestore s = .next s ∧
    exec .checkpointAbort s = .next { s with ckpt := { s.ckpt with abort := true } }) ∧
  (∀ (s : State), s.ckpt.stat = ckDraining → (∀ v ∈ s.services, v.phase = .declined ∨ v.phase = .installed) →
    let t := { s with ckpt := { s.ckpt with stat := ckStreaming } }
    exec .checkpointDrainDone s = .next (if s.ckpt.pass = 0 then (t.ckSend 0 t.ckHeader).arm (.checkpointSegmentDone 0 []) else t)) ∧
  ∀ (s : State) bytes, s.ckpt.stat = ckStreaming →
    (s.ckpt.abort = true → ∀ o, exec (.checkpointSegmentDone o bytes) s =
      .next (s.ckEnd ckFailed 0 (s.ckpt.pass = 2 || s.ckpt.stuck))) ∧
    (s.ckpt.abort = false →
      (s.ckpt.pass = 0 →
        let l := s.segment s.ckpt.bytes
        let crcs := s.ckpt.crcs ++ [crc32c l]
        let t := State.ckSend { s with ckpt := { s.ckpt with crcs } } (4096 + s.ckpt.bytes) l
        (s.ckpt.bytes + segBytes < hbmTop → exec (.checkpointSegmentDone 0 bytes) s = .next t.ckNext) ∧
        (hbmTop ≤ s.ckpt.bytes + segBytes → exec (.checkpointSegmentDone 0 bytes) s =
          .next (t.ckSend (4096 + hbmTop) (crcs.flatMap (leBytes 4))).ckNext) ∧
        ∀ o, o ≠ 0 → exec (.checkpointSegmentDone o bytes) s = .next (s.ckEnd ckFailed 1 s.ckpt.stuck)) ∧
      (s.ckpt.pass = 1 →
        (∀ o, o ≠ 0 → exec (.checkpointSegmentDone o bytes) s = .next (s.ckEnd ckFailed 1 s.ckpt.stuck)) ∧
        (s.ckpt.header = false →
          (bytes.take 4096 = s.ckHeader → exec (.checkpointSegmentDone 0 bytes) s = .next { s with ckpt := { s.ckpt with
            header := true
            crcs := (entriesOf 4 (bytes.drop 4096)).map leNat } }) ∧
          (bytes.take 4096 ≠ s.ckHeader → exec (.checkpointSegmentDone 0 bytes) s = .next (s.ckEnd ckFailed 3 s.ckpt.stuck))) ∧
        (s.ckpt.header = true → s.ckpt.crcs[s.ckpt.bytes / segBytes]? ≠ some (crc32c bytes) →
          exec (.checkpointSegmentDone 0 bytes) s = .next (s.ckEnd ckFailed 2 s.ckpt.stuck)) ∧
        (s.ckpt.header = true → s.ckpt.crcs[s.ckpt.bytes / segBytes]? = some (crc32c bytes) →
          exec (.checkpointSegmentDone 0 bytes) s = .next { s with ckpt := if s.ckpt.bytes + segBytes < hbmTop then
              { s.ckpt with bytes := s.ckpt.bytes + segBytes }
            else { s.ckpt with
              pass := 2
              bytes := 0 } })) ∧
      (s.ckpt.pass = 2 → exec (.checkpointSegmentDone 0 bytes) s = .next (s.writeSegment s.ckpt.bytes bytes).ckNext ∧
        ∀ o, o ≠ 0 → exec (.checkpointSegmentDone o bytes) s = .next (s.ckEnd ckFailed 1 true)))

/-- R401 to R405, R419, R422 to R424: a packet that authenticates is acknowledged and performed at most once; others are
counted. An unacknowledged packet is sent eight times, an ordered flow moves to the next port after two resends on one, and an
unordered packet is sprayed again; a marked acknowledgement lowers the rate by one eighth, each unmarked
interval raises it by one percent of the port rate. Device time slews by at most 100 ppm. A flit of a foreign world is
dropped, a link unit is sent again three times, and keys and epochs advance. -/
def Obligations.FabricSteps : Prop :=
  (∀ (s : State) w (p : Packet), s.world p.world = some w →
    (p.mode ≠ .rud → p.mode ≠ .rod → exec (.packetReceive p) s = .next (s.onWorld w.num fun w => { w with
      fab := { w.fab with modedrop := w.fab.modedrop + 1 } })) ∧
    (p.mode = .rud ∨ p.mode = .rod →
      (s.packetOk w p = false → exec (.packetReceive p) s = .next (s.onWorld w.num fun w => { w with
        fab := { w.fab with badpkt := w.fab.badpkt + 1 } })) ∧
      (s.packetOk w p = true →
        let peer := rankPeer w.job p.peer
        let t := (s.send (.fabric clsAck peer (leBytes 8 p.seq))).countPacket peer
        (p.seq ∈ (t.peer peer).seen → exec (.packetReceive p) s = .next t) ∧
        (p.seq ∉ (t.peer peer).seen → p.req = none →
          let u := t.onPeer peer fun x => { x with seen := x.seen ++ [p.seq] }
          (p.reply = none → exec (.packetReceive p) s = .next u) ∧
          ∀ r, p.reply = some r → exec (.packetReceive p) s = .next (u.takeReply r)) ∧
        ∀ r, p.seq ∉ (t.peer peer).seen → p.req = some r → p.reply = none → exec (.packetReceive p) s =
          exec (.rmaRequestReceive r) (t.onPeer peer fun x => { x with seen := x.seen ++ [p.seq] })))) ∧
  (∀ (s : State) peer x, (s.peer peer).unacked.find? (·.seq == x.seq) = some x →
    let sets := fun (z : State) (f : Sent → Sent) => z.onPeer peer fun p => { p with
      unacked := mapIf (fun (y : Sent) => y.seq == x.seq) f p.unacked }
    (x.lost = true → exec (.retransmitTimeout peer x.seq) s = .next s) ∧
    (x.lost = false → 8 ≤ x.sends → exec (.retransmitTimeout peer x.seq) s = .next (State.transportFailed
      (if x.put = none then s.onPeer peer fun p => { p with unacked := p.unacked.filter (·.seq != x.seq) }
       else sets s fun y => { y with lost := true }) peer x.owner x.part)) ∧
    (x.lost = false → x.sends < 8 → ∀ z port entropy tries, s.reroute peer x = (z, port, entropy, tries) →
      exec (.retransmitTimeout peer x.seq) s = .next ((((sets z fun y => { y with
        sends := y.sends + 1
        port
        entropy
        tries }).send (.packet x.cls peer x.seq port entropy x.off x.len)).countPacket peer).arm (.retransmitTimeout peer x.seq))) ∧
    (x.cls = clsRud → (s.reroute peer x).2.1 = s.portAt (Config.spray s.freeCtr).1 ∧
      (s.reroute peer x).2.2.1 = (Config.spray s.freeCtr).2 % 256) ∧
    ∀ f, x.cls ≠ clsRud → (s.peer peer).flows.find? (·.cls == x.cls) = some f → x.port = some f.port →
      (x.tries < 2 → (s.reroute peer x).2 = (some f.port, f.entropy, x.tries + 1)) ∧
      ∀ p, 2 ≤ x.tries → s.nextPort f.port = some p →
        (s.reroute peer x).2 = (some p, x.entropy, if p = f.port then x.tries + 1 else 1)) ∧
  (∀ (s : State) peer seq x, (s.peer peer).unacked.find? (·.seq == seq) = some x →
    let t := ((s.onPeer peer fun p => { p with unacked := p.unacked.filter (·.seq != seq) }).disarm
      (· == .retransmitTimeout peer seq)).a2avCheck x.owner
    exec (.ackReceive peer seq false) s = .next t ∧
    ((s.peer peer).lastFall = none → (t.peer peer).lastFall = none → exec (.ackReceive peer seq true) s =
      .next ((t.onPeer peer fun p => { p with
        marked := true
        rate := clampRate (p.rate * 7 / 8)
        lastFall := some s.plat.devtime.toNat }).arm (.rateRiseTick peer)))) ∧
  (∀ (s : State) peer,
    let u := s.onPeer peer fun p => { p with
      rate := if p.marked then p.rate else clampRate (p.rate + 10000)
      marked := false }
    exec (.rateRiseTick peer) s = .next (if (u.peer peer).rate < 1000000 then u.arm (.rateRiseTick peer) else u)) ∧
  (∀ (s : State) elapsed correction, ∃ n : Nat, 10000 * n ≤ 10001 * elapsed ∧ 9999 * elapsed ≤ 10000 * n ∧
    ∃ t, exec (.ptpSync elapsed correction) s = .next t ∧ t = { s with plat := { s.plat with
      devtime := t.plat.devtime
      secClock := s.plat.secClock + elapsed / 1000
      ptpLocked := t.plat.ptpLocked } } ∧ s.plat.devtime.toNat ≤ t.plat.devtime.toNat ∧
      (let left := correction - ((n : Int) - (elapsed : Int))
       t.plat.ptpLocked = true ↔ left ≤ 1000 ∧ -1000 ≤ left) ∧
      (s.plat.devtime.toNat + n < 2 ^ 64 → t.plat.devtime.toNat = s.plat.devtime.toNat + n)) ∧
  (∀ (s : State), exec .ptpLockLoss s = .next { s with plat := { s.plat with ptpLocked := false } }) ∧
  (∀ (s : State) port, s.ckpt.stat ≠ ckStreaming →
    exec (.portDown port) s = .next { s with plat := { s.plat with portsUp := s.plat.portsUp.filter (· != port) } }) ∧
  (∀ (s : State) port p, ∃ t, exec (.portUp port) s = .next t ∧ (p ∈ t.plat.portsUp ↔ p < 8 ∧ (p = port ∨ p ∈ s.plat.portsUp))) ∧
  (∀ (s : State) die world entry pa granules,
    (s.plat.dieWorld.getD die 0 = world → exec (.dieFlitReceive die world entry pa granules) s = .next s) ∧
    (s.plat.dieWorld.getD die 0 ≠ world → exec (.dieFlitReceive die world entry pa granules) s = .next (State.linkLost { s with
      plat := { s.plat with flitDrops := s.plat.flitDrops + 1 } } entry pa granules))) ∧
  (∀ (s : State) i entry pa granules,
    exec (.linkUnitReceive i true entry pa granules) s = .next (s.onLink i Link.delivered) ∧
    ((s.link i).fails < 3 → exec (.linkUnitReceive i false entry pa granules) s =
      .next ((s.onLink i fun l => { l with fails := l.fails + 1 }).linkRetry entry)) ∧
    (3 ≤ (s.link i).fails → exec (.linkUnitReceive i false entry pa granules) s =
      .next ((s.onLink i fun l => { l with fails := 0 }).linkLost entry pa granules)) ∧
    exec (.linkUnitClose i) s = .next (s.onLink i fun l => { l with open_ := false }) ∧
    exec (.linkKeyRenew i) s = .next (s.onLink i fun l => { l with
      keygen := l.keygen + 1
      ctr := 0 })) ∧
  (∀ (s : State) w job rank, s.worlds.find? (·.job == job) = some w →
    let first := if (s.epoch job).1 = 0 then s.setEpoch job (1, false) else s
    (w.fab.authrank = w.np.rank →
      (∀ b, rank = w.np.rank → exec (.sessionKeyDistribution job rank b) s = .next first) ∧
      (rank ≠ w.np.rank →
        let data := [job, rank, (Config.noise s.freeCtr).toNat]
        let z := ((State.send { s with freeCtr := s.freeCtr + 1 } (.spdm 0x83 data)).send (.spdm 0xE4 data)).send (.spdm 0xE5 data)
        exec (.sessionKeyDistribution job rank false) s = .next (z.onPeer (rankPeer job rank) fun p => { p with failed := true }) ∧
        ((s.epoch job).1 ≠ 0 → exec (.sessionKeyDistribution job rank true) s =
          .next (((z.onPeer (rankPeer job rank) fun p => { p with failed := false }).send (.key job rank (s.epoch job).1)).transmitPart
            clsTrust (rankPeer job rank) 0 0 0)))) ∧
    (w.fab.authrank ≠ w.np.rank →
      exec (.sessionKeyDistribution job rank true) s = .next (if rank = w.np.rank then first else s) ∧
      exec (.sessionKeyDistribution job rank false) s = .next s)) ∧
  ∀ (s : State) job,
    ((s.epoch job).1 ≠ 0 → exec (.epochAdvance job) s = .next (State.arm (State.setEpoch { s with plat := { s.plat with
      peers := s.plat.peers.map fun p => if peerJob p.1 = job then (p.1, { p.2 with sent := 0 }) else p } } job
        ((s.epoch job).1 + 1, true)) (.epochOverlapEnd job))) ∧
    exec (.epochOverlapEnd job) s = .next (s.setEpoch job ((s.epoch job).1, false))

/-- R410 to R418: an image is activated when both signatures verify, its version is not below the minimum and it is for its
component, and a live activation ends with the new measurement; the device serves SPDM 1.3 requests for slot 0, answers Busy
to measurement requests while it activates, and spends one HSS leaf on each signed answer. The codes of the answers are those
of the DMTF standard (log entry 20). R416 to R418: the authority attests a switch: a matching one is granted a lease for LEASEMS,
or its lease is extended under the same number; a mismatch, a failed signature or a missing element is REFUSED, a changed
measurement EXPIRED, and a Busy answer is retried; a switch matches when it reports every approved measurement. A lease that runs out is EXPIRED, its keys end one second later, and another
rank sets its mirror one millisecond early. -/
def Obligations.Trust : Prop :=
  (∀ (s : State) c target svn digest ecdsaOk hssOk live,
    let ok := ecdsaOk = true ∧ hssOk = true ∧ s.plat.minSvn ≤ svn ∧ c = target ∧ 2 ≤ c ∧ c ≤ 6
    let run := { s with plat := { s.plat with versions := tabPut s.plat.versions 0 c svn } }
    (¬ ok → exec (.firmwareActivation c target svn ecdsaOk hssOk digest live) s = .next (s.send (.firmware 3 c))) ∧
    (ok → live = false → exec (.firmwareActivation c target svn ecdsaOk hssOk digest live) s = .next { run with
      plat := { run.plat with
        images := tabPut s.plat.images 0 c digest
        measures := tabPut s.plat.measures 0 c digest } }) ∧
    (ok → live = true → 3 ≤ c → exec (.firmwareActivation c target svn ecdsaOk hssOk digest live) s =
      .next (State.post { run with plat := { run.plat with activating := s.plat.activating + 1 } } (.liveActivationEnd c digest)))) ∧
  (∀ (s : State) c digest, exec (.liveActivationEnd c digest) s =
    .next { s with plat := { s.plat with
      activating := s.plat.activating - 1
      images := tabPut s.plat.images 0 c digest
      measures := tabPut s.plat.measures 0 c digest } }) ∧
  (∀ (s : State) v session slot nonce index signed supported verified code, v ≠ 0x13 →
    ∀ i ∈ [Instr.getVersion v, .getCapabilities v, .negotiateAlgorithms v supported, .getDigests v, .getCertificate v slot,
      .challenge v slot nonce, .getMeasurements v index signed nonce, .keyExchange v slot, .finish v session verified,
      .heartbeat v session, .keyUpdate v session, .endSession v session, .spdmUnsupportedRequest v code],
      exec i s = .next (s.spdmError errVersion)) ∧
  (∀ (s : State) code, exec (.getVersion 0x13) s = .next (s.send (.spdm 0x04 [0x13])) ∧
    exec (.getCapabilities 0x13) s = .next (s.send (.spdm 0x61 [])) ∧
    exec (.negotiateAlgorithms 0x13 true) s = .next (s.send (.spdm 0x63 [384, 384, 384, 256])) ∧
    exec (.negotiateAlgorithms 0x13 false) s = .next (s.spdmError errInvalid) ∧
    exec (.getDigests 0x13) s = .next (s.send (.spdm 0x01 [0])) ∧
    exec (.getCertificate 0x13 0) s = .next (s.send (.spdm 0x02 [0])) ∧
    exec (.spdmUnsupportedRequest 0x13 code) s = .next (s.send (.spdm 0x7F [errUnsupported, code]))) ∧
  (∀ (s : State) nonce,
    (2 ^ 40 ≤ s.plat.hssUsed → s.plat.activating = 0 →
      ∀ i ∈ [Instr.challenge 0x13 0 nonce, .getMeasurements 0x13 0 true nonce, .keyExchange 0x13 0],
        exec i s = .next (s.spdmError errUnspecified)) ∧
    (s.plat.hssUsed < 2 ^ 40 →
      let used := { s with plat := { s.plat with hssUsed := s.plat.hssUsed + 1 } }
      let element := [0x564E, 1, 2, s.plat.hssUsed + 1]
      exec (.challenge 0x13 0 nonce) s = .next (used.send (.spdm 0x03 ([0, nonce] ++ element))) ∧
      exec (.keyExchange 0x13 0) s = .next (State.send { used with plat := { used.plat with
        sessions := s.plat.sessions ++ [s.plat.nextSession]
        nextSession := s.plat.nextSession + 1 } } (.spdm 0x64 ([s.plat.nextSession] ++ element))) ∧
      ∀ index, s.plat.activating = 0 → (index ≤ 7 ∨ index = 0xFF) → exec (.getMeasurements 0x13 index true nonce) s =
        .next (used.send (.spdm 0x60 ([nonce] ++ s.measurement index ++ element))))) ∧
  (∀ (s : State) index signed nonce,
    (s.plat.activating ≠ 0 → exec (.getMeasurements 0x13 index signed nonce) s = .next (s.spdmError errBusy)) ∧
    (s.plat.activating = 0 → (index ≤ 7 ∨ index = 0xFF) → exec (.getMeasurements 0x13 index false nonce) s =
      .next (s.send (.spdm 0x60 (s.measurement index))))) ∧
  (∀ (s : State), s.measurement 0 = [7] ∧ (s.measurement 0xFF).length = 14 ∧
    ∀ k, 1 ≤ k → k ≤ 7 → s.measurement k = [k, tabGet s.plat.measures 0 k]) ∧
  (∀ (s : State) session, let closed := { s with plat := { s.plat with sessions := s.plat.sessions.filter (· != session) } }
    (session ∈ s.plat.sessions →
      exec (.finish 0x13 session true) s = .next (s.send (.spdm 0x65 [session])) ∧
      exec (.finish 0x13 session false) s = .next (closed.spdmError errDecrypt) ∧
      exec (.heartbeat 0x13 session) s = .next (s.send (.spdm 0x68 [session])) ∧
      exec (.keyUpdate 0x13 session) s = .next (s.send (.spdm 0x69 [session])) ∧
      exec (.endSession 0x13 session) s = .next (closed.send (.spdm 0x6C [session]))) ∧
    (session ∉ s.plat.sessions → ∀ i ∈ [Instr.finish 0x13 session true, .finish 0x13 session false, .heartbeat 0x13 session,
      .keyUpdate 0x13 session, .endSession 0x13 session], exec i s = .next (s.spdmError errInvalid))) ∧
  (∀ (s : State) w swid now, s.world w.num = some w → w.isAuthority = true →
    let c := s.clockTo now
    let t := c.plat.secClock
    let told := fun (x : State) => ((x.disarm (· == .leaseBusyRetry w.num swid)).timeLease w.num swid).tellLease w.num swid
    (∀ report, let l := w.lease swid
      let judged := fun (x : State) => told ((x.setLease w.num swid fun y => { y with report }).devTouch w.num w.fab.appr
        (64 * w.fab.nappr))
      let answer := exec (.leaseAttestation w.num swid (.report report) now) s
      (c.matching w report = false → answer = .next (judged (c.endLease w swid t 4 2))) ∧
      (c.matching w report = true → l.st = 2 → t < l.expiry → l.report ≠ report →
        answer = .next (judged (c.endLease w swid t 3 0))) ∧
      (c.matching w report = true → l.st ≠ 2 ∨ l.expiry ≤ t ∨ l.report = report →
        answer = .next (judged (c.grantLease w swid t))) ∧
      (w.fab.nappr = 0 → c.matching w report = true) ∧
      ∀ table, w.fab.nappr ≠ 0 → c.devRead w.num w.fab.appr (64 * w.fab.nappr) = some table →
        (c.matching w report = true ↔ ∀ b ∈ entriesOf 64 table, (leNat (b.take 1), leNat ((b.drop 16).take 48)) ∈ report)) ∧
    exec (.leaseAttestation w.num swid .badSignature now) s = .next (told (c.endLease w swid t 4 1)) ∧
    exec (.leaseAttestation w.num swid .noElement now) s = .next (told (c.endLease w swid t 4 3)) ∧
    (let z := c.arm (.leaseBusyRetry w.num swid)
     exec (.leaseAttestation w.num swid .busy now) s = .next (if (w.lease swid).st = 0 then
       (z.setLease w.num swid fun l => { l with st := 1 }).tellLease w.num swid else z)) ∧
    now ≤ t ∧ s.plat.secClock ≤ t) ∧
  (∀ (s : State) (w : World) swid t, let l := w.lease swid
    (l.st = 2 → t < l.expiry → s.grantLease w swid t = s.setLease w.num swid fun l => { l with expiry := t + 1000 * w.fab.leasems }) ∧
    (l.st ≠ 2 ∨ l.expiry ≤ t → s.grantLease w swid t = ((s.onWorld w.num fun w' => { w' with
      fab := { w'.fab with lastLease := w.fab.lastLease + 1 } }).setLease w.num swid fun l => { l with
        st := 2
        reason := 0
        leaseNo := w.fab.lastLease + 1
        expiry := t + 1000 * w.fab.leasems
        keys := l.keys ++ [w.fab.lastLease + 1] }).send (.leaseKey w.num swid (w.fab.lastLease + 1)))) ∧
  (∀ (s : State) w swid, s.world w.num = some w →
    let l := w.lease swid
    (w.isAuthority = true → l.st = 2 → exec (.leaseRenewalDue w.num swid) s =
      .next ((s.clockTo (l.expiry - 250 * w.fab.leasems)).askSwitch w.num swid)) ∧
    (w.isAuthority = true → l.st = 0 → exec (.leaseRenewalDue w.num swid) s =
      .next (((s.setLease w.num swid fun l => { l with st := 1 }).tellLease w.num swid).askSwitch w.num swid)) ∧
    (w.isAuthority = true → exec (.leaseBusyRetry w.num swid) s = .next (s.askSwitch w.num swid)) ∧
    (l.st = 2 → exec (.leaseExpiry w.num swid) s = .next ((((s.clockTo l.expiry).setLease w.num swid fun l => { l with
      st := 3 }).timeLease w.num swid).tellLease w.num swid)) ∧
    (l.st ≠ 2 → exec (.leaseKeyGraceEnd w.num swid) s = .next (((s.clockTo (l.expiry + 1000000)).setLease w.num swid fun l => { l with
      keys := [] }).dropPaths w.num l.keys))) ∧
  ∀ (s : State) wn swid st reason no expiry authNow, exec (.leaseChangeReceive wn swid st reason no expiry authNow) s =
    .next ((s.setLease wn swid fun l => { l with
      st
      reason
      leaseNo := no
      expiry := s.plat.secClock + expiry - authNow - 1000
      keys := if st = 2 && !l.keys.contains no then l.keys ++ [no] else l.keys }).timeLease wn swid)

/-- R419 to R428: firmware zeroes an idle die and latches a world into it; a world starts with a fresh key, regions of its own
and an open job, and leaves with everything it had: each byte of its regions is a free value from then on (log entry 4), and no
other byte changes. A ring's next slot is performed
when its tag verifies and its number is EXPSEQ, consumed as BAD_TAG or REPLAY when not, and halts the ring at a gap; RCMD and a
rekey, which asks for an open secured session, start and stop rings, and the ring's key goes out with its number. -/
def Obligations.WorldsAndRings : Prop :=
  (∀ (s : State) die world, s.dieIdle die = true → die < s.plat.dieWorld.length →
    ∃ t, exec (.worldLatch die world) s = .next t ∧ t.plat.dieWorld = s.plat.dieWorld.set die world ∧
      t.plat.dieWorld.getD die 0 = world ∧ (∀ p ∈ t.quarters, dieOf (p.1 / 4) ≠ die) ∧
      (∀ p ∈ s.quarters, dieOf (p.1 / 4) ≠ die → p ∈ t.quarters) ∧ (∀ x ∈ t.l1, dieOf x.1 ≠ die) ∧
      (∀ x ∈ s.l1, dieOf x.1 ≠ die → x ∈ t.l1) ∧ t.mem = s.mem ∧ t.worlds = s.worlds ∧
      (s.booted = true → tabGet t.plat.measures 0 7 =
        Config.layoutDigest (s.plat.dieWorld.set die world) (s.worlds.map fun w => (w.num, w.regions)))) ∧
  (∀ (s : State) world job rank authRank regions pa len, s.booted = true → 1 ≤ world → world ≤ 15 → s.world world = none →
    (∀ r ∈ regions, s.regionFree world r = true) → imagePlaced regions pa len = true → ∃ t w, exec (.worldCreate world job rank authRank regions pa len) s = .next t ∧
      t.world world = some w ∧ w.keygen = s.nextId ∧ s.nextId < t.nextId ∧ w.job = job ∧ w.regions = regions ∧ w.np.rank = rank ∧
      w.fab.authrank = authRank ∧ w.ctl.jobEnded = false ∧ ∀ n, n ≠ world → t.world n = s.world n) ∧
  (∀ (s : State) w wn, s.world wn = some w → ∃ t, exec (.worldTeardown wn) s = .next t ∧ t.world wn = none ∧
    (∀ n, n ≠ wn → t.world n = s.world n) ∧ (∀ c ∈ t.crews, c.world ≠ wn) ∧ (∀ u ∈ t.units, u.world ≠ wn) ∧
    (∀ l ∈ t.launches, l.world ≠ wn) ∧ (∀ e ∈ t.entries, e.world ≠ wn) ∧
    (∀ g ∈ t.poison, 4 * g / 2 ^ 30 ∉ w.regions) ∧
    (s.memOk = true → ∀ a, (a / 2 ^ 30 ∈ w.regions → readB t.mem a = Config.scrambled s.freeCtr a) ∧
      (a / 2 ^ 30 ∉ w.regions → readB t.mem a = readB s.mem a))) ∧
  (∀ (s : State) w wn ring tail, s.world wn = some w → (w.ring ring).st = .running → (w.ring ring).head ≠ tail →
    ∃ w', (s.onRing wn ring fun r => { r with tail }).world wn = some w' ∧ exec (.ringDoorbell wn ring tail) s =
      .next (((s.onRing wn ring fun r => { r with tail }).ringSlot w' ring { w.ring ring with tail }).ringWake wn ring)) ∧
  (∀ (x : State) (w : World) ring (r : CmdRing) b, x.devRead w.num (r.rbase + 64 * (r.head.toNat % 2 ^ r.rlog)) 64 = some b → b ≠ [] →
    let s := x.devTouch w.num (r.rbase + 64 * (r.head.toNat % 2 ^ r.rlog)) 64
    let seq := nat64At b 0
    let put := fun (t : State) (f : CmdRing → CmdRing) => t.onRing w.num ring f
    (State.tagOk w ring r b = false → x.ringSlot w ring r = put s fun r => { r with
      lastseq := seq
      laststat := 3
      badtags := r.badtags + 1
      head := r.head + 1 }) ∧
    (State.tagOk w ring r b = true →
      (seq < r.expseq → x.ringSlot w ring r = put s fun r => { r with
        lastseq := seq
        laststat := 2
        replays := r.replays + 1
        head := r.head + 1 }) ∧
      (r.expseq < seq → x.ringSlot w ring r = (put s fun r => { r with
        lastseq := seq
        laststat := 4
        st := .haltedSkip }).interrupt w.num 5 0 [ring, 4, r.expseq % 2 ^ 32, r.expseq / 2 ^ 32]) ∧
      (seq = r.expseq → r.expseq + 1 < 2 ^ 48 → x.ringSlot w ring r = put (s.ringPerform w.num b).1 fun r => { r with
        lastseq := seq
        laststat := (s.ringPerform w.num b).2
        expseq := r.expseq + 1
        head := r.head + 1 }) ∧
      (seq = r.expseq → r.expseq + 1 = 2 ^ 48 → x.ringSlot w ring r = (put (s.ringPerform w.num b).1 fun r => { r with
        lastseq := seq
        laststat := 5
        expseq := r.expseq + 1
        head := r.head + 1
        st := .haltedRekey }).interrupt w.num 5 0 [ring, 5, (r.expseq + 1) % 2 ^ 32, (r.expseq + 1) / 2 ^ 32]))) ∧
  ∀ (s : State) wn ring,
    let after := fun (i : Instr) (f : CmdRing → CmdRing) => exec i s = .next ((s.onRing wn ring f).ringWake wn ring)
    let keyed := fun (i : Instr) (f : CmdRing → CmdRing) =>
      exec i s = .next (((s.onRing wn ring f).giveRingKey wn ring).ringWake wn ring)
    (∀ w, s.world wn = some w → s.plat.sessions ≠ [] → s.giveRingKey wn ring = s.send (.ringKey wn ring (w.ring ring).keygen)) ∧
    keyed (.rcmdEnable wn ring) (fun r => { r with st := if r.st = .disabled then .running else r.st }) ∧
    after (.rcmdResume wn ring) (fun r => if r.st = .haltedSkip && decide (r.expseq ≤ r.rseq) && decide (r.rseq < 2 ^ 48) then { r with
      expseq := r.rseq
      st := .running } else r) ∧
    exec (.rcmdDisable wn ring) s = .next (s.onRing wn ring fun r => { r with st := .disabled }) ∧
    (s.plat.sessions = [] → exec (.ringRekey wn ring) s = .next s) ∧
    (s.plat.sessions ≠ [] → keyed (.ringRekey wn ring) (fun r => { r with
      keygen := r.keygen + 1
      expseq := 0
      st := .running }))

/-- R8, R429 to R440: a register write changes the page it names, or waits its turn; a sample is written for the crew whose
turn it is; DCMD halts, resumes and steps the selected crew. A start stops at the step that fails, with measurement 7 zero, and one that
succeeds sets the frame cache and the worlds of the dies; a reset and a loss of power start the device again. Power states
change for all dies; heat lowers them, until every junction is below 95 °C. -/
def Obligations.Housekeeping : Prop :=
  (∀ (s : State) p off v m, (s.regWaits p off = false → exec (.registerWrite p off v m) s = .next (s.regWrite p off v m none)) ∧
    (s.regWaits p off = true → exec (.registerWrite p off v m) s = .next (s.arm (.registerWrite p off v m)))) ∧
  (∀ (s : State) c w q, s.crew c.uid = some c → s.world c.world = some w →
    (quarterNo c.core c.quarter = q → w.dbg.sampper ≠ 0 → exec (.sampleTick q c.uid) s = .next ((s.sample c).armSampler q c.uid)) ∧
    (quarterNo c.core c.quarter ≠ q ∨ w.dbg.sampper = 0 → exec (.sampleTick q c.uid) s = .next (s.armSampler q c.uid))) ∧
  (∀ (s : State) w wn, s.world wn = some w →
    (s.selected w = none → exec (.dcmdHalt wn) s = .next s ∧ exec (.dcmdResume wn) s = .next s ∧ exec (.dcmdStep wn) s = .next s) ∧
    ∀ c, s.selected w = some c →
      exec (.dcmdHalt wn) s = .next ((s.onCrew c.uid fun c => { c with
        halt := if c.halt = .running then .halting else c.halt }).haltCheck c.uid) ∧
      exec (.dcmdStep wn) s = .next (s.onCrew c.uid fun c => { c with
        halt := if c.halt = .halted then .stepping else c.halt }) ∧
      ((∀ x ∈ s.crews, x.uid = c.uid → ∀ t ∈ x.threads, t.live = true → t.wb + 16 ≤ x.nregs) →
        exec (.dcmdResume wn) s = .next ((s.onCrew c.uid fun c => { c with halt := .running }).settle c.uid))) ∧
  (∀ (s : State) failed frames base wayl dies worlds cxl, s.plat.bootStep = 0 →
    ∃ t, exec (.powerOn failed frames base wayl dies worlds cxl) s = .next t ∧
      (1 ≤ failed → failed ≤ 7 → t.plat.bootStep = failed ∧ t.plat.bootFailed = true ∧ tabGet t.plat.measures 0 7 = 0 ∧
        (failed ≤ 6 → t.worlds = s.worlds) ∧ (failed ≤ 5 → t.plat.fcframes = s.plat.fcframes)) ∧
      ((failed = 0 ∨ 7 < failed) → t.plat.bootStep = 7 ∧ t.plat.bootFailed = s.plat.bootFailed ∧
        t.plat.fcframes = (if fcframesOk frames base then frames else 0) ∧ t.plat.fcbase = base ∧
        (2 ≤ wayl → wayl ≤ 16 → t.plat.wayl = wayl) ∧ (∀ d, d < 4 → t.plat.dieWorld.getD d 0 = dies.getD d 0 % 16) ∧
        (worlds = [] → t.worlds = s.worlds) ∧
        tabGet t.plat.measures 0 7 = Config.layoutDigest t.plat.dieWorld (t.worlds.map fun w => (w.num, w.regions)))) ∧
  (∀ (s : State), ∃ t u, exec .deviceReset s = .next t ∧ exec .powerLoss s = .next u ∧
    t.plat.secClock = s.plat.secClock ∧ s.plat.secClock < u.plat.secClock ∧ u.mem = [] ∧
    ∀ v ∈ [t, u], v.crews = [] ∧ v.units = [] ∧ v.worlds = State.reset.worlds ∧ v.launches = [] ∧ v.agenda = State.reset.agenda ∧
      v.ckpt = State.reset.ckpt ∧ v.plat.bootStep = 0 ∧ v.plat.hssUsed = s.plat.hssUsed) ∧
  (∀ (s : State) p, p ≤ 3 → (s.plat.thermal = false ∨ s.plat.pstate ≤ p) →
    exec (.powerStateChange p) s = .next { s with plat := { s.plat with pstate := p } }) ∧
  ∀ (s : State) j c, ∃ t, exec (.thermalThreshold (j, c)) s = .next t ∧ t = { s with plat := t.plat } ∧
    (∀ k, k ∈ t.plat.hot ↔ if k = j then 95 ≤ c else k ∈ s.plat.hot) ∧
    (115 ≤ c → t.plat.pstate = 3 ∧ t.plat.thermal = true) ∧
    (105 ≤ c → c < 115 → s.plat.pstate ≤ 3 → t.plat.pstate = min 3 (s.plat.pstate + 1) ∧ t.plat.thermal = true) ∧
    (c < 105 → t.plat.pstate = s.plat.pstate ∧
      (t.plat.thermal = true ↔ s.plat.thermal = true ∧ ∃ k, if k = j then 95 ≤ c else k ∈ s.plat.hot))

/-! ## The machine as a whole -/

/-- R308 to R312, with R53, R87, R103, R104, R152 and R153: a register outside the allocation, a marker read as floating
point, a privileged instruction in user mode and a misaligned address trap, with their causes, reasons and records. With S = 1
an instruction waits for what is pending; with S = 0 it raises DEPV, which is entered once that has landed. Of two marked
operands the record names A before B, which is the model's choice (log entry 24). -/
def Obligations.TrapConditions : Prop :=
  (∀ sw d a b s c u, Alone s c u → CanTrap s c u →
    (c.nregs ≤ u.wb + d.toNat → Traps (.add sw d a b) s c u 0x02 1 [u.wb + d.toNat, 0]) ∧
    (u.wb + d.toNat < c.nregs → c.nregs ≤ u.wb + a.toNat → Traps (.add sw d a b) s c u 0x02 2 [u.wb + a.toNat, 0]) ∧
    (u.wb + d.toNat < c.nregs → u.wb + a.toNat < c.nregs → c.nregs ≤ u.wb + b.toNat →
      Traps (.add sw d a b) s c u 0x02 3 [u.wb + b.toNat, 0])) ∧
  (∀ sw d a b s c u, Alone s c u → CanTrap s c u → regRange c u [dX d 1, aX a 1, bX b 1] = none →
    isMarker (u.x a.toNat) = true → Traps (.fadd sw d a b) s c u 0x04 0 [0, (u.x a.toNat).toNat % 256]) ∧
  (∀ sw d n s c u w, Alone s c u → CanTrap s c u → c.drip = none → s.iss.guard = none →
    (encode (.psrd sw d n) = some w → Traps (.psrd sw d n) s c u 0x01 3 [w.toNat]) ∧
    (encode (.pswr sw d n) = some w → Traps (.pswr sw d n) s c u 0x01 3 [w.toNat]) ∧
    (encode (.tret sw) = some w → Traps (.tret sw) s c u 0x01 3 [w.toNat])) ∧
  (∀ sw d a o s c u, AloneReady s c u sw [dX d 1, aX a 2] → CanTrap s c u → s.matrixWait c.uid u.lane = false →
    s.requestsFull c.core = false →
    let ea := (u.x64 a.toNat).toNat + o.toNat * 4
    ea % 4 ≠ 0 → TrapsFrom (loadStart s) (.ldW sw d a o) s c u 0x05 0 [ea % 2 ^ 32, ea / 2 ^ 32, 4] ∧
      Traps (.stW sw d a o) s c u 0x05 0 [ea % 2 ^ 32, ea / 2 ^ 32, 2 ^ 8 + 4]) ∧
  (∀ d a b s c u, Alone s c u → pendClear c u none = false →
    ∃ t, exec (.add true d a b) s = .next t ∧ Stays s t c u u) ∧
  ∀ d a b s c u pc, Alone s c u → regRange c u [dX d 1, aX a 1, bX b 1] = none → tabGet u.pendX none (u.wb + d.toNat) = some pc →
    ∃ t, exec (.add false d a b) s = .next t ∧ Stays s t c u { u with
      entering := some (mkTrap .depv 0 [0, u.wb + d.toNat, pc.toNat], u.pc) }

/-- R331, R338, R352, R388, R406, R425, R432: the creation of a world leaves the registers of its pages at the values of their
tables. What the device itself holds at reset is the model's choice (log entries 1 and 2): no crew, no world and no memory, an
unwritten byte reads 0, the start of R435 not yet begun, every port up, P0. -/
def Obligations.ResetValues : Prop :=
  (State.reset.crews = [] ∧ State.reset.units = [] ∧ State.reset.worlds = [] ∧ State.reset.launches = [] ∧
    State.reset.plat.bootStep = 0 ∧ State.reset.plat.portsUp = [0, 1, 2, 3, 4, 5, 6, 7] ∧ State.reset.plat.pstate = 0 ∧
    State.reset.memoriesOk = true ∧ ∀ pa, readB State.reset.mem pa = 0) ∧
  let s := { State.reset with worlds := [World.init 1] }
  (∀ off ∈ [0x00, 0x04, 0x0C, 0x10, 0x14, 0x18], s.regRead (.kick 1 0) off none = 0) ∧ s.regRead (.kick 1 0) 0x08 none = 4 ∧
  (∀ off ∈ [0x00, 0x04, 0x0C, 0x10, 0x14], s.regRead (.control 1) off none = 0) ∧ s.regRead (.control 1) 0x08 none = 4 ∧
  s.regRead (.control 1) 0x20 none = 1 ∧ s.regRead (.control 1) 0x28 none = 1 ∧
  (∀ off ∈ [0x00, 0x04, 0x0C, 0x10, 0x14], s.regRead (.np 1) off none = 0) ∧ s.regRead (.np 1) 0x08 none = 4 ∧
  s.regRead (.np 1) 0x18 none = 1 ∧ s.regRead (.fabric 1) 0x4C none = 60000 ∧
  (∀ off ∈ [0x00, 0x04, 0x0C, 0x10], s.regRead (.ring 1 0) off none = 0) ∧ s.regRead (.ring 1 0) 0x08 none = 4 ∧
  s.regRead (.debug 1) 0x08 none = 3 ∧ s.regRead (.debug 1) 0x88 none = 4 ∧
  (∀ off ∈ [0x00, 0x04, 0x10, 0x14, 0x18, 0x20, 0x24, 0x28], s.regRead (.trans 1) off none = 0)

/-- R144 to R160: words written out from their encodings decode to their instructions. -/
def Obligations.DecodedWords : Prop :=
  decodeWord 0x03004004 = .ok (.shl false 1 0 4) ∧
  decodeWord 0x0A101FF0 = .ok (.movh false 4 0x1FF0) ∧
  decodeWord 0x12010205 = .ok (.addUniform false 4 4 5) ∧
  decodeWord 0x3E000080 = .ok (.jr false 1) ∧
  decodeWord 0x0C404103 = .ok (.cmpLtSi32 false 1 2 3) ∧
  decodeWord 0x24408205 = .ok (.fcmpLt false 2 4 5) ∧
  decodeWord 0x36604780 = .ok (.pmov false 1 15) ∧
  decodeWord 0x3CE00008 = .ok (.call false false 7 8) ∧
  decodeWord 0x46201901 = .ok (.ldsW false 8 3 1 1) ∧
  decodeWord 0x56014138 = .ok (.atomAddSi32 false 5 2 0x38) ∧
  decodeWord 0x57418481 = .ok (.atomCasB32 false 6 9 1) ∧
  decodeWord 0x5C21C110 = .ok (.mredAddF32 false 7 2 0x10) ∧
  decodeWord 0x5EC28001 = .ok (.cbacq false 10 1) ∧
  decodeWord 0x6C200184 = .ok (.cncl false 0 3 4) ∧
  decodeWord 0x62650904 = .ok (.maccRd false 20 18 4) ∧
  decodeWord 0xE2C24500 = .ok (.mstat true 9 10) ∧
  decodeWord 0x6A008514 = .ok (.kvld false 2 10 20)

/-- R23, R51, R147 to R149: a step takes a caused event, releases a bin, or issues an instruction of one set: the word at the
set's PC, or the word after a prefix that the set has latched, executed for that set. A word that cannot be fetched or decoded
raises ILL in every thread of the set, and a held word issues later. In P3 no set issues, no bin is released and no step of the
compute dies is taken (R439). The order of events that reach one frame (R385) is in `State.turn`. -/
def Obligations.StepRunsDecoded : Prop :=
  (∀ (s : State) g c t, s.plat.pstate ≠ 3 → s.iss.guard = some g → s.crew s.iss.crew = some c →
    c.threads.find? (sel s.iss.set) = some t →
    ∀ w i, s.fetchWord (s.imageOf c t) (t.pc.toNat + 4) = some w → (s.throttled.contains c.uid && throttledWord w) = false →
      decodeWord w = .ok i →
      step s = exec i (s.onCrew c.uid fun x => { x with halt := s.beginStep x s.iss.set (some w) })) ∧
  (∀ (s : State), (s.plat.pstate = 3 ∨ s.iss.guard = none) →
    let r := { s with sched := s.sched.tail }
    let m := s.moves[s.sched.headD 0 % s.moves.length]?
    (m = none → step s = .next r) ∧
    (∀ k e, m = some (.agenda k) → s.agenda[s.turn k]? = some e →
      step s = exec e.instr { r with agenda := s.agenda.eraseIdx (s.turn k) }) ∧
    (s.plat.pstate = 3 → (∀ uid k, m ≠ some (.set uid k)) ∧ (∀ q, m ≠ some (.bin q)) ∧
      ∀ k e, m = some (.agenda k) → s.agenda[k]? = some e → e.onDies = false) ∧
    (∀ q, m = some (.bin q) → step s = exec (.binRelease q) r) ∧
    (m = some .chiplet → step s = .next r.rvPerform) ∧
    ∀ uid k c t, m = some (.set uid k) → s.crew uid = some c → c.threads.find? (sel k) = some t →
      let word := r.fetchWord (r.imageOf c t) t.pc.toNat
      let s' := { (r.onCrew uid fun x => { x with halt := r.beginStep x k word }) with iss := ⟨uid, k, none⟩ }
      (word = none → step s = .next (s'.illSet uid k (mkTrap .ill 6 [0]))) ∧
      ∀ w, word = some w →
        (s.throttled.contains c.uid = true → throttledWord w = true → step s = .next { s' with iss := ⟨0, 0, none⟩ }) ∧
        ((s.throttled.contains c.uid && throttledWord w) = false →
          (∀ i, decodeWord w = .ok i → step s = exec i s') ∧
          ((w.extractLsb' 25 6 ≠ 62#6) →
            (decodeWord w = .error .unassigned → step s = .next (s'.illSet uid k (mkTrap .ill 1 [w.toNat]))) ∧
            (decodeWord w = .error .reserved → step s = .next (s'.illSet uid k (mkTrap .ill 2 [w.toNat])))))) ∧
  ∀ (s : State) (im : Image) pc, pc % 4 = 0 → pc + 4 ≤ im.len → ∀ pa, im.pages[pc / 4096]? = some pa →
    s.fetchWord im pc = some (wordOfBytes (readB s.mem (pa + pc % 4096)) (readB s.mem (pa + pc % 4096 + 1))
      (readB s.mem (pa + pc % 4096 + 2)) (readB s.mem (pa + pc % 4096 + 3)))

/-- R144 to R160: decoding gives back every well-formed instruction from its word, and a word that decodes is the word of the
well-formed instruction it decodes to: no bit is dropped, and no two words share an instruction. -/
def Obligations.EncodeDecode : Prop :=
  (∀ i w, encode i = some w → i.wellFormed = true → decodeWord w = .ok i) ∧
  (∀ w i, decodeWord w = .ok i → encode i = some w ∧ i.wellFormed = true) ∧
  ∀ i w rest, encode i = some w → i.wellFormed = true → decodeBytes (bytesOfWord w ++ rest) = .ok (i, rest)

/-- No instruction stops the machine: `exec` answers a next state for every instruction and event once the state names a set
that issues, and a step answers a next state from every state. What fails is a trap, a refusal in a record, or no effect
(R148, R308). -/
def Obligations.NothingStops : Prop :=
  (∀ (i : Instr) (s : State), s.hasIssue = true → ∃ t, exec i s = .next t) ∧
  (∀ (i : Instr) (s : State), encode i = none → ∃ t, exec i s = .next t) ∧
  (∀ (s : State), ∃ t, step s = .next t) ∧ ∀ k s, SafeFor k s

/-- Every operation that writes physical memory keeps its canonical form, and bytes stored are read back and leave every other
byte alone; so do the two starts of the device. -/
def Obligations.MemoryForm : Prop :=
  (∀ (s : State) pa l, s.memOk = true → (s.storePA pa l).memOk = true ∧
    (∀ k, (h : k < l.length) → readB (s.storePA pa l).mem (pa + k) = l[k]) ∧
    ∀ a, (a < pa ∨ pa + l.length ≤ a) → readB (s.storePA pa l).mem a = readB s.mem a) ∧
  (∀ (s : State) rs, s.memOk = true → (s.scramble rs).memOk = true ∧ ∀ a,
    readB (s.scramble rs).mem a = if a / 2 ^ 30 ∈ rs then Config.scrambled s.freeCtr a else readB s.mem a) ∧
  (∀ (s : State) pa l, s.memOk = true → (s.writeSegment pa l).memOk = true ∧
    ∀ a, (a < pa ∨ pa + segBytes ≤ a) → readB (s.writeSegment pa l).mem a = readB s.mem a) ∧
  ∀ (s : State) i t, s.memOk = true → (i = .deviceReset ∨ i = .powerLoss) → exec i s = .next t → t.memOk = true

/-- The model's choice (log entry 1: a byte that nothing has written reads 0, and a memory lists no such byte). Whatever an
instruction or an event does, and whatever a step does, a memory in canonical form stays in canonical form. -/
def Obligations.StepsKeepMemoryForm : Prop :=
  (∀ (i : Instr) (s t : State), s.memOk = true → exec i s = .next t → t.memOk = true) ∧
  ∀ s t : State, s.memOk = true → step s = .next t → t.memOk = true
end

