-- ==== Sys2Proof/Laws/State.lean ====
section
/-! SUPPORT. What each update of the state leaves: one lemma per field per update. -/

namespace Sys2Proof.Machine

/-! ## onCrew -/

@[simp] theorem State.onCrew_sched (s : State) (uid : Nat) (f : Crew → Crew) : (s.onCrew uid f).sched = s.sched := rfl
@[simp] theorem State.onCrew_agenda (s : State) (uid : Nat) (f : Crew → Crew) : (s.onCrew uid f).agenda = s.agenda := rfl
@[simp] theorem State.onCrew_iss (s : State) (uid : Nat) (f : Crew → Crew) : (s.onCrew uid f).iss = s.iss := rfl
@[simp] theorem State.onCrew_mem (s : State) (uid : Nat) (f : Crew → Crew) : (s.onCrew uid f).mem = s.mem := rfl
@[simp] theorem State.onCrew_poison (s : State) (uid : Nat) (f : Crew → Crew) : (s.onCrew uid f).poison = s.poison := rfl
@[simp] theorem State.onCrew_units (s : State) (uid : Nat) (f : Crew → Crew) : (s.onCrew uid f).units = s.units := rfl
@[simp] theorem State.onCrew_launches (s : State) (uid : Nat) (f : Crew → Crew) : (s.onCrew uid f).launches = s.launches := rfl
@[simp] theorem State.onCrew_graphs (s : State) (uid : Nat) (f : Crew → Crew) : (s.onCrew uid f).graphs = s.graphs := rfl
@[simp] theorem State.onCrew_quarters (s : State) (uid : Nat) (f : Crew → Crew) : (s.onCrew uid f).quarters = s.quarters := rfl
@[simp] theorem State.onCrew_entries (s : State) (uid : Nat) (f : Crew → Crew) : (s.onCrew uid f).entries = s.entries := rfl
@[simp] theorem State.onCrew_mcmds (s : State) (uid : Nat) (f : Crew → Crew) : (s.onCrew uid f).mcmds = s.mcmds := rfl
@[simp] theorem State.onCrew_landings (s : State) (uid : Nat) (f : Crew → Crew) : (s.onCrew uid f).landings = s.landings := rfl
@[simp] theorem State.onCrew_stores (s : State) (uid : Nat) (f : Crew → Crew) : (s.onCrew uid f).stores = s.stores := rfl
@[simp] theorem State.onCrew_recs (s : State) (uid : Nat) (f : Crew → Crew) : (s.onCrew uid f).recs = s.recs := rfl
@[simp] theorem State.onCrew_older (s : State) (uid : Nat) (f : Crew → Crew) : (s.onCrew uid f).older = s.older := rfl
@[simp] theorem State.onCrew_recWaits (s : State) (uid : Nat) (f : Crew → Crew) : (s.onCrew uid f).recWaits = s.recWaits := rfl
@[simp] theorem State.onCrew_touched (s : State) (uid : Nat) (f : Crew → Crew) : (s.onCrew uid f).touched = s.touched := rfl
@[simp] theorem State.onCrew_groups (s : State) (uid : Nat) (f : Crew → Crew) : (s.onCrew uid f).groups = s.groups := rfl
@[simp] theorem State.onCrew_bursts (s : State) (uid : Nat) (f : Crew → Crew) : (s.onCrew uid f).bursts = s.bursts := rfl
@[simp] theorem State.onCrew_gangs (s : State) (uid : Nat) (f : Crew → Crew) : (s.onCrew uid f).gangs = s.gangs := rfl
@[simp] theorem State.onCrew_reserved (s : State) (uid : Nat) (f : Crew → Crew) : (s.onCrew uid f).reserved = s.reserved := rfl
@[simp] theorem State.onCrew_frames (s : State) (uid : Nat) (f : Crew → Crew) : (s.onCrew uid f).frames = s.frames := rfl
@[simp] theorem State.onCrew_faultq (s : State) (uid : Nat) (f : Crew → Crew) : (s.onCrew uid f).faultq = s.faultq := rfl
@[simp] theorem State.onCrew_services (s : State) (uid : Nat) (f : Crew → Crew) : (s.onCrew uid f).services = s.services := rfl
@[simp] theorem State.onCrew_dir (s : State) (uid : Nat) (f : Crew → Crew) : (s.onCrew uid f).dir = s.dir := rfl
@[simp] theorem State.onCrew_owned (s : State) (uid : Nat) (f : Crew → Crew) : (s.onCrew uid f).owned = s.owned := rfl
@[simp] theorem State.onCrew_seqs (s : State) (uid : Nat) (f : Crew → Crew) : (s.onCrew uid f).seqs = s.seqs := rfl
@[simp] theorem State.onCrew_roosts (s : State) (uid : Nat) (f : Crew → Crew) : (s.onCrew uid f).roosts = s.roosts := rfl
@[simp] theorem State.onCrew_lines (s : State) (uid : Nat) (f : Crew → Crew) : (s.onCrew uid f).lines = s.lines := rfl
@[simp] theorem State.onCrew_flying (s : State) (uid : Nat) (f : Crew → Crew) : (s.onCrew uid f).flying = s.flying := rfl
@[simp] theorem State.onCrew_l1 (s : State) (uid : Nat) (f : Crew → Crew) : (s.onCrew uid f).l1 = s.l1 := rfl
@[simp] theorem State.onCrew_vtags (s : State) (uid : Nat) (f : Crew → Crew) : (s.onCrew uid f).vtags = s.vtags := rfl
@[simp] theorem State.onCrew_scores (s : State) (uid : Nat) (f : Crew → Crew) : (s.onCrew uid f).scores = s.scores := rfl
@[simp] theorem State.onCrew_throttled (s : State) (uid : Nat) (f : Crew → Crew) : (s.onCrew uid f).throttled = s.throttled := rfl
@[simp] theorem State.onCrew_swapped (s : State) (uid : Nat) (f : Crew → Crew) : (s.onCrew uid f).swapped = s.swapped := rfl
@[simp] theorem State.onCrew_rvOps (s : State) (uid : Nat) (f : Crew → Crew) : (s.onCrew uid f).rvOps = s.rvOps := rfl
@[simp] theorem State.onCrew_worlds (s : State) (uid : Nat) (f : Crew → Crew) : (s.onCrew uid f).worlds = s.worlds := rfl
@[simp] theorem State.onCrew_ckpt (s : State) (uid : Nat) (f : Crew → Crew) : (s.onCrew uid f).ckpt = s.ckpt := rfl
@[simp] theorem State.onCrew_plat (s : State) (uid : Nat) (f : Crew → Crew) : (s.onCrew uid f).plat = s.plat := rfl
@[simp] theorem State.onCrew_mimage (s : State) (uid : Nat) (f : Crew → Crew) : (s.onCrew uid f).mimage = s.mimage := rfl
@[simp] theorem State.onCrew_nextId (s : State) (uid : Nat) (f : Crew → Crew) : (s.onCrew uid f).nextId = s.nextId := rfl
@[simp] theorem State.onCrew_clock (s : State) (uid : Nat) (f : Crew → Crew) : (s.onCrew uid f).clock = s.clock := rfl
@[simp] theorem State.onCrew_freeCtr (s : State) (uid : Nat) (f : Crew → Crew) : (s.onCrew uid f).freeCtr = s.freeCtr := rfl
@[simp] theorem State.onCrew_outbox (s : State) (uid : Nat) (f : Crew → Crew) : (s.onCrew uid f).outbox = s.outbox := rfl

/-! ## onLane -/

@[simp] theorem State.onLane_sched (s : State) (uid lane : Nat) (f : Thread → Thread) : (s.onLane uid lane f).sched = s.sched := rfl
@[simp] theorem State.onLane_agenda (s : State) (uid lane : Nat) (f : Thread → Thread) : (s.onLane uid lane f).agenda = s.agenda := rfl
@[simp] theorem State.onLane_iss (s : State) (uid lane : Nat) (f : Thread → Thread) : (s.onLane uid lane f).iss = s.iss := rfl
@[simp] theorem State.onLane_mem (s : State) (uid lane : Nat) (f : Thread → Thread) : (s.onLane uid lane f).mem = s.mem := rfl
@[simp] theorem State.onLane_poison (s : State) (uid lane : Nat) (f : Thread → Thread) : (s.onLane uid lane f).poison = s.poison := rfl
@[simp] theorem State.onLane_units (s : State) (uid lane : Nat) (f : Thread → Thread) : (s.onLane uid lane f).units = s.units := rfl
@[simp] theorem State.onLane_launches (s : State) (uid lane : Nat) (f : Thread → Thread) : (s.onLane uid lane f).launches = s.launches := rfl
@[simp] theorem State.onLane_graphs (s : State) (uid lane : Nat) (f : Thread → Thread) : (s.onLane uid lane f).graphs = s.graphs := rfl
@[simp] theorem State.onLane_quarters (s : State) (uid lane : Nat) (f : Thread → Thread) : (s.onLane uid lane f).quarters = s.quarters := rfl
@[simp] theorem State.onLane_entries (s : State) (uid lane : Nat) (f : Thread → Thread) : (s.onLane uid lane f).entries = s.entries := rfl
@[simp] theorem State.onLane_mcmds (s : State) (uid lane : Nat) (f : Thread → Thread) : (s.onLane uid lane f).mcmds = s.mcmds := rfl
@[simp] theorem State.onLane_landings (s : State) (uid lane : Nat) (f : Thread → Thread) : (s.onLane uid lane f).landings = s.landings := rfl
@[simp] theorem State.onLane_stores (s : State) (uid lane : Nat) (f : Thread → Thread) : (s.onLane uid lane f).stores = s.stores := rfl
@[simp] theorem State.onLane_recs (s : State) (uid lane : Nat) (f : Thread → Thread) : (s.onLane uid lane f).recs = s.recs := rfl
@[simp] theorem State.onLane_older (s : State) (uid lane : Nat) (f : Thread → Thread) : (s.onLane uid lane f).older = s.older := rfl
@[simp] theorem State.onLane_recWaits (s : State) (uid lane : Nat) (f : Thread → Thread) : (s.onLane uid lane f).recWaits = s.recWaits := rfl
@[simp] theorem State.onLane_touched (s : State) (uid lane : Nat) (f : Thread → Thread) : (s.onLane uid lane f).touched = s.touched := rfl
@[simp] theorem State.onLane_groups (s : State) (uid lane : Nat) (f : Thread → Thread) : (s.onLane uid lane f).groups = s.groups := rfl
@[simp] theorem State.onLane_bursts (s : State) (uid lane : Nat) (f : Thread → Thread) : (s.onLane uid lane f).bursts = s.bursts := rfl
@[simp] theorem State.onLane_gangs (s : State) (uid lane : Nat) (f : Thread → Thread) : (s.onLane uid lane f).gangs = s.gangs := rfl
@[simp] theorem State.onLane_reserved (s : State) (uid lane : Nat) (f : Thread → Thread) : (s.onLane uid lane f).reserved = s.reserved := rfl
@[simp] theorem State.onLane_frames (s : State) (uid lane : Nat) (f : Thread → Thread) : (s.onLane uid lane f).frames = s.frames := rfl
@[simp] theorem State.onLane_faultq (s : State) (uid lane : Nat) (f : Thread → Thread) : (s.onLane uid lane f).faultq = s.faultq := rfl
@[simp] theorem State.onLane_services (s : State) (uid lane : Nat) (f : Thread → Thread) : (s.onLane uid lane f).services = s.services := rfl
@[simp] theorem State.onLane_dir (s : State) (uid lane : Nat) (f : Thread → Thread) : (s.onLane uid lane f).dir = s.dir := rfl
@[simp] theorem State.onLane_owned (s : State) (uid lane : Nat) (f : Thread → Thread) : (s.onLane uid lane f).owned = s.owned := rfl
@[simp] theorem State.onLane_seqs (s : State) (uid lane : Nat) (f : Thread → Thread) : (s.onLane uid lane f).seqs = s.seqs := rfl
@[simp] theorem State.onLane_roosts (s : State) (uid lane : Nat) (f : Thread → Thread) : (s.onLane uid lane f).roosts = s.roosts := rfl
@[simp] theorem State.onLane_lines (s : State) (uid lane : Nat) (f : Thread → Thread) : (s.onLane uid lane f).lines = s.lines := rfl
@[simp] theorem State.onLane_flying (s : State) (uid lane : Nat) (f : Thread → Thread) : (s.onLane uid lane f).flying = s.flying := rfl
@[simp] theorem State.onLane_l1 (s : State) (uid lane : Nat) (f : Thread → Thread) : (s.onLane uid lane f).l1 = s.l1 := rfl
@[simp] theorem State.onLane_vtags (s : State) (uid lane : Nat) (f : Thread → Thread) : (s.onLane uid lane f).vtags = s.vtags := rfl
@[simp] theorem State.onLane_scores (s : State) (uid lane : Nat) (f : Thread → Thread) : (s.onLane uid lane f).scores = s.scores := rfl
@[simp] theorem State.onLane_throttled (s : State) (uid lane : Nat) (f : Thread → Thread) : (s.onLane uid lane f).throttled = s.throttled := rfl
@[simp] theorem State.onLane_swapped (s : State) (uid lane : Nat) (f : Thread → Thread) : (s.onLane uid lane f).swapped = s.swapped := rfl
@[simp] theorem State.onLane_rvOps (s : State) (uid lane : Nat) (f : Thread → Thread) : (s.onLane uid lane f).rvOps = s.rvOps := rfl
@[simp] theorem State.onLane_worlds (s : State) (uid lane : Nat) (f : Thread → Thread) : (s.onLane uid lane f).worlds = s.worlds := rfl
@[simp] theorem State.onLane_ckpt (s : State) (uid lane : Nat) (f : Thread → Thread) : (s.onLane uid lane f).ckpt = s.ckpt := rfl
@[simp] theorem State.onLane_plat (s : State) (uid lane : Nat) (f : Thread → Thread) : (s.onLane uid lane f).plat = s.plat := rfl
@[simp] theorem State.onLane_mimage (s : State) (uid lane : Nat) (f : Thread → Thread) : (s.onLane uid lane f).mimage = s.mimage := rfl
@[simp] theorem State.onLane_nextId (s : State) (uid lane : Nat) (f : Thread → Thread) : (s.onLane uid lane f).nextId = s.nextId := rfl
@[simp] theorem State.onLane_clock (s : State) (uid lane : Nat) (f : Thread → Thread) : (s.onLane uid lane f).clock = s.clock := rfl
@[simp] theorem State.onLane_freeCtr (s : State) (uid lane : Nat) (f : Thread → Thread) : (s.onLane uid lane f).freeCtr = s.freeCtr := rfl
@[simp] theorem State.onLane_outbox (s : State) (uid lane : Nat) (f : Thread → Thread) : (s.onLane uid lane f).outbox = s.outbox := rfl

/-! ## onUnit -/

@[simp] theorem State.onUnit_sched (s : State) (uid : Nat) (f : BUnit → BUnit) : (s.onUnit uid f).sched = s.sched := rfl
@[simp] theorem State.onUnit_agenda (s : State) (uid : Nat) (f : BUnit → BUnit) : (s.onUnit uid f).agenda = s.agenda := rfl
@[simp] theorem State.onUnit_iss (s : State) (uid : Nat) (f : BUnit → BUnit) : (s.onUnit uid f).iss = s.iss := rfl
@[simp] theorem State.onUnit_mem (s : State) (uid : Nat) (f : BUnit → BUnit) : (s.onUnit uid f).mem = s.mem := rfl
@[simp] theorem State.onUnit_poison (s : State) (uid : Nat) (f : BUnit → BUnit) : (s.onUnit uid f).poison = s.poison := rfl
@[simp] theorem State.onUnit_crews (s : State) (uid : Nat) (f : BUnit → BUnit) : (s.onUnit uid f).crews = s.crews := rfl
@[simp] theorem State.onUnit_launches (s : State) (uid : Nat) (f : BUnit → BUnit) : (s.onUnit uid f).launches = s.launches := rfl
@[simp] theorem State.onUnit_graphs (s : State) (uid : Nat) (f : BUnit → BUnit) : (s.onUnit uid f).graphs = s.graphs := rfl
@[simp] theorem State.onUnit_quarters (s : State) (uid : Nat) (f : BUnit → BUnit) : (s.onUnit uid f).quarters = s.quarters := rfl
@[simp] theorem State.onUnit_entries (s : State) (uid : Nat) (f : BUnit → BUnit) : (s.onUnit uid f).entries = s.entries := rfl
@[simp] theorem State.onUnit_mcmds (s : State) (uid : Nat) (f : BUnit → BUnit) : (s.onUnit uid f).mcmds = s.mcmds := rfl
@[simp] theorem State.onUnit_landings (s : State) (uid : Nat) (f : BUnit → BUnit) : (s.onUnit uid f).landings = s.landings := rfl
@[simp] theorem State.onUnit_stores (s : State) (uid : Nat) (f : BUnit → BUnit) : (s.onUnit uid f).stores = s.stores := rfl
@[simp] theorem State.onUnit_recs (s : State) (uid : Nat) (f : BUnit → BUnit) : (s.onUnit uid f).recs = s.recs := rfl
@[simp] theorem State.onUnit_older (s : State) (uid : Nat) (f : BUnit → BUnit) : (s.onUnit uid f).older = s.older := rfl
@[simp] theorem State.onUnit_recWaits (s : State) (uid : Nat) (f : BUnit → BUnit) : (s.onUnit uid f).recWaits = s.recWaits := rfl
@[simp] theorem State.onUnit_touched (s : State) (uid : Nat) (f : BUnit → BUnit) : (s.onUnit uid f).touched = s.touched := rfl
@[simp] theorem State.onUnit_groups (s : State) (uid : Nat) (f : BUnit → BUnit) : (s.onUnit uid f).groups = s.groups := rfl
@[simp] theorem State.onUnit_bursts (s : State) (uid : Nat) (f : BUnit → BUnit) : (s.onUnit uid f).bursts = s.bursts := rfl
@[simp] theorem State.onUnit_gangs (s : State) (uid : Nat) (f : BUnit → BUnit) : (s.onUnit uid f).gangs = s.gangs := rfl
@[simp] theorem State.onUnit_reserved (s : State) (uid : Nat) (f : BUnit → BUnit) : (s.onUnit uid f).reserved = s.reserved := rfl
@[simp] theorem State.onUnit_frames (s : State) (uid : Nat) (f : BUnit → BUnit) : (s.onUnit uid f).frames = s.frames := rfl
@[simp] theorem State.onUnit_faultq (s : State) (uid : Nat) (f : BUnit → BUnit) : (s.onUnit uid f).faultq = s.faultq := rfl
@[simp] theorem State.onUnit_services (s : State) (uid : Nat) (f : BUnit → BUnit) : (s.onUnit uid f).services = s.services := rfl
@[simp] theorem State.onUnit_dir (s : State) (uid : Nat) (f : BUnit → BUnit) : (s.onUnit uid f).dir = s.dir := rfl
@[simp] theorem State.onUnit_owned (s : State) (uid : Nat) (f : BUnit → BUnit) : (s.onUnit uid f).owned = s.owned := rfl
@[simp] theorem State.onUnit_seqs (s : State) (uid : Nat) (f : BUnit → BUnit) : (s.onUnit uid f).seqs = s.seqs := rfl
@[simp] theorem State.onUnit_roosts (s : State) (uid : Nat) (f : BUnit → BUnit) : (s.onUnit uid f).roosts = s.roosts := rfl
@[simp] theorem State.onUnit_lines (s : State) (uid : Nat) (f : BUnit → BUnit) : (s.onUnit uid f).lines = s.lines := rfl
@[simp] theorem State.onUnit_flying (s : State) (uid : Nat) (f : BUnit → BUnit) : (s.onUnit uid f).flying = s.flying := rfl
@[simp] theorem State.onUnit_l1 (s : State) (uid : Nat) (f : BUnit → BUnit) : (s.onUnit uid f).l1 = s.l1 := rfl
@[simp] theorem State.onUnit_vtags (s : State) (uid : Nat) (f : BUnit → BUnit) : (s.onUnit uid f).vtags = s.vtags := rfl
@[simp] theorem State.onUnit_scores (s : State) (uid : Nat) (f : BUnit → BUnit) : (s.onUnit uid f).scores = s.scores := rfl
@[simp] theorem State.onUnit_throttled (s : State) (uid : Nat) (f : BUnit → BUnit) : (s.onUnit uid f).throttled = s.throttled := rfl
@[simp] theorem State.onUnit_swapped (s : State) (uid : Nat) (f : BUnit → BUnit) : (s.onUnit uid f).swapped = s.swapped := rfl
@[simp] theorem State.onUnit_rvOps (s : State) (uid : Nat) (f : BUnit → BUnit) : (s.onUnit uid f).rvOps = s.rvOps := rfl
@[simp] theorem State.onUnit_worlds (s : State) (uid : Nat) (f : BUnit → BUnit) : (s.onUnit uid f).worlds = s.worlds := rfl
@[simp] theorem State.onUnit_ckpt (s : State) (uid : Nat) (f : BUnit → BUnit) : (s.onUnit uid f).ckpt = s.ckpt := rfl
@[simp] theorem State.onUnit_plat (s : State) (uid : Nat) (f : BUnit → BUnit) : (s.onUnit uid f).plat = s.plat := rfl
@[simp] theorem State.onUnit_mimage (s : State) (uid : Nat) (f : BUnit → BUnit) : (s.onUnit uid f).mimage = s.mimage := rfl
@[simp] theorem State.onUnit_nextId (s : State) (uid : Nat) (f : BUnit → BUnit) : (s.onUnit uid f).nextId = s.nextId := rfl
@[simp] theorem State.onUnit_clock (s : State) (uid : Nat) (f : BUnit → BUnit) : (s.onUnit uid f).clock = s.clock := rfl
@[simp] theorem State.onUnit_freeCtr (s : State) (uid : Nat) (f : BUnit → BUnit) : (s.onUnit uid f).freeCtr = s.freeCtr := rfl
@[simp] theorem State.onUnit_outbox (s : State) (uid : Nat) (f : BUnit → BUnit) : (s.onUnit uid f).outbox = s.outbox := rfl

/-! ## onLaunch -/

@[simp] theorem State.onLaunch_sched (s : State) (w : Nat) (h : Word) (f : Launch → Launch) : (s.onLaunch w h f).sched = s.sched := rfl
@[simp] theorem State.onLaunch_agenda (s : State) (w : Nat) (h : Word) (f : Launch → Launch) : (s.onLaunch w h f).agenda = s.agenda := rfl
@[simp] theorem State.onLaunch_iss (s : State) (w : Nat) (h : Word) (f : Launch → Launch) : (s.onLaunch w h f).iss = s.iss := rfl
@[simp] theorem State.onLaunch_mem (s : State) (w : Nat) (h : Word) (f : Launch → Launch) : (s.onLaunch w h f).mem = s.mem := rfl
@[simp] theorem State.onLaunch_poison (s : State) (w : Nat) (h : Word) (f : Launch → Launch) : (s.onLaunch w h f).poison = s.poison := rfl
@[simp] theorem State.onLaunch_crews (s : State) (w : Nat) (h : Word) (f : Launch → Launch) : (s.onLaunch w h f).crews = s.crews := rfl
@[simp] theorem State.onLaunch_units (s : State) (w : Nat) (h : Word) (f : Launch → Launch) : (s.onLaunch w h f).units = s.units := rfl
@[simp] theorem State.onLaunch_graphs (s : State) (w : Nat) (h : Word) (f : Launch → Launch) : (s.onLaunch w h f).graphs = s.graphs := rfl
@[simp] theorem State.onLaunch_quarters (s : State) (w : Nat) (h : Word) (f : Launch → Launch) : (s.onLaunch w h f).quarters = s.quarters := rfl
@[simp] theorem State.onLaunch_entries (s : State) (w : Nat) (h : Word) (f : Launch → Launch) : (s.onLaunch w h f).entries = s.entries := rfl
@[simp] theorem State.onLaunch_mcmds (s : State) (w : Nat) (h : Word) (f : Launch → Launch) : (s.onLaunch w h f).mcmds = s.mcmds := rfl
@[simp] theorem State.onLaunch_landings (s : State) (w : Nat) (h : Word) (f : Launch → Launch) : (s.onLaunch w h f).landings = s.landings := rfl
@[simp] theorem State.onLaunch_stores (s : State) (w : Nat) (h : Word) (f : Launch → Launch) : (s.onLaunch w h f).stores = s.stores := rfl
@[simp] theorem State.onLaunch_recs (s : State) (w : Nat) (h : Word) (f : Launch → Launch) : (s.onLaunch w h f).recs = s.recs := rfl
@[simp] theorem State.onLaunch_older (s : State) (w : Nat) (h : Word) (f : Launch → Launch) : (s.onLaunch w h f).older = s.older := rfl
@[simp] theorem State.onLaunch_recWaits (s : State) (w : Nat) (h : Word) (f : Launch → Launch) : (s.onLaunch w h f).recWaits = s.recWaits := rfl
@[simp] theorem State.onLaunch_touched (s : State) (w : Nat) (h : Word) (f : Launch → Launch) : (s.onLaunch w h f).touched = s.touched := rfl
@[simp] theorem State.onLaunch_groups (s : State) (w : Nat) (h : Word) (f : Launch → Launch) : (s.onLaunch w h f).groups = s.groups := rfl
@[simp] theorem State.onLaunch_bursts (s : State) (w : Nat) (h : Word) (f : Launch → Launch) : (s.onLaunch w h f).bursts = s.bursts := rfl
@[simp] theorem State.onLaunch_gangs (s : State) (w : Nat) (h : Word) (f : Launch → Launch) : (s.onLaunch w h f).gangs = s.gangs := rfl
@[simp] theorem State.onLaunch_reserved (s : State) (w : Nat) (h : Word) (f : Launch → Launch) : (s.onLaunch w h f).reserved = s.reserved := rfl
@[simp] theorem State.onLaunch_frames (s : State) (w : Nat) (h : Word) (f : Launch → Launch) : (s.onLaunch w h f).frames = s.frames := rfl
@[simp] theorem State.onLaunch_faultq (s : State) (w : Nat) (h : Word) (f : Launch → Launch) : (s.onLaunch w h f).faultq = s.faultq := rfl
@[simp] theorem State.onLaunch_services (s : State) (w : Nat) (h : Word) (f : Launch → Launch) : (s.onLaunch w h f).services = s.services := rfl
@[simp] theorem State.onLaunch_dir (s : State) (w : Nat) (h : Word) (f : Launch → Launch) : (s.onLaunch w h f).dir = s.dir := rfl
@[simp] theorem State.onLaunch_owned (s : State) (w : Nat) (h : Word) (f : Launch → Launch) : (s.onLaunch w h f).owned = s.owned := rfl
@[simp] theorem State.onLaunch_seqs (s : State) (w : Nat) (h : Word) (f : Launch → Launch) : (s.onLaunch w h f).seqs = s.seqs := rfl
@[simp] theorem State.onLaunch_roosts (s : State) (w : Nat) (h : Word) (f : Launch → Launch) : (s.onLaunch w h f).roosts = s.roosts := rfl
@[simp] theorem State.onLaunch_lines (s : State) (w : Nat) (h : Word) (f : Launch → Launch) : (s.onLaunch w h f).lines = s.lines := rfl
@[simp] theorem State.onLaunch_flying (s : State) (w : Nat) (h : Word) (f : Launch → Launch) : (s.onLaunch w h f).flying = s.flying := rfl
@[simp] theorem State.onLaunch_l1 (s : State) (w : Nat) (h : Word) (f : Launch → Launch) : (s.onLaunch w h f).l1 = s.l1 := rfl
@[simp] theorem State.onLaunch_vtags (s : State) (w : Nat) (h : Word) (f : Launch → Launch) : (s.onLaunch w h f).vtags = s.vtags := rfl
@[simp] theorem State.onLaunch_scores (s : State) (w : Nat) (h : Word) (f : Launch → Launch) : (s.onLaunch w h f).scores = s.scores := rfl
@[simp] theorem State.onLaunch_throttled (s : State) (w : Nat) (h : Word) (f : Launch → Launch) : (s.onLaunch w h f).throttled = s.throttled := rfl
@[simp] theorem State.onLaunch_swapped (s : State) (w : Nat) (h : Word) (f : Launch → Launch) : (s.onLaunch w h f).swapped = s.swapped := rfl
@[simp] theorem State.onLaunch_rvOps (s : State) (w : Nat) (h : Word) (f : Launch → Launch) : (s.onLaunch w h f).rvOps = s.rvOps := rfl
@[simp] theorem State.onLaunch_worlds (s : State) (w : Nat) (h : Word) (f : Launch → Launch) : (s.onLaunch w h f).worlds = s.worlds := rfl
@[simp] theorem State.onLaunch_ckpt (s : State) (w : Nat) (h : Word) (f : Launch → Launch) : (s.onLaunch w h f).ckpt = s.ckpt := rfl
@[simp] theorem State.onLaunch_plat (s : State) (w : Nat) (h : Word) (f : Launch → Launch) : (s.onLaunch w h f).plat = s.plat := rfl
@[simp] theorem State.onLaunch_mimage (s : State) (w : Nat) (h : Word) (f : Launch → Launch) : (s.onLaunch w h f).mimage = s.mimage := rfl
@[simp] theorem State.onLaunch_nextId (s : State) (w : Nat) (h : Word) (f : Launch → Launch) : (s.onLaunch w h f).nextId = s.nextId := rfl
@[simp] theorem State.onLaunch_clock (s : State) (w : Nat) (h : Word) (f : Launch → Launch) : (s.onLaunch w h f).clock = s.clock := rfl
@[simp] theorem State.onLaunch_freeCtr (s : State) (w : Nat) (h : Word) (f : Launch → Launch) : (s.onLaunch w h f).freeCtr = s.freeCtr := rfl
@[simp] theorem State.onLaunch_outbox (s : State) (w : Nat) (h : Word) (f : Launch → Launch) : (s.onLaunch w h f).outbox = s.outbox := rfl

/-! ## onGraph -/

@[simp] theorem State.onGraph_sched (s : State) (w : Nat) (h : Word) (f : Graph → Graph) : (s.onGraph w h f).sched = s.sched := rfl
@[simp] theorem State.onGraph_agenda (s : State) (w : Nat) (h : Word) (f : Graph → Graph) : (s.onGraph w h f).agenda = s.agenda := rfl
@[simp] theorem State.onGraph_iss (s : State) (w : Nat) (h : Word) (f : Graph → Graph) : (s.onGraph w h f).iss = s.iss := rfl
@[simp] theorem State.onGraph_mem (s : State) (w : Nat) (h : Word) (f : Graph → Graph) : (s.onGraph w h f).mem = s.mem := rfl
@[simp] theorem State.onGraph_poison (s : State) (w : Nat) (h : Word) (f : Graph → Graph) : (s.onGraph w h f).poison = s.poison := rfl
@[simp] theorem State.onGraph_crews (s : State) (w : Nat) (h : Word) (f : Graph → Graph) : (s.onGraph w h f).crews = s.crews := rfl
@[simp] theorem State.onGraph_units (s : State) (w : Nat) (h : Word) (f : Graph → Graph) : (s.onGraph w h f).units = s.units := rfl
@[simp] theorem State.onGraph_launches (s : State) (w : Nat) (h : Word) (f : Graph → Graph) : (s.onGraph w h f).launches = s.launches := rfl
@[simp] theorem State.onGraph_quarters (s : State) (w : Nat) (h : Word) (f : Graph → Graph) : (s.onGraph w h f).quarters = s.quarters := rfl
@[simp] theorem State.onGraph_entries (s : State) (w : Nat) (h : Word) (f : Graph → Graph) : (s.onGraph w h f).entries = s.entries := rfl
@[simp] theorem State.onGraph_mcmds (s : State) (w : Nat) (h : Word) (f : Graph → Graph) : (s.onGraph w h f).mcmds = s.mcmds := rfl
@[simp] theorem State.onGraph_landings (s : State) (w : Nat) (h : Word) (f : Graph → Graph) : (s.onGraph w h f).landings = s.landings := rfl
@[simp] theorem State.onGraph_stores (s : State) (w : Nat) (h : Word) (f : Graph → Graph) : (s.onGraph w h f).stores = s.stores := rfl
@[simp] theorem State.onGraph_recs (s : State) (w : Nat) (h : Word) (f : Graph → Graph) : (s.onGraph w h f).recs = s.recs := rfl
@[simp] theorem State.onGraph_older (s : State) (w : Nat) (h : Word) (f : Graph → Graph) : (s.onGraph w h f).older = s.older := rfl
@[simp] theorem State.onGraph_recWaits (s : State) (w : Nat) (h : Word) (f : Graph → Graph) : (s.onGraph w h f).recWaits = s.recWaits := rfl
@[simp] theorem State.onGraph_touched (s : State) (w : Nat) (h : Word) (f : Graph → Graph) : (s.onGraph w h f).touched = s.touched := rfl
@[simp] theorem State.onGraph_groups (s : State) (w : Nat) (h : Word) (f : Graph → Graph) : (s.onGraph w h f).groups = s.groups := rfl
@[simp] theorem State.onGraph_bursts (s : State) (w : Nat) (h : Word) (f : Graph → Graph) : (s.onGraph w h f).bursts = s.bursts := rfl
@[simp] theorem State.onGraph_gangs (s : State) (w : Nat) (h : Word) (f : Graph → Graph) : (s.onGraph w h f).gangs = s.gangs := rfl
@[simp] theorem State.onGraph_reserved (s : State) (w : Nat) (h : Word) (f : Graph → Graph) : (s.onGraph w h f).reserved = s.reserved := rfl
@[simp] theorem State.onGraph_frames (s : State) (w : Nat) (h : Word) (f : Graph → Graph) : (s.onGraph w h f).frames = s.frames := rfl
@[simp] theorem State.onGraph_faultq (s : State) (w : Nat) (h : Word) (f : Graph → Graph) : (s.onGraph w h f).faultq = s.faultq := rfl
@[simp] theorem State.onGraph_services (s : State) (w : Nat) (h : Word) (f : Graph → Graph) : (s.onGraph w h f).services = s.services := rfl
@[simp] theorem State.onGraph_dir (s : State) (w : Nat) (h : Word) (f : Graph → Graph) : (s.onGraph w h f).dir = s.dir := rfl
@[simp] theorem State.onGraph_owned (s : State) (w : Nat) (h : Word) (f : Graph → Graph) : (s.onGraph w h f).owned = s.owned := rfl
@[simp] theorem State.onGraph_seqs (s : State) (w : Nat) (h : Word) (f : Graph → Graph) : (s.onGraph w h f).seqs = s.seqs := rfl
@[simp] theorem State.onGraph_roosts (s : State) (w : Nat) (h : Word) (f : Graph → Graph) : (s.onGraph w h f).roosts = s.roosts := rfl
@[simp] theorem State.onGraph_lines (s : State) (w : Nat) (h : Word) (f : Graph → Graph) : (s.onGraph w h f).lines = s.lines := rfl
@[simp] theorem State.onGraph_flying (s : State) (w : Nat) (h : Word) (f : Graph → Graph) : (s.onGraph w h f).flying = s.flying := rfl
@[simp] theorem State.onGraph_l1 (s : State) (w : Nat) (h : Word) (f : Graph → Graph) : (s.onGraph w h f).l1 = s.l1 := rfl
@[simp] theorem State.onGraph_vtags (s : State) (w : Nat) (h : Word) (f : Graph → Graph) : (s.onGraph w h f).vtags = s.vtags := rfl
@[simp] theorem State.onGraph_scores (s : State) (w : Nat) (h : Word) (f : Graph → Graph) : (s.onGraph w h f).scores = s.scores := rfl
@[simp] theorem State.onGraph_throttled (s : State) (w : Nat) (h : Word) (f : Graph → Graph) : (s.onGraph w h f).throttled = s.throttled := rfl
@[simp] theorem State.onGraph_swapped (s : State) (w : Nat) (h : Word) (f : Graph → Graph) : (s.onGraph w h f).swapped = s.swapped := rfl
@[simp] theorem State.onGraph_rvOps (s : State) (w : Nat) (h : Word) (f : Graph → Graph) : (s.onGraph w h f).rvOps = s.rvOps := rfl
@[simp] theorem State.onGraph_worlds (s : State) (w : Nat) (h : Word) (f : Graph → Graph) : (s.onGraph w h f).worlds = s.worlds := rfl
@[simp] theorem State.onGraph_ckpt (s : State) (w : Nat) (h : Word) (f : Graph → Graph) : (s.onGraph w h f).ckpt = s.ckpt := rfl
@[simp] theorem State.onGraph_plat (s : State) (w : Nat) (h : Word) (f : Graph → Graph) : (s.onGraph w h f).plat = s.plat := rfl
@[simp] theorem State.onGraph_mimage (s : State) (w : Nat) (h : Word) (f : Graph → Graph) : (s.onGraph w h f).mimage = s.mimage := rfl
@[simp] theorem State.onGraph_nextId (s : State) (w : Nat) (h : Word) (f : Graph → Graph) : (s.onGraph w h f).nextId = s.nextId := rfl
@[simp] theorem State.onGraph_clock (s : State) (w : Nat) (h : Word) (f : Graph → Graph) : (s.onGraph w h f).clock = s.clock := rfl
@[simp] theorem State.onGraph_freeCtr (s : State) (w : Nat) (h : Word) (f : Graph → Graph) : (s.onGraph w h f).freeCtr = s.freeCtr := rfl
@[simp] theorem State.onGraph_outbox (s : State) (w : Nat) (h : Word) (f : Graph → Graph) : (s.onGraph w h f).outbox = s.outbox := rfl

/-! ## onWorld -/

@[simp] theorem State.onWorld_sched (s : State) (w : Nat) (f : World → World) : (s.onWorld w f).sched = s.sched := rfl
@[simp] theorem State.onWorld_agenda (s : State) (w : Nat) (f : World → World) : (s.onWorld w f).agenda = s.agenda := rfl
@[simp] theorem State.onWorld_iss (s : State) (w : Nat) (f : World → World) : (s.onWorld w f).iss = s.iss := rfl
@[simp] theorem State.onWorld_mem (s : State) (w : Nat) (f : World → World) : (s.onWorld w f).mem = s.mem := rfl
@[simp] theorem State.onWorld_poison (s : State) (w : Nat) (f : World → World) : (s.onWorld w f).poison = s.poison := rfl
@[simp] theorem State.onWorld_crews (s : State) (w : Nat) (f : World → World) : (s.onWorld w f).crews = s.crews := rfl
@[simp] theorem State.onWorld_units (s : State) (w : Nat) (f : World → World) : (s.onWorld w f).units = s.units := rfl
@[simp] theorem State.onWorld_launches (s : State) (w : Nat) (f : World → World) : (s.onWorld w f).launches = s.launches := rfl
@[simp] theorem State.onWorld_graphs (s : State) (w : Nat) (f : World → World) : (s.onWorld w f).graphs = s.graphs := rfl
@[simp] theorem State.onWorld_quarters (s : State) (w : Nat) (f : World → World) : (s.onWorld w f).quarters = s.quarters := rfl
@[simp] theorem State.onWorld_entries (s : State) (w : Nat) (f : World → World) : (s.onWorld w f).entries = s.entries := rfl
@[simp] theorem State.onWorld_mcmds (s : State) (w : Nat) (f : World → World) : (s.onWorld w f).mcmds = s.mcmds := rfl
@[simp] theorem State.onWorld_landings (s : State) (w : Nat) (f : World → World) : (s.onWorld w f).landings = s.landings := rfl
@[simp] theorem State.onWorld_stores (s : State) (w : Nat) (f : World → World) : (s.onWorld w f).stores = s.stores := rfl
@[simp] theorem State.onWorld_recs (s : State) (w : Nat) (f : World → World) : (s.onWorld w f).recs = s.recs := rfl
@[simp] theorem State.onWorld_older (s : State) (w : Nat) (f : World → World) : (s.onWorld w f).older = s.older := rfl
@[simp] theorem State.onWorld_recWaits (s : State) (w : Nat) (f : World → World) : (s.onWorld w f).recWaits = s.recWaits := rfl
@[simp] theorem State.onWorld_touched (s : State) (w : Nat) (f : World → World) : (s.onWorld w f).touched = s.touched := rfl
@[simp] theorem State.onWorld_groups (s : State) (w : Nat) (f : World → World) : (s.onWorld w f).groups = s.groups := rfl
@[simp] theorem State.onWorld_bursts (s : State) (w : Nat) (f : World → World) : (s.onWorld w f).bursts = s.bursts := rfl
@[simp] theorem State.onWorld_gangs (s : State) (w : Nat) (f : World → World) : (s.onWorld w f).gangs = s.gangs := rfl
@[simp] theorem State.onWorld_reserved (s : State) (w : Nat) (f : World → World) : (s.onWorld w f).reserved = s.reserved := rfl
@[simp] theorem State.onWorld_frames (s : State) (w : Nat) (f : World → World) : (s.onWorld w f).frames = s.frames := rfl
@[simp] theorem State.onWorld_faultq (s : State) (w : Nat) (f : World → World) : (s.onWorld w f).faultq = s.faultq := rfl
@[simp] theorem State.onWorld_services (s : State) (w : Nat) (f : World → World) : (s.onWorld w f).services = s.services := rfl
@[simp] theorem State.onWorld_dir (s : State) (w : Nat) (f : World → World) : (s.onWorld w f).dir = s.dir := rfl
@[simp] theorem State.onWorld_owned (s : State) (w : Nat) (f : World → World) : (s.onWorld w f).owned = s.owned := rfl
@[simp] theorem State.onWorld_seqs (s : State) (w : Nat) (f : World → World) : (s.onWorld w f).seqs = s.seqs := rfl
@[simp] theorem State.onWorld_roosts (s : State) (w : Nat) (f : World → World) : (s.onWorld w f).roosts = s.roosts := rfl
@[simp] theorem State.onWorld_lines (s : State) (w : Nat) (f : World → World) : (s.onWorld w f).lines = s.lines := rfl
@[simp] theorem State.onWorld_flying (s : State) (w : Nat) (f : World → World) : (s.onWorld w f).flying = s.flying := rfl
@[simp] theorem State.onWorld_l1 (s : State) (w : Nat) (f : World → World) : (s.onWorld w f).l1 = s.l1 := rfl
@[simp] theorem State.onWorld_vtags (s : State) (w : Nat) (f : World → World) : (s.onWorld w f).vtags = s.vtags := rfl
@[simp] theorem State.onWorld_scores (s : State) (w : Nat) (f : World → World) : (s.onWorld w f).scores = s.scores := rfl
@[simp] theorem State.onWorld_throttled (s : State) (w : Nat) (f : World → World) : (s.onWorld w f).throttled = s.throttled := rfl
@[simp] theorem State.onWorld_swapped (s : State) (w : Nat) (f : World → World) : (s.onWorld w f).swapped = s.swapped := rfl
@[simp] theorem State.onWorld_rvOps (s : State) (w : Nat) (f : World → World) : (s.onWorld w f).rvOps = s.rvOps := rfl
@[simp] theorem State.onWorld_ckpt (s : State) (w : Nat) (f : World → World) : (s.onWorld w f).ckpt = s.ckpt := rfl
@[simp] theorem State.onWorld_plat (s : State) (w : Nat) (f : World → World) : (s.onWorld w f).plat = s.plat := rfl
@[simp] theorem State.onWorld_mimage (s : State) (w : Nat) (f : World → World) : (s.onWorld w f).mimage = s.mimage := rfl
@[simp] theorem State.onWorld_nextId (s : State) (w : Nat) (f : World → World) : (s.onWorld w f).nextId = s.nextId := rfl
@[simp] theorem State.onWorld_clock (s : State) (w : Nat) (f : World → World) : (s.onWorld w f).clock = s.clock := rfl
@[simp] theorem State.onWorld_freeCtr (s : State) (w : Nat) (f : World → World) : (s.onWorld w f).freeCtr = s.freeCtr := rfl
@[simp] theorem State.onWorld_outbox (s : State) (w : Nat) (f : World → World) : (s.onWorld w f).outbox = s.outbox := rfl

/-! ## onEntry -/

@[simp] theorem State.onEntry_sched (s : State) (id : Nat) (f : Entry → Entry) : (s.onEntry id f).sched = s.sched := rfl
@[simp] theorem State.onEntry_agenda (s : State) (id : Nat) (f : Entry → Entry) : (s.onEntry id f).agenda = s.agenda := rfl
@[simp] theorem State.onEntry_iss (s : State) (id : Nat) (f : Entry → Entry) : (s.onEntry id f).iss = s.iss := rfl
@[simp] theorem State.onEntry_mem (s : State) (id : Nat) (f : Entry → Entry) : (s.onEntry id f).mem = s.mem := rfl
@[simp] theorem State.onEntry_poison (s : State) (id : Nat) (f : Entry → Entry) : (s.onEntry id f).poison = s.poison := rfl
@[simp] theorem State.onEntry_crews (s : State) (id : Nat) (f : Entry → Entry) : (s.onEntry id f).crews = s.crews := rfl
@[simp] theorem State.onEntry_units (s : State) (id : Nat) (f : Entry → Entry) : (s.onEntry id f).units = s.units := rfl
@[simp] theorem State.onEntry_launches (s : State) (id : Nat) (f : Entry → Entry) : (s.onEntry id f).launches = s.launches := rfl
@[simp] theorem State.onEntry_graphs (s : State) (id : Nat) (f : Entry → Entry) : (s.onEntry id f).graphs = s.graphs := rfl
@[simp] theorem State.onEntry_quarters (s : State) (id : Nat) (f : Entry → Entry) : (s.onEntry id f).quarters = s.quarters := rfl
@[simp] theorem State.onEntry_mcmds (s : State) (id : Nat) (f : Entry → Entry) : (s.onEntry id f).mcmds = s.mcmds := rfl
@[simp] theorem State.onEntry_landings (s : State) (id : Nat) (f : Entry → Entry) : (s.onEntry id f).landings = s.landings := rfl
@[simp] theorem State.onEntry_stores (s : State) (id : Nat) (f : Entry → Entry) : (s.onEntry id f).stores = s.stores := rfl
@[simp] theorem State.onEntry_recs (s : State) (id : Nat) (f : Entry → Entry) : (s.onEntry id f).recs = s.recs := rfl
@[simp] theorem State.onEntry_older (s : State) (id : Nat) (f : Entry → Entry) : (s.onEntry id f).older = s.older := rfl
@[simp] theorem State.onEntry_recWaits (s : State) (id : Nat) (f : Entry → Entry) : (s.onEntry id f).recWaits = s.recWaits := rfl
@[simp] theorem State.onEntry_touched (s : State) (id : Nat) (f : Entry → Entry) : (s.onEntry id f).touched = s.touched := rfl
@[simp] theorem State.onEntry_groups (s : State) (id : Nat) (f : Entry → Entry) : (s.onEntry id f).groups = s.groups := rfl
@[simp] theorem State.onEntry_bursts (s : State) (id : Nat) (f : Entry → Entry) : (s.onEntry id f).bursts = s.bursts := rfl
@[simp] theorem State.onEntry_gangs (s : State) (id : Nat) (f : Entry → Entry) : (s.onEntry id f).gangs = s.gangs := rfl
@[simp] theorem State.onEntry_reserved (s : State) (id : Nat) (f : Entry → Entry) : (s.onEntry id f).reserved = s.reserved := rfl
@[simp] theorem State.onEntry_frames (s : State) (id : Nat) (f : Entry → Entry) : (s.onEntry id f).frames = s.frames := rfl
@[simp] theorem State.onEntry_faultq (s : State) (id : Nat) (f : Entry → Entry) : (s.onEntry id f).faultq = s.faultq := rfl
@[simp] theorem State.onEntry_services (s : State) (id : Nat) (f : Entry → Entry) : (s.onEntry id f).services = s.services := rfl
@[simp] theorem State.onEntry_dir (s : State) (id : Nat) (f : Entry → Entry) : (s.onEntry id f).dir = s.dir := rfl
@[simp] theorem State.onEntry_owned (s : State) (id : Nat) (f : Entry → Entry) : (s.onEntry id f).owned = s.owned := rfl
@[simp] theorem State.onEntry_seqs (s : State) (id : Nat) (f : Entry → Entry) : (s.onEntry id f).seqs = s.seqs := rfl
@[simp] theorem State.onEntry_roosts (s : State) (id : Nat) (f : Entry → Entry) : (s.onEntry id f).roosts = s.roosts := rfl
@[simp] theorem State.onEntry_lines (s : State) (id : Nat) (f : Entry → Entry) : (s.onEntry id f).lines = s.lines := rfl
@[simp] theorem State.onEntry_flying (s : State) (id : Nat) (f : Entry → Entry) : (s.onEntry id f).flying = s.flying := rfl
@[simp] theorem State.onEntry_l1 (s : State) (id : Nat) (f : Entry → Entry) : (s.onEntry id f).l1 = s.l1 := rfl
@[simp] theorem State.onEntry_vtags (s : State) (id : Nat) (f : Entry → Entry) : (s.onEntry id f).vtags = s.vtags := rfl
@[simp] theorem State.onEntry_scores (s : State) (id : Nat) (f : Entry → Entry) : (s.onEntry id f).scores = s.scores := rfl
@[simp] theorem State.onEntry_throttled (s : State) (id : Nat) (f : Entry → Entry) : (s.onEntry id f).throttled = s.throttled := rfl
@[simp] theorem State.onEntry_swapped (s : State) (id : Nat) (f : Entry → Entry) : (s.onEntry id f).swapped = s.swapped := rfl
@[simp] theorem State.onEntry_rvOps (s : State) (id : Nat) (f : Entry → Entry) : (s.onEntry id f).rvOps = s.rvOps := rfl
@[simp] theorem State.onEntry_worlds (s : State) (id : Nat) (f : Entry → Entry) : (s.onEntry id f).worlds = s.worlds := rfl
@[simp] theorem State.onEntry_ckpt (s : State) (id : Nat) (f : Entry → Entry) : (s.onEntry id f).ckpt = s.ckpt := rfl
@[simp] theorem State.onEntry_plat (s : State) (id : Nat) (f : Entry → Entry) : (s.onEntry id f).plat = s.plat := rfl
@[simp] theorem State.onEntry_mimage (s : State) (id : Nat) (f : Entry → Entry) : (s.onEntry id f).mimage = s.mimage := rfl
@[simp] theorem State.onEntry_nextId (s : State) (id : Nat) (f : Entry → Entry) : (s.onEntry id f).nextId = s.nextId := rfl
@[simp] theorem State.onEntry_clock (s : State) (id : Nat) (f : Entry → Entry) : (s.onEntry id f).clock = s.clock := rfl
@[simp] theorem State.onEntry_freeCtr (s : State) (id : Nat) (f : Entry → Entry) : (s.onEntry id f).freeCtr = s.freeCtr := rfl
@[simp] theorem State.onEntry_outbox (s : State) (id : Nat) (f : Entry → Entry) : (s.onEntry id f).outbox = s.outbox := rfl

/-! ## onQuarter -/

@[simp] theorem State.onQuarter_sched (s : State) (q : Nat) (f : Quarter → Quarter) : (s.onQuarter q f).sched = s.sched := rfl
@[simp] theorem State.onQuarter_agenda (s : State) (q : Nat) (f : Quarter → Quarter) : (s.onQuarter q f).agenda = s.agenda := rfl
@[simp] theorem State.onQuarter_iss (s : State) (q : Nat) (f : Quarter → Quarter) : (s.onQuarter q f).iss = s.iss := rfl
@[simp] theorem State.onQuarter_mem (s : State) (q : Nat) (f : Quarter → Quarter) : (s.onQuarter q f).mem = s.mem := rfl
@[simp] theorem State.onQuarter_poison (s : State) (q : Nat) (f : Quarter → Quarter) : (s.onQuarter q f).poison = s.poison := rfl
@[simp] theorem State.onQuarter_crews (s : State) (q : Nat) (f : Quarter → Quarter) : (s.onQuarter q f).crews = s.crews := rfl
@[simp] theorem State.onQuarter_units (s : State) (q : Nat) (f : Quarter → Quarter) : (s.onQuarter q f).units = s.units := rfl
@[simp] theorem State.onQuarter_launches (s : State) (q : Nat) (f : Quarter → Quarter) : (s.onQuarter q f).launches = s.launches := rfl
@[simp] theorem State.onQuarter_graphs (s : State) (q : Nat) (f : Quarter → Quarter) : (s.onQuarter q f).graphs = s.graphs := rfl
@[simp] theorem State.onQuarter_entries (s : State) (q : Nat) (f : Quarter → Quarter) : (s.onQuarter q f).entries = s.entries := rfl
@[simp] theorem State.onQuarter_mcmds (s : State) (q : Nat) (f : Quarter → Quarter) : (s.onQuarter q f).mcmds = s.mcmds := rfl
@[simp] theorem State.onQuarter_landings (s : State) (q : Nat) (f : Quarter → Quarter) : (s.onQuarter q f).landings = s.landings := rfl
@[simp] theorem State.onQuarter_stores (s : State) (q : Nat) (f : Quarter → Quarter) : (s.onQuarter q f).stores = s.stores := rfl
@[simp] theorem State.onQuarter_recs (s : State) (q : Nat) (f : Quarter → Quarter) : (s.onQuarter q f).recs = s.recs := rfl
@[simp] theorem State.onQuarter_older (s : State) (q : Nat) (f : Quarter → Quarter) : (s.onQuarter q f).older = s.older := rfl
@[simp] theorem State.onQuarter_recWaits (s : State) (q : Nat) (f : Quarter → Quarter) : (s.onQuarter q f).recWaits = s.recWaits := rfl
@[simp] theorem State.onQuarter_touched (s : State) (q : Nat) (f : Quarter → Quarter) : (s.onQuarter q f).touched = s.touched := rfl
@[simp] theorem State.onQuarter_groups (s : State) (q : Nat) (f : Quarter → Quarter) : (s.onQuarter q f).groups = s.groups := rfl
@[simp] theorem State.onQuarter_bursts (s : State) (q : Nat) (f : Quarter → Quarter) : (s.onQuarter q f).bursts = s.bursts := rfl
@[simp] theorem State.onQuarter_gangs (s : State) (q : Nat) (f : Quarter → Quarter) : (s.onQuarter q f).gangs = s.gangs := rfl
@[simp] theorem State.onQuarter_reserved (s : State) (q : Nat) (f : Quarter → Quarter) : (s.onQuarter q f).reserved = s.reserved := rfl
@[simp] theorem State.onQuarter_frames (s : State) (q : Nat) (f : Quarter → Quarter) : (s.onQuarter q f).frames = s.frames := rfl
@[simp] theorem State.onQuarter_faultq (s : State) (q : Nat) (f : Quarter → Quarter) : (s.onQuarter q f).faultq = s.faultq := rfl
@[simp] theorem State.onQuarter_services (s : State) (q : Nat) (f : Quarter → Quarter) : (s.onQuarter q f).services = s.services := rfl
@[simp] theorem State.onQuarter_dir (s : State) (q : Nat) (f : Quarter → Quarter) : (s.onQuarter q f).dir = s.dir := rfl
@[simp] theorem State.onQuarter_owned (s : State) (q : Nat) (f : Quarter → Quarter) : (s.onQuarter q f).owned = s.owned := rfl
@[simp] theorem State.onQuarter_seqs (s : State) (q : Nat) (f : Quarter → Quarter) : (s.onQuarter q f).seqs = s.seqs := rfl
@[simp] theorem State.onQuarter_roosts (s : State) (q : Nat) (f : Quarter → Quarter) : (s.onQuarter q f).roosts = s.roosts := rfl
@[simp] theorem State.onQuarter_lines (s : State) (q : Nat) (f : Quarter → Quarter) : (s.onQuarter q f).lines = s.lines := rfl
@[simp] theorem State.onQuarter_flying (s : State) (q : Nat) (f : Quarter → Quarter) : (s.onQuarter q f).flying = s.flying := rfl
@[simp] theorem State.onQuarter_l1 (s : State) (q : Nat) (f : Quarter → Quarter) : (s.onQuarter q f).l1 = s.l1 := rfl
@[simp] theorem State.onQuarter_vtags (s : State) (q : Nat) (f : Quarter → Quarter) : (s.onQuarter q f).vtags = s.vtags := rfl
@[simp] theorem State.onQuarter_scores (s : State) (q : Nat) (f : Quarter → Quarter) : (s.onQuarter q f).scores = s.scores := rfl
@[simp] theorem State.onQuarter_throttled (s : State) (q : Nat) (f : Quarter → Quarter) : (s.onQuarter q f).throttled = s.throttled := rfl
@[simp] theorem State.onQuarter_swapped (s : State) (q : Nat) (f : Quarter → Quarter) : (s.onQuarter q f).swapped = s.swapped := rfl
@[simp] theorem State.onQuarter_rvOps (s : State) (q : Nat) (f : Quarter → Quarter) : (s.onQuarter q f).rvOps = s.rvOps := rfl
@[simp] theorem State.onQuarter_worlds (s : State) (q : Nat) (f : Quarter → Quarter) : (s.onQuarter q f).worlds = s.worlds := rfl
@[simp] theorem State.onQuarter_ckpt (s : State) (q : Nat) (f : Quarter → Quarter) : (s.onQuarter q f).ckpt = s.ckpt := rfl
@[simp] theorem State.onQuarter_plat (s : State) (q : Nat) (f : Quarter → Quarter) : (s.onQuarter q f).plat = s.plat := rfl
@[simp] theorem State.onQuarter_mimage (s : State) (q : Nat) (f : Quarter → Quarter) : (s.onQuarter q f).mimage = s.mimage := rfl
@[simp] theorem State.onQuarter_nextId (s : State) (q : Nat) (f : Quarter → Quarter) : (s.onQuarter q f).nextId = s.nextId := rfl
@[simp] theorem State.onQuarter_clock (s : State) (q : Nat) (f : Quarter → Quarter) : (s.onQuarter q f).clock = s.clock := rfl
@[simp] theorem State.onQuarter_freeCtr (s : State) (q : Nat) (f : Quarter → Quarter) : (s.onQuarter q f).freeCtr = s.freeCtr := rfl
@[simp] theorem State.onQuarter_outbox (s : State) (q : Nat) (f : Quarter → Quarter) : (s.onQuarter q f).outbox = s.outbox := rfl

/-! ## onFrame -/

@[simp] theorem State.onFrame_sched (s : State) (i : Nat) (f : Frame → Frame) : (s.onFrame i f).sched = s.sched := rfl
@[simp] theorem State.onFrame_agenda (s : State) (i : Nat) (f : Frame → Frame) : (s.onFrame i f).agenda = s.agenda := rfl
@[simp] theorem State.onFrame_iss (s : State) (i : Nat) (f : Frame → Frame) : (s.onFrame i f).iss = s.iss := rfl
@[simp] theorem State.onFrame_mem (s : State) (i : Nat) (f : Frame → Frame) : (s.onFrame i f).mem = s.mem := rfl
@[simp] theorem State.onFrame_poison (s : State) (i : Nat) (f : Frame → Frame) : (s.onFrame i f).poison = s.poison := rfl
@[simp] theorem State.onFrame_crews (s : State) (i : Nat) (f : Frame → Frame) : (s.onFrame i f).crews = s.crews := rfl
@[simp] theorem State.onFrame_units (s : State) (i : Nat) (f : Frame → Frame) : (s.onFrame i f).units = s.units := rfl
@[simp] theorem State.onFrame_launches (s : State) (i : Nat) (f : Frame → Frame) : (s.onFrame i f).launches = s.launches := rfl
@[simp] theorem State.onFrame_graphs (s : State) (i : Nat) (f : Frame → Frame) : (s.onFrame i f).graphs = s.graphs := rfl
@[simp] theorem State.onFrame_quarters (s : State) (i : Nat) (f : Frame → Frame) : (s.onFrame i f).quarters = s.quarters := rfl
@[simp] theorem State.onFrame_entries (s : State) (i : Nat) (f : Frame → Frame) : (s.onFrame i f).entries = s.entries := rfl
@[simp] theorem State.onFrame_mcmds (s : State) (i : Nat) (f : Frame → Frame) : (s.onFrame i f).mcmds = s.mcmds := rfl
@[simp] theorem State.onFrame_landings (s : State) (i : Nat) (f : Frame → Frame) : (s.onFrame i f).landings = s.landings := rfl
@[simp] theorem State.onFrame_stores (s : State) (i : Nat) (f : Frame → Frame) : (s.onFrame i f).stores = s.stores := rfl
@[simp] theorem State.onFrame_recs (s : State) (i : Nat) (f : Frame → Frame) : (s.onFrame i f).recs = s.recs := rfl
@[simp] theorem State.onFrame_older (s : State) (i : Nat) (f : Frame → Frame) : (s.onFrame i f).older = s.older := rfl
@[simp] theorem State.onFrame_recWaits (s : State) (i : Nat) (f : Frame → Frame) : (s.onFrame i f).recWaits = s.recWaits := rfl
@[simp] theorem State.onFrame_touched (s : State) (i : Nat) (f : Frame → Frame) : (s.onFrame i f).touched = s.touched := rfl
@[simp] theorem State.onFrame_groups (s : State) (i : Nat) (f : Frame → Frame) : (s.onFrame i f).groups = s.groups := rfl
@[simp] theorem State.onFrame_bursts (s : State) (i : Nat) (f : Frame → Frame) : (s.onFrame i f).bursts = s.bursts := rfl
@[simp] theorem State.onFrame_gangs (s : State) (i : Nat) (f : Frame → Frame) : (s.onFrame i f).gangs = s.gangs := rfl
@[simp] theorem State.onFrame_reserved (s : State) (i : Nat) (f : Frame → Frame) : (s.onFrame i f).reserved = s.reserved := rfl
@[simp] theorem State.onFrame_faultq (s : State) (i : Nat) (f : Frame → Frame) : (s.onFrame i f).faultq = s.faultq := rfl
@[simp] theorem State.onFrame_services (s : State) (i : Nat) (f : Frame → Frame) : (s.onFrame i f).services = s.services := rfl
@[simp] theorem State.onFrame_dir (s : State) (i : Nat) (f : Frame → Frame) : (s.onFrame i f).dir = s.dir := rfl
@[simp] theorem State.onFrame_owned (s : State) (i : Nat) (f : Frame → Frame) : (s.onFrame i f).owned = s.owned := rfl
@[simp] theorem State.onFrame_seqs (s : State) (i : Nat) (f : Frame → Frame) : (s.onFrame i f).seqs = s.seqs := rfl
@[simp] theorem State.onFrame_roosts (s : State) (i : Nat) (f : Frame → Frame) : (s.onFrame i f).roosts = s.roosts := rfl
@[simp] theorem State.onFrame_lines (s : State) (i : Nat) (f : Frame → Frame) : (s.onFrame i f).lines = s.lines := rfl
@[simp] theorem State.onFrame_flying (s : State) (i : Nat) (f : Frame → Frame) : (s.onFrame i f).flying = s.flying := rfl
@[simp] theorem State.onFrame_l1 (s : State) (i : Nat) (f : Frame → Frame) : (s.onFrame i f).l1 = s.l1 := rfl
@[simp] theorem State.onFrame_vtags (s : State) (i : Nat) (f : Frame → Frame) : (s.onFrame i f).vtags = s.vtags := rfl
@[simp] theorem State.onFrame_scores (s : State) (i : Nat) (f : Frame → Frame) : (s.onFrame i f).scores = s.scores := rfl
@[simp] theorem State.onFrame_throttled (s : State) (i : Nat) (f : Frame → Frame) : (s.onFrame i f).throttled = s.throttled := rfl
@[simp] theorem State.onFrame_swapped (s : State) (i : Nat) (f : Frame → Frame) : (s.onFrame i f).swapped = s.swapped := rfl
@[simp] theorem State.onFrame_rvOps (s : State) (i : Nat) (f : Frame → Frame) : (s.onFrame i f).rvOps = s.rvOps := rfl
@[simp] theorem State.onFrame_worlds (s : State) (i : Nat) (f : Frame → Frame) : (s.onFrame i f).worlds = s.worlds := rfl
@[simp] theorem State.onFrame_ckpt (s : State) (i : Nat) (f : Frame → Frame) : (s.onFrame i f).ckpt = s.ckpt := rfl
@[simp] theorem State.onFrame_plat (s : State) (i : Nat) (f : Frame → Frame) : (s.onFrame i f).plat = s.plat := rfl
@[simp] theorem State.onFrame_mimage (s : State) (i : Nat) (f : Frame → Frame) : (s.onFrame i f).mimage = s.mimage := rfl
@[simp] theorem State.onFrame_nextId (s : State) (i : Nat) (f : Frame → Frame) : (s.onFrame i f).nextId = s.nextId := rfl
@[simp] theorem State.onFrame_clock (s : State) (i : Nat) (f : Frame → Frame) : (s.onFrame i f).clock = s.clock := rfl
@[simp] theorem State.onFrame_freeCtr (s : State) (i : Nat) (f : Frame → Frame) : (s.onFrame i f).freeCtr = s.freeCtr := rfl
@[simp] theorem State.onFrame_outbox (s : State) (i : Nat) (f : Frame → Frame) : (s.onFrame i f).outbox = s.outbox := rfl

/-! ## post -/

@[simp] theorem State.post_sched (s : State) (e : Event) : (s.post e).sched = s.sched := rfl
@[simp] theorem State.post_iss (s : State) (e : Event) : (s.post e).iss = s.iss := rfl
@[simp] theorem State.post_mem (s : State) (e : Event) : (s.post e).mem = s.mem := rfl
@[simp] theorem State.post_poison (s : State) (e : Event) : (s.post e).poison = s.poison := rfl
@[simp] theorem State.post_crews (s : State) (e : Event) : (s.post e).crews = s.crews := rfl
@[simp] theorem State.post_units (s : State) (e : Event) : (s.post e).units = s.units := rfl
@[simp] theorem State.post_launches (s : State) (e : Event) : (s.post e).launches = s.launches := rfl
@[simp] theorem State.post_graphs (s : State) (e : Event) : (s.post e).graphs = s.graphs := rfl
@[simp] theorem State.post_quarters (s : State) (e : Event) : (s.post e).quarters = s.quarters := rfl
@[simp] theorem State.post_entries (s : State) (e : Event) : (s.post e).entries = s.entries := rfl
@[simp] theorem State.post_mcmds (s : State) (e : Event) : (s.post e).mcmds = s.mcmds := rfl
@[simp] theorem State.post_landings (s : State) (e : Event) : (s.post e).landings = s.landings := rfl
@[simp] theorem State.post_stores (s : State) (e : Event) : (s.post e).stores = s.stores := rfl
@[simp] theorem State.post_recs (s : State) (e : Event) : (s.post e).recs = s.recs := rfl
@[simp] theorem State.post_older (s : State) (e : Event) : (s.post e).older = s.older := rfl
@[simp] theorem State.post_recWaits (s : State) (e : Event) : (s.post e).recWaits = s.recWaits := rfl
@[simp] theorem State.post_touched (s : State) (e : Event) : (s.post e).touched = s.touched := rfl
@[simp] theorem State.post_groups (s : State) (e : Event) : (s.post e).groups = s.groups := rfl
@[simp] theorem State.post_bursts (s : State) (e : Event) : (s.post e).bursts = s.bursts := rfl
@[simp] theorem State.post_gangs (s : State) (e : Event) : (s.post e).gangs = s.gangs := rfl
@[simp] theorem State.post_reserved (s : State) (e : Event) : (s.post e).reserved = s.reserved := rfl
@[simp] theorem State.post_frames (s : State) (e : Event) : (s.post e).frames = s.frames := rfl
@[simp] theorem State.post_faultq (s : State) (e : Event) : (s.post e).faultq = s.faultq := rfl
@[simp] theorem State.post_services (s : State) (e : Event) : (s.post e).services = s.services := rfl
@[simp] theorem State.post_dir (s : State) (e : Event) : (s.post e).dir = s.dir := rfl
@[simp] theorem State.post_owned (s : State) (e : Event) : (s.post e).owned = s.owned := rfl
@[simp] theorem State.post_seqs (s : State) (e : Event) : (s.post e).seqs = s.seqs := rfl
@[simp] theorem State.post_roosts (s : State) (e : Event) : (s.post e).roosts = s.roosts := rfl
@[simp] theorem State.post_lines (s : State) (e : Event) : (s.post e).lines = s.lines := rfl
@[simp] theorem State.post_flying (s : State) (e : Event) : (s.post e).flying = s.flying := rfl
@[simp] theorem State.post_l1 (s : State) (e : Event) : (s.post e).l1 = s.l1 := rfl
@[simp] theorem State.post_vtags (s : State) (e : Event) : (s.post e).vtags = s.vtags := rfl
@[simp] theorem State.post_scores (s : State) (e : Event) : (s.post e).scores = s.scores := rfl
@[simp] theorem State.post_throttled (s : State) (e : Event) : (s.post e).throttled = s.throttled := rfl
@[simp] theorem State.post_swapped (s : State) (e : Event) : (s.post e).swapped = s.swapped := rfl
@[simp] theorem State.post_rvOps (s : State) (e : Event) : (s.post e).rvOps = s.rvOps := rfl
@[simp] theorem State.post_worlds (s : State) (e : Event) : (s.post e).worlds = s.worlds := rfl
@[simp] theorem State.post_ckpt (s : State) (e : Event) : (s.post e).ckpt = s.ckpt := rfl
@[simp] theorem State.post_plat (s : State) (e : Event) : (s.post e).plat = s.plat := rfl
@[simp] theorem State.post_mimage (s : State) (e : Event) : (s.post e).mimage = s.mimage := rfl
@[simp] theorem State.post_nextId (s : State) (e : Event) : (s.post e).nextId = s.nextId := rfl
@[simp] theorem State.post_clock (s : State) (e : Event) : (s.post e).clock = s.clock := rfl
@[simp] theorem State.post_freeCtr (s : State) (e : Event) : (s.post e).freeCtr = s.freeCtr := rfl
@[simp] theorem State.post_outbox (s : State) (e : Event) : (s.post e).outbox = s.outbox := rfl

/-! ## send -/

@[simp] theorem State.send_sched (s : State) (m : Msg) : (s.send m).sched = s.sched := rfl
@[simp] theorem State.send_agenda (s : State) (m : Msg) : (s.send m).agenda = s.agenda := rfl
@[simp] theorem State.send_iss (s : State) (m : Msg) : (s.send m).iss = s.iss := rfl
@[simp] theorem State.send_mem (s : State) (m : Msg) : (s.send m).mem = s.mem := rfl
@[simp] theorem State.send_poison (s : State) (m : Msg) : (s.send m).poison = s.poison := rfl
@[simp] theorem State.send_crews (s : State) (m : Msg) : (s.send m).crews = s.crews := rfl
@[simp] theorem State.send_units (s : State) (m : Msg) : (s.send m).units = s.units := rfl
@[simp] theorem State.send_launches (s : State) (m : Msg) : (s.send m).launches = s.launches := rfl
@[simp] theorem State.send_graphs (s : State) (m : Msg) : (s.send m).graphs = s.graphs := rfl
@[simp] theorem State.send_quarters (s : State) (m : Msg) : (s.send m).quarters = s.quarters := rfl
@[simp] theorem State.send_entries (s : State) (m : Msg) : (s.send m).entries = s.entries := rfl
@[simp] theorem State.send_mcmds (s : State) (m : Msg) : (s.send m).mcmds = s.mcmds := rfl
@[simp] theorem State.send_landings (s : State) (m : Msg) : (s.send m).landings = s.landings := rfl
@[simp] theorem State.send_stores (s : State) (m : Msg) : (s.send m).stores = s.stores := rfl
@[simp] theorem State.send_recs (s : State) (m : Msg) : (s.send m).recs = s.recs := rfl
@[simp] theorem State.send_older (s : State) (m : Msg) : (s.send m).older = s.older := rfl
@[simp] theorem State.send_recWaits (s : State) (m : Msg) : (s.send m).recWaits = s.recWaits := rfl
@[simp] theorem State.send_touched (s : State) (m : Msg) : (s.send m).touched = s.touched := rfl
@[simp] theorem State.send_groups (s : State) (m : Msg) : (s.send m).groups = s.groups := rfl
@[simp] theorem State.send_bursts (s : State) (m : Msg) : (s.send m).bursts = s.bursts := rfl
@[simp] theorem State.send_gangs (s : State) (m : Msg) : (s.send m).gangs = s.gangs := rfl
@[simp] theorem State.send_reserved (s : State) (m : Msg) : (s.send m).reserved = s.reserved := rfl
@[simp] theorem State.send_frames (s : State) (m : Msg) : (s.send m).frames = s.frames := rfl
@[simp] theorem State.send_faultq (s : State) (m : Msg) : (s.send m).faultq = s.faultq := rfl
@[simp] theorem State.send_services (s : State) (m : Msg) : (s.send m).services = s.services := rfl
@[simp] theorem State.send_dir (s : State) (m : Msg) : (s.send m).dir = s.dir := rfl
@[simp] theorem State.send_owned (s : State) (m : Msg) : (s.send m).owned = s.owned := rfl
@[simp] theorem State.send_seqs (s : State) (m : Msg) : (s.send m).seqs = s.seqs := rfl
@[simp] theorem State.send_roosts (s : State) (m : Msg) : (s.send m).roosts = s.roosts := rfl
@[simp] theorem State.send_lines (s : State) (m : Msg) : (s.send m).lines = s.lines := rfl
@[simp] theorem State.send_flying (s : State) (m : Msg) : (s.send m).flying = s.flying := rfl
@[simp] theorem State.send_l1 (s : State) (m : Msg) : (s.send m).l1 = s.l1 := rfl
@[simp] theorem State.send_vtags (s : State) (m : Msg) : (s.send m).vtags = s.vtags := rfl
@[simp] theorem State.send_scores (s : State) (m : Msg) : (s.send m).scores = s.scores := rfl
@[simp] theorem State.send_throttled (s : State) (m : Msg) : (s.send m).throttled = s.throttled := rfl
@[simp] theorem State.send_swapped (s : State) (m : Msg) : (s.send m).swapped = s.swapped := rfl
@[simp] theorem State.send_rvOps (s : State) (m : Msg) : (s.send m).rvOps = s.rvOps := rfl
@[simp] theorem State.send_worlds (s : State) (m : Msg) : (s.send m).worlds = s.worlds := rfl
@[simp] theorem State.send_ckpt (s : State) (m : Msg) : (s.send m).ckpt = s.ckpt := rfl
@[simp] theorem State.send_plat (s : State) (m : Msg) : (s.send m).plat = s.plat := rfl
@[simp] theorem State.send_mimage (s : State) (m : Msg) : (s.send m).mimage = s.mimage := rfl
@[simp] theorem State.send_nextId (s : State) (m : Msg) : (s.send m).nextId = s.nextId := rfl
@[simp] theorem State.send_clock (s : State) (m : Msg) : (s.send m).clock = s.clock := rfl
@[simp] theorem State.send_freeCtr (s : State) (m : Msg) : (s.send m).freeCtr = s.freeCtr := rfl

/-! ## storePA -/

@[simp] theorem State.storePA_sched (s : State) (pa : Nat) (l : List Byte) : (s.storePA pa l).sched = s.sched := rfl
@[simp] theorem State.storePA_agenda (s : State) (pa : Nat) (l : List Byte) : (s.storePA pa l).agenda = s.agenda := rfl
@[simp] theorem State.storePA_iss (s : State) (pa : Nat) (l : List Byte) : (s.storePA pa l).iss = s.iss := rfl
@[simp] theorem State.storePA_crews (s : State) (pa : Nat) (l : List Byte) : (s.storePA pa l).crews = s.crews := rfl
@[simp] theorem State.storePA_units (s : State) (pa : Nat) (l : List Byte) : (s.storePA pa l).units = s.units := rfl
@[simp] theorem State.storePA_launches (s : State) (pa : Nat) (l : List Byte) : (s.storePA pa l).launches = s.launches := rfl
@[simp] theorem State.storePA_graphs (s : State) (pa : Nat) (l : List Byte) : (s.storePA pa l).graphs = s.graphs := rfl
@[simp] theorem State.storePA_quarters (s : State) (pa : Nat) (l : List Byte) : (s.storePA pa l).quarters = s.quarters := rfl
@[simp] theorem State.storePA_entries (s : State) (pa : Nat) (l : List Byte) : (s.storePA pa l).entries = s.entries := rfl
@[simp] theorem State.storePA_mcmds (s : State) (pa : Nat) (l : List Byte) : (s.storePA pa l).mcmds = s.mcmds := rfl
@[simp] theorem State.storePA_landings (s : State) (pa : Nat) (l : List Byte) : (s.storePA pa l).landings = s.landings := rfl
@[simp] theorem State.storePA_stores (s : State) (pa : Nat) (l : List Byte) : (s.storePA pa l).stores = s.stores := rfl
@[simp] theorem State.storePA_recs (s : State) (pa : Nat) (l : List Byte) : (s.storePA pa l).recs = s.recs := rfl
@[simp] theorem State.storePA_older (s : State) (pa : Nat) (l : List Byte) : (s.storePA pa l).older = s.older := rfl
@[simp] theorem State.storePA_recWaits (s : State) (pa : Nat) (l : List Byte) : (s.storePA pa l).recWaits = s.recWaits := rfl
@[simp] theorem State.storePA_touched (s : State) (pa : Nat) (l : List Byte) : (s.storePA pa l).touched = s.touched := rfl
@[simp] theorem State.storePA_groups (s : State) (pa : Nat) (l : List Byte) : (s.storePA pa l).groups = s.groups := rfl
@[simp] theorem State.storePA_bursts (s : State) (pa : Nat) (l : List Byte) : (s.storePA pa l).bursts = s.bursts := rfl
@[simp] theorem State.storePA_gangs (s : State) (pa : Nat) (l : List Byte) : (s.storePA pa l).gangs = s.gangs := rfl
@[simp] theorem State.storePA_reserved (s : State) (pa : Nat) (l : List Byte) : (s.storePA pa l).reserved = s.reserved := rfl
@[simp] theorem State.storePA_frames (s : State) (pa : Nat) (l : List Byte) : (s.storePA pa l).frames = s.frames := rfl
@[simp] theorem State.storePA_faultq (s : State) (pa : Nat) (l : List Byte) : (s.storePA pa l).faultq = s.faultq := rfl
@[simp] theorem State.storePA_services (s : State) (pa : Nat) (l : List Byte) : (s.storePA pa l).services = s.services := rfl
@[simp] theorem State.storePA_dir (s : State) (pa : Nat) (l : List Byte) : (s.storePA pa l).dir = s.dir := rfl
@[simp] theorem State.storePA_owned (s : State) (pa : Nat) (l : List Byte) : (s.storePA pa l).owned = s.owned := rfl
@[simp] theorem State.storePA_seqs (s : State) (pa : Nat) (l : List Byte) : (s.storePA pa l).seqs = s.seqs := rfl
@[simp] theorem State.storePA_roosts (s : State) (pa : Nat) (l : List Byte) : (s.storePA pa l).roosts = s.roosts := rfl
@[simp] theorem State.storePA_lines (s : State) (pa : Nat) (l : List Byte) : (s.storePA pa l).lines = s.lines := rfl
@[simp] theorem State.storePA_flying (s : State) (pa : Nat) (l : List Byte) : (s.storePA pa l).flying = s.flying := rfl
@[simp] theorem State.storePA_l1 (s : State) (pa : Nat) (l : List Byte) : (s.storePA pa l).l1 = s.l1 := rfl
@[simp] theorem State.storePA_vtags (s : State) (pa : Nat) (l : List Byte) : (s.storePA pa l).vtags = s.vtags := rfl
@[simp] theorem State.storePA_scores (s : State) (pa : Nat) (l : List Byte) : (s.storePA pa l).scores = s.scores := rfl
@[simp] theorem State.storePA_throttled (s : State) (pa : Nat) (l : List Byte) : (s.storePA pa l).throttled = s.throttled := rfl
@[simp] theorem State.storePA_swapped (s : State) (pa : Nat) (l : List Byte) : (s.storePA pa l).swapped = s.swapped := rfl
@[simp] theorem State.storePA_rvOps (s : State) (pa : Nat) (l : List Byte) : (s.storePA pa l).rvOps = s.rvOps := rfl
@[simp] theorem State.storePA_worlds (s : State) (pa : Nat) (l : List Byte) : (s.storePA pa l).worlds = s.worlds := rfl
@[simp] theorem State.storePA_ckpt (s : State) (pa : Nat) (l : List Byte) : (s.storePA pa l).ckpt = s.ckpt := rfl
@[simp] theorem State.storePA_plat (s : State) (pa : Nat) (l : List Byte) : (s.storePA pa l).plat = s.plat := rfl
@[simp] theorem State.storePA_mimage (s : State) (pa : Nat) (l : List Byte) : (s.storePA pa l).mimage = s.mimage := rfl
@[simp] theorem State.storePA_nextId (s : State) (pa : Nat) (l : List Byte) : (s.storePA pa l).nextId = s.nextId := rfl
@[simp] theorem State.storePA_clock (s : State) (pa : Nat) (l : List Byte) : (s.storePA pa l).clock = s.clock := rfl
@[simp] theorem State.storePA_freeCtr (s : State) (pa : Nat) (l : List Byte) : (s.storePA pa l).freeCtr = s.freeCtr := rfl
@[simp] theorem State.storePA_outbox (s : State) (pa : Nat) (l : List Byte) : (s.storePA pa l).outbox = s.outbox := rfl

/-! ## arm -/

@[simp] theorem State.arm_sched (s : State) (e : Event) : (s.arm e).sched = s.sched := by
  unfold State.arm
  split <;> rfl
@[simp] theorem State.arm_iss (s : State) (e : Event) : (s.arm e).iss = s.iss := by
  unfold State.arm
  split <;> rfl
@[simp] theorem State.arm_mem (s : State) (e : Event) : (s.arm e).mem = s.mem := by
  unfold State.arm
  split <;> rfl
@[simp] theorem State.arm_poison (s : State) (e : Event) : (s.arm e).poison = s.poison := by
  unfold State.arm
  split <;> rfl
@[simp] theorem State.arm_crews (s : State) (e : Event) : (s.arm e).crews = s.crews := by
  unfold State.arm
  split <;> rfl
@[simp] theorem State.arm_units (s : State) (e : Event) : (s.arm e).units = s.units := by
  unfold State.arm
  split <;> rfl
@[simp] theorem State.arm_launches (s : State) (e : Event) : (s.arm e).launches = s.launches := by
  unfold State.arm
  split <;> rfl
@[simp] theorem State.arm_graphs (s : State) (e : Event) : (s.arm e).graphs = s.graphs := by
  unfold State.arm
  split <;> rfl
@[simp] theorem State.arm_quarters (s : State) (e : Event) : (s.arm e).quarters = s.quarters := by
  unfold State.arm
  split <;> rfl
@[simp] theorem State.arm_entries (s : State) (e : Event) : (s.arm e).entries = s.entries := by
  unfold State.arm
  split <;> rfl
@[simp] theorem State.arm_mcmds (s : State) (e : Event) : (s.arm e).mcmds = s.mcmds := by
  unfold State.arm
  split <;> rfl
@[simp] theorem State.arm_landings (s : State) (e : Event) : (s.arm e).landings = s.landings := by
  unfold State.arm
  split <;> rfl
@[simp] theorem State.arm_stores (s : State) (e : Event) : (s.arm e).stores = s.stores := by
  unfold State.arm
  split <;> rfl
@[simp] theorem State.arm_recs (s : State) (e : Event) : (s.arm e).recs = s.recs := by
  unfold State.arm
  split <;> rfl
@[simp] theorem State.arm_older (s : State) (e : Event) : (s.arm e).older = s.older := by
  unfold State.arm
  split <;> rfl
@[simp] theorem State.arm_recWaits (s : State) (e : Event) : (s.arm e).recWaits = s.recWaits := by
  unfold State.arm
  split <;> rfl
@[simp] theorem State.arm_touched (s : State) (e : Event) : (s.arm e).touched = s.touched := by
  unfold State.arm
  split <;> rfl
@[simp] theorem State.arm_groups (s : State) (e : Event) : (s.arm e).groups = s.groups := by
  unfold State.arm
  split <;> rfl
@[simp] theorem State.arm_bursts (s : State) (e : Event) : (s.arm e).bursts = s.bursts := by
  unfold State.arm
  split <;> rfl
@[simp] theorem State.arm_gangs (s : State) (e : Event) : (s.arm e).gangs = s.gangs := by
  unfold State.arm
  split <;> rfl
@[simp] theorem State.arm_reserved (s : State) (e : Event) : (s.arm e).reserved = s.reserved := by
  unfold State.arm
  split <;> rfl
@[simp] theorem State.arm_frames (s : State) (e : Event) : (s.arm e).frames = s.frames := by
  unfold State.arm
  split <;> rfl
@[simp] theorem State.arm_faultq (s : State) (e : Event) : (s.arm e).faultq = s.faultq := by
  unfold State.arm
  split <;> rfl
@[simp] theorem State.arm_services (s : State) (e : Event) : (s.arm e).services = s.services := by
  unfold State.arm
  split <;> rfl
@[simp] theorem State.arm_dir (s : State) (e : Event) : (s.arm e).dir = s.dir := by
  unfold State.arm
  split <;> rfl
@[simp] theorem State.arm_owned (s : State) (e : Event) : (s.arm e).owned = s.owned := by
  unfold State.arm
  split <;> rfl
@[simp] theorem State.arm_seqs (s : State) (e : Event) : (s.arm e).seqs = s.seqs := by
  unfold State.arm
  split <;> rfl
@[simp] theorem State.arm_roosts (s : State) (e : Event) : (s.arm e).roosts = s.roosts := by
  unfold State.arm
  split <;> rfl
@[simp] theorem State.arm_lines (s : State) (e : Event) : (s.arm e).lines = s.lines := by
  unfold State.arm
  split <;> rfl
@[simp] theorem State.arm_flying (s : State) (e : Event) : (s.arm e).flying = s.flying := by
  unfold State.arm
  split <;> rfl
@[simp] theorem State.arm_l1 (s : State) (e : Event) : (s.arm e).l1 = s.l1 := by
  unfold State.arm
  split <;> rfl
@[simp] theorem State.arm_vtags (s : State) (e : Event) : (s.arm e).vtags = s.vtags := by
  unfold State.arm
  split <;> rfl
@[simp] theorem State.arm_scores (s : State) (e : Event) : (s.arm e).scores = s.scores := by
  unfold State.arm
  split <;> rfl
@[simp] theorem State.arm_throttled (s : State) (e : Event) : (s.arm e).throttled = s.throttled := by
  unfold State.arm
  split <;> rfl
@[simp] theorem State.arm_swapped (s : State) (e : Event) : (s.arm e).swapped = s.swapped := by
  unfold State.arm
  split <;> rfl
@[simp] theorem State.arm_rvOps (s : State) (e : Event) : (s.arm e).rvOps = s.rvOps := by
  unfold State.arm
  split <;> rfl
@[simp] theorem State.arm_worlds (s : State) (e : Event) : (s.arm e).worlds = s.worlds := by
  unfold State.arm
  split <;> rfl
@[simp] theorem State.arm_ckpt (s : State) (e : Event) : (s.arm e).ckpt = s.ckpt := by
  unfold State.arm
  split <;> rfl
@[simp] theorem State.arm_plat (s : State) (e : Event) : (s.arm e).plat = s.plat := by
  unfold State.arm
  split <;> rfl
@[simp] theorem State.arm_mimage (s : State) (e : Event) : (s.arm e).mimage = s.mimage := by
  unfold State.arm
  split <;> rfl
@[simp] theorem State.arm_nextId (s : State) (e : Event) : (s.arm e).nextId = s.nextId := by
  unfold State.arm
  split <;> rfl
@[simp] theorem State.arm_clock (s : State) (e : Event) : (s.arm e).clock = s.clock := by
  unfold State.arm
  split <;> rfl
@[simp] theorem State.arm_freeCtr (s : State) (e : Event) : (s.arm e).freeCtr = s.freeCtr := by
  unfold State.arm
  split <;> rfl
@[simp] theorem State.arm_outbox (s : State) (e : Event) : (s.arm e).outbox = s.outbox := by
  unfold State.arm
  split <;> rfl

/-! ## What an update does to the field it changes -/

@[simp] theorem State.onCrew_crews (s : State) (uid : Nat) (f : Crew → Crew) :
    (s.onCrew uid f).crews = mapIf (·.uid == uid) f s.crews := rfl
@[simp] theorem State.post_agenda (s : State) (e : Event) : (s.post e).agenda = s.agenda ++ [e] := rfl
@[simp] theorem State.send_outbox (s : State) (m : Msg) : (s.send m).outbox = s.outbox ++ [m] := rfl
@[simp] theorem State.fresh_fst (s : State) : s.fresh.1 = s.nextId := rfl
@[simp] theorem State.fresh_snd (s : State) : s.fresh.2 = { s with nextId := s.nextId + 1 } := rfl

/-- An element that an update replaces is found with its replacement, when the update keeps what picks it. -/
theorem find_mapIf {α : Type} (p : α → Bool) (f : α → α) (hf : ∀ x, p x = true → p (f x) = true) (l : List α) :
    (mapIf p f l).find? p = (l.find? p).map f := by
  induction l with
  | nil => rfl
  | cons x r ih =>
    unfold mapIf at ih ⊢
    by_cases h : p x = true
    · simp [h, hf x h]
    · simp [h, ih]

/-- Elements that another key picks are found unchanged. -/
theorem find_mapIf_ne {α : Type} (p q : α → Bool) (f : α → α) (h1 : ∀ x, p x = true → q x = false)
    (h2 : ∀ x, p x = true → q (f x) = false) (l : List α) : (mapIf p f l).find? q = l.find? q := by
  induction l with
  | nil => rfl
  | cons x r ih =>
    unfold mapIf at ih ⊢
    by_cases h : p x = true
    · simp [h, h1 x h, h2 x h, ih]
    · simp only [List.map_cons, h, List.find?_cons, ih]
      rfl

/-- The crew that an update changes. -/
theorem State.onCrew_crew (s : State) (uid : Nat) (f : Crew → Crew) (hf : ∀ c, c.uid = uid → (f c).uid = uid) :
    (s.onCrew uid f).crew uid = (s.crew uid).map f := by
  unfold State.crew
  rw [State.onCrew_crews]
  exact find_mapIf _ f (fun x hx => by simpa using hf x (by simpa using hx)) s.crews

/-- Every other crew. -/
theorem State.onCrew_crew_ne (s : State) (uid v : Nat) (f : Crew → Crew) (hf : ∀ c, c.uid = uid → (f c).uid = uid)
    (hv : v ≠ uid) : (s.onCrew uid f).crew v = s.crew v := by
  unfold State.crew
  rw [State.onCrew_crews]
  refine find_mapIf_ne _ _ f (fun x hx => ?_) (fun x hx => ?_) s.crews
  · have : x.uid = uid := by simpa using hx
    simp [this]
    omega
  · have : (f x).uid = uid := hf x (by simpa using hx)
    simp [this]
    omega

end Sys2Proof.Machine
end

