-- ==== Sys2Proof/Laws/Issue.lean ====
section
/-! SUPPORT. What the shared shapes of an instruction can do: the issue of a set whose operands are ready, settling a crew
in which nothing waits for a trap, and instructions on each thread alone and once on the crew. -/

namespace Sys2Proof.Machine

/-! ## Threads by lane -/

/-- A map over the threads that keeps lanes is found by lane. -/
theorem find_lane_map (f : Thread → Thread) (hf : ∀ t, (f t).lane = t.lane) (l : List Thread) (lane : Nat) :
    (l.map f).find? (·.lane == lane) = (l.find? (·.lane == lane)).map f := by
  induction l with
  | nil => rfl
  | cons x r ih =>
    by_cases h : x.lane = lane
    · simp [h, hf]
    · simp [h, hf, ih]

/-- Regrouping changes of a thread only the number of its set (R24, R25). -/
theorem regroup_thread (c : Crew) (lane : Nat) (u : Thread) (h : c.thread lane = some u) :
    ∃ n, c.regroup.thread lane = some { u with set := n } := by
  unfold Crew.thread Crew.regroup at *
  simp only
  rw [find_lane_map]
  · rw [h]
    simp only [Option.map_some, Option.some.injEq]
    split
    · split
      · exact ⟨_, rfl⟩
      · exact ⟨u.set, rfl⟩
    · exact ⟨u.set, rfl⟩
  · intro t
    split
    · split <;> rfl
    · rfl

@[simp] theorem regroup_uid (c : Crew) : c.regroup.uid = c.uid := rfl

/-- Of a crew, regrouping changes only threads. -/
theorem regroup_frame (c : Crew) : { c.regroup with threads := c.threads } = c := rfl

@[simp] theorem haltCheck_uid (c : Crew) : c.haltCheck.uid = c.uid := rfl

@[simp] theorem haltCheck_thread (c : Crew) (lane : Nat) : c.haltCheck.thread lane = c.thread lane := rfl

/-- Of a crew, the halt check changes only the halt. -/
theorem haltCheck_frame (c : Crew) : { c.haltCheck with halt := c.halt } = c := rfl

/-! ## Settling -/

/-- Where no thread waits for a trap none is entered. -/
theorem anyEnter_quiet {c : Crew} (h : ∀ t ∈ c.threads, t.entering = none) : c.anyEnter = false := by
  unfold Crew.anyEnter
  rw [List.any_eq_false]
  intro t ht
  simp [h t ht]

/-- Settling a crew in which nothing waits for a trap forms its sets again and looks at a halt. -/
theorem settle_quiet {s : State} {uid : Nat} {c : Crew} (hc : s.crew uid = some c)
    (hq : ∀ t ∈ c.threads, t.entering = none) (hi : s.iss = ⟨0, 0, none⟩) :
    s.settle uid = (s.onCrew uid Crew.regroup).onCrew uid Crew.haltCheck := by
  unfold State.settle
  rw [hc]
  simp only [anyEnter_quiet hq, Bool.false_eq_true, if_false]
  unfold State.haltCheck
  simp [hi]

/-! ## Issue -/

/-- The crew that issues is the one the state names. -/
theorem Issuing.uid {s : State} {c : Crew} (h : Issuing s c) : c.uid = s.iss.crew := by
  have := List.find?_some h.1
  simpa using this

/-- The issue of a set none of whose threads fails a word check, and which S = 1 does not hold back. -/
theorem issue_runs {f : Form} {s : State} {k : Env → Nat → Crew → State → State} {c : Crew} (hi : Issuing s c)
    (hw : ∀ t ∈ c.threads, sel s.iss.set t = true → wordTrap ⟨c.uid, f.word, s.iss.guard, c.region⟩ f c t = none)
    (hs : f.sw = true → ∀ t ∈ c.threads, sel s.iss.set t = true →
      pendClear c t (if f.coll then some (Env.pcI ⟨c.uid, f.word, s.iss.guard, c.region⟩ t) else none) = true) :
    issue f s k = .next ((k ⟨c.uid, f.word, s.iss.guard, c.region⟩ s.iss.set c (s.onCrew c.uid fun _ => c).issued).settle c.uid) := by
  obtain ⟨hc, hany, hq⟩ := hi
  have hmap : c.threads.map (fun (t : Thread) => t.wordChecked ⟨c.uid, f.word, s.iss.guard, c.region⟩ f c s.iss.set) =
      c.threads := by
    refine (List.map_congr_left fun t ht => ?_).trans (List.map_id c.threads)
    unfold Thread.wordChecked
    by_cases h : sel s.iss.set t = true
    · simp [h, hw t ht h]
    · simp [h]
  have hne : (c.threads.filter (sel s.iss.set)).isEmpty = false := by
    rw [List.isEmpty_eq_false_iff]
    rw [List.any_eq_true] at hany
    obtain ⟨t, ht, hsel⟩ := hany
    exact List.ne_nil_of_mem (List.mem_filter.mpr ⟨ht, hsel⟩)
  unfold issue
  rw [hc]
  simp only [hany, Bool.not_true, Bool.false_eq_true, if_false]
  rw [hmap]
  simp only [hne, Bool.false_eq_true, if_false]
  rw [if_neg]
  simp only [Bool.and_eq_true, Bool.not_eq_true', not_and, Bool.not_eq_false]
  intro hsw
  rw [List.all_eq_true]
  intro t ht
  rw [List.mem_filter] at ht
  exact hs hsw t ht.1 ht.2

/-! ## An effect that lies in one crew -/

/-- The crew after the issuing crew has become `d`, which waits for no trap, and has settled. -/
theorem settled_crew (s : State) (c d : Crew) (hc : s.crew c.uid = some c) (hd : d.uid = c.uid)
    (hq : ∀ t ∈ d.threads, t.entering = none) :
    ∃ t, (((s.onCrew c.uid fun _ => c).issued.onCrew c.uid fun _ => d).settle c.uid) = t ∧
      t.crew c.uid = some d.regroup.haltCheck ∧
      t = { s with
        crews := t.crews
        iss := t.iss } ∧ (∀ v, v ≠ c.uid → t.crew v = s.crew v) ∧ ∀ pa, t.loadB pa = s.loadB pa := by
  have h1 : ((s.onCrew c.uid fun _ => c).issued.onCrew c.uid fun _ => d).crew c.uid = some d := by
    rw [State.onCrew_crew _ _ _ (fun _ _ => hd)]
    have : (s.onCrew c.uid fun _ => c).issued.crew c.uid = (s.onCrew c.uid fun _ => c).crew c.uid := rfl
    rw [this, State.onCrew_crew _ _ _ (fun _ _ => rfl), hc]
    rfl
  refine ⟨_, settle_quiet h1 hq rfl, ?_, rfl, ?_, fun _ => rfl⟩
  · rw [State.onCrew_crew _ _ _ (fun _ h => by simpa using h), State.onCrew_crew _ _ _ (fun _ h => by simpa using h), h1]
    rfl
  · intro v hv
    rw [State.onCrew_crew_ne _ _ _ _ (fun _ h => by simpa using h) hv,
      State.onCrew_crew_ne _ _ _ _ (fun _ h => by simpa using h) hv, State.onCrew_crew_ne _ _ _ _ (fun _ _ => hd) hv]
    exact State.onCrew_crew_ne _ _ _ _ (fun _ _ => rfl) hv

/-- A settled crew differs from what it was in its threads' sets and its halt. -/
theorem settled_frame (d : Crew) : { d.regroup.haltCheck with
    threads := d.threads
    halt := d.halt } = d := rfl

/-- A settled crew's threads differ from what they were in the number of their set. -/
theorem settled_thread (d : Crew) (lane : Nat) (u : Thread) (h : d.thread lane = some u) :
    ∃ n, d.regroup.haltCheck.thread lane = some { u with set := n } := by
  rw [haltCheck_thread]
  exact regroup_thread d lane u h

/-! ## On each thread alone -/

/-- Raising no flag changes nothing. -/
theorem Thread.flag_zero (t : Thread) : t.flag 0 = t := by
  unfold Thread.flag
  rw [show t.aflg ||| 0 = t.aflg from BitVec.or_zero]

/-- A form of thread class that no context or mode refuses, uniform operands in a drip apart. -/
def Form.plain (f : Form) : Bool :=
  !f.priv && !f.firmware && f.drip && !f.uniform && f.crew && !f.coll && f.guardable && f.qs.isEmpty

/-- A plain form raises no trap of the word checks. -/
theorem wordTrap_plain {e : Env} {f : Form} {c : Crew} {t : Thread} (h : f.plain = true)
    (hx : c.drip = none ∨ f.ops.all (·.cls = .x) = true) : wordTrap e f c t = none := by
  simp only [Form.plain, Bool.and_eq_true, Bool.not_eq_true'] at h
  obtain ⟨⟨⟨⟨⟨⟨⟨h1, h2⟩, h3⟩, h4⟩, h5⟩, h6⟩, h7⟩, h8⟩ := h
  have hs : (c.drip.isSome && f.ops.any (·.cls = .s)) = false := by
    rcases hx with hx | hx
    · simp [hx]
    · rw [List.all_eq_true] at hx
      have : f.ops.any (·.cls = .s) = false := by
        rw [List.any_eq_false]
        intro o ho
        have := hx o ho
        cases ho : o.cls <;> simp_all
      simp [this]
  unfold wordTrap
  cases hd : c.drip <;> simp_all

/-- Operands that are ready pass the checks before execution. -/
theorem opCheck_ready {e : Env} {f : Form} {c : Crew} {t : Thread} (hcoll : f.coll = false) (hqs : f.qs = [])
    (h : OperandsReady c t f.sw f.ops) : opCheck e f c t = none := by
  obtain ⟨h1, h2, h3⟩ := h
  unfold opCheck
  simp only [hcoll, hqs, h1, h2, Bool.false_eq_true, if_false]
  cases hsw : f.sw
  · simp only [hsw, Bool.false_eq_true, if_false] at h3 ⊢
    rw [h3]
  · rfl

/-- An instruction whose whole effect lies in its threads completes when its threads pass its checks (R171). -/
theorem execThreads_runs {i : Instr} {f : Form} {g : Env → Crew → Thread → Except Trap Thread}
    {ok : State → Crew → Thread → Prop} {eff : Crew → Thread → Thread} (hi : ∀ s, exec i s = execThreads f s g)
    (hcoll : f.coll = false) (hw : ∀ s c t, ok s c t → wordTrap ⟨c.uid, f.word, s.iss.guard, c.region⟩ f c t = none)
    (hs : ∀ s c t, ok s c t → f.sw = true → pendClear c t none = true)
    (ho : ∀ s c t, ok s c t → guardHolds s t = true → opCheck ⟨c.uid, f.word, s.iss.guard, c.region⟩ f c t = none ∧
      g ⟨c.uid, f.word, s.iss.guard, c.region⟩ c { t with pc := nextPc s t } = .ok (eff c { t with pc := nextPc s t }))
    (he : ∀ c t, (eff c t).entering = t.entering ∧ (eff c t).lane = t.lane) : RunsWhen i ok eff := by
  intro s c hI hr
  have hu := hI.uid
  have hc : s.crew c.uid = some c := by rw [hu]; exact hI.1
  let d : Crew := { c with threads := c.threads.map (threadAfter s (eff c)) }
  have hlane : ∀ t, (threadAfter s (eff c) t).lane = t.lane := by
    intro t
    unfold threadAfter
    split
    · split
      · exact (he c _).2
      · rfl
    · rfl
  have hq : ∀ t ∈ d.threads, t.entering = none := by
    intro t ht
    obtain ⟨u, hmem, rfl⟩ := List.mem_map.mp ht
    have := hI.2.2 u hmem
    unfold threadAfter
    split
    · split
      · exact (he c _).1.trans this
      · exact this
    · exact this
  obtain ⟨t, ht, h1, h2, h3, h4⟩ := settled_crew s c d hc rfl hq
  refine ⟨t, d.regroup.haltCheck, ?_, h1, ?_, h2, h3, h4, ?_⟩
  · rw [hi, execThreads, issue_runs hI (fun t ht hsel => hw _ _ _ (hr t ht hsel))]
    · rw [← ht]
      congr 2
      unfold State.onCrew
      congr 1
      refine congrArg (fun f => mapIf _ f _) (funext fun _ => ?_)
      simp only [d]
      congr 1
      refine List.map_congr_left fun u hmem => ?_
      unfold threadAfter
      by_cases hsel : sel s.iss.set u = true
      · simp only [hsel, if_true]
        have hr' := ho s c u (hr u hmem hsel)
        unfold stepThread
        by_cases hg : guardHolds s u = true
        · have hg' : Env.guardTrue ⟨c.uid, f.word, s.iss.guard, c.region⟩ u = true := hg
          obtain ⟨e1, e2⟩ := hr' hg
          simp only [hg, hg', if_true, e1]
          rw [show ({ u with pc := Env.next ⟨c.uid, f.word, s.iss.guard, c.region⟩ u } : Thread) = { u with pc := nextPc s u } from rfl,
            e2]
        · have hg' : ¬ Env.guardTrue ⟨c.uid, f.word, s.iss.guard, c.region⟩ u = true := hg
          simp only [hg, hg']
          rfl
      · simp [hsel]
    · intro hsw t ht hsel
      have := hs s c t (hr t ht hsel) hsw
      simpa [hcoll] using this
  · intro lane u hl
    refine settled_thread d lane _ ?_
    unfold Crew.thread at hl ⊢
    simp only [d]
    rw [find_lane_map _ hlane, hl]
    rfl
  · have := settled_frame d
    exact (congrArg (fun (x : Crew) => { x with threads := c.threads }) this)

/-- The same where no value of the operands is refused. -/
theorem execPure_runs {i : Instr} {f : Form} {eff : Crew → Thread → Thread} (hi : ∀ s, exec i s = execPure f s eff)
    (hp : f.plain = true) (he : ∀ c t, (eff c t).entering = t.entering ∧ (eff c t).lane = t.lane) :
    RunsThreads i f.sw f.ops eff := by
  have hp' := hp
  simp only [Form.plain, Bool.and_eq_true, Bool.not_eq_true'] at hp'
  exact execThreads_runs (g := fun _ c t => .ok (eff c t)) hi hp'.1.1.2 (fun _ _ _ h => wordTrap_plain hp h.1)
    (fun _ _ _ h => h.2.1) (fun _ _ _ h hg => ⟨opCheck_ready hp'.1.1.2 (by simpa using hp'.2) (h.2.2 hg), rfl⟩) he

/-! ## Once on the crew -/

/-- A form of uniform class that no mode refuses. -/
def Form.uniformPlain (f : Form) : Bool :=
  !f.priv && !f.firmware && f.drip && f.crew && !f.coll && f.guardable

/-- Of the checks in program order, an earlier one passes if all do. -/
theorem depv_guard {c : Crew} {t : Thread} {x : Option Word} {g : Option Nat} {qs : List Nat} {ops : List Opnd}
    (h : depv c t x g qs ops = none) : depv c t x g [] [] = none := by
  unfold depv at *
  cases hq : g.bind fun q => (pendingQ c x q).map fun pc => mkTrap .depv 0 [3, q, pc.toNat] with
  | none => simp [hq]
  | some tr => simp [hq] at h

/-- A uniform instruction whose effect lies in the crew completes when its operands are ready (R56, R172). -/
theorem execCrew_runs {i : Instr} {f : Form} {eff : Crew → Crew × Flags} (hi : ∀ s, exec i s = execCrew f s eff)
    (hp : f.uniformPlain = true) (he : ∀ c, (eff c).1.threads = c.threads ∧ (eff c).1.uid = c.uid) :
    RunsCrew i f.sw f.qs f.ops eff := by
  intro s c ⟨hI, hdrip, hr⟩
  simp only [Form.uniformPlain, Bool.and_eq_true, Bool.not_eq_true'] at hp
  obtain ⟨⟨⟨⟨⟨h1, h2⟩, h3⟩, h4⟩, h5⟩, h6⟩ := hp
  have hu := hI.uid
  have hc : s.crew c.uid = some c := by rw [hu]; exact hI.1
  obtain ⟨t0, hfind⟩ : ∃ t0, c.threads.find? (sel s.iss.set) = some t0 := by
    have := hI.2.1
    rw [List.any_eq_true] at this
    obtain ⟨x, hx, hsx⟩ := this
    exact Option.isSome_iff_exists.mp (List.find?_isSome.mpr ⟨x, hx, hsx⟩)
  have hmem0 : t0 ∈ c.threads := List.mem_of_find?_eq_some hfind
  have hsel0 : sel s.iss.set t0 = true := List.find?_some hfind
  obtain ⟨hrr, hun, hdep⟩ := hr t0 hmem0 hsel0
  let g : Thread → Thread := fun u => if sel s.iss.set u then
      (if guardHoldsU s c then { u.flag (eff c).2 with pc := nextPc s u } else { u with pc := nextPc s u }) else u
  let b : Crew := if guardHoldsU s c then (eff c).1 else c
  let d : Crew := { b with threads := c.threads.map g }
  have hbuid : b.uid = c.uid := by
    simp only [b]
    split
    · exact (he c).2
    · rfl
  have hduid : d.uid = c.uid := hbuid
  have hlane : ∀ t, (g t).lane = t.lane := by
    intro t
    simp only [g]
    split
    · split <;> rfl
    · rfl
  have hq : ∀ t ∈ d.threads, t.entering = none := by
    intro t ht
    obtain ⟨u, hmem, rfl⟩ := List.mem_map.mp ht
    have := hI.2.2 u hmem
    simp only [g]
    split
    · split
      · exact this
      · exact this
    · exact this
  obtain ⟨t, ht, r1, r2, r3, r4⟩ := settled_crew s c d hc hduid hq
  refine ⟨t, d.regroup.haltCheck, ?_, r1, ?_, r2, ?_, r4, ?_⟩
  · rw [hi, execCrew, issue_runs hI]
    · rw [← ht]
      congr 2
      unfold State.onCrew
      congr 1
      refine congrArg (fun f => mapIf _ f _) (funext fun _ => ?_)
      have hgp : guardPends ⟨c.uid, f.word, s.iss.guard, c.region⟩ f c t0 = none := by
        unfold guardPends
        cases hsw : f.sw
        · simp only [hsw, Bool.false_eq_true, if_false] at hdep
          simp only [h5, Bool.false_eq_true, if_false, Env.guardQ, depv_guard hdep]
        · simp 
      have hoc : opCheckU ⟨c.uid, f.word, s.iss.guard, c.region⟩ f c t0 = none := by
        unfold opCheckU
        simp only [h5, hrr, hun, Bool.false_eq_true, if_false]
        cases hsw : f.sw
        · simp only [hsw, Bool.false_eq_true, if_false] at hdep ⊢
          unfold Env.guardQ
          rw [hdep]
        · rfl
      have hgt : Env.guardTrueU ⟨c.uid, f.word, s.iss.guard, c.region⟩ c = guardHoldsU s c := rfl
      simp only [hfind, hgp, hoc, hgt]
      cases hg : guardHoldsU s c
      · simp only [hg, d, b, g, Bool.not_false, if_true, Bool.false_eq_true, if_false]
        rfl
      · simp only [hg, d, b, g, Bool.not_true, if_true, Bool.false_eq_true, if_false]
        unfold Crew.onThreads
        rw [(he c).1]
        rfl
    · intro t _ _
      unfold wordTrap
      simp [h1, h2, h3, h4, h5, h6, hdrip]
    · intro hsw t ht hs
      have := (hr t ht hs).2.2
      have hsw' : f.sw = true := hsw
      simp only [hsw', if_true] at this
      simpa [h5] using this
  · intro lane u hl
    refine settled_thread d lane _ ?_
    unfold Crew.thread at hl ⊢
    simp only [d]
    rw [find_lane_map _ hlane, hl]
    rfl
  · intro v hv
    exact r3 v (by rw [← hbuid]; exact hv)
  · have := settled_frame d
    exact (congrArg (fun (x : Crew) => { x with threads := b.threads }) this)

end Sys2Proof.Machine
end

