-- ==== Sys2Proof/Laws/Tab.lean ====
section
/-! SUPPORT. Laws of canonical tables: reading after writing, and that a write keeps the canonical form. -/

namespace Sys2Proof.Machine

variable {β : Type} [DecidableEq β]

/-- A table whose keys start at `lo` or later lists nothing below `lo`. -/
theorem tabGet_below {d : β} {dk : Nat → β} {lo k : Nat} {t : Tab β} (h : tabWfFrom dk lo t = true) (hk : k < lo) :
    tabGet t d k = d := by
  induction t generalizing lo with
  | nil => rfl
  | cons p r ih =>
    obtain ⟨k', v'⟩ := p
    simp only [tabWfFrom, Bool.and_eq_true, decide_eq_true_eq] at h
    have hne : k ≠ k' := by omega
    simp only [tabGet, hne, if_false]
    exact ih h.2 (by omega)

/-- The bound of a canonical table may be lowered. -/
theorem tabWfFrom_mono {dk : Nat → β} {lo lo' : Nat} {t : Tab β} (h : tabWfFrom dk lo t = true) (hl : lo' ≤ lo) :
    tabWfFrom dk lo' t = true := by
  cases t with
  | nil => rfl
  | cons p r =>
    obtain ⟨k', v'⟩ := p
    simp only [tabWfFrom, Bool.and_eq_true, decide_eq_true_eq] at h ⊢
    exact ⟨⟨by omega, h.1.2⟩, h.2⟩

/-- A write keeps the canonical form. -/
theorem tabPut_wfFrom {dk : Nat → β} {lo k : Nat} {v : β} {t : Tab β} (h : tabWfFrom dk lo t = true) (hk : lo ≤ k) :
    tabWfFrom dk lo (tabPut t (dk k) k v) = true := by
  induction t generalizing lo with
  | nil =>
    by_cases hv : v = dk k
    · simp [tabPut, hv, tabWfFrom]
    · simp [tabPut, hv, tabWfFrom, hk]
  | cons p r ih =>
    obtain ⟨k', v'⟩ := p
    have h' := h
    simp only [tabWfFrom, Bool.and_eq_true, decide_eq_true_eq] at h
    unfold tabPut
    by_cases h1 : k < k'
    · simp only [h1, if_true]
      by_cases hv : v = dk k
      · simp [hv, h']
      · have hkk : k + 1 ≤ k' := h1
        simp [hv, tabWfFrom, hk, h.1.2, h.2, hkk]
    · simp only [h1, if_false]
      by_cases h2 : k = k'
      · subst h2
        simp only [if_true]
        by_cases hv : v = dk k
        · simp only [hv, if_true]
          exact tabWfFrom_mono h.2 (by omega)
        · simp [hv, tabWfFrom, hk, h.2]
      · simp only [h2, if_false, tabWfFrom, Bool.and_eq_true, decide_eq_true_eq]
        exact ⟨h.1, ih h.2 (by omega)⟩

/-- A write keeps the canonical form of a whole table. -/
theorem tabPut_wf {dk : Nat → β} {k : Nat} {v : β} {t : Tab β} (h : tabWf dk t = true) :
    tabWf dk (tabPut t (dk k) k v) = true :=
  tabPut_wfFrom h (Nat.zero_le k)

/-- Reading the key just written gives what was written. -/
theorem tabGet_tabPut_self {dk : Nat → β} {lo k : Nat} {v : β} {t : Tab β} (h : tabWfFrom dk lo t = true) :
    tabGet (tabPut t (dk k) k v) (dk k) k = v := by
  induction t generalizing lo with
  | nil =>
    by_cases hv : v = dk k <;> simp [tabPut, tabGet, hv]
  | cons p r ih =>
    obtain ⟨k', v'⟩ := p
    simp only [tabWfFrom, Bool.and_eq_true, decide_eq_true_eq] at h
    unfold tabPut
    by_cases h1 : k < k'
    · simp only [h1, if_true]
      by_cases hv : v = dk k
      · have hne : k ≠ k' := by omega
        simp only [hv, if_true, tabGet, hne, if_false]
        exact tabGet_below h.2 (by omega)
      · simp [hv, tabGet]
    · simp only [h1, if_false]
      by_cases h2 : k = k'
      · subst h2
        simp only [if_true]
        by_cases hv : v = dk k
        · simp only [hv, if_true]
          exact tabGet_below h.2 (by omega)
        · simp [hv, tabGet]
      · simp only [h2, if_false, tabGet]
        exact ih h.2

/-- A write leaves every other key alone. -/
theorem tabGet_tabPut_ne {d e : β} {k j : Nat} {v : β} {t : Tab β} (hj : j ≠ k) :
    tabGet (tabPut t d k v) e j = tabGet t e j := by
  induction t with
  | nil =>
    by_cases hv : v = d <;> simp [tabPut, tabGet, hv, hj]
  | cons p r ih =>
    obtain ⟨k', v'⟩ := p
    unfold tabPut
    by_cases h1 : k < k'
    · simp only [h1, if_true]
      by_cases hv : v = d <;> simp [hv, tabGet, hj]
    · simp only [h1, if_false]
      by_cases h2 : k = k'
      · subst h2
        simp only [if_true]
        by_cases hv : v = d <;> simp [hv, tabGet, hj]
      · simp only [h2, if_false, tabGet, ih]

end Sys2Proof.Machine
end

