-- ==== Sys2Proof/Laws/Memory.lean ====
section
/-! SUPPORT. Laws of memory: every operation keeps the canonical form, and reads after writes. -/

namespace Sys2Proof.Machine

/-- Writing a byte keeps the canonical form. -/
theorem writeB_wf {m : Memory} (a : Nat) (v : Byte) (h : Memory.wf m = true) : Memory.wf (writeB m a v) = true :=
  tabPut_wf (dk := fun _ => (0 : Byte)) h

/-- Writing bytes keeps the canonical form. -/
theorem writeBytes_wf {m : Memory} (a : Nat) (l : List Byte) (h : Memory.wf m = true) :
    Memory.wf (writeBytes m a l) = true := by
  induction l generalizing m a with
  | nil => exact h
  | cons b r ih => exact ih (a + 1) (writeB_wf a b h)

/-- The byte just written is read back. -/
theorem readB_writeB_self {m : Memory} (a : Nat) (v : Byte) (h : Memory.wf m = true) : readB (writeB m a v) a = v :=
  tabGet_tabPut_self (dk := fun _ => (0 : Byte)) h

/-- A byte written leaves every other address alone. -/
theorem readB_writeB_ne {m : Memory} {a b : Nat} (v : Byte) (hb : b ≠ a) : readB (writeB m a v) b = readB m b :=
  tabGet_tabPut_ne hb

/-- Bytes written leave every address outside them alone. -/
theorem readB_writeBytes_outside {m : Memory} {a b : Nat} (l : List Byte) (hb : b < a ∨ a + l.length ≤ b) :
    readB (writeBytes m a l) b = readB m b := by
  induction l generalizing m a with
  | nil => rfl
  | cons x r ih =>
    simp only [List.length_cons] at hb
    rw [writeBytes, ih (by omega), readB_writeB_ne _ (by omega)]

/-- Bytes written are read back one by one. -/
theorem readB_writeBytes_inside {m : Memory} {a : Nat} (l : List Byte) (h : Memory.wf m = true) (i : Nat)
    (hi : i < l.length) : readB (writeBytes m a l) (a + i) = l[i] := by
  induction l generalizing m a i with
  | nil => simp at hi
  | cons x r ih =>
    cases i with
    | zero =>
      rw [writeBytes, readB_writeBytes_outside _ (by omega)]
      simpa using readB_writeB_self a x h
    | succ n =>
      rw [writeBytes, show a + (n + 1) = (a + 1) + n by omega]
      simpa using ih (writeB_wf a x h) n (by simpa using hi)

/-- A store to physical memory keeps the canonical form (R363). -/
theorem storePA_wf {s : State} (pa : Nat) (l : List Byte) (h : Memory.wf s.mem = true) :
    Memory.wf (s.storePA pa l).mem = true :=
  writeBytes_wf pa l h

/-- A store leaves every byte outside it alone. -/
theorem storePA_outside {s : State} {pa b : Nat} (l : List Byte) (hb : b < pa ∨ pa + l.length ≤ b) :
    readB (s.storePA pa l).mem b = readB s.mem b :=
  readB_writeBytes_outside l hb

/-- A store puts its bytes in order. -/
theorem storePA_inside {s : State} {pa : Nat} (l : List Byte) (h : Memory.wf s.mem = true) (i : Nat)
    (hi : i < l.length) : readB (s.storePA pa l).mem (pa + i) = l[i] :=
  readB_writeBytes_inside l h i hi

/-- The bytes of a number are as many as asked for. -/
@[simp] theorem leBytes_length (n v : Nat) : (leBytes n v).length = n := by
  induction n generalizing v with
  | zero => rfl
  | succ n ih => simp [leBytes, ih]

@[simp] theorem wordsBytes_length (l : List Word) : (wordsBytes l).length = 4 * l.length := by
  induction l with
  | nil => rfl
  | cons w r ih => simp [wordsBytes, ih]; omega

end Sys2Proof.Machine
end

