-- ==== Sys2Proof/Laws/Lane.lean ====
section
/-! SUPPORT. What a lane by lane instruction does when its issue set is one thread. -/

namespace Sys2Proof.Machine

/-- A map that picks nothing changes nothing. -/
theorem mapIf_none {α : Type} (p : α → Bool) (f : α → α) (l : List α) (h : ∀ x ∈ l, p x = false) : mapIf p f l = l := by
  unfold mapIf
  refine (List.map_congr_left fun x hx => ?_).trans (List.map_id l)
  simp [h x hx]

/-- A map that leaves what it picks changes nothing. -/
theorem mapIf_same {α : Type} (p : α → Bool) (f : α → α) (l : List α) (h : ∀ x ∈ l, p x = true → f x = x) :
    mapIf p f l = l := by
  unfold mapIf
  refine (List.map_congr_left fun x hx => ?_).trans (List.map_id l)
  by_cases hp : p x = true
  · simp [hp, h x hx hp]
  · simp [hp]

/-- The crew of a lone thread. -/
theorem Alone.crew {s : State} {c : Crew} {u : Thread} (h : Alone s c u) : s.crew c.uid = some c := by
  rw [h.1.uid]
  exact h.1.1

/-- Putting a lone thread's crew back changes nothing. -/
theorem Alone.same {s : State} {c : Crew} {u : Thread} (h : Alone s c u) : (s.onCrew c.uid fun _ => c) = s := by
  unfold State.onCrew
  rw [mapIf_same]
  intro d hd hu
  exact (h.2.1 d hd (by simpa using hu)).symm

theorem Alone.mem {s : State} {c : Crew} {u : Thread} (h : Alone s c u) : u ∈ c.threads ∧ sel s.iss.set u = true := by
  have : u ∈ c.threads.filter (sel s.iss.set) := by rw [h.2.2.1]; exact List.mem_singleton.mpr rfl
  exact List.mem_filter.mp this

/-- The thread of a lane. -/
theorem Alone.thread {s : State} {c : Crew} {u : Thread} (h : Alone s c u) : c.thread u.lane = some u := by
  unfold Crew.thread
  obtain ⟨v, hv⟩ : ∃ v, c.threads.find? (·.lane == u.lane) = some v :=
    Option.isSome_iff_exists.mp (List.find?_isSome.mpr ⟨u, h.mem.1, by simp⟩)
  have hl : v.lane = u.lane := by simpa using List.find?_some hv
  rw [hv, h.2.2.2.1 v (List.mem_of_find?_eq_some hv) hl]

/-- What closing a lane does with its result. -/
def closeLane (e : Env) (u : Thread) (r : State × LaneRes) : State := closeLanes e r.1 [(u.lane, r.2)]

/-- A lane by lane instruction of a lone thread whose operands are ready, and before which what is done leaves the crew as
it is. -/
theorem execLanesAfter_alone {f : Form} {s z : State} {c : Crew} {u : Thread} {pre : Env → Crew → List Thread → State → State}
    {body : State → Env → Crew → Thread → State → State × LaneRes} (ha : Alone s c u) (hcoll : f.coll = false)
    (hw : wordTrap ⟨c.uid, f.word, s.iss.guard, c.region⟩ f c u = none) (hqs : f.qs = []) (hr : OperandsReady c u f.sw f.ops)
    (hp : pre ⟨c.uid, f.word, s.iss.guard, c.region⟩ c [u] s.issued = z) (hz : z.crew c.uid = some c) :
    execLanesAfter f s pre body = .next
      ((closeLane ⟨c.uid, f.word, s.iss.guard, c.region⟩ u (body z ⟨c.uid, f.word, s.iss.guard, c.region⟩ c u z)).settle c.uid) := by
  have hmem := ha.mem
  have hg : Env.guardTrue ⟨c.uid, f.word, s.iss.guard, c.region⟩ u = true := ha.2.2.2.2.1
  have honly : ∀ t ∈ c.threads, sel s.iss.set t = true → t = u := by
    intro t ht hs
    have : t ∈ c.threads.filter (sel s.iss.set) := List.mem_filter.mpr ⟨ht, hs⟩
    rw [ha.2.2.1] at this
    simpa using this
  rw [execLanesAfter, issue_runs ha.1]
  · congr 2
    simp only [ha.same]
    have h1 : c.threads.filter (fun t => sel s.iss.set t && Env.guardTrue ⟨c.uid, f.word, s.iss.guard, c.region⟩ t) = [u] := by
      rw [← ha.2.2.1]
      refine List.filter_congr fun t ht => ?_
      by_cases hs : sel s.iss.set t = true
      · simp [honly t ht hs, hg]
      · simp [hs]
    have h2 : (s.issued.onCrew c.uid fun k => k.onThreads
        (fun t => sel s.iss.set t && !(Env.guardTrue ⟨c.uid, f.word, s.iss.guard, c.region⟩ t)) fun t =>
          { t with pc := Env.next ⟨c.uid, f.word, s.iss.guard, c.region⟩ t }) = s.issued := by
      unfold State.onCrew
      rw [mapIf_same]
      intro d hd hu
      rw [ha.2.1 d hd (by simpa using hu)]
      unfold Crew.onThreads
      rw [mapIf_none]
      intro t ht
      by_cases hs : sel s.iss.set t = true
      · have : Env.guardTrue ⟨c.uid, f.word, s.iss.guard, c.region⟩ t = true := by rw [honly t ht hs]; exact hg
        simp [this]
      · simp [hs]
    unfold runSet
    simp only [h1]
    rw [h2, hp]
    simp only [runLanes, hz, opCheck_ready hcoll hqs hr]
    unfold closeLane
    split <;> rfl
  · intro t ht hs
    rw [honly t ht hs]
    exact hw
  · intro hsw t ht hs
    rw [honly t ht hs]
    have := hr.2.2
    simp only [hsw, if_true] at this
    simpa [hcoll] using this

theorem execLanes_alone {f : Form} {s : State} {c : Crew} {u : Thread}
    {body : Env → Crew → Thread → State → State × LaneRes} (ha : Alone s c u) (hcoll : f.coll = false)
    (hw : wordTrap ⟨c.uid, f.word, s.iss.guard, c.region⟩ f c u = none) (hqs : f.qs = []) (hr : OperandsReady c u f.sw f.ops) :
    execLanes f s body = .next
      ((closeLane ⟨c.uid, f.word, s.iss.guard, c.region⟩ u
        (body ⟨c.uid, f.word, s.iss.guard, c.region⟩ c u s.issued)).settle c.uid) :=
  execLanesAfter_alone ha hcoll hw hqs hr rfl ha.crew

/-! ## A thread changed and settled -/

/-- A crew with one lane changed, at that lane. -/
theorem onLane_thread (c : Crew) (lane : Nat) (f : Thread → Thread) (hf : ∀ t, (f t).lane = t.lane) :
    (c.onLane lane f).thread lane = (c.thread lane).map f := by
  unfold Crew.onLane Crew.thread
  rw [find_mapIf _ _ (fun t h => by simpa [hf] using h)]

/-- A crew with one lane changed, at another. -/
theorem onLane_thread_ne (c : Crew) (lane l : Nat) (f : Thread → Thread) (hf : ∀ t, (f t).lane = t.lane) (hl : l ≠ lane) :
    (c.onLane lane f).thread l = c.thread l := by
  unfold Crew.onLane Crew.thread
  rw [find_mapIf_ne]
  · intro t h
    have : t.lane = lane := by simpa using h
    simp [this, Ne.symm hl]
  · intro t h
    have : t.lane = lane := by simpa using h
    simp [hf, this, Ne.symm hl]

/-- The crew of a state with one lane changed. -/
theorem State.onLane_crew (s : State) (uid lane : Nat) (f : Thread → Thread) :
    (s.onLane uid lane f).crew uid = (s.crew uid).map (·.onLane lane f) :=
  State.onCrew_crew s uid _ fun _ h => h

/-- Another crew of it. -/
theorem State.onLane_crew_ne (s : State) (uid lane v : Nat) (f : Thread → Thread) (hv : v ≠ uid) :
    (s.onLane uid lane f).crew v = s.crew v :=
  State.onCrew_crew_ne s uid v _ (fun _ h => h) hv

/-- No replay to end. -/
theorem replayOver_none {s : State} {c : Crew} {t : Thread} {uid lane : Nat} (hc : s.crew uid = some c)
    (ht : c.thread lane = some t) (hr : t.replay = none) : s.replayOver uid lane = s := by
  unfold State.replayOver
  simp [hc, ht, hr]

/-- A performed lane goes on. -/
theorem closeLane_done {e : Env} {u v : Thread} {s : State} {d : Crew} (hc : s.crew e.uid = some d)
    (hl : d.thread u.lane = some v) (hr : v.replay = none) :
    closeLane e u (s, .done) = s.onLane e.uid u.lane fun t => { t with pc := e.next t } := by
  have h1 : (s.onLane e.uid u.lane fun t => { t with pc := e.next t }).crew e.uid =
      some (d.onLane u.lane fun t => { t with pc := e.next t }) := by
    rw [State.onLane_crew, hc]
    rfl
  have h2 : (d.onLane u.lane fun t => { t with pc := e.next t }).thread u.lane = some { v with pc := e.next v } := by
    rw [onLane_thread, hl]
    · rfl
    · exact fun _ => rfl
  unfold closeLane closeLanes
  simp only [List.foldl_cons, List.foldl_nil, List.filterMap_cons, List.filterMap_nil, parkPages]
  exact replayOver_none h1 h2 hr

/-- Banding one lane numbers its set. -/
theorem band_one (c : Crew) (l : Nat) : c.band [l] = c.onLane l fun t => { t with set := c.newSet } := by
  unfold Crew.band Crew.onThreads Crew.onLane
  congr 2
  funext t
  by_cases h : t.lane = l <;> simp [h]

/-- A lane that the instruction itself has placed. -/
theorem closeLane_held {e : Env} {u v : Thread} {s : State} {d : Crew} (hc : s.crew e.uid = some d)
    (hl : d.thread u.lane = some v) (hr : v.replay = none) :
    closeLane e u (s, .held) = s.onCrew e.uid (·.band [u.lane]) := by
  unfold closeLane closeLanes
  simp only [List.foldl_cons, List.foldl_nil, List.filterMap_cons, List.filterMap_nil, parkPages]
  rw [replayOver_none hc hl hr]
  simp

/-- No thread of a crew waits for a trap after a change of one lane that keeps none waiting. -/
theorem onLane_quiet {d : Crew} {lane : Nat} {f : Thread → Thread} (hq : ∀ t ∈ d.threads, t.entering = none)
    (hf : ∀ t, (f t).entering = t.entering) : ∀ t ∈ (d.onLane lane f).threads, t.entering = none := by
  intro t ht
  unfold Crew.onLane mapIf at ht
  obtain ⟨x, hx, rfl⟩ := List.mem_map.mp ht
  split
  · rw [hf]
    exact hq x hx
  · exact hq x hx

/-- The crew of a state in which the issuing thread has become `v` and the crew itself, its threads apart, `k`; `d` is all
of it. -/
structure LaneAt (s s1 : State) (c : Crew) (u v : Thread) (k d : Crew) : Prop where
  crew : s1.crew c.uid = some d
  iss : s1.iss = ⟨0, 0, none⟩
  quiet : ∀ t ∈ d.threads, t.entering = none
  thread : d.thread u.lane = some v
  others : ∀ l t, l ≠ u.lane → c.thread l = some t → d.thread l = some t
  frame : { d with
    threads := c.threads
    halt := c.halt } = { k with
    threads := c.threads
    halt := c.halt }
  crews : ∀ w, w ≠ c.uid → s1.crew w = s.crew w

/-- A crew whose thread has become `v` and which waits for no trap settles to that. -/
theorem LaneAt.settles {s s1 : State} {c d k : Crew} {u v : Thread} (h : LaneAt s s1 c u v k d) :
    LaneBecomes s (s1.settle c.uid) c u v k ∧ s1.settle c.uid = { s1 with crews := (s1.settle c.uid).crews } := by
  rw [settle_quiet h.crew h.quiet h.iss]
  refine ⟨⟨d.regroup.haltCheck, ?_, settled_thread d _ _ h.thread, ?_, ?_, ?_⟩, rfl⟩
  · rw [State.onCrew_crew _ _ _ (fun _ h => by simpa using h), State.onCrew_crew _ _ _ (fun _ h => by simpa using h), h.crew]
    rfl
  · intro l t hn ht
    exact settled_thread d _ _ (h.others l t hn ht)
  · have := settled_frame d
    exact (congrArg (fun (x : Crew) => { x with
      threads := c.threads
      halt := c.halt }) this).trans h.frame
  · intro w hw
    rw [State.onCrew_crew_ne _ _ _ _ (fun _ h => by simpa using h) hw,
      State.onCrew_crew_ne _ _ _ _ (fun _ h => by simpa using h) hw]
    exact h.crews w hw

/-- At issue the crew stands as it was. -/
theorem Alone.laneAt {s : State} {c : Crew} {u : Thread} (h : Alone s c u) : LaneAt s s.issued c u u c c :=
  ⟨h.crew, rfl, h.1.2.2, h.thread, fun _ _ _ h => h, rfl, fun _ _ => rfl⟩

/-- The issuing thread changed once more. -/
theorem LaneAt.onLane {s s1 : State} {c d k : Crew} {u v : Thread} (h : LaneAt s s1 c u v k d) (f : Thread → Thread)
    (hl : ∀ t, (f t).lane = t.lane) (he : ∀ t, (f t).entering = t.entering) :
    LaneAt s (s1.onLane c.uid u.lane f) c u (f v) k (d.onLane u.lane f) where
  crew := by
    rw [State.onLane_crew, h.crew]
    rfl
  iss := h.iss
  quiet := onLane_quiet h.quiet he
  thread := by
    rw [onLane_thread _ _ _ hl, h.thread]
    rfl
  others := by
    intro l t hn ht
    rw [onLane_thread_ne _ _ _ _ hl hn]
    exact h.others l t hn ht
  frame := h.frame
  crews := by
    intro w hw
    rw [State.onLane_crew_ne _ _ _ _ _ hw]
    exact h.crews w hw

/-- The issuing thread banded. -/
theorem LaneAt.banded {s s1 : State} {c d k : Crew} {u v : Thread} (h : LaneAt s s1 c u v k d) :
    LaneAt s (s1.onCrew c.uid (·.band [u.lane])) c u { v with set := d.newSet } k (d.band [u.lane]) where
  crew := by
    rw [State.onCrew_crew s1 c.uid (·.band [u.lane]) fun _ h => h, h.crew]
    rfl
  iss := h.iss
  quiet := by
    rw [band_one]
    exact onLane_quiet h.quiet fun _ => rfl
  thread := by
    rw [band_one, onLane_thread _ _ _ (by exact fun _ => rfl), h.thread]
    rfl
  others := by
    intro l t hn ht
    rw [band_one, onLane_thread_ne _ _ _ _ (by exact fun _ => rfl) hn]
    exact h.others l t hn ht
  frame := h.frame
  crews := by
    intro w hw
    rw [State.onCrew_crew_ne s1 c.uid w (·.band [u.lane]) (fun _ h => h) hw]
    exact h.crews w hw

/-- The crew itself changed, its threads and halt apart. -/
theorem LaneAt.onCrew {s s1 : State} {c d k : Crew} {u v : Thread} (h : LaneAt s s1 c u v k d) (f : Crew → Crew)
    (hu : ∀ x, (f x).uid = x.uid) (ht : ∀ x, (f x).threads = x.threads)
    (hf : ∀ (x y : Crew), { x with
        threads := c.threads
        halt := c.halt } = { y with
        threads := c.threads
        halt := c.halt } → { f x with
        threads := c.threads
        halt := c.halt } = { f y with
        threads := c.threads
        halt := c.halt }) :
    LaneAt s (s1.onCrew c.uid f) c u v (f k) (f d) where
  crew := by
    rw [State.onCrew_crew _ _ _ (fun x hx => (hu x).trans hx), h.crew]
    rfl
  iss := h.iss
  quiet := by
    rw [ht]
    exact h.quiet
  thread := by
    unfold Crew.thread
    rw [ht]
    exact h.thread
  others := by
    intro l t hn hc
    unfold Crew.thread
    rw [ht]
    exact h.others l t hn hc
  frame := hf d k h.frame
  crews := by
    intro w hw
    rw [State.onCrew_crew_ne _ _ _ _ (fun x hx => (hu x).trans hx) hw]
    exact h.crews w hw

/-- A state that has the same crews. -/
theorem LaneAt.same {s s1 s2 : State} {c d k : Crew} {u v : Thread} (h : LaneAt s s1 c u v k d)
    (hc : s2.crews = s1.crews) (hi : s2.iss = ⟨0, 0, none⟩) : LaneAt s s2 c u v k d := by
  have : ∀ w, s2.crew w = s1.crew w := by
    intro w
    unfold State.crew
    rw [hc]
  exact ⟨by rw [this]; exact h.crew, hi, h.quiet, h.thread, h.others, h.frame, fun w hw => by rw [this]; exact h.crews w hw⟩

/-- A performed lane settles. -/
theorem LaneAt.done {s s1 : State} {c d k : Crew} {u v : Thread} {e : Env} (h : LaneAt s s1 c u v k d)
    (he : e.uid = c.uid) (hr : v.replay = none) :
    LaneBecomes s ((closeLane e u (s1, .done)).settle c.uid) c u { v with pc := e.next v } k ∧
      (closeLane e u (s1, .done)).settle c.uid =
        { s1 with crews := ((closeLane e u (s1, .done)).settle c.uid).crews } := by
  rw [closeLane_done (by rw [he]; exact h.crew) h.thread hr, he]
  exact (h.onLane (fun t => { t with pc := e.next t }) (fun _ => rfl) (fun _ => rfl)).settles

/-- A lane that the instruction has placed settles. -/
theorem LaneAt.held {s s1 : State} {c d k : Crew} {u v : Thread} {e : Env} (h : LaneAt s s1 c u v k d)
    (he : e.uid = c.uid) (hr : v.replay = none) :
    LaneBecomes s ((closeLane e u (s1, .held)).settle c.uid) c u v k ∧
      (closeLane e u (s1, .held)).settle c.uid =
        { s1 with crews := ((closeLane e u (s1, .held)).settle c.uid).crews } := by
  rw [closeLane_held (by rw [he]; exact h.crew) h.thread hr, he]
  obtain ⟨⟨c', h1, ⟨n, h2⟩, h3⟩, h4⟩ := h.banded.settles
  exact ⟨⟨c', h1, ⟨n, h2⟩, h3⟩, h4⟩

/-- A lane that goes on with nothing in flight. -/
theorem LaneAt.goes {R : State → State → Prop} {s b s1 : State} {c d k : Crew} {u v : Thread} {e : Env}
    (h : LaneAt s s1 c u v k d) (he : e.uid = c.uid) (hr : v.replay = none) (hn : e.next v = nextPc s u)
    (hs : ∀ cs, R b { s1 with crews := cs }) : GoesBy R s b ((closeLane e u (s1, .done)).settle c.uid) c u v k := by
  obtain ⟨h2, h3⟩ := h.done he hr
  rw [hn] at h2
  exact ⟨h2, by rw [h3]; exact hs _⟩

/-- A result put in flight by a lane that goes on. -/
theorem LaneAt.lands {R : State → State → Prop} {s b s1 : State} {c d k : Crew} {u v : Thread} {e : Env}
    {vals : List (Nat × Word)} {mem : Bool} (h : LaneAt s s1 c u v k d) (he : e.uid = c.uid) (hr : v.replay = none)
    (hn : e.next v = nextPc s u) (hp : e.pcI u = s.issPc u) (hv : v.pendX = u.pendX)
    (hs : ∀ cs, R (flies s b ⟨s.nextId, c.uid, u.lane, false, vals, none, none, false, mem⟩)
      { (s1.inFlight c.uid u.lane (e.pcI u) vals none mem) with crews := cs }) :
    LandsBy mem R s b ((closeLane e u (s1.inFlight c.uid u.lane (e.pcI u) vals none mem, .done)).settle c.uid) c u v k vals := by
  let f : Thread → Thread := fun t => { t with pendX := pendAll t.pendX (vals.map Prod.fst) (e.pcI u) }
  have h1 : LaneAt s (s1.inFlight c.uid u.lane (e.pcI u) vals none mem) c u (f v) k (d.onLane u.lane f) :=
    LaneAt.same (h.onLane f (fun _ => rfl) (fun _ => rfl)) rfl h.iss
  obtain ⟨h2, h3⟩ := h1.done he (by exact hr)
  refine ⟨?_, by rw [h3]; exact hs _⟩
  have hn' : e.next (f v) = nextPc s u := hn
  have hv' : (f v).pendX = pendAll u.pendX (vals.map Prod.fst) (s.issPc u) := by
    rw [← hp, ← hv]
  rw [hn'] at h2
  rw [← hv']
  exact h2

end Sys2Proof.Machine
end

