-- ==== Sys2Proof/Laws/Access.lean ====
section
/-! SUPPORT. What an access that passes its checks leads to. -/

namespace Sys2Proof.Machine

/-! ## Translation -/

/-- Translation changes what a world holds and counts, may take a free value, and changes nothing else. -/
theorem translate_frame (s : State) (wn core va : Nat) :
    ∃ ws n, (s.translate wn core va).1 = { s with
      worlds := ws
      freeCtr := n } := by
  unfold State.translate
  split
  · exact ⟨_, _, rfl⟩
  · split
    · exact ⟨_, _, rfl⟩
    · simp only
      split
      · split <;> exact ⟨_, _, rfl⟩
      · split <;> split <;> first
          | exact ⟨_, _, rfl⟩
          | (split <;> exact ⟨_, _, rfl⟩)

/-- A translation that names a frame of the device notes which. -/
theorem touchLeaf_frame (s : State) (wn : Nat) (l : Leaf) : ∃ fs, s.touchLeaf wn l = { s with touched := fs } := by
  unfold State.touchLeaf
  split
  · exact ⟨_, rfl⟩
  · split
    · split <;> exact ⟨_, rfl⟩
    · exact ⟨_, rfl⟩

/-- Finding where an access goes changes no more than the two together. -/
theorem resolve_frame (s : State) (wn core : Nat) (k : AccKind) (va n : Nat) :
    ∃ ws f fs, (s.resolve wn core k va n).1 = { s with
      worlds := ws
      freeCtr := f
      touched := fs } := by
  obtain ⟨ws, f, h⟩ := translate_frame s wn core va
  unfold State.resolve
  split
  · exact ⟨_, _, _, rfl⟩
  · split
    · exact ⟨_, _, _, rfl⟩
    · split
      · next heq =>
        rw [heq] at h
        exact ⟨ws, f, _, h⟩
      · next z l heq =>
        rw [heq] at h
        obtain ⟨fs, e⟩ := touchLeaf_frame z wn l
        exact ⟨ws, f, fs, e.trans (by rw [show z = _ from h])⟩

/-! ## Caches, the directory, the throttle -/

/-- `t` differs from `s` in the lines that caches and the directory hold, the throttle, and the events of these alone. -/
def CacheOnly (s t : State) : Prop :=
  ∃ lines flying l1 vtags scores throttled agenda, t = { s with
    lines, flying, l1, vtags, scores, throttled, agenda } ∧ agenda.filter (!·.aside) = s.agenda.filter (!·.aside)

theorem CacheOnly.refl (s : State) : CacheOnly s s := ⟨_, _, _, _, _, _, _, rfl, rfl⟩

theorem CacheOnly.trans {s t u : State} (h : CacheOnly s t) (k : CacheOnly t u) : CacheOnly s u := by
  obtain ⟨_, _, _, _, _, _, _, rfl, h⟩ := h
  obtain ⟨_, _, _, _, _, _, _, rfl, k⟩ := k
  exact ⟨_, _, _, _, _, _, _, rfl, k.trans h⟩

theorem armSwaps_cacheOnly (l : List Nat) (s : State) : CacheOnly s (l.foldl (fun s u => s.arm (.throttleSwap u)) s) := by
  induction l generalizing s with
  | nil => exact .refl s
  | cons u r ih =>
    refine CacheOnly.trans ?_ (ih _)
    simp only [State.arm]
    split
    · exact .refl s
    · exact ⟨_, _, _, _, _, _, _, rfl, by simp [Event.aside, Event.channel]⟩

theorem scoreRise_cacheOnly (s : State) (core uid : Nat) : CacheOnly s (s.scoreRise core uid) := by
  unfold State.scoreRise State.throttle
  exact CacheOnly.trans ⟨_, _, _, _, _, _, _, rfl, rfl⟩ (armSwaps_cacheOnly _ _)

theorem useLines_cacheOnly (s : State) (a keep : Nat) (w : Bool) (l : List Nat) : CacheOnly s (s.useLines a keep w l) := by
  refine ⟨_, _, _, _, _, _, _, rfl, ?_⟩
  split
  · rfl
  · rw [List.filter_filter]
    refine List.filter_congr fun e _ => ?_
    cases h : e.channel <;> simp [Event.aside, h]

/-- An access through the caches of a core changes them, the directory and the throttle alone (R347, R364). -/
theorem cached_cacheOnly (s : State) (core uid : Nat) (t : Target) (w : Bool) : CacheOnly s (s.cached core uid t w) := by
  unfold State.cached
  split
  · exact .refl s
  · next p _ =>
    have rise : CacheOnly s (if s.lostLine core uid p then s.scoreRise core uid else s) := by
      split
      · exact scoreRise_cacheOnly s core uid
      · exact .refl s
    have fill : ∀ z : State, CacheOnly z (z.l1Fill core uid p) := fun z => ⟨_, _, _, _, _, _, _, rfl, rfl⟩
    refine CacheOnly.trans ?_ (fill _)
    refine rise.trans ?_
    generalize (if s.lostLine core uid p then s.scoreRise core uid else s) = z
    split
    · exact useLines_cacheOnly _ _ _ _ _
    · exact .refl _

theorem cachedAt_cacheOnly (s : State) (c : Crew) (d : Dest) : CacheOnly s (s.cachedAt c d) := by
  unfold State.cachedAt
  split
  · exact .refl s
  · exact cached_cacheOnly _ _ _ _ _

/-! ## What is still to be performed -/

/-- A thread with nothing half performed finishes nothing (R129). -/
theorem finishHalves_settled {s : State} {c : Crew} {u : Thread} (h : Settled s c u) : s.finishHalves c.uid u.lane = s := by
  have h1 : (s.stores.any fun q => q.half && q.crew == c.uid && q.lane == u.lane) = false := by
    rw [List.any_eq_false]
    intro q hq
    have := h.1 q hq
    simp only [Bool.and_eq_true, beq_iff_eq, not_and]
    exact fun hh hc => this ⟨hh.2, hc⟩
  have h2 : (s.landings.filterMap fun l => if l.crew == c.uid && l.lane == u.lane then l.late.map (·.tag) else none) = [] := by
    rw [List.filterMap_eq_nil_iff]
    intro l hl
    split
    · next hh =>
      simp only [Bool.and_eq_true, beq_iff_eq] at hh
      simp [(h.2 l hl hh.1 hh.2).2]
    · rfl
  unfold State.finishHalves
  simp only [h1, h2, Bool.false_eq_true, if_false, List.isEmpty_nil, if_true]

/-- Nor does it wait for a store or a row of its own (R123). -/
theorem drainFor_settled {s : State} {c : Crew} {u : Thread} (h : Settled s c u) (p : Place) (n : Nat) :
    s.drainFor c.uid u.lane p n = s := by
  have h1 : (s.stores.any fun q => q.crew == c.uid && q.lane == u.lane && q.touches p n) = false := by
    rw [List.any_eq_false]
    intro q hq
    have := h.1 q hq
    simp only [Bool.and_eq_true, beq_iff_eq, not_and]
    exact fun hh _ => this hh
  unfold State.drainFor State.landRows
  simp only [h1, Bool.false_eq_true, if_false]
  rw [if_neg]
  simp only [Bool.not_eq_true, List.any_eq_false, Bool.and_eq_true, beq_iff_eq, not_and]
  intro l hl hh
  simp [(h.2 l hl hh.1.1 hh.1.2).1]

/-- A range that no narrow scope leaves open reads as it is (R132). -/
theorem stale_current {s : State} {c : Crew} {p : Place} {l : List Byte} (h : Current s c p l.length) (i : Nat) :
    s.stale (.crew c.uid) i p l = l := by
  unfold State.stale
  rw [if_neg]
  simp only [Bool.not_eq_true, List.any_eq_false, Bool.and_eq_true, not_and]
  intro o ho hm
  cases hn : o.base.near 4 p l.length
  · rfl
  · exact absurd hm (by simp [h o ho hn])

/-! ## Accesses -/

/-- A thread that replays nothing accesses in its crew's region. -/
theorem accessRegion_none {s : State} {c : Crew} {u : Thread} (h : u.replay = none) : s.accessRegion c u = c.region := by
  unfold State.accessRegion
  simp [h]

/-- The crew of a number has that number. -/
theorem crew_getD_uid (s : State) (c : Crew) : ((s.crew c.uid).getD c).uid = c.uid := by
  cases h : s.crew c.uid with
  | none => rfl
  | some d => simpa using List.find?_some h

/-- A generic access that passes its checks is performed, after `pre`, on a state that differs in its records and in what
the access does to caches, the directory and the throttle. -/
theorem genAccess_ok {s : State} {c : Crew} {u : Thread} {pc : Word} {x : Acc1} {ea : Nat} {pre : State → State} {d : Dest}
    (h : GenAccessOk s c u pc x ea pre d) (hs : Settled s c u) (hr : u.replay = none) :
    ∃ s1 recs recWaits, (∀ go, s.genAccess c u pc x ea pre go = go s1 d) ∧
      CacheOnly { pre (s.resolve c.world c.core x.kind ea x.size).1 with recs, recWaits } s1 := by
  obtain ⟨⟨h1, h1'⟩, h2, h3, h4, h5, h6, h7, h8⟩ := h
  have hw : (s.resolve c.world c.core x.kind ea x.size).1.recWaits = s.recWaits := by
    obtain ⟨_, _, _, e⟩ := resolve_frame s c.world c.core x.kind ea x.size
    rw [e]
  unfold State.genAccess
  rw [finishHalves_settled hs]
  generalize hres : s.resolve c.world c.core x.kind ea x.size = res at h4 h5 h6 h7 h8 hw ⊢
  obtain ⟨s0, r⟩ := res
  simp only at h4 h5 h6 h7 h8 hw
  subst h4
  have h5' : (x.kind.stores && s0.readOnly u.mode d.target x.size) = false := by
    cases hk : x.kind.stores
    · rfl
    · simp [h5 hk]
  unfold accessOf at h7 h8
  simp only [hres, h1, h1', h2, h5', Bool.or_self, h6, h7, accessRegion_none hr, Nat.not_le.mpr h3, ne_eq, not_true_eq_false, if_false, Bool.false_eq_true]
  cases ht : d.tracked
  · simp only [Bool.not_false, if_true]
    exact ⟨_, _, _, fun _ => rfl, cachedAt_cacheOnly (pre s0) _ _⟩
  · obtain ⟨h9, h10⟩ := h8 ht
    have hn : (s0.recWaits.any fun w => w.crew == c.uid && w.lane == u.lane && w.pc == u.pc) = false := by
      rw [hw, List.any_eq_false]
      intro w hm
      have := h9 w hm
      simp only [Bool.and_eq_true, beq_iff_eq, not_and]
      exact fun hh hp => this ⟨hh.1, hh.2, hp⟩
    simp only [Bool.not_true, Bool.false_eq_true, if_false, hn]
    unfold State.makeRoom
    rw [crew_getD_uid] at h10
    rw [if_pos (by simpa using h10)]
    refine ⟨_, (((pre s0).recServed c u).record
      ⟨.crew c.uid, (((pre s0).crew c.uid).getD c).region, !x.kind.readsOnly, x.sync, pc⟩ d.target d.place x.size).recs, ((pre s0).recServed c u).recWaits,
      fun _ => rfl, ?_⟩
    refine CacheOnly.trans ?_ (cachedAt_cacheOnly _ _ _)
    unfold State.record State.recServed
    split <;> exact CacheOnly.refl _

/-- Reading physical memory looks at memory and poison alone. -/
theorem loadPA_congr {s t : State} (hm : t.mem = s.mem) (hp : t.poison = s.poison) (pa n : Nat) : t.loadPA pa n = s.loadPA pa n := by
  unfold State.loadPA State.loadB
  rw [hm, hp]

/-- What a state in which a load begins differs in: a free value may be drawn. -/
theorem loadStart_frame (s : State) : ∃ n, loadStart s = { s.issued with freeCtr := n } := by
  unfold loadStart State.drawOlder
  split <;> exact ⟨_, rfl⟩

/-- A generic access that passes its checks and orders nothing is performed on a state beside which nothing has changed. -/
theorem genAccess_beside {s z : State} {c : Crew} {u : Thread} {pc : Word} {x : Acc1} {ea : Nat} {d : Dest}
    (hz : ∃ n, z = { s.issued with freeCtr := n }) (h : GenAccessOk z c u pc x ea id d) (hs : Settled s c u) (hr : u.replay = none) :
    ∃ s1, (∀ go, z.genAccess c u pc x ea id go = go s1 d) ∧ Beside s s1 ∧ s1.crews = s.crews := by
  obtain ⟨n, rfl⟩ := hz
  obtain ⟨s1, recs, ws, h1, h2⟩ := genAccess_ok h (by exact hs) hr
  obtain ⟨_, _, _, hres⟩ := resolve_frame { s.issued with freeCtr := n } c.world c.core x.kind ea x.size
  rw [hres] at h2
  obtain ⟨_, _, _, _, _, _, _, rfl, he⟩ := h2
  exact ⟨_, h1, ⟨rfl, he⟩, rfl⟩

/-- A generic load of up to 8 B of a lone thread from physical memory (R211). -/
theorem load_runs {i : Instr} {w : Word} {n : Nat} {sg sw : Bool} {d a : BitVec 7} {o : BitVec 8} {ops : List Opnd}
    {s : State} {c : Crew} {u : Thread} {pa : Nat} {pl : Place} {tr so own : Bool} {place : Crew → State → Thread → Place}
    (hn : n ≠ 16) (hi : exec i s = execLanesAfter { word := w, sw := sw, ops := ops } s
      (fun _ c ts s => s.loadsBegin c n (place c s) ts) (loadLane n sg d a o s.nextId))
    (ha : AloneReady s c u sw ops) (hs : Settled s c u)
    (hk : GenAccessOk (loadStart s) c u (s.issPc u) (plainLoad n) ((u.x64 a.toNat).toNat + o.toNat * n) id
      ⟨.mem pa, pl, tr, so, own⟩)
    (hc : Current s c pl n) :
    ∃ t, exec i s = .next t ∧ LandsMem s s t c u u c (destVals (u.wb + d.toNat) (loadWords n sg (s.loadPA pa n))) := by
  obtain ⟨hA, hx, hR⟩ := ha
  have hrep : u.replay = none := hA.2.2.2.2.2
  obtain ⟨f, hf⟩ := loadStart_frame s
  obtain ⟨s1, h1, h2, h3⟩ := genAccess_beside ⟨f, hf⟩ hk hs hrep
  have hbegin : (fun (_ : Env) (c : Crew) ts (s : State) => s.loadsBegin c n (place c s) ts)
      ⟨c.uid, w, s.iss.guard, c.region⟩ c [u] s.issued = loadStart s := by
    simp only [State.loadsBegin, State.lanesBegin, List.foldl_cons, List.foldl_nil]
    unfold loadStart
    congr 1
    split
    · rfl
    · rw [finishHalves_settled (by exact hs)]
      exact drainFor_settled (by exact hs) _ _
  have hread : (loadStart s).loadAt c ⟨.mem pa, pl, tr, so, own⟩ n = s.loadPA pa n := by
    have hmem : (loadStart s).loadPA pa n = s.loadPA pa n := loadPA_congr (by rw [hf]; rfl) (by rw [hf]; rfl) pa n
    have hlen : (s.loadPA pa n).length = n := by simp [State.loadPA]
    unfold State.loadAt
    simp only [State.loadT, hmem]
    split
    · refine stale_current ?_ _
      rw [hlen, hf]
      exact hc
    · rfl
  have key : loadLane n sg d a o s.nextId (loadStart s) ⟨c.uid, w, s.iss.guard, c.region⟩ c u (loadStart s) =
      (s1.inFlight c.uid u.lane (Env.pcI ⟨c.uid, w, s.iss.guard, c.region⟩ u) (destVals (u.wb + d.toNat)
        (loadWords n sg (s.loadPA pa n))) none true, .done) := by
    unfold loadLane
    rw [show Env.pcI ⟨c.uid, w, s.iss.guard, c.region⟩ u = s.issPc u from rfl, h1]
    simp only [hn, if_false, hread]
  have hl : LaneAt s s1 c u u c c := hA.laneAt.same (by rw [h3]; rfl) (by rw [h2.1])
  rw [hi, execLanesAfter_alone hA rfl (wordTrap_plain rfl hx) rfl hR hbegin (by rw [hf]; exact hA.crew), key]
  refine ⟨_, rfl, hl.lands rfl hrep rfl rfl rfl fun cs => ⟨?_, ?_⟩⟩
  · rw [h2.1]
    rfl
  · simp only [flies, State.inFlight, State.fresh, State.post, State.onLane, State.onCrew, List.filter_append, h2.2]
    rw [h2.1]
    rfl

end Sys2Proof.Machine
end

