-- ==== Sys2Proof/Laws/Decode.lean ====
section
/-! SUPPORT. Fields of an encoded word, and the decoder of each major: what reading an encoding back rests on. -/

namespace Sys2Proof

-- Each proof is checked before the next is read, so that no more of them wait on the same definition than the checker has
-- threads for.
set_option Elab.async false

/-! ## Fields of an appended bit string -/

/-- A field that lies in the low part. -/
theorem extract_append_low {n m k : Nat} (x : BitVec n) (y : BitVec m) (i : Nat) (h : i + k ≤ m) :
    (x ++ y).extractLsb' i k = y.extractLsb' i k := by
  apply BitVec.eq_of_getLsbD_eq
  intro j hj
  simp only [BitVec.getLsbD_extractLsb', hj, decide_true, Bool.true_and, BitVec.getLsbD_append]
  have : i + j < m := by omega
  simp [this]

/-- A field that lies in the high part. -/
theorem extract_append_high {n m k : Nat} (x : BitVec n) (y : BitVec m) (i : Nat) (h : m ≤ i) :
    (x ++ y).extractLsb' i k = x.extractLsb' (i - m) k := by
  apply BitVec.eq_of_getLsbD_eq
  intro j hj
  simp only [BitVec.getLsbD_extractLsb', hj, decide_true, Bool.true_and, BitVec.getLsbD_append]
  have : ¬ i + j < m := by omega
  simp only [this, ite_false]
  congr 1
  omega

/-- The whole of a bit string. -/
theorem extract_whole {n : Nat} (x : BitVec n) : x.extractLsb' 0 n = x := by
  apply BitVec.eq_of_getLsbD_eq
  intro j hj
  simp [hj]

/-! ## Fields built of parts -/

@[simp] theorem pad4_14_low (y : BitVec 14) : (0#4 ++ y : BitVec 18).extractLsb' 0 14 = y := by
  refine (extract_append_low _ _ _ (by omega)).trans ?_
  exact extract_whole _

@[simp] theorem pad4_14_high (y : BitVec 14) : (0#4 ++ y : BitVec 18).extractLsb' 14 4 = 0#4 := by
  refine (extract_append_high _ _ _ (by omega)).trans ?_
  exact extract_whole _

@[simp] theorem pad4_3_low (y : BitVec 3) : (0#4 ++ y : BitVec 7).extractLsb' 0 3 = y := by
  refine (extract_append_low _ _ _ (by omega)).trans ?_
  exact extract_whole _

@[simp] theorem pad4_3_high (y : BitVec 3) : (0#4 ++ y : BitVec 7).extractLsb' 3 4 = 0#4 := by
  refine (extract_append_high _ _ _ (by omega)).trans ?_
  exact extract_whole _

@[simp] theorem pad2_2_low (y : BitVec 2) : (0#2 ++ y : BitVec 4).extractLsb' 0 2 = y := by
  refine (extract_append_low _ _ _ (by omega)).trans ?_
  exact extract_whole _

@[simp] theorem pad2_2_high (y : BitVec 2) : (0#2 ++ y : BitVec 4).extractLsb' 2 2 = 0#2 := by
  refine (extract_append_high _ _ _ (by omega)).trans ?_
  exact extract_whole _

@[simp] theorem pad3_4_low (y : BitVec 4) : (0#3 ++ y : BitVec 7).extractLsb' 0 4 = y := by
  refine (extract_append_low _ _ _ (by omega)).trans ?_
  exact extract_whole _

@[simp] theorem pad3_4_high (y : BitVec 4) : (0#3 ++ y : BitVec 7).extractLsb' 4 3 = 0#3 := by
  refine (extract_append_high _ _ _ (by omega)).trans ?_
  exact extract_whole _

@[simp] theorem pad1_6_low (y : BitVec 6) : (0#1 ++ y : BitVec 7).extractLsb' 0 6 = y := by
  refine (extract_append_low _ _ _ (by omega)).trans ?_
  exact extract_whole _

@[simp] theorem pad1_6_high (y : BitVec 6) : (0#1 ++ y : BitVec 7).extractLsb' 6 1 = 0#1 := by
  refine (extract_append_high _ _ _ (by omega)).trans ?_
  exact extract_whole _

@[simp] theorem pad5_2_low (y : BitVec 2) : (0#5 ++ y : BitVec 7).extractLsb' 0 2 = y := by
  refine (extract_append_low _ _ _ (by omega)).trans ?_
  exact extract_whole _

@[simp] theorem pad5_2_high (y : BitVec 2) : (0#5 ++ y : BitVec 7).extractLsb' 2 5 = 0#5 := by
  refine (extract_append_high _ _ _ (by omega)).trans ?_
  exact extract_whole _

@[simp] theorem code1_2_low (y : BitVec 2) : (1#2 ++ y : BitVec 4).extractLsb' 0 2 = y := by
  refine (extract_append_low _ _ _ (by omega)).trans ?_
  exact extract_whole _

@[simp] theorem code1_2_high (y : BitVec 2) : (1#2 ++ y : BitVec 4).extractLsb' 2 2 = 1#2 := by
  refine (extract_append_high _ _ _ (by omega)).trans ?_
  exact extract_whole _

@[simp] theorem code2_2_low (y : BitVec 2) : (2#2 ++ y : BitVec 4).extractLsb' 0 2 = y := by
  refine (extract_append_low _ _ _ (by omega)).trans ?_
  exact extract_whole _

@[simp] theorem code2_2_high (y : BitVec 2) : (2#2 ++ y : BitVec 4).extractLsb' 2 2 = 2#2 := by
  refine (extract_append_high _ _ _ (by omega)).trans ?_
  exact extract_whole _

@[simp] theorem cvtParts_r (t : BitVec 4) (k : Bool) (r : BitVec 2) : (t ++ BitVec.ofBool k ++ r : BitVec 7).extractLsb' 0 2 = r := by
  refine (extract_append_low _ _ _ (by omega)).trans ?_
  exact extract_whole _

@[simp] theorem cvtParts_k (t : BitVec 4) (k : Bool) (r : BitVec 2) : (t ++ BitVec.ofBool k ++ r : BitVec 7).extractLsb' 2 1 = BitVec.ofBool k := by
  refine (extract_append_high _ _ _ (by omega)).trans ?_
  refine (extract_append_low _ _ _ (by omega)).trans ?_
  exact extract_whole _

@[simp] theorem cvtParts_t (t : BitVec 4) (k : Bool) (r : BitVec 2) : (t ++ BitVec.ofBool k ++ r : BitVec 7).extractLsb' 3 4 = t := by
  refine (extract_append_high _ _ _ (by omega)).trans ?_
  refine (extract_append_high _ _ _ (by omega)).trans ?_
  exact extract_whole _

@[simp] theorem condParts_c (n : Bool) (c : BitVec 3) : (BitVec.ofBool n ++ c : BitVec 4).extractLsb' 0 3 = c := by
  refine (extract_append_low _ _ _ (by omega)).trans ?_
  exact extract_whole _

@[simp] theorem condParts_n (n : Bool) (c : BitVec 3) : (BitVec.ofBool n ++ c : BitVec 4).extractLsb' 3 1 = BitVec.ofBool n := by
  refine (extract_append_high _ _ _ (by omega)).trans ?_
  exact extract_whole _

@[simp] theorem fenceParts_z (c : BitVec 3) (m : BitVec 2) : (c ++ m ++ 0#2 : BitVec 7).extractLsb' 0 2 = 0#2 := by
  refine (extract_append_low _ _ _ (by omega)).trans ?_
  exact extract_whole _

@[simp] theorem fenceParts_m (c : BitVec 3) (m : BitVec 2) : (c ++ m ++ 0#2 : BitVec 7).extractLsb' 2 2 = m := by
  refine (extract_append_high _ _ _ (by omega)).trans ?_
  refine (extract_append_low _ _ _ (by omega)).trans ?_
  exact extract_whole _

@[simp] theorem fenceParts_c (c : BitVec 3) (m : BitVec 2) : (c ++ m ++ 0#2 : BitVec 7).extractLsb' 4 3 = c := by
  refine (extract_append_high _ _ _ (by omega)).trans ?_
  refine (extract_append_high _ _ _ (by omega)).trans ?_
  exact extract_whole _

@[simp] theorem waitParts_p (c : BitVec 3) (p : BitVec 2) : (c ++ 0#2 ++ p : BitVec 7).extractLsb' 0 2 = p := by
  refine (extract_append_low _ _ _ (by omega)).trans ?_
  exact extract_whole _

@[simp] theorem waitParts_z (c : BitVec 3) (p : BitVec 2) : (c ++ 0#2 ++ p : BitVec 7).extractLsb' 2 2 = 0#2 := by
  refine (extract_append_high _ _ _ (by omega)).trans ?_
  refine (extract_append_low _ _ _ (by omega)).trans ?_
  exact extract_whole _

@[simp] theorem waitParts_c (c : BitVec 3) (p : BitVec 2) : (c ++ 0#2 ++ p : BitVec 7).extractLsb' 4 3 = c := by
  refine (extract_append_high _ _ _ (by omega)).trans ?_
  refine (extract_append_high _ _ _ (by omega)).trans ?_
  exact extract_whole _

@[simp] theorem tileParts_t (z : Bool) (t : BitVec 3) : (0#3 ++ BitVec.ofBool z ++ t : BitVec 7).extractLsb' 0 3 = t := by
  refine (extract_append_low _ _ _ (by omega)).trans ?_
  exact extract_whole _

@[simp] theorem tileParts_z (z : Bool) (t : BitVec 3) : (0#3 ++ BitVec.ofBool z ++ t : BitVec 7).extractLsb' 3 1 = BitVec.ofBool z := by
  refine (extract_append_high _ _ _ (by omega)).trans ?_
  refine (extract_append_low _ _ _ (by omega)).trans ?_
  exact extract_whole _

@[simp] theorem tileParts_high (z : Bool) (t : BitVec 3) : (0#3 ++ BitVec.ofBool z ++ t : BitVec 7).extractLsb' 4 3 = 0#3 := by
  refine (extract_append_high _ _ _ (by omega)).trans ?_
  refine (extract_append_high _ _ _ (by omega)).trans ?_
  exact extract_whole _

@[simp] theorem cvtParts_bit (t : BitVec 4) (k : Bool) (r : BitVec 2) :
    (t ++ BitVec.ofBool k ++ r : BitVec 7)[2] = k := by
  rw [← BitVec.getLsbD_eq_getElem]
  simp only [BitVec.getLsbD_append]
  cases k <;> rfl

@[simp] theorem condParts_bit (n : Bool) (c : BitVec 3) : (BitVec.ofBool n ++ c : BitVec 4)[3] = n := by
  rw [← BitVec.getLsbD_eq_getElem]
  simp only [BitVec.getLsbD_append]
  cases n <;> rfl

@[simp] theorem tileParts_bit (z : Bool) (t : BitVec 3) : (0#3 ++ BitVec.ofBool z ++ t : BitVec 7)[3] = z := by
  rw [← BitVec.getLsbD_eq_getElem]
  simp only [BitVec.getLsbD_append]
  cases z <;> rfl

/-! ## Fields of each format (R144) -/

@[simp] theorem encRRR_major (s : Bool) (m : BitVec 6) (fn : BitVec 4) (d a b : BitVec 7) : (encRRR s m fn d a b).extractLsb' 25 6 = m := by
  unfold encRRR
  simp (disch := omega) only [extract_append_high, extract_append_low, Nat.reduceSub]
  exact extract_whole _

@[simp] theorem encRRR_fn (s : Bool) (m : BitVec 6) (fn : BitVec 4) (d a b : BitVec 7) : (encRRR s m fn d a b).extractLsb' 21 4 = fn := by
  unfold encRRR
  simp (disch := omega) only [extract_append_high, extract_append_low, Nat.reduceSub]
  exact extract_whole _

@[simp] theorem encRRR_d (s : Bool) (m : BitVec 6) (fn : BitVec 4) (d a b : BitVec 7) : (encRRR s m fn d a b).extractLsb' 14 7 = d := by
  unfold encRRR
  simp (disch := omega) only [extract_append_high, extract_append_low, Nat.reduceSub]
  exact extract_whole _

@[simp] theorem encRRR_a (s : Bool) (m : BitVec 6) (fn : BitVec 4) (d a b : BitVec 7) : (encRRR s m fn d a b).extractLsb' 7 7 = a := by
  unfold encRRR
  simp (disch := omega) only [extract_append_high, extract_append_low, Nat.reduceSub]
  exact extract_whole _

@[simp] theorem encRRR_b (s : Bool) (m : BitVec 6) (fn : BitVec 4) (d a b : BitVec 7) : (encRRR s m fn d a b).extractLsb' 0 7 = b := by
  unfold encRRR
  simp (disch := omega) only [extract_append_low]
  exact extract_whole _

theorem encRRR_s (s : Bool) (m : BitVec 6) (fn : BitVec 4) (d a b : BitVec 7) : (encRRR s m fn d a b).getLsbD 31 = s := by
  unfold encRRR
  simp only [BitVec.getLsbD_append]
  cases s <;> rfl

@[simp] theorem encRRR_top (s : Bool) (m : BitVec 6) (fn : BitVec 4) (d a b : BitVec 7) : (encRRR s m fn d a b)[31] = s := by
  rw [← BitVec.getLsbD_eq_getElem]
  exact encRRR_s ..

@[simp] theorem encRI_major (s : Bool) (m : BitVec 6) (d a : BitVec 7) (i : BitVec 11) : (encRI s m d a i).extractLsb' 25 6 = m := by
  unfold encRI
  simp (disch := omega) only [extract_append_high, extract_append_low, Nat.reduceSub]
  exact extract_whole _

@[simp] theorem encRI_d (s : Bool) (m : BitVec 6) (d a : BitVec 7) (i : BitVec 11) : (encRI s m d a i).extractLsb' 18 7 = d := by
  unfold encRI
  simp (disch := omega) only [extract_append_high, extract_append_low, Nat.reduceSub]
  exact extract_whole _

@[simp] theorem encRI_a (s : Bool) (m : BitVec 6) (d a : BitVec 7) (i : BitVec 11) : (encRI s m d a i).extractLsb' 11 7 = a := by
  unfold encRI
  simp (disch := omega) only [extract_append_high, extract_append_low, Nat.reduceSub]
  exact extract_whole _

@[simp] theorem encRI_imm (s : Bool) (m : BitVec 6) (d a : BitVec 7) (i : BitVec 11) : (encRI s m d a i).extractLsb' 0 11 = i := by
  unfold encRI
  simp (disch := omega) only [extract_append_low]
  exact extract_whole _

theorem encRI_s (s : Bool) (m : BitVec 6) (d a : BitVec 7) (i : BitVec 11) : (encRI s m d a i).getLsbD 31 = s := by
  unfold encRI
  simp only [BitVec.getLsbD_append]
  cases s <;> rfl

@[simp] theorem encRI_top (s : Bool) (m : BitVec 6) (d a : BitVec 7) (i : BitVec 11) : (encRI s m d a i)[31] = s := by
  rw [← BitVec.getLsbD_eq_getElem]
  exact encRI_s ..

@[simp] theorem encLI_major (s : Bool) (m : BitVec 6) (d : BitVec 7) (i : BitVec 18) : (encLI s m d i).extractLsb' 25 6 = m := by
  unfold encLI
  simp (disch := omega) only [extract_append_high, extract_append_low, Nat.reduceSub]
  exact extract_whole _

@[simp] theorem encLI_d (s : Bool) (m : BitVec 6) (d : BitVec 7) (i : BitVec 18) : (encLI s m d i).extractLsb' 18 7 = d := by
  unfold encLI
  simp (disch := omega) only [extract_append_high, extract_append_low, Nat.reduceSub]
  exact extract_whole _

@[simp] theorem encLI_imm (s : Bool) (m : BitVec 6) (d : BitVec 7) (i : BitVec 18) : (encLI s m d i).extractLsb' 0 18 = i := by
  unfold encLI
  simp (disch := omega) only [extract_append_low]
  exact extract_whole _

theorem encLI_s (s : Bool) (m : BitVec 6) (d : BitVec 7) (i : BitVec 18) : (encLI s m d i).getLsbD 31 = s := by
  unfold encLI
  simp only [BitVec.getLsbD_append]
  cases s <;> rfl

@[simp] theorem encLI_top (s : Bool) (m : BitVec 6) (d : BitVec 7) (i : BitVec 18) : (encLI s m d i)[31] = s := by
  rw [← BitVec.getLsbD_eq_getElem]
  exact encLI_s ..

@[simp] theorem encBR_major (s : Bool) (m : BitVec 6) (c : BitVec 4) (o : BitVec 21) : (encBR s m c o).extractLsb' 25 6 = m := by
  unfold encBR
  simp (disch := omega) only [extract_append_high, extract_append_low, Nat.reduceSub]
  exact extract_whole _

@[simp] theorem encBR_cond (s : Bool) (m : BitVec 6) (c : BitVec 4) (o : BitVec 21) : (encBR s m c o).extractLsb' 21 4 = c := by
  unfold encBR
  simp (disch := omega) only [extract_append_high, extract_append_low, Nat.reduceSub]
  exact extract_whole _

@[simp] theorem encBR_off (s : Bool) (m : BitVec 6) (c : BitVec 4) (o : BitVec 21) : (encBR s m c o).extractLsb' 0 21 = o := by
  unfold encBR
  simp (disch := omega) only [extract_append_low]
  exact extract_whole _

theorem encBR_s (s : Bool) (m : BitVec 6) (c : BitVec 4) (o : BitVec 21) : (encBR s m c o).getLsbD 31 = s := by
  unfold encBR
  simp only [BitVec.getLsbD_append]
  cases s <;> rfl

@[simp] theorem encBR_top (s : Bool) (m : BitVec 6) (c : BitVec 4) (o : BitVec 21) : (encBR s m c o)[31] = s := by
  rw [← BitVec.getLsbD_eq_getElem]
  exact encBR_s ..

@[simp] theorem encMEM_major (s : Bool) (m : BitVec 6) (d a : BitVec 7) (w : BitVec 3) (o : BitVec 8) : (encMEM s m d a w o).extractLsb' 25 6 = m := by
  unfold encMEM
  simp (disch := omega) only [extract_append_high, extract_append_low, Nat.reduceSub]
  exact extract_whole _

@[simp] theorem encMEM_d (s : Bool) (m : BitVec 6) (d a : BitVec 7) (w : BitVec 3) (o : BitVec 8) : (encMEM s m d a w o).extractLsb' 18 7 = d := by
  unfold encMEM
  simp (disch := omega) only [extract_append_high, extract_append_low, Nat.reduceSub]
  exact extract_whole _

@[simp] theorem encMEM_a (s : Bool) (m : BitVec 6) (d a : BitVec 7) (w : BitVec 3) (o : BitVec 8) : (encMEM s m d a w o).extractLsb' 11 7 = a := by
  unfold encMEM
  simp (disch := omega) only [extract_append_high, extract_append_low, Nat.reduceSub]
  exact extract_whole _

@[simp] theorem encMEM_width (s : Bool) (m : BitVec 6) (d a : BitVec 7) (w : BitVec 3) (o : BitVec 8) : (encMEM s m d a w o).extractLsb' 8 3 = w := by
  unfold encMEM
  simp (disch := omega) only [extract_append_high, extract_append_low, Nat.reduceSub]
  exact extract_whole _

@[simp] theorem encMEM_off (s : Bool) (m : BitVec 6) (d a : BitVec 7) (w : BitVec 3) (o : BitVec 8) : (encMEM s m d a w o).extractLsb' 0 8 = o := by
  unfold encMEM
  simp (disch := omega) only [extract_append_low]
  exact extract_whole _

theorem encMEM_s (s : Bool) (m : BitVec 6) (d a : BitVec 7) (w : BitVec 3) (o : BitVec 8) : (encMEM s m d a w o).getLsbD 31 = s := by
  unfold encMEM
  simp only [BitVec.getLsbD_append]
  cases s <;> rfl

@[simp] theorem encMEM_top (s : Bool) (m : BitVec 6) (d a : BitVec 7) (w : BitVec 3) (o : BitVec 8) : (encMEM s m d a w o)[31] = s := by
  rw [← BitVec.getLsbD_eq_getElem]
  exact encMEM_s ..

/-! ## The decoder of each major (R156) -/

theorem decodeWord_01 (w : Word) (h : w.extractLsb' 25 6 = 0x01#6) :
    decodeWord w = decode01 (w.getLsbD 31) (w.extractLsb' 21 4) (w.extractLsb' 14 7) (w.extractLsb' 7 7) (w.extractLsb' 0 7) := by
  delta decodeWord
  rw [h]
  rfl

theorem decodeWord_02 (w : Word) (h : w.extractLsb' 25 6 = 0x02#6) :
    decodeWord w = decode02 (w.getLsbD 31) (w.extractLsb' 21 4) (w.extractLsb' 14 7) (w.extractLsb' 7 7) (w.extractLsb' 0 7) := by
  delta decodeWord
  rw [h]
  rfl

theorem decodeWord_03 (w : Word) (h : w.extractLsb' 25 6 = 0x03#6) :
    decodeWord w = decode03 (w.getLsbD 31) (w.extractLsb' 18 7) (w.extractLsb' 11 7) (w.extractLsb' 0 11) := by
  delta decodeWord
  rw [h]
  rfl

theorem decodeWord_04 (w : Word) (h : w.extractLsb' 25 6 = 0x04#6) :
    decodeWord w = decode04 (w.getLsbD 31) (w.extractLsb' 18 7) (w.extractLsb' 0 18) := by
  delta decodeWord
  rw [h]
  rfl

theorem decodeWord_05 (w : Word) (h : w.extractLsb' 25 6 = 0x05#6) :
    decodeWord w = decode05 (w.getLsbD 31) (w.extractLsb' 18 7) (w.extractLsb' 0 18) := by
  delta decodeWord
  rw [h]
  rfl

theorem decodeWord_06 (w : Word) (h : w.extractLsb' 25 6 = 0x06#6) :
    decodeWord w = decode06 (w.getLsbD 31) (w.extractLsb' 21 4) (w.extractLsb' 14 7) (w.extractLsb' 7 7) (w.extractLsb' 0 7) := by
  delta decodeWord
  rw [h]
  rfl

theorem decodeWord_07 (w : Word) (h : w.extractLsb' 25 6 = 0x07#6) :
    decodeWord w = decode07 (w.getLsbD 31) (w.extractLsb' 21 4) (w.extractLsb' 14 7) (w.extractLsb' 7 7) (w.extractLsb' 0 7) := by
  delta decodeWord
  rw [h]
  rfl

theorem decodeWord_08 (w : Word) (h : w.extractLsb' 25 6 = 0x08#6) :
    decodeWord w = decode08 (w.getLsbD 31) (w.extractLsb' 18 7) (w.extractLsb' 11 7) (w.extractLsb' 0 11) := by
  delta decodeWord
  rw [h]
  rfl

theorem decodeWord_09 (w : Word) (h : w.extractLsb' 25 6 = 0x09#6) :
    decodeWord w = decode09 (w.getLsbD 31) (w.extractLsb' 21 4) (w.extractLsb' 14 7) (w.extractLsb' 7 7) (w.extractLsb' 0 7) := by
  delta decodeWord
  rw [h]
  rfl

theorem decodeWord_0A (w : Word) (h : w.extractLsb' 25 6 = 0x0A#6) :
    decodeWord w = decode0A (w.getLsbD 31) (w.extractLsb' 18 7) (w.extractLsb' 11 7) (w.extractLsb' 0 11) := by
  delta decodeWord
  rw [h]
  rfl

theorem decodeWord_0B (w : Word) (h : w.extractLsb' 25 6 = 0x0B#6) :
    decodeWord w = decode0B (w.getLsbD 31) (w.extractLsb' 18 7) (w.extractLsb' 0 18) := by
  delta decodeWord
  rw [h]
  rfl

theorem decodeWord_0C (w : Word) (h : w.extractLsb' 25 6 = 0x0C#6) :
    decodeWord w = decode0C (w.getLsbD 31) (w.extractLsb' 18 7) (w.extractLsb' 0 18) := by
  delta decodeWord
  rw [h]
  rfl

theorem decodeWord_0D (w : Word) (h : w.extractLsb' 25 6 = 0x0D#6) :
    decodeWord w = decode0D (w.getLsbD 31) (w.extractLsb' 21 4) (w.extractLsb' 14 7) (w.extractLsb' 7 7) (w.extractLsb' 0 7) := by
  delta decodeWord
  rw [h]
  rfl

theorem decodeWord_10 (w : Word) (h : w.extractLsb' 25 6 = 0x10#6) :
    decodeWord w = decode10 (w.getLsbD 31) (w.extractLsb' 21 4) (w.extractLsb' 14 7) (w.extractLsb' 7 7) (w.extractLsb' 0 7) := by
  delta decodeWord
  rw [h]
  rfl

theorem decodeWord_11 (w : Word) (h : w.extractLsb' 25 6 = 0x11#6) :
    decodeWord w = decode11 (w.getLsbD 31) (w.extractLsb' 21 4) (w.extractLsb' 14 7) (w.extractLsb' 7 7) (w.extractLsb' 0 7) := by
  delta decodeWord
  rw [h]
  rfl

theorem decodeWord_12 (w : Word) (h : w.extractLsb' 25 6 = 0x12#6) :
    decodeWord w = decode12 (w.getLsbD 31) (w.extractLsb' 21 4) (w.extractLsb' 14 7) (w.extractLsb' 7 7) (w.extractLsb' 0 7) := by
  delta decodeWord
  rw [h]
  rfl

theorem decodeWord_13 (w : Word) (h : w.extractLsb' 25 6 = 0x13#6) :
    decodeWord w = decode13 (w.getLsbD 31) (w.extractLsb' 21 4) (w.extractLsb' 14 7) (w.extractLsb' 7 7) (w.extractLsb' 0 7) := by
  delta decodeWord
  rw [h]
  rfl

theorem decodeWord_14 (w : Word) (h : w.extractLsb' 25 6 = 0x14#6) :
    decodeWord w = decode14 (w.getLsbD 31) (w.extractLsb' 21 4) (w.extractLsb' 14 7) (w.extractLsb' 7 7) (w.extractLsb' 0 7) := by
  delta decodeWord
  rw [h]
  rfl

theorem decodeWord_15 (w : Word) (h : w.extractLsb' 25 6 = 0x15#6) :
    decodeWord w = decode15 (w.getLsbD 31) (w.extractLsb' 21 4) (w.extractLsb' 14 7) (w.extractLsb' 7 7) (w.extractLsb' 0 7) := by
  delta decodeWord
  rw [h]
  rfl

theorem decodeWord_16 (w : Word) (h : w.extractLsb' 25 6 = 0x16#6) :
    decodeWord w = decode16 (w.getLsbD 31) (w.extractLsb' 21 4) (w.extractLsb' 14 7) (w.extractLsb' 7 7) (w.extractLsb' 0 7) := by
  delta decodeWord
  rw [h]
  rfl

theorem decodeWord_17 (w : Word) (h : w.extractLsb' 25 6 = 0x17#6) :
    decodeWord w = decode17 (w.getLsbD 31) (w.extractLsb' 21 4) (w.extractLsb' 14 7) (w.extractLsb' 7 7) (w.extractLsb' 0 7) := by
  delta decodeWord
  rw [h]
  rfl

theorem decodeWord_18 (w : Word) (h : w.extractLsb' 25 6 = 0x18#6) :
    decodeWord w = decode18 (w.getLsbD 31) (w.extractLsb' 21 4) (w.extractLsb' 14 7) (w.extractLsb' 7 7) (w.extractLsb' 0 7) := by
  delta decodeWord
  rw [h]
  rfl

theorem decodeWord_19 (w : Word) (h : w.extractLsb' 25 6 = 0x19#6) :
    decodeWord w = decode19 (w.getLsbD 31) (w.extractLsb' 21 4) (w.extractLsb' 14 7) (w.extractLsb' 7 7) (w.extractLsb' 0 7) := by
  delta decodeWord
  rw [h]
  rfl

theorem decodeWord_1A (w : Word) (h : w.extractLsb' 25 6 = 0x1A#6) :
    decodeWord w = decode1A (w.getLsbD 31) (w.extractLsb' 21 4) (w.extractLsb' 14 7) (w.extractLsb' 7 7) (w.extractLsb' 0 7) := by
  delta decodeWord
  rw [h]
  rfl

theorem decodeWord_1B (w : Word) (h : w.extractLsb' 25 6 = 0x1B#6) :
    decodeWord w = decode1B (w.getLsbD 31) (w.extractLsb' 21 4) (w.extractLsb' 14 7) (w.extractLsb' 7 7) (w.extractLsb' 0 7) := by
  delta decodeWord
  rw [h]
  rfl

theorem decodeWord_1C (w : Word) (h : w.extractLsb' 25 6 = 0x1C#6) :
    decodeWord w = decode1C (w.getLsbD 31) (w.extractLsb' 21 4) (w.extractLsb' 0 21) := by
  delta decodeWord
  rw [h]
  rfl

theorem decodeWord_1D (w : Word) (h : w.extractLsb' 25 6 = 0x1D#6) :
    decodeWord w = decode1D (w.getLsbD 31) (w.extractLsb' 21 4) (w.extractLsb' 0 21) := by
  delta decodeWord
  rw [h]
  rfl

theorem decodeWord_1E (w : Word) (h : w.extractLsb' 25 6 = 0x1E#6) :
    decodeWord w = decode1E (w.getLsbD 31) (w.extractLsb' 21 4) (w.extractLsb' 0 21) := by
  delta decodeWord
  rw [h]
  rfl

theorem decodeWord_1F (w : Word) (h : w.extractLsb' 25 6 = 0x1F#6) :
    decodeWord w = decode1F (w.getLsbD 31) (w.extractLsb' 21 4) (w.extractLsb' 14 7) (w.extractLsb' 7 7) (w.extractLsb' 0 7) := by
  delta decodeWord
  rw [h]
  rfl

theorem decodeWord_20 (w : Word) (h : w.extractLsb' 25 6 = 0x20#6) :
    decodeWord w = decode20 (w.getLsbD 31) (w.extractLsb' 18 7) (w.extractLsb' 11 7) (w.extractLsb' 8 3) (w.extractLsb' 0 8) := by
  delta decodeWord
  rw [h]
  rfl

theorem decodeWord_21 (w : Word) (h : w.extractLsb' 25 6 = 0x21#6) :
    decodeWord w = decode21 (w.getLsbD 31) (w.extractLsb' 18 7) (w.extractLsb' 11 7) (w.extractLsb' 8 3) (w.extractLsb' 0 8) := by
  delta decodeWord
  rw [h]
  rfl

theorem decodeWord_22 (w : Word) (h : w.extractLsb' 25 6 = 0x22#6) :
    decodeWord w = decode22 (w.getLsbD 31) (w.extractLsb' 18 7) (w.extractLsb' 11 7) (w.extractLsb' 8 3) (w.extractLsb' 0 8) := by
  delta decodeWord
  rw [h]
  rfl

theorem decodeWord_23 (w : Word) (h : w.extractLsb' 25 6 = 0x23#6) :
    decodeWord w = decode23 (w.getLsbD 31) (w.extractLsb' 18 7) (w.extractLsb' 11 7) (w.extractLsb' 8 3) (w.extractLsb' 0 8) := by
  delta decodeWord
  rw [h]
  rfl

theorem decodeWord_24 (w : Word) (h : w.extractLsb' 25 6 = 0x24#6) :
    decodeWord w = decode24 (w.getLsbD 31) (w.extractLsb' 18 7) (w.extractLsb' 11 7) (w.extractLsb' 8 3) (w.extractLsb' 0 8) := by
  delta decodeWord
  rw [h]
  rfl

theorem decodeWord_25 (w : Word) (h : w.extractLsb' 25 6 = 0x25#6) :
    decodeWord w = decode25 (w.getLsbD 31) (w.extractLsb' 18 7) (w.extractLsb' 11 7) (w.extractLsb' 8 3) (w.extractLsb' 0 8) := by
  delta decodeWord
  rw [h]
  rfl

theorem decodeWord_26 (w : Word) (h : w.extractLsb' 25 6 = 0x26#6) :
    decodeWord w = decode26 (w.getLsbD 31) (w.extractLsb' 18 7) (w.extractLsb' 11 7) (w.extractLsb' 8 3) (w.extractLsb' 0 8) := by
  delta decodeWord
  rw [h]
  rfl

theorem decodeWord_27 (w : Word) (h : w.extractLsb' 25 6 = 0x27#6) :
    decodeWord w = decode27 (w.getLsbD 31) (w.extractLsb' 18 7) (w.extractLsb' 11 7) (w.extractLsb' 8 3) (w.extractLsb' 0 8) := by
  delta decodeWord
  rw [h]
  rfl

theorem decodeWord_28 (w : Word) (h : w.extractLsb' 25 6 = 0x28#6) :
    decodeWord w = decode28 (w.getLsbD 31) (w.extractLsb' 18 7) (w.extractLsb' 11 7) (w.extractLsb' 8 3) (w.extractLsb' 0 8) := by
  delta decodeWord
  rw [h]
  rfl

theorem decodeWord_29 (w : Word) (h : w.extractLsb' 25 6 = 0x29#6) :
    decodeWord w = decode29 (w.getLsbD 31) (w.extractLsb' 18 7) (w.extractLsb' 11 7) (w.extractLsb' 8 3) (w.extractLsb' 0 8) := by
  delta decodeWord
  rw [h]
  rfl

theorem decodeWord_2A (w : Word) (h : w.extractLsb' 25 6 = 0x2A#6) :
    decodeWord w = decode2A (w.getLsbD 31) (w.extractLsb' 18 7) (w.extractLsb' 11 7) (w.extractLsb' 8 3) (w.extractLsb' 0 8) := by
  delta decodeWord
  rw [h]
  rfl

theorem decodeWord_2B (w : Word) (h : w.extractLsb' 25 6 = 0x2B#6) :
    decodeWord w = decode2B (w.getLsbD 31) (w.extractLsb' 21 4) (w.extractLsb' 14 7) (w.extractLsb' 7 7) (w.extractLsb' 0 7) := by
  delta decodeWord
  rw [h]
  rfl

theorem decodeWord_2C (w : Word) (h : w.extractLsb' 25 6 = 0x2C#6) :
    decodeWord w = decode2C (w.getLsbD 31) (w.extractLsb' 18 7) (w.extractLsb' 11 7) (w.extractLsb' 0 11) := by
  delta decodeWord
  rw [h]
  rfl

theorem decodeWord_2D (w : Word) (h : w.extractLsb' 25 6 = 0x2D#6) :
    decodeWord w = decode2D (w.getLsbD 31) (w.extractLsb' 21 4) (w.extractLsb' 14 7) (w.extractLsb' 7 7) (w.extractLsb' 0 7) := by
  delta decodeWord
  rw [h]
  rfl

theorem decodeWord_2E (w : Word) (h : w.extractLsb' 25 6 = 0x2E#6) :
    decodeWord w = decode2E (w.getLsbD 31) (w.extractLsb' 21 4) (w.extractLsb' 14 7) (w.extractLsb' 7 7) (w.extractLsb' 0 7) := by
  delta decodeWord
  rw [h]
  rfl

theorem decodeWord_2F (w : Word) (h : w.extractLsb' 25 6 = 0x2F#6) :
    decodeWord w = decode2F (w.getLsbD 31) (w.extractLsb' 21 4) (w.extractLsb' 14 7) (w.extractLsb' 7 7) (w.extractLsb' 0 7) := by
  delta decodeWord
  rw [h]
  rfl

theorem decodeWord_30 (w : Word) (h : w.extractLsb' 25 6 = 0x30#6) :
    decodeWord w = decode30 (w.getLsbD 31) (w.extractLsb' 21 4) (w.extractLsb' 14 7) (w.extractLsb' 7 7) (w.extractLsb' 0 7) := by
  delta decodeWord
  rw [h]
  rfl

theorem decodeWord_31 (w : Word) (h : w.extractLsb' 25 6 = 0x31#6) :
    decodeWord w = decode31 (w.getLsbD 31) (w.extractLsb' 21 4) (w.extractLsb' 14 7) (w.extractLsb' 7 7) (w.extractLsb' 0 7) := by
  delta decodeWord
  rw [h]
  rfl

theorem decodeWord_32 (w : Word) (h : w.extractLsb' 25 6 = 0x32#6) :
    decodeWord w = decode32 (w.getLsbD 31) (w.extractLsb' 21 4) (w.extractLsb' 14 7) (w.extractLsb' 7 7) (w.extractLsb' 0 7) := by
  delta decodeWord
  rw [h]
  rfl

theorem decodeWord_33 (w : Word) (h : w.extractLsb' 25 6 = 0x33#6) :
    decodeWord w = decode33 (w.getLsbD 31) (w.extractLsb' 21 4) (w.extractLsb' 14 7) (w.extractLsb' 7 7) (w.extractLsb' 0 7) := by
  delta decodeWord
  rw [h]
  rfl

theorem decodeWord_34 (w : Word) (h : w.extractLsb' 25 6 = 0x34#6) :
    decodeWord w = decode34 (w.getLsbD 31) (w.extractLsb' 21 4) (w.extractLsb' 14 7) (w.extractLsb' 7 7) (w.extractLsb' 0 7) := by
  delta decodeWord
  rw [h]
  rfl

theorem decodeWord_35 (w : Word) (h : w.extractLsb' 25 6 = 0x35#6) :
    decodeWord w = decode35 (w.getLsbD 31) (w.extractLsb' 21 4) (w.extractLsb' 14 7) (w.extractLsb' 7 7) (w.extractLsb' 0 7) := by
  delta decodeWord
  rw [h]
  rfl

theorem decodeWord_36 (w : Word) (h : w.extractLsb' 25 6 = 0x36#6) :
    decodeWord w = decode36 (w.getLsbD 31) (w.extractLsb' 21 4) (w.extractLsb' 14 7) (w.extractLsb' 7 7) (w.extractLsb' 0 7) := by
  delta decodeWord
  rw [h]
  rfl

theorem decodeWord_37 (w : Word) (h : w.extractLsb' 25 6 = 0x37#6) :
    decodeWord w = decode37 (w.getLsbD 31) (w.extractLsb' 21 4) (w.extractLsb' 14 7) (w.extractLsb' 7 7) (w.extractLsb' 0 7) := by
  delta decodeWord
  rw [h]
  rfl

theorem decodeWord_3E (w : Word) (h : w.extractLsb' 25 6 = 0x3E#6) :
    decodeWord w = decode3E (w.getLsbD 31) (w.extractLsb' 21 4) (w.extractLsb' 0 21) := by
  delta decodeWord
  rw [h]
  rfl

end Sys2Proof
end

