-- ==== Sys2Proof/Laws/PerInstr.lean ====
section
/-! SUPPORT. A law of every instruction as syntax, one lemma for each constructor of `Instr`. -/

namespace Sys2Proof

-- Each proof is checked before the next is read.
set_option Elab.async false

/-- The major opcodes that R156 assigns to instructions: 0x01 to 0x0D, 0x10 to 0x37 and the guard prefix's 0x3E. -/
def Laws.Encoded.assignedMajor (m : BitVec 6) : Bool :=
  (1#6 ≤ m && m ≤ 13#6) || (16#6 ≤ m && m ≤ 55#6) || m == 62#6

/-- An instruction that has a word has one of an assigned major, which the all-zero word is not (R156). -/
def Laws.Encoded.Statement (i : Instr) : Prop :=
  ∀ w, encode i = some w → Laws.Encoded.assignedMajor (w.extractLsb' 25 6) = true ∧ w ≠ 0#32

/-- A word whose major is assigned is not the all-zero word. -/
theorem Laws.Encoded.of_major {i : Instr} {e : Word} {m : BitVec 6} (h : encode i = some e)
    (hm : e.extractLsb' 25 6 = m) (ha : Laws.Encoded.assignedMajor m = true) :
    Laws.Encoded.Statement i := by
  intro w hw
  rw [h, Option.some.injEq] at hw
  subst hw
  refine ⟨hm ▸ ha, ?_⟩
  rintro rfl
  subst hm
  exact absurd ha (by decide)

/-- An instruction without a word. -/
theorem Laws.Encoded.of_none {i : Instr} (h : encode i = none) : Laws.Encoded.Statement i := by
  intro w hw
  rw [h] at hw
  cases hw

theorem Laws.Encoded.add (s : Bool) (d : BitVec 7) (a : BitVec 7) (b : BitVec 7) :
    Laws.Encoded.Statement (.add s d a b) :=
  Laws.Encoded.of_major rfl (encRRR_major ..) (by decide)

theorem Laws.Encoded.sub (s : Bool) (d : BitVec 7) (a : BitVec 7) (b : BitVec 7) :
    Laws.Encoded.Statement (.sub s d a b) :=
  Laws.Encoded.of_major rfl (encRRR_major ..) (by decide)

theorem Laws.Encoded.mul (s : Bool) (d : BitVec 7) (a : BitVec 7) (b : BitVec 7) :
    Laws.Encoded.Statement (.mul s d a b) :=
  Laws.Encoded.of_major rfl (encRRR_major ..) (by decide)

theorem Laws.Encoded.mulhiSi32 (s : Bool) (d : BitVec 7) (a : BitVec 7) (b : BitVec 7) :
    Laws.Encoded.Statement (.mulhiSi32 s d a b) :=
  Laws.Encoded.of_major rfl (encRRR_major ..) (by decide)

theorem Laws.Encoded.mulhiUi32 (s : Bool) (d : BitVec 7) (a : BitVec 7) (b : BitVec 7) :
    Laws.Encoded.Statement (.mulhiUi32 s d a b) :=
  Laws.Encoded.of_major rfl (encRRR_major ..) (by decide)

theorem Laws.Encoded.and (s : Bool) (d : BitVec 7) (a : BitVec 7) (b : BitVec 7) :
    Laws.Encoded.Statement (.and s d a b) :=
  Laws.Encoded.of_major rfl (encRRR_major ..) (by decide)

theorem Laws.Encoded.or (s : Bool) (d : BitVec 7) (a : BitVec 7) (b : BitVec 7) :
    Laws.Encoded.Statement (.or s d a b) :=
  Laws.Encoded.of_major rfl (encRRR_major ..) (by decide)

theorem Laws.Encoded.xor (s : Bool) (d : BitVec 7) (a : BitVec 7) (b : BitVec 7) :
    Laws.Encoded.Statement (.xor s d a b) :=
  Laws.Encoded.of_major rfl (encRRR_major ..) (by decide)

theorem Laws.Encoded.shl (s : Bool) (d : BitVec 7) (a : BitVec 7) (b : BitVec 7) :
    Laws.Encoded.Statement (.shl s d a b) :=
  Laws.Encoded.of_major rfl (encRRR_major ..) (by decide)

theorem Laws.Encoded.shr (s : Bool) (d : BitVec 7) (a : BitVec 7) (b : BitVec 7) :
    Laws.Encoded.Statement (.shr s d a b) :=
  Laws.Encoded.of_major rfl (encRRR_major ..) (by decide)

theorem Laws.Encoded.sar (s : Bool) (d : BitVec 7) (a : BitVec 7) (b : BitVec 7) :
    Laws.Encoded.Statement (.sar s d a b) :=
  Laws.Encoded.of_major rfl (encRRR_major ..) (by decide)

theorem Laws.Encoded.minSi32 (s : Bool) (d : BitVec 7) (a : BitVec 7) (b : BitVec 7) :
    Laws.Encoded.Statement (.minSi32 s d a b) :=
  Laws.Encoded.of_major rfl (encRRR_major ..) (by decide)

theorem Laws.Encoded.maxSi32 (s : Bool) (d : BitVec 7) (a : BitVec 7) (b : BitVec 7) :
    Laws.Encoded.Statement (.maxSi32 s d a b) :=
  Laws.Encoded.of_major rfl (encRRR_major ..) (by decide)

theorem Laws.Encoded.minUi32 (s : Bool) (d : BitVec 7) (a : BitVec 7) (b : BitVec 7) :
    Laws.Encoded.Statement (.minUi32 s d a b) :=
  Laws.Encoded.of_major rfl (encRRR_major ..) (by decide)

theorem Laws.Encoded.maxUi32 (s : Bool) (d : BitVec 7) (a : BitVec 7) (b : BitVec 7) :
    Laws.Encoded.Statement (.maxUi32 s d a b) :=
  Laws.Encoded.of_major rfl (encRRR_major ..) (by decide)

theorem Laws.Encoded.addsSi32 (s : Bool) (d : BitVec 7) (a : BitVec 7) (b : BitVec 7) :
    Laws.Encoded.Statement (.addsSi32 s d a b) :=
  Laws.Encoded.of_major rfl (encRRR_major ..) (by decide)

theorem Laws.Encoded.addPaired (s : Bool) (d : BitVec 7) (a : BitVec 7) (b : BitVec 7) :
    Laws.Encoded.Statement (.addPaired s d a b) :=
  Laws.Encoded.of_major rfl (encRRR_major ..) (by decide)

theorem Laws.Encoded.subPaired (s : Bool) (d : BitVec 7) (a : BitVec 7) (b : BitVec 7) :
    Laws.Encoded.Statement (.subPaired s d a b) :=
  Laws.Encoded.of_major rfl (encRRR_major ..) (by decide)

theorem Laws.Encoded.mulPaired (s : Bool) (d : BitVec 7) (a : BitVec 7) (b : BitVec 7) :
    Laws.Encoded.Statement (.mulPaired s d a b) :=
  Laws.Encoded.of_major rfl (encRRR_major ..) (by decide)

theorem Laws.Encoded.mulhiSi32Paired (s : Bool) (d : BitVec 7) (a : BitVec 7) (b : BitVec 7) :
    Laws.Encoded.Statement (.mulhiSi32Paired s d a b) :=
  Laws.Encoded.of_major rfl (encRRR_major ..) (by decide)

theorem Laws.Encoded.mulhiUi32Paired (s : Bool) (d : BitVec 7) (a : BitVec 7) (b : BitVec 7) :
    Laws.Encoded.Statement (.mulhiUi32Paired s d a b) :=
  Laws.Encoded.of_major rfl (encRRR_major ..) (by decide)

theorem Laws.Encoded.andPaired (s : Bool) (d : BitVec 7) (a : BitVec 7) (b : BitVec 7) :
    Laws.Encoded.Statement (.andPaired s d a b) :=
  Laws.Encoded.of_major rfl (encRRR_major ..) (by decide)

theorem Laws.Encoded.orPaired (s : Bool) (d : BitVec 7) (a : BitVec 7) (b : BitVec 7) :
    Laws.Encoded.Statement (.orPaired s d a b) :=
  Laws.Encoded.of_major rfl (encRRR_major ..) (by decide)

theorem Laws.Encoded.xorPaired (s : Bool) (d : BitVec 7) (a : BitVec 7) (b : BitVec 7) :
    Laws.Encoded.Statement (.xorPaired s d a b) :=
  Laws.Encoded.of_major rfl (encRRR_major ..) (by decide)

theorem Laws.Encoded.shlPaired (s : Bool) (d : BitVec 7) (a : BitVec 7) (b : BitVec 7) :
    Laws.Encoded.Statement (.shlPaired s d a b) :=
  Laws.Encoded.of_major rfl (encRRR_major ..) (by decide)

theorem Laws.Encoded.shrPaired (s : Bool) (d : BitVec 7) (a : BitVec 7) (b : BitVec 7) :
    Laws.Encoded.Statement (.shrPaired s d a b) :=
  Laws.Encoded.of_major rfl (encRRR_major ..) (by decide)

theorem Laws.Encoded.sarPaired (s : Bool) (d : BitVec 7) (a : BitVec 7) (b : BitVec 7) :
    Laws.Encoded.Statement (.sarPaired s d a b) :=
  Laws.Encoded.of_major rfl (encRRR_major ..) (by decide)

theorem Laws.Encoded.minSi32Paired (s : Bool) (d : BitVec 7) (a : BitVec 7) (b : BitVec 7) :
    Laws.Encoded.Statement (.minSi32Paired s d a b) :=
  Laws.Encoded.of_major rfl (encRRR_major ..) (by decide)

theorem Laws.Encoded.maxSi32Paired (s : Bool) (d : BitVec 7) (a : BitVec 7) (b : BitVec 7) :
    Laws.Encoded.Statement (.maxSi32Paired s d a b) :=
  Laws.Encoded.of_major rfl (encRRR_major ..) (by decide)

theorem Laws.Encoded.minUi32Paired (s : Bool) (d : BitVec 7) (a : BitVec 7) (b : BitVec 7) :
    Laws.Encoded.Statement (.minUi32Paired s d a b) :=
  Laws.Encoded.of_major rfl (encRRR_major ..) (by decide)

theorem Laws.Encoded.maxUi32Paired (s : Bool) (d : BitVec 7) (a : BitVec 7) (b : BitVec 7) :
    Laws.Encoded.Statement (.maxUi32Paired s d a b) :=
  Laws.Encoded.of_major rfl (encRRR_major ..) (by decide)

theorem Laws.Encoded.addsSi32Paired (s : Bool) (d : BitVec 7) (a : BitVec 7) (b : BitVec 7) :
    Laws.Encoded.Statement (.addsSi32Paired s d a b) :=
  Laws.Encoded.of_major rfl (encRRR_major ..) (by decide)

theorem Laws.Encoded.addi (s : Bool) (d : BitVec 7) (a : BitVec 7) (i : BitVec 11) :
    Laws.Encoded.Statement (.addi s d a i) :=
  Laws.Encoded.of_major rfl (encRI_major ..) (by decide)

theorem Laws.Encoded.movl (s : Bool) (d : BitVec 7) (i : BitVec 18) :
    Laws.Encoded.Statement (.movl s d i) :=
  Laws.Encoded.of_major rfl (encLI_major ..) (by decide)

theorem Laws.Encoded.movh (s : Bool) (d : BitVec 7) (i : BitVec 14) :
    Laws.Encoded.Statement (.movh s d i) :=
  Laws.Encoded.of_major rfl (encLI_major ..) (by decide)

theorem Laws.Encoded.cmpEq (s : Bool) (p : BitVec 3) (a : BitVec 7) (b : BitVec 7) :
    Laws.Encoded.Statement (.cmpEq s p a b) :=
  Laws.Encoded.of_major rfl (encRRR_major ..) (by decide)

theorem Laws.Encoded.cmpNe (s : Bool) (p : BitVec 3) (a : BitVec 7) (b : BitVec 7) :
    Laws.Encoded.Statement (.cmpNe s p a b) :=
  Laws.Encoded.of_major rfl (encRRR_major ..) (by decide)

theorem Laws.Encoded.cmpLtSi32 (s : Bool) (p : BitVec 3) (a : BitVec 7) (b : BitVec 7) :
    Laws.Encoded.Statement (.cmpLtSi32 s p a b) :=
  Laws.Encoded.of_major rfl (encRRR_major ..) (by decide)

theorem Laws.Encoded.cmpLeSi32 (s : Bool) (p : BitVec 3) (a : BitVec 7) (b : BitVec 7) :
    Laws.Encoded.Statement (.cmpLeSi32 s p a b) :=
  Laws.Encoded.of_major rfl (encRRR_major ..) (by decide)

theorem Laws.Encoded.cmpGtSi32 (s : Bool) (p : BitVec 3) (a : BitVec 7) (b : BitVec 7) :
    Laws.Encoded.Statement (.cmpGtSi32 s p a b) :=
  Laws.Encoded.of_major rfl (encRRR_major ..) (by decide)

theorem Laws.Encoded.cmpGeSi32 (s : Bool) (p : BitVec 3) (a : BitVec 7) (b : BitVec 7) :
    Laws.Encoded.Statement (.cmpGeSi32 s p a b) :=
  Laws.Encoded.of_major rfl (encRRR_major ..) (by decide)

theorem Laws.Encoded.cmpLtUi32 (s : Bool) (p : BitVec 3) (a : BitVec 7) (b : BitVec 7) :
    Laws.Encoded.Statement (.cmpLtUi32 s p a b) :=
  Laws.Encoded.of_major rfl (encRRR_major ..) (by decide)

theorem Laws.Encoded.cmpLeUi32 (s : Bool) (p : BitVec 3) (a : BitVec 7) (b : BitVec 7) :
    Laws.Encoded.Statement (.cmpLeUi32 s p a b) :=
  Laws.Encoded.of_major rfl (encRRR_major ..) (by decide)

theorem Laws.Encoded.cmpGtUi32 (s : Bool) (p : BitVec 3) (a : BitVec 7) (b : BitVec 7) :
    Laws.Encoded.Statement (.cmpGtUi32 s p a b) :=
  Laws.Encoded.of_major rfl (encRRR_major ..) (by decide)

theorem Laws.Encoded.cmpGeUi32 (s : Bool) (p : BitVec 3) (a : BitVec 7) (b : BitVec 7) :
    Laws.Encoded.Statement (.cmpGeUi32 s p a b) :=
  Laws.Encoded.of_major rfl (encRRR_major ..) (by decide)

theorem Laws.Encoded.mov (s : Bool) (d : BitVec 7) (a : BitVec 7) :
    Laws.Encoded.Statement (.mov s d a) :=
  Laws.Encoded.of_major rfl (encRRR_major ..) (by decide)

theorem Laws.Encoded.not (s : Bool) (d : BitVec 7) (a : BitVec 7) :
    Laws.Encoded.Statement (.not s d a) :=
  Laws.Encoded.of_major rfl (encRRR_major ..) (by decide)

theorem Laws.Encoded.neg (s : Bool) (d : BitVec 7) (a : BitVec 7) :
    Laws.Encoded.Statement (.neg s d a) :=
  Laws.Encoded.of_major rfl (encRRR_major ..) (by decide)

theorem Laws.Encoded.absSi32 (s : Bool) (d : BitVec 7) (a : BitVec 7) :
    Laws.Encoded.Statement (.absSi32 s d a) :=
  Laws.Encoded.of_major rfl (encRRR_major ..) (by decide)

theorem Laws.Encoded.popc (s : Bool) (d : BitVec 7) (a : BitVec 7) :
    Laws.Encoded.Statement (.popc s d a) :=
  Laws.Encoded.of_major rfl (encRRR_major ..) (by decide)

theorem Laws.Encoded.clz (s : Bool) (d : BitVec 7) (a : BitVec 7) :
    Laws.Encoded.Statement (.clz s d a) :=
  Laws.Encoded.of_major rfl (encRRR_major ..) (by decide)

theorem Laws.Encoded.brev (s : Bool) (d : BitVec 7) (a : BitVec 7) :
    Laws.Encoded.Statement (.brev s d a) :=
  Laws.Encoded.of_major rfl (encRRR_major ..) (by decide)

theorem Laws.Encoded.mad (s : Bool) (d : BitVec 7) (a : BitVec 7) (b : BitVec 7) :
    Laws.Encoded.Statement (.mad s d a b) :=
  Laws.Encoded.of_major rfl (encRRR_major ..) (by decide)

theorem Laws.Encoded.sxb (s : Bool) (d : BitVec 7) (a : BitVec 7) :
    Laws.Encoded.Statement (.sxb s d a) :=
  Laws.Encoded.of_major rfl (encRRR_major ..) (by decide)

theorem Laws.Encoded.sxh (s : Bool) (d : BitVec 7) (a : BitVec 7) :
    Laws.Encoded.Statement (.sxh s d a) :=
  Laws.Encoded.of_major rfl (encRRR_major ..) (by decide)

theorem Laws.Encoded.adda (s : Bool) (d : BitVec 7) (a : BitVec 7) (b : BitVec 7) :
    Laws.Encoded.Statement (.adda s d a b) :=
  Laws.Encoded.of_major rfl (encRRR_major ..) (by decide)

theorem Laws.Encoded.addai (s : Bool) (d : BitVec 7) (a : BitVec 7) (i : BitVec 11) :
    Laws.Encoded.Statement (.addai s d a i) :=
  Laws.Encoded.of_major rfl (encRI_major ..) (by decide)

theorem Laws.Encoded.addUniform (s : Bool) (d : BitVec 7) (a : BitVec 7) (b : BitVec 7) :
    Laws.Encoded.Statement (.addUniform s d a b) :=
  Laws.Encoded.of_major rfl (encRRR_major ..) (by decide)

theorem Laws.Encoded.subUniform (s : Bool) (d : BitVec 7) (a : BitVec 7) (b : BitVec 7) :
    Laws.Encoded.Statement (.subUniform s d a b) :=
  Laws.Encoded.of_major rfl (encRRR_major ..) (by decide)

theorem Laws.Encoded.mulUniform (s : Bool) (d : BitVec 7) (a : BitVec 7) (b : BitVec 7) :
    Laws.Encoded.Statement (.mulUniform s d a b) :=
  Laws.Encoded.of_major rfl (encRRR_major ..) (by decide)

theorem Laws.Encoded.mulhiSi32Uniform (s : Bool) (d : BitVec 7) (a : BitVec 7) (b : BitVec 7) :
    Laws.Encoded.Statement (.mulhiSi32Uniform s d a b) :=
  Laws.Encoded.of_major rfl (encRRR_major ..) (by decide)

theorem Laws.Encoded.mulhiUi32Uniform (s : Bool) (d : BitVec 7) (a : BitVec 7) (b : BitVec 7) :
    Laws.Encoded.Statement (.mulhiUi32Uniform s d a b) :=
  Laws.Encoded.of_major rfl (encRRR_major ..) (by decide)

theorem Laws.Encoded.andUniform (s : Bool) (d : BitVec 7) (a : BitVec 7) (b : BitVec 7) :
    Laws.Encoded.Statement (.andUniform s d a b) :=
  Laws.Encoded.of_major rfl (encRRR_major ..) (by decide)

theorem Laws.Encoded.orUniform (s : Bool) (d : BitVec 7) (a : BitVec 7) (b : BitVec 7) :
    Laws.Encoded.Statement (.orUniform s d a b) :=
  Laws.Encoded.of_major rfl (encRRR_major ..) (by decide)

theorem Laws.Encoded.xorUniform (s : Bool) (d : BitVec 7) (a : BitVec 7) (b : BitVec 7) :
    Laws.Encoded.Statement (.xorUniform s d a b) :=
  Laws.Encoded.of_major rfl (encRRR_major ..) (by decide)

theorem Laws.Encoded.shlUniform (s : Bool) (d : BitVec 7) (a : BitVec 7) (b : BitVec 7) :
    Laws.Encoded.Statement (.shlUniform s d a b) :=
  Laws.Encoded.of_major rfl (encRRR_major ..) (by decide)

theorem Laws.Encoded.shrUniform (s : Bool) (d : BitVec 7) (a : BitVec 7) (b : BitVec 7) :
    Laws.Encoded.Statement (.shrUniform s d a b) :=
  Laws.Encoded.of_major rfl (encRRR_major ..) (by decide)

theorem Laws.Encoded.sarUniform (s : Bool) (d : BitVec 7) (a : BitVec 7) (b : BitVec 7) :
    Laws.Encoded.Statement (.sarUniform s d a b) :=
  Laws.Encoded.of_major rfl (encRRR_major ..) (by decide)

theorem Laws.Encoded.minSi32Uniform (s : Bool) (d : BitVec 7) (a : BitVec 7) (b : BitVec 7) :
    Laws.Encoded.Statement (.minSi32Uniform s d a b) :=
  Laws.Encoded.of_major rfl (encRRR_major ..) (by decide)

theorem Laws.Encoded.maxSi32Uniform (s : Bool) (d : BitVec 7) (a : BitVec 7) (b : BitVec 7) :
    Laws.Encoded.Statement (.maxSi32Uniform s d a b) :=
  Laws.Encoded.of_major rfl (encRRR_major ..) (by decide)

theorem Laws.Encoded.minUi32Uniform (s : Bool) (d : BitVec 7) (a : BitVec 7) (b : BitVec 7) :
    Laws.Encoded.Statement (.minUi32Uniform s d a b) :=
  Laws.Encoded.of_major rfl (encRRR_major ..) (by decide)

theorem Laws.Encoded.maxUi32Uniform (s : Bool) (d : BitVec 7) (a : BitVec 7) (b : BitVec 7) :
    Laws.Encoded.Statement (.maxUi32Uniform s d a b) :=
  Laws.Encoded.of_major rfl (encRRR_major ..) (by decide)

theorem Laws.Encoded.addsSi32Uniform (s : Bool) (d : BitVec 7) (a : BitVec 7) (b : BitVec 7) :
    Laws.Encoded.Statement (.addsSi32Uniform s d a b) :=
  Laws.Encoded.of_major rfl (encRRR_major ..) (by decide)

theorem Laws.Encoded.uaddi (s : Bool) (d : BitVec 7) (a : BitVec 7) (i : BitVec 11) :
    Laws.Encoded.Statement (.uaddi s d a i) :=
  Laws.Encoded.of_major rfl (encRI_major ..) (by decide)

theorem Laws.Encoded.umovl (s : Bool) (d : BitVec 7) (i : BitVec 18) :
    Laws.Encoded.Statement (.umovl s d i) :=
  Laws.Encoded.of_major rfl (encLI_major ..) (by decide)

theorem Laws.Encoded.umovh (s : Bool) (d : BitVec 7) (i : BitVec 14) :
    Laws.Encoded.Statement (.umovh s d i) :=
  Laws.Encoded.of_major rfl (encLI_major ..) (by decide)

theorem Laws.Encoded.ucmpEq (s : Bool) (p : BitVec 3) (a : BitVec 7) (b : BitVec 7) :
    Laws.Encoded.Statement (.ucmpEq s p a b) :=
  Laws.Encoded.of_major rfl (encRRR_major ..) (by decide)

theorem Laws.Encoded.ucmpNe (s : Bool) (p : BitVec 3) (a : BitVec 7) (b : BitVec 7) :
    Laws.Encoded.Statement (.ucmpNe s p a b) :=
  Laws.Encoded.of_major rfl (encRRR_major ..) (by decide)

theorem Laws.Encoded.ucmpLtSi32 (s : Bool) (p : BitVec 3) (a : BitVec 7) (b : BitVec 7) :
    Laws.Encoded.Statement (.ucmpLtSi32 s p a b) :=
  Laws.Encoded.of_major rfl (encRRR_major ..) (by decide)

theorem Laws.Encoded.ucmpLeSi32 (s : Bool) (p : BitVec 3) (a : BitVec 7) (b : BitVec 7) :
    Laws.Encoded.Statement (.ucmpLeSi32 s p a b) :=
  Laws.Encoded.of_major rfl (encRRR_major ..) (by decide)

theorem Laws.Encoded.ucmpGtSi32 (s : Bool) (p : BitVec 3) (a : BitVec 7) (b : BitVec 7) :
    Laws.Encoded.Statement (.ucmpGtSi32 s p a b) :=
  Laws.Encoded.of_major rfl (encRRR_major ..) (by decide)

theorem Laws.Encoded.ucmpGeSi32 (s : Bool) (p : BitVec 3) (a : BitVec 7) (b : BitVec 7) :
    Laws.Encoded.Statement (.ucmpGeSi32 s p a b) :=
  Laws.Encoded.of_major rfl (encRRR_major ..) (by decide)

theorem Laws.Encoded.ucmpLtUi32 (s : Bool) (p : BitVec 3) (a : BitVec 7) (b : BitVec 7) :
    Laws.Encoded.Statement (.ucmpLtUi32 s p a b) :=
  Laws.Encoded.of_major rfl (encRRR_major ..) (by decide)

theorem Laws.Encoded.ucmpLeUi32 (s : Bool) (p : BitVec 3) (a : BitVec 7) (b : BitVec 7) :
    Laws.Encoded.Statement (.ucmpLeUi32 s p a b) :=
  Laws.Encoded.of_major rfl (encRRR_major ..) (by decide)

theorem Laws.Encoded.ucmpGtUi32 (s : Bool) (p : BitVec 3) (a : BitVec 7) (b : BitVec 7) :
    Laws.Encoded.Statement (.ucmpGtUi32 s p a b) :=
  Laws.Encoded.of_major rfl (encRRR_major ..) (by decide)

theorem Laws.Encoded.ucmpGeUi32 (s : Bool) (p : BitVec 3) (a : BitVec 7) (b : BitVec 7) :
    Laws.Encoded.Statement (.ucmpGeUi32 s p a b) :=
  Laws.Encoded.of_major rfl (encRRR_major ..) (by decide)

theorem Laws.Encoded.fadd (s : Bool) (d : BitVec 7) (a : BitVec 7) (b : BitVec 7) :
    Laws.Encoded.Statement (.fadd s d a b) :=
  Laws.Encoded.of_major rfl (encRRR_major ..) (by decide)

theorem Laws.Encoded.fsub (s : Bool) (d : BitVec 7) (a : BitVec 7) (b : BitVec 7) :
    Laws.Encoded.Statement (.fsub s d a b) :=
  Laws.Encoded.of_major rfl (encRRR_major ..) (by decide)

theorem Laws.Encoded.fmul (s : Bool) (d : BitVec 7) (a : BitVec 7) (b : BitVec 7) :
    Laws.Encoded.Statement (.fmul s d a b) :=
  Laws.Encoded.of_major rfl (encRRR_major ..) (by decide)

theorem Laws.Encoded.ffma (s : Bool) (d : BitVec 7) (a : BitVec 7) (b : BitVec 7) :
    Laws.Encoded.Statement (.ffma s d a b) :=
  Laws.Encoded.of_major rfl (encRRR_major ..) (by decide)

theorem Laws.Encoded.fmin (s : Bool) (d : BitVec 7) (a : BitVec 7) (b : BitVec 7) :
    Laws.Encoded.Statement (.fmin s d a b) :=
  Laws.Encoded.of_major rfl (encRRR_major ..) (by decide)

theorem Laws.Encoded.fmax (s : Bool) (d : BitVec 7) (a : BitVec 7) (b : BitVec 7) :
    Laws.Encoded.Statement (.fmax s d a b) :=
  Laws.Encoded.of_major rfl (encRRR_major ..) (by decide)

theorem Laws.Encoded.fdiv (s : Bool) (d : BitVec 7) (a : BitVec 7) (b : BitVec 7) :
    Laws.Encoded.Statement (.fdiv s d a b) :=
  Laws.Encoded.of_major rfl (encRRR_major ..) (by decide)

theorem Laws.Encoded.fsqrt (s : Bool) (d : BitVec 7) (a : BitVec 7) :
    Laws.Encoded.Statement (.fsqrt s d a) :=
  Laws.Encoded.of_major rfl (encRRR_major ..) (by decide)

theorem Laws.Encoded.fabs (s : Bool) (d : BitVec 7) (a : BitVec 7) :
    Laws.Encoded.Statement (.fabs s d a) :=
  Laws.Encoded.of_major rfl (encRRR_major ..) (by decide)

theorem Laws.Encoded.fneg (s : Bool) (d : BitVec 7) (a : BitVec 7) :
    Laws.Encoded.Statement (.fneg s d a) :=
  Laws.Encoded.of_major rfl (encRRR_major ..) (by decide)

theorem Laws.Encoded.faddPaired (s : Bool) (d : BitVec 7) (a : BitVec 7) (b : BitVec 7) :
    Laws.Encoded.Statement (.faddPaired s d a b) :=
  Laws.Encoded.of_major rfl (encRRR_major ..) (by decide)

theorem Laws.Encoded.fsubPaired (s : Bool) (d : BitVec 7) (a : BitVec 7) (b : BitVec 7) :
    Laws.Encoded.Statement (.fsubPaired s d a b) :=
  Laws.Encoded.of_major rfl (encRRR_major ..) (by decide)

theorem Laws.Encoded.fmulPaired (s : Bool) (d : BitVec 7) (a : BitVec 7) (b : BitVec 7) :
    Laws.Encoded.Statement (.fmulPaired s d a b) :=
  Laws.Encoded.of_major rfl (encRRR_major ..) (by decide)

theorem Laws.Encoded.ffmaPaired (s : Bool) (d : BitVec 7) (a : BitVec 7) (b : BitVec 7) :
    Laws.Encoded.Statement (.ffmaPaired s d a b) :=
  Laws.Encoded.of_major rfl (encRRR_major ..) (by decide)

theorem Laws.Encoded.fminPaired (s : Bool) (d : BitVec 7) (a : BitVec 7) (b : BitVec 7) :
    Laws.Encoded.Statement (.fminPaired s d a b) :=
  Laws.Encoded.of_major rfl (encRRR_major ..) (by decide)

theorem Laws.Encoded.fmaxPaired (s : Bool) (d : BitVec 7) (a : BitVec 7) (b : BitVec 7) :
    Laws.Encoded.Statement (.fmaxPaired s d a b) :=
  Laws.Encoded.of_major rfl (encRRR_major ..) (by decide)

theorem Laws.Encoded.fdivPaired (s : Bool) (d : BitVec 7) (a : BitVec 7) (b : BitVec 7) :
    Laws.Encoded.Statement (.fdivPaired s d a b) :=
  Laws.Encoded.of_major rfl (encRRR_major ..) (by decide)

theorem Laws.Encoded.fcmpEq (s : Bool) (p : BitVec 3) (a : BitVec 7) (b : BitVec 7) :
    Laws.Encoded.Statement (.fcmpEq s p a b) :=
  Laws.Encoded.of_major rfl (encRRR_major ..) (by decide)

theorem Laws.Encoded.fcmpNe (s : Bool) (p : BitVec 3) (a : BitVec 7) (b : BitVec 7) :
    Laws.Encoded.Statement (.fcmpNe s p a b) :=
  Laws.Encoded.of_major rfl (encRRR_major ..) (by decide)

theorem Laws.Encoded.fcmpLt (s : Bool) (p : BitVec 3) (a : BitVec 7) (b : BitVec 7) :
    Laws.Encoded.Statement (.fcmpLt s p a b) :=
  Laws.Encoded.of_major rfl (encRRR_major ..) (by decide)

theorem Laws.Encoded.fcmpLe (s : Bool) (p : BitVec 3) (a : BitVec 7) (b : BitVec 7) :
    Laws.Encoded.Statement (.fcmpLe s p a b) :=
  Laws.Encoded.of_major rfl (encRRR_major ..) (by decide)

theorem Laws.Encoded.fcmpGt (s : Bool) (p : BitVec 3) (a : BitVec 7) (b : BitVec 7) :
    Laws.Encoded.Statement (.fcmpGt s p a b) :=
  Laws.Encoded.of_major rfl (encRRR_major ..) (by decide)

theorem Laws.Encoded.fcmpGe (s : Bool) (p : BitVec 3) (a : BitVec 7) (b : BitVec 7) :
    Laws.Encoded.Statement (.fcmpGe s p a b) :=
  Laws.Encoded.of_major rfl (encRRR_major ..) (by decide)

theorem Laws.Encoded.haddF16 (s : Bool) (d : BitVec 7) (a : BitVec 7) (b : BitVec 7) :
    Laws.Encoded.Statement (.haddF16 s d a b) :=
  Laws.Encoded.of_major rfl (encRRR_major ..) (by decide)

theorem Laws.Encoded.hsubF16 (s : Bool) (d : BitVec 7) (a : BitVec 7) (b : BitVec 7) :
    Laws.Encoded.Statement (.hsubF16 s d a b) :=
  Laws.Encoded.of_major rfl (encRRR_major ..) (by decide)

theorem Laws.Encoded.hmulF16 (s : Bool) (d : BitVec 7) (a : BitVec 7) (b : BitVec 7) :
    Laws.Encoded.Statement (.hmulF16 s d a b) :=
  Laws.Encoded.of_major rfl (encRRR_major ..) (by decide)

theorem Laws.Encoded.hfmaF16 (s : Bool) (d : BitVec 7) (a : BitVec 7) (b : BitVec 7) :
    Laws.Encoded.Statement (.hfmaF16 s d a b) :=
  Laws.Encoded.of_major rfl (encRRR_major ..) (by decide)

theorem Laws.Encoded.hminF16 (s : Bool) (d : BitVec 7) (a : BitVec 7) (b : BitVec 7) :
    Laws.Encoded.Statement (.hminF16 s d a b) :=
  Laws.Encoded.of_major rfl (encRRR_major ..) (by decide)

theorem Laws.Encoded.hmaxF16 (s : Bool) (d : BitVec 7) (a : BitVec 7) (b : BitVec 7) :
    Laws.Encoded.Statement (.hmaxF16 s d a b) :=
  Laws.Encoded.of_major rfl (encRRR_major ..) (by decide)

theorem Laws.Encoded.haddBf16 (s : Bool) (d : BitVec 7) (a : BitVec 7) (b : BitVec 7) :
    Laws.Encoded.Statement (.haddBf16 s d a b) :=
  Laws.Encoded.of_major rfl (encRRR_major ..) (by decide)

theorem Laws.Encoded.hsubBf16 (s : Bool) (d : BitVec 7) (a : BitVec 7) (b : BitVec 7) :
    Laws.Encoded.Statement (.hsubBf16 s d a b) :=
  Laws.Encoded.of_major rfl (encRRR_major ..) (by decide)

theorem Laws.Encoded.hmulBf16 (s : Bool) (d : BitVec 7) (a : BitVec 7) (b : BitVec 7) :
    Laws.Encoded.Statement (.hmulBf16 s d a b) :=
  Laws.Encoded.of_major rfl (encRRR_major ..) (by decide)

theorem Laws.Encoded.hfmaBf16 (s : Bool) (d : BitVec 7) (a : BitVec 7) (b : BitVec 7) :
    Laws.Encoded.Statement (.hfmaBf16 s d a b) :=
  Laws.Encoded.of_major rfl (encRRR_major ..) (by decide)

theorem Laws.Encoded.hminBf16 (s : Bool) (d : BitVec 7) (a : BitVec 7) (b : BitVec 7) :
    Laws.Encoded.Statement (.hminBf16 s d a b) :=
  Laws.Encoded.of_major rfl (encRRR_major ..) (by decide)

theorem Laws.Encoded.hmaxBf16 (s : Bool) (d : BitVec 7) (a : BitVec 7) (b : BitVec 7) :
    Laws.Encoded.Statement (.hmaxBf16 s d a b) :=
  Laws.Encoded.of_major rfl (encRRR_major ..) (by decide)

theorem Laws.Encoded.cvt (s : Bool) (f : BitVec 4) (d : BitVec 7) (a : BitVec 7) (t : BitVec 4) (k : Bool) (r : BitVec 2) :
    Laws.Encoded.Statement (.cvt s f d a t k r) :=
  Laws.Encoded.of_major rfl (encRRR_major ..) (by decide)

theorem Laws.Encoded.recip (s : Bool) (d : BitVec 7) (a : BitVec 7) :
    Laws.Encoded.Statement (.recip s d a) :=
  Laws.Encoded.of_major rfl (encRRR_major ..) (by decide)

theorem Laws.Encoded.rsqrt (s : Bool) (d : BitVec 7) (a : BitVec 7) :
    Laws.Encoded.Statement (.rsqrt s d a) :=
  Laws.Encoded.of_major rfl (encRRR_major ..) (by decide)

theorem Laws.Encoded.exp2 (s : Bool) (d : BitVec 7) (a : BitVec 7) :
    Laws.Encoded.Statement (.exp2 s d a) :=
  Laws.Encoded.of_major rfl (encRRR_major ..) (by decide)

theorem Laws.Encoded.log2 (s : Bool) (d : BitVec 7) (a : BitVec 7) :
    Laws.Encoded.Statement (.log2 s d a) :=
  Laws.Encoded.of_major rfl (encRRR_major ..) (by decide)

theorem Laws.Encoded.sin (s : Bool) (d : BitVec 7) (a : BitVec 7) :
    Laws.Encoded.Statement (.sin s d a) :=
  Laws.Encoded.of_major rfl (encRRR_major ..) (by decide)

theorem Laws.Encoded.cos (s : Bool) (d : BitVec 7) (a : BitVec 7) :
    Laws.Encoded.Statement (.cos s d a) :=
  Laws.Encoded.of_major rfl (encRRR_major ..) (by decide)

theorem Laws.Encoded.tanh (s : Bool) (d : BitVec 7) (a : BitVec 7) :
    Laws.Encoded.Statement (.tanh s d a) :=
  Laws.Encoded.of_major rfl (encRRR_major ..) (by decide)

theorem Laws.Encoded.sigm (s : Bool) (d : BitVec 7) (a : BitVec 7) :
    Laws.Encoded.Statement (.sigm s d a) :=
  Laws.Encoded.of_major rfl (encRRR_major ..) (by decide)

theorem Laws.Encoded.dp4Si8 (s : Bool) (d : BitVec 7) (a : BitVec 7) (b : BitVec 7) :
    Laws.Encoded.Statement (.dp4Si8 s d a b) :=
  Laws.Encoded.of_major rfl (encRRR_major ..) (by decide)

theorem Laws.Encoded.dp4Si8ui8 (s : Bool) (d : BitVec 7) (a : BitVec 7) (b : BitVec 7) :
    Laws.Encoded.Statement (.dp4Si8ui8 s d a b) :=
  Laws.Encoded.of_major rfl (encRRR_major ..) (by decide)

theorem Laws.Encoded.dp8Si4 (s : Bool) (d : BitVec 7) (a : BitVec 7) (b : BitVec 7) :
    Laws.Encoded.Statement (.dp8Si4 s d a b) :=
  Laws.Encoded.of_major rfl (encRRR_major ..) (by decide)

theorem Laws.Encoded.dp8Si4ui4 (s : Bool) (d : BitVec 7) (a : BitVec 7) (b : BitVec 7) :
    Laws.Encoded.Statement (.dp8Si4ui4 s d a b) :=
  Laws.Encoded.of_major rfl (encRRR_major ..) (by decide)

theorem Laws.Encoded.dp4F8a (s : Bool) (d : BitVec 7) (a : BitVec 7) (b : BitVec 7) :
    Laws.Encoded.Statement (.dp4F8a s d a b) :=
  Laws.Encoded.of_major rfl (encRRR_major ..) (by decide)

theorem Laws.Encoded.dp4F8b (s : Bool) (d : BitVec 7) (a : BitVec 7) (b : BitVec 7) :
    Laws.Encoded.Statement (.dp4F8b s d a b) :=
  Laws.Encoded.of_major rfl (encRRR_major ..) (by decide)

theorem Laws.Encoded.dp8F4 (s : Bool) (d : BitVec 7) (a : BitVec 7) (b : BitVec 7) :
    Laws.Encoded.Statement (.dp8F4 s d a b) :=
  Laws.Encoded.of_major rfl (encRRR_major ..) (by decide)

theorem Laws.Encoded.dp2Bf16 (s : Bool) (d : BitVec 7) (a : BitVec 7) (b : BitVec 7) :
    Laws.Encoded.Statement (.dp2Bf16 s d a b) :=
  Laws.Encoded.of_major rfl (encRRR_major ..) (by decide)

theorem Laws.Encoded.dp2F16 (s : Bool) (d : BitVec 7) (a : BitVec 7) (b : BitVec 7) :
    Laws.Encoded.Statement (.dp2F16 s d a b) :=
  Laws.Encoded.of_major rfl (encRRR_major ..) (by decide)

theorem Laws.Encoded.dp4F8aSc (s : Bool) (k : BitVec 2) (d : BitVec 7) (a : BitVec 7) (b : BitVec 7) :
    Laws.Encoded.Statement (.dp4F8aSc s k d a b) :=
  Laws.Encoded.of_major rfl (encRRR_major ..) (by decide)

theorem Laws.Encoded.dp4F8bSc (s : Bool) (k : BitVec 2) (d : BitVec 7) (a : BitVec 7) (b : BitVec 7) :
    Laws.Encoded.Statement (.dp4F8bSc s k d a b) :=
  Laws.Encoded.of_major rfl (encRRR_major ..) (by decide)

theorem Laws.Encoded.dp8F4Sc (s : Bool) (k : BitVec 2) (d : BitVec 7) (a : BitVec 7) (b : BitVec 7) :
    Laws.Encoded.Statement (.dp8F4Sc s k d a b) :=
  Laws.Encoded.of_major rfl (encRRR_major ..) (by decide)

theorem Laws.Encoded.shflIdx (s : Bool) (d : BitVec 7) (a : BitVec 7) (b : BitVec 7) :
    Laws.Encoded.Statement (.shflIdx s d a b) :=
  Laws.Encoded.of_major rfl (encRRR_major ..) (by decide)

theorem Laws.Encoded.shflUpW (s : Bool) (d : BitVec 7) (a : BitVec 7) (n : BitVec 3) :
    Laws.Encoded.Statement (.shflUpW s d a n) :=
  Laws.Encoded.of_major rfl (encRRR_major ..) (by decide)

theorem Laws.Encoded.shflDownW (s : Bool) (d : BitVec 7) (a : BitVec 7) (n : BitVec 3) :
    Laws.Encoded.Statement (.shflDownW s d a n) :=
  Laws.Encoded.of_major rfl (encRRR_major ..) (by decide)

theorem Laws.Encoded.shflXorW (s : Bool) (d : BitVec 7) (a : BitVec 7) (n : BitVec 3) :
    Laws.Encoded.Statement (.shflXorW s d a n) :=
  Laws.Encoded.of_major rfl (encRRR_major ..) (by decide)

theorem Laws.Encoded.shflUp (s : Bool) (d : BitVec 7) (a : BitVec 7) (k : BitVec 7) :
    Laws.Encoded.Statement (.shflUp s d a k) :=
  Laws.Encoded.of_major rfl (encRRR_major ..) (by decide)

theorem Laws.Encoded.shflDown (s : Bool) (d : BitVec 7) (a : BitVec 7) (k : BitVec 7) :
    Laws.Encoded.Statement (.shflDown s d a k) :=
  Laws.Encoded.of_major rfl (encRRR_major ..) (by decide)

theorem Laws.Encoded.shflXor (s : Bool) (d : BitVec 7) (a : BitVec 7) (k : BitVec 7) :
    Laws.Encoded.Statement (.shflXor s d a k) :=
  Laws.Encoded.of_major rfl (encRRR_major ..) (by decide)

theorem Laws.Encoded.lredAddSi32 (s : Bool) (d : BitVec 7) (a : BitVec 7) (g : BitVec 3) :
    Laws.Encoded.Statement (.lredAddSi32 s d a g) :=
  Laws.Encoded.of_major rfl (encRRR_major ..) (by decide)

theorem Laws.Encoded.lredAddF32 (s : Bool) (d : BitVec 7) (a : BitVec 7) (g : BitVec 3) :
    Laws.Encoded.Statement (.lredAddF32 s d a g) :=
  Laws.Encoded.of_major rfl (encRRR_major ..) (by decide)

theorem Laws.Encoded.lredMinSi32 (s : Bool) (d : BitVec 7) (a : BitVec 7) (g : BitVec 3) :
    Laws.Encoded.Statement (.lredMinSi32 s d a g) :=
  Laws.Encoded.of_major rfl (encRRR_major ..) (by decide)

theorem Laws.Encoded.lredMaxSi32 (s : Bool) (d : BitVec 7) (a : BitVec 7) (g : BitVec 3) :
    Laws.Encoded.Statement (.lredMaxSi32 s d a g) :=
  Laws.Encoded.of_major rfl (encRRR_major ..) (by decide)

theorem Laws.Encoded.lredMinF32 (s : Bool) (d : BitVec 7) (a : BitVec 7) (g : BitVec 3) :
    Laws.Encoded.Statement (.lredMinF32 s d a g) :=
  Laws.Encoded.of_major rfl (encRRR_major ..) (by decide)

theorem Laws.Encoded.lredMaxF32 (s : Bool) (d : BitVec 7) (a : BitVec 7) (g : BitVec 3) :
    Laws.Encoded.Statement (.lredMaxF32 s d a g) :=
  Laws.Encoded.of_major rfl (encRRR_major ..) (by decide)

theorem Laws.Encoded.lredAnd (s : Bool) (d : BitVec 7) (a : BitVec 7) (g : BitVec 3) :
    Laws.Encoded.Statement (.lredAnd s d a g) :=
  Laws.Encoded.of_major rfl (encRRR_major ..) (by decide)

theorem Laws.Encoded.lredOr (s : Bool) (d : BitVec 7) (a : BitVec 7) (g : BitVec 3) :
    Laws.Encoded.Statement (.lredOr s d a g) :=
  Laws.Encoded.of_major rfl (encRRR_major ..) (by decide)

theorem Laws.Encoded.lredXor (s : Bool) (d : BitVec 7) (a : BitVec 7) (g : BitVec 3) :
    Laws.Encoded.Statement (.lredXor s d a g) :=
  Laws.Encoded.of_major rfl (encRRR_major ..) (by decide)

theorem Laws.Encoded.voteEvery (s : Bool) (q : BitVec 3) (p : BitVec 4) :
    Laws.Encoded.Statement (.voteEvery s q p) :=
  Laws.Encoded.of_major rfl (encRRR_major ..) (by decide)

theorem Laws.Encoded.voteSome (s : Bool) (q : BitVec 3) (p : BitVec 4) :
    Laws.Encoded.Statement (.voteSome s q p) :=
  Laws.Encoded.of_major rfl (encRRR_major ..) (by decide)

theorem Laws.Encoded.voteSame (s : Bool) (q : BitVec 3) (p : BitVec 4) :
    Laws.Encoded.Statement (.voteSame s q p) :=
  Laws.Encoded.of_major rfl (encRRR_major ..) (by decide)

theorem Laws.Encoded.voteMask (s : Bool) (d : BitVec 7) (p : BitVec 4) :
    Laws.Encoded.Statement (.voteMask s d p) :=
  Laws.Encoded.of_major rfl (encRRR_major ..) (by decide)

theorem Laws.Encoded.pand (s : Bool) (d : BitVec 3) (a : BitVec 4) (b : BitVec 4) :
    Laws.Encoded.Statement (.pand s d a b) :=
  Laws.Encoded.of_major rfl (encRRR_major ..) (by decide)

theorem Laws.Encoded.por (s : Bool) (d : BitVec 3) (a : BitVec 4) (b : BitVec 4) :
    Laws.Encoded.Statement (.por s d a b) :=
  Laws.Encoded.of_major rfl (encRRR_major ..) (by decide)

theorem Laws.Encoded.pxor (s : Bool) (d : BitVec 3) (a : BitVec 4) (b : BitVec 4) :
    Laws.Encoded.Statement (.pxor s d a b) :=
  Laws.Encoded.of_major rfl (encRRR_major ..) (by decide)

theorem Laws.Encoded.pmov (s : Bool) (d : BitVec 3) (a : BitVec 4) :
    Laws.Encoded.Statement (.pmov s d a) :=
  Laws.Encoded.of_major rfl (encRRR_major ..) (by decide)

theorem Laws.Encoded.p2r (s : Bool) (d : BitVec 7) :
    Laws.Encoded.Statement (.p2r s d) :=
  Laws.Encoded.of_major rfl (encRRR_major ..) (by decide)

theorem Laws.Encoded.regToPred (s : Bool) (a : BitVec 7) :
    Laws.Encoded.Statement (.regToPred s a) :=
  Laws.Encoded.of_major rfl (encRRR_major ..) (by decide)

theorem Laws.Encoded.qand (s : Bool) (d : BitVec 3) (a : BitVec 4) (b : BitVec 4) :
    Laws.Encoded.Statement (.qand s d a b) :=
  Laws.Encoded.of_major rfl (encRRR_major ..) (by decide)

theorem Laws.Encoded.qor (s : Bool) (d : BitVec 3) (a : BitVec 4) (b : BitVec 4) :
    Laws.Encoded.Statement (.qor s d a b) :=
  Laws.Encoded.of_major rfl (encRRR_major ..) (by decide)

theorem Laws.Encoded.qxor (s : Bool) (d : BitVec 3) (a : BitVec 4) (b : BitVec 4) :
    Laws.Encoded.Statement (.qxor s d a b) :=
  Laws.Encoded.of_major rfl (encRRR_major ..) (by decide)

theorem Laws.Encoded.qmov (s : Bool) (d : BitVec 3) (a : BitVec 4) :
    Laws.Encoded.Statement (.qmov s d a) :=
  Laws.Encoded.of_major rfl (encRRR_major ..) (by decide)

theorem Laws.Encoded.bra (s : Bool) (n : Bool) (c : BitVec 3) (o : BitVec 21) :
    Laws.Encoded.Statement (.bra s n c o) :=
  Laws.Encoded.of_major rfl (encBR_major ..) (by decide)

theorem Laws.Encoded.ubra (s : Bool) (n : Bool) (c : BitVec 3) (o : BitVec 21) :
    Laws.Encoded.Statement (.ubra s n c o) :=
  Laws.Encoded.of_major rfl (encBR_major ..) (by decide)

theorem Laws.Encoded.call (s : Bool) (n : Bool) (c : BitVec 3) (o : BitVec 21) :
    Laws.Encoded.Statement (.call s n c o) :=
  Laws.Encoded.of_major rfl (encBR_major ..) (by decide)

theorem Laws.Encoded.jr (s : Bool) (a : BitVec 7) :
    Laws.Encoded.Statement (.jr s a) :=
  Laws.Encoded.of_major rfl (encRRR_major ..) (by decide)

theorem Laws.Encoded.callr (s : Bool) (a : BitVec 7) :
    Laws.Encoded.Statement (.callr s a) :=
  Laws.Encoded.of_major rfl (encRRR_major ..) (by decide)

theorem Laws.Encoded.reform (s : Bool) :
    Laws.Encoded.Statement (.reform s) :=
  Laws.Encoded.of_major rfl (encRRR_major ..) (by decide)

theorem Laws.Encoded.exit (s : Bool) :
    Laws.Encoded.Statement (.exit s) :=
  Laws.Encoded.of_major rfl (encRRR_major ..) (by decide)

theorem Laws.Encoded.brk (s : Bool) (c : BitVec 7) :
    Laws.Encoded.Statement (.brk s c) :=
  Laws.Encoded.of_major rfl (encRRR_major ..) (by decide)

theorem Laws.Encoded.nop (s : Bool) :
    Laws.Encoded.Statement (.nop s) :=
  Laws.Encoded.of_major rfl (encRRR_major ..) (by decide)

theorem Laws.Encoded.winb (s : Bool) (n : BitVec 4) :
    Laws.Encoded.Statement (.winb s n) :=
  Laws.Encoded.of_major rfl (encRRR_major ..) (by decide)

theorem Laws.Encoded.uwinb (s : Bool) (n : BitVec 3) :
    Laws.Encoded.Statement (.uwinb s n) :=
  Laws.Encoded.of_major rfl (encRRR_major ..) (by decide)

theorem Laws.Encoded.tokp (s : Bool) :
    Laws.Encoded.Statement (.tokp s) :=
  Laws.Encoded.of_major rfl (encRRR_major ..) (by decide)

theorem Laws.Encoded.rnd (s : Bool) (d : BitVec 7) :
    Laws.Encoded.Statement (.rnd s d) :=
  Laws.Encoded.of_major rfl (encRRR_major ..) (by decide)

theorem Laws.Encoded.sysc (s : Bool) (n : BitVec 7) :
    Laws.Encoded.Statement (.sysc s n) :=
  Laws.Encoded.of_major rfl (encRRR_major ..) (by decide)

theorem Laws.Encoded.tret (s : Bool) :
    Laws.Encoded.Statement (.tret s) :=
  Laws.Encoded.of_major rfl (encRRR_major ..) (by decide)

theorem Laws.Encoded.ldB (s : Bool) (d : BitVec 7) (a : BitVec 7) (o : BitVec 8) :
    Laws.Encoded.Statement (.ldB s d a o) :=
  Laws.Encoded.of_major rfl (encMEM_major ..) (by decide)

theorem Laws.Encoded.ldSb (s : Bool) (d : BitVec 7) (a : BitVec 7) (o : BitVec 8) :
    Laws.Encoded.Statement (.ldSb s d a o) :=
  Laws.Encoded.of_major rfl (encMEM_major ..) (by decide)

theorem Laws.Encoded.ldH (s : Bool) (d : BitVec 7) (a : BitVec 7) (o : BitVec 8) :
    Laws.Encoded.Statement (.ldH s d a o) :=
  Laws.Encoded.of_major rfl (encMEM_major ..) (by decide)

theorem Laws.Encoded.ldSh (s : Bool) (d : BitVec 7) (a : BitVec 7) (o : BitVec 8) :
    Laws.Encoded.Statement (.ldSh s d a o) :=
  Laws.Encoded.of_major rfl (encMEM_major ..) (by decide)

theorem Laws.Encoded.ldW (s : Bool) (d : BitVec 7) (a : BitVec 7) (o : BitVec 8) :
    Laws.Encoded.Statement (.ldW s d a o) :=
  Laws.Encoded.of_major rfl (encMEM_major ..) (by decide)

theorem Laws.Encoded.ldD (s : Bool) (d : BitVec 7) (a : BitVec 7) (o : BitVec 8) :
    Laws.Encoded.Statement (.ldD s d a o) :=
  Laws.Encoded.of_major rfl (encMEM_major ..) (by decide)

theorem Laws.Encoded.ldQ (s : Bool) (d : BitVec 7) (a : BitVec 7) (o : BitVec 8) :
    Laws.Encoded.Statement (.ldQ s d a o) :=
  Laws.Encoded.of_major rfl (encMEM_major ..) (by decide)

theorem Laws.Encoded.stB (s : Bool) (d : BitVec 7) (a : BitVec 7) (o : BitVec 8) :
    Laws.Encoded.Statement (.stB s d a o) :=
  Laws.Encoded.of_major rfl (encMEM_major ..) (by decide)

theorem Laws.Encoded.stH (s : Bool) (d : BitVec 7) (a : BitVec 7) (o : BitVec 8) :
    Laws.Encoded.Statement (.stH s d a o) :=
  Laws.Encoded.of_major rfl (encMEM_major ..) (by decide)

theorem Laws.Encoded.stW (s : Bool) (d : BitVec 7) (a : BitVec 7) (o : BitVec 8) :
    Laws.Encoded.Statement (.stW s d a o) :=
  Laws.Encoded.of_major rfl (encMEM_major ..) (by decide)

theorem Laws.Encoded.stD (s : Bool) (d : BitVec 7) (a : BitVec 7) (o : BitVec 8) :
    Laws.Encoded.Statement (.stD s d a o) :=
  Laws.Encoded.of_major rfl (encMEM_major ..) (by decide)

theorem Laws.Encoded.stQ (s : Bool) (d : BitVec 7) (a : BitVec 7) (o : BitVec 8) :
    Laws.Encoded.Statement (.stQ s d a o) :=
  Laws.Encoded.of_major rfl (encMEM_major ..) (by decide)

theorem Laws.Encoded.lduW (s : Bool) (d : BitVec 7) (a : BitVec 7) (o : BitVec 8) :
    Laws.Encoded.Statement (.lduW s d a o) :=
  Laws.Encoded.of_major rfl (encMEM_major ..) (by decide)

theorem Laws.Encoded.lduD (s : Bool) (d : BitVec 7) (a : BitVec 7) (o : BitVec 8) :
    Laws.Encoded.Statement (.lduD s d a o) :=
  Laws.Encoded.of_major rfl (encMEM_major ..) (by decide)

theorem Laws.Encoded.ldsW (s : Bool) (d : BitVec 7) (a : BitVec 7) (w : BitVec 3) (o : BitVec 8) :
    Laws.Encoded.Statement (.ldsW s d a w o) :=
  Laws.Encoded.of_major rfl (encMEM_major ..) (by decide)

theorem Laws.Encoded.ldsD (s : Bool) (d : BitVec 7) (a : BitVec 7) (w : BitVec 3) (o : BitVec 8) :
    Laws.Encoded.Statement (.ldsD s d a w o) :=
  Laws.Encoded.of_major rfl (encMEM_major ..) (by decide)

theorem Laws.Encoded.ldsQ (s : Bool) (d : BitVec 7) (a : BitVec 7) (w : BitVec 3) (o : BitVec 8) :
    Laws.Encoded.Statement (.ldsQ s d a w o) :=
  Laws.Encoded.of_major rfl (encMEM_major ..) (by decide)

theorem Laws.Encoded.stsW (s : Bool) (d : BitVec 7) (a : BitVec 7) (w : BitVec 3) (o : BitVec 8) :
    Laws.Encoded.Statement (.stsW s d a w o) :=
  Laws.Encoded.of_major rfl (encMEM_major ..) (by decide)

theorem Laws.Encoded.stsD (s : Bool) (d : BitVec 7) (a : BitVec 7) (w : BitVec 3) (o : BitVec 8) :
    Laws.Encoded.Statement (.stsD s d a w o) :=
  Laws.Encoded.of_major rfl (encMEM_major ..) (by decide)

theorem Laws.Encoded.stsQ (s : Bool) (d : BitVec 7) (a : BitVec 7) (w : BitVec 3) (o : BitVec 8) :
    Laws.Encoded.Statement (.stsQ s d a w o) :=
  Laws.Encoded.of_major rfl (encMEM_major ..) (by decide)

theorem Laws.Encoded.ldpB (s : Bool) (d : BitVec 7) (a : BitVec 7) (o : BitVec 8) :
    Laws.Encoded.Statement (.ldpB s d a o) :=
  Laws.Encoded.of_major rfl (encMEM_major ..) (by decide)

theorem Laws.Encoded.ldpSb (s : Bool) (d : BitVec 7) (a : BitVec 7) (o : BitVec 8) :
    Laws.Encoded.Statement (.ldpSb s d a o) :=
  Laws.Encoded.of_major rfl (encMEM_major ..) (by decide)

theorem Laws.Encoded.ldpH (s : Bool) (d : BitVec 7) (a : BitVec 7) (o : BitVec 8) :
    Laws.Encoded.Statement (.ldpH s d a o) :=
  Laws.Encoded.of_major rfl (encMEM_major ..) (by decide)

theorem Laws.Encoded.ldpSh (s : Bool) (d : BitVec 7) (a : BitVec 7) (o : BitVec 8) :
    Laws.Encoded.Statement (.ldpSh s d a o) :=
  Laws.Encoded.of_major rfl (encMEM_major ..) (by decide)

theorem Laws.Encoded.ldpW (s : Bool) (d : BitVec 7) (a : BitVec 7) (o : BitVec 8) :
    Laws.Encoded.Statement (.ldpW s d a o) :=
  Laws.Encoded.of_major rfl (encMEM_major ..) (by decide)

theorem Laws.Encoded.ldpD (s : Bool) (d : BitVec 7) (a : BitVec 7) (o : BitVec 8) :
    Laws.Encoded.Statement (.ldpD s d a o) :=
  Laws.Encoded.of_major rfl (encMEM_major ..) (by decide)

theorem Laws.Encoded.ldpQ (s : Bool) (d : BitVec 7) (a : BitVec 7) (o : BitVec 8) :
    Laws.Encoded.Statement (.ldpQ s d a o) :=
  Laws.Encoded.of_major rfl (encMEM_major ..) (by decide)

theorem Laws.Encoded.stpB (s : Bool) (d : BitVec 7) (a : BitVec 7) (o : BitVec 8) :
    Laws.Encoded.Statement (.stpB s d a o) :=
  Laws.Encoded.of_major rfl (encMEM_major ..) (by decide)

theorem Laws.Encoded.stpH (s : Bool) (d : BitVec 7) (a : BitVec 7) (o : BitVec 8) :
    Laws.Encoded.Statement (.stpH s d a o) :=
  Laws.Encoded.of_major rfl (encMEM_major ..) (by decide)

theorem Laws.Encoded.stpW (s : Bool) (d : BitVec 7) (a : BitVec 7) (o : BitVec 8) :
    Laws.Encoded.Statement (.stpW s d a o) :=
  Laws.Encoded.of_major rfl (encMEM_major ..) (by decide)

theorem Laws.Encoded.stpD (s : Bool) (d : BitVec 7) (a : BitVec 7) (o : BitVec 8) :
    Laws.Encoded.Statement (.stpD s d a o) :=
  Laws.Encoded.of_major rfl (encMEM_major ..) (by decide)

theorem Laws.Encoded.stpQ (s : Bool) (d : BitVec 7) (a : BitVec 7) (o : BitVec 8) :
    Laws.Encoded.Statement (.stpQ s d a o) :=
  Laws.Encoded.of_major rfl (encMEM_major ..) (by decide)

theorem Laws.Encoded.atomAddSi32 (s : Bool) (d : BitVec 7) (a : BitVec 7) (o : BitVec 7) :
    Laws.Encoded.Statement (.atomAddSi32 s d a o) :=
  Laws.Encoded.of_major rfl (encRRR_major ..) (by decide)

theorem Laws.Encoded.atomAddF32 (s : Bool) (d : BitVec 7) (a : BitVec 7) (o : BitVec 7) :
    Laws.Encoded.Statement (.atomAddF32 s d a o) :=
  Laws.Encoded.of_major rfl (encRRR_major ..) (by decide)

theorem Laws.Encoded.atomMinSi32 (s : Bool) (d : BitVec 7) (a : BitVec 7) (o : BitVec 7) :
    Laws.Encoded.Statement (.atomMinSi32 s d a o) :=
  Laws.Encoded.of_major rfl (encRRR_major ..) (by decide)

theorem Laws.Encoded.atomMaxSi32 (s : Bool) (d : BitVec 7) (a : BitVec 7) (o : BitVec 7) :
    Laws.Encoded.Statement (.atomMaxSi32 s d a o) :=
  Laws.Encoded.of_major rfl (encRRR_major ..) (by decide)

theorem Laws.Encoded.atomMinUi32 (s : Bool) (d : BitVec 7) (a : BitVec 7) (o : BitVec 7) :
    Laws.Encoded.Statement (.atomMinUi32 s d a o) :=
  Laws.Encoded.of_major rfl (encRRR_major ..) (by decide)

theorem Laws.Encoded.atomMaxUi32 (s : Bool) (d : BitVec 7) (a : BitVec 7) (o : BitVec 7) :
    Laws.Encoded.Statement (.atomMaxUi32 s d a o) :=
  Laws.Encoded.of_major rfl (encRRR_major ..) (by decide)

theorem Laws.Encoded.atomAnd (s : Bool) (d : BitVec 7) (a : BitVec 7) (o : BitVec 7) :
    Laws.Encoded.Statement (.atomAnd s d a o) :=
  Laws.Encoded.of_major rfl (encRRR_major ..) (by decide)

theorem Laws.Encoded.atomOr (s : Bool) (d : BitVec 7) (a : BitVec 7) (o : BitVec 7) :
    Laws.Encoded.Statement (.atomOr s d a o) :=
  Laws.Encoded.of_major rfl (encRRR_major ..) (by decide)

theorem Laws.Encoded.atomXor (s : Bool) (d : BitVec 7) (a : BitVec 7) (o : BitVec 7) :
    Laws.Encoded.Statement (.atomXor s d a o) :=
  Laws.Encoded.of_major rfl (encRRR_major ..) (by decide)

theorem Laws.Encoded.atomExchB32 (s : Bool) (d : BitVec 7) (a : BitVec 7) (o : BitVec 7) :
    Laws.Encoded.Statement (.atomExchB32 s d a o) :=
  Laws.Encoded.of_major rfl (encRRR_major ..) (by decide)

theorem Laws.Encoded.atomCasB32 (s : Bool) (d : BitVec 7) (a : BitVec 7) (o : BitVec 7) :
    Laws.Encoded.Statement (.atomCasB32 s d a o) :=
  Laws.Encoded.of_major rfl (encRRR_major ..) (by decide)

theorem Laws.Encoded.atomAddUi64 (s : Bool) (d : BitVec 7) (a : BitVec 7) (o : BitVec 7) :
    Laws.Encoded.Statement (.atomAddUi64 s d a o) :=
  Laws.Encoded.of_major rfl (encRRR_major ..) (by decide)

theorem Laws.Encoded.atomExchB64 (s : Bool) (d : BitVec 7) (a : BitVec 7) (o : BitVec 7) :
    Laws.Encoded.Statement (.atomExchB64 s d a o) :=
  Laws.Encoded.of_major rfl (encRRR_major ..) (by decide)

theorem Laws.Encoded.atomCasB64 (s : Bool) (d : BitVec 7) (a : BitVec 7) (o : BitVec 7) :
    Laws.Encoded.Statement (.atomCasB64 s d a o) :=
  Laws.Encoded.of_major rfl (encRRR_major ..) (by decide)

theorem Laws.Encoded.atomLdx (s : Bool) (d : BitVec 7) (a : BitVec 7) (o : BitVec 7) :
    Laws.Encoded.Statement (.atomLdx s d a o) :=
  Laws.Encoded.of_major rfl (encRRR_major ..) (by decide)

theorem Laws.Encoded.atomStx (s : Bool) (d : BitVec 7) (a : BitVec 7) (o : BitVec 7) :
    Laws.Encoded.Statement (.atomStx s d a o) :=
  Laws.Encoded.of_major rfl (encRRR_major ..) (by decide)

theorem Laws.Encoded.capr (s : Bool) (d : BitVec 7) (a : BitVec 7) (i : BitVec 11) :
    Laws.Encoded.Statement (.capr s d a i) :=
  Laws.Encoded.of_major rfl (encRI_major ..) (by decide)

theorem Laws.Encoded.srd (s : Bool) (d : BitVec 7) (n : BitVec 7) :
    Laws.Encoded.Statement (.srd s d n) :=
  Laws.Encoded.of_major rfl (encRRR_major ..) (by decide)

theorem Laws.Encoded.srdUniform (s : Bool) (d : BitVec 7) (n : BitVec 7) :
    Laws.Encoded.Statement (.srdUniform s d n) :=
  Laws.Encoded.of_major rfl (encRRR_major ..) (by decide)

theorem Laws.Encoded.swr (s : Bool) (a : BitVec 7) :
    Laws.Encoded.Statement (.swr s a) :=
  Laws.Encoded.of_major rfl (encRRR_major ..) (by decide)

theorem Laws.Encoded.mredAddSi32 (s : Bool) (d : BitVec 7) (a : BitVec 7) (o : BitVec 7) :
    Laws.Encoded.Statement (.mredAddSi32 s d a o) :=
  Laws.Encoded.of_major rfl (encRRR_major ..) (by decide)

theorem Laws.Encoded.mredAddF32 (s : Bool) (d : BitVec 7) (a : BitVec 7) (o : BitVec 7) :
    Laws.Encoded.Statement (.mredAddF32 s d a o) :=
  Laws.Encoded.of_major rfl (encRRR_major ..) (by decide)

theorem Laws.Encoded.mredMinSi32 (s : Bool) (d : BitVec 7) (a : BitVec 7) (o : BitVec 7) :
    Laws.Encoded.Statement (.mredMinSi32 s d a o) :=
  Laws.Encoded.of_major rfl (encRRR_major ..) (by decide)

theorem Laws.Encoded.mredMaxSi32 (s : Bool) (d : BitVec 7) (a : BitVec 7) (o : BitVec 7) :
    Laws.Encoded.Statement (.mredMaxSi32 s d a o) :=
  Laws.Encoded.of_major rfl (encRRR_major ..) (by decide)

theorem Laws.Encoded.mredMinUi32 (s : Bool) (d : BitVec 7) (a : BitVec 7) (o : BitVec 7) :
    Laws.Encoded.Statement (.mredMinUi32 s d a o) :=
  Laws.Encoded.of_major rfl (encRRR_major ..) (by decide)

theorem Laws.Encoded.mredMaxUi32 (s : Bool) (d : BitVec 7) (a : BitVec 7) (o : BitVec 7) :
    Laws.Encoded.Statement (.mredMaxUi32 s d a o) :=
  Laws.Encoded.of_major rfl (encRRR_major ..) (by decide)

theorem Laws.Encoded.mredAnd (s : Bool) (d : BitVec 7) (a : BitVec 7) (o : BitVec 7) :
    Laws.Encoded.Statement (.mredAnd s d a o) :=
  Laws.Encoded.of_major rfl (encRRR_major ..) (by decide)

theorem Laws.Encoded.mredOr (s : Bool) (d : BitVec 7) (a : BitVec 7) (o : BitVec 7) :
    Laws.Encoded.Statement (.mredOr s d a o) :=
  Laws.Encoded.of_major rfl (encRRR_major ..) (by decide)

theorem Laws.Encoded.mredXor (s : Bool) (d : BitVec 7) (a : BitVec 7) (o : BitVec 7) :
    Laws.Encoded.Statement (.mredXor s d a o) :=
  Laws.Encoded.of_major rfl (encRRR_major ..) (by decide)

theorem Laws.Encoded.fence (s : Bool) (c : BitVec 3) (e : BitVec 2) :
    Laws.Encoded.Statement (.fence s c e) :=
  Laws.Encoded.of_major rfl (encRRR_major ..) (by decide)

theorem Laws.Encoded.waitc (s : Bool) (d : BitVec 7) (a : BitVec 7) (c : BitVec 3) (p : BitVec 2) :
    Laws.Encoded.Statement (.waitc s d a c p) :=
  Laws.Encoded.of_major rfl (encRRR_major ..) (by decide)

theorem Laws.Encoded.wake (s : Bool) (a : BitVec 7) (c : BitVec 3) (p : BitVec 2) :
    Laws.Encoded.Statement (.wake s a c p) :=
  Laws.Encoded.of_major rfl (encRRR_major ..) (by decide)

theorem Laws.Encoded.barArr (s : Bool) (b : BitVec 4) :
    Laws.Encoded.Statement (.barArr s b) :=
  Laws.Encoded.of_major rfl (encRRR_major ..) (by decide)

theorem Laws.Encoded.barWait (s : Bool) (b : BitVec 4) :
    Laws.Encoded.Statement (.barWait s b) :=
  Laws.Encoded.of_major rfl (encRRR_major ..) (by decide)

theorem Laws.Encoded.barSync (s : Bool) (b : BitVec 4) :
    Laws.Encoded.Statement (.barSync s b) :=
  Laws.Encoded.of_major rfl (encRRR_major ..) (by decide)

theorem Laws.Encoded.cbacq (s : Bool) (d : BitVec 7) (b : BitVec 7) :
    Laws.Encoded.Statement (.cbacq s d b) :=
  Laws.Encoded.of_major rfl (encRRR_major ..) (by decide)

theorem Laws.Encoded.cbrel (s : Bool) (a : BitVec 7) (b : BitVec 7) :
    Laws.Encoded.Statement (.cbrel s a b) :=
  Laws.Encoded.of_major rfl (encRRR_major ..) (by decide)

theorem Laws.Encoded.cbfill (s : Bool) (d : BitVec 7) (b : BitVec 7) :
    Laws.Encoded.Statement (.cbfill s d b) :=
  Laws.Encoded.of_major rfl (encRRR_major ..) (by decide)

theorem Laws.Encoded.cbdone (s : Bool) (a : BitVec 7) (b : BitVec 7) :
    Laws.Encoded.Statement (.cbdone s a b) :=
  Laws.Encoded.of_major rfl (encRRR_major ..) (by decide)

theorem Laws.Encoded.cpy (s : Bool) (c : BitVec 6) (a : BitVec 7) :
    Laws.Encoded.Statement (.cpy s c a) :=
  Laws.Encoded.of_major rfl (encRRR_major ..) (by decide)

theorem Laws.Encoded.cpy2d (s : Bool) (c : BitVec 6) (a : BitVec 7) :
    Laws.Encoded.Statement (.cpy2d s c a) :=
  Laws.Encoded.of_major rfl (encRRR_major ..) (by decide)

theorem Laws.Encoded.cpyred (s : Bool) (c : BitVec 6) (a : BitVec 7) :
    Laws.Encoded.Statement (.cpyred s c a) :=
  Laws.Encoded.of_major rfl (encRRR_major ..) (by decide)

theorem Laws.Encoded.cpyMx (s : Bool) (c : BitVec 6) (a : BitVec 7) :
    Laws.Encoded.Statement (.cpyMx s c a) :=
  Laws.Encoded.of_major rfl (encRRR_major ..) (by decide)

theorem Laws.Encoded.qfence (s : Bool) (c : BitVec 6) (m : BitVec 4) :
    Laws.Encoded.Statement (.qfence s c m) :=
  Laws.Encoded.of_major rfl (encRRR_major ..) (by decide)

theorem Laws.Encoded.qwait (s : Bool) (x : BitVec 6) (a : BitVec 7) (y : BitVec 6) :
    Laws.Encoded.Statement (.qwait s x a y) :=
  Laws.Encoded.of_major rfl (encRRR_major ..) (by decide)

theorem Laws.Encoded.mldSt (s : Bool) (n : BitVec 2) (a : BitVec 7) (b : BitVec 7) :
    Laws.Encoded.Statement (.mldSt s n a b) :=
  Laws.Encoded.of_major rfl (encRRR_major ..) (by decide)

theorem Laws.Encoded.mswap (s : Bool) (n : BitVec 2) :
    Laws.Encoded.Statement (.mswap s n) :=
  Laws.Encoded.of_major rfl (encRRR_major ..) (by decide)

theorem Laws.Encoded.mma (s : Bool) (z : Bool) (t : BitVec 3) (a : BitVec 7) (b : BitVec 7) :
    Laws.Encoded.Statement (.mma s z t a b) :=
  Laws.Encoded.of_major rfl (encRRR_major ..) (by decide)

theorem Laws.Encoded.maccRd (s : Bool) (d : BitVec 7) (a : BitVec 7) (b : BitVec 7) :
    Laws.Encoded.Statement (.maccRd s d a b) :=
  Laws.Encoded.of_major rfl (encRRR_major ..) (by decide)

theorem Laws.Encoded.mst (s : Bool) (k : Bool) (t : BitVec 3) (a : BitVec 7) (b : BitVec 7) :
    Laws.Encoded.Statement (.mst s k t a b) :=
  Laws.Encoded.of_major rfl (encRRR_major ..) (by decide)

theorem Laws.Encoded.maccClr (s : Bool) (t : BitVec 3) (n : BitVec 4) :
    Laws.Encoded.Statement (.maccClr s t n) :=
  Laws.Encoded.of_major rfl (encRRR_major ..) (by decide)

theorem Laws.Encoded.mstat (s : Bool) (d : BitVec 7) (a : BitVec 7) :
    Laws.Encoded.Statement (.mstat s d a) :=
  Laws.Encoded.of_major rfl (encRRR_major ..) (by decide)

theorem Laws.Encoded.hread (s : Bool) (c : BitVec 6) (a : BitVec 7) :
    Laws.Encoded.Statement (.hread s c a) :=
  Laws.Encoded.of_major rfl (encRRR_major ..) (by decide)

theorem Laws.Encoded.xsort (s : Bool) (c : BitVec 6) (a : BitVec 7) :
    Laws.Encoded.Statement (.xsort s c a) :=
  Laws.Encoded.of_major rfl (encRRR_major ..) (by decide)

theorem Laws.Encoded.a2av (s : Bool) (c : BitVec 6) (a : BitVec 7) :
    Laws.Encoded.Statement (.a2av s c a) :=
  Laws.Encoded.of_major rfl (encRRR_major ..) (by decide)

theorem Laws.Encoded.areduce (s : Bool) (c : BitVec 6) (a : BitVec 7) :
    Laws.Encoded.Statement (.areduce s c a) :=
  Laws.Encoded.of_major rfl (encRRR_major ..) (by decide)

theorem Laws.Encoded.rput (s : Bool) (c : BitVec 6) (a : BitVec 7) :
    Laws.Encoded.Statement (.rput s c a) :=
  Laws.Encoded.of_major rfl (encRRR_major ..) (by decide)

theorem Laws.Encoded.rget (s : Bool) (c : BitVec 6) (a : BitVec 7) :
    Laws.Encoded.Statement (.rget s c a) :=
  Laws.Encoded.of_major rfl (encRRR_major ..) (by decide)

theorem Laws.Encoded.ratom (s : Bool) (c : BitVec 6) (a : BitVec 7) :
    Laws.Encoded.Statement (.ratom s c a) :=
  Laws.Encoded.of_major rfl (encRRR_major ..) (by decide)

theorem Laws.Encoded.rflush (s : Bool) (c : BitVec 6) (a : BitVec 7) :
    Laws.Encoded.Statement (.rflush s c a) :=
  Laws.Encoded.of_major rfl (encRRR_major ..) (by decide)

theorem Laws.Encoded.kvld (s : Bool) (c : BitVec 6) (a : BitVec 7) (d : BitVec 7) :
    Laws.Encoded.Statement (.kvld s c a d) :=
  Laws.Encoded.of_major rfl (encRRR_major ..) (by decide)

theorem Laws.Encoded.roost (s : Bool) (c : BitVec 6) (a : BitVec 7) :
    Laws.Encoded.Statement (.roost s c a) :=
  Laws.Encoded.of_major rfl (encRRR_major ..) (by decide)

theorem Laws.Encoded.rouse (s : Bool) (c : BitVec 6) (a : BitVec 7) :
    Laws.Encoded.Statement (.rouse s c a) :=
  Laws.Encoded.of_major rfl (encRRR_major ..) (by decide)

theorem Laws.Encoded.lnch (s : Bool) (c : BitVec 6) (a : BitVec 7) :
    Laws.Encoded.Statement (.lnch s c a) :=
  Laws.Encoded.of_major rfl (encRRR_major ..) (by decide)

theorem Laws.Encoded.cncl (s : Bool) (l : BitVec 2) (a : BitVec 7) (d : BitVec 7) :
    Laws.Encoded.Statement (.cncl s l a d) :=
  Laws.Encoded.of_major rfl (encRRR_major ..) (by decide)

theorem Laws.Encoded.gang (s : Bool) (c : BitVec 6) (a : BitVec 7) :
    Laws.Encoded.Statement (.gang s c a) :=
  Laws.Encoded.of_major rfl (encRRR_major ..) (by decide)

theorem Laws.Encoded.psrd (s : Bool) (d : BitVec 7) (n : BitVec 7) :
    Laws.Encoded.Statement (.psrd s d n) :=
  Laws.Encoded.of_major rfl (encRRR_major ..) (by decide)

theorem Laws.Encoded.pswr (s : Bool) (a : BitVec 7) (n : BitVec 7) :
    Laws.Encoded.Statement (.pswr s a n) :=
  Laws.Encoded.of_major rfl (encRRR_major ..) (by decide)

theorem Laws.Encoded.guardPrefix (n : Bool) (c : BitVec 3) :
    Laws.Encoded.Statement (.guardPrefix n c) :=
  Laws.Encoded.of_major rfl (encBR_major ..) (by decide)

theorem Laws.Encoded.resultLand (id : Nat) :
    Laws.Encoded.Statement (.resultLand id) :=
  Laws.Encoded.of_none rfl

theorem Laws.Encoded.storePerform (id : Nat) :
    Laws.Encoded.Statement (.storePerform id) :=
  Laws.Encoded.of_none rfl

theorem Laws.Encoded.waitcSoRepeat (crew : Nat) (lane : Nat) :
    Laws.Encoded.Statement (.waitcSoRepeat crew lane) :=
  Laws.Encoded.of_none rfl

theorem Laws.Encoded.binAged (qtr : Nat) (bin : Nat) :
    Laws.Encoded.Statement (.binAged qtr bin) :=
  Laws.Encoded.of_none rfl

theorem Laws.Encoded.binRelease (qtr : Nat) :
    Laws.Encoded.Statement (.binRelease qtr) :=
  Laws.Encoded.of_none rfl

theorem Laws.Encoded.syscPostHeld (world : Nat) :
    Laws.Encoded.Statement (.syscPostHeld world) :=
  Laws.Encoded.of_none rfl

theorem Laws.Encoded.collectivePerform (crew : Nat) :
    Laws.Encoded.Statement (.collectivePerform crew) :=
  Laws.Encoded.of_none rfl

theorem Laws.Encoded.faultEntryPostHeld (group : Nat) :
    Laws.Encoded.Statement (.faultEntryPostHeld group) :=
  Laws.Encoded.of_none rfl

theorem Laws.Encoded.lastExitRelease (unit : Nat) :
    Laws.Encoded.Statement (.lastExitRelease unit) :=
  Laws.Encoded.of_none rfl

theorem Laws.Encoded.kernelBoundary (world : Nat) (launch : Nat) :
    Laws.Encoded.Statement (.kernelBoundary world launch) :=
  Laws.Encoded.of_none rfl

theorem Laws.Encoded.asyncTrapEntry (crew : Nat) :
    Laws.Encoded.Statement (.asyncTrapEntry crew) :=
  Laws.Encoded.of_none rfl

theorem Laws.Encoded.mldStPerform (qtr : Nat) :
    Laws.Encoded.Statement (.mldStPerform qtr) :=
  Laws.Encoded.of_none rfl

theorem Laws.Encoded.mswapPerform (qtr : Nat) :
    Laws.Encoded.Statement (.mswapPerform qtr) :=
  Laws.Encoded.of_none rfl

theorem Laws.Encoded.mmaPerform (qtr : Nat) :
    Laws.Encoded.Statement (.mmaPerform qtr) :=
  Laws.Encoded.of_none rfl

theorem Laws.Encoded.mstPerform (qtr : Nat) :
    Laws.Encoded.Statement (.mstPerform qtr) :=
  Laws.Encoded.of_none rfl

theorem Laws.Encoded.maccClrPerform (qtr : Nat) :
    Laws.Encoded.Statement (.maccClrPerform qtr) :=
  Laws.Encoded.of_none rfl

theorem Laws.Encoded.maccRdLand (qtr : Nat) :
    Laws.Encoded.Statement (.maccRdLand qtr) :=
  Laws.Encoded.of_none rfl

theorem Laws.Encoded.mstatLand (qtr : Nat) :
    Laws.Encoded.Statement (.mstatLand qtr) :=
  Laws.Encoded.of_none rfl

theorem Laws.Encoded.arrayUncorrectableError (qtr : Nat) (inPlane : Bool) (shadow : Bool) (row : Nat) (entry : Nat) :
    Laws.Encoded.Statement (.arrayUncorrectableError qtr inPlane shadow row entry) :=
  Laws.Encoded.of_none rfl

theorem Laws.Encoded.engineEntryStart (entry : Nat) :
    Laws.Encoded.Statement (.engineEntryStart entry) :=
  Laws.Encoded.of_none rfl

theorem Laws.Encoded.cpyComplete (entry : Nat) :
    Laws.Encoded.Statement (.cpyComplete entry) :=
  Laws.Encoded.of_none rfl

theorem Laws.Encoded.cpyredChunkApply (entry : Nat) :
    Laws.Encoded.Statement (.cpyredChunkApply entry) :=
  Laws.Encoded.of_none rfl

theorem Laws.Encoded.copyReplay (entry : Nat) :
    Laws.Encoded.Statement (.copyReplay entry) :=
  Laws.Encoded.of_none rfl

theorem Laws.Encoded.qfenceComplete (entry : Nat) :
    Laws.Encoded.Statement (.qfenceComplete entry) :=
  Laws.Encoded.of_none rfl

theorem Laws.Encoded.qwaitComplete (entry : Nat) :
    Laws.Encoded.Statement (.qwaitComplete entry) :=
  Laws.Encoded.of_none rfl

theorem Laws.Encoded.hreadBurstArrive (entry : Nat) (burst : Nat) (bytes : List Byte) :
    Laws.Encoded.Statement (.hreadBurstArrive entry burst bytes) :=
  Laws.Encoded.of_none rfl

theorem Laws.Encoded.hreadBurstFetchFail (entry : Nat) (burst : Nat) (status : Nat) (reason : Nat) (final : Bool) :
    Laws.Encoded.Statement (.hreadBurstFetchFail entry burst status reason final) :=
  Laws.Encoded.of_none rfl

theorem Laws.Encoded.dripBirth (core : Nat) (quarter : Nat) :
    Laws.Encoded.Statement (.dripBirth core quarter) :=
  Laws.Encoded.of_none rfl

theorem Laws.Encoded.xsortComplete (entry : Nat) :
    Laws.Encoded.Statement (.xsortComplete entry) :=
  Laws.Encoded.of_none rfl

theorem Laws.Encoded.groupInstanceBegin (entry : Nat) (kinds : List Nat) (counts : List Nat) (noinnets : List Nat) (path : Nat) (fallback : Nat) :
    Laws.Encoded.Statement (.groupInstanceBegin entry kinds counts noinnets path fallback) :=
  Laws.Encoded.of_none rfl

theorem Laws.Encoded.groupWithdrawal (entry : Nat) (rank : Nat) :
    Laws.Encoded.Statement (.groupWithdrawal entry rank) :=
  Laws.Encoded.of_none rfl

theorem Laws.Encoded.a2avCountExchange (entry : Nat) (metas : List (List Nat)) :
    Laws.Encoded.Statement (.a2avCountExchange entry metas) :=
  Laws.Encoded.of_none rfl

theorem Laws.Encoded.a2avPartPlaced (entry : Nat) (sender : Nat) (bytes : List Byte) :
    Laws.Encoded.Statement (.a2avPartPlaced entry sender bytes) :=
  Laws.Encoded.of_none rfl

theorem Laws.Encoded.areduceComplete (entry : Nat) (contributions : List (List Byte)) :
    Laws.Encoded.Statement (.areduceComplete entry contributions) :=
  Laws.Encoded.of_none rfl

theorem Laws.Encoded.rmaRequestReceive (req : RmaReq) :
    Laws.Encoded.Statement (.rmaRequestReceive req) :=
  Laws.Encoded.of_none rfl

theorem Laws.Encoded.rputComplete (entry : Nat) :
    Laws.Encoded.Statement (.rputComplete entry) :=
  Laws.Encoded.of_none rfl

theorem Laws.Encoded.rgetComplete (entry : Nat) (bytes : List Byte) :
    Laws.Encoded.Statement (.rgetComplete entry bytes) :=
  Laws.Encoded.of_none rfl

theorem Laws.Encoded.ratomComplete (entry : Nat) (old : BitVec 64) :
    Laws.Encoded.Statement (.ratomComplete entry old) :=
  Laws.Encoded.of_none rfl

theorem Laws.Encoded.rflushComplete (entry : Nat) :
    Laws.Encoded.Statement (.rflushComplete entry) :=
  Laws.Encoded.of_none rfl

theorem Laws.Encoded.kvldStatusLand (id : Nat) :
    Laws.Encoded.Statement (.kvldStatusLand id) :=
  Laws.Encoded.of_none rfl

theorem Laws.Encoded.roostRegistered (entry : Nat) :
    Laws.Encoded.Statement (.roostRegistered entry) :=
  Laws.Encoded.of_none rfl

theorem Laws.Encoded.rouseArrive (roost : Nat) (payload : BitVec 64) (sender : Nat) :
    Laws.Encoded.Statement (.rouseArrive roost payload sender) :=
  Laws.Encoded.of_none rfl

theorem Laws.Encoded.gangPrepare (world : Nat) (ldesc : Nat) (tick : Nat) (queue : Nat) (issuer : Nat) :
    Laws.Encoded.Statement (.gangPrepare world ldesc tick queue issuer) :=
  Laws.Encoded.of_none rfl

theorem Laws.Encoded.gangDecision (entry : Nat) (reasons : List Nat) :
    Laws.Encoded.Statement (.gangDecision entry reasons) :=
  Laws.Encoded.of_none rfl

theorem Laws.Encoded.gangCommit (gang : Nat) :
    Laws.Encoded.Statement (.gangCommit gang) :=
  Laws.Encoded.of_none rfl

theorem Laws.Encoded.gangAbort (gang : GangAbort) :
    Laws.Encoded.Statement (.gangAbort gang) :=
  Laws.Encoded.of_none rfl

theorem Laws.Encoded.gangTickDispatch (gang : Nat) :
    Laws.Encoded.Statement (.gangTickDispatch gang) :=
  Laws.Encoded.of_none rfl

theorem Laws.Encoded.preemptRequest (units : List Nat) (reason : Nat) (grace : Nat) :
    Laws.Encoded.Statement (.preemptRequest units reason grace) :=
  Laws.Encoded.of_none rfl

theorem Laws.Encoded.preemptGraceExpiry (crew : Nat) :
    Laws.Encoded.Statement (.preemptGraceExpiry crew) :=
  Laws.Encoded.of_none rfl

theorem Laws.Encoded.saveDeadlineExpiry (crew : Nat) :
    Laws.Encoded.Statement (.saveDeadlineExpiry crew) :=
  Laws.Encoded.of_none rfl

theorem Laws.Encoded.ctxopSave (crew : Nat) :
    Laws.Encoded.Statement (.ctxopSave crew) :=
  Laws.Encoded.of_none rfl

theorem Laws.Encoded.ctxopRestore (crew : Nat) :
    Laws.Encoded.Statement (.ctxopRestore crew) :=
  Laws.Encoded.of_none rfl

theorem Laws.Encoded.accdatWrite (crew : Nat) (lane : Nat) (value : Word) :
    Laws.Encoded.Statement (.accdatWrite crew lane value) :=
  Laws.Encoded.of_none rfl

theorem Laws.Encoded.accstatWrite (crew : Nat) (lane : Nat) (value : Word) :
    Laws.Encoded.Statement (.accstatWrite crew lane value) :=
  Laws.Encoded.of_none rfl

theorem Laws.Encoded.resumeStart (launch : Nat) :
    Laws.Encoded.Statement (.resumeStart launch) :=
  Laws.Encoded.of_none rfl

theorem Laws.Encoded.syscReplyDoorbell (world : Nat) (reqid : Word) (status : Word) (lanes : List Nat) (values : List Nat) :
    Laws.Encoded.Statement (.syscReplyDoorbell world reqid status lanes values) :=
  Laws.Encoded.of_none rfl

theorem Laws.Encoded.syscAlloc (world : Nat) (reqid : Word) :
    Laws.Encoded.Statement (.syscAlloc world reqid) :=
  Laws.Encoded.of_none rfl

theorem Laws.Encoded.syscFree (world : Nat) (reqid : Word) :
    Laws.Encoded.Statement (.syscFree world reqid) :=
  Laws.Encoded.of_none rfl

theorem Laws.Encoded.kick (world : Nat) (queue : Nat) (tail : Word) :
    Laws.Encoded.Statement (.kick world queue tail) :=
  Laws.Encoded.of_none rfl

theorem Laws.Encoded.queueEntryTake (world : Nat) (queue : Nat) :
    Laws.Encoded.Statement (.queueEntryTake world queue) :=
  Laws.Encoded.of_none rfl

theorem Laws.Encoded.ctrlResume (world : Nat) :
    Laws.Encoded.Statement (.ctrlResume world) :=
  Laws.Encoded.of_none rfl

theorem Laws.Encoded.ctrlCancel (world : Nat) :
    Laws.Encoded.Statement (.ctrlCancel world) :=
  Laws.Encoded.of_none rfl

theorem Laws.Encoded.ctrlClose (world : Nat) :
    Laws.Encoded.Statement (.ctrlClose world) :=
  Laws.Encoded.of_none rfl

theorem Laws.Encoded.claimUnit (world : Nat) :
    Laws.Encoded.Statement (.claimUnit world) :=
  Laws.Encoded.of_none rfl

theorem Laws.Encoded.claimFree (world : Nat) :
    Laws.Encoded.Statement (.claimFree world) :=
  Laws.Encoded.of_none rfl

theorem Laws.Encoded.priorityRise (launch : Nat) :
    Laws.Encoded.Statement (.priorityRise launch) :=
  Laws.Encoded.of_none rfl

theorem Laws.Encoded.dispatchUnit (die : Nat) :
    Laws.Encoded.Statement (.dispatchUnit die) :=
  Laws.Encoded.of_none rfl

theorem Laws.Encoded.starvationPreempt (world : Nat) :
    Laws.Encoded.Statement (.starvationPreempt world) :=
  Laws.Encoded.of_none rfl

theorem Laws.Encoded.localityScoreHalve (core : Nat) :
    Laws.Encoded.Statement (.localityScoreHalve core) :=
  Laws.Encoded.of_none rfl

theorem Laws.Encoded.throttleSwap (crew : Nat) :
    Laws.Encoded.Statement (.throttleSwap crew) :=
  Laws.Encoded.of_none rfl

theorem Laws.Encoded.invalidationRequest (world : Nat) :
    Laws.Encoded.Statement (.invalidationRequest world) :=
  Laws.Encoded.of_none rfl

theorem Laws.Encoded.invalidationComplete (world : Nat) :
    Laws.Encoded.Statement (.invalidationComplete world) :=
  Laws.Encoded.of_none rfl

theorem Laws.Encoded.fillDataReceive (service : Nat) (bytes : List Byte) (homeError : Bool) (dataver : Nat) :
    Laws.Encoded.Statement (.fillDataReceive service bytes homeError dataver) :=
  Laws.Encoded.of_none rfl

theorem Laws.Encoded.waiterRunWake (service : Nat) :
    Laws.Encoded.Statement (.waiterRunWake service) :=
  Laws.Encoded.of_none rfl

theorem Laws.Encoded.postFillHoldExpiry (service : Nat) :
    Laws.Encoded.Statement (.postFillHoldExpiry service) :=
  Laws.Encoded.of_none rfl

theorem Laws.Encoded.evictionComplete (frame : Nat) :
    Laws.Encoded.Statement (.evictionComplete frame) :=
  Laws.Encoded.of_none rfl

theorem Laws.Encoded.uncorrectableMemoryError (pa : Nat) (granules : Nat) :
    Laws.Encoded.Statement (.uncorrectableMemoryError pa granules) :=
  Laws.Encoded.of_none rfl

theorem Laws.Encoded.homeRds (line : Nat) (agent : Nat) :
    Laws.Encoded.Statement (.homeRds line agent) :=
  Laws.Encoded.of_none rfl

theorem Laws.Encoded.homeRdx (line : Nat) (agent : Nat) :
    Laws.Encoded.Statement (.homeRdx line agent) :=
  Laws.Encoded.of_none rfl

theorem Laws.Encoded.homeUpg (line : Nat) (agent : Nat) :
    Laws.Encoded.Statement (.homeUpg line agent) :=
  Laws.Encoded.of_none rfl

theorem Laws.Encoded.homeWb (line : Nat) (agent : Nat) :
    Laws.Encoded.Statement (.homeWb line agent) :=
  Laws.Encoded.of_none rfl

theorem Laws.Encoded.homeEve (line : Nat) (agent : Nat) :
    Laws.Encoded.Statement (.homeEve line agent) :=
  Laws.Encoded.of_none rfl

theorem Laws.Encoded.homeAckReceive (line : Nat) (agent : Nat) :
    Laws.Encoded.Statement (.homeAckReceive line agent) :=
  Laws.Encoded.of_none rfl

theorem Laws.Encoded.homeMemoryWriteDone (line : Nat) :
    Laws.Encoded.Statement (.homeMemoryWriteDone line) :=
  Laws.Encoded.of_none rfl

theorem Laws.Encoded.agentFwds (line : Nat) (agent : Nat) :
    Laws.Encoded.Statement (.agentFwds line agent) :=
  Laws.Encoded.of_none rfl

theorem Laws.Encoded.agentFwdx (line : Nat) (agent : Nat) :
    Laws.Encoded.Statement (.agentFwdx line agent) :=
  Laws.Encoded.of_none rfl

theorem Laws.Encoded.agentInv (line : Nat) (agent : Nat) :
    Laws.Encoded.Statement (.agentInv line agent) :=
  Laws.Encoded.of_none rfl

theorem Laws.Encoded.agentDataReceive (line : Nat) (agent : Nat) :
    Laws.Encoded.Statement (.agentDataReceive line agent) :=
  Laws.Encoded.of_none rfl

theorem Laws.Encoded.agentGrantReceive (line : Nat) (agent : Nat) :
    Laws.Encoded.Statement (.agentGrantReceive line agent) :=
  Laws.Encoded.of_none rfl

theorem Laws.Encoded.agentWbackReceive (line : Nat) (agent : Nat) :
    Laws.Encoded.Statement (.agentWbackReceive line agent) :=
  Laws.Encoded.of_none rfl

theorem Laws.Encoded.agentWbstaleReceive (line : Nat) (agent : Nat) :
    Laws.Encoded.Statement (.agentWbstaleReceive line agent) :=
  Laws.Encoded.of_none rfl

theorem Laws.Encoded.agentLineDrop (line : Nat) (agent : Nat) :
    Laws.Encoded.Statement (.agentLineDrop line agent) :=
  Laws.Encoded.of_none rfl

theorem Laws.Encoded.shardGets (job : Nat) (page : Nat) (rank : Nat) :
    Laws.Encoded.Statement (.shardGets job page rank) :=
  Laws.Encoded.of_none rfl

theorem Laws.Encoded.shardGetx (job : Nat) (page : Nat) (rank : Nat) :
    Laws.Encoded.Statement (.shardGetx job page rank) :=
  Laws.Encoded.of_none rfl

theorem Laws.Encoded.shardWbrel (job : Nat) (page : Nat) (rank : Nat) (bytes : List Byte) :
    Laws.Encoded.Statement (.shardWbrel job page rank bytes) :=
  Laws.Encoded.of_none rfl

theorem Laws.Encoded.shardDrop (job : Nat) (page : Nat) (rank : Nat) :
    Laws.Encoded.Statement (.shardDrop job page rank) :=
  Laws.Encoded.of_none rfl

theorem Laws.Encoded.shardHomeAck (job : Nat) (page : Nat) (ok : Bool) :
    Laws.Encoded.Statement (.shardHomeAck job page ok) :=
  Laws.Encoded.of_none rfl

theorem Laws.Encoded.shardRecallAck (job : Nat) (page : Nat) (rank : Nat) :
    Laws.Encoded.Statement (.shardRecallAck job page rank) :=
  Laws.Encoded.of_none rfl

theorem Laws.Encoded.holderRecall (job : Nat) (page : Nat) :
    Laws.Encoded.Statement (.holderRecall job page) :=
  Laws.Encoded.of_none rfl

theorem Laws.Encoded.ownerXferS (job : Nat) (page : Nat) (dst : Nat) :
    Laws.Encoded.Statement (.ownerXferS job page dst) :=
  Laws.Encoded.of_none rfl

theorem Laws.Encoded.ownerXferX (job : Nat) (page : Nat) (dst : Nat) :
    Laws.Encoded.Statement (.ownerXferX job page dst) :=
  Laws.Encoded.of_none rfl

theorem Laws.Encoded.tenureEnd (job : Nat) (page : Nat) :
    Laws.Encoded.Statement (.tenureEnd job page) :=
  Laws.Encoded.of_none rfl

theorem Laws.Encoded.lookupAckReceive (service : Nat) (noHome : Bool) (storage : Bool) :
    Laws.Encoded.Statement (.lookupAckReceive service noHome storage) :=
  Laws.Encoded.of_none rfl

theorem Laws.Encoded.wbackReceive (job : Nat) (page : Nat) :
    Laws.Encoded.Statement (.wbackReceive job page) :=
  Laws.Encoded.of_none rfl

theorem Laws.Encoded.staleReceive (job : Nat) (page : Nat) :
    Laws.Encoded.Statement (.staleReceive job page) :=
  Laws.Encoded.of_none rfl

theorem Laws.Encoded.heldReceive (service : Nat) :
    Laws.Encoded.Statement (.heldReceive service) :=
  Laws.Encoded.of_none rfl

theorem Laws.Encoded.homeWriteTimeout (job : Nat) (page : Nat) :
    Laws.Encoded.Statement (.homeWriteTimeout job page) :=
  Laws.Encoded.of_none rfl

theorem Laws.Encoded.attemptTimeout (service : Nat) (pinned : Bool) :
    Laws.Encoded.Statement (.attemptTimeout service pinned) :=
  Laws.Encoded.of_none rfl

theorem Laws.Encoded.backoffExpiry (service : Nat) :
    Laws.Encoded.Statement (.backoffExpiry service) :=
  Laws.Encoded.of_none rfl

theorem Laws.Encoded.victimRetry (service : Nat) :
    Laws.Encoded.Statement (.victimRetry service) :=
  Laws.Encoded.of_none rfl

theorem Laws.Encoded.frameAging (touched : List Nat) :
    Laws.Encoded.Statement (.frameAging touched) :=
  Laws.Encoded.of_none rfl

theorem Laws.Encoded.installClean (world : Nat) :
    Laws.Encoded.Statement (.installClean world) :=
  Laws.Encoded.of_none rfl

theorem Laws.Encoded.installDirty (world : Nat) :
    Laws.Encoded.Statement (.installDirty world) :=
  Laws.Encoded.of_none rfl

theorem Laws.Encoded.retry (world : Nat) :
    Laws.Encoded.Statement (.retry world) :=
  Laws.Encoded.of_none rfl

theorem Laws.Encoded.kill (world : Nat) :
    Laws.Encoded.Statement (.kill world) :=
  Laws.Encoded.of_none rfl

theorem Laws.Encoded.pin (world : Nat) :
    Laws.Encoded.Statement (.pin world) :=
  Laws.Encoded.of_none rfl

theorem Laws.Encoded.unpin (world : Nat) :
    Laws.Encoded.Statement (.unpin world) :=
  Laws.Encoded.of_none rfl

theorem Laws.Encoded.dirset (world : Nat) :
    Laws.Encoded.Statement (.dirset world) :=
  Laws.Encoded.of_none rfl

theorem Laws.Encoded.roostT1Expiry (roost : Nat) :
    Laws.Encoded.Statement (.roostT1Expiry roost) :=
  Laws.Encoded.of_none rfl

theorem Laws.Encoded.roostT2Expiry (roost : Nat) :
    Laws.Encoded.Statement (.roostT2Expiry roost) :=
  Laws.Encoded.of_none rfl

theorem Laws.Encoded.pageDescentDone (roost : Nat) (page : Nat) (accepted : Bool) :
    Laws.Encoded.Statement (.pageDescentDone roost page accepted) :=
  Laws.Encoded.of_none rfl

theorem Laws.Encoded.pageAscentDone (roost : Nat) (page : Nat) :
    Laws.Encoded.Statement (.pageAscentDone roost page) :=
  Laws.Encoded.of_none rfl

theorem Laws.Encoded.checkpointSave : Laws.Encoded.Statement .checkpointSave :=
  Laws.Encoded.of_none rfl

theorem Laws.Encoded.checkpointRestore : Laws.Encoded.Statement .checkpointRestore :=
  Laws.Encoded.of_none rfl

theorem Laws.Encoded.checkpointAbort : Laws.Encoded.Statement .checkpointAbort :=
  Laws.Encoded.of_none rfl

theorem Laws.Encoded.checkpointDrainDone : Laws.Encoded.Statement .checkpointDrainDone :=
  Laws.Encoded.of_none rfl

theorem Laws.Encoded.checkpointSegmentDone (outcome : Nat) (bytes : List Byte) :
    Laws.Encoded.Statement (.checkpointSegmentDone outcome bytes) :=
  Laws.Encoded.of_none rfl

theorem Laws.Encoded.packetReceive (pkt : Packet) :
    Laws.Encoded.Statement (.packetReceive pkt) :=
  Laws.Encoded.of_none rfl

theorem Laws.Encoded.retransmitTimeout (peer : Nat) (seq : Nat) :
    Laws.Encoded.Statement (.retransmitTimeout peer seq) :=
  Laws.Encoded.of_none rfl

theorem Laws.Encoded.ackReceive (peer : Nat) (seq : Nat) (marked : Bool) :
    Laws.Encoded.Statement (.ackReceive peer seq marked) :=
  Laws.Encoded.of_none rfl

theorem Laws.Encoded.rateRiseTick (peer : Nat) :
    Laws.Encoded.Statement (.rateRiseTick peer) :=
  Laws.Encoded.of_none rfl

theorem Laws.Encoded.ptpSync (elapsed : Nat) (correction : Int) :
    Laws.Encoded.Statement (.ptpSync elapsed correction) :=
  Laws.Encoded.of_none rfl

theorem Laws.Encoded.dieFlitReceive (die : Nat) (world : Nat) (entry : Nat) (pa : Nat) (granules : Nat) :
    Laws.Encoded.Statement (.dieFlitReceive die world entry pa granules) :=
  Laws.Encoded.of_none rfl

theorem Laws.Encoded.linkUnitReceive (link : Nat) (tagOk : Bool) (entry : Nat) (pa : Nat) (granules : Nat) :
    Laws.Encoded.Statement (.linkUnitReceive link tagOk entry pa granules) :=
  Laws.Encoded.of_none rfl

theorem Laws.Encoded.linkUnitClose (link : Nat) :
    Laws.Encoded.Statement (.linkUnitClose link) :=
  Laws.Encoded.of_none rfl

theorem Laws.Encoded.linkKeyRenew (link : Nat) :
    Laws.Encoded.Statement (.linkKeyRenew link) :=
  Laws.Encoded.of_none rfl

theorem Laws.Encoded.firmwareActivation (component : Nat) (target : Nat) (svn : Nat) (ecdsaOk : Bool) (hssOk : Bool) (digest : Nat) (live : Bool) :
    Laws.Encoded.Statement (.firmwareActivation component target svn ecdsaOk hssOk digest live) :=
  Laws.Encoded.of_none rfl

theorem Laws.Encoded.getVersion (version : Nat) :
    Laws.Encoded.Statement (.getVersion version) :=
  Laws.Encoded.of_none rfl

theorem Laws.Encoded.getCapabilities (version : Nat) :
    Laws.Encoded.Statement (.getCapabilities version) :=
  Laws.Encoded.of_none rfl

theorem Laws.Encoded.negotiateAlgorithms (version : Nat) (supported : Bool) :
    Laws.Encoded.Statement (.negotiateAlgorithms version supported) :=
  Laws.Encoded.of_none rfl

theorem Laws.Encoded.getDigests (version : Nat) :
    Laws.Encoded.Statement (.getDigests version) :=
  Laws.Encoded.of_none rfl

theorem Laws.Encoded.getCertificate (version : Nat) (slot : Nat) :
    Laws.Encoded.Statement (.getCertificate version slot) :=
  Laws.Encoded.of_none rfl

theorem Laws.Encoded.challenge (version : Nat) (slot : Nat) (nonce : Nat) :
    Laws.Encoded.Statement (.challenge version slot nonce) :=
  Laws.Encoded.of_none rfl

theorem Laws.Encoded.getMeasurements (version : Nat) (index : Nat) (signed : Bool) (nonce : Nat) :
    Laws.Encoded.Statement (.getMeasurements version index signed nonce) :=
  Laws.Encoded.of_none rfl

theorem Laws.Encoded.keyExchange (version : Nat) (slot : Nat) :
    Laws.Encoded.Statement (.keyExchange version slot) :=
  Laws.Encoded.of_none rfl

theorem Laws.Encoded.finish (version : Nat) (session : Nat) (verified : Bool) :
    Laws.Encoded.Statement (.finish version session verified) :=
  Laws.Encoded.of_none rfl

theorem Laws.Encoded.heartbeat (version : Nat) (session : Nat) :
    Laws.Encoded.Statement (.heartbeat version session) :=
  Laws.Encoded.of_none rfl

theorem Laws.Encoded.keyUpdate (version : Nat) (session : Nat) :
    Laws.Encoded.Statement (.keyUpdate version session) :=
  Laws.Encoded.of_none rfl

theorem Laws.Encoded.endSession (version : Nat) (session : Nat) :
    Laws.Encoded.Statement (.endSession version session) :=
  Laws.Encoded.of_none rfl

theorem Laws.Encoded.spdmUnsupportedRequest (version : Nat) (code : Nat) :
    Laws.Encoded.Statement (.spdmUnsupportedRequest version code) :=
  Laws.Encoded.of_none rfl

theorem Laws.Encoded.leaseAttestation (world : Nat) (swid : Nat) (outcome : Attest) (now : Nat) :
    Laws.Encoded.Statement (.leaseAttestation world swid outcome now) :=
  Laws.Encoded.of_none rfl

theorem Laws.Encoded.leaseRenewalDue (world : Nat) (swid : Nat) :
    Laws.Encoded.Statement (.leaseRenewalDue world swid) :=
  Laws.Encoded.of_none rfl

theorem Laws.Encoded.leaseBusyRetry (world : Nat) (swid : Nat) :
    Laws.Encoded.Statement (.leaseBusyRetry world swid) :=
  Laws.Encoded.of_none rfl

theorem Laws.Encoded.leaseExpiry (world : Nat) (swid : Nat) :
    Laws.Encoded.Statement (.leaseExpiry world swid) :=
  Laws.Encoded.of_none rfl

theorem Laws.Encoded.leaseKeyGraceEnd (world : Nat) (swid : Nat) :
    Laws.Encoded.Statement (.leaseKeyGraceEnd world swid) :=
  Laws.Encoded.of_none rfl

theorem Laws.Encoded.leaseChangeReceive (world : Nat) (swid : Nat) (state : Nat) (reason : Nat) (leaseNo : Nat) (expiry : Nat) (authNow : Nat) :
    Laws.Encoded.Statement (.leaseChangeReceive world swid state reason leaseNo expiry authNow) :=
  Laws.Encoded.of_none rfl

theorem Laws.Encoded.sessionKeyDistribution (job : Nat) (rank : Nat) (attested : Bool) :
    Laws.Encoded.Statement (.sessionKeyDistribution job rank attested) :=
  Laws.Encoded.of_none rfl

theorem Laws.Encoded.epochAdvance (job : Nat) :
    Laws.Encoded.Statement (.epochAdvance job) :=
  Laws.Encoded.of_none rfl

theorem Laws.Encoded.epochOverlapEnd (job : Nat) :
    Laws.Encoded.Statement (.epochOverlapEnd job) :=
  Laws.Encoded.of_none rfl

theorem Laws.Encoded.worldLatch (die : Nat) (world : Nat) :
    Laws.Encoded.Statement (.worldLatch die world) :=
  Laws.Encoded.of_none rfl

theorem Laws.Encoded.worldCreate (world : Nat) (job : Nat) (rank : Nat) (authRank : Nat) (regions : List Nat) (simagePa : Nat) (simageLen : Nat) :
    Laws.Encoded.Statement (.worldCreate world job rank authRank regions simagePa simageLen) :=
  Laws.Encoded.of_none rfl

theorem Laws.Encoded.worldTeardown (world : Nat) :
    Laws.Encoded.Statement (.worldTeardown world) :=
  Laws.Encoded.of_none rfl

theorem Laws.Encoded.ringDoorbell (world : Nat) (ring : Nat) (tail : Word) :
    Laws.Encoded.Statement (.ringDoorbell world ring tail) :=
  Laws.Encoded.of_none rfl

theorem Laws.Encoded.rcmdEnable (world : Nat) (ring : Nat) :
    Laws.Encoded.Statement (.rcmdEnable world ring) :=
  Laws.Encoded.of_none rfl

theorem Laws.Encoded.rcmdResume (world : Nat) (ring : Nat) :
    Laws.Encoded.Statement (.rcmdResume world ring) :=
  Laws.Encoded.of_none rfl

theorem Laws.Encoded.rcmdDisable (world : Nat) (ring : Nat) :
    Laws.Encoded.Statement (.rcmdDisable world ring) :=
  Laws.Encoded.of_none rfl

theorem Laws.Encoded.ringRekey (world : Nat) (ring : Nat) :
    Laws.Encoded.Statement (.ringRekey world ring) :=
  Laws.Encoded.of_none rfl

theorem Laws.Encoded.sampleTick (qtr : Nat) (crew : Nat) :
    Laws.Encoded.Statement (.sampleTick qtr crew) :=
  Laws.Encoded.of_none rfl

theorem Laws.Encoded.dcmdHalt (world : Nat) :
    Laws.Encoded.Statement (.dcmdHalt world) :=
  Laws.Encoded.of_none rfl

theorem Laws.Encoded.dcmdResume (world : Nat) :
    Laws.Encoded.Statement (.dcmdResume world) :=
  Laws.Encoded.of_none rfl

theorem Laws.Encoded.dcmdStep (world : Nat) :
    Laws.Encoded.Statement (.dcmdStep world) :=
  Laws.Encoded.of_none rfl

theorem Laws.Encoded.prefetchTick (world : Nat) (stream : Nat) :
    Laws.Encoded.Statement (.prefetchTick world stream) :=
  Laws.Encoded.of_none rfl

theorem Laws.Encoded.powerOn (failed : Nat) (fcframes : Nat) (fcbase : Nat) (wayl : Nat) (dies : List Nat) (worlds : List WorldSpec) (cxl : List Bool) :
    Laws.Encoded.Statement (.powerOn failed fcframes fcbase wayl dies worlds cxl) :=
  Laws.Encoded.of_none rfl

theorem Laws.Encoded.powerStateChange (pstate : Nat) :
    Laws.Encoded.Statement (.powerStateChange pstate) :=
  Laws.Encoded.of_none rfl

theorem Laws.Encoded.thermalThreshold (reading : Nat × Nat) :
    Laws.Encoded.Statement (.thermalThreshold reading) :=
  Laws.Encoded.of_none rfl

theorem Laws.Encoded.registerWrite (page : PageRef) (off : Nat) (value : Word) (fromM : Bool) :
    Laws.Encoded.Statement (.registerWrite page off value fromM) :=
  Laws.Encoded.of_none rfl

theorem Laws.Encoded.portDown (port : Nat) :
    Laws.Encoded.Statement (.portDown port) :=
  Laws.Encoded.of_none rfl

theorem Laws.Encoded.portUp (port : Nat) :
    Laws.Encoded.Statement (.portUp port) :=
  Laws.Encoded.of_none rfl

theorem Laws.Encoded.ptpLockLoss : Laws.Encoded.Statement .ptpLockLoss :=
  Laws.Encoded.of_none rfl

theorem Laws.Encoded.deviceReset : Laws.Encoded.Statement .deviceReset :=
  Laws.Encoded.of_none rfl

theorem Laws.Encoded.powerLoss : Laws.Encoded.Statement .powerLoss :=
  Laws.Encoded.of_none rfl

theorem Laws.Encoded.jobOpen (world : Nat) :
    Laws.Encoded.Statement (.jobOpen world) :=
  Laws.Encoded.of_none rfl

theorem Laws.Encoded.grantReceive (service : Nat) (dataver : Nat) :
    Laws.Encoded.Statement (.grantReceive service dataver) :=
  Laws.Encoded.of_none rfl

theorem Laws.Encoded.liveActivationEnd (component : Nat) (digest : Nat) :
    Laws.Encoded.Statement (.liveActivationEnd component digest) :=
  Laws.Encoded.of_none rfl

end Sys2Proof
end

