-- ==== Sys2Proof/Tests/Slice0.lean ====
section
/-! SUPPORT. Small checks: words written out from their encodings, ill-formed terms refused, and for every statement with
hypotheses a state and operands that meet them. -/

-- The theorems are elaborated one after another: each is small, and the checker counts threads.
set_option Elab.async false

open Sys2Proof Sys2Proof.Machine

namespace Sys2Proof.Tests

/-! ## A small machine -/

/-- A page-table entry for VA 0x20000 to 0x2FFFF at the same PA, coherent, readable, writable. -/
def leaf2 : BitVec 128 := BitVec.ofNat 128 (0x20000 * 2 ^ 64 + 0x6B)

/-- Four tables that hold it, the root at 0x3F0000. -/
def tables : Memory := [(0x3F0000, 1), (0x3F0009, 0x40), (0x3F000A, 0x3F), (0x3F4000, 1), (0x3F4009, 0x80), (0x3F400A, 0x3F),
  (0x3F8000, 1), (0x3F8009, 0xC0), (0x3F800A, 0x3F), (0x3FC020, 0x6B), (0x3FC02A, 2)]

/-- A world of job 7 with these tables, whose first core has the entry in its translation buffer. -/
def world1 : World := { World.init 1 with
  job := 7
  regions := [0]
  trans := { TransPage.init with root := 0x3F0000 }
  coreTlb := [(0, [(0x20000, 0, leaf2)])] }

/-- Lane 0, in issue set 0: x2 and x3 hold the address of the last 16 bytes of that page, x4 the last 16 bytes of a 16 KiB
scratchpad, x5 zero, x6 one. -/
def lane0 : Thread := { Thread.init 0 0x100 with
  regs := [(2, 0x2FFF0), (3, 0), (4, 0x3FF0), (5, 0), (6, 1), (7, 0x3F800000)] }

/-- Lane 127, in issue set 3. -/
def lane127 : Thread := Thread.init 127 0x200

def unit1 : BUnit := { probeUnit with alloc := 0x4000 }

def crew2 : Crew := { Crew.init 2 with
  unit := 1
  launch := 1
  world := 1
  nregs := 64
  nuregs := 32
  win := 2 ^ 48
  priv := 64
  sregs := [(2, 0x2FFF0), (3, 0)]
  threads := [lane0, lane127] }

def launch1 : Launch := { Launch.init 1 1 0 probeDesc with state := .running }

/-- The set of lane 0 issues. -/
def one : State := { State.reset with
  mem := tables
  crews := [crew2]
  units := [unit1]
  launches := [launch1]
  worlds := [world1]
  quarters := [(0, { Quarter.init with bound := some 1 })]
  iss := ⟨2, 0, none⟩
  nextId := 9 }

/-! ## Decoding -/

/-- Formats RRR and EC (R144): FN [24:21], D [20:14], A [13:7], B [6:0] under the major [30:25], with S = 1. -/
def rrr (major fn d a b : Nat) : Word := BitVec.ofNat 32 (2 ^ 31 + major * 2 ^ 25 + fn * 2 ^ 21 + d * 2 ^ 14 + a * 2 ^ 7 + b)

/-- Format RI: D [24:18], A [17:11], IMM [10:0]. -/
def ri (major d a imm : Nat) : Word := BitVec.ofNat 32 (2 ^ 31 + major * 2 ^ 25 + d * 2 ^ 18 + a * 2 ^ 11 + imm)

/-- Format LI: D [24:18], IMM [17:0]. -/
def li (major d imm : Nat) : Word := BitVec.ofNat 32 (2 ^ 31 + major * 2 ^ 25 + d * 2 ^ 18 + imm)

/-- Format MEM: D [24:18], A [17:11], SW [10:8], OFF [7:0]. -/
def mm (major d a sw off : Nat) : Word := BitVec.ofNat 32 (2 ^ 31 + major * 2 ^ 25 + d * 2 ^ 18 + a * 2 ^ 11 + sw * 2 ^ 8 + off)

/-- Format BR: COND [24:21], OFF [20:0]. -/
def br (major cond off : Nat) : Word := BitVec.ofNat 32 (2 ^ 31 + major * 2 ^ 25 + cond * 2 ^ 21 + off)

/-- Each word decodes to its instruction. -/
def Decodes (l : List (Word × Instr)) : Prop := l.map (fun p => decodeWord p.1) = l.map fun p => .ok p.2


/-- R156: major 0x1. -/
theorem test_decode_set_i : Decodes [
    (rrr 1 0 1 2 127, .add true 1 2 127), (rrr 1 1 1 2 127, .sub true 1 2 127), (rrr 1 2 1 2 127, .mul true 1 2 127),
    (rrr 1 3 1 2 127, .mulhiSi32 true 1 2 127), (rrr 1 4 1 2 127, .mulhiUi32 true 1 2 127),
    (rrr 1 5 1 2 127, .and true 1 2 127), (rrr 1 6 1 2 127, .or true 1 2 127), (rrr 1 7 1 2 127, .xor true 1 2 127),
    (rrr 1 8 1 2 127, .shl true 1 2 127), (rrr 1 9 1 2 127, .shr true 1 2 127), (rrr 1 10 1 2 127, .sar true 1 2 127),
    (rrr 1 11 1 2 127, .minSi32 true 1 2 127), (rrr 1 12 1 2 127, .maxSi32 true 1 2 127),
    (rrr 1 13 1 2 127, .minUi32 true 1 2 127), (rrr 1 14 1 2 127, .maxUi32 true 1 2 127),
    (rrr 1 15 1 2 127, .addsSi32 true 1 2 127)] := by
  rfl

/-- R156: major 0x2. -/
theorem test_decode_set_i_paired : Decodes [
    (rrr 2 0 1 2 127, .addPaired true 1 2 127), (rrr 2 1 1 2 127, .subPaired true 1 2 127),
    (rrr 2 2 1 2 127, .mulPaired true 1 2 127), (rrr 2 3 1 2 127, .mulhiSi32Paired true 1 2 127),
    (rrr 2 4 1 2 127, .mulhiUi32Paired true 1 2 127), (rrr 2 5 1 2 127, .andPaired true 1 2 127),
    (rrr 2 6 1 2 127, .orPaired true 1 2 127), (rrr 2 7 1 2 127, .xorPaired true 1 2 127),
    (rrr 2 8 1 2 127, .shlPaired true 1 2 127), (rrr 2 9 1 2 127, .shrPaired true 1 2 127),
    (rrr 2 10 1 2 127, .sarPaired true 1 2 127), (rrr 2 11 1 2 127, .minSi32Paired true 1 2 127),
    (rrr 2 12 1 2 127, .maxSi32Paired true 1 2 127), (rrr 2 13 1 2 127, .minUi32Paired true 1 2 127),
    (rrr 2 14 1 2 127, .maxUi32Paired true 1 2 127), (rrr 2 15 1 2 127, .addsSi32Paired true 1 2 127)] := by
  rfl

/-- R156: major 0x9. -/
theorem test_decode_set_i_uniform : Decodes [
    (rrr 9 0 1 2 127, .addUniform true 1 2 127), (rrr 9 1 1 2 127, .subUniform true 1 2 127),
    (rrr 9 2 1 2 127, .mulUniform true 1 2 127), (rrr 9 3 1 2 127, .mulhiSi32Uniform true 1 2 127),
    (rrr 9 4 1 2 127, .mulhiUi32Uniform true 1 2 127), (rrr 9 5 1 2 127, .andUniform true 1 2 127),
    (rrr 9 6 1 2 127, .orUniform true 1 2 127), (rrr 9 7 1 2 127, .xorUniform true 1 2 127),
    (rrr 9 8 1 2 127, .shlUniform true 1 2 127), (rrr 9 9 1 2 127, .shrUniform true 1 2 127),
    (rrr 9 10 1 2 127, .sarUniform true 1 2 127), (rrr 9 11 1 2 127, .minSi32Uniform true 1 2 127),
    (rrr 9 12 1 2 127, .maxSi32Uniform true 1 2 127), (rrr 9 13 1 2 127, .minUi32Uniform true 1 2 127),
    (rrr 9 14 1 2 127, .maxUi32Uniform true 1 2 127), (rrr 9 15 1 2 127, .addsSi32Uniform true 1 2 127)] := by
  rfl

/-- R156: majors 0x06 and 0x0D. -/
theorem test_decode_compares : Decodes [
    (rrr 6 0 1 2 127, .cmpEq true 1 2 127), (rrr 6 1 1 2 127, .cmpNe true 1 2 127), (rrr 6 2 1 2 127, .cmpLtSi32 true 1 2 127),
    (rrr 6 3 1 2 127, .cmpLeSi32 true 1 2 127), (rrr 6 4 1 2 127, .cmpGtSi32 true 1 2 127),
    (rrr 6 5 1 2 127, .cmpGeSi32 true 1 2 127), (rrr 6 6 1 2 127, .cmpLtUi32 true 1 2 127),
    (rrr 6 7 1 2 127, .cmpLeUi32 true 1 2 127), (rrr 6 8 1 2 127, .cmpGtUi32 true 1 2 127),
    (rrr 6 9 1 2 127, .cmpGeUi32 true 1 2 127), (rrr 13 0 7 2 127, .ucmpEq true 7 2 127),
    (rrr 13 1 7 2 127, .ucmpNe true 7 2 127), (rrr 13 2 7 2 127, .ucmpLtSi32 true 7 2 127),
    (rrr 13 3 7 2 127, .ucmpLeSi32 true 7 2 127), (rrr 13 4 7 2 127, .ucmpGtSi32 true 7 2 127),
    (rrr 13 5 7 2 127, .ucmpGeSi32 true 7 2 127), (rrr 13 6 7 2 127, .ucmpLtUi32 true 7 2 127),
    (rrr 13 7 7 2 127, .ucmpLeUi32 true 7 2 127), (rrr 13 8 7 2 127, .ucmpGtUi32 true 7 2 127),
    (rrr 13 9 7 2 127, .ucmpGeUi32 true 7 2 127)] := by
  rfl

/-- R156: majors 0x03 to 0x05, 0x07, 0x08, 0x0A to 0x0C, 0x2C and 0x2D. -/
theorem test_decode_registers : Decodes [
    (ri 3 1 2 2047, .addi true 1 2 2047), (li 4 1 262143, .movl true 1 262143), (li 5 1 16383, .movh true 1 16383),
    (ri 8 1 2 1024, .addai true 1 2 1024), (ri 10 1 2 1, .uaddi true 1 2 1), (li 11 1 5, .umovl true 1 5),
    (li 12 127 5, .umovh true 127 5), (rrr 7 0 1 2 0, .mov true 1 2), (rrr 7 1 1 2 0, .not true 1 2),
    (rrr 7 2 1 2 0, .neg true 1 2), (rrr 7 3 1 2 0, .absSi32 true 1 2), (rrr 7 4 1 2 0, .popc true 1 2),
    (rrr 7 5 1 2 0, .clz true 1 2), (rrr 7 6 1 2 0, .brev true 1 2), (rrr 7 7 1 2 3, .mad true 1 2 3),
    (rrr 7 8 1 2 0, .sxb true 1 2), (rrr 7 9 1 2 0, .sxh true 1 2), (rrr 7 10 1 2 3, .adda true 1 2 3),
    (ri 44 1 2 2047, .capr true 1 2 2047), (rrr 45 0 9 0 1, .srd true 9 1), (rrr 45 1 9 0 1, .srdUniform true 9 1),
    (rrr 45 2 0 9 0x0E, .swr true 9)] := by
  rfl

/-- R156, R158: majors 0x10 to 0x15. -/
theorem test_decode_floats : Decodes [
    (rrr 16 0 1 2 3, .fadd true 1 2 3), (rrr 16 1 1 2 3, .fsub true 1 2 3), (rrr 16 2 1 2 3, .fmul true 1 2 3),
    (rrr 16 3 1 2 3, .ffma true 1 2 3), (rrr 16 4 1 2 3, .fmin true 1 2 3), (rrr 16 5 1 2 3, .fmax true 1 2 3),
    (rrr 16 6 1 2 3, .fdiv true 1 2 3), (rrr 16 7 1 2 0, .fsqrt true 1 2), (rrr 16 8 1 2 0, .fabs true 1 2),
    (rrr 16 9 1 2 0, .fneg true 1 2), (rrr 17 0 1 2 3, .faddPaired true 1 2 3), (rrr 17 1 1 2 3, .fsubPaired true 1 2 3),
    (rrr 17 2 1 2 3, .fmulPaired true 1 2 3), (rrr 17 3 1 2 3, .ffmaPaired true 1 2 3),
    (rrr 17 4 1 2 3, .fminPaired true 1 2 3), (rrr 17 5 1 2 3, .fmaxPaired true 1 2 3),
    (rrr 17 6 1 2 3, .fdivPaired true 1 2 3), (rrr 18 0 5 2 3, .fcmpEq true 5 2 3), (rrr 18 1 5 2 3, .fcmpNe true 5 2 3),
    (rrr 18 2 5 2 3, .fcmpLt true 5 2 3), (rrr 18 3 5 2 3, .fcmpLe true 5 2 3), (rrr 18 4 5 2 3, .fcmpGt true 5 2 3),
    (rrr 18 5 5 2 3, .fcmpGe true 5 2 3), (rrr 19 0 1 2 3, .haddF16 true 1 2 3), (rrr 19 1 1 2 3, .hsubF16 true 1 2 3),
    (rrr 19 2 1 2 3, .hmulF16 true 1 2 3), (rrr 19 3 1 2 3, .hfmaF16 true 1 2 3), (rrr 19 4 1 2 3, .hminF16 true 1 2 3),
    (rrr 19 5 1 2 3, .hmaxF16 true 1 2 3), (rrr 19 8 1 2 3, .haddBf16 true 1 2 3), (rrr 19 9 1 2 3, .hsubBf16 true 1 2 3),
    (rrr 19 10 1 2 3, .hmulBf16 true 1 2 3), (rrr 19 11 1 2 3, .hfmaBf16 true 1 2 3), (rrr 19 12 1 2 3, .hminBf16 true 1 2 3),
    (rrr 19 13 1 2 3, .hmaxBf16 true 1 2 3), (rrr 20 0 1 2 (1 * 8 + 4 + 3), .cvt true 0 1 2 1 true 3),
    (rrr 20 14 1 2 (0 * 8 + 0 + 1), .cvt true 14 1 2 0 false 1), (rrr 21 0 1 2 0, .recip true 1 2),
    (rrr 21 1 1 2 0, .rsqrt true 1 2), (rrr 21 2 1 2 0, .exp2 true 1 2), (rrr 21 3 1 2 0, .log2 true 1 2),
    (rrr 21 4 1 2 0, .sin true 1 2), (rrr 21 5 1 2 0, .cos true 1 2), (rrr 21 6 1 2 0, .tanh true 1 2),
    (rrr 21 7 1 2 0, .sigm true 1 2)] := by
  rfl

/-- R156, R188 to R191: majors 0x16 to 0x1B. -/
theorem test_decode_dots_and_lanes : Decodes [
    (rrr 22 0 1 2 3, .dp4Si8 true 1 2 3), (rrr 22 1 1 2 3, .dp4Si8ui8 true 1 2 3), (rrr 22 2 1 2 3, .dp8Si4 true 1 2 3),
    (rrr 22 3 1 2 3, .dp8Si4ui4 true 1 2 3), (rrr 22 4 1 2 3, .dp4F8a true 1 2 3), (rrr 22 5 1 2 3, .dp4F8b true 1 2 3),
    (rrr 22 6 1 2 3, .dp8F4 true 1 2 3), (rrr 22 7 1 2 3, .dp2Bf16 true 1 2 3), (rrr 22 8 1 2 3, .dp2F16 true 1 2 3),
    (rrr 23 3 1 2 3, .dp4F8aSc true 3 1 2 3), (rrr 23 (4 + 1) 1 2 3, .dp4F8bSc true 1 1 2 3),
    (rrr 23 (8 + 2) 1 2 3, .dp8F4Sc true 2 1 2 3), (rrr 24 0 1 2 3, .shflIdx true 1 2 3),
    (rrr 24 1 1 2 7, .shflUpW true 1 2 7), (rrr 24 2 1 2 1, .shflDownW true 1 2 1), (rrr 24 3 1 2 1, .shflXorW true 1 2 1),
    (rrr 24 4 1 2 127, .shflUp true 1 2 127), (rrr 24 5 1 2 1, .shflDown true 1 2 1), (rrr 24 6 1 2 64, .shflXor true 1 2 64),
    (rrr 25 0 1 2 5, .lredAddSi32 true 1 2 5), (rrr 25 1 1 2 5, .lredAddF32 true 1 2 5),
    (rrr 25 2 1 2 5, .lredMinSi32 true 1 2 5), (rrr 25 3 1 2 5, .lredMaxSi32 true 1 2 5),
    (rrr 25 4 1 2 5, .lredMinF32 true 1 2 5), (rrr 25 5 1 2 5, .lredMaxF32 true 1 2 5), (rrr 25 6 1 2 5, .lredAnd true 1 2 5),
    (rrr 25 7 1 2 5, .lredOr true 1 2 5), (rrr 25 8 1 2 5, .lredXor true 1 2 5), (rrr 26 0 1 9 0, .voteEvery true 1 9),
    (rrr 26 1 1 9 0, .voteSome true 1 9), (rrr 26 2 1 9 0, .voteSame true 1 9), (rrr 26 3 8 1 0, .voteMask true 8 1),
    (rrr 27 0 1 9 2, .pand true 1 9 2), (rrr 27 1 1 9 2, .por true 1 9 2), (rrr 27 2 1 9 2, .pxor true 1 9 2),
    (rrr 27 8 1 9 2, .qand true 1 9 2), (rrr 27 9 1 9 2, .qor true 1 9 2), (rrr 27 10 1 9 2, .qxor true 1 9 2),
    (rrr 27 3 1 15 0, .pmov true 1 15), (rrr 27 11 1 15 0, .qmov true 1 15), (rrr 27 4 1 0 0, .p2r true 1),
    (rrr 27 5 0 2 0, .regToPred true 2)] := by
  rfl

/-- R145, R149, R156: majors 0x1C to 0x1F and 0x3E, of which the prefix has S = 0. -/
theorem test_decode_control : Decodes [
    (br 28 8 2097151, .bra true true 0 2097151), (br 29 3 1, .ubra true false 3 1), (br 30 7 8, .call true false 7 8),
    (rrr 31 0 0 1 0, .jr true 1), (rrr 31 1 0 1 0, .callr true 1), (rrr 31 2 0 0 0, .reform true),
    (rrr 31 3 0 0 0, .exit true), (rrr 31 4 0 0 127, .brk true 127), (rrr 31 5 0 0 0, .nop true),
    (rrr 31 6 0 0 15, .winb true 15), (rrr 31 7 0 0 7, .uwinb true 7), (rrr 31 8 0 0 0, .tokp true),
    (rrr 31 9 3 0 0, .rnd true 3), (rrr 31 10 0 0 127, .sysc true 127), (rrr 31 11 0 0 0, .tret true),
    (br 62 13 0 - 0x80000000, .guardPrefix true 5)] := by
  rfl

/-- R157: majors 0x20 to 0x2A. -/
theorem test_decode_memory : Decodes [
    (mm 32 1 2 0 255, .ldB true 1 2 255), (mm 32 1 2 1 255, .ldSb true 1 2 255), (mm 32 1 2 2 255, .ldH true 1 2 255),
    (mm 32 1 2 3 255, .ldSh true 1 2 255), (mm 32 1 2 4 255, .ldW true 1 2 255), (mm 32 1 2 5 255, .ldD true 1 2 255),
    (mm 32 1 2 6 255, .ldQ true 1 2 255), (mm 33 1 2 0 255, .stB true 1 2 255), (mm 33 1 2 2 255, .stH true 1 2 255),
    (mm 33 1 2 4 255, .stW true 1 2 255), (mm 33 1 2 5 255, .stD true 1 2 255), (mm 33 1 2 6 255, .stQ true 1 2 255),
    (mm 34 1 2 4 1, .lduW true 1 2 1), (mm 34 1 2 5 1, .lduD true 1 2 1), (mm 35 1 2 7 255, .ldsW true 1 2 7 255),
    (mm 36 1 2 7 255, .ldsD true 1 2 7 255), (mm 37 1 2 7 255, .ldsQ true 1 2 7 255), (mm 38 1 2 7 255, .stsW true 1 2 7 255),
    (mm 39 1 2 7 255, .stsD true 1 2 7 255), (mm 40 1 2 7 255, .stsQ true 1 2 7 255), (mm 41 1 2 0 255, .ldpB true 1 2 255),
    (mm 41 1 2 1 255, .ldpSb true 1 2 255), (mm 41 1 2 2 255, .ldpH true 1 2 255), (mm 41 1 2 3 255, .ldpSh true 1 2 255),
    (mm 41 1 2 4 255, .ldpW true 1 2 255), (mm 41 1 2 5 255, .ldpD true 1 2 255), (mm 41 1 2 6 255, .ldpQ true 1 2 255),
    (mm 42 1 2 0 255, .stpB true 1 2 255), (mm 42 1 2 2 255, .stpH true 1 2 255), (mm 42 1 2 4 255, .stpW true 1 2 255),
    (mm 42 1 2 5 255, .stpD true 1 2 255), (mm 42 1 2 6 255, .stpQ true 1 2 255)] := by
  rfl

/-- R159, R160: majors 0x2B, 0x2E and 0x2F; the order field is scope, semantics, space. -/
theorem test_decode_sync : Decodes [
    (rrr 43 0 1 2 (4 * 16 + 3 * 4 + 1), .atomAddSi32 true 1 2 0x4D),
    (rrr 43 1 1 2 (4 * 16 + 3 * 4 + 1), .atomAddF32 true 1 2 0x4D),
    (rrr 43 2 1 2 (4 * 16 + 3 * 4 + 1), .atomMinSi32 true 1 2 0x4D),
    (rrr 43 3 1 2 (4 * 16 + 3 * 4 + 1), .atomMaxSi32 true 1 2 0x4D),
    (rrr 43 4 1 2 (4 * 16 + 3 * 4 + 1), .atomMinUi32 true 1 2 0x4D),
    (rrr 43 5 1 2 (4 * 16 + 3 * 4 + 1), .atomMaxUi32 true 1 2 0x4D),
    (rrr 43 6 1 2 (4 * 16 + 3 * 4 + 1), .atomAnd true 1 2 0x4D), (rrr 43 7 1 2 (4 * 16 + 3 * 4 + 1), .atomOr true 1 2 0x4D),
    (rrr 43 8 1 2 (4 * 16 + 3 * 4 + 1), .atomXor true 1 2 0x4D),
    (rrr 43 9 1 2 (4 * 16 + 3 * 4 + 1), .atomExchB32 true 1 2 0x4D),
    (rrr 43 10 1 2 (4 * 16 + 3 * 4 + 1), .atomCasB32 true 1 2 0x4D),
    (rrr 43 11 1 2 (4 * 16 + 3 * 4 + 1), .atomAddUi64 true 1 2 0x4D),
    (rrr 43 12 1 2 (4 * 16 + 3 * 4 + 1), .atomExchB64 true 1 2 0x4D),
    (rrr 43 13 1 2 (4 * 16 + 3 * 4 + 1), .atomCasB64 true 1 2 0x4D), (rrr 43 14 1 2 4, .atomLdx true 1 2 4),
    (rrr 43 15 1 2 8, .atomStx true 1 2 8), (rrr 46 0 1 2 (3 * 16 + 2 * 4), .mredAddSi32 true 1 2 0x38),
    (rrr 46 1 1 2 (3 * 16 + 2 * 4), .mredAddF32 true 1 2 0x38), (rrr 46 2 1 2 (3 * 16 + 2 * 4), .mredMinSi32 true 1 2 0x38),
    (rrr 46 3 1 2 (3 * 16 + 2 * 4), .mredMaxSi32 true 1 2 0x38), (rrr 46 4 1 2 (3 * 16 + 2 * 4), .mredMinUi32 true 1 2 0x38),
    (rrr 46 5 1 2 (3 * 16 + 2 * 4), .mredMaxUi32 true 1 2 0x38), (rrr 46 6 1 2 (3 * 16 + 2 * 4), .mredAnd true 1 2 0x38),
    (rrr 46 7 1 2 (3 * 16 + 2 * 4), .mredOr true 1 2 0x38), (rrr 46 8 1 2 (3 * 16 + 2 * 4), .mredXor true 1 2 0x38),
    (rrr 47 0 0 0 (2 * 16 + 3 * 4), .fence true 2 3), (rrr 47 1 1 2 (4 * 16 + 1), .waitc true 1 2 4 1),
    (rrr 47 2 0 2 (3 * 16), .wake true 2 3 0), (rrr 47 3 0 0 15, .barArr true 15), (rrr 47 4 0 0 15, .barWait true 15),
    (rrr 47 5 0 0 15, .barSync true 15), (rrr 47 6 1 0 127, .cbacq true 1 127), (rrr 47 7 0 1 127, .cbrel true 1 127),
    (rrr 47 8 1 0 127, .cbfill true 1 127), (rrr 47 9 0 1 127, .cbdone true 1 127)] := by
  rfl

/-- R233, R253, R268, R269, R286, R293, R305: majors 0x30 to 0x37. -/
theorem test_decode_engines : Decodes [
    (rrr 48 0 63 2 0, .cpy true 63 2), (rrr 48 1 63 2 0, .cpy2d true 63 2), (rrr 48 2 63 2 0, .cpyred true 63 2),
    (rrr 48 3 63 2 0, .cpyMx true 63 2), (rrr 48 4 1 0 15, .qfence true 1 15), (rrr 48 5 1 6 63, .qwait true 1 6 63),
    (rrr 49 0 3 2 3, .mldSt true 3 2 3), (rrr 49 1 3 0 0, .mswap true 3), (rrr 49 2 (8 + 7) 2 3, .mma true true 7 2 3),
    (rrr 49 3 1 2 3, .maccRd true 1 2 3), (rrr 49 4 (8 + 7) 2 3, .mst true true 7 2 3), (rrr 49 5 7 0 8, .maccClr true 7 8),
    (rrr 49 6 1 2 0, .mstat true 1 2), (rrr 50 0 63 2 0, .hread true 63 2), (rrr 51 0 63 2 0, .xsort true 63 2),
    (rrr 51 1 63 2 0, .a2av true 63 2), (rrr 51 2 63 2 0, .areduce true 63 2), (rrr 52 0 63 2 0, .rput true 63 2),
    (rrr 52 1 63 2 0, .rget true 63 2), (rrr 52 2 63 2 0, .ratom true 63 2), (rrr 52 3 63 2 0, .rflush true 63 2),
    (rrr 53 0 63 10 20, .kvld true 63 10 20), (rrr 53 1 63 2 0, .roost true 63 2), (rrr 53 2 63 2 0, .rouse true 63 2),
    (rrr 54 0 63 2 0, .lnch true 63 2), (rrr 54 1 3 3 4, .cncl true 3 3 4), (rrr 54 2 63 2 0, .gang true 63 2),
    (rrr 55 0 1 0 127, .psrd true 1 127), (rrr 55 1 0 1 127, .pswr true 1 127)] := by
  rfl

/-- R146, R148, R156: words that stand for no instruction, each refused by its reason. -/
theorem test_decode_refusals :
    [0, li 5 1 16384, rrr 6 10 1 2 3, rrr 7 0 1 2 1, rrr 14 0 0 0 0, rrr 20 1 1 2 8, rrr 31 12 0 0 0, br 28 15 1, br 62 0 0,
      mm 33 1 2 1 0, rrr 43 0 1 2 (5 * 16), rrr 48 0 64 2 0, rrr 47 3 0 0 16, rrr 63 0 0 0 0].map decodeWord =
    [.error .unassigned, .error .reserved, .error .unassigned, .error .reserved, .error .unassigned, .error .unassigned,
      .error .unassigned, .error .reserved, .error .reserved, .error .unassigned, .error .reserved, .error .reserved,
      .error .reserved, .error .unassigned] := by
  rfl

/-! ## Ill-formed terms -/

/-- One ill-formed term for each check of WellFormed.lean, refused, beside its nearest well-formed neighbour. -/
theorem test_wellFormed_words :
    [Instr.bra false true 7 0, .ubra false true 7 0, .call false true 7 0, .guardPrefix true 7, .cvt false 3 1 2 3 false 0,
      .cvt false 15 1 2 3 false 0, .cvt false 3 1 2 15 false 0, .cvt false 0 1 2 7 true 0, .atomAddSi32 false 1 2 0x50,
      .atomCasB64 false 1 2 2, .mredXor false 1 2 3, .fence false 5 1, .waitc false 1 2 4 2, .wake false 1 5 1].map
        Instr.wellFormed = List.replicate 14 false ∧
    [Instr.bra false false 7 0, .ubra false true 6 0, .call false false 7 0, .guardPrefix false 7, .cvt false 3 1 2 4 false 0,
      .cvt false 14 1 2 3 false 0, .cvt false 3 1 2 14 false 0, .cvt false 0 1 2 7 false 0, .atomAddSi32 false 1 2 0x4F ,
      .atomCasB64 false 1 2 1, .mredXor false 1 2 0, .fence false 4 1, .waitc false 1 2 4 1, .wake false 1 4 1].map
        Instr.wellFormed = [true, true, true, true, true, true, true, true, false, true, true, true, true, true] := by
  decide

theorem test_wellFormed_events :
    [Instr.homeRds 0 6, .agentLineDrop 0 6, .binRelease 1024, .sampleTick 1024 0, .dripBirth 256 0, .dripBirth 0 4,
      .dispatchUnit 4, .dieFlitReceive 4 0 0 0 0, .worldLatch 4 0, .worldLatch 0 16, .worldTeardown 0, .worldTeardown 16,
      .kick 1 64 0, .queueEntryTake 1 64, .prefetchTick 1 16, .rcmdEnable 1 8, .portUp 8, .powerStateChange 4].map
        Instr.wellFormed = List.replicate 18 false ∧
    [Instr.homeRds 0 5, .agentLineDrop 0 5, .binRelease 1023, .sampleTick 1023 0, .dripBirth 255 3, .dispatchUnit 3,
      .dieFlitReceive 3 0 0 0 0, .worldLatch 3 15, .worldTeardown 1, .worldTeardown 15, .kick 1 63 0, .queueEntryTake 1 63,
      .prefetchTick 1 15, .rcmdEnable 1 7, .portUp 7, .powerStateChange 3].map Instr.wellFormed = List.replicate 16 true := by
  decide

/-- R144, R147: the word placed at the program's start is the one that the first step runs. -/
theorem test_withFetchWord_runs :
    (match step (State.reset.withFetchWord 32 0x0805FFFF) with
      | .next t => t.crews.map fun c => c.threads.head?.map fun u => (u.x 1, u.pc)
      | _ => []) = [some (0x0001FFFF, 4)] := by
  decide +kernel

/-! ## States that meet the hypotheses: registers and control -/

/-- The issuing set of `one`. -/
theorem one_issuing : Issuing one crew2 := by
  unfold Issuing; decide +kernel

/-- IntegerSet, Immediates, UnaryFunctions, FloatSet, FloatComparesAndHalves, Conversion, DotProducts, SpecialFunctions: the
last registers of the allocation, with a uniform B, with the three registers of a scaled dot and the four of a packed
conversion, and with a marker check. -/
theorem test_hyps_thread_operands (sw : Bool) : ∀ t ∈ crew2.threads, Acts one t →
    ∀ ops ∈ [[dX 63 1, aX 5 1, bX 6 1], [dX 63 1, aX 5 1, bS 31 1], [dX 62 2, aX 2 2, bX 5 1],
      [{ dX 7 1 with mark := true }, { aX 7 1 with mark := true }, { bX 5 1 with mark := true }],
      [dX 5 3, (dX 5 1).fp, (aX 7 1).fp, (bX 5 1).fp],
      [dX 60 (cvtDstRegs 7 11 true), { aX 4 (cvtSrcRegs 7 11 true) with mark := false }]],
    ReadyThread one crew2 sw ops t := by
  cases sw <;> (unfold Acts ReadyThread OperandsReady; decide +kernel)

/-- IntegerSet, Immediates, Comparisons: uniform operands, the last uniform register among them. -/
theorem test_hyps_uniform_operands (sw : Bool) : ReadyUniform one crew2 sw [7] [dS 31 1, aS 2 1, bS 3 1] ∧
    ReadyUniform one crew2 sw [0, 7] [] := by
  cases sw <;> (unfold ReadyUniform Issuing Acts; decide +kernel)

/-- Conversion: a scalar and a packed conversion between codes 0 and 14. -/
theorem test_hyps_conversion : (Instr.cvt false 0 1 2 14 false 3).wellFormed = true ∧
    (Instr.cvt false 0 1 2 5 true 0).wellFormed = true ∧ (Instr.cvt false 14 1 2 0 false 0).wellFormed = true := by
  decide

/-- DotProducts: the even scale selectors. -/
theorem test_hyps_scaled_f4 : (0 : BitVec 2).toNat % 2 = 0 ∧ (2 : BitVec 2).toNat % 2 = 0 := by
  decide

/-- PredicateLogic: every pair of indices. -/
theorem test_hyps_predicate_file : (0 : Nat) < 8 ∧ (7 : Nat) < 8 := by
  decide

/-- ControlTransfers: no guard stands, x1 is ready where the call is taken, and the window of 16 registers ends with the
allocation. -/
theorem test_hyps_control (sw : Bool) : ∀ t ∈ crew2.threads, Acts one t →
    (one.iss.guard = none ∧ ReadyThread one crew2 sw [] t) ∧ ((sw = true → pendClear crew2 t none = true) ∧
      OperandsReady crew2 t sw [implX 1 1]) ∧ (guardHolds one t = true → 16 * (3 : BitVec 4).toNat + 16 ≤ crew2.nregs) := by
  cases sw <;> (unfold Acts ReadyThread OperandsReady; decide +kernel)

/-- SpecialFunctions and every statement of one thread: the set is lane 0 alone, its guard true. -/
theorem test_hyps_alone (sw : Bool) : AloneReady one crew2 lane0 sw [dX 63 1, (aX 7 1).fp] ∧
    AloneReady one crew2 lane0 sw [] := by
  cases sw <;> (unfold AloneReady Alone Issuing OperandsReady; decide +kernel)

/-! ## Memory -/

/-- GenericLoads, GenericStores: the last byte, half, word, double and quad of the page. -/
theorem test_hyps_generic : AloneReady one crew2 lane0 true [dX 60 4, aX 2 2] ∧ one.memOk = true ∧ Settled one crew2 lane0 ∧
    Current one crew2 (.mem 0x2FFF0) 16 ∧
    NoMonitor one (.mem 0x2FFFF) 1 ∧
    GenAccessOk (loadStart one) crew2 lane0 (one.issPc lane0) (plainLoad 1) 0x2FFFF id ⟨.mem 0x2FFFF, .mem 0x2FFFF, true, false, false⟩ ∧
    GenAccessOk one.issued crew2 lane0 (one.issPc lane0) (plainStore 2) 0x2FFFE id ⟨.mem 0x2FFFE, .mem 0x2FFFE, true, false, true⟩ ∧
    GenAccessOk (loadStart one) crew2 lane0 (one.issPc lane0) (plainLoad 4) 0x2FFFC id ⟨.mem 0x2FFFC, .mem 0x2FFFC, true, false, false⟩ ∧
    GenAccessOk one.issued crew2 lane0 (one.issPc lane0) (plainStore 8) 0x2FFF8 id ⟨.mem 0x2FFF8, .mem 0x2FFF8, true, false, true⟩ ∧
    GenAccessOk (loadStart one) crew2 lane0 (one.issPc lane0) (plainLoad 16) 0x2FFF0 id ⟨.mem 0x2FFF0, .mem 0x2FFF0, true, false, false⟩ ∧
    GenAccessOk one.issued crew2 lane0 (one.issPc lane0) (plainStore 16) 0x2FFF0 id ⟨.mem 0x2FFF0, .mem 0x2FFF0, true, false, true⟩ := by
  (repeat' with_reducible apply And.intro) <;> (try dsimp only [AloneReady, Alone, Issuing, OperandsReady, Settled, NoHalves, Current, NoMonitor, GenAccessOk, SpadAccessOk,
    OrderOk, ReadyUniform, Acts, Plain]) <;>
    decide +kernel

/-- UniformLoads. -/
theorem test_hyps_uniform_loads : ReadyUniform one crew2 true [] [dS 30 2, aS 2 2] ∧ guardHoldsU one crew2 = true ∧
    (∀ e ∈ one.crews, e.uid = crew2.uid → e = crew2) ∧
    (∀ t ∈ crew2.threads, Acts one t → Plain crew2 t ∧ one.matrixWait crew2.uid t.lane = false ∧ Settled one crew2 t) ∧
    Current one crew2 (.mem 0x2FFF8) 8 ∧ GenAccessOk (loadStart one) crew2 (firstActing one crew2) (one.issPc (firstActing one crew2)) (plainLoad 8)
      ((crew2.s64 2).toNat + 1 * 8) id ⟨.mem 0x2FFF8, .mem 0x2FFF8, true, false, false⟩ := by
  (repeat' with_reducible apply And.intro) <;> (try dsimp only [AloneReady, Alone, Issuing, OperandsReady, Settled, NoHalves, Current, NoMonitor, GenAccessOk, SpadAccessOk,
    OrderOk, ReadyUniform, Acts, Plain]) <;>
    decide +kernel

/-- ScratchpadAccess, AtomicsOnScratchpad, Reductions: the last 16 bytes of the block's allocation. -/
theorem test_hyps_scratchpad : AloneReady one crew2 lane0 true [dX 60 4, aX 4 1] ∧ Settled one crew2 lane0 ∧
    SpadAccessOk one.issued crew2 lane0 (one.issPc lane0) (plainLoad 16) 0x3FF0 7 unit1 ∧
    SpadAccessOk one.issued crew2 lane0 (one.issPc lane0) (plainStore 4) 0x3FFC 0 unit1 ∧
    SpadAccessOk one.issued crew2 lane0 (one.issPc lane0) ⟨.atom, true, true, true, 4⟩ (lane0.x 4).toNat 0 unit1 ∧
    SpadAccessOk one.issued crew2 lane0 (one.issPc lane0) ⟨.ldx, true, true, true, 4⟩ (lane0.x 4).toNat 0 unit1 ∧
    SpadAccessOk one.issued crew2 lane0 (one.issPc lane0) ⟨.atom, true, true, true, 8⟩ (lane0.x 4).toNat 0 unit1 ∧
    ordSpad 0x4D = true ∧ OrderOk one crew2 lane0 0x4D false false ∧ OrderOk one crew2 lane0 0x35 false true ∧
    OrderOk one crew2 lane0 0x09 true false ∧ Memory.wf unit1.spad = true ∧ NoMonitor one (.spad 1 0x3FF0) 8 := by
  (repeat' with_reducible apply And.intro) <;> (try dsimp only [AloneReady, Alone, Issuing, OperandsReady, Settled, NoHalves, Current, NoMonitor, GenAccessOk, SpadAccessOk,
    OrderOk, ReadyUniform, Acts, Plain]) <;>
    decide +kernel

/-- GenericStores, AtomicsOnMemory, Reductions, FencesAndWaits: lane 127 waits with its monitor armed on the line stored to. -/
def laneArmed : Thread := { lane127 with
  st := .blocked .monitor 0x204
  monitor := some (.mem 0x2FFF0) }
def crewArmed : Crew := { crew2 with threads := [lane0, laneArmed] }
def armed : State := { one with crews := [crewArmed] }
theorem test_hyps_monitors : AloneReady armed crewArmed lane0 true [dX 60 4, aX 2 2] ∧ Settled armed crewArmed lane0 ∧
    laneArmed.watches (.mem 0x2FFFF) 1 = true ∧ OrderOk armed crewArmed lane0 0x4C false false ∧
    OrderOk armed crewArmed lane0 0x08 true false ∧ ordSpad 0x4C = false ∧ (ordAcq 0x4C || ordRel 0x4C) = true ∧
    (ordAcq 0x08 || ordRel 0x08) = true ∧
    GenAccessOk armed.issued crewArmed lane0 (armed.issPc lane0) (plainStore 1) 0x2FFFF id
      ⟨.mem 0x2FFFF, .mem 0x2FFFF, true, false, true⟩ ∧
    (∀ o ∈ [(0x4C : BitVec 7), 0x08], GenAccessOk armed.issued crewArmed lane0 (armed.issPc lane0) (atomAcc 13)
      (lane0.x64 2).toNat (ordered crewArmed lane0 o) ⟨.mem 0x2FFF0, .mem 0x2FFF0, true, false, true⟩) ∧
    (∀ o ∈ [(0x4C : BitVec 7), 0x08], GenAccessOk armed.issued crewArmed lane0 (armed.issPc lane0) (atomAcc 0)
      (lane0.x64 2).toNat (ordered crewArmed lane0 o) ⟨.mem 0x2FFF0, .mem 0x2FFF0, true, false, true⟩) := by
  (repeat' with_reducible apply And.intro) <;> (try dsimp only [AloneReady, Alone, Issuing, OperandsReady, Settled, NoHalves, Current, NoMonitor, GenAccessOk, SpadAccessOk,
    OrderOk, PrivAccessOk, ReadyUniform, Acts, Plain]) <;> decide +kernel

/-- PrivateLoads, PrivateStores: the last 16 of the thread's 64 private bytes. -/
theorem test_hyps_private : AloneReady one crew2 lane0 true [dX 60 4, aX 5 1] ∧ Settled one crew2 lane0 ∧
    (∀ wr, PrivAccessOk one.issued crew2 lane0 wr ((lane0.x 5).toNat + (3 : BitVec 8).toNat * 16) 16) ∧
    ∀ wr, PrivAccessOk one.issued crew2 lane0 wr ((lane0.x 5).toNat + (63 : BitVec 8).toNat * 1) 1 := by
  (repeat' with_reducible apply And.intro) <;> (try dsimp only [AloneReady, Alone, Issuing, OperandsReady, Settled, NoHalves, Current, NoMonitor, GenAccessOk, SpadAccessOk,
    OrderOk, PrivAccessOk, ReadyUniform, Acts, Plain]) <;> decide +kernel

/-- AtomicsOnMemory, AtomicsOnScratchpad: relaxed atomics on either space, of each size, and a load. -/
theorem test_hyps_relaxed : ordSpad 0x40 = false ∧ ordAcq 0x40 = false ∧ ordRel 0x40 = false ∧ ordSpad 0x41 = true ∧
    ordAcq 0x41 = false ∧ ordRel 0x41 = false ∧ AloneReady one crew2 lane0 true [{ dX 5 1 with mark := true }, aX 2 2] ∧
    AloneReady one crew2 lane0 true [{ dX 5 1 with mark := true }, aX 4 1] ∧ AloneReady one crew2 lane0 true [dX 60 4, aX 4 1] ∧
    Settled one crew2 lane0 ∧ OrderOk one crew2 lane0 0x41 true false ∧
    (∀ x ∈ [(⟨.atom, true, true, true, 4⟩ : Acc1), ⟨.atom, true, true, true, 8⟩, ⟨.ldx, true, true, true, 4⟩],
      GenAccessOk one.issued crew2 lane0 (one.issPc lane0) x (lane0.x64 2).toNat id ⟨.mem 0x2FFF0, .mem 0x2FFF0, true, false, true⟩) ∧
    (∀ x ∈ [(⟨.atom, true, true, true, 4⟩ : Acc1), ⟨.atom, true, true, true, 8⟩, ⟨.ldx, true, true, true, 4⟩],
      SpadAccessOk one.issued crew2 lane0 (one.issPc lane0) x (lane0.x 4).toNat 0 unit1) := by
  (repeat' with_reducible apply And.intro) <;> (try dsimp only [AloneReady, Alone, Issuing, OperandsReady, Settled, NoHalves, Current, NoMonitor, GenAccessOk, SpadAccessOk,
    OrderOk, PrivAccessOk, ReadyUniform, Acts, Plain]) <;> decide +kernel

/-- AtomicsOnMemory, Reductions: relaxed, and acquire-release at job scope. -/
theorem test_hyps_atomics : ordSpad 0x4C = false ∧ AloneReady one crew2 lane0 true [{ dX 5 1 with mark := true }, aX 2 2] ∧
    AloneReady one crew2 lane0 true [dX 60 4, aX 2 2] ∧
    OrderOk one crew2 lane0 0x4C false false ∧ OrderOk one crew2 lane0 0x34 false true ∧ OrderOk one crew2 lane0 0x08 true false ∧
    NoMonitor one (.mem 0x2FFF0) 8 ∧
    (∀ o ∈ [(0x4C : BitVec 7), 0], GenAccessOk one.issued crew2 lane0 (one.issPc lane0) ⟨.atom, true, true, true, 4⟩
      (lane0.x64 2).toNat (ordered crew2 lane0 o) ⟨.mem 0x2FFF0, .mem 0x2FFF0, true, false, true⟩) ∧
    GenAccessOk one.issued crew2 lane0 (one.issPc lane0) ⟨.ldx, true, true, true, 4⟩
      (lane0.x64 2).toNat (ordered crew2 lane0 0x34) ⟨.mem 0x2FFF0, .mem 0x2FFF0, true, false, true⟩ ∧
    GenAccessOk one.issued crew2 lane0 (one.issPc lane0) ⟨.atom, true, true, true, 8⟩
      (lane0.x64 2).toNat (ordered crew2 lane0 0x4C) ⟨.mem 0x2FFF0, .mem 0x2FFF0, true, false, true⟩ := by
  (repeat' with_reducible apply And.intro) <;> (try dsimp only [AloneReady, Alone, Issuing, OperandsReady, Settled, NoHalves, Current, NoMonitor, GenAccessOk, SpadAccessOk,
    OrderOk, ReadyUniform, Acts, Plain]) <;>
    decide +kernel

/-- FencesAndWaits: a fence at job scope, a wake and a wait on either space, at the last barrier. -/
theorem test_hyps_fences : AloneReady one crew2 lane0 true [dX 63 1, aX 2 2] ∧ AloneReady one crew2 lane0 true [dX 63 1, aX 4 1] ∧
    Settled one crew2 lane0 ∧ NoHalves one crew2 ∧ one.relWaits 2 0 (semRel 3) 4 = false ∧ one.matrixWait 2 0 = false ∧
    (lane0.x64 2).toNat % 4 = 0 ∧ (lane0.x64 2).toNat < 2 ^ 56 ∧
    (one.issued.resolve 1 0 .wake (lane0.x64 2).toNat 4).2 = .go ⟨.mem 0x2FFF0, .mem 0x2FFF0, true, false, false⟩ ∧
    NoMonitor one (.mem 0x2FFF0) 4 ∧ NoMonitor one (.spad 1 0x3FF0) 4 ∧ one.unit 1 = some unit1 ∧
    spadBad 1 unit1.alloc 0x3FF0 4 = false ∧
    GenAccessOk one.issued crew2 lane0 (one.issPc lane0) waitcAcc (lane0.x64 2).toNat (fun s => s.order crew2.env 0 true false 7)
      ⟨.mem 0x2FFF0, .mem 0x2FFF0, true, false, true⟩ ∧
    SpadAccessOk one.issued crew2 lane0 (one.issPc lane0) waitcAcc (lane0.x 4).toNat 0 unit1 ∧
    ({ unit1 with bars := List.replicate 16 ⟨1, 0, 0⟩ }).bars[(15 : BitVec 4).toNat]? = some ⟨1, 0, 0⟩ := by
  (repeat' with_reducible apply And.intro) <;> (try dsimp only [AloneReady, Alone, Issuing, OperandsReady, Settled, NoHalves, Current, NoMonitor, GenAccessOk, SpadAccessOk,
    OrderOk, ReadyUniform, Acts, Plain]) <;>
    decide +kernel

/-! ## Special registers, collectives, sets -/

/-- `one` with `t` in the place of lane 0. -/
def crewOf (t : Thread) : Crew := { crew2 with threads := [t, lane127] }
def withLane (t : Thread) : State := { one with crews := [crewOf t] }

/-- `one` with its crew alone in its issue set: lane 0 is every live thread. -/
def crewAlone : Crew := { crew2 with threads := [lane0] }
def alone : State := { one with crews := [crewAlone] }

def laneS : Thread := { lane0 with
  mode := .S
  inTrap := true
  tcause := 0x0B
  tpc := 0x104
  twb := 48 }

def laneM : Thread := { lane0 with mode := .M }

/-- SpecialRegisters: the first and the last register of R59 outside a drip, and a uniform one. -/
theorem test_hyps_special : AloneReady one crew2 lane0 true [dX 63 1] ∧ one.special crew2 lane0 0x00 = some 0 ∧
    one.special crew2 lane0 0x12 = some 0 ∧ one.matrixWait 2 0 = false ∧ isUniformReg 0x12 = true ∧ isBurstReg 0x12 = false ∧
    ReadyUniform one crew2 true [] [dS 31 1] ∧ guardHoldsU one crew2 = true ∧ (∀ e ∈ one.crews, e.uid = crew2.uid → e = crew2) ∧
    (∀ t ∈ crew2.threads, Acts one t → Plain crew2 t ∧ (one.special crew2 (firstActing one crew2) 0x12 ≠ none)) ∧
    AloneReady one crew2 lane0 true [aX 5 1] ∧ ReadyUniform one crew2 true [] [dS 31 1, aS 2 1] := by
  (repeat' with_reducible apply And.intro) <;> (try dsimp only [AloneReady, Alone, Issuing, OperandsReady, ReadyUniform, Acts,
    Plain]) <;> decide +kernel

/-- PrivilegedRegisters: reads and writes in supervisor mode at both ends of the table, the crew's registers, the
accumulator's two with an empty order, `%ctxop` 1, and a firmware register in machine mode. -/
theorem test_hyps_privileged : AloneReady (withLane laneS) (crewOf laneS) laneS true [dX 63 1] ∧ laneS.mode ≠ .U ∧
    (withLane laneS).privRead (crewOf laneS) laneS 0x80 = some 1 ∧ (withLane laneS).privRead (crewOf laneS) laneS 0xA9 = some 0 ∧
    (withLane laneS).privWrite (crewOf laneS) laneS 0x82 7 = some { laneS with tpc := 7 } ∧
    (withLane laneS).privWrite (crewOf laneS) laneS 0xA8 0xFF = some { laneS with plsel := 0xF } ∧
    ((withLane laneS).quarter 0).order = [] ∧ (withLane laneS).arrayBound (crewOf laneS) 0 = true ∧
    AloneReady (withLane laneS) (crewOf laneS) laneS true [aX 6 1] ∧ laneS.x 6 = 1 ∧
    AloneReady (withLane laneM) (crewOf laneM) laneM true [dX 63 1] ∧ AloneReady (withLane laneM) (crewOf laneM) laneM true [aX 6 1] ∧
    0x70 ≤ (0x7F : BitVec 7).toNat ∧ (0x29 : BitVec 7).toNat < 0x70 := by
  (repeat' with_reducible apply And.intro) <;> (try dsimp only [AloneReady, Alone, Issuing, OperandsReady]) <;> decide +kernel

/-- CollectiveArrivals, BarrierArrivals: a set that leaves a live thread behind, and one that brings the whole crew. -/
theorem test_hyps_arrivals : Issuing one crew2 ∧ crew2.drip = none ∧
    (∀ t ∈ crew2.threads, Acts one t → MayArrive one crew2 true [dX 63 1, aX 5 1, bX 6 1] t) ∧ Arrived one crew2 false ∧
    Issuing alone crewAlone ∧ (∀ t ∈ crewAlone.threads, Acts alone t → MayArrive alone crewAlone false [dX 63 1, aX 5 1] t) ∧
    (∀ t ∈ crewAlone.threads, Acts alone t → t.inPlainHandler = false ∧ alone.issPc t = 0x100 ∧
      depv crewAlone t (some 0x100) none [0, 7] [dS 28 4] = none ∧ regRange crewAlone t [dS 28 4] = none) ∧
    ({ one with units := [{ unit1 with bars := List.replicate 16 ⟨1, 0, 0⟩ }] }).barCount = 16 := by
  (repeat' with_reducible apply And.intro) <;> (try dsimp only [Issuing, Acts, MayArrive, Arrived]) <;> decide +kernel

/-- The whole crew arrives at one address. -/
theorem test_hyps_arrivals_last : Arrived alone crewAlone true := by
  refine ⟨0x100, ?_⟩; dsimp only [Acts]; decide +kernel

/-- CollectiveArrivals: the nonzero immediates of shfl and the groups of lred, at the ends of their ranges. -/
theorem test_hyps_collective_fields : (1 : BitVec 3) ≠ 0 ∧ (7 : BitVec 3) ≠ 0 ∧ (1 : BitVec 7) ≠ 0 ∧ (127 : BitVec 7) ≠ 0 ∧
    (0 : BitVec 3).toNat < 6 ∧ (5 : BitVec 3).toNat < 6 := by
  decide

/-- SetTransfers: a branch with no guard before it, and bins: no bin with room, and one. -/
def binAt : Bin := ⟨3, 2, 0x104, 0, [5], 0, false, none⟩
def filing : State := { one with quarters := [(0, { Quarter.init with bins := [binAt] })] }
theorem test_hyps_sets : one.iss.guard = none ∧ ReadyUniform one crew2 true [7] [] ∧ AloneReady one crew2 lane0 true [] ∧
    (one.quarter (quarterNo crew2.core crew2.quarter)).bins.length < 16 ∧ nextPc one lane0 = 0x104 ∧
    ((filing.quarter 0).bins.filter fun b => b.crew == 2 && b.pc == 0x104 && b.wb == 0 && b.sysc == none &&
      decide (b.lanes.length < 32)) = [binAt] := by
  (repeat' with_reducible apply And.intro) <;> (try dsimp only [AloneReady, Alone, Issuing, OperandsReady, ReadyUniform, Acts]) <;>
    decide +kernel

/-- ThreadServices: another live thread not waiting at a collective, the arguments of a call, the launch in mode 0. -/
theorem test_hyps_services : AloneReady one crew2 lane0 true [] ∧ lane127 ∈ crew2.threads ∧ lane127.lane ≠ lane0.lane ∧
    lane127.live = true ∧ lane127.collAt = none ∧ crew2.asyncQ = [] ∧
    AloneReady one { crew2 with threads := crew2.threads } lane0 false [implX 2 8] ∧ crew2.drip = none ∧
    one.launch 1 1 = some launch1 ∧ launch1.desc.rndmode = 0 := by
  (repeat' with_reducible apply And.intro) <;> (try dsimp only [AloneReady, Alone, Issuing, OperandsReady]) <;> decide +kernel

/-- ThreadServices: the last live thread of a crew: of the block's last crew, of a saving crew, of a block that has another, and
of a drip of a read of two bursts. -/
def leaving (c : Crew) (l : List Crew) : State := { alone with crews := c :: l }
def dripCrew : Crew := { crewAlone with drip := some ⟨7, 0, 0, 0⟩ }
def ExitMeets (c : Crew) (l : List Crew) : Prop :=
  let s := leaving c l
  AloneReady s c lane0 true [] ∧ (∀ v ∈ c.threads, v.lane ≠ lane0.lane → v.live = false) ∧ s.stores = [] ∧ s.landings = [] ∧
    s.groups = [] ∧ (s.quarter (quarterNo c.core c.quarter)).token ≠ some 2 ∧ s.unit 1 = some unit1 ∧ c.asyncQ = []
theorem test_hyps_last_exit : ExitMeets crewAlone [] ∧ ExitMeets { crewAlone with course := .saving } [] ∧
    ExitMeets crewAlone [{ crew2 with uid := 3 }] ∧ ExitMeets dripCrew [] := by
  unfold ExitMeets
  (repeat' with_reducible apply And.intro) <;> (try dsimp only [AloneReady, Alone, Issuing, OperandsReady]) <;> decide +kernel

/-- TrapEntryAndReturn, TrapConditions: a user thread that traps at once; a handler whose saved window is the last of the
allocation. -/
theorem test_hyps_traps : CanTrap one crew2 lane0 ∧ AloneReady one crew2 lane0 true [] := by
  refine ⟨⟨by decide +kernel, by dsimp only [Settled]; decide +kernel, by dsimp only [NoHalves]; decide +kernel, rfl, ?_⟩, ?_⟩
  · intro w h
    have e : some world1 = some w := h
    cases e
    decide +kernel
  · dsimp only [AloneReady, Alone, Issuing, OperandsReady]; decide +kernel

theorem test_hyps_tret : AloneReady (withLane laneS) (crewOf laneS) laneS true [] ∧ (withLane laneS).iss.guard = none ∧
    laneS.mode ≠ .U ∧ laneS.inTrap = true ∧ laneS.twb.toNat % 16 = 0 ∧ laneS.twb.toNat < (crewOf laneS).nregs ∧
    (crewOf laneS).nregs % 16 = 0 ∧ laneS.tpc.toNat % 4 = 0 ∧
    (((withLane laneS).unit (crewOf laneS).unit).all fun b => !b.lastExit) = true ∧ (crewOf laneS).course ≠ .resuming ∧
    (crewOf laneS).asyncQ = [] := by
  (repeat' with_reducible apply And.intro) <;> (try dsimp only [AloneReady, Alone, Issuing, OperandsReady]) <;> decide +kernel

/-- TrapConditions: each operand of an add one past the allocation; a marker; a pending destination with S = 0 and S = 1; a
misaligned address. -/
def lanePend : Thread := { lane0 with
  regs := [(2, 0x2FFF2), (3, 0)]
  pendX := [(9, some 0x40)] }
theorem test_hyps_trap_conditions :
    crew2.nregs ≤ lane0.wb + (64 : BitVec 7).toNat ∧ lane0.wb + (63 : BitVec 7).toNat < crew2.nregs ∧
    regRange crew2 lane0 [dX 63 1, aX 62 1, bX 0 1] = none ∧ isMarker (lane0.x 62) = true ∧
    encode (.psrd false 63 0x7F) = some (encRRR false 55#6 0#4 63 0 0x7F) ∧ encode (.tret true) ≠ none ∧
    Alone (withLane lanePend) (crewOf lanePend) lanePend ∧ pendClear (crewOf lanePend) lanePend none = false ∧
    tabGet lanePend.pendX none (lanePend.wb + (9 : BitVec 7).toNat) = some 0x40 ∧
    regRange (crewOf lanePend) lanePend [dX 9 1, aX 0 1, bX 0 1] = none ∧
    AloneReady (withLane { lanePend with pendX := [] }) (crewOf { lanePend with pendX := [] }) { lanePend with pendX := [] } true
      [dX 63 1, aX 2 2] ∧ (({ lanePend with pendX := [] }).x64 2).toNat % 4 ≠ 0 ∧ one.requestsFull 0 = false := by
  (repeat' with_reducible apply And.intro) <;> (try dsimp only [AloneReady, Alone, Issuing, OperandsReady]) <;> decide +kernel

/-- CircularBuffers: buffer 127 of a block, its slot 0 free, its slot 1 filled. -/
def cbuf : CBuf := ⟨0, 0, 64, 4, 0, 1, 1, 1, [(.free, false), (.filled, false), (.reading, false), (.filling, false)]⟩
def unitCb : BUnit := { unit1 with cbs := List.replicate 128 cbuf }
def laneCb : Thread := { lane0 with regs := [(2, 2), (3, 3)] }
def oneCb : State := { withLane laneCb with units := [unitCb] }
theorem test_hyps_circular : AloneReady oneCb (crewOf laneCb) laneCb true [dX 63 1] ∧ (crewOf laneCb).drip = none ∧
    (∀ e ∈ oneCb.entries, e.unit ≠ 1) ∧ oneCb.unit 1 = some unitCb ∧ unitCb.cbs[(127 : BitVec 7).toNat]? = some cbuf ∧
    cbuf.rix < cbuf.count ∧ cbuf.wix < cbuf.count ∧ (cbuf.slots.getD cbuf.rix (.free, false)).1 = .filled ∧
    (cbuf.slots.getD cbuf.wix (.free, false)).1 = .free ∧ AloneReady oneCb (crewOf laneCb) laneCb true [aX 2 1] ∧
    Settled oneCb (crewOf laneCb) laneCb ∧ (∀ v ∈ oneCb.units, v.uid = 1 → v = unitCb) ∧
    (laneCb.x 2).toNat < cbuf.count ∧ cbuf.slots.getD (laneCb.x 2).toNat (.free, false) = (.reading, false) ∧
    (laneCb.x 3).toNat < cbuf.count ∧ cbuf.slots.getD (laneCb.x 3).toNat (.free, false) = (.filling, false) := by
  (repeat' with_reducible apply And.intro) <;> (try dsimp only [AloneReady, Alone, Issuing, OperandsReady, Settled]) <;>
    decide +kernel

theorem test_hyps_circular_quiet : ∀ k ∈ oneCb.crews, ∀ t ∈ k.threads, ∀ d f i n, t.st ≠ .blocked (.cb 127 d f i) n := by
  have h : ∀ k ∈ oneCb.crews, ∀ t ∈ k.threads, t.st = .running := by decide +kernel
  intro k hk t ht d f i n e
  rw [h k hk t ht] at e
  cases e

/-! ## Commands -/

/-- `one` with a channel 63, and the command descriptor `w` in the last 64 bytes of the block's scratchpad, named by x4. -/
def laneCmd : Thread := { lane0 with regs := [(4, 0x3FC0)] }
def cmdUnit (w : List Word) : BUnit := { unit1 with spad := writeBytes [] 0x3FC0 (wordsBytes w) }
def cmdState (ch : Chan) (w : List Word) : State := { withLane laneCmd with
  units := [cmdUnit w]
  launches := [{ launch1 with desc := { launch1.desc with
    chans := List.replicate 63 Chan.reset ++ [ch]
    handlers := [⟨⟨8, [0x10000]⟩, 0, 16⟩] } }] }

/-- The hypotheses of EngineRuns. -/
def EngineMeets (cmd : Cmd) (ch : Chan) (w : List Word) : Prop :=
  let s := cmdState ch w
  let z := s.issued
  let b := cmdUnit w
  let c := crewOf laneCmd
  (AloneReady s c laneCmd true [aX 4 1] ∧ EngineBlock s c laneCmd b) ∧
    (0x3FC0 % 64 = 0 ∧ spadBad b.cores.length b.alloc 0x3FC0 64 = false ∧
      z.conflict ⟨.crew c.uid, c.region, false, false, s.issPc laneCmd⟩ 0 pieceSize false (.spad b.uid 0x3FC0) 0x3FC0 64 = none ∧
      w = bytesWords (b.readSpad 0 0x3FC0 64) ∧ headerBad b cmd w = false ∧ z.chan c 63 = ch) ∧
    ∃ rq : EReq, (∀ ill, z.bodyReq cmd ill c b (z.chan c 63) w = .ok rq) ∧ rq.late = none ∧
      z.waitsForQueue c b cmd (z.chan c 63) = false ∧ cmd.chanReason (z.chan c 63) rq.bytes = none ∧
      (∀ r ∈ rq.ranges ++ [ringRange w], r.misaligned = none ∧ r.outside b = none) ∧
      (z.syncRel c.uid scopeDevice).claimsConflict (fun p => match p with
        | .engine id => ((z.orderedBefore b.uid (queueKey (b.relCore c) (z.chan c 63).qid)).map (·.id)).contains id
        | _ => false) (rq.ranges.flatMap (z.rangeClaims b.uid c.world c.core)) = none

theorem test_hyps_cpy : EngineMeets .cpy ⟨3, 16, 1, false, false, false, false, false, 0⟩
    [0, 0, 0x80000000, 0, 0x3fb0, 0, 0x2000, 0, 16, 0x50000000, 0, 0, 0, 0, 0, 0] := by
  refine ⟨?_, ?_, _, fun ill => rfl, ?_⟩
  · dsimp only [AloneReady, Alone, Issuing, OperandsReady, EngineBlock, Settled, NoHalves]; decide +kernel
  · decide +kernel
  · decide +kernel

theorem test_hyps_cpy2d : EngineMeets .cpy2d ⟨0, 32, 1, false, false, false, false, false, 0⟩
    [0, 0, 0x80000000, 0, 0x1000, 0, 0x2000, 0, 0x20010, 0x50000000, 16, 16, 0, 0, 0, 0] := by
  refine ⟨?_, ?_, _, fun ill => rfl, ?_⟩
  · dsimp only [AloneReady, Alone, Issuing, OperandsReady, EngineBlock, Settled, NoHalves]; decide +kernel
  · decide +kernel
  · decide +kernel

theorem test_hyps_cpyred : EngineMeets .cpyred ⟨0, 16, 1, false, false, false, false, false, 0⟩
    [0, 0, 0x80000000, 0, 0x1000, 0, 0x2000, 0, 16, 0x50000000, 4, 0, 0, 0, 0, 0] := by
  refine ⟨?_, ?_, _, fun ill => rfl, ?_⟩
  · dsimp only [AloneReady, Alone, Issuing, OperandsReady, EngineBlock, Settled, NoHalves]; decide +kernel
  · decide +kernel
  · decide +kernel

theorem test_hyps_cpyMx : EngineMeets .cpymx ⟨0, 16, 1, false, false, false, false, false, 0⟩
    [0, 0, 0x80000000, 0, 0x1000, 0, 0x2000, 0, 16, 0x50000000, 0x40000000, 0x402010, 0xc002000, 16, 0, 0] := by
  refine ⟨?_, ?_, _, fun ill => rfl, ?_⟩
  · dsimp only [AloneReady, Alone, Issuing, OperandsReady, EngineBlock, Settled, NoHalves]; decide +kernel
  · decide +kernel
  · decide +kernel

theorem test_hyps_hread : EngineMeets .hread ⟨0, 16, 1, true, false, false, true, false, 0⟩
    [0, 0, 0x80000000, 0, 0x2fff0, 0, 0x10010, 16, 0, 0, 0, 0, 0, 0, 0, 0] := by
  refine ⟨?_, ?_, _, fun ill => rfl, ?_⟩
  · dsimp only [AloneReady, Alone, Issuing, OperandsReady, EngineBlock, Settled, NoHalves]; decide +kernel
  · decide +kernel
  · decide +kernel

theorem test_hyps_xsort : EngineMeets .xsort ⟨64, 0, 1, false, false, false, false, false, 0⟩
    [0, 0, 0x80000000, 0, 0x1000, 0, 0x1010, 0, 0x10000001, 1, 1, 0, 0x1020, 0, 21, 0] := by
  refine ⟨?_, ?_, _, fun ill => rfl, ?_⟩
  · dsimp only [AloneReady, Alone, Issuing, OperandsReady, EngineBlock, Settled, NoHalves]; decide +kernel
  · decide +kernel
  · decide +kernel

theorem test_hyps_a2av : EngineMeets .a2av ⟨0, 0, 3, false, true, false, false, false, 0⟩
    [0, 0, 0x80000000, 0, 0x20000, 0, 0x20010, 0, 0x20020, 0, 0, 0, 0x20030, 0, 0x20040, 0] := by
  refine ⟨?_, ?_, _, fun ill => rfl, ?_⟩
  · dsimp only [AloneReady, Alone, Issuing, OperandsReady, EngineBlock, Settled, NoHalves]; decide +kernel
  · decide +kernel
  · decide +kernel

theorem test_hyps_areduce : EngineMeets .areduce ⟨0, 16, 3, false, true, false, false, false, 0⟩
    [0, 0, 0x80000000, 0, 0x20000, 0, 0x20010, 0, 4, 0, 0, 0, 0, 0, 0, 0] := by
  refine ⟨?_, ?_, _, fun ill => rfl, ?_⟩
  · dsimp only [AloneReady, Alone, Issuing, OperandsReady, EngineBlock, Settled, NoHalves]; decide +kernel
  · decide +kernel
  · decide +kernel

theorem test_hyps_rput : EngineMeets .rput ⟨0, 16, 2, false, true, false, false, false, 0⟩
    [0, 0, 0x80000000, 0, 0x1000, 0, 0, 0, 16, 0x40000000, 0, 0, 0, 0, 0, 0] := by
  refine ⟨?_, ?_, _, fun ill => rfl, ?_⟩
  · dsimp only [AloneReady, Alone, Issuing, OperandsReady, EngineBlock, Settled, NoHalves]; decide +kernel
  · decide +kernel
  · decide +kernel

theorem test_hyps_rget : EngineMeets .rget ⟨0, 16, 2, true, false, false, false, false, 0⟩
    [0, 0, 0x80000000, 0, 0x1000, 0, 0, 0, 16, 0x40000000, 0, 0, 0, 0, 0, 0] := by
  refine ⟨?_, ?_, _, fun ill => rfl, ?_⟩
  · dsimp only [AloneReady, Alone, Issuing, OperandsReady, EngineBlock, Settled, NoHalves]; decide +kernel
  · decide +kernel
  · decide +kernel

theorem test_hyps_ratom : EngineMeets .ratom ⟨0, 8, 2, false, false, true, false, false, 0⟩
    [0, 0, 0x80000000, 0, 0x1000, 0, 0, 0, 0, 0x44000000, 0, 0, 0, 0, 0, 0] := by
  refine ⟨?_, ?_, _, fun ill => rfl, ?_⟩
  · dsimp only [AloneReady, Alone, Issuing, OperandsReady, EngineBlock, Settled, NoHalves]; decide +kernel
  · decide +kernel
  · decide +kernel

theorem test_hyps_rflush : EngineMeets .rflush ⟨0, 0, 2, false, true, false, false, false, 0⟩
    [0, 0, 0x80000000, 0, 0, 0, 0, 0, 0, 0, 0, 0, 0, 0, 0, 0] := by
  refine ⟨?_, ?_, _, fun ill => rfl, ?_⟩
  · dsimp only [AloneReady, Alone, Issuing, OperandsReady, EngineBlock, Settled, NoHalves]; decide +kernel
  · decide +kernel
  · decide +kernel

theorem test_hyps_roost : EngineMeets .roost ⟨0xFFFF00000000, 0, 6, false, true, false, false, false, 0⟩
    [0, 0, 0x80000000, 0, 0x20000, 0, 16, 63, 0, 0, 0, 0, 0, 0, 0, 0] := by
  refine ⟨?_, ?_, _, fun ill => rfl, ?_⟩
  · dsimp only [AloneReady, Alone, Issuing, OperandsReady, EngineBlock, Settled, NoHalves]; decide +kernel
  · decide +kernel
  · decide +kernel

theorem test_hyps_rouse : EngineMeets .rouse ⟨0, 8, 6, false, false, false, false, true, 0⟩
    [0, 0, 0x80000000, 0, 0, 0, 0, 0, 0, 0, 0, 0, 0, 0, 0, 0] := by
  refine ⟨?_, ?_, _, fun ill => rfl, ?_⟩
  · dsimp only [AloneReady, Alone, Issuing, OperandsReady, EngineBlock, Settled, NoHalves]; decide +kernel
  · decide +kernel
  · decide +kernel

theorem test_hyps_lnch : EngineMeets .lnch ⟨192, 0, 1, false, false, false, false, false, 0⟩
    [0, 0, 0x80000000, 0, 0x20000, 0, 0, 0, 0, 0, 0, 0, 0, 0, 0, 0] := by
  refine ⟨?_, ?_, _, fun ill => rfl, ?_⟩
  · dsimp only [AloneReady, Alone, Issuing, OperandsReady, EngineBlock, Settled, NoHalves]; decide +kernel
  · decide +kernel
  · decide +kernel

theorem test_hyps_gang : EngineMeets .gang ⟨0, 0, 3, false, true, false, false, false, 0⟩
    [0, 0, 0x80000000, 0, 0x20000, 0, 0, 0, 63, 0, 0, 0, 0, 0, 0, 0] := by
  refine ⟨?_, ?_, _, fun ill => rfl, ?_⟩
  · dsimp only [AloneReady, Alone, Issuing, OperandsReady, EngineBlock, Settled, NoHalves]; decide +kernel
  · decide +kernel
  · decide +kernel

/-- QueueEntries: a mask of one queue, and a wait on the queue's own count. -/
theorem test_hyps_queue_entries : let ch : Chan := ⟨3, 16, 1, false, false, false, false, false, 0⟩
    (1 : BitVec 4) ≠ 0 ∧
    (cmdState ch []).issued.waitsForQueue (crewOf laneCmd) (cmdUnit []) .qfence ((cmdState ch []).issued.chan (crewOf laneCmd) 63) = false ∧
    Cmd.qfence.chanReason ((cmdState ch []).issued.chan (crewOf laneCmd) 63) 0 = none ∧
    (cmdState ch []).issued.waitsForQueue (crewOf laneCmd) (cmdUnit []) .qwait ((cmdState ch []).issued.chan (crewOf laneCmd) 63) = false ∧
    Cmd.qwait.chanReason ((cmdState ch []).issued.chan (crewOf laneCmd) 63) 0 = none := by
  decide +kernel

/-- Cancels: a level below 2 from user mode; the launch of `one` runs, is not the phase's number, and ends when cancelled. -/
theorem test_hyps_cancels : AloneReady one crew2 lane0 true [aX 6 1, bX 63 1] ∧ (¬ 2 ≤ (1 : BitVec 2).toNat) ∧
    laneM.mode ≠ .U ∧ one.matrixWait 2 0 = false ∧ Settled one crew2 lane0 ∧
    (one.launch 1 (lane0.x 6)).map (·.state) = some .running ∧ (one.launch 1 (lane0.x 5)).map (·.state) = none := by
  (repeat' with_reducible apply And.intro) <;> (try dsimp only [AloneReady, Alone, Issuing, OperandsReady, Settled]) <;>
    decide +kernel

/-! ## The matrix array -/

/-- One row and one column of f8a at the last 16 bytes of the scratchpad, with a plane that serves it. -/
def crewMx : Crew := { crew2 with sregs := [(2, 0x402010), (3, 0x0C003FF0), (4, 16), (5, 0x0C003FF0), (6, 16)] }
def oneMx : State := { one with
  crews := [crewMx]
  quarters := [(0, { Quarter.init with
    bound := some 1
    active := { Plane.init with
      st := .ready
      fmt := 3
      k := 1
      n := 1 } })] }
def siteMx (ill : Trap) : MSite := ⟨unit1, 0, 0, 1, ill⟩

/-- MatrixCommands: a load into the last quarter that is bound, an mma and an mst of tile 7, a clear of the last tile. -/
theorem test_hyps_matrix : AloneReady oneMx crewMx lane0 true [aS 2 1, bS 3 2] ∧ AloneReady oneMx crewMx lane0 true [] ∧
    descSC (crewMx.s 3) = false ∧ oneMx.unit 1 = some unit1 ∧ (oneMx.quarter (quarterNo 0 0)).bound = some 1 ∧
    (1 : BitVec 4) ≠ 0 ∧ (7 : BitVec 3).toNat + (1 : BitVec 4).toNat ≤ 8 ∧ (0 : BitVec 3).toNat + (8 : BitVec 4).toNat ≤ 8 := by
  (repeat' with_reducible apply And.intro) <;> (try dsimp only [AloneReady, Alone, Issuing, OperandsReady]) <;> decide +kernel

theorem test_hyps_matrix_traps (ill : Trap) :
    oneMx.issued.mldTrap (siteMx ill) 0 (crewMx.s 2) (crewMx.s 3) (crewMx.s 4) 0 = none ∧
    oneMx.issued.mmaTrap (siteMx ill) 0 true 7 (crewMx.s 2) (crewMx.s 3) (crewMx.s 4) = none ∧
    oneMx.issued.mstTrap (siteMx ill) 0 7 (crewMx.s 2) (crewMx.s 3) (crewMx.s 4) = none := by
  exact ⟨rfl, rfl, rfl⟩

/-- Every matrix command of `oneMx` is free of claims. -/
theorem test_hyps_matrix_free : ∀ m ∈ [issuedCmd oneMx crewMx lane0 .mswap 0 1,
    { issuedCmd oneMx crewMx lane0 .mma 0 1 with claims := rowClaims 1 0 [(0x3FF0, 1)] .read },
    { issuedCmd oneMx crewMx lane0 .mst 0 1 with claims := rowClaims 1 0 [(0x3FF0, 1)] .write }],
    MatrixFree oneMx crewMx lane0 m := by
  dsimp only [MatrixFree, Settled, NoHalves]; decide +kernel

/-- MatrixReads: elements (511, 62) and (511, 63) as f16, and the status of row 511. -/
def laneRd : Thread := { lane0 with regs := [(2, 0x3E01FF), (3, 0x1FF)] }
def crewRd : Crew := { crewOf laneRd with sregs := [(31, 0x04000000)] }
def oneRd : State := { one with crews := [crewRd] }
theorem test_hyps_matrix_reads : AloneReady oneRd crewRd laneRd true [dX 63 1, aX 2 1, bS 31 1] ∧
    AloneReady oneRd crewRd laneRd true [dX 63 1, aX 3 1] ∧ crewRd.drip = none ∧ (oneRd.quarter 0).bound = some 1 ∧
    (laneRd.x 2).toNat / 2 ^ 22 = 0 ∧ (laneRd.x 2).toNat / 2 ^ 9 % 2 ^ 7 = 0 ∧ (crewRd.s 31).toNat / 2 ^ 8 % 2 ^ 17 = 0 ∧
    (crewRd.s 31).toNat / 2 ^ 26 % 16 ≠ 6 ∧ (crewRd.s 31).toNat / 2 ^ 26 % 16 ≠ 15 ∧
    (laneRd.x 2).toNat / 2 ^ 16 % 2 ^ 6 + 32 / fmtWidth ((crewRd.s 31).toNat / 2 ^ 26 % 16) ≤ 64 ∧
    (laneRd.x 3).toNat / 2 ^ 22 = 0 ∧ (laneRd.x 3).toNat / 2 ^ 9 % 2 ^ 7 = 0 ∧ (laneRd.x 3).toNat / 2 ^ 16 % 2 ^ 6 = 0 ∧
    MatrixFree oneRd crewRd laneRd { issuedCmd oneRd crewRd laneRd .mstat 0 1 with
      dest := 63
      coord := 0x1FF } := by
  (repeat' with_reducible apply And.intro) <;>
    (try dsimp only [AloneReady, Alone, Issuing, OperandsReady, MatrixFree, Settled, NoHalves]) <;> decide +kernel

/-- PageReads: a sequence of f16 rows of 64 bytes whose window starts at position 1, with a page for each outcome. -/
def kvPage (head tier : Nat) (bad : Bool) : KvPage := ⟨0, head, 0, 0x100 + head, tier, bad, false, false, []⟩
def kvSeq : Sequence := ⟨5, 7, 64, 1, 1, 1, 4, [kvPage 0 0 false, kvPage 1 0 true, kvPage 2 1 false]⟩
def kvChan1 (low : Nat) : Chan := ⟨BitVec.ofNat 64 (0xFFFF * 2 ^ 32 + low), 0, 6, true, false, false, false, false, 0⟩
def laneKv (pos head : Nat) : Thread := { lane0 with
  regs := [(2, BitVec.ofNat 32 pos), (3, BitVec.ofNat 32 head), (4, 0x3FC0)] }
def oneKv (low pos head : Nat) : State := { withLane (laneKv pos head) with
  seqs := [kvSeq]
  frames := [(0, { Frame.init with
    job := 7
    page := 0x100
    st := .clean })]
  launches := [{ launch1 with desc := { launch1.desc with chans := [kvChan1 low] } }] }
theorem test_hyps_kvld : AloneReady (oneKv 5 1 0) (crewOf (laneKv 1 0)) (laneKv 1 0) true [aX 2 3, bX 63 1] ∧
    Settled (oneKv 5 1 0) (crewOf (laneKv 1 0)) (laneKv 1 0) ∧ (oneKv 5 1 0).matrixWait 2 0 = false ∧
    (oneKv 5 1 0).unit 1 = some unit1 ∧ (kvChan1 5).valid = true ∧ (kvChan1 5).kind = 6 ∧ (kvChan1 5).permR = true ∧
    (kvChan1 5).outstanding ≤ (kvChan1 5).allow ∧ 0x3FC0 % 16 = 0 ∧ (oneKv 6 1 0).kvSeq 1 (kvChan1 6) = none ∧
    spadBad 1 unit1.alloc 0x3FC0 16 = false ∧ (oneKv 5 1 0).kvSeq 1 (kvChan1 5) = some kvSeq ∧
    spadBad 1 unit1.alloc 0x3FC0 kvSeq.rb = false ∧ 0 < kvSeq.ws ∧ kvSeq.ws ≤ 1 ∧ kvSeq.find 0 3 (1 / kvSeq.ppp) = none ∧
    kvSeq.find 0 0 (1 / kvSeq.ppp) = some (0, kvPage 0 0 false) ∧ kvSeq.find 0 1 0 = some (1, kvPage 1 0 true) ∧
    kvSeq.find 0 2 0 = some (2, kvPage 2 1 false) ∧ (kvPage 2 1 false).tier ≠ 0 ∧
    (oneKv 5 1 0).issued.kvRow kvSeq (kvPage 0 0 false) 1 = some (List.replicate 64 0) ∧
    (oneKv 5 1 0).issued.kvRow kvSeq (kvPage 1 0 false) 1 = none ∧ rowBad (kvFormat kvSeq.fmt) (List.replicate 64 0) = false ∧
    ((oneKv 5 1 0).issued.wantItem 5 3).crews = (oneKv 5 1 0).crews ∧ ((oneKv 5 1 0).issued.wantItem 5 3).landings = [] ∧
    ((oneKv 5 1 0).issued.wantItem 5 3).nextId = 9 ∧
    (oneKv 5 1 0).issued.conflict ⟨.crew 2, (oneKv 5 1 0).issued.accessRegion (crewOf (laneKv 1 0)) (laneKv 1 0), true, false,
      (oneKv 5 1 0).issPc (laneKv 1 0)⟩ 1 pieceSize false (.spad 1 0x3FC0) 0x3FC0 64 = none := by
  (repeat' with_reducible apply And.intro) <;>
    (try dsimp only [AloneReady, Alone, Issuing, OperandsReady, Settled]) <;> decide +kernel

/-! ## Steps that the machine takes on its own -/

/-- The second part of a pair is `ok`. -/
def okPair {α β : Type} (p : α × EngRes β) : Bool :=
  match p.2 with
  | .ok _ => true
  | _ => false

def okOf {ε α : Type} (r : Except ε α) : Bool :=
  match r with
  | .ok _ => true
  | _ => false

/-- ResultsLand: a value and a kvld's row in flight to the last register. -/
def landA : Landing := ⟨9, 2, 0, false, [(63, 1)], none, none, false, true⟩
def landB : Landing := ⟨10, 2, 0, false, [(5, 0)], some (0x3FF0, [1]), none, false, false⟩
def storeA : PStore := ⟨3, 2, 0, 3, .spad 1 0x3FFC, .spad 1 0x3FFC, .bytes [1, 2, 3, 4], false, none, true⟩
def storeB : PStore := ⟨4, 2, 0, 4, .mem 0x2FFFC, .mem 0x2FFFC, .red 0 7, false, some 1, true⟩
def storeC : PStore := ⟨5, 2, 0, 5, .priv 2 0x1A00, .priv 2 0x1A00, .words [1, 2, 3, 4], false, none, true⟩
def laneSo : Thread := { lane0 with st := .blocked (.waitcSo 5 0x2FFF0 4) 0x104 }
def landing : State := { one with
  iss := ⟨0, 0, none⟩
  landings := [landA, landB]
  stores := [storeA, storeB, storeC] }
theorem test_hyps_results : landing.iss = ⟨0, 0, none⟩ ∧ landing.landings.filter (·.id == 9) = [landA] ∧
    landing.landings.filter (·.id == 10) = [landB] ∧ landA.uni = false ∧ landing.crew 2 = some crew2 ∧
    crew2.thread 0 = some lane0 ∧ lane0.live = true ∧ (∀ v ∈ crew2.threads, v.entering = none ∧ (v.lane = 0 → v = lane0)) ∧
    landing.stores = [storeA] ++ storeB :: [storeC] ∧ (∀ q ∈ [storeA, storeB], q.id ≠ 5 ∧ q.leads storeC = false ∧
      (q.id = 3 → q.leads storeB = false)) ∧ landing.memOk = true ∧
    (∀ p ∈ landing.stores, ∀ r ∈ p.ranges, NoMonitor landing r.1 r.2) := by
  dsimp only [NoMonitor]; decide +kernel

/-- ResultsLand: an upper half still to be read, a uniform result, an accepted atomic with the landing that awaits it, and an
accepted store on a line that a monitor is armed on. -/
def landC : Landing := ⟨11, 2, 0, false, [(60, 1), (61, 2)], none, some ⟨9, .mem 0x2FFF8, .mem 0x2FFF8, 4, [62, 63], some 1⟩, false, true⟩
def landD : Landing := ⟨12, 2, 0, true, [(31, 1)], none, none, false, true⟩
def landE : Landing := ⟨13, 2, 0, false, [(62, 0), (63, 0)], none, none, true, true⟩
def storeD (fn : Nat) : PStore := ⟨6, 2, 0, 6, .mem 0x2FFF8, .mem 0x2FFF8, .rmw fn 1 2 13, false, none, true⟩
def later (l : Landing) : State := { one with
  iss := ⟨0, 0, none⟩
  landings := [l] }
theorem test_hyps_late_results : (∀ l ∈ [landC, landD, landE], (later l).landings.filter (·.id == l.id) = [l] ∧
      (later l).crew l.crew = some crew2 ∧ (later l).iss = ⟨0, 0, none⟩) ∧ landC.uni = false ∧ landC.awaits = false ∧
    landC.row = none ∧ (∀ m ∈ (later landC).landings, m.id ≠ 11 → m.late = none) ∧ Current (later landC) crew2 (.mem 0x2FFF8) 8 ∧
    landD.uni = true ∧ landD.awaits = false ∧ landD.late = none ∧ landD.row = none ∧ (∀ v ∈ crew2.threads, v.entering = none) := by
  (repeat' with_reducible apply And.intro) <;> (try dsimp only [Current]) <;> decide +kernel

theorem test_hyps_awaited : ∀ fn ∈ [0, 1, 11, 14], let s := { later landE with stores := [storeD fn] }
    s.stores = [] ++ storeD fn :: [] ∧ (∀ q ∈ s.stores, q.op.lands = some 13 → q.id = (storeD fn).id) ∧
      (∃ x ∈ s.landings, x.id = 13 ∧ x.awaits = true ∧ x.uni = false ∧ x.late = none) ∧
      (∀ x ∈ s.landings, x.id = 13 → x.awaits = true) ∧ isNext (exec (.storePerform 6) s) = true ∧ s.memOk = true ∧
      NoMonitor s (.mem 0x2FFF8) (atomSize fn) := by
  dsimp only [NoMonitor]; decide +kernel

theorem test_hyps_armed_store : let s := { armed with stores := [storeB, { storeB with op := .bytes [1, 2, 3, 4] }] }
    laneArmed.watches storeB.place 4 = true ∧ laneArmed.st = .blocked .monitor 0x204 ∧ s.crew 2 = some crewArmed ∧
      crewArmed.thread 127 = some laneArmed := by
  decide +kernel

theorem test_hyps_kvld_row : ∀ n, NoMonitor landing (.spad 1 n) 16 := by
  have h : ∀ c ∈ landing.crews, ∀ t ∈ c.threads, t.monitor = none := by decide +kernel
  intro n c hc t ht
  simp only [Thread.watches, h c hc t ht]

theorem test_hyps_waitc_so : (withLane laneSo).crew 2 = some (crewOf laneSo) ∧ (crewOf laneSo).thread 0 = some laneSo ∧
    laneSo.st = .blocked (.waitcSo 5 0x2FFF0 4) 0x104 ∧ ((withLane laneSo).resolve 1 0 .waitc 0x2FFF0 4).2 = .go ⟨.mem 0x2FFF0, .mem 0x2FFF0, true, false, true⟩ := by
  decide +kernel

/-- BinsAndCollectives: a bin of a quarter, held system calls, and a crew whose two live threads wait at one collective. -/
def request : SyscReq := ⟨5, 1, 0x100, 1, 0, 0, 0, 0, 2, [0], [[16, 0, 0]], none⟩
def holding : World := { world1 with sysHeld := [(7, request)] }
def binning : State := { filing with worlds := [holding] }
def atColl (t : Thread) : Thread := { t with
  st := .coll .tokp true none 0 0x104
  pc := 0x100 }
def collecting : State := { one with crews := [{ crew2 with threads := [atColl lane0, atColl lane127] }] }
theorem test_hyps_bins : binning.nextBin 0 = some binAt ∧ binAt.sysc = none ∧ binning.world 1 = some holding ∧
    holding.sysHeld = (7, request) :: [] ∧ holding.sysRoom = true ∧
    (collecting.crew 2).map (·.liveThreads) = some [atColl lane0, atColl lane127] ∧
    (atColl lane0).st = .coll .tokp true none 0 (0x100 + 4) ∧ (∀ u ∈ [atColl lane127], u.collAt = some 0x100) := by
  decide +kernel

/-- BinsAndCollectives: whatever the collective is, both live threads of a crew wait at it, with the guard `g`. -/
def crewAt (op : CollOp) (g : Bool) : Crew := { crew2 with threads := [lane0, lane127].map fun t => { t with
  st := .coll op g none 0 0x104
  pc := 0x100 } }
def waitingAt (op : CollOp) (g : Bool) : State := { one with
  crews := [crewAt op g]
  units := [{ unit1 with bars := List.replicate 16 ⟨2, 1, 0⟩ }] }
theorem test_hyps_coll_waits (op : CollOp) (g : Bool) : CollWaits (waitingAt op g) (crewAt op g) op 0x100 := by
  refine ⟨rfl, fun e he _ => List.mem_singleton.mp he, { lane0 with
    st := .coll op g none 0 0x104
    pc := 0x100 }, [{ lane127 with
      st := .coll op g none 0 0x104
      pc := 0x100 }], rfl, ⟨g, none, 0, rfl⟩, ?_⟩
  intro u hu
  rw [List.mem_singleton.mp hu]
  rfl

theorem test_hyps_collectives : ((crewAt (.lred 1 7 7 0) true).threads.find? fun (t : Thread) => t.contributes && isMarker (t.x 7)) ≠ none ∧
    ((crewAt (.lred 1 7 2 5) true).threads.find? fun (t : Thread) => t.contributes && isMarker (t.x 2)) ≠ none ∧
    ([atColl lane0].find? fun (t : Thread) => t.contributes && isMarker (t.x 7)) = none ∧
    ((crewAt .tokp false).threads.filter (·.contributes)).length = 0 ∧ ((crewAt .tokp true).threads.filter (·.contributes)).length = 2 ∧
    (crewAt .tokp false).threads.any (·.contributes) = false ∧ (crewAt .tokp true).threads.any (·.contributes) = true ∧
    32 * 0 + 32 ≤ crew2.nuregs ∧ ¬(32 * 1 + 32 ≤ crew2.nuregs) ∧
    (((waitingAt .tokp true).blockRelease (crewAt .tokp true)).launch 1 1 = some launch1) ∧ launch1.desc.array = true ∧
    (((waitingAt .tokp true).blockRelease (crewAt .tokp true)).quarter 0).token ≠ some 2 ∧
    (({ waitingAt .tokp true with quarters := [(0, { Quarter.init with token := some 2 })] }).quarter 0).token = some 2 ∧
    ((waitingAt .tokp true).crewsOn 0 1 1).filter (·.uid != 2) = [] ∧
    (({ one with crews := [crew2, { crew2 with uid := 3 }] }).crewsOn 0 1 1).filter (·.uid != 2) = [{ crew2 with uid := 3 }] ∧
    ((waitingAt (.bar 15 true) true).unit 1).bind (fun k => k.bars[15]?) = some ⟨2, 1, 0⟩ ∧
    (crewAt (.bar 15 true) true).drip = none ∧ ((waitingAt (.bar 15 true) true).quarter 0).bins = [] ∧
    (∀ v ∈ (crewAt (.bar 15 true) true).threads, v.live = true ∧ ∀ x ∈ (crewAt (.bar 15 true) true).threads, x.lane = v.lane → x = v) := by
  (repeat' with_reducible apply And.intro) <;> decide +kernel

/-- ExitsAndPreemption: a block whose crews have ended; a crew that an asynchronous trap may enter, that PREEMPT is asked of
when its world has a save slot, that is in a trap, or in its save routine; a launch that waits to resume. -/
def ended : State := { one with
  units := [{ unit1 with lastExit := true }]
  crews := [{ crew2 with threads := [{ lane0 with st := .exited }] }] }
def asyncs : Async := ⟨mkTrap .engineFault 0 [], none⟩
def preempting : State := { one with
  crews := [{ crew2 with
    asyncQ := [asyncs]
    course := .requested }]
  worlds := [{ world1 with ctl := { world1.ctl with
    savebase := 0x20000
    savelog := 0
    saveslots := 2 } }] }
def unitSmall : BUnit := { unit1 with alloc := 16 }
def savingCrew : Crew := { crewOf laneS with
  priv := 0
  course := .saving
  ctximg := 0x20000 }
def saving : State := { preempting with
  crews := [savingCrew]
  units := [unitSmall] }
def graph5 : Graph := ⟨5, 1, 0, .running, 0, [], [], 0, [], 0, 0⟩
theorem test_hyps_exits : ended.unit 1 = some { unit1 with lastExit := true } ∧ unit1.victim = 0 ∧
    (ended.launch 1 1).map (·.state) = some .running ∧ ended.entries = [] ∧ ended.mcmds = [] ∧
    (∀ c ∈ ended.crews, c.drip = none ∧ c.asyncQ = [] ∧ ∀ t ∈ c.threads, t.live = false) ∧
    one.launch 1 (BitVec.ofNat 32 1) = some launch1 ∧ launch1.graph = 0 ∧ one.launch 1 (BitVec.ofNat 32 5) = none ∧
    (({ one with graphs := [graph5] }).graph 1 (BitVec.ofNat 32 5)).isSome = true ∧ one.nextAsync crew2 = none ∧
    preempting.nextAsync { crew2 with asyncQ := [asyncs] } = some asyncs ∧
    (∀ t ∈ crew2.threads, t.live = true → t.inTrap = false ∧ t.entering = none) := by
  decide +kernel

theorem test_hyps_preemption : preempting.perLaunch (preempting.units.filter fun x => 1 = x.uid ∧ x.mayVictim) = [[unit1]] ∧
    preempting.resumingIn [unit1] = false ∧ (preempting.crewsOfSet [unit1]).length ≤ preempting.slotsLeft 1 ∧
    (preempting.crew 2).map (·.course) = some .requested ∧ saving.crew 2 = some savingCrew ∧ savingCrew.course = .saving ∧
    laneS ∈ savingCrew.threads ∧ laneS.live = true ∧ saving.isLowest savingCrew = true ∧
    (∀ x ∈ saving.crewsOf 1, x.course = .saving) ∧ saving.unit 1 = some unitSmall ∧
    ((saving.world 1).bind fun w => w.slotRest 0x20000) = some 0x100000 ∧
    (saving.performStores (·.crew == 2)).crew 2 = some savingCrew ∧
    engineOff 64 + (sectionOf ((saving.performStores (·.crew == 2)).engineSection savingCrew unitSmall)).length ≤ 0x100000 ∧
    ((saving.performStores (·.crew == 2)).devWrite 1 (0x20000 + engineOff 64)
      (sectionOf ((saving.performStores (·.crew == 2)).engineSection savingCrew unitSmall))).2 = true := by
  (repeat' with_reducible apply And.intro) <;> decide +kernel

/-- The nonzero bytes of an image: magic, version, size, flags, launch, registers, engine offset, capabilities; then the
section of 16 bytes. -/
def imageBytes : Memory :=
  [(0x20000, 67), (0x20001, 88), (0x20002, 84), (0x20003, 73), (0x20004, 1), (0x20008, 16), (0x20009, 173),
    (0x2000c, 2), (0x20010, 1), (0x2001c, 64), (0x2001e, 32), (0x20035, 173), (0x20040, 128), (0x20043, 1),
    (0x20044, 255), (0x20047, 2), (0x20048, 64), (0x20049, 128), (0x2004a, 4), (0x2004b, 3), (0x2004c, 8),
    (0x2004d, 64), (0x2004f, 4), (0x20050, 1), (0x20053, 5), (0x20054, 1), (0x20057, 6), (0x20058, 1), (0x2005b, 7),
    (0x2005c, 2), (0x2005f, 8), (0x20060, 8), (0x20061, 16), (0x20063, 9), (0x20064, 7), (0x20067, 10), (0x2ad04, 16)]

/-- ExitsAndPreemption: a complete image of 64 registers with an empty engine section, under `%ctximg` of the lowest crew (it
passes the checks of its header; its thread records are all zero); a launch with one saved block and room on a die. -/
def imageCrew : Crew := { crewOf laneS with
  course := .resuming
  ctximg := 0x20000 }
def imaged : State := { one with
  crews := [imageCrew]
  mem := imageBytes ++ tables }
theorem test_hyps_restore : imaged.crew 2 = some imageCrew ∧ imaged.isLowest imageCrew = true ∧
    okOf (imaged.imgStatus 1 0x20000) = true := by
  decide +kernel

def savedOne : Saved := ⟨0, 1, [⟨0, 2, 0, [], 0⟩], [0x20000], [0], 1, false⟩
def resumable : State := { one with
  crews := []
  units := []
  launches := [{ launch1 with
    saved := [savedOne]
    order := 4 }]
  plat := { one.plat with dieWorld := [1, 0, 0, 0] } }
theorem test_hyps_resume : (resumable.launches.find? (·.order == 4)).map (·.order) = some 4 ∧
    (resumable.launches.head?.bind fun l => ((List.range 4).filter fun d => (resumable.chosen d).any (·.order == 4)).findSome?
      (resumable.resumeDie l)).isSome = true := by
  decide +kernel

/-- SystemCallReplies: the oldest request of a crew, waiting lanes, and names that no request has. -/
def calling : State := { one with worlds := [{ world1 with requests := [request] }] }
theorem test_hyps_replies : (calling.world 1).map (·.requests) = some [request] ∧
    [request].find? (fun r => r.reqid == 5 && r.reply.isNone) = some request ∧ calling.crew 2 = some crew2 ∧
    crew2.course = .normal ∧ [request].find? (fun r => r.reqid == 6 && r.reply.isNone) = none ∧
    (∀ x ∈ [request].takeWhile (fun x => x.reqid != 5), x.crew ≠ request.crew) ∧ [request].any (fun r => r.reqid == 5) = true ∧
    ({ request with
      lanes := [0, 127]
      args := [[16, 0, 0], [16, 0, 3]] }).args.length = 2 ∧
    ({ lane0 with st := .blocked (.sysc 5) 0x104 }).st = .blocked (.sysc 5) 0x104 ∧
    (([16, 0, 3] : List Word).getD 2 0).toNat > 2 := by
  decide +kernel

/-- MatrixPerforms: each kind of command at the head of its order, and a command whose launch has a receiver. -/
def mcmdOf (k : MKind) : MCmd := { issuedCmd one crew2 lane0 k 0 1 with id := 7 }
def performing (k : MKind) : State := { one with
  mcmds := [mcmdOf k]
  quarters := [(0, { Quarter.init with order := [7] })] }
theorem test_hyps_matrix_perform : ∀ k ∈ [MKind.mldst, .mswap, .mma, .mst, .maccclr, .maccrd, .mstat, .accdat, .accstat],
    (performing k).headCmd 0 = some (mcmdOf k) ∧ (performing k).cmdReady (mcmdOf k) = true ∧ (mcmdOf k).follow = none ∧
    (mcmdOf k).kind = k ∧ (performing k).unit 1 = some unit1 ∧ (performing k).crew 2 = some crew2 ∧
    crew2.thread 0 = some lane0 ∧ (performing k).mcmds.find? (·.id == 7) = some (mcmdOf k) ∧
    ((performing k).receiverOf 1 2 0).isSome = true ∧ tabWf (fun _ => Quarter.init) (performing k).quarters = true ∧
    0 < (mcmdOf k).nq := by
  decide +kernel

theorem test_hyps_array_tables : ∀ k ∈ List.range 5, tabWf (fun _ => (0 : Word)) ((performing .mma).quarter k).acc = true ∧
    tabWf (fun _ => (0 : Word)) ((performing .mma).quarter k).rowst = true := by
  decide +kernel

theorem test_hyps_accumulators : (63 : Nat) < 64 ∧ tabWf (fun _ => (0 : Word)) Quarter.init.rowst = true := by
  decide

/-- EngineSteps, ExchangeSteps, RoostsAndGangs: an entry of each kind, queued, running or waiting for a page. -/
def entryOf (cmd : Cmd) (w : List Word) : Entry := { issuedEntry one crew2 lane0 unit1 cmd 0 w 16 [] 0 with
  id := 7
  phase := .running }
def running (e : Entry) : State := { one with
  entries := [e]
  launches := [{ launch1 with desc := { launch1.desc with handlers := [⟨⟨8, [0x10000]⟩, 0, 16⟩] } }] }
def copyWords : List Word := [0, 0, 0x80000000, 0, 0x3FF0, 0, 0x2000, 0, 16, 0x50000000, 0, 0, 0, 0, 0, 0]
def copyEntry (c : Cmd) : Entry := entryOf c copyWords
/-- Sources on a page that denies reads, and on one that is absent. -/
def denied : Entry := entryOf .cpy [0, 0, 0x80000000, 0, 0x30000, 0, 0x2000, 0, 16, 0x10000000, 0, 0, 0, 0, 0, 0]
def onBad (e : BitVec 128) : State := { running denied with
  worlds := [{ world1 with coreTlb := [(0, [(0x30000, 0, e)])] }] }

theorem test_hyps_engine_start : (running { copyEntry .cpy with phase := .queued }).isHead { copyEntry .cpy with phase := .queued } = true ∧
    (running { copyEntry .cpy with phase := .queued }).unitOut 1 = false ∧ (copyEntry .cpy).fin = none := by
  decide +kernel

theorem test_hyps_running : ∀ c ∈ [Cmd.cpy, .cpy2d, .cpymx, .cpyred, .qfence, .qwait, .hread, .xsort, .a2av, .areduce, .rput, .rget,
    .ratom, .rflush, .roost, .gang], Running (running (copyEntry c)) (copyEntry c) c ∧ (running (copyEntry c)).unit 1 = some unit1 := by
  dsimp only [Running]; decide +kernel

theorem test_hyps_copies : okPair ((running (copyEntry .cpy)).moveCopy (copyEntry .cpy)) = true ∧
    okPair ((running (copyEntry .cpymx)).moveCopy (copyEntry .cpymx)) = true ∧
    (match ((onBad (BitVec.ofNat 128 (0x30000 * 2 ^ 64 + 0x4B))).moveCopy denied).2 with
      | .perm _ => true
      | _ => false) = true ∧
    (match ((onBad (BitVec.ofNat 128 ((7 * 2 ^ 40 + 3) * 2 ^ 64 + 0xEB))).moveCopy denied).2 with
      | .miss .. => true
      | _ => false) = true ∧
    (copyEntry .cpyred).source.spad = true ∧ ((copyEntry .cpyred).dest unit1).spad = true ∧
    ({ copyEntry .cpy with phase := .waitPage }).phase = .waitPage ∧
    (running { copyEntry .cpy with phase := .abandoned }).entry 7 = some { copyEntry .cpy with phase := .abandoned } ∧
    (∀ c ∈ (running (copyEntry .cpy)).crews, c.unit = 1 → c.course ≠ .saving) := by
  (repeat' with_reducible apply And.intro) <;> decide +kernel

theorem test_hyps_last_drip : let e : Entry := { entryOf .hread [] with progress := [2, 0] }
    dripCrew.drip = some ⟨7, 0, 0, 0⟩ ∧ ({ leaving dripCrew [] with entries := [e] }).entry 7 = some e ∧ 2 ≤ e.progress.length ∧
      e.retired.length + 1 + e.failed.length < e.progress.getD 0 0 := by
  decide +kernel

/-- EngineSteps: a new burst of a handler read, with its queue empty and full, local and remote; a drip that may be born; a
withdrawal; a router of one token. -/
def hreadWords : List Word := [0, 0, 0x80000000, 0, 0x20000, 0, 0x10010, 16, 0, 0, 0, 0, 0, 0, 0, 0]
def hreadEntry (qid : Nat) : Entry := { entryOf .hread hreadWords with
  qid
  progress := [1, 0] }
def burstQueue (n : Nat) : State := { running (hreadEntry 0) with
  bursts := (List.range n).map fun k => ⟨8, k, 0, []⟩ }
theorem test_hyps_bursts : Running (running (hreadEntry 0)) (hreadEntry 0) .hread ∧ (running (hreadEntry 0)).burstNew (hreadEntry 0) 0 = true ∧
    (running (hreadEntry 128)).burstNew (hreadEntry 128) 0 = true ∧ (hreadEntry 0).retries < 3 ∧
    okPair ((running (hreadEntry 0)).readGroups (hreadEntry 0) ((hreadEntry 0).burstGroups 0)) = true ∧
    (burstQueue 64).burstNew (hreadEntry 0) 0 = true ∧
    64 ≤ ((burstQueue 64).bursts.filter fun x => x.core == (burstQueue 64).dripCore (hreadEntry 0)).length := by
  (repeat' with_reducible apply And.intro) <;> (try dsimp only [Running]) <;> decide +kernel

def birth : State := { running (hreadEntry 0) with bursts := [⟨7, 0, 0, [1, 2, 3, 4]⟩] }
theorem test_hyps_drips : birth.dripsOn 0 0 < 2 ∧ birth.oldestBurst 0 = some (⟨7, 0, 0, [1, 2, 3, 4]⟩, hreadEntry 0) ∧
    birth.unit 1 = some unit1 ∧ ((birth.launch 1 1).bind fun l => l.desc.handlers[(hreadEntry 0).word 9 / 2 ^ 28 % 16]?) =
      some ⟨⟨8, [0x10000]⟩, 0, 16⟩ ∧
    2 ≤ ({ birth with crews := [{ crew2 with drip := some ⟨7, 0, 0, 0⟩ }, { crew2 with drip := some ⟨7, 1, 0, 0⟩ }] }).dripsOn 0 0 := by
  decide +kernel

theorem test_hyps_withdrawal : ∀ c ∈ [Cmd.a2av, .areduce, .gang], (running (copyEntry c)).entry 7 = some (copyEntry c) ∧
    (copyEntry c).phase ≠ .queued ∧ (copyEntry c).phase ≠ .saved ∧ (copyEntry c).fin = none ∧ (copyEntry c).cmd = c := by
  decide +kernel

def sortEntry : Entry := entryOf .xsort [0, 0, 0x80000000, 0, 0x1000, 0, 0x1010, 0, 0x10000001, 1, 1, 0, 0x1020, 0, 0x15, 0]
theorem test_hyps_router : okPair ((running sortEntry).readAll sortEntry [(true, 0x1000, 2), (true, 0x1010, 2)]) = true ∧
    okOf (routerSort 1 1 1 1 0 [0, 0] [0, 0]) = true ∧ okOf (routerSort 1 1 1 1 0 [1, 0] [0, 0]) = false ∧
    okPair ((running sortEntry).writeAll sortEntry [(true, 0x1020, 0x1020, [0, 0, 0, 0])]) = true := by
  decide +kernel

/-- ExchangeSteps: a group of the device alone and one of two ranks in which it is rank 1, entries that joined it as it is and
as it was, the counts of an exchange that agree and that do not, windows of each right, and one-sided commands whose local
side is the scratchpad. -/
def groupWorld : World := { world1 with fab := { world1.fab with
  grptab := 0x20000
  ngrp := 1
  wintab := 0x20100
  nwin := 2 } }
/-- Entry 0 of the group table names one rank, listed at 0x20080; window 1 is 4 KiB at 0x20000 with every right. -/
def groupMem : Memory := [(0x20000, 1), (0x20008, 0x80), (0x2000A, 2), (0x20122, 2), (0x20129, 0x10), (0x20130, 0x0F)]
/-- The same of the ranks 1 and 0. -/
def groupMem2 : Memory := [(0x20000, 2), (0x20008, 0x80), (0x2000A, 2), (0x20080, 1), (0x20122, 2), (0x20129, 0x10), (0x20130, 0x0F)]
def exchangingOn (m : Memory) (e : Entry) : State := { running e with
  worlds := [groupWorld]
  mem := m ++ tables }
def exchanging (e : Entry) : State := exchangingOn groupMem e
/-- What an entry of the group records when it joins. -/
def joined (n : Nat) (ranks : List Byte) : List Byte :=
  [BitVec.ofNat 8 n, 0, 0, 0, 0, 0, 0, 0, 0x80, 0, 2, 0, 0, 0, 0, 0, 0, 0, 0, 0, 0, 0, 0, 0, 0, 0, 0, 0, 0, 0, 0, 0] ++ ranks
def exEntry (c : Cmd) (w : List Word) : Entry := { entryOf c w with
  img := joined 1 [0, 0]
  progress := [1] }
def areduceEntry : Entry := exEntry .areduce [0, 0, 0x80000000, 0, 0x20000, 0, 0x20010, 0, 4, 0, 0, 0, 0, 0, 0, 0]
def a2avWords : List Word := [0, 0, 0x80000000, 0, 0x21000, 0, 0x21010, 0, 0x21020, 0, 0, 0, 0x21030, 0, 0x21040, 0]
def a2avEntry : Entry := exEntry .a2av a2avWords
def beginning (c : Cmd) : Entry := { exEntry c a2avWords with
  img := joined 2 [1, 0, 0, 0]
  progress := [] }
def begun (c : Cmd) : State := exchangingOn groupMem2 (beginning c)
theorem test_hyps_instance_begins : (∀ c ∈ [Cmd.a2av, .areduce, .gang],
      Running (begun c) (beginning c) c ∧ (beginning c).progress = [] ∧
      ((begun c).groupOf 1 0).map (fun g => (g.1, g.2.1, g.2.2)) = some (joined 2 [], [1, 0], 1) ∧
      (begun c).groupChanged (beginning c) = false ∧ (begun c).groupBad 1 (joined 2 []) [1, 0] = none ∧
      (exchanging (beginning c)).groupChanged (beginning c) = true ∧
      (∀ r, r < 2 → r ≠ 1 → [c.groupKind].getD r c.groupKind = c.groupKind) ∧
      [c.groupKind + 1].getD 0 c.groupKind ≠ c.groupKind) ∧
    (begun .a2av).groupBad 1 (joined 2 []) [1, 1] = some 1 ∧ ([0, 0] : List Nat).length ≠ 1 ∧
    okPair ((begun .a2av).readMeta (beginning .a2av) 2) = true ∧
    okPair ((begun .areduce).cmdRead (beginning .areduce) 0x21000 0x21000 16) = true ∧
    (exchanging { a2avEntry with progress := [] }).groupChanged { a2avEntry with progress := [] } = false := by
  (repeat' with_reducible apply And.intro) <;> (try dsimp only [Running]) <;> decide +kernel

/-- The same entry at group rank 0: alone, and of two ranks. -/
def beginning0 (m : List Byte) : Entry := { exEntry .areduce a2avWords with
  img := m
  progress := [] }
def groupMem3 : Memory := [(0x20000, 2), (0x20008, 0x80), (0x2000A, 2), (0x20082, 1), (0x20122, 2), (0x20129, 0x10), (0x20130, 0x0F)]
theorem test_hyps_root_begins : ∀ x ∈ [(groupMem, joined 1 [0, 0], [0]), (groupMem3, joined 2 [0, 0, 1, 0], [0, 1])],
    let s := exchangingOn x.1 (beginning0 x.2.1)
    Running s (beginning0 x.2.1) .areduce ∧ (s.groupOf 1 0).map (fun g => (g.2.1, g.2.2)) = some (x.2.2, 0) ∧
      s.groupChanged (beginning0 x.2.1) = false ∧ okPair (s.cmdRead (beginning0 x.2.1) 0x21000 0x21000 16) = true := by
  simp only [List.forall_mem_cons, Running]
  decide +kernel

theorem test_hyps_groups : ((exchanging a2avEntry).groupOf 1 0).map (fun g => (g.2.1, g.2.2)) = some ([0], 0) ∧
    (∀ e ∈ [a2avEntry, areduceEntry], Running (exchanging e) e e.cmd ∧ (exchanging e).groupChanged e = false ∧ e.progress = [1]) ∧
    okPair ((exchanging a2avEntry).readMeta a2avEntry 1) = true ∧
    okPair ((exchanging a2avEntry).readParts a2avEntry [(0, 0)]) = true ∧
    okPair ((exchanging areduceEntry).cmdRead areduceEntry 0x20000 0x20000 16) = true ∧
    okPair ((exchanging areduceEntry).writeAll areduceEntry [(false, 0x20010, 0x20010, List.replicate 16 0)]) = true ∧
    countVerdict [⟨0, 0, [(0, 0)]⟩] = none ∧ (countVerdict [⟨0, 0, [(0, 16)]⟩]).isSome = true ∧
    okPair ((exchanging a2avEntry).writeAll a2avEntry [(false, 0x21030, 0x21030, List.replicate 16 0)]) = true ∧
    (triplesOf [0, 16, 0])[0]? = some (0, 16, 0) ∧
    okPair ((exchanging a2avEntry).cmdRead a2avEntry 0x21040 0x21040 4) = true ∧
    okPair ((exchanging a2avEntry).writeAll a2avEntry
      [(false, 0x21020, 0x21020, List.replicate 16 0), (false, 0x21040, 0x21040, [1, 0, 0, 0])]) = true := by
  (repeat' with_reducible apply And.intro) <;> (try dsimp only [Running]) <;> decide +kernel

theorem test_hyps_windows : (exchanging a2avEntry).saving = false ∧ ({ one with ckpt := { one.ckpt with stat := 1 } }).saving = true ∧
    (running a2avEntry).groupOf 1 a2avEntry.group = none ∧ a2avEntry.progress = [1] ∧
    ((exchanging a2avEntry).windowEntry groupWorld 1).isSome = true ∧ (exchanging a2avEntry).windowEntry groupWorld 2 = none := by
  decide +kernel

def putEntry (c : Cmd) : Entry := { entryOf c [0, 0, 0x80000000, 0, 0x1000, 0, 0, 0, 16, 0x44000000, 0, 0, 0, 0, 0, 0] with kind := 2, endpoint := 2 ^ 32 * 3 }
def unplacing (lost : Bool) : State :=
  let e := putEntry .rflush
  { running e with plat := { one.plat with peers := [(9, { Peer.init 9 with
      unacked := [⟨9, 8, 0, 0, some (2, 0), (e.unit, e.qkey, e.endpoint), 0, some 2, 5, 1, 0, 16, lost⟩] })] } }
theorem test_hyps_one_sided :
    okPair ((running (putEntry .rput)).readAt (putEntry .rput) (putEntry .rput).loc.1 (putEntry .rput).loc.2.1 (putEntry .rput).loc.2.2 16) = true ∧
    okPair ((running (putEntry .rget)).writeLoc (putEntry .rget) (List.replicate 16 0)) = true ∧
    (∀ c ∈ [Cmd.rput, .rget, .ratom], (running (putEntry c)).loopback (putEntry c) = false) ∧
    (putEntry .ratom).rv = true ∧ (putEntry .ratom).loc.1 = true ∧
    (running (putEntry .rflush)).putsUnplaced (putEntry .rflush) true = false ∧
    (running (putEntry .rflush)).putsUnplaced (putEntry .rflush) false = false ∧
    (∀ b, (unplacing b).putsUnplaced (putEntry .rflush) b = true) ∧ (putEntry .rput).progress = [] ∧
    ({ putEntry .rput with progress := [1] }).progress ≠ [] := by
  decide +kernel

/-- Requests to windows: the right that the entry gives and pages that permit the access; window 0 gives none. -/
theorem test_hyps_window_rights :
    ((exchanging a2avEntry).windowEntry groupWorld 1).map (fun e => (bitN e.2.2 1, bitN e.2.2 2, bitN e.2.2 3, bitN e.2.2 4)) =
      some (true, true, true, false) ∧
    (exchangingOn [(0x20110, 1)] a2avEntry).windowEntry groupWorld 0 = some (0, 0, 1) ∧
    ((exchanging a2avEntry).windowPages 1 .write 0x20FF0 16).isSome = true ∧
    ((exchanging a2avEntry).windowPages 1 .read 0x20FF0 16).isSome = true := by
  decide +kernel

/-- RoostsAndGangs: a roost unknown, known and busy; a rouse that no entry of this device made; a gang that fits and one that
is too late; every state of a roost that a timer or a page finds. -/
def roostEntry : Entry := entryOf .roost [0, 0, 0x80000000, 0, 0x20000, 0, 16, 63, 0, 0, 0, 0, 0, 0, 0, 0]
def roostOf0 (st : RState) (tier : Nat) : Roost := ⟨0, 1, st, 0x20000, 16, 0, 0, 0, 50, 2000, tier, false, []⟩
def roosting (st : RState) (tier : Nat) : State := { running roostEntry with
  seqs := [{ kvSeq with id := 0 }]
  roosts := [roostOf0 st tier] }
/-- The window of the sequence is past its first page, which is on its way. -/
def passing : State := { running roostEntry with
  seqs := [{ kvSeq with
    id := 0
    ws := 5000
    pages := [kvPage 0 3 false] }]
  roosts := [roostOf0 .roused 3] }
theorem test_hyps_roosts : (running roostEntry).seq roostEntry.group = none ∧
    (roosting .resident 0).seq roostEntry.group = some { kvSeq with id := 0 } ∧
    ({ roosting .resident 0 with roosts := [] }).roostOf roostEntry.group = none ∧
    (∀ st ∈ [RState.resident, .descent1, .low1, .roused, .queued], (roosting st 0).roostOf 0 = some (roostOf0 st 0)) ∧
    (roosting .low1 0).localRouse 0 1 = none ∧ (roosting .low1 0).saving = false ∧
    (roosting .roused 3).itemKept 0 0 = true ∧ passing.itemTier 0 1 = 3 ∧ passing.itemKept 0 1 = false ∧
    ((roosting .low1 0).rouse (roostOf0 .low1 0) 1).localRouse 0 1 = none ∧ (roosting .low1 0).ckpt.hold = false ∧
    tierKind ((roosting .descent1 4).itemTier 0 0) = 4 ∧
    (((roosting .descent1 4).itemLeft 0 0).setItemTier 0 0 0).roostOf 0 = some (roostOf0 .descent1 0) ∧
    (roosting .roused 3).itemTier 0 0 = 3 ∧ (roosting .roused 3).itemOut 0 0 = [] ∧
    (∃ x ∈ ({ roosting .roused 3 with roosts := [{ roostOf0 .roused 3 with stateOut := [(5, true, [])] }] }).itemOut 0 0,
      ({ roosting .roused 3 with roosts := [{ roostOf0 .roused 3 with stateOut := [(5, true, [])] }] }).ascendsTo 0 7 x.1 = none) := by
  decide +kernel

/-- A launch descriptor at VA 0x20000: one core, one crew, one block, 16 and 32 registers, an image of 4 bytes. -/
def descBytes : Memory := [(0x20000, 1), (0x20009, 0x10), (0x2000A, 2), (0x20010, 4), (0x20018, 0x10), (0x2001A, 0x20), (0x20024, 1),
  (0x20025, 1), (0x20028, 1)]
def ganging : State := { one with
  mem := descBytes ++ tables
  plat := { one.plat with
    ptpLocked := true
    dieWorld := [1, 0, 0, 0] } }
def gang0 (committed : Bool) : Gang := ⟨3, 1, 0, 200000, LDesc.init, committed, [0], 1⟩
def a2avTick : Nat := (exEntry .gang a2avWords).word 6 + 2 ^ 32 * (exEntry .gang a2avWords).word 7
theorem test_hyps_gangs : okOf (ganging.gangCheck 1 0x20000 100001 0) = true ∧ okOf (ganging.gangCheck 1 0x20000 100000 0) = false ∧
    ganging.gangEntry 1 200000 = none ∧ ({ ganging with gangs := [gang0 false] }).gangs.find? (·.id == 3) = some (gang0 false) ∧
    ({ ganging with gangs := [gang0 false] }).gangFor 1 200000 = some (gang0 false) ∧ (gang0 true).committed = true ∧
    ((ganging.acceptLaunch 1 0 LDesc.init 0 0 fun l => l).2.gangEntry 1 200000) = none ∧
    (∀ k ∈ ([0, 0] : List Nat), k = 0) ∧ ([0, 3] : List Nat).getD 1 0 ≠ 0 ∧
    (exchangingOn groupMem2 (exEntry .gang a2avWords)).groupChanged (exEntry .gang a2avWords) = true ∧
    ((exchanging (exEntry .gang a2avWords)).gangEntry 1 (a2avTick)).isSome = true := by
  decide +kernel

/-- Scheduling: a tail at the depth of the ring and one past it; the head entry may be taken; a held job; units claimed and
not; a launch that waits at priority 7; a launch that a die can place; crews that the throttle holds. -/
def kicking : State := { one with worlds := [{ world1 with
  kicks := [(63, { KickPage.init with
    enable := true
    tail := 16 })]
  ctl := { world1.ctl with
    jobHeld := true
    claimimg := 0x20000 } }] }
def waitingLaunch : Launch := { Launch.init 1 1 0 LDesc.init with
  eff := 7
  order := 4 }
def scheduling : State := { one with
  crews := []
  units := []
  launches := [waitingLaunch]
  plat := { one.plat with dieWorld := [0, 0, 0, 1] } }
/-- Two crews of a core, of which the throttle holds one. -/
def throttling : State := { one with
  crews := [crew2, { crew2 with uid := 3 }]
  throttled := [2] }
theorem test_hyps_scheduling : ((16 : Word) - 0).toNat ≤ 2 ^ KickPage.init.logDepth ∧
    2 ^ KickPage.init.logDepth < ((17 : Word) - 0).toNat ∧
    ((kicking.world 1).map fun w => (w.kickPage 63).enable && (w.kickPage 63).head != (w.kickPage 63).tail &&
      (w.kickPage 63).live == 0 && !w.ctl.jobEnded && (w.kickPage 63).heldEntries.isEmpty && w.ctl.jobHeld) = some true ∧
    ({ KickPage.init with heldEntries := [(0, 5)] }).heldEntries.find? (·.1 == (0 : Word)) = some (0, 5) ∧
    (resumable.savedAt 1 0x20000 false).map (·.2) = some savedOne ∧ resumable.savedAt 1 0x20000 true = none ∧
    ({ resumable with launches := [{ launch1 with saved := [{ savedOne with claimed := true }] }] }.savedAt 1 0x20000 true).isSome = true ∧
    kicking.savedAt 1 0x20000 false = none ∧
    scheduling.launches.find? (·.order == 4) = some waitingLaunch ∧ scheduling.ready waitingLaunch = true ∧ waitingLaunch.eff < 8 ∧
    waitingLaunch.state = .queued ∧ scheduling.chosen 3 = some waitingLaunch ∧ (∀ v ∈ waitingLaunch.saved, v.claimed = true) ∧
    scheduling.placeOn waitingLaunch.desc 1 1 3 = some [192] ∧ scheduling.fits { waitingLaunch with eff := 8 } = true ∧
    pickBy Launch.before ([{ waitingLaunch with eff := 8 }].filter fun l => l.world == 1 && l.eff == 8 &&
      ({ scheduling with launches := [{ waitingLaunch with eff := 8 }] }).ready l) = some { waitingLaunch with eff := 8 } ∧
    ((throttling.ranked 0).filter fun (c : Crew) => !throttling.throttled.contains c.uid).getLast?.map (·.uid) = some 3 ∧
    2 ∉ throttling.swapped ∧ 2 ∈ throttling.throttled ∧ 3 ∈ ({ throttling with swapped := [3] }).swapped ∧
    ({ world1.ctl with jobEnded := true }).jobEnded = true ∧ ({ scheduling with launches := [] }).worldBusy 1 = false := by
  (repeat' with_reducible apply And.intro) <;> decide +kernel

/-- Scheduling: a launch at priority 8 that finds no cluster: on cluster 0 a block that may be a victim fills a scratchpad, on each
other cluster of the die one that is leaving does; there is a save slot, and none. -/
def fillUnit (k victim : Nat) : BUnit := { probeUnit with
  uid := k + 1
  cores := [8 * k]
  alloc := 524288
  victim }
def hungry : Launch := { Launch.init 2 1 0 { LDesc.init with
    block := 8
    scratch := 16 } with
  eff := 8
  order := 5 }
def starving (slots : Nat) : State := { one with
  units := fillUnit 0 0 :: (List.range 7).map fun k => fillUnit (k + 1) 1
  launches := [launch1, hungry]
  worlds := [{ world1 with ctl := { world1.ctl with
    savebase := 0x20000
    savelog := 0
    saveslots := slots } }]
  plat := { one.plat with
    dieWorld := [1, 0, 0, 0]
    devtime := BitVec.ofNat 64 (2 ^ 64 - 1) } }
theorem test_hyps_starving : ∀ n ∈ [0, 1],
    pickBy Launch.before ((starving n).launches.filter fun l => l.world == 1 && l.eff == 8 && (starving n).ready l) = some hungry ∧
    (starving n).fits hungry = false ∧ ((starving n).reserved.any fun r => r.world == 1 && r.launch == hungry.handle) = false := by
  decide +kernel

/-- At the end of time a sample of it is the same time again. -/
theorem sampleTime_last (s : State) (h : s.plat.devtime = BitVec.ofNat 64 (2 ^ 64 - 1)) :
    s.sampleTime = { s with freeCtr := s.freeCtr + 1 } := by
  have hd : s.plat.devtime.toNat = 2 ^ 64 - 1 := by rw [h]; rfl
  unfold State.sampleTime State.free
  simp only [hd]
  split
  · rename_i hlt
    have h0 : Config.elapsed s.freeCtr = 0 := by omega
    rw [h0, ← hd, Nat.add_zero, BitVec.ofNat_toNat, BitVec.setWidth_eq]
  · rfl

theorem test_hyps_victims (n : Nat) (hn : n ∈ [0, 1]) : let t := ((starving n).arm (.starvationPreempt 1)).sampleTime
    t.gather hungry (t.victims hungry false ++ t.victims hungry true) [] =
      if n = 0 then none else some [fillUnit 0 0] := by
  intro t
  have ht : t = { (starving n).arm (.starvationPreempt 1) with freeCtr := (starving n).freeCtr + 1 } := sampleTime_last _ rfl
  rw [ht]
  clear ht t
  revert n hn
  decide +kernel

theorem test_hyps_requested : (starving 1).crew 2 = some crew2 ∧ crew2.drip = none ∧ (∃ u ∈ [unit1], u.uid = crew2.unit) ∧
    crew2.asyncQ.length < 16 ∧ (∀ h, Event.kernelBoundary 1 h ∉ kicking.agenda) ∧
    (∀ x ∈ (starving 1).launches, ∀ y ∈ (starving 1).launches, x.order = y.order → x.sub = y.sub) := by
  refine ⟨by decide +kernel, rfl, by decide +kernel, by decide +kernel, fun h hm => ?_, by decide +kernel⟩
  have e : kicking.agenda = [] := by decide +kernel
  rw [e] at hm
  cases hm

/-- FramesAndServices: an invalidation queued and one that waits; a parked sub-group that can post; a service in each phase; an
Evicting and a Clean frame; a stream that reads its counter. -/
def pageName : Nat := 7
def frameAt (st : FState) : Frame := ⟨7, 3, 0, 255, 0, false, st⟩
def serviceAt (p : SPhase) (up : Bool) : Service :=
  { id := 5, world := 1, job := 7, page := 3, write := up, phase := p, resume := .fill, attempts := 3
    waiters := [(0, .group 4, false, false)], frame := some 6, held := false, upgrade := up, storage := false
    pinDeferred := false, code := 0, hold := true, pinOnInstall := false, prefetch := false
    home := none, victim := none, present := [] }
def dirAt (st : DState) : DirEnt :=
  { job := 7, page := 3, dataver := 1, owner := 2, holders := [], all := false, st, homekind := 3, homerank := 0, homeaddr := 0
    req := 1, reqRank := 2, acks := [], held := none, wattempts := 0, wdeclined := false, waiting := [] }
def group4 : Group := ⟨4, 2, 1, 0, 0, false, [0], 0x100, 7, 3, true, 0, none, [], 0, 0⟩
def caching (st : FState) (p : SPhase) (up : Bool) : State := { one with
  frames := [(6, frameAt st)]
  services := [serviceAt p up]
  dir := [dirAt .idle]
  groups := [group4]
  worlds := [{ world1 with
    trans := { world1.trans with queue := List.replicate 15 (0, 1) }
    streams := [(15, { Stream.init with
      ahead := 1
      ctr := 0x20000
      extlist := 0x20010
      nextCnt := 1 })] }] }
theorem test_hyps_services_pages : ((caching .filling .fill false).world 1).map (·.trans.queue.length) = some 15 ∧
    ((caching .filling .fill false).world 1).map (fun w => w.trans.queue.head?) = some (some (0, 1)) ∧
    (caching .filling .fill false).groups.find? (·.id == 4) = some group4 ∧ (caching .filling .fill false).crew 2 = some crew2 ∧
    ((caching .filling .fill false).postFault 0 1 { FqEntry.init with job := 7 }).2.isSome = true ∧
    (∀ p ∈ [SPhase.lookup, .fill, .backoff], (caching .filling p false).service 5 = some (serviceAt p false)) ∧
    (serviceAt .fill false).isOpen = true ∧ (serviceAt .fill false).frame = some 6 ∧ ((caching .filling .fill false).frame 6).st = .filling ∧
    (serviceAt .fill false).hold = true ∧ ((caching .filling .lookup false).fillPhase (serviceAt .lookup false) true).dirEnt 7 3 =
      some (dirAt .idle) ∧ 3 ≤ (serviceAt .lookup false).attempts ∧ ({ serviceAt .lookup false with attempts := 2 }).attempts < 3 ∧
    (serviceAt .fill true).upgrade = true ∧ ((caching .clean .fill true).frame 6).st = .clean ∧
    ((caching .clean .fill true).ownedOf 7 3).ver = 0 ∧ ((caching .evicting .fill true).frame 6).st = .evicting ∧
    ((caching .evicting .fill true).ownedOf 7 3).pinWait = false ∧
    (caching .evicting .fill true).frameOf 7 3 = some (6, frameAt .evicting) ∧ (caching .filling .fill false).ckpt.stuck = false ∧
    (((caching .filling .fill false).postFault 0 1 { FqEntry.init with job := 7 }).1.ckpt = (caching .filling .fill false).ckpt) ∧
    (({ caching .filling .lookup false with dir := [] }).fillPhase (serviceAt .lookup false) true).dirEnt 7 3 = none ∧
    (serviceAt .lookup false).write = false ∧ (serviceAt .lookup false).phase = .lookup := by
  (repeat' with_reducible apply And.intro) <;> decide +kernel

theorem test_hyps_streams : let t := (caching .clean .fill false).arm (.prefetchTick 1 15)
    let x := (caching .clean .fill false).worlds.head?.map fun w => w.stream 15
    (x.map (·.ahead)) = some 1 ∧ (t.devRead 1 0x20000 4).isSome = true ∧ (x.bind (t.extents 1)).isSome = true := by
  decide +kernel

/-- HomeDirectory: a line in each state of its home that a clause names, with the message that arrives in its turn, and one
that another on its channel precedes. -/
def lineAt (home : HomeSt) (agents : Tab AgentSt) : Line := { Line.new (2 ^ 40 - 128) with
  home
  agents }
def last : Nat := 2 ^ 40 - 128
def snooped : Line := { lineAt (.busyX 4 [0] false) [(0, .m), (4, .im)] with snoops := [(0, .inv)] }
def forwarded (st : AgentSt) : Line := { lineAt (.busyF 0 4 []) [(0, st), (4, .is)] with snoops := [(0, .fwdS)] }
def granted : Line := { lineAt (.hx 0) [(0, .is)] with snoops := [(0, .dataE)] }
def deferring : Line := { lineAt (.busyX 4 [0] false) [(0, .im), (4, .im)] with
  snoops := [(0, .dataM)]
  deferred := [(0, .fwdX)] }
def lines (l : Line) (f : List Event) : State := { one with
  lines := [l]
  flying := f }
def acked : Line := { lineAt .hi [] with snoops := [(0, .ack)] }
theorem test_hyps_lines : lineOk last 5 = true ∧ lineOk 0 0 = true ∧
    (∀ x ∈ [(lineAt .hi [], Event.homeRds last 4), (lineAt (.hs [5]) [(5, .s)], .homeRdx last 4),
      (lineAt (.hx 0) [(0, .m)], .homeRds last 4), (lineAt (.ho 0 [1]) [(0, .o), (1, .s)], .homeRdx last 5),
      (lineAt (.busyX 0 [1] false) [(0, .im), (1, .m)], .homeRds last 4), (lineAt (.hs [0, 4]) [(0, .s), (4, .s)], .homeUpg last 4),
      (lineAt (.ho 0 [4]) [(0, .o), (4, .s)], .homeUpg last 0), (lineAt (.hx 0) [(0, .mi)], .homeWb last 0),
      (lineAt (.hx 4) [(0, .ii), (4, .m)], .homeWb last 0), ({ lineAt (.hx 0) [] with reqs := [(.eve, 0)] }, .homeEve last 0),
      ({ lineAt .hi [] with reqs := [(.eve, 0)] }, .homeEve last 0), (acked, .agentWbackReceive last 0),
      ({ lineAt (.busyX 5 [0] true) [(5, .sm)] with acks := [0] }, .homeAckReceive last 0),
      ({ lineAt (.busyF 0 4 []) [(0, .o), (4, .is)] with acks := [0] }, .homeAckReceive last 0),
      (lineAt (.busyWb 0 [4]) [(0, .mi), (4, .s)], .homeMemoryWriteDone last), (snooped, .agentInv last 0),
      (forwarded .e, .agentFwds last 0), (forwarded .im, .agentFwds last 0), (granted, .agentDataReceive last 0),
      (deferring, .agentDataReceive last 0), (lineAt (.hx 0) [(0, .e)], .agentLineDrop last 0)],
      (lines x.1 [x.2]).net.inTurn x.2 = true ∧ (lines x.1 [x.2]).line last = x.1 ∧ x.1.addr = last) ∧
    (lines granted [.agentDataReceive last 0, .agentGrantReceive last 0]).net.inTurn (.agentGrantReceive last 0) = false ∧
    (lineAt (.hx 0) [(0, .m)]).agent 4 = .i ∧ (lineAt (.hx 0) [(0, .mi)]).agent 0 = .mi ∧ 5 ∈ [5] ∧
    ((lineAt (.busyX 0 [1] false) []).home.busy = true) ∧
    (snooped.took 0 (· == Snoop.inv)).map (fun p => (p.1, p.2.reqs)) = some (.inv, []) ∧
    ((forwarded .e).took 0 (· == Snoop.fwdS)).map (fun p => (p.1, p.2.requester)) = some (.fwdS, some 4) ∧
    (granted.took 0 Snoop.isData).map (fun p => (p.1, p.2.deferred)) = some (.dataE, []) ∧
    (deferring.took 0 Snoop.isData).map (fun p => (p.1, p.2.deferred)) = some (.dataM, [(0, .fwdX)]) ∧
    (Req.upg, 0) ∉ (lineAt (.hx 0) [(0, .m)]).reqs ∧
    (acked.took 0 fun y => y == .wback || y == .ack).map (fun p => (p.1, p.2.agent 0)) = some (.ack, .i) := by
  (repeat' with_reducible apply And.intro) <;> decide +kernel

/-- ShardDirectory: a name that the shard does not hold, entries in every state, a name with and without a frame. -/
theorem test_hyps_shard : (caching .clean .fill false).dirEnt 7 4 = none ∧ (caching .clean .fill false).dirEnt 7 3 = some (dirAt .idle) ∧
    (caching .clean .fill false).saving = false ∧ (caching .clean .fill false).rankIn 7 = 0 ∧
    ({ caching .clean .fill false with ckpt := { one.ckpt with stat := 1 } }).saving = true ∧ (dirAt .idle).st = .idle ∧ (dirAt .idle).all = false ∧
    (∀ r ∈ (dirAt .idle).holders, r = 2) ∧ (dirAt .xfer).st = .xfer ∧ (dirAt .xfer).req = npGets ∧ (dirAt .xfer).owner = 2 ∧
    (dirAt .xfer).held = none ∧ ({ dirAt .xfer with held := some [] }).held ≠ none ∧
    1 ∈ ({ dirAt .xfer with
      req := npGetx
      owner := noRank
      acks := [1] }).acks ∧ (1 : Nat) ≠ noRank ∧ (caching .clean .fill false).frameOf 7 4 = none ∧
    (caching .clean .fill false).xferWaits (frameAt .clean) = false ∧
    (caching .ownedDirty .fill false).xferWaits { frameAt .ownedDirty with refcnt := 1 } = true ∧
    (caching .ownedDirty .fill false).frameOf 7 3 = some (6, frameAt .ownedDirty) := by
  (repeat' with_reducible apply And.intro) <;> decide +kernel

/-- HostCommandsAndCheckpoints: a declined service with and without a frame, a declined write, a page in each state, an idle
entry to replace; a device idle, draining and streaming. -/
def commanding (d : Bool) : State := { caching .filling (if d then .declined else .fill) false with
  worlds := [{ world1 with np := { world1.np with
    cname := 3
    carg := 2 ^ 40 - 65536 } }] }
theorem test_hyps_commands : (commanding true).declinedOf 7 3 = some (serviceAt .declined false) ∧ (commanding false).declinedOf 7 3 = none ∧
    (commanding true).cargOk (2 ^ 40 - 65536) = true ∧ (commanding true).cargOk (2 ^ 40) = false ∧
    (commanding true).installFrame (serviceAt .declined false) = some 6 ∧
    (commanding true).installFrame { serviceAt .declined false with frame := none } = none ∧
    (serviceAt .declined false).waiters = [(0, .group 4, false, false)] ∧ (commanding false).declinedWrite 7 3 = none ∧
    (({ commanding false with dir := [{ dirAt .wbPending with wdeclined := true }] }).declinedWrite 7 3).isSome = true ∧
    (commanding true).groups.find? (·.id == 4) = some group4 ∧ (commanding true).crew group4.crew = some crew2 ∧
    group4.job = 7 ∧ group4.page = 3 ∧ 0 % 32 = 0 ∧ 0 + 32 ≤ hbmTop ∧ (1 : Nat) ∈ [1, 2, 3, 4] ∧
    (commanding true).pinnedWays 7 3 = 0 ∧ (commanding true).shardRank world1 7 3 = some 0 ∧ world1.np.rank = 0 ∧
    fieldN (leNat ((commanding true).loadPA 0 32)) 92 3 = 0 ∧ (dirOf 7 3 ((commanding true).loadPA 0 32)).homekind = 0 ∧
    (dirAt .idle).st = .idle ∧ (dirAt .idle).holders = [] ∧ one.ckpt.active = false ∧ (∃ l ∈ one.launches, l.state = .running) ∧
    (∀ l ∈ scheduling.launches, l.state ≠ .running ∧ l.state ≠ .cancelling) ∧ ({ one.ckpt with stat := ckDraining }).active = true ∧
    (∀ v ∈ (commanding true).services, v.phase = .declined ∨ v.phase = .installed) ∧ 0 + segBytes < hbmTop ∧
    hbmTop ≤ hbmTop - segBytes + segBytes := by
  (repeat' with_reducible apply And.intro) <;> decide +kernel

/-- HostCommandsAndCheckpoints: the first part of an image with this device's header and of one without, and a segment that the
trailer vouches for. -/
def restoring : State := { one with ckpt := { one.ckpt with
  stat := ckStreaming
  pass := 1 } }
theorem test_hyps_restoring : restoring.ckpt.stat = ckStreaming ∧ restoring.ckpt.abort = false ∧ restoring.ckpt.pass = 1 ∧
    restoring.ckpt.header = false ∧ (restoring.ckHeader).take 4096 = restoring.ckHeader ∧ ([] : List Byte).take 4096 ≠ restoring.ckHeader ∧
    ({ restoring.ckpt with
      header := true
      crcs := [crc32c [1]] }).crcs[restoring.ckpt.bytes / segBytes]? = some (crc32c [1]) ∧
    ({ restoring.ckpt with
      header := true
      crcs := [crc32c [1]] }).crcs[restoring.ckpt.bytes / segBytes]? ≠ some (crc32c [2]) := by
  have hl : restoring.ckHeader.length = 4096 := by decide +kernel
  refine ⟨by decide, by decide, by decide, by decide, List.take_of_length_le (Nat.le_of_eq hl), fun h => ?_, by decide +kernel,
    by decide +kernel⟩
  rw [← h] at hl
  revert hl
  decide

/-- FabricSteps: a packet of a known epoch, new and repeated, one that fails, one of a third mode; a packet sent eight times and
fewer; a peer whose rate has not fallen; a link that failed three times. -/
def packet (mode : PktMode) (ok : Bool) : Packet := ⟨1, 3, mode, 9, ok, 1, 0, none, none⟩
def sentAt (n cls : Nat) : Sent := ⟨9, n, 0, cls, none, (0, 0, 0), 0, some 2, 5, 1, 0, 16, false⟩
def peer3 : Nat := rankPeer 7 3
def fabric (seen : List Nat) (n cls : Nat) : State := { one with plat := { one.plat with
  epochs := [(7, (1, false))]
  peers := [(peer3, { Peer.init peer3 with
    unacked := [sentAt n cls]
    flows := [⟨clsRod, 2, 5⟩]
    seen })] } }
theorem test_hyps_fabric : (fabric [] 8 0).world 1 = some world1 ∧ (fabric [] 8 0).packetOk world1 (packet .rud true) = true ∧
    (fabric [] 8 0).packetOk world1 (packet .rod false) = false ∧ 9 ∈ ((fabric [9] 8 0).peer peer3).seen ∧
    9 ∉ ((fabric [] 8 0).peer peer3).seen ∧ (packet .other true).mode ≠ .rud ∧ (packet .other true).mode ≠ .rod ∧
    ((fabric [] 8 0).peer peer3).unacked.find? (·.seq == 9) = some (sentAt 8 0) ∧
    ((fabric [] 7 clsRod).peer peer3).unacked.find? (·.seq == 9) = some (sentAt 7 clsRod) ∧ (sentAt 8 0).lost = false ∧
    ({ sentAt 8 0 with lost := true }).lost = true ∧ clsRod ≠ clsRud ∧
    ((fabric [] 7 clsRod).peer peer3).flows.find? (·.cls == clsRod) = some ⟨clsRod, 2, 5⟩ ∧ (sentAt 7 clsRod).port = some 2 ∧
    (sentAt 7 clsRod).tries < 2 ∧ (fabric [] 7 clsRod).nextPort 2 = some 3 ∧
    ((fabric [] 8 0).peer peer3).lastFall = none ∧ (fabric [] 8 0).ckpt.stat ≠ ckStreaming ∧
    ((one.link 0).fails < 3) ∧ ({ Link.init with fails := 3 }).fails ≥ 3 ∧ one.plat.dieWorld.getD 3 0 = 0 ∧
    ((fabric [] 8 0).epoch 7).1 ≠ 0 ∧ one.worlds.find? (·.job == 7) = some world1 ∧ world1.fab.authrank = world1.np.rank ∧
    3 ≠ world1.np.rank ∧ ({ world1.fab with authrank := 3 }).authrank ≠ world1.np.rank := by
  (repeat' with_reducible apply And.intro) <;> decide +kernel

/-- Trust: an image that may run, leaves left and none, sessions open and closed, the authority with a granted lease. -/
def leased (st : Nat) : Lease := ⟨2, st, 0, 1, 5000, [1], [(1, 0)]⟩
def authority (st : Nat) : World := { world1 with fab := { world1.fab with leases := [leased st] } }
theorem test_hyps_trust : one.plat.minSvn ≤ 0 ∧ one.plat.activating = 0 ∧ one.plat.hssUsed < 2 ^ 40 ∧
    2 ^ 40 ≤ ({ one.plat with hssUsed := 2 ^ 40 }).hssUsed ∧ (7 ≤ 7 ∨ (7 : Nat) = 0xFF) ∧ (0x12 : Nat) ≠ 0x13 ∧
    1 ∈ ({ one.plat with sessions := [1] }).sessions ∧ 1 ∉ one.plat.sessions ∧ ({ one with worlds := [authority 2] }).world 1 =
      some (authority 2) ∧ (authority 2).isAuthority = true ∧ ((authority 2).lease 2).st = 2 ∧ 4999 < ((authority 2).lease 2).expiry ∧
    ((authority 2).lease 2).expiry ≤ 5000 ∧ ((authority 3).lease 2).st ≠ 2 := by
  (repeat' with_reducible apply And.intro) <;> decide +kernel

/-- Trust: a table of one approved measurement, reports that have it and that have not, and a lease with another report. -/
def reporting : World := { world1 with fab := { world1.fab with
  leases := [leased 2]
  appr := 0x20000
  nappr := 1 } }
theorem test_hyps_reports : let s := { one with worlds := [reporting] }
    s.world 1 = some reporting ∧ s.devRead 1 0x20000 64 = some (List.replicate 64 0) ∧ s.matching reporting [(0, 0)] = true ∧
      s.matching reporting [] = false ∧ (reporting.lease 2).report ≠ [(0, 0)] ∧ s.matching reporting [(1, 0), (0, 0)] = true ∧
      ({ reporting.lease 2 with report := [(0, 0)] }).report = [(0, 0)] ∧ reporting.fab.nappr ≠ 0 ∧ (authority 2).fab.nappr = 0 ∧
      reporting.isAuthority = true ∧ (reporting.lease 3).st = 0 := by
  (repeat' with_reducible apply And.intro) <;> decide +kernel

/-- WorldsAndRings: an idle die, a world that may be created in its last region, a running ring with a slot that can be read. -/
def creating : State := { State.reset with plat := { State.reset.plat with
  bootStep := 7
  dieWorld := [0, 0, 0, 15] } }
def ring7 : CmdRing := { CmdRing.init with
  rbase := 0x20000
  st := .running
  tail := 1 }
def ringing : World := { world1 with rings := [(7, ring7)] }
theorem test_hyps_worlds : one.dieIdle 3 = true ∧ 3 < one.plat.dieWorld.length ∧ creating.booted = true ∧ creating.world 15 = none ∧
    one.world 1 = some world1 ∧ (ringing.ring 7).st = .running ∧
    (ringing.ring 7).head ≠ 1 ∧ ({ one with worlds := [ringing] }).devRead 1 (ring7.rbase + 64 * (ring7.head.toNat % 2 ^ ring7.rlog)) 64 =
      some (List.replicate 64 0) ∧ (0 : Nat) + 1 < 2 ^ 48 ∧ (2 ^ 48 - 1) + 1 = 2 ^ 48 := by
  (repeat' with_reducible apply And.intro) <;> decide +kernel

/-- WorldsAndRings: whichever memory is reserved for the network processor, one of two regions is free. -/
theorem test_hyps_world_regions : ∃ r ∈ [1021, 1023], creating.regionFree 15 r = true := by
  have hs : npSize ≤ 2 ^ 30 := Nat.min_le_right _ _
  have h : ∀ r, (decide (r < 1024) && creating.plat.dieWorld.getD (r / 256) 0 == 15 &&
      !(creating.worlds.any fun w => w.regions.contains r)) = true →
      creating.regionFree 15 r = !creating.inNpRegion (r * 2 ^ 30) (2 ^ 30) := by
    intro r hr
    simp only [State.regionFree, hr, Bool.true_and]
  rcases Nat.lt_or_ge creating.npBase (1022 * 2 ^ 30) with hb | hb
  · refine ⟨1023, by decide, ?_⟩
    rw [h 1023 (by decide +kernel)]
    simp only [State.inNpRegion, Bool.not_eq_true', Bool.and_eq_false_iff, decide_eq_false_iff_not]
    omega
  · refine ⟨1021, by decide, ?_⟩
    rw [h 1021 (by decide +kernel)]
    simp only [State.inNpRegion, Bool.not_eq_true', Bool.and_eq_false_iff, decide_eq_false_iff_not]
    omega

/-- WorldsAndRings: an image in memory of the world's regions, and none; a session open and none. -/
theorem test_hyps_images_and_sessions : imagePlaced [1023] (1023 * 2 ^ 30) 8192 = true ∧ imagePlaced [] 0 0 = true ∧
    one.plat.sessions = [] ∧ ({ one.plat with sessions := [1] }).sessions ≠ [] := by
  decide +kernel

theorem leNat_leBytes (n v : Nat) : leNat (leBytes n v) = v % 256 ^ n := by
  induction n generalizing v with
  | zero => simp [leNat, leBytes, Nat.mod_one]
  | succ n ih =>
    simp only [leBytes, leNat, ih, BitVec.toNat_ofNat]
    rw [show 256 ^ (n + 1) = 256 * 256 ^ n by rw [Nat.pow_succ, Nat.mul_comm], Nat.mod_mul]

theorem length_leBytes (n v : Nat) : (leBytes n v).length = n := by
  induction n generalizing v with
  | zero => rfl
  | succ n ih => simp [leBytes, ih]

/-- WorldsAndRings: whatever the tag function is, some entry's tag verifies, and some entry's does not. -/
theorem test_hyps_ring_tags : let g := (Config.gmac 1 world1.keygen 7 ring7.keygen.toNat (List.replicate 48 0)).toNat
    State.tagOk world1 7 ring7 (List.replicate 48 0 ++ leBytes 16 g) = true ∧
    State.tagOk world1 7 ring7 (List.replicate 48 0 ++ leBytes 16 (g + 1)) = false := by
  intro g
  have hg : g < 256 ^ 16 := (Config.gmac 1 world1.keygen 7 ring7.keygen.toNat (List.replicate 48 0)).isLt
  have ht : ∀ v, State.tagOk world1 7 ring7 (List.replicate 48 0 ++ leBytes 16 v) = (v % 256 ^ 16 == g) := by
    intro v
    unfold State.tagOk
    rw [List.drop_left' (by simp), List.take_left' (by simp), List.take_of_length_le (Nat.le_of_eq (length_leBytes _ _)),
      leNat_leBytes]
    rfl
  rw [ht, ht, Nat.mod_eq_of_lt hg]
  refine ⟨beq_self_eq_true g, beq_eq_false_iff_ne.mpr fun h => ?_⟩
  have hm : (256 : Nat) ^ 16 = 340282366920938463463374607431768211456 := by decide
  rw [hm] at hg h
  omega

/-- Housekeeping: a register that is written at once and one that waits; a crew that samples and that CREWSEL names; a start
not yet begun; every power state. -/
theorem test_hyps_housekeeping : one.regWaits (.trans 1) 0x1C = false ∧
    ({ one with worlds := [{ world1 with trans := { world1.trans with queue := List.replicate 16 (0, 1) } }] }).regWaits (.trans 1) 0x1C =
      true ∧
    one.crew 2 = some crew2 ∧ one.world crew2.world = some world1 ∧ quarterNo crew2.core crew2.quarter = 0 ∧ world1.dbg.sampper = 0 ∧
    ({ world1.dbg with sampper := 1 }).sampper ≠ 0 ∧ one.selected world1 = some crew2 ∧
    one.selected { world1 with dbg := { world1.dbg with crewsel := 1 } } = none ∧
    (∀ x ∈ one.crews, x.uid = 2 → ∀ t ∈ x.threads, t.live = true → t.wb + 16 ≤ x.nregs) ∧ State.reset.plat.bootStep = 0 ∧
    State.reset.plat.thermal = false := by
  (repeat' with_reducible apply And.intro) <;> decide +kernel

/-! ## The machine as a whole -/

/-- StepRunsDecoded: a latched set and a free one, each at a word that decodes and one that does not; the moves of a state with an
event and with a full bin. -/
def stepping (w : Nat) : State := State.reset.withFetchWord 32 w
def latched (w : Nat) : State := { State.reset.withCode (bytesOfWord 0x7C000000 ++ bytesOfWord (BitVec.ofNat 32 w)) with
  iss := ⟨2, 0, some 0⟩ }
def mv (s : State) : Option Move := s.moves[s.sched.headD 0 % s.moves.length]?
theorem test_hyps_steps : (stepping 0).plat.pstate ≠ 3 ∧ (latched 0x3EA00000).iss.guard = some 0 ∧
    (((latched 0x3EA00000).crew 2).bind fun c => (c.threads.find? (sel 0)).bind fun t =>
      (latched 0x3EA00000).fetchWord ((latched 0x3EA00000).imageOf c t) 4) = some 0x3EA00000 ∧
    mv (stepping 0) = some (.set 2 0) ∧ mv { stepping 0 with agenda := [.resultLand 3] } = some (.agenda 0) ∧
    mv { stepping 0 with sched := [1]
                         agenda := [.resultLand 3] } = some (.set 2 0) ∧
    mv { stepping 0 with crews := [] } = none ∧
    mv { stepping 0 with
      agenda := [.resultLand 3, .retransmitTimeout 3 9]
      plat := { (stepping 0).plat with pstate := 3 } } = some (.agenda 1) ∧
    (Event.retransmitTimeout 3 9).onDies = false ∧ ({ stepping 0 with agenda := [.resultLand 3] }).turn 0 = 0 ∧
    (((stepping 0x3EA00000).crew 2).bind fun c => (c.threads.find? (sel 0)).bind fun t =>
      (stepping 0x3EA00000).fetchWord ((stepping 0x3EA00000).imageOf c t) 0) = some 0x3EA00000 ∧
    (((stepping 0).crew 2).map fun c => (stepping 0).fetchWord ((stepping 0).imageOf c (Thread.init 0 0)) 8) = some none := by
  (repeat' with_reducible apply And.intro) <;> decide +kernel

theorem test_hyps_step_words : decodeWord 0x3EA00000 = .ok (.nop false) ∧ decodeWord 0 = .error .unassigned ∧
    decodeWord 0x3EA00001 = .error .reserved := by
  exact ⟨rfl, rfl, rfl⟩

/-- EncodeDecode, NothingStops: a well-formed instruction with a word, an event without one, and a state that names a set. -/
theorem test_hyps_encode : encode (.add true 127 0 1) = some (rrr 1 0 127 0 1) ∧ (Instr.add true 127 0 1).wellFormed = true ∧
    encode .powerLoss = none ∧ one.hasIssue = true := by
  decide +kernel

/-- MemoryForm, StepsKeepMemoryForm: the memory of a machine with bytes in it, and two that go on. -/
theorem test_hyps_memory : (ganging.memOk = true) ∧ State.reset.memOk = true ∧ isNext (exec .powerLoss ganging) = true ∧
    isNext (exec (.nop false) one) = true ∧ one.memOk = true ∧ isNext (step ganging) = true := by
  decide +kernel

/-- IntegerSet, UnaryFunctions, Comparisons: words of functions that are unassigned and of fields that are not zero. -/
theorem test_hyps_word_fields : decodeWord (rrr 6 10 0 0 0) = .error .unassigned ∧ decodeWord (rrr 13 9 8 0 0) = .error .reserved ∧
    decodeWord (rrr 7 11 0 0 0) = .error .unassigned ∧ decodeWord (rrr 7 9 0 0 1) = .error .reserved := by
  exact ⟨rfl, rfl, rfl, rfl⟩

/-! ## Single steps, with results worked out from the rules -/

/-- What lane 0 is after one step of the word. -/
noncomputable def after {α : Type} (w : Nat) (f : Thread → α) : Option α :=
  match step (State.reset.withFetchWord 32 w) with
  | .next t => t.crews.head?.bind fun c => c.threads.head?.map f
  | _ => none

/-- R68, R174: movh keeps the low 18 bits, here those of the register's marker 0x7FA0_0004. -/
theorem test_step_movh : after 0x0A101FF0 (fun t => (t.x 4, t.pc)) = some (0x7FC00004, 4) := by
  decide +kernel

/-- R61: srd x9, %lane, the spec's word. -/
theorem test_step_srd : after 0x5A024001 (fun t => t.x 9) = some 0 := by
  decide +kernel

/-- R197, R308 to R312: brk 127 enters vector 0x0B in supervisor mode, its PC + 4 saved, its code in the record. -/
theorem test_step_brk : after 0x3E80007F (fun t => (t.pc, t.mode, t.tpc, tabGet t.trec 0 2)) = some (0xB0, .S, 4, 127) := by
  decide +kernel

/-- R148, R308: the all-zero word is UNASSIGNED; the saved PC is its own. -/
theorem test_step_zero_word : after 0 (fun t => (t.pc, t.tpc, tabGet t.trec 0 0)) = some (0x10, 0, 0x00010001) := by
  decide +kernel

/-- R53, R154: add x1, x2, x64 names a register past an allocation of 64; the B operand is reason 3. -/
theorem test_step_reg_range : after 0x02004140 (fun t => (t.pc, tabGet t.trec 0 0, tabGet t.trec 0 2)) = some (0x20, 0x00030002, 64) := by
  decide +kernel

/-- R68, R87: fadd x1, x2, x3 reads the marker of x2, and raises UNINIT. -/
theorem test_step_uninit : after 0x20004103 (fun t => (t.pc, tabGet t.trec 0 0)) = some (0x40, 0x00000004) := by
  decide +kernel

/-- R145: a branch whose condition is always true goes to PC + 4 x OFF. -/
theorem test_step_bra : after 0x38E00002 (fun t => t.pc) = some 8 := by
  decide +kernel
end Sys2Proof.Tests
end

section
/-! Set I, the functions of one register, mad, adda, and the comparisons (R173, R175 to R177): the value of each
function as its table gives it, the words that their majors refuse, and the statements IntegerSet, UnaryFunctions and
Comparisons. -/

namespace Sys2Proof.Machine

/-! ## Words of 32 bits as numbers -/

theorem ofNat_toNat_self {n : Nat} (x : BitVec n) : BitVec.ofNat n x.toNat = x := by
  rw [BitVec.ofNat_toNat, BitVec.setWidth_eq]

theorem add_eq_ofNat (a b : Word) : a + b = BitVec.ofNat 32 (a.toNat + b.toNat) := by
  rw [BitVec.ofNat_add, ofNat_toNat_self, ofNat_toNat_self]

theorem mul_eq_ofNat (a b : Word) : a * b = BitVec.ofNat 32 (a.toNat * b.toNat) := by
  rw [BitVec.ofNat_mul, ofNat_toNat_self, ofNat_toNat_self]

theorem mul_add_eq_ofNat (a b d : Word) : a * b + d = BitVec.ofNat 32 (a.toNat * b.toNat + d.toNat) := by
  rw [BitVec.ofNat_add, ← mul_eq_ofNat, ofNat_toNat_self]

theorem add_eq_ofInt (a b : Word) : a + b = BitVec.ofInt 32 (a.toInt + b.toInt) := by
  rw [BitVec.ofInt_add, BitVec.ofInt_toInt, BitVec.ofInt_toInt]

theorem sub_eq_ofInt (a b : Word) : a - b = BitVec.ofInt 32 ((a.toNat : Int) - b.toNat) := by
  rw [BitVec.sub_eq_add_neg, Int.sub_eq_add_neg, BitVec.ofInt_add, BitVec.ofInt_neg, BitVec.ofInt_natCast,
    BitVec.ofInt_natCast, ofNat_toNat_self, ofNat_toNat_self]

theorem zero_sub_eq_ofInt (a : Word) : 0 - a = BitVec.ofInt 32 (-a.toInt) := by
  rw [BitVec.ofInt_neg, BitVec.ofInt_toInt]
  exact BitVec.zero_sub a

theorem signExtend_eq_ofInt {n m : Nat} (h : n ≤ m) (x : BitVec n) : x.signExtend m = BitVec.ofInt m x.toInt := by
  rw [← BitVec.toInt_signExtend_of_le h, BitVec.ofInt_toInt]

theorem abs_eq_ofNat (a : Word) : (if a.msb then 0 - a else a) = BitVec.ofNat 32 a.toInt.natAbs := by
  simp only [BitVec.msb_eq_toInt, decide_eq_true_eq, ← BitVec.ofInt_natCast]
  split
  next h => rw [zero_sub_eq_ofInt, Int.ofNat_natAbs_of_nonpos (Int.le_of_lt h)]
  next h => rw [Int.natAbs_of_nonneg (Int.not_lt.mp h), BitVec.ofInt_toInt]

/-! ## High halves of products -/

theorem extractLsb'_high_eq_ofInt (x : BitVec 64) : x.extractLsb' 32 32 = BitVec.ofInt 32 (x.toInt / 2 ^ 32) := by
  apply BitVec.eq_of_toNat_eq
  rw [BitVec.extractLsb', Nat.shiftRight_eq_div_pow, BitVec.toNat_ofNat, BitVec.toNat_ofInt, BitVec.toInt_eq_toNat_cond]
  have := x.isLt
  split <;> omega

/-- A signed product of two words fits in 64 bits. -/
theorem toInt_signExtend_mul (a b : Word) : (a.signExtend 64 * b.signExtend 64).toInt = a.toInt * b.toInt := by
  have bound (c : Word) : c.toInt.natAbs ≤ 2 ^ 31 := by
    have hlo := c.le_toInt
    have hhi := c.toInt_lt
    omega
  have hab : (a.toInt * b.toInt).natAbs ≤ 2 ^ 31 * 2 ^ 31 := by
    rw [Int.natAbs_mul]
    exact Nat.mul_le_mul (bound a) (bound b)
  rw [BitVec.toInt_mul, BitVec.toInt_signExtend_of_le (by decide), BitVec.toInt_signExtend_of_le (by decide)]
  exact Int.bmod_eq_of_le (by omega) (by omega)

/-- An unsigned product of two words fits in 64 bits. -/
theorem toNat_zeroExtend_mul (a b : Word) : (a.zeroExtend 64 * b.zeroExtend 64).toNat = a.toNat * b.toNat := by
  have h : a.toNat * b.toNat < 2 ^ 32 * 2 ^ 32 := Nat.mul_lt_mul'' a.isLt b.isLt
  rw [BitVec.toNat_mul, BitVec.toNat_setWidth_of_le (by decide), BitVec.toNat_setWidth_of_le (by decide)]
  exact Nat.mod_eq_of_lt h

/-! ## Shifts by a whole unsigned operand -/

theorem shl_eq_ofNat (a b : Word) :
    (if b.toNat ≥ 32 then 0 else a <<< b.toNat) = BitVec.ofNat 32 (a.toNat * 2 ^ b.toNat) := by
  apply BitVec.eq_of_toNat_eq
  split
  next h =>
    have hd : 2 ^ 32 ∣ a.toNat * 2 ^ b.toNat := Nat.dvd_mul_left_of_dvd (Nat.pow_dvd_pow 2 h) _
    rw [BitVec.toNat_ofNat, Nat.mod_eq_zero_of_dvd hd]
    rfl
  next => rw [BitVec.toNat_shiftLeft, BitVec.toNat_ofNat, Nat.shiftLeft_eq]

theorem shr_eq_ofNat (a b : Word) :
    (if b.toNat ≥ 32 then 0 else a >>> b.toNat) = BitVec.ofNat 32 (a.toNat / 2 ^ b.toNat) := by
  apply BitVec.eq_of_toNat_eq
  rw [BitVec.toNat_ofNat, Nat.mod_eq_of_lt (Nat.lt_of_le_of_lt (Nat.div_le_self _ _) a.isLt)]
  split
  next h => exact (Nat.div_eq_of_lt (Nat.lt_of_lt_of_le a.isLt (Nat.pow_le_pow_right (by decide) h))).symm
  next => rw [BitVec.toNat_ushiftRight, Nat.shiftRight_eq_div_pow]

/-- Shifted right by all its bits, a signed number leaves its sign. -/
theorem toInt_div_two_pow_of_le (a : Word) {n : Nat} (h : 32 ≤ n) : a.toInt / 2 ^ n = if a.msb then -1 else 0 := by
  have hp : (2 : Int) ^ 31 ≤ 2 ^ n := by
    exact_mod_cast Nat.pow_le_pow_right (n := 2) (by decide) (show 31 ≤ n by omega)
  have hlo := a.le_toInt
  have hhi := a.toInt_lt
  simp only [BitVec.msb_eq_toInt, decide_eq_true_eq]
  split
  · exact Int.ediv_eq_neg_one_of_neg_of_le (by omega) (by omega)
  · exact Int.ediv_eq_zero_of_lt (by omega) (by omega)

theorem sar_eq_ofInt (a b : Word) :
    (if b.toNat ≥ 32 then (if a.msb then 0xFFFFFFFF else 0) else a.sshiftRight b.toNat) =
      BitVec.ofInt 32 (a.toInt / 2 ^ b.toNat) := by
  split
  next h =>
    rw [toInt_div_two_pow_of_le a h]
    split <;> rfl
  next =>
    rw [← BitVec.ofInt_toInt (x := a.sshiftRight b.toNat), BitVec.toInt_sshiftRight, Int.shiftRight_eq_div_pow]
    rfl

/-! ## The table of set I (R173) -/

theorem setI_add (a b : Word) : setI .add a b = (BitVec.ofNat 32 (a.toNat + b.toNat), 0) :=
  congrArg (·, 0) (add_eq_ofNat a b)

theorem setI_sub (a b : Word) : setI .sub a b = (BitVec.ofInt 32 ((a.toNat : Int) - b.toNat), 0) :=
  congrArg (·, 0) (sub_eq_ofInt a b)

theorem setI_mul (a b : Word) : setI .mul a b = (BitVec.ofNat 32 (a.toNat * b.toNat), 0) :=
  congrArg (·, 0) (mul_eq_ofNat a b)

theorem setI_mulhiS (a b : Word) : setI .mulhiS a b = (BitVec.ofInt 32 (a.toInt * b.toInt / 2 ^ 32), 0) := by
  rw [setI, extractLsb'_high_eq_ofInt, toInt_signExtend_mul]

theorem setI_mulhiU (a b : Word) : setI .mulhiU a b = (BitVec.ofNat 32 (a.toNat * b.toNat / 2 ^ 32), 0) := by
  rw [setI, BitVec.extractLsb', toNat_zeroExtend_mul, Nat.shiftRight_eq_div_pow]

theorem setI_shl (a b : Word) : setI .shl a b = (BitVec.ofNat 32 (a.toNat * 2 ^ b.toNat), 0) :=
  congrArg (·, 0) (shl_eq_ofNat a b)

theorem setI_shr (a b : Word) : setI .shr a b = (BitVec.ofNat 32 (a.toNat / 2 ^ b.toNat), 0) :=
  congrArg (·, 0) (shr_eq_ofNat a b)

theorem setI_sar (a b : Word) : setI .sar a b = (BitVec.ofInt 32 (a.toInt / 2 ^ b.toNat), 0) :=
  congrArg (·, 0) (sar_eq_ofInt a b)

theorem setI_minS (a b : Word) : setI .minS a b = (if a.toInt ≤ b.toInt then a else b, 0) := by
  simp only [setI, BitVec.slt_iff_toInt_lt, ← Int.not_le, ite_not]

theorem setI_minU (a b : Word) : setI .minU a b = (if a.toNat ≤ b.toNat then a else b, 0) := by
  simp only [setI, BitVec.lt_def, ← Nat.not_le, ite_not]

theorem setI_maxS (a b : Word) : setI .maxS a b = (if a.toInt ≤ b.toInt then b else a, 0) := by
  simp only [setI, BitVec.slt_iff_toInt_lt]
  rcases Int.lt_trichotomy a.toInt b.toInt with h | h | h
  · rw [if_pos h, if_pos (Int.le_of_lt h)]
  · rw [BitVec.eq_of_toInt_eq h, ite_self, ite_self]
  · rw [if_neg (Int.lt_asymm h), if_neg (Int.not_le.mpr h)]

theorem setI_maxU (a b : Word) : setI .maxU a b = (if a.toNat ≤ b.toNat then b else a, 0) := by
  simp only [setI, BitVec.lt_def]
  rcases Nat.lt_trichotomy a.toNat b.toNat with h | h | h
  · rw [if_pos h, if_pos (Nat.le_of_lt h)]
  · rw [BitVec.eq_of_toNat_eq h, ite_self, ite_self]
  · rw [if_neg (Nat.lt_asymm h), if_neg (Nat.not_le.mpr h)]

/-- The exact sum where it fits; the nearer bound and SAT where it does not. -/
theorem setI_addsS (a b : Word) : setI .addsS a b =
    if a.toInt + b.toInt < -(2 ^ 31) then (0x80000000, fSAT)
    else if a.toInt + b.toInt > 2 ^ 31 - 1 then (0x7FFFFFFF, fSAT)
    else (a + b, 0) := by
  have hmin : intMin 32 true = -(2 ^ 31) := rfl
  have hmax : intMax 32 true = 2 ^ 31 - 1 := rfl
  simp only [setI, clampInt, hmin, hmax, add_eq_ofInt a b]
  split
  · rfl
  · split <;> rfl

/-! ## The instructions of set I -/

/-- The FN of a function of set I. -/
def SetI.code (fn : SetI) : BitVec 4 := BitVec.ofNat 4 fn.ctorIdx

/-- `x`, `xs` and `ss` perform the function in majors 0x01, 0x02 and 0x09. -/
def PerformsI (fn : SetI) (x xs ss : Rrr) : Prop :=
  ∀ sw d a b s, exec (x sw d a b) s = opSetI (encRRR sw 1#6 fn.code d a b) fn sw d a b s ∧
    exec (xs sw d a b) s = opSetIPaired (encRRR sw 2#6 fn.code d a b) fn sw d a b s ∧
    exec (ss sw d a b) s = opSetIUniform (encRRR sw 9#6 fn.code d a b) fn sw d a b s

theorem PerformsI.runs {fn : SetI} {x xs ss : Rrr} (h : PerformsI fn x xs ss) :
    RunsX x (setI fn) ∧ RunsXs xs (setI fn) ∧ RunsS ss (setI fn) :=
  ⟨fun sw d a b => execPure_runs (fun s => (h sw d a b s).1) rfl fun _ _ => ⟨rfl, rfl⟩,
    fun sw d a b => execPure_runs (fun s => (h sw d a b s).2.1) rfl fun _ _ => ⟨rfl, rfl⟩,
    fun sw d a b => execCrew_runs (fun s => (h sw d a b s).2.2) rfl fun _ => ⟨rfl, rfl⟩⟩

/-- A function that raises no flag. -/
theorem PerformsI.runsI {fn : SetI} {x xs ss : Rrr} {f : Word → Word → Word} (h : PerformsI fn x xs ss)
    (hf : ∀ a b, setI fn a b = (f a b, 0)) : RunsI x xs ss f := by
  have hf : setI fn = fun a b => (f a b, 0) := funext fun a => funext fun b => hf a b
  have hr := h.runs
  rwa [hf] at hr

theorem performs_add : PerformsI .add .add .addPaired .addUniform := fun _ _ _ _ _ => ⟨rfl, rfl, rfl⟩
theorem performs_sub : PerformsI .sub .sub .subPaired .subUniform := fun _ _ _ _ _ => ⟨rfl, rfl, rfl⟩
theorem performs_mul : PerformsI .mul .mul .mulPaired .mulUniform := fun _ _ _ _ _ => ⟨rfl, rfl, rfl⟩
theorem performs_mulhiS : PerformsI .mulhiS .mulhiSi32 .mulhiSi32Paired .mulhiSi32Uniform :=
  fun _ _ _ _ _ => ⟨rfl, rfl, rfl⟩
theorem performs_mulhiU : PerformsI .mulhiU .mulhiUi32 .mulhiUi32Paired .mulhiUi32Uniform :=
  fun _ _ _ _ _ => ⟨rfl, rfl, rfl⟩
theorem performs_and : PerformsI .and .and .andPaired .andUniform := fun _ _ _ _ _ => ⟨rfl, rfl, rfl⟩
theorem performs_or : PerformsI .or .or .orPaired .orUniform := fun _ _ _ _ _ => ⟨rfl, rfl, rfl⟩
theorem performs_xor : PerformsI .xor .xor .xorPaired .xorUniform := fun _ _ _ _ _ => ⟨rfl, rfl, rfl⟩
theorem performs_shl : PerformsI .shl .shl .shlPaired .shlUniform := fun _ _ _ _ _ => ⟨rfl, rfl, rfl⟩
theorem performs_shr : PerformsI .shr .shr .shrPaired .shrUniform := fun _ _ _ _ _ => ⟨rfl, rfl, rfl⟩
theorem performs_sar : PerformsI .sar .sar .sarPaired .sarUniform := fun _ _ _ _ _ => ⟨rfl, rfl, rfl⟩
theorem performs_minS : PerformsI .minS .minSi32 .minSi32Paired .minSi32Uniform := fun _ _ _ _ _ => ⟨rfl, rfl, rfl⟩
theorem performs_maxS : PerformsI .maxS .maxSi32 .maxSi32Paired .maxSi32Uniform := fun _ _ _ _ _ => ⟨rfl, rfl, rfl⟩
theorem performs_minU : PerformsI .minU .minUi32 .minUi32Paired .minUi32Uniform := fun _ _ _ _ _ => ⟨rfl, rfl, rfl⟩
theorem performs_maxU : PerformsI .maxU .maxUi32 .maxUi32Paired .maxUi32Uniform := fun _ _ _ _ _ => ⟨rfl, rfl, rfl⟩
theorem performs_addsS : PerformsI .addsS .addsSi32 .addsSi32Paired .addsSi32Uniform := fun _ _ _ _ _ => ⟨rfl, rfl, rfl⟩

/-- Settles O1: each instruction performs its function of set I, and the function has the value of the table. -/
theorem integerSet : Obligations.IntegerSet := by
  unfold Obligations.IntegerSet
  obtain ⟨hx, hxs, hss⟩ := performs_addsS.runs
  refine ⟨performs_add.runsI setI_add, performs_sub.runsI setI_sub, performs_mul.runsI setI_mul,
    performs_mulhiS.runsI setI_mulhiS, performs_mulhiU.runsI setI_mulhiU, performs_and.runsI fun _ _ => rfl,
    performs_or.runsI fun _ _ => rfl, performs_xor.runsI fun _ _ => rfl, performs_shl.runsI setI_shl,
    performs_shr.runsI setI_shr, performs_sar.runsI setI_sar, performs_minS.runsI setI_minS,
    performs_maxS.runsI setI_maxS, performs_minU.runsI setI_minU, performs_maxU.runsI setI_maxU, ?adds⟩
  case adds =>
    intro f
    have hf : setI .addsS = f := funext fun a => funext fun b => setI_addsS a b
    rw [← hf]
    exact ⟨hx, hxs, hss, rfl, rfl⟩

/-! ## Counting and reversing bits (R176) -/

theorem foldl_count_from (p : Nat → Bool) (l : List Nat) (k : Nat) :
    l.foldl (fun n i => if p i then n + 1 else n) k = k + l.countP p := by
  induction l generalizing k with
  | nil => rfl
  | cons i l ih =>
    rw [List.foldl_cons, ih, List.countP_cons]
    split <;> omega

theorem popCount_eq_countP (a : Word) : popCount a = (List.range 32).countP fun i => a.getLsbD i :=
  (foldl_count_from _ _ 0).trans (Nat.zero_add _)

theorem leadZeros_bounds (a : Word) : leadZeros a ≤ 32 ∧ a.toNat < 2 ^ (32 - leadZeros a) ∧
    (leadZeros a < 32 → 2 ^ (31 - leadZeros a) ≤ a.toNat) := by
  unfold leadZeros
  split
  next h =>
    rw [h]
    decide
  next h =>
    have h0 : a.toNat ≠ 0 := fun hz => h (BitVec.eq_of_toNat_eq hz)
    have hlog : a.toNat.log2 < 32 := (Nat.log2_lt h0).mpr a.isLt
    refine ⟨by omega, ?_, fun _ => ?_⟩
    · rw [show 32 - (31 - a.toNat.log2) = a.toNat.log2 + 1 by omega]
      exact Nat.lt_log2_self
    · rw [show 31 - (31 - a.toNat.log2) = a.toNat.log2 by omega]
      exact Nat.log2_self_le h0

/-- The sum that `bitReverse` forms, as far as the lowest `n` bits of `a`. -/
def reversedBits (a : Word) (n : Nat) : Nat :=
  (List.range n).foldl (fun m i => if a.getLsbD i then m + 2 ^ (31 - i) else m) 0

theorem bitReverse_eq_ofNat (a : Word) : bitReverse a = BitVec.ofNat 32 (reversedBits a 32) := rfl

theorem reversedBits_succ (a : Word) (n : Nat) :
    reversedBits a (n + 1) = reversedBits a n + if a.getLsbD n then 2 ^ (31 - n) else 0 := by
  unfold reversedBits
  rw [List.range_succ, List.foldl_append]
  simp only [List.foldl_cons, List.foldl_nil]
  split <;> rfl

theorem two_pow_dvd_reversedBits (a : Word) {n : Nat} (hn : n ≤ 32) : 2 ^ (32 - n) ∣ reversedBits a n := by
  induction n with
  | zero => exact Nat.dvd_zero _
  | succ n ih =>
    have hle : 2 ^ (31 - n) ∣ 2 ^ (32 - n) := Nat.pow_dvd_pow 2 (by omega)
    rw [reversedBits_succ, show 32 - (n + 1) = 31 - n by omega]
    refine Nat.dvd_add (Nat.dvd_trans hle (ih (by omega))) ?_
    split
    · exact Nat.dvd_refl _
    · exact Nat.dvd_zero _

/-- The sum is a multiple of `2 ^ (32 - n)`, so bit `n` comes in below it and no carry arises. -/
theorem testBit_reversedBits (a : Word) {n : Nat} (hn : n ≤ 32) {j : Nat} (hj : j < 32) :
    (reversedBits a n).testBit j = (decide (32 - n ≤ j) && a.getLsbD (31 - j)) := by
  induction n with
  | zero =>
    have hout : ¬ 32 - 0 ≤ j := by omega
    rw [decide_eq_false hout, Bool.false_and]
    exact Nat.zero_testBit j
  | succ n ih =>
    obtain ⟨q, hq⟩ := two_pow_dvd_reversedBits a (n := n) (by omega)
    have hlt : (if a.getLsbD n then 2 ^ (31 - n) else 0) < 2 ^ (32 - n) := by
      split
      · exact Nat.pow_lt_pow_right (by decide) (by omega)
      · exact Nat.two_pow_pos _
    have ih := ih (by omega)
    rw [hq, Nat.testBit_two_pow_mul] at ih
    rw [reversedBits_succ, hq, Nat.testBit_two_pow_mul_add _ hlt]
    rcases Nat.lt_trichotomy j (31 - n) with h | rfl | h
    · have hout : ¬ 32 - (n + 1) ≤ j := by omega
      rw [if_pos (by omega), decide_eq_false hout, Bool.false_and]
      split
      · exact Nat.testBit_two_pow_of_ne (Nat.ne_of_gt h)
      · exact Nat.zero_testBit j
    · have hbit : 31 - (31 - n) = n := by omega
      have hin : 32 - (n + 1) ≤ 31 - n := by omega
      rw [if_pos (by omega), hbit, decide_eq_true hin, Bool.true_and]
      cases a.getLsbD n
      · exact Nat.zero_testBit _
      · exact Nat.testBit_two_pow_self
    · have hin : 32 - n ≤ j := by omega
      have hin' : 32 - (n + 1) ≤ j := by omega
      rw [if_neg (by omega), decide_eq_true hin', Bool.true_and]
      rwa [decide_eq_true hin, Bool.true_and, Bool.true_and] at ih

theorem getLsbD_bitReverse (a : Word) {i : Nat} (hi : i < 32) : (bitReverse a).getLsbD i = a.getLsbD (31 - i) := by
  rw [bitReverse_eq_ofNat, BitVec.getLsbD_ofNat, testBit_reversedBits a (Nat.le_refl 32) hi, decide_eq_true hi]
  rfl

/-! ## Major 0x07 (R176, R177) -/

/-- `i` performs `f` on one register as function `fn` of major 0x07. -/
def PerformsUnary (fn : BitVec 4) (f : Word → Word) (i : Rr) : Prop :=
  ∀ sw d a s, exec (i sw d a) s = opUnary (encRRR sw 7#6 fn d a 0#7) f sw d a s

theorem PerformsUnary.runs {fn : BitVec 4} {f g : Word → Word} {i : Rr} (h : PerformsUnary fn f i)
    (hf : ∀ a, f a = g a) : RunsUnary i g := by
  obtain rfl : f = g := funext hf
  exact fun sw d a => execPure_runs (h sw d a) rfl fun _ _ => ⟨rfl, rfl⟩

theorem performs_mov : PerformsUnary 0 (fun v => v) .mov := fun _ _ _ _ => rfl
theorem performs_not : PerformsUnary 1 (fun v => ~~~v) .not := fun _ _ _ _ => rfl
theorem performs_neg : PerformsUnary 2 (fun v => 0 - v) .neg := fun _ _ _ _ => rfl
theorem performs_absSi32 : PerformsUnary 3 (fun v => if v.msb then 0 - v else v) .absSi32 := fun _ _ _ _ => rfl
theorem performs_popc : PerformsUnary 4 (fun v => BitVec.ofNat 32 (popCount v)) .popc := fun _ _ _ _ => rfl
theorem performs_clz : PerformsUnary 5 (fun v => BitVec.ofNat 32 (leadZeros v)) .clz := fun _ _ _ _ => rfl
theorem performs_brev : PerformsUnary 6 bitReverse .brev := fun _ _ _ _ => rfl
theorem performs_sxb : PerformsUnary 8 (fun v => (v.extractLsb' 0 8).signExtend 32) .sxb := fun _ _ _ _ => rfl
theorem performs_sxh : PerformsUnary 9 (fun v => (v.extractLsb' 0 16).signExtend 32) .sxh := fun _ _ _ _ => rfl

theorem mad_runs (sw : Bool) (d a b : BitVec 7) : RunsThreads (.mad sw d a b) sw [dX d 1, aX a 1, bX b 1] fun _ t =>
    t.putX d.toNat (BitVec.ofNat 32 ((t.x a.toNat).toNat * (t.x b.toNat).toNat + (t.x d.toNat).toNat)) := by
  simp only [← mul_add_eq_ofNat]
  have h : ∀ s, exec (.mad sw d a b) s = execMad sw d a b s := fun _ => rfl
  exact execPure_runs h rfl fun _ _ => ⟨rfl, rfl⟩

theorem add_signExtend_eq_ofInt (x : BitVec 64) (b : Word) :
    x + b.signExtend 64 = BitVec.ofInt 64 (x.toNat + b.toInt) := by
  rw [signExtend_eq_ofInt (by decide), BitVec.ofInt_add, BitVec.ofInt_natCast, ofNat_toNat_self]

theorem adda_runs (sw : Bool) (d a b : BitVec 7) : RunsThreads (.adda sw d a b) sw [dX d 2, aX a 2, bX b 1] fun _ t =>
    let v := BitVec.ofInt 64 ((t.x64 a.toNat).toNat + (t.x b.toNat).toInt)
    (t.putX d.toNat (v.extractLsb' 0 32)).putX (d.toNat + 1) (v.extractLsb' 32 32) := by
  simp only [← add_signExtend_eq_ofInt]
  have h : ∀ s, exec (.adda sw d a b) s = execAdda sw d a b s := fun _ => rfl
  exact execPure_runs h rfl fun _ _ => ⟨rfl, rfl⟩

/-! ## Refused words -/

theorem accept_fails {ok : Bool} (i : Instr) (h : ok = false) : accept ok i = .error .reserved := by
  rw [h]
  rfl

theorem lt_ten_cases {n : Nat} (h : n < 10) :
    n = 0 ∨ n = 1 ∨ n = 2 ∨ n = 3 ∨ n = 4 ∨ n = 5 ∨ n = 6 ∨ n = 7 ∨ n = 8 ∨ n = 9 := by
  omega

theorem decode07_unassigned (s : Bool) {fn : BitVec 4} (d a b : BitVec 7) (h : fn.toNat ≥ 11) :
    decode07 s fn d a b = .error .unassigned := by
  unfold decode07
  split
  case h_12 => rfl
  all_goals omega

theorem decode07_reserved (s : Bool) {fn : BitVec 4} (d a : BitVec 7) {b : BitVec 7}
    (h : fn.toNat ≤ 6 ∨ fn.toNat = 8 ∨ fn.toNat = 9) (hb : b ≠ 0#7) : decode07 s fn d a b = .error .reserved := by
  have hz := beq_eq_false_iff_ne.mpr hb
  have hfn : fn.toNat < 10 ∧ fn.toNat ≠ 7 := by omega
  unfold decode07
  rcases lt_ten_cases hfn.1 with h | h | h | h | h | h | h | h | h | h
  case inr.inr.inr.inr.inr.inr.inr.inl => exact absurd h hfn.2
  all_goals
    rw [h]
    exact accept_fails _ hz

theorem decode06_unassigned (s : Bool) {fn : BitVec 4} (d a b : BitVec 7) (h : fn.toNat ≥ 10) :
    decode06 s fn d a b = .error .unassigned := by
  unfold decode06
  split
  case h_11 => rfl
  all_goals omega

theorem decode06_reserved (s : Bool) {fn : BitVec 4} {d : BitVec 7} (a b : BitVec 7) (h : fn.toNat < 10)
    (hd : d.extractLsb' 3 4 ≠ 0#4) : decode06 s fn d a b = .error .reserved := by
  have hz := beq_eq_false_iff_ne.mpr hd
  unfold decode06
  rcases lt_ten_cases h with h | h | h | h | h | h | h | h | h | h
  all_goals
    rw [h]
    exact accept_fails _ hz

theorem decode0D_unassigned (s : Bool) {fn : BitVec 4} (d a b : BitVec 7) (h : fn.toNat ≥ 10) :
    decode0D s fn d a b = .error .unassigned := by
  unfold decode0D
  split
  case h_11 => rfl
  all_goals omega

theorem decode0D_reserved (s : Bool) {fn : BitVec 4} {d : BitVec 7} (a b : BitVec 7) (h : fn.toNat < 10)
    (hd : d.extractLsb' 3 4 ≠ 0#4) : decode0D s fn d a b = .error .reserved := by
  have hz := beq_eq_false_iff_ne.mpr hd
  unfold decode0D
  rcases lt_ten_cases h with h | h | h | h | h | h | h | h | h | h
  all_goals
    rw [h]
    exact accept_fails _ hz

/-- Bits [6:3] of the D field are bits [20:17] of the word. -/
theorem extractLsb'_D_high (w : Word) : (w.extractLsb' 14 7).extractLsb' 3 4 = w.extractLsb' 17 4 := by
  ext i hi
  have : 3 + i < 7 := by omega
  simp only [BitVec.getElem_extractLsb', BitVec.getLsbD_extractLsb', this, decide_true, Bool.true_and, ← Nat.add_assoc]

/-- Settles O3: each instruction performs its function of one register, mad and adda their sums, and the decoder of major
0x07 gives the refusals. -/
theorem unaryFunctions : Obligations.UnaryFunctions := by
  unfold Obligations.UnaryFunctions
  refine ⟨performs_mov.runs fun _ => rfl, performs_not.runs fun _ => rfl, performs_neg.runs zero_sub_eq_ofInt,
    performs_absSi32.runs abs_eq_ofNat, performs_popc.runs fun a => congrArg _ (popCount_eq_countP a),
    performs_sxb.runs fun _ => signExtend_eq_ofInt (by decide) _,
    performs_sxh.runs fun _ => signExtend_eq_ofInt (by decide) _,
    ⟨leadZeros, leadZeros_bounds, performs_clz.runs fun _ => rfl⟩,
    ⟨bitReverse, fun a _ => getLsbD_bitReverse a, performs_brev.runs fun _ => rfl⟩, mad_runs, adda_runs, ?words⟩
  case words =>
    intro w hw
    rw [decodeWord_07 w hw]
    exact ⟨decode07_unassigned _ _ _ _, decode07_reserved _ _ _⟩

/-! ## Comparisons (R175) -/

/-- The FN of a relation. -/
def SetC.code (fn : SetC) : BitVec 4 := BitVec.ofNat 4 fn.ctorIdx

/-- `x` and `s` perform the comparison in majors 0x06 and 0x0D. -/
def PerformsC (fn : SetC) (x s : Prr) : Prop :=
  ∀ sw p a b st, exec (x sw p a b) st = opCmp (encRRR sw 6#6 fn.code (0#4 ++ p) a b) fn sw p a b st ∧
    exec (s sw p a b) st = opUcmp (encRRR sw 13#6 fn.code (0#4 ++ p) a b) fn sw p a b st

theorem PerformsC.runs {fn : SetC} {x s : Prr} {f : Word → Word → Bool} (h : PerformsC fn x s)
    (hf : ∀ a b, setC fn a b = f a b) : RunsC x s f := by
  obtain rfl : setC fn = f := funext fun a => funext fun b => hf a b
  exact ⟨fun sw p a b => execPure_runs (fun st => (h sw p a b st).1) rfl fun _ _ => ⟨rfl, rfl⟩,
    fun sw p a b => execCrew_runs (fun st => (h sw p a b st).2) rfl fun _ => ⟨rfl, rfl⟩⟩

theorem performs_eq : PerformsC .eq .cmpEq .ucmpEq := fun _ _ _ _ _ => ⟨rfl, rfl⟩
theorem performs_ne : PerformsC .ne .cmpNe .ucmpNe := fun _ _ _ _ _ => ⟨rfl, rfl⟩
theorem performs_ltS : PerformsC .ltS .cmpLtSi32 .ucmpLtSi32 := fun _ _ _ _ _ => ⟨rfl, rfl⟩
theorem performs_leS : PerformsC .leS .cmpLeSi32 .ucmpLeSi32 := fun _ _ _ _ _ => ⟨rfl, rfl⟩
theorem performs_gtS : PerformsC .gtS .cmpGtSi32 .ucmpGtSi32 := fun _ _ _ _ _ => ⟨rfl, rfl⟩
theorem performs_geS : PerformsC .geS .cmpGeSi32 .ucmpGeSi32 := fun _ _ _ _ _ => ⟨rfl, rfl⟩
theorem performs_ltU : PerformsC .ltU .cmpLtUi32 .ucmpLtUi32 := fun _ _ _ _ _ => ⟨rfl, rfl⟩
theorem performs_leU : PerformsC .leU .cmpLeUi32 .ucmpLeUi32 := fun _ _ _ _ _ => ⟨rfl, rfl⟩
theorem performs_gtU : PerformsC .gtU .cmpGtUi32 .ucmpGtUi32 := fun _ _ _ _ _ => ⟨rfl, rfl⟩
theorem performs_geU : PerformsC .geU .cmpGeUi32 .ucmpGeUi32 := fun _ _ _ _ _ => ⟨rfl, rfl⟩

theorem setC_ne (a b : Word) : setC .ne a b = decide (a ≠ b) := by
  rw [setC, decide_not]
  rfl

/-- A write to predicate 7 is discarded (R57). -/
theorem predSet_seven (p : BitVec 7) (v : Bool) : predSet p 7 v = p := rfl

/-- Settles O4: each instruction performs its relation, and the decoders of majors 0x06 and 0x0D give the refusals. -/
theorem comparisons : Obligations.Comparisons := by
  unfold Obligations.Comparisons
  refine ⟨performs_eq.runs fun _ _ => rfl, performs_ne.runs setC_ne, performs_ltS.runs fun _ _ => rfl,
    performs_leS.runs fun _ _ => rfl, performs_gtS.runs fun _ _ => rfl, performs_geS.runs fun _ _ => rfl,
    performs_ltU.runs fun _ _ => rfl, performs_leU.runs fun _ _ => rfl, performs_gtU.runs fun _ _ => rfl,
    performs_geU.runs fun _ _ => rfl, ?words, rfl, fun p i v => by rw [predSet_seven]⟩
  case words =>
    intro w hw
    rw [← extractLsb'_D_high]
    rcases hw with hw | hw
    · rw [decodeWord_06 w hw]
      exact ⟨decode06_unassigned _ _ _ _, decode06_reserved _ _ _⟩
    · rw [decodeWord_0D w hw]
      exact ⟨decode0D_unassigned _ _ _ _, decode0D_reserved _ _ _⟩

end Sys2Proof.Machine
end

section
/-! The encoder and the decoder are inverse to each other (R144 to R160): the statement EncodeDecode. -/

namespace Sys2Proof

-- Each proof is checked before the next is read.
set_option Elab.async false

/-! ## Reading an encoding back -/

theorem decodeWord_encRRR {m : BitVec 6} {dec : Bool → BitVec 4 → BitVec 7 → BitVec 7 → BitVec 7 → Except IllReason Instr}
    (hm : ∀ w : Word, w.extractLsb' 25 6 = m →
      decodeWord w = dec (w.getLsbD 31) (w.extractLsb' 21 4) (w.extractLsb' 14 7) (w.extractLsb' 7 7) (w.extractLsb' 0 7))
    (s : Bool) (fn : BitVec 4) (d a b : BitVec 7) : decodeWord (encRRR s m fn d a b) = dec s fn d a b := by
  rw [hm _ (encRRR_major ..), encRRR_s, encRRR_fn, encRRR_d, encRRR_a, encRRR_b]

theorem decodeWord_encRI {m : BitVec 6} {dec : Bool → BitVec 7 → BitVec 7 → BitVec 11 → Except IllReason Instr}
    (hm : ∀ w : Word, w.extractLsb' 25 6 = m →
      decodeWord w = dec (w.getLsbD 31) (w.extractLsb' 18 7) (w.extractLsb' 11 7) (w.extractLsb' 0 11))
    (s : Bool) (d a : BitVec 7) (i : BitVec 11) : decodeWord (encRI s m d a i) = dec s d a i := by
  rw [hm _ (encRI_major ..), encRI_s, encRI_d, encRI_a, encRI_imm]

theorem decodeWord_encLI {m : BitVec 6} {dec : Bool → BitVec 7 → BitVec 18 → Except IllReason Instr}
    (hm : ∀ w : Word, w.extractLsb' 25 6 = m → decodeWord w = dec (w.getLsbD 31) (w.extractLsb' 18 7) (w.extractLsb' 0 18))
    (s : Bool) (d : BitVec 7) (i : BitVec 18) : decodeWord (encLI s m d i) = dec s d i := by
  rw [hm _ (encLI_major ..), encLI_s, encLI_d, encLI_imm]

theorem decodeWord_encBR {m : BitVec 6} {dec : Bool → BitVec 4 → BitVec 21 → Except IllReason Instr}
    (hm : ∀ w : Word, w.extractLsb' 25 6 = m → decodeWord w = dec (w.getLsbD 31) (w.extractLsb' 21 4) (w.extractLsb' 0 21))
    (s : Bool) (c : BitVec 4) (o : BitVec 21) : decodeWord (encBR s m c o) = dec s c o := by
  rw [hm _ (encBR_major ..), encBR_s, encBR_cond, encBR_off]

theorem decodeWord_encMEM {m : BitVec 6} {dec : Bool → BitVec 7 → BitVec 7 → BitVec 3 → BitVec 8 → Except IllReason Instr}
    (hm : ∀ w : Word, w.extractLsb' 25 6 = m → decodeWord w =
      dec (w.getLsbD 31) (w.extractLsb' 18 7) (w.extractLsb' 11 7) (w.extractLsb' 8 3) (w.extractLsb' 0 8))
    (s : Bool) (d a : BitVec 7) (u : BitVec 3) (o : BitVec 8) : decodeWord (encMEM s m d a u o) = dec s d a u o := by
  rw [hm _ (encMEM_major ..), encMEM_s, encMEM_d, encMEM_a, encMEM_width, encMEM_off]

theorem accept_of {ok : Bool} {i : Instr} (h : ok = true) : accept ok i = .ok i := by
  rw [h]
  rfl

theorem two_bits (k : BitVec 2) : k = 0#2 ∨ k = 1#2 ∨ k = 2#2 ∨ k = 3#2 := by
  revert k
  decide

/-- A well-formed instruction is read back from its word. -/
theorem decodeWord_encode {i : Instr} {w : Word} (h : encode i = some w) (hw : i.wellFormed = true) :
    decodeWord w = .ok i := by
  cases i
  case add | sub | mul | mulhiSi32 | mulhiUi32 | and | or | xor | shl | shr | sar | minSi32 | maxSi32 | minUi32 | maxUi32 | addsSi32 =>
    cases h
    change _ = true at hw
    refine (decodeWord_encRRR decodeWord_01 ..).trans ?_
    simp_all [decode01, Instr.wellFormed]
  case addPaired | subPaired | mulPaired | mulhiSi32Paired | mulhiUi32Paired | andPaired | orPaired | xorPaired | shlPaired | shrPaired | sarPaired | minSi32Paired | maxSi32Paired | minUi32Paired | maxUi32Paired | addsSi32Paired =>
    cases h
    change _ = true at hw
    refine (decodeWord_encRRR decodeWord_02 ..).trans ?_
    simp_all [decode02, Instr.wellFormed]
  case addi =>
    cases h
    change _ = true at hw
    refine (decodeWord_encRI decodeWord_03 ..).trans ?_
    simp_all [decode03, Instr.wellFormed]
  case movl =>
    cases h
    change _ = true at hw
    refine (decodeWord_encLI decodeWord_04 ..).trans ?_
    simp_all [decode04, Instr.wellFormed]
  case movh =>
    cases h
    change _ = true at hw
    refine (decodeWord_encLI decodeWord_05 ..).trans ?_
    simp_all [decode05, accept, Instr.wellFormed]
  case cmpEq | cmpNe | cmpLtSi32 | cmpLeSi32 | cmpGtSi32 | cmpGeSi32 | cmpLtUi32 | cmpLeUi32 | cmpGtUi32 | cmpGeUi32 =>
    cases h
    change _ = true at hw
    refine (decodeWord_encRRR decodeWord_06 ..).trans ?_
    simp_all [decode06, accept, Instr.wellFormed]
  case mov | not | neg | absSi32 | popc | clz | brev | mad | sxb | sxh | adda =>
    cases h
    change _ = true at hw
    refine (decodeWord_encRRR decodeWord_07 ..).trans ?_
    simp_all [decode07, accept, Instr.wellFormed]
  case addai =>
    cases h
    change _ = true at hw
    refine (decodeWord_encRI decodeWord_08 ..).trans ?_
    simp_all [decode08, Instr.wellFormed]
  case addUniform | subUniform | mulUniform | mulhiSi32Uniform | mulhiUi32Uniform | andUniform | orUniform | xorUniform | shlUniform | shrUniform | sarUniform | minSi32Uniform | maxSi32Uniform | minUi32Uniform | maxUi32Uniform | addsSi32Uniform =>
    cases h
    change _ = true at hw
    refine (decodeWord_encRRR decodeWord_09 ..).trans ?_
    simp_all [decode09, Instr.wellFormed]
  case uaddi =>
    cases h
    change _ = true at hw
    refine (decodeWord_encRI decodeWord_0A ..).trans ?_
    simp_all [decode0A, Instr.wellFormed]
  case umovl =>
    cases h
    change _ = true at hw
    refine (decodeWord_encLI decodeWord_0B ..).trans ?_
    simp_all [decode0B, Instr.wellFormed]
  case umovh =>
    cases h
    change _ = true at hw
    refine (decodeWord_encLI decodeWord_0C ..).trans ?_
    simp_all [decode0C, accept, Instr.wellFormed]
  case ucmpEq | ucmpNe | ucmpLtSi32 | ucmpLeSi32 | ucmpGtSi32 | ucmpGeSi32 | ucmpLtUi32 | ucmpLeUi32 | ucmpGtUi32 | ucmpGeUi32 =>
    cases h
    change _ = true at hw
    refine (decodeWord_encRRR decodeWord_0D ..).trans ?_
    simp_all [decode0D, accept, Instr.wellFormed]
  case fadd | fsub | fmul | ffma | fmin | fmax | fdiv | fsqrt | fabs | fneg =>
    cases h
    change _ = true at hw
    refine (decodeWord_encRRR decodeWord_10 ..).trans ?_
    simp_all [decode10, accept, Instr.wellFormed]
  case faddPaired | fsubPaired | fmulPaired | ffmaPaired | fminPaired | fmaxPaired | fdivPaired =>
    cases h
    change _ = true at hw
    refine (decodeWord_encRRR decodeWord_11 ..).trans ?_
    simp_all [decode11, Instr.wellFormed]
  case fcmpEq | fcmpNe | fcmpLt | fcmpLe | fcmpGt | fcmpGe =>
    cases h
    change _ = true at hw
    refine (decodeWord_encRRR decodeWord_12 ..).trans ?_
    simp_all [decode12, accept, Instr.wellFormed]
  case haddF16 | hsubF16 | hmulF16 | hfmaF16 | hminF16 | hmaxF16 | haddBf16 | hsubBf16 | hmulBf16 | hfmaBf16 | hminBf16 | hmaxBf16 =>
    cases h
    change _ = true at hw
    refine (decodeWord_encRRR decodeWord_13 ..).trans ?_
    simp_all [decode13, Instr.wellFormed]
  case cvt =>
    cases h
    change _ = true at hw
    refine (decodeWord_encRRR decodeWord_14 ..).trans ?_
    simp_all [decode14, Instr.wellFormed]
  case recip | rsqrt | exp2 | log2 | sin | cos | tanh | sigm =>
    cases h
    change _ = true at hw
    refine (decodeWord_encRRR decodeWord_15 ..).trans ?_
    simp_all [decode15, accept, Instr.wellFormed]
  case dp4Si8 | dp4Si8ui8 | dp8Si4 | dp8Si4ui4 | dp4F8a | dp4F8b | dp8F4 | dp2Bf16 | dp2F16 =>
    cases h
    change _ = true at hw
    refine (decodeWord_encRRR decodeWord_16 ..).trans ?_
    simp_all [decode16, Instr.wellFormed]
  case dp4F8aSc | dp4F8bSc | dp8F4Sc =>
    cases h
    change _ = true at hw
    rename_i k d a b
    refine (decodeWord_encRRR decodeWord_17 ..).trans ?_
    rcases two_bits k with rfl | rfl | rfl | rfl <;> rfl
  case shflIdx | shflUpW | shflDownW | shflXorW | shflUp | shflDown | shflXor =>
    cases h
    change _ = true at hw
    refine (decodeWord_encRRR decodeWord_18 ..).trans ?_
    simp_all [decode18, accept, Instr.wellFormed]
  case lredAddSi32 | lredAddF32 | lredMinSi32 | lredMaxSi32 | lredMinF32 | lredMaxF32 | lredAnd | lredOr | lredXor =>
    cases h
    change _ = true at hw
    refine (decodeWord_encRRR decodeWord_19 ..).trans ?_
    simp_all [decode19, accept, Instr.wellFormed]
  case voteEvery | voteSome | voteSame | voteMask =>
    cases h
    change _ = true at hw
    refine (decodeWord_encRRR decodeWord_1A ..).trans ?_
    simp_all [decode1A, accept, Instr.wellFormed]
  case pand | por | pxor | pmov | p2r | regToPred | qand | qor | qxor | qmov =>
    cases h
    change _ = true at hw
    refine (decodeWord_encRRR decodeWord_1B ..).trans ?_
    simp_all [decode1B, accept, Instr.wellFormed]
  case bra =>
    cases h
    change _ = true at hw
    refine (decodeWord_encBR decodeWord_1C ..).trans ?_
    simp_all [decode1C, accept, Instr.wellFormed]
  case ubra =>
    cases h
    change _ = true at hw
    refine (decodeWord_encBR decodeWord_1D ..).trans ?_
    simp_all [decode1D, accept, Instr.wellFormed]
  case call =>
    cases h
    change _ = true at hw
    refine (decodeWord_encBR decodeWord_1E ..).trans ?_
    simp_all [decode1E, accept, Instr.wellFormed]
  case jr | callr | reform | exit | brk | nop | winb | uwinb | tokp | rnd | sysc | tret =>
    cases h
    change _ = true at hw
    refine (decodeWord_encRRR decodeWord_1F ..).trans ?_
    simp_all [decode1F, accept, Instr.wellFormed]
  case ldB | ldSb | ldH | ldSh | ldW | ldD | ldQ =>
    cases h
    change _ = true at hw
    refine (decodeWord_encMEM decodeWord_20 ..).trans ?_
    simp_all [decode20, Instr.wellFormed]
  case stB | stH | stW | stD | stQ =>
    cases h
    change _ = true at hw
    refine (decodeWord_encMEM decodeWord_21 ..).trans ?_
    simp_all [decode21, Instr.wellFormed]
  case lduW | lduD =>
    cases h
    change _ = true at hw
    refine (decodeWord_encMEM decodeWord_22 ..).trans ?_
    simp_all [decode22, Instr.wellFormed]
  case ldsW =>
    cases h
    change _ = true at hw
    refine (decodeWord_encMEM decodeWord_23 ..).trans ?_
    simp_all [decode23, Instr.wellFormed]
  case ldsD =>
    cases h
    change _ = true at hw
    refine (decodeWord_encMEM decodeWord_24 ..).trans ?_
    simp_all [decode24, Instr.wellFormed]
  case ldsQ =>
    cases h
    change _ = true at hw
    refine (decodeWord_encMEM decodeWord_25 ..).trans ?_
    simp_all [decode25, Instr.wellFormed]
  case stsW =>
    cases h
    change _ = true at hw
    refine (decodeWord_encMEM decodeWord_26 ..).trans ?_
    simp_all [decode26, Instr.wellFormed]
  case stsD =>
    cases h
    change _ = true at hw
    refine (decodeWord_encMEM decodeWord_27 ..).trans ?_
    simp_all [decode27, Instr.wellFormed]
  case stsQ =>
    cases h
    change _ = true at hw
    refine (decodeWord_encMEM decodeWord_28 ..).trans ?_
    simp_all [decode28, Instr.wellFormed]
  case ldpB | ldpSb | ldpH | ldpSh | ldpW | ldpD | ldpQ =>
    cases h
    change _ = true at hw
    refine (decodeWord_encMEM decodeWord_29 ..).trans ?_
    simp_all [decode29, Instr.wellFormed]
  case stpB | stpH | stpW | stpD | stpQ =>
    cases h
    change _ = true at hw
    refine (decodeWord_encMEM decodeWord_2A ..).trans ?_
    simp_all [decode2A, Instr.wellFormed]
  case atomAddSi32 | atomAddF32 | atomMinSi32 | atomMaxSi32 | atomMinUi32 | atomMaxUi32 | atomAnd | atomOr | atomXor | atomExchB32 | atomCasB32 | atomAddUi64 | atomExchB64 | atomCasB64 | atomLdx | atomStx =>
    cases h
    change _ = true at hw
    refine (decodeWord_encRRR decodeWord_2B ..).trans ?_
    simp_all [decode2B, accept, Instr.wellFormed]
  case capr =>
    cases h
    change _ = true at hw
    refine (decodeWord_encRI decodeWord_2C ..).trans ?_
    simp_all [decode2C, Instr.wellFormed]
  case srd | srdUniform | swr =>
    cases h
    change _ = true at hw
    refine (decodeWord_encRRR decodeWord_2D ..).trans ?_
    simp_all [decode2D, accept, Instr.wellFormed]
  case mredAddSi32 | mredAddF32 | mredMinSi32 | mredMaxSi32 | mredMinUi32 | mredMaxUi32 | mredAnd | mredOr | mredXor =>
    cases h
    change _ = true at hw
    refine (decodeWord_encRRR decodeWord_2E ..).trans ?_
    simp_all [decode2E, accept, Instr.wellFormed]
  case fence | waitc | wake | barArr | barWait | barSync | cbacq | cbrel | cbfill | cbdone =>
    cases h
    change _ = true at hw
    refine (decodeWord_encRRR decodeWord_2F ..).trans ?_
    simp_all [decode2F, accept, Instr.wellFormed]
  case cpy | cpy2d | cpyred | cpyMx | qfence | qwait =>
    cases h
    change _ = true at hw
    refine (decodeWord_encRRR decodeWord_30 ..).trans ?_
    simp_all [decode30, accept, Instr.wellFormed]
  case mldSt | mswap | mma | maccRd | mst | maccClr | mstat =>
    cases h
    change _ = true at hw
    refine (decodeWord_encRRR decodeWord_31 ..).trans ?_
    simp_all [decode31, accept, Instr.wellFormed]
  case hread =>
    cases h
    change _ = true at hw
    refine (decodeWord_encRRR decodeWord_32 ..).trans ?_
    simp_all [decode32, accept, Instr.wellFormed]
  case xsort | a2av | areduce =>
    cases h
    change _ = true at hw
    refine (decodeWord_encRRR decodeWord_33 ..).trans ?_
    simp_all [decode33, accept, Instr.wellFormed]
  case rput | rget | ratom | rflush =>
    cases h
    change _ = true at hw
    refine (decodeWord_encRRR decodeWord_34 ..).trans ?_
    simp_all [decode34, accept, Instr.wellFormed]
  case kvld | roost | rouse =>
    cases h
    change _ = true at hw
    refine (decodeWord_encRRR decodeWord_35 ..).trans ?_
    simp_all [decode35, accept, Instr.wellFormed]
  case lnch | cncl | gang =>
    cases h
    change _ = true at hw
    refine (decodeWord_encRRR decodeWord_36 ..).trans ?_
    simp_all [decode36, accept, Instr.wellFormed]
  case psrd | pswr =>
    cases h
    change _ = true at hw
    refine (decodeWord_encRRR decodeWord_37 ..).trans ?_
    simp_all [decode37, accept, Instr.wellFormed]
  case guardPrefix =>
    cases h
    change _ = true at hw
    refine (decodeWord_encBR decodeWord_3E ..).trans ?_
    simp_all [decode3E, accept, Instr.wellFormed]
  all_goals cases h

/-! ## Words from their fields (R144) -/

theorem extract_append_extract {w n k i : Nat} (x : BitVec w) :
    x.extractLsb' (i + n) k ++ x.extractLsb' i n = x.extractLsb' i (k + n) := by
  apply BitVec.eq_of_getLsbD_eq
  intro j hj
  simp only [BitVec.getLsbD_append, BitVec.getLsbD_extractLsb', hj]
  by_cases h : j < n
  · simp [h]
  · have : j - n < k := by omega
    simp [h, this, show i + n + (j - n) = i + j by omega]

theorem append_extract {n k : Nat} (x : BitVec (k + n)) : x.extractLsb' n k ++ x.extractLsb' 0 n = x := by
  have h := extract_append_extract (n := n) (k := k) (i := 0) x
  rwa [Nat.zero_add, extract_whole] at h

theorem append_extract_of {n k : Nat} {x : BitVec (k + n)} {y : BitVec k} (h : x.extractLsb' n k = y) :
    y ++ x.extractLsb' 0 n = x :=
  h ▸ append_extract x

theorem pad4_of_high {x : BitVec 7} (h : x.extractLsb' 3 4 = 0#4) : 0#4 ++ x.extractLsb' 0 3 = x := append_extract_of h
theorem pad3_of_high {x : BitVec 7} (h : x.extractLsb' 4 3 = 0#3) : 0#3 ++ x.extractLsb' 0 4 = x := append_extract_of h
theorem pad1_of_high {x : BitVec 7} (h : x.extractLsb' 6 1 = 0#1) : 0#1 ++ x.extractLsb' 0 6 = x := append_extract_of h
theorem pad5_of_high {x : BitVec 7} (h : x.extractLsb' 2 5 = 0#5) : 0#5 ++ x.extractLsb' 0 2 = x := append_extract_of h
theorem pad4_of_high18 {x : BitVec 18} (h : x.extractLsb' 14 4 = 0#4) : 0#4 ++ x.extractLsb' 0 14 = x := append_extract_of h

theorem ofBool_of_extract {n : Nat} (x : BitVec n) (k : Nat) : BitVec.ofBool (x.getLsbD k) = x.extractLsb' k 1 := by
  apply BitVec.eq_of_getLsbD_eq
  intro j hj
  obtain rfl : j = 0 := by omega
  simp

theorem cond_parts (x : BitVec 4) : BitVec.ofBool x[3] ++ x.extractLsb' 0 3 = x := by
  rw [← BitVec.getLsbD_eq_getElem, ofBool_of_extract]
  exact append_extract (n := 3) (k := 1) x

theorem tile_parts {d : BitVec 7} (h : d.extractLsb' 4 3 = 0#3) :
    0#3 ++ BitVec.ofBool d[3] ++ d.extractLsb' 0 3 = d := by
  have h4 : BitVec.ofBool d[3] ++ d.extractLsb' 0 3 = d.extractLsb' 0 4 := by
    rw [← BitVec.getLsbD_eq_getElem, ofBool_of_extract]
    exact extract_append_extract (n := 3) (k := 1) (i := 0) d
  calc 0#3 ++ BitVec.ofBool d[3] ++ d.extractLsb' 0 3 = 0#3 ++ (BitVec.ofBool d[3] ++ d.extractLsb' 0 3) := BitVec.append_assoc ..
    _ = 0#3 ++ d.extractLsb' 0 4 := by rw [h4]
    _ = d := pad3_of_high h

/-- A B field of the parts of a conversion (R182). -/
theorem cvt_parts (b : BitVec 7) : b.extractLsb' 3 4 ++ BitVec.ofBool b[2] ++ b.extractLsb' 0 2 = b := by
  have hlow : BitVec.ofBool b[2] ++ b.extractLsb' 0 2 = b.extractLsb' 0 3 := by
    rw [← BitVec.getLsbD_eq_getElem, ofBool_of_extract]
    exact extract_append_extract (n := 2) (k := 1) (i := 0) b
  calc b.extractLsb' 3 4 ++ BitVec.ofBool b[2] ++ b.extractLsb' 0 2
    _ = b.extractLsb' 3 4 ++ (BitVec.ofBool b[2] ++ b.extractLsb' 0 2) := BitVec.append_assoc ..
    _ = b.extractLsb' 3 4 ++ b.extractLsb' 0 3 := by rw [hlow]
    _ = b := append_extract (n := 3) (k := 4) b

/-- A B field of two parts with two zero bits below them (R159). -/
theorem fence_parts {b : BitVec 7} (h : b.extractLsb' 0 2 = 0#2) :
    b.extractLsb' 4 3 ++ b.extractLsb' 2 2 ++ 0#2 = b := by
  have hlow : b.extractLsb' 2 2 ++ 0#2 = b.extractLsb' 0 4 := h ▸ extract_append_extract (n := 2) (k := 2) (i := 0) b
  calc b.extractLsb' 4 3 ++ b.extractLsb' 2 2 ++ 0#2
    _ = b.extractLsb' 4 3 ++ (b.extractLsb' 2 2 ++ 0#2) := BitVec.append_assoc ..
    _ = b.extractLsb' 4 3 ++ b.extractLsb' 0 4 := by rw [hlow]
    _ = b := append_extract (n := 4) (k := 3) b

/-- A B field of two parts with two zero bits between them (R159). -/
theorem wait_parts {b : BitVec 7} (h : b.extractLsb' 2 2 = 0#2) :
    b.extractLsb' 4 3 ++ 0#2 ++ b.extractLsb' 0 2 = b := by
  have hlow : 0#2 ++ b.extractLsb' 0 2 = b.extractLsb' 0 4 := h ▸ extract_append_extract (n := 2) (k := 2) (i := 0) b
  calc b.extractLsb' 4 3 ++ 0#2 ++ b.extractLsb' 0 2
    _ = b.extractLsb' 4 3 ++ (0#2 ++ b.extractLsb' 0 2) := BitVec.append_assoc ..
    _ = b.extractLsb' 4 3 ++ b.extractLsb' 0 4 := by rw [hlow]
    _ = b := append_extract (n := 4) (k := 3) b

/-! ## The decoder of each major inverted -/

theorem eq_ofNat_of_toNat {n k : Nat} {x : BitVec n} (h : x.toNat = k) : x = BitVec.ofNat n k := by
  rw [← h, BitVec.ofNat_toNat, BitVec.setWidth_eq]

/-- `w` is the word of the well-formed instruction `i`. -/
def IsWordOf (w : Word) (i : Instr) : Prop := encode i = some w ∧ i.wellFormed = true

theorem IsWordOf.of_ok {w : Word} {i j : Instr} (h : Except.ok j = (Except.ok i : Except IllReason Instr))
    (hj : IsWordOf w j) : IsWordOf w i := by
  cases h
  exact hj

theorem IsWordOf.of_accept {w : Word} {ok : Bool} {i j : Instr} (h : accept ok j = .ok i) (hj : ok = true → IsWordOf w j) :
    IsWordOf w i := by
  cases ok
  · cases h
  · exact .of_ok h (hj rfl)

theorem isWordOf_decode01 {i : Instr} {s : Bool} {fn : BitVec 4} {d a b : BitVec 7} (h : decode01 s fn d a b = .ok i) :
    IsWordOf (encRRR s 0x01#6 fn d a b) i := by
  unfold decode01 at h
  split at h
  case h_17 => cases h
  case h_1 | h_2 | h_3 | h_4 | h_5 | h_6 | h_7 | h_8 | h_9 | h_10 | h_11 | h_12 | h_13 | h_14 | h_15 | h_16 =>
    rename_i heq
    obtain rfl := eq_ofNat_of_toNat heq
    exact .of_ok h ⟨rfl, rfl⟩

theorem isWordOf_decode02 {i : Instr} {s : Bool} {fn : BitVec 4} {d a b : BitVec 7} (h : decode02 s fn d a b = .ok i) :
    IsWordOf (encRRR s 0x02#6 fn d a b) i := by
  unfold decode02 at h
  split at h
  case h_17 => cases h
  case h_1 | h_2 | h_3 | h_4 | h_5 | h_6 | h_7 | h_8 | h_9 | h_10 | h_11 | h_12 | h_13 | h_14 | h_15 | h_16 =>
    rename_i heq
    obtain rfl := eq_ofNat_of_toNat heq
    exact .of_ok h ⟨rfl, rfl⟩

theorem isWordOf_decode03 {i : Instr} {s : Bool} {d a : BitVec 7} {j : BitVec 11} (h : decode03 s d a j = .ok i) :
    IsWordOf (encRI s 0x03#6 d a j) i := by
  unfold decode03 at h
  exact .of_ok h ⟨rfl, rfl⟩

theorem isWordOf_decode04 {i : Instr} {s : Bool} {d : BitVec 7} {j : BitVec 18} (h : decode04 s d j = .ok i) :
    IsWordOf (encLI s 0x04#6 d j) i := by
  unfold decode04 at h
  exact .of_ok h ⟨rfl, rfl⟩

theorem isWordOf_decode05 {i : Instr} {s : Bool} {d : BitVec 7} {j : BitVec 18} (h : decode05 s d j = .ok i) :
    IsWordOf (encLI s 0x05#6 d j) i := by
  unfold decode05 at h
  refine .of_accept h fun hok => ?_
  simp only [beq_iff_eq] at hok
  exact ⟨congrArg some (by simp [pad4_of_high18, hok]), rfl⟩

theorem isWordOf_decode06 {i : Instr} {s : Bool} {fn : BitVec 4} {d a b : BitVec 7} (h : decode06 s fn d a b = .ok i) :
    IsWordOf (encRRR s 0x06#6 fn d a b) i := by
  unfold decode06 at h
  split at h
  case h_11 => cases h
  case h_1 | h_2 | h_3 | h_4 | h_5 | h_6 | h_7 | h_8 | h_9 | h_10 =>
    rename_i heq
    obtain rfl := eq_ofNat_of_toNat heq
    refine .of_accept h fun hok => ?_
    simp only [beq_iff_eq] at hok
    exact ⟨congrArg some (by simp [pad4_of_high, hok]), rfl⟩

theorem isWordOf_decode07 {i : Instr} {s : Bool} {fn : BitVec 4} {d a b : BitVec 7} (h : decode07 s fn d a b = .ok i) :
    IsWordOf (encRRR s 0x07#6 fn d a b) i := by
  unfold decode07 at h
  split at h
  case h_12 => cases h
  case h_8 | h_11 =>
    rename_i heq
    obtain rfl := eq_ofNat_of_toNat heq
    exact .of_ok h ⟨rfl, rfl⟩
  case h_1 | h_2 | h_3 | h_4 | h_5 | h_6 | h_7 | h_9 | h_10 =>
    rename_i heq
    obtain rfl := eq_ofNat_of_toNat heq
    refine .of_accept h fun hok => ?_
    simp only [beq_iff_eq] at hok
    exact ⟨congrArg some (by simp [hok]), rfl⟩

theorem isWordOf_decode08 {i : Instr} {s : Bool} {d a : BitVec 7} {j : BitVec 11} (h : decode08 s d a j = .ok i) :
    IsWordOf (encRI s 0x08#6 d a j) i := by
  unfold decode08 at h
  exact .of_ok h ⟨rfl, rfl⟩

theorem isWordOf_decode09 {i : Instr} {s : Bool} {fn : BitVec 4} {d a b : BitVec 7} (h : decode09 s fn d a b = .ok i) :
    IsWordOf (encRRR s 0x09#6 fn d a b) i := by
  unfold decode09 at h
  split at h
  case h_17 => cases h
  case h_1 | h_2 | h_3 | h_4 | h_5 | h_6 | h_7 | h_8 | h_9 | h_10 | h_11 | h_12 | h_13 | h_14 | h_15 | h_16 =>
    rename_i heq
    obtain rfl := eq_ofNat_of_toNat heq
    exact .of_ok h ⟨rfl, rfl⟩

theorem isWordOf_decode0A {i : Instr} {s : Bool} {d a : BitVec 7} {j : BitVec 11} (h : decode0A s d a j = .ok i) :
    IsWordOf (encRI s 0x0A#6 d a j) i := by
  unfold decode0A at h
  exact .of_ok h ⟨rfl, rfl⟩

theorem isWordOf_decode0B {i : Instr} {s : Bool} {d : BitVec 7} {j : BitVec 18} (h : decode0B s d j = .ok i) :
    IsWordOf (encLI s 0x0B#6 d j) i := by
  unfold decode0B at h
  exact .of_ok h ⟨rfl, rfl⟩

theorem isWordOf_decode0C {i : Instr} {s : Bool} {d : BitVec 7} {j : BitVec 18} (h : decode0C s d j = .ok i) :
    IsWordOf (encLI s 0x0C#6 d j) i := by
  unfold decode0C at h
  refine .of_accept h fun hok => ?_
  simp only [beq_iff_eq] at hok
  exact ⟨congrArg some (by simp [pad4_of_high18, hok]), rfl⟩

theorem isWordOf_decode0D {i : Instr} {s : Bool} {fn : BitVec 4} {d a b : BitVec 7} (h : decode0D s fn d a b = .ok i) :
    IsWordOf (encRRR s 0x0D#6 fn d a b) i := by
  unfold decode0D at h
  split at h
  case h_11 => cases h
  case h_1 | h_2 | h_3 | h_4 | h_5 | h_6 | h_7 | h_8 | h_9 | h_10 =>
    rename_i heq
    obtain rfl := eq_ofNat_of_toNat heq
    refine .of_accept h fun hok => ?_
    simp only [beq_iff_eq] at hok
    exact ⟨congrArg some (by simp [pad4_of_high, hok]), rfl⟩

theorem isWordOf_decode10 {i : Instr} {s : Bool} {fn : BitVec 4} {d a b : BitVec 7} (h : decode10 s fn d a b = .ok i) :
    IsWordOf (encRRR s 0x10#6 fn d a b) i := by
  unfold decode10 at h
  split at h
  case h_11 => cases h
  case h_1 | h_2 | h_3 | h_4 | h_5 | h_6 | h_7 =>
    rename_i heq
    obtain rfl := eq_ofNat_of_toNat heq
    exact .of_ok h ⟨rfl, rfl⟩
  case h_8 | h_9 | h_10 =>
    rename_i heq
    obtain rfl := eq_ofNat_of_toNat heq
    refine .of_accept h fun hok => ?_
    simp only [beq_iff_eq] at hok
    exact ⟨congrArg some (by simp [hok]), rfl⟩

theorem isWordOf_decode11 {i : Instr} {s : Bool} {fn : BitVec 4} {d a b : BitVec 7} (h : decode11 s fn d a b = .ok i) :
    IsWordOf (encRRR s 0x11#6 fn d a b) i := by
  unfold decode11 at h
  split at h
  case h_8 => cases h
  case h_1 | h_2 | h_3 | h_4 | h_5 | h_6 | h_7 =>
    rename_i heq
    obtain rfl := eq_ofNat_of_toNat heq
    exact .of_ok h ⟨rfl, rfl⟩

theorem isWordOf_decode12 {i : Instr} {s : Bool} {fn : BitVec 4} {d a b : BitVec 7} (h : decode12 s fn d a b = .ok i) :
    IsWordOf (encRRR s 0x12#6 fn d a b) i := by
  unfold decode12 at h
  split at h
  case h_7 => cases h
  case h_1 | h_2 | h_3 | h_4 | h_5 | h_6 =>
    rename_i heq
    obtain rfl := eq_ofNat_of_toNat heq
    refine .of_accept h fun hok => ?_
    simp only [beq_iff_eq] at hok
    exact ⟨congrArg some (by simp [pad4_of_high, hok]), rfl⟩

theorem isWordOf_decode13 {i : Instr} {s : Bool} {fn : BitVec 4} {d a b : BitVec 7} (h : decode13 s fn d a b = .ok i) :
    IsWordOf (encRRR s 0x13#6 fn d a b) i := by
  unfold decode13 at h
  split at h
  case h_13 => cases h
  case h_1 | h_2 | h_3 | h_4 | h_5 | h_6 | h_7 | h_8 | h_9 | h_10 | h_11 | h_12 =>
    rename_i heq
    obtain rfl := eq_ofNat_of_toNat heq
    exact .of_ok h ⟨rfl, rfl⟩

theorem isWordOf_decode14 {i : Instr} {s : Bool} {fn : BitVec 4} {d a b : BitVec 7} (h : decode14 s fn d a b = .ok i) :
    IsWordOf (encRRR s 0x14#6 fn d a b) i := by
  unfold decode14 at h
  split at h
  case isFalse => cases h
  case isTrue hok => exact .of_ok h ⟨congrArg some (by simp [cvt_parts]), hok⟩

theorem isWordOf_decode15 {i : Instr} {s : Bool} {fn : BitVec 4} {d a b : BitVec 7} (h : decode15 s fn d a b = .ok i) :
    IsWordOf (encRRR s 0x15#6 fn d a b) i := by
  unfold decode15 at h
  split at h
  case h_9 => cases h
  case h_1 | h_2 | h_3 | h_4 | h_5 | h_6 | h_7 | h_8 =>
    rename_i heq
    obtain rfl := eq_ofNat_of_toNat heq
    refine .of_accept h fun hok => ?_
    simp only [beq_iff_eq] at hok
    exact ⟨congrArg some (by simp [hok]), rfl⟩

theorem isWordOf_decode16 {i : Instr} {s : Bool} {fn : BitVec 4} {d a b : BitVec 7} (h : decode16 s fn d a b = .ok i) :
    IsWordOf (encRRR s 0x16#6 fn d a b) i := by
  unfold decode16 at h
  split at h
  case h_10 => cases h
  case h_1 | h_2 | h_3 | h_4 | h_5 | h_6 | h_7 | h_8 | h_9 =>
    rename_i heq
    obtain rfl := eq_ofNat_of_toNat heq
    exact .of_ok h ⟨rfl, rfl⟩

theorem isWordOf_decode17 {i : Instr} {s : Bool} {fn : BitVec 4} {d a b : BitVec 7} (h : decode17 s fn d a b = .ok i) :
    IsWordOf (encRRR s 0x17#6 fn d a b) i := by
  unfold decode17 at h
  split at h
  case h_13 => cases h
  all_goals
    rename_i heq
    obtain rfl := eq_ofNat_of_toNat heq
    exact .of_ok h ⟨rfl, rfl⟩

theorem isWordOf_decode18 {i : Instr} {s : Bool} {fn : BitVec 4} {d a b : BitVec 7} (h : decode18 s fn d a b = .ok i) :
    IsWordOf (encRRR s 0x18#6 fn d a b) i := by
  unfold decode18 at h
  split at h
  case h_8 => cases h
  case h_1 | h_5 | h_6 | h_7 =>
    rename_i heq
    obtain rfl := eq_ofNat_of_toNat heq
    exact .of_ok h ⟨rfl, rfl⟩
  case h_2 | h_3 | h_4 =>
    rename_i heq
    obtain rfl := eq_ofNat_of_toNat heq
    refine .of_accept h fun hok => ?_
    simp only [beq_iff_eq] at hok
    exact ⟨congrArg some (by simp [pad4_of_high, hok]), rfl⟩

theorem isWordOf_decode19 {i : Instr} {s : Bool} {fn : BitVec 4} {d a b : BitVec 7} (h : decode19 s fn d a b = .ok i) :
    IsWordOf (encRRR s 0x19#6 fn d a b) i := by
  unfold decode19 at h
  split at h
  case h_10 => cases h
  case h_1 | h_2 | h_3 | h_4 | h_5 | h_6 | h_7 | h_8 | h_9 =>
    rename_i heq
    obtain rfl := eq_ofNat_of_toNat heq
    refine .of_accept h fun hok => ?_
    simp only [beq_iff_eq] at hok
    exact ⟨congrArg some (by simp [pad4_of_high, hok]), rfl⟩

theorem isWordOf_decode1A {i : Instr} {s : Bool} {fn : BitVec 4} {d a b : BitVec 7} (h : decode1A s fn d a b = .ok i) :
    IsWordOf (encRRR s 0x1A#6 fn d a b) i := by
  unfold decode1A at h
  split at h
  case h_5 => cases h
  case h_1 | h_2 | h_3 | h_4 =>
    rename_i heq
    obtain rfl := eq_ofNat_of_toNat heq
    refine .of_accept h fun hok => ?_
    simp only [Bool.and_eq_true, beq_iff_eq] at hok
    exact ⟨congrArg some (by simp [pad4_of_high, pad3_of_high, hok]), rfl⟩

theorem isWordOf_decode1B {i : Instr} {s : Bool} {fn : BitVec 4} {d a b : BitVec 7} (h : decode1B s fn d a b = .ok i) :
    IsWordOf (encRRR s 0x1B#6 fn d a b) i := by
  unfold decode1B at h
  split at h
  case h_11 => cases h
  case h_1 | h_2 | h_3 | h_4 | h_5 | h_6 | h_7 | h_8 | h_9 | h_10 =>
    rename_i heq
    obtain rfl := eq_ofNat_of_toNat heq
    refine .of_accept h fun hok => ?_
    simp only [Bool.and_eq_true, beq_iff_eq] at hok
    exact ⟨congrArg some (by simp [pad4_of_high, pad3_of_high, hok]), rfl⟩

theorem isWordOf_decode1C {i : Instr} {s : Bool} {c : BitVec 4} {o : BitVec 21} (h : decode1C s c o = .ok i) :
    IsWordOf (encBR s 0x1C#6 c o) i := by
  unfold decode1C at h
  exact .of_accept h fun hok => ⟨congrArg some (by simp [cond_parts]), hok⟩

theorem isWordOf_decode1D {i : Instr} {s : Bool} {c : BitVec 4} {o : BitVec 21} (h : decode1D s c o = .ok i) :
    IsWordOf (encBR s 0x1D#6 c o) i := by
  unfold decode1D at h
  exact .of_accept h fun hok => ⟨congrArg some (by simp [cond_parts]), hok⟩

theorem isWordOf_decode1E {i : Instr} {s : Bool} {c : BitVec 4} {o : BitVec 21} (h : decode1E s c o = .ok i) :
    IsWordOf (encBR s 0x1E#6 c o) i := by
  unfold decode1E at h
  exact .of_accept h fun hok => ⟨congrArg some (by simp [cond_parts]), hok⟩

theorem isWordOf_decode1F {i : Instr} {s : Bool} {fn : BitVec 4} {d a b : BitVec 7} (h : decode1F s fn d a b = .ok i) :
    IsWordOf (encRRR s 0x1F#6 fn d a b) i := by
  unfold decode1F at h
  split at h
  case h_13 => cases h
  case h_1 | h_2 | h_3 | h_4 | h_5 | h_6 | h_7 | h_8 | h_9 | h_10 | h_11 | h_12 =>
    rename_i heq
    obtain rfl := eq_ofNat_of_toNat heq
    refine .of_accept h fun hok => ?_
    simp only [Bool.and_eq_true, beq_iff_eq] at hok
    exact ⟨congrArg some (by simp [pad4_of_high, pad3_of_high, hok]), rfl⟩

theorem isWordOf_decode20 {i : Instr} {s : Bool} {d a : BitVec 7} {u : BitVec 3} {o : BitVec 8} (h : decode20 s d a u o = .ok i) :
    IsWordOf (encMEM s 0x20#6 d a u o) i := by
  unfold decode20 at h
  split at h
  case h_8 => cases h
  case h_1 | h_2 | h_3 | h_4 | h_5 | h_6 | h_7 =>
    rename_i heq
    obtain rfl := eq_ofNat_of_toNat heq
    exact .of_ok h ⟨rfl, rfl⟩

theorem isWordOf_decode21 {i : Instr} {s : Bool} {d a : BitVec 7} {u : BitVec 3} {o : BitVec 8} (h : decode21 s d a u o = .ok i) :
    IsWordOf (encMEM s 0x21#6 d a u o) i := by
  unfold decode21 at h
  split at h
  case h_6 => cases h
  case h_1 | h_2 | h_3 | h_4 | h_5 =>
    rename_i heq
    obtain rfl := eq_ofNat_of_toNat heq
    exact .of_ok h ⟨rfl, rfl⟩

theorem isWordOf_decode22 {i : Instr} {s : Bool} {d a : BitVec 7} {u : BitVec 3} {o : BitVec 8} (h : decode22 s d a u o = .ok i) :
    IsWordOf (encMEM s 0x22#6 d a u o) i := by
  unfold decode22 at h
  split at h
  case h_3 => cases h
  case h_1 | h_2 =>
    rename_i heq
    obtain rfl := eq_ofNat_of_toNat heq
    exact .of_ok h ⟨rfl, rfl⟩

theorem isWordOf_decode23 {i : Instr} {s : Bool} {d a : BitVec 7} {u : BitVec 3} {o : BitVec 8} (h : decode23 s d a u o = .ok i) :
    IsWordOf (encMEM s 0x23#6 d a u o) i := by
  unfold decode23 at h
  exact .of_ok h ⟨rfl, rfl⟩

theorem isWordOf_decode24 {i : Instr} {s : Bool} {d a : BitVec 7} {u : BitVec 3} {o : BitVec 8} (h : decode24 s d a u o = .ok i) :
    IsWordOf (encMEM s 0x24#6 d a u o) i := by
  unfold decode24 at h
  exact .of_ok h ⟨rfl, rfl⟩

theorem isWordOf_decode25 {i : Instr} {s : Bool} {d a : BitVec 7} {u : BitVec 3} {o : BitVec 8} (h : decode25 s d a u o = .ok i) :
    IsWordOf (encMEM s 0x25#6 d a u o) i := by
  unfold decode25 at h
  exact .of_ok h ⟨rfl, rfl⟩

theorem isWordOf_decode26 {i : Instr} {s : Bool} {d a : BitVec 7} {u : BitVec 3} {o : BitVec 8} (h : decode26 s d a u o = .ok i) :
    IsWordOf (encMEM s 0x26#6 d a u o) i := by
  unfold decode26 at h
  exact .of_ok h ⟨rfl, rfl⟩

theorem isWordOf_decode27 {i : Instr} {s : Bool} {d a : BitVec 7} {u : BitVec 3} {o : BitVec 8} (h : decode27 s d a u o = .ok i) :
    IsWordOf (encMEM s 0x27#6 d a u o) i := by
  unfold decode27 at h
  exact .of_ok h ⟨rfl, rfl⟩

theorem isWordOf_decode28 {i : Instr} {s : Bool} {d a : BitVec 7} {u : BitVec 3} {o : BitVec 8} (h : decode28 s d a u o = .ok i) :
    IsWordOf (encMEM s 0x28#6 d a u o) i := by
  unfold decode28 at h
  exact .of_ok h ⟨rfl, rfl⟩

theorem isWordOf_decode29 {i : Instr} {s : Bool} {d a : BitVec 7} {u : BitVec 3} {o : BitVec 8} (h : decode29 s d a u o = .ok i) :
    IsWordOf (encMEM s 0x29#6 d a u o) i := by
  unfold decode29 at h
  split at h
  case h_8 => cases h
  case h_1 | h_2 | h_3 | h_4 | h_5 | h_6 | h_7 =>
    rename_i heq
    obtain rfl := eq_ofNat_of_toNat heq
    exact .of_ok h ⟨rfl, rfl⟩

theorem isWordOf_decode2A {i : Instr} {s : Bool} {d a : BitVec 7} {u : BitVec 3} {o : BitVec 8} (h : decode2A s d a u o = .ok i) :
    IsWordOf (encMEM s 0x2A#6 d a u o) i := by
  unfold decode2A at h
  split at h
  case h_6 => cases h
  case h_1 | h_2 | h_3 | h_4 | h_5 =>
    rename_i heq
    obtain rfl := eq_ofNat_of_toNat heq
    exact .of_ok h ⟨rfl, rfl⟩

theorem isWordOf_decode2B {i : Instr} {s : Bool} {fn : BitVec 4} {d a b : BitVec 7} (h : decode2B s fn d a b = .ok i) :
    IsWordOf (encRRR s 0x2B#6 fn d a b) i := by
  unfold decode2B at h
  split at h
  case h_17 => cases h
  case h_1 | h_2 | h_3 | h_4 | h_5 | h_6 | h_7 | h_8 | h_9 | h_10 | h_11 | h_12 | h_13 | h_14 | h_15 | h_16 =>
    rename_i heq
    obtain rfl := eq_ofNat_of_toNat heq
    exact .of_accept h fun hok => ⟨rfl, hok⟩

theorem isWordOf_decode2C {i : Instr} {s : Bool} {d a : BitVec 7} {j : BitVec 11} (h : decode2C s d a j = .ok i) :
    IsWordOf (encRI s 0x2C#6 d a j) i := by
  unfold decode2C at h
  exact .of_ok h ⟨rfl, rfl⟩

theorem isWordOf_decode2D {i : Instr} {s : Bool} {fn : BitVec 4} {d a b : BitVec 7} (h : decode2D s fn d a b = .ok i) :
    IsWordOf (encRRR s 0x2D#6 fn d a b) i := by
  unfold decode2D at h
  split at h
  case h_4 => cases h
  case h_1 | h_2 =>
    rename_i heq
    obtain rfl := eq_ofNat_of_toNat heq
    refine .of_accept h fun hok => ?_
    simp only [beq_iff_eq] at hok
    exact ⟨congrArg some (by simp [hok]), rfl⟩
  case h_3 heq =>
    obtain rfl := eq_ofNat_of_toNat heq
    split at h
    case isTrue => cases h
    case isFalse hb =>
      refine .of_accept h fun hok => ?_
      simp only [beq_iff_eq] at hok
      have hb14 : b = 14#7 := by simpa [hok] using hb
      exact ⟨congrArg some (by simp [hok, hb14]), rfl⟩

theorem isWordOf_decode2E {i : Instr} {s : Bool} {fn : BitVec 4} {d a b : BitVec 7} (h : decode2E s fn d a b = .ok i) :
    IsWordOf (encRRR s 0x2E#6 fn d a b) i := by
  unfold decode2E at h
  split at h
  case h_10 => cases h
  case h_1 | h_2 | h_3 | h_4 | h_5 | h_6 | h_7 | h_8 | h_9 =>
    rename_i heq
    obtain rfl := eq_ofNat_of_toNat heq
    exact .of_accept h fun hok => ⟨rfl, hok⟩

theorem isWordOf_decode2F {i : Instr} {s : Bool} {fn : BitVec 4} {d a b : BitVec 7} (h : decode2F s fn d a b = .ok i) :
    IsWordOf (encRRR s 0x2F#6 fn d a b) i := by
  unfold decode2F at h
  split at h
  case h_11 => cases h
  all_goals
    rename_i heq
    obtain rfl := eq_ofNat_of_toNat heq
    refine .of_accept h fun hok => ?_
    simp only [Bool.and_eq_true, beq_iff_eq] at hok
    exact ⟨congrArg some (by simp [fence_parts, wait_parts, pad3_of_high, hok]), by simp [Instr.wellFormed, hok]⟩

theorem isWordOf_decode30 {i : Instr} {s : Bool} {fn : BitVec 4} {d a b : BitVec 7} (h : decode30 s fn d a b = .ok i) :
    IsWordOf (encRRR s 0x30#6 fn d a b) i := by
  unfold decode30 at h
  split at h
  case h_7 => cases h
  case h_1 | h_2 | h_3 | h_4 | h_5 | h_6 =>
    rename_i heq
    obtain rfl := eq_ofNat_of_toNat heq
    refine .of_accept h fun hok => ?_
    simp only [Bool.and_eq_true, beq_iff_eq] at hok
    exact ⟨congrArg some (by simp [pad3_of_high, pad1_of_high, hok]), rfl⟩

theorem isWordOf_decode31 {i : Instr} {s : Bool} {fn : BitVec 4} {d a b : BitVec 7} (h : decode31 s fn d a b = .ok i) :
    IsWordOf (encRRR s 0x31#6 fn d a b) i := by
  unfold decode31 at h
  split at h
  case h_8 => cases h
  case h_4 =>
    rename_i heq
    obtain rfl := eq_ofNat_of_toNat heq
    exact .of_ok h ⟨rfl, rfl⟩
  case h_1 | h_2 | h_3 | h_5 | h_6 | h_7 =>
    rename_i heq
    obtain rfl := eq_ofNat_of_toNat heq
    refine .of_accept h fun hok => ?_
    simp only [Bool.and_eq_true, beq_iff_eq] at hok
    exact ⟨congrArg some (by simp [pad4_of_high, tile_parts, pad3_of_high, pad5_of_high, hok]), rfl⟩

theorem isWordOf_decode32 {i : Instr} {s : Bool} {fn : BitVec 4} {d a b : BitVec 7} (h : decode32 s fn d a b = .ok i) :
    IsWordOf (encRRR s 0x32#6 fn d a b) i := by
  unfold decode32 at h
  split at h
  case h_2 => cases h
  case h_1 =>
    rename_i heq
    obtain rfl := eq_ofNat_of_toNat heq
    refine .of_accept h fun hok => ?_
    simp only [Bool.and_eq_true, beq_iff_eq] at hok
    exact ⟨congrArg some (by simp [pad1_of_high, hok]), rfl⟩

theorem isWordOf_decode33 {i : Instr} {s : Bool} {fn : BitVec 4} {d a b : BitVec 7} (h : decode33 s fn d a b = .ok i) :
    IsWordOf (encRRR s 0x33#6 fn d a b) i := by
  unfold decode33 at h
  split at h
  case h_4 => cases h
  case h_1 | h_2 | h_3 =>
    rename_i heq
    obtain rfl := eq_ofNat_of_toNat heq
    refine .of_accept h fun hok => ?_
    simp only [Bool.and_eq_true, beq_iff_eq] at hok
    exact ⟨congrArg some (by simp [pad1_of_high, hok]), rfl⟩

theorem isWordOf_decode34 {i : Instr} {s : Bool} {fn : BitVec 4} {d a b : BitVec 7} (h : decode34 s fn d a b = .ok i) :
    IsWordOf (encRRR s 0x34#6 fn d a b) i := by
  unfold decode34 at h
  split at h
  case h_5 => cases h
  case h_1 | h_2 | h_3 | h_4 =>
    rename_i heq
    obtain rfl := eq_ofNat_of_toNat heq
    refine .of_accept h fun hok => ?_
    simp only [Bool.and_eq_true, beq_iff_eq] at hok
    exact ⟨congrArg some (by simp [pad1_of_high, hok]), rfl⟩

theorem isWordOf_decode35 {i : Instr} {s : Bool} {fn : BitVec 4} {d a b : BitVec 7} (h : decode35 s fn d a b = .ok i) :
    IsWordOf (encRRR s 0x35#6 fn d a b) i := by
  unfold decode35 at h
  split at h
  case h_4 => cases h
  case h_1 | h_2 | h_3 =>
    rename_i heq
    obtain rfl := eq_ofNat_of_toNat heq
    refine .of_accept h fun hok => ?_
    simp only [Bool.and_eq_true, beq_iff_eq] at hok
    exact ⟨congrArg some (by simp [pad1_of_high, hok]), rfl⟩

theorem isWordOf_decode36 {i : Instr} {s : Bool} {fn : BitVec 4} {d a b : BitVec 7} (h : decode36 s fn d a b = .ok i) :
    IsWordOf (encRRR s 0x36#6 fn d a b) i := by
  unfold decode36 at h
  split at h
  case h_4 => cases h
  case h_1 | h_2 | h_3 =>
    rename_i heq
    obtain rfl := eq_ofNat_of_toNat heq
    refine .of_accept h fun hok => ?_
    simp only [Bool.and_eq_true, beq_iff_eq] at hok
    exact ⟨congrArg some (by simp [pad1_of_high, pad5_of_high, hok]), rfl⟩

theorem isWordOf_decode37 {i : Instr} {s : Bool} {fn : BitVec 4} {d a b : BitVec 7} (h : decode37 s fn d a b = .ok i) :
    IsWordOf (encRRR s 0x37#6 fn d a b) i := by
  unfold decode37 at h
  split at h
  case h_3 => cases h
  case h_1 | h_2 =>
    rename_i heq
    obtain rfl := eq_ofNat_of_toNat heq
    refine .of_accept h fun hok => ?_
    simp only [beq_iff_eq] at hok
    exact ⟨congrArg some (by simp [hok]), rfl⟩

theorem isWordOf_decode3E {i : Instr} {s : Bool} {c : BitVec 4} {o : BitVec 21} (h : decode3E s c o = .ok i) :
    IsWordOf (encBR s 0x3E#6 c o) i := by
  unfold decode3E at h
  refine .of_accept h fun hok => ?_
  simp only [Bool.and_eq_true, Bool.not_eq_true', beq_iff_eq] at hok
  obtain ⟨⟨rfl, rfl⟩, hc⟩ := hok
  exact ⟨congrArg some (by simp [cond_parts]), hc⟩

/-! ## A word from its fields (R144) -/

section

variable {w : Word} {m : BitVec 6}

theorem encRRR_fields (h : w.extractLsb' 25 6 = m) :
    encRRR (w.getLsbD 31) m (w.extractLsb' 21 4) (w.extractLsb' 14 7) (w.extractLsb' 7 7) (w.extractLsb' 0 7) = w := by
  subst h
  unfold encRRR
  rw [ofBool_of_extract, extract_append_extract (n := 6) (k := 1) (i := 25),
    extract_append_extract (n := 4) (k := 7) (i := 21), extract_append_extract (n := 7) (k := 11) (i := 14),
    extract_append_extract (n := 7) (k := 18) (i := 7)]
  exact append_extract (n := 7) (k := 25) w

theorem encRI_fields (h : w.extractLsb' 25 6 = m) :
    encRI (w.getLsbD 31) m (w.extractLsb' 18 7) (w.extractLsb' 11 7) (w.extractLsb' 0 11) = w := by
  subst h
  unfold encRI
  rw [ofBool_of_extract, extract_append_extract (n := 6) (k := 1) (i := 25),
    extract_append_extract (n := 7) (k := 7) (i := 18), extract_append_extract (n := 7) (k := 14) (i := 11)]
  exact append_extract (n := 11) (k := 21) w

theorem encLI_fields (h : w.extractLsb' 25 6 = m) :
    encLI (w.getLsbD 31) m (w.extractLsb' 18 7) (w.extractLsb' 0 18) = w := by
  subst h
  unfold encLI
  rw [ofBool_of_extract, extract_append_extract (n := 6) (k := 1) (i := 25),
    extract_append_extract (n := 7) (k := 7) (i := 18)]
  exact append_extract (n := 18) (k := 14) w

theorem encBR_fields (h : w.extractLsb' 25 6 = m) :
    encBR (w.getLsbD 31) m (w.extractLsb' 21 4) (w.extractLsb' 0 21) = w := by
  subst h
  unfold encBR
  rw [ofBool_of_extract, extract_append_extract (n := 6) (k := 1) (i := 25),
    extract_append_extract (n := 4) (k := 7) (i := 21)]
  exact append_extract (n := 21) (k := 11) w

theorem encMEM_fields (h : w.extractLsb' 25 6 = m) :
    encMEM (w.getLsbD 31) m (w.extractLsb' 18 7) (w.extractLsb' 11 7) (w.extractLsb' 8 3) (w.extractLsb' 0 8) = w := by
  subst h
  unfold encMEM
  rw [ofBool_of_extract, extract_append_extract (n := 6) (k := 1) (i := 25),
    extract_append_extract (n := 7) (k := 7) (i := 18), extract_append_extract (n := 7) (k := 14) (i := 11),
    extract_append_extract (n := 3) (k := 21) (i := 8)]
  exact append_extract (n := 8) (k := 24) w

/-- A word that decodes is the word of the well-formed instruction that it decodes to. -/
theorem isWordOf_decodeWord {i : Instr} (h : decodeWord w = .ok i) : IsWordOf w i := by
  delta decodeWord at h
  dsimp only at h
  split at h
  case h_1 hm => exact encRRR_fields (eq_ofNat_of_toNat hm) ▸ isWordOf_decode01 h
  case h_2 hm => exact encRRR_fields (eq_ofNat_of_toNat hm) ▸ isWordOf_decode02 h
  case h_3 hm => exact encRI_fields (eq_ofNat_of_toNat hm) ▸ isWordOf_decode03 h
  case h_4 hm => exact encLI_fields (eq_ofNat_of_toNat hm) ▸ isWordOf_decode04 h
  case h_5 hm => exact encLI_fields (eq_ofNat_of_toNat hm) ▸ isWordOf_decode05 h
  case h_6 hm => exact encRRR_fields (eq_ofNat_of_toNat hm) ▸ isWordOf_decode06 h
  case h_7 hm => exact encRRR_fields (eq_ofNat_of_toNat hm) ▸ isWordOf_decode07 h
  case h_8 hm => exact encRI_fields (eq_ofNat_of_toNat hm) ▸ isWordOf_decode08 h
  case h_9 hm => exact encRRR_fields (eq_ofNat_of_toNat hm) ▸ isWordOf_decode09 h
  case h_10 hm => exact encRI_fields (eq_ofNat_of_toNat hm) ▸ isWordOf_decode0A h
  case h_11 hm => exact encLI_fields (eq_ofNat_of_toNat hm) ▸ isWordOf_decode0B h
  case h_12 hm => exact encLI_fields (eq_ofNat_of_toNat hm) ▸ isWordOf_decode0C h
  case h_13 hm => exact encRRR_fields (eq_ofNat_of_toNat hm) ▸ isWordOf_decode0D h
  case h_14 hm => exact encRRR_fields (eq_ofNat_of_toNat hm) ▸ isWordOf_decode10 h
  case h_15 hm => exact encRRR_fields (eq_ofNat_of_toNat hm) ▸ isWordOf_decode11 h
  case h_16 hm => exact encRRR_fields (eq_ofNat_of_toNat hm) ▸ isWordOf_decode12 h
  case h_17 hm => exact encRRR_fields (eq_ofNat_of_toNat hm) ▸ isWordOf_decode13 h
  case h_18 hm => exact encRRR_fields (eq_ofNat_of_toNat hm) ▸ isWordOf_decode14 h
  case h_19 hm => exact encRRR_fields (eq_ofNat_of_toNat hm) ▸ isWordOf_decode15 h
  case h_20 hm => exact encRRR_fields (eq_ofNat_of_toNat hm) ▸ isWordOf_decode16 h
  case h_21 hm => exact encRRR_fields (eq_ofNat_of_toNat hm) ▸ isWordOf_decode17 h
  case h_22 hm => exact encRRR_fields (eq_ofNat_of_toNat hm) ▸ isWordOf_decode18 h
  case h_23 hm => exact encRRR_fields (eq_ofNat_of_toNat hm) ▸ isWordOf_decode19 h
  case h_24 hm => exact encRRR_fields (eq_ofNat_of_toNat hm) ▸ isWordOf_decode1A h
  case h_25 hm => exact encRRR_fields (eq_ofNat_of_toNat hm) ▸ isWordOf_decode1B h
  case h_26 hm => exact encBR_fields (eq_ofNat_of_toNat hm) ▸ isWordOf_decode1C h
  case h_27 hm => exact encBR_fields (eq_ofNat_of_toNat hm) ▸ isWordOf_decode1D h
  case h_28 hm => exact encBR_fields (eq_ofNat_of_toNat hm) ▸ isWordOf_decode1E h
  case h_29 hm => exact encRRR_fields (eq_ofNat_of_toNat hm) ▸ isWordOf_decode1F h
  case h_30 hm => exact encMEM_fields (eq_ofNat_of_toNat hm) ▸ isWordOf_decode20 h
  case h_31 hm => exact encMEM_fields (eq_ofNat_of_toNat hm) ▸ isWordOf_decode21 h
  case h_32 hm => exact encMEM_fields (eq_ofNat_of_toNat hm) ▸ isWordOf_decode22 h
  case h_33 hm => exact encMEM_fields (eq_ofNat_of_toNat hm) ▸ isWordOf_decode23 h
  case h_34 hm => exact encMEM_fields (eq_ofNat_of_toNat hm) ▸ isWordOf_decode24 h
  case h_35 hm => exact encMEM_fields (eq_ofNat_of_toNat hm) ▸ isWordOf_decode25 h
  case h_36 hm => exact encMEM_fields (eq_ofNat_of_toNat hm) ▸ isWordOf_decode26 h
  case h_37 hm => exact encMEM_fields (eq_ofNat_of_toNat hm) ▸ isWordOf_decode27 h
  case h_38 hm => exact encMEM_fields (eq_ofNat_of_toNat hm) ▸ isWordOf_decode28 h
  case h_39 hm => exact encMEM_fields (eq_ofNat_of_toNat hm) ▸ isWordOf_decode29 h
  case h_40 hm => exact encMEM_fields (eq_ofNat_of_toNat hm) ▸ isWordOf_decode2A h
  case h_41 hm => exact encRRR_fields (eq_ofNat_of_toNat hm) ▸ isWordOf_decode2B h
  case h_42 hm => exact encRI_fields (eq_ofNat_of_toNat hm) ▸ isWordOf_decode2C h
  case h_43 hm => exact encRRR_fields (eq_ofNat_of_toNat hm) ▸ isWordOf_decode2D h
  case h_44 hm => exact encRRR_fields (eq_ofNat_of_toNat hm) ▸ isWordOf_decode2E h
  case h_45 hm => exact encRRR_fields (eq_ofNat_of_toNat hm) ▸ isWordOf_decode2F h
  case h_46 hm => exact encRRR_fields (eq_ofNat_of_toNat hm) ▸ isWordOf_decode30 h
  case h_47 hm => exact encRRR_fields (eq_ofNat_of_toNat hm) ▸ isWordOf_decode31 h
  case h_48 hm => exact encRRR_fields (eq_ofNat_of_toNat hm) ▸ isWordOf_decode32 h
  case h_49 hm => exact encRRR_fields (eq_ofNat_of_toNat hm) ▸ isWordOf_decode33 h
  case h_50 hm => exact encRRR_fields (eq_ofNat_of_toNat hm) ▸ isWordOf_decode34 h
  case h_51 hm => exact encRRR_fields (eq_ofNat_of_toNat hm) ▸ isWordOf_decode35 h
  case h_52 hm => exact encRRR_fields (eq_ofNat_of_toNat hm) ▸ isWordOf_decode36 h
  case h_53 hm => exact encRRR_fields (eq_ofNat_of_toNat hm) ▸ isWordOf_decode37 h
  case h_54 hm => exact encBR_fields (eq_ofNat_of_toNat hm) ▸ isWordOf_decode3E h
  case h_55 => cases h
end

theorem wordOfBytes_bytesOfWord (w : Word) :
    wordOfBytes (w.extractLsb' 0 8) (w.extractLsb' 8 8) (w.extractLsb' 16 8) (w.extractLsb' 24 8) = w := by
  unfold wordOfBytes
  rw [extract_append_extract (n := 8) (k := 8) (i := 16), extract_append_extract (n := 8) (k := 16) (i := 8)]
  exact append_extract (n := 8) (k := 24) w

/-- Settles O57: the encoder and the decoder are inverse to each other, major by major. -/
theorem encodeDecode : Obligations.EncodeDecode := by
  unfold Obligations.EncodeDecode
  refine ⟨fun i w => decodeWord_encode, fun w i => isWordOf_decodeWord, fun i w rest h hw => ?_⟩
  simp only [bytesOfWord, List.cons_append, List.nil_append, decodeBytes, wordOfBytes_bytesOfWord, decodeWord_encode h hw]

end Sys2Proof
end

section
/-!
# Every instruction, every event and every step answers

An instruction is the issue of a form (`issue_answers`) whatever the body it runs; an event answers in each of its branches.
-/

namespace Sys2Proof.Machine

/-- An outcome that is a next state. -/
def Answers (o : Out) : Prop := ∃ t, o = .next t

/-- Once the state names a set that issues, an instruction's issue answers a next state. -/
theorem issue_answers {s : State} (h : s.hasIssue = true) (f : Form) (k : Env → Nat → Crew → State → State) :
    Answers (issue f s k) := by
  unfold State.hasIssue at h
  unfold issue
  cases hc : s.crew s.iss.crew with
  | none =>
    rw [hc] at h
    cases h
  | some c =>
    rw [hc] at h
    dsimp only at h ⊢
    simp only [h, Bool.not_true, Bool.false_eq_true, if_false]
    repeat' split
    all_goals exact ⟨_, rfl⟩

theorem execThreads_answers {s : State} (h : s.hasIssue = true) (f : Form) (g : Env → Crew → Thread → Except Trap Thread) :
    Answers (execThreads f s g) :=
  issue_answers h _ _

theorem execPure_answers {s : State} (h : s.hasIssue = true) (f : Form) (g : Crew → Thread → Thread) :
    Answers (execPure f s g) :=
  execThreads_answers h f _

theorem execLanesAfter_answers {s : State} (h : s.hasIssue = true) (f : Form) (pre : Env → Crew → List Thread → State → State)
    (body : State → Env → Crew → Thread → State → State × LaneRes) : Answers (execLanesAfter f s pre body) :=
  issue_answers h _ _

theorem execLanes_answers {s : State} (h : s.hasIssue = true) (f : Form)
    (body : Env → Crew → Thread → State → State × LaneRes) : Answers (execLanes f s body) :=
  execLanesAfter_answers h f _ _

theorem execUniform_answers {s : State} (h : s.hasIssue = true) (f : Form)
    (body : Env → Crew → Thread → State → State × LaneRes) : Answers (execUniform f s body) :=
  issue_answers h _ _

theorem execSetCmd_answers {s : State} (h : s.hasIssue = true) (f : Form)
    (body : Env → Crew → Thread → State → Except Trap State) : Answers (execSetCmd f s body) :=
  issue_answers h _ _

theorem execBuffer_answers {s : State} (h : s.hasIssue = true) (f : Form)
    (go : Env → Crew → Thread → List Nat → State → Except Trap State) : Answers (execBuffer f s go) :=
  issue_answers h _ _

theorem execArrive_answers {s : State} (h : s.hasIssue = true) (f : Form) (op : CollOp) (refuse : Bool)
    (pend : Thread → List Nat) : Answers (execArrive f s op refuse pend) := by
  unfold execArrive
  exact issue_answers h _ _

theorem execArriveU_answers {s : State} (h : s.hasIssue = true) (f : Form) (op : CollOp)
    (pendS pendQ : Crew → List Nat) : Answers (execArriveU f s op pendS pendQ) := by
  unfold execArriveU
  exact issue_answers h _ _

theorem execEngine_answers {s : State} (h : s.hasIssue = true) (word : Word) (sw drip : Bool) (cmd : Cmd)
    (ch : BitVec 6) (a : BitVec 7) : Answers (execEngine word sw drip cmd ch a s) :=
  execLanes_answers h _ _

theorem opSpecial_answers {s : State} (h : s.hasIssue = true) (w : Word) (fn : Spec) (sw : Bool) (d a : BitVec 7) :
    Answers (opSpecial w fn sw d a s) :=
  execLanes_answers h _ _

theorem State.sampleTime_hasIssue {s : State} (h : s.hasIssue = true) : s.sampleTime.hasIssue = true :=
  h

theorem execCrew_answers {s : State} (h : s.hasIssue = true) (f : Form) (g : Crew → Crew × Flags) :
    Answers (execCrew f s g) :=
  issue_answers h _ _

theorem performDue_answers (s : State) (q : Nat) (k : MKind) : Answers (performDue s q k) := by
  unfold performDue
  split <;> exact ⟨_, rfl⟩

theorem performAcc_answers (s : State) (uid lane : Nat) (v : Word) (k : MKind) : Answers (performAcc s uid lane v k) := by
  unfold performAcc
  repeat' split
  all_goals exact ⟨_, rfl⟩

/-- An event answers a next state whatever the state is. -/
theorem event_answers {i : Instr} (h : encode i = none) (s : State) : Answers (exec i s) := by
  cases i
  case resultLand | binAged | kvldStatusLand | preemptRequest | syscReplyDoorbell | syscAlloc | syscFree | kick
    | ctrlResume | ctrlCancel | ctrlClose | claimUnit | claimFree | localityScoreHalve | waiterRunWake
    | uncorrectableMemoryError | homeRds | homeRdx | homeUpg | homeWb | homeEve | homeAckReceive
    | homeMemoryWriteDone | agentFwds | agentFwdx | agentInv | agentDataReceive | agentGrantReceive
    | agentWbackReceive | agentWbstaleReceive | agentLineDrop | shardGets | shardGetx | shardDrop | tenureEnd
    | wbackReceive | staleReceive | victimRetry | frameAging | installClean | installDirty | retry | kill | pin
    | unpin | dirset | checkpointSave | checkpointRestore | checkpointAbort | rateRiseTick | ptpSync
    | linkUnitClose | linkKeyRenew | getVersion | getCapabilities | negotiateAlgorithms | getDigests
    | getCertificate | challenge | getMeasurements | keyExchange | finish | heartbeat | keyUpdate | endSession
    | spdmUnsupportedRequest | leaseChangeReceive | epochOverlapEnd | rcmdEnable | rcmdResume | rcmdDisable
    | dcmdHalt | dcmdResume | dcmdStep | portDown | portUp | ptpLockLoss | deviceReset | powerLoss
    | liveActivationEnd =>
    exact ⟨_, rfl⟩
  case mldStPerform | mswapPerform | mmaPerform | mstPerform | maccClrPerform | maccRdLand | mstatLand =>
    exact performDue_answers ..
  case accdatWrite | accstatWrite =>
    exact performAcc_answers ..
  case storePerform =>
    show Answers (execStorePerform ..)
    unfold execStorePerform
    repeat' split
    all_goals exact ⟨_, rfl⟩
  case waitcSoRepeat =>
    show Answers (execWaitcSoRepeat ..)
    unfold execWaitcSoRepeat
    repeat' split
    all_goals exact ⟨_, rfl⟩
  case binRelease =>
    show Answers (execBinRelease ..)
    unfold execBinRelease
    repeat' split
    all_goals exact ⟨_, rfl⟩
  case syscPostHeld =>
    show Answers (execSyscPostHeld ..)
    unfold execSyscPostHeld
    repeat' split
    all_goals exact ⟨_, rfl⟩
  case collectivePerform =>
    show Answers (execCollectivePerform ..)
    unfold execCollectivePerform
    repeat' split
    all_goals exact ⟨_, rfl⟩
  case faultEntryPostHeld =>
    show Answers (execFaultEntryPostHeld ..)
    unfold execFaultEntryPostHeld
    dsimp only
    repeat' split
    all_goals exact ⟨_, rfl⟩
  case lastExitRelease =>
    show Answers (execLastExitRelease ..)
    unfold execLastExitRelease
    repeat' split
    all_goals exact ⟨_, rfl⟩
  case kernelBoundary =>
    show Answers (execKernelBoundary ..)
    unfold execKernelBoundary
    dsimp only
    repeat' split
    all_goals exact ⟨_, rfl⟩
  case asyncTrapEntry =>
    show Answers (execAsyncTrapEntry ..)
    unfold execAsyncTrapEntry
    repeat' split
    all_goals exact ⟨_, rfl⟩
  case arrayUncorrectableError =>
    show Answers (execArrayUncorrectableError ..)
    unfold execArrayUncorrectableError
    dsimp only
    repeat' split
    all_goals exact ⟨_, rfl⟩
  case engineEntryStart =>
    show Answers (execEngineEntryStart ..)
    unfold execEngineEntryStart
    repeat' split
    all_goals exact ⟨_, rfl⟩
  case cpyComplete =>
    show Answers (execCpyComplete ..)
    unfold execCpyComplete
    repeat' split
    all_goals exact ⟨_, rfl⟩
  case cpyredChunkApply =>
    show Answers (execCpyredChunkApply ..)
    unfold execCpyredChunkApply
    dsimp only
    repeat' split
    all_goals exact ⟨_, rfl⟩
  case copyReplay =>
    show Answers (execCopyReplay ..)
    unfold execCopyReplay
    repeat' split
    all_goals exact ⟨_, rfl⟩
  case qfenceComplete =>
    show Answers (execQfenceComplete ..)
    unfold execQfenceComplete
    repeat' split
    all_goals exact ⟨_, rfl⟩
  case qwaitComplete =>
    show Answers (execQwaitComplete ..)
    unfold execQwaitComplete
    repeat' split
    all_goals exact ⟨_, rfl⟩
  case hreadBurstArrive =>
    show Answers (execHreadBurstArrive ..)
    unfold execHreadBurstArrive
    repeat' split
    all_goals exact ⟨_, rfl⟩
  case hreadBurstFetchFail =>
    show Answers (execHreadBurstFetchFail ..)
    unfold execHreadBurstFetchFail
    repeat' split
    all_goals exact ⟨_, rfl⟩
  case dripBirth =>
    show Answers (execDripBirth ..)
    unfold execDripBirth
    repeat' split
    all_goals exact ⟨_, rfl⟩
  case xsortComplete =>
    show Answers (execXsortComplete ..)
    unfold execXsortComplete
    repeat' split
    all_goals exact ⟨_, rfl⟩
  case groupInstanceBegin =>
    show Answers (execGroupInstanceBegin ..)
    unfold execGroupInstanceBegin
    dsimp only
    repeat' split
    all_goals exact ⟨_, rfl⟩
  case groupWithdrawal =>
    show Answers (execGroupWithdrawal ..)
    unfold execGroupWithdrawal
    repeat' split
    all_goals exact ⟨_, rfl⟩
  case a2avCountExchange =>
    show Answers (execA2avCountExchange ..)
    unfold execA2avCountExchange
    repeat' split
    all_goals exact ⟨_, rfl⟩
  case a2avPartPlaced =>
    show Answers (execA2avPartPlaced ..)
    unfold execA2avPartPlaced
    repeat' split
    all_goals exact ⟨_, rfl⟩
  case areduceComplete =>
    show Answers (execAreduceComplete ..)
    unfold execAreduceComplete
    repeat' split
    all_goals exact ⟨_, rfl⟩
  case rmaRequestReceive =>
    show Answers (execRmaRequestReceive ..)
    unfold execRmaRequestReceive
    repeat' split
    all_goals exact ⟨_, rfl⟩
  case rputComplete =>
    show Answers (execRputComplete ..)
    unfold execRputComplete
    repeat' split
    all_goals exact ⟨_, rfl⟩
  case rgetComplete =>
    show Answers (execRgetComplete ..)
    unfold execRgetComplete
    repeat' split
    all_goals exact ⟨_, rfl⟩
  case ratomComplete =>
    show Answers (execRatomComplete ..)
    unfold execRatomComplete
    repeat' split
    all_goals exact ⟨_, rfl⟩
  case rflushComplete =>
    show Answers (execRflushComplete ..)
    unfold execRflushComplete
    repeat' split
    all_goals exact ⟨_, rfl⟩
  case roostRegistered =>
    show Answers (execRoostRegistered ..)
    unfold execRoostRegistered
    dsimp only
    repeat' split
    all_goals exact ⟨_, rfl⟩
  case rouseArrive =>
    show Answers (execRouseArrive ..)
    unfold execRouseArrive
    dsimp only
    repeat' split
    all_goals exact ⟨_, rfl⟩
  case gangPrepare =>
    show Answers (execGangPrepare ..)
    unfold execGangPrepare
    dsimp only
    repeat' split
    all_goals exact ⟨_, rfl⟩
  case gangDecision =>
    show Answers (execGangDecision ..)
    unfold execGangDecision
    dsimp only
    repeat' split
    all_goals exact ⟨_, rfl⟩
  case gangCommit =>
    show Answers (execGangCommit ..)
    unfold execGangCommit
    dsimp only
    repeat' split
    all_goals exact ⟨_, rfl⟩
  case gangAbort =>
    show Answers (execGangAbort ..)
    unfold execGangAbort
    dsimp only
    repeat' split
    all_goals exact ⟨_, rfl⟩
  case gangTickDispatch =>
    show Answers (execGangTickDispatch ..)
    unfold execGangTickDispatch
    repeat' split
    all_goals exact ⟨_, rfl⟩
  case preemptGraceExpiry =>
    show Answers (execPreemptGraceExpiry ..)
    unfold execPreemptGraceExpiry
    repeat' split
    all_goals exact ⟨_, rfl⟩
  case saveDeadlineExpiry =>
    show Answers (execSaveDeadlineExpiry ..)
    unfold execSaveDeadlineExpiry
    repeat' split
    all_goals exact ⟨_, rfl⟩
  case ctxopSave =>
    show Answers (execCtxopSave ..)
    unfold execCtxopSave
    dsimp only
    repeat' split
    all_goals exact ⟨_, rfl⟩
  case ctxopRestore =>
    show Answers (execCtxopRestore ..)
    unfold execCtxopRestore
    dsimp only
    repeat' split
    all_goals exact ⟨_, rfl⟩
  case resumeStart =>
    show Answers (execResumeStart ..)
    unfold execResumeStart
    dsimp only
    repeat' split
    all_goals exact ⟨_, rfl⟩
  case queueEntryTake =>
    show Answers (execQueueEntryTake ..)
    unfold execQueueEntryTake
    dsimp only
    repeat' split
    all_goals exact ⟨_, rfl⟩
  case priorityRise =>
    show Answers (execPriorityRise ..)
    unfold execPriorityRise
    repeat' split
    all_goals exact ⟨_, rfl⟩
  case dispatchUnit =>
    show Answers (execDispatchUnit ..)
    unfold execDispatchUnit
    repeat' split
    all_goals exact ⟨_, rfl⟩
  case starvationPreempt =>
    show Answers (execStarvationPreempt ..)
    unfold execStarvationPreempt
    dsimp only
    repeat' split
    all_goals exact ⟨_, rfl⟩
  case throttleSwap =>
    show Answers (execThrottleSwap ..)
    unfold execThrottleSwap
    repeat' split
    all_goals exact ⟨_, rfl⟩
  case invalidationRequest =>
    show Answers (execInvalidationRequest ..)
    unfold execInvalidationRequest
    repeat' split
    all_goals exact ⟨_, rfl⟩
  case invalidationComplete =>
    show Answers (execInvalidationComplete ..)
    unfold execInvalidationComplete
    repeat' split
    all_goals exact ⟨_, rfl⟩
  case fillDataReceive =>
    show Answers (execFillDataReceive ..)
    unfold execFillDataReceive
    repeat' split
    all_goals exact ⟨_, rfl⟩
  case postFillHoldExpiry =>
    show Answers (execPostFillHoldExpiry ..)
    unfold execPostFillHoldExpiry
    repeat' split
    all_goals exact ⟨_, rfl⟩
  case evictionComplete =>
    show Answers (execEvictionComplete ..)
    unfold execEvictionComplete
    dsimp only
    repeat' split
    all_goals exact ⟨_, rfl⟩
  case shardWbrel =>
    show Answers (execShardWbrel ..)
    unfold execShardWbrel
    repeat' split
    all_goals exact ⟨_, rfl⟩
  case shardHomeAck =>
    show Answers (execShardHomeAck ..)
    unfold execShardHomeAck
    repeat' split
    all_goals exact ⟨_, rfl⟩
  case shardRecallAck =>
    show Answers (execShardRecallAck ..)
    unfold execShardRecallAck
    dsimp only
    repeat' split
    all_goals exact ⟨_, rfl⟩
  case holderRecall =>
    show Answers (execHolderRecall ..)
    unfold execHolderRecall
    repeat' split
    all_goals exact ⟨_, rfl⟩
  case ownerXferS =>
    show Answers (execOwnerXferS ..)
    unfold execOwnerXferS
    repeat' split
    all_goals exact ⟨_, rfl⟩
  case ownerXferX =>
    show Answers (execOwnerXferX ..)
    unfold execOwnerXferX
    repeat' split
    all_goals exact ⟨_, rfl⟩
  case lookupAckReceive =>
    show Answers (execLookupAckReceive ..)
    unfold execLookupAckReceive
    dsimp only
    repeat' split
    all_goals exact ⟨_, rfl⟩
  case heldReceive =>
    show Answers (execHeldReceive ..)
    unfold execHeldReceive
    repeat' split
    all_goals exact ⟨_, rfl⟩
  case homeWriteTimeout =>
    show Answers (execHomeWriteTimeout ..)
    unfold execHomeWriteTimeout
    repeat' split
    all_goals exact ⟨_, rfl⟩
  case attemptTimeout =>
    show Answers (execAttemptTimeout ..)
    unfold execAttemptTimeout
    repeat' split
    all_goals exact ⟨_, rfl⟩
  case backoffExpiry =>
    show Answers (execBackoffExpiry ..)
    unfold execBackoffExpiry
    repeat' split
    all_goals exact ⟨_, rfl⟩
  case roostT1Expiry =>
    show Answers (execRoostT1Expiry ..)
    unfold execRoostT1Expiry
    repeat' split
    all_goals exact ⟨_, rfl⟩
  case roostT2Expiry =>
    show Answers (execRoostT2Expiry ..)
    unfold execRoostT2Expiry
    repeat' split
    all_goals exact ⟨_, rfl⟩
  case pageDescentDone =>
    show Answers (execPageDescentDone ..)
    unfold execPageDescentDone
    dsimp only
    repeat' split
    all_goals exact ⟨_, rfl⟩
  case pageAscentDone =>
    show Answers (execPageAscentDone ..)
    unfold execPageAscentDone
    dsimp only
    repeat' split
    all_goals exact ⟨_, rfl⟩
  case checkpointDrainDone =>
    show Answers (execCheckpointDrainDone ..)
    unfold execCheckpointDrainDone
    repeat' split
    all_goals exact ⟨_, rfl⟩
  case checkpointSegmentDone =>
    show Answers (execCheckpointSegmentDone ..)
    unfold execCheckpointSegmentDone
    dsimp only
    repeat' split
    all_goals exact ⟨_, rfl⟩
  case packetReceive =>
    show Answers (execPacketReceive ..)
    unfold execPacketReceive
    dsimp only
    repeat' split
    all_goals exact ⟨_, rfl⟩
  case retransmitTimeout =>
    show Answers (execRetransmitTimeout ..)
    unfold execRetransmitTimeout
    repeat' split
    all_goals exact ⟨_, rfl⟩
  case ackReceive =>
    show Answers (execAckReceive ..)
    unfold execAckReceive
    repeat' split
    all_goals exact ⟨_, rfl⟩
  case dieFlitReceive =>
    show Answers (execDieFlitReceive ..)
    unfold execDieFlitReceive
    repeat' split
    all_goals exact ⟨_, rfl⟩
  case linkUnitReceive =>
    show Answers (execLinkUnitReceive ..)
    unfold execLinkUnitReceive
    repeat' split
    all_goals exact ⟨_, rfl⟩
  case firmwareActivation =>
    show Answers (execFirmwareActivation ..)
    unfold execFirmwareActivation
    repeat' split
    all_goals exact ⟨_, rfl⟩
  case leaseAttestation =>
    show Answers (execLeaseAttestation ..)
    unfold execLeaseAttestation
    repeat' split
    all_goals exact ⟨_, rfl⟩
  case leaseRenewalDue =>
    show Answers (execLeaseRenewalDue ..)
    unfold execLeaseRenewalDue
    repeat' split
    all_goals exact ⟨_, rfl⟩
  case leaseBusyRetry =>
    show Answers (execLeaseBusyRetry ..)
    unfold execLeaseBusyRetry
    repeat' split
    all_goals exact ⟨_, rfl⟩
  case leaseExpiry =>
    show Answers (execLeaseExpiry ..)
    unfold execLeaseExpiry
    dsimp only
    repeat' split
    all_goals exact ⟨_, rfl⟩
  case leaseKeyGraceEnd =>
    show Answers (execLeaseKeyGraceEnd ..)
    unfold execLeaseKeyGraceEnd
    repeat' split
    all_goals exact ⟨_, rfl⟩
  case sessionKeyDistribution =>
    show Answers (execSessionKeyDistribution ..)
    unfold execSessionKeyDistribution
    repeat' split
    all_goals exact ⟨_, rfl⟩
  case epochAdvance =>
    show Answers (execEpochAdvance ..)
    unfold execEpochAdvance
    dsimp only
    repeat' split
    all_goals exact ⟨_, rfl⟩
  case worldLatch =>
    show Answers (execWorldLatch ..)
    unfold execWorldLatch
    repeat' split
    all_goals exact ⟨_, rfl⟩
  case worldCreate =>
    show Answers (execWorldCreate ..)
    unfold execWorldCreate
    repeat' split
    all_goals exact ⟨_, rfl⟩
  case worldTeardown =>
    show Answers (execWorldTeardown ..)
    unfold execWorldTeardown
    repeat' split
    all_goals exact ⟨_, rfl⟩
  case ringDoorbell =>
    show Answers (execRingDoorbell ..)
    unfold execRingDoorbell
    dsimp only
    repeat' split
    all_goals exact ⟨_, rfl⟩
  case ringRekey =>
    show Answers (execRingRekey ..)
    unfold execRingRekey
    repeat' split
    all_goals exact ⟨_, rfl⟩
  case sampleTick =>
    show Answers (execSampleTick ..)
    unfold execSampleTick
    dsimp only
    repeat' split
    all_goals exact ⟨_, rfl⟩
  case prefetchTick =>
    show Answers (execPrefetchTick ..)
    unfold execPrefetchTick
    dsimp only
    repeat' split
    all_goals exact ⟨_, rfl⟩
  case powerOn =>
    show Answers (execPowerOn ..)
    unfold execPowerOn
    dsimp only
    repeat' split
    all_goals exact ⟨_, rfl⟩
  case powerStateChange =>
    show Answers (execPowerStateChange ..)
    unfold execPowerStateChange
    repeat' split
    all_goals exact ⟨_, rfl⟩
  case thermalThreshold =>
    show Answers (execThermalThreshold ..)
    unfold execThermalThreshold
    repeat' split
    all_goals exact ⟨_, rfl⟩
  case registerWrite =>
    show Answers (execRegisterWrite ..)
    unfold execRegisterWrite
    repeat' split
    all_goals exact ⟨_, rfl⟩
  case jobOpen =>
    show Answers (execJobOpen ..)
    unfold execJobOpen
    repeat' split
    all_goals exact ⟨_, rfl⟩
  case grantReceive =>
    show Answers (execGrantReceive ..)
    unfold execGrantReceive
    dsimp only
    repeat' split
    all_goals exact ⟨_, rfl⟩
  all_goals cases h

theorem opSetI_answers {s : State} (h : s.hasIssue = true) (w : Word) (fn : SetI) (sw : Bool) (d a b : BitVec 7) :
    Answers (opSetI w fn sw d a b s) :=
  execPure_answers h _ _

theorem opSetIPaired_answers {s : State} (h : s.hasIssue = true) (w : Word) (fn : SetI) (sw : Bool) (d a b : BitVec 7) :
    Answers (opSetIPaired w fn sw d a b s) :=
  execPure_answers h _ _

theorem opSetIUniform_answers {s : State} (h : s.hasIssue = true) (w : Word) (fn : SetI) (sw : Bool) (d a b : BitVec 7) :
    Answers (opSetIUniform w fn sw d a b s) :=
  execCrew_answers h _ _

theorem opCmp_answers {s : State} (h : s.hasIssue = true) (w : Word) (fn : SetC) (sw : Bool) (p : BitVec 3) (a b : BitVec 7) :
    Answers (opCmp w fn sw p a b s) :=
  execPure_answers h _ _

theorem opUcmp_answers {s : State} (h : s.hasIssue = true) (w : Word) (fn : SetC) (sw : Bool) (p : BitVec 3) (a b : BitVec 7) :
    Answers (opUcmp w fn sw p a b s) :=
  execCrew_answers h _ _

theorem opUnary_answers {s : State} (h : s.hasIssue = true) (w : Word) (f : Word → Word) (sw : Bool) (d a : BitVec 7) :
    Answers (opUnary w f sw d a s) :=
  execPure_answers h _ _

theorem opSetF_answers {s : State} (h : s.hasIssue = true) (w : Word) (fn : SetF) (reads sw : Bool) (d a b : BitVec 7) :
    Answers (opSetF w fn reads sw d a b s) :=
  execPure_answers h _ _

theorem opSetFUnary_answers {s : State} (h : s.hasIssue = true) (w : Word) (fn : SetF) (sw : Bool) (d a : BitVec 7) :
    Answers (opSetFUnary w fn sw d a s) :=
  execPure_answers h _ _

theorem opSetFPaired_answers {s : State} (h : s.hasIssue = true) (w : Word) (fn : SetF) (reads sw : Bool) (d a b : BitVec 7) :
    Answers (opSetFPaired w fn reads sw d a b s) :=
  execPure_answers h _ _

theorem opFcmp_answers {s : State} (h : s.hasIssue = true) (w : Word) (fn : Nat) (sw : Bool) (p : BitVec 3) (a b : BitVec 7) :
    Answers (opFcmp w fn sw p a b s) :=
  execPure_answers h _ _

theorem opPacked_answers {s : State} (h : s.hasIssue = true) (w : Word) (f : Fmt) (fn : SetF) (reads sw : Bool) (d a b : BitVec 7) :
    Answers (opPacked w f fn reads sw d a b s) :=
  execPure_answers h _ _

theorem opCvt_answers {s : State} (h : s.hasIssue = true) (w : Word) (src dst rm : Nat) (pk sw : Bool) (d a : BitVec 7) :
    Answers (opCvt w src dst rm pk sw d a s) :=
  execPure_answers h _ _

theorem opDot_answers {s : State} (h : s.hasIssue = true) (w : Word) (k : Dot) (elems acc sw : Bool) (d a b : BitVec 7) :
    Answers (opDot w k elems acc sw d a b s) :=
  execPure_answers h _ _

theorem opDotScaled_answers {s : State} (h : s.hasIssue = true) (w : Word) (f : Fmt) (elems odd sw : Bool) (k : BitVec 2) (d a b : BitVec 7) :
    Answers (opDotScaled w f elems odd sw k d a b s) :=
  execThreads_answers h _ _

theorem opPred_answers {s : State} (h : s.hasIssue = true) (w : Word) (f : Bool → Bool → Bool) (sw : Bool) (d : BitVec 3) (a b : BitVec 4) :
    Answers (opPred w f sw d a b s) :=
  execPure_answers h _ _

theorem opQpred_answers {s : State} (h : s.hasIssue = true) (w : Word) (f : Bool → Bool → Bool) (sw : Bool) (d : BitVec 3) (a b : BitVec 4) :
    Answers (opQpred w f sw d a b s) :=
  execCrew_answers h _ _

theorem exec_answers (i : Instr) {s : State} (h : s.hasIssue = true) : Answers (exec i s) := by
  cases he : encode i
  case none => exact event_answers he s
  case some =>
    cases i
    case add | sub | mul | mulhiSi32 | mulhiUi32 | and | or | xor | shl | shr | sar | minSi32 | maxSi32
    | minUi32 | maxUi32 | addsSi32 =>
      exact opSetI_answers h ..
    case addPaired | subPaired | mulPaired | mulhiSi32Paired | mulhiUi32Paired | andPaired | orPaired
    | xorPaired | shlPaired | shrPaired | sarPaired | minSi32Paired | maxSi32Paired | minUi32Paired
    | maxUi32Paired | addsSi32Paired =>
      exact opSetIPaired_answers h ..
    case addUniform | subUniform | mulUniform | mulhiSi32Uniform | mulhiUi32Uniform | andUniform | orUniform
    | xorUniform | shlUniform | shrUniform | sarUniform | minSi32Uniform | maxSi32Uniform | minUi32Uniform
    | maxUi32Uniform | addsSi32Uniform =>
      exact opSetIUniform_answers h ..
    case addi => exact show Answers (execAddi ..) from execPure_answers h ..
    case movl => exact show Answers (execMovl ..) from execPure_answers h ..
    case movh => exact show Answers (execMovh ..) from execPure_answers h ..
    case addai => exact show Answers (execAddai ..) from execPure_answers h ..
    case mad => exact show Answers (execMad ..) from execPure_answers h ..
    case adda => exact show Answers (execAdda ..) from execPure_answers h ..
    case p2r => exact show Answers (execP2r ..) from execPure_answers h ..
    case regToPred => exact show Answers (execRegToPred ..) from execPure_answers h ..
    case jr => exact show Answers (execJr ..) from execPure_answers h ..
    case callr => exact show Answers (execCallr ..) from execPure_answers h ..
    case nop => exact show Answers (execNop ..) from execPure_answers h ..
    case uaddi => exact show Answers (execUaddi ..) from execCrew_answers h ..
    case umovl => exact show Answers (execUmovl ..) from execCrew_answers h ..
    case umovh => exact show Answers (execUmovh ..) from execCrew_answers h ..
    case qmov => exact show Answers (execQmov ..) from execCrew_answers h ..
    case capr => exact show Answers (execCapr ..) from execCrew_answers h ..
    case cmpEq | cmpNe | cmpLtSi32 | cmpLeSi32 | cmpGtSi32 | cmpGeSi32 | cmpLtUi32 | cmpLeUi32 | cmpGtUi32
    | cmpGeUi32 =>
      exact opCmp_answers h ..
    case ucmpEq | ucmpNe | ucmpLtSi32 | ucmpLeSi32 | ucmpGtSi32 | ucmpGeSi32 | ucmpLtUi32 | ucmpLeUi32
    | ucmpGtUi32 | ucmpGeUi32 =>
      exact opUcmp_answers h ..
    case mov => exact show Answers (execMov ..) from opUnary_answers h ..
    case not => exact show Answers (execNot ..) from opUnary_answers h ..
    case neg => exact show Answers (execNeg ..) from opUnary_answers h ..
    case absSi32 => exact show Answers (execAbsSi32 ..) from opUnary_answers h ..
    case popc => exact show Answers (execPopc ..) from opUnary_answers h ..
    case clz => exact show Answers (execClz ..) from opUnary_answers h ..
    case brev => exact show Answers (execBrev ..) from opUnary_answers h ..
    case sxb => exact show Answers (execSxb ..) from opUnary_answers h ..
    case sxh => exact show Answers (execSxh ..) from opUnary_answers h ..
    case fadd | fsub | fmul | ffma | fmin | fmax | fdiv =>
      exact opSetF_answers h ..
    case fsqrt | fabs | fneg =>
      exact opSetFUnary_answers h ..
    case faddPaired | fsubPaired | fmulPaired | ffmaPaired | fminPaired | fmaxPaired | fdivPaired =>
      exact opSetFPaired_answers h ..
    case fcmpEq | fcmpNe | fcmpLt | fcmpLe | fcmpGt | fcmpGe =>
      exact opFcmp_answers h ..
    case haddF16 | hsubF16 | hmulF16 | hfmaF16 | hminF16 | hmaxF16 | haddBf16 | hsubBf16 | hmulBf16 | hfmaBf16
    | hminBf16 | hmaxBf16 =>
      exact opPacked_answers h ..
    case cvt =>
      exact opCvt_answers h ..
    case recip | rsqrt | exp2 | log2 | sin | cos | tanh | sigm =>
      exact opSpecial_answers h ..
    case dp4Si8 | dp4Si8ui8 | dp8Si4 | dp8Si4ui4 | dp4F8a | dp4F8b | dp8F4 | dp2Bf16 | dp2F16 =>
      exact opDot_answers h ..
    case dp4F8aSc | dp4F8bSc | dp8F4Sc =>
      exact opDotScaled_answers h ..
    case shflIdx | shflUpW | shflDownW | shflXorW | shflUp | shflDown | shflXor | lredAddSi32 | lredAddF32
    | lredMinSi32 | lredMaxSi32 | lredMinF32 | lredMaxF32 | lredAnd | lredOr | lredXor | uwinb | tokp | barArr
    | barSync =>
      exact execArrive_answers h ..
    case voteEvery | voteSome | voteSame | voteMask =>
      exact execArriveU_answers h ..
    case pand => exact show Answers (execPand ..) from opPred_answers h ..
    case por => exact show Answers (execPor ..) from opPred_answers h ..
    case pxor => exact show Answers (execPxor ..) from opPred_answers h ..
    case pmov => exact show Answers (execPmov ..) from opPred_answers h ..
    case qand => exact show Answers (execQand ..) from opQpred_answers h ..
    case qor => exact show Answers (execQor ..) from opQpred_answers h ..
    case qxor => exact show Answers (execQxor ..) from opQpred_answers h ..
    case bra => exact show Answers (execBra ..) from execThreads_answers h ..
    case call => exact show Answers (execCall ..) from execThreads_answers h ..
    case winb => exact show Answers (execWinb ..) from execThreads_answers h ..
    case ubra =>
      show Answers (execUbra ..)
      unfold execUbra
      exact issue_answers h ..
    case lduW =>
      show Answers (execLduW ..)
      unfold execLduW
      exact issue_answers h ..
    case lduD =>
      show Answers (execLduD ..)
      unfold execLduD
      exact issue_answers h ..
    case reform =>
      show Answers (execReform ..)
      unfold execReform
      exact issue_answers h ..
    case exit =>
      show Answers (execExit ..)
      unfold execExit
      exact issue_answers h ..
    case brk =>
      show Answers (execBrk ..)
      unfold execBrk
      exact issue_answers h ..
    case rnd =>
      show Answers (execRnd ..)
      unfold execRnd
      exact issue_answers h ..
    case sysc =>
      show Answers (execSysc ..)
      unfold execSysc
      exact issue_answers h ..
    case tret =>
      show Answers (execTret ..)
      unfold execTret
      exact issue_answers h ..
    case cncl =>
      show Answers (execCncl ..)
      unfold execCncl
      exact issue_answers h ..
    case guardPrefix =>
      show Answers (execGuardPrefix ..)
      unfold execGuardPrefix
      exact issue_answers h ..
    case ldB => exact show Answers (execLdB ..) from execLanesAfter_answers h ..
    case ldSb => exact show Answers (execLdSb ..) from execLanesAfter_answers h ..
    case ldH => exact show Answers (execLdH ..) from execLanesAfter_answers h ..
    case ldSh => exact show Answers (execLdSh ..) from execLanesAfter_answers h ..
    case ldW => exact show Answers (execLdW ..) from execLanesAfter_answers h ..
    case ldD => exact show Answers (execLdD ..) from execLanesAfter_answers h ..
    case ldQ => exact show Answers (execLdQ ..) from execLanesAfter_answers h ..
    case ldsW => exact show Answers (execLdsW ..) from execLanesAfter_answers h ..
    case ldsD => exact show Answers (execLdsD ..) from execLanesAfter_answers h ..
    case ldsQ => exact show Answers (execLdsQ ..) from execLanesAfter_answers h ..
    case stB | stH | stW | stD | stQ | stsW | stsD | stsQ | ldpB | ldpSb | ldpH | ldpSh | ldpW | ldpD | ldpQ
    | stpB | stpH | stpW | stpD | stpQ | atomAddSi32 | atomAddF32 | atomMinSi32 | atomMaxSi32 | atomMinUi32
    | atomMaxUi32 | atomAnd | atomOr | atomXor | atomExchB32 | atomCasB32 | atomAddUi64 | atomExchB64
    | atomCasB64 | atomLdx | atomStx | swr | mredAddSi32 | mredAddF32 | mredMinSi32 | mredMaxSi32 | mredMinUi32
    | mredMaxUi32 | mredAnd | mredOr | mredXor | fence | waitc | wake | barWait | qfence | qwait | maccRd
    | mstat | kvld | psrd | pswr =>
      exact execLanes_answers h ..
    case cbacq => exact show Answers (execCbacq ..) from execBuffer_answers h ..
    case cbrel => exact show Answers (execCbrel ..) from execBuffer_answers h ..
    case cbfill => exact show Answers (execCbfill ..) from execBuffer_answers h ..
    case cbdone => exact show Answers (execCbdone ..) from execBuffer_answers h ..
    case cpy => exact show Answers (execCpy ..) from execEngine_answers h ..
    case cpy2d => exact show Answers (execCpy2d ..) from execEngine_answers h ..
    case cpyred => exact show Answers (execCpyred ..) from execEngine_answers h ..
    case cpyMx => exact show Answers (execCpyMx ..) from execEngine_answers h ..
    case hread => exact show Answers (execHread ..) from execEngine_answers h ..
    case xsort => exact show Answers (execXsort ..) from execEngine_answers h ..
    case a2av => exact show Answers (execA2av ..) from execEngine_answers h ..
    case areduce => exact show Answers (execAreduce ..) from execEngine_answers h ..
    case rput => exact show Answers (execRput ..) from execEngine_answers h ..
    case rget => exact show Answers (execRget ..) from execEngine_answers h ..
    case ratom => exact show Answers (execRatom ..) from execEngine_answers h ..
    case rflush => exact show Answers (execRflush ..) from execEngine_answers h ..
    case roost => exact show Answers (execRoost ..) from execEngine_answers h ..
    case rouse => exact show Answers (execRouse ..) from execEngine_answers h ..
    case lnch => exact show Answers (execLnch ..) from execEngine_answers h ..
    case gang => exact show Answers (execGang ..) from execEngine_answers h ..
    case mldSt => exact show Answers (execMldSt ..) from execSetCmd_answers h ..
    case mswap => exact show Answers (execMswap ..) from execSetCmd_answers h ..
    case mma => exact show Answers (execMma ..) from execSetCmd_answers h ..
    case mst => exact show Answers (execMst ..) from execSetCmd_answers h ..
    case maccClr => exact show Answers (execMaccClr ..) from execSetCmd_answers h ..
    case srd =>
      show Answers (execSrd ..)
      unfold execSrd
      dsimp only
      split
      · exact execLanes_answers (State.sampleTime_hasIssue h) ..
      · exact execLanes_answers h ..
    case srdUniform =>
      show Answers (execSrdUniform ..)
      unfold execSrdUniform
      dsimp only
      split
      · exact execUniform_answers (State.sampleTime_hasIssue h) ..
      · exact execUniform_answers h ..
    all_goals cases he

theorem Event.encode_instr (e : Event) : encode e.instr = none := by
  cases e <;> rfl

/-- A set's plan runs an instruction in the state in which the step of the set has begun. -/
theorem planSet_run {s s' : State} {uid k0 : Nat} {guard : Option (BitVec 4)} {i : Instr} (h : s.planSet uid k0 guard = .run s' i) :
    ∃ c t, ∃ halt : Crew → Halt, s.crew uid = some c ∧ c.threads.find? (sel k0) = some t ∧
      s' = { (s.onCrew uid fun x => { x with halt := halt x }) with iss := ⟨uid, k0, guard⟩ } := by
  unfold State.planSet at h
  split at h
  · cases h
  · next c hc =>
    split at h
    · cases h
    · next t ht =>
      dsimp only at h
      generalize (if guard.isSome = true then 4 else 0) = off at h
      split at h
      · cases h
      · split at h
        · cases h
        · split at h
          · split at h
            · split at h <;> cases h
            · cases h
          · cases h
            exact ⟨c, t, _, hc, ht, rfl⟩

theorem planSet_hasIssue {s s' : State} {uid k0 : Nat} {guard : Option (BitVec 4)} {i : Instr}
    (h : s.planSet uid k0 guard = .run s' i) : s'.hasIssue = true := by
  obtain ⟨c, t, halt, hc, ht, rfl⟩ := planSet_run h
  have hcrew : (s.onCrew uid fun x => { x with halt := halt x }).crew uid = some { c with halt := halt c } := by
    rw [State.onCrew_crew s uid (fun x => { x with halt := halt x }) fun _ hx => hx, hc]
    rfl
  have hany : c.threads.any (sel k0) = true :=
    List.any_eq_true.mpr ⟨t, List.mem_of_find?_eq_some ht, List.find?_some ht⟩
  show State.hasIssue { (s.onCrew uid fun x => { x with halt := halt x }) with iss := ⟨uid, k0, guard⟩ } = true
  unfold State.hasIssue
  exact (congrArg (fun o : Option Crew => match o with
    | none => false
    | some c => c.threads.any (sel k0)) hcrew).trans hany

/-- What a step runs answers a next state. -/
theorem plan_run_answers {s s' : State} {i : Instr} (h : s.plan = .run s' i) : Answers (exec i s') := by
  unfold State.plan at h
  split at h
  · exact exec_answers i (planSet_hasIssue h)
  · dsimp only at h
    repeat' split at h
    · cases h
    · cases h
      exact event_answers (Event.encode_instr _) _
    · cases h
    · cases h
      exact event_answers rfl _
    · exact exec_answers i (planSet_hasIssue h)
    · cases h

theorem step_answers (s : State) : Answers (step s) := by
  unfold step
  split
  · exact ⟨_, rfl⟩
  · exact ⟨_, rfl⟩
  · next h => exact plan_run_answers h

theorem safeFor (k : Nat) (s : State) : SafeFor k s := by
  induction k generalizing s with
  | zero => trivial
  | succ k ih =>
    obtain ⟨t, ht⟩ := step_answers s
    unfold SafeFor
    rw [ht]
    exact ih t

/-- Settles O58: every instruction is the issue of a form, which answers once a set issues, every event answers in each of
its branches, and a step runs an event, a set that it has found, or nothing. -/
theorem nothingStops : Obligations.NothingStops := by
  unfold Obligations.NothingStops
  exact ⟨fun i _ h => exec_answers i h, fun _ s h => event_answers h s, step_answers, safeFor⟩

end Sys2Proof.Machine

end

section
/-! The canonical form of physical memory under the operations that write more than one access: a segment of a restore
(R397), the destruction of a region (R421) and the two starts of the device (R416). The statement MemoryForm. -/

namespace Sys2Proof.Machine

/-! ## Entries that leave a table -/

section
variable {β : Type}

theorem tabGet_filter {t : Tab β} {d : β} {k : Nat} {p : Nat × β → Bool} (hp : ∀ v, p (k, v) = true) :
    tabGet (t.filter p) d k = tabGet t d k := by
  induction t with
  | nil => rfl
  | cons e r ih =>
    obtain ⟨j, v⟩ := e
    by_cases hj : k = j
    · subst hj
      simp [hp, tabGet]
    · by_cases he : p (j, v) = true <;> simp [he, tabGet, hj, ih]

theorem tabWfFrom_filter [DecidableEq β] {dk : Nat → β} {t : Tab β} (p : Nat × β → Bool) {lo : Nat}
    (h : tabWfFrom dk lo t = true) : tabWfFrom dk lo (t.filter p) = true := by
  induction t generalizing lo with
  | nil => rfl
  | cons e r ih =>
    obtain ⟨j, v⟩ := e
    simp only [tabWfFrom, Bool.and_eq_true, decide_eq_true_eq] at h
    obtain ⟨⟨hlo, hv⟩, hr⟩ := h
    by_cases he : p (j, v) = true
    · simp [he, tabWfFrom, hlo, hv, ih hr]
    · simpa [he] using tabWfFrom_mono (ih hr) (by omega)

end

theorem Memory.wf_filter {m : Memory} (p : Nat × Byte → Bool) (h : Memory.wf m = true) : Memory.wf (m.filter p) = true :=
  tabWfFrom_filter p h

/-! ## A segment of a restore -/

theorem State.writeSegment_memOk {s : State} (pa : Nat) (l : List Byte) (h : s.memOk = true) :
    (s.writeSegment pa l).memOk = true :=
  writeBytes_wf _ _ (Memory.wf_filter _ h)

theorem State.writeSegment_outside {s : State} {pa a : Nat} (l : List Byte) (ha : a < pa ∨ pa + segBytes ≤ a) :
    readB (s.writeSegment pa l).mem a = readB s.mem a := by
  have hlen : (List.take segBytes (Config.decipher (s.keyAt pa).1 (s.keyAt pa).2 pa l)).length ≤ segBytes :=
    List.length_take_le ..
  have hkeep : ∀ v : Byte, (!(decide (pa ≤ (a, v).1) && decide ((a, v).1 < pa + segBytes))) = true := by
    intro _
    simp only [Bool.not_eq_true', Bool.and_eq_false_iff, decide_eq_false_iff_not]
    omega
  exact (readB_writeBytes_outside _ (by omega)).trans (tabGet_filter hkeep)

/-! ## The destruction of a region -/

/-- `n` bytes from `b` on, each given by its address. -/
def fillBytes (f : Nat → Byte) (b n : Nat) (m : Memory) : Memory :=
  (List.range n).foldl (fun m k => writeB m (b + k) (f (b + k))) m

theorem scrambleRegion_eq_fill (i r : Nat) (m : Memory) :
    scrambleRegion i r m = fillBytes (Config.scrambled i) (r * regionBytes) regionBytes m := rfl

theorem fillBytes_succ (f : Nat → Byte) (b n : Nat) (m : Memory) :
    fillBytes f b (n + 1) m = writeB (fillBytes f b n m) (b + n) (f (b + n)) := by
  simp [fillBytes, List.range_succ]

theorem fillBytes_wf (f : Nat → Byte) (b n : Nat) {m : Memory} (h : Memory.wf m = true) :
    Memory.wf (fillBytes f b n m) = true := by
  induction n with
  | zero => exact h
  | succ n ih =>
    rw [fillBytes_succ]
    exact writeB_wf _ _ ih

theorem getD_listed {α : Type} {l : List α} {i : Nat} (d : α) (h : i < l.length) : l.getD i d = l[i] := by
  simp [h]

theorem getD_beyond {α : Type} {l : List α} {i : Nat} (d : α) (h : l.length ≤ i) : l.getD i d = d := by
  simp [h]

/-- Two choices on equivalent conditions between equal values are one. -/
theorem ite_of_iff {α : Type} {a b : Prop} [Decidable a] [Decidable b] {x y u v : α} (h : a ↔ b) (hx : x = u) (hy : y = v) :
    (if a then x else y) = if b then u else v := by
  subst hx hy
  simp only [h]

theorem readB_fillBytes (f : Nat → Byte) (b n : Nat) {m : Memory} (h : Memory.wf m = true) (a : Nat) :
    readB (fillBytes f b n m) a = if b ≤ a ∧ a < b + n then f a else readB m a := by
  induction n with
  | zero => exact (if_neg (by omega)).symm
  | succ n ih =>
    rw [fillBytes_succ]
    by_cases ha : a = b + n
    · subst ha
      rw [readB_writeB_self _ _ (fillBytes_wf f b n h), if_pos (by omega)]
    · rw [readB_writeB_ne _ ha, ih]
      exact ite_of_iff (by omega) rfl rfl

theorem scrambleRegion_wf (i r : Nat) {m : Memory} (h : Memory.wf m = true) : Memory.wf (scrambleRegion i r m) = true := by
  rw [scrambleRegion_eq_fill]
  exact fillBytes_wf _ _ _ h

theorem readB_scrambleRegion (i r : Nat) {m : Memory} (h : Memory.wf m = true) (a : Nat) :
    readB (scrambleRegion i r m) a = if a / 2 ^ 30 = r then Config.scrambled i a else readB m a := by
  rw [scrambleRegion_eq_fill, readB_fillBytes _ _ _ h]
  refine ite_of_iff ?_ rfl rfl
  unfold regionBytes
  omega

theorem scrambleRegions_wf (i : Nat) (rs : List Nat) {m : Memory} (h : Memory.wf m = true) :
    Memory.wf (rs.foldl (fun m r => scrambleRegion i r m) m) = true := by
  induction rs generalizing m with
  | nil => exact h
  | cons r rs ih =>
    rw [List.foldl_cons]
    exact ih (scrambleRegion_wf i r h)

theorem readB_scrambleRegions (i : Nat) (rs : List Nat) {m : Memory} (h : Memory.wf m = true) (a : Nat) :
    readB (rs.foldl (fun m r => scrambleRegion i r m) m) a =
      if a / 2 ^ 30 ∈ rs then Config.scrambled i a else readB m a := by
  induction rs generalizing m with
  | nil => rfl
  | cons r rs ih =>
    rw [List.foldl_cons, ih (scrambleRegion_wf i r h), readB_scrambleRegion i r h]
    by_cases hr : a / 2 ^ 30 = r
    · rw [if_pos hr, if_pos (List.mem_cons.2 (.inl hr)), ite_self]
    · rw [if_neg hr]
      exact ite_of_iff (by simp only [List.mem_cons, hr, false_or]) rfl rfl

theorem State.scramble_memOk {s : State} (rs : List Nat) (h : s.memOk = true) : (s.scramble rs).memOk = true :=
  scrambleRegions_wf s.freeCtr rs h

theorem State.scramble_readB {s : State} (rs : List Nat) (h : s.memOk = true) (a : Nat) :
    readB (s.scramble rs).mem a = if a / 2 ^ 30 ∈ rs then Config.scrambled s.freeCtr a else readB s.mem a :=
  readB_scrambleRegions s.freeCtr rs h a

/-! ## The two starts of the device -/

theorem State.restart_mem (s : State) (m : Memory) (n : Nat) (t : Tab Nat) : (s.restart m n t).mem = m := rfl

theorem deviceReset_memOk {s t : State} (h : s.memOk = true) (ht : exec .deviceReset s = .next t) : t.memOk = true := by
  obtain rfl := Host.Outcome.next.inj ht
  unfold State.memOk
  rw [State.restart_mem]
  exact State.scramble_memOk (List.range 1024) h

theorem powerLoss_memOk {s t : State} (ht : exec .powerLoss s = .next t) : t.memOk = true := by
  obtain rfl := Host.Outcome.next.inj ht
  rfl

/-- Settles O59: a store and a segment write bytes into a canonical table, a teardown fills whole regions, and a start leaves
the scrambled memory or the empty one. -/
theorem memoryForm : Obligations.MemoryForm := by
  unfold Obligations.MemoryForm
  refine ⟨fun s pa l h => ⟨storePA_wf pa l h, fun k hk => storePA_inside l h k hk, fun a ha => storePA_outside l ha⟩,
    fun s rs h => ⟨State.scramble_memOk rs h, State.scramble_readB rs h⟩,
    fun s pa l h => ⟨State.writeSegment_memOk pa l h, fun a ha => State.writeSegment_outside l ha⟩, ?_⟩
  rintro s i t h (rfl | rfl) ht
  · exact deviceReset_memOk h ht
  · exact powerLoss_memOk ht

end Sys2Proof.Machine
end

section
/-! Immediates, fp32 arithmetic and comparisons, packed halves, conversion, dot products, predicate logic and control
transfers: instructions that act on each thread, or once on the crew, and complete (R174 to R183, R191 to R198, R230 to R232).
The statements Immediates, FloatSet, FloatComparesAndHalves, Conversion, DotProducts, PredicateLogic and ControlTransfers. -/

namespace Sys2Proof.Machine

/-! ## Immediates (R174, R177) -/

theorem add_signExtend32_eq_ofInt {n : Nat} (h : n ≤ 32) (x : Word) (i : BitVec n) :
    x + i.signExtend 32 = BitVec.ofInt 32 (x.toNat + i.toInt) := by
  rw [signExtend_eq_ofInt h, BitVec.ofInt_add, BitVec.ofInt_natCast, ofNat_toNat_self]

theorem add_signExtend64_eq_ofInt {n : Nat} (h : n ≤ 64) (x : BitVec 64) (i : BitVec n) :
    x + i.signExtend 64 = BitVec.ofInt 64 (x.toNat + i.toInt) := by
  rw [signExtend_eq_ofInt h, BitVec.ofInt_add, BitVec.ofInt_natCast, ofNat_toNat_self]

theorem movhWord_eq_ofNat (i : BitVec 14) (w : Word) :
    movhWord i w = BitVec.ofNat 32 (i.toNat * 2 ^ 18 + w.toNat % 2 ^ 18) := by
  have hlt : w.toNat % 2 ^ 18 < 2 ^ 18 := Nat.mod_lt _ (by decide)
  have hi := i.isLt
  apply BitVec.eq_of_toNat_eq
  calc (movhWord i w).toNat = i.toNat <<< 18 ||| w.toNat % 2 ^ 18 := by
        rw [movhWord, BitVec.toNat_append, BitVec.extractLsb'_toNat, Nat.shiftRight_zero]
    _ = i.toNat * 2 ^ 18 + w.toNat % 2 ^ 18 := by
        rw [← Nat.shiftLeft_add_eq_or_of_lt hlt, Nat.shiftLeft_eq]
    _ = (BitVec.ofNat 32 (i.toNat * 2 ^ 18 + w.toNat % 2 ^ 18)).toNat := by
        rw [BitVec.toNat_ofNat]
        exact (Nat.mod_eq_of_lt (by omega)).symm

theorem addi_runs (sw : Bool) (d a : BitVec 7) (i : BitVec 11) : RunsThreads (.addi sw d a i) sw [dX d 1, aX a 1] fun _ t =>
    t.putX d.toNat (BitVec.ofInt 32 ((t.x a.toNat).toNat + i.toInt)) := by
  simp only [← add_signExtend32_eq_ofInt (n := 11) (by decide)]
  have h : ∀ s, exec (.addi sw d a i) s = execAddi sw d a i s := fun _ => rfl
  exact execPure_runs h rfl fun _ _ => ⟨rfl, rfl⟩

theorem movl_runs (sw : Bool) (d : BitVec 7) (i : BitVec 18) : RunsThreads (.movl sw d i) sw [dX d 1] fun _ t =>
    t.putX d.toNat (BitVec.ofInt 32 i.toInt) := by
  rw [← signExtend_eq_ofInt (by decide)]
  have h : ∀ s, exec (.movl sw d i) s = execMovl sw d i s := fun _ => rfl
  exact execPure_runs h rfl fun _ _ => ⟨rfl, rfl⟩

theorem movh_runs (sw : Bool) (d : BitVec 7) (i : BitVec 14) : RunsThreads (.movh sw d i) sw [dX d 1] fun _ t =>
    t.putX d.toNat (BitVec.ofNat 32 (i.toNat * 2 ^ 18 + (t.x d.toNat).toNat % 2 ^ 18)) := by
  simp only [← movhWord_eq_ofNat]
  have h : ∀ s, exec (.movh sw d i) s = execMovh sw d i s := fun _ => rfl
  exact execPure_runs h rfl fun _ _ => ⟨rfl, rfl⟩

theorem addai_runs (sw : Bool) (d a : BitVec 7) (i : BitVec 11) : RunsThreads (.addai sw d a i) sw [dX d 2, aX a 2] fun _ t =>
    let v := BitVec.ofInt 64 ((t.x64 a.toNat).toNat + i.toInt)
    (t.putX d.toNat (v.extractLsb' 0 32)).putX (d.toNat + 1) (v.extractLsb' 32 32) := by
  simp only [← add_signExtend64_eq_ofInt (n := 11) (by decide)]
  have h : ∀ s, exec (.addai sw d a i) s = execAddai sw d a i s := fun _ => rfl
  exact execPure_runs h rfl fun _ _ => ⟨rfl, rfl⟩

theorem uaddi_runs (sw : Bool) (d a : BitVec 7) (i : BitVec 11) : RunsCrew (.uaddi sw d a i) sw [] [dS d 1, aS a 1] fun c =>
    (c.putS d.toNat (BitVec.ofInt 32 ((c.s a.toNat).toNat + i.toInt)), 0) := by
  simp only [← add_signExtend32_eq_ofInt (n := 11) (by decide)]
  have h : ∀ s, exec (.uaddi sw d a i) s = execUaddi sw d a i s := fun _ => rfl
  exact execCrew_runs h rfl fun _ => ⟨rfl, rfl⟩

theorem umovl_runs (sw : Bool) (d : BitVec 7) (i : BitVec 18) : RunsCrew (.umovl sw d i) sw [] [dS d 1] fun c =>
    (c.putS d.toNat (BitVec.ofInt 32 i.toInt), 0) := by
  rw [← signExtend_eq_ofInt (by decide)]
  have h : ∀ s, exec (.umovl sw d i) s = execUmovl sw d i s := fun _ => rfl
  exact execCrew_runs h rfl fun _ => ⟨rfl, rfl⟩

theorem umovh_runs (sw : Bool) (d : BitVec 7) (i : BitVec 14) : RunsCrew (.umovh sw d i) sw [] [dS d 1] fun c =>
    (c.putS d.toNat (BitVec.ofNat 32 (i.toNat * 2 ^ 18 + (c.s d.toNat).toNat % 2 ^ 18)), 0) := by
  simp only [← movhWord_eq_ofNat]
  have h : ∀ s, exec (.umovh sw d i) s = execUmovh sw d i s := fun _ => rfl
  exact execCrew_runs h rfl fun _ => ⟨rfl, rfl⟩

/-- Settles O2: each form writes the number that its table gives. -/
theorem immediates : Obligations.Immediates := by
  unfold Obligations.Immediates
  exact ⟨addi_runs, movl_runs, movh_runs, addai_runs, uaddi_runs, umovl_runs, umovh_runs⟩

/-! ## Set F (R178, R179) -/

/-- `i` performs `fn` in major 0x10, and `is` the same with a uniform B in major 0x11. -/
def PerformsF (fn : SetF) (reads : Bool) (i is : Rrr) : Prop :=
  ∀ sw d a b s, exec (i sw d a b) s = opSetF (encRRR sw 16#6 (BitVec.ofNat 4 fn.ctorIdx) d a b) fn reads sw d a b s ∧
    exec (is sw d a b) s = opSetFPaired (encRRR sw 17#6 (BitVec.ofNat 4 fn.ctorIdx) d a b) fn reads sw d a b s

theorem PerformsF.runs {fn : SetF} {reads : Bool} {i is : Rrr} (h : PerformsF fn reads i is) :
    RunsF i true reads (setF32 fn) ∧ RunsFs is reads (setF32 fn) :=
  ⟨fun sw d a b => execPure_runs (fun s => (h sw d a b s).1) rfl fun _ _ => ⟨rfl, rfl⟩,
    fun sw d a b => execPure_runs (fun s => (h sw d a b s).2) rfl fun _ _ => ⟨rfl, rfl⟩⟩

theorem performs_fadd : PerformsF .fadd false .fadd .faddPaired := fun _ _ _ _ _ => ⟨rfl, rfl⟩
theorem performs_fsub : PerformsF .fsub false .fsub .fsubPaired := fun _ _ _ _ _ => ⟨rfl, rfl⟩
theorem performs_fmul : PerformsF .fmul false .fmul .fmulPaired := fun _ _ _ _ _ => ⟨rfl, rfl⟩
theorem performs_ffma : PerformsF .ffma true .ffma .ffmaPaired := fun _ _ _ _ _ => ⟨rfl, rfl⟩
theorem performs_fmin : PerformsF .fmin false .fmin .fminPaired := fun _ _ _ _ _ => ⟨rfl, rfl⟩
theorem performs_fmax : PerformsF .fmax false .fmax .fmaxPaired := fun _ _ _ _ _ => ⟨rfl, rfl⟩
theorem performs_fdiv : PerformsF .fdiv false .fdiv .fdivPaired := fun _ _ _ _ _ => ⟨rfl, rfl⟩

/-- `i` performs `fn` on one operand, as function `code` of major 0x10. -/
def PerformsFUnary (code : BitVec 4) (fn : SetF) (i : Rr) : Prop :=
  ∀ sw d a s, exec (i sw d a) s = opSetFUnary (encRRR sw 16#6 code d a 0#7) fn sw d a s

theorem PerformsFUnary.runs {code : BitVec 4} {fn : SetF} {i : Rr} (h : PerformsFUnary code fn i) (sw : Bool)
    (d a : BitVec 7) : RunsThreads (i sw d a) sw [dX d 1, (aX a 1).fp] fun _ t =>
    (t.putX d.toNat (setF32 fn (t.x a.toNat) 0 0).1).flag (setF32 fn (t.x a.toNat) 0 0).2 :=
  execPure_runs (h sw d a) rfl fun _ _ => ⟨rfl, rfl⟩

theorem performs_fsqrt : PerformsFUnary 7#4 .fsqrt .fsqrt := fun _ _ _ _ => rfl
theorem performs_fabs : PerformsFUnary 8#4 .fabs .fabs := fun _ _ _ _ => rfl
theorem performs_fneg : PerformsFUnary 9#4 .fneg .fneg := fun _ _ _ _ => rfl

/-- An fp32 code without its sign. -/
theorem toNat_and_7FFFFFFF (v : Word) : (v &&& 0x7FFFFFFF).toNat = v.toNat % 2 ^ 31 := by
  rw [BitVec.toNat_and]
  exact Nat.and_two_pow_sub_one_eq_mod v.toNat 31

/-- A code above that of the infinity is a NaN, signalling where bit 22 is 0. -/
theorem fdecode_f32_of_gt {v : Word} (h : 0x7F800000 < v.toNat % 2 ^ 31) :
    fdecode fmtF32 v.toNat = .nan (!v.getLsbD 22) := by
  have hv := v.isLt
  have he : fieldN v.toNat 23 8 = 255 := by
    unfold fieldN
    omega
  have hm : fieldN v.toNat 0 23 ≠ 0 := by
    unfold fieldN
    omega
  have hb : bitN (fieldN v.toNat 0 23) 22 = v.getLsbD 22 := by
    rw [BitVec.getLsbD, Nat.testBit_eq_decide_div_mod_eq]
    unfold bitN fieldN
    exact decide_eq_decide.mpr (by omega)
  simp [fdecode, fmtF32, he, hm, hb]

theorem not_isNanV_of_le {v : Word} (h : v.toNat % 2 ^ 31 ≤ 0x7F800000) : isNanV (fdecode fmtF32 v.toNat) = false := by
  have hne : (v.toNat == 0x7FC00000) = false := beq_eq_false_iff_ne.mpr (by omega)
  by_cases he : fieldN v.toNat 23 8 = 255
  · have hm : fieldN v.toNat 0 23 = 0 := by
      unfold fieldN at he ⊢
      omega
    simp [fdecode, fmtF32, he, hm, isNanV]
  · by_cases h0 : fieldN v.toNat 23 8 = 0 <;> simp [fdecode, fmtF32, he, h0, hne, isNanV]

/-- A code of fp32 with the sign bit that a function of it gives. -/
theorem setF32_sign {fn : SetF} {negate : Bool} {g : Word → Word} (hfn : ∀ a, setF fmtF32 fn a 0 0 = fabsneg fmtF32 negate a)
    (hg : ∀ v : Word, BitVec.ofNat 32 (if negate then (if bitN v.toNat 31 then v.toNat - 2 ^ 31 else v.toNat + 2 ^ 31)
      else (if bitN v.toNat 31 then v.toNat - 2 ^ 31 else v.toNat)) = g v) (v : Word) :
    setF32 fn v 0 0 = if (v &&& 0x7FFFFFFF).toNat ≤ 0x7F800000 then (g v, 0)
      else if v.getLsbD 22 then (0x7FC00000, 0) else (0x7FC00000, fNV) := by
  have hs : setF32 fn v 0 0 = (BitVec.ofNat 32 (fabsneg fmtF32 negate v.toNat).1, (fabsneg fmtF32 negate v.toNat).2) := by
    unfold setF32
    rw [← hfn]
    rfl
  rw [hs, toNat_and_7FFFFFFF]
  split
  next h =>
    rw [fabsneg, not_isNanV_of_le h]
    exact congrArg (·, (0 : Flags)) (hg v)
  next h =>
    rw [fabsneg, fdecode_f32_of_gt (Nat.lt_of_not_le h)]
    cases v.getLsbD 22 <;> rfl

theorem bitN_31_eq (v : Word) : bitN v.toNat 31 = decide (2 ^ 31 ≤ v.toNat) := by
  have := v.isLt
  simp only [bitN, decide_eq_decide]
  omega

theorem setF32_fabs (v : Word) : setF32 .fabs v 0 0 = if (v &&& 0x7FFFFFFF).toNat ≤ 0x7F800000 then (v &&& 0x7FFFFFFF, 0)
    else if v.getLsbD 22 then (0x7FC00000, 0) else (0x7FC00000, fNV) := by
  refine setF32_sign (negate := false) (g := fun v => v &&& 0x7FFFFFFF) (fun _ => rfl) (fun v => ?_) v
  apply BitVec.eq_of_toNat_eq
  have := v.isLt
  rw [toNat_and_7FFFFFFF, BitVec.toNat_ofNat, bitN_31_eq]
  simp only [Bool.false_eq_true, if_false, decide_eq_true_eq]
  split <;> omega

/-- Inverting the sign bit adds it. -/
theorem xor_signBit (v : Word) : v ^^^ 0x80000000 = BitVec.ofNat 32 (2 ^ 31 + v.toNat) := by
  apply BitVec.eq_of_getLsbD_eq
  intro i hi
  have hbit : (0x80000000 : Word).getLsbD i = decide (31 = i) :=
    Nat.testBit_two_pow (n := 31) (m := i)
  rw [BitVec.getLsbD_xor, BitVec.getLsbD_ofNat, hbit, decide_eq_true hi, Bool.true_and]
  by_cases h : 31 = i
  · subst h
    rw [Nat.testBit_two_pow_add_eq, decide_eq_true rfl, Bool.xor_true]
    rfl
  · rw [Nat.testBit_two_pow_add_gt (by omega), decide_eq_false h, Bool.xor_false]
    rfl

theorem setF32_fneg (v : Word) : setF32 .fneg v 0 0 = if (v &&& 0x7FFFFFFF).toNat ≤ 0x7F800000 then (v ^^^ 0x80000000, 0)
    else if v.getLsbD 22 then (0x7FC00000, 0) else (0x7FC00000, fNV) := by
  refine setF32_sign (negate := true) (g := fun v => v ^^^ 0x80000000) (fun _ => rfl) (fun v => ?_) v
  apply BitVec.eq_of_toNat_eq
  have := v.isLt
  rw [xor_signBit, BitVec.toNat_ofNat, BitVec.toNat_ofNat, bitN_31_eq]
  simp only [if_true, decide_eq_true_eq]
  split <;> omega

/-- fabs and fneg of a thread: the flags of a NaN are those that the effect raises. -/
theorem sign_runs {code : BitVec 4} {fn : SetF} {i : Rr} {g : Word → Word} (h : PerformsFUnary code fn i)
    (hfn : ∀ v, setF32 fn v 0 0 = if (v &&& 0x7FFFFFFF).toNat ≤ 0x7F800000 then (g v, 0)
      else if v.getLsbD 22 then (0x7FC00000, 0) else (0x7FC00000, fNV)) (sw : Bool) (d a : BitVec 7) :
    RunsThreads (i sw d a) sw [dX d 1, (aX a 1).fp] fun _ t =>
      let v := t.x a.toNat
      if (v &&& 0x7FFFFFFF).toNat ≤ 0x7F800000 then t.putX d.toNat (g v)
      else if v.getLsbD 22 then t.putX d.toNat 0x7FC00000
      else (t.putX d.toNat 0x7FC00000).flag fNV := by
  have heff : (fun (_ : Crew) (t : Thread) =>
      (t.putX d.toNat (setF32 fn (t.x a.toNat) 0 0).1).flag (setF32 fn (t.x a.toNat) 0 0).2) = fun _ t =>
      let v := t.x a.toNat
      if (v &&& 0x7FFFFFFF).toNat ≤ 0x7F800000 then t.putX d.toNat (g v)
      else if v.getLsbD 22 then t.putX d.toNat 0x7FC00000
      else (t.putX d.toNat 0x7FC00000).flag fNV := by
    funext _ t
    dsimp only
    rw [hfn]
    split
    · exact Thread.flag_zero _
    · split
      · exact Thread.flag_zero _
      · rfl
  rw [← heff]
  exact h.runs sw d a

/-- Settles O5: each instruction performs its function of set F, and the code of fabs and fneg is the operand's but for its
sign. -/
theorem floatSet : Obligations.FloatSet := by
  unfold Obligations.FloatSet
  exact ⟨performs_fadd.runs.1, performs_fsub.runs.1, performs_fmul.runs.1, performs_ffma.runs.1, performs_fmin.runs.1,
    performs_fmax.runs.1, performs_fdiv.runs.1, performs_fadd.runs.2, performs_fsub.runs.2, performs_fmul.runs.2,
    performs_ffma.runs.2, performs_fmin.runs.2, performs_fmax.runs.2, performs_fdiv.runs.2, performs_fsqrt.runs,
    sign_runs performs_fabs setF32_fabs, sign_runs performs_fneg setF32_fneg⟩

end Sys2Proof.Machine
end

section
/-! fp32 comparisons, packed halves, conversion, dot products, predicate logic and control transfers (R180 to R183, R191 to
R198, R230 to R232): the statements FloatComparesAndHalves, Conversion, DotProducts, PredicateLogic and ControlTransfers. -/

namespace Sys2Proof.Machine

/-! ## Comparisons and halves (R180, R181) -/

theorem opFcmp_runs {fn : Nat} {i : Prr} {w : Bool → BitVec 3 → BitVec 7 → BitVec 7 → Word}
    (h : ∀ sw p a b s, exec (i sw p a b) s = opFcmp (w sw p a b) fn sw p a b s) : RunsFc i (fcmp32 fn) :=
  fun sw p a b => execPure_runs (h sw p a b) rfl fun _ _ => ⟨rfl, rfl⟩

theorem elemOf_half (k : Nat) (v : Word) : elemOf 16 k v = v.toNat / 2 ^ (16 * k) % 2 ^ 16 := rfl

theorem setFPacked_eq (f : Fmt) (fn : SetF) (a b d : Word) : setFPacked f fn a b d =
    (BitVec.ofNat 32 ((setF f fn (elemOf 16 0 a) (elemOf 16 0 b) (elemOf 16 0 d)).1 % 2 ^ 16 +
      2 ^ 16 * ((setF f fn (elemOf 16 1 a) (elemOf 16 1 b) (elemOf 16 1 d)).1 % 2 ^ 16)),
     (setF f fn (elemOf 16 0 a) (elemOf 16 0 b) (elemOf 16 0 d)).2 |||
      (setF f fn (elemOf 16 1 a) (elemOf 16 1 b) (elemOf 16 1 d)).2) := rfl

theorem opPacked_runs {f : Fmt} {fn : SetF} {reads : Bool} {i : Rrr} {w : Bool → BitVec 7 → BitVec 7 → BitVec 7 → Word}
    (h : ∀ sw d a b s, exec (i sw d a b) s = opPacked (w sw d a b) f fn reads sw d a b s) :
    RunsF i true reads (setFPacked f fn) :=
  fun sw d a b => execPure_runs (h sw d a b) rfl fun _ _ => ⟨rfl, rfl⟩

/-- Settles O6: each relation and each function of halves is performed by its form, and the packed result is that of the two
halves. -/
theorem floatComparesAndHalves : Obligations.FloatComparesAndHalves := by
  unfold Obligations.FloatComparesAndHalves
  simp only [← elemOf_half, ← setFPacked_eq]
  refine ⟨opFcmp_runs fun _ _ _ _ _ => rfl, opFcmp_runs fun _ _ _ _ _ => rfl, opFcmp_runs fun _ _ _ _ _ => rfl,
    opFcmp_runs fun _ _ _ _ _ => rfl, opFcmp_runs fun _ _ _ _ _ => rfl, opFcmp_runs fun _ _ _ _ _ => rfl,
    opPacked_runs fun _ _ _ _ _ => rfl, opPacked_runs fun _ _ _ _ _ => rfl, opPacked_runs fun _ _ _ _ _ => rfl,
    opPacked_runs fun _ _ _ _ _ => rfl, opPacked_runs fun _ _ _ _ _ => rfl, opPacked_runs fun _ _ _ _ _ => rfl,
    opPacked_runs fun _ _ _ _ _ => rfl, opPacked_runs fun _ _ _ _ _ => rfl, opPacked_runs fun _ _ _ _ _ => rfl,
    opPacked_runs fun _ _ _ _ _ => rfl, opPacked_runs fun _ _ _ _ _ => rfl, opPacked_runs fun _ _ _ _ _ => rfl⟩

/-! ## Conversion (R182, R183) -/

theorem exec_cvt (sw : Bool) (f : BitVec 4) (d a : BitVec 7) (t : BitVec 4) (k : Bool) (r : BitVec 2) (s : State) :
    exec (.cvt sw f d a t k r) s =
      opCvt (encRRR sw 20#6 f d a (t ++ BitVec.ofBool k ++ r)) f.toNat t.toNat r.toNat k sw d a s := rfl

theorem opCvt_scalar (w : Word) (src dst rm : Nat) (sw : Bool) (d a : BitVec 7) (s : State) :
    opCvt w src dst rm false sw d a s =
      execPure { word := w, sw := sw, ops := [dX d 1, { aX a 1 with mark := decide (src ≤ 4) }] } s fun _ u =>
        (u.putX d.toNat (cvtScalar src dst rm (u.x a.toNat)).1).flag (cvtScalar src dst rm (u.x a.toNat)).2 := by
  rw [opCvt]
  simp only [Bool.false_eq_true, if_false]
  rfl

theorem opCvt_packed (w : Word) (src dst rm : Nat) (sw : Bool) (d a : BitVec 7) (s : State) :
    opCvt w src dst rm true sw d a s =
      execPure { word := w, sw := sw, ops := [dX d (cvtDstRegs src dst true), { aX a (cvtSrcRegs src dst true) with
          mark := decide (src ≤ 4) }] } s fun _ u =>
        let v := cvtPacked src dst rm ((List.range (cvtSrcRegs src dst true)).map fun n => u.x (a.toNat + n))
        (u.putXs d.toNat v.1).flag v.2 := by
  rw [opCvt]
  simp only [if_true]
  rfl

theorem cvt_runs (sw : Bool) (f : BitVec 4) (d a : BitVec 7) (t : BitVec 4) (r : BitVec 2) :
    RunsThreads (.cvt sw f d a t false r) sw [dX d 1, { aX a 1 with mark := decide (f.toNat ≤ 4) }] fun _ u =>
      let v := cvtScalar f.toNat t.toNat r.toNat (u.x a.toNat)
      (u.putX d.toNat v.1).flag v.2 :=
  execPure_runs (fun s => (exec_cvt sw f d a t _ r s).trans (opCvt_scalar _ _ _ _ sw d a s)) rfl fun _ _ => ⟨rfl, rfl⟩

theorem Thread.putXs_entering_lane (t : Thread) (d : Nat) (vs : List Word) :
    (t.putXs d vs).entering = t.entering ∧ (t.putXs d vs).lane = t.lane := by
  induction vs generalizing t d with
  | nil => exact ⟨rfl, rfl⟩
  | cons v vs ih => exact ih (t.putX d v) (d + 1)

theorem cvt_packed_runs (sw : Bool) (f : BitVec 4) (d a : BitVec 7) (t : BitVec 4) (r : BitVec 2) :
    RunsThreads (.cvt sw f d a t true r) sw
      [dX d (cvtDstRegs f.toNat t.toNat true), { aX a (cvtSrcRegs f.toNat t.toNat true) with mark := decide (f.toNat ≤ 4) }]
      fun _ u =>
        let v := cvtPacked f.toNat t.toNat r.toNat
          ((List.range (cvtSrcRegs f.toNat t.toNat true)).map fun n => u.x (a.toNat + n))
        (u.putXs d.toNat v.1).flag v.2 :=
  execPure_runs (fun s => (exec_cvt sw f d a t _ r s).trans (opCvt_packed _ _ _ _ sw d a s)) rfl fun _ u => Thread.putXs_entering_lane u d.toNat _

/-- Settles O7: a conversion is one of its two forms. -/
theorem conversion : Obligations.Conversion := by
  unfold Obligations.Conversion
  exact fun sw f d a t r => ⟨fun _ => cvt_runs sw f d a t r, fun _ => cvt_packed_runs sw f d a t r⟩

/-! ## Instructions whose threads may refuse -/

/-- A plain form completes on ready operands if no thread with ready operands refuses. -/
theorem execThreads_ready_runs {i : Instr} {f : Form} {g : Env → Crew → Thread → Except Trap Thread} {eff : Crew → Thread → Thread}
    (hi : ∀ s, exec i s = execThreads f s g) (hp : f.plain = true) (hg : ∀ e c t, g e c t = .ok (eff c t))
    (he : ∀ c t, (eff c t).entering = t.entering ∧ (eff c t).lane = t.lane) : RunsThreads i f.sw f.ops eff := by
  have hp' := hp
  simp only [Form.plain, Bool.and_eq_true, Bool.not_eq_true'] at hp'
  obtain ⟨⟨⟨-, hcoll⟩, -⟩, hqs⟩ := hp'
  exact execThreads_runs hi hcoll (fun _ _ _ h => wordTrap_plain hp h.1) (fun _ _ _ h => h.2.1)
    (fun _ _ _ h hg' => ⟨opCheck_ready hcoll (by simpa using hqs) (h.2.2 hg'), hg _ _ _⟩) he

/-! ## Dot products (R230, R231, R232) -/

theorem opDot_runs {k : Dot} {elems acc : Bool} {i : Rrr} {w : Bool → BitVec 7 → BitVec 7 → BitVec 7 → Word}
    (h : ∀ sw d a b s, exec (i sw d a b) s = opDot (w sw d a b) k elems acc sw d a b s) :
    RunsF i elems acc fun a b d => dot k d a b :=
  fun sw d a b => execPure_runs (h sw d a b) rfl fun _ _ => ⟨rfl, rfl⟩

/-- A block that is not refused for its parity. -/
theorem opDotScaled_runs {f : Fmt} {elems odd : Bool} {i : Instr} {w : Word} {sw : Bool} {k : BitVec 2} {d a b : BitVec 7}
    (h : ∀ s, exec i s = opDotScaled w f elems odd sw k d a b s) (hk : (!odd && k.getLsbD 0) = false) :
    RunsThreads i sw [dX d 3, (dX d 1).fp, { aX a 1 with mark := elems }, { bX b 1 with mark := elems }] fun _ t =>
      let r := dotScaled f k.toNat (t.x d.toNat) (t.x a.toNat) (t.x b.toNat) (t.x (d.toNat + 1)) (t.x (d.toNat + 2))
      (t.putX d.toNat r.1).flag r.2 := by
  refine execThreads_ready_runs h rfl (fun e c t => ?_) fun _ _ => ⟨rfl, rfl⟩
  rw [hk]
  rfl

theorem getLsbD_zero_of_even {k : BitVec 2} (h : k.toNat % 2 = 0) : k.getLsbD 0 = false := by
  rw [BitVec.getLsbD, Nat.testBit_zero]
  exact decide_eq_false (by omega)

/-- Settles O8: the forms are those of R230, and an even block passes the check of dp8.f4.sc. -/
theorem dotProducts : Obligations.DotProducts := by
  unfold Obligations.DotProducts
  exact ⟨opDot_runs fun _ _ _ _ _ => rfl, opDot_runs fun _ _ _ _ _ => rfl, opDot_runs fun _ _ _ _ _ => rfl,
    opDot_runs fun _ _ _ _ _ => rfl, opDot_runs fun _ _ _ _ _ => rfl, opDot_runs fun _ _ _ _ _ => rfl,
    opDot_runs fun _ _ _ _ _ => rfl, opDot_runs fun _ _ _ _ _ => rfl, opDot_runs fun _ _ _ _ _ => rfl,
    fun sw k d a b => opDotScaled_runs (i := .dp4F8aSc sw k d a b) (fun _ => rfl) rfl,
    fun sw k d a b => opDotScaled_runs (i := .dp4F8bSc sw k d a b) (fun _ => rfl) rfl,
    fun sw k d a b hk => opDotScaled_runs (i := .dp8F4Sc sw k d a b) (fun _ => rfl) (getLsbD_zero_of_even hk)⟩

/-! ## Predicates (R57, R145, R191) -/

theorem predGet_seven (p : BitVec 7) : predGet p 7 = true := rfl

theorem predGet_of_lt {i : Nat} (h : i < 7) (p : BitVec 7) : predGet p i = p.getLsbD i :=
  if_neg (by omega)

theorem getLsbD_bit {i j : Nat} (hj : j < 7) : (BitVec.ofNat 7 (2 ^ i)).getLsbD j = decide (i = j) := by
  rw [BitVec.getLsbD_ofNat, decide_eq_true hj, Bool.true_and, Nat.testBit_two_pow]

theorem getLsbD_predSet {i j : Nat} (hi : i < 7) (hj : j < 7) (p : BitVec 7) (v : Bool) :
    (predSet p i v).getLsbD j = if i = j then v else p.getLsbD j := by
  rw [predSet, if_neg (by omega)]
  cases v
  · rw [if_neg Bool.false_ne_true, BitVec.getLsbD_and, BitVec.getLsbD_not, getLsbD_bit hj, decide_eq_true hj, Bool.true_and]
    by_cases h : i = j <;> simp [h]
  · rw [if_pos rfl, BitVec.getLsbD_or, getLsbD_bit hj]
    by_cases h : i = j <;> simp [h]

theorem predGet_predSet {i j : Nat} (hi : i < 8) (hj : j < 8) (p : BitVec 7) (v : Bool) :
    predGet (predSet p i v) j = if j = 7 then true else if i = j then v else predGet p j := by
  by_cases h7 : j = 7
  · rw [if_pos h7, h7, predGet_seven]
  · have hj' : j < 7 := by omega
    rw [if_neg h7, predGet_of_lt hj', predGet_of_lt hj']
    by_cases hi' : i < 7
    · exact getLsbD_predSet hi' hj' p v
    · rw [predSet, if_pos (by omega), if_neg (by omega)]

theorem predField_eq (p : BitVec 7) (f : BitVec 4) : predField p f = (predGet p (f.toNat % 8) != decide (f.toNat ≥ 8)) := by
  have hn : f.getLsbD 3 = decide (f.toNat ≥ 8) := by
    rw [BitVec.getLsbD, Nat.testBit_eq_decide_div_mod_eq]
    exact decide_eq_decide.mpr (by have := f.isLt; omega)
  have hi : (f.extractLsb' 0 3).toNat = f.toNat % 8 := by
    rw [BitVec.extractLsb'_toNat, Nat.shiftRight_zero]
  rw [predField, condOf, hn, hi]

/-- The word that p2r writes has the predicates p0 to p7 in its bits. -/
theorem getLsbD_packedPreds (p : BitVec 7) (i : Nat) (h : i < 32) :
    (BitVec.ofNat 32 (128 + p.toNat)).getLsbD i = (decide (i < 8) && predGet p i) := by
  rw [BitVec.getLsbD_ofNat, decide_eq_true h, Bool.true_and]
  rcases Nat.lt_trichotomy i 7 with hi | rfl | hi
  · rw [predGet_of_lt hi, decide_eq_true (by omega), Bool.true_and]
    exact Nat.testBit_two_pow_add_gt (i := 7) hi p.toNat
  · have h7 := Nat.testBit_two_pow_add_eq p.toNat 7
    rw [Nat.testBit_lt_two_pow p.isLt] at h7
    exact h7
  · have hp := p.isLt
    have hpow : 2 ^ 8 ≤ 2 ^ i := Nat.pow_le_pow_right (by decide) hi
    rw [decide_eq_false (by omega), Bool.false_and]
    exact Nat.testBit_lt_two_pow (by omega)

theorem predGet_extractLsb' (v : Word) (i : Nat) (h : i < 7) : predGet (v.extractLsb' 0 7) i = v.getLsbD i := by
  rw [predGet_of_lt h, BitVec.getLsbD_extractLsb', decide_eq_true h, Bool.true_and, Nat.zero_add]

theorem opPred_runs {f : Bool → Bool → Bool} {i : Instr} {w : Word} {sw : Bool} {d : BitVec 3} {a b : BitVec 4}
    (h : ∀ s, exec i s = opPred w f sw d a b s) : RunsThreads i sw [] fun _ t =>
      { t with preds := predSet t.preds d.toNat (f (predField t.preds a) (predField t.preds b)) } :=
  execPure_runs h rfl fun _ _ => ⟨rfl, rfl⟩

theorem opQpred_runs {f : Bool → Bool → Bool} {i : Instr} {w : Word} {sw : Bool} {d : BitVec 3} {a b : BitVec 4}
    (h : ∀ s, exec i s = opQpred w f sw d a b s) :
    RunsCrew i sw [d.toNat, (a.extractLsb' 0 3).toNat, (b.extractLsb' 0 3).toNat] [] fun c =>
      ({ c with qpreds := predSet c.qpreds d.toNat (f (predField c.qpreds a) (predField c.qpreds b)) }, 0) :=
  execCrew_runs h rfl fun _ => ⟨rfl, rfl⟩

theorem qmov_runs (sw : Bool) (d : BitVec 3) (a : BitVec 4) :
    RunsCrew (.qmov sw d a) sw [d.toNat, (a.extractLsb' 0 3).toNat] [] fun c =>
      ({ c with qpreds := predSet c.qpreds d.toNat (predField c.qpreds a) }, 0) := by
  have h : ∀ s, exec (.qmov sw d a) s = execQmov sw d a s := fun _ => rfl
  exact execCrew_runs h rfl fun _ => ⟨rfl, rfl⟩

theorem p2r_runs (sw : Bool) (d : BitVec 7) :
    RunsThreads (.p2r sw d) sw [dX d 1] fun _ t => t.putX d.toNat (BitVec.ofNat 32 (128 + t.preds.toNat)) := by
  have h : ∀ s, exec (.p2r sw d) s = execP2r sw d s := fun _ => rfl
  exact execPure_runs h rfl fun _ _ => ⟨rfl, rfl⟩

theorem regToPred_runs (sw : Bool) (a : BitVec 7) :
    RunsThreads (.regToPred sw a) sw [aX a 1] fun _ t => { t with preds := (t.x a.toNat).extractLsb' 0 7 } := by
  have h : ∀ s, exec (.regToPred sw a) s = execRegToPred sw a s := fun _ => rfl
  exact execPure_runs h rfl fun _ _ => ⟨rfl, rfl⟩

/-- Settles O9: the forms of R191, with 128 plus the predicates as the word of p2r. -/
theorem predicateLogic : Obligations.PredicateLogic := by
  unfold Obligations.PredicateLogic
  exact ⟨⟨fun _ _ _ _ => opPred_runs fun _ => rfl, fun _ _ _ _ => opQpred_runs fun _ => rfl⟩,
    ⟨fun _ _ _ _ => opPred_runs fun _ => rfl, fun _ _ _ _ => opQpred_runs fun _ => rfl⟩,
    ⟨fun _ _ _ _ => opPred_runs fun _ => rfl, fun _ _ _ _ => opQpred_runs fun _ => rfl⟩,
    fun sw d a => opPred_runs (f := fun x _ => x) (b := 7) fun _ => rfl, qmov_runs,
    ⟨_, getLsbD_packedPreds, p2r_runs⟩, ⟨_, predGet_extractLsb', regToPred_runs⟩,
    fun p i j v hi hj => predGet_predSet hi hj p v, predGet_seven, predField_eq⟩

/-! ## Control transfers (R192, R193, R196, R198) -/

/-- The target counts from the branch, whose address is four below the PC that follows it. -/
theorem brTarget_sub_four (next : Word) (o : BitVec 21) :
    brTarget (next - 4) o = BitVec.ofInt 32 ((next.toNat : Int) - 4 + 4 * o.toInt) := by
  have h4 : BitVec.ofInt 32 4 = (4 : Word) := rfl
  rw [brTarget, signExtend_eq_ofInt (by decide), Int.sub_eq_add_neg, BitVec.ofInt_add, BitVec.ofInt_add, BitVec.ofInt_mul,
    BitVec.ofInt_neg, BitVec.ofInt_natCast, ofNat_toNat_self, h4, BitVec.sub_eq_add_neg, BitVec.mul_comm]

theorem wordTrap_unguarded {e : Env} {f : Form} {c : Crew} {t : Thread} (hg : e.guard = none)
    (h : { f with guardable := true }.plain = true) (hops : f.ops = []) : wordTrap e f c t = none := by
  have hw := wordTrap_plain (e := e) (c := c) (t := t) h (.inr (by rw [hops]; rfl))
  unfold wordTrap at hw ⊢
  simp only [hg, Option.isSome_none, Bool.false_and, Bool.false_eq_true, if_false] at hw ⊢
  exact hw

theorem bra_runs (sw n : Bool) (c : BitVec 3) (o : BitVec 21) : RunsUnguarded (.bra sw n c o) sw [] fun _ t =>
    if predGet t.preds c.toNat != n then
      { t with pc := BitVec.ofInt 32 ((t.pc.toNat : Int) - 4 + 4 * o.toInt) } else t := by
  simp only [← brTarget_sub_four]
  have h : ∀ s, exec (.bra sw n c o) s = execBra sw n c o s := fun _ => rfl
  refine execThreads_runs h rfl (fun s k t hr => wordTrap_unguarded hr.1 rfl rfl) (fun s k t hr => hr.2.2.1)
    (fun s k t hr hg => ⟨opCheck_ready rfl rfl (hr.2.2.2 hg), rfl⟩) fun _ t => ?_
  split <;> exact ⟨rfl, rfl⟩

theorem call_runs (sw n : Bool) (c : BitVec 3) (o : BitVec 21) : RunsWhen (.call sw n c o)
    (fun s k t => s.iss.guard = none ∧ (sw = true → pendClear k t none = true) ∧
      ((predGet t.preds c.toNat != n) = true → OperandsReady k t sw [implX 1 1]))
    fun _ t => if predGet t.preds c.toNat != n then
      { t.putX 1 t.pc with pc := BitVec.ofInt 32 ((t.pc.toNat : Int) - 4 + 4 * o.toInt) } else t := by
  simp only [← brTarget_sub_four]
  have h : ∀ s, exec (.call sw n c o) s = execCall sw n c o s := fun _ => rfl
  refine execThreads_runs h rfl (fun s k t hr => wordTrap_unguarded hr.1 rfl rfl) (fun s k t hr => hr.2.1)
    (fun s k t hr _ => ⟨?nothing, ?body⟩) fun _ t => ?_
  case nothing =>
    unfold opCheck
    cases sw
    · rfl
    · rfl
  case body =>
    dsimp only [condOf]
    by_cases hc : (predGet t.preds c.toNat != n) = true
    · have hready := hr.2.2 hc
      have hop : opCheck ⟨k.uid, encBR sw 30#6 (BitVec.ofBool n ++ c) o, s.iss.guard, k.region⟩
          { word := encBR sw 30#6 (BitVec.ofBool n ++ c) o, sw := sw, ops := [implX 1 1] } k t = none :=
        opCheck_ready rfl rfl hready
      have hop' : opCheck ⟨k.uid, encBR sw 30#6 (BitVec.ofBool n ++ c) o, s.iss.guard, k.region⟩
          { word := encBR sw 30#6 (BitVec.ofBool n ++ c) o, sw := sw, ops := [implX 1 1] } k
          { t with pc := nextPc s t } = none := hop
      simp only [hc, if_true, hop']
    · simp only [hc, Bool.false_eq_true, if_false]
  split <;> exact ⟨rfl, rfl⟩

theorem jr_runs (sw : Bool) (a : BitVec 7) : RunsThreads (.jr sw a) sw [aX a 1] fun _ t => { t with pc := t.x a.toNat } := by
  have h : ∀ s, exec (.jr sw a) s = execJr sw a s := fun _ => rfl
  exact execPure_runs h rfl fun _ _ => ⟨rfl, rfl⟩

theorem callr_runs (sw : Bool) (a : BitVec 7) :
    RunsThreads (.callr sw a) sw [aX a 1, implX 1 1] fun _ t => { t.putX 1 t.pc with pc := t.x a.toNat } := by
  have h : ∀ s, exec (.callr sw a) s = execCallr sw a s := fun _ => rfl
  exact execPure_runs h rfl fun _ _ => ⟨rfl, rfl⟩

theorem nop_runs (sw : Bool) : RunsThreads (.nop sw) sw [] fun _ t => t := by
  have h : ∀ s, exec (.nop sw) s = execNop sw s := fun _ => rfl
  exact execPure_runs h rfl fun _ _ => ⟨rfl, rfl⟩

theorem winb_runs (sw : Bool) (n : BitVec 4) : RunsWhen (.winb sw n)
    (fun s c t => (sw = true → pendClear c t none = true) ∧ (guardHolds s t = true → 16 * n.toNat + 16 ≤ c.nregs))
    fun _ t => { t with wb := 16 * n.toNat } := by
  have h : ∀ s, exec (.winb sw n) s = execWinb sw n s := fun _ => rfl
  refine execThreads_runs h rfl (fun s c t _ => wordTrap_plain rfl (.inr rfl)) (fun s c t hr => hr.1)
    (fun s c t hr hg => ⟨?nothing, ?body⟩) fun _ _ => ⟨rfl, rfl⟩
  case nothing =>
    unfold opCheck
    cases sw
    · rfl
    · rfl
  case body => exact if_neg (by have := hr.2 hg; omega)

/-- Settles O10: a transfer is one of the six forms. -/
theorem controlTransfers : Obligations.ControlTransfers := by
  unfold Obligations.ControlTransfers
  exact ⟨bra_runs, call_runs, jr_runs, callr_runs, nop_runs, winb_runs⟩

end Sys2Proof.Machine
end

section
/-! Values that the model evaluates to: words from their encodings, and the device and a world at their reset. The statements
DecodedWords and ResetValues. -/

namespace Sys2Proof.Machine

/-- Settles O55: the decoder evaluated at each word. -/
theorem decodedWords : Obligations.DecodedWords := by
  unfold Obligations.DecodedWords
  exact ⟨rfl, rfl, rfl, rfl, rfl, rfl, rfl, rfl, rfl, rfl, rfl, rfl, rfl, rfl, rfl, rfl, rfl⟩

/-- The device at its reset, with one world just created. -/
def resetWithWorld : State := { State.reset with worlds := [World.init 1] }

theorem reset_device : State.reset.crews = [] ∧ State.reset.units = [] ∧ State.reset.worlds = [] ∧ State.reset.launches = [] ∧
    State.reset.plat.bootStep = 0 ∧ State.reset.plat.portsUp = [0, 1, 2, 3, 4, 5, 6, 7] ∧ State.reset.plat.pstate = 0 ∧
    State.reset.memoriesOk = true ∧ ∀ pa, readB State.reset.mem pa = 0 :=
  ⟨rfl, rfl, rfl, rfl, rfl, rfl, rfl, rfl, fun _ => rfl⟩

theorem reset_kick : (∀ off ∈ [0x00, 0x04, 0x0C, 0x10, 0x14, 0x18], resetWithWorld.regRead (.kick 1 0) off none = 0) ∧
    resetWithWorld.regRead (.kick 1 0) 0x08 none = 4 := by decide

theorem reset_control : (∀ off ∈ [0x00, 0x04, 0x0C, 0x10, 0x14], resetWithWorld.regRead (.control 1) off none = 0) ∧
    resetWithWorld.regRead (.control 1) 0x08 none = 4 ∧ resetWithWorld.regRead (.control 1) 0x20 none = 1 ∧
    resetWithWorld.regRead (.control 1) 0x28 none = 1 := by decide

theorem reset_np : (∀ off ∈ [0x00, 0x04, 0x0C, 0x10, 0x14], resetWithWorld.regRead (.np 1) off none = 0) ∧
    resetWithWorld.regRead (.np 1) 0x08 none = 4 ∧ resetWithWorld.regRead (.np 1) 0x18 none = 1 := by decide

theorem reset_fabric : resetWithWorld.regRead (.fabric 1) 0x4C none = 60000 := by decide

theorem reset_ring : (∀ off ∈ [0x00, 0x04, 0x0C, 0x10], resetWithWorld.regRead (.ring 1 0) off none = 0) ∧
    resetWithWorld.regRead (.ring 1 0) 0x08 none = 4 := by decide

theorem reset_dbgPage : resetWithWorld.regRead (.debug 1) 0x08 none = 3 ∧
    resetWithWorld.regRead (.debug 1) 0x88 none = 4 := by decide

theorem reset_trans : ∀ off ∈ [0x00, 0x04, 0x10, 0x14, 0x18, 0x20, 0x24, 0x28],
    resetWithWorld.regRead (.trans 1) off none = 0 := by decide

/-- Settles O54: the device's part is what reset holds, and each page evaluates to its table. -/
theorem resetValues : Obligations.ResetValues := by
  unfold Obligations.ResetValues
  obtain ⟨hc, hc4, hc20, hc28⟩ := reset_control
  obtain ⟨hn, hn4, hn18⟩ := reset_np
  exact ⟨reset_device, reset_kick.1, reset_kick.2, hc, hc4, hc20, hc28, hn, hn4, hn18, reset_fabric, reset_ring.1,
    reset_ring.2, reset_dbgPage.1, reset_dbgPage.2, reset_trans⟩

end Sys2Proof.Machine
end

section
/-! What a step takes and runs (R23, R51, R147 to R149, R439): the statement StepRunsDecoded. -/

namespace Sys2Proof.Machine

/-! ## The issue of a set -/

section
variable {s : State} {uid k0 : Nat} {guard : Option (BitVec 4)} {c : Crew} {t : Thread} {w : Word}

/-- The state in which a set issues: its crew's step has begun, and the set is the issuing one. -/
def State.issuing (s : State) (uid k0 : Nat) (guard : Option (BitVec 4)) (w : Option Word) : State :=
  { (s.onCrew uid fun c => { c with halt := s.beginStep c k0 w }) with iss := ⟨uid, k0, guard⟩ }

/-- The word that a set issues: the one at its PC, or the one after its guard. -/
def State.issueWord (s : State) (guard : Option (BitVec 4)) (c : Crew) (t : Thread) : Option Word :=
  s.fetchWord (s.imageOf c t) (t.pc.toNat + if guard.isSome then 4 else 0)

theorem planSet_unfetched (hc : s.crew uid = some c) (ht : c.threads.find? (sel k0) = some t)
    (hw : s.issueWord guard c t = none) :
    s.planSet uid k0 guard = .ill ((s.issuing uid k0 guard none).illSet uid k0 (illTrap guard 0 .fetch)) := by
  unfold State.issueWord at hw
  simp only [State.planSet, hc, ht, hw]
  rfl

theorem planSet_throttled (hc : s.crew uid = some c) (ht : c.threads.find? (sel k0) = some t)
    (hw : s.issueWord guard c t = some w) (hthr : (s.throttled.contains c.uid && throttledWord w) = true) :
    s.planSet uid k0 guard = .ill { s.issuing uid k0 guard (some w) with iss := ⟨0, 0, none⟩ } := by
  unfold State.issueWord at hw
  simp only [State.planSet, hc, ht, hw, State.onCrew_throttled, hthr, if_true]
  rfl

theorem planSet_decoded {i : Instr} (hc : s.crew uid = some c) (ht : c.threads.find? (sel k0) = some t)
    (hw : s.issueWord guard c t = some w) (hthr : (s.throttled.contains c.uid && throttledWord w) = false)
    (hi : decodeWord w = .ok i) : s.planSet uid k0 guard = .run (s.issuing uid k0 guard (some w)) i := by
  unfold State.issueWord at hw
  simp only [State.planSet, hc, ht, hw, State.onCrew_throttled, hthr, Bool.false_eq_true, if_false, hi]
  rfl

/-- A word that guards nothing and does not decode raises ILL with the word in its record, unless an operand is at fault. -/
theorem planSet_refused {r : IllReason} {tr : Trap} (hc : s.crew uid = some c) (ht : c.threads.find? (sel k0) = some t)
    (hw : s.issueWord guard c t = some w) (hthr : (s.throttled.contains c.uid && throttledWord w) = false)
    (hi : decodeWord w = .error r) (hr : r ≠ .operand) (hp : w.extractLsb' 25 6 ≠ 62#6)
    (htr : illTrap guard w r = tr) : s.planSet uid k0 guard = .ill ((s.issuing uid k0 guard (some w)).illSet uid k0 tr) := by
  subst htr
  unfold State.issueWord at hw
  have hpre : (guard.isNone && w.extractLsb' 25 6 == 62#6) = false := by
    rw [beq_eq_false_iff_ne.mpr hp, Bool.and_false]
  simp only [State.planSet, hc, ht, hw, State.onCrew_throttled, hthr, Bool.false_eq_true, if_false, hi, hr, hpre]
  rfl

end

/-! ## The schedule apart -/

/-- The machine with another schedule. -/
def State.scheduled (s : State) (l : List Nat) : State := { s with sched := l }

theorem walkFrom_scheduled (s : State) (l : List Nat) (w : World) (va free : Nat) (lvls : List Nat) (tab : Nat) :
    (s.scheduled l).walkFrom w va free lvls tab = s.walkFrom w va free lvls tab := by
  induction lvls generalizing tab with
  | nil => rfl
  | cons lvl rest ih =>
    unfold State.walkFrom
    simp only [ih]
    rfl

theorem translate_scheduled (s : State) (l : List Nat) (wn core va : Nat) :
    ((s.scheduled l).translate wn core va).2 = (s.translate wn core va).2 := by
  have htorn : (s.scheduled l).someTorn = s.someTorn := rfl
  have hworld : (s.scheduled l).world wn = s.world wn := rfl
  have hfree : (s.scheduled l).free = (s.free.1, s.free.2.scheduled l) := rfl
  have hctr : (s.scheduled l).freeCtr = s.freeCtr := rfl
  unfold State.translate
  rw [htorn, hworld, hfree, hctr]
  split
  · rfl
  · split
    · rfl
    · dsimp only
      split
      · rfl
      · cases s.someTorn
        · simp only [Bool.false_eq_true, if_false, walkFrom_scheduled]
          split <;> rfl
        · simp only [if_true, walkFrom_scheduled]
          split <;> rfl

theorem statePages_scheduled (s : State) (l : List Nat) (r : Roost) : (s.scheduled l).statePages r = s.statePages r := by
  unfold State.statePages
  simp only [translate_scheduled]

theorem itemNames_scheduled (s : State) (l : List Nat) (id page : Nat) :
    (s.scheduled l).itemNames id page = s.itemNames id page := by
  have hworld : ∀ w, (s.scheduled l).world w = s.world w := fun _ => rfl
  have hroost : (s.scheduled l).roostOf id = s.roostOf id := rfl
  have hseq : (s.scheduled l).seq id = s.seq id := rfl
  unfold State.itemNames
  simp only [statePages_scheduled, hworld, hroost, hseq]

theorem frameTurn_scheduled (s : State) (l : List Nat) (e : Event) : (s.scheduled l).frameTurn e = s.frameTurn e := by
  have hroost : ∀ id, (s.scheduled l).roostFrames id = s.roostFrames id := by
    intro id
    have hitem : (s.scheduled l).itemNames id = s.itemNames id := funext (itemNames_scheduled s l id)
    unfold State.roostFrames
    rw [hitem]
    rfl
  unfold State.frameTurn
  simp only [hroost]
  rfl

/-- The schedule has no part in which of the events of one frame goes first. -/
theorem turn_scheduled (s : State) (l : List Nat) (k : Nat) : (s.scheduled l).turn k = s.turn k := by
  have hagenda : (s.scheduled l).agenda = s.agenda := rfl
  have hstopped : (s.scheduled l).stopped = s.stopped := rfl
  have hturn : (s.scheduled l).frameTurn = s.frameTurn := funext (frameTurn_scheduled s l)
  have hfirst : (s.scheduled l).goesFirst = s.goesFirst := by
    funext e e'
    unfold State.goesFirst
    rw [hturn]
  unfold State.turn
  rw [hagenda, hstopped, hturn, hfirst]

/-! ## The moves -/

theorem step_of_plan_ill {s t : State} (h : s.plan = .ill t) : step s = .next t := by
  rw [step, h]

theorem step_of_plan_run {s t : State} {i : Instr} (h : s.plan = .run t i) : step s = exec i t := by
  rw [step, h]

/-- The move that the schedule picks. -/
def State.picked (s : State) : Option Move := s.moves[s.sched.headD 0 % s.moves.length]?

/-- No set is held behind its guard. -/
def State.Free (s : State) : Prop := s.plat.pstate = 3 ∨ s.iss.guard = none

theorem State.Free.guard {s : State} (h : s.Free) : (if s.plat.pstate = 3 then none else s.iss.guard) = none := by
  rcases h with h | h
  · rw [if_pos h]
  · rw [h, ite_self]

section
variable {s : State} (hf : s.Free)
include hf

theorem plan_idle (h : s.picked = none) : s.plan = .idle := by
  unfold State.picked at h
  unfold State.plan
  simp only [hf.guard, h]

theorem plan_agenda {k : Nat} {e : Event} (h : s.picked = some (.agenda k)) (he : s.agenda[s.turn k]? = some e) :
    s.plan = .run { s with sched := s.sched.tail, agenda := s.agenda.eraseIdx (s.turn k) } e.instr := by
  have hturn : State.turn { s with sched := s.sched.tail } k = s.turn k := turn_scheduled s _ k
  unfold State.picked at h
  unfold State.plan
  simp only [hf.guard, h, hturn, he]

theorem plan_bin {q : Nat} (h : s.picked = some (.bin q)) :
    s.plan = .run { s with sched := s.sched.tail } (.binRelease q) := by
  unfold State.picked at h
  unfold State.plan
  simp only [hf.guard, h]

theorem plan_chiplet (h : s.picked = some .chiplet) : s.plan = .ill (State.rvPerform { s with sched := s.sched.tail }) := by
  unfold State.picked at h
  unfold State.plan
  simp only [hf.guard, h]

theorem plan_set {uid k : Nat} (h : s.picked = some (.set uid k)) :
    s.plan = State.planSet { s with sched := s.sched.tail } uid k none := by
  unfold State.picked at h
  unfold State.plan
  simp only [hf.guard, h]

theorem step_idle (h : s.picked = none) : step s = .next { s with sched := s.sched.tail } := by
  rw [step, plan_idle hf h]

end

/-- In P3 the moves are the events that the compute dies have no part in, and the chiplet's. -/
theorem moves_stopped {s : State} (h : s.plat.pstate = 3) {m : Move} (hm : m ∈ s.moves) :
    m = .chiplet ∨ ∃ k, m = .agenda k ∧ (s.agenda[k]?).any s.stopped = false := by
  unfold State.moves at hm
  rw [if_pos h, List.append_nil, List.mem_append] at hm
  rcases hm with hm | hm
  · obtain ⟨k, hk, rfl⟩ := List.mem_map.mp hm
    have hk := (List.mem_filter.mp hk).2
    exact .inr ⟨k, rfl, by simpa using hk⟩
  · split at hm
    · cases hm
    · exact .inl (List.mem_singleton.mp hm)

theorem picked_stopped {s : State} (h : s.plat.pstate = 3) : (∀ uid k, s.picked ≠ some (.set uid k)) ∧
    (∀ q, s.picked ≠ some (.bin q)) ∧ ∀ k e, s.picked = some (.agenda k) → s.agenda[k]? = some e → e.onDies = false := by
  have hmem : ∀ m, s.picked = some m → m ∈ s.moves := fun _ hm => List.mem_of_getElem? hm
  refine ⟨fun uid k hm => ?_, fun q hm => ?_, fun k e hm he => ?_⟩
  · rcases moves_stopped h (hmem _ hm) with hx | ⟨_, hx, -⟩ <;> cases hx
  · rcases moves_stopped h (hmem _ hm) with hx | ⟨_, hx, -⟩ <;> cases hx
  · rcases moves_stopped h (hmem _ hm) with hx | ⟨_, hx, hs⟩
    · cases hx
    · cases hx
      rw [he, Option.any_some, State.stopped, h] at hs
      simpa using hs

/-! ## The fetch -/

theorem ofNat_leNat_four (b0 b1 b2 b3 : Byte) : BitVec.ofNat 32 (leNat [b0, b1, b2, b3]) = wordOfBytes b0 b1 b2 b3 := by
  apply BitVec.eq_of_toNat_eq
  have h0 := b0.isLt
  have h1 := b1.isLt
  have h2 := b2.isLt
  have h3 := b3.isLt
  have hx (n k m : Nat) (h : m < 2 ^ k) : n <<< k ||| m = n * 2 ^ k + m := by
    rw [← Nat.shiftLeft_add_eq_or_of_lt h, Nat.shiftLeft_eq]
  simp only [wordOfBytes, BitVec.toNat_append, BitVec.toNat_ofNat, leNat, hx _ 8 _ h0, hx _ 8 _ h1, hx _ 8 _ h2]
  omega

theorem fetchWord_eq {s : State} {im : Image} {pc pa : Nat} (h4 : pc % 4 = 0) (hlen : pc + 4 ≤ im.len)
    (hpa : im.pages[pc / 4096]? = some pa) :
    s.fetchWord im pc = some (wordOfBytes (readB s.mem (pa + pc % 4096)) (readB s.mem (pa + pc % 4096 + 1))
      (readB s.mem (pa + pc % 4096 + 2)) (readB s.mem (pa + pc % 4096 + 3))) := by
  have hin : (decide (pc % 4 ≠ 0) || decide (pc + 4 > im.len)) = false := by
    rw [decide_eq_false (by omega), decide_eq_false (by omega)]
    rfl
  rw [State.fetchWord, hin, if_neg Bool.false_ne_true, hpa, Option.map_some, ← ofNat_leNat_four]
  rfl

/-! ## The statement -/

/-- A set behind its guard issues the word after it. -/
theorem step_guarded {s : State} {g : BitVec 4} {c : Crew} {t : Thread} (hp : s.plat.pstate ≠ 3) (hg : s.iss.guard = some g)
    (hc : s.crew s.iss.crew = some c) (ht : c.threads.find? (sel s.iss.set) = some t) {w : Word} {i : Instr}
    (hw : s.fetchWord (s.imageOf c t) (t.pc.toNat + 4) = some w)
    (hthr : (s.throttled.contains c.uid && throttledWord w) = false) (hi : decodeWord w = .ok i) :
    step s = exec i (s.onCrew c.uid fun x => { x with halt := s.beginStep x s.iss.set (some w) }) := by
  have huid : c.uid = s.iss.crew := by simpa using List.find?_some hc
  have hiss : s.iss = ⟨s.iss.crew, s.iss.set, some g⟩ := by rw [← hg]
  have hplan : s.plan = s.planSet s.iss.crew s.iss.set (some g) := by
    unfold State.plan
    rw [if_neg hp, hg]
  rw [step_of_plan_run (hplan.trans (planSet_decoded (guard := some g) hc ht hw hthr hi)), huid, State.issuing, ← hiss]
  rfl

/-- Settles O56: the plan is taken apart by the move that is picked, and a picked set by its word. -/
theorem stepRunsDecoded : Obligations.StepRunsDecoded := by
  unfold Obligations.StepRunsDecoded
  refine ⟨fun s g c t hp hg hc ht w i hw hthr hi => step_guarded hp hg hc ht hw hthr hi, fun s hf => ?_,
    fun s im pc h4 hlen pa hpa => fetchWord_eq h4 hlen hpa⟩
  refine ⟨step_idle hf, fun k e hm he => step_of_plan_run (plan_agenda hf hm he), picked_stopped,
    fun q hm => step_of_plan_run (plan_bin hf hm), fun hm => step_of_plan_ill (plan_chiplet hf hm),
    fun uid k c t hm hc ht => ⟨fun hw => ?_, fun w hw => ⟨fun h1 h2 => ?_, fun hthr => ⟨fun i hi => ?_, fun h62 => ⟨?_, ?_⟩⟩⟩⟩⟩
  · rw [hw]
    exact step_of_plan_ill ((plan_set hf hm).trans (planSet_unfetched hc ht hw))
  · rw [hw]
    exact step_of_plan_ill ((plan_set hf hm).trans (planSet_throttled hc ht hw (by rw [h2, Bool.and_true]; exact h1)))
  · rw [hw]
    exact step_of_plan_run ((plan_set hf hm).trans (planSet_decoded hc ht hw hthr hi))
  · intro hi
    rw [hw]
    exact step_of_plan_ill ((plan_set hf hm).trans (planSet_refused hc ht hw hthr hi (by decide) h62 rfl))
  · intro hi
    rw [hw]
    exact step_of_plan_ill ((plan_set hf hm).trans (planSet_refused hc ht hw hthr hi (by decide) h62 rfl))

end Sys2Proof.Machine
end

section
/-!
# Every instruction and every step keeps memory canonical

One lemma per function of the model that gives a state: from a state whose physical memory is canonical it gives one whose
memory is canonical too. Each follows the branches of its function. The statement StepsKeepMemoryForm.
-/

namespace Sys2Proof.Machine

/-! ## The ways in which states are put together -/

/-- Physical memory is canonical in a state that is the first, or the second, of a pair. -/
theorem wf_fst {α : Type} {p : State × α} {t : State} {x : α} (hp : p = (t, x)) (h : Memory.wf p.1.mem = true) :
    Memory.wf t.mem = true := by
  rw [hp] at h
  exact h

theorem wf_snd {α : Type} {p : α × State} {t : State} {x : α} (hp : p = (x, t)) (h : Memory.wf p.2.mem = true) :
    Memory.wf t.mem = true := by
  rw [hp] at h
  exact h

/-- A value that the state is built from may be any. -/
theorem have_wf {α : Type} {a : α} {f : α → State} (h : ∀ a, Memory.wf (f a).mem = true) :
    Memory.wf (have x := a; f x).mem = true := h a

theorem foldl_wf {α : Type} {f : State → α → State} {l : List α} {s : State}
    (hf : ∀ s a, Memory.wf s.mem = true → Memory.wf (f s a).mem = true) (h : Memory.wf s.mem = true) :
    Memory.wf (l.foldl f s).mem = true := by
  induction l generalizing s with
  | nil => exact h
  | cons a l ih => exact ih (hf s a h)

theorem foldl_fst_wf {α β : Type} {f : State × β → α → State × β} {l : List α} {p : State × β}
    (hf : ∀ p a, Memory.wf p.1.mem = true → Memory.wf (f p a).1.mem = true) (h : Memory.wf p.1.mem = true) :
    Memory.wf (l.foldl f p).1.mem = true := by
  induction l generalizing p with
  | nil => exact h
  | cons a l ih => exact ih (hf p a h)

theorem foldl_snd_wf {α β : Type} {f : β × State → α → β × State} {l : List α} {p : β × State}
    (hf : ∀ p a, Memory.wf p.2.mem = true → Memory.wf (f p a).2.mem = true) (h : Memory.wf p.2.mem = true) :
    Memory.wf (l.foldl f p).2.mem = true := by
  induction l generalizing p with
  | nil => exact h
  | cons a l ih => exact ih (hf p a h)

theorem elim_wf {α : Type} {o : Option α} {d : State} {f : α → State} (hd : Memory.wf d.mem = true)
    (hf : ∀ a, Memory.wf (f a).mem = true) : Memory.wf (o.elim d f).mem = true := by
  cases o
  · exact hd
  · exact hf _

theorem getD_wf {o : Option State} {d : State} (hd : Memory.wf d.mem = true)
    (ho : ∀ t, o = some t → Memory.wf t.mem = true) : Memory.wf (o.getD d).mem = true := by
  cases o
  · exact hd
  · exact ho _ rfl

/-- If the outcome is a next state, physical memory is canonical in it. -/
def Canonical (o : Out) : Prop := ∀ t, o = .next t → Memory.wf t.mem = true

theorem canonical_next {s : State} (h : Memory.wf s.mem = true) : Canonical (.next s) := by
  intro t ht
  obtain rfl := Host.Outcome.next.inj ht
  exact h

theorem canonical_fault (f : Fault) : Canonical (.fault f) := by
  intro t ht
  cases ht

theorem canonical_refused (r : Refusal) : Canonical (.refused r) := by
  intro t ht
  cases ht


/-! ## Crews -/

theorem State.onCrew_wf {s : State} {uid : Nat} {f : Crew → Crew} (h : Memory.wf s.mem = true) :
    Memory.wf (State.onCrew s uid f).mem = true :=
  h

theorem State.onUnit_wf {s : State} {uid : Nat} {f : BUnit → BUnit} (h : Memory.wf s.mem = true) :
    Memory.wf (State.onUnit s uid f).mem = true :=
  h

theorem State.onLaunch_wf {s : State} {w : Nat} {hd : Word} {f : Launch → Launch} (h : Memory.wf s.mem = true) :
    Memory.wf (State.onLaunch s w hd f).mem = true :=
  h

theorem State.onGraph_wf {s : State} {w : Nat} {hd : Word} {f : Graph → Graph} (h : Memory.wf s.mem = true) :
    Memory.wf (State.onGraph s w hd f).mem = true :=
  h

theorem State.onWorld_wf {s : State} {w : Nat} {f : World → World} (h : Memory.wf s.mem = true) :
    Memory.wf (State.onWorld s w f).mem = true :=
  h

theorem State.onEntry_wf {s : State} {id : Nat} {f : Entry → Entry} (h : Memory.wf s.mem = true) :
    Memory.wf (State.onEntry s id f).mem = true :=
  h

theorem State.onQuarter_wf {s : State} {q : Nat} {f : Quarter → Quarter} (h : Memory.wf s.mem = true) :
    Memory.wf (State.onQuarter s q f).mem = true :=
  h

theorem State.onFrame_wf {s : State} {i : Nat} {f : Frame → Frame} (h : Memory.wf s.mem = true) :
    Memory.wf (State.onFrame s i f).mem = true :=
  h

theorem State.post_wf {s : State} {e : Event} (h : Memory.wf s.mem = true) : Memory.wf (State.post s e).mem = true :=
  h

theorem State.arm_wf {s : State} {e : Event} (h : Memory.wf s.mem = true) : Memory.wf (State.arm s e).mem = true := by
  unfold State.arm
  split
  · exact h
  · exact State.post_wf h

theorem State.disarm_wf {s : State} {p : Event → Bool} (h : Memory.wf s.mem = true) :
    Memory.wf (State.disarm s p).mem = true :=
  h

theorem State.send_wf {s : State} {m : Msg} (h : Memory.wf s.mem = true) : Memory.wf (State.send s m).mem = true :=
  h

theorem State.fresh_wf {s : State} (h : Memory.wf s.mem = true) : Memory.wf (State.fresh s).2.mem = true :=
  h

theorem State.free_wf {s : State} (h : Memory.wf s.mem = true) : Memory.wf (State.free s).2.mem = true :=
  h

theorem State.sampleTime_wf {s : State} (h : Memory.wf s.mem = true) : Memory.wf (State.sampleTime s).mem = true :=
  h

theorem State.onLane_wf {s : State} {uid lane : Nat} {f : Thread → Thread} (h : Memory.wf s.mem = true) :
    Memory.wf (State.onLane s uid lane f).mem = true :=
  h

/-! ## Memory -/

theorem State.storePA_wf {s : State} {pa : Nat} {l : List Byte} (h : Memory.wf s.mem = true) :
    Memory.wf (s.storePA pa l).mem = true :=
  Sys2Proof.Machine.storePA_wf pa l h

theorem State.poisonAt_wf {s : State} {pa granules : Nat} (h : Memory.wf s.mem = true) :
    Memory.wf (State.poisonAt s pa granules).mem = true :=
  h

theorem State.translate_wf {s : State} {wn core va : Nat} (h : Memory.wf s.mem = true) :
    Memory.wf (State.translate s wn core va).1.mem = true := by
  unfold State.translate
  split
  · exact h
  · split
    · exact h
    · dsimp only
      split
      · dsimp only
        split
        · exact h
        · exact State.onWorld_wf h
      · split
        · dsimp only
          split
          · split
            · exact State.free_wf h
            · exact h
          · refine State.onWorld_wf ?_
            split
            · exact State.free_wf h
            · exact h
        · dsimp only
          split
          · exact State.free_wf h
          · exact h
        · dsimp only
          refine State.onWorld_wf ?_
          split
          · exact State.free_wf h
          · exact h

theorem State.touchLeaf_wf {s : State} {wn : Nat} {l : Leaf} (h : Memory.wf s.mem = true) :
    Memory.wf (State.touchLeaf s wn l).mem = true := by
  unfold State.touchLeaf
  repeat' split
  all_goals exact h

theorem State.resolve_wf {s : State} {wn core : Nat} {k : AccKind} {va size : Nat} (h : Memory.wf s.mem = true) :
    Memory.wf (State.resolve s wn core k va size).1.mem = true := by
  unfold State.resolve
  split
  · exact h
  · split
    · exact h
    · split
      · exact wf_fst ‹_› (State.translate_wf h)
      · exact State.touchLeaf_wf (wf_fst ‹_› (State.translate_wf h))

theorem State.storeT_wf {s : State} {tt : Target} {l : List Byte} (h : Memory.wf s.mem = true) :
    Memory.wf (State.storeT s tt l).mem = true := by
  unfold State.storeT
  split
  · exact State.storePA_wf h
  · exact State.onCrew_wf h
  · exact State.onUnit_wf h
  · exact h

theorem State.wakeRange_wf {s : State} {p : Place} {len : Nat} (h : Memory.wf s.mem = true) :
    Memory.wf (State.wakeRange s p len).mem = true :=
  h

theorem State.record_wf {s : State} {a : Access} {tt : Target} {base : Place} {len : Nat} (h : Memory.wf s.mem = true) :
    Memory.wf (State.record s a tt base len).mem = true :=
  h

/-! ## Lines -/

theorem State.netStep_wf {s : State} {e : Event} (h : Memory.wf s.mem = true) :
    Memory.wf (State.netStep s e).mem = true := by
  unfold State.netStep
  split
  · exact State.arm_wf h
  · exact foldl_wf (fun s x h => State.arm_wf h) h

theorem State.useLines_wf {s : State} {a keep : Nat} {write : Bool} {addrs : List Nat} (h : Memory.wf s.mem = true) :
    Memory.wf (State.useLines s a keep write addrs).mem = true :=
  h

theorem State.useNp_wf {s : State} {write : Bool} {pa len : Nat} (h : Memory.wf s.mem = true) :
    Memory.wf (State.useNp s write pa len).mem = true :=
  h

theorem State.npStore_wf {s : State} {pa : Nat} {l : List Byte} (h : Memory.wf s.mem = true) :
    Memory.wf (State.npStore s pa l).mem = true := by
  unfold State.npStore
  exact State.storePA_wf (State.useNp_wf h)

theorem State.recallLines_wf {s : State} {pa : Nat} (h : Memory.wf s.mem = true) :
    Memory.wf (State.recallLines s pa).mem = true :=
  h

theorem State.l1Fill_wf {s : State} {core uid : Nat} {p : Place} (h : Memory.wf s.mem = true) :
    Memory.wf (State.l1Fill s core uid p).mem = true :=
  h

theorem State.throttle_wf {s : State} {core : Nat} (h : Memory.wf s.mem = true) :
    Memory.wf (State.throttle s core).mem = true := by
  unfold State.throttle
  exact foldl_wf (fun s x h => State.arm_wf h) h

theorem State.scoreRise_wf {s : State} {core uid : Nat} (h : Memory.wf s.mem = true) :
    Memory.wf (State.scoreRise s core uid).mem = true := by
  unfold State.scoreRise
  refine State.throttle_wf ?_
  exact h

theorem State.cached_wf {s : State} {core uid : Nat} {tt : Target} {write : Bool} (h : Memory.wf s.mem = true) :
    Memory.wf (State.cached s core uid tt write).mem = true := by
  unfold State.cached
  split
  · exact h
  · dsimp only
    refine State.l1Fill_wf ?_
    split
    · refine State.useLines_wf ?_
      split
      · exact State.scoreRise_wf h
      · exact h
    · split
      · exact State.scoreRise_wf h
      · exact h

/-! ## Stores -/

theorem State.spadWrite_wf {s : State} {uid m a : Nat} {l : List Byte} (h : Memory.wf s.mem = true) :
    Memory.wf (State.spadWrite s uid m a l).mem = true := by
  unfold State.spadWrite
  exact foldl_wf (fun s x h => State.wakeRange_wf h) (State.onUnit_wf h)

theorem State.performAt_wf {s : State} {tt : Target} {p : Place} {l : List Byte} (h : Memory.wf s.mem = true) :
    Memory.wf (State.performAt s tt p l).mem = true := by
  unfold State.performAt
  exact State.wakeRange_wf (State.storeT_wf h)

theorem State.noteWrite_wf {s : State} {p : Party} {launch : Nat × Word} {tt : Target} {q : Place} {len : Nat} (h :
    Memory.wf s.mem = true) :
    Memory.wf (State.noteWrite s p launch tt q len).mem = true :=
  h

theorem State.forget_wf {s : State} {q : Place} {len : Nat} (h : Memory.wf s.mem = true) :
    Memory.wf (State.forget s q len).mem = true := by
  unfold State.forget
  split <;> exact h

theorem State.storeLine_wf {s : State} {p : PStore} (h : Memory.wf s.mem = true) :
    Memory.wf (State.storeLine s p).mem = true := by
  unfold State.storeLine
  split
  · exact State.cached_wf h
  · exact h

theorem State.noteStore_wf {s : State} {p : PStore} {len : Nat} (h : Memory.wf s.mem = true) :
    Memory.wf (State.noteStore s p len).mem = true := by
  unfold State.noteStore
  split
  · exact State.noteWrite_wf h
  · exact h

theorem State.brings_wf {s : State} {id : Nat} {old : BitVec 64} (h : Memory.wf s.mem = true) :
    Memory.wf (State.brings s id old).mem = true :=
  h

theorem State.applyStore_wf {s : State} {p : PStore} (h : Memory.wf s.mem = true) :
    Memory.wf (State.applyStore s p).mem = true := by
  unfold State.applyStore
  dsimp only
  split
  · exact State.performAt_wf (State.noteStore_wf (State.storeLine_wf h))
  · exact foldl_wf (fun s x h => State.performAt_wf h) (State.storeLine_wf h)
  · exact State.performAt_wf (State.noteStore_wf (State.storeLine_wf h))
  · refine State.brings_wf ?_
    split
    · refine State.onLane_wf ?_
      split
      · exact State.storeLine_wf h
      · exact State.performAt_wf (State.noteStore_wf (State.storeLine_wf h))
    · split
      · exact State.storeLine_wf h
      · exact State.performAt_wf (State.noteStore_wf (State.storeLine_wf h))

theorem State.dropEnded_wf {s : State} {uid : Nat} (h : Memory.wf s.mem = true) :
    Memory.wf (State.dropEnded s uid).mem = true := by
  unfold State.dropEnded
  split <;> exact h

theorem State.performStores_wf {s : State} {p : PStore → Bool} (h : Memory.wf s.mem = true) :
    Memory.wf (State.performStores s p).mem = true := by
  unfold State.performStores
  exact foldl_wf (fun s x h => State.dropEnded_wf h) (foldl_wf (fun s x h => State.applyStore_wf h) h)

theorem State.accept_wf {s : State} {uid lane tag : Nat} {tt : Target} {p : Place} {op : StoreOp} {half : Bool} {region
    : Option Nat} {own : Bool} (h : Memory.wf s.mem = true) :
    Memory.wf (State.accept s uid lane tag tt p op half region own).mem = true :=
  h

theorem State.landRows_wf {s : State} {p : Landing → Bool} (h : Memory.wf s.mem = true) :
    Memory.wf (State.landRows s p).mem = true := by
  unfold State.landRows
  split
  · dsimp only
    refine foldl_wf (fun s x h => ?_) ?_
    · split
      · exact State.spadWrite_wf h
      · exact h
    · exact h
  · exact h

theorem State.releasedBy_wf {s : State} {p : Party} {scope : Nat} (h : Memory.wf s.mem = true) :
    Memory.wf (State.releasedBy s p scope).mem = true := by
  unfold State.releasedBy
  split <;> exact h

theorem State.acquiredBy_wf {s : State} {p : Party} {scope : Nat} (h : Memory.wf s.mem = true) :
    Memory.wf (State.acquiredBy s p scope).mem = true := by
  unfold State.acquiredBy
  split <;> exact h

theorem State.released_wf {s : State} {uid scope : Nat} (h : Memory.wf s.mem = true) :
    Memory.wf (State.released s uid scope).mem = true := by
  unfold State.released
  exact State.releasedBy_wf h

theorem State.acquired_wf {s : State} {uid scope : Nat} (h : Memory.wf s.mem = true) :
    Memory.wf (State.acquired s uid scope).mem = true := by
  unfold State.acquired
  exact State.acquiredBy_wf h

theorem State.readLate_wf {s : State} {p : Landing → Bool} (h : Memory.wf s.mem = true) :
    Memory.wf (State.readLate s p).mem = true := by
  unfold State.readLate
  split
  · exact foldl_wf (fun s x h => State.dropEnded_wf h) h
  · exact h

theorem State.finishHalves_wf {s : State} {uid lane : Nat} (h : Memory.wf s.mem = true) :
    Memory.wf (State.finishHalves s uid lane).mem = true := by
  unfold State.finishHalves
  dsimp only
  split
  · split
    · exact State.performStores_wf h
    · exact State.readLate_wf (State.performStores_wf h)
  · split
    · exact h
    · exact State.readLate_wf h

theorem State.drainLane_wf {s : State} {uid lane : Nat} (h : Memory.wf s.mem = true) :
    Memory.wf (State.drainLane s uid lane).mem = true := by
  unfold State.drainLane
  dsimp only
  refine State.landRows_wf ?_
  split
  · exact State.performStores_wf (State.finishHalves_wf h)
  · exact State.finishHalves_wf h

theorem State.drainFor_wf {s : State} {uid lane : Nat} {a : Place} {n : Nat} (h : Memory.wf s.mem = true) :
    Memory.wf (State.drainFor s uid lane a n).mem = true := by
  unfold State.drainFor
  dsimp only
  refine State.landRows_wf ?_
  split
  · exact State.performStores_wf h
  · exact h

theorem State.finishFrame_wf {s : State} {pa : Nat} (h : Memory.wf s.mem = true) :
    Memory.wf (State.finishFrame s pa).mem = true := by
  unfold State.finishFrame
  dsimp only
  refine State.readLate_wf ?_
  split
  · exact State.performStores_wf h
  · exact h

theorem State.syncOp_wf {s : State} {uid : Nat} (h : Memory.wf s.mem = true) :
    Memory.wf (State.syncOp s uid).mem = true := by
  unfold State.syncOp
  exact State.dropEnded_wf (State.onCrew_wf h)

theorem State.syncRel_wf {s : State} {uid scope : Nat} (h : Memory.wf s.mem = true) :
    Memory.wf (State.syncRel s uid scope).mem = true := by
  unfold State.syncRel
  exact State.syncOp_wf (State.released_wf h)

theorem State.settleOlder_wf {s : State} {p : Party} (h : Memory.wf s.mem = true) :
    Memory.wf (State.settleOlder s p).mem = true := by
  unfold State.settleOlder
  split <;> exact h

theorem State.settleLaunch_wf {s : State} {wn : Nat} {hd : Word} (h : Memory.wf s.mem = true) :
    Memory.wf (State.settleLaunch s wn hd).mem = true := by
  unfold State.settleLaunch
  split <;> exact h

theorem State.putSequence_wf {s : State} {q : Sequence} (h : Memory.wf s.mem = true) :
    Memory.wf (State.putSequence s q).mem = true := by
  unfold State.putSequence
  repeat' split
  all_goals exact h

theorem State.rvAct_wf {s : State} {o : RvOp} (h : Memory.wf s.mem = true) :
    Memory.wf (State.rvAct s o).mem = true := by
  unfold State.rvAct
  dsimp only
  split
  · exact State.acquiredBy_wf (State.releasedBy_wf h)
  · exact State.putSequence_wf h
  · split
    · exact h
    · split
      · split
        · split
          · exact wf_fst ‹_› (State.resolve_wf h)
          · split
            · refine State.send_wf ?_
              split
              · exact State.useLines_wf (wf_fst ‹_› (State.resolve_wf h))
              · exact State.free_wf (State.useLines_wf (wf_fst ‹_› (State.resolve_wf h)))
            · exact State.performAt_wf (State.noteWrite_wf (State.useLines_wf (wf_fst ‹_› (State.resolve_wf h))))
            · exact State.send_wf (State.performAt_wf (State.noteWrite_wf (State.useLines_wf (wf_fst ‹_›
                (State.resolve_wf h)))))
            · exact State.useLines_wf (wf_fst ‹_› (State.resolve_wf h))
            · exact State.useLines_wf (wf_fst ‹_› (State.resolve_wf h))
        · exact wf_fst ‹_› (State.resolve_wf h)
      · exact wf_fst ‹_› (State.resolve_wf h)

theorem State.rvPerform_wf {s : State} (h : Memory.wf s.mem = true) : Memory.wf (State.rvPerform s).mem = true := by
  unfold State.rvPerform
  split
  · refine State.rvAct_wf ?_
    exact h
  · split
    exact State.rvAct_wf (wf_snd ‹_› (State.free_wf h))

/-! ## Filing -/

theorem State.postSysc_wf {s : State} {wn req : Nat} {r : SyscReq} (h : Memory.wf s.mem = true) :
    Memory.wf (State.postSysc s wn req r).mem = true := by
  unfold State.postSysc
  split
  · exact h
  · split
    · exact h
    · dsimp only
      split
      · split
        · exact State.syncRel_wf (State.post_wf (State.onWorld_wf (State.onCrew_wf (foldl_wf (fun s x h =>
            State.drainLane_wf h) h))))
        · exact State.post_wf (State.onWorld_wf (State.onCrew_wf (foldl_wf (fun s x h => State.drainLane_wf h) h)))
      · split
        · split
          · exact State.syncRel_wf (State.post_wf (State.onWorld_wf (State.onCrew_wf (foldl_wf (fun s x h =>
              State.drainLane_wf h) h))))
          · exact State.post_wf (State.onWorld_wf (State.onCrew_wf (foldl_wf (fun s x h => State.drainLane_wf h) h)))
        · split
          · exact State.syncRel_wf (State.send_wf (State.onWorld_wf (State.onCrew_wf (foldl_wf (fun s x h =>
              State.drainLane_wf h) h))))
          · exact State.send_wf (State.onWorld_wf (State.onCrew_wf (foldl_wf (fun s x h => State.drainLane_wf h) h)))

theorem State.raiseSysc_wf {s : State} {uid svc : Nat} {next : Word} {lanes : List Nat} (h : Memory.wf s.mem = true) :
    Memory.wf (State.raiseSysc s uid svc next lanes).mem = true := by
  unfold State.raiseSysc
  dsimp only
  split
  · exact h
  · split
    · exact State.onWorld_wf (State.onCrew_wf (State.fresh_wf h))
    · exact State.postSysc_wf (State.onCrew_wf (State.fresh_wf h))

theorem State.dropRequests_wf {s : State} {wn : Nat} {p : SyscReq → Bool} (h : Memory.wf s.mem = true) :
    Memory.wf (State.dropRequests s wn p).mem = true := by
  unfold State.dropRequests
  split
  · exact State.arm_wf (State.onWorld_wf h)
  · exact h

theorem State.releaseBin_wf {s : State} {q : Nat} {b : Bin} (h : Memory.wf s.mem = true) :
    Memory.wf (State.releaseBin s q b).mem = true := by
  unfold State.releaseBin
  dsimp only
  split
  · exact State.onCrew_wf (State.onQuarter_wf h)
  · exact State.raiseSysc_wf (State.onQuarter_wf h)

theorem State.fileLanes_wf {s : State} {uid : Nat} {q : Nat} {pc : Word} {wb : Nat} {sysc : Option (Nat × Word)} {x1 : Nat} {x2 : List Nat} (h : Memory.wf s.mem = true) : Memory.wf (State.fileLanes s uid q pc wb sysc x1 x2).mem = true := by
  induction x1 generalizing s x2 with
  | zero =>
    exact h
  | succ n ih =>
    unfold State.fileLanes
    split
    · exact h
    · dsimp only
      split
      · apply ih
        exact State.onCrew_wf (State.onQuarter_wf h)
      · apply ih
        refine State.post_wf ?_
        refine State.onCrew_wf ?_
        refine State.onQuarter_wf ?_
        refine State.fresh_wf ?_
        split
        · split
          · exact State.releaseBin_wf h
          · exact h
        · exact h

theorem State.fileAll_wf {s : State} {uid : Nat} {sysc : Option (Nat × Word)} {keys : List (Nat × Word × Nat)} (h : Memory.wf
    s.mem = true) :
    Memory.wf (State.fileAll s uid sysc keys).mem = true := by
  unfold State.fileAll
  split
  · exact h
  · exact foldl_wf (fun s x h => State.fileLanes_wf h) h

theorem State.leaveBins_wf {s : State} {uid : Nat} {lanes : List Nat} (h : Memory.wf s.mem = true) :
    Memory.wf (State.leaveBins s uid lanes).mem = true := by
  unfold State.leaveBins
  split
  · exact h
  · exact State.onQuarter_wf h

/-! ## Device -/

theorem State.engPart_wf {s : State} {wn core : Nat} {k : AccKind} {va n : Nat} (h : Memory.wf s.mem = true) :
    Memory.wf (State.engPart s wn core k va n).1.mem = true := by
  unfold State.engPart
  split <;> exact wf_fst ‹_› (State.resolve_wf h)

theorem State.engTargets_wf {s : State} {wn : Nat} {core : Nat} {k : AccKind} {x1 : List (Nat × Nat)} (h : Memory.wf s.mem = true) : Memory.wf (State.engTargets s wn core k x1).1.mem = true := by
  induction x1 generalizing s with
  | nil =>
    exact h
  | cons y l ih =>
    obtain ⟨va, len⟩ := y
    unfold State.engTargets
    split
    · split
      · dsimp only
        refine wf_fst ‹_› ?_
        apply ih
        exact wf_fst ‹_› (State.engPart_wf h)
      · dsimp only
        refine wf_fst ‹_› ?_
        apply ih
        exact wf_fst ‹_› (State.engPart_wf h)
    · exact wf_fst ‹_› (State.engPart_wf h)
    · split
      · dsimp only
        refine wf_fst ‹_› ?_
        apply ih
        exact wf_fst ‹_› (State.engPart_wf h)
      · dsimp only
        refine wf_fst ‹_› ?_
        apply ih
        exact wf_fst ‹_› (State.engPart_wf h)
    · exact wf_fst ‹_› (State.engPart_wf h)

theorem State.storeParts_wf {s : State} {x1 : List (Target × Place × Nat × Nat)} {x2 : List Byte} (h : Memory.wf s.mem = true) : Memory.wf (State.storeParts s x1 x2).mem = true := by
  induction x1 generalizing s x2 with
  | nil =>
    exact h
  | cons y l ih =>
    obtain ⟨t, p, va, len⟩ := y
    unfold State.storeParts
    apply ih
    exact State.wakeRange_wf (State.storeT_wf h)

theorem State.noteParts_wf {s : State} {p : Party} {launch : Nat × Word} {ts : List (Target × Place × Nat × Nat)} (h :
    Memory.wf s.mem = true) :
    Memory.wf (State.noteParts s p launch ts).mem = true := by
  unfold State.noteParts
  refine foldl_wf (fun s x h => ?_) ?_
  · split
    · exact State.noteWrite_wf h
    · exact h
  · exact h

theorem State.refTargets_wf {s : State} {id rg : Nat} {ts : List (Target × Place × Nat × Nat)} (h : Memory.wf s.mem = true)
    :
    Memory.wf (State.refTargets s id rg ts).mem = true := by
  unfold State.refTargets
  refine foldl_wf (fun s x h => ?_) ?_
  · split
    · split
      · split
        · exact h
        · exact State.onEntry_wf (State.onFrame_wf h)
      · exact h
    · exact h
  · exact h

theorem State.useParts_wf {s : State} {core : Nat} {k : AccKind} {ts : List (Target × Place × Nat × Nat)} (h : Memory.wf
    s.mem = true) :
    Memory.wf (State.useParts s core k ts).mem = true :=
  h

theorem State.cmdTargets_wf {s : State} {e : Entry} {rg : Nat} {k : AccKind} {va n : Nat} (h : Memory.wf s.mem = true) :
    Memory.wf (State.cmdTargets s e rg k va n).1.mem = true := by
  unfold State.cmdTargets
  split
  · exact State.useParts_wf (State.refTargets_wf (wf_fst ‹_› (State.engTargets_wf h)))
  · exact State.engTargets_wf h

theorem State.cmdRead_wf {s : State} {e : Entry} {rg va n : Nat} (h : Memory.wf s.mem = true) :
    Memory.wf (State.cmdRead s e rg va n).1.mem = true := by
  unfold State.cmdRead
  split
  · split <;> exact wf_fst ‹_› (State.cmdTargets_wf h)
  · exact wf_fst ‹_› (State.cmdTargets_wf h)
  · exact wf_fst ‹_› (State.cmdTargets_wf h)
  · exact wf_fst ‹_› (State.cmdTargets_wf h)

theorem State.cmdWrite_wf {s : State} {e : Entry} {rg va : Nat} {l : List Byte} (h : Memory.wf s.mem = true) :
    Memory.wf (State.cmdWrite s e rg va l).1.mem = true := by
  unfold State.cmdWrite
  split
  · exact State.storeParts_wf (State.noteParts_wf (wf_fst ‹_› (State.cmdTargets_wf h)))
  · exact wf_fst ‹_› (State.cmdTargets_wf h)
  · exact wf_fst ‹_› (State.cmdTargets_wf h)
  · exact wf_fst ‹_› (State.cmdTargets_wf h)

theorem State.devWrite_wf {s : State} {wn va : Nat} {l : List Byte} (h : Memory.wf s.mem = true) :
    Memory.wf (State.devWrite s wn va l).1.mem = true := by
  unfold State.devWrite
  split
  · exact State.storeParts_wf (foldl_wf (fun s x h => State.forget_wf h) (foldl_wf (fun s x h => State.useNp_wf h)
      (wf_fst ‹_› (State.engTargets_wf h))))
  · exact wf_fst ‹_› (State.engTargets_wf h)

theorem State.devTouch_wf {s : State} {wn va n : Nat} (h : Memory.wf s.mem = true) :
    Memory.wf (State.devTouch s wn va n).mem = true := by
  unfold State.devTouch
  split
  · exact foldl_wf (fun s x h => State.useNp_wf h) (wf_fst ‹_› (State.engTargets_wf h))
  · exact wf_fst ‹_› (State.engTargets_wf h)

theorem State.interrupt_wf {s : State} {wn code : Nat} {handle : Word} {data : List Nat} (h : Memory.wf s.mem = true) :
    Memory.wf (State.interrupt s wn code handle data).mem = true := by
  unfold State.interrupt
  split
  · exact h
  · dsimp only
    split
    · exact State.onWorld_wf h
    · split
      · exact State.onWorld_wf (wf_fst ‹_› (State.devWrite_wf h))
      · exact State.send_wf (State.onWorld_wf (wf_fst ‹_› (State.devWrite_wf h)))

theorem State.putStatus_wf {s : State} {wn : Nat} {hd : Word} (h : Memory.wf s.mem = true) :
    Memory.wf (State.putStatus s wn hd).mem = true := by
  unfold State.putStatus
  split
  · exact h
  · exact State.devWrite_wf h

theorem State.putGraphStatus_wf {s : State} {wn : Nat} {hd : Word} (h : Memory.wf s.mem = true) :
    Memory.wf (State.putGraphStatus s wn hd).mem = true := by
  unfold State.putGraphStatus
  split
  · exact h
  · exact State.devWrite_wf h

theorem State.passCrew_wf {s : State} {b : Nat} {phase : Word} {c : Crew} (h : Memory.wf s.mem = true) :
    Memory.wf (State.passCrew s b phase c).mem = true := by
  unfold State.passCrew
  dsimp only
  refine State.syncOp_wf ?_
  refine State.acquired_wf ?_
  split
  · exact State.onCrew_wf h
  · exact State.fileAll_wf (State.onCrew_wf h)

theorem State.passBars_wf {s : State} {uid b : Nat} {phase : Word} (h : Memory.wf s.mem = true) :
    Memory.wf (State.passBars s uid b phase).mem = true := by
  unfold State.passBars
  exact foldl_wf (fun s x h => State.passCrew_wf h) h

theorem State.arrive_wf {s : State} {uid b : Nat} (h : Memory.wf s.mem = true) :
    Memory.wf (State.arrive s uid b).mem = true := by
  unfold State.arrive
  split
  · exact h
  · split
    · exact h
    · exact State.passBars_wf (State.onUnit_wf h)

theorem State.async_wf {s : State} {uid : Nat} {tr : Trap} {lanes : Option (List Nat)} (h : Memory.wf s.mem = true) :
    Memory.wf (State.async s uid tr lanes).mem = true :=
  h

theorem State.putRecord_wf {s : State} {e : Entry} {ws : List Word} (h : Memory.wf s.mem = true) :
    Memory.wf (State.putRecord s e ws).1.mem = true := by
  unfold State.putRecord
  dsimp only
  split
  · exact State.spadWrite_wf (State.releasedBy_wf h)
  · split
    · exact foldl_wf (fun s x h => State.acquired_wf h) (State.storeParts_wf (State.releasedBy_wf (State.noteParts_wf
        (State.useParts_wf (wf_fst ‹_› (State.engTargets_wf h))))))
    · exact wf_fst ‹_› (State.engTargets_wf h)
    · exact wf_fst ‹_› (State.engTargets_wf h)
    · exact wf_fst ‹_› (State.engTargets_wf h)

theorem State.putSample_wf {s : State} {wn : Nat} {ws : List Word} (h : Memory.wf s.mem = true) :
    Memory.wf (State.putSample s wn ws).mem = true := by
  unfold State.putSample
  split
  · exact h
  · dsimp only
    split
    · exact State.onWorld_wf h
    · split <;> exact State.onWorld_wf (wf_fst ‹_› (State.devWrite_wf h))

theorem State.armSampler_wf {s : State} {q after : Nat} (h : Memory.wf s.mem = true) :
    Memory.wf (State.armSampler s q after).mem = true := by
  unfold State.armSampler
  repeat' split
  all_goals exact h

theorem State.startNext_wf {s : State} {unit key : Nat} (h : Memory.wf s.mem = true) :
    Memory.wf (State.startNext s unit key).mem = true := by
  unfold State.startNext
  split
  · split
    · exact State.arm_wf h
    · exact h
  · exact h

theorem State.onPeer_wf {s : State} {peer : Nat} {f : Peer → Peer} (h : Memory.wf s.mem = true) :
    Memory.wf (State.onPeer s peer f).mem = true :=
  h

theorem State.route_wf {s : State} {cls peer : Nat} (h : Memory.wf s.mem = true) :
    Memory.wf (State.route s cls peer).1.mem = true := by
  unfold State.route
  split
  · split
    exact wf_snd ‹_› (State.free_wf h)
  · split
    exact State.onPeer_wf h

theorem State.countPacket_wf {s : State} {peer : Nat} (h : Memory.wf s.mem = true) :
    Memory.wf (State.countPacket s peer).mem = true := by
  unfold State.countPacket
  dsimp only
  split
  · exact State.onPeer_wf h
  · exact State.arm_wf (State.onPeer_wf h)

theorem State.sendPiece_wf {s : State} {cls peer owner part off len : Nat} (h : Memory.wf s.mem = true) :
    Memory.wf (State.sendPiece s cls peer owner part off len).mem = true := by
  unfold State.sendPiece
  split
  split
  exact State.countPacket_wf (State.send_wf (State.post_wf (State.onPeer_wf (wf_fst ‹_› (State.route_wf (wf_snd ‹_›
      (State.fresh_wf h)))))))

theorem State.transmitPart_wf {s : State} {cls peer owner part len : Nat} (h : Memory.wf s.mem = true) :
    Memory.wf (State.transmitPart s cls peer owner part len).mem = true := by
  unfold State.transmitPart
  exact foldl_wf (fun s x h => State.sendPiece_wf h) h

theorem State.say_wf {s : State} {cls peer owner part : Nat} {bytes : List Byte} (h : Memory.wf s.mem = true) :
    Memory.wf (State.say s cls peer owner part bytes).mem = true := by
  unfold State.say
  exact State.transmitPart_wf (State.send_wf h)

theorem State.toRank_wf {s : State} {cls : Nat} {e : Entry} {rank : Nat} {payload : List Byte} (h : Memory.wf s.mem =
    true) :
    Memory.wf (State.toRank s cls e rank payload).mem = true := by
  unfold State.toRank
  exact State.say_wf h

theorem State.toRanks_wf {s : State} {cls : Nat} {e : Entry} {payload : List Byte} (h : Memory.wf s.mem = true) :
    Memory.wf (State.toRanks s cls e payload).mem = true := by
  unfold State.toRanks
  exact foldl_wf (fun s x h => State.toRank_wf h) h

theorem State.wakeQueues_wf {s : State} {unit : Nat} (h : Memory.wf s.mem = true) :
    Memory.wf (State.wakeQueues s unit).mem = true := by
  unfold State.wakeQueues
  refine foldl_wf (fun s x h => ?_) ?_
  · split
    · split
      · exact State.arm_wf h
      · exact State.arm_wf h
      · exact h
    · exact h
  · exact h

theorem State.unrefFrame_wf {s : State} {i : Nat} (h : Memory.wf s.mem = true) :
    Memory.wf (State.unrefFrame s i).mem = true := by
  unfold State.unrefFrame
  dsimp only
  split
  · split
    · split
      · refine State.arm_wf ?_
        split
        · exact State.arm_wf (State.onFrame_wf h)
        · exact State.onFrame_wf h
      · refine State.arm_wf ?_
        split
        · exact State.arm_wf (State.onFrame_wf h)
        · exact State.onFrame_wf h
      · split
        · exact State.arm_wf (State.onFrame_wf h)
        · exact State.onFrame_wf h
    · exact State.onFrame_wf h
  · exact State.onFrame_wf h

theorem State.closeEntry_wf {s : State} {e : Entry} {written : Bool} {status : Nat} {ws : List Word}
    (h : Memory.wf s.mem = true) : Memory.wf (s.closeEntry e written status ws).mem = true := by
  unfold State.closeEntry
  extract_lets s1 s2 s3 s4 blk s5 s6 s7 s8
  have h1 : Memory.wf s1.mem = true := by
    unfold s1
    refine State.settleOlder_wf ?_
    exact h
  have h2 : Memory.wf s2.mem = true := by
    unfold s2
    exact foldl_wf (fun s x h => State.unrefFrame_wf h) h1
  have h3 : Memory.wf s3.mem = true := by
    unfold s3
    exact State.onUnit_wf h2
  have h4 : Memory.wf s4.mem = true := by
    unfold s4
    exact State.onLaunch_wf h2
  have h5 : Memory.wf s5.mem = true := by
    unfold s5
    split
    · split
      · exact State.putSample_wf h2
      · exact h2
    · exact h2
  have h6 : Memory.wf s6.mem = true := by
    unfold s6
    split
    · exact State.arrive_wf h5
    · exact h5
  have h7 : Memory.wf s7.mem = true := by
    unfold s7
    split
    · split
      · exact State.async_wf h6
      · exact h6
    · exact h6
  have h8 : Memory.wf s8.mem = true := by
    unfold s8
    exact State.wakeQueues_wf (State.startNext_wf h7)
  split
  · split
    · exact State.post_wf h8
    · exact h8
  · exact h8

theorem State.finishEntry_wf {s : State} {id status fault aux bytes path : Nat} (h : Memory.wf s.mem = true) :
    Memory.wf (State.finishEntry s id status fault aux bytes path).mem = true := by
  unfold State.finishEntry
  split
  · exact h
  · dsimp only
    split
    · exact State.closeEntry_wf h
    · split
      · exact State.closeEntry_wf (wf_fst ‹_› (State.putRecord_wf h))
      · exact State.arm_wf (State.onEntry_wf (wf_fst ‹_› (State.putRecord_wf h)))
      · exact State.closeEntry_wf (wf_fst ‹_› (State.putRecord_wf h))

/-! ## Tiers -/

theorem State.onSeq_wf {s : State} {id : Nat} {f : Sequence → Sequence} (h : Memory.wf s.mem = true) :
    Memory.wf (State.onSeq s id f).mem = true :=
  h

theorem State.onRoost_wf {s : State} {id : Nat} {f : Roost → Roost} (h : Memory.wf s.mem = true) :
    Memory.wf (State.onRoost s id f).mem = true :=
  h

theorem State.setItemTier_wf {s : State} {id page tier : Nat} (h : Memory.wf s.mem = true) :
    Memory.wf (State.setItemTier s id page tier).mem = true := by
  unfold State.setItemTier
  split
  · exact State.onRoost_wf h
  · exact State.onSeq_wf h

theorem State.setItemOut_wf {s : State} {id page : Nat} {out : List (Nat × Bool × List Byte)} (h : Memory.wf s.mem =
    true) :
    Memory.wf (State.setItemOut s id page out).mem = true := by
  unfold State.setItemOut
  split
  · exact State.onRoost_wf h
  · exact State.onSeq_wf h

theorem State.dropHolds_wf {s : State} {id : Nat} (h : Memory.wf s.mem = true) :
    Memory.wf (State.dropHolds s id).mem = true := by
  unfold State.dropHolds
  dsimp only
  refine State.onSeq_wf ?_
  refine State.onRoost_wf ?_
  refine foldl_wf (fun s x h => ?_) ?_
  · split
    · exact State.unrefFrame_wf (State.onFrame_wf h)
    · exact h
  · exact h

theorem State.freeRoost_wf {s : State} {id : Nat} (h : Memory.wf s.mem = true) :
    Memory.wf (State.freeRoost s id).mem = true := by
  unfold State.freeRoost
  exact State.dropHolds_wf h

/-! ## Transfer -/

theorem State.readRow_wf {s : State} {e : Entry} {d : Side} {r n : Nat} (h : Memory.wf s.mem = true) :
    Memory.wf (State.readRow s e d r n).1.mem = true := by
  unfold State.readRow
  dsimp only
  split
  · split <;> exact h
  · exact State.cmdRead_wf h

theorem State.writeRow_wf {s : State} {e : Entry} {d : Side} {r : Nat} {l : List Byte} (h : Memory.wf s.mem = true) :
    Memory.wf (State.writeRow s e d r l).1.mem = true := by
  unfold State.writeRow
  dsimp only
  split
  · exact State.spadWrite_wf h
  · exact State.cmdWrite_wf h

theorem State.readRows_wf {s : State} {e : Entry} {d : Side} {n : Nat} {x1 : Nat} {x2 : Nat} (h : Memory.wf s.mem = true) : Memory.wf (State.readRows s e d n x1 x2).1.mem = true := by
  induction x1 generalizing s x2 with
  | zero =>
    exact h
  | succ n ih =>
    unfold State.readRows
    split
    · split
      · dsimp only
        refine wf_fst ‹_› ?_
        apply ih
        exact wf_fst ‹_› (State.readRow_wf h)
      · dsimp only
        refine wf_fst ‹_› ?_
        apply ih
        exact wf_fst ‹_› (State.readRow_wf h)
    · exact wf_fst ‹_› (State.readRow_wf h)
    · exact wf_fst ‹_› (State.readRow_wf h)
    · exact wf_fst ‹_› (State.readRow_wf h)

theorem State.writeRows_wf {s : State} {e : Entry} {d : Side} {x1 : Nat} {x2 : List (List Byte)} (h : Memory.wf s.mem = true) : Memory.wf (State.writeRows s e d x1 x2).1.mem = true := by
  induction x2 generalizing s x1 with
  | nil =>
    exact h
  | cons y l ih =>
    unfold State.writeRows
    split
    · apply ih
      exact State.onEntry_wf (wf_fst ‹_› (State.writeRow_wf h))
    · exact wf_fst ‹_› (State.writeRow_wf h)

theorem State.tornRow_wf {s : State} {e : Entry} {d : Side} {r : Nat} {l : List Byte} (h : Memory.wf s.mem = true) :
    Memory.wf (State.tornRow s e d r l).1.mem = true := by
  unfold State.tornRow
  refine foldl_fst_wf (fun p x h => ?_) ?_
  · split
    split
    · split <;> exact wf_fst ‹_› (State.writeRow_wf (wf_snd ‹_› (State.free_wf h)))
    · exact wf_snd ‹_› (State.free_wf h)
  · exact h

theorem State.tornCopy_wf {s : State} {e : Entry} (h : Memory.wf s.mem = true) :
    Memory.wf (State.tornCopy s e).mem = true := by
  unfold State.tornCopy
  split
  · exact h
  · split
    dsimp only
    split
    · exact State.onEntry_wf (foldl_fst_wf (fun p x h => State.tornRow_wf h) (wf_fst ‹_› (State.readRows_wf h)))
    · exact wf_fst ‹_› (State.readRows_wf h)

theorem State.tearEntry_wf {s : State} {e : Entry} (h : Memory.wf s.mem = true) :
    Memory.wf (State.tearEntry s e).mem = true := by
  unfold State.tearEntry
  split
  · split
    · exact State.tornCopy_wf h
    · exact h
  · split
    · exact State.tornCopy_wf h
    · exact h
  · split
    · exact State.tornCopy_wf h
    · exact h
  · exact h

theorem State.moveCopy_wf {s : State} {e : Entry} (h : Memory.wf s.mem = true) :
    Memory.wf (State.moveCopy s e).1.mem = true := by
  unfold State.moveCopy
  split
  · exact h
  · split
    split
    · split
      · exact wf_fst ‹_› (State.writeRows_wf (wf_fst ‹_› (State.readRows_wf (State.onEntry_wf h))))
      · dsimp only
        refine elim_wf ?_ ?_
        · exact wf_fst ‹_› (State.writeRows_wf (wf_fst ‹_› (State.readRows_wf (State.onEntry_wf h))))
        · intro a
          exact State.tornCopy_wf (wf_fst ‹_› (State.writeRows_wf (wf_fst ‹_› (State.readRows_wf (State.onEntry_wf
              h)))))
    · exact wf_fst ‹_› (State.readRows_wf (State.onEntry_wf h))
    · exact wf_fst ‹_› (State.readRows_wf (State.onEntry_wf h))
    · exact wf_fst ‹_› (State.readRows_wf (State.onEntry_wf h))

/-! ## Cancel -/

theorem State.wakeDispatch_wf {s : State} (h : Memory.wf s.mem = true) :
    Memory.wf (State.wakeDispatch s).mem = true := by
  unfold State.wakeDispatch
  exact foldl_wf (fun s x h => State.arm_wf h) h

theorem State.wakeTakers_wf {s : State} {wn : Nat} (h : Memory.wf s.mem = true) :
    Memory.wf (State.wakeTakers s wn).mem = true := by
  unfold State.wakeTakers
  split
  · exact h
  · refine foldl_wf (fun s x h => ?_) ?_
    · split
      · exact State.post_wf h
      · exact h
    · exact h

theorem State.queueFreed_wf {s : State} {wn q : Nat} {hd : Word} (h : Memory.wf s.mem = true) :
    Memory.wf (State.queueFreed s wn q hd).mem = true := by
  unfold State.queueFreed
  split
  · exact h
  · dsimp only
    split
    · exact State.post_wf (State.onWorld_wf h)
    · exact h

theorem State.phaseCount_wf {s : State} {wn : Nat} {ph : Word} {st : LState} (h : Memory.wf s.mem = true) :
    Memory.wf (State.phaseCount s wn ph st).mem = true :=
  h

theorem State.putUnbegun_wf {s : State} {wn : Nat} {d : LDesc} {submitted : Nat} (h : Memory.wf s.mem = true) :
    Memory.wf (State.putUnbegun s wn d submitted).mem = true := by
  unfold State.putUnbegun
  exact State.devWrite_wf (State.sampleTime_wf h)

theorem State.putUnbegunNodes_wf {s : State} {g : Graph} {js : List Nat} (h : Memory.wf s.mem = true) :
    Memory.wf (State.putUnbegunNodes s g js).mem = true := by
  unfold State.putUnbegunNodes
  refine foldl_wf (fun s x h => ?_) ?_
  · split
    · exact State.putUnbegun_wf h
    · exact h
  · exact h

theorem State.dropLaunch_wf {s : State} {wn : Nat} {hd : Word} (h : Memory.wf s.mem = true) :
    Memory.wf (State.dropLaunch s wn hd).mem = true := by
  unfold State.dropLaunch
  exact State.putStatus_wf (State.onLaunch_wf (State.sampleTime_wf h))

theorem State.dropGraph_wf {s : State} {wn : Nat} {hd : Word} (h : Memory.wf s.mem = true) :
    Memory.wf (State.dropGraph s wn hd).mem = true := by
  unfold State.dropGraph
  split
  · exact h
  · exact State.putGraphStatus_wf (State.onGraph_wf (State.sampleTime_wf (foldl_wf (fun s x h => State.dropLaunch_wf
      h) (State.putUnbegunNodes_wf h))))

theorem State.stopPhase_wf {s : State} {wn : Nat} (h : Memory.wf s.mem = true) :
    Memory.wf (State.stopPhase s wn).mem = true := by
  unfold State.stopPhase
  split
  · exact h
  · split
    · exact h
    · exact foldl_wf (fun s x h => State.queueFreed_wf (State.phaseCount_wf (State.dropGraph_wf h))) (foldl_wf (fun s
        x h => State.queueFreed_wf (State.phaseCount_wf (State.dropLaunch_wf h))) h)

theorem State.holdJob_wf {s : State} {wn : Nat} {w : World} (h : Memory.wf s.mem = true) :
    Memory.wf (State.holdJob s wn w).mem = true := by
  unfold State.holdJob
  exact State.interrupt_wf (State.onWorld_wf h)

theorem State.phasesEnd_wf {wn : Nat} {x1 : Nat} {s : State} (h : Memory.wf s.mem = true) : Memory.wf (State.phasesEnd wn x1 s).mem = true := by
  induction x1 generalizing s with
  | zero =>
    exact h
  | succ n ih =>
    unfold State.phasesEnd
    split
    · exact h
    · split
      · exact h
      · split
        · exact State.holdJob_wf h
        · apply ih
          exact State.stopPhase_wf (State.wakeDispatch_wf (State.onWorld_wf h))

theorem State.phaseCheck_wf {s : State} {wn : Nat} (h : Memory.wf s.mem = true) :
    Memory.wf (State.phaseCheck s wn).mem = true := by
  unfold State.phaseCheck
  split
  · exact h
  · split
    · split
      · exact h
      · exact State.onWorld_wf h
    · dsimp only
      split
      · exact State.phasesEnd_wf h
      · exact State.onWorld_wf (State.phasesEnd_wf h)

theorem State.phaseLevelEnded_wf {s : State} {wn : Nat} {ph : Word} {st : LState} (h : Memory.wf s.mem = true) :
    Memory.wf (State.phaseLevelEnded s wn ph st).mem = true := by
  unfold State.phaseLevelEnded
  exact State.phaseCheck_wf (State.stopPhase_wf (State.phaseCount_wf h))

theorem State.graphCheck_wf {s : State} {wn : Nat} {hd : Word} (h : Memory.wf s.mem = true) :
    Memory.wf (State.graphCheck s wn hd).mem = true := by
  unfold State.graphCheck
  split
  · exact h
  · split
    · exact State.phaseLevelEnded_wf (State.queueFreed_wf (State.putGraphStatus_wf (State.onGraph_wf
        (State.sampleTime_wf h))))
    · exact State.putGraphStatus_wf h

theorem State.cancelNodes_wf {s : State} {wn : Nat} {hd : Word} {js : List Nat} (h : Memory.wf s.mem = true) :
    Memory.wf (State.cancelNodes s wn hd js).mem = true := by
  unfold State.cancelNodes
  split
  · exact h
  · exact State.onGraph_wf (State.putUnbegunNodes_wf h)

theorem State.nodeEnded_wf {s : State} {wn : Nat} {hd : Word} {node : Nat} {st : LState} {launch : Word} (h : Memory.wf
    s.mem = true) :
    Memory.wf (State.nodeEnded s wn hd node st launch).mem = true := by
  unfold State.nodeEnded
  dsimp only
  refine State.graphCheck_wf ?_
  split
  · exact State.post_wf (State.onGraph_wf h)
  · split
    · exact State.cancelNodes_wf (State.onGraph_wf h)
    · exact State.onGraph_wf h

theorem State.launchEnded_wf {s : State} {wn : Nat} {hd : Word} {st : LState} (h : Memory.wf s.mem = true) :
    Memory.wf (State.launchEnded s wn hd st).mem = true := by
  unfold State.launchEnded
  split
  · exact h
  · dsimp only
    split
    · refine State.nodeEnded_wf ?_
      split
      · exact State.freeRoost_wf (State.putStatus_wf (State.onLaunch_wf (State.sampleTime_wf h)))
      · exact State.putStatus_wf (State.onLaunch_wf (State.sampleTime_wf h))
    · split
      · refine State.phaseLevelEnded_wf ?_
        refine State.queueFreed_wf ?_
        split
        · exact State.freeRoost_wf (State.putStatus_wf (State.onLaunch_wf (State.sampleTime_wf h)))
        · exact State.putStatus_wf (State.onLaunch_wf (State.sampleTime_wf h))
      · split
        · exact State.freeRoost_wf (State.putStatus_wf (State.onLaunch_wf (State.sampleTime_wf h)))
        · exact State.putStatus_wf (State.onLaunch_wf (State.sampleTime_wf h))

theorem State.launchCheck_wf {s : State} {wn : Nat} {hd : Word} (h : Memory.wf s.mem = true) :
    Memory.wf (State.launchCheck s wn hd).mem = true := by
  unfold State.launchCheck
  split
  · exact h
  · dsimp only
    split
    · exact State.launchEnded_wf h
    · split
      · split
        · exact State.launchEnded_wf h
        · exact State.putStatus_wf h
      · split
        · exact State.launchEnded_wf h
        · exact State.putStatus_wf h

theorem State.unitFinished_wf {s : State} {wn : Nat} {hd : Word} (h : Memory.wf s.mem = true) :
    Memory.wf (State.unitFinished s wn hd).mem = true := by
  unfold State.unitFinished
  exact State.launchCheck_wf (State.onLaunch_wf h)

theorem State.tokpDone_wf {s : State} {uid : Nat} (h : Memory.wf s.mem = true) :
    Memory.wf (State.tokpDone s uid).mem = true := by
  unfold State.tokpDone
  split
  · exact h
  · exact State.syncOp_wf (State.acquired_wf (State.fileAll_wf h))

theorem State.passToken_wf {s : State} {q : Nat} {frm : Crew} (h : Memory.wf s.mem = true) :
    Memory.wf (State.passToken s q frm).mem = true := by
  unfold State.passToken
  split
  · exact h
  · dsimp only
    split
    · exact State.tokpDone_wf (State.onQuarter_wf (State.released_wf (foldl_wf (fun s x h => State.drainLane_wf h)
        h)))
    · exact State.onQuarter_wf (State.released_wf (foldl_wf (fun s x h => State.drainLane_wf h) h))

theorem State.freeFault_wf {s : State} {f : Option (Nat × Nat)} {wn : Nat} (h : Memory.wf s.mem = true) :
    Memory.wf (State.freeFault s f wn).mem = true := by
  unfold State.freeFault
  split <;> exact h

theorem State.dropWaiter_wf {s : State} {w : Waiter} (h : Memory.wf s.mem = true) :
    Memory.wf (State.dropWaiter s w).mem = true := by
  unfold State.dropWaiter
  exact foldl_wf (fun s x h => State.arm_wf h) h

theorem State.dropGroups_wf {s : State} {p : Group → Bool} (h : Memory.wf s.mem = true) :
    Memory.wf (State.dropGroups s p).mem = true := by
  unfold State.dropGroups
  exact foldl_wf (fun s x h => State.dropWaiter_wf (State.freeFault_wf h)) h

theorem State.wakeGroup_wf {s : State} {gid : Nat} (h : Memory.wf s.mem = true) :
    Memory.wf (State.wakeGroup s gid).mem = true := by
  unfold State.wakeGroup
  split
  · exact h
  · exact State.onCrew_wf h

theorem State.unbindQuarter_wf {s : State} {q : Nat} (h : Memory.wf s.mem = true) :
    Memory.wf (State.unbindQuarter s q).mem = true := by
  unfold State.unbindQuarter
  split
  · split
    · exact h
    · exact State.onQuarter_wf h
  · exact h

theorem State.unthrottle_wf {s : State} {uids cores : List Nat} (h : Memory.wf s.mem = true) :
    Memory.wf (State.unthrottle s uids cores).mem = true := by
  unfold State.unthrottle
  exact foldl_wf (fun s x h => State.throttle_wf h) h

theorem State.removeCrew_wf {s : State} {uid : Nat} (h : Memory.wf s.mem = true) :
    Memory.wf (State.removeCrew s uid).mem = true := by
  unfold State.removeCrew
  split
  · exact h
  · dsimp only
    refine State.unthrottle_wf ?_
    refine State.unbindQuarter_wf ?_
    dsimp only
    split
    · split
      · split
        · split
          · exact State.onQuarter_wf (State.passToken_wf (State.settleOlder_wf (State.released_wf
              (State.dropGroups_wf h))))
          · exact State.passToken_wf (State.settleOlder_wf (State.released_wf (State.dropGroups_wf h)))
        · split
          · exact State.onQuarter_wf (State.onQuarter_wf (State.settleOlder_wf (State.released_wf
              (State.dropGroups_wf h))))
          · exact State.onQuarter_wf (State.settleOlder_wf (State.released_wf (State.dropGroups_wf h)))
      · split
        · exact State.onQuarter_wf (State.settleOlder_wf (State.released_wf (State.dropGroups_wf h)))
        · exact State.settleOlder_wf (State.released_wf (State.dropGroups_wf h))
    · split
      · split
        · split
          · exact State.onQuarter_wf (State.passToken_wf (State.settleOlder_wf (State.dropGroups_wf h)))
          · exact State.passToken_wf (State.settleOlder_wf (State.dropGroups_wf h))
        · split
          · exact State.onQuarter_wf (State.onQuarter_wf (State.settleOlder_wf (State.dropGroups_wf h)))
          · exact State.onQuarter_wf (State.settleOlder_wf (State.dropGroups_wf h))
      · split
        · exact State.onQuarter_wf (State.settleOlder_wf (State.dropGroups_wf h))
        · exact State.settleOlder_wf (State.dropGroups_wf h)

theorem State.dropGangs_wf {s : State} {e : Entry} (h : Memory.wf s.mem = true) :
    Memory.wf (State.dropGangs s e).mem = true := by
  unfold State.dropGangs
  dsimp only
  split
  · exact State.arm_wf h
  · exact h

theorem State.withdraw_wf {s : State} {e : Entry} (h : Memory.wf s.mem = true) :
    Memory.wf (State.withdraw s e).mem = true := by
  unfold State.withdraw
  split
  · split
    · exact State.dropGangs_wf (State.toRanks_wf h)
    · exact h
  · split
    · exact State.dropGangs_wf (State.toRanks_wf h)
    · exact h
  · split
    · exact State.dropGangs_wf (State.toRanks_wf h)
    · exact h
  · exact h

theorem State.abortEntry_wf {s : State} {id : Nat} (h : Memory.wf s.mem = true) :
    Memory.wf (State.abortEntry s id).mem = true := by
  unfold State.abortEntry
  split
  · exact h
  · dsimp only
    split
    · refine State.arm_wf ?_
      refine State.dropWaiter_wf ?_
      exact State.withdraw_wf (State.tearEntry_wf h)
    · refine State.finishEntry_wf ?_
      refine State.dropWaiter_wf ?_
      exact State.withdraw_wf (State.tearEntry_wf h)

theorem State.freeSlots_wf {s : State} {wn : Nat} {addrs : List Nat} (h : Memory.wf s.mem = true) :
    Memory.wf (State.freeSlots s wn addrs).mem = true := by
  unfold State.freeSlots
  split
  · exact h
  · exact State.onWorld_wf h

theorem State.endUnit_wf {s : State} {uid : Nat} (h : Memory.wf s.mem = true) :
    Memory.wf (State.endUnit s uid).mem = true := by
  unfold State.endUnit
  dsimp only
  refine State.post_wf ?_
  refine State.onUnit_wf ?_
  refine foldl_wf (fun s x h => ?_) ?_
  · exact State.abortEntry_wf h
  · split
    · exact foldl_wf (fun s x h => State.removeCrew_wf h) (State.freeSlots_wf h)
    · exact foldl_wf (fun s x h => State.onQuarter_wf h) (foldl_wf (fun s x h => State.removeCrew_wf h)
        (State.freeSlots_wf h))

theorem State.cancelUnit_wf {s : State} {uid : Nat} (h : Memory.wf s.mem = true) :
    Memory.wf (State.cancelUnit s uid).mem = true := by
  unfold State.cancelUnit
  split
  · exact State.onUnit_wf h
  · exact State.endUnit_wf h

theorem State.cnclBegin_wf {s : State} {uid : Nat} (h : Memory.wf s.mem = true) :
    Memory.wf (State.cnclBegin s uid).mem = true :=
  h

theorem State.cnclEnd_wf {s : State} {uid : Nat} (h : Memory.wf s.mem = true) :
    Memory.wf (State.cnclEnd s uid).mem = true := by
  unfold State.cnclEnd
  dsimp only
  split
  · exact State.endUnit_wf (State.onUnit_wf h)
  · exact State.onUnit_wf h

theorem State.dropSaved_wf {s : State} {v : Saved} (h : Memory.wf s.mem = true) :
    Memory.wf (State.dropSaved s v).mem = true := by
  unfold State.dropSaved
  exact State.dropGroups_wf (foldl_wf (fun s x h => State.abortEntry_wf h) h)

theorem State.cancelLaunch_wf {s : State} {wn : Nat} {hd : Word} (h : Memory.wf s.mem = true) :
    Memory.wf (State.cancelLaunch s wn hd).mem = true := by
  unfold State.cancelLaunch
  split
  · exact h
  · split
    · exact h
    · dsimp only
      refine State.launchCheck_wf ?_
      refine foldl_wf (fun s x h => ?_) ?_
      · exact State.cancelUnit_wf h
      · refine foldl_wf (fun s x h => ?_) ?_
        · split
          · exact h
          · exact State.dropSaved_wf h
        · exact State.freeSlots_wf (State.putStatus_wf (State.onLaunch_wf h))

theorem State.cancelGraph_wf {s : State} {wn : Nat} {hd : Word} (h : Memory.wf s.mem = true) :
    Memory.wf (State.cancelGraph s wn hd).mem = true := by
  unfold State.cancelGraph
  split
  · exact h
  · split
    · exact h
    · exact State.graphCheck_wf (foldl_wf (fun s x h => State.cancelLaunch_wf h) (State.putGraphStatus_wf
        (State.onGraph_wf (State.cancelNodes_wf h))))

theorem State.cancelAll_wf {s : State} {wn : Nat} (h : Memory.wf s.mem = true) :
    Memory.wf (State.cancelAll s wn).mem = true := by
  unfold State.cancelAll
  exact foldl_wf (fun s x h => State.cancelLaunch_wf h) (foldl_wf (fun s x h => State.cancelGraph_wf h) h)

theorem State.cancelPhase_wf {s : State} {wn : Nat} (h : Memory.wf s.mem = true) :
    Memory.wf (State.cancelPhase s wn).mem = true := by
  unfold State.cancelPhase
  split
  · exact h
  · exact State.phaseCheck_wf (foldl_wf (fun s x h => State.cancelLaunch_wf h) (foldl_wf (fun s x h =>
      State.cancelGraph_wf h) (State.onWorld_wf h)))

theorem State.cancelJob_wf {s : State} {wn : Nat} (h : Memory.wf s.mem = true) :
    Memory.wf (State.cancelJob s wn).mem = true := by
  unfold State.cancelJob
  exact State.phaseCheck_wf (State.cancelAll_wf (State.onWorld_wf h))

theorem State.cancelLevel_wf {s : State} {wn level : Nat} {hd : Word} (h : Memory.wf s.mem = true) :
    Memory.wf (State.cancelLevel s wn level hd).1.mem = true := by
  unfold State.cancelLevel
  split
  · split
    · split
      · exact State.cancelLaunch_wf h
      · exact h
    · exact h
  · split
    · split
      · exact State.cancelGraph_wf h
      · exact h
    · exact h
  · split
    · split
      · split
        · exact State.cancelPhase_wf h
        · exact h
      · split <;> exact h
    · exact h
  · split
    · split
      · split
        · exact State.cancelJob_wf h
        · exact h
      · exact h
    · exact h

/-! ## Ops -/

theorem State.haltCheck_wf {s : State} {uid : Nat} (h : Memory.wf s.mem = true) :
    Memory.wf (State.haltCheck s uid).mem = true := by
  unfold State.haltCheck
  split
  · exact h
  · exact State.onCrew_wf h

theorem State.enterTraps_wf {s : State} {c : Crew} (h : Memory.wf s.mem = true) :
    Memory.wf (State.enterTraps s c).mem = true := by
  unfold State.enterTraps
  dsimp only
  split
  · refine State.cancelLaunch_wf ?_
    refine State.interrupt_wf ?_
    split
    · split
      · exact State.syncRel_wf (State.onCrew_wf (foldl_wf (fun s x h => State.drainLane_wf h) h))
      · exact foldl_wf (fun s x h => State.putSample_wf h) (State.syncRel_wf (State.onCrew_wf (foldl_wf (fun s x h =>
          State.drainLane_wf h) h)))
    · split
      · exact State.syncRel_wf (State.onCrew_wf (foldl_wf (fun s x h => State.drainLane_wf h) h))
      · exact foldl_wf (fun s x h => State.putSample_wf h) (State.syncRel_wf (State.onCrew_wf (foldl_wf (fun s x h =>
          State.drainLane_wf h) h)))
  · split
    · split
      · exact State.syncRel_wf (State.onCrew_wf (foldl_wf (fun s x h => State.drainLane_wf h) h))
      · exact foldl_wf (fun s x h => State.putSample_wf h) (State.syncRel_wf (State.onCrew_wf (foldl_wf (fun s x h =>
          State.drainLane_wf h) h)))
    · split
      · exact State.syncRel_wf (State.onCrew_wf (foldl_wf (fun s x h => State.drainLane_wf h) h))
      · exact foldl_wf (fun s x h => State.putSample_wf h) (State.syncRel_wf (State.onCrew_wf (foldl_wf (fun s x h =>
          State.drainLane_wf h) h)))

theorem State.enterAll_wf {uid : Nat} {x1 : Nat} {s : State} (h : Memory.wf s.mem = true) : Memory.wf (State.enterAll uid x1 s).mem = true := by
  induction x1 generalizing s with
  | zero =>
    exact h
  | succ n ih =>
    unfold State.enterAll
    split
    · split
      · apply ih
        exact State.enterTraps_wf h
      · exact h
    · exact h

theorem State.settle_wf {s : State} {uid : Nat} (h : Memory.wf s.mem = true) :
    Memory.wf (State.settle s uid).mem = true := by
  unfold State.settle
  split
  · exact h
  · refine State.haltCheck_wf ?_
    split
    · exact State.enterAll_wf h
    · exact State.onCrew_wf h

theorem State.inFlight_wf {s : State} {uid lane : Nat} {pc : Word} {vals : List (Nat × Word)} {row : Option (Nat × List
    Byte)} {mem : optParam Bool false} (h : Memory.wf s.mem = true) :
    Memory.wf (State.inFlight s uid lane pc vals row mem).mem = true :=
  h

theorem State.inHalves_wf {s : State} {uid lane : Nat} {pc : Word} {vals : List (Nat × Word)} {late : Late} (h :
    Memory.wf s.mem = true) :
    Memory.wf (State.inHalves s uid lane pc vals late).mem = true :=
  h

theorem State.inAtomic_wf {s : State} {uid lane : Nat} {pc : Word} {regs : List Nat} {mem : Bool} (h : Memory.wf s.mem =
    true) :
    Memory.wf (State.inAtomic s uid lane pc regs mem).2.mem = true :=
  h

theorem State.inFlightU_wf {s : State} {uid : Nat} {pc : Word} {vals : List (Nat × Word)} (h : Memory.wf s.mem = true) :
    Memory.wf (State.inFlightU s uid pc vals).mem = true :=
  h

theorem State.landNow_wf {s : State} {id : Nat} (h : Memory.wf s.mem = true) :
    Memory.wf (State.landNow s id).mem = true := by
  unfold State.landNow
  split
  · exact h
  · dsimp only
    refine State.settle_wf ?_
    split
    · refine State.onCrew_wf ?_
      dsimp only
      refine State.landRows_wf ?_
      split
      · refine State.performStores_wf ?_
        split
        · exact State.readLate_wf h
        · exact h
      · split
        · exact State.readLate_wf h
        · exact h
    · refine State.onLane_wf ?_
      dsimp only
      refine State.landRows_wf ?_
      split
      · refine State.performStores_wf ?_
        split
        · exact State.readLate_wf h
        · exact h
      · split
        · exact State.readLate_wf h
        · exact h

theorem State.syncFor_wf {s : State} {e : Env} (h : Memory.wf s.mem = true) :
    Memory.wf (State.syncFor s e).mem = true := by
  unfold State.syncFor
  split
  · exact State.syncOp_wf h
  · exact h

theorem State.order_wf {s : State} {e : Env} {lane : Nat} {acq rel : Bool} {scope : Nat} (h : Memory.wf s.mem = true) :
    Memory.wf (State.order s e lane acq rel scope).mem = true := by
  unfold State.order
  dsimp only
  split
  · refine State.syncFor_wf ?_
    split
    · refine State.acquired_wf ?_
      split
      · exact State.released_wf (State.drainLane_wf h)
      · exact h
    · split
      · exact State.released_wf (State.drainLane_wf h)
      · exact h
  · split
    · refine State.acquired_wf ?_
      split
      · exact State.released_wf (State.drainLane_wf h)
      · exact h
    · split
      · exact State.released_wf (State.drainLane_wf h)
      · exact h

theorem State.issued_wf {s : State} (h : Memory.wf s.mem = true) : Memory.wf (State.issued s).mem = true :=
  h

theorem issue_canonical {f : Form} {s : State} {k : Env → Nat → Crew → State → State} (h : Memory.wf s.mem = true)
    (hk : ∀ e k0 c s, Memory.wf s.mem = true → Memory.wf (k e k0 c s).mem = true) : Canonical (issue f s k) := by
  unfold issue
  split
  · exact canonical_fault _
  · dsimp only
    split
    · exact canonical_fault _
    · split
      · exact canonical_next (State.settle_wf (State.issued_wf (State.onCrew_wf h)))
      · split
        · split
          · exact canonical_next (State.settle_wf (State.issued_wf (State.onCrew_wf h)))
          · refine canonical_next ?_
            refine State.settle_wf ?_
            apply hk
            exact State.issued_wf (State.onCrew_wf h)
        · split
          · exact canonical_next (State.settle_wf (State.issued_wf (State.onCrew_wf h)))
          · refine canonical_next ?_
            refine State.settle_wf ?_
            apply hk
            exact State.issued_wf (State.onCrew_wf h)

theorem execThreads_canonical {f : Form} {s : State} {g : Env → Crew → Thread → Except Trap Thread} (h : Memory.wf
    s.mem = true) :
    Canonical (execThreads f s g) := by
  unfold execThreads
  refine issue_canonical ?_ ?_
  · exact h
  · intro e k0 c s h'
    exact State.onCrew_wf (h')

theorem execPure_canonical {f : Form} {s : State} {g : Crew → Thread → Thread} (h : Memory.wf s.mem = true) :
    Canonical (execPure f s g) := by
  unfold execPure
  exact execThreads_canonical h

theorem refuseOperand_canonical {f : Form} {s : State} (h : Memory.wf s.mem = true) :
    Canonical (refuseOperand f s) := by
  unfold refuseOperand
  unfold execThreads
  refine issue_canonical ?_ ?_
  · exact h
  · intro e k0 c s h'
    exact State.onCrew_wf (h')

theorem State.replayOver_wf {s : State} {uid lane : Nat} (h : Memory.wf s.mem = true) :
    Memory.wf (State.replayOver s uid lane).mem = true := by
  unfold State.replayOver
  split
  · split
    · exact h
    · dsimp only
      split
      · split
        · refine State.dropEnded_wf ?_
          refine State.dropGroups_wf ?_
          dsimp only
          refine State.onLane_wf ?_
          exact h
        · dsimp only
          refine State.onLane_wf ?_
          exact h
      · dsimp only
        refine State.onLane_wf ?_
        exact h
  · exact h

theorem State.reparked_wf {s : State} {old new : Nat} (h : Memory.wf s.mem = true) :
    Memory.wf (State.reparked s old new).mem = true := by
  unfold State.reparked
  dsimp only
  split
  · exact h
  · exact foldl_wf (fun s x h => State.arm_wf h) h

theorem State.parkGroup_wf {s : State} {c : Crew} {lanes : List Nat} {job page : Nat} {write : Bool} (h : Memory.wf s.mem
    = true) :
    Memory.wf (State.parkGroup s c lanes job page write).mem = true := by
  unfold State.parkGroup
  dsimp only
  refine State.post_wf ?_
  refine State.onCrew_wf ?_
  refine foldl_wf (fun s x h => ?_) ?_
  · exact State.replayOver_wf h
  · split
    · refine State.reparked_wf ?_
      exact State.fresh_wf h
    · exact State.fresh_wf h

theorem runLanes_wf {e : Env} {f : Form} {body : Env → Crew → Thread → State → State × LaneRes} {ts : List Thread} {s : State}
    (hb : ∀ e c t s, Memory.wf s.mem = true → Memory.wf (body e c t s).1.mem = true) (h : Memory.wf s.mem = true) :
    Memory.wf (runLanes e f body ts s).1.mem = true := by
  induction ts generalizing s with
  | nil => exact h
  | cons t r ih =>
    unfold runLanes
    split
    · exact h
    · split
      split
      · dsimp only
        refine wf_fst ‹_› ?_
        split
        · exact h
        · apply hb
          exact h
      · split
        dsimp only
        refine wf_fst ‹_› ?_
        apply ih
        refine wf_fst ‹_› ?_
        split
        · exact h
        · apply hb
          exact h

theorem closeLanes_wf {e : Env} {s : State} {l : List (Nat × LaneRes)} (h : Memory.wf s.mem = true) :
    Memory.wf (closeLanes e s l).mem = true := by
  unfold closeLanes
  dsimp only
  refine foldl_wf (fun s x h => ?_) ?_
  · split
    · exact State.parkGroup_wf h
    · exact h
  · split
    · refine foldl_wf (fun s x h => ?_) ?_
      · split
        · exact State.replayOver_wf (State.onLane_wf h)
        · exact State.replayOver_wf h
        · exact State.onLane_wf (State.replayOver_wf h)
        · exact h
      · exact h
    · refine State.onCrew_wf ?_
      refine foldl_wf (fun s x h => ?_) ?_
      · split
        · exact State.replayOver_wf (State.onLane_wf h)
        · exact State.replayOver_wf h
        · exact State.onLane_wf (State.replayOver_wf h)
        · exact h
      · exact h

theorem runSet_wf {f : Form} {pre : Env → Crew → List Thread → State → State}
    {body : State → Env → Crew → Thread → State → State × LaneRes} {e : Env} {k0 : Nat} {c : Crew} {s : State}
    (hp : ∀ e c ts s, Memory.wf s.mem = true → Memory.wf (pre e c ts s).mem = true)
    (hb : ∀ s0 e c t s, Memory.wf s0.mem = true → Memory.wf s.mem = true → Memory.wf (body s0 e c t s).1.mem = true)
    (h : Memory.wf s.mem = true) :
    Memory.wf (runSet f pre body e k0 c s).mem = true := by
  unfold runSet
  have h0 := hp e c (c.threads.filter fun t => sel k0 t && e.guardTrue t) _ (State.onCrew_wf (uid := e.uid)
    (f := fun c => c.onThreads (fun t => sel k0 t && !e.guardTrue t) fun t => { t with pc := e.next t }) h)
  exact closeLanes_wf (runLanes_wf (fun e c t s => hb _ e c t s h0) h0)

theorem execLanesAfter_canonical {f : Form} {s : State} {pre : Env → Crew → List Thread → State → State}
    {body : State → Env → Crew → Thread → State → State × LaneRes} (h : Memory.wf s.mem = true)
    (hpre : ∀ e c ts s, Memory.wf s.mem = true → Memory.wf (pre e c ts s).mem = true)
    (hbody : ∀ s0 e c t s, Memory.wf s0.mem = true → Memory.wf s.mem = true → Memory.wf (body s0 e c t s).1.mem = true) :
    Canonical (execLanesAfter f s pre body) :=
  issue_canonical h fun _ _ _ _ hs => runSet_wf hpre hbody hs

theorem execLanes_canonical {f : Form} {s : State} {body : Env → Crew → Thread → State → State × LaneRes} (hs :
    Memory.wf s.mem = true) (hbody : ∀ e c t s, Memory.wf s.mem = true → Memory.wf (body e c t s).1.mem =
    true) :
    Canonical (execLanes f s body) := by
  unfold execLanes
  refine execLanesAfter_canonical ?_ ?_ ?_
  · exact hs
  · intro e c ts s h
    exact h
  · intro s0 e c t s h h'
    apply hbody
    exact h'

theorem execUniform_canonical {f : Form} {s : State} {body : Env → Crew → Thread → State → State × LaneRes} (hs :
    Memory.wf s.mem = true) (hbody : ∀ e c t s, Memory.wf s.mem = true → Memory.wf (body e c t s).1.mem =
    true) :
    Canonical (execUniform f s body) := by
  unfold execUniform
  refine issue_canonical ?_ ?_
  · exact hs
  · intro e k0 c s h
    dsimp only
    split
    · exact h
    · split
      · exact State.onCrew_wf h
      · split
        · exact State.onCrew_wf h
        · split
          · exact State.onCrew_wf h
          · split
            · refine foldl_wf (fun s x h => ?_) ?_
              · exact State.replayOver_wf h
              · refine State.onCrew_wf ?_
                refine wf_fst ‹_› ?_
                apply hbody
                exact h
            · refine foldl_wf (fun s x h => ?_) ?_
              · exact State.replayOver_wf h
              · refine State.onCrew_wf ?_
                refine wf_fst ‹_› ?_
                apply hbody
                exact h
            · refine State.parkGroup_wf ?_
              refine wf_fst ‹_› ?_
              apply hbody
              exact h
            · refine wf_fst ‹_› ?_
              apply hbody
              exact h

theorem execCrew_canonical {f : Form} {s : State} {g : Crew → Crew × Flags} (h : Memory.wf s.mem = true) :
    Canonical (execCrew f s g) := by
  unfold execCrew
  refine issue_canonical ?_ ?_
  · exact h
  · intro e k0 c s h'
    exact State.onCrew_wf (h')

/-! ## Orders -/

theorem State.postHead_wf {s : State} {q : Nat} (h : Memory.wf s.mem = true) :
    Memory.wf (State.postHead s q).mem = true := by
  unfold State.postHead
  split
  · split
    · split
      · exact State.post_wf h
      · exact h
    · exact h
  · exact h

theorem State.enterOrder_wf {s : State} {m : MCmd} (h : Memory.wf s.mem = true) :
    Memory.wf (State.enterOrder s m).mem = true := by
  unfold State.enterOrder
  exact State.postHead_wf (foldl_wf (fun s x h => State.onQuarter_wf h) h)

theorem State.leaveOrder_wf {s : State} {m : MCmd} (h : Memory.wf s.mem = true) :
    Memory.wf (State.leaveOrder s m).mem = true := by
  unfold State.leaveOrder
  dsimp only
  split
  · split
    · exact State.post_wf (foldl_wf (fun s x h => State.unbindQuarter_wf (State.postHead_wf h)) (foldl_wf (fun s x h
        => State.onQuarter_wf h) h))
    · exact foldl_wf (fun s x h => State.unbindQuarter_wf (State.postHead_wf h)) (foldl_wf (fun s x h =>
        State.onQuarter_wf h) h)
  · exact foldl_wf (fun s x h => State.unbindQuarter_wf (State.postHead_wf h)) (foldl_wf (fun s x h =>
      State.onQuarter_wf h) h)

/-! ## Collect -/

theorem State.collCheck_wf {s : State} {uid : Nat} (h : Memory.wf s.mem = true) :
    Memory.wf (State.collCheck s uid).mem = true := by
  unfold State.collCheck
  split
  · exact h
  · dsimp only
    split
    · exact h
    · split
      · exact h
      · split
        · exact State.post_wf h
        · exact State.settle_wf (State.onCrew_wf h)

theorem execArrive_canonical {f : Form} {s : State} {op : CollOp} {refuse : Bool} {pend : Thread → List Nat} (h :
    Memory.wf s.mem = true) :
    Canonical (execArrive f s op refuse pend) := by
  unfold execArrive
  dsimp only
  refine issue_canonical ?_ ?_
  · exact h
  · intro e k0 c s h'
    refine State.collCheck_wf ?_
    refine State.onCrew_wf ?_
    exact h'

theorem execArriveU_canonical {f : Form} {s : State} {op : CollOp} {pendS pendQ : Crew → List Nat} (h : Memory.wf s.mem
    = true) :
    Canonical (execArriveU f s op pendS pendQ) := by
  unfold execArriveU
  dsimp only
  refine issue_canonical ?_ ?_
  · exact h
  · intro e k0 c s h'
    refine State.collCheck_wf ?_
    refine State.onCrew_wf ?_
    exact h'

theorem State.collTrap_wf {s : State} {uid : Nat} {pcs : List Word} {tr : Thread → Trap} (h : Memory.wf s.mem = true) :
    Memory.wf (State.collTrap s uid pcs tr).mem = true := by
  unfold State.collTrap
  exact State.settle_wf (State.onCrew_wf h)

theorem State.collRelease_wf {s : State} {uid : Nat} {pc : Word} (h : Memory.wf s.mem = true) :
    Memory.wf (State.collRelease s uid pc).mem = true := by
  unfold State.collRelease
  split
  · exact h
  · exact State.fileAll_wf (State.onCrew_wf h)

theorem State.blockRelease_wf {s : State} {c : Crew} (h : Memory.wf s.mem = true) :
    Memory.wf (State.blockRelease s c).mem = true := by
  unfold State.blockRelease
  exact State.syncRel_wf (foldl_wf (fun s x h => State.drainLane_wf h) h)

theorem State.collBlock_wf {s : State} {uid : Nat} {why : Block} {pc : Word} (h : Memory.wf s.mem = true) :
    Memory.wf (State.collBlock s uid why pc).mem = true := by
  unfold State.collBlock
  exact State.collRelease_wf (State.onCrew_wf h)

theorem State.performTokp_wf {s : State} {c : Crew} {pc : Word} (h : Memory.wf s.mem = true) :
    Memory.wf (State.performTokp s c pc).mem = true := by
  unfold State.performTokp
  dsimp only
  split
  · split
    · exact State.collRelease_wf (State.blockRelease_wf h)
    · split
      · exact State.collRelease_wf (State.passToken_wf (State.blockRelease_wf h))
      · exact State.collBlock_wf (State.blockRelease_wf h)
  · split
    · exact State.collRelease_wf (State.blockRelease_wf h)
    · split
      · exact State.collRelease_wf (State.passToken_wf (State.blockRelease_wf h))
      · exact State.collBlock_wf (State.blockRelease_wf h)

theorem State.performBar_wf {s : State} {c : Crew} {b : Nat} {sync : Bool} {pc : Word} (h : Memory.wf s.mem = true) :
    Memory.wf (State.performBar s c b sync pc).mem = true := by
  unfold State.performBar
  dsimp only
  split
  · refine State.passBars_wf ?_
    split
    · refine State.arrive_wf ?_
      split
      · exact State.collBlock_wf (State.blockRelease_wf h)
      · exact State.collRelease_wf (State.blockRelease_wf h)
    · split
      · exact State.collBlock_wf (State.blockRelease_wf h)
      · exact State.collRelease_wf (State.blockRelease_wf h)
  · split
    · refine State.arrive_wf ?_
      split
      · exact State.collBlock_wf (State.blockRelease_wf h)
      · exact State.collRelease_wf (State.blockRelease_wf h)
    · split
      · exact State.collBlock_wf (State.blockRelease_wf h)
      · exact State.collRelease_wf (State.blockRelease_wf h)

theorem State.performColl_wf {s : State} {c : Crew} {op : CollOp} {pc : Word} (h : Memory.wf s.mem = true) :
    Memory.wf (State.performColl s c op pc).mem = true := by
  unfold State.performColl
  split
  · exact State.collRelease_wf (State.onCrew_wf h)
  · split
    · exact State.collTrap_wf h
    · exact State.collRelease_wf (State.onCrew_wf h)
  · exact State.collRelease_wf (State.onCrew_wf h)
  · split
    · exact State.collRelease_wf h
    · split
      · exact State.collTrap_wf h
      · exact State.collRelease_wf (State.onCrew_wf h)
  · exact State.performTokp_wf h
  · exact State.performBar_wf h

theorem execCollectivePerform_canonical {crew : Nat} {s : State} (h : Memory.wf s.mem = true) :
    Canonical (execCollectivePerform crew s) := by
  unfold execCollectivePerform
  split
  · exact canonical_next h
  · split
    · exact canonical_next h
    · exact canonical_next (State.performColl_wf h)

/-! ## Finish -/

theorem State.hreadCheck_wf {s : State} {id : Nat} (h : Memory.wf s.mem = true) :
    Memory.wf (State.hreadCheck s id).mem = true := by
  unfold State.hreadCheck
  split
  · exact h
  · split
    · exact State.finishEntry_wf h
    · exact h

theorem State.dripRetired_wf {s : State} {d : Drip} {core quarter : Nat} (h : Memory.wf s.mem = true) :
    Memory.wf (State.dripRetired s d core quarter).mem = true := by
  unfold State.dripRetired
  exact State.post_wf (State.hreadCheck_wf (State.onEntry_wf h))

theorem State.flushCrew_wf {s : State} {uid : Nat} (h : Memory.wf s.mem = true) :
    Memory.wf (State.flushCrew s uid).mem = true := by
  unfold State.flushCrew
  exact foldl_wf (fun s x h => State.landNow_wf h) (State.performStores_wf h)

theorem State.crewFinished_wf {s : State} {uid : Nat} (h : Memory.wf s.mem = true) :
    Memory.wf (State.crewFinished s uid).mem = true := by
  unfold State.crewFinished
  split
  · exact h
  · split
    · refine State.collCheck_wf ?_
      split
      · exact h
      · exact State.arm_wf h
    · dsimp only
      split
      · exact State.dripRetired_wf (State.removeCrew_wf (State.flushCrew_wf h))
      · split
        · exact State.post_wf (State.flushCrew_wf h)
        · split
          · refine State.post_wf ?_
            refine State.onUnit_wf ?_
            split
            · exact State.passToken_wf (State.flushCrew_wf h)
            · exact State.flushCrew_wf h
          · split
            · refine State.post_wf ?_
              refine foldl_wf (fun s x h => ?_) ?_
              · split
                · exact State.async_wf h
                · exact h
              · exact State.onUnit_wf (State.removeCrew_wf (State.flushCrew_wf h))
            · refine foldl_wf (fun s x h => ?_) ?_
              · split
                · exact State.async_wf h
                · exact h
              · exact State.onUnit_wf (State.removeCrew_wf (State.flushCrew_wf h))

/-! ## Control -/

theorem opPred_canonical {w : Word} {f : Bool → Bool → Bool} {sw : Bool} {d : BitVec 3} {a b : BitVec 4} {s : State}
    (h : Memory.wf s.mem = true) :
    Canonical (opPred w f sw d a b s) := by
  unfold opPred
  unfold execPure
  unfold execThreads
  refine issue_canonical ?_ ?_
  · exact h
  · intro e k0 c s h'
    exact State.onCrew_wf (h')

theorem opQpred_canonical {w : Word} {f : Bool → Bool → Bool} {sw : Bool} {d : BitVec 3} {a b : BitVec 4} {s : State}
    (h : Memory.wf s.mem = true) :
    Canonical (opQpred w f sw d a b s) := by
  unfold opQpred
  unfold execCrew
  refine issue_canonical ?_ ?_
  · exact h
  · intro e k0 c s h'
    exact State.onCrew_wf (h')

theorem execUbra_canonical {sw n : Bool} {c : BitVec 3} {o : BitVec 21} {s : State} (h : Memory.wf s.mem = true) :
    Canonical (execUbra sw n c o s) := by
  unfold execUbra
  refine execUniform_canonical ?_ ?_
  · exact h
  · intro e c t s h'
    exact State.onCrew_wf (h')

theorem State.allNext_wf {s : State} {e : Env} {k0 : Nat} (h : Memory.wf s.mem = true) :
    Memory.wf (State.allNext s e k0).mem = true :=
  h

theorem execReform_canonical {sw : Bool} {s : State} (h : Memory.wf s.mem = true) : Canonical (execReform sw s) := by
  unfold execReform
  refine issue_canonical ?_ ?_
  · exact h
  · intro e k0 c s h'
    exact State.fileAll_wf (State.allNext_wf (h'))

theorem execExit_canonical {sw : Bool} {s : State} (h : Memory.wf s.mem = true) : Canonical (execExit sw s) := by
  unfold execExit
  refine issue_canonical ?_ ?_
  · exact h
  · intro e k0 c s h'
    dsimp only
    split
    · exact State.onCrew_wf (State.allNext_wf (h'))
    · exact State.crewFinished_wf (State.onCrew_wf (State.allNext_wf (h')))

theorem execBrk_canonical {sw : Bool} {c : BitVec 7} {s : State} (h : Memory.wf s.mem = true) :
    Canonical (execBrk sw c s) := by
  unfold execBrk
  refine issue_canonical ?_ ?_
  · exact h
  · intro e k0 c s h'
    exact State.onCrew_wf (h')

theorem State.rndTouch_wf {s : State} {wn : Nat} {base : Nat} {len : Nat} {k : RndKey} {x1 : Nat} {x2 : Nat} {x3 : Nat} (h : Memory.wf s.mem = true) : Memory.wf (State.rndTouch s wn base len k x1 x2 x3).mem = true := by
  induction x1 generalizing s x2 x3 with
  | zero =>
    exact h
  | succ n ih =>
    unfold State.rndTouch
    split
    · exact h
    · split
      · exact State.devTouch_wf h
      · dsimp only
        split
        · exact State.devTouch_wf h
        · apply ih
          exact State.devTouch_wf h

theorem State.rndFresh_wf {s : State} {x1 : List Nat} (h : Memory.wf s.mem = true) : Memory.wf (State.rndFresh s x1).1.mem = true := by
  induction x1 generalizing s with
  | nil =>
    exact h
  | cons y l ih =>
    unfold State.rndFresh
    split
    split
    dsimp only
    refine wf_fst ‹_› ?_
    apply ih
    exact wf_snd ‹_› (State.free_wf h)

theorem State.rndLog_wf {s : State} {c : Crew} {l : Launch} {vals : List (Nat × Word)} (h : Memory.wf s.mem = true) :
    Memory.wf (State.rndLog s c l vals).mem = true := by
  unfold State.rndLog
  dsimp only
  split
  · exact State.putStatus_wf (State.onLaunch_wf h)
  · split <;> exact State.putStatus_wf (State.onLaunch_wf (wf_fst ‹_› (State.devWrite_wf h)))

theorem State.rndReplay_wf {s : State} {c : Crew} {l : Launch} {lanes : List Nat} (h : Memory.wf s.mem = true) :
    Memory.wf (State.rndReplay s c l lanes).1.mem = true := by
  unfold State.rndReplay
  dsimp only
  split <;> exact State.putStatus_wf (State.onLaunch_wf (State.rndTouch_wf h))

theorem State.rndValues_wf {s : State} {c : Crew} {lanes : List Nat} (h : Memory.wf s.mem = true) :
    Memory.wf (State.rndValues s c lanes).1.mem = true := by
  unfold State.rndValues
  split
  · exact State.rndFresh_wf h
  · split
    · exact State.rndReplay_wf h
    · split
      dsimp only
      split
      · exact State.rndLog_wf (wf_fst ‹_› (State.rndFresh_wf h))
      · exact wf_fst ‹_› (State.rndFresh_wf h)

theorem execRnd_canonical {sw : Bool} {d : BitVec 7} {s : State} (h : Memory.wf s.mem = true) :
    Canonical (execRnd sw d s) := by
  unfold execRnd
  dsimp only
  refine issue_canonical ?_ ?_
  · exact h
  · intro e k0 c s h'
    split
    · exact State.onCrew_wf (h')
    · exact foldl_wf (fun s x h => State.inFlight_wf h) (State.onCrew_wf (State.rndValues_wf (State.onCrew_wf (h'))))

theorem execSysc_canonical {sw : Bool} {n : BitVec 7} {s : State} (h : Memory.wf s.mem = true) :
    Canonical (execSysc sw n s) := by
  unfold execSysc
  dsimp only
  refine issue_canonical ?_ ?_
  · exact h
  · intro e k0 c s h'
    exact State.fileAll_wf (State.onCrew_wf (h'))

theorem State.freeSlot_wf {s : State} {wn addr : Nat} (h : Memory.wf s.mem = true) :
    Memory.wf (State.freeSlot s wn addr).mem = true :=
  h

theorem State.resumeDone_wf {s : State} {uid : Nat} (h : Memory.wf s.mem = true) :
    Memory.wf (State.resumeDone s uid).mem = true := by
  unfold State.resumeDone
  split
  · exact h
  · split
    · dsimp only
      refine State.onCrew_wf ?_
      refine foldl_wf (fun s x h => ?_) ?_
      · exact State.wakeGroup_wf h
      · split
        · refine State.crewFinished_wf ?_
          refine State.freeSlot_wf ?_
          refine State.fileAll_wf ?_
          refine State.dropRequests_wf ?_
          refine State.onCrew_wf ?_
          exact h
        · refine State.freeSlot_wf ?_
          refine State.fileAll_wf ?_
          refine State.dropRequests_wf ?_
          refine State.onCrew_wf ?_
          exact h
    · exact h

theorem execTret_canonical {sw : Bool} {s : State} (h : Memory.wf s.mem = true) : Canonical (execTret sw s) := by
  unfold execTret
  refine issue_canonical ?_ ?_
  · exact h
  · intro e k0 c s h'
    dsimp only
    split
    · exact State.onCrew_wf (h')
    · split
      · refine State.post_wf ?_
        split
        · split
          · exact State.resumeDone_wf (State.onCrew_wf (State.syncOp_wf (State.onCrew_wf (h'))))
          · exact State.syncOp_wf (State.onCrew_wf (h'))
        · refine State.post_wf ?_
          split
          · exact State.resumeDone_wf (State.onCrew_wf (State.syncOp_wf (State.onCrew_wf (h'))))
          · exact State.syncOp_wf (State.onCrew_wf (h'))
      · split
        · split
          · exact State.resumeDone_wf (State.onCrew_wf (State.syncOp_wf (State.onCrew_wf (h'))))
          · exact State.syncOp_wf (State.onCrew_wf (h'))
        · refine State.post_wf ?_
          split
          · exact State.resumeDone_wf (State.onCrew_wf (State.syncOp_wf (State.onCrew_wf (h'))))
          · exact State.syncOp_wf (State.onCrew_wf (h'))

theorem execGuardPrefix_canonical {n : Bool} {c : BitVec 3} {s : State} (h : Memory.wf s.mem = true) :
    Canonical (execGuardPrefix n c s) := by
  unfold execGuardPrefix
  refine issue_canonical ?_ ?_
  · exact h
  · intro e k0 c s h'
    exact h'

/-! ## Circular -/

theorem State.onCbuf_wf {s : State} {uid obj : Nat} {f : CBuf → CBuf} (h : Memory.wf s.mem = true) :
    Memory.wf (State.onCbuf s uid obj f).mem = true :=
  h

theorem State.cbServe_wf {s : State} {crew id slot : Nat} (h : Memory.wf s.mem = true) :
    Memory.wf (State.cbServe s crew id slot).mem = true := by
  unfold State.cbServe
  exact State.syncOp_wf (State.acquired_wf (State.onCrew_wf h))

theorem State.kickQueues_wf {s : State} {unit : Nat} (h : Memory.wf s.mem = true) :
    Memory.wf (State.kickQueues s unit).mem = true := by
  unfold State.kickQueues
  refine foldl_wf (fun s x h => ?_) ?_
  · split
    · exact State.startNext_wf h
    · exact h
  · exact h

theorem State.cbSettle_wf {s : State} {uid : Nat} {obj : Nat} {x1 : Nat} (h : Memory.wf s.mem = true) : Memory.wf (State.cbSettle s uid obj x1).mem = true := by
  induction x1 generalizing s with
  | zero =>
    exact h
  | succ n ih =>
    unfold State.cbSettle
    split
    · exact h
    · split
      · apply ih
        exact State.cbServe_wf (State.onCbuf_wf h)
      · split
        · apply ih
          exact State.cbServe_wf (State.onCbuf_wf h)
        · exact h

theorem State.cbChanged_wf {s : State} {uid obj : Nat} (h : Memory.wf s.mem = true) :
    Memory.wf (State.cbChanged s uid obj).mem = true := by
  unfold State.cbChanged
  exact State.cbSettle_wf (State.kickQueues_wf h)

/-! ## Service -/

theorem State.npSay_wf {s : State} {owner kind job page rank ver : Nat} {bytes : List Byte} (h : Memory.wf s.mem =
    true) :
    Memory.wf (State.npSay s owner kind job page rank ver bytes).mem = true := by
  unfold State.npSay
  exact State.transmitPart_wf (State.send_wf h)

theorem State.askShard_wf {s : State} {kind job page : Nat} {data : List Byte} (h : Memory.wf s.mem = true) :
    Memory.wf (State.askShard s kind job page data).1.mem = true := by
  unfold State.askShard
  split
  · exact h
  · dsimp only
    split
    · dsimp only
      split
      · exact h
      · exact State.devTouch_wf h
    · split
      · dsimp only
        refine State.post_wf ?_
        split
        · exact h
        · exact State.devTouch_wf h
      · split
        · dsimp only
          refine State.npSay_wf ?_
          split
          · exact h
          · exact State.devTouch_wf h
        · dsimp only
          split
          · exact h
          · exact State.devTouch_wf h

theorem State.onOwned_wf {s : State} {job page : Nat} {f : Owned → Owned} (h : Memory.wf s.mem = true) :
    Memory.wf (State.onOwned s job page f).mem = true :=
  h

theorem State.wakeName_wf {s : State} {job page : Nat} (h : Memory.wf s.mem = true) :
    Memory.wf (State.wakeName s job page).mem = true :=
  h

theorem State.postFault_wf {s : State} {die wn : Nat} {f : FqEntry} (h : Memory.wf s.mem = true) :
    Memory.wf (State.postFault s die wn f).1.mem = true := by
  unfold State.postFault
  split
  · dsimp only
    refine State.onWorld_wf ?_
    exact h
  · dsimp only
    exact h

theorem State.onFault_wf {s : State} {wn : Nat} {fseq : Word} {g : FqEntry → FqEntry} (h : Memory.wf s.mem = true) :
    Memory.wf (State.onFault s wn fseq g).mem = true := by
  unfold State.onFault
  split <;> exact h

theorem State.onService_wf {s : State} {id : Nat} {f : Service → Service} (h : Memory.wf s.mem = true) :
    Memory.wf (State.onService s id f).mem = true :=
  h

theorem State.openService_wf {s : State} {wn job page : Nat} {write : Bool} {waiters : List (Word × Waiter × Bool ×
    Bool)} {pin prefetch : Bool} (h : Memory.wf s.mem = true) :
    Memory.wf (State.openService s wn job page write waiters pin prefetch).mem = true :=
  h

theorem State.joinService_wf {s : State} {wn job page : Nat} {write : Bool} {fseq : Word} {w : Waiter} (h : Memory.wf
    s.mem = true) :
    Memory.wf (State.joinService s wn job page write fseq w).mem = true := by
  unfold State.joinService
  split
  · dsimp only
    split
    · exact State.arm_wf (State.onService_wf h)
    · exact State.onFault_wf (State.onService_wf h)
    · exact State.onFault_wf (State.onService_wf h)
  · exact State.openService_wf h

theorem State.enginePost_wf {s : State} {e : Entry} {job : Nat} {page : Nat} {write : Bool} (h : Memory.wf s.mem = true) :
    Memory.wf (s.enginePost e job page write).mem = true := by
  unfold State.enginePost
  extract_lets waits init f
  clear_value waits f
  split
  · exact h
  · split
    · exact State.arm_wf h
    · split
      next hp => exact State.joinService_wf (wf_fst hp (State.postFault_wf h))
      next hp => exact State.arm_wf (wf_fst hp (State.postFault_wf h))

theorem State.engineWait_wf {s : State} {id : Nat} {pages : List (Nat × Nat × Bool)} (h : Memory.wf s.mem = true) :
    Memory.wf (State.engineWait s id pages).mem = true := by
  unfold State.engineWait
  split
  · exact h
  · refine foldl_wf (fun s x h => ?_) ?_
    · exact State.enginePost_wf h
    · split
      · exact h
      · exact State.onEntry_wf h

theorem State.engineResumed_wf {s : State} {id : Nat} (h : Memory.wf s.mem = true) :
    Memory.wf (State.engineResumed s id).mem = true := by
  unfold State.engineResumed
  exact foldl_wf (fun s x h => State.arm_wf (State.onService_wf (State.onFault_wf h))) h

theorem State.wakeWaiter_wf {s : State} {v : Service} {fseq : Word} {w : Waiter} (h : Memory.wf s.mem = true) :
    Memory.wf (State.wakeWaiter s v fseq w).mem = true := by
  unfold State.wakeWaiter
  dsimp only
  split
  · exact State.wakeGroup_wf (State.onService_wf (State.onFault_wf h))
  · exact State.arm_wf (State.onService_wf (State.onFault_wf h))

theorem State.endService_wf {s : State} {v : Service} (h : Memory.wf s.mem = true) :
    Memory.wf (State.endService s v).mem = true := by
  unfold State.endService
  dsimp only
  split
  · split
    · refine State.unrefFrame_wf ?_
      refine State.disarm_wf ?_
      exact h
    · refine State.disarm_wf ?_
      exact h
  · refine State.disarm_wf ?_
    exact h

theorem State.declinedEntry_wf {s : State} {wn job page : Nat} {write : Bool} {nwait : Nat} {fseq : Word} {attempts code
    : Nat} (h : Memory.wf s.mem = true) :
    Memory.wf (State.declinedEntry s wn job page write nwait fseq attempts code).mem = true := by
  unfold State.declinedEntry
  split
  · exact h
  · dsimp only
    refine State.send_wf ?_
    split
    · exact State.onWorld_wf h
    · split <;> exact State.onWorld_wf (wf_fst ‹_› (State.devWrite_wf h))

theorem State.declineService_wf {s : State} {id code : Nat} (h : Memory.wf s.mem = true) :
    Memory.wf (State.declineService s id code).mem = true := by
  unfold State.declineService
  split
  · exact h
  · exact State.declinedEntry_wf (foldl_wf (fun s x h => State.onFault_wf h) (State.disarm_wf (State.onService_wf h)))

theorem State.pageCache_wf {s : State} {job : Nat} {page : Nat} {x1 : List Nat} (h : Memory.wf s.mem = true) : Memory.wf (State.pageCache s job page x1).1.mem = true := by
  induction x1 generalizing s with
  | nil =>
    exact h
  | cons y l ih =>
    unfold State.pageCache
    dsimp only
    split
    · exact State.useNp_wf h
    · apply ih
      exact State.useNp_wf h

theorem State.fetch_wf {s : State} {id : Nat} (h : Memory.wf s.mem = true) :
    Memory.wf (State.fetch s id).mem = true := by
  unfold State.fetch
  split
  · exact h
  · split
    · exact h
    · split
      · split
        · exact State.declineService_wf h
        · split
          · exact State.declineService_wf (wf_fst ‹_› (State.pageCache_wf h))
          · exact State.arm_wf (State.send_wf (State.onService_wf (wf_fst ‹_› (State.pageCache_wf h))))
      · split
        · exact State.declineService_wf (wf_fst ‹_› (State.askShard_wf h))
        · exact State.arm_wf (State.onService_wf (wf_fst ‹_› (State.askShard_wf h)))

theorem State.upgradeService_wf {s : State} {id i : Nat} (h : Memory.wf s.mem = true) :
    Memory.wf (State.upgradeService s id i).mem = true := by
  unfold State.upgradeService
  exact State.fetch_wf (State.onService_wf h)

theorem State.holdOver_wf {s : State} {v : Service} (h : Memory.wf s.mem = true) :
    Memory.wf (State.holdOver s v).mem = true := by
  unfold State.holdOver
  split
  · dsimp only
    split
    · exact State.unrefFrame_wf (State.disarm_wf (State.onService_wf h))
    · exact State.disarm_wf (State.onService_wf h)
  · exact h

theorem State.withdrawService_wf {s : State} {v : Service} (h : Memory.wf s.mem = true) :
    Memory.wf (State.withdrawService s v).mem = true := by
  unfold State.withdrawService
  split
  · exact h
  · dsimp only
    refine State.endService_wf ?_
    split
    · split
      · exact State.onFrame_wf h
      · exact h
    · exact h

theorem State.runWake_wf {s : State} {id : Nat} (h : Memory.wf s.mem = true) :
    Memory.wf (State.runWake s id).mem = true := by
  unfold State.runWake
  dsimp only
  split
  · split
    · exact State.holdOver_wf h
    · exact h
  · split
    · split
      · refine State.endService_wf ?_
        split
        · exact State.holdOver_wf h
        · exact h
      · split
        · split
          · split
            · exact State.holdOver_wf h
            · exact h
          · split
            · split
              · exact State.wakeWaiter_wf (State.holdOver_wf h)
              · split
                · exact State.upgradeService_wf (State.holdOver_wf h)
                · split
                  · exact State.holdOver_wf h
                  · exact State.arm_wf (State.onService_wf (State.holdOver_wf h))
            · split
              · exact State.wakeWaiter_wf h
              · split
                · exact State.upgradeService_wf h
                · split
                  · exact h
                  · exact State.arm_wf (State.onService_wf h)
        · refine foldl_wf (fun s x h => ?_) ?_
          · exact State.wakeWaiter_wf h
          · split
            · exact State.holdOver_wf h
            · exact h
    · split
      · refine State.endService_wf ?_
        split
        · split
          · split
            · exact State.holdOver_wf h
            · exact h
          · refine State.onFrame_wf ?_
            split
            · exact State.holdOver_wf h
            · exact h
        · split
          · exact State.holdOver_wf h
          · exact h
      · split
        · exact State.holdOver_wf h
        · exact h
    · split
      · exact State.holdOver_wf h
      · exact h
    · refine State.withdrawService_wf ?_
      split
      · exact State.holdOver_wf h
      · exact h

theorem State.install_wf {s : State} {id i : Nat} {bytes : List Byte} {ver : Nat} (h : Memory.wf s.mem = true) :
    Memory.wf (State.install s id i bytes ver).mem = true := by
  unfold State.install
  split
  · exact h
  · dsimp only
    refine State.runWake_wf ?_
    refine State.arm_wf ?_
    refine State.disarm_wf ?_
    refine State.onService_wf ?_
    split
    · exact State.arm_wf (State.onOwned_wf (State.onFrame_wf (State.forget_wf (State.npStore_wf h))))
    · exact State.onOwned_wf (State.onFrame_wf (State.forget_wf (State.npStore_wf h)))

theorem State.refill_wf {s : State} {i job page : Nat} (h : Memory.wf s.mem = true) :
    Memory.wf (State.refill s i job page).mem = true := by
  unfold State.refill
  split
  · split
    · exact State.onService_wf (State.onFrame_wf h)
    · exact h
  · exact h

theorem State.frameLeaves_wf {s : State} {i roost : Nat} (h : Memory.wf s.mem = true) :
    Memory.wf (State.frameLeaves s i roost).mem = true := by
  unfold State.frameLeaves
  exact State.wakeName_wf (State.onFrame_wf (State.useNp_wf (State.finishFrame_wf h)))

theorem State.touchState_wf {s : State} {id page : Nat} (h : Memory.wf s.mem = true) :
    Memory.wf (State.touchState s id page).mem = true := by
  unfold State.touchState
  split
  · exact foldl_wf (fun s x h => State.translate_wf h) h
  · exact h

theorem State.itemDescends_wf {s : State} {id page dst : Nat} (h : Memory.wf s.mem = true) :
    Memory.wf (State.itemDescends s id page dst).mem = true := by
  unfold State.itemDescends
  dsimp only
  refine State.send_wf ?_
  refine State.setItemTier_wf ?_
  split
  · exact State.touchState_wf h
  · refine foldl_wf (fun s x h => ?_) ?_
    · split
      · exact State.frameLeaves_wf h
      · exact h
    · exact State.touchState_wf h

theorem State.evictHome_wf {s : State} {i : Nat} (h : Memory.wf s.mem = true) :
    Memory.wf (State.evictHome s i).mem = true := by
  unfold State.evictHome
  dsimp only
  split
  · exact State.askShard_wf (State.wakeName_wf (State.onOwned_wf (State.onFrame_wf (State.useNp_wf
      (State.finishFrame_wf h)))))
  · refine State.arm_wf ?_
    split
    · split
      · exact State.wakeName_wf (State.onFrame_wf (State.useNp_wf (State.finishFrame_wf h)))
      · exact State.askShard_wf (State.wakeName_wf (State.onFrame_wf (State.useNp_wf (State.finishFrame_wf h))))
    · split
      · exact State.wakeName_wf (State.onFrame_wf (State.useNp_wf (State.finishFrame_wf h)))
      · exact State.askShard_wf (State.wakeName_wf (State.onFrame_wf (State.useNp_wf (State.finishFrame_wf h))))

theorem State.pageDescends_wf {s : State} {id i : Nat} (h : Memory.wf s.mem = true) :
    Memory.wf (State.pageDescends s id i).mem = true := by
  unfold State.pageDescends
  exact State.arm_wf (State.send_wf (State.setItemOut_wf (State.frameLeaves_wf h)))

theorem State.evict_wf {s : State} {i : Nat} (h : Memory.wf s.mem = true) : Memory.wf (State.evict s i).mem = true := by
  unfold State.evict
  dsimp only
  split
  · split
    · exact State.itemDescends_wf h
    · split
      · exact State.pageDescends_wf h
      · exact State.evictHome_wf h
  · exact State.evictHome_wf h

theorem State.ascendFrame_wf {s : State} {id job page : Nat} {wr : Bool} (h : Memory.wf s.mem = true) :
    Memory.wf (State.ascendFrame s id job page wr).mem = true := by
  unfold State.ascendFrame
  split
  · exact h
  · exact h
  · split
    · exact State.onFrame_wf h
    · split
      · exact h
      · exact State.evict_wf h

theorem State.ascendFrames_wf {s : State} {id page : Nat} (h : Memory.wf s.mem = true) :
    Memory.wf (State.ascendFrames s id page).mem = true := by
  unfold State.ascendFrames
  exact foldl_wf (fun s x h => State.ascendFrame_wf h) h

theorem State.startAscent_wf {s : State} {id page : Nat} (h : Memory.wf s.mem = true) :
    Memory.wf (State.startAscent s id page).mem = true := by
  unfold State.startAscent
  exact State.arm_wf (State.send_wf (State.ascendFrames_wf (State.setItemTier_wf (State.touchState_wf h))))

theorem State.wantItem_wf {s : State} {id page : Nat} (h : Memory.wf s.mem = true) :
    Memory.wf (State.wantItem s id page).mem = true := by
  unfold State.wantItem
  dsimp only
  split
  · exact State.startAscent_wf h
  · split
    · exact State.setItemTier_wf h
    · exact h

theorem State.takeWay_wf {s : State} {id : Nat} (h : Memory.wf s.mem = true) :
    Memory.wf (State.takeWay s id).mem = true := by
  unfold State.takeWay
  split
  · exact h
  · dsimp only
    split
    · exact h
    · split
      · exact State.arm_wf (State.arm_wf h)
      · split
        · split
          · split
            · exact State.upgradeService_wf h
            · exact State.runWake_wf (State.onService_wf h)
          · exact State.arm_wf (State.arm_wf h)
        · split
          · exact State.arm_wf (State.arm_wf (State.wantItem_wf h))
          · split
            · exact State.arm_wf h
            · split
              · exact State.arm_wf (State.arm_wf h)
              · split
                · exact State.fetch_wf (State.onService_wf (State.onFrame_wf h))
                · exact State.arm_wf (State.onService_wf (State.evict_wf h))

theorem State.joinPosted_wf {s : State} {g : Group} {fseq : Word} (h : Memory.wf s.mem = true) :
    Memory.wf (State.joinPosted s g fseq).mem = true := by
  unfold State.joinPosted
  split
  · exact State.arm_wf h
  · exact State.joinService_wf h

theorem State.openPosted_wf {s : State} {g : Group} (h : Memory.wf s.mem = true) :
    Memory.wf (State.openPosted s g).mem = true := by
  unfold State.openPosted
  split
  · exact h
  · dsimp only
    split
    · exact h
    · exact State.joinPosted_wf h

theorem execFaultEntryPostHeld_canonical {group : Nat} {s : State} (h : Memory.wf s.mem = true) :
    Canonical (execFaultEntryPostHeld group s) := by
  unfold execFaultEntryPostHeld
  split
  · exact canonical_next h
  · split
    · exact canonical_next (State.openPosted_wf h)
    · extract_lets init f
      clear_value f
      split
      next hp => exact canonical_next (State.arm_wf (wf_fst hp (State.postFault_wf h)))
      next hp =>
        have h' := wf_fst hp (State.postFault_wf h)
        exact canonical_next (State.joinPosted_wf h')

theorem execVictimRetry_canonical {service : Nat} {s : State} (h : Memory.wf s.mem = true) :
    Canonical (execVictimRetry service s) := by
  unfold execVictimRetry
  exact canonical_next (State.takeWay_wf h)

theorem execWaiterRunWake_canonical {service : Nat} {s : State} (h : Memory.wf s.mem = true) :
    Canonical (execWaiterRunWake service s) := by
  unfold execWaiterRunWake
  exact canonical_next (State.runWake_wf h)

theorem execPostFillHoldExpiry_canonical {service : Nat} {s : State} (h : Memory.wf s.mem = true) :
    Canonical (execPostFillHoldExpiry service s) := by
  unfold execPostFillHoldExpiry
  split
  · exact canonical_next h
  · split
    · split
      · exact canonical_next (State.unrefFrame_wf (State.onService_wf h))
      · exact canonical_next h
    · exact canonical_next h

/-! ## Launches -/

theorem State.touchAll_wf {s : State} {wn : Nat} {l : List (Nat × Nat)} (h : Memory.wf s.mem = true) :
    Memory.wf (State.touchAll s wn l).mem = true := by
  unfold State.touchAll
  exact foldl_wf (fun s x h => State.devTouch_wf h) h

theorem State.touchLaunch_wf {s : State} {wn va : Nat} (h : Memory.wf s.mem = true) :
    Memory.wf (State.touchLaunch s wn va).mem = true := by
  unfold State.touchLaunch
  split
  · exact h
  · split
    · exact State.devTouch_wf h
    · split
      · exact h
      · exact State.touchAll_wf h

theorem State.newHandle_wf {s : State} {wn : Nat} (h : Memory.wf s.mem = true) :
    Memory.wf (State.newHandle s wn).2.mem = true := by
  unfold State.newHandle
  split
  · exact h
  · exact State.onWorld_wf h

theorem State.onKick_wf {s : State} {wn q : Nat} {f : KickPage → KickPage} (h : Memory.wf s.mem = true) :
    Memory.wf (State.onKick s wn q f).mem = true :=
  h

theorem State.acceptLaunch_wf {s : State} {wn q : Nat} {d : LDesc} {when' sub : Nat} {f : Launch → Launch} (h : Memory.wf
    s.mem = true) :
    Memory.wf (State.acceptLaunch s wn q d when' sub f).2.mem = true := by
  unfold State.acceptLaunch
  split
  split
  dsimp only
  refine State.putStatus_wf ?_
  dsimp only
  refine wf_snd ‹_› ?_
  refine State.fresh_wf ?_
  refine wf_snd ‹_› ?_
  refine State.newHandle_wf ?_
  exact h

theorem State.noteKick_wf {s : State} {wn q : Nat} {tail : Word} (h : Memory.wf s.mem = true) :
    Memory.wf (State.noteKick s wn q tail).mem = true :=
  h

theorem State.submit_wf {s : State} {wn q va : Nat} {roost : Option Nat} (h : Memory.wf s.mem = true) :
    Memory.wf (State.submit s wn q va roost).1.mem = true := by
  unfold State.submit
  split
  · exact h
  · exact State.touchLaunch_wf h
  · dsimp only
    split
    · exact State.touchLaunch_wf h
    · exact State.arm_wf (State.onKick_wf (State.acceptLaunch_wf (State.fresh_wf (State.noteKick_wf
        (State.touchLaunch_wf h)))))

/-! ## Matrix -/

theorem State.runMma_wf {s : State} {m : MCmd} (h : Memory.wf s.mem = true) :
    Memory.wf (State.runMma s m).mem = true := by
  unfold State.runMma
  split
  · exact h
  · exact foldl_wf (fun s x h => State.onQuarter_wf h) h

theorem State.runMst_wf {s : State} {m : MCmd} (h : Memory.wf s.mem = true) :
    Memory.wf (State.runMst s m).mem = true := by
  unfold State.runMst
  exact foldl_wf (fun s x h => foldl_wf (fun s x h => State.onQuarter_wf h) (State.spadWrite_wf h)) h

theorem execSetCmd_canonical {f : Form} {s : State} {body : Env → Crew → Thread → State → Except Trap State}
    (h : Memory.wf s.mem = true)
    (hbody : ∀ e c t s, Memory.wf s.mem = true → ∀ s', body e c t s = .ok s' → Memory.wf s'.mem = true) :
    Canonical (execSetCmd f s body) := by
  refine issue_canonical h fun e k0 c s h => ?_
  split
  · exact h
  · split
    · exact h
    · split
      · exact h
      next hs => exact State.onCrew_wf (hbody _ _ _ _ h _ hs)

theorem State.issueCmd_wf {s : State} {m : MCmd} {x : Nat} {t : State} (h : Memory.wf s.mem = true)
    (ht : s.issueCmd m = .ok (x, t)) : Memory.wf t.mem = true := by
  unfold State.issueCmd at ht
  dsimp only at ht
  split at ht
  · cases ht
  · cases ht
    exact State.enterOrder_wf (State.fresh_wf (State.syncRel_wf (State.drainLane_wf h)))

theorem State.mldIssued_wf {s : State} {q id : Nat} {shape w0 w1 w2 unums : Word} (h : Memory.wf s.mem = true) :
    Memory.wf (State.mldIssued s q id shape w0 w1 w2 unums).mem = true :=
  h

theorem execMldSt_canonical {sw : Bool} {n : BitVec 2} {a b : BitVec 7} {s : State} (h : Memory.wf s.mem = true) :
    Canonical (execMldSt sw n a b s) := by
  unfold execMldSt
  dsimp only
  refine execSetCmd_canonical ?_ ?_
  · exact h
  · intro e c t s h' s' ht
    split at ht
    · cases ht
      exact h'
    · split at ht
      · cases ht
      · split at ht
        · cases ht
        · cases ht
          refine State.mldIssued_wf ?_
          refine State.issueCmd_wf ?_ ‹_›
          exact h'

theorem execMswap_canonical {sw : Bool} {n : BitVec 2} {s : State} (h : Memory.wf s.mem = true) :
    Canonical (execMswap sw n s) := by
  unfold execMswap
  refine execSetCmd_canonical ?_ ?_
  · exact h
  · intro e c t s h' s' ht
    split at ht
    · cases ht
      exact h'
    · split at ht
      · cases ht
      · dsimp only at ht
        split at ht
        · cases ht
        · cases ht
          refine State.onQuarter_wf ?_
          refine State.issueCmd_wf ?_ ‹_›
          exact h'

theorem execMma_canonical {sw z : Bool} {tt : BitVec 3} {a b : BitVec 7} {s : State} (h : Memory.wf s.mem = true) :
    Canonical (execMma sw z tt a b s) := by
  unfold execMma
  refine execSetCmd_canonical ?_ ?_
  · exact h
  · intro e c t s h' s' ht
    split at ht
    · cases ht
      exact h'
    · dsimp only at ht
      split at ht
      · cases ht
      · split at ht
        · cases ht
        · cases ht
          refine State.issueCmd_wf ?_ ‹_›
          exact h'

theorem execMaccRd_canonical {sw : Bool} {d a b : BitVec 7} {s : State} (h : Memory.wf s.mem = true) :
    Canonical (execMaccRd sw d a b s) := by
  unfold execMaccRd
  refine execLanes_canonical ?_ ?_
  · exact h
  · intro e c t s h'
    dsimp only
    split
    · exact h'
    · split
      · exact h'
      · dsimp only
        refine State.onLane_wf ?_
        refine State.issueCmd_wf ?_ ‹_›
        exact h'

theorem execMst_canonical {sw k : Bool} {tt : BitVec 3} {a b : BitVec 7} {s : State} (h : Memory.wf s.mem = true) :
    Canonical (execMst sw k tt a b s) := by
  unfold execMst
  refine execSetCmd_canonical ?_ ?_
  · exact h
  · intro e c t s h' s' ht
    split at ht
    · cases ht
      exact h'
    · dsimp only at ht
      split at ht
      · cases ht
      · split at ht
        · cases ht
        · cases ht
          refine State.issueCmd_wf ?_ ‹_›
          exact h'

theorem execMaccClr_canonical {sw : Bool} {tt : BitVec 3} {n : BitVec 4} {s : State} (h : Memory.wf s.mem = true) :
    Canonical (execMaccClr sw tt n s) := by
  unfold execMaccClr
  refine execSetCmd_canonical ?_ ?_
  · exact h
  · intro e c t s h' s' ht
    split at ht
    · cases ht
      exact h'
    · split at ht
      · cases ht
      · split at ht
        · cases ht
        · cases ht
          refine State.issueCmd_wf ?_ ‹_›
          exact h'

theorem execMstat_canonical {sw : Bool} {d a : BitVec 7} {s : State} (h : Memory.wf s.mem = true) :
    Canonical (execMstat sw d a s) := by
  unfold execMstat
  refine execLanes_canonical ?_ ?_
  · exact h
  · intro e c t s h'
    dsimp only
    split
    · exact h'
    · split
      · exact h'
      · dsimp only
        refine State.onLane_wf ?_
        refine State.issueCmd_wf ?_ ‹_›
        exact h'

theorem State.completed_wf {s : State} {m : MCmd} (h : Memory.wf s.mem = true) :
    Memory.wf (State.completed s m).mem = true := by
  unfold State.completed
  dsimp only
  split
  · split
    · exact State.finishEntry_wf (State.leaveOrder_wf h)
    · exact State.leaveOrder_wf h
  · exact State.leaveOrder_wf h

theorem State.runMld_wf {s : State} {m : MCmd} (h : Memory.wf s.mem = true) :
    Memory.wf (State.runMld s m).mem = true := by
  unfold State.runMld
  split
  · exact h
  · exact State.onQuarter_wf h

theorem State.runMswap_wf {s : State} {m : MCmd} (h : Memory.wf s.mem = true) :
    Memory.wf (State.runMswap s m).mem = true :=
  h

theorem State.runClr_wf {s : State} {m : MCmd} (h : Memory.wf s.mem = true) :
    Memory.wf (State.runClr s m).mem = true :=
  h

theorem State.runRd_wf {s : State} {m : MCmd} (h : Memory.wf s.mem = true) : Memory.wf (State.runRd s m).mem = true :=
  h

theorem State.runStat_wf {s : State} {m : MCmd} (h : Memory.wf s.mem = true) :
    Memory.wf (State.runStat s m).mem = true :=
  h

theorem State.runAccdat_wf {s : State} {m : MCmd} (h : Memory.wf s.mem = true) :
    Memory.wf (State.runAccdat s m).mem = true := by
  unfold State.runAccdat
  split
  · exact h
  · exact State.onLane_wf (State.onQuarter_wf h)

theorem State.runAccstat_wf {s : State} {m : MCmd} (h : Memory.wf s.mem = true) :
    Memory.wf (State.runAccstat s m).mem = true := by
  unfold State.runAccstat
  split
  · exact h
  · exact State.onLane_wf (State.onQuarter_wf h)

theorem State.performCmd_wf {s : State} {m : MCmd} (h : Memory.wf s.mem = true) :
    Memory.wf (State.performCmd s m).mem = true := by
  unfold State.performCmd
  split
  · exact State.completed_wf (State.runMld_wf h)
  · exact State.completed_wf (State.runMswap_wf h)
  · exact State.completed_wf (State.runMma_wf h)
  · exact State.completed_wf (State.runMst_wf h)
  · exact State.completed_wf (State.runClr_wf h)
  · exact State.settle_wf (State.completed_wf (State.runRd_wf h))
  · exact State.settle_wf (State.completed_wf (State.runStat_wf h))
  · exact State.settle_wf (State.completed_wf (State.runAccdat_wf h))
  · exact State.settle_wf (State.completed_wf (State.runAccstat_wf h))
  · exact State.completed_wf h

theorem performDue_canonical {s : State} {q : Nat} {k : MKind} (h : Memory.wf s.mem = true) :
    Canonical (performDue s q k) := by
  unfold performDue
  split
  · exact canonical_next (State.performCmd_wf h)
  · exact canonical_next h

theorem performAcc_canonical {s : State} {uid lane : Nat} {v : Word} {k : MKind} (h : Memory.wf s.mem = true) :
    Canonical (performAcc s uid lane v k) := by
  unfold performAcc
  split
  · split
    · exact canonical_next (State.performCmd_wf h)
    · exact canonical_next h
  · exact canonical_next h

theorem State.dropFaulted_wf {s : State} {m : MCmd} (h : Memory.wf s.mem = true) :
    Memory.wf (State.dropFaulted s m).mem = true := by
  unfold State.dropFaulted
  split
  · exact State.completed_wf h
  · exact State.completed_wf h
  · exact State.completed_wf h
  · exact State.completed_wf (State.onQuarter_wf h)
  · exact State.settle_wf (State.completed_wf (State.onLane_wf h))
  · exact State.settle_wf (State.completed_wf (State.onLane_wf h))
  · exact h
  · exact h
  · exact h
  · exact h

theorem execArrayUncorrectableError_canonical {qtr : Nat} {inPlane shadow : Bool} {row entry : Nat} {s : State} (h :
    Memory.wf s.mem = true) :
    Canonical (execArrayUncorrectableError qtr inPlane shadow row entry s) := by
  unfold execArrayUncorrectableError
  dsimp only
  split
  · split
    · exact canonical_next (State.async_wf (State.dropFaulted_wf (State.onQuarter_wf h)))
    · exact canonical_next (State.dropFaulted_wf (State.onQuarter_wf h))
  · exact canonical_next (State.onQuarter_wf h)

/-! ## Engine -/

theorem State.touchGroup_wf {s : State} {wn g : Nat} (h : Memory.wf s.mem = true) :
    Memory.wf (State.touchGroup s wn g).mem = true := by
  unfold State.touchGroup
  split
  · exact h
  · split
    · exact h
    · dsimp only
      split
      · exact State.devTouch_wf (State.devTouch_wf h)
      · exact State.devTouch_wf h

theorem State.nextInstance_wf {s : State} {wn g : Nat} (h : Memory.wf s.mem = true) :
    Memory.wf (State.nextInstance s wn g).2.mem = true := by
  unfold State.nextInstance
  split
  · exact State.onWorld_wf (State.touchGroup_wf h)
  · exact State.touchGroup_wf h

theorem State.enqueue_wf {s : State} {c : Crew} {u : BUnit} {tt : Thread} {cmd : Cmd} {idx : Nat} {ch : Chan} {w : List
    Word} {bytes : Nat} {claims : List Claim} (h : Memory.wf s.mem = true) :
    Memory.wf (State.enqueue s c u tt cmd idx ch w bytes claims).mem = true := by
  unfold State.enqueue
  split
  dsimp only
  refine State.startNext_wf ?_
  dsimp only
  split
  · exact State.nextInstance_wf (State.onCrew_wf (State.onLaunch_wf (State.onUnit_wf (wf_snd ‹_› (State.fresh_wf
      h)))))
  · exact State.nextInstance_wf (State.onCrew_wf (State.onLaunch_wf (State.onUnit_wf (wf_snd ‹_› (State.fresh_wf
      h)))))
  · exact State.nextInstance_wf (State.onCrew_wf (State.onLaunch_wf (State.onUnit_wf (wf_snd ‹_› (State.fresh_wf
      h)))))
  · exact State.onCrew_wf (State.onLaunch_wf (State.onUnit_wf (wf_snd ‹_› (State.fresh_wf h))))

theorem State.issueEntry_wf {s : State} {e : Env} {c : Crew} {u : BUnit} {tt : Thread} {cmd : Cmd} {idx : Nat} {w :
    List Word} {rq : EReq} {ring : List FRange} {read : Option Trap} (h : Memory.wf s.mem = true) :
    Memory.wf (State.issueEntry s e c u tt cmd idx w rq ring read).1.mem = true := by
  unfold State.issueEntry
  dsimp only
  split
  · exact h
  · split
    · exact h
    · split
      · exact h
      · split
        · exact h
        · split
          · exact h
          · split
            · exact State.drainLane_wf h
            · exact State.enqueue_wf (State.syncFor_wf (State.released_wf (State.drainLane_wf h)))

theorem engineLane_wf {cmd : Cmd} {idx aF : Nat} {e : Env} {c : Crew} {tt : Thread} {s : State} (h : Memory.wf s.mem =
    true) :
    Memory.wf (engineLane cmd idx aF e c tt s).1.mem = true := by
  unfold engineLane
  split
  · exact h
  · split
    · exact h
    · dsimp only
      split
      · exact h
      · split
        · exact h
        · split
          · split
            · exact State.drainLane_wf h
            · split
              · exact State.drainLane_wf h
              · split
                · exact State.drainLane_wf h
                · exact State.issueEntry_wf (State.drainLane_wf h)
          · split
            · exact State.drainLane_wf h
            · split
              · exact State.drainLane_wf h
              · split
                · exact State.drainLane_wf h
                · exact State.issueEntry_wf (State.drainLane_wf h)

theorem execEngine_canonical {word : Word} {sw drip : Bool} {cmd : Cmd} {ch : BitVec 6} {a : BitVec 7} {s : State} (h
    : Memory.wf s.mem = true) :
    Canonical (execEngine word sw drip cmd ch a s) := by
  unfold execEngine
  refine execLanes_canonical ?_ ?_
  · exact h
  · intro e c t s h'
    exact engineLane_wf (h')

theorem fenceLane_wf {cmd : Cmd} {idx : Nat} {other : Option Nat} {words : BUnit → List Word} {e : Env} {c : Crew} {tt :
    Thread} {s : State} (h : Memory.wf s.mem = true) :
    Memory.wf (fenceLane cmd idx other words e c tt s).1.mem = true := by
  unfold fenceLane
  split
  · exact h
  · split
    · exact h
    · split
      · exact h
      · split
        · exact h
        · exact State.issueEntry_wf h

theorem execQfence_canonical {sw : Bool} {ch : BitVec 6} {m : BitVec 4} {s : State} (h : Memory.wf s.mem = true) :
    Canonical (execQfence sw ch m s) := by
  unfold execQfence
  refine execLanes_canonical ?_ ?_
  · exact h
  · intro e c t s h'
    split
    · exact h'
    · exact fenceLane_wf (h')

theorem execQwait_canonical {sw : Bool} {x : BitVec 6} {a : BitVec 7} {y : BitVec 6} {s : State} (h : Memory.wf s.mem
    = true) :
    Canonical (execQwait sw x a y s) := by
  unfold execQwait
  refine execLanes_canonical ?_ ?_
  · exact h
  · intro e c t s h'
    exact fenceLane_wf (h')

theorem cnclLane_wf {level : Nat} {a d : BitVec 7} {e : Env} {c : Crew} {tt : Thread} {s : State} (h : Memory.wf s.mem
    = true) :
    Memory.wf (cnclLane level a d e c tt s).1.mem = true := by
  unfold cnclLane
  split
  · exact h
  · exact State.onLane_wf (State.cancelLevel_wf (State.syncFor_wf (State.released_wf (State.drainLane_wf h))))

theorem execCncl_canonical {sw : Bool} {l : BitVec 2} {a d : BitVec 7} {s : State} (h : Memory.wf s.mem = true) :
    Canonical (execCncl sw l a d s) := by
  unfold execCncl
  dsimp only
  refine issue_canonical ?_ ?_
  · exact h
  · intro e k0 c s h'
    refine State.cnclEnd_wf ?_
    refine runSet_wf ?_ ?_ ?_
    · intro e c ts s h
      exact State.cnclBegin_wf h
    · intro s0 e c t s h h
      exact cnclLane_wf h
    · exact h'

theorem State.probe_wf {s : State} {e : Entry} {x1 : List (Nat × Nat × Nat × AccKind)} (h : Memory.wf s.mem = true) : Memory.wf (State.probe s e x1).1.mem = true := by
  induction x1 generalizing s with
  | nil =>
    exact h
  | cons y l ih =>
    obtain ⟨rg, va, len, k⟩ := y
    unfold State.probe
    split
    · apply ih
      exact wf_fst ‹_› (State.cmdTargets_wf h)
    · exact wf_fst ‹_› (State.cmdTargets_wf h)
    · split
      · dsimp only
        refine wf_fst ‹_› ?_
        apply ih
        exact wf_fst ‹_› (State.cmdTargets_wf h)
      · dsimp only
        refine wf_fst ‹_› ?_
        apply ih
        exact wf_fst ‹_› (State.cmdTargets_wf h)
    · exact wf_fst ‹_› (State.cmdTargets_wf h)

theorem State.engOutcome_wf {s : State} {id : Nat} {r : EngRes Unit} {go : State → State} (hs : Memory.wf s.mem = true)
    (hgo : ∀ s₁, Memory.wf s₁.mem = true → Memory.wf (go s₁).mem = true) :
    Memory.wf (State.engOutcome s id r go).mem = true := by
  unfold State.engOutcome
  dsimp only
  split
  · apply hgo
    exact hs
  · exact State.finishEntry_wf hs
  · exact State.finishEntry_wf hs
  · exact State.engineWait_wf hs

theorem State.beginCopy_wf {s : State} {id : Nat} (h : Memory.wf s.mem = true) :
    Memory.wf (State.beginCopy s id).mem = true := by
  unfold State.beginCopy
  split
  · exact h
  · split
    · exact h
    · split
      refine State.engOutcome_wf ?_ ?_
      · exact wf_fst ‹_› (State.probe_wf h)
      · intro s₁ h'
        exact State.arm_wf (State.onEntry_wf (h'))

theorem State.startCopy_wf {s : State} {e : Entry} (h : Memory.wf s.mem = true) :
    Memory.wf (State.startCopy s e).mem = true := by
  unfold State.startCopy
  split
  · dsimp only
    split
    · exact h
    · refine State.beginCopy_wf ?_
      refine State.cbSettle_wf ?_
      split
      · exact State.onEntry_wf (State.onEntry_wf (State.onCbuf_wf h))
      · exact State.onEntry_wf (State.onCbuf_wf h)
  · exact State.beginCopy_wf h

theorem State.fillSlot_wf {s : State} {e : Entry} (h : Memory.wf s.mem = true) :
    Memory.wf (State.fillSlot s e).mem = true := by
  unfold State.fillSlot
  split
  · exact h
  · exact State.cbChanged_wf (State.onCbuf_wf h)

theorem State.follow_wf {s : State} {e : Entry} {u : BUnit} (h : Memory.wf s.mem = true) :
    Memory.wf (State.follow s e u).mem = true := by
  unfold State.follow
  dsimp only
  split
  · split
    · exact State.finishEntry_wf h
    · exact State.enterOrder_wf (State.mldIssued_wf (State.onEntry_wf (State.fresh_wf h)))
  · split
    · exact State.finishEntry_wf h
    · exact State.enterOrder_wf (State.onEntry_wf (State.fresh_wf h))

theorem execCpyComplete_canonical {entry : Nat} {s : State} (h : Memory.wf s.mem = true) :
    Canonical (execCpyComplete entry s) := by
  unfold execCpyComplete
  split
  · exact canonical_next h
  · split
    · split
      refine canonical_next ?_
      refine State.engOutcome_wf ?_ ?_
      · exact wf_fst ‹_› (State.moveCopy_wf h)
      · intro s₁ h'
        dsimp only
        split
        · exact State.follow_wf (State.fillSlot_wf (h'))
        · exact State.finishEntry_wf (State.fillSlot_wf (h'))
    · split
      refine canonical_next ?_
      refine State.engOutcome_wf ?_ ?_
      · exact wf_fst ‹_› (State.moveCopy_wf h)
      · intro s₁ h'
        dsimp only
        split
        · exact State.follow_wf (State.fillSlot_wf (h'))
        · exact State.finishEntry_wf (State.fillSlot_wf (h'))
    · split
      refine canonical_next ?_
      refine State.engOutcome_wf ?_ ?_
      · exact wf_fst ‹_› (State.moveCopy_wf h)
      · intro s₁ h'
        dsimp only
        split <;> exact State.follow_wf (State.fillSlot_wf (h'))
    · exact canonical_next h

theorem State.sideTargets_wf {s : State} {e : Entry} {d : Side} {k : AccKind} {off n : Nat} (h : Memory.wf s.mem =
    true) :
    Memory.wf (State.sideTargets s e d k off n).1.mem = true := by
  unfold State.sideTargets
  exact State.cmdTargets_wf h

theorem State.redOld_wf {s : State} {e : Entry} {u : BUnit} {d : Side} {off n : Nat} (h : Memory.wf s.mem = true) :
    Memory.wf (State.redOld s e u d off n).1.mem = true := by
  unfold State.redOld
  split
  · exact h
  · split <;> exact wf_fst ‹_› (State.sideTargets_wf h)

theorem execCpyredChunkApply_canonical {entry : Nat} {s : State} (h : Memory.wf s.mem = true) :
    Canonical (execCpyredChunkApply entry s) := by
  unfold execCpyredChunkApply
  split
  · exact canonical_next h
  · split
    · dsimp only
      split
      · split
        · split
          · exact canonical_next (State.finishEntry_wf (wf_fst ‹_› (State.readRow_wf h)))
          · split
            · refine canonical_next ?_
              split
              · refine State.finishEntry_wf ?_
                refine State.onEntry_wf ?_
                split
                · exact State.spadWrite_wf (wf_fst ‹_› (State.redOld_wf (wf_fst ‹_› (State.readRow_wf h))))
                · exact State.cmdWrite_wf (wf_fst ‹_› (State.redOld_wf (wf_fst ‹_› (State.readRow_wf h))))
              · refine State.arm_wf ?_
                refine State.onEntry_wf ?_
                split
                · exact State.spadWrite_wf (wf_fst ‹_› (State.redOld_wf (wf_fst ‹_› (State.readRow_wf h))))
                · exact State.cmdWrite_wf (wf_fst ‹_› (State.redOld_wf (wf_fst ‹_› (State.readRow_wf h))))
            · exact canonical_next (State.finishEntry_wf (wf_fst ‹_› (State.redOld_wf (wf_fst ‹_› (State.readRow_wf
                h)))))
            · exact canonical_next (State.engineWait_wf (wf_fst ‹_› (State.redOld_wf (wf_fst ‹_› (State.readRow_wf
                h)))))
            · exact canonical_next (State.finishEntry_wf (wf_fst ‹_› (State.redOld_wf (wf_fst ‹_› (State.readRow_wf
                h)))))
        · split
          · exact canonical_next (State.finishEntry_wf (wf_fst ‹_› (State.readRow_wf h)))
          · split
            · refine canonical_next ?_
              split
              · refine State.finishEntry_wf ?_
                refine State.onEntry_wf ?_
                split
                · exact State.spadWrite_wf (wf_fst ‹_› (State.redOld_wf (wf_fst ‹_› (State.readRow_wf h))))
                · exact State.cmdWrite_wf (wf_fst ‹_› (State.redOld_wf (wf_fst ‹_› (State.readRow_wf h))))
              · refine State.arm_wf ?_
                refine State.onEntry_wf ?_
                split
                · exact State.spadWrite_wf (wf_fst ‹_› (State.redOld_wf (wf_fst ‹_› (State.readRow_wf h))))
                · exact State.cmdWrite_wf (wf_fst ‹_› (State.redOld_wf (wf_fst ‹_› (State.readRow_wf h))))
            · exact canonical_next (State.finishEntry_wf (wf_fst ‹_› (State.redOld_wf (wf_fst ‹_› (State.readRow_wf
                h)))))
            · exact canonical_next (State.engineWait_wf (wf_fst ‹_› (State.redOld_wf (wf_fst ‹_› (State.readRow_wf
                h)))))
            · exact canonical_next (State.finishEntry_wf (wf_fst ‹_› (State.redOld_wf (wf_fst ‹_› (State.readRow_wf
                h)))))
      · exact canonical_next (State.finishEntry_wf (wf_fst ‹_› (State.readRow_wf h)))
      · exact canonical_next (State.engineWait_wf (wf_fst ‹_› (State.readRow_wf h)))
      · exact canonical_next (State.finishEntry_wf (wf_fst ‹_› (State.readRow_wf h)))
    · exact canonical_next h

theorem execQfenceComplete_canonical {entry : Nat} {s : State} (h : Memory.wf s.mem = true) :
    Canonical (execQfenceComplete entry s) := by
  unfold execQfenceComplete
  split
  · exact canonical_next h
  · refine canonical_next ?_
    split
    · exact State.finishEntry_wf h
    · exact h

theorem execQwaitComplete_canonical {entry : Nat} {s : State} (h : Memory.wf s.mem = true) :
    Canonical (execQwaitComplete entry s) := by
  unfold execQwaitComplete
  split
  · exact canonical_next h
  · split
    · exact canonical_next h
    · dsimp only
      refine canonical_next ?_
      split
      · exact State.finishEntry_wf h
      · exact h

/-! ## Handler -/

theorem State.sendCmd_wf {s : State} {cls : Nat} {e : Entry} {part : Nat} {payload : List Byte} (h : Memory.wf s.mem =
    true) :
    Memory.wf (State.sendCmd s cls e part payload).mem = true := by
  unfold State.sendCmd
  split
  · exact State.send_wf h
  · split
    · exact State.transmitPart_wf (State.send_wf h)
    · exact State.say_wf h

theorem State.readGroups_wf {s : State} {e : Entry} {x1 : List Nat} (h : Memory.wf s.mem = true) : Memory.wf (State.readGroups s e x1).1.mem = true := by
  induction x1 generalizing s with
  | nil =>
    exact h
  | cons y l ih =>
    unfold State.readGroups
    split
    dsimp only
    split
    · split
      · dsimp only
        refine wf_fst ‹_› ?_
        apply ih
        exact wf_fst ‹_› (State.cmdRead_wf h)
      · dsimp only
        refine wf_fst ‹_› ?_
        apply ih
        exact wf_fst ‹_› (State.cmdRead_wf h)
    · exact wf_fst ‹_› (State.cmdRead_wf h)
    · exact wf_fst ‹_› (State.cmdRead_wf h)
    · exact wf_fst ‹_› (State.cmdRead_wf h)

theorem State.askBurst_wf {s : State} {e : Entry} {b : Nat} (h : Memory.wf s.mem = true) :
    Memory.wf (State.askBurst s e b).mem = true := by
  unfold State.askBurst
  exact State.onEntry_wf (State.sendCmd_wf h)

theorem State.fetchNext_wf {s : State} {id : Nat} (h : Memory.wf s.mem = true) :
    Memory.wf (State.fetchNext s id).mem = true := by
  unfold State.fetchNext
  split
  · exact h
  · split
    · exact h
    · split
      · split
        · exact State.arm_wf h
        · exact h
      · exact foldl_wf (fun s x h => State.askBurst_wf h) h

theorem State.startHread_wf {s : State} {e : Entry} (h : Memory.wf s.mem = true) :
    Memory.wf (State.startHread s e).mem = true := by
  unfold State.startHread
  split
  exact State.fetchNext_wf (State.onEntry_wf h)

theorem State.burstFailed_wf {s : State} {id b status reason : Nat} (h : Memory.wf s.mem = true) :
    Memory.wf (State.burstFailed s id b status reason).mem = true := by
  unfold State.burstFailed
  exact State.hreadCheck_wf (State.fetchNext_wf (State.onEntry_wf h))

theorem State.burstError_wf {s : State} {id b status reason : Nat} {final : Bool} (h : Memory.wf s.mem = true) :
    Memory.wf (State.burstError s id b status reason final).mem = true := by
  unfold State.burstError
  split
  · exact h
  · split
    · exact h
    · split
      · exact State.burstFailed_wf h
      · dsimp only
        split
        · split
          · exact State.onEntry_wf (State.onEntry_wf h)
          · split
            · exact State.arm_wf (State.onEntry_wf (State.onEntry_wf h))
            · exact State.askBurst_wf (State.onEntry_wf (State.onEntry_wf h))
        · split
          · exact State.onEntry_wf h
          · split
            · exact State.arm_wf (State.onEntry_wf h)
            · exact State.askBurst_wf (State.onEntry_wf h)

theorem State.queueBurst_wf {s : State} {e : Entry} {b : Nat} {bytes : List Byte} (h : Memory.wf s.mem = true) :
    Memory.wf (State.queueBurst s e b bytes).mem = true := by
  unfold State.queueBurst
  dsimp only
  refine foldl_wf (fun s x h => ?_) ?_
  · exact State.arm_wf h
  · refine State.fetchNext_wf ?_
    exact h

theorem execHreadBurstArrive_canonical {entry burst : Nat} {bytes : List Byte} {s : State} (h : Memory.wf s.mem = true)
    :
    Canonical (execHreadBurstArrive entry burst bytes s) := by
  unfold execHreadBurstArrive
  split
  · exact canonical_next h
  · split
    · exact canonical_next h
    · split
      · exact canonical_next (State.arm_wf h)
      · split
        · split
          · exact canonical_next (State.queueBurst_wf (wf_fst ‹_› (State.readGroups_wf h)))
          · exact canonical_next (State.burstFailed_wf (wf_fst ‹_› (State.readGroups_wf h)))
          · exact canonical_next (State.burstFailed_wf (wf_fst ‹_› (State.readGroups_wf h)))
          · exact canonical_next (State.fetchNext_wf (State.onEntry_wf (State.engineWait_wf (wf_fst ‹_›
              (State.readGroups_wf h)))))
        · exact canonical_next (State.queueBurst_wf h)

theorem execHreadBurstFetchFail_canonical {entry burst status reason : Nat} {final : Bool} {s : State} (h : Memory.wf
    s.mem = true) :
    Canonical (execHreadBurstFetchFail entry burst status reason final s) := by
  unfold execHreadBurstFetchFail
  split
  · exact canonical_next h
  · split
    · exact canonical_next h
    · exact canonical_next (State.burstError_wf h)

theorem State.refetch_wf {s : State} {core : Nat} (h : Memory.wf s.mem = true) :
    Memory.wf (State.refetch s core).mem = true := by
  unfold State.refetch
  exact foldl_wf (fun s x h => State.fetchNext_wf h) h

theorem execDripBirth_canonical {core quarter : Nat} {s : State} (h : Memory.wf s.mem = true) :
    Canonical (execDripBirth core quarter s) := by
  unfold execDripBirth
  split
  · refine canonical_next ?_
    exact h
  · split
    · refine canonical_next ?_
      exact h
    · split
      · refine canonical_next ?_
        exact h
      · split
        · refine canonical_next ?_
          exact h
        · split
          refine canonical_next ?_
          refine State.refetch_wf ?_
          refine State.onEntry_wf ?_
          dsimp only
          refine wf_snd ‹_› ?_
          refine State.fresh_wf ?_
          exact h

/-! ## Exchange -/

theorem State.engEnd_wf {s : State} {id status reason : Nat} (h : Memory.wf s.mem = true) :
    Memory.wf (State.engEnd s id status reason).mem = true := by
  unfold State.engEnd
  split
  · exact h
  · exact State.finishEntry_wf (State.withdraw_wf h)

theorem State.engAgain_wf {α : Type} {s : State} {id : Nat} {ev : Event} {r : EngRes α} {go : State → α → State} (hs :
    Memory.wf s.mem = true) (hgo : ∀ s₁ x₁, Memory.wf s₁.mem = true → Memory.wf (go s₁ x₁).mem = true) :
    Memory.wf (State.engAgain s id ev r go).mem = true := by
  unfold State.engAgain
  split
  · apply hgo
    exact hs
  · exact State.engEnd_wf hs
  · exact State.engEnd_wf hs
  · exact State.arm_wf (State.engineWait_wf hs)

theorem State.readAt_wf {s : State} {e : Entry} {spad : Bool} {mode a n : Nat} (h : Memory.wf s.mem = true) :
    Memory.wf (State.readAt s e spad mode a n).1.mem = true := by
  unfold State.readAt
  exact State.readRow_wf h

theorem State.readAll_wf {s : State} {e : Entry} {x1 : List (Bool × Nat × Nat)} (h : Memory.wf s.mem = true) : Memory.wf (State.readAll s e x1).1.mem = true := by
  induction x1 generalizing s with
  | nil =>
    exact h
  | cons y l ih =>
    obtain ⟨spad, a, n⟩ := y
    unfold State.readAll
    split
    · split
      · dsimp only
        refine wf_fst ‹_› ?_
        apply ih
        exact wf_fst ‹_› (State.readAt_wf h)
      · dsimp only
        refine wf_fst ‹_› ?_
        apply ih
        exact wf_fst ‹_› (State.readAt_wf h)
    · exact wf_fst ‹_› (State.readAt_wf h)
    · exact wf_fst ‹_› (State.readAt_wf h)
    · exact wf_fst ‹_› (State.readAt_wf h)

theorem State.writeAll_wf {s : State} {e : Entry} {l : List (Bool × Nat × Nat × List Byte)} (h : Memory.wf s.mem = true) :
    Memory.wf (State.writeAll s e l).1.mem = true := by
  unfold State.writeAll
  split
  · dsimp only
    refine foldl_wf (fun s x h => ?_) ?_
    · split
      · exact State.writeRow_wf h
      · exact State.cmdWrite_wf h
    · exact wf_fst ‹_› (State.probe_wf h)
  · exact wf_fst ‹_› (State.probe_wf h)

theorem State.engineHeld_wf {s : State} {id : Nat} {ev : Event} (h : Memory.wf s.mem = true) :
    Memory.wf (State.engineHeld s id ev).mem = true := by
  unfold State.engineHeld
  split
  · split
    · exact State.arm_wf h
    · exact h
  · exact h

theorem execXsortComplete_canonical {entry : Nat} {s : State} (h : Memory.wf s.mem = true) :
    Canonical (execXsortComplete entry s) := by
  unfold execXsortComplete
  split
  · exact canonical_next (State.engineHeld_wf h)
  · dsimp only
    refine canonical_next ?_
    refine State.engAgain_wf ?_ ?_
    · exact State.readAll_wf h
    · intro s₁ x₁ h'
      split
      · exact State.finishEntry_wf (h')
      · refine State.engAgain_wf ?_ ?_
        · exact State.writeAll_wf (h')
        · intro s₁ x₁ h
          exact State.finishEntry_wf h

theorem State.attestTree_wf {s : State} {wn : Nat} {b : List Byte} (h : Memory.wf s.mem = true) :
    Memory.wf (State.attestTree s wn b).mem = true := by
  unfold State.attestTree
  split
  · exact h
  · split
    · exact h
    · exact foldl_wf (fun s x h => State.arm_wf h) h

theorem State.attestTrees_wf {s : State} {wn : Nat} (h : Memory.wf s.mem = true) :
    Memory.wf (State.attestTrees s wn).mem = true := by
  unfold State.attestTrees
  split
  · exact h
  · split
    · exact h
    · refine foldl_wf (fun s x h => ?_) ?_
      · split
        · exact State.attestTree_wf h
        · exact h
      · exact h

theorem State.startGroup_wf {s : State} {e : Entry} (h : Memory.wf s.mem = true) :
    Memory.wf (State.startGroup s e).mem = true := by
  unfold State.startGroup
  split
  · exact State.finishEntry_wf h
  · dsimp only
    split
    · exact State.arm_wf (State.attestTree_wf (State.onEntry_wf (State.devTouch_wf (State.touchGroup_wf h))))
    · exact State.toRanks_wf (State.attestTree_wf (State.onEntry_wf (State.devTouch_wf (State.touchGroup_wf h))))

theorem State.gangStarted_wf {s : State} {e : Entry} {me : Nat} (h : Memory.wf s.mem = true) :
    Memory.wf (State.gangStarted s e me).mem = true := by
  unfold State.gangStarted
  dsimp only
  split
  · exact State.arm_wf (State.toRanks_wf h)
  · exact h

theorem State.readMeta_wf {s : State} {e : Entry} {p : Nat} (h : Memory.wf s.mem = true) :
    Memory.wf (State.readMeta s e p).1.mem = true := by
  unfold State.readMeta
  exact State.cmdRead_wf h

theorem State.a2avStarted_wf {s : State} {e : Entry} {p : Nat} {ev : Event} (h : Memory.wf s.mem = true) :
    Memory.wf (State.a2avStarted s e p ev).mem = true := by
  unfold State.a2avStarted
  split
  · exact State.arm_wf h
  · split
    refine State.engAgain_wf ?_ ?_
    · exact wf_fst ‹_› (State.readMeta_wf h)
    · intro s₁ x₁ h'
      exact State.toRanks_wf (State.onEntry_wf (h'))

theorem State.contribute_wf {s : State} {e : Entry} {b : List Byte} {rs : List Nat} {me path : Nat} {l : List Byte} (h :
    Memory.wf s.mem = true) :
    Memory.wf (State.contribute s e b rs me path l).mem = true := by
  unfold State.contribute
  dsimp only
  split
  · split
    · exact State.transmitPart_wf (State.send_wf h)
    · exact h
  · split
    · exact State.toRank_wf h
    · exact h

theorem State.areduceStarted_wf {s : State} {e : Entry} {b : List Byte} {rs : List Nat} {me pa fb : Nat} {ev : Event} (h
    : Memory.wf s.mem = true) :
    Memory.wf (State.areduceStarted s e b rs me pa fb ev).mem = true := by
  unfold State.areduceStarted
  split
  · exact State.arm_wf (State.onEntry_wf h)
  · split
    refine State.engAgain_wf ?_ ?_
    · exact wf_fst ‹_› (State.cmdRead_wf h)
    · intro s₁ x₁ h'
      dsimp only
      refine State.contribute_wf ?_
      split
      · exact State.toRanks_wf (State.onEntry_wf (h'))
      · exact State.onEntry_wf (h')

theorem execGroupInstanceBegin_canonical {entry : Nat} {kinds counts noinnets : List Nat} {path fallback : Nat} {s : State}
    (h : Memory.wf s.mem = true) :
    Canonical (execGroupInstanceBegin entry kinds counts noinnets path fallback s) := by
  unfold execGroupInstanceBegin
  dsimp only
  split
  · exact canonical_next h
  · split
    · exact canonical_next (State.arm_wf h)
    · split
      · exact canonical_next h
      · split
        · exact canonical_next (State.finishEntry_wf h)
        · split
          · exact canonical_next (State.finishEntry_wf h)
          · split
            · exact canonical_next (State.finishEntry_wf h)
            · split
              · exact canonical_next (State.finishEntry_wf h)
              · split
                · exact canonical_next (State.finishEntry_wf h)
                · refine canonical_next ?_
                  split
                  · refine State.a2avStarted_wf ?_
                    split
                    · exact State.onEntry_wf h
                    · exact h
                  · exact State.areduceStarted_wf h
                  · exact State.gangStarted_wf (State.onEntry_wf h)

theorem execGroupWithdrawal_canonical {entry rank : Nat} {s : State} (h : Memory.wf s.mem = true) :
    Canonical (execGroupWithdrawal entry rank s) := by
  unfold execGroupWithdrawal
  split
  · exact canonical_next h
  · split
    · exact canonical_next (State.finishEntry_wf (State.dropWaiter_wf (State.dropGangs_wf h)))
    · exact canonical_next h

theorem State.readParts_wf {s : State} {e : Entry} {x1 : List (Nat × Nat)} (h : Memory.wf s.mem = true) : Memory.wf (State.readParts s e x1).1.mem = true := by
  induction x1 generalizing s with
  | nil =>
    exact h
  | cons y l ih =>
    obtain ⟨d, n⟩ := y
    unfold State.readParts
    split
    · split
      · dsimp only
        refine wf_fst ‹_› ?_
        apply ih
        exact wf_fst ‹_› (State.cmdRead_wf h)
      · dsimp only
        refine wf_fst ‹_› ?_
        apply ih
        exact wf_fst ‹_› (State.cmdRead_wf h)
    · exact wf_fst ‹_› (State.cmdRead_wf h)
    · exact wf_fst ‹_› (State.cmdRead_wf h)
    · exact wf_fst ‹_› (State.cmdRead_wf h)

theorem State.a2avCheck_wf {s : State} {id : Nat} (h : Memory.wf s.mem = true) :
    Memory.wf (State.a2avCheck s id).mem = true := by
  unfold State.a2avCheck
  split
  · exact h
  · split
    · split
      · exact State.finishEntry_wf h
      · exact h
    · exact h

theorem execA2avCountExchange_canonical {entry : Nat} {metas : List (List Nat)} {s : State} (h : Memory.wf s.mem = true) :
    Canonical (execA2avCountExchange entry metas s) := by
  unfold execA2avCountExchange
  dsimp only
  split
  · exact canonical_next (State.engineHeld_wf h)
  · split
    · exact canonical_next h
    · split
      · exact canonical_next (State.finishEntry_wf h)
      · split
        · refine canonical_next ?_
          refine State.engAgain_wf ?_ ?_
          · exact State.readMeta_wf h
          · intro s₁ x₁ h'
            split
            · exact State.finishEntry_wf (h')
            · refine State.engAgain_wf ?_ ?_
              · exact State.readParts_wf (h')
              · intro s₁ x₁ h
                refine State.engAgain_wf ?_ ?_
                · exact State.writeAll_wf h
                · intro s₁ x₁ h
                  exact foldl_wf (fun s x h => State.arm_wf h) (foldl_wf (fun s x h => State.toRank_wf h)
                      (State.onEntry_wf h))
        · exact canonical_next h

theorem execA2avPartPlaced_canonical {entry sender : Nat} {bytes : List Byte} {s : State} (h : Memory.wf s.mem = true) :
    Canonical (execA2avPartPlaced entry sender bytes s) := by
  unfold execA2avPartPlaced
  dsimp only
  split
  · exact canonical_next (State.engineHeld_wf h)
  · split
    · split
      · exact canonical_next h
      · split
        · exact canonical_next (State.finishEntry_wf h)
        · refine canonical_next ?_
          refine State.engAgain_wf ?_ ?_
          · exact State.cmdRead_wf h
          · intro s₁ x₁ h'
            refine State.engAgain_wf ?_ ?_
            · exact State.writeAll_wf (h')
            · intro s₁ x₁ h
              exact State.a2avCheck_wf (State.onEntry_wf h)
    · exact canonical_next h

theorem State.passOn_wf {s : State} {e : Entry} {rs : List Nat} {me : Nat} {ls : List (List Byte)} (h : Memory.wf s.mem =
    true) :
    Memory.wf (State.passOn s e rs me ls).mem = true := by
  unfold State.passOn
  exact foldl_wf (fun s x h => State.toRank_wf h) h

theorem execAreduceComplete_canonical {entry : Nat} {contributions : List (List Byte)} {s : State} (h : Memory.wf s.mem
    = true) :
    Canonical (execAreduceComplete entry contributions s) := by
  unfold execAreduceComplete
  dsimp only
  split
  · exact canonical_next (State.engineHeld_wf h)
  · split
    · exact canonical_next h
    · split
      · exact canonical_next (State.finishEntry_wf h)
      · split
        · refine canonical_next ?_
          refine State.engAgain_wf ?_ ?_
          · exact State.cmdRead_wf h
          · intro s₁ x₁ h'
            split
            · exact h'
            · refine State.engAgain_wf ?_ ?_
              · exact State.writeAll_wf (h')
              · intro s₁ x₁ h
                exact State.finishEntry_wf (State.passOn_wf h)
        · exact canonical_next h

theorem State.touchWindow_wf {s : State} {w : World} {r : RmaReq} (h : Memory.wf s.mem = true) :
    Memory.wf (State.touchWindow s w r).mem = true := by
  unfold State.touchWindow
  split
  · exact h
  · dsimp only
    split
    · split
      · exact State.devTouch_wf h
      · exact foldl_wf (fun s x h => State.translate_wf h) (State.devTouch_wf h)
    · exact State.devTouch_wf h

theorem State.onRing_wf {s : State} {wn ring : Nat} {f : CmdRing → CmdRing} (h : Memory.wf s.mem = true) :
    Memory.wf (State.onRing s wn ring f).mem = true :=
  h

theorem State.ringTail_wf {s : State} {wn ring : Nat} {tail : Word} (h : Memory.wf s.mem = true) :
    Memory.wf (State.ringTail s wn ring tail).mem = true :=
  h

theorem State.rmaPerform_wf {s : State} {r : RmaReq} (h : Memory.wf s.mem = true) :
    Memory.wf (State.rmaPerform s r).1.mem = true := by
  unfold State.rmaPerform
  split
  · exact h
  · dsimp only
    split
    · exact h
    · split
      · split
        · exact h
        · split
          · exact State.touchWindow_wf h
          · split
            · exact State.touchWindow_wf h
            · split
              · split
                · exact State.touchWindow_wf h
                · split
                  · split
                    · split
                      · exact State.ringTail_wf (State.touchWindow_wf h)
                      · exact State.touchWindow_wf h
                    · exact State.touchWindow_wf h
                  · split
                    · exact State.touchWindow_wf h
                    · split
                      · exact State.storeParts_wf (foldl_wf (fun s x h => State.forget_wf h) (foldl_wf (fun s x h =>
                          State.useNp_wf h) (State.touchWindow_wf h)))
                      · exact foldl_wf (fun s x h => State.useNp_wf h) (State.touchWindow_wf h)
                      · exact foldl_wf (fun s x h => State.useNp_wf h) (State.touchWindow_wf h)
                      · exact State.storeParts_wf (foldl_wf (fun s x h => State.forget_wf h) (foldl_wf (fun s x h =>
                          State.useNp_wf h) (State.touchWindow_wf h)))
              · split
                · exact State.touchWindow_wf h
                · split
                  · split
                    · split
                      · exact State.ringTail_wf (State.touchWindow_wf h)
                      · exact State.touchWindow_wf h
                    · exact State.touchWindow_wf h
                  · split
                    · exact State.touchWindow_wf h
                    · split
                      · exact State.storeParts_wf (foldl_wf (fun s x h => State.forget_wf h) (foldl_wf (fun s x h =>
                          State.useNp_wf h) (State.touchWindow_wf h)))
                      · exact foldl_wf (fun s x h => State.useNp_wf h) (State.touchWindow_wf h)
                      · exact foldl_wf (fun s x h => State.useNp_wf h) (State.touchWindow_wf h)
                      · exact State.storeParts_wf (foldl_wf (fun s x h => State.forget_wf h) (foldl_wf (fun s x h =>
                          State.useNp_wf h) (State.touchWindow_wf h)))
              · split
                · exact State.touchWindow_wf h
                · split
                  · split
                    · split
                      · exact State.ringTail_wf (State.touchWindow_wf h)
                      · exact State.touchWindow_wf h
                    · exact State.touchWindow_wf h
                  · split
                    · exact State.touchWindow_wf h
                    · split
                      · exact State.storeParts_wf (foldl_wf (fun s x h => State.forget_wf h) (foldl_wf (fun s x h =>
                          State.useNp_wf h) (State.touchWindow_wf h)))
                      · exact foldl_wf (fun s x h => State.useNp_wf h) (State.touchWindow_wf h)
                      · exact foldl_wf (fun s x h => State.useNp_wf h) (State.touchWindow_wf h)
                      · exact State.storeParts_wf (foldl_wf (fun s x h => State.forget_wf h) (foldl_wf (fun s x h =>
                          State.useNp_wf h) (State.touchWindow_wf h)))
              · split
                · exact State.touchWindow_wf h
                · split
                  · split
                    · split
                      · exact State.ringTail_wf (State.touchWindow_wf h)
                      · exact State.touchWindow_wf h
                    · exact State.touchWindow_wf h
                  · split
                    · exact State.touchWindow_wf h
                    · split
                      · exact State.storeParts_wf (foldl_wf (fun s x h => State.forget_wf h) (foldl_wf (fun s x h =>
                          State.useNp_wf h) (State.touchWindow_wf h)))
                      · exact foldl_wf (fun s x h => State.useNp_wf h) (State.touchWindow_wf h)
                      · exact foldl_wf (fun s x h => State.useNp_wf h) (State.touchWindow_wf h)
                      · exact State.storeParts_wf (foldl_wf (fun s x h => State.forget_wf h) (foldl_wf (fun s x h =>
                          State.useNp_wf h) (State.touchWindow_wf h)))
      · split
        · exact h
        · split
          · exact State.touchWindow_wf h
          · split
            · exact State.touchWindow_wf h
            · split
              · split
                · exact State.touchWindow_wf h
                · split
                  · split
                    · split
                      · exact State.ringTail_wf (State.touchWindow_wf h)
                      · exact State.touchWindow_wf h
                    · exact State.touchWindow_wf h
                  · split
                    · exact State.touchWindow_wf h
                    · split
                      · exact State.storeParts_wf (foldl_wf (fun s x h => State.forget_wf h) (foldl_wf (fun s x h =>
                          State.useNp_wf h) (State.touchWindow_wf h)))
                      · exact foldl_wf (fun s x h => State.useNp_wf h) (State.touchWindow_wf h)
                      · exact foldl_wf (fun s x h => State.useNp_wf h) (State.touchWindow_wf h)
                      · exact State.storeParts_wf (foldl_wf (fun s x h => State.forget_wf h) (foldl_wf (fun s x h =>
                          State.useNp_wf h) (State.touchWindow_wf h)))
              · split
                · exact State.touchWindow_wf h
                · split
                  · split
                    · split
                      · exact State.ringTail_wf (State.touchWindow_wf h)
                      · exact State.touchWindow_wf h
                    · exact State.touchWindow_wf h
                  · split
                    · exact State.touchWindow_wf h
                    · split
                      · exact State.storeParts_wf (foldl_wf (fun s x h => State.forget_wf h) (foldl_wf (fun s x h =>
                          State.useNp_wf h) (State.touchWindow_wf h)))
                      · exact foldl_wf (fun s x h => State.useNp_wf h) (State.touchWindow_wf h)
                      · exact foldl_wf (fun s x h => State.useNp_wf h) (State.touchWindow_wf h)
                      · exact State.storeParts_wf (foldl_wf (fun s x h => State.forget_wf h) (foldl_wf (fun s x h =>
                          State.useNp_wf h) (State.touchWindow_wf h)))
              · split
                · exact State.touchWindow_wf h
                · split
                  · split
                    · split
                      · exact State.ringTail_wf (State.touchWindow_wf h)
                      · exact State.touchWindow_wf h
                    · exact State.touchWindow_wf h
                  · split
                    · exact State.touchWindow_wf h
                    · split
                      · exact State.storeParts_wf (foldl_wf (fun s x h => State.forget_wf h) (foldl_wf (fun s x h =>
                          State.useNp_wf h) (State.touchWindow_wf h)))
                      · exact foldl_wf (fun s x h => State.useNp_wf h) (State.touchWindow_wf h)
                      · exact foldl_wf (fun s x h => State.useNp_wf h) (State.touchWindow_wf h)
                      · exact State.storeParts_wf (foldl_wf (fun s x h => State.forget_wf h) (foldl_wf (fun s x h =>
                          State.useNp_wf h) (State.touchWindow_wf h)))
              · split
                · exact State.touchWindow_wf h
                · split
                  · split
                    · split
                      · exact State.ringTail_wf (State.touchWindow_wf h)
                      · exact State.touchWindow_wf h
                    · exact State.touchWindow_wf h
                  · split
                    · exact State.touchWindow_wf h
                    · split
                      · exact State.storeParts_wf (foldl_wf (fun s x h => State.forget_wf h) (foldl_wf (fun s x h =>
                          State.useNp_wf h) (State.touchWindow_wf h)))
                      · exact foldl_wf (fun s x h => State.useNp_wf h) (State.touchWindow_wf h)
                      · exact foldl_wf (fun s x h => State.useNp_wf h) (State.touchWindow_wf h)
                      · exact State.storeParts_wf (foldl_wf (fun s x h => State.forget_wf h) (foldl_wf (fun s x h =>
                          State.useNp_wf h) (State.touchWindow_wf h)))

theorem execRmaRequestReceive_canonical {req : RmaReq} {s : State} (h : Memory.wf s.mem = true) :
    Canonical (execRmaRequestReceive req s) := by
  unfold execRmaRequestReceive
  split
  exact canonical_next (State.say_wf (wf_fst ‹_› (State.rmaPerform_wf h)))

theorem State.writeLoc_wf {s : State} {e : Entry} {l : List Byte} (h : Memory.wf s.mem = true) :
    Memory.wf (State.writeLoc s e l).1.mem = true := by
  unfold State.writeLoc
  split
  exact State.writeRow_wf h

theorem State.startRma_wf {s : State} {e : Entry} (h : Memory.wf s.mem = true) :
    Memory.wf (State.startRma s e).mem = true := by
  unfold State.startRma
  split
  dsimp only
  refine State.engOutcome_wf ?_ ?_
  · split
    · exact h
    · exact State.probe_wf h
  · intro s₁ h'
    split
    · exact State.arm_wf (State.onEntry_wf (h'))
    · split
      · exact State.arm_wf (State.onEntry_wf (h'))
      · exact State.sendCmd_wf (State.onEntry_wf (h'))
    · split
      · exact State.arm_wf (State.onEntry_wf (h'))
      · exact State.sendCmd_wf (State.onEntry_wf (h'))
    · split
      · exact State.arm_wf (State.onEntry_wf (h'))
      · exact State.sendCmd_wf (State.onEntry_wf (h'))

theorem execRputComplete_canonical {entry : Nat} {s : State} (h : Memory.wf s.mem = true) :
    Canonical (execRputComplete entry s) := by
  unfold execRputComplete
  split
  · exact canonical_next (State.engineHeld_wf h)
  · split
    · exact canonical_next (State.finishEntry_wf h)
    · split
      split
      refine canonical_next ?_
      refine State.engAgain_wf ?_ ?_
      · exact wf_fst ‹_› (State.readAt_wf h)
      · intro s₁ x₁ h'
        split
        · split <;> exact State.finishEntry_wf (wf_fst ‹_› (State.rmaPerform_wf (h')))
        · exact State.arm_wf (State.onEntry_wf (State.sendCmd_wf (h')))

theorem execRgetComplete_canonical {entry : Nat} {bytes : List Byte} {s : State} (h : Memory.wf s.mem = true) :
    Canonical (execRgetComplete entry bytes s) := by
  unfold execRgetComplete
  dsimp only
  split
  · exact canonical_next (State.engineHeld_wf h)
  · split
    · refine canonical_next ?_
      refine State.finishEntry_wf ?_
      split
      · exact State.rmaPerform_wf h
      · exact h
    · split
      · refine canonical_next ?_
        split
        · exact State.rmaPerform_wf h
        · exact h
      · refine canonical_next ?_
        refine State.engAgain_wf ?_ ?_
        · refine State.writeLoc_wf ?_
          split
          · exact State.rmaPerform_wf h
          · exact h
        · intro s₁ x₁ h'
          exact State.finishEntry_wf (h')

theorem execRatomComplete_canonical {entry : Nat} {old : BitVec 64} {s : State} (h : Memory.wf s.mem = true) :
    Canonical (execRatomComplete entry old s) := by
  unfold execRatomComplete
  dsimp only
  split
  · exact canonical_next (State.engineHeld_wf h)
  · refine canonical_next ?_
    refine State.engAgain_wf ?_ ?_
    · split
      · exact h
      · exact State.probe_wf h
    · intro s₁ x₁ h'
      split
      · refine State.finishEntry_wf ?_
        split
        · exact State.rmaPerform_wf (h')
        · exact h'
      · refine State.finishEntry_wf ?_
        split
        · refine State.writeLoc_wf ?_
          split
          · exact State.rmaPerform_wf (h')
          · exact h'
        · split
          · exact State.rmaPerform_wf (h')
          · exact h'

theorem execRflushComplete_canonical {entry : Nat} {s : State} (h : Memory.wf s.mem = true) :
    Canonical (execRflushComplete entry s) := by
  unfold execRflushComplete
  split
  · exact canonical_next h
  · refine canonical_next ?_
    split
    · exact State.finishEntry_wf h
    · split
      · exact State.arm_wf h
      · exact State.finishEntry_wf h

/-! ## Roosts -/

theorem State.kvTouch_wf {s : State} {core : Nat} {q : Option Sequence} {i pos : Nat} (h : Memory.wf s.mem = true) :
    Memory.wf (State.kvTouch s core q i pos).mem = true := by
  unfold State.kvTouch
  split
  · exact State.useLines_wf h
  · exact h

theorem State.startAscents_wf {s : State} {id : Nat} (h : Memory.wf s.mem = true) :
    Memory.wf (State.startAscents s id).mem = true := by
  unfold State.startAscents
  split
  · exact h
  · dsimp only
    split
    · exact h
    · exact foldl_wf (fun s x h => State.startAscent_wf h) h

theorem State.roostReady_wf {s : State} {id : Nat} (h : Memory.wf s.mem = true) :
    Memory.wf (State.roostReady s id).mem = true := by
  unfold State.roostReady
  split
  · exact h
  · split
    · split
      · exact State.onRoost_wf (wf_fst ‹_› (State.submit_wf h))
      · exact State.interrupt_wf (State.freeRoost_wf (wf_fst ‹_› (State.submit_wf h)))
    · exact h

theorem State.descentCheck_wf {s : State} {id : Nat} (h : Memory.wf s.mem = true) :
    Memory.wf (State.descentCheck s id).mem = true := by
  unfold State.descentCheck
  split
  · exact h
  · dsimp only
    split
    · split
      · exact h
      · exact State.onRoost_wf h
    · split
      · exact h
      · exact State.onRoost_wf h
    · exact h

theorem State.descend_wf {s : State} {id dst : Nat} (h : Memory.wf s.mem = true) :
    Memory.wf (State.descend s id dst).mem = true := by
  unfold State.descend
  split
  · exact h
  · dsimp only
    refine State.descentCheck_wf ?_
    split
    · exact State.arm_wf (foldl_wf (fun s x h => State.itemDescends_wf h) h)
    · exact foldl_wf (fun s x h => State.itemDescends_wf h) h

theorem execRoostRegistered_canonical {entry : Nat} {s : State} (h : Memory.wf s.mem = true) :
    Canonical (execRoostRegistered entry s) := by
  unfold execRoostRegistered
  split
  · exact canonical_next (State.engineHeld_wf h)
  · dsimp only
    split
    · exact canonical_next (State.finishEntry_wf h)
    · split
      · exact canonical_next (State.finishEntry_wf h)
      · refine canonical_next ?_
        refine State.finishEntry_wf ?_
        refine State.arm_wf ?_
        exact h

theorem execRoostT1Expiry_canonical {roost : Nat} {s : State} (h : Memory.wf s.mem = true) :
    Canonical (execRoostT1Expiry roost s) := by
  unfold execRoostT1Expiry
  split
  · exact canonical_next h
  · split
    · exact canonical_next (State.arm_wf h)
    · split
      · dsimp only
        refine canonical_next ?_
        split
        · exact State.descend_wf (State.arm_wf (State.onRoost_wf h))
        · exact State.descentCheck_wf (State.arm_wf (State.onRoost_wf h))
      · exact canonical_next (State.descend_wf h)
      · exact canonical_next h

theorem execRoostT2Expiry_canonical {roost : Nat} {s : State} (h : Memory.wf s.mem = true) :
    Canonical (execRoostT2Expiry roost s) := by
  unfold execRoostT2Expiry
  split
  · exact canonical_next h
  · split
    · exact canonical_next (State.arm_wf h)
    · split
      · exact canonical_next (State.descend_wf (State.onRoost_wf h))
      · exact canonical_next (State.descend_wf h)
      · exact canonical_next h

theorem State.frameTaken_wf {s : State} {i : Nat} (h : Memory.wf s.mem = true) :
    Memory.wf (State.frameTaken s i).mem = true := by
  unfold State.frameTaken
  exact State.refill_wf (State.onFrame_wf (State.recallLines_wf h))

theorem State.itemLeft_wf {s : State} {id page : Nat} (h : Memory.wf s.mem = true) :
    Memory.wf (State.itemLeft s id page).mem = true := by
  unfold State.itemLeft
  refine foldl_wf (fun s x h => ?_) ?_
  · split
    · exact State.frameTaken_wf (State.setItemOut_wf h)
    · exact h
  · exact h

theorem State.itemStays_wf {s : State} {id page : Nat} (h : Memory.wf s.mem = true) :
    Memory.wf (State.itemStays s id page).mem = true := by
  unfold State.itemStays
  refine foldl_wf (fun s x h => ?_) ?_
  · split
    · split
      · exact State.onFrame_wf h
      · exact h
    · exact h
  · exact h

theorem State.itemFreed_wf {s : State} {id page : Nat} (h : Memory.wf s.mem = true) :
    Memory.wf (State.itemFreed s id page).mem = true := by
  unfold State.itemFreed
  dsimp only
  refine State.setItemTier_wf ?_
  refine State.setItemOut_wf ?_
  refine foldl_wf (fun s x h => ?_) ?_
  · split
    · split
      · exact State.frameTaken_wf h
      · exact h
    · exact h
  · exact h

theorem execPageDescentDone_canonical {roost page : Nat} {accepted : Bool} {s : State} (h : Memory.wf s.mem = true) :
    Canonical (execPageDescentDone roost page accepted s) := by
  unfold execPageDescentDone
  dsimp only
  split
  · exact canonical_next h
  · split
    · refine canonical_next ?_
      split
      · exact State.itemFreed_wf h
      · split
        · split
          · refine State.startAscent_wf ?_
            refine State.setItemTier_wf ?_
            split
            · exact h
            · exact State.itemLeft_wf h
          · refine State.setItemTier_wf ?_
            split
            · exact h
            · exact State.itemLeft_wf h
        · split
          · refine State.startAscent_wf ?_
            refine State.setItemTier_wf ?_
            split
            · exact h
            · exact State.itemStays_wf h
          · refine State.setItemTier_wf ?_
            split
            · exact h
            · exact State.itemStays_wf h
    · split
      · refine canonical_next ?_
        refine State.roostReady_wf ?_
        refine State.startAscents_wf ?_
        split
        · exact State.itemFreed_wf h
        · split
          · split
            · refine State.startAscent_wf ?_
              refine State.setItemTier_wf ?_
              split
              · exact h
              · exact State.itemLeft_wf h
            · refine State.setItemTier_wf ?_
              split
              · exact h
              · exact State.itemLeft_wf h
          · split
            · refine State.startAscent_wf ?_
              refine State.setItemTier_wf ?_
              split
              · exact h
              · exact State.itemStays_wf h
            · refine State.setItemTier_wf ?_
              split
              · exact h
              · exact State.itemStays_wf h
      · refine canonical_next ?_
        refine State.descentCheck_wf ?_
        split
        · exact State.itemFreed_wf h
        · split
          · split
            · refine State.startAscent_wf ?_
              refine State.setItemTier_wf ?_
              split
              · exact h
              · exact State.itemLeft_wf h
            · refine State.setItemTier_wf ?_
              split
              · exact h
              · exact State.itemLeft_wf h
          · split
            · refine State.startAscent_wf ?_
              refine State.setItemTier_wf ?_
              split
              · exact h
              · exact State.itemStays_wf h
            · refine State.setItemTier_wf ?_
              split
              · exact h
              · exact State.itemStays_wf h

theorem State.putPayload_wf {s : State} {r : Roost} {payload : BitVec 64} (h : Memory.wf s.mem = true) :
    Memory.wf (State.putPayload s r payload).mem = true := by
  unfold State.putPayload
  dsimp only
  split
  · exact State.devWrite_wf h
  · split
    · split
      · exact State.devWrite_wf h
      · exact State.npStore_wf h
    · exact State.onRoost_wf h

theorem State.rouse_wf {s : State} {r : Roost} {payload : BitVec 64} (h : Memory.wf s.mem = true) :
    Memory.wf (State.rouse s r payload).mem = true := by
  unfold State.rouse
  exact State.roostReady_wf (State.startAscents_wf (State.disarm_wf (State.onRoost_wf (State.putPayload_wf h))))

theorem State.answerRouse_wf {s : State} {roost sender st reason : Nat} (h : Memory.wf s.mem = true) :
    Memory.wf (State.answerRouse s roost sender st reason).mem = true := by
  unfold State.answerRouse
  exact State.say_wf h

theorem execRouseArrive_canonical {roost : Nat} {payload : BitVec 64} {sender : Nat} {s : State} (h : Memory.wf s.mem =
    true) :
    Canonical (execRouseArrive roost payload sender s) := by
  unfold execRouseArrive
  split
  dsimp only
  split
  · split
    · split
      · split
        · exact canonical_next (State.finishEntry_wf (State.rouse_wf h))
        · exact canonical_next (State.answerRouse_wf (State.rouse_wf h))
      · split
        · exact canonical_next (State.finishEntry_wf h)
        · exact canonical_next (State.answerRouse_wf h)
    · split
      · exact canonical_next (State.finishEntry_wf h)
      · exact canonical_next (State.answerRouse_wf h)
  · refine canonical_next ?_
    refine State.answerRouse_wf ?_
    split
    · split
      · exact State.rouse_wf h
      · exact h
    · exact h

theorem State.pageIn_wf {s : State} {held : Bool} {i : Nat} {wr : Bool} {bytes : List Byte} (h : Memory.wf s.mem =
    true) :
    Memory.wf (State.pageIn s held i wr bytes).mem = true := by
  unfold State.pageIn
  exact State.onFrame_wf (State.forget_wf (State.npStore_wf h))

theorem execPageAscentDone_canonical {roost page : Nat} {s : State} (h : Memory.wf s.mem = true) :
    Canonical (execPageAscentDone roost page s) := by
  unfold execPageAscentDone
  split
  · exact canonical_next h
  · split
    · exact canonical_next (State.roostReady_wf (State.startAscents_wf (State.itemFreed_wf h)))
    · dsimp only
      split
      · exact canonical_next (State.arm_wf (State.ascendFrames_wf h))
      · refine canonical_next ?_
        split
        · refine State.roostReady_wf ?_
          refine State.startAscents_wf ?_
          split
          · refine State.setItemTier_wf ?_
            refine State.setItemOut_wf ?_
            refine foldl_wf (fun s x h => ?_) ?_
            · refine elim_wf ?_ ?_
              · exact h
              · intro a
                exact State.pageIn_wf h
            · exact h
          · split
            · refine State.onRoost_wf ?_
              refine State.setItemTier_wf ?_
              refine State.setItemOut_wf ?_
              refine foldl_wf (fun s x h => ?_) ?_
              · refine elim_wf ?_ ?_
                · exact h
                · intro a
                  exact State.pageIn_wf h
              · exact h
            · refine State.onSeq_wf ?_
              refine State.setItemTier_wf ?_
              refine State.setItemOut_wf ?_
              refine foldl_wf (fun s x h => ?_) ?_
              · refine elim_wf ?_ ?_
                · exact h
                · intro a
                  exact State.pageIn_wf h
              · exact h
        · split
          · refine State.setItemTier_wf ?_
            refine State.setItemOut_wf ?_
            refine foldl_wf (fun s x h => ?_) ?_
            · refine elim_wf ?_ ?_
              · exact h
              · intro a
                exact State.pageIn_wf h
            · exact h
          · split
            · refine State.onRoost_wf ?_
              refine State.setItemTier_wf ?_
              refine State.setItemOut_wf ?_
              refine foldl_wf (fun s x h => ?_) ?_
              · refine elim_wf ?_ ?_
                · exact h
                · intro a
                  exact State.pageIn_wf h
              · exact h
            · refine State.onSeq_wf ?_
              refine State.setItemTier_wf ?_
              refine State.setItemOut_wf ?_
              refine foldl_wf (fun s x h => ?_) ?_
              · refine elim_wf ?_ ?_
                · exact h
                · intro a
                  exact State.pageIn_wf h
              · exact h

theorem State.quarantine_wf {s : State} {uid roost layer head idx i pos : Nat} (h : Memory.wf s.mem = true) :
    Memory.wf (State.quarantine s uid roost layer head idx i pos).mem = true :=
  h

theorem kvldLane_wf {f : Form} {idx aF sF : Nat} {e : Env} {c : Crew} {tt : Thread} {s : State} (h : Memory.wf s.mem =
    true) :
    Memory.wf (kvldLane f idx aF sF e c tt s).1.mem = true := by
  unfold kvldLane
  split
  · exact h
  · split
    · exact h
    · split
      · exact h
      · dsimp only
        split
        · split
          · exact State.inFlight_wf (State.quarantine_wf (State.kvTouch_wf h))
          · split
            · exact State.kvTouch_wf h
            · exact State.inFlight_wf (State.drainFor_wf (State.kvTouch_wf h))
        · split
          · exact h
          · exact State.inFlight_wf (State.drainFor_wf h)
        · split
          · exact State.inFlight_wf (State.wantItem_wf h)
          · exact State.inFlight_wf h

theorem execKvld_canonical {sw : Bool} {c : BitVec 6} {a d : BitVec 7} {s : State} (h : Memory.wf s.mem = true) :
    Canonical (execKvld sw c a d s) := by
  unfold execKvld
  dsimp only
  refine execLanes_canonical ?_ ?_
  · exact h
  · intro e c t s h'
    exact kvldLane_wf (h')

theorem execKvldStatusLand_canonical {id : Nat} {s : State} (h : Memory.wf s.mem = true) :
    Canonical (execKvldStatusLand id s) := by
  unfold execKvldStatusLand
  exact canonical_next (State.landNow_wf h)

/-! ## Context -/

theorem State.ctxopDone_wf {s : State} {uid status : Nat} (h : Memory.wf s.mem = true) :
    Memory.wf (State.ctxopDone s uid status).mem = true :=
  h

theorem State.recordEntries_wf {s : State} {unit : Nat} (h : Memory.wf s.mem = true) :
    Memory.wf (State.recordEntries s unit).mem = true :=
  h

theorem State.dropReplied_wf {s : State} {wn uid : Nat} (h : Memory.wf s.mem = true) :
    Memory.wf (State.dropReplied s wn uid).mem = true := by
  unfold State.dropReplied
  exact State.dropRequests_wf h

theorem execCtxopSave_canonical {crew : Nat} {s : State} (h : Memory.wf s.mem = true) :
    Canonical (execCtxopSave crew s) := by
  unfold execCtxopSave
  split
  · exact canonical_next h
  · split
    · split
      · exact canonical_next (State.arm_wf h)
      · dsimp only
        split
        · split
          · exact canonical_next (State.ctxopDone_wf (State.performStores_wf h))
          · split
            · exact canonical_next (State.ctxopDone_wf (wf_fst ‹_› (State.devWrite_wf (State.performStores_wf h))))
            · refine canonical_next ?_
              refine State.ctxopDone_wf ?_
              refine State.dropReplied_wf ?_
              split
              · exact State.recordEntries_wf (wf_fst ‹_› (State.devWrite_wf (State.performStores_wf h)))
              · exact wf_fst ‹_› (State.devWrite_wf (State.performStores_wf h))
        · split
          · exact canonical_next (State.ctxopDone_wf (State.performStores_wf h))
          · split
            · exact canonical_next (State.ctxopDone_wf (wf_fst ‹_› (State.devWrite_wf (State.performStores_wf h))))
            · refine canonical_next ?_
              refine State.ctxopDone_wf ?_
              refine State.dropReplied_wf ?_
              split
              · exact State.recordEntries_wf (wf_fst ‹_› (State.devWrite_wf (State.performStores_wf h)))
              · exact wf_fst ‹_› (State.devWrite_wf (State.performStores_wf h))
    · exact canonical_next h

theorem State.touchImg_wf {s : State} {wn img : Nat} (h : Memory.wf s.mem = true) :
    Memory.wf (State.touchImg s wn img).mem = true := by
  unfold State.touchImg
  dsimp only
  split
  · split
    · exact State.devTouch_wf (State.devTouch_wf h)
    · exact State.devTouch_wf h
  · exact State.devTouch_wf h

theorem State.restoreCmd_wf {s : State} {c : Crew} {u : BUnit} {hread : Bool} {b : List Byte} (h : Memory.wf s.mem =
    true) :
    Memory.wf (State.restoreCmd s c u hread b).mem = true := by
  unfold State.restoreCmd
  dsimp only
  split
  · refine State.onEntry_wf ?_
    exact h
  · dsimp only
    refine State.onLaunch_wf ?_
    refine State.fresh_wf ?_
    exact h

theorem State.restoreSysc_wf {s : State} {c : Crew} {b : List Byte} (h : Memory.wf s.mem = true) :
    Memory.wf (State.restoreSysc s c b).mem = true := by
  unfold State.restoreSysc
  dsimp only
  split
  · exact State.onCrew_wf h
  · split
    · split
      · exact State.dropRequests_wf (State.onCrew_wf h)
      · exact h
    · exact h

theorem State.restoreBlock_wf {s : State} {c : Crew} {im : Img} (h : Memory.wf s.mem = true) :
    Memory.wf (State.restoreBlock s c im).mem = true := by
  unfold State.restoreBlock
  dsimp only
  refine State.kickQueues_wf ?_
  refine foldl_wf (fun s x h => ?_) ?_
  · split
    · exact State.restoreCmd_wf h
    · exact h
  · exact State.onUnit_wf h

theorem State.restoreTimes_wf {s : State} {c : Crew} (h : Memory.wf s.mem = true) :
    Memory.wf (State.restoreTimes s c).mem = true := by
  unfold State.restoreTimes
  split
  · exact State.onCrew_wf h
  · exact h

theorem State.restorePriv_wf {s : State} {uid : Nat} {b : List Byte} (h : Memory.wf s.mem = true) :
    Memory.wf (State.restorePriv s uid b).mem = true :=
  h

theorem execCtxopRestore_canonical {crew : Nat} {s : State} (h : Memory.wf s.mem = true) :
    Canonical (execCtxopRestore crew s) := by
  unfold execCtxopRestore
  split
  · exact canonical_next h
  · dsimp only
    split
    · exact canonical_next (State.arm_wf h)
    · split
      · exact canonical_next (State.ctxopDone_wf (State.touchImg_wf h))
      · refine canonical_next ?_
        refine State.ctxopDone_wf ?_
        refine State.restoreTimes_wf ?_
        refine State.dropGroups_wf ?_
        refine foldl_wf (fun s x h => ?_) ?_
        · exact State.restoreSysc_wf h
        · split
          · exact State.restoreBlock_wf (foldl_wf (fun s x h => State.restorePriv_wf h) (State.touchImg_wf h))
          · exact foldl_wf (fun s x h => State.restorePriv_wf h) (State.touchImg_wf h)

/-! ## Schedule -/

theorem State.bindArray_wf {s : State} {l : Launch} {q uid : Nat} {resumed : Bool} (h : Memory.wf s.mem = true) :
    Memory.wf (State.bindArray s l q uid resumed).mem = true := by
  unfold State.bindArray
  split
  · exact h
  · split
    · split
      · exact State.onQuarter_wf h
      · exact h
    · exact State.onQuarter_wf h

theorem State.placeCrew_wf {s : State} {l : Launch} {u : BUnit} {k uid : Nat} {threads : List Thread} {f : Crew → Crew}
    (h : Memory.wf s.mem = true) :
    Memory.wf (State.placeCrew s l u k uid threads f).mem = true := by
  unfold State.placeCrew
  split
  dsimp only
  refine State.throttle_wf ?_
  refine State.armSampler_wf ?_
  exact h

theorem State.launchDispatched_wf {s : State} {l : Launch} {cores : List Nat} {f : Launch → Launch} (h : Memory.wf
    s.mem = true) :
    Memory.wf (State.launchDispatched s l cores f).mem = true := by
  unfold State.launchDispatched
  dsimp only
  split
  · split
    · refine State.putGraphStatus_wf ?_
      refine State.onGraph_wf ?_
      refine State.arm_wf ?_
      dsimp only
      split
      · exact State.dropHolds_wf (State.putStatus_wf (State.onLaunch_wf h))
      · exact State.putStatus_wf (State.onLaunch_wf h)
    · refine State.arm_wf ?_
      dsimp only
      split
      · exact State.dropHolds_wf (State.putStatus_wf (State.onLaunch_wf h))
      · exact State.putStatus_wf (State.onLaunch_wf h)
  · refine State.arm_wf ?_
    dsimp only
    split
    · exact State.dropHolds_wf (State.putStatus_wf (State.onLaunch_wf h))
    · exact State.putStatus_wf (State.onLaunch_wf h)

theorem State.placeUnit_wf {s : State} {l : Launch} {block : Nat} {cores : List Nat} (h : Memory.wf s.mem = true) :
    Memory.wf (State.placeUnit s l block cores).mem = true := by
  unfold State.placeUnit
  split
  dsimp only
  refine State.launchDispatched_wf ?_
  refine foldl_wf (fun s x h => ?_) ?_
  · refine State.placeCrew_wf ?_
    refine State.bindArray_wf ?_
    refine State.fresh_wf ?_
    exact h
  · dsimp only
    refine wf_snd ‹_› ?_
    refine State.fresh_wf ?_
    refine State.sampleTime_wf ?_
    exact h

theorem State.placeSaved_wf {s : State} {l : Launch} {v : Saved} {cores : List Nat} (h : Memory.wf s.mem = true) :
    Memory.wf (State.placeSaved s l v cores).mem = true := by
  unfold State.placeSaved
  exact State.launchDispatched_wf (foldl_wf (fun s x h => State.placeCrew_wf (State.touchAll_wf (State.bindArray_wf
      h))) (State.sampleTime_wf h))

theorem State.resumeOn_wf {clusters : List Nat} {l : Launch} {vs : List Saved} {done : List (Saved × List Nat)} {s t : State}
    (h : Memory.wf s.mem = true) (ht : State.resumeOn clusters l vs done s = some t) : Memory.wf t.mem = true := by
  induction vs generalizing done s with
  | nil =>
    obtain rfl := Option.some.inj ht
    exact h
  | cons v r ih =>
    obtain ⟨_, _, hs⟩ := List.exists_of_findSome?_eq_some ht
    exact ih (State.placeSaved_wf h) hs

theorem State.resumeDie_wf {s : State} {l : Launch} {die : Nat} {t : State} (h : Memory.wf s.mem = true)
    (ht : s.resumeDie l die = some t) : Memory.wf t.mem = true := by
  unfold State.resumeDie at ht
  split at ht
  · cases ht
  · exact State.resumeOn_wf h ht
  · exact State.resumeOn_wf h ht

theorem execDispatchUnit_canonical {die : Nat} {s : State} (h : Memory.wf s.mem = true) :
    Canonical (execDispatchUnit die s) := by
  unfold execDispatchUnit
  split
  · exact canonical_next h
  · split
    · exact canonical_next (State.arm_wf h)
    · split
      · exact canonical_next h
      · exact canonical_next (State.arm_wf (State.placeUnit_wf h))

theorem execResumeStart_canonical {launch : Nat} {s : State} (h : Memory.wf s.mem = true) :
    Canonical (execResumeStart launch s) := by
  unfold execResumeStart
  split
  · exact canonical_next h
  · dsimp only
    split
    next hs =>
      obtain ⟨_, _, hd⟩ := List.exists_of_findSome?_eq_some hs
      exact canonical_next (State.wakeDispatch_wf (State.resumeDie_wf h hd))
    · exact canonical_next h

theorem execPriorityRise_canonical {launch : Nat} {s : State} (h : Memory.wf s.mem = true) :
    Canonical (execPriorityRise launch s) := by
  unfold execPriorityRise
  split
  · exact canonical_next h
  · split
    · exact canonical_next h
    · split
      · refine canonical_next ?_
        split
        · exact h
        · exact State.arm_wf h
      · split
        dsimp only
        refine canonical_next ?_
        refine State.wakeDispatch_wf ?_
        split <;> exact State.arm_wf (State.onLaunch_wf (wf_snd ‹_› (State.fresh_wf h)))

theorem State.taken_wf {s : State} {wn q : Nat} {hd : Word} (h : Memory.wf s.mem = true) :
    Memory.wf (State.taken s wn q hd).mem = true := by
  unfold State.taken
  dsimp only
  split
  · exact State.phaseCheck_wf (State.stopPhase_wf (State.wakeDispatch_wf (State.arm_wf (State.onKick_wf h))))
  · exact State.wakeDispatch_wf (State.onKick_wf h)

theorem State.refuseEntry_wf {s : State} {wn q entry reason : Nat} {status : Option Nat} (h : Memory.wf s.mem = true) :
    Memory.wf (State.refuseEntry s wn q entry reason status).mem = true := by
  unfold State.refuseEntry
  dsimp only
  refine State.arm_wf ?_
  refine State.interrupt_wf ?_
  refine State.onKick_wf ?_
  split
  · exact State.devWrite_wf (State.devWrite_wf h)
  · exact h

theorem State.readyNodes_wf {s : State} {wn : Nat} {hd : Word} (h : Memory.wf s.mem = true) :
    Memory.wf (State.readyNodes s wn hd).mem = true := by
  unfold State.readyNodes
  split
  · exact h
  · split
    · exact h
    · refine foldl_wf (fun s x h => ?_) ?_
      · split
        dsimp only
        split
        · split
          · exact State.wakeDispatch_wf (State.arm_wf (State.acceptLaunch_wf h))
          · exact State.acceptLaunch_wf h
        · exact h
      · exact h

theorem State.takeGraph_wf {s : State} {wn q : Nat} {nodes : List (LDesc × List Nat)} {status when' sub : Nat} (h :
    Memory.wf s.mem = true) :
    Memory.wf (State.takeGraph s wn q nodes status when' sub).mem = true := by
  unfold State.takeGraph
  split
  dsimp only
  refine State.phaseCheck_wf ?_
  refine State.stopPhase_wf ?_
  refine State.readyNodes_wf ?_
  refine State.onKick_wf ?_
  refine State.putGraphStatus_wf ?_
  dsimp only
  refine wf_snd ‹_› ?_
  refine State.newHandle_wf ?_
  exact h

theorem State.touchChain_wf {s : State} {wn : Nat} {x1 : Nat} {x2 : Nat} (h : Memory.wf s.mem = true) : Memory.wf (State.touchChain s wn x1 x2).mem = true := by
  induction x1 generalizing s x2 with
  | zero =>
    exact h
  | succ n ih =>
    unfold State.touchChain
    dsimp only
    split
    · exact State.touchImg_wf h
    · apply ih
      exact State.touchImg_wf h

theorem State.takeResume_wf {s : State} {wn q : Nat} {d : LDesc} {l : List (Nat × Img)} {when' sub : Nat} (h : Memory.wf
    s.mem = true) :
    Memory.wf (State.takeResume s wn q d l when' sub).mem = true := by
  unfold State.takeResume
  dsimp only
  refine State.taken_wf ?_
  refine State.acceptLaunch_wf ?_
  refine foldl_fst_wf (fun p x h => ?_) ?_
  · dsimp only
    refine State.fresh_wf ?_
    exact h
  · dsimp only
    refine State.fresh_wf ?_
    exact h

theorem State.touchKicked_wf {s : State} {wn : Nat} {k : KickPage} (h : Memory.wf s.mem = true) :
    Memory.wf (State.touchKicked s wn k).mem = true := by
  unfold State.touchKicked
  dsimp only
  split
  · exact State.devTouch_wf h
  · split
    · exact h
    · split
      · exact State.touchLaunch_wf h
      · split
        · exact State.devTouch_wf h
        · refine foldl_wf (fun s x h => ?_) ?_
          · split
            · exact State.devTouch_wf h
            · exact State.touchLaunch_wf (State.touchAll_wf h)
          · exact h
      · exact h
      · split
        · exact State.devTouch_wf h
        · exact State.touchChain_wf (State.touchLaunch_wf (State.devTouch_wf h))

theorem State.takeMark_wf {s : State} {wn q : Nat} (h : Memory.wf s.mem = true) :
    Memory.wf (State.takeMark s wn q).mem = true := by
  unfold State.takeMark
  exact State.arm_wf (State.phaseCheck_wf (State.onWorld_wf h))

theorem State.takeKicked_wf {s : State} {wn q : Nat} {k : KickPage} (h : Memory.wf s.mem = true) :
    Memory.wf (State.takeKicked s wn q k).mem = true := by
  unfold State.takeKicked
  dsimp only
  split
  · exact State.refuseEntry_wf (State.onKick_wf (State.touchKicked_wf h))
  · split
    · exact State.refuseEntry_wf (State.onKick_wf (State.touchKicked_wf h))
    · split
      · split
        · exact State.refuseEntry_wf (State.onKick_wf (State.touchKicked_wf h))
        · exact State.taken_wf (State.acceptLaunch_wf (State.onKick_wf (State.touchKicked_wf h)))
      · split
        · exact State.refuseEntry_wf (State.onKick_wf (State.touchKicked_wf h))
        · exact State.takeGraph_wf (State.onKick_wf (State.touchKicked_wf h))
      · split
        · exact State.refuseEntry_wf (State.onKick_wf (State.touchKicked_wf h))
        · exact State.takeMark_wf (State.onKick_wf (State.touchKicked_wf h))
      · split
        · exact State.refuseEntry_wf (State.onKick_wf (State.touchKicked_wf h))
        · exact State.takeResume_wf (State.onKick_wf (State.touchKicked_wf h))

theorem State.takeHeld_wf {s : State} {wn q : Nat} {k : KickPage} {hd : Word} (h : Memory.wf s.mem = true) :
    Memory.wf (State.takeHeld s wn q k hd).mem = true := by
  unfold State.takeHeld
  dsimp only
  split
  · exact State.arm_wf (State.onKick_wf h)
  · exact State.taken_wf (State.onLaunch_wf (State.onKick_wf h))

theorem execQueueEntryTake_canonical {world queue : Nat} {s : State} (h : Memory.wf s.mem = true) :
    Canonical (execQueueEntryTake world queue s) := by
  unfold execQueueEntryTake
  split
  · exact canonical_next h
  · dsimp only
    split
    · exact canonical_next h
    · split
      · exact canonical_next (State.takeHeld_wf h)
      · exact canonical_next (State.takeKicked_wf h)

theorem State.kickTail_wf {s : State} {wn q : Nat} {tail : Word} (h : Memory.wf s.mem = true) :
    Memory.wf (State.kickTail s wn q tail).mem = true := by
  unfold State.kickTail
  split
  · exact h
  · dsimp only
    split
    · exact State.onKick_wf h
    · exact State.arm_wf (State.noteKick_wf h)

theorem execKick_canonical {world queue : Nat} {tail : Word} {s : State} (h : Memory.wf s.mem = true) :
    Canonical (execKick world queue tail s) := by
  unfold execKick
  exact canonical_next (State.kickTail_wf h)

theorem execKernelBoundary_canonical {world launch : Nat} {s : State} (h : Memory.wf s.mem = true) :
    Canonical (execKernelBoundary world launch s) := by
  unfold execKernelBoundary
  dsimp only
  split
  · refine canonical_next ?_
    split
    · refine State.readyNodes_wf ?_
      refine State.settleLaunch_wf ?_
      exact h
    · refine State.arm_wf ?_
      refine State.settleLaunch_wf ?_
      exact h
  · exact canonical_next (State.arm_wf (foldl_wf (fun s x h => State.settleLaunch_wf h) h))
  · exact canonical_next h

theorem State.resumeJob_wf {s : State} {wn : Nat} (h : Memory.wf s.mem = true) :
    Memory.wf (State.resumeJob s wn).mem = true := by
  unfold State.resumeJob
  split
  · exact h
  · split
    · exact State.phaseCheck_wf (State.stopPhase_wf (State.wakeDispatch_wf (State.onWorld_wf h)))
    · exact h

theorem State.closeJob_wf {s : State} {wn : Nat} (h : Memory.wf s.mem = true) :
    Memory.wf (State.closeJob s wn).mem = true := by
  unfold State.closeJob
  exact State.phaseCheck_wf (State.onWorld_wf h)

theorem execCtrlResume_canonical {world : Nat} {s : State} (h : Memory.wf s.mem = true) :
    Canonical (execCtrlResume world s) := by
  unfold execCtrlResume
  exact canonical_next (State.resumeJob_wf h)

theorem execCtrlCancel_canonical {world : Nat} {s : State} (h : Memory.wf s.mem = true) :
    Canonical (execCtrlCancel world s) := by
  unfold execCtrlCancel
  exact canonical_next (State.cancelJob_wf h)

theorem execCtrlClose_canonical {world : Nat} {s : State} (h : Memory.wf s.mem = true) :
    Canonical (execCtrlClose world s) := by
  unfold execCtrlClose
  exact canonical_next (State.closeJob_wf h)

theorem execJobOpen_canonical {world : Nat} {s : State} (h : Memory.wf s.mem = true) :
    Canonical (execJobOpen world s) := by
  unfold execJobOpen
  split
  · exact canonical_next h
  · split
    · exact canonical_next h
    · exact canonical_next (State.wakeTakers_wf (State.onWorld_wf h))

theorem State.claimStat_wf {s : State} {wn n : Nat} (h : Memory.wf s.mem = true) :
    Memory.wf (State.claimStat s wn n).mem = true :=
  h

theorem State.claimUnit_wf {s : State} {wn : Nat} (h : Memory.wf s.mem = true) :
    Memory.wf (State.claimUnit s wn).mem = true := by
  unfold State.claimUnit
  split
  · exact h
  · split
    · exact State.claimStat_wf h
    · exact State.unitFinished_wf (State.onLaunch_wf (State.claimStat_wf h))

theorem State.claimFree_wf {s : State} {wn : Nat} (h : Memory.wf s.mem = true) :
    Memory.wf (State.claimFree s wn).mem = true := by
  unfold State.claimFree
  split
  · exact h
  · split
    · exact State.claimStat_wf h
    · exact State.onLaunch_wf (State.dropSaved_wf (foldl_wf (fun s x h => State.freeSlot_wf h) (State.claimStat_wf
        h)))

theorem execClaimUnit_canonical {world : Nat} {s : State} (h : Memory.wf s.mem = true) :
    Canonical (execClaimUnit world s) := by
  unfold execClaimUnit
  exact canonical_next (State.claimUnit_wf h)

theorem execClaimFree_canonical {world : Nat} {s : State} (h : Memory.wf s.mem = true) :
    Canonical (execClaimFree world s) := by
  unfold execClaimFree
  exact canonical_next (State.claimFree_wf h)

theorem execLocalityScoreHalve_canonical {core : Nat} {s : State} (h : Memory.wf s.mem = true) :
    Canonical (execLocalityScoreHalve core s) := by
  unfold execLocalityScoreHalve
  dsimp only
  refine canonical_next ?_
  refine State.throttle_wf ?_
  exact h

theorem execThrottleSwap_canonical {crew : Nat} {s : State} (h : Memory.wf s.mem = true) :
    Canonical (execThrottleSwap crew s) := by
  unfold execThrottleSwap
  split
  · exact canonical_next h
  · split
    · refine canonical_next ?_
      refine State.throttle_wf ?_
      exact h
    · split
      · exact canonical_next h
      · split
        · exact canonical_next h
        · dsimp only
          refine canonical_next ?_
          refine State.arm_wf ?_
          refine State.throttle_wf ?_
          exact h

/-! ## Preempt -/

theorem State.takeLanes_wf {s : State} {uid : Nat} {lanes : List Nat} {f : Thread → Thread} (h : Memory.wf s.mem = true) :
    Memory.wf (State.takeLanes s uid lanes f).mem = true := by
  unfold State.takeLanes
  split
  · exact h
  · exact State.settle_wf (State.onCrew_wf (State.leaveBins_wf (foldl_wf (fun s x h => State.leaveOrder_wf h) h)))

theorem State.stopCopies_wf {s : State} {unit : Nat} (h : Memory.wf s.mem = true) :
    Memory.wf (State.stopCopies s unit).mem = true := by
  unfold State.stopCopies
  dsimp only
  refine State.disarm_wf ?_
  exact foldl_wf (fun s x h => State.tearEntry_wf h) h

theorem State.deliverPreempt_wf {s : State} {c : Crew} {tr : Trap} (h : Memory.wf s.mem = true) :
    Memory.wf (State.deliverPreempt s c tr).mem = true := by
  unfold State.deliverPreempt
  split
  · exact State.arm_wf h
  · dsimp only
    split
    · refine State.takeLanes_wf ?_
      refine State.arm_wf ?_
      refine State.disarm_wf ?_
      refine State.onCrew_wf ?_
      split
      · split
        · exact State.passToken_wf (State.onWorld_wf (State.stopCopies_wf h))
        · exact State.onQuarter_wf (State.onWorld_wf (State.stopCopies_wf h))
      · exact State.onWorld_wf (State.stopCopies_wf h)
    · refine State.dropEnded_wf ?_
      refine State.dropGroups_wf ?_
      refine State.takeLanes_wf ?_
      refine State.arm_wf ?_
      refine State.disarm_wf ?_
      refine State.onCrew_wf ?_
      split
      · split
        · exact State.passToken_wf (State.onWorld_wf (State.stopCopies_wf h))
        · exact State.onQuarter_wf (State.onWorld_wf (State.stopCopies_wf h))
      · exact State.onWorld_wf (State.stopCopies_wf h)

theorem State.deliver_wf {s : State} {c : Crew} {a : Async} (h : Memory.wf s.mem = true) :
    Memory.wf (State.deliver s c a).mem = true := by
  unfold State.deliver
  split
  · exact State.deliverPreempt_wf h
  · dsimp only
    split
    · exact State.dropEnded_wf (State.takeLanes_wf (State.dropGroups_wf (State.onCrew_wf h)))
    · split
      · exact State.arm_wf (State.onCrew_wf h)
      · exact State.onCrew_wf h
  · dsimp only
    split
    · exact State.takeLanes_wf (State.onCrew_wf h)
    · exact State.onCrew_wf h

theorem execAsyncTrapEntry_canonical {crew : Nat} {s : State} (h : Memory.wf s.mem = true) :
    Canonical (execAsyncTrapEntry crew s) := by
  unfold execAsyncTrapEntry
  split
  · exact canonical_next h
  · split
    · exact canonical_next h
    · split
      · exact canonical_next (State.post_wf (State.onCrew_wf h))
      · split
        · exact canonical_next (State.deliver_wf h)
        · refine canonical_next ?_
          split
          · exact h
          · exact State.arm_wf h

theorem State.holdBursts_wf {s : State} {unit : Nat} (h : Memory.wf s.mem = true) :
    Memory.wf (State.holdBursts s unit).mem = true :=
  h

theorem State.requestSet_wf {s : State} {l : List BUnit} {reason grace : Nat} (h : Memory.wf s.mem = true) :
    Memory.wf (State.requestSet s l reason grace).mem = true := by
  unfold State.requestSet
  split
  exact foldl_wf (fun s x h => State.arm_wf (State.async_wf (State.onCrew_wf (State.free_wf h)))) (foldl_wf (fun s x
      h => State.holdBursts_wf (State.onUnit_wf h)) (wf_snd ‹_› (State.fresh_wf h)))

theorem execPreemptRequest_canonical {units : List Nat} {reason grace : Nat} {s : State} (h : Memory.wf s.mem = true) :
    Canonical (execPreemptRequest units reason grace s) := by
  unfold execPreemptRequest
  dsimp only
  refine canonical_next ?_
  refine foldl_wf (fun s x h => ?_) ?_
  · split
    · exact h
    · split
      · exact State.arm_wf h
      · split
        · split
          · exact State.arm_wf h
          · split
            · exact State.cancelLaunch_wf h
            · exact h
        · exact State.requestSet_wf h
  · exact h

theorem execPreemptGraceExpiry_canonical {crew : Nat} {s : State} (h : Memory.wf s.mem = true) :
    Canonical (execPreemptGraceExpiry crew s) := by
  unfold execPreemptGraceExpiry
  split
  · exact canonical_next h
  · split
    · exact canonical_next h
    · split
      · exact canonical_next (State.cancelLaunch_wf h)
      · exact canonical_next (State.arm_wf h)

theorem execSaveDeadlineExpiry_canonical {crew : Nat} {s : State} (h : Memory.wf s.mem = true) :
    Canonical (execSaveDeadlineExpiry crew s) := by
  unfold execSaveDeadlineExpiry
  split
  · exact canonical_next h
  · split
    · exact canonical_next (State.cancelLaunch_wf h)
    · exact canonical_next h

theorem State.unbind_wf {s : State} {cores : List Nat} (h : Memory.wf s.mem = true) :
    Memory.wf (State.unbind s cores).mem = true := by
  unfold State.unbind
  exact foldl_wf (fun s x h => State.unbindQuarter_wf h) h

theorem State.dropUnit_wf {s : State} {u : BUnit} (h : Memory.wf s.mem = true) :
    Memory.wf (State.dropUnit s u).mem = true := by
  unfold State.dropUnit
  dsimp only
  refine State.wakeDispatch_wf ?_
  refine State.unthrottle_wf ?_
  refine State.unbind_wf ?_
  exact h

theorem State.markImage_wf {s : State} {wn img next : Nat} (h : Memory.wf s.mem = true) :
    Memory.wf (State.markImage s wn img next).mem = true := by
  unfold State.markImage
  dsimp only
  split
  · exact State.devWrite_wf (State.devWrite_wf h)
  · exact State.devWrite_wf h

theorem State.saveUnit_wf {s : State} {u : BUnit} (h : Memory.wf s.mem = true) :
    Memory.wf (State.saveUnit s u).mem = true := by
  unfold State.saveUnit
  dsimp only
  refine State.dropUnit_wf ?_
  exact State.interrupt_wf (State.putStatus_wf (State.onLaunch_wf (foldl_wf (fun s x h => State.markImage_wf h)
      (State.recordEntries_wf h))))

theorem State.saveDone_wf {s : State} {set : Nat} (h : Memory.wf s.mem = true) :
    Memory.wf (State.saveDone s set).mem = true := by
  unfold State.saveDone
  dsimp only
  split
  · exact foldl_wf (fun s x h => State.saveUnit_wf h) h
  · exact h

theorem State.releaseLast_wf {s : State} {u : BUnit} (h : Memory.wf s.mem = true) :
    Memory.wf (State.releaseLast s u).mem = true := by
  unfold State.releaseLast
  dsimp only
  split
  · split
    · exact h
    · exact State.launchCheck_wf (State.dropUnit_wf h)
  · split
    · split
      · exact h
      · split
        · exact State.unitFinished_wf (State.dropUnit_wf (foldl_wf (fun s x h => State.removeCrew_wf h) h))
        · exact State.saveDone_wf (State.unitFinished_wf (State.dropUnit_wf (foldl_wf (fun s x h =>
            State.removeCrew_wf h) h)))
    · split
      · split
        · exact State.cancelLaunch_wf h
        · exact State.saveDone_wf h
      · exact h

theorem execLastExitRelease_canonical {unit : Nat} {s : State} (h : Memory.wf s.mem = true) :
    Canonical (execLastExitRelease unit s) := by
  unfold execLastExitRelease
  split
  · exact canonical_next h
  · exact canonical_next (State.releaseLast_wf h)

theorem execStarvationPreempt_canonical {world : Nat} {s : State} (h : Memory.wf s.mem = true) :
    Canonical (execStarvationPreempt world s) := by
  unfold execStarvationPreempt
  dsimp only
  split
  · exact canonical_next h
  · split
    · exact canonical_next (State.arm_wf h)
    · split
      · exact canonical_next (State.sampleTime_wf (State.arm_wf h))
      · exact canonical_next (foldl_wf (fun s x h => State.requestSet_wf h) (State.sampleTime_wf (State.arm_wf h)))

theorem State.giveReply_wf {s : State} {wn : Nat} {r : SyscReq} {status : Word} {lanes values : List Nat} (h : Memory.wf
    s.mem = true) :
    Memory.wf (State.giveReply s wn r status lanes values).mem = true := by
  unfold State.giveReply
  dsimp only
  split
  · split
    · exact State.onWorld_wf h
    · exact State.dropRequests_wf h
  · split
    · exact State.onWorld_wf h
    · exact State.dropRequests_wf (State.onCrew_wf h)
    · exact State.dropRequests_wf (State.syncOp_wf (State.acquired_wf (State.onCrew_wf h)))

theorem State.reply_wf {s : State} {wn : Nat} {reqid status : Word} {lanes values : List Nat} (h : Memory.wf s.mem =
    true) :
    Memory.wf (State.reply s wn reqid status lanes values).mem = true := by
  unfold State.reply
  split
  · exact h
  · split
    · exact State.giveReply_wf h
    · exact State.interrupt_wf (State.onWorld_wf h)

theorem execSyscReplyDoorbell_canonical {world : Nat} {reqid status : Word} {lanes values : List Nat} {s : State} (h :
    Memory.wf s.mem = true) :
    Canonical (execSyscReplyDoorbell world reqid status lanes values s) := by
  unfold execSyscReplyDoorbell
  exact canonical_next (State.reply_wf h)

theorem execSyscPostHeld_canonical {world : Nat} {s : State} (h : Memory.wf s.mem = true) :
    Canonical (execSyscPostHeld world s) := by
  unfold execSyscPostHeld
  split
  · exact canonical_next h
  · split
    · exact canonical_next h
    · dsimp only
      refine canonical_next ?_
      split
      · exact State.arm_wf (State.postSysc_wf h)
      · exact State.postSysc_wf h

theorem State.tableFor_wf {s : State} {wn va lvl : Nat} {ls : List Nat} {tab : Nat} {t : State} {x : Nat}
    (h : Memory.wf s.mem = true) (ht : s.tableFor wn va lvl ls tab = some (t, x)) : Memory.wf t.mem = true := by
  induction ls generalizing s tab with
  | nil =>
    cases ht
    exact h
  | cons l rest ih =>
    unfold State.tableFor at ht
    dsimp only at ht
    split at ht
    · cases ht
      exact h
    · split at ht
      · split at ht
        · cases ht
        · exact ih h ht
      · split at ht
        · cases ht
        · exact ih (State.storePA_wf (State.storePA_wf (State.onWorld_wf h))) ht

theorem State.enterLeaf_wf {s : State} {wn va lvl leaf : Nat} {t : State} (h : Memory.wf s.mem = true)
    (ht : s.enterLeaf wn va lvl leaf = some t) : Memory.wf t.mem = true := by
  unfold State.enterLeaf at ht
  split at ht
  · cases ht
  · split at ht
    · cases ht
    · obtain ⟨⟨s', x⟩, hs, rfl⟩ := Option.map_eq_some_iff.mp ht
      exact State.storePA_wf (State.tableFor_wf h hs)

theorem State.enterPages_wf {s : State} {wn lvl : Nat} {ps : List (Nat × Nat)} {t : State} (h : Memory.wf s.mem = true)
    (ht : s.enterPages wn lvl ps = some t) : Memory.wf t.mem = true := by
  induction ps generalizing s with
  | nil =>
    cases ht
    exact h
  | cons p r ih =>
    obtain ⟨s', hs, hr⟩ := Option.bind_eq_some_iff.mp ht
    exact ih (State.enterLeaf_wf h hs) hr

theorem State.allocLane_wf {s : State} {wn core : Nat} {args : List Word} (h : Memory.wf s.mem = true) :
    Memory.wf (State.allocLane s wn core args).1.mem = true := by
  unfold State.allocLane
  dsimp only
  split
  · split
    · exact h
    · split
      · exact h
      · split
        · dsimp only
          refine State.enterPages_wf ?_ ‹_›
          exact State.onWorld_wf h
        · exact h
  · exact h

theorem State.freeLane_wf {s : State} {wn : Nat} {args : List Word} (h : Memory.wf s.mem = true) :
    Memory.wf (State.freeLane s wn args).1.mem = true := by
  unfold State.freeLane
  dsimp only
  split
  · exact h
  · dsimp only
    refine State.onWorld_wf ?_
    refine getD_wf ?_ ?_
    · exact h
    · intro t ht
      refine State.enterPages_wf ?_ ‹_›
      exact h

theorem State.serve_wf {s : State} {wn : Nat} {reqid : Word} {again : Event} {f : State → SyscReq → List Word → State ×
    Nat} (hs : Memory.wf s.mem = true) (hf : ∀ s₁ x₁ x₂, Memory.wf s₁.mem = true → Memory.wf (f s₁ x₁ x₂).1.mem = true)
    :
    Memory.wf (State.serve s wn reqid again f).mem = true := by
  unfold State.serve
  split
  · exact hs
  · split
    · exact hs
    · dsimp only
      split
      · exact State.arm_wf hs
      · refine State.reply_wf ?_
        refine foldl_fst_wf (fun p x h => ?_) ?_
        · dsimp only
          apply hf
          exact h
        · exact hs

theorem execSyscAlloc_canonical {world : Nat} {reqid : Word} {s : State} (h : Memory.wf s.mem = true) :
    Canonical (execSyscAlloc world reqid s) := by
  unfold execSyscAlloc
  refine canonical_next ?_
  refine State.serve_wf ?_ ?_
  · exact h
  · intro s₁ x₁ x₂ h'
    exact State.allocLane_wf (h')

theorem execSyscFree_canonical {world : Nat} {reqid : Word} {s : State} (h : Memory.wf s.mem = true) :
    Canonical (execSyscFree world reqid s) := by
  unfold execSyscFree
  refine canonical_next ?_
  refine State.serve_wf ?_ ?_
  · exact h
  · intro s₁ x₁ x₂ h'
    exact State.freeLane_wf (h')

/-! ## Start -/

theorem execGangPrepare_canonical {world ldesc tick queue issuer : Nat} {s : State} (h : Memory.wf s.mem = true) :
    Canonical (execGangPrepare world ldesc tick queue issuer s) := by
  unfold execGangPrepare
  dsimp only
  split
  · split
    · refine canonical_next ?_
      refine State.arm_wf ?_
      refine State.onEntry_wf ?_
      refine State.say_wf ?_
      split
      · exact State.fresh_wf (State.touchLaunch_wf h)
      · exact State.touchLaunch_wf h
    · refine canonical_next ?_
      refine State.onEntry_wf ?_
      refine State.say_wf ?_
      split
      · exact State.fresh_wf (State.touchLaunch_wf h)
      · exact State.touchLaunch_wf h
  · refine canonical_next ?_
    refine State.say_wf ?_
    split
    · exact State.fresh_wf (State.touchLaunch_wf h)
    · exact State.touchLaunch_wf h

theorem State.gangSay_wf {s : State} {e : Entry} {what reason rank : Nat} (h : Memory.wf s.mem = true) :
    Memory.wf (State.gangSay s e what reason rank).mem = true := by
  unfold State.gangSay
  exact State.toRanks_wf h

theorem execGangDecision_canonical {entry : Nat} {reasons : List Nat} {s : State} (h : Memory.wf s.mem = true) :
    Canonical (execGangDecision entry reasons s) := by
  unfold execGangDecision
  split
  · exact canonical_next (State.engineHeld_wf h)
  · split
    · exact canonical_next h
    · split
      · exact canonical_next (State.finishEntry_wf (State.gangSay_wf (State.dropGangs_wf h)))
      · split
        · dsimp only
          split
          · split
            · exact canonical_next (State.arm_wf (State.gangSay_wf (State.onEntry_wf h)))
            · exact canonical_next h
          · exact canonical_next (State.finishEntry_wf (State.gangSay_wf (State.dropGangs_wf h)))
        · exact canonical_next h

theorem execGangCommit_canonical {gang : Nat} {s : State} (h : Memory.wf s.mem = true) :
    Canonical (execGangCommit gang s) := by
  unfold execGangCommit
  split
  · exact canonical_next h
  · split
    · exact canonical_next h
    · dsimp only
      split
      · refine canonical_next ?_
        refine State.finishEntry_wf ?_
        refine State.arm_wf ?_
        exact State.acceptLaunch_wf (State.fresh_wf (State.sampleTime_wf h))
      · refine canonical_next ?_
        refine State.arm_wf ?_
        exact State.acceptLaunch_wf (State.fresh_wf (State.sampleTime_wf h))

theorem execGangAbort_canonical {gang : GangAbort} {s : State} (h : Memory.wf s.mem = true) :
    Canonical (execGangAbort gang s) := by
  unfold execGangAbort
  dsimp only
  split
  · refine canonical_next ?_
    split
    · refine State.finishEntry_wf ?_
      exact h
    · refine State.finishEntry_wf ?_
      exact h
  · refine canonical_next ?_
    exact h

theorem State.gangDispatch_wf {s : State} {g : Gang} (h : Memory.wf s.mem = true) :
    Memory.wf (State.gangDispatch s g).mem = true := by
  unfold State.gangDispatch
  dsimp only
  split
  · exact h
  · split
    · exact h
    · refine State.wakeDispatch_wf ?_
      refine State.placeUnit_wf ?_
      refine State.onLaunch_wf ?_
      exact h

theorem execGangTickDispatch_canonical {gang : Nat} {s : State} (h : Memory.wf s.mem = true) :
    Canonical (execGangTickDispatch gang s) := by
  unfold execGangTickDispatch
  split
  · exact canonical_next h
  · split
    · exact canonical_next h
    · dsimp only
      refine canonical_next ?_
      refine State.gangDispatch_wf ?_
      exact h

theorem State.startLnch_wf {s : State} {e : Entry} (h : Memory.wf s.mem = true) :
    Memory.wf (State.startLnch s e).mem = true := by
  unfold State.startLnch
  dsimp only
  refine State.engOutcome_wf ?_ ?_
  · exact State.probe_wf h
  · intro s₁ h'
    split <;> exact State.finishEntry_wf (wf_fst ‹_› (State.submit_wf (h')))

theorem State.startRoost_wf {s : State} {e : Entry} (h : Memory.wf s.mem = true) :
    Memory.wf (State.startRoost s e).mem = true := by
  unfold State.startRoost
  split
  refine State.engOutcome_wf ?_ ?_
  · exact wf_fst ‹_› (State.probe_wf h)
  · intro s₁ h'
    exact State.arm_wf (State.onEntry_wf (h'))

theorem State.startRouse_wf {s : State} {e : Entry} (h : Memory.wf s.mem = true) :
    Memory.wf (State.startRouse s e).mem = true := by
  unfold State.startRouse
  dsimp only
  split
  · exact State.arm_wf (State.onEntry_wf h)
  · exact State.sendCmd_wf (State.onEntry_wf h)

theorem State.startEntry_wf {s : State} {e : Entry} (h : Memory.wf s.mem = true) :
    Memory.wf (State.startEntry s e).mem = true := by
  unfold State.startEntry
  split
  · exact State.startCopy_wf h
  · exact State.startCopy_wf h
  · exact State.startCopy_wf h
  · exact State.startCopy_wf h
  · exact State.arm_wf (State.onEntry_wf h)
  · exact State.arm_wf (State.onEntry_wf h)
  · exact State.startHread_wf h
  · exact State.arm_wf (State.onEntry_wf h)
  · exact State.startGroup_wf h
  · exact State.startGroup_wf h
  · exact State.startGroup_wf h
  · exact State.startRma_wf h
  · exact State.startRma_wf h
  · exact State.startRma_wf h
  · exact State.startRma_wf h
  · exact State.startRoost_wf h
  · exact State.startRouse_wf h
  · exact State.startLnch_wf h

theorem State.retryRecord_wf {s : State} {e : Entry} {fin : Nat × Nat × Nat × Nat × Nat} (h : Memory.wf s.mem = true) :
    Memory.wf (State.retryRecord s e fin).mem = true := by
  unfold State.retryRecord
  split
  dsimp only
  split
  · exact State.closeEntry_wf (wf_fst ‹_› (State.putRecord_wf h))
  · exact State.engineWait_wf (wf_fst ‹_› (State.putRecord_wf h))
  · exact State.closeEntry_wf (wf_fst ‹_› (State.putRecord_wf h))

theorem execEngineEntryStart_canonical {entry : Nat} {s : State} (h : Memory.wf s.mem = true) :
    Canonical (execEngineEntryStart entry s) := by
  unfold execEngineEntryStart
  split
  · exact canonical_next h
  · split
    · refine canonical_next ?_
      split
      · exact h
      · exact State.retryRecord_wf h
    · split
      · exact canonical_next h
      · exact canonical_next (State.startEntry_wf h)

theorem State.replayEntry_wf {s : State} {e : Entry} (h : Memory.wf s.mem = true) :
    Memory.wf (State.replayEntry s e).mem = true := by
  unfold State.replayEntry
  dsimp only
  split
  · exact State.arm_wf (State.onEntry_wf (State.engineResumed_wf h))
  · split
    · exact State.beginCopy_wf (State.onEntry_wf (State.engineResumed_wf h))
    · exact State.beginCopy_wf (State.onEntry_wf (State.engineResumed_wf h))
    · exact State.beginCopy_wf (State.onEntry_wf (State.engineResumed_wf h))
    · exact State.beginCopy_wf (State.onEntry_wf (State.engineResumed_wf h))
    · exact State.fetchNext_wf (State.onEntry_wf (State.onEntry_wf (State.engineResumed_wf h)))
    · split
      · exact State.onEntry_wf (State.engineResumed_wf h)
      · exact State.arm_wf (State.onEntry_wf (State.engineResumed_wf h))

theorem execCopyReplay_canonical {entry : Nat} {s : State} (h : Memory.wf s.mem = true) :
    Canonical (execCopyReplay entry s) := by
  unfold execCopyReplay
  split
  · exact canonical_next h
  · split
    · exact canonical_next (State.replayEntry_wf h)
    · exact canonical_next (State.engineResumed_wf h)

/-! ## Coherence -/

theorem execHomeRds_canonical {line agent : Nat} {s : State} (h : Memory.wf s.mem = true) :
    Canonical (execHomeRds line agent s) := by
  unfold execHomeRds
  exact canonical_next (State.netStep_wf h)

theorem execHomeRdx_canonical {line agent : Nat} {s : State} (h : Memory.wf s.mem = true) :
    Canonical (execHomeRdx line agent s) := by
  unfold execHomeRdx
  exact canonical_next (State.netStep_wf h)

theorem execHomeUpg_canonical {line agent : Nat} {s : State} (h : Memory.wf s.mem = true) :
    Canonical (execHomeUpg line agent s) := by
  unfold execHomeUpg
  exact canonical_next (State.netStep_wf h)

theorem execHomeWb_canonical {line agent : Nat} {s : State} (h : Memory.wf s.mem = true) :
    Canonical (execHomeWb line agent s) := by
  unfold execHomeWb
  exact canonical_next (State.netStep_wf h)

theorem execHomeEve_canonical {line agent : Nat} {s : State} (h : Memory.wf s.mem = true) :
    Canonical (execHomeEve line agent s) := by
  unfold execHomeEve
  exact canonical_next (State.netStep_wf h)

theorem execHomeAckReceive_canonical {line agent : Nat} {s : State} (h : Memory.wf s.mem = true) :
    Canonical (execHomeAckReceive line agent s) := by
  unfold execHomeAckReceive
  exact canonical_next (State.netStep_wf h)

theorem execHomeMemoryWriteDone_canonical {line : Nat} {s : State} (h : Memory.wf s.mem = true) :
    Canonical (execHomeMemoryWriteDone line s) := by
  unfold execHomeMemoryWriteDone
  exact canonical_next (State.netStep_wf h)

theorem execAgentFwds_canonical {line agent : Nat} {s : State} (h : Memory.wf s.mem = true) :
    Canonical (execAgentFwds line agent s) := by
  unfold execAgentFwds
  exact canonical_next (State.netStep_wf h)

theorem execAgentFwdx_canonical {line agent : Nat} {s : State} (h : Memory.wf s.mem = true) :
    Canonical (execAgentFwdx line agent s) := by
  unfold execAgentFwdx
  exact canonical_next (State.netStep_wf h)

theorem execAgentInv_canonical {line agent : Nat} {s : State} (h : Memory.wf s.mem = true) :
    Canonical (execAgentInv line agent s) := by
  unfold execAgentInv
  exact canonical_next (State.netStep_wf h)

theorem execAgentDataReceive_canonical {line agent : Nat} {s : State} (h : Memory.wf s.mem = true) :
    Canonical (execAgentDataReceive line agent s) := by
  unfold execAgentDataReceive
  dsimp only
  refine canonical_next ?_
  split
  · exact State.arm_wf (State.netStep_wf h)
  · exact State.netStep_wf h

theorem execAgentGrantReceive_canonical {line agent : Nat} {s : State} (h : Memory.wf s.mem = true) :
    Canonical (execAgentGrantReceive line agent s) := by
  unfold execAgentGrantReceive
  exact canonical_next (State.netStep_wf h)

theorem execAgentWbackReceive_canonical {line agent : Nat} {s : State} (h : Memory.wf s.mem = true) :
    Canonical (execAgentWbackReceive line agent s) := by
  unfold execAgentWbackReceive
  exact canonical_next (State.netStep_wf h)

theorem execAgentWbstaleReceive_canonical {line agent : Nat} {s : State} (h : Memory.wf s.mem = true) :
    Canonical (execAgentWbstaleReceive line agent s) := by
  unfold execAgentWbstaleReceive
  exact canonical_next (State.netStep_wf h)

theorem execAgentLineDrop_canonical {line agent : Nat} {s : State} (h : Memory.wf s.mem = true) :
    Canonical (execAgentLineDrop line agent s) := by
  unfold execAgentLineDrop
  exact canonical_next (State.netStep_wf h)

/-! ## Shard -/

theorem State.onDir_wf {s : State} {job page : Nat} {f : DirEnt → DirEnt} (h : Memory.wf s.mem = true) :
    Memory.wf (State.onDir s job page f).mem = true :=
  h

theorem State.shardReply_wf {s : State} {kind job page rank ver : Nat} {storage : Bool} {bytes : List Byte} (h :
    Memory.wf s.mem = true) :
    Memory.wf (State.shardReply s kind job page rank ver storage bytes).mem = true := by
  unfold State.shardReply
  split
  · exact State.npSay_wf h
  · split
    · exact State.arm_wf h
    · split
      · exact State.arm_wf h
      · split
        · exact h
        · repeat' split
          all_goals exact State.arm_wf h

theorem State.homeFetch_wf {s : State} {e : DirEnt} {rank : Nat} (h : Memory.wf s.mem = true) :
    Memory.wf (State.homeFetch s e rank).mem = true := by
  unfold State.homeFetch
  dsimp only
  split
  · split
    · split <;> exact State.npSay_wf (State.useNp_wf h)
    · exact h
  · split
    · exact h
    · split
      · exact State.arm_wf h
      · split
        · exact State.arm_wf (State.useNp_wf h)
        · split
          · exact State.send_wf h
          · exact State.npSay_wf h

theorem State.homeWrite_wf {s : State} {job page : Nat} (h : Memory.wf s.mem = true) :
    Memory.wf (State.homeWrite s job page).mem = true := by
  unfold State.homeWrite
  split
  · exact h
  · dsimp only
    split
    · exact State.arm_wf (State.npStore_wf (State.onDir_wf h))
    · split
      · exact State.arm_wf (State.npStore_wf h)
      · split
        · exact State.arm_wf (State.send_wf h)
        · exact State.arm_wf (State.npSay_wf h)

theorem State.askOwner_wf {s : State} {job page owner dst : Nat} {exclusive : Bool} (h : Memory.wf s.mem = true) :
    Memory.wf (State.askOwner s job page owner dst exclusive).mem = true := by
  unfold State.askOwner
  split
  · exact State.arm_wf h
  · exact State.npSay_wf h

theorem State.askHolder_wf {s : State} {job page rank : Nat} (h : Memory.wf s.mem = true) :
    Memory.wf (State.askHolder s job page rank).mem = true := by
  unfold State.askHolder
  split
  · exact State.arm_wf h
  · exact State.npSay_wf h

theorem State.grantTo_wf {s : State} {job page rank : Nat} (h : Memory.wf s.mem = true) :
    Memory.wf (State.grantTo s job page rank).mem = true := by
  unfold State.grantTo
  dsimp only
  split
  · exact State.onDir_wf h
  · exact State.shardReply_wf (State.onDir_wf h)

theorem State.serveShard_wf {s : State} {e : DirEnt} {req rank : Nat} {bytes : List Byte} (h : Memory.wf s.mem = true) :
    Memory.wf (State.serveShard s e req rank bytes).mem = true := by
  unfold State.serveShard
  dsimp only
  split
  · split
    · split
      · exact State.shardReply_wf h
      · exact State.askOwner_wf (State.onDir_wf h)
    · exact State.homeFetch_wf (State.shardReply_wf (State.onDir_wf h))
  · split
    · split
      · split
        · exact State.shardReply_wf h
        · exact State.askOwner_wf (State.onDir_wf h)
      · split
        · split
          · exact State.grantTo_wf h
          · exact foldl_wf (fun s x h => State.askHolder_wf h) (State.onDir_wf h)
        · split
          · exact State.grantTo_wf h
          · exact foldl_wf (fun s x h => State.askHolder_wf h) (State.onDir_wf h)
    · split
      · exact State.homeWrite_wf (State.onDir_wf h)
      · exact State.shardReply_wf h

theorem State.shardRun_wf {s : State} {job : Nat} {page : Nat} {x1 : Nat} (h : Memory.wf s.mem = true) : Memory.wf (State.shardRun s job page x1).mem = true := by
  induction x1 generalizing s with
  | zero =>
    exact h
  | succ n ih =>
    unfold State.shardRun
    split
    · exact h
    · split
      · exact h
      · split
        · exact h
        · apply ih
          exact State.serveShard_wf (State.onDir_wf h)

theorem State.shardNext_wf {s : State} {job page : Nat} (h : Memory.wf s.mem = true) :
    Memory.wf (State.shardNext s job page).mem = true := by
  unfold State.shardNext
  split
  · exact State.shardRun_wf h
  · exact h

theorem State.shardTake_wf {s : State} {job page req rank : Nat} {bytes : List Byte} (h : Memory.wf s.mem = true) :
    Memory.wf (State.shardTake s job page req rank bytes).mem = true := by
  unfold State.shardTake
  split
  · refine State.shardReply_wf ?_
    exact h
  · dsimp only
    split
    · refine State.shardReply_wf ?_
      dsimp only
      refine State.onDir_wf ?_
      exact h
    · refine State.shardNext_wf ?_
      split
      · refine State.onDir_wf ?_
        exact h
      · refine State.shardReply_wf ?_
        refine State.onDir_wf ?_
        exact h

theorem State.releaseHeld_wf {s : State} {names : List (Nat × Nat)} (h : Memory.wf s.mem = true) :
    Memory.wf (State.releaseHeld s names).mem = true := by
  unfold State.releaseHeld
  exact foldl_wf (fun s x h => State.shardRun_wf h) h

theorem execShardGets_canonical {job page rank : Nat} {s : State} (h : Memory.wf s.mem = true) :
    Canonical (execShardGets job page rank s) := by
  unfold execShardGets
  exact canonical_next (State.shardTake_wf h)

theorem execShardGetx_canonical {job page rank : Nat} {s : State} (h : Memory.wf s.mem = true) :
    Canonical (execShardGetx job page rank s) := by
  unfold execShardGetx
  exact canonical_next (State.shardTake_wf h)

theorem execShardWbrel_canonical {job page rank : Nat} {bytes : List Byte} {s : State} (h : Memory.wf s.mem = true) :
    Canonical (execShardWbrel job page rank bytes s) := by
  unfold execShardWbrel
  split
  · split
    · exact canonical_next (State.homeWrite_wf (State.onDir_wf h))
    · exact canonical_next (State.shardTake_wf h)
  · exact canonical_next (State.shardTake_wf h)

theorem execShardDrop_canonical {job page rank : Nat} {s : State} (h : Memory.wf s.mem = true) :
    Canonical (execShardDrop job page rank s) := by
  unfold execShardDrop
  exact canonical_next (State.onDir_wf h)

theorem State.homeWritten_wf {s : State} {e : DirEnt} {keep : Bool} (h : Memory.wf s.mem = true) :
    Memory.wf (State.homeWritten s e keep).mem = true := by
  unfold State.homeWritten
  dsimp only
  refine State.shardNext_wf ?_
  split
  · exact State.shardReply_wf (State.disarm_wf (State.onDir_wf h))
  · exact State.disarm_wf (State.onDir_wf h)

theorem State.declineWrite_wf {s : State} {e : DirEnt} {code : Nat} (h : Memory.wf s.mem = true) :
    Memory.wf (State.declineWrite s e code).mem = true := by
  unfold State.declineWrite
  dsimp only
  split
  · exact State.declinedEntry_wf (State.disarm_wf (State.onDir_wf h))
  · exact State.disarm_wf (State.onDir_wf h)

theorem execShardHomeAck_canonical {job page : Nat} {ok : Bool} {s : State} (h : Memory.wf s.mem = true) :
    Canonical (execShardHomeAck job page ok s) := by
  unfold execShardHomeAck
  split
  · exact canonical_next h
  · split
    · exact canonical_next h
    · split
      · exact canonical_next (State.homeWritten_wf h)
      · exact canonical_next (State.declineWrite_wf h)

theorem execHomeWriteTimeout_canonical {job page : Nat} {s : State} (h : Memory.wf s.mem = true) :
    Canonical (execHomeWriteTimeout job page s) := by
  unfold execHomeWriteTimeout
  split
  · exact canonical_next h
  · split
    · exact canonical_next h
    · split
      · exact canonical_next (State.declineWrite_wf (State.onDir_wf h))
      · exact canonical_next (State.homeWrite_wf (State.onDir_wf h))

theorem execShardRecallAck_canonical {job page rank : Nat} {s : State} (h : Memory.wf s.mem = true) :
    Canonical (execShardRecallAck job page rank s) := by
  unfold execShardRecallAck
  split
  · exact canonical_next h
  · split
    · exact canonical_next h
    · split
      · exact canonical_next (State.shardNext_wf (State.onDir_wf h))
      · dsimp only
        split
        · exact canonical_next h
        · split
          · exact canonical_next (State.shardNext_wf (State.grantTo_wf h))
          · exact canonical_next (State.onDir_wf h)

/-! ## Frames -/

theorem State.queueInval_wf {s : State} {wn : Nat} (h : Memory.wf s.mem = true) :
    Memory.wf (State.queueInval s wn).mem = true := by
  unfold State.queueInval
  exact State.arm_wf (State.onWorld_wf h)

theorem execInvalidationRequest_canonical {world : Nat} {s : State} (h : Memory.wf s.mem = true) :
    Canonical (execInvalidationRequest world s) := by
  unfold execInvalidationRequest
  split
  · exact canonical_next h
  · split
    · exact canonical_next (State.arm_wf h)
    · exact canonical_next (State.queueInval_wf h)

theorem State.finishWorld_wf {s : State} {wn : Nat} (h : Memory.wf s.mem = true) :
    Memory.wf (State.finishWorld s wn).mem = true := by
  unfold State.finishWorld
  exact State.readLate_wf (State.performStores_wf h)

theorem execInvalidationComplete_canonical {world : Nat} {s : State} (h : Memory.wf s.mem = true) :
    Canonical (execInvalidationComplete world s) := by
  unfold execInvalidationComplete
  split
  · exact canonical_next h
  · split
    · exact canonical_next h
    · dsimp only
      refine canonical_next ?_
      split
      · exact State.onWorld_wf (State.finishWorld_wf h)
      · exact State.arm_wf (State.onWorld_wf (State.finishWorld_wf h))

theorem State.stopAttempt_wf {s : State} {id : Nat} (h : Memory.wf s.mem = true) :
    Memory.wf (State.stopAttempt s id).mem = true :=
  h

theorem State.fillPhase_wf {s : State} {v : Service} {storage : Bool} (h : Memory.wf s.mem = true) :
    Memory.wf (State.fillPhase s v storage).mem = true := by
  unfold State.fillPhase
  exact State.arm_wf (State.onService_wf (State.stopAttempt_wf h))

theorem State.askHome_wf {s : State} {v : Service} {home : Nat × Nat × Nat} (h : Memory.wf s.mem = true) :
    Memory.wf (State.askHome s v home).mem = true := by
  unfold State.askHome
  split
  split
  · exact State.send_wf h
  · split
    · exact State.arm_wf h
    · exact State.npSay_wf h

theorem execLookupAckReceive_canonical {service : Nat} {noHome storage : Bool} {s : State} (h : Memory.wf s.mem = true)
    :
    Canonical (execLookupAckReceive service noHome storage s) := by
  unfold execLookupAckReceive
  split
  · exact canonical_next h
  · split
    · exact canonical_next h
    · split
      · exact canonical_next (State.declineService_wf h)
      · split
        · exact canonical_next (State.onService_wf h)
        · dsimp only
          split
          · exact canonical_next (State.fillPhase_wf h)
          · split
            · split
              · exact canonical_next (State.free_wf (State.fillPhase_wf h))
              · exact canonical_next (State.askHome_wf (State.onService_wf (State.free_wf (State.fillPhase_wf h))))
            · split
              · exact canonical_next (State.free_wf (State.fillPhase_wf h))
              · exact canonical_next (State.askHome_wf (State.onService_wf (State.free_wf (State.fillPhase_wf h))))

theorem execFillDataReceive_canonical {service : Nat} {bytes : List Byte} {homeError : Bool} {dataver : Nat} {s : State}
    (h : Memory.wf s.mem = true) :
    Canonical (execFillDataReceive service bytes homeError dataver s) := by
  unfold execFillDataReceive
  split
  · exact canonical_next h
  · split
    · exact canonical_next h
    · split
      · exact canonical_next (State.declineService_wf h)
      · split
        · exact canonical_next h
        · split
          · exact canonical_next h
          · exact canonical_next (State.install_wf (State.onService_wf h))

theorem State.upgraded_wf {s : State} {v : Service} {i ver : Nat} (h : Memory.wf s.mem = true) :
    Memory.wf (State.upgraded s v i ver).mem = true := by
  unfold State.upgraded
  exact State.runWake_wf (State.onService_wf (State.stopAttempt_wf (State.arm_wf (State.onOwned_wf (State.onFrame_wf
      h)))))

theorem State.fillFromHome_wf {s : State} {v : Service} (h : Memory.wf s.mem = true) :
    Memory.wf (State.fillFromHome s v).mem = true := by
  unfold State.fillFromHome
  split
  · exact State.homeFetch_wf (State.onService_wf h)
  · split
    exact State.askHome_wf (State.onService_wf (wf_snd ‹_› (State.free_wf h)))

theorem execGrantReceive_canonical {service dataver : Nat} {s : State} (h : Memory.wf s.mem = true) :
    Canonical (execGrantReceive service dataver s) := by
  unfold execGrantReceive
  split
  · exact canonical_next h
  · split
    · exact canonical_next h
    · split
      · exact canonical_next h
      · dsimp only
        split
        · exact canonical_next (State.upgraded_wf h)
        · refine canonical_next ?_
          refine State.fillFromHome_wf ?_
          refine State.fillPhase_wf ?_
          refine State.onFrame_wf ?_
          refine State.onService_wf ?_
          split
          · exact State.wakeName_wf (State.onFrame_wf (State.finishFrame_wf h))
          · exact h

theorem execHeldReceive_canonical {service : Nat} {s : State} (h : Memory.wf s.mem = true) :
    Canonical (execHeldReceive service s) := by
  unfold execHeldReceive
  split
  · exact canonical_next h
  · split
    · exact canonical_next (State.disarm_wf (State.onService_wf h))
    · exact canonical_next h

theorem execAttemptTimeout_canonical {service : Nat} {pinned : Bool} {s : State} (h : Memory.wf s.mem = true) :
    Canonical (execAttemptTimeout service pinned s) := by
  unfold execAttemptTimeout
  split
  · exact canonical_next h
  · split
    · exact canonical_next h
    · dsimp only
      split
      · exact canonical_next (State.declineService_wf (State.onService_wf (State.stopAttempt_wf h)))
      · split
        · exact canonical_next (State.arm_wf (State.onService_wf (State.stopAttempt_wf h)))
        · exact canonical_next (State.arm_wf (State.onService_wf (State.onService_wf (State.stopAttempt_wf h))))

theorem execBackoffExpiry_canonical {service : Nat} {s : State} (h : Memory.wf s.mem = true) :
    Canonical (execBackoffExpiry service s) := by
  unfold execBackoffExpiry
  split
  · exact canonical_next h
  · split
    · exact canonical_next h
    · exact canonical_next (State.fetch_wf (State.onService_wf h))

theorem State.tellShard_wf {s : State} {kind job page : Nat} {bytes : List Byte} (h : Memory.wf s.mem = true) :
    Memory.wf (State.tellShard s kind job page bytes).mem = true := by
  unfold State.tellShard
  split
  · exact h
  · split
    · exact State.arm_wf h
    · exact State.npSay_wf h

theorem execEvictionComplete_canonical {frame : Nat} {s : State} (h : Memory.wf s.mem = true) :
    Canonical (execEvictionComplete frame s) := by
  unfold execEvictionComplete
  dsimp only
  split
  · exact canonical_next h
  · split
    · exact canonical_next (State.arm_wf h)
    · split
      · exact canonical_next (State.openService_wf (State.refill_wf (State.onOwned_wf (State.onFrame_wf
          (State.recallLines_wf h)))))
      · exact canonical_next (State.onService_wf (State.refill_wf (State.onOwned_wf (State.onFrame_wf
          (State.recallLines_wf h)))))
      · exact canonical_next (State.refill_wf (State.onOwned_wf (State.onFrame_wf (State.recallLines_wf h))))

theorem execHolderRecall_canonical {job page : Nat} {s : State} (h : Memory.wf s.mem = true) :
    Canonical (execHolderRecall job page s) := by
  unfold execHolderRecall
  dsimp only
  split
  · exact canonical_next (State.tellShard_wf (State.onOwned_wf h))
  · split
    · exact canonical_next (State.onOwned_wf h)
    · split
      · exact canonical_next (State.tellShard_wf (State.arm_wf (State.wakeName_wf (State.onFrame_wf
          (State.finishFrame_wf (State.onOwned_wf h))))))
      · exact canonical_next (State.tellShard_wf (State.onOwned_wf h))

theorem State.sendData_wf {s : State} {job page dst : Nat} {bytes : List Byte} (h : Memory.wf s.mem = true) :
    Memory.wf (State.sendData s job page dst bytes).mem = true := by
  unfold State.sendData
  exact State.npSay_wf h

theorem execOwnerXferS_canonical {job page dst : Nat} {s : State} (h : Memory.wf s.mem = true) :
    Canonical (execOwnerXferS job page dst s) := by
  unfold execOwnerXferS
  split
  · exact canonical_next h
  · split
    · exact canonical_next (State.onOwned_wf h)
    · split
      · split
        · exact canonical_next (State.onOwned_wf (State.tellShard_wf (State.sendData_wf h)))
        · exact canonical_next h
      · split
        · exact canonical_next (State.wakeName_wf (State.onOwned_wf (State.onFrame_wf (State.tellShard_wf
            (State.sendData_wf (State.useNp_wf (State.finishFrame_wf h)))))))
        · exact canonical_next h

theorem execOwnerXferX_canonical {job page dst : Nat} {s : State} (h : Memory.wf s.mem = true) :
    Canonical (execOwnerXferX job page dst s) := by
  unfold execOwnerXferX
  split
  · exact canonical_next h
  · split
    · exact canonical_next (State.onOwned_wf h)
    · split
      · split
        · exact canonical_next (State.onOwned_wf (State.tellShard_wf (State.sendData_wf h)))
        · exact canonical_next h
      · split
        · exact canonical_next (State.arm_wf (State.wakeName_wf (State.onOwned_wf (State.onFrame_wf
            (State.tellShard_wf (State.sendData_wf (State.useNp_wf (State.finishFrame_wf h))))))))
        · exact canonical_next h

theorem State.xferAgain_wf {s : State} {job page : Nat} (h : Memory.wf s.mem = true) :
    Memory.wf (State.xferAgain s job page).mem = true := by
  unfold State.xferAgain
  split
  · exact State.arm_wf h
  · exact State.arm_wf h
  · exact h

theorem execTenureEnd_canonical {job page : Nat} {s : State} (h : Memory.wf s.mem = true) :
    Canonical (execTenureEnd job page s) := by
  unfold execTenureEnd
  exact canonical_next (State.xferAgain_wf (State.onOwned_wf h))

theorem State.wroteBack_wf {s : State} {job page : Nat} (h : Memory.wf s.mem = true) :
    Memory.wf (State.wroteBack s job page).mem = true := by
  unfold State.wroteBack
  split
  · split
    · exact State.arm_wf (State.onOwned_wf h)
    · exact h
  · exact h

theorem execWbackReceive_canonical {job page : Nat} {s : State} (h : Memory.wf s.mem = true) :
    Canonical (execWbackReceive job page s) := by
  unfold execWbackReceive
  exact canonical_next (State.wroteBack_wf h)

theorem execStaleReceive_canonical {job page : Nat} {s : State} (h : Memory.wf s.mem = true) :
    Canonical (execStaleReceive job page s) := by
  unfold execStaleReceive
  exact canonical_next (State.wroteBack_wf h)

theorem execFrameAging_canonical {touched : List Nat} {s : State} (h : Memory.wf s.mem = true) :
    Canonical (execFrameAging touched s) := by
  unfold execFrameAging
  refine canonical_next ?_
  exact h

theorem execUncorrectableMemoryError_canonical {pa granules : Nat} {s : State} (h : Memory.wf s.mem = true) :
    Canonical (execUncorrectableMemoryError pa granules s) := by
  unfold execUncorrectableMemoryError
  dsimp only
  refine canonical_next ?_
  refine State.send_wf ?_
  split
  · exact State.poisonAt_wf h
  · split
    · exact State.onCrew_wf h
    · exact State.onUnit_wf (State.free_wf h)

theorem State.onStream_wf {s : State} {wn i : Nat} {f : Stream → Stream} (h : Memory.wf s.mem = true) :
    Memory.wf (State.onStream s wn i f).mem = true :=
  h

theorem State.prefetchPage_wf {s : State} {wn i job page : Nat} (h : Memory.wf s.mem = true) :
    Memory.wf (State.prefetchPage s wn i job page).mem = true := by
  unfold State.prefetchPage
  split
  · exact h
  · exact State.onStream_wf (State.openService_wf h)

theorem execPrefetchTick_canonical {world stream : Nat} {s : State} (h : Memory.wf s.mem = true) :
    Canonical (execPrefetchTick world stream s) := by
  unfold execPrefetchTick
  split
  · exact canonical_next h
  · dsimp only
    split
    · exact canonical_next h
    · split
      · exact canonical_next (foldl_wf (fun s x h => State.prefetchPage_wf h) (State.onStream_wf (State.arm_wf
          (State.devTouch_wf (State.devTouch_wf h)))))
      · exact canonical_next (State.arm_wf (State.devTouch_wf (State.devTouch_wf h)))

/-! ## Command -/

theorem State.cmdDone_wf {s : State} {wn stat : Nat} (h : Memory.wf s.mem = true) :
    Memory.wf (State.cmdDone s wn stat).mem = true :=
  h

theorem State.npInstall_wf {s : State} {w : World} {dirty : Bool} (h : Memory.wf s.mem = true) :
    Memory.wf (State.npInstall s w dirty).mem = true := by
  unfold State.npInstall
  dsimp only
  split
  · exact State.cmdDone_wf h
  · split
    · exact State.cmdDone_wf h
    · split
      · exact State.cmdDone_wf h
      · refine State.cmdDone_wf ?_
        split
        · exact State.askShard_wf (State.install_wf (State.onService_wf (State.useNp_wf h)))
        · exact State.install_wf (State.onService_wf (State.useNp_wf h))

theorem State.npRetry_wf {s : State} {w : World} (h : Memory.wf s.mem = true) :
    Memory.wf (State.npRetry s w).mem = true := by
  unfold State.npRetry
  dsimp only
  split
  · refine State.cmdDone_wf ?_
    split
    · exact State.fetch_wf (State.onService_wf (foldl_wf (fun s x h => State.onFault_wf h) h))
    · exact State.arm_wf (State.onService_wf (foldl_wf (fun s x h => State.onFault_wf h) h))
  · split
    · exact State.cmdDone_wf (State.homeWrite_wf (State.onDir_wf h))
    · exact State.cmdDone_wf h

theorem State.killWaiter_wf {s : State} {gid : Nat} {tr : Trap} (h : Memory.wf s.mem = true) :
    Memory.wf (State.killWaiter s gid tr).mem = true := by
  unfold State.killWaiter
  split
  · exact h
  · split
    · exact State.async_wf h
    · exact h

theorem State.killEngine_wf {s : State} {v : Service} {fseq : Word} {id : Nat} (h : Memory.wf s.mem = true) :
    Memory.wf (State.killEngine s v fseq id).mem = true := by
  unfold State.killEngine
  dsimp only
  split
  · exact State.onFault_wf h
  · split
    · exact State.closeEntry_wf (State.onFault_wf h)
    · split
      · exact foldl_wf (fun s x h => State.burstFailed_wf h) (State.onFault_wf h)
      · exact State.engEnd_wf (State.onFault_wf h)

theorem State.npKill_wf {s : State} {w : World} (h : Memory.wf s.mem = true) :
    Memory.wf (State.npKill s w).mem = true := by
  unfold State.npKill
  dsimp only
  split
  · refine State.cmdDone_wf ?_
    refine State.runWake_wf ?_
    refine foldl_wf (fun s x h => ?_) ?_
    · split
      · split
        · exact State.killWaiter_wf h
        · exact h
      · exact State.killEngine_wf h
    · exact State.onService_wf h
  · split
    · exact State.cmdDone_wf (State.homeWritten_wf h)
    · exact State.cmdDone_wf h

theorem State.npPin_wf {s : State} {w : World} (h : Memory.wf s.mem = true) :
    Memory.wf (State.npPin s w).mem = true := by
  unfold State.npPin
  dsimp only
  split
  · exact State.cmdDone_wf h
  · split
    · exact State.cmdDone_wf h
    · split
      · exact State.cmdDone_wf h
      · split
        · exact State.cmdDone_wf h
        · split
          · exact State.cmdDone_wf (State.onOwned_wf h)
          · exact State.cmdDone_wf (State.onFrame_wf h)

theorem State.npUnpin_wf {s : State} {w : World} (h : Memory.wf s.mem = true) :
    Memory.wf (State.npUnpin s w).mem = true := by
  unfold State.npUnpin
  dsimp only
  split
  · exact State.cmdDone_wf h
  · split
    · exact State.cmdDone_wf h
    · refine State.cmdDone_wf ?_
      split
      · refine State.arm_wf ?_
        refine State.xferAgain_wf ?_
        split
        · exact State.arm_wf (State.onFrame_wf h)
        · exact State.onFrame_wf h
      · refine State.xferAgain_wf ?_
        split
        · exact State.arm_wf (State.onFrame_wf h)
        · exact State.onFrame_wf h

theorem State.npDirset_wf {s : State} {w : World} (h : Memory.wf s.mem = true) :
    Memory.wf (State.npDirset s w).mem = true := by
  unfold State.npDirset
  dsimp only
  split
  · refine State.cmdDone_wf ?_
    split
    · exact h
    · refine State.devTouch_wf ?_
      exact h
  · split
    · split
      · refine State.cmdDone_wf ?_
        refine State.useNp_wf ?_
        exact h
      · split
        · refine State.cmdDone_wf ?_
          dsimp only
          refine State.useNp_wf ?_
          exact h
        · refine State.cmdDone_wf ?_
          dsimp only
          refine State.useNp_wf ?_
          exact h
    · split
      · refine State.cmdDone_wf ?_
        refine State.useNp_wf ?_
        refine State.devTouch_wf ?_
        exact h
      · split
        · refine State.cmdDone_wf ?_
          dsimp only
          refine State.useNp_wf ?_
          refine State.devTouch_wf ?_
          exact h
        · refine State.cmdDone_wf ?_
          dsimp only
          refine State.useNp_wf ?_
          refine State.devTouch_wf ?_
          exact h

theorem State.npCommand_wf {s : State} {wn : Nat} {f : State → World → State} (hs : Memory.wf s.mem = true) (hf : ∀ s₁
    x₁, Memory.wf s₁.mem = true → Memory.wf (f s₁ x₁).mem = true) :
    Memory.wf (State.npCommand s wn f).mem = true := by
  unfold State.npCommand
  split
  · apply hf
    exact hs
  · exact hs

theorem execInstallClean_canonical {world : Nat} {s : State} (h : Memory.wf s.mem = true) :
    Canonical (execInstallClean world s) := by
  unfold execInstallClean
  refine canonical_next ?_
  refine State.npCommand_wf ?_ ?_
  · exact h
  · intro s₁ x₁ h'
    exact State.npInstall_wf (h')

theorem execInstallDirty_canonical {world : Nat} {s : State} (h : Memory.wf s.mem = true) :
    Canonical (execInstallDirty world s) := by
  unfold execInstallDirty
  refine canonical_next ?_
  refine State.npCommand_wf ?_ ?_
  · exact h
  · intro s₁ x₁ h'
    exact State.npInstall_wf (h')

theorem execRetry_canonical {world : Nat} {s : State} (h : Memory.wf s.mem = true) : Canonical (execRetry world s) := by
  unfold execRetry
  refine canonical_next ?_
  refine State.npCommand_wf ?_ ?_
  · exact h
  · intro s₁ x₁ h'
    exact State.npRetry_wf (h')

theorem execKill_canonical {world : Nat} {s : State} (h : Memory.wf s.mem = true) : Canonical (execKill world s) := by
  unfold execKill
  refine canonical_next ?_
  refine State.npCommand_wf ?_ ?_
  · exact h
  · intro s₁ x₁ h'
    exact State.npKill_wf (h')

theorem execPin_canonical {world : Nat} {s : State} (h : Memory.wf s.mem = true) : Canonical (execPin world s) := by
  unfold execPin
  refine canonical_next ?_
  refine State.npCommand_wf ?_ ?_
  · exact h
  · intro s₁ x₁ h'
    exact State.npPin_wf (h')

theorem execUnpin_canonical {world : Nat} {s : State} (h : Memory.wf s.mem = true) : Canonical (execUnpin world s) := by
  unfold execUnpin
  refine canonical_next ?_
  refine State.npCommand_wf ?_ ?_
  · exact h
  · intro s₁ x₁ h'
    exact State.npUnpin_wf (h')

theorem execDirset_canonical {world : Nat} {s : State} (h : Memory.wf s.mem = true) :
    Canonical (execDirset world s) := by
  unfold execDirset
  refine canonical_next ?_
  refine State.npCommand_wf ?_ ?_
  · exact h
  · intro s₁ x₁ h'
    exact State.npDirset_wf (h')

/-! ## Checkpoint -/

theorem State.ckEnd_wf {s : State} {stat err : Nat} {stuck : Bool} (h : Memory.wf s.mem = true) :
    Memory.wf (State.ckEnd s stat err stuck).mem = true := by
  unfold State.ckEnd
  dsimp only
  refine State.releaseHeld_wf ?_
  split
  · exact h
  · refine State.wakeDispatch_wf ?_
    exact h

theorem State.ckStart_wf {s : State} {pass : Nat} (h : Memory.wf s.mem = true) :
    Memory.wf (State.ckStart s pass).mem = true := by
  unfold State.ckStart
  split
  · exact h
  · split
    · exact h
    · refine State.arm_wf ?_
      exact h

theorem execCheckpointSave_canonical {s : State} (h : Memory.wf s.mem = true) : Canonical (execCheckpointSave s) := by
  unfold execCheckpointSave
  exact canonical_next (State.ckStart_wf h)

theorem execCheckpointRestore_canonical {s : State} (h : Memory.wf s.mem = true) :
    Canonical (execCheckpointRestore s) := by
  unfold execCheckpointRestore
  exact canonical_next (State.ckStart_wf h)

theorem State.ckAbort_wf {s : State} (h : Memory.wf s.mem = true) : Memory.wf (State.ckAbort s).mem = true := by
  unfold State.ckAbort
  split <;> exact h

theorem execCheckpointAbort_canonical {s : State} (h : Memory.wf s.mem = true) :
    Canonical (execCheckpointAbort s) := by
  unfold execCheckpointAbort
  exact canonical_next (State.ckAbort_wf h)

theorem State.loadTables_wf {s : State} (h : Memory.wf s.mem = true) : Memory.wf s.loadTables.mem = true :=
  Memory.wf_filter _ h

theorem State.ckSend_wf {s : State} {off : Nat} {l : List Byte} (h : Memory.wf s.mem = true) :
    Memory.wf (State.ckSend s off l).mem = true :=
  h

theorem State.saveSegment_wf {s : State} (h : Memory.wf s.mem = true) : Memory.wf s.saveSegment.mem = true := by
  unfold State.saveSegment
  extract_lets l crcs ck s1
  have h1 : Memory.wf s1.mem = true := by
    unfold s1
    refine State.ckSend_wf ?_
    exact h
  clear_value s1
  split
  · exact h1
  · exact State.ckSend_wf h1

theorem execCheckpointDrainDone_canonical {s : State} (h : Memory.wf s.mem = true) :
    Canonical (execCheckpointDrainDone s) := by
  unfold execCheckpointDrainDone
  split
  · exact canonical_next h
  · split
    · exact canonical_next (State.arm_wf h)
    · dsimp only
      refine canonical_next ?_
      split
      · refine State.arm_wf ?_
        refine State.ckSend_wf ?_
        exact h
      · exact h

theorem State.writeSegment_wf {s : State} {pa : Nat} {l : List Byte} (h : Memory.wf s.mem = true) :
    Memory.wf (s.writeSegment pa l).mem = true :=
  State.writeSegment_memOk pa l h

theorem State.afterRestore_wf {s : State} (h : Memory.wf s.mem = true) :
    Memory.wf (State.afterRestore s).mem = true := by
  unfold State.afterRestore
  refine State.loadTables_wf ?_
  exact h

theorem State.ckNext_wf {s : State} (h : Memory.wf s.mem = true) : Memory.wf s.ckNext.mem = true := by
  unfold State.ckNext
  extract_lets n ck s1
  clear_value n
  have h1 : Memory.wf s1.mem = true := h
  split
  · split
    · exact State.arm_wf h1
    · exact h1
  · split
    · exact h1
    · split
      · exact State.ckEnd_wf (State.afterRestore_wf h1)
      · exact State.ckEnd_wf h1

theorem State.ckCheckHeader_wf {s : State} {l : List Byte} (h : Memory.wf s.mem = true) :
    Memory.wf (State.ckCheckHeader s l).mem = true := by
  unfold State.ckCheckHeader
  split
  · exact h
  · exact State.ckEnd_wf h

theorem execCheckpointSegmentDone_canonical {outcome : Nat} {bytes : List Byte} {s : State} (h : Memory.wf s.mem =
    true) :
    Canonical (execCheckpointSegmentDone outcome bytes s) := by
  unfold execCheckpointSegmentDone
  dsimp only
  split
  · exact canonical_next h
  · split
    · exact canonical_next (State.ckEnd_wf h)
    · split
      · split
        · exact canonical_next (State.ckEnd_wf h)
        · exact canonical_next (State.ckNext_wf (State.saveSegment_wf h))
      · split
        · split
          · exact canonical_next (State.ckEnd_wf h)
          · split
            · exact canonical_next (State.ckCheckHeader_wf h)
            · split
              · exact canonical_next (State.ckNext_wf h)
              · exact canonical_next (State.ckEnd_wf h)
        · split
          · exact canonical_next (State.ckEnd_wf h)
          · exact canonical_next (State.ckNext_wf (State.writeSegment_wf h))

/-! ## Fabric -/

theorem State.failEntry_wf {s : State} {id status reason : Nat} (h : Memory.wf s.mem = true) :
    Memory.wf (State.failEntry s id status reason).mem = true := by
  unfold State.failEntry
  split
  · exact h
  · split
    · exact h
    · split
      · refine elim_wf ?_ ?_
        · exact h
        · intro a
          exact State.burstError_wf h
      · exact State.engEnd_wf (State.dropWaiter_wf (State.tearEntry_wf h))

theorem State.linkLost_wf {s : State} {entry pa granules : Nat} (h : Memory.wf s.mem = true) :
    Memory.wf (State.linkLost s entry pa granules).mem = true := by
  unfold State.linkLost
  split
  · exact State.failEntry_wf h
  · exact State.poisonAt_wf h

theorem State.linkRetry_wf {s : State} {id : Nat} (h : Memory.wf s.mem = true) :
    Memory.wf (State.linkRetry s id).mem = true := by
  unfold State.linkRetry
  split
  · exact h
  · split
    · exact h
    · split
      · refine elim_wf ?_ ?_
        · exact h
        · intro a
          exact State.burstError_wf h
      · split
        · exact State.failEntry_wf h
        · dsimp only
          split
          · exact State.arm_wf (State.disarm_wf (State.onEntry_wf (State.tearEntry_wf (State.onEntry_wf h))))
          · exact State.arm_wf (State.disarm_wf (State.onEntry_wf (State.tearEntry_wf (State.onEntry_wf h))))
          · exact State.arm_wf (State.disarm_wf (State.onEntry_wf (State.tearEntry_wf (State.onEntry_wf h))))
          · exact State.arm_wf (State.disarm_wf (State.onEntry_wf (State.tearEntry_wf (State.onEntry_wf h))))
          · exact State.onEntry_wf h

theorem State.transportFailed_wf {s : State} {peer owner part : Nat} (h : Memory.wf s.mem = true) :
    Memory.wf (State.transportFailed s peer owner part).mem = true := by
  unfold State.transportFailed
  dsimp only
  split
  · split
    · exact State.burstError_wf h
    · exact State.failEntry_wf h
  · exact State.arm_wf h
  · exact h

theorem State.takeReply_wf {s : State} {r : Reply} (h : Memory.wf s.mem = true) :
    Memory.wf (State.takeReply s r).mem = true := by
  unfold State.takeReply
  split
  · exact h
  · split
    · exact h
    · split
      · split
        · exact State.burstError_wf h
        · exact State.finishEntry_wf (State.dropWaiter_wf (State.withdraw_wf h))
      · split
        · exact State.finishEntry_wf h
        · exact State.arm_wf h
        · exact h

theorem execPacketReceive_canonical {pkt : Packet} {s : State} (h : Memory.wf s.mem = true) :
    Canonical (execPacketReceive pkt s) := by
  unfold execPacketReceive
  split
  · exact canonical_next h
  · split
    · exact canonical_next (State.onWorld_wf h)
    · split
      · exact canonical_next (State.onWorld_wf h)
      · dsimp only
        split
        · exact canonical_next (State.countPacket_wf (State.send_wf h))
        · split
          · refine execRmaRequestReceive_canonical ?_
            split
            · exact State.takeReply_wf (State.onPeer_wf (State.countPacket_wf (State.send_wf h)))
            · exact State.onPeer_wf (State.countPacket_wf (State.send_wf h))
          · refine canonical_next ?_
            split
            · exact State.takeReply_wf (State.onPeer_wf (State.countPacket_wf (State.send_wf h)))
            · exact State.onPeer_wf (State.countPacket_wf (State.send_wf h))

theorem State.onSent_wf {s : State} {peer seq : Nat} {f : Sent → Sent} (h : Memory.wf s.mem = true) :
    Memory.wf (State.onSent s peer seq f).mem = true :=
  h

theorem State.reroute_wf {s : State} {peer : Nat} {x : Sent} (h : Memory.wf s.mem = true) :
    Memory.wf (State.reroute s peer x).1.mem = true := by
  unfold State.reroute
  dsimp only
  refine State.route_wf ?_
  split
  · exact State.onPeer_wf h
  · exact h

theorem execRetransmitTimeout_canonical {peer seq : Nat} {s : State} (h : Memory.wf s.mem = true) :
    Canonical (execRetransmitTimeout peer seq s) := by
  unfold execRetransmitTimeout
  split
  · exact canonical_next h
  · split
    · exact canonical_next h
    · split
      · refine canonical_next ?_
        refine State.transportFailed_wf ?_
        split
        · exact State.onSent_wf h
        · exact State.onPeer_wf h
      · split
        exact canonical_next (State.arm_wf (State.countPacket_wf (State.send_wf (State.onSent_wf (wf_fst ‹_›
            (State.reroute_wf h))))))

theorem State.acknowledged_wf {s : State} {peer seq : Nat} (h : Memory.wf s.mem = true) :
    Memory.wf (State.acknowledged s peer seq).mem = true := by
  unfold State.acknowledged
  exact State.a2avCheck_wf (State.disarm_wf (State.onPeer_wf h))

theorem execAckReceive_canonical {peer seq : Nat} {marked : Bool} {s : State} (h : Memory.wf s.mem = true) :
    Canonical (execAckReceive peer seq marked s) := by
  unfold execAckReceive
  dsimp only
  split
  · exact canonical_next (State.acknowledged_wf h)
  · exact canonical_next (State.arm_wf (State.onPeer_wf (State.acknowledged_wf h)))

theorem execRateRiseTick_canonical {peer : Nat} {s : State} (h : Memory.wf s.mem = true) :
    Canonical (execRateRiseTick peer s) := by
  unfold execRateRiseTick
  dsimp only
  refine canonical_next ?_
  split
  · exact State.arm_wf (State.onPeer_wf h)
  · exact State.onPeer_wf h

theorem execPtpSync_canonical {elapsed : Nat} {correction : Int} {s : State} (h : Memory.wf s.mem = true) :
    Canonical (execPtpSync elapsed correction s) := by
  unfold execPtpSync
  dsimp only
  refine canonical_next ?_
  exact h

theorem execPtpLockLoss_canonical {s : State} (h : Memory.wf s.mem = true) : Canonical (execPtpLockLoss s) := by
  unfold execPtpLockLoss
  refine canonical_next ?_
  exact h

theorem execPortDown_canonical {port : Nat} {s : State} (h : Memory.wf s.mem = true) :
    Canonical (execPortDown port s) := by
  unfold execPortDown
  dsimp only
  refine canonical_next ?_
  split
  · refine State.ckEnd_wf ?_
    exact h
  · exact h

theorem execPortUp_canonical {port : Nat} {s : State} (h : Memory.wf s.mem = true) : Canonical (execPortUp port s) := by
  unfold execPortUp
  refine canonical_next ?_
  exact h

theorem execDieFlitReceive_canonical {die world entry pa granules : Nat} {s : State} (h : Memory.wf s.mem = true) :
    Canonical (execDieFlitReceive die world entry pa granules s) := by
  unfold execDieFlitReceive
  split
  · exact canonical_next h
  · refine canonical_next ?_
    refine State.linkLost_wf ?_
    exact h

theorem State.onLink_wf {s : State} {i : Nat} {f : Link → Link} (h : Memory.wf s.mem = true) :
    Memory.wf (State.onLink s i f).mem = true :=
  h

theorem execLinkUnitReceive_canonical {link : Nat} {tagOk : Bool} {entry pa granules : Nat} {s : State} (h : Memory.wf
    s.mem = true) :
    Canonical (execLinkUnitReceive link tagOk entry pa granules s) := by
  unfold execLinkUnitReceive
  split
  · exact canonical_next (State.onLink_wf h)
  · split
    · exact canonical_next (State.linkLost_wf (State.onLink_wf h))
    · exact canonical_next (State.linkRetry_wf (State.onLink_wf h))

theorem execLinkUnitClose_canonical {link : Nat} {s : State} (h : Memory.wf s.mem = true) :
    Canonical (execLinkUnitClose link s) := by
  unfold execLinkUnitClose
  exact canonical_next (State.onLink_wf h)

theorem execLinkKeyRenew_canonical {link : Nat} {s : State} (h : Memory.wf s.mem = true) :
    Canonical (execLinkKeyRenew link s) := by
  unfold execLinkKeyRenew
  exact canonical_next (State.onLink_wf h)

theorem State.setEpoch_wf {s : State} {job : Nat} {e : Nat × Bool} (h : Memory.wf s.mem = true) :
    Memory.wf (State.setEpoch s job e).mem = true :=
  h

theorem State.holdKey_wf {s : State} {job : Nat} (h : Memory.wf s.mem = true) :
    Memory.wf (State.holdKey s job).mem = true := by
  unfold State.holdKey
  split
  · exact State.setEpoch_wf h
  · exact h

theorem State.attestRank_wf {s : State} {job rank : Nat} (h : Memory.wf s.mem = true) :
    Memory.wf (State.attestRank s job rank).mem = true :=
  h

theorem execSessionKeyDistribution_canonical {job rank : Nat} {attested : Bool} {s : State} (h : Memory.wf s.mem =
    true) :
    Canonical (execSessionKeyDistribution job rank attested s) := by
  unfold execSessionKeyDistribution
  split
  · exact canonical_next h
  · split
    · refine canonical_next ?_
      split
      · exact State.holdKey_wf h
      · exact h
    · split
      · exact canonical_next (State.holdKey_wf h)
      · dsimp only
        split
        · exact canonical_next (State.transmitPart_wf (State.send_wf (State.onPeer_wf (State.holdKey_wf
            (State.attestRank_wf h)))))
        · exact canonical_next (State.onPeer_wf (State.attestRank_wf h))

theorem execEpochAdvance_canonical {job : Nat} {s : State} (h : Memory.wf s.mem = true) :
    Canonical (execEpochAdvance job s) := by
  unfold execEpochAdvance
  dsimp only
  split
  · exact canonical_next h
  · refine canonical_next ?_
    refine State.arm_wf ?_
    refine State.setEpoch_wf ?_
    exact h

theorem execEpochOverlapEnd_canonical {job : Nat} {s : State} (h : Memory.wf s.mem = true) :
    Canonical (execEpochOverlapEnd job s) := by
  unfold execEpochOverlapEnd
  exact canonical_next (State.setEpoch_wf h)

/-! ## Trust -/

theorem State.runs_wf {s : State} {component digest : Nat} (h : Memory.wf s.mem = true) :
    Memory.wf (State.runs s component digest).mem = true :=
  h

theorem State.measured_wf {s : State} {component digest : Nat} (h : Memory.wf s.mem = true) :
    Memory.wf (State.measured s component digest).mem = true :=
  h

theorem execFirmwareActivation_canonical {component target svn : Nat} {ecdsaOk hssOk : Bool} {digest : Nat} {live : Bool}
    {s : State} (h : Memory.wf s.mem = true) :
    Canonical (execFirmwareActivation component target svn ecdsaOk hssOk digest live s) := by
  unfold execFirmwareActivation
  split
  · exact canonical_next (State.send_wf h)
  · dsimp only
    split
    · refine canonical_next ?_
      refine State.post_wf ?_
      exact h
    · refine canonical_next ?_
      refine State.measured_wf ?_
      refine State.runs_wf ?_
      exact h

theorem execLiveActivationEnd_canonical {component digest : Nat} {s : State} (h : Memory.wf s.mem = true) :
    Canonical (execLiveActivationEnd component digest s) := by
  unfold execLiveActivationEnd
  refine canonical_next ?_
  refine State.measured_wf ?_
  refine State.runs_wf ?_
  exact h

theorem State.spdmError_wf {s : State} {code : Nat} (h : Memory.wf s.mem = true) :
    Memory.wf (State.spdmError s code).mem = true :=
  h

theorem State.spdm13_canonical {s : State} {version : Nat} {serve : State → State} (hs : Memory.wf s.mem = true)
    (hserve : ∀ s₁, Memory.wf s₁.mem = true → Memory.wf (serve s₁).mem = true) :
    Canonical (State.spdm13 s version serve) := by
  unfold State.spdm13
  refine canonical_next ?_
  split
  · apply hserve
    exact hs
  · exact State.spdmError_wf hs

theorem State.signed_wf {s : State} {answer : State → State} (hs : Memory.wf s.mem = true) (hanswer : ∀ s₁, Memory.wf
    s₁.mem = true → Memory.wf (answer s₁).mem = true) :
    Memory.wf (State.signed s answer).mem = true := by
  unfold State.signed
  split
  · exact State.spdmError_wf hs
  · apply hanswer
    exact hs

theorem execGetVersion_canonical {version : Nat} {s : State} (h : Memory.wf s.mem = true) :
    Canonical (execGetVersion version s) := by
  unfold execGetVersion
  refine State.spdm13_canonical ?_ ?_
  · exact h
  · intro s₁ h'
    exact State.send_wf (h')

theorem execGetCapabilities_canonical {version : Nat} {s : State} (h : Memory.wf s.mem = true) :
    Canonical (execGetCapabilities version s) := by
  unfold execGetCapabilities
  refine State.spdm13_canonical ?_ ?_
  · exact h
  · intro s₁ h'
    exact State.send_wf (h')

theorem execNegotiateAlgorithms_canonical {version : Nat} {supported : Bool} {s : State} (h : Memory.wf s.mem = true) :
    Canonical (execNegotiateAlgorithms version supported s) := by
  unfold execNegotiateAlgorithms
  refine State.spdm13_canonical ?_ ?_
  · exact h
  · intro s₁ h'
    split
    · exact State.send_wf (h')
    · exact State.spdmError_wf (h')

theorem execGetDigests_canonical {version : Nat} {s : State} (h : Memory.wf s.mem = true) :
    Canonical (execGetDigests version s) := by
  unfold execGetDigests
  refine State.spdm13_canonical ?_ ?_
  · exact h
  · intro s₁ h'
    exact State.send_wf (h')

theorem execGetCertificate_canonical {version slot : Nat} {s : State} (h : Memory.wf s.mem = true) :
    Canonical (execGetCertificate version slot s) := by
  unfold execGetCertificate
  refine State.spdm13_canonical ?_ ?_
  · exact h
  · intro s₁ h'
    split
    · exact State.send_wf (h')
    · exact State.spdmError_wf (h')

theorem execChallenge_canonical {version slot nonce : Nat} {s : State} (h : Memory.wf s.mem = true) :
    Canonical (execChallenge version slot nonce s) := by
  unfold execChallenge
  refine State.spdm13_canonical ?_ ?_
  · exact h
  · intro s₁ h'
    split
    · exact State.spdmError_wf (h')
    · refine State.signed_wf ?_ ?_
      · exact h'
      · intro s₁ h
        exact State.send_wf h

theorem execGetMeasurements_canonical {version index : Nat} {signed : Bool} {nonce : Nat} {s : State} (h : Memory.wf
    s.mem = true) :
    Canonical (execGetMeasurements version index signed nonce s) := by
  unfold execGetMeasurements
  refine State.spdm13_canonical ?_ ?_
  · exact h
  · intro s₁ h'
    split
    · exact State.spdmError_wf (h')
    · split
      · exact State.spdmError_wf (h')
      · split
        · refine State.signed_wf ?_ ?_
          · exact h'
          · intro s₁ h
            exact State.send_wf h
        · exact State.send_wf (h')

theorem State.inSession_wf {s : State} {session : Nat} {serve : State → State} (hs : Memory.wf s.mem = true) (hserve :
    ∀ s₁, Memory.wf s₁.mem = true → Memory.wf (serve s₁).mem = true) :
    Memory.wf (State.inSession s session serve).mem = true := by
  unfold State.inSession
  split
  · apply hserve
    exact hs
  · exact State.spdmError_wf hs

theorem State.dropSession_wf {s : State} {session : Nat} (h : Memory.wf s.mem = true) :
    Memory.wf (State.dropSession s session).mem = true :=
  h

theorem execKeyExchange_canonical {version slot : Nat} {s : State} (h : Memory.wf s.mem = true) :
    Canonical (execKeyExchange version slot s) := by
  unfold execKeyExchange
  refine State.spdm13_canonical ?_ ?_
  · exact h
  · intro s₁ h'
    split
    · exact State.spdmError_wf (h')
    · refine State.signed_wf ?_ ?_
      · exact h'
      · intro s₁ h
        refine State.send_wf ?_
        exact h

theorem execFinish_canonical {version session : Nat} {verified : Bool} {s : State} (h : Memory.wf s.mem = true) :
    Canonical (execFinish version session verified s) := by
  unfold execFinish
  refine State.spdm13_canonical ?_ ?_
  · exact h
  · intro s₁ h'
    refine State.inSession_wf ?_ ?_
    · exact h'
    · intro s₁ h
      split
      · exact State.send_wf h
      · exact State.spdmError_wf (State.dropSession_wf h)

theorem execHeartbeat_canonical {version session : Nat} {s : State} (h : Memory.wf s.mem = true) :
    Canonical (execHeartbeat version session s) := by
  unfold execHeartbeat
  refine State.spdm13_canonical ?_ ?_
  · exact h
  · intro s₁ h'
    refine State.inSession_wf ?_ ?_
    · exact h'
    · intro s₁ h
      exact State.send_wf h

theorem execKeyUpdate_canonical {version session : Nat} {s : State} (h : Memory.wf s.mem = true) :
    Canonical (execKeyUpdate version session s) := by
  unfold execKeyUpdate
  refine State.spdm13_canonical ?_ ?_
  · exact h
  · intro s₁ h'
    refine State.inSession_wf ?_ ?_
    · exact h'
    · intro s₁ h
      exact State.send_wf h

theorem execEndSession_canonical {version session : Nat} {s : State} (h : Memory.wf s.mem = true) :
    Canonical (execEndSession version session s) := by
  unfold execEndSession
  refine State.spdm13_canonical ?_ ?_
  · exact h
  · intro s₁ h'
    refine State.inSession_wf ?_ ?_
    · exact h'
    · intro s₁ h
      exact State.send_wf (State.dropSession_wf h)

theorem execSpdmUnsupportedRequest_canonical {version code : Nat} {s : State} (h : Memory.wf s.mem = true) :
    Canonical (execSpdmUnsupportedRequest version code s) := by
  unfold execSpdmUnsupportedRequest
  refine State.spdm13_canonical ?_ ?_
  · exact h
  · intro s₁ h'
    exact State.send_wf (h')

theorem State.clockTo_wf {s : State} {tt : Nat} (h : Memory.wf s.mem = true) :
    Memory.wf (State.clockTo s tt).mem = true :=
  h

theorem State.setLease_wf {s : State} {wn swid : Nat} {f : Lease → Lease} (h : Memory.wf s.mem = true) :
    Memory.wf (State.setLease s wn swid f).mem = true := by
  unfold State.setLease
  split
  · exact h
  · dsimp only
    split
    · exact h
    · split
      · exact State.devWrite_wf (State.onWorld_wf h)
      · exact State.onWorld_wf h

theorem State.tellLease_wf {s : State} {wn swid : Nat} (h : Memory.wf s.mem = true) :
    Memory.wf (State.tellLease s wn swid).mem = true := by
  unfold State.tellLease
  split
  · exact h
  · dsimp only
    split
    · exact foldl_wf (fun s x h => State.transmitPart_wf h) (State.send_wf h)
    · exact h

theorem State.stopLease_wf {s : State} {wn swid : Nat} (h : Memory.wf s.mem = true) :
    Memory.wf (State.stopLease s wn swid).mem = true :=
  h

theorem State.timeLease_wf {s : State} {wn swid : Nat} (h : Memory.wf s.mem = true) :
    Memory.wf (State.timeLease s wn swid).mem = true := by
  unfold State.timeLease
  dsimp only
  split
  · exact State.stopLease_wf h
  · split
    · split
      · refine State.arm_wf ?_
        refine State.arm_wf ?_
        split
        · exact State.arm_wf (State.stopLease_wf h)
        · exact State.stopLease_wf h
      · refine State.arm_wf ?_
        split
        · exact State.arm_wf (State.stopLease_wf h)
        · exact State.stopLease_wf h
    · split
      · exact State.stopLease_wf h
      · exact State.arm_wf (State.stopLease_wf h)

theorem State.askSwitch_wf {s : State} {wn swid : Nat} (h : Memory.wf s.mem = true) :
    Memory.wf (State.askSwitch s wn swid).mem = true :=
  h

theorem State.grantLease_wf {s : State} {w : World} {swid tt : Nat} (h : Memory.wf s.mem = true) :
    Memory.wf (State.grantLease s w swid tt).mem = true := by
  unfold State.grantLease
  dsimp only
  split
  · exact State.setLease_wf h
  · exact State.send_wf (State.setLease_wf (State.onWorld_wf h))

theorem State.endLease_wf {s : State} {w : World} {swid tt st reason : Nat} (h : Memory.wf s.mem = true) :
    Memory.wf (State.endLease s w swid tt st reason).mem = true := by
  unfold State.endLease
  exact State.setLease_wf h

theorem State.judgeReport_wf {s : State} {w : World} {swid tt : Nat} {report : List (Nat × Nat)} (h : Memory.wf s.mem =
    true) :
    Memory.wf (State.judgeReport s w swid tt report).mem = true := by
  unfold State.judgeReport
  dsimp only
  refine State.devTouch_wf ?_
  refine State.setLease_wf ?_
  split
  · exact State.endLease_wf h
  · split
    · exact State.endLease_wf h
    · exact State.grantLease_wf h

theorem execLeaseAttestation_canonical {world swid : Nat} {outcome : Attest} {now : Nat} {s : State} (h : Memory.wf s.mem
    = true) :
    Canonical (execLeaseAttestation world swid outcome now s) := by
  unfold execLeaseAttestation
  split
  · exact canonical_next h
  · split
    · exact canonical_next h
    · dsimp only
      split
      · split
        · exact canonical_next (State.tellLease_wf (State.setLease_wf (State.arm_wf (State.clockTo_wf h))))
        · exact canonical_next (State.arm_wf (State.clockTo_wf h))
      · exact canonical_next (State.tellLease_wf (State.timeLease_wf (State.disarm_wf (State.judgeReport_wf
          (State.clockTo_wf h)))))
      · exact canonical_next (State.tellLease_wf (State.timeLease_wf (State.disarm_wf (State.endLease_wf
          (State.clockTo_wf h)))))
      · exact canonical_next (State.tellLease_wf (State.timeLease_wf (State.disarm_wf (State.endLease_wf
          (State.clockTo_wf h)))))

theorem execLeaseRenewalDue_canonical {world swid : Nat} {s : State} (h : Memory.wf s.mem = true) :
    Canonical (execLeaseRenewalDue world swid s) := by
  unfold execLeaseRenewalDue
  split
  · exact canonical_next h
  · split
    · exact canonical_next h
    · dsimp only
      refine canonical_next ?_
      refine State.askSwitch_wf ?_
      split
      · exact State.clockTo_wf h
      · split
        · exact State.tellLease_wf (State.setLease_wf h)
        · exact h

theorem execLeaseBusyRetry_canonical {world swid : Nat} {s : State} (h : Memory.wf s.mem = true) :
    Canonical (execLeaseBusyRetry world swid s) := by
  unfold execLeaseBusyRetry
  split
  · exact canonical_next h
  · refine canonical_next ?_
    split
    · exact State.askSwitch_wf h
    · exact h

theorem execLeaseExpiry_canonical {world swid : Nat} {s : State} (h : Memory.wf s.mem = true) :
    Canonical (execLeaseExpiry world swid s) := by
  unfold execLeaseExpiry
  split
  · exact canonical_next h
  · dsimp only
    split
    · exact canonical_next h
    · exact canonical_next (State.tellLease_wf (State.timeLease_wf (State.setLease_wf (State.clockTo_wf h))))

theorem State.dropPaths_wf {s : State} {wn : Nat} {gone : List Nat} (h : Memory.wf s.mem = true) :
    Memory.wf (State.dropPaths s wn gone).mem = true := by
  unfold State.dropPaths
  exact foldl_wf (fun s x h => State.failEntry_wf h) h

theorem execLeaseKeyGraceEnd_canonical {world swid : Nat} {s : State} (h : Memory.wf s.mem = true) :
    Canonical (execLeaseKeyGraceEnd world swid s) := by
  unfold execLeaseKeyGraceEnd
  split
  · exact canonical_next h
  · dsimp only
    refine canonical_next ?_
    refine State.dropPaths_wf ?_
    refine State.setLease_wf ?_
    split
    · exact h
    · exact State.clockTo_wf h

theorem execLeaseChangeReceive_canonical {world swid state reason leaseNo expiry authNow : Nat} {s : State} (h :
    Memory.wf s.mem = true) :
    Canonical (execLeaseChangeReceive world swid state reason leaseNo expiry authNow s) := by
  unfold execLeaseChangeReceive
  exact canonical_next (State.timeLease_wf (State.setLease_wf h))

/-! ## Worlds -/

theorem State.zeroDie_wf {s : State} {die : Nat} (h : Memory.wf s.mem = true) :
    Memory.wf (State.zeroDie s die).mem = true :=
  h

theorem State.measureLayout_wf {s : State} (h : Memory.wf s.mem = true) :
    Memory.wf (State.measureLayout s).mem = true :=
  h

theorem State.newLayout_wf {s : State} (h : Memory.wf s.mem = true) : Memory.wf (State.newLayout s).mem = true := by
  unfold State.newLayout
  split
  · exact State.measureLayout_wf h
  · exact h

theorem execWorldLatch_canonical {die world : Nat} {s : State} (h : Memory.wf s.mem = true) :
    Canonical (execWorldLatch die world s) := by
  unfold execWorldLatch
  split
  · refine canonical_next ?_
    exact h
  · dsimp only
    refine canonical_next ?_
    refine State.newLayout_wf ?_
    dsimp only
    refine State.zeroDie_wf ?_
    exact h

theorem State.createWorld_wf {s : State} {world job rank authRank : Nat} {regions : List Nat} {simagePa simageLen : Nat} (h
    : Memory.wf s.mem = true) :
    Memory.wf (State.createWorld s world job rank authRank regions simagePa simageLen).mem = true := by
  unfold State.createWorld
  split
  · exact h
  · split
    dsimp only
    refine wf_snd ‹_› ?_
    refine State.fresh_wf ?_
    exact h

theorem execWorldCreate_canonical {world job rank authRank : Nat} {regions : List Nat} {simagePa simageLen : Nat} {s :
    State} (h : Memory.wf s.mem = true) :
    Canonical (execWorldCreate world job rank authRank regions simagePa simageLen s) := by
  unfold execWorldCreate
  split
  · exact canonical_next h
  · exact canonical_next (State.newLayout_wf (State.createWorld_wf h))

theorem State.scramble_wf {s : State} {regions : List Nat} (h : Memory.wf s.mem = true) :
    Memory.wf (s.scramble regions).mem = true :=
  State.scramble_memOk regions h

theorem State.dropWorld_wf {s : State} {wn : Nat} (h : Memory.wf s.mem = true) :
    Memory.wf (State.dropWorld s wn).mem = true := by
  unfold State.dropWorld
  exact foldl_wf (fun s x h => State.onQuarter_wf h) h

theorem execWorldTeardown_canonical {world : Nat} {s : State} (h : Memory.wf s.mem = true) :
    Canonical (execWorldTeardown world s) := by
  unfold execWorldTeardown
  split
  · exact canonical_next h
  · exact canonical_next (State.newLayout_wf (State.scramble_wf (State.dropWorld_wf h)))

theorem State.ringQueue_wf {s : State} {wn q : Nat} {entry : List Byte} (h : Memory.wf s.mem = true) :
    Memory.wf (State.ringQueue s wn q entry).1.mem = true := by
  unfold State.ringQueue
  split
  · exact h
  · dsimp only
    split
    · exact h
    · exact State.kickTail_wf (State.devWrite_wf h)

theorem State.ringCtrl_wf {s : State} {wn v : Nat} (h : Memory.wf s.mem = true) :
    Memory.wf (State.ringCtrl s wn v).mem = true := by
  unfold State.ringCtrl
  split
  · exact State.resumeJob_wf h
  · exact State.cancelJob_wf h
  · exact State.closeJob_wf h
  · exact h

theorem State.ringPerform_wf {s : State} {wn : Nat} {b : List Byte} (h : Memory.wf s.mem = true) :
    Memory.wf (State.ringPerform s wn b).1.mem = true := by
  unfold State.ringPerform
  dsimp only
  split
  · exact h
  · split
    · split
      · exact h
      · exact State.ringQueue_wf h
    · split
      · split
        · exact h
        · exact State.ringCtrl_wf h
      · exact h

theorem State.ringHalt_wf {s : State} {wn ring stat expseq : Nat} (h : Memory.wf s.mem = true) :
    Memory.wf (State.ringHalt s wn ring stat expseq).mem = true := by
  unfold State.ringHalt
  exact State.interrupt_wf h

theorem State.ringSlot_wf {s : State} {w : World} {ring : Nat} {r : CmdRing} (h : Memory.wf s.mem = true) :
    Memory.wf (State.ringSlot s w ring r).mem = true := by
  unfold State.ringSlot
  dsimp only
  split
  · exact State.onRing_wf (State.devTouch_wf h)
  · split
    · exact State.onRing_wf (State.devTouch_wf h)
    · split
      · exact State.ringHalt_wf (State.onRing_wf (State.devTouch_wf h))
      · split
        · exact State.ringHalt_wf (State.onRing_wf (State.ringPerform_wf (State.devTouch_wf h)))
        · exact State.onRing_wf (State.ringPerform_wf (State.devTouch_wf h))

theorem State.ringWake_wf {s : State} {wn ring : Nat} (h : Memory.wf s.mem = true) :
    Memory.wf (State.ringWake s wn ring).mem = true := by
  unfold State.ringWake
  split
  · exact h
  · dsimp only
    split
    · exact State.arm_wf h
    · exact h

theorem execRingDoorbell_canonical {world ring : Nat} {tail : Word} {s : State} (h : Memory.wf s.mem = true) :
    Canonical (execRingDoorbell world ring tail s) := by
  unfold execRingDoorbell
  split
  · exact canonical_next h
  · dsimp only
    split
    · exact canonical_next (State.onRing_wf h)
    · split
      · exact canonical_next (State.ringWake_wf (State.ringSlot_wf (State.onRing_wf h)))
      · exact canonical_next (State.onRing_wf h)

theorem State.giveRingKey_wf {s : State} {wn ring : Nat} (h : Memory.wf s.mem = true) :
    Memory.wf (State.giveRingKey s wn ring).mem = true := by
  unfold State.giveRingKey
  split
  · split
    · exact h
    · exact State.send_wf h
  · exact h

theorem State.ringEnable_wf {s : State} {wn ring : Nat} (h : Memory.wf s.mem = true) :
    Memory.wf (State.ringEnable s wn ring).mem = true := by
  unfold State.ringEnable
  exact State.ringWake_wf (State.giveRingKey_wf (State.onRing_wf h))

theorem State.ringResume_wf {s : State} {wn ring : Nat} (h : Memory.wf s.mem = true) :
    Memory.wf (State.ringResume s wn ring).mem = true := by
  unfold State.ringResume
  exact State.ringWake_wf (State.onRing_wf h)

theorem State.ringDisable_wf {s : State} {wn ring : Nat} (h : Memory.wf s.mem = true) :
    Memory.wf (State.ringDisable s wn ring).mem = true :=
  h

theorem execRcmdEnable_canonical {world ring : Nat} {s : State} (h : Memory.wf s.mem = true) :
    Canonical (execRcmdEnable world ring s) := by
  unfold execRcmdEnable
  exact canonical_next (State.ringEnable_wf h)

theorem execRcmdResume_canonical {world ring : Nat} {s : State} (h : Memory.wf s.mem = true) :
    Canonical (execRcmdResume world ring s) := by
  unfold execRcmdResume
  exact canonical_next (State.ringResume_wf h)

theorem execRcmdDisable_canonical {world ring : Nat} {s : State} (h : Memory.wf s.mem = true) :
    Canonical (execRcmdDisable world ring s) := by
  unfold execRcmdDisable
  exact canonical_next (State.ringDisable_wf h)

theorem execRingRekey_canonical {world ring : Nat} {s : State} (h : Memory.wf s.mem = true) :
    Canonical (execRingRekey world ring s) := by
  unfold execRingRekey
  split
  · exact canonical_next h
  · exact canonical_next (State.ringWake_wf (State.giveRingKey_wf (State.onRing_wf h)))

/-! ## Housekeeping -/

theorem State.sample_wf {s : State} {c : Crew} (h : Memory.wf s.mem = true) :
    Memory.wf (State.sample s c).mem = true := by
  unfold State.sample
  dsimp only
  split
  · exact State.free_wf h
  · split
    · repeat' split
      all_goals exact State.putSample_wf (State.free_wf h)
    · exact State.putSample_wf (State.free_wf h)

theorem execSampleTick_canonical {qtr crew : Nat} {s : State} (h : Memory.wf s.mem = true) :
    Canonical (execSampleTick qtr crew s) := by
  unfold execSampleTick
  split
  · exact canonical_next (State.armSampler_wf h)
  · dsimp only
    split
    · split
      · exact canonical_next (State.armSampler_wf h)
      · exact canonical_next (State.armSampler_wf (State.sample_wf h))
    · split
      · exact canonical_next (State.armSampler_wf h)
      · exact canonical_next (State.armSampler_wf (State.sample_wf h))

theorem State.haltCrew_wf {s : State} {uid : Nat} (h : Memory.wf s.mem = true) :
    Memory.wf (State.haltCrew s uid).mem = true := by
  unfold State.haltCrew
  exact State.haltCheck_wf (State.onCrew_wf h)

theorem State.resumeCrew_wf {s : State} {uid : Nat} (h : Memory.wf s.mem = true) :
    Memory.wf (State.resumeCrew s uid).mem = true := by
  unfold State.resumeCrew
  exact State.settle_wf (State.onCrew_wf h)

theorem State.stepCrew_wf {s : State} {uid : Nat} (h : Memory.wf s.mem = true) :
    Memory.wf (State.stepCrew s uid).mem = true :=
  h

theorem State.dcmd_wf {s : State} {wn : Nat} {f : State → Nat → State} (hs : Memory.wf s.mem = true) (hf : ∀ s₁ x₁,
    Memory.wf s₁.mem = true → Memory.wf (f s₁ x₁).mem = true) :
    Memory.wf (State.dcmd s wn f).mem = true := by
  unfold State.dcmd
  split
  · apply hf
    exact hs
  · exact hs

theorem execDcmdHalt_canonical {world : Nat} {s : State} (h : Memory.wf s.mem = true) :
    Canonical (execDcmdHalt world s) := by
  unfold execDcmdHalt
  refine canonical_next ?_
  refine State.dcmd_wf ?_ ?_
  · exact h
  · intro s₁ x₁ h'
    exact State.haltCrew_wf (h')

theorem execDcmdResume_canonical {world : Nat} {s : State} (h : Memory.wf s.mem = true) :
    Canonical (execDcmdResume world s) := by
  unfold execDcmdResume
  refine canonical_next ?_
  refine State.dcmd_wf ?_ ?_
  · exact h
  · intro s₁ x₁ h'
    exact State.resumeCrew_wf (h')

theorem execDcmdStep_canonical {world : Nat} {s : State} (h : Memory.wf s.mem = true) :
    Canonical (execDcmdStep world s) := by
  unfold execDcmdStep
  refine canonical_next ?_
  refine State.dcmd_wf ?_ ?_
  · exact h
  · intro s₁ x₁ h'
    exact State.stepCrew_wf (h')

theorem State.measureBoot_wf {s : State} {c : Nat} (h : Memory.wf s.mem = true) :
    Memory.wf (State.measureBoot s c).mem = true :=
  h

theorem State.bootFail_wf {s : State} {n : Nat} (h : Memory.wf s.mem = true) :
    Memory.wf (State.bootFail s n).mem = true :=
  h

theorem State.bootFrames_wf {s : State} {fcframes fcbase wayl : Nat} {dies : List Nat} {cxl : List Bool} (h : Memory.wf
    s.mem = true) :
    Memory.wf (State.bootFrames s fcframes fcbase wayl dies cxl).mem = true :=
  h

theorem State.bootAct_wf {s : State} {fcframes fcbase wayl : Nat} {dies : List Nat} {worlds : List WorldSpec} {cxl : List
    Bool} {n : Nat} (h : Memory.wf s.mem = true) :
    Memory.wf (State.bootAct s fcframes fcbase wayl dies worlds cxl n).mem = true := by
  unfold State.bootAct
  split
  · exact State.measureBoot_wf (State.measureBoot_wf h)
  · exact State.measureBoot_wf (State.measureBoot_wf h)
  · exact State.measureBoot_wf h
  · exact State.measureBoot_wf h
  · exact State.measured_wf (State.bootFrames_wf h)
  · exact State.measureLayout_wf (foldl_wf (fun s x h => State.createWorld_wf h) h)
  · exact h

theorem execPowerOn_canonical {failed fcframes fcbase wayl : Nat} {dies : List Nat} {worlds : List WorldSpec} {cxl : List
    Bool} {s : State} (h : Memory.wf s.mem = true) :
    Canonical (execPowerOn failed fcframes fcbase wayl dies worlds cxl s) := by
  unfold execPowerOn
  split
  · exact canonical_next h
  · dsimp only
    split
    · split
      · refine canonical_next ?_
        exact foldl_wf (fun s x h => State.bootAct_wf h) (State.clockTo_wf h)
      · exact canonical_next (State.bootFail_wf (foldl_wf (fun s x h => State.bootAct_wf h) (State.clockTo_wf h)))
    · split
      · refine canonical_next ?_
        exact foldl_wf (fun s x h => State.bootAct_wf h) (State.clockTo_wf h)
      · exact canonical_next (State.bootFail_wf (foldl_wf (fun s x h => State.bootAct_wf h) (State.clockTo_wf h)))

theorem State.restart_wf {s : State} {m : Memory} {n : Nat} {l : Tab Nat} (h : Memory.wf m = true) :
    Memory.wf (s.restart m n l).mem = true := h

theorem execDeviceReset_canonical {s : State} (h : Memory.wf s.mem = true) : Canonical (execDeviceReset s) := by
  unfold execDeviceReset
  exact canonical_next (State.restart_wf (State.scramble_wf h))

theorem execPowerLoss_canonical {s : State} : Canonical (execPowerLoss s) := canonical_next rfl

theorem execPowerStateChange_canonical {pstate : Nat} {s : State} (h : Memory.wf s.mem = true) :
    Canonical (execPowerStateChange pstate s) := by
  unfold execPowerStateChange
  split
  · exact canonical_next h
  · refine canonical_next ?_
    exact h

theorem execThermalThreshold_canonical {reading : Nat × Nat} {s : State} (h : Memory.wf s.mem = true) :
    Canonical (execThermalThreshold reading s) := by
  unfold execThermalThreshold
  split
  dsimp only
  refine canonical_next ?_
  exact h

/-! ## Registers -/

theorem State.chanWrite_wf {s : State} {wn : Nat} {hd : Word} {off : Nat} {v : Word} (h : Memory.wf s.mem = true) :
    Memory.wf (State.chanWrite s wn hd off v).mem = true := by
  unfold State.chanWrite
  split
  · exact h
  · exact State.onLaunch_wf h

theorem transWrite_wf {s : State} {w : World} {off : Nat} {v : Word} (h : Memory.wf s.mem = true) :
    Memory.wf (transWrite s w off v).mem = true := by
  unfold transWrite
  dsimp only
  split
  · split
    · exact h
    · exact State.onWorld_wf h
  · split
    · exact h
    · exact State.onWorld_wf h
  · exact State.onWorld_wf h
  · exact State.onWorld_wf h
  · exact State.onWorld_wf h
  · exact State.queueInval_wf h
  · exact State.onWorld_wf h
  · exact h

theorem kickWrite_wf {s : State} {wn q off : Nat} {v : Word} (h : Memory.wf s.mem = true) :
    Memory.wf (kickWrite s wn q off v).mem = true := by
  unfold kickWrite
  split
  · exact State.onKick_wf h
  · exact State.onKick_wf h
  · exact State.arm_wf (State.onKick_wf h)
  · exact State.kickTail_wf h
  · exact State.onKick_wf h
  · exact h

theorem ctlWrite_wf {s : State} {wn off : Nat} {v : Word} (h : Memory.wf s.mem = true) :
    Memory.wf (ctlWrite s wn off v).mem = true := by
  unfold ctlWrite
  dsimp only
  split
  · exact State.onWorld_wf h
  · exact State.onWorld_wf h
  · exact State.onWorld_wf h
  · exact State.onWorld_wf h
  · exact State.onWorld_wf h
  · exact State.onWorld_wf h
  · exact State.ringCtrl_wf h
  · split
    · exact h
    · exact State.onWorld_wf h
  · split
    · exact h
    · exact State.onWorld_wf h
  · split
    · exact h
    · exact State.onWorld_wf h
  · split
    · exact h
    · exact State.onWorld_wf h
  · exact State.onWorld_wf h
  · exact State.onWorld_wf h
  · split
    · exact State.claimUnit_wf h
    · split
      · exact State.claimFree_wf h
      · exact h
  · exact h

theorem npWrite_wf {s : State} {wn off : Nat} {v : Word} {fromM : Bool} (h : Memory.wf s.mem = true) :
    Memory.wf (npWrite s wn off v fromM).mem = true := by
  unfold npWrite
  dsimp only
  split
  · exact State.onWorld_wf h
  · exact State.onWorld_wf h
  · exact State.onWorld_wf h
  · exact State.onWorld_wf h
  · exact State.onWorld_wf h
  · split
    · exact h
    · exact State.onWorld_wf h
  · split
    · exact h
    · exact State.onWorld_wf h
  · split
    · exact h
    · exact State.onWorld_wf h
  · exact State.onWorld_wf h
  · exact State.onWorld_wf h
  · exact State.onWorld_wf h
  · exact State.onWorld_wf h
  · split
    · exact State.post_wf (State.onWorld_wf h)
    · exact h
  · split
    · exact State.onWorld_wf h
    · exact h
  · split
    · exact State.onWorld_wf h
    · exact h
  · split
    · exact State.onWorld_wf h
    · exact h
  · split
    · exact State.onWorld_wf h
    · exact h
  · exact h

theorem fabWrite_wf {s : State} {wn off : Nat} {v : Word} (h : Memory.wf s.mem = true) :
    Memory.wf (fabWrite s wn off v).mem = true := by
  unfold fabWrite
  dsimp only
  split
  · split
    · exact h
    · exact State.onWorld_wf h
  · split
    · exact h
    · exact State.onWorld_wf h
  · split
    · exact h
    · exact State.onWorld_wf h
  · refine State.attestTrees_wf ?_
    split
    · exact h
    · exact State.onWorld_wf h
  · refine State.attestTrees_wf ?_
    split
    · exact h
    · exact State.onWorld_wf h
  · exact State.attestTrees_wf (State.onWorld_wf (State.onWorld_wf h))
  · split
    · exact h
    · exact State.onWorld_wf h
  · split
    · exact h
    · exact State.onWorld_wf h
  · exact State.onWorld_wf h
  · exact State.onWorld_wf h
  · exact State.onWorld_wf h
  · exact State.onWorld_wf h
  · exact State.onWorld_wf h
  · exact State.onWorld_wf h
  · exact h

theorem streamWrite_wf {s : State} {wn off : Nat} {v : Word} (h : Memory.wf s.mem = true) :
    Memory.wf (streamWrite s wn off v).mem = true := by
  unfold streamWrite
  dsimp only
  split
  · exact h
  · split
    · exact State.onStream_wf h
    · exact State.onStream_wf h
    · split
      · exact State.onStream_wf h
      · exact State.arm_wf (State.onStream_wf h)
    · exact State.onStream_wf h
    · exact State.onStream_wf h
    · exact h

theorem ringWrite_wf {s : State} {wn ring off : Nat} {v : Word} (h : Memory.wf s.mem = true) :
    Memory.wf (ringWrite s wn ring off v).mem = true := by
  unfold ringWrite
  dsimp only
  split
  · exact State.onRing_wf h
  · exact State.onRing_wf h
  · exact State.onRing_wf h
  · exact State.ringTail_wf h
  · exact State.onRing_wf h
  · exact State.onRing_wf h
  · exact State.onRing_wf h
  · exact State.onRing_wf h
  · split
    · exact State.ringEnable_wf h
    · split
      · exact State.ringResume_wf h
      · split
        · exact State.ringDisable_wf h
        · exact h
  · exact h

theorem ckWrite_wf {s : State} {off : Nat} {v : Word} (h : Memory.wf s.mem = true) :
    Memory.wf (ckWrite s off v).mem = true := by
  unfold ckWrite
  dsimp only
  split
  · exact h
  · exact h
  · exact h
  · exact h
  · exact h
  · split
    · exact State.ckStart_wf h
    · split
      · exact State.ckStart_wf h
      · split
        · exact State.ckAbort_wf h
        · exact h
  · exact h

theorem State.trecWrite_wf {s : State} {c : Crew} {lane i : Nat} {v : Word} (h : Memory.wf s.mem = true) :
    Memory.wf (State.trecWrite s c lane i v).mem = true := by
  unfold State.trecWrite
  dsimp only
  split
  · exact h
  · split
    · exact State.fileLanes_wf (State.leaveBins_wf (State.onLane_wf h))
    · exact State.onCrew_wf (State.onLane_wf h)

theorem crewWrite_wf {s : State} {c : Option Crew} {off : Nat} {v : Word} (h : Memory.wf s.mem = true) :
    Memory.wf (crewWrite s c off v).mem = true := by
  unfold crewWrite
  split
  · exact h
  next c =>
    split
    · exact h
    · split
      · refine have_wf (f := fun i => if i < c.nregs then s.onLane c.uid (off % 512 / 4) fun t => t.setX i v else s)
          fun i => ?_
        split
        · exact State.onLane_wf h
        · exact h
      · split
        · refine have_wf (f := fun j => if j < c.nuregs then s.onCrew c.uid fun c => c.setS j v else s) fun j => ?_
          split
          · exact State.onCrew_wf h
          · exact h
        · split
          · exact State.trecWrite_wf h
          · exact State.onCrew_wf h

theorem State.armSamplers_wf {s : State} {wn : Nat} (h : Memory.wf s.mem = true) :
    Memory.wf (State.armSamplers s wn).mem = true := by
  unfold State.armSamplers
  exact foldl_wf (fun s x h => State.armSampler_wf h) h

theorem dbgWrite_wf {s : State} {w : World} {off : Nat} {v : Word} {me : Option Nat} (h : Memory.wf s.mem = true) :
    Memory.wf (dbgWrite s w off v me).mem = true := by
  unfold dbgWrite
  dsimp only
  split
  · split <;> exact State.onWorld_wf h
  · split
    · exact crewWrite_wf h
    · split
      · exact State.onWorld_wf h
      · split
        · split
          · refine State.dcmd_wf ?_ ?_
            · exact h
            · intro s₁ x₁ h'
              exact State.haltCrew_wf (h')
          · exact h
        · refine State.dcmd_wf ?_ ?_
          · exact h
          · intro s₁ x₁ h'
            exact State.resumeCrew_wf (h')
        · split
          · refine State.dcmd_wf ?_ ?_
            · exact h
            · intro s₁ x₁ h'
              exact State.stepCrew_wf (h')
          · exact h
        · exact h
      · exact State.onWorld_wf h
      · exact State.onWorld_wf h
      · exact State.onWorld_wf h
      · split
        · exact State.onWorld_wf h
        · exact State.armSamplers_wf (State.onWorld_wf h)
      · exact State.onWorld_wf h
      · exact State.onWorld_wf h
      · exact State.onWorld_wf h
      · exact State.onWorld_wf h
      · exact State.onWorld_wf h
      · exact h

theorem State.regWrite_wf {s : State} {p : PageRef} {off : Nat} {v : Word} {fromM : Bool} {me : Option Nat} (h :
    Memory.wf s.mem = true) :
    Memory.wf (State.regWrite s p off v fromM me).mem = true := by
  unfold State.regWrite
  split
  · exact ckWrite_wf h
  · split
    · exact h
    · split
      · exact transWrite_wf h
      · exact kickWrite_wf h
      · exact ctlWrite_wf h
      · exact npWrite_wf h
      · exact fabWrite_wf h
      · exact streamWrite_wf h
      · exact State.chanWrite_wf h
      · exact ringWrite_wf h
      · exact dbgWrite_wf h
      · exact h

theorem execRegisterWrite_canonical {page : PageRef} {off : Nat} {value : Word} {fromM : Bool} {s : State} (h :
    Memory.wf s.mem = true) :
    Canonical (execRegisterWrite page off value fromM s) := by
  unfold execRegisterWrite
  split
  · exact canonical_next (State.arm_wf h)
  · exact canonical_next (State.regWrite_wf h)

/-! ## Access -/

theorem State.regLoad_wf {s : State} {c : Crew} {pa : Nat} {x1 : Nat} (h : Memory.wf s.mem = true) : Memory.wf (State.regLoad s c pa x1).1.mem = true := by
  induction x1 generalizing s pa with
  | zero =>
    exact h
  | succ n ih =>
    unfold State.regLoad
    split
    split
    dsimp only
    refine wf_fst ‹_› ?_
    apply ih
    refine wf_fst ‹_› ?_
    split
    · exact h
    · split
      exact wf_snd ‹_› (State.free_wf h)

theorem State.regStore_wf {s : State} {c : Crew} {tt : Thread} {pa : Nat} {x1 : List Word} (h : Memory.wf s.mem = true) : Memory.wf (State.regStore s c tt pa x1).mem = true := by
  induction x1 generalizing s pa with
  | nil =>
    exact h
  | cons y l ih =>
    unfold State.regStore
    dsimp only
    apply ih
    split
    · split
      · exact State.regWrite_wf h
      · exact h
    · exact h

theorem State.recWait_wf {s : State} {c : Crew} {tt : Thread} {a : Access} {base : Place} (h : Memory.wf s.mem =
    true) :
    Memory.wf (State.recWait s c tt a base).mem = true := by
  unfold State.recWait
  split <;> exact h

theorem State.recServed_wf {s : State} {c : Crew} {tt : Thread} (h : Memory.wf s.mem = true) :
    Memory.wf (State.recServed s c tt).mem = true := by
  unfold State.recServed
  split <;> exact h

theorem State.makeRoom_wf {s : State} {c : Crew} {tt : Thread} {a : Access} {base : Place} {len : Nat} (h : Memory.wf
    s.mem = true) :
    Memory.wf (State.makeRoom s c tt a base len).1.mem = true := by
  unfold State.makeRoom
  split
  · exact State.recServed_wf h
  · dsimp only
    split
    · exact State.recWait_wf h
    · split
      · exact State.recServed_wf (State.syncOp_wf (State.readLate_wf (State.performStores_wf h)))
      · exact State.recWait_wf (State.syncOp_wf (State.readLate_wf (State.performStores_wf h)))

theorem State.cachedAt_wf {s : State} {c : Crew} {d : Dest} (h : Memory.wf s.mem = true) :
    Memory.wf (State.cachedAt s c d).mem = true := by
  unfold State.cachedAt
  split
  · exact h
  · exact State.cached_wf h

theorem State.genAccess_wf {s : State} {c : Crew} {tt : Thread} {pc : Word} {x : Acc1} {ea : Nat} {pre : State → State}
    {go : State → Dest → State × LaneRes} (hs : Memory.wf s.mem = true) (hpre : ∀ s₁, Memory.wf s₁.mem = true →
    Memory.wf (pre s₁).mem = true) (hgo : ∀ s₁ x₁, Memory.wf s₁.mem = true → Memory.wf (go s₁ x₁).1.mem = true) :
    Memory.wf (State.genAccess s c tt pc x ea pre go).1.mem = true := by
  unfold State.genAccess
  dsimp only
  split
  · exact State.finishHalves_wf hs
  · split
    · exact State.finishHalves_wf hs
    · split
      · exact State.finishHalves_wf hs
      · split
        · exact wf_fst ‹_› (State.resolve_wf (State.finishHalves_wf hs))
        · exact wf_fst ‹_› (State.resolve_wf (State.finishHalves_wf hs))
        · dsimp only
          apply hpre
          exact wf_fst ‹_› (State.resolve_wf (State.finishHalves_wf hs))
        · split
          · exact wf_fst ‹_› (State.resolve_wf (State.finishHalves_wf hs))
          · split
            · exact wf_fst ‹_› (State.resolve_wf (State.finishHalves_wf hs))
            · split
              · exact wf_fst ‹_› (State.resolve_wf (State.finishHalves_wf hs))
              · split
                · apply hgo
                  refine State.cachedAt_wf ?_
                  apply hpre
                  exact wf_fst ‹_› (State.resolve_wf (State.finishHalves_wf hs))
                · split
                  · dsimp only
                    refine wf_fst ‹_› ?_
                    refine State.makeRoom_wf ?_
                    split
                    · exact wf_fst ‹_› (State.resolve_wf (State.finishHalves_wf hs))
                    · apply hpre
                      exact wf_fst ‹_› (State.resolve_wf (State.finishHalves_wf hs))
                  · apply hgo
                    refine State.cachedAt_wf ?_
                    refine State.record_wf ?_
                    refine wf_fst ‹_› ?_
                    refine State.makeRoom_wf ?_
                    split
                    · exact wf_fst ‹_› (State.resolve_wf (State.finishHalves_wf hs))
                    · apply hpre
                      exact wf_fst ‹_› (State.resolve_wf (State.finishHalves_wf hs))

theorem State.spadAccess_wf {s : State} {c : Crew} {tt : Thread} {pc : Word} {x : Acc1} {a mode : Nat} {pre : State →
    State} {go : State → Nat → State × LaneRes} (hs : Memory.wf s.mem = true) (hpre : ∀ s₁, Memory.wf s₁.mem = true →
    Memory.wf (pre s₁).mem = true) (hgo : ∀ s₁ x₁, Memory.wf s₁.mem = true → Memory.wf (go s₁ x₁).1.mem = true) :
    Memory.wf (State.spadAccess s c tt pc x a mode pre go).1.mem = true := by
  unfold State.spadAccess
  dsimp only
  split
  · exact State.finishHalves_wf hs
  · split
    · exact State.finishHalves_wf hs
    · split
      · exact State.finishHalves_wf hs
      · split
        · exact State.finishHalves_wf hs
        · split
          · exact State.finishHalves_wf hs
          · apply hgo
            apply hpre
            exact State.finishHalves_wf hs

theorem State.spadRead_wf {s : State} {c : Crew} {tt : Thread} {key n : Nat} (h : Memory.wf s.mem = true) :
    Memory.wf (State.spadRead s c tt key n).1.mem = true := by
  unfold State.spadRead
  exact State.drainFor_wf h

theorem State.destRead_wf {s : State} {tt : Thread} {uid : Nat} {d : Dest} {n : Nat} (h : Memory.wf s.mem = true) :
    Memory.wf (State.destRead s tt uid d n).1.mem = true := by
  unfold State.destRead
  exact State.drainFor_wf h

theorem State.destWrite_wf {s : State} {c : Crew} {tt : Thread} {d : Dest} {l : List Byte} (h : Memory.wf s.mem =
    true) :
    Memory.wf (State.destWrite s c tt d l).mem = true := by
  unfold State.destWrite
  dsimp only
  refine State.performAt_wf ?_
  split
  · exact State.noteWrite_wf (State.drainFor_wf h)
  · exact State.drainFor_wf h

theorem State.lanesBegin_wf {s : State} {c : Crew} {n : Nat} {place : Thread → Place} {ts : List Thread} (h : Memory.wf
    s.mem = true) :
    Memory.wf (State.lanesBegin s c n place ts).mem = true := by
  unfold State.lanesBegin
  refine foldl_wf (fun s x h => ?_) ?_
  · split
    · exact h
    · exact State.drainFor_wf (State.finishHalves_wf h)
  · exact h

theorem State.drawOlder_wf {s : State} (h : Memory.wf s.mem = true) : Memory.wf (State.drawOlder s).mem = true := by
  unfold State.drawOlder
  split
  · exact h
  · exact State.free_wf h

theorem State.loadsBegin_wf {s : State} {c : Crew} {n : Nat} {place : Thread → Place} {ts : List Thread} (h : Memory.wf
    s.mem = true) :
    Memory.wf (State.loadsBegin s c n place ts).mem = true := by
  unfold State.loadsBegin
  exact State.drawOlder_wf (State.lanesBegin_wf h)

theorem State.loadHalves_wf {s s0 : State} {c : Crew} {tt : Thread} {pc : Word} {base tag : Nat} {dst : Dest} (hs :
    Memory.wf s.mem = true) (hs0 : Memory.wf s0.mem = true) :
    Memory.wf (State.loadHalves s s0 c tt pc base tag dst).mem = true := by
  unfold State.loadHalves
  exact State.inHalves_wf hs

theorem loadLane_wf {n : Nat} {sg : Bool} {d a : BitVec 7} {off : BitVec 8} {tag : Nat} {s0 : State} {e : Env} {c : Crew}
    {tt : Thread} {s : State} (hs0 : Memory.wf s0.mem = true) (hs : Memory.wf s.mem = true) :
    Memory.wf (loadLane n sg d a off tag s0 e c tt s).1.mem = true := by
  unfold loadLane
  refine State.genAccess_wf ?_ ?_ ?_
  · exact hs
  · intro s₁ h
    exact h
  · intro s₁ x₁ h
    split
    · split
      exact State.inFlight_wf (wf_fst ‹_› (State.regLoad_wf h))
    · split
      · exact State.loadHalves_wf h hs0
      · exact State.inFlight_wf h

theorem storeLane_wf {n : Nat} {d a : BitVec 7} {off : BitVec 8} {tag : Nat} {e : Env} {c : Crew} {tt : Thread} {s :
    State} (h : Memory.wf s.mem = true) :
    Memory.wf (storeLane n d a off tag e c tt s).1.mem = true := by
  unfold storeLane
  dsimp only
  refine State.genAccess_wf ?_ ?_ ?_
  · exact h
  · intro s₁ h'
    exact h'
  · intro s₁ x₁ h'
    split
    · split
      · exact h'
      · exact State.regStore_wf (h')
    · split
      · exact State.accept_wf (State.accept_wf (State.drainFor_wf (h')))
      · exact State.destWrite_wf (h')

theorem loadUniform_wf {n : Nat} {d a : BitVec 7} {off : BitVec 8} {e : Env} {c : Crew} {tt : Thread} {s : State} (h :
    Memory.wf s.mem = true) :
    Memory.wf (loadUniform n d a off e c tt s).1.mem = true := by
  unfold loadUniform
  split
  · exact h
  · refine State.genAccess_wf ?_ ?_ ?_
    · exact h
    · intro s₁ h'
      exact h'
    · intro s₁ x₁ h'
      split
      dsimp only
      refine State.inFlightU_wf ?_
      refine wf_fst ‹_› ?_
      split
      · exact State.regLoad_wf (h')
      · exact State.drawOlder_wf (foldl_wf (fun s x h => State.drainFor_wf h) (h'))

theorem ldsLane_wf {n : Nat} {d a : BitVec 7} {mode : BitVec 3} {off : BitVec 8} {s0 : State} {e : Env} {c : Crew} {tt
    : Thread} {s : State} (hs0 : Memory.wf s0.mem = true) (hs : Memory.wf s.mem = true) :
    Memory.wf (ldsLane n d a mode off s0 e c tt s).1.mem = true := by
  unfold ldsLane
  refine State.spadAccess_wf ?_ ?_ ?_
  · exact hs
  · intro s₁ h
    exact h
  · intro s₁ x₁ h
    exact State.inFlight_wf h

theorem stsLane_wf {n : Nat} {d a : BitVec 7} {mode : BitVec 3} {off : BitVec 8} {tag : Nat} {e : Env} {c : Crew} {tt :
    Thread} {s : State} (h : Memory.wf s.mem = true) :
    Memory.wf (stsLane n d a mode off tag e c tt s).1.mem = true := by
  unfold stsLane
  refine State.spadAccess_wf ?_ ?_ ?_
  · exact h
  · intro s₁ h'
    exact h'
  · intro s₁ x₁ h'
    exact State.accept_wf (State.landRows_wf (h'))

theorem State.privAccess_wf {s : State} {c : Crew} {tt : Thread} {wr : Bool} {o n : Nat} {go : State → State × LaneRes}
    (hs : Memory.wf s.mem = true) (hgo : ∀ s₁, Memory.wf s₁.mem = true → Memory.wf (go s₁).1.mem = true) :
    Memory.wf (State.privAccess s c tt wr o n go).1.mem = true := by
  unfold State.privAccess
  dsimp only
  split
  · exact State.finishHalves_wf hs
  · split
    · exact State.finishHalves_wf hs
    · split
      · exact State.finishHalves_wf hs
      · split
        · exact State.finishHalves_wf hs
        · apply hgo
          exact State.finishHalves_wf hs

theorem State.privTouch_wf {s : State} {c : Crew} {lane o n : Nat} (h : Memory.wf s.mem = true) :
    Memory.wf (State.privTouch s c lane o n).mem = true := by
  unfold State.privTouch
  exact foldl_wf (fun s x h => State.cached_wf (State.drainFor_wf h)) h

theorem ldpLane_wf {n : Nat} {sg : Bool} {d a : BitVec 7} {off : BitVec 8} {tag : Nat} {e : Env} {c : Crew} {tt : Thread}
    {s : State} (h : Memory.wf s.mem = true) :
    Memory.wf (ldpLane n sg d a off tag e c tt s).1.mem = true := by
  unfold ldpLane
  dsimp only
  refine State.privAccess_wf ?_ ?_
  · exact h
  · intro s₁ h'
    split
    · exact State.inHalves_wf (State.privTouch_wf (h'))
    · exact State.inFlight_wf (State.privTouch_wf (h'))

theorem stpLane_wf {n : Nat} {d a : BitVec 7} {off : BitVec 8} {tag : Nat} {c : Crew} {tt : Thread} {s : State} (h :
    Memory.wf s.mem = true) :
    Memory.wf (stpLane n d a off tag c tt s).1.mem = true := by
  unfold stpLane
  dsimp only
  refine State.privAccess_wf ?_ ?_
  · exact h
  · intro s₁ h'
    exact foldl_wf (fun s x h => State.accept_wf (State.cached_wf h)) (h')

theorem State.atomReturn_wf {s : State} {e : Env} {c : Crew} {tt : Thread} {fn : Nat} {mred : Bool} {d : BitVec 7} {old
    : BitVec 64} {fl : Flags} {mem : Bool} (h : Memory.wf s.mem = true) :
    Memory.wf (State.atomReturn s e c tt fn mred d old fl mem).mem = true := by
  unfold State.atomReturn
  split
  · exact h
  · dsimp only
    split
    · split
      · exact State.onLane_wf h
      · exact h
    · refine State.inFlight_wf ?_
      split
      · exact State.onLane_wf h
      · exact h

theorem State.acceptAtom_wf {s : State} {e : Env} {c : Crew} {tt : Thread} {fn : Nat} {mred : Bool} {d : BitVec 7} {tag
    : Nat} {tg : Target} {p : Place} {region : Option Nat} {own : Bool} (h : Memory.wf s.mem = true) :
    Memory.wf (State.acceptAtom s e c tt fn mred d tag tg p region own).mem = true := by
  unfold State.acceptAtom
  split
  · exact State.accept_wf h
  · split
    · exact State.accept_wf h
    · exact State.accept_wf (State.inAtomic_wf h)

theorem atomLane_wf {fn : Nat} {mred : Bool} {d a o : BitVec 7} {tag : Nat} {e : Env} {c : Crew} {tt : Thread} {s :
    State} (h : Memory.wf s.mem = true) :
    Memory.wf (atomLane fn mred d a o tag e c tt s).1.mem = true := by
  unfold atomLane
  dsimp only
  split
  · exact h
  · split
    · exact h
    · split
      · refine State.spadAccess_wf ?_ ?_ ?_
        · exact h
        · intro s₁ h'
          exact State.order_wf (h')
        · intro s₁ x₁ h'
          split
          · exact State.acceptAtom_wf (State.landRows_wf (h'))
          · dsimp only
            refine State.atomReturn_wf ?_
            split
            · exact State.spadRead_wf (h')
            · exact State.performAt_wf (State.spadRead_wf (h'))
      · refine State.genAccess_wf ?_ ?_ ?_
        · exact h
        · intro s₁ h'
          exact State.order_wf (h')
        · intro s₁ x₁ h'
          split
          · split
            · exact h'
            · dsimp only
              refine State.atomReturn_wf ?_
              split
              · split
                · exact h'
                · exact State.regLoad_wf (h')
              · refine State.regStore_wf ?_
                split
                · exact h'
                · exact State.regLoad_wf (h')
          · split
            · exact State.acceptAtom_wf (h')
            · dsimp only
              refine State.atomReturn_wf ?_
              split
              · exact State.destRead_wf (h')
              · exact State.destWrite_wf (State.destRead_wf (h'))

theorem execLdB_canonical {sw : Bool} {d a : BitVec 7} {o : BitVec 8} {s : State} (h : Memory.wf s.mem = true) :
    Canonical (execLdB sw d a o s) := by
  unfold execLdB
  refine execLanesAfter_canonical ?_ ?_ ?_
  · exact h
  · intro e c ts s h'
    refine State.loadsBegin_wf ?_
    exact h'
  · intro s0 e c t s h' h
    refine loadLane_wf ?_ ?_
    · exact h'
    · exact h

theorem execLdSb_canonical {sw : Bool} {d a : BitVec 7} {o : BitVec 8} {s : State} (h : Memory.wf s.mem = true) :
    Canonical (execLdSb sw d a o s) := by
  unfold execLdSb
  refine execLanesAfter_canonical ?_ ?_ ?_
  · exact h
  · intro e c ts s h'
    refine State.loadsBegin_wf ?_
    exact h'
  · intro s0 e c t s h' h
    refine loadLane_wf ?_ ?_
    · exact h'
    · exact h

theorem execLdH_canonical {sw : Bool} {d a : BitVec 7} {o : BitVec 8} {s : State} (h : Memory.wf s.mem = true) :
    Canonical (execLdH sw d a o s) := by
  unfold execLdH
  refine execLanesAfter_canonical ?_ ?_ ?_
  · exact h
  · intro e c ts s h'
    refine State.loadsBegin_wf ?_
    exact h'
  · intro s0 e c t s h' h
    refine loadLane_wf ?_ ?_
    · exact h'
    · exact h

theorem execLdSh_canonical {sw : Bool} {d a : BitVec 7} {o : BitVec 8} {s : State} (h : Memory.wf s.mem = true) :
    Canonical (execLdSh sw d a o s) := by
  unfold execLdSh
  refine execLanesAfter_canonical ?_ ?_ ?_
  · exact h
  · intro e c ts s h'
    refine State.loadsBegin_wf ?_
    exact h'
  · intro s0 e c t s h' h
    refine loadLane_wf ?_ ?_
    · exact h'
    · exact h

theorem execLdW_canonical {sw : Bool} {d a : BitVec 7} {o : BitVec 8} {s : State} (h : Memory.wf s.mem = true) :
    Canonical (execLdW sw d a o s) := by
  unfold execLdW
  refine execLanesAfter_canonical ?_ ?_ ?_
  · exact h
  · intro e c ts s h'
    refine State.loadsBegin_wf ?_
    exact h'
  · intro s0 e c t s h' h
    refine loadLane_wf ?_ ?_
    · exact h'
    · exact h

theorem execLdD_canonical {sw : Bool} {d a : BitVec 7} {o : BitVec 8} {s : State} (h : Memory.wf s.mem = true) :
    Canonical (execLdD sw d a o s) := by
  unfold execLdD
  refine execLanesAfter_canonical ?_ ?_ ?_
  · exact h
  · intro e c ts s h'
    refine State.loadsBegin_wf ?_
    exact h'
  · intro s0 e c t s h' h
    refine loadLane_wf ?_ ?_
    · exact h'
    · exact h

theorem execLdQ_canonical {sw : Bool} {d a : BitVec 7} {o : BitVec 8} {s : State} (h : Memory.wf s.mem = true) :
    Canonical (execLdQ sw d a o s) := by
  unfold execLdQ
  refine execLanesAfter_canonical ?_ ?_ ?_
  · exact h
  · intro e c ts s h'
    refine State.loadsBegin_wf ?_
    exact h'
  · intro s0 e c t s h' h
    refine loadLane_wf ?_ ?_
    · exact h'
    · exact h

theorem execStB_canonical {sw : Bool} {d a : BitVec 7} {o : BitVec 8} {s : State} (h : Memory.wf s.mem = true) :
    Canonical (execStB sw d a o s) := by
  unfold execStB
  refine execLanes_canonical ?_ ?_
  · exact h
  · intro e c t s h'
    exact storeLane_wf (h')

theorem execStH_canonical {sw : Bool} {d a : BitVec 7} {o : BitVec 8} {s : State} (h : Memory.wf s.mem = true) :
    Canonical (execStH sw d a o s) := by
  unfold execStH
  refine execLanes_canonical ?_ ?_
  · exact h
  · intro e c t s h'
    exact storeLane_wf (h')

theorem execStW_canonical {sw : Bool} {d a : BitVec 7} {o : BitVec 8} {s : State} (h : Memory.wf s.mem = true) :
    Canonical (execStW sw d a o s) := by
  unfold execStW
  refine execLanes_canonical ?_ ?_
  · exact h
  · intro e c t s h'
    exact storeLane_wf (h')

theorem execStD_canonical {sw : Bool} {d a : BitVec 7} {o : BitVec 8} {s : State} (h : Memory.wf s.mem = true) :
    Canonical (execStD sw d a o s) := by
  unfold execStD
  refine execLanes_canonical ?_ ?_
  · exact h
  · intro e c t s h'
    exact storeLane_wf (h')

theorem execStQ_canonical {sw : Bool} {d a : BitVec 7} {o : BitVec 8} {s : State} (h : Memory.wf s.mem = true) :
    Canonical (execStQ sw d a o s) := by
  unfold execStQ
  refine execLanes_canonical ?_ ?_
  · exact h
  · intro e c t s h'
    exact storeLane_wf (h')

theorem execLduW_canonical {sw : Bool} {d a : BitVec 7} {o : BitVec 8} {s : State} (h : Memory.wf s.mem = true) :
    Canonical (execLduW sw d a o s) := by
  unfold execLduW
  refine execUniform_canonical ?_ ?_
  · exact h
  · intro e c t s h'
    exact loadUniform_wf (h')

theorem execLduD_canonical {sw : Bool} {d a : BitVec 7} {o : BitVec 8} {s : State} (h : Memory.wf s.mem = true) :
    Canonical (execLduD sw d a o s) := by
  unfold execLduD
  refine execUniform_canonical ?_ ?_
  · exact h
  · intro e c t s h'
    exact loadUniform_wf (h')

theorem execLdsW_canonical {sw : Bool} {d a : BitVec 7} {w : BitVec 3} {o : BitVec 8} {s : State} (h : Memory.wf
    s.mem = true) :
    Canonical (execLdsW sw d a w o s) := by
  unfold execLdsW
  refine execLanesAfter_canonical ?_ ?_ ?_
  · exact h
  · intro e c ts s h'
    refine State.lanesBegin_wf ?_
    exact h'
  · intro s0 e c t s h' h
    refine ldsLane_wf ?_ ?_
    · exact h'
    · exact h

theorem execLdsD_canonical {sw : Bool} {d a : BitVec 7} {w : BitVec 3} {o : BitVec 8} {s : State} (h : Memory.wf
    s.mem = true) :
    Canonical (execLdsD sw d a w o s) := by
  unfold execLdsD
  refine execLanesAfter_canonical ?_ ?_ ?_
  · exact h
  · intro e c ts s h'
    refine State.lanesBegin_wf ?_
    exact h'
  · intro s0 e c t s h' h
    refine ldsLane_wf ?_ ?_
    · exact h'
    · exact h

theorem execLdsQ_canonical {sw : Bool} {d a : BitVec 7} {w : BitVec 3} {o : BitVec 8} {s : State} (h : Memory.wf
    s.mem = true) :
    Canonical (execLdsQ sw d a w o s) := by
  unfold execLdsQ
  refine execLanesAfter_canonical ?_ ?_ ?_
  · exact h
  · intro e c ts s h'
    refine State.lanesBegin_wf ?_
    exact h'
  · intro s0 e c t s h' h
    refine ldsLane_wf ?_ ?_
    · exact h'
    · exact h

theorem execStsW_canonical {sw : Bool} {d a : BitVec 7} {w : BitVec 3} {o : BitVec 8} {s : State} (h : Memory.wf
    s.mem = true) :
    Canonical (execStsW sw d a w o s) := by
  unfold execStsW
  refine execLanes_canonical ?_ ?_
  · exact h
  · intro e c t s h'
    exact stsLane_wf (h')

theorem execStsD_canonical {sw : Bool} {d a : BitVec 7} {w : BitVec 3} {o : BitVec 8} {s : State} (h : Memory.wf
    s.mem = true) :
    Canonical (execStsD sw d a w o s) := by
  unfold execStsD
  refine execLanes_canonical ?_ ?_
  · exact h
  · intro e c t s h'
    exact stsLane_wf (h')

theorem execStsQ_canonical {sw : Bool} {d a : BitVec 7} {w : BitVec 3} {o : BitVec 8} {s : State} (h : Memory.wf
    s.mem = true) :
    Canonical (execStsQ sw d a w o s) := by
  unfold execStsQ
  refine execLanes_canonical ?_ ?_
  · exact h
  · intro e c t s h'
    exact stsLane_wf (h')

theorem execLdpB_canonical {sw : Bool} {d a : BitVec 7} {o : BitVec 8} {s : State} (h : Memory.wf s.mem = true) :
    Canonical (execLdpB sw d a o s) := by
  unfold execLdpB
  refine execLanes_canonical ?_ ?_
  · exact h
  · intro e c t s h'
    exact ldpLane_wf (h')

theorem execLdpSb_canonical {sw : Bool} {d a : BitVec 7} {o : BitVec 8} {s : State} (h : Memory.wf s.mem = true) :
    Canonical (execLdpSb sw d a o s) := by
  unfold execLdpSb
  refine execLanes_canonical ?_ ?_
  · exact h
  · intro e c t s h'
    exact ldpLane_wf (h')

theorem execLdpH_canonical {sw : Bool} {d a : BitVec 7} {o : BitVec 8} {s : State} (h : Memory.wf s.mem = true) :
    Canonical (execLdpH sw d a o s) := by
  unfold execLdpH
  refine execLanes_canonical ?_ ?_
  · exact h
  · intro e c t s h'
    exact ldpLane_wf (h')

theorem execLdpSh_canonical {sw : Bool} {d a : BitVec 7} {o : BitVec 8} {s : State} (h : Memory.wf s.mem = true) :
    Canonical (execLdpSh sw d a o s) := by
  unfold execLdpSh
  refine execLanes_canonical ?_ ?_
  · exact h
  · intro e c t s h'
    exact ldpLane_wf (h')

theorem execLdpW_canonical {sw : Bool} {d a : BitVec 7} {o : BitVec 8} {s : State} (h : Memory.wf s.mem = true) :
    Canonical (execLdpW sw d a o s) := by
  unfold execLdpW
  refine execLanes_canonical ?_ ?_
  · exact h
  · intro e c t s h'
    exact ldpLane_wf (h')

theorem execLdpD_canonical {sw : Bool} {d a : BitVec 7} {o : BitVec 8} {s : State} (h : Memory.wf s.mem = true) :
    Canonical (execLdpD sw d a o s) := by
  unfold execLdpD
  refine execLanes_canonical ?_ ?_
  · exact h
  · intro e c t s h'
    exact ldpLane_wf (h')

theorem execLdpQ_canonical {sw : Bool} {d a : BitVec 7} {o : BitVec 8} {s : State} (h : Memory.wf s.mem = true) :
    Canonical (execLdpQ sw d a o s) := by
  unfold execLdpQ
  refine execLanes_canonical ?_ ?_
  · exact h
  · intro e c t s h'
    exact ldpLane_wf (h')

theorem execStpB_canonical {sw : Bool} {d a : BitVec 7} {o : BitVec 8} {s : State} (h : Memory.wf s.mem = true) :
    Canonical (execStpB sw d a o s) := by
  unfold execStpB
  refine execLanes_canonical ?_ ?_
  · exact h
  · intro e c t s h'
    exact stpLane_wf (h')

theorem execStpH_canonical {sw : Bool} {d a : BitVec 7} {o : BitVec 8} {s : State} (h : Memory.wf s.mem = true) :
    Canonical (execStpH sw d a o s) := by
  unfold execStpH
  refine execLanes_canonical ?_ ?_
  · exact h
  · intro e c t s h'
    exact stpLane_wf (h')

theorem execStpW_canonical {sw : Bool} {d a : BitVec 7} {o : BitVec 8} {s : State} (h : Memory.wf s.mem = true) :
    Canonical (execStpW sw d a o s) := by
  unfold execStpW
  refine execLanes_canonical ?_ ?_
  · exact h
  · intro e c t s h'
    exact stpLane_wf (h')

theorem execStpD_canonical {sw : Bool} {d a : BitVec 7} {o : BitVec 8} {s : State} (h : Memory.wf s.mem = true) :
    Canonical (execStpD sw d a o s) := by
  unfold execStpD
  refine execLanes_canonical ?_ ?_
  · exact h
  · intro e c t s h'
    exact stpLane_wf (h')

theorem execStpQ_canonical {sw : Bool} {d a : BitVec 7} {o : BitVec 8} {s : State} (h : Memory.wf s.mem = true) :
    Canonical (execStpQ sw d a o s) := by
  unfold execStpQ
  refine execLanes_canonical ?_ ?_
  · exact h
  · intro e c t s h'
    exact stpLane_wf (h')

theorem execAtomAddSi32_canonical {sw : Bool} {d a o : BitVec 7} {s : State} (h : Memory.wf s.mem = true) :
    Canonical (execAtomAddSi32 sw d a o s) := by
  unfold execAtomAddSi32
  refine execLanes_canonical ?_ ?_
  · exact h
  · intro e c t s h'
    exact atomLane_wf (h')

theorem execAtomAddF32_canonical {sw : Bool} {d a o : BitVec 7} {s : State} (h : Memory.wf s.mem = true) :
    Canonical (execAtomAddF32 sw d a o s) := by
  unfold execAtomAddF32
  refine execLanes_canonical ?_ ?_
  · exact h
  · intro e c t s h'
    exact atomLane_wf (h')

theorem execAtomMinSi32_canonical {sw : Bool} {d a o : BitVec 7} {s : State} (h : Memory.wf s.mem = true) :
    Canonical (execAtomMinSi32 sw d a o s) := by
  unfold execAtomMinSi32
  refine execLanes_canonical ?_ ?_
  · exact h
  · intro e c t s h'
    exact atomLane_wf (h')

theorem execAtomMaxSi32_canonical {sw : Bool} {d a o : BitVec 7} {s : State} (h : Memory.wf s.mem = true) :
    Canonical (execAtomMaxSi32 sw d a o s) := by
  unfold execAtomMaxSi32
  refine execLanes_canonical ?_ ?_
  · exact h
  · intro e c t s h'
    exact atomLane_wf (h')

theorem execAtomMinUi32_canonical {sw : Bool} {d a o : BitVec 7} {s : State} (h : Memory.wf s.mem = true) :
    Canonical (execAtomMinUi32 sw d a o s) := by
  unfold execAtomMinUi32
  refine execLanes_canonical ?_ ?_
  · exact h
  · intro e c t s h'
    exact atomLane_wf (h')

theorem execAtomMaxUi32_canonical {sw : Bool} {d a o : BitVec 7} {s : State} (h : Memory.wf s.mem = true) :
    Canonical (execAtomMaxUi32 sw d a o s) := by
  unfold execAtomMaxUi32
  refine execLanes_canonical ?_ ?_
  · exact h
  · intro e c t s h'
    exact atomLane_wf (h')

theorem execAtomAnd_canonical {sw : Bool} {d a o : BitVec 7} {s : State} (h : Memory.wf s.mem = true) :
    Canonical (execAtomAnd sw d a o s) := by
  unfold execAtomAnd
  refine execLanes_canonical ?_ ?_
  · exact h
  · intro e c t s h'
    exact atomLane_wf (h')

theorem execAtomOr_canonical {sw : Bool} {d a o : BitVec 7} {s : State} (h : Memory.wf s.mem = true) :
    Canonical (execAtomOr sw d a o s) := by
  unfold execAtomOr
  refine execLanes_canonical ?_ ?_
  · exact h
  · intro e c t s h'
    exact atomLane_wf (h')

theorem execAtomXor_canonical {sw : Bool} {d a o : BitVec 7} {s : State} (h : Memory.wf s.mem = true) :
    Canonical (execAtomXor sw d a o s) := by
  unfold execAtomXor
  refine execLanes_canonical ?_ ?_
  · exact h
  · intro e c t s h'
    exact atomLane_wf (h')

theorem execAtomExchB32_canonical {sw : Bool} {d a o : BitVec 7} {s : State} (h : Memory.wf s.mem = true) :
    Canonical (execAtomExchB32 sw d a o s) := by
  unfold execAtomExchB32
  refine execLanes_canonical ?_ ?_
  · exact h
  · intro e c t s h'
    exact atomLane_wf (h')

theorem execAtomCasB32_canonical {sw : Bool} {d a o : BitVec 7} {s : State} (h : Memory.wf s.mem = true) :
    Canonical (execAtomCasB32 sw d a o s) := by
  unfold execAtomCasB32
  refine execLanes_canonical ?_ ?_
  · exact h
  · intro e c t s h'
    exact atomLane_wf (h')

theorem execAtomAddUi64_canonical {sw : Bool} {d a o : BitVec 7} {s : State} (h : Memory.wf s.mem = true) :
    Canonical (execAtomAddUi64 sw d a o s) := by
  unfold execAtomAddUi64
  refine execLanes_canonical ?_ ?_
  · exact h
  · intro e c t s h'
    exact atomLane_wf (h')

theorem execAtomExchB64_canonical {sw : Bool} {d a o : BitVec 7} {s : State} (h : Memory.wf s.mem = true) :
    Canonical (execAtomExchB64 sw d a o s) := by
  unfold execAtomExchB64
  refine execLanes_canonical ?_ ?_
  · exact h
  · intro e c t s h'
    exact atomLane_wf (h')

theorem execAtomCasB64_canonical {sw : Bool} {d a o : BitVec 7} {s : State} (h : Memory.wf s.mem = true) :
    Canonical (execAtomCasB64 sw d a o s) := by
  unfold execAtomCasB64
  refine execLanes_canonical ?_ ?_
  · exact h
  · intro e c t s h'
    exact atomLane_wf (h')

theorem execAtomLdx_canonical {sw : Bool} {d a o : BitVec 7} {s : State} (h : Memory.wf s.mem = true) :
    Canonical (execAtomLdx sw d a o s) := by
  unfold execAtomLdx
  refine execLanes_canonical ?_ ?_
  · exact h
  · intro e c t s h'
    exact atomLane_wf (h')

theorem execAtomStx_canonical {sw : Bool} {d a o : BitVec 7} {s : State} (h : Memory.wf s.mem = true) :
    Canonical (execAtomStx sw d a o s) := by
  unfold execAtomStx
  refine execLanes_canonical ?_ ?_
  · exact h
  · intro e c t s h'
    exact atomLane_wf (h')

theorem execMredAddSi32_canonical {sw : Bool} {d a o : BitVec 7} {s : State} (h : Memory.wf s.mem = true) :
    Canonical (execMredAddSi32 sw d a o s) := by
  unfold execMredAddSi32
  refine execLanes_canonical ?_ ?_
  · exact h
  · intro e c t s h'
    exact atomLane_wf (h')

theorem execMredAddF32_canonical {sw : Bool} {d a o : BitVec 7} {s : State} (h : Memory.wf s.mem = true) :
    Canonical (execMredAddF32 sw d a o s) := by
  unfold execMredAddF32
  refine execLanes_canonical ?_ ?_
  · exact h
  · intro e c t s h'
    exact atomLane_wf (h')

theorem execMredMinSi32_canonical {sw : Bool} {d a o : BitVec 7} {s : State} (h : Memory.wf s.mem = true) :
    Canonical (execMredMinSi32 sw d a o s) := by
  unfold execMredMinSi32
  refine execLanes_canonical ?_ ?_
  · exact h
  · intro e c t s h'
    exact atomLane_wf (h')

theorem execMredMaxSi32_canonical {sw : Bool} {d a o : BitVec 7} {s : State} (h : Memory.wf s.mem = true) :
    Canonical (execMredMaxSi32 sw d a o s) := by
  unfold execMredMaxSi32
  refine execLanes_canonical ?_ ?_
  · exact h
  · intro e c t s h'
    exact atomLane_wf (h')

theorem execMredMinUi32_canonical {sw : Bool} {d a o : BitVec 7} {s : State} (h : Memory.wf s.mem = true) :
    Canonical (execMredMinUi32 sw d a o s) := by
  unfold execMredMinUi32
  refine execLanes_canonical ?_ ?_
  · exact h
  · intro e c t s h'
    exact atomLane_wf (h')

theorem execMredMaxUi32_canonical {sw : Bool} {d a o : BitVec 7} {s : State} (h : Memory.wf s.mem = true) :
    Canonical (execMredMaxUi32 sw d a o s) := by
  unfold execMredMaxUi32
  refine execLanes_canonical ?_ ?_
  · exact h
  · intro e c t s h'
    exact atomLane_wf (h')

theorem execMredAnd_canonical {sw : Bool} {d a o : BitVec 7} {s : State} (h : Memory.wf s.mem = true) :
    Canonical (execMredAnd sw d a o s) := by
  unfold execMredAnd
  refine execLanes_canonical ?_ ?_
  · exact h
  · intro e c t s h'
    exact atomLane_wf (h')

theorem execMredOr_canonical {sw : Bool} {d a o : BitVec 7} {s : State} (h : Memory.wf s.mem = true) :
    Canonical (execMredOr sw d a o s) := by
  unfold execMredOr
  refine execLanes_canonical ?_ ?_
  · exact h
  · intro e c t s h'
    exact atomLane_wf (h')

theorem execMredXor_canonical {sw : Bool} {d a o : BitVec 7} {s : State} (h : Memory.wf s.mem = true) :
    Canonical (execMredXor sw d a o s) := by
  unfold execMredXor
  refine execLanes_canonical ?_ ?_
  · exact h
  · intro e c t s h'
    exact atomLane_wf (h')

/-! ## Float -/

theorem opSetF_canonical {w : Word} {fn : SetF} {reads sw : Bool} {d a b : BitVec 7} {s : State} (h : Memory.wf s.mem
    = true) :
    Canonical (opSetF w fn reads sw d a b s) := by
  unfold opSetF
  unfold execPure
  unfold execThreads
  refine issue_canonical ?_ ?_
  · exact h
  · intro e k0 c s h'
    exact State.onCrew_wf (h')

theorem opSetFPaired_canonical {w : Word} {fn : SetF} {reads sw : Bool} {d a b : BitVec 7} {s : State} (h : Memory.wf
    s.mem = true) :
    Canonical (opSetFPaired w fn reads sw d a b s) := by
  unfold opSetFPaired
  unfold execPure
  unfold execThreads
  refine issue_canonical ?_ ?_
  · exact h
  · intro e k0 c s h'
    exact State.onCrew_wf (h')

theorem opSetFUnary_canonical {w : Word} {fn : SetF} {sw : Bool} {d a : BitVec 7} {s : State} (h : Memory.wf s.mem =
    true) :
    Canonical (opSetFUnary w fn sw d a s) := by
  unfold opSetFUnary
  unfold execPure
  unfold execThreads
  refine issue_canonical ?_ ?_
  · exact h
  · intro e k0 c s h'
    exact State.onCrew_wf (h')

theorem opFcmp_canonical {w : Word} {fn : Nat} {sw : Bool} {p : BitVec 3} {a b : BitVec 7} {s : State} (h : Memory.wf
    s.mem = true) :
    Canonical (opFcmp w fn sw p a b s) := by
  unfold opFcmp
  unfold execPure
  unfold execThreads
  refine issue_canonical ?_ ?_
  · exact h
  · intro e k0 c s h'
    exact State.onCrew_wf (h')

theorem opPacked_canonical {w : Word} {f : Fmt} {fn : SetF} {reads sw : Bool} {d a b : BitVec 7} {s : State} (h :
    Memory.wf s.mem = true) :
    Canonical (opPacked w f fn reads sw d a b s) := by
  unfold opPacked
  unfold execPure
  unfold execThreads
  refine issue_canonical ?_ ?_
  · exact h
  · intro e k0 c s h'
    exact State.onCrew_wf (h')

theorem opCvt_canonical {w : Word} {src dst rm : Nat} {pk sw : Bool} {d a : BitVec 7} {s : State} (h : Memory.wf s.mem
    = true) :
    Canonical (opCvt w src dst rm pk sw d a s) := by
  unfold opCvt
  dsimp only
  unfold execPure
  unfold execThreads
  refine issue_canonical ?_ ?_
  · exact h
  · intro e k0 c s h'
    exact State.onCrew_wf (h')

theorem opSpecial_canonical {w : Word} {fn : Spec} {sw : Bool} {d a : BitVec 7} {s : State} (h : Memory.wf s.mem =
    true) :
    Canonical (opSpecial w fn sw d a s) := by
  unfold opSpecial
  unfold execLanes
  unfold execLanesAfter
  refine issue_canonical ?_ ?_
  · exact h
  · intro e k0 c s h'
    refine runSet_wf ?_ ?_ ?_
    · intro e c ts s h
      exact h
    · intro s0 e c t s h h
      exact State.inFlight_wf (State.onLane_wf h)
    · exact h'

theorem opDot_canonical {w : Word} {k : Dot} {elems acc sw : Bool} {d a b : BitVec 7} {s : State} (h : Memory.wf
    s.mem = true) :
    Canonical (opDot w k elems acc sw d a b s) := by
  unfold opDot
  unfold execPure
  unfold execThreads
  refine issue_canonical ?_ ?_
  · exact h
  · intro e k0 c s h'
    exact State.onCrew_wf (h')

theorem opDotScaled_canonical {w : Word} {f : Fmt} {elems odd sw : Bool} {k : BitVec 2} {d a b : BitVec 7} {s :
    State} (h : Memory.wf s.mem = true) :
    Canonical (opDotScaled w f elems odd sw k d a b s) := by
  unfold opDotScaled
  unfold execThreads
  refine issue_canonical ?_ ?_
  · exact h
  · intro e k0 c s h'
    exact State.onCrew_wf (h')

/-! ## Flow -/

theorem execResultLand_canonical {id : Nat} {s : State} (h : Memory.wf s.mem = true) :
    Canonical (execResultLand id s) := by
  unfold execResultLand
  exact canonical_next (State.landNow_wf h)

theorem execStorePerform_canonical {id : Nat} {s : State} (h : Memory.wf s.mem = true) :
    Canonical (execStorePerform id s) := by
  unfold execStorePerform
  split
  · exact canonical_next h
  · exact canonical_next (State.performStores_wf h)

theorem execBinAged_canonical {qtr bin : Nat} {s : State} (h : Memory.wf s.mem = true) :
    Canonical (execBinAged qtr bin s) := by
  unfold execBinAged
  exact canonical_next (State.onQuarter_wf h)

theorem execBinRelease_canonical {qtr : Nat} {s : State} (h : Memory.wf s.mem = true) :
    Canonical (execBinRelease qtr s) := by
  unfold execBinRelease
  split
  · exact canonical_next h
  · exact canonical_next (State.releaseBin_wf h)

/-! ## Integer -/

theorem opSetI_canonical {w : Word} {fn : SetI} {sw : Bool} {d a b : BitVec 7} {s : State} (h : Memory.wf s.mem =
    true) :
    Canonical (opSetI w fn sw d a b s) := by
  unfold opSetI
  unfold execPure
  unfold execThreads
  refine issue_canonical ?_ ?_
  · exact h
  · intro e k0 c s h'
    exact State.onCrew_wf (h')

theorem opSetIPaired_canonical {w : Word} {fn : SetI} {sw : Bool} {d a b : BitVec 7} {s : State} (h : Memory.wf s.mem
    = true) :
    Canonical (opSetIPaired w fn sw d a b s) := by
  unfold opSetIPaired
  unfold execPure
  unfold execThreads
  refine issue_canonical ?_ ?_
  · exact h
  · intro e k0 c s h'
    exact State.onCrew_wf (h')

theorem opSetIUniform_canonical {w : Word} {fn : SetI} {sw : Bool} {d a b : BitVec 7} {s : State} (h : Memory.wf
    s.mem = true) :
    Canonical (opSetIUniform w fn sw d a b s) := by
  unfold opSetIUniform
  unfold execCrew
  refine issue_canonical ?_ ?_
  · exact h
  · intro e k0 c s h'
    exact State.onCrew_wf (h')

theorem opCmp_canonical {w : Word} {fn : SetC} {sw : Bool} {p : BitVec 3} {a b : BitVec 7} {s : State} (h : Memory.wf
    s.mem = true) :
    Canonical (opCmp w fn sw p a b s) := by
  unfold opCmp
  unfold execPure
  unfold execThreads
  refine issue_canonical ?_ ?_
  · exact h
  · intro e k0 c s h'
    exact State.onCrew_wf (h')

theorem opUcmp_canonical {w : Word} {fn : SetC} {sw : Bool} {p : BitVec 3} {a b : BitVec 7} {s : State} (h :
    Memory.wf s.mem = true) :
    Canonical (opUcmp w fn sw p a b s) := by
  unfold opUcmp
  unfold execCrew
  refine issue_canonical ?_ ?_
  · exact h
  · intro e k0 c s h'
    exact State.onCrew_wf (h')

theorem opUnary_canonical {w : Word} {f : Word → Word} {sw : Bool} {d a : BitVec 7} {s : State} (h : Memory.wf s.mem
    = true) :
    Canonical (opUnary w f sw d a s) := by
  unfold opUnary
  unfold execPure
  unfold execThreads
  refine issue_canonical ?_ ?_
  · exact h
  · intro e k0 c s h'
    exact State.onCrew_wf (h')

/-! ## Special -/

theorem execSrd_canonical {sw : Bool} {d n : BitVec 7} {s : State} (h : Memory.wf s.mem = true) :
    Canonical (execSrd sw d n s) := by
  unfold execSrd
  dsimp only
  refine execLanes_canonical ?_ ?_
  · split
    · exact State.sampleTime_wf h
    · exact h
  · intro e c t s h'
    split
    · exact h'
    · split
      · exact h'
      · exact State.onLane_wf (h')

theorem execSrdUniform_canonical {sw : Bool} {d n : BitVec 7} {s : State} (h : Memory.wf s.mem = true) :
    Canonical (execSrdUniform sw d n s) := by
  unfold execSrdUniform
  dsimp only
  refine execUniform_canonical ?_ ?_
  · split
    · exact State.sampleTime_wf h
    · exact h
  · intro e c t s h'
    split
    · exact h'
    · split
      · exact h'
      · exact State.onCrew_wf (h')

theorem execSwr_canonical {sw : Bool} {a : BitVec 7} {s : State} (h : Memory.wf s.mem = true) :
    Canonical (execSwr sw a s) := by
  unfold execSwr
  refine execLanes_canonical ?_ ?_
  · exact h
  · intro e c t s h'
    exact State.onLane_wf (h')

theorem State.plrecTurn_wf {s : State} {e : Env} {c : Crew} {tt : Thread} (h : Memory.wf s.mem = true) :
    Memory.wf (State.plrecTurn s e c tt).1.mem = true := by
  unfold State.plrecTurn
  dsimp only
  split
  · exact h
  · split
    · split
      · exact State.leaveOrder_wf h
      · exact h
    · exact State.enterOrder_wf (State.fresh_wf h)

theorem execPsrd_canonical {sw : Bool} {d n : BitVec 7} {s : State} (h : Memory.wf s.mem = true) :
    Canonical (execPsrd sw d n s) := by
  unfold execPsrd
  dsimp only
  refine execLanes_canonical ?_ ?_
  · exact h
  · intro e c t s h'
    split
    · exact State.onLane_wf (State.free_wf (h'))
    · split
      · dsimp only
        refine wf_fst ‹_› ?_
        split
        · exact State.plrecTurn_wf (h')
        · exact h'
      · split
        · dsimp only
          refine wf_fst ‹_› ?_
          split
          · exact State.plrecTurn_wf (h')
          · exact h'
        · dsimp only
          refine State.onLane_wf ?_
          refine wf_fst ‹_› ?_
          split
          · exact State.plrecTurn_wf (h')
          · exact h'

theorem State.accWrite_wf {s : State} {e : Env} {c : Crew} {tt : Thread} {k : MKind} {v : Word} (h : Memory.wf s.mem
    = true) :
    Memory.wf (State.accWrite s e c tt k v).1.mem = true := by
  unfold State.accWrite
  dsimp only
  split
  · exact h
  · exact State.enterOrder_wf (State.onLane_wf (State.fresh_wf h))

theorem State.ctxopWrite_wf {s : State} {e : Env} {c : Crew} {tt : Thread} {v : Word} {first : Bool} (h : Memory.wf
    s.mem = true) :
    Memory.wf (State.ctxopWrite s e c tt v first).1.mem = true := by
  unfold State.ctxopWrite
  split
  · exact h
  · dsimp only
    split
    · exact State.post_wf (State.onLane_wf h)
    · exact State.onLane_wf h

theorem execPswr_canonical {sw : Bool} {a n : BitVec 7} {s : State} (h : Memory.wf s.mem = true) :
    Canonical (execPswr sw a n s) := by
  unfold execPswr
  dsimp only
  refine execLanes_canonical ?_ ?_
  · exact h
  · intro e c t s h'
    split
    · exact h'
    · split
      · exact h'
      · split
        · exact State.accWrite_wf (h')
        · split
          · exact State.accWrite_wf (h')
          · split
            · exact State.ctxopWrite_wf (h')
            · split
              · dsimp only
                split
                · exact State.onCrew_wf (h')
                · exact h'
              · split
                · exact h'
                · exact State.onLane_wf (h')

/-! ## Sync -/

theorem execFence_canonical {sw : Bool} {c : BitVec 3} {e : BitVec 2} {s : State} (h : Memory.wf s.mem = true) :
    Canonical (execFence sw c e s) := by
  unfold execFence
  refine execLanes_canonical ?_ ?_
  · exact h
  · intro e c t s h'
    split
    · exact h'
    · split
      · exact h'
      · exact State.order_wf (h')

theorem State.compared_wf {s : State} {e : Env} {c : Crew} {tt : Thread} {d : BitVec 7} {place : Place} {mem : Bool}
    {v : Word} (h : Memory.wf s.mem = true) :
    Memory.wf (State.compared s e c tt d place mem v).1.mem = true := by
  unfold State.compared
  split
  · exact State.onLane_wf h
  · exact State.inFlight_wf h

theorem State.soWord_wf {s : State} {c : Crew} {d : Target} (h : Memory.wf s.mem = true) :
    Memory.wf (State.soWord s c d).1.mem = true := by
  unfold State.soWord
  split
  · split
    exact wf_fst ‹_› (State.regLoad_wf h)
  · exact h

theorem waitcLane_wf {d a : BitVec 7} {scope : Nat} {spad : Bool} {e : Env} {c : Crew} {tt : Thread} {s : State} (h :
    Memory.wf s.mem = true) :
    Memory.wf (waitcLane d a scope spad e c tt s).1.mem = true := by
  unfold waitcLane
  dsimp only
  split
  · refine State.spadAccess_wf ?_ ?_ ?_
    · exact h
    · intro s₁ h'
      exact State.order_wf (h')
    · intro s₁ x₁ h'
      exact State.compared_wf (State.spadRead_wf (h'))
  · refine State.genAccess_wf ?_ ?_ ?_
    · exact h
    · intro s₁ h'
      exact State.order_wf (h')
    · intro s₁ x₁ h'
      split
      · split
        · exact State.post_wf (State.onLane_wf (State.soWord_wf (h')))
        · exact State.inFlight_wf (State.soWord_wf (h'))
      · exact State.compared_wf (State.destRead_wf (h'))

theorem execWaitc_canonical {sw : Bool} {d a : BitVec 7} {c : BitVec 3} {p : BitVec 2} {s : State} (h : Memory.wf
    s.mem = true) :
    Canonical (execWaitc sw d a c p s) := by
  unfold execWaitc
  refine execLanes_canonical ?_ ?_
  · exact h
  · intro e c t s h'
    exact waitcLane_wf (h')

theorem execWaitcSoRepeat_canonical {crew lane : Nat} {s : State} (h : Memory.wf s.mem = true) :
    Canonical (execWaitcSoRepeat crew lane s) := by
  unfold execWaitcSoRepeat
  split
  · exact canonical_next h
  · split
    · exact canonical_next h
    · split
      · split
        · split
          split
          · exact canonical_next (State.arm_wf (wf_fst ‹_› (State.soWord_wf (State.syncOp_wf (State.acquired_wf
              (wf_fst ‹_› (State.resolve_wf h)))))))
          · exact canonical_next (State.settle_wf (State.onLane_wf (wf_fst ‹_› (State.soWord_wf (State.syncOp_wf
              (State.acquired_wf (wf_fst ‹_› (State.resolve_wf h))))))))
        · exact canonical_next (State.settle_wf (State.onLane_wf (wf_fst ‹_› (State.resolve_wf h))))
      · exact canonical_next h

theorem wakeLane_wf {a : BitVec 7} {scope : Nat} {spad : Bool} {e : Env} {c : Crew} {tt : Thread} {s : State} (h :
    Memory.wf s.mem = true) :
    Memory.wf (wakeLane a scope spad e c tt s).1.mem = true := by
  unfold wakeLane
  dsimp only
  split
  · exact h
  · split
    · split
      · exact h
      · split
        · exact h
        · split
          · exact h
          · exact State.wakeRange_wf (State.order_wf h)
    · split
      · exact h
      · split
        · exact h
        · split
          · exact wf_fst ‹_› (State.resolve_wf h)
          · exact State.wakeRange_wf (State.order_wf (wf_fst ‹_› (State.resolve_wf h)))
          · exact State.order_wf (wf_fst ‹_› (State.resolve_wf h))

theorem execWake_canonical {sw : Bool} {a : BitVec 7} {c : BitVec 3} {p : BitVec 2} {s : State} (h : Memory.wf s.mem
    = true) :
    Canonical (execWake sw a c p s) := by
  unfold execWake
  refine execLanes_canonical ?_ ?_
  · exact h
  · intro e c t s h'
    exact wakeLane_wf (h')

theorem execBarWait_canonical {sw : Bool} {b : BitVec 4} {s : State} (h : Memory.wf s.mem = true) :
    Canonical (execBarWait sw b s) := by
  unfold execBarWait
  refine execLanes_canonical ?_ ?_
  · exact h
  · intro e c t s h'
    split
    · exact h'
    · split
      · exact State.onLane_wf (State.syncFor_wf (State.acquired_wf (h')))
      · exact State.onLane_wf (State.syncFor_wf (h'))

theorem execBuffer_canonical {f : Form} {s : State} {go : Env → Crew → Thread → List Nat → State → Except Trap State}
    (h : Memory.wf s.mem = true)
    (hgo : ∀ e c t ls s, Memory.wf s.mem = true → ∀ s', go e c t ls s = .ok s' → Memory.wf s'.mem = true) :
    Canonical (execBuffer f s go) := by
  refine issue_canonical h fun e k0 c s h => ?_
  dsimp only
  split
  · exact h
  · split
    next hs => exact hgo _ _ _ _ _ (State.onCrew_wf h) _ hs
    · exact h

theorem State.setGoes_wf {s : State} {e : Env} {lanes : List Nat} {d : Option (Nat × Nat)} (h : Memory.wf s.mem = true) :
    Memory.wf (State.setGoes s e lanes d).mem = true :=
  h

theorem bufferTake_wf {fill : Bool} {d b : BitVec 7} {e : Env} {c : Crew} {lanes : List Nat} {s t : State}
    (h : Memory.wf s.mem = true) (ht : bufferTake fill d b e c lanes s = .ok t) : Memory.wf t.mem = true := by
  unfold bufferTake at ht
  dsimp only at ht
  split at ht
  · cases ht
  · split at ht
    · cases ht
      exact State.cbChanged_wf (State.setGoes_wf (State.onCbuf_wf (State.syncOp_wf (State.acquired_wf h))))
    · cases ht
      exact State.cbChanged_wf (State.onCrew_wf (State.fresh_wf (State.syncOp_wf (State.acquired_wf h))))

theorem bufferGive_wf {done : Bool} {a b : BitVec 7} {e : Env} {c : Crew} {u : Thread} {lanes : List Nat} {s t : State}
    (h : Memory.wf s.mem = true) (ht : bufferGive done a b e c u lanes s = .ok t) : Memory.wf t.mem = true := by
  unfold bufferGive at ht
  cases done
  · simp only [Bool.false_eq_true, if_false] at ht
    split at ht
    · cases ht
    · split at ht
      · cases ht
      · obtain rfl := Except.ok.inj ht
        exact State.cbChanged_wf (State.setGoes_wf (State.onCbuf_wf (State.syncRel_wf (foldl_wf (fun s x h => State.drainLane_wf h) h))))
  · simp only [if_true] at ht
    split at ht
    · cases ht
    · split at ht
      · cases ht
      · obtain rfl := Except.ok.inj ht
        exact State.cbChanged_wf (State.setGoes_wf (State.onCbuf_wf (State.syncRel_wf (foldl_wf (fun s x h => State.drainLane_wf h) h))))

theorem execCbacq_canonical {sw : Bool} {d b : BitVec 7} {s : State} (h : Memory.wf s.mem = true) :
    Canonical (execCbacq sw d b s) := by
  unfold execCbacq
  refine execBuffer_canonical ?_ ?_
  · exact h
  · intro e c t ls s h' s' ht
    refine bufferTake_wf ?_ ‹_›
    exact h'

theorem execCbrel_canonical {sw : Bool} {a b : BitVec 7} {s : State} (h : Memory.wf s.mem = true) :
    Canonical (execCbrel sw a b s) := by
  unfold execCbrel
  refine execBuffer_canonical ?_ ?_
  · exact h
  · intro e c t ls s h' s' ht
    refine bufferGive_wf ?_ ‹_›
    exact h'

theorem execCbfill_canonical {sw : Bool} {d b : BitVec 7} {s : State} (h : Memory.wf s.mem = true) :
    Canonical (execCbfill sw d b s) := by
  unfold execCbfill
  refine execBuffer_canonical ?_ ?_
  · exact h
  · intro e c t ls s h' s' ht
    refine bufferTake_wf ?_ ‹_›
    exact h'

theorem execCbdone_canonical {sw : Bool} {a b : BitVec 7} {s : State} (h : Memory.wf s.mem = true) :
    Canonical (execCbdone sw a b s) := by
  unfold execCbdone
  refine execBuffer_canonical ?_ ?_
  · exact h
  · intro e c t ls s h' s' ht
    refine bufferGive_wf ?_ ‹_›
    exact h'

/-! ## Fetch -/

theorem State.illSet_wf {s : State} {uid k0 : Nat} {tr : Trap} (h : Memory.wf s.mem = true) :
    Memory.wf (State.illSet s uid k0 tr).mem = true := by
  unfold State.illSet
  refine State.settle_wf ?_
  dsimp only
  refine State.onCrew_wf ?_
  exact h

/-! ## Instructions and events -/

theorem exec_canonical (i : Instr) {s : State} (h : Memory.wf s.mem = true) : Canonical (exec i s) := by
  cases i
  case add | sub | mul | mulhiSi32 | mulhiUi32 | and | or | xor | shl | shr | sar | minSi32 | maxSi32 | minUi32
    | maxUi32 | addsSi32 => exact opSetI_canonical h
  case addPaired | subPaired | mulPaired | mulhiSi32Paired | mulhiUi32Paired | andPaired | orPaired | xorPaired
    | shlPaired | shrPaired | sarPaired | minSi32Paired | maxSi32Paired | minUi32Paired | maxUi32Paired
    | addsSi32Paired => exact opSetIPaired_canonical h
  case addUniform | subUniform | mulUniform | mulhiSi32Uniform | mulhiUi32Uniform | andUniform | orUniform
    | xorUniform | shlUniform | shrUniform | sarUniform | minSi32Uniform | maxSi32Uniform | minUi32Uniform
    | maxUi32Uniform | addsSi32Uniform => exact opSetIUniform_canonical h
  case addi => exact show Canonical (execAddi ..) from execPure_canonical h
  case movl => exact show Canonical (execMovl ..) from execPure_canonical h
  case movh => exact show Canonical (execMovh ..) from execPure_canonical h
  case addai => exact show Canonical (execAddai ..) from execPure_canonical h
  case mad => exact show Canonical (execMad ..) from execPure_canonical h
  case adda => exact show Canonical (execAdda ..) from execPure_canonical h
  case p2r => exact show Canonical (execP2r ..) from execPure_canonical h
  case regToPred => exact show Canonical (execRegToPred ..) from execPure_canonical h
  case jr => exact show Canonical (execJr ..) from execPure_canonical h
  case callr => exact show Canonical (execCallr ..) from execPure_canonical h
  case nop => exact show Canonical (execNop ..) from execPure_canonical h
  case uaddi => exact show Canonical (execUaddi ..) from execCrew_canonical h
  case umovl => exact show Canonical (execUmovl ..) from execCrew_canonical h
  case umovh => exact show Canonical (execUmovh ..) from execCrew_canonical h
  case qmov => exact show Canonical (execQmov ..) from execCrew_canonical h
  case capr => exact show Canonical (execCapr ..) from execCrew_canonical h
  case cmpEq | cmpNe | cmpLtSi32 | cmpLeSi32 | cmpGtSi32 | cmpGeSi32 | cmpLtUi32 | cmpLeUi32 | cmpGtUi32
    | cmpGeUi32 => exact opCmp_canonical h
  case ucmpEq | ucmpNe | ucmpLtSi32 | ucmpLeSi32 | ucmpGtSi32 | ucmpGeSi32 | ucmpLtUi32 | ucmpLeUi32
    | ucmpGtUi32 | ucmpGeUi32 => exact opUcmp_canonical h
  case mov => exact show Canonical (execMov ..) from opUnary_canonical h
  case not => exact show Canonical (execNot ..) from opUnary_canonical h
  case neg => exact show Canonical (execNeg ..) from opUnary_canonical h
  case absSi32 => exact show Canonical (execAbsSi32 ..) from opUnary_canonical h
  case popc => exact show Canonical (execPopc ..) from opUnary_canonical h
  case clz => exact show Canonical (execClz ..) from opUnary_canonical h
  case brev => exact show Canonical (execBrev ..) from opUnary_canonical h
  case sxb => exact show Canonical (execSxb ..) from opUnary_canonical h
  case sxh => exact show Canonical (execSxh ..) from opUnary_canonical h
  case fadd | fsub | fmul | ffma | fmin | fmax | fdiv => exact opSetF_canonical h
  case fsqrt | fabs | fneg => exact opSetFUnary_canonical h
  case faddPaired | fsubPaired | fmulPaired | ffmaPaired | fminPaired | fmaxPaired | fdivPaired => exact opSetFPaired_canonical h
  case fcmpEq | fcmpNe | fcmpLt | fcmpLe | fcmpGt | fcmpGe => exact opFcmp_canonical h
  case haddF16 | hsubF16 | hmulF16 | hfmaF16 | hminF16 | hmaxF16 | haddBf16 | hsubBf16 | hmulBf16 | hfmaBf16
    | hminBf16 | hmaxBf16 => exact opPacked_canonical h
  case cvt => exact opCvt_canonical h
  case recip | rsqrt | exp2 | log2 | sin | cos | tanh | sigm => exact opSpecial_canonical h
  case dp4Si8 | dp4Si8ui8 | dp8Si4 | dp8Si4ui4 | dp4F8a | dp4F8b | dp8F4 | dp2Bf16 | dp2F16 => exact opDot_canonical h
  case dp4F8aSc | dp4F8bSc | dp8F4Sc => exact opDotScaled_canonical h
  case shflIdx | shflUpW | shflDownW | shflXorW | shflUp | shflDown | shflXor | lredAddSi32 | lredAddF32
    | lredMinSi32 | lredMaxSi32 | lredMinF32 | lredMaxF32 | lredAnd | lredOr | lredXor | uwinb | tokp | barArr
    | barSync => exact execArrive_canonical h
  case voteEvery | voteSome | voteSame | voteMask => exact execArriveU_canonical h
  case pand => exact show Canonical (execPand ..) from opPred_canonical h
  case por => exact show Canonical (execPor ..) from opPred_canonical h
  case pxor => exact show Canonical (execPxor ..) from opPred_canonical h
  case pmov => exact show Canonical (execPmov ..) from opPred_canonical h
  case qand => exact show Canonical (execQand ..) from opQpred_canonical h
  case qor => exact show Canonical (execQor ..) from opQpred_canonical h
  case qxor => exact show Canonical (execQxor ..) from opQpred_canonical h
  case bra => exact show Canonical (execBra ..) from execThreads_canonical h
  case call => exact show Canonical (execCall ..) from execThreads_canonical h
  case winb => exact show Canonical (execWinb ..) from execThreads_canonical h
  case cpy => exact show Canonical (execCpy ..) from execEngine_canonical h
  case cpy2d => exact show Canonical (execCpy2d ..) from execEngine_canonical h
  case cpyred => exact show Canonical (execCpyred ..) from execEngine_canonical h
  case cpyMx => exact show Canonical (execCpyMx ..) from execEngine_canonical h
  case hread => exact show Canonical (execHread ..) from execEngine_canonical h
  case xsort => exact show Canonical (execXsort ..) from execEngine_canonical h
  case a2av => exact show Canonical (execA2av ..) from execEngine_canonical h
  case areduce => exact show Canonical (execAreduce ..) from execEngine_canonical h
  case rput => exact show Canonical (execRput ..) from execEngine_canonical h
  case rget => exact show Canonical (execRget ..) from execEngine_canonical h
  case ratom => exact show Canonical (execRatom ..) from execEngine_canonical h
  case rflush => exact show Canonical (execRflush ..) from execEngine_canonical h
  case roost => exact show Canonical (execRoost ..) from execEngine_canonical h
  case rouse => exact show Canonical (execRouse ..) from execEngine_canonical h
  case lnch => exact show Canonical (execLnch ..) from execEngine_canonical h
  case gang => exact show Canonical (execGang ..) from execEngine_canonical h
  case mldStPerform | mswapPerform | mmaPerform | mstPerform | maccClrPerform | maccRdLand | mstatLand => exact performDue_canonical h
  case accdatWrite | accstatWrite => exact performAcc_canonical h
  case ubra => exact execUbra_canonical h
  case reform => exact execReform_canonical h
  case exit => exact execExit_canonical h
  case brk => exact execBrk_canonical h
  case rnd => exact execRnd_canonical h
  case sysc => exact execSysc_canonical h
  case tret => exact execTret_canonical h
  case ldB => exact execLdB_canonical h
  case ldSb => exact execLdSb_canonical h
  case ldH => exact execLdH_canonical h
  case ldSh => exact execLdSh_canonical h
  case ldW => exact execLdW_canonical h
  case ldD => exact execLdD_canonical h
  case ldQ => exact execLdQ_canonical h
  case stB => exact execStB_canonical h
  case stH => exact execStH_canonical h
  case stW => exact execStW_canonical h
  case stD => exact execStD_canonical h
  case stQ => exact execStQ_canonical h
  case lduW => exact execLduW_canonical h
  case lduD => exact execLduD_canonical h
  case ldsW => exact execLdsW_canonical h
  case ldsD => exact execLdsD_canonical h
  case ldsQ => exact execLdsQ_canonical h
  case stsW => exact execStsW_canonical h
  case stsD => exact execStsD_canonical h
  case stsQ => exact execStsQ_canonical h
  case ldpB => exact execLdpB_canonical h
  case ldpSb => exact execLdpSb_canonical h
  case ldpH => exact execLdpH_canonical h
  case ldpSh => exact execLdpSh_canonical h
  case ldpW => exact execLdpW_canonical h
  case ldpD => exact execLdpD_canonical h
  case ldpQ => exact execLdpQ_canonical h
  case stpB => exact execStpB_canonical h
  case stpH => exact execStpH_canonical h
  case stpW => exact execStpW_canonical h
  case stpD => exact execStpD_canonical h
  case stpQ => exact execStpQ_canonical h
  case atomAddSi32 => exact execAtomAddSi32_canonical h
  case atomAddF32 => exact execAtomAddF32_canonical h
  case atomMinSi32 => exact execAtomMinSi32_canonical h
  case atomMaxSi32 => exact execAtomMaxSi32_canonical h
  case atomMinUi32 => exact execAtomMinUi32_canonical h
  case atomMaxUi32 => exact execAtomMaxUi32_canonical h
  case atomAnd => exact execAtomAnd_canonical h
  case atomOr => exact execAtomOr_canonical h
  case atomXor => exact execAtomXor_canonical h
  case atomExchB32 => exact execAtomExchB32_canonical h
  case atomCasB32 => exact execAtomCasB32_canonical h
  case atomAddUi64 => exact execAtomAddUi64_canonical h
  case atomExchB64 => exact execAtomExchB64_canonical h
  case atomCasB64 => exact execAtomCasB64_canonical h
  case atomLdx => exact execAtomLdx_canonical h
  case atomStx => exact execAtomStx_canonical h
  case srd => exact execSrd_canonical h
  case srdUniform => exact execSrdUniform_canonical h
  case swr => exact execSwr_canonical h
  case mredAddSi32 => exact execMredAddSi32_canonical h
  case mredAddF32 => exact execMredAddF32_canonical h
  case mredMinSi32 => exact execMredMinSi32_canonical h
  case mredMaxSi32 => exact execMredMaxSi32_canonical h
  case mredMinUi32 => exact execMredMinUi32_canonical h
  case mredMaxUi32 => exact execMredMaxUi32_canonical h
  case mredAnd => exact execMredAnd_canonical h
  case mredOr => exact execMredOr_canonical h
  case mredXor => exact execMredXor_canonical h
  case fence => exact execFence_canonical h
  case waitc => exact execWaitc_canonical h
  case wake => exact execWake_canonical h
  case barWait => exact execBarWait_canonical h
  case cbacq => exact execCbacq_canonical h
  case cbrel => exact execCbrel_canonical h
  case cbfill => exact execCbfill_canonical h
  case cbdone => exact execCbdone_canonical h
  case qfence => exact execQfence_canonical h
  case qwait => exact execQwait_canonical h
  case mldSt => exact execMldSt_canonical h
  case mswap => exact execMswap_canonical h
  case mma => exact execMma_canonical h
  case maccRd => exact execMaccRd_canonical h
  case mst => exact execMst_canonical h
  case maccClr => exact execMaccClr_canonical h
  case mstat => exact execMstat_canonical h
  case kvld => exact execKvld_canonical h
  case cncl => exact execCncl_canonical h
  case psrd => exact execPsrd_canonical h
  case pswr => exact execPswr_canonical h
  case guardPrefix => exact execGuardPrefix_canonical h
  case resultLand => exact execResultLand_canonical h
  case storePerform => exact execStorePerform_canonical h
  case waitcSoRepeat => exact execWaitcSoRepeat_canonical h
  case binAged => exact execBinAged_canonical h
  case binRelease => exact execBinRelease_canonical h
  case syscPostHeld => exact execSyscPostHeld_canonical h
  case collectivePerform => exact execCollectivePerform_canonical h
  case faultEntryPostHeld => exact execFaultEntryPostHeld_canonical h
  case lastExitRelease => exact execLastExitRelease_canonical h
  case kernelBoundary => exact execKernelBoundary_canonical h
  case asyncTrapEntry => exact execAsyncTrapEntry_canonical h
  case arrayUncorrectableError => exact execArrayUncorrectableError_canonical h
  case engineEntryStart => exact execEngineEntryStart_canonical h
  case cpyComplete => exact execCpyComplete_canonical h
  case cpyredChunkApply => exact execCpyredChunkApply_canonical h
  case copyReplay => exact execCopyReplay_canonical h
  case qfenceComplete => exact execQfenceComplete_canonical h
  case qwaitComplete => exact execQwaitComplete_canonical h
  case hreadBurstArrive => exact execHreadBurstArrive_canonical h
  case hreadBurstFetchFail => exact execHreadBurstFetchFail_canonical h
  case dripBirth => exact execDripBirth_canonical h
  case xsortComplete => exact execXsortComplete_canonical h
  case groupInstanceBegin => exact execGroupInstanceBegin_canonical h
  case groupWithdrawal => exact execGroupWithdrawal_canonical h
  case a2avCountExchange => exact execA2avCountExchange_canonical h
  case a2avPartPlaced => exact execA2avPartPlaced_canonical h
  case areduceComplete => exact execAreduceComplete_canonical h
  case rmaRequestReceive => exact execRmaRequestReceive_canonical h
  case rputComplete => exact execRputComplete_canonical h
  case rgetComplete => exact execRgetComplete_canonical h
  case ratomComplete => exact execRatomComplete_canonical h
  case rflushComplete => exact execRflushComplete_canonical h
  case kvldStatusLand => exact execKvldStatusLand_canonical h
  case roostRegistered => exact execRoostRegistered_canonical h
  case rouseArrive => exact execRouseArrive_canonical h
  case gangPrepare => exact execGangPrepare_canonical h
  case gangDecision => exact execGangDecision_canonical h
  case gangCommit => exact execGangCommit_canonical h
  case gangAbort => exact execGangAbort_canonical h
  case gangTickDispatch => exact execGangTickDispatch_canonical h
  case preemptRequest => exact execPreemptRequest_canonical h
  case preemptGraceExpiry => exact execPreemptGraceExpiry_canonical h
  case saveDeadlineExpiry => exact execSaveDeadlineExpiry_canonical h
  case ctxopSave => exact execCtxopSave_canonical h
  case ctxopRestore => exact execCtxopRestore_canonical h
  case resumeStart => exact execResumeStart_canonical h
  case syscReplyDoorbell => exact execSyscReplyDoorbell_canonical h
  case syscAlloc => exact execSyscAlloc_canonical h
  case syscFree => exact execSyscFree_canonical h
  case kick => exact execKick_canonical h
  case queueEntryTake => exact execQueueEntryTake_canonical h
  case ctrlResume => exact execCtrlResume_canonical h
  case ctrlCancel => exact execCtrlCancel_canonical h
  case ctrlClose => exact execCtrlClose_canonical h
  case claimUnit => exact execClaimUnit_canonical h
  case claimFree => exact execClaimFree_canonical h
  case priorityRise => exact execPriorityRise_canonical h
  case dispatchUnit => exact execDispatchUnit_canonical h
  case starvationPreempt => exact execStarvationPreempt_canonical h
  case localityScoreHalve => exact execLocalityScoreHalve_canonical h
  case throttleSwap => exact execThrottleSwap_canonical h
  case invalidationRequest => exact execInvalidationRequest_canonical h
  case invalidationComplete => exact execInvalidationComplete_canonical h
  case fillDataReceive => exact execFillDataReceive_canonical h
  case waiterRunWake => exact execWaiterRunWake_canonical h
  case postFillHoldExpiry => exact execPostFillHoldExpiry_canonical h
  case evictionComplete => exact execEvictionComplete_canonical h
  case uncorrectableMemoryError => exact execUncorrectableMemoryError_canonical h
  case homeRds => exact execHomeRds_canonical h
  case homeRdx => exact execHomeRdx_canonical h
  case homeUpg => exact execHomeUpg_canonical h
  case homeWb => exact execHomeWb_canonical h
  case homeEve => exact execHomeEve_canonical h
  case homeAckReceive => exact execHomeAckReceive_canonical h
  case homeMemoryWriteDone => exact execHomeMemoryWriteDone_canonical h
  case agentFwds => exact execAgentFwds_canonical h
  case agentFwdx => exact execAgentFwdx_canonical h
  case agentInv => exact execAgentInv_canonical h
  case agentDataReceive => exact execAgentDataReceive_canonical h
  case agentGrantReceive => exact execAgentGrantReceive_canonical h
  case agentWbackReceive => exact execAgentWbackReceive_canonical h
  case agentWbstaleReceive => exact execAgentWbstaleReceive_canonical h
  case agentLineDrop => exact execAgentLineDrop_canonical h
  case shardGets => exact execShardGets_canonical h
  case shardGetx => exact execShardGetx_canonical h
  case shardWbrel => exact execShardWbrel_canonical h
  case shardDrop => exact execShardDrop_canonical h
  case shardHomeAck => exact execShardHomeAck_canonical h
  case shardRecallAck => exact execShardRecallAck_canonical h
  case holderRecall => exact execHolderRecall_canonical h
  case ownerXferS => exact execOwnerXferS_canonical h
  case ownerXferX => exact execOwnerXferX_canonical h
  case tenureEnd => exact execTenureEnd_canonical h
  case lookupAckReceive => exact execLookupAckReceive_canonical h
  case wbackReceive => exact execWbackReceive_canonical h
  case staleReceive => exact execStaleReceive_canonical h
  case heldReceive => exact execHeldReceive_canonical h
  case homeWriteTimeout => exact execHomeWriteTimeout_canonical h
  case attemptTimeout => exact execAttemptTimeout_canonical h
  case backoffExpiry => exact execBackoffExpiry_canonical h
  case victimRetry => exact execVictimRetry_canonical h
  case frameAging => exact execFrameAging_canonical h
  case installClean => exact execInstallClean_canonical h
  case installDirty => exact execInstallDirty_canonical h
  case retry => exact execRetry_canonical h
  case kill => exact execKill_canonical h
  case pin => exact execPin_canonical h
  case unpin => exact execUnpin_canonical h
  case dirset => exact execDirset_canonical h
  case roostT1Expiry => exact execRoostT1Expiry_canonical h
  case roostT2Expiry => exact execRoostT2Expiry_canonical h
  case pageDescentDone => exact execPageDescentDone_canonical h
  case pageAscentDone => exact execPageAscentDone_canonical h
  case checkpointSave => exact execCheckpointSave_canonical h
  case checkpointRestore => exact execCheckpointRestore_canonical h
  case checkpointAbort => exact execCheckpointAbort_canonical h
  case checkpointDrainDone => exact execCheckpointDrainDone_canonical h
  case checkpointSegmentDone => exact execCheckpointSegmentDone_canonical h
  case packetReceive => exact execPacketReceive_canonical h
  case retransmitTimeout => exact execRetransmitTimeout_canonical h
  case ackReceive => exact execAckReceive_canonical h
  case rateRiseTick => exact execRateRiseTick_canonical h
  case ptpSync => exact execPtpSync_canonical h
  case dieFlitReceive => exact execDieFlitReceive_canonical h
  case linkUnitReceive => exact execLinkUnitReceive_canonical h
  case linkUnitClose => exact execLinkUnitClose_canonical h
  case linkKeyRenew => exact execLinkKeyRenew_canonical h
  case firmwareActivation => exact execFirmwareActivation_canonical h
  case getVersion => exact execGetVersion_canonical h
  case getCapabilities => exact execGetCapabilities_canonical h
  case negotiateAlgorithms => exact execNegotiateAlgorithms_canonical h
  case getDigests => exact execGetDigests_canonical h
  case getCertificate => exact execGetCertificate_canonical h
  case challenge => exact execChallenge_canonical h
  case getMeasurements => exact execGetMeasurements_canonical h
  case keyExchange => exact execKeyExchange_canonical h
  case finish => exact execFinish_canonical h
  case heartbeat => exact execHeartbeat_canonical h
  case keyUpdate => exact execKeyUpdate_canonical h
  case endSession => exact execEndSession_canonical h
  case spdmUnsupportedRequest => exact execSpdmUnsupportedRequest_canonical h
  case leaseAttestation => exact execLeaseAttestation_canonical h
  case leaseRenewalDue => exact execLeaseRenewalDue_canonical h
  case leaseBusyRetry => exact execLeaseBusyRetry_canonical h
  case leaseExpiry => exact execLeaseExpiry_canonical h
  case leaseKeyGraceEnd => exact execLeaseKeyGraceEnd_canonical h
  case leaseChangeReceive => exact execLeaseChangeReceive_canonical h
  case sessionKeyDistribution => exact execSessionKeyDistribution_canonical h
  case epochAdvance => exact execEpochAdvance_canonical h
  case epochOverlapEnd => exact execEpochOverlapEnd_canonical h
  case worldLatch => exact execWorldLatch_canonical h
  case worldCreate => exact execWorldCreate_canonical h
  case worldTeardown => exact execWorldTeardown_canonical h
  case ringDoorbell => exact execRingDoorbell_canonical h
  case rcmdEnable => exact execRcmdEnable_canonical h
  case rcmdResume => exact execRcmdResume_canonical h
  case rcmdDisable => exact execRcmdDisable_canonical h
  case ringRekey => exact execRingRekey_canonical h
  case sampleTick => exact execSampleTick_canonical h
  case dcmdHalt => exact execDcmdHalt_canonical h
  case dcmdResume => exact execDcmdResume_canonical h
  case dcmdStep => exact execDcmdStep_canonical h
  case prefetchTick => exact execPrefetchTick_canonical h
  case powerOn => exact execPowerOn_canonical h
  case powerStateChange => exact execPowerStateChange_canonical h
  case thermalThreshold => exact execThermalThreshold_canonical h
  case registerWrite => exact execRegisterWrite_canonical h
  case portDown => exact execPortDown_canonical h
  case portUp => exact execPortUp_canonical h
  case ptpLockLoss => exact execPtpLockLoss_canonical h
  case deviceReset => exact execDeviceReset_canonical h
  case powerLoss => exact execPowerLoss_canonical
  case jobOpen => exact execJobOpen_canonical h
  case grantReceive => exact execGrantReceive_canonical h
  case liveActivationEnd => exact execLiveActivationEnd_canonical h

/-! ## Steps -/

/-- The state that a plan leaves, or in which it runs an instruction, has canonical memory. -/
def Plan.Canonical : Plan → Prop
  | .idle => True
  | .ill s | .run s _ => Memory.wf s.mem = true

theorem planSet_canonical {s : State} {uid k0 : Nat} {guard : Option (BitVec 4)} (h : Memory.wf s.mem = true) :
    (s.planSet uid k0 guard).Canonical := by
  unfold State.planSet
  split
  · exact h
  · split
    · exact h
    · dsimp only
      generalize (if guard.isSome = true then 4 else 0) = off
      split
      · exact State.illSet_wf h
      · split
        · exact h
        · split
          · split
            · split
              next hr =>
                refine refuseOperand_canonical ?_ _ hr
                exact h
              next => exact h
            · exact State.illSet_wf h
          · exact h

theorem plan_canonical {s : State} (h : Memory.wf s.mem = true) : s.plan.Canonical := by
  unfold State.plan
  split
  · exact planSet_canonical h
  · dsimp only
    split
    · trivial
    · split
      · exact h
      · trivial
    · exact h
    · exact planSet_canonical h
    · exact State.rvPerform_wf h

theorem step_canonical {s : State} (h : Memory.wf s.mem = true) : Canonical (step s) := by
  have hp := plan_canonical h
  unfold step
  split
  · exact canonical_next h
  next hs =>
    rw [hs] at hp
    exact canonical_next hp
  next hs =>
    rw [hs] at hp
    exact exec_canonical _ hp

/-- Settles O60: each instruction and each event by the lemma on its function, and a step by what it runs. -/
theorem stepsKeepMemoryForm : Obligations.StepsKeepMemoryForm := by
  unfold Obligations.StepsKeepMemoryForm
  exact ⟨fun i s t h ht => exec_canonical i h t ht, fun s t h ht => step_canonical h t ht⟩

end Sys2Proof.Machine
end


section
/-! # Special functions: one lane's result in flight -/

namespace Sys2Proof.Machine

/-- A special function of a lone ready thread: its flags at issue, its result in flight (R152, R185). -/
theorem opSpecial_lands (w : Word) (fn : Spec) {sw : Bool} {d a : BitVec 7} {s : State} {c : Crew} {u : Thread}
    (h : AloneReady s c u sw [dX d 1, (aX a 1).fp]) :
    ∃ t, opSpecial w fn sw d a s = .next t ∧
      Lands s s t c u (u.flag (special fn (u.x a.toNat)).2) c [(u.wb + d.toNat, (special fn (u.x a.toNat)).1)] := by
  obtain ⟨hA, hx, hR⟩ := h
  have hl : LaneAt s _ c u (u.flag (special fn (u.x a.toNat)).2) c _ :=
    hA.laneAt.onLane (·.flag (special fn (u.x a.toNat)).2) (fun _ => rfl) (fun _ => rfl)
  rw [opSpecial, execLanes_alone hA rfl (wordTrap_plain rfl hx) rfl hR]
  exact ⟨_, rfl, hl.lands (e := ⟨c.uid, w, s.iss.guard, c.region⟩) rfl hA.2.2.2.2.2 rfl rfl rfl fun _ => rfl⟩

/-- Settles O11: the eight functions are `opSpecial` of one function each. -/
theorem specialFunctions : Obligations.SpecialFunctions :=
  ⟨fun _ _ _ _ _ _ h => opSpecial_lands _ _ h, fun _ _ _ _ _ _ h => opSpecial_lands _ _ h,
    fun _ _ _ _ _ _ h => opSpecial_lands _ _ h, fun _ _ _ _ _ _ h => opSpecial_lands _ _ h,
    fun _ _ _ _ _ _ h => opSpecial_lands _ _ h, fun _ _ _ _ _ _ h => opSpecial_lands _ _ h,
    fun _ _ _ _ _ _ h => opSpecial_lands _ _ h, fun _ _ _ _ _ _ h => opSpecial_lands _ _ h⟩

end Sys2Proof.Machine
end


section
/-! # Bytes and words, and the generic loads -/

namespace Sys2Proof.Machine

/-! ## Bytes as words -/

theorem leNat_one (b : Byte) : leNat [b] = b.toNat := by simp [leNat]

/-- Two bytes are one half, the higher address the higher byte. -/
theorem ofNat_leNat_two (b0 b1 : Byte) : BitVec.ofNat 16 (leNat [b0, b1]) = b1 ++ b0 := by
  refine BitVec.eq_of_toNat_eq ?_
  have := b0.isLt
  have := b1.isLt
  simp only [leNat, BitVec.toNat_ofNat, BitVec.toNat_append, Nat.shiftLeft_eq, Nat.mul_zero, Nat.add_zero]
  rw [Nat.mul_comm b1.toNat, ← Nat.two_pow_add_eq_or_of_lt (by assumption)]
  omega

theorem ofNat_leNat_two_word (b0 b1 : Byte) : BitVec.ofNat 32 (leNat [b0, b1]) = (b1 ++ b0).zeroExtend 32 := by
  rw [← ofNat_leNat_two]
  refine BitVec.eq_of_toNat_eq ?_
  have := b0.isLt
  have := b1.isLt
  simp only [leNat, BitVec.toNat_ofNat, BitVec.toNat_setWidth, Nat.mul_zero, Nat.add_zero]
  omega

/-- The first four bytes are the first word (R157). -/
theorem bytesWords_cons (b0 b1 b2 b3 : Byte) (l : List Byte) :
    bytesWords (b0 :: b1 :: b2 :: b3 :: l) = (b3 ++ b2 ++ b1 ++ b0) :: bytesWords l := by
  unfold bytesWords
  rw [show (b0 :: b1 :: b2 :: b3 :: l).length / 4 = l.length / 4 + 1 by simp only [List.length_cons]; omega,
    List.range_succ_eq_map, List.map_cons, List.map_map]
  refine congr (congrArg List.cons (ofNat_leNat_four _ _ _ _)) (List.map_congr_left fun j _ => ?_)
  simp only [Function.comp, wordAt]
  rw [show 4 * j.succ = 4 * j + 1 + 1 + 1 + 1 by omega]
  simp only [List.drop_succ_cons]

/-- The words of runs of four bytes, one run after the other (R157). -/
theorem bytesWords_flatMap (b : Nat → Byte) (as : List Nat) :
    bytesWords (as.flatMap fun a => (List.range 4).map fun i => b (a + i)) = as.map (byteWord b) := by
  induction as with
  | nil => simp [bytesWords]
  | cons a r ih =>
    rw [List.flatMap_cons, List.map_cons, ← ih]
    exact bytesWords_cons (b (a + 0)) (b (a + 1)) (b (a + 2)) (b (a + 3)) _

/-- A run of bytes, four at a time. -/
theorem range_bytes (b : Nat → Byte) (a k : Nat) : ((List.range (4 * k)).map fun i => b (a + i)) =
    ((List.range k).map fun j => a + 4 * j).flatMap fun a => (List.range 4).map fun i => b (a + i) := by
  induction k with
  | zero => rfl
  | succ k ih =>
    rw [show 4 * (k + 1) = 4 * k + 4 by omega, List.range_add, List.map_append, ih, List.range_succ (n := k), List.map_append,
      List.flatMap_append, List.map_map]
    simp [Function.comp_def, Nat.add_assoc]

/-- The words of a run of bytes, lowest first (R157). -/
theorem bytesWords_range (b : Nat → Byte) (a k : Nat) :
    bytesWords ((List.range (4 * k)).map fun i => b (a + i)) = (List.range k).map fun j => byteWord b (a + 4 * j) := by
  rw [range_bytes, bytesWords_flatMap, List.map_map]
  rfl

/-! ## Values of loads -/

/-- A byte, extended by zeros or by its sign. -/
theorem loadWords_one (b : Byte) :
    loadWords 1 false [b] = [b.zeroExtend 32] ∧ loadWords 1 true [b] = [b.signExtend 32] := by
  simp [loadWords, leNat_one, BitVec.ofNat_toNat]

/-- A half, extended by zeros or by its sign. -/
theorem loadWords_two (b0 b1 : Byte) :
    loadWords 2 false [b0, b1] = [(b1 ++ b0).zeroExtend 32] ∧ loadWords 2 true [b0, b1] = [(b1 ++ b0).signExtend 32] := by
  simp only [loadWords, ofNat_leNat_two, ofNat_leNat_two_word]
  exact ⟨rfl, rfl⟩

/-- A load of whole words is of its bytes as words. -/
theorem loadWords_words {n : Nat} (hn : 4 ≤ n) (sg : Bool) (l : List Byte) : loadWords n sg l = bytesWords l := by
  rw [loadWords, if_neg (by omega), if_neg (by omega)]

/-! ## Generic loads -/

/-- Physical memory read as whole words. -/
theorem bytesWords_loadPA (s : State) (pa k : Nat) :
    bytesWords (s.loadPA pa (4 * k)) = (List.range k).map fun j => s.wordPA (pa + 4 * j) :=
  bytesWords_range s.loadB pa k

/-- A lane whose registers `regs` go pending as it goes on, whatever else becomes of the machine outside its crews. -/
theorem LaneAt.pends {R : State → State → Prop} {s b s1 s2 : State} {c d k : Crew} {u v : Thread} {e : Env}
    {regs : List Nat} (h : LaneAt s s1 c u v k d) (he : e.uid = c.uid) (hr : v.replay = none) (hn : e.next v = nextPc s u)
    (hp : e.pcI u = s.issPc u) (hv : v.pendX = u.pendX)
    (hc : s2.crews = (s1.onLane c.uid u.lane fun t => { t with pendX := pendAll t.pendX regs (e.pcI u) }).crews)
    (hi : s2.iss = ⟨0, 0, none⟩) (hs : ∀ cs, R b { s2 with crews := cs }) :
    LaneBecomes s ((closeLane e u (s2, .done)).settle c.uid) c u { v with
        pc := nextPc s u
        pendX := pendAll u.pendX regs (s.issPc u) } k ∧ R b ((closeLane e u (s2, .done)).settle c.uid) := by
  have h1 := (h.onLane (fun t => { t with pendX := pendAll t.pendX regs (e.pcI u) }) (fun _ => rfl) (fun _ => rfl)).same hc hi
  obtain ⟨h2, h3⟩ := h1.done he hr
  refine ⟨?_, by rw [h3]; exact hs _⟩
  rw [show e.next { v with pendX := pendAll v.pendX regs (e.pcI u) } = nextPc s u from hn] at h2
  rw [← hp, ← hv]
  exact h2

/-- What goes into flight beside other changes is in flight. -/
theorem Beside.flies {b t : State} (h : Beside b t) (l : Landing) : Beside (flies b b l) (flies t t l) := by
  obtain ⟨h1, h2⟩ := h
  unfold Machine.flies
  refine ⟨?_, ?_⟩
  · rw [h1]
  · simp only [List.filter_append, h2]
    rw [h1]

theorem Beside.crews {b t : State} (h : Beside b t) (cs : List Crew) : Beside b { t with crews := cs } := by
  obtain ⟨h1, h2⟩ := h
  exact ⟨by rw [h1], h2⟩

/-- A lane that goes on with the lower half of 16 B in flight and the upper one to be read (R129). -/
theorem LaneAt.halves {s b s1 : State} {c d k : Crew} {u v : Thread} {e : Env} {vals : List (Nat × Word)} {late : Late}
    (h : LaneAt s s1 c u v k d) (he : e.uid = c.uid) (hr : v.replay = none) (hn : e.next v = nextPc s u)
    (hp : e.pcI u = s.issPc u) (hv : v.pendX = u.pendX) (hb : Beside b s1) :
    LaneBecomes s ((closeLane e u (s1.inHalves c.uid u.lane (e.pcI u) vals late, .done)).settle c.uid) c u { v with
        pc := nextPc s u
        pendX := pendAll u.pendX (vals.map Prod.fst ++ late.regs) (s.issPc u) } k ∧
      Beside (flies b b ⟨s1.nextId, c.uid, u.lane, false, vals, none, some late, false, true⟩)
        ((closeLane e u (s1.inHalves c.uid u.lane (e.pcI u) vals late, .done)).settle c.uid) :=
  h.pends he hr hn hp hv rfl h.iss fun cs =>
    (hb.flies ⟨s1.nextId, c.uid, u.lane, false, vals, none, some late, false, true⟩).crews cs

/-- What a load of a lone settled thread finds before it reads: nothing is performed first. -/
theorem loadsBegin_alone {s : State} {c : Crew} {u : Thread} (hs : Settled s c u) (n : Nat) (place : Thread → Place) :
    s.issued.loadsBegin c n place [u] = loadStart s := by
  simp only [State.loadsBegin, State.lanesBegin, List.foldl_cons, List.foldl_nil]
  unfold loadStart
  congr 1
  split
  · rfl
  · rw [finishHalves_settled (by exact hs)]
    exact drainFor_settled (by exact hs) _ _

/-- A range of physical memory reads as it is where no narrow scope leaves it open (R132). -/
theorem loadStart_loadAt {s : State} {c : Crew} {pa m : Nat} {pl : Place} {tr so own : Bool} (hc : Current s c pl m) :
    (loadStart s).loadAt c ⟨.mem pa, pl, tr, so, own⟩ m = s.loadPA pa m := by
  obtain ⟨f, hf⟩ := loadStart_frame s
  have hmem : (loadStart s).loadPA pa m = s.loadPA pa m := loadPA_congr (by rw [hf]; rfl) (by rw [hf]; rfl) pa m
  unfold State.loadAt
  simp only [State.loadT, hmem]
  split
  · refine stale_current ?_ _
    rw [show (s.loadPA pa m).length = m by simp [State.loadPA], hf]
    exact hc
  · rfl

/-- What is current on a range is so on its first bytes. -/
theorem Current.shorter {s : State} {c : Crew} {p : Place} {n m : Nat} (h : Current s c p n) (hm : m ≤ n) :
    Current s c p m := by
  intro o ho hn
  refine h o ho ?_
  simp only [Place.near, Bool.and_eq_true, decide_eq_true_eq] at hn ⊢
  obtain ⟨⟨hspace, hlo⟩, hhi⟩ := hn
  exact ⟨⟨hspace, by omega⟩, hhi⟩

/-- A lone thread's access of its crew in its own region. -/
theorem regionAt_alone {s : State} {c : Crew} {u : Thread} {d : Dest} (hc : s.crew c.uid = some c) (hr : u.replay = none) :
    s.regionAt c u d = if d.tracked then some c.region else none := by
  unfold State.regionAt
  rw [hc, Option.getD_some, accessRegion_none hr]

/-- A generic load of 16 B of a lone thread from physical memory: its lower half in flight, its upper one to be read. -/
theorem load16_runs : LoadRuns16 .ldQ := by
  intro sw d a o s c u pa pl tr so own ⟨hA, hx, hR⟩ hs hk hc x
  have hrep : u.replay = none := hA.2.2.2.2.2
  obtain ⟨f, hf⟩ := loadStart_frame s
  obtain ⟨s1, h1, h2, h3⟩ := genAccess_beside ⟨f, hf⟩ hk hs hrep
  have hl : LaneAt s s1 c u u c c := hA.laneAt.same (by rw [h3]; rfl) (by rw [h2.1])
  have h8 := loadStart_loadAt (pa := pa) (tr := tr) (so := so) (own := own) (hc.shorter (m := 8) (by decide))
  have hw : bytesWords (s.loadPA pa 8) = [s.wordPA pa, s.wordPA (pa + 4)] := bytesWords_loadPA s pa 2
  rw [show exec (.ldQ sw d a o) s = execLdQ sw d a o s from rfl]
  unfold execLdQ
  rw [execLanesAfter_alone hA rfl (wordTrap_plain rfl hx) rfl hR
    (loadsBegin_alone hs _ _) (by rw [hf]; exact hA.crew)]
  unfold loadLane
  rw [show Env.pcI ⟨c.uid, encMEM sw 32#6 d a 6#3 o, s.iss.guard, c.region⟩ u = s.issPc u from rfl, h1]
  simp only [if_true, State.loadHalves, h8, hw, regionAt_alone hl.crew hrep]
  have h3 := hl.halves (e := ⟨c.uid, encMEM sw 32#6 d a 6#3 o, s.iss.guard, c.region⟩)
    (vals := destVals x [s.wordPA pa, s.wordPA (pa + 4)])
    (late := ⟨s.nextId, .mem (pa + 8), pl.plus 8, 4, [x + 2, x + 3], if tr then some c.region else none⟩) rfl hrep rfl rfl rfl h2
  rw [show s1.nextId = s.nextId by rw [h2.1]] at h3
  exact ⟨_, rfl, h3⟩

/-- A generic load whose bytes make the words `ws` (R157, R211). -/
theorem loadRuns_of {i : Mem} {n k : Nat} {ws : State → Nat → List Word} (sg : Bool) (w : Bool → BitVec 7 → BitVec 7 → BitVec 8 → Word)
    (hn : n ≠ 16)
    (hi : ∀ sw d a o s, exec (i sw d a o) s = execLanesAfter { word := w sw d a o, sw := sw, ops := [dX d k, aX a 2] } s
      (fun _ c ts s => s.loadsBegin c n (fun t => s.lanePlace c t a (o.toNat * n)) ts) (loadLane n sg d a o s.nextId))
    (hw : ∀ s pa, loadWords n sg (s.loadPA pa n) = ws s pa) : LoadRuns i n k ws := by
  intro sw d a o s c u pa pl tr so own ha hs hk hc
  rw [← hw]
  exact load_runs (place := fun c s t => s.lanePlace c t a (o.toNat * n)) hn (hi sw d a o s) ha hs hk hc

/-- Settles O12: `loadRuns_of` for each size, with the words that the bytes of the range make. -/
theorem genericLoads : Obligations.GenericLoads :=
  ⟨loadRuns_of false _ (by decide) (fun _ _ _ _ _ => rfl) fun _ _ => (loadWords_one _).1,
    loadRuns_of true _ (by decide) (fun _ _ _ _ _ => rfl) fun _ _ => (loadWords_one _).2,
    loadRuns_of false _ (by decide) (fun _ _ _ _ _ => rfl) fun _ _ => (loadWords_two _ _).1,
    loadRuns_of true _ (by decide) (fun _ _ _ _ _ => rfl) fun _ _ => (loadWords_two _ _).2,
    loadRuns_of false _ (by decide) (fun _ _ _ _ _ => rfl) fun s pa =>
      (loadWords_words (by decide) _ _).trans (bytesWords_loadPA s pa 1),
    loadRuns_of false _ (by decide) (fun _ _ _ _ _ => rfl) fun s pa =>
      (loadWords_words (by decide) _ _).trans (bytesWords_loadPA s pa 2),
    load16_runs⟩

end Sys2Proof.Machine
end


section
/-! # Words as bytes, woken monitors, and the generic stores -/

namespace Sys2Proof.Machine

/-! ## Words as bytes -/

/-- The four bytes of a number are those of the word that it is. -/
theorem leBytes_four (w : Word) : leBytes 4 w.toNat = wordBytes w := by
  simp only [leBytes, wordBytes, Nat.div_div_eq_div_mul]
  refine congr (congrArg List.cons ?_) (congr (congrArg List.cons ?_) (congr (congrArg List.cons ?_) (congr (congrArg List.cons ?_) rfl))) <;>
    exact BitVec.eq_of_toNat_eq (by simp [Nat.shiftRight_eq_div_pow])

/-- The first bytes of a number are the first of more of them. -/
theorem leBytes_take (n m v : Nat) : (leBytes (n + m) v).take n = leBytes n v := by
  induction n generalizing v with
  | zero => rfl
  | succ n ih =>
    rw [show n + 1 + m = n + m + 1 by omega, leBytes, List.take_succ_cons, ih, leBytes]

theorem wordsBytes_eq_flatMap (l : List Word) : wordsBytes l = l.flatMap wordBytes := by
  induction l with
  | nil => rfl
  | cons w r ih => rw [wordsBytes, leBytes_four, ih, List.flatMap_cons]

/-- The data of a byte or half store are the low bytes of its register. -/
theorem dataBytes_one (w : Nat → Word) : dataBytes 1 w = (wordBytes (w 0)).take 1 := by
  rw [dataBytes, if_pos (by decide), ← leBytes_four, leBytes_take 1 3]

theorem dataBytes_two (w : Nat → Word) : dataBytes 2 w = (wordBytes (w 0)).take 2 := by
  rw [dataBytes, if_pos (by decide), ← leBytes_four, leBytes_take 2 2]

/-- The data of a store of whole words are its registers, lowest first. -/
theorem dataBytes_words (k : Nat) (w : Nat → Word) :
    dataBytes (4 * (k + 1)) w = (List.range (k + 1)).flatMap fun j => wordBytes (w j) := by
  rw [dataBytes, if_neg (by omega), Nat.mul_div_cancel_left _ (by decide), wordsBytes_eq_flatMap, List.flatMap_map]

theorem dataBytes_length {n : Nat} (h : n = 1 ∨ n = 2 ∨ n % 4 = 0) (w : Nat → Word) : (dataBytes n w).length = n := by
  unfold dataBytes
  split
  · exact leBytes_length _ _
  · rw [wordsBytes_length, List.length_map, List.length_range]
    omega

/-! ## Monitors -/

/-- Where no monitor is armed, none is woken. -/
theorem wakeRange_none {s : State} {p : Place} {n : Nat} (h : NoMonitor s p n) : s.wakeRange p n = s := by
  unfold State.wakeRange
  rw [mapIf_none]
  intro c hc
  rw [List.any_eq_false]
  intro t ht
  simp [h c hc t ht]

/-- What a woken thread is, written out. -/
theorem wake_eq (v : Thread) : v.wake = match v.st with
    | .blocked .monitor next => { v with
        st := .running
        pc := next
        monitor := none }
    | _ => { v with monitor := none } := rfl

theorem wake_lane (t : Thread) : t.wake.lane = t.lane := by
  unfold Thread.wake
  split <;> rfl

theorem wake_entering (t : Thread) : t.wake.entering = t.entering := by
  unfold Thread.wake
  split <;> rfl

theorem wake_replay (t : Thread) : t.wake.replay = t.replay := by
  unfold Thread.wake
  split <;> rfl

/-- A lane of a crew whose threads are mapped in place. -/
theorem onThreads_thread (c : Crew) (p : Thread → Bool) (f : Thread → Thread) (hf : ∀ t, (f t).lane = t.lane) (l : Nat) :
    (c.onThreads p f).thread l = (c.thread l).map fun t => if p t then f t else t :=
  find_lane_map (fun t => if p t then f t else t) (fun t => by split <;> simp [hf]) _ _

/-- What waking a range makes of a crew. -/
def Crew.wakes (p : Place) (n : Nat) (c : Crew) : Crew :=
  if c.threads.any (·.watches p n) then (c.onThreads (·.watches p n) Thread.wake).regroup else c

theorem wakeRange_crew (s : State) (p : Place) (n w : Nat) : (s.wakeRange p n).crew w = (s.crew w).map (Crew.wakes p n) := by
  unfold State.crew State.wakeRange mapIf
  rw [List.find?_map]
  have : ((fun (c : Crew) => c.uid == w) ∘ fun (c : Crew) => if c.threads.any (·.watches p n) then
      (c.onThreads (·.watches p n) Thread.wake).regroup else c) = fun c => c.uid == w := by
    funext c
    simp only [Function.comp]
    split <;> rfl
  rw [this]
  rfl

/-- A lane of a woken crew: its thread is woken where its monitor is armed there. -/
theorem wakes_thread {c : Crew} {l : Nat} {v : Thread} (h : c.thread l = some v) (p : Place) (n : Nat) :
    ∃ k, (c.wakes p n).thread l = some { (if v.watches p n then v.wake else v) with set := k } := by
  unfold Crew.wakes
  split
  · refine regroup_thread _ _ _ ?_
    rw [onThreads_thread _ _ _ wake_lane, h]
    rfl
  · next hn =>
    have := (List.any_eq_false.mp (by simpa using hn)) v (List.mem_of_find?_eq_some h)
    rw [if_neg this]
    exact ⟨v.set, h⟩

theorem regroup_quiet {c : Crew} (h : ∀ t ∈ c.threads, t.entering = none) : ∀ t ∈ c.regroup.threads, t.entering = none := by
  intro t ht
  obtain ⟨x, hx, rfl⟩ := List.mem_map.mp ht
  have := h x hx
  split
  · split <;> exact this
  · exact this

theorem onThreads_quiet {c : Crew} {p : Thread → Bool} {f : Thread → Thread} (h : ∀ t ∈ c.threads, t.entering = none)
    (hf : ∀ t, (f t).entering = t.entering) : ∀ t ∈ (c.onThreads p f).threads, t.entering = none := by
  intro t ht
  obtain ⟨x, hx, rfl⟩ := List.mem_map.mp ht
  split
  · rw [hf]
    exact h x hx
  · exact h x hx

theorem wakes_quiet {c : Crew} (h : ∀ t ∈ c.threads, t.entering = none) (p : Place) (n : Nat) :
    ∀ t ∈ (c.wakes p n).threads, t.entering = none := by
  unfold Crew.wakes
  split
  · exact regroup_quiet (onThreads_quiet h wake_entering)
  · exact h

/-- The range has been woken, and the issuing thread has become `v` in its crew `d`. -/
structure WokenAt (s s1 : State) (c : Crew) (u v : Thread) (d : Crew) (p : Place) (n : Nat) : Prop where
  crew : s1.crew c.uid = some d
  iss : s1.iss = ⟨0, 0, none⟩
  quiet : ∀ t ∈ d.threads, t.entering = none
  thread : d.thread u.lane = some v
  replay : v.replay = none
  woken : Woken s s1 c.uid u.lane p n

/-- Where a lane is changed, other threads stay woken. -/
theorem Woken.onLane {s s1 : State} {uid lane : Nat} {p : Place} {n : Nat} (h : Woken s s1 uid lane p n)
    (f : Thread → Thread) (hf : ∀ t, (f t).lane = t.lane) : Woken s (s1.onLane uid lane f) uid lane p n := by
  intro d l v hd hv hne
  obtain ⟨d', k, h1, h2⟩ := h d l v hd hv hne
  by_cases hu : d.uid = uid
  · refine ⟨d'.onLane lane f, k, ?_, ?_⟩
    · rw [hu, State.onLane_crew, ← hu, h1]
      rfl
    · rw [onLane_thread_ne _ _ _ _ hf fun hl => hne ⟨hu, hl⟩]
      exact h2
  · exact ⟨d', k, by rw [State.onLane_crew_ne _ _ _ _ _ hu]; exact h1, h2⟩

/-- Crews settled at their boundary stay woken. -/
theorem Woken.settle {s s1 : State} {uid lane : Nat} {p : Place} {n : Nat} {d : Crew} (h : Woken s s1 uid lane p n)
    (hc : s1.crew uid = some d) (hq : ∀ t ∈ d.threads, t.entering = none) (hi : s1.iss = ⟨0, 0, none⟩) :
    Woken s (s1.settle uid) uid lane p n := by
  rw [settle_quiet hc hq hi]
  intro x l v hx hv hne
  obtain ⟨d', k, h1, h2⟩ := h x l v hx hv hne
  by_cases hu : x.uid = uid
  · obtain ⟨m, hm⟩ := settled_thread d' _ _ h2
    refine ⟨d'.regroup.haltCheck, m, ?_, hm⟩
    rw [hu, State.onCrew_crew _ _ _ (fun _ h => by simpa using h), State.onCrew_crew _ _ _ (fun _ h => by simpa using h),
      ← hu, h1]
    rfl
  · refine ⟨d', k, ?_, h2⟩
    rw [State.onCrew_crew_ne _ _ _ _ (fun _ h => by simpa using h) hu,
      State.onCrew_crew_ne _ _ _ _ (fun _ h => by simpa using h) hu]
    exact h1

/-- Waking a range where the issuing thread stands. -/
theorem LaneAt.woken {s s1 : State} {c d k : Crew} {u v : Thread} (h : LaneAt s s1 c u v k d) (hc : s.crew c.uid = some c)
    (hr : v.replay = none) (p : Place) (n : Nat) : ∃ v' d', WokenAt s (s1.wakeRange p n) c u v' d' p n := by
  obtain ⟨m, hm⟩ := wakes_thread h.thread p n
  refine ⟨_, d.wakes p n, ⟨?_, h.iss, wakes_quiet h.quiet p n, hm, ?_, ?_⟩⟩
  · rw [wakeRange_crew, h.crew]
    rfl
  · split
    · exact (wake_replay v).trans hr
    · exact hr
  · intro x l t hx ht hne
    by_cases hu : x.uid = c.uid
    · obtain rfl : c = x := by
        rw [hu, hc] at hx
        exact Option.some.inj hx
      obtain ⟨m, hm⟩ := wakes_thread (h.others l t (fun hl => hne ⟨rfl, hl⟩) ht) p n
      exact ⟨d.wakes p n, m, by rw [wakeRange_crew, h.crew]; rfl, hm⟩
    · obtain ⟨m, hm⟩ := wakes_thread ht p n
      exact ⟨x.wakes p n, m, by rw [wakeRange_crew, h.crews _ hu, hx]; rfl, hm⟩

theorem WokenAt.onLane {s s1 : State} {c d : Crew} {u v : Thread} {p : Place} {n : Nat} (h : WokenAt s s1 c u v d p n)
    (f : Thread → Thread) (hl : ∀ t, (f t).lane = t.lane) (he : ∀ t, (f t).entering = t.entering)
    (hr : ∀ t, (f t).replay = t.replay) : WokenAt s (s1.onLane c.uid u.lane f) c u (f v) (d.onLane u.lane f) p n where
  crew := by
    rw [State.onLane_crew, h.crew]
    rfl
  iss := h.iss
  quiet := onLane_quiet h.quiet he
  thread := by
    rw [onLane_thread _ _ _ hl, h.thread]
    rfl
  replay := (hr v).trans h.replay
  woken := h.woken.onLane f hl

theorem WokenAt.same {s s1 s2 : State} {c d : Crew} {u v : Thread} {p : Place} {n : Nat} (h : WokenAt s s1 c u v d p n)
    (hc : s2.crews = s1.crews) (hi : s2.iss = s1.iss) : WokenAt s s2 c u v d p n := by
  have hw : ∀ w, s2.crew w = s1.crew w := fun w => by unfold State.crew; rw [hc]
  refine ⟨by rw [hw]; exact h.crew, hi.trans h.iss, h.quiet, h.thread, h.replay, ?_⟩
  intro x l t hx ht hne
  rw [hw]
  exact h.woken x l t hx ht hne

/-- The instruction closes: what it woke stays so. -/
theorem WokenAt.done {s s1 : State} {c d : Crew} {u v : Thread} {p : Place} {n : Nat} {e : Env} (h : WokenAt s s1 c u v d p n)
    (he : e.uid = c.uid) : Woken s ((closeLane e u (s1, .done)).settle c.uid) c.uid u.lane p n := by
  rw [closeLane_done (by rw [he]; exact h.crew) h.thread h.replay, he]
  have h1 := h.onLane (fun t => { t with pc := e.next t }) (fun _ => rfl) (fun _ => rfl) (fun _ => rfl)
  exact h1.woken.settle h1.crew h1.quiet h1.iss

/-! ## Accepted stores beside other changes -/

theorem accepts_nil (s : State) (tag : Nat) (c : Crew) (u : Thread) : accepts s tag c u [] = s := by
  simp [accepts]

/-- Stores are accepted one after the other. -/
theorem accepts_cons (s : State) (tag : Nat) (c : Crew) (u : Thread) (x : Accepted) (r : List Accepted) :
    accepts s tag c u (x :: r) =
      accepts (s.accept c.uid u.lane tag x.target x.place x.op x.half x.region x.own) tag c u r := by
  simp only [accepts, State.accept, State.fresh, State.post, List.zipIdx_cons, List.zipIdx_succ, List.map_cons, List.map_map,
    List.append_assoc, List.cons_append, List.nil_append, List.length_cons, Function.comp_def, Nat.add_assoc, Nat.add_comm 1,
    Nat.add_zero, Nat.zero_add]

/-- What is accepted beside other changes is accepted. -/
theorem Beside.accepts {b t : State} (h : Beside b t) (tag : Nat) (c : Crew) (u : Thread) (l : List Accepted) :
    Beside (accepts b tag c u l) (accepts t tag c u l) := by
  obtain ⟨h1, h2⟩ := h
  unfold Machine.accepts
  refine ⟨?_, ?_⟩
  · rw [h1]
  · simp only [List.filter_append, h2]
    rw [h1]

/-! ## Generic stores -/

/-- A store of the thread to physical memory stands there, after what narrow releases keep of the overwritten granules. -/
theorem destWrite_mem {s : State} {c : Crew} {u : Thread} (hs : Settled s c u) (pa : Nat) (pl : Place) (tr so own : Bool)
    (l : List Byte) : ∃ o, s.destWrite c u ⟨.mem pa, pl, tr, so, own⟩ l =
      ({ s with older := o }.storePA pa l).wakeRange pl l.length := by
  unfold State.destWrite
  simp only [drainFor_settled hs]
  split <;> exact ⟨_, rfl⟩

/-- Bytes stored in a canonical memory stand there, and every other byte reads as before (R363). -/
theorem storePA_stored {s z : State} {pa : Nat} {l : List Byte} (hm : z.mem = s.mem) (hp : z.poison = s.poison)
    (hw : s.memOk = true) : Stored s (z.storePA pa l) pa l := by
  refine ⟨fun i hi => ?_, fun a ha => ?_⟩
  · rw [storePA_inside l (by rw [hm]; exact hw) i hi, getD_listed _ hi]
  · have h1 : readB (z.storePA pa l).mem a = readB s.mem a := (storePA_outside l ha).trans (by rw [hm])
    unfold State.loadB
    rw [h1]
    congr 1
    unfold State.storePA
    rw [hp]
    simp only [List.contains_eq_mem, List.mem_filter, Bool.not_eq_true', Bool.and_eq_false_iff, decide_eq_false_iff_not,
      decide_eq_true_eq, eq_iff_iff, and_iff_left_iff_imp]
    omega

/-- What is stored is told by memory and poison alone. -/
theorem Stored.congr {s t t' : State} {pa : Nat} {l : List Byte} (h : Stored s t pa l) (hm : t'.mem = t.mem)
    (hp : t'.poison = t.poison) : Stored s t' pa l := by
  obtain ⟨h1, h2⟩ := h
  refine ⟨by rw [hm]; exact h1, fun a ha => ?_⟩
  rw [← h2 a ha]
  unfold State.loadB
  rw [hm, hp]

/-- What a thread has begun is told by accepted stores and landings alone. -/
theorem Settled.congr {s t : State} {c : Crew} {u : Thread} (h : Settled s c u) (hq : t.stores = s.stores)
    (hl : t.landings = s.landings) : Settled t c u := by
  unfold Settled
  rw [hq, hl]
  exact h

/-- A generic store of up to 8 B by a lone thread: the lane performs it on a state beside which nothing has changed. -/
theorem storeLane_mem {s : State} {c : Crew} {u : Thread} {w : Word} {n : Nat} {d a : BitVec 7} {o : BitVec 8} {pa : Nat}
    {pl : Place} {tr so own : Bool} (hn : n = 1 ∨ n = 2 ∨ n % 4 = 0) (h16 : n ≠ 16) (hA : Alone s c u) (hs : Settled s c u)
    (hk : GenAccessOk s.issued c u (s.issPc u) (plainStore n) ((u.x64 a.toNat).toNat + o.toNat * n) id
      ⟨.mem pa, pl, tr, so, own⟩) (tag : Nat) :
    ∃ s1, Beside s s1 ∧ s1.crews = s.crews ∧
      storeLane n d a o tag ⟨c.uid, w, s.iss.guard, c.region⟩ c u s.issued =
        ((s1.storePA pa (dataBytes n fun k => u.x (d.toNat + k))).wakeRange pl n, .done) := by
  obtain ⟨s1, h1, h2, h3⟩ := genAccess_beside (z := s.issued) ⟨s.freeCtr, rfl⟩ hk hs hA.2.2.2.2.2
  have hs1 : Settled s1 c u := hs.congr (by rw [h2.1]) (by rw [h2.1])
  obtain ⟨q, hq⟩ := destWrite_mem hs1 pa pl tr so own (dataBytes n fun k => u.x (d.toNat + k))
  refine ⟨{ s1 with older := q }, ⟨by rw [h2.1], h2.2⟩, h3, ?_⟩
  unfold storeLane
  refine (h1 _).trans ?_
  simp only [h16, if_false, hq, dataBytes_length hn]

/-- A generic store of up to 8 B (R211). -/
theorem storeRuns_of {i : Mem} {n k : Nat} {l : (Nat → Word) → List Byte} (w : Bool → BitVec 7 → BitVec 7 → BitVec 8 → Word)
    (hn : n = 1 ∨ n = 2 ∨ n % 4 = 0) (h16 : n ≠ 16)
    (hi : ∀ sw d a o s, exec (i sw d a o) s =
      execLanes { word := w sw d a o, sw := sw, ops := [dX d k, aX a 2] } s (storeLane n d a o s.nextId))
    (hl : ∀ x, dataBytes n x = l x) : StoreRuns i n k l := by
  intro sw d a o s c u pa pl tr so own ⟨hA, hx, hR⟩ hs hw hk hm
  obtain ⟨s1, h1, h2, h3⟩ := storeLane_mem (w := w sw d a o) (d := d) hn h16 hA hs hk s.nextId
  have hnone : (s1.storePA pa (dataBytes n fun k => u.x (d.toNat + k))).wakeRange pl n =
      s1.storePA pa (dataBytes n fun k => u.x (d.toNat + k)) := by
    refine wakeRange_none ?_
    unfold NoMonitor
    rw [show (s1.storePA pa _).crews = s.crews from h2]
    exact hm
  have hl1 : LaneAt s (s1.storePA pa (dataBytes n fun k => u.x (d.toNat + k))) c u u c c :=
    hA.laneAt.same h2 (by rw [show (s1.storePA pa _).iss = s1.iss from rfl, h1.1])
  rw [hi, execLanes_alone hA rfl (wordTrap_plain rfl hx) rfl hR, h3, hnone, ← hl]
  obtain ⟨h4, h5⟩ := hl1.done (e := ⟨c.uid, w sw d a o, s.iss.guard, c.region⟩) rfl hA.2.2.2.2.2
  refine ⟨_, rfl, ⟨h4, ?_, ?_⟩, ?_⟩
  · rw [h5]
    unfold State.storePA
    rw [h1.1]
  · rw [h5]
    exact h1.2
  · exact (storePA_stored (z := s1) (by rw [h1.1]) (by rw [h1.1]) hw).congr (by rw [h5]) (by rw [h5])

/-- The monitors that a generic store of up to 8 B wakes (R221). -/
theorem storeWakes_of {i : Mem} {n k : Nat} (w : Bool → BitVec 7 → BitVec 7 → BitVec 8 → Word)
    (hn : n = 1 ∨ n = 2 ∨ n % 4 = 0) (h16 : n ≠ 16)
    (hi : ∀ sw d a o s, exec (i sw d a o) s =
      execLanes { word := w sw d a o, sw := sw, ops := [dX d k, aX a 2] } s (storeLane n d a o s.nextId)) :
    StoreWakes i n k := by
  intro sw d a o s c u pa pl tr so own ⟨hA, hx, hR⟩ hs hk
  obtain ⟨s1, h1, h2, h3⟩ := storeLane_mem (w := w sw d a o) (d := d) hn h16 hA hs hk s.nextId
  have hl1 : LaneAt s (s1.storePA pa (dataBytes n fun k => u.x (d.toNat + k))) c u u c c :=
    hA.laneAt.same h2 (by rw [show (s1.storePA pa _).iss = s1.iss from rfl, h1.1])
  obtain ⟨v, d', hv⟩ := hl1.woken hA.crew hA.2.2.2.2.2 pl n
  rw [hi, execLanes_alone hA rfl (wordTrap_plain rfl hx) rfl hR, h3]
  exact ⟨_, rfl, hv.done rfl⟩

/-- A generic store of 16 B: both halves are accepted, lower first (R129, R211). -/
theorem store16_runs : StoreRuns16 .stQ := by
  intro sw d a o s c u pa pl tr so own ⟨hA, hx, hR⟩ hs hk w
  have hrep : u.replay = none := hA.2.2.2.2.2
  obtain ⟨s1, h1, h2, h3⟩ := genAccess_beside (z := s.issued) ⟨s.freeCtr, rfl⟩ hk hs hrep
  have hl : LaneAt s s1 c u u c c := hA.laneAt.same h3 (by rw [h2.1])
  have hs1 : Settled s1 c u := hs.congr (by rw [h2.1]) (by rw [h2.1])
  have hb : dataBytes 16 (fun k => u.x (d.toNat + k)) = (w 0 ++ w 1) ++ (w 2 ++ w 3) := by
    rw [dataBytes_words 3]
    rfl
  rw [show exec (.stQ sw d a o) s = execStQ sw d a o s from rfl]
  unfold execStQ
  rw [execLanes_alone hA rfl (wordTrap_plain rfl hx) rfl hR]
  unfold storeLane
  dsimp only
  rw [show Env.pcI ⟨c.uid, encMEM sw 33#6 d a 6#3 o, s.iss.guard, c.region⟩ u = s.issPc u from rfl, h1]
  simp only [if_true, drainFor_settled hs1, hb, regionAt_alone hl.crew hrep]
  have hacc : _ = (s1.accept c.uid u.lane s.nextId (.mem pa) pl (.bytes (w 0 ++ w 1)) true
      (if tr then some c.region else none) true).accept c.uid u.lane s.nextId (.mem (pa + 8)) (pl.plus 8)
      (.bytes (w 2 ++ w 3)) true (if tr then some c.region else none) true :=
    ((accepts_cons s1 s.nextId c u ⟨_, _, _, _, _, _⟩ [⟨_, _, _, _, _, _⟩]).trans (accepts_cons _ _ c u _ [])).trans
      (accepts_nil _ _ c u)
  refine ⟨_, rfl, LaneAt.goes (R := Beside) (hl.same rfl hl.iss) rfl hrep rfl fun cs => ?_⟩
  exact hacc ▸ (h2.accepts s.nextId c u _).crews cs

/-- Settles O13: `storeRuns_of` and `storeWakes_of` for each size, with the bytes that the data registers make. -/
theorem genericStores : Obligations.GenericStores :=
  ⟨storeRuns_of _ (.inl rfl) (by decide) (fun _ _ _ _ _ => rfl) dataBytes_one,
    storeRuns_of _ (.inr (.inl rfl)) (by decide) (fun _ _ _ _ _ => rfl) dataBytes_two,
    storeRuns_of _ (.inr (.inr rfl)) (by decide) (fun _ _ _ _ _ => rfl) (dataBytes_words 0),
    storeRuns_of _ (.inr (.inr rfl)) (by decide) (fun _ _ _ _ _ => rfl) (dataBytes_words 1),
    store16_runs,
    storeWakes_of _ (.inl rfl) (by decide) fun _ _ _ _ _ => rfl,
    storeWakes_of _ (.inr (.inl rfl)) (by decide) fun _ _ _ _ _ => rfl,
    storeWakes_of _ (.inr (.inr rfl)) (by decide) fun _ _ _ _ _ => rfl,
    storeWakes_of _ (.inr (.inr rfl)) (by decide) fun _ _ _ _ _ => rfl⟩

end Sys2Proof.Machine
end


section
/-! # Scratchpad and window accesses -/

namespace Sys2Proof.Machine

/-! ## Scratchpad accesses -/

/-- A scratchpad access that passes its checks is performed after `pre`. -/
theorem spadAccess_ok {s : State} {c : Crew} {u : Thread} {pc : Word} {x : Acc1} {a mode : Nat} {b : BUnit}
    (h : SpadAccessOk s c u pc x a mode b) (hs : Settled s c u) (hr : u.replay = none) (pre : State → State)
    (go : State → Nat → State × LaneRes) : s.spadAccess c u pc x a mode pre go = go (pre s) (spadKey mode a) := by
  obtain ⟨h1, h2, h3, h4, h5⟩ := h
  unfold accessOf at h5
  unfold State.spadAccess
  rw [finishHalves_settled hs]
  simp only [h1, h2, h3, h4, h5, accessRegion_none hr, ne_eq, not_true_eq_false, if_false, Bool.false_eq_true]

/-- No row of a settled thread is still to be written (R286). -/
theorem landRows_settled {s : State} {c : Crew} {u : Thread} (h : Settled s c u) {p : Landing → Bool}
    (hp : ∀ l, p l = true → l.crew = c.uid ∧ l.lane = u.lane) : s.landRows p = s := by
  unfold State.landRows
  rw [if_neg]
  simp only [Bool.not_eq_true, List.any_eq_false, Bool.and_eq_true, not_and]
  intro l hl hh
  obtain ⟨hc, hu⟩ := hp l hh
  simp [(h.2 l hl hc hu).1]

/-- What a scratchpad load of a lone settled thread finds before it reads. -/
theorem lanesBegin_alone {s : State} {c : Crew} {u : Thread} (hs : Settled s c u) (n : Nat) (place : Thread → Place) :
    s.issued.lanesBegin c n place [u] = s.issued := by
  simp only [State.lanesBegin, List.foldl_cons, List.foldl_nil]
  split
  · rfl
  · rw [finishHalves_settled (by exact hs)]
    exact drainFor_settled (by exact hs) _ _

/-- A scratchpad load (R213): the words at the swizzled address. -/
theorem spadLoadRuns_of {i : Spad} {k : Nat} (w : Bool → BitVec 7 → BitVec 7 → BitVec 3 → BitVec 8 → Word)
    (hi : ∀ sw d a m o s, exec (i sw d a m o) s = execLanesAfter { word := w sw d a m o, sw := sw, ops := [dX d k, aX a 1] } s
      (fun _ c ts s => s.lanesBegin c (4 * k) (ldsPlace (4 * k) a m o c) ts) (ldsLane (4 * k) d a m o)) : SpadLoadRuns i k := by
  intro sw d a m o s c u b ⟨hA, hx, hR⟩ hs hk
  have hb : s.issued.unit c.unit = some b := hk.2.2.1
  rw [hi, execLanesAfter_alone (z := s.issued) hA rfl (wordTrap_plain rfl hx) rfl hR (lanesBegin_alone hs _ _) hA.crew]
  unfold ldsLane
  rw [show Env.pcI ⟨c.uid, w sw d a m o, s.iss.guard, c.region⟩ u = s.issPc u from rfl,
    spadAccess_ok hk (by exact hs) hA.2.2.2.2.2]
  simp only [State.loadT, hb, readBytes, bytesWords_range, id]
  exact ⟨_, rfl, hA.laneAt.lands (R := Within) (e := ⟨c.uid, w sw d a m o, s.iss.guard, c.region⟩) rfl hA.2.2.2.2.2 rfl rfl rfl
    fun _ => rfl⟩

/-- A scratchpad store (R209, R213): it is accepted. -/
theorem spadStoreRuns_of {i : Spad} {k : Nat} (w : Bool → BitVec 7 → BitVec 7 → BitVec 3 → BitVec 8 → Word)
    (hi : ∀ sw d a m o s, exec (i sw d a m o) s = execLanes { word := w sw d a m o, sw := sw, ops := [dX d (k + 1), aX a 1] } s
      (stsLane (4 * (k + 1)) d a m o s.nextId)) : SpadStoreRuns i (k + 1) := by
  intro sw d a m o s c u b ⟨hA, hx, hR⟩ hs hk
  rw [hi, execLanes_alone hA rfl (wordTrap_plain rfl hx) rfl hR]
  unfold stsLane
  rw [show Env.pcI ⟨c.uid, w sw d a m o, s.iss.guard, c.region⟩ u = s.issPc u from rfl,
    spadAccess_ok hk (by exact hs) hA.2.2.2.2.2]
  simp only [id]
  rw [landRows_settled (c := c) (u := u) (by exact hs) fun l h => by simp_all, dataBytes_words]
  have hl : LaneAt s s.issued c u u c c := hA.laneAt
  exact ⟨_, rfl, LaneAt.goes (R := Within) (hl.same rfl rfl) rfl hA.2.2.2.2.2 rfl fun _ => rfl⟩

/-- Settles O14: `spadLoadRuns_of` and `spadStoreRuns_of` for each size. -/
theorem scratchpadAccess : Obligations.ScratchpadAccess :=
  ⟨spadLoadRuns_of _ fun _ _ _ _ _ _ => rfl, spadLoadRuns_of _ fun _ _ _ _ _ _ => rfl,
    spadLoadRuns_of _ fun _ _ _ _ _ _ => rfl, spadStoreRuns_of _ fun _ _ _ _ _ _ => rfl,
    spadStoreRuns_of _ fun _ _ _ _ _ _ => rfl, spadStoreRuns_of _ fun _ _ _ _ _ _ => rfl⟩

/-! ## Private accesses -/

/-- A window access that passes its checks is performed. -/
theorem privAccess_ok {s : State} {c : Crew} {u : Thread} {wr : Bool} {o n : Nat} (h : PrivAccessOk s c u wr o n)
    (hs : Settled s c u) (go : State → State × LaneRes) : s.privAccess c u wr o n go = go s := by
  obtain ⟨h1, h2, h3, h4, h5⟩ := h
  unfold State.privAccess
  rw [finishHalves_settled hs]
  simp only [h1, h2, h3, h5, Nat.not_lt.mpr h4, Bool.or_self, ne_eq, not_true_eq_false, if_false, Bool.false_eq_true]

theorem CacheOnly.settled {s t : State} {c : Crew} {u : Thread} (h : CacheOnly s t) (hs : Settled s c u) : Settled t c u := by
  obtain ⟨_, _, _, _, _, _, _, rfl, -⟩ := h
  exact hs

theorem CacheOnly.crews {s t : State} (h : CacheOnly s t) : t.crews = s.crews := by
  obtain ⟨_, _, _, _, _, _, _, rfl, -⟩ := h
  rfl

theorem CacheOnly.beside {b s t : State} (h : CacheOnly s t) (hb : Beside b s) : Beside b t := by
  obtain ⟨_, _, _, _, _, _, _, rfl, ha⟩ := h
  obtain ⟨h1, h2⟩ := hb
  exact ⟨by rw [h1], ha.trans h2⟩

/-- An instruction that has done nothing yet. -/
theorem Beside.issued (s : State) : Beside s s.issued := ⟨rfl, rfl⟩

/-- A range of a settled thread's segment comes into its L1 and no more is changed. -/
theorem privTouch_cacheOnly {s : State} {c : Crew} {u : Thread} (hs : Settled s c u) (o n : Nat) :
    CacheOnly s (s.privTouch c u.lane o n) := by
  unfold State.privTouch
  generalize privPieces u.lane o n = ps
  induction ps generalizing s with
  | nil => exact .refl s
  | cons p r ih =>
    simp only [List.foldl_cons, drainFor_settled hs]
    have h := cached_cacheOnly s c.core c.uid (.priv c.uid p.1) false
    exact h.trans (ih (h.settled hs))

/-- The window's place of a segment's offset is that of its bytes (R114). -/
theorem privOff_eq (u : Thread) (o : Nat) : privOff u.lane o = privAt u o := rfl

/-- Whole words of a segment's range, as the crew's window has them. -/
theorem bytesWords_privBytes {s : State} {c : Crew} (hc : s.crew c.uid = some c) (u : Thread) (o k : Nat) :
    bytesWords (s.privBytes c.uid u.lane o (4 * (k + 1))) =
      (List.range (k + 1)).map fun j => byteWord c.privB (privAt u (o + 4 * j)) := by
  unfold State.privBytes privPieces
  simp only [show ¬4 * (k + 1) < 4 by omega, if_false, Nat.mul_div_cancel_left _ (show 0 < 4 by decide), List.flatMap_map,
    State.loadT, hc, Crew.readPriv, privOff_eq]
  rw [← List.flatMap_map (fun j => privAt u (o + 4 * j)) fun a => (List.range 4).map fun i => c.privB (a + i),
    bytesWords_flatMap, List.map_map]
  rfl

/-- A byte or a half of a segment's range lies together. -/
theorem privBytes_one {s : State} {c : Crew} (hc : s.crew c.uid = some c) (u : Thread) (o : Nat) :
    s.privBytes c.uid u.lane o 1 = [c.privB (privAt u o)] := by
  simp [State.privBytes, privPieces, State.loadT, hc, Crew.readPriv, privOff_eq]

theorem privBytes_two {s : State} {c : Crew} (hc : s.crew c.uid = some c) (u : Thread) (o : Nat) :
    s.privBytes c.uid u.lane o 2 = [c.privB (privAt u o), c.privB (privAt u o + 1)] := by
  simp [State.privBytes, privPieces, State.loadT, hc, Crew.readPriv, privOff_eq, List.range_succ]

/-- What a window access of a lone thread reads. -/
theorem privTouch_read {s : State} {c : Crew} {u : Thread} (hA : Alone s c u) (hs : Settled s c u) (o n : Nat) :
    Beside s (s.issued.privTouch c u.lane o n) ∧ (s.issued.privTouch c u.lane o n).crews = s.crews ∧
      (s.issued.privTouch c u.lane o n).crew c.uid = some c := by
  have h := privTouch_cacheOnly (s := s.issued) (c := c) (u := u) hs o n
  refine ⟨h.beside (.issued s), h.crews, ?_⟩
  unfold State.crew
  rw [h.crews]
  exact hA.crew

/-- A window load of up to 8 B (R214). -/
theorem privLoadRuns_of {i : Mem} {n k : Nat} {ws : (Nat → Byte) → (Nat → Nat) → Nat → List Word} (sg : Bool)
    (w : Bool → BitVec 7 → BitVec 7 → BitVec 8 → Word) (hn : n ≠ 16)
    (hi : ∀ sw d a o s, exec (i sw d a o) s =
      execLanes { word := w sw d a o, sw := sw, ops := [dX d k, aX a 1] } s (ldpLane n sg d a o s.nextId))
    (hw : ∀ (s : State) (c : Crew) u o, s.crew c.uid = some c →
      loadWords n sg (s.privBytes c.uid u.lane o n) = ws c.privB (privAt u) o) : PrivLoadRuns i n k ws := by
  intro sw d a o s c u ⟨hA, hx, hR⟩ hs hk
  obtain ⟨h1, h2, h3⟩ := privTouch_read hA hs ((u.x a.toNat).toNat + o.toNat * n) n
  rw [hi, execLanes_alone hA rfl (wordTrap_plain rfl hx) rfl hR]
  unfold ldpLane
  dsimp only
  rw [privAccess_ok hk (by exact hs)]
  simp only [hn, if_false, hw _ _ _ _ h3]
  refine ⟨_, rfl, (hA.laneAt.same h2 (by rw [h1.1])).lands (R := Beside) (e := ⟨c.uid, w sw d a o, s.iss.guard, c.region⟩) rfl
    hA.2.2.2.2.2 rfl rfl rfl fun cs => ⟨?_, ?_⟩⟩
  · rw [h1.1]
    rfl
  · simp only [flies, State.inFlight, State.fresh, State.post, State.onLane, State.onCrew, List.filter_append, h1.2]
    rw [h1.1]
    rfl

/-- A window load of 16 B: its lower half in flight, its upper one to be read (R129, R214). -/
theorem privLoad16_runs : PrivLoadRuns16 .ldpQ := by
  intro sw d a o s c u ⟨hA, hx, hR⟩ hs hk off x w hi
  obtain ⟨h1, h2, h3⟩ := privTouch_read hA hs off 16
  have hw : bytesWords ((s.issued.privTouch c u.lane off 16).privBytes c.uid u.lane off 8) = [w 0, w 1] :=
    bytesWords_privBytes h3 u off 1
  rw [show exec (.ldpQ sw d a o) s = execLdpQ sw d a o s from rfl]
  unfold execLdpQ
  rw [execLanes_alone hA rfl (wordTrap_plain rfl hx) rfl hR]
  unfold ldpLane
  dsimp only
  rw [privAccess_ok hk (by exact hs)]
  simp only [if_true, privOff_eq, show (u.x a.toNat).toNat + o.toNat * 16 = off from rfl, hw]
  have h4 := (hA.laneAt.same h2 (by rw [h1.1])).halves (e := ⟨c.uid, encMEM sw 41#6 d a 6#3 o, s.iss.guard, c.region⟩)
    (vals := destVals x [w 0, w 1]) (late := ⟨s.nextId, .priv c.uid hi, .priv c.uid hi, 4 * crewWidth, [x + 2, x + 3], none⟩)
    rfl hA.2.2.2.2.2 rfl rfl rfl h1
  rw [show (s.issued.privTouch c u.lane off 16).nextId = s.nextId by rw [h1.1]] at h4
  exact ⟨_, rfl, h4⟩

/-- Settles O15: `privLoadRuns_of` for each size, with the words that the window's bytes make. -/
theorem privateLoads : Obligations.PrivateLoads :=
  ⟨privLoadRuns_of false _ (by decide) (fun _ _ _ _ _ => rfl) fun _ _ u o hc => by
      rw [privBytes_one hc]; exact (loadWords_one _).1,
    privLoadRuns_of true _ (by decide) (fun _ _ _ _ _ => rfl) fun _ _ u o hc => by
      rw [privBytes_one hc]; exact (loadWords_one _).2,
    privLoadRuns_of false _ (by decide) (fun _ _ _ _ _ => rfl) fun _ _ u o hc => by
      rw [privBytes_two hc]; exact (loadWords_two _ _).1,
    privLoadRuns_of true _ (by decide) (fun _ _ _ _ _ => rfl) fun _ _ u o hc => by
      rw [privBytes_two hc]; exact (loadWords_two _ _).2,
    privLoadRuns_of false _ (by decide) (fun _ _ _ _ _ => rfl) fun _ _ u o hc =>
      (loadWords_words (by decide) _ _).trans (bytesWords_privBytes hc u o 0),
    privLoadRuns_of false _ (by decide) (fun _ _ _ _ _ => rfl) fun _ _ u o hc =>
      (loadWords_words (by decide) _ _).trans (bytesWords_privBytes hc u o 1),
    privLoad16_runs⟩

/-- The parts of a window store are accepted one after the other, each with its line in the L1. -/
theorem privParts_beside {b : State} (c : Crew) (u : Thread) (tag : Nat) (ps : List (Nat × StoreOp)) {s : State}
    (h : Beside b s) :
    let z := ps.foldl (fun (s : State) p => (s.cached c.core c.uid (.priv c.uid p.1) true).accept c.uid u.lane tag
      (.priv c.uid p.1) (.priv c.uid p.1) p.2 false none true) s
    Beside (accepts b tag c u (ps.map fun p => ⟨.priv c.uid p.1, .priv c.uid p.1, p.2, false, none, true⟩)) z ∧
      z.crews = s.crews ∧ z.iss = s.iss := by
  induction ps generalizing b s with
  | nil => exact ⟨by rw [List.map_nil, accepts_nil]; exact h, rfl, rfl⟩
  | cons p r ih =>
    have hc := cached_cacheOnly s c.core c.uid (.priv c.uid p.1) true
    have h1 := (hc.beside h).accepts tag c u [⟨.priv c.uid p.1, .priv c.uid p.1, p.2, false, none, true⟩]
    rw [accepts_cons, accepts_nil, accepts_cons, accepts_nil] at h1
    obtain ⟨h2, h3, h4⟩ := ih h1
    refine ⟨by rw [List.map_cons, accepts_cons]; exact h2, h3.trans hc.crews, h4.trans ?_⟩
    obtain ⟨_, _, _, _, _, _, _, e, -⟩ := hc
    rw [e]
    rfl

/-- A window store (R209, R214): its parts are accepted. -/
theorem privStoreRuns_of {i : Mem} {n k : Nat} {ps : (Nat → Word) → Nat → List (Nat × StoreOp)}
    (w : Bool → BitVec 7 → BitVec 7 → BitVec 8 → Word)
    (hi : ∀ sw d a o s, exec (i sw d a o) s =
      execLanes { word := w sw d a o, sw := sw, ops := [dX d k, aX a 1] } s fun _ => stpLane n d a o s.nextId)
    (hp : ∀ x o (u : Thread), stpOps n o u.lane (dataBytes n x) = (ps x o).map fun p => (privAt u p.1, p.2)) :
    PrivStoreRuns i n k ps := by
  intro sw d a o s c u ⟨hA, hx, hR⟩ hs hk
  rw [hi, execLanes_alone hA rfl (wordTrap_plain rfl hx) rfl hR]
  unfold stpLane
  dsimp only
  rw [privAccess_ok hk (by exact hs), hp]
  obtain ⟨h1, h2, h3⟩ := privParts_beside c u s.nextId ((ps (fun j => u.x (d.toNat + j))
    ((u.x a.toNat).toNat + o.toNat * n)).map fun p => (privAt u p.1, p.2)) (Beside.issued s)
  rw [List.map_map] at h1
  exact ⟨_, rfl, LaneAt.goes (R := Beside) (hA.laneAt.same h2 h3) rfl hA.2.2.2.2.2 rfl fun cs => h1.crews cs⟩

/-- Words as bytes and back. -/
theorem bytesWords_wordBytes (l : List Word) : bytesWords (l.flatMap wordBytes) = l := by
  induction l with
  | nil => simp [bytesWords]
  | cons w r ih =>
    rw [List.flatMap_cons]
    exact (bytesWords_cons _ _ _ _ _).trans (congr (congrArg List.cons (wordOfBytes_bytesOfWord w)) ih)

/-- Settles O16: `privStoreRuns_of` for each size, with the parts that the data registers make. -/
theorem privateStores : Obligations.PrivateStores :=
  ⟨privStoreRuns_of _ (fun _ _ _ _ _ => rfl) fun x o u => by rw [dataBytes_one]; rfl,
    privStoreRuns_of _ (fun _ _ _ _ _ => rfl) fun x o u => by rw [dataBytes_two]; rfl,
    privStoreRuns_of _ (fun _ _ _ _ _ => rfl) fun x o u => by
      rw [dataBytes_words 0]
      exact congrArg (fun l => [(privAt u o, StoreOp.words l)]) (bytesWords_wordBytes [x 0]),
    privStoreRuns_of _ (fun _ _ _ _ _ => rfl) fun x o u => by
      rw [dataBytes_words 1]
      exact congrArg (fun l => [(privAt u o, StoreOp.words l)]) (bytesWords_wordBytes [x 0, x 1]),
    privStoreRuns_of _ (fun _ _ _ _ _ => rfl) fun x o u => by
      rw [dataBytes_words 3]
      exact congr (congrArg (fun l m => [(privAt u o, StoreOp.words l), (privAt u (o + 8), StoreOp.words m)])
        (bytesWords_wordBytes [x 0, x 1])) (bytesWords_wordBytes [x 2, x 3])⟩

end Sys2Proof.Machine
end


section
/-! # Accesses with semantics -/

namespace Sys2Proof.Machine

/-! ## What an order field has done first -/

/-- A settled thread's earlier accesses are performed. -/
theorem drainLane_settled {s : State} {c : Crew} {u : Thread} (h : Settled s c u) : s.drainLane c.uid u.lane = s := by
  have h1 : (s.stores.any fun q => q.crew == c.uid && q.lane == u.lane) = false := by
    rw [List.any_eq_false]
    intro q hq
    simpa using h.1 q hq
  unfold State.drainLane
  simp only [finishHalves_settled h, h1, Bool.false_eq_true, if_false]
  exact landRows_settled h fun l hl => by simpa using hl

/-- Releases and acquires note themselves at what granules held before (R131). -/
theorem releasedBy_frame (s : State) (p : Party) (scope : Nat) : ∃ o, s.releasedBy p scope = { s with older := o } := by
  unfold State.releasedBy
  split <;> exact ⟨_, rfl⟩

theorem acquiredBy_frame (s : State) (p : Party) (scope : Nat) : ∃ o, s.acquiredBy p scope = { s with older := o } := by
  unfold State.acquiredBy
  split <;> exact ⟨_, rfl⟩

/-- A region closes: its crew opens the next, and records of ended regions go (R118, R119). -/
theorem syncOp_frame (s : State) (uid : Nat) : ∃ r, s.syncOp uid =
    { s.onCrew uid fun c => { c with region := c.region + 1 } with recs := r } := by
  unfold State.syncOp State.dropEnded
  split <;> exact ⟨_, rfl⟩

/-- The same once for a set, whose crew is still in the region that the instruction began in. -/
theorem syncFor_frame {s : State} {c d : Crew} {e : Env} (he : e.uid = c.uid) (hc : s.crew c.uid = some d)
    (hd : d.region = e.region) : ∃ r, s.syncFor e =
      { s.onCrew c.uid fun c => { c with region := c.region + 1 } with recs := r } := by
  unfold State.syncFor
  rw [he, hc, Option.elim_some, if_pos hd]
  exact syncOp_frame s c.uid

/-- The order of an access of a settled thread opens a region where there is any, and changes records and what narrow
releases keep alone. -/
theorem order_settled {s : State} {c d : Crew} {u : Thread} {e : Env} {acq rel : Bool} (hs : rel = true → Settled s c u)
    (he : e.uid = c.uid) (hc : s.crew c.uid = some d) (hd : d.region = e.region) (scope : Nat) :
    ∃ o r, s.order e u.lane acq rel scope =
      { (if acq || rel then s.onCrew c.uid fun x => { x with region := x.region + 1 } else s) with
        older := o
        recs := r } := by
  have hrel : ∃ o, (if rel then (s.drainLane c.uid u.lane).released c.uid scope else s) = { s with older := o } := by
    split
    · next hr =>
      rw [drainLane_settled (hs hr)]
      exact releasedBy_frame s _ scope
    · exact ⟨_, rfl⟩
  unfold State.order
  rw [he]
  obtain ⟨o1, h1⟩ := hrel
  have hacq : ∃ o, (if acq then ({ s with older := o1 } : State).acquired c.uid scope else { s with older := o1 }) =
      { s with older := o } := by
    split
    · obtain ⟨o2, h2⟩ := acquiredBy_frame { s with older := o1 } (.crew c.uid) scope
      exact ⟨o2, h2⟩
    · exact ⟨_, rfl⟩
  obtain ⟨o2, h2⟩ := hacq
  simp only [h1, h2]
  split
  · obtain ⟨r, hr⟩ := syncFor_frame (s := { s with older := o2 }) he hc hd
    exact ⟨o2, r, hr⟩
  · exact ⟨o2, s.recs, rfl⟩

/-- Every crew of `t` has the threads of some crew of `s`. -/
def ThreadsOf (s t : State) : Prop := ∀ x ∈ t.crews, ∃ y ∈ s.crews, x.threads = y.threads

theorem ThreadsOf.noMonitor {s t : State} {p : Place} {n : Nat} (h : ThreadsOf s t) (hn : NoMonitor s p n) : NoMonitor t p n := by
  intro x hx v hv
  obtain ⟨y, hy, e⟩ := h x hx
  exact hn y hy v (e ▸ hv)

/-- Opening a region leaves the threads of every crew. -/
theorem threadsOf_opened {s t : State} {b : Bool} {uid : Nat}
    (h : t.crews = (if b then s.onCrew uid fun x => { x with region := x.region + 1 } else s).crews) : ThreadsOf s t := by
  intro x hx
  rw [h] at hx
  cases b
  · exact ⟨x, hx, rfl⟩
  · obtain ⟨y, hy, rfl⟩ := List.mem_map.mp hx
    refine ⟨y, hy, ?_⟩
    split <;> rfl

/-- The region of the crew as it stands. -/
theorem LaneAt.region {s s1 : State} {c d k : Crew} {u v : Thread} (h : LaneAt s s1 c u v k d) : d.region = k.region :=
  (congrArg (fun (x : Crew) => x.region) h.frame :)

/-- Its crew in the next region. -/
theorem LaneAt.opened {s s1 : State} {c d k : Crew} {u v : Thread} (h : LaneAt s s1 c u v k d) :
    LaneAt s (s1.onCrew c.uid fun x => { x with region := x.region + 1 }) c u v { k with region := k.region + 1 }
      { d with region := d.region + 1 } := by
  refine h.onCrew (fun x => { x with region := x.region + 1 }) (fun _ => rfl) (fun _ => rfl) fun x y hxy => ?_
  have hreg : x.region = y.region := (congrArg (fun (x : Crew) => x.region) hxy :)
  have := congrArg (fun (z : Crew) => { z with region := y.region + 1 }) hxy
  simpa [hreg] using this

/-- The issuing thread stands after the order of its access, its crew in the region that this opens. -/
theorem LaneAt.order {s s1 : State} {c d k : Crew} {u v : Thread} {e : Env} {acq rel : Bool} (h : LaneAt s s1 c u v k d)
    (hs : rel = true → Settled s1 c u) (he : e.uid = c.uid) (hr : k.region = e.region) (scope : Nat) :
    (∃ d', LaneAt s (s1.order e u.lane acq rel scope) c u v (k.ordered acq rel) d') ∧
      ThreadsOf s1 (s1.order e u.lane acq rel scope) ∧ ∃ o r, s1.order e u.lane acq rel scope = { s1 with
        crews := (s1.order e u.lane acq rel scope).crews
        older := o
        recs := r } := by
  obtain ⟨o, r, ho⟩ := order_settled (acq := acq) hs he h.crew (h.region.trans hr) scope
  have hth : ThreadsOf s1 (s1.order e u.lane acq rel scope) := threadsOf_opened (b := acq || rel) (uid := c.uid) (by rw [ho])
  refine ⟨?_, hth, o, r, by rw [ho]; split <;> rfl⟩
  rw [ho]
  unfold Crew.ordered
  split
  · exact ⟨_, h.opened.same rfl h.iss⟩
  · exact ⟨_, h.same rfl h.iss⟩

/-- A generic access with semantics that passes its checks: the thread stands in the region that it opens, beside changes
that accesses may cause. -/
theorem genAccess_ordered {s : State} {c : Crew} {u : Thread} {pc : Word} {x : Acc1} {ea scope : Nat} {acq rel : Bool} {d : Dest}
    {e : Env} (hA : Alone s c u) (he : e.uid = c.uid) (her : e.region = c.region)
    (hk : GenAccessOk s.issued c u pc x ea (fun s => s.order c.env u.lane acq rel scope) d) (hs : Settled s c u) :
    ∃ s1 k, (∀ go, s.issued.genAccess c u pc x ea (fun s => s.order e u.lane acq rel scope) go = go s1 d) ∧ Beside s s1 ∧
      LaneAt s s1 c u u (c.ordered acq rel) k ∧ ThreadsOf s s1 := by
  have hpre : (fun (s : State) => s.order e u.lane acq rel scope) = fun s => s.order c.env u.lane acq rel scope := by
    funext z
    unfold State.order State.syncFor Crew.env
    rw [he, her]
  rw [hpre]
  obtain ⟨s1, recs, ws, h1, h2⟩ := genAccess_ok hk (by exact hs) hA.2.2.2.2.2
  obtain ⟨w0, f0, t0, hres⟩ := resolve_frame s.issued c.world c.core x.kind ea x.size
  rw [hres] at h2
  have hl0 : LaneAt s { s.issued with
      worlds := w0
      freeCtr := f0
      touched := t0 } c u u c c := hA.laneAt.same rfl rfl
  obtain ⟨⟨k, hl⟩, hth, o, r, ho⟩ := hl0.order (e := c.env) (acq := acq) (rel := rel) (fun _ => by exact hs) rfl rfl scope
  refine ⟨s1, k, h1, ?_, (hl.same rfl (by exact hl.iss)).same h2.crews ?_, ?_⟩
  · refine h2.beside ?_
    rw [ho]
    exact ⟨rfl, rfl⟩
  · obtain ⟨_, _, _, _, _, _, _, rfl, -⟩ := h2
    exact hl.iss
  · unfold ThreadsOf
    rw [h2.crews]
    exact hth

end Sys2Proof.Machine
end


section
/-! # Atomics and reductions on physical memory -/

namespace Sys2Proof.Machine

/-! ## The values that atomics read and write -/

theorem leNat_append (l m : List Byte) : leNat (l ++ m) = leNat l + 256 ^ l.length * leNat m := by
  induction l with
  | nil => simp [leNat]
  | cons b r ih =>
    simp only [List.cons_append, leNat, ih, List.length_cons, Nat.pow_succ]
    rw [Nat.mul_add, ← Nat.add_assoc, Nat.mul_comm (256 ^ r.length) 256, Nat.mul_assoc]

/-- Four bytes stand for the word that they are. -/
theorem leNat_four (b : Nat → Byte) (a : Nat) : leNat ((List.range 4).map fun i => b (a + i)) = (byteWord b a).toNat := by
  have h := congrArg BitVec.toNat (ofNat_leNat_four (b a) (b (a + 1)) (b (a + 2)) (b (a + 3)))
  rw [BitVec.toNat_ofNat, Nat.mod_eq_of_lt] at h
  · exact h
  · simp only [leNat]
    have := (b a).isLt
    have := (b (a + 1)).isLt
    have := (b (a + 2)).isLt
    have := (b (a + 3)).isLt
    omega

/-- A word and the word after it are one value of 64 bits. -/
theorem leNat_eight (b : Nat → Byte) (a : Nat) :
    BitVec.ofNat 64 (leNat ((List.range 8).map fun i => b (a + i))) = pair64 (byteWord b (a + 4)) (byteWord b a) := by
  have h : (List.range 8).map (fun i => b (a + i)) =
      (List.range 4).map (fun i => b (a + i)) ++ (List.range 4).map fun i => b (a + 4 + i) := rfl
  rw [h, leNat_append, leNat_four, leNat_four]
  refine BitVec.eq_of_toNat_eq ?_
  have h1 := (byteWord b a).isLt
  have h2 := (byteWord b (a + 4)).isLt
  rw [pair64, BitVec.toNat_ofNat, BitVec.toNat_append, Nat.shiftLeft_eq, Nat.mul_comm (BitVec.toNat _) (2 ^ 32),
    ← Nat.two_pow_add_eq_or_of_lt h1, List.length_map, List.length_range]
  omega

theorem leBytes_add (n m v : Nat) : leBytes (n + m) v = leBytes n v ++ leBytes m (v / 256 ^ n) := by
  induction n generalizing v with
  | zero => simp [leBytes]
  | succ n ih =>
    rw [show n + 1 + m = n + m + 1 by omega, leBytes, ih, leBytes, List.cons_append, Nat.div_div_eq_div_mul, Nat.pow_succ,
      Nat.mul_comm]

/-- The low four bytes of a value are those of its low word. -/
theorem leBytes_lo (v : BitVec 64) : leBytes 4 v.toNat = wordBytes (lo32 v) := by
  rw [← leBytes_four]
  simp only [leBytes, lo32]
  refine congr (congrArg List.cons ?_) (congr (congrArg List.cons ?_) (congr (congrArg List.cons ?_) (congr (congrArg List.cons ?_) rfl))) <;>
    exact BitVec.eq_of_toNat_eq (by simp <;> omega)

/-- The eight bytes of a value are those of its two words. -/
theorem leBytes_eight (v : BitVec 64) : leBytes 8 v.toNat = wordBytes (lo32 v) ++ wordBytes (hi32 v) := by
  rw [leBytes_add 4 4, leBytes_lo, ← leBytes_four (hi32 v)]
  congr 2
  simp [hi32, Nat.shiftRight_eq_div_pow]
  omega

theorem lo32_setWidth (w : Word) : lo32 (w.setWidth 64) = w := by
  refine BitVec.eq_of_toNat_eq ?_
  have := w.isLt
  simp [lo32]
  omega

theorem lo32_pair64 (h l : Word) : lo32 (pair64 h l) = l := BitVec.extractLsb'_append_eq_right

theorem hi32_pair64 (h l : Word) : hi32 (pair64 h l) = h := BitVec.extractLsb'_append_eq_left

/-- What an atomic finds at an address, as its function has it (R215). -/
def State.oldAt (s : State) (fn pa : Nat) : BitVec 64 := BitVec.ofNat 64 (leNat (s.loadPA pa (atomSize fn)))

/-- What an atomic of a thread makes of it. -/
def atomNew (fn : Nat) (old : BitVec 64) (x : Nat → Word) : BitVec 64 × Flags := atomFn fn old (atomArgs fn x).1 (atomArgs fn x).2

theorem oldAt_four {fn : Nat} (h : atomSize fn = 4) (s : State) (pa : Nat) : s.oldAt fn pa = (s.wordPA pa).setWidth 64 := by
  unfold State.oldAt
  rw [h]
  unfold State.loadPA
  rw [leNat_four, BitVec.ofNat_toNat]
  rfl

theorem oldAt_eight {fn : Nat} (h : atomSize fn = 8) (s : State) (pa : Nat) :
    s.oldAt fn pa = pair64 (s.wordPA (pa + 4)) (s.wordPA pa) := by
  unfold State.oldAt
  rw [h]
  exact leNat_eight s.loadB pa

/-! ## One performed at once -/

/-- `t` is `b` but for its crews. -/
def OnlyCrews (b t : State) : Prop := t = { b with crews := t.crews }

theorem LandsBy.mono {mem : Bool} {R R' : State → State → Prop} {s b b' t : State} {c d : Crew} {u v : Thread}
    {vals : List (Nat × Word)} (h : LandsBy mem R s b t c u v d vals)
    (hR : R (Machine.flies s b ⟨s.nextId, c.uid, u.lane, false, vals, none, none, false, mem⟩) t →
      R' (Machine.flies s b' ⟨s.nextId, c.uid, u.lane, false, vals, none, none, false, mem⟩) t) :
    LandsBy mem R' s b' t c u v d vals := ⟨h.1, hR h.2⟩

/-- What an atomic returns to its thread: nothing, or its old value, with its flags (R215). -/
theorem LaneAt.returns {s s1 : State} {c d k : Crew} {u : Thread} {e : Env} (h : LaneAt s s1 c u u k d) (he : e.uid = c.uid)
    (hr : u.replay = none) (hn : e.next u = nextPc s u) (hp : e.pcI u = s.issPc u) (hl : s1.landings = s.landings)
    (hid : s1.nextId = s.nextId) (fn : Nat) (mred mem : Bool) (dd : BitVec 7) (old : BitVec 64) (fl : Flags) :
    let t := (closeLane e u (s1.atomReturn e c u fn mred dd old fl mem, .done)).settle c.uid
    if mred = true ∨ fn = 15 then GoesBy OnlyCrews s s1 t c u u k
    else LandsBy mem OnlyCrews s s1 t c u (if fn = 1 then u.flag fl else u) k
      (destVals (u.wb + dd.toNat) (if atomSize fn = 8 then [lo32 old, hi32 old] else [lo32 old])) := by
  intro t
  have hflies : ∀ (z : State) (vals : List (Nat × Word)) (cs : List Crew), z = { s1 with crews := z.crews } →
      OnlyCrews (Machine.flies s s1 ⟨s.nextId, c.uid, u.lane, false, vals, none, none, false, mem⟩)
        { z.inFlight c.uid u.lane (e.pcI u) vals none mem with crews := cs } := by
    intro z vals cs hz
    rw [hz]
    simp only [OnlyCrews, Machine.flies, State.inFlight, State.fresh, State.post, State.onLane, State.onCrew, hl, hid]
    rfl
  split
  · next hm =>
    have : s1.atomReturn e c u fn mred dd old fl mem = s1 := by
      unfold State.atomReturn
      rcases hm with rfl | rfl
      · rfl
      · simp
    simp only [t, this]
    exact h.goes he hr hn fun _ => rfl
  · next hm =>
    obtain ⟨hm1, hm2⟩ := not_or.mp hm
    by_cases h1 : fn = 1
    · subst h1
      have hf := h.onLane (·.flag fl) (fun _ => rfl) (fun _ => rfl)
      have ht : s1.atomReturn e c u 1 mred dd old fl mem =
          (s1.onLane c.uid u.lane (·.flag fl)).inFlight c.uid u.lane (e.pcI u) (destVals (u.wb + dd.toNat) [lo32 old]) none mem := by
        unfold State.atomReturn
        simp [hm1, atomSize]
      simp only [t, ht]
      exact hf.lands he hr hn hp rfl fun cs => hflies _ _ cs rfl
    · have ht : s1.atomReturn e c u fn mred dd old fl mem = s1.inFlight c.uid u.lane (e.pcI u) (destVals (u.wb + dd.toNat)
          (if atomSize fn = 8 then [lo32 old, hi32 old] else [lo32 old])) none mem := by
        unfold State.atomReturn
        simp [hm1, hm2, h1]
      simp only [t, ht, h1, if_false]
      exact h.lands he hr hn hp rfl fun cs => hflies _ _ cs rfl

/-- What an atomic returns leaves the other threads woken. -/
theorem WokenAt.returns {s s1 : State} {c d : Crew} {u v : Thread} {p : Place} {n : Nat} (h : WokenAt s s1 c u v d p n) {e : Env}
    (fn : Nat) (mred mem : Bool) (dd : BitVec 7) (old : BitVec 64) (fl : Flags) :
    ∃ v' d', WokenAt s (s1.atomReturn e c u fn mred dd old fl mem) c u v' d' p n := by
  unfold State.atomReturn
  split
  · exact ⟨v, d, h⟩
  · have h1 : ∃ v' d', WokenAt s (if fn = 1 then s1.onLane c.uid u.lane fun t => t.flag fl else s1) c u v' d' p n := by
      split
      · exact ⟨_, _, h.onLane (·.flag fl) (fun _ => rfl) (fun _ => rfl) fun _ => rfl⟩
      · exact ⟨v, d, h⟩
    obtain ⟨v', d', h1⟩ := h1
    dsimp only
    generalize (if fn = 1 then s1.onLane c.uid u.lane fun t => t.flag fl else s1) = z at h1 ⊢
    split
    · exact ⟨v', d', h1⟩
    · exact ⟨_, _, (h1.onLane (fun t => { t with pendX := pendAll t.pendX _ (e.pcI u) }) (fun _ => rfl) (fun _ => rfl)
        fun _ => rfl).same rfl rfl⟩

/-- One that acquires or releases, or whose page is strongly ordered, is performed at once (R122). -/
theorem atomLater_now {o : BitVec 7} {so : Bool} (h : (ordAcq o || ordRel o || so) = true) : (atomLater o && !so) = false := by
  unfold atomLater
  generalize ordAcq o = x, ordRel o = y at h ⊢
  cases x <;> cases y <;> cases so <;> simp_all

/-- An atomic or a reduction of a lone thread on physical memory that is performed at once. -/
theorem atomLane_now {s : State} {c : Crew} {u : Thread} {w : Word} {fn : Nat} {mred : Bool} {d a o : BitVec 7} {pa : Nat}
    {pl : Place} {tr so own : Bool} (hA : Alone s c u) (hs : Settled s c u) (hsem : semBad fn mred o = false)
    (hw : s.relWaits c.uid u.lane (ordRel o) (ordScope o) = false) (hsp : ordSpad o = false)
    (hnow : (ordAcq o || ordRel o || so) = true)
    (hk : GenAccessOk s.issued c u (s.issPc u) (atomAcc fn) (u.x64 a.toNat).toNat (ordered c u o) ⟨.mem pa, pl, tr, so, own⟩)
    (tag : Nat) :
    let old := s.oldAt fn pa
    let r := atomNew fn old fun j => u.x (d.toNat + j)
    ∃ s1 k, Beside s s1 ∧ LaneAt s s1 c u u (c.after o) k ∧ ThreadsOf s s1 ∧
      atomLane fn mred d a o tag ⟨c.uid, w, s.iss.guard, c.region⟩ c u s.issued =
        ((if fn = 14 then s1 else (s1.storePA pa (leBytes (atomSize fn) r.1.toNat)).wakeRange pl (atomSize fn)).atomReturn
          ⟨c.uid, w, s.iss.guard, c.region⟩ c u fn mred d old r.2 true, .done) := by
  intro old r
  obtain ⟨s1, k, h1, h2, h3, h4⟩ := genAccess_ordered (e := ⟨c.uid, w, s.iss.guard, c.region⟩) hA rfl rfl hk hs
  have hs1 : Settled s1 c u := hs.congr (by rw [h2.1]) (by rw [h2.1])
  have hold : s1.loadPA pa (atomSize fn) = s.loadPA pa (atomSize fn) := loadPA_congr (by rw [h2.1]) (by rw [h2.1]) _ _
  have key : atomLane fn mred d a o tag ⟨c.uid, w, s.iss.guard, c.region⟩ c u s.issued =
      ((if fn = 14 then s1 else s1.destWrite c u ⟨.mem pa, pl, tr, so, own⟩ (leBytes (atomSize fn) r.1.toNat)).atomReturn
        ⟨c.uid, w, s.iss.guard, c.region⟩ c u fn mred d old r.2 true, .done) := by
    unfold atomLane
    simp only [hsem, hsp, show s.issued.relWaits c.uid u.lane (ordRel o) (ordScope o) = false from hw, Bool.false_eq_true, if_false]
    rw [show Env.pcI ⟨c.uid, w, s.iss.guard, c.region⟩ u = s.issPc u from rfl, h1]
    simp only [atomLater_now hnow, Bool.false_eq_true, if_false, State.destRead, drainFor_settled hs1, State.loadT, hold]
    rfl
  by_cases h14 : fn = 14
  · exact ⟨s1, k, h2, h3, h4, by rw [key, if_pos h14, if_pos h14]⟩
  · obtain ⟨q, hq⟩ := destWrite_mem hs1 pa pl tr so own (leBytes (atomSize fn) r.1.toNat)
    refine ⟨{ s1 with older := q }, k, ⟨by rw [h2.1], h2.2⟩, h3.same rfl h3.iss, h4, ?_⟩
    rw [key, if_neg h14, if_neg h14, hq, leBytes_length]

/-- An atomic or a reduction on physical memory that is performed at once wakes the monitors on its line (R221). -/
theorem atomWakes_of {i : Atom} {fn k : Nat} {noAcq noRel : Bool} (mred : Bool) (w : Bool → BitVec 7 → BitVec 7 → BitVec 7 → Word)
    (hi : ∀ sw d a o s, exec (i sw d a o) s =
      execLanes { word := w sw d a o, sw := sw, ops := atomOps fn d a o } s (atomLane fn mred d a o s.nextId))
    (hops : ∀ d a o, ordSpad o = false → atomOps fn d a o = [{ dX d k with mark := fn == 1 }, aX a 2])
    (hsem : ∀ o, (noAcq = true → ordAcq o = false) → (noRel = true → ordRel o = false) → semBad fn mred o = false)
    (h14 : fn ≠ 14) : AtomWakes i fn k noAcq noRel := by
  intro sw d a o s c u pa pl tr so own hsp hnow ⟨hA, hx, hR⟩ ⟨hacq, hrel, hw, hs, _⟩ hk
  obtain ⟨s1, k1, h1, h2, h3, h4⟩ := atomLane_now (w := w sw d a o) (d := d) (mred := mred) hA hs (hsem o hacq hrel) hw hsp hnow hk s.nextId
  rw [if_neg h14] at h4
  obtain ⟨v, d', hv⟩ := (h2.same (s2 := s1.storePA pa (leBytes (atomSize fn)
    (atomNew fn (s.oldAt fn pa) fun j => u.x (d.toNat + j)).1.toNat)) rfl h2.iss).woken hA.crew hA.2.2.2.2.2 pl (atomSize fn)
  rw [← hops d a o hsp] at hR hx
  rw [hi, execLanes_alone hA rfl (wordTrap_plain rfl hx) rfl hR, h4]
  obtain ⟨v', d'', hv'⟩ := hv.returns (e := ⟨c.uid, w sw d a o, s.iss.guard, c.region⟩) fn mred true d (s.oldAt fn pa) _
  exact ⟨_, rfl, hv'.done rfl⟩

theorem Beside.only {b z t : State} (h : Beside b z) (ht : OnlyCrews z t) : Beside b t := by
  rw [ht]
  exact h.crews _

theorem flies_eq {s z : State} (hl : z.landings = s.landings) (hid : z.nextId = s.nextId) (b : State) (l : Landing) :
    Machine.flies z b l = Machine.flies s b l := by
  unfold Machine.flies
  rw [hl, hid]

/-- What an atomic returns, in terms of what the machine outside its crews becomes. -/
theorem returns_mono {mem : Bool} {R : State → State → Prop} {s b z t : State} {c k : Crew} {u v : Thread} {p : Prop} [Decidable p]
    {vals : List (Nat × Word)} (hz : z.landings = s.landings) (hzi : z.nextId = s.nextId) (hb : b.landings = s.landings)
    (hbi : b.nextId = s.nextId)
    (h : if p then GoesBy OnlyCrews s z t c u u k else LandsBy mem OnlyCrews s z t c u v k vals)
    (hR : OnlyCrews z t → R b t) (hF : ∀ l, OnlyCrews (Machine.flies z z l) t → R (Machine.flies b b l) t) :
    if p then GoesBy R s b t c u u k else LandsBy mem R s b t c u v k vals := by
  split at h
  · next hp => rw [if_pos hp]; exact ⟨h.1, hR h.2⟩
  · next hp =>
    rw [if_neg hp]
    refine h.mono fun ho => ?_
    rw [← flies_eq hz hzi] at ho
    rw [← flies_eq hb hbi]
    exact hF _ ho

/-- An atomic or a reduction on physical memory that is performed at once (R122, R215, R216, R218). -/
theorem atom_runs {s : State} {c : Crew} {u : Thread} {w : Word} {fn : Nat} {mred sw : Bool} {d a o : BitVec 7} {pa : Nat}
    {pl : Place} {tr so own : Bool} (ha : AloneReady s c u sw (atomOps fn d a o)) (hs : Settled s c u)
    (hsem : semBad fn mred o = false) (hw : s.relWaits c.uid u.lane (ordRel o) (ordScope o) = false)
    (hsp : ordSpad o = false) (hnow : (ordAcq o || ordRel o || so) = true) (hm : s.memOk = true)
    (hk : GenAccessOk s.issued c u (s.issPc u) (atomAcc fn) (u.x64 a.toNat).toNat (ordered c u o) ⟨.mem pa, pl, tr, so, own⟩)
    (hn : NoMonitor s pl (atomSize fn)) :
    let old := s.oldAt fn pa
    let r := atomNew fn old fun j => u.x (d.toNat + j)
    ∃ t, execLanes { word := w, sw := sw, ops := atomOps fn d a o } s (atomLane fn mred d a o s.nextId) = .next t ∧
      (if mred = true ∨ fn = 15 then GoesMem s { s with mem := t.mem, poison := t.poison } t c u u (c.after o)
        else LandsMem s { s with mem := t.mem, poison := t.poison } t c u (if fn = 1 then u.flag r.2 else u) (c.after o)
          (destVals (u.wb + d.toNat) (if atomSize fn = 8 then [lo32 old, hi32 old] else [lo32 old]))) ∧
      (if fn = 14 then t.mem = s.mem ∧ t.poison = s.poison else Stored s t pa (leBytes (atomSize fn) r.1.toNat)) := by
  intro old r
  obtain ⟨hA, hx, hR⟩ := ha
  obtain ⟨s1, k1, h1, h2, h3, h4⟩ := atomLane_now (w := w) (d := d) (mred := mred) hA hs hsem hw hsp hnow hk s.nextId
  have hwake : (if fn = 14 then s1 else (s1.storePA pa (leBytes (atomSize fn) r.1.toNat)).wakeRange pl (atomSize fn)) =
      if fn = 14 then s1 else s1.storePA pa (leBytes (atomSize fn) r.1.toNat) := by
    split
    · rfl
    · exact wakeRange_none (h3.noMonitor hn)
  rw [execLanes_alone hA rfl (wordTrap_plain rfl hx) rfl hR, h4, hwake]
  generalize hz : (if fn = 14 then s1 else s1.storePA pa (leBytes (atomSize fn) r.1.toNat)) = z
  have hzs : z = { s1 with mem := z.mem, poison := z.poison } := by
    rw [← hz]
    split <;> rfl
  have hl : LaneAt s z c u u (c.after o) k1 := h2.same (by rw [hzs]) (by rw [hzs]; exact h2.iss)
  have hret := hl.returns (e := ⟨c.uid, w, s.iss.guard, c.region⟩) rfl hA.2.2.2.2.2 rfl rfl (by rw [hzs, h1.1]) (by rw [hzs, h1.1])
    fn mred true d old r.2
  refine ⟨_, rfl, ?_⟩
  generalize (closeLane _ u _).settle c.uid = t at hret ⊢
  have hb : Beside { s with mem := z.mem, poison := z.poison } z := ⟨by rw [hzs, h1.1], by rw [hzs]; exact h1.2⟩
  have hst : if fn = 14 then z.mem = s.mem ∧ z.poison = s.poison else Stored s z pa (leBytes (atomSize fn) r.1.toNat) := by
    rw [← hz]
    split
    · rw [h1.1]
      exact ⟨rfl, rfl⟩
    · exact storePA_stored (z := s1) (by rw [h1.1]) (by rw [h1.1]) hm
  have hmp : t.mem = z.mem ∧ t.poison = z.poison := by
    split at hret <;> (rw [hret.2]; exact ⟨rfl, rfl⟩)
  rw [hmp.1, hmp.2]
  refine ⟨returns_mono (by rw [hzs, h1.1]) (by rw [hzs, h1.1]) rfl rfl hret hb.only fun l => (hb.flies l).only, ?_⟩
  · split at hst
    · next hc => rw [if_pos hc]; exact hst
    · next hc => rw [if_neg hc]; exact hst.congr hmp.1 hmp.2

/-- What an atomic on a word returns, in the terms of its function `new`. -/
theorem returns_word {mem : Bool} {R : State → State → Prop} {s b t : State} {c k : Crew} {u : Thread} {fn : Nat}
    {mred ret : Bool} {dd : BitVec 7} {m : Word} {x : Nat → Word} {new : Word → (Nat → Word) → Word × Flags} (h4 : atomSize fn = 4)
    (hret : ret = true ↔ ¬(mred = true ∨ fn = 15))
    (hfl : ret = true → (new m x).2 = if fn = 1 then (atomNew fn (m.setWidth 64) x).2 else 0)
    (h : if mred = true ∨ fn = 15 then GoesBy R s b t c u u k
      else LandsBy mem R s b t c u (if fn = 1 then u.flag (atomNew fn (m.setWidth 64) x).2 else u) k (destVals (u.wb + dd.toNat)
        (if atomSize fn = 8 then [lo32 (m.setWidth 64), hi32 (m.setWidth 64)] else [lo32 (m.setWidth 64)]))) :
    if ret then LandsBy mem R s b t c u (u.flag (new m x).2) k [(u.wb + dd.toNat, m)] else GoesBy R s b t c u u k := by
  cases hr : ret
  · rw [if_pos (Decidable.byContradiction fun h => absurd (hret.mpr h) (by simp [hr]))] at h
    exact h
  · have : u.flag (new m x).2 = if fn = 1 then u.flag (atomNew fn (m.setWidth 64) x).2 else u := by
      rw [hfl hr]
      split
      · rfl
      · exact Thread.flag_zero u
    rw [if_neg (hret.mp hr), h4, lo32_setWidth] at h
    rw [if_pos rfl, this]
    exact h

/-- An atomic on a word (R215, R216, R218): `new` is its function of the word and the operand registers. -/
theorem atomRuns_of {i : Atom} {fn k : Nat} {x : Acc1} {fp wr ret noAcq noRel : Bool}
    {new : Word → (Nat → Word) → Word × Flags} (mred : Bool) (w : Bool → BitVec 7 → BitVec 7 → BitVec 7 → Word)
    (hi : ∀ sw d a o s, exec (i sw d a o) s =
      execLanes { word := w sw d a o, sw := sw, ops := atomOps fn d a o } s (atomLane fn mred d a o s.nextId))
    (hops : ∀ d a o, ordSpad o = false → atomOps fn d a o = [{ dX d k with mark := fp }, aX a 2])
    (hsem : ∀ o, (noAcq = true → ordAcq o = false) → (noRel = true → ordRel o = false) → semBad fn mred o = false)
    (h4 : atomSize fn = 4) (hacc : atomAcc fn = x) (hret : ret = true ↔ ¬(mred = true ∨ fn = 15)) (hwr : wr = true ↔ fn ≠ 14)
    (hval : ∀ m x, lo32 (atomNew fn (m.setWidth 64) x).1 = (new m x).1)
    (hfl : ∀ m x, ret = true → (new m x).2 = if fn = 1 then (atomNew fn (m.setWidth 64) x).2 else 0) :
    AtomRuns i k x fp wr ret noAcq noRel new := by
  intro sw d a o s c u pa pl tr so own hsp hnow ha ⟨hacq, hrel, hw, hs, _⟩ hm hk hn r
  subst hacc
  rw [← hops d a o hsp] at ha
  obtain ⟨t, h1, h2, h3⟩ := atom_runs (w := w sw d a o) (mred := mred) ha hs (hsem o hacq hrel) hw hsp hnow hm hk (by rw [h4]; exact hn)
  rw [oldAt_four h4] at h2 h3
  refine ⟨t, (hi sw d a o s).trans h1, returns_word h4 hret (hfl _ _) h2, ?_⟩
  cases hw' : wr
  · rw [if_pos (by simpa [hw'] using hwr)] at h3
    exact h3
  · rw [if_neg (hwr.mp hw'), h4, leBytes_lo, hval] at h3
    exact h3

/-- An atomic on eight bytes (R215). -/
theorem atomRuns8_of {i : Atom} {fn k : Nat} {new : BitVec 64 → (Nat → Word) → BitVec 64}
    (w : Bool → BitVec 7 → BitVec 7 → BitVec 7 → Word)
    (hi : ∀ sw d a o s, exec (i sw d a o) s =
      execLanes { word := w sw d a o, sw := sw, ops := atomOps fn d a o } s (atomLane fn false d a o s.nextId))
    (hops : ∀ d a o, ordSpad o = false → atomOps fn d a o = [dX d k, aX a 2])
    (h8 : fn = 11 ∨ fn = 12 ∨ fn = 13) (hval : ∀ m x, (atomNew fn m x).1 = new m x) : AtomRuns8 i k new := by
  intro sw d a o s c u pa pl tr so own hsp hnow ha ⟨_, _, hw, hs, _⟩ hm hk hn old v
  have hsize : atomSize fn = 8 := by rcases h8 with rfl | rfl | rfl <;> rfl
  have hacc : atomAcc fn = ⟨.atom, true, true, true, 8⟩ := by rcases h8 with rfl | rfl | rfl <;> rfl
  have hsem : semBad fn false o = false := by rcases h8 with rfl | rfl | rfl <;> simp [semBad]
  have hne : fn ≠ 15 ∧ fn ≠ 1 ∧ fn ≠ 14 := by omega
  rw [← hops d a o hsp] at ha
  rw [← hacc] at hk
  obtain ⟨t, h1, h2, h3⟩ := atom_runs (w := w sw d a o) (mred := false) ha hs hsem hw hsp hnow hm hk (by rw [hsize]; exact hn)
  simp only [hne, hsize, Bool.false_eq_true, or_self, if_false, if_true, oldAt_eight hsize, lo32_pair64, hi32_pair64, leBytes_eight,
    hval] at h2 h3
  exact ⟨t, (hi sw d a o s).trans h1, h2, h3⟩

/-! ## One performed later -/

/-- The region of a tracked access is its crew's. -/
theorem LaneAt.regionAt {s s1 : State} {c d k : Crew} {u v : Thread} (h : LaneAt s s1 c u v k d) (hr : u.replay = none) (x : Dest) :
    s1.regionAt c u x = if x.tracked then some k.region else none := by
  unfold State.regionAt
  rw [h.crew, Option.getD_some, accessRegion_none hr, h.region]

/-- A relaxed atomic or reduction of a lone thread on physical memory is accepted (R122, R209). -/
theorem atomLane_later {s : State} {c : Crew} {u : Thread} {w : Word} {fn : Nat} {mred : Bool} {d a o : BitVec 7} {pa : Nat}
    {pl : Place} {tr own : Bool} (hA : Alone s c u) (hs : Settled s c u) (hsp : ordSpad o = false) (hacq : ordAcq o = false)
    (hrel : ordRel o = false)
    (hk : GenAccessOk s.issued c u (s.issPc u) (atomAcc fn) (u.x64 a.toNat).toNat id ⟨.mem pa, pl, tr, false, own⟩) (tag : Nat) :
    ∃ s1 k, Beside s s1 ∧ LaneAt s s1 c u u c k ∧
      atomLane fn mred d a o tag ⟨c.uid, w, s.iss.guard, c.region⟩ c u s.issued =
        (s1.acceptAtom ⟨c.uid, w, s.iss.guard, c.region⟩ c u fn mred d tag (.mem pa) pl (if tr then some c.region else none) own,
          .done) := by
  obtain ⟨s1, k, h1, h2, h3, -⟩ := genAccess_ordered (acq := false) (rel := false) (scope := ordScope o)
    (e := ⟨c.uid, w, s.iss.guard, c.region⟩) hA rfl rfl hk hs
  refine ⟨s1, k, h2, h3, ?_⟩
  unfold atomLane
  simp only [semBad, State.relWaits, hacq, hrel, hsp, Bool.and_false, Bool.false_and, Bool.or_self, Bool.false_eq_true, if_false]
  rw [show Env.pcI ⟨c.uid, w, s.iss.guard, c.region⟩ u = s.issPc u from rfl, h1]
  simp only [atomLater, hacq, hrel, Bool.not_false, Bool.and_self, if_true, h3.regionAt hA.2.2.2.2.2]
  rfl

/-- A relaxed store or reduction on a word is accepted (R122, R209, R218). -/
theorem laterRuns_of {i : Atom} {fn : Nat} {fp : Bool} {op : Word → StoreOp} (mred : Bool)
    (w : Bool → BitVec 7 → BitVec 7 → BitVec 7 → Word)
    (hi : ∀ sw d a o s, exec (i sw d a o) s =
      execLanes { word := w sw d a o, sw := sw, ops := atomOps fn d a o } s (atomLane fn mred d a o s.nextId))
    (hops : ∀ d a o, ordSpad o = false → atomOps fn d a o = [{ dX d 1 with mark := fp }, aX a 2])
    (hacc : atomAcc fn = ⟨.atom, true, true, true, 4⟩)
    (hop : ∀ (s : State) e c u d tag tg p region own, s.acceptAtom e c u fn mred d tag tg p region own =
      s.accept c.uid u.lane tag tg p (op (u.x d.toNat)) false region own) : LaterRuns i fp op := by
  intro sw d a o s c u pa pl tr own hsp hacq hrel ⟨hA, hx, hR⟩ hs hk
  rw [← hacc] at hk
  rw [← hops d a o hsp] at hx hR
  obtain ⟨s1, k, h1, h2, h3⟩ := atomLane_later (w := w sw d a o) (d := d) (mred := mred) hA hs hsp hacq hrel hk s.nextId
  rw [hi, execLanes_alone hA rfl (wordTrap_plain rfl hx) rfl hR, h3, hop]
  have h4 := h1.accepts s.nextId c u [⟨.mem pa, pl, op (u.x d.toNat), false, if tr then some c.region else none, own⟩]
  rw [accepts_cons s1, accepts_nil] at h4
  exact ⟨_, rfl, LaneAt.goes (R := Beside) (h2.same rfl h2.iss) rfl hA.2.2.2.2.2 rfl fun cs => h4.crews cs⟩

/-- What accepting an atomic that returns a value does. -/
theorem acceptAtom_waits {fn : Nat} (h15 : fn ≠ 15) (s : State) (e : Env) (c : Crew) (u : Thread) (d : BitVec 7) (tag : Nat)
    (tg : Target) (p : Place) (region : Option Nat) (own : Bool) :
    let regs := (List.range (atomSize fn / 4)).map (u.wb + d.toNat + ·)
    let args := atomArgs fn fun j => u.x (d.toNat + j)
    s.acceptAtom e c u fn false d tag tg p region own =
      { accepts (Machine.flies s s ⟨s.nextId, c.uid, u.lane, false, regs.map (·, 0), none, none, true, tg.inMemory⟩) tag c u
          [⟨tg, p, .rmw fn args.1 args.2 s.nextId, false, region, own⟩] with
        crews := (s.onLane c.uid u.lane fun t => { t with pendX := pendAll t.pendX regs (e.pcI u) }).crews } := by
  intro regs args
  have hregs : (if atomSize fn = 8 then [u.wb + d.toNat, u.wb + d.toNat + 1] else [u.wb + d.toNat]) = regs := by
    unfold regs atomSize
    split <;> simp_all [List.range_succ]
  unfold State.acceptAtom
  simp only [Bool.false_eq_true, if_false, h15, hregs]
  rfl

/-- A relaxed atomic that returns a value is accepted (R122, R215, R216). -/
theorem atomWaits_of {i : Atom} {fn k : Nat} {x : Acc1} (w : Bool → BitVec 7 → BitVec 7 → BitVec 7 → Word)
    (hi : ∀ sw d a o s, exec (i sw d a o) s =
      execLanes { word := w sw d a o, sw := sw, ops := atomOps fn d a o } s (atomLane fn false d a o s.nextId))
    (hops : ∀ d a o, ordSpad o = false → atomOps fn d a o = [{ dX d k with mark := fn == 1 }, aX a 2])
    (hacc : atomAcc fn = x) (h15 : fn ≠ 15) : AtomWaits i fn k x := by
  intro sw d a o s c u pa pl tr own hsp hacq hrel ⟨hA, hx, hR⟩ hs hk regs args
  subst hacc
  rw [← hops d a o hsp] at hx hR
  obtain ⟨s1, k, h1, h2, h3⟩ := atomLane_later (w := w sw d a o) (d := d) (mred := false) hA hs hsp hacq hrel hk s.nextId
  have hid : s1.nextId = s.nextId := by rw [h1.1]
  have h4 := (h1.flies ⟨s.nextId, c.uid, u.lane, false, regs.map (·, 0), none, none, true, true⟩).accepts s.nextId c u
    [⟨.mem pa, pl, .rmw fn args.1 args.2 s.nextId, false, if tr then some c.region else none, own⟩]
  rw [hi, execLanes_alone hA rfl (wordTrap_plain rfl hx) rfl hR, h3, acceptAtom_waits h15, hid]
  exact ⟨_, rfl, h2.pends (R := Beside) (regs := regs) (e := ⟨c.uid, w sw d a o, s.iss.guard, c.region⟩) rfl hA.2.2.2.2.2 rfl rfl rfl
    rfl h2.iss fun cs => h4.crews cs⟩

/-! ## The sixteen functions -/

/-- The functions of reductions, on a word (R133, R159). -/
theorem atomNew_red {fn : Nat} (h : fn ≤ 8) (m : Word) (x : Nat → Word) :
    atomNew fn (m.setWidth 64) x = ((redFn fn m (x 0)).1.setWidth 64, (redFn fn m (x 0)).2) := by
  have hargs : (atomArgs fn x).1 = (x 0).setWidth 64 := by
    unfold atomArgs
    split <;> first
      | omega
      | rfl
  unfold atomNew atomFn
  rw [if_pos h, hargs, lo32_setWidth, lo32_setWidth]

/-- Of the reductions only the addition of fp32 raises flags. -/
theorem redFn_flags {fn : Nat} (h : fn ≠ 1) (m v : Word) : (redFn fn m v).2 = 0 := by
  unfold redFn
  split
  case h_2 => exact absurd rfl h
  all_goals rfl

theorem redFn_minS (m v : Word) : redFn 2 m v = (if m.toInt ≤ v.toInt then m else v, 0) := by
  simp only [redFn, setI, BitVec.slt, decide_eq_true_eq, ← Int.not_le, ite_not]

theorem redFn_maxS (m v : Word) : redFn 3 m v = (if m.toInt ≤ v.toInt then v else m, 0) := by
  rcases Int.lt_trichotomy m.toInt v.toInt with h | h | h
  · simp [redFn, setI, BitVec.slt, h, Int.le_of_lt h]
  · simp [redFn, setI, BitVec.slt, BitVec.toInt_inj.mp h]
  · simp [redFn, setI, BitVec.slt, Int.not_lt.2 (Int.le_of_lt h), Int.not_le.2 h]

theorem redFn_minU (m v : Word) : redFn 4 m v = (if m.toNat ≤ v.toNat then m else v, 0) := by
  simp only [redFn, setI, BitVec.lt_def, ← Nat.not_le, ite_not]

theorem redFn_maxU (m v : Word) : redFn 5 m v = (if m.toNat ≤ v.toNat then v else m, 0) := by
  rcases Nat.lt_trichotomy m.toNat v.toNat with h | h | h
  · simp [redFn, setI, BitVec.lt_def, h, Nat.le_of_lt h]
  · simp [redFn, setI, BitVec.toNat_inj.mp h]
  · simp [redFn, setI, BitVec.lt_def, Nat.not_lt.2 (Nat.le_of_lt h), Nat.not_le.2 h]

/-- The operands of an atomic on memory (R87, R215). -/
theorem atomOps_mem {fn k : Nat} (hk : k = if atomOperands fn = 0 then 1 else atomOperands fn) (d a o : BitVec 7)
    (h : ordSpad o = false) : atomOps fn d a o = [{ dX d k with mark := fn == 1 }, aX a 2] := by
  subst hk
  unfold atomOps
  simp only [h, Bool.false_eq_true, if_false]
  split
  · next h1 => subst h1; rfl
  · next h1 => simp [h1, dX]

/-- An atomic with the function of a reduction, or a reduction itself, on memory at once (R215, R218). -/
theorem atomRuns_red {i : Atom} {fn : Nat} {new : Word → (Nat → Word) → Word × Flags} (mred : Bool)
    (w : Bool → BitVec 7 → BitVec 7 → BitVec 7 → Word)
    (hi : ∀ sw d a o s, exec (i sw d a o) s =
      execLanes { word := w sw d a o, sw := sw, ops := atomOps fn d a o } s (atomLane fn mred d a o s.nextId))
    (hfn : fn ≤ 8) (hnew : ∀ m x, redFn fn m (x 0) = new m x) :
    AtomRuns i 1 ⟨.atom, true, true, true, 4⟩ (fn == 1) true (!mred) mred false new := by
  have h14 : fn ≠ 14 ∧ fn ≠ 15 ∧ fn ≠ 11 ∧ fn ≠ 12 ∧ fn ≠ 13 := by omega
  refine atomRuns_of mred w hi (atomOps_mem ?_) (fun o hacq _ => ?_) ?_ ?_ ?_ ?_ (fun m x => ?_) fun m x _ => ?_
  · exact (show ∀ fn, fn ≤ 8 → 1 = if atomOperands fn = 0 then 1 else atomOperands fn by decide) fn hfn
  · cases mred <;> simp_all [semBad]
  · simp [atomSize, h14]
  · simp [atomAcc, atomSize, h14]
  · simp [h14]
  · simp [h14]
  · rw [atomNew_red hfn, hnew, lo32_setWidth]
  · rw [atomNew_red hfn, ← hnew]
    split
    · rfl
    · next h1 => exact redFn_flags h1 _ _

/-- What an exchange, a compare and swap, a load and a store on a word make of it (R215, R216). -/
theorem atomNew_word (m : Word) (x : Nat → Word) :
    atomNew 9 (m.setWidth 64) x = ((x 0).setWidth 64, 0) ∧
      lo32 (atomNew 10 (m.setWidth 64) x).1 = (if m = x 0 then x 1 else m) ∧
      atomNew 14 (m.setWidth 64) x = (m.setWidth 64, 0) ∧ atomNew 15 (m.setWidth 64) x = ((x 0).setWidth 64, 0) := by
  refine ⟨rfl, ?_, rfl, rfl⟩
  simp only [atomNew, atomFn, atomArgs, lo32_setWidth, show ¬10 ≤ 8 by decide, if_false]
  split <;> exact lo32_setWidth _

/-- The semantics that no function but ldx and stx forbids (R159). -/
theorem semBad_plain {fn : Nat} (h14 : fn ≠ 14) (h15 : fn ≠ 15) (o : BitVec 7) : semBad fn false o = false := by
  simp [semBad, h14, h15]

/-- A relaxed stx is accepted as a store of its word. -/
theorem acceptAtom_stx (s : State) (e : Env) (c : Crew) (u : Thread) (d : BitVec 7) (tag : Nat) (tg : Target) (p : Place)
    (region : Option Nat) (own : Bool) : s.acceptAtom e c u 15 false d tag tg p region own =
      s.accept c.uid u.lane tag tg p (.bytes (wordBytes (u.x d.toNat))) false region own := by
  rw [← leBytes_four]
  rfl

/-- Settles O17: `atomRuns_red` for the functions that are reductions too, `atomRuns_of` and `atomRuns8_of` for the others,
and the same atomics accepted and woken for. -/
theorem atomicsOnMemory : Obligations.AtomicsOnMemory :=
  ⟨atomRuns_red (fn := 0) false _ (fun _ _ _ _ _ => rfl) (by decide) fun _ _ => rfl,
    atomRuns_red (fn := 1) false _ (fun _ _ _ _ _ => rfl) (by decide) fun _ _ => rfl,
    atomRuns_red (fn := 2) false _ (fun _ _ _ _ _ => rfl) (by decide) fun m x => redFn_minS m (x 0),
    atomRuns_red (fn := 3) false _ (fun _ _ _ _ _ => rfl) (by decide) fun m x => redFn_maxS m (x 0),
    atomRuns_red (fn := 4) false _ (fun _ _ _ _ _ => rfl) (by decide) fun m x => redFn_minU m (x 0),
    atomRuns_red (fn := 5) false _ (fun _ _ _ _ _ => rfl) (by decide) fun m x => redFn_maxU m (x 0),
    atomRuns_red (fn := 6) false _ (fun _ _ _ _ _ => rfl) (by decide) fun _ _ => rfl,
    atomRuns_red (fn := 7) false _ (fun _ _ _ _ _ => rfl) (by decide) fun _ _ => rfl,
    atomRuns_red (fn := 8) false _ (fun _ _ _ _ _ => rfl) (by decide) fun _ _ => rfl,
    atomRuns_of (fn := 9) false _ (fun _ _ _ _ _ => rfl) (atomOps_mem rfl) (fun o _ _ => semBad_plain (by decide) (by decide) o) rfl rfl (by decide)
      (by decide) (fun m x => by rw [(atomNew_word m x).1, lo32_setWidth]) fun _ _ _ => rfl,
    atomRuns_of (fn := 10) false _ (fun _ _ _ _ _ => rfl) (atomOps_mem rfl) (fun o _ _ => semBad_plain (by decide) (by decide) o) rfl rfl (by decide)
      (by decide) (fun m x => (atomNew_word m x).2.1) fun _ _ _ => rfl,
    atomRuns8_of (fn := 11) _ (fun _ _ _ _ _ => rfl) (atomOps_mem rfl) (.inl rfl) fun _ _ => rfl,
    atomRuns8_of (fn := 12) _ (fun _ _ _ _ _ => rfl) (atomOps_mem rfl) (.inr (.inl rfl)) fun _ _ => rfl,
    atomRuns8_of (fn := 13) _ (fun _ _ _ _ _ => rfl) (atomOps_mem rfl) (.inr (.inr rfl)) fun _ _ => rfl,
    atomRuns_of (fn := 14) false _ (fun _ _ _ _ _ => rfl) (atomOps_mem rfl) (fun o _ h => by simp [semBad, h rfl]) rfl rfl
      (by decide) (by decide) (fun m x => by rw [(atomNew_word m x).2.2.1, lo32_setWidth]) fun _ _ _ => rfl,
    atomRuns_of (fn := 15) false _ (fun _ _ _ _ _ => rfl) (atomOps_mem rfl) (fun o h _ => by simp [semBad, h rfl]) rfl rfl
      (by decide) (by decide) (fun m x => by rw [(atomNew_word m x).2.2.2, lo32_setWidth]) fun _ _ h => absurd h (by decide),
    laterRuns_of (fn := 15) false _ (fun _ _ _ _ _ => rfl) (atomOps_mem rfl) rfl acceptAtom_stx,
    atomWaits_of (fn := 0) _ (fun _ _ _ _ _ => rfl) (atomOps_mem rfl) rfl (by decide),
    atomWaits_of (fn := 1) _ (fun _ _ _ _ _ => rfl) (atomOps_mem rfl) rfl (by decide),
    atomWaits_of (fn := 2) _ (fun _ _ _ _ _ => rfl) (atomOps_mem rfl) rfl (by decide),
    atomWaits_of (fn := 3) _ (fun _ _ _ _ _ => rfl) (atomOps_mem rfl) rfl (by decide),
    atomWaits_of (fn := 4) _ (fun _ _ _ _ _ => rfl) (atomOps_mem rfl) rfl (by decide),
    atomWaits_of (fn := 5) _ (fun _ _ _ _ _ => rfl) (atomOps_mem rfl) rfl (by decide),
    atomWaits_of (fn := 6) _ (fun _ _ _ _ _ => rfl) (atomOps_mem rfl) rfl (by decide),
    atomWaits_of (fn := 7) _ (fun _ _ _ _ _ => rfl) (atomOps_mem rfl) rfl (by decide),
    atomWaits_of (fn := 8) _ (fun _ _ _ _ _ => rfl) (atomOps_mem rfl) rfl (by decide),
    atomWaits_of (fn := 9) _ (fun _ _ _ _ _ => rfl) (atomOps_mem rfl) rfl (by decide),
    atomWaits_of (fn := 10) _ (fun _ _ _ _ _ => rfl) (atomOps_mem rfl) rfl (by decide),
    atomWaits_of (fn := 11) _ (fun _ _ _ _ _ => rfl) (atomOps_mem rfl) rfl (by decide),
    atomWaits_of (fn := 12) _ (fun _ _ _ _ _ => rfl) (atomOps_mem rfl) rfl (by decide),
    atomWaits_of (fn := 13) _ (fun _ _ _ _ _ => rfl) (atomOps_mem rfl) rfl (by decide),
    atomWaits_of (fn := 14) _ (fun _ _ _ _ _ => rfl) (atomOps_mem rfl) rfl (by decide),
    atomWakes_of (fn := 0) false _ (fun _ _ _ _ _ => rfl) (atomOps_mem rfl) (fun o _ _ => semBad_plain (by decide) (by decide) o) (by decide),
    atomWakes_of (fn := 1) false _ (fun _ _ _ _ _ => rfl) (atomOps_mem rfl) (fun o _ _ => semBad_plain (by decide) (by decide) o) (by decide),
    atomWakes_of (fn := 2) false _ (fun _ _ _ _ _ => rfl) (atomOps_mem rfl) (fun o _ _ => semBad_plain (by decide) (by decide) o) (by decide),
    atomWakes_of (fn := 3) false _ (fun _ _ _ _ _ => rfl) (atomOps_mem rfl) (fun o _ _ => semBad_plain (by decide) (by decide) o) (by decide),
    atomWakes_of (fn := 4) false _ (fun _ _ _ _ _ => rfl) (atomOps_mem rfl) (fun o _ _ => semBad_plain (by decide) (by decide) o) (by decide),
    atomWakes_of (fn := 5) false _ (fun _ _ _ _ _ => rfl) (atomOps_mem rfl) (fun o _ _ => semBad_plain (by decide) (by decide) o) (by decide),
    atomWakes_of (fn := 6) false _ (fun _ _ _ _ _ => rfl) (atomOps_mem rfl) (fun o _ _ => semBad_plain (by decide) (by decide) o) (by decide),
    atomWakes_of (fn := 7) false _ (fun _ _ _ _ _ => rfl) (atomOps_mem rfl) (fun o _ _ => semBad_plain (by decide) (by decide) o) (by decide),
    atomWakes_of (fn := 8) false _ (fun _ _ _ _ _ => rfl) (atomOps_mem rfl) (fun o _ _ => semBad_plain (by decide) (by decide) o) (by decide),
    atomWakes_of (fn := 9) false _ (fun _ _ _ _ _ => rfl) (atomOps_mem rfl) (fun o _ _ => semBad_plain (by decide) (by decide) o) (by decide),
    atomWakes_of (fn := 10) false _ (fun _ _ _ _ _ => rfl) (atomOps_mem rfl) (fun o _ _ => semBad_plain (by decide) (by decide) o) (by decide),
    atomWakes_of (fn := 11) false _ (fun _ _ _ _ _ => rfl) (atomOps_mem rfl) (fun o _ _ => semBad_plain (by decide) (by decide) o) (by decide),
    atomWakes_of (fn := 12) false _ (fun _ _ _ _ _ => rfl) (atomOps_mem rfl) (fun o _ _ => semBad_plain (by decide) (by decide) o) (by decide),
    atomWakes_of (fn := 13) false _ (fun _ _ _ _ _ => rfl) (atomOps_mem rfl) (fun o _ _ => semBad_plain (by decide) (by decide) o) (by decide),
    atomWakes_of (fn := 15) false _ (fun _ _ _ _ _ => rfl) (atomOps_mem rfl) (fun o h _ => by simp [semBad, h rfl]) (by decide)⟩

end Sys2Proof.Machine
end


section
/-! # Reductions, and atomics on the scratchpad -/

namespace Sys2Proof.Machine

/-! ## What stands within the changes of an instruction -/

theorem Within.crews {b t : State} (h : Within b t) (cs : List Crew) : Within b { t with crews := cs } := by
  unfold Within at h ⊢
  rw [h]

theorem Within.only {b z t : State} (h : Within b z) (ht : OnlyCrews z t) : Within b t := by
  rw [ht]
  exact h.crews _

theorem Within.flies {b t : State} (h : Within b t) (l : Landing) : Within (flies b b l) (flies t t l) := by
  unfold Within at h
  unfold Within Machine.flies
  rw [h]

theorem Within.accepts {b t : State} (h : Within b t) (tag : Nat) (c : Crew) (u : Thread) (l : List Accepted) :
    Within (accepts b tag c u l) (accepts t tag c u l) := by
  unfold Within at h
  unfold Within Machine.accepts
  rw [h]

/-! ## Scratchpad accesses with semantics -/

/-- A scratchpad access with semantics that passes its checks: the thread stands in the region that it opens. -/
theorem spadAccess_ordered {s : State} {c : Crew} {u : Thread} {pc : Word} {x : Acc1} {a mode scope : Nat} {acq rel : Bool}
    {b : BUnit} {e : Env} (hA : Alone s c u) (he : e.uid = c.uid) (her : e.region = c.region)
    (hk : SpadAccessOk s.issued c u pc x a mode b) (hs : Settled s c u) :
    ∃ s1 k, (∀ go, s.issued.spadAccess c u pc x a mode (fun s => s.order e u.lane acq rel scope) go = go s1 (spadKey mode a)) ∧
      Within s s1 ∧ LaneAt s s1 c u u (c.ordered acq rel) k ∧ ThreadsOf s s1 := by
  obtain ⟨⟨k, hl⟩, hth, o, r, ho⟩ := hA.laneAt.order (e := e) (acq := acq) (rel := rel) (fun _ => by exact hs) he her.symm scope
  refine ⟨_, k, fun go => spadAccess_ok hk (by exact hs) hA.2.2.2.2.2 _ go, ?_, hl, hth⟩
  rw [ho]
  rfl

/-- Mode 0 does not swizzle (R107). -/
theorem spadKey_zero (a : Nat) : spadKey 0 a = a := by
  simp [spadKey, swizzle, Nat.div_add_mod']

/-- What an atomic finds in a scratchpad. -/
def BUnit.oldAt (b : BUnit) (fn key : Nat) : BitVec 64 := BitVec.ofNat 64 (leNat (readBytes b.spad key (atomSize fn)))

theorem spadOld_four {fn : Nat} (h : atomSize fn = 4) (b : BUnit) (key : Nat) :
    b.oldAt fn key = (memWord b.spad key).setWidth 64 := by
  unfold BUnit.oldAt readBytes
  rw [h, leNat_four, BitVec.ofNat_toNat]
  rfl

theorem spadOld_eight {fn : Nat} (h : atomSize fn = 8) (b : BUnit) (key : Nat) :
    b.oldAt fn key = pair64 (memWord b.spad (key + 4)) (memWord b.spad key) := by
  unfold BUnit.oldAt readBytes
  rw [h]
  exact leNat_eight (readB b.spad) key

/-- The block that an update changes, and every other. -/
theorem onUnit_unit (s : State) (uid : Nat) (f : BUnit → BUnit) (hf : ∀ b, (f b).uid = b.uid) :
    (s.onUnit uid f).unit uid = (s.unit uid).map f :=
  find_mapIf _ f (fun x hx => by rw [hf]; exact hx) s.units

theorem onUnit_unit_ne (s : State) (uid v : Nat) (f : BUnit → BUnit) (hf : ∀ b, (f b).uid = b.uid) (hv : v ≠ uid) :
    (s.onUnit uid f).unit v = s.unit v := by
  refine find_mapIf_ne _ _ f (fun x hx => ?_) (fun x hx => ?_) s.units
  · have : x.uid = uid := by simpa using hx
    simp [this, hv.symm]
  · have : x.uid = uid := by simpa using hx
    simp [hf, this, hv.symm]

/-- Bytes written into a block's scratchpad stand there. -/
theorem writeKeys_stored {s : State} {uid : Nat} {b : BUnit} (hb : s.unit uid = some b) (hw : Memory.wf b.spad = true)
    (key : Nat) (l : List Byte) : SpadStored s (s.onUnit uid fun x => x.writeKeys key l) b key l := by
  have hid : b.uid = uid := by simpa using List.find?_some hb
  refine ⟨⟨b.writeKeys key l, ?_, rfl, fun i hi => ?_, fun a ha => readB_writeBytes_outside l ha, rfl⟩, fun v hv => ?_⟩
  · rw [hid, onUnit_unit s uid (fun x => x.writeKeys key l) fun _ => rfl, hb]
    rfl
  · rw [getD_listed _ hi]
    exact readB_writeBytes_inside l hw i hi
  · exact onUnit_unit_ne s uid v (fun x => x.writeKeys key l) (fun _ => rfl) (hid ▸ hv)

/-- What is stored in a scratchpad is told by the blocks alone. -/
theorem SpadStored.congr {s s' t t' : State} {b : BUnit} {key : Nat} {l : List Byte} (h : SpadStored s t b key l)
    (hs : s'.units = s.units) (ht : t'.units = t.units) : SpadStored s' t' b key l := by
  unfold SpadStored State.unit
  rw [hs, ht]
  exact h

/-- An atomic of a lone thread on a scratchpad word that acquires or releases (R159, R213, R215). -/
theorem spadAtom_runs {s : State} {c : Crew} {u : Thread} {w : Word} {fn : Nat} {sw : Bool} {d a o : BitVec 7} {b : BUnit}
    (ha : AloneReady s c u sw (atomOps fn d a o)) (hs : Settled s c u)
    (hsem : semBad fn false o = false) (hw : s.relWaits c.uid u.lane (ordRel o) (ordScope o) = false)
    (hsp : ordSpad o = true) (hnow : (ordAcq o || ordRel o) = true) (hm : Memory.wf b.spad = true)
    (hk : SpadAccessOk s.issued c u (s.issPc u) (atomAcc fn) (u.x a.toNat).toNat 0 b)
    (hn : NoMonitor s (.spad c.unit (u.x a.toNat).toNat) (atomSize fn)) :
    let key := (u.x a.toNat).toNat
    let old := b.oldAt fn key
    let r := atomNew fn old fun j => u.x (d.toNat + j)
    ∃ t, execLanes { word := w, sw := sw, ops := atomOps fn d a o } s (atomLane fn false d a o s.nextId) = .next t ∧
      (if false = true ∨ fn = 15 then Goes s { s with units := t.units } t c u u (c.after o)
        else Lands s { s with units := t.units } t c u (if fn = 1 then u.flag r.2 else u) (c.after o)
          (destVals (u.wb + d.toNat) (if atomSize fn = 8 then [lo32 old, hi32 old] else [lo32 old]))) ∧
      (if fn = 14 then t.units = s.units else SpadStored s t b key (leBytes (atomSize fn) r.1.toNat)) := by
  intro key old r
  obtain ⟨hA, hx, hR⟩ := ha
  have hb : s.issued.unit c.unit = some b := hk.2.2.1
  obtain ⟨s1, k, h1, h2, h3, h4⟩ := spadAccess_ordered (scope := ordScope o) (acq := ordAcq o) (rel := ordRel o)
    (e := ⟨c.uid, w, s.iss.guard, c.region⟩) hA rfl rfl hk hs
  have hs1 : Settled s1 c u := hs.congr (by rw [h2]) (by rw [h2])
  have hread : s1.loadT (.spad c.unit key) (atomSize fn) = readBytes b.spad key (atomSize fn) := by
    have : s1.unit c.unit = some b := by
      unfold State.unit
      rw [h2]
      exact hb
    simp [State.loadT, this]
  have hlater : atomLater o = false := by simpa using atomLater_now (so := false) (by simpa using hnow)
  have hlane : atomLane fn false d a o s.nextId ⟨c.uid, w, s.iss.guard, c.region⟩ c u s.issued =
      ((if fn = 14 then s1 else s1.onUnit c.unit fun x => x.writeKeys key (leBytes (atomSize fn) r.1.toNat)).atomReturn
        ⟨c.uid, w, s.iss.guard, c.region⟩ c u fn false d old r.2 false, .done) := by
    have hwrite : s1.performAt (.spad c.unit key) (.spad c.unit key) (leBytes (atomSize fn) r.1.toNat) =
        s1.onUnit c.unit fun x => x.writeKeys key (leBytes (atomSize fn) r.1.toNat) := by
      unfold State.performAt
      rw [leBytes_length, wakeRange_none (by exact h4.noMonitor hn)]
      rfl
    unfold atomLane
    simp only [hsem, hsp, show s.issued.relWaits c.uid u.lane (ordRel o) (ordScope o) = false from hw, Bool.false_eq_true, if_false,
      if_true]
    rw [show Env.pcI ⟨c.uid, w, s.iss.guard, c.region⟩ u = s.issPc u from rfl, h1]
    simp only [hlater, Bool.or_self, Bool.false_eq_true, if_false, State.spadRead, spadKey_zero, drainFor_settled hs1]
    rw [← hwrite, hread]
    rfl
  rw [execLanes_alone hA rfl (wordTrap_plain rfl hx) rfl hR, hlane]
  generalize hz : (if fn = 14 then s1 else s1.onUnit c.unit fun x => x.writeKeys _ (leBytes (atomSize fn) r.1.toNat)) = z
  have hzs : z = { s1 with units := z.units } := by
    rw [← hz]
    split <;> rfl
  have hl : LaneAt s z c u u (c.after o) k := h3.same (by rw [hzs]) (by rw [hzs]; exact h3.iss)
  have hret := hl.returns (e := ⟨c.uid, w, s.iss.guard, c.region⟩) rfl hA.2.2.2.2.2 rfl rfl (by rw [hzs, h2]) (by rw [hzs, h2])
    fn false false d old r.2
  refine ⟨_, rfl, ?_⟩
  generalize (closeLane _ u _).settle c.uid = t at hret ⊢
  have hbz : Within { s with units := z.units } z := by
    unfold Within
    rw [hzs, h2]
  have hst : if fn = 14 then z.units = s.units else SpadStored s z b key (leBytes (atomSize fn) r.1.toNat) := by
    rw [← hz]
    split
    · rw [h2]
    · refine (writeKeys_stored (s := s.issued) hb hm _ _).congr rfl ?_
      rw [h2]
      rfl
  have hu : t.units = z.units := by
    split at hret <;> rw [hret.2]
    rfl
  rw [hu]
  refine ⟨returns_mono (by rw [hzs, h2]) (by rw [hzs, h2]) rfl rfl hret hbz.only fun l => (hbz.flies l).only, ?_⟩
  split at hst
  · next hc => rw [if_pos hc]; exact hst
  · next hc => rw [if_neg hc]; exact hst.congr rfl hu

/-- An atomic on a word of the scratchpad (R213, R215). -/
theorem spadAtomRuns_of {i : Atom} {fn k : Nat} {x : Acc1} {fp wr ret noAcq noRel : Bool}
    {new : Word → (Nat → Word) → Word × Flags} (w : Bool → BitVec 7 → BitVec 7 → BitVec 7 → Word)
    (hi : ∀ sw d a o s, exec (i sw d a o) s =
      execLanes { word := w sw d a o, sw := sw, ops := atomOps fn d a o } s (atomLane fn false d a o s.nextId))
    (hops : ∀ d a o, ordSpad o = true → atomOps fn d a o = [{ dX d k with mark := fp }, aX a 1])
    (hsem : ∀ o, (noAcq = true → ordAcq o = false) → (noRel = true → ordRel o = false) → semBad fn false o = false)
    (h4 : atomSize fn = 4) (hacc : atomAcc fn = x) (hret : ret = true ↔ ¬(false = true ∨ fn = 15)) (hwr : wr = true ↔ fn ≠ 14)
    (hval : ∀ m x, lo32 (atomNew fn (m.setWidth 64) x).1 = (new m x).1)
    (hfl : ∀ m x, ret = true → (new m x).2 = if fn = 1 then (atomNew fn (m.setWidth 64) x).2 else 0) :
    SpadAtomRuns i k x fp wr ret noAcq noRel new := by
  intro sw d a o s c u b hsp hnow ha ⟨hacq, hrel, hw, hs, _⟩ hm hk hn key r
  subst hacc
  rw [← hops d a o hsp] at ha
  obtain ⟨t, h1, h2, h3⟩ := spadAtom_runs (w := w sw d a o) ha hs (hsem o hacq hrel) hw hsp hnow hm hk (by rw [h4]; exact hn)
  rw [spadOld_four h4] at h2 h3
  refine ⟨t, (hi sw d a o s).trans h1, returns_word h4 hret (hfl _ _) h2, ?_⟩
  cases hw' : wr
  · rw [if_pos (by simpa [hw'] using hwr)] at h3
    exact h3
  · rw [if_neg (hwr.mp hw'), h4, leBytes_lo, hval] at h3
    exact h3

/-- An atomic on eight bytes of the scratchpad (R213, R215). -/
theorem spadAtomRuns8_of {i : Atom} {fn k : Nat} {new : BitVec 64 → (Nat → Word) → BitVec 64}
    (w : Bool → BitVec 7 → BitVec 7 → BitVec 7 → Word)
    (hi : ∀ sw d a o s, exec (i sw d a o) s =
      execLanes { word := w sw d a o, sw := sw, ops := atomOps fn d a o } s (atomLane fn false d a o s.nextId))
    (hops : ∀ d a o, ordSpad o = true → atomOps fn d a o = [dX d k, aX a 1])
    (h8 : fn = 11 ∨ fn = 12 ∨ fn = 13) (hval : ∀ m x, (atomNew fn m x).1 = new m x) : SpadAtomRuns8 i k new := by
  intro sw d a o s c u b hsp hnow ha ⟨_, _, hw, hs, _⟩ hm hk hn key old v
  have hsize : atomSize fn = 8 := by rcases h8 with rfl | rfl | rfl <;> rfl
  have hacc : atomAcc fn = ⟨.atom, true, true, true, 8⟩ := by rcases h8 with rfl | rfl | rfl <;> rfl
  have hne : fn ≠ 15 ∧ fn ≠ 1 ∧ fn ≠ 14 := by omega
  rw [← hops d a o hsp] at ha
  rw [← hacc] at hk
  obtain ⟨t, h1, h2, h3⟩ := spadAtom_runs (w := w sw d a o) ha hs (semBad_plain (by omega) (by omega) o) hw hsp hnow hm hk
    (by rw [hsize]; exact hn)
  simp only [hne, hsize, Bool.false_eq_true, or_self, if_false, if_true, spadOld_eight hsize, lo32_pair64, hi32_pair64,
    leBytes_eight, hval] at h2 h3
  exact ⟨t, (hi sw d a o s).trans h1, h2, h3⟩

/-- A reduction, or a relaxed atomic, of a lone thread on the scratchpad is accepted (R209, R213). -/
theorem spadAtom_later {s : State} {c : Crew} {u : Thread} {w : Word} {fn : Nat} {mred : Bool} {d a o : BitVec 7} {b : BUnit}
    (hA : Alone s c u) (hs : Settled s c u) (hsp : ordSpad o = true) (hlater : mred = true ∨ atomLater o = true)
    (hsem : semBad fn mred o = false) (hw : s.relWaits c.uid u.lane (ordRel o) (ordScope o) = false)
    (hk : SpadAccessOk s.issued c u (s.issPc u) (atomAcc fn) (u.x a.toNat).toNat 0 b) (tag : Nat) :
    ∃ s1 k, Within s s1 ∧ LaneAt s s1 c u u (c.after o) k ∧
      atomLane fn mred d a o tag ⟨c.uid, w, s.iss.guard, c.region⟩ c u s.issued =
        (s1.acceptAtom ⟨c.uid, w, s.iss.guard, c.region⟩ c u fn mred d tag (.spad c.unit (u.x a.toNat).toNat)
          (.spad c.unit (u.x a.toNat).toNat) none true, .done) := by
  obtain ⟨s1, k, h1, h2, h3, -⟩ := spadAccess_ordered (scope := ordScope o) (acq := ordAcq o) (rel := ordRel o)
    (e := ⟨c.uid, w, s.iss.guard, c.region⟩) hA rfl rfl hk hs
  have hs1 : Settled s1 c u := hs.congr (by rw [h2]) (by rw [h2])
  refine ⟨s1, k, h2, h3, ?_⟩
  unfold atomLane
  simp only [hsem, hsp, show s.issued.relWaits c.uid u.lane (ordRel o) (ordScope o) = false from hw, Bool.false_eq_true, if_false,
    if_true]
  rw [show Env.pcI ⟨c.uid, w, s.iss.guard, c.region⟩ u = s.issPc u from rfl, h1]
  simp only [Bool.or_eq_true, hlater, if_true, spadKey_zero]
  rw [landRows_settled hs1 fun l hl => by simp_all]

/-- A reduction, or a relaxed store, on the scratchpad is accepted (R209, R218). -/
theorem spadLaterRuns_of {i : Atom} {fn : Nat} {fp relaxed : Bool} {op : Word → StoreOp} (mred : Bool)
    (w : Bool → BitVec 7 → BitVec 7 → BitVec 7 → Word)
    (hi : ∀ sw d a o s, exec (i sw d a o) s =
      execLanes { word := w sw d a o, sw := sw, ops := atomOps fn d a o } s (atomLane fn mred d a o s.nextId))
    (hops : ∀ d a o, ordSpad o = true → atomOps fn d a o = [{ dX d 1 with mark := fp }, aX a 1])
    (hacc : atomAcc fn = ⟨.atom, true, true, true, 4⟩)
    (hlater : ∀ o, ordAcq o = false → (relaxed = true → ordRel o = false) → mred = true ∨ atomLater o = true)
    (hsem : ∀ o, ordAcq o = false → semBad fn mred o = false)
    (hop : ∀ (s : State) e c u d tag tg p region own, s.acceptAtom e c u fn mred d tag tg p region own =
      s.accept c.uid u.lane tag tg p (op (u.x d.toNat)) false region own) : SpadLaterRuns i fp relaxed op := by
  intro sw d a o s c u b hsp hrx ⟨hA, hx, hR⟩ ⟨hacq, _, hw, hs, _⟩ hk key
  rw [← hacc] at hk
  rw [← hops d a o hsp] at hx hR
  obtain ⟨s1, k, h1, h2, h3⟩ := spadAtom_later (w := w sw d a o) (d := d) (mred := mred) hA hs hsp (hlater o (hacq rfl) hrx)
    (hsem o (hacq rfl)) hw hk s.nextId
  rw [hi, execLanes_alone hA rfl (wordTrap_plain rfl hx) rfl hR, h3, hop]
  have h4 := h1.accepts s.nextId c u [⟨.spad c.unit key, .spad c.unit key, op (u.x d.toNat), false, none, true⟩]
  rw [accepts_cons s1, accepts_nil] at h4
  exact ⟨_, rfl, LaneAt.goes (R := Within) (h2.same rfl h2.iss) rfl hA.2.2.2.2.2 rfl fun cs => h4.crews cs⟩

/-- A relaxed atomic on the scratchpad that returns a value is accepted (R122, R159, R215). -/
theorem spadAtomWaits_of {i : Atom} {fn k : Nat} {x : Acc1} (w : Bool → BitVec 7 → BitVec 7 → BitVec 7 → Word)
    (hi : ∀ sw d a o s, exec (i sw d a o) s =
      execLanes { word := w sw d a o, sw := sw, ops := atomOps fn d a o } s (atomLane fn false d a o s.nextId))
    (hops : ∀ d a o, ordSpad o = true → atomOps fn d a o = [{ dX d k with mark := fn == 1 }, aX a 1])
    (hacc : atomAcc fn = x) (h15 : fn ≠ 15) : SpadAtomWaits i fn k x := by
  intro sw d a o s c u b hsp hacq hrel ⟨hA, hx, hR⟩ hs hk key regs args
  subst hacc
  rw [← hops d a o hsp] at hx hR
  obtain ⟨s1, k, h1, h2, h3⟩ := spadAtom_later (w := w sw d a o) (d := d) (mred := false) hA hs hsp
    (.inr (by rw [atomLater, hacq, hrel]; rfl)) (by simp [semBad, hacq, hrel]) (by simp [State.relWaits, hrel]) hk s.nextId
  have hid : s1.nextId = s.nextId := by rw [h1]
  have hafter : c.after o = c := by
    unfold Crew.after
    rw [hacq, hrel]
    rfl
  rw [hafter] at h2
  have h4 := (h1.flies ⟨s.nextId, c.uid, u.lane, false, regs.map (·, 0), none, none, true, false⟩).accepts s.nextId c u
    [⟨.spad c.unit key, .spad c.unit key, .rmw fn args.1 args.2 s.nextId, false, none, true⟩]
  rw [hi, execLanes_alone hA rfl (wordTrap_plain rfl hx) rfl hR, h3, acceptAtom_waits h15, hid]
  exact ⟨_, rfl, h2.pends (R := Within) (regs := regs) (e := ⟨c.uid, w sw d a o, s.iss.guard, c.region⟩) rfl hA.2.2.2.2.2 rfl rfl rfl
    rfl h2.iss fun cs => h4.crews cs⟩

/-- The operands of an atomic on the scratchpad (R87, R215). -/
theorem atomOps_spad {fn k : Nat} (hk : k = if atomOperands fn = 0 then 1 else atomOperands fn) (d a o : BitVec 7)
    (h : ordSpad o = true) : atomOps fn d a o = [{ dX d k with mark := fn == 1 }, aX a 1] := by
  subst hk
  unfold atomOps
  simp only [h, if_true]
  split
  · next h1 => subst h1; rfl
  · next h1 => simp [h1, dX]

/-- An atomic with the function of a reduction on the scratchpad (R215). -/
theorem spadAtomRuns_red {i : Atom} {fn : Nat} {new : Word → (Nat → Word) → Word × Flags}
    (w : Bool → BitVec 7 → BitVec 7 → BitVec 7 → Word)
    (hi : ∀ sw d a o s, exec (i sw d a o) s =
      execLanes { word := w sw d a o, sw := sw, ops := atomOps fn d a o } s (atomLane fn false d a o s.nextId))
    (hfn : fn ≤ 8) (hnew : ∀ m x, redFn fn m (x 0) = new m x) :
    SpadAtomRuns i 1 ⟨.atom, true, true, true, 4⟩ (fn == 1) true true false false new := by
  have h14 : fn ≠ 14 ∧ fn ≠ 15 ∧ fn ≠ 11 ∧ fn ≠ 12 ∧ fn ≠ 13 := by omega
  refine spadAtomRuns_of w hi (atomOps_spad ?_) (fun o _ _ => semBad_plain h14.1 h14.2.1 o) ?_ ?_ ?_ ?_ (fun m x => ?_) fun m x _ => ?_
  · exact (show ∀ fn, fn ≤ 8 → 1 = if atomOperands fn = 0 then 1 else atomOperands fn by decide) fn hfn
  · simp [atomSize, h14]
  · simp [atomAcc, atomSize, h14]
  · simp [h14]
  · simp [h14]
  · rw [atomNew_red hfn, hnew, lo32_setWidth]
  · rw [atomNew_red hfn, ← hnew]
    split
    · rfl
    · next h1 => exact redFn_flags h1 _ _

/-- Settles O18: `spadAtomRuns_red` for the functions that are reductions too, `spadAtomRuns_of` and `spadAtomRuns8_of` for the
others, and the same atomics accepted. -/
theorem atomicsOnScratchpad : Obligations.AtomicsOnScratchpad :=
  ⟨spadAtomRuns_red (fn := 0) _ (fun _ _ _ _ _ => rfl) (by decide) fun _ _ => rfl,
    spadAtomRuns_red (fn := 1) _ (fun _ _ _ _ _ => rfl) (by decide) fun _ _ => rfl,
    spadAtomRuns_red (fn := 2) _ (fun _ _ _ _ _ => rfl) (by decide) fun m x => redFn_minS m (x 0),
    spadAtomRuns_red (fn := 3) _ (fun _ _ _ _ _ => rfl) (by decide) fun m x => redFn_maxS m (x 0),
    spadAtomRuns_red (fn := 4) _ (fun _ _ _ _ _ => rfl) (by decide) fun m x => redFn_minU m (x 0),
    spadAtomRuns_red (fn := 5) _ (fun _ _ _ _ _ => rfl) (by decide) fun m x => redFn_maxU m (x 0),
    spadAtomRuns_red (fn := 6) _ (fun _ _ _ _ _ => rfl) (by decide) fun _ _ => rfl,
    spadAtomRuns_red (fn := 7) _ (fun _ _ _ _ _ => rfl) (by decide) fun _ _ => rfl,
    spadAtomRuns_red (fn := 8) _ (fun _ _ _ _ _ => rfl) (by decide) fun _ _ => rfl,
    spadAtomRuns_of (fn := 9) _ (fun _ _ _ _ _ => rfl) (atomOps_spad rfl) (fun o _ _ => semBad_plain (by decide) (by decide) o) rfl rfl (by decide)
      (by decide) (fun m x => by rw [(atomNew_word m x).1, lo32_setWidth]) fun _ _ _ => rfl,
    spadAtomRuns_of (fn := 10) _ (fun _ _ _ _ _ => rfl) (atomOps_spad rfl) (fun o _ _ => semBad_plain (by decide) (by decide) o) rfl rfl (by decide)
      (by decide) (fun m x => (atomNew_word m x).2.1) fun _ _ _ => rfl,
    spadAtomRuns8_of (fn := 11) _ (fun _ _ _ _ _ => rfl) (atomOps_spad rfl) (.inl rfl) fun _ _ => rfl,
    spadAtomRuns8_of (fn := 12) _ (fun _ _ _ _ _ => rfl) (atomOps_spad rfl) (.inr (.inl rfl)) fun _ _ => rfl,
    spadAtomRuns8_of (fn := 13) _ (fun _ _ _ _ _ => rfl) (atomOps_spad rfl) (.inr (.inr rfl)) fun _ _ => rfl,
    spadAtomRuns_of (fn := 14) _ (fun _ _ _ _ _ => rfl) (atomOps_spad rfl) (fun o _ h => by simp [semBad, h rfl]) rfl rfl
      (by decide) (by decide) (fun m x => by rw [(atomNew_word m x).2.2.1, lo32_setWidth]) fun _ _ _ => rfl,
    spadAtomRuns_of (fn := 15) _ (fun _ _ _ _ _ => rfl) (atomOps_spad rfl) (fun o h _ => by simp [semBad, h rfl]) rfl rfl
      (by decide) (by decide) (fun m x => by rw [(atomNew_word m x).2.2.2, lo32_setWidth]) fun _ _ h => absurd h (by decide),
    spadLaterRuns_of (fn := 15) false _ (fun _ _ _ _ _ => rfl) (atomOps_spad rfl) rfl
      (fun o ha hr => .inr (by rw [atomLater, ha, hr rfl]; rfl)) (fun o ha => by simp [semBad, ha]) acceptAtom_stx,
    spadAtomWaits_of (fn := 0) _ (fun _ _ _ _ _ => rfl) (atomOps_spad rfl) rfl (by decide),
    spadAtomWaits_of (fn := 1) _ (fun _ _ _ _ _ => rfl) (atomOps_spad rfl) rfl (by decide),
    spadAtomWaits_of (fn := 2) _ (fun _ _ _ _ _ => rfl) (atomOps_spad rfl) rfl (by decide),
    spadAtomWaits_of (fn := 3) _ (fun _ _ _ _ _ => rfl) (atomOps_spad rfl) rfl (by decide),
    spadAtomWaits_of (fn := 4) _ (fun _ _ _ _ _ => rfl) (atomOps_spad rfl) rfl (by decide),
    spadAtomWaits_of (fn := 5) _ (fun _ _ _ _ _ => rfl) (atomOps_spad rfl) rfl (by decide),
    spadAtomWaits_of (fn := 6) _ (fun _ _ _ _ _ => rfl) (atomOps_spad rfl) rfl (by decide),
    spadAtomWaits_of (fn := 7) _ (fun _ _ _ _ _ => rfl) (atomOps_spad rfl) rfl (by decide),
    spadAtomWaits_of (fn := 8) _ (fun _ _ _ _ _ => rfl) (atomOps_spad rfl) rfl (by decide),
    spadAtomWaits_of (fn := 9) _ (fun _ _ _ _ _ => rfl) (atomOps_spad rfl) rfl (by decide),
    spadAtomWaits_of (fn := 10) _ (fun _ _ _ _ _ => rfl) (atomOps_spad rfl) rfl (by decide),
    spadAtomWaits_of (fn := 11) _ (fun _ _ _ _ _ => rfl) (atomOps_spad rfl) rfl (by decide),
    spadAtomWaits_of (fn := 12) _ (fun _ _ _ _ _ => rfl) (atomOps_spad rfl) rfl (by decide),
    spadAtomWaits_of (fn := 13) _ (fun _ _ _ _ _ => rfl) (atomOps_spad rfl) rfl (by decide),
    spadAtomWaits_of (fn := 14) _ (fun _ _ _ _ _ => rfl) (atomOps_spad rfl) rfl (by decide)⟩

/-! ## Reductions -/

/-- A reduction permits a release alone (R217). -/
theorem semBad_mred {fn : Nat} (h14 : fn ≠ 14) {o : BitVec 7} (h : ordAcq o = false) : semBad fn true o = false := by
  simp [semBad, h14, h]

/-- A relaxed reduction on memory, and any on the scratchpad, is accepted. -/
theorem mredLater_of {i : Atom} {fn : Nat} (w : Bool → BitVec 7 → BitVec 7 → BitVec 7 → Word)
    (hi : ∀ sw d a o s, exec (i sw d a o) s =
      execLanes { word := w sw d a o, sw := sw, ops := atomOps fn d a o } s (atomLane fn true d a o s.nextId))
    (hfn : fn ≤ 8) : LaterRuns i (fn == 1) (.red fn) ∧ SpadLaterRuns i (fn == 1) false (.red fn) := by
  have hk : 1 = if atomOperands fn = 0 then 1 else atomOperands fn :=
    (show ∀ fn, fn ≤ 8 → 1 = if atomOperands fn = 0 then 1 else atomOperands fn by decide) fn hfn
  have hacc : atomAcc fn = ⟨.atom, true, true, true, 4⟩ := by
    have h14 : fn ≠ 14 ∧ fn ≠ 15 ∧ fn ≠ 11 ∧ fn ≠ 12 ∧ fn ≠ 13 := by omega
    simp [atomAcc, atomSize, h14]
  exact ⟨laterRuns_of true w hi (atomOps_mem hk) hacc fun _ _ _ _ _ _ _ _ _ _ => rfl,
    spadLaterRuns_of true w hi (atomOps_spad hk) hacc (fun _ _ _ => .inl rfl) (fun _ h => semBad_mred (by omega) h)
      fun _ _ _ _ _ _ _ _ _ _ => rfl⟩

/-- Settles O19: each reduction at once by `atomRuns_red`, later by `mredLater_of`, woken for by `atomWakes_of`. -/
theorem reductions : Obligations.Reductions :=
  ⟨atomRuns_red (fn := 0) true _ (fun _ _ _ _ _ => rfl) (by decide) fun _ _ => rfl,
    atomRuns_red (fn := 1) true _ (fun _ _ _ _ _ => rfl) (by decide) fun _ _ => rfl,
    atomRuns_red (fn := 2) true _ (fun _ _ _ _ _ => rfl) (by decide) fun m x => redFn_minS m (x 0),
    atomRuns_red (fn := 3) true _ (fun _ _ _ _ _ => rfl) (by decide) fun m x => redFn_maxS m (x 0),
    atomRuns_red (fn := 4) true _ (fun _ _ _ _ _ => rfl) (by decide) fun m x => redFn_minU m (x 0),
    atomRuns_red (fn := 5) true _ (fun _ _ _ _ _ => rfl) (by decide) fun m x => redFn_maxU m (x 0),
    atomRuns_red (fn := 6) true _ (fun _ _ _ _ _ => rfl) (by decide) fun _ _ => rfl,
    atomRuns_red (fn := 7) true _ (fun _ _ _ _ _ => rfl) (by decide) fun _ _ => rfl,
    atomRuns_red (fn := 8) true _ (fun _ _ _ _ _ => rfl) (by decide) fun _ _ => rfl,
    mredLater_of (fn := 0) _ (fun _ _ _ _ _ => rfl) (by decide),
    mredLater_of (fn := 1) _ (fun _ _ _ _ _ => rfl) (by decide),
    mredLater_of (fn := 2) _ (fun _ _ _ _ _ => rfl) (by decide),
    mredLater_of (fn := 3) _ (fun _ _ _ _ _ => rfl) (by decide),
    mredLater_of (fn := 4) _ (fun _ _ _ _ _ => rfl) (by decide),
    mredLater_of (fn := 5) _ (fun _ _ _ _ _ => rfl) (by decide),
    mredLater_of (fn := 6) _ (fun _ _ _ _ _ => rfl) (by decide),
    mredLater_of (fn := 7) _ (fun _ _ _ _ _ => rfl) (by decide),
    mredLater_of (fn := 8) _ (fun _ _ _ _ _ => rfl) (by decide),
    atomWakes_of (fn := 0) true _ (fun _ _ _ _ _ => rfl) (atomOps_mem rfl) (fun o h _ => semBad_mred (by decide) (h rfl)) (by decide),
    atomWakes_of (fn := 1) true _ (fun _ _ _ _ _ => rfl) (atomOps_mem rfl) (fun o h _ => semBad_mred (by decide) (h rfl)) (by decide),
    atomWakes_of (fn := 2) true _ (fun _ _ _ _ _ => rfl) (atomOps_mem rfl) (fun o h _ => semBad_mred (by decide) (h rfl)) (by decide),
    atomWakes_of (fn := 3) true _ (fun _ _ _ _ _ => rfl) (atomOps_mem rfl) (fun o h _ => semBad_mred (by decide) (h rfl)) (by decide),
    atomWakes_of (fn := 4) true _ (fun _ _ _ _ _ => rfl) (atomOps_mem rfl) (fun o h _ => semBad_mred (by decide) (h rfl)) (by decide),
    atomWakes_of (fn := 5) true _ (fun _ _ _ _ _ => rfl) (atomOps_mem rfl) (fun o h _ => semBad_mred (by decide) (h rfl)) (by decide),
    atomWakes_of (fn := 6) true _ (fun _ _ _ _ _ => rfl) (atomOps_mem rfl) (fun o h _ => semBad_mred (by decide) (h rfl)) (by decide),
    atomWakes_of (fn := 7) true _ (fun _ _ _ _ _ => rfl) (atomOps_mem rfl) (fun o h _ => semBad_mred (by decide) (h rfl)) (by decide),
    atomWakes_of (fn := 8) true _ (fun _ _ _ _ _ => rfl) (atomOps_mem rfl) (fun o h _ => semBad_mred (by decide) (h rfl)) (by decide)⟩

end Sys2Proof.Machine
end


section
/-! # Fences, monitors and barriers -/

namespace Sys2Proof.Machine

/-- An instruction that a drip may not execute raises no trap of the word checks elsewhere (R162). -/
theorem wordTrap_noDrip {e : Env} {f : Form} {c : Crew} {t : Thread} (h : { f with drip := true }.plain = true)
    (hd : c.drip = none) : wordTrap e f c t = none := by
  have hw := wordTrap_plain (e := e) (c := c) (t := t) h (.inl hd)
  unfold wordTrap at hw ⊢
  simpa [hd] using hw

/-- A word read from physical memory. -/
theorem wordAt_loadPA (s : State) (pa : Nat) : wordAt (s.loadPA pa 4) 0 = s.wordPA pa := ofNat_leNat_four _ _ _ _

/-- A word read from a scratchpad. -/
theorem wordAt_readBytes (m : Memory) (a : Nat) : wordAt (readBytes m a 4) 0 = memWord m a := ofNat_leNat_four _ _ _ _

/-- A fence (R219). -/
theorem fence_goes {sw : Bool} {k : BitVec 3} {e : BitVec 2} {s : State} {c : Crew} {u : Thread} (he : e ≠ 0)
    (ha : AloneReady s c u sw []) (hs : Settled s c u) (hw : s.relWaits c.uid u.lane (semRel e) k.toNat = false) :
    ∃ t, exec (.fence sw k e) s = .next t ∧ Goes s s t c u u { c with region := c.region + 1 } := by
  obtain ⟨hA, hx, hR⟩ := ha
  have hsem : (semAcq e || semRel e) = true := by
    have : ∀ e : BitVec 2, e ≠ 0 → (semAcq e || semRel e) = true := by decide
    exact this e he
  obtain ⟨⟨d, hl⟩, -, o, r, ho⟩ := hA.laneAt.order
    (e := ⟨c.uid, encRRR sw 47#6 0#4 0#7 0#7 (k ++ e ++ 0#2), s.iss.guard, c.region⟩) (acq := semAcq e) (rel := semRel e)
    (fun _ => by exact hs) rfl rfl k.toNat
  rw [show exec (.fence sw k e) s = execFence sw k e s from rfl]
  unfold execFence
  rw [execLanes_alone hA rfl (wordTrap_plain rfl hx) rfl hR]
  simp only [he, if_false, show s.issued.relWaits c.uid u.lane (semRel e) k.toNat = false from hw, Bool.false_eq_true]
  rw [Crew.ordered, if_pos hsem] at hl
  refine ⟨_, rfl, hl.goes (R := Within) rfl hA.2.2.2.2.2 rfl fun cs => ?_⟩
  rw [ho]
  rfl

/-- A wake of a lone thread once its place is known: `z` is the state in which it is found. -/
theorem wakes_place {s z : State} {c : Crew} {u : Thread} {e : Env} {scope : Nat} {p : Place} (hA : Alone s c u)
    (he : e.uid = c.uid) (her : e.region = c.region) (heg : e.guard = s.iss.guard)
    (hz : LaneAt s z c u u c c) (hzc : z.crews = s.crews) (hzs : Settled z c u) :
    let t := (closeLane e u ((z.order e u.lane false true scope).wakeRange p 4, .done)).settle c.uid
    Woken s t c.uid u.lane p 4 ∧ (NoMonitor s p 4 → ∃ o r, LaneBecomes s t c u { u with pc := nextPc s u }
      { c with region := c.region + 1 } ∧ t = { z with crews := t.crews, older := o, recs := r }) := by
  intro t
  obtain ⟨⟨d, hl⟩, hth, o, r, ho⟩ := hz.order (e := e) (acq := false) (rel := true) (fun _ => hzs) he her.symm scope
  obtain ⟨v, d', hv⟩ := hl.woken hA.crew hA.2.2.2.2.2 p 4
  refine ⟨hv.done he, fun hn => ⟨o, r, ?_⟩⟩
  have hn' : NoMonitor (z.order e u.lane false true scope) p 4 := hth.noMonitor (by unfold NoMonitor; rw [hzc]; exact hn)
  simp only [t, wakeRange_none hn']
  obtain ⟨h1, h2⟩ := hl.done he hA.2.2.2.2.2
  refine ⟨?_, ?_⟩
  · have hnext : e.next u = nextPc s u := by
      unfold Env.next Env.pcI nextPc State.issPc
      rw [heg]
    rw [hnext] at h1
    exact h1
  · rw [h2, ho]

/-- A wake of memory (R222). -/
theorem wake_mem {sw : Bool} {a : BitVec 7} {k : BitVec 3} {s : State} {c : Crew} {u : Thread} {d : Dest}
    (ha : AloneReady s c u sw [aX a 2]) (hs : Settled s c u) (hw : s.relWaits c.uid u.lane true k.toNat = false)
    (hm : s.matrixWait c.uid u.lane = false) (h4 : (u.x64 a.toNat).toNat % 4 = 0) (h56 : (u.x64 a.toNat).toNat < 2 ^ 56)
    (hd : (s.issued.resolve c.world c.core .wake (u.x64 a.toNat).toNat 4).2 = .go d) :
    ∃ t, exec (.wake sw a k 0) s = .next t ∧ Woken s t c.uid u.lane d.place 4 ∧
      (NoMonitor s d.place 4 → GoesMem s s t c u u { c with region := c.region + 1 }) := by
  obtain ⟨hA, hx, hR⟩ := ha
  obtain ⟨ws, f, fs, hres⟩ := resolve_frame s.issued c.world c.core .wake (u.x64 a.toNat).toNat 4
  rw [show exec (.wake sw a k 0) s = execWake sw a k 0 s from rfl]
  unfold execWake
  rw [execLanes_alone hA rfl (wordTrap_plain rfl hx) rfl hR]
  unfold wakeLane
  generalize hr : s.issued.resolve c.world c.core .wake (u.x64 a.toNat).toNat 4 = res at hd hres
  obtain ⟨z, r⟩ := res
  simp only at hd hres
  subst hd
  simp only [show s.issued.matrixWait c.uid u.lane = false from hm, show s.issued.relWaits c.uid u.lane true k.toNat = false from hw,
    Bool.or_self, Bool.false_eq_true, if_false, h4, ne_eq, not_true_eq_false, Nat.not_le.mpr h56, hr,
    show (0 : BitVec 2) ≠ 1 by decide, decide_false]
  have hz : LaneAt s z c u u c c := hA.laneAt.same (congrArg State.crews hres :) (congrArg State.iss hres :)
  obtain ⟨h1, h2⟩ := wakes_place (e := ⟨c.uid, encRRR sw 47#6 2#4 0#7 a (k ++ 0#2 ++ (0 : BitVec 2)), s.iss.guard, c.region⟩) (scope := k.toNat)
    (p := d.place) hA rfl rfl rfl hz (congrArg State.crews hres :)
    (hs.congr (congrArg State.stores hres :) (congrArg State.landings hres :))
  refine ⟨_, rfl, h1, fun hn => ?_⟩
  obtain ⟨o, r, hb, ht⟩ := h2 hn
  refine ⟨hb, ?_⟩
  rw [ht, hres]
  exact ⟨rfl, rfl⟩

/-- A wake of the scratchpad (R222). -/
theorem wake_spad {sw : Bool} {a : BitVec 7} {k : BitVec 3} {s : State} {c : Crew} {u : Thread} {b : BUnit}
    (ha : AloneReady s c u sw [aX a 1]) (hs : Settled s c u) (hw : s.relWaits c.uid u.lane true k.toNat = false)
    (hm : s.matrixWait c.uid u.lane = false) (h4 : (u.x a.toNat).toNat % 4 = 0) (hb : s.unit c.unit = some b)
    (hbad : spadBad b.cores.length b.alloc (u.x a.toNat).toNat 4 = false) :
    ∃ t, exec (.wake sw a k 1) s = .next t ∧ Woken s t c.uid u.lane (.spad c.unit (u.x a.toNat).toNat) 4 ∧
      (NoMonitor s (.spad c.unit (u.x a.toNat).toNat) 4 → Goes s s t c u u { c with region := c.region + 1 }) := by
  obtain ⟨hA, hx, hR⟩ := ha
  rw [show exec (.wake sw a k 1) s = execWake sw a k 1 s from rfl]
  unfold execWake
  rw [execLanes_alone hA rfl (wordTrap_plain rfl hx) rfl hR]
  unfold wakeLane
  simp only [show s.issued.matrixWait c.uid u.lane = false from hm, show s.issued.relWaits c.uid u.lane true k.toNat = false from hw,
    Bool.or_self, Bool.false_eq_true, if_false, h4, ne_eq, not_true_eq_false, show s.issued.unit c.unit = some b from hb, hbad,
    decide_true, if_true, spadKey_zero]
  obtain ⟨h1, h2⟩ := wakes_place (e := ⟨c.uid, encRRR sw 47#6 2#4 0#7 a (k ++ 0#2 ++ (1 : BitVec 2)), s.iss.guard, c.region⟩) (scope := k.toNat)
    (p := .spad c.unit (u.x a.toNat).toNat) hA rfl rfl rfl hA.laneAt rfl (by exact hs)
  refine ⟨_, rfl, h1, fun hn => ?_⟩
  obtain ⟨o, r, hb, ht⟩ := h2 hn
  refine ⟨hb, ?_⟩
  rw [ht]
  rfl

/-- A compare that has returned: an equal word blocks the thread, its monitor armed, another is in flight (R220). -/
theorem LaneAt.compared {R : State → State → Prop} {s s1 b : State} {c d k : Crew} {u : Thread} {e : Env} (h : LaneAt s s1 c u u k d)
    (he : e.uid = c.uid) (heg : e.guard = s.iss.guard) (hr : u.replay = none) (dd : BitVec 7) (p : Place) (mem : Bool) (v : Word)
    (hl : s1.landings = s.landings) (hid : s1.nextId = s.nextId) (hbl : b.landings = s.landings) (hbid : b.nextId = s.nextId)
    (hR : ∀ cs, R b { s1 with crews := cs }) (hF : ∀ l cs, R (Machine.flies b b l) { Machine.flies s1 s1 l with crews := cs }) :
    let t := (closeLane e u (s1.compared e c u dd p mem v)).settle c.uid
    if v = u.x dd.toNat then LeavesBy R s b t c u { u with
        monitor := some p
        st := .blocked .monitor (nextPc s u) } k
    else LandsBy mem R s b t c u u k [(u.wb + dd.toNat, v)] := by
  have hnext : e.next u = nextPc s u := by
    unfold Env.next Env.pcI nextPc State.issPc
    rw [heg]
  have hpc : e.pcI u = s.issPc u := by
    unfold Env.pcI State.issPc
    rw [heg]
  unfold State.compared
  split
  · obtain ⟨h1, h2⟩ := (h.onLane (fun x => { x with
      monitor := some p
      st := .blocked .monitor (e.next u) }) (fun _ => rfl) (fun _ => rfl)).held (e := e) he hr
    rw [hnext] at h1 h2 ⊢
    refine ⟨h1, ?_⟩
    rw [h2]
    exact hR _
  · refine h.lands he hr hnext hpc rfl fun cs => ?_
    have hf := hF ⟨s.nextId, c.uid, u.lane, false, [(u.wb + dd.toNat, v)], none, none, false, mem⟩ cs
    rw [flies_eq hbl hbid, flies_eq hl hid] at hf
    simp only [State.inFlight, State.fresh, State.post, State.onLane, State.onCrew, hl, hid]
    exact hf

/-- A compare of memory (R220). -/
theorem waitc_mem {sw : Bool} {d a : BitVec 7} {k : BitVec 3} {s : State} {c : Crew} {u : Thread} {pa : Nat} {pl : Place}
    {tr own : Bool} (ha : AloneReady s c u sw [dX d 1, aX a 2]) (hs : Settled s c u)
    (hk : GenAccessOk s.issued c u (s.issPc u) waitcAcc (u.x64 a.toNat).toNat
      (fun s => s.order c.env u.lane true false (k : BitVec 3).toNat) ⟨.mem pa, pl, tr, false, own⟩) :
    ∃ t, exec (.waitc sw d a k 0) s = .next t ∧
      if s.wordPA pa = u.x d.toNat then LeavesMem s s t c u { u with
          monitor := some pl
          st := .blocked .monitor (nextPc s u) } { c with region := c.region + 1 }
      else LandsMem s s t c u u { c with region := c.region + 1 } [(u.wb + d.toNat, s.wordPA pa)] := by
  obtain ⟨hA, hx, hR⟩ := ha
  obtain ⟨s1, m, h1, h2, h3, -⟩ := genAccess_ordered
    (e := ⟨c.uid, encRRR sw 47#6 1#4 d a (k ++ 0#2 ++ (0 : BitVec 2)), s.iss.guard, c.region⟩) hA rfl rfl hk hs
  have hs1 : Settled s1 c u := hs.congr (by rw [h2.1]) (by rw [h2.1])
  have hread : s1.loadPA pa 4 = s.loadPA pa 4 := loadPA_congr (by rw [h2.1]) (by rw [h2.1]) _ _
  rw [show exec (.waitc sw d a k 0) s = execWaitc sw d a k 0 s from rfl]
  unfold execWaitc
  rw [execLanes_alone hA rfl (wordTrap_plain rfl hx) rfl hR]
  unfold waitcLane
  simp only [show (0 : BitVec 2) ≠ 1 by decide, decide_false, Bool.false_eq_true, if_false]
  rw [show Env.pcI ⟨c.uid, encRRR sw 47#6 1#4 d a (k ++ 0#2 ++ (0 : BitVec 2)), s.iss.guard, c.region⟩ u = s.issPc u from rfl, h1]
  simp only [Bool.false_eq_true, if_false, State.destRead, drainFor_settled hs1, State.loadT, hread, wordAt_loadPA]
  exact ⟨_, rfl, h3.compared (R := Beside) rfl rfl hA.2.2.2.2.2 d pl true _ (by rw [h2.1]) (by rw [h2.1]) rfl rfl h2.crews
    fun l => (h2.flies l).crews⟩

/-- A compare of the scratchpad (R220). -/
theorem waitc_spad {sw : Bool} {d a : BitVec 7} {k : BitVec 3} {s : State} {c : Crew} {u : Thread} {b : BUnit}
    (ha : AloneReady s c u sw [dX d 1, aX a 1]) (hs : Settled s c u)
    (hk : SpadAccessOk s.issued c u (s.issPc u) waitcAcc (u.x a.toNat).toNat 0 b) :
    ∃ t, exec (.waitc sw d a k 1) s = .next t ∧
      if memWord b.spad (u.x a.toNat).toNat = u.x d.toNat then Leaves s s t c u { u with
          monitor := some (.spad c.unit (u.x a.toNat).toNat)
          st := .blocked .monitor (nextPc s u) } { c with region := c.region + 1 }
      else Lands s s t c u u { c with region := c.region + 1 } [(u.wb + d.toNat, memWord b.spad (u.x a.toNat).toNat)] := by
  obtain ⟨hA, hx, hR⟩ := ha
  have hb : s.issued.unit c.unit = some b := hk.2.2.1
  obtain ⟨s1, m, h1, h2, h3, -⟩ := spadAccess_ordered (scope := k.toNat) (acq := true) (rel := false)
    (e := ⟨c.uid, encRRR sw 47#6 1#4 d a (k ++ 0#2 ++ (1 : BitVec 2)), s.iss.guard, c.region⟩) hA rfl rfl hk hs
  have hs1 : Settled s1 c u := hs.congr (by rw [h2]) (by rw [h2])
  have hread : s1.loadT (.spad c.unit (u.x a.toNat).toNat) 4 = readBytes b.spad (u.x a.toNat).toNat 4 := by
    have : s1.unit c.unit = some b := by
      unfold State.unit
      rw [h2]
      exact hb
    simp [State.loadT, this]
  rw [show exec (.waitc sw d a k 1) s = execWaitc sw d a k 1 s from rfl]
  unfold execWaitc
  rw [execLanes_alone hA rfl (wordTrap_plain rfl hx) rfl hR]
  unfold waitcLane
  simp only [decide_true, if_true]
  rw [show Env.pcI ⟨c.uid, encRRR sw 47#6 1#4 d a (k ++ 0#2 ++ (1 : BitVec 2)), s.iss.guard, c.region⟩ u = s.issPc u from rfl, h1]
  simp only [State.spadRead, spadKey_zero, drainFor_settled hs1, hread, wordAt_readBytes]
  exact ⟨_, rfl, h3.compared (R := Within) rfl rfl hA.2.2.2.2.2 d _ false _ (by rw [h2]) (by rw [h2]) rfl rfl h2.crews
    fun l => (h2.flies l).crews⟩

/-- A wait for a barrier (R224). -/
theorem barWait_runs {sw : Bool} {b : BitVec 4} {s : State} {c : Crew} {u : Thread} {k : BUnit} {bar : Barrier}
    (ha : AloneReady s c u sw []) (hd : c.drip = none) (hk : s.unit c.unit = some k) (hb : k.bars[b.toNat]? = some bar) :
    ∃ t, exec (.barWait sw b) s = .next t ∧
      if tabGet u.barS 0 b.toNat = bar.phase then
        Leaves s s t c u { u with st := .blocked (.barWait b.toNat false) (nextPc s u) } { c with region := c.region + 1 }
      else Goes s s t c u { u with barS := tabPut u.barS 0 b.toNat (tabGet u.barS 0 b.toNat + 1) }
        { c with region := c.region + 1 } := by
  obtain ⟨hA, hx, hR⟩ := ha
  rw [show exec (.barWait sw b) s = execBarWait sw b s from rfl]
  unfold execBarWait
  rw [execLanes_alone hA rfl (wordTrap_noDrip rfl hd) rfl hR]
  simp only [show s.issued.unit c.unit = some k from hk, Option.bind_some, hb, bne_iff_ne, ne_eq, ite_not]
  by_cases hp : tabGet u.barS 0 b.toNat = bar.phase
  · simp only [hp, if_true]
    obtain ⟨r, hr⟩ := syncFor_frame (s := s.issued) (e := ⟨c.uid, encRRR sw 47#6 4#4 0#7 0#7 (0#3 ++ b), s.iss.guard, c.region⟩) rfl
      hA.crew rfl
    have hl : LaneAt s _ c u u _ _ := hA.laneAt.opened.same (congrArg State.crews hr :) (congrArg State.iss hr :)
    obtain ⟨h1, h2⟩ := (hl.onLane (fun x => { x with st := .blocked (.barWait b.toNat false) (nextPc s u) }) (fun _ => rfl)
      (fun _ => rfl)).held (e := ⟨c.uid, encRRR sw 47#6 4#4 0#7 0#7 (0#3 ++ b), s.iss.guard, c.region⟩) rfl hA.2.2.2.2.2
    refine ⟨_, rfl, h1, ?_⟩
    rw [show Env.next ⟨c.uid, encRRR sw 47#6 4#4 0#7 0#7 (0#3 ++ b), s.iss.guard, c.region⟩ u = nextPc s u from rfl, h2, hr]
    rfl
  · simp only [hp, if_false]
    obtain ⟨⟨m, hl⟩, -, o, r, hr⟩ := hA.laneAt.order (e := ⟨c.uid, encRRR sw 47#6 4#4 0#7 0#7 (0#3 ++ b), s.iss.guard, c.region⟩)
      (acq := true) (rel := false) (fun h => absurd h (by decide)) rfl rfl scopeBlock
    have hl' := hl.onLane (fun x => { x with barS := tabPut x.barS 0 b.toNat (tabGet x.barS 0 b.toNat + 1) }) (fun _ => rfl)
      fun _ => rfl
    refine ⟨_, rfl, LaneAt.goes (R := Within) hl' rfl hA.2.2.2.2.2 rfl fun cs => ?_⟩
    have hw : Within s (s.issued.order ⟨c.uid, encRRR sw 47#6 4#4 0#7 0#7 (0#3 ++ b), s.iss.guard, c.region⟩ u.lane true false
        scopeBlock) := by
      rw [hr]
      rfl
    exact hw.crews cs

/-- Settles O20: a lemma for each instruction. -/
theorem fencesAndWaits : Obligations.FencesAndWaits :=
  ⟨fun _ _ _ _ _ _ he ha hs hw => fence_goes he ha hs.1 hw,
    fun _ _ _ _ _ _ _ ha hs hw hm h4 h56 hd => wake_mem ha hs.1 hw hm h4 h56 hd,
    fun _ _ _ _ _ _ _ ha hs hw hm h4 hb hbad => wake_spad ha hs.1 hw hm h4 hb hbad,
    fun _ _ _ _ _ _ _ _ _ _ _ ha hs hk => waitc_mem ha hs.1 hk,
    fun _ _ _ _ _ _ _ _ ha hs hk => waitc_spad ha hs.1 hk,
    fun _ _ _ _ _ _ _ ha hd _ hk hb => barWait_runs ha hd hk hb⟩

end Sys2Proof.Machine
end


section
/-! # Once for an issue set: uniform instructions, special and privileged registers -/

namespace Sys2Proof.Machine

/-! ## A uniform instruction that completes -/

/-- A thread that no other shares its lane with is found there. -/
theorem Plain.thread {c : Crew} {t : Thread} (h : Plain c t) (ht : t ∈ c.threads) : c.thread t.lane = some t := by
  have hs : (c.threads.find? (·.lane == t.lane)).isSome = true := List.find?_isSome.mpr ⟨t, ht, by simp⟩
  obtain ⟨v, hv⟩ := Option.isSome_iff_exists.mp hs
  have hl : v.lane = t.lane := by simpa using List.find?_some hv
  exact hv.trans (congrArg some (h.2 v (List.mem_of_find?_eq_some hv) hl))

/-- The lowest thread of the issuing set acts. -/
theorem Issuing.first {s : State} {c : Crew} (h : Issuing s c) :
    c.threads.find? (sel s.iss.set) = some (firstActing s c) ∧ firstActing s c ∈ c.threads ∧ Acts s (firstActing s c) := by
  obtain ⟨x, hx, hsx⟩ := List.any_eq_true.mp h.2.1
  obtain ⟨t, ht⟩ := Option.isSome_iff_exists.mp (List.find?_isSome.mpr ⟨x, hx, hsx⟩)
  have hf : firstActing s c = t := by
    unfold firstActing
    rw [ht]
    rfl
  rw [hf]
  exact ⟨ht, List.mem_of_find?_eq_some ht, List.find?_some (p := sel s.iss.set) ht⟩

/-- A crew's number tells it. -/
theorem onCrew_self {s : State} {c : Crew} (h : ∀ e ∈ s.crews, e.uid = c.uid → e = c) : (s.onCrew c.uid fun _ => c) = s := by
  unfold State.onCrew
  rw [mapIf_same]
  intro d hd hu
  exact (h d hd (by simpa using hu)).symm

/-- Of a thread, `g` changes what `%devtime` latches alone. -/
def LatchOnly (g : Thread → Thread) : Prop := ∀ t, { g t with dthi := t.dthi } = t

theorem LatchOnly.of {α : Type} {g : Thread → Thread} (h : LatchOnly g) (f : Thread → α)
    (hf : ∀ t v, f { t with dthi := v } = f t) (t : Thread) : f (g t) = f t := by
  rw [← hf (g t) t.dthi, h t]

/-- A uniform instruction whose operands are ready and whose guard is true, performed once: its body leaves the crew as
`d`, and each thread of the set goes on (R56, R171). -/
theorem execUniform_runs {f : Form} {s z : State} {c d : Crew} {body : Env → Crew → Thread → State → State × LaneRes}
    {g : Thread → Thread} (hf : { f with drip := true, qs := [] }.uniformPlain = true) (hqs : f.qs = [])
    (hr : ReadyUniform s c f.sw [] f.ops) (hg : guardHoldsU s c = true) (huniq : ∀ e ∈ s.crews, e.uid = c.uid → e = c)
    (hplain : ∀ t ∈ c.threads, Acts s t → Plain c t)
    (hb : body ⟨c.uid, f.word, s.iss.guard, c.region⟩ c (firstActing s c) s.issued = (z, .done))
    (hz : z.crew c.uid = some d) (hi : z.iss = ⟨0, 0, none⟩) (hd : d.threads = c.threads.map g) (hl : LatchOnly g) :
    ∃ t c', execUniform f s body = .next t ∧ t = { z with crews := t.crews } ∧ t.crew c.uid = some c' ∧
      (∀ lane u, c.thread lane = some u → ∃ n, c'.thread lane = some
        { (if sel s.iss.set u then { g u with pc := nextPc s u } else g u) with set := n }) ∧
      { c' with
        threads := c.threads
        halt := c.halt } = { d with
        threads := c.threads
        halt := c.halt } ∧ ∀ w, w ≠ c.uid → t.crew w = z.crew w := by
  obtain ⟨hI, hdrip, hops⟩ := hr
  simp only [Form.uniformPlain, Bool.and_eq_true, Bool.not_eq_true'] at hf
  obtain ⟨⟨⟨⟨⟨h1, h2⟩, h3⟩, h4⟩, h5⟩, h6⟩ := hf
  obtain ⟨hfind, hmem0, hsel0⟩ := hI.first
  obtain ⟨hrr, hun, hdep⟩ := hops _ hmem0 hsel0
  have hpark : s.issued.asParked c (firstActing s c) = c := by
    unfold State.asParked
    rw [(hplain _ hmem0 hsel0).1]
    rfl
  have hgp : guardPends ⟨c.uid, f.word, s.iss.guard, c.region⟩ f c (firstActing s c) = none := by
    unfold guardPends
    cases hsw : f.sw
    · simp only [hsw, Bool.false_eq_true, if_false] at hdep
      simp only [h5, Bool.false_eq_true, if_false, Env.guardQ, depv_guard hdep]
    · simp
  have hoc : opCheckU ⟨c.uid, f.word, s.iss.guard, c.region⟩ f c (firstActing s c) = none := by
    unfold opCheckU
    simp only [h5, hrr, hun, hqs, Bool.false_eq_true, if_false]
    cases hsw : f.sw
    · simp only [hsw, Bool.false_eq_true, if_false] at hdep ⊢
      unfold Env.guardQ
      rw [hdep]
    · rfl
  let pcd : Thread → Thread := fun t => { t with pc := Env.next ⟨c.uid, f.word, s.iss.guard, c.region⟩ t }
  let d1 : Crew := d.onThreads (sel s.iss.set) pcd
  have hz1 : (z.onCrew c.uid fun k => k.onThreads (sel s.iss.set) pcd).crew c.uid = some d1 := by
    rw [State.onCrew_crew _ _ _ (fun _ h => by exact h), hz]
    rfl
  have hlane : ∀ l, d.thread l = (c.thread l).map g := by
    intro l
    unfold Crew.thread
    rw [hd]
    exact find_lane_map g (hl.of (·.lane) fun _ _ => rfl) _ _
  have hd1 : ∀ l u, c.thread l = some u →
      d1.thread l = some (if sel s.iss.set u then { g u with pc := nextPc s u } else g u) := by
    intro l u hu
    rw [show d1.thread l = _ from onThreads_thread d _ pcd (fun _ => rfl) l, hlane, hu]
    have h7 : sel s.iss.set (g u) = sel s.iss.set u := hl.of (sel s.iss.set) (fun _ _ => rfl) u
    have h8 : Env.next ⟨c.uid, f.word, s.iss.guard, c.region⟩ (g u) = nextPc s u :=
      hl.of (Env.next ⟨c.uid, f.word, s.iss.guard, c.region⟩) (fun _ _ => rfl) u
    simp only [Option.map_some, h7, pcd, h8]
  have hq : ∀ t ∈ d1.threads, t.entering = none := by
    refine onThreads_quiet (fun t ht => ?_) fun _ => rfl
    rw [hd] at ht
    obtain ⟨u, hu, rfl⟩ := List.mem_map.mp ht
    exact (hl.of (·.entering) (fun _ _ => rfl) u).trans (hI.2.2 u hu)
  have hover : ∀ l ∈ (c.threads.filter (sel s.iss.set)).map (·.lane),
      (z.onCrew c.uid fun k => k.onThreads (sel s.iss.set) pcd).replayOver c.uid l =
        z.onCrew c.uid fun k => k.onThreads (sel s.iss.set) pcd := by
    intro l hl'
    obtain ⟨u, hu, rfl⟩ := List.mem_map.mp hl'
    obtain ⟨hu1, hu2⟩ := List.mem_filter.mp hu
    have hp := hplain u hu1 hu2
    refine replayOver_none hz1 (hd1 _ u (hp.thread hu1)) ?_
    have : (g u).replay = none := (hl.of (·.replay) (fun _ _ => rfl) u).trans hp.1
    split <;> exact this
  have hfold : ∀ (ls : List Nat) (x : State), (∀ l ∈ ls, x.replayOver c.uid l = x) →
      ls.foldl (fun s l => s.replayOver c.uid l) x = x := by
    intro ls x hx
    induction ls with
    | nil => rfl
    | cons l r ih =>
      rw [List.foldl_cons, hx l (by simp)]
      exact ih fun m hm => hx m (by simp [hm])
  have hexec : execUniform f s body =
      .next ((z.onCrew c.uid fun k => k.onThreads (sel s.iss.set) pcd).settle c.uid) := by
    rw [execUniform, issue_runs hI]
    · congr 2
      rw [onCrew_self huniq]
      simp only [hfind, hpark, hgp, hoc, show Env.guardTrueU ⟨c.uid, f.word, s.iss.guard, c.region⟩ c = true from hg, Bool.not_true,
        Bool.false_eq_true, if_false, hb]
      exact hfold _ _ hover
    · intro t _ _
      unfold wordTrap
      have h4' : f.crew = true := h4
      simp [h1, h2, h4', h5, h6, hdrip]
    · intro hsw t ht hs
      have := (hops t ht hs).2.2
      have hsw' : f.sw = true := hsw
      simp only [hsw', if_true] at this
      have h5' : f.coll = false := h5
      simpa [h5'] using this
  have hset := settle_quiet hz1 hq (by exact hi)
  refine ⟨_, d1.regroup.haltCheck, hexec, by rw [hset]; rfl, ?_, fun lane u hu => settled_thread d1 lane _ (hd1 lane u hu), ?_, ?_⟩
  · rw [hset, State.onCrew_crew _ _ _ (fun _ h => by simpa using h), State.onCrew_crew _ _ _ (fun _ h => by simpa using h), hz1]
    rfl
  · exact (congrArg (fun (x : Crew) => { x with
      threads := c.threads
      halt := c.halt }) (settled_frame d1) :)
  · intro w hw
    rw [hset, State.onCrew_crew_ne _ _ _ _ (fun _ h => by simpa using h) hw,
      State.onCrew_crew_ne _ _ _ _ (fun _ h => by simpa using h) hw,
      State.onCrew_crew_ne _ _ _ _ (fun _ h => by exact h) hw]

/-! ## Special registers -/

/-- What the word checks ask of a form beside where it may execute (R150, R161, R162). -/
theorem wordTrap_where {e : Env} {f : Form} {c : Crew} {t : Thread}
    (h : { f with crew := true, priv := false, firmware := false }.plain = true)
    (hx : c.drip = none ∨ f.ops.all (·.cls = .x) = true) (hc : f.crew = false → c.drip ≠ none)
    (hp : f.priv = true → t.mode ≠ .U) (hm : f.firmware = true → t.mode = .M) : wordTrap e f c t = none := by
  have hw := wordTrap_plain (e := e) (c := c) (t := t) h hx
  have h1 : (c.drip.isNone && !f.crew) = false := by
    cases hf : f.crew
    · simpa [Option.isSome_iff_ne_none] using hc hf
    · simp
  have h2 : ((f.priv && decide (t.mode = .U)) || (f.firmware && t.mode != .M)) = false := by
    cases hf : f.priv <;> cases hg : f.firmware <;> simp_all
  unfold wordTrap at hw ⊢
  simp only [h1, h2, Bool.false_eq_true, if_false, Bool.false_and, Bool.or_self, Bool.not_true, Bool.and_false] at hw ⊢
  exact hw

/-- A special register read by a thread (R59, R61). -/
theorem srd_goes {sw : Bool} {d n : BitVec 7} {s : State} {c : Crew} {u : Thread} {v : Word} (hn : n ≠ 0x08)
    (ha : AloneReady s c u sw [dX d 1]) (hb : isBurstReg n.toNat = true → c.drip ≠ none)
    (hm : n = 0x0E → s.matrixWait c.uid u.lane = false) (hv : s.special c u n.toNat = some v) :
    ∃ t, exec (.srd sw d n) s = .next t ∧ Goes s s t c u (u.putX d.toNat v) c := by
  obtain ⟨hA, hx, hR⟩ := ha
  have hne : n.toNat ≠ 8 := fun h => hn (BitVec.eq_of_toNat_eq h)
  have hwait : (decide (n = 0x0E) && s.issued.matrixWait c.uid u.lane) = false := by
    by_cases h : n = 0x0E
    · simp [show s.issued.matrixWait c.uid u.lane = false from hm h]
    · rw [decide_eq_false h, Bool.false_and]
  rw [show exec (.srd sw d n) s = execSrd sw d n s from rfl]
  unfold execSrd
  simp only [hn, if_false]
  rw [execLanes_alone hA rfl (wordTrap_where rfl hx (fun h => hb (by simpa using h)) (fun h => Bool.noConfusion h)
    fun h => Bool.noConfusion h) rfl hR]
  simp only [hwait, Bool.false_eq_true, if_false, show s.issued.special c u n.toNat = some v from hv, Thread.latch, hne]
  have hl := hA.laneAt.onLane (·.putX d.toNat v) (fun _ => rfl) fun _ => rfl
  exact ⟨_, rfl, hl.goes (R := Within) rfl hA.2.2.2.2.2 rfl fun _ => rfl⟩

/-- A read of the device's time samples it (R60). -/
theorem srd_time {sw : Bool} {d : BitVec 7} {s : State} {c : Crew} {u : Thread} (ha : AloneReady s c u sw [dX d 1]) :
    ∃ t, exec (.srd sw d 0x08) s = .next t ∧ Goes s s.sampleTime t c u
      ({ u with dthi := hi32 s.sampleTime.plat.devtime }.putX d.toNat (lo32 s.sampleTime.plat.devtime)) c := by
  obtain ⟨hA, hx, hR⟩ := ha
  have hA' : Alone s.sampleTime c u := hA
  have hR' : OperandsReady c u sw [dX d 1] := hR
  rw [show exec (.srd sw d 0x08) s = execSrd sw d 0x08 s from rfl]
  unfold execSrd
  simp only [if_true]
  rw [execLanes_alone hA' rfl (wordTrap_where rfl hx (fun h => Bool.noConfusion h) (fun h => Bool.noConfusion h)
    fun h => Bool.noConfusion h) rfl hR']
  have hl := hA'.laneAt.onLane (fun t => ({ t with dthi := hi32 s.sampleTime.plat.devtime }).putX d.toNat
    (lo32 s.sampleTime.plat.devtime)) (fun _ => rfl) fun _ => rfl
  obtain ⟨h1, h2⟩ := hl.goes (R := Within) (b := s.sampleTime) (e := ⟨c.uid, encRRR sw 45#6 0#4 d 0#7 0x08, s.iss.guard, c.region⟩)
    rfl hA.2.2.2.2.2 rfl fun _ => rfl
  exact ⟨_, rfl, h1, h2⟩

/-- What a read into a uniform register leaves of a thread's latch. -/
theorem latch_latchOnly (n : Nat) (time : BitVec 64) (p : Thread → Bool) : LatchOnly fun t => if p t then t.latch n time else t := by
  intro t
  by_cases hp : p t = true <;> by_cases hn : n = 0x08 <;> simp [Thread.latch, hp, hn]

/-- What a read into a uniform register does once for its set. -/
def srdUniformBody (d n : BitVec 7) (e : Env) (c : Crew) (t : Thread) (s : State) : State × LaneRes :=
  match s.special c t n.toNat with
  | none => (s, .trap (e.ill .operand))
  | some v =>
    if !isUniformReg n.toNat then (s, .trap (e.ill .operand))
    else (s.onCrew e.uid fun c => (c.onThreads (sel t.set) fun t => t.latch n.toNat s.plat.devtime).putS d.toNat v, .done)

theorem execSrdUniform_eq (sw : Bool) (d n : BitVec 7) (s : State) : exec (.srdUniform sw d n) s =
    execUniform { word := encRRR sw 45#6 1#4 d 0#7 n, sw := sw, ops := [dS d 1], crew := !isBurstReg n.toNat }
      (if n = 0x08 then s.sampleTime else s) (srdUniformBody d n) := rfl

/-- A special register read once for a set, from a state whose time has been sampled or not (R61). -/
theorem srdUniform_runs {sw : Bool} {d n : BitVec 7} {s z : State} {c : Crew} {v : Word}
    (hz : z = if n = 0x08 then s.sampleTime else s) (hr : ReadyUniform z c sw [] [dS d 1]) (hg : guardHoldsU z c = true)
    (huniq : ∀ e ∈ z.crews, e.uid = c.uid → e = c) (hplain : ∀ t ∈ c.threads, Acts z t → Plain c t)
    (hu : isUniformReg n.toNat = true) (hb : isBurstReg n.toNat = false)
    (hv : z.special c (firstActing z c) n.toNat = some v) :
    ∃ t c', exec (.srdUniform sw d n) s = .next t ∧ t = { z.issued with crews := t.crews } ∧ t.crew c.uid = some c' ∧
      (∀ lane u, c.thread lane = some u → ∃ m, c'.thread lane = some
        { (if sel z.iss.set u then { u.latch n.toNat z.plat.devtime with pc := nextPc z u } else u) with set := m }) ∧
      { c' with
        threads := c.threads
        halt := c.halt } = { c.putS d.toNat v with
        threads := c.threads
        halt := c.halt } ∧ ∀ w, w ≠ c.uid → t.crew w = z.crew w := by
  have hI := hr.1
  have hcrew : z.crew c.uid = some c := by rw [hI.uid]; exact hI.1
  have hset : (firstActing z c).set = z.iss.set := by
    have := hI.first.2.2
    simp only [Acts, sel, Bool.and_eq_true, beq_iff_eq] at this
    exact this.2
  let upd : Crew → Crew := fun c => (c.onThreads (sel z.iss.set) fun t => t.latch n.toNat z.plat.devtime).putS d.toNat v
  have hbody : srdUniformBody d n ⟨c.uid, encRRR sw 45#6 1#4 d 0#7 n, z.iss.guard, c.region⟩ c (firstActing z c) z.issued =
      (z.issued.onCrew c.uid upd, .done) := by
    unfold srdUniformBody
    simp only [show z.issued.special c (firstActing z c) n.toNat = some v from hv, hu, hset, Bool.not_true, Bool.false_eq_true, if_false]
    rfl
  have hz1 : (z.issued.onCrew c.uid upd).crew c.uid = some (upd c) := by
    rw [State.onCrew_crew _ _ upd (fun _ h => h), show z.issued.crew c.uid = some c from hcrew]
    rfl
  obtain ⟨t, c', h1, h2, h3, h4, h5, h6⟩ := execUniform_runs
    (f := { word := encRRR sw 45#6 1#4 d 0#7 n, sw := sw, ops := [dS d 1], crew := !isBurstReg n.toNat })
    (g := fun t => if sel z.iss.set t then t.latch n.toNat z.plat.devtime else t) (by rw [hb]; rfl) rfl hr hg huniq hplain hbody
    hz1 rfl rfl (latch_latchOnly _ _ _)
  refine ⟨t, c', ?_, ?_, h3, fun lane u hu => ?_, h5, fun w hw => ?_⟩
  · rw [execSrdUniform_eq, ← hz]
    exact h1
  · rw [h2]
    rfl
  · obtain ⟨m, hm⟩ := h4 lane u hu
    refine ⟨m, hm.trans ?_⟩
    split <;> rfl
  · rw [h6 w hw, State.onCrew_crew_ne _ _ _ upd (fun _ h => h) hw]
    rfl

/-- Flags that a thread clears in its own flag register (R61). -/
theorem swr_goes {sw : Bool} {a : BitVec 7} {s : State} {c : Crew} {u : Thread} (ha : AloneReady s c u sw [aX a 1]) :
    ∃ t, exec (.swr sw a) s = .next t ∧ Goes s s t c u { u with aflg := u.aflg &&& ~~~((u.x a.toNat).extractLsb' 0 6) } c := by
  obtain ⟨hA, hx, hR⟩ := ha
  rw [show exec (.swr sw a) s = execSwr sw a s from rfl]
  unfold execSwr
  rw [execLanes_alone hA rfl (wordTrap_plain rfl hx) rfl hR]
  have hl := hA.laneAt.onLane (fun t => { t with aflg := t.aflg &&& ~~~((t.x a.toNat).extractLsb' 0 6) }) (fun _ => rfl) fun _ => rfl
  exact ⟨_, rfl, hl.goes (R := Within) rfl hA.2.2.2.2.2 rfl fun _ => rfl⟩

/-- The values of the special registers, by number (R59, R64). -/
theorem special_values (s : State) (c : Crew) (u : Thread) :
    let n := fun (k : Nat) => some (BitVec.ofNat 32 k)
    s.special c u 0x01 = n u.lane ∧ s.special c u 0x04 = n 128 ∧ s.special c u 0x05 = n c.core ∧
    s.special c u 0x06 = n (c.core / 64) ∧ s.special c u 0x07 = n c.quarter ∧
    s.special c u 0x08 = some (s.plat.devtime.extractLsb' 0 32) ∧ s.special c u 0x09 = some u.dthi ∧
    s.special c u 0x0C = n u.wb ∧ s.special c u 0x0D = n c.uwb ∧ s.special c u 0x0E = some (u.aflg.zeroExtend 32) ∧
    s.special c u 0x0F = n c.nregs ∧ s.special c u 0x10 = n c.nuregs ∧ s.special c u 0x11 = some c.launch ∧
    (c.drip = none → s.special c u 0x00 = n (c.idx * 128 + u.lane) ∧ s.special c u 0x02 = n c.idx ∧
      ∀ k, 0x20 ≤ k → k ≤ 0x23 → s.special c u k = none) ∧
    (∀ d, c.drip = some d → s.special c u 0x00 = n u.lane ∧ s.special c u 0x02 = n 0 ∧ s.special c u 0x20 = n d.burst ∧
      s.special c u 0x21 = some u.bc1 ∧ s.special c u 0x22 = some u.bc2 ∧ s.special c u 0x23 = some d.arg) ∧
    (∀ b, s.unit c.unit = some b → s.special c u 0x03 = n b.block) ∧
    (∀ l, s.launch c.world c.launch = some l → s.special c u 0x0A = n l.desc.grid ∧ s.special c u 0x0B = n l.desc.crews ∧
      s.special c u 0x12 = some l.graph) ∧
    ∀ k, 0x13 ≤ k → (k < 0x20 ∨ 0x23 < k) → s.special c u k = none := by
  refine ⟨rfl, rfl, rfl, rfl, rfl, rfl, rfl, rfl, rfl, rfl, rfl, rfl, rfl, fun hd => ?_, fun d hd => ?_, fun b hb => ?_, fun l hl => ?_,
    fun k h1 h2 => ?_⟩
  · refine ⟨by simp [State.special, hd, crewWidth], by simp [State.special, hd], fun k h1 h2 => ?_⟩
    obtain rfl | rfl | rfl | rfl : k = 0x20 ∨ k = 0x21 ∨ k = 0x22 ∨ k = 0x23 := by omega
    all_goals simp [State.special, hd]
  · simp [State.special, hd]
  · simp [State.special, hb]
  · simp [State.special, hl]
  · unfold State.special
    dsimp only
    repeat' split
    any_goals omega
    all_goals rfl

/-- Settles O21: a lemma for each instruction, and the values by computation. -/
theorem specialRegisters : Obligations.SpecialRegisters := by
  refine ⟨fun _ _ _ _ _ _ _ hn ha hb hm hv => srd_goes hn ha hb hm hv, fun _ _ _ _ _ ha => srd_time ha, ?_, ?_,
    fun _ _ _ _ _ ha _ => swr_goes ha, fun sw d a i => execCrew_runs (f := { word := encRI sw 44#6 d a i, sw := sw, ops := [dS d 1, aS a 1] }) (fun _ => rfl) rfl
      fun _ => ⟨rfl, rfl⟩,
    special_values, rfl, rfl, rfl, rfl, rfl, rfl, rfl, rfl, rfl, rfl, rfl, rfl, rfl, rfl, rfl, rfl, rfl, rfl, rfl, rfl, rfl, ?_⟩
  · intro sw d n hn hu s c hr hg huniq hok
    obtain ⟨-, hmem, hacts⟩ := hr.1.first
    obtain ⟨-, hv, hb⟩ := hok _ hmem hacts
    obtain ⟨v, hv⟩ := Option.ne_none_iff_exists'.mp hv
    obtain ⟨t, c', h1, h2, h3, h4, h5, h6⟩ := srdUniform_runs (z := s) (d := d) (by rw [if_neg hn]) hr hg huniq
      (fun t ht ha => (hok t ht ha).1) hu hb hv
    have hne : n.toNat ≠ 8 := fun h => hn (BitVec.eq_of_toNat_eq h)
    refine ⟨t, c', h1, h3, fun lane u hl => ?_, by dsimp only; rw [hv]; exact h5, h6, ?_⟩
    · obtain ⟨m, hm⟩ := h4 lane u hl
      exact ⟨m, by rw [hm, Thread.latch, if_neg hne]⟩
    · rw [h2]
      rfl
  · intro sw d s c hr hg huniq hok
    obtain ⟨t, c', h1, h2, h3, h4, h5, h6⟩ := srdUniform_runs (z := s.sampleTime) (n := 0x08) (d := d) rfl hr hg huniq
      (fun t ht ha => (hok t ht ha).1) rfl rfl rfl
    exact ⟨t, c', h1, h3, h4, h5, h6, by rw [h2]; rfl⟩
  · intro i hi
    exact getD_beyond _ hi

end Sys2Proof.Machine
end


section
/-! # Privileged registers -/

namespace Sys2Proof.Machine

/-! ## A lane set to a value, and a command that enters its order -/

/-- The issuing thread replaced by one of its own lane. -/
theorem LaneAt.set {s s1 : State} {c d k : Crew} {u v : Thread} (h : LaneAt s s1 c u v k d) {x : Thread}
    (hl : x.lane = u.lane) (he : x.entering = none) :
    LaneAt s (s1.onLane c.uid u.lane fun _ => x) c u x k (d.onLane u.lane fun _ => x) where
  crew := by
    rw [State.onLane_crew, h.crew]
    rfl
  iss := h.iss
  quiet := by
    intro t ht
    unfold Crew.onLane mapIf at ht
    obtain ⟨y, hy, rfl⟩ := List.mem_map.mp ht
    split
    · exact he
    · exact h.quiet y hy
  thread := by
    unfold Crew.onLane Crew.thread
    rw [find_mapIf _ _ (fun _ _ => by simpa using hl), show d.threads.find? _ = some v from h.thread]
    rfl
  others := by
    intro l t hn ht
    rw [← h.others l t hn ht]
    unfold Crew.onLane Crew.thread
    rw [find_mapIf_ne]
    · intro y hy
      simp only [beq_iff_eq] at hy
      simpa [hy] using Ne.symm hn
    · intro y _
      simpa [hl] using Ne.symm hn
  frame := h.frame
  crews := by
    intro w hw
    rw [State.onLane_crew_ne _ _ _ _ _ hw]
    exact h.crews w hw

/-- A command entering its orders changes the commands, the quarters and what is to be taken. -/
theorem enterOrder_frame (s : State) (m : MCmd) : s.enterOrder m = { s with
    mcmds := s.mcmds ++ [m]
    quarters := (m.quarters.foldl (fun z q => z.onQuarter q fun x => { x with order := x.order ++ [m.id] }) s).quarters
    agenda := (s.enterOrder m).agenda } := by
  have hfold : ∀ (qs : List Nat) (z : State),
      qs.foldl (fun z q => z.onQuarter q fun x => { x with order := x.order ++ [m.id] }) { z with mcmds := s.mcmds ++ [m] } =
        { z with
          mcmds := s.mcmds ++ [m]
          quarters := (qs.foldl (fun z q => z.onQuarter q fun x => { x with order := x.order ++ [m.id] }) z).quarters } := by
    intro qs
    induction qs with
    | nil => exact fun z => rfl
    | cons q r ih =>
      intro z
      rw [List.foldl_cons, List.foldl_cons]
      exact ih (z.onQuarter q fun x => { x with order := x.order ++ [m.id] })
  have hpost : ∀ (z : State) (q : Nat), z.postHead q = { z with agenda := (z.postHead q).agenda } := by
    intro z q
    unfold State.postHead
    split
    · split
      · split <;> rfl
      · rfl
    · rfl
  unfold State.enterOrder
  dsimp only
  rw [hpost]
  simp only [hfold]

/-! ## Reads -/

/-- A register below the firmware's is not the firmware's. -/
theorem isFirmwareReg_low {n : BitVec 7} (h : n.toNat < 0x70) : isFirmwareReg (0x80 + n.toNat) = false := by
  simp [isFirmwareReg]
  omega

theorem isFirmwareReg_high {n : BitVec 7} (h : 0x70 ≤ n.toNat) : isFirmwareReg (0x80 + n.toNat) = true := by
  simp [isFirmwareReg]
  omega

/-- A read of a register that software knows (R305, R306). -/
theorem psrd_goes {sw : Bool} {d n : BitVec 7} {s : State} {c : Crew} {u : Thread} {v : Word} (hn : n.toNat < 0x70)
    (ha : AloneReady s c u sw [dX d 1]) (hm : u.mode ≠ .U)
    (hq : n = 0x29 → (s.quarter (quarterNo c.core c.quarter)).order = []) (hv : s.privRead c u (0x80 + n.toNat) = some v) :
    ∃ t, exec (.psrd sw d n) s = .next t ∧ Goes s s t c u (u.putX d.toNat v) c := by
  obtain ⟨hA, hx, hR⟩ := ha
  have hfw := isFirmwareReg_low hn
  have hturn : ∀ e, (if 0x80 + n.toNat = 0xA9 then s.issued.plrecTurn e c u else (s.issued, true)) = (s.issued, true) := by
    intro e
    split
    · have hempty := hq (BitVec.eq_of_toNat_eq (by simpa using (by omega : n.toNat = 0x29)))
      unfold State.plrecTurn
      rw [if_pos]
      simp only [Bool.or_eq_true, List.isEmpty_iff]
      exact .inr hempty
    · rfl
  rw [show exec (.psrd sw d n) s = execPsrd sw d n s from rfl]
  unfold execPsrd
  dsimp only
  rw [execLanes_alone hA rfl (wordTrap_where rfl hx (fun h => Bool.noConfusion h) (fun _ => hm)
    fun h => by simp [hfw] at h) rfl hR]
  simp only [hfw, hturn, Bool.false_eq_true, if_false, show s.issued.privRead c u (0x80 + n.toNat) = some v from hv]
  have hl := hA.laneAt.onLane (·.putX d.toNat v) (fun _ => rfl) fun _ => rfl
  exact ⟨_, rfl, hl.goes (R := Within) rfl hA.2.2.2.2.2 rfl fun _ => rfl⟩

/-- A read of a register of the firmware gives a free value (R306). -/
theorem psrd_firmware {sw : Bool} {d n : BitVec 7} {s : State} {c : Crew} {u : Thread} (hn : 0x70 ≤ n.toNat)
    (ha : AloneReady s c u sw [dX d 1]) (hm : u.mode = .M) : ∃ t v, exec (.psrd sw d n) s = .next t ∧
      Goes s { s with freeCtr := s.freeCtr + 1 } t c u (u.putX d.toNat v) c := by
  obtain ⟨hA, hx, hR⟩ := ha
  have hfw := isFirmwareReg_high hn
  rw [show exec (.psrd sw d n) s = execPsrd sw d n s from rfl]
  unfold execPsrd
  dsimp only
  rw [execLanes_alone hA rfl (wordTrap_where rfl hx (fun h => Bool.noConfusion h) (fun _ => by simp [hm]) fun _ => hm) rfl hR]
  simp only [hfw, if_true]
  have hl := (hA.laneAt.same (s2 := s.issued.free.2) rfl rfl).onLane (·.putX d.toNat (Config.foreignReg s.issued.free.1))
    (fun _ => rfl) fun _ => rfl
  exact ⟨_, _, rfl, hl.goes (R := Within) rfl hA.2.2.2.2.2 rfl fun _ => rfl⟩

/-! ## Writes -/

/-- Behind an instruction of the issuing set. -/
theorem Env.next_issue {e : Env} {s : State} (h : e.guard = s.iss.guard) (t : Thread) : e.next t = nextPc s t := by
  unfold Env.next Env.pcI nextPc State.issPc
  rw [h]

/-- What a write of a lone thread's privileged register does in its lane. -/
def pswrBody (low : Option Thread) (a n : BitVec 7) (e : Env) (c : Crew) (t : Thread) (s : State) : State × LaneRes :=
  let m := 0x80 + n.toNat
  let v := t.x a.toNat
  let first := low.map (·.lane) == some t.lane
  if isFirmwareReg m then (s, .done)
  else if !isPrivReg m || isReadOnly m then (s, .trap (e.ill .operand))
  else if m = 0xA1 then s.accWrite e c t .accdat v
  else if m = 0xA2 then s.accWrite e c t .accstat v
  else if m = 0xA7 then
    s.ctxopWrite e c t (match low with
      | some u => u.x a.toNat
      | none => v) first
  else if isCrewReg m then (if first then s.onCrew e.uid fun c => c.setReg m v else s, .done)
  else match s.privWrite c t m v with
    | none => (s, .trap (e.ill .operand))
    | some u => (s.onLane e.uid t.lane fun _ => u, .done)

/-- The one element that is picked is found. -/
theorem find_only {α : Type} {p : α → Bool} {l : List α} {u : α} (hu : u ∈ l) (hp : p u = true)
    (h : ∀ t ∈ l, p t = true → t = u) : l.find? p = some u := by
  obtain ⟨t, ht⟩ := Option.isSome_iff_exists.mp (List.find?_isSome.mpr ⟨u, hu, hp⟩)
  rw [ht, h t (List.mem_of_find?_eq_some ht) (List.find?_some ht)]

/-- The lone thread of a set is its lowest acting one. -/
theorem Alone.lowest {s : State} {c : Crew} {u : Thread} (h : Alone s c u) : s.lowestActing = some u := by
  have hc : s.crew s.iss.crew = some c := h.1.1
  unfold State.lowestActing
  rw [hc, Option.bind_some]
  refine find_only h.mem.1 ?_ fun t ht hp => ?_
  · rw [h.mem.2, Bool.true_and]
    exact h.2.2.2.2.1
  · have : t ∈ c.threads.filter (sel s.iss.set) := List.mem_filter.mpr ⟨ht, (Bool.and_eq_true_iff.mp hp).1⟩
    rw [h.2.2.1] at this
    simpa using this

/-- A write of a privileged register by a lone thread outside user mode: its body runs and is closed (R305). -/
theorem pswr_runs {sw : Bool} {a n : BitVec 7} {s : State} {c : Crew} {u : Thread} (ha : AloneReady s c u sw [aX a 1])
    (hm : u.mode ≠ .U) (hM : 0x70 ≤ n.toNat → u.mode = .M) : ∃ e : Env, e.uid = c.uid ∧ e.guard = s.iss.guard ∧
      exec (.pswr sw a n) s = .next ((closeLane e u (pswrBody (some u) a n e c u s.issued)).settle c.uid) := by
  obtain ⟨hA, hx, hR⟩ := ha
  refine ⟨⟨c.uid, encRRR sw 55#6 1#4 0#7 a n, s.iss.guard, c.region⟩, rfl, rfl, ?_⟩
  rw [show exec (.pswr sw a n) s = execPswr sw a n s from rfl]
  unfold execPswr
  dsimp only
  rw [hA.lowest]
  exact execLanes_alone hA rfl (wordTrap_where rfl hx (fun h => Bool.noConfusion h) (fun _ => hm)
    fun h => hM (by simp [isFirmwareReg] at h; omega)) rfl hR

/-- Where the thread's own registers are written, none of the other kinds is (R306). -/
theorem privWrite_kind {s : State} {c : Crew} {t v : Thread} {m : Nat} {w : Word} (h : s.privWrite c t m w = some v) :
    isPrivReg m = true ∧ isReadOnly m = false ∧ m ≠ 0xA1 ∧ m ≠ 0xA2 ∧ m ≠ 0xA7 ∧ isCrewReg m = false := by
  unfold State.privWrite at h
  split at h
  next hr =>
    obtain ⟨h1, h2⟩ := hr
    refine ⟨?_, ?_, by omega, by omega, by omega, ?_⟩
    · simp [isPrivReg]
      omega
    · simp [isReadOnly]
      omega
    · simp [isCrewReg]
      omega
  next =>
    split at h
    case h_9 => cases h
    all_goals exact ⟨rfl, rfl, by omega, by omega, by omega, rfl⟩

/-- A write of one of the thread's own registers leaves where it stands. -/
theorem privWrite_frame {s : State} {c : Crew} {t v : Thread} {m : Nat} {w : Word} (h : s.privWrite c t m w = some v) :
    v.lane = t.lane ∧ v.entering = t.entering ∧ v.replay = t.replay ∧ v.pc = t.pc := by
  unfold State.privWrite at h
  split at h
  · cases h
    exact ⟨rfl, rfl, rfl, rfl⟩
  · split at h
    case h_5 =>
      cases h
      split <;> exact ⟨rfl, rfl, rfl, rfl⟩
    case h_6 =>
      split at h
      · cases h
      · cases h
        exact ⟨rfl, rfl, rfl, rfl⟩
    case h_7 =>
      obtain ⟨_, _, rfl⟩ := Option.map_eq_some_iff.mp h
      exact ⟨rfl, rfl, rfl, rfl⟩
    case h_9 => cases h
    all_goals
      cases h
      exact ⟨rfl, rfl, rfl, rfl⟩

/-- A write of the thread's own register (R305). -/
theorem pswr_goes {sw : Bool} {a n : BitVec 7} {s : State} {c : Crew} {u v : Thread} (hn : n.toNat < 0x70)
    (ha : AloneReady s c u sw [aX a 1]) (hm : u.mode ≠ .U) (hv : s.privWrite c u (0x80 + n.toNat) (u.x a.toNat) = some v) :
    ∃ t, exec (.pswr sw a n) s = .next t ∧ Goes s s t c u v c := by
  obtain ⟨e, he, hg, hx⟩ := pswr_runs (n := n) ha hm fun h => by omega
  obtain ⟨h1, h2, h3, h4, h5, h6⟩ := privWrite_kind hv
  obtain ⟨hl, hen, hr, hpc⟩ := privWrite_frame hv
  have hA := ha.1
  have hbody : pswrBody (some u) a n e c u s.issued = (s.issued.onLane c.uid u.lane fun _ => v, .done) := by
    unfold pswrBody
    simp only [isFirmwareReg_low hn, h1, h2, h3, h4, h5, h6, he, Bool.not_true, Bool.or_false, Bool.false_eq_true, if_false,
      show s.issued.privWrite c u (0x80 + n.toNat) (u.x a.toNat) = some v from hv]
  rw [hx, hbody]
  refine ⟨_, rfl, (hA.laneAt.set hl (hen.trans (hA.1.2.2 u hA.mem.1))).goes he (hr.trans hA.2.2.2.2.2) ?_ fun _ => rfl⟩
  rw [Env.next_issue hg, nextPc, nextPc, State.issPc, State.issPc, hpc]

/-- A write of a register of the crew takes the value of the lowest lane (R56). -/
theorem pswr_crew {sw : Bool} {a n : BitVec 7} {s : State} {c : Crew} {u : Thread} (hn : n = 0x23 ∨ n = 0x25 ∨ n = 0x26)
    (ha : AloneReady s c u sw [aX a 1]) (hm : u.mode ≠ .U) :
    ∃ t, exec (.pswr sw a n) s = .next t ∧ Goes s s t c u u (c.setReg (0x80 + n.toNat) (u.x a.toNat)) := by
  have hlow : n.toNat < 0x70 := by
    rcases hn with rfl | rfl | rfl <;> decide
  obtain ⟨e, he, hg, hx⟩ := pswr_runs (n := n) ha hm fun h => by omega
  have hA := ha.1
  have hbody : pswrBody (some u) a n e c u s.issued =
      (s.issued.onCrew c.uid fun c => c.setReg (0x80 + n.toNat) (u.x a.toNat), .done) := by
    rw [← he]
    rcases hn with rfl | rfl | rfl <;> simp [pswrBody, isFirmwareReg, isPrivReg, isReadOnly, isCrewReg]
  rw [hx, hbody]
  have hset : LaneAt s (s.issued.onCrew c.uid fun c => c.setReg (0x80 + n.toNat) (u.x a.toNat)) c u u
      (c.setReg (0x80 + n.toNat) (u.x a.toNat)) (c.setReg (0x80 + n.toNat) (u.x a.toNat)) := by
    rcases hn with rfl | rfl | rfl <;>
      refine hA.laneAt.onCrew _ (fun _ => rfl) (fun _ => rfl) fun x y h => ?_
    · exact (congrArg (fun (k : Crew) => { k with barsel := u.x a.toNat }) h :)
    · exact (congrArg (fun (k : Crew) => { k with rndcnt := u.x a.toNat }) h :)
    · exact (congrArg (fun (k : Crew) => { k with ctximg := pair64 (hi32 k.ctximg) (u.x a.toNat) }) h :)
  exact ⟨_, rfl, hset.goes he hA.2.2.2.2.2 (Env.next_issue hg u) fun _ => rfl⟩

/-- A write of `%ctxop` that starts an operation blocks its thread (R306). -/
theorem pswr_ctxop {sw : Bool} {a : BitVec 7} {s : State} {c : Crew} {u : Thread} (ha : AloneReady s c u sw [aX a 1])
    (hm : u.mode ≠ .U) (hv : u.x a.toNat = 1 ∨ u.x a.toNat = 2) :
    ∃ t, exec (.pswr sw a 0x27) s = .next t ∧ Leaves s
      { s with agenda := s.agenda ++ [if u.x a.toNat = 1 then .ctxopSave c.uid else .ctxopRestore c.uid] } t c u
      { u with st := .blocked .ctxop (nextPc s u) } c := by
  obtain ⟨e, he, hg, hx⟩ := pswr_runs (n := 0x27) ha hm fun h => absurd h (by decide)
  have hA := ha.1
  have hnext := Env.next_issue hg u
  let f : Thread → Thread := fun t => { t with st := .blocked .ctxop (nextPc s u) }
  have hbody : pswrBody (some u) a 0x27 e c u s.issued = ((s.issued.onLane c.uid u.lane f).post
      (if u.x a.toNat = 1 then .ctxopSave c.uid else .ctxopRestore c.uid), .held) := by
    have : (u.x a.toNat != 1 && u.x a.toNat != 2) = false := by
      rcases hv with h | h <;> simp [h]
    simp [pswrBody, isFirmwareReg, isPrivReg, isReadOnly, State.ctxopWrite, hnext, f]
    rcases hv with h | h <;> simp [h]
  rw [hx, hbody]
  have hl : LaneAt s ((s.issued.onLane c.uid u.lane f).post
      (if u.x a.toNat = 1 then .ctxopSave c.uid else .ctxopRestore c.uid)) c u (f u) c (c.onLane u.lane f) :=
    (hA.laneAt.onLane f (fun _ => rfl) fun _ => rfl).same rfl rfl
  obtain ⟨h1, h2⟩ := hl.held he hA.2.2.2.2.2
  exact ⟨_, rfl, h1, by rw [h2]; rfl⟩

/-- A write of `%accdat` or `%accstat` enters the order of its quarter (R306). -/
theorem pswr_acc {sw : Bool} {a n : BitVec 7} {s : State} {c : Crew} {u : Thread} (hn : n = 0x21 ∨ n = 0x22)
    (ha : AloneReady s c u sw [aX a 1]) (hm : u.mode ≠ .U) (hb : s.arrayBound c (quarterNo c.core c.quarter) = true) :
    ∃ t m, exec (.pswr sw a n) s = .next t ∧ LaneBecomes s t c u { u with st := .blocked .accWrite (nextPc s u) } c ∧
      t.mcmds = s.mcmds ++ [m] ∧ m.kind = (if n = 0x21 then .accdat else .accstat) ∧ m.w0 = u.x a.toNat ∧ m.crew = c.uid ∧
      m.lane = u.lane ∧ ∀ pa, t.loadB pa = s.loadB pa := by
  have hlow : n.toNat < 0x70 := by
    rcases hn with rfl | rfl <;> decide
  obtain ⟨e, he, hg, hx⟩ := pswr_runs (n := n) ha hm fun h => by omega
  have hA := ha.1
  have hnext := Env.next_issue hg u
  let f : Thread → Thread := fun t => { t with st := .blocked .accWrite (nextPc s u) }
  let cmd : MCmd := ⟨s.nextId, c.unit, c.uid, u.lane, e.pcI u, if n = 0x21 then .accdat else .accstat, quarterNo c.core c.quarter, 1, 0,
    u.x a.toNat, 0, 0, false, 0, 0, 0, 0, [], none⟩
  have hbody : pswrBody (some u) a n e c u s.issued = ((s.issued.fresh.2.onLane c.uid u.lane f).enterOrder cmd, .held) := by
    have hbound : (!s.issued.arrayBound c (quarterNo c.core c.quarter)) = false := by
      rw [show s.issued.arrayBound c (quarterNo c.core c.quarter) = true from hb]
      rfl
    refine Eq.trans (b := s.issued.accWrite e c u (if n = 0x21 then .accdat else .accstat) (u.x a.toNat)) ?_ ?_
    · rcases hn with rfl | rfl <;> rfl
    · unfold State.accWrite
      simp only [hbound, Bool.false_eq_true, if_false, hnext]
      rfl
  rw [hx, hbody]
  have hfr := enterOrder_frame (s.issued.fresh.2.onLane c.uid u.lane f) cmd
  have hl : LaneAt s ((s.issued.fresh.2.onLane c.uid u.lane f).enterOrder cmd) c u (f u) c (c.onLane u.lane f) :=
    (hA.laneAt.onLane f (fun _ => rfl) fun _ => rfl).same (by rw [hfr]; rfl) (by rw [hfr]; rfl)
  obtain ⟨h1, h2⟩ := hl.held he hA.2.2.2.2.2
  refine ⟨_, cmd, rfl, h1, ?_, rfl, rfl, rfl, rfl, fun pa => ?_⟩
  · rw [h2, hfr]
    rfl
  · rw [h2, hfr]
    rfl

/-- A write of a register of the firmware shows nothing (R306). -/
theorem pswr_firmware {sw : Bool} {a n : BitVec 7} {s : State} {c : Crew} {u : Thread} (hn : 0x70 ≤ n.toNat)
    (ha : AloneReady s c u sw [aX a 1]) (hm : u.mode = .M) : ∃ t, exec (.pswr sw a n) s = .next t ∧ Goes s s t c u u c := by
  obtain ⟨e, he, hg, hx⟩ := pswr_runs (n := n) ha (by simp [hm]) fun _ => hm
  have hbody : pswrBody (some u) a n e c u s.issued = (s.issued, .done) := by
    unfold pswrBody
    simp only [isFirmwareReg_high hn, if_true]
  rw [hx, hbody]
  exact ⟨_, rfl, ha.1.laneAt.goes he ha.1.2.2.2.2.2 (Env.next_issue hg u) fun _ => rfl⟩

/-- Settles O22: a lemma for each kind of register. -/
theorem privilegedRegisters : Obligations.PrivilegedRegisters :=
  ⟨fun _ _ _ _ _ _ _ hn ha hm hq hv => psrd_goes hn ha hm hq hv, fun _ _ _ _ _ _ hn ha hm => psrd_firmware hn ha hm,
    fun _ _ _ _ _ _ _ hn ha hm hv => pswr_goes hn ha hm hv, fun _ _ _ _ _ _ hn ha hm => pswr_crew hn ha hm,
    fun _ _ _ _ _ ha hm hv => pswr_ctxop ha hm hv, fun _ _ _ _ _ _ hn ha hm hb _ => pswr_acc hn ha hm hb,
    fun _ _ _ _ _ _ hn ha hm => pswr_firmware hn ha hm⟩

end Sys2Proof.Machine
end


section
/-! # Uniform loads -/

namespace Sys2Proof.Machine

/-- Drawing for loads to come changes the count of free values alone. -/
theorem drawOlder_frame (s : State) : ∃ f, s.drawOlder = { s with freeCtr := f } := by
  unfold State.drawOlder
  split <;> exact ⟨_, rfl⟩

/-- Threads with nothing outstanding have nothing to perform before a load. -/
theorem drainFor_fold {s : State} {c : Crew} (p : Place) (n : Nat) {ts : List Thread} (h : ∀ t ∈ ts, Settled s c t) :
    ts.foldl (fun (s : State) (u : Thread) => s.drainFor c.uid u.lane p n) s = s := by
  induction ts with
  | nil => rfl
  | cons t r ih =>
    rw [List.foldl_cons, drainFor_settled (h t (by simp))]
    exact ih fun u hu => h u (by simp [hu])

/-- The body of a uniform load from physical memory: its words are in flight to the crew, on a state beside which nothing
has changed (R212). -/
theorem loadUniform_lands {n : Nat} {d a : BitVec 7} {o : BitVec 8} {e : Env} {s : State} {c : Crew} {pa : Nat} {pl : Place}
    {tr so own : Bool} (hI : Issuing s c) (hg : e.guard = s.iss.guard)
    (hok : ∀ t ∈ c.threads, Acts s t → Plain c t ∧ s.matrixWait c.uid t.lane = false ∧ Settled s c t)
    (hk : GenAccessOk s.issued c (firstActing s c) (s.issPc (firstActing s c)) (plainLoad n) ((c.s64 a.toNat).toNat + o.toNat * n) id
      ⟨.mem pa, pl, tr, so, own⟩) (hcur : Current s c pl n) :
    ∃ s2, loadUniform n d a o e c (firstActing s c) s.issued = (s2.inFlightU c.uid (s.issPc (firstActing s c))
      (destVals (c.uwb + d.toNat) (loadWords n false (s.loadPA pa n))), .done) ∧ Beside s s2 ∧ s2.crews = s.crews := by
  obtain ⟨-, hmem, hacts⟩ := hI.first
  obtain ⟨hplain, -, hset⟩ := hok _ hmem hacts
  have hpick : ∀ u ∈ c.threads, (u.ready && u.set == (firstActing s c).set) = true → Acts s u := by
    intro u _ hu
    simp only [Acts, sel, Bool.and_eq_true, beq_iff_eq] at hu hacts ⊢
    exact ⟨hu.1, hu.2.trans hacts.2⟩
  have hwait : (c.threads.any fun u => u.ready && u.set == (firstActing s c).set && s.issued.matrixWait c.uid u.lane) = false := by
    rw [List.any_eq_false]
    intro u hu h
    obtain ⟨h1, h2⟩ := Bool.and_eq_true_iff.mp h
    have : s.matrixWait c.uid u.lane = false := (hok u hu (hpick u hu h1)).2.1
    rw [show s.issued.matrixWait c.uid u.lane = s.matrixWait c.uid u.lane from rfl, this] at h2
    exact Bool.noConfusion h2
  obtain ⟨s1, recs, ws, h1, h2⟩ := genAccess_ok hk (by exact hset) hplain.1
  obtain ⟨_, _, _, hres⟩ := resolve_frame s.issued c.world c.core (plainLoad n).kind ((c.s64 a.toNat).toNat + o.toNat * n)
    (plainLoad n).size
  rw [hres] at h2
  have hfold : ((c.threads.filter fun u => u.ready && u.set == (firstActing s c).set).foldl
      (fun (s : State) (u : Thread) => s.drainFor c.uid u.lane pl n) s1) = s1 := by
    refine drainFor_fold _ _ fun t ht => h2.settled ?_
    obtain ⟨h3, h4⟩ := List.mem_filter.mp ht
    exact (hok t h3 (hpick t h3 h4)).2.2
  obtain ⟨f, hf⟩ := drawOlder_frame s1
  obtain ⟨_, _, _, _, _, _, _, hs1, hag⟩ := h2
  have hlen : (s.loadPA pa n).length = n := by simp [State.loadPA]
  refine ⟨s1.drawOlder, ?_, ?_, ?_⟩
  · unfold loadUniform
    rw [if_neg (by rw [hwait]; exact Bool.false_ne_true), show e.pcI (firstActing s c) = s.issPc (firstActing s c) by
      unfold Env.pcI State.issPc; rw [hg], h1]
    dsimp only
    rw [hfold]
    congr 4
    have hload : s1.drawOlder.loadPA pa n = s.loadPA pa n := by
      rw [hf, hs1]
      rfl
    unfold State.loadAt
    simp only [State.loadT, hload]
    split
    · refine stale_current (l := s.loadPA pa n) ?_ _
      rw [hlen, hf, hs1]
      exact hcur
    · rfl
  · rw [hf, hs1]
    exact ⟨rfl, hag⟩
  · rw [hf, hs1]
    rfl

/-- A uniform load from physical memory runs once for its set (R56, R212). -/
theorem uload_runs {i : Mem} {n k : Nat} {w : Bool → BitVec 7 → BitVec 7 → BitVec 8 → Word}
    (hi : ∀ sw d a o s, exec (i sw d a o) s = execUniform { word := w sw d a o, sw := sw, ops := [dS d k, aS a 2] } s (loadUniform n d a o))
    {sw : Bool} {d a : BitVec 7} {o : BitVec 8} {s : State} {c : Crew} {pa : Nat} {pl : Place} {tr so own : Bool}
    (hr : ReadyUniform s c sw [] [dS d k, aS a 2]) (hg : guardHoldsU s c = true) (huniq : ∀ e ∈ s.crews, e.uid = c.uid → e = c)
    (hok : ∀ t ∈ c.threads, Acts s t → Plain c t ∧ s.matrixWait c.uid t.lane = false ∧ Settled s c t)
    (hk : GenAccessOk s.issued c (firstActing s c) (s.issPc (firstActing s c)) (plainLoad n) ((c.s64 a.toNat).toNat + o.toNat * n) id
      ⟨.mem pa, pl, tr, so, own⟩) (hcur : Current s c pl n) {ws : List Word} (hw : loadWords n false (s.loadPA pa n) = ws) :
    ∃ (t : State) (c' : Crew), exec (i sw d a o) s = .next t ∧ t.crew c.uid = some c' ∧
      (∀ lane u, c.thread lane = some u → ∃ m, c'.thread lane = some
        { (if sel s.iss.set u then { u with pc := nextPc s u } else u) with set := m }) ∧
      { c' with
        threads := c.threads
        halt := c.halt } = { c with
        pendS := pendAll c.pendS ((destVals (c.uwb + d.toNat) ws).map Prod.fst) (s.issPc (firstActing s c)) } ∧
      (∀ w, w ≠ c.uid → t.crew w = s.crew w) ∧
      Beside (flies s s ⟨s.nextId, c.uid, 0, true, destVals (c.uwb + d.toNat) ws, none, none, false, true⟩) t := by
  obtain ⟨s2, hbody, hbes, hcrews⟩ := loadUniform_lands (e := ⟨c.uid, w sw d a o, s.iss.guard, c.region⟩) (d := d) hr.1 rfl hok hk hcur
  rw [hw] at hbody
  let upd : Crew → Crew := fun k => { k with
    pendS := pendAll k.pendS ((destVals (c.uwb + d.toNat) ws).map Prod.fst) (s.issPc (firstActing s c)) }
  have hcrew : s2.crew c.uid = some c := by
    unfold State.crew
    rw [hcrews]
    exact hr.1.uid ▸ hr.1.1
  have hz : (s2.inFlightU c.uid (s.issPc (firstActing s c)) (destVals (c.uwb + d.toNat) ws)).crew c.uid = some (upd c) := by
    rw [show (s2.inFlightU c.uid (s.issPc (firstActing s c)) (destVals (c.uwb + d.toNat) ws)).crew c.uid =
      (s2.onCrew c.uid upd).crew c.uid from rfl, State.onCrew_crew _ _ upd (fun _ h => h), hcrew]
    rfl
  obtain ⟨t, c', h1, h2, h3, h4, h5, h6⟩ := execUniform_runs (f := { word := w sw d a o, sw := sw, ops := [dS d k, aS a 2] })
    (g := id) rfl rfl hr hg huniq (fun t ht ha => (hok t ht ha).1) hbody hz (by rw [show (s2.inFlightU c.uid
      (s.issPc (firstActing s c)) (destVals (c.uwb + d.toNat) ws)).iss = s2.iss from rfl, hbes.1])
    (List.map_id _).symm fun _ => rfl
  refine ⟨t, c', by rw [hi]; exact h1, h3, h4, h5, fun v hv => ?_, ?_⟩
  · rw [h6 v hv, show (s2.inFlightU c.uid (s.issPc (firstActing s c)) (destVals (c.uwb + d.toNat) ws)).crew v =
      (s2.onCrew c.uid upd).crew v from rfl, State.onCrew_crew_ne _ _ v upd (fun _ h => h) hv]
    unfold State.crew
    rw [hcrews]
  · rw [h2]
    obtain ⟨h7, h8⟩ := hbes
    constructor
    · rw [h7]
      rfl
    · simp only [flies, State.inFlightU, State.fresh, State.post, State.onCrew, List.filter_append, h8]
      rw [h7]
      rfl

/-- Settles O23: `uload_runs` for a word and for a pair. -/
theorem uniformLoads : Obligations.UniformLoads :=
  ⟨fun _ _ _ _ _ _ _ _ _ _ _ hr hg hu hok hk hc => uload_runs (fun _ _ _ _ _ => rfl) hr hg hu hok hk hc
      ((loadWords_words (by decide) _ _).trans (bytesWords_loadPA _ _ 1)),
    fun _ _ _ _ _ _ _ _ _ _ _ hr hg hu hok hk hc => uload_runs (fun _ _ _ _ _ => rfl) hr hg hu hok hk hc
      ((loadWords_words (by decide) _ _).trans (bytesWords_loadPA _ _ 2))⟩

end Sys2Proof.Machine
end


section
/-! # Arrivals at the crew-collective instructions -/

namespace Sys2Proof.Machine

/-! ## Whether the crew has arrived whole -/

theorem pickBy_some {α : Type} (p : α → α → Bool) {l : List α} (h : l ≠ []) : ∃ x ∈ l, pickBy p l = some x := by
  induction l with
  | nil => exact absurd rfl h
  | cons x r ih =>
    unfold pickBy
    by_cases hr : r = []
    · subst hr
      exact ⟨x, by simp, rfl⟩
    · obtain ⟨y, hy, hp⟩ := ih hr
      rw [hp]
      dsimp only
      split
      · exact ⟨y, by simp [hy], rfl⟩
      · exact ⟨x, by simp, rfl⟩

/-- A live thread that has not arrived is waited for. -/
theorem collCheck_waits {s : State} {uid : Nat} {d : Crew} (hd : s.crew uid = some d) {t : Thread} (ht : t ∈ d.threads)
    (hl : t.live = true) (hc : t.collAt = none) : s.collCheck uid = s := by
  have hall : (d.liveThreads.all fun t => t.collAt.isSome) = false := by
    rw [List.all_eq_false]
    exact ⟨t, List.mem_filter.mpr ⟨ht, hl⟩, by simp [hc]⟩
  unfold State.collCheck
  simp only [hd, hall, Bool.not_false, Bool.or_true, if_true]

/-- A crew whose live threads wait at one address performs its collective by a later step. -/
theorem collCheck_posts {s : State} {uid : Nat} {d : Crew} {pc : Word} (hd : s.crew uid = some d)
    (hne : ∃ t ∈ d.threads, t.live = true) (hall : ∀ t ∈ d.threads, t.live = true → t.collAt = some pc) :
    s.collCheck uid = s.post (.collectivePerform uid) := by
  have hat : ∀ t ∈ d.liveThreads, t.collAt = some pc := fun t ht => hall t (List.mem_filter.mp ht).1 (List.mem_filter.mp ht).2
  have hsome : (d.liveThreads.all fun t => t.collAt.isSome) = true := by
    rw [List.all_eq_true]
    exact fun t ht => by simp [hat t ht]
  obtain ⟨t, ht, hlive⟩ := hne
  have hnil : d.liveThreads ≠ [] := List.ne_nil_of_mem (List.mem_filter.mpr ⟨ht, hlive⟩)
  obtain ⟨x, hx, hp⟩ := pickBy_some (fun (a b : Thread) => decide (a.filedAt < b.filedAt)) hnil
  have hpcs : ((d.liveThreads.filterMap (·.collAt)).all (· == (x.collAt.getD 0))) = true := by
    rw [List.all_eq_true]
    intro w hw
    obtain ⟨y, hy, he⟩ := List.mem_filterMap.mp hw
    rw [hat y hy] at he
    rw [hat x hx, ← Option.some.inj he]
    simp
  unfold State.collCheck
  simp only [hd, hsome, Bool.not_true, Bool.or_false, List.isEmpty_iff, hnil, if_false, hp, hpcs, if_true]

/-! ## A crew that arrives -/

/-- Banding lanes changes the numbers of their sets alone. -/
theorem band_thread (d : Crew) (lanes : List Nat) {lane : Nat} {u : Thread} (h : d.thread lane = some u) :
    ∃ n, (d.band lanes).thread lane = some { u with set := n } := by
  rw [show (d.band lanes).thread lane = _ from onThreads_thread d (fun t => lanes.contains t.lane)
    (fun t => { t with set := d.newSet }) (fun _ => rfl) lane, h]
  by_cases hp : lanes.contains u.lane = true
  · exact ⟨d.newSet, by simp only [Option.map_some, hp, if_true]⟩
  · exact ⟨u.set, by simp only [Option.map_some, hp, if_false, Bool.false_eq_true]⟩

theorem band_mem {d : Crew} {lanes : List Nat} {t : Thread} (h : t ∈ (d.band lanes).threads) :
    ∃ u ∈ d.threads, ∃ n, t = { u with set := n } := by
  unfold Crew.band Crew.onThreads mapIf at h
  obtain ⟨u, hu, rfl⟩ := List.mem_map.mp h
  split
  · exact ⟨u, hu, _, rfl⟩
  · exact ⟨u, hu, u.set, rfl⟩

theorem band_mem_of {d : Crew} (lanes : List Nat) {u : Thread} (h : u ∈ d.threads) : ∃ n, { u with set := n } ∈ (d.band lanes).threads := by
  unfold Crew.band Crew.onThreads mapIf
  simp only [List.mem_map]
  by_cases hp : lanes.contains u.lane = true
  · exact ⟨d.newSet, u, h, if_pos hp⟩
  · exact ⟨u.set, u, h, if_neg hp⟩

/-- Each thread of the issuing set waits, after `g`, at the address of its instruction; no other changes. -/
structure ArrivesBy (s : State) (c d : Crew) (g : Thread → Thread) : Prop where
  mem : ∀ t ∈ d.threads, ∃ u ∈ c.threads, ∃ n, t = { g u with set := n }
  back : ∀ u ∈ c.threads, ∃ n, { g u with set := n } ∈ d.threads
  lane : ∀ l u, c.thread l = some u → ∃ n, d.thread l = some { g u with set := n }
  acts : ∀ u ∈ c.threads, Acts s u → (g u).live = true ∧ (g u).collAt = some (s.issPc u) ∧ (g u).entering = u.entering
  rest : ∀ u ∈ c.threads, ¬Acts s u → g u = u

/-- A crew of which a set has arrived settles: the collective is to be performed once every live thread has (R32). -/
theorem ArrivesBy.settles {s : State} {c : Crew} {upd : Crew → Crew} {g : Thread → Thread} {last : Bool} (hI : Issuing s c)
    (h : ArrivesBy s c (upd c) g) (hu : ∀ x, (upd x).uid = x.uid) (ha : Arrived s c last) :
    let z := State.onCrew { (s.onCrew c.uid fun _ => c).issued with clock := s.clock + 1 } c.uid upd
    ∃ t c', (z.collCheck c.uid).settle c.uid = t ∧ t.crew c.uid = some c' ∧
      (∀ lane u, c.thread lane = some u → ∃ n, c'.thread lane = some { g u with set := n }) ∧
      { c' with
        threads := c.threads
        halt := c.halt } = { upd c with
        threads := c.threads
        halt := c.halt } ∧ (∀ v, v ≠ c.uid → t.crew v = s.crew v) ∧
      t = { s with
        crews := t.crews
        iss := t.iss
        clock := s.clock + 1
        agenda := if last then s.agenda ++ [.collectivePerform c.uid] else s.agenda } := by
  intro z
  have hc : s.crew c.uid = some c := by rw [hI.uid]; exact hI.1
  have hupd : ∀ x, x.uid = c.uid → (upd x).uid = c.uid := fun x hx => (hu x).trans hx
  have hone : (s.onCrew c.uid fun _ => c).crew c.uid = some c := by
    rw [State.onCrew_crew _ _ _ (fun _ _ => rfl), hc]
    rfl
  have hz : z.crew c.uid = some (upd c) := by
    rw [State.onCrew_crew _ _ _ hupd, show State.crew { (s.onCrew c.uid fun _ => c).issued with clock := s.clock + 1 } c.uid =
      (s.onCrew c.uid fun _ => c).crew c.uid from rfl, hone]
    rfl
  have hothers : ∀ v, v ≠ c.uid → z.crew v = s.crew v := by
    intro v hv
    rw [State.onCrew_crew_ne _ _ _ _ hupd hv]
    exact State.onCrew_crew_ne _ _ _ _ (fun _ _ => rfl) hv
  have hq : ∀ t ∈ (upd c).threads, t.entering = none := by
    intro t ht
    obtain ⟨u, hmem, n, rfl⟩ := h.mem t ht
    have he := hI.2.2 u hmem
    by_cases hs : Acts s u
    · exact (h.acts u hmem hs).2.2.trans he
    · rw [h.rest u hmem hs]
      exact he
  obtain ⟨-, hmem0, hacts0⟩ := hI.first
  have hcheck : z.collCheck c.uid = { z with agenda := if last then s.agenda ++ [.collectivePerform c.uid] else s.agenda } := by
    cases last with
    | false =>
      obtain ⟨t, ht, hl, hn, hcoll⟩ := ha
      obtain ⟨n, hd⟩ := h.back t ht
      rw [h.rest t ht hn] at hd
      exact collCheck_waits hz hd hl hcoll
    | true =>
      obtain ⟨pc, hall⟩ := ha
      refine collCheck_posts (pc := pc) hz ?_ fun t ht hl => ?_
      · obtain ⟨n, hd⟩ := h.back _ hmem0
        exact ⟨_, hd, (h.acts _ hmem0 hacts0).1⟩
      · obtain ⟨u, hmem, n, rfl⟩ := h.mem t ht
        by_cases hs : Acts s u
        · have hlu : u.live = true := by
            simp only [Acts, sel, Thread.ready, Bool.and_eq_true] at hs
            unfold Thread.live
            cases hst : u.st <;> simp_all [TState.isRunning, TState.isExited]
          exact (h.acts u hmem hs).2.1.trans (congrArg some (hall u hmem hlu).2)
        · rw [h.rest u hmem hs] at hl ⊢
          exact absurd (hall u hmem hl).1 hs
  rw [hcheck, settle_quiet (s := { z with agenda := if last then s.agenda ++ [.collectivePerform c.uid] else s.agenda }) (c := upd c)
    hz hq rfl]
  refine ⟨_, (upd c).regroup.haltCheck, rfl, ?_, fun lane u hl => ?_, ?_, fun v hv => ?_, rfl⟩
  · rw [State.onCrew_crew _ _ _ (fun _ h => by simpa using h), State.onCrew_crew _ _ _ (fun _ h => by simpa using h)]
    exact (congrArg (Option.map Crew.haltCheck) (congrArg (Option.map Crew.regroup) hz) :)
  · obtain ⟨n, hn⟩ := h.lane lane u hl
    exact settled_thread (upd c) lane { g u with set := n } hn
  · exact (congrArg (fun (x : Crew) => { x with
      threads := c.threads
      halt := c.halt }) (settled_frame (upd c)) :)
  · rw [State.onCrew_crew_ne _ _ _ _ (fun _ h => by simpa using h) hv,
      State.onCrew_crew_ne _ _ _ _ (fun _ h => by simpa using h) hv]
    exact hothers v hv

/-! ## The two classes -/

theorem next_sub (s : State) (t : Thread) : nextPc s t - 4 = s.issPc t := by
  unfold nextPc
  exact BitVec.add_sub_cancel _ _

/-- What an arrival at a thread-class collective makes of a thread. -/
def arrivedThread (s : State) (w : Word) (op : CollOp) (pend : Thread → List Nat) (u : Thread) : Thread :=
  if sel s.iss.set u then { u with
    st := .coll op (guardHolds s u) s.iss.guard w (nextPc s u)
    filedAt := s.clock + 1
    pendX := if guardHolds s u then pendAll u.pendX (pend u) (s.issPc u) else u.pendX }
  else u

/-- A form of a collective. -/
def Form.collective (f : Form) : Bool := !f.priv && !f.firmware && f.crew && f.guardable && f.qs.isEmpty && !f.uniform

/-- A set whose threads may arrive arrives (R32, R33, R187). -/
theorem execArrive_arrives {f : Form} {op : CollOp} {pend : Thread → List Nat} {s : State} {c : Crew} {last : Bool}
    (hf : f.collective = true) (hI : Issuing s c) (hd : c.drip = none)
    (hm : ∀ t ∈ c.threads, Acts s t → MayArrive s c f.sw f.ops t) (ha : Arrived s c last) :
    ∃ t c', execArrive f s op false pend = .next t ∧ t.crew c.uid = some c' ∧
      (∀ lane u, c.thread lane = some u → ∃ n, c'.thread lane = some { arrivedThread s f.word op pend u with set := n }) ∧
      { c' with
        threads := c.threads
        halt := c.halt } = c ∧ (∀ v, v ≠ c.uid → t.crew v = s.crew v) ∧
      t = { s with
        crews := t.crews
        iss := t.iss
        clock := s.clock + 1
        agenda := if last then s.agenda ++ [.collectivePerform c.uid] else s.agenda } := by
  simp only [Form.collective, Bool.and_eq_true, Bool.not_eq_true', List.isEmpty_iff] at hf
  obtain ⟨⟨⟨⟨⟨h1, h2⟩, h3⟩, h4⟩, h5⟩, h6⟩ := hf
  let e : Env := ⟨c.uid, f.word, s.iss.guard, c.region⟩
  let eff : Crew → Thread → Thread := fun c t => if sel s.iss.set t then
    t.arriveAt e { f with coll := true } op false (pend t) (s.clock + 1) (e.guardTrue t)
      (if e.guardTrue t then opCheck e { f with coll := true } c t else none) else t
  let upd : Crew → Crew := fun c => Crew.band { c with threads := c.threads.map (eff c) }
    (Crew.arrivedIn { c with threads := c.threads.map (eff c) } (c.threads.filter (sel s.iss.set)))
  have heff : ∀ u ∈ c.threads, eff c u = arrivedThread s f.word op pend u := by
    intro u hu
    simp only [eff, arrivedThread]
    by_cases hs : sel s.iss.set u = true
    · obtain ⟨-, -, hok⟩ := hm u hu hs
      have hop : (if e.guardTrue u then opCheck e { f with coll := true } c u else none) = none := by
        split
        · next hg =>
          obtain ⟨hr, hdep⟩ := hok hg
          unfold opCheck
          simp only [hr, h5, if_true]
          cases hsw : f.sw
          · have : depv c u (some (e.pcI u)) none [] f.ops = none := hdep hsw
            simp only [Bool.false_eq_true, if_false, this]
          · rfl
        · rfl
      simp only [hs, if_true, hop, Thread.arriveAt, Bool.and_false, Bool.false_eq_true, if_false]
      rfl
    · simp [hs]
  have hmap : c.threads.map (eff c) = c.threads.map (arrivedThread s f.word op pend) := List.map_congr_left heff
  have hlane : ∀ t, (arrivedThread s f.word op pend t).lane = t.lane := by
    intro t
    unfold arrivedThread
    split <;> rfl
  have hby : ArrivesBy s c (upd c) (arrivedThread s f.word op pend) := by
    refine ⟨fun t ht => ?_, fun u hu => ?_, fun l u hl => ?_, fun u hu hs => ?_, fun u hu hs => ?_⟩
    · obtain ⟨v, hv, n, rfl⟩ := band_mem ht
      rw [show ({ c with threads := c.threads.map (eff c) } : Crew).threads = _ from hmap] at hv
      obtain ⟨u, hu, rfl⟩ := List.mem_map.mp hv
      exact ⟨u, hu, n, rfl⟩
    · refine band_mem_of _ (d := { c with threads := c.threads.map (eff c) }) ?_
      rw [hmap]
      exact List.mem_map_of_mem hu
    · refine band_thread _ _ ?_
      unfold Crew.thread at hl ⊢
      rw [hmap, find_lane_map _ hlane, hl]
      rfl
    · unfold arrivedThread
      rw [if_pos (show sel s.iss.set u = true from hs)]
      exact ⟨rfl, congrArg some (next_sub s u), rfl⟩
    · unfold arrivedThread
      rw [if_neg (show ¬sel s.iss.set u = true from hs)]
  obtain ⟨t, c', r1, r2, r3, r4, r5, r6⟩ := hby.settles hI (fun _ => rfl) ha
  refine ⟨t, c', ?_, r2, r3, r4, r5, r6⟩
  rw [← r1, execArrive]
  dsimp only
  rw [issue_runs hI]
  · rfl
  · intro t ht hs
    have hp := (hm t ht hs).1
    unfold wordTrap
    simp [h1, h2, h3, h4, hd, hp]
  · intro hsw t ht hs
    exact (hm t ht hs).2.1 hsw

/-- What an arrival at a vote makes of a thread. -/
def votingThread (s : State) (c : Crew) (w : Word) (op : CollOp) (pc : Word) (u : Thread) : Thread :=
  if sel s.iss.set u then { u with
    st := .coll op (guardHoldsU s c) s.iss.guard w (pc + 4)
    filedAt := s.clock + 1 }
  else u

/-- A set arrives at a vote (R187, R190). -/
theorem execArriveU_arrives {f : Form} {op : CollOp} {pendS pendQ : Crew → List Nat} {s : State} {c : Crew} {last : Bool} {pc : Word}
    (hf : { f with qs := [] }.collective = true) (hI : Issuing s c) (hd : c.drip = none)
    (hm : ∀ t ∈ c.threads, Acts s t → t.inPlainHandler = false ∧ s.issPc t = pc ∧
      (if f.sw then pendClear c t (some pc) = true
       else depv c t (some pc) (s.iss.guard.map fun g => (g.extractLsb' 0 3).toNat) f.qs f.ops = none) ∧
      regRange c t f.ops = none) (ha : Arrived s c last) :
    ∃ t c', execArriveU f s op pendS pendQ = .next t ∧ t.crew c.uid = some c' ∧
      (∀ lane u, c.thread lane = some u → ∃ n, c'.thread lane = some { votingThread s c f.word op pc u with set := n }) ∧
      { c' with
        threads := c.threads
        halt := c.halt } = { c with
          pendS := pendAll c.pendS (pendS c) pc
          pendQ := pendAll c.pendQ (pendQ c) pc } ∧
      (∀ v, v ≠ c.uid → t.crew v = s.crew v) ∧
      t = { s with
        crews := t.crews
        iss := t.iss
        clock := s.clock + 1
        agenda := if last then s.agenda ++ [.collectivePerform c.uid] else s.agenda } := by
  simp only [Form.collective, Bool.and_eq_true, Bool.not_eq_true', List.isEmpty_iff, and_true] at hf
  obtain ⟨⟨⟨⟨h1, h2⟩, h3⟩, h4⟩, -⟩ := hf
  let e : Env := ⟨c.uid, f.word, s.iss.guard, c.region⟩
  let f' : Form := { f with coll := true, uniform := true }
  let upd : Crew → Crew := Crew.arriveU e f' op pendS pendQ (s.clock + 1) s.iss.set
  obtain ⟨hfind, hmem0, hsel0⟩ := hI.first
  obtain ⟨-, hpc, hdep, hrr⟩ := hm _ hmem0 hsel0
  have hpcI : e.pcI (firstActing s c) = pc := hpc
  have hgp : guardPends e f' c (firstActing s c) = none := by
    unfold guardPends
    cases hsw : f.sw
    · simp only [hsw, Bool.false_eq_true, if_false] at hdep
      simp only [f', Bool.false_eq_true, if_false, if_true, hpcI, Env.guardQ, e, depv_guard hdep]
    · simp
  have hop : opCheckU e f' c (firstActing s c) = none := by
    unfold opCheckU
    simp only [f', hrr, if_true]
    cases hsw : f.sw
    · simp only [hsw, Bool.false_eq_true, if_false] at hdep
      simp only [Bool.false_eq_true, if_false, hpcI, Env.guardQ, e, hdep]
    · rfl
  have hupd : upd c = { (c.onThreads (sel s.iss.set) fun t => t.arriveAt e f' op false [] (s.clock + 1) (e.guardTrueU c) none) with
      pendS := pendAll c.pendS (pendS c) pc
      pendQ := pendAll c.pendQ (pendQ c) pc } := by
    simp only [upd, Crew.arriveU, hfind, hgp, hop, ite_self, hpcI]
    rfl
  have huid : ∀ x, (upd x).uid = x.uid := by
    intro x
    simp only [upd, Crew.arriveU]
    split
    · rfl
    · split
      · rfl
      · split <;> rfl
  have heff : ∀ u ∈ c.threads, (if sel s.iss.set u then u.arriveAt e f' op false [] (s.clock + 1) (e.guardTrueU c) none else u) =
      votingThread s c f.word op pc u := by
    intro u hu
    unfold votingThread
    by_cases hs : sel s.iss.set u = true
    · have hn : e.next u = pc + 4 := congrArg (· + 4) (hm u hu hs).2.1
      have hx : pendAll u.pendX [] (e.pcI u) = u.pendX := rfl
      simp only [hs, if_true, Thread.arriveAt, Bool.and_false, Bool.false_eq_true, if_false, hn, hx, ite_self]
      rfl
    · simp [hs]
  have hthreads : (upd c).threads = c.threads.map (votingThread s c f.word op pc) := by
    rw [hupd]
    exact List.map_congr_left heff
  have hlane : ∀ t, (votingThread s c f.word op pc t).lane = t.lane := by
    intro t
    unfold votingThread
    split <;> rfl
  have hby : ArrivesBy s c (upd c) (votingThread s c f.word op pc) := by
    refine ⟨fun t ht => ?_, fun u hu => ⟨(votingThread s c f.word op pc u).set, ?_⟩, fun l u hl =>
      ⟨(votingThread s c f.word op pc u).set, ?_⟩, fun u hu hs => ?_, fun u hu hs => ?_⟩
    · rw [hthreads] at ht
      obtain ⟨u, hu, rfl⟩ := List.mem_map.mp ht
      exact ⟨u, hu, _, rfl⟩
    · rw [hthreads]
      exact List.mem_map_of_mem hu
    · unfold Crew.thread at hl ⊢
      rw [hthreads, find_lane_map _ hlane, hl]
      rfl
    · unfold votingThread
      rw [if_pos (show sel s.iss.set u = true from hs), (hm u hu hs).2.1]
      exact ⟨rfl, congrArg some (BitVec.add_sub_cancel _ _), rfl⟩
    · unfold votingThread
      rw [if_neg (show ¬sel s.iss.set u = true from hs)]
  obtain ⟨t, c', r1, r2, r3, r4, r5, r6⟩ := hby.settles hI huid ha
  refine ⟨t, c', ?_, r2, r3, r4.trans (by rw [hupd]; rfl), r5, r6⟩
  rw [← r1, execArriveU]
  dsimp only
  rw [issue_runs hI]
  · rfl
  · intro t ht hs
    have hp := (hm t ht hs).1
    unfold wordTrap
    simp [h1, h2, h3, h4, hd, hp]
  · intro hsw t ht hs
    obtain ⟨-, hpt, hx, -⟩ := hm t ht hs
    have hsw' : f.sw = true := hsw
    simp only [hsw', if_true] at hx
    rw [show Env.pcI ⟨c.uid, f'.word, s.iss.guard, c.region⟩ t = pc from hpt]
    exact hx

/-! ## The instructions -/

/-- An instruction that arrives as its form says, an operand value refused apart. -/
theorem arrives_of {i : Instr} {f : Form} {op : CollOp} {pend : Thread → List Nat}
    (hi : ∀ s, exec i s = execArrive f s op false pend) (hf : f.collective = true) : Arrives i f.word f.sw f.ops op pend := by
  intro s c last hI hd hm ha
  rw [hi]
  exact execArrive_arrives hf hI hd hm ha

/-- The same of a shuffle or a reduction whose operand value is not refused. -/
theorem arrives_unless {i : Instr} {f : Form} {op : CollOp} {pend : Thread → List Nat} {refuse : Bool}
    (hi : ∀ s, exec i s = execArrive f s op refuse pend) (hr : refuse = false) (hf : f.collective = true) :
    Arrives i f.word f.sw f.ops op pend :=
  arrives_of (fun s => by rw [hi, hr]) hf

theorem arrivesU_of {i : Instr} {f : Form} {op : CollOp} {pendS : Crew → List Nat} {pendQ : List Nat}
    (hi : ∀ s, exec i s = execArriveU f s op pendS fun _ => pendQ) (hf : { f with qs := [] }.collective = true) :
    ArrivesU i f.word f.sw f.qs f.ops op pendS pendQ := by
  intro s c last pc hI hd hm ha
  rw [hi]
  exact execArriveU_arrives hf hI hd hm ha

/-- Settles O24: each form arrives by the law of its class. -/
theorem collectiveArrivals : Obligations.CollectiveArrivals := by
  refine ⟨fun sw d a b => arrives_of (f := { word := encRRR sw 24#6 0#4 d a b, sw := sw, ops := [dX d 1, aX a 1, bX b 1], drip := false })
      (fun _ => rfl) rfl, fun sw d a n hn => ?_, fun sw d a k hk => ?_, fun sw d a g hg => ?_,
    fun sw n => arrives_of (f := { word := encRRR sw 31#6 7#4 0#7 0#7 (0#4 ++ n), sw := sw, ops := [], drip := false })
      (fun _ => rfl) rfl,
    fun sw => arrives_of (f := { word := encRRR sw 31#6 8#4 0#7 0#7 0#7, sw := sw, ops := [], drip := false }) (fun _ => rfl) rfl,
    fun sw q p => ?_, fun sw d p => arrivesU_of
      (f := { word := encRRR sw 26#6 3#4 d (0#3 ++ p) 0#7, sw := sw, ops := [dS d 4], drip := false }) (fun _ => rfl) rfl⟩
  · have arr := fun (fn : BitVec 4) {i : Instr} {op : CollOp} hi => arrives_unless (i := i) (op := op)
      (f := { word := encRRR sw 24#6 fn d a (0#4 ++ n), sw := sw, ops := [dX d 1, aX a 1], drip := false })
      (pend := fun t => [t.wb + d.toNat]) hi (decide_eq_false hn) rfl
    exact ⟨arr 1#4 fun _ => rfl, arr 2#4 fun _ => rfl, arr 3#4 fun _ => rfl⟩
  · have arr := fun (fn : BitVec 4) {i : Instr} {op : CollOp} hi => arrives_unless (i := i) (op := op)
      (f := { word := encRRR sw 24#6 fn d a k, sw := sw, ops := [dX d 1, aX a 1], drip := false })
      (pend := fun t => [t.wb + d.toNat]) hi (decide_eq_false hk) rfl
    exact ⟨arr 4#4 fun _ => rfl, arr 5#4 fun _ => rfl, arr 6#4 fun _ => rfl⟩
  · have arr := fun (fn : BitVec 4) {i : Instr} {op : CollOp} hi => arrives_unless (i := i) (op := op)
      (f := { word := encRRR sw 25#6 fn d a (0#4 ++ g), sw := sw, ops := [dX d 1, aX a 1], drip := false })
      (pend := fun t => [t.wb + d.toNat]) hi (decide_eq_false (by omega : ¬g.toNat ≥ 6)) rfl
    exact ⟨arr 0#4 fun _ => rfl, arr 1#4 fun _ => rfl, arr 2#4 fun _ => rfl, arr 3#4 fun _ => rfl, arr 4#4 fun _ => rfl,
      arr 5#4 fun _ => rfl, arr 6#4 fun _ => rfl, arr 7#4 fun _ => rfl, arr 8#4 fun _ => rfl⟩
  · have arr := fun (fn : BitVec 4) {i : Instr} {op : CollOp} hi => arrivesU_of (i := i) (op := op)
      (f := { word := encRRR sw 26#6 fn (0#4 ++ q) (0#3 ++ p) 0#7, sw := sw, ops := [], qs := [q.toNat], drip := false })
      (pendS := fun _ => []) (pendQ := if q = 7 then [] else [q.toNat]) hi rfl
    exact ⟨arr 0#4 fun _ => rfl, arr 1#4 fun _ => rfl, arr 2#4 fun _ => rfl⟩

/-- An arrival at a barrier that the block declares. -/
theorem barrier_arrives {i : Bool → BitVec 4 → Instr} {fn : BitVec 4} {sync : Bool}
    (hi : ∀ sw b s, exec (i sw b) s = execArrive { word := encRRR sw 47#6 fn 0#7 0#7 (0#3 ++ b), sw := sw, ops := [], drip := false } s
      (.bar b.toNat sync) (decide (s.barCount ≤ b.toNat)) fun _ => []) {sw : Bool} {b : BitVec 4} {s : State} {c : Crew} {last : Bool}
    (hI : Issuing s c) (hd : c.drip = none) (hm : ∀ t ∈ c.threads, Acts s t → MayArrive s c sw [] t) (ha : Arrived s c last)
    (hb : b.toNat < s.barCount) :
    ∃ t c', exec (i sw b) s = .next t ∧ t.crew c.uid = some c' ∧
      (∀ lane u, c.thread lane = some u → ∃ n, c'.thread lane = some
        { (if sel s.iss.set u then { u with
            st := .coll (.bar b.toNat sync) (guardHolds s u) s.iss.guard (encRRR sw 47#6 fn 0#7 0#7 (0#3 ++ b)) (nextPc s u)
            filedAt := s.clock + 1 }
           else u) with set := n }) ∧
      { c' with
        threads := c.threads
        halt := c.halt } = c ∧ (∀ v, v ≠ c.uid → t.crew v = s.crew v) ∧
      t = { s with
        crews := t.crews
        iss := t.iss
        clock := s.clock + 1
        agenda := if last then s.agenda ++ [.collectivePerform c.uid] else s.agenda } := by
  rw [hi, decide_eq_false (by omega : ¬s.barCount ≤ b.toNat)]
  obtain ⟨t, c', r1, r2, r3, r4⟩ := execArrive_arrives (pend := fun _ => []) (op := .bar b.toNat sync)
    (f := { word := encRRR sw 47#6 fn 0#7 0#7 (0#3 ++ b), sw := sw, ops := [], drip := false }) rfl hI hd hm ha
  refine ⟨t, c', r1, r2, fun lane u hl => ?_, r4⟩
  obtain ⟨n, hn⟩ := r3 lane u hl
  refine ⟨n, hn.trans ?_⟩
  unfold arrivedThread
  rw [show pendAll u.pendX [] (s.issPc u) = u.pendX from rfl, ite_self]

/-- Settles O25: both instructions arrive like any collective. -/
theorem barrierArrivals : Obligations.BarrierArrivals :=
  ⟨fun _ _ _ _ _ hI hd hm ha hb => barrier_arrives (fun _ _ _ => rfl) hI hd hm ha hb,
    fun _ _ _ _ _ hI hd hm ha hb => barrier_arrives (fun _ _ _ => rfl) hI hd hm ha hb⟩

end Sys2Proof.Machine
end


section
/-! # Traps of a lone thread, trap return -/

namespace Sys2Proof.Machine

/-! ## A thread that enters its trap at once -/

/-- The crew of a lone thread with that thread replaced. -/
theorem Alone.onLane_mem {s : State} {c : Crew} {u : Thread} (h : Alone s c u) {f : Thread → Thread} {t : Thread}
    (ht : t ∈ (c.onLane u.lane f).threads) : t = f u ∨ t ∈ c.threads ∧ t.lane ≠ u.lane := by
  unfold Crew.onLane mapIf at ht
  obtain ⟨v, hv, rfl⟩ := List.mem_map.mp ht
  split
  next hl => exact .inl (congrArg f (h.2.2.2.1 v hv (by simpa using hl)))
  next hl => exact .inr ⟨hv, by simpa using hl⟩

theorem Alone.mem_onLane {s : State} {c : Crew} {u : Thread} (h : Alone s c u) (f : Thread → Thread) :
    f u ∈ (c.onLane u.lane f).threads := by
  unfold Crew.onLane mapIf
  exact List.mem_map.mpr ⟨u, h.mem.1, by simp⟩

/-- The crew with its lone thread waiting to enter a trap. -/
def Crew.trapping (c : Crew) (u : Thread) (p : Trap × Word) : Crew := c.onLane u.lane fun t => { t with entering := some p }

/-- The crew once that thread has entered it. -/
def Crew.trapped (c : Crew) (u : Thread) (p : Trap × Word) : Crew :=
  { c.onLane u.lane fun _ => u.enter p.1 p.2 c.lost with lost := 0 }

section
variable {s : State} {c : Crew} {u : Thread} {p : Trap × Word}

theorem Alone.trapping_mem (h : Alone s c u) {t : Thread} (ht : t ∈ (c.trapping u p).threads) :
    t = { u with entering := some p } ∨ t.entering = none ∧ t.lane ≠ u.lane := by
  rcases h.onLane_mem ht with rfl | ⟨h1, h2⟩
  · exact .inl rfl
  · exact .inr ⟨h.1.2.2 t h1, h2⟩

theorem Alone.trapped_mem (h : Alone s c u) {t : Thread} (ht : t ∈ (c.trapped u p).threads) :
    t = u.enter p.1 p.2 c.lost ∨ t.entering = none ∧ t.lane ≠ u.lane := by
  rcases h.onLane_mem (f := fun _ => u.enter p.1 p.2 c.lost) ht with rfl | ⟨h1, h2⟩
  · exact .inl rfl
  · exact .inr ⟨h.1.2.2 t h1, h2⟩

/-- With nothing pending it may enter at once (R153). -/
theorem Alone.mayEnter (h : Alone s c u) (hp : pendClear c u none = true) :
    (c.trapping u p).mayEnter { u with entering := some p } = true := by
  unfold Crew.mayEnter
  rw [List.all_eq_true]
  intro t ht
  rcases h.trapping_mem ht with rfl | ⟨h1, -⟩
  · have : pendClear (c.trapping u p) { u with entering := some p } none = true := hp
    simp [this]
  · simp [h1]

theorem Alone.anyEnter (h : Alone s c u) (hp : pendClear c u none = true) : (c.trapping u p).anyEnter = true := by
  unfold Crew.anyEnter
  rw [List.any_eq_true]
  exact ⟨_, h.mem_onLane _, by rw [h.mayEnter hp]; rfl⟩

/-- The crew's traps entered. -/
theorem Alone.settle_trapping (h : Alone s c u) (hp : pendClear c u none = true) :
    (c.trapping u p).settle = (c.trapped u p).regroup := by
  unfold Crew.settle
  rw [if_pos (h.anyEnter hp)]
  congr 1
  simp only [Crew.trapping, Crew.trapped, Crew.onLane, mapIf, List.map_map, Crew.mk.injEq, true_and]
  refine List.map_congr_left fun t ht => ?_
  by_cases hl : (t.lane == u.lane) = true
  · have hu := h.2.2.2.1 t ht (by simpa using hl)
    have hm := h.mayEnter (p := p) hp
    unfold Crew.trapping Crew.onLane mapIf at hm
    subst hu
    simp only [Function.comp_apply, hl, if_true, hm]
    rfl
  · simp only [Function.comp_apply, hl, if_false, h.1.2.2 t ht, Bool.false_eq_true]

/-- The lanes that enter are the lone thread's. -/
theorem Alone.entering_lane (h : Alone s c u) {l : Nat}
    (hl : l ∈ ((c.trapping u p).threads.filter fun t => t.entering.isSome && (c.trapping u p).mayEnter t).map (·.lane)) :
    l = u.lane := by
  obtain ⟨t, ht, rfl⟩ := List.mem_map.mp hl
  obtain ⟨h1, h2⟩ := List.mem_filter.mp ht
  rcases h.trapping_mem h1 with rfl | ⟨h3, -⟩
  · rfl
  · simp [h3] at h2

end

/-- A region of the crew closes with a release at device scope. -/
theorem syncRel_frame (s : State) (uid scope : Nat) : ∃ o r, s.syncRel uid scope =
    { s.onCrew uid fun c => { c with region := c.region + 1 } with
      older := o
      recs := r } := by
  unfold State.syncRel State.released
  obtain ⟨o, ho⟩ := releasedBy_frame s (.crew uid) scope
  rw [ho]
  obtain ⟨r, hr⟩ := syncOp_frame { s with older := o } uid
  exact ⟨o, r, hr⟩

/-- Draining lanes that have nothing outstanding changes nothing. -/
theorem drainLane_fold {s : State} {c : Crew} {u : Thread} (hs : Settled s c u) {ls : List Nat} (h : ∀ l ∈ ls, l = u.lane) :
    ls.foldl (fun s l => s.drainLane c.uid l) s = s := by
  induction ls with
  | nil => rfl
  | cons l r ih =>
    rw [List.foldl_cons, h l (by simp), drainLane_settled hs]
    exact ih fun m hm => h m (by simp [hm])

/-- The crew's region after its trap. -/
def Crew.reopened (c : Crew) : Crew := { c with region := c.region + 1 }

theorem regroup_mem {d : Crew} {t : Thread} (h : t ∈ d.regroup.threads) : ∃ v ∈ d.threads, ∃ n, t = { v with set := n } := by
  unfold Crew.regroup at h
  obtain ⟨v, hv, rfl⟩ := List.mem_map.mp h
  refine ⟨v, hv, ?_⟩
  split
  · split
    · exact ⟨_, rfl⟩
    · exact ⟨v.set, rfl⟩
  · exact ⟨v.set, rfl⟩

/-- Entering the trap: the crew enters it, its region closes, and nothing else changes (R118, R309, R310). -/
theorem enterTraps_alone {s z : State} {c : Crew} {u : Thread} {p : Trap × Word} (h : Alone s c u) (hp : pendClear c u none = true)
    (hs : Settled z c u) (hm : u.mode = .U) (hw : ∀ w, z.world c.world = some w → bitN w.dbg.trace 1 = false)
    (hz : z.crew c.uid = some (c.trapping u p)) :
    ∃ o r, z.enterTraps (c.trapping u p) = { (z.onCrew c.uid Crew.settle).onCrew c.uid Crew.reopened with
      older := o
      recs := r } := by
  have hdrain := drainLane_fold hs (fun l hl => h.entering_lane (p := p) hl)
  obtain ⟨o, r, hsync⟩ := syncRel_frame (z.onCrew c.uid Crew.settle) c.uid scopeDevice
  refine ⟨o, r, ?_⟩
  have hcrew : ((z.onCrew c.uid Crew.settle).syncRel c.uid scopeDevice).crew c.uid = some (c.trapped u p).regroup.reopened := by
    have h1 : (z.onCrew c.uid Crew.settle).crew c.uid = some (c.trapped u p).regroup := by
      rw [State.onCrew_crew _ _ _ (fun x hx => by unfold Crew.settle; split <;> exact hx), hz, Option.map_some, h.settle_trapping hp]
    rw [hsync]
    have h2 : ((z.onCrew c.uid Crew.settle).onCrew c.uid Crew.reopened).crew c.uid = some (c.trapped u p).regroup.reopened := by
      rw [State.onCrew_crew _ _ Crew.reopened (fun _ h => h), h1]
      rfl
    exact h2
  have htrace : (match ((z.onCrew c.uid Crew.settle).syncRel c.uid scopeDevice).world c.world with
      | some w => bitN w.dbg.trace 1
      | none => false) = false := by
    have hworld : ((z.onCrew c.uid Crew.settle).syncRel c.uid scopeDevice).world c.world = z.world c.world := by
      rw [hsync]
      rfl
    rw [hworld]
    split
    next w hwd => exact hw w hwd
    next => rfl
  have hmode : ∀ lanes : List Nat, (∀ l ∈ lanes, l = u.lane) →
      (((c.trapped u p).regroup.reopened.threads.filter fun t => lanes.contains t.lane).find? fun t => t.mode = .M) = none := by
    intro lanes hl
    rw [List.find?_eq_none]
    intro t ht
    obtain ⟨h1, h2⟩ := List.mem_filter.mp ht
    obtain ⟨v, hv, n, rfl⟩ := regroup_mem (show t ∈ (c.trapped u p).regroup.threads from h1)
    rcases h.trapped_mem hv with rfl | ⟨-, h3⟩
    · simp [Thread.enter, hm]
    · exact absurd (hl _ (by simpa using h2)) h3
  unfold State.enterTraps
  simp only [show (c.trapping u p).uid = c.uid from rfl, show (c.trapping u p).world = c.world from rfl, hdrain, hcrew,
    hmode _ fun l hl => h.entering_lane hl]
  refine (if_pos ?_).trans hsync
  exact congrArg (!·) htrace

theorem settle_uid {x : Crew} {n : Nat} (h : x.uid = n) : x.settle.uid = n := by
  unfold Crew.settle
  split <;> exact h

/-- The state in which a trap has been entered, and the crew then. -/
theorem settle_traps {s z : State} {c : Crew} {u : Thread} {p : Trap × Word} (h : Alone s c u) (hp : pendClear c u none = true)
    (hs : Settled z c u) (hm : u.mode = .U) (hw : ∀ w, z.world c.world = some w → bitN w.dbg.trace 1 = false)
    (hz : z.crew c.uid = some (c.trapping u p)) (hi : z.iss = ⟨0, 0, none⟩) :
    (z.settle c.uid).crew c.uid = some (c.trapped u p).regroup.reopened.haltCheck ∧
      (∀ v, v ≠ c.uid → (z.settle c.uid).crew v = z.crew v) ∧ Within z (z.settle c.uid) := by
  obtain ⟨o, r, hent⟩ := enterTraps_alone h hp hs hm hw hz
  have hafter : (z.enterTraps (c.trapping u p)).crew c.uid = some (c.trapped u p).regroup.reopened := by
    have h2 : ((z.onCrew c.uid Crew.settle).onCrew c.uid Crew.reopened).crew c.uid = some (c.trapped u p).regroup.reopened := by
      rw [State.onCrew_crew _ _ Crew.reopened (fun _ h => h), State.onCrew_crew _ _ _ (fun _ => settle_uid), hz, Option.map_some,
        Option.map_some, h.settle_trapping hp]
    rw [hent]
    exact h2
  have hquiet : (c.trapped u p).regroup.reopened.anyEnter = false := by
    refine anyEnter_quiet fun t ht => ?_
    obtain ⟨v, hv, m, rfl⟩ := regroup_mem (show t ∈ (c.trapped u p).regroup.threads from ht)
    rcases h.trapped_mem hv with rfl | ⟨h3, -⟩
    · rfl
    · exact h3
  have hiss : (z.enterTraps (c.trapping u p)).iss = ⟨0, 0, none⟩ := by
    rw [hent]
    exact hi
  have hsettle : z.settle c.uid = (z.enterTraps (c.trapping u p)).onCrew c.uid Crew.haltCheck := by
    unfold State.settle
    rw [hz]
    simp only [h.anyEnter hp, if_true, State.enterAll, hz, hafter, hquiet, Bool.false_eq_true, if_false]
    unfold State.haltCheck
    rw [hiss]
    rfl
  rw [hsettle]
  refine ⟨?_, fun v hv => ?_, ?_⟩
  · rw [State.onCrew_crew _ _ _ (fun _ h => by simpa using h), hafter]
    rfl
  · have h2 : ((z.onCrew c.uid Crew.settle).onCrew c.uid Crew.reopened).crew v = z.crew v := by
      rw [State.onCrew_crew_ne _ _ _ Crew.reopened (fun _ h => h) hv, State.onCrew_crew_ne _ _ _ _ (fun _ => settle_uid) hv]
    rw [State.onCrew_crew_ne _ _ _ _ (fun _ h => by simpa using h) hv, hent]
    exact h2
  · unfold Within
    rw [hent, ← hi]
    rfl

/-- The threads of the crew that has entered the trap. -/
theorem Alone.trapped_thread {s : State} {c : Crew} {u : Thread} (h : Alone s c u) (p : Trap × Word) :
    (c.trapped u p).thread u.lane = some (u.enter p.1 p.2 c.lost) ∧
      ∀ l v, l ≠ u.lane → c.thread l = some v → (c.trapped u p).thread l = some v := by
  constructor
  · have : ((c.onLane u.lane fun _ => u.enter p.1 p.2 c.lost).thread u.lane) = some (u.enter p.1 p.2 c.lost) := by
      unfold Crew.onLane Crew.thread
      rw [find_mapIf _ _ (fun _ _ => by simp [Thread.enter]), show c.threads.find? _ = some u from h.thread]
      rfl
    exact this
  · intro l v hl hv
    have : ((c.onLane u.lane fun _ => u.enter p.1 p.2 c.lost).thread l) = c.thread l := by
      unfold Crew.onLane Crew.thread
      rw [find_mapIf_ne]
      · intro y hy
        simp only [beq_iff_eq] at hy
        simpa [hy] using Ne.symm hl
      · intro y _
        simpa [Thread.enter] using Ne.symm hl
    exact this.trans hv

/-- A lone thread of user mode that waits to enter its trap with nothing outstanding enters it as its crew settles (R309). -/
theorem trap_settles {s z : State} {c : Crew} {u : Thread} {p : Trap × Word} (h : Alone s c u) (hp : pendClear c u none = true)
    (hs : Settled z c u) (hm : u.mode = .U) (hw : ∀ w, z.world c.world = some w → bitN w.dbg.trace 1 = false)
    (hc : z.crew c.uid = some (c.trapping u p)) (ho : ∀ v, v ≠ c.uid → z.crew v = s.crew v) (hi : z.iss = ⟨0, 0, none⟩) :
    Leaves s z (z.settle c.uid) c u (u.enter p.1 p.2 c.lost) { c with
      region := c.region + 1
      lost := 0 } := by
  obtain ⟨h1, h2, h3⟩ := settle_traps h hp hs hm hw hc hi
  obtain ⟨h4, h5⟩ := h.trapped_thread p
  have hlane : ∀ (d : Crew) l, d.regroup.reopened.haltCheck.thread l = d.regroup.thread l := fun _ _ => rfl
  refine ⟨⟨_, h1, ?_, fun l v hl hv => ?_, ?_, fun w hw => (h2 w hw).trans (ho w hw)⟩, h3⟩
  · rw [hlane]
    exact regroup_thread _ _ _ h4
  · rw [hlane]
    exact regroup_thread _ _ _ (h5 l v hl hv)
  · simp only [Crew.reopened, Crew.haltCheck, Crew.regroup, Crew.trapped, Crew.onLane]

/-! ## The record of a trap -/

/-- The words of a record, from its third. -/
theorem recFold (l : List Word) (n : Nat) :
    tabWf (fun _ => (0 : Word)) ((List.range n).foldl (fun m i => tabPut m 0 (i + 2) (l.getD i 0)) []) = true ∧
      ∀ k, tabGet ((List.range n).foldl (fun m i => tabPut m 0 (i + 2) (l.getD i 0)) []) 0 (k + 2) = if k < n then l.getD k 0 else 0 := by
  induction n with
  | zero => exact ⟨rfl, fun k => rfl⟩
  | succ n ih =>
    obtain ⟨h1, h2⟩ := ih
    rw [List.range_succ, List.foldl_append, List.foldl_cons, List.foldl_nil]
    refine ⟨tabPut_wf (dk := fun _ => 0) h1, fun k => ?_⟩
    by_cases hk : k = n
    · subst hk
      rw [tabGet_tabPut_self (dk := fun _ => 0) h1, if_pos (Nat.lt_succ_self k)]
    · rw [tabGet_tabPut_ne (by omega), h2]
      simp only [show k < n ↔ k < n + 1 by omega]

theorem recWords_get (l : List Word) (k : Nat) : tabGet (recWords l) 0 (k + 2) = l.getD k 0 := by
  unfold recWords
  rw [(recFold l l.length).2]
  split
  · rfl
  · exact (getD_beyond _ (by omega)).symm

/-- What a record of a synchronous trap holds (R312). -/
theorem trapRecord_get (c : Cause) (reason : Nat) (l : List Nat) (pc : Word) (lost : Nat) (hc : c.isAsync = false) :
    tabGet (trapRecord (mkTrap c reason l) pc lost) 0 0 =
        BitVec.ofNat 32 ((if lost > 255 then 255 else lost) * 2 ^ 24 + reason % 256 * 2 ^ 16 + c.num) ∧
      tabGet (trapRecord (mkTrap c reason l) pc lost) 0 1 = pc ∧
      ∀ k, tabGet (trapRecord (mkTrap c reason l) pc lost) 0 (k + 2) = BitVec.ofNat 32 (l.getD k 0) := by
  have hwf : tabWf (fun _ => (0 : Word)) (mkTrap c reason l).words = true := (recFold _ _).1
  unfold trapRecord
  refine ⟨?_, ?_, fun k => ?_⟩
  · rw [tabGet_tabPut_ne (by omega), tabGet_tabPut_self (dk := fun _ => 0) hwf]
    simp [mkTrap, hc]
  · exact tabGet_tabPut_self (dk := fun _ => 0) (tabPut_wf (dk := fun _ => 0) hwf)
  · rw [tabGet_tabPut_ne (by omega), tabGet_tabPut_ne (by omega), mkTrap, recWords_get]
    simp only [List.getD_eq_getElem?_getD, List.getElem?_map]
    cases l[k]? <;> rfl

/-! ## An instruction that a lone thread issues -/

section
variable {s : State} {c : Crew} {u : Thread}

theorem Alone.running (h : Alone s c u) : u.st = .running ∧ u.entering = none := by
  have hs := h.mem.2
  simp only [sel, Thread.ready, Bool.and_eq_true] at hs
  refine ⟨?_, h.1.2.2 u h.mem.1⟩
  cases hst : u.st <;> simp_all [TState.isRunning]

/-- What picks the lone thread's lane changes that lane. -/
theorem Alone.onPick {z : State} (h : Alone s c u) (hz : z.crews = s.crews) {p : Thread → Bool} {f : Crew → Thread → Thread}
    {g : Thread → Thread} (hp : ∀ t ∈ c.threads, p t = (t.lane == u.lane)) (hf : f c u = g u) :
    (z.onCrew c.uid fun k => k.onThreads p (f k)) = z.onLane c.uid u.lane g := by
  have hthreads : mapIf p (f c) c.threads = mapIf (·.lane == u.lane) g c.threads := by
    refine List.map_congr_left fun t ht => ?_
    rw [hp t ht]
    split
    next hl => rw [h.2.2.2.1 t ht (by simpa using hl), hf]
    next => rfl
  have hcrews : mapIf (·.uid == c.uid) (fun k => Crew.onThreads k p (f k)) z.crews =
      mapIf (·.uid == c.uid) (fun k => Crew.onLane k u.lane g) z.crews := by
    rw [hz]
    refine List.map_congr_left fun d hd => ?_
    split
    next hu =>
      rw [h.2.1 d hd (by simpa using hu)]
      exact congrArg (fun ts => { c with threads := ts }) hthreads
    next => rfl
  exact congrArg (fun cs => { z with crews := cs }) hcrews

theorem Alone.sel_lane (h : Alone s c u) : ∀ t ∈ c.threads, sel s.iss.set t = (t.lane == u.lane) := by
  intro t ht
  by_cases hs : sel s.iss.set t = true
  · have : t ∈ c.threads.filter (sel s.iss.set) := List.mem_filter.mpr ⟨ht, hs⟩
    rw [h.2.2.1] at this
    rw [hs, List.mem_singleton.mp this]
    simp
  · have : ¬ t.lane = u.lane := fun hl => hs (h.2.2.2.1 t ht hl ▸ h.mem.2)
    simp [hs, this]

/-- The lone thread acts. -/
theorem Alone.acting (h : Alone s c u) {e : Env} (he : e.guard = s.iss.guard) : e.acting s.iss.set c = [u] := by
  have hg : e.guardTrue u = true := by
    unfold Env.guardTrue
    rw [he]
    exact h.2.2.2.2.1
  unfold Env.acting
  refine Eq.trans ?_ h.2.2.1
  refine List.filter_congr fun t ht => ?_
  by_cases hs : sel s.iss.set t = true
  · have : t ∈ c.threads.filter (sel s.iss.set) := List.mem_filter.mpr ⟨ht, hs⟩
    rw [h.2.2.1] at this
    rw [List.mem_singleton.mp this, hg, Bool.and_true]
  · simp [hs]

/-- An instruction issued by a lone thread (R148, R152). -/
theorem issue_alone {f : Form} {k : Env → Nat → Crew → State → State} (h : Alone s c u)
    (hw : wordTrap ⟨c.uid, f.word, s.iss.guard, c.region⟩ f c u = none)
    (hs : f.sw = true → pendClear c u (if f.coll then some (s.issPc u) else none) = true) :
    issue f s k = .next ((k ⟨c.uid, f.word, s.iss.guard, c.region⟩ s.iss.set c s.issued).settle c.uid) := by
  have hone : ∀ t ∈ c.threads, sel s.iss.set t = true → t = u := fun t ht hs => by
    have hl := h.sel_lane t ht
    exact h.2.2.2.1 t ht (by simpa [hs] using hl)
  rw [issue_runs h.1 (fun t ht hs => by rw [hone t ht hs]; exact hw) (fun hsw t ht hs' => by rw [hone t ht hs']; exact hs hsw), h.same]

theorem OperandsReady.clear {sw : Bool} {ops : List Opnd} (h : OperandsReady c u sw ops) (hs : sw = true) :
    pendClear c u none = true := by
  obtain ⟨-, -, h3⟩ := h
  rwa [if_pos hs] at h3

/-- A lone thread of user mode enters a trap. -/
theorem Alone.enter_eq (h : Alone s c u) (hm : u.mode = .U) (cause : Cause) (reason : Nat) (l : List Nat) (pc : Word) (lost : Nat) :
    u.enter (mkTrap cause reason l) pc lost = { u with
      inTrap := true
      tcause := cause.num
      tpc := pc
      twb := BitVec.ofNat 32 u.wb
      tpred := u.preds
      taflg := u.aflg
      tmode := .U
      trec := trapRecord (mkTrap cause reason l) (if cause.isAsync then pc else u.pc) lost
      mode := .S
      pc := BitVec.ofNat 32 (16 * cause.num) } := by
  obtain ⟨h1, h2⟩ := h.running
  unfold Thread.enter mkTrap
  simp only [hm, if_true, ← h1, ← h2]

end

/-! ## brk and tret -/

/-- brk enters its trap with the address after it (R197). -/
theorem brk_traps {sw : Bool} {k : BitVec 7} {s : State} {c : Crew} {u : Thread} (ha : AloneReady s c u sw []) (hc : CanTrap s c u) :
    ∃ t rec, exec (.brk sw k) s = .next t ∧
      Leaves s s t c u { u with
        inTrap := true
        tcause := 0x0B
        tpc := nextPc s u
        twb := BitVec.ofNat 32 u.wb
        tpred := u.preds
        taflg := u.aflg
        tmode := .U
        trec := rec
        mode := .S
        pc := 0xB0 } { c with
        region := c.region + 1
        lost := 0 } ∧
      tabGet rec 0 0 = BitVec.ofNat 32 ((if c.lost > 255 then 255 else c.lost) * 2 ^ 24 + 0x0B) ∧
      tabGet rec 0 1 = u.pc ∧ tabGet rec 0 2 = k.zeroExtend 32 ∧ ∀ i, 3 ≤ i → tabGet rec 0 i = 0 := by
  obtain ⟨hA, hx, hR⟩ := ha
  obtain ⟨hp, hs, -, hm, hw⟩ := hc
  let tr : Trap × Word := (mkTrap .brk 0 [k.toNat], nextPc s u)
  let z : State := s.issued.onLane c.uid u.lane fun t => { t with entering := some tr }
  have hz := hA.onPick (z := s.issued) rfl (p := sel s.iss.set)
    (f := fun _ t => if [u.lane].contains t.lane then { t with entering := some (mkTrap .brk 0 [k.toNat], nextPc s t) }
      else { t with pc := nextPc s t }) (g := fun t => { t with entering := some tr })
    hA.sel_lane (by simp [tr])
  have hexec : exec (.brk sw k) s = .next (z.settle c.uid) := by
    rw [show exec (.brk sw k) s = execBrk sw k s from rfl]
    unfold execBrk
    rw [issue_alone (f := { word := encRRR sw 31#6 4#4 0#7 0#7 k, sw := sw, ops := [] }) hA (wordTrap_plain rfl hx)
      fun h => hR.clear h, show z = _ from hz.symm, hA.acting rfl]
    rfl
  have hcrew : z.crew c.uid = some (c.trapping u tr) := by
    rw [State.onLane_crew, show s.issued.crew c.uid = some c from hA.crew]
    rfl
  have hl := trap_settles (s := s) (z := z) (p := tr) hA hp (by exact hs) hm (by exact hw) hcrew (fun v hv => State.onLane_crew_ne _ _ _ _ _ hv) rfl
  obtain ⟨r0, r1, r2⟩ := trapRecord_get .brk 0 [k.toNat] u.pc c.lost rfl
  rw [hA.enter_eq hm] at hl
  obtain ⟨h1, h2⟩ := hl
  refine ⟨_, trapRecord (mkTrap .brk 0 [k.toNat]) u.pc c.lost, hexec, ⟨h1, h2.trans rfl⟩, r0.trans (by simp [Cause.num]), r1, (r2 0).trans ?_, fun i hi => ?_⟩
  · simp
  · obtain ⟨j, rfl⟩ : ∃ j, i = (j + 1) + 2 := ⟨i - 3, by omega⟩
    exact (r2 (j + 1)).trans rfl

/-- The return from a handler restores what entry saved (R311). -/
theorem tret_leaves {sw : Bool} {s : State} {c : Crew} {u : Thread} (ha : AloneReady s c u sw []) (hg : s.iss.guard = none)
    (hm : u.mode ≠ .U) (hi : u.inTrap = true) (h16 : u.twb.toNat % 16 = 0) (hlt : u.twb.toNat < c.nregs) (hn : c.nregs % 16 = 0)
    (hpc : u.tpc.toNat % 4 = 0) (hx : ∀ b, s.unit c.unit = some b → b.lastExit = false) (hres : c.course ≠ .resuming)
    (hq : c.asyncQ = []) : ∃ t, exec (.tret sw) s = .next t ∧ Leaves s s t c u { u with
      wb := u.twb.toNat
      preds := u.tpred
      aflg := u.taflg
      pc := u.tpc
      mode := u.tmode
      inTrap := u.tmode != .U } { c with region := c.region + 1 } := by
  obtain ⟨hA, hxs, hR⟩ := ha
  have hheld : ((s.unit c.unit).any (·.lastExit) && c.drip.isNone) = false := by
    cases hu : s.unit c.unit with
    | none => rfl
    | some b => simp [hx b hu]
  have hcheck : ∀ e, tretCheck e c u = none := by
    intro e
    have h1 : ¬ u.twb.toNat / 16 ≥ c.nregs / 16 := by omega
    simp [tretCheck, hi, h16, h1, hpc]
  have hsel : c.threads.filter (sel s.iss.set) = [u] := hA.2.2.1
  let e : Env := ⟨c.uid, encRRR sw 31#6 11#4 0#7 0#7 0#7, s.iss.guard, c.region⟩
  have hz := hA.onPick (z := s.issued) rfl (p := sel s.iss.set) (f := fun c t => match tretCheck e c t with
    | some tr => t.raise tr
    | none => if false && t.tmode = .U then { t.return with st := .exited } else t.return) (g := Thread.return) hA.sel_lane (by simp [hcheck])
  have hw : wordTrap e { word := e.word, sw := sw, ops := [], priv := true, guardable := false } c u = none := by
    unfold wordTrap
    simp [e, hg, hm]
  obtain ⟨r, hr⟩ := syncOp_frame (s.issued.onLane c.uid u.lane Thread.return) c.uid
  have hl : LaneAt s ((s.issued.onLane c.uid u.lane Thread.return).syncOp c.uid) c u u.return { c with region := c.region + 1 } _ :=
    (hA.laneAt.onLane Thread.return (fun _ => rfl) fun _ => rfl).opened.same (by rw [hr]) (by rw [hr]; rfl)
  obtain ⟨h1, h2⟩ := hl.settles
  refine ⟨_, ?_, h1, ?_⟩
  · rw [show exec (.tret sw) s = execTret sw s from rfl]
    unfold execTret
    rw [issue_alone (f := { word := e.word, sw := sw, ops := [], priv := true, guardable := false }) hA hw fun h => hR.clear h]
    dsimp only
    rw [hsel]
    have hunit : ((s.issued.unit c.unit).any (·.lastExit) && c.drip.isNone) = false := hheld
    have hgood : ([u].filter fun t => (tretCheck e c t).isNone).map (·.lane) = [u.lane] := by simp [hcheck]
    simp only [hunit, e] at hgood ⊢
    simp only [hgood, List.isEmpty_cons, Bool.false_eq_true, if_false, hres, hq, List.isEmpty_nil, if_true]
    exact congrArg (fun z => Host.Outcome.next ((State.syncOp z c.uid).settle c.uid)) hz
  · rw [h2, hr]
    rfl

/-- Settles O28: `brk_traps` and `tret_leaves`. -/
theorem trapEntryAndReturn : Obligations.TrapEntryAndReturn :=
  ⟨fun _ _ _ _ _ ha hc => brk_traps ha hc, fun _ _ _ _ ha hg hm hi h16 hlt hn hpc hx hres hq _ =>
    tret_leaves ha hg hm hi h16 hlt hn hpc hx hres hq⟩

end Sys2Proof.Machine
end


section
/-! # Branches of a set that replays, trap conditions -/

namespace Sys2Proof.Machine

/-! ## ubra in a thread that replays -/

/-- A thread that replays the instruction of the sub-group 0 that it parked with. -/
def replayingThread : Thread := { Thread.init 0 0 with replay := some 0 }

def replayingCrew : Crew := { Crew.init 0 with threads := [replayingThread] }

/-- The crew issues; its uniform predicate 0 reads false, and read true when the sub-group parked (R38). -/
def replayingState : State := { State.reset with
  crews := [replayingCrew]
  groups := [⟨0, 0, 0, 0, 0, false, [0], 0, 0, 0, false, 0, none, [], 1, 0⟩] }

theorem replaying_ready : ReadyUniform replayingState replayingCrew false [0] [] := by
  refine ⟨⟨rfl, rfl, by decide⟩, rfl, fun t ht _ => ?_⟩
  rw [List.mem_singleton.mp ht]
  exact ⟨rfl, rfl, rfl⟩

/-- Refutes O26: a set whose lowest thread replays branches on the uniform predicate as it stood when its sub-group
parked (R38), here to address 20, and not on the crew's own, which sends it on to 4. -/
theorem not_setTransfers : ¬ Obligations.SetTransfers := by
  unfold Obligations.SetTransfers
  rintro ⟨h, -⟩
  obtain ⟨t, c, hexec, hcrew, -, hthread⟩ := h false false 0 5 replayingState replayingCrew rfl replaying_ready
  obtain ⟨m, hm⟩ := hthread 0 replayingThread rfl
  have hrun : (match exec (.ubra false false 0 5) replayingState with
    | .next t => ((t.crew 0).bind (·.thread 0)).map (·.pc)
    | _ => none) = some 20 := by rfl
  rw [hexec] at hrun
  have hpc : ((t.crew 0).bind (·.thread 0)).map (·.pc) = some 4 := by
    rw [show t.crew 0 = some c from hcrew, Option.bind_some, hm]
    rfl
  exact absurd (hpc.symm.trans hrun) (by decide)

/-! ## Filing -/

theorem onThreads_lane (d : Crew) (l : Nat) (f : Thread → Thread) : d.onThreads (fun t => [l].contains t.lane) f = d.onLane l f := by
  have : (fun (t : Thread) => [l].contains t.lane) = fun t => t.lane == l := by
    funext t
    simp only [List.contains_cons, List.contains_nil, Bool.or_false]
  unfold Crew.onThreads Crew.onLane
  rw [this]

theorem fileLanes_nil (s : State) (uid q : Nat) (pc : Word) (wb : Nat) (sysc : Option (Nat × Word)) (fuel : Nat) :
    s.fileLanes uid q pc wb sysc fuel [] = s := by
  cases fuel <;> rfl

/-- One lane opens a bin where none of its key has room. -/
theorem fileLanes_opens {s : State} {uid q wb lane fuel : Nat} {pc : Word} {sysc : Option (Nat × Word)}
    (hm : ((s.quarter q).bins.filter fun b =>
      b.crew == uid && b.pc == pc && b.wb == wb && b.sysc == sysc && decide (b.lanes.length < 32)) = [])
    (hl : (s.quarter q).bins.length < 16) : s.fileLanes uid q pc wb sysc (fuel + 1) [lane] =
      ((State.onQuarter { s with nextId := s.nextId + 1 } q fun x => { x with
        bins := x.bins ++ [⟨s.nextId, uid, pc, wb, [lane], s.clock, false, sysc⟩] }).onLane uid lane fun t => { t with
          st := .filed s.nextId
          pc := pc
          filedAt := s.clock }).post (.binAged q s.nextId) := by
  have hl' : ¬ (s.quarter q).bins.length ≥ binCount := Nat.not_le.mpr hl
  unfold State.fileLanes
  simp only [List.isEmpty_cons, Bool.false_eq_true, if_false, hm, pickBy, hl', List.drop_of_length_le (show [lane].length ≤ 32 by simp),
    fileLanes_nil, List.take_of_length_le (show [lane].length ≤ 32 by simp), onThreads_lane]
  rfl

/-- One lane joins the one bin of its key that has room. -/
theorem fileLanes_joins {s : State} {uid q wb lane fuel : Nat} {pc : Word} {sysc : Option (Nat × Word)} {b : Bin}
    (hm : ((s.quarter q).bins.filter fun b =>
      b.crew == uid && b.pc == pc && b.wb == wb && b.sysc == sysc && decide (b.lanes.length < 32)) = [b]) :
    s.fileLanes uid q pc wb sysc (fuel + 1) [lane] =
      (s.onQuarter q fun x => { x with
        bins := x.bins.map fun (y : Bin) => if y.id == b.id then { y with lanes := y.lanes ++ [lane] } else y }).onLane uid lane
          fun t => { t with
            st := .filed b.id
            pc := pc
            filedAt := s.clock } := by
  have hb : b.lanes.length < 32 := by
    have h := List.mem_filter.mp (hm ▸ List.mem_singleton_self b)
    simpa using (Bool.and_eq_true_iff.mp h.2).2
  have hlen : [lane].length ≤ 32 - b.lanes.length := by
    simp
    omega
  unfold State.fileLanes
  simp only [List.isEmpty_cons, Bool.false_eq_true, if_false, hm, pickBy, List.drop_of_length_le hlen, fileLanes_nil,
    List.take_of_length_le hlen, onThreads_lane]
  rfl

/-- One lane filed under its key: it opens a bin, or joins the one that has room (R28). -/
theorem fileAll_one {s : State} {uid lane wb : Nat} {pc : Word} {sysc : Option (Nat × Word)} {d : Crew} (hc : s.crew uid = some d) :
    let q := quarterNo d.core d.quarter
    let mine := (s.quarter q).bins.filter fun b =>
      b.crew == uid && b.pc == pc && b.wb == wb && b.sysc == sysc && decide (b.lanes.length < 32)
    let placed := fun (s' : State) (id : Nat) => s'.onLane uid lane fun t => { t with
      st := .filed id
      pc := pc
      filedAt := s.clock + 1 }
    (mine = [] → (s.quarter q).bins.length < 16 → s.fileAll uid sysc [(lane, pc, wb)] =
      (placed (State.onQuarter { s with
        clock := s.clock + 1
        nextId := s.nextId + 1 } q fun x => { x with
          bins := x.bins ++ [⟨s.nextId, uid, pc, wb, [lane], s.clock + 1, false, sysc⟩] }) s.nextId).post (.binAged q s.nextId)) ∧
    ∀ b, mine = [b] → s.fileAll uid sysc [(lane, pc, wb)] =
      placed (State.onQuarter { s with clock := s.clock + 1 } q fun x => { x with
        bins := x.bins.map fun (y : Bin) => if y.id == b.id then { y with lanes := y.lanes ++ [lane] } else y }) b.id := by
  intro q mine placed
  have hfile : s.fileAll uid sysc [(lane, pc, wb)] =
      State.fileLanes { s with clock := s.clock + 1 } uid q pc wb sysc 130 [lane] := by
    unfold State.fileAll
    rw [hc]
    simp [q]
  rw [hfile]
  exact ⟨fun hm hl => fileLanes_opens (s := { s with clock := s.clock + 1 }) hm hl,
    fun b hm => fileLanes_joins (s := { s with clock := s.clock + 1 }) hm⟩

/-- A lone thread filed by its instruction. -/
theorem LaneAt.files {s y : State} {c d : Crew} {u v : Thread} {sysc : Option (Nat × Word)} {pc : Word} {o : Out}
    (h : LaneAt s y c u v c d) (hv : ∃ pc, v = { u with pc := pc }) (hy : y = { s with
      crews := y.crews
      iss := ⟨0, 0, none⟩ })
    (ho : o = .next ((y.fileAll c.uid sysc [(u.lane, pc, u.wb)]).settle c.uid)) : Files s c u sysc pc o := by
  obtain ⟨pc0, rfl⟩ := hv
  have hcore : d.core = c.core := (congrArg (fun (x : Crew) => x.core) h.frame :)
  have hquarter : d.quarter = c.quarter := (congrArg (fun (x : Crew) => x.quarter) h.frame :)
  have hq : ∀ q, y.quarter q = s.quarter q := fun q => by
    rw [hy]
    rfl
  have hid : y.nextId = s.nextId ∧ y.clock = s.clock ∧ y.agenda = s.agenda ∧ y.quarters = s.quarters := by
    rw [hy]
    exact ⟨rfl, rfl, rfl, rfl⟩
  obtain ⟨hid, hclock, hag, hqs⟩ := hid
  obtain ⟨hnew, hold⟩ := fileAll_one (lane := u.lane) (wb := u.wb) (pc := pc) (sysc := sysc) h.crew
  rw [hcore, hquarter, hq] at hnew hold
  unfold Files
  intro q mine filed
  refine ⟨fun hm hl => ?_, fun b hm => ?_⟩
  · have hf := hnew hm hl
    rw [hid, hclock] at hf
    have hL := (h.onLane (fun t => { t with
      st := .filed s.nextId
      pc := pc
      filedAt := s.clock + 1 }) (fun _ => rfl) fun _ => rfl).same (s2 := y.fileAll c.uid sysc [(u.lane, pc, u.wb)]) (by rw [hf]; rfl)
        (by rw [hf]; exact h.iss)
    obtain ⟨h1, h2⟩ := hL.settles
    refine ⟨_, ho, h1, ?_⟩
    rw [h2, hf]
    unfold Within
    rw [hy]
    rfl
  · have hf := hold b hm
    rw [hclock] at hf
    have hL := (h.onLane (fun t => { t with
      st := .filed b.id
      pc := pc
      filedAt := s.clock + 1 }) (fun _ => rfl) fun _ => rfl).same (s2 := y.fileAll c.uid sysc [(u.lane, pc, u.wb)]) (by rw [hf]; rfl)
        (by rw [hf]; exact h.iss)
    obtain ⟨h1, h2⟩ := hL.settles
    refine ⟨_, ho, h1, ?_⟩
    rw [h2, hf]
    unfold Within
    rw [hy]
    rfl

/-- A system call files its thread under its own address (R204). -/
theorem sysc_files {sw : Bool} {n : BitVec 7} {s : State} {c : Crew} {u : Thread} (ha : AloneReady s c u sw [implX 2 8]) :
    Files s c u (some (n.toNat, nextPc s u)) (s.issPc u) (exec (.sysc sw n) s) := by
  obtain ⟨hA, hx, hR⟩ := ha
  let e : Env := ⟨c.uid, encRRR sw 31#6 10#4 0#7 0#7 n, s.iss.guard, c.region⟩
  have hop : opCheck ⟨c.uid, encRRR sw 31#6 10#4 0#7 0#7 n, s.iss.guard, c.region⟩
    { word := encRRR sw 31#6 10#4 0#7 0#7 n, sw := sw, ops := [implX 2 8] } c u = none := opCheck_ready rfl rfl hR
  have hg : e.guardTrue u = true := hA.2.2.2.2.1
  have hz := hA.onPick (z := s.issued) rfl (p := sel s.iss.set) (f := fun _ t => match ([] : List (Nat × Trap)).find? (·.1 == t.lane) with
    | some p => t.raise p.2
    | none => if e.guardTrue t then t else { t with pc := e.next t }) (g := id) hA.sel_lane (by simp [hg])
  refine (hA.laneAt.onLane id (fun _ => rfl) fun _ => rfl).files (y := s.issued.onLane c.uid u.lane id) ⟨u.pc, rfl⟩ rfl ?_
  rw [show exec (.sysc sw n) s = execSysc sw n s from rfl]
  unfold execSysc
  dsimp only
  rw [issue_alone (f := { word := encRRR sw 31#6 10#4 0#7 0#7 n, sw := sw, ops := [implX 2 8] }) hA (wordTrap_plain rfl hx)
    fun h => hR.clear h, hA.acting rfl, ← hz]
  simp only [List.filterMap_cons, List.filterMap_nil, List.filter_cons, List.filter_nil, hop, Option.map_none, Option.isNone_none, if_true,
    List.map_cons, List.map_nil]
  rfl

/-! ## exit -/

/-- A lone thread has exited, its crew not yet settled. -/
def exitedAt (s : State) (c : Crew) (u : Thread) : State :=
  (s.issued.onLane c.uid u.lane fun t => { t with pc := nextPc s u }).onLane c.uid u.lane fun t => { t with
    st := .exited
    pendX := [] }

/-- The crew then. -/
def exitedCrew (s : State) (c : Crew) (u : Thread) : Crew :=
  (c.onLane u.lane fun t => { t with pc := nextPc s u }).onLane u.lane fun t => { t with
    st := .exited
    pendX := [] }

theorem exitedAt_laneAt {s : State} {c : Crew} {u : Thread} (h : Alone s c u) : LaneAt s (exitedAt s c u) c u { u with
    st := .exited
    pendX := []
    pc := nextPc s u } c (exitedCrew s c u) :=
  (h.laneAt.onLane (fun t => { t with pc := nextPc s u }) (fun _ => rfl) fun _ => rfl).onLane (fun t => { t with
    st := .exited
    pendX := [] }) (fun _ => rfl) fun _ => rfl

theorem exec_exit {sw : Bool} {s : State} {c : Crew} {u : Thread} (ha : AloneReady s c u sw []) :
    exec (.exit sw) s = .next (((exitedAt s c u).crewFinished c.uid).settle c.uid) := by
  obtain ⟨hA, hx, hR⟩ := ha
  let e : Env := ⟨c.uid, encRRR sw 31#6 3#4 0#7 0#7 0#7, s.iss.guard, c.region⟩
  have hz := hA.onPick (z := s.issued) rfl (p := sel s.iss.set) (f := fun _ t => { t with pc := e.next t })
    (g := fun t => { t with pc := nextPc s u }) hA.sel_lane rfl
  rw [show exec (.exit sw) s = execExit sw s from rfl]
  unfold execExit
  rw [issue_alone (f := { word := encRRR sw 31#6 3#4 0#7 0#7 0#7, sw := sw, ops := [] }) hA (wordTrap_plain rfl hx)
    fun h => hR.clear h, hA.acting rfl]
  simp only [List.map_cons, List.map_nil, List.isEmpty_cons, Bool.false_eq_true, if_false, onThreads_lane, State.allNext]
  rw [show (s.issued.onCrew c.uid fun k => k.onThreads (sel s.iss.set) fun t => { t with pc := e.next t }) = _ from hz]
  rfl

/-- The other threads of the crew stand after an exit. -/
theorem exitedCrew_mem {s : State} {c : Crew} {u t : Thread} (ht : t ∈ c.threads) (hl : t.lane ≠ u.lane) :
    t ∈ (exitedCrew s c u).threads := by
  unfold exitedCrew Crew.onLane mapIf
  simp only [List.map_map, List.mem_map]
  exact ⟨t, ht, by simp [hl]⟩

/-- No thread of the crew lives after the exit of its last. -/
theorem exitedCrew_dead {s : State} {c : Crew} {u : Thread} (hd : ∀ v ∈ c.threads, v.lane ≠ u.lane → v.live = false) :
    (exitedCrew s c u).threads.any (·.live) = false := by
  rw [List.any_eq_false]
  intro t ht
  unfold exitedCrew Crew.onLane mapIf at ht
  simp only [List.map_map, List.mem_map] at ht
  obtain ⟨v, hv, rfl⟩ := ht
  by_cases hl : v.lane = u.lane
  · simp [hl, Thread.live, TState.isExited]
  · simp [hl, hd v hv hl]

/-- A thread that is not the crew's last exits (R195). -/
theorem exit_leaves {sw : Bool} {s : State} {c : Crew} {u v : Thread} (ha : AloneReady s c u sw []) (hv : v ∈ c.threads)
    (hl : v.lane ≠ u.lane) (hlive : v.live = true) (hcoll : v.collAt = none) (hq : c.asyncQ = []) :
    ∃ t, exec (.exit sw) s = .next t ∧ Leaves s s t c u { u with
      st := .exited
      pendX := []
      pc := nextPc s u } c := by
  have hL := exitedAt_laneAt ha.1
  have hmem := exitedCrew_mem (s := s) hv hl
  have hany : (exitedCrew s c u).threads.any (·.live) = true := List.any_eq_true.mpr ⟨v, hmem, hlive⟩
  have hfin : (exitedAt s c u).crewFinished c.uid = exitedAt s c u := by
    unfold State.crewFinished
    rw [hL.crew]
    simp only [hany, if_true, show (exitedCrew s c u).asyncQ = [] from hq, List.isEmpty_nil]
    exact collCheck_waits hL.crew hmem hlive hcoll
  obtain ⟨h1, h2⟩ := hL.settles
  rw [exec_exit ha, hfin]
  exact ⟨_, rfl, h1, by rw [h2]; rfl⟩

/-! ### The last thread of a crew -/

theorem neededStores_none {p : PStore → Bool} {l : List PStore} (h : ∀ q ∈ l, p q = false) : neededStores p l = [] := by
  induction l with
  | nil => rfl
  | cons q r ih =>
    unfold neededStores
    simp [ih fun x hx => h x (by simp [hx]), h q (by simp)]

/-- Performing stores of which there are none changes nothing. -/
theorem performStores_none {s : State} {p : PStore → Bool} (h : ∀ q ∈ s.stores, p q = false) : s.performStores p = s := by
  have hall : s.stores.filter (fun _ => true) = s.stores := List.filter_eq_self.2 fun _ _ => rfl
  unfold State.performStores
  simp [neededStores_none h, hall]

/-- A crew with no store accepted and no row of a kvld under way has nothing to perform. -/
theorem flushCrew_none {s : State} {uid : Nat} (hs : ∀ p ∈ s.stores, p.crew ≠ uid)
    (hl : ∀ l ∈ s.landings, l.crew = uid → l.row = none) : s.flushCrew uid = s := by
  have hrow : (s.landings.filter fun l => l.crew == uid && l.row.isSome) = [] := by
    rw [List.filter_eq_nil_iff]
    intro l hm
    simp only [Bool.and_eq_true, beq_iff_eq, not_and]
    intro hu
    simp [hl l hm hu]
  unfold State.flushCrew
  rw [performStores_none (fun p hp => by simpa using hs p hp)]
  simp [hrow]

/-- The threads that settled are those that were. -/
theorem settled_any (d : Crew) (p : Thread → Bool) (hp : ∀ t n, p { t with set := n } = p t) (h : d.threads.any p = false) :
    d.regroup.haltCheck.threads.any p = false := by
  rw [List.any_eq_false] at h ⊢
  intro t ht
  obtain ⟨v, hv, n, rfl⟩ := regroup_mem (show t ∈ d.regroup.threads from ht)
  rw [hp]
  exact h v hv

/-- A quiet crew of a state has settled. -/
theorem settled_crew_of {s : State} {uid : Nat} {d : Crew} (hc : s.crew uid = some d) (hq : ∀ t ∈ d.threads, t.entering = none)
    (hi : s.iss = ⟨0, 0, none⟩) : (s.settle uid).crew uid = some d.regroup.haltCheck ∧
      s.settle uid = { s with crews := (s.settle uid).crews } := by
  rw [settle_quiet hc hq hi]
  refine ⟨?_, rfl⟩
  rw [State.onCrew_crew _ _ _ (fun _ h => by simpa using h), State.onCrew_crew _ _ _ (fun _ h => by simpa using h), hc]
  rfl

/-- An entry changed is found so. -/
theorem onEntry_entry (s : State) (id : Nat) (f : Entry → Entry) (hf : ∀ e, (f e).id = e.id) :
    (s.onEntry id f).entry id = (s.entry id).map f :=
  find_mapIf _ f (fun x hx => by rw [hf]; exact hx) s.entries

/-- The crews after an exit, the threads of the issuing one apart. -/
theorem exitedAt_crews {s : State} {c : Crew} {u : Thread} {x : Crew} (hx : x ∈ (exitedAt s c u).crews) :
    ∃ y ∈ s.crews, y.uid = x.uid ∧ y.unit = x.unit ∧ y.drip = x.drip := by
  unfold exitedAt State.onLane State.onCrew mapIf at hx
  simp only [List.map_map, List.mem_map] at hx
  obtain ⟨y, hy, rfl⟩ := hx
  refine ⟨y, hy, ?_⟩
  by_cases hu : y.uid = c.uid <;> simp [hu, Crew.onLane]

theorem exitedAt_keeps {s : State} {c : Crew} {u : Thread} {x : Crew} (hx : x ∈ s.crews) (hne : x.uid ≠ c.uid) :
    x ∈ (exitedAt s c u).crews := by
  unfold exitedAt State.onLane State.onCrew mapIf
  simp only [List.map_map, List.mem_map]
  exact ⟨x, hx, by simp [hne]⟩

theorem throttle_cacheOnly (s : State) (core : Nat) : CacheOnly s (s.throttle core) := by
  unfold State.throttle
  exact CacheOnly.trans ⟨_, _, _, _, _, _, _, rfl, rfl⟩ (armSwaps_cacheOnly _ _)

/-- What the end of a throttle's crews changes. -/
theorem unthrottle_frame (s : State) (us cs : List Nat) : ∃ w lines flying l1 vtags scores throttled agenda, s.unthrottle us cs = { s with
    swapped := w, lines, flying, l1, vtags, scores, throttled, agenda } := by
  have hfold : ∀ (cs : List Nat) (z : State), CacheOnly z (cs.foldl State.throttle z) := by
    intro cs
    induction cs with
    | nil => exact CacheOnly.refl
    | cons c r ih => exact fun z => (throttle_cacheOnly z c).trans (ih _)
  obtain ⟨_, _, _, _, _, _, _, h, -⟩ := hfold cs { s with
    scores := s.scores.filter fun x => !us.contains x.1
    swapped := s.swapped.filter fun u => !us.contains u
    throttled := s.throttled.filter fun u => !us.contains u }
  unfold State.unthrottle
  rw [h]
  exact ⟨_, _, _, _, _, _, _, _, rfl⟩

/-- A crew with no parked sub-group and no token leaves: it is gone, and units and entries stand (R48). -/
theorem removeCrew_of {s : State} {uid : Nat} {d : Crew} (hc : s.crew uid = some d) (hg : ∀ g ∈ s.groups, g.crew ≠ uid)
    (ht : (s.quarter (quarterNo d.core d.quarter)).token ≠ some uid) :
    ∃ z, s.removeCrew uid = z ∧ z.crew uid = none ∧ z.units = s.units ∧ z.entries = s.entries := by
  have hdrop : s.dropGroups (·.crew == uid) = s := by
    have h1 : s.groups.filter (·.crew == uid) = [] := List.filter_eq_nil_iff.mpr fun g h => by simpa using hg g h
    have h2 : (s.groups.filter fun g => !(g.crew == uid)) = s.groups := List.filter_eq_self.mpr fun g h => by simpa using hg g h
    unfold State.dropGroups
    rw [h1, h2]
    rfl
  obtain ⟨o, ho⟩ : ∃ o, (if d.drip.isSome then s.released uid scopeDevice else s).settleOlder (.crew uid) = { s with older := o } := by
    obtain ⟨o, ho⟩ : ∃ o, (if d.drip.isSome then s.released uid scopeDevice else s) = { s with older := o } := by
      split
      · exact releasedBy_frame s _ _
      · exact ⟨_, rfl⟩
    rw [ho]
    unfold State.settleOlder
    split <;> exact ⟨_, rfl⟩
  refine ⟨_, rfl, ?_⟩
  unfold State.removeCrew
  simp only [hc, hdrop, ho, show ¬ (State.quarter { s with older := o } (quarterNo d.core d.quarter)).token = some uid from ht, if_false]
  have hbins : ∃ qs, (if (State.quarter { s with older := o } (quarterNo d.core d.quarter)).bins.any (·.crew == uid) then
      State.onQuarter { s with older := o } (quarterNo d.core d.quarter) fun x => { x with bins := x.bins.filter (·.crew != uid) }
    else { s with older := o }) = { s with
      older := o
      quarters := qs } := by
    split <;> exact ⟨_, rfl⟩
  obtain ⟨qs, hbins⟩ := hbins
  rw [hbins]
  have hunb : ∀ (z : State) (q : Nat), ∃ qs, z.unbindQuarter q = { z with quarters := qs } := by
    intro z q
    unfold State.unbindQuarter
    split
    · split <;> exact ⟨_, rfl⟩
    · exact ⟨_, rfl⟩
  obtain ⟨qs2, h3⟩ := hunb _ _
  rw [h3]
  obtain ⟨_, _, _, _, _, _, _, _, h4⟩ := unthrottle_frame _ _ _
  rw [h4]
  refine ⟨?_, rfl, rfl⟩
  unfold State.crew
  rw [List.find?_eq_none]
  intro x hx
  simpa using (List.mem_filter.mp hx).2

section
variable {sw : Bool} {s : State} {c : Crew} {u : Thread} (ha : AloneReady s c u sw [])
  (hd : ∀ v ∈ c.threads, v.lane ≠ u.lane → v.live = false) (hs : ∀ p ∈ s.stores, p.crew ≠ c.uid)
  (hl : ∀ l ∈ s.landings, l.crew = c.uid → l.row = none)
include ha hd hs hl

/-- The end of a crew all of whose threads have exited (R48, R49). -/
theorem crewFinished_exited : (exitedAt s c u).crewFinished c.uid =
    match c.drip with
    | some d => ((exitedAt s c u).removeCrew c.uid).dripRetired d c.core c.quarter
    | none =>
      match c.course with
      | .saving => (exitedAt s c u).post (.lastExitRelease c.unit)
      | _ =>
        if ((exitedAt s c u).crewsOf c.unit).all (·.uid == c.uid) then
          let q := quarterNo c.core c.quarter
          let z := if ((exitedAt s c u).quarter q).token = some c.uid then (exitedAt s c u).passToken q (exitedCrew s c u)
            else exitedAt s c u
          (z.onUnit c.unit fun u => { u with lastExit := true }).post (.lastExitRelease c.unit)
        else
          let z := ((exitedAt s c u).removeCrew c.uid).onUnit c.unit fun u => { u with finished := u.finished + 1 }
          let z := (c.asyncQ.filter fun a => a.trap.cause == .engineFault).foldl (fun s a =>
            match s.receiverOf c.unit c.uid crewWidth with
            | some (r, lanes) => s.async r a.trap lanes
            | none => s) z
          if (z.unit c.unit).any fun u => u.victim ≠ 0 then z.post (.lastExitRelease c.unit) else z := by
  have hL := exitedAt_laneAt ha.1
  have hflush : (exitedAt s c u).flushCrew c.uid = exitedAt s c u := flushCrew_none (by exact hs) (by exact hl)
  unfold State.crewFinished
  rw [hL.crew]
  simp only [exitedCrew_dead hd, Bool.false_eq_true, if_false, hflush]
  rfl

/-- The exit of a saving crew (R316). -/
theorem exit_saving (hdrip : c.drip = none) (hsav : c.course = .saving) : ∃ t d, exec (.exit sw) s = .next t ∧
    .lastExitRelease c.unit ∈ t.agenda ∧ t.crew c.uid = some d ∧ d.threads.any (·.live) = false ∧ t.units = s.units := by
  have hL := exitedAt_laneAt ha.1
  have hfin := crewFinished_exited ha hd hs hl
  simp only [hdrip, hsav] at hfin
  obtain ⟨h1, h2⟩ := settled_crew_of (s := (exitedAt s c u).post (.lastExitRelease c.unit)) hL.crew hL.quiet hL.iss
  rw [exec_exit ha, hfin]
  refine ⟨_, _, rfl, ?_, h1, settled_any _ (·.live) (fun _ _ => rfl) (exitedCrew_dead hd), by rw [h2]; rfl⟩
  rw [h2]
  exact List.mem_append_right _ (List.mem_singleton_self _)

/-- The exit of the last crew of a block is held (R49). -/
theorem exit_block (hdrip : c.drip = none) (hsav : c.course ≠ .saving)
    (hall : ∀ x ∈ s.crews, x.unit = c.unit → x.drip = none → x.uid = c.uid)
    (htok : (s.quarter (quarterNo c.core c.quarter)).token ≠ some c.uid) {b : BUnit} (hb : s.unit c.unit = some b) :
    ∃ t d, exec (.exit sw) s = .next t ∧ .lastExitRelease c.unit ∈ t.agenda ∧ t.crew c.uid = some d ∧
      d.threads.any (·.live) = false ∧ t.unit c.unit = some { b with lastExit := true } := by
  have hL := exitedAt_laneAt ha.1
  have hcrews : ((exitedAt s c u).crewsOf c.unit).all (·.uid == c.uid) = true := by
    rw [List.all_eq_true]
    intro x hx
    obtain ⟨h1, h2⟩ := List.mem_filter.mp hx
    obtain ⟨y, hy, hu, hun, hdr⟩ := exitedAt_crews h1
    simp only [Bool.and_eq_true, beq_iff_eq, Option.isNone_iff_eq_none] at h2
    rw [beq_iff_eq, ← hu]
    exact hall y hy (hun.trans h2.1) (hdr.trans h2.2)
  have hfin := crewFinished_exited ha hd hs hl
  have htok' : ¬ ((exitedAt s c u).quarter (quarterNo c.core c.quarter)).token = some c.uid := htok
  have hcase : (exitedAt s c u).crewFinished c.uid =
      ((exitedAt s c u).onUnit c.unit fun u => { u with lastExit := true }).post (.lastExitRelease c.unit) := by
    rw [hfin, hdrip]
    cases hco : c.course with
    | saving => exact absurd hco hsav
    | _ => simp only [hcrews, htok', if_true, if_false]
  obtain ⟨h1, h2⟩ := settled_crew_of
    (s := ((exitedAt s c u).onUnit c.unit fun u => { u with lastExit := true }).post (.lastExitRelease c.unit)) hL.crew hL.quiet hL.iss
  rw [exec_exit ha, hcase]
  refine ⟨_, _, rfl, ?_, h1, settled_any _ (·.live) (fun _ _ => rfl) (exitedCrew_dead hd), ?_⟩
  · rw [h2]
    exact List.mem_append_right _ (List.mem_singleton_self _)
  · rw [h2]
    have hzb : (exitedAt s c u).unit c.unit = some b := hb
    exact (onUnit_unit _ _ _ (by exact fun _ => rfl)).trans (by rw [hzb]; rfl)

/-- The exit of another crew of a block: it leaves, and is counted finished (R48). -/
theorem exit_crew (hdrip : c.drip = none) (hsav : c.course ≠ .saving) (hgr : ∀ g ∈ s.groups, g.crew ≠ c.uid)
    (hother : ∃ x ∈ s.crews, x.unit = c.unit ∧ x.drip = none ∧ x.uid ≠ c.uid)
    (htok : (s.quarter (quarterNo c.core c.quarter)).token ≠ some c.uid) (hq : c.asyncQ = []) {b : BUnit} (hb : s.unit c.unit = some b) :
    ∃ t, exec (.exit sw) s = .next t ∧ t.crew c.uid = none ∧ t.unit c.unit = some { b with finished := b.finished + 1 } := by
  have hL := exitedAt_laneAt ha.1
  have hcrews : ((exitedAt s c u).crewsOf c.unit).all (·.uid == c.uid) = false := by
    obtain ⟨x, hx, hun, hdr, hne⟩ := hother
    rw [List.all_eq_false]
    refine ⟨x, List.mem_filter.mpr ⟨exitedAt_keeps hx hne, by simp [hun, hdr]⟩, by simpa using hne⟩
  obtain ⟨z, hz, hzc, hzu, -⟩ := removeCrew_of (s := exitedAt s c u) hL.crew hgr htok
  have hunit : (z.onUnit c.unit fun u => { u with finished := u.finished + 1 }).unit c.unit = some { b with finished := b.finished + 1 } := by
    have hzb : z.unit c.unit = some b := by
      unfold State.unit
      rw [hzu]
      exact hb
    rw [onUnit_unit _ _ _ (by exact fun _ => rfl), hzb]
    rfl
  have hfin := crewFinished_exited ha hd hs hl
  have hcase : ∃ ag, (exitedAt s c u).crewFinished c.uid =
      { z.onUnit c.unit fun u => { u with finished := u.finished + 1 } with agenda := ag } := by
    rw [hfin, hdrip]
    cases hco : c.course with
    | saving => exact absurd hco hsav
    | _ =>
      simp only [hcrews, Bool.false_eq_true, if_false, hq, List.filter_nil, List.foldl_nil, hz]
      split <;> exact ⟨_, rfl⟩
  obtain ⟨ag, hcase⟩ := hcase
  have hgone : State.crew { z.onUnit c.unit fun u => { u with finished := u.finished + 1 } with agenda := ag } c.uid = none := hzc
  refine ⟨_, exec_exit ha, ?_⟩
  rw [hcase]
  have hset : State.settle { z.onUnit c.unit fun u => { u with finished := u.finished + 1 } with agenda := ag } c.uid =
      { z.onUnit c.unit fun u => { u with finished := u.finished + 1 } with agenda := ag } := by
    unfold State.settle
    rw [hgone]
  rw [hset]
  exact ⟨hgone, hunit⟩

/-- The exit of a drip: its burst is done, and its slot is free for another (R272, R274). -/
theorem exit_drip {d : Drip} {e : Entry} (hdrip : c.drip = some d) (hgr : ∀ g ∈ s.groups, g.crew ≠ c.uid)
    (htok : (s.quarter (quarterNo c.core c.quarter)).token ≠ some c.uid) (he : s.entry d.entry = some e) (h2 : 2 ≤ e.progress.length)
    (hlt : e.retired.length + 1 + e.failed.length < e.progress.getD 0 0) :
    ∃ t, exec (.exit sw) s = .next t ∧ t.crew c.uid = none ∧ .dripBirth c.core c.quarter ∈ t.agenda ∧
      t.entry d.entry = some { e with progress := e.progress ++ [d.burst] } := by
  have hL := exitedAt_laneAt ha.1
  obtain ⟨z, hz, hzc, -, hze⟩ := removeCrew_of (s := exitedAt s c u) hL.crew hgr htok
  have hentry : (z.onEntry d.entry fun e => { e with progress := e.progress ++ [d.burst] }).entry d.entry =
      some { e with progress := e.progress ++ [d.burst] } := by
    have hzentry : z.entry d.entry = some e := by
      unfold State.entry
      rw [hze]
      exact he
    rw [onEntry_entry _ _ _ (by exact fun _ => rfl), hzentry]
    rfl
  have hcheck : (z.onEntry d.entry fun e => { e with progress := e.progress ++ [d.burst] }).hreadCheck d.entry =
      z.onEntry d.entry fun e => { e with progress := e.progress ++ [d.burst] } := by
    unfold State.hreadCheck
    rw [hentry]
    have h3 : (Entry.retired { e with progress := e.progress ++ [d.burst] }).length = e.retired.length + 1 := by
      simp [Entry.retired]
      omega
    have h4 : (e.progress ++ [d.burst]).getD 0 0 = e.progress.getD 0 0 := by
      rw [List.getD_eq_getElem?_getD, List.getD_eq_getElem?_getD, List.getElem?_append_left (by omega)]
    simp only [h3, h4]
    rw [if_neg (by omega)]
  have hfin := crewFinished_exited ha hd hs hl
  simp only [hdrip, hz, State.dripRetired, hcheck] at hfin
  refine ⟨_, exec_exit ha, ?_⟩
  rw [hfin]
  have hgone : ((z.onEntry d.entry fun e => { e with progress := e.progress ++ [d.burst] }).post (.dripBirth c.core c.quarter)).crew c.uid =
      none := hzc
  have hset : ((z.onEntry d.entry fun e => { e with progress := e.progress ++ [d.burst] }).post (.dripBirth c.core c.quarter)).settle c.uid =
      (z.onEntry d.entry fun e => { e with progress := e.progress ++ [d.burst] }).post (.dripBirth c.core c.quarter) := by
    unfold State.settle
    rw [hgone]
  rw [hset]
  exact ⟨hgone, List.mem_append_right _ (List.mem_singleton_self _), hentry⟩

end

/-! ## rnd -/

/-- In the normal mode of its launch rnd puts some value in flight and counts (R202). -/
theorem rnd_lands {sw : Bool} {d : BitVec 7} {s : State} {c : Crew} {u : Thread} {l : Launch} (ha : AloneReady s c u sw [dX d 1])
    (hlaunch : s.launch c.world c.launch = some l) (hmode : l.desc.rndmode = 0) : ∃ t v, exec (.rnd sw d) s = .next t ∧
      Lands s { s with freeCtr := s.freeCtr + 1 } t c u u { c with rndcnt := c.rndcnt + 1 } [(u.wb + d.toNat, v)] := by
  obtain ⟨hA, hx, hR⟩ := ha
  let e : Env := ⟨c.uid, encRRR sw 31#6 9#4 d 0#7 0#7, s.iss.guard, c.region⟩
  let vals : List (Nat × Word) := [(u.wb + d.toNat, Config.noise s.freeCtr)]
  have hop : opCheck ⟨c.uid, encRRR sw 31#6 9#4 d 0#7 0#7, s.iss.guard, c.region⟩
    { word := encRRR sw 31#6 9#4 d 0#7 0#7, sw := sw, ops := [dX d 1] } c u = none := opCheck_ready rfl rfl hR
  let z : State := s.issued.onLane c.uid u.lane fun t => { t with pc := nextPc s u }
  have hvals : z.rndValues c [u.lane] = ({ z with freeCtr := s.freeCtr + 1 }, [(u.lane, Config.noise s.freeCtr)]) := by
    unfold State.rndValues
    rw [show z.launch c.world c.launch = some l from hlaunch]
    simp only [hmode, State.rndFresh, State.free, Nat.zero_ne_one, if_false]
    rfl
  let cnt : Crew → Crew := fun c => { c with rndcnt := c.rndcnt + 1 }
  let pend : Thread → Thread := fun t => { t with pendX := pendAll t.pendX (vals.map Prod.fst) (s.issPc u) }
  let z2 : State := State.onCrew { z with freeCtr := s.freeCtr + 1 } c.uid cnt
  have hL := (((hA.laneAt.onLane (fun t => { t with pc := nextPc s u }) (fun _ => rfl) fun _ => rfl).onCrew cnt (fun _ => rfl)
    (fun _ => rfl) fun x y h => by
      have hcnt : x.rndcnt = y.rndcnt := (congrArg (fun (k : Crew) => k.rndcnt) h :)
      exact (show _ = _ by
        have := congrArg (fun (k : Crew) => { k with rndcnt := y.rndcnt + 1 }) h
        simpa only [cnt, hcnt] using this)).onLane pend (fun _ => rfl)
    fun _ => rfl).same (s2 := z2.inFlight c.uid u.lane (s.issPc u) vals none) rfl rfl
  obtain ⟨h1, h2⟩ := hL.settles
  refine ⟨_, Config.noise s.freeCtr, ?_, h1, by rw [h2]; rfl⟩
  rw [show exec (.rnd sw d) s = execRnd sw d s from rfl]
  unfold execRnd
  dsimp only
  rw [issue_alone (f := { word := encRRR sw 31#6 9#4 d 0#7 0#7, sw := sw, ops := [dX d 1] }) hA (wordTrap_plain rfl hx)
    fun h => hR.clear h, hA.acting rfl]
  simp only [List.filterMap_cons, List.filterMap_nil, List.filter_cons, List.filter_nil, hop, Option.map_none, Option.isNone_none, if_true,
    List.map_cons, List.map_nil, List.isEmpty_cons, Bool.false_eq_true, if_false]
  rw [hA.onPick (z := s.issued) (g := fun t => { t with pc := nextPc s u }) rfl hA.sel_lane]
  · rw [show (s.issued.onLane c.uid u.lane fun t => { t with pc := nextPc s u }) = z from rfl, hvals]
    simp only [List.find?_cons, beq_self_eq_true, Option.map_some, Option.getD_some, List.foldl_cons, List.foldl_nil]
    rfl
  · rfl

/-- Settles O27: `exit_leaves` and the ends of a crew's last thread, `sysc_files`, `rnd_lands`. -/
theorem threadServices : Obligations.ThreadServices :=
  ⟨fun _ _ _ _ _ ha hv hl hlive hcoll hq => exit_leaves ha hv hl hlive hcoll hq,
    fun _ _ _ _ ha hd hs hl => ⟨fun hdrip hsav => exit_saving ha hd hs hl hdrip hsav,
      fun hdrip hsav hall htok _ hb => exit_block ha hd hs hl hdrip hsav hall htok hb,
      fun hgr htok => ⟨fun hdrip hsav hother hq _ hb => exit_crew ha hd hs hl hdrip hsav hgr hother htok hq hb,
        fun _ _ hdrip he h2 hlt => exit_drip ha hd hs hl hdrip hgr htok he h2 hlt⟩⟩,
    fun _ _ _ _ _ ha _ => sysc_files ha, fun _ _ _ _ _ _ ha hl hm => rnd_lands ha hl hm⟩

/-! ## UNINIT of a uniform register's marker -/

/-- A thread that holds, in x0, the marker of uniform register 0. -/
def markedThread : Thread := { Thread.init 0 0 with regs := [(0, 0x7FB00000)] }

def markedCrew : Crew := { Crew.init 0 with threads := [markedThread] }

def markedState : State := { State.reset with crews := [markedCrew] }

theorem marked_alone : Alone markedState markedCrew markedThread := by
  refine ⟨⟨rfl, rfl, by decide⟩, fun d hd _ => List.mem_singleton.mp hd, rfl, fun v hv _ => List.mem_singleton.mp hv, rfl, rfl⟩

theorem marked_canTrap : CanTrap markedState markedCrew markedThread :=
  ⟨rfl, ⟨by decide, by decide⟩, ⟨by decide, by decide⟩, rfl, fun w hw => nomatch hw⟩

/-- Refutes O53: the record of UNINIT names the class of the register that the marker came from (R87), which is uniform
where a uniform register's marker was moved into the thread register. -/
theorem not_trapConditions : ¬ Obligations.TrapConditions := by
  unfold Obligations.TrapConditions
  rintro ⟨-, h, -⟩
  obtain ⟨t, rec, hexec, ⟨⟨d, hcrew, ⟨m, hthread⟩, -⟩, -⟩, -, -, hwords⟩ :=
    h false 0 0 1 markedState markedCrew markedThread marked_alone marked_canTrap rfl rfl
  have hrun : (match exec (.fadd false 0 0 1) markedState with
    | .next t => ((t.crew 0).bind (·.thread 0)).map fun u => tabGet u.trec 0 2
    | _ => none) = some 1 := by rfl
  rw [hexec] at hrun
  have hrec : ((t.crew 0).bind (·.thread 0)).map (fun u => tabGet u.trec 0 2) = some 0 := by
    rw [show t.crew 0 = some d from hcrew, Option.bind_some, show d.thread 0 = _ from hthread]
    exact congrArg some (hwords 0)
  exact absurd (hrec.symm.trans hrun) (by decide)

end Sys2Proof.Machine
end


section
/-! # Circular buffers -/

namespace Sys2Proof.Machine

/-! ## Objects that nobody waits for -/

/-- No thread waits on the object of this number. -/
def NoCbWait (s : State) (obj : Nat) (fill : Bool) : Prop := ∀ k ∈ s.crews, ∀ t ∈ k.threads, t.cbWait obj fill = none

theorem NoCbWait.firstWait {s : State} {obj : Nat} {fill : Bool} (h : NoCbWait s obj fill) (uid : Nat) :
    s.firstWait uid obj fill = none := by
  have : s.cbWaits uid obj fill = [] := by
    unfold State.cbWaits
    rw [List.flatMap_eq_nil_iff]
    intro k hk
    rw [List.filterMap_eq_nil_iff]
    intro t ht
    rw [h k (List.mem_filter.mp hk).1 t ht]
    rfl
  unfold State.firstWait
  rw [this]
  rfl

theorem NoCbWait.of {s : State} {obj : Nat}
    (h : ∀ k ∈ s.crews, ∀ t ∈ k.threads, ∀ d f i n, t.st ≠ .blocked (.cb obj d f i) n) (fill : Bool) : NoCbWait s obj fill := by
  intro k hk t ht
  unfold Thread.cbWait
  split
  next o d f id n hst =>
    rw [if_neg]
    intro ho
    obtain ⟨ho, -⟩ := Bool.and_eq_true_iff.mp ho
    exact h k hk t ht d f id n (by rw [hst, of_decide_eq_true ho])
  next => rfl

theorem NoCbWait.onCrew {s : State} {obj uid : Nat} {fill : Bool} (h : NoCbWait s obj fill) {f : Crew → Crew}
    (hf : ∀ k, ∀ t ∈ (f k).threads, (∃ v ∈ k.threads, t.st = v.st) ∨ t.cbWait obj fill = none) : NoCbWait (s.onCrew uid f) obj fill := by
  intro k hk t ht
  obtain ⟨y, hy, rfl⟩ := List.mem_map.mp hk
  split at ht
  · rcases hf y t ht with ⟨v, hv, hst⟩ | hn
    · rw [← h y hy v hv]
      unfold Thread.cbWait
      rw [hst]
    · exact hn
  · exact h y hy t ht

theorem NoCbWait.onLane {s : State} {obj uid lane : Nat} {fill : Bool} (h : NoCbWait s obj fill) {f : Thread → Thread}
    (hf : ∀ t, (f t).st = t.st ∨ (f t).cbWait obj fill = none) : NoCbWait (s.onLane uid lane f) obj fill := by
  refine h.onCrew fun k t ht => ?_
  unfold Crew.onLane mapIf at ht
  obtain ⟨v, hv, rfl⟩ := List.mem_map.mp ht
  split
  · exact (hf v).imp (fun h => ⟨v, hv, h⟩) id
  · exact .inl ⟨v, hv, rfl⟩

/-- Where no one waits, or the object is not as it must be for them, nothing is served. -/
theorem cbSettle_quiet {s : State} {uid obj n : Nat}
    (h1 : s.firstWait uid obj true = none ∨ ∀ c, s.cbuf uid obj = some c → c.startFill false = none)
    (h2 : s.firstWait uid obj false = none ∨ ∀ c, s.cbuf uid obj = some c → c.acquire = none) : s.cbSettle uid obj n = s := by
  cases n with
  | zero => rfl
  | succ n =>
    unfold State.cbSettle
    split
    · rfl
    next c hc =>
      split
      next hw hs =>
        rcases h1 with h1 | h1
        · rw [h1, ite_self] at hw
          cases hw
        · rw [h1 c hc] at hs
          cases hs
      next =>
        split
        next hw hs =>
          rcases h2 with h2 | h2
          · rw [h2] at hw
            cases hw
          · rw [h2 c hc] at hs
            cases hs
        next => rfl

theorem kickQueues_none {s : State} {unit : Nat} (h : ∀ e ∈ s.entries, e.unit ≠ unit) : s.kickQueues unit = s := by
  have : ∀ (es : List Entry), (∀ e ∈ es, e.unit ≠ unit) →
      es.foldl (fun s e => if e.unit == unit && e.phase == .queued then s.startNext unit e.qkey else s) s = s := by
    intro es he
    induction es with
    | nil => rfl
    | cons e r ih =>
      rw [List.foldl_cons, if_neg (by simp [he e (by simp)])]
      exact ih fun x hx => he x (by simp [hx])
  exact this s.entries h

theorem engineFills_none {s : State} {unit obj : Nat} (h : ∀ e ∈ s.entries, e.unit ≠ unit) : s.engineFills unit obj = false := by
  unfold State.engineFills
  rw [List.any_eq_false]
  intro e he
  simp [h e he]

/-! ## An instruction of a lone thread -/

/-- What the lone thread of a buffer instruction does (R226). -/
theorem execBuffer_alone {f : Form} {s z : State} {c : Crew} {u : Thread}
    {go : Env → Crew → Thread → List Nat → State → Except Trap State} (ha : AloneReady s c u f.sw f.ops)
    (hf : { f with drip := true }.plain = true) (hd : c.drip = none)
    (hg : go ⟨c.uid, f.word, s.iss.guard, c.region⟩ c u [u.lane] (s.issued.onLane c.uid u.lane id) = .ok z) :
    execBuffer f s go = .next (z.settle c.uid) := by
  obtain ⟨hA, hx, hR⟩ := ha
  have hp := hf
  simp only [Form.plain, Bool.and_eq_true, Bool.not_eq_true', List.isEmpty_iff] at hp
  obtain ⟨⟨⟨-, hcoll⟩, -⟩, hqs⟩ := hp
  have hop : opCheck ⟨c.uid, f.word, s.iss.guard, c.region⟩ f c u = none := opCheck_ready hcoll hqs hR
  unfold execBuffer
  rw [issue_alone (f := { f with drip := false }) hA (wordTrap_noDrip hf hd) fun h => by
    rw [if_neg (by simpa using hcoll)]
    exact hR.clear h, hA.acting rfl]
  simp only [List.filterMap_cons, List.filterMap_nil, List.filter_cons, List.filter_nil, hop, Option.map_none, Option.isNone_none, if_true,
    List.map_cons, List.map_nil]
  rw [hA.onPick (z := s.issued) (g := id) rfl hA.sel_lane]
  · rw [hg]
  · simp

theorem cbuf_of {s : State} {uid obj : Nat} {k : BUnit} {cb : CBuf} (hk : s.unit uid = some k) (hcb : k.cbs[obj]? = some cb) :
    s.cbuf uid obj = some cb := by
  unfold State.cbuf
  rw [hk]
  exact hcb

/-- Nothing waits for the object, and no engine entry of the block. -/
def CbQuiet (s : State) (c : Crew) (obj : Nat) : Prop := c.drip = none ∧ (∀ e ∈ s.entries, e.unit ≠ c.unit) ∧
  ∀ k ∈ s.crews, ∀ t ∈ k.threads, ∀ d f i n, t.st ≠ .blocked (.cb obj d f i) n

/-- A thread takes part in an acquire at block scope, and its crew's region closes (R226). -/
theorem acquired_opened {s s1 : State} {c d k : Crew} {u v : Thread} (h : LaneAt s s1 c u v k d) :
    ∃ d', LaneAt s ((s1.acquired c.uid scopeBlock).syncOp c.uid) c u v { k with region := k.region + 1 } d' ∧
      ∃ o r, (s1.acquired c.uid scopeBlock).syncOp c.uid = { s1.onCrew c.uid fun x => { x with region := x.region + 1 } with
        older := o
        recs := r } := by
  obtain ⟨o, ho⟩ := acquiredBy_frame s1 (.crew c.uid) scopeBlock
  obtain ⟨r, hr⟩ := syncOp_frame { s1 with older := o } c.uid
  have he : (s1.acquired c.uid scopeBlock).syncOp c.uid = { s1.onCrew c.uid fun x => { x with region := x.region + 1 } with
      older := o
      recs := r } := by
    unfold State.acquired
    rw [ho, hr]
    rfl
  exact ⟨_, h.opened.same (by rw [he]) (by rw [he]; exact h.iss), o, r, he⟩

/-- Two changes of one crew are one. -/
theorem onCrew_onCrew (s : State) (uid : Nat) {f g : Crew → Crew} (hf : ∀ k, (f k).uid = k.uid) :
    (s.onCrew uid f).onCrew uid g = s.onCrew uid fun k => g (f k) := by
  unfold State.onCrew mapIf
  simp only [List.map_map]
  congr 1
  refine List.map_congr_left fun k _ => ?_
  by_cases h : (k.uid == uid) = true
  · have h' : ((f k).uid == uid) = true := by rw [hf]; exact h
    simp only [Function.comp_apply, h, h', if_true]
  · simp only [Function.comp_apply, h, if_false, Bool.false_eq_true]

theorem setGoes_lane (s : State) (e : Env) (lane : Nat) (d : Option (Nat × Nat)) : s.setGoes e [lane] d =
    s.onLane e.uid lane fun t => match d with
      | some (f, v) => ({ t with pc := e.next t }).putX f (BitVec.ofNat 32 v)
      | none => { t with pc := e.next t } := by
  unfold State.setGoes State.onLane
  congr 1
  funext k
  exact onThreads_lane k lane _

/-- The transition that cbacq and cbfill wait for. -/
def CBuf.take (fill : Bool) (cb : CBuf) : Option (CBuf × Nat) := if fill then cb.startFill false else cb.acquire

section
variable {fill sw : Bool} {d b : BitVec 7} {w : Word} {s : State} {c : Crew} {u : Thread} {k : BUnit} {cb : CBuf} {i : Instr}

/-- The state in which the transition is made, and who waits there. -/
theorem buffer_began (hA : Alone s c u) (hq : CbQuiet s c b.toNat) :
    ∃ z d', z = ((s.issued.onLane c.uid u.lane id).acquired c.uid scopeBlock).syncOp c.uid ∧
      LaneAt s z c u u { c with region := c.region + 1 } d' ∧ (∀ fill, NoCbWait z b.toNat fill) ∧ z.units = s.units ∧
      z.entries = s.entries ∧ z.nextId = s.nextId ∧ ∃ cs o r, z = { s with
        crews := cs
        iss := ⟨0, 0, none⟩
        older := o
        recs := r } := by
  obtain ⟨d', hL, o, r, he⟩ := acquired_opened (hA.laneAt.onLane id (fun _ => rfl) fun _ => rfl)
  refine ⟨_, d', rfl, hL, fun fill => ?_, ?_⟩
  · have h0 : NoCbWait s.issued b.toNat fill := NoCbWait.of hq.2.2 fill
    have h1 := (h0.onLane (uid := c.uid) (lane := u.lane) (f := id) fun _ => .inl rfl).onCrew (uid := c.uid)
      (f := fun x => { x with region := x.region + 1 }) fun k t ht => .inl ⟨t, ht, rfl⟩
    rw [he]
    exact h1
  · rw [he]
    exact ⟨rfl, rfl, rfl, _, _, _, rfl⟩

/-- A slot that is as it must be is taken at once (R111, R226). -/
theorem buffer_takes (hi : exec i s = execBuffer { word := w, sw := sw, ops := [dX d 1] } s fun e c _ lanes s => bufferTake fill d b e c lanes s)
    (ha : AloneReady s c u sw [dX d 1]) (hq : CbQuiet s c b.toNat) (hk : s.unit c.unit = some k) (hcb : k.cbs[b.toNat]? = some cb)
    {cb' : CBuf} {slot : Nat} (ht : cb.take fill = some (cb', slot)) :
    ∃ t, exec i s = .next t ∧ Leaves s (s.onCbuf c.unit b.toNat fun _ => cb') t c u
      { u.putX d.toNat (BitVec.ofNat 32 slot) with pc := nextPc s u } { c with region := c.region + 1 } := by
  obtain ⟨z, d', hz, hL, hno, hunits, hent, -, cs, o, r, hzs⟩ := buffer_began ha.1 hq
  let f : Thread → Thread := fun t => ({ t with pc := nextPc s t }).putX d.toNat (BitVec.ofNat 32 slot)
  let z2 : State := (z.onCbuf c.unit b.toNat fun _ => cb').onLane c.uid u.lane f
  have hL2 : LaneAt s z2 c u (f u) { c with region := c.region + 1 } (d'.onLane u.lane f) :=
    (hL.onLane f (fun _ => rfl) fun _ => rfl).same rfl hL.iss
  have hwait : ∀ fill, NoCbWait z2 b.toNat fill := fun fill =>
    NoCbWait.onLane (s := z.onCbuf c.unit b.toNat fun _ => cb') (by exact hno fill) fun _ => .inl rfl
  have hchanged : z2.cbChanged c.unit b.toNat = z2 := by
    unfold State.cbChanged
    have he : z2.entries = s.entries := hent
    rw [kickQueues_none (by rw [he]; exact hq.2.1)]
    exact cbSettle_quiet (.inl ((hwait true).firstWait _)) (.inl ((hwait false).firstWait _))
  have hbody : bufferTake fill d b ⟨c.uid, w, s.iss.guard, c.region⟩ c [u.lane] (s.issued.onLane c.uid u.lane id) = .ok z2 := by
    unfold bufferTake
    simp only [show (s.issued.onLane c.uid u.lane id).cbuf c.unit b.toNat = some cb from cbuf_of hk hcb, ← hz,
      (hno fill).firstWait, engineFills_none (show ∀ e ∈ z.entries, e.unit ≠ c.unit by rw [hent]; exact hq.2.1),
      Option.isSome_none, Bool.and_false, Bool.or_self, Bool.false_eq_true, if_false]
    unfold CBuf.take at ht
    rw [ht]
    dsimp only
    rw [setGoes_lane]
    exact congrArg Except.ok hchanged
  obtain ⟨h1, h2⟩ := hL2.settles
  rw [hi]
  refine ⟨_, execBuffer_alone ha rfl hq.1 hbody, h1, ?_⟩
  rw [h2]
  unfold Within
  simp only [z2, hzs]
  rfl

/-- Else the thread waits for it (R227). -/
theorem buffer_blocks (hi : exec i s = execBuffer { word := w, sw := sw, ops := [dX d 1] } s fun e c _ lanes s => bufferTake fill d b e c lanes s)
    (ha : AloneReady s c u sw [dX d 1]) (hq : CbQuiet s c b.toNat) (hk : s.unit c.unit = some k) (hcb : k.cbs[b.toNat]? = some cb)
    (ht : cb.take fill = none) : ∃ t, exec i s = .next t ∧ Leaves s { s with nextId := s.nextId + 1 } t c u { u with
        st := .blocked (.cb b.toNat d.toNat fill s.nextId) (nextPc s u)
        pendX := pendAll u.pendX [u.wb + d.toNat] (s.issPc u) } { c with region := c.region + 1 } := by
  obtain ⟨z, d', hz, hL, hno, hunits, hent, hid, cs, o, r, hzs⟩ := buffer_began ha.1 hq
  let f : Thread → Thread := fun t => { t with
    st := .blocked (.cb b.toNat d.toNat fill z.nextId) (nextPc s t)
    pendX := pendAll t.pendX [t.wb + d.toNat] (s.issPc t) }
  let z1 : State := State.onLane { z with nextId := z.nextId + 1 } c.uid u.lane f
  let z2 : State := z1.onCrew c.uid (·.band [u.lane])
  have hL2 : LaneAt s z2 c u { f u with set := (d'.onLane u.lane f).newSet } { c with region := c.region + 1 } _ :=
    (LaneAt.same (s2 := z1) (hL.onLane f (fun _ => rfl) fun _ => rfl) rfl hL.iss).banded
  have hwait : NoCbWait z2 b.toNat (!fill) := by
    refine NoCbWait.onCrew (NoCbWait.onLane (s := { z with nextId := z.nextId + 1 }) (by exact hno (!fill)) fun t => .inr ?_) fun k t ht => ?_
    · simp [f, Thread.cbWait]
    · obtain ⟨v, hv, n, rfl⟩ := band_mem ht
      exact .inl ⟨v, hv, rfl⟩
  have hcbuf : ∀ x, z2.cbuf c.unit b.toNat = some x → x = cb := by
    intro x hx
    have hx' : z.cbuf c.unit b.toNat = some x := hx
    have hz' : z.cbuf c.unit b.toNat = some cb := by
      rw [hzs]
      exact cbuf_of hk hcb
    exact Option.some.inj (hx'.symm.trans hz')
  have hchanged : z2.cbChanged c.unit b.toNat = z2 := by
    unfold State.cbChanged
    have he : z2.entries = s.entries := hent
    rw [kickQueues_none (by rw [he]; exact hq.2.1)]
    cases fill with
    | false => exact cbSettle_quiet (.inl (hwait.firstWait _)) (.inr fun x hx => by rw [hcbuf x hx]; exact ht)
    | true => exact cbSettle_quiet (.inr fun x hx => by rw [hcbuf x hx]; exact ht) (.inl (hwait.firstWait _))
  have hbody : bufferTake fill d b ⟨c.uid, w, s.iss.guard, c.region⟩ c [u.lane] (s.issued.onLane c.uid u.lane id) = .ok z2 := by
    unfold bufferTake
    simp only [show (s.issued.onLane c.uid u.lane id).cbuf c.unit b.toNat = some cb from cbuf_of hk hcb, ← hz,
      (hno fill).firstWait, engineFills_none (show ∀ e ∈ z.entries, e.unit ≠ c.unit by rw [hent]; exact hq.2.1),
      Option.isSome_none, Bool.and_false, Bool.or_self, Bool.false_eq_true, if_false]
    unfold CBuf.take at ht
    rw [ht]
    dsimp only
    have hband : (State.onCrew { z with nextId := z.nextId + 1 } c.uid fun k => (k.onThreads (fun t => [u.lane].contains t.lane) f).band
        [u.lane]) = z2 := by
      simp only [onThreads_lane]
      exact (onCrew_onCrew { z with nextId := z.nextId + 1 } c.uid (f := fun k => k.onLane u.lane f) (g := (·.band [u.lane]))
        fun _ => rfl).symm
    exact (congrArg (fun z => Except.ok (State.cbChanged z c.unit b.toNat)) hband).trans (congrArg Except.ok hchanged)
  obtain ⟨⟨c', h1, ⟨n, h2⟩, h3⟩, h4⟩ := hL2.settles
  rw [hi]
  refine ⟨_, execBuffer_alone ha rfl hq.1 hbody, ⟨c', h1, ⟨n, by rw [h2, ← hid]⟩, h3⟩, ?_⟩
  rw [h4]
  unfold Within
  simp only [z2, z1, hzs]
  rfl

end

/-- A slot of the state that the instruction asks for is given back (R111, R226). -/
theorem buffer_gives {done sw : Bool} {a b : BitVec 7} {w : Word} {s : State} {c : Crew} {u : Thread} {k : BUnit} {cb : CBuf} {i : Instr}
    {cb' : CBuf} (hi : exec i s = execBuffer { word := w, sw := sw, ops := [aX a 1] } s fun e c t lanes s => bufferGive done a b e c t lanes s)
    (ha : AloneReady s c u sw [aX a 1]) (hq : CbQuiet s c b.toNat) (hs : Settled s c u) (hk : s.unit c.unit = some k)
    (huniq : ∀ v ∈ s.units, v.uid = c.unit → v = k) (hcb : k.cbs[b.toNat]? = some cb) (hlt : (u.x a.toNat).toNat < cb.count)
    (hst : cb.slotSt (u.x a.toNat).toNat = (if done then .filling else .reading, false))
    (hcb' : (if done then cb.endFill (u.x a.toNat).toNat else cb.release (u.x a.toNat).toNat) = cb') :
    ∃ t, exec i s = .next t ∧ Leaves s (s.onCbuf c.unit b.toNat fun _ => cb') t c u { u with pc := nextPc s u }
      { c with region := c.region + 1 } := by
  let z0 : State := s.issued.onLane c.uid u.lane id
  have hdrain : [u.lane].foldl (fun s l => s.drainLane c.uid l) z0 = z0 := drainLane_fold (by exact hs) fun l hl => List.mem_singleton.mp hl
  obtain ⟨o, r, hz⟩ := syncRel_frame z0 c.uid scopeBlock
  let z1 : State := (z0.syncRel c.uid scopeBlock).onCbuf c.unit b.toNat fun x =>
    if done then x.endFill (u.x a.toNat).toNat else x.release (u.x a.toNat).toNat
  let f : Thread → Thread := fun t => { t with pc := nextPc s t }
  let z2 : State := z1.onLane c.uid u.lane f
  have hL := (ha.1.laneAt.onLane id (fun _ => rfl) fun _ => rfl).opened
  have hL2 := (hL.onLane f (fun _ => rfl) fun _ => rfl).same (s2 := z2) (by simp only [z2, z1, hz]; rfl) (by simp only [z2, z1, hz]; rfl)
  have hwait : ∀ fill, NoCbWait z2 b.toNat fill := by
    intro fill
    have h0 : NoCbWait s.issued b.toNat fill := NoCbWait.of hq.2.2 fill
    have h1 := (h0.onLane (uid := c.uid) (lane := u.lane) (f := id) fun _ => .inl rfl).onCrew (uid := c.uid)
      (f := fun x => { x with region := x.region + 1 }) fun k t ht => .inl ⟨t, ht, rfl⟩
    have h2 : NoCbWait z1 b.toNat fill := by
      simp only [z1, hz]
      exact h1
    exact h2.onLane fun _ => .inl rfl
  have hent : z2.entries = s.entries := by
    simp only [z2, z1, hz]
    rfl
  have hchanged : z2.cbChanged c.unit b.toNat = z2 := by
    unfold State.cbChanged
    rw [kickQueues_none (by rw [hent]; exact hq.2.1)]
    exact cbSettle_quiet (.inl ((hwait true).firstWait _)) (.inl ((hwait false).firstWait _))
  have hbody : bufferGive done a b ⟨c.uid, w, s.iss.guard, c.region⟩ c u [u.lane] z0 = .ok z2 := by
    have hok : (decide ((u.x a.toNat).toNat < cb.count) &&
        cb.slotSt (u.x a.toNat).toNat == (if done then (.filling, false) else (.reading, false))) = true := by
      rw [hst]
      cases done <;> simp [hlt]
    unfold bufferGive
    simp only [show z0.cbuf c.unit b.toNat = some cb from cbuf_of hk hcb, hok, Bool.not_true, Bool.false_eq_true, if_false, hdrain]
    rw [setGoes_lane]
    exact congrArg Except.ok hchanged
  have hunits : z1.units = (s.onCbuf c.unit b.toNat fun _ => cb').units := by
    simp only [z1, hz]
    refine List.map_congr_left fun v hv => ?_
    by_cases hu : v.uid = c.unit
    · obtain rfl := huniq v hv hu
      simp only [hu, beq_self_eq_true, if_true, hcb, hcb']
    · simp [hu]
  obtain ⟨h1, h2⟩ := hL2.settles
  rw [hi]
  refine ⟨_, execBuffer_alone ha rfl hq.1 hbody, h1, ?_⟩
  rw [h2]
  have hfr : z2 = { s with
      crews := z2.crews
      iss := ⟨0, 0, none⟩
      older := o
      recs := r
      units := z1.units } := by
    simp only [z2, z1, hz]
    rfl
  unfold Within
  rw [hfr, hunits]
  rfl

/-- Settles O29: cbacq and cbfill take their slot or wait, cbrel and cbdone give theirs back. -/
theorem circularBuffers : Obligations.CircularBuffers := by
  unfold Obligations.CircularBuffers
  refine ⟨fun sw d b s c u k cb ha hq _ hk hcb hlt => ?_, fun sw d b s c u k cb ha hq _ hk hcb hlt => ?_,
    fun sw a b s c u k cb ha hq hs _ hk hu hcb hlt hst =>
      buffer_gives (done := false) rfl ha hq hs hk hu hcb hlt hst rfl,
    fun sw a b s c u k cb ha hq hs _ hk hu hcb hlt hst => buffer_gives (done := true) rfl ha hq hs hk hu hcb hlt hst ?_⟩
  · split
    next hst => exact buffer_takes (fill := false) rfl ha hq hk hcb (if_pos hst)
    next hst => exact buffer_blocks (fill := false) rfl ha hq hk hcb (if_neg hst)
  · split
    next hst =>
      have ht : cb.startFill false = some (_, cb.wix) := if_pos (by rw [show (cb.slotSt cb.wix).1 = .free from hst]; simp [hlt])
      exact buffer_takes (fill := true) rfl ha hq hk hcb ht
    next hst =>
      have ht : cb.startFill false = none := if_neg (by rw [Bool.and_eq_true_iff]; exact fun h => hst (of_decide_eq_true h.1))
      exact buffer_blocks (fill := true) rfl ha hq hk hcb ht
  · have hfill : (cb.slotSt (u.x a.toNat).toNat).1 = .filling := congrArg Prod.fst hst
    exact if_pos hfill

end Sys2Proof.Machine
end


section
/-! # Commands of the engines -/

namespace Sys2Proof.Machine

/-! ## A group table in another agent's copy -/

/-- A thread with 0 in x0, which names the descriptor at 0 of its scratchpad. -/
def groupThread : Thread := { Thread.init 0 0 with regs := [(0, 0)] }

def groupCrew : Crew := { Crew.init 0 with threads := [groupThread] }

/-- A channel of group 0. -/
def groupChan : Chan := ⟨0, 0, 3, false, true, false, false, false, 0⟩

def groupDesc : LDesc := ⟨0, false, 0, ⟨0, []⟩, 0, 0, 0, 0, 0, 0, 0, 0, [], [groupChan], [], [], [], [], 0, 0, 0⟩

def groupUnit : BUnit := ⟨0, 0, 0, 0, 0, 0, [0], 1, 512, [], [], [], [], false, 0, 0, 0, false, none, []⟩

/-- A world with one group, its table one page up. -/
def groupWorld : World := { World.init 0 with
  regions := List.range 64
  fab := { FabPage.init with
    ngrp := 1
    grptab := 65536 } }

/-- The first 64 GiB are mapped to themselves, and die 0 holds the line of the group table modified. -/
def groupState : State := { State.reset with
  mem := [(0, 1), (9, 0x40), (0x4000, 103)]
  crews := [groupCrew]
  units := [groupUnit]
  launches := [Launch.init 0 0 0 groupDesc]
  worlds := [groupWorld]
  lines := [⟨65536, .hx 0, [(0, .m)], [], [], [], []⟩] }

theorem groupState_alone : AloneReady groupState groupCrew groupThread false [aX 0 1] := by
  refine ⟨⟨⟨rfl, rfl, by decide⟩, fun d hd _ => List.mem_singleton.mp hd, rfl, fun v hv _ => List.mem_singleton.mp hv, rfl, rfl⟩,
    .inl rfl, rfl, rfl, rfl⟩

theorem groupState_block : EngineBlock groupState groupCrew groupThread groupUnit :=
  ⟨rfl, rfl, ⟨fun _ h => (nomatch h), fun _ h => (nomatch h)⟩, ⟨fun _ h => (nomatch h), fun _ h => (nomatch h)⟩⟩

/-- Refutes O30: an a2av takes its number from the group's table (R277), which the device reads as agent 5 of the
directory, and the line that die 0 held modified is Owned from then on (R364): lines change with the entry. -/
theorem not_engineCommands : ¬ Obligations.EngineCommands := by
  unfold Obligations.EngineCommands
  rintro ⟨-, -, -, -, -, -, h, -⟩
  obtain ⟨t, hexec, n, -, -, ht⟩ := h false 0 0 groupState groupCrew groupThread groupUnit (List.replicate 16 0)
    (groupState.a2avReq groupCrew groupChan (List.replicate 16 0)) groupState_alone (.inl rfl) groupState_block rfl rfl rfl rfl rfl
    (fun _ => rfl) rfl rfl rfl (by decide) rfl
  have hrun : (match exec (.a2av false 0 0) groupState with
    | .next t => t.lines.map (·.agents)
    | _ => []) = [[(0, .o)]] := by rfl
  rw [hexec] at hrun
  have hlines : t.lines = groupState.lines := by rw [ht]
  exact absurd ((congrArg (List.map (·.agents)) hlines).symm.trans hrun) (by decide)

/-! ## Entries without a descriptor -/

/-- What may start next of a queue changes what is to be taken. -/
theorem startNext_frame (s : State) (unit key : Nat) : s.startNext unit key = { s with agenda := (s.startNext unit key).agenda } := by
  unfold State.startNext State.arm State.post
  split <;> repeat' split
  all_goals rfl

/-- The state in which a command of no group stands last in its queue. -/
def State.entered (z : State) (c : Crew) (b : BUnit) (u : Thread) (cmd : Cmd) (idx : Nat) (ch : Chan) (w : List Word)
    (bytes : Nat) (claims : List Claim) : State :=
  { z.onCrew c.uid fun k => { k with
      lastCmd := (u.pc, (b.qctrAt (queueKey (b.relCore c) ch.qid)).seq, ch.qid) } with
    nextId := z.nextId + 1
    units := (z.onUnit b.uid fun x => x.onQctr (queueKey (b.relCore c) ch.qid) fun q => { q with seq := q.seq + 1 }).units
    launches := (z.onLaunch c.world c.launch fun l => { l with desc := { l.desc with
      chans := l.desc.chans.mapIdx fun i x => if i = idx then { x with outstanding := x.outstanding + bytes } else x } }).launches
    entries := z.entries ++ [{ (issuedEntry z c u b cmd idx w bytes claims 0) with
      qid := ch.qid
      seq := (b.qctrAt (queueKey (b.relCore c) ch.qid)).seq
      kind := ch.kind
      endpoint := ch.endpoint }] }

/-- A command of no group enters its queue and lets the next of the queue start. -/
theorem enqueue_entered {cmd : Cmd} (h1 : cmd ≠ .a2av) (h2 : cmd ≠ .areduce) (h3 : cmd ≠ .gang) (z : State) (c : Crew) (b : BUnit)
    (u : Thread) (idx : Nat) (ch : Chan) (w : List Word) (bytes : Nat) (claims : List Claim) :
    z.enqueue c b u cmd idx ch w bytes claims =
      (z.entered c b u cmd idx ch w bytes claims).startNext b.uid (queueKey (b.relCore c) ch.qid) := by
  cases cmd with
  | a2av => exact absurd rfl h1
  | areduce => exact absurd rfl h2
  | gang => exact absurd rfl h3
  | _ => rfl

/-- A command of no group that a lone thread has put into its queue: `z` is the state after its release. -/
theorem entered_puts {s z : State} {c d : Crew} {u : Thread} {b : BUnit} {e : Env} {cmd : Cmd} {idx : Nat} {w : List Word}
    {bytes : Nat} {claims : List Claim} (hr : u.replay = none) (he : e.uid = c.uid) (hn : e.next u = nextPc s u)
    (hl : LaneAt s z c u u { c with region := c.region + 1 } d) (hz : ∃ cs o r, z = { s with
      crews := cs
      iss := ⟨0, 0, none⟩
      older := o
      recs := r }) :
    EnginePuts s ((closeLane e u ((z.entered c b u cmd idx (s.chan c idx) w bytes claims).startNext b.uid
      (queueKey (b.relCore c) (s.chan c idx).qid), .done)).settle c.uid) c u b cmd idx w bytes claims := by
  let upd : Crew → Crew := fun k => { k with
    lastCmd := (u.pc, (b.qctrAt (queueKey (b.relCore c) (s.chan c idx).qid)).seq, (s.chan c idx).qid) }
  have hq := startNext_frame (z.entered c b u cmd idx (s.chan c idx) w bytes claims) b.uid (queueKey (b.relCore c) (s.chan c idx).qid)
  have hL := (hl.onCrew upd (fun _ => rfl) (fun _ => rfl) fun x y hxy =>
    congrArg (fun (k : Crew) => { k with lastCmd := (upd k).lastCmd }) hxy).same
    (s2 := (z.entered c b u cmd idx (s.chan c idx) w bytes claims).startNext b.uid (queueKey (b.relCore c) (s.chan c idx).qid))
    (by rw [hq]; rfl) (by rw [hq]; exact hl.iss)
  obtain ⟨h4, h5⟩ := hL.done he hr
  rw [hn] at h4
  obtain ⟨cs, o, r, rfl⟩ := hz
  refine ⟨0, fun _ _ _ => ⟨rfl, ?_, ?_⟩, h4, ?_⟩
  · rw [h5, hq]
    rfl
  · rw [h5, hq]
    rfl
  · rw [h5, hq]
    rfl

/-- An entry without a descriptor, executed by a lone thread, passes its checks and enters its queue. -/
theorem fence_enters {cmd : Cmd} {idx : Nat} {other : Option Nat} {words : BUnit → List Word} {w : Word} {s : State} {c : Crew}
    {u : Thread} {b : BUnit} (h1 : cmd ≠ .a2av) (h2 : cmd ≠ .areduce) (h3 : cmd ≠ .gang) (hA : Alone s c u)
    (hb : EngineBlock s c u b) (hw : s.issued.waitsForQueue c b cmd (s.issued.chan c idx) = false)
    (hc : cmd.chanReason (s.issued.chan c idx) 0 = none)
    (ho : ∀ y, other = some y → cmd.chanReason (s.issued.chan c y) 0 = none) :
    EnginePuts s ((closeLane ⟨c.uid, w, s.iss.guard, c.region⟩ u
      (fenceLane cmd idx other words ⟨c.uid, w, s.iss.guard, c.region⟩ c u s.issued)).settle c.uid) c u b cmd idx (words b) 0 [] := by
  obtain ⟨hunit, hmw, hset, -⟩ := hb
  let e : Env := ⟨c.uid, w, s.iss.guard, c.region⟩
  obtain ⟨⟨d, hl⟩, -, o, r, hz⟩ := hA.laneAt.order (e := e) (acq := false) (rel := true) (fun _ => hset) rfl rfl scopeDevice
  have hother : (other.bind fun y => (cmd.chanReason (s.issued.chan c y) 0).map fun r => (r, y)) = none := by
    cases other with
    | none => rfl
    | some y => rw [Option.bind_some, ho y rfl, Option.map_none]
  have hlane : fenceLane cmd idx other words e c u s.issued =
      ((s.issued.order e u.lane false true scopeDevice).enqueue c b u cmd idx (s.issued.chan c idx) (words b) 0 [], .done) := by
    unfold fenceLane State.issueEntry
    simp only [show s.issued.matrixWait e.uid u.lane = false from hmw, show s.issued.unit c.unit = some b from hunit, hw, hc, hother,
      Bool.false_eq_true, if_false, List.append_nil, List.findSome?_nil]
    rfl
  rw [hlane, enqueue_entered h1 h2 h3]
  exact entered_puts hA.2.2.2.2.2 rfl rfl hl ⟨_, o, r, hz⟩

/-- Settles O31: `fence_enters` for qfence and for qwait. -/
theorem queueEntries : Obligations.QueueEntries := by
  refine ⟨fun sw ch m s c u b hm ha hb hw hc => ?_, fun sw x a y s c u b ha hb hw hx hy => ?_⟩
  · obtain ⟨hA, hx, hR⟩ := ha
    rw [show exec (.qfence sw ch m) s = execQfence sw ch m s from rfl]
    unfold execQfence
    rw [execLanes_alone hA rfl (wordTrap_plain rfl hx) rfl hR]
    rw [if_neg hm]
    exact ⟨_, rfl, fence_enters (by decide) (by decide) (by decide) hA hb hw hc fun _ h => nomatch h⟩
  · obtain ⟨hA, hd, hR⟩ := ha
    rw [show exec (.qwait sw x a y) s = execQwait sw x a y s from rfl]
    unfold execQwait
    rw [execLanes_alone hA rfl (wordTrap_plain rfl hd) rfl hR]
    dsimp only
    rw [show s.issued.unit c.unit = some b from hb.1]
    exact ⟨_, rfl, fence_enters (words := fun _ => _) (by decide) (by decide) (by decide) hA hb hw hx fun _ h => Option.some.inj h ▸ hy⟩

end Sys2Proof.Machine
end


section
/-! # Cancels -/

namespace Sys2Proof.Machine

/-! ## The lanes of a lone thread -/

/-- The lanes of an instruction whose set is one ready thread, without what settles them. -/
theorem runSet_alone {f : Form} {s z : State} {c : Crew} {u : Thread} {pre : Env → Crew → List Thread → State → State}
    {body : State → Env → Crew → Thread → State → State × LaneRes} (ha : Alone s c u) (hcoll : f.coll = false) (hqs : f.qs = [])
    (hr : OperandsReady c u f.sw f.ops) (hp : pre ⟨c.uid, f.word, s.iss.guard, c.region⟩ c [u] s.issued = z)
    (hz : z.crew c.uid = some c) :
    runSet f pre body ⟨c.uid, f.word, s.iss.guard, c.region⟩ s.iss.set c s.issued =
      closeLane ⟨c.uid, f.word, s.iss.guard, c.region⟩ u (body z ⟨c.uid, f.word, s.iss.guard, c.region⟩ c u z) := by
  let e : Env := ⟨c.uid, f.word, s.iss.guard, c.region⟩
  have hact : c.threads.filter (fun t => sel s.iss.set t && e.guardTrue t) = [u] := ha.acting (e := e) rfl
  have hrest : (s.issued.onCrew c.uid fun k => k.onThreads (fun t => sel s.iss.set t && !(e.guardTrue t)) fun t =>
      { t with pc := e.next t }) = s.issued := by
    unfold State.onCrew
    rw [mapIf_same]
    intro d hd hu
    rw [ha.2.1 d hd (by simpa using hu)]
    unfold Crew.onThreads
    rw [mapIf_none]
    intro t ht
    by_cases hs : sel s.iss.set t = true
    · have hl : t.lane = u.lane := by simpa [hs] using ha.sel_lane t ht
      rw [ha.2.2.2.1 t ht hl, show e.guardTrue u = true from ha.2.2.2.2.1]
      simp
    · simp [hs]
  unfold runSet
  simp only [e] at hact hrest
  simp only [hact]
  rw [hrest, hp]
  simp only [runLanes, hz, opCheck_ready hcoll hqs hr]
  unfold closeLane
  split <;> rfl

/-- Two changes of one lane. -/
theorem onLane_onLane (s : State) (uid lane : Nat) {f g : Thread → Thread} (hf : ∀ t, (f t).lane = t.lane) :
    (s.onLane uid lane f).onLane uid lane g = s.onLane uid lane fun t => g (f t) := by
  unfold State.onLane
  refine (onCrew_onCrew s uid (f := fun c => c.onLane lane f) fun _ => rfl).trans ?_
  congr 1
  funext k
  unfold Crew.onLane mapIf
  simp only [List.map_map]
  congr 1
  refine List.map_congr_left fun t _ => ?_
  by_cases h : t.lane = lane
  · simp [h, hf]
  · simp [h]

/-! ## Begin and end of a cancel -/

/-- A cancel that has met no unit of its own leaves the units as they were. -/
theorem cnclEnd_none {s : State} {uid : Nat} (h : ∀ b ∈ s.units, b.uid = uid → b.cncl = some false) :
    s.cnclEnd uid = s.onUnit uid fun b => { b with cncl := none } := by
  have hhit : ((s.unit uid).any fun b => b.cncl == some true) = false := by
    cases hb : s.unit uid with
    | none => rfl
    | some b =>
      have hmem := List.mem_of_find?_eq_some hb
      have huid : b.uid = uid := by simpa using List.find?_some hb
      rw [Option.any_some, h b hmem huid]
      rfl
  unfold State.cnclEnd
  simp only [hhit, Bool.false_eq_true, if_false]

/-- Beginning a cancel and ending one that has met no unit of its own gives the units back. -/
theorem units_begun_ended {s : State} {uid : Nat} (h : ∀ b ∈ s.units, b.uid = uid → b.cncl = none) :
    ((s.cnclBegin uid).onUnit uid fun b => { b with cncl := none }).units = s.units := by
  unfold State.cnclBegin State.onUnit mapIf
  simp only [List.map_map]
  refine (List.map_congr_left fun b hb => ?_).trans (List.map_id s.units)
  by_cases hu : b.uid = uid
  · have hb' := h b hb hu
    cases b
    simp_all
  · simp [hu]

theorem within_of_units {s t : State} (hu : t.units = s.units) (h : t = { s with
    crews := t.crews
    iss := ⟨0, 0, none⟩
    recs := t.recs
    older := t.older
    units := t.units }) : Within s t := by
  rw [hu] at h
  exact h

/-- A cancel that changes nothing but its crew leaves the rest of the machine. -/
theorem begun_ended_within {s z : State} {uid : Nat} (hu : ∀ b ∈ s.units, b.uid = uid → b.cncl = none)
    (hz : ∃ cs o r, z = { s.issued.cnclBegin uid with
      crews := cs
      older := o
      recs := r }) (crew lane : Nat) (f g : Thread → Thread) (cs : List Crew) :
    Within s { (((z.onLane crew lane f).onLane crew lane g).onUnit uid fun b => { b with cncl := none }) with crews := cs } := by
  obtain ⟨cs', o, r, rfl⟩ := hz
  exact within_of_units (units_begun_ended (s := s) hu) rfl

/-- A cancel by a lone thread, in the state that its release leaves. -/
theorem cncl_runs {sw : Bool} {l : BitVec 2} {a d : BitVec 7} {s : State} {c : Crew} {u : Thread}
    (ha : AloneReady s c u sw [aX a 1, bX d 1]) (hd : c.drip = none) (hm : 2 ≤ l.toNat → u.mode ≠ .U)
    (hw : s.matrixWait c.uid u.lane = false) :
    ∃ e : Env, e.uid = c.uid ∧ e.guard = s.iss.guard ∧ e.region = c.region ∧
      exec (.cncl sw l a d) s = .next (((closeLane e u (let r :=
        ((s.issued.cnclBegin c.unit).order e u.lane false true scopeDevice).cancelLevel c.world l.toNat (u.x a.toNat)
        (r.1.onLane c.uid u.lane fun t => t.putX d.toNat (BitVec.ofNat 32 r.2), .done))).cnclEnd c.unit).settle c.uid) := by
  obtain ⟨hA, -, hR⟩ := ha
  let f : Form := { word := (encRRR sw 54#6 1#4 (0#5 ++ l) a d), sw := sw, ops := [aX a 1, bX d 1], drip := false, priv := decide (l.toNat ≥ 2) }
  have hword : wordTrap ⟨c.uid, f.word, s.iss.guard, c.region⟩ f c u = none := by
    have h := wordTrap_where (e := ⟨c.uid, f.word, s.iss.guard, c.region⟩) (f := { f with drip := true }) (c := c) (t := u) rfl
      (.inl hd) (fun h => Bool.noConfusion h) (fun h => hm (by simpa [f] using h)) fun h => Bool.noConfusion h
    unfold wordTrap at h ⊢
    simpa [hd] using h
  refine ⟨⟨c.uid, f.word, s.iss.guard, c.region⟩, rfl, rfl, rfl, ?_⟩
  rw [show exec (.cncl sw l a d) s = execCncl sw l a d s from rfl]
  unfold execCncl
  refine (issue_alone (f := f) hA hword fun h => hR.clear h).trans ?_
  rw [runSet_alone (f := f) (z := s.issued.cnclBegin c.unit) hA rfl rfl hR rfl hA.crew]
  unfold cnclLane
  rw [show (s.issued.cnclBegin c.unit).matrixWait c.uid u.lane = false from hw]
  rfl

/-- A cancel that finds nothing to cancel answers so and changes nothing else (R293). -/
theorem cncl_answers {sw : Bool} {l : BitVec 2} {a d : BitVec 7} {s : State} {c : Crew} {u : Thread} {n : Nat}
    (ha : AloneReady s c u sw [aX a 1, bX d 1]) (hd : c.drip = none) (hm : 2 ≤ l.toNat → u.mode ≠ .U)
    (hw : s.matrixWait c.uid u.lane = false) (hs : Settled s c u) (hu : ∀ b ∈ s.units, b.uid = c.unit → b.cncl = none)
    (hn : ∀ z : State, z.launches = s.launches → z.graphs = s.graphs → z.worlds = s.worlds →
      z.cancelLevel c.world l.toNat (u.x a.toNat) = (z, n)) :
    ∃ t, exec (.cncl sw l a d) s = .next t ∧ Goes s s t c u (u.putX d.toNat (BitVec.ofNat 32 n)) { c with region := c.region + 1 } := by
  obtain ⟨e, he, hg, hr, hx⟩ := cncl_runs ha hd hm hw
  have hA := ha.1
  have hb : LaneAt s (s.issued.cnclBegin c.unit) c u u c c := hA.laneAt.same rfl rfl
  obtain ⟨⟨d', hl⟩, -, o, r, hz⟩ := hb.order (e := e) (acq := false) (rel := true) (fun _ => hs) he hr.symm scopeDevice
  have hcancel := hn ((s.issued.cnclBegin c.unit).order e u.lane false true scopeDevice) (by rw [hz]; rfl) (by rw [hz]; rfl)
    (by rw [hz]; rfl)
  rw [hx, hcancel]
  dsimp only
  have hl1 := hl.onLane (fun t => t.putX d.toNat (BitVec.ofNat 32 n)) (fun _ => rfl) fun _ => rfl
  rw [closeLane_done (by rw [he]; exact hl1.crew) hl1.thread hA.2.2.2.2.2, he]
  have hl2 := hl1.onLane (fun t => { t with pc := e.next t }) (fun _ => rfl) fun _ => rfl
  rw [cnclEnd_none (by
    intro b hb hbu
    rw [hz] at hb
    obtain ⟨b0, -, rfl⟩ := List.mem_map.mp (show b ∈ (s.units.map fun b => if (b.uid == c.unit) = true then { b with cncl := some false } else b) from hb)
    by_cases hu0 : b0.uid = c.unit
    · simp [hu0]
    · simp [hu0] at hbu)]
  have hl3 := hl2.same (s2 := ((((s.issued.cnclBegin c.unit).order e u.lane false true scopeDevice).onLane c.uid u.lane fun t =>
    t.putX d.toNat (BitVec.ofNat 32 n)).onLane c.uid u.lane fun t => { t with pc := e.next t }).onUnit c.unit fun b => { b with cncl := none })
    rfl hl2.iss
  obtain ⟨h1, h2⟩ := hl3.settles
  refine ⟨_, rfl, ?_, ?_⟩
  · rw [Env.next_issue hg] at h1
    exact h1
  · rw [h2]
    exact begun_ended_within hu ⟨_, o, r, hz⟩ _ _ _ _ _

/-! ## What a cancel finds -/

/-- The state of the level that a cancel names; none where there is no such level. -/
def State.levelState (s : State) (wn : Nat) (l : BitVec 2) (h : Word) : Option LState :=
  match l with
  | 0 => (s.launch wn h).map (·.state)
  | 1 => (s.graph wn h).map (·.state)
  | 2 => (s.world wn).bind fun w =>
    if h = w.ctl.phase then some w.ctl.pstate
    else if h < w.ctl.phase then some .complete else none
  | _ => (s.world wn).bind fun w => if h.toNat = w.job then some w.ctl.jstate else none

/-- What a cancel comes to in `z` by the state of its level: it answers, with nothing changed, or cancels and answers 0. -/
def CancelAnswers (z : State) (r : State × Nat) : Option LState → Prop
  | none => r = (z, 2)
  | some st => if cancelAnswer st = 0 then r.2 = 0 else r = (z, cancelAnswer st)

theorem answers_some (z x : State) (st : LState) :
    CancelAnswers z (if cancelAnswer st = 0 then (x, 0) else (z, cancelAnswer st)) (some st) := by
  unfold CancelAnswers
  by_cases h : cancelAnswer st = 0
  · simp [h]
  · simp [h]

/-- A cancel answers by the state of its level, and changes nothing where that answer is not 0 (R293). -/
theorem cancelLevel_answers {s z : State} (hl : z.launches = s.launches) (hg : z.graphs = s.graphs) (hw : z.worlds = s.worlds)
    (wn : Nat) (l : BitVec 2) (h : Word) : CancelAnswers z (z.cancelLevel wn l.toNat h) (s.levelState wn l h) := by
  have hlaunch : z.launch wn h = s.launch wn h := by unfold State.launch; rw [hl]
  have hgraph : z.graph wn h = s.graph wn h := by unfold State.graph; rw [hg]
  have hworld : z.world wn = s.world wn := by unfold State.world; rw [hw]
  have hl4 : l = 0 ∨ l = 1 ∨ l = 2 ∨ l = 3 := by
    have : ∀ l : BitVec 2, l = 0 ∨ l = 1 ∨ l = 2 ∨ l = 3 := by decide
    exact this l
  rcases hl4 with rfl | rfl | rfl | rfl
  · show CancelAnswers z (z.cancelLevel wn 0 h) ((s.launch wn h).map (·.state))
    unfold State.cancelLevel
    rw [hlaunch]
    cases s.launch wn h with
    | none => rfl
    | some x => exact answers_some z _ _
  · show CancelAnswers z (z.cancelLevel wn 1 h) ((s.graph wn h).map (·.state))
    unfold State.cancelLevel
    rw [hgraph]
    cases s.graph wn h with
    | none => rfl
    | some x => exact answers_some z _ _
  · show CancelAnswers z (z.cancelLevel wn 2 h) ((s.world wn).bind fun w =>
      if h = w.ctl.phase then some w.ctl.pstate
      else if h < w.ctl.phase then some .complete else none)
    unfold State.cancelLevel
    rw [hworld]
    cases s.world wn with
    | none => rfl
    | some w =>
      rw [Option.bind_some]
      dsimp only
      by_cases hp : h = w.ctl.phase
      · rw [if_pos hp, if_pos hp]
        exact answers_some z _ _
      · rw [if_neg hp, if_neg hp]
        by_cases hlt : h < w.ctl.phase
        · rw [if_pos hlt, if_pos hlt]
          rfl
        · rw [if_neg hlt, if_neg hlt]
          rfl
  · show CancelAnswers z (z.cancelLevel wn 3 h) ((s.world wn).bind fun w => if h.toNat = w.job then some w.ctl.jstate else none)
    unfold State.cancelLevel
    rw [hworld]
    cases s.world wn with
    | none => rfl
    | some w =>
      rw [Option.bind_some]
      dsimp only
      by_cases hj : h.toNat = w.job
      · rw [if_pos hj, if_pos hj]
        exact answers_some z _ _
      · rw [if_neg hj, if_neg hj]
        rfl

/-- The release of a settled thread, as a cancel performs it. -/
theorem cncl_released {s : State} {c : Crew} {u : Thread} {e : Env} (hA : Alone s c u) (hs : Settled s c u) (he : e.uid = c.uid)
    (hr : e.region = c.region) : (s.issued.cnclBegin c.unit).order e u.lane false true scopeDevice =
      (s.issued.cnclBegin c.unit).syncRel c.uid scopeDevice := by
  have hset : (s.issued.cnclBegin c.unit).drainLane c.uid u.lane = s.issued.cnclBegin c.unit :=
    drainLane_settled (s := s.issued.cnclBegin c.unit) hs
  obtain ⟨o, ho⟩ := releasedBy_frame (s.issued.cnclBegin c.unit) (.crew c.uid) scopeDevice
  have hcrew : ((s.issued.cnclBegin c.unit).released c.uid scopeDevice).crew c.uid = some c := by
    unfold State.released
    rw [ho]
    exact hA.crew
  unfold State.order State.syncRel
  simp only [he, if_true, Bool.false_eq_true, if_false, Bool.or_true]
  rw [hset]
  unfold State.syncFor
  rw [he, hcrew, Option.elim_some, if_pos hr.symm]

/-- A cancel that cancels its level (R45, R47, R293). -/
theorem cncl_cancels {sw : Bool} {l : BitVec 2} {a d : BitVec 7} {s : State} {c : Crew} {u : Thread}
    (ha : AloneReady s c u sw [aX a 1, bX d 1]) (hd : c.drip = none) (hm : 2 ≤ l.toNat → u.mode ≠ .U)
    (hw : s.matrixWait c.uid u.lane = false) (hs : Settled s c u)
    {r : State × Nat} (hr : ((s.issued.cnclBegin c.unit).syncRel c.uid scopeDevice).cancelLevel c.world l.toNat (u.x a.toNat) = r)
    (h0 : r.2 = 0) {k : Crew} {v : Thread} (hk : r.1.crew c.uid = some k) (hv : k.thread u.lane = some v) (hvr : v.replay = none) :
    exec (.cncl sw l a d) s = .next (((r.1.onLane c.uid u.lane fun t =>
      { t.putX d.toNat 0 with pc := nextPc s t }).cnclEnd c.unit).settle c.uid) := by
  obtain ⟨e, he, hg, hreg, hx⟩ := cncl_runs ha hd hm hw
  rw [hx, cncl_released ha.1 hs he hreg, hr]
  dsimp only
  rw [h0]
  have hcrew : (r.1.onLane c.uid u.lane fun t => t.putX d.toNat 0).crew c.uid = some (k.onLane u.lane fun t => t.putX d.toNat 0) := by
    rw [State.onLane_crew, hk]
    rfl
  have hthread : (k.onLane u.lane fun t => t.putX d.toNat 0).thread u.lane = some (v.putX d.toNat 0) := by
    rw [onLane_thread _ _ (fun t => t.putX d.toNat 0) fun _ => rfl, hv]
    rfl
  rw [closeLane_done (by rw [he]; exact hcrew) hthread hvr, he]
  have hcomp : ((r.1.onLane c.uid u.lane fun t => t.putX d.toNat 0).onLane c.uid u.lane fun t => { t with pc := e.next t }) =
      r.1.onLane c.uid u.lane fun t => { t.putX d.toNat 0 with pc := nextPc s t } := by
    refine (onLane_onLane r.1 c.uid u.lane (f := fun t => t.putX d.toNat 0) fun _ => rfl).trans ?_
    simp only [Env.next_issue hg]
    rfl
  exact congrArg (fun z : State => Host.Outcome.next ((z.cnclEnd c.unit).settle c.uid)) hcomp

/-- Settles O32: `cncl_answers` and `cncl_cancels`, by the state of the level. -/
theorem cancels : Obligations.Cancels := by
  intro sw l a d s c u ha hd hm hw hs _ hu z r state goes
  have hans : ∀ z : State, z.launches = s.launches → z.graphs = s.graphs → z.worlds = s.worlds →
      CancelAnswers z (z.cancelLevel c.world l.toNat (u.x a.toNat)) state := fun z h1 h2 h3 => cancelLevel_answers h1 h2 h3 _ _ _
  have hgoes : ∀ n, (∀ z : State, z.launches = s.launches → z.graphs = s.graphs → z.worlds = s.worlds →
      z.cancelLevel c.world l.toNat (u.x a.toNat) = (z, n)) → goes (BitVec.ofNat 32 n) := fun n hn =>
    cncl_answers ha hd hm hw hs hu hn
  obtain ⟨o, rr, hz⟩ := syncRel_frame (s.issued.cnclBegin c.unit) c.uid scopeDevice
  have hr := hans z (by rw [show z = _ from hz]; rfl) (by rw [show z = _ from hz]; rfl) (by rw [show z = _ from hz]; rfl)
  clear_value state
  cases state with
  | none => exact hgoes 2 hans
  | some st =>
    dsimp only
    unfold CancelAnswers at hans hr
    by_cases hend : st.ended = true
    · have ha1 : cancelAnswer st = 1 := by simp [cancelAnswer, hend]
      simp only [ha1, Nat.one_ne_zero, if_false] at hans
      rw [if_pos hend]
      exact hgoes 1 hans
    · by_cases hc : st = .cancelling
      · have ha3 : cancelAnswer st = 3 := by simp [cancelAnswer, hc, LState.ended]
        simp only [ha3, if_false] at hans
        rw [if_neg hend, if_pos hc]
        exact hgoes 3 hans
      · have ha0 : cancelAnswer st = 0 := by simp [cancelAnswer, hend, hc]
        simp only [ha0, if_true] at hr
        rw [if_neg hend, if_neg hc]
        exact ⟨hr, fun k v hk hv hvr _ => cncl_cancels ha hd hm hw hs rfl hr hk hv hvr⟩

end Sys2Proof.Machine
end


section
/-! # Commands of the matrix array -/

namespace Sys2Proof.Machine

/-! ## Entering the orders -/

/-- The order of each of these quarters with a command last. -/
theorem ordered_quarters {s z : State} (h : z.quarters = s.quarters) (qs : List Nat) (id : Nat) :
    (qs.foldl (fun z q => z.onQuarter q fun x => { x with order := x.order ++ [id] }) z).quarters =
      (qs.foldl (fun z q => z.onQuarter q fun x => { x with order := x.order ++ [id] }) s).quarters := by
  induction qs generalizing s z with
  | nil => exact h
  | cons q r ih =>
    refine ih ?_
    exact congrArg (fun t => tabPut t Quarter.init q { (tabGet t Quarter.init q) with
      order := (tabGet t Quarter.init q).order ++ [id] }) h

/-- The state that the issue of a matrix command of a crew leaves: released, and the command in its orders (R243, R244). -/
def State.matrixIssued (s : State) (c : Crew) (m : MCmd) : State :=
  State.enterOrder { s.issued.syncRel c.uid scopeDevice with nextId := s.nextId + 1 } m

/-- The issue changes the crew's region, records, what narrow releases keep, and the orders. -/
theorem matrixIssued_frame (s : State) (c : Crew) (m : MCmd) : ∃ o r, s.matrixIssued c m =
    { s.onCrew c.uid fun k => { k with region := k.region + 1 } with
      iss := ⟨0, 0, none⟩
      older := o
      recs := r
      nextId := s.nextId + 1
      mcmds := s.mcmds ++ [m]
      quarters := (m.quarters.foldl (fun z q => z.onQuarter q fun x => { x with order := x.order ++ [m.id] }) s).quarters
      agenda := (s.matrixIssued c m).agenda } := by
  obtain ⟨o, r, h⟩ := syncRel_frame s.issued c.uid scopeDevice
  refine ⟨o, r, ?_⟩
  have hfr := enterOrder_frame { s.issued.syncRel c.uid scopeDevice with nextId := s.nextId + 1 } m
  rw [ordered_quarters (s := s) (by rw [h]; rfl)] at hfr
  refine Eq.trans hfr ?_
  rw [h]
  unfold State.matrixIssued
  rw [h]
  rfl

/-- A command that claims nothing that another holds is issued (R127, R138). -/
theorem issueCmd_free {s : State} {c : Crew} {u : Thread} {m m0 : MCmd} (h : MatrixFree s c u m) (hc : m0.crew = c.uid)
    (hl : m0.lane = u.lane) (hm : m = { m0 with id := s.nextId }) : s.issued.issueCmd m0 = .ok (s.nextId, s.matrixIssued c m) := by
  obtain ⟨hs, -, hfree⟩ := h
  subst hm
  have hset : s.issued.drainLane c.uid u.lane = s.issued := drainLane_settled (s := s.issued) hs
  obtain ⟨o, r, hz⟩ := syncRel_frame s.issued c.uid scopeDevice
  have hid : (s.issued.syncRel c.uid scopeDevice).nextId = s.nextId := by
    rw [hz]
    rfl
  unfold State.issueCmd
  rw [hc, hl, hset]
  simp only at hfree
  simp only [State.fresh, hid]
  rw [show (s.issued.syncRel c.uid scopeDevice).claimsConflict ((s.issued.syncRel c.uid scopeDevice).sharesOrder m0.quarters) m0.claims
    = none from hfree]
  rfl

/-! ## One command for the set -/

/-- What picks the lone thread's lane, in a state whose crew has changed but for its threads, changes that lane. -/
theorem Alone.onPick_after {s z : State} {c : Crew} {u : Thread} (h : Alone s c u) {k : Crew → Crew} (hu : ∀ x, (k x).uid = x.uid)
    (hk : ∀ x, (k x).threads = x.threads) (hz : z.crews = (s.onCrew c.uid k).crews) {g : Thread → Thread} :
    (z.onCrew c.uid fun x => x.onThreads (sel s.iss.set) g) = z.onLane c.uid u.lane g := by
  have hthreads : mapIf (sel s.iss.set) g c.threads = mapIf (·.lane == u.lane) g c.threads :=
    List.map_congr_left fun t ht => by rw [h.sel_lane t ht]
  have hcrews : mapIf (·.uid == c.uid) (fun x => Crew.onThreads x (sel s.iss.set) g) z.crews =
      mapIf (·.uid == c.uid) (fun x => Crew.onLane x u.lane g) z.crews := by
    rw [hz]
    refine List.map_congr_left fun d hd => ?_
    obtain ⟨d0, hd0, rfl⟩ := List.mem_map.mp hd
    by_cases hd0u : d0.uid = c.uid
    · rw [h.2.1 d0 hd0 hd0u]
      simp only [beq_self_eq_true, if_true, hu]
      unfold Crew.onThreads Crew.onLane
      rw [hk, hthreads]
    · simp [hd0u]
  exact congrArg (fun cs => { z with crews := cs }) hcrews

/-- A command of the set, issued by a lone thread. -/
theorem setCmd_alone {f : Form} {s z : State} {c : Crew} {u : Thread} {body : Env → Crew → Thread → State → Except Trap State}
    (hA : Alone s c u) (hd : c.drip = none) (hf : f.plain = true) (hcoll : f.coll = false) (hqs : f.qs = [])
    (hR : OperandsReady c u f.sw f.ops) (hb : body ⟨c.uid, f.word, s.iss.guard, c.region⟩ c u s.issued = .ok z) :
    execSetCmd f s body = .next ((z.onCrew c.uid fun k => k.onThreads (sel s.iss.set) fun t =>
      { t with pc := Env.next ⟨c.uid, f.word, s.iss.guard, c.region⟩ t }).settle c.uid) := by
  have hplain : ({ ({ f with drip := false } : Form) with drip := true }).plain = true := by
    simp only [Form.plain, Bool.and_eq_true] at hf ⊢
    obtain ⟨⟨⟨⟨⟨⟨⟨h1, h2⟩, -⟩, h4⟩, h5⟩, h6⟩, h7⟩, h8⟩ := hf
    exact ⟨⟨⟨⟨⟨⟨⟨h1, h2⟩, trivial⟩, h4⟩, h5⟩, h6⟩, h7⟩, h8⟩
  have hfind : (c.threads.find? fun t => sel s.iss.set t && Env.guardTrue ⟨c.uid, f.word, s.iss.guard, c.region⟩ t) = some u := by
    refine find_only hA.mem.1 ?_ fun t ht hp => ?_
    · rw [hA.mem.2, show Env.guardTrue ⟨c.uid, f.word, s.iss.guard, c.region⟩ u = true from hA.2.2.2.2.1]
      rfl
    · simp only [Bool.and_eq_true] at hp
      have hl := hA.sel_lane t ht
      exact hA.2.2.2.1 t ht (by simpa [hp.1] using hl)
  unfold execSetCmd
  rw [issue_alone (f := { f with drip := false }) hA (wordTrap_noDrip hplain hd) fun h => by rw [hcoll]; exact hR.clear h]
  dsimp only
  rw [hfind]
  dsimp only
  rw [opCheck_ready (f := { f with drip := false }) hcoll hqs hR]
  dsimp only
  rw [hb]

/-- A command of the set that leaves its quarters as `g` makes them is put into its orders. -/
theorem setCmd_puts {f : Form} {s z : State} {c : Crew} {u : Thread} {m : MCmd} {g : State → State}
    {body : Env → Crew → Thread → State → Except Trap State}
    (hA : Alone s c u) (hd : c.drip = none) (hf : f.plain = true) (hcoll : f.coll = false) (hqs : f.qs = [])
    (hR : OperandsReady c u f.sw f.ops) (hb : body ⟨c.uid, f.word, s.iss.guard, c.region⟩ c u s.issued = .ok z)
    (hz : z = { s.matrixIssued c m with
      quarters := (g (m.quarters.foldl (fun z q => z.onQuarter q fun x => { x with order := x.order ++ [m.id] }) s)).quarters }) :
    ∃ t, execSetCmd f s body = .next t ∧ MatrixPuts s t c u u m g := by
  obtain ⟨o, r, hfr⟩ := matrixIssued_frame s c m
  have hcrews : z.crews = (s.onCrew c.uid fun k => { k with region := k.region + 1 }).crews := by
    rw [hz, hfr]
  have hl := hA.laneAt.opened
  have hlz : LaneAt s z c u u { c with region := c.region + 1 } { c with region := c.region + 1 } :=
    hl.same hcrews (by rw [hz, hfr])
  refine ⟨_, setCmd_alone hA hd hf hcoll hqs hR hb, ?_⟩
  rw [hA.onPick_after (k := fun k => { k with region := k.region + 1 }) (fun _ => rfl) (fun _ => rfl) hcrews]
  obtain ⟨h1, h2⟩ := (hlz.onLane (fun t => { t with pc := Env.next ⟨c.uid, f.word, s.iss.guard, c.region⟩ t }) (fun _ => rfl)
    fun _ => rfl).settles
  refine ⟨h1, ?_⟩
  rw [h2, hz, hfr]
  rfl

/-! ## mld.st, mswap, mma, mst, macc.clr -/

section
variable {s : State} {c : Crew} {u : Thread} {k : BUnit} {m : MCmd} {sw : Bool}

/-- A quarter changed after a command has entered its orders. -/
theorem matrixIssued_onQuarter (s : State) (c : Crew) (m : MCmd) (q : Nat) (f : Quarter → Quarter) :
    (s.matrixIssued c m).onQuarter q f = { s.matrixIssued c m with
      quarters := ((m.quarters.foldl (fun z q => z.onQuarter q fun x => { x with order := x.order ++ [m.id] }) s).onQuarter q f).quarters } := by
  obtain ⟨o, r, hfr⟩ := matrixIssued_frame s c m
  have hq : (s.matrixIssued c m).quarters =
      (m.quarters.foldl (fun z q => z.onQuarter q fun x => { x with order := x.order ++ [m.id] }) s).quarters := by
    rw [hfr]
  exact congrArg (fun t => { s.matrixIssued c m with quarters := tabPut t Quarter.init q (f (tabGet t Quarter.init q)) }) hq

/-- No quarter changed after a command has entered its orders. -/
theorem matrixIssued_id (s : State) (c : Crew) (m : MCmd) : s.matrixIssued c m = { s.matrixIssued c m with
    quarters := (id (m.quarters.foldl (fun z q => z.onQuarter q fun x => { x with order := x.order ++ [m.id] }) s)).quarters } := by
  obtain ⟨o, r, hfr⟩ := matrixIssued_frame s c m
  have hq : (s.matrixIssued c m).quarters =
      (m.quarters.foldl (fun z q => z.onQuarter q fun x => { x with order := x.order ++ [m.id] }) s).quarters := by
    rw [hfr]
  rw [id, ← hq]

/-- The site of a command of the crew. -/
theorem crewSite_of (hk : s.unit c.unit = some k) (e : Env) :
    s.issued.crewSite e c = some ⟨k, c.idx % k.cores.length, c.core, c.launch, e.ill .operand⟩ := by
  unfold State.crewSite
  rw [show s.issued.unit c.unit = some k from hk]
  rfl

theorem mldSt_puts {n : BitVec 2} {a b : BitVec 7} {w2 : Word} (ha : AloneReady s c u sw [aS a 1, bS b (if descSC (c.s b.toNat) then 3 else 2)])
    (hk : s.unit c.unit = some k) (hw2 : w2 = if descSC (c.s b.toNat) then c.s (b.toNat + 2) else 0)
    (ht : ∀ ill, s.issued.mldTrap ⟨k, c.idx % k.cores.length, c.core, c.launch, ill⟩ n.toNat (c.s a.toNat) (c.s b.toNat) (c.s (b.toNat + 1)) w2 = none)
    (hm : m = { issuedCmd s c u .mldst n.toNat 1 with
      shape := c.s a.toNat
      w0 := c.s b.toNat
      w1 := c.s (b.toNat + 1)
      w2 := w2
      claims := rowClaims c.unit (descSW (c.s b.toNat)) (mldRows (c.s a.toNat) (c.s b.toNat) (c.s (b.toNat + 1)) w2) .read })
    (hf : MatrixFree s c u m) : ∃ t unums, exec (.mldSt sw n a b) s = .next t ∧
      MatrixPuts s t c u u m (fun z => z.onQuarter m.q0 fun q => { q with
        shadow := mldRecord s.nextId (c.s a.toNat) (c.s b.toNat) (c.s (b.toNat + 1)) w2 unums }) := by
  obtain ⟨hA, hx, hR⟩ := ha
  have hcrew : s.crew s.iss.crew = some c := hA.1.1
  have hd : c.drip = none := hx.resolve_right (by simp [aS])
  have hissue := issueCmd_free (m0 := { blankCmd ⟨c.uid, encRRR sw 49#6 0#4 (0#5 ++ n) a b, s.iss.guard, c.region⟩ c u .mldst n.toNat 1 with
      shape := c.s a.toNat
      w0 := c.s b.toNat
      w1 := c.s (b.toNat + 1)
      w2 := w2
      claims := rowClaims c.unit (descSW (c.s b.toNat)) (mldRows (c.s a.toNat) (c.s b.toNat) (c.s (b.toNat + 1)) w2) .read })
    hf rfl rfl hm
  let unums : Word := BitVec.ofNat 32 (a.toNat + b.toNat * 2 ^ 8 + (b.toNat + 1) * 2 ^ 16 +
    (if descSC (c.s b.toNat) then b.toNat + 2 else 255) * 2 ^ 24)
  have hq0 : m.q0 = quarterNo c.core n.toNat := by rw [hm]; rfl
  suffices h : ∃ t, exec (.mldSt sw n a b) s = .next t ∧ MatrixPuts s t c u u m (fun z => z.onQuarter m.q0 fun q => { q with
      shadow := mldRecord s.nextId (c.s a.toNat) (c.s b.toNat) (c.s (b.toNat + 1)) w2 unums }) by
    obtain ⟨t, h1, h2⟩ := h
    exact ⟨t, unums, h1, h2⟩
  rw [show exec (.mldSt sw n a b) s = execMldSt sw n a b s from rfl]
  unfold execMldSt
  simp only [hcrew]
  refine setCmd_puts (z := (s.matrixIssued c m).onQuarter m.q0 fun q => { q with
      shadow := mldRecord s.nextId (c.s a.toNat) (c.s b.toNat) (c.s (b.toNat + 1)) w2 unums }) hA hd rfl rfl rfl hR ?_
    (matrixIssued_onQuarter s c m m.q0 _)
  simp only [crewSite_of hk, ← hw2, ht, hissue, hq0]
  rfl

theorem mswap_puts {n : BitVec 2} (ha : AloneReady s c u sw []) (hd : c.drip = none) (hk : s.unit c.unit = some k)
    (hb : (s.quarter (quarterNo c.core n.toNat)).bound = some c.launch) (hm : m = issuedCmd s c u .mswap n.toNat 1)
    (hf : MatrixFree s c u m) : ∃ t, exec (.mswap sw n) s = .next t ∧ MatrixPuts s t c u u m (fun z => z.onQuarter m.q0 fun q => { q with
      active := q.shadow
      shadow := q.active }) := by
  obtain ⟨hA, hx, hR⟩ := ha
  have hissue := issueCmd_free (m0 := blankCmd ⟨c.uid, encRRR sw 49#6 1#4 (0#5 ++ n) 0#7 0#7, s.iss.guard, c.region⟩ c u .mswap n.toNat 1) hf rfl rfl hm
  have hq0 : m.q0 = quarterNo c.core n.toNat := by rw [hm]; rfl
  have hbound : ∀ ill, s.issued.siteBound ⟨k, c.idx % k.cores.length, c.core, c.launch, ill⟩ n.toNat = true := by
    intro ill
    unfold State.siteBound
    rw [show (s.issued.quarter (quarterNo c.core n.toNat)).bound = some c.launch from hb]
    simp
  rw [show exec (.mswap sw n) s = execMswap sw n s from rfl]
  unfold execMswap
  refine setCmd_puts (z := (s.matrixIssued c m).onQuarter m.q0 fun q => { q with
      active := q.shadow
      shadow := q.active }) hA hd rfl rfl rfl hR ?_ (matrixIssued_onQuarter s c m m.q0 _)
  simp only [crewSite_of hk, hbound, Bool.not_true, Bool.false_eq_true, if_false, hissue, hq0]
  rfl

theorem mma_puts {z : Bool} {tl : BitVec 3} {a b : BitVec 7} (ha : AloneReady s c u sw [aS a 1, bS b 2]) (hk : s.unit c.unit = some k)
    (ht : ∀ ill, s.issued.mmaTrap ⟨k, c.idx % k.cores.length, c.core, c.launch, ill⟩ c.quarter true tl.toNat (c.s a.toNat)
      (c.s b.toNat) (c.s (b.toNat + 1)) = none)
    (hm : m = { issuedCmd s c u .mma c.quarter ((shapeN (c.s a.toNat) + 63) / 64) with
      shape := c.s a.toNat
      w0 := c.s b.toNat
      w1 := c.s (b.toNat + 1)
      flag := z
      tile := tl.toNat
      claims := rowClaims c.unit (descSW (c.s b.toNat)) (mmaRows (c.s a.toNat) (c.s b.toNat) (c.s (b.toNat + 1))) .read })
    (hf : MatrixFree s c u m) : ∃ t, exec (.mma sw z tl a b) s = .next t ∧ MatrixPuts s t c u u m id := by
  obtain ⟨hA, hx, hR⟩ := ha
  have hd : c.drip = none := hx.resolve_right (by simp [aS])
  have hissue := issueCmd_free (m0 := { blankCmd ⟨c.uid, encRRR sw 49#6 2#4 (0#3 ++ BitVec.ofBool z ++ tl) a b, s.iss.guard, c.region⟩ c u
      .mma c.quarter (ceilDiv (shapeN (c.s a.toNat)) 64) with
    shape := c.s a.toNat
    w0 := c.s b.toNat
    w1 := c.s (b.toNat + 1)
    flag := z
    tile := tl.toNat
    claims := rowClaims c.unit (descSW (c.s b.toNat)) (mmaRows (c.s a.toNat) (c.s b.toNat) (c.s (b.toNat + 1))) .read })
    hf rfl rfl hm
  rw [show exec (.mma sw z tl a b) s = execMma sw z tl a b s from rfl]
  unfold execMma
  refine setCmd_puts (z := s.matrixIssued c m) hA hd rfl rfl rfl hR ?_ (matrixIssued_id s c m)
  simp only [crewSite_of hk, ht, hissue]

theorem mst_puts {z : Bool} {tl : BitVec 3} {a b : BitVec 7} (ha : AloneReady s c u sw [aS a 1, bS b 2]) (hk : s.unit c.unit = some k)
    (ht : ∀ ill, s.issued.mstTrap ⟨k, c.idx % k.cores.length, c.core, c.launch, ill⟩ c.quarter tl.toNat (c.s a.toNat)
      (c.s b.toNat) (c.s (b.toNat + 1)) = none)
    (hm : m = { issuedCmd s c u .mst c.quarter ((shapeN (c.s a.toNat) + 63) / 64) with
      shape := c.s a.toNat
      w0 := c.s b.toNat
      w1 := c.s (b.toNat + 1)
      flag := z
      tile := tl.toNat
      claims := rowClaims c.unit (descSW (c.s b.toNat)) (mstRows (c.s a.toNat) (c.s b.toNat) (c.s (b.toNat + 1))) .write })
    (hf : MatrixFree s c u m) : ∃ t, exec (.mst sw z tl a b) s = .next t ∧ MatrixPuts s t c u u m id := by
  obtain ⟨hA, hx, hR⟩ := ha
  have hd : c.drip = none := hx.resolve_right (by simp [aS])
  have hissue := issueCmd_free (m0 := { blankCmd ⟨c.uid, encRRR sw 49#6 4#4 (0#3 ++ BitVec.ofBool z ++ tl) a b, s.iss.guard, c.region⟩ c u
      .mst c.quarter (ceilDiv (shapeN (c.s a.toNat)) 64) with
    shape := c.s a.toNat
    w0 := c.s b.toNat
    w1 := c.s (b.toNat + 1)
    flag := z
    tile := tl.toNat
    claims := rowClaims c.unit (descSW (c.s b.toNat)) (mstRows (c.s a.toNat) (c.s b.toNat) (c.s (b.toNat + 1))) .write })
    hf rfl rfl hm
  rw [show exec (.mst sw z tl a b) s = execMst sw z tl a b s from rfl]
  unfold execMst
  refine setCmd_puts (z := s.matrixIssued c m) hA hd rfl rfl rfl hR ?_ (matrixIssued_id s c m)
  simp only [crewSite_of hk, ht, hissue]

/-- A quarter of the crew's core whose array the launch holds. -/
theorem siteBound_of {q : Nat} (hb : (s.quarter (quarterNo c.core q)).bound = some c.launch) (core : Nat) (ill : Trap) :
    s.issued.siteBound ⟨k, core, c.core, c.launch, ill⟩ q = true := by
  unfold State.siteBound
  rw [show (s.issued.quarter (quarterNo c.core q)).bound = some c.launch from hb]
  simp

theorem arrayBound_of {q : Nat} (hb : (s.quarter (quarterNo c.core q)).bound = some c.launch) :
    s.issued.arrayBound c (quarterNo c.core q) = true := by
  unfold State.arrayBound
  rw [show (s.issued.quarter (quarterNo c.core q)).bound = some c.launch from hb]
  simp

theorem maccClr_puts {tl : BitVec 3} {n : BitVec 4} (ha : AloneReady s c u sw []) (hd : c.drip = none) (hk : s.unit c.unit = some k)
    (hn : n ≠ 0) (htl : tl.toNat + n.toNat ≤ 8) (hb : (s.quarter (quarterNo c.core c.quarter)).bound = some c.launch)
    (hm : m = { issuedCmd s c u .maccclr c.quarter 1 with
      tile := tl.toNat
      n := n.toNat }) (hf : MatrixFree s c u m) :
    ∃ t, exec (.maccClr sw tl n) s = .next t ∧ MatrixPuts s t c u u m id := by
  obtain ⟨hA, hx, hR⟩ := ha
  have hissue := issueCmd_free (m0 := { blankCmd ⟨c.uid, encRRR sw 49#6 5#4 (0#4 ++ tl) 0#7 (0#3 ++ n), s.iss.guard, c.region⟩ c u .maccclr
      c.quarter 1 with
    tile := tl.toNat
    n := n.toNat }) hf rfl rfl hm
  have hn0 : n.toNat ≠ 0 := fun h => hn (BitVec.eq_of_toNat_eq h)
  have hfields : (decide (n.toNat = 0) || decide (tl.toNat + n.toNat > 8)) = false := by
    simp [hn0, htl]
  rw [show exec (.maccClr sw tl n) s = execMaccClr sw tl n s from rfl]
  unfold execMaccClr
  refine setCmd_puts (z := s.matrixIssued c m) hA hd rfl rfl rfl hR ?_ (matrixIssued_id s c m)
  simp only [crewSite_of hk, siteBound_of hb, hfields, Bool.false_or, Bool.not_true, Bool.false_eq_true, if_false, hissue]

/-! ## macc.rd and mstat -/

/-- A command that delivers to a register of a lone thread is put into its orders with the register pending. -/
theorem read_puts {e : Env} {rg : Nat} (hA : Alone s c u) (he : e.uid = c.uid) (hg : e.guard = s.iss.guard) :
    MatrixPuts s ((closeLane e u ((s.matrixIssued c m).onLane c.uid u.lane fun t =>
      { t with pendX := pendAll t.pendX [t.wb + rg] (e.pcI t) }, .done)).settle c.uid) c u
      { u with pendX := pendAll u.pendX [u.wb + rg] (s.issPc u) } m id := by
  obtain ⟨o, r, hfr⟩ := matrixIssued_frame s c m
  have hl : LaneAt s (s.matrixIssued c m) c u u { c with region := c.region + 1 } { c with region := c.region + 1 } :=
    hA.laneAt.opened.same (by rw [hfr]; rfl) (by rw [hfr])
  have hp : e.pcI u = s.issPc u := by
    unfold Env.pcI State.issPc
    rw [hg]
  have hl1 := hl.onLane (fun t => { t with pendX := pendAll t.pendX [t.wb + rg] (e.pcI t) }) (fun _ => rfl) fun _ => rfl
  obtain ⟨h1, h2⟩ := hl1.done he hA.2.2.2.2.2
  rw [Env.next_issue hg] at h1
  refine ⟨?_, ?_⟩
  · rw [hp] at h1
    exact h1
  · rw [h2, hfr]
    rfl

theorem maccRd_puts {d a b : BitVec 7} (ha : AloneReady s c u sw [dX d 1, aX a 1, bS b 1]) (hd : c.drip = none)
    (hb : (s.quarter (quarterNo c.core c.quarter)).bound = some c.launch) (hcoord : coordBad (u.x a.toNat) = false)
    (hzero : fieldN (c.s b.toNat).toNat 8 17 = 0) (hconv : convOk (c.s b.toNat) = true)
    (hcol : coordCol (u.x a.toNat) + 32 / fmtWidth (convFmt (c.s b.toNat)) ≤ 64)
    (hm : m = { issuedCmd s c u .maccrd c.quarter 1 with
      w0 := c.s b.toNat
      dest := u.wb + d.toNat
      coord := u.x a.toNat }) (hf : MatrixFree s c u m) : ∃ t, exec (.maccRd sw d a b) s = .next t ∧
      MatrixPuts s t c u { u with pendX := pendAll u.pendX [u.wb + d.toNat] (s.issPc u) } m id := by
  obtain ⟨hA, hx, hR⟩ := ha
  have hissue := issueCmd_free (m0 := { blankCmd ⟨c.uid, encRRR sw 49#6 3#4 d a b, s.iss.guard, c.region⟩ c u .maccrd c.quarter 1 with
    w0 := c.s b.toNat
    dest := u.wb + d.toNat
    coord := u.x a.toNat }) hf rfl rfl hm
  have hbound : s.issued.arrayBound c (quarterNo c.core c.quarter) = true := arrayBound_of hb
  have hchecks : (!s.issued.arrayBound c (quarterNo c.core c.quarter) || coordBad (u.x a.toNat) || !convOk (c.s b.toNat) ||
      decide (fieldN (c.s b.toNat).toNat 8 17 ≠ 0) ||
      decide (coordCol (u.x a.toNat) + 32 / fmtWidth (convFmt (c.s b.toNat)) > 64)) = false := by
    simp [hbound, hcoord, hconv, hzero, hcol]
  rw [show exec (.maccRd sw d a b) s = execMaccRd sw d a b s from rfl]
  unfold execMaccRd
  rw [execLanes_alone hA rfl (wordTrap_noDrip rfl hd) rfl hR]
  simp only [hchecks, Bool.false_eq_true, if_false, hissue]
  exact ⟨_, rfl, read_puts hA rfl rfl⟩

theorem mstat_puts {d a : BitVec 7} (ha : AloneReady s c u sw [dX d 1, aX a 1]) (hd : c.drip = none)
    (hb : (s.quarter (quarterNo c.core c.quarter)).bound = some c.launch) (hcoord : coordBad (u.x a.toNat) = false)
    (hcol : coordCol (u.x a.toNat) = 0)
    (hm : m = { issuedCmd s c u .mstat c.quarter 1 with
      dest := u.wb + d.toNat
      coord := u.x a.toNat }) (hf : MatrixFree s c u m) : ∃ t, exec (.mstat sw d a) s = .next t ∧
      MatrixPuts s t c u { u with pendX := pendAll u.pendX [u.wb + d.toNat] (s.issPc u) } m id := by
  obtain ⟨hA, hx, hR⟩ := ha
  have hissue := issueCmd_free (m0 := { blankCmd ⟨c.uid, encRRR sw 49#6 6#4 d a 0#7, s.iss.guard, c.region⟩ c u .mstat c.quarter 1 with
    dest := u.wb + d.toNat
    coord := u.x a.toNat }) hf rfl rfl hm
  have hbound : s.issued.arrayBound c (quarterNo c.core c.quarter) = true := arrayBound_of hb
  have hchecks : (!s.issued.arrayBound c (quarterNo c.core c.quarter) || coordBad (u.x a.toNat) ||
      decide (coordCol (u.x a.toNat) ≠ 0)) = false := by
    simp [hbound, hcoord, hcol]
  rw [show exec (.mstat sw d a) s = execMstat sw d a s from rfl]
  unfold execMstat
  rw [execLanes_alone hA rfl (wordTrap_noDrip rfl hd) rfl hR]
  simp only [hchecks, Bool.false_eq_true, if_false, hissue]
  exact ⟨_, rfl, read_puts hA rfl rfl⟩

end

/-- Coordinates whose reserved bits are 0. -/
theorem coordBad_false {w : Word} (h1 : w.toNat / 2 ^ 22 = 0) (h2 : w.toNat / 2 ^ 9 % 2 ^ 7 = 0) : coordBad w = false := by
  have h3 : fieldN w.toNat 22 10 = 0 := by
    unfold fieldN
    rw [h1, Nat.zero_mod]
  have h4 : fieldN w.toNat 9 7 = 0 := h2
  simp [coordBad, h3, h4]

/-- Settles O33: one lemma for each of the five commands. -/
theorem matrixCommands : Obligations.MatrixCommands := by
  refine ⟨?_, ?_, ?_, ?_, ?_⟩
  · intro sw n a b s c u k m w0 w1 w2 ha hk ht hm hf
    obtain ⟨t, unums, h1, h2⟩ := mldSt_puts ha hk rfl ht hm hf
    exact ⟨t, _, h1, h2, rfl, rfl, rfl, rfl, rfl, rfl, rfl, rfl, rfl, rfl⟩
  · intro sw n s c u k m ha hd hk hb hm hf
    exact mswap_puts ha hd hk hb hm hf
  · intro sw z tl a b s c u k m w0 w1 ha hk ht hm hf
    exact mma_puts ha hk ht hm hf
  · intro sw z tl a b s c u k m w0 w1 ha hk ht hm hf
    exact mst_puts ha hk ht hm hf
  · intro sw tl n s c u k m ha hd hk hn htl hb hm hf
    exact maccClr_puts ha hd hk hn htl hb hm hf

/-- Settles O34: `maccRd_puts` and `mstat_puts`. -/
theorem matrixReads : Obligations.MatrixReads := by
  refine ⟨?_, ?_⟩
  · intro sw d a b s c u m coord conv ha hd hb h1 h2 h3 h4 h5 h6 hm hf
    refine maccRd_puts ha hd hb (coordBad_false h1 h2) h3 ?_ h6 hm hf
    unfold convOk
    rw [Bool.and_eq_true]
    exact ⟨bne_iff_ne.mpr h4, bne_iff_ne.mpr h5⟩
  · intro sw d a s c u m coord ha hd hb h1 h2 h3 hm hf
    exact mstat_puts ha hd hb (coordBad_false h1 h2) h3 hm hf

end Sys2Proof.Machine
end


section
/-! # Rows of sequences -/

namespace Sys2Proof.Machine

/-! ## A status and its row in flight -/

/-- A lane that goes on with a status in flight, and before it the row that was read. -/
theorem LaneAt.kvLands {R : State → State → Prop} {s b s1 : State} {c d : Crew} {u : Thread} {e : Env} {rg st : Nat}
    {row : Option (Nat × List Byte)} (h : LaneAt s s1 c u u c d) (he : e.uid = c.uid) (hg : e.guard = s.iss.guard)
    (hr : u.replay = none)
    (hs : ∀ cs, R (flies s b ⟨s.nextId, c.uid, u.lane, false, [(u.wb + rg, BitVec.ofNat 32 st)], row, none, false, false⟩)
      { (s1.inFlight c.uid u.lane (e.pcI u) [(u.wb + rg, BitVec.ofNat 32 st)] row) with crews := cs }) :
    KvLandsBy R s b ((closeLane e u (s1.inFlight c.uid u.lane (e.pcI u) [(u.wb + rg, BitVec.ofNat 32 st)] row, .done)).settle c.uid)
      c u rg st row := by
  have hp : e.pcI u = s.issPc u := by
    unfold Env.pcI State.issPc
    rw [hg]
  have h1 : LaneAt s (s1.inFlight c.uid u.lane (e.pcI u) [(u.wb + rg, BitVec.ofNat 32 st)] row) c u
      { u with pendX := pendAll u.pendX [u.wb + rg] (e.pcI u) } c _ :=
    LaneAt.same (h.onLane (fun t => { t with pendX := pendAll t.pendX [u.wb + rg] (e.pcI u) }) (fun _ => rfl) fun _ => rfl) rfl h.iss
  obtain ⟨h2, h3⟩ := h1.done he hr
  rw [Env.next_issue hg] at h2
  refine ⟨?_, by rw [h3]; exact hs _⟩
  rw [← hp]
  exact h2

/-! ## What a lane finds -/

section
variable {s : State} {c : Crew} {u : Thread} {b : BUnit} {k : BitVec 6} {a d : BitVec 7}

/-- A channel of a sequence's store, open to read. -/
theorem kvChan_none {ch : Chan} (hv : ch.valid = true) (hk : ch.kind = 6) (hr : ch.permR = true) (ho : ch.outstanding ≤ ch.allow) :
    kvChan ch = none := by
  simp [kvChan, hv, hk, hr, ho]

/-- A lane whose channel names no sequence here (R287). -/
theorem kvLane_none {z : State} {idx aF : Nat} (hch : kvChan (z.chan c idx) = none) (hdest : (u.x (aF + 2)).toNat % 16 = 0)
    (hq : z.kvSeq c.world (z.chan c idx) = none) (hb : spadBad b.cores.length b.alloc (u.x (aF + 2)).toNat 16 = false) :
    z.kvLane c b idx aF u = .ok ⟨1, none, none, none⟩ := by
  unfold State.kvLane
  simp only [hch, hq, hdest, hb, ne_eq, not_true_eq_false, if_false, Bool.false_eq_true]

/-- A lane whose channel names a sequence (R287). -/
theorem kvLane_some {z : State} {idx aF : Nat} {q : Sequence} (hch : kvChan (z.chan c idx) = none)
    (hdest : (u.x (aF + 2)).toNat % 16 = 0) (hq : z.kvSeq c.world (z.chan c idx) = some q)
    (hb : spadBad b.cores.length b.alloc (u.x (aF + 2)).toNat q.rb = false) :
    z.kvLane c b idx aF u = .ok (z.kvPlan q (u.x aF).toNat ((u.x (aF + 1)).toNat / 2 ^ 16) ((u.x (aF + 1)).toNat % 2 ^ 16)) := by
  have hlayer : fieldN (u.x (aF + 1)).toNat 16 16 = (u.x (aF + 1)).toNat / 2 ^ 16 := by
    have := (u.x (aF + 1)).isLt
    unfold fieldN
    omega
  have hhead : fieldN (u.x (aF + 1)).toNat 0 16 = (u.x (aF + 1)).toNat % 2 ^ 16 := by
    unfold fieldN
    omega
  unfold State.kvLane
  simp only [hch, hq, hdest, hb, ne_eq, not_true_eq_false, if_false, Bool.false_eq_true, hlayer, hhead]

/-- A lone ready thread executes its lane. -/
theorem kvld_runs {sw : Bool} (ha : AloneReady s c u sw [aX a 3, bX d 1]) (hd : c.drip = none) : ∃ e : Env,
    e.uid = c.uid ∧ e.guard = s.iss.guard ∧ opCheck e { word := (encRRR sw 53#6 0#4 (0#1 ++ k) a d), sw := sw, ops := [aX a 3, bX d 1], drip := false } c u = none ∧
      exec (.kvld sw k a d) s = .next ((closeLane e u (kvldLane
        { word := (encRRR sw 53#6 0#4 (0#1 ++ k) a d), sw := sw, ops := [aX a 3, bX d 1], drip := false } k.toNat a.toNat d.toNat e c u s.issued)).settle c.uid) := by
  obtain ⟨hA, -, hR⟩ := ha
  refine ⟨⟨c.uid, encRRR sw 53#6 0#4 (0#1 ++ k) a d, s.iss.guard, c.region⟩, rfl, rfl, opCheck_ready rfl rfl hR, ?_⟩
  rw [show exec (.kvld sw k a d) s = execKvld sw k a d s from rfl]
  unfold execKvld
  rw [execLanes_alone hA rfl (wordTrap_noDrip rfl hd) rfl hR]

/-- A lane that lands its status alone. -/
theorem kvldLane_status {f : Form} {e : Env} {p : KvPlan} (hw : s.matrixWait c.uid u.lane = false) (hu : s.unit c.unit = some b)
    (he : e.uid = c.uid) (hl : s.issued.kvLane c b k.toNat a.toNat u = .ok p) (hrow : p.row = none) :
    kvldLane f k.toNat a.toNat d.toNat e c u s.issued =
      (State.inFlight (match p.ascend with
        | some i => s.issued.wantItem (s.issued.chan c k.toNat).low (i + 1)
        | none => s.issued) c.uid u.lane (e.pcI u) [(u.wb + d.toNat, BitVec.ofNat 32 p.status)] none, .done) := by
  unfold kvldLane
  rw [he, show s.issued.matrixWait c.uid u.lane = false from hw, show s.issued.unit c.unit = some b from hu]
  simp only [Bool.false_eq_true, if_false, hl, hrow]
  cases p.ascend <;> rfl

/-- A lane that lands zeros for a position below the window (R287). -/
theorem kvldLane_zeros {f : Form} {e : Env} {row : List Byte} (hw : s.matrixWait c.uid u.lane = false) (hu : s.unit c.unit = some b)
    (he : e.uid = c.uid) (hg : e.guard = s.iss.guard) (hs : Settled s c u)
    (hl : s.issued.kvLane c b k.toNat a.toNat u = .ok ⟨2, some row, none, none⟩)
    (hfree : s.issued.conflict ⟨.crew c.uid, s.issued.accessRegion c u, true, false, s.issPc u⟩ 1 pieceSize false
      (.spad b.uid (u.x (a.toNat + 2)).toNat) (u.x (a.toNat + 2)).toNat row.length = none) :
    kvldLane f k.toNat a.toNat d.toNat e c u s.issued = (s.issued.inFlight c.uid u.lane (e.pcI u)
      [(u.wb + d.toNat, BitVec.ofNat 32 2)] (some ((u.x (a.toNat + 2)).toNat, row)), .done) := by
  have hp : e.pcI u = s.issPc u := by
    unfold Env.pcI State.issPc
    rw [hg]
  unfold kvldLane
  rw [he, hp, show s.issued.matrixWait c.uid u.lane = false from hw, show s.issued.unit c.unit = some b from hu]
  simp only [Bool.false_eq_true, if_false, hl, hfree]
  rw [drainFor_settled (s := s.issued) hs]

/-- What a plan of a lane reads is not changed by the caches. -/
theorem kvPlan_cacheOnly {s z : State} (h : CacheOnly s z) (q : Sequence) (pos layer head : Nat) :
    z.kvPlan q pos layer head = s.kvPlan q pos layer head := by
  obtain ⟨_, _, _, _, _, _, _, rfl, -⟩ := h
  rfl

theorem kvTouch_cacheOnly (s : State) (core : Nat) (q : Option Sequence) (i pos : Nat) : CacheOnly s (s.kvTouch core q i pos) := by
  unfold State.kvTouch
  split
  · exact useLines_cacheOnly _ _ _ _ _
  · exact .refl s

/-- A row without NaN and infinity fails no test, where one thread alone reads (R288). -/
theorem kvFails_none {z : State} {e : Env} {f : Form} {q : Sequence} {p : Nat × Nat × Nat × Nat} {row : List Byte} {st i : Nat}
    {asc : Option Nat} (hA : Alone s c u) (hq : z.kvSeq c.world (z.chan c k.toNat) = some q)
    (hl : z.kvLane c b k.toNat a.toNat u = .ok ⟨st, some row, some p, asc⟩) (hrow : rowBad (kvFormat q.fmt) row = false) :
    z.kvFails e f c b k.toNat a.toNat u.set i = none := by
  unfold State.kvFails
  rw [hq]
  dsimp only
  refine (congrArg minOf (List.filterMap_eq_nil_iff.mpr fun t ht => ?_)).trans (rfl : minOf [] = none)
  split
  next hc =>
      have hset : u.set = s.iss.set := by
        have hm := hA.mem.2
        simp only [sel, Bool.and_eq_true, beq_iff_eq] at hm
        exact hm.2
      simp only [Bool.and_eq_true, beq_iff_eq] at hc
      have hsel : sel s.iss.set t = true := by
        simp only [sel, Bool.and_eq_true, beq_iff_eq]
        exact ⟨hc.1.1.1, hc.1.1.2.trans hset⟩
      have hlane : t.lane = u.lane := by simpa [hsel] using hA.sel_lane t ht
      rw [hA.2.2.2.1 t ht hlane, hl]
      simp [hrow]
  next => rfl

/-- A lane that lands a row of a resident page (R287). -/
theorem kvldLane_row {f : Form} {e : Env} {q : Sequence} {p : KvPage} {i : Nat} {row : List Byte} (hA : Alone s c u)
    (hw : s.matrixWait c.uid u.lane = false) (hu : s.unit c.unit = some b) (he : e.uid = c.uid) (hg : e.guard = s.iss.guard)
    (hs : Settled s c u) (hch : kvChan (s.chan c k.toNat) = none) (hdest : (u.x (a.toNat + 2)).toNat % 16 = 0)
    (hq : s.kvSeq c.world (s.chan c k.toNat) = some q)
    (hb : spadBad b.cores.length b.alloc (u.x (a.toNat + 2)).toNat q.rb = false)
    (hplan : s.issued.kvPlan q (u.x a.toNat).toNat ((u.x (a.toNat + 1)).toNat / 2 ^ 16) ((u.x (a.toNat + 1)).toNat % 2 ^ 16) =
      ⟨0, some row, some ((u.x (a.toNat + 1)).toNat / 2 ^ 16, (u.x (a.toNat + 1)).toNat % 2 ^ 16, p.idx, i), none⟩)
    (hrow : rowBad (kvFormat q.fmt) row = false)
    (hfree : s.issued.conflict ⟨.crew c.uid, s.issued.accessRegion c u, true, false, s.issPc u⟩ 1 pieceSize false
      (.spad b.uid (u.x (a.toNat + 2)).toNat) (u.x (a.toNat + 2)).toNat row.length = none) :
    ∃ z, CacheOnly s.issued z ∧ kvldLane f k.toNat a.toNat d.toNat e c u s.issued = (z.inFlight c.uid u.lane (e.pcI u)
      [(u.wb + d.toNat, BitVec.ofNat 32 0)] (some ((u.x (a.toNat + 2)).toNat, row)), .done) := by
  have hp : e.pcI u = s.issPc u := by
    unfold Env.pcI State.issPc
    rw [hg]
  let z := s.issued.kvTouch c.core (s.issued.kvSeq c.world (s.issued.chan c k.toNat)) i (u.x a.toNat).toNat
  have hz : CacheOnly s.issued z := kvTouch_cacheOnly _ _ _ _ _
  have hl : s.issued.kvLane c b k.toNat a.toNat u = _ := kvLane_some (z := s.issued) hch hdest hq hb
  have hzq : z.kvSeq c.world (z.chan c k.toNat) = some q ∧ kvChan (z.chan c k.toNat) = none ∧ Settled z c u ∧
      z.conflict ⟨.crew c.uid, z.accessRegion c u, true, false, s.issPc u⟩ 1 pieceSize false
        (.spad b.uid (u.x (a.toNat + 2)).toNat) (u.x (a.toNat + 2)).toNat row.length = none := by
    clear_value z
    obtain ⟨_, _, _, _, _, _, _, rfl, -⟩ := hz
    exact ⟨hq, hch, hs, hfree⟩
  have hzl : z.kvLane c b k.toNat a.toNat u = _ := kvLane_some hzq.2.1 hdest hzq.1 hb
  rw [kvPlan_cacheOnly hz, hplan] at hzl
  rw [hplan] at hl
  refine ⟨z, hz, ?_⟩
  unfold kvldLane
  rw [he, hp, show s.issued.matrixWait c.uid u.lane = false from hw, show s.issued.unit c.unit = some b from hu]
  simp only [Bool.false_eq_true, if_false, hl]
  rw [show s.issued.kvTouch c.core (s.issued.kvSeq c.world (s.issued.chan c k.toNat)) i (u.x a.toNat).toNat = z from rfl,
    kvFails_none hA hzq.1 hzl hrow]
  simp only [hzq.2.2.2]
  rw [drainFor_settled hzq.2.2.1]

end

end Sys2Proof.Machine
end


section
/-!
# No set issues

While an instruction is performed no set issues, and what the machine does on its own keeps it so: one lemma for each function
that gives a state, up to the ascent of a page of a sequence.
-/

namespace Sys2Proof.Machine

/-- No set issues. -/
def Unissued (s : State) : Prop := s.iss = ⟨0, 0, none⟩

/-! ## The ways in which states are put together -/

theorem fst_unissued {α : Type} {p : State × α} {t : State} {x : α} (hp : p = (t, x)) (h : Unissued p.1) : Unissued t := by
  rw [hp] at h
  exact h

theorem snd_unissued {α : Type} {p : α × State} {t : State} {x : α} (hp : p = (x, t)) (h : Unissued p.2) : Unissued t := by
  rw [hp] at h
  exact h

theorem foldl_unissued {α : Type} {f : State → α → State} {l : List α} {s : State}
    (hf : ∀ s a, Unissued s → Unissued (f s a)) (h : Unissued s) : Unissued (l.foldl f s) := by
  induction l generalizing s with
  | nil => exact h
  | cons a l ih => exact ih (hf s a h)

/-! ## The functions -/

theorem State.onCrew_unissued {s : State} {uid : Nat} {f : Crew → Crew} (h : Unissued s) :
    Unissued (State.onCrew s uid f) :=
  h

theorem State.onUnit_unissued {s : State} {uid : Nat} {f : BUnit → BUnit} (h : Unissued s) :
    Unissued (State.onUnit s uid f) :=
  h

theorem State.onWorld_unissued {s : State} {w : Nat} {f : World → World} (h : Unissued s) :
    Unissued (State.onWorld s w f) :=
  h

theorem State.onFrame_unissued {s : State} {i : Nat} {f : Frame → Frame} (h : Unissued s) :
    Unissued (State.onFrame s i f) :=
  h

theorem State.post_unissued {s : State} {e : Event} (h : Unissued s) : Unissued (State.post s e) :=
  h

theorem State.arm_unissued {s : State} {e : Event} (h : Unissued s) : Unissued (State.arm s e) := by
  unfold State.arm
  split
  · exact h
  · exact State.post_unissued h

theorem State.send_unissued {s : State} {m : Msg} (h : Unissued s) : Unissued (State.send s m) :=
  h

theorem State.fresh_unissued {s : State} (h : Unissued s) : Unissued (State.fresh s).2 :=
  h

theorem State.free_unissued {s : State} (h : Unissued s) : Unissued (State.free s).2 :=
  h

theorem State.onLane_unissued {s : State} {uid lane : Nat} {f : Thread → Thread} (h : Unissued s) :
    Unissued (State.onLane s uid lane f) :=
  h

theorem State.storePA_unissued {s : State} {pa : Nat} {l : List Byte} (h : Unissued s) :
    Unissued (s.storePA pa l) :=
  h

theorem State.translate_unissued {s : State} {wn core va : Nat} (h : Unissued s) :
    Unissued (State.translate s wn core va).1 := by
  unfold State.translate
  split
  · exact h
  · split
    · exact h
    · dsimp only
      split
      · dsimp only
        split
        · exact h
        · exact State.onWorld_unissued h
      · split
        · dsimp only
          split
          · split
            · exact State.free_unissued h
            · exact h
          · refine State.onWorld_unissued ?_
            split
            · exact State.free_unissued h
            · exact h
        · dsimp only
          split
          · exact State.free_unissued h
          · exact h
        · dsimp only
          refine State.onWorld_unissued ?_
          split
          · exact State.free_unissued h
          · exact h

theorem State.touchLeaf_unissued {s : State} {wn : Nat} {l : Leaf} (h : Unissued s) :
    Unissued (State.touchLeaf s wn l) := by
  unfold State.touchLeaf
  repeat' split
  all_goals exact h

theorem State.resolve_unissued {s : State} {wn core : Nat} {k : AccKind} {va size : Nat} (h : Unissued s) :
    Unissued (State.resolve s wn core k va size).1 := by
  unfold State.resolve
  split
  · exact h
  · split
    · exact h
    · split
      · exact fst_unissued ‹_› (State.translate_unissued h)
      · exact State.touchLeaf_unissued (fst_unissued ‹_› (State.translate_unissued h))

theorem State.storeT_unissued {s : State} {tt : Target} {l : List Byte} (h : Unissued s) :
    Unissued (State.storeT s tt l) := by
  unfold State.storeT
  split
  · exact State.storePA_unissued h
  · exact State.onCrew_unissued h
  · exact State.onUnit_unissued h
  · exact h

theorem State.wakeRange_unissued {s : State} {p : Place} {len : Nat} (h : Unissued s) :
    Unissued (State.wakeRange s p len) :=
  h

theorem State.useLines_unissued {s : State} {a keep : Nat} {write : Bool} {addrs : List Nat} (h : Unissued s) :
    Unissued (State.useLines s a keep write addrs) :=
  h

theorem State.useNp_unissued {s : State} {write : Bool} {pa len : Nat} (h : Unissued s) :
    Unissued (State.useNp s write pa len) :=
  h

theorem State.throttle_unissued {s : State} {core : Nat} (h : Unissued s) :
    Unissued (State.throttle s core) := by
  unfold State.throttle
  exact foldl_unissued (fun s x h => State.arm_unissued h) h

theorem State.scoreRise_unissued {s : State} {core uid : Nat} (h : Unissued s) :
    Unissued (State.scoreRise s core uid) := by
  unfold State.scoreRise
  refine State.throttle_unissued ?_
  exact h

theorem State.l1Fill_unissued {s : State} {core uid : Nat} {p : Place} (h : Unissued s) : Unissued (State.l1Fill s core uid p) :=
  h

theorem State.cached_unissued {s : State} {core uid : Nat} {tt : Target} {write : Bool} (h : Unissued s) :
    Unissued (State.cached s core uid tt write) := by
  unfold State.cached
  split
  · exact h
  · dsimp only
    refine State.l1Fill_unissued ?_
    split
    · refine State.useLines_unissued ?_
      split
      · exact State.scoreRise_unissued h
      · exact h
    · split
      · exact State.scoreRise_unissued h
      · exact h

theorem State.performAt_unissued {s : State} {tt : Target} {p : Place} {l : List Byte} (h : Unissued s) :
    Unissued (State.performAt s tt p l) := by
  unfold State.performAt
  exact State.wakeRange_unissued (State.storeT_unissued h)

theorem State.noteWrite_unissued {s : State} {p : Party} {launch : Nat × Word} {tt : Target} {q : Place} {len : Nat} (h :
    Unissued s) :
    Unissued (State.noteWrite s p launch tt q len) :=
  h

theorem State.storeLine_unissued {s : State} {p : PStore} (h : Unissued s) :
    Unissued (State.storeLine s p) := by
  unfold State.storeLine
  split
  · exact State.cached_unissued h
  · exact h

theorem State.noteStore_unissued {s : State} {p : PStore} {len : Nat} (h : Unissued s) :
    Unissued (State.noteStore s p len) := by
  unfold State.noteStore
  split
  · exact State.noteWrite_unissued h
  · exact h

theorem State.brings_unissued {s : State} {id : Nat} {old : BitVec 64} (h : Unissued s) :
    Unissued (State.brings s id old) :=
  h

theorem State.applyStore_unissued {s : State} {p : PStore} (h : Unissued s) :
    Unissued (State.applyStore s p) := by
  unfold State.applyStore
  dsimp only
  split
  · exact State.performAt_unissued (State.noteStore_unissued (State.storeLine_unissued h))
  · exact foldl_unissued (fun s x h => State.performAt_unissued h) (State.storeLine_unissued h)
  · exact State.performAt_unissued (State.noteStore_unissued (State.storeLine_unissued h))
  · refine State.brings_unissued ?_
    split
    · refine State.onLane_unissued ?_
      split
      · exact State.storeLine_unissued h
      · exact State.performAt_unissued (State.noteStore_unissued (State.storeLine_unissued h))
    · split
      · exact State.storeLine_unissued h
      · exact State.performAt_unissued (State.noteStore_unissued (State.storeLine_unissued h))

theorem State.dropEnded_unissued {s : State} {uid : Nat} (h : Unissued s) :
    Unissued (State.dropEnded s uid) := by
  unfold State.dropEnded
  split <;> exact h

theorem State.performStores_unissued {s : State} {p : PStore → Bool} (h : Unissued s) :
    Unissued (State.performStores s p) := by
  unfold State.performStores
  exact foldl_unissued (fun s x h => State.dropEnded_unissued h) (foldl_unissued (fun s x h => State.applyStore_unissued h) h)

theorem State.readLate_unissued {s : State} {p : Landing → Bool} (h : Unissued s) :
    Unissued (State.readLate s p) := by
  unfold State.readLate
  split
  · exact foldl_unissued (fun s x h => State.dropEnded_unissued h) h
  · exact h

theorem State.finishFrame_unissued {s : State} {pa : Nat} (h : Unissued s) :
    Unissued (State.finishFrame s pa) := by
  unfold State.finishFrame
  dsimp only
  refine State.readLate_unissued ?_
  split
  · exact State.performStores_unissued h
  · exact h

theorem State.engPart_unissued {s : State} {wn core : Nat} {k : AccKind} {va n : Nat} (h : Unissued s) :
    Unissued (State.engPart s wn core k va n).1 := by
  unfold State.engPart
  split <;> exact fst_unissued ‹_› (State.resolve_unissued h)

theorem State.engTargets_unissued {s : State} {wn : Nat} {core : Nat} {k : AccKind} {x1 : List (Nat × Nat)} (h : Unissued s) : Unissued (State.engTargets s wn core k x1).1 := by
  induction x1 generalizing s with
  | nil =>
    exact h
  | cons y l ih =>
    obtain ⟨va, len⟩ := y
    unfold State.engTargets
    split
    · split
      · dsimp only
        refine fst_unissued ‹_› ?_
        apply ih
        exact fst_unissued ‹_› (State.engPart_unissued h)
      · dsimp only
        refine fst_unissued ‹_› ?_
        apply ih
        exact fst_unissued ‹_› (State.engPart_unissued h)
    · exact fst_unissued ‹_› (State.engPart_unissued h)
    · split
      · dsimp only
        refine fst_unissued ‹_› ?_
        apply ih
        exact fst_unissued ‹_› (State.engPart_unissued h)
      · dsimp only
        refine fst_unissued ‹_› ?_
        apply ih
        exact fst_unissued ‹_› (State.engPart_unissued h)
    · exact fst_unissued ‹_› (State.engPart_unissued h)

theorem State.devTouch_unissued {s : State} {wn va n : Nat} (h : Unissued s) :
    Unissued (State.devTouch s wn va n) := by
  unfold State.devTouch
  split
  · exact foldl_unissued (fun s x h => State.useNp_unissued h) (fst_unissued ‹_› (State.engTargets_unissued h))
  · exact fst_unissued ‹_› (State.engTargets_unissued h)

theorem State.onPeer_unissued {s : State} {peer : Nat} {f : Peer → Peer} (h : Unissued s) :
    Unissued (State.onPeer s peer f) :=
  h

theorem State.route_unissued {s : State} {cls peer : Nat} (h : Unissued s) :
    Unissued (State.route s cls peer).1 := by
  unfold State.route
  split
  · split
    exact snd_unissued ‹_› (State.free_unissued h)
  · split
    exact State.onPeer_unissued h

theorem State.countPacket_unissued {s : State} {peer : Nat} (h : Unissued s) :
    Unissued (State.countPacket s peer) := by
  unfold State.countPacket
  dsimp only
  split
  · exact State.onPeer_unissued h
  · exact State.arm_unissued (State.onPeer_unissued h)

theorem State.sendPiece_unissued {s : State} {cls peer owner part off len : Nat} (h : Unissued s) :
    Unissued (State.sendPiece s cls peer owner part off len) := by
  unfold State.sendPiece
  split
  split
  exact State.countPacket_unissued (State.send_unissued (State.post_unissued (State.onPeer_unissued (fst_unissued ‹_› (State.route_unissued (snd_unissued ‹_›
      (State.fresh_unissued h)))))))

theorem State.transmitPart_unissued {s : State} {cls peer owner part len : Nat} (h : Unissued s) :
    Unissued (State.transmitPart s cls peer owner part len) := by
  unfold State.transmitPart
  exact foldl_unissued (fun s x h => State.sendPiece_unissued h) h

theorem State.onSeq_unissued {s : State} {id : Nat} {f : Sequence → Sequence} (h : Unissued s) :
    Unissued (State.onSeq s id f) :=
  h

theorem State.onRoost_unissued {s : State} {id : Nat} {f : Roost → Roost} (h : Unissued s) :
    Unissued (State.onRoost s id f) :=
  h

theorem State.setItemTier_unissued {s : State} {id page tier : Nat} (h : Unissued s) :
    Unissued (State.setItemTier s id page tier) := by
  unfold State.setItemTier
  split
  · exact State.onRoost_unissued h
  · exact State.onSeq_unissued h

theorem State.setItemOut_unissued {s : State} {id page : Nat} {out : List (Nat × Bool × List Byte)} (h : Unissued s) :
    Unissued (State.setItemOut s id page out) := by
  unfold State.setItemOut
  split
  · exact State.onRoost_unissued h
  · exact State.onSeq_unissued h

theorem State.npSay_unissued {s : State} {owner kind job page rank ver : Nat} {bytes : List Byte} (h : Unissued s) :
    Unissued (State.npSay s owner kind job page rank ver bytes) := by
  unfold State.npSay
  exact State.transmitPart_unissued (State.send_unissued h)

theorem State.askShard_unissued {s : State} {kind job page : Nat} {data : List Byte} (h : Unissued s) :
    Unissued (State.askShard s kind job page data).1 := by
  unfold State.askShard
  split
  · exact h
  · dsimp only
    split
    · dsimp only
      split
      · exact h
      · exact State.devTouch_unissued h
    · split
      · dsimp only
        refine State.post_unissued ?_
        split
        · exact h
        · exact State.devTouch_unissued h
      · split
        · dsimp only
          refine State.npSay_unissued ?_
          split
          · exact h
          · exact State.devTouch_unissued h
        · dsimp only
          split
          · exact h
          · exact State.devTouch_unissued h

theorem State.onOwned_unissued {s : State} {job page : Nat} {f : Owned → Owned} (h : Unissued s) :
    Unissued (State.onOwned s job page f) :=
  h

theorem State.wakeName_unissued {s : State} {job page : Nat} (h : Unissued s) :
    Unissued (State.wakeName s job page) :=
  h

theorem State.frameLeaves_unissued {s : State} {i roost : Nat} (h : Unissued s) :
    Unissued (State.frameLeaves s i roost) := by
  unfold State.frameLeaves
  exact State.wakeName_unissued (State.onFrame_unissued (State.useNp_unissued (State.finishFrame_unissued h)))

theorem State.touchState_unissued {s : State} {id page : Nat} (h : Unissued s) :
    Unissued (State.touchState s id page) := by
  unfold State.touchState
  split
  · exact foldl_unissued (fun s x h => State.translate_unissued h) h
  · exact h

theorem State.itemDescends_unissued {s : State} {id page dst : Nat} (h : Unissued s) :
    Unissued (State.itemDescends s id page dst) := by
  unfold State.itemDescends
  dsimp only
  refine State.send_unissued ?_
  refine State.setItemTier_unissued ?_
  split
  · exact State.touchState_unissued h
  · refine foldl_unissued (fun s x h => ?_) ?_
    · split
      · exact State.frameLeaves_unissued h
      · exact h
    · exact State.touchState_unissued h

theorem State.evictHome_unissued {s : State} {i : Nat} (h : Unissued s) :
    Unissued (State.evictHome s i) := by
  unfold State.evictHome
  dsimp only
  split
  · exact State.askShard_unissued (State.wakeName_unissued (State.onOwned_unissued (State.onFrame_unissued (State.useNp_unissued
      (State.finishFrame_unissued h)))))
  · refine State.arm_unissued ?_
    split
    · split
      · exact State.wakeName_unissued (State.onFrame_unissued (State.useNp_unissued (State.finishFrame_unissued h)))
      · exact State.askShard_unissued (State.wakeName_unissued (State.onFrame_unissued (State.useNp_unissued (State.finishFrame_unissued h))))
    · split
      · exact State.wakeName_unissued (State.onFrame_unissued (State.useNp_unissued (State.finishFrame_unissued h)))
      · exact State.askShard_unissued (State.wakeName_unissued (State.onFrame_unissued (State.useNp_unissued (State.finishFrame_unissued h))))

theorem State.pageDescends_unissued {s : State} {id i : Nat} (h : Unissued s) :
    Unissued (State.pageDescends s id i) := by
  unfold State.pageDescends
  exact State.arm_unissued (State.send_unissued (State.setItemOut_unissued (State.frameLeaves_unissued h)))

theorem State.evict_unissued {s : State} {i : Nat} (h : Unissued s) : Unissued (State.evict s i) := by
  unfold State.evict
  dsimp only
  split
  · split
    · exact State.itemDescends_unissued h
    · split
      · exact State.pageDescends_unissued h
      · exact State.evictHome_unissued h
  · exact State.evictHome_unissued h

theorem State.ascendFrame_unissued {s : State} {id job page : Nat} {wr : Bool} (h : Unissued s) :
    Unissued (State.ascendFrame s id job page wr) := by
  unfold State.ascendFrame
  split
  · exact h
  · exact h
  · split
    · exact State.onFrame_unissued h
    · split
      · exact h
      · exact State.evict_unissued h

theorem State.ascendFrames_unissued {s : State} {id page : Nat} (h : Unissued s) :
    Unissued (State.ascendFrames s id page) := by
  unfold State.ascendFrames
  exact foldl_unissued (fun s x h => State.ascendFrame_unissued h) h

theorem State.startAscent_unissued {s : State} {id page : Nat} (h : Unissued s) :
    Unissued (State.startAscent s id page) := by
  unfold State.startAscent
  exact State.arm_unissued (State.send_unissued (State.ascendFrames_unissued (State.setItemTier_unissued (State.touchState_unissued h))))

theorem State.wantItem_unissued {s : State} {id page : Nat} (h : Unissued s) :
    Unissued (State.wantItem s id page) := by
  unfold State.wantItem
  dsimp only
  split
  · exact State.startAscent_unissued h
  · split
    · exact State.setItemTier_unissued h
    · exact h

/-! ## kvld -/

/-- A result put in flight changes the landings, the numbers and what is to be taken, beside the crews. -/
theorem inFlight_within {z : State} (hz : Unissued z) (uid lane : Nat) (pc : Word) (vals : List (Nat × Word)) (cs : List Crew) :
    Within (flies z z ⟨z.nextId, uid, lane, false, vals, none, none, false, false⟩)
      { (z.inFlight uid lane pc vals none) with crews := cs } := by
  cases z
  cases hz
  rfl

/-- Settles O35: a lane's plan by the branches of R287, and what it lands. -/
theorem pageReads : Obligations.PageReads := by
  intro sw k a d s c u b ha hd hs hw hunit ch pos layer head dest free hv hkind hr hout hdest
  have hch : kvChan (s.chan c k.toNat) = none := kvChan_none hv hkind hr hout
  obtain ⟨e, he, hg, -, hx⟩ := kvld_runs (k := k) ha hd
  have hA := ha.1
  have hrep : u.replay = none := hA.2.2.2.2.2
  have hstatus : ∀ st, s.issued.kvLane c b k.toNat a.toNat u = .ok ⟨st, none, none, none⟩ →
      ∃ t, exec (.kvld sw k a d) s = .next t ∧ KvLands s s t c u d.toNat st none := by
    intro st hl
    rw [hx, kvldLane_status hw hunit he hl rfl]
    exact ⟨_, rfl, hA.laneAt.kvLands he hg hrep fun _ => rfl⟩
  refine ⟨fun hq hb => hstatus 1 (kvLane_none (z := s.issued) hch hdest hq hb), fun q hq hb => ?_⟩
  have hl := kvLane_some (z := s.issued) (u := u) (aF := a.toNat) hch hdest hq hb
  refine ⟨fun hpos hfree => ?_, fun hpos hfind => ?_, fun i p hpos hfind => ⟨fun hquar => ?_, ?_, fun row hquar htier hrow hbad hfree => ?_⟩⟩
  · unfold State.kvPlan at hl
    rw [if_pos hpos] at hl
    rw [hx, kvldLane_zeros hw hunit he hg hs hl hfree]
    exact ⟨_, rfl, hA.laneAt.kvLands he hg hrep fun _ => rfl⟩
  · refine hstatus 1 (hl.trans ?_)
    unfold State.kvPlan
    rw [if_neg (Nat.not_lt.mpr hpos), hfind]
  · refine hstatus 3 (hl.trans ?_)
    unfold State.kvPlan
    rw [if_neg (Nat.not_lt.mpr hpos), hfind]
    exact congrArg Except.ok (if_pos hquar)
  · intro hquar htier w h1 h2 h3
    have hplan : s.issued.kvLane c b k.toNat a.toNat u = .ok ⟨4, none, none, some i⟩ := by
      refine hl.trans ?_
      unfold State.kvPlan
      rw [if_neg (Nat.not_lt.mpr hpos), hfind]
      dsimp only
      rw [if_neg (by simp [hquar])]
      by_cases ht : p.tier = 0
      · rw [if_neg (by simp [ht]), htier.resolve_left (by simp [ht])]
      · rw [if_pos ht]
    rw [hx, kvldLane_status hw hunit he hplan rfl]
    have hiss : w.iss = ⟨0, 0, none⟩ := State.wantItem_unissued rfl
    have hlw : LaneAt s w c u u c c := hA.laneAt.same h1 hiss
    refine ⟨_, rfl, hlw.kvLands he hg hrep fun cs => ?_⟩
    rw [← flies_eq h2 h3 w, ← h3]
    exact inFlight_within hiss _ _ _ _ _
  · have hplan : s.issued.kvPlan q pos layer head = ⟨0, some row, some (layer, head, p.idx, i), none⟩ := by
      unfold State.kvPlan
      rw [if_neg (Nat.not_lt.mpr hpos), hfind]
      dsimp only
      rw [if_neg (by simp [hquar]), if_neg (by simp [htier]), hrow]
    obtain ⟨z, hz, hlane⟩ := kvldLane_row (f := { word := (encRRR sw 53#6 0#4 (0#1 ++ k) a d), sw := sw, ops := [aX a 3, bX d 1], drip := false }) hA hw
      hunit he hg hs hch hdest hq hb hplan hbad hfree
    rw [hx, hlane]
    have hlz : LaneAt s z c u u c c := by
      obtain ⟨_, _, _, _, _, _, _, rfl, -⟩ := hz
      exact hA.laneAt.same rfl rfl
    refine ⟨_, rfl, hlz.kvLands he hg hrep fun cs => ?_⟩
    obtain ⟨_, _, _, _, _, _, _, rfl, hag⟩ := hz
    exact ⟨rfl, by simp only [State.inFlight, State.fresh, State.onLane, State.onCrew, State.post, flies, List.filter_append, hag]; rfl⟩

end Sys2Proof.Machine
end


section
/-! # Landings of one number -/

namespace Sys2Proof.Machine

/-- A relaxed read of the scratchpad word at 0, accepted for the landing 0. -/
def twinStore : PStore := ⟨0, 0, 0, 0, .spad 0 0, .spad 0 0, .rmw 14 0 0 0, false, none, false⟩

/-- A landing 0 that waits for the accepted atomic and has the word at 4 still to be read, into x5. -/
def twinLate : Landing := ⟨0, 0, 0, false, [], none, some ⟨0, .spad 0 4, .spad 0 4, 4, [5], none⟩, true, false⟩

/-- The word at 0 is 1 and the word at 4 is 2; two landings have the number 0, of which the second has nothing to be read. -/
def twinState : State := { State.reset with
  crews := [{ Crew.init 0 with threads := [Thread.init 0 0] }]
  units := [⟨0, 0, 0, 0, 0, 0, [0], 1, 512, [(0, 1), (4, 2)], [], [], [], false, 0, 0, 0, false, none, []⟩]
  stores := [twinStore]
  landings := [twinLate, { twinLate with late := none }] }

/-- x5 of the thread once the outcome is taken. -/
def fifth : Out → Option Word
  | .next t => ((t.crew 0).bind (·.thread 0)).map (·.getX 5)
  | _ => none

/-- Refutes O36: of two landings with one number the one that lands first may still have words to read, and whether the
atomic that it waits for is performed before that read or after it shows in the register. -/
theorem not_resultsLand : ¬ Obligations.ResultsLand := by
  unfold Obligations.ResultsLand
  rintro ⟨-, -, h, -⟩
  have hsame := (h twinState twinStore [] [] rfl (fun _ hq => nomatch hq) (fun _ hq => nomatch hq)).1 14 0 0 0
    (twinState.performStores fun p => p.id == 0) rfl (fun q hq _ => by rw [List.mem_singleton.mp hq])
    ⟨{ twinLate with late := none }, by simp [twinState], rfl, rfl, rfl, rfl⟩
    (fun x hx _ => by
      have hx' : x = twinLate ∨ x = { twinLate with late := none } := by simpa [twinState] using hx
      rcases hx' with rfl | rfl <;> rfl) rfl
  have h1 : fifth (exec (.resultLand 0) twinState) = some 1 := by rfl
  have h2 : fifth (exec (.resultLand 0) (twinState.performStores fun p => p.id == 0)) = some 2 := by rfl
  rw [show exec (.resultLand 0) twinState = _ from hsame, h2] at h1
  exact absurd h1 (by decide)

end Sys2Proof.Machine
end


section
/-! # More lanes than bins are opened for -/

namespace Sys2Proof.Machine

/-! ## A lane that a filing does not reach -/

/-- The thread is not blocked, and stands at 0 if its lane is `l`. -/
def Thread.Rests (l : Nat) (t : Thread) : Prop := (∀ w n, t.st ≠ .blocked w n) ∧ (t.lane = l → t.pc = 0)

/-- Every thread rests; no bin of the quarter holds the lane, nor a system call. -/
def Unreached (l q : Nat) (s : State) : Prop :=
  (∀ c ∈ s.crews, ∀ t ∈ c.threads, t.Rests l) ∧ tabWf (fun _ => Quarter.init) s.quarters = true ∧
    ∀ b ∈ (s.quarter q).bins, b.sysc = none ∧ l ∉ b.lanes

/-- A change of the quarter's bins. -/
theorem Unreached.onQuarter {l q : Nat} {s : State} (h : Unreached l q s) {f : Quarter → Quarter}
    (hf : ∀ b ∈ (f (s.quarter q)).bins, b.sysc = none ∧ l ∉ b.lanes) : Unreached l q (s.onQuarter q f) := by
  obtain ⟨h1, h2, h3⟩ := h
  refine ⟨h1, tabPut_wf h2, ?_⟩
  have hget : (s.onQuarter q f).quarter q = f (s.quarter q) := tabGet_tabPut_self (dk := fun _ => Quarter.init) h2
  rw [hget]
  exact hf

/-- A change of a crew's threads that keeps what a lane stands at keeps it unreached. -/
theorem Unreached.onCrew {l q : Nat} {s : State} (h : Unreached l q s) (uid : Nat) {f : Crew → Crew}
    (hf : ∀ c ∈ s.crews, ∀ t ∈ (f c).threads, t.Rests l) :
    Unreached l q (s.onCrew uid f) := by
  refine ⟨fun c hc t ht => ?_, h.2⟩
  obtain ⟨d, hd, rfl⟩ := List.mem_map.mp hc
  split at ht
  · exact hf d hd t ht
  · exact h.1 d hd t ht

/-- Threads of lanes other than `l` are put elsewhere. -/
theorem rests_onThreads {l : Nat} {c : Crew} {lanes : List Nat} {f : Thread → Thread} (hl : l ∉ lanes)
    (hlane : ∀ t, (f t).lane = t.lane) (hst : ∀ t w n, (f t).st ≠ .blocked w n)
    (hc : ∀ t ∈ c.threads, t.Rests l) :
    ∀ t ∈ (c.onThreads (fun t => lanes.contains t.lane) f).threads, t.Rests l := by
  intro t ht
  obtain ⟨v, hv, rfl⟩ := List.mem_map.mp ht
  split
  next hin =>
    refine ⟨hst v, fun h => absurd ?_ hl⟩
    rw [hlane] at h
    simpa [← h] using hin
  next => exact hc v hv

theorem Unreached.releaseBin {l q : Nat} {s : State} (h : Unreached l q s) {b : Bin} (hb : b ∈ (s.quarter q).bins) :
    Unreached l q (s.releaseBin q b) := by
  obtain ⟨hsysc, hlane⟩ := h.2.2 b hb
  unfold State.releaseBin
  rw [hsysc]
  have hq : Unreached l q (s.onQuarter q fun x => { x with bins := x.bins.filter (·.id != b.id) }) :=
    h.onQuarter fun y hy => h.2.2 y (List.mem_filter.mp hy).1
  refine hq.onCrew b.crew fun c hc t ht => ?_
  obtain ⟨v, hv, n, rfl⟩ := regroup_mem ht
  obtain ⟨w, hw, m, rfl⟩ := band_mem hv
  exact rests_onThreads (f := fun t => { t with
      st := .running
      pc := b.pc }) hlane (fun _ => rfl) (fun _ _ _ h => TState.noConfusion h) (h.1 c hc) w hw

theorem pickBy_mem {α : Type} (p : α → α → Bool) {l : List α} {x : α} (h : pickBy p l = some x) : x ∈ l := by
  obtain ⟨y, hy, hp⟩ := pickBy_some p (l := l) (by rintro rfl; cases h)
  rw [h] at hp
  rwa [Option.some.inj hp]

/-- Filing reaches no lane behind the first 32 for each bin that it may open. -/
theorem Unreached.fileLanes {l q uid wb : Nat} {pc : Word} {fuel : Nat} {s : State} {lanes : List Nat} (h : Unreached l q s)
    (hl : l ∉ lanes.take (32 * fuel)) : Unreached l q (s.fileLanes uid q pc wb none fuel lanes) := by
  induction fuel generalizing s lanes with
  | zero => exact h
  | succ n ih =>
    have hfirst : ∀ k ≤ 32, l ∉ lanes.take k ∧ l ∉ (lanes.drop k).take (32 * n) := by
      intro k hk
      refine ⟨fun hm => hl ?_, fun hm => hl ?_⟩
      · exact List.mem_of_mem_take (l := lanes.take (32 * (n + 1))) (i := k) (by rwa [List.take_take, Nat.min_eq_left (by omega)])
      · rw [List.take_drop] at hm
        have hm' := List.mem_of_mem_drop hm
        exact List.mem_of_mem_take (l := lanes.take (32 * (n + 1))) (i := k + 32 * n) (by rwa [List.take_take, Nat.min_eq_left (by omega)])
    unfold State.fileLanes
    split
    · exact h
    · dsimp only
      split
      next b hb =>
        refine ih ?_ (hfirst _ (by omega)).2
        have hq : Unreached l q (s.onQuarter q fun x => { x with
            bins := x.bins.map fun (y : Bin) => if y.id == b.id then { y with lanes := y.lanes ++ lanes.take (32 - b.lanes.length) } else y }) := by
          refine h.onQuarter fun y hy => ?_
          obtain ⟨z, hz, rfl⟩ := List.mem_map.mp hy
          obtain ⟨h1, h2⟩ := h.2.2 z hz
          split
          · exact ⟨h1, fun hm => (List.mem_append.mp hm).elim h2 (hfirst _ (by omega)).1⟩
          · exact ⟨h1, h2⟩
        exact hq.onCrew uid fun c hc => rests_onThreads (hfirst _ (by omega)).1 (fun _ => rfl) (fun _ _ _ h => TState.noConfusion h) (h.1 c hc)
      next =>
        refine ih ?_ (hfirst 32 (by omega)).2
        have hfull : Unreached l q (if (s.quarter q).bins.length ≥ binCount then
            match pickBy (fun (a b : Bin) => decide (a.oldest < b.oldest)) (s.quarter q).bins with
            | some b => s.releaseBin q b
            | none => s
          else s) := by
          split
          · split
            next b hb => exact h.releaseBin (pickBy_mem _ hb)
            next => exact h
          · exact h
        have hopen : ∀ (z : State) (id k : Nat), Unreached l q z → Unreached l q (z.onQuarter q fun x => { x with
            bins := x.bins ++ [(⟨id, uid, pc, wb, lanes.take 32, k, false, none⟩ : Bin)] }) := by
          intro z id k hz
          refine hz.onQuarter fun y hy => ?_
          rcases List.mem_append.mp hy with hy | hy
          · exact hz.2.2 y hy
          · rw [List.mem_singleton.mp hy]
            exact ⟨rfl, (hfirst 32 (by omega)).1⟩
        generalize (if (s.quarter q).bins.length ≥ binCount then
            match pickBy (fun (a b : Bin) => decide (a.oldest < b.oldest)) (s.quarter q).bins with
            | some b => s.releaseBin q b
            | none => s
          else s) = z at hfull ⊢
        exact (hopen z.fresh.2 z.fresh.1 z.fresh.2.clock hfull).onCrew uid fun c hc =>
          rests_onThreads (hfirst 32 (by omega)).1 (fun _ => rfl) (fun _ _ _ h => TState.noConfusion h) (hfull.1 c hc)

theorem Unreached.fileAll {l uid : Nat} {s : State} {keys : List (Nat × Word × Nat)}
    (hl : ∀ k, l ∉ ((keys.filter fun x => x.2 == k).map (·.1)).take (32 * 130)) {q : Nat}
    (hs : Unreached l q s) (hq : ∀ c, s.crew uid = some c → quarterNo c.core c.quarter = q) : Unreached l q (s.fileAll uid none keys) := by
  unfold State.fileAll
  split
  · exact hs
  next c hc =>
    dsimp only
    rw [hq c hc]
    have hfold : ∀ (ks : List (Word × Nat)) (z : State), Unreached l q z → Unreached l q (ks.foldl (fun s k =>
        s.fileLanes uid q k.1 k.2 none 130 ((keys.filter fun x => x.2 == k).map (·.1))) z) := by
      intro ks
      induction ks with
      | nil => exact fun _ hz => hz
      | cons k r ih => exact fun z hz => ih _ (hz.fileLanes (hl k))
    exact hfold _ _ hs

/-- Where no thread is blocked none passes a barrier. -/
theorem Unreached.passBars {l q : Nat} {s : State} (h : Unreached l q s) (uid b : Nat) (phase : Word) : s.passBars uid b phase = s := by
  have hnone : (s.crews.filter fun c => c.unit == uid && c.drip.isNone &&
      c.threads.any fun t => t.passes b phase false || t.passes b phase true) = [] := by
    rw [List.filter_eq_nil_iff]
    intro c hc
    have hany : (c.threads.any fun t => t.passes b phase false || t.passes b phase true) = false := by
      rw [List.any_eq_false]
      intro t ht
      have hst := (h.1 c hc t ht).1
      unfold Thread.passes
      cases hs : t.st with
      | blocked w n => exact absurd hs (hst w n)
      | _ => simp
    rw [hany, Bool.and_false]
    exact Bool.false_ne_true
  unfold State.passBars
  rw [hnone]
  rfl

theorem Unreached.arrive {l q : Nat} {s : State} (h : Unreached l q s) (uid b : Nat) : Unreached l q (s.arrive uid b) := by
  unfold State.arrive
  split
  · exact h
  · split
    · exact h
    · dsimp only
      rw [Unreached.passBars (l := l) (q := q) (by exact h)]
      exact h

/-! ## A crew of many lanes -/

/-- A thread that waits at the bar.arr at 0. -/
def wideThread (i : Nat) : Thread := { Thread.init i 0 with st := .coll (.bar 0 false) true none 0 4 }

/-- A crew of the lanes 0 to `m`, all of which have arrived. -/
def wideCrew (m : Nat) : Crew := { Crew.init 0 with threads := (List.range (m + 1)).map wideThread }

/-- The crew alone on the device; two crews are to arrive in all. -/
def wideState (m : Nat) : State := { State.reset with
  crews := [wideCrew m]
  units := [⟨0, 0, 0, 0, 0, 0, [0], 1, 512, [], [⟨2, 0, 0⟩], [], [], false, 0, 0, 0, false, none, []⟩] }

section
variable {m : Nat}

theorem mem_wideCrew {t : Thread} (h : t ∈ (wideCrew m).threads) : ∃ i, t = wideThread i := by
  obtain ⟨i, -, rfl⟩ := List.mem_map.mp h
  exact ⟨i, rfl⟩

theorem wideCrew_live : (wideCrew m).liveThreads = wideThread 0 :: ((List.range m).map Nat.succ).map wideThread := by
  have hall : (wideCrew m).liveThreads = (wideCrew m).threads := List.filter_eq_self.mpr fun t ht => by
    obtain ⟨i, rfl⟩ := mem_wideCrew ht
    rfl
  rw [hall]
  unfold wideCrew
  dsimp only
  rw [List.range_succ_eq_map]
  rfl

theorem wide_waits : CollWaits (wideState m) (wideCrew m) (.bar 0 false) 0 := by
  refine ⟨rfl, fun e he _ => List.mem_singleton.mp he, _, _, wideCrew_live, ⟨true, none, 0, rfl⟩, fun u hu => ?_⟩
  obtain ⟨i, -, rfl⟩ := List.mem_map.mp hu
  rfl

theorem wide_rests : Unreached m 0 (wideState m) := by
  refine ⟨fun c hc t ht => ?_, rfl, fun b hb => (nomatch hb)⟩
  rw [List.mem_singleton.mp hc] at ht
  obtain ⟨i, rfl⟩ := mem_wideCrew ht
  exact ⟨fun _ _ h => TState.noConfusion h, fun _ => rfl⟩

theorem wide_settled (t : Thread) : Settled (wideState m) (wideCrew m) t :=
  ⟨fun _ h => (nomatch h), fun _ h => (nomatch h)⟩

theorem wide_blockRelease : (wideState m).blockRelease (wideCrew m) = (wideState m).syncRel 0 scopeBlock := by
  have hfold : ∀ ts : List Thread, ts.foldl (fun s t => s.drainLane (wideCrew m).uid t.lane) (wideState m) = wideState m := by
    intro ts
    induction ts with
    | nil => rfl
    | cons t r ih =>
      rw [List.foldl_cons, drainLane_settled (wide_settled t)]
      exact ih
  unfold State.blockRelease
  rw [hfold]
  rfl

theorem wide_waiters : ({ wideCrew m with region := (wideCrew m).region + 1 } : Crew).waiters = (List.range (m + 1)).map fun i => (i, 4, 0) := by
  show ((List.range (m + 1)).map wideThread).filterMap _ = _
  rw [List.filterMap_map]
  exact congrFun List.filterMap_eq_map' _

/-- Filing them does not reach the last lane, where there are more than bins are opened for. -/
theorem wide_keys (hm : 32 * 130 ≤ m) (k : Word × Nat) :
    m ∉ (((((List.range (m + 1)).map fun i => (i, (4 : Word), 0)).filter fun x => x.2 == k).map (·.1)).take (32 * 130)) := by
  have hone : ((List.range (m + 1)).map fun i => (i, (4 : Word), 0)).filter (fun x => x.2 == k) =
      if k = (4, 0) then (List.range (m + 1)).map fun i => (i, (4 : Word), 0) else [] := by
    rw [List.filter_map]
    by_cases hk : k = (4, 0)
    · rw [if_pos hk, List.filter_eq_self.mpr fun i _ => by simp [hk]]
    · rw [if_neg hk, List.filter_eq_nil_iff.mpr fun i _ => by simpa using Ne.symm hk]
      rfl
  rw [hone]
  split
  · rw [List.map_map, show ((fun x : Nat × Word × Nat => x.1) ∘ fun i => (i, (4 : Word), 0)) = id from rfl, List.map_id, List.take_range]
    simp only [List.mem_range]
    omega
  · simp

/-- They are released to the bins without the last lane. -/
theorem wide_released (hm : 32 * 130 ≤ m) : Unreached m 0 (((wideState m).syncRel 0 scopeBlock).collRelease 0 0) := by
  obtain ⟨o, r, hz⟩ := syncRel_frame (wideState m) 0 scopeBlock
  have hrel : Unreached m 0 ((wideState m).syncRel 0 scopeBlock) := by
    rw [hz]
    exact wide_rests.onCrew 0 (f := fun c => { c with region := c.region + 1 }) fun c hc t ht => wide_rests.1 c hc t ht
  have hcrew : ((wideState m).syncRel 0 scopeBlock).crew 0 = some { wideCrew m with region := (wideCrew m).region + 1 } := by
    rw [hz]
    rfl
  unfold State.collRelease
  rw [hcrew]
  dsimp only
  rw [wide_waiters, List.map_map, show ((fun w : Nat × Word × Nat => (w.1, w.2.1, w.2.2)) ∘ fun i => (i, (4 : Word), 0)) =
    fun i => (i, (4 : Word), 0) from rfl]
  refine Unreached.fileAll (q := 0) (wide_keys hm) ?_ ?_
  · refine hrel.onCrew 0 fun c hc t ht => ?_
    obtain ⟨v, hv, rfl⟩ := List.mem_map.mp ht
    obtain ⟨h1, h2⟩ := hrel.1 c hc v hv
    split
    · unfold Thread.leaveColl
      split
      · exact ⟨fun _ _ h => TState.noConfusion h, h2⟩
      · exact ⟨h1, h2⟩
    · exact ⟨h1, h2⟩
  · intro c hc
    obtain ⟨d, hd, rfl⟩ : ∃ d, ((wideState m).syncRel 0 scopeBlock).crew 0 = some d ∧
        (d.onThreads (·.collAt.isSome) Thread.leaveColl).dropPend [0] = c := by
      rw [State.onCrew_crew _ _ (fun c => (c.onThreads (·.collAt.isSome) Thread.leaveColl).dropPend [0]) fun _ h => h] at hc
      exact Option.map_eq_some_iff.mp hc
    rw [hcrew] at hd
    rw [← Option.some.inj hd]
    rfl

/-- Their arrival is performed without the last lane. -/
theorem wide_performed (hm : 32 * 130 ≤ m) : Unreached m 0 ((wideState m).performColl (wideCrew m) (.bar 0 false) 0) := by
  have hfiled := wide_released hm
  have harr : ∀ p : Prop, [Decidable p] → Unreached m 0 (if p then (((wideState m).syncRel 0 scopeBlock).collRelease 0 0).arrive 0 0
      else ((wideState m).syncRel 0 scopeBlock).collRelease 0 0) := by
    intro p _
    split
    · exact hfiled.arrive _ _
    · exact hfiled
  have hpass : ∀ (z : State) (x : Option Barrier), Unreached m 0 z → Unreached m 0 (match x with
      | some bar => z.passBars 0 0 bar.phase
      | none => z) := by
    intro z x hz
    cases x with
    | none => exact hz
    | some bar =>
      dsimp only
      rw [hz.passBars]
      exact hz
  unfold State.performColl State.performBar
  dsimp only
  rw [wide_blockRelease]
  exact hpass _ _ (harr _)

theorem wide_exec : exec (.collectivePerform (wideCrew m).uid) (wideState m) =
    .next ((wideState m).performColl (wideCrew m) (.bar 0 false) 0) := by
  have hready : (wideCrew m).collReady = some (.bar 0 false, 0) := by
    unfold Crew.collReady
    rw [wideCrew_live]
    dsimp only [wideThread]
    rw [if_pos]
    · rfl
    · rw [List.all_eq_true]
      intro u hu
      obtain ⟨i, -, rfl⟩ := List.mem_map.mp hu
      rfl
  show execCollectivePerform 0 (wideState m) = _
  unfold execCollectivePerform
  rw [show (wideState m).crew 0 = some (wideCrew m) from rfl]
  dsimp only
  rw [hready]

end

/-- Refutes O37: a filing opens at most 130 bins of 32 lanes, so that of a crew of more lanes than that, which no launch
has, some stay where they are when bar.arr is performed. -/
theorem not_binsAndCollectives : ¬ Obligations.BinsAndCollectives := by
  unfold Obligations.BinsAndCollectives
  rintro ⟨-, -, -, -, -, -, -, -, -, -, -, h⟩
  obtain ⟨m, hm⟩ : ∃ m, 32 * 130 ≤ m := ⟨_, Nat.le_refl _⟩
  obtain ⟨t, c', hexec, hcrew, hthreads⟩ := h (wideState m) (wideCrew m) 0 false 0 ⟨2, 0, 0⟩ wide_waits rfl (fun _ hx => nomatch hx) rfl
  have hv : (wideCrew m).thread m = some (wideThread m) := by
    refine find_only (List.mem_map_of_mem (by simp)) (by simp [wideThread, Thread.init]) fun t ht hp => ?_
    obtain ⟨i, rfl⟩ := mem_wideCrew ht
    rw [show i = m from beq_iff_eq.mp hp]
  obtain ⟨v', hv', -, -, hpc⟩ := hthreads m _ hv rfl fun x hx hl => by
    obtain ⟨i, rfl⟩ := mem_wideCrew hx
    rw [show i = m from hl]
  rw [wide_exec] at hexec
  have hrest := wide_performed hm
  rw [Host.Outcome.next.inj hexec] at hrest
  have hlane : v'.lane = m := by
    have := List.find?_some hv'
    simpa using this
  have hpc0 : v'.pc = 0 := (hrest.1 c' (List.mem_of_find?_eq_some hcrew) v' (List.mem_of_find?_eq_some hv')).2 hlane
  rw [if_neg (by simp)] at hpc
  exact absurd (hpc0.symm.trans hpc.1) (by decide)

end Sys2Proof.Machine
end


section
/-! # Ends of blocks, boundaries, pre-emption and resume -/

namespace Sys2Proof.Machine

/-- The last EXIT of a block of a running launch ends once its commands are complete and its crews have ended (R49). -/
theorem lastExit_ends {s : State} {u : BUnit} (hu : s.unit u.uid = some u) (hlast : u.lastExit = true) (hv : u.victim = 0)
    (hrun : (s.launch u.world u.launch).map (·.state) = some .running) (he : ∀ e ∈ s.entries, e.unit ≠ u.uid)
    (hm : ∀ m ∈ s.mcmds, m.unit ≠ u.uid)
    (hc : ∀ c ∈ s.crews, c.unit = u.uid → c.drip = none ∧ c.asyncQ = [] ∧ ∀ t ∈ c.threads, t.live = false) :
    exec (.lastExitRelease u.uid) s =
      .next ((((s.crewsOf u.uid).foldl (fun s c => s.removeCrew c.uid) s).dropUnit u).unitFinished u.world u.launch) := by
  have hbusy : (s.entries.any (·.unit == u.uid) || s.mcmds.any (·.unit == u.uid)) = false := by
    rw [Bool.or_eq_false_iff, List.any_eq_false, List.any_eq_false]
    exact ⟨fun e h => by simpa using he e h, fun m h => by simpa using hm m h⟩
  have hcrews : ((s.crewsOf u.uid).any fun c => c.threads.any (·.live) || !c.asyncQ.isEmpty) = false := by
    rw [List.any_eq_false]
    intro c h
    obtain ⟨hmem, hof⟩ := List.mem_filter.mp h
    simp only [Bool.and_eq_true, beq_iff_eq] at hof
    obtain ⟨-, hq, ht⟩ := hc c hmem hof.1
    have : c.threads.any (·.live) = false := List.any_eq_false.mpr fun t h => by simp [ht t h]
    simp [this, hq]
  have hdrips : (s.crews.any fun c => c.unit == u.uid && c.drip.isSome) = false := by
    rw [List.any_eq_false]
    intro c h
    by_cases hof : c.unit = u.uid
    · simp [(hc c h hof).1]
    · simp [hof]
  rw [show exec (.lastExitRelease u.uid) s = execLastExitRelease u.uid s from rfl]
  unfold execLastExitRelease State.releaseLast
  rw [hu]
  simp only [hlast, hv, hrun, hbusy, hcrews, hdrips, Bool.true_and, bne_self_eq_false, Bool.false_and, Bool.or_self, Bool.false_eq_true,
    if_true, if_false]

/-- An asynchronous trap enters where no live thread is in a trap (R309). -/
theorem async_enters {s : State} {c : Crew} {a : Async} (hc : s.crew c.uid = some c) (hl : ∃ t ∈ c.threads, t.live = true)
    (ht : ∀ t ∈ c.threads, t.live = true → t.inTrap = false ∧ t.entering = none) (ha : s.nextAsync c = some a) :
    exec (.asyncTrapEntry c.uid) s = .next (s.deliver c a) := by
  have hin : (c.threads.any fun t => t.live && (t.inTrap || t.entering.isSome)) = false := by
    rw [List.any_eq_false]
    intro t h
    by_cases hlive : t.live = true
    · simp [ht t h hlive]
    · simp [hlive]
  have hlive : c.threads.any (·.live) = true := List.any_eq_true.mpr hl
  rw [show exec (.asyncTrapEntry c.uid) s = execAsyncTrapEntry c.uid s from rfl]
  unfold execAsyncTrapEntry
  rw [hc]
  simp only [hin, hlive, ha, Bool.not_true, Bool.false_and, Bool.false_eq_true, if_false]

/-- PREEMPT is asked of the set of a block that may be a victim (R314, R344). -/
theorem preempt_asked {s : State} {u : BUnit} {r l : List BUnit} {reason grace : Nat}
    (hp : s.perLaunch (s.units.filter fun x => u.uid = x.uid ∧ x.mayVictim) = [u :: r]) (hl : l = u :: r)
    (hres : s.resumingIn l = false) (hslots : (s.crewsOfSet l).length ≤ s.slotsLeft u.world) :
    exec (.preemptRequest [u.uid] reason grace) s = .next (s.requestSet l reason grace) := by
  subst hl
  have hnamed : (s.units.filter fun x => [u.uid].contains x.uid && x.mayVictim) =
      s.units.filter fun x => u.uid = x.uid ∧ x.mayVictim := by
    refine List.filter_congr fun x _ => ?_
    rw [Bool.decide_and, List.contains_cons, List.contains_nil, Bool.or_false, Bool.decide_eq_true]
    congr 1
    rw [Bool.eq_iff_iff, beq_iff_eq, decide_eq_true_iff]
    exact eq_comm
  rw [show exec (.preemptRequest [u.uid] reason grace) s = execPreemptRequest [u.uid] reason grace s from rfl]
  unfold execPreemptRequest
  rw [hnamed]
  dsimp only
  rw [hp]
  simp only [List.foldl_cons, List.foldl_nil, hres, Bool.false_eq_true, if_false, Nat.not_lt.mpr hslots]

/-- A crew that is in a trap at the end of its grace, or that PREEMPT has not reached, has its launch cancelled (R314). -/
theorem grace_expires {s : State} {c : Crew} (hc : s.crew c.uid = some c) (hr : c.course = .requested) :
    exec (.preemptGraceExpiry c.uid) s = .next
      (if (∃ t ∈ c.threads, t.live = true ∧ t.inTrap = true) ∨ ∀ a ∈ c.asyncQ, a.trap.cause ≠ .preempt then
        s.cancelLaunch c.world c.launch else s.arm (.preemptGraceExpiry c.uid)) := by
  have hcond : ((c.threads.any fun t => t.live && t.inTrap) || !(c.asyncQ.any fun a => a.trap.cause == .preempt)) =
      decide ((∃ t ∈ c.threads, t.live = true ∧ t.inTrap = true) ∨ ∀ a ∈ c.asyncQ, a.trap.cause ≠ .preempt) := by
    rw [Bool.eq_iff_iff, decide_eq_true_iff]
    simp
  rw [show exec (.preemptGraceExpiry c.uid) s = execPreemptGraceExpiry c.uid s from rfl]
  unfold execPreemptGraceExpiry
  rw [hc]
  simp only [hr, hcond, bne_self_eq_false, Bool.false_eq_true, if_false, decide_eq_true_eq]
  split <;> rfl

/-- A crew that has not left its save routine at its deadline has its launch cancelled (R344). -/
theorem deadline_expires {s : State} {c : Crew} (hc : s.crew c.uid = some c) : exec (.saveDeadlineExpiry c.uid) s =
    .next (if c.course = .saving ∧ ∃ t ∈ c.threads, t.live = true then s.cancelLaunch c.world c.launch else s) := by
  have hcond : (c.course == .saving && c.threads.any (·.live)) = decide (c.course = .saving ∧ ∃ t ∈ c.threads, t.live = true) := by
    rw [Bool.eq_iff_iff, decide_eq_true_iff]
    simp
  rw [show exec (.saveDeadlineExpiry c.uid) s = execSaveDeadlineExpiry c.uid s from rfl]
  unfold execSaveDeadlineExpiry
  rw [hc]
  simp only [hcond, decide_eq_true_eq]
  split <;> rfl

/-- The engine section of an image is written into its slot (R320). -/
theorem ctxop_saves {s : State} {c d : Crew} {u : BUnit} {w : World} {s1 : State} (hc : s.crew c.uid = some c)
    (hu : s.unit c.unit = some u) (hw : s.world c.world = some w)
    (hall : c.course = .saving → s.isLowest c = true → ∀ x ∈ s.crewsOf c.unit, x.course = .saving)
    (hd : (s.performStores (·.crew == c.uid)).crew c.uid = some d)
    (hrest : ∀ n, w.slotRest c.ctximg.toNat = some n →
      engineOff d.nregs + (sectionOf ((s.performStores (·.crew == c.uid)).engineSection d u)).length ≤ n)
    (hwrite : (s.performStores (·.crew == c.uid)).devWrite d.world (c.ctximg.toNat + engineOff d.nregs)
      (sectionOf ((s.performStores (·.crew == c.uid)).engineSection d u)) = (s1, true)) :
    exec (.ctxopSave c.uid) s = .next (((if d.course = .saving ∧ s1.isLowest d = true then s1.recordEntries d.unit else s1).dropReplied
      d.world c.uid).ctxopDone c.uid 0) := by
  have hwait : (c.course == .saving && s.isLowest c && !((s.crewsOf c.unit).all fun x => x.course == .saving)) = false := by
    by_cases h1 : c.course = .saving
    · by_cases h2 : s.isLowest c = true
      · have : ((s.crewsOf c.unit).all fun x => x.course == .saving) = true :=
          List.all_eq_true.mpr fun x hx => by simp [hall h1 h2 x hx]
        simp [this]
      · simp [h2]
    · simp [h1]
  rw [show exec (.ctxopSave c.uid) s = execCtxopSave c.uid s from rfl]
  unfold execCtxopSave
  rw [hc]
  simp only [hu, hw, hwait, Bool.false_eq_true, if_false, hd, Option.getD_some]
  cases hn : w.slotRest c.ctximg.toNat with
  | none => simp only [hwrite, Bool.and_eq_true, beq_iff_eq, Bool.false_eq_true, if_false]
  | some n => simp only [hwrite, Bool.and_eq_true, beq_iff_eq, decide_eq_true_eq, Nat.not_lt.mpr (hrest n hn), if_false]

/-- A valid image is applied: the segment first, then the block, then the crew (R324). -/
theorem ctxop_restores {s : State} {c : Crew} {im : Img} (hc : s.crew c.uid = some c) (hlow : s.isLowest c = true)
    (him : s.imgStatus c.world c.ctximg.toNat = .ok im) :
    exec (.ctxopRestore c.uid) s = .next ((((((im.bodies 4).foldl (fun s b => s.restoreSysc c b)
      (((im.bodies 9).foldl (fun s b => s.restorePriv c.uid b) (s.touchImg c.world c.ctximg.toNat)).restoreBlock c im)).dropGroups
        fun g => g.crew == c.uid && g.core / 64 != c.core / 64).restoreTimes c).ctxopDone c.uid 0)) := by
  rw [show exec (.ctxopRestore c.uid) s = execCtxopRestore c.uid s from rfl]
  unfold execCtxopRestore
  rw [hc]
  simp only [hlow, him, Bool.not_true, Bool.false_and, Bool.false_eq_true, if_false, if_true]

/-- Settles O38: one lemma for each of the events. -/
theorem exitsAndPreemption : Obligations.ExitsAndPreemption := by
  refine ⟨fun s u hu hlast hv hrun he hm hc => lastExit_ends hu hlast hv hrun he hm hc, ?_, ?_,
    fun s c a hc hl ht ha => async_enters hc hl ht ha, fun s u r l reason grace hp hl hres hslots => preempt_asked hp hl hres hslots,
    fun s c hc hr => grace_expires hc hr, ?_, ?_,
    fun s c d u w s1 hc hu hw hall hd hrest hwrite => ctxop_saves hc hu hw hall hd hrest hwrite,
    fun s c im hc hlow him => ctxop_restores hc hlow him, ?_⟩
  · intro s l w h hl
    show execKernelBoundary w h s = _
    unfold execKernelBoundary
    simp only [hl]
  · intro s g w h hl hg
    show execKernelBoundary w h s = _
    unfold execKernelBoundary
    simp only [hl, hg]
  · intro s c t hc hs ht hlive
    rw [deadline_expires hc, if_pos ⟨hs, t, ht, hlive⟩]
  · intro s c hc h
    rw [deadline_expires hc, if_neg]
    rintro ⟨hs, t, ht, hlive⟩
    exact h.elim (fun h => h hs) fun h => absurd (h t ht) (by simp [hlive])
  · intro s l t hl ht
    show execResumeStart l.order s = _
    unfold execResumeStart
    rw [hl]
    simp only [ht]

end Sys2Proof.Machine
end


section
/-! # Replies to system calls and the allocator -/

namespace Sys2Proof.Machine

/-- A reply that names an unanswered request reaches the crew that asked (R327). -/
theorem reply_named {s : State} {w : World} {r : SyscReq} {wn : Nat} {reqid : Word} (status : Word) (lanes values : List Nat)
    (hw : s.world wn = some w) (hr : w.requests.find? (fun r => r.reqid == reqid && r.reply.isNone) = some r) :
    s.reply wn reqid status lanes values = s.giveReply wn r status lanes values := by
  unfold State.reply
  rw [hw]
  simp only [hr]

/-- A reply that names no request counts in SYSCERR and interrupts (R338). -/
theorem reply_unnamed {s : State} {w : World} {wn : Nat} {reqid : Word} (status : Word) (lanes values : List Nat)
    (hw : s.world wn = some w) (hr : w.requests.find? (fun r => r.reqid == reqid && r.reply.isNone) = none) :
    s.reply wn reqid status lanes values = (s.onWorld wn fun w => { w with ctl := { w.ctl with
      syscerr := w.ctl.syscerr + 1 } }).interrupt wn 4 0 [reqid.toNat, (w.ctl.syscerr + 1).toNat] := by
  unfold State.reply
  rw [hw]
  simp only [hr]

/-- A crew that neither saves nor resumes takes the reply at once, as an acquire of the device. -/
theorem giveReply_present {s : State} {c : Crew} {r : SyscReq} (wn : Nat) (status : Word) (lanes values : List Nat)
    (hc : s.crew r.crew = some c) (hs : c.course ≠ .saving) (hr : c.course ≠ .resuming) :
    s.giveReply wn r status lanes values = State.dropRequests
      (((s.onCrew r.crew fun c => ({ c with threads := c.threads.map (Thread.reply r.reqid status lanes values) }).regroup).acquired
        r.crew scopeDevice).syncOp r.crew) wn fun x => x.reqid == r.reqid := by
  unfold State.giveReply
  rw [hc]
  dsimp only
  split
  · next h => exact absurd h hs
  · next h => exact absurd h hr
  · rfl

/-- x3:x2 as one 64-bit value: the lane's value, or all ones (R327). -/
theorem replyFor_value (status : Word) (lanes values : List Nat) (lane : Nat) : replyFor status lanes values lane =
    (lo32 (if status = 0 ∧ lane ∈ lanes then BitVec.ofNat 64 (values.getD (lanes.idxOf lane) 0) else -1),
      hi32 (if status = 0 ∧ lane ∈ lanes then BitVec.ofNat 64 (values.getD (lanes.idxOf lane) 0) else -1)) := by
  unfold replyFor
  by_cases h : status = 0 ∧ lane ∈ lanes
  · simp [h]
  · rw [if_neg h, if_neg (by simpa using h)]
    rfl

/-- A thread that waits for the request takes the reply in x2 and x3 and goes on. -/
theorem reply_waiting {t : Thread} {reqid next : Word} (status : Word) (lanes values : List Nat)
    (ht : t.st = .blocked (.sysc reqid) next) : t.reply reqid status lanes values =
      (((t.putX 2 (replyFor status lanes values t.lane).1).putX 3 (replyFor status lanes values t.lane).2).resumeAt next) := by
  unfold Thread.reply
  rw [ht]
  exact if_pos rfl

/-- A request of the allocator with no earlier one of its crew is served lane by lane, and answered with status 0 (R328). -/
theorem serve_first {s : State} {w : World} {r : SyscReq} {wn : Nat} {reqid : Word} (again : Event)
    (f : State → SyscReq → List Word → State × Nat) (hw : s.world wn = some w)
    (hr : w.requests.find? (fun r => r.reqid == reqid && r.reply.isNone) = some r)
    (hfirst : ∀ x ∈ w.requests.takeWhile (fun x => x.reqid != reqid), x.crew = r.crew → x.reply = none →
      x.service ≠ 1 ∧ x.service ≠ 2) :
    s.serve wn reqid again f =
      ((r.args.foldl (fun (p : State × List Nat) a => ((f p.1 r a).1, p.2 ++ [(f p.1 r a).2])) (s, [])).1).reply wn reqid 0 r.lanes
        (r.args.foldl (fun (p : State × List Nat) a => ((f p.1 r a).1, p.2 ++ [(f p.1 r a).2])) (s, [])).2 := by
  have hnone : ((w.requests.takeWhile fun x => x.reqid != reqid).any fun x =>
      x.crew == r.crew && x.reply.isNone && (x.service == 1 || x.service == 2)) = false := by
    rw [List.any_eq_false]
    intro x hx
    have := hfirst x hx
    simp only [Bool.and_eq_true, beq_iff_eq, Option.isNone_iff_eq_none, Bool.or_eq_true]
    rintro ⟨⟨hcrew, hreply⟩, hserv⟩
    exact hserv.elim (this hcrew hreply).1 (this hcrew hreply).2
  unfold State.serve
  rw [hw]
  dsimp only
  rw [hr]
  simp only [hnone, Bool.false_eq_true, if_false]

/-- A size that no block holds, or a class above 2, is answered 0 (R328). -/
theorem allocLane_refused {s : State} {args : List Word} (wn core : Nat)
    (h : (args.getD 2 0).toNat > 2 ∨ allocLog ((args.getD 0 0).toNat + 2 ^ 32 * (args.getD 1 0).toNat) = none) :
    s.allocLane wn core args = (s, 0) := by
  unfold State.allocLane
  dsimp only
  split
  · next k w hk hw =>
    rw [if_pos (h.resolve_right (by simp only [hk, reduceCtorEq, not_false_eq_true]))]
  · rfl

/-- Settles O39: one lemma for each of the rules. -/
theorem systemCallReplies : Obligations.SystemCallReplies := by
  refine ⟨?_, ?_, ?_, ?_, ?_, fun s wn core args h => allocLane_refused wn core h⟩
  · intro s w r c wn reqid status lanes values hw hr hc hs hres
    exact congrArg Host.Outcome.next ((reply_named status lanes values hw hr).trans (giveReply_present wn status lanes values hc hs hres))
  · intro s w wn p hw hp
    unfold State.dropRequests
    rw [hw]
    exact if_pos hp
  · intro t reqid status lanes values next ht
    rw [reply_waiting status lanes values ht, replyFor_value]
  · intro s w wn reqid status lanes values hw hr
    exact congrArg Host.Outcome.next (reply_unnamed status lanes values hw hr)
  · intro s w r wn reqid hw hr hfirst
    exact ⟨congrArg Host.Outcome.next (serve_first _ _ hw hr hfirst), congrArg Host.Outcome.next (serve_first _ _ hw hr hfirst)⟩

end Sys2Proof.Machine
end


section
/-! # Quarters, accumulator rows and the performance of matrix commands -/

namespace Sys2Proof.Machine

/-! ## Quarters of a state -/

/-- A quarter that is changed in a canonical table reads as changed. -/
theorem quarter_onQuarter_self {s : State} (q : Nat) (f : Quarter → Quarter)
    (h : tabWf (fun _ => Quarter.init) s.quarters = true) : (s.onQuarter q f).quarter q = f (s.quarter q) :=
  tabGet_tabPut_self (dk := fun _ => Quarter.init) h

/-- Every other quarter reads as before. -/
theorem quarter_onQuarter_ne {s : State} {q k : Nat} (f : Quarter → Quarter) (h : k ≠ q) :
    (s.onQuarter q f).quarter k = s.quarter k :=
  tabGet_tabPut_ne h

theorem onQuarter_quartersWf {s : State} (q : Nat) (f : Quarter → Quarter)
    (h : tabWf (fun _ => Quarter.init) s.quarters = true) : tabWf (fun _ => Quarter.init) (s.onQuarter q f).quarters = true :=
  tabPut_wf (dk := fun _ => Quarter.init) h

/-- A change of each of the `n` quarters from `q0` on, one after another. -/
def State.onSpan (s : State) (q0 n : Nat) (f : Nat → Quarter → Quarter) : State :=
  (List.range n).foldl (fun s j => s.onQuarter (q0 + j) (f j)) s

theorem onSpan_succ (s : State) (q0 n : Nat) (f : Nat → Quarter → Quarter) :
    s.onSpan q0 (n + 1) f = (s.onSpan q0 n f).onQuarter (q0 + n) (f n) := by
  unfold State.onSpan
  rw [List.range_succ, List.foldl_append]
  rfl

theorem onSpan_units (s : State) (q0 n : Nat) (f : Nat → Quarter → Quarter) : (s.onSpan q0 n f).units = s.units := by
  induction n with
  | zero => rfl
  | succ n ih => rw [onSpan_succ]; exact ih

theorem onSpan_quartersWf {s : State} (q0 n : Nat) (f : Nat → Quarter → Quarter)
    (h : tabWf (fun _ => Quarter.init) s.quarters = true) :
    tabWf (fun _ => Quarter.init) (s.onSpan q0 n f).quarters = true := by
  induction n with
  | zero => exact h
  | succ n ih => rw [onSpan_succ]; exact onQuarter_quartersWf _ _ ih

/-- Each quarter of the span is changed once, by its own function. -/
theorem quarter_onSpan {s : State} (q0 n : Nat) (f : Nat → Quarter → Quarter)
    (h : tabWf (fun _ => Quarter.init) s.quarters = true) (j : Nat) :
    (s.onSpan q0 n f).quarter (q0 + j) = if j < n then f j (s.quarter (q0 + j)) else s.quarter (q0 + j) := by
  induction n with
  | zero => rfl
  | succ n ih =>
    rw [onSpan_succ]
    by_cases hj : j = n
    · subst hj
      rw [quarter_onQuarter_self _ _ (onSpan_quartersWf _ _ _ h), ih, if_neg (Nat.lt_irrefl j), if_pos (Nat.lt_succ_self j)]
    · rw [quarter_onQuarter_ne _ (by omega), ih]
      simp only [show j < n + 1 ↔ j < n by omega]

/-! ## Rows of a quarter -/

/-- The accumulator and the row status of a quarter are canonical tables. -/
def Quarter.Canonical (q : Quarter) : Prop :=
  tabWf (fun _ => (0 : Word)) q.acc = true ∧ tabWf (fun _ => (0 : Word)) q.rowst = true

theorem Quarter.Canonical.putAcc {q : Quarter} (h : q.Canonical) (row col : Nat) (v : Word) : (q.putAcc row col v).Canonical :=
  ⟨tabPut_wf (dk := fun _ => (0 : Word)) h.1, h.2⟩

theorem Quarter.Canonical.flagRow {q : Quarter} (h : q.Canonical) (row : Nat) (f : Flags) : (q.flagRow row f).Canonical :=
  ⟨h.1, tabPut_wf (dk := fun _ => (0 : Word)) h.2⟩

theorem Quarter.Canonical.clearRow {q : Quarter} (h : q.Canonical) (row : Nat) : (q.clearRow row).Canonical :=
  ⟨tabWfFrom_filter _ h.1, tabPut_wf (dk := fun _ => (0 : Word)) h.2⟩

theorem Quarter.Canonical.clearStatus {q : Quarter} (h : q.Canonical) (row : Nat) :
    Quarter.Canonical { q with rowst := tabPut q.rowst 0 row 0 } :=
  ⟨h.1, tabPut_wf (dk := fun _ => (0 : Word)) h.2⟩

/-- A status table reads at every row what it held, but for the row just written. -/
theorem status_tabPut {t : Tab Word} (h : tabWf (fun _ => (0 : Word)) t = true) (row r : Nat) (v : Word) :
    tabGet (tabPut t 0 row v) 0 r = if r = row then v else tabGet t 0 r := by
  by_cases hr : r = row
  · subst hr
    rw [if_pos rfl]
    exact tabGet_tabPut_self (dk := fun _ => (0 : Word)) h
  · rw [if_neg hr, tabGet_tabPut_ne hr]

/-- A cleared row's elements have left the table. -/
theorem tabGet_filter_none {β : Type} {t : Tab β} {d : β} {k : Nat} {p : Nat × β → Bool} (hp : ∀ v, p (k, v) = false) :
    tabGet (t.filter p) d k = d := by
  induction t with
  | nil => rfl
  | cons e r ih =>
    obtain ⟨j, v⟩ := e
    by_cases he : p (j, v) = true
    · have hj : k ≠ j := by
        rintro rfl
        rw [hp v] at he
        cases he
      simp [he, tabGet, hj, ih]
    · simp [he, ih]

theorem clearRow_acc (q : Quarter) (row r : Nat) {n : Nat} (hn : n < 64) :
    tabGet (q.clearRow row).acc 0 (64 * r + n) = if r = row then 0 else tabGet q.acc 0 (64 * r + n) := by
  have hdiv : (64 * r + n) / 64 = r := by omega
  unfold Quarter.clearRow
  by_cases hr : r = row
  · rw [if_pos hr]
    exact tabGet_filter_none fun v => by simp [hdiv, ← hr]
  · rw [if_neg hr]
    exact tabGet_filter fun v => by simp [hdiv, hr]

theorem clearRow_status {q : Quarter} (h : tabWf (fun _ => (0 : Word)) q.rowst = true) (row r : Nat) :
    tabGet (q.clearRow row).rowst 0 r = if r = row then 0 else tabGet q.rowst 0 r :=
  status_tabPut h row r 0

/-- A cleared row reads +0, and every other row as before. -/
theorem clearRow_accAt {q : Quarter} (h : tabWf (fun _ => (0 : Word)) q.rowst = true) (row r : Nat) {n : Nat} (hn : n < 64) :
    (q.clearRow row).accAt r n = if r = row then 0 else q.accAt r n := by
  unfold Quarter.accAt
  rw [clearRow_status h, clearRow_acc q row r hn]
  by_cases hr : r = row
  · simp [hr]
  · simp [hr]

theorem flagRow_status {q : Quarter} (h : q.Canonical) (row r : Nat) (f : Flags) :
    tabGet (q.flagRow row f).rowst 0 r = if r = row then tabGet q.rowst 0 row ||| f.setWidth 32 else tabGet q.rowst 0 r :=
  status_tabPut h.2 row r _

theorem putAcc_acc {q : Quarter} (h : q.Canonical) {row col r n : Nat} (v : Word) (hc : col < 64) (hn : n < 64) :
    tabGet (q.putAcc row col v).acc 0 (64 * r + n) = if r = row ∧ n = col then v else tabGet q.acc 0 (64 * r + n) := by
  refine (status_tabPut h.1 (64 * row + col) (64 * r + n) v).trans ?_
  simp only [show 64 * r + n = 64 * row + col ↔ r = row ∧ n = col by omega]

theorem orFlags_succ (n : Nat) (f : Nat → Flags) :
    orFlags ((List.range (n + 1)).map f) = orFlags ((List.range n).map f) ||| f n := by
  unfold orFlags
  rw [List.range_succ, List.map_append, List.foldl_append]
  rfl

/-! ## One row of an mma -/

/-- The first `n` elements of a row written with their flags. -/
def Quarter.putRow (q : Quarter) (row n : Nat) (e : Nat → Word × Flags) : Quarter :=
  (List.range n).foldl (fun (q : Quarter) i => (q.putAcc row i (e i).1).flagRow row (e i).2) q

theorem putRow_succ (q : Quarter) (row n : Nat) (e : Nat → Word × Flags) :
    q.putRow row (n + 1) e = ((q.putRow row n e).putAcc row n (e n).1).flagRow row (e n).2 := by
  unfold Quarter.putRow
  rw [List.range_succ, List.foldl_append]
  rfl

theorem putRow_activeD (q : Quarter) (row n : Nat) (e : Nat → Word × Flags) : (q.putRow row n e).activeD = q.activeD := by
  induction n with
  | zero => rfl
  | succ n ih => rw [putRow_succ]; exact ih

theorem Quarter.Canonical.putRow {q : Quarter} (h : q.Canonical) (row n : Nat) (e : Nat → Word × Flags) :
    (q.putRow row n e).Canonical := by
  induction n with
  | zero => exact h
  | succ n ih => rw [putRow_succ]; exact (ih.putAcc ..).flagRow ..

theorem putRow_acc {q : Quarter} (h : q.Canonical) (row r : Nat) {n k : Nat} (e : Nat → Word × Flags) (hn : n ≤ 64) (hk : k < 64) :
    tabGet (q.putRow row n e).acc 0 (64 * r + k) = if r = row ∧ k < n then (e k).1 else tabGet q.acc 0 (64 * r + k) := by
  induction n with
  | zero => simp [Quarter.putRow]
  | succ n ih =>
    rw [putRow_succ]
    refine (putAcc_acc (h.putRow row n e) _ (by omega) hk).trans ?_
    rw [ih (by omega)]
    by_cases hr : r = row
    · by_cases hkn : k = n
      · subst hkn
        simp [hr]
      · simp [hr, hkn, show k < n + 1 ↔ k < n by omega]
    · simp [hr]

theorem putRow_status {q : Quarter} (h : q.Canonical) (row r n : Nat) (e : Nat → Word × Flags) :
    tabGet (q.putRow row n e).rowst 0 r = if r = row then
      tabGet q.rowst 0 row ||| (orFlags ((List.range n).map fun i => (e i).2)).setWidth 32 else tabGet q.rowst 0 r := by
  induction n generalizing r with
  | zero =>
    by_cases hr : r = row
    · simp [Quarter.putRow, orFlags, hr]
    · simp [Quarter.putRow, hr]
  | succ n ih =>
    rw [putRow_succ, flagRow_status ((h.putRow row n e).putAcc ..)]
    show (if r = row then tabGet (q.putRow row n e).rowst 0 row ||| (e n).2.setWidth 32 else tabGet (q.putRow row n e).rowst 0 r) = _
    rw [ih, ih, if_pos rfl, orFlags_succ]
    by_cases hr : r = row
    · simp [hr, BitVec.setWidth_or, BitVec.or_assoc]
    · simp [hr]

/-- A row of an mma: its status cleared first where the command clears, then its elements (R241). -/
theorem mmaRow_eq (q : Quarter) (fa : Nat) (z : Bool) (k cols row : Nat) (data scales : List Byte) :
    q.mmaRow fa z k cols row data scales = (if z then { q with rowst := tabPut q.rowst 0 row 0 } else q).putRow row cols
      fun n => mmaElem fa q.activeD k (if z then 0 else q.accAt row n) data scales n := by
  cases z <;> rfl

theorem mmaRow_activeD (q : Quarter) (fa : Nat) (z : Bool) (k cols row : Nat) (data scales : List Byte) :
    (q.mmaRow fa z k cols row data scales).activeD = q.activeD := by
  rw [mmaRow_eq, putRow_activeD]
  cases z <;> rfl

theorem Quarter.Canonical.mmaRow {q : Quarter} (h : q.Canonical) (fa : Nat) (z : Bool) (k cols row : Nat)
    (data scales : List Byte) : (q.mmaRow fa z k cols row data scales).Canonical := by
  rw [mmaRow_eq]
  cases z
  · exact h.putRow ..
  · exact (h.clearStatus row).putRow ..

theorem mmaRow_acc {q : Quarter} (h : q.Canonical) (fa : Nat) (z : Bool) (k row : Nat) (data scales : List Byte) {cols : Nat}
    (hc : cols ≤ 64) (r : Nat) {n : Nat} (hn : n < 64) :
    tabGet (q.mmaRow fa z k cols row data scales).acc 0 (64 * r + n) = if r = row ∧ n < cols then
      (mmaElem fa q.activeD k (if z then 0 else q.accAt row n) data scales n).1 else tabGet q.acc 0 (64 * r + n) := by
  rw [mmaRow_eq]
  cases z
  · exact putRow_acc h row r _ hc hn
  · exact putRow_acc (h.clearStatus row) row r _ hc hn

theorem mmaRow_status {q : Quarter} (h : q.Canonical) (fa : Nat) (z : Bool) (k cols row : Nat) (data scales : List Byte) (r : Nat) :
    tabGet (q.mmaRow fa z k cols row data scales).rowst 0 r = if r = row then (if z then 0 else tabGet q.rowst 0 row) |||
      (orFlags ((List.range cols).map fun n =>
        (mmaElem fa q.activeD k (if z then 0 else q.accAt row n) data scales n).2)).setWidth 32 else tabGet q.rowst 0 r := by
  rw [mmaRow_eq]
  cases z
  · exact putRow_status h row r cols _
  · refine (putRow_status (h.clearStatus row) row r cols _).trans ?_
    rw [status_tabPut h.2, status_tabPut h.2]
    by_cases hr : r = row <;> simp [hr]

/-! ## All rows of an mma on one quarter -/

/-- The first `n` rows of an mma whose row 0 is row `base` of the quarter; `rows` gives the bytes of each row of A. -/
def Quarter.mmaRows (q : Quarter) (fa : Nat) (z : Bool) (k cols base n : Nat) (rows : Nat → List Byte × List Byte) : Quarter :=
  (List.range n).foldl (fun (q : Quarter) i => q.mmaRow fa z k cols (base + i) (rows i).1 (rows i).2) q

theorem mmaRows_succ (q : Quarter) (fa : Nat) (z : Bool) (k cols base n : Nat) (rows : Nat → List Byte × List Byte) :
    q.mmaRows fa z k cols base (n + 1) rows =
      (q.mmaRows fa z k cols base n rows).mmaRow fa z k cols (base + n) (rows n).1 (rows n).2 := by
  unfold Quarter.mmaRows
  rw [List.range_succ, List.foldl_append]
  rfl

theorem mmaRows_activeD (q : Quarter) (fa : Nat) (z : Bool) (k cols base n : Nat) (rows : Nat → List Byte × List Byte) :
    (q.mmaRows fa z k cols base n rows).activeD = q.activeD := by
  induction n with
  | zero => rfl
  | succ n ih => rw [mmaRows_succ, mmaRow_activeD, ih]

theorem Quarter.Canonical.mmaRows {q : Quarter} (h : q.Canonical) (fa : Nat) (z : Bool) (k cols base n : Nat)
    (rows : Nat → List Byte × List Byte) : (q.mmaRows fa z k cols base n rows).Canonical := by
  induction n with
  | zero => exact h
  | succ n ih => rw [mmaRows_succ]; exact ih.mmaRow ..

/-- The elements and the status of every row after the first `m` rows of an mma: a row of the command has its own elements,
formed from what the row held before the command. -/
theorem mmaRows_rows {q : Quarter} (h : q.Canonical) (fa : Nat) (z : Bool) (k base m : Nat) {cols : Nat} (hc : cols ≤ 64)
    (rows : Nat → List Byte × List Byte) (r : Nat) :
    (∀ n, n < 64 → tabGet (q.mmaRows fa z k cols base m rows).acc 0 (64 * r + n) =
      if (base ≤ r ∧ r < base + m) ∧ n < cols then (mmaElem fa q.activeD k (if z then 0 else q.accAt r n)
        (rows (r - base)).1 (rows (r - base)).2 n).1 else tabGet q.acc 0 (64 * r + n)) ∧
    tabGet (q.mmaRows fa z k cols base m rows).rowst 0 r = if base ≤ r ∧ r < base + m then
      (if z then 0 else tabGet q.rowst 0 r) ||| (orFlags ((List.range cols).map fun n => (mmaElem fa q.activeD k
        (if z then 0 else q.accAt r n) (rows (r - base)).1 (rows (r - base)).2 n).2)).setWidth 32 else tabGet q.rowst 0 r := by
  induction m generalizing r with
  | zero =>
    have hr : ¬(base ≤ r ∧ r < base + 0) := by omega
    simp only [hr, false_and, if_false]
    exact ⟨fun n _ => rfl, rfl⟩
  | succ m ih =>
    have hq := h.mmaRows fa z k cols base m rows
    by_cases hr : r = base + m
    · subst hr
      obtain ⟨ihacc, ihst⟩ := ih (base + m)
      have hout : ¬(base ≤ base + m ∧ base + m < base + m) := by omega
      have hin : base ≤ base + m ∧ base + m < base + (m + 1) := by omega
      simp only [hout, false_and, if_false] at ihacc ihst
      have hold : ∀ n, n < 64 → (q.mmaRows fa z k cols base m rows).accAt (base + m) n = q.accAt (base + m) n := fun n hn => by
        unfold Quarter.accAt
        rw [ihst, ihacc n hn]
      simp only [hin, true_and, and_self, if_true, Nat.add_sub_cancel_left]
      refine ⟨fun n hn => ?_, ?_⟩
      · rw [mmaRows_succ, mmaRow_acc hq fa z k (base + m) _ _ hc (base + m) hn, mmaRows_activeD, hold n hn, ihacc n hn]
        simp
      · rw [mmaRows_succ, mmaRow_status hq, if_pos rfl, mmaRows_activeD, ihst]
        congr 3
        refine List.map_congr_left fun n hn => ?_
        rw [hold n (Nat.lt_of_lt_of_le (List.mem_range.mp hn) hc)]
    · obtain ⟨ihacc, ihst⟩ := ih r
      have hsame : (base ≤ r ∧ r < base + (m + 1)) ↔ (base ≤ r ∧ r < base + m) := by omega
      simp only [hsame]
      refine ⟨fun n hn => ?_, ?_⟩
      · rw [mmaRows_succ, mmaRow_acc hq fa z k (base + m) _ _ hc r hn, if_neg (by omega), ihacc n hn]
      · rw [mmaRows_succ, mmaRow_status hq, if_neg hr, ihst]

/-! ## A whole mma -/

/-- The bytes of row `i` of A, and of its scales (R237). -/
def BUnit.rowA (u : BUnit) (m : MCmd) (i : Nat) : List Byte × List Byte :=
  (u.readSpad (descSW m.w0) (descAddr m.w0 + i * descStride m.w1) (rowData m.shape m.w0),
    if descSC m.w0 then u.readSpad (descSW m.w0) (descAddr m.w0 + i * descStride m.w1 + rowScale m.shape m.w0)
      (ceilDiv (shapeK m.shape) 16) else [])

theorem foldl_zipIdx_range {α β : Type} (g : Nat → α) (f : β → α × Nat → β) (n : Nat) (b : β) :
    (((List.range n).map g).zipIdx).foldl f b = (List.range n).foldl (fun b i => f b (g i, i)) b := by
  induction n with
  | zero => rfl
  | succ n ih => simp [List.range_succ, List.zipIdx_append, ih]

/-- An mma runs on each quarter that it spans, on all its rows (R241). -/
theorem runMma_span {s : State} {m : MCmd} {u : BUnit} (hu : s.unit m.unit = some u) :
    s.runMma m = s.onSpan m.q0 m.nq fun j q => q.mmaRows (descFmt m.w0) m.flag (shapeK m.shape) (colsOf (shapeN m.shape) j)
      (64 * m.tile) (shapeM m.shape) (u.rowA m) := by
  unfold State.runMma
  rw [hu]
  dsimp only
  simp only [foldl_zipIdx_range]
  rfl

theorem colsOf_eq (n j : Nat) : colsOf n j = min 64 (n - 64 * j) := by
  unfold colsOf
  split <;> omega

/-- One element of an mma as R241 words it: an exact integer dot product, or a dot product of two formats with the scales of
the blocks. -/
theorem mmaElem_eq (fa : Nat) (pd : PlaneData) (k : Nat) (old : Word) (row scales : List Byte) (n : Nat) :
    mmaElem fa pd k old row scales n =
      let a := fun i => elemBytes (((arrayFmt fa).getD (8, false)).1) row i
      let b := fun i => (tabGet pd.elems 0 (64 * i + n)).toNat
      let r := match intFmt fa with
        | some (wi, _) => intDot old.toNat ((List.range k).map fun i => intOf wi true (a i) * intOf wi true (b i))
        | none => floatDot ((floatFmt fa).getD fmtF8a) ((floatFmt pd.fmt).getD fmtF8a) old.toNat
            ((List.range k).map fun i => (a i, b i, if pd.sc then
              some ((scales.getD (i / 16) 0).toNat, (tabGet pd.scales 0 (64 * (i / 16) + n)).toNat) else none))
      (BitVec.ofNat 32 r.1, r.2) := by
  unfold mmaElem
  cases intFmt fa <;> rfl

/-! ## A whole mst -/

/-- What an mst leaves of one row of a quarter: its flags, or a cleared row (R247). -/
def Quarter.mstLeave (q : Quarter) (clr : Bool) (row : Nat) (f : Flags) : Quarter :=
  if clr then (q.flagRow row f).clearRow row else q.flagRow row f

theorem Quarter.Canonical.mstLeave {q : Quarter} (h : q.Canonical) (clr : Bool) (row : Nat) (f : Flags) :
    (q.mstLeave clr row f).Canonical := by
  cases clr
  · exact h.flagRow row f
  · exact (h.flagRow row f).clearRow row

theorem mstLeave_acc (q : Quarter) (clr : Bool) (row : Nat) (f : Flags) (r : Nat) {n : Nat} (hn : n < 64) :
    tabGet (q.mstLeave clr row f).acc 0 (64 * r + n) = if r = row ∧ clr = true then 0 else tabGet q.acc 0 (64 * r + n) := by
  cases clr
  · simp [Quarter.mstLeave, Quarter.flagRow]
  · simpa [Quarter.mstLeave, Quarter.flagRow] using clearRow_acc (q.flagRow row f) row r hn

theorem mstLeave_status {q : Quarter} (h : q.Canonical) (clr : Bool) (row : Nat) (f : Flags) (r : Nat) :
    tabGet (q.mstLeave clr row f).rowst 0 r = if r = row then (if clr then 0 else tabGet q.rowst 0 row ||| f.setWidth 32)
      else tabGet q.rowst 0 r := by
  cases clr
  · exact flagRow_status h row r f
  · refine (clearRow_status (h.flagRow row f).2 row r).trans ?_
    rw [flagRow_status h]
    by_cases hr : r = row <;> simp [hr]

theorem foldl_wakeRange_units (uid m : Nat) (l : List Nat) (s : State) :
    (l.foldl (fun s c => s.wakeRange (.spad uid (spadKey m c)) 16) s).units = s.units := by
  induction l generalizing s with
  | nil => rfl
  | cons c r ih => rw [List.foldl_cons, ih]; rfl

theorem foldl_wakeRange_quarters (uid m : Nat) (l : List Nat) (s : State) :
    (l.foldl (fun s c => s.wakeRange (.spad uid (spadKey m c)) 16) s).quarters = s.quarters := by
  induction l generalizing s with
  | nil => rfl
  | cons c r ih => rw [List.foldl_cons, ih]; rfl

theorem spadWrite_units (s : State) (uid m a : Nat) (l : List Byte) :
    (s.spadWrite uid m a l).units = mapIf (·.uid == uid) (fun u => u.putSpad m a l) s.units :=
  foldl_wakeRange_units ..

@[simp] theorem spadWrite_quarters (s : State) (uid m a : Nat) (l : List Byte) : (s.spadWrite uid m a l).quarters = s.quarters :=
  foldl_wakeRange_quarters ..

theorem spadWrite_quarter (s : State) (uid m a : Nat) (l : List Byte) (k : Nat) :
    (s.spadWrite uid m a l).quarter k = s.quarter k := by
  unfold State.quarter
  rw [spadWrite_quarters]

/-- The flags of the elements that one quarter holds of a row of `n` elements. -/
theorem partFlags (n j : Nat) (f : Nat → FR) : ((((List.range n).map f).drop (64 * j)).take 64).map (·.2) =
    (List.range (min 64 (n - 64 * j))).map fun i => (f (64 * j + i)).2 := by
  refine List.ext_getElem (by simp) fun i h1 h2 => ?_
  simp

/-- The first `n` rows of an mst, each written to the scratchpad and then marked on every quarter. -/
def State.mstRows (s : State) (m : MCmd) (n : Nat) : State :=
  (List.range n).foldl (fun s i =>
    (s.spadWrite m.unit (descSW m.w0) (descAddr m.w0 + i * descStride m.w1)
      (packBytes (fmtWidth (convFmt m.w0)) ((s.mstRow m (64 * m.tile + i)).map (·.1)))).onSpan m.q0 m.nq fun j q =>
        q.mstLeave m.flag (64 * m.tile + i) (orFlags ((((s.mstRow m (64 * m.tile + i)).drop (64 * j)).take 64).map (·.2)))) s

theorem runMst_rows (s : State) (m : MCmd) : s.runMst m = s.mstRows m (shapeM m.shape) := rfl

theorem mstRows_succ (s : State) (m : MCmd) (n : Nat) : s.mstRows m (n + 1) =
    ((s.mstRows m n).spadWrite m.unit (descSW m.w0) (descAddr m.w0 + n * descStride m.w1)
      (packBytes (fmtWidth (convFmt m.w0)) (((s.mstRows m n).mstRow m (64 * m.tile + n)).map (·.1)))).onSpan m.q0 m.nq fun j q =>
        q.mstLeave m.flag (64 * m.tile + n)
          (orFlags (((((s.mstRows m n).mstRow m (64 * m.tile + n)).drop (64 * j)).take 64).map (·.2))) := by
  unfold State.mstRows
  rw [List.range_succ, List.foldl_append]
  rfl

theorem mstRows_quartersWf {s : State} (m : MCmd) (n : Nat) (h : tabWf (fun _ => Quarter.init) s.quarters = true) :
    tabWf (fun _ => Quarter.init) (s.mstRows m n).quarters = true := by
  induction n with
  | zero => exact h
  | succ n ih => rw [mstRows_succ]; exact onSpan_quartersWf _ _ _ (by rwa [spadWrite_quarters])

theorem quarter_mstRows_succ {s : State} (m : MCmd) (n : Nat) (h : tabWf (fun _ => Quarter.init) s.quarters = true) (j : Nat) :
    (s.mstRows m (n + 1)).quarter (m.q0 + j) = if j < m.nq then ((s.mstRows m n).quarter (m.q0 + j)).mstLeave m.flag
      (64 * m.tile + n) (orFlags (((((s.mstRows m n).mstRow m (64 * m.tile + n)).drop (64 * j)).take 64).map (·.2)))
      else (s.mstRows m n).quarter (m.q0 + j) := by
  rw [mstRows_succ, quarter_onSpan _ _ _ (by rw [spadWrite_quarters]; exact mstRows_quartersWf m n h), spadWrite_quarter]

theorem mstRows_canonical {s : State} (m : MCmd) (n : Nat) (h : tabWf (fun _ => Quarter.init) s.quarters = true)
    (hq : ∀ k, (s.quarter k).Canonical) (j : Nat) : ((s.mstRows m n).quarter (m.q0 + j)).Canonical := by
  induction n with
  | zero => exact hq _
  | succ n ih =>
    rw [quarter_mstRows_succ m n h]
    split
    · exact ih.mstLeave ..
    · exact ih

/-- The converted element of a row and a column of the tile (R247). -/
def State.mstConv (s : State) (m : MCmd) (r c : Nat) : FR :=
  accConvert (convInt m.w0) (fieldN m.w1.toNat 16 8) (convFmt m.w0) (convRnd m.w0)
    ((s.quarter (m.q0 + c / 64)).accAt (64 * m.tile + r) (c % 64))

/-- Row `n` of the tile, after the rows before it, still holds what it held before the command. -/
theorem mstRow_of_kept {s z : State} (m : MCmd) (n : Nat)
    (h : ∀ j, (∀ c, c < 64 → tabGet (z.quarter (m.q0 + j)).acc 0 (64 * (64 * m.tile + n) + c) =
        tabGet (s.quarter (m.q0 + j)).acc 0 (64 * (64 * m.tile + n) + c)) ∧
      tabGet (z.quarter (m.q0 + j)).rowst 0 (64 * m.tile + n) = tabGet (s.quarter (m.q0 + j)).rowst 0 (64 * m.tile + n)) :
    z.mstRow m (64 * m.tile + n) = (List.range (shapeN m.shape)).map (s.mstConv m n) := by
  unfold State.mstRow
  refine List.map_congr_left fun c _ => ?_
  obtain ⟨hacc, hst⟩ := h (c / 64)
  unfold State.mstConv Quarter.accAt
  rw [hst, hacc _ (Nat.mod_lt _ (by decide))]

/-- The elements and the status of every row of every quarter after the first `n` rows of an mst, whose values are those that
stood there before the command. -/
theorem mstRows_row {s : State} (m : MCmd) (n : Nat) (h : tabWf (fun _ => Quarter.init) s.quarters = true)
    (hq : ∀ k, (s.quarter k).Canonical) (j r : Nat) :
    (∀ c, c < 64 → tabGet ((s.mstRows m n).quarter (m.q0 + j)).acc 0 (64 * r + c) =
      if (j < m.nq ∧ 64 * m.tile ≤ r ∧ r < 64 * m.tile + n) ∧ m.flag = true then 0
      else tabGet (s.quarter (m.q0 + j)).acc 0 (64 * r + c)) ∧
    tabGet ((s.mstRows m n).quarter (m.q0 + j)).rowst 0 r = if j < m.nq ∧ 64 * m.tile ≤ r ∧ r < 64 * m.tile + n then
      (if m.flag then 0 else tabGet (s.quarter (m.q0 + j)).rowst 0 r ||| (orFlags ((List.range (min 64 (shapeN m.shape - 64 * j))).map
        fun i => (s.mstConv m (r - 64 * m.tile) (64 * j + i)).2)).setWidth 32)
      else tabGet (s.quarter (m.q0 + j)).rowst 0 r := by
  induction n generalizing j r with
  | zero =>
    have hr : ¬(j < m.nq ∧ 64 * m.tile ≤ r ∧ r < 64 * m.tile + 0) := by omega
    simp only [hr, false_and, if_false]
    exact ⟨fun c _ => rfl, rfl⟩
  | succ n ih =>
    have hcan := mstRows_canonical m n h hq j
    have hvals : (s.mstRows m n).mstRow m (64 * m.tile + n) = (List.range (shapeN m.shape)).map (s.mstConv m n) :=
      mstRow_of_kept m n fun i => by simpa using ih i (64 * m.tile + n)
    rw [quarter_mstRows_succ m n h, hvals, partFlags]
    obtain ⟨ihacc, ihst⟩ := ih j r
    by_cases hj : j < m.nq
    · simp only [hj, if_true, true_and] at ihacc ihst ⊢
      by_cases hr : r = 64 * m.tile + n
      · subst hr
        have hout : ¬(64 * m.tile ≤ 64 * m.tile + n ∧ 64 * m.tile + n < 64 * m.tile + n) := by omega
        have hin : 64 * m.tile ≤ 64 * m.tile + n ∧ 64 * m.tile + n < 64 * m.tile + (n + 1) := by omega
        simp only [hout, false_and, if_false] at ihacc ihst
        simp only [hin, and_self, true_and, if_true, Nat.add_sub_cancel_left]
        refine ⟨fun c hc => ?_, ?_⟩
        · rw [mstLeave_acc _ _ _ _ _ hc, ihacc c hc]
          simp
        · rw [mstLeave_status hcan, if_pos rfl, ihst]
      · have hsame : (64 * m.tile ≤ r ∧ r < 64 * m.tile + (n + 1)) ↔ (64 * m.tile ≤ r ∧ r < 64 * m.tile + n) := by omega
        simp only [hsame]
        refine ⟨fun c hc => ?_, ?_⟩
        · rw [mstLeave_acc _ _ _ _ _ hc, if_neg (fun h => hr h.1), ihacc c hc]
        · rw [mstLeave_status hcan, if_neg hr, ihst]
    · simp only [hj, if_false, false_and] at ihacc ihst ⊢
      exact ⟨ihacc, ihst⟩

theorem mstRow_mstRows {s : State} (m : MCmd) (n : Nat) (h : tabWf (fun _ => Quarter.init) s.quarters = true)
    (hq : ∀ k, (s.quarter k).Canonical) :
    (s.mstRows m n).mstRow m (64 * m.tile + n) = (List.range (shapeN m.shape)).map (s.mstConv m n) :=
  mstRow_of_kept m n fun i => by simpa using mstRows_row m n h hq i (64 * m.tile + n)

/-- The scratchpad of every block after the first `n` rows of an mst: the rows written one after another. -/
theorem mstRows_units {s : State} (m : MCmd) (n : Nat) (h : tabWf (fun _ => Quarter.init) s.quarters = true)
    (hq : ∀ k, (s.quarter k).Canonical) :
    (s.mstRows m n).units = ((List.range n).foldl (fun z r => z.spadWrite m.unit (descSW m.w0) (descAddr m.w0 + r * descStride m.w1)
      (packBytes (fmtWidth (convFmt m.w0)) ((List.range (shapeN m.shape)).map fun c => (s.mstConv m r c).1))) s).units := by
  induction n with
  | zero => rfl
  | succ n ih =>
    rw [mstRows_succ, onSpan_units, spadWrite_units, ih, mstRow_mstRows m n h hq, List.range_succ, List.foldl_append,
      List.foldl_cons, List.foldl_nil, spadWrite_units, List.map_map]
    rfl

/-! ## The steps of the orders -/

/-- The first command of an order that every quarter it spans has reached is due. -/
theorem due_head {s : State} {m : MCmd} {q : Nat} (hh : s.headCmd q = some m) (hr : s.cmdReady m = true) :
    s.due q m.kind = some m := by
  unfold State.due
  rw [hh]
  simp [hr]

theorem performDue_head {s : State} {m : MCmd} {q : Nat} (hh : s.headCmd q = some m) (hr : s.cmdReady m = true) :
    performDue s q m.kind = .next (s.performCmd m) := by
  unfold performDue
  rw [due_head hh hr]

/-- A command that follows no copy leaves its orders, and that is all (R267). -/
theorem completed_alone {m : MCmd} (z : State) (h : m.follow = none) : z.completed m = z.leaveOrder m := by
  unfold State.completed
  rw [h]

/-- A privileged write of the array that is due is performed (R306). -/
theorem performAcc_head {s : State} {m : MCmd} {c : Crew} (hc : s.crew m.crew = some c)
    (hh : s.headCmd (quarterNo c.core c.quarter) = some m) (hr : s.cmdReady m = true) :
    performAcc s m.crew m.lane m.w0 m.kind = .next (s.performCmd m) := by
  have hq : s.quarterOf m.crew = quarterNo c.core c.quarter := by
    unfold State.quarterOf
    rw [hc]
  unfold performAcc
  rw [hq, due_head hh hr]
  simp

/-- Where no exchange of planes is under way, the record of a lost plane is its own. -/
theorem planesCrossed_none {s : State} {q : Nat} (h : ∀ k ∈ s.mcmds, k.kind = .mswap → k.q0 ≠ q) : s.planesCrossed q = false := by
  have : (s.mcmds.filter fun m => m.kind == .mswap && m.q0 == q) = [] := by
    rw [List.filter_eq_nil_iff]
    intro k hk
    simpa using h k hk
  unfold State.planesCrossed
  rw [this]
  rfl

/-- A command other than a plane load or a write of the array has no other effect when it meets an error (R250). -/
theorem dropFaulted_plain {m : MCmd} (z : State) (hf : m.follow = none) (h1 : m.kind ≠ .mldst) (h2 : m.kind ≠ .accdat)
    (h3 : m.kind ≠ .accstat) :
    z.dropFaulted m = if m.kind = .mma ∨ m.kind = .mst ∨ m.kind = .maccclr then z.leaveOrder m else z := by
  unfold State.dropFaulted
  cases hk : m.kind <;> simp_all [completed_alone]

/-- An error of the array raises ENGINE_FAULT in the thread that receives the faults of the command (R250). -/
theorem arrayError_raises {s : State} {m : MCmd} {row q uid : Nat} {lanes : Option (List Nat)} {f : Quarter → Quarter} {inPlane sh : Bool}
    (hm : s.mcmds.find? (·.id == m.id) = some m) (hf : m.follow = none) (hr : s.receiverOf m.unit m.crew m.lane = some (uid, lanes))
    (h1 : m.kind ≠ .mldst) (h2 : m.kind ≠ .accdat) (h3 : m.kind ≠ .accstat)
    (hq : ∀ x : Quarter, (if inPlane then x.losePlane sh (s.planesCrossed q)
      else { x with rowst := tabPut x.rowst 0 (row % 512) (tabGet x.rowst 0 (row % 512) ||| 0x100) }) = f x) :
    exec (.arrayUncorrectableError q inPlane sh row m.id) s = .next (State.async
      (if m.kind = .mma ∨ m.kind = .mst ∨ m.kind = .maccclr then (s.onQuarter q f).leaveOrder m else s.onQuarter q f)
      uid (arrayFault m) lanes) := by
  have hrec : (s.onQuarter q f).receiverOf m.unit m.crew m.lane = some (uid, lanes) := hr
  show execArrayUncorrectableError q inPlane sh row m.id s = _
  unfold execArrayUncorrectableError
  simp only [hq, State.onQuarter_mcmds, hm, hrec, dropFaulted_plain _ hf h1 h2 h3]

/-- Settles O40: one step for each command; the rows of an mma and of an mst row by row. -/
theorem matrixPerforms : Obligations.MatrixPerforms := by
  refine ⟨?_, ?_, ?_, ?_, ?_⟩
  · intro s m q hh hr hf
    have due : ∀ k, m.kind = k → performDue s q k = .next (s.performCmd m) := fun k hk => hk ▸ performDue_head hh hr
    refine ⟨fun hk u hu => ?_, fun hk => ?_, fun hk => ?_, fun hk => ?_, fun hk => ?_, fun hk => ?_, fun hk => ?_⟩ <;>
      refine (due _ hk).trans (congrArg Host.Outcome.next ?_) <;> unfold State.performCmd <;>
      simp only [hk, completed_alone _ hf]
    · unfold State.runMld
      rw [hu]
    · rfl
    · rfl
    · rfl
    · rfl
  · intro s m c t hc ht hh hr hf
    have due : ∀ k, m.kind = k → performAcc s m.crew m.lane m.w0 k = .next (s.performCmd m) := fun k hk => hk ▸ performAcc_head hc hh hr
    refine ⟨fun hk => ?_, fun hk => ?_⟩ <;> refine (due _ hk).trans (congrArg Host.Outcome.next ?_) <;>
      unfold State.performCmd <;> simp only [hk, completed_alone _ hf]
    · unfold State.runAccdat
      simp only [hc, Option.bind_some, ht]
    · unfold State.runAccstat
      simp only [hc, Option.bind_some, ht]
  · intro s m row q uid lanes hm hf hr h1 h2 h3
    refine ⟨arrayError_raises hm hf hr h1 h2 h3 fun x => rfl, fun hs => ⟨?_, ?_⟩⟩ <;>
      refine arrayError_raises hm hf hr h1 h2 h3 fun x => ?_ <;> rw [planesCrossed_none hs] <;> rfl
  · intro s m u j row hu hwf hq hj
    have hcan : ∀ k, (s.quarter k).Canonical := hq
    obtain ⟨hacc, hst⟩ := mmaRows_rows (hcan (m.q0 + j)) (descFmt m.w0) m.flag (shapeK m.shape) (64 * m.tile) (shapeM m.shape)
      (colsOf_eq (shapeN m.shape) j ▸ Nat.min_le_left ..) (u.rowA m) row
    obtain ⟨hmacc, hmst⟩ := mstRows_row m (shapeM m.shape) hwf hcan j row
    intro x i mine cols sw addr fa data scales a w elem y
    have helem : ∀ n, mmaElem fa x.activeD (shapeK m.shape) (if m.flag then 0 else x.accAt row n) (u.rowA m i).1 (u.rowA m i).2 n =
        (BitVec.ofNat 32 (elem n).1, (elem n).2) := fun n => by
      have hold : (if m.flag then 0 else x.accAt row n : Word).toNat = if m.flag then 0 else (x.accAt row n).toNat := by
        split <;> rfl
      rw [mmaElem_eq, hold]
      cases hint : intFmt fa <;> simp only [elem, hint] <;> rfl
    have hy : y = (s.quarter (m.q0 + j)).mmaRows fa m.flag (shapeK m.shape) cols (64 * m.tile) (shapeM m.shape) (u.rowA m) := by
      simp only [y, runMma_span hu, quarter_onSpan _ _ _ hwf, if_pos hj, colsOf_eq, cols, fa]
    rw [colsOf_eq] at hacc hst
    refine ⟨fun n hn => ?_, ?_, ?_, fun n hn => ?_, ?_⟩
    · rw [hy]
      refine (hacc n hn).trans ?_
      rw [helem n]
    · rw [hy]
      exact hst.trans (ite_of_iff Iff.rfl (congrArg (fun e : Nat → Flags => (if m.flag then 0 else tabGet x.rowst 0 row) |||
        (orFlags ((List.range cols).map e)).setWidth 32) (funext fun n => congrArg Prod.snd (helem n))) rfl)
    · unfold State.unit
      rw [runMst_rows, mstRows_units m _ hwf hcan]
      rfl
    · rw [runMst_rows]
      refine (hmacc n hn).trans ?_
      simp only [hj, true_and]
      rfl
    · rw [runMst_rows]
      refine hmst.trans ?_
      simp only [hj, true_and]
      rfl
  · intro x row r k hk hwf
    exact ⟨clearRow_accAt hwf row r hk, clearRow_status hwf row r⟩

end Sys2Proof.Machine
end


section
/-! # Engine entries, copies, bursts and the router -/

namespace Sys2Proof.Machine

/-! ## Copies -/

/-- A copy that runs moves its bytes, and ends as its outcome says (R264, R266). -/
theorem cpyComplete_moves {s s1 : State} {e : Entry} {u : BUnit} {r : EngRes Unit}
    (hk : e.cmd = .cpy ∨ e.cmd = .cpy2d ∨ e.cmd = .cpymx) (he : Running s e e.cmd) (hu : s.unit e.unit = some u)
    (hm : s.moveCopy e = (s1, r)) : exec (.cpyComplete e.id) s = .next (s1.engOutcome e.id r fun s =>
      if e.cmd = .cpymx then (s.fillSlot e).follow e u else (s.fillSlot e).finishEntry e.id stDone 0 0 e.bytes 0) := by
  obtain ⟨hent, hph, -⟩ := he
  show execCpyComplete e.id s = _
  unfold execCpyComplete
  rw [hent]
  simp only [hu, hph]
  obtain h | h | h := hk <;> simp only [h, hm]

/-- A copy that is no reduction reports no flags when it ends early. -/
theorem redFlags_copy {e : Entry} (h : e.cmd = .cpy ∨ e.cmd = .cpy2d) : e.redFlags = 0 := by
  unfold Entry.redFlags
  obtain h | h := h <;> simp [h]

/-- A copy between memories ends when its bytes are moved, ends early at a page that refuses it or at an error, or waits. -/
theorem copy_ends {s s1 : State} {e : Entry} {u : BUnit} (hk : e.cmd = .cpy ∨ e.cmd = .cpy2d) (he : Running s e e.cmd)
    (hu : s.unit e.unit = some u) :
    (∀ r, s.moveCopy e = (s1, .ok r) →
      exec (.cpyComplete e.id) s = .next ((s1.fillSlot e).finishEntry e.id stDone 0 0 e.bytes 0)) ∧
    (∀ x e', s.moveCopy e = (s1, .perm x) → s1.entry e.id = some e' → e'.cmd = e.cmd →
      exec (.cpyComplete e.id) s = .next (s1.finishEntry e.id stPermFault x 0 e'.moved 0)) ∧
    (∀ x e', s.moveCopy e = (s1, .poisoned x) → s1.entry e.id = some e' → e'.cmd = e.cmd →
      exec (.cpyComplete e.id) s = .next (s1.finishEntry e.id stMemError x 0 e'.moved 0)) ∧
    ∀ m, s.moveCopy e = (s1, .miss m) → exec (.cpyComplete e.id) s = .next (s1.engineWait e.id m) := by
  have hk' : e.cmd = .cpy ∨ e.cmd = .cpy2d ∨ e.cmd = .cpymx := hk.elim .inl fun h => .inr (.inl h)
  have hmx : e.cmd ≠ .cpymx := by obtain h | h := hk <;> rw [h] <;> decide
  refine ⟨fun r hm => ?_, fun x e' hm h' hc => ?_, fun x e' hm h' hc => ?_, fun m hm => ?_⟩ <;>
    rw [cpyComplete_moves hk' he hu hm] <;> unfold State.engOutcome
  · simp only [if_neg hmx]
  · simp only [h', Option.elim_some, redFlags_copy (hc ▸ hk)]
  · simp only [h', Option.elim_some, redFlags_copy (hc ▸ hk)]
  · rfl

/-! ## Reductions between scratchpads -/

theorem readRow_spad {s : State} {e : Entry} {u : BUnit} {d : Side} {r n : Nat} (hu : s.unit e.unit = some u) (hd : d.spad = true)
    (hg : u.spadBroken d.mode (d.base + r * d.stride) n = false) :
    s.readRow e d r n = (s, .ok (u.readSpad d.mode (d.base + r * d.stride) n)) := by
  unfold State.readRow
  simp only [hd, hu, hg, Bool.false_eq_true, if_false, if_true]

theorem redOld_spad {s : State} {e : Entry} {u : BUnit} {d : Side} {off n : Nat} (hd : d.spad = true)
    (hg : u.spadBroken d.mode (d.base + off) n = false) :
    s.redOld e u d off n = (s, .ok (u.readSpad d.mode (d.base + off) n, false)) := by
  unfold State.redOld
  simp only [hd, hg, Bool.false_eq_true, if_false, if_true]

theorem redDenied_spad {s : State} {e : Entry} {d : Side} (off n : Nat) (hd : d.spad = true) : s.redDenied e d off n = false := by
  unfold State.redDenied
  rw [hd]
  rfl

theorem chunk_size (n : Nat) : (if n < 4096 then n else 4096) = min 4096 n := by
  split <;> omega

/-! ## Fences and waits of queues -/

/-- A queue fence is clear when no earlier entry of its block and core stands in a queue that it names (R136). -/
theorem fenceClear_iff (s : State) (e : Entry) : s.fenceClear e = true ↔
    ∀ y ∈ s.entries, y.unit = e.unit → y.id < e.id → y.rcore = e.rcore → y.qid < 4 → bitN (e.word 4) y.qid = false := by
  unfold State.fenceClear
  simp

/-- A running command of its own kind runs. -/
theorem Running.runs {s : State} {e : Entry} {cmd : Cmd} (h : Running s e cmd) : e.runs cmd = true := by
  obtain ⟨-, hph, hc⟩ := h
  unfold Entry.runs
  simp [hph, hc]

/-- A running command of the kind that a step names is ready for it. -/
theorem Running.ready {s : State} {e : Entry} {cmd : Cmd} (h : Running s e cmd) : s.engineReady e.id cmd = some e := by
  obtain ⟨hent, hph, hc⟩ := h
  unfold State.engineReady
  simp [hent, hph, hc]

/-- The bits of a descriptor's word from bit `lo` on, up to its end. -/
theorem word_high (e : Entry) (i lo w : Nat) (h : lo + w = 32) : fieldN (e.word i) lo w = e.word i / 2 ^ lo := by
  have hlt : e.word i < 2 ^ lo * 2 ^ w := by
    rw [← Nat.pow_add, h]
    exact (e.words.getD i 0).isLt
  exact Nat.mod_eq_of_lt (Nat.div_lt_of_lt_mul hlt)

theorem word_low (e : Entry) (i w : Nat) : fieldN (e.word i) 0 w = e.word i % 2 ^ w := by
  unfold fieldN
  rw [Nat.pow_zero, Nat.div_one]

/-- A router sort that reads its tokens and its map writes the four tables, or ends with the lowest failing index (R276). -/
theorem xsort_reads {s s1 : State} {e : Entry} {tok map : List Byte} (he : Running s e .xsort)
    (hr : s.readAll e [(bitN (e.word 14) 0, e.addr (bitN (e.word 14) 0) 4, 2 * (e.word 8 % 2 ^ 17) * (e.word 8 / 2 ^ 28)),
      (bitN (e.word 14) 2, e.addr (bitN (e.word 14) 2) 6, 2 * (e.word 9 % 2 ^ 11))] = (s1, .ok [tok, map])) :
    exec (.xsortComplete e.id) s = .next
      (match routerSort (e.word 8 % 2 ^ 17) (e.word 8 / 2 ^ 28) (e.word 9 % 2 ^ 11) (e.word 10 % 2 ^ 13) (e.word 11) tok map with
      | .error i => s1.finishEntry e.id stDataError i 0 0 0
      | .ok (perm, counts, offs, dbytes, l) =>
        let w := s1.writeAll e (((xsortParts (e.word 8 % 2 ^ 17) (e.word 8 / 2 ^ 28) (e.word 9 % 2 ^ 11) (e.word 10 % 2 ^ 13)).zip
          [perm, counts, offs, dbytes]).map fun p => (bitN (e.word 14) 4, e.addr (bitN (e.word 14) 4) 12 + p.1.1,
            e.addr (bitN (e.word 14) 4) 12 + p.1.1, p.2))
        w.1.engAgain e.id (.xsortComplete e.id) w.2 fun s _ => s.finishEntry e.id stDone 0 l 0 0) := by
  show execXsortComplete e.id s = _
  unfold execXsortComplete
  simp only [he.ready, word_high e 8 28 4 rfl, word_low, hr]
  unfold State.engAgain
  simp only [List.getD_cons_zero, List.getD_cons_succ] <;>
    cases routerSort (e.word 8 % 2 ^ 17) (e.word 8 / 2 ^ 28) (e.word 9 % 2 ^ 11) (e.word 10 % 2 ^ 13) (e.word 11) tok map <;> rfl

/-! ## Bursts -/

/-- A new burst that arrives waits for room in the drip queue; else its bytes are read here, or taken as they were sent (R272). -/
theorem burst_arrives {s : State} {e : Entry} {b : Nat} (bytes : List Byte) (he : Running s e .hread) (hnew : s.burstNew e b = true)
    (hask : 64 ≤ e.qid → b ∈ e.asked) : exec (.hreadBurstArrive e.id b bytes) s =
      (if 64 ≤ (s.bursts.filter fun x => x.core == s.dripCore e).length then .next (s.arm (.hreadBurstArrive e.id b bytes))
      else if e.qid < 64 then match s.readGroups e (e.burstGroups b) with
        | (s, .ok l) => .next (s.queueBurst e b l)
        | (s, .perm x) => .next (s.burstFailed e.id b stPermFault x)
        | (s, .poisoned x) => .next (s.burstFailed e.id b stMemError x)
        | (s, .miss m) => .next (((s.engineWait e.id m).onEntry e.id fun e => { e with held := b :: e.held }).fetchNext e.id)
      else .next (s.queueBurst e b
        (((e.burstGroups b).zipIdx).flatMap fun p => padGroup (e.groupAt p.1).2.2 ((bytes.drop (16 * p.2)).take 16)))) := by
  obtain ⟨hent, hph, hc⟩ := he
  have hgo : (e.cmd != .hread || e.phase != .running || !s.burstNew e b || !(e.localRead || e.asked.contains b)) = false := by
    have : (e.localRead || e.asked.contains b) = true := by
      by_cases h : e.qid < 64
      · simp [Entry.localRead, h]
      · simp [hask (by omega)]
    rw [hc, hph, hnew, this]
    rfl
  show execHreadBurstArrive e.id b bytes s = _
  unfold execHreadBurstArrive
  rw [hent]
  simp only [hgo, Bool.false_eq_true, if_false]
  simp only [State.dripsFull, Entry.localRead, decide_eq_true_eq, ge_iff_le] <;> rfl

/-- The failure of a burst of a handler read that has begun is dealt with (R273). -/
theorem fetch_fails {s : State} {e : Entry} (b st reason : Nat) (final : Bool) (he : Running s e .hread) :
    exec (.hreadBurstFetchFail e.id b st reason final) s = .next (s.burstError e.id b st reason final) := by
  obtain ⟨hent, hph, hc⟩ := he
  show execHreadBurstFetchFail e.id b st reason final s = _
  unfold execHreadBurstFetchFail
  rw [hent]
  simp only [hc, hph]
  rfl

/-- A failure that is final fails the burst. -/
theorem burstError_final {s : State} {e : Entry} {b : Nat} (st reason : Nat) (he : s.entry e.id = some e)
    (hnew : s.burstNew e b = true) : s.burstError e.id b st reason true = s.burstFailed e.id b st reason := by
  unfold State.burstError
  rw [he]
  simp only [hnew, Bool.not_true, Bool.false_eq_true, if_false, Bool.true_or, if_true]

/-- A memory error of a burst that was asked for is counted and the burst asked for again, up to three times. -/
theorem burstError_again {s : State} {e : Entry} {b : Nat} (reason : Nat) (he : s.entry e.id = some e)
    (hnew : s.burstNew e b = true) (hr : e.retries < 3) (hq : 64 ≤ e.qid) (hh : s.heldUnit e.unit = false) :
    s.burstError e.id b stMemError reason false = State.askBurst
      ((s.onEntry e.id fun e => { e with retries := e.retries + 1 }).onEntry e.id fun e => { e with
        asked := e.asked.filter (· != b) }) e b := by
  have hheld : (((s.onEntry e.id fun e => { e with retries := e.retries + 1 }).onEntry e.id fun e => { e with
      asked := e.asked.filter (· != b) }).heldUnit e.unit) = false := hh
  unfold State.burstError
  rw [he]
  simp only [hnew, Bool.not_true, Bool.false_eq_true, if_false, if_true, Bool.false_or, decide_true, Bool.true_and,
    Nat.not_le.mpr hr, decide_false, hheld, Entry.localRead, Nat.not_lt.mpr hq]

/-- Settles O41: one case for each of the events. -/
theorem engineSteps : Obligations.EngineSteps := by
  refine ⟨?_, fun s e u hk he hu => ⟨fun s1 => (copy_ends hk he hu).1, fun s1 => (copy_ends hk he hu).2.1,
    fun s1 => (copy_ends hk he hu).2.2.1, fun s1 => (copy_ends hk he hu).2.2.2⟩, ?_, ?_, ?_, ?_, ?_, ?_, ?_, ?_, ?_, ?_⟩
  · intro s e he hfin hph hhead hrec
    have hout : (e.cmd.recorded && s.unitOut e.unit) = false := by
      rw [Bool.and_eq_false_imp]
      exact hrec
    show execEngineEntryStart e.id s = _
    unfold execEngineEntryStart
    rw [he]
    simp only [hfin, hph, hhead, hout, bne_self_eq_false, Bool.not_true, Bool.or_self, Bool.false_eq_true, if_false]
  · intro s e u s1 r he hu hm
    obtain ⟨hent, hph, hc⟩ := he
    rw [cpyComplete_moves (.inr (.inr hc)) ⟨hent, hph, rfl⟩ hu hm]
    unfold State.engOutcome
    simp only [hc, if_true]
  · intro s e u he hu hs hd k off n hgs hgd new old rs aux t
    obtain ⟨hent, hph, hc⟩ := he
    have hread : s.readRow e { e.source with stride := off } 1 n = (s, .ok new) := by
      have hone : e.source.base + 1 * off = e.source.base + off := by rw [Nat.one_mul]
      rw [readRow_spad (d := { e.source with stride := off }) hu hs (hone ▸ hgs)]
      exact congrArg (fun a => (s, EngRes.ok (u.readSpad e.source.mode a n))) hone
    show execCpyredChunkApply e.id s = _
    unfold execCpyredChunkApply
    rw [hent]
    simp only [hu, hph, hc, chunk_size]
    rw [show s.readRow e { e.source with stride := 4096 * e.progress.headD 0 } 1
      (min 4096 (e.word 8 - 4096 * e.progress.headD 0)) = (s, .ok new) from hread]
    simp only [redDenied_spad _ _ hd, Bool.false_eq_true, if_false]
    rw [show s.redOld e u (e.dest u) (4096 * e.progress.headD 0) (min 4096 (e.word 8 - 4096 * e.progress.headD 0)) =
      (s, .ok (old, false)) from redOld_spad hd hgd]
    have hor : ∀ x : Word, x ||| 0 = x := fun _ => BitVec.or_zero
    simp only [hd, if_true, Bool.false_eq_true, if_false, hor]
    rfl
  · intro s e he h
    have hmay : (e.phase == .waitPage || s.mayReplay e || (e.phase == .running && !e.held.isEmpty)) = true := by
      unfold State.mayReplay
      obtain h | ⟨h, hc⟩ := h
      · simp [h]
      · have : (s.crews.any fun c => c.unit == e.unit && c.course == .saving) = false :=
          List.any_eq_false.mpr fun c hm => by simpa using hc c hm
        simp [h, this]
    show execCopyReplay e.id s = _
    unfold execCopyReplay
    rw [he]
    exact if_pos hmay
  · intro s e he
    show execQfenceComplete e.id s = _
    unfold execQfenceComplete
    rw [he.1]
    simp only [he.runs, Bool.true_and, fenceClear_iff]
  · intro s e u he hu
    show execQwaitComplete e.id s = _
    unfold execQwaitComplete
    rw [he.1]
    simp only [hu, he.runs, Bool.true_and, decide_eq_true_eq]
  · intro s e b bytes he hnew hask q
    have harr := burst_arrives bytes he hnew hask
    refine ⟨fun hl => ?_, fun hl hq s1 l hr => ?_, fun hl hq s1 m hr => ?_, fun hl hq => ?_, fun st reason => ?_, fun reason hr hq hh => ?_⟩
    · rw [harr, if_pos hl]
    · rw [harr, if_neg (Nat.not_le.mpr hl), if_pos hq, hr]
    · rw [harr, if_neg (Nat.not_le.mpr hl), if_pos hq, hr]
    · rw [harr, if_neg (Nat.not_le.mpr hl), if_neg (Nat.not_lt.mpr hq)]
    · rw [fetch_fails b st reason true he, burstError_final st reason he.1 hnew]
    · rw [fetch_fails b _ reason false he, burstError_again reason he.1 hnew hr hq hh]
  · intro s e core q b u l h hq hb hu hl hh
    show execDripBirth core q s = _
    unfold execDripBirth
    have hhand : ((s.launch e.world u.launch).bind fun l => l.desc.handlers[fieldN (e.word 9) 28 4]?) = some h := by
      rw [hl]
      exact hh
    simp only [Nat.not_le.mpr hq, if_false, hb, hu, hhand]
    rfl
  · intro s core q hq
    exact if_pos hq
  · intro s e rank he hcmd hq hs hfin
    show execGroupWithdrawal e.id rank s = _
    unfold execGroupWithdrawal
    rw [he]
    refine if_pos ?_
    obtain h | h | h := hcmd <;> simp [h, hq, hs, hfin]
  · intro s e s1 tok map he k t n a hr nd
    refine ⟨fun i hi => ?_, fun perm counts offs dbytes l s2 r hp hw => ?_⟩
    · rw [xsort_reads he hr]
      simp only [nd, k, t, n] at hi
      rw [hi]
    · rw [xsort_reads he hr]
      simp only [nd, k, t, n, a] at hp hw
      rw [hp]
      simp only [hw]
      rfl

end Sys2Proof.Machine
end


section
/-! # Group collectives and remote memory access -/

namespace Sys2Proof.Machine

/-! ## The begin of a group command -/

/-- Every rank's value is this device's own exactly where every other rank names it. -/
theorem ownIn_agree (l : List Nat) (me own p : Nat) : (ownIn l me own own p).any (· != own) = false ↔
    ∀ r, r < p → r ≠ me → l.getD r own = own := by
  unfold ownIn
  rw [List.any_eq_false]
  simp only [List.mem_map, List.mem_range, forall_exists_index, and_imp, forall_apply_eq_imp_iff₂, bne_iff_ne, ne_eq, Decidable.not_not]
  refine forall₂_congr fun r _ => ?_
  by_cases h : r = me <;> simp [h]

/-- The branches that a group command may take once its group is known to be whole (R277). -/
def State.instanceGo (s : State) (e : Entry) (g : List Byte) (rs : List Nat) (me : Nat) (noinnets : List Nat) (path fallback : Nat)
    (ev : Event) : State :=
  match e.cmd with
  | .a2av => (if rs.length = 1 then s.onEntry e.id fun e => { e with progress := [1] } else s).a2avStarted e rs.length ev
  | .areduce =>
    let p := if me = 0 then s.choosePath e.world g (fieldN (e.word 9) 0 4) rs.length
      ((ownIn noinnets me (if bitN (e.word 9) 4 then 1 else 0) 0 rs.length).any (· != 0)) else (path, fallback)
    s.areduceStarted e g rs me p.1 p.2 ev
  | _ => (s.onEntry e.id fun e => { e with progress := [1] }).gangStarted e me

/-- A group collective that runs and has not begun ends where its group has changed or breaks a rule or its ranks do not
agree, and else begins. -/
theorem instance_begins {s : State} {e : Entry} {g : List Byte} {rs : List Nat} {me : Nat} (kinds counts noinnets : List Nat)
    (path fallback : Nat) (he : Running s e e.cmd) (hp : e.progress = []) (hk : e.cmd = .a2av ∨ e.cmd = .areduce ∨ e.cmd = .gang)
    (hg : s.groupOf e.world e.group = some (g, rs, me)) :
    exec (.groupInstanceBegin e.id kinds counts noinnets path fallback) s =
      (if s.groupChanged e = true then .next (s.finishEntry e.id stMismatch 3 0 0 0)
      else match s.groupBad e.world g rs with
        | some i => .next (s.finishEntry e.id stDataError i 0 0 0)
        | none =>
          if (ownIn kinds me e.cmd.groupKind e.cmd.groupKind rs.length).any (· != e.cmd.groupKind) = true then
            .next (s.finishEntry e.id stMismatch 1 0 0 0)
          else if (e.cmd == .areduce && (ownIn counts me e.countOp e.countOp rs.length).any (· != e.countOp)) = true then
            .next (s.finishEntry e.id stMismatch 2 0 0 0)
          else .next (s.instanceGo e g rs me noinnets path fallback
            (.groupInstanceBegin e.id kinds counts noinnets path fallback))) := by
  obtain ⟨hent, hph, -⟩ := he
  have hcoll : (e.cmd == .a2av || e.cmd == .areduce || e.cmd == .gang) = true := by
    obtain h | h | h := hk <;> rw [h] <;> rfl
  have hwait : ((e.cmd == .a2av || e.cmd == .areduce || e.cmd == .gang) && e.phase == .waitPage) = false := by
    rw [hph, hcoll]
    rfl
  have hrun : (e.phase != .running || !(e.cmd == .a2av || e.cmd == .areduce || e.cmd == .gang) || !e.progress.isEmpty) = false := by
    rw [hph, hcoll, hp]
    rfl
  show execGroupInstanceBegin e.id kinds counts noinnets path fallback s = _
  unfold execGroupInstanceBegin
  rw [hent]
  simp only [hwait, hrun, hg, Bool.false_eq_true, if_false]
  rfl

/-- A group command whose group is whole and whose ranks agree begins. -/
theorem instance_agrees {s : State} {e : Entry} {g : List Byte} {rs : List Nat} {me : Nat} {kinds counts : List Nat}
    (noinnets : List Nat) (path fallback : Nat) (he : Running s e e.cmd) (hp : e.progress = [])
    (hk : e.cmd = .a2av ∨ e.cmd = .areduce ∨ e.cmd = .gang) (hg : s.groupOf e.world e.group = some (g, rs, me))
    (hch : s.groupChanged e = false) (hbad : s.groupBad e.world g rs = none)
    (hkinds : ∀ r, r < rs.length → r ≠ me → kinds.getD r e.cmd.groupKind = e.cmd.groupKind)
    (hcounts : e.cmd = .areduce → ∀ r, r < rs.length → r ≠ me → counts.getD r e.countOp = e.countOp) :
    exec (.groupInstanceBegin e.id kinds counts noinnets path fallback) s = .next (s.instanceGo e g rs me noinnets path fallback
      (.groupInstanceBegin e.id kinds counts noinnets path fallback)) := by
  have hc : (e.cmd == .areduce && (ownIn counts me e.countOp e.countOp rs.length).any (· != e.countOp)) = false := by
    rw [Bool.and_eq_false_imp]
    exact fun h => (ownIn_agree ..).mpr (hcounts (beq_iff_eq.mp h))
  rw [instance_begins kinds counts noinnets path fallback he hp hk hg, hch, hbad, (ownIn_agree ..).mpr hkinds, hc]
  rfl

/-- The exchange of a group command of more than one rank begins with this rank's counts (R279). -/
theorem a2av_starts {s s1 : State} {e : Entry} {p : Nat} {ev : Event} {l : List Byte} (hp : p ≠ 1)
    (hr : s.readMeta e p = (s1, .ok l)) : s.a2avStarted e p ev = (s1.onEntry e.id fun e => { e with progress := [1] }).toRanks clsRod e
      (leBytes 1 sayCounts ++ leBytes 4 (e.word 3) ++ leBytes 8 (e.gen 10) ++ l) := by
  unfold State.a2avStarted
  rw [if_neg hp, hr]
  rfl

/-- A reduction of one rank waits for nobody. -/
theorem areduce_alone {s : State} {e : Entry} {g : List Byte} {rs : List Nat} {me pa fb : Nat} {ev : Event} (hp : rs.length = 1) :
    s.areduceStarted e g rs me pa fb ev = (s.onEntry e.id fun e => { e with
      progress := [1]
      path := pa
      aux := BitVec.ofNat 32 (fb * 256) }).arm (.areduceComplete e.id []) := by
  unfold State.areduceStarted
  rw [if_pos hp]

/-- A reduction of more than one rank begins with its path, and this rank's contribution leaves it (R281). -/
theorem areduce_starts {s s1 : State} {e : Entry} {g : List Byte} {rs : List Nat} {me pa fb : Nat} {ev : Event} {l : List Byte}
    (hp : rs.length ≠ 1) (hr : s.cmdRead e (e.gen 4) (e.gen 4) (4 * e.word 8) = (s1, .ok l)) :
    s.areduceStarted e g rs me pa fb ev =
      let z := s1.onEntry e.id fun e => { e with
        progress := [1]
        path := pa
        leases := if pa = 1 then s1.leasesOf e.world g else []
        aux := BitVec.ofNat 32 (fb * 256) }
      (if me = 0 then z.toRanks clsRod e (leBytes 1 sayPath ++ leBytes 1 pa ++ leBytes 4 fb) else z).contribute e g rs me pa l := by
  unfold State.areduceStarted
  rw [if_neg hp, hr]
  rfl

/-! ## The exchange of counts and of parts -/

/-- The counts of an exchange, once this rank's own are read: checked, RMETA written, and the data sent (R279). -/
theorem counts_arrive {s s1 : State} {e : Entry} {metas : List (List Nat)} {g : List Byte} {rs : List Nat} {me : Nat} {l : List Byte}
    (he : Running s e .a2av) (hp : e.progress = [1]) (hg : s.groupOf e.world e.group = some (g, rs, me))
    (hch : s.groupChanged e = false) (hr : s.readMeta e rs.length = (s1, .ok l)) :
    exec (.a2avCountExchange e.id metas) s = .next (
      let own : SendMeta := ⟨e.word 3, e.gen 10, (entriesOf 16 l).map fun x => (nat64At x 0, nat64At x 2)⟩
      let ms := ownIn (metas.map SendMeta.of) me own ⟨0, 0, []⟩ rs.length
      match countVerdict ms with
      | some (st, f) => s1.finishEntry e.id st f 0 0 0
      | none =>
        let got := received ms me
        let p := s1.readParts e own.parts
        p.1.engAgain e.id (.a2avCountExchange e.id metas) p.2 fun s ls =>
          let w := s.writeAll e [(false, e.gen 12, e.gen 12, got.flatMap fun x => leBytes 8 x.1 ++ leBytes 8 x.2)]
          w.1.engAgain e.id (.a2avCountExchange e.id metas) w.2 fun s _ =>
            let sent := (own.parts.map (·.2)).sum
            let s := s.onEntry e.id fun e => { e with progress := 2 :: sent :: got.flatMap fun x => [x.1, x.2, 0] }
            let s := (ls.zipIdx.filter fun x => x.2 != me && !x.1.isEmpty).foldl
              (fun s x => s.toRank clsRud e (rs.getD x.2 0) (leBytes 1 sayPart ++ leBytes 2 me ++
                leBytes 8 ((received ms x.2).getD me (0, 0)).1 ++ x.1)) s
            (got.zipIdx.filter fun x => x.2 == me || x.1.2 == 0).foldl
              (fun s x => s.arm (.a2avPartPlaced e.id x.2 (if x.2 == me then ls.getD me [] else []))) s) := by
  show execA2avCountExchange e.id metas s = _
  unfold execA2avCountExchange
  simp only [he.ready, hp, bne_self_eq_false, hch, Bool.false_eq_true, if_false, hg, hr]
  refine congrArg Host.Outcome.next ?_
  unfold State.engAgain
  dsimp only <;> cases countVerdict _ <;> rfl

/-- An exchange or a reduction whose group has changed ends MISMATCH (R277). -/
theorem changed_ends {s : State} {e : Entry} (metas : List (List Nat)) (ls : List (List Byte)) (hp : e.progress = [1])
    (hch : s.groupChanged e = true) :
    (Running s e .a2av → exec (.a2avCountExchange e.id metas) s = .next (s.finishEntry e.id stMismatch 3 0 0 0)) ∧
    (Running s e .areduce → exec (.areduceComplete e.id ls) s = .next (s.finishEntry e.id stMismatch 3 0 0 0)) := by
  refine ⟨fun he => ?_, fun he => ?_⟩
  · show execA2avCountExchange e.id metas s = _
    unfold execA2avCountExchange
    simp only [he.ready, hp, bne_self_eq_false, hch, Bool.false_eq_true, if_false, if_true]
  · show execAreduceComplete e.id ls s = _
    unfold execAreduceComplete
    simp only [he.ready, hp, bne_self_eq_false, hch, Bool.false_eq_true, if_false, if_true]

/-- A group that is gone has changed. -/
theorem groupChanged_gone {s : State} {e : Entry} (h : s.groupOf e.world e.group = none) : s.groupChanged e = true := by
  unfold State.groupChanged
  rw [h]

/-- A part that its sender's count announces and that is not yet placed is placed, unless the group has changed (R279). -/
theorem part_placed {s : State} {e : Entry} {sender sent off : Nat} {bytes : List Byte} {ps : List Nat} (he : Running s e .a2av)
    (hp : e.progress = 2 :: sent :: ps) (ht : (triplesOf ps)[sender]? = some (off, bytes.length, 0)) :
    exec (.a2avPartPlaced e.id sender bytes) s = (if s.groupChanged e = true then .next (s.finishEntry e.id stMismatch 3 0 0 0)
      else .next (
        let c := s.cmdRead e (e.gen 14) (e.gen 14 + 4 * sender) 4
        c.1.engAgain e.id (.a2avPartPlaced e.id sender bytes) c.2 fun s l =>
          let w := s.writeAll e ((if bytes = [] then [] else [(false, e.gen 8, e.gen 8 + off, bytes)]) ++
            [(false, e.gen 14, e.gen 14 + 4 * sender, leBytes 4 ((leNat l + 1) % 2 ^ 32))])
          w.1.engAgain e.id (.a2avPartPlaced e.id sender bytes) w.2 fun s _ =>
            (s.onEntry e.id fun e => { e with progress := e.progress.set (2 + 3 * sender + 2) 1 }).a2avCheck e.id)) := by
  have ht' : (triplesOf (e.progress.drop 2))[sender]? = some (off, bytes.length, 0) := by
    rw [hp]
    exact ht
  show execA2avPartPlaced e.id sender bytes s = _
  unfold execA2avPartPlaced
  simp only [he.ready]
  rw [ht', hp]
  simp only [ne_eq, not_true_eq_false, decide_false, Bool.or_self, Bool.false_eq_true, if_false, List.length_eq_zero_iff]

/-! ## Requests to a window -/

/-- What a request does goes back to the rank that asked (R283). -/
theorem request_answered (s : State) (q : RmaReq) : exec (.rmaRequestReceive q) s =
    .next ((s.rmaPerform q).1.say clsRud (rankPeer ((s.rmaPerform q).1.jobIn q.world) q.src) 0 0 (match (s.rmaPerform q).2 with
      | .ok l => leBytes 1 stDone ++ leBytes 1 0 ++ l
      | .error x => leBytes 1 stRemoteRefused ++ leBytes 1 x)) := rfl

/-- The permission of a request in the flags word of a window. -/
def rmaAllowed (op : RmaOp) (f : Nat) : Bool :=
  match op with
  | .put _ => bitN f 1
  | .get _ => bitN f 2
  | .atom .. => bitN f 3
  | .flush => true

/-- A request to an open window of memory is refused by its range and its permission, in this order. -/
theorem rmaPerform_refused {s : State} {q : RmaReq} {w : World} {base len f : Nat} (hw : s.world q.world = some w)
    (hs : s.saving = false) (hq : q.op ≠ .flush) (he : s.windowEntry w q.window = some (base, len, f)) :
    (len < q.roff + rmaBytes q → s.rmaPerform q = (s.touchWindow w q, .error rrRange)) ∧
    (q.roff + rmaBytes q ≤ len → rmaAllowed q.op f = false → s.rmaPerform q = (s.touchWindow w q, .error rrPerm)) := by
  have hf : (q.op == .flush) = false := by simpa using hq
  refine ⟨fun hlen => ?_, fun hlen hperm => ?_⟩ <;> unfold State.rmaPerform <;>
    simp only [hw, hf, hs, he, Bool.false_and, Bool.false_eq_true, if_false, gt_iff_lt]
  · rw [if_pos hlen]
  · rw [if_neg (Nat.not_lt.mpr hlen), if_pos]
    unfold rmaAllowed at hperm
    cases hop : q.op <;> simp_all

/-- A put that its window permits is placed; a get reads the bytes there (R283). -/
theorem rmaPerform_placed {s : State} {q : RmaReq} {w : World} {base len f : Nat} {parts : List (Nat × Nat × Nat)}
    (hw : s.world q.world = some w) (hs : s.saving = false) (he : s.windowEntry w q.window = some (base, len, f))
    (hm : bitN f 4 = false) (hlen : q.roff + rmaBytes q ≤ len) :
    (∀ l, q.op = .put l → bitN f 1 = true →
      (s.touchWindow w q).windowPages q.world .write (base + q.roff) (rmaBytes q) = some parts →
      s.rmaPerform q = ((parts.foldl (fun (z : State) p => z.forget (.mem p.1) p.2.2)
        (parts.foldl (fun (z : State) p => z.useNp true p.1 p.2.2) (s.touchWindow w q))).storeParts
          (parts.map fun p => (.mem p.1, .mem p.1, p.2.1, p.2.2)) l, .ok [])) ∧
    (∀ n, q.op = .get n → bitN f 2 = true →
      (s.touchWindow w q).windowPages q.world .read (base + q.roff) (rmaBytes q) = some parts →
      s.rmaPerform q = (parts.foldl (fun (z : State) p => z.useNp false p.1 p.2.2) (s.touchWindow w q),
        .ok (parts.flatMap fun p => (s.touchWindow w q).loadPA p.1 p.2.2))) := by
  refine ⟨fun l hop hperm hp => ?_, fun n hop hperm hp => ?_⟩
  · have hf : (q.op == .flush) = false := by rw [hop]; rfl
    unfold State.rmaPerform
    simp only [hw, hf, hs, he, Bool.false_and, Bool.false_eq_true, if_false, gt_iff_lt, Nat.not_lt.mpr hlen]
    simp only [hop, hperm, hm, hp, Bool.not_true, Bool.false_eq_true, if_false]
    rfl
  · have hf : (q.op == .flush) = false := by rw [hop]; rfl
    unfold State.rmaPerform
    simp only [hw, hf, hs, he, Bool.false_and, Bool.false_eq_true, if_false, gt_iff_lt, Nat.not_lt.mpr hlen]
    simp only [hop, hperm, hm, hp, Bool.not_true, Bool.false_eq_true, if_false]
    rfl

theorem rmaPerform_noWindow {s : State} {q : RmaReq} {w : World} (hw : s.world q.world = some w) (hs : s.saving = false)
    (hq : q.op ≠ .flush) (he : s.windowEntry w q.window = none) : s.rmaPerform q = (s.touchWindow w q, .error rrNoWindow) := by
  have hf : (q.op == .flush) = false := by simpa using hq
  unfold State.rmaPerform
  simp only [hw, hf, hs, he, Bool.false_and, Bool.false_eq_true, if_false]

/-- A device that saves refuses a request that writes BUSY (R408). -/
theorem rmaPerform_busy {s : State} {q : RmaReq} {w : World} (hw : s.world q.world = some w) (hs : s.saving = true)
    (hq : q.op ≠ .flush) (hg : ∀ n, q.op ≠ .get n) : s.rmaPerform q = (s, .error rrBusy) := by
  have hf : (q.op == .flush) = false := by simpa using hq
  unfold State.rmaPerform
  simp only [hw, hf, hs, Bool.true_and, Bool.false_eq_true, if_false]
  cases hop : q.op with
  | get n => exact absurd hop (hg n)
  | flush => exact absurd hop hq
  | put l => rfl
  | atom fn v c => rfl

theorem rmaPerform_flush {s : State} {q : RmaReq} {w : World} (hw : s.world q.world = some w) (hq : q.op = .flush) :
    s.rmaPerform q = (s, .ok []) := by
  have hf : (q.op == .flush) = true := by rw [hq]; rfl
  unfold State.rmaPerform
  simp only [hw, hf, if_true]

/-! ## Commands of remote memory access at their sender -/

theorem rput_steps {s : State} {e : Entry} (he : Running s e .rput) :
    (∀ s1 l, e.progress = [] → s.readAt e e.loc.1 e.loc.2.1 e.loc.2.2 (e.word 8) = (s1, .ok l) → s1.loopback e = false →
      exec (.rputComplete e.id) s = .next (((s1.sendCmd clsRud e 0 l).onEntry e.id fun e => { e with progress := [1] }).arm
        (.rputComplete e.id))) ∧
    (e.progress ≠ [] → exec (.rputComplete e.id) s = .next (s.finishEntry e.id stDone 0 0 e.bytes 0)) := by
  refine ⟨fun s1 l hp hr hl => ?_, fun hp => ?_⟩ <;> show execRputComplete e.id s = _ <;> unfold execRputComplete <;>
    simp only [he.ready]
  · simp only [hp, List.isEmpty_nil, Bool.not_true, Bool.false_eq_true, if_false, hr, State.engAgain, hl]
  · exact if_pos (by simpa using hp)

theorem rget_places {s s1 : State} {e : Entry} {l : List Byte} {r : Unit} (he : Running s e .rget) (hl : s.loopback e = false)
    (hn : l.length = e.word 8) (hw : s.writeLoc e l = (s1, .ok r)) :
    exec (.rgetComplete e.id l) s = .next (s1.finishEntry e.id stDone 0 0 e.bytes 0) := by
  show execRgetComplete e.id l s = _
  unfold execRgetComplete
  simp only [he.ready, hl, Bool.false_eq_true, if_false, hn, ne_eq, not_true_eq_false, hw, State.engAgain]

theorem ratom_answers {s : State} {e : Entry} (old : BitVec 64) (he : Running s e .ratom) (hl : s.loopback e = false)
    (h : e.rv = false ∨ e.loc.1 = true) : exec (.ratomComplete e.id old) s = .next
      ((if e.rv then (s.writeLoc e (leBytes (atomSize e.afn) old.toNat)).1 else s).finishEntry e.id stDone 0 0 e.bytes 0) := by
  have hskip : (e.loc.1 || !e.rv) = true := by
    obtain h | h := h <;> simp [h]
  show execRatomComplete e.id old s = _
  unfold execRatomComplete
  simp only [he.ready, hskip, if_true, State.engAgain, hl, Bool.false_eq_true, if_false]

/-- Settles O42: the begin of a group command, the exchange, the reduction, and the requests and commands of remote access. -/
theorem exchangeSteps : Obligations.ExchangeSteps := by
  refine ⟨?_, ?_, ?_, ?_, fun s e metas ls hp hg => changed_ends metas ls hp (groupChanged_gone hg), ?_, ?_, fun s e he => rput_steps he,
    fun s e l s1 r he hl hn hw => rget_places he hl hn hw, ?_, ?_⟩
  · intro s e g rs me kinds counts noinnets path fallback he hp hk hg begins agree go
    have hb : begins = _ := instance_begins kinds counts noinnets path fallback he hp hk hg
    have hgo : s.groupChanged e = false → s.groupBad e.world g rs = none → agree e.cmd.groupKind kinds →
        (e.cmd = .areduce → agree e.countOp counts) → begins = _ := fun hch hbad ha hc =>
      instance_agrees noinnets path fallback he hp hk hg hch hbad ha hc
    refine ⟨fun hch => by rw [hb, if_pos hch], fun hch i hbad => by rw [hb, hch, hbad]; rfl, fun hch hbad => ⟨fun ha => ?_,
      fun ha har hc => ?_, fun ha hgang => ?_, fun ha ha2 => ⟨fun hl => ?_, fun s1 l hl hr => ?_⟩, fun ha har hc hme hl s1 l hr => ?_,
      fun ha har hc hme pa fb hpath => ?_⟩⟩
    · have : (ownIn kinds me e.cmd.groupKind e.cmd.groupKind rs.length).any (· != e.cmd.groupKind) = true := by
        rw [← Bool.not_eq_false, ownIn_agree]
        exact ha
      rw [hb, hch, hbad, this]
      rfl
    · have hany : (ownIn counts me e.countOp e.countOp rs.length).any (· != e.countOp) = true := by
        rw [← Bool.not_eq_false, ownIn_agree]
        exact hc
      rw [hb, hch, hbad, (ownIn_agree ..).mpr ha, hany, har]
      rfl
    · rw [hgo hch hbad ha (by rw [hgang]; exact fun h => nomatch h)]
      unfold State.instanceGo
      rw [hgang]
    · rw [hgo hch hbad ha (by rw [ha2]; exact fun h => nomatch h)]
      unfold State.instanceGo State.a2avStarted
      simp only [ha2, hl, if_true]
      rfl
    · rw [hgo hch hbad ha (by rw [ha2]; exact fun h => nomatch h)]
      unfold State.instanceGo
      simp only [ha2, hl, if_false, a2av_starts hl hr]
      rfl
    · rw [hgo hch hbad ha fun _ => hc]
      unfold State.instanceGo
      simp only [har, hme, if_false, areduce_starts hl hr]
    · intro chosen
      subst hme
      refine ⟨fun hl => ?_, fun s1 l hl hr => ?_⟩ <;> rw [hgo hch hbad ha fun _ => hc] <;> unfold State.instanceGo
      · simp only [har, if_true, hpath, areduce_alone hl]
        rfl
      · simp only [har, if_true, hpath, areduce_starts hl hr]
        rfl
  · intro s e metas g rs me s1 l he hp hg
    refine ⟨fun hch => (changed_ends metas [] hp hch).1 he, fun hch hr => ?_⟩
    intro own ms got
    refine ⟨fun st f hv => ?_, fun s2 s3 ls r hv hparts hw => ?_⟩
    · rw [counts_arrive he hp hg hch hr]
      dsimp only
      rw [show countVerdict _ = some (st, f) from hv]
    · rw [counts_arrive he hp hg hch hr]
      dsimp only
      rw [show countVerdict _ = none from hv]
      unfold State.engAgain
      dsimp only
      rw [hparts]
      dsimp only
      rw [hw]
  · intro s e sender bytes sent ps off s1 s2 l r he hp ht
    refine ⟨fun hch => by rw [part_placed he hp ht, if_pos hch], fun hch hr hw => ?_⟩
    rw [part_placed he hp ht, hch]
    unfold State.engAgain
    simp only [hr, hw]
    rfl
  · intro s e ls g rs me s1 s2 l r he hp hg
    refine ⟨fun hch => (changed_ends [] ls hp hch).2 he, fun hch hr => ?_⟩
    intro ks hlen out hw
    have hall : (ownIn ls me l [] rs.length).any (fun x => decide (x.length ≠ 4 * e.word 8)) = false := by
      rw [List.any_eq_false]
      exact fun k hk => by simpa using hlen k hk
    show execAreduceComplete e.id ls s = _
    unfold execAreduceComplete
    simp only [he.ready, hp, bne_self_eq_false, hch, Bool.false_eq_true, if_false, hg, hr, State.engAgain, hall]
    rw [hw]
  · intro s q w base len f hw hs hq he hm z answer refused
    obtain ⟨hrange, hperm⟩ := rmaPerform_refused hw hs hq he
    have refuses : ∀ x, s.rmaPerform q = (z, .error x) → exec (.rmaRequestReceive q) s = .next (refused x) := fun x h => by
      rw [request_answered, h]
    refine ⟨fun hlen => refuses _ (hrange hlen), fun parts hlen => ?_⟩
    intro used
    refine ⟨fun l hop hp => ?_, fun n hop hp => ?_, fun fn v c hop hp => ?_, fun l hop hp hpages => ?_, fun n hop hp hpages => ?_⟩
    · exact refuses _ (hperm hlen (by rw [hop]; exact hp))
    · exact refuses _ (hperm hlen (by rw [hop]; exact hp))
    · exact refuses _ (hperm hlen (by rw [hop]; exact hp))
    · rw [request_answered, (rmaPerform_placed hw hs he hm hlen).1 l hop hp hpages]
      simp only [List.append_nil]
      rfl
    · rw [request_answered, (rmaPerform_placed hw hs he hm hlen).2 n hop hp hpages]
  · intro s q w hw answer
    refine ⟨fun hs hq he => ?_, fun hs hq hg => ?_, fun hq => ?_⟩
    · rw [request_answered, rmaPerform_noWindow hw hs hq he]
    · rw [request_answered, rmaPerform_busy hw hs hq hg]
    · rw [request_answered, rmaPerform_flush hw hq]
      simp only [List.append_nil]
      rfl
  · intro s e old he hl
    refine ⟨fun hrv => ?_, fun hrv hloc => ?_⟩
    · rw [ratom_answers old he hl (.inl hrv), hrv]
      rfl
    · rw [ratom_answers old he hl (.inr hloc), hrv]
      rfl
  · intro s e he
    show execRflushComplete e.id s = _
    unfold execRflushComplete
    simp only [he.ready]

end Sys2Proof.Machine
end


section
/-! # Roosts and gangs -/

namespace Sys2Proof.Machine

/-! ## What reading a descriptor and sending a message change -/

/-- Reads of the device for its own purposes and packets that go out change the translation buffers, the caches, the agenda,
the counters and the connections, and nothing of what work there is. -/
def Traffic (s z : State) : Prop :=
  ∃ agenda touched lines flying l1 worlds plat nextId freeCtr outbox, z = { s with
    agenda
    touched
    lines
    flying
    l1
    worlds
    plat
    nextId
    freeCtr
    outbox }

theorem Traffic.refl (s : State) : Traffic s s := ⟨_, _, _, _, _, _, _, _, _, _, rfl⟩

theorem Traffic.trans {a b c : State} (h : Traffic a b) (h' : Traffic b c) : Traffic a c := by
  obtain ⟨_, _, _, _, _, _, _, _, _, _, rfl⟩ := h
  obtain ⟨_, _, _, _, _, _, _, _, _, _, rfl⟩ := h'
  exact ⟨_, _, _, _, _, _, _, _, _, _, rfl⟩

theorem Traffic.entries {s z : State} (h : Traffic s z) : z.entries = s.entries := by
  obtain ⟨_, _, _, _, _, _, _, _, _, _, rfl⟩ := h
  rfl

theorem Traffic.of_fst {α : Type} {s z : State} {p : State × α} {x : α} (hp : p = (z, x)) (h : Traffic s p.1) : Traffic s z := by
  rw [hp] at h
  exact h

theorem Traffic.foldl {α : Type} {f : State → α → State} (hf : ∀ s a, Traffic s (f s a)) (l : List α) (s : State) :
    Traffic s (l.foldl f s) := by
  induction l generalizing s with
  | nil => exact .refl s
  | cons a l ih => exact (hf s a).trans (ih _)

theorem onWorld_traffic (s : State) (w : Nat) (f : World → World) : Traffic s (s.onWorld w f) := ⟨_, _, _, _, _, _, _, _, _, _, rfl⟩
theorem onPeer_traffic (s : State) (peer : Nat) (f : Peer → Peer) : Traffic s (s.onPeer peer f) := ⟨_, _, _, _, _, _, _, _, _, _, rfl⟩
theorem free_traffic (s : State) : Traffic s s.free.2 := ⟨_, _, _, _, _, _, _, _, _, _, rfl⟩
theorem fresh_traffic (s : State) : Traffic s s.fresh.2 := ⟨_, _, _, _, _, _, _, _, _, _, rfl⟩
theorem post_traffic (s : State) (e : Event) : Traffic s (s.post e) := ⟨_, _, _, _, _, _, _, _, _, _, rfl⟩
theorem send_traffic (s : State) (m : Msg) : Traffic s (s.send m) := ⟨_, _, _, _, _, _, _, _, _, _, rfl⟩
theorem useNp_traffic (s : State) (write : Bool) (pa len : Nat) : Traffic s (s.useNp write pa len) :=
  ⟨_, _, _, _, _, _, _, _, _, _, rfl⟩

theorem arm_traffic (s : State) (e : Event) : Traffic s (s.arm e) := by
  unfold State.arm
  split
  · exact .refl s
  · exact post_traffic s e

theorem touchLeaf_traffic (s : State) (wn : Nat) (l : Leaf) : Traffic s (s.touchLeaf wn l) := by
  unfold State.touchLeaf
  split
  · exact .refl s
  · split
    · split
      · exact .refl s
      · exact ⟨_, _, _, _, _, _, _, _, _, _, rfl⟩
    · exact .refl s

/-- A walk samples at most one free value, and fills the buffers of its world. -/
theorem translate_traffic (s : State) (wn core va : Nat) : Traffic s (s.translate wn core va).1 := by
  have sampled : Traffic s (if s.someTorn = true then s.free else (s.freeCtr, s)).2 := by
    split
    · exact free_traffic s
    · exact .refl s
  unfold State.translate
  split
  · exact .refl s
  · split
    · exact .refl s
    · dsimp only
      split
      · dsimp only
        split
        · exact .refl s
        · exact onWorld_traffic ..
      · split
        · dsimp only
          split
          · exact sampled
          · exact sampled.trans (onWorld_traffic ..)
        · exact sampled
        · exact sampled.trans (onWorld_traffic ..)

theorem resolve_traffic (s : State) (wn core : Nat) (k : AccKind) (va size : Nat) : Traffic s (s.resolve wn core k va size).1 := by
  unfold State.resolve
  split
  · exact .refl s
  · split
    · exact .refl s
    · split
      · exact .of_fst ‹_› (translate_traffic ..)
      · exact (Traffic.of_fst ‹_› (translate_traffic ..)).trans (touchLeaf_traffic ..)

theorem engPart_traffic (s : State) (wn core : Nat) (k : AccKind) (va n : Nat) : Traffic s (s.engPart wn core k va n).1 := by
  unfold State.engPart
  split <;> exact .of_fst ‹_› (resolve_traffic ..)

theorem engTargets_traffic (s : State) (wn core : Nat) (k : AccKind) (l : List (Nat × Nat)) :
    Traffic s (s.engTargets wn core k l).1 := by
  induction l generalizing s with
  | nil => exact .refl s
  | cons p l ih =>
    obtain ⟨va, len⟩ := p
    unfold State.engTargets
    split
    · have h := Traffic.of_fst ‹_› (engPart_traffic s wn core k va len)
      split <;> exact h.trans (.of_fst ‹_› (ih _))
    · exact .of_fst ‹_› (engPart_traffic ..)
    · have h := Traffic.of_fst ‹_› (engPart_traffic s wn core k va len)
      split <;> exact h.trans (.of_fst ‹_› (ih _))
    · exact .of_fst ‹_› (engPart_traffic ..)

theorem devTouch_traffic (s : State) (wn va n : Nat) : Traffic s (s.devTouch wn va n) := by
  unfold State.devTouch
  split
  · exact (Traffic.of_fst ‹_› (engTargets_traffic ..)).trans (.foldl (fun _ _ => useNp_traffic ..) _ _)
  · exact .of_fst ‹_› (engTargets_traffic ..)

theorem touchLaunch_traffic (s : State) (wn va : Nat) : Traffic s (s.touchLaunch wn va) := by
  unfold State.touchLaunch
  split
  · exact .refl s
  · split
    · exact devTouch_traffic ..
    · split
      · exact .refl s
      · exact .foldl (fun _ _ => devTouch_traffic ..) _ _

theorem route_traffic (s : State) (cls peer : Nat) : Traffic s (s.route cls peer).1 := by
  unfold State.route
  split
  · exact free_traffic s
  · exact onPeer_traffic s peer fun p => p.setFlow cls (s.rodFlow cls peer).1 (s.rodFlow cls peer).2

theorem countPacket_traffic (s : State) (peer : Nat) : Traffic s (s.countPacket peer) := by
  unfold State.countPacket
  dsimp only
  split
  · exact onPeer_traffic ..
  · exact (onPeer_traffic ..).trans (arm_traffic ..)

theorem sendPiece_traffic (s : State) (cls peer owner part off len : Nat) : Traffic s (s.sendPiece cls peer owner part off len) :=
  (fresh_traffic s).trans <| (route_traffic ..).trans <| (onPeer_traffic ..).trans <| (post_traffic ..).trans <|
    (send_traffic ..).trans (countPacket_traffic ..)

theorem say_traffic (s : State) (cls peer owner part : Nat) (bytes : List Byte) : Traffic s (s.say cls peer owner part bytes) :=
  (send_traffic ..).trans (.foldl (fun _ _ => sendPiece_traffic ..) _ _)

/-- A gang command is found among the entries alone. -/
theorem gangEntry_of_entries {s z : State} (h : z.entries = s.entries) (wn tick : Nat) : z.gangEntry wn tick = s.gangEntry wn tick := by
  unfold State.gangEntry
  rw [h]

/-! ## Gangs -/

/-- A rank answers a prepare that no gang command of its own waits for: what it refuses, or 0 with its cores kept (R292, R346). -/
theorem prepare_answers {s : State} {w ldesc tick queue : Nat} (issuer : Nat) (hg : s.gangEntry w tick = none) :
    exec (.gangPrepare w ldesc tick queue issuer) s = .next (
      let z := s.touchLaunch w ldesc
      match s.gangCheck w ldesc tick queue with
      | .error x => z.say clsGang (rankPeer (z.jobIn w) issuer) 0 0 (leBytes 8 tick ++ leBytes 1 x)
      | .ok (d, cores) => State.say { z with
          nextId := z.nextId + 1
          gangs := z.gangs ++ [⟨z.nextId, w, queue, tick, d, false, cores, 0⟩] }
          clsGang (rankPeer (z.jobIn w) issuer) 0 0 (leBytes 8 tick ++ leBytes 1 0)) := by
  have hz : (s.touchLaunch w ldesc).gangEntry w tick = none :=
    (gangEntry_of_entries (touchLaunch_traffic s w ldesc).entries w tick).trans hg
  show execGangPrepare w ldesc tick queue issuer s = _
  unfold execGangPrepare
  cases hc : s.gangCheck w ldesc tick queue with
  | error x =>
    dsimp only
    rw [gangEntry_of_entries (say_traffic ..).entries, hz]
  | ok p =>
    dsimp only
    rw [gangEntry_of_entries (say_traffic ..).entries]
    unfold State.gangEntry at hz ⊢
    dsimp only [State.fresh]
    rw [hz]
    rfl

/-- The first refusal among the ranks' answers: none where every answer is 0. -/
theorem firstRefusal_none {l : List Nat} (h : ∀ k ∈ l, k = 0) : firstRefusal l = none := by
  unfold firstRefusal
  rw [Option.map_eq_none_iff, List.find?_eq_none]
  rintro ⟨k, i⟩ hp
  simpa using h k (List.fst_mem_of_mem_zipIdx hp)

/-- The first answer that is not 0 is the first refusal. -/
theorem firstRefusal_first {l : List Nat} {rank : Nat} (hr : rank < l.length) (h : l.getD rank 0 ≠ 0)
    (hb : ∀ k, k < rank → l.getD k 0 = 0) : firstRefusal l = some (rank, l.getD rank 0) := by
  have hget : l.getD rank 0 = l[rank] := getD_listed _ hr
  have hfind : l.zipIdx.find? (fun p => decide (p.1 ≠ 0)) = some (l.getD rank 0, rank) := by
    rw [List.find?_eq_some_iff_getElem]
    refine ⟨by simpa using h, rank, by simpa using hr, by rw [List.getElem_zipIdx, hget, Nat.zero_add], fun j hj => ?_⟩
    have := hb j hj
    simp only [List.getElem_zipIdx, Nat.zero_add]
    rw [getD_listed _ (Nat.lt_trans hj hr)] at this
    simp [this]
  unfold firstRefusal
  rw [hfind]
  rfl

/-- The decision of a gang whose group is whole: commit, or abort with the first refusal (R292). -/
theorem gang_decides {s : State} {e : Entry} {g : List Byte} {rs : List Nat} {me : Nat} {reasons all : List Nat}
    (he : Running s e .gang) (hp : e.progress = [1]) (hg : s.groupOf e.world e.group = some (g, rs, me))
    (hch : s.groupChanged e = false) (ha : all = ownIn reasons me (if (s.gangFor e.world (e.word 6 + 2 ^ 32 * e.word 7)).isSome then 0
      else if e.aux = 0 then refLate else e.aux.toNat) refLate rs.length) :
    (∀ x, (∀ k ∈ all, k = 0) → s.gangFor e.world (e.word 6 + 2 ^ 32 * e.word 7) = some x → exec (.gangDecision e.id reasons) s =
      .next (((s.onEntry e.id fun e => { e with progress := [1, 1] }).gangSay e sayCommit 0 0).arm (.gangCommit x.id))) ∧
    (∀ rank, rank < all.length → all.getD rank 0 ≠ 0 → (∀ k, k < rank → all.getD k 0 = 0) → exec (.gangDecision e.id reasons) s =
      .next (((s.dropGangs e).gangSay e sayAbort (all.getD rank 0) rank).finishEntry e.id stLaunchRefused (all.getD rank 0) 0 rank 0)) := by
  refine ⟨fun x hall hx => ?_, fun rank hr h hb => ?_⟩ <;> show execGangDecision e.id reasons s = _ <;> unfold execGangDecision <;>
    simp only [he.ready, hp, bne_self_eq_false, hch, Bool.false_eq_true, if_false, hg]
  · rw [← ha, firstRefusal_none hall]
    simp only [hx]
  · rw [← ha, firstRefusal_first hr h hb]

theorem gang_commits {s : State} {g : Gang} (hg : s.gangs.find? (·.id == g.id) = some g) (hc : g.committed = false)
    {p : Word × State} (hp : p = State.acceptLaunch { s.sampleTime with nextId := s.sampleTime.nextId + 1 } g.world g.queue g.desc
      s.sampleTime.plat.devtime.toNat s.sampleTime.nextId fun l => { l with
        gang := true
        gangTick := g.tick })
    {t : State} (ht : t = State.arm { p.2 with gangs := p.2.gangs.map fun (x : Gang) => if x.id == g.id then { x with
      committed := true
      handle := p.1 } else x } (.gangTickDispatch g.id)) (he : t.gangEntry g.world g.tick = none) :
    exec (.gangCommit g.id) s = .next t := by
  subst hp ht
  show execGangCommit g.id s = _
  unfold execGangCommit
  rw [hg]
  simp only [hc, Bool.false_eq_true, if_false]
  split
  · exact absurd (Eq.trans (Eq.symm ‹_›) he) (Option.some_ne_none _)
  · rfl

/-! ## Roosts -/

theorem cxlTier_arm (s : State) (e : Event) : (s.arm e).cxlTier = s.cxlTier := by
  unfold State.cxlTier
  rw [State.arm_plat]

/-- An answer to a rouse that no command of this device carries goes to its sender. -/
theorem rouse_answered {s : State} {roost sender : Nat} {payload : BitVec 64} {st reason : Nat}
    (ha : s.rouseAnswer roost = (st, reason)) (hst : st ≠ stDone) (hl : s.localRouse roost payload = none) :
    exec (.rouseArrive roost payload sender) s = .next (s.answerRouse roost sender st reason) := by
  show execRouseArrive roost payload sender s = _
  unfold execRouseArrive
  rw [ha]
  cases s.roostOf roost <;> simp only [hst, if_false, hl]

/-- A rouse that is accepted starts the ascent before it is answered (R290). -/
theorem rouse_accepted {s : State} {roost sender : Nat} {payload : BitVec 64} {r : Roost} (hs : s.saving = false)
    (hr : s.roostOf roost = some r) (h1 : r.st ≠ .roused) (h2 : r.st ≠ .queued)
    (hl : (s.rouse r payload).localRouse roost payload = none) :
    exec (.rouseArrive roost payload sender) s = .next ((s.rouse r payload).answerRouse roost sender stDone 0) := by
  have ha : s.rouseAnswer roost = (stDone, 0) := by
    unfold State.rouseAnswer
    simp only [hs, Bool.false_eq_true, if_false, hr, h1, h2, decide_false, Bool.or_self]
  show execRouseArrive roost payload sender s = _
  unfold execRouseArrive
  rw [ha]
  simp only [hr, if_true, hl]

theorem contBegun_not (s : State) (id : Nat) :
    (!s.contBegun id) = s.launches.all fun l => l.roost != some id || l.next == 0 := by
  unfold State.contBegun
  rw [List.not_any_eq_all_not]
  congr 1
  funext l
  rw [Bool.not_and]
  cases l.next <;> simp [bne]

/-- Settles O43: one case for each of the events. -/
theorem roostsAndGangs : Obligations.RoostsAndGangs := by
  refine ⟨?_, ?_, ?_, ?_, ?_, ?_, ?_, ?_, ?_, ?_, ?_⟩
  · intro s e he
    refine ⟨fun hq => ?_, fun q hq => ⟨fun r hr => ?_, fun hr => ?_⟩⟩ <;> show execRoostRegistered e.id s = _ <;>
      unfold execRoostRegistered <;> simp only [he.ready, hq, Option.isNone_none, Option.isNone_some, if_true, Bool.false_eq_true, if_false]
    · rw [hr]
      rfl
    · rw [hr, word_low, word_low]
      rfl
  · intro s roost payload sender hl answer
    refine ⟨fun hs => rouse_answered ?_ (by decide) hl, fun hs hr => rouse_answered ?_ (by decide) hl, fun r hs hr => ⟨fun hst =>
      rouse_answered ?_ (by decide) hl, fun h1 h2 hl => rouse_accepted hs hr h1 h2 hl⟩⟩ <;> unfold State.rouseAnswer <;>
      simp only [hs, if_true, Bool.false_eq_true, if_false]
    · rw [hr]
    · rw [hr]
      exact if_pos (by simpa using hst)
  · intro s w ldesc tick queue issuer hg z
    exact ⟨fun x hc => by rw [prepare_answers issuer hg, hc], fun d cores hc => by rw [prepare_answers issuer hg, hc]⟩
  · intro s e reasons he hp hch
    show execGangDecision e.id reasons s = _
    unfold execGangDecision
    simp only [he.ready, hp, bne_self_eq_false, hch, Bool.false_eq_true, if_false, if_true]
    rfl
  · intro s e reasons g rs me he hp hg tick mine all say
    exact ⟨fun hch x hall hx => (gang_decides he hp hg hch rfl).1 x hall hx,
      fun hch rank hr h hb => (gang_decides he hp hg hch rfl).2 rank hr h hb⟩
  · intro s g hg
    refine ⟨fun hc => ?_, fun hc => ?_⟩
    · intro z p t ht
      exact gang_commits hg hc rfl rfl ht
    show execGangTickDispatch g.id s = _
    unfold execGangTickDispatch
    rw [hg]
    simp only [hc, Bool.not_true, Bool.false_eq_true, if_false]
  · intro s a z
    have hz : z.gangEntry a.world a.tick = s.gangEntry a.world a.tick := rfl
    refine ⟨fun h => ?_, fun e h => ?_⟩ <;> show execGangAbort a s = _ <;> unfold execGangAbort <;> dsimp only <;>
      rw [show State.gangEntry _ a.world a.tick = _ from hz, h]
  · intro s id r hr hh
    refine ⟨fun h => ?_, fun h => ?_, fun h => ?_⟩
    · show execRoostT1Expiry id s = _
      unfold execRoostT1Expiry
      rw [hr]
      simp only [hh, h, Bool.false_eq_true, if_false]
      rw [cxlTier_arm]
      rfl
    · show execRoostT2Expiry id s = _
      unfold execRoostT2Expiry
      rw [hr]
      simp only [hh, h, Bool.false_or]
      rfl
    · show execRoostT2Expiry id s = _
      unfold execRoostT2Expiry
      rw [hr]
      simp only [hh, h, Bool.false_or]
      rfl
  · intro s id page ok r t z ht hr
    have h4 : ¬tierKind t < 4 := by omega
    have h5 : ¬tierKind t = 5 := by omega
    show execPageDescentDone id page ok s = _
    unfold execPageDescentDone
    cases hk : s.itemKept id page with
    | false =>
      have hz : z = s.itemFreed id page := if_pos hk
      rw [hz] at hr ⊢
      refine (if_neg h4).trans ?_
      simp only [Bool.not_false, if_true, hr, Bool.or_eq_true, beq_iff_eq]
      split <;> rfl
    | true =>
      have hz : z = _ := if_neg (by rw [hk]; decide)
      rw [hz] at hr ⊢
      refine (if_neg h4).trans ?_
      simp only [Bool.not_true, Bool.false_eq_true, if_false, show ¬tierKind (s.itemTier id page) = 5 from h5, decide_false,
        Bool.false_and]
      rw [show State.roostOf _ id = some r from hr]
      simp only [Bool.or_eq_true, beq_iff_eq]
      split <;> rfl
  · intro s id page ht hk
    show execPageAscentDone id page s = _
    unfold execPageAscentDone
    simp only [ht, ne_eq, not_true_eq_false, if_false, hk, Bool.not_false, if_true]
  · intro s id page ht hk job out
    refine ⟨fun h => ?_, fun h => ?_⟩
    · have hany : (out.any fun x => (s.ascendsTo id job x.1).isNone) = true := by
        rw [List.any_eq_true]
        simpa using h
      show execPageAscentDone id page s = _
      unfold execPageAscentDone
      simp only [ht, ne_eq, not_true_eq_false, if_false, hk, Bool.not_true, Bool.false_eq_true]
      exact if_pos hany
    · intro going held z z' kept y
      have hany : (out.any fun x => (s.ascendsTo id job x.1).isNone) = false := by
        rw [List.any_eq_false]
        exact fun x hx => by simpa using h x hx
      show execPageAscentDone id page s = _
      unfold execPageAscentDone
      simp only [ht, ne_eq, not_true_eq_false, if_false, hk, Bool.not_true, Bool.false_eq_true, contBegun_not]
      refine (if_neg (by rw [hany]; decide)).trans ?_
      have hy : (if (!held) = true then z' else kept) = y := by
        simp only [y]
        cases held <;> rfl
      exact congrArg (fun v : State => Host.Outcome.next (if going = true then (v.startAscents id).roostReady id else v)) hy

end Sys2Proof.Machine
end


section
/-! # Queues, the dispatcher, pre-emption for a starving launch and the throttle -/

namespace Sys2Proof.Machine

/-! ## Sorting by a relation -/

theorem insertLeft_mem {α : Type} (lt : α → α → Bool) (x y : α) (l : List α) :
    y ∈ sortBy.insertLeft lt x l ↔ y = x ∨ y ∈ l := by
  induction l with
  | nil => simp [sortBy.insertLeft]
  | cons z r ih =>
    unfold sortBy.insertLeft
    split
    · rw [List.mem_cons, ih, List.mem_cons]
      exact or_left_comm
    · exact List.mem_cons

theorem sortBy_mem {α : Type} (lt : α → α → Bool) (y : α) (l : List α) : y ∈ sortBy lt l ↔ y ∈ l := by
  induction l with
  | nil => rfl
  | cons x r ih =>
    show y ∈ sortBy.insertLeft lt x (sortBy lt r) ↔ _
    rw [insertLeft_mem, ih, List.mem_cons]

/-- Sorting puts no element after one that it stands before, where the relation is a strict weak order on the list. -/
theorem sortBy_pairwise {α : Type} {lt : α → α → Bool} {l : List α} (hasymm : ∀ a ∈ l, ∀ b ∈ l, lt a b = true → lt b a = false)
    (htrans : ∀ a ∈ l, ∀ b ∈ l, ∀ c ∈ l, lt b a = false → lt c b = false → lt c a = false) :
    (sortBy lt l).Pairwise fun a b => lt b a = false := by
  have inserted : ∀ (r : List α) (x : α), x ∈ l → (∀ y ∈ r, y ∈ l) → (r.Pairwise fun a b => lt b a = false) →
      (sortBy.insertLeft lt x r).Pairwise fun a b => lt b a = false := by
    intro r x hx
    induction r with
    | nil => exact fun _ _ => List.pairwise_singleton _ _
    | cons y r ih =>
      intro hr hp
      obtain ⟨hy, hp⟩ := List.pairwise_cons.mp hp
      have hyl := hr y List.mem_cons_self
      unfold sortBy.insertLeft
      split
      · next hlt =>
        refine List.pairwise_cons.mpr ⟨fun z hz => ?_, ih (fun z hz => hr z (List.mem_cons_of_mem _ hz)) hp⟩
        obtain rfl | hz := (insertLeft_mem lt x z r).mp hz
        · exact hasymm y hyl z hx hlt
        · exact hy z hz
      · next hlt =>
        have hlt : lt y x = false := eq_false_of_ne_true hlt
        refine List.pairwise_cons.mpr ⟨fun z hz => ?_, List.pairwise_cons.mpr ⟨hy, hp⟩⟩
        obtain rfl | hz := List.mem_cons.mp hz
        · exact hlt
        · exact htrans x hx y hyl z (hr z (List.mem_cons_of_mem _ hz)) hlt (hy z hz)
  have sorted : ∀ r : List α, (∀ y ∈ r, y ∈ l) → (sortBy lt r).Pairwise fun a b => lt b a = false := by
    intro r
    induction r with
    | nil => exact fun _ => List.Pairwise.nil
    | cons x r ih =>
      intro hr
      exact inserted _ x (hr x List.mem_cons_self) (fun y hy => hr y (List.mem_cons_of_mem _ ((sortBy_mem lt y r).mp hy)))
        (ih fun y hy => hr y (List.mem_cons_of_mem _ hy))
  exact sorted l fun _ h => h

/-! ## The order of victims (R344) -/

/-- What the order of victims compares of a block: its launch's priority, then, newest first, its launch and its number. -/
theorem victimBefore_iff {s : State} {a b : BUnit} {x y : Launch} (hx : s.launch a.world a.launch = some x)
    (hy : s.launch b.world b.launch = some y) (hsub : y.order = x.order → y.sub = x.sub) :
    s.victimBefore a b = true ↔ x.prio < y.prio ∨ x.prio = y.prio ∧ (y.sub < x.sub ∨ y.sub = x.sub ∧
      (y.order < x.order ∨ y.order = x.order ∧ b.block < a.block)) := by
  unfold State.victimBefore Launch.earlier
  rw [hx, hy]
  simp only [Bool.or_eq_true, Bool.and_eq_true, decide_eq_true_eq, beq_iff_eq]
  omega

/-- A block that may be a victim for a launch. -/
theorem victims_iff (s : State) (l : Launch) (fresh : Bool) (u : BUnit) : u ∈ s.victims l fresh ↔
    u ∈ s.units ∧ u.world = l.world ∧ u.launch ≠ l.handle ∧ u.victim = 0 ∧ u.lastExit = false ∧
      decide (s.plat.devtime.toNat < u.since + 1000000) = fresh ∧ (∀ c ∈ s.crewsOf u.uid, c.halt = .running) ∧
      ∃ x, s.launch u.world u.launch = some x ∧ (x.gang = false ∨ x.eff ≠ 9) := by
  have hcrews : (!(s.crewsOf u.uid).any fun c => c.halt != .running) = true ↔ ∀ c ∈ s.crewsOf u.uid, c.halt = .running := by
    simp
  have hl : ((s.launch u.world u.launch).any fun x => !(x.gang && x.eff == 9)) = true ↔
      ∃ x, s.launch u.world u.launch = some x ∧ (x.gang = false ∨ x.eff ≠ 9) := by
    rw [Option.any_eq_true]
    refine exists_congr fun x => and_congr_right fun _ => ?_
    cases x.gang <;> simp
  unfold State.victims
  rw [sortBy_mem, List.mem_filter]
  simp only [Bool.and_eq_true, hcrews, hl, beq_iff_eq, bne_iff_ne, ne_eq, BUnit.mayVictim, State.freshUnit, freshFor,
    Bool.not_eq_true', decide_eq_true_eq, and_assoc]
  exact Iff.rfl

/-- The victims stand in the order of R344, where a launch's order tells when it was submitted. -/
theorem victims_ordered (s : State) (l : Launch) (fresh : Bool)
    (hsub : ∀ x ∈ s.launches, ∀ y ∈ s.launches, x.order = y.order → x.sub = y.sub) :
    (s.victims l fresh).Pairwise fun a b => ∀ x y, s.launch a.world a.launch = some x → s.launch b.world b.launch = some y →
      x.prio ≤ y.prio ∧ (x.prio = y.prio → y.sub ≤ x.sub ∧ (y.sub = x.sub → y.order ≤ x.order ∧
        (y.order = x.order → b.block ≤ a.block))) := by
  have hmem : ∀ {u : BUnit} {x : Launch}, s.launch u.world u.launch = some x → x ∈ s.launches := fun h =>
    List.mem_of_find?_eq_some h
  have hsame : ∀ {a b : BUnit} {x y : Launch}, s.launch a.world a.launch = some x → s.launch b.world b.launch = some y →
      y.order = x.order → y.sub = x.sub := fun hx hy => hsub _ (hmem hy) _ (hmem hx)
  have haslaunch : ∀ u ∈ s.victims l fresh, ∃ x, s.launch u.world u.launch = some x := fun u hu => by
    obtain ⟨-, -, -, -, -, -, -, x, hx, -⟩ := (victims_iff s l fresh u).mp hu
    exact ⟨x, hx⟩
  have hsort : (s.victims l fresh).Pairwise fun a b => s.victimBefore b a = false := by
    refine sortBy_pairwise (fun a ha b hb h => ?_) fun a ha b hb c hc h1 h2 => ?_
    · obtain ⟨x, hx⟩ := haslaunch a ((sortBy_mem ..).mpr ha)
      obtain ⟨y, hy⟩ := haslaunch b ((sortBy_mem ..).mpr hb)
      rw [victimBefore_iff hx hy (hsame hx hy)] at h
      rw [← Bool.not_eq_true, victimBefore_iff hy hx (hsame hy hx)]
      omega
    · obtain ⟨x, hx⟩ := haslaunch a ((sortBy_mem ..).mpr ha)
      obtain ⟨y, hy⟩ := haslaunch b ((sortBy_mem ..).mpr hb)
      obtain ⟨z, hz⟩ := haslaunch c ((sortBy_mem ..).mpr hc)
      rw [← Bool.not_eq_true, victimBefore_iff hy hx (hsame hy hx)] at h1
      rw [← Bool.not_eq_true, victimBefore_iff hz hy (hsame hz hy)] at h2
      rw [← Bool.not_eq_true, victimBefore_iff hz hx (hsame hz hx)]
      omega
  refine hsort.imp fun {a b} h x y hx hy => ?_
  rw [← Bool.not_eq_true, victimBefore_iff hy hx (hsame hy hx)] at h
  omega

/-- A set of blocks that may be pre-empted for a launch: there are slots for its crews, none of which resumes, and each of its
blocks may be a victim. -/
def State.mayGather (s : State) (l : Launch) (all : List BUnit) : Prop :=
  (s.crewsOfSet all).length ≤ s.slotsLeft l.world ∧ (∀ c ∈ s.crewsOfSet all, c.course ≠ .resuming) ∧
    ∀ u ∈ all, u.launch ≠ l.handle ∧ u.victim = 0 ∧ u.lastExit = false ∧ ∀ c ∈ s.crewsOf u.uid, c.halt = .running

theorem mayGather_iff (s : State) (l : Launch) (all : List BUnit) :
    (decide ((s.crewsOfSet all).length > s.slotsLeft l.world) || s.resumingIn all ||
      all.any (fun u => u.launch == l.handle || !u.mayVictim || (s.crewsOf u.uid).any fun c => c.halt != .running)) = true ↔
    ¬s.mayGather l all := by
  rw [← Bool.not_eq_false]
  refine not_congr ?_
  rw [Bool.or_eq_false_iff, Bool.or_eq_false_iff, List.any_eq_false, and_assoc]
  refine and_congr (by simp) (and_congr (by simp [State.resumingIn]) (forall₂_congr fun u _ => ?_))
  simp [BUnit.mayVictim, and_assoc]

/-- A set that may not be pre-empted is passed over. -/
theorem gather_passes {s : State} {l : Launch} {v : BUnit} {rest taken : List BUnit}
    (h : ¬s.mayGather l (s.closure (taken ++ [v]))) : s.gather l (v :: rest) taken = s.gather l rest taken :=
  if_pos ((mayGather_iff s l _).mpr h)

/-- A set that may be pre-empted is taken, and the gathering ends where the launch fits. -/
theorem gather_takes {s : State} {l : Launch} {v : BUnit} {rest taken : List BUnit}
    (h : s.mayGather l (s.closure (taken ++ [v]))) : s.gather l (v :: rest) taken =
      if (s.without (s.closure (taken ++ [v]))).fits l then some (s.closure (taken ++ [v]))
      else s.gather l rest (s.closure (taken ++ [v])) :=
  if_neg fun hbad => (mayGather_iff s l _).mp hbad h

/-! ## Requests of PREEMPT (R310, R314) -/

/-- PREEMPT is asked of one crew. -/
def State.requestCrew (s : State) (reason grace uid : Nat) : State :=
  ((s.free.2.onCrew uid fun c => { c with
    course := .requested
    preReason := reason }).async uid (mkTrap .preempt reason [grace - Config.elapsed s.free.1 % (grace + 1)]) none).arm
      (.preemptGraceExpiry uid)

/-- PREEMPT has been asked of a crew: its grace runs, its trap is due and it holds the trap where it had room. -/
def State.Asked (s : State) (reason uid : Nat) (room : Bool) : Prop :=
  .preemptGraceExpiry uid ∈ s.agenda ∧ .asyncTrapEntry uid ∈ s.agenda ∧
    ∃ c, s.crew uid = some c ∧ c.course = .requested ∧ c.preReason = reason ∧
      (room = true → ∃ a ∈ c.asyncQ, a.trap.cause = .preempt ∧ a.trap.reason = reason)

/-- What a crew holds once PREEMPT is asked of it. -/
def Crew.asked (c : Crew) (reason : Nat) (tr : Trap) : Crew :=
  let c := { c with
    course := .requested
    preReason := reason }
  if c.asyncQ.length ≥ 16 then { c with lost := c.lost + 1 } else { c with asyncQ := c.asyncQ ++ [⟨tr, none⟩] }

theorem asked_uid (c : Crew) (reason : Nat) (tr : Trap) : (c.asked reason tr).uid = c.uid := by
  unfold Crew.asked
  dsimp only
  split <;> rfl

theorem arm_mem_self (s : State) (e : Event) : e ∈ (s.arm e).agenda := by
  unfold State.arm
  split
  · next h => exact List.contains_iff_mem.mp h
  · exact List.mem_append_right _ (List.mem_singleton_self e)

theorem arm_mem_of_mem {s : State} {e x : Event} (h : x ∈ s.agenda) : x ∈ (s.arm e).agenda := by
  unfold State.arm
  split
  · exact h
  · exact List.mem_append_left _ h

theorem requestCrew_mem_of_mem {s : State} {reason grace uid : Nat} {x : Event} (h : x ∈ s.agenda) :
    x ∈ (s.requestCrew reason grace uid).agenda :=
  arm_mem_of_mem (List.mem_append_left _ h)

theorem requestCrew_crew_ne {s : State} {reason grace uid v : Nat} (h : v ≠ uid) :
    (s.requestCrew reason grace uid).crew v = s.crew v := by
  unfold State.requestCrew State.async State.crew
  rw [State.arm_crews]
  refine (State.onCrew_crew_ne _ uid v _ (fun c hc => ?_) h).trans (State.onCrew_crew_ne _ uid v _ (fun c hc => hc) h)
  split <;> exact hc

theorem requestCrew_crew {s : State} {reason grace uid : Nat} {c : Crew} (h : s.crew uid = some c) :
    ∃ tr : Trap, tr.cause = .preempt ∧ tr.reason = reason ∧ (s.requestCrew reason grace uid).crew uid = some (c.asked reason tr) := by
  refine ⟨mkTrap .preempt reason [grace - Config.elapsed s.free.1 % (grace + 1)], rfl, rfl, ?_⟩
  have hfree : s.free.2.crew uid = some c := h
  unfold State.requestCrew State.async State.crew
  rw [State.arm_crews]
  refine (State.onCrew_crew _ uid _ fun c hc => ?_).trans ?_
  · split <;> exact hc
  · rw [State.onCrew_crew _ uid (fun c => { c with
      course := .requested
      preReason := reason }) fun c hc => hc, hfree]
    rfl

theorem requestCrew_asked {s : State} {reason grace uid : Nat} {c : Crew} (h : s.crew uid = some c) :
    (s.requestCrew reason grace uid).Asked reason uid (decide (c.asyncQ.length < 16)) := by
  obtain ⟨tr, hcause, hreason, hc⟩ := requestCrew_crew (reason := reason) (grace := grace) h
  refine ⟨arm_mem_self _ _, arm_mem_of_mem (List.mem_append_right _ (List.mem_singleton_self _)), _, hc, ?_⟩
  unfold Crew.asked
  dsimp only
  split
  · next hfull => exact ⟨rfl, rfl, fun hroom => absurd (of_decide_eq_true hroom) (Nat.not_lt.mpr hfull)⟩
  · exact ⟨rfl, rfl, fun _ => ⟨_, List.mem_append_right _ (List.mem_singleton_self _), hcause, hreason⟩⟩

/-- A further request keeps what an earlier one of the same reason has left. -/
theorem State.Asked.requestCrew {s : State} {reason grace uid v : Nat} {room : Bool} (h : s.Asked reason v room) :
    (s.requestCrew reason grace uid).Asked reason v room := by
  obtain ⟨h1, h2, c, hc, hcourse, hreason, hroom⟩ := h
  refine ⟨requestCrew_mem_of_mem h1, requestCrew_mem_of_mem h2, ?_⟩
  by_cases hv : v = uid
  · subst hv
    obtain ⟨tr, -, -, hc'⟩ := requestCrew_crew (reason := reason) (grace := grace) hc
    refine ⟨_, hc', ?_⟩
    unfold Crew.asked
    dsimp only
    split
    · exact ⟨rfl, rfl, hroom⟩
    · refine ⟨rfl, rfl, fun h => ?_⟩
      obtain ⟨a, ha, hp⟩ := hroom h
      exact ⟨a, List.mem_append_left _ ha, hp⟩
  · exact ⟨c, (requestCrew_crew_ne hv).trans hc, hcourse, hreason, hroom⟩

theorem foldl_requestCrew_asked {reason grace uid : Nat} {c : Crew} (l : List Crew) {s : State}
    (h : s.Asked reason uid (decide (c.asyncQ.length < 16)) ∨ s.crew uid = some c ∧ ∃ d ∈ l, d.uid = uid) :
    (l.foldl (fun s d => s.requestCrew reason grace d.uid) s).Asked reason uid (decide (c.asyncQ.length < 16)) := by
  induction l generalizing s with
  | nil => exact h.resolve_right fun ⟨_, d, hd, _⟩ => absurd hd List.not_mem_nil
  | cons x l ih =>
    refine ih ?_
    obtain h | ⟨hc, d, hd, hu⟩ := h
    · exact .inl h.requestCrew
    · by_cases hx : x.uid = uid
      · exact .inl (hx ▸ requestCrew_asked (hx ▸ hc))
      · obtain rfl | hd := List.mem_cons.mp hd
        · exact absurd hu hx
        · exact .inr ⟨(requestCrew_crew_ne (Ne.symm hx)).trans hc, d, hd, hu⟩

/-- The blocks of a set are marked and their bursts held before PREEMPT is asked of their crews. -/
theorem markSet_crews (id : Nat) (l : List BUnit) (s : State) :
    (l.foldl (fun s u => (s.onUnit u.uid fun u => { u with victim := id }).holdBursts u.uid) s).crews = s.crews := by
  induction l generalizing s with
  | nil => rfl
  | cons u l ih => rw [List.foldl_cons, ih]; rfl

/-- PREEMPT is asked of every crew of a set that is no drip. -/
theorem requestSet_asked {s : State} {g : List BUnit} {reason grace : Nat} {c : Crew} (hc : s.crew c.uid = some c)
    (hd : c.drip = none) (hg : ∃ u ∈ g, u.uid = c.unit) :
    (s.requestSet g reason grace).Asked reason c.uid (decide (c.asyncQ.length < 16)) := by
  obtain ⟨u, hu, huid⟩ := hg
  have hmem : c ∈ s.crewsOf u.uid := by
    refine List.mem_filter.mpr ⟨List.mem_of_find?_eq_some hc, ?_⟩
    simp [hd, huid]
  have hcrews := markSet_crews s.fresh.1 g s.fresh.2
  refine foldl_requestCrew_asked _ (.inr ⟨?_, c, ?_, rfl⟩)
  · exact (congrArg (List.find? _) hcrews).trans hc
  · refine List.mem_flatMap.mpr ⟨u, hu, ?_⟩
    exact (congrArg (fun l : List Crew => c ∈ l.filter fun (d : Crew) => d.unit == u.uid && d.drip.isNone) hcrews).mpr hmem

/-! ## Queues and claims -/

/-- A queue that may take its head entry: it is enabled, holds one, has nothing live, and no boundary of it is due (R330). -/
theorem queue_takes {s : State} {w : World} {wn q : Nat} (hw : s.world wn = some w) (hen : (w.kickPage q).enable = true)
    (hne : (w.kickPage q).head ≠ (w.kickPage q).tail) (hlive : (w.kickPage q).live = 0) (hend : w.ctl.jobEnded = false)
    (hb : ∀ h, Event.kernelBoundary wn h ∈ s.agenda → (∀ l, s.launch wn (BitVec.ofNat 32 h) = some l → l.graph ≠ 0 ∨ l.queue ≠ q) ∧
      ∀ g, s.launch wn (BitVec.ofNat 32 h) = none → s.graph wn (BitVec.ofNat 32 h) = some g → g.queue ≠ q) :
    exec (.queueEntryTake wn q) s = match (w.kickPage q).heldEntries.find? (·.1 == (w.kickPage q).head) with
      | some (_, h) => .next (s.takeHeld wn q (w.kickPage q) h)
      | none => .next (s.takeKicked wn q (w.kickPage q)) := by
  have hdue : s.boundaryDue wn q = false := by
    unfold State.boundaryDue
    rw [List.any_eq_false]
    intro e he
    split
    · next v h =>
      by_cases hv : v = wn
      · subst hv
        obtain ⟨hl, hg⟩ := hb h he
        cases hlaunch : s.launch v (BitVec.ofNat 32 h) with
        | some l => simpa [Decidable.imp_iff_not_or] using hl l hlaunch
        | none =>
          cases hgraph : s.graph v (BitVec.ofNat 32 h) with
          | some g => simpa using hg g hlaunch hgraph
          | none => simp
      · simp [hv]
    · exact Bool.false_ne_true
  have hgo : (!(w.kickPage q).enable || (w.kickPage q).head == (w.kickPage q).tail || (w.kickPage q).live != 0 || w.ctl.jobEnded ||
      s.boundaryDue wn q) = false := by
    simp [hen, hne, hlive, hend, hdue]
  show execQueueEntryTake wn q s = _
  unfold execQueueEntryTake
  rw [hw]
  exact if_neg (by rw [hgo]; exact Bool.false_ne_true)

/-- A claim of a saved unit, and the freeing of a claimed one's slots, by its first image's address (R340). -/
theorem claims {s : State} {w : World} {wn : Nat} (hw : s.world wn = some w) :
    (∀ l v, s.savedAt wn w.ctl.claimimg.toNat false = some (l, v) → exec (.claimUnit wn) s =
      .next (State.unitFinished ((s.claimStat wn 0).onLaunch wn l.handle fun l => { l with
        moved := l.moved + 1
        saved := l.saved.map fun y => if y.block = v.block then { y with claimed := true } else y }) wn l.handle)) ∧
    (s.savedAt wn w.ctl.claimimg.toNat false = none → exec (.claimUnit wn) s = .next (s.claimStat wn 1)) ∧
    (∀ l v, s.savedAt wn w.ctl.claimimg.toNat true = some (l, v) → exec (.claimFree wn) s = .next (State.onLaunch
      (State.dropSaved (v.images.foldl (fun s a => s.freeSlot wn a) (s.claimStat wn 0)) v) wn l.handle fun l => { l with
        saved := l.saved.filter fun y => !(y.claimed && y.block == v.block) })) ∧
    (s.savedAt wn w.ctl.claimimg.toNat true = none → exec (.claimFree wn) s = .next (s.claimStat wn 2)) := by
  have unit : exec (.claimUnit wn) s = .next (s.claimUnit wn) := rfl
  have free : exec (.claimFree wn) s = .next (s.claimFree wn) := rfl
  unfold State.claimUnit at unit
  unfold State.claimFree at free
  rw [hw] at unit free
  refine ⟨fun l v h => ?_, fun h => ?_, fun l v h => ?_, fun h => ?_⟩
  · rw [unit]
    simp only [h]
  · rw [unit]
    simp only [h]
  · rw [free]
    simp only [h]
  · rw [free]
    simp only [h]

/-! ## The dispatcher -/

/-- The launch that a list's best is: no other has a higher effective priority. -/
theorem pickBy_before_eff {l : List Launch} {x : Launch} (h : pickBy Launch.before l = some x) : ∀ y ∈ l, y.eff ≤ x.eff := by
  induction l generalizing x with
  | nil => exact fun y hy => absurd hy List.not_mem_nil
  | cons a r ih =>
    unfold pickBy at h
    cases hr : pickBy Launch.before r with
    | none =>
      rw [hr] at h
      obtain rfl := Option.some.inj h
      have hnil : r = [] := by
        refine Decidable.byContradiction fun hne => ?_
        obtain ⟨b, -, hb⟩ := pickBy_some Launch.before hne
        exact Option.some_ne_none b (hb.symm.trans hr)
      subst hnil
      simp
    | some b =>
      rw [hr] at h
      dsimp only at h
      have hb := ih hr
      split at h
      · next hlt =>
        obtain rfl := Option.some.inj h
        have : a.eff ≤ b.eff := by
          unfold Launch.before at hlt
          simp only [Bool.or_eq_true, Bool.and_eq_true, decide_eq_true_eq, beq_iff_eq] at hlt
          omega
        exact List.forall_mem_cons.mpr ⟨this, hb⟩
      · next hlt =>
        obtain rfl := Option.some.inj h
        have : b.eff ≤ a.eff := by
          unfold Launch.before at hlt
          simp only [Bool.or_eq_true, Bool.and_eq_true, decide_eq_true_eq, beq_iff_eq] at hlt
          omega
        exact List.forall_mem_cons.mpr ⟨Nat.le_refl _, fun y hy => Nat.le_trans (hb y hy) this⟩

/-- The launch a dispatcher chooses is ready and placeable on its die, and none that is has a higher effective priority (R343). -/
theorem chosen_best {s : State} {die : Nat} {l : Launch} (h : s.chosen die = some l) :
    l ∈ s.launches ∧ s.ready l = true ∧ s.placeable l die = true ∧
      ∀ x ∈ s.launches, s.ready x = true → s.placeable x die = true → x.eff ≤ l.eff := by
  obtain ⟨hmem, hcan⟩ := List.mem_filter.mp (pickBy_mem _ h)
  obtain ⟨hready, hplace⟩ := Bool.and_eq_true_iff.mp hcan
  exact ⟨hmem, hready, hplace, fun x hx h1 h2 => pickBy_before_eff h x (List.mem_filter.mpr ⟨hx, by simp [h1, h2]⟩)⟩

/-- What a die's dispatcher does for a launch at priority 8 that finds no place (R344). -/
theorem starving {s : State} {wn : Nat} {l : Launch}
    (h : pickBy Launch.before (s.launches.filter fun l => l.world == wn && l.eff == 8 && s.ready l) = some l) :
    exec (.starvationPreempt wn) s = (if (s.fits l || s.reserved.any fun r => r.world == wn && r.launch == l.handle) = true then
        .next (s.arm (.starvationPreempt wn))
      else
        let t := (s.arm (.starvationPreempt wn)).sampleTime
        match t.gather l (t.victims l false ++ t.victims l true) [] with
        | none => .next t
        | some vs => .next ((t.perLaunch vs).foldl (fun y g => y.requestSet g 2 100) { t with
            reserved := t.reserved ++ vs.filterMap fun v => (t.launch v.world v.launch).map fun x =>
              ⟨wn, l.handle, v.uid, v.cores, x.desc⟩ })) := by
  have hwn : l.world = wn := by
    have := (List.mem_filter.mp (pickBy_mem _ h)).2
    simp only [Bool.and_eq_true, beq_iff_eq] at this
    exact this.1.1
  subst hwn
  show execStarvationPreempt l.world s = _
  unfold execStarvationPreempt
  rw [h]
  rfl

/-- The scores of a core's crews halve, and one that comes to 0 leaves (R347). -/
def halveScores (s : State) (core : Nat) : Tab Nat :=
  s.scores.filterMap fun x => if !((s.crews.filter fun c => c.core == core).map (·.uid)).contains x.1 then some x
    else if x.2 / 2 = 0 then none else some (x.1, x.2 / 2)

theorem halveScores_mem (s : State) (core uid n : Nat) : (uid, n) ∈ halveScores s core ↔ ∃ m, (uid, m) ∈ s.scores ∧
    if ∃ c ∈ s.crews, c.core = core ∧ c.uid = uid then n = m / 2 ∧ n ≠ 0 else n = m := by
  have hmine : ((s.crews.filter fun c => c.core == core).map (·.uid)).contains uid = true ↔
      ∃ c ∈ s.crews, c.core = core ∧ c.uid = uid := by
    simp [and_assoc]
  have hone : ∀ m, ((if !((s.crews.filter fun c => c.core == core).map (·.uid)).contains uid then some (uid, m)
      else if m / 2 = 0 then none else some (uid, m / 2)) = some (uid, n)) ↔
      if ∃ c ∈ s.crews, c.core = core ∧ c.uid = uid then n = m / 2 ∧ n ≠ 0 else n = m := by
    intro m
    by_cases h : ∃ c ∈ s.crews, c.core = core ∧ c.uid = uid
    · rw [if_pos h, hmine.mpr h]
      simp only [Bool.not_true, Bool.false_eq_true, if_false]
      by_cases hm : m / 2 = 0
      · simp [hm]
      · simp only [hm, if_false, Option.some.injEq, Prod.mk.injEq, true_and]
        exact ⟨fun e => ⟨e.symm, e ▸ hm⟩, fun e => e.1.symm⟩
    · rw [if_neg h, eq_false_of_ne_true fun hc => h (hmine.mp hc)]
      simp [eq_comm]
  unfold halveScores
  rw [List.mem_filterMap]
  constructor
  · rintro ⟨⟨u, m⟩, hx, h⟩
    obtain rfl : u = uid := by
      dsimp only at h
      split at h
      · exact congrArg Prod.fst (Option.some.inj h)
      · split at h
        · exact absurd h (Option.some_ne_none _).symm
        · exact congrArg Prod.fst (Option.some.inj h)
    exact ⟨m, hx, (hone m).mp h⟩
  · rintro ⟨m, hx, h⟩
    exact ⟨(uid, m), hx, (hone m).mpr h⟩

/-- Settles O44: one case for each of the events and for the rules of the choice of victims. -/
theorem scheduling : Obligations.Scheduling := by
  refine ⟨?_, ?_, ?_, fun s wn => rfl, fun s wn => rfl, fun s w wn hw => claims hw, ?_, ?_, fun s die l h => chosen_best h, ?_,
    fun s l fresh => ⟨victims_iff s l fresh, victims_ordered s l fresh, fun l' taken => rfl, ?_⟩, ?_, ?_, ?_, ?_⟩
  · intro s w wn q tail hw k
    refine ⟨fun h => ?_, fun h => ?_⟩ <;> show Host.Outcome.next (s.kickTail wn q tail) = _ <;> unfold State.kickTail <;> rw [hw]
    · exact congrArg Host.Outcome.next (if_neg (Nat.not_lt.mpr h))
    · exact congrArg Host.Outcome.next (if_pos h)
  · intro s w wn q hw k hen hne hlive hend hb
    refine ⟨fun h => ?_, fun x h hf => ?_⟩ <;> rw [queue_takes hw hen hne hlive hend hb]
    · rw [List.find?_eq_none.mpr fun x hx => by simpa using h x hx]
    · rw [show (w.kickPage q).heldEntries.find? (·.1 == (w.kickPage q).head) = some (x, h) from hf]
  · intro s w wn hw hh
    show Host.Outcome.next (s.resumeJob wn) = _
    unfold State.resumeJob
    rw [hw]
    exact congrArg Host.Outcome.next (if_pos hh)
  · intro s l hl hr heff hst
    have hgo : (l.state.ended || decide (l.state = .cancelling)) = false := by
      obtain h | h := hst <;> rw [h] <;> rfl
    show execPriorityRise l.order s = _
    unfold execPriorityRise
    rw [hl]
    simp only [hgo, hr, Bool.not_true, Bool.false_or, decide_eq_true_eq, ge_iff_le, Nat.not_le.mpr heff, Bool.false_eq_true, if_false]
    split <;> rfl
  · intro s die l cores hc hs hp
    have hany : (l.saved.any fun v => !v.claimed) = false := List.any_eq_false.mpr fun v hv => by simp [hs v hv]
    show execDispatchUnit die s = _
    unfold execDispatchUnit
    rw [hc]
    simp only [hany, Bool.false_eq_true, if_false, hp]
  · intro s wn l h z t keeps
    refine ⟨fun hf => ?_, fun hf hk hg => ?_, fun vs hf hk hg => ?_⟩ <;> rw [starving h]
    · refine if_pos ?_
      obtain h | h := hf
      · rw [h, Bool.true_or]
      · rw [show (s.reserved.any fun r => r.world == wn && r.launch == l.handle) = true from h, Bool.or_true]
    · rw [hf, show (s.reserved.any fun r => r.world == wn && r.launch == l.handle) = false from hk]
      simp only [Bool.or_self, Bool.false_eq_true, if_false]
      rw [show State.gather _ l _ [] = none from hg]
    · rw [hf, show (s.reserved.any fun r => r.world == wn && r.launch == l.handle) = false from hk]
      simp only [Bool.or_self, Bool.false_eq_true, if_false]
      rw [show State.gather _ l _ [] = some vs from hg]
  · intro v rest taken all may
    by_cases h : may
    · rw [if_neg (not_not_intro h)]
      exact gather_takes h
    · rw [if_pos h]
      exact gather_passes h
  · intro s g reason grace c hc hd hg t
    obtain ⟨h1, h2, c', hc', hcourse, hreason, hroom⟩ := requestSet_asked (reason := reason) (grace := grace) hc hd hg
    exact ⟨h1, h2, c', hc', hcourse, hreason, fun h => hroom (decide_eq_true h)⟩
  · intro s core
    exact ⟨halveScores s core, rfl, halveScores_mem s core⟩
  · intro s c hc
    refine ⟨fun h => ?_, fun low h1 h2 hlow => ?_⟩ <;> show execThrottleSwap c.uid s = _ <;> unfold execThrottleSwap <;> rw [hc]
    · exact if_pos (by simpa using h)
    · have h1 : s.swapped.contains c.uid = false := by simpa using h1
      have h2 : s.throttled.contains c.uid = true := by simpa using h2
      simp only [h1, h2, Bool.not_true, Bool.false_eq_true, if_false, hlow]
  · intro s w wn hw hend hb
    show execJobOpen wn s = _
    unfold execJobOpen
    rw [hw]
    simp only [hend, hb, Bool.not_true, Bool.or_self, Bool.false_eq_true, if_false]

end Sys2Proof.Machine
end


section
/-! # Frames, faults and services -/

namespace Sys2Proof.Machine

/-! ## Services -/

/-- An open service whose frame is being filled installs 64 KiB of data; an error of the home declines it (R381, R383). -/
theorem fill_receives {s : State} {v : Service} (hv : s.service v.id = some v) (ho : v.isOpen = true) :
    (∀ i bytes ver, v.frame = some i → bytes.length = pageBytes → (s.frame i).st = .filling →
      exec (.fillDataReceive v.id bytes false ver) s = .next ((s.onService v.id fun v => { v with upgrade := false }).install v.id i bytes ver)) ∧
    (∀ bytes ver, exec (.fillDataReceive v.id bytes true ver) s = .next (s.declineService v.id 5)) := by
  refine ⟨fun i bytes ver hi hb hf => ?_, fun bytes ver => ?_⟩
  · show execFillDataReceive v.id bytes false ver s = _
    unfold execFillDataReceive
    rw [hv]
    simp only [ho, hi, hb, hf, Bool.not_true, Bool.false_eq_true, if_false, ne_eq, not_true_eq_false, decide_false, decide_true,
      Bool.true_or, Bool.or_self]
  · show execFillDataReceive v.id bytes true ver s = _
    unfold execFillDataReceive
    rw [hv]
    simp only [ho, Bool.not_true, Bool.false_eq_true, if_false, if_true]

/-- A shard that holds no name declines an open service at once (R380). -/
theorem lookup_noHome {s : State} {v : Service} (st : Bool) (hv : s.service v.id = some v) (ho : v.isOpen = true) :
    exec (.lookupAckReceive v.id true st) s = .next (s.declineService v.id 4) := by
  show execLookupAckReceive v.id true st s = _
  unfold execLookupAckReceive
  rw [hv]
  simp only [ho, Bool.not_true, Bool.false_eq_true, if_false, if_true]

/-- A service in its fill phase learns again where its page is stored. -/
theorem lookup_filling {s : State} {v : Service} (st : Bool) (hv : s.service v.id = some v) (hp : v.phase = .fill) :
    exec (.lookupAckReceive v.id false st) s = .next (s.onService v.id fun v => { v with storage := st }) := by
  have ho : v.isOpen = true := by simp [Service.isOpen, hp]
  have hl : v.looksUp = false := by simp [Service.looksUp, hp]
  show execLookupAckReceive v.id false st s = _
  unfold execLookupAckReceive
  rw [hv]
  simp only [ho, hl, Bool.not_true, Bool.not_false, Bool.false_eq_true, if_false, if_true]

/-- A service in its lookup phase goes on to its fill, and asks a home elsewhere for a page that it reads (R380). -/
theorem lookup_answered {s : State} {v : Service} (st : Bool) (hv : s.service v.id = some v) (hp : v.phase = .lookup) :
    (∀ e, (s.fillPhase v st).dirEnt v.job v.page = some e → exec (.lookupAckReceive v.id false st) s = .next (s.fillPhase v st)) ∧
    ((s.fillPhase v st).dirEnt v.job v.page = none → exec (.lookupAckReceive v.id false st) s =
      .next (let t := { s.fillPhase v st with freeCtr := (s.fillPhase v st).freeCtr + 1 }
        let home := (if st then 3 else (Config.homeTold (s.fillPhase v st).freeCtr).1, (Config.homeTold (s.fillPhase v st).freeCtr).2)
        if v.write = true ∨ home.1 = 0 then t else (t.onService v.id fun v => { v with home := some home }).askHome v home)) := by
  have ho : v.isOpen = true := by simp [Service.isOpen, hp]
  have hl : v.looksUp = true := by simp [Service.looksUp, hp]
  refine ⟨fun e he => ?_, fun he => ?_⟩ <;> show execLookupAckReceive v.id false st s = _ <;> unfold execLookupAckReceive <;>
    rw [hv] <;> simp only [ho, hl, Bool.not_true, Bool.false_eq_true, if_false, he]
  simp only [Bool.or_eq_true, decide_eq_true_eq]
  exact (apply_ite Host.Outcome.next _ _ _).symm

/-- An attempt that times out is repeated after a back-off, three times; the fourth declines the service (R386). -/
theorem attempt_times_out {s : State} {v : Service} (p : Bool) (hv : s.service v.id = some v) (hh : v.held = false)
    (hp : v.phase = .lookup ∨ v.phase = .fill) :
    exec (.attemptTimeout v.id p) s = .next (
      let t := (s.stopAttempt v.id).onService v.id fun v => { v with attempts := v.attempts + 1 }
      if 3 ≤ v.attempts then t.declineService v.id (v.timeoutCode (p || v.pinDeferred))
      else (t.onService v.id fun x => { x with
        phase := .backoff
        resume := v.phase }).arm (.backoffExpiry v.id)) := by
  have hgo : (v.held || !(decide (v.phase = .victim) || decide (v.phase = .lookup) || decide (v.phase = .fill))) = false := by
    obtain h | h := hp <;> rw [hh, h] <;> rfl
  have hvictim : v.phase ≠ .victim := by
    obtain h | h := hp <;> rw [h] <;> decide
  show execAttemptTimeout v.id p s = _
  unfold execAttemptTimeout
  rw [hv]
  simp only [hgo, Bool.false_eq_true, if_false]
  simp only [hvictim, if_false, ge_iff_le, show 4 ≤ v.attempts + 1 ↔ 3 ≤ v.attempts by omega]
  exact (apply_ite Host.Outcome.next _ _ _).symm

/-- Ownership of a Clean frame of the same version makes it Owned-Dirty, and the waiters wake (R385, R387). -/
theorem grant_upgrades {s : State} {v : Service} {i ver : Nat} (hv : s.service v.id = some v) (ho : v.isOpen = true)
    (hu : v.upgrade = true) (hi : v.frame = some i) (hf : (s.frame i).st = .clean) (hver : (s.ownedOf v.job v.page).ver = ver) :
    exec (.grantReceive v.id ver) s = .next
      (State.runWake (State.onService (State.stopAttempt (State.arm ((s.onFrame i fun f => { f with
        st := .ownedDirty
        wr := true }).onOwned v.job v.page fun o => { o with
          ver
          tenure := true }) (.tenureEnd v.job v.page)) v.id) v.id fun x => { x with
            phase := .installed
            upgrade := false
            held := false
            attempts := 0 }) v.id) := by
  have hframe : (s.onFrame i fun f => if f.st = .clean then { f with st := .ownedDirty, wr := true } else f) =
      s.onFrame i fun f => { f with st := .ownedDirty, wr := true } := by
    exact congrArg (fun f : Frame => { s with frames := tabPut s.frames Frame.init i f }) (if_pos hf)
  show execGrantReceive v.id ver s = _
  unfold execGrantReceive
  rw [hv]
  simp only [ho, hi, hu, hf, hver, Bool.not_true, Bool.false_eq_true, if_false, decide_true, Bool.true_or, Bool.and_self, if_true]
  unfold State.upgraded
  rw [hframe]

/-! ## Errors of memory -/

/-- An uncorrectable error poisons granules of memory, or, above it, of a window or of a scratchpad (R363). -/
theorem error_poisons (s : State) {pa : Nat} (n : Nat) (h : pa < 2 ^ 48) :
    exec (.uncorrectableMemoryError pa n) s = .next ((s.poisonAt pa n).send (.firmware 2 pa)) ∧
    ∀ owner, exec (.uncorrectableMemoryError ((2 * owner + 1) * 2 ^ 48 + pa) n) s =
        .next ((s.onCrew owner fun c => c.poisonPriv pa n).send (.firmware 2 ((2 * owner + 1) * 2 ^ 48 + pa))) ∧
      exec (.uncorrectableMemoryError ((2 * owner + 2) * 2 ^ 48 + pa) n) s =
        .next ((State.onUnit { s with freeCtr := s.freeCtr + 1 } owner fun u =>
          u.breakSpad pa n s.freeCtr).send (.firmware 2 ((2 * owner + 2) * 2 ^ 48 + pa))) := by
  have hspace : ∀ k, (k * 2 ^ 48 + pa) / 2 ^ 48 = k := fun k => by omega
  have hoff : ∀ k, (k * 2 ^ 48 + pa) % 2 ^ 48 = pa := fun k => by omega
  refine ⟨?_, fun owner => ⟨?_, ?_⟩⟩
  · show execUncorrectableMemoryError pa n s = _
    unfold execUncorrectableMemoryError
    simp only [Nat.div_eq_of_lt h, if_true]
  · show execUncorrectableMemoryError _ n s = _
    unfold execUncorrectableMemoryError
    simp only [hspace, hoff, show ¬2 * owner + 1 = 0 by omega, if_false, show (2 * owner + 1) % 2 = 1 by omega, if_true,
      show (2 * owner + 1 - 1) / 2 = owner by omega]
  · show execUncorrectableMemoryError _ n s = _
    unfold execUncorrectableMemoryError
    simp only [hspace, hoff, show ¬2 * owner + 2 = 0 by omega, if_false, show ¬(2 * owner + 2) % 2 = 1 by omega,
      show (2 * owner + 2 - 1) / 2 = owner by omega]
    rfl

/-- Settles O45: one case for each of the events. -/
theorem framesAndServices : Obligations.FramesAndServices := by
  refine ⟨?_, ?_, ?_, ?_, fun s id => ⟨rfl, rfl⟩, ?_, ?_, fun s pa n h => error_poisons s n h, ?_, ?_⟩
  · intro s w wn hw
    show execInvalidationRequest wn s = _
    unfold execInvalidationRequest
    rw [hw]
    by_cases h : w.trans.queue.length < 16
    · rw [if_pos h]
      exact if_neg (Nat.not_le.mpr h)
    · rw [if_neg h]
      exact if_pos (Nat.le_of_not_lt h)
  · intro s w wn start len r hw hq t
    show execInvalidationComplete wn s = _
    unfold execInvalidationComplete
    rw [hw]
    simp only [hq, List.isEmpty_iff]
    rfl
  · intro s g s1 i fseq hg hf hstuck hckpt hpost
    show execFaultEntryPostHeld g.id s = _
    unfold execFaultEntryPostHeld
    rw [hg]
    simp only [hf, Option.isSome_none, Bool.false_eq_true, if_false, hpost]
    refine congrArg Host.Outcome.next (if_neg ?_)
    simp only [hckpt, hstuck, Bool.false_and, Bool.false_eq_true, not_false_eq_true]
  · intro s v hv
    refine ⟨fun i bytes ver ho hi hb hf => (fill_receives hv ho).1 i bytes ver hi hb hf, fun bytes ver ho => (fill_receives hv ho).2 bytes ver,
      fun i hi hh => ?_, fun st ho => lookup_noHome st hv ho, fun st hp => lookup_filling st hv hp, fun st hp => lookup_answered st hv hp,
      fun ho => ?_, fun p hh hp => ⟨fun h => ?_, fun h => ?_⟩, fun hp => ?_, fun i ver ho hu hi hf hver => grant_upgrades hv ho hu hi hf hver⟩
    · show execPostFillHoldExpiry v.id s = _
      unfold execPostFillHoldExpiry
      rw [hv]
      simp only [hi, hh, if_true]
    · show execHeldReceive v.id s = _
      unfold execHeldReceive
      rw [hv]
      exact if_pos ho
    · rw [attempt_times_out p hv hh hp]
      exact congrArg Host.Outcome.next (if_neg (Nat.not_le.mpr h))
    · rw [attempt_times_out p hv hh hp]
      exact congrArg Host.Outcome.next (if_pos h)
    · show execBackoffExpiry v.id s = _
      unfold execBackoffExpiry
      rw [hv]
      simp only [hp, bne_self_eq_false, Bool.false_eq_true, if_false]
  · intro s i hst f hpin
    show execEvictionComplete i s = _
    unfold execEvictionComplete
    simp only [hst, bne_self_eq_false, Bool.false_eq_true, if_false,
      show (s.ownedOf (s.frame i).job (s.frame i).page).pinWait = false from hpin, Bool.false_and]
    rfl
  · intro s job page i f hf hst t
    have h : s.wroteBack job page = t := by
      unfold State.wroteBack
      rw [hf]
      exact if_pos hst
    exact ⟨congrArg Host.Outcome.next h, congrArg Host.Outcome.next h⟩
  · intro s touched
    have hage : ∀ n : Nat, (if n ≥ 255 then 255 else n + 1) = min 255 (n + 1) := fun n => by split <;> omega
    show execFrameAging touched s = _
    unfold execFrameAging
    simp only [hage, Bool.or_eq_true, List.contains_iff_mem]
  · intro s w wn k b ex hw x t ha hb hex c names hnames
    have hdeclined : (names.any fun n => (t.serviceOf n.1 n.2).any fun v => v.prefetch && v.phase == .declined) = false := by
      rw [List.any_eq_false]
      intro n hn
      cases hs : t.serviceOf n.1 n.2 with
      | none => exact Bool.false_ne_true
      | some v => simpa using fun _ => hnames n hn v hs
    show execPrefetchTick wn k s = _
    unfold execPrefetchTick
    rw [hw]
    simp only [show ¬(w.stream k).ahead = 0 from ha, if_false]
    rw [show State.devRead _ wn (w.stream k).ctr 4 = some b from hb, show State.extents _ wn (w.stream k) = some ex from hex]
    dsimp only
    rw [show (List.any _ fun n => _) = false from hdeclined]
    simp only [Bool.false_eq_true, if_false, Option.isNone_iff_eq_none]
    rfl

end Sys2Proof.Machine
end


section
/-! # The directory of lines at the home and at its agents -/

namespace Sys2Proof.Machine

/-! ## Lines of a net -/

/-- A line that is put back reads as it was put: one at rest and held by none is not listed. -/
theorem line_putLine_self (n : Net) (l : Line) : (n.putLine l).line l.addr = l := by
  have hrest : (n.lines.filter (·.addr != l.addr)).find? (·.addr == l.addr) = none := by
    rw [List.find?_eq_none]
    intro x hx
    simpa using (List.mem_filter.mp hx).2
  unfold Net.line Net.putLine
  dsimp only
  split
  · next h => rw [hrest]; exact h.symm
  · rw [List.find?_append, hrest]
    simp

/-- Every other line reads as before. -/
theorem line_putLine_ne (n : Net) (l : Line) {b : Nat} (hb : b ≠ l.addr) : (n.putLine l).line b = n.line b := by
  have hrest : (n.lines.filter (·.addr != l.addr)).find? (·.addr == b) = n.lines.find? (·.addr == b) := by
    rw [List.find?_filter]
    congr 1
    funext x
    by_cases hx : x.addr = b
    · simp [hx, hb]
    · simp [hx]
  unfold Net.line Net.putLine
  dsimp only
  split
  · rw [hrest]
  · rw [List.find?_append, hrest]
    cases n.lines.find? (·.addr == b) with
    | some x => rfl
    | none => simp [Ne.symm hb]

/-- The net `n'` differs from `n` in one line, which is now `l`, and in the messages that set out. -/
def Net.To (n n' : Net) (l : Line) (out : List Event) : Prop :=
  n'.line l.addr = l ∧ (∀ b, b ≠ l.addr → n'.line b = n.line b) ∧ n'.flying = n.flying ++ out

theorem Net.To.refl {n : Net} {l : Line} (h : n.line l.addr = l) : n.To n l [] := ⟨h, fun _ _ => rfl, (List.append_nil _).symm⟩

theorem Net.To.trans {n n1 n2 : Net} {l1 l2 : Line} {o1 o2 : List Event} (h : n.To n1 l1 o1) (h' : n1.To n2 l2 o2)
    (ha : l1.addr = l2.addr) : n.To n2 l2 (o1 ++ o2) := by
  obtain ⟨-, hne, hf⟩ := h
  obtain ⟨hl, hne', hf'⟩ := h'
  exact ⟨hl, fun b hb => (hne' b hb).trans (hne b (ha ▸ hb)), by rw [hf', hf, List.append_assoc]⟩

theorem putLine_to (n : Net) (l : Line) : n.To (n.putLine l) l [] :=
  ⟨line_putLine_self n l, fun _ hb => line_putLine_ne n l hb, (List.append_nil _).symm⟩

theorem Net.To.fly {n n' : Net} {l : Line} {o : List Event} (h : n.To n' l o) (e : Event) : n.To (n'.fly e) l (o ++ [e]) := by
  obtain ⟨hl, hne, hf⟩ := h
  refine ⟨hl, hne, ?_⟩
  unfold Net.fly
  rw [hf, List.append_assoc]

theorem sendLine_to (n : Net) (l : Line) (ms : List (Nat × Snoop)) :
    n.To (n.sendLine l ms) { l with snoops := l.snoops ++ ms } (ms.map fun m => m.2.event l.addr m.1) := by
  obtain ⟨hl, hne, -⟩ := putLine_to n { l with snoops := l.snoops ++ ms }
  exact ⟨hl, hne, rfl⟩

/-! ## The home -/

/-- A home with no request waiting has nothing to do. -/
theorem homeRun_idle {n : Net} {addr : Nat} (k : Nat) (h : (n.line addr).reqs = []) : n.homeRun addr k = n := by
  cases k with
  | zero => rfl
  | succ k =>
    unfold Net.homeRun
    dsimp only
    rw [h]

/-- A home that is busy takes no request. -/
theorem homeRun_busy {n : Net} {addr : Nat} (k : Nat) (h : (n.line addr).home.busy = true) : n.homeRun addr k = n := by
  cases k with
  | zero => rfl
  | succ k =>
    unfold Net.homeRun
    dsimp only
    split
    · rfl
    · exact if_pos h

/-- The write that a home's state asks of memory. -/
def HomeSt.writes (h : HomeSt) (addr : Nat) : List Event :=
  match h with
  | .busyWb _ _ => [.homeMemoryWriteDone addr]
  | _ => []

/-- A home that is not busy serves its one request. -/
theorem homeRun_one {n : Net} {l l' : Line} {addr : Nat} {r : Req} {a : Nat} {ms : List (Nat × Snoop)} (hl : n.line addr = l)
    (hreqs : l.reqs = [(r, a)]) (hb : l.home.busy = false) (hs : l.serve r a = (l', ms)) (haddr : l'.addr = addr)
    (hdone : l'.reqs = []) (k : Nat) : n.To (n.homeRun addr (k + 1)) { l' with snoops := l'.snoops ++ ms }
      ((ms.map fun m => m.2.event addr m.1) ++ l'.home.writes addr) := by
  subst haddr
  have hsent := sendLine_to n l' ms
  have hfin : ∀ {z : Net} {o : List Event}, n.To z { l' with snoops := l'.snoops ++ ms } o → (z.line l'.addr).reqs = [] :=
    fun {z o} h => (congrArg Line.reqs h.1).trans hdone
  unfold Net.homeRun
  dsimp only
  rw [hl, hreqs]
  simp only [hb, Bool.false_eq_true, if_false, hs]
  cases hh : l'.home with
  | busyWb b set =>
    rw [homeRun_idle _ (hfin (hsent.fly _))]
    simpa only [hh, HomeSt.writes] using hsent.fly (.homeMemoryWriteDone l'.addr)
  | _ =>
    rw [homeRun_idle _ (hfin hsent)]
    simpa only [hh, HomeSt.writes, List.append_nil] using hsent

/-- A request that reaches an idle home is served at once. -/
theorem homeTake_served {n : Net} {l l' : Line} {r : Req} {a : Nat} {ms : List (Nat × Snoop)} (hl : n.line l.addr = l)
    (hreqs : l.reqs = [] ∨ l.reqs = [(r, a)]) (hb : l.home.busy = false)
    (hs : ({ l with reqs := [(r, a)] } : Line).serve r a = (l', ms)) (haddr : l'.addr = l.addr) (hdone : l'.reqs = []) :
    n.To (n.homeTake l.addr r a) { l' with snoops := l'.snoops ++ ms }
      ((ms.map fun m => m.2.event l.addr m.1) ++ l'.home.writes l.addr) := by
  have hq : (if l.reqs.contains (r, a) then l else { l with reqs := l.reqs ++ [(r, a)] }) = { l with reqs := [(r, a)] } := by
    obtain h | h := hreqs
    · rw [h]
      rfl
    · rw [h, if_pos (List.contains_iff_mem.mpr (List.mem_singleton_self _)), ← h]
  unfold Net.homeTake
  dsimp only
  rw [hl, hq]
  exact (putLine_to n { l with reqs := [(r, a)] }).trans
    (homeRun_one (l := { l with reqs := [(r, a)] }) (line_putLine_self ..) rfl hb hs haddr hdone _) haddr.symm

/-- A request that reaches a busy home waits behind those before it (R366). -/
theorem homeTake_waits {n : Net} {l : Line} {r : Req} {a : Nat} (hl : n.line l.addr = l) (hb : l.home.busy = true)
    (hr : (r, a) ∉ l.reqs) : n.To (n.homeTake l.addr r a) { l with reqs := l.reqs ++ [(r, a)] } [] := by
  have hq : (if l.reqs.contains (r, a) then l else { l with reqs := l.reqs ++ [(r, a)] }) =
      { l with reqs := l.reqs ++ [(r, a)] } := if_neg (by simpa using hr)
  have hline := line_putLine_self n { l with reqs := l.reqs ++ [(r, a)] }
  unfold Net.homeTake
  dsimp only
  rw [hl, hq, homeRun_busy _ (by rw [show Net.line _ l.addr = _ from hline]; exact hb)]
  exact putLine_to n { l with reqs := l.reqs ++ [(r, a)] }

/-! ## The step of a message -/

/-- A message that arrives in its turn changes the state as it changes the net. -/
theorem netStep_to {s : State} {e : Event} {l : Line} {out : List Event} (ht : s.net.inTurn e = true)
    (h : Net.To { s.net with flying := s.flying.erase e } (Net.deliver { s.net with flying := s.flying.erase e } e) l out) :
    LineTo s (s.netStep e) e l.addr l out := by
  obtain ⟨hl, hne, hf⟩ := h
  have hf' : (Net.deliver { s.net with flying := s.flying.erase e } e).flying = s.flying.erase e ++ out := hf
  have hlines : ∀ (o : List Event) (z : State), (o.foldl State.arm z).lines = z.lines := by
    intro o
    induction o with
    | nil => exact fun _ => rfl
    | cons x o ih => exact fun z => (ih _).trans (State.arm_lines ..)
  have hdrop : (Net.deliver { s.net with flying := s.flying.erase e } e).flying.drop (s.flying.erase e).length = out := by
    rw [hf', List.drop_left]
  have hstep : s.netStep e = out.foldl State.arm { s with
      lines := (Net.deliver { s.net with flying := s.flying.erase e } e).lines
      flying := s.flying.erase e ++ out
      l1 := if s.l1.isEmpty then s.l1 else surrender (Net.deliver { s.net with flying := s.flying.erase e } e) s.l1 } := by
    unfold State.netStep
    rw [ht]
    simp only [Bool.not_true, Bool.false_eq_true, if_false, hdrop]
    rw [hf']
  have hz : (s.netStep e).lines = (Net.deliver { s.net with flying := s.flying.erase e } e).lines := by
    rw [hstep, hlines]
  have hline : ∀ b, (s.netStep e).line b = (Net.deliver { s.net with flying := s.flying.erase e } e).line b := fun b => by
    unfold State.line State.net Net.line
    rw [hz]
    rfl
  refine ⟨(hline _).trans hl, fun b hb => (hline b).trans (hne b hb), ?_⟩
  rw [hz]
  refine hstep.trans ?_
  have hsur : surrender (s.netStep e).net s.l1 = surrender (Net.deliver { s.net with flying := s.flying.erase e } e) s.l1 := by
    unfold surrender
    simp only [show ∀ b, (s.netStep e).net.line b = _ from hline]
  rw [hsur]

/-- The net of a state from which a message has been taken. -/
def State.netLess (s : State) (e : Event) : Net := { s.net with flying := s.flying.erase e }

theorem netLess_line {s : State} {e : Event} {l : Line} (h : ArrivesAt s e l) : (s.netLess e).line l.addr = l := h.2

/-- A message that arrives in its turn moves the state as its delivery moves the net. -/
theorem arrives_to {s : State} {i : Instr} {e : Event} {l m : Line} {out : List Event} (h : ArrivesAt s e l)
    (hx : exec i s = .next (s.netStep e)) (ha : m.addr = l.addr) (hd : Net.To (s.netLess e) ((s.netLess e).deliver e) m out) :
    ∃ t, exec i s = .next t ∧ LineTo s t e l.addr m out :=
  ⟨_, hx, ha ▸ netStep_to h.1 hd⟩

/-- A table written twice with one value that is not the default is as written once. -/
theorem tabPut_idem {β : Type} [DecidableEq β] {t : Tab β} {d v : β} {k : Nat} (hv : v ≠ d) :
    tabPut (tabPut t d k v) d k v = tabPut t d k v := by
  induction t with
  | nil => simp [tabPut, hv]
  | cons p r ih =>
    obtain ⟨j, w⟩ := p
    by_cases h1 : k < j
    · simp [tabPut, h1, hv]
    · by_cases h2 : k = j
      · simp [tabPut, h2, hv]
      · simp [tabPut, h1, h2, ih]

/-- A value that is not the default is read back from any table. -/
theorem tabGet_tabPut_listed {β : Type} [DecidableEq β] {t : Tab β} {d v : β} {k : Nat} (hv : v ≠ d) :
    tabGet (tabPut t d k v) d k = v := by
  induction t with
  | nil => simp [tabPut, hv, tabGet]
  | cons p r ih =>
    obtain ⟨j, w⟩ := p
    by_cases h1 : k < j
    · simp [tabPut, h1, hv, tabGet]
    · by_cases h2 : k = j
      · simp [tabPut, h2, hv, tabGet]
      · simp [tabPut, h1, h2, tabGet, ih]

/-! ## Reads that reach a home (R367) -/

/-- A read of an agent that holds nothing is served by an idle home. -/
theorem rds_served {n : Net} {l l' : Line} {a : Nat} {ms : List (Nat × Snoop)} (hl : n.line l.addr = l) (hreqs : l.reqs = [])
    (hok : lineOk l.addr a = true) (hi : l.agent a = .i) (hb : l.home.busy = false)
    (hs : ({ l with agents := tabPut l.agents .i a .is, reqs := [(.rds, a)] } : Line).serve .rds a = (l', ms))
    (haddr : l'.addr = l.addr) (hdone : l'.reqs = []) :
    n.To (n.deliver (.homeRds l.addr a)) { l' with snoops := l'.snoops ++ ms }
      ((ms.map fun m => m.2.event l.addr m.1) ++ l'.home.writes l.addr) := by
  have hgo : (!lineOk l.addr a || !(l.agent a == .i)) = false := by
    rw [hok, hi]
    rfl
  show n.To (n.rds l.addr a) _ _
  unfold Net.rds
  rw [hl]
  dsimp only
  rw [hgo]
  exact (putLine_to n (l.setAgent a .is)).trans (homeTake_served (l := l.setAgent a .is) (line_putLine_self ..) (.inl hreqs) hb hs
    haddr hdone) haddr.symm

theorem rdx_served {n : Net} {l l' : Line} {a : Nat} {ms : List (Nat × Snoop)} (hl : n.line l.addr = l) (hreqs : l.reqs = [])
    (hok : lineOk l.addr a = true) (hi : l.agent a = .i) (hb : l.home.busy = false)
    (hs : ({ l with agents := tabPut l.agents .i a .im, reqs := [(.rdx, a)] } : Line).serve .rdx a = (l', ms))
    (haddr : l'.addr = l.addr) (hdone : l'.reqs = []) :
    n.To (n.deliver (.homeRdx l.addr a)) { l' with snoops := l'.snoops ++ ms }
      ((ms.map fun m => m.2.event l.addr m.1) ++ l'.home.writes l.addr) := by
  have hgo : (!lineOk l.addr a || !(l.agent a == .i)) = false := by
    rw [hok, hi]
    rfl
  show n.To (n.rdx l.addr a) _ _
  unfold Net.rdx
  rw [hl]
  dsimp only
  rw [hgo]
  exact (putLine_to n (l.setAgent a .im)).trans (homeTake_served (l := l.setAgent a .im) (line_putLine_self ..) (.inl hreqs) hb hs
    haddr hdone) haddr.symm

theorem rds_waits {n : Net} {l : Line} {a : Nat} (hl : n.line l.addr = l) (hok : lineOk l.addr a = true) (hi : l.agent a = .i)
    (hb : l.home.busy = true) (hr : (.rds, a) ∉ l.reqs) : n.To (n.deliver (.homeRds l.addr a))
      { l with
        agents := tabPut l.agents .i a .is
        reqs := l.reqs ++ [(.rds, a)] } [] := by
  show n.To (n.rds l.addr a) _ _
  unfold Net.rds
  rw [hl]
  dsimp only
  rw [hok, hi]
  exact (putLine_to n (l.setAgent a .is)).trans (homeTake_waits (l := l.setAgent a .is) (line_putLine_self ..) hb hr) rfl

theorem rdx_waits {n : Net} {l : Line} {a : Nat} (hl : n.line l.addr = l) (hok : lineOk l.addr a = true) (hi : l.agent a = .i)
    (hb : l.home.busy = true) (hr : (.rdx, a) ∉ l.reqs) : n.To (n.deliver (.homeRdx l.addr a))
      { l with
        agents := tabPut l.agents .i a .im
        reqs := l.reqs ++ [(.rdx, a)] } [] := by
  show n.To (n.rdx l.addr a) _ _
  unfold Net.rdx
  rw [hl]
  dsimp only
  rw [hok, hi]
  exact (putLine_to n (l.setAgent a .im)).trans (homeTake_waits (l := l.setAgent a .im) (line_putLine_self ..) hb hr) rfl

/-! ## Upgrades, write-backs and dropped lines -/

theorem upg_served {n : Net} {l l' : Line} {a : Nat} {ms : List (Nat × Snoop)} (hl : n.line l.addr = l) (hreqs : l.reqs = [])
    (hok : lineOk l.addr a = true) (hnp : a ≠ npAgent) (hso : l.agent a = .s ∨ l.agent a = .o) (hb : l.home.busy = false)
    (hs : ({ (if l.agent a == .s then l.setAgent a .sm else l) with reqs := [(.upg, a)] } : Line).serve .upg a = (l', ms))
    (haddr : l'.addr = l.addr) (hdone : l'.reqs = []) :
    n.To (n.deliver (.homeUpg l.addr a)) { l' with snoops := l'.snoops ++ ms }
      ((ms.map fun m => m.2.event l.addr m.1) ++ l'.home.writes l.addr) := by
  have hgo : (!lineOk l.addr a || a == npAgent || !(l.agent a == .s || l.agent a == .o) || l.reqs.contains (.upg, a)) = false := by
    rw [hok, hreqs]
    obtain h | h := hso <;> simp [hnp, h]
  show n.To (n.upg l.addr a) _ _
  unfold Net.upg
  rw [hl]
  dsimp only
  rw [hgo]
  split at hs
  · next h =>
    rw [if_pos h]
    exact (putLine_to n (l.setAgent a .sm)).trans (homeTake_served (l := l.setAgent a .sm) (line_putLine_self ..) (.inl hreqs) hb hs
      haddr hdone) haddr.symm
  · next h =>
    rw [if_neg h]
    exact (putLine_to n l).trans (homeTake_served (line_putLine_self ..) (.inl hreqs) hb hs haddr hdone) haddr.symm

theorem wb_served {n : Net} {l l' : Line} {a : Nat} {ms : List (Nat × Snoop)} (hl : n.line l.addr = l) (hreqs : l.reqs = [])
    (hok : lineOk l.addr a = true) (hi : l.agent a = .mi ∨ l.agent a = .oi ∨ l.agent a = .ii) (hb : l.home.busy = false)
    (hs : ({ l with reqs := [(.wb, a)] } : Line).serve .wb a = (l', ms)) (haddr : l'.addr = l.addr) (hdone : l'.reqs = []) :
    n.To (n.deliver (.homeWb l.addr a)) { l' with snoops := l'.snoops ++ ms }
      ((ms.map fun m => m.2.event l.addr m.1) ++ l'.home.writes l.addr) := by
  have hgo : (!lineOk l.addr a || !(l.agent a == .mi || l.agent a == .oi || l.agent a == .ii)) = false := by
    rw [hok]
    obtain h | h | h := hi <;> rw [h] <;> rfl
  show n.To (n.wb l.addr a) _ _
  unfold Net.wb
  rw [hl]
  dsimp only
  rw [hgo]
  exact homeTake_served hl (.inl hreqs) hb hs haddr hdone

theorem eve_served {n : Net} {l l' : Line} {a : Nat} {ms : List (Nat × Snoop)} (hl : n.line l.addr = l) (hreqs : l.reqs = [(.eve, a)])
    (hok : lineOk l.addr a = true) (hb : l.home.busy = false)
    (hs : ({ l with reqs := [(.eve, a)] } : Line).serve .eve a = (l', ms)) (haddr : l'.addr = l.addr) (hdone : l'.reqs = []) :
    n.To (n.deliver (.homeEve l.addr a)) { l' with snoops := l'.snoops ++ ms }
      ((ms.map fun m => m.2.event l.addr m.1) ++ l'.home.writes l.addr) := by
  have hgo : (!lineOk l.addr a || !(l.reqs.contains (.eve, a))) = false := by
    rw [hok, hreqs]
    simp
  show n.To (n.eve l.addr a) _ _
  unfold Net.eve
  rw [hl, hgo]
  exact homeTake_served hl (.inr hreqs) hb hs haddr hdone

/-! ## Answers that reach a home -/

theorem acks_counted {n : Net} {l l' : Line} {a : Nat} {ms : List (Nat × Snoop)} (hl : n.line l.addr = l)
    (ha : a ∈ l.acks) (hs : ({ l with acks := l.acks.filter (· != a) } : Line).acked a = (l', ms)) (haddr : l'.addr = l.addr)
    (hdone : l'.reqs = []) : n.To (n.deliver (.homeAckReceive l.addr a)) { l' with snoops := l'.snoops ++ ms }
      (ms.map fun m => m.2.event l.addr m.1) := by
  have hsent := sendLine_to n l' ms
  have hidle : ((n.sendLine l' ms).line l.addr).reqs = [] := by
    rw [← haddr]
    exact (congrArg Line.reqs hsent.1).trans hdone
  show n.To (n.homeAck l.addr a) _ _
  unfold Net.homeAck
  rw [hl]
  dsimp only
  rw [if_neg (by simpa using ha), hs]
  dsimp only
  rw [homeRun_idle _ hidle]
  rw [← haddr]
  exact hsent

theorem written_done {n : Net} {l : Line} {a : Nat} {set : List Nat} (hl : n.line l.addr = l) (hreqs : l.reqs = [])
    (hh : l.home = .busyWb a set) : n.To (n.deliver (.homeMemoryWriteDone l.addr)) { l with
      home := if set = [] then .hi else .hs set
      snoops := l.snoops ++ [(a, .wback)] } [.agentWbackReceive l.addr a] := by
  have hsent := sendLine_to n { l with home := if set.isEmpty then .hi else .hs set } [(a, .wback)]
  have hidle : ((n.sendLine { l with home := if set.isEmpty then .hi else .hs set } [(a, .wback)]).line l.addr).reqs = [] :=
    (congrArg Line.reqs hsent.1).trans hreqs
  show n.To (n.written l.addr) _ _
  unfold Net.written
  rw [hl]
  dsimp only
  rw [hh]
  dsimp only
  rw [homeRun_idle _ hidle]
  cases set <;> exact hsent

/-! ## Snoops and answers at an agent (R364, R368) -/

theorem took_addr {l m : Line} {a : Nat} {p : Snoop → Bool} {x : Snoop} (h : l.took a p = some (x, m)) : m.addr = l.addr := by
  unfold Line.took at h
  split at h
  · cases h
    rfl
  · cases h

theorem took_holds {l m : Line} {a : Nat} {p : Snoop → Bool} {x : Snoop} (h : l.took a p = some (x, m)) : p x = true := by
  unfold Line.took at h
  split at h
  · rename_i y hy
    cases h
    have := List.find?_some hy
    simp only [Bool.and_eq_true] at this
    exact this.2
  · cases h

/-- An agent in this state defers a snoop: it awaits data, or is agent 5 and uses the line. -/
def AgentSt.defers (st : AgentSt) (a : Nat) (x : Snoop) : Bool :=
  match st with
  | .is | .im => x != .inv
  | .s | .e | .m => a == npAgent
  | _ => false

/-- A snoop that an agent takes is deferred or answered. -/
theorem snooped_taken {n : Net} {l m : Line} {a : Nat} {x : Snoop} (hl : n.line l.addr = l)
    (ht : l.took a (· == x) = some (x, m)) : n.snooped l.addr a x =
      if AgentSt.defers (m.agent a) a x = true then n.putLine { m with deferred := m.deferred ++ [(a, x)] } else n.answer m a x := by
  unfold Net.snooped
  rw [hl]
  dsimp only
  rw [ht]
  dsimp only
  unfold AgentSt.defers
  cases m.agent a <;> rfl

theorem snoop_deferred {n : Net} {l m : Line} {a : Nat} {x : Snoop} (hl : n.line l.addr = l)
    (ht : l.took a (· == x) = some (x, m))
    (hw : (m.agent a = .is ∨ m.agent a = .im) ∧ x ≠ .inv ∨ a = npAgent ∧ (m.agent a = .s ∨ m.agent a = .e ∨ m.agent a = .m)) :
    n.To (n.snooped l.addr a x) { m with deferred := m.deferred ++ [(a, x)] } [] := by
  rw [snooped_taken hl ht, if_pos]
  · exact putLine_to ..
  · obtain ⟨h | h, hx⟩ | ⟨rfl, h | h | h⟩ := hw <;> rw [h] <;> simp_all [AgentSt.defers]

/-- The data that the answer to a forward brings to the requester that the line's home names. -/
def Line.forwards (l : Line) (x : Snoop) : List (Nat × Snoop) :=
  match x.data, l.requester with
  | some d, some r => [(r, d)]
  | _, _ => []

theorem snoop_answered {n : Net} {l m : Line} {a : Nat} {x : Snoop} (hl : n.line l.addr = l)
    (ht : l.took a (· == x) = some (x, m)) (ha : a ≠ npAgent) (hw : m.agent a = .is ∨ m.agent a = .im → x = .inv) :
    n.To (n.snooped l.addr a x) { m with
      agents := tabPut m.agents .i a (m.answer a x)
      acks := addAgent a m.acks
      snoops := m.snoops ++ m.forwards x } ((m.forwards x).map (fun k => k.2.event l.addr k.1) ++ [.homeAckReceive l.addr a]) := by
  have hnp : (a == npAgent) = false := by simpa using ha
  rw [snooped_taken hl ht, if_neg]
  · rw [← took_addr ht]
    exact (sendLine_to n { (m.setAgent a (m.answer a x)) with acks := addAgent a m.acks } _).fly _
  · cases h : m.agent a <;> simp_all [AgentSt.defers]

/-- What a snoop leaves of an agent that answers it (R368). -/
theorem answer_becomes {m : Line} {a : Nat} {x : Snoop} {st : AgentSt} (hu : (.upg, a) ∉ m.reqs)
    (h : x = .fwdS ∧ (m.agent a = .m ∧ st = .o ∨ m.agent a = .e ∧ st = .s ∨ m.agent a = .o ∧ st = .o ∨ m.agent a = .mi ∧ st = .mi ∨
          m.agent a = .oi ∧ st = .oi) ∨
        x ≠ .fwdS ∧ ((m.agent a = .m ∨ m.agent a = .o ∨ m.agent a = .e ∨ m.agent a = .s ∨ m.agent a = .i) ∧ st = .i ∨
          (m.agent a = .mi ∨ m.agent a = .oi) ∧ st = .ii) ∨
        x = .inv ∧ (m.agent a = .sm ∧ st = .im ∨ m.agent a = .is ∧ st = .is)) : m.answer a x = st := by
  have hgone : (if m.reqs.contains (.upg, a) then AgentSt.im else .i) = .i := if_neg (by simpa using hu)
  unfold Line.answer
  rw [hgone]
  obtain ⟨rfl, h⟩ | ⟨hx, h⟩ | ⟨rfl, h⟩ := h
  · obtain ⟨h, rfl⟩ | ⟨h, rfl⟩ | ⟨h, rfl⟩ | ⟨h, rfl⟩ | ⟨h, rfl⟩ := h <;> rw [h]
  · obtain ⟨h | h | h | h | h, rfl⟩ | ⟨h | h, rfl⟩ := h <;> rw [h] <;> cases x <;> simp_all
  · obtain ⟨h, rfl⟩ | ⟨h, rfl⟩ := h <;> rw [h]

/-- The state that data, a Grant or the answer to a request leaves an agent in (R364). -/
def Snoop.leaves (x : Snoop) (old : AgentSt) : AgentSt :=
  match x with
  | .dataS => .s
  | .dataE => .e
  | .wback | .wbstale => .i
  | .ack => old
  | _ => .m

/-- Snoops of an agent that has deferred none are none. -/
theorem undefer_none {n : Net} {l : Line} {a : Nat} (hl : n.line l.addr = l) (hd : ∀ d ∈ l.deferred, d.1 ≠ a) :
    n.To (n.undefer l.addr a) l [] := by
  have hnone : l.deferred.filter (·.1 == a) = [] := by
    rw [List.filter_eq_nil_iff]
    exact fun d hm => by simpa using hd d hm
  have hall : l.deferred.filter (·.1 != a) = l.deferred := List.filter_eq_self.mpr fun d hm => by simpa using hd d hm
  unfold Net.undefer
  rw [hl]
  dsimp only
  rw [hnone, hall]
  exact putLine_to n l

/-- A message that an agent other than 5 takes leaves it in its state, where it has deferred nothing. -/
theorem received_taken {n : Net} {l m : Line} {a : Nat} {p : Snoop → Bool} {x : Snoop} (hl : n.line l.addr = l)
    (ht : l.took a p = some (x, m)) (ha : a ≠ npAgent) (hd : ∀ d ∈ m.deferred, d.1 ≠ a) :
    n.To (n.received l.addr a p) { m with agents := tabPut m.agents .i a (x.leaves (m.agent a)) } [] := by
  have hnp : (a == npAgent) = false := by simpa using ha
  have hput := putLine_to n (m.setAgent a (x.leaves (m.agent a)))
  have hun := hput.trans (undefer_none (l := m.setAgent a (x.leaves (m.agent a))) hput.1 hd) rfl
  unfold Net.received
  rw [hl, ht]
  dsimp only
  simp only [hnp, Bool.false_and, Bool.false_or]
  rw [← took_addr ht]
  by_cases hack : x = .ack
  · subst hack
    exact hput
  · have hgo : (x == .ack) = false := by simpa using hack
    rw [hgo]
    exact hun

/-- Data for an agent that has deferred one exclusive forward: the agent passes it on (R368). -/
theorem data_passed {n : Net} {l m : Line} {a r : Nat} {left : List Nat} {grant : Bool} (hl : n.line l.addr = l)
    (ht : l.took a Snoop.isData = some (.dataM, m)) (ha : a ≠ npAgent) (hh : m.home = .busyX r left grant)
    (hd : m.deferred = [(a, .fwdX)]) (hu : (.upg, a) ∉ m.reqs) : n.To (n.received l.addr a Snoop.isData) { m with
      agents := tabPut (tabPut m.agents .i a .m) .i a .i
      deferred := []
      acks := addAgent a m.acks
      snoops := m.snoops ++ [(r, .dataM)] } [.agentDataReceive l.addr r, .homeAckReceive l.addr a] := by
  have hnp : (a == npAgent) = false := by simpa using ha
  have hput := putLine_to n (m.setAgent a .m)
  have hput2 := hput.trans (putLine_to (n.putLine (m.setAgent a .m)) { (m.setAgent a .m) with deferred := [] }) rfl
  have hans : ({ (m.setAgent a .m) with deferred := [] } : Line).answer a .fwdX = .i :=
    answer_becomes hu (.inr (.inl ⟨by decide, .inl ⟨.inl (tabGet_tabPut_listed (by decide)), rfl⟩⟩))
  have hund : (n.putLine (m.setAgent a .m)).undefer m.addr a = ((n.putLine (m.setAgent a .m)).putLine { (m.setAgent a .m) with
      deferred := [] }).answer { (m.setAgent a .m) with deferred := [] } a .fwdX := by
    have hline : (n.putLine (m.setAgent a .m)).line m.addr = m.setAgent a .m := hput.1
    have hfil : (m.setAgent a .m).deferred.filter (·.1 == a) = [(a, .fwdX)] := by
      show m.deferred.filter _ = _
      simp [hd]
    have hfil2 : (m.setAgent a .m).deferred.filter (·.1 != a) = [] := by
      show m.deferred.filter _ = _
      simp [hd]
    unfold Net.undefer
    rw [hline]
    dsimp only
    rw [hfil, hfil2]
    simp only [List.map_cons, List.map_nil, List.foldl_cons, List.foldl_nil]
    rw [show Net.line _ m.addr = _ from hput2.1]
  unfold Net.received
  rw [hl, ht]
  dsimp only
  simp only [hnp, Bool.false_and, Bool.false_or]
  rw [← took_addr ht]
  refine (show (if ((Snoop.dataM == .ack) = true) then n.putLine (m.setAgent a .m) else (n.putLine (m.setAgent a .m)).undefer m.addr a) =
    (n.putLine (m.setAgent a .m)).undefer m.addr a from rfl) ▸ ?_
  rw [hund]
  unfold Net.answer
  rw [hans]
  have hreq : ({ (m.setAgent a .m) with deferred := [] } : Line).requester = some r := by
    show m.requester = some r
    unfold Line.requester
    rw [hh]
  rw [hreq]
  exact hput2.trans ((sendLine_to _ _ _).fly _) rfl

/-- What dropping a line leaves an agent with, the requests then at the home, and the message that sets out (R368). -/
def Line.drops (l : Line) (a : Nat) (st : AgentSt) (reqs : List (Req × Nat)) (out : List Event) : Prop :=
  l.agent a = .s ∧ st = .i ∧ reqs = l.reqs ∧ out = [] ∨
    l.agent a = .e ∧ st = .i ∧ reqs = l.reqs ++ [(.eve, a)] ∧ out = [.homeEve l.addr a] ∨
    l.agent a = .m ∧ st = .mi ∧ reqs = l.reqs ∧ out = [.homeWb l.addr a] ∨
    l.agent a = .o ∧ st = .oi ∧ reqs = l.reqs ∧ out = [.homeWb l.addr a]

theorem line_dropped {n : Net} {l : Line} {a : Nat} {st : AgentSt} {reqs : List (Req × Nat)} {out : List Event}
    (hl : n.line l.addr = l) (hok : lineOk l.addr a = true) (hu : (.upg, a) ∉ l.reqs) (hd : ∀ d ∈ l.deferred, d.1 ≠ a)
    (h : l.drops a st reqs out) : n.To (n.dropLine l.addr a) { l with
      agents := tabPut l.agents .i a st
      reqs } out := by
  have hgo : (!lineOk l.addr a || l.reqs.contains (.upg, a)) = false := by
    rw [hok]
    simpa using hu
  have hfin : ∀ (z : Net) (b : Bool), n.To z { l with agents := tabPut l.agents .i a st, reqs } out →
      n.To (if b = true then z.undefer l.addr a else z) { l with agents := tabPut l.agents .i a st, reqs } out := fun z b hz => by
    cases b
    · exact hz
    · exact List.append_nil out ▸ hz.trans (undefer_none (l := { l with agents := tabPut l.agents .i a st, reqs }) hz.1 hd) rfl
  unfold Net.dropLine
  rw [hl]
  dsimp only
  rw [hgo]
  obtain ⟨ha, rfl, rfl, rfl⟩ | ⟨ha, rfl, rfl, rfl⟩ | ⟨ha, rfl, rfl, rfl⟩ | ⟨ha, rfl, rfl, rfl⟩ := h <;> rw [ha]
  · exact hfin _ _ (putLine_to n _)
  · exact hfin _ _ ((putLine_to n _).fly _)
  · exact hfin _ _ ((putLine_to n _).fly _)
  · exact hfin _ _ ((putLine_to n _).fly _)

/-! ## What a home makes of each request -/

theorem serve_rds {l : Line} {a : Nat} (set : List Nat) (o : Nat) :
    (l.home = .hi → ({ l with agents := tabPut l.agents .i a .is, reqs := [(.rds, a)] } : Line).serve .rds a =
      ({ l with agents := tabPut l.agents .i a .is, reqs := [], home := .hx a }, [(a, .dataE)])) ∧
    (l.home = .hs set → ({ l with agents := tabPut l.agents .i a .is, reqs := [(.rds, a)] } : Line).serve .rds a =
      ({ l with agents := tabPut l.agents .i a .is, reqs := [], home := .hs (addAgent a set) }, [(a, .dataS)])) ∧
    (l.home = .hx o → o ≠ a → ({ l with agents := tabPut l.agents .i a .is, reqs := [(.rds, a)] } : Line).serve .rds a =
      ({ l with agents := tabPut l.agents .i a .is, reqs := [], home := .busyF o a [] }, [(o, .fwdS)])) ∧
    (l.home = .ho o set → ({ l with agents := tabPut l.agents .i a .is, reqs := [(.rds, a)] } : Line).serve .rds a =
      ({ l with agents := tabPut l.agents .i a .is, reqs := [], home := .busyF o a set }, [(o, .fwdS)])) := by
  have hne : AgentSt.is ≠ .i := by decide
  refine ⟨fun h => ?_, fun h => ?_, fun h ho => ?_, fun h => ?_⟩
  · simp [Line.serve, Line.setAgent, tabPut_idem hne, h]
  · simp [Line.serve, Line.setAgent, tabPut_idem hne, h]
  · simp [Line.serve, Line.setAgent, tabPut_idem hne, h, ho]
  · simp [Line.serve, Line.setAgent, tabPut_idem hne, h]

/-- The home of a line that answers of `left` are awaited for before `a` has it to itself. -/
def awaiting (a : Nat) (left : List Nat) (grant : Bool) : HomeSt := if left = [] then .hx a else .busyX a left grant

theorem serve_rdx {l : Line} {a : Nat} (set : List Nat) (o : Nat) :
    (l.home = .hi → ({ l with agents := tabPut l.agents .i a .im, reqs := [(.rdx, a)] } : Line).serve .rdx a =
      ({ l with agents := tabPut l.agents .i a .im, reqs := [], home := .hx a }, [(a, .dataM)])) ∧
    (l.home = .hs set → ({ l with agents := tabPut l.agents .i a .im, reqs := [(.rdx, a)] } : Line).serve .rdx a =
      ({ l with agents := tabPut l.agents .i a .im, reqs := [], home := awaiting a (set.filter (· != a)) false },
        (a, .dataM) :: (set.filter (· != a)).map fun b => (b, .inv))) ∧
    (l.home = .hx o → o ≠ a → ({ l with agents := tabPut l.agents .i a .im, reqs := [(.rdx, a)] } : Line).serve .rdx a =
      ({ l with agents := tabPut l.agents .i a .im, reqs := [], home := .busyX a [o] false }, [(o, .fwdX)])) ∧
    (l.home = .ho o set → o ≠ a → ({ l with agents := tabPut l.agents .i a .im, reqs := [(.rdx, a)] } : Line).serve .rdx a =
      ({ l with agents := tabPut l.agents .i a .im, reqs := [],
                home := .busyX a (o :: set.filter fun b => b != a && b != o) false },
        (o, .fwdX) :: (set.filter fun b => b != a && b != o).map fun b => (b, .inv))) := by
  have hne : AgentSt.im ≠ .i := by decide
  refine ⟨fun h => ?_, fun h => ?_, fun h ho => ?_, fun h ho => ?_⟩
  · simp [Line.serve, Line.setAgent, tabPut_idem hne, h]
  · simp only [Line.serve, Line.setAgent, tabPut_idem hne, h, awaiting]
    cases set.filter (· != a) <;> simp
  · simp [Line.serve, Line.setAgent, tabPut_idem hne, h, ho]
  · simp [Line.serve, Line.setAgent, tabPut_idem hne, h, ho]

theorem serve_upg {l : Line} {a : Nat} {left set : List Nat}
    (h : l.home = .hs set ∧ a ∈ set ∧ left = set.filter (· != a) ∨
      ∃ o, l.home = .ho o set ∧ (o = a ∨ a ∈ set) ∧ left = (o :: set).filter (· != a)) :
    ({ l with reqs := [(.upg, a)] } : Line).serve .upg a = ({ l with reqs := [], home := awaiting a left true },
      if left = [] then [(a, .grant)] else left.map fun b => (b, .inv)) := by
  obtain ⟨hh, hm, rfl⟩ | ⟨o, hh, hm, rfl⟩ := h
  · simp only [Line.serve, hh, List.contains_iff_mem, hm, if_true, awaiting]
    cases set.filter (· != a) <;> simp
  · simp only [Line.serve, hh, awaiting]
    simp only [show (decide (o = a) || set.contains a) = true by simpa using hm, if_true]
    cases (o :: set).filter (· != a) <;> simp

theorem serve_wb {l : Line} {a : Nat} (set : List Nat) (o : Nat) :
    (l.home = .hx a → ({ l with reqs := [(.wb, a)] } : Line).serve .wb a = ({ l with reqs := [], home := .busyWb a [] }, [])) ∧
    (l.home = .ho a set → ({ l with reqs := [(.wb, a)] } : Line).serve .wb a = ({ l with reqs := [], home := .busyWb a set }, [])) ∧
    (l.home = .hx o → o ≠ a → ({ l with reqs := [(.wb, a)] } : Line).serve .wb a = ({ l with reqs := [] }, [(a, .wbstale)])) := by
  refine ⟨fun h => ?_, fun h => ?_, fun h ho => ?_⟩
  · simp [Line.serve, h]
  · simp [Line.serve, h]
  · simp [Line.serve, h, ho]

theorem serve_eve {l : Line} {a : Nat} :
    (l.home = .hx a → ({ l with reqs := [(.eve, a)] } : Line).serve .eve a = ({ l with reqs := [], home := .hi }, [(a, .ack)])) ∧
    (l.home ≠ .hx a → ({ l with reqs := [(.eve, a)] } : Line).serve .eve a = ({ l with reqs := [] }, [(a, .ack)])) := by
  refine ⟨fun h => ?_, fun h => ?_⟩
  · simp [Line.serve, h]
  · unfold Line.serve
    simp only [List.filter_cons, List.filter_nil, bne_self_eq_false, Bool.false_eq_true, if_false]
    cases hh : l.home with
    | hx o =>
      have : o ≠ a := fun e => h (hh.trans (congrArg HomeSt.hx e))
      simp [this, ← hh]
    | _ => simp [← hh]

/-! ## The rules of the directory -/

/-- Settles the first clause of O46: a message that comes too early waits (R366). -/
theorem early_waits {s : State} {e : Event} (h : s.net.inTurn e = false) : s.netStep e = s.arm e := by
  unfold State.netStep
  rw [h]
  rfl

/-- A home that has answered one of its snoops (R367). -/
theorem acked_busyX {l : Line} {a r : Nat} {left : List Nat} {grant : Bool} (h : l.home = .busyX r left grant) (ha : a ∈ left) :
    l.acked a = if left.filter (· != a) = [] then ({ l with home := .hx r }, if grant then [(r, .grant)] else [])
      else ({ l with home := .busyX r (left.filter (· != a)) grant }, []) := by
  unfold Line.acked
  rw [h]
  simp only [List.contains_iff_mem.mpr ha, Bool.not_true, Bool.false_eq_true, if_false, List.isEmpty_iff]

theorem acked_busyF {l : Line} {a r : Nat} {set : List Nat} (h : l.home = .busyF a r set) :
    ((l.agent a = .o ∨ l.agent a = .mi ∨ l.agent a = .oi) → l.acked a = ({ l with home := .ho a (addAgent r set) }, [])) ∧
    (l.agent a = .s → set = [] → l.acked a = ({ l with home := .hs (addAgent r [a]) }, [])) := by
  refine ⟨fun ha => ?_, fun ha hs => ?_⟩
  · unfold Line.acked
    rw [h]
    obtain ha | ha | ha := ha <;> simp [ha]
  · unfold Line.acked
    rw [h]
    simp [ha, hs]

/-- Settles O46: the messages of a home first, then those of its agents. -/
theorem homeDirectory : Obligations.HomeDirectory := by
  refine ⟨?_, ?_, ?_, ?_, ?_, ?_, ?_, fun s l a set h hreqs hh => arrives_to h rfl rfl (written_done (netLess_line h) hreqs hh), ?_, ?_, ?_⟩
  · intro s line a p hp ht
    simp only [List.mem_cons, List.not_mem_nil, or_false] at hp
    have hx : exec p.1 s = .next (s.netStep p.2) := by
      obtain rfl | rfl | rfl | rfl | rfl | rfl | rfl | rfl | rfl | rfl | rfl | rfl | rfl := hp <;> rfl
    rw [hx, early_waits ht]
  · intro s l a hreqs hok hi read rds rdx
    have hb : ∀ {h : HomeSt}, l.home = h → h.busy = false → l.home.busy = false := fun e hb => e ▸ hb
    have hrds : ∀ {home : HomeSt} {ms : List (Nat × Snoop)}, l.home.busy = false → home.writes l.addr = [] →
        ({ l with agents := tabPut l.agents .i a .is, reqs := [(.rds, a)] } : Line).serve .rds a =
          ({ l with agents := tabPut l.agents .i a .is, reqs := [], home }, ms) → rds home ms := fun {home ms} hb hw hs h => by
      refine arrives_to h rfl rfl ?_
      have := rds_served (netLess_line h) hreqs hok hi hb hs rfl rfl
      rw [hw, List.append_nil] at this
      exact hreqs ▸ this
    have hrdx : ∀ {home : HomeSt} {ms : List (Nat × Snoop)}, l.home.busy = false → home.writes l.addr = [] →
        ({ l with agents := tabPut l.agents .i a .im, reqs := [(.rdx, a)] } : Line).serve .rdx a =
          ({ l with agents := tabPut l.agents .i a .im, reqs := [], home }, ms) → rdx home ms := fun {home ms} hb hw hs h => by
      refine arrives_to h rfl rfl ?_
      have := rdx_served (netLess_line h) hreqs hok hi hb hs rfl rfl
      rw [hw, List.append_nil] at this
      exact hreqs ▸ this
    refine ⟨fun hh => ⟨hrds (hb hh rfl) rfl ((serve_rds [] 0).1 hh), hrdx (hb hh rfl) rfl ((serve_rdx [] 0).1 hh)⟩,
      fun set hh => ⟨hrds (hb hh rfl) rfl ((serve_rds set 0).2.1 hh), ?_⟩,
      fun o hh ho => ⟨hrds (hb hh rfl) rfl ((serve_rds [] o).2.2.1 hh ho), hrdx (hb hh rfl) rfl ((serve_rdx [] o).2.2.1 hh ho)⟩,
      fun o set hh ho => ⟨hrds (hb hh rfl) rfl ((serve_rds set o).2.2.2 hh), hrdx (hb hh rfl) rfl ((serve_rdx set o).2.2.2 hh ho)⟩⟩
    intro left
    have hs := (serve_rdx (l := l) (a := a) set 0).2.1 hh
    unfold awaiting at hs
    refine ⟨fun hl => hrdx (hb hh rfl) rfl ?_, fun hl => hrdx (hb hh rfl) rfl ?_⟩
    · rw [show set.filter (· != a) = [] from hl] at hs
      exact hs
    · rw [if_neg hl] at hs
      exact hs
  · intro s l a hok hi hb waits
    exact ⟨fun h hr => arrives_to h rfl rfl (rds_waits (netLess_line h) hok hi hb hr),
      fun h hr => arrives_to h rfl rfl (rdx_waits (netLess_line h) hok hi hb hr)⟩
  · intro s l a set h hreqs hok hnp grants
    have hgrants : ∀ {agents : Tab AgentSt} {left : List Nat}, (l.agent a = .s ∨ l.agent a = .o) → l.home.busy = false →
        (if l.agent a == .s then l.setAgent a .sm else l) = { l with agents } →
        ({ l with agents, reqs := [(.upg, a)] } : Line).serve .upg a =
          ({ l with agents, reqs := [], home := awaiting a left true }, if left = [] then [(a, .grant)] else left.map fun b => (b, .inv)) →
        grants agents left := fun {agents left} hso hb hag hs => by
      refine arrives_to h rfl rfl ?_
      have := upg_served (netLess_line h) hreqs hok hnp hso hb
        ((congrArg (fun z : Line => ({ z with reqs := [(.upg, a)] } : Line).serve .upg a) hag).trans hs) rfl rfl
      have hw : (awaiting a left true).writes l.addr = [] := by
        unfold awaiting
        split <;> rfl
      rw [show HomeSt.writes _ l.addr = [] from hw, List.append_nil] at this
      exact hreqs ▸ this
    have hsm : ∀ {st : AgentSt}, l.agent a = .s → (if l.agent a == .s then l.setAgent a .sm else l) =
        { l with agents := tabPut l.agents .i a .sm } := fun {_} ha => if_pos (by rw [ha]; rfl)
    refine ⟨fun ha hh hm => ?_, fun o ha hh hm => ?_, fun ha hh => ?_⟩
    · exact hgrants (.inl ha) (hh ▸ rfl) (hsm (st := .s) ha)
        (serve_upg (l := { l with agents := tabPut l.agents .i a .sm }) (.inl ⟨hh, hm, rfl⟩))
    · exact hgrants (.inl ha) (hh ▸ rfl) (hsm (st := .s) ha)
        (serve_upg (l := { l with agents := tabPut l.agents .i a .sm }) (.inr ⟨o, hh, .inr hm, rfl⟩))
    · refine hgrants (.inr ha) (hh ▸ rfl) (if_neg (by rw [ha]; decide)) (serve_upg (.inr ⟨a, hh, .inl rfl, ?_⟩))
      simp
  · intro s l a h hreqs hok hi becomes
    have hnone : ∀ {home : HomeSt} {ms : List (Nat × Snoop)}, l.home.busy = false →
        ({ l with reqs := [(.wb, a)] } : Line).serve .wb a = ({ l with reqs := [], home }, ms) →
        becomes { l with home, snoops := l.snoops ++ ms } ((ms.map fun m => m.2.event l.addr m.1) ++ home.writes l.addr) :=
      fun {home ms} hb hs => arrives_to h rfl rfl (hreqs ▸ wb_served (netLess_line h) hreqs hok hi hb hs rfl rfl)
    have hsame : ∀ home : HomeSt, ({ l with home, snoops := l.snoops ++ [] } : Line) = { l with home } := fun home => by
      rw [List.append_nil]
    refine ⟨fun hh => ?_, fun set hh => ?_, fun o hh ho => ?_⟩
    · exact hsame (.busyWb a []) ▸ hnone (hh ▸ rfl) ((serve_wb [] 0).1 hh)
    · exact hsame (.busyWb a set) ▸ hnone (hh ▸ rfl) ((serve_wb set 0).2.1 hh)
    · have := hnone (hh ▸ rfl) (((serve_wb [] o).2.2 hh ho).trans (show _ = ({ l with reqs := [], home := l.home }, _) from rfl))
      rw [show HomeSt.writes l.home l.addr = [] by rw [hh]; rfl] at this
      exact this
  · intro s l a h hreqs hok becomes
    refine ⟨fun hh => arrives_to h rfl rfl (eve_served (netLess_line h) hreqs hok (hh ▸ rfl) (serve_eve.1 hh) rfl rfl), fun hb hh =>
      arrives_to h rfl rfl ?_⟩
    have := eve_served (netLess_line h) hreqs hok hb (serve_eve.2 hh) rfl rfl
    have hw : l.home.writes l.addr = [] := by
      cases hst : l.home with
      | busyWb b set =>
        rw [hst] at hb
        exact absurd (show true = false from hb) (by decide)
      | _ => rfl
    rw [show HomeSt.writes _ l.addr = [] from hw, List.append_nil] at this
    exact this
  · intro s l a h hreqs ha becomes
    have hbecomes : ∀ {home : HomeSt} {ms : List (Nat × Snoop)},
        ({ l with acks := l.acks.filter (· != a) } : Line).acked a = ({ l with acks := l.acks.filter (· != a), home }, ms) →
        becomes home ms := fun {home ms} hs => arrives_to h rfl rfl (acks_counted (netLess_line h) ha hs rfl hreqs)
    refine ⟨fun r left grant hh hm => ?_, fun r set hh => ⟨fun hd => hbecomes ((acked_busyF (l := { l with acks := l.acks.filter (· != a) }) hh).1 hd),
      fun hd hs => hbecomes ((acked_busyF (l := { l with acks := l.acks.filter (· != a) }) hh).2 hd hs)⟩⟩
    intro rest
    have hs := acked_busyX (l := { l with acks := l.acks.filter (· != a) }) hh hm
    refine ⟨fun hr => hbecomes ?_, fun hr => hbecomes ?_⟩
    · rw [hs]
      exact if_pos hr
    · rw [hs]
      exact if_neg hr
  · intro s l m a x i e h ht hi
    have hx : exec i s = .next (s.netStep e) ∧ (s.netLess e).deliver e = (s.netLess e).snooped l.addr a x := by
      obtain ⟨rfl, rfl, rfl⟩ | ⟨rfl, rfl, rfl⟩ | ⟨rfl, rfl, rfl⟩ := hi <;> exact ⟨rfl, rfl⟩
    have haddr := took_addr ht
    refine ⟨fun hw => arrives_to h hx.1 haddr (by rw [hx.2]; exact snoop_deferred (netLess_line h) ht hw), ?_⟩
    intro st hnp hu hst
    have hans := answer_becomes hu hst
    have hw : m.agent a = .is ∨ m.agent a = .im → x = .inv := by
      intro hwait
      obtain ⟨-, hst⟩ | ⟨-, hst⟩ | ⟨hx, -⟩ := hst
      · obtain h | h := hwait <;> simp [h] at hst
      · obtain h | h := hwait <;> simp [h] at hst
      · exact hx
    have hto := snoop_answered (netLess_line h) ht hnp hw
    rw [hans] at hto
    exact arrives_to h hx.1 haddr (by rw [hx.2]; exact hto)
  · intro s l m a x hnp becomes data
    have htaken : ∀ {i : Instr} {e : Event} {p : Snoop → Bool} {st : AgentSt}, l.took a p = some (x, m) →
        ((s.netLess e).deliver e = (s.netLess e).received l.addr a p) → exec i s = .next (s.netStep e) →
        x.leaves (m.agent a) = st → becomes i e st := fun {i e p st} ht hde hx hst h hd => by
      have haddr := took_addr ht
      refine arrives_to h hx haddr ?_
      rw [hde, ← hst]
      exact received_taken (netLess_line h) ht hnp hd
    have hdata : exec (.agentDataReceive l.addr a) s = .next (s.netStep (.agentDataReceive l.addr a)) := by
      have : (decide (a = npAgent) && (((s.netStep (.agentDataReceive l.addr a)).line l.addr).agent a).holds) = false := by simp [hnp]
      show execAgentDataReceive l.addr a s = _
      unfold execAgentDataReceive
      simp only [this, Bool.false_eq_true, if_false]
    refine ⟨fun ht => ⟨fun hx => ?_, fun hx => ?_, fun hx => ?_⟩, fun ht r left grant hh hd hu h =>
      have haddr := took_addr ht
      arrives_to h hdata haddr (data_passed (netLess_line h) ht hnp hh hd hu), fun ht => ?_, fun ht => ?_, fun ht => ?_⟩
    · exact htaken ht rfl hdata (hx ▸ rfl)
    · exact htaken ht rfl hdata (hx ▸ rfl)
    · exact htaken ht rfl hdata (hx ▸ rfl)
    · have hx : x = .grant := by simpa using took_holds ht
      exact htaken ht rfl rfl (hx ▸ rfl)
    · refine htaken ht rfl rfl ?_
      have hx : x = .wback ∨ x = .ack := by simpa using took_holds ht
      obtain rfl | rfl := hx <;> rfl
    · have hx : x = .wbstale := by simpa using took_holds ht
      exact htaken ht rfl rfl (hx ▸ rfl)
  · intro s l a h hok hu hd drops
    have hdrops : ∀ {st : AgentSt} {reqs : List (Req × Nat)} {out : List Event}, l.drops a st reqs out → drops st reqs out :=
      fun {st reqs out} hdr => arrives_to h rfl rfl (line_dropped (netLess_line h) hok hu hd hdr)
    exact ⟨fun ha => hdrops (.inl ⟨ha, rfl, rfl, rfl⟩), fun ha => hdrops (.inr (.inl ⟨ha, rfl, rfl, rfl⟩)),
      fun ha => hdrops (.inr (.inr (.inl ⟨ha, rfl, rfl, rfl⟩))), fun ha => hdrops (.inr (.inr (.inr ⟨ha, rfl, rfl, rfl⟩)))⟩

end Sys2Proof.Machine
end


section
/-! # The directory at a shard, at holders and at owners (R378 to R382, R442) -/

namespace Sys2Proof.Machine

/-! ## Requests (R379, R380, R395) -/

/-- A request for a name that the shard does not hold. -/
theorem shardTake_none {s : State} {job page : Nat} (h : s.dirEnt job page = none) (req rank : Nat) (bytes : List Byte) :
    s.shardTake job page req rank bytes = s.shardReply npNoHome job page rank 0 false [] := by
  unfold State.shardTake
  rw [h]

theorem wbrel_no_home {s : State} {job page : Nat} (h : s.dirEnt job page = none) (rank : Nat) (bytes : List Byte) :
    exec (.shardWbrel job page rank bytes) s = .next (s.shardReply npNoHome job page rank 0 false []) := by
  show execShardWbrel job page rank bytes s = _
  unfold execShardWbrel
  rw [h, shardTake_none h]

/-- A request that no checkpoint in progress holds is told the home, and waits in its turn. -/
theorem shardTake_served {s : State} {job page rank req : Nat} {e : DirEnt} (h : s.dirEnt job page = some e)
    (hs : s.saving = false ∨ rank = s.rankIn job) (hr : req ≠ npWbrel) (bytes : List Byte) :
    s.shardTake job page req rank bytes =
      (((s.onDir job page fun e => { e with waiting := e.waiting ++ [(req, rank, bytes)] }).shardReply npHome job page rank e.dataver
        (e.homekind = 3 && e.st = .idle) e.homeBytes).shardNext job page) := by
  have hc : ((s.onDir job page fun e => { e with waiting := e.waiting ++ [(req, rank, bytes)] }).saving &&
      rank != (s.onDir job page fun e => { e with waiting := e.waiting ++ [(req, rank, bytes)] }).rankIn job) = false := by
    show (s.saving && rank != s.rankIn job) = false
    obtain h | h := hs <;> simp [h]
  unfold State.shardTake
  rw [h]
  dsimp only
  rw [hc, if_neg (by decide), if_neg hr]

/-- While a checkpoint saves, a request of another rank is held (R395). -/
theorem shardTake_held {s : State} {job page rank : Nat} {e : DirEnt} (h : s.dirEnt job page = some e)
    (hs : s.saving = true) (hr : rank ≠ s.rankIn job) (req : Nat) (bytes : List Byte) :
    let t := s.onDir job page fun e => { e with waiting := e.waiting ++ [(req, rank, bytes)] }
    s.shardTake job page req rank bytes = State.shardReply { t with ckpt := { t.ckpt with held := t.ckpt.held ++ [(job, page)] } }
      npHeld job page rank 0 false [] := by
  intro t
  have hc : (t.saving && rank != t.rankIn job) = true := by
    show (s.saving && rank != s.rankIn job) = true
    simp [hs, hr]
  unfold State.shardTake
  rw [h]
  exact if_pos hc

/-! ## An idle entry (R379, R380) -/

theorem serveShard_gets {s : State} {e : DirEnt} (h : e.st = .idle) (rank : Nat) (bytes : List Byte) :
    s.serveShard e npGets rank bytes = ((s.onDir e.job e.page fun e => e.addHolder rank).shardReply npHome e.job e.page rank
      e.dataver (e.homekind = 3) e.homeBytes).homeFetch e rank := by
  unfold State.serveShard
  dsimp only
  rw [if_pos rfl, if_neg (by rw [h]; decide)]

theorem serveShard_getx {s : State} {e : DirEnt} {rank : Nat} (h : e.st = .idle) (hall : e.all = false)
    (hr : ∀ r ∈ e.holders, r = rank) (bytes : List Byte) : s.serveShard e npGetx rank bytes = s.grantTo e.job e.page rank := by
  have hleft : (e.holders.filter (· != rank)).isEmpty = true := by simpa using hr
  unfold State.serveShard
  dsimp only
  rw [if_neg (by decide), if_pos rfl, if_neg (by rw [h]; decide), hall]
  exact if_pos hleft

/-! ## Home writes and recalls (R379, R380, R442) -/

theorem wbrel_taken {s : State} {job page rank : Nat} {e : DirEnt} (h : s.dirEnt job page = some e) (hst : e.st = .xfer)
    (hreq : e.req = npGets) (ho : e.owner = rank) (hh : e.held = none) (bytes : List Byte) :
    exec (.shardWbrel job page rank bytes) s = .next ((s.onDir job page fun e => { e with
      held := some bytes
      wattempts := 0
      wdeclined := false }).homeWrite job page) := by
  show execShardWbrel job page rank bytes s = _
  unfold execShardWbrel
  rw [h]
  exact if_pos (by simp [hst, hreq, ho, hh])

theorem homeAck_ends {s : State} {job page : Nat} {e : DirEnt} (h : s.dirEnt job page = some e) (hh : e.held ≠ none)
    (hd : e.wdeclined = false) (hst : e.st = .xfer ∨ e.st = .wbPending) :
    exec (.shardHomeAck job page true) s = .next (s.homeWritten e (e.st = .xfer)) ∧
    exec (.shardHomeAck job page false) s = .next (s.declineWrite e 5) := by
  have hc : ¬ (e.held.isNone || e.wdeclined || !(decide (e.st = .xfer) || decide (e.st = .wbPending))) = true := by
    obtain hst | hst := hst <;> simp [hd, hst, hh]
  constructor
  all_goals
    show execShardHomeAck job page _ s = _
    unfold execShardHomeAck
    rw [h]
    exact if_neg hc

theorem recallAck_counted {s : State} {job page rank : Nat} {e : DirEnt} (h : s.dirEnt job page = some e) (hst : e.st = .xfer)
    (hreq : e.req = npGetx) (ha : rank ∈ e.acks) (ho : e.owner = noRank) (hr : rank ≠ noRank) :
    let left := e.acks.filter (· != rank)
    exec (.shardRecallAck job page rank) s = .next (if left = [] then (s.grantTo job page e.reqRank).shardNext job page
      else s.onDir job page fun e => { e with acks := left }) := by
  intro left
  show execShardRecallAck job page rank s = _
  unfold execShardRecallAck
  rw [h]
  refine (if_neg (by simp [hst, hreq])).trans ((if_neg (ho ▸ hr.symm)).trans ((if_neg (by simp [ho, ha])).trans ?_))
  by_cases hl : left = []
  · rw [if_pos hl]
    exact if_pos (List.isEmpty_iff.2 hl)
  · rw [if_neg hl]
    exact if_neg (fun h => hl (List.isEmpty_iff.1 h))

theorem homeWrite_times_out {s : State} {job page : Nat} {e : DirEnt} (h : s.dirEnt job page = some e) (hh : e.held ≠ none)
    (hd : e.wdeclined = false) :
    (e.wattempts < 3 → exec (.homeWriteTimeout job page) s =
      .next ((s.onDir job page fun e => { e with wattempts := e.wattempts + 1 }).homeWrite job page)) ∧
    (3 ≤ e.wattempts → exec (.homeWriteTimeout job page) s = .next ((s.onDir job page fun e => { e with
      wattempts := 4 }).declineWrite { e with wattempts := 4 } (if e.homekind = 3 then 3 else 2))) := by
  have hc : ¬ (e.held.isNone || e.wdeclined) = true := by simp [hd, hh]
  constructor <;> intro ha
  all_goals
    show execHomeWriteTimeout job page s = _
    unfold execHomeWriteTimeout
    rw [h]
    refine (if_neg hc).trans ?_
  · exact if_neg (by omega)
  · exact if_pos (by omega)

/-! ## Holders and owners (R380, R381) -/

theorem recall_unheld {s : State} {job page : Nat} (h : s.frameOf job page = none) : exec (.holderRecall job page) s =
    .next ((s.onOwned job page fun o => { o with recalled := false }).tellShard npRecallAck job page []) := by
  show execHolderRecall job page s = _
  unfold execHolderRecall
  rw [h]

theorem recall_clean {s : State} {job page i : Nat} {f : Frame} (h : s.frameOf job page = some (i, f)) (hst : f.st = .clean) :
    (f.refcnt ≠ 0 → exec (.holderRecall job page) s = .next (s.onOwned job page fun o => { o with recalled := true })) ∧
    (f.refcnt = 0 →
      let t := s.onOwned job page fun o => { o with recalled := false }
      exec (.holderRecall job page) s = .next (State.tellShard (State.arm (State.wakeName
        ((t.finishFrame (t.framePA i)).onFrame i fun f => { f with st := .evicting }) job page) (.evictionComplete i))
        npRecallAck job page [])) := by
  constructor <;> intro hr
  all_goals
    show execHolderRecall job page s = _
    unfold execHolderRecall
    rw [h]
  · exact if_pos (by simp [hst, hr])
  · exact (if_neg (by simp [hst, hr])).trans (if_pos hst)

theorem xfer_waits {s : State} {job page i : Nat} {f : Frame} (h : s.frameOf job page = some (i, f)) (hw : s.xferWaits f = true)
    (dst : Nat) :
    exec (.ownerXferS job page dst) s = .next (s.onOwned job page fun o => { o with xfer := some (false, dst) }) ∧
    exec (.ownerXferX job page dst) s = .next (s.onOwned job page fun o => { o with xfer := some (true, dst) }) := by
  constructor
  · show execOwnerXferS job page dst s = _
    unfold execOwnerXferS
    rw [h]
    exact if_pos hw
  · show execOwnerXferX job page dst s = _
    unfold execOwnerXferX
    rw [h]
    exact if_pos hw

theorem xferS_sent {s : State} {job page i : Nat} {f : Frame} (h : s.frameOf job page = some (i, f)) (hw : s.xferWaits f = false)
    (hst : f.st = .ownedDirty) (dst : Nat) :
    let u := (s.finishFrame (s.framePA i)).useNp false (s.framePA i) pageBytes
    let l := u.loadPA (u.framePA i) pageBytes
    exec (.ownerXferS job page dst) s = .next (((((u.sendData job page dst l).tellShard npWbrel job page l).onFrame i fun f => { f with
      st := .clean
      wr := false }).onOwned job page fun o => { o with
        xfer := none
        tenure := false
        ver := o.ver + 1 }).wakeName job page) := by
  intro u l
  show execOwnerXferS job page dst s = _
  unfold execOwnerXferS
  rw [h]
  exact (if_neg (by simp [hw])).trans ((if_neg (by simp [hst])).trans (if_pos hst))

theorem xferX_sent {s : State} {job page i : Nat} {f : Frame} (h : s.frameOf job page = some (i, f)) (hw : s.xferWaits f = false)
    (hst : f.st = .ownedDirty) (dst : Nat) :
    let u := (s.finishFrame (s.framePA i)).useNp false (s.framePA i) pageBytes
    let l := u.loadPA (u.framePA i) pageBytes
    exec (.ownerXferX job page dst) s = .next (State.arm (State.wakeName ((((u.sendData job page dst l).tellShard npRecallAck job page
      []).onFrame i fun f => { f with st := .evicting }).onOwned job page fun o => { o with
        xfer := none
        tenure := false }) job page) (.evictionComplete i)) := by
  intro u l
  show execOwnerXferX job page dst s = _
  unfold execOwnerXferX
  rw [h]
  exact (if_neg (by simp [hw])).trans ((if_neg (by simp [hst])).trans (if_pos hst))

/-- Settles O47: each clause is the branch of the step that its hypotheses choose. -/
theorem shardDirectory : Obligations.ShardDirectory := by
  unfold Obligations.ShardDirectory
  refine ⟨?_, ?_, ?_, ?_, fun _ _ _ _ => rfl, ?_, ?_, ?_, ?_, ?_, ?_, fun _ _ _ => rfl⟩
  · intro s job page rank bytes h
    exact ⟨congrArg Host.Outcome.next (shardTake_none h _ _ _), congrArg Host.Outcome.next (shardTake_none h _ _ _), wbrel_no_home h _ _⟩
  · intro s job page rank e h t served held
    refine ⟨fun hs => ⟨?_, ?_⟩, fun hs hr => ⟨?_, ?_⟩⟩
    · exact congrArg Host.Outcome.next (shardTake_served h hs (by decide) _)
    · exact congrArg Host.Outcome.next (shardTake_served h hs (by decide) _)
    · exact congrArg Host.Outcome.next (shardTake_held h hs hr _ _)
    · exact congrArg Host.Outcome.next (shardTake_held h hs hr _ _)
  · intro s e rank _ hst
    exact ⟨serveShard_gets hst _ _, fun ha hr => serveShard_getx hst ha hr _⟩
  · intro s job page rank bytes e h hst hreq ho hh
    exact wbrel_taken h hst hreq ho hh _
  · intro s job page e h hh hd hst
    exact homeAck_ends h hh hd hst
  · intro s job page e rank h hst hreq ha ho hr
    exact recallAck_counted h hst hreq ha ho hr
  · intro s job page e h hh hd
    exact homeWrite_times_out h hh hd
  · intro s job page h
    exact recall_unheld h
  · intro s job page i f h hst
    exact recall_clean h hst
  · intro s job page dst i f h
    exact ⟨fun hw => xfer_waits h hw _, fun hw hst => ⟨xferS_sent h hw hst _, xferX_sent h hw hst _⟩⟩

end Sys2Proof.Machine
end


section
/-! # Commands of the NP page and checkpoints (R388 to R397, R442) -/

namespace Sys2Proof.Machine

/-- A command of a world's NP page is performed for that world. -/
theorem npCommand_of {s : State} {wn : Nat} {w : World} (h : s.world wn = some w) (f : State → World → State) :
    s.npCommand wn f = f s w := by
  unfold State.npCommand
  rw [h]

/-! ## Declined services (R389) -/

theorem npInstall_refused {s : State} {w : World} {v : Service} (h : s.declinedOf w.job w.np.cname = some v) (dirty : Bool) :
    (s.cargOk w.np.carg = false → s.npInstall w dirty = s.cmdDone w.num csBadArg) ∧
    (s.cargOk w.np.carg = true → s.installFrame v = none → s.npInstall w dirty = s.cmdDone w.num csSetFull) := by
  unfold State.npInstall World.cpage
  dsimp only
  rw [h]
  refine ⟨fun ha => if_pos (by rw [ha]; rfl), fun ha hi => (if_neg (by rw [ha]; decide)).trans ?_⟩
  rw [hi]

theorem npInstall_done {s : State} {w : World} {v : Service} {i : Nat} (h : s.declinedOf w.job w.np.cname = some v)
    (ha : s.cargOk w.np.carg = true) (hi : s.installFrame v = some i) (dirty : Bool) :
    let into := ((s.useNp false w.np.carg pageBytes).onService v.id fun v => { v with
      write := dirty
      upgrade := false }).install v.id i (s.loadPA w.np.carg pageBytes) (s.ownedOf w.job w.np.cname).ver
    s.npInstall w dirty =
      (if dirty then (into.askShard npGetx w.job w.np.cname (s.loadPA w.np.carg pageBytes)).1 else into).cmdDone w.num csOk := by
  unfold State.npInstall World.cpage
  dsimp only
  rw [h]
  refine (if_neg (by rw [ha]; decide)).trans ?_
  rw [hi]
  rfl

theorem npRetry_service {s : State} {w : World} {v : Service} (h : s.declinedOf w.job w.np.cname = some v) :
    let t := v.waiters.foldl (fun s p => s.onFault v.world p.1 fun f => { f with st := .inService }) s
    let again := fun (phase : SPhase) => t.onService v.id fun v => { v with
      attempts := 0
      code := 0
      phase }
    (∀ i, v.frame = some i → s.npRetry w = ((again .lookup).fetch v.id).cmdDone w.num csOk) ∧
    (v.frame = none → s.npRetry w = ((again .victim).arm (.victimRetry v.id)).cmdDone w.num csOk) := by
  intro t again
  unfold State.npRetry World.cpage
  dsimp only
  rw [h]
  refine ⟨fun i hf => ?_, fun hf => ?_⟩
  all_goals
    simp only [hf]
    rfl

theorem killWaiter_present {s : State} {gid : Nat} {g : Group} {c : Crew} (hg : s.groups.find? (·.id == gid) = some g)
    (hc : s.crew g.crew = some c) (tr : Trap) : s.killWaiter gid tr = s.async g.crew tr (some g.lanes) := by
  unfold State.killWaiter
  rw [hg]
  dsimp only
  rw [hc]

theorem npKill_group {s : State} {w : World} {v : Service} {gid : Nat} {p : Word × Waiter × Bool × Bool} {g : Group} {c : Crew}
    (h : s.declinedOf w.job w.np.cname = some v) (hv : v.waiters = [p]) (hp : p.2.1 = .group gid)
    (hg : s.groups.find? (·.id == gid) = some g) (hc : s.crew g.crew = some c) (hj : g.job = v.job) (hpg : g.page = v.page) :
    s.npKill w = ((((s.onService v.id fun v => { v with
      waiters := []
      prefetch := false }).async g.crew (killTrap v.code w.job w.np.cname) (some g.lanes)).runWake v.id).cmdDone w.num csOk) := by
  have hany : (s.groups.any fun g => g.id == gid && g.job == v.job && g.page == v.page) = true := by
    refine List.any_eq_true.2 ⟨g, List.mem_of_find?_eq_some hg, ?_⟩
    simpa [hj, hpg] using List.find?_some hg
  unfold State.npKill World.cpage
  dsimp only
  rw [h]
  dsimp only
  rw [hv, List.foldl_cons, List.foldl_nil, hp]
  dsimp only
  refine (congrArg (fun z : State => (z.runWake v.id).cmdDone w.num csOk) (if_pos hany)).trans ?_
  rw [killWaiter_present (s := s.onService v.id _) hg hc]

/-- A command for a page without a declined service or a declined home write. -/
theorem np_no_fault {s : State} {w : World} (h : s.declinedOf w.job w.np.cname = none) (hw : s.declinedWrite w.job w.np.cname = none) :
    (∀ dirty, s.npInstall w dirty = s.cmdDone w.num csNoFault) ∧ s.npRetry w = s.cmdDone w.num csNoFault ∧
    s.npKill w = s.cmdDone w.num csNoFault := by
  refine ⟨fun dirty => ?_, ?_, ?_⟩
  · unfold State.npInstall World.cpage
    dsimp only
    rw [h, hw]
    rfl
  · unfold State.npRetry World.cpage
    dsimp only
    rw [h, hw]
  · unfold State.npKill World.cpage
    dsimp only
    rw [h, hw]

/-- RETRY and KILL of a declined home write. -/
theorem np_declined_write {s : State} {w : World} {e : DirEnt} (h : s.declinedOf w.job w.np.cname = none)
    (hw : s.declinedWrite w.job w.np.cname = some e) :
    s.npRetry w = ((s.onDir w.job w.np.cname fun e => { e with
      wdeclined := false
      wattempts := 0 }).homeWrite w.job w.np.cname).cmdDone w.num csOk ∧
    s.npKill w = (s.homeWritten e false).cmdDone w.num csOk := by
  constructor
  · unfold State.npRetry World.cpage
    dsimp only
    rw [h, hw]
  · unfold State.npKill World.cpage
    dsimp only
    rw [h, hw]

/-! ## Pins (R389) -/

theorem pins_absent {s : State} {w : World} (h : s.frameOf w.job w.np.cname = none) :
    s.npPin w = s.cmdDone w.num csNotResident ∧ s.npUnpin w = s.cmdDone w.num csNotResident := by
  unfold State.npPin State.npUnpin World.cpage
  dsimp only
  rw [h]
  exact ⟨rfl, rfl⟩

/-- PIN by the state of the frame. -/
theorem npPin_of {s : State} {w : World} {i : Nat} {f : Frame} (h : s.frameOf w.job w.np.cname = some (i, f)) :
    ((f.st = .clean ∨ f.st = .ownedDirty) → s.npPin w = if s.pinnedWays w.job w.np.cname ≥ 4 then s.cmdDone w.num csSetFull
      else (s.onFrame i fun f => { f with st := .pinned }).cmdDone w.num csOk) ∧
    (f.st = .filling → s.npPin w = s.cmdDone w.num csNotResident) ∧
    (f.st = .pinned → s.npPin w = s.cmdDone w.num csOk) := by
  unfold State.npPin World.cpage
  dsimp only
  rw [h]
  dsimp only
  refine ⟨fun hst => ?_, fun hst => if_pos hst, fun hst => ?_⟩
  · obtain hst | hst := hst <;> simp only [hst, reduceCtorEq, if_false]
  · rw [hst]
    rfl

/-- UNPIN by the state of the frame. -/
theorem npUnpin_of {s : State} {w : World} {i : Nat} {f : Frame} (h : s.frameOf w.job w.np.cname = some (i, f)) :
    (f.st ≠ .pinned → s.npUnpin w = s.cmdDone w.num csNotResident) ∧
    (f.st = .pinned → (s.ownedOf w.job w.np.cname).recalled = false → (s.ownedOf w.job w.np.cname).xfer = none →
      s.serviceOf w.job w.np.cname = none →
      s.npUnpin w = State.cmdDone (s.onFrame i fun f => { f with st := if f.wr then .ownedDirty else .clean }) w.num csOk) := by
  unfold State.npUnpin World.cpage
  dsimp only
  rw [h]
  dsimp only
  refine ⟨fun hst => if_pos (by simpa using hst), fun hst hr hx hv => (if_neg (by simp [hst])).trans ?_⟩
  let t := s.onFrame i fun f => { f with st := if f.wr then .ownedDirty else .clean }
  rw [show (t.ownedOf w.job w.np.cname).recalled = false from hr, if_neg (by decide)]
  unfold State.xferAgain
  rw [show (t.ownedOf w.job w.np.cname).xfer = none from hx]
  dsimp only
  rw [show t.serviceOf w.job w.np.cname = none from hv]

/-! ## DIRSET (R389) -/

theorem npDirset_of {s : State} {w : World} (hr : s.shardRank w w.job w.np.cname = some w.np.rank) (ha : w.np.carg % 32 = 0)
    (ht : w.np.carg + 32 ≤ hbmTop) :
    let y := if w.np.shmap = 0 then s else s.devTouch w.num (w.np.mapSlot w.job w.np.cname) 2
    let z := y.useNp false w.np.carg 32
    let e := dirOf w.job w.np.cname (y.loadPA w.np.carg 32)
    let rest := z.dir.filter fun x => !(x.job == w.job && x.page == w.np.cname)
    fieldN (leNat (y.loadPA w.np.carg 32)) 92 3 = 0 →
    (∀ x, z.dirEnt w.job w.np.cname = some x → x.st = .idle ∧ x.holders = [] ∧ x.all = false) →
    (e.homekind = 0 → s.npDirset w = State.cmdDone { z with dir := rest } w.num csOk) ∧
    (e.homekind ∈ [1, 2, 3, 4] → s.npDirset w = State.cmdDone { z with dir := rest ++ [e] } w.num csOk) ∧
    (4 < e.homekind → s.npDirset w = z.cmdDone w.num csBadArg) := by
  intro y z e rest hst hidle
  have hbusy : ((z.dirEnt w.job w.np.cname).any fun x => x.st != .idle || !x.holders.isEmpty || x.all) = false := by
    cases hx : z.dirEnt w.job w.np.cname with
    | none => rfl
    | some x =>
      obtain ⟨h1, h2, h3⟩ := hidle x hx
      simp [h1, h2, h3]
  have hargs : ¬ (!(s.shardRank w w.job w.np.cname == some w.np.rank) || decide (w.np.carg % 32 ≠ 0) ||
      decide (w.np.carg + 32 > hbmTop)) = true := by
    simp [hr, ha]
    omega
  have hcommon : s.npDirset w = if (decide (fieldN (leNat (y.loadPA w.np.carg 32)) 92 3 ≠ 0) || decide (e.homekind > 4) ||
      (z.dirEnt w.job w.np.cname).any fun x => x.st != .idle || !x.holders.isEmpty || x.all) = true then z.cmdDone w.num csBadArg
      else if e.homekind = 0 then State.cmdDone { z with dir := rest } w.num csOk
      else State.cmdDone { z with dir := rest ++ [e] } w.num csOk := by
    unfold State.npDirset World.cpage
    exact if_neg hargs
  rw [hbusy, hst] at hcommon
  rw [hcommon]
  refine ⟨fun hk => ?_, fun hk => ?_, fun hk => if_pos (by simpa using hk)⟩
  · rw [hk]
    rfl
  · have hk : e.homekind ≠ 0 ∧ ¬ e.homekind > 4 := by
      simp only [List.mem_cons, List.not_mem_nil, or_false] at hk
      omega
    exact (if_neg (by simpa using hk.2)).trans (if_neg hk.1)

/-! ## Checkpoints (R395 to R397) -/

/-- A save or a restore begins where no launch runs, or is refused. -/
theorem ckStart_idle {s : State} (h : s.ckpt.active = false) (pass : Nat) :
    ((∃ l ∈ s.launches, l.state = .running ∨ l.state = .cancelling) →
      s.ckStart pass = { s with ckpt := { s.ckpt with stat := ckRefused } }) ∧
    ((∀ l ∈ s.launches, l.state ≠ .running ∧ l.state ≠ .cancelling) →
      s.ckStart pass = State.arm { s with ckpt := { s.ckpt with
        stat := ckDraining
        pass
        bytes := 0
        err := 0
        crcs := []
        abort := false
        header := false
        hold := true } } .checkpointDrainDone) := by
  unfold State.ckStart State.anyRunning
  rw [h, if_neg (by decide)]
  refine ⟨fun hl => if_pos ?_, fun hl => if_neg ?_⟩
  · simpa using hl
  · simpa using hl

theorem ck_active {s : State} (h : s.ckpt.active = true) : (∀ pass, s.ckStart pass = s) ∧
    s.ckAbort = { s with ckpt := { s.ckpt with abort := true } } := by
  unfold State.ckStart State.ckAbort
  exact ⟨fun _ => if_pos h, if_pos h⟩

theorem drain_done {s : State} (h : s.ckpt.stat = ckDraining) (hv : ∀ v ∈ s.services, v.phase = .declined ∨ v.phase = .installed) :
    let t := { s with ckpt := { s.ckpt with stat := ckStreaming } }
    exec .checkpointDrainDone s =
      .next (if s.ckpt.pass = 0 then (t.ckSend 0 t.ckHeader).arm (.checkpointSegmentDone 0 []) else t) := by
  intro t
  have hany : (s.services.any fun v => v.phase != .declined && v.phase != .installed) = false := by
    refine List.any_eq_false.2 fun v hm => ?_
    obtain h | h := hv v hm <;> simp [h]
  show execCheckpointDrainDone s = _
  unfold execCheckpointDrainDone
  rw [h, hany]
  rfl

/-- What ends or moves a stream at a segment's end, by pass, outcome and check. -/
theorem segment_done {s : State} (h : s.ckpt.stat = ckStreaming) (o : Nat) (bytes : List Byte) :
    exec (.checkpointSegmentDone o bytes) s = .next
      (if s.ckpt.abort = true then s.ckEnd ckFailed 0 (s.ckpt.pass = 2 || s.ckpt.stuck)
      else if s.ckpt.pass = 0 then if o ≠ 0 then s.ckEnd ckFailed 1 s.ckpt.stuck else s.saveSegment.ckNext
      else if s.ckpt.pass = 1 then if o ≠ 0 then s.ckEnd ckFailed 1 s.ckpt.stuck
        else if s.ckpt.header = false then s.ckCheckHeader bytes
        else if s.ckSegmentOk bytes then s.ckNext else s.ckEnd ckFailed 2 s.ckpt.stuck
      else if o ≠ 0 then s.ckEnd ckFailed 1 true else (s.writeSegment s.ckpt.bytes bytes).ckNext) := by
  show execCheckpointSegmentDone o bytes s = _
  unfold execCheckpointSegmentDone
  simp only [h, bne_self_eq_false, Bool.false_eq_true, if_false, Bool.not_eq_true', apply_ite Host.Outcome.next]

theorem saveSegment_of (s : State) :
    let l := s.segment s.ckpt.bytes
    let crcs := s.ckpt.crcs ++ [crc32c l]
    let t := State.ckSend { s with ckpt := { s.ckpt with crcs } } (4096 + s.ckpt.bytes) l
    (s.ckpt.bytes + segBytes < hbmTop → s.saveSegment = t) ∧
    (hbmTop ≤ s.ckpt.bytes + segBytes → s.saveSegment = t.ckSend (4096 + hbmTop) (crcs.flatMap (leBytes 4))) := by
  intro l crcs t
  unfold State.saveSegment
  exact ⟨fun hb => if_pos hb, fun hb => if_neg (Nat.not_lt.2 hb)⟩

/-- A segment that the checking pass accepts: the next one, or the writing pass from the first. -/
theorem ckNext_checked {s : State} (h : s.ckpt.pass = 1) : s.ckNext = { s with ckpt :=
    if s.ckpt.bytes + segBytes < hbmTop then { s.ckpt with bytes := s.ckpt.bytes + segBytes }
    else { s.ckpt with
      pass := 2
      bytes := 0 } } := by
  unfold State.ckNext
  dsimp only
  rw [h]
  split <;> rfl

/-- Settles O48: the commands by the state of the page that they name, the checkpoint steps by pass, outcome and check. -/
theorem hostCommandsAndCheckpoints : Obligations.HostCommandsAndCheckpoints := by
  unfold Obligations.HostCommandsAndCheckpoints
  have hcmd : ∀ {s : State} {w : World} {wn : Nat} {f : State → World → State} {i : Instr} {t : State}, s.world wn = some w →
      exec i s = .next (s.npCommand wn f) → f s w = t → exec i s = .next t := fun hw he hf => by
    rw [he, npCommand_of hw, hf]
  refine ⟨?_, ?_, ?_, ?_, ?_, ?_, ?_⟩
  · intro s w wn hw page
    refine ⟨fun v hv => ⟨?_, ?_, ?_, ?_, ?_⟩, fun hn hd i hi => ?_, fun e hn hd => ?_⟩
    · exact fun ha => ⟨hcmd hw rfl ((npInstall_refused hv _).1 ha), hcmd hw rfl ((npInstall_refused hv _).1 ha)⟩
    · exact fun ha hi => ⟨hcmd hw rfl ((npInstall_refused hv _).2 ha hi), hcmd hw rfl ((npInstall_refused hv _).2 ha hi)⟩
    · intro i ha hi into
      exact ⟨hcmd hw rfl (npInstall_done hv ha hi false), hcmd hw rfl (npInstall_done hv ha hi true)⟩
    · intro t again
      exact ⟨fun i hf => hcmd hw rfl ((npRetry_service hv).1 i hf), fun hf => hcmd hw rfl ((npRetry_service hv).2 hf)⟩
    · intro gid p g c hwt hp hg hc hj hpg
      exact hcmd hw rfl (npKill_group hv hwt hp hg hc hj hpg)
    · obtain ⟨hins, hret, hkill⟩ := np_no_fault hn hd
      simp only [List.mem_cons, List.not_mem_nil, or_false] at hi
      obtain rfl | rfl | rfl | rfl := hi
      · exact hcmd hw rfl (hins _)
      · exact hcmd hw rfl (hins _)
      · exact hcmd hw rfl hret
      · exact hcmd hw rfl hkill
    · obtain ⟨hret, hkill⟩ := np_declined_write hn hd
      exact ⟨hcmd hw rfl hret, hcmd hw rfl hkill⟩
  · intro s w wn hw page
    refine ⟨fun h => ⟨hcmd hw rfl (pins_absent h).1, hcmd hw rfl (pins_absent h).2⟩, fun i f h => ?_⟩
    obtain ⟨hfree, hfill, hpin⟩ := npPin_of h
    obtain ⟨hnot, hun⟩ := npUnpin_of h
    exact ⟨fun hst => hcmd hw rfl (hfree hst), fun hst => hcmd hw rfl (hfill hst), fun hst => hcmd hw rfl (hnot hst),
      fun hst => ⟨hcmd hw rfl (hpin hst), fun hr hx hv => hcmd hw rfl (hun hst hr hx hv)⟩⟩
  · intro s w wn hw hr ha ht y z e rest hst hidle
    obtain ⟨h0, h4, hbad⟩ := npDirset_of hr ha ht hst hidle
    exact ⟨fun hk => hcmd hw rfl (h0 hk), fun hk => hcmd hw rfl (h4 hk), fun hk => hcmd hw rfl (hbad hk)⟩
  · intro s h
    refine ⟨fun hl i hi => ?_, fun hl => ?_, ?_⟩
    · simp only [List.mem_cons, List.not_mem_nil, or_false] at hi
      obtain rfl | rfl := hi
      · exact congrArg Host.Outcome.next ((ckStart_idle h 0).1 hl)
      · exact congrArg Host.Outcome.next ((ckStart_idle h 1).1 hl)
    · exact ⟨congrArg Host.Outcome.next ((ckStart_idle h 0).2 hl), congrArg Host.Outcome.next ((ckStart_idle h 1).2 hl)⟩
    · exact congrArg Host.Outcome.next (if_neg (by rw [h]; decide))
  · intro s h
    obtain ⟨hs, ha⟩ := ck_active h
    exact ⟨congrArg Host.Outcome.next (hs 0), congrArg Host.Outcome.next (hs 1), congrArg Host.Outcome.next ha⟩
  · intro s h hv
    exact drain_done h hv
  · intro s bytes h
    have hdone := fun o => segment_done h o bytes
    refine ⟨fun hab o => ?_, fun hab => ⟨fun hp => ?_, fun hp => ⟨?_, ?_, ?_, ?_⟩, fun hp => ⟨?_, ?_⟩⟩⟩
    · rw [hdone, if_pos hab]
    all_goals simp only [hab, hp, Bool.false_eq_true, if_false] at hdone
    · intro l crcs t
      have hsave : exec (.checkpointSegmentDone 0 bytes) s = .next s.saveSegment.ckNext := by
        rw [hdone]
        simp
      refine ⟨fun hb => ?_, fun hb => ?_, fun o ho => ?_⟩
      · rw [hsave, (saveSegment_of s).1 hb]
      · rw [hsave, (saveSegment_of s).2 hb]
      · rw [hdone]
        simp [ho]
    · intro o ho
      rw [hdone]
      simp [ho]
    · intro hh
      have := hdone 0
      simp only [hh, State.ckCheckHeader] at this
      refine ⟨fun hb => ?_, fun hb => ?_⟩
      · rw [this]
        simp [hb]
      · rw [this]
        simp [hb]
    · intro hh hb
      rw [hdone]
      simp [hh, State.ckSegmentOk, hb]
    · intro hh hb
      have hok : s.ckSegmentOk bytes = true := by simp [State.ckSegmentOk, hb]
      have hnext : exec (.checkpointSegmentDone 0 bytes) s = .next s.ckNext := by
        rw [hdone]
        simp [hh, hok]
      rw [hnext, ckNext_checked hp]
    · rw [hdone]
      simp
    · intro o ho
      rw [hdone]
      simp [ho]

end Sys2Proof.Machine
end


section
/-! # What ends a command leaves the device time (R66, R255, R405) -/

namespace Sys2Proof.Machine

variable {T : BitVec 64}

theorem devtime_fst {α : Type} {p : State × α} {t : State} {x : α} (hp : p = (t, x)) (h : p.1.plat.devtime = T) :
    t.plat.devtime = T := by
  rw [hp] at h
  exact h

theorem foldl_devtime {α : Type} {f : State → α → State} {l : List α} {s : State}
    (hf : ∀ s a, s.plat.devtime = T → (f s a).plat.devtime = T) (h : s.plat.devtime = T) :
    (l.foldl f s).plat.devtime = T := by
  induction l generalizing s with
  | nil => exact h
  | cons a l ih => exact ih (hf s a h)

theorem State.onCrew_devtime {s : State} {uid : Nat} {f : Crew → Crew} (h : s.plat.devtime = T) :
    (State.onCrew s uid f).plat.devtime = T :=
  h

theorem State.onUnit_devtime {s : State} {uid : Nat} {f : BUnit → BUnit} (h : s.plat.devtime = T) :
    (State.onUnit s uid f).plat.devtime = T :=
  h

theorem State.onLaunch_devtime {s : State} {w : Nat} {hd : Word} {f : Launch → Launch} (h : s.plat.devtime = T) :
    (State.onLaunch s w hd f).plat.devtime = T :=
  h

theorem State.onWorld_devtime {s : State} {w : Nat} {f : World → World} (h : s.plat.devtime = T) :
    (State.onWorld s w f).plat.devtime = T :=
  h

theorem State.onEntry_devtime {s : State} {id : Nat} {f : Entry → Entry} (h : s.plat.devtime = T) :
    (State.onEntry s id f).plat.devtime = T :=
  h

theorem State.onQuarter_devtime {s : State} {q : Nat} {f : Quarter → Quarter} (h : s.plat.devtime = T) :
    (State.onQuarter s q f).plat.devtime = T :=
  h

theorem State.onFrame_devtime {s : State} {i : Nat} {f : Frame → Frame} (h : s.plat.devtime = T) :
    (State.onFrame s i f).plat.devtime = T :=
  h

theorem State.post_devtime {s : State} {e : Event} (h : s.plat.devtime = T) : (State.post s e).plat.devtime = T :=
  h

theorem State.arm_devtime {s : State} {e : Event} (h : s.plat.devtime = T) : (State.arm s e).plat.devtime = T := by
  unfold State.arm
  split
  · exact h
  · exact State.post_devtime h

theorem State.send_devtime {s : State} {m : Msg} (h : s.plat.devtime = T) : (State.send s m).plat.devtime = T :=
  h

theorem State.fresh_devtime {s : State} (h : s.plat.devtime = T) : (State.fresh s).2.plat.devtime = T :=
  h

theorem State.free_devtime {s : State} (h : s.plat.devtime = T) : (State.free s).2.plat.devtime = T :=
  h

theorem State.onLane_devtime {s : State} {uid lane : Nat} {f : Thread → Thread} (h : s.plat.devtime = T) :
    (State.onLane s uid lane f).plat.devtime = T :=
  h

theorem State.storePA_devtime {s : State} {pa : Nat} {l : List Byte} (h : s.plat.devtime = T) :
    (s.storePA pa l).plat.devtime = T :=
  h

theorem State.translate_devtime {s : State} {wn core va : Nat} (h : s.plat.devtime = T) :
    (State.translate s wn core va).1.plat.devtime = T := by
  unfold State.translate
  split
  · exact h
  · split
    · exact h
    · dsimp only
      split
      · dsimp only
        split
        · exact h
        · exact State.onWorld_devtime h
      · split
        · dsimp only
          split
          · split
            · exact State.free_devtime h
            · exact h
          · refine State.onWorld_devtime ?_
            split
            · exact State.free_devtime h
            · exact h
        · dsimp only
          split
          · exact State.free_devtime h
          · exact h
        · dsimp only
          refine State.onWorld_devtime ?_
          split
          · exact State.free_devtime h
          · exact h

theorem State.touchLeaf_devtime {s : State} {wn : Nat} {l : Leaf} (h : s.plat.devtime = T) :
    (State.touchLeaf s wn l).plat.devtime = T := by
  unfold State.touchLeaf
  repeat' split
  all_goals exact h

theorem State.resolve_devtime {s : State} {wn core : Nat} {k : AccKind} {va size : Nat} (h : s.plat.devtime = T) :
    (State.resolve s wn core k va size).1.plat.devtime = T := by
  unfold State.resolve
  split
  · exact h
  · split
    · exact h
    · split
      · exact devtime_fst ‹_› (State.translate_devtime h)
      · exact State.touchLeaf_devtime (devtime_fst ‹_› (State.translate_devtime h))

theorem State.storeT_devtime {s : State} {tt : Target} {l : List Byte} (h : s.plat.devtime = T) :
    (State.storeT s tt l).plat.devtime = T := by
  unfold State.storeT
  split
  · exact State.storePA_devtime h
  · exact State.onCrew_devtime h
  · exact State.onUnit_devtime h
  · exact h

theorem State.wakeRange_devtime {s : State} {p : Place} {len : Nat} (h : s.plat.devtime = T) :
    (State.wakeRange s p len).plat.devtime = T :=
  h

theorem State.useLines_devtime {s : State} {a keep : Nat} {write : Bool} {addrs : List Nat} (h : s.plat.devtime = T) :
    (State.useLines s a keep write addrs).plat.devtime = T :=
  h

theorem State.useNp_devtime {s : State} {write : Bool} {pa len : Nat} (h : s.plat.devtime = T) :
    (State.useNp s write pa len).plat.devtime = T :=
  h

theorem State.throttle_devtime {s : State} {core : Nat} (h : s.plat.devtime = T) :
    (State.throttle s core).plat.devtime = T := by
  unfold State.throttle
  exact foldl_devtime (fun s x h => State.arm_devtime h) h

theorem State.scoreRise_devtime {s : State} {core uid : Nat} (h : s.plat.devtime = T) :
    (State.scoreRise s core uid).plat.devtime = T := by
  unfold State.scoreRise
  refine State.throttle_devtime ?_
  exact h

theorem State.l1Fill_devtime {s : State} {core uid : Nat} {p : Place} (h : s.plat.devtime = T) :
    (State.l1Fill s core uid p).plat.devtime = T :=
  h

theorem State.cached_devtime {s : State} {core uid : Nat} {tt : Target} {write : Bool} (h : s.plat.devtime = T) :
    (State.cached s core uid tt write).plat.devtime = T := by
  unfold State.cached
  split
  · exact h
  · dsimp only
    refine State.l1Fill_devtime ?_
    split
    · refine State.useLines_devtime ?_
      split
      · exact State.scoreRise_devtime h
      · exact h
    · split
      · exact State.scoreRise_devtime h
      · exact h

theorem State.spadWrite_devtime {s : State} {uid m a : Nat} {l : List Byte} (h : s.plat.devtime = T) :
    (State.spadWrite s uid m a l).plat.devtime = T := by
  unfold State.spadWrite
  exact foldl_devtime (fun s x h => State.wakeRange_devtime h) (State.onUnit_devtime h)

theorem State.performAt_devtime {s : State} {tt : Target} {p : Place} {l : List Byte} (h : s.plat.devtime = T) :
    (State.performAt s tt p l).plat.devtime = T := by
  unfold State.performAt
  exact State.wakeRange_devtime (State.storeT_devtime h)

theorem State.noteWrite_devtime {s : State} {p : Party} {launch : Nat × Word} {tt : Target} {q : Place} {len : Nat} (h :
    s.plat.devtime = T) :
    (State.noteWrite s p launch tt q len).plat.devtime = T :=
  h

theorem State.forget_devtime {s : State} {q : Place} {len : Nat} (h : s.plat.devtime = T) :
    (State.forget s q len).plat.devtime = T := by
  unfold State.forget
  split <;> exact h

theorem State.storeLine_devtime {s : State} {p : PStore} (h : s.plat.devtime = T) :
    (State.storeLine s p).plat.devtime = T := by
  unfold State.storeLine
  split
  · exact State.cached_devtime h
  · exact h

theorem State.noteStore_devtime {s : State} {p : PStore} {len : Nat} (h : s.plat.devtime = T) :
    (State.noteStore s p len).plat.devtime = T := by
  unfold State.noteStore
  split
  · exact State.noteWrite_devtime h
  · exact h

theorem State.brings_devtime {s : State} {id : Nat} {old : BitVec 64} (h : s.plat.devtime = T) :
    (State.brings s id old).plat.devtime = T :=
  h

theorem State.applyStore_devtime {s : State} {p : PStore} (h : s.plat.devtime = T) :
    (State.applyStore s p).plat.devtime = T := by
  unfold State.applyStore
  dsimp only
  split
  · exact State.performAt_devtime (State.noteStore_devtime (State.storeLine_devtime h))
  · exact foldl_devtime (fun s x h => State.performAt_devtime h) (State.storeLine_devtime h)
  · exact State.performAt_devtime (State.noteStore_devtime (State.storeLine_devtime h))
  · refine State.brings_devtime ?_
    split
    · refine State.onLane_devtime ?_
      split
      · exact State.storeLine_devtime h
      · exact State.performAt_devtime (State.noteStore_devtime (State.storeLine_devtime h))
    · split
      · exact State.storeLine_devtime h
      · exact State.performAt_devtime (State.noteStore_devtime (State.storeLine_devtime h))

theorem State.dropEnded_devtime {s : State} {uid : Nat} (h : s.plat.devtime = T) :
    (State.dropEnded s uid).plat.devtime = T := by
  unfold State.dropEnded
  split <;> exact h

theorem State.performStores_devtime {s : State} {p : PStore → Bool} (h : s.plat.devtime = T) :
    (State.performStores s p).plat.devtime = T := by
  unfold State.performStores
  exact foldl_devtime (fun s x h => State.dropEnded_devtime h) (foldl_devtime (fun s x h => State.applyStore_devtime h) h)

theorem State.landRows_devtime {s : State} {p : Landing → Bool} (h : s.plat.devtime = T) :
    (State.landRows s p).plat.devtime = T := by
  unfold State.landRows
  split
  · dsimp only
    refine foldl_devtime (fun s x h => ?_) ?_
    · split
      · exact State.spadWrite_devtime h
      · exact h
    · exact h
  · exact h

theorem State.releasedBy_devtime {s : State} {p : Party} {scope : Nat} (h : s.plat.devtime = T) :
    (State.releasedBy s p scope).plat.devtime = T := by
  unfold State.releasedBy
  split <;> exact h

theorem State.acquiredBy_devtime {s : State} {p : Party} {scope : Nat} (h : s.plat.devtime = T) :
    (State.acquiredBy s p scope).plat.devtime = T := by
  unfold State.acquiredBy
  split <;> exact h

theorem State.released_devtime {s : State} {uid scope : Nat} (h : s.plat.devtime = T) :
    (State.released s uid scope).plat.devtime = T := by
  unfold State.released
  exact State.releasedBy_devtime h

theorem State.acquired_devtime {s : State} {uid scope : Nat} (h : s.plat.devtime = T) :
    (State.acquired s uid scope).plat.devtime = T := by
  unfold State.acquired
  exact State.acquiredBy_devtime h

theorem State.readLate_devtime {s : State} {p : Landing → Bool} (h : s.plat.devtime = T) :
    (State.readLate s p).plat.devtime = T := by
  unfold State.readLate
  split
  · exact foldl_devtime (fun s x h => State.dropEnded_devtime h) h
  · exact h

theorem State.finishHalves_devtime {s : State} {uid lane : Nat} (h : s.plat.devtime = T) :
    (State.finishHalves s uid lane).plat.devtime = T := by
  unfold State.finishHalves
  dsimp only
  split
  · split
    · exact State.performStores_devtime h
    · exact State.readLate_devtime (State.performStores_devtime h)
  · split
    · exact h
    · exact State.readLate_devtime h

theorem State.drainLane_devtime {s : State} {uid lane : Nat} (h : s.plat.devtime = T) :
    (State.drainLane s uid lane).plat.devtime = T := by
  unfold State.drainLane
  dsimp only
  refine State.landRows_devtime ?_
  split
  · exact State.performStores_devtime (State.finishHalves_devtime h)
  · exact State.finishHalves_devtime h

theorem State.syncOp_devtime {s : State} {uid : Nat} (h : s.plat.devtime = T) :
    (State.syncOp s uid).plat.devtime = T := by
  unfold State.syncOp
  exact State.dropEnded_devtime (State.onCrew_devtime h)

theorem State.syncRel_devtime {s : State} {uid scope : Nat} (h : s.plat.devtime = T) :
    (State.syncRel s uid scope).plat.devtime = T := by
  unfold State.syncRel
  exact State.syncOp_devtime (State.released_devtime h)

theorem State.settleOlder_devtime {s : State} {p : Party} (h : s.plat.devtime = T) :
    (State.settleOlder s p).plat.devtime = T := by
  unfold State.settleOlder
  split <;> exact h

theorem State.postSysc_devtime {s : State} {wn req : Nat} {r : SyscReq} (h : s.plat.devtime = T) :
    (State.postSysc s wn req r).plat.devtime = T := by
  unfold State.postSysc
  split
  · exact h
  · split
    · exact h
    · dsimp only
      split
      · split
        · exact State.syncRel_devtime (State.post_devtime (State.onWorld_devtime (State.onCrew_devtime (foldl_devtime (fun s x h =>
            State.drainLane_devtime h) h))))
        · exact State.post_devtime (State.onWorld_devtime (State.onCrew_devtime (foldl_devtime (fun s x h => State.drainLane_devtime h) h)))
      · split
        · split
          · exact State.syncRel_devtime (State.post_devtime (State.onWorld_devtime (State.onCrew_devtime (foldl_devtime (fun s x h =>
              State.drainLane_devtime h) h))))
          · exact State.post_devtime (State.onWorld_devtime (State.onCrew_devtime (foldl_devtime (fun s x h => State.drainLane_devtime h) h)))
        · split
          · exact State.syncRel_devtime (State.send_devtime (State.onWorld_devtime (State.onCrew_devtime (foldl_devtime (fun s x h =>
              State.drainLane_devtime h) h))))
          · exact State.send_devtime (State.onWorld_devtime (State.onCrew_devtime (foldl_devtime (fun s x h => State.drainLane_devtime h) h)))

theorem State.raiseSysc_devtime {s : State} {uid svc : Nat} {next : Word} {lanes : List Nat} (h : s.plat.devtime = T) :
    (State.raiseSysc s uid svc next lanes).plat.devtime = T := by
  unfold State.raiseSysc
  dsimp only
  split
  · exact h
  · split
    · exact State.onWorld_devtime (State.onCrew_devtime (State.fresh_devtime h))
    · exact State.postSysc_devtime (State.onCrew_devtime (State.fresh_devtime h))

theorem State.releaseBin_devtime {s : State} {q : Nat} {b : Bin} (h : s.plat.devtime = T) :
    (State.releaseBin s q b).plat.devtime = T := by
  unfold State.releaseBin
  dsimp only
  split
  · exact State.onCrew_devtime (State.onQuarter_devtime h)
  · exact State.raiseSysc_devtime (State.onQuarter_devtime h)

theorem State.fileLanes_devtime {s : State} {uid : Nat} {q : Nat} {pc : Word} {wb : Nat} {sysc : Option (Nat × Word)} {x1 : Nat} {x2 : List Nat} (h : s.plat.devtime = T) : (State.fileLanes s uid q pc wb sysc x1 x2).plat.devtime = T := by
  induction x1 generalizing s x2 with
  | zero =>
    exact h
  | succ n ih =>
    unfold State.fileLanes
    split
    · exact h
    · dsimp only
      split
      · apply ih
        exact State.onCrew_devtime (State.onQuarter_devtime h)
      · apply ih
        refine State.post_devtime ?_
        refine State.onCrew_devtime ?_
        refine State.onQuarter_devtime ?_
        refine State.fresh_devtime ?_
        split
        · split
          · exact State.releaseBin_devtime h
          · exact h
        · exact h

theorem State.fileAll_devtime {s : State} {uid : Nat} {sysc : Option (Nat × Word)} {keys : List (Nat × Word × Nat)} (h : s.plat.devtime = T) :
    (State.fileAll s uid sysc keys).plat.devtime = T := by
  unfold State.fileAll
  split
  · exact h
  · exact foldl_devtime (fun s x h => State.fileLanes_devtime h) h

theorem State.engPart_devtime {s : State} {wn core : Nat} {k : AccKind} {va n : Nat} (h : s.plat.devtime = T) :
    (State.engPart s wn core k va n).1.plat.devtime = T := by
  unfold State.engPart
  split <;> exact devtime_fst ‹_› (State.resolve_devtime h)

theorem State.engTargets_devtime {s : State} {wn : Nat} {core : Nat} {k : AccKind} {x1 : List (Nat × Nat)} (h : s.plat.devtime = T) : (State.engTargets s wn core k x1).1.plat.devtime = T := by
  induction x1 generalizing s with
  | nil =>
    exact h
  | cons y l ih =>
    obtain ⟨va, len⟩ := y
    unfold State.engTargets
    split
    · split
      · dsimp only
        refine devtime_fst ‹_› ?_
        apply ih
        exact devtime_fst ‹_› (State.engPart_devtime h)
      · dsimp only
        refine devtime_fst ‹_› ?_
        apply ih
        exact devtime_fst ‹_› (State.engPart_devtime h)
    · exact devtime_fst ‹_› (State.engPart_devtime h)
    · split
      · dsimp only
        refine devtime_fst ‹_› ?_
        apply ih
        exact devtime_fst ‹_› (State.engPart_devtime h)
      · dsimp only
        refine devtime_fst ‹_› ?_
        apply ih
        exact devtime_fst ‹_› (State.engPart_devtime h)
    · exact devtime_fst ‹_› (State.engPart_devtime h)

theorem State.storeParts_devtime {s : State} {x1 : List (Target × Place × Nat × Nat)} {x2 : List Byte} (h : s.plat.devtime = T) : (State.storeParts s x1 x2).plat.devtime = T := by
  induction x1 generalizing s x2 with
  | nil =>
    exact h
  | cons y l ih =>
    obtain ⟨t, p, va, len⟩ := y
    unfold State.storeParts
    apply ih
    exact State.wakeRange_devtime (State.storeT_devtime h)

theorem State.noteParts_devtime {s : State} {p : Party} {launch : Nat × Word} {ts : List (Target × Place × Nat × Nat)} (h :
    s.plat.devtime = T) :
    (State.noteParts s p launch ts).plat.devtime = T := by
  unfold State.noteParts
  refine foldl_devtime (fun s x h => ?_) ?_
  · split
    · exact State.noteWrite_devtime h
    · exact h
  · exact h

theorem State.useParts_devtime {s : State} {core : Nat} {k : AccKind} {ts : List (Target × Place × Nat × Nat)} (h : s.plat.devtime = T) :
    (State.useParts s core k ts).plat.devtime = T :=
  h

theorem State.devWrite_devtime {s : State} {wn va : Nat} {l : List Byte} (h : s.plat.devtime = T) :
    (State.devWrite s wn va l).1.plat.devtime = T := by
  unfold State.devWrite
  split
  · exact State.storeParts_devtime (foldl_devtime (fun s x h => State.forget_devtime h) (foldl_devtime (fun s x h => State.useNp_devtime h)
      (devtime_fst ‹_› (State.engTargets_devtime h))))
  · exact devtime_fst ‹_› (State.engTargets_devtime h)

theorem State.passCrew_devtime {s : State} {b : Nat} {phase : Word} {c : Crew} (h : s.plat.devtime = T) :
    (State.passCrew s b phase c).plat.devtime = T := by
  unfold State.passCrew
  dsimp only
  refine State.syncOp_devtime ?_
  refine State.acquired_devtime ?_
  split
  · exact State.onCrew_devtime h
  · exact State.fileAll_devtime (State.onCrew_devtime h)

theorem State.passBars_devtime {s : State} {uid b : Nat} {phase : Word} (h : s.plat.devtime = T) :
    (State.passBars s uid b phase).plat.devtime = T := by
  unfold State.passBars
  exact foldl_devtime (fun s x h => State.passCrew_devtime h) h

theorem State.arrive_devtime {s : State} {uid b : Nat} (h : s.plat.devtime = T) :
    (State.arrive s uid b).plat.devtime = T := by
  unfold State.arrive
  split
  · exact h
  · split
    · exact h
    · exact State.passBars_devtime (State.onUnit_devtime h)

theorem State.async_devtime {s : State} {uid : Nat} {tr : Trap} {lanes : Option (List Nat)} (h : s.plat.devtime = T) :
    (State.async s uid tr lanes).plat.devtime = T :=
  h

theorem State.putRecord_devtime {s : State} {e : Entry} {ws : List Word} (h : s.plat.devtime = T) :
    (State.putRecord s e ws).1.plat.devtime = T := by
  unfold State.putRecord
  dsimp only
  split
  · exact State.spadWrite_devtime (State.releasedBy_devtime h)
  · split
    · exact foldl_devtime (fun s x h => State.acquired_devtime h) (State.storeParts_devtime (State.releasedBy_devtime (State.noteParts_devtime
        (State.useParts_devtime (devtime_fst ‹_› (State.engTargets_devtime h))))))
    · exact devtime_fst ‹_› (State.engTargets_devtime h)
    · exact devtime_fst ‹_› (State.engTargets_devtime h)
    · exact devtime_fst ‹_› (State.engTargets_devtime h)

theorem State.putSample_devtime {s : State} {wn : Nat} {ws : List Word} (h : s.plat.devtime = T) :
    (State.putSample s wn ws).plat.devtime = T := by
  unfold State.putSample
  split
  · exact h
  · dsimp only
    split
    · exact State.onWorld_devtime h
    · split <;> exact State.onWorld_devtime (devtime_fst ‹_› (State.devWrite_devtime h))

theorem State.startNext_devtime {s : State} {unit key : Nat} (h : s.plat.devtime = T) :
    (State.startNext s unit key).plat.devtime = T := by
  unfold State.startNext
  split
  · split
    · exact State.arm_devtime h
    · exact h
  · exact h

theorem State.wakeQueues_devtime {s : State} {unit : Nat} (h : s.plat.devtime = T) :
    (State.wakeQueues s unit).plat.devtime = T := by
  unfold State.wakeQueues
  refine foldl_devtime (fun s x h => ?_) ?_
  · split
    · split
      · exact State.arm_devtime h
      · exact State.arm_devtime h
      · exact h
    · exact h
  · exact h

theorem State.unrefFrame_devtime {s : State} {i : Nat} (h : s.plat.devtime = T) :
    (State.unrefFrame s i).plat.devtime = T := by
  unfold State.unrefFrame
  dsimp only
  split
  · split
    · split
      · refine State.arm_devtime ?_
        split
        · exact State.arm_devtime (State.onFrame_devtime h)
        · exact State.onFrame_devtime h
      · refine State.arm_devtime ?_
        split
        · exact State.arm_devtime (State.onFrame_devtime h)
        · exact State.onFrame_devtime h
      · split
        · exact State.arm_devtime (State.onFrame_devtime h)
        · exact State.onFrame_devtime h
    · exact State.onFrame_devtime h
  · exact State.onFrame_devtime h

theorem State.closeEntry_devtime {s : State} {e : Entry} {written : Bool} {status : Nat} {ws : List Word}
    (h : s.plat.devtime = T) : (s.closeEntry e written status ws).plat.devtime = T := by
  unfold State.closeEntry
  extract_lets s1 s2 s3 s4 blk s5 s6 s7 s8
  have h1 : s1.plat.devtime = T := by
    unfold s1
    refine State.settleOlder_devtime ?_
    exact h
  have h2 : s2.plat.devtime = T := by
    unfold s2
    exact foldl_devtime (fun s x h => State.unrefFrame_devtime h) h1
  have h3 : s3.plat.devtime = T := by
    unfold s3
    exact State.onUnit_devtime h2
  have h4 : s4.plat.devtime = T := by
    unfold s4
    exact State.onLaunch_devtime h2
  have h5 : s5.plat.devtime = T := by
    unfold s5
    split
    · split
      · exact State.putSample_devtime h2
      · exact h2
    · exact h2
  have h6 : s6.plat.devtime = T := by
    unfold s6
    split
    · exact State.arrive_devtime h5
    · exact h5
  have h7 : s7.plat.devtime = T := by
    unfold s7
    split
    · split
      · exact State.async_devtime h6
      · exact h6
    · exact h6
  have h8 : s8.plat.devtime = T := by
    unfold s8
    exact State.wakeQueues_devtime (State.startNext_devtime h7)
  split
  · split
    · exact State.post_devtime h8
    · exact h8
  · exact h8

theorem State.finishEntry_devtime {s : State} {id status fault aux bytes path : Nat} (h : s.plat.devtime = T) :
    (State.finishEntry s id status fault aux bytes path).plat.devtime = T := by
  unfold State.finishEntry
  split
  · exact h
  · dsimp only
    split
    · exact State.closeEntry_devtime h
    · split
      · exact State.closeEntry_devtime (devtime_fst ‹_› (State.putRecord_devtime h))
      · exact State.arm_devtime (State.onEntry_devtime (devtime_fst ‹_› (State.putRecord_devtime h)))
      · exact State.closeEntry_devtime (devtime_fst ‹_› (State.putRecord_devtime h))

theorem State.a2avCheck_devtime {s : State} {id : Nat} (h : s.plat.devtime = T) : (s.a2avCheck id).plat.devtime = T := by
  unfold State.a2avCheck
  split
  · exact h
  · split
    · split
      · exact State.finishEntry_devtime h
      · exact h
    · exact h

end Sys2Proof.Machine
end


section
/-! # Packets, time, links, keys and epochs (R401 to R405, R419, R422 to R424) -/

namespace Sys2Proof.Machine

/-! ## Packets (R401 to R404) -/

/-- What a packet does by its mode, its tag and what its peer has sent before. -/
theorem packet_received {s : State} {w : World} {p : Packet} (hw : s.world p.world = some w) :
    exec (.packetReceive p) s =
      if (p.mode != .rud && p.mode != .rod) = true then .next (s.onWorld w.num fun w => { w with
        fab := { w.fab with modedrop := w.fab.modedrop + 1 } })
      else if (!s.packetOk w p) = true then .next (s.onWorld w.num fun w => { w with
        fab := { w.fab with badpkt := w.fab.badpkt + 1 } })
      else
        let peer := rankPeer w.job p.peer
        let t := (s.send (.fabric clsAck peer (leBytes 8 p.seq))).countPacket peer
        if (t.peer peer).seen.contains p.seq then .next t
        else
          let u := t.onPeer peer fun x => { x with seen := x.seen ++ [p.seq] }
          p.req.elim (.next (p.reply.elim u u.takeReply)) fun r => exec (.rmaRequestReceive r) (p.reply.elim u u.takeReply) := by
  show execPacketReceive p s = _
  unfold execPacketReceive
  rw [hw]
  cases p.req <;> cases p.reply <;> rfl

/-- What the timer of a packet does that is not acknowledged (R403). -/
theorem retransmit_of {s : State} {peer : Nat} {x : Sent} (h : (s.peer peer).unacked.find? (·.seq == x.seq) = some x) :
    let sets := fun (z : State) (f : Sent → Sent) => z.onPeer peer fun p => { p with
      unacked := mapIf (fun (y : Sent) => y.seq == x.seq) f p.unacked }
    (x.lost = true → exec (.retransmitTimeout peer x.seq) s = .next s) ∧
    (x.lost = false → 8 ≤ x.sends → exec (.retransmitTimeout peer x.seq) s = .next (State.transportFailed
      (if x.put = none then s.onPeer peer fun p => { p with unacked := p.unacked.filter (·.seq != x.seq) }
       else sets s fun y => { y with lost := true }) peer x.owner x.part)) ∧
    (x.lost = false → x.sends < 8 → ∀ z port entropy tries, s.reroute peer x = (z, port, entropy, tries) →
      exec (.retransmitTimeout peer x.seq) s = .next ((((sets z fun y => { y with
        sends := y.sends + 1
        port
        entropy
        tries }).send (.packet x.cls peer x.seq port entropy x.off x.len)).countPacket peer).arm (.retransmitTimeout peer x.seq))) := by
  intro sets
  show (_ → execRetransmitTimeout peer x.seq s = _) ∧ (_ → _ → execRetransmitTimeout peer x.seq s = _) ∧
    (_ → _ → ∀ z port entropy tries, _ → execRetransmitTimeout peer x.seq s = _)
  unfold execRetransmitTimeout
  rw [h]
  refine ⟨fun hl => if_pos hl, fun hl hn => ?_, fun hl hn z port entropy tries hr => ?_⟩
  · refine (if_neg (by simp [hl])).trans ((if_pos hn).trans ?_)
    cases x.put <;> rfl
  · refine (if_neg (by simp [hl])).trans ((if_neg (by omega)).trans ?_)
    rw [hr]
    rfl

/-- A packet that is not ordered is sprayed again (R402). -/
theorem reroute_sprayed {s : State} {peer : Nat} {x : Sent} (h : x.cls = clsRud) :
    (s.reroute peer x).2.1 = s.portAt (Config.spray s.freeCtr).1 ∧
      (s.reroute peer x).2.2.1 = (Config.spray s.freeCtr).2 % 256 := by
  unfold State.reroute State.route
  simp only [h, bne_self_eq_false, Bool.false_and, Bool.false_eq_true, if_false]
  exact ⟨rfl, rfl⟩

/-- A packet's flow is to leave its port: the packet has been sent again there twice (R402). -/
def State.flowMoves (s : State) (peer : Nat) (x : Sent) : Bool :=
  x.cls != clsRud && ((s.peer peer).flows.any fun f => f.cls == x.cls && some f.port == x.port) && decide (2 ≤ x.tries)

/-- The state in which an ordered packet takes its flow's port again. -/
def State.flowMoved (s : State) (peer : Nat) (x : Sent) : State :=
  if s.flowMoves peer x = true then s.onPeer peer fun p => p.setFlow x.cls (x.port.bind s.nextPort) x.entropy else s

/-- Where an ordered packet goes again: the flow that its peer has after a possible move. -/
theorem reroute_ordered {s : State} {peer : Nat} {x : Sent} {f : RodFlow} (h : x.cls ≠ clsRud)
    (hf : ((s.flowMoved peer x).peer peer).flows.find? (·.cls == x.cls) = some f) :
    (s.reroute peer x).2 = (some f.port, f.entropy, if some f.port == x.port then x.tries + 1 else 1) := by
  have hr : s.reroute peer x = (let (z, port, entropy) := (s.flowMoved peer x).route x.cls peer
    (z, port, entropy, if port == x.port then x.tries + 1 else 1)) := rfl
  rw [hr]
  unfold State.route State.rodFlow
  rw [hf, if_neg h]

/-- A flow that is set on a port is the peer's flow of its class. -/
theorem flow_set (s : State) (peer cls p entropy : Nat) :
    ((s.onPeer peer fun x => x.setFlow cls (some p) entropy).peer peer).flows.find? (·.cls == cls) = some ⟨cls, p, entropy⟩ := by
  have hne : (s.peer peer).setFlow cls (some p) entropy ≠ Peer.init peer := fun h =>
    absurd (congrArg Peer.flows h) (List.cons_ne_nil _ _)
  have hget : (s.onPeer peer fun x => x.setFlow cls (some p) entropy).peer peer = (s.peer peer).setFlow cls (some p) entropy :=
    tabGet_tabPut_listed hne
  rw [hget]
  exact List.find?_cons_of_pos (by simp)

/-- An ordered packet stays on its flow's port for two resends, and its flow moves to the next port then (R402). -/
theorem reroute_flow {s : State} {peer : Nat} {x : Sent} {f : RodFlow} (h : x.cls ≠ clsRud)
    (hf : (s.peer peer).flows.find? (·.cls == x.cls) = some f) (hx : x.port = some f.port) :
    (x.tries < 2 → (s.reroute peer x).2 = (some f.port, f.entropy, x.tries + 1)) ∧
    ∀ p, 2 ≤ x.tries → s.nextPort f.port = some p →
      (s.reroute peer x).2 = (some p, x.entropy, if p = f.port then x.tries + 1 else 1) := by
  refine ⟨fun ht => ?_, fun p ht hp => ?_⟩
  · have hstay : s.flowMoves peer x = false := by
      have : ¬ 2 ≤ x.tries := by omega
      simp [State.flowMoves, this]
    have hm : s.flowMoved peer x = s := if_neg (by rw [hstay]; decide)
    rw [reroute_ordered h (hm.symm ▸ hf), hx, if_pos (by simp)]
  · have hon : ((s.peer peer).flows.any fun f => f.cls == x.cls && some f.port == x.port) = true := by
      refine List.any_eq_true.2 ⟨f, List.mem_of_find?_eq_some hf, ?_⟩
      have := List.find?_some hf
      simpa [hx] using this
    have hmoves : s.flowMoves peer x = true := by
      unfold State.flowMoves
      rw [hon]
      simp [h, ht]
    have hnext : x.port.bind s.nextPort = some p := by
      rw [hx]
      exact hp
    have hm : s.flowMoved peer x = s.onPeer peer fun y => y.setFlow x.cls (some p) x.entropy := by
      unfold State.flowMoved
      rw [if_pos hmoves, hnext]
    rw [reroute_ordered h (hm.symm ▸ flow_set s peer x.cls p x.entropy), hx]
    simp

/-- An acknowledgement, marked or not, of a packet that is awaited (R404). -/
theorem ack_received {s : State} {peer seq : Nat} {x : Sent} (h : (s.peer peer).unacked.find? (·.seq == seq) = some x) :
    let t := ((s.onPeer peer fun p => { p with unacked := p.unacked.filter (·.seq != seq) }).disarm
      (· == .retransmitTimeout peer seq)).a2avCheck x.owner
    exec (.ackReceive peer seq false) s = .next t ∧
    ((t.peer peer).lastFall = none → exec (.ackReceive peer seq true) s = .next ((t.onPeer peer fun p => { p with
      marked := true
      rate := clampRate (p.rate * 7 / 8)
      lastFall := some s.plat.devtime.toNat }).arm (.rateRiseTick peer))) := by
  intro t
  have ht : s.acknowledged peer seq = t := by
    unfold State.acknowledged
    rw [h]
    rfl
  have hexec : ∀ marked, exec (.ackReceive peer seq marked) s = execAckReceive peer seq marked s := fun _ => rfl
  have htime : t.plat.devtime = s.plat.devtime := State.a2avCheck_devtime rfl
  rw [hexec, hexec]
  unfold execAckReceive
  rw [ht]
  refine ⟨rfl, fun hl => ?_⟩
  refine (if_neg (by decide)).trans ?_
  rw [hl, htime]
  rfl

/-! ## Device time and ports (R402, R405) -/

/-- A correction is slewed in by at most `most`. -/
theorem slew_between {most : Int} (h : 0 ≤ most) (c : Int) :
    -most ≤ (if c > most then most else if c < -most then -most else c) ∧
      (if c > most then most else if c < -most then -most else c) ≤ most := by
  split
  · omega
  · split <;> omega

theorem ptp_synced (s : State) (elapsed : Nat) (correction : Int) : ∃ n : Nat,
    10000 * n ≤ 10001 * elapsed ∧ 9999 * elapsed ≤ 10000 * n ∧
    ∃ t, exec (.ptpSync elapsed correction) s = .next t ∧ t = { s with plat := { s.plat with
      devtime := t.plat.devtime
      secClock := s.plat.secClock + elapsed / 1000
      ptpLocked := t.plat.ptpLocked } } ∧ s.plat.devtime.toNat ≤ t.plat.devtime.toNat ∧
      (let left := correction - ((n : Int) - (elapsed : Int))
       t.plat.ptpLocked = true ↔ left ≤ 1000 ∧ -1000 ≤ left) ∧
      (s.plat.devtime.toNat + n < 2 ^ 64 → t.plat.devtime.toNat = s.plat.devtime.toNat + n) := by
  let most : Int := elapsed / 10000
  let slew := if correction > most then most else if correction < -most then -most else correction
  have hslew : -most ≤ slew ∧ slew ≤ most := slew_between (Int.ediv_nonneg (Int.natCast_nonneg _) (by decide)) correction
  have hmost : 10000 * most ≤ elapsed := Int.mul_ediv_self_le (by decide)
  obtain ⟨n, hn⟩ : ∃ n : Nat, (n : Int) = elapsed + slew := ⟨(elapsed + slew).toNat, Int.toNat_of_nonneg (by omega)⟩
  have hto : ((elapsed : Int) + slew).toNat = n := by omega
  refine ⟨n, by omega, by omega, _, rfl, rfl, ?_, ?_, ?_⟩
  · show _ ≤ BitVec.toNat (if s.plat.devtime.toNat + ((elapsed : Int) + slew).toNat < 2 ^ 64 then
      BitVec.ofNat 64 (s.plat.devtime.toNat + ((elapsed : Int) + slew).toNat) else s.plat.devtime)
    rw [hto]
    split
    · rw [BitVec.toNat_ofNat, Nat.mod_eq_of_lt ‹_›]
      omega
    · omega
  · show decide (correction - slew ≤ 1000 ∧ slew - correction ≤ 1000) = true ↔ _
    rw [decide_eq_true_eq]
    have : correction - ((n : Int) - elapsed) = correction - slew := by omega
    constructor
    · rintro ⟨h1, h2⟩
      exact ⟨by omega, by omega⟩
    · rintro ⟨h1, h2⟩
      exact ⟨by omega, by omega⟩
  · intro hlt
    show BitVec.toNat (if s.plat.devtime.toNat + ((elapsed : Int) + slew).toNat < 2 ^ 64 then
      BitVec.ofNat 64 (s.plat.devtime.toNat + ((elapsed : Int) + slew).toNat) else s.plat.devtime) = _
    rw [hto, if_pos hlt, BitVec.toNat_ofNat, Nat.mod_eq_of_lt hlt]

theorem port_down {s : State} (h : s.ckpt.stat ≠ ckStreaming) (port : Nat) : exec (.portDown port) s =
    .next { s with plat := { s.plat with portsUp := s.plat.portsUp.filter (· != port) } } := by
  show execPortDown port s = _
  unfold execPortDown
  exact congrArg Host.Outcome.next (if_neg (by simp [h]))

/-! ## Flits and link units (R419, R422) -/

theorem flit_received (s : State) (die world entry pa granules : Nat) :
    (s.plat.dieWorld.getD die 0 = world → exec (.dieFlitReceive die world entry pa granules) s = .next s) ∧
    (s.plat.dieWorld.getD die 0 ≠ world → exec (.dieFlitReceive die world entry pa granules) s = .next (State.linkLost { s with
      plat := { s.plat with flitDrops := s.plat.flitDrops + 1 } } entry pa granules)) := by
  show (_ → execDieFlitReceive die world entry pa granules s = _) ∧ (_ → execDieFlitReceive die world entry pa granules s = _)
  unfold execDieFlitReceive
  exact ⟨fun h => if_pos h, fun h => if_neg h⟩

theorem unit_failed (s : State) (i entry pa granules : Nat) :
    ((s.link i).fails < 3 → exec (.linkUnitReceive i false entry pa granules) s =
      .next ((s.onLink i fun l => { l with fails := l.fails + 1 }).linkRetry entry)) ∧
    (3 ≤ (s.link i).fails → exec (.linkUnitReceive i false entry pa granules) s =
      .next ((s.onLink i fun l => { l with fails := 0 }).linkLost entry pa granules)) := by
  show (_ → execLinkUnitReceive i false entry pa granules s = _) ∧ (_ → execLinkUnitReceive i false entry pa granules s = _)
  unfold execLinkUnitReceive
  exact ⟨fun h => (if_neg (by decide)).trans (if_neg (by omega)), fun h => (if_neg (by decide)).trans (if_pos h)⟩

/-! ## Keys and epochs (R423, R424) -/

/-- The authority of a job gives a rank its key. -/
theorem session_key_authority {s : State} {w : World} {job rank : Nat} (hw : s.worlds.find? (·.job == job) = some w)
    (ha : w.fab.authrank = w.np.rank) :
    (∀ b, rank = w.np.rank → exec (.sessionKeyDistribution job rank b) s = .next (s.holdKey job)) ∧
    (rank ≠ w.np.rank →
      exec (.sessionKeyDistribution job rank false) s =
        .next ((s.attestRank job rank).onPeer (rankPeer job rank) fun p => { p with failed := true }) ∧
      ((s.epoch job).1 ≠ 0 → exec (.sessionKeyDistribution job rank true) s =
        .next ((((s.attestRank job rank).onPeer (rankPeer job rank) fun p => { p with failed := false }).send
          (.key job rank (s.epoch job).1)).transmitPart clsTrust (rankPeer job rank) 0 0 0))) := by
  have haut : ¬ (!w.isAuthority) = true := by simp [World.isAuthority, ha]
  have hexec : ∀ b, exec (.sessionKeyDistribution job rank b) s = execSessionKeyDistribution job rank b s := fun _ => rfl
  simp only [hexec]
  unfold execSessionKeyDistribution State.jobWorld
  rw [hw]
  have hepoch : (s.attestRank job rank).epoch job = s.epoch job := rfl
  generalize s.attestRank job rank = z at hepoch
  refine ⟨fun b hr => (if_neg haut).trans (if_pos hr), fun hr => ⟨(if_neg haut).trans (if_neg hr), fun he =>
    (if_neg haut).trans ((if_neg hr).trans ((if_pos rfl).trans ?_))⟩⟩
  have hheld : z.holdKey job = z := if_neg (hepoch ▸ he)
  have hpeer : (z.onPeer (rankPeer job rank) fun p => { p with failed := false }).epoch job = s.epoch job := hepoch
  rw [hheld]
  dsimp only
  rw [hpeer]

/-- Another rank takes its key once it is attested. -/
theorem session_key_member {s : State} {w : World} {job rank : Nat} (hw : s.worlds.find? (·.job == job) = some w)
    (ha : w.fab.authrank ≠ w.np.rank) :
    exec (.sessionKeyDistribution job rank true) s = .next (if rank = w.np.rank then s.holdKey job else s) ∧
    exec (.sessionKeyDistribution job rank false) s = .next s := by
  have haut : (!w.isAuthority) = true := by simp [World.isAuthority, ha]
  have hexec : ∀ b, exec (.sessionKeyDistribution job rank b) s = execSessionKeyDistribution job rank b s := fun _ => rfl
  simp only [hexec]
  unfold execSessionKeyDistribution State.jobWorld
  rw [hw]
  refine ⟨(if_pos haut).trans ?_, (if_pos haut).trans ?_⟩ <;> simp

/-- Settles O49: a packet by its mode, tag and history; the other steps by the branch that their hypotheses choose. -/
theorem fabricSteps : Obligations.FabricSteps := by
  unfold Obligations.FabricSteps
  refine ⟨?_, ?_, ?_, fun _ _ => rfl, fun s elapsed correction => ptp_synced s elapsed correction, fun _ => rfl,
    fun s port h => port_down h port, ?_, fun s die world entry pa granules => flit_received s die world entry pa granules, ?_, ?_, ?_⟩
  · intro s w p hw
    have hp := packet_received hw
    refine ⟨fun hu hr => ?_, fun hm => ⟨fun hok => ?_, fun hok => ?_⟩⟩
    · exact hp.trans (if_pos (by simp [hu, hr]))
    all_goals rw [if_neg (show ¬ (p.mode != .rud && p.mode != .rod) = true by obtain h | h := hm <;> simp [h])] at hp
    · exact hp.trans (if_pos (by simp [hok]))
    · rw [if_neg (by simp [hok])] at hp
      intro peer t
      refine ⟨fun hs => hp.trans (if_pos (by simpa using hs)), fun hs hq => ?_, fun r hs hq hrep => ?_⟩
      · rw [hq] at hp
        have hp := hp.trans (if_neg (by simpa using hs))
        intro u
        refine ⟨fun hrep => ?_, fun r hrep => ?_⟩
        all_goals
          rw [hrep] at hp
          exact hp
      · rw [hq, hrep] at hp
        exact hp.trans (if_neg (by simpa using hs))
  · intro s peer x h sets
    obtain ⟨hlost, hfail, hsend⟩ := retransmit_of h
    exact ⟨hlost, hfail, hsend, fun hc => reroute_sprayed hc, fun f hc hf hx => reroute_flow hc hf hx⟩
  · intro s peer seq x h t
    obtain ⟨hplain, hmark⟩ := ack_received h
    exact ⟨hplain, fun _ hl => hmark hl⟩
  · intro s port p
    exact ⟨_, rfl, by simp [List.mem_filter]⟩
  · intro s i entry pa granules
    obtain ⟨hretry, hlost⟩ := unit_failed s i entry pa granules
    exact ⟨rfl, hretry, hlost, rfl, rfl⟩
  · intro s w job rank hw first
    refine ⟨fun ha => ?_, fun ha => session_key_member hw ha⟩
    obtain ⟨hown, hother⟩ := session_key_authority (rank := rank) hw ha
    exact ⟨hown, fun hr => hother hr⟩
  · intro s job
    refine ⟨fun he => ?_, rfl⟩
    show execEpochAdvance job s = _
    exact if_neg he

end Sys2Proof.Machine
end


section
/-! # Firmware, SPDM answers and switch leases (R410 to R418) -/

namespace Sys2Proof.Machine

/-! ## Firmware (R411, R414) -/

/-- What R411 asks of an image before it is activated. -/
theorem firmware_activated {s : State} {c target svn : Nat} {ecdsaOk hssOk : Bool} (digest : Nat) (live : Bool) :
    let ok := ecdsaOk = true ∧ hssOk = true ∧ s.plat.minSvn ≤ svn ∧ c = target ∧ 2 ≤ c ∧ c ≤ 6
    let run := { s with plat := { s.plat with versions := tabPut s.plat.versions 0 c svn } }
    (¬ ok → exec (.firmwareActivation c target svn ecdsaOk hssOk digest live) s = .next (s.send (.firmware 3 c))) ∧
    (ok → (live = true → 3 ≤ c) → exec (.firmwareActivation c target svn ecdsaOk hssOk digest live) s =
      if live then .next (State.post { run with plat := { run.plat with activating := s.plat.activating + 1 } }
        (.liveActivationEnd c digest))
      else .next { run with
        plat := { run.plat with
          images := tabPut s.plat.images 0 c digest
          measures := tabPut s.plat.measures 0 c digest } }) := by
  intro ok run
  show (_ → execFirmwareActivation c target svn ecdsaOk hssOk digest live s = _) ∧
    (_ → _ → execFirmwareActivation c target svn ecdsaOk hssOk digest live s = _)
  unfold execFirmwareActivation
  refine ⟨fun hno => if_pos ?_, fun hok hl => (if_neg ?_).trans rfl⟩
  · refine Decidable.byContradiction fun hc => hno ?_
    simp only [hasImage, Bool.or_eq_true, Bool.not_eq_true', Bool.and_eq_false_iff, decide_eq_true_eq, not_or, Bool.not_eq_false,
      decide_eq_false_iff_not, Nat.not_lt, Decidable.not_not] at hc
    obtain ⟨⟨⟨⟨⟨h1, h2⟩, h3⟩, h4⟩, h5, h6⟩, -⟩ := hc
    exact ⟨h1, h2, h3, h4, h5, h6⟩
  · obtain ⟨h1, h2, h3, h4, h5, h6⟩ := hok
    subst h4
    have hlive : (live && !liveComponent c) = false := by
      cases live with
      | false => rfl
      | true => simp [liveComponent, hl rfl, h6]
    simp [h1, h2, h3, hasImage, h5, h6, hlive]

/-! ## SPDM answers (R412 to R415) -/

theorem signed_refused {s : State} (h : 2 ^ 40 ≤ s.plat.hssUsed) (answer : State → State) : s.signed answer = s.spdmError errUnspecified :=
  if_pos h

theorem signed_answered {s : State} (h : s.plat.hssUsed < 2 ^ 40) (answer : State → State) :
    s.signed answer = answer { s with plat := { s.plat with hssUsed := s.plat.hssUsed + 1 } } :=
  if_neg (Nat.not_le.2 h)

/-- CHALLENGE and KEY_EXCHANGE of slot 0 are answered with a signature. -/
theorem spdm_signed (s : State) (nonce : Nat) :
    exec (.challenge 0x13 0 nonce) s = .next (s.signed fun s => s.send (.spdm 0x03 ([0, nonce] ++ s.vendorElement))) ∧
    exec (.keyExchange 0x13 0) s = .next (s.signed fun s => State.send { s with plat := { s.plat with
      sessions := s.plat.sessions ++ [s.plat.nextSession]
      nextSession := s.plat.nextSession + 1 } } (.spdm 0x64 ([s.plat.nextSession] ++ s.vendorElement))) :=
  ⟨rfl, rfl⟩

theorem measurements_unsigned {s : State} {index : Nat} (h : s.plat.activating = 0) (hi : index ≤ 7 ∨ index = 0xFF) (nonce : Nat) :
    exec (.getMeasurements 0x13 index false nonce) s = .next (s.send (.spdm 0x60 (s.measurement index))) := by
  refine congrArg Host.Outcome.next ((if_neg (not_not_intro h)).trans ((if_neg ?_).trans (if_neg (by decide))))
  simp
  omega

theorem measurements_signed {s : State} {index : Nat} (h : s.plat.activating = 0) (hi : index ≤ 7 ∨ index = 0xFF) (nonce : Nat) :
    exec (.getMeasurements 0x13 index true nonce) s =
      .next (s.signed fun s => s.send (.spdm 0x60 ([nonce] ++ s.measurement index ++ s.vendorElement))) := by
  refine congrArg Host.Outcome.next ((if_neg (not_not_intro h)).trans ((if_neg ?_).trans (if_pos rfl)))
  simp
  omega

theorem measurement_block (s : State) : s.measurement 0 = [7] ∧ (s.measurement 0xFF).length = 14 ∧
    ∀ k, 1 ≤ k → k ≤ 7 → s.measurement k = [k, tabGet s.plat.measures 0 k] := by
  refine ⟨rfl, rfl, fun k h1 h7 => ?_⟩
  obtain rfl | rfl | rfl | rfl | rfl | rfl | rfl : k = 1 ∨ k = 2 ∨ k = 3 ∨ k = 4 ∨ k = 5 ∨ k = 6 ∨ k = 7 := by omega
  all_goals rfl

theorem inSession_open {s : State} {session : Nat} (h : session ∈ s.plat.sessions) (serve : State → State) :
    s.inSession session serve = serve s :=
  if_pos (by simpa using h)

theorem inSession_unknown {s : State} {session : Nat} (h : session ∉ s.plat.sessions) (serve : State → State) :
    s.inSession session serve = s.spdmError errInvalid :=
  if_neg (by simpa using h)

/-! ## Attestation of a switch by the authority (R416, R417) -/

/-- The lease is timed anew and told to every rank, the Busy switch no longer asked. -/
def State.leaseTold (s : State) (wn swid : Nat) : State :=
  ((s.disarm (· == .leaseBusyRetry wn swid)).timeLease wn swid).tellLease wn swid

/-- What an attestation does by its outcome. -/
theorem lease_attested {s : State} {w : World} {swid now : Nat} (hw : s.world w.num = some w) (ha : w.isAuthority = true) :
    let c := s.clockTo now
    (∀ report, exec (.leaseAttestation w.num swid (.report report) now) s =
      .next ((c.judgeReport w swid c.plat.secClock report).leaseTold w.num swid)) ∧
    exec (.leaseAttestation w.num swid .badSignature now) s = .next ((c.endLease w swid c.plat.secClock 4 1).leaseTold w.num swid) ∧
    exec (.leaseAttestation w.num swid .noElement now) s = .next ((c.endLease w swid c.plat.secClock 4 3).leaseTold w.num swid) ∧
    exec (.leaseAttestation w.num swid .busy now) s = .next (if (w.lease swid).st = 0 then
      ((c.arm (.leaseBusyRetry w.num swid)).setLease w.num swid fun l => { l with st := 1 }).tellLease w.num swid
      else c.arm (.leaseBusyRetry w.num swid)) := by
  intro c
  have hexec : ∀ o, exec (.leaseAttestation w.num swid o now) s = execLeaseAttestation w.num swid o now s := fun _ => rfl
  simp only [hexec]
  unfold execLeaseAttestation
  rw [hw]
  have haut : ¬ (!w.isAuthority) = true := by simp [ha]
  exact ⟨fun report => if_neg haut, if_neg haut, if_neg haut, (if_neg haut).trans (apply_ite Host.Outcome.next _ _ _).symm⟩

/-- A report is judged: against the approved measurements, and against the last one of a lease that runs. -/
theorem report_judged (c : State) (w : World) (swid t : Nat) (report : List (Nat × Nat)) :
    let l := w.lease swid
    let judged := fun (x : State) => (x.setLease w.num swid fun y => { y with report }).devTouch w.num w.fab.appr (64 * w.fab.nappr)
    (c.matching w report = false → c.judgeReport w swid t report = judged (c.endLease w swid t 4 2)) ∧
    (c.matching w report = true → l.st = 2 → t < l.expiry → l.report ≠ report →
      c.judgeReport w swid t report = judged (c.endLease w swid t 3 0)) ∧
    (c.matching w report = true → l.st ≠ 2 ∨ l.expiry ≤ t ∨ l.report = report →
      c.judgeReport w swid t report = judged (c.grantLease w swid t)) := by
  intro l judged
  unfold State.judgeReport
  refine ⟨fun hm => congrArg judged (if_pos (by rw [hm]; rfl)), fun hm hst ht hr => congrArg judged ((if_neg ?_).trans (if_pos ?_)),
    fun hm ho => congrArg judged ((if_neg ?_).trans (if_neg ?_))⟩
  · simp [hm]
  · simp only [show (w.lease swid).st = 2 from hst, lsLeased, bne_iff_ne, ne_eq, Bool.and_eq_true, decide_eq_true_eq, true_and]
    exact ⟨ht, hr⟩
  · simp [hm]
  · simp only [bne_iff_ne, ne_eq, Bool.and_eq_true, decide_eq_true_eq]
    rintro ⟨⟨hst, ht⟩, hr⟩
    obtain h | h | h := ho
    · exact h hst
    · exact absurd ht (Nat.not_lt.2 h)
    · exact hr h

theorem matching_none_approved {c : State} {w : World} (h : w.fab.nappr = 0) (report : List (Nat × Nat)) : c.matching w report = true := by
  unfold State.matching State.approved
  rw [if_pos h]
  rfl

/-- A switch matches when it reports every approved measurement. -/
theorem matching_iff {c : State} {w : World} {table : List Byte} (h : w.fab.nappr ≠ 0)
    (ht : c.devRead w.num w.fab.appr (64 * w.fab.nappr) = some table) (report : List (Nat × Nat)) :
    c.matching w report = true ↔ ∀ b ∈ entriesOf 64 table, (leNat (b.take 1), leNat ((b.drop 16).take 48)) ∈ report := by
  unfold State.matching State.approved
  rw [if_neg h, ht]
  simp [List.all_eq_true]

theorem clockTo_le (s : State) (now : Nat) : now ≤ (s.clockTo now).plat.secClock ∧ s.plat.secClock ≤ (s.clockTo now).plat.secClock := by
  show now ≤ (if s.plat.secClock < now then now else _) ∧ _ ≤ if s.plat.secClock < now then now else _
  split <;> omega

/-- A lease that runs goes on under its number; any other is granted anew, with a new key (R416, R417). -/
theorem lease_granted (s : State) (w : World) (swid t : Nat) :
    let l := w.lease swid
    (l.st = 2 → t < l.expiry → s.grantLease w swid t = s.setLease w.num swid fun l => { l with expiry := t + 1000 * w.fab.leasems }) ∧
    (l.st ≠ 2 ∨ l.expiry ≤ t → s.grantLease w swid t = ((s.onWorld w.num fun w' => { w' with
      fab := { w'.fab with lastLease := w.fab.lastLease + 1 } }).setLease w.num swid fun l => { l with
        st := 2
        reason := 0
        leaseNo := w.fab.lastLease + 1
        expiry := t + 1000 * w.fab.leasems
        keys := l.keys ++ [w.fab.lastLease + 1] }).send (.leaseKey w.num swid (w.fab.lastLease + 1))) := by
  intro l
  unfold State.grantLease
  refine ⟨fun hst ht => if_pos ?_, fun ho => if_neg ?_⟩
  · simp only [Bool.and_eq_true, decide_eq_true_eq]
    exact ⟨hst, ht⟩
  · simp only [Bool.and_eq_true, decide_eq_true_eq]
    rintro ⟨hst, ht⟩
    obtain h | h := ho
    · exact h hst
    · exact absurd ht (Nat.not_lt.2 h)

/-! ## Timers of a lease (R417, R418) -/

theorem renewal_due {s : State} {w : World} {swid : Nat} (hw : s.world w.num = some w) (ha : w.isAuthority = true) :
    let l := w.lease swid
    (l.st = 2 → exec (.leaseRenewalDue w.num swid) s =
      .next ((s.clockTo (l.expiry - 250 * w.fab.leasems)).askSwitch w.num swid)) ∧
    (l.st = 0 → exec (.leaseRenewalDue w.num swid) s =
      .next (((s.setLease w.num swid fun l => { l with st := 1 }).tellLease w.num swid).askSwitch w.num swid)) ∧
    exec (.leaseBusyRetry w.num swid) s = .next (s.askSwitch w.num swid) := by
  intro l
  have haut : ¬ (!w.isAuthority) = true := by simp [ha]
  refine ⟨fun hst => ?_, fun hst => ?_, ?_⟩
  · show execLeaseRenewalDue w.num swid s = _
    unfold execLeaseRenewalDue
    rw [hw]
    exact (if_neg haut).trans (congrArg (fun z : State => Host.Outcome.next (z.askSwitch w.num swid)) (if_pos hst))
  · show execLeaseRenewalDue w.num swid s = _
    unfold execLeaseRenewalDue
    rw [hw]
    exact (if_neg haut).trans (congrArg (fun z : State => Host.Outcome.next (z.askSwitch w.num swid))
      ((if_neg (fun h => absurd (hst.symm.trans h) (by decide))).trans (if_pos hst)))
  · show execLeaseBusyRetry w.num swid s = _
    unfold execLeaseBusyRetry
    rw [hw]
    exact congrArg Host.Outcome.next (if_pos ha)

theorem lease_expired {s : State} {w : World} {swid : Nat} (hw : s.world w.num = some w) (h : (w.lease swid).st = 2) :
    exec (.leaseExpiry w.num swid) s = .next ((((s.clockTo (w.lease swid).expiry).setLease w.num swid fun l => { l with
      st := 3 }).timeLease w.num swid).tellLease w.num swid) := by
  show execLeaseExpiry w.num swid s = _
  unfold execLeaseExpiry
  rw [hw]
  exact if_neg (not_not_intro h)

theorem lease_keys_end {s : State} {w : World} {swid : Nat} (hw : s.world w.num = some w) (h : (w.lease swid).st ≠ 2) :
    exec (.leaseKeyGraceEnd w.num swid) s = .next (((s.clockTo ((w.lease swid).expiry + 1000000)).setLease w.num swid fun l => { l with
      keys := [] }).dropPaths w.num (w.lease swid).keys) := by
  have hst : ¬ (w.lease swid).st = lsLeased := h
  have hall : (w.lease swid).keys.filter (fun k => !([] : List Nat).contains k) = (w.lease swid).keys := by simp
  show execLeaseKeyGraceEnd w.num swid s = _
  unfold execLeaseKeyGraceEnd
  rw [hw]
  simp only [hst, if_false, hall]

/-- Settles O50: images, answers and leases by the branch of the step that the hypotheses choose. -/
theorem trust : Obligations.Trust := by
  unfold Obligations.Trust
  refine ⟨?_, fun _ _ _ => rfl, ?_, fun _ _ => ⟨rfl, rfl, rfl, rfl, rfl, rfl, rfl⟩, ?_, ?_, fun s => measurement_block s, ?_, ?_,
    fun s w swid t => lease_granted s w swid t, ?_, fun _ _ _ _ _ _ _ _ => rfl⟩
  · intro s c target svn digest ecdsaOk hssOk live ok run
    have h := firmware_activated (s := s) (c := c) (target := target) (svn := svn) (ecdsaOk := ecdsaOk) (hssOk := hssOk) digest live
    refine ⟨h.1, fun hok hl => ?_, fun hok hl hc => ?_⟩
    · exact (h.2 hok (fun ht => absurd (hl.symm.trans ht) (by decide))).trans (if_neg (by simp [hl]))
    · exact (h.2 hok (fun _ => hc)).trans (if_pos hl)
  · intro s v session slot nonce index signed supported verified code hv i hi
    simp only [List.mem_cons, List.not_mem_nil, or_false] at hi
    obtain rfl | rfl | rfl | rfl | rfl | rfl | rfl | rfl | rfl | rfl | rfl | rfl | rfl := hi <;> exact congrArg Host.Outcome.next (if_neg hv)
  · intro s nonce
    refine ⟨fun hused hact i hi => ?_, fun hused => ?_⟩
    · simp only [List.mem_cons, List.not_mem_nil, or_false] at hi
      obtain rfl | rfl | rfl := hi
      · exact (spdm_signed s nonce).1.trans (congrArg Host.Outcome.next (signed_refused hused _))
      · exact (measurements_signed hact (.inl (by decide)) nonce).trans (congrArg Host.Outcome.next (signed_refused hused _))
      · exact (spdm_signed s nonce).2.trans (congrArg Host.Outcome.next (signed_refused hused _))
    · intro used element
      exact ⟨(spdm_signed s nonce).1.trans (congrArg Host.Outcome.next (signed_answered hused _)),
        (spdm_signed s nonce).2.trans (congrArg Host.Outcome.next (signed_answered hused _)),
        fun index hact hi => (measurements_signed hact hi nonce).trans (congrArg Host.Outcome.next (signed_answered hused _))⟩
  · intro s index signed nonce
    exact ⟨fun ha => congrArg Host.Outcome.next (if_pos ha), fun ha hi => measurements_unsigned ha hi nonce⟩
  · intro s session closed
    refine ⟨fun h => ?_, fun h i hi => ?_⟩
    · have ho : ∀ serve : State → State, s.spdm13 0x13 (fun s => s.inSession session serve) = .next (serve s) := fun serve =>
        congrArg Host.Outcome.next ((if_pos rfl).trans (inSession_open h serve))
      exact ⟨ho _, ho _, ho _, ho _, ho _⟩
    · simp only [List.mem_cons, List.not_mem_nil, or_false] at hi
      obtain rfl | rfl | rfl | rfl | rfl := hi <;> exact congrArg Host.Outcome.next ((if_pos rfl).trans (inSession_unknown h _))
  · intro s w swid now hw ha c t told
    obtain ⟨hreport, hbad, hnone, hbusy⟩ := lease_attested (swid := swid) (now := now) hw ha
    obtain ⟨hnow, hclock⟩ := clockTo_le s now
    refine ⟨fun report => ?_, hbad, hnone, hbusy, hnow, hclock⟩
    intro l judged answer
    obtain ⟨hno, hchanged, hsame⟩ := report_judged c w swid t report
    have hans : ∀ {z : State}, c.judgeReport w swid t report = z → answer = .next (z.leaseTold w.num swid) := fun hz =>
      hz ▸ hreport report
    exact ⟨fun hm => hans (hno hm), fun hm hst ht hr => hans (hchanged hm hst ht hr), fun hm ho => hans (hsame hm ho),
      fun hn => matching_none_approved hn _, fun table hn ht => matching_iff hn ht _⟩
  · intro s w swid hw l
    refine ⟨fun ha hst => (renewal_due hw ha).1 hst, fun ha hst => (renewal_due hw ha).2.1 hst, fun ha => (renewal_due hw ha).2.2,
      fun hst => lease_expired hw hst, fun hst => lease_keys_end hw hst⟩

end Sys2Proof.Machine
end
